-- ==== Sys2Proof/Word.lean ====
section
/-! DEFINITION. Widths of the PVB-3048 (00_scope.md R5, 06 R151): bytes, 32-bit lane words, 64-bit uniform words
and 48-bit program counters. -/

namespace Sys2Proof

/-- One byte of memory. -/
abbrev Byte := BitVec 8
/-- A lane register value (R12, R151). -/
abbrev Word := BitVec 32
/-- A uniform register value (R151). -/
abbrev DWord := BitVec 64
/-- A program counter (R30). -/
abbrev Pc := BitVec 48

end Sys2Proof
end

