-- ==== Sys2Proof/Config.lean ====
section
/-! DEFINITION. What an implementation fixes and the spec does not give. Every constant here that has no body is a
free value: nothing in Lean can evaluate it or prove a value of it. The figures with a body are the spec's own. -/

namespace Sys2Proof.Config

/-- Home die 0-3 of a physical 128-byte line: "an address hash" whose form is not given (R14, R356). Log 6. -/
opaque homeDie (line : Nat) : Nat
/-- Which set of its colour group a line of the shared cache lies in, modulo their number: not given (R109, R356). Log 6. -/
opaque l2Set (line : Nat) : Nat
/-- "the line's hash" that chooses the colour group of a line (R356). Log 6. -/
opaque colourHash (line : Nat) : Nat
/-- Whether a line of another module is present in its home slice, and the state of its HBM row, at a cycle: 0 present,
1 absent with the row open, 2 absent with the row closed (Table 10.2). Log 6. -/
opaque remoteLine (node line cycle : Nat) : Nat
/-- What the Crucible reads when it opens sealed bytes with a key (R89, R91, R348). Log 9. -/
opaque openWord (key serial : Nat) (bytes : List Byte) : Nat
/-- H of the routing entry of one node for another, in a module other than this one: "no member reads the others' tables" (R289).
Log 6. -/
opaque otherHops (node dest : Nat) : Nat
/-- A byte of memory written under one memory key, as an access under another key reads it: AES-256-XTS with the wrong key (R344). Log 105. -/
opaque otherKey (written read addr : Nat) (b : Byte) : Byte
/-- H of a communicator that has no member but rank 0: the largest of no hop counts (R289). Log 6. -/
opaque soloHops : Nat
/-- HBM stack of a line: not given (R349, R432). Log 6. -/
opaque stackOf (line : Nat) : Nat
/-- Which divisor of the lines of a colour group is the number of ways of a set: not given (R109). Log 6. -/
opaque l2Ways : Nat
/-- Lines of 128 bytes in a colour group: a 64th of a slice of 96 MiB (R13, R356). -/
def l2GroupLines : Nat := 12288
/-- Ways of a set: the sets of a group are alike, so their number divides its lines (R13). -/
def l2WayCount : Nat :=
  let ds := (List.range l2GroupLines).filterMap fun i => if l2GroupLines % (i + 1) = 0 then some (i + 1) else none
  (ds[l2Ways % ds.length]?).getD 1
/-- Index of the set of a line within its colour group. -/
def l2Index (line : Nat) : Nat := l2Set line % (l2GroupLines / l2WayCount)
/-- Whether the HBM row of a line is open at a cycle: not given (R21, Table 10.2). Log 6. -/
opaque rowOpen (line cycle : Nat) : Bool
/-- Cycles of the `n`-th host access: "not fixed by the device" (Table 10.2). Log 6. -/
opaque hostCycles (n : Nat) : Nat
/-- What the translation service reads out of a page-table entry, as one number the fields of which
`Sys2Proof.Machine.pteOf` names: the bit layout of an entry is not given (R122, R333, R417). Log 7. -/
opaque pteWord (e : DWord) : Nat
/-- Whether a signature over the given bytes verifies under the key of the given owner (R345, R355). Log 9. -/
opaque sigOk (owner : Nat) (bytes : List Byte) : Bool
/-- Whether wrapped keys unwrap under an ephemeral key (R347). Log 9. -/
opaque keysOk (ephemeral : Nat) (bytes : List Byte) : Bool
/-- What unwraps: the memory key (0) or the save key (1), as a number that names it (R347). Log 103. -/
opaque unwrapped (which ephemeral : Nat) (bytes : List Byte) : Nat
/-- Byte `i` of SHA-512 over some bytes (R354). Log 9. -/
opaque sha512 (bytes : List Byte) (i : Nat) : Byte
/-- The device identity key as a number that names it (R343). Log 103. -/
opaque identityKey : Nat
/-- Byte `i` of a signature of some bytes by a key: "r then s", ECDSA P-521 (R354). Log 9. -/
opaque signByte (key : Nat) (bytes : List Byte) (i : Nat) : Byte
/-- Byte `i` of the Crucible's firmware digest (R354). Log 9. -/
opaque firmwareByte (i : Nat) : Byte
/-- Byte `i` of the device serial number (R354). Log 9. -/
opaque serialByte (i : Nat) : Byte
/-- Byte `i` of the public half of an ephemeral key (R354). Log 9. -/
opaque publicByte (ephemeral i : Nat) : Byte
/-- Byte `i` of what the Crucible seals or signs for a purpose, of a plaintext taken as one number: the bytes of
AES-256-GCM and ECDSA outputs under keys that "no register, packet or command reads" (R343). Log 9. -/
opaque sealByte (purpose key serial plain i : Nat) : Byte
/-- Whether sealed bytes verify under a key (R91). Log 9. -/
opaque sealOk (key serial : Nat) (bytes : List Byte) : Bool
/-- SOURCE and DATA of the `n`-th event of a kind to which the spec gives no such layout (R330, R351, R357). Log 28. -/
opaque eventSource (n : Nat) : Nat
opaque eventData (n : Nat) : Nat
/-- What the Crucible reads out of a policy block, as one number the fields of which `Sys2Proof.Machine.readPolicy` names: the layout of the
block is not given (R345). Log 9. -/
opaque policyWord (bytes : List Byte) : Nat
/-- Byte `i` of an eviction blob opened: its layout is not given (R352). Log 9. -/
opaque blobByte (handle i : Nat) : Byte
/-- Bytes of the blob of a handle, whose size the spec does not give (R352). Log 9. -/
opaque blobSize (handle : Nat) : Nat
/-- Cycles in which a copy engine copies the `n`-th page of a slice move: not given (R358). Log 6. -/
opaque pageCycles (n : Nat) : Nat
/-- Bits [7:0] of DEVID, the stepping: not given (R330). Log 10. -/
opaque stepping : Byte
/-- Physical cores of the module (R13). -/
def cores : Nat := 1152
/-- Bytes of a core's unified store (R15). -/
def storeBytes : Nat := 0xC0000
/-- Cycles of a tick (R18). -/
def tick : Nat := 7
/-- Ejected-thread limit in ticks (R382). -/
def ejlim : Nat := 0x10000
/-- Ticks after which a request is declared lost (R390). -/
def lostTicks : Nat := 0x100000

/-! Latencies of Table 1.4 (R21). -/

/-- Integer lane operation. -/
def latInt : Nat := 4
/-- FP32 add or multiply. -/
def latFp : Nat := 5
/-- FP32 fused multiply-add. -/
def latFma : Nat := 6
/-- Special-function result. -/
def latSfu : Nat := 18
/-- Shuffle. -/
def latShfl : Nat := 8
/-- Lane reduction or scan. -/
def latRed : Nat := 14
/-- Own store through the aperture. -/
def latOwn : Nat := 12
/-- Store of another core of the cluster. -/
def latWindow : Nat := 40
/-- Private L1 hit. -/
def latL1 : Nat := 24
/-- Fused L1 hit. -/
def latFused : Nat := 32
/-- Same-die shared-cache hit. -/
def latSame : Nat := 160
/-- Other-die shared-cache hit. -/
def latOther : Nat := 240
/-- HBM with its row open. -/
def latOpen : Nat := 480
/-- HBM with its row closed. -/
def latClosed : Nat := 560
/-- One fabric hop. -/
def latHop : Nat := 1900
/-- Instruction-cache miss to the shared cache. -/
def latFetch : Nat := 170
/-- One arbitration round (R23). -/
def round : Nat := 8

end Sys2Proof.Config
end

