-- ==== Sys2Proof/Syntax.lean ====
section
/-! DEFINITION. Syntax of the PVB-3048 model: one constructor of `Instr` for each row of
spec/opcode_table.json. The first 205 rows are the encodings of 07_encoding_and_assembly.md (R183, R184, R186);
their arguments are the fields the table names, each as wide as the table gives it. The other 103 rows are the
steps of the machine and the acts of its surroundings that have no encoding (95_what_each_step_holds.md); what such a
step is about, its subject, stands in the state (log 1). -/

namespace Sys2Proof

/-- The rows of spec/opcode_table.json. `s` of a 32-bit form is the switch marker S (R171). -/
inductive Instr where
  /-- MOV (R183): 16-bit move of xs into xd, the same as or d, s, s. -/
  | mov (s : BitVec 5) (d : BitVec 5)
  /-- LI5 (R183): 16-bit load of a signed 5-bit immediate into xd. -/
  | li5 (i : BitVec 5) (d : BitVec 5)
  /-- ADD16 (R183): 16-bit form of add d, d, s. -/
  | add16 (s : BitVec 5) (d : BitVec 5)
  /-- SUB16 (R183): 16-bit form of sub d, d, s. -/
  | sub16 (s : BitVec 5) (d : BitVec 5)
  /-- MUL16 (R183): 16-bit form of mul d, d, s. -/
  | mul16 (s : BitVec 5) (d : BitVec 5)
  /-- AND16 (R183): 16-bit form of and d, d, s. -/
  | and16 (s : BitVec 5) (d : BitVec 5)
  /-- OR16 (R183): 16-bit form of or d, d, s. -/
  | or16 (s : BitVec 5) (d : BitVec 5)
  /-- XOR16 (R183): 16-bit form of xor d, d, s. -/
  | xor16 (s : BitVec 5) (d : BitVec 5)
  /-- SHL16 (R183): 16-bit form of shli d, d, n. -/
  | shl16 (n : BitVec 5) (d : BitVec 5)
  /-- SRL16 (R183): 16-bit form of srli d, d, n. -/
  | srl16 (n : BitVec 5) (d : BitVec 5)
  /-- SRA16 (R183): 16-bit form of srai d, d, n. -/
  | sra16 (n : BitVec 5) (d : BitVec 5)
  /-- FADD16 (R183): 16-bit form of fadd d, d, s. -/
  | fadd16 (s : BitVec 5) (d : BitVec 5)
  /-- FSUB16 (R183): 16-bit form of fsub d, d, s. -/
  | fsub16 (s : BitVec 5) (d : BitVec 5)
  /-- FMUL16 (R183): 16-bit form of fmul d, d, s. -/
  | fmul16 (s : BitVec 5) (d : BitVec 5)
  /-- FMAX16 (R183): 16-bit form of fmax d, d, s. -/
  | fmax16 (s : BitVec 5) (d : BitVec 5)
  /-- FMIN16 (R183): 16-bit form of fmin d, d, s. -/
  | fmin16 (s : BitVec 5) (d : BitVec 5)
  /-- NOP (R212): Issues and then idles the quadrant for n cycles. -/
  | nop (n : BitVec 4) (s : BitVec 1)
  /-- EXIT (R213): Ends every active thread after the warp parks and all slot counters reach zero. -/
  | exit
  /-- YIELD (R214): Ends the run and lets every other ready warp of the quadrant issue first. -/
  | yield
  /-- RET (R207): Pops one call-stack entry per lane and transfers to it. -/
  | ret
  /-- TRL (R177): Replaces the run's trl mask of deferred slots tested at the switch marker. -/
  | trl (m : BitVec 3) (s : BitVec 1)
  /-- RJN (R211): Rejoin point of tag t: merges split paths and waits for ejected threads. -/
  | rjn (t : BitVec 4)
  /-- BRK (R229): Enters the trap handler with cause BRK and the code in TRAPAUX. -/
  | brk (c : BitVec 16)
  /-- HALT (R231): Halts the whole launch as a fatal fault with cause HALT. -/
  | halt
  /-- BR (R203): Unconditional branch of every active lane. -/
  | br (o : BitVec 24)
  /-- BRP (R35): Conditional branch on sense 1 that falls through, branches, ejects a minority, splits or forces a reform. -/
  | brp (o : BitVec 16) (t : BitVec 4) (p : BitVec 3)
  /-- BRP_F (R35): Conditional branch on sense 0 with the outcomes of Table 2.2. -/
  | brpF (o : BitVec 16) (t : BitVec 4) (p : BitVec 3)
  /-- CALL (R206): Pushes a return address on each lane's call stack and transfers. -/
  | call (o : BitVec 24)
  /-- BRX (R208): Indirect branch to each lane's register-pair target, filing lanes with differing targets. -/
  | brx (a : BitVec 7)
  /-- CALLX (R206): Indirect call to each lane's register-pair target. -/
  | callx (a : BitVec 7)
  /-- RFM (R209): Files every active thread into reform bins keyed by unit and target with a live count. -/
  | rfm (o : BitVec 16) (l : BitVec 7)
  /-- WAIT_ANY (R216): Parks the warp until any of four conditions is met or the time-out ends. -/
  | waitAny (b : BitVec 6) (a : BitVec 6) (d : BitVec 6)
  /-- WAIT_ALL (R216): Parks the warp until all four conditions are met in one cycle or the time-out ends. -/
  | waitAll (b : BitVec 6) (a : BitVec 6) (d : BitVec 6)
  /-- BAR_ARV (R218): Each active thread arrives at a named barrier without waiting. -/
  | barArv (c : BitVec 12) (b : BitVec 9) (s : BitVec 1)
  /-- BAR_WT (R218): Waits for completion of the bound phase of a named barrier without arriving. -/
  | barWt (c : BitVec 12) (b : BitVec 9)
  /-- BAR_SYN (R218): Arrives at a named barrier and waits for the phase to complete. -/
  | barSyn (c : BitVec 12) (b : BitVec 9)
  /-- GBAR (R220): Launch-wide barrier with device-scope release and acquire. -/
  | gbar
  /-- SPAWN (R221): Pushes one continuation record image to a hearth queue. -/
  | spawn (a : BitVec 6) (s : BitVec 1)
  /-- JDEC (R223): Atomically decrements the JOIN field of a record at device scope with release. -/
  | jdec (a : BitVec 6) (s : BitVec 1)
  /-- CANCEL (R224): Cancels the instance named by a handle and every instance below it. -/
  | cancel (a : BitVec 6) (s : BitVec 1)
  /-- RDSR (R225): Reads a special register into xd of each active lane. -/
  | rdsr (r : BitVec 6) (d : BitVec 7) (s : BitVec 1)
  /-- WRSR (R226): Writes a writable special register from xa. -/
  | wrsr (r : BitVec 6) (a : BitVec 7) (s : BitVec 1)
  /-- MODE (R227): Sets MODE.RM of each active thread. -/
  | mode (m : BitVec 2) (s : BitVec 1)
  /-- TRAP (R229): Enters the trap handler with cause SWTRAP and the code in TRAPAUX. -/
  | trap (c : BitVec 16)
  /-- TRET (R230): Clears the in-handler mark and returns each thread to its saved return address. -/
  | tret
  /-- KADD (R233): Uniform 64-bit add of a register or immediate. -/
  | kadd (i : BitVec 1) (b : BitVec 6) (a : BitVec 6) (d : BitVec 6) (s : BitVec 1)
  /-- KSUB (R233): Uniform 64-bit subtract. -/
  | ksub (i : BitVec 1) (b : BitVec 6) (a : BitVec 6) (d : BitVec 6) (s : BitVec 1)
  /-- KMOV (R233): Uniform register move. -/
  | kmov (a : BitVec 6) (d : BitVec 6) (s : BitVec 1)
  /-- KMOV_IMM (R233): Uniform move of a 6-bit immediate. -/
  | kmovImm (i : BitVec 6) (d : BitVec 6) (s : BitVec 1)
  /-- KSHL (R233): Uniform 64-bit shift left. -/
  | kshl (i : BitVec 1) (b : BitVec 6) (a : BitVec 6) (d : BitVec 6) (s : BitVec 1)
  /-- KAND (R233): Uniform 64-bit AND. -/
  | kand (i : BitVec 1) (b : BitVec 6) (a : BitVec 6) (d : BitVec 6) (s : BitVec 1)
  /-- KOR (R233): Uniform 64-bit OR. -/
  | kor (i : BitVec 1) (b : BitVec 6) (a : BitVec 6) (d : BitVec 6) (s : BitVec 1)
  /-- KCMP (R233): Uniform comparison giving 1 or 0. -/
  | kcmp (c : BitVec 3) (b : BitVec 6) (a : BitVec 6) (d : BitVec 6) (s : BitVec 1)
  /-- KLD (R234): Moves a lane-0 register value into a uniform register. -/
  | kld (k : BitVec 6) (x : BitVec 7) (s : BitVec 1)
  /-- KLD_LANE (R234): Moves the register value of lane n into a uniform register. -/
  | kldLane (n : BitVec 5) (k : BitVec 6) (x : BitVec 7) (s : BitVec 1)
  /-- MOVK (R234): Writes the low word of a uniform register into x of every active lane. -/
  | movk (k : BitVec 6) (x : BitVec 7) (s : BitVec 1)
  /-- MOVK_H (R234): Writes the high word of a uniform register into x of every active lane. -/
  | movkH (k : BitVec 6) (x : BitVec 7) (s : BitVec 1)
  /-- KLI (R235): Writes a 16-bit immediate into one 16-bit field of a uniform register. -/
  | kli (i : BitVec 16) (h : BitVec 2) (d : BitVec 6) (s : BitVec 1)
  /-- ADD (R243): 32-bit integer add modulo 2^32. -/
  | add (b : BitVec 7) (a : BitVec 7) (d : BitVec 7) (s : BitVec 1)
  /-- SUB (R243): 32-bit integer subtract. -/
  | sub (b : BitVec 7) (a : BitVec 7) (d : BitVec 7) (s : BitVec 1)
  /-- AND (R243): Bitwise AND. -/
  | and (b : BitVec 7) (a : BitVec 7) (d : BitVec 7) (s : BitVec 1)
  /-- OR (R243): Bitwise OR. -/
  | or (b : BitVec 7) (a : BitVec 7) (d : BitVec 7) (s : BitVec 1)
  /-- XOR (R243): Bitwise XOR. -/
  | xor (b : BitVec 7) (a : BitVec 7) (d : BitVec 7) (s : BitVec 1)
  /-- ANDN (R243): a AND NOT b. -/
  | andn (b : BitVec 7) (a : BitVec 7) (d : BitVec 7) (s : BitVec 1)
  /-- MIN (R243): Signed 32-bit minimum. -/
  | min (b : BitVec 7) (a : BitVec 7) (d : BitVec 7) (s : BitVec 1)
  /-- MAX (R243): Signed 32-bit maximum. -/
  | max (b : BitVec 7) (a : BitVec 7) (d : BitVec 7) (s : BitVec 1)
  /-- SHL (R243): Shift left by a register count, 0 for counts of 32 or more. -/
  | shl (b : BitVec 7) (a : BitVec 7) (d : BitVec 7) (s : BitVec 1)
  /-- SRL (R243): Logical shift right by a register count. -/
  | srl (b : BitVec 7) (a : BitVec 7) (d : BitVec 7) (s : BitVec 1)
  /-- SRA (R243): Arithmetic shift right by a register count. -/
  | sra (b : BitVec 7) (a : BitVec 7) (d : BitVec 7) (s : BitVec 1)
  /-- ROL (R243): Rotate left by b[4:0]. -/
  | rol (b : BitVec 7) (a : BitVec 7) (d : BitVec 7) (s : BitVec 1)
  /-- MUL (R243): Low 32 bits of the product. -/
  | mul (b : BitVec 7) (a : BitVec 7) (d : BitVec 7) (s : BitVec 1)
  /-- MULH (R243): High 32 bits of the signed product. -/
  | mulh (b : BitVec 7) (a : BitVec 7) (d : BitVec 7) (s : BitVec 1)
  /-- MULHN (R243): High 32 bits of the unsigned product. -/
  | mulhn (b : BitVec 7) (a : BitVec 7) (d : BitVec 7) (s : BitVec 1)
  /-- ABS (R243): Absolute value of a signed 32-bit value. -/
  | abs (a : BitVec 7) (d : BitVec 7) (s : BitVec 1)
  /-- ADDI (R246): Add of a sign-extended 10-bit immediate. -/
  | addi (i : BitVec 10) (a : BitVec 7) (d : BitVec 7) (s : BitVec 1)
  /-- ANDI (R246): AND with a 7-bit zero-extended immediate. -/
  | andi (i : BitVec 7) (a : BitVec 7) (d : BitVec 7) (s : BitVec 1)
  /-- ORI (R246): OR with a 7-bit immediate. -/
  | ori (i : BitVec 7) (a : BitVec 7) (d : BitVec 7) (s : BitVec 1)
  /-- XORI (R246): XOR with a 7-bit immediate. -/
  | xori (i : BitVec 7) (a : BitVec 7) (d : BitVec 7) (s : BitVec 1)
  /-- SHLI (R246): Shift left by an immediate count 0-31. -/
  | shli (n : BitVec 5) (a : BitVec 7) (d : BitVec 7) (s : BitVec 1)
  /-- SRLI (R246): Logical shift right by an immediate count. -/
  | srli (n : BitVec 5) (a : BitVec 7) (d : BitVec 7) (s : BitVec 1)
  /-- SRAI (R246): Arithmetic shift right by an immediate count. -/
  | srai (n : BitVec 5) (a : BitVec 7) (d : BitVec 7) (s : BitVec 1)
  /-- LI (R247): Writes a sign-extended 16-bit immediate. -/
  | li (i : BitVec 16) (d : BitVec 7) (s : BitVec 1)
  /-- LIH (R247): Writes the high half of xd, keeping the low half. -/
  | lih (i : BitVec 16) (d : BitVec 7) (s : BitVec 1)
  /-- ICMP_EQ (R248): Sets a predicate on equality. -/
  | icmpEq (b : BitVec 7) (a : BitVec 7) (p : BitVec 3) (s : BitVec 1)
  /-- ICMP_NE (R248): Sets a predicate on inequality. -/
  | icmpNe (b : BitVec 7) (a : BitVec 7) (p : BitVec 3) (s : BitVec 1)
  /-- ICMP_LT (R248): Sets a predicate on signed less-than. -/
  | icmpLt (b : BitVec 7) (a : BitVec 7) (p : BitVec 3) (s : BitVec 1)
  /-- ICMP_LE (R248): Sets a predicate on signed less-or-equal. -/
  | icmpLe (b : BitVec 7) (a : BitVec 7) (p : BitVec 3) (s : BitVec 1)
  /-- ICMP_LTN (R248): Sets a predicate on unsigned less-than. -/
  | icmpLtn (b : BitVec 7) (a : BitVec 7) (p : BitVec 3) (s : BitVec 1)
  /-- ICMP_LEN (R248): Sets a predicate on unsigned less-or-equal. -/
  | icmpLen (b : BitVec 7) (a : BitVec 7) (p : BitVec 3) (s : BitVec 1)
  /-- SEL (R249): Writes xa where the predicate is set, otherwise keeps xd. -/
  | sel (q : BitVec 3) (a : BitVec 7) (d : BitVec 7) (s : BitVec 1)
  /-- PAND (R249): Predicate AND. -/
  | pand (b : BitVec 3) (a : BitVec 3) (d : BitVec 3) (s : BitVec 1)
  /-- POR (R249): Predicate OR. -/
  | por (b : BitVec 3) (a : BitVec 3) (d : BitVec 3) (s : BitVec 1)
  /-- PXOR (R249): Predicate XOR. -/
  | pxor (b : BitVec 3) (a : BitVec 3) (d : BitVec 3) (s : BitVec 1)
  /-- PNOT (R249): Predicate NOT. -/
  | pnot (a : BitVec 3) (d : BitVec 3) (s : BitVec 1)
  /-- PMOV (R249): Predicate move. -/
  | pmov (a : BitVec 3) (d : BitVec 3) (s : BitVec 1)
  /-- CLZ (R243): Counts leading zero bits. -/
  | clz (a : BitVec 7) (d : BitVec 7) (s : BitVec 1)
  /-- POPC (R243): Counts one bits. -/
  | popc (a : BitVec 7) (d : BitVec 7) (s : BitVec 1)
  /-- BREV (R243): Reverses the bit order. -/
  | brev (a : BitVec 7) (d : BitVec 7) (s : BitVec 1)
  /-- BFE (R244): Extracts a bit field. -/
  | bfe (b : BitVec 7) (a : BitVec 7) (d : BitVec 7) (s : BitVec 1)
  /-- BFI (R244): Inserts a bit field into the old xd. -/
  | bfi (b : BitVec 7) (a : BitVec 7) (d : BitVec 7) (s : BitVec 1)
  /-- LEA (R245): 64-bit address pair plus a sign-extended offset. -/
  | lea (b : BitVec 7) (a : BitVec 7) (d : BitVec 7) (s : BitVec 1)
  /-- FADD (R251): FP32 add rounded by MODE.RM. -/
  | fadd (b : BitVec 7) (a : BitVec 7) (d : BitVec 7) (s : BitVec 1)
  /-- FSUB (R251): FP32 subtract. -/
  | fsub (b : BitVec 7) (a : BitVec 7) (d : BitVec 7) (s : BitVec 1)
  /-- FMUL (R251): FP32 multiply. -/
  | fmul (b : BitVec 7) (a : BitVec 7) (d : BitVec 7) (s : BitVec 1)
  /-- FMIN (R251): FP32 minimum with NaN and signed-zero rules. -/
  | fmin (b : BitVec 7) (a : BitVec 7) (d : BitVec 7) (s : BitVec 1)
  /-- FMAX (R251): FP32 maximum. -/
  | fmax (b : BitVec 7) (a : BitVec 7) (d : BitVec 7) (s : BitVec 1)
  /-- FABS (R251): Clears the sign of an FP32 value. -/
  | fabs (a : BitVec 7) (d : BitVec 7) (s : BitVec 1)
  /-- FNEG (R251): Inverts the sign of an FP32 value. -/
  | fneg (a : BitVec 7) (d : BitVec 7) (s : BitVec 1)
  /-- FCMP (R252): FP32 comparison setting a predicate. -/
  | fcmp (b : BitVec 7) (a : BitVec 7) (c : BitVec 4) (p : BitVec 3) (s : BitVec 1)
  /-- FFMA (R251): Fused a times b plus d, one rounding. -/
  | ffma (b : BitVec 7) (a : BitVec 7) (d : BitVec 7) (s : BitVec 1)
  /-- FFMS (R251): Fused a times b minus d. -/
  | ffms (b : BitVec 7) (a : BitVec 7) (d : BitVec 7) (s : BitVec 1)
  /-- FNMA (R251): Fused minus a times b plus d. -/
  | fnma (b : BitVec 7) (a : BitVec 7) (d : BitVec 7) (s : BitVec 1)
  /-- HADD2 (R254): Packed FP16 add. -/
  | hadd2 (b : BitVec 7) (a : BitVec 7) (d : BitVec 7) (s : BitVec 1)
  /-- HMUL2 (R254): Packed FP16 multiply. -/
  | hmul2 (b : BitVec 7) (a : BitVec 7) (d : BitVec 7) (s : BitVec 1)
  /-- HFMA2 (R254): Packed FP16 fused multiply-add. -/
  | hfma2 (b : BitVec 7) (a : BitVec 7) (d : BitVec 7) (s : BitVec 1)
  /-- BADD2 (R254): Packed BF16 add. -/
  | badd2 (b : BitVec 7) (a : BitVec 7) (d : BitVec 7) (s : BitVec 1)
  /-- BMUL2 (R254): Packed BF16 multiply. -/
  | bmul2 (b : BitVec 7) (a : BitVec 7) (d : BitVec 7) (s : BitVec 1)
  /-- BFMA2 (R254): Packed BF16 fused multiply-add. -/
  | bfma2 (b : BitVec 7) (a : BitVec 7) (d : BitVec 7) (s : BitVec 1)
  /-- CVT (R256): Converts xa from type ST to type DT under an overflow policy. -/
  | cvt (t : BitVec 4) (u : BitVec 4) (o : BitVec 2) (a : BitVec 7) (d : BitVec 7) (s : BitVec 1)
  /-- EXP2 (R258): Table-interpolated base-2 exponential. -/
  | exp2 (a : BitVec 7) (d : BitVec 7) (s : BitVec 1)
  /-- LOG2 (R258): Table-interpolated base-2 logarithm. -/
  | log2 (a : BitVec 7) (d : BitVec 7) (s : BitVec 1)
  /-- RCP (R258): Table-interpolated reciprocal. -/
  | rcp (a : BitVec 7) (d : BitVec 7) (s : BitVec 1)
  /-- RSQRT (R258): Table-interpolated reciprocal square root. -/
  | rsqrt (a : BitVec 7) (d : BitVec 7) (s : BitVec 1)
  /-- SQRT (R258): Table-interpolated square root. -/
  | sqrt (a : BitVec 7) (d : BitVec 7) (s : BitVec 1)
  /-- TANH (R258): Table-interpolated hyperbolic tangent. -/
  | tanh (a : BitVec 7) (d : BitVec 7) (s : BitVec 1)
  /-- LGS (R258): Table-interpolated logistic function. -/
  | lgs (a : BitVec 7) (d : BitVec 7) (s : BitVec 1)
  /-- GACT_LGS (R259): Gated logistic g times lgs(a). -/
  | gactLgs (b : BitVec 7) (a : BitVec 7) (d : BitVec 7) (s : BitVec 1)
  /-- GACT_TANH (R259): Gated tanh g times tanh(a). -/
  | gactTanh (b : BitVec 7) (a : BitVec 7) (d : BitVec 7) (s : BitVec 1)
  /-- GACT_ALGS (R259): Gated g times a times lgs(a). -/
  | gactAlgs (b : BitVec 7) (a : BitVec 7) (d : BitVec 7) (s : BitVec 1)
  /-- FRND (R253): Rounds to an integral FP32 value in a selected direction. -/
  | frnd (r : BitVec 7) (a : BitVec 7) (d : BitVec 7) (s : BitVec 1)
  /-- FCLS (R253): Writes a one-hot class mask of an FP32 value. -/
  | fcls (a : BitVec 7) (d : BitVec 7) (s : BitVec 1)
  /-- FEXP (R253): Writes the unbiased exponent as an i32. -/
  | fexp (a : BitVec 7) (d : BitVec 7) (s : BitVec 1)
  /-- FSCL (R253): Scales by a power of two. -/
  | fscl (b : BitVec 7) (a : BitVec 7) (d : BitVec 7) (s : BitVec 1)
  /-- SHFL_IDX (R261): Reads xa from an indexed source lane. -/
  | shflIdx (b : BitVec 7) (a : BitVec 7) (d : BitVec 7) (s : BitVec 1)
  /-- SHFL_UP (R261): Reads xa from a lower lane. -/
  | shflUp (b : BitVec 7) (a : BitVec 7) (d : BitVec 7) (s : BitVec 1)
  /-- SHFL_DOWN (R261): Reads xa from a higher lane. -/
  | shflDown (b : BitVec 7) (a : BitVec 7) (d : BitVec 7) (s : BitVec 1)
  /-- SHFL_XOR (R261): Reads xa from the lane L XOR v. -/
  | shflXor (b : BitVec 7) (a : BitVec 7) (d : BitVec 7) (s : BitVec 1)
  /-- VOTE_ANY (R262): 1 when a predicate is set in some active lane. -/
  | voteAny (p : BitVec 3) (d : BitVec 7) (s : BitVec 1)
  /-- VOTE_ALL (R262): 1 when a predicate is set in every active lane. -/
  | voteAll (p : BitVec 3) (d : BitVec 7) (s : BitVec 1)
  /-- VOTE_BAL (R262): Mask of active lanes whose predicate is set. -/
  | voteBal (p : BitVec 3) (d : BitVec 7) (s : BitVec 1)
  /-- VOTE_CNT (R262): Count of active lanes whose predicate is set. -/
  | voteCnt (p : BitVec 3) (d : BitVec 7) (s : BitVec 1)
  /-- VOTE_MATCH (R262): Mask of active lanes holding the same value. -/
  | voteMatch (a : BitVec 7) (d : BitVec 7) (s : BitVec 1)
  /-- LRED_ADD (R263): Pairwise-tree sum over the warp. -/
  | lredAdd (t : BitVec 2) (a : BitVec 7) (d : BitVec 7) (s : BitVec 1)
  /-- LRED_MAX (R263): Maximum over the warp. -/
  | lredMax (t : BitVec 2) (a : BitVec 7) (d : BitVec 7) (s : BitVec 1)
  /-- LRED_MIN (R263): Minimum over the warp. -/
  | lredMin (t : BitVec 2) (a : BitVec 7) (d : BitVec 7) (s : BitVec 1)
  /-- LSCAN_ADD_INC (R264): Inclusive prefix sum over the warp. -/
  | lscanAddInc (t : BitVec 2) (a : BitVec 7) (d : BitVec 7) (s : BitVec 1)
  /-- LSCAN_ADD_EXC (R264): Exclusive prefix sum over the warp. -/
  | lscanAddExc (t : BitVec 2) (a : BitVec 7) (d : BitVec 7) (s : BitVec 1)
  /-- LBC (R261): Broadcasts xa of lane n to every active lane. -/
  | lbc (n : BitVec 5) (a : BitVec 7) (d : BitVec 7) (s : BitVec 1)
  /-- LD (R272): Loads an item per active lane into lane registers. -/
  | ld (l : BitVec 2) (z : BitVec 3) (b : BitVec 5) (a : BitVec 7) (d : BitVec 7) (s : BitVec 1)
  /-- ST (R273): Stores an item per active lane. -/
  | st (l : BitVec 2) (z : BitVec 3) (b : BitVec 5) (a : BitVec 7) (d : BitVec 7) (s : BitVec 1)
  /-- LDK (R274): Loads once per issue into a uniform register. -/
  | ldk (l : BitVec 2) (z : BitVec 3) (b : BitVec 5) (a : BitVec 7) (k : BitVec 6) (s : BitVec 1)
  /-- STK (R274): Stores a uniform register once per issue. -/
  | stk (l : BitVec 2) (z : BitVec 3) (b : BitVec 5) (a : BitVec 7) (k : BitVec 6) (s : BitVec 1)
  /-- ATOM_ADD (R275): Atomic add, integer or float, returning the old value. -/
  | atomAdd (f : BitVec 1) (w : BitVec 1) (c : BitVec 3) (o : BitVec 2) (a : BitVec 7) (d : BitVec 7) (s : BitVec 1)
  /-- ATOM_MIN (R275): Atomic minimum. -/
  | atomMin (f : BitVec 1) (w : BitVec 1) (c : BitVec 3) (o : BitVec 2) (a : BitVec 7) (d : BitVec 7) (s : BitVec 1)
  /-- ATOM_MAX (R275): Atomic maximum. -/
  | atomMax (f : BitVec 1) (w : BitVec 1) (c : BitVec 3) (o : BitVec 2) (a : BitVec 7) (d : BitVec 7) (s : BitVec 1)
  /-- ATOM_AND (R275): Atomic AND. -/
  | atomAnd (w : BitVec 1) (c : BitVec 3) (o : BitVec 2) (a : BitVec 7) (d : BitVec 7) (s : BitVec 1)
  /-- ATOM_OR (R275): Atomic OR. -/
  | atomOr (w : BitVec 1) (c : BitVec 3) (o : BitVec 2) (a : BitVec 7) (d : BitVec 7) (s : BitVec 1)
  /-- ATOM_XOR (R275): Atomic XOR. -/
  | atomXor (w : BitVec 1) (c : BitVec 3) (o : BitVec 2) (a : BitVec 7) (d : BitVec 7) (s : BitVec 1)
  /-- ATOM_XCHG (R275): Atomic exchange. -/
  | atomXchg (w : BitVec 1) (c : BitVec 3) (o : BitVec 2) (a : BitVec 7) (d : BitVec 7) (s : BitVec 1)
  /-- ATOM_CAS (R275): Atomic compare and swap. -/
  | atomCas (w : BitVec 1) (c : BitVec 3) (o : BitVec 2) (a : BitVec 7) (d : BitVec 7) (s : BitVec 1)
  /-- FENCE_ACQ (R277): Acquire fence that waits for earlier loads and atomics. -/
  | fenceAcq (c : BitVec 3) (s : BitVec 1)
  /-- FENCE_REL (R277): Release fence that waits for earlier stores. -/
  | fenceRel (c : BitVec 3) (s : BitVec 1)
  /-- FENCE_AR (R277): Acquire-release fence. -/
  | fenceAr (c : BitVec 3) (s : BitVec 1)
  /-- FENCE_SC (R277): Sequentially consistent fence over every access and page kind. -/
  | fenceSc (c : BitVec 3) (s : BitVec 1)
  /-- TGET (R279): Starts a fill of a tile from memory. -/
  | tget (l : BitVec 2) (a : BitVec 6) (t : BitVec 8) (s : BitVec 1)
  /-- TSET (R280): Writes a tile-table entry. -/
  | tset (a : BitVec 6) (t : BitVec 8) (s : BitVec 1)
  /-- TDRN (R279): Starts a drain of a tile to memory. -/
  | tdrn (l : BitVec 2) (a : BitVec 6) (t : BitVec 8) (s : BitVec 1)
  /-- TSTAT (R281): Reads a tile-table entry into a uniform register. -/
  | tstat (d : BitVec 6) (t : BitVec 8) (s : BitVec 1)
  /-- CPY (R286): Queues a copy engine command, optionally with a follow-on matrix command. -/
  | cpy (l : BitVec 2) (c : BitVec 6) (b : BitVec 6) (a : BitVec 6) (s : BitVec 1)
  /-- GTH (R288): Queues an indexed gather of rows. -/
  | gth (l : BitVec 2) (c : BitVec 6) (b : BitVec 6) (a : BitVec 6) (s : BitVec 1)
  /-- SCT (R288): Queues an indexed scatter of rows. -/
  | sct (l : BitVec 2) (c : BitVec 6) (b : BitVec 6) (a : BitVec 6) (s : BitVec 1)
  /-- COLL_SET (R289): Creates a communicator and negotiates its contract. -/
  | collSet (l : BitVec 2) (c : BitVec 6) (b : BitVec 6) (a : BitVec 6) (s : BitVec 1)
  /-- COLL_RUN (R290): Runs a collective operation of a communicator. -/
  | collRun (l : BitVec 2) (c : BitVec 6) (b : BitVec 6) (a : BitVec 6) (s : BitVec 1)
  /-- COLL_STAT (R292): Reads a communicator's status word into a uniform register. -/
  | collStat (l : BitVec 2) (c : BitVec 6) (a : BitVec 6) (s : BitVec 1)
  /-- PFI (R115): Hints a fill of an instruction-cache line. -/
  | pfi (a : BitVec 7) (s : BitVec 1)
  /-- PFD (R293): Hints a fill of data sectors into the home slice and L1. -/
  | pfd (n : BitVec 7) (a : BitVec 7) (s : BitVec 1)
  /-- DSC (R294): Stores zeros to covered sectors as a discard. -/
  | dsc (n : BitVec 7) (a : BitVec 7) (s : BitVec 1)
  /-- LSTU (R295): Reads a word and zeroes its sector at the point of coherence. -/
  | lstu (a : BitVec 7) (d : BitVec 7) (s : BitVec 1)
  /-- WBK (R293): Writes dirty covered sectors of the home slice to HBM. -/
  | wbk (n : BitVec 7) (a : BitVec 7) (s : BitVec 1)
  /-- OWNREG (R296): Registers a write-ownership range for the unit. -/
  | ownreg (b : BitVec 6) (a : BitVec 6) (s : BitVec 1)
  /-- OWNCLR (R296): Removes the unit's ownership range with the given base. -/
  | ownclr (a : BitVec 6) (s : BitVec 1)
  /-- RGA (R297): Writes the core-local address of a lane register and pins the block. -/
  | rga (n : BitVec 7) (d : BitVec 7) (s : BitVec 1)
  /-- OMLD (R301): Loads a 128-bit operand map from memory. -/
  | omld (a : BitVec 6) (o : BitVec 4) (s : BitVec 1)
  /-- MLD (R309): Stationary load of columns into the shadow plane. -/
  | mld (l : BitVec 2) (w : BitVec 2) (g : BitVec 3) (b : BitVec 6) (a : BitVec 6) (s : BitVec 1)
  /-- MSWP (R310): Exchanges the active and shadow planes. -/
  | mswp (l : BitVec 2) (s : BitVec 1)
  /-- MSWP_REL (R310): Releases the array lease at the would-be swap cycle. -/
  | mswpRel (l : BitVec 2) (s : BitVec 1)
  /-- MST (R311): Streams activation rows through the active plane into granules. -/
  | mst (l : BitVec 2) (w : BitVec 2) (g : BitVec 6) (b : BitVec 6) (a : BitVec 6) (s : BitVec 1)
  /-- MDR (R313): Drains granules into a tile with conversion. -/
  | mdr (l : BitVec 2) (w : BitVec 2) (g : BitVec 6) (b : BitVec 6) (a : BitVec 6) (s : BitVec 1)
  /-- MDR_RED (R314): Contributes granules to an all-reduce of a communicator. -/
  | mdrRed (l : BitVec 2) (w : BitVec 2) (g : BitVec 6) (b : BitVec 6) (a : BitVec 6) (s : BitVec 1)
  /-- ACCGET (R315): Requests elastic granules, granted or refused at once. -/
  | accget (l : BitVec 2) (w : BitVec 2) (g : BitVec 6) (b : BitVec 6) (s : BitVec 1)
  /-- ACCGET_W (R315): Requests elastic granules, waiting in the arbitration queue. -/
  | accgetW (l : BitVec 2) (w : BitVec 2) (g : BitVec 6) (b : BitVec 6) (s : BitVec 1)
  /-- ACCPUT (R316): Returns elastic granules to the pool. -/
  | accput (l : BitVec 2) (w : BitVec 2) (g : BitVec 6) (s : BitVec 1)
  /-- ACCZ (R316): Zeroes a granule range. -/
  | accz (l : BitVec 2) (w : BitVec 2) (g : BitVec 6) (s : BitVec 1)
  /-- ACCLD (R317): Loads granules from memory. -/
  | accld (l : BitVec 2) (w : BitVec 2) (g : BitVec 6) (r : BitVec 5) (a : BitVec 6) (s : BitVec 1)
  /-- ACCST (R317): Stores granules to memory. -/
  | accst (l : BitVec 2) (w : BitVec 2) (g : BitVec 6) (r : BitVec 5) (a : BitVec 6) (s : BitVec 1)
  /-- TMM (R319): Lehr tile matrix multiply expanding into load, swap and stream steps. -/
  | tmm (l : BitVec 2) (w : BitVec 2) (g : BitVec 6) (b : BitVec 6) (a : BitVec 6) (s : BitVec 1)
  /-- TMM_RED (R322): Lehr multiply followed by an all-reduce contribution. -/
  | tmmRed (l : BitVec 2) (w : BitVec 2) (g : BitVec 6) (b : BitVec 6) (a : BitVec 6) (s : BitVec 1)
  /-- SBEG (R323): Opens a speculative region with target and shadow granule ranges. -/
  | sbeg (w : BitVec 2) (g : BitVec 6) (h : BitVec 6) (s : BitVec 1)
  /-- SCMT (R324): Commits the speculative region and performs held stores. -/
  | scmt (s : BitVec 1)
  /-- SDIS (R324): Discards the speculative region. -/
  | sdis (s : BitVec 1)
  /-- RMAX (R325): Row maximum of 32 rows into lanes. -/
  | rmax (l : BitVec 2) (i : BitVec 8) (c : BitVec 1) (d : BitVec 7) (s : BitVec 1)
  /-- RSUM (R325): Row sum under the contract's RSM. -/
  | rsum (l : BitVec 2) (i : BitVec 8) (c : BitVec 1) (d : BitVec 7) (s : BitVec 1)
  /-- RVAR (R325): Row variance. -/
  | rvar (l : BitVec 2) (i : BitVec 8) (c : BitVec 1) (d : BitVec 7) (s : BitVec 1)
  /-- RSMX (R325): Row softmax written in place with the denominator to lanes. -/
  | rsmx (l : BitVec 2) (i : BitVec 8) (c : BitVec 1) (d : BitVec 7) (s : BitVec 1)
  /-- RNORM (R326): Row normalisation written in place. -/
  | rnorm (l : BitVec 2) (i : BitVec 8) (c : BitVec 1) (d : BitVec 7) (s : BitVec 1)
  /-- ILLEGAL_ENCODING (R394): A fetched word that is not an instruction comes to issue and raises ILL. Subject: enc. -/
  | illegalEncoding
  /-- EJECTION_HANDOVER_END (R36): Hand-over ends and both the remaining lanes and the ejected threads issue. Subject: core, wslot, tag. -/
  | ejectionHandoverEnd
  /-- REJOIN_WRITEBACK_END (R40): A write-back ends, the lane runs again and the next write-back or resume follows. Subject: core, wslot. -/
  | rejoinWritebackEnd
  /-- REJOIN_WINDOW_CLOSE (R40): The rejoin window's tick count reaches RJW and the warp resumes without late threads. Subject: core, wslot. -/
  | rejoinWindowClose
  /-- EJLIM (R382): An ejection count reaching EJLIM makes the thread trap at its next issue. Subject: cluster, slot. -/
  | ejlim
  /-- BIN_AGED (R49): BINAGE cycles since a bin's first filing make it drawable as a partial warp. Subject: core, bin. -/
  | binAged
  /-- BIN_DRAW (R49): A drawable bin takes a warp slot and register block and becomes a fresh warp. Subject: core, bin. -/
  | binDraw
  /-- WAIT_CONDITION_MET (R216): The wait's exit condition holds, kd is written and the warp resumes. Subject: the group. -/
  | waitConditionMet
  /-- WAIT_TIMEOUT (R216): The wait's elapsed ticks reach the time-out and it ends with TO set. Subject: the group. -/
  | waitTimeout
  /-- RUN_PARK_END (R176): A parked warp's results and covered slots are in and it becomes ready. Subject: the group. -/
  | runParkEnd
  /-- FATAL_STOP (R447): Sixteen cycles after a fatal trap every warp and thread of the launch stops and queued commands are removed. Subject: launch. -/
  | fatalStop
  /-- DUMP_WRITE (R379): After the drain the Crucible writes the dump, frees the units and completes the launch faulted. Subject: launch. -/
  | dumpWrite
  /-- JOIN_DECREMENT (R63): After the child's writes are visible the front end decrements the parent's JOIN. Subject: launch. -/
  | joinDecrement
  /-- UNIT_PLACE (R71): The front end places the head's next unit on a fitting core. Subject: part. -/
  | unitPlace
  /-- COMPACTION_MOVE (R102): Once the block's warp is parked with all slots returned the engine moves the block. Subject: core. -/
  | compactionMove
  /-- COMPACTION_MOVE_END (R102): A block move ends, warp_base is set and the unit is tested again. Subject: core. -/
  | compactionMoveEnd
  /-- DEMAND_FETCH (R114): A warp coming to issue fetches its instruction and hits or requests a fill. Subject: the group. -/
  | demandFetch
  /-- ICACHE_FILL_LAND (R443): An instruction-cache fill lands and waiting warps issue. Subject: fill. -/
  | icacheFillLand
  /-- TRANSLATION_WALK_END (R416): A page-table walk ends, installing a translation or failing. Subject: walk. -/
  | translationWalkEnd
  /-- PAGE_REQUEST_RESPONSE (R419): A page request group response arrives and the faulting lanes are unheld. Subject: req, ok. -/
  | pageRequestResponse
  /-- LOAD_RETURN (R271): A load's last line returns and its destinations are written. Subject: req. -/
  | loadReturn
  /-- STORE_ACK (R273): A store is acknowledged at its point of coherence and its slot returns. Subject: req. -/
  | storeAck
  /-- ATOMIC_COMPLETE (R275): An atomic completes at its point of coherence and returns the old value. Subject: req. -/
  | atomicComplete
  /-- REQUEST_LOST (R390): A request outstanding for 0x0010_0000 ticks is declared lost and LOST deferred. Subject: req. -/
  | requestLost
  /-- ENGINE_READS_BEGIN (R284): An engine command's reads begin after queue order and acquire. Subject: engine. -/
  | engineReadsBegin
  /-- ENGINE_TRANSFER_END (R285): The last write is acknowledged; release and completion write follow. Subject: cmd. -/
  | engineTransferEnd
  /-- COMPLETION_WRITE_ACK (R285): The completion write is acknowledged, the event flag set and the slot returned. Subject: cmd. -/
  | completionWriteAck
  /-- TILE_FILL_END (R105): The last byte of a fill is written and the tile becomes ready with its stamp. Subject: req. -/
  | tileFillEnd
  /-- TILE_DRAIN_END (R105): The last byte of a drain is read and the tile becomes empty. Subject: req. -/
  | tileDrainEnd
  /-- COLL_SET_RESULT (R289): After all members issue, each member's result record is written. Subject: part, cid,
  status. -/
  | collSetResult
  /-- COLL_SET_MEMBER_TIMEOUT (R439): A member missing for 0x0001_0000 ticks gives status 3 to the others. Subject: part, cid,
  cmd. -/
  | collSetMemberTimeout
  /-- FABRIC_REDUCE (R364): The reduction unit combines all ranks' values and sends the result. Subject: cmd. -/
  | fabricReduce
  /-- COLL_RUN_COMPLETE (R290): The last destination write of a collective is acknowledged. Subject: cmd. -/
  | collRunComplete
  /-- FABRIC_MESSAGE_RECEIVE (R363): A fabric message arrives and is decrypted and served. Subject: the message. -/
  | fabricMessageReceive
  /-- STATIONARY_LOAD_COMPLETE (R309): A stationary load completes and its slot returns. Subject: op. -/
  | stationaryLoadComplete
  /-- PLANE_SWAP (R310): At its swap cycle mswp exchanges the planes. Subject: op. -/
  | planeSwap
  /-- STREAM_COMPLETE (R312): A stream's last row is written to the granules. Subject: op. -/
  | streamComplete
  /-- DRAIN_COMPLETE (R313): A drain's last tile write falls and its slot returns. Subject: op. -/
  | drainComplete
  /-- ROW_STAT_COMPLETE (R325): A row statistic completes and writes its lanes. Subject: op. -/
  | rowStatComplete
  /-- LEHR_STEP (R320): A granted lehr step loads, swaps and streams one K slice. Subject: op. -/
  | lehrStep
  /-- BUDGET_RETRY (R25): A refused step waits one 16-cycle quantum, adds to BQ and asks again. Subject: op. -/
  | budgetRetry
  /-- FIRST_USE_TRAP_RETURN (R369): After 96 + 640 m cycles the trap returns and the instruction is compared again. Subject: core. -/
  | firstUseTrapReturn
  /-- ELASTIC_GRANT (R111): The oldest waiting elastic request fits and is granted. Subject: core. -/
  | elasticGrant
  /-- ELASTIC_REFUSE (R111): On deadlock the youngest waiting unit's request is refused. Subject: core. -/
  | elasticRefuse
  /-- TAIL_WRITE (R337): A kick-page TAIL write raises the queue tail to the larger value. Subject: fn, q, v. -/
  | tailWrite
  /-- PACKET_TAKE (R336): The front end reads the next packet and writes HEADWB. Subject: fn, q. -/
  | packetTake
  /-- PKT_LAUNCH (R339): A launch packet pushes one unit record to its hearth queue. Subject: fn, q, i. -/
  | pktLaunch
  /-- PKT_GRAPH_SUBMIT (R339): A graph packet pushes COUNT records with parents resolved. Subject: fn, q, i. -/
  | pktGraphSubmit
  /-- PKT_SIGNAL_SET (R339): A signal packet sets an event flag. Subject: fn, q, i. -/
  | pktSignalSet
  /-- PKT_SIGNAL_CLEAR (R339): A signal packet clears an event flag. Subject: fn, q, i. -/
  | pktSignalClear
  /-- PKT_SIGNAL_PHASE (R339): A signal packet closes the current phase and opens the next. Subject: fn, q, i. -/
  | pktSignalPhase
  /-- PKT_SIGNAL_NOTHING (R339): A signal packet with OP 3 has no effect beyond completion. Subject: fn, q, i. -/
  | pktSignalNothing
  /-- PKT_COPY (R339): A copy packet moves bytes by a copy engine. Subject: fn, q, i. -/
  | pktCopy
  /-- PKT_CODE_MOVE (R359): A copy packet with MOVE set performs a code move. Subject: fn, q, i. -/
  | pktCodeMove
  /-- PKT_CANCEL (R339): A cancel packet cancels the named instance. Subject: fn, q, i. -/
  | pktCancel
  /-- PKT_QUERY (R339): A query packet writes an instance's counter and status. Subject: fn, q, i. -/
  | pktQuery
  /-- PACKET_COMPLETE (R342): A packet completes with completion write, event flag and event of kind 2. Subject: fn, q, i. -/
  | packetComplete
  /-- EVRB_WRITE (R436): A write to EVRB sets the event ring and clears EVLOST. Subject: fn, v. -/
  | evrbWrite
  /-- INV_PAGE (R333): INVCMD kind 0 starts invalidation of one page. Subject: fn, pasid. -/
  | invPage
  /-- INV_PASID (R333): INVCMD kind 1 starts invalidation of one PASID. Subject: fn, pasid. -/
  | invPasid
  /-- INV_FUNCTION (R333): INVCMD kind 2 starts invalidation of the whole function. Subject: fn. -/
  | invFunction
  /-- INVALIDATION_DONE (R333): Matching entries are dropped and accesses done, so BUSY clears. Subject: fn. -/
  | invalidationDone
  /-- ATS_INVALIDATION_REQUEST (R333): A host ATS invalidation request arrives and is completed once met. Subject: fn, pasid, va. -/
  | atsInvalidationRequest
  /-- CQD_ENABLE (R335): Setting EN opens the queue's job and zeroes head and tail. Subject: fn, q, w. -/
  | cqdEnable
  /-- CQD_DISABLE (R334): Clearing EN closes the job once started packets complete. Subject: fn, q, w. -/
  | cqdDisable
  /-- CTX_CREATE (R331): A context-entry write setting V is passed to the Crucible. Subject: fn, e, w. -/
  | ctxCreate
  /-- CTX_DESTROY (R331): A write clearing V starts destruction of the context. Subject: fn, e. -/
  | ctxDestroy
  /-- CONTEXT_DESTROY_DONE (R332): When all units end, caches and TLBs are cleared and the tag freed. Subject: gen. -/
  | contextDestroyDone
  /-- FWD_REMOVE (R360): Writing zero to an active forwarding entry removes it. Subject: fn, e. -/
  | fwdRemove
  /-- ROUTE_WRITE (R362): A 32-bit routing-table write is accepted. Subject: node, v. -/
  | routeWrite
  /-- ROUTE_TAKE_EFFECT (R361): A new route applies once no request to the node is outstanding. Subject: node. -/
  | routeTakeEffect
  /-- REGISTER_WRITE (R330): A write to a function register without its own behaviour. Subject: fn, off, size, v. -/
  | registerWrite
  /-- POLICY (R345): Submits a signed tenant policy. Subject: fn. -/
  | policy
  /-- ATTEST (R354): Writes an attestation report for a nonce. Subject: fn. -/
  | attest
  /-- KEYS (R347): Delivers wrapped memory and save keys. Subject: fn. -/
  | keys
  /-- OPEN (R348): Copies a sealed report or blob, opened, into DATA. Subject: fn. -/
  | openCmd
  /-- SCHED (R352): Runs a VF on its partition, pausing any other VF first. Subject: fn. -/
  | sched
  /-- PAUSE (R352): Halts a VF by tenant-slice halt. Subject: fn. -/
  | pause
  /-- EVICT (R352): Spills and seals a VF's state to host memory. Subject: fn. -/
  | evict
  /-- RESUME (R352): Restores a VF from a verified blob. Subject: fn. -/
  | resume
  /-- CONTEXT_RESUME (R85): Once resources are free a halted context resumes and replays requests. Subject: vf. -/
  | contextResume
  /-- KILL (R352): Discards a VF's contexts and zeroes their state. Subject: fn. -/
  | kill
  /-- MOVE (R358): Starts moving a logical memory slice. Subject: fn. -/
  | move
  /-- SLICE_MOVE_COMPLETE (R358): The last page is new; the slice table is rewritten and the old slice freed. Subject: part. -/
  | sliceMoveComplete
  /-- RETIRE_CLUSTER (R349): Retires a cluster. Subject: fn. -/
  | retireCluster
  /-- RETIRE_CHANNEL_PAIR (R432): Retires an HBM channel pair and copies its slices. Subject: fn. -/
  | retireChannelPair
  /-- COUNTS (R350): Copies the module's error counts into DATA. Subject: fn. -/
  | counts
  /-- COUNTS_CLEAR (R350): Copies and then clears the error counts. Subject: fn. -/
  | countsClear
  /-- UNKNOWN_COMMAND (R348): A mailbox command with an unassigned OP is refused. Subject: fn. -/
  | unknownCommand
  /-- CRUCIBLE_COMMAND_DONE (R352): A PF command's halts and placements are done, so BUSY clears. Subject: fn. -/
  | crucibleCommandDone
  /-- MODULE_RESET (R355): The Crucible verifies and latches the partition block; functions come up. Subject: the block with its verdict
  and the owner key's hash. -/
  | moduleReset
  /-- FUNCTION_READY (R28): A function finishes bring-up, sets its bit and posts an event. Subject: bit. -/
  | functionReady
  /-- STORE_UNCORRECTABLE (R428): An uncorrectable error poisons store or accumulator words. Subject: core, acc, addr. -/
  | storeUncorrectable
  /-- CACHE_HBM_ERROR (R429): A shared-cache or HBM error is refetched or poisons sectors. Subject: hbm, addr, gen, and the
  request, fill, walk or command that found it. -/
  | cacheHbmError
  /-- CORRECTED_ERROR (R350): A single-bit error is corrected inline and counted. Subject: count. -/
  | correctedError
  /-- CLUSTER_CONTROL_ERROR (R432): An uncorrectable control-state error retires the cluster. Subject: cluster. -/
  | clusterControlError
  /-- HOST_READ_FAILURE (R437): A host read failing with UR or CA returns poisoned bytes. Subject: req, aborter. -/
  | hostReadFailure
  /-- HOST_COMPLETION_TIMEOUT (R437): A host read without completion for 0x0010_0000 ticks returns poison. Subject: req. -/
  | hostCompletionTimeout
  /-- LINK_DOWN (R437): The host link goes down; requests fail and queues stop. Subject: nothing. -/
  | linkDown
  /-- LINK_RETURN (R437): The host link comes back up after a loss, and the event rings may be written again. Subject: nothing. -/
  | linkReturn
  /-- FAILED_POSTED_WRITE (R437): A posted write to host memory is reported as failed, and a sealed host-error report of cause 3 is posted. Subject: pasid, addr. -/
  | failedPostedWrite
  /-- ATS_TRANSLATION_COMPLETION (R333): The host answers an ATS translation request, and the device caches the translation or falls back to a PRI page request. Subject: req, granted, write. -/
  | atsTranslationCompletion
  /-- MOVE_PAGE_NEW (R358): One 64 KiB page of a slice move finishes copying and becomes new, releasing the accesses held on it. Subject: part. -/
  | movePageNew
deriving DecidableEq, Repr

end Sys2Proof
end

