-- ==== Sys2Proof/Machine/State.lean ====
section
/-! DEFINITION. The state of the module as plain data, and the state after reset.
Lists keyed by a number (`Tab`) hold only what differs from reset, keys strictly rising. -/

namespace Sys2Proof.Machine

/-- A group that issues instructions: a warp (R32) named by physical core and WSLOT, or an ejected thread (R37)
named by cluster and kindling slot (R365). -/
inductive Gid where
  | warp (core wslot : Nat)
  | kindle (cluster slot : Nat)
deriving DecidableEq, Repr

/-- What a physical address names: local memory, another module's, or host memory under a PASID. -/
inductive Place where
  | dev (pa : Nat)
  | remote (node pa : Nat)
  | host (pasid va : Nat)
deriving DecidableEq, Repr

/-- An end of one line of a transfer. -/
inductive Spot where
  /-- memory, with the virtual address and the page kind -/
  | mem (p : Place) (va ord : Nat)
  /-- bytes of a core's store -/
  | store (core addr : Nat)
  /-- bytes of a physical granule of a core that a unit holds -/
  | gran (core unit phys off : Nat)
  /-- a source of zeros, or nothing to write -/
  | none
deriving DecidableEq, Repr

/-- One entry of the partition configuration block (R355). -/
structure PartEntry where
  en : Bool
  moveOk : Bool
  cbase : Nat
  clim : Nat
  prio : Nat
  sbase : Nat
  scnt : Nat
  colour : BitVec 64
  gminc : Nat
  gmins : Nat
deriving DecidableEq, Repr

/-- The content of a fabric message (R363, R364), as the receiving module decrypts it. -/
inductive FabricBody where
  /-- load request of `len` bytes at bits [49:0] of a physical address of this module -/
  | load (src seq addr len : Nat)
  /-- store request of bytes at bits [49:0] of a physical address of this module -/
  | store (src seq addr : Nat) (bytes : List (BitVec 8))
  /-- atomic request at bits [49:0] of a physical address of this module: OP of Table 10.1 (8 for `jdec`), a floating-point one, one of
  8 bytes, compare value and operand -/
  | atomic (src seq addr op : Nat) (flt wide : Bool) (cmp val : Nat)
  /-- the reply to request `req` of this module -/
  | reply (req : Nat)
  /-- another member issues its `coll.set`: rank, contract mask, and its NRANK, FMT and REQC -/
  | collSet (part cid rank mask nrank fmt reqc : Nat)
  /-- another member issues its `coll.run`: rank, OP, COUNT and its source elements; those of a sum are FP32 codes (R167, R314) -/
  | collRun (part cid rank op count : Nat) (values : List Nat)
  /-- another member's `coll.run` was refused (R411) or raised CMIX (R406) -/
  | collRefused (part cid rank : Nat)
deriving DecidableEq, Repr

/-- A fabric message with the verdict of its GCM tag (R363, R438) and the port it arrived at. -/
structure FabricMsg where
  port : Nat
  tagOk : Bool
  body : FabricBody
deriving DecidableEq, Repr

/-- What the step in hand is about (log 1): the operands of an event row. -/
inductive Subject where
  | nothing
  /-- numbers, in the order the docstring of the row names them; a truth value is 1 or 0 -/
  | of (ns : List Nat)
  | group (g : Gid)
  /-- the partition configuration block as it is presented at reset: whether its signature verifies, the hash of the owner's key that
  verifies it as a number, and its bytes (R355) -/
  | block (verified : Bool) (owner : Nat) (bytes : List (BitVec 8))
  | message (m : FabricMsg)
deriving DecidableEq, Repr

/-- A table from numbers to records, keys strictly rising. -/
abbrev Tab (α : Type) := List (Nat × α)

/-- Bytes by address; the canonical form is `Memory.wf` of Machine/Ops.lean (log 5). -/
abbrev Memory := List Host.Cell

/-- Why the machine stops for good. No rule of the spec stops it: a trap, a fatal halt and a refused packet are next
states. -/
inductive Fault where
  /-- An encoding is executed while no warp and no ejected thread is issuing. Raised by the meanings of encodings;
  never by `step`. Safe: the machine has nothing to issue. -/
  | noIssuer
deriving DecidableEq, Repr

/-- Why a step has no meaning. -/
inductive Refusal where
  /-- Raised only by an arm of `exec` that has no meaning yet. Safe. -/
  | notModelled (mnemonic : String)
deriving DecidableEq, Repr

/-- Lane states of Table 2.1 (R33), with vacant (R32). -/
inductive LaneState where
  | vacant | running | deferred | parked | ejected | faultParked
deriving DecidableEq, Repr

/-- What a thread carries wherever it stands (R30, R31, Table 7.5 "held per thread"). -/
structure Thread where
  /-- linear thread id within the unit (LTHR; THRX, THRY, THRZ follow from it) -/
  lthr : Nat
  preds : BitVec 8
  /-- MODE.RM (R155) -/
  rm : BitVec 2
  /-- FLAGS [7:0] (R157) -/
  flags : BitVec 8
  /-- TRAPMASK [2:0] (R373) -/
  tmask : BitVec 3
  cause : Word
  aux : Word
  /-- RET: the full saved return address (R228, R375) -/
  ret : Pc
  ipc : Pc
  faddr : DWord
  inHandler : Bool
deriving DecidableEq, Repr

/-- One lane of a warp: its state, its thread, and the eight run temporaries of the lane (R180). -/
structure Lane where
  st : LaneState
  thr : Option Thread
  tmps : Tab Word
deriving DecidableEq, Repr

/-- A write that becomes usable later (R8, R174). -/
inductive PendWrite where
  /-- lane register (120-127 are temporaries) -/
  | x (reg lane : Nat) (v : Word)
  | p (idx lane : Nat) (v : Bool)
  /-- flags ORed in (R241) -/
  | flags (lane : Nat) (bits : BitVec 8)
  /-- a `wrsr` in effect (R226); `lane` names the thread for thread-held registers -/
  | sr (num lane : Nat) (v : Word)
  /-- a call-stack word of the home core's store (R206) -/
  | stack (addr : Nat) (v : Word)
  /-- SPEC visible value changes (R323, R324) -/
  | spec (v : Word)
deriving DecidableEq, Repr

/-- A pending write with the cycle from which it is usable and the issue cycle of its instruction, which orders the
writes of one group that become usable together (R174). -/
structure Pend where
  due : Nat
  iss : Nat
  w : PendWrite
deriving DecidableEq, Repr

/-- A trap record (R375): the TRAPCAUSE word with DEF and KC, and the lanes of the instruction. -/
structure Trap where
  word : Nat
  aux : Word
  ret : Pc
  ipc : Pc
  faddr : DWord
  lanes : BitVec 32
deriving DecidableEq, Repr

/-- A deferred condition found on a slot (R376, R412). -/
structure Deferred where
  slot : Nat
  trap : Trap
  /-- observed at an earlier park and still pending (R412) -/
  seen : Bool
deriving DecidableEq, Repr

/-- A wait condition of Table 8.2 with the register values read when evaluation began (R215). -/
inductive Cond where
  | none
  | tileReady (t : Nat)
  | barPhase (b : Nat) (p : Bool)
  | slot (s : Nat)
  | flag (f : Nat)
  /-- watched since `start`, over a path that lost some arbitration rounds; `diffs` are the cycles in which the word was seen to differ
  (R129) -/
  | word (addr : Nat) (old : Word) (start rounds : Nat) (diffs : List Nat)
  | done (handle : Word)
deriving DecidableEq, Repr

/-- What happens when a park of R176 ends. -/
inductive ParkAct where
  /-- the next run begins at the warp pc -/
  | next
  /-- each lane goes to its own target, at the earliest in the given cycle (R202, R207, R208) -/
  | xfer (tgts : List (Nat × Pc)) (at_ : Nat)
  /-- a `brp` that splits (row 4 of Table 2.2): mask of taken lanes, target, tag -/
  | split (taken : BitVec 32) (target : Pc) (tag : Nat)
  /-- a back-edge that demotes its path (R51) -/
  | demote (target : Pc)
  /-- a `brp` that reforms (row 5 of Table 2.2) -/
  | reform (taken : BitVec 32) (target : Pc)
  /-- a `tret`: as `xfer`; pending conditions of R412 wait for the next marker -/
  | tret (tgts : List (Nat × Pc)) (at_ : Nat)
  /-- file the active threads (R209) -/
  | rfm (live : Nat) (target : Pc)
  | rjn (tag : Nat)
  | exit
  /-- wait for the warps of the quadrant that were ready, each with the cycle since which it was (R214) -/
  | yield (others : List (Nat × Nat))
  /-- evaluate wait conditions (R216): all, kd, and the conditions and the time-out as the registers held them at issue -/
  | wait (all : Bool) (kd : Nat) (ka kb : DWord)
  /-- wait for a barrier phase (R218) -/
  | bar (b phase : Nat)
  /-- wait for a `gbar` phase (R220) -/
  | gbar (phase : Nat)
  /-- enter the handler (R228, R376) -/
  | trap (t : Trap) (rets : List (Nat × Pc))
deriving DecidableEq, Repr

/-- A rejoin write-back under way (R40): the lane, its thread, the registers it wrote, those of them that are poisoned (R430) and its
arbitration rounds. -/
structure WriteBack where
  lane : Nat
  thr : Thread
  regs : List (Nat × Word)
  poison : List Nat
  lost : Nat
  ends : Nat
deriving DecidableEq, Repr

/-- What an issuing group is doing. -/
inductive Status where
  /-- ready since the given cycle, which may lie ahead (R202, R71, R49): its next instruction begins a run (R34) -/
  | ready (since : Nat)
  /-- in the middle of a run (R173) -/
  | running
  /-- parked at a switch marker (R176) -/
  | parked (act : ParkAct)
  /-- evaluating a wait (R216): `t0` is the tick count its elapsed time starts from, moved by halted time (R20) -/
  | waiting (all : Bool) (kd : Nat) (conds : List Cond) (timeout : Word) (t0 : Nat)
  /-- at a barrier of the unit, or at `gbar` for number 512 (R218, R220): the phase waited for -/
  | barrier (b phase : Nat)
  /-- the warp waits at `rjn` since tick `t0` (R40), `mode` 0 in its window, 1 without one (DETERM), 2 with RJW = 0, 3 with
  its window closed; it began in cycle `since` and issues no earlier than `ready` -/
  | rejoin (tag t0 mode since ready : Nat) (wb : Option WriteBack)
  /-- an ejected thread waits at its `rjn` since a cycle (R39, R367) -/
  | atRejoin (since : Nat)
  /-- hand-over under way (R36) -/
  | handover
  /-- the running path is empty and waits for an event: faulting lanes (R420) or held lanes (R219) -/
  | idle
  /-- stopped by a fatal halt (R447) -/
  | stopped
deriving DecidableEq, Repr

/-- The return of a slot by an engine command that released at a scope (R142): it acquires for the threads active at the command's issue
once it is observed. `obj` is the clock object of the release. -/
structure SlotAcq where
  slot : Nat
  scope : Nat
  obj : Nat
  lanes : BitVec 32
deriving DecidableEq, Repr

/-- The run state of a warp or an ejected thread (R172-R178). -/
structure Run where
  count : Nat
  trl : BitVec 3
  slots : List Nat
  /-- cycle at which every fixed-latency result of the run is usable (R176) -/
  usable : Nat
  /-- earliest cycle of the next issue -/
  nextAt : Nat
  pend : List Pend
  status : Status
  deferred : List Deferred
  /-- slot returns not yet observed that are acquires (R142, R216) -/
  acqs : List SlotAcq
deriving DecidableEq, Repr

/-- A split entry (R44), with the hold of R219 and the fault entries of R419. -/
structure Split where
  tag : Nat
  defMask : BitVec 32
  defPc : Pc
  parkMask : BitVec 32
  parkPc : Pc
  done : Bool
  /-- held at a barrier: barrier number (512 for `gbar`) and phase -/
  held : Option (Nat × Nat)
  /-- a fault entry of R419, with its lanes still held by the page request -/
  fault : Bool
  faultHeld : Bool
deriving DecidableEq, Repr

/-- An open ejection (R36). -/
structure Ejection where
  tag : Nat
  mask : BitVec 32
deriving DecidableEq, Repr

/-- A store held in a speculative region (R408): one entry per instruction. -/
structure HeldStore where
  /-- major: 0x25 `st`, 0x26 `stk`, 0x2D `dsc` -/
  maj : Nat
  /-- lane, address, bytes -/
  items : List (Nat × Nat × List Byte)
  /-- lanes whose register was poisoned (R430) -/
  bad : List Nat
deriving DecidableEq, Repr

/-- A part of item `idx` of an access that lies in one line of translated memory, from byte `off` of the item on. -/
structure Frag where
  idx : Nat
  off : Nat
  va : Nat
  len : Nat
  place : Place
  ord : Nat
deriving DecidableEq, Repr

/-- A part of item `idx` of an access in the store of a core. -/
structure Touch where
  idx : Nat
  off : Nat
  core : Nat
  addr : Nat
  len : Nat
  lat : Nat
deriving DecidableEq, Repr

/-- A held store of a committed region with the cycle in which it issues and where its bytes lie, as translated at the `scmt` (R324). -/
structure HeldOut where
  due : Nat
  gid : Gid
  serial : Nat
  unit : Nat
  core : Nat
  ipc : Pc
  store : HeldStore
  frags : List Frag
  touches : List Touch
deriving DecidableEq, Repr

/-- An open speculative region (R57). -/
structure Spec where
  tbase : Nat
  width : Nat
  sbase : Nat
  /-- offsets of target granules written in the region -/
  touched : List Nat
  held : List HeldStore
deriving DecidableEq, Repr

/-- A warp (R32). -/
structure Warp where
  /-- internal number of the unit -/
  unit : Nat
  /-- number that no other warp of the run has -/
  serial : Nat
  page : Nat
  bsize : Nat
  pinned : Bool
  pc : Pc
  lanes : List Lane
  splits : List Split
  ejs : List Ejection
  spin : Nat
  demc : Nat
  stallw : Word
  ejt : Nat
  rjw : Word
  spec : Option Spec
  /-- SPEC as `rdsr` shows it (R57, R323) -/
  specSr : Word
  run : Run
  /-- memory requests made, the ordinals of Table 3.8 -/
  reqCount : Nat
deriving DecidableEq, Repr

/-- An ejected thread in a kindling slot (R36, R37). -/
structure Ejected where
  core : Nat
  wslot : Nat
  serial : Nat
  unit : Nat
  lane : Nat
  tag : Nat
  live : Nat
  thr : Thread
  regs : Tab Word
  written : List Nat
  /-- registers that are poisoned (R430) -/
  poison : List Nat
  tmps : Tab Word
  /-- block size of its unit, which bounds its register operands and its call stack (R98, R204) -/
  bsize : Nat
  pc : Pc
  /-- core-local address of the depth word (R205) -/
  stackAddr : Nat
  run : Run
  /-- tick in which the ejection count started, moved by halted time (R382) -/
  t0 : Nat
  /-- arbitration rounds lost (R24) -/
  lost : Nat
deriving DecidableEq, Repr

/-- A thread filed in a bin or in staging with what it carries (R49, R205). -/
structure Filed where
  thr : Thread
  /-- linear position words: register index and value, call-stack words included -/
  regs : Tab Word
  /-- words of it that are poisoned (R430) -/
  poison : List Nat
  live : Nat
  deferred : List Deferred
deriving DecidableEq, Repr

/-- A reform bin (R48). -/
structure Bin where
  unit : Nat
  pc : Pc
  threads : List Filed
  /-- cycle of its first filing, moved by halted time (R49, R83) -/
  opened : Nat
  aged : Bool
  /-- order of opening -/
  order : Nat
deriving DecidableEq, Repr

/-- Threads in staging for one key (R48, R386). -/
structure Staged where
  unit : Nat
  pc : Pc
  thr : Filed
deriving DecidableEq, Repr

/-- A plane of the matrix array (R304): bytes at 64 c + k, scale words at column 4 words, FMT, XV. -/
structure Plane where
  data : Memory
  scales : Tab (BitVec 12)
  fmt : Nat
  xv : BitVec 16
deriving DecidableEq, Repr

/-- A quadrant of a core (R34). -/
structure Quad where
  /-- the warp that holds it until it parks -/
  holder : Option Nat
  nextAt : Nat
  /-- cycle from which the special-function pipe is free (R242) -/
  sfuFree : Nat
deriving DecidableEq, Repr

/-- A cached translation (R124, R333, R417). -/
structure Xlate where
  gen : Nat
  /-- virtual base and size in bytes -/
  va : Nat
  size : Nat
  /-- physical base with its node in [63:50], or host memory -/
  pa : Nat
  host : Bool
  /-- 0 RC, 1 SO, 2 UN, 3 reserved (R122) -/
  ord : Nat
  stamp : Nat
  r : Bool
  w : Bool
  x : Bool
  keyid : Nat
deriving DecidableEq, Repr

/-- An instruction-cache line: the bytes it took when it landed (R113, R123). -/
structure ILine where
  gen : Nat
  /-- virtual address of the line -/
  va : Nat
  bytes : List Byte
  /-- came back poisoned (R430) -/
  bad : Bool
  /-- larger is more recent -/
  used : Nat
deriving DecidableEq, Repr

/-- An L1 line (R106): physical line address with node, sectors valid, data. -/
structure L1Line where
  pa : Nat
  valid : BitVec 4
  data : Memory
  /-- larger is more recent -/
  used : Nat
deriving DecidableEq, Repr

/-- A shared-cache line (R108). -/
structure L2Line where
  die : Nat
  pa : Nat
  gen : Nat
  colour : Nat
  dirty : BitVec 4
  used : Nat
deriving DecidableEq, Repr

/-- An elastic request in the queue of a core (R111). -/
structure ElReq where
  unit : Nat
  kd : Nat
  base : Nat
  n : Nat
  req : Nat
deriving DecidableEq, Repr

/-- A first-use trap in progress (R368, R369). -/
structure FirstUse where
  gen : Nat
  unit : Nat
  ends : Nat
deriving DecidableEq, Repr

/-- Compaction of a core (R102): the launch whose unit waits for it, moves made, and the block being moved as warp slot, new
page and end, which is 0 while the warp is waited for. -/
structure Compact where
  launch : Nat
  moves : Nat
  move : Option (Nat × Nat × Nat)
deriving DecidableEq, Repr

/-- An instruction that waits for the lease of the array (R305): the cycle in which it first did, its warp, and its address. -/
structure LeaseWait where
  since : Nat
  wslot : Nat
  serial : Nat
  unit : Nat
  pc : Pc
deriving DecidableEq, Repr

/-- One core (R15). -/
structure Core where
  store : Memory
  storePoison : List Nat
  acc : Memory
  accPoison : List Nat
  l1w : Nat
  fused : Bool
  l1 : List L1Line
  icache : List ILine
  tlb : List Xlate
  /-- tile-table entries by index 0-255 (R104) -/
  tiles : Tab Word
  /-- entries that instructions still see as they were (R280): the cycle from which they see the new one, index, and the old entry -/
  tsets : List (Nat × Nat × Word)
  bins : Tab Bin
  staging : List Staged
  warps : Tab Warp
  quads : List Quad
  /-- ACCOWN: OWNER when V is 1 (R86) -/
  accown : Option Nat
  firstUse : Option FirstUse
  act : Plane
  shadow : Plane
  lease : Option Nat
  elq : List ElReq
  /-- the first cycle of the next decision on the elastic queue (R111) -/
  elAt : Nat
  /-- instructions waiting for the lease, in the order in which they came to wait (R305) -/
  leaseQ : List LeaseWait
  /-- FMT of the active and of the shadow plane as the instructions issued so far leave them (R303) -/
  fmtAct : Nat
  fmtSh : Nat
  /-- array order (R309-R313): the cycle after the last mld completes, the last swap, the cycle after the last row entry, the cycle
  after the last access of the drain path -/
  mldEnd : Nat
  swapAt : Nat
  entryAt : Nat
  drainEnd : Nat
  /-- cycle of the last write and of the last read of each physical granule (R306) -/
  gwr : Tab Nat
  grd : Tab Nat
  compact : Option Compact
deriving DecidableEq, Repr

/-- The kindling pool of a cluster (R13, R365, R366). -/
structure Pool where
  slots : Tab Ejected
  /-- per kindling core: the slot that issued last and the next cycle it may issue -/
  last : Tab (Nat × Nat)
  icache : Tab (List ILine)
  tlb : List Xlate
deriving DecidableEq, Repr

/-- A barrier of a unit (R217). `phase` counts completed phases; `cnt0` marks an EXP that follows the unit. -/
structure Bar where
  arr : Nat
  exp : Nat
  par : Bool
  bound : Bool
  cnt0 : Bool
  phase : Nat
deriving DecidableEq, Repr

/-- A uniform write to come: usable cycle, issue cycle, whether from a kindling core, register, value (R232). -/
structure KPend where
  due : Nat
  iss : Nat
  kc : Bool
  reg : Nat
  v : DWord
deriving DecidableEq, Repr

/-- A range of `ownreg` in effect from a cycle, until a cycle (R296). -/
structure OwnRange where
  base : Nat
  len : Nat
  from_ : Nat
  until_ : Option Nat
deriving DecidableEq, Repr

/-- A unit (R12, R65, R66). -/
structure UnitSt where
  launch : Nat
  lid : Nat
  core : Nat
  nthreads : Nat
  /-- completion counter: threads not yet finished (R54) -/
  left : Nat
  k : Tab DWord
  /-- uniform writes to come (R232) -/
  kpend : List KPend
  om : Tab (BitVec 128)
  tileBase : Nat
  ntiles : Nat
  scrPage : Nat
  scrPages : Nat
  /-- logical granule to physical granule -/
  gmap : Tab Nat
  /-- logical granules held with no physical granule after a spill (R372) -/
  gspill : List Nat
  binage : Nat
  bars : Tab Bar
  own : List OwnRange
  lcore : Nat
  contract : Nat
  cancelled : Bool
  /-- register blocks kept for ejected or late threads (R210): page and pages -/
  kept : List (Nat × Nat × Nat)
  /-- halted with its context (R82) -/
  halted : Bool
  /-- its state is with its context, and its core's store and slots are free (R82, R83) -/
  saved : Bool
deriving DecidableEq, Repr

/-- A launch frame as the front end reads it (R64, Table 3.2). -/
structure Frame where
  fver : Nat
  fflags : BitVec 8
  contract : Nat
  utx : Nat
  uty : Nat
  utz : Nat
  lcores : Nat
  gdx : Nat
  gdy : Nat
  gdz : Nat
  regs : Nat
  l1w : Nat
  tiles : Nat
  scratch : Nat
  accres : Nat
  accel : Nat
  ejt : Nat
  rjw : Word
  traph : DWord
  argsz : Nat
  dumpb : DWord
  rjtab : List Nat
deriving DecidableEq, Repr

/-- A fatal halt of a launch (R378, R447). -/
structure FatalHalt where
  cycle : Nat
  core : Nat
  wslot : Nat
  lane : Nat
  first : Trap
  second : Option Trap
  /-- conditions counted in FLAGS [15:8] -/
  extra : Nat
  stopped : Bool
  refticks : Word
deriving DecidableEq, Repr

/-- A launch and its record (R54, R60, R61). -/
structure Launch where
  handle : Word
  part : Nat
  gen : Nat
  fn : Nat
  queue : Nat
  /-- packet index that created it, none for `spawn` and graph members -/
  pkt : Option Nat
  spawned : Bool
  graph : Option Word
  phase : Word
  /-- hearth queue and its tail count at the push: the ring slot held until completion (R67) -/
  hq : Nat
  ringIdx : Nat
  recAddr : Nat
  hset : Nat
  seq : Nat
  pri : Nat
  task : Bool
  code : Nat
  frameAddr : Nat
  parent : Nat
  frame : Option Frame
  nextUnit : Nat
  /-- write ranges of units that have completed (R296, R426): linear id, base and length -/
  owned : List (Nat × Nat × Nat)
  /-- linear ids of units cancelled before they were placed (R56) -/
  skipped : List Nat
  unitsLeft : Nat
  /-- 0 running, 1 complete, 2 cancelled, 3 faulted (R339) -/
  status : Nat
  cancelled : Bool
  victim : Bool
  garr : Nat
  gphase : Nat
  threadsLeft : Nat
  fatal : Option FatalHalt
  capbuf : Nat
  capsz : Nat
  capt : Bool
  rply : Bool
  capStart : Nat
  /-- entries appended to or read from the capture buffer (R90, R91) -/
  capIdx : Nat
  capFull : Bool
  /-- plaintext of the block of 4 KiB that the last entry lies in, as a number (R90) -/
  capBlock : Nat
  races : Nat
  /-- the ready cores p0, p1, … of a DETERM launch (R78), as they were when its frame was read -/
  hosts : List Nat
deriving DecidableEq, Repr

/-- A graph, phase or job with its completion counter (R54). -/
structure Inst where
  handle : Word
  fn : Nat
  /-- the phase of a graph, the job of a phase -/
  parent : Word
  count : Nat
  closed : Bool
  status : Nat
deriving DecidableEq, Repr

/-- What an outstanding request does when it returns (R178). -/
inductive ReqKind where
  /-- lane results of a load, an atomic or `lstu`: size code of R272, then lane, first register and bytes -/
  | load (size : Nat) (items : List (Nat × Nat × List Byte))
  /-- a store, or a hint that writes -/
  | store
  /-- uniform load: register, size code, bytes -/
  | ldk (k size : Nat) (bytes : List Byte)
  /-- operand-map load: map and its 16 bytes -/
  | omld (om : Nat) (bytes : List Byte)
  /-- tile fill: tile, and stamp at the end -/
  | tget (tile stamp : Nat)
  | tdrn (tile : Nat)
  /-- matrix work: flags to OR, and lane results as lane, register, word -/
  | matrix (flags : BitVec 8) (items : List (Nat × Nat × Word))
  /-- `accget.w`: kd and status (R315); `coll.stat`: kd and word (R292) -/
  | kval (k : Nat) (v : DWord)
  | nothing
deriving DecidableEq, Repr

/-- What an aperture access does in its access cycle (R453). -/
inductive AperOp where
  | load
  /-- `bad`: of a poisoned register (R430) -/
  | store (bytes : List Byte) (bad : Bool)
  /-- operation of R275, float, wide, compare value, operand -/
  | atom (op : Nat) (flt wide : Bool) (c v : Nat)
  /-- word read and sector zeroed (R295) -/
  | lstu
deriving DecidableEq, Repr

/-- An aperture access still to act in its access cycle (R453): its result goes to byte `off` of item `idx`. -/
structure Aper where
  core : Nat
  addr : Nat
  len : Nat
  due : Nat
  idx : Nat
  off : Nat
  op : AperOp
deriving DecidableEq, Repr

/-- One line of a transfer (R279, R284, R317): the cycles of its request, of its read, of its write and of its acknowledgement, its
ends, and the bytes read with the offsets of the poisoned ones. -/
structure Line where
  reqAt : Nat
  readAt : Nat
  writeAt : Nat
  ackAt : Nat
  src : Spot
  dst : Spot
  len : Nat
  bytes : List Byte
  bad : List Nat
deriving DecidableEq, Repr

/-- A part of an access that is held at the memory controller until its place can be reached (R23, R29, R358): the lane, what it does there,
and for an atomic its order and scope. -/
structure HoldAct where
  frag : Frag
  lane : Nat
  op : AperOp
  ao : Nat
  scope : Nat
deriving DecidableEq, Repr

/-- An outstanding request (R178, R271). -/
structure Req where
  gid : Gid
  /-- serial of the issuing warp -/
  serial : Nat
  unit : Nat
  gen : Nat
  slot : Option Nat
  lanes : BitVec 32
  /-- home core, and the threads that made it, by their number in the unit -/
  core : Nat
  thrs : List Nat
  ipc : Pc
  kind : ReqKind
  issued : Nat
  due : Nat
  /-- tiles of the unit that it reads (Table 4.4) -/
  reads : List Nat
  /-- page kinds and class for the waits of Table 10.3: load, store on RC/SO/aperture, store on UN -/
  isLoad : Bool
  isStore : Bool
  un : Bool
  aper : List Aper
  holds : List HoldAct
  /-- items whose bytes came back poisoned (R430) -/
  poison : List Nat
  /-- sectors that the L1 takes at the return: line, mask (R106) -/
  fills : List (Nat × Nat)
  /-- bytes that present sectors of the home core's L1 take at the acknowledgement: line, offset, length (R106, R273) -/
  upd : List (Nat × Nat × Nat)
  /-- sectors that the home core's L1 loses at the acknowledgement: line, mask (R128) -/
  drop : List (Nat × Nat)
  /-- lines of a tile transfer, and those not requested when a halt stopped it at a boundary of 4 KiB (R279, Table 3.7) -/
  lines : List Line
  rest : List Line
  /-- bytes that came from host memory or another module, and the ordinal of the request (Table 3.8) -/
  outside : List Byte
  ordinal : Nat
  /-- scope of an acquire made at the return, or 0 (R276) -/
  acq : Nat
  /-- host request: waits for the host (R437) -/
  host : Bool
  node : Option Nat
  fault : Option Trap
  /-- the cycle from which it counts as outstanding: its issue, or its reissue (R390) -/
  sent : Nat
  /-- a load that a halt saves as a replayable packet (Table 3.7): lane, address and length of its accesses, and whether the L1
  serves them -/
  again : Option (List (Nat × Nat × Nat) × Bool)
deriving DecidableEq, Repr

/-- A page request outstanding for fault-parked lanes (R419), or for an engine or a front end (R339, R423). -/
structure PageReq where
  gid : Gid
  core : Nat
  wslot : Nat
  serial : Nat
  gen : Nat
  va : Nat
  lanes : BitVec 32
  refused : Bool
  /-- the PRI page request has been made (otherwise the ATS request is open) -/
  pri : Bool
deriving DecidableEq, Repr

/-- A page-table walk under way (R416, R444). -/
structure Walk where
  gid : Gid
  gen : Nat
  va : Nat
  /-- 0 data, 1 demand fetch, 2 `pfi`, 3 `pfd`, 4 `wbk` -/
  why : Nat
  /-- bytes a hint covers from the address on -/
  len : Nat
  ends : Nat
  result : Option Xlate
  /-- FETCH reason on failure: 0 no entry, 2 reserved (R444) -/
  reason : Nat
deriving DecidableEq, Repr

/-- An instruction-cache fill in flight (R113, R443). -/
structure Fill where
  /-- physical core, or 1,152 + cluster × 16 + kindling core -/
  cache : Nat
  gen : Nat
  va : Nat
  pa : Nat
  host : Bool
  ends : Nat
  /-- the cycle of its request, and whether it is held at the memory controller (R29, R124, R358) -/
  sent : Nat
  held : Bool
deriving DecidableEq, Repr

/-- An engine command (R282-R290). -/
structure Cmd where
  /-- 0 cpy, 1 gth, 2 sct, 3 coll.set, 4 coll.run, 5 packet copy, 6 code move, 7 the collective part of mdr.red and tmm.red,
  8 a follow-on -/
  op : Nat
  gid : Gid
  serial : Nat
  unit : Nat
  launch : Nat
  part : Nat
  gen : Nat
  core : Nat
  slot : Nat
  lanes : BitVec 32
  ipc : Pc
  ctl : DWord
  w1 : DWord
  w2 : DWord
  w3 : DWord
  src : Nat
  dst : Nat
  issued : Nat
  /-- earlier requests of the issuing threads that the acquire waits for (R285) -/
  acq : List Nat
  /-- 0 queued, 1 transfer under way, 2 completion write under way, 3 waiting for the other members (R290), 4 reading an index list
  or the source of a reduction, 5 a follow-on to be issued, 6 queued and found in order (R411), 7 a result to come -/
  phase : Nat
  lines : List Line
  /-- lines not requested when a halt stopped it at a boundary of 4 KiB (Table 3.7) -/
  rest : List Line
  /-- rows of a gather or scatter requested so far, and arbitration rounds that its line requests lose (R23, R288) -/
  nextRow : Nat
  lost : Nat
  /-- cycle of the last read of its source tile -/
  readEnd : Nat
  /-- the first cycle in which the transfer may end, besides its acknowledgements (R423) -/
  doneAt : Nat
  /-- tile it fills, and the stamp it will have; for `coll.run` its request ordinal -/
  tile : Option Nat
  stamp : Nat
  trap : Option Trap
  /-- slot of a follow-on (R287) -/
  follow : Option Nat
  /-- packet it performs: function, queue, index (R339) -/
  pkt : Option (Nat × Nat × Nat)
  /-- no completion write and no event flag (R378) -/
  noEvents : Bool
  /-- source elements of a collective, those of a sum as FP32 codes (R167, R314); later those of every rank, then the result -/
  values : List Nat
deriving DecidableEq, Repr

/-- A copy engine (R284). -/
structure Engine where
  queue : List Nat
  lastRead : Nat
deriving DecidableEq, Repr

/-- An operand of the array as its map names it (R302): store addresses, pitch in bytes, first row, and for F4 its scales. -/
structure Source where
  addr : Nat
  pitch : Nat
  row0 : Nat
  fmt : Nat
  xv : Nat
  saddr : Nat
  sbase : Nat
  spr : Nat
deriving DecidableEq, Repr

/-- Work of the array, the drain path, the granules and the row-statistics unit under way, under the number of its request, or under
one of its own for a part of a lehr step (R309-R326). -/
structure MatOp where
  /-- 0 mld, 1 mswp, 2 mswp.rel, 3 mst, 4 mdr, 5 row statistic, 6 tmm, 7 accz, 8 accput, 9 accld or accst, 10 mdr.red, 11 nothing -/
  kind : Nat
  gid : Gid
  serial : Nat
  lanes : BitVec 32
  ipc : Pc
  core : Nat
  unit : Nat
  gen : Nat
  contract : Nat
  start : Nat
  due : Nat
  /-- stream factor, and for `mld` the cycles of scale reads -/
  f : Nat
  src : Source
  slice : Nat
  /-- first plane column or first destination column, and number of columns or rows -/
  base : Nat
  count : Nat
  /-- tiles it reads, until a cycle (Table 4.4) -/
  tiles : List Nat
  readEnd : Nat
  /-- granules by row block: physical granule read as old, physical granule written, 64 when its region was dropped (R409) -/
  blocks : List (List (Nat × Nat))
  /-- slices and scale words read so far -/
  rows : List (List Byte)
  scales : List (List Nat)
  plane : Plane
  lines : List Line
  /-- the first poisoned word it read, as an address (R430) -/
  bad : Option Nat
  flags : Nat
  parent : Option Nat
  /-- row statistic: operation, lane register, ε by lane -/
  op : Nat
  dreg : Nat
  eps : List (Nat × Nat)
  /-- lehr: next step, steps, weight operand, columns, refusals to come by step, quanta waited in this step (R26, R319) -/
  step : Nat
  ns : Nat
  srcB : Source
  quanta : List Nat
  waited : Nat
  /-- lehr: the cycle after the last row entry before this step, and the first cycle in which a row may enter (R306, R320) -/
  after : Nat
  floor : Nat
  /-- lehr: request and grant of each step (R26); the array order as its steps leave it when all are made, and as those made so far leave
  it: `mldEnd`, `swapAt`, `entryAt`, `fmtAct`, `fmtSh` (R321) -/
  asks : List (Nat × Nat)
  plan : List Nat
  made : List Nat
  /-- collective part: CID and destination (R314, R322) -/
  cid : Nat
  dest : Nat
  red : Bool
  stop : Option Trap
deriving DecidableEq, Repr

/-- One member of a communicator as this module knows it (R289, R290). -/
structure Member where
  rank : Nat
  setAt : Option Nat
  mask : Nat
  nrank : Nat
  fmt : Nat
  reqc : Nat
  /-- runs not yet met by this module's: issue cycle, OP (16 for a refused one), COUNT, source elements -/
  runs : List (Nat × Nat × Nat × List Nat)
  /-- it cannot take part (R439) -/
  refused : Bool
deriving DecidableEq, Repr

/-- A communicator slot of a partition (R289-R292). -/
structure Comm where
  nrank : Nat
  rank : Nat
  contract : Nat
  fmt : Nat
  reqc : Nat
  /-- 0 free, 1 set-up pending, 2 ready, 3 failed -/
  state : Nat
  runs : Nat
  mask : Nat
  nodes : List Nat
  members : List Member
  /-- the command of this module's pending set-up -/
  setCmd : Option Nat
  /-- this module's runs not yet met by those of every member, in order; none for one that was refused (R290, R411) -/
  own : List (Option Nat)
deriving DecidableEq, Repr

/-- A forwarding entry (R116, R360), in units of 4 KiB. -/
structure Fwd where
  active : Bool
  len : Nat
  old : Nat
  new : Nat
deriving DecidableEq, Repr

/-- A recorded access of a DETERM launch (R138, R427). -/
structure RaceAcc where
  launch : Nat
  agent : Nat
  clock : Nat
  addr : Nat
  /-- where its bytes lie, whatever the mapping that reached them: the number of its place -/
  key : Nat
  len : Nat
  /-- 0 load, 1 store, 2 dsc, 3 engine, 4 atomic or lstu -/
  kind : Nat
  pc : Pc
  lid : Nat
  lane : Nat
  /-- threads that it belongs to besides, as agents: those of an `accst` (R318) -/
  mates : List Nat
deriving DecidableEq, Repr

/-- A command front end (R60-R81, R116, R334). -/
structure FrontEnd where
  seq : Nat
  /-- tail count of each hearth ring and the ring slots in use (R67) -/
  rings : Tab (Nat × List Nat)
  flags : BitVec 64
  fwd : Tab Fwd
  /-- handle-table entries in use (R454) -/
  hsets : List Nat
  /-- selector: the 64 bytes of the schedule table as a number (0 none), active schedule, phase start, per group T, U, n
  (R75-R77) -/
  sched : Nat
  active : Nat
  phaseAt : Nat
  groups : Tab (Nat × Nat × Nat)
  nextPlace : Nat
  /-- the VF that runs (R352) -/
  vf : Option Nat
  hset : Nat
deriving DecidableEq, Repr

/-- A packet taken from a command queue (R336, R342): its 64 bytes as a number. -/
structure Packet where
  bits : BitVec 512
  started : Bool
  done : Bool
  status : Nat
  /-- the context in which it started (R342) -/
  gen : Option Nat
deriving DecidableEq, Repr

/-- A command queue (R334-R337). -/
structure Cq where
  w0 : DWord
  w1 : DWord
  head : Nat
  tail : Nat
  err : Bool
  taken : Tab Packet
  /-- launches and spawned counts, phase boundaries (R454) -/
  spawned : Nat
  phases : Nat
  closing : Bool
deriving DecidableEq, Repr

/-- States of a VF (Table 12.8). -/
inductive VfState where
  | idle | ready | running | paused | evicted
deriving DecidableEq, Repr

/-- What the Crucible keeps of a tenant policy (R345). -/
structure Policy where
  contracts : BitVec 16
  capt : Bool
  rply : Bool
  fabric : Bool
  codeMove : Bool
  maxCtx : Nat
  evict : Bool
  maxBlob : Nat
  key : Nat
  /-- the block as submitted, of which a report gives the digest (R354) -/
  block : List Byte
deriving DecidableEq, Repr

/-- A function's registers (Tables 12.1, 12.2, R348). -/
structure Fn where
  evrb : DWord
  evrh : DWord
  evrt : Nat
  evlost : Nat
  invva : DWord
  /-- invalidations under way or waiting: KIND (4 for a request of the host), PASID, page (R333) -/
  inv : List (Nat × Nat × Nat)
  cqs : Tab Cq
  hqd : Tab DWord
  /-- context entry words: entry e, word j at 8 e + j -/
  ctx : Tab DWord
  cmd : Memory
  busy : Bool
  result : Nat
  data : Memory
  vf : VfState
  policy : Option Policy
  keyid : Nat
  /-- the Crucible's ephemeral key that the last attestation report names, until a delivery uses it (R347) -/
  ephemeral : Option Nat
  part : Nat
  /-- the cycle in which the first invalidation of `inv` began -/
  invAt : Nat
  /-- what its front end holds for it while it does not run (R83, R352) -/
  fe : Option FrontEnd
deriving DecidableEq, Repr

/-- What a halt saves of a core (R83): warps, the bytes and poison of the pages they and their units hold, tile entries, bins,
staging, and the L1 share. -/
structure SavedCore where
  core : Nat
  warps : Tab Warp
  store : Memory
  poison : List Nat
  tiles : Tab Word
  bins : Tab Bin
  staging : List Staged
  l1w : Nat
  fused : Bool
  /-- the cycles from which the special-function pipes of the quadrants are free (R267) -/
  sfu : List Nat
deriving DecidableEq, Repr

/-- A live context (R331, R84). -/
structure Ctx where
  fn : Nat
  entry : Nat
  pasid : Nat
  ptroot : Nat
  keyid : Nat
  hord : Nat
  slim : Nat
  saveb : Nat
  dying : Bool
  halted : Bool
  haltedAt : Nat
  /-- spilled granule images: core × 64 + physical granule at the spill, unit, logical granule, bytes (R88, R372) -/
  images : List (Nat × Nat × Nat × Memory)
  /-- plane section of a core with the unit that held the lease (R308, R370) -/
  planes : Tab (Plane × Plane × Nat)
  /-- the state saved by a halt (R83): cores, ejected threads as cluster and slot, and replayable requests in order of issue -/
  saved : List SavedCore
  slots : List (Nat × Nat × Ejected)
  replays : List Req
  /-- requests that came back during the halt, as they are to return after it (R85, R327) -/
  returns : List Req
  /-- loads saved as packets whose requests are still outstanding: core and end (R84) -/
  outstanding : List (Nat × Nat)
deriving DecidableEq, Repr

/-- An eviction blob in host memory (R352): its handle, its VF, its address and size, and what it holds. -/
structure Blob where
  handle : Nat
  fn : Nat
  addr : Nat
  size : Nat
  ctxs : Tab Ctx
  units : Tab UnitSt
  launches : Tab Launch
  insts : List Inst
  cmds : Tab Cmd
  matOps : Tab MatOp
  pageReqs : Tab PageReq
  /-- requests under which a lehr or an elastic entry waits, and the entries with their cores -/
  reqs : Tab Req
  elq : List (Nat × ElReq)
  fe : FrontEnd
  /-- hearth rings: context, address, bytes -/
  areas : List (Nat × Nat × List Byte)
deriving DecidableEq, Repr

/-- A releasing agent as the scope tests see it (R130, R140), with its warp as it stood at the release. -/
structure Party where
  /-- 0 a thread of a warp, 1 an engine command, 2 an ejected thread, 3 a front end -/
  agent : Nat
  node : Nat
  cluster : Nat
  unit : Nat
  /-- linear id of the unit, as the scope detail names it (R425) -/
  lid : Nat
  wslot : Nat
  /-- the releasing thread, or the threads that issued the command, by their number in the unit -/
  thrs : List Nat
  /-- members of the warp at the release that were not ejected -/
  members : List Nat
deriving DecidableEq, Repr

/-- The last release on a synchronisation line (R139). -/
structure SyncLine where
  /-- bytes the release wrote -/
  addr : Nat
  len : Nat
  scope : Nat
  by_ : Party
deriving DecidableEq, Repr

/-- A release as the vector-clock unit holds it (R133): what carries it (a word, the fences or the reads of an agent), its scope and agent,
and the object with its vector. -/
structure Rel where
  at_ : Nat
  scope : Nat
  by_ : Party
  obj : Nat
deriving DecidableEq, Repr

/-- A slice move (R358, R432): logical slice, new physical slice, pages done. -/
structure SliceMove where
  logical : Nat
  physical : Nat
  page : Nat
  /-- asked by MOVE (otherwise a retirement copy) -/
  host : Bool
deriving DecidableEq, Repr

/-- A sealed report or blob the Crucible holds (R353, R440). -/
structure Report where
  fn : Nat
  handle : Nat
  bytes : List Byte
deriving DecidableEq, Repr

/-- A step to come with the cycle it is due. -/
structure Timed where
  due : Nat
  i : Instr
  subj : Subject
deriving DecidableEq, Repr

/-- The state of the module. -/
structure State where
  /-- core cycles since module reset (R19) -/
  now : Nat
  /-- the group whose instruction `exec` runs; the model's own field (log 2) -/
  cur : Option Gid
  /-- what the event row that `exec` runs is about; the model's own field (log 1) -/
  subj : Subject
  /-- steps to come in a later or this cycle; the model's own field (log 3) -/
  agenda : List Timed
  /-- inputs from outside still to come (log 3) -/
  inbox : List Timed
  /-- counter for serial numbers and free values; the model's own field (log 4) -/
  fresh : Nat
  /-- arbitration rounds lost by the requests to come (R23) and budget quanta refused to the lehr steps to come
  (R25), as the environment imposes them (log 6) -/
  lost : List Nat
  quanta : List Nat
  fnrdyLo : DWord
  fnrdyHi : DWord
  node : Nat
  parts : Tab PartEntry
  mem : Memory
  /-- memory key and save key of each key id that has been given, as numbers that name the keys (R343, R344, R347) -/
  keys : Tab (Nat × Nat)
  /-- hash of the owner's key, as a number: written once at first provisioning (R343) -/
  ownerHash : Option Nat
  /-- the latched partition configuration block (R354, R355) -/
  block : List Byte
  /-- the memory key under which each byte of local memory was last written, where it was under one (R344) -/
  memKeys : Tab Nat
  memPoison : List Nat
  hostMem : Tab Memory
  remoteMem : Tab Memory
  sliceTab : Tab Nat
  slicesLost : List Nat
  moves : Tab SliceMove
  l2 : List L2Line
  syncLines : List SyncLine
  routes : Tab Word
  routesPending : Tab Word
  retiredClusters : List Nat
  retiredPairs : List Nat
  counts : Tab Nat
  pairErrs : List (Nat × Nat)
  linkUp : Bool
  reports : List Report
  blobs : List Blob
  cores : Tab Core
  pools : Tab Pool
  units : Tab UnitSt
  launches : Tab Launch
  insts : List Inst
  ended : List (Word × Nat × Nat)
  reqs : Tab Req
  pageReqs : Tab PageReq
  /-- translations of host pages that the host gave for engines and front ends (R333, R339, R423) -/
  hostPages : List Xlate
  walks : Tab Walk
  fills : Tab Fill
  cmds : Tab Cmd
  engines : Tab Engine
  matOps : Tab MatOp
  toStore : List HeldOut
  comms : Tab Comm
  /-- the four fabric reduction units (R364): the cycle from which each takes source data of another run -/
  reducers : Tab Nat
  fes : Tab FrontEnd
  fns : Tab Fn
  ctxs : Tab Ctx
  /-- vector clocks of DETERM launches: vector × 2^100 + component (R138) -/
  clocks : Tab Nat
  /-- the releases that words, fences and reads carry (R131, R133) -/
  rels : List Rel
  raceLog : List RaceAcc
  /-- what the Crucible has still to bring to an end, as kind and VF: 0 a VF to be placed, 1 a halt, 2 a halt that a replay forces (R91,
  R352) -/
  pfBusy : List (Nat × Nat)
deriving DecidableEq, Repr

/-- A plane with nothing loaded (log 10). -/
def Plane.reset : Plane := ⟨[], [], 0, 0⟩

/-- A quadrant that nothing holds. -/
def Quad.reset : Quad := ⟨none, 0, 0⟩

/-- A core after module reset. -/
def Core.reset : Core :=
  { store := [], storePoison := [], acc := [], accPoison := [], l1w := 0, fused := false, l1 := [], icache := [],
    tlb := [], tiles := [], tsets := [], bins := [], staging := [], warps := [],
    quads := [Quad.reset, Quad.reset, Quad.reset, Quad.reset], accown := none, firstUse := none,
    act := Plane.reset, shadow := Plane.reset, lease := none, elq := [], elAt := 0, leaseQ := [], fmtAct := 0, fmtSh := 0,
    mldEnd := 0, swapAt := 0, entryAt := 0, drainEnd := 0, gwr := [], grd := [], compact := none }

/-- A kindling pool with every slot free. -/
def Pool.reset : Pool := ⟨[], [], [], []⟩

/-- A copy engine with an empty queue. -/
def Engine.reset : Engine := ⟨[], 0⟩

/-- A front end after module reset. -/
def FrontEnd.reset : FrontEnd :=
  { seq := 0, rings := [], flags := 0, fwd := [], hsets := [], sched := 0, active := 0, phaseAt := 0, groups := [],
    nextPlace := 0, vf := none, hset := 0 }

/-- A function after module reset; VF n stands on partition (n − 1) mod 40 (log 10). -/
def Fn.reset (n : Nat) : Fn :=
  { evrb := 0, evrh := 0, evrt := 0, evlost := 0, invva := 0, inv := [], cqs := [], hqd := [], ctx := [], cmd := [],
    busy := false, result := 0, data := [], vf := .idle, policy := none, keyid := 0, ephemeral := none, part := (n - 1) % 40, invAt := 0, fe := none }

/-- A command queue after module reset. -/
def Cq.reset : Cq := ⟨0, 0, 0, 0, false, [], 0, 0, false⟩

/-- A free communicator slot. -/
def Comm.reset : Comm :=
  { nrank := 0, rank := 0, contract := 0, fmt := 0, reqc := 0, state := 0, runs := 0, mask := 0, nodes := [],
    members := [], setCmd := none, own := [] }

/-- The machine right after module reset: cycle 0, no function ready (R27, R28), nothing placed, no queue enabled. -/
def State.reset : State :=
  { now := 0, cur := none, subj := .nothing, agenda := [], inbox := [], fresh := 0, lost := [], quanta := [], fnrdyLo := 0,
    fnrdyHi := 0, node := 0, parts := [], mem := [], keys := [], ownerHash := none, block := [], memKeys := [], memPoison := [], hostMem := [], remoteMem := [], sliceTab := [],
    slicesLost := [], moves := [], l2 := [], syncLines := [], routes := [], routesPending := [], retiredClusters := [],
    retiredPairs := [], counts := [], pairErrs := [], linkUp := true, reports := [], blobs := [], cores := [], pools := [],
    units := [], launches := [], insts := [], ended := [], reqs := [], pageReqs := [], hostPages := [], walks := [], fills := [],
    cmds := [], engines := [], matOps := [], toStore := [], comms := [], reducers := [], fes := [], fns := [], ctxs := [], clocks := [],
    rels := [], raceLog := [], pfBusy := [] }

end Sys2Proof.Machine
end

