-- ==== Sys2Proof/Machine/Ops.lean ====
section
/-! DEFINITION. Tables, memory, and the accessors of every part of the state; pending writes and their landing (R174,
R99); trap entry and the return from it (R228, R230, R376, R377). -/

namespace Sys2Proof.Machine

/-! ## Tables -/

/-- The record under a key. -/
def tabGet {α : Type} (k : Nat) : Tab α → Option α
  | [] => none
  | (k', v) :: r => if k' = k then some v else tabGet k r

/-- The table with the record under a key written; keys stay rising. -/
def tabPut {α : Type} (k : Nat) (v : α) : Tab α → Tab α
  | [] => [(k, v)]
  | (k', v') :: r => if k < k' then (k, v) :: (k', v') :: r else if k' = k then (k, v) :: r else (k', v') :: tabPut k v r

/-- The table without a key. -/
def tabDel {α : Type} (k : Nat) : Tab α → Tab α
  | [] => []
  | (k', v) :: r => if k' = k then r else (k', v) :: tabDel k r

/-- The table with the record under a key changed, if there is one. -/
def tabMod {α : Type} (k : Nat) (f : α → α) : Tab α → Tab α
  | [] => []
  | (k', v) :: r => if k' = k then (k', f v) :: r else (k', v) :: tabMod k f r

/-- The record under a key, or a default. -/
def tabGetD {α : Type} (k : Nat) (d : α) (t : Tab α) : α := (tabGet k t).getD d

/-- Values that differ from a default only: writing the default removes the entry. -/
def tabSet {α : Type} [DecidableEq α] (d : α) (k : Nat) (v : α) (t : Tab α) : Tab α :=
  if v = d then tabDel k t else tabPut k v t

/-- The element of a list, or a default. -/
def nth {α : Type} (l : List α) (n : Nat) (d : α) : α := (l[n]?).getD d

/-- A list sorted by a number, equal numbers in their old order. -/
def insBy {α : Type} (f : α → Nat) (x : α) : List α → List α
  | [] => [x]
  | y :: r => if f y ≤ f x then y :: insBy f x r else x :: y :: r

def sortBy {α : Type} (f : α → Nat) (l : List α) : List α := l.foldl (fun acc x => insBy f x acc) []

/-- The first element with the least value. -/
def minBy {α : Type} (f : α → Nat) : List α → Option α
  | [] => none
  | x :: r =>
    match minBy f r with
    | none => some x
    | some y => if f y < f x then some y else some x

/-- Numbers without repeats, in order of first appearance. -/
def dedup : List Nat → List Nat
  | [] => []
  | x :: r => x :: (dedup r).filter (fun y => y != x)

def maxOf (l : List Nat) : Nat := l.foldl Nat.max 0

/-! ## Memory -/

/-- What an unlisted byte reads as (log 5). -/
def Memory.absent : Byte := 0

def Memory.get : Memory → Nat → Byte
  | [], _ => Memory.absent
  | (a', b) :: r, a => if a' = a then b else Memory.get r a

/-- The memory with one byte removed from the list. -/
def Memory.drop1 : Memory → Nat → Memory
  | [], _ => []
  | (a', b) :: r, a => if a' = a then r else (a', b) :: Memory.drop1 r a

/-- The memory with one byte listed. -/
def Memory.put1 : Memory → Nat → Byte → Memory
  | [], a, b => [(a, b)]
  | (a', b') :: r, a, b =>
    if a < a' then (a, b) :: (a', b') :: r else if a' = a then (a, b) :: r else (a', b') :: Memory.put1 r a b

/-- A byte written: writing what an unlisted byte reads as removes the entry. -/
def Memory.set (m : Memory) (a : Nat) (b : Byte) : Memory :=
  if b = Memory.absent then m.drop1 a else m.put1 a b

def Memory.read (m : Memory) (a : Nat) : Nat → List Byte
  | 0 => []
  | n + 1 => m.get a :: Memory.read m (a + 1) n

def Memory.write (m : Memory) (a : Nat) : List Byte → Memory
  | [] => m
  | b :: r => Memory.write (m.set a b) (a + 1) r

/-- The number of some bytes, the first the least significant (R5). -/
def natOf : List Byte → Nat
  | [] => 0
  | b :: r => b.toNat + 256 * natOf r

/-- The low `n` bytes of a number. -/
def bytesOf : Nat → Nat → List Byte
  | 0, _ => []
  | n + 1, v => BitVec.ofNat 8 (v % 256) :: bytesOf n (v / 256)

def Memory.nat (m : Memory) (a n : Nat) : Nat := natOf (m.read a n)
def Memory.word (m : Memory) (a : Nat) : Word := BitVec.ofNat 32 (m.nat a 4)
def Memory.setWord (m : Memory) (a : Nat) (w : Word) : Memory := m.write a (bytesOf 4 w.toNat)

/-- Addresses of an ascending list, none of them below a bound and no listed byte equal to the unlisted one. -/
def Memory.wfFrom : Memory → Nat → Bool
  | [], _ => true
  | (a, b) :: r, lo => decide (lo ≤ a) && b != Memory.absent && Memory.wfFrom r (a + 1)

/-- The canonical form of a memory. -/
def Memory.wf (m : Memory) : Bool := m.wfFrom 0

/-- A region of bytes removed from the list, so that it reads as unlisted bytes. -/
def Memory.clear (m : Memory) (lo n : Nat) : Memory := m.filter (fun c => c.1 < lo || lo + n ≤ c.1)

/-! ## Bits -/

def bit (w i : Nat) : Bool := w / 2 ^ i % 2 == 1
def fld (w lo width : Nat) : Nat := w / 2 ^ lo % 2 ^ width

/-- The mask of a list of lanes. -/
def maskOf (lanes : List Nat) : BitVec 32 := BitVec.ofNat 32 (lanes.foldl (fun m l => m ||| 2 ^ l) 0)
/-- The lanes of a mask, ascending. -/
def lanesOf (m : BitVec 32) : List Nat := (List.range 32).filter (fun l => m.toNat.testBit l)
def inMask (m : BitVec 32) (l : Nat) : Bool := m.toNat.testBit l

/-- An unsigned number of `w` bits read as two's complement. -/
def sx (w v : Nat) : Int := if 2 ^ (w - 1) ≤ v % 2 ^ w then (v % 2 ^ w : Nat) - (2 ^ w : Nat) else (v % 2 ^ w : Nat)
/-- An integer reduced to `w` bits. -/
def wrap (w : Nat) (i : Int) : Nat := (i % (2 ^ w : Nat)).toNat
/-- `⌈a / b⌉`. -/
def ceilDiv (a b : Nat) : Nat := (a + b - 1) / b

/-! ## Parts of the state -/

def coreOf (s : State) (c : Nat) : Core := tabGetD c Core.reset s.cores
def setCore (s : State) (c : Nat) (x : Core) : State := { s with cores := tabPut c x s.cores }
def modCore (s : State) (c : Nat) (f : Core → Core) : State := setCore s c (f (coreOf s c))

def warpOf (s : State) (c w : Nat) : Option Warp := tabGet w (coreOf s c).warps
def setWarp (s : State) (c w : Nat) (x : Warp) : State :=
  modCore s c fun k => { k with warps := tabPut w x k.warps }
def modWarp (s : State) (c w : Nat) (f : Warp → Warp) : State :=
  modCore s c fun k => { k with warps := tabMod w f k.warps }

def poolOf (s : State) (cl : Nat) : Pool := tabGetD cl Pool.reset s.pools
def modPool (s : State) (cl : Nat) (f : Pool → Pool) : State :=
  { s with pools := tabPut cl (f (poolOf s cl)) s.pools }
def ejOf (s : State) (cl k : Nat) : Option Ejected := tabGet k (poolOf s cl).slots
def modEj (s : State) (cl k : Nat) (f : Ejected → Ejected) : State :=
  modPool s cl fun p => { p with slots := tabMod k f p.slots }

def unitOf (s : State) (u : Nat) : Option UnitSt := tabGet u s.units
def modUnit (s : State) (u : Nat) (f : UnitSt → UnitSt) : State := { s with units := tabMod u f s.units }
def launchOf (s : State) (l : Nat) : Option Launch := tabGet l s.launches
def modLaunch (s : State) (l : Nat) (f : Launch → Launch) : State := { s with launches := tabMod l f s.launches }
def modReq (s : State) (r : Nat) (f : Req → Req) : State := { s with reqs := tabMod r f s.reqs }
def modCmd (s : State) (c : Nat) (f : Cmd → Cmd) : State := { s with cmds := tabMod c f s.cmds }
def feOf (s : State) (p : Nat) : FrontEnd := tabGetD p FrontEnd.reset s.fes
def modFe (s : State) (p : Nat) (f : FrontEnd → FrontEnd) : State := { s with fes := tabPut p (f (feOf s p)) s.fes }
def fnOf (s : State) (n : Nat) : Fn := tabGetD n (Fn.reset n) s.fns
def modFn (s : State) (n : Nat) (f : Fn → Fn) : State := { s with fns := tabPut n (f (fnOf s n)) s.fns }
def ctxOf (s : State) (g : Nat) : Option Ctx := tabGet g s.ctxs
def modCtx (s : State) (g : Nat) (f : Ctx → Ctx) : State := { s with ctxs := tabMod g f s.ctxs }

/-- The launch of a unit. -/
def unitLaunch (s : State) (u : Nat) : Option Launch := (unitOf s u).bind fun x => launchOf s x.launch
/-- The frame values of Table 3.3 before a frame is read. -/
def Frame.none : Frame :=
  { fver := 1, fflags := 0, contract := 0, utx := 1, uty := 1, utz := 1, lcores := 0, gdx := 1, gdy := 1, gdz := 1,
    regs := 1, l1w := 0, tiles := 0, scratch := 0, accres := 0, accel := 0, ejt := 4, rjw := 2048, traph := 0,
    argsz := 0, dumpb := 0, rjtab := [] }
def unitFrame (s : State) (u : Nat) : Frame := ((unitLaunch s u).bind (·.frame)).getD Frame.none
def unitGen (s : State) (u : Nat) : Nat := ((unitLaunch s u).map (·.gen)).getD 0
def unitPart (s : State) (u : Nat) : Nat := ((unitLaunch s u).map (·.part)).getD 0

/-- A flag of the launch frame: 0 DETERM, 1 GBAR, 2 FUSEL1 (Table 3.2). -/
def Frame.flag (f : Frame) (i : Nat) : Bool := f.fflags.toNat.testBit i

/-- Cluster of a physical core (R13). -/
def clusterOf (core : Nat) : Nat := core / 24
def dieOf (core : Nat) : Nat := core / 288

/-- A number no earlier call gave (log 4). -/
def freshNat (s : State) : Nat × State := (s.fresh, { s with fresh := s.fresh + 1 })

/-- A step to come at a cycle (log 3). -/
def schedule (s : State) (due : Nat) (i : Instr) (subj : Subject) : State :=
  { s with agenda := s.agenda ++ [⟨due, i, subj⟩] }
/-- Steps to come that a later happening makes void. -/
def unschedule (s : State) (i : Instr) (subj : Subject) : State :=
  { s with agenda := s.agenda.filter fun t => !(t.i = i && t.subj = subj) }

/-- Ticks since module reset (R18). -/
def tickOf (cycle : Nat) : Nat := cycle / Config.tick
/-- REFTICK (R19). -/
def reftick (s : State) : Word := BitVec.ofNat 32 (tickOf s.now)
/-- The last cycle of a tick (R20). -/
def tickEnd (t : Nat) : Nat := Config.tick * t + (Config.tick - 1)

/-- Arbitration rounds the next request loses (R23, log 6). -/
def takeLost (s : State) : Nat × State :=
  match s.lost with
  | [] => (0, s)
  | n :: r => (n, { s with lost := r })

/-! ## Groups -/

/-- What the meaning of an instruction sees of the group that issues it. -/
structure View where
  gid : Gid
  /-- home core, WSLOT, serial of the warp -/
  core : Nat
  wslot : Nat
  serial : Nat
  unit : Nat
  /-- on a kindling core -/
  kc : Bool
  /-- active lanes, ascending (R33, R37) -/
  act : List Nat
  pc : Pc
  run : Run
  bsize : Nat
  page : Nat
deriving DecidableEq, Repr

/-- Lanes in a state, ascending. -/
def lanesIn (w : Warp) (p : LaneState → Bool) : List Nat :=
  (List.range 32).filter fun l => match w.lanes[l]? with | some x => p x.st | none => false

def isRunning : LaneState → Bool
  | .running => true
  | _ => false

def activeLanes (w : Warp) : List Nat := lanesIn w isRunning
/-- VLANES: lanes that hold a thread (R188). -/
def heldLanes (w : Warp) : List Nat :=
  (List.range 32).filter fun l => match w.lanes[l]? with | some x => x.st != .vacant | none => false

def view (s : State) : Gid → Option View
  | .warp c w =>
    match warpOf s c w with
    | none => none
    | some x => some ⟨.warp c w, c, w, x.serial, x.unit, false, activeLanes x, x.pc, x.run, x.bsize, x.page⟩
  | .kindle cl k =>
    match ejOf s cl k with
    | none => none
    | some e =>
      some ⟨.kindle cl k, e.core, e.wslot, e.serial, e.unit, true, [e.lane], e.pc, e.run, e.bsize, 0⟩

/-- Change of the run state of a group. -/
def modRun (s : State) (g : Gid) (f : Run → Run) : State :=
  match g with
  | .warp c w => modWarp s c w fun x => { x with run := f x.run }
  | .kindle cl k => modEj s cl k fun e => { e with run := f e.run }

def setPc (s : State) (g : Gid) (pc : Pc) : State :=
  match g with
  | .warp c w => modWarp s c w fun x => { x with pc := pc }
  | .kindle cl k => modEj s cl k fun e => { e with pc := pc }

def setStatus (s : State) (g : Gid) (st : Status) : State := modRun s g fun r => { r with status := st }

/-- The thread in a lane of a group. -/
def thrOf (s : State) (g : Gid) (lane : Nat) : Option Thread :=
  match g with
  | .warp c w => ((warpOf s c w).bind fun x => x.lanes[lane]?).bind (·.thr)
  | .kindle cl k => (ejOf s cl k).bind fun e => if e.lane = lane then some e.thr else none

def modLane (w : Warp) (lane : Nat) (f : Lane → Lane) : Warp :=
  { w with lanes := w.lanes.mapIdx fun i x => if i = lane then f x else x }

def modThr (s : State) (g : Gid) (lane : Nat) (f : Thread → Thread) : State :=
  match g with
  | .warp c w => modWarp s c w fun x => modLane x lane fun l => { l with thr := l.thr.map f }
  | .kindle cl k => modEj s cl k fun e => if e.lane = lane then { e with thr := f e.thr } else e

/-- Store address of register xn of a lane of a block that begins at a page (R98). -/
def regAddr (page n lane : Nat) : Nat := page * 2048 + n * 128 + lane * 4

/-- The value of a lane register or temporary, as the writes usable by now left it (R174, R36, R180). -/
def readX (s : State) (v : View) (lane reg : Nat) : Word :=
  match v.gid with
  | .warp c w =>
    if reg < 120 then (coreOf s c).store.word (regAddr v.page reg lane)
    else
      match (warpOf s c w).bind fun x => x.lanes[lane]? with
      | some l => tabGetD (reg - 120) 0 l.tmps
      | none => 0
  | .kindle cl k =>
    match ejOf s cl k with
    | some e => if reg < 120 then tabGetD reg 0 e.regs else tabGetD (reg - 120) 0 e.tmps
    | none => 0

/-- The pair a:a+1, low word first (R151). -/
def readX2 (s : State) (v : View) (lane reg : Nat) : Nat :=
  (readX s v lane reg).toNat + 2 ^ 32 * (readX s v lane (reg + 1)).toNat

def readP (s : State) (v : View) (lane p : Nat) : Bool :=
  match thrOf s v.gid lane with
  | some t => t.preds.toNat.testBit p
  | none => false

def readK (s : State) (u k : Nat) : DWord :=
  match unitOf s u with
  | some x => tabGetD k 0 x.k
  | none => 0

/-- Words cleared in the poison list of a core's store. -/
def clearPoison (c : Core) (addr : Nat) : Core :=
  { c with storePoison := c.storePoison.filter fun a => a != addr / 4 * 4 }

/-- What a write to a thread-held register or predicate makes of the thread of a lane (R157, R226, R241). -/
def threadAfter (lane : Nat) (t : Thread) : PendWrite → Thread
  | .p idx l b =>
    if l != lane then t
    else { t with preds := if b then t.preds ||| BitVec.ofNat 8 (2 ^ idx) else t.preds &&& BitVec.ofNat 8 (255 - 2 ^ idx) }
  | .flags l bits => if l != lane then t else { t with flags := t.flags ||| bits }
  | .sr num l val =>
    if l != lane then t
    else match num with
    | 13 => { t with rm := BitVec.ofNat 2 val.toNat }
    | 14 => { t with flags := BitVec.ofNat 8 val.toNat }
    | 22 => { t with tmask := BitVec.ofNat 3 val.toNat }
    | 24 => { t with ret := BitVec.ofNat 48 (t.ret.toNat / 2 ^ 32 * 2 ^ 32 + val.toNat) }
    | _ => t
  | _ => t

/-- One pending write that becomes usable (R8, R99). Writing a word in full clears its poison (R431). -/
def landWrite (s : State) (v : View) : PendWrite → State
  | .x reg lane val =>
    match v.gid with
    | .warp c w =>
      if reg < 120 then
        modCore s c fun k => { clearPoison k (regAddr v.page reg lane) with
          store := k.store.setWord (regAddr v.page reg lane) val }
      else modWarp s c w fun x => modLane x lane fun l => { l with tmps := tabSet 0 (reg - 120) val l.tmps }
    | .kindle cl k =>
      modEj s cl k fun e =>
        if reg < 120 then
          { e with regs := tabSet 0 reg val e.regs
                   written := if e.written.contains reg then e.written else e.written ++ [reg]
                   poison := e.poison.filter fun r => r != reg }
        else { e with tmps := tabSet 0 (reg - 120) val e.tmps }
  | .p idx lane b =>
    modThr s v.gid lane fun t =>
      { t with preds := if b then t.preds ||| BitVec.ofNat 8 (2 ^ idx)
                        else t.preds &&& BitVec.ofNat 8 (255 - 2 ^ idx) }
  | .flags lane bits => modThr s v.gid lane fun t => { t with flags := t.flags ||| bits }
  | .sr num lane val =>
    let warpSr (f : Warp → Warp) : State := modWarp s v.core v.wslot fun w => if w.serial = v.serial then f w else w
    match num with
    | 13 => modThr s v.gid lane fun t => { t with rm := BitVec.ofNat 2 val.toNat }
    | 14 => modThr s v.gid lane fun t => { t with flags := BitVec.ofNat 8 val.toNat }
    | 18 => warpSr fun w => { w with ejt := Nat.min 16 (val.toNat % 32) }
    | 19 => warpSr fun w => { w with rjw := val }
    | 22 => modThr s v.gid lane fun t => { t with tmask := BitVec.ofNat 3 val.toNat }
    | 24 => modThr s v.gid lane fun t =>
              { t with ret := BitVec.ofNat 48 (t.ret.toNat / 2 ^ 32 * 2 ^ 32 + val.toNat) }
    | 25 => warpSr fun w => { w with stallw := val }
    | 27 => modUnit s v.unit fun u => { u with binage := Nat.max 1 (val.toNat % 65536) }
    | _ => s
  | .stack addr val =>
    modCore s v.core fun k => { clearPoison k addr with store := k.store.setWord addr val }
  | .spec val => modWarp s v.core v.wslot fun w => { w with specSr := val }

/-- Flags to OR in, which come after a write of FLAGS that takes effect in the same cycle (R241). -/
def isFlags : PendWrite → Bool
  | .flags .. => true
  | _ => false

/-- Writes of a group that become usable now, in issue order (R174), flags last. Those of this cycle stay listed until the next
cycle begins, so that a return of the same cycle can be ordered against them. -/
def landGroup (s : State) (g : Gid) : State :=
  match view s g with
  | none => s
  | some v =>
    let due := v.run.pend.filter fun p => p.due ≤ s.now
    if due.isEmpty && v.run.pend.all (fun p => s.now ≤ p.due) then s
    else
      let s1 := modRun s g fun r => { r with pend := r.pend.filter fun p => s.now ≤ p.due }
      let now := due.filter fun p => p.due = s.now
      (sortBy (·.iss) (now.filter fun p => !isFlags p.w) ++ now.filter fun p => isFlags p.w).foldl
        (fun a p => landWrite a v p.w) s1

/-- Uniform writes that become usable now: those of core quadrants in issue order, then those of kindling cores
(R232). -/
def landUnit (s : State) (u : Nat) : State :=
  match unitOf s u with
  | none => s
  | some x =>
    if x.kpend.isEmpty then s
    else
      let due := x.kpend.filter fun p => p.due = s.now
      let ordered := sortBy (·.iss) (due.filter fun p => !p.kc) ++ due.filter (·.kc)
      modUnit s u fun y =>
        { y with kpend := y.kpend.filter fun p => s.now ≤ p.due
                 k := ordered.foldl (fun t p => tabSet 0 p.reg p.v t) y.k }

/-- Every group of the module, cores before pools (log 3). -/
def groups (s : State) : List Gid :=
  (s.cores.flatMap fun (c, k) => k.warps.map fun (w, _) => Gid.warp c w) ++
  (s.pools.flatMap fun (cl, p) => p.slots.map fun (k, _) => Gid.kindle cl k)

/-- A write of a group that becomes usable after `lat` cycles (R8). -/
def pendWrite (s : State) (g : Gid) (lat : Nat) (w : PendWrite) : State :=
  modRun s g fun r => { r with pend := r.pend ++ [⟨s.now + lat, s.now, w⟩], usable := Nat.max r.usable (s.now + lat) }

def pendWrites (s : State) (g : Gid) (lat : Nat) (ws : List PendWrite) : State :=
  modRun s g fun r => { r with pend := r.pend ++ ws.map fun w => ⟨s.now + lat, s.now, w⟩
                               usable := Nat.max r.usable (s.now + lat) }

/-- A uniform write (R232): usable after `lat` cycles. -/
def pendK (s : State) (v : View) (lat k : Nat) (x : DWord) : State :=
  modRun (modUnit s v.unit fun u => { u with kpend := u.kpend ++ [⟨s.now + lat, s.now, v.kc, k, x⟩] }) v.gid
    fun r => { r with usable := Nat.max r.usable (s.now + lat) }

/-- A uniform register written in this cycle by a return of an instruction issued at `iss` (R232): a later-issued
write that became usable in this cycle remains. -/
def putK (s : State) (u iss k : Nat) (x : DWord) : State :=
  modUnit s u fun y =>
    if y.kpend.any fun p => p.due = s.now && p.reg = k && (iss < p.iss || p.kc) then y
    else { y with k := tabSet 0 k x y.k }

/-- A lane register written in this cycle by a return of an instruction issued at `iss` (R174). -/
def putX (s : State) (v : View) (iss lane reg : Nat) (val : Word) : State :=
  let later (p : Pend) : Bool :=
    match p.w with
    | .x r l _ => p.due = s.now && iss < p.iss && r = reg && l = lane
    | _ => false
  if v.run.pend.any later then s else landWrite s v (.x reg lane val)

/-! ## Slots -/

def slotCount (r : Run) (i : Nat) : Nat := nth r.slots i 0
def slotAdd (s : State) (g : Gid) (i : Nat) : State :=
  modRun s g fun r => { r with slots := r.slots.mapIdx fun j n => if j = i then n + 1 else n }
def slotSub (s : State) (g : Gid) (i : Nat) : State :=
  modRun s g fun r => { r with slots := r.slots.mapIdx fun j n => if j = i then n - 1 else n }

/-- Whether the park of R176 is over: fixed latencies, slot 3, and the slots of the mask. -/
def parkOver (s : State) (r : Run) : Bool :=
  decide (r.usable ≤ s.now) && slotCount r 3 == 0 &&
  (List.range 3).all fun i => !r.trl.toNat.testBit i || slotCount r i == 0

/-! ## Forwarding (R117) -/

/-- An address after the active forwarding entries of a partition. -/
def forward (s : State) (part : Nat) (a : Nat) : Nat :=
  match (feOf s part).fwd.find? fun (_, f) => f.active && f.old * 4096 ≤ a && a < (f.old + f.len) * 4096 with
  | some (_, f) => f.new * 4096 + (a - f.old * 4096)
  | none => a

def forwardPc (s : State) (part : Nat) (a : Pc) : Pc := BitVec.ofNat 48 (forward s part a.toNat)

/-! ## Traps -/

/-- Codes of Table 15.1. -/
def cSwtrap : Nat := 0x01
def cBrk : Nat := 0x02
def cIll : Nat := 0x03
def cKunav : Nat := 0x04
def cRunx : Nat := 0x05
def cCsovf : Nat := 0x06
def cCsund : Nat := 0x07
def cCvtovf : Nat := 0x08
def cCmix : Nat := 0x09
def cPmask : Nat := 0x0A
def cSpecx : Nat := 0x0B
def cEngref : Nat := 0x0C
def cOplim : Nat := 0x0D
def cFetch : Nat := 0x10
def cPage : Nat := 0x11
def cPerm : Nat := 0x12
def cAccess : Nat := 0x13
def cAlign : Nat := 0x14
def cScope : Nat := 0x15
def cOwn : Nat := 0x16
def cPoison : Nat := 0x17
def cEjlim : Nat := 0x20
def cSpinlim : Nat := 0x21
def cBarx : Nat := 0x22
def cLost : Nat := 0x23
def cNested : Nat := 0x30
def cHalt : Nat := 0x31
def cRplmis : Nat := 0x32

/-- TRAPCAUSE (R374): DEF in bit 31, KC in bit 30. -/
def causeWord (code : Nat) (deferred kc : Bool) : Nat :=
  code + (if kc then 2 ^ 30 else 0) + (if deferred then 2 ^ 31 else 0)

/-- The record of a precise trap: RET and IPC are the instruction (R376). -/
def precise (v : View) (code aux : Nat) (faddr : Nat := 0) : Trap :=
  { word := causeWord code false v.kc, aux := BitVec.ofNat 32 aux, ret := v.pc, ipc := v.pc,
    faddr := BitVec.ofNat 64 faddr, lanes := maskOf v.act }

/-- A launch halts fatally (R378): the stop is broadcast 16 cycles later. Of the conditions of one cycle the first is that of the lowest
core and WSLOT; the others, and later ones, are counted (R447). -/
def haltLaunch (s : State) (l core wslot lane : Nat) (first : Trap) (second : Option Trap) : State :=
  match (launchOf s l).bind (·.fatal) with
  | some f =>
    let before := decide (f.cycle = s.now) && (core < f.core || core == f.core && wslot < f.wslot)
    let g := if before then { f with core := core, wslot := wslot, lane := lane, first := first, second := second } else f
    modLaunch s l fun x => { x with fatal := some { g with extra := f.extra + 1 } }
  | none =>
    let s1 := modLaunch s l fun x =>
      { x with fatal := some ⟨s.now, core, wslot, lane, first, second, 0, false, reftick s⟩ }
    schedule s1 (s.now + 16) .fatalStop (.of [l])

/-- A fatal trap of a group (R378). -/
def fatalTrap (s : State) (v : View) (first : Trap) (second : Option Trap) : State :=
  match unitOf s v.unit with
  | none => s
  | some u => haltLaunch (setStatus s v.gid .stopped) u.launch v.core v.wslot (v.act.headD 0) first second

/-- The record of a trap again as the second of a nested pair (R377, Table 15.1). -/
def nestedRecord (t : Trap) : Trap :=
  { t with word := t.word / 256 * 256 + cNested, aux := BitVec.ofNat 32 (t.word % 256) }

/-- The last record a thread took (R228). -/
def lastRecord (t : Thread) : Trap :=
  { word := t.cause.toNat, aux := t.aux, ret := t.ret, ipc := t.ipc, faddr := t.faddr, lanes := 0 }

/-- A trap is raised for a group (R376, R377): fatal without a handler, when a thread is in its handler, or by its
cause; else the group completes its park under an empty mask and then enters the handler. -/
def raiseTrap (s : State) (v : View) (t : Trap) (rets : List (Nat × Pc)) : State :=
  let f := unitFrame s v.unit
  match v.act.filterMap fun l => (thrOf s v.gid l).filter (·.inHandler) with
  | th :: _ => fatalTrap s v (lastRecord th) (some (nestedRecord t))
  | [] =>
    if f.traph = 0 ∨ cNested ≤ t.word % 256 then fatalTrap s v t none
    else modRun s v.gid fun r => { r with trl := 0, status := .parked (.trap t rets) }

/-- Entry into the handler (R228): each thread saves its return address, cause and detail and is marked; TRAPMASK
stays; the group goes to TRAPH, an open region is dropped first (R409), and an ejection count restarts (R382). -/
def enterThread (t : Trap) (rets : List (Nat × Pc)) (lane : Nat) (th : Thread) : Thread :=
  { th with ret := tabGetD lane t.ret rets, cause := BitVec.ofNat 32 t.word, aux := t.aux, ipc := t.ipc,
            faddr := t.faddr, inHandler := true }

/-- The run state at a run start (R172, R177, R180), ready since a cycle. -/
def Run.start (r : Run) (since : Nat) : Run := { r with count := 0, trl := 0, status := .ready since }

/-- A new run of a group: the temporaries of every lane read 0 (R180). -/
def startRun (s : State) (g : Gid) (since : Nat) : State :=
  let s1 := modRun s g fun r => r.start since
  match g with
  | .warp c w => modWarp s1 c w fun x =>
      { x with lanes := x.lanes.map fun l => { l with tmps := [] } }
  | .kindle cl k => modEj s1 cl k fun e => { e with tmps := [] }

/-- A granule read as zero (R110). -/
def zeroGranule (s : State) (core phys : Nat) : State :=
  modCore s core fun k => { k with acc := k.acc.clear (4096 * phys) 4096
                                   accPoison := k.accPoison.filter fun a => a / 4096 != phys }

/-- A region is dropped as `sdis` does it (R324, R409): touched shadow granules are zeroed, and what is still to be written to them and
the held stores are lost. -/
def dropRegion (s : State) (c w : Nat) : State :=
  match warpOf s c w with
  | none => s
  | some x =>
    match x.spec with
    | none => s
    | some r =>
      let gm := ((unitOf s x.unit).map (·.gmap)).getD []
      let phys := r.touched.filterMap fun o => tabGet (r.sbase + o) gm
      let s1 := { s with matOps := s.matOps.map fun (i, m) =>
        if m.serial = x.serial then
          (i, { m with blocks := m.blocks.map fun b => b.map fun (o, n) => if phys.contains n then (o, 64) else (o, n)
                       lines := m.lines.map fun l => match l.dst with
                         | .gran _ _ p _ => if phys.contains p then { l with dst := .none } else l
                         | _ => l })
        else (i, m) }
      modWarp (phys.foldl (fun a p => zeroGranule a c p) s1) c w fun y => { y with spec := none, specSr := 0 }

def enterHandler (s : State) (v : View) (t : Trap) (rets : List (Nat × Pc)) : State :=
  let h := forwardPc s (unitPart s v.unit) (BitVec.ofNat 48 (unitFrame s v.unit).traph.toNat)
  let s1 := v.act.foldl (fun a l => modThr a v.gid l (enterThread t rets l)) s
  let s2 :=
    match v.gid with
    | .warp c w => dropRegion s1 c w
    | .kindle cl k => modEj s1 cl k fun e => { e with t0 := tickOf s.now }
  startRun (setPc s2 v.gid h) v.gid (s.now + 4)

/-- The return from a handler (R230): the mark is cleared. The transfer itself is that of R208. -/
def leaveHandler (s : State) (v : View) : State :=
  v.act.foldl (fun a l => modThr a v.gid l fun t => { t with inHandler := false }) s

end Sys2Proof.Machine
end

