-- ==== Sys2Proof/Machine/Mem.lean ====
section
/-! DEFINITION. Translation by the page tables (R333, R416, R417), the physical places behind an address (R356-R361),
reads and writes at the point of coherence, poison of memory (R429), the shared cache (R108, R109), the L1 (R106,
R107, R127, R128) and the paths of Table 10.2. -/

namespace Sys2Proof.Machine

/-! ## Page tables (log 7) -/

/-- Fields of an entry as the translation service reads it: one number of `Config.pteWord`. -/
def pteValid (p : Nat) : Bool := bit p 0
def pteLeaf (p : Nat) : Bool := bit p 1
def pteR (p : Nat) : Bool := bit p 2
def pteW (p : Nat) : Bool := bit p 3
def pteX (p : Nat) : Bool := bit p 4
/-- The entry names host memory (R333). -/
def pteHost (p : Nat) : Bool := bit p 5
/-- Another reserved value stands in the entry (R417). -/
def pteBad (p : Nat) : Bool := bit p 6
/-- ORD (R122). -/
def pteOrd (p : Nat) : Nat := fld p 8 2
/-- Contract stamp of the page (R166). -/
def pteStamp (p : Nat) : Nat := fld p 12 4
def pteKey (p : Nat) : Nat := fld p 16 8
/-- Physical address of the page, or of the next table. -/
def pteAddr (p : Nat) : Nat := fld p 32 64

/-- The physical slice of a logical one during and outside a move (R357, R358): a page of 64 KiB below the number done
is new. -/
def sliceOf (s : State) (logical page : Nat) : Nat :=
  let old := tabGetD logical logical s.sliceTab
  match s.moves.find? fun (_, m) => m.logical = logical with
  | some (_, m) => if page < m.page then m.physical else old
  | none => old

/-- Storage address of a local physical address. -/
def storageOf (s : State) (pa : Nat) : Nat :=
  let a := pa % 2 ^ 50
  sliceOf s (a / 2 ^ 30) (a % 2 ^ 30 / 65536) * 2 ^ 30 + a % 2 ^ 30

/-- The place of a translated physical address: bits [63:50] name the module (R361). -/
def placeOf (s : State) (pa : Nat) : Place :=
  if pa / 2 ^ 50 % 2 ^ 14 = s.node then .dev (pa % 2 ^ 50) else .remote (pa / 2 ^ 50 % 2 ^ 14) (pa % 2 ^ 50)

def placeByte (s : State) : Place → Byte
  | .dev a => s.mem.get (storageOf s a)
  | .remote n a => Memory.get (tabGetD n [] s.remoteMem) a
  | .host p a => Memory.get (tabGetD p [] s.hostMem) a

/-- The place `n` bytes further on. -/
def Place.plus (p : Place) (n : Nat) : Place :=
  match p with
  | .dev a => .dev (a + n)
  | .remote k a => .remote k (a + n)
  | .host k a => .host k (a + n)

/-- A number for each byte of memory: the bytes of a place have consecutive numbers, and no two places meet (R124, R138). -/
def Place.key : Place → Nat
  | .dev a => a % 2 ^ 50
  | .remote n a => (n + 1) * 2 ^ 50 + a % 2 ^ 50
  | .host p a => 2 ^ 70 + p * 2 ^ 64 + a % 2 ^ 64

def readPlace (s : State) (p : Place) (n : Nat) : List Byte := (List.range n).map fun i => placeByte s (p.plus i)

/-- Poisoned sectors of local memory (R429) that a range of bytes touches. -/
def poisonedPlace (s : State) (p : Place) (n : Nat) : Bool :=
  match p with
  | .dev a => !s.memPoison.isEmpty && (List.range n).any fun i => s.memPoison.contains (storageOf s (a + i) / 32)
  | _ => false

def writeByte (s : State) (p : Place) (b : Byte) : State :=
  match p with
  | .dev a => { s with mem := s.mem.set (storageOf s a) b }
  | .remote n a => { s with remoteMem := tabPut n (Memory.set (tabGetD n [] s.remoteMem) a b) s.remoteMem }
  | .host k a => { s with hostMem := tabPut k (Memory.set (tabGetD k [] s.hostMem) a b) s.hostMem }

/-- Bytes written at the point of coherence. A sector written in full loses its poison (R431). -/
def writePlace (s : State) (p : Place) (bytes : List Byte) : State :=
  let s1 := (bytes.mapIdx fun i b => (i, b)).foldl (fun a (i, b) => writeByte a (p.plus i) b) s
  match p with
  | .dev a =>
    if s1.memPoison.isEmpty then s1
    else { s1 with memPoison := s1.memPoison.filter fun k =>
             !((List.range 32).all fun j => (List.range bytes.length).any fun i => storageOf s (a + i) = 32 * k + j) }
  | _ => s1

/-! ## Memory keys (R344) -/

/-- The memory key of a context, if one has been given for its KEYID. -/
def keyOf (s : State) (gen : Nat) : Option Nat := (ctxOf s gen).bind fun c => (tabGet c.keyid s.keys).map (·.1)

/-- The save key of a key id (R343). -/
def saveKey (s : State) (keyid : Nat) : Nat := (tabGetD keyid (0, 0) s.keys).2

/-- A byte of memory as an access under a memory key reads it. Bytes that another key enciphered do not come out as they were written. An
access under no key, and bytes written under none, go by the stored byte: DESIGN CHOICE (log 105). -/
def byteAs (s : State) (key : Option Nat) (p : Place) : Byte :=
  match p with
  | .dev a =>
    match tabGet (storageOf s a) s.memKeys, key with
    | some k, some m => if k = m then placeByte s p else Config.otherKey k m (storageOf s a) (placeByte s p)
    | _, _ => placeByte s p
  | _ => placeByte s p

/-- Bytes as an access of a context reads them. -/
def readAs (s : State) (gen : Nat) (p : Place) (n : Nat) : List Byte :=
  if s.memKeys.isEmpty then readPlace s p n else (List.range n).map fun i => byteAs s (keyOf s gen) (p.plus i)

/-- The keys of the bytes of memory after a write of a context. -/
def keysAfter (s : State) (gen : Nat) (p : Place) (n : Nat) : Tab Nat :=
  match p, keyOf s gen with
  | .dev a, some k => (List.range n).foldl (fun t i => tabPut (storageOf s (a + i)) k t) s.memKeys
  | _, _ => s.memKeys

/-- No byte of a region is under a key. -/
def dropKeys (t : Tab Nat) (lo n : Nat) : Tab Nat := t.filter fun c => c.1 < lo || lo + n ≤ c.1

/-- A write of a context at the point of coherence, under its memory key. -/
def writeAs (s : State) (gen : Nat) (p : Place) (bytes : List Byte) : State :=
  writePlace { s with memKeys := keysAfter s gen p bytes.length } p bytes

/-- A plain write ends what a release left at its bytes (R139). -/
def breakRelease (s : State) (p : Place) (n : Nat) : State :=
  match p with
  | .dev a =>
    if s.syncLines.isEmpty then s
    else { s with syncLines := s.syncLines.filter fun r => !(r.addr < a + n && a < r.addr + r.len) }
  | _ => s

/-- A sector of local memory becomes poisoned (R428, R430). -/
def poisonPlace (s : State) (p : Place) : State :=
  match p with
  | .dev a =>
    let k := storageOf s a / 32
    if s.memPoison.contains k then s else { s with memPoison := s.memPoison ++ [k] }
  | _ => s

/-- The levels of a walk: low bit and width of the index, and the size of a leaf found there (R416). -/
def walkLevels : List (Nat × Nat × Option Nat) :=
  [(39, 9, none), (30, 9, some (2 ^ 30)), (21, 9, some (2 ^ 21)), (16, 5, some (2 ^ 16))]

/-- How a walk ends: a translation, or no entry (0) or a reserved value (2). -/
inductive WalkEnd where
  | hit (x : Xlate)
  | miss (reason : Nat)
deriving DecidableEq, Repr

/-- A walk from a table: its end and the physical addresses of the entries read (R416). -/
def walkFrom (s : State) (gen va : Nat) : List (Nat × Nat × Option Nat) → Nat → WalkEnd × List Nat
  | [], _ => (.miss 2, [])
  | (lo, width, size) :: rest, table =>
    let a := table + 8 * fld va lo width
    let p := Config.pteWord (BitVec.ofNat 64 (natOf (readPlace s (placeOf s a) 8)))
    if !pteValid p then (.miss 0, [a])
    else if pteLeaf p then
      match size with
      | none => (.miss 2, [a])
      | some n =>
        if pteOrd p = 3 || pteBad p then (.miss 2, [a])
        else (.hit { gen := gen, va := va % 2 ^ 48 / n * n, size := n, pa := pteAddr p / n * n, host := pteHost p,
                     ord := if pteHost p then (match ctxOf s gen with
                              | some c => if c.hord = 2 then 0 else c.hord
                              | none => 0) else pteOrd p,
                     stamp := pteStamp p, r := pteR p, w := pteW p, x := pteX p, keyid := pteKey p }, [a])
    else
      let (e, l) := walkFrom s gen va rest (pteAddr p / 4096 * 4096)
      (e, a :: l)

/-- The walk of a virtual address of a context, from PTROOT (R333). An access to data in the aperture never comes here (R92); a fetch and a front
end are translated at every address (log 101). -/
def walk (s : State) (gen va : Nat) : WalkEnd × List Nat :=
  match ctxOf s gen with
  | none => (.miss 0, [])
  | some c => walkFrom s gen va walkLevels c.ptroot

/-- A cached translation that serves an address (R124). -/
def tlbFind (t : List Xlate) (gen va : Nat) : Option Xlate :=
  t.find? fun x => x.gen = gen && x.va ≤ va % 2 ^ 48 && va % 2 ^ 48 < x.va + x.size

/-- The place behind an address under a translation; host memory lies under the PASID of the context (R331). -/
def xlPlace (s : State) (x : Xlate) (va : Nat) : Place :=
  if x.host then .host ((ctxOf s x.gen).map (·.pasid) |>.getD 0) va
  else placeOf s (x.pa + (va % 2 ^ 48 - x.va))

/-- The port by which a message to a node leaves: the lowest-numbered ready port in the mask of its routing entry (R361). -/
def routePort (s : State) (node : Nat) : Option Nat :=
  (List.range 24).find? fun p => bit (tabGetD node 0 s.routes).toNat p && bit s.fnrdyHi.toNat p

def partEntry (s : State) (p : Nat) : PartEntry :=
  tabGetD p ⟨false, false, 0, 0, 0, 0, 0, 0, 0, 0⟩ s.parts

/-- A logical slice that the partition of a context does not hold: one that lies outside its SCNT slices or was taken from it, or one with no
physical slice among the 432 (R356, R357, R433). A context whose partition is not enabled is not tested: DESIGN CHOICE (log 104). -/
def outsidePart (s : State) (gen slice : Nat) : Bool :=
  match ctxOf s gen with
  | none => false
  | some c =>
    let e := partEntry s (fnOf s c.fn).part
    c.fn != 0 && e.en && !(e.sbase ≤ slice && slice < e.sbase + e.scnt && decide (tabGetD slice slice s.sliceTab < 432))

/-- A physical address that nothing reaches: a slice that is not the partition's, or a node whose routing entry names no ready port (R417,
R433, R438). -/
def unreachable (s : State) (gen : Nat) (p : Place) : Bool :=
  match p with
  | .dev a => s.slicesLost.contains (a / 2 ^ 30) || outsidePart s gen (a / 2 ^ 30)
  | .remote n _ => (tabGet n s.routesPending).isNone && (routePort s n).isNone
  | .host _ _ => false

/-- HBM stacks a range of bytes lies in are ready: 4 KiB units are interleaved over twelve (R29, R356). -/
def stackReady (s : State) (pa : Nat) : Bool :=
  fld s.fnrdyLo.toNat 48 12 == 4095 || bit s.fnrdyLo.toNat (48 + Config.stackOf (pa / 4096 * 32) % 12)

/-- A request to a place is held: its stack is not ready (R29), its page is being copied (R358), or the routing
entry of its node is being changed (R361). -/
def placeHeld (s : State) : Place → Bool
  | .dev a =>
    -- a page that a slice move copies is held until it is new (R358)
    !stackReady s a || s.moves.any fun (_, m) => m.logical = a / 2 ^ 30 && m.page = a % 2 ^ 30 / 65536
  | .remote n _ => (tabGet n s.routesPending).isSome
  | .host .. => false

/-- An access to a place is held at the memory controller now; one that the shared cache serves does not come there. -/
def heldAt (s : State) (p : Place) : Bool :=
  placeHeld s p && match p with | .dev a => !s.l2.any fun x => x.pa = a / 128 | _ => true

/-- The condition of Table 17.2 a translated access meets: none, or the trap code. -/
def accessCause (s : State) (x : Xlate) (va : Nat) (r w : Bool) : Option Nat :=
  let keyOk := x.host || match ctxOf s x.gen with
    | some c => x.keyid == c.keyid
    | none => true
  if unreachable s x.gen (xlPlace s x va) then some cAccess
  else if (r && !x.r) || (w && !x.w) || !keyOk then some cPerm
  else none

/-- A range cut where a page of 64 KiB ends. -/
def cutPages : Nat → Nat → Nat → List (Nat × Nat)
  | 0, _, _ => []
  | fuel + 1, va, n =>
    if n = 0 then []
    else
      let k := Nat.min n (65536 - va % 65536)
      (va, k) :: cutPages fuel (va + k) (n - k)

def pageCuts (va n : Nat) : List (Nat × Nat) := cutPages (n / 65536 + 2) va n

/-- Pages as walks and page requests name them. -/
def pageNo (va : Nat) : Nat := va % 2 ^ 48 / 65536

/-! ## Host pages of engines and front ends (R333, R339, R346, R423) -/

/-- The serial number under which the page requests of engines and front ends stand; no group has it. -/
def agentSerial : Nat := 2 ^ 64

/-- The host refused the page request for a page to an engine or a front end. -/
def hostRefused (s : State) (gen va : Nat) : Bool :=
  s.pageReqs.any fun (_, q) => q.serial = agentSerial && q.pri && q.refused && q.gen = gen && pageNo q.va = pageNo va

/-- Host pages of a range that have no ATS translation yet. While the link is down none is asked for (R437). -/
def hostWants (s : State) (gen va n : Nat) : List Nat :=
  if !s.linkUp then []
  else (pageCuts va n).filterMap fun (a, _) =>
    match (walk s gen a).1 with
    | .hit x => if x.host && (tlbFind s.hostPages gen a).isNone then some (pageNo a * 65536) else none
    | .miss _ => none

/-- An engine or a front end has to wait for a host page of a range. -/
def hostWaits (s : State) (gen va n : Nat) : Bool := (hostWants s gen va n).any fun a => !hostRefused s gen a

/-! ## Accesses of front ends, engines and the Crucible: translated by the service, no TLB of a core -/

/-- The translation of one address for an engine or a front end, or the trap code (R423), at every address (log 101). -/
def serve (s : State) (gen va : Nat) (r w : Bool) : Except Nat Place :=
  match (walk s gen va).1 with
  | .miss _ => .error cPage
  | .hit x =>
    if x.host && hostRefused s gen va then .error cPage else
    match accessCause s x va r w with
    | some c => .error c
    | none => .ok (xlPlace s x va)

/-- Bytes read at a virtual address of a context; the first failing address otherwise. -/
def vread (s : State) (gen va n : Nat) : Except (Nat × Nat) (List Byte) :=
  (pageCuts va n).foldl (fun acc (a, k) =>
    match acc with
    | .error e => .error e
    | .ok l =>
      match serve s gen a true false with
      | .error c => .error (c, a)
      | .ok p => .ok (l ++ readAs s gen p k)) (.ok [])

/-- Bytes written at a virtual address of a context, all or none. -/
def vwrite (s : State) (gen va : Nat) (bytes : List Byte) : Except (Nat × Nat) State :=
  let r := (pageCuts va bytes.length).foldl (fun (acc : Except (Nat × Nat) (State × List Byte)) (a, k) =>
    match acc with
    | .error e => .error e
    | .ok (t, l) =>
      match serve s gen a false true with
      | .error c => .error (c, a)
      | .ok p => .ok (breakRelease (writeAs t gen p (l.take k)) p k, l.drop k)) (.ok (s, bytes))
  r.map (·.1)

def vnat (s : State) (gen va n : Nat) : Option Nat :=
  match vread s gen va n with
  | .ok l => some (natOf l)
  | .error _ => none

/-- A write whose failure has no further effect. -/
def vput (s : State) (gen va n v : Nat) : State :=
  match vwrite s gen va (bytesOf n v) with
  | .ok t => t
  | .error _ => s

/-- Bytes the Crucible writes under a key (log 9). -/
def sealBytes (purpose key serial plain n : Nat) : List Byte :=
  (List.range n).map fun i => Config.sealByte purpose key serial plain i

/-! ## The shared cache (R108, R109, R356) -/

/-- Home die of a line (R14). -/
def homeDie (line : Nat) : Nat := Config.homeDie line % 4

/-- Bits set in a mask of 64, ascending. -/
def bitsSet (n : Nat) : List Nat := (List.range 64).filter fun i => n.testBit i

/-- Colour group of a line of a partition (R356). -/
def colourOf (s : State) (part line : Nat) : Nat :=
  let l := bitsSet (partEntry s part).colour.toNat
  if l.isEmpty then 0 else nth l (Config.colourHash line % l.length) 0

def l2Has (s : State) (line : Nat) : Bool := s.l2.any fun x => x.pa = line

/-- Lines a context holds in the slice of a die: OCC (R108). -/
def occupancy (s : State) (gen die : Nat) : Nat := (s.l2.filter fun x => x.gen = gen && x.die = die).length

/-- Over the soft limit (R108). -/
def overLimit (s : State) (gen die : Nat) : Bool :=
  match ctxOf s gen with
  | some c => c.slim != 0 && c.slim * 2 ^ 20 < occupancy s gen die * 128
  | none => false

/-- A set of the slice. -/
def sameSet (a b : L2Line) : Bool := a.die == b.die && a.colour == b.colour && Config.l2Index a.pa == Config.l2Index b.pa

/-- The victim of R109 in a full set. -/
def l2Victim (s : State) (set : List L2Line) (gen die : Nat) : Option L2Line :=
  let own := if overLimit s gen die then minBy (·.used) (set.filter fun x => x.gen = gen) else none
  match own with
  | some x => some x
  | none =>
    match minBy (·.used) (set.filter fun x => overLimit s x.gen die) with
    | some x => some x
    | none => minBy (·.used) set

/-- A line is used, and filled when absent; sectors written become dirty. -/
def l2Touch (s : State) (gen part line dirty : Nat) : State :=
  let (stamp, s1) := freshNat s
  if l2Has s line then
    { s1 with l2 := s1.l2.map fun x =>
        if x.pa = line then { x with used := stamp, dirty := x.dirty ||| BitVec.ofNat 4 dirty } else x }
  else
    let x : L2Line := ⟨homeDie line, line, gen, colourOf s part line, BitVec.ofNat 4 dirty, stamp⟩
    let set := s.l2.filter (sameSet x)
    let kept :=
      if set.length < Config.l2WayCount then s1.l2
      else match l2Victim s set gen x.die with
        | some v => s1.l2.filter fun y => y.pa != v.pa
        | none => s1.l2
    -- the scope record leaves with the line (R139)
    { s1 with l2 := kept ++ [x]
              syncLines := s1.syncLines.filter fun r => kept.any (fun y => y.pa = r.addr / 128) || r.addr / 128 = line }

/-! ## Paths (Table 10.2) -/

/-- Hop count of the route to a node (R362). -/
def hopsTo (s : State) (node : Nat) : Nat := Nat.max 1 (fld (tabGetD node 0 s.routes).toNat 24 4)

/-- Cycles from a die to the point of coherence of a place, uncontended. -/
def pathCycles (s : State) (die : Nat) (p : Place) : Nat :=
  match p with
  | .dev a =>
    let line := a / 128
    if l2Has s line then (if homeDie line = die then Config.latSame else Config.latOther)
    else if Config.rowOpen line s.now then Config.latOpen else Config.latClosed
  | .remote n a =>
    2 * Config.latHop * hopsTo s n +
      match Config.remoteLine n (a / 128) s.now % 3 with
      | 0 => Config.latSame
      | 1 => Config.latOpen
      | _ => Config.latClosed
  | .host _ _ => Config.hostCycles s.fresh

/-- The line touched by a request at a place. -/
def touchPlace (s : State) (gen part : Nat) (p : Place) (dirty : Nat) : State :=
  match p with
  | .dev a => l2Touch s gen part (a / 128) dirty
  | _ => (freshNat s).2

/-! ## The L1 (R106, R107) -/

/-- Line number of a cachable place, with its node; host memory is never cached (R127). -/
def lineOf (s : State) : Place → Option Nat
  | .dev a => some ((s.node * 2 ^ 50 + a) / 128)
  | .remote n a => some ((n * 2 ^ 50 + a) / 128)
  | .host .. => none

/-- The core whose share holds a line for a core: itself, or the slice of a fused L1 (R107). -/
def l1Core (s : State) (core line : Nat) : Nat := if (coreOf s core).fused then core / 24 * 24 + line % 24 else core

/-- The line in the L1 that serves a core. -/
def l1Find (s : State) (core line : Nat) : Option L1Line :=
  (coreOf s (l1Core s core line)).l1.find? fun x => x.pa = line

/-- Sectors of a line, as a mask, that bytes from an offset touch. -/
def sectorMask (off n : Nat) : Nat :=
  (List.range 4).foldl (fun m k => if off < 32 * k + 32 && 32 * k < off + n then m + 2 ^ k else m) 0

/-- Sectors of a line that the L1 which serves a core holds, as a mask. -/
def l1Valid (s : State) (core line : Nat) : Nat :=
  if (coreOf s (l1Core s core line)).l1w = 0 then 0 else ((l1Find s core line).map fun x => x.valid.toNat).getD 0

/-- The line an end of a transfer writes, with its offset; none where it is no cachable memory. -/
def spotLine (s : State) : Spot → Option (Nat × Nat)
  | .mem p va _ => (lineOf s p).map fun l => (l, va % 128)
  | _ => none

/-- Ranges of a line, as offset and length, that agents of a home core have written and whose writes are not acknowledged yet. The L1 takes
or drops them at the acknowledgement (R128, R273); until then the agents of the core read them past the L1: DEDUCED (log 108). -/
def l1Unsettled (s : State) (core line : Nat) : List (Nat × Nat) :=
  let home := l1Core s core line
  let ofLines (c : Nat) (ls : List Line) : List (Nat × Nat) :=
    if l1Core s c line != home then []
    else ls.filterMap fun l => match spotLine s l.dst with
      | some (k, off) => if k = line && l.writeAt ≤ s.now && s.now < l.ackAt then some (off / 32 * 32, (off % 32 + l.len + 31) / 32 * 32) else none
      | none => none
  (s.reqs.flatMap fun (_, q) =>
    if l1Core s q.core line != home then []
    else ofLines q.core q.lines ++ (q.upd.filterMap fun (k, off, n) => if k = line then some (off, n) else none) ++
      q.drop.flatMap fun (k, mask) => if k = line then (List.range 4).filterMap fun i => if mask.testBit i then some (32 * i, 32) else none
        else []) ++
  (s.cmds.flatMap fun (_, c) => ofLines c.core c.lines) ++ s.matOps.flatMap fun (_, m) => ofLines m.core m.lines

/-- The bytes of a piece of a line as the L1 gives them: none where its sector is absent, or where a write of an agent of the core is not
yet acknowledged, so that no load returns less than what was written before it (R126, R128). -/
def l1Bytes (s : State) (core line off n : Nat) : List (Option Byte) :=
  let valid := l1Valid s core line
  let open_ := l1Unsettled s core line
  let data : Memory := ((l1Find s core line).map (·.data)).getD []
  (List.range n).map fun i =>
    let a := off + i
    if valid.testBit (a / 32) && !open_.any fun (o, k) => o ≤ a && a < o + k then some (Memory.get data a) else none

/-- Sectors of a line filled from the point of coherence; least recently used replacement in the set (R106). -/
def l1Fill (s : State) (gen core line mask : Nat) (base : Place) : State :=
  let c := l1Core s core line
  if (coreOf s c).l1w = 0 || mask = 0 then s
  else
    let (stamp, s1) := freshNat s
    let old := match l1Find s core line with
      | some x => x
      | none => ⟨line, 0, [], 0⟩
    let data := (List.range 4).foldl (fun m k =>
      if mask.testBit k then m.write (32 * k) (readAs s gen (base.plus (32 * k)) 32) else m) old.data
    let x : L1Line := ⟨line, old.valid ||| BitVec.ofNat 4 mask, data, stamp⟩
    modCore s1 c fun k =>
      let others := k.l1.filter fun y => y.pa != line
      let set := others.filter fun y => y.pa % 512 = line % 512
      let kept := if set.length < k.l1w then others
        else match minBy (·.used) set with
          | some v => others.filter fun y => y.pa != v.pa
          | none => others
      { k with l1 := kept ++ [x] }

/-- A store updates the sectors present in the L1 of its core (R106, R273). It is no use of the line for its replacement: DESIGN CHOICE
(log 90). -/
def l1Update (s : State) (core line off : Nat) (bytes : List Byte) : State :=
  modCore s (l1Core s core line) fun k =>
    { k with l1 := k.l1.map fun x => if x.pa = line then { x with data := x.data.write off bytes } else x }

/-- Sectors invalidated in the L1 that serves a core (R128). -/
def l1Drop (s : State) (core line mask : Nat) : State :=
  if (l1Find s core line).isNone then s
  else modCore s (l1Core s core line) fun k =>
    { k with l1 := (k.l1.map fun x =>
        if x.pa = line then { x with valid := x.valid &&& BitVec.ofNat 4 (15 - mask % 16) } else x).filter fun x => x.valid != 0 }

/-- An acquire at cluster scope or wider empties the private L1; a fused one is left at cluster scope (R127). -/
def l1Acquire (s : State) (core scope : Nat) : State :=
  if scope < 3 then s
  else if (coreOf s core).fused then
    (if scope = 3 then s
     else (List.range 24).foldl (fun a i => modCore a (core / 24 * 24 + i) fun k => { k with l1 := [] }) s)
  else modCore s core fun k => { k with l1 := [] }

/-! ## Lines of a range -/

/-- A range cut at lines of 128 bytes. -/
def cutLines : Nat → Nat → Nat → List (Nat × Nat)
  | 0, _, _ => []
  | fuel + 1, a, n =>
    if n = 0 then []
    else
      let k := Nat.min n (128 - a % 128)
      (a, k) :: cutLines fuel (a + k) (n - k)

def lineCuts (a n : Nat) : List (Nat × Nat) := cutLines (n / 128 + 2) a n

/-- Bytes written at the point of coherence, whose line is used and becomes dirty there. -/
def writeMem (s : State) (gen part : Nat) (p : Place) (bytes : List Byte) : State :=
  let off := match p with | .dev a => a % 128 | .remote _ a => a % 128 | .host _ a => a % 128
  touchPlace (writeAs s gen p bytes) gen part p (sectorMask off bytes.length)

/-- What the L1 of a home core does at the acknowledgement of writes: present sectors take the bytes of the lane stores (R106, R273), and
those of the other writes are dropped (R128). -/
def l1Settle (s : State) (gen core : Nat) (upd : List (Nat × Nat × Nat)) (drop : List (Nat × Nat)) : State :=
  let s1 := upd.foldl (fun a (line, off, n) => l1Update a core line off (readAs a gen (placeOf a (128 * line + off)) n)) s
  drop.foldl (fun a (line, mask) => l1Drop a core line mask) s1

end Sys2Proof.Machine
end

