-- ==== Sys2Proof/Machine/Accum.lean ====
section
/-! DEFINITION. Accumulator granules of a core: holding, granting, freeing and zeroing (R110), the spill and reload of
the first-use trap (R87-R89, R308, R368-R372), and the lease of the matrix array (R305). -/

namespace Sys2Proof.Machine

/-- Units placed on a core, in ascending internal number. -/
def unitsOn (s : State) (core : Nat) : List (Nat × UnitSt) := s.units.filter fun p => p.2.core = core

/-- Units resident on a core: placed there and not saved with a halted context (R82). -/
def residentsOn (s : State) (core : Nat) : List (Nat × UnitSt) := (unitsOn s core).filter fun p => !p.2.saved

/-- Physical granules of a core that some unit holds (R110), with those an `accput` is still to free (R316). -/
def heldGranules (s : State) (core : Nat) : List Nat :=
  ((unitsOn s core).flatMap fun p => p.2.gmap.map (·.2)) ++
  (s.matOps.filter fun (_, m) => m.kind = 8 && m.core = core).flatMap fun (_, m) => m.blocks.flatten.map (·.2)

/-- The elastic pool: free physical granules, ascending (R110). -/
def freeGranules (s : State) (core : Nat) : List Nat :=
  let held := heldGranules s core
  (List.range 64).filter fun g => !held.contains g

/-- Whether a unit holds a logical granule, with or without a physical one (R110, R372). -/
def holdsGranule (u : UnitSt) (g : Nat) : Bool := (tabGet g u.gmap).isSome || u.gspill.contains g

/-- Logical granules of a unit mapped to the lowest free physical ones, each reading zero (R110). -/
def grantGranules (s : State) (u : Nat) (logical : List Nat) : State :=
  match unitOf s u with
  | none => s
  | some x =>
    let pairs := logical.zip (freeGranules s x.core)
    let s1 := pairs.foldl (fun a p => zeroGranule a x.core p.2) s
    modUnit s1 u fun y => { y with gmap := pairs.foldl (fun t p => tabPut p.1 p.2 t) y.gmap }

/-- Element (r, c) of a granule lies at byte 128 r + 4 c (R371). -/
def accAddr (phys r c : Nat) : Nat := 4096 * phys + 128 * r + 4 * c

/-- The bytes of a granule listed in a core, from offset 0. -/
def granuleImage (k : Core) (phys : Nat) : Memory :=
  k.acc.filterMap fun (a, b) => if 4096 * phys ≤ a ∧ a < 4096 * phys + 4096 then some (a - 4096 * phys, b) else none

/-- A granule replaced. -/
def setGranule (s : State) (core phys : Nat) (img : Memory) : State :=
  modCore (zeroGranule s core phys) core fun k => { k with acc := img.foldl (fun m (a, b) => m.set (4096 * phys + a) b) k.acc }

/-- The contents of the physical granule that a unit's instruction named at its issue: in the core, or in the image that a spill made
of it since (R87: the trap is invisible to the program). -/
def granuleOf (s : State) (core unit gen phys : Nat) : Memory :=
  let held := ((unitOf s unit).map fun u => u.gmap.any fun p => p.2 = phys).getD false
  if held then granuleImage (coreOf s core) phys
  else match ((ctxOf s gen).map (·.images)).getD [] |>.find? fun (k, v, _, _) => k = core * 64 + phys && v = unit with
    | some (_, _, _, m) => m
    | none => granuleImage (coreOf s core) phys

/-! ## The save area (R89) -/

/-- Offset of the image of a granule, and of its tag. -/
def imageOff (core phys : Nat) : Nat := core * 0x40000 + phys * 0x1000
def imageTag (core phys : Nat) : Nat := 0x12000000 + 16 * (core * 64 + phys)

/-- Offset of block b of a core's plane region, and of its tag. -/
def planeOff (core b : Nat) : Nat := 0x12120000 + core * 0x9000 + b * 0x1000
def planeTag (core b : Nat) : Nat := 0x149A0000 + 16 * (core * 9 + b)

/-- A 4 KiB block of the save area sealed with its tag; the address that could not be written otherwise. -/
def saveBlock (s : State) (gen off tag plain : Nat) : State × Option Nat :=
  match ctxOf s gen with
  | none => (s, none)
  | some c =>
    match vwrite s gen (c.saveb + off) (sealBytes 2 (saveKey s c.keyid) off plain 4096) with
    | .error e => (s, some e.2)
    | .ok t =>
      match vwrite t gen (c.saveb + tag) (sealBytes 3 (saveKey s c.keyid) off plain 16) with
      | .error e => (t, some e.2)
      | .ok u => (u, none)

/-- A granule written, in the core or, where a spill has taken it since, in its image, which is sealed anew. -/
def putGranule (s : State) (core unit gen phys : Nat) (img : Memory) : State :=
  let held := ((unitOf s unit).map fun u => u.gmap.any fun p => p.2 = phys).getD false
  let here (x : Nat × Nat × Nat × Memory) : Bool := x.1 = core * 64 + phys && x.2.1 = unit
  if held then setGranule s core phys img
  else if (((ctxOf s gen).map (·.images)).getD []).any here then
    (saveBlock (modCtx s gen fun c => { c with images := c.images.map fun x => if here x then (x.1, x.2.1, x.2.2.1, img) else x })
      gen (imageOff core phys) (imageTag core phys) (natOf (img.read 0 4096))).1
  else s

/-- What is wrong with a block to be reloaded: cause and address (R89). -/
def loadBlock (s : State) (gen off tag plain : Nat) : Option (Nat × Nat) :=
  match ctxOf s gen with
  | none => none
  | some c =>
    match vread s gen (c.saveb + off) 4096, vread s gen (c.saveb + tag) 16 with
    | .error e, _ => some (cAccess, e.2)
    | _, .error e => some (cAccess, e.2)
    | .ok b, .ok t =>
      if b = sealBytes 2 (saveKey s c.keyid) off plain 4096 && t = sealBytes 3 (saveKey s c.keyid) off plain 16 then none else some (cPoison, c.saveb + off)

/-- A spill or reload as far as it has gone: state, images counted, and failures as context, cause and address. -/
structure Spilling where
  s : State
  n : Nat
  bad : List (Nat × Nat × Nat)
deriving DecidableEq, Repr

/-- A granule of a unit goes to the save area, is zeroed and freed (R87 step 1). -/
def spillOne (core gen u : Nat) (m : Spilling) (l p : Nat) : Spilling :=
  let img := granuleImage (coreOf m.s core) p
  let (s1, fault) := saveBlock m.s gen (imageOff core p) (imageTag core p) (natOf (img.read 0 4096))
  let s2 := match fault with
    | none => modCtx s1 gen fun c => { c with images := c.images ++ [(core * 64 + p, u, l, img)] }
    | some _ => s1
  ⟨zeroGranule s2 core p, m.n + 1, m.bad ++ (fault.map fun a => (gen, cAccess, a)).toList⟩

/-- The granules of one context on a core spilled (R87 step 1, R372). -/
def spillGranules (m : Spilling) (core gen : Nat) : Spilling :=
  (unitsOn m.s core).foldl (fun a (u, x) =>
    if unitGen m.s u = gen then
      let b := x.gmap.foldl (fun b (l, p) => spillOne core gen u b l p) a
      { b with s := modUnit b.s u fun y => { y with gmap := [], gspill := sortBy id (y.gspill ++ y.gmap.map (·.1)) } }
    else a) m

/-- Physical granules the units of a context need back on a core. -/
def spilledCount (s : State) (core gen : Nat) : Nat :=
  ((unitsOn s core).filter fun p => unitGen s p.1 = gen).foldl (fun n p => n + p.2.gspill.length) 0

/-- A logical granule of a unit reloaded into the lowest free physical one; an image that fails is discarded (R89). -/
def reloadOne (core gen u : Nat) (m : Spilling) (l : Nat) : Spilling :=
  match (freeGranules m.s core).head? with
  | none => m
  | some p =>
    let found := (((ctxOf m.s gen).map (·.images)).getD []).find? fun (k, v, l', _) => k / 64 = core && v = u && l' = l
    let (img, bad) := match found with
      | none => (([] : Memory), none)
      | some (k, _, _, x) =>
        match loadBlock m.s gen (imageOff core (k % 64)) (imageTag core (k % 64)) (natOf (x.read 0 4096)) with
        | none => (x, none)
        | some e => ([], some e)
    let s1 := setGranule m.s core p img
    let s2 := modCtx s1 gen fun c =>
      { c with images := c.images.filter fun (k, v, l', _) => !(k / 64 = core && v = u && l' = l) }
    ⟨modUnit s2 u fun y => { y with gmap := tabPut l p y.gmap, gspill := y.gspill.filter (· != l) }, m.n + 1,
      m.bad ++ (bad.map fun e => (gen, e)).toList⟩

def reloadGranules (m : Spilling) (core gen : Nat) : Spilling :=
  (unitsOn m.s core).foldl (fun a (u, x) => if unitGen m.s u = gen then x.gspill.foldl (reloadOne core gen u) a else a) m

/-- The contents of block b of the plane section (R308): planes column by column, scale words, formats and the lease holder. -/
def planeBlock (a h : Plane) (u b : Nat) : Nat :=
  let scales (p : Plane) : List Byte := (List.range 256).flatMap fun c =>
    bytesOf 6 ((List.range 4).foldl (fun n i => n + (tabGetD (4 * c + i) 0 p.scales).toNat * 2 ^ (12 * i)) 0)
  natOf (if b < 4 then a.data.read (4096 * b) 4096
    else if b < 8 then h.data.read (4096 * (b - 4)) 4096
    else scales a ++ scales h ++ bytesOf 2 a.fmt ++ bytesOf 2 h.fmt ++ bytesOf 2 a.xv.toNat ++ bytesOf 2 h.xv.toNat ++ bytesOf 8 u)

/-- The nine blocks of a plane section are sealed; the first address that could not be written. -/
def savePlanes (s : State) (core gen u : Nat) (a h : Plane) : State × Option Nat :=
  (List.range 9).foldl (fun (t, f) b =>
    let (t1, e) := saveBlock t gen (planeOff core b) (planeTag core b) (planeBlock a h u b)
    (t1, match f with | some x => some x | none => e)) (s, (none : Option Nat))

/-- The section that holds the planes of a unit which held the lease when a spill took them. -/
def savedPlanes (s : State) (core unit gen : Nat) : Option (Plane × Plane) :=
  match (ctxOf s gen).bind fun c => tabGet core c.planes with
  | some (a, h, u) => if u = unit then some (a, h) else none
  | none => none

/-- The active and the shadow plane that the instructions of a unit named at their issue, in the core or where a spill put them since (R87,
R308: the trap is invisible to the program). -/
def planesOf (s : State) (core unit gen : Nat) : Plane × Plane :=
  match savedPlanes s core unit gen with
  | some x => x
  | none => ((coreOf s core).act, (coreOf s core).shadow)

/-- The same planes changed. -/
def modPlanes (s : State) (core unit gen : Nat) (f : Plane × Plane → Plane × Plane) : State :=
  match savedPlanes s core unit gen with
  | some x =>
    let (a, h) := f x
    (savePlanes (modCtx s gen fun c => { c with planes := tabPut core (a, h, unit) c.planes }) core gen unit a h).1
  | none => modCore s core fun k => let (a, h) := f (k.act, k.shadow); { k with act := a, shadow := h }

/-- The planes and the lease of an owner go to its save area (R370). -/
def spillPlanes (m : Spilling) (core gen u : Nat) : Spilling :=
  let k := coreOf m.s core
  let (s1, fault) := savePlanes m.s core gen u k.act k.shadow
  let s2 := match fault with
    | none => modCtx s1 gen fun c => { c with planes := tabPut core (k.act, k.shadow, u) c.planes }
    | some _ => s1
  ⟨s2, m.n + 9, m.bad ++ (fault.map fun a => (gen, cAccess, a)).toList⟩

/-- Planes put in place, as later instructions see them. -/
def setPlanes (s : State) (core : Nat) (a h : Plane) (lease : Option Nat) : State :=
  modCore s core fun x => { x with act := a, shadow := h, lease := lease, fmtAct := a.fmt, fmtSh := h.fmt }

/-- The planes of the issuing context reloaded when its section records a lease holder (R370). -/
def reloadPlanes (m : Spilling) (core gen : Nat) : Spilling :=
  match (ctxOf m.s gen).bind fun c => tabGet core c.planes with
  | none => m
  | some (a, h, u) =>
    let bad := (List.range 9).findSome? fun b => loadBlock m.s gen (planeOff core b) (planeTag core b) (planeBlock a h u b)
    let s1 := modCtx m.s gen fun c => { c with planes := tabDel core c.planes }
    match bad with
    | none => ⟨setPlanes s1 core a h (some u), m.n + 9, m.bad⟩
    | some e => ⟨s1, m.n + 9, m.bad ++ [(gen, e)]⟩

/-- Launches of a context with units on a core halt fatally when its images failed (R89). -/
def haltForImages (core : Nat) (s : State) (e : Nat × Nat × Nat) : State :=
  let (gen, cause, addr) := e
  let ls := dedup (((unitsOn s core).filter fun (u, _) => unitGen s u = gen).map fun (_, x) => x.launch)
  ls.foldl (fun a l =>
    let w := (((coreOf a core).warps.find? fun (_, x) => (unitOf a x.unit).any fun u => u.launch = l).map (·.1)).getD 0
    haltLaunch a l core w 0
      { word := cause, aux := 0, ret := 0, ipc := 0, faddr := BitVec.ofNat 64 addr, lanes := 0 } none) s

/-- The moves of R87 for a context that is to own the accumulators of a core, with the number m of images (R369). -/
def firstUse (s : State) (core gen : Nat) : State × Nat :=
  let k := coreOf s core
  let m0 : Spilling := ⟨s, 0, []⟩
  let m1 := match k.accown with
    | some o =>
      let a := spillGranules m0 core o
      match k.lease with
      | some u => if unitGen s u = o then spillPlanes a core o u else a
      | none => a
    | none => m0
  let lease := match k.accown, k.lease with
    | some o, some u => if unitGen s u = o then none else some u
    | _, l => l
  let m2 := { m1 with s := setPlanes m1.s core Plane.reset Plane.reset lease }
  let others := sortBy id (dedup (((unitsOn m2.s core).filter fun p => !p.2.gmap.isEmpty).map fun p => unitGen m2.s p.1))
  let m3 :=
    if spilledCount m2.s core gen ≤ (freeGranules m2.s core).length then m2
    else (others.filter (· != gen)).foldl (fun a o => spillGranules a core o) m2
  let m4 := reloadPlanes (reloadGranules m3 core gen) core gen
  (m4.bad.foldl (haltForImages core) m4.s, m4.n)

/-- The first-use trap begins (R368): its moves are made, and it returns after 96 + 640 m cycles (R369). -/
def beginFirstUse (s : State) (core unit gen : Nat) : State :=
  let (s1, m) := firstUse s core gen
  let ends := s.now + 96 + 640 * m
  schedule (modCore s1 core fun k => { k with firstUse := some ⟨gen, unit, ends⟩ }) ends .firstUseTrapReturn (.of [core])

/-- The trap returns: the issuing context owns the core's accumulators (R87 step 3). -/
def endFirstUse (s : State) (core : Nat) : State :=
  match (coreOf s core).firstUse with
  | some f => if f.ends ≤ s.now then modCore s core fun k => { k with accown := some f.gen, firstUse := none } else s
  | none => s

def execFirstUseTrapReturn (s : State) : Host.Outcome State Fault Refusal :=
  match s.subj with
  | .of [core] => .next (endFirstUse s core)
  | _ => .next s

end Sys2Proof.Machine
end

