-- ==== Sys2Proof/Machine/Numbers.lean ====
section
/-! DEFINITION. Exact numbers, the formats of Tables 6.1 and 6.3, rounding (R149, R150, R163, R452), and the contracts
of Table 6.6. -/

namespace Sys2Proof.Machine

/-- An exact value: a NaN, an infinity, or `(-1)^neg * m * 2^e`. -/
inductive Num where
  | nan
  | inf (neg : Bool)
  | fin (neg : Bool) (m : Nat) (e : Int)
deriving DecidableEq, Repr

/-! ## Sticky flags (R157) -/

def fNV : Nat := 1
def fDZ : Nat := 2
def fOF : Nat := 4
def fUF : Nat := 8
def fNX : Nat := 16
def fOVS : Nat := 32
def fCMX : Nat := 64
def fFZ : Nat := 128

/-- FLAGS as the register holds them. -/
def flagBits (f : Nat) : BitVec 8 := BitVec.ofNat 8 f

/-- A result with the flags it sets. -/
abbrev Flagged (α : Type) := α × Nat

/-! ## Exact arithmetic -/

def Num.isNan : Num → Bool
  | .nan => true
  | _ => false

def Num.isZero : Num → Bool
  | .fin _ m _ => m == 0
  | _ => false

def Num.neg? : Num → Bool
  | .nan => false
  | .inf n => n
  | .fin n _ _ => n

def Num.negate : Num → Num
  | .nan => .nan
  | .inf n => .inf (!n)
  | .fin n m e => .fin (!n) m e

def Num.setSign (neg : Bool) : Num → Num
  | .nan => .nan
  | .inf _ => .inf neg
  | .fin _ m e => .fin neg m e

/-- `m * 2^e` as an integer multiple of `2^q`, for `q ≤ e`. -/
def scaleTo (neg : Bool) (m : Nat) (e q : Int) : Int :=
  let v : Int := (m * 2 ^ (e - q).toNat : Nat)
  if neg then -v else v

/-- Sum of two exact values with the zero sign of R150; ∞ − ∞ is a NaN. -/
def Num.add : Num → Num → Num
  | .nan, _ => .nan
  | _, .nan => .nan
  | .inf a, .inf b => if a = b then .inf a else .nan
  | .inf a, .fin .. => .inf a
  | .fin .., .inf b => .inf b
  | .fin n1 m1 e1, .fin n2 m2 e2 =>
    if m1 = 0 then (if m2 = 0 then .fin (n1 && n2) 0 0 else .fin n2 m2 e2)
    else if m2 = 0 then .fin n1 m1 e1
    else
      let q := min e1 e2
      let s := scaleTo n1 m1 e1 q + scaleTo n2 m2 e2 q
      if s = 0 then .fin false 0 0 else .fin (decide (s < 0)) s.natAbs q

/-- Product of two exact values; 0 × ∞ is a NaN. -/
def Num.mul : Num → Num → Num
  | .nan, _ => .nan
  | _, .nan => .nan
  | .inf a, .inf b => .inf (a != b)
  | .inf a, .fin b m _ => if m = 0 then .nan else .inf (a != b)
  | .fin a m _, .inf b => if m = 0 then .nan else .inf (a != b)
  | .fin n1 m1 e1, .fin n2 m2 e2 => .fin (n1 != n2) (m1 * m2) (e1 + e2)

/-- Sum of a list in exact arithmetic; the empty sum is −0, which adds nothing. -/
def Num.sum (l : List Num) : Num := l.foldl Num.add (.fin true 0 0)

/-- `2^e` times a value. -/
def Num.scale (x : Num) (k : Int) : Num :=
  match x with
  | .fin n m e => .fin n m (e + k)
  | y => y

/-- Quotient of finite values with enough bits that any rounding of the result is that of the exact quotient: 160 bits
and a last bit that is odd when bits were lost. -/
def divExact (n1 : Bool) (m1 : Nat) (e1 : Int) (n2 : Bool) (m2 : Nat) (e2 : Int) : Num :=
  if m2 = 0 then .nan
  else
    let num := m1 * 2 ^ (160 + m2.log2)
    let q := num / m2
    let r := num % m2
    .fin (n1 != n2) (2 * q + (if r = 0 then 0 else 1)) (e1 - e2 - (160 + m2.log2 : Nat) - 1)

/-- Quotient of an exact value by a positive whole number. -/
def Num.divNat (x : Num) (n : Nat) : Num :=
  match x with
  | .fin s m e => if m = 0 then .fin s 0 0 else divExact s m e false n 0
  | y => y

/-- Comparison of two values that are not NaN: negative, zero or positive as the first is less, equal or more. −0
equals +0. -/
def Num.cmp (a b : Num) : Int :=
  match a, b with
  | .inf x, .inf y => (if x then -1 else 1) - (if y then -1 else 1)
  | .inf x, _ => if x then -1 else 1
  | _, .inf y => if y then 1 else -1
  | .fin n1 m1 e1, .fin n2 m2 e2 =>
    let q := min e1 e2
    let d := scaleTo n1 m1 e1 q - scaleTo n2 m2 e2 q
    if d < 0 then -1 else if d = 0 then 0 else 1
  | _, _ => 0

/-- Order with −0 below +0 (R251, R263). -/
def Num.lessSigned (a b : Num) : Bool :=
  if a.isZero && b.isZero then a.neg? && !b.neg? else a.cmp b < 0

/-! ## Formats -/

/-- A floating-point format of Table 6.1: bits of exponent and fraction, bias, whether it has infinities, and the
codes of the largest finite value and of the canonical NaN. -/
structure Fmt where
  eb : Nat
  mb : Nat
  bias : Nat
  inf : Bool
  maxCode : Nat
  nanCode : Nat
deriving DecidableEq, Repr

def f32 : Fmt := ⟨8, 23, 127, true, 0x7F7FFFFF, 0x7FC00000⟩
def f16 : Fmt := ⟨5, 10, 15, true, 0x7BFF, 0x7E00⟩
def bf16 : Fmt := ⟨8, 7, 127, true, 0x7F7F, 0x7FC0⟩
def e4m3 : Fmt := ⟨4, 3, 7, false, 0x7E, 0x7F⟩
def e5m2 : Fmt := ⟨5, 2, 15, true, 0x7B, 0x7E⟩
/-- IEEE binary64, for the float atomics of 64 bits (R275). -/
def f64 : Fmt := ⟨11, 52, 1023, true, 0x7FEFFFFFFFFFFFFF, 0x7FF8000000000000⟩

def Fmt.signBit (f : Fmt) : Nat := 2 ^ (f.eb + f.mb)
def Fmt.infCode (f : Fmt) : Nat := (2 ^ f.eb - 1) * 2 ^ f.mb

/-- The value of a code (R149, R150). -/
def Fmt.decode (f : Fmt) (w : Nat) : Num :=
  let s := bit w (f.eb + f.mb)
  let e := fld w f.mb f.eb
  let m := fld w 0 f.mb
  if e = 2 ^ f.eb - 1 ∧ f.inf then (if m = 0 then .inf s else .nan)
  else if e = 2 ^ f.eb - 1 ∧ m = 2 ^ f.mb - 1 then .nan
  else if e = 0 then .fin s m (1 - (f.bias : Int) - f.mb)
  else .fin s (2 ^ f.mb + m) ((e : Int) - f.bias - f.mb)

/-- Whether a code is a subnormal. -/
def Fmt.isSub (f : Fmt) (w : Nat) : Bool := fld w f.mb f.eb == 0 && fld w 0 f.mb != 0

/-- The input rule of R163: under SUBN 0 a subnormal is a zero of its sign, with FZ. -/
def Fmt.input (f : Fmt) (subn w : Nat) : Flagged Num :=
  if subn = 0 ∧ f.isSub w then (.fin (bit w (f.eb + f.mb)) 0 0, fFZ) else (f.decode w, 0)

/-! ## Rounding -/

/-- `m * 2^e` as a whole multiple of `2^q` under a rounding mode (R155), with whether bits were lost. -/
def roundAt (rm : Nat) (neg : Bool) (m : Nat) (e q : Int) : Nat × Bool :=
  if q ≤ e then (m * 2 ^ (e - q).toNat, false)
  else
    let d := 2 ^ (q - e).toNat
    let k := m / d
    let r := m % d
    let up :=
      match rm with
      | 0 => d < 2 * r || (d == 2 * r && k % 2 == 1)
      | 1 => false
      | 2 => r != 0 && !neg
      | _ => r != 0 && neg
    (if up then k + 1 else k, r != 0)

/-- What rounding a finite non-zero value to a format gives (R452). -/
inductive Rounded where
  /-- a code without its sign, and flags -/
  | code (w : Nat) (flags : Nat)
  /-- beyond the largest finite value -/
  | ovf
deriving DecidableEq, Repr

/-- The rounding of R452: to the format's precision with an unbounded exponent range, the test of tininess, the
subnormal rule, and the test of overflow. Values far below the grid are moved next to it first, which changes no
rounding. -/
def roundTo (f : Fmt) (rm subn : Nat) (neg : Bool) (m0 : Nat) (e0 : Int) : Rounded :=
  let p : Nat := f.mb + 1
  let emin : Int := 1 - (f.bias : Int)
  let emax : Int := if f.inf then (2 ^ f.eb : Nat) - 2 - (f.bias : Int) else (2 ^ f.eb : Nat) - 1 - (f.bias : Int)
  let k0 : Int := (m0.log2 : Int) + e0
  if emax + 2 < k0 then .ovf
  else
    let (m, e) : Nat × Int := if k0 < emin - p - 4 then (1, emin - p - 4) else (m0, e0)
    let k : Int := (m.log2 : Int) + e
    let (r, lost) := roundAt rm neg m e (k - p + 1)
    let (r, k) : Nat × Int := if r = 2 ^ p then (2 ^ (p - 1), k + 1) else (r, k)
    if k < emin then
      if subn < 2 then .code 0 (fFZ + fUF + fNX)
      else
        let (r2, lost2) := roundAt rm neg m e (emin - p + 1)
        .code r2 (if lost2 then fUF + fNX else 0)
    else
      let w := (k - emin + 1).toNat * 2 ^ f.mb + (r - 2 ^ f.mb)
      if emax < k ∨ f.maxCode < w then .ovf else .code w (if lost then fNX else 0)

/-- `round_rne` and the lane rounding of R250: an overflow is an infinity, or the largest finite value when the mode
rounds away from it, with OF and NX. -/
def Fmt.round (f : Fmt) (rm subn : Nat) (x : Num) : Flagged Nat :=
  match x with
  | .nan => (f.nanCode, 0)
  | .inf n => ((if n then f.signBit else 0) + (if f.inf then f.infCode else f.maxCode), 0)
  | .fin n m e =>
    let s := if n then f.signBit else 0
    if m = 0 then (s, 0)
    else
      match roundTo f rm subn n m e with
      | .code w fl => (s + w, fl)
      | .ovf =>
        let keep := match rm with | 0 => false | 1 => true | 2 => n | _ => !n
        (s + (if keep || !f.inf then f.maxCode else f.infCode), fOF + fNX)

/-- `round_rne` to FP32 under a contract's subnormal rule, as a value. -/
def rne32 (subn : Nat) (x : Num) : Flagged Num :=
  let (w, fl) := f32.round 0 subn x
  (f32.decode w, fl)

/-! ## Contracts (Tables 6.5, 6.6) -/

/-- The 64-bit descriptor of a contract (R158); number 0 reads as the partition default, 3. -/
def descriptor : Nat → Nat
  | 0 => 0x80279B8900000000
  | 1 => 0x8010030000000000
  | 2 => 0x8013534500000000
  | 3 => 0x80279B8900000000
  | 4 => 0x802BA7EE00000000
  | _ => 0

def cPres (c : Nat) : Bool := bit (descriptor c) 63
def cTrev (c : Nat) : Nat := fld (descriptor c) 52 4
def cFabr (c : Nat) : Nat := fld (descriptor c) 50 2
def cSmxm (c : Nat) : Nat := fld (descriptor c) 49 1
def cVar (c : Nat) : Nat := fld (descriptor c) 48 1
def cSubn (c : Nat) : Nat := fld (descriptor c) 46 2
def cRpt (c : Nat) : Nat := fld (descriptor c) 44 2
def cStk (c : Nat) : Bool := bit (descriptor c) 43
def cAbits (c : Nat) : Nat := fld (descriptor c) 37 6
def cGrp (c : Nat) : Nat := fld (descriptor c) 34 3
def cRsm (c : Nat) : Nat := fld (descriptor c) 32 2

/-- CAPCON of a contract (R160). -/
def capcon : Nat → Word
  | 0 => 0x800FFFFF
  | 1 => 0x80000055
  | 2 => 0x80000AAA
  | 3 => 0x800FFFFF
  | 4 => 0x800FFFFF
  | _ => 0

/-! ## F4 (R152-R154) -/

/-- Grid values of a magnitude index, in eighths (Table 6.3): 1 F4E, 2 F4P, 3 F4H. -/
def f4Eighths (ty i : Nat) : Nat :=
  match ty with
  | 1 => nth [0, 4, 8, 12, 16, 24, 32, 48] i 0
  | 2 => nth [0, 1, 2, 4, 8, 16, 32, 64] i 0
  | _ => nth [0, 8, 16, 24, 32, 48, 64, 96] i 0

/-- The value of a code in a block with TYPE and EXP (R153); XV is a BF16. -/
def f4Decode (ty exp xv code : Nat) : Num :=
  if exp = 1023 then .nan
  else
    let k : Int := (exp : Int) - 512
    if ty = 0 then
      let v := sx 4 code
      .fin (decide (v < 0)) v.natAbs k
    else if code % 16 = 8 then bf16.decode xv
    else .fin (bit code 3) (f4Eighths ty (code % 8)) (k - 3)

/-- The code of the nearest magnitude index for a value in units of `2^(k-3)`, ties to the even index. -/
def f4Nearest (ty m : Nat) (e : Int) : Nat × Bool :=
  (List.range 7).foldl (fun (best, exact) i =>
    let lo := f4Eighths ty i
    let hi := f4Eighths ty (i + 1)
    -- twice the value against lo + hi, both as multiples of 2^q
    let q := min e 0
    let v2 := scaleTo false (2 * m) e q
    let mid := scaleTo false (lo + hi) 0 q
    let above := mid < v2 || (v2 == mid && (i + 1) % 2 == 0)
    (if above then i + 1 else best, exact || v2 == scaleTo false (2 * hi) 0 q)) (0, m == 0)

/-- Conversion of an element to F4 (R154, R156): code, whether the block becomes a NaN block, and flags; none is the
trap of policy 3. The scale is 2^(EXP − 512) for every EXP, 1,023 too, for which R152 gives none: DESIGN CHOICE (log 107). -/
def f4Encode (ty exp xv op : Nat) (v : Num) : Option (Nat × Bool × Nat) :=
  let xvNum := bf16.decode xv
  let k : Int := (exp : Int) - 512
  let ovf (neg : Bool) : Option (Nat × Bool × Nat) :=
    let sat := if ty = 0 then (if neg then 8 else 7) else (if neg then 15 else 7)
    match op with
    | 0 => some (sat, false, fOF + fNX)
    | 1 => if ty ≠ 0 ∧ xvNum = .inf neg then some (8, false, fOF + fNX) else some (sat, false, fOF + fNX + fOVS)
    | 2 => if ty ≠ 0 ∧ xvNum.isNan then some (8, false, fOF + fNX + fNV) else some (sat, false, fOF + fNX + fOVS)
    | _ => none
  match v with
  | .nan => if xvNum.isNan then some (8, false, 0) else some (0, true, fNV)
  | .inf n => ovf n
  | .fin n m e =>
    if m = 0 then some (0, false, 0)
    else if ty = 0 then
      let big := if n then (8 : Nat) else 7
      let q := min (e - k) 0
      if scaleTo false big 0 q < scaleTo false m (e - k) q then ovf n
      else
        let (r, lost) := roundAt 0 n m (e - k) 0
        some ((if n then (16 - r) % 16 else r), false, if lost then fNX else 0)
    else
      let e3 := e - k + 3
      let q := min e3 0
      if scaleTo false (f4Eighths ty 7) 0 q < scaleTo false m e3 q then ovf n
      else
        let (i, exact) := f4Nearest ty m e3
        some (if i = 0 then 0 else i + (if n then 8 else 0), false, if exact then 0 else fNX)

/-! ## Conversion (R255, R256) -/

/-- The format of a float type code of Table 7.4. -/
def fmtOf : Nat → Fmt
  | 0 => f32
  | 1 => f16
  | 2 => bf16
  | 3 => e4m3
  | _ => e5m2

/-- Bits and signedness of an integer type code 5-10. -/
def intOf : Nat → Nat × Bool
  | 5 => (8, true)
  | 6 => (8, false)
  | 7 => (16, true)
  | 8 => (16, false)
  | 9 => (32, true)
  | _ => (32, false)

/-- TYPE of an F4 type code 11-14 (R152): f4i 0, f4e 1, f4p 2, f4h 3. -/
def f4Of (t : Nat) : Nat := t - 11

/-- Value of the source of `cvt` (Table 9.4, R257). -/
def cvtSource (t subn : Nat) (k63 : DWord) (w : Nat) : Flagged Num :=
  if t ≤ 4 then
    let f := fmtOf t
    f.input subn (w % 2 ^ (1 + f.eb + f.mb))
  else if t ≤ 10 then
    let (b, sgn) := intOf t
    let v : Int := if sgn then sx b w else (w % 2 ^ b : Nat)
    (.fin (decide (v < 0)) v.natAbs 0, 0)
  else (f4Decode (f4Of t) (fld k63.toNat 16 10) (fld k63.toNat 0 16) (w % 16), 0)

/-- Conversion of a value to an integer type: the result in 32 bits and flags; none is the trap (R156). -/
def toInt (b : Nat) (sgn : Bool) (rm op : Nat) (x : Num) : Option (Nat × Nat) :=
  let lo : Int := if sgn then -(2 ^ (b - 1) : Nat) else 0
  let hi : Int := if sgn then (2 ^ (b - 1) : Nat) - 1 else (2 ^ b : Nat) - 1
  let ovf (neg : Bool) : Option (Nat × Nat) :=
    let v := wrap 32 (if neg then lo else hi)
    match op with
    | 0 => some (v, fOF + fNX)
    | 3 => none
    | _ => some (v, fOF + fNX + fOVS)
  match x with
  | .nan => some (0, fNV)
  | .inf n => ovf n
  | .fin n m e =>
    if m = 0 then some (0, 0)
    else if (40 : Int) < (m.log2 : Int) + e then ovf n
    else
      let (m, e) : Nat × Int := if (m.log2 : Int) + e < -4 then (1, -4) else (m, e)
      let (r, lost) := roundAt rm n m e 0
      let v : Int := if n then -(r : Int) else r
      if v < lo then ovf true else if hi < v then ovf false else some (wrap 32 v, if lost then fNX else 0)

/-- Conversion of a value to a float type (R256); none is the trap. -/
def toFloat (f : Fmt) (rm subn op : Nat) (x : Num) : Option (Nat × Nat) :=
  let ovf (n : Bool) : Option (Nat × Nat) :=
    let s := if n then f.signBit else 0
    match op with
    | 0 => some (s + f.maxCode, fOF + fNX)
    | 1 => if f.inf then some (s + f.infCode, fOF + fNX) else some (s + f.maxCode, fOF + fNX + fOVS)
    | 2 => some (f.nanCode, fOF + fNX + fNV)
    | _ => none
  match x with
  | .nan => some (f.nanCode, 0)
  | .inf n => if f.inf then some ((if n then f.signBit else 0) + f.infCode, 0) else ovf n
  | .fin n m e =>
    let s := if n then f.signBit else 0
    if m = 0 then some (s, 0)
    else
      match roundTo f rm subn n m e with
      | .code w fl => some (s + w, fl)
      | .ovf => ovf n

/-- One lane of `cvt` (R255-R257): the lane word and flags; none is an overflow under policy 3. -/
def cvtLane (dt st op rm subn : Nat) (k63 : DWord) (w : Nat) : Option (Nat × Nat) :=
  let (x, f0) := cvtSource st subn k63 w
  let r :=
    if dt ≤ 4 then toFloat (fmtOf dt) rm subn op x
    else if dt ≤ 10 then toInt (intOf dt).1 (intOf dt).2 rm op x
    else (f4Encode (f4Of dt) (fld k63.toNat 16 10) (fld k63.toNat 0 16) op x).map
      fun (c, bn, fl) => (c + (if bn then 16 else 0), fl)
  r.map fun (v, fl) => (v, f0 ||| fl)

end Sys2Proof.Machine
end

