-- ==== Sys2Proof/WellFormed.lean ====
section
/-! DEFINITION. Which terms of `Instr` are encodings of the PVB-3048: the limits of R182, R180, R187, R189, R268,
R275, R299 and Table 16.2 that the field widths do not express, each with a name. A row without an encoding (an event)
has no words and is refused as `noEncoding`. -/

namespace Sys2Proof

/-- Why a term of `Instr` has no encoding (Table 16.2, R394). -/
inductive IllFormed where
  /-- the row is an event: the table gives it no bits -/
  | noEncoding
  /-- `rjn` with tag 0 -/
  | rjnTag
  /-- a pair that starts at an odd register (R182) -/
  | oddPair
  /-- a quad that does not start at a multiple of 4 (R182) -/
  | oddQuad
  /-- `rfm` LIVE 121-127 -/
  | live
  /-- barrier CNT above 1,024 (Table 7.4; log 12) -/
  | barCount
  /-- `rdsr` of a reserved number (R189) -/
  | srReserved
  /-- `wrsr` to a read-only or reserved number (R189) -/
  | srReadOnly
  /-- `cvt` type code 15 or DT = ST -/
  | cvtTypes
  /-- `fcmp` condition 8-15 -/
  | fcmpCond
  /-- `kcmp` condition 6-7 (Table 7.4) -/
  | kcmpCond
  /-- `frnd` mode 5-127 -/
  | frndMode
  /-- `lred` or `lscan` type 3 and above -/
  | redType
  /-- a reserved M SIZE -/
  | size
  /-- a temporary as the destination of an instruction that names slot 0, 1 or 2 (R180) -/
  | tmpSlot
  /-- scope code 7 (R276, R278) -/
  | scope
  /-- a descriptor block that passes k63 (R268) -/
  | block
  /-- `rga` of a temporary (R180) -/
  | rgaTmp
  /-- a granule range with B + n above 64 (R182) -/
  | granules
  /-- `mld` with GB + n above 8 (R299) -/
  | groups
  /-- `tmm.red` with kb = 63 (R299) -/
  | redMaps
  /-- `sbeg` whose ranges overlap or whose H + n passes 64 (R299) -/
  | shadow
  /-- a row statistic of a granule with ID [7:6] not 0 -/
  | rowSource
deriving DecidableEq, Repr

/-- Checks over single fields, each answering why it fails. -/
abbrev Check := Option IllFormed

/-- `e` unless the condition holds. -/
def need (ok : Bool) (e : IllFormed) : Check := if ok then none else some e

/-- The first check of a list that fails. -/
def first : List Check → Check
  | [] => none
  | some e :: _ => some e
  | none :: r => first r

/-- The granule count of a width code (Table 7.1). -/
def gran (w : BitVec 2) : Nat := 2 ^ w.toNat

def rjnTag (t : BitVec 4) : Check := need (t.toNat != 0) .rjnTag
def pair (a : BitVec 7) : Check := need (a.toNat % 2 == 0) .oddPair
def quad (a : BitVec 7) : Check := need (a.toNat % 4 == 0) .oddQuad
def live (l : BitVec 7) : Check := need (l.toNat ≤ 120) .live
def barCount (c : BitVec 12) : Check := need (c.toNat ≤ 1024) .barCount
def srRead (r : BitVec 6) : Check := need (r.toNat ≤ 56) .srReserved
/-- The RW rows of Table 7.5. -/
def srWritable : List Nat := [13, 14, 18, 19, 22, 24, 25, 27]
def srWrite (r : BitVec 6) : Check := need (srWritable.contains r.toNat) .srReadOnly
def cvtTypes (t u : BitVec 4) : Check :=
  need (t.toNat != 15 && u.toNat != 15 && t.toNat != u.toNat) .cvtTypes
def fcmpCond (c : BitVec 4) : Check := need (c.toNat ≤ 7) .fcmpCond
def kcmpCond (c : BitVec 3) : Check := need (c.toNat ≤ 5) .kcmpCond
def frndMode (r : BitVec 7) : Check := need (r.toNat ≤ 4) .frndMode
def redType (t : BitVec 2) : Check := need (t.toNat ≤ 2) .redType
def sizeMax (z : BitVec 3) (m : Nat) : Check := need (z.toNat ≤ m) .size
/-- SIZE 5 names a pair and SIZE 6 a quad (R272). -/
def sized (z : BitVec 3) (d : BitVec 7) : Check :=
  if z.toNat = 5 then pair d else if z.toNat = 6 then quad d else none
def tmpSlot (l : BitVec 2) (d : BitVec 7) : Check := need (l.toNat == 3 || decide (d.toNat < 120)) .tmpSlot
def scope (c : BitVec 3) : Check := need (c.toNat ≤ 6) .scope
/-- An atomic of 64 bits names a pair (R275). -/
def wide (w : BitVec 1) (d : BitVec 7) : Check := if w.toNat = 1 then pair d else none
/-- `cas` names a pair, or a quad when W = 1 (R275). -/
def casRegs (w : BitVec 1) (d : BitVec 7) : Check := if w.toNat = 1 then quad d else pair d
def block (a : BitVec 6) : Check := need (a.toNat ≤ 60) .block
def rgaReg (n : BitVec 7) : Check := need (n.toNat ≤ 119) .rgaTmp
def granules (g : BitVec 6) (w : BitVec 2) : Check := need (g.toNat + gran w ≤ 64) .granules
def groups (g : BitVec 3) (w : BitVec 2) : Check := need (g.toNat + gran w ≤ 8) .groups
def redMaps (b : BitVec 6) : Check := need (b.toNat ≤ 62) .redMaps
def shadow (w : BitVec 2) (g h : BitVec 6) : Check :=
  first [granules g w, need (h.toNat + gran w ≤ 64 &&
    (decide (h.toNat + gran w ≤ g.toNat) || decide (g.toNat + gran w ≤ h.toNat))) .shadow]
def rowSource (c : BitVec 1) (i : BitVec 8) : Check := need (c.toNat == 0 || decide (i.toNat < 64)) .rowSource

/-- Why a term of `Instr` has no words, or none where it has (Table 16.2). -/
def wfErr : Instr → Check
  | .mov .. => none
  | .li5 .. => none
  | .add16 .. => none
  | .sub16 .. => none
  | .mul16 .. => none
  | .and16 .. => none
  | .or16 .. => none
  | .xor16 .. => none
  | .shl16 .. => none
  | .srl16 .. => none
  | .sra16 .. => none
  | .fadd16 .. => none
  | .fsub16 .. => none
  | .fmul16 .. => none
  | .fmax16 .. => none
  | .fmin16 .. => none
  | .nop .. => none
  | .exit => none
  | .yield => none
  | .ret => none
  | .trl .. => none
  | .rjn t => rjnTag t
  | .brk .. => none
  | .halt => none
  | .br .. => none
  | .brp .. => none
  | .brpF .. => none
  | .call .. => none
  | .brx a => pair a
  | .callx a => pair a
  | .rfm _ l => live l
  | .waitAny .. => none
  | .waitAll .. => none
  | .barArv c _ _ => barCount c
  | .barWt c _ => barCount c
  | .barSyn c _ => barCount c
  | .gbar => none
  | .spawn .. => none
  | .jdec .. => none
  | .cancel .. => none
  | .rdsr r _ _ => srRead r
  | .wrsr r _ _ => srWrite r
  | .mode .. => none
  | .trap .. => none
  | .tret => none
  | .kadd .. => none
  | .ksub .. => none
  | .kmov .. => none
  | .kmovImm .. => none
  | .kshl .. => none
  | .kand .. => none
  | .kor .. => none
  | .kcmp c .. => kcmpCond c
  | .kld .. => none
  | .kldLane .. => none
  | .movk .. => none
  | .movkH .. => none
  | .kli .. => none
  | .add .. => none
  | .sub .. => none
  | .and .. => none
  | .or .. => none
  | .xor .. => none
  | .andn .. => none
  | .min .. => none
  | .max .. => none
  | .shl .. => none
  | .srl .. => none
  | .sra .. => none
  | .rol .. => none
  | .mul .. => none
  | .mulh .. => none
  | .mulhn .. => none
  | .abs .. => none
  | .addi .. => none
  | .andi .. => none
  | .ori .. => none
  | .xori .. => none
  | .shli .. => none
  | .srli .. => none
  | .srai .. => none
  | .li .. => none
  | .lih .. => none
  | .icmpEq .. => none
  | .icmpNe .. => none
  | .icmpLt .. => none
  | .icmpLe .. => none
  | .icmpLtn .. => none
  | .icmpLen .. => none
  | .sel .. => none
  | .pand .. => none
  | .por .. => none
  | .pxor .. => none
  | .pnot .. => none
  | .pmov .. => none
  | .clz .. => none
  | .popc .. => none
  | .brev .. => none
  | .bfe .. => none
  | .bfi .. => none
  | .lea _ a d _ => first [pair d, pair a]
  | .fadd .. => none
  | .fsub .. => none
  | .fmul .. => none
  | .fmin .. => none
  | .fmax .. => none
  | .fabs .. => none
  | .fneg .. => none
  | .fcmp _ _ c _ _ => fcmpCond c
  | .ffma .. => none
  | .ffms .. => none
  | .fnma .. => none
  | .hadd2 .. => none
  | .hmul2 .. => none
  | .hfma2 .. => none
  | .badd2 .. => none
  | .bmul2 .. => none
  | .bfma2 .. => none
  | .cvt t u _ _ _ _ => cvtTypes t u
  | .exp2 .. => none
  | .log2 .. => none
  | .rcp .. => none
  | .rsqrt .. => none
  | .sqrt .. => none
  | .tanh .. => none
  | .lgs .. => none
  | .gactLgs .. => none
  | .gactTanh .. => none
  | .gactAlgs .. => none
  | .frnd r _ _ _ => frndMode r
  | .fcls .. => none
  | .fexp .. => none
  | .fscl .. => none
  | .shflIdx .. => none
  | .shflUp .. => none
  | .shflDown .. => none
  | .shflXor .. => none
  | .voteAny .. => none
  | .voteAll .. => none
  | .voteBal .. => none
  | .voteCnt .. => none
  | .voteMatch .. => none
  | .lredAdd t _ _ _ => redType t
  | .lredMax t _ _ _ => redType t
  | .lredMin t _ _ _ => redType t
  | .lscanAddInc t _ _ _ => redType t
  | .lscanAddExc t _ _ _ => redType t
  | .lbc .. => none
  | .ld l z _ _ d _ => first [sizeMax z 6, sized z d, tmpSlot l d]
  | .st _ z _ _ d _ => first [sizeMax z 6, sized z d]
  | .ldk _ z _ _ _ _ => sizeMax z 5
  | .stk _ z _ _ _ _ => sizeMax z 5
  | .atomAdd _ w c _ a d _ => first [scope c, pair a, wide w d]
  | .atomMin _ w c _ a d _ => first [scope c, pair a, wide w d]
  | .atomMax _ w c _ a d _ => first [scope c, pair a, wide w d]
  | .atomAnd w c _ a d _ => first [scope c, pair a, wide w d]
  | .atomOr w c _ a d _ => first [scope c, pair a, wide w d]
  | .atomXor w c _ a d _ => first [scope c, pair a, wide w d]
  | .atomXchg w c _ a d _ => first [scope c, pair a, wide w d]
  | .atomCas w c _ a d _ => first [scope c, pair a, casRegs w d]
  | .fenceAcq c _ => scope c
  | .fenceRel c _ => scope c
  | .fenceAr c _ => scope c
  | .fenceSc c _ => scope c
  | .tget .. => none
  | .tset .. => none
  | .tdrn .. => none
  | .tstat .. => none
  | .cpy _ _ _ a _ => block a
  | .gth _ _ _ a _ => block a
  | .sct _ _ _ a _ => block a
  | .collSet _ _ _ a _ => block a
  | .collRun _ _ _ a _ => block a
  | .collStat .. => none
  | .pfi a _ => pair a
  | .pfd _ a _ => pair a
  | .dsc _ a _ => pair a
  | .lstu a _ _ => pair a
  | .wbk _ a _ => pair a
  | .ownreg .. => none
  | .ownclr .. => none
  | .rga n _ _ => rgaReg n
  | .omld .. => none
  | .mld _ w g _ _ _ => groups g w
  | .mswp .. => none
  | .mswpRel .. => none
  | .mst _ w g _ _ _ => granules g w
  | .mdr _ w g _ _ _ => granules g w
  | .mdrRed _ w g _ _ _ => granules g w
  | .accget _ w g _ _ => granules g w
  | .accgetW _ w g _ _ => granules g w
  | .accput _ w g _ => granules g w
  | .accz _ w g _ => granules g w
  | .accld _ w g _ _ _ => granules g w
  | .accst _ w g _ _ _ => granules g w
  | .tmm _ w g _ _ _ => granules g w
  | .tmmRed _ w g b _ _ => first [granules g w, redMaps b]
  | .sbeg w g h _ => shadow w g h
  | .scmt .. => none
  | .sdis .. => none
  | .rmax l i c d _ => first [rowSource c i, tmpSlot l d]
  | .rsum l i c d _ => first [rowSource c i, tmpSlot l d]
  | .rvar l i c d _ => first [rowSource c i, tmpSlot l d]
  | .rsmx l i c d _ => first [rowSource c i, tmpSlot l d]
  | .rnorm l i c d _ => first [rowSource c i, tmpSlot l d]
  | .illegalEncoding => some .noEncoding
  | .ejectionHandoverEnd => some .noEncoding
  | .rejoinWritebackEnd => some .noEncoding
  | .rejoinWindowClose => some .noEncoding
  | .ejlim => some .noEncoding
  | .binAged => some .noEncoding
  | .binDraw => some .noEncoding
  | .waitConditionMet => some .noEncoding
  | .waitTimeout => some .noEncoding
  | .runParkEnd => some .noEncoding
  | .fatalStop => some .noEncoding
  | .dumpWrite => some .noEncoding
  | .joinDecrement => some .noEncoding
  | .unitPlace => some .noEncoding
  | .compactionMove => some .noEncoding
  | .compactionMoveEnd => some .noEncoding
  | .demandFetch => some .noEncoding
  | .icacheFillLand => some .noEncoding
  | .translationWalkEnd => some .noEncoding
  | .pageRequestResponse => some .noEncoding
  | .loadReturn => some .noEncoding
  | .storeAck => some .noEncoding
  | .atomicComplete => some .noEncoding
  | .requestLost => some .noEncoding
  | .engineReadsBegin => some .noEncoding
  | .engineTransferEnd => some .noEncoding
  | .completionWriteAck => some .noEncoding
  | .tileFillEnd => some .noEncoding
  | .tileDrainEnd => some .noEncoding
  | .collSetResult => some .noEncoding
  | .collSetMemberTimeout => some .noEncoding
  | .fabricReduce => some .noEncoding
  | .collRunComplete => some .noEncoding
  | .fabricMessageReceive => some .noEncoding
  | .stationaryLoadComplete => some .noEncoding
  | .planeSwap => some .noEncoding
  | .streamComplete => some .noEncoding
  | .drainComplete => some .noEncoding
  | .rowStatComplete => some .noEncoding
  | .lehrStep => some .noEncoding
  | .budgetRetry => some .noEncoding
  | .firstUseTrapReturn => some .noEncoding
  | .elasticGrant => some .noEncoding
  | .elasticRefuse => some .noEncoding
  | .tailWrite => some .noEncoding
  | .packetTake => some .noEncoding
  | .pktLaunch => some .noEncoding
  | .pktGraphSubmit => some .noEncoding
  | .pktSignalSet => some .noEncoding
  | .pktSignalClear => some .noEncoding
  | .pktSignalPhase => some .noEncoding
  | .pktSignalNothing => some .noEncoding
  | .pktCopy => some .noEncoding
  | .pktCodeMove => some .noEncoding
  | .pktCancel => some .noEncoding
  | .pktQuery => some .noEncoding
  | .packetComplete => some .noEncoding
  | .evrbWrite => some .noEncoding
  | .invPage => some .noEncoding
  | .invPasid => some .noEncoding
  | .invFunction => some .noEncoding
  | .invalidationDone => some .noEncoding
  | .atsInvalidationRequest => some .noEncoding
  | .cqdEnable => some .noEncoding
  | .cqdDisable => some .noEncoding
  | .ctxCreate => some .noEncoding
  | .ctxDestroy => some .noEncoding
  | .contextDestroyDone => some .noEncoding
  | .fwdRemove => some .noEncoding
  | .routeWrite => some .noEncoding
  | .routeTakeEffect => some .noEncoding
  | .registerWrite => some .noEncoding
  | .policy => some .noEncoding
  | .attest => some .noEncoding
  | .keys => some .noEncoding
  | .openCmd => some .noEncoding
  | .sched => some .noEncoding
  | .pause => some .noEncoding
  | .evict => some .noEncoding
  | .resume => some .noEncoding
  | .contextResume => some .noEncoding
  | .kill => some .noEncoding
  | .move => some .noEncoding
  | .sliceMoveComplete => some .noEncoding
  | .retireCluster => some .noEncoding
  | .retireChannelPair => some .noEncoding
  | .counts => some .noEncoding
  | .countsClear => some .noEncoding
  | .unknownCommand => some .noEncoding
  | .crucibleCommandDone => some .noEncoding
  | .moduleReset => some .noEncoding
  | .functionReady => some .noEncoding
  | .storeUncorrectable => some .noEncoding
  | .cacheHbmError => some .noEncoding
  | .correctedError => some .noEncoding
  | .clusterControlError => some .noEncoding
  | .hostReadFailure => some .noEncoding
  | .hostCompletionTimeout => some .noEncoding
  | .linkDown => some .noEncoding
  | .linkReturn => some .noEncoding
  | .failedPostedWrite => some .noEncoding
  | .atsTranslationCompletion => some .noEncoding
  | .movePageNew => some .noEncoding

/-- The term is an encoding of the PVB-3048. -/
abbrev WellFormed (i : Instr) : Prop := wfErr i = none

end Sys2Proof
end

