-- ==== Sys2Proof/Decode.lean ====
section
/-! DEFINITION. Decoding of any bytes (R170, R171, R184, R186, R394) and the encoder. A word is a natural number
whose bit 0 is the least significant bit of the halfword at the lower address; fields are cut by division, as Table 7.3
and Table 7.4 place them. -/

namespace Sys2Proof

/-- Why bytes are not an instruction (R394, Table 16.2). -/
inductive DecodeErr where
  /-- fewer bytes than the length bit asks for (R170) -/
  | short
  /-- a halfword with [0] = 0 and [15] = 1 (R171) -/
  | halfword
  /-- an unallocated major (Table 7.4) -/
  | major
  /-- a reserved selector value, a reserved field that is not 0, or S = 0 on a run-ending instruction (R6, R175, R185) -/
  | reserved
  /-- a limit of `wfErr` is broken -/
  | illFormed (e : IllFormed)
deriving DecidableEq, Repr

/-- Bits [lo + width - 1 : lo] of a word. -/
def field (w lo width : Nat) : Nat := w / 2 ^ lo % 2 ^ width

/-- A field as the bit vector an instruction holds. -/
def bits (w lo width : Nat) : BitVec width := BitVec.ofNat width (field w lo width)

/-- The fixed fields of a row: (low bit, width, value). -/
def fixedIs (w : Nat) : List (Nat × Nat × Nat) → Bool
  | [] => true
  | (lo, width, v) :: r => field w lo width == v && fixedIs w r

/-- The first row of a list whose fixed fields the word has. -/
def pickRow (w : Nat) : List (List (Nat × Nat × Nat) × Instr) → Option Instr
  | [] => none
  | (fx, i) :: r => if fixedIs w fx then some i else pickRow w r

/-- The 16-bit operations of Table 7.2, by op. -/
def row16 (w : Nat) : Option Instr :=
  pickRow w [
    ([(1, 4, 0)], .mov (bits w 10 5) (bits w 5 5)),
    ([(1, 4, 1)], .li5 (bits w 10 5) (bits w 5 5)),
    ([(1, 4, 2)], .add16 (bits w 10 5) (bits w 5 5)),
    ([(1, 4, 3)], .sub16 (bits w 10 5) (bits w 5 5)),
    ([(1, 4, 4)], .mul16 (bits w 10 5) (bits w 5 5)),
    ([(1, 4, 5)], .and16 (bits w 10 5) (bits w 5 5)),
    ([(1, 4, 6)], .or16 (bits w 10 5) (bits w 5 5)),
    ([(1, 4, 7)], .xor16 (bits w 10 5) (bits w 5 5)),
    ([(1, 4, 8)], .shl16 (bits w 10 5) (bits w 5 5)),
    ([(1, 4, 9)], .srl16 (bits w 10 5) (bits w 5 5)),
    ([(1, 4, 10)], .sra16 (bits w 10 5) (bits w 5 5)),
    ([(1, 4, 11)], .fadd16 (bits w 10 5) (bits w 5 5)),
    ([(1, 4, 12)], .fsub16 (bits w 10 5) (bits w 5 5)),
    ([(1, 4, 13)], .fmul16 (bits w 10 5) (bits w 5 5)),
    ([(1, 4, 14)], .fmax16 (bits w 10 5) (bits w 5 5)),
    ([(1, 4, 15)], .fmin16 (bits w 10 5) (bits w 5 5))]

/-- Rows of major 0x00. -/
def rowMaj00 (w : Nat) : Option Instr :=
  pickRow w [
    ([(8, 8, 0), (20, 12, 0)], .nop (bits w 16 4) (bits w 1 1)),
    ([(1, 1, 1), (8, 24, 1)], .exit),
    ([(1, 1, 1), (8, 24, 2)], .yield),
    ([(1, 1, 1), (8, 24, 3)], .ret),
    ([(8, 8, 4), (19, 13, 0)], .trl (bits w 16 3) (bits w 1 1)),
    ([(1, 1, 1), (8, 8, 5), (20, 12, 0)], .rjn (bits w 16 4)),
    ([(1, 1, 1), (8, 8, 6)], .brk (bits w 16 16)),
    ([(1, 1, 1), (8, 24, 7)], .halt)]

/-- Rows of major 0x01. -/
def rowMaj01 (w : Nat) : Option Instr :=
  pickRow w [
    ([(1, 1, 1)], .br (bits w 8 24))]

/-- Rows of major 0x02. -/
def rowMaj02 (w : Nat) : Option Instr :=
  pickRow w [
    ([(1, 1, 1), (11, 1, 1)], .brp (bits w 16 16) (bits w 12 4) (bits w 8 3)),
    ([(1, 1, 1), (11, 1, 0)], .brpF (bits w 16 16) (bits w 12 4) (bits w 8 3))]

/-- Rows of major 0x03. -/
def rowMaj03 (w : Nat) : Option Instr :=
  pickRow w [
    ([(1, 1, 1)], .call (bits w 8 24))]

/-- Rows of major 0x04. -/
def rowMaj04 (w : Nat) : Option Instr :=
  pickRow w [
    ([(1, 1, 1), (8, 7, 0), (22, 10, 0)], .brx (bits w 15 7)),
    ([(1, 1, 1), (8, 7, 0), (22, 10, 128)], .callx (bits w 15 7))]

/-- Rows of major 0x05. -/
def rowMaj05 (w : Nat) : Option Instr :=
  pickRow w [
    ([(1, 1, 1), (15, 1, 0)], .rfm (bits w 16 16) (bits w 8 7))]

/-- Rows of major 0x06. -/
def rowMaj06 (w : Nat) : Option Instr :=
  pickRow w [
    ([(1, 1, 1), (26, 6, 0)], .waitAny (bits w 20 6) (bits w 14 6) (bits w 8 6)),
    ([(1, 1, 1), (26, 6, 1)], .waitAll (bits w 20 6) (bits w 14 6) (bits w 8 6))]

/-- Rows of major 0x07. -/
def rowMaj07 (w : Nat) : Option Instr :=
  pickRow w [
    ([(8, 3, 0)], .barArv (bits w 20 12) (bits w 11 9) (bits w 1 1)),
    ([(1, 1, 1), (8, 3, 1)], .barWt (bits w 20 12) (bits w 11 9)),
    ([(1, 1, 1), (8, 3, 2)], .barSyn (bits w 20 12) (bits w 11 9))]

/-- Rows of major 0x08. -/
def rowMaj08 (w : Nat) : Option Instr :=
  pickRow w [
    ([(1, 1, 1), (8, 24, 0)], .gbar),
    ([(8, 6, 0), (20, 12, 64)], .spawn (bits w 14 6) (bits w 1 1)),
    ([(8, 6, 0), (20, 12, 128)], .jdec (bits w 14 6) (bits w 1 1)),
    ([(8, 6, 0), (20, 12, 192)], .cancel (bits w 14 6) (bits w 1 1))]

/-- Rows of major 0x09. -/
def rowMaj09 (w : Nat) : Option Instr :=
  pickRow w [
    ([(15, 7, 0), (28, 4, 0)], .rdsr (bits w 22 6) (bits w 8 7) (bits w 1 1)),
    ([(8, 7, 0), (28, 4, 4)], .wrsr (bits w 22 6) (bits w 15 7) (bits w 1 1)),
    ([(8, 20, 0), (30, 2, 2)], .mode (bits w 28 2) (bits w 1 1))]

/-- Rows of major 0x0A. -/
def rowMaj0A (w : Nat) : Option Instr :=
  pickRow w [
    ([(1, 1, 1), (8, 8, 0)], .trap (bits w 16 16)),
    ([(1, 1, 1), (8, 24, 1)], .tret)]

/-- Rows of major 0x0B. -/
def rowMaj0B (w : Nat) : Option Instr :=
  pickRow w [
    ([(26, 3, 0), (30, 2, 0)], .kadd (bits w 29 1) (bits w 20 6) (bits w 14 6) (bits w 8 6) (bits w 1 1)),
    ([(26, 3, 1), (30, 2, 0)], .ksub (bits w 29 1) (bits w 20 6) (bits w 14 6) (bits w 8 6) (bits w 1 1)),
    ([(20, 12, 128)], .kmov (bits w 14 6) (bits w 8 6) (bits w 1 1)),
    ([(14, 6, 0), (26, 6, 10)], .kmovImm (bits w 20 6) (bits w 8 6) (bits w 1 1)),
    ([(26, 3, 3), (30, 2, 0)], .kshl (bits w 29 1) (bits w 20 6) (bits w 14 6) (bits w 8 6) (bits w 1 1)),
    ([(26, 3, 4), (30, 2, 0)], .kand (bits w 29 1) (bits w 20 6) (bits w 14 6) (bits w 8 6) (bits w 1 1)),
    ([(26, 3, 5), (30, 2, 0)], .kor (bits w 29 1) (bits w 20 6) (bits w 14 6) (bits w 8 6) (bits w 1 1)),
    ([(26, 3, 6)], .kcmp (bits w 29 3) (bits w 20 6) (bits w 14 6) (bits w 8 6) (bits w 1 1)),
    ([(21, 11, 224)], .kld (bits w 15 6) (bits w 8 7) (bits w 1 1)),
    ([(26, 6, 15)], .kldLane (bits w 21 5) (bits w 15 6) (bits w 8 7) (bits w 1 1)),
    ([(21, 11, 736)], .movk (bits w 15 6) (bits w 8 7) (bits w 1 1)),
    ([(21, 11, 992)], .movkH (bits w 15 6) (bits w 8 7) (bits w 1 1))]

/-- Rows of major 0x0C. -/
def rowMaj0C (w : Nat) : Option Instr :=
  pickRow w [
    ([], .kli (bits w 16 16) (bits w 14 2) (bits w 8 6) (bits w 1 1))]

/-- Rows of major 0x10. -/
def rowMaj10 (w : Nat) : Option Instr :=
  pickRow w [
    ([(29, 3, 0)], .add (bits w 22 7) (bits w 15 7) (bits w 8 7) (bits w 1 1)),
    ([(29, 3, 1)], .sub (bits w 22 7) (bits w 15 7) (bits w 8 7) (bits w 1 1)),
    ([(29, 3, 2)], .and (bits w 22 7) (bits w 15 7) (bits w 8 7) (bits w 1 1)),
    ([(29, 3, 3)], .or (bits w 22 7) (bits w 15 7) (bits w 8 7) (bits w 1 1)),
    ([(29, 3, 4)], .xor (bits w 22 7) (bits w 15 7) (bits w 8 7) (bits w 1 1)),
    ([(29, 3, 5)], .andn (bits w 22 7) (bits w 15 7) (bits w 8 7) (bits w 1 1)),
    ([(29, 3, 6)], .min (bits w 22 7) (bits w 15 7) (bits w 8 7) (bits w 1 1)),
    ([(29, 3, 7)], .max (bits w 22 7) (bits w 15 7) (bits w 8 7) (bits w 1 1))]

/-- Rows of major 0x11. -/
def rowMaj11 (w : Nat) : Option Instr :=
  pickRow w [
    ([(29, 3, 0)], .shl (bits w 22 7) (bits w 15 7) (bits w 8 7) (bits w 1 1)),
    ([(29, 3, 1)], .srl (bits w 22 7) (bits w 15 7) (bits w 8 7) (bits w 1 1)),
    ([(29, 3, 2)], .sra (bits w 22 7) (bits w 15 7) (bits w 8 7) (bits w 1 1)),
    ([(29, 3, 3)], .rol (bits w 22 7) (bits w 15 7) (bits w 8 7) (bits w 1 1)),
    ([(29, 3, 4)], .mul (bits w 22 7) (bits w 15 7) (bits w 8 7) (bits w 1 1)),
    ([(29, 3, 5)], .mulh (bits w 22 7) (bits w 15 7) (bits w 8 7) (bits w 1 1)),
    ([(29, 3, 6)], .mulhn (bits w 22 7) (bits w 15 7) (bits w 8 7) (bits w 1 1)),
    ([(22, 10, 896)], .abs (bits w 15 7) (bits w 8 7) (bits w 1 1))]

/-- Rows of major 0x12. -/
def rowMaj12 (w : Nat) : Option Instr :=
  pickRow w [
    ([], .addi (bits w 22 10) (bits w 15 7) (bits w 8 7) (bits w 1 1))]

/-- Rows of major 0x13. -/
def rowMaj13 (w : Nat) : Option Instr :=
  pickRow w [
    ([(29, 3, 0)], .andi (bits w 22 7) (bits w 15 7) (bits w 8 7) (bits w 1 1)),
    ([(29, 3, 1)], .ori (bits w 22 7) (bits w 15 7) (bits w 8 7) (bits w 1 1)),
    ([(29, 3, 2)], .xori (bits w 22 7) (bits w 15 7) (bits w 8 7) (bits w 1 1)),
    ([(27, 5, 12)], .shli (bits w 22 5) (bits w 15 7) (bits w 8 7) (bits w 1 1)),
    ([(27, 5, 16)], .srli (bits w 22 5) (bits w 15 7) (bits w 8 7) (bits w 1 1)),
    ([(27, 5, 20)], .srai (bits w 22 5) (bits w 15 7) (bits w 8 7) (bits w 1 1))]

/-- Rows of major 0x14. -/
def rowMaj14 (w : Nat) : Option Instr :=
  pickRow w [
    ([(15, 1, 0)], .li (bits w 16 16) (bits w 8 7) (bits w 1 1)),
    ([(15, 1, 1)], .lih (bits w 16 16) (bits w 8 7) (bits w 1 1))]

/-- Rows of major 0x15. -/
def rowMaj15 (w : Nat) : Option Instr :=
  pickRow w [
    ([(11, 4, 0), (29, 3, 0)], .icmpEq (bits w 22 7) (bits w 15 7) (bits w 8 3) (bits w 1 1)),
    ([(11, 4, 0), (29, 3, 1)], .icmpNe (bits w 22 7) (bits w 15 7) (bits w 8 3) (bits w 1 1)),
    ([(11, 4, 0), (29, 3, 2)], .icmpLt (bits w 22 7) (bits w 15 7) (bits w 8 3) (bits w 1 1)),
    ([(11, 4, 0), (29, 3, 3)], .icmpLe (bits w 22 7) (bits w 15 7) (bits w 8 3) (bits w 1 1)),
    ([(11, 4, 0), (29, 3, 4)], .icmpLtn (bits w 22 7) (bits w 15 7) (bits w 8 3) (bits w 1 1)),
    ([(11, 4, 0), (29, 3, 5)], .icmpLen (bits w 22 7) (bits w 15 7) (bits w 8 3) (bits w 1 1))]

/-- Rows of major 0x16. -/
def rowMaj16 (w : Nat) : Option Instr :=
  pickRow w [
    ([(25, 7, 0)], .sel (bits w 22 3) (bits w 15 7) (bits w 8 7) (bits w 1 1)),
    ([(11, 4, 0), (18, 4, 0), (25, 7, 16)], .pand (bits w 22 3) (bits w 15 3) (bits w 8 3) (bits w 1 1)),
    ([(11, 4, 0), (18, 4, 0), (25, 7, 32)], .por (bits w 22 3) (bits w 15 3) (bits w 8 3) (bits w 1 1)),
    ([(11, 4, 0), (18, 4, 0), (25, 7, 48)], .pxor (bits w 22 3) (bits w 15 3) (bits w 8 3) (bits w 1 1)),
    ([(11, 4, 0), (18, 14, 8192)], .pnot (bits w 15 3) (bits w 8 3) (bits w 1 1)),
    ([(11, 4, 0), (18, 14, 10240)], .pmov (bits w 15 3) (bits w 8 3) (bits w 1 1))]

/-- Rows of major 0x17. -/
def rowMaj17 (w : Nat) : Option Instr :=
  pickRow w [
    ([(22, 10, 0)], .clz (bits w 15 7) (bits w 8 7) (bits w 1 1)),
    ([(22, 10, 128)], .popc (bits w 15 7) (bits w 8 7) (bits w 1 1)),
    ([(22, 10, 256)], .brev (bits w 15 7) (bits w 8 7) (bits w 1 1)),
    ([(29, 3, 3)], .bfe (bits w 22 7) (bits w 15 7) (bits w 8 7) (bits w 1 1)),
    ([(29, 3, 4)], .bfi (bits w 22 7) (bits w 15 7) (bits w 8 7) (bits w 1 1)),
    ([(29, 3, 5)], .lea (bits w 22 7) (bits w 15 7) (bits w 8 7) (bits w 1 1))]

/-- Rows of major 0x18. -/
def rowMaj18 (w : Nat) : Option Instr :=
  pickRow w [
    ([(29, 3, 0)], .fadd (bits w 22 7) (bits w 15 7) (bits w 8 7) (bits w 1 1)),
    ([(29, 3, 1)], .fsub (bits w 22 7) (bits w 15 7) (bits w 8 7) (bits w 1 1)),
    ([(29, 3, 2)], .fmul (bits w 22 7) (bits w 15 7) (bits w 8 7) (bits w 1 1)),
    ([(29, 3, 3)], .fmin (bits w 22 7) (bits w 15 7) (bits w 8 7) (bits w 1 1)),
    ([(29, 3, 4)], .fmax (bits w 22 7) (bits w 15 7) (bits w 8 7) (bits w 1 1)),
    ([(22, 10, 640)], .fabs (bits w 15 7) (bits w 8 7) (bits w 1 1)),
    ([(22, 10, 768)], .fneg (bits w 15 7) (bits w 8 7) (bits w 1 1)),
    ([(29, 3, 7)], .fcmp (bits w 22 7) (bits w 15 7) (bits w 11 4) (bits w 8 3) (bits w 1 1))]

/-- Rows of major 0x19. -/
def rowMaj19 (w : Nat) : Option Instr :=
  pickRow w [
    ([(29, 3, 0)], .ffma (bits w 22 7) (bits w 15 7) (bits w 8 7) (bits w 1 1)),
    ([(29, 3, 1)], .ffms (bits w 22 7) (bits w 15 7) (bits w 8 7) (bits w 1 1)),
    ([(29, 3, 2)], .fnma (bits w 22 7) (bits w 15 7) (bits w 8 7) (bits w 1 1))]

/-- Rows of major 0x1A. -/
def rowMaj1A (w : Nat) : Option Instr :=
  pickRow w [
    ([(29, 3, 0)], .hadd2 (bits w 22 7) (bits w 15 7) (bits w 8 7) (bits w 1 1)),
    ([(29, 3, 1)], .hmul2 (bits w 22 7) (bits w 15 7) (bits w 8 7) (bits w 1 1)),
    ([(29, 3, 2)], .hfma2 (bits w 22 7) (bits w 15 7) (bits w 8 7) (bits w 1 1)),
    ([(29, 3, 3)], .badd2 (bits w 22 7) (bits w 15 7) (bits w 8 7) (bits w 1 1)),
    ([(29, 3, 4)], .bmul2 (bits w 22 7) (bits w 15 7) (bits w 8 7) (bits w 1 1)),
    ([(29, 3, 5)], .bfma2 (bits w 22 7) (bits w 15 7) (bits w 8 7) (bits w 1 1))]

/-- Rows of major 0x1B. -/
def rowMaj1B (w : Nat) : Option Instr :=
  pickRow w [
    ([], .cvt (bits w 28 4) (bits w 24 4) (bits w 22 2) (bits w 15 7) (bits w 8 7) (bits w 1 1))]

/-- Rows of major 0x1C. -/
def rowMaj1C (w : Nat) : Option Instr :=
  pickRow w [
    ([(22, 10, 0)], .exp2 (bits w 15 7) (bits w 8 7) (bits w 1 1)),
    ([(22, 10, 128)], .log2 (bits w 15 7) (bits w 8 7) (bits w 1 1)),
    ([(22, 10, 256)], .rcp (bits w 15 7) (bits w 8 7) (bits w 1 1)),
    ([(22, 10, 384)], .rsqrt (bits w 15 7) (bits w 8 7) (bits w 1 1)),
    ([(22, 10, 512)], .sqrt (bits w 15 7) (bits w 8 7) (bits w 1 1)),
    ([(22, 10, 640)], .tanh (bits w 15 7) (bits w 8 7) (bits w 1 1)),
    ([(22, 10, 768)], .lgs (bits w 15 7) (bits w 8 7) (bits w 1 1))]

/-- Rows of major 0x1D. -/
def rowMaj1D (w : Nat) : Option Instr :=
  pickRow w [
    ([(29, 3, 0)], .gactLgs (bits w 22 7) (bits w 15 7) (bits w 8 7) (bits w 1 1)),
    ([(29, 3, 1)], .gactTanh (bits w 22 7) (bits w 15 7) (bits w 8 7) (bits w 1 1)),
    ([(29, 3, 2)], .gactAlgs (bits w 22 7) (bits w 15 7) (bits w 8 7) (bits w 1 1))]

/-- Rows of major 0x1E. -/
def rowMaj1E (w : Nat) : Option Instr :=
  pickRow w [
    ([(29, 3, 0)], .frnd (bits w 22 7) (bits w 15 7) (bits w 8 7) (bits w 1 1)),
    ([(22, 10, 128)], .fcls (bits w 15 7) (bits w 8 7) (bits w 1 1)),
    ([(22, 10, 256)], .fexp (bits w 15 7) (bits w 8 7) (bits w 1 1)),
    ([(29, 3, 3)], .fscl (bits w 22 7) (bits w 15 7) (bits w 8 7) (bits w 1 1))]

/-- Rows of major 0x20. -/
def rowMaj20 (w : Nat) : Option Instr :=
  pickRow w [
    ([(29, 3, 0)], .shflIdx (bits w 22 7) (bits w 15 7) (bits w 8 7) (bits w 1 1)),
    ([(29, 3, 1)], .shflUp (bits w 22 7) (bits w 15 7) (bits w 8 7) (bits w 1 1)),
    ([(29, 3, 2)], .shflDown (bits w 22 7) (bits w 15 7) (bits w 8 7) (bits w 1 1)),
    ([(29, 3, 3)], .shflXor (bits w 22 7) (bits w 15 7) (bits w 8 7) (bits w 1 1))]

/-- Rows of major 0x21. -/
def rowMaj21 (w : Nat) : Option Instr :=
  pickRow w [
    ([(18, 14, 0)], .voteAny (bits w 15 3) (bits w 8 7) (bits w 1 1)),
    ([(18, 14, 2048)], .voteAll (bits w 15 3) (bits w 8 7) (bits w 1 1)),
    ([(18, 14, 4096)], .voteBal (bits w 15 3) (bits w 8 7) (bits w 1 1)),
    ([(18, 14, 6144)], .voteCnt (bits w 15 3) (bits w 8 7) (bits w 1 1)),
    ([(22, 10, 512)], .voteMatch (bits w 15 7) (bits w 8 7) (bits w 1 1))]

/-- Rows of major 0x22. -/
def rowMaj22 (w : Nat) : Option Instr :=
  pickRow w [
    ([(24, 8, 0)], .lredAdd (bits w 22 2) (bits w 15 7) (bits w 8 7) (bits w 1 1)),
    ([(24, 8, 32)], .lredMax (bits w 22 2) (bits w 15 7) (bits w 8 7) (bits w 1 1)),
    ([(24, 8, 64)], .lredMin (bits w 22 2) (bits w 15 7) (bits w 8 7) (bits w 1 1)),
    ([(24, 8, 96)], .lscanAddInc (bits w 22 2) (bits w 15 7) (bits w 8 7) (bits w 1 1)),
    ([(24, 8, 128)], .lscanAddExc (bits w 22 2) (bits w 15 7) (bits w 8 7) (bits w 1 1))]

/-- Rows of major 0x23. -/
def rowMaj23 (w : Nat) : Option Instr :=
  pickRow w [
    ([(27, 5, 0)], .lbc (bits w 22 5) (bits w 15 7) (bits w 8 7) (bits w 1 1))]

/-- Rows of major 0x24. -/
def rowMaj24 (w : Nat) : Option Instr :=
  pickRow w [
    ([], .ld (bits w 30 2) (bits w 27 3) (bits w 22 5) (bits w 15 7) (bits w 8 7) (bits w 1 1))]

/-- Rows of major 0x25. -/
def rowMaj25 (w : Nat) : Option Instr :=
  pickRow w [
    ([], .st (bits w 30 2) (bits w 27 3) (bits w 22 5) (bits w 15 7) (bits w 8 7) (bits w 1 1))]

/-- Rows of major 0x26. -/
def rowMaj26 (w : Nat) : Option Instr :=
  pickRow w [
    ([(14, 1, 0)], .ldk (bits w 30 2) (bits w 27 3) (bits w 22 5) (bits w 15 7) (bits w 8 6) (bits w 1 1)),
    ([(14, 1, 1)], .stk (bits w 30 2) (bits w 27 3) (bits w 22 5) (bits w 15 7) (bits w 8 6) (bits w 1 1))]

/-- Rows of major 0x27. -/
def rowMaj27 (w : Nat) : Option Instr :=
  pickRow w [
    ([(22, 3, 0)], .atomAdd (bits w 31 1) (bits w 30 1) (bits w 27 3) (bits w 25 2) (bits w 15 7) (bits w 8 7) (bits w 1 1)),
    ([(22, 3, 1)], .atomMin (bits w 31 1) (bits w 30 1) (bits w 27 3) (bits w 25 2) (bits w 15 7) (bits w 8 7) (bits w 1 1)),
    ([(22, 3, 2)], .atomMax (bits w 31 1) (bits w 30 1) (bits w 27 3) (bits w 25 2) (bits w 15 7) (bits w 8 7) (bits w 1 1)),
    ([(22, 3, 3), (31, 1, 0)], .atomAnd (bits w 30 1) (bits w 27 3) (bits w 25 2) (bits w 15 7) (bits w 8 7) (bits w 1 1)),
    ([(22, 3, 4), (31, 1, 0)], .atomOr (bits w 30 1) (bits w 27 3) (bits w 25 2) (bits w 15 7) (bits w 8 7) (bits w 1 1)),
    ([(22, 3, 5), (31, 1, 0)], .atomXor (bits w 30 1) (bits w 27 3) (bits w 25 2) (bits w 15 7) (bits w 8 7) (bits w 1 1)),
    ([(22, 3, 6), (31, 1, 0)], .atomXchg (bits w 30 1) (bits w 27 3) (bits w 25 2) (bits w 15 7) (bits w 8 7) (bits w 1 1)),
    ([(22, 3, 7), (31, 1, 0)], .atomCas (bits w 30 1) (bits w 27 3) (bits w 25 2) (bits w 15 7) (bits w 8 7) (bits w 1 1))]

/-- Rows of major 0x28. -/
def rowMaj28 (w : Nat) : Option Instr :=
  pickRow w [
    ([(8, 2, 0), (13, 19, 0)], .fenceAcq (bits w 10 3) (bits w 1 1)),
    ([(8, 2, 1), (13, 19, 0)], .fenceRel (bits w 10 3) (bits w 1 1)),
    ([(8, 2, 2), (13, 19, 0)], .fenceAr (bits w 10 3) (bits w 1 1)),
    ([(8, 2, 3), (13, 19, 0)], .fenceSc (bits w 10 3) (bits w 1 1))]

/-- Rows of major 0x29. -/
def rowMaj29 (w : Nat) : Option Instr :=
  pickRow w [
    ([(22, 6, 0), (30, 2, 0)], .tget (bits w 28 2) (bits w 16 6) (bits w 8 8) (bits w 1 1)),
    ([(22, 10, 256)], .tset (bits w 16 6) (bits w 8 8) (bits w 1 1)),
    ([(22, 6, 0), (30, 2, 2)], .tdrn (bits w 28 2) (bits w 16 6) (bits w 8 8) (bits w 1 1)),
    ([(16, 6, 0), (28, 4, 12)], .tstat (bits w 22 6) (bits w 8 8) (bits w 1 1))]

/-- Rows of major 0x2A. -/
def rowMaj2A (w : Nat) : Option Instr :=
  pickRow w [
    ([(26, 3, 0), (31, 1, 0)], .cpy (bits w 29 2) (bits w 20 6) (bits w 14 6) (bits w 8 6) (bits w 1 1))]

/-- Rows of major 0x2B. -/
def rowMaj2B (w : Nat) : Option Instr :=
  pickRow w [
    ([(26, 3, 0), (31, 1, 0)], .gth (bits w 29 2) (bits w 20 6) (bits w 14 6) (bits w 8 6) (bits w 1 1)),
    ([(26, 3, 1), (31, 1, 0)], .sct (bits w 29 2) (bits w 20 6) (bits w 14 6) (bits w 8 6) (bits w 1 1))]

/-- Rows of major 0x2C. -/
def rowMaj2C (w : Nat) : Option Instr :=
  pickRow w [
    ([(26, 3, 0), (31, 1, 0)], .collSet (bits w 29 2) (bits w 20 6) (bits w 14 6) (bits w 8 6) (bits w 1 1)),
    ([(26, 3, 1), (31, 1, 0)], .collRun (bits w 29 2) (bits w 20 6) (bits w 14 6) (bits w 8 6) (bits w 1 1)),
    ([(14, 6, 0), (26, 3, 2), (31, 1, 0)], .collStat (bits w 29 2) (bits w 20 6) (bits w 8 6) (bits w 1 1))]

/-- Rows of major 0x2D. -/
def rowMaj2D (w : Nat) : Option Instr :=
  pickRow w [
    ([(8, 7, 0), (22, 10, 0)], .pfi (bits w 15 7) (bits w 1 1)),
    ([(8, 7, 0), (29, 3, 1)], .pfd (bits w 22 7) (bits w 15 7) (bits w 1 1)),
    ([(8, 7, 0), (29, 3, 2)], .dsc (bits w 22 7) (bits w 15 7) (bits w 1 1)),
    ([(22, 10, 384)], .lstu (bits w 15 7) (bits w 8 7) (bits w 1 1)),
    ([(8, 7, 0), (29, 3, 4)], .wbk (bits w 22 7) (bits w 15 7) (bits w 1 1))]

/-- Rows of major 0x2E. -/
def rowMaj2E (w : Nat) : Option Instr :=
  pickRow w [
    ([(8, 6, 0), (26, 6, 0)], .ownreg (bits w 20 6) (bits w 14 6) (bits w 1 1)),
    ([(8, 6, 0), (20, 12, 64)], .ownclr (bits w 14 6) (bits w 1 1))]

/-- Rows of major 0x2F. -/
def rowMaj2F (w : Nat) : Option Instr :=
  pickRow w [
    ([(22, 10, 0)], .rga (bits w 15 7) (bits w 8 7) (bits w 1 1))]

/-- Rows of major 0x30. -/
def rowMaj30 (w : Nat) : Option Instr :=
  pickRow w [
    ([(12, 2, 0), (20, 12, 0)], .omld (bits w 14 6) (bits w 8 4) (bits w 1 1))]

/-- Rows of major 0x31. -/
def rowMaj31 (w : Nat) : Option Instr :=
  pickRow w [
    ([(23, 3, 0), (30, 2, 0)], .mld (bits w 28 2) (bits w 26 2) (bits w 20 3) (bits w 14 6) (bits w 8 6) (bits w 1 1)),
    ([(8, 20, 0), (30, 2, 1)], .mswp (bits w 28 2) (bits w 1 1)),
    ([(8, 20, 262144), (30, 2, 1)], .mswpRel (bits w 28 2) (bits w 1 1))]

/-- Rows of major 0x32. -/
def rowMaj32 (w : Nat) : Option Instr :=
  pickRow w [
    ([(30, 2, 0)], .mst (bits w 28 2) (bits w 26 2) (bits w 20 6) (bits w 14 6) (bits w 8 6) (bits w 1 1))]

/-- Rows of major 0x33. -/
def rowMaj33 (w : Nat) : Option Instr :=
  pickRow w [
    ([(30, 2, 0)], .mdr (bits w 28 2) (bits w 26 2) (bits w 20 6) (bits w 14 6) (bits w 8 6) (bits w 1 1)),
    ([(30, 2, 1)], .mdrRed (bits w 28 2) (bits w 26 2) (bits w 20 6) (bits w 14 6) (bits w 8 6) (bits w 1 1))]

/-- Rows of major 0x34. -/
def rowMaj34 (w : Nat) : Option Instr :=
  pickRow w [
    ([(8, 6, 0), (30, 2, 0)], .accget (bits w 28 2) (bits w 26 2) (bits w 20 6) (bits w 14 6) (bits w 1 1)),
    ([(8, 6, 1), (30, 2, 0)], .accgetW (bits w 28 2) (bits w 26 2) (bits w 20 6) (bits w 14 6) (bits w 1 1)),
    ([(8, 12, 0), (30, 2, 1)], .accput (bits w 28 2) (bits w 26 2) (bits w 20 6) (bits w 1 1)),
    ([(8, 12, 0), (30, 2, 2)], .accz (bits w 28 2) (bits w 26 2) (bits w 20 6) (bits w 1 1)),
    ([(19, 1, 0), (30, 2, 3)], .accld (bits w 28 2) (bits w 26 2) (bits w 20 6) (bits w 14 5) (bits w 8 6) (bits w 1 1)),
    ([(19, 1, 1), (30, 2, 3)], .accst (bits w 28 2) (bits w 26 2) (bits w 20 6) (bits w 14 5) (bits w 8 6) (bits w 1 1))]

/-- Rows of major 0x35. -/
def rowMaj35 (w : Nat) : Option Instr :=
  pickRow w [
    ([(30, 2, 0)], .tmm (bits w 28 2) (bits w 26 2) (bits w 20 6) (bits w 14 6) (bits w 8 6) (bits w 1 1)),
    ([(30, 2, 1)], .tmmRed (bits w 28 2) (bits w 26 2) (bits w 20 6) (bits w 14 6) (bits w 8 6) (bits w 1 1))]

/-- Rows of major 0x36. -/
def rowMaj36 (w : Nat) : Option Instr :=
  pickRow w [
    ([(8, 6, 0), (28, 4, 0)], .sbeg (bits w 26 2) (bits w 20 6) (bits w 14 6) (bits w 1 1)),
    ([(8, 24, 4194304)], .scmt (bits w 1 1)),
    ([(8, 24, 8388608)], .sdis (bits w 1 1))]

/-- Rows of major 0x37. -/
def rowMaj37 (w : Nat) : Option Instr :=
  pickRow w [
    ([(15, 3, 0), (29, 3, 0)], .rmax (bits w 27 2) (bits w 19 8) (bits w 18 1) (bits w 8 7) (bits w 1 1)),
    ([(15, 3, 1), (29, 3, 0)], .rsum (bits w 27 2) (bits w 19 8) (bits w 18 1) (bits w 8 7) (bits w 1 1)),
    ([(15, 3, 2), (29, 3, 0)], .rvar (bits w 27 2) (bits w 19 8) (bits w 18 1) (bits w 8 7) (bits w 1 1)),
    ([(15, 3, 3), (29, 3, 0)], .rsmx (bits w 27 2) (bits w 19 8) (bits w 18 1) (bits w 8 7) (bits w 1 1)),
    ([(15, 3, 4), (29, 3, 0)], .rnorm (bits w 27 2) (bits w 19 8) (bits w 18 1) (bits w 8 7) (bits w 1 1))]

/-- The row of a 32-bit word, or the reason there is none (Table 7.4). -/
def row32 (w : Nat) : Except DecodeErr Instr :=
  let some? (o : Option Instr) : Except DecodeErr Instr :=
    match o with
    | some i => .ok i
    | none => .error .reserved
  match field w 2 6 with
  | 0 => some? (rowMaj00 w)
  | 1 => some? (rowMaj01 w)
  | 2 => some? (rowMaj02 w)
  | 3 => some? (rowMaj03 w)
  | 4 => some? (rowMaj04 w)
  | 5 => some? (rowMaj05 w)
  | 6 => some? (rowMaj06 w)
  | 7 => some? (rowMaj07 w)
  | 8 => some? (rowMaj08 w)
  | 9 => some? (rowMaj09 w)
  | 10 => some? (rowMaj0A w)
  | 11 => some? (rowMaj0B w)
  | 12 => some? (rowMaj0C w)
  | 16 => some? (rowMaj10 w)
  | 17 => some? (rowMaj11 w)
  | 18 => some? (rowMaj12 w)
  | 19 => some? (rowMaj13 w)
  | 20 => some? (rowMaj14 w)
  | 21 => some? (rowMaj15 w)
  | 22 => some? (rowMaj16 w)
  | 23 => some? (rowMaj17 w)
  | 24 => some? (rowMaj18 w)
  | 25 => some? (rowMaj19 w)
  | 26 => some? (rowMaj1A w)
  | 27 => some? (rowMaj1B w)
  | 28 => some? (rowMaj1C w)
  | 29 => some? (rowMaj1D w)
  | 30 => some? (rowMaj1E w)
  | 32 => some? (rowMaj20 w)
  | 33 => some? (rowMaj21 w)
  | 34 => some? (rowMaj22 w)
  | 35 => some? (rowMaj23 w)
  | 36 => some? (rowMaj24 w)
  | 37 => some? (rowMaj25 w)
  | 38 => some? (rowMaj26 w)
  | 39 => some? (rowMaj27 w)
  | 40 => some? (rowMaj28 w)
  | 41 => some? (rowMaj29 w)
  | 42 => some? (rowMaj2A w)
  | 43 => some? (rowMaj2B w)
  | 44 => some? (rowMaj2C w)
  | 45 => some? (rowMaj2D w)
  | 46 => some? (rowMaj2E w)
  | 47 => some? (rowMaj2F w)
  | 48 => some? (rowMaj30 w)
  | 49 => some? (rowMaj31 w)
  | 50 => some? (rowMaj32 w)
  | 51 => some? (rowMaj33 w)
  | 52 => some? (rowMaj34 w)
  | 53 => some? (rowMaj35 w)
  | 54 => some? (rowMaj36 w)
  | 55 => some? (rowMaj37 w)
  | _ => .error .major

/-- A row that `wfErr` accepts (R187). -/
def accept (i : Instr) : Except DecodeErr Instr :=
  match wfErr i with
  | none => .ok i
  | some e => .error (.illFormed e)

/-- A halfword with bit 0 clear (R171, R183). -/
def decode16 (h : Nat) : Except DecodeErr Instr :=
  if field h 15 1 = 1 then .error .halfword
  else
    match row16 h with
    | some i => accept i
    | none => .error .reserved

/-- A word with bit 0 set (R171, R184). -/
def decode32 (w : Nat) : Except DecodeErr Instr :=
  match row32 w with
  | .ok i => accept i
  | .error e => .error e

/-- The number of `n` bytes, the first the least significant. -/
def leNat : List Byte → Nat
  | [] => 0
  | b :: r => b.toNat + 256 * leNat r

/-- The `n` low bytes of a number, the least significant first. -/
def leBytes : Nat → Nat → List Byte
  | 0, _ => []
  | n + 1, w => BitVec.ofNat 8 (w % 256) :: leBytes n (w / 256)

/-- The instruction at the start of a list of bytes, with the bytes after it (R170). -/
def decode : List Byte → Except DecodeErr (Instr × List Byte)
  | b0 :: b1 :: r =>
    if b0.toNat % 2 = 0 then
      match decode16 (leNat [b0, b1]) with
      | .ok i => .ok (i, r)
      | .error e => .error e
    else
      match r with
      | b2 :: b3 :: r' =>
        match decode32 (leNat [b0, b1, b2, b3]) with
        | .ok i => .ok (i, r')
        | .error e => .error e
      | _ => .error .short
  | _ => .error .short

/-- Bytes of an instruction (R170): 2 for the 16-bit forms, 4 for every other encoding, 0 for an event. -/
def instrLength : Instr → Nat
  | .mov .. => 2
  | .li5 .. => 2
  | .add16 .. => 2
  | .sub16 .. => 2
  | .mul16 .. => 2
  | .and16 .. => 2
  | .or16 .. => 2
  | .xor16 .. => 2
  | .shl16 .. => 2
  | .srl16 .. => 2
  | .sra16 .. => 2
  | .fadd16 .. => 2
  | .fsub16 .. => 2
  | .fmul16 .. => 2
  | .fmax16 .. => 2
  | .fmin16 .. => 2
  | .nop .. => 4
  | .exit => 4
  | .yield => 4
  | .ret => 4
  | .trl .. => 4
  | .rjn .. => 4
  | .brk .. => 4
  | .halt => 4
  | .br .. => 4
  | .brp .. => 4
  | .brpF .. => 4
  | .call .. => 4
  | .brx .. => 4
  | .callx .. => 4
  | .rfm .. => 4
  | .waitAny .. => 4
  | .waitAll .. => 4
  | .barArv .. => 4
  | .barWt .. => 4
  | .barSyn .. => 4
  | .gbar => 4
  | .spawn .. => 4
  | .jdec .. => 4
  | .cancel .. => 4
  | .rdsr .. => 4
  | .wrsr .. => 4
  | .mode .. => 4
  | .trap .. => 4
  | .tret => 4
  | .kadd .. => 4
  | .ksub .. => 4
  | .kmov .. => 4
  | .kmovImm .. => 4
  | .kshl .. => 4
  | .kand .. => 4
  | .kor .. => 4
  | .kcmp .. => 4
  | .kld .. => 4
  | .kldLane .. => 4
  | .movk .. => 4
  | .movkH .. => 4
  | .kli .. => 4
  | .add .. => 4
  | .sub .. => 4
  | .and .. => 4
  | .or .. => 4
  | .xor .. => 4
  | .andn .. => 4
  | .min .. => 4
  | .max .. => 4
  | .shl .. => 4
  | .srl .. => 4
  | .sra .. => 4
  | .rol .. => 4
  | .mul .. => 4
  | .mulh .. => 4
  | .mulhn .. => 4
  | .abs .. => 4
  | .addi .. => 4
  | .andi .. => 4
  | .ori .. => 4
  | .xori .. => 4
  | .shli .. => 4
  | .srli .. => 4
  | .srai .. => 4
  | .li .. => 4
  | .lih .. => 4
  | .icmpEq .. => 4
  | .icmpNe .. => 4
  | .icmpLt .. => 4
  | .icmpLe .. => 4
  | .icmpLtn .. => 4
  | .icmpLen .. => 4
  | .sel .. => 4
  | .pand .. => 4
  | .por .. => 4
  | .pxor .. => 4
  | .pnot .. => 4
  | .pmov .. => 4
  | .clz .. => 4
  | .popc .. => 4
  | .brev .. => 4
  | .bfe .. => 4
  | .bfi .. => 4
  | .lea .. => 4
  | .fadd .. => 4
  | .fsub .. => 4
  | .fmul .. => 4
  | .fmin .. => 4
  | .fmax .. => 4
  | .fabs .. => 4
  | .fneg .. => 4
  | .fcmp .. => 4
  | .ffma .. => 4
  | .ffms .. => 4
  | .fnma .. => 4
  | .hadd2 .. => 4
  | .hmul2 .. => 4
  | .hfma2 .. => 4
  | .badd2 .. => 4
  | .bmul2 .. => 4
  | .bfma2 .. => 4
  | .cvt .. => 4
  | .exp2 .. => 4
  | .log2 .. => 4
  | .rcp .. => 4
  | .rsqrt .. => 4
  | .sqrt .. => 4
  | .tanh .. => 4
  | .lgs .. => 4
  | .gactLgs .. => 4
  | .gactTanh .. => 4
  | .gactAlgs .. => 4
  | .frnd .. => 4
  | .fcls .. => 4
  | .fexp .. => 4
  | .fscl .. => 4
  | .shflIdx .. => 4
  | .shflUp .. => 4
  | .shflDown .. => 4
  | .shflXor .. => 4
  | .voteAny .. => 4
  | .voteAll .. => 4
  | .voteBal .. => 4
  | .voteCnt .. => 4
  | .voteMatch .. => 4
  | .lredAdd .. => 4
  | .lredMax .. => 4
  | .lredMin .. => 4
  | .lscanAddInc .. => 4
  | .lscanAddExc .. => 4
  | .lbc .. => 4
  | .ld .. => 4
  | .st .. => 4
  | .ldk .. => 4
  | .stk .. => 4
  | .atomAdd .. => 4
  | .atomMin .. => 4
  | .atomMax .. => 4
  | .atomAnd .. => 4
  | .atomOr .. => 4
  | .atomXor .. => 4
  | .atomXchg .. => 4
  | .atomCas .. => 4
  | .fenceAcq .. => 4
  | .fenceRel .. => 4
  | .fenceAr .. => 4
  | .fenceSc .. => 4
  | .tget .. => 4
  | .tset .. => 4
  | .tdrn .. => 4
  | .tstat .. => 4
  | .cpy .. => 4
  | .gth .. => 4
  | .sct .. => 4
  | .collSet .. => 4
  | .collRun .. => 4
  | .collStat .. => 4
  | .pfi .. => 4
  | .pfd .. => 4
  | .dsc .. => 4
  | .lstu .. => 4
  | .wbk .. => 4
  | .ownreg .. => 4
  | .ownclr .. => 4
  | .rga .. => 4
  | .omld .. => 4
  | .mld .. => 4
  | .mswp .. => 4
  | .mswpRel .. => 4
  | .mst .. => 4
  | .mdr .. => 4
  | .mdrRed .. => 4
  | .accget .. => 4
  | .accgetW .. => 4
  | .accput .. => 4
  | .accz .. => 4
  | .accld .. => 4
  | .accst .. => 4
  | .tmm .. => 4
  | .tmmRed .. => 4
  | .sbeg .. => 4
  | .scmt .. => 4
  | .sdis .. => 4
  | .rmax .. => 4
  | .rsum .. => 4
  | .rvar .. => 4
  | .rsmx .. => 4
  | .rnorm .. => 4
  | .illegalEncoding => 0
  | .ejectionHandoverEnd => 0
  | .rejoinWritebackEnd => 0
  | .rejoinWindowClose => 0
  | .ejlim => 0
  | .binAged => 0
  | .binDraw => 0
  | .waitConditionMet => 0
  | .waitTimeout => 0
  | .runParkEnd => 0
  | .fatalStop => 0
  | .dumpWrite => 0
  | .joinDecrement => 0
  | .unitPlace => 0
  | .compactionMove => 0
  | .compactionMoveEnd => 0
  | .demandFetch => 0
  | .icacheFillLand => 0
  | .translationWalkEnd => 0
  | .pageRequestResponse => 0
  | .loadReturn => 0
  | .storeAck => 0
  | .atomicComplete => 0
  | .requestLost => 0
  | .engineReadsBegin => 0
  | .engineTransferEnd => 0
  | .completionWriteAck => 0
  | .tileFillEnd => 0
  | .tileDrainEnd => 0
  | .collSetResult => 0
  | .collSetMemberTimeout => 0
  | .fabricReduce => 0
  | .collRunComplete => 0
  | .fabricMessageReceive => 0
  | .stationaryLoadComplete => 0
  | .planeSwap => 0
  | .streamComplete => 0
  | .drainComplete => 0
  | .rowStatComplete => 0
  | .lehrStep => 0
  | .budgetRetry => 0
  | .firstUseTrapReturn => 0
  | .elasticGrant => 0
  | .elasticRefuse => 0
  | .tailWrite => 0
  | .packetTake => 0
  | .pktLaunch => 0
  | .pktGraphSubmit => 0
  | .pktSignalSet => 0
  | .pktSignalClear => 0
  | .pktSignalPhase => 0
  | .pktSignalNothing => 0
  | .pktCopy => 0
  | .pktCodeMove => 0
  | .pktCancel => 0
  | .pktQuery => 0
  | .packetComplete => 0
  | .evrbWrite => 0
  | .invPage => 0
  | .invPasid => 0
  | .invFunction => 0
  | .invalidationDone => 0
  | .atsInvalidationRequest => 0
  | .cqdEnable => 0
  | .cqdDisable => 0
  | .ctxCreate => 0
  | .ctxDestroy => 0
  | .contextDestroyDone => 0
  | .fwdRemove => 0
  | .routeWrite => 0
  | .routeTakeEffect => 0
  | .registerWrite => 0
  | .policy => 0
  | .attest => 0
  | .keys => 0
  | .openCmd => 0
  | .sched => 0
  | .pause => 0
  | .evict => 0
  | .resume => 0
  | .contextResume => 0
  | .kill => 0
  | .move => 0
  | .sliceMoveComplete => 0
  | .retireCluster => 0
  | .retireChannelPair => 0
  | .counts => 0
  | .countsClear => 0
  | .unknownCommand => 0
  | .crucibleCommandDone => 0
  | .moduleReset => 0
  | .functionReady => 0
  | .storeUncorrectable => 0
  | .cacheHbmError => 0
  | .correctedError => 0
  | .clusterControlError => 0
  | .hostReadFailure => 0
  | .hostCompletionTimeout => 0
  | .linkDown => 0
  | .linkReturn => 0
  | .failedPostedWrite => 0
  | .atsTranslationCompletion => 0
  | .movePageNew => 0

/-- The word of an instruction, from the encoding tables (Tables 7.2, 8.1, 9.1, 10.1, 11.1); 0 for an event. -/
def encodeWord : Instr → Nat
  | .mov s d => 0 + s.toNat * 0x400 + d.toNat * 0x20
  | .li5 i d => 2 + i.toNat * 0x400 + d.toNat * 0x20
  | .add16 s d => 4 + s.toNat * 0x400 + d.toNat * 0x20
  | .sub16 s d => 6 + s.toNat * 0x400 + d.toNat * 0x20
  | .mul16 s d => 8 + s.toNat * 0x400 + d.toNat * 0x20
  | .and16 s d => 10 + s.toNat * 0x400 + d.toNat * 0x20
  | .or16 s d => 12 + s.toNat * 0x400 + d.toNat * 0x20
  | .xor16 s d => 14 + s.toNat * 0x400 + d.toNat * 0x20
  | .shl16 n d => 16 + n.toNat * 0x400 + d.toNat * 0x20
  | .srl16 n d => 18 + n.toNat * 0x400 + d.toNat * 0x20
  | .sra16 n d => 20 + n.toNat * 0x400 + d.toNat * 0x20
  | .fadd16 s d => 22 + s.toNat * 0x400 + d.toNat * 0x20
  | .fsub16 s d => 24 + s.toNat * 0x400 + d.toNat * 0x20
  | .fmul16 s d => 26 + s.toNat * 0x400 + d.toNat * 0x20
  | .fmax16 s d => 28 + s.toNat * 0x400 + d.toNat * 0x20
  | .fmin16 s d => 30 + s.toNat * 0x400 + d.toNat * 0x20
  | .nop n s => 1 + n.toNat * 0x10000 + s.toNat * 2
  | .exit => 0x103
  | .yield => 0x203
  | .ret => 0x303
  | .trl m s => 0x401 + m.toNat * 0x10000 + s.toNat * 2
  | .rjn t => 0x503 + t.toNat * 0x10000
  | .brk c => 0x603 + c.toNat * 0x10000
  | .halt => 0x703
  | .br o => 7 + o.toNat * 0x100
  | .brp o t p => 0x80b + o.toNat * 0x10000 + t.toNat * 0x1000 + p.toNat * 0x100
  | .brpF o t p => 11 + o.toNat * 0x10000 + t.toNat * 0x1000 + p.toNat * 0x100
  | .call o => 15 + o.toNat * 0x100
  | .brx a => 19 + a.toNat * 0x8000
  | .callx a => 0x20000013 + a.toNat * 0x8000
  | .rfm o l => 23 + o.toNat * 0x10000 + l.toNat * 0x100
  | .waitAny b a d => 27 + b.toNat * 0x100000 + a.toNat * 0x4000 + d.toNat * 0x100
  | .waitAll b a d => 0x400001b + b.toNat * 0x100000 + a.toNat * 0x4000 + d.toNat * 0x100
  | .barArv c b s => 29 + c.toNat * 0x100000 + b.toNat * 0x800 + s.toNat * 2
  | .barWt c b => 0x11f + c.toNat * 0x100000 + b.toNat * 0x800
  | .barSyn c b => 0x21f + c.toNat * 0x100000 + b.toNat * 0x800
  | .gbar => 35
  | .spawn a s => 0x4000021 + a.toNat * 0x4000 + s.toNat * 2
  | .jdec a s => 0x8000021 + a.toNat * 0x4000 + s.toNat * 2
  | .cancel a s => 0xc000021 + a.toNat * 0x4000 + s.toNat * 2
  | .rdsr r d s => 37 + r.toNat * 0x400000 + d.toNat * 0x100 + s.toNat * 2
  | .wrsr r a s => 0x40000025 + r.toNat * 0x400000 + a.toNat * 0x8000 + s.toNat * 2
  | .mode m s => 0x80000025 + m.toNat * 0x10000000 + s.toNat * 2
  | .trap c => 43 + c.toNat * 0x10000
  | .tret => 0x12b
  | .kadd i b a d s => 45 + i.toNat * 0x20000000 + b.toNat * 0x100000 + a.toNat * 0x4000 + d.toNat * 0x100 + s.toNat * 2
  | .ksub i b a d s => 0x400002d + i.toNat * 0x20000000 + b.toNat * 0x100000 + a.toNat * 0x4000 + d.toNat * 0x100 + s.toNat * 2
  | .kmov a d s => 0x800002d + a.toNat * 0x4000 + d.toNat * 0x100 + s.toNat * 2
  | .kmovImm i d s => 0x2800002d + i.toNat * 0x100000 + d.toNat * 0x100 + s.toNat * 2
  | .kshl i b a d s => 0xc00002d + i.toNat * 0x20000000 + b.toNat * 0x100000 + a.toNat * 0x4000 + d.toNat * 0x100 + s.toNat * 2
  | .kand i b a d s => 0x1000002d + i.toNat * 0x20000000 + b.toNat * 0x100000 + a.toNat * 0x4000 + d.toNat * 0x100 + s.toNat * 2
  | .kor i b a d s => 0x1400002d + i.toNat * 0x20000000 + b.toNat * 0x100000 + a.toNat * 0x4000 + d.toNat * 0x100 + s.toNat * 2
  | .kcmp c b a d s => 0x1800002d + c.toNat * 0x20000000 + b.toNat * 0x100000 + a.toNat * 0x4000 + d.toNat * 0x100 + s.toNat * 2
  | .kld k x s => 0x1c00002d + k.toNat * 0x8000 + x.toNat * 0x100 + s.toNat * 2
  | .kldLane n k x s => 0x3c00002d + n.toNat * 0x200000 + k.toNat * 0x8000 + x.toNat * 0x100 + s.toNat * 2
  | .movk k x s => 0x5c00002d + k.toNat * 0x8000 + x.toNat * 0x100 + s.toNat * 2
  | .movkH k x s => 0x7c00002d + k.toNat * 0x8000 + x.toNat * 0x100 + s.toNat * 2
  | .kli i h d s => 49 + i.toNat * 0x10000 + h.toNat * 0x4000 + d.toNat * 0x100 + s.toNat * 2
  | .add b a d s => 65 + b.toNat * 0x400000 + a.toNat * 0x8000 + d.toNat * 0x100 + s.toNat * 2
  | .sub b a d s => 0x20000041 + b.toNat * 0x400000 + a.toNat * 0x8000 + d.toNat * 0x100 + s.toNat * 2
  | .and b a d s => 0x40000041 + b.toNat * 0x400000 + a.toNat * 0x8000 + d.toNat * 0x100 + s.toNat * 2
  | .or b a d s => 0x60000041 + b.toNat * 0x400000 + a.toNat * 0x8000 + d.toNat * 0x100 + s.toNat * 2
  | .xor b a d s => 0x80000041 + b.toNat * 0x400000 + a.toNat * 0x8000 + d.toNat * 0x100 + s.toNat * 2
  | .andn b a d s => 0xa0000041 + b.toNat * 0x400000 + a.toNat * 0x8000 + d.toNat * 0x100 + s.toNat * 2
  | .min b a d s => 0xc0000041 + b.toNat * 0x400000 + a.toNat * 0x8000 + d.toNat * 0x100 + s.toNat * 2
  | .max b a d s => 0xe0000041 + b.toNat * 0x400000 + a.toNat * 0x8000 + d.toNat * 0x100 + s.toNat * 2
  | .shl b a d s => 69 + b.toNat * 0x400000 + a.toNat * 0x8000 + d.toNat * 0x100 + s.toNat * 2
  | .srl b a d s => 0x20000045 + b.toNat * 0x400000 + a.toNat * 0x8000 + d.toNat * 0x100 + s.toNat * 2
  | .sra b a d s => 0x40000045 + b.toNat * 0x400000 + a.toNat * 0x8000 + d.toNat * 0x100 + s.toNat * 2
  | .rol b a d s => 0x60000045 + b.toNat * 0x400000 + a.toNat * 0x8000 + d.toNat * 0x100 + s.toNat * 2
  | .mul b a d s => 0x80000045 + b.toNat * 0x400000 + a.toNat * 0x8000 + d.toNat * 0x100 + s.toNat * 2
  | .mulh b a d s => 0xa0000045 + b.toNat * 0x400000 + a.toNat * 0x8000 + d.toNat * 0x100 + s.toNat * 2
  | .mulhn b a d s => 0xc0000045 + b.toNat * 0x400000 + a.toNat * 0x8000 + d.toNat * 0x100 + s.toNat * 2
  | .abs a d s => 0xe0000045 + a.toNat * 0x8000 + d.toNat * 0x100 + s.toNat * 2
  | .addi i a d s => 73 + i.toNat * 0x400000 + a.toNat * 0x8000 + d.toNat * 0x100 + s.toNat * 2
  | .andi i a d s => 77 + i.toNat * 0x400000 + a.toNat * 0x8000 + d.toNat * 0x100 + s.toNat * 2
  | .ori i a d s => 0x2000004d + i.toNat * 0x400000 + a.toNat * 0x8000 + d.toNat * 0x100 + s.toNat * 2
  | .xori i a d s => 0x4000004d + i.toNat * 0x400000 + a.toNat * 0x8000 + d.toNat * 0x100 + s.toNat * 2
  | .shli n a d s => 0x6000004d + n.toNat * 0x400000 + a.toNat * 0x8000 + d.toNat * 0x100 + s.toNat * 2
  | .srli n a d s => 0x8000004d + n.toNat * 0x400000 + a.toNat * 0x8000 + d.toNat * 0x100 + s.toNat * 2
  | .srai n a d s => 0xa000004d + n.toNat * 0x400000 + a.toNat * 0x8000 + d.toNat * 0x100 + s.toNat * 2
  | .li i d s => 81 + i.toNat * 0x10000 + d.toNat * 0x100 + s.toNat * 2
  | .lih i d s => 0x8051 + i.toNat * 0x10000 + d.toNat * 0x100 + s.toNat * 2
  | .icmpEq b a p s => 85 + b.toNat * 0x400000 + a.toNat * 0x8000 + p.toNat * 0x100 + s.toNat * 2
  | .icmpNe b a p s => 0x20000055 + b.toNat * 0x400000 + a.toNat * 0x8000 + p.toNat * 0x100 + s.toNat * 2
  | .icmpLt b a p s => 0x40000055 + b.toNat * 0x400000 + a.toNat * 0x8000 + p.toNat * 0x100 + s.toNat * 2
  | .icmpLe b a p s => 0x60000055 + b.toNat * 0x400000 + a.toNat * 0x8000 + p.toNat * 0x100 + s.toNat * 2
  | .icmpLtn b a p s => 0x80000055 + b.toNat * 0x400000 + a.toNat * 0x8000 + p.toNat * 0x100 + s.toNat * 2
  | .icmpLen b a p s => 0xa0000055 + b.toNat * 0x400000 + a.toNat * 0x8000 + p.toNat * 0x100 + s.toNat * 2
  | .sel q a d s => 89 + q.toNat * 0x400000 + a.toNat * 0x8000 + d.toNat * 0x100 + s.toNat * 2
  | .pand b a d s => 0x20000059 + b.toNat * 0x400000 + a.toNat * 0x8000 + d.toNat * 0x100 + s.toNat * 2
  | .por b a d s => 0x40000059 + b.toNat * 0x400000 + a.toNat * 0x8000 + d.toNat * 0x100 + s.toNat * 2
  | .pxor b a d s => 0x60000059 + b.toNat * 0x400000 + a.toNat * 0x8000 + d.toNat * 0x100 + s.toNat * 2
  | .pnot a d s => 0x80000059 + a.toNat * 0x8000 + d.toNat * 0x100 + s.toNat * 2
  | .pmov a d s => 0xa0000059 + a.toNat * 0x8000 + d.toNat * 0x100 + s.toNat * 2
  | .clz a d s => 93 + a.toNat * 0x8000 + d.toNat * 0x100 + s.toNat * 2
  | .popc a d s => 0x2000005d + a.toNat * 0x8000 + d.toNat * 0x100 + s.toNat * 2
  | .brev a d s => 0x4000005d + a.toNat * 0x8000 + d.toNat * 0x100 + s.toNat * 2
  | .bfe b a d s => 0x6000005d + b.toNat * 0x400000 + a.toNat * 0x8000 + d.toNat * 0x100 + s.toNat * 2
  | .bfi b a d s => 0x8000005d + b.toNat * 0x400000 + a.toNat * 0x8000 + d.toNat * 0x100 + s.toNat * 2
  | .lea b a d s => 0xa000005d + b.toNat * 0x400000 + a.toNat * 0x8000 + d.toNat * 0x100 + s.toNat * 2
  | .fadd b a d s => 97 + b.toNat * 0x400000 + a.toNat * 0x8000 + d.toNat * 0x100 + s.toNat * 2
  | .fsub b a d s => 0x20000061 + b.toNat * 0x400000 + a.toNat * 0x8000 + d.toNat * 0x100 + s.toNat * 2
  | .fmul b a d s => 0x40000061 + b.toNat * 0x400000 + a.toNat * 0x8000 + d.toNat * 0x100 + s.toNat * 2
  | .fmin b a d s => 0x60000061 + b.toNat * 0x400000 + a.toNat * 0x8000 + d.toNat * 0x100 + s.toNat * 2
  | .fmax b a d s => 0x80000061 + b.toNat * 0x400000 + a.toNat * 0x8000 + d.toNat * 0x100 + s.toNat * 2
  | .fabs a d s => 0xa0000061 + a.toNat * 0x8000 + d.toNat * 0x100 + s.toNat * 2
  | .fneg a d s => 0xc0000061 + a.toNat * 0x8000 + d.toNat * 0x100 + s.toNat * 2
  | .fcmp b a c p s => 0xe0000061 + b.toNat * 0x400000 + a.toNat * 0x8000 + c.toNat * 0x800 + p.toNat * 0x100 + s.toNat * 2
  | .ffma b a d s => 101 + b.toNat * 0x400000 + a.toNat * 0x8000 + d.toNat * 0x100 + s.toNat * 2
  | .ffms b a d s => 0x20000065 + b.toNat * 0x400000 + a.toNat * 0x8000 + d.toNat * 0x100 + s.toNat * 2
  | .fnma b a d s => 0x40000065 + b.toNat * 0x400000 + a.toNat * 0x8000 + d.toNat * 0x100 + s.toNat * 2
  | .hadd2 b a d s => 105 + b.toNat * 0x400000 + a.toNat * 0x8000 + d.toNat * 0x100 + s.toNat * 2
  | .hmul2 b a d s => 0x20000069 + b.toNat * 0x400000 + a.toNat * 0x8000 + d.toNat * 0x100 + s.toNat * 2
  | .hfma2 b a d s => 0x40000069 + b.toNat * 0x400000 + a.toNat * 0x8000 + d.toNat * 0x100 + s.toNat * 2
  | .badd2 b a d s => 0x60000069 + b.toNat * 0x400000 + a.toNat * 0x8000 + d.toNat * 0x100 + s.toNat * 2
  | .bmul2 b a d s => 0x80000069 + b.toNat * 0x400000 + a.toNat * 0x8000 + d.toNat * 0x100 + s.toNat * 2
  | .bfma2 b a d s => 0xa0000069 + b.toNat * 0x400000 + a.toNat * 0x8000 + d.toNat * 0x100 + s.toNat * 2
  | .cvt t u o a d s => 109 + t.toNat * 0x10000000 + u.toNat * 0x1000000 + o.toNat * 0x400000 + a.toNat * 0x8000 + d.toNat * 0x100 + s.toNat * 2
  | .exp2 a d s => 113 + a.toNat * 0x8000 + d.toNat * 0x100 + s.toNat * 2
  | .log2 a d s => 0x20000071 + a.toNat * 0x8000 + d.toNat * 0x100 + s.toNat * 2
  | .rcp a d s => 0x40000071 + a.toNat * 0x8000 + d.toNat * 0x100 + s.toNat * 2
  | .rsqrt a d s => 0x60000071 + a.toNat * 0x8000 + d.toNat * 0x100 + s.toNat * 2
  | .sqrt a d s => 0x80000071 + a.toNat * 0x8000 + d.toNat * 0x100 + s.toNat * 2
  | .tanh a d s => 0xa0000071 + a.toNat * 0x8000 + d.toNat * 0x100 + s.toNat * 2
  | .lgs a d s => 0xc0000071 + a.toNat * 0x8000 + d.toNat * 0x100 + s.toNat * 2
  | .gactLgs b a d s => 117 + b.toNat * 0x400000 + a.toNat * 0x8000 + d.toNat * 0x100 + s.toNat * 2
  | .gactTanh b a d s => 0x20000075 + b.toNat * 0x400000 + a.toNat * 0x8000 + d.toNat * 0x100 + s.toNat * 2
  | .gactAlgs b a d s => 0x40000075 + b.toNat * 0x400000 + a.toNat * 0x8000 + d.toNat * 0x100 + s.toNat * 2
  | .frnd r a d s => 121 + r.toNat * 0x400000 + a.toNat * 0x8000 + d.toNat * 0x100 + s.toNat * 2
  | .fcls a d s => 0x20000079 + a.toNat * 0x8000 + d.toNat * 0x100 + s.toNat * 2
  | .fexp a d s => 0x40000079 + a.toNat * 0x8000 + d.toNat * 0x100 + s.toNat * 2
  | .fscl b a d s => 0x60000079 + b.toNat * 0x400000 + a.toNat * 0x8000 + d.toNat * 0x100 + s.toNat * 2
  | .shflIdx b a d s => 129 + b.toNat * 0x400000 + a.toNat * 0x8000 + d.toNat * 0x100 + s.toNat * 2
  | .shflUp b a d s => 0x20000081 + b.toNat * 0x400000 + a.toNat * 0x8000 + d.toNat * 0x100 + s.toNat * 2
  | .shflDown b a d s => 0x40000081 + b.toNat * 0x400000 + a.toNat * 0x8000 + d.toNat * 0x100 + s.toNat * 2
  | .shflXor b a d s => 0x60000081 + b.toNat * 0x400000 + a.toNat * 0x8000 + d.toNat * 0x100 + s.toNat * 2
  | .voteAny p d s => 133 + p.toNat * 0x8000 + d.toNat * 0x100 + s.toNat * 2
  | .voteAll p d s => 0x20000085 + p.toNat * 0x8000 + d.toNat * 0x100 + s.toNat * 2
  | .voteBal p d s => 0x40000085 + p.toNat * 0x8000 + d.toNat * 0x100 + s.toNat * 2
  | .voteCnt p d s => 0x60000085 + p.toNat * 0x8000 + d.toNat * 0x100 + s.toNat * 2
  | .voteMatch a d s => 0x80000085 + a.toNat * 0x8000 + d.toNat * 0x100 + s.toNat * 2
  | .lredAdd t a d s => 137 + t.toNat * 0x400000 + a.toNat * 0x8000 + d.toNat * 0x100 + s.toNat * 2
  | .lredMax t a d s => 0x20000089 + t.toNat * 0x400000 + a.toNat * 0x8000 + d.toNat * 0x100 + s.toNat * 2
  | .lredMin t a d s => 0x40000089 + t.toNat * 0x400000 + a.toNat * 0x8000 + d.toNat * 0x100 + s.toNat * 2
  | .lscanAddInc t a d s => 0x60000089 + t.toNat * 0x400000 + a.toNat * 0x8000 + d.toNat * 0x100 + s.toNat * 2
  | .lscanAddExc t a d s => 0x80000089 + t.toNat * 0x400000 + a.toNat * 0x8000 + d.toNat * 0x100 + s.toNat * 2
  | .lbc n a d s => 141 + n.toNat * 0x400000 + a.toNat * 0x8000 + d.toNat * 0x100 + s.toNat * 2
  | .ld l z b a d s => 145 + l.toNat * 0x40000000 + z.toNat * 0x8000000 + b.toNat * 0x400000 + a.toNat * 0x8000 + d.toNat * 0x100 + s.toNat * 2
  | .st l z b a d s => 149 + l.toNat * 0x40000000 + z.toNat * 0x8000000 + b.toNat * 0x400000 + a.toNat * 0x8000 + d.toNat * 0x100 + s.toNat * 2
  | .ldk l z b a k s => 153 + l.toNat * 0x40000000 + z.toNat * 0x8000000 + b.toNat * 0x400000 + a.toNat * 0x8000 + k.toNat * 0x100 + s.toNat * 2
  | .stk l z b a k s => 0x4099 + l.toNat * 0x40000000 + z.toNat * 0x8000000 + b.toNat * 0x400000 + a.toNat * 0x8000 + k.toNat * 0x100 + s.toNat * 2
  | .atomAdd f w c o a d s => 157 + f.toNat * 0x80000000 + w.toNat * 0x40000000 + c.toNat * 0x8000000 + o.toNat * 0x2000000 + a.toNat * 0x8000 + d.toNat * 0x100 + s.toNat * 2
  | .atomMin f w c o a d s => 0x40009d + f.toNat * 0x80000000 + w.toNat * 0x40000000 + c.toNat * 0x8000000 + o.toNat * 0x2000000 + a.toNat * 0x8000 + d.toNat * 0x100 + s.toNat * 2
  | .atomMax f w c o a d s => 0x80009d + f.toNat * 0x80000000 + w.toNat * 0x40000000 + c.toNat * 0x8000000 + o.toNat * 0x2000000 + a.toNat * 0x8000 + d.toNat * 0x100 + s.toNat * 2
  | .atomAnd w c o a d s => 0xc0009d + w.toNat * 0x40000000 + c.toNat * 0x8000000 + o.toNat * 0x2000000 + a.toNat * 0x8000 + d.toNat * 0x100 + s.toNat * 2
  | .atomOr w c o a d s => 0x100009d + w.toNat * 0x40000000 + c.toNat * 0x8000000 + o.toNat * 0x2000000 + a.toNat * 0x8000 + d.toNat * 0x100 + s.toNat * 2
  | .atomXor w c o a d s => 0x140009d + w.toNat * 0x40000000 + c.toNat * 0x8000000 + o.toNat * 0x2000000 + a.toNat * 0x8000 + d.toNat * 0x100 + s.toNat * 2
  | .atomXchg w c o a d s => 0x180009d + w.toNat * 0x40000000 + c.toNat * 0x8000000 + o.toNat * 0x2000000 + a.toNat * 0x8000 + d.toNat * 0x100 + s.toNat * 2
  | .atomCas w c o a d s => 0x1c0009d + w.toNat * 0x40000000 + c.toNat * 0x8000000 + o.toNat * 0x2000000 + a.toNat * 0x8000 + d.toNat * 0x100 + s.toNat * 2
  | .fenceAcq c s => 161 + c.toNat * 0x400 + s.toNat * 2
  | .fenceRel c s => 0x1a1 + c.toNat * 0x400 + s.toNat * 2
  | .fenceAr c s => 0x2a1 + c.toNat * 0x400 + s.toNat * 2
  | .fenceSc c s => 0x3a1 + c.toNat * 0x400 + s.toNat * 2
  | .tget l a t s => 165 + l.toNat * 0x10000000 + a.toNat * 0x10000 + t.toNat * 0x100 + s.toNat * 2
  | .tset a t s => 0x400000a5 + a.toNat * 0x10000 + t.toNat * 0x100 + s.toNat * 2
  | .tdrn l a t s => 0x800000a5 + l.toNat * 0x10000000 + a.toNat * 0x10000 + t.toNat * 0x100 + s.toNat * 2
  | .tstat d t s => 0xc00000a5 + d.toNat * 0x400000 + t.toNat * 0x100 + s.toNat * 2
  | .cpy l c b a s => 169 + l.toNat * 0x20000000 + c.toNat * 0x100000 + b.toNat * 0x4000 + a.toNat * 0x100 + s.toNat * 2
  | .gth l c b a s => 173 + l.toNat * 0x20000000 + c.toNat * 0x100000 + b.toNat * 0x4000 + a.toNat * 0x100 + s.toNat * 2
  | .sct l c b a s => 0x40000ad + l.toNat * 0x20000000 + c.toNat * 0x100000 + b.toNat * 0x4000 + a.toNat * 0x100 + s.toNat * 2
  | .collSet l c b a s => 177 + l.toNat * 0x20000000 + c.toNat * 0x100000 + b.toNat * 0x4000 + a.toNat * 0x100 + s.toNat * 2
  | .collRun l c b a s => 0x40000b1 + l.toNat * 0x20000000 + c.toNat * 0x100000 + b.toNat * 0x4000 + a.toNat * 0x100 + s.toNat * 2
  | .collStat l c a s => 0x80000b1 + l.toNat * 0x20000000 + c.toNat * 0x100000 + a.toNat * 0x100 + s.toNat * 2
  | .pfi a s => 181 + a.toNat * 0x8000 + s.toNat * 2
  | .pfd n a s => 0x200000b5 + n.toNat * 0x400000 + a.toNat * 0x8000 + s.toNat * 2
  | .dsc n a s => 0x400000b5 + n.toNat * 0x400000 + a.toNat * 0x8000 + s.toNat * 2
  | .lstu a d s => 0x600000b5 + a.toNat * 0x8000 + d.toNat * 0x100 + s.toNat * 2
  | .wbk n a s => 0x800000b5 + n.toNat * 0x400000 + a.toNat * 0x8000 + s.toNat * 2
  | .ownreg b a s => 185 + b.toNat * 0x100000 + a.toNat * 0x4000 + s.toNat * 2
  | .ownclr a s => 0x40000b9 + a.toNat * 0x4000 + s.toNat * 2
  | .rga n d s => 189 + n.toNat * 0x8000 + d.toNat * 0x100 + s.toNat * 2
  | .omld a o s => 193 + a.toNat * 0x4000 + o.toNat * 0x100 + s.toNat * 2
  | .mld l w g b a s => 197 + l.toNat * 0x10000000 + w.toNat * 0x4000000 + g.toNat * 0x100000 + b.toNat * 0x4000 + a.toNat * 0x100 + s.toNat * 2
  | .mswp l s => 0x400000c5 + l.toNat * 0x10000000 + s.toNat * 2
  | .mswpRel l s => 0x440000c5 + l.toNat * 0x10000000 + s.toNat * 2
  | .mst l w g b a s => 201 + l.toNat * 0x10000000 + w.toNat * 0x4000000 + g.toNat * 0x100000 + b.toNat * 0x4000 + a.toNat * 0x100 + s.toNat * 2
  | .mdr l w g b a s => 205 + l.toNat * 0x10000000 + w.toNat * 0x4000000 + g.toNat * 0x100000 + b.toNat * 0x4000 + a.toNat * 0x100 + s.toNat * 2
  | .mdrRed l w g b a s => 0x400000cd + l.toNat * 0x10000000 + w.toNat * 0x4000000 + g.toNat * 0x100000 + b.toNat * 0x4000 + a.toNat * 0x100 + s.toNat * 2
  | .accget l w g b s => 209 + l.toNat * 0x10000000 + w.toNat * 0x4000000 + g.toNat * 0x100000 + b.toNat * 0x4000 + s.toNat * 2
  | .accgetW l w g b s => 0x1d1 + l.toNat * 0x10000000 + w.toNat * 0x4000000 + g.toNat * 0x100000 + b.toNat * 0x4000 + s.toNat * 2
  | .accput l w g s => 0x400000d1 + l.toNat * 0x10000000 + w.toNat * 0x4000000 + g.toNat * 0x100000 + s.toNat * 2
  | .accz l w g s => 0x800000d1 + l.toNat * 0x10000000 + w.toNat * 0x4000000 + g.toNat * 0x100000 + s.toNat * 2
  | .accld l w g r a s => 0xc00000d1 + l.toNat * 0x10000000 + w.toNat * 0x4000000 + g.toNat * 0x100000 + r.toNat * 0x4000 + a.toNat * 0x100 + s.toNat * 2
  | .accst l w g r a s => 0xc00800d1 + l.toNat * 0x10000000 + w.toNat * 0x4000000 + g.toNat * 0x100000 + r.toNat * 0x4000 + a.toNat * 0x100 + s.toNat * 2
  | .tmm l w g b a s => 213 + l.toNat * 0x10000000 + w.toNat * 0x4000000 + g.toNat * 0x100000 + b.toNat * 0x4000 + a.toNat * 0x100 + s.toNat * 2
  | .tmmRed l w g b a s => 0x400000d5 + l.toNat * 0x10000000 + w.toNat * 0x4000000 + g.toNat * 0x100000 + b.toNat * 0x4000 + a.toNat * 0x100 + s.toNat * 2
  | .sbeg w g h s => 217 + w.toNat * 0x4000000 + g.toNat * 0x100000 + h.toNat * 0x4000 + s.toNat * 2
  | .scmt s => 0x400000d9 + s.toNat * 2
  | .sdis s => 0x800000d9 + s.toNat * 2
  | .rmax l i c d s => 221 + l.toNat * 0x8000000 + i.toNat * 0x80000 + c.toNat * 0x40000 + d.toNat * 0x100 + s.toNat * 2
  | .rsum l i c d s => 0x80dd + l.toNat * 0x8000000 + i.toNat * 0x80000 + c.toNat * 0x40000 + d.toNat * 0x100 + s.toNat * 2
  | .rvar l i c d s => 0x100dd + l.toNat * 0x8000000 + i.toNat * 0x80000 + c.toNat * 0x40000 + d.toNat * 0x100 + s.toNat * 2
  | .rsmx l i c d s => 0x180dd + l.toNat * 0x8000000 + i.toNat * 0x80000 + c.toNat * 0x40000 + d.toNat * 0x100 + s.toNat * 2
  | .rnorm l i c d s => 0x200dd + l.toNat * 0x8000000 + i.toNat * 0x80000 + c.toNat * 0x40000 + d.toNat * 0x100 + s.toNat * 2
  | .illegalEncoding => 0
  | .ejectionHandoverEnd => 0
  | .rejoinWritebackEnd => 0
  | .rejoinWindowClose => 0
  | .ejlim => 0
  | .binAged => 0
  | .binDraw => 0
  | .waitConditionMet => 0
  | .waitTimeout => 0
  | .runParkEnd => 0
  | .fatalStop => 0
  | .dumpWrite => 0
  | .joinDecrement => 0
  | .unitPlace => 0
  | .compactionMove => 0
  | .compactionMoveEnd => 0
  | .demandFetch => 0
  | .icacheFillLand => 0
  | .translationWalkEnd => 0
  | .pageRequestResponse => 0
  | .loadReturn => 0
  | .storeAck => 0
  | .atomicComplete => 0
  | .requestLost => 0
  | .engineReadsBegin => 0
  | .engineTransferEnd => 0
  | .completionWriteAck => 0
  | .tileFillEnd => 0
  | .tileDrainEnd => 0
  | .collSetResult => 0
  | .collSetMemberTimeout => 0
  | .fabricReduce => 0
  | .collRunComplete => 0
  | .fabricMessageReceive => 0
  | .stationaryLoadComplete => 0
  | .planeSwap => 0
  | .streamComplete => 0
  | .drainComplete => 0
  | .rowStatComplete => 0
  | .lehrStep => 0
  | .budgetRetry => 0
  | .firstUseTrapReturn => 0
  | .elasticGrant => 0
  | .elasticRefuse => 0
  | .tailWrite => 0
  | .packetTake => 0
  | .pktLaunch => 0
  | .pktGraphSubmit => 0
  | .pktSignalSet => 0
  | .pktSignalClear => 0
  | .pktSignalPhase => 0
  | .pktSignalNothing => 0
  | .pktCopy => 0
  | .pktCodeMove => 0
  | .pktCancel => 0
  | .pktQuery => 0
  | .packetComplete => 0
  | .evrbWrite => 0
  | .invPage => 0
  | .invPasid => 0
  | .invFunction => 0
  | .invalidationDone => 0
  | .atsInvalidationRequest => 0
  | .cqdEnable => 0
  | .cqdDisable => 0
  | .ctxCreate => 0
  | .ctxDestroy => 0
  | .contextDestroyDone => 0
  | .fwdRemove => 0
  | .routeWrite => 0
  | .routeTakeEffect => 0
  | .registerWrite => 0
  | .policy => 0
  | .attest => 0
  | .keys => 0
  | .openCmd => 0
  | .sched => 0
  | .pause => 0
  | .evict => 0
  | .resume => 0
  | .contextResume => 0
  | .kill => 0
  | .move => 0
  | .sliceMoveComplete => 0
  | .retireCluster => 0
  | .retireChannelPair => 0
  | .counts => 0
  | .countsClear => 0
  | .unknownCommand => 0
  | .crucibleCommandDone => 0
  | .moduleReset => 0
  | .functionReady => 0
  | .storeUncorrectable => 0
  | .cacheHbmError => 0
  | .correctedError => 0
  | .clusterControlError => 0
  | .hostReadFailure => 0
  | .hostCompletionTimeout => 0
  | .linkDown => 0
  | .linkReturn => 0
  | .failedPostedWrite => 0
  | .atsTranslationCompletion => 0
  | .movePageNew => 0

/-- The bytes of an instruction, the halfword at the lower address first (R170). -/
def encode (i : Instr) : List Byte := leBytes (instrLength i) (encodeWord i)

/-- The instruction the decoder reads from bits numbered as spec/opcode_table.json numbers them. -/
def decodeTableWord (nbits w : Nat) : Option Instr :=
  match decode (leBytes 4 (w % 2 ^ nbits)) with
  | .ok (i, _) => some i
  | .error _ => none

end Sys2Proof
end

