-- ==== Sys2Proof/Machine/Operands.lean ====
section
/-! DEFINITION. What the checks of Table 16.1 must know of an encoding: major, run-ending marker, the lane registers it
names and reads, its slot, its granule range, and the classes of R398, R404 and R407; and the reading and writing of
operands. -/

namespace Sys2Proof.Machine

/-- MAJ of a 32-bit encoding; a 16-bit form has the major of the form it stands for (R183). -/
def majorOf (i : Instr) : Nat :=
  if instrLength i = 4 then encodeWord i / 4 % 64
  else
    match i with
    | .li5 .. => 0x14
    | .mul16 .. => 0x11
    | .shl16 .. | .srl16 .. | .sra16 .. => 0x13
    | .fadd16 .. | .fsub16 .. | .fmul16 .. | .fmax16 .. | .fmin16 .. => 0x18
    | _ => 0x10

/-- Whether the switch marker S is set (R171, R172, R175). -/
def endsRun (i : Instr) : Bool := instrLength i == 4 && encodeWord i / 2 % 2 == 1

/-- Registers of a memory size code (R272). -/
def sizeRegs (z : BitVec 3) : Nat := if z.toNat = 5 then 2 else if z.toNat = 6 then 4 else 1
/-- Registers of an atomic item (R275). -/
def wideRegs (w : BitVec 1) : Nat := if w.toNat = 1 then 2 else 1

/-- The lane registers an instruction names, each with how many registers from it on (R182, Table 16.3 code 0x10). -/
def laneRegs : Instr → List (Nat × Nat)
  | .mov s d => [(s.toNat, 1), (d.toNat, 1)]
  | .li5 _ d => [(d.toNat, 1)]
  | .add16 s d => [(s.toNat, 1), (d.toNat, 1)]
  | .sub16 s d => [(s.toNat, 1), (d.toNat, 1)]
  | .mul16 s d => [(s.toNat, 1), (d.toNat, 1)]
  | .and16 s d => [(s.toNat, 1), (d.toNat, 1)]
  | .or16 s d => [(s.toNat, 1), (d.toNat, 1)]
  | .xor16 s d => [(s.toNat, 1), (d.toNat, 1)]
  | .shl16 _ d => [(d.toNat, 1)]
  | .srl16 _ d => [(d.toNat, 1)]
  | .sra16 _ d => [(d.toNat, 1)]
  | .fadd16 s d => [(s.toNat, 1), (d.toNat, 1)]
  | .fsub16 s d => [(s.toNat, 1), (d.toNat, 1)]
  | .fmul16 s d => [(s.toNat, 1), (d.toNat, 1)]
  | .fmax16 s d => [(s.toNat, 1), (d.toNat, 1)]
  | .fmin16 s d => [(s.toNat, 1), (d.toNat, 1)]
  | .nop .. => []
  | .exit => []
  | .yield => []
  | .ret => []
  | .trl .. => []
  | .rjn .. => []
  | .brk .. => []
  | .halt => []
  | .br .. => []
  | .brp .. => []
  | .brpF .. => []
  | .call .. => []
  | .brx a => [(a.toNat, 2)]
  | .callx a => [(a.toNat, 2)]
  | .rfm .. => []
  | .waitAny .. => []
  | .waitAll .. => []
  | .barArv .. => []
  | .barWt .. => []
  | .barSyn .. => []
  | .gbar => []
  | .spawn .. => []
  | .jdec .. => []
  | .cancel .. => []
  | .rdsr _ d _ => [(d.toNat, 1)]
  | .wrsr _ a _ => [(a.toNat, 1)]
  | .mode .. => []
  | .trap .. => []
  | .tret => []
  | .kadd .. => []
  | .ksub .. => []
  | .kmov .. => []
  | .kmovImm .. => []
  | .kshl .. => []
  | .kand .. => []
  | .kor .. => []
  | .kcmp .. => []
  | .kld _ x _ => [(x.toNat, 1)]
  | .kldLane _ _ x _ => [(x.toNat, 1)]
  | .movk _ x _ => [(x.toNat, 1)]
  | .movkH _ x _ => [(x.toNat, 1)]
  | .kli .. => []
  | .add b a d _ => [(b.toNat, 1), (a.toNat, 1), (d.toNat, 1)]
  | .sub b a d _ => [(b.toNat, 1), (a.toNat, 1), (d.toNat, 1)]
  | .and b a d _ => [(b.toNat, 1), (a.toNat, 1), (d.toNat, 1)]
  | .or b a d _ => [(b.toNat, 1), (a.toNat, 1), (d.toNat, 1)]
  | .xor b a d _ => [(b.toNat, 1), (a.toNat, 1), (d.toNat, 1)]
  | .andn b a d _ => [(b.toNat, 1), (a.toNat, 1), (d.toNat, 1)]
  | .min b a d _ => [(b.toNat, 1), (a.toNat, 1), (d.toNat, 1)]
  | .max b a d _ => [(b.toNat, 1), (a.toNat, 1), (d.toNat, 1)]
  | .shl b a d _ => [(b.toNat, 1), (a.toNat, 1), (d.toNat, 1)]
  | .srl b a d _ => [(b.toNat, 1), (a.toNat, 1), (d.toNat, 1)]
  | .sra b a d _ => [(b.toNat, 1), (a.toNat, 1), (d.toNat, 1)]
  | .rol b a d _ => [(b.toNat, 1), (a.toNat, 1), (d.toNat, 1)]
  | .mul b a d _ => [(b.toNat, 1), (a.toNat, 1), (d.toNat, 1)]
  | .mulh b a d _ => [(b.toNat, 1), (a.toNat, 1), (d.toNat, 1)]
  | .mulhn b a d _ => [(b.toNat, 1), (a.toNat, 1), (d.toNat, 1)]
  | .abs a d _ => [(a.toNat, 1), (d.toNat, 1)]
  | .addi _ a d _ => [(a.toNat, 1), (d.toNat, 1)]
  | .andi _ a d _ => [(a.toNat, 1), (d.toNat, 1)]
  | .ori _ a d _ => [(a.toNat, 1), (d.toNat, 1)]
  | .xori _ a d _ => [(a.toNat, 1), (d.toNat, 1)]
  | .shli _ a d _ => [(a.toNat, 1), (d.toNat, 1)]
  | .srli _ a d _ => [(a.toNat, 1), (d.toNat, 1)]
  | .srai _ a d _ => [(a.toNat, 1), (d.toNat, 1)]
  | .li _ d _ => [(d.toNat, 1)]
  | .lih _ d _ => [(d.toNat, 1)]
  | .icmpEq b a _ _ => [(b.toNat, 1), (a.toNat, 1)]
  | .icmpNe b a _ _ => [(b.toNat, 1), (a.toNat, 1)]
  | .icmpLt b a _ _ => [(b.toNat, 1), (a.toNat, 1)]
  | .icmpLe b a _ _ => [(b.toNat, 1), (a.toNat, 1)]
  | .icmpLtn b a _ _ => [(b.toNat, 1), (a.toNat, 1)]
  | .icmpLen b a _ _ => [(b.toNat, 1), (a.toNat, 1)]
  | .sel _ a d _ => [(a.toNat, 1), (d.toNat, 1)]
  | .pand .. => []
  | .por .. => []
  | .pxor .. => []
  | .pnot .. => []
  | .pmov .. => []
  | .clz a d _ => [(a.toNat, 1), (d.toNat, 1)]
  | .popc a d _ => [(a.toNat, 1), (d.toNat, 1)]
  | .brev a d _ => [(a.toNat, 1), (d.toNat, 1)]
  | .bfe b a d _ => [(b.toNat, 1), (a.toNat, 1), (d.toNat, 1)]
  | .bfi b a d _ => [(b.toNat, 1), (a.toNat, 1), (d.toNat, 1)]
  | .lea b a d _ => [(b.toNat, 1), (a.toNat, 2), (d.toNat, 2)]
  | .fadd b a d _ => [(b.toNat, 1), (a.toNat, 1), (d.toNat, 1)]
  | .fsub b a d _ => [(b.toNat, 1), (a.toNat, 1), (d.toNat, 1)]
  | .fmul b a d _ => [(b.toNat, 1), (a.toNat, 1), (d.toNat, 1)]
  | .fmin b a d _ => [(b.toNat, 1), (a.toNat, 1), (d.toNat, 1)]
  | .fmax b a d _ => [(b.toNat, 1), (a.toNat, 1), (d.toNat, 1)]
  | .fabs a d _ => [(a.toNat, 1), (d.toNat, 1)]
  | .fneg a d _ => [(a.toNat, 1), (d.toNat, 1)]
  | .fcmp b a _ _ _ => [(b.toNat, 1), (a.toNat, 1)]
  | .ffma b a d _ => [(b.toNat, 1), (a.toNat, 1), (d.toNat, 1)]
  | .ffms b a d _ => [(b.toNat, 1), (a.toNat, 1), (d.toNat, 1)]
  | .fnma b a d _ => [(b.toNat, 1), (a.toNat, 1), (d.toNat, 1)]
  | .hadd2 b a d _ => [(b.toNat, 1), (a.toNat, 1), (d.toNat, 1)]
  | .hmul2 b a d _ => [(b.toNat, 1), (a.toNat, 1), (d.toNat, 1)]
  | .hfma2 b a d _ => [(b.toNat, 1), (a.toNat, 1), (d.toNat, 1)]
  | .badd2 b a d _ => [(b.toNat, 1), (a.toNat, 1), (d.toNat, 1)]
  | .bmul2 b a d _ => [(b.toNat, 1), (a.toNat, 1), (d.toNat, 1)]
  | .bfma2 b a d _ => [(b.toNat, 1), (a.toNat, 1), (d.toNat, 1)]
  | .cvt _ _ _ a d _ => [(a.toNat, 1), (d.toNat, 1)]
  | .exp2 a d _ => [(a.toNat, 1), (d.toNat, 1)]
  | .log2 a d _ => [(a.toNat, 1), (d.toNat, 1)]
  | .rcp a d _ => [(a.toNat, 1), (d.toNat, 1)]
  | .rsqrt a d _ => [(a.toNat, 1), (d.toNat, 1)]
  | .sqrt a d _ => [(a.toNat, 1), (d.toNat, 1)]
  | .tanh a d _ => [(a.toNat, 1), (d.toNat, 1)]
  | .lgs a d _ => [(a.toNat, 1), (d.toNat, 1)]
  | .gactLgs b a d _ => [(b.toNat, 1), (a.toNat, 1), (d.toNat, 1)]
  | .gactTanh b a d _ => [(b.toNat, 1), (a.toNat, 1), (d.toNat, 1)]
  | .gactAlgs b a d _ => [(b.toNat, 1), (a.toNat, 1), (d.toNat, 1)]
  | .frnd _ a d _ => [(a.toNat, 1), (d.toNat, 1)]
  | .fcls a d _ => [(a.toNat, 1), (d.toNat, 1)]
  | .fexp a d _ => [(a.toNat, 1), (d.toNat, 1)]
  | .fscl b a d _ => [(b.toNat, 1), (a.toNat, 1), (d.toNat, 1)]
  | .shflIdx b a d _ => [(b.toNat, 1), (a.toNat, 1), (d.toNat, 1)]
  | .shflUp b a d _ => [(b.toNat, 1), (a.toNat, 1), (d.toNat, 1)]
  | .shflDown b a d _ => [(b.toNat, 1), (a.toNat, 1), (d.toNat, 1)]
  | .shflXor b a d _ => [(b.toNat, 1), (a.toNat, 1), (d.toNat, 1)]
  | .voteAny _ d _ => [(d.toNat, 1)]
  | .voteAll _ d _ => [(d.toNat, 1)]
  | .voteBal _ d _ => [(d.toNat, 1)]
  | .voteCnt _ d _ => [(d.toNat, 1)]
  | .voteMatch a d _ => [(a.toNat, 1), (d.toNat, 1)]
  | .lredAdd _ a d _ => [(a.toNat, 1), (d.toNat, 1)]
  | .lredMax _ a d _ => [(a.toNat, 1), (d.toNat, 1)]
  | .lredMin _ a d _ => [(a.toNat, 1), (d.toNat, 1)]
  | .lscanAddInc _ a d _ => [(a.toNat, 1), (d.toNat, 1)]
  | .lscanAddExc _ a d _ => [(a.toNat, 1), (d.toNat, 1)]
  | .lbc _ a d _ => [(a.toNat, 1), (d.toNat, 1)]
  | .ld _ z _ a d _ => [(a.toNat, 1), (d.toNat, sizeRegs z)]
  | .st _ z _ a d _ => [(a.toNat, 1), (d.toNat, sizeRegs z)]
  | .ldk _ _ _ a _ _ => [(a.toNat, 1)]
  | .stk _ _ _ a _ _ => [(a.toNat, 1)]
  | .atomAdd _ w _ _ a d _ => [(a.toNat, 2), (d.toNat, wideRegs w)]
  | .atomMin _ w _ _ a d _ => [(a.toNat, 2), (d.toNat, wideRegs w)]
  | .atomMax _ w _ _ a d _ => [(a.toNat, 2), (d.toNat, wideRegs w)]
  | .atomAnd w _ _ a d _ => [(a.toNat, 2), (d.toNat, wideRegs w)]
  | .atomOr w _ _ a d _ => [(a.toNat, 2), (d.toNat, wideRegs w)]
  | .atomXor w _ _ a d _ => [(a.toNat, 2), (d.toNat, wideRegs w)]
  | .atomXchg w _ _ a d _ => [(a.toNat, 2), (d.toNat, wideRegs w)]
  | .atomCas w _ _ a d _ => [(a.toNat, 2), (d.toNat, 2 * wideRegs w)]
  | .fenceAcq .. => []
  | .fenceRel .. => []
  | .fenceAr .. => []
  | .fenceSc .. => []
  | .tget .. => []
  | .tset .. => []
  | .tdrn .. => []
  | .tstat .. => []
  | .cpy .. => []
  | .gth .. => []
  | .sct .. => []
  | .collSet .. => []
  | .collRun .. => []
  | .collStat .. => []
  | .pfi a _ => [(a.toNat, 2)]
  | .pfd _ a _ => [(a.toNat, 2)]
  | .dsc _ a _ => [(a.toNat, 2)]
  | .lstu a d _ => [(a.toNat, 2), (d.toNat, 1)]
  | .wbk _ a _ => [(a.toNat, 2)]
  | .ownreg .. => []
  | .ownclr .. => []
  | .rga n d _ => [(n.toNat, 1), (d.toNat, 1)]
  | .omld .. => []
  | .mld .. => []
  | .mswp .. => []
  | .mswpRel .. => []
  | .mst .. => []
  | .mdr .. => []
  | .mdrRed .. => []
  | .accget .. => []
  | .accgetW .. => []
  | .accput .. => []
  | .accz .. => []
  | .accld .. => []
  | .accst .. => []
  | .tmm .. => []
  | .tmmRed .. => []
  | .sbeg .. => []
  | .scmt .. => []
  | .sdis .. => []
  | .rmax _ _ _ d _ => [(d.toNat, 1)]
  | .rsum _ _ _ d _ => [(d.toNat, 1)]
  | .rvar _ _ _ d _ => [(d.toNat, 1)]
  | .rsmx _ _ _ d _ => [(d.toNat, 1)]
  | .rnorm _ _ _ d _ => [(d.toNat, 1)]
  | .illegalEncoding => []
  | .ejectionHandoverEnd => []
  | .rejoinWritebackEnd => []
  | .rejoinWindowClose => []
  | .ejlim => []
  | .binAged => []
  | .binDraw => []
  | .waitConditionMet => []
  | .waitTimeout => []
  | .runParkEnd => []
  | .fatalStop => []
  | .dumpWrite => []
  | .joinDecrement => []
  | .unitPlace => []
  | .compactionMove => []
  | .compactionMoveEnd => []
  | .demandFetch => []
  | .icacheFillLand => []
  | .translationWalkEnd => []
  | .pageRequestResponse => []
  | .loadReturn => []
  | .storeAck => []
  | .atomicComplete => []
  | .requestLost => []
  | .engineReadsBegin => []
  | .engineTransferEnd => []
  | .completionWriteAck => []
  | .tileFillEnd => []
  | .tileDrainEnd => []
  | .collSetResult => []
  | .collSetMemberTimeout => []
  | .fabricReduce => []
  | .collRunComplete => []
  | .fabricMessageReceive => []
  | .stationaryLoadComplete => []
  | .planeSwap => []
  | .streamComplete => []
  | .drainComplete => []
  | .rowStatComplete => []
  | .lehrStep => []
  | .budgetRetry => []
  | .firstUseTrapReturn => []
  | .elasticGrant => []
  | .elasticRefuse => []
  | .tailWrite => []
  | .packetTake => []
  | .pktLaunch => []
  | .pktGraphSubmit => []
  | .pktSignalSet => []
  | .pktSignalClear => []
  | .pktSignalPhase => []
  | .pktSignalNothing => []
  | .pktCopy => []
  | .pktCodeMove => []
  | .pktCancel => []
  | .pktQuery => []
  | .packetComplete => []
  | .evrbWrite => []
  | .invPage => []
  | .invPasid => []
  | .invFunction => []
  | .invalidationDone => []
  | .atsInvalidationRequest => []
  | .cqdEnable => []
  | .cqdDisable => []
  | .ctxCreate => []
  | .ctxDestroy => []
  | .contextDestroyDone => []
  | .fwdRemove => []
  | .routeWrite => []
  | .routeTakeEffect => []
  | .registerWrite => []
  | .policy => []
  | .attest => []
  | .keys => []
  | .openCmd => []
  | .sched => []
  | .pause => []
  | .evict => []
  | .resume => []
  | .contextResume => []
  | .kill => []
  | .move => []
  | .sliceMoveComplete => []
  | .retireCluster => []
  | .retireChannelPair => []
  | .counts => []
  | .countsClear => []
  | .unknownCommand => []
  | .crucibleCommandDone => []
  | .moduleReset => []
  | .functionReady => []
  | .storeUncorrectable => []
  | .cacheHbmError => []
  | .correctedError => []
  | .clusterControlError => []
  | .hostReadFailure => []
  | .hostCompletionTimeout => []
  | .linkDown => []
  | .linkReturn => []
  | .failedPostedWrite => []
  | .atsTranslationCompletion => []
  | .movePageNew => []

/-- The lane registers whose words every active lane reads as operands (R430); the cross-lane sources are tested where
they are selected. -/
def sourceRegs : Instr → List (Nat × Nat)
  | .mov s _ => [(s.toNat, 1)]
  | .li5 .. => []
  | .add16 s d => [(d.toNat, 1), (s.toNat, 1)]
  | .sub16 s d => [(d.toNat, 1), (s.toNat, 1)]
  | .mul16 s d => [(d.toNat, 1), (s.toNat, 1)]
  | .and16 s d => [(d.toNat, 1), (s.toNat, 1)]
  | .or16 s d => [(d.toNat, 1), (s.toNat, 1)]
  | .xor16 s d => [(d.toNat, 1), (s.toNat, 1)]
  | .shl16 _ d => [(d.toNat, 1)]
  | .srl16 _ d => [(d.toNat, 1)]
  | .sra16 _ d => [(d.toNat, 1)]
  | .fadd16 s d => [(d.toNat, 1), (s.toNat, 1)]
  | .fsub16 s d => [(d.toNat, 1), (s.toNat, 1)]
  | .fmul16 s d => [(d.toNat, 1), (s.toNat, 1)]
  | .fmax16 s d => [(d.toNat, 1), (s.toNat, 1)]
  | .fmin16 s d => [(d.toNat, 1), (s.toNat, 1)]
  | .nop .. => []
  | .exit => []
  | .yield => []
  | .ret => []
  | .trl .. => []
  | .rjn .. => []
  | .brk .. => []
  | .halt => []
  | .br .. => []
  | .brp .. => []
  | .brpF .. => []
  | .call .. => []
  | .brx a => [(a.toNat, 2)]
  | .callx a => [(a.toNat, 2)]
  | .rfm .. => []
  | .waitAny .. => []
  | .waitAll .. => []
  | .barArv .. => []
  | .barWt .. => []
  | .barSyn .. => []
  | .gbar => []
  | .spawn .. => []
  | .jdec .. => []
  | .cancel .. => []
  | .rdsr .. => []
  | .wrsr _ a _ => [(a.toNat, 1)]
  | .mode .. => []
  | .trap .. => []
  | .tret => []
  | .kadd .. => []
  | .ksub .. => []
  | .kmov .. => []
  | .kmovImm .. => []
  | .kshl .. => []
  | .kand .. => []
  | .kor .. => []
  | .kcmp .. => []
  | .kld .. => []
  | .kldLane .. => []
  | .movk .. => []
  | .movkH .. => []
  | .kli .. => []
  | .add b a _ _ => [(b.toNat, 1), (a.toNat, 1)]
  | .sub b a _ _ => [(b.toNat, 1), (a.toNat, 1)]
  | .and b a _ _ => [(b.toNat, 1), (a.toNat, 1)]
  | .or b a _ _ => [(b.toNat, 1), (a.toNat, 1)]
  | .xor b a _ _ => [(b.toNat, 1), (a.toNat, 1)]
  | .andn b a _ _ => [(b.toNat, 1), (a.toNat, 1)]
  | .min b a _ _ => [(b.toNat, 1), (a.toNat, 1)]
  | .max b a _ _ => [(b.toNat, 1), (a.toNat, 1)]
  | .shl b a _ _ => [(b.toNat, 1), (a.toNat, 1)]
  | .srl b a _ _ => [(b.toNat, 1), (a.toNat, 1)]
  | .sra b a _ _ => [(b.toNat, 1), (a.toNat, 1)]
  | .rol b a _ _ => [(b.toNat, 1), (a.toNat, 1)]
  | .mul b a _ _ => [(b.toNat, 1), (a.toNat, 1)]
  | .mulh b a _ _ => [(b.toNat, 1), (a.toNat, 1)]
  | .mulhn b a _ _ => [(b.toNat, 1), (a.toNat, 1)]
  | .abs a _ _ => [(a.toNat, 1)]
  | .addi _ a _ _ => [(a.toNat, 1)]
  | .andi _ a _ _ => [(a.toNat, 1)]
  | .ori _ a _ _ => [(a.toNat, 1)]
  | .xori _ a _ _ => [(a.toNat, 1)]
  | .shli _ a _ _ => [(a.toNat, 1)]
  | .srli _ a _ _ => [(a.toNat, 1)]
  | .srai _ a _ _ => [(a.toNat, 1)]
  | .li .. => []
  | .lih _ d _ => [(d.toNat, 1)]
  | .icmpEq b a _ _ => [(b.toNat, 1), (a.toNat, 1)]
  | .icmpNe b a _ _ => [(b.toNat, 1), (a.toNat, 1)]
  | .icmpLt b a _ _ => [(b.toNat, 1), (a.toNat, 1)]
  | .icmpLe b a _ _ => [(b.toNat, 1), (a.toNat, 1)]
  | .icmpLtn b a _ _ => [(b.toNat, 1), (a.toNat, 1)]
  | .icmpLen b a _ _ => [(b.toNat, 1), (a.toNat, 1)]
  | .sel _ a _ _ => [(a.toNat, 1)]
  | .pand .. => []
  | .por .. => []
  | .pxor .. => []
  | .pnot .. => []
  | .pmov .. => []
  | .clz a _ _ => [(a.toNat, 1)]
  | .popc a _ _ => [(a.toNat, 1)]
  | .brev a _ _ => [(a.toNat, 1)]
  | .bfe b a _ _ => [(b.toNat, 1), (a.toNat, 1)]
  | .bfi b a d _ => [(b.toNat, 1), (a.toNat, 1), (d.toNat, 1)]
  | .lea b a _ _ => [(b.toNat, 1), (a.toNat, 2)]
  | .fadd b a _ _ => [(b.toNat, 1), (a.toNat, 1)]
  | .fsub b a _ _ => [(b.toNat, 1), (a.toNat, 1)]
  | .fmul b a _ _ => [(b.toNat, 1), (a.toNat, 1)]
  | .fmin b a _ _ => [(b.toNat, 1), (a.toNat, 1)]
  | .fmax b a _ _ => [(b.toNat, 1), (a.toNat, 1)]
  | .fabs a _ _ => [(a.toNat, 1)]
  | .fneg a _ _ => [(a.toNat, 1)]
  | .fcmp b a _ _ _ => [(b.toNat, 1), (a.toNat, 1)]
  | .ffma b a d _ => [(b.toNat, 1), (a.toNat, 1), (d.toNat, 1)]
  | .ffms b a d _ => [(b.toNat, 1), (a.toNat, 1), (d.toNat, 1)]
  | .fnma b a d _ => [(b.toNat, 1), (a.toNat, 1), (d.toNat, 1)]
  | .hadd2 b a _ _ => [(b.toNat, 1), (a.toNat, 1)]
  | .hmul2 b a _ _ => [(b.toNat, 1), (a.toNat, 1)]
  | .hfma2 b a d _ => [(b.toNat, 1), (a.toNat, 1), (d.toNat, 1)]
  | .badd2 b a _ _ => [(b.toNat, 1), (a.toNat, 1)]
  | .bmul2 b a _ _ => [(b.toNat, 1), (a.toNat, 1)]
  | .bfma2 b a d _ => [(b.toNat, 1), (a.toNat, 1), (d.toNat, 1)]
  | .cvt _ _ _ a _ _ => [(a.toNat, 1)]
  | .exp2 a _ _ => [(a.toNat, 1)]
  | .log2 a _ _ => [(a.toNat, 1)]
  | .rcp a _ _ => [(a.toNat, 1)]
  | .rsqrt a _ _ => [(a.toNat, 1)]
  | .sqrt a _ _ => [(a.toNat, 1)]
  | .tanh a _ _ => [(a.toNat, 1)]
  | .lgs a _ _ => [(a.toNat, 1)]
  | .gactLgs b a _ _ => [(b.toNat, 1), (a.toNat, 1)]
  | .gactTanh b a _ _ => [(b.toNat, 1), (a.toNat, 1)]
  | .gactAlgs b a _ _ => [(b.toNat, 1), (a.toNat, 1)]
  | .frnd _ a _ _ => [(a.toNat, 1)]
  | .fcls a _ _ => [(a.toNat, 1)]
  | .fexp a _ _ => [(a.toNat, 1)]
  | .fscl b a _ _ => [(b.toNat, 1), (a.toNat, 1)]
  | .shflIdx b _ _ _ => [(b.toNat, 1)]
  | .shflUp b _ _ _ => [(b.toNat, 1)]
  | .shflDown b _ _ _ => [(b.toNat, 1)]
  | .shflXor b _ _ _ => [(b.toNat, 1)]
  | .voteAny .. => []
  | .voteAll .. => []
  | .voteBal .. => []
  | .voteCnt .. => []
  | .voteMatch a _ _ => [(a.toNat, 1)]
  | .lredAdd _ a _ _ => [(a.toNat, 1)]
  | .lredMax _ a _ _ => [(a.toNat, 1)]
  | .lredMin _ a _ _ => [(a.toNat, 1)]
  | .lscanAddInc _ a _ _ => [(a.toNat, 1)]
  | .lscanAddExc _ a _ _ => [(a.toNat, 1)]
  | .lbc .. => []
  | .ld _ _ _ a _ _ => [(a.toNat, 1)]
  | .st _ _ _ a _ _ => [(a.toNat, 1)]
  | .ldk _ _ _ a _ _ => [(a.toNat, 1)]
  | .stk _ _ _ a _ _ => [(a.toNat, 1)]
  | .atomAdd _ w _ _ a d _ => [(a.toNat, 2), (d.toNat, wideRegs w)]
  | .atomMin _ w _ _ a d _ => [(a.toNat, 2), (d.toNat, wideRegs w)]
  | .atomMax _ w _ _ a d _ => [(a.toNat, 2), (d.toNat, wideRegs w)]
  | .atomAnd w _ _ a d _ => [(a.toNat, 2), (d.toNat, wideRegs w)]
  | .atomOr w _ _ a d _ => [(a.toNat, 2), (d.toNat, wideRegs w)]
  | .atomXor w _ _ a d _ => [(a.toNat, 2), (d.toNat, wideRegs w)]
  | .atomXchg w _ _ a d _ => [(a.toNat, 2), (d.toNat, wideRegs w)]
  | .atomCas w _ _ a d _ => [(a.toNat, 2), (d.toNat, 2 * wideRegs w)]
  | .fenceAcq .. => []
  | .fenceRel .. => []
  | .fenceAr .. => []
  | .fenceSc .. => []
  | .tget .. => []
  | .tset .. => []
  | .tdrn .. => []
  | .tstat .. => []
  | .cpy .. => []
  | .gth .. => []
  | .sct .. => []
  | .collSet .. => []
  | .collRun .. => []
  | .collStat .. => []
  | .pfi a _ => [(a.toNat, 2)]
  | .pfd _ a _ => [(a.toNat, 2)]
  | .dsc _ a _ => [(a.toNat, 2)]
  | .lstu a _ _ => [(a.toNat, 2)]
  | .wbk _ a _ => [(a.toNat, 2)]
  | .ownreg .. => []
  | .ownclr .. => []
  | .rga .. => []
  | .omld .. => []
  | .mld .. => []
  | .mswp .. => []
  | .mswpRel .. => []
  | .mst .. => []
  | .mdr .. => []
  | .mdrRed .. => []
  | .accget .. => []
  | .accgetW .. => []
  | .accput .. => []
  | .accz .. => []
  | .accld .. => []
  | .accst .. => []
  | .tmm .. => []
  | .tmmRed .. => []
  | .sbeg .. => []
  | .scmt .. => []
  | .sdis .. => []
  | .rmax .. => []
  | .rsum .. => []
  | .rvar .. => []
  | .rsmx .. => []
  | .rnorm _ _ _ d _ => [(d.toNat, 1)]
  | .illegalEncoding => []
  | .ejectionHandoverEnd => []
  | .rejoinWritebackEnd => []
  | .rejoinWindowClose => []
  | .ejlim => []
  | .binAged => []
  | .binDraw => []
  | .waitConditionMet => []
  | .waitTimeout => []
  | .runParkEnd => []
  | .fatalStop => []
  | .dumpWrite => []
  | .joinDecrement => []
  | .unitPlace => []
  | .compactionMove => []
  | .compactionMoveEnd => []
  | .demandFetch => []
  | .icacheFillLand => []
  | .translationWalkEnd => []
  | .pageRequestResponse => []
  | .loadReturn => []
  | .storeAck => []
  | .atomicComplete => []
  | .requestLost => []
  | .engineReadsBegin => []
  | .engineTransferEnd => []
  | .completionWriteAck => []
  | .tileFillEnd => []
  | .tileDrainEnd => []
  | .collSetResult => []
  | .collSetMemberTimeout => []
  | .fabricReduce => []
  | .collRunComplete => []
  | .fabricMessageReceive => []
  | .stationaryLoadComplete => []
  | .planeSwap => []
  | .streamComplete => []
  | .drainComplete => []
  | .rowStatComplete => []
  | .lehrStep => []
  | .budgetRetry => []
  | .firstUseTrapReturn => []
  | .elasticGrant => []
  | .elasticRefuse => []
  | .tailWrite => []
  | .packetTake => []
  | .pktLaunch => []
  | .pktGraphSubmit => []
  | .pktSignalSet => []
  | .pktSignalClear => []
  | .pktSignalPhase => []
  | .pktSignalNothing => []
  | .pktCopy => []
  | .pktCodeMove => []
  | .pktCancel => []
  | .pktQuery => []
  | .packetComplete => []
  | .evrbWrite => []
  | .invPage => []
  | .invPasid => []
  | .invFunction => []
  | .invalidationDone => []
  | .atsInvalidationRequest => []
  | .cqdEnable => []
  | .cqdDisable => []
  | .ctxCreate => []
  | .ctxDestroy => []
  | .contextDestroyDone => []
  | .fwdRemove => []
  | .routeWrite => []
  | .routeTakeEffect => []
  | .registerWrite => []
  | .policy => []
  | .attest => []
  | .keys => []
  | .openCmd => []
  | .sched => []
  | .pause => []
  | .evict => []
  | .resume => []
  | .contextResume => []
  | .kill => []
  | .move => []
  | .sliceMoveComplete => []
  | .retireCluster => []
  | .retireChannelPair => []
  | .counts => []
  | .countsClear => []
  | .unknownCommand => []
  | .crucibleCommandDone => []
  | .moduleReset => []
  | .functionReady => []
  | .storeUncorrectable => []
  | .cacheHbmError => []
  | .correctedError => []
  | .clusterControlError => []
  | .hostReadFailure => []
  | .hostCompletionTimeout => []
  | .linkDown => []
  | .linkReturn => []
  | .failedPostedWrite => []
  | .atsTranslationCompletion => []
  | .movePageNew => []

/-- The slot an instruction counts in (R178, R179). -/
def slotNamed : Instr → Option Nat
  | .mov .. => none
  | .li5 .. => none
  | .add16 .. => none
  | .sub16 .. => none
  | .mul16 .. => none
  | .and16 .. => none
  | .or16 .. => none
  | .xor16 .. => none
  | .shl16 .. => none
  | .srl16 .. => none
  | .sra16 .. => none
  | .fadd16 .. => none
  | .fsub16 .. => none
  | .fmul16 .. => none
  | .fmax16 .. => none
  | .fmin16 .. => none
  | .nop .. => none
  | .exit => none
  | .yield => none
  | .ret => none
  | .trl .. => none
  | .rjn .. => none
  | .brk .. => none
  | .halt => none
  | .br .. => none
  | .brp .. => none
  | .brpF .. => none
  | .call .. => none
  | .brx .. => none
  | .callx .. => none
  | .rfm .. => none
  | .waitAny .. => none
  | .waitAll .. => none
  | .barArv .. => none
  | .barWt .. => none
  | .barSyn .. => none
  | .gbar => none
  | .spawn .. => none
  | .jdec .. => none
  | .cancel .. => none
  | .rdsr .. => none
  | .wrsr .. => none
  | .mode .. => none
  | .trap .. => none
  | .tret => none
  | .kadd .. => none
  | .ksub .. => none
  | .kmov .. => none
  | .kmovImm .. => none
  | .kshl .. => none
  | .kand .. => none
  | .kor .. => none
  | .kcmp .. => none
  | .kld .. => none
  | .kldLane .. => none
  | .movk .. => none
  | .movkH .. => none
  | .kli .. => none
  | .add .. => none
  | .sub .. => none
  | .and .. => none
  | .or .. => none
  | .xor .. => none
  | .andn .. => none
  | .min .. => none
  | .max .. => none
  | .shl .. => none
  | .srl .. => none
  | .sra .. => none
  | .rol .. => none
  | .mul .. => none
  | .mulh .. => none
  | .mulhn .. => none
  | .abs .. => none
  | .addi .. => none
  | .andi .. => none
  | .ori .. => none
  | .xori .. => none
  | .shli .. => none
  | .srli .. => none
  | .srai .. => none
  | .li .. => none
  | .lih .. => none
  | .icmpEq .. => none
  | .icmpNe .. => none
  | .icmpLt .. => none
  | .icmpLe .. => none
  | .icmpLtn .. => none
  | .icmpLen .. => none
  | .sel .. => none
  | .pand .. => none
  | .por .. => none
  | .pxor .. => none
  | .pnot .. => none
  | .pmov .. => none
  | .clz .. => none
  | .popc .. => none
  | .brev .. => none
  | .bfe .. => none
  | .bfi .. => none
  | .lea .. => none
  | .fadd .. => none
  | .fsub .. => none
  | .fmul .. => none
  | .fmin .. => none
  | .fmax .. => none
  | .fabs .. => none
  | .fneg .. => none
  | .fcmp .. => none
  | .ffma .. => none
  | .ffms .. => none
  | .fnma .. => none
  | .hadd2 .. => none
  | .hmul2 .. => none
  | .hfma2 .. => none
  | .badd2 .. => none
  | .bmul2 .. => none
  | .bfma2 .. => none
  | .cvt .. => none
  | .exp2 .. => none
  | .log2 .. => none
  | .rcp .. => none
  | .rsqrt .. => none
  | .sqrt .. => none
  | .tanh .. => none
  | .lgs .. => none
  | .gactLgs .. => none
  | .gactTanh .. => none
  | .gactAlgs .. => none
  | .frnd .. => none
  | .fcls .. => none
  | .fexp .. => none
  | .fscl .. => none
  | .shflIdx .. => none
  | .shflUp .. => none
  | .shflDown .. => none
  | .shflXor .. => none
  | .voteAny .. => none
  | .voteAll .. => none
  | .voteBal .. => none
  | .voteCnt .. => none
  | .voteMatch .. => none
  | .lredAdd .. => none
  | .lredMax .. => none
  | .lredMin .. => none
  | .lscanAddInc .. => none
  | .lscanAddExc .. => none
  | .lbc .. => none
  | .ld l _ _ _ _ _ => some l.toNat
  | .st l _ _ _ _ _ => some l.toNat
  | .ldk l _ _ _ _ _ => some l.toNat
  | .stk l _ _ _ _ _ => some l.toNat
  | .atomAdd .. => some 3
  | .atomMin .. => some 3
  | .atomMax .. => some 3
  | .atomAnd .. => some 3
  | .atomOr .. => some 3
  | .atomXor .. => some 3
  | .atomXchg .. => some 3
  | .atomCas .. => some 3
  | .fenceAcq .. => none
  | .fenceRel .. => none
  | .fenceAr .. => none
  | .fenceSc .. => none
  | .tget l _ _ _ => some l.toNat
  | .tset .. => none
  | .tdrn l _ _ _ => some l.toNat
  | .tstat .. => none
  | .cpy l _ _ _ _ => some l.toNat
  | .gth l _ _ _ _ => some l.toNat
  | .sct l _ _ _ _ => some l.toNat
  | .collSet l _ _ _ _ => some l.toNat
  | .collRun l _ _ _ _ => some l.toNat
  | .collStat l _ _ _ => some l.toNat
  | .pfi .. => none
  | .pfd .. => none
  | .dsc .. => none
  | .lstu .. => some 3
  | .wbk .. => none
  | .ownreg .. => none
  | .ownclr .. => none
  | .rga .. => none
  | .omld .. => some 3
  | .mld l _ _ _ _ _ => some l.toNat
  | .mswp l _ => some l.toNat
  | .mswpRel l _ => some l.toNat
  | .mst l _ _ _ _ _ => some l.toNat
  | .mdr l _ _ _ _ _ => some l.toNat
  | .mdrRed l _ _ _ _ _ => some l.toNat
  | .accget l _ _ _ _ => some l.toNat
  | .accgetW l _ _ _ _ => some l.toNat
  | .accput l _ _ _ => some l.toNat
  | .accz l _ _ _ => some l.toNat
  | .accld l _ _ _ _ _ => some l.toNat
  | .accst l _ _ _ _ _ => some l.toNat
  | .tmm l _ _ _ _ _ => some l.toNat
  | .tmmRed l _ _ _ _ _ => some l.toNat
  | .sbeg .. => none
  | .scmt .. => none
  | .sdis .. => none
  | .rmax l _ _ _ _ => some l.toNat
  | .rsum l _ _ _ _ => some l.toNat
  | .rvar l _ _ _ _ => some l.toNat
  | .rsmx l _ _ _ _ => some l.toNat
  | .rnorm l _ _ _ _ => some l.toNat
  | .illegalEncoding => none
  | .ejectionHandoverEnd => none
  | .rejoinWritebackEnd => none
  | .rejoinWindowClose => none
  | .ejlim => none
  | .binAged => none
  | .binDraw => none
  | .waitConditionMet => none
  | .waitTimeout => none
  | .runParkEnd => none
  | .fatalStop => none
  | .dumpWrite => none
  | .joinDecrement => none
  | .unitPlace => none
  | .compactionMove => none
  | .compactionMoveEnd => none
  | .demandFetch => none
  | .icacheFillLand => none
  | .translationWalkEnd => none
  | .pageRequestResponse => none
  | .loadReturn => none
  | .storeAck => none
  | .atomicComplete => none
  | .requestLost => none
  | .engineReadsBegin => none
  | .engineTransferEnd => none
  | .completionWriteAck => none
  | .tileFillEnd => none
  | .tileDrainEnd => none
  | .collSetResult => none
  | .collSetMemberTimeout => none
  | .fabricReduce => none
  | .collRunComplete => none
  | .fabricMessageReceive => none
  | .stationaryLoadComplete => none
  | .planeSwap => none
  | .streamComplete => none
  | .drainComplete => none
  | .rowStatComplete => none
  | .lehrStep => none
  | .budgetRetry => none
  | .firstUseTrapReturn => none
  | .elasticGrant => none
  | .elasticRefuse => none
  | .tailWrite => none
  | .packetTake => none
  | .pktLaunch => none
  | .pktGraphSubmit => none
  | .pktSignalSet => none
  | .pktSignalClear => none
  | .pktSignalPhase => none
  | .pktSignalNothing => none
  | .pktCopy => none
  | .pktCodeMove => none
  | .pktCancel => none
  | .pktQuery => none
  | .packetComplete => none
  | .evrbWrite => none
  | .invPage => none
  | .invPasid => none
  | .invFunction => none
  | .invalidationDone => none
  | .atsInvalidationRequest => none
  | .cqdEnable => none
  | .cqdDisable => none
  | .ctxCreate => none
  | .ctxDestroy => none
  | .contextDestroyDone => none
  | .fwdRemove => none
  | .routeWrite => none
  | .routeTakeEffect => none
  | .registerWrite => none
  | .policy => none
  | .attest => none
  | .keys => none
  | .openCmd => none
  | .sched => none
  | .pause => none
  | .evict => none
  | .resume => none
  | .contextResume => none
  | .kill => none
  | .move => none
  | .sliceMoveComplete => none
  | .retireCluster => none
  | .retireChannelPair => none
  | .counts => none
  | .countsClear => none
  | .unknownCommand => none
  | .crucibleCommandDone => none
  | .moduleReset => none
  | .functionReady => none
  | .storeUncorrectable => none
  | .cacheHbmError => none
  | .correctedError => none
  | .clusterControlError => none
  | .hostReadFailure => none
  | .hostCompletionTimeout => none
  | .linkDown => none
  | .linkReturn => none
  | .failedPostedWrite => none
  | .atsTranslationCompletion => none
  | .movePageNew => none

/-- The granule range an encoding of majors 0x32-0x37 names: first granule and count (Table 11.1); `tmm` may name
more (R319). -/
def granuleRange : Instr → Option (Nat × Nat)
  | .mst _ w g .. | .mdr _ w g .. | .mdrRed _ w g .. | .accget _ w g .. | .accgetW _ w g .. | .accput _ w g _
  | .accz _ w g _ | .accld _ w g .. | .accst _ w g .. | .tmm _ w g .. | .tmmRed _ w g .. => some (g.toNat, gran w)
  | .sbeg w g .. => some (g.toNat, gran w)
  | .rmax _ i c .. | .rsum _ i c .. | .rvar _ i c .. | .rsmx _ i c .. | .rnorm _ i c .. =>
    if c.toNat = 1 then some (i.toNat, 1) else none
  | _ => none

/-- Not available on a kindling core (R398). -/
def kunavMajor (m : Nat) : Bool := (0x29 ≤ m && m ≤ 0x2C) || (0x30 ≤ m && m ≤ 0x37)

/-- Issued only by the full warp and compared with ACCOWN (R404, R368). -/
def matrixMajor (m : Nat) : Bool := 0x31 ≤ m && m ≤ 0x37

/-- Not allowed in an open speculative region whatever its operands (Table 16.4). -/
def regionForbidden : Instr → Bool
  | .rfm .. | .exit | .gbar | .spawn .. | .jdec .. | .cancel .. | .barArv .. | .barWt .. | .barSyn ..
  | .tget .. | .tset .. | .tdrn .. | .lstu .. | .sbeg .. | .mdr .. | .mdrRed .. | .accst .. | .accget ..
  | .accgetW .. | .accput .. | .tmmRed .. => true
  | .rsmx _ _ c .. | .rnorm _ _ c .. => c.toNat == 0
  | i => let m := majorOf i; m == 0x27 || m == 0x28 || (0x2A ≤ m && m ≤ 0x2C)

/-- Held in the speculative store buffer (R408). -/
def heldStore : Instr → Bool
  | .st .. | .stk .. | .dsc .. => true
  | _ => false

/-- Whether two ranges of granules meet. -/
def meets (a n b m : Nat) : Bool := a < b + m && b < a + n

/-- A speculation rule is broken (R407, R408); `more` is a further range the instruction touches (R323). -/
def specBroken (i : Instr) (region : Option Spec) : Bool :=
  match region with
  | none => match i with | .scmt _ | .sdis _ => true | _ => false
  | some r =>
    regionForbidden i ||
    (match granuleRange i with
     | some (g, n) => 0x32 ≤ majorOf i && meets g n r.sbase r.width
     | none => false) ||
    (heldStore i && 128 ≤ r.held.length)

/-- A register operand at or above the block size (R98, Table 16.3 code 0x10). -/
def beyondBlock (i : Instr) (bsize : Nat) : Bool :=
  (laneRegs i).any fun (n, k) => n < 120 && bsize < n + k

/-- The open region of a group; an ejected thread has none. -/
def regionOf (s : State) : Gid → Option Spec
  | .warp c w => (warpOf s c w).bind (·.spec)
  | .kindle .. => none

/-- VLANES of the warp of a group (R188). -/
def vlanes (s : State) (v : View) : List Nat :=
  match warpOf s v.core v.wslot with
  | some w => if w.serial = v.serial then heldLanes w else []
  | none => []

/-- Lanes of the active set that read a poisoned register word (R428, R430), with the store address of the first; a register of an ejected
thread is named by the address it has in the home block. -/
def poisoned (s : State) (v : View) (regs : List (Nat × Nat)) (lanes : List Nat) : List (Nat × Nat) :=
  match v.gid with
  | .kindle cl k =>
    match ejOf s cl k with
    | none => []
    | some e =>
      if e.poison.isEmpty then []
      else
        let home (r : Nat) : Nat := e.stackAddr - 128 * (unitFrame s e.unit).regs + 128 * r
        match regs.flatMap fun (n, k) => ((List.range k).map (n + ·)).filter e.poison.contains with
        | [] => []
        | r :: _ => lanes.map fun l => (l, home r)
  | .warp c _ =>
    let bad := (coreOf s c).storePoison
    if bad.isEmpty then []
    else lanes.filterMap fun l =>
      ((regs.flatMap fun (n, k) => (List.range k).filterMap fun j =>
        if n + j < 120 && bad.contains (regAddr v.page (n + j) l) then some (regAddr v.page (n + j) l) else none).head?).map
          fun a => (l, a)

/-! ## Writing results -/

/-- A lane word written after `lat` cycles in each active lane (R8, R240). A change of value in a running lane is
progress for the spin detector (R51, R384). -/
def progress (s : State) (v : View) : State :=
  match v.gid with
  | .warp c w => modWarp s c w fun x => { x with spin := 0, demc := 0 }
  | .kindle .. => s

/-- Values for the active lanes: lane, register, word. -/
def changes (s : State) (v : View) (items : List (Nat × Nat × Word)) : Bool :=
  items.any fun (l, r, x) => readX s v l r != x

def writeX (s : State) (v : View) (lat : Nat) (items : List (Nat × Nat × Word)) : State :=
  let s1 := if !v.kc && changes s v items then progress s v else s
  pendWrites s1 v.gid lat (items.map fun (l, r, x) => .x r l x)

/-- One word per active lane into one register. -/
def writeLanes (s : State) (v : View) (lat d : Nat) (f : Nat → Word) : State :=
  writeX s v lat (v.act.map fun l => (l, d, f l))

def writeP (s : State) (v : View) (lat p : Nat) (f : Nat → Bool) : State :=
  pendWrites s v.gid lat (v.act.map fun l => .p p l (f l))

/-- FLAGS bits ORed in when the result is usable (R157, R241). -/
def writeFlags (s : State) (v : View) (lat : Nat) (f : Nat → BitVec 8) : State :=
  pendWrites s v.gid lat ((v.act.filter fun l => f l != 0).map fun l => .flags l (f l))

/-- Latency of the uniform registers (R232). -/
def kLat (v : View) : Nat := if v.kc then 40 else 4

end Sys2Proof.Machine
end

