-- ==== Sys2Proof/Machine/Flags.lean ====
section
/-! DEFINITION. The sticky flags (R157, R241) and the float operation of one lane: input rule, rounding, NaN and
invalid operation (R163, R250, R251). -/

namespace Sys2Proof.Machine

/-- CONTRACT of the unit of a group (R160). -/
def contractOf (s : State) (v : View) : Nat := match unitOf s v.unit with | some u => u.contract | none => 3
/-- SUBN of the group's contract (R163). -/
def subnOf (s : State) (v : View) : Nat := cSubn (contractOf s v)
/-- MODE.RM of a thread (R155). -/
def rmOf (s : State) (v : View) (lane : Nat) : Nat := match thrOf s v.gid lane with | some t => t.rm.toNat | none => 0

/-- Result of an operation in a format: one rounding, and the canonical NaN, with NV where the operation is invalid
(R250). -/
def finish (f : Fmt) (rm subn : Nat) (invalid : Bool) (x : Num) : Flagged Nat :=
  let (w, fl) := f.round rm subn x
  (w, fl ||| if invalid then fNV else 0)

/-- 0 × ∞. -/
def badMul (a b : Num) : Bool :=
  match a, b with
  | .inf _, y => y.isZero
  | x, .inf _ => x.isZero
  | _, _ => false

/-- ∞ − ∞ as a sum. -/
def badAdd (a b : Num) : Bool :=
  match a, b with
  | .inf x, .inf y => x != y
  | _, _ => false

def fltAdd (f : Fmt) (rm subn a b : Nat) : Flagged Nat :=
  let (x, f1) := f.input subn a
  let (y, f2) := f.input subn b
  let (w, fl) := finish f rm subn (badAdd x y) (x.add y)
  (w, fl ||| f1 ||| f2)

def fltSub (f : Fmt) (rm subn a b : Nat) : Flagged Nat :=
  let (x, f1) := f.input subn a
  let (y, f2) := f.input subn b
  let (w, fl) := finish f rm subn (badAdd x y.negate) (x.add y.negate)
  (w, fl ||| f1 ||| f2)

def fltMul (f : Fmt) (rm subn a b : Nat) : Flagged Nat :=
  let (x, f1) := f.input subn a
  let (y, f2) := f.input subn b
  let (w, fl) := finish f rm subn (badMul x y) (x.mul y)
  (w, fl ||| f1 ||| f2)

/-- ± a × b ± d, rounded once (R251). -/
def fltFma (f : Fmt) (rm subn : Nat) (negProd negAdd : Bool) (a b d : Nat) : Flagged Nat :=
  let (x, f1) := f.input subn a
  let (y, f2) := f.input subn b
  let (z, f3) := f.input subn d
  let p := x.mul y
  let p := if negProd then p.negate else p
  let z := if negAdd then z.negate else z
  let (w, fl) := finish f rm subn (badMul x y || badAdd p z) (p.add z)
  (w, fl ||| f1 ||| f2 ||| f3)

/-- The code of an input after the input rule (R163). -/
def fltIn (f : Fmt) (subn w : Nat) : Flagged Nat :=
  if subn = 0 ∧ f.isSub w then (if bit w (f.eb + f.mb) then f.signBit else 0, fFZ) else (w, 0)

/-- The code of a result that no rounding has formed: a NaN is the canonical one (R150), and a subnormal is a zero of its sign unless
the contract keeps subnormal results (R163). -/
def fltOut (f : Fmt) (subn w : Nat) : Flagged Nat :=
  if (f.decode w).isNan then (f.nanCode, 0)
  else if subn < 2 ∧ f.isSub w then (if bit w (f.eb + f.mb) then f.signBit else 0, fFZ)
  else (w, 0)

/-- Smaller or larger operand (R251); one NaN gives the other operand. -/
def fltPick (f : Fmt) (subn : Nat) (larger : Bool) (a b : Nat) : Flagged Nat :=
  let (a, f1) := fltIn f subn a
  let (b, f2) := fltIn f subn b
  let x := f.decode a
  let y := f.decode b
  let w :=
    if x.isNan && y.isNan then f.nanCode
    else if x.isNan then b
    else if y.isNan then a
    else if larger then (if x.lessSigned y then b else a)
    else (if y.lessSigned x then b else a)
  let (w, f3) := fltOut f subn w
  (w, f1 ||| f2 ||| f3)

/-- A word and flags per active lane after `lat` cycles (R8, R241). -/
def writeFloat (s : State) (v : View) (lat d : Nat) (f : Nat → Flagged Nat) : State :=
  let r := v.act.map fun l => (l, f l)
  let s1 := writeX s v lat (r.map fun (l, w, _) => (l, d, BitVec.ofNat 32 w))
  pendWrites s1 v.gid lat ((r.filter fun (_, _, fl) => fl != 0).map fun (l, _, fl) => .flags l (flagBits fl))

/-- The same flags ORed into FLAGS of every active thread after `lat` cycles (R241). -/
def writeFlagsAll (s : State) (v : View) (lat fl : Nat) : State :=
  if fl = 0 then s else pendWrites s v.gid lat (v.act.map fun l => .flags l (flagBits fl))

end Sys2Proof.Machine
end

