-- ==== Sys2Proof/Machine/Special.lean ====
section
/-! DEFINITION. The special functions of R168 and Table 6.8, bit for bit: values of each function at the table points,
rounded to the table's grid, the quadratic interpolant, the reductions and the reconstructions. -/

namespace Sys2Proof.Machine

/-! ## Fixed point of 2^256 -/

/-- One of the fixed-point numbers below is a whole number of units of `2^-256`. -/
def unitFx : Nat := 2 ^ 256

/-- Whole square root, from bit `k - 1` of the root down. -/
def isqrtFrom (n : Nat) : Nat → Nat → Nat
  | 0, r => r
  | k + 1, r => isqrtFrom n k (if (r + 2 ^ k) * (r + 2 ^ k) ≤ n then r + 2 ^ k else r)

def isqrt (n : Nat) : Nat := isqrtFrom n (n.log2 / 2 + 1) 0

/-- `2^(a / 2^k)`: each step of `k` takes one more square root of 2. -/
def pow2Fx (a : Nat) : Nat → Nat → Nat → Nat
  | 0, _, acc => acc
  | k + 1, root, acc =>
    let r := isqrt (root * unitFx)
    pow2Fx a k r (if bit a k then acc * r / unitFx else acc)

/-- `e^(p/q)` by its series. -/
def expSeries (p q : Nat) : Nat → Nat → Nat → Nat → Nat
  | 0, _, _, acc => acc
  | fuel + 1, k, term, acc => expSeries p q fuel (k + 1) (term * p / (q * (k + 1))) (acc + term)

def expFx (p q : Nat) : Nat := expSeries p q 260 0 unitFx 0

/-- ln 2 by the series of 1 / (k 2^k). -/
def ln2Fx : Nat → Nat → Nat → Nat
  | 0, _, acc => acc
  | fuel + 1, k, acc => ln2Fx fuel (k + 1) (acc + unitFx / (k * 2 ^ k))

/-- Binary digits of log2 of a number in [1, 2) by repeated squaring, with the weight of the next digit. -/
def log2Fx : Nat → Nat → Nat → Nat → Nat
  | 0, _, _, acc => acc
  | fuel + 1, y, w, acc =>
    let q := y * y / unitFx
    if 2 * unitFx ≤ q then log2Fx fuel (q / 2) (w / 2) (acc + w) else log2Fx fuel q (w / 2) acc

/-- `n / d` rounded to a whole number, ties to even. -/
def roundDiv (n d : Nat) : Nat :=
  let k := n / d
  let r := n % d
  if d < 2 * r ∨ (d = 2 * r ∧ k % 2 = 1) then k + 1 else k

/-! ## Tables -/

/-- The functions with a table; the roots have one for each parity of the exponent. -/
inductive Fun where
  | exp2 | log2 | rcp | sqrt (odd : Bool) | rsqrt (odd : Bool) | tanh | lgs
deriving DecidableEq, Repr

/-- `fix(f(a / 2^k), F)` as a whole number of `2^-F` (R168). -/
def fixAt (fn : Fun) (a k F : Nat) : Nat :=
  let one := 2 ^ k
  match fn with
  | .exp2 => roundDiv ((if a = one then 2 * unitFx else pow2Fx a k (2 * unitFx) unitFx) * 2 ^ F) unitFx
  | .log2 =>
    if a = 0 then roundDiv (unitFx * 2 ^ F) (ln2Fx 260 1 0)
    else
      let l := if a = one then unitFx else log2Fx 220 ((one + a) * 2 ^ (256 - k)) (unitFx / 2) 0
      roundDiv (l * one * 2 ^ F) (a * unitFx)
  | .rcp => roundDiv (one * 2 ^ F) (one + a)
  | .sqrt odd => roundDiv (isqrt ((one + a) * (if odd then 2 else 1) * 2 ^ (512 - k)) * 2 ^ F) unitFx
  | .rsqrt odd => roundDiv (unitFx * 2 ^ F) (isqrt ((one + a) * (if odd then 2 else 1) * 2 ^ (512 - k)))
  | .tanh =>
    if a = 0 then 2 ^ F
    else
      let e := expFx (32 * a) one
      roundDiv ((e - unitFx) * one * 2 ^ F) ((e + unitFx) * 16 * a)
  | .lgs =>
    let e := expFx (32 * a) one
    roundDiv (e * 2 ^ F) (e + unitFx)

/-- The interpolant p at t = `tn / 2^td`, with `td ≥ 8` (R168); `rev` is the table revision. -/
def interp (fn : Fun) (rev tn td : Nat) : Num :=
  let s := if rev = 1 then 6 else 8
  let F := if rev = 1 then 26 else 30
  let seg := 2 ^ (td - s)
  let j := tn / seg
  let u : Int := (tn % seg : Nat)
  let U : Int := (seg : Nat)
  let y0 : Int := (fixAt fn (2 * j) (s + 1) F : Nat)
  let y1 : Int := (fixAt fn (2 * j + 1) (s + 1) F : Nat)
  let y2 : Int := (fixAt fn (2 * j + 2) (s + 1) F : Nat)
  let p := y0 * U * U + u * ((4 * y1 - 3 * y0 - y2) * U + u * (2 * y0 - 4 * y1 + 2 * y2))
  .fin (decide (p < 0)) p.natAbs (-(2 * (td - s) + F : Nat))

/-- A finite non-negative value as `n / 2^d` with `d ≥ 8`. -/
def asFrac (m : Nat) (e : Int) : Nat × Nat :=
  let d := Nat.max 8 (-e).toNat
  (m * 2 ^ (e + d).toNat, d)

/-- Exponent n and fraction t of a positive value `2^n (1 + t)`, t as `tn / 2^td` (R168). -/
def splitExp (m : Nat) (e : Int) : Int × Nat × Nat :=
  let k := m.log2
  ((k : Int) + e, (m - 2 ^ k) * 256, k + 8)

/-- `2^n × p` of exp2 for a finite argument, unrounded (Table 6.8). -/
def exp2Exact (rev : Nat) (neg : Bool) (m : Nat) (e : Int) : Num :=
  let (a, d) := asFrac m e
  let v : Int := if neg then -(a : Int) else a
  let one : Int := (2 ^ d : Nat)
  (interp .exp2 rev (v % one).toNat d).scale (v / one)

/-- Whether a finite value is at least a whole number. -/
def atLeast (m : Nat) (e : Int) (k : Nat) : Bool := 0 ≤ (Num.fin false m e).cmp (.fin false k 0)

/-- The FP32 constant 0x3FB8_AA3B (R165). -/
def numL : Num := f32.decode 0x3FB8AA3B

/-! ## Unrounded results (Table 6.8): the exact value with the flags of its special rows -/

def exp2Of (rev : Nat) : Num → Flagged Num
  | .nan => (.nan, 0)
  | .inf n => (if n then .fin false 0 0 else .inf false, 0)
  | .fin n m e => if !n && atLeast m e 128 then (.inf false, fOF) else (exp2Exact rev n m e, 0)

def log2Of (rev : Nat) : Num → Flagged Num
  | .nan => (.nan, 0)
  | .inf n => if n then (.nan, fNV) else (.inf false, 0)
  | .fin n m e =>
    if m = 0 then (.inf true, fDZ)
    else if n then (.nan, fNV)
    else
      let (k, tn, td) := splitExp m e
      ((Num.fin (decide (k < 0)) k.natAbs 0).add (if tn = 0 then .fin false 0 0
        else (interp .log2 rev tn td).mul (.fin false tn (-(td : Nat)))), 0)

def rcpOf (rev : Nat) : Num → Flagged Num
  | .nan => (.nan, 0)
  | .inf n => (.fin n 0 0, 0)
  | .fin n m e =>
    if m = 0 then (.inf n, fDZ)
    else
      let (k, tn, td) := splitExp m e
      (((interp .rcp rev tn td).scale (-k)).setSign n, 0)

def sqrtOf (rev : Nat) : Num → Flagged Num
  | .nan => (.nan, 0)
  | .inf n => if n then (.nan, fNV) else (.inf false, 0)
  | .fin n m e =>
    if m = 0 then (.fin n 0 0, 0)
    else if n then (.nan, fNV)
    else
      let (k, tn, td) := splitExp m e
      ((interp (.sqrt (k % 2 == 1)) rev tn td).scale (k / 2), 0)

def rsqrtOf (rev : Nat) : Num → Flagged Num
  | .nan => (.nan, 0)
  | .inf n => if n then (.nan, fNV) else (.fin false 0 0, 0)
  | .fin n m e =>
    if m = 0 then (.inf n, fDZ)
    else if n then (.nan, fNV)
    else
      let (k, tn, td) := splitExp m e
      ((interp (.rsqrt (k % 2 == 1)) rev tn td).scale (-(k / 2)), 0)

def tanhOf (rev : Nat) : Num → Flagged Num
  | .nan => (.nan, 0)
  | .inf n => (.fin n 1 0, 0)
  | .fin n m e =>
    if m = 0 then (.fin n 0 0, 0)
    else if atLeast m e 16 then (.fin n 1 0, 0)
    else
      let (tn, td) := asFrac m (e - 4)
      ((Num.fin n m e).mul (interp .tanh rev tn td), 0)

/-- p of lgs at a magnitude, or 1 at 32 and more. -/
def lgsMag (rev m : Nat) (e : Int) : Num :=
  if atLeast m e 32 then .fin false 1 0
  else
    let (tn, td) := asFrac m (e - 5)
    interp .lgs rev tn td

def lgsOf (rev : Nat) : Num → Flagged Num
  | .nan => (.nan, 0)
  | .inf n => (if n then .fin false 0 0 else .fin false 1 0, 0)
  | .fin n m e =>
    if n && m != 0 then
      match (Num.fin n m e).mul numL with
      | .fin n' m' e' => ((exp2Exact rev n' m' e').mul (lgsMag rev m e), 0)
      | y => (y, 0)
    else (lgsMag rev m e, 0)

/-- One lane of major 0x1C: input rule, unrounded result, one `round_rne` (R168, R258). -/
def special (f : Num → Flagged Num) (subn w : Nat) : Flagged Nat :=
  let (x, f0) := f32.input subn w
  let (y, f1) := f x
  let (r, f2) := f32.round 0 subn y
  (r, f0 ||| f1 ||| f2)

/-- One lane of major 0x1D (R259): gate times the unrounded inner value; `self` multiplies by the activation first. -/
def gated (inner : Num → Flagged Num) (self : Bool) (subn a g : Nat) : Flagged Nat :=
  let (x, f0) := f32.input subn a
  let (y, f1) := f32.input subn g
  if x.isNan || y.isNan then (f32.nanCode, f0 ||| f1)
  else
    let (p, f2) := inner x
    let q :=
      if self then
        match x with
        | .inf n => if n then .fin true 0 0 else .inf false
        | _ => x.mul p
      else p
    let (r, f3) := finish f32 0 subn (badMul y q) (y.mul q)
    (r, f0 ||| f1 ||| f2 ||| f3)

end Sys2Proof.Machine
end

