-- ==== Sys2Proof/Machine/Arith.lean ====
section
/-! DEFINITION. Arithmetic of sums under a contract: K rows of the array (R161), row sums and statistics (R164, R165, R326), stream
factors (R303) and fabric reductions (R167). -/

namespace Sys2Proof.Machine

/-! ## K rows (R161) -/

/-- `align_trunc`: a multiple of `2^u`, truncated toward zero, with the sticky half unit. -/
def alignTrunc (stk : Bool) (u : Int) : Num → Num
  | .fin neg m e =>
    if u ≤ e then .fin neg m e
    else
      let sh := (u - e).toNat
      .fin neg (2 * (m / 2 ^ sh) + (if stk && m % 2 ^ sh != 0 then 1 else 0)) (u - 1)
  | x => x

/-- `E(q)` of a value that is not zero. -/
def topBit : Num → Option Int
  | .fin _ m e => if m = 0 then none else some ((m.log2 : Int) + e)
  | _ => none

/-- Sum of one group of products. -/
def groupSum (c : Nat) (q : List Num) : Num :=
  match q.filterMap topBit with
  | [] => Num.sum q
  | e :: r =>
    if cAbits c = 63 then Num.sum q
    else Num.sum (q.map (alignTrunc (cStk c) (r.foldl max e - (cAbits c : Int))))

/-- Products per group. -/
def groupSize (c k : Nat) : Nat :=
  match cGrp c with
  | 0 => 8
  | 1 => 16
  | 2 => 32
  | _ => k

/-- A list in pieces of `g`. -/
def chunks {α : Type} (g : Nat) (l : List α) : List (List α) :=
  (List.range (ceilDiv l.length g)).map fun i => (l.drop (g * i)).take g

/-- An accumulator after a group (RPT 0 and 1). -/
def addGroup (c : Nat) (acc : Flagged Num) (q : List Num) : Flagged Num :=
  let s := groupSum c q
  let (s1, f1) := if cRpt c = 0 then rne32 (cSubn c) s else (s, 0)
  let (r, f2) := rne32 (cSubn c) (acc.1.add s1)
  (r, acc.2 ||| f1 ||| f2 ||| if badAdd acc.1 s1 then fNV else 0)

/-- One K row added to an FP32 accumulator (R161). A NaN operand is carried with no flag, whatever else the row holds. -/
def rowUpdate (c acc : Nat) (a w : List Num) : Flagged Nat :=
  let x := f32.decode acc
  let p := List.zipWith Num.mul a w
  let infs := p.filterMap fun y => match y with | .inf n => some n | _ => none
  if x.isNan || a.any Num.isNan || w.any Num.isNan then (f32.nanCode, 0)
  else if p.any Num.isNan then (f32.nanCode, fNV)
  else
    match infs, x with
    | n :: r, .inf m => if r.all (· == n) && m == n then (acc, 0) else (f32.nanCode, fNV)
    | n :: r, _ => if r.all (· == n) then ((if n then f32.signBit else 0) + f32.infCode, 0) else (f32.nanCode, fNV)
    | [], .inf _ => (acc, 0)
    | [], _ =>
      if cRpt c = 2 then f32.round 0 (cSubn c) (x.add (Num.sum p))
      else
        let (y, fl) := (chunks (groupSize c p.length) p).foldl (addGroup c) (x, 0)
        ((f32.round 0 2 y).1, fl)

/-- An i8 row added to an i32 accumulator (R161). -/
def rowUpdateInt (acc : Nat) (a w : List Int) : Nat := wrap 32 ((acc : Int) + (List.zipWith (· * ·) a w).sum)

/-- The elements of a K slice of a format (R302): 32 of 16 bits, 64 of 8 bits, or 128 F4 codes with four scale words. -/
def sliceNums (fmt xv subn : Nat) (b : List Byte) (sc : List Nat) : Flagged (List Num) :=
  let n := natOf b
  let of (w k : Nat) (f : Fmt) : Flagged (List Num) :=
    let l := (List.range k).map fun i => f.input subn (fld n (w * i) w)
    (l.map (·.1), l.foldl (fun x y => x ||| y.2) 0)
  match fmt with
  | 1 => of 16 32 f16
  | 2 => of 16 32 bf16
  | 3 => of 8 64 e4m3
  | 4 => of 8 64 e5m2
  | 11 => ((List.range 128).map fun i =>
      let s := nth sc (i / 32) 0
      f4Decode (fld s 10 2) (fld s 0 10) xv (fld n (4 * i) 4), 0)
  | _ => ([], 0)

/-- The elements of an i8 slice. -/
def sliceInts (b : List Byte) : List Int := b.map fun x => sx 8 x.toNat

/-! ## Stream factors (R160, R303) -/

/-- Speed of a format under a contract: 0 not supported, 1 quarter, 2 half, 3 full; the slowest F4 field counts. -/
def speedOf (c fmt : Nat) : Nat :=
  let w := (capcon c).toNat
  let field (i : Nat) : Nat := fld w (2 * i) 2
  match fmt with
  | 0 => field 0
  | 1 => field 1
  | 2 => field 2
  | 5 => field 3
  | 3 => field 4
  | 4 => field 5
  | 11 => Nat.min (Nat.min (field 6) (field 7)) (Nat.min (field 8) (field 9))
  | _ => 0

/-- f of a speed that is not 0. -/
def factorOf (speed : Nat) : Nat := if speed = 3 then 1 else if speed = 2 then 2 else 4

/-- The pairs of R303. -/
def pairAllowed (w a : Nat) : Bool := (w == a && (w == 1 || w == 2 || w == 5 || w == 11)) || ((w == 3 || w == 4) && (a == 3 || a == 4))

/-! ## Row sums and statistics (R164, R165, R326) -/

/-- Values combined pairwise to one, `n` levels at most. -/
def pairAll (f : Flagged Nat → Flagged Nat → Flagged Nat) : Nat → List (Flagged Nat) → List (Flagged Nat)
  | 0, l => l
  | n + 1, l => if l.length ≤ 1 then l else pairAll f n (pairs l)
where
  pairs : List (Flagged Nat) → List (Flagged Nat)
    | x :: y :: r => f x y :: pairs r
    | l => l

/-- The next power of two. -/
def powerUp (n : Nat) : Nat := if n ≤ 1 then 1 else 2 ^ ((n - 1).log2 + 1)

/-- One addition with the flags so far. -/
def addFlags (subn : Nat) (x y : Flagged Nat) : Flagged Nat :=
  let (w, fl) := fltAdd f32 0 subn x.1 y.1
  (w, fl ||| x.2 ||| y.2)

/-- S(x) (R164). -/
def rowSum (c : Nat) (l : List Nat) : Flagged Nat :=
  let subn := cSubn c
  let ins := l.map fltIn'
  let (w, fl) : Flagged Nat := match cRsm c with
  | 0 =>
    match ins with
    | [] => (f32.signBit, 0)
    | x :: r => r.foldl (addFlags subn) x
  | 1 =>
    let n := powerUp l.length
    (pairAll (addFlags subn) 12 (ins ++ List.replicate (n - l.length) (f32.signBit, 0))).headD (f32.signBit, 0)
  | _ =>
    let vs := ins.map fun x => f32.decode x.1
    let fl := ins.foldl (fun n x => n ||| x.2) 0
    let both := (vs.any fun v => decide (v = .inf true)) && vs.any fun v => decide (v = .inf false)
    let (w, f2) := f32.round 0 subn (Num.sum vs)
    (w, fl ||| f2 ||| if both && !vs.any Num.isNan then fNV else 0)
  let (r, f3) := fltOut f32 subn w
  (r, fl ||| f3)
where
  fltIn' (w : Nat) : Flagged Nat := fltIn f32 (cSubn c) w

/-- A code divided by a whole number (R165). -/
def divCount (subn w n : Nat) : Flagged Nat :=
  let (x, f1) := f32.input subn w
  let (r, f2) := f32.round 0 subn (x.divNat n)
  (r, f1 ||| f2)

/-- The largest element, NaN when any is NaN (R164). -/
def rowMax (c : Nat) (l : List Nat) : Flagged Nat :=
  let ins := l.map (fltIn f32 (cSubn c))
  let fl := ins.foldl (fun n x => n ||| x.2) 0
  match ins.map (·.1) with
  | [] => (f32.nanCode, fl)
  | x :: r =>
    if (x :: r).any fun w => (f32.decode w).isNan then (f32.nanCode, fl)
    else
      let (w, f2) := fltOut f32 (cSubn c) (r.foldl (fun b w => if (f32.decode b).lessSigned (f32.decode w) then w else b) x)
      (w, fl ||| f2)

/-- Every element of a row under an operation, with all flags. -/
def mapFlags (l : List Nat) (f : Nat → Flagged Nat) : Flagged (List Nat) :=
  let r := l.map f
  (r.map (·.1), r.foldl (fun n x => n ||| x.2) 0)

/-- mu and var (R165). -/
def meanVar (c : Nat) (l : List Nat) : Nat × Nat × Nat :=
  let subn := cSubn c
  let n := l.length
  let (s, f1) := rowSum c l
  let (mu, f2) := divCount subn s n
  if cVar c = 0 then
    let (sq, f3) := mapFlags l fun x => fltMul f32 0 subn x x
    let (t, f4) := rowSum c sq
    let (q, f5) := divCount subn t n
    let (m2, f6) := fltMul f32 0 subn mu mu
    let (var, f7) := fltSub f32 0 subn q m2
    (mu, var, f1 ||| f2 ||| f3 ||| f4 ||| f5 ||| f6 ||| f7)
  else
    let (d, f3) := mapFlags l fun x => fltSub f32 0 subn x mu
    if cRsm c = 2 then
      let vs := d.map fun x => (f32.input subn x).1
      let (var, f4) := f32.round 0 subn ((Num.sum (vs.map fun v => v.mul v)).divNat n)
      (mu, var, f1 ||| f2 ||| f3 ||| f4)
    else
      let (sq, f4) := mapFlags d fun x => fltMul f32 0 subn x x
      let (t, f5) := rowSum c sq
      let (var, f6) := divCount subn t n
      (mu, var, f1 ||| f2 ||| f3 ||| f4 ||| f5 ||| f6)

/-- `round_rne` of an exact quotient of two finite codes. -/
def divCodes (subn a b : Nat) : Flagged Nat :=
  match f32.decode a, f32.decode b with
  | .fin n1 m1 e1, .fin n2 m2 e2 =>
    if m1 = 0 then ((if n1 != n2 then f32.signBit else 0), 0) else f32.round 0 subn (divExact n1 m1 e1 n2 m2 e2)
  | _, _ => (f32.nanCode, 0)

/-- rsmx of a row (R165): the denominator, the row written, the flags. -/
def softmaxRow (c : Nat) (l : List Nat) : Nat × List Nat × Nat :=
  let subn := cSubn c
  let (ins, f0) := mapFlags l (fltIn f32 subn)
  let vs := ins.map f32.decode
  let all (w : Nat) : List Nat := List.replicate l.length w
  if vs.any Num.isNan then (f32.nanCode, all f32.nanCode, f0)
  else if vs.all fun v => decide (v = .inf true) then
    (if cSmxm c = 0 then (f32.nanCode, all f32.nanCode, f0 ||| fNV) else (0, all 0, f0))
  else if vs.any fun v => decide (v = .inf false) then
    if cSmxm c = 0 then (f32.nanCode, all f32.nanCode, f0 ||| fNV)
    else
      let k := (vs.filter fun v => decide (v = .inf false)).length
      let (one, f1) := divCount subn 0x3F800000 k
      (0, vs.map fun v => if v = .inf false then one else 0, f0 ||| f1)
  else
    let (m, _) := rowMax c ins
    let (d, f1) := mapFlags ins fun x => fltSub f32 0 subn x m
    let (e, f2) := mapFlags d fun x =>
      let (y, g1) := f32.input subn x
      let (z, g2) := exp2Of (cTrev c) (y.mul numL)
      let (w, g3) := f32.round 0 subn z
      (w, g1 ||| g2 ||| g3)
    let (s, f3) := rowSum c e
    let (out, f4) := mapFlags e fun x => divCodes subn x s
    (s, out, f0 ||| f1 ||| f2 ||| f3 ||| f4)

/-- rnorm of a row (R326). -/
def normRow (c eps : Nat) (l : List Nat) : Nat × List Nat × Nat :=
  let subn := cSubn c
  let (mu, var, f1) := meanVar c l
  let (t, f2) := fltAdd f32 0 subn var eps
  let (r, f3) := special (rsqrtOf (cTrev c)) subn t
  let (out, f4) := mapFlags l fun x =>
    let (d, g1) := fltSub f32 0 subn x mu
    let (w, g2) := fltMul f32 0 subn d r
    (w, g1 ||| g2)
  (r, out, f1 ||| f2 ||| f3 ||| f4)

/-- A row statistic (Table 11.5): lane word, row written if any, flags. -/
def rowStat (op c eps : Nat) (l : List Nat) : Nat × Option (List Nat) × Nat :=
  match op with
  | 0 => let (w, fl) := rowMax c l; (w, none, fl)
  | 1 => let (w, fl) := rowSum c l; (w, none, fl)
  | 2 => let (_, w, fl) := meanVar c l; (w, none, fl)
  | 3 => let (w, o, fl) := softmaxRow c l; (w, some o, fl)
  | _ => let (w, o, fl) := normRow c eps l; (w, some o, fl)

/-! ## Fabric reductions (R167) -/

/-- An element of a communicator's format as the FP32 code that enters a sum, under the contract's input rule (R163, R167). -/
def enterSum (fmt subn w : Nat) : Nat := (f32.round 0 2 ((fmtOf fmt).input subn w).1).1

/-- The sum of the ranks' values, entering as FP32 codes in rank order, in the element format. -/
def fabricSum (c fmt : Nat) (l : List Nat) : Nat :=
  let subn := cSubn c
  let ins := l.map fun w => (fltIn f32 subn w).1
  let exact := Num.sum (ins.map f32.decode)
  let s :=
    match cFabr c with
    | 0 =>
      match ins with
      | [] => Num.fin true 0 0
      | x :: r => f32.decode (r.foldl (fun a b => (fltAdd f32 0 subn a b).1) x)
    | 1 =>
      let padded := ins ++ List.replicate (powerUp ins.length - ins.length) f32.signBit
      f32.decode ((pairAll (addFlags subn) 16 (padded.map fun w => (w, 0))).headD (f32.signBit, 0)).1
    | _ => exact
  match toFloat (fmtOf fmt) 0 subn 1 s with
  | some (w, _) => w
  | none => 0

end Sys2Proof.Machine
end

