-- ==== Sys2Proof/Machine/Alloc.lean ====
section
/-! DEFINITION. Allocation of a core's store and slots: pages, register blocks, scratchpad runs, tile entries (R97,
R98, R104), the fitting test of R70, and warp slots. -/

namespace Sys2Proof.Machine

/-- Registers of the block of a unit (R65). -/
def blockSize (regs : Nat) : Nat := if regs ≤ 16 then 16 else if regs ≤ 32 then 32 else if regs ≤ 64 then 64 else 128

/-- Pages to which a block is being copied (R102). -/
def movePages (k : Core) : List (Nat × Nat) :=
  match k.compact.bind (·.move) with
  | some (w, p, e) => if e = 0 then [] else [(p, ((tabGet w k.warps).map (·.bsize / 16)).getD 0)]
  | none => []

/-- Pages of 2 KiB in use on a core: register blocks, kept blocks (R210) and scratchpad runs, as (page, pages). -/
def usedPages (s : State) (core : Nat) : List (Nat × Nat) :=
  movePages (coreOf s core) ++
  ((coreOf s core).warps.map fun (_, w) => (w.page, w.bsize / 16)) ++
  (residentsOn s core).flatMap fun (_, u) =>
    (u.kept.map fun (_, p, n) => (p, n)) ++ if u.scrPages = 0 then [] else [(u.scrPage, u.scrPages)]

/-- Whether a range of pages is free in the allocation space below a bound. -/
def freeRun (used : List (Nat × Nat)) (top p n : Nat) : Bool :=
  p + n ≤ top && used.all fun (q, m) => !meets p n q m
where
  meets (a n b m : Nat) : Bool := a < b + m && b < a + n

/-- Pages of the allocation space under an L1 share (R97). -/
def spaceTop (l1w : Nat) : Nat := 384 - 32 * l1w

/-- The highest free run of `n` pages. -/
def findScratch (used : List (Nat × Nat)) (top n : Nat) : Option Nat :=
  ((List.range (top + 1)).reverse).find? fun p => freeRun used top p n

/-- The lowest free block of `n` pages aligned to its size. -/
def findBlock (used : List (Nat × Nat)) (top n : Nat) : Option Nat :=
  ((List.range (top / n)).map (· * n)).find? fun p => freeRun used top p n

/-- `k` blocks granted one after another. -/
def findBlocks (top n : Nat) : Nat → List (Nat × Nat) → Option (List Nat)
  | 0, _ => some []
  | k + 1, used =>
    match findBlock used top n with
    | none => none
    | some p => (findBlocks top n k (used ++ [(p, n)])).map (p :: ·)

/-- Free warp slots of a core, ascending (R15). -/
def freeSlots (s : State) (core : Nat) : List Nat :=
  let w := (coreOf s core).warps
  (List.range 48).filter fun i => (tabGet i w).isNone

/-- Lowest free run of `n` entries of the tile table (R104). -/
def findTiles (s : State) (core n : Nat) : Option Nat :=
  let used := (residentsOn s core).filterMap fun (_, u) => if u.ntiles = 0 then none else some (u.tileBase, u.ntiles)
  if n = 0 then some 0 else (List.range 256).find? fun b => freeRun used 256 b n

/-- Threads of a unit (R64). -/
def Frame.threads (f : Frame) : Nat := f.utx * f.uty * f.utz
def Frame.warps (f : Frame) : Nat := ceilDiv f.threads 32
/-- Units of a launch. -/
def Frame.units (f : Frame) : Nat := f.gdx * f.gdy * f.gdz

/-- A launch with GBAR some of whose units have been placed: it places them all, one every 4 cycles, and no record comes between (R72):
DEDUCED (log 97). -/
def midGbar (x : Launch) : Bool :=
  x.status = 0 && !x.victim && x.nextUnit != 0 && x.frame.any fun f => f.flag 1 && decide (x.nextUnit < f.units)

/-- Free granules of a core that an elastic request may be granted: none while a launch with GBAR is being placed whose units reserve
granules there (R72, R111): DEDUCED (log 97). -/
def elasticFree (s : State) (core : Nat) : List Nat :=
  if s.launches.any fun (_, x) => midGbar x && (x.frame.any fun f => f.accres != 0) &&
      (partEntry s x.part).cbase ≤ clusterOf core && clusterOf core ≤ (partEntry s x.part).clim then []
  else freeGranules s core

/-- What a unit would be granted on a core: page of the scratchpad run and pages of the blocks (R97). -/
def storeGrant (used : List (Nat × Nat)) (f : Frame) : Option (Nat × List Nat) :=
  let top := spaceTop f.l1w
  let scr := ceilDiv f.scratch 2048
  let blk := blockSize f.regs / 16
  if scr = 0 then (findBlocks top blk f.warps used).map fun l => (0, l)
  else
    match findScratch used top scr with
    | none => none
    | some p => (findBlocks top blk f.warps (used ++ [(p, scr)])).map fun l => (p, l)

/-- A launch of a task record (R60). -/
def isTask (s : State) (launch : Nat) : Bool := (launchOf s launch).any (·.task)

/-- The L1 share of a core once a unit has been placed there: a core with no resident unit takes the one of the unit's frame (R70). -/
def shareFor (s : State) (f : Frame) (core : Nat) : Nat :=
  if (residentsOn s core).isEmpty && !(coreOf s core).fused then f.l1w else (coreOf s core).l1w

/-- A frame with the share of a core. -/
def Frame.onCore (f : Frame) (s : State) (core : Nat) : Frame := { f with l1w := shareFor s f core }

/-- The cluster accepts a unit: not retired, and fused only for the fusing launch (R70, R107). -/
def clusterTakes (s : State) (launch : Nat) (f : Frame) (core : Nat) : Bool :=
  let cl := clusterOf core
  let residents := s.units.filter fun (_, u) => clusterOf u.core = cl && !u.saved
  let fused := (coreOf s core).fused
  !s.retiredClusters.contains cl &&
  (if f.flag 2 || fused then residents.all fun (_, u) => u.launch = launch else true)

/-- Everything of R70 but the place of the register blocks; a task record asks for a warp slot alone. -/
def fitsBut (s : State) (launch : Nat) (f : Frame) (core : Nat) : Bool :=
  let k := coreOf s core
  k.compact.isNone && f.warps ≤ (freeSlots s core).length &&
  if isTask s launch then !s.retiredClusters.contains (clusterOf core)
  else
    clusterTakes s launch f core && (findTiles s core f.tiles).isSome && f.accres ≤ (freeGranules s core).length && shareFor s f core = f.l1w

/-- The unit fits the core (R70). -/
def fits (s : State) (launch : Nat) (f : Frame) (core : Nat) : Bool :=
  fitsBut s launch f core && (storeGrant (usedPages s core) (f.onCore s core)).isSome

/-! ## Compaction (R101, R102) -/

/-- Some thread ejected from a warp still stands in a slot of the pool, late or not. -/
def stillOut (s : State) (core serial : Nat) : Bool := (poolOf s (clusterOf core)).slots.any fun (_, e) => e.core = core && e.serial = serial

/-- Blocks that may move: not pinned, no open ejection, and no late thread that still names the block; kept blocks never move (R101). -/
def movable (s : State) (core : Nat) : List (Nat × Warp) :=
  (coreOf s core).warps.filter fun (_, w) => !w.pinned && w.ejs.isEmpty && !stillOut s core w.serial

/-- The next move: warp slot and new page (R102). -/
def nextMove (s : State) (core : Nat) : Option (Nat × Nat) :=
  let k := coreOf s core
  let used := usedPages s core
  let cands := (movable s core).filterMap fun (i, w) =>
    let n := w.bsize / 16
    match findBlock used (spaceTop k.l1w) n with
    | some p => if p < w.page then some (i, w.page, n, p) else none
    | none => none
  (minBy (fun (_, page, n, _) => (8 - n) * 1000 + page) cands).map fun (i, _, _, p) => (i, p)

/-- Register blocks if every movable block could be moved down as far as compaction takes it. -/
def afterMoves (s : State) (core : Nat) : Nat → List (Nat × Nat) → List (Nat × Nat) → List (Nat × Nat)
  | 0, fixed, mv => fixed ++ mv
  | fuel + 1, fixed, mv =>
    let used := fixed ++ mv
    let top := spaceTop (coreOf s core).l1w
    let c := minBy (fun (x : Nat × Nat × Nat) => (8 - x.2.1) * 1000 + x.1) (mv.filterMap fun (p, n) =>
      match findBlock used top n with
      | some q => if q < p then some (p, n, q) else none
      | none => none)
    match c with
    | none => used
    | some (p, n, q) => afterMoves s core fuel fixed (mv.map fun b => if b = (p, n) then (q, n) else b)

/-- The unit would fit after compaction (R101): the scratchpad run fits as it is, the blocks fit once moved. -/
def fitsCompacted (s : State) (launch : Nat) (f : Frame) (core : Nat) : Bool :=
  let top := spaceTop (coreOf s core).l1w
  let mv := (movable s core).map fun (_, w) => (w.page, w.bsize / 16)
  let fixed := (usedPages s core).filter fun b => !mv.contains b
  fitsBut s launch f core && !mv.isEmpty &&
  let scr := ceilDiv f.scratch 2048
  let run := if scr = 0 then some [] else (findScratch (usedPages s core) top scr).map fun p => [(p, scr)]
  match run with
  | none => false
  | some r => (findBlocks top (blockSize f.regs / 16) f.warps (afterMoves s core 400 (fixed ++ r) mv)).isSome

end Sys2Proof.Machine
end

