-- ==== Sys2Proof/Machine/Post.lean ====
section
/-! DEFINITION. Event rings (R330, R436), event flags, sealed reports (R353, R440, R455) and capture entries (R90). -/

namespace Sys2Proof.Machine

/-- The generation of a live context entry of a function (R331). -/
def ctxGen (s : State) (fn e : Nat) : Option Nat :=
  (s.ctxs.find? fun (_, c) => c.fn = fn && c.entry = e && !c.dying).map (·.1)

/-- Host memory reached without a PASID, as the PF's event ring and blobs are (log 29). -/
def noPasid : Nat := 2 ^ 20

/-- PASID of context entry 0, under which rings are reached (R330, R334); the PF has no context entries (log 29). -/
def ringPasid (s : State) (fn : Nat) : Option Nat :=
  if fn = 0 then some noPasid
  else match ctxGen s fn 0 with
    | some g => (ctxOf s g).map (·.pasid)
    | none => none

/-- The VF whose events a partition posts: the one that runs on it (R352). -/
def partFn (s : State) (part : Nat) : Nat :=
  match (feOf s part).vf with
  | some f => f
  | none => 0

/-- An event that could not be posted (R436). -/
def loseEvent (s : State) (fn : Nat) : State := modFn s fn fun f => { f with evlost := Nat.min (2 ^ 64 - 1) (f.evlost + 1) }

/-- One 16-byte event posted to a function's ring (R330). While the link is down the ring is not written (R437). -/
def postEvent (s : State) (fn kind source data : Nat) : State :=
  let f := fnOf s fn
  let base := f.evrb.toNat / 4096 * 4096
  let size := 2 ^ (f.evrb.toNat % 16 + 4)
  if !s.linkUp then s
  else
    match ringPasid s fn with
    | none => loseEvent s fn
    | some p =>
      if base = 0 ∨ size ≤ f.evrt - f.evrh.toNat then loseEvent s fn
      else
        let word := data % 2 ^ 64 * 2 ^ 64 + source % 65536 * 2 ^ 32 + kind * 65536 + f.evrt % 65536
        modFn (writePlace s (.host p (base + 16 * (f.evrt % size))) (bytesOf 16 word)) fn fun f =>
          { f with evrt := f.evrt + 1 }

/-- A sealed report: kept for OPEN, its handle and size posted to the VF and to the PF (R353). -/
def postReport (s : State) (fn kind gen launch addr pc : Nat) (body : List Byte) : State :=
  let (h, s1) := freshNat s
  let head := bytesOf 2 kind ++ bytesOf 1 gen ++ bytesOf 1 1 ++ bytesOf 4 body.length ++ bytesOf 4 launch ++
    bytesOf 4 (reftick s).toNat ++ bytesOf 8 addr ++ bytesOf 8 pc
  let s2 := { s1 with reports := s1.reports ++ [⟨fn, h, head ++ body⟩] }
  postEvent (if fn = 0 then s2 else postEvent s2 fn 3 (32 + body.length) h) 0 3 (32 + body.length) h

/-- The function of a context. -/
def genFn (s : State) (gen : Nat) : Nat := ((ctxOf s gen).map (·.fn)).getD 0

/-- An event flag of a partition takes a value; a change posts an event of kind 5 (R330). -/
def setEventFlag (s : State) (part flag : Nat) (v : Bool) : State :=
  let fl := (feOf s part).flags
  if fl.toNat.testBit flag = v then s
  else
    let s1 := modFe s part fun f =>
      { f with flags := if v then f.flags ||| BitVec.ofNat 64 (2 ^ flag) else f.flags &&& ~~~ BitVec.ofNat 64 (2 ^ flag) }
    postEvent s1 (partFn s part) 5 0 (flag + if v then 256 else 0)

/-- A trap record of 32 bytes (R375). -/
def trapRecord (t : Trap) : List Byte :=
  bytesOf 8 t.ret.toNat ++ bytesOf 8 t.ipc.toNat ++ bytesOf 8 t.faddr.toNat ++ bytesOf 4 t.word ++ bytesOf 4 t.aux.toNat

/-- An entry of Table 3.8 made now. -/
def captureEntry (s : State) (x : Launch) (kind where_ aux data : Nat) : Nat :=
  (s.now - x.capStart) % 2 ^ 64 * 2 ^ 64 + kind * 2 ^ 56 + where_ % 4096 * 2 ^ 44 + aux % 4096 * 2 ^ 32 + data % 2 ^ 32

/-- Entry `i` of a sealed capture buffer of a function, as the Crucible opens the block of 4 KiB it lies in (R90, R91). -/
def openEntry (s : State) (fn gen buf i : Nat) : Option Nat :=
  let base := buf + i / 256 * 4096
  match vread s gen base 4096 with
  | .ok b => some (fld (Config.openWord (saveKey s (fnOf s fn).keyid) base b) (128 * (i % 256)) 128)
  | .error _ => none

/-- An entry of the buffer of a launch. -/
def Launch.entry (x : Launch) (s : State) (i : Nat) : Option Nat := openEntry s x.fn x.gen x.capbuf i

/-- Entries that the buffer of a launch holds. -/
def Launch.entries (x : Launch) : Nat := x.capsz * 4096

/-- The next entry of the buffer a launch replays (R91). -/
def recorded (s : State) (x : Launch) : Option Nat := x.entry s x.capIdx

/-- The next entry, when it is of a kind and of this cycle. -/
def recordedNow (s : State) (l kind : Nat) : Option Nat :=
  match launchOf s l with
  | none => none
  | some x =>
    match recorded s x with
    | none => none
    | some e => if fld e 56 8 = kind && e / 2 ^ 64 = (s.now - x.capStart) % 2 ^ 64 then some e else none

/-- A recorded decision is not met (R392). -/
def replayMismatch (s : State) (l : Nat) : State :=
  match launchOf s l with
  | none => s
  | some x =>
    haltLaunch s l 0 0 0 { word := cRplmis, aux := BitVec.ofNat 32 x.capIdx, ret := 0, ipc := 0, faddr := 0, lanes := 0 } none

/-- An entry is appended to the capture buffer of a launch (R90): the block of 4 KiB it lies in is sealed anew with it, and the last place
of the buffer takes the entry of KIND 0x0C instead. -/
def appendEntry (s : State) (l : Nat) (x : Launch) (entry : Nat) : State :=
  let full := decide (x.entries ≤ x.capIdx + 1)
  let e := if full then captureEntry s x 0x0C 0 0 x.capIdx else entry
  let plain := (if x.capIdx % 256 = 0 then 0 else x.capBlock) + e * 2 ^ (128 * (x.capIdx % 256))
  let base := x.capbuf + x.capIdx / 256 * 4096
  let s1 := match vwrite s x.gen base (sealBytes 1 (saveKey s (fnOf s x.fn).keyid) base plain 4096) with
    | .ok t => t
    | .error _ => s
  modLaunch s1 l fun y => { y with capIdx := y.capIdx + 1, capFull := full, capBlock := plain }

/-- A decision of a launch is recorded in its capture buffer (R90); a replaying launch checks it against the record (R392). -/
def capture (s : State) (l kind where_ aux data : Nat) : State :=
  match launchOf s l with
  | none => s
  | some x =>
    if x.rply then
      if recorded s x = some (captureEntry s x kind where_ aux data) then modLaunch s l fun y => { y with capIdx := y.capIdx + 1 }
      else replayMismatch s l
    else if !x.capt || x.capFull then s
    else appendEntry s l x (captureEntry s x kind where_ aux data)

/-- Whether a launch replays. -/
def replays (s : State) (l : Nat) : Bool := ((launchOf s l).map (·.rply)).getD false

/-- Launches a decision of a context on a core belongs to: the launch of a unit. -/
def unitLaunchId (s : State) (u : Nat) : Nat := ((unitOf s u).map (·.launch)).getD 0

end Sys2Proof.Machine
end

