-- ==== Sys2Proof/Machine/Clock.lean ====
section
/-! DEFINITION. The vector-clock unit of launches with DETERM set (R80, R138) and its race reports (R427). An agent holds two
vectors: number 2a orders its accesses to SO and RC pages, 2a + 1 those to UN pages (R134); in each, component 2b counts agent b
for SO and RC accesses and 2b + 1 for UN accesses. Releases leave their vector with an object, acquires join it: the object of an event
(a barrier phase, a tile, a record), or one of its own that words and fences carry with the scope and the party of the release (R131,
R133). -/

namespace Sys2Proof.Machine

/-- Agents and objects as numbers: threads, engine commands, barrier phases, `gbar` phases, tiles, lines, records. -/
def agThread (unit lthr : Nat) : Nat := 16 * (unit * 1024 + lthr)
def agCmd (c : Nat) : Nat := 16 * c + 1
def obBar (unit b phase : Nat) : Nat := 16 * ((unit * 512 + b) * 2 ^ 24 + phase) + 2
def obGbar (launch phase : Nat) : Nat := 16 * (launch * 2 ^ 24 + phase) + 3
def obTile (unit t : Nat) : Nat := 16 * (unit * 256 + t) + 4
def obLine (line : Nat) : Nat := 16 * line + 5
def obRecord (launch : Nat) : Nat := 16 * launch + 6
/-- Object of a completion counter: a unit's belongs to its launch, another one to its function (R55, R454). -/
def obCount (owner : Nat) (h : Word) : Nat := 16 * (owner * 2 ^ 32 + h.toNat) + 15

def lthrOf (s : State) (g : Gid) (lane : Nat) : Nat := ((thrOf s g lane).map (·.lthr)).getD 0
/-- The agent of a lane of a group. -/
def agentOf (s : State) (v : View) (lane : Nat) : Nat := agThread v.unit (lthrOf s v.gid lane)

def clockAt (s : State) (vec comp : Nat) : Nat :=
  tabGetD (vec * 2 ^ 100 + comp) (if vec / 2 = comp / 2 ∧ vec % 16 < 4 then 1 else 0) s.clocks

def setClock (s : State) (vec comp n : Nat) : State := { s with clocks := tabPut (vec * 2 ^ 100 + comp) n s.clocks }

/-- One vector joined into another. -/
def joinClock (s : State) (dst src : Nat) : State :=
  (s.clocks.filter fun e => e.1 / 2 ^ 100 = src).foldl (fun a e =>
    let c := e.1 % 2 ^ 100
    if clockAt a dst c < e.2 then setClock a dst c e.2 else a) s

/-- What was released into one object is released into another one too. -/
def joinObject (s : State) (dst src : Nat) : State := joinClock s (2 * dst) (2 * src)

def isDeterm (s : State) (u : Nat) : Bool := (unitFrame s u).flag 0

/-- Whether the vector-clock unit follows the synchronisation of a unit: its launch has DETERM set, or another one has, whose accesses
the unit may order (R134). -/
def clocksOn (s : State) (u : Nat) : Bool := isDeterm s u || s.launches.any fun (_, l) => l.frame.any fun f => f.flag 0

/-- A release by an agent into an object; `all` for a release that orders every page kind (R134). -/
def release (s : State) (u agent ob : Nat) (all : Bool) : State :=
  if !clocksOn s u then s
  else
    let (rc, un) := (clockAt s (2 * agent) (2 * agent), clockAt s (2 * agent) (2 * agent + 1))
    let s1 := joinClock s (2 * ob) (2 * agent)
    let s2 := setClock s1 (2 * ob) (2 * agent) (Nat.max rc (clockAt s1 (2 * ob) (2 * agent)))
    let s3 := if all then setClock (joinClock s2 (2 * ob) (2 * agent + 1)) (2 * ob) (2 * agent + 1) un else s2
    let s4 := setClock s3 (2 * agent) (2 * agent) (rc + 1)
    if all then setClock s4 (2 * agent) (2 * agent + 1) (un + 1) else s4

/-- An acquire by an agent from an object. -/
def acquire (s : State) (u agent ob : Nat) (all : Bool) : State :=
  if !clocksOn s u then s
  else
    let s1 := joinClock s (2 * agent) (2 * ob)
    if all then joinClock s1 (2 * agent + 1) (2 * ob) else s1

def releaseLanes (s : State) (v : View) (ob : Nat) (all : Bool) : State :=
  v.act.foldl (fun a l => release a v.unit (agentOf s v l) ob all) s
def acquireLanes (s : State) (v : View) (ob : Nat) (all : Bool) : State :=
  v.act.foldl (fun a l => acquire a v.unit (agentOf s v l) ob all) s

/-! ## Releases that words and fences carry (R133) -/

/-- Object of a word of memory, of the release fences, the reads and the `fence.sc` order of an agent or launch, and of one release. -/
def obWord (key : Nat) : Nat := 16 * (key / 4) + 8
def obFence (agent : Nat) : Nat := 16 * agent + 9
def obReads (agent : Nat) : Nat := 16 * agent + 10
def obRel (n : Nat) : Nat := 16 * n + 14

def relsAt (s : State) (ob : Nat) : List Rel := s.rels.filter fun r => r.at_ = ob

/-- What an object carries is forgotten. -/
def dropRels (s : State) (ob : Nat) : State := { s with rels := s.rels.filter fun r => r.at_ != ob }

/-- One object carries what another one does, besides its own. -/
def carryRels (s : State) (dst src : Nat) : State :=
  { s with rels := s.rels ++ (relsAt s src).filterMap fun r =>
      if s.rels.any fun q => q.at_ = dst && q.obj = r.obj then none else some { r with at_ := dst } }

/-- A release of an agent at a scope, carried by an object. -/
def releaseAt (s : State) (u agent at_ scope : Nat) (by_ : Party) (all : Bool) : State :=
  if !clocksOn s u then s
  else
    let (n, s1) := freshNat s
    release { s1 with rels := s1.rels ++ [⟨at_, scope, by_, obRel n⟩] } u agent (obRel n) all

/-- An acquire by an agent of the releases that an object carries and that are inclusive with it (R131). -/
def acquireAt (s : State) (u agent at_ : Nat) (ok : Rel → Bool) (all : Bool) : State :=
  if !clocksOn s u then s
  else ((relsAt s at_).filter ok).foldl (fun a r => acquire a u agent r.obj all) s

/-- Objects of the words that some bytes touch. -/
def wordsIn (key n : Nat) : List Nat := dedup ((List.range n).map fun i => obWord (key + i))

/-- A plain write: its words carry the release fences of the agent before it and nothing else. -/
def clockWrite (s : State) (u agent key n : Nat) : State :=
  if !clocksOn s u then s
  else (wordsIn key n).foldl (fun a w => carryRels (dropRels a w) w (obFence agent)) s

/-- A read: what it saw is ready for an acquire fence. -/
def clockRead (s : State) (u agent key n : Nat) : State :=
  if !clocksOn s u then s
  else (wordsIn key n).foldl (fun a w => carryRels a (obReads agent) w) s

/-! ## Race reports (R427) -/

/-- 24 bytes of an access in a race report (Table 17.7). -/
def raceRecord (a : RaceAcc) : List Byte :=
  bytesOf 8 a.pc.toNat ++ bytesOf 8 a.addr ++ bytesOf 4 a.lid ++ bytesOf 1 a.lane ++ bytesOf 1 (if a.kind = 5 then 3 else a.kind) ++ bytesOf 2 0

/-- One race of a launch: the first 64 are reported (R427). -/
def reportRace (s : State) (l : Nat) (a b : RaceAcc) : State :=
  match launchOf s l with
  | none => s
  | some x =>
    let s1 := modLaunch s l fun y => { y with races := Nat.min (2 ^ 32 - 1) (y.races + 1) }
    if 64 ≤ x.races then s1
    else postReport s1 x.fn 2 x.gen x.handle.toNat b.addr b.pc.toNat (raceRecord a ++ raceRecord b ++ bytesOf 8 0)

/-- Kinds of access that only read: a load, and the read of an engine, which is reported as an engine access. -/
def readsOnly (kind : Nat) : Bool := kind == 0 || kind == 5

/-- A global access of a DETERM launch is compared with the accesses before it (R138). What it and `mates` do are accesses of one agent. -/
def raceCheck (s : State) (u agent pc_ lid lane kind addr key len : Nat) (un : Bool) (mates : List Nat := []) : State :=
  if !isDeterm s u then s
  else
    let l := unitLaunchId s u
    let comp := 2 * agent + if un then 1 else 0
    let x : RaceAcc :=
      { launch := l, agent := comp, clock := clockAt s (2 * agent) comp, addr := addr, key := key, len := len, kind := kind,
        pc := BitVec.ofNat 48 pc_, lid := lid, lane := lane, mates := mates }
    let view := 2 * agent + if un then 1 else 0
    let races := s.raceLog.filter fun y =>
      y.launch = l && y.agent / 2 != agent && !mates.contains (y.agent / 2) && !y.mates.contains agent && y.key < key + len && key < y.key + y.len &&
      !(readsOnly y.kind && readsOnly kind) && !(y.kind = 4 && kind = 4) && clockAt s view y.agent < y.clock
    let s1 := races.foldl (fun a y => reportRace a l y x) s
    { s1 with raceLog := (s1.raceLog.filter fun y =>
        !(y.agent = comp && y.addr = addr && y.key = key && y.len = len && y.kind = kind && y.clock = x.clock)) ++ [x] }

end Sys2Proof.Machine
end

