-- ==== Sys2Proof/Machine/Work.lean ====
section
/-! DEFINITION. Levels of work: handles (R222, R454), records and hearth rings (R60-R68), completion of units, launches,
graphs, phases and jobs (R54, R63), cancellation (R56, R383). -/

namespace Sys2Proof.Machine

/-! ## Handles (R222, R341, R454) -/

def mkHandle (level inst : Nat) : Word := BitVec.ofNat 32 (level % 8 * 2 ^ 29 + inst % 2 ^ 29)
def handleLevel (h : Word) : Nat := fld h.toNat 29 3
def handleInst (h : Word) : Nat := fld h.toNat 0 29
/-- The queue in INST [28:25] of a handle of levels 1 to 3; a job's INST is its queue. -/
def handleQueue (h : Word) : Nat := if handleLevel h = 4 then handleInst h else fld h.toNat 25 4
def jobHandle (q : Nat) : Word := mkHandle 4 q
/-- Launch handle of packet i of queue q. -/
def packetLaunchHandle (q i : Nat) : Word := mkHandle 1 (q * 2 ^ 25 + i % 2 ^ 24)
/-- Launch handle of the s-th record pushed by `spawn` or a graph in a job. -/
def memberLaunchHandle (q n : Nat) : Word := mkHandle 1 (q * 2 ^ 25 + 2 ^ 24 + n % 2 ^ 24)
def graphHandle (q i : Nat) : Word := mkHandle 2 (q * 2 ^ 25 + i % 2 ^ 25)
def phaseHandle (q n : Nat) : Word := mkHandle 3 (q * 2 ^ 25 + n % 2 ^ 25)

def cqOf (s : State) (fn q : Nat) : Cq := tabGetD q Cq.reset (fnOf s fn).cqs
def modCq (s : State) (fn q : Nat) (f : Cq → Cq) : State :=
  modFn s fn fun x => { x with cqs := tabPut q (f (tabGetD q Cq.reset x.cqs)) x.cqs }

/-- Graph, phase or job with a handle. -/
def instOf (s : State) (fn : Nat) (h : Word) : Option Inst := s.insts.find? fun i => i.fn = fn && i.handle = h
def modInst (s : State) (fn : Nat) (h : Word) (f : Inst → Inst) : State :=
  { s with insts := s.insts.map fun i => if i.fn = fn && i.handle = h then f i else i }

/-- An instance ends: among the last 1,024 of its level in the job it is remembered with its status (R454). -/
def rememberEnd (s : State) (fn : Nat) (h : Word) (status : Nat) : State :=
  let same (e : Word × Nat × Nat) : Bool :=
    e.2.1 == fn && handleLevel e.1 == handleLevel h && handleQueue e.1 == handleQueue h
  let others := s.ended.filter fun e => !(e.2.1 == fn && e.1 == h)
  let trimmed := if (others.filter same).length < 1024 then others
    else match others.find? same with
      | some o => others.filter fun e => e != o
      | none => others
  { s with ended := trimmed ++ [(h, fn, status)] }

/-- A member of a graph, phase or job has ended; an instance with no member left that is closed ends too (R54). -/
def memberDone (fuel : Nat) (s : State) (fn : Nat) (h : Word) (status : Nat) : State :=
  match fuel with
  | 0 => s
  | k + 1 =>
    let s1 := modInst s fn h fun i =>
      { i with count := i.count - 1, status := if status = 3 && handleLevel h = 2 && i.status != 2 then 3 else i.status }
    match instOf s1 fn h with
    | none => s1
    | some i =>
      if i.count = 0 && i.closed then
        let st := if i.status = 0 then 1 else i.status
        let s2 := rememberEnd { s1 with insts := s1.insts.filter fun j => !(j.fn = fn && j.handle = h) } fn h st
        let s3 := if handleLevel h = 2 then
            schedule s2 s2.now .packetComplete (.of [fn, handleQueue h, handleInst h % 2 ^ 25])
          else s2
        if handleLevel h = 4 then s3 else memberDone k (joinObject s3 (obCount fn i.parent) (obCount fn h)) fn i.parent 1
      else s1

/-- An instance is closed: it ends at once when no member is left. -/
def closeInst (s : State) (fn : Nat) (h : Word) : State :=
  memberDone 4 (modInst s fn h fun i => { i with closed := true, count := i.count + 1 }) fn h 1

/-- The instance that counts a launch as a member: its graph, or its phase (Table 2.4). -/
def Launch.owner (l : Launch) : Word := match l.graph with | some g => g | none => l.phase

/-- The packet index of a graph or launch is kept modulo; the packet in hand with that residue. -/
def packetOfIndex (s : State) (fn q r m : Nat) : Option Nat :=
  ((cqOf s fn q).taken.find? fun (i, _) => i % m = r).map (·.1)

/-- A launch completes (R54, R61): its ring slot and handle entry are free again, its packet completes, its parent's JOIN
is decremented unless it faulted (R63, R378), and its graph or phase loses a member. Status 1 complete, 2 cancelled,
3 faulted. -/
def launchDone (s : State) (l status : Nat) : State :=
  match launchOf s l with
  | none => s
  | some x =>
    if x.status != 0 then s
    else
      let s1 := capture s l 0x0B 0 0 status
      let s2 := modLaunch s1 l fun y => { y with status := status }
      let s3 := modFe s2 x.part fun f =>
        { f with rings := tabMod x.hq (fun (t, used) => (t, used.filter (· != x.ringIdx))) f.rings
                 hsets := f.hsets.filter (· != x.hset) }
      let s4 := match x.pkt with
        | some i => schedule s3 s3.now .packetComplete (.of [x.fn, x.queue, i])
        | none => s3
      let s5 := schedule s4 s4.now .joinDecrement (.of [l])
      let s6 := if x.races ≤ 64 then s5
        else postReport s5 x.fn 2 x.gen x.handle.toNat 0 0 (List.replicate 48 0 ++ bytesOf 4 x.races ++ bytesOf 4 0)
      memberDone 4 (joinObject (rememberEnd s6 x.fn x.handle status) (obCount x.fn x.owner) (obCount x.fn x.handle)) x.fn x.owner status

/-- A cluster that no unit is resident on stops being fused (R107). -/
def unfuse (s : State) (cl : Nat) : State :=
  if s.units.any fun (_, u) => clusterOf u.core = cl && !u.saved then s
  else (List.range 24).foldl (fun a i =>
    if (coreOf a (cl * 24 + i)).fused then modCore a (cl * 24 + i) fun k => { k with fused := false, l1 := [], l1w := 0 }
    else a) s

/-- The group of the schedule table a cluster lies in (R75). -/
def schedGroup (s : State) (part cl : Nat) : Option Nat :=
  let fe := feOf s part
  let rel := cl - (partEntry s part).cbase
  (List.range (fld fe.sched 8 8)).find? fun g =>
    let e := fld fe.sched (64 + 16 * g) 16
    fld e 8 6 ≤ rel && rel < fld e 8 6 + fld e 0 6

/-- A unit ends (R54, R97, R110): everything granted to it is free again. -/
def unitDone (s : State) (u : Nat) : State :=
  match unitOf s u with
  | none => s
  | some x =>
    let s1 := modCore { s with units := tabDel u s.units } x.core fun k =>
      { k with lease := if k.lease = some u then none else k.lease
               leaseQ := k.leaseQ.filter fun e => e.unit != u
               elq := k.elq.filter fun e => e.unit != u
               tiles := k.tiles.filter fun (i, _) => !(x.tileBase ≤ i && i < x.tileBase + x.ntiles)
               tsets := k.tsets.filter fun (_, i, _) => !(x.tileBase ≤ i && i < x.tileBase + x.ntiles)
               warps := k.warps.filter fun (_, w) => w.unit != u }
    let s2 := unfuse s1 (clusterOf x.core)
    let gen := unitGen s u
    let s3 := modCtx s2 gen fun c => { c with images := c.images.filter fun (_, v, _, _) => v != u }
    let part := unitPart s u
    let s4 := match schedGroup s3 part (clusterOf x.core) with
      | some g => modFe s3 part fun f =>
          { f with groups := tabPut g (let (_, n, p) := tabGetD g (0, 0, 0) f.groups; (s.now - f.phaseAt, n + 1, p)) f.groups }
      | none => s3
    let s5 := modLaunch s4 x.launch fun l =>
      { l with unitsLeft := l.unitsLeft - 1
               owned := l.owned ++ (x.own.filter fun o => o.until_.isNone).map fun o => (x.lid, o.base, o.len) }
    match launchOf s5 x.launch with
    | none => s5
    | some l =>
      let s6 := joinObject s5 (obCount l.fn l.handle) (obCount x.launch (mkHandle 0 x.lid))
      if l.unitsLeft = 0 then launchDone s6 x.launch (if l.cancelled then 2 else 1) else s6

/-- Threads of a unit end: its completion counter and that of its launch fall (R54). -/
def threadsDone (s : State) (u n : Nat) : State :=
  let s1 := modUnit s u fun x => { x with left := x.left - n }
  let s2 := modLaunch s1 (unitLaunchId s u) fun l => { l with threadsLeft := l.threadsLeft - n }
  match unitOf s2 u with
  | some x => if x.left = 0 then unitDone s2 u else s2
  | none => s2

/-! ## Records and rings (R60, R67, R68, R340) -/

/-- Word 0 and word 1 of a hearth queue descriptor (Table 12.2). -/
def hqdWord (s : State) (fn h j : Nat) : Nat := (tabGetD (2 * h + j) 0 (fnOf s fn).hqd).toNat

/-- Records of a ring: 2^q. -/
def ringSize (s : State) (fn h : Nat) : Nat := 2 ^ (hqdWord s fn h 0 % 32)
def ringBase (s : State) (fn h : Nat) : Nat := hqdWord s fn h 0 / 4096 * 4096

/-- The queue is set up (R67), the next `n` slots at the tail are free, and so are `n` entries of the handle table (R340, R454). -/
def ringFree (s : State) (part fn h n : Nat) : Bool :=
  let fe := feOf s part
  let (t, used) := tabGetD h (0, []) fe.rings
  6 ≤ hqdWord s fn h 0 % 32 && n ≤ ringSize s fn h && fe.hsets.length + n ≤ 1024 &&
  (List.range n).all fun i => !used.contains ((t + i) % ringSize s fn h)

/-- What a push takes from its source. -/
structure Push where
  fn : Nat
  gen : Nat
  queue : Nat
  handle : Word
  graph : Option Word
  phase : Word
  pkt : Option Nat
  spawned : Bool
  capbuf : Nat
  capsz : Nat
  capt : Bool
  rply : Bool
deriving DecidableEq, Repr

/-- A record image pushed at the tail of a hearth ring with its SEQ and HSET (R68, R221, R454); the record forms a
launch of its own. Answers the ring address too. -/
def pushRecord (s : State) (part h : Nat) (image : Nat) (p : Push) : State × Nat :=
  let fe := feOf s part
  let (t, used) := tabGetD h (0, []) fe.rings
  let idx := t % ringSize s p.fn h
  let addr := ringBase s p.fn h + 32 * idx
  let hset := ((List.range 1024).find? fun e => !fe.hsets.contains e).getD 0
  let (l, s1) := freshNat s
  let img := image - fld image 48 10 * 2 ^ 48 - fld image 160 32 * 2 ^ 160 + hset * 2 ^ 48 + fe.seq % 2 ^ 32 * 2 ^ 160
  let s2 := vput s1 p.gen addr 32 img
  let s3 := modFe s2 part fun f =>
    { f with seq := (f.seq + 1) % 2 ^ 32, rings := tabPut h (t + 1, used ++ [idx]) f.rings, hsets := f.hsets ++ [hset] }
  let x : Launch :=
    { handle := p.handle, part := part, gen := p.gen, fn := p.fn, queue := p.queue, pkt := p.pkt, spawned := p.spawned,
      graph := p.graph, phase := p.phase, hq := h, ringIdx := idx, recAddr := addr, hset := hset, seq := fe.seq,
      pri := fld image 60 3, task := bit image 63, code := fld image 0 48, frameAddr := fld image 64 48,
      parent := fld image 192 64, frame := none, nextUnit := 0, owned := [], skipped := [], unitsLeft := 1, status := 0, cancelled := false,
      victim := false, garr := 0, gphase := 0, threadsLeft := 0, fatal := none, capbuf := p.capbuf, capsz := p.capsz,
      capt := p.capt, rply := p.rply, capStart := s.now, capIdx := 0, capFull := false, capBlock := 0, races := 0, hosts := [] }
  ({ s3 with launches := tabPut l x s3.launches }, addr)

/-- The JOIN field of a record in its ring (R62). -/
def joinOf (s : State) (x : Launch) : Nat := (vnat s x.gen (x.recAddr + 16) 4).getD 0

/-- Older than another record (R68). -/
def olderSeq (a b : Nat) : Bool := let d := (b + 2 ^ 32 - a) % 2 ^ 32; 1 ≤ d && d ≤ 0x7FFFFFFF

/-! ## Cancellation (R56, R383) -/

/-- Ejected threads of a unit stop and their slots are free. -/
def dropEjected (s : State) (u : Nat) : State × Nat :=
  s.pools.foldl (fun (a, n) (cl, p) =>
    let mine := p.slots.filter fun (_, e) => e.unit = u
    if mine.isEmpty then (a, n)
    else
      let a1 := modPool a cl fun q => { q with slots := q.slots.filter fun (_, e) => e.unit != u }
      (mine.foldl (fun b (_, e) => modWarp b e.core e.wslot fun w =>
        if w.serial = e.serial then
          { modLane w e.lane (fun l => { l with st := .vacant, thr := none }) with
            ejs := w.ejs.map fun j => { j with mask := j.mask &&& ~~~ maskOf [e.lane] } }
        else w) a1, n + mine.length)) (s, 0)

/-- Binned and staged threads of a unit are removed. -/
def dropBinned (s : State) (u core : Nat) : State × Nat :=
  let k := coreOf s core
  let n := ((k.bins.filter fun (_, b) => b.unit = u).map fun (_, b) => b.threads.length).sum +
    (k.staging.filter fun t => t.unit = u).length
  (modCore s core fun k => { k with bins := k.bins.filter fun (_, b) => b.unit != u
                                    staging := k.staging.filter fun t => t.unit != u }, n)

/-- The elastic requests of a unit leave their queue, and their slots return (R389). -/
def dropElastic (s : State) (u core : Nat) : State :=
  ((coreOf s core).elq.filter fun e => e.unit = u).foldl (fun a e =>
    match tabGet e.req a.reqs with
    | some q =>
      let b := { a with reqs := tabDel e.req a.reqs }
      match q.slot with
      | some n => slotSub b q.gid n
      | none => b
    | none => a)
    (modCore s core fun k => { k with elq := k.elq.filter fun e => e.unit != u })

/-- Whether a warp stands at a switch marker waiting for something that cancellation ends (R56, R383). -/
def waitsAtMarker : Status → Bool
  | .waiting .. | .barrier .. | .rejoin _ _ _ _ _ none | .idle => true
  | _ => false

/-- A unit is cancelled. Its warps stop at their next switch marker; one that waits at a marker stops there, and one whose write-back is under
way as that ends (R383). -/
def cancelUnit (s : State) (u : Nat) : State :=
  match unitOf s u with
  | none => s
  | some x =>
    if x.cancelled then s
    else
      let s1 := modUnit s u fun y => { y with cancelled := true }
      let (s2, n) := dropEjected s1 u
      let (s3, m) := dropBinned s2 u x.core
      let s4 := modCore (dropElastic s3 u x.core) x.core fun k =>
        { k with lease := if k.lease = some u then none else k.lease
                 leaseQ := k.leaseQ.filter fun e => e.unit != u
                 warps := k.warps.map fun (i, w) =>
                   if w.unit = u && waitsAtMarker w.run.status then
                     (i, { w with run := { w.run with status := .parked .exit } }) else (i, w) }
      let s5 := { s4 with pageReqs := s4.pageReqs.filter fun (_, q) =>
                    !((warpOf s4 q.core q.wslot).any fun w => w.serial = q.serial && w.unit = u) }
      threadsDone (modUnit s5 u fun y => { y with scrPages := 0 }) u (n + m)

/-- A launch is cancelled: units not yet placed count as ended. A launch that halts fatally completes faulted
(Table 15.4). -/
def cancelLaunch (s : State) (l : Nat) : State :=
  match launchOf s l with
  | none => s
  | some x =>
    if x.status != 0 || x.cancelled || x.fatal.isSome then s
    else
      let placed := (s.units.filter fun (_, u) => u.launch = l).map (·.1)
      let s1 := modLaunch s l fun y => { y with cancelled := true, unitsLeft := placed.length }
      if placed.isEmpty then launchDone s1 l 2 else placed.foldl cancelUnit s1

/-- Launches at or below an instance. -/
def launchesUnder (s : State) (fn : Nat) (h : Word) : List Nat :=
  (s.launches.filter fun (_, l) => l.fn = fn && l.status = 0 &&
    (l.handle = h || l.graph = some h || l.phase = h || (handleLevel h = 4 && l.queue = handleInst h))).map (·.1)

/-- `cancel` of a handle of levels 1 to 4 of a function (R56). -/
def cancelHandle (s : State) (fn : Nat) (h : Word) : State :=
  let below (i : Inst) : Bool :=
    i.fn = fn && (i.handle = h || i.parent = h || (handleLevel h = 4 && handleQueue i.handle = handleInst h))
  (launchesUnder s fn h).foldl cancelLaunch
    { s with insts := s.insts.map fun i => if below i then { i with status := 2 } else i }

/-! ## Status of a handle (R339, R454) -/

/-- The next index a job will give for a kind of handle, and its modulus. -/
def nextIndex (s : State) (fn : Nat) (h : Word) : Nat × Nat × Nat :=
  let q := handleQueue h
  let c := cqOf s fn q
  match handleLevel h with
  | 1 => if bit (handleInst h) 24 then (handleInst h % 2 ^ 24, c.spawned, 2 ^ 24) else (handleInst h % 2 ^ 24, c.head, 2 ^ 24)
  | 2 => (handleInst h % 2 ^ 25, c.head, 2 ^ 25)
  | _ => (handleInst h % 2 ^ 25, c.phases + 1, 2 ^ 25)

/-- Not yet created: at or ahead of the next index by less than half the modulus. -/
def notCreated (s : State) (fn : Nat) (h : Word) : Bool :=
  let (i, n, m) := nextIndex s fn h
  handleLevel h != 4 && decide ((i + m - n % m) % m < m / 2)

/-- Completion counter and status of a handle of a function: 0 running, 1 complete, 2 cancelled, 3 faulted. -/
def handleState (s : State) (fn : Nat) (h : Word) : Nat × Nat :=
  let live : Option (Nat × Nat) :=
    if handleLevel h = 1 then
      (s.launches.find? fun (_, l) => l.fn = fn && l.handle = h && l.status = 0).map fun (_, l) =>
        (l.unitsLeft, if l.cancelled then 2 else 0)
    else (instOf s fn h).map fun i => (i.count + if i.closed then 0 else 1, if i.status = 2 then 2 else 0)
  match live with
  | some r => r
  | none =>
    if notCreated s fn h then (1, 0)
    else match s.ended.find? fun e => e.1 = h && e.2.1 = fn with
      | some (_, _, st) => (0, st)
      | none => (0, 1)

/-! ## The order of units (R61, R79) -/

/-- Logical cores in each group that DETERM placement takes in turn: P of them, or one when GBAR is set too. -/
def groupWidth (f : Frame) (hosts : List Nat) : Nat := if f.flag 1 then 1 else Nat.max 1 hosts.length

/-- The k-th unit of a DETERM launch, from group `r` on. -/
def detUnit (f : Frame) (p : Nat) : Nat → Nat → Nat → Nat
  | 0, _, _ => 0
  | fuel + 1, r, k =>
    let w := Nat.min p (f.lcores - r * p)
    let whole := f.units / f.lcores
    let part := Nat.min w (f.units % f.lcores - r * p)
    if k < whole * w + part then k / w * f.lcores + r * p + k % w else detUnit f p fuel (r + 1) (k - (whole * w + part))

/-- The unit a launch places as its k-th. -/
def unitAt (f : Frame) (hosts : List Nat) (k : Nat) : Nat :=
  if f.flag 0 then detUnit f (groupWidth f hosts) f.lcores 0 k else k

/-- The place of a unit in that order. -/
def orderOf (f : Frame) (hosts : List Nat) (lid : Nat) : Nat :=
  if f.flag 0 then
    let p := groupWidth f hosts
    let r := lid % f.lcores / p
    let before := f.units / f.lcores * (r * p) + Nat.min (f.units % f.lcores) (r * p)
    before + lid / f.lcores * Nat.min p (f.lcores - r * p) + (lid % f.lcores - r * p)
  else lid

/-- Whether a launch has placed a unit. -/
def Launch.hasPlaced (l : Launch) (lid : Nat) : Bool :=
  match l.frame with
  | some f => orderOf f l.hosts lid < l.nextUnit
  | none => false

/-- The next place, from the k-th on, whose unit has not been cancelled. -/
def nextFrom (f : Frame) (hosts skipped : List Nat) : Nat → Nat → Nat
  | 0, k => k
  | fuel + 1, k => if k < f.units && skipped.contains (unitAt f hosts k) then nextFrom f hosts skipped fuel (k + 1) else k

/-- A launch goes on to its next unit, its k-th or a later one. -/
def Launch.goTo (l : Launch) (k : Nat) : Launch :=
  match l.frame with
  | some f => { l with nextUnit := nextFrom f l.hosts l.skipped l.skipped.length k }
  | none => l

/-- State of a handle as a thread of a launch names it: a unit handle lies in the launch (R454). -/
def handleStateIn (s : State) (launch : Nat) (h : Word) : Nat × Nat :=
  match launchOf s launch with
  | none => (0, 1)
  | some l =>
    if handleLevel h = 0 then
      match s.units.find? fun (_, u) => u.launch = launch && u.lid = handleInst h with
      | some (_, u) => (u.left, if u.cancelled then 2 else 0)
      | none =>
        if l.skipped.contains (handleInst h) then (0, 2)
        else if l.hasPlaced (handleInst h) then (0, if l.cancelled then 2 else 1) else (1, 0)
    else handleState s l.fn h

end Sys2Proof.Machine
end

