-- ==== Sys2Proof/Machine/Paths.lean ====
section
/-! DEFINITION. Divergence: filing into bins and draws (R47-R50, R205, R386), split entries (R44, R45, R219), holds at barriers
and their release (R218, R219), ejected threads and rejoin (R36-R43), exit and retirement (R210, R213). -/

namespace Sys2Proof.Machine

/-- A trap is being entered: a halt lets the entry complete (Table 15.4). -/
def enteringTrap (r : Run) : Bool :=
  match r.status with
  | .parked (.trap ..) => true
  | _ => false

/-- The unit of a group is halted with its context (R82). -/
def unitHalted (s : State) (v : View) : Bool := ((unitOf s v.unit).map (·.halted)).getD false && !enteringTrap v.run

/-- What a group is doing. -/
def statusOf (s : State) (g : Gid) : Option Status := (view s g).map (·.run.status)

/-! ## Lanes of a warp -/

def setLanes (w : Warp) (ls : List Nat) (st : LaneState) : Warp :=
  { w with lanes := w.lanes.mapIdx fun i x => if ls.contains i then { x with st := st } else x }
def vacateLanes (w : Warp) (ls : List Nat) : Warp :=
  { w with lanes := w.lanes.mapIdx fun i x => if ls.contains i then { x with st := .vacant, thr := none } else x }
def lanesAt (w : Warp) (st : LaneState) : List Nat := lanesIn w (· == st)
/-- Lanes whose thread is on the core: held and not ejected. -/
def homeLanes (w : Warp) : List Nat := lanesIn w fun st => st != .vacant && st != .ejected

/-- The next issue of a transfer issued with the instruction before `nextAt` (R202). -/
def transferAt (r : Run) : Nat := r.nextAt + 3

/-- Lanes that become the running path at an address, its first instruction in the given cycle at the earliest. -/
def wakeLanes (s : State) (c w : Nat) (ls : List Nat) (pc : Pc) (since : Nat) : State :=
  startRun (modWarp s c w fun x => { setLanes x ls .running with pc := pc }) (.warp c w) since

/-- A path resumes (R45), and the spin count is zero (R51). -/
def runLanes (s : State) (c w : Nat) (ls : List Nat) (pc : Pc) (since : Nat) : State :=
  wakeLanes (modWarp s c w fun x => { x with spin := 0 }) c w ls pc since

/-! ## Filing (R48, R205) -/

/-- A word of the home block with the call-stack writes still to land (R206). -/
def heldWord (s : State) (core : Nat) (pend : List Pend) (addr : Nat) : Word :=
  let later := pend.filterMap fun p =>
    match p.w with
    | .stack a v => if a = addr && s.now < p.due then some v else none
    | _ => none
  match later.getLast? with
  | some v => v
  | none => (coreOf s core).store.word addr

/-- Live count of a thread that holds `d` call frames (R205). -/
def liveWith (regs d live : Nat) : Nat := if d = 0 then live else Nat.max live (regs + 1 + 2 * d)

/-- The words of a filed thread that are not 0. -/
def wordsOf (n : Nat) (f : Nat → Word) : Tab Word :=
  (List.range n).filterMap fun i => if f i = 0 then none else some (i, f i)

/-- A lane of a warp as it is filed with a live count. -/
def fileLane (s : State) (c : Nat) (w : Warp) (live lane : Nat) : Option Filed :=
  match (w.lanes[lane]?).bind (·.thr) with
  | none => none
  | some t =>
    let regs := (unitFrame s w.unit).regs
    let d := if regs < w.bsize then fld (heldWord s c w.run.pend (regAddr w.page regs lane)).toNat 0 4 else 0
    let n := liveWith regs d live
    let bad := (coreOf s c).storePoison
    some ⟨t, wordsOf (Nat.min n w.bsize) fun i => heldWord s c w.run.pend (regAddr w.page i lane),
      if bad.isEmpty then [] else (List.range (Nat.min n w.bsize)).filter fun i => bad.contains (regAddr w.page i lane), n,
      w.run.deferred.filter (·.seen)⟩

/-- A staged thread finds a place: in the open bin of its key that is not full, or in a free bin (R48). -/
def placeStaged (s : State) (core : Nat) (t : Staged) : State :=
  let k := coreOf s core
  match k.bins.find? fun (_, b) => b.unit = t.unit && b.pc = t.pc && b.threads.length < 32 with
  | some (i, _) => modCore s core fun x => { x with bins := tabMod i (fun b => { b with threads := b.threads ++ [t.thr] }) x.bins }
  | none =>
    match (List.range 32).find? fun i => (tabGet i k.bins).isNone with
    | none => modCore s core fun x => { x with staging := x.staging ++ [t] }
    | some i =>
      let (n, s1) := freshNat s
      modCore s1 core fun x => { x with bins := tabPut i ⟨t.unit, t.pc, [t.thr], s.now, false, n⟩ x.bins }

/-- Every staged thread is offered a place, in order (R48). -/
def settle (s : State) (core : Nat) : State :=
  let l := (coreOf s core).staging
  if l.isEmpty then s else l.foldl (fun a t => placeStaged a core t) (modCore s core fun x => { x with staging := [] })

/-- Threads filed at their own addresses, ascending by lane (R48, R208). -/
def stageAll (s : State) (core : Nat) (l : List Staged) : State :=
  settle (modCore s core fun x => { x with staging := x.staging ++ l }) core

/-- Staging takes `n` more threads (R386). -/
def stagingRoom (s : State) (core n : Nat) : Bool := (coreOf s core).staging.length + n ≤ 128

/-- Lanes of a warp leave it for the bins of its core; each item names lane, target and live count. -/
def fileLanes (s : State) (c w : Nat) (items : List (Nat × Pc × Nat)) : State :=
  match warpOf s c w with
  | none => s
  | some x =>
    let l := (sortBy (·.1) items).filterMap fun (lane, pc, live) =>
      (fileLane s c x live lane).map fun f => (⟨x.unit, pc, f⟩ : Staged)
    stageAll (modWarp s c w fun y => vacateLanes y (items.map (·.1))) c l

/-! ## Retirement (R43, R210) -/

/-- Ejected threads whose home warp has a serial number. -/
def ejectedOf (s : State) (core serial : Nat) : List (Nat × Ejected) :=
  (poolOf s (clusterOf core)).slots.filter fun (_, e) => e.serial = serial

/-- A warp gives up its slot; its block stays while threads of it are ejected (R210). -/
def retireWarp (s : State) (c w : Nat) : State :=
  match warpOf s c w with
  | none => s
  | some x =>
    let s1 := modCore s c fun k =>
      { k with warps := tabDel w k.warps
               quads := k.quads.map fun q => if q.holder = some w then { q with holder := none } else q }
    if (ejectedOf s c x.serial).isEmpty then s1
    else modUnit s1 x.unit fun u => { u with kept := u.kept ++ [(x.serial, x.page, x.bsize / 16)] }

/-- A kept block is freed with its last ejected thread. -/
def releaseKept (s : State) (unit core serial : Nat) : State :=
  if (ejectedOf s core serial).isEmpty then
    modUnit s unit fun u => { u with kept := u.kept.filter fun (n, _, _) => n != serial }
  else s

/-! ## Rejoin (R39-R42) -/

/-- Mask of the threads ejected under a tag. -/
def openMask (w : Warp) (tag : Nat) : BitVec 32 := ((w.ejs.find? fun j => j.tag = tag).map (·.mask)).getD 0
def hasOpen (w : Warp) (tag : Nat) : Bool := w.ejs.any fun j => j.tag = tag

/-- The warp waits for the threads ejected under a tag (R40); the window is that of RJW unless the launch is DETERM. -/
def beginRejoin (s : State) (c w tag ready : Nat) : State :=
  modWarp s c w fun x =>
    let mode := if isDeterm s x.unit then 1 else if x.rjw = 0 then 2 else 0
    { x with run := { x.run with status := .rejoin tag (tickOf s.now) mode s.now ready none } }

/-- An ejected thread leaves its slot; its lane in the old warp, if still held for it, becomes vacant (R38, R42). -/
def leaveSlot (s : State) (cl k : Nat) : State :=
  match ejOf s cl k with
  | none => s
  | some e =>
    let s1 := modPool s cl fun p => { p with slots := tabDel k p.slots }
    let s2 := modWarp s1 e.core e.wslot fun w =>
      if w.serial = e.serial then
        { vacateLanes w [e.lane] with ejs := w.ejs.map fun j => { j with mask := j.mask &&& ~~~ maskOf [e.lane] } }
      else w
    releaseKept s2 e.unit e.core e.serial

/-- An ejected thread is filed at an address with a live count (R38, R42, R205). -/
def fileEjected (s : State) (cl k : Nat) (pc : Pc) (live : Nat) : State :=
  match ejOf s cl k with
  | none => s
  | some e =>
    let regs := (unitFrame s e.unit).regs
    let word (i : Nat) : Word := heldWord s e.core e.run.pend (e.stackAddr + 128 * i)
    let d := if regs < e.bsize then fld (word 0).toNat 0 4 else 0
    let n := liveWith regs d live
    let onStack (i : Nat) : Bool := d != 0 && decide (regs ≤ i) && decide (i < regs + 1 + 2 * d)
    let value (i : Nat) : Word := if onStack i then word (i - regs) else tabGetD i 0 e.regs
    let bad (i : Nat) : Bool :=
      if onStack i then (coreOf s e.core).storePoison.contains (e.stackAddr + 128 * (i - regs)) else e.poison.contains i
    let f : Filed := ⟨e.thr, wordsOf n value, (List.range n).filter bad, n, e.run.deferred.filter (·.seen)⟩
    stageAll (leaveSlot s cl k) e.core [⟨e.unit, pc, f⟩]

/-- A late thread (R42): filed at the address after its `rjn`. -/
def lateFile (s : State) (cl k : Nat) : State :=
  match ejOf s cl k with
  | none => s
  | some e => fileEjected s cl k e.pc (Nat.max e.live (maxOf (e.written.map (· + 1))))

/-- Object of the rejoins of a warp under a tag (R41). -/
def obRejoin (serial tag : Nat) : Nat := 16 * (serial * 16 + tag) + 7

/-- Threads of a warp that wait at the `rjn` of a tag, in order of arrival, then of lanes (R40). -/
def waitingAt (s : State) (core serial tag since : Nat) : List (Nat × Nat × Ejected) :=
  let l := (ejectedOf s core serial).filterMap fun (k, e) =>
    match e.run.status with
    | .atRejoin t => if e.tag = tag then some (Nat.max t since, k, e) else none
    | _ => none
  sortBy (·.1) (sortBy (fun (_, _, e) => e.lane) l)

/-- The rejoin is over (R40 steps 3 and 4): lanes still ejected stay vacant, waiting threads are late, and the warp is at the
end of its park from a cycle on. -/
def finishRejoin (s : State) (c w tag ready : Nat) : State :=
  match warpOf s c w with
  | none => s
  | some x =>
    let left := lanesOf (openMask x tag)
    let s1 := modWarp s c w fun y =>
      { vacateLanes y left with
        ejs := y.ejs.filter fun j => j.tag != tag, spin := 0
        run := { y.run with status := .parked .next, usable := Nat.max y.run.usable ready } }
    let s2 := (waitingAt s1 c x.serial tag 0).foldl (fun a (_, k, _) => lateFile a (clusterOf c) k) s1
    match view s2 (.warp c w) with
    | some v => acquireLanes s2 { v with act := vlanes s2 v } (obRejoin x.serial tag) true
    | none => s2

/-- A call-stack word still to land (R206). -/
def isStackWord : PendWrite → Bool
  | .stack .. => true
  | _ => false

/-- The next write-back of a rejoin begins, or the rejoin ends (R40). Call-stack words that the thread's last calls still have to write
land when they were to (R206). -/
def pumpRejoin (s : State) (c w : Nat) : State :=
  match warpOf s c w with
  | none => s
  | some x =>
    match x.run.status with
    | .rejoin tag t0 mode since ready none =>
      if (unitOf s x.unit).any (·.halted) then s
      else
      let q := if mode = 3 then [] else
        (waitingAt s c x.serial tag since).filter fun (t, _, _) => mode != 2 || t ≤ since
      match q with
      | (_, k, e) :: _ =>
        let ends := s.now + 6 + ceilDiv e.written.length 2
        let s0 := modPool s (clusterOf c) fun p => { p with slots := tabDel k p.slots }
        let s1 := modRun s0 (.warp c w) fun r => { r with pend := r.pend ++ e.run.pend.filter fun p => isStackWord p.w }
        let s2 := release s1 e.unit (agThread e.unit e.thr.lthr) (obRejoin x.serial tag) true
        let wb : WriteBack := ⟨e.lane, e.thr, e.written.map fun r => (r, tabGetD r 0 e.regs), e.poison, e.lost, ends⟩
        schedule (setStatus s2 (.warp c w) (.rejoin tag t0 mode since ready (some wb))) ends .rejoinWritebackEnd
          (.group (.warp c w))
      | [] =>
        if mode = 2 ∨ mode = 3 ∨ openMask x tag = 0 then finishRejoin s c w tag ready else s
    | _ => s

/-- An ejected thread is at its `rjn`, its park over (R39, R42, R367). -/
def arriveRejoin (s : State) (cl k : Nat) : State :=
  match ejOf s cl k with
  | none => s
  | some e =>
    match warpOf s e.core e.wslot with
    | none => lateFile s cl k
    | some x =>
      if x.serial != e.serial || !inMask (openMask x e.tag) e.lane then lateFile s cl k
      else
        let s1 := setStatus s (.kindle cl k) (.atRejoin s.now)
        match x.run.status with
        | .rejoin tag _ mode since _ _ =>
          if tag != e.tag then s1
          else if mode = 3 || (mode = 2 && since < s.now) then lateFile s cl k
          else pumpRejoin s1 e.core e.wslot
        | _ => s1

/-- ARB of a warp grows by rounds lost, saturating (R24). -/
def addArb (w : Warp) (n : Nat) : Warp :=
  { w with stallw := BitVec.ofNat 32 (w.stallw.toNat / 2 ^ 20 * 2 ^ 20 + Nat.min (2 ^ 20 - 1) (w.stallw.toNat % 2 ^ 20 + n)) }

/-- A word of a store written in full, poisoned or not (R428, R430). -/
def putLaneWord (k : Core) (addr : Nat) (val : Word) (bad : Bool) : Core :=
  let k1 := clearPoison k addr
  { k1 with store := k.store.setWord addr val, storePoison := if bad then k1.storePoison ++ [addr] else k1.storePoison }

/-- The write-back of a warp takes effect (R40 step 2): registers, lane and rounds. -/
def landBack (s : State) (c w : Nat) : State :=
  match warpOf s c w with
  | none => s
  | some x =>
    match x.run.status with
    | .rejoin tag t0 mode since ready (some wb) =>
      let s1 := wb.regs.foldl (fun a (r, val) =>
        if r < x.bsize then
          modCore a c fun k => putLaneWord k (regAddr x.page r wb.lane) val (wb.poison.contains r)
        else a) s
      modWarp s1 c w fun y =>
        let z := addArb (modLane y wb.lane fun _ => ⟨.running, some wb.thr, []⟩) wb.lost
        { z with ejs := z.ejs.map fun j => { j with mask := j.mask &&& ~~~ maskOf [wb.lane] }
                 run := { z.run with status := .rejoin tag t0 mode since ready none } }
    | _ => s

/-- A write-back ends, and the next one or the end of the rejoin follows; a warp of a cancelled unit stops there (R383). -/
def endWriteBack (s : State) (c w : Nat) : State :=
  match warpOf s c w with
  | none => s
  | some x =>
    match x.run.status with
    | .rejoin _ _ _ _ _ (some wb) =>
      if wb.ends != s.now then s
      else if (unitOf s x.unit).any (·.cancelled) then setStatus (landBack s c w) (.warp c w) (.parked .exit)
      else pumpRejoin (landBack s c w) c w
    | _ => s

/-! ## Split entries (R44, R45, R219) -/

/-- A path is resumed when the running one is empty: it is treated as at the `rjn` of the top entry (R45). -/
def nextPath : Nat → State → Nat → Nat → Nat → State
  | 0, s, _, _, _ => s
  | n + 1, s, c, w, since =>
    match warpOf s c w with
    | none => s
    | some x =>
      match x.splits with
      | [] => if (homeLanes x).isEmpty then retireWarp s c w else setStatus s (.warp c w) .idle
      | e :: rest =>
        let ds := lanesOf e.defMask
        if !ds.isEmpty && (e.held.isSome || e.faultHeld) then
          setStatus (modWarp s c w fun y => { y with splits := { e with done := true } :: rest }) (.warp c w) .idle
        else if !ds.isEmpty then
          let s1 := modWarp s c w fun y => { y with splits := { e with done := true, defMask := 0 } :: rest }
          runLanes s1 c w ds e.defPc since
        else
          let s1 := modWarp s c w fun y => { y with splits := rest }
          match lanesOf e.parkMask with
          | [] => nextPath n s1 c w since
          | ps =>
            let s2 := runLanes s1 c w ps e.parkPc since
            if e.tag != 0 && hasOpen x e.tag then pumpRejoin (beginRejoin s2 c w e.tag since) c w else s2

/-- The running path is empty (R45). -/
def pathEmpty (s : State) (c w since : Nat) : State := nextPath 6 s c w since

/-- The running path becomes the deferred one and the deferred one runs. A swap resets no count (R219); a demotion has set the spin count
to zero at its branch (R51). -/
def swapPaths (s : State) (c w : Nat) (pc : Pc) (hold : Option (Nat × Nat)) (since : Nat) : State :=
  match warpOf s c w with
  | none => s
  | some x =>
    match x.splits with
    | [] => s
    | e :: rest =>
      let run := activeLanes x
      let s1 := modWarp s c w fun y =>
        { setLanes y run .deferred with splits := { e with defMask := maskOf run, defPc := pc, held := hold } :: rest }
      wakeLanes s1 c w (lanesOf e.defMask) e.defPc since

/-- Whether the top entry holds deferred lanes that are not held (R219). -/
def canSwap (w : Warp) : Bool :=
  match w.splits with
  | e :: _ => e.defMask != 0 && e.held.isNone && !e.faultHeld
  | [] => false

/-- Every thread of a warp that is not ejected is filed at its own address (R47): running lanes at the given targets. -/
def forcedReform (s : State) (c w : Nat) (tgts : List (Nat × Pc)) : State :=
  match warpOf s c w with
  | none => s
  | some x =>
    let live := Nat.min x.bsize 120
    let pcOf (l : Nat) : Pc :=
      match tgts.find? fun t => t.1 = l with
      | some t => t.2
      | none =>
        match x.splits.find? fun e => inMask e.defMask l || inMask e.parkMask l with
        | some e => if inMask e.defMask l then e.defPc else e.parkPc
        | none => x.pc
    let s1 := fileLanes s c w ((homeLanes x).map fun l => (l, pcOf l, live))
    retireWarp (modWarp s1 c w fun y => { y with splits := [] }) c w

/-! ## Barriers (R217-R220) -/

/-- Whether a park is to lead to a wait for a phase. -/
def waitsFor (hit : Nat → Nat → Bool) : ParkAct → Bool
  | .bar b p => hit b p
  | .gbar p => hit 512 p
  | _ => false

/-- A parked group goes on with the next instruction, in the given cycle at the earliest. -/
def parkUntil (s : State) (g : Gid) (since : Nat) : State :=
  modRun s g fun r => { r with status := .parked .next, usable := Nat.max r.usable since }

/-- A barrier or `gbar` phase lets go of a group or of held lanes: what waits on it resumes in the given cycle. -/
def letGo (hit : Nat → Nat → Bool) (since : Nat) (s : State) (g : Gid) : State :=
  match g with
  | .kindle _ _ =>
    match statusOf s g with
    | some (Status.barrier b p) => if hit b p then startRun s g since else s
    | some (Status.parked act) => if waitsFor hit act then parkUntil s g since else s
    | _ => s
  | .warp c w =>
    match warpOf s c w with
    | none => s
    | some x =>
      let off (e : Split) : Split :=
        match e.held with
        | some (b, p) => if hit b p then { e with held := none } else e
        | none => e
      let y := { x with splits := x.splits.map off }
      let s1 := if y.splits = x.splits then s else setWarp s c w y
      match x.run.status with
      | .barrier b p =>
        if hit b p then startRun s1 g since
        else if y.splits != x.splits && canSwap y then swapPaths s1 c w y.pc (some (b, p)) since
        else s1
      | .parked act => if waitsFor hit act then parkUntil s1 g since else s1
      | .idle => if y.splits != x.splits && canSwap y then nextPath 6 s1 c w since else s1
      | _ => s1

/-- Groups of a unit. -/
def unitGroups (s : State) (u : Nat) : List Gid :=
  match unitOf s u with
  | none => []
  | some x =>
    (((coreOf s x.core).warps.filter fun (_, w) => w.unit = u).map fun (i, _) => Gid.warp x.core i) ++
    (((poolOf s (clusterOf x.core)).slots.filter fun (_, e) => e.unit = u).map fun (k, _) => Gid.kindle (clusterOf x.core) k)

/-- Lanes of a group that wait for a phase: those of a path that waits, or parks to wait, and the held ones of its split entries (R218,
R219). -/
def waitersOf (hit : Nat → Nat → Bool) (s : State) (g : Gid) : List Nat :=
  match view s g with
  | none => []
  | some v =>
    let waits := match v.run.status with
      | .barrier b p => hit b p
      | .parked act => waitsFor hit act
      | _ => false
    let held (e : Split) : List Nat := if e.held.any fun (b, p) => hit b p then lanesOf e.defMask else []
    (if waits then v.act else []) ++
      match g with
      | .kindle .. => []
      | .warp c w => ((warpOf s c w).map fun x => x.splits.flatMap held).getD []

/-- The waiters of a phase acquire what was released into it (R132, R218). -/
def acquirePhase (hit : Nat → Nat → Bool) (ob : Nat) (s : State) (u : Nat) : State :=
  if !clocksOn s u then s
  else (unitGroups s u).foldl (fun a g =>
    match view a g with
    | none => a
    | some v => (waitersOf hit a g).foldl (fun b l => acquire b u (agentOf b v l) ob false) a) s

/-- A phase of a barrier completes (R218): parity, count, binding, and its waiters. -/
def completeBar (s : State) (u b : Nat) : State :=
  match unitOf s u with
  | none => s
  | some x =>
    match tabGet b x.bars with
    | none => s
    | some k =>
      let s1 := modUnit s u fun y =>
        { y with bars := tabPut b ⟨0, 0, !k.par, false, false, k.phase + 1⟩ y.bars }
      let hit (b' p : Nat) : Bool := b' = b && p = k.phase
      (unitGroups s1 u).foldl (fun a g => letGo hit (s.now + 8) a g) (acquirePhase hit (obBar u b k.phase) s1 u)

/-- A phase of `gbar` completes (R220). -/
def completeGbar (s : State) (l : Nat) : State :=
  match launchOf s l with
  | none => s
  | some x =>
    let s1 := modLaunch s l fun y => { y with garr := 0, gphase := y.gphase + 1 }
    let us := (s.units.filter fun (_, u) => u.launch = l).map (·.1)
    us.foldl (fun a0 u =>
      let hit (b' p : Nat) : Bool := b' = 512 && p = x.gphase
      let a := acquirePhase hit (obGbar l x.gphase) (l1Acquire a0 (((unitOf a0 u).map (·.core)).getD 0) 4) u
      (unitGroups a u).foldl (fun b g => letGo hit (s.now + 400) b g) a) s1

/-- Exits lower the expected counts of barriers that count every thread (R213, R217, R387) and that of `gbar`. -/
def recount (s : State) (u l : Nat) : State :=
  let s1 := match unitOf s u with
    | none => s
    | some x => x.bars.foldl (fun a (b, k) =>
        if k.bound && k.cnt0 && x.left ≤ k.arr then completeBar a u b
        else modUnit a u fun y => { y with bars := tabMod b (fun z => if z.bound && z.cnt0 then { z with exp := y.left } else z) y.bars }) s
  match launchOf s1 l with
  | none => s1
  | some x => if x.garr != 0 && x.threadsLeft ≤ x.garr then completeGbar s1 l else s1

/-! ## Exit (R213) -/

/-- Threads of a unit end; barriers are counted again. -/
def endThreads (s : State) (u n : Nat) : State :=
  let l := unitLaunchId s u
  recount (threadsDone s u n) u l

/-- A thread ends: what it did is released, at device scope, with the completion counters it lowers (R55). -/
def releaseEnd (s : State) (u lthr : Nat) : State :=
  release s u (agThread u lthr) (obCount (unitLaunchId s u) (mkHandle 0 (((unitOf s u).map (·.lid)).getD 0))) false

/-- Lanes of a warp end in this cycle, and the warp goes on with its other paths or retires. -/
def exitLanes (s : State) (c w : Nat) (ls : List Nat) : State :=
  match warpOf s c w with
  | none => s
  | some x =>
    let s0 := ls.foldl (fun a l => releaseEnd a x.unit (lthrOf s (.warp c w) l)) s
    let s1 := modWarp s0 c w fun y => vacateLanes y ls
    let s2 := pathEmpty s1 c w (Nat.max s.now (transferAt x.run))
    endThreads s2 x.unit ls.length

/-- An ejected thread ends (R38). -/
def exitEjected (s : State) (cl k : Nat) : State :=
  match ejOf s cl k with
  | none => s
  | some e => endThreads (pumpRejoin (leaveSlot (releaseEnd s e.unit e.thr.lthr) cl k) e.core e.wslot) e.unit 1

/-! ## Draws (R49, R50, R386) -/

/-- Some lanes of a group are fault-parked: they are not at a wait (R419). -/
def faultParked (s : State) : Gid → Bool
  | .warp c w => (warpOf s c w).any fun x => x.splits.any (·.faultHeld)
  | .kindle .. => false

/-- Every thread of a DETERM unit is binned, waiting at a barrier or wait, or finished (R50). A warp that waits at its `rjn` for threads
still ejected, and a thread that waits in its slot for the warp, are at a wait (R39, R40) while no write-back runs; fault-parked lanes are
not; a thread in staging counts as binned, since no chain of filings may leave every bin waiting (R386): DEDUCED (log 87). -/
def quiescent (s : State) (u : Nat) : Bool :=
  isDeterm s u && (unitGroups s u).all fun g =>
    !faultParked s g &&
    match statusOf s g with
    | some (.waiting ..) | some (.barrier ..) | some .idle | some (.rejoin _ _ _ _ _ none) | some (.atRejoin _) => true
    | _ => false

/-- Why a bin may be drawn: 0 full, 1 aged, 2 oldest, 3 quiescence (R49, R50, Table 3.8). -/
def drawReason (s : State) (core : Nat) (b : Bin) : Option Nat :=
  let k := coreOf s core
  let det := isDeterm s b.unit
  if b.threads.length = 32 then some 0
  else if !det && b.aged then some 1
  else if !k.staging.isEmpty && (k.bins.all fun (_, o) => b.order ≤ o.order) &&
      (!det || k.staging.any fun t => t.unit != b.unit) then some 2
  else if det && quiescent s b.unit &&
      (k.bins.all fun (_, o) => o.unit != b.unit || b.pc.toNat ≤ o.pc.toNat) then some 3
  else none

/-- A warp slot and the page of a register block for a bin (R49). -/
def drawPlace (s : State) (core : Nat) (b : Bin) : Option (Nat × Nat) :=
  match (freeSlots s core).head?, findBlock (usedPages s core) (spaceTop (coreOf s core).l1w)
      (blockSize (unitFrame s b.unit).regs / 16) with
  | some w, some p => some (w, p)
  | _, _ => none

/-- The launch of a unit has stopped for good (R447). -/
def launchStopped (s : State) (u : Nat) : Bool := (unitLaunch s u).any fun l => l.fatal.any (·.stopped)

/-- The bin to draw next on a core: the oldest that may be drawn and has a place (R386). Bins of a launch that replays are drawn by the
record alone (R91). -/
def nextDraw (s : State) (core : Nat) : Option (Nat × Nat) :=
  ((sortBy (fun (_, b) => b.order) (coreOf s core).bins).findSome? fun (i, b) =>
    match drawReason s core b, drawPlace s core b with
    | some r, some _ => if (unitOf s b.unit).any (·.halted) || launchStopped s b.unit || replays s (unitLaunchId s b.unit) then none else some (i, r)
    | _, _ => none)

/-- Run state of a warp that begins. -/
def Run.fresh (since : Nat) : Run :=
  { count := 0, trl := 0, slots := [0, 0, 0, 0], usable := 0, nextAt := 0, pend := [], status := .ready since, deferred := [], acqs := [] }

/-- A warp of a unit on a block, its threads in lanes 0 upward (R49, R66). -/
def newWarp (s : State) (unit serial page bsize : Nat) (pc : Pc) (ts : List Thread) (since : Nat) : Warp :=
  let f := unitFrame s unit
  { unit := unit, serial := serial, page := page, bsize := bsize, pinned := false, pc := pc,
    lanes := (List.range 32).map fun i =>
      match ts[i]? with
      | some t => ⟨.running, some t, []⟩
      | none => ⟨.vacant, none, []⟩
    splits := [], ejs := [], spin := 0, demc := 0, stallw := 0, ejt := f.ejt, rjw := f.rjw, spec := none, specSr := 0,
    run := Run.fresh since, reqCount := 0 }

/-- Lane words of a block for its first `n` lanes read 0. -/
def clearBlock (s : State) (core page bsize n : Nat) : State :=
  let lo := page * 2048
  let inside (a : Nat) : Bool := lo ≤ a && a < lo + bsize * 128 && (a - lo) % 128 < 4 * n
  modCore s core fun k =>
    { k with store := k.store.filter fun c => !inside c.1
             storePoison := k.storePoison.filter fun a => !inside a }

/-- A bin becomes a warp (R49): its threads in lanes 0 upward with the words they carry, issuing 2 n cycles later. -/
def drawBin (s : State) (core bin reason : Nat) : State :=
  match tabGet bin (coreOf s core).bins with
  | none => s
  | some b =>
    match drawPlace s core b with
    | none => s
    | some (w, page) =>
      let bsize := blockSize (unitFrame s b.unit).regs
      let n := maxOf (b.threads.map (·.live))
      let s0 := capture s (unitLaunchId s b.unit) 0x04 core (bin * 128 + reason * 16) b.threads.length
      let (serial, s1) := freshNat s0
      let s2 := clearBlock (modCore s1 core fun k => { k with bins := tabDel bin k.bins }) core page bsize b.threads.length
      let s3 := (b.threads.mapIdx fun i t => (i, t)).foldl (fun a (lane, t) =>
        modCore a core fun k => { k with
          store := t.regs.foldl (fun m (r, x) => if r < bsize then m.setWord (regAddr page r lane) x else m) k.store
          storePoison := k.storePoison ++ (t.poison.filter fun r => r < bsize).map fun r => regAddr page r lane }) s2
      let x := newWarp s3 b.unit serial page bsize b.pc (b.threads.map (·.thr)) (s.now + 2 * n)
      let y := { x with run := { x.run with deferred := b.threads.flatMap (·.deferred) } }
      settle (setWarp s3 core w y) core

/-! ## Fault entries (R419, R420) -/

/-- The quadrant of a warp that leaves its issue slot (R34). -/
def freeQuad (s : State) (g : Gid) : State :=
  match g with
  | .warp c w => modCore s c fun k =>
      { k with quads := k.quads.map fun q => if q.holder = some w then { q with holder := none } else q }
  | .kindle .. => s

/-- Merge points of R420. -/
def mergePoint (i : Instr) : Bool :=
  let m := majorOf i
  (0x20 ≤ m && m ≤ 0x23) ||
  match i with
  | .rjn .. | .exit | .rfm .. => true
  | _ => false

/-- A path under a fault entry comes to issue (R420): it merges with the other path at one address, parks at a merge point,
or the warp is reformed. `ok` goes on to issue, `error` is the state in which nothing issues. -/
def faultArrival (i : Instr) : Nat → State → View → Except State (State × View)
  | 0, s, v => .ok (s, v)
  | n + 1, s, v =>
    match v.gid with
    | .kindle .. => .ok (s, v)
    | .warp c w =>
      match warpOf s c w with
      | none => .ok (s, v)
      | some x =>
        match x.splits with
        | [] => .ok (s, v)
        | e :: rest =>
          let free := e.held.isNone && !e.faultHeld
          let other := (if free && e.defPc = v.pc then e.defMask else 0) ||| (if e.parkPc = v.pc then e.parkMask else 0)
          let joined (ls : List Nat) : Except State (State × View) :=
            let s1 := modWarp s c w fun y => { setLanes y ls .running with splits := rest }
            match view s1 v.gid with
            | some v1 => faultArrival i n s1 v1
            | none => .error s1
          if !e.fault then .ok (s, v)
          else if other != 0 || (e.defMask = 0 && e.parkMask = 0) then joined (lanesOf other)
          else if !mergePoint i then .ok (s, v)
          else if e.parkMask != 0 then .error (forcedReform s c w (v.act.map fun l => (l, v.pc)))
          else
            let s1 := modWarp (freeQuad s v.gid) c w fun y =>
              { setLanes y v.act .parked with splits := { e with parkMask := maskOf v.act, parkPc := v.pc } :: rest }
            .error (pathEmpty s1 c w (s.now + 4))

end Sys2Proof.Machine
end

