-- ==== Sys2Proof/Machine/Issue.lean ====
section
/-! DEFINITION. Issue of one instruction: the checks of Table 16.1 in their order (R393), the delays of R173, and the
advance of the run (R172, R176). Every meaning of an encoding is one call of `issue`. -/

namespace Sys2Proof.Machine

/-- The outcome of the condition tests and of the effect of an instruction that survived the common checks. -/
inductive Did where
  /-- it issued: the state with its effect, what happens when its run parks here, and idle cycles (R212) -/
  | done (s : State) (act : ParkAct) (idle : Nat)
  /-- a precise trap (R376) -/
  | trap (t : Trap)
  /-- a delay of R173: it comes to issue again at the cycle -/
  | wait (s : State) (at_ : Nat)
  /-- the group has left its issue slot: ended, filed, parked on a fault path -/
  | left (s : State)
deriving DecidableEq, Repr

/-- The instruction comes to issue again at a cycle (R173). -/
def delayTo (s : State) (v : View) (at_ : Nat) : State :=
  modRun s v.gid fun r => { r with nextAt := Nat.max at_ (s.now + 1) }

/-- The quadrant or kindling core that issued is used in this cycle; a warp holds its quadrant until it parks (R34,
R366), and `nop` idles it (R212). -/
def useIssuer (s : State) (v : View) (idle : Nat) (parks : Bool) : State :=
  match v.gid with
  | .warp c w =>
    modCore s c fun k => { k with quads := k.quads.mapIdx fun i q =>
      if i = w % 4 then { q with holder := if parks then none else some w, nextAt := s.now + 1 + idle } else q }
  | .kindle cl k => modPool s cl fun p => { p with last := tabPut (k % 16) (k, s.now + 1) p.last }

/-- The advance after issue (R172, R176): program counter, run count, and the park at a switch marker. -/
def advance (i : Instr) (s : State) (v : View) (act : ParkAct) (idle : Nat) : State :=
  let len := instrLength i
  let s1 := setPc s v.gid (v.pc + BitVec.ofNat 48 len)
  let s2 := modRun s1 v.gid fun r =>
    { r with count := r.count + 1, nextAt := s.now + 1 + idle,
             status := if endsRun i then .parked act else .running }
  useIssuer s2 v idle (endsRun i)

/-- RET of a precise trap is the instruction's address (R376). -/
def trapNow (s : State) (v : View) (t : Trap) : State := useIssuer (raiseTrap s v t []) v 0 true

/-- A lehr whose row blocks reach into the shadow range of an open region (R319, R407). -/
def lehrBroken (i : Instr) (s : State) (v : View) : Bool :=
  match i, regionOf s v.gid with
  | .tmm _ w g _ a _, some r =>
    meets g.toNat (Nat.min ((fld (readK s v.unit a.toNat).toNat 8 3 + 1) * 2 ^ w.toNat) (64 - g.toNat)) r.sbase r.width
  | _, _ => false

/-- Steps 1 to 6 of Table 16.1 that do not depend on the instruction's own operands: ILL of a warp-held register on a
kindling core (R189), RUNX, KUNAV, SPECX, PMASK, and OPLIM of a register (R98). -/
def commonTrap (i : Instr) (s : State) (v : View) : Option Trap :=
  let m := majorOf i
  let enc := encodeWord i
  let warpSr := match i with | .wrsr r _ _ => v.kc && (r.toNat == 18 || r.toNat == 19 || r.toNat == 25) | _ => false
  if (wfErr i).isSome || warpSr then some (precise v cIll enc)
  else if v.run.count = 23 ∧ !endsRun i then some (precise v cRunx (v.pc.toNat % 2 ^ 32))
  else if v.kc ∧ kunavMajor m then some (precise v cKunav enc)
  else if specBroken i (regionOf s v.gid) || lehrBroken i s v then some (precise v cSpecx m)
  else if matrixMajor m ∧ v.act ≠ vlanes s v then some (precise v cPmask (maskOf v.act).toNat)
  else if beyondBlock i v.bsize then some (precise v cOplim 0x10)
  else none

/-- Whether the slot an instruction names is at its limit (R178). -/
def slotFull (i : Instr) (v : View) : Bool :=
  match slotNamed i with
  | some n => 63 ≤ slotCount v.run n
  | none => false

/-- POISON of register operands (R430), the first test after step 9. -/
def poisonTrap (i : Instr) (s : State) (v : View) : Option Trap :=
  match poisoned s v (sourceRegs i) v.act with
  | [] => none
  | (l, a) :: r => some (precise v cPoison (maskOf (l :: r.map (·.1))).toNat a)

/-- An instruction comes to issue for the group in hand (R393): the common checks, its own operand traps, the
first-use comparison (R368), the slot limit, its own delays and the test of step 9 (`pre`), poison, and its effect. -/
def issueAs (i : Instr) (s : State) (v : View) (own : State → View → Option Trap) (pre : State → View → Option Did)
    (effect : State → View → Did) : State :=
  let close (d : Did) : State :=
    match d with
    | .done s1 act idle => advance i s1 v act idle
    | .trap t => trapNow s v t
    | .wait s1 at_ => delayTo s1 v at_
    | .left s1 => s1
  match commonTrap i s v with
  | some t => trapNow s v t
  | none =>
    match own s v with
    | some t => trapNow s v t
    | none =>
      let gen := unitGen s v.unit
      if matrixMajor (majorOf i) ∧ (coreOf s v.core).firstUse.isSome then delayTo s v (s.now + 1)
      else if matrixMajor (majorOf i) ∧ (coreOf s v.core).accown ≠ some gen then
        delayTo (beginFirstUse s v.core v.unit gen) v (s.now + 1)
      else if slotFull i v then delayTo s v (s.now + 1)
      else
        match pre s v with
        | some d => close d
        | none =>
          match poisonTrap i s v with
          | some t => trapNow s v t
          | none => close (effect s v)

/-- A path under a fault entry may merge or park first (R420). -/
def issueAt (i : Instr) (s : State) (v : View) (own : State → View → Option Trap) (pre : State → View → Option Did)
    (effect : State → View → Did) : State :=
  match faultArrival i 5 s v with
  | .error s1 => s1
  | .ok (s1, v1) => issueAs i s1 v1 own pre effect

/-- The instruction is executed by the group that issues (R173); with none, nothing can run it. -/
def issuePre (i : Instr) (s : State) (own : State → View → Option Trap) (pre : State → View → Option Did)
    (effect : State → View → Did) : Host.Outcome State Fault Refusal :=
  match s.cur with
  | none => .fault .noIssuer
  | some g =>
    match view s g with
    | none => .fault .noIssuer
    | some v => .next (issueAt i s v own pre effect)

/-- The same for an instruction with no delay and no trap of step 9 of its own. -/
def issue (i : Instr) (s : State) (own : State → View → Option Trap) (effect : State → View → Did) :
    Host.Outcome State Fault Refusal :=
  issuePre i s own (fun _ _ => none) effect

/-- No operand trap of its own. -/
def noTrap : State → View → Option Trap := fun _ _ => none

/-- Whether a maskable trap is enabled in a thread (R373): 0 CVTOVF, 1 CMIX, 2 SPIN. -/
def trapEnabled (s : State) (v : View) (b l : Nat) : Bool :=
  match thrOf s v.gid l with
  | some t => t.tmask.toNat.testBit b
  | none => false

/-! ## What a release waits for (R126, R134, R141) -/

/-- The threads that an instruction acts for, by their number in the unit. -/
def thrsOf (s : State) (v : View) : List Nat := v.act.map (lthrOf s v.gid)

/-- A request made for one of the threads of an instruction. -/
def madeBy (s : State) (v : View) (q : Req) : Bool := q.unit = v.unit && (thrsOf s v).any q.thrs.contains

/-- Held stores of a committed region of the group that are still to be issued (R324). -/
def storesToCome (s : State) (v : View) : List HeldOut := s.toStore.filter fun h => h.gid = v.gid && h.serial = v.serial

def AperOp.writes : AperOp → Bool
  | .load => false
  | _ => true

/-- Whether a release still waits at issue: stores of its threads through the aperture would act later than an access that the release
orders can, at the earliest a load of the next cycle, or stores of a committed region are still to be issued. DESIGN CHOICE (log 91):
R134 orders them before the release, and no rule says how. -/
def releaseWaits (s : State) (v : View) : Bool :=
  !(storesToCome s v).isEmpty ||
  s.reqs.any fun (_, q) => madeBy s v q && q.aper.any fun x => x.op.writes && s.now + Config.latOwn < x.due

/-- The delay of a release. -/
def releasePre (s : State) (v : View) : Option Did := if releaseWaits s v then some (.wait s (s.now + 1)) else none

/-- An effect that always completes and, at a marker, only parks (R176). -/
def plain (f : State → View → State) : State → View → Did := fun s v => .done (f s v) .next 0

end Sys2Proof.Machine
end

