-- ==== Sys2Proof/Machine/Control.lean ====
section
/-! DEFINITION. Transfers of control, the call stack, ends of runs and of threads (R202-R214), the branch decision with its
ejection (R35, R36), and the spin detector (R51, R384). -/

namespace Sys2Proof.Machine

/-- The target of an offset in halfwords, after forwarding (R202, R185). -/
def targetOf (s : State) (v : View) {n : Nat} (off : BitVec n) : Pc :=
  forwardPc s (unitPart s v.unit) (v.pc + 2 * off.signExtend 48)

/-- A transfer of every active lane, `lat` cycles (R202, R207). -/
def goTo (s : State) (v : View) (lat : Nat) (tgts : List (Nat × Pc)) : Did :=
  .done (modRun s v.gid fun r => { r with usable := Nat.max r.usable (s.now + lat) }) (.xfer tgts (s.now + lat)) 0

/-! ## The spin detector (R51, R384) -/

/-- The record of a launch that replays has the demotion of this back-edge in this cycle (R91). -/
def recordedDemotion (s : State) (v : View) : Bool :=
  replays s (unitLaunchId s v.unit) && (recordedNow s (unitLaunchId s v.unit) 0x06).any fun e =>
    fld e 44 12 = v.core && fld e 38 6 = v.wslot && fld e 0 32 = v.pc.toNat % 2 ^ 32

/-- What a back-edge of the running path does: 0 nothing counted, 1 counted, 2 count reset, 3 the path demoted. -/
def spinState (s : State) (v : View) : Nat :=
  match warpOf s v.core v.wslot with
  | none => 0
  | some x =>
    if v.kc then 0
    else
      match x.splits with
      | [] => 0
      | e :: _ =>
        if x.spin + 1 < 64 && !recordedDemotion s v then 1
        else if e.done || e.held.isSome || e.faultHeld || e.defMask = 0 then 2 else 3

/-- A change of the warp of a group. -/
def modWarpOf (s : State) (v : View) (f : Warp → Warp) : State := modWarp s v.core v.wslot f

/-- A demotion would raise DEMC to 32 with SPIN enabled: the branch raises SPINLIM and does not execute (R384). -/
def spinTrap (s : State) (v : View) : Bool :=
  spinState s v = 3 && 31 ≤ ((warpOf s v.core v.wslot).map (·.demc)).getD 0 && v.act.any (trapEnabled s v 2)

/-- SPINLIM, with DEMC reset. -/
def raiseSpin (s : State) (v : View) : Did :=
  .left (trapNow (modWarpOf s v fun x => { x with demc := 0 }) v (precise v cSpinlim 32))

/-- The counts after a back-edge of the running path, and whether it demotes the path (R51, R384). -/
def countBack (s : State) (v : View) : State × Bool :=
  match spinState s v with
  | 0 => (s, false)
  | 1 => (modWarpOf s v fun x => { x with spin := x.spin + 1 }, false)
  | 2 => (modWarpOf s v fun x => { x with spin := 0 }, false)
  | _ =>
    let s1 := capture s (unitLaunchId s v.unit) 0x06 v.core (v.wslot * 64) (v.pc.toNat % 2 ^ 32)
    (modWarpOf s1 v fun x => { x with spin := 0, demc := Nat.min 32 (x.demc + 1) }, true)

/-- The running lanes go to one address: as a transfer, or demoted there. -/
def goDemoted (s : State) (v : View) (ls : List Nat) (pc : Pc) (demoted : Bool) (at_ : Nat) : Did :=
  .done (modRun s v.gid fun r => { r with usable := Nat.max r.usable at_ })
    (if demoted then .demote pc else .xfer (ls.map fun l => (l, pc)) at_) 0

/-- A taken branch of the whole active set, counted when it goes back. -/
def branchAll (s : State) (v : View) (target : Pc) (back : Bool) : Did :=
  if !back then goTo s v Config.latInt (v.act.map fun l => (l, target))
  else if spinTrap s v then raiseSpin s v
  else
    let (s1, demoted) := countBack s v
    goDemoted s1 v v.act target demoted (s.now + Config.latInt)

/-! ## The branch decision (R35) -/

/-- Live count of a tag (R203). -/
def liveOf (s : State) (v : View) (tag : Nat) : Nat := nth (unitFrame s v.unit).rjtab (tag - 1) 0

/-- Value of a register of the home block with the fixed-latency writes still to land, as hand-over copies it (R31). -/
def newestX (s : State) (v : View) (lane reg : Nat) : Word :=
  let later := (sortBy (·.iss) (sortBy (·.due) v.run.pend)).filterMap fun p =>
    match p.w with
    | .x r l x => if r = reg && l = lane && s.now < p.due then some x else none
    | _ => none
  later.getLastD (readX s v lane reg)

/-- Predicates and thread-held special registers with the writes still to land, flags after a write of FLAGS of one cycle (R31, R241). -/
def newestThread (s : State) (v : View) (lane : Nat) (t : Thread) : Thread :=
  let late := v.run.pend.filter fun p => s.now < p.due
  (sortBy (·.due) (sortBy (·.iss) (late.filter fun p => !isFlags p.w) ++ late.filter fun p => isFlags p.w)).foldl
    (fun a p => threadAfter lane a p.w) t

/-- Registers of a lane that hand-over copies poisoned: those with no write still to land (R430). -/
def newestPoison (s : State) (v : View) (lane n : Nat) : List Nat :=
  let bad := (coreOf s v.core).storePoison
  if bad.isEmpty then []
  else (List.range n).filter fun i => bad.contains (regAddr v.page i lane) &&
    !v.run.pend.any fun p => match p.w with | .x r l _ => r = i && l = lane && s.now < p.due | _ => false

/-- Free kindling slots of a cluster, ascending (R36). -/
def freeKindling (s : State) (cl : Nat) : List Nat :=
  (List.range 64).filter fun k => (tabGet k (poolOf s cl).slots).isNone

/-- Ejection of some lanes under a tag (R36): slots granted ascending, hand-over ends after 6 + ⌈n/2⌉ cycles and the rounds
lost (R23). DESIGN CHOICE (log 88): the spec does not say to whom the rounds of one hand-over are charged; each ejected thread is given
the whole number, so ARB of the warp grows by it once per thread that rejoins (R24). -/
def eject (s : State) (v : View) (tag : Nat) (ls : List Nat) (pc : Pc) : State × Nat :=
  let cl := clusterOf v.core
  let n := liveOf s v tag
  let (lost, s0) := takeLost s
  let ends := s.now + 6 + ceilDiv n 2 + Config.round * lost
  let regs := (unitFrame s v.unit).regs
  let mk (lane : Nat) (t : Thread) : Ejected :=
    { core := v.core, wslot := v.wslot, serial := v.serial, unit := v.unit, lane := lane, tag := tag, live := n,
      thr := newestThread s v lane t,
      regs := wordsOf (Nat.min n v.bsize) (newestX s v lane), written := [], poison := newestPoison s v lane (Nat.min n v.bsize),
      tmps := [], bsize := v.bsize, pc := pc,
      stackAddr := regAddr v.page regs lane,
      run := { Run.fresh ends with status := .handover, usable := ends, pend := v.run.pend.filter fun p =>
        match p.w with
        | .stack a _ => (a - regAddr v.page 0 0) % 128 = 4 * lane
        | _ => false },
      t0 := tickOf ends, lost := lost }
  let s1 := (ls.zip (freeKindling s cl)).foldl (fun a (lane, k) =>
    match thrOf a v.gid lane with
    | some t =>
      schedule (modPool a cl fun p => { p with slots := tabPut k (mk lane t) p.slots }) ends .ejectionHandoverEnd
        (.group (.kindle cl k))
    | none => a) s0
  let s2 := modWarp s1 v.core v.wslot fun w =>
    { w with lanes := w.lanes.mapIdx fun i x => if ls.contains i then { x with st := .ejected, thr := none } else x
             ejs := w.ejs ++ [⟨tag, maskOf ls⟩] }
  (s2, ends)

/-- Row 3 of Table 2.2 but for the free slots. -/
def mayEject (w : Warp) (tag m : Nat) : Bool := m ≤ w.ejt && tag != 0 && !hasOpen w tag && w.spec.isNone

/-- `brp` of a group (R35, R203): `target` for the lanes whose predicate equals the sense. In replay row 3 is decided by the record: with
no entry of this cycle no lane is ejected, and a DETERM unit, which ejects at this `brp` in some cycle, waits for the recorded one. -/
def branchOn (s : State) (v : View) (p : Nat) (sense : Bool) (tag : Nat) (target : Pc) (back : Bool) : Did :=
  let next := v.pc + 4
  let t := v.act.filter fun l => readP s v l p == sense
  let n := v.act.filter fun l => readP s v l p != sense
  let l := unitLaunchId s v.unit
  if v.kc then goTo s v Config.latInt (v.act.map fun x => (x, if t.isEmpty then next else target))
  else if t.isEmpty then goTo s v Config.latInt (v.act.map fun x => (x, next))
  else if n.isEmpty then branchAll s v target back
  else
    match warpOf s v.core v.wslot with
    | none => .done s .next 0
    | some w =>
      let (m, mpc, rest, rpc) := if t.length ≤ n.length then (t, target, n, next) else (n, next, t, target)
      let row3 := mayEject w tag m.length
      let room := m.length ≤ (freeKindling s (clusterOf v.core)).length
      let forced := if replays s l then (recordedNow s l 0x05).map fun e => fld e 0 32 != 0 else none
      let ejects := if replays s l then forced.getD false else room
      let edge := back && rpc = target
      if row3 && ((!room && (isDeterm s v.unit || forced = some true)) || (replays s l && isDeterm s v.unit && forced.isNone)) then
        .wait s (s.now + 1)
      else if row3 && ejects && edge && spinTrap s v then raiseSpin s v
      else
        let s0 := if row3 then capture s l 0x05 v.core (v.wslot * 64 + tag * 4) (if ejects then (maskOf m).toNat else 0) else s
        if row3 && ejects then
          let (s1, ends) := eject s0 v tag m mpc
          let (s2, demoted) := if edge then countBack s1 v else (s1, false)
          goDemoted s2 v rest rpc demoted ends
        else if w.splits.length < 4 then
          let s1 := modWarp s0 v.core v.wslot fun x => { x with spin := if back then 1 else 0 }
          .done (modRun s1 v.gid fun r => { r with usable := Nat.max r.usable (s.now + Config.latInt) })
            (.split (maskOf t) target tag) 0
        else if !stagingRoom s v.core (homeLanes w).length then .wait s (s.now + 1)
        else
          .done (modRun s0 v.gid fun r => { r with usable := Nat.max r.usable (s.now + Config.latInt) })
            (.reform (maskOf t) target) 0

def execBr (o : BitVec 24) (s : State) : Host.Outcome State Fault Refusal :=
  issue (.br o) s noTrap fun s v => branchAll s v (targetOf s v o) o.msb

def execBrp (o : BitVec 16) (t : BitVec 4) (p : BitVec 3) (s : State) : Host.Outcome State Fault Refusal :=
  issue (.brp o t p) s noTrap fun s v => branchOn s v p.toNat true t.toNat (targetOf s v o) o.msb

def execBrpF (o : BitVec 16) (t : BitVec 4) (p : BitVec 3) (s : State) : Host.Outcome State Fault Refusal :=
  issue (.brpF o t p) s noTrap fun s v => branchOn s v p.toNat false t.toNat (targetOf s v o) o.msb

/-! ## The call stack (R204-R208) -/

/-- Store address of word `i` of the call stack of a lane (R204). -/
def stackAddr (s : State) (v : View) (lane i : Nat) : Nat :=
  match v.gid with
  | .warp .. => regAddr v.page ((unitFrame s v.unit).regs + i) lane
  | .kindle cl k => ((ejOf s cl k).map fun e => e.stackAddr + 128 * i).getD 0

def stackWord (s : State) (v : View) (lane i : Nat) : Word := heldWord s v.core v.run.pend (stackAddr s v lane i)

/-- D: capacity of the call stack (R204). -/
def stackCap (s : State) (v : View) : Nat :=
  let regs := (unitFrame s v.unit).regs
  if v.bsize < regs + 1 then 0 else Nat.min 15 ((v.bsize - regs - 1) / 2)

def depthOf (s : State) (v : View) (lane : Nat) : Nat :=
  if v.bsize < (unitFrame s v.unit).regs + 1 then 0 else fld (stackWord s v lane 0).toNat 0 4

/-- Latency of the call stack in the store of the home core (R206, R207). -/
def stackLat (v : View) : Nat := if v.kc then Config.latWindow else Config.latOwn

/-- CSOVF (R206): lanes at capacity. -/
def overflowTrap (s : State) (v : View) : Option Trap :=
  match v.act.filter fun l => stackCap s v ≤ depthOf s v l with
  | [] => none
  | ls => some (precise v cCsovf (maskOf ls).toNat)

/-- CSUND (R207): lanes at depth 0. -/
def underflowTrap (s : State) (v : View) : Option Trap :=
  match v.act.filter fun l => depthOf s v l = 0 with
  | [] => none
  | ls => some (precise v cCsund (maskOf ls).toNat)

/-- ALIGN of an odd target: the lowest lane's (R402). -/
def oddTrap (v : View) (tgts : List (Nat × Nat)) : Option Trap :=
  (tgts.find? fun t => t.2 % 2 = 1).map fun t => precise v cAlign 0 t.2

/-- First of two traps. -/
def firstTrap (a b : Option Trap) : Option Trap := match a with | some t => some t | none => b

/-- A return address is pushed in every active lane (R206). -/
def pushReturn (s : State) (v : View) : State :=
  let ra := (v.pc + 4).toNat
  v.act.foldl (fun a l =>
    let d := depthOf s v l
    modRun a v.gid fun r => { r with pend := r.pend ++ [(1 + 2 * d, ra % 2 ^ 32), (2 + 2 * d, ra / 2 ^ 32), (0, d + 1)].map fun (i, x) =>
      ⟨s.now + stackLat v, s.now, .stack (stackAddr s v l i) (BitVec.ofNat 32 x)⟩ }) s

/-- Bits [47:0] of a pair, in each active lane. -/
def pairTargets (s : State) (v : View) (a : Nat) : List (Nat × Nat) := v.act.map fun l => (l, readX2 s v l a % 2 ^ 48)

/-- Targets after forwarding. -/
def forwardAll (s : State) (v : View) (tgts : List (Nat × Nat)) : List (Nat × Pc) :=
  tgts.map fun (l, t) => (l, forwardPc s (unitPart s v.unit) (BitVec.ofNat 48 t))

/-- Threads that a transfer files: those whose target differs from the lowest lane's (R208). -/
def divergent (tgts : List (Nat × Pc)) : List (Nat × Pc) :=
  match tgts with
  | [] => []
  | (_, t) :: _ => tgts.filter fun x => x.2 != t

/-- A transfer that may file threads waits for room in staging (R386). -/
def roomFor (s : State) (v : View) (tgts : List (Nat × Pc)) (d : Did) : Did :=
  if stagingRoom s v.core (divergent tgts).length then d else .wait s (s.now + 1)

def execCall (o : BitVec 24) (s : State) : Host.Outcome State Fault Refusal :=
  issue (.call o) s overflowTrap fun s v => goTo (pushReturn s v) v Config.latInt (v.act.map fun l => (l, targetOf s v o))

def execCallx (a : BitVec 7) (s : State) : Host.Outcome State Fault Refusal :=
  issue (.callx a) s (fun s v => firstTrap (oddTrap v (pairTargets s v a.toNat)) (overflowTrap s v)) fun s v =>
    let t := forwardAll s v (pairTargets s v a.toNat)
    roomFor s v t (goTo (pushReturn s v) v Config.latInt t)

def execBrx (a : BitVec 7) (s : State) : Host.Outcome State Fault Refusal :=
  issue (.brx a) s (fun s v => oddTrap v (pairTargets s v a.toNat)) fun s v =>
    let t := forwardAll s v (pairTargets s v a.toNat)
    roomFor s v t (goTo s v Config.latInt t)

/-- Return addresses on top of the call stacks (R207). -/
def returnTargets (s : State) (v : View) : List (Nat × Nat) :=
  v.act.map fun l =>
    let d := depthOf s v l - 1
    (l, (stackWord s v l (1 + 2 * d)).toNat + 2 ^ 32 * ((stackWord s v l (2 + 2 * d)).toNat % 65536))

def execRet (s : State) : Host.Outcome State Fault Refusal :=
  issue .ret s (fun s v =>
      firstTrap (oddTrap v ((returnTargets s v).filter fun x => depthOf s v x.1 != 0)) (underflowTrap s v)) fun s v =>
    let t := forwardAll s v (returnTargets s v)
    let s1 := v.act.foldl (fun a l => modRun a v.gid fun r =>
      { r with pend := r.pend ++ [⟨s.now + stackLat v, s.now, .stack (stackAddr s v l 0) (BitVec.ofNat 32 (depthOf s v l - 1))⟩] }) s
    roomFor s v t (goTo s1 v (stackLat v) t)

/-! ## Reform, rejoin and ends (R209-R214) -/

def execRfm (o : BitVec 16) (l : BitVec 7) (s : State) : Host.Outcome State Fault Refusal :=
  issue (.rfm o l) s noTrap fun s v =>
    if stagingRoom s v.core v.act.length then .done s (.rfm l.toNat (targetOf s v o)) 0 else .wait s (s.now + 1)

/-- What a warp does at its `rjn` at issue (R211): paths merge, and the wait of R40 begins, when no switch occurs. -/
def rjnIssued (tag : Nat) (s : State) (v : View) : State :=
  match v.gid with
  | .kindle .. => s
  | .warp c w =>
    match warpOf s c w with
    | none => s
    | some x =>
      let (s1, ready, switch) :=
        match x.splits with
        | e :: rest =>
          if e.tag = tag then
            if e.done then
              (modWarp s c w fun y =>
                { setLanes y (lanesOf e.parkMask) .running with
                  splits := rest, spin := 0, run := { y.run with usable := Nat.max y.run.usable (s.now + 4) } },
                s.now + 4, false)
            else (s, s.now, true)
          else (s, s.now, false)
        | [] => (s, s.now, false)
      if switch then setStatus s1 (.warp c w) (.parked (.rjn tag))
      else if hasOpen x tag then pumpRejoin (beginRejoin s1 c w tag ready) c w
      else s1

/-- An outcome changed where it is a next state. -/
def mapNext (f : State → State) : Host.Outcome State Fault Refusal → Host.Outcome State Fault Refusal
  | .next s => .next (f s)
  | o => o

/-- Whether the run of a group has parked with an action. -/
def parkedWith (s : State) (g : Gid) (act : ParkAct) : Bool :=
  match view s g with
  | some v => decide (v.run.status = .parked act)
  | none => false

/-- On a kindling core the park comes first (R367). -/
def execRjn (t : BitVec 4) (s : State) : Host.Outcome State Fault Refusal :=
  mapNext (fun s1 =>
      match s.cur with
      | some (.warp c w) =>
        if parkedWith s1 (.warp c w) (.rjn t.toNat) then
          match view s1 (.warp c w) with
          | some v => rjnIssued t.toNat (setStatus s1 (.warp c w) (.parked .next)) v
          | none => s1
        else s1
      | _ => s1)
    (issuePre (.rjn t) s noTrap (fun s v => if v.kc then releasePre s v else none) fun s _ => .done s (.rjn t.toNat) 0)

def execExit (s : State) : Host.Outcome State Fault Refusal := issue .exit s noTrap fun s _ => .done s .exit 0

/-- Warps of the quadrant that were ready at the issue of a `yield`, each with the cycle since which (R214). -/
def readyBeside (s : State) (v : View) : List (Nat × Nat) :=
  (coreOf s v.core).warps.filterMap fun (i, w) =>
    match w.run.status with
    | .ready t => if i % 4 = v.wslot % 4 && t ≤ s.now then some (i, t) else none
    | _ => none

def execYield (s : State) : Host.Outcome State Fault Refusal :=
  issue .yield s noTrap fun s v => .done s (if v.kc then .next else .yield (readyBeside s v)) 0

/-- `nop` idles its quadrant; on a kindling core its own thread (R212). -/
def execNop (n : BitVec 4) (sw : BitVec 1) (s : State) : Host.Outcome State Fault Refusal :=
  issue (.nop n sw) s noTrap fun s _ => .done s .next n.toNat

def execTrl (m : BitVec 3) (sw : BitVec 1) (s : State) : Host.Outcome State Fault Refusal :=
  issue (.trl m sw) s noTrap (plain fun s v => modRun s v.gid fun r => { r with trl := m })

/-! ## Traps (R229-R231) -/

def execTrap (c : BitVec 16) (s : State) : Host.Outcome State Fault Refusal :=
  issue (.trap c) s noTrap fun _ v => .trap { precise v cSwtrap c.toNat with ret := v.pc + 4 }

def execBrk (c : BitVec 16) (s : State) : Host.Outcome State Fault Refusal :=
  issue (.brk c) s noTrap fun _ v => .trap (precise v cBrk c.toNat)

def execHalt (s : State) : Host.Outcome State Fault Refusal :=
  issue .halt s noTrap fun _ v => .trap (precise v cHalt 0)

/-- Saved return addresses (R230). -/
def savedReturns (s : State) (v : View) : List (Nat × Nat) :=
  v.act.map fun l => (l, ((thrOf s v.gid l).map fun t => t.ret.toNat).getD 0)

/-- OPLIM 0x0A: a thread that is not in its handler (R230, Table 16.3). -/
def handlerTrap (s : State) (v : View) : Option Trap :=
  if v.act.all fun l => ((thrOf s v.gid l).map (·.inHandler)).getD false then none else some (precise v cOplim 0x0A)

def execTret (s : State) : Host.Outcome State Fault Refusal :=
  issue .tret s (fun s v => firstTrap (handlerTrap s v) (oddTrap v (savedReturns s v))) fun s v =>
    let t := forwardAll s v (savedReturns s v)
    roomFor s v t (.done (modRun (leaveHandler s v) v.gid fun r => { r with usable := Nat.max r.usable (s.now + Config.latInt) })
      (.tret t (s.now + Config.latInt)) 0)

end Sys2Proof.Machine
end

