-- ==== Sys2Proof/Machine/Parks.lean ====
section
/-! DEFINITION. The park of R176 and what follows it: deferred traps (R376, R412), transfers and filing (R202, R208, R209), waits
(R215, R216, R129) and barrier waits (R218-R220). -/

namespace Sys2Proof.Machine

/-! ## Wait conditions (Table 8.2) -/

/-- Condition i of ka. -/
def condBits (ka : DWord) (i : Nat) : Nat := fld ka.toNat (16 * i) 16

/-- A condition as evaluation begins (R215). The address of a watched word is rounded down to a multiple of 4: DESIGN CHOICE (log 92). A
path that loses arbitration rounds loses the same ones for the whole wait (R23, R129). -/
def condOf (s : State) (v : View) (rounds c : Nat) : Cond :=
  match fld c 12 4 with
  | 1 => .tileReady (fld c 0 8)
  | 2 => .barPhase (fld c 0 9) (bit c 9)
  | 3 => .slot (fld c 0 2)
  | 4 => .flag (fld c 0 6)
  | 5 => .word ((readK s v.unit (fld c 0 6)).toNat / 4 * 4) (BitVec.ofNat 32 (readK s v.unit (fld c 6 6)).toNat) s.now rounds []
  | 6 => .done (BitVec.ofNat 32 (readK s v.unit (fld c 0 6)).toNat)
  | _ => .none

/-- Entry of a tile of a unit (Table 4.3). -/
def tileNow (s : State) (u t : Nat) : Nat :=
  match unitOf s u with
  | some x => (tabGetD (x.tileBase + t) 0 (coreOf s x.core).tiles).toNat
  | none => 0

/-- The entry as the instructions of this cycle see it: one that `tset` wrote less than 4 cycles ago shows as it was (R280). -/
def tileWord (s : State) (u t : Nat) : Nat :=
  match (unitOf s u).bind fun x => (coreOf s x.core).tsets.find? fun (c, i, _) => s.now < c && i = x.tileBase + t with
  | some (_, _, old) => old.toNat
  | none => tileNow s u t

def tileState (s : State) (u t : Nat) : Nat := fld (tileWord s u t) 26 2

/-- Core and address in its store of an aperture address of a group (R92, R93), with the latency of Table 4.1. -/
def aperturePlace (v : View) (a : Nat) : Option (Nat × Nat × Nat) :=
  let lat (home : Bool) : Nat := if v.kc || !home then Config.latWindow else Config.latOwn
  if a < Config.storeBytes then some (v.core, a, lat true)
  else if 0x1000000 ≤ a ∧ a < 0x2800000 ∧ a % 0x100000 < Config.storeBytes then
    let c := v.core / 24 * 24 + (a - 0x1000000) / 0x100000
    some (c, a % 0x100000, lat (c == v.core))
  else none

/-- The word a wait watches, and the load path to its point of coherence (R129); none where nothing can be read. -/
def watchWord (s : State) (v : View) (addr : Nat) : Option (Word × Nat) :=
  if addr < 0x4000000 then
    (aperturePlace v addr).map fun (c, a, lat) => ((coreOf s c).store.word a, lat)
  else
    match serve s (unitGen s v.unit) addr true false with
    | .ok p => some (BitVec.ofNat 32 (natOf (readAs s (unitGen s v.unit) p 4)),
        match p with
        | .host .. => 0
        | _ => pathCycles s (dieOf v.core) p)
    | .error _ => none

/-- Whether a condition is met in this cycle (Table 8.2); `all` for `wait.all`. -/
def condMet (s : State) (v : View) (all : Bool) : Cond → Bool
  | .none => all
  | .tileReady t => fld (tileNow s v.unit t) 26 2 == 2
  | .barPhase b p =>
    (match unitOf s v.unit with
      | some u => ((tabGet b u.bars).map (·.par)).getD false
      | none => false) == p
  | .slot n => slotCount v.run n == 0
  | .flag f => (feOf s (unitPart s v.unit)).flags.toNat.testBit f
  | .word addr old start rounds diffs =>
    match watchWord s v addr with
    | none => false
    | some (x, path) =>
      let lat := path + Config.round * rounds
      if s.now ≤ start + lat then (if s.now = start then x != old else diffs.contains start)
      else if lat = 0 then x != old else diffs.contains (s.now - lat)
  | .done h => (handleStateIn s (unitLaunchId s v.unit) h).1 == 0

/-- The words that waits watch are seen in each cycle (R129); what lies too far back is forgotten. -/
def sampleCond (s : State) (v : View) : Cond → Cond
  | .word addr old start rounds diffs =>
    match watchWord s v addr with
    | some (x, _) =>
      .word addr old start rounds ((diffs.filter fun t => s.now < t + 65536) ++ if x != old then [s.now] else [])
    | none => .word addr old start rounds diffs
  | c => c

def sampleWait (s : State) (g : Gid) : State :=
  match view s g with
  | some v =>
    match v.run.status with
    | .waiting all kd conds tmo t0 =>
      if conds.any fun c => match c with | .word .. => true | _ => false then
        setStatus s g (.waiting all kd (conds.map (sampleCond s v)) tmo t0)
      else s
    | _ => s
  | none => s

def exitMet (s : State) (v : View) (all : Bool) (conds : List Cond) : Bool :=
  if all then conds.all (condMet s v all) else conds.any (condMet s v all)

/-- Slot returns of releasing engine commands are observed: each thread that was active at the issue acquires at the command's scope (R142),
which at cluster scope or wider empties the private L1 (R127). -/
def observeSlots (s : State) (v : View) (covers : Nat → Bool) : State :=
  let (seen, rest) := v.run.acqs.partition fun a => covers a.slot
  if seen.isEmpty then s
  else
    seen.foldl (fun a q =>
      let a1 := (lanesOf q.lanes).foldl (fun b l => if (thrOf b v.gid l).isSome then acquire b v.unit (agentOf b v l) q.obj false else b) a
      if v.kc then a1 else l1Acquire a1 v.core q.scope) (modRun s v.gid fun r => { r with acqs := rest })

/-- The counter a handle of a thread's launch names. -/
def countOf (s : State) (v : View) (h : Word) : Nat :=
  let l := unitLaunchId s v.unit
  if handleLevel h = 0 then obCount l h else obCount (((launchOf s l).map (·.fn)).getD 0) h

/-- Acquires of a wait that ends on conditions of kinds 1, 2, 3 and 6 (R216, Table 5.3). -/
def waitAcquires (s : State) (v : View) (all : Bool) (conds : List Cond) : State :=
  conds.foldl (fun a c =>
    if !condMet s v all c then a
    else match c with
      | .tileReady t => acquireLanes a v (obTile v.unit t) false
      | .barPhase b _ =>
        match (unitOf s v.unit).bind fun u => tabGet b u.bars with
        | some k => acquireLanes a v (obBar v.unit b (k.phase - 1)) false
        | none => a
      | .slot n => observeSlots a { v with run := ((view a v.gid).map (·.run)).getD v.run } (· == n)
      | .done h =>
        let b := acquireLanes a v (countOf a v h) false
        if v.kc then b else l1Acquire b v.core 4
      | _ => a) s

/-- A deferred trap is taken (R376): RET is where each thread would issue next. -/
def takeDeferred (s : State) (v : View) (d : Deferred) (ret : Pc) (rets : List (Nat × Pc)) : State :=
  raiseTrap (modRun s v.gid fun r => { r with deferred := r.deferred.erase d }) v { d.trap with ret := ret } rets

/-- A wait ends (R216): kd is written, the next instruction issues in the next cycle, and a deferred condition of a slot it
observed is taken (R376). -/
def endWait (s : State) (g : Gid) (timedOut : Bool) : State :=
  match view s g with
  | none => s
  | some v =>
    match v.run.status with
    | .waiting all kd conds _ _ =>
      let met := (conds.mapIdx fun i c => if condMet s v all c then 2 ^ i else 0).sum
      let tmo := timedOut && !exitMet s v all conds
      let s1 := modUnit s v.unit fun u =>
        { u with kpend := u.kpend ++ [⟨s.now + 1, s.now, v.kc, kd, BitVec.ofNat 64 (met + if tmo then 16 else 0)⟩] }
      let s2 := waitAcquires s1 v all conds
      let seen (d : Deferred) : Bool := !d.seen && conds.any fun c => decide (c = .slot d.slot) && condMet s v all c
      let s3 := startRun s2 g (s.now + 1)
      match v.run.deferred.find? seen with
      | some d => takeDeferred s3 v d v.pc []
      | none => s3
    | _ => s

/-! ## The end of a park (R176) -/

/-- Where each lane issues next after a marker whose action has not been taken (R376). -/
def returnsOf (v : View) : ParkAct → List (Nat × Pc)
  | .xfer t _ => t
  | .tret t _ => t
  | .split taken target _ => v.act.map fun l => (l, if inMask taken l then target else v.pc)
  | .reform taken target => v.act.map fun l => (l, if inMask taken l then target else v.pc)
  | .demote target => v.act.map fun l => (l, target)
  | .rfm _ _ => v.act.map fun l => (l, v.pc - 4)
  | .exit => v.act.map fun l => (l, v.pc - 4)
  | _ => []

/-- The deferred condition a park takes: the first to return of those observed (R412). The action of the marker is then not made: DEDUCED
(log 117). -/
def observed (s : State) (v : View) (act : ParkAct) : Option Deferred :=
  let inHandler := v.act.any fun l => ((thrOf s v.gid l).map (·.inHandler)).getD false
  let covered (n : Nat) : Bool := n = 3 || decide (act = .exit) || v.run.trl.toNat.testBit n
  let later := match act with | .tret .. => false | _ => !inHandler
  match act with
  | .trap .. => none
  | _ => v.run.deferred.find? fun d => if d.seen then later else covered d.slot

/-- Whether the unit of a group is cancelled (R56). -/
def isCancelled (s : State) (v : View) : Bool := ((unitOf s v.unit).map (·.cancelled)).getD false

/-- Whether the park of a group is over: R176, and what its action waits for besides (R213, R214, R386). -/
def parkEnds (s : State) (v : View) (act : ParkAct) : Bool :=
  let slotsZero := v.run.slots.all (· == 0)
  let cancelled := isCancelled s v
  let room (n : Nat) : Bool := stagingRoom s v.core n
  parkOver s v.run && (!cancelled || slotsZero) &&
  (cancelled || (observed s v act).isSome ||
    match act with
    | .exit => slotsZero && s.toStore.all fun h => h.gid != v.gid || h.serial != v.serial
    | .yield others => others.all fun (i, t) =>
        match warpOf s v.core i with
        | some w => decide (w.run.status ≠ .ready t)
        | none => true
    | .rfm .. => room v.act.length
    | .reform .. => room (match warpOf s v.core v.wslot with | some w => (homeLanes w).length | none => 0)
    | .xfer t _ => room (divergent t).length
    | .tret t _ => room (divergent t).length
    | _ => true)

/-- A transfer takes effect (R202, R208): the warp goes on at the lowest lane's target, the other threads are filed. -/
def transfer (s : State) (v : View) (tgts : List (Nat × Pc)) (at_ : Nat) : State :=
  match tgts with
  | [] => startRun s v.gid (Nat.max s.now at_)
  | (_, pc) :: _ =>
    let s1 := startRun (setPc s v.gid pc) v.gid (Nat.max s.now at_)
    match v.gid, divergent tgts with
    | .warp c w, d :: r => fileLanes s1 c w ((d :: r).map fun (l, t) => (l, t, Nat.min v.bsize 120))
    | _, _ => s1

/-- A split entry is pushed and its taken path runs (R44). -/
def pushSplit (s : State) (v : View) (taken : BitVec 32) (target : Pc) (tag : Nat) : State :=
  match v.gid with
  | .kindle .. => s
  | .warp c w =>
    let n := v.act.filter fun l => !inMask taken l
    let e : Split := ⟨tag, maskOf n, v.pc, 0, 0, false, none, false, false⟩
    let s1 := modWarp s c w fun x => { setLanes x n .deferred with splits := e :: x.splits, pc := target }
    startRun s1 v.gid s.now

/-- `rfm` files the active threads (R209). R48 and R209 let the warp give up its slot at issue, and R176 and R412 let the park and its deferred
traps come before any thread is filed; DEDUCED (log 89): the slot is given up when the park has ended and the threads are filed. -/
def reformNow (s : State) (v : View) (live : Nat) (target : Pc) : State :=
  match v.gid with
  | .kindle cl k => pumpRejoin (fileEjected s cl k target live) v.core v.wslot
  | .warp c w =>
    pathEmpty (fileLanes s c w (v.act.map fun l => (l, target, live))) c w (Nat.max s.now (transferAt v.run))

/-- `rjn` with the deferred path of the top entry still to run (R45): the running lanes park. -/
def switchAtRjn (s : State) (v : View) : State :=
  match v.gid with
  | .kindle .. => s
  | .warp c w =>
    match (warpOf s c w).map (·.splits) with
    | some (e :: rest) =>
      let s1 := modWarp s c w fun x =>
        { setLanes x v.act .parked with splits := { e with parkMask := maskOf v.act, parkPc := v.pc } :: rest }
      pathEmpty s1 c w (Nat.max s.now (transferAt v.run))
    | _ => startRun s v.gid s.now

/-- A group waits for a phase, or its paths swap (R218, R219). -/
def holdAt (s : State) (v : View) (b phase : Nat) : State :=
  match v.gid with
  | .kindle .. => setStatus s v.gid (.barrier b phase)
  | .warp c w =>
    match warpOf s c w with
    | some x =>
      if canSwap x then swapPaths s c w v.pc (some (b, phase)) (Nat.max s.now (transferAt v.run))
      else setStatus s v.gid (.barrier b phase)
    | none => s

/-- What a park led to (R176). -/
def parkAction (s : State) (v : View) : ParkAct → State
  | .next => startRun s v.gid s.now
  | .xfer t at_ => transfer s v t at_
  | .tret t at_ => transfer s v t at_
  | .split taken target tag => pushSplit s v taken target tag
  | .demote target => swapPaths s v.core v.wslot target none (Nat.max s.now (transferAt v.run))
  | .reform taken target => forcedReform s v.core v.wslot (v.act.map fun l => (l, if inMask taken l then target else v.pc))
  | .rfm live target => reformNow s v live target
  | .rjn tag =>
    match v.gid with
    | .kindle cl k =>
      if ((ejOf s cl k).map (·.tag)) = some tag then arriveRejoin s cl k else startRun s v.gid s.now
    | .warp .. => switchAtRjn s v
  | .exit =>
    match v.gid with
    | .kindle cl k => exitEjected s cl k
    | .warp c w => exitLanes s c w v.act
  | .yield _ => startRun s v.gid s.now
  | .wait all kd ka kb =>
    let words := (List.range 4).any fun i => fld (condBits ka i) 12 4 == 5
    let (lost, s1) := if words then takeLost s else (0, s)
    setStatus s1 v.gid (.waiting all kd ((List.range 4).map fun i => condOf s v lost (condBits ka i)) (BitVec.ofNat 32 kb.toNat)
      (tickOf s.now))
  | .bar b phase => holdAt s v b phase
  | .gbar phase => holdAt s v 512 phase
  | .trap t rets =>
    enterHandler (modRun s v.gid fun r => { r with deferred := r.deferred.map fun d => { d with seen := true } }) v t rets

/-- The park of a group ends: a warp of a cancelled unit ends (R56), a deferred trap is taken (R376), or the action of the
marker follows. -/
def endPark (s : State) (g : Gid) : State :=
  match view s g with
  | none => s
  | some v =>
    match v.run.status with
    | .parked act =>
      if !parkEnds s v act then s
      else if isCancelled s v then
        match g with
        | .warp c w =>
          match warpOf s c w with
          | some x => exitLanes (modWarp s c w fun y => { y with splits := [] }) c w (homeLanes x)
          | none => s
        | .kindle cl k => exitEjected s cl k
      else
        let s1 := observeSlots s v fun n => n = 3 || decide (act = .exit) || v.run.trl.toNat.testBit n
        match view s1 g with
        | none => s1
        | some v1 =>
          match observed s1 v1 act with
          | some d => takeDeferred s1 v1 d v1.pc (returnsOf v1 act)
          | none => parkAction s1 v1 act
    | _ => s

end Sys2Proof.Machine
end

