-- ==== Sys2Proof/Machine/Access.lean ====
section
/-! DEFINITION. Accesses of threads: the pieces of an access and their tests (R92-R94, R120, R125, R415-R419), arbitration rounds
(R23, R24, R96, R271), outstanding requests and their return (R178, R270, R376), the scope checker (R139, R425) and the words
the vector-clock unit watches (R133, R138). -/

namespace Sys2Proof.Machine

/-! ## Pieces and tests -/

/-- One piece of an access as translation finds it. -/
inductive Piece where
  | aper (core addr lat : Nat)
  | mem (p : Place) (ord stamp : Nat)
  | cause (code : Nat)
  /-- no translation yet: a walk is to start (R416) -/
  | absent
  /-- a walk, an ATS request or a page request is under way -/
  | waiting
  /-- a PRI page request is to be made (R419) -/
  | park
deriving DecidableEq, Repr

/-- Regions of a core's store that units of a launch hold (R94), as base and length. -/
def heldRegions (s : State) (launch core : Nat) : List (Nat × Nat) :=
  let mine := (residentsOn s core).filter fun (_, u) => u.launch = launch
  (mine.flatMap fun (_, u) =>
    (u.kept.map fun (_, p, n) => (2048 * p, 2048 * n)) ++
    if u.scrPages = 0 then [] else [(2048 * u.scrPage, 2048 * u.scrPages)]) ++
  (coreOf s core).warps.filterMap fun (_, w) =>
    if mine.any fun (i, _) => i = w.unit then some (2048 * w.page, 128 * w.bsize) else none

def regionHeld (s : State) (v : View) (core a n : Nat) : Bool :=
  let held := heldRegions s (unitLaunchId s v.unit) core
  (List.range ((a % 2048 + n + 2047) / 2048)).all fun i =>
    held.any fun (b, len) => b ≤ (a / 2048 + i) * 2048 && (a / 2048 + i) * 2048 < b + len

/-- The TLB a group uses: its core's, or its pool's. -/
def tlbOf (s : State) (g : Gid) : List Xlate :=
  match g with
  | .warp c _ => (coreOf s c).tlb
  | .kindle cl _ => (poolOf s cl).tlb

def installXlate (s : State) (g : Gid) (x : Xlate) : State :=
  let add (t : List Xlate) : List Xlate := if t.contains x then t else t ++ [x]
  match g with
  | .warp c _ => modCore s c fun k => { k with tlb := add k.tlb }
  | .kindle cl _ => modPool s cl fun p => { p with tlb := add p.tlb }

/-- The page request of a warp for a page (R419). -/
def pageReqOf (s : State) (v : View) (va : Nat) : Option (Nat × PageReq) :=
  s.pageReqs.find? fun (_, q) => q.serial = v.serial && q.core = v.core && q.gen = unitGen s v.unit && pageNo q.va = pageNo va

/-- The walk of a group for a page. -/
def walkOf (s : State) (v : View) (va : Nat) : Option (Nat × Walk) :=
  s.walks.find? fun (_, w) => w.why = 0 && w.gid = v.gid && w.gen = unitGen s v.unit && pageNo w.va = pageNo va

/-- A piece of a read or write (R92, R417): `r` and `w` are the permissions it needs. -/
def pieceOf (s : State) (v : View) (va len : Nat) (r w : Bool) : Piece :=
  if va < 0x4000000 then
    match aperturePlace v va with
    | some (c, a, lat) => if regionHeld s v c a len then .aper c a lat else .cause cAccess
    | none => .cause cAccess
  else
    match tlbFind (tlbOf s v.gid) (unitGen s v.unit) va with
    | some x =>
      match accessCause s x va r w with
      | some c => .cause c
      | none => .mem (xlPlace s x va) x.ord x.stamp
    | none =>
      match walkOf s v va with
      | some (_, k) => if s.now < k.ends then .waiting else .cause cPage
      | none =>
        match pageReqOf s v va with
        | some (_, q) => if q.pri then (if q.refused then .cause cPage else .waiting) else if q.refused then .park else .waiting
        | none => .absent

/-- The pieces of an access: cut where a page ends (R125); the aperture is never left inside a page. -/
def piecesOf (s : State) (v : View) (va len : Nat) (r w : Bool) : List (Nat × Nat × Piece) :=
  (pageCuts (va % 2 ^ 64) len).map fun (a, n) => (a, n, pieceOf s v a n r w)

/-- The path of a page-table entry read from the die of the translation service (R416). -/
def entryCycles (s : State) (die pa : Nat) : Nat := pathCycles s die (placeOf s pa)

/-- Die of the translation service that walks for a group. -/
def gidDie : Gid → Nat
  | .warp c _ => dieOf c
  | .kindle cl _ => cl / 12

/-- Walks of a die's service under way (R416). -/
def walksOf (s : State) (die : Nat) : Nat := (s.walks.filter fun x => gidDie x.2.gid = die && s.now < x.2.ends).length

/-- A walk starts for a group (R416): it ends after its entry reads and the rounds they lose; above 4,096 of the die it waits for a free one. -/
def startWalk (s : State) (g : Gid) (die gen va why : Nat) (len : Nat := 0) : State :=
  if 4096 ≤ walksOf s die then s
  else
    let (id, s1) := freshNat s
    let entries := (walk s gen va).2
    let (lost, s2) := takeLost s1
    let ends := s.now + (entries.map (entryCycles s die)).sum + Config.round * lost
    let wk : Walk := ⟨g, gen, va, why, len, ends, none, 0⟩
    schedule { s2 with walks := tabPut id wk s2.walks } ends .translationWalkEnd (.of [id])

/-- Failed walks and refused requests of a group are done with once its instruction has met them. -/
def dropAnswers (s : State) (v : View) : State :=
  { s with walks := s.walks.filter fun (_, w) => !(w.why = 0 && w.gid = v.gid && w.ends ≤ s.now)
           pageReqs := s.pageReqs.filter fun (_, q) => !(q.serial = v.serial && q.core = v.core && q.pri && q.refused) }

/-- The tests of R415 on the accesses of some lanes, each with address, length and permissions. -/
inductive Tested where
  /-- a translation is awaited -/
  | wait (s : State)
  | trap (s : State) (t : Trap)
  /-- lanes to be parked on page requests -/
  | park (lanes : List Nat) (pages : List Nat)
  | ok
deriving DecidableEq, Repr

/-- A cause that lanes meet, with every lane that meets it (R415). -/
def causeTrap (v : View) (code : Nat) (hits : List (Nat × Nat)) : Option Trap :=
  match hits with
  | [] => none
  | (_, a) :: _ => some (precise v code (maskOf (hits.map (·.1))).toNat a)

/-- DETERM write ranges (R296, R426): whether a range of bytes lies in the ranges of a unit in effect. -/
def ownsRange (s : State) (u a n : Nat) : Bool :=
  match unitOf s u with
  | none => true
  | some x => (List.range n).all fun i => x.own.any fun o =>
      o.from_ ≤ s.now && (match o.until_ with | some e => s.now < e | none => true) && o.base ≤ a + i && a + i < o.base + o.len

/-- Lines of memory that transfers of the threads of a group have still to read or write, with whether they write (R279, R317). -/
def linesToCome (s : State) (v : View) : List (Nat × Nat × Bool) :=
  let of (read : Bool) (l : Line) : Option (Nat × Nat × Bool) :=
    match if read then l.src else l.dst with
    | .mem _ va _ => if s.now ≤ (if read then l.readAt else l.writeAt) then some (va, l.len, !read) else none
    | _ => none
  ((s.reqs.filter fun x => madeBy s v x.2).flatMap fun (_, q) =>
    let read := match q.kind with | .tget .. => true | _ => false
    (q.lines ++ q.rest).filterMap (of read)) ++
  (s.matOps.filter fun (_, m) => m.kind = 9 && m.serial = v.serial && m.gid = v.gid).flatMap fun (_, m) => m.lines.filterMap (of (m.op = 0))

/-- An earlier access of the same threads is still to reach a byte that lanes are to access, a store of a committed region or a line of a
transfer, and one of the two writes: the access waits for it (R126). DESIGN CHOICE (log 93). -/
def behindStore (s : State) (v : View) (accs : List (Nat × Nat × Nat)) (w : Bool) : Bool :=
  ((storesToCome s v).any fun h => h.store.items.any fun (l, a, b) =>
    accs.any fun (lane, va, n) => l = lane && va < a + b.length && a < va + n) ||
  ((linesToCome s v).any fun (a, k, wr) => (w || wr) && accs.any fun (_, va, n) => va < a + k && a < va + n) ||
  (s.reqs.any fun (_, q) => madeBy s v q && q.holds.any fun h =>
    (w || h.op.writes) && accs.any fun (_, va, n) => va < h.frag.va + h.frag.len && h.frag.va < va + n)

def testAccess (s : State) (v : View) (accs : List (Nat × Nat × Nat)) (r w own : Bool) : Tested :=
  if behindStore s v accs w then .wait s else
  let all := accs.flatMap fun (lane, va, n) => (piecesOf s v va n r w).map fun (a, k, p) => (lane, va, a, k, p)
  let pages (f : Piece → Bool) : List Nat := dedup ((all.filter fun x => f x.2.2.2.2).map fun x => x.2.2.1 / 65536 * 65536)
  let missing := pages fun p => decide (p = .absent)
  if !missing.isEmpty then
    .wait (missing.foldl (fun a p => startWalk a v.gid (dieOf v.core) (unitGen s v.unit) p 0) s)
  else if all.any fun x => decide (x.2.2.2.2 = .waiting) then .wait s
  else
    let hits (code : Nat) : List (Nat × Nat) := (accs.filter fun (lane, va, _) =>
      all.any fun x => x.1 = lane && x.2.1 = va && decide (x.2.2.2.2 = .cause code)).map fun (lane, va, _) => (lane, va)
    let owned (x : Nat × Nat × Nat × Nat × Piece) : Bool :=
      match x.2.2.2.2 with
      | .mem .. => ownsRange s v.unit x.2.2.1 x.2.2.2.1
      | _ => true
    let ownHits := if own && isDeterm s v.unit then
        (accs.filter fun (lane, va, _) => all.any fun x => x.1 = lane && x.2.1 = va && !owned x).map fun (lane, va, _) => (lane, va)
      else []
    match [causeTrap v cAccess (hits cAccess), causeTrap v cPage (hits cPage), causeTrap v cPerm (hits cPerm),
        causeTrap v cOwn ownHits].findSome? id with
    | some t => .trap (dropAnswers s v) t
    | none =>
      match pages fun p => decide (p = .park) with
      | [] => .ok
      | ps => .park (dedup ((all.filter fun x => decide (x.2.2.2.2 = .park)).map (·.1))) ps

/-- Page requests go out for some pages (R419): those whose ATS request gave nothing. -/
def requestPages (s : State) (v : View) (lanes : BitVec 32) (pages : List Nat) : State :=
  { s with pageReqs := s.pageReqs.map fun (i, q) =>
      if q.serial = v.serial && q.core = v.core && !q.pri && pages.any fun p => pageNo p = pageNo q.va then
        (i, { q with pri := true, refused := false, lanes := lanes }) else (i, q) }

/-- Lanes are parked on page requests under a fault entry (R419). -/
def parkLanes (s : State) (v : View) (lanes pages : List Nat) : State :=
  let e : Split := ⟨0, maskOf lanes, v.pc, 0, 0, false, none, true, true⟩
  modWarp (requestPages s v (maskOf lanes) pages) v.core v.wslot fun x =>
    { setLanes x lanes .faultParked with splits := e :: x.splits }

/-- The one access of a uniform instruction with its tests (R415): a page request is waited for by the whole active set (R385). -/
def lowAccess (s : State) (v : View) (accs : List (Nat × Nat × Nat)) (r w own : Bool) (act : State → View → Did) : Did :=
  match testAccess s v accs r w own with
  | .wait s1 => .wait s1 (s.now + 1)
  | .trap s1 t => .left (trapNow s1 v t)
  | .ok => act s v
  | .park _ pages => .wait (requestPages s v 0 pages) (s.now + 1)

/-- An access with its tests (R415): it waits, traps, parks lanes and goes on with the others (R419, R385), or acts. -/
def access (s : State) (v : View) (accs : List (Nat × Nat × Nat)) (r w own : Bool) (act : State → View → Did) : Did :=
  match testAccess s v accs r w own with
  | .wait s1 => .wait s1 (s.now + 1)
  | .trap s1 t => .left (trapNow s1 v t)
  | .ok => act s v
  | .park lanes pages =>
    match v.gid with
    | .kindle .. => .wait (requestPages s v 0 pages) (s.now + 1)
    | .warp c w =>
      if 4 ≤ ((warpOf s c w).map (·.splits.length)).getD 4 then .wait (requestPages s v 0 pages) (s.now + 1)
      else
        let s1 := parkLanes s v lanes pages
        let rest := v.act.filter fun l => !lanes.contains l
        if rest.isEmpty then .left (pathEmpty (freeQuad s1 v.gid) c w (s.now + 4))
        else act s1 { v with act := rest }

/-! ## Rounds (R23, R24) -/

/-- Rounds that the requests of a group lose on top of those the access itself makes: the environment's (log 6), or the
recorded ones in replay (R91). -/
def drawLost (s : State) (v : View) : Nat × State :=
  let l := unitLaunchId s v.unit
  if replays s l then (((recordedNow s l 0x08).map fun e => fld e 0 8).getD 0, s) else takeLost s

/-- Rounds are added to ARB of the warp, or kept by the ejected thread (R24). -/
def addRounds (s : State) (v : View) (n : Nat) : State :=
  if n = 0 then s
  else
    match v.gid with
    | .warp c w => modWarp s c w fun x => addArb x n
    | .kindle cl k => modEj s cl k fun e => { e with lost := e.lost + n }

/-- A request made: its ordinal counts, and lost rounds are recorded (Table 3.8). -/
def countRequest (s : State) (v : View) (rounds lost : Nat) : State :=
  let n := ((warpOf s v.core v.wslot).map (·.reqCount)).getD 0
  let s1 := modWarp s v.core v.wslot fun w => { w with reqCount := w.reqCount + 1 }
  let s2 := if lost = 0 then s1 else capture s1 (unitLaunchId s v.unit) 0x08 v.core (v.wslot * 64) (n * 256 + lost)
  addRounds s2 v (rounds + lost)

/-- Passes of R96 over the words that aperture pieces touch. -/
def bankPasses (words : List Nat) : Nat :=
  let w := dedup words
  maxOf ((List.range 32).map fun b => (w.filter fun x => x % 32 = b).length)

/-! ## Requests -/

/-- The step at which a request returns: a load, a store, or an atomic (which is both). -/
def returnEvent (q : Req) : Instr := if q.isLoad then (if q.isStore then .atomicComplete else .loadReturn) else .storeAck

/-- A request with the parts every request shares. -/
def Req.mk' (s : State) (v : View) (slot : Option Nat) (kind : ReqKind) (due : Nat) : Req :=
  { gid := v.gid, serial := v.serial, unit := v.unit, gen := unitGen s v.unit, slot := slot, lanes := maskOf v.act, ipc := v.pc,
    kind := kind, issued := s.now, due := due, reads := [], isLoad := false, isStore := false, un := false, aper := [], holds := [], poison := [], fills := [], outside := [], ordinal := 0, acq := 0,
    host := false, node := none, fault := none, sent := s.now, again := none, core := v.core, thrs := thrsOf s v, upd := [], drop := [], lines := [], rest := [] }

/-- A request is made: its slot counts and its return is to come (R178). -/
def sendReq (s : State) (q : Req) (i : Instr) : State :=
  let (id, s1) := freshNat s
  let s2 := match q.slot with | some n => slotAdd s1 q.gid n | none => s1
  schedule { s2 with reqs := tabPut id q s2.reqs } q.due i (.of [id])

/-- A store, an atomic or a fence of a group issues: no load of it outstanding is replayable (Table 3.7). -/
def pinLoads (s : State) (v : View) : State :=
  { s with reqs := s.reqs.map fun (i, q) => if q.gid = v.gid && q.serial = v.serial then (i, { q with again := none }) else (i, q) }

/-- The group that made a request, if it is still there (R84). -/
def requester (s : State) (q : Req) : Option View := (view s q.gid).filter fun v => v.serial = q.serial

/-- A view of a group as it stood when it issued work: its lanes and the address of the instruction. -/
def viewThen (s : State) (g : Gid) (serial unit core : Nat) (lanes : BitVec 32) (ipc : Pc) : View :=
  match (view s g).filter fun v => v.serial = serial with
  | some v => { v with act := lanesOf lanes, pc := ipc }
  | none =>
    { gid := g, core := core, wslot := match g with | .warp _ w => w | .kindle .. => 0
      serial := serial, unit := unit, kc := false, act := lanesOf lanes, pc := ipc, run := Run.fresh s.now, bsize := 128, page := 0 }

/-- A load item by its size code (R272): words in register order. -/
def itemWords (size : Nat) (b : List Byte) : List Word :=
  let n := natOf b
  match size with
  | 0 => [BitVec.ofNat 32 (n % 256)]
  | 1 => [BitVec.ofNat 32 (wrap 32 (sx 8 n))]
  | 2 => [BitVec.ofNat 32 (n % 65536)]
  | 3 => [BitVec.ofNat 32 (wrap 32 (sx 16 n))]
  | 5 => [BitVec.ofNat 32 n, BitVec.ofNat 32 (n / 2 ^ 32)]
  | 6 => (List.range 4).map fun i => BitVec.ofNat 32 (n / 2 ^ (32 * i))
  | _ => [BitVec.ofNat 32 n]

/-- Bytes of an item of a size code. -/
def sizeBytes (size : Nat) : Nat :=
  match size with
  | 0 | 1 => 1
  | 2 | 3 => 2
  | 5 => 8
  | 6 => 16
  | _ => 4

/-- A register word of a warp takes poison with the value written to it (R430). -/
def poisonX (s : State) (v : View) (lane reg : Nat) : State :=
  match v.gid with
  | .warp c _ =>
    if reg < 120 then
      let a := regAddr v.page reg lane
      modCore s c fun k => { k with storePoison := if k.storePoison.contains a then k.storePoison else k.storePoison ++ [a] }
    else s
  | .kindle cl k => modEj s cl k fun e => if e.poison.contains reg || 120 ≤ reg then e else { e with poison := e.poison ++ [reg] }

/-- Lane results written as the request returns. -/
def putItems (s : State) (v : View) (q : Req) (items : List (Nat × Nat × Word)) : State :=
  let s1 := if !v.kc && changes s v items then progress s v else s
  items.foldl (fun a (l, r, x) => putX a v q.issued l r x) s1

/-- What a return writes. -/
def putResult (s : State) (v : View) (q : Req) : State :=
  match q.kind with
  | .load size items =>
    let flat := items.flatMap fun (l, d, b) => if b.isEmpty then [] else (itemWords size b).mapIdx fun i x => (l, d + i, x)
    let s1 := putItems s v q flat
    (items.mapIdx fun i x => (i, x)).foldl (fun a (i, (l, d, b)) =>
      if q.poison.contains i then (List.range (itemWords size b).length).foldl (fun t j => poisonX t v l (d + j)) a else a) s1
  | .ldk k size b =>
    let n := natOf b
    let x := match size with
      | 0 => n % 256
      | 1 => wrap 64 (sx 8 n)
      | 2 => n % 65536
      | 3 => wrap 64 (sx 16 n)
      | 5 => n
      | _ => n % 2 ^ 32
    putK s q.unit q.issued k (BitVec.ofNat 64 x)
  | .omld om b => modUnit s q.unit fun u => { u with om := tabPut om (BitVec.ofNat 128 (natOf b)) u.om }
  | .kval k x => putK s q.unit q.issued k x
  | .matrix fl items =>
    let s1 := putItems s v q items
    if fl = 0 then s1 else (lanesOf q.lanes).foldl (fun a l => modThr a v.gid l fun t => { t with flags := t.flags ||| fl }) s1
  | .store | .nothing | .tget .. | .tdrn .. => s

/-- A deferred condition is found as a slot returns (R376, R412); during a fatal halt it is only counted (R378). -/
def addDeferred (s : State) (v : View) (slot : Nat) (t : Trap) : State :=
  match (launchOf s (unitLaunchId s v.unit)).bind (·.fatal) with
  | some f =>
    if f.stopped then modLaunch s (unitLaunchId s v.unit) fun l => { l with fatal := some { f with extra := f.extra + 1 } }
    else modRun s v.gid fun r => { r with deferred := r.deferred ++ [⟨slot, t, false⟩] }
  | none => modRun s v.gid fun r => { r with deferred := r.deferred ++ [⟨slot, t, false⟩] }

/-- The record of a deferred trap (R376); RET is filled in when it is taken. -/
def deferredTrap (v : View) (code aux faddr : Nat) (ipc : Pc) (lanes : BitVec 32) : Trap :=
  { word := causeWord code true v.kc, aux := BitVec.ofNat 32 aux, ret := 0, ipc := ipc, faddr := BitVec.ofNat 64 faddr, lanes := lanes }

/-! ### Inputs from outside the partition (Table 3.8, R91) -/

/-- Entries of 16 bytes that some bytes fill. -/
def inputEntries (n : Nat) : Nat := ceilDiv n 16

/-- The recorded input of a request ordinal, at or after the next entry: its cycle and its bytes. -/
def findInput (s : State) (x : Launch) (ordinal : Nat) : Nat → Nat → Option (Nat × List Byte)
  | 0, _ => none
  | fuel + 1, idx =>
    match x.entry s idx with
    | none => none
    | some e =>
      let skip := if fld e 56 8 = 0x0A then fld e 32 12 else if fld e 56 8 = 0x01 then 4 else 0
      if fld e 56 8 = 0x0A && fld e 0 32 = ordinal % 2 ^ 32 then
        some (e / 2 ^ 64, (List.range skip).flatMap fun i => bytesOf 16 ((x.entry s (idx + 1 + i)).getD 0))
      else findInput s x ordinal fuel (idx + 1 + skip)

/-- Bytes appended to a capture buffer as entries of their own. -/
def captureData (s : State) (l : Nat) : Nat → List Byte → State
  | 0, _ => s
  | n + 1, b =>
    match launchOf s l with
    | none => s
    | some x =>
      if x.capFull then s else captureData (appendEntry s l x (natOf (b.take 16))) l n (b.drop 16)

/-- An input of a request arrives: recorded, or met in replay. -/
def inputReturned (s : State) (q : Req) : State :=
  let l := unitLaunchId s q.unit
  if q.outside.isEmpty then s
  else
    let n := inputEntries q.outside.length
    let s1 := capture s l 0x0A (unitPart s q.unit) n q.ordinal
    match launchOf s1 l with
    | none => s1
    | some x =>
      if x.rply then modLaunch s1 l fun y => { y with capIdx := y.capIdx + n }
      else if x.capt then captureData s1 l n q.outside
      else s1

/-- A halt of a context has taken effect (R82). -/
def ctxStops (s : State) (gen : Nat) : Bool := (ctxOf s gen).any fun x => x.halted && decide (x.haltedAt ≤ s.now)

/-- A return to a unit that stands in a halt of its context becomes usable after the resume, at its offset from there (R85, R327). -/
def returnsLater (s : State) (unit gen : Nat) : Bool := ctxStops s gen && (unitOf s unit).any fun u => u.halted

/-- A request that came back is kept until its context resumes. -/
def keepReturn (s : State) (q : Req) : State :=
  let kind := match q.kind with | .tget .. | .tdrn _ => .nothing | k => k
  modCtx s q.gen fun c => { c with returns := c.returns ++ [{ q with kind := kind, due := s.now, upd := [], drop := [], fills := [], lines := [] }] }

/-- A request returns (R178): results, acquire, slot and deferred condition. -/
def returnReq (s : State) (id : Nat) : State :=
  match tabGet id s.reqs with
  | none => s
  | some q =>
    -- the L1 takes or drops what was written before the acknowledgement reaches anyone (R128)
    let s1 := l1Settle { s with reqs := tabDel id s.reqs } q.gen q.core q.upd q.drop
    match requester s1 q with
    | none => s1
    | some v =>
      -- loads of a cancelled unit are discarded (R56)
      let s0 := q.fills.foldl (fun a (line, mask) => l1Fill a q.gen v.core line mask (placeOf a (128 * line))) s1
      if returnsLater s q.unit q.gen then keepReturn s0 q else
      let s2 := inputReturned (if isCancelled s0 v then s0 else putResult s0 v q) q
      let s3 := if q.acq = 0 || v.kc then s2 else l1Acquire s2 v.core q.acq
      let s4 := match q.slot with | some n => slotSub s3 v.gid n | none => s3
      match q.fault with
      | some t => addDeferred s4 v (q.slot.getD 3) t
      | none => s4

/-- A return event takes effect once the request is due. -/
def returnDue (s : State) (id : Nat) : State :=
  match tabGet id s.reqs with
  | some q => if q.due ≤ s.now && q.holds.isEmpty then returnReq s id else s
  | none => s

/-! ## Aperture accesses in their cycle (R453) -/

/-- Bytes placed in an item of a request. -/
def fillItem (kind : ReqKind) (idx off : Nat) (b : List Byte) : ReqKind :=
  let put (x : List Byte) : List Byte := x.take off ++ b ++ x.drop (off + b.length)
  match kind with
  | .load size items => .load size (items.mapIdx fun i (l, d, x) => if i = idx then (l, d, put x) else (l, d, x))
  | .ldk k size x => .ldk k size (put x)
  | .omld om x => .omld om (put x)
  | k => k

/-! ### Atomic operations (R275) -/

/-- The smaller or larger of two float codes, −0 below +0. -/
def floatPick (f : Fmt) (max : Bool) (a b : Nat) : Nat :=
  let (x, y) := (f.decode a, f.decode b)
  if x.isNan || y.isNan then f.nanCode else if x.lessSigned y == max then b else a

/-- New value of an item: operation 0 add, 1 min, 2 max, 3 and, 4 or, 5 xor, 6 xchg, 7 cas, 8 the decrement of `jdec` (R223). -/
def atomNew (op : Nat) (flt wide : Bool) (old c v : Nat) : Nat :=
  let w := if wide then 64 else 32
  let f := if wide then f64 else f32
  match op with
  | 0 => if flt then (f.round 0 2 ((f.decode old).add (f.decode v))).1 else (old + v) % 2 ^ w
  | 1 => if flt then floatPick f false old v else if sx w old ≤ sx w v then old else v
  | 2 => if flt then floatPick f true old v else if sx w old ≤ sx w v then v else old
  | 3 => old &&& v
  | 4 => old ||| v
  | 5 => old ^^^ v
  | 6 => v
  | 8 => old - 1
  | _ => if old = c then v else old

/-- The sealed report of a JOIN of 0 (R388): the record's address, and IPC. -/
def joinReport (s : State) (unit addr : Nat) (ipc : Pc) : State :=
  match launchOf s (unitLaunchId s unit) with
  | none => s
  | some x => postReport s x.fn 6 x.gen x.handle.toNat addr ipc.toNat []

/-- An aperture access acts; a store of all 32 bits of a word clears its poison (R428). -/
def actAper (s : State) (id : Nat) (a : Aper) : State :=
  let read (n : Nat) : List Byte := (coreOf s a.core).store.read a.addr n
  let write (t : State) (addr : Nat) (b : List Byte) : State :=
    modCore t a.core fun k =>
      { k with store := k.store.write addr b
               storePoison := k.storePoison.filter fun p => !(addr ≤ p && p + 4 ≤ addr + b.length) }
  let fill (t : State) (b : List Byte) : State := modReq t id fun q => { q with kind := fillItem q.kind a.idx a.off b }
  match a.op with
  | .load =>
    let bad := (coreOf s a.core).storePoison.any fun p => p < a.addr + a.len && a.addr < p + 4
    let s1 := if bad then modReq s id fun q => { q with poison := q.poison ++ [a.idx] } else s
    fill s1 (read a.len)
  | .store b bad =>
    let s1 := write s a.addr b
    if !bad then s1
    else
      let ws := (dedup ((List.range b.length).map fun i => (a.addr + i) / 4 * 4))
      modCore s1 a.core fun k => { k with storePoison := k.storePoison ++ ws.filter fun w => !k.storePoison.contains w }
  | .atom op flt wide c v =>
    let old := natOf (read a.len)
    -- `jdec` carries the address of its record in the place of a compare value
    if op = 8 && old = 0 then (match tabGet id s.reqs with | some q => joinReport s q.unit c q.ipc | none => s)
    else fill (write s a.addr (bytesOf a.len (atomNew op flt wide old c v))) (read a.len)
  | .lstu => fill (write s (a.addr / 32 * 32) (List.replicate 32 0)) (read a.len)

/-- Aperture accesses whose access cycle this is (R453), in issue order. -/
def actApers (s : State) : State :=
  s.reqs.foldl (fun a (id, q) =>
    if q.aper.isEmpty then a
    else
      let (nowOnes, later) := q.aper.partition fun x => x.due ≤ s.now
      if nowOnes.isEmpty then a
      else modReq (nowOnes.foldl (fun t x => actAper t id x) a) id fun r => { r with aper := later }) s

/-! ## Ports of the banks (R96, R453) -/

/-- Words of a core's store that some bytes touch. -/
def storeWords (addr len : Nat) : List Nat := (List.range ((addr % 4 + len + 3) / 4)).map fun j => addr / 4 + j

/-- Whether accesses of a group to words of stores, as core and word, that would act in a cycle meet older ones: one that acts in that
cycle through the same bank port (R96), or one of the same thread to the same word that acts no earlier (R126, R453). Which accesses meet
at a port is DEDUCED (log 109). -/
def meetsPort (s : State) (v : View) (ws : List (Nat × Nat)) (due : Nat) : Bool :=
  s.reqs.any fun (_, q) => q.aper.any fun x =>
    let old := storeWords x.addr x.len
    (x.due = due && ws.any fun (c, w) => c = x.core && old.any fun o => o % 32 = w % 32) ||
    (due ≤ x.due && madeBy s v q && ws.any fun (c, w) => c = x.core && old.contains w) ||
  s.reqs.any fun (_, q) => madeBy s v q && q.lines.any fun l =>
    match q.kind with
    | .tget .. => storeMeets l.src l.len ws due l.readAt
    | _ => storeMeets l.dst l.len ws due l.writeAt
where
  /-- an end of a line of the thread in a store that is reached no earlier -/
  storeMeets (p : Spot) (len : Nat) (ws : List (Nat × Nat)) (due at_ : Nat) : Bool :=
    match p with
    | .store c a => due ≤ at_ && ws.any fun (k, w) => k = c && (storeWords a len).contains w
    | _ => false

/-- Rounds that accesses lose until they meet no older one (R23, R96). -/
def portRounds (s : State) (v : View) (ws : List (Nat × Nat)) : Nat → Nat → Nat
  | 0, _ => 0
  | fuel + 1, due => if meetsPort s v ws due then portRounds s v ws fuel (due + Config.round) + 1 else 0

/-- Rounds that the accesses of a group to words of stores lose to the accesses under way. The last of these bounds them. -/
def portLost (s : State) (v : View) (ws : List (Nat × Nat)) (due : Nat) : Nat :=
  if ws.isEmpty then 0
  else
    let last := maxOf (s.reqs.map fun x => maxOf (x.2.aper.map (·.due) ++ x.2.lines.map fun l => l.ackAt))
    portRounds s v ws ((last + 2 * Config.round - due) / Config.round) due

/-! ## The scope checker (R130, R131, R139, R140) -/

/-- Members of the warp of a group that are not ejected, by their number in the unit; none for an ejected thread, whose warp scope is its
thread scope. -/
def warpMembers (s : State) (v : View) : List Nat :=
  match v.gid with
  | .kindle .. => []
  | .warp c w => ((warpOf s c w).map fun x => x.lanes.filterMap fun l => if l.st = .ejected then none else l.thr.map (·.lthr)).getD []

/-- Lanes of a group as a releasing agent: 0 threads of a warp, 1 the engine command they issued. An ejected thread is agent 2. -/
def partyOf (s : State) (v : View) (agent : Nat) (lanes : List Nat) : Party :=
  { agent := if agent = 0 && v.kc then 2 else agent, node := s.node, cluster := clusterOf v.core, unit := v.unit, lid := ((unitOf s v.unit).map (·.lid)).getD 0
    wslot := v.wslot, thrs := lanes.map (lthrOf s v.gid), members := if agent = 1 then [] else warpMembers s v }

/-- A front end as a releasing agent: it lies within device scope and the wider ones only (R130, R140). -/
def frontParty (s : State) : Party := ⟨3, s.node, 48, 2 ^ 64, 0, 0, [], []⟩

/-- Whether a release at a scope by an agent and an acquire at a scope by a lane of a group are inclusive (R131): the lane's thread lies in
the releasing agent's scope as it was at the release, and the agent in the thread's scope as it is now. -/
def inclusive (s : State) (r : Party) (rscope : Nat) (v : View) (lane scope : Nat) : Bool :=
  let b := lthrOf s v.gid lane
  let same := r.unit = v.unit && r.thrs.contains b
  let wide (k : Nat) : Bool :=
    match k with
    | 2 => r.unit = v.unit
    | 3 => r.cluster = clusterOf v.core
    | 4 => r.node = s.node
    | _ => true
  let inA := match rscope with
    | 0 => same
    | 1 => same || (r.unit = v.unit && r.members.contains b)
    | k => wide k
  let inB := match scope with
    | 0 => same
    | 1 => same || (r.unit = v.unit && (r.agent = 0 || r.agent = 1) && r.thrs.any (warpMembers s v).contains)
    | k => wide k
  inA && inB

/-- The release on record for bytes of device memory. -/
def releaseOn (s : State) (p : Place) (n : Nat) : Option SyncLine :=
  match p with
  | .dev a => s.syncLines.find? fun r => r.addr < a + n && a < r.addr + r.len
  | _ => none

/-- A release at bytes of device memory is recorded with its line (R139). -/
def recordRelease (s : State) (by_ : Party) (p : Place) (n scope : Nat) : State :=
  match p with
  | .dev a => { s with syncLines := s.syncLines.filter (fun x => x.addr / 128 != a / 128) ++ [⟨a, n, scope, by_⟩] }
  | _ => s

/-- The sealed report of a failed scope check (R425, Table 17.7). -/
def scopeReport (s : State) (v : View) (r : SyncLine) (scope line : Nat) : State :=
  match unitLaunch s v.unit with
  | none => s
  | some x => postReport s x.fn 8 x.gen x.handle.toNat line v.pc.toNat
      (bytesOf 1 scope ++ bytesOf 1 r.scope ++ bytesOf 2 r.by_.node ++ bytesOf 1 r.by_.cluster ++ bytesOf 3 r.by_.wslot ++ bytesOf 4 r.by_.lid ++
        bytesOf 4 0)

/-! ## The accesses of threads under the vector-clock unit (R131, R133, R138) -/

/-- A release by a lane on words of memory, at a scope: what they carry is this release alone, or, for an atomic, this one too. -/
def releaseWords (s : State) (v : View) (lane scope : Nat) (p : Place) (n : Nat) (atom all : Bool) : State :=
  if !clocksOn s v.unit then s
  else (wordsIn p.key n).foldl (fun a w =>
    releaseAt (if atom then a else dropRels a w) v.unit (agentOf s v lane) w scope (partyOf s v 0 [lane]) all) s

/-- An acquire by a lane of what some object carries. -/
def acquireOf (s : State) (v : View) (lane scope ob : Nat) (all : Bool) : State :=
  acquireAt s v.unit (agentOf s v lane) ob (fun r => inclusive s r.by_ r.scope v lane scope) all

/-- An acquire by a lane on words of memory. -/
def acquireWords (s : State) (v : View) (lane scope : Nat) (p : Place) (n : Nat) : State :=
  (wordsIn p.key n).foldl (fun a w => acquireOf a v lane scope w false) s

end Sys2Proof.Machine
end

