-- ==== Sys2Proof/Machine/Memory.lean ====
section
/-! DEFINITION. Loads, stores, atomics and fences (R269-R278), the hints (R293-R295, R145, R146), ownership and register addresses
(R296, R297), and the returns of requests (R178, R270). -/

namespace Sys2Proof.Machine

/-! ## Where the bytes of an access lie -/

/-- Accesses of lanes: lane, address, length. -/
abbrev Accs := List (Nat × Nat × Nat)

def fragsOf (s : State) (v : View) (accs : Accs) : List Frag :=
  (accs.mapIdx fun i x => (i, x)).flatMap fun (i, (_, va, n)) =>
    (piecesOf s v va n false false).flatMap fun (a, k, p) =>
      match p with
      | .mem pl ord _ => (lineCuts a k).map fun (b, m) => ⟨i, b - va, b, m, pl.plus (b - a), ord⟩
      | _ => []

def touchesOf (s : State) (v : View) (accs : Accs) : List Touch :=
  (accs.mapIdx fun i x => (i, x)).flatMap fun (i, (_, va, n)) =>
    (piecesOf s v va n false false).flatMap fun (a, k, p) =>
      match p with
      | .aper c ad lat => [⟨i, a - va, c, ad, k, lat⟩]
      | _ => []

/-- Passes of the busiest core (R96). -/
def passesOf (ts : List Touch) : Nat :=
  maxOf ((dedup (ts.map (·.core))).map fun c =>
    bankPasses ((ts.filter fun t => t.core = c).flatMap fun t =>
      (List.range ((t.addr % 4 + t.len + 3) / 4)).map fun j => t.addr / 4 + j))

/-- Virtual lines of an access, ascending (R271). -/
def linesOf (fs : List Frag) : List Nat := sortBy id (dedup (fs.map fun f => f.va / 128))

/-- The access cycle of the aperture part of an access that loses some rounds besides, and its own rounds: the further passes, and those it
loses to older accesses at the ports of its banks (R96, R453). The passes of an access act together in that cycle (R453). -/
def apertureDue (s : State) (v : View) (ts : List Touch) (lost : Nat) : Nat × Nat :=
  let more := passesOf ts - 1
  let first := s.now + maxOf (ts.map (·.lat)) + Config.round * (more + lost)
  let port := portLost s v (ts.flatMap fun t => (storeWords t.addr t.len).map fun w => (t.core, w)) first
  (first + Config.round * port, more + port)

/-! ### The L1 at the acknowledgement of a write (R106, R128, R273) -/

/-- Bytes of lane stores, as line, offset and length. -/
def l1Bytesof (s : State) (fs : List Frag) : List (Nat × Nat × Nat) :=
  fs.filterMap fun f => (lineOf s f.place).map fun l => (l, f.va % 128, f.len)

/-- Sectors of writes that do not pass through the L1, as line and mask. -/
def l1Sectors (s : State) (fs : List Frag) : List (Nat × Nat) :=
  fs.filterMap fun f => (lineOf s f.place).map fun l => (l, sectorMask (f.va % 128) f.len)

/-- What a write by a group leaves for its acknowledgement: kind 1 a lane store, which updates the L1 unless its thread is ejected. -/
def withL1 (s : State) (v : View) (kind : Nat) (fs : List Frag) (q : Req) : Req :=
  if kind = 1 && !v.kc then { q with upd := l1Bytesof s fs } else { q with drop := l1Sectors s fs }

/-- Some part of an access lies on an SO page: it is a release or an acquire (R135). -/
def anySo (fs : List Frag) : Bool := fs.any fun f => f.ord = 1

/-- Scope of an SO access by where it lies (Table 5.3). -/
def soScope : Place → Nat
  | .dev _ => 4
  | .remote .. => 5
  | .host .. => 6

def lidOf (s : State) (u : Nat) : Nat := ((unitOf s u).map (·.lid)).getD 0

/-! ## Reports of a context (R431, R437, R455) -/

/-- A read of a poisoned sector is reported to the reading context (R431). -/
def poisonReport (s : State) (v : View) (p : Place) (va : Nat) : State :=
  match launchOf s (unitLaunchId s v.unit), p with
  | some x, .dev a =>
    let line := a / 128
    let body := if l2Has s line then bytesOf 2 2 ++ bytesOf 2 (homeDie line)
      else bytesOf 2 3 ++ bytesOf 2 (Config.stackOf line % 12 * 16 + storageOf s a / 2 ^ 30 % 16)
    postReport s x.fn 3 x.gen x.handle.toNat va v.pc.toNat (body ++ bytesOf 4 1 ++ bytesOf 8 0)
  | _, _ => s

/-- A failed host request is reported to its context: CAUSE and PASID (R437). -/
def hostReport (s : State) (gen launch addr pc cause : Nat) : State :=
  postReport s (genFn s gen) 4 gen launch addr pc
    (bytesOf 4 cause ++ bytesOf 4 (((ctxOf s gen).map (·.pasid)).getD 0) ++ bytesOf 8 0)

def launchHandle (s : State) (u : Nat) : Nat := ((unitLaunch s u).map (·.handle.toNat)).getD 0

/-! ## Loads -/

/-- What the lines of a load have given so far. -/
structure Moved where
  s : State
  n : Nat
  cycles : Nat
  /-- item, offset, bytes -/
  bytes : List (Nat × Nat × List Byte)
  fills : List (Nat × Nat)
  poison : List Nat
  /-- parts held at the memory controller -/
  held : List Frag
deriving DecidableEq, Repr

/-- An acquire of the threads has been issued and will empty the L1 when its value returns: no load after it is served by the L1 before
that (R127, R134, R276). -/
def acquiring (s : State) (v : View) : Bool :=
  s.reqs.any fun (_, q) => 3 ≤ q.acq && madeBy s v q && !((coreOf s v.core).fused && q.acq = 3)

/-- Whether a load may be served by the L1 (R127, R270). -/
def cachable (s : State) (v : View) (f : Frag) : Bool :=
  !v.kc && f.ord != 1 && !acquiring s v &&
  match lineOf s f.place with
  | some line => (coreOf s (l1Core s v.core line)).l1w != 0
  | none => false

/-- The line becomes the most recently used of its set (R106). -/
def l1Use (s : State) (core line : Nat) : State :=
  let (n, s1) := freshNat s
  modCore s1 (l1Core s core line) fun k => { k with l1 := k.l1.map fun x => if x.pa = line then { x with used := n } else x }

/-- Bytes read at the point of coherence come back poisoned (R430, R437). -/
def comesPoisoned (s : State) (f : Frag) : Bool :=
  match f.place with
  | .host .. => !s.linkUp
  | p => poisonedPlace s p f.len

/-- One line request of a load (R270, R271): served by the L1, or at its point of coherence with the sectors it misses filled; the sectors
that the L1 holds still give their bytes, so that no later hit returns less (R126). -/
def loadLine (v : View) (viaL1 : Bool) (m : Moved) (fs : List Frag) : Moved :=
  match fs with
  | [] => m
  | f :: _ =>
    let s := m.s
    let line := (lineOf s f.place).getD 0
    let via := viaL1 && cachable s v f
    let got (g : Frag) : List (Option Byte) := if via then l1Bytes s v.core line (g.va % 128) g.len else List.replicate g.len none
    let served (g : Frag) : Bool := (got g).all (·.isSome)
    if fs.all served then
      let lat := if (coreOf s v.core).fused then Config.latFused else Config.latL1
      { m with s := l1Use s v.core line, n := m.n + 1, cycles := Nat.max m.cycles (8 * m.n + lat)
               bytes := m.bytes ++ fs.map fun g => (g.idx, g.off, (got g).map fun b => b.getD 0) }
    else if heldAt s f.place then { m with n := m.n + 1, held := m.held ++ fs }
    else
      let needed := fs.foldl (fun k g => k ||| sectorMask (g.va % 128) g.len) 0
      let mask := ((List.range 4).map fun k => if needed.testBit k && !(l1Valid s v.core line).testBit k then 2 ^ k else 0).sum
      let bad := fs.filter fun g => !served g && comesPoisoned s g
      let s1 := touchPlace s (unitGen s v.unit) (unitPart s v.unit) f.place 0
      let s2 := match bad, f.place with
        | [], _ => s1
        | g :: _, .host .. => hostReport s1 (unitGen s v.unit) (launchHandle s v.unit) g.va v.pc.toNat 4
        | g :: _, p => poisonReport s1 v p g.va
      { m with
        s := s2, n := m.n + 1, cycles := Nat.max m.cycles (8 * m.n + pathCycles s (dieOf v.core) f.place)
        bytes := m.bytes ++ fs.map fun g => (g.idx, g.off, List.zipWith (fun b x => b.getD x) (got g) (readAs s (unitGen s v.unit) g.place g.len))
        fills := if via && mask != 0 then m.fills ++ [(line, mask)] else m.fills
        poison := m.poison ++ bad.map (·.idx) }

def loadLines (s : State) (v : View) (viaL1 : Bool) (fs : List Frag) : Moved :=
  (linesOf fs).foldl (fun m l => loadLine v viaL1 m (fs.filter fun f => f.va / 128 = l)) ⟨s, 0, 0, [], [], [], []⟩

def putBytes (off : Nat) (b x : List Byte) : List Byte := x.take off ++ b ++ x.drop (off + b.length)

/-- Items filled with what the lines gave. -/
def gather (accs : Accs) (bytes : List (Nat × Nat × List Byte)) : List (List Byte) :=
  accs.mapIdx fun i (_, _, n) =>
    (bytes.filter fun b => b.1 = i).foldl (fun x b => putBytes b.2.1 b.2.2 x) (List.replicate n 0)

/-- The last held byte of a lane at an address (R57). -/
def heldByte (held : List HeldStore) (lane a : Nat) : Option Byte :=
  ((held.flatMap fun h => h.items.filterMap fun (l, va, b) =>
    if l = lane ∧ va ≤ a ∧ a < va + b.length then b[a - va]? else none).getLast?)

def heldOf (s : State) (v : View) : List HeldStore := ((regionOf s v.gid).map (·.held)).getD []

/-- A load sees the held stores of its own thread (R57). -/
def overlay (held : List HeldStore) (accs : Accs) (items : List (List Byte)) : List (List Byte) :=
  if held.isEmpty then items
  else items.mapIdx fun i b =>
    let (lane, va, _) := nth accs i (0, 0, 0)
    b.mapIdx fun j x => (heldByte held lane (va + j)).getD x

/-- The aperture parts that are read, without the bytes a held store gives. -/
def unheld (held : List HeldStore) (accs : Accs) (ts : List Touch) : List Touch :=
  if held.isEmpty then ts
  else ts.flatMap fun t =>
    let (lane, va, _) := nth accs t.idx (0, 0, 0)
    (List.range t.len).filterMap fun j =>
      if (heldByte held lane (va + t.off + j)).isSome then none
      else some { t with off := t.off + j, addr := t.addr + j, len := 1 }

/-- Lanes whose acquire by an SO access, or by an atomic with the given scope, fails the scope check (R139). -/
def scopeFails (s : State) (v : View) (accs : Accs) (fs : List Frag) (scope : Option Nat) : List (Nat × SyncLine × Nat × Nat) :=
  fs.filterMap fun f =>
    let lane := (nth accs f.idx (0, 0, 0)).1
    let so := if f.ord = 1 then some (soScope f.place) else none
    let sc := match scope with | some c => some (Nat.max c (so.getD 0)) | none => so
    match sc, releaseOn s f.place f.len with
    | some c, some r => if inclusive s r.by_ r.scope v lane c then none else some (lane, r, c, f.va / 128 * 128)
    | _, _ => none

/-- The deferred SCOPE trap of an instruction and its report (R425). -/
def scopeFault (s : State) (v : View) (fails : List (Nat × SyncLine × Nat × Nat)) : State × Option Trap :=
  match sortBy (·.1) fails with
  | [] => (s, none)
  | (_, r, c, line) :: _ =>
    (scopeReport s v r c line, some (deferredTrap v cScope (maskOf (dedup (fails.map (·.1)))).toNat line v.pc (maskOf v.act)))

/-- Each access of a load as the clocks of a DETERM launch see it. -/
def clockLoads (s : State) (v : View) (accs : Accs) (fs : List Frag) : State :=
  if !clocksOn s v.unit then s
  else fs.foldl (fun a f =>
    let lane := (nth accs f.idx (0, 0, 0)).1
    let agent := agentOf a v lane
    let s0 := if f.ord = 1 then acquireWords a v lane (soScope f.place) f.place f.len else a
    let s1 := raceCheck s0 v.unit agent v.pc.toNat (lidOf a v.unit) lane 0 f.va f.place.key f.len (f.ord == 2)
    clockRead s1 v.unit agent f.place.key f.len) s

def isOutside (f : Frag) : Bool :=
  match f.place with
  | .dev _ => false
  | _ => true

/-- Bytes from outside the partition, and in replay the recorded ones with the cycle of their return (R91). -/
def outsideInput (s : State) (v : View) (ordinal : Nat) (fs : List Frag) (bytes : List (Nat × Nat × List Byte)) :
    List (Nat × Nat × List Byte) × List Byte × Option Nat :=
  let out := fs.filter isOutside
  if out.isEmpty then (bytes, [], none)
  else
    let mine (b : Nat × Nat × List Byte) : Bool := out.any fun f => f.idx = b.1 && f.off = b.2.1
    let live := (bytes.filter mine).flatMap (·.2.2)
    match (launchOf s (unitLaunchId s v.unit)).bind fun x =>
        if x.rply then (findInput s x ordinal x.entries x.capIdx).map fun r => (r.1 + x.capStart, r.2) else none with
    | none => (bytes, live, none)
    | some (at_, data) =>
      let (l, _) := bytes.foldl (fun (acc : List (Nat × Nat × List Byte) × List Byte) b =>
        if mine b then (acc.1 ++ [(b.1, b.2.1, acc.2.take b.2.2.length)], acc.2.drop b.2.2.length) else (acc.1 ++ [b], acc.2)) ([], data)
      (l, data.take live.length, some at_)

/-- The first node a request goes to, and whether the host is asked. -/
def nodeOf (fs : List Frag) : Option Nat :=
  fs.findSome? fun f => match f.place with | .remote n _ => some n | _ => none
def asksHost (fs : List Frag) : Bool := fs.any fun f => match f.place with | .host .. => true | _ => false

/-- A load of some lanes issues (R270, R271): what it reads of memory is read now, what it reads of a store in its access
cycle. -/
def doLoad (s : State) (v : View) (accs : Accs) (viaL1 : Bool) (slot : Option Nat) (mk : List (List Byte) → ReqKind) : State :=
  let fs := fragsOf s v accs
  let ts := touchesOf s v accs
  let held := heldOf s v
  let fails := scopeFails s v accs fs none
  let m := loadLines (clockLoads s v accs fs) v viaL1 fs
  let (lost, s1) := drawLost m.s v
  let (apDue, more) := apertureDue s v ts lost
  let ordinal := ((warpOf s1 v.core v.wslot).map (·.reqCount)).getD 0
  let (bytes, outside, at_) := outsideInput s1 v ordinal fs m.bytes
  let s2 := countRequest s1 v (m.n - 1 + more) lost
  let memDue := if fs.isEmpty then s.now else s.now + m.cycles + Config.round * lost
  let due := match at_ with
    | some t => Nat.max (if ts.isEmpty then s.now else apDue) t
    | none => Nat.max (if ts.isEmpty then s.now else apDue) memDue
  let (s3, fault) := scopeFault s2 v fails
  let items := (overlay held accs (gather accs bytes)).mapIdx fun i b =>
    if fails.any fun x => x.1 = (nth accs i (0, 0, 0)).1 then [] else b
  let so := fs.filter fun f => f.ord = 1
  let q : Req :=
    { Req.mk' s v slot (mk items) due with
      isLoad := true, un := !fs.isEmpty && ts.isEmpty && fs.all fun f => f.ord = 2
      aper := (unheld held accs ts).map fun t => ⟨t.core, t.addr, t.len, apDue, t.idx, t.off, .load⟩
      holds := m.held.map fun f => ⟨f, (nth accs f.idx (0, 0, 0)).1, .load, 0, 0⟩
      poison := dedup m.poison, fills := m.fills, outside := outside, ordinal := ordinal
      acq := maxOf (so.map fun f => soScope f.place), host := asksHost fs, node := nodeOf fs, fault := fault
      again := if ts.isEmpty && so.isEmpty then some (accs, viaL1) else none }
  sendReq s3 q .loadReturn

/-- Address of the M format of a lane (R269). -/
def addrM (s : State) (v : View) (b a lane : Nat) : Nat :=
  ((readK s v.unit b).toNat + wrap 64 (sx 32 (readX s v lane a).toNat)) % 2 ^ 64

/-- Address in a register pair of a lane (R269). -/
def addrPair (s : State) (v : View) (a lane : Nat) : Nat := readX2 s v lane a

def execLd (l : BitVec 2) (z : BitVec 3) (b : BitVec 5) (a : BitVec 7) (d : BitVec 7) (sw : BitVec 1) (s : State) :
    Host.Outcome State Fault Refusal :=
  issue (.ld l z b a d sw) s noTrap fun s v =>
    let accs (u : View) : Accs := u.act.map fun x => (x, addrM s u b.toNat a.toNat x, sizeBytes z.toNat)
    access s v (accs v) true false false fun t u =>
      .done (doLoad t u (accs u) true (some l.toNat) fun items =>
        .load z.toNat ((u.act.zip items).map fun (x, y) => (x, d.toNat, y))) .next 0

/-- The one access of `ldk`, `stk` and of other uniform accesses: that of the lowest active lane (R274). -/
def lowAccs (v : View) (addr n : Nat) : Accs := [(v.act.headD 0, addr, n)]

def execLdk (l : BitVec 2) (z : BitVec 3) (b : BitVec 5) (a : BitVec 7) (k : BitVec 6) (sw : BitVec 1) (s : State) :
    Host.Outcome State Fault Refusal :=
  issue (.ldk l z b a k sw) s noTrap fun s v =>
    let accs := lowAccs v (addrM s v b.toNat a.toNat (v.act.headD 0)) (sizeBytes z.toNat)
    lowAccess s v accs true false false fun t u =>
      .done (doLoad t u accs true (some l.toNat) fun items => .ldk k.toNat z.toNat (items.headD [])) .next 0

/-- Writes of whole ranges as the clocks of a DETERM launch see them, each for some lane: plain stores, and on SO pages releases. -/
def clockStores (s : State) (v : View) (kind : Nat) (lanes : List Nat) (fs : List Frag) : State :=
  if !clocksOn s v.unit then s
  else fs.foldl (fun a f => lanes.foldl (fun b lane =>
    let agent := agentOf b v lane
    let s1 := raceCheck b v.unit agent v.pc.toNat (lidOf b v.unit) lane kind f.va f.place.key f.len (f.ord == 2)
    if f.ord = 1 then releaseWords s1 v lane (soScope f.place) f.place f.len false false
    else clockWrite s1 v.unit agent f.place.key f.len) a) s

/-- The line from one spot to another requested at a cycle, with the cycles of the path of each (R279, R284, R453). -/
def lineAt (at_ : Nat) (a : Spot) (lr : Nat) (b : Spot) (lw len : Nat) : Line :=
  let back := at_ + lr
  { reqAt := at_, readAt := match a with | .store .. => back | _ => at_
    writeAt := match b with | .store .. => back + lw | _ => back
    ackAt := back + lw, src := a, dst := b, len := len, bytes := [], bad := [] }

/-- The end of a line that lies in memory or in a store, with the cycles of its path. -/
def lineSpot (s : State) (v : View) (va : Nat) (p : Piece) : Spot × Nat :=
  match p with
  | .mem pl ord _ => (.mem pl va ord, pathCycles s (dieOf v.core) pl)
  | .aper c a lat => (.store c a, lat)
  | _ => (.none, 0)

/-! ## Stores -/

/-- Sectors of translated memory that a write of poisoned data marks (R430). -/
def poisonFrag (s : State) (f : Frag) : State :=
  (dedup ((List.range f.len).map fun i => (f.va + i) / 32)).foldl (fun a k =>
    poisonPlace a (f.place.plus (Nat.max (32 * k) f.va - f.va))) s

/-- A write of one agent at its point of coherence: race check, clocks, bytes, poison and the release that was or is recorded there (R139).
The L1 follows at the acknowledgement (`withL1`). Kind 1 a store, 2 `dsc`, 3 `tdrn`, 4 `lstu`. -/
def storeFrag (s : State) (v : View) (lane kind : Nat) (f : Frag) (b : List Byte) (bad : Bool) : State :=
  let agent := agentOf s v lane
  let so := f.ord = 1
  let s1 := raceCheck s v.unit agent v.pc.toNat (lidOf s v.unit) lane kind f.va f.place.key f.len (f.ord == 2)
  let s2 := if so then releaseWords s1 v lane (soScope f.place) f.place f.len false false else clockWrite s1 v.unit agent f.place.key f.len
  let down := match f.place with | .host .. => !s.linkUp | _ => false
  if down then hostReport s2 (unitGen s v.unit) (launchHandle s v.unit) f.va v.pc.toNat 4
  else
    let s3 := writeMem s2 (unitGen s v.unit) (unitPart s v.unit) f.place b
    let s4 := if bad then poisonFrag s3 f else s3
    if so then recordRelease s4 (partyOf s v 0 [lane]) f.place f.len (soScope f.place) else breakRelease s4 f.place f.len

/-- A store of items (lane, address, bytes) whose parts lie at some places is performed: kind as in `storeFrag`. A `dsc` drops its sectors in
the issuing core's L1 at issue too (R294). -/
def storeAt (s : State) (v : View) (items : List (Nat × Nat × List Byte)) (bad : List Nat) (kind : Nat) (slot : Option Nat)
    (fs : List Frag) (ts : List Touch) : State :=
  let accs : Accs := items.map fun (l, a, b) => (l, a, b.length)
  let part (idx off len : Nat) : List Byte := (((nth items idx (0, 0, [])).2.2).drop off).take len
  let (lost, s1) := drawLost s v
  let lines := linesOf fs
  let (s2, cycles) := (lines.mapIdx fun i l => (i, l)).foldl (fun (a, c) (i, l) =>
    match fs.find? fun f => f.va / 128 = l with
    | some f => (a, Nat.max c (8 * i + pathCycles a (dieOf v.core) f.place))
    | none => (a, c)) (s1, 0)
  let (held, free) := fs.partition fun f => heldAt s f.place
  let laneOf (f : Frag) : Nat := (nth accs f.idx (0, 0, 0)).1
  let s3 := free.foldl (fun a f => storeFrag a v (laneOf f) kind f (part f.idx f.off f.len) (bad.contains (laneOf f))) s2
  let (apDue, more) := apertureDue s v ts lost
  let s4 := countRequest s3 v (lines.length - 1 + more) lost
  let s5 := if kind = 2 then (l1Sectors s fs).foldl (fun a (line, mask) => l1Drop a v.core line mask) s4 else s4
  let due := Nat.max (if ts.isEmpty then s.now else apDue) (if fs.isEmpty then s.now else s.now + cycles + Config.round * lost)
  let q : Req := withL1 s v kind fs
    { Req.mk' s v slot .store due with
      isStore := true, un := !fs.isEmpty && ts.isEmpty && fs.all fun f => f.ord = 2
      aper := ts.map fun t => ⟨t.core, t.addr, t.len, apDue, t.idx, t.off,
        .store (part t.idx t.off t.len) (bad.contains (nth accs t.idx (0, 0, 0)).1)⟩
      holds := held.map fun f => ⟨f, laneOf f, .store (part f.idx f.off f.len) (bad.contains (laneOf f)), kind, 0⟩
      host := asksHost fs, node := nodeOf fs }
  sendReq (pinLoads s5 v) q .storeAck

/-- A store of items issues. -/
def doStore (s : State) (v : View) (items : List (Nat × Nat × List Byte)) (bad : List Nat) (kind : Nat) (slot : Option Nat) : State :=
  let accs : Accs := items.map fun (l, a, b) => (l, a, b.length)
  storeAt s v items bad kind slot (fragsOf s v accs) (touchesOf s v accs)

/-- A store inside a region is held (R57, R408): its slot returns in the next cycle. -/
def holdStore (s : State) (v : View) (maj : Nat) (items : List (Nat × Nat × List Byte)) (bad : List Nat) (slot : Option Nat) : State :=
  let s1 := modWarp (pinLoads s v) v.core v.wslot fun w =>
    { w with spec := w.spec.map fun r => { r with held := r.held ++ [⟨maj, items, bad⟩] } }
  match slot with
  | some _ => sendReq s1 (Req.mk' s v slot .store (s.now + 1)) .storeAck
  | none => s1

/-- Tests and effect of a store (R415, R57). A store resets the spin count (R51); one on an SO page is a release (R135). -/
def storeItems (s : State) (v : View) (maj : Nat) (items : View → List (Nat × Nat × List Byte)) (bad : List Nat) (kind : Nat)
    (slot : Option Nat) : Did :=
  let region := (regionOf s v.gid).isSome
  (if maj = 0x26 then lowAccess else access) s v ((items v).map fun (l, a, b) => (l, a, b.length)) false true (!region) fun t u =>
    if region then .done (holdStore (progress t u) u maj (items u) bad slot) .next 0
    else if anySo (fragsOf t u ((items u).map fun (l, a, b) => (l, a, b.length))) && releaseWaits t u then .wait t (t.now + 1)
    else .done (doStore (progress t u) u (items u) bad kind slot) .next 0

/-- Bytes of the registers that a store of a size code names (R273). -/
def regBytes (s : State) (v : View) (size d lane : Nat) : List Byte :=
  let n := sizeBytes size
  ((List.range ((n + 3) / 4)).flatMap fun i => bytesOf 4 (readX s v lane (d + i)).toNat).take n

def execSt (l : BitVec 2) (z : BitVec 3) (b : BitVec 5) (a : BitVec 7) (d : BitVec 7) (sw : BitVec 1) (s : State) :
    Host.Outcome State Fault Refusal :=
  issue (.st l z b a d sw) s noTrap fun s v =>
    storeItems s v 0x25
      (fun u => u.act.map fun x => (x, addrM s u b.toNat a.toNat x, regBytes s u z.toNat d.toNat x))
      ((poisoned s v [(d.toNat, sizeRegs z)] v.act).map (·.1)) 1 (some l.toNat)

def execStk (l : BitVec 2) (z : BitVec 3) (b : BitVec 5) (a : BitVec 7) (k : BitVec 6) (sw : BitVec 1) (s : State) :
    Host.Outcome State Fault Refusal :=
  issue (.stk l z b a k sw) s noTrap fun s v =>
    storeItems s v 0x26
      (fun u => [(u.act.headD 0, addrM s u b.toNat a.toNat (v.act.headD 0), bytesOf (sizeBytes z.toNat) (readK s u.unit k.toNat).toNat)])
      [] 1 (some l.toNat)

/-! ## Atomics -/

/-- Operands of an atomic: operation of R275, float, wide, order, scope, address and data registers. -/
structure Atom where
  op : Nat
  flt : Bool
  wide : Bool
  ao : Nat
  scope : Nat
  a : Nat
  d : Nat
deriving DecidableEq, Repr

/-- Compare value and operand of a lane. -/
def atomOperands (s : State) (v : View) (t : Atom) (lane : Nat) : Nat × Nat :=
  let item (r : Nat) : Nat := if t.wide then readX2 s v lane r else (readX s v lane r).toNat
  let w := if t.wide then 2 else 1
  if t.op = 7 then (item t.d, item (t.d + w)) else (0, item t.d)

/-- One lane's atomic, with its compare value and operand, at its point of coherence: answers the old value's bytes and whether it was poisoned (R275, R430). -/
def atomFrag (s : State) (v : View) (t : Atom) (lane c x : Nat) (f : Frag) : State × List Byte × Bool :=
  let agent := agentOf s v lane
  let s1 := raceCheck s v.unit agent v.pc.toNat (lidOf s v.unit) lane 4 f.va f.place.key f.len (f.ord == 2)
  let oldB := readAs s (unitGen s v.unit) f.place f.len
  if comesPoisoned s f then (poisonReport s1 v f.place f.va, [], true)
  else
    let old := natOf oldB
    let writes := !(t.op = 7 && old != c)
    let so := if f.ord = 1 then soScope f.place else 0
    let isAcq := t.ao = 1 || t.ao = 3 || f.ord = 1
    let isRel := writes && (t.ao = 2 || t.ao = 3 || f.ord = 1)
    let acqScope := Nat.max so (if t.ao = 1 || t.ao = 3 then t.scope else 0)
    let relScope := Nat.max so (if t.ao = 2 || t.ao = 3 then t.scope else 0)
    let s2 := if !clocksOn s v.unit then s1
      else
        let a1 := if isAcq then acquireWords s1 v lane acqScope f.place f.len else s1
        let a2 := clockRead a1 v.unit agent f.place.key f.len
        let a3 := if writes then (wordsIn f.place.key f.len).foldl (fun b w => carryRels b w (obFence agent)) a2 else a2
        if isRel then releaseWords a3 v lane relScope f.place f.len true false else a3
    let s3 := if writes then writeMem s2 (unitGen s v.unit) (unitPart s v.unit) f.place (bytesOf f.len (atomNew t.op t.flt t.wide old c x))
      else touchPlace s2 (unitGen s v.unit) (unitPart s v.unit) f.place 0
    (if isRel then recordRelease s3 (partyOf s v 0 [lane]) f.place f.len relScope else s3, oldB, false)

/-- An atomic issues: the lanes act in ascending order on memory, on a store in their access cycle. -/
def doAtomic (s : State) (v : View) (t : Atom) (accs : Accs) : State :=
  let fs := fragsOf s v accs
  let ts := touchesOf s v accs
  let acq := t.ao = 1 || t.ao = 3
  let fails := scopeFails s v accs fs (if acq then some t.scope else none)
  let (lost, s1) := drawLost s v
  let lines := linesOf fs
  let cycles := maxOf ((lines.mapIdx fun i l => (i, l)).map fun (i, l) =>
    match fs.find? fun f => f.va / 128 = l with
    | some f => 8 * i + pathCycles s (dieOf v.core) f.place
    | none => 0)
  let (s2, got, bad) := fs.foldl (fun (acc : State × List (Nat × List Byte) × List (Nat × Nat)) f =>
    let (a, g, p) := acc
    let lane := (nth accs f.idx (0, 0, 0)).1
    if heldAt s f.place || fails.any fun x => x.1 = lane then acc
    else
      let (c, x) := atomOperands s v t lane
      let (b, old, isBad) := atomFrag a v t lane c x f
      (b, g ++ [(f.idx, old)], if isBad then p ++ [(lane, f.va)] else p)) (s1, [], [])
  let held := fs.filter fun f => heldAt s f.place && !fails.any fun x => x.1 = (nth accs f.idx (0, 0, 0)).1
  let (apDue, more) := apertureDue s v ts lost
  let ordinal := ((warpOf s2 v.core v.wslot).map (·.reqCount)).getD 0
  let s3 := countRequest s2 v (lines.length - 1 + more) lost
  let (s4, fault) := scopeFault s3 v fails
  let (bytes, outside, at_) := outsideInput s1 v ordinal fs (got.map fun (i, b) => (i, 0, b))
  let memDue := match at_ with
    | some c => c
    | none => if fs.isEmpty then s.now else s.now + cycles + Config.round * lost
  let due := Nat.max (if ts.isEmpty then s.now else apDue) memDue
  let n := if t.wide then 8 else 4
  let items := accs.mapIdx fun i (lane, _, _) =>
    (lane, t.d, match bytes.find? fun g => g.1 = i with
      | some g => g.2.2
      | none => if (ts.any fun x => x.idx = i) || held.any fun x => x.idx = i then List.replicate n 0 else [])
  let poison := match bad with
    | [] => none
    | (_, a) :: _ => some (deferredTrap v cPoison (maskOf (bad.map (·.1))).toNat a v.pc (maskOf v.act))
  let so := fs.filter fun f => f.ord = 1
  let q : Req := withL1 s v 4 fs
    { Req.mk' s v (some 3) (.load (if t.wide then 5 else 4) (if bad.isEmpty then items else [])) due with
      isLoad := true, isStore := true, un := !fs.isEmpty && ts.isEmpty && fs.all fun f => f.ord = 2
      aper := ts.map fun x =>
        let (c, y) := atomOperands s v t (nth accs x.idx (0, 0, 0)).1
        ⟨x.core, x.addr, x.len, apDue, x.idx, x.off, .atom t.op t.flt t.wide c y⟩
      holds := held.map fun f =>
        let lane := (nth accs f.idx (0, 0, 0)).1
        let (c, y) := atomOperands s v t lane
        ⟨f, lane, .atom t.op t.flt t.wide c y, t.ao, t.scope⟩
      outside := outside, ordinal := ordinal
      acq := Nat.max (if acq then t.scope else 0) (maxOf (so.map fun f => soScope f.place)), host := asksHost fs, node := nodeOf fs
      fault := match poison with | some p => some p | none => fault }
  sendReq (pinLoads s4 v) q .atomicComplete

/-- Lanes whose atomic would reach host memory with an operation it does not carry (R418). -/
def hostAtomics (s : State) (v : View) (t : Atom) (accs : Accs) : List (Nat × Nat) :=
  if !t.flt && (t.op = 0 || t.op = 6 || t.op = 7) then []
  else accs.filterMap fun (lane, va, n) =>
    if (piecesOf s v va n true true).any fun x => match x.2.2 with | .mem (.host ..) _ _ => true | _ => false then some (lane, va) else none

/-- ALIGN of lanes (R418, R295). -/
def alignTrap (v : View) (accs : Accs) (n : Nat) : Option Trap :=
  causeTrap v cAlign ((accs.filter fun x => x.2.1 % n != 0).map fun x => (x.1, x.2.1))

/-- Tests and effect of an atomic (R415, R418). It resets the spin count (R51); one with release order, or on an SO page, is a release. -/
def atomic (t : Atom) (s : State) (v : View) : Did :=
  let n := if t.wide then 8 else 4
  let accs (u : View) : Accs := u.act.map fun x => (x, addrPair s u t.a x, n)
  match alignTrap v (accs v) n with
  | some tr => .trap tr
  | none =>
    let host := hostAtomics s v t (accs v)
    let noAperture := (accs v).filter fun (_, va, k) => (piecesOf s v va k true true).any fun x => decide (x.2.2 = .cause cAccess)
    let go := access s v (accs v) true true false fun a u =>
      if (t.ao = 2 || t.ao = 3 || anySo (fragsOf a u (accs u))) && releaseWaits a u then .wait a (a.now + 1)
      else .done (doAtomic (progress a u) u t (accs u)) .next 0
    if host.isEmpty then go
    else
      match go with
      | .wait s1 c => .wait s1 c
      | _ =>
        match causeTrap v cAccess ((accs v).filterMap fun (lane, va, _) =>
            if (host ++ noAperture.map fun x => (x.1, x.2.1)).contains (lane, va) then some (lane, va) else none) with
        | some tr => .trap tr
        | none => go

def mkAtom (op : Nat) (f w : Nat) (c : BitVec 3) (o : BitVec 2) (a d : BitVec 7) : Atom :=
  ⟨op, f == 1, w == 1, o.toNat, c.toNat, a.toNat, d.toNat⟩

def execAtomAdd (f w : BitVec 1) (c : BitVec 3) (o : BitVec 2) (a d : BitVec 7) (sw : BitVec 1) (s : State) :
    Host.Outcome State Fault Refusal :=
  issue (.atomAdd f w c o a d sw) s noTrap (atomic (mkAtom 0 f.toNat w.toNat c o a d))

def execAtomMin (f w : BitVec 1) (c : BitVec 3) (o : BitVec 2) (a d : BitVec 7) (sw : BitVec 1) (s : State) :
    Host.Outcome State Fault Refusal :=
  issue (.atomMin f w c o a d sw) s noTrap (atomic (mkAtom 1 f.toNat w.toNat c o a d))

def execAtomMax (f w : BitVec 1) (c : BitVec 3) (o : BitVec 2) (a d : BitVec 7) (sw : BitVec 1) (s : State) :
    Host.Outcome State Fault Refusal :=
  issue (.atomMax f w c o a d sw) s noTrap (atomic (mkAtom 2 f.toNat w.toNat c o a d))

def execAtomAnd (w : BitVec 1) (c : BitVec 3) (o : BitVec 2) (a d : BitVec 7) (sw : BitVec 1) (s : State) :
    Host.Outcome State Fault Refusal :=
  issue (.atomAnd w c o a d sw) s noTrap (atomic (mkAtom 3 0 w.toNat c o a d))

def execAtomOr (w : BitVec 1) (c : BitVec 3) (o : BitVec 2) (a d : BitVec 7) (sw : BitVec 1) (s : State) :
    Host.Outcome State Fault Refusal :=
  issue (.atomOr w c o a d sw) s noTrap (atomic (mkAtom 4 0 w.toNat c o a d))

def execAtomXor (w : BitVec 1) (c : BitVec 3) (o : BitVec 2) (a d : BitVec 7) (sw : BitVec 1) (s : State) :
    Host.Outcome State Fault Refusal :=
  issue (.atomXor w c o a d sw) s noTrap (atomic (mkAtom 5 0 w.toNat c o a d))

def execAtomXchg (w : BitVec 1) (c : BitVec 3) (o : BitVec 2) (a d : BitVec 7) (sw : BitVec 1) (s : State) :
    Host.Outcome State Fault Refusal :=
  issue (.atomXchg w c o a d sw) s noTrap (atomic (mkAtom 6 0 w.toNat c o a d))

def execAtomCas (w : BitVec 1) (c : BitVec 3) (o : BitVec 2) (a d : BitVec 7) (sw : BitVec 1) (s : State) :
    Host.Outcome State Fault Refusal :=
  issue (.atomCas w c o a d sw) s noTrap (atomic (mkAtom 7 0 w.toNat c o a d))

/-! ## Fences (R277, Table 10.3) -/

/-- Earlier accesses of the threads of the warp, and of those a fence acts for wherever they made them. -/
def threadReqs (s : State) (v : View) : List Req :=
  s.reqs.filterMap fun (_, q) =>
    if (q.gid = v.gid && q.serial = v.serial) || madeBy s v q then some q else none

/-- Whether a fence of a kind still waits: 0 acq, 1 rel, 2 ar, 3 sc. -/
def fenceWaits (k : Nat) (s : State) (v : View) : Bool :=
  let reqs := threadReqs s v
  let loads := reqs.any (·.isLoad)
  let stores := (reqs.any fun q => q.isStore && !q.un) || s.toStore.any fun h => h.gid = v.gid && h.serial = v.serial
  let owns := ((unitOf s v.unit).map fun u => u.own.any fun o => s.now < o.from_ || (match o.until_ with | some e => decide (s.now < e) | none => false)).getD false
  match k with
  | 0 => loads
  | 1 => stores || owns
  | 2 => loads || stores || owns
  | _ => reqs.any (fun q => q.isLoad || q.isStore) || stores || owns

/-- Object of the order of all `fence.sc` (R136). -/
def obSc (launch : Nat) : Nat := 16 * launch + 11

/-- What a fence does in its issue cycle (R127, R133, R136, R277). -/
def doFence (k scope : Nat) (s : State) (v : View) : State :=
  let s0 := pinLoads s v
  let s1 := if k = 1 || v.kc then s0 else l1Acquire s0 v.core scope
  let each (f : State → Nat → Nat → State) (a : State) : State := v.act.foldl (fun b l => f b l (agentOf b v l)) a
  if !clocksOn s v.unit then s1
  else
    let acq (a : State) : State := each (fun b l g => acquireOf b v l scope (obReads g) (k = 3)) a
    let rel (a : State) : State := each (fun b l g =>
      let c := { b with rels := b.rels.filter fun r => !(r.at_ = obFence g && r.scope = scope) }
      releaseAt c v.unit g (obFence g) scope (partyOf s v 0 [l]) (k = 3)) a
    match k with
    | 0 => acq s1
    | 1 => rel s1
    | 2 => rel (acq s1)
    | _ =>
      let o := obSc (unitLaunchId s v.unit)
      each (fun b l g => releaseAt b v.unit g o scope (partyOf s v 0 [l]) true)
        (each (fun b l _ => acquireOf b v l scope o true) (rel (acq s1)))

def fencePre (k : Nat) (s : State) (v : View) : Option Did :=
  if fenceWaits k s v then some (.wait s (s.now + 1)) else none

def execFenceAcq (c : BitVec 3) (sw : BitVec 1) (s : State) : Host.Outcome State Fault Refusal :=
  issuePre (.fenceAcq c sw) s noTrap (fencePre 0) (plain (doFence 0 c.toNat))

def execFenceRel (c : BitVec 3) (sw : BitVec 1) (s : State) : Host.Outcome State Fault Refusal :=
  issuePre (.fenceRel c sw) s noTrap (fencePre 1) (plain (doFence 1 c.toNat))

def execFenceAr (c : BitVec 3) (sw : BitVec 1) (s : State) : Host.Outcome State Fault Refusal :=
  issuePre (.fenceAr c sw) s noTrap (fencePre 2) (plain (doFence 2 c.toNat))

def execFenceSc (c : BitVec 3) (sw : BitVec 1) (s : State) : Host.Outcome State Fault Refusal :=
  issuePre (.fenceSc c sw) s noTrap (fencePre 3) (plain (doFence 3 c.toNat))

/-! ## Hints -/

/-- Sectors that a hint covers: from the sector of an address, `n` of them (R293). -/
def sectorsFrom (addr n : Nat) : Nat × Nat := (addr / 32 * 32, 32 * n)

/-- A range under translations that are present, cut at pages: address, length and translation. -/
def hintPieces (s : State) (g : Gid) (gen va n : Nat) : List (Nat × Nat × Option Xlate) :=
  (pageCuts (va % 2 ^ 64) n).map fun (a, k) => (a, k, if a < 0x4000000 then none else tlbFind (tlbOf s g) gen a)

/-- Lines of one piece of a `pfd` are filled (R293): into the home slice, and into the L1 where there is one. -/
def prefetch (s : State) (g : Gid) (x : Xlate) (core unit va n : Nat) : State :=
  let p := xlPlace s x va
  if x.host || x.ord = 1 || (accessCause s x va true false).isSome then s
  else (lineCuts va n).foldl (fun a (b, m) =>
    let q := p.plus (b - va)
    let due := a.now + pathCycles a (dieOf core) q
    let s1 := touchPlace a x.gen (unitPart a unit) q 0
    match lineOf a q, view s1 g with
    | some line, some v =>
      if v.kc || (coreOf a (l1Core a core line)).l1w = 0 then s1
      else sendReq s1 { Req.mk' s1 v none .nothing due with fills := [(line, sectorMask (b % 128) m)] } .loadReturn
    | _, _ => s1) s

/-- Dirty sectors of a range are written to HBM and stay valid (R293). -/
def writeBack (s : State) (x : Xlate) (va n : Nat) : State :=
  (lineCuts va n).foldl (fun a (b, m) =>
    match (xlPlace a x va).plus (b - va) with
    | .dev d => { a with l2 := a.l2.map fun y =>
        if y.pa = d / 128 then { y with dirty := y.dirty &&& BitVec.ofNat 4 (15 - sectorMask (b % 128) m) } else y }
    | _ => a) s

/-- The effect of `pfd` (why 3) or `wbk` (why 4) on a piece whose translation is present. -/
def hintPiece (s : State) (g : Gid) (why core unit va n : Nat) (x : Xlate) : State :=
  if why = 3 then prefetch s g x core unit va n else writeBack s x va n

/-- A hint of every active lane: pieces without a translation start walks and take effect at their end. -/
def doHint (why n a : Nat) (s : State) (v : View) : State :=
  let gen := unitGen s v.unit
  let ranges := dedup (v.act.map fun l => (sectorsFrom (addrPair s v a l) n).1)
  ranges.foldl (fun t va =>
    (hintPieces t v.gid gen va (32 * n)).foldl (fun t (b, k, x) =>
      match x with
      | some y => hintPiece t v.gid why v.core v.unit b k y
      | none => if b < 0x4000000 then t else startWalk t v.gid (dieOf v.core) gen b why k) t) s

def execPfd (n : BitVec 7) (a : BitVec 7) (sw : BitVec 1) (s : State) : Host.Outcome State Fault Refusal :=
  issue (.pfd n a sw) s noTrap (plain (doHint 3 (n.toNat + 1) a.toNat))

def execWbk (n : BitVec 7) (a : BitVec 7) (sw : BitVec 1) (s : State) : Host.Outcome State Fault Refusal :=
  issue (.wbk n a sw) s noTrap (plain (doHint 4 (n.toNat + 1) a.toNat))

def execDsc (n : BitVec 7) (a : BitVec 7) (sw : BitVec 1) (s : State) : Host.Outcome State Fault Refusal :=
  issue (.dsc n a sw) s noTrap fun s v =>
    storeItems s v 0x2D
      (fun u => u.act.map fun x => (x, (sectorsFrom (addrPair s u a.toNat x) 1).1, List.replicate (32 * (n.toNat + 1)) 0)) [] 2 none

/-- One lane of `lstu` on memory (R295): the word read, then its sector zeroed. -/
def lstuFrag (s : State) (v : View) (lane : Nat) (f : Frag) : State × List Byte × Bool :=
  let word := readAs s (unitGen s v.unit) f.place f.len
  let back := f.va % 32
  let base : Place := match f.place with
    | .dev a => .dev (a - back)
    | .remote n a => .remote n (a - back)
    | .host p a => .host p (a - back)
  let g : Frag := { f with va := f.va - back, len := 32, place := base }
  let s1 := clockRead s v.unit (agentOf s v lane) f.place.key f.len
  (storeFrag s1 v lane 4 g (List.replicate 32 0) false, word, comesPoisoned s f)

def doLstu (s : State) (v : View) (d : Nat) (accs : Accs) : State :=
  let fs := fragsOf s v accs
  let ts := touchesOf s v accs
  let fails := scopeFails s v accs fs none
  let (lost, s1) := drawLost s v
  let lines := linesOf fs
  let cycles := maxOf ((lines.mapIdx fun i l => (i, l)).map fun (i, l) =>
    match fs.find? fun f => f.va / 128 = l with
    | some f => 8 * i + pathCycles s (dieOf v.core) f.place
    | none => 0)
  let (s2, got, bad) := fs.foldl (fun (acc : State × List (Nat × List Byte) × List Nat) f =>
    let (a, g, p) := acc
    let lane := (nth accs f.idx (0, 0, 0)).1
    if heldAt s f.place || fails.any fun x => x.1 = lane then acc
    else
      let (b, old, isBad) := lstuFrag a v lane f
      (b, g ++ [(f.idx, old)], if isBad then p ++ [f.idx] else p)) (s1, [], [])
  let (apDue, more) := apertureDue s v ts lost
  let ordinal := ((warpOf s2 v.core v.wslot).map (·.reqCount)).getD 0
  let s3 := countRequest s2 v (lines.length - 1 + more) lost
  let (s4, fault) := scopeFault s3 v fails
  let (bytes, outside, at_) := outsideInput s1 v ordinal fs (got.map fun (i, b) => (i, 0, b))
  let memDue := match at_ with
    | some c => c
    | none => if fs.isEmpty then s.now else s.now + cycles + Config.round * lost
  let held := fs.filter fun f => heldAt s f.place && !fails.any fun x => x.1 = (nth accs f.idx (0, 0, 0)).1
  let items := accs.mapIdx fun i (lane, _, _) =>
    (lane, d, match bytes.find? fun g => g.1 = i with
      | some g => g.2.2
      | none => if (ts.any fun x => x.idx = i) || held.any fun x => x.idx = i then List.replicate 4 0 else [])
  let so := fs.filter fun f => f.ord = 1
  let q : Req := withL1 s v 4 (fs.map fun f => { f with va := f.va / 32 * 32, len := 32 })
    { Req.mk' s v (some 3) (.load 4 items) (Nat.max (if ts.isEmpty then s.now else apDue) memDue) with
      isLoad := true, isStore := true, un := !fs.isEmpty && ts.isEmpty && fs.all fun f => f.ord = 2
      aper := ts.map fun x => ⟨x.core, x.addr, x.len, apDue, x.idx, x.off, .lstu⟩
      holds := held.map fun f => ⟨f, (nth accs f.idx (0, 0, 0)).1, .lstu, 0, 0⟩
      poison := bad, outside := outside, ordinal := ordinal
      acq := maxOf (so.map fun f => soScope f.place), host := asksHost fs, node := nodeOf fs, fault := fault }
  sendReq (pinLoads s4 v) q .loadReturn

def execLstu (a : BitVec 7) (d : BitVec 7) (sw : BitVec 1) (s : State) : Host.Outcome State Fault Refusal :=
  issue (.lstu a d sw) s noTrap fun s v =>
    let accs (u : View) : Accs := u.act.map fun x => (x, addrPair s u a.toNat x, 4)
    match alignTrap v (accs v) 4 with
    | some t => .trap t
    | none => access s v (accs v) true true true fun t u =>
      if anySo (fragsOf t u (accs u)) && releaseWaits t u then .wait t (t.now + 1)
      else .done (doLstu (progress t u) u d.toNat (accs u)) .next 0

/-! ## Ownership (R296, R426) -/

/-- OPLIM 0x0D (Table 16.3). -/
def ownTrap (a b : Nat) (s : State) (v : View) : Option Trap :=
  let base := (readK s v.unit a).toNat
  let len := (readK s v.unit b).toNat
  if base % 32 != 0 || len % 32 != 0 || len = 0 then some (precise v cOplim 0x0D) else none

/-- Ranges of a unit registered and not removed. -/
def liveRanges (u : UnitSt) : List OwnRange := u.own.filter fun o => o.until_.isNone

/-- Linear id of another unit of a launch, running or completed, with a range that meets a range. -/
def otherOwner (s : State) (unit base len : Nat) : Option Nat :=
  let meets (b n : Nat) : Bool := b < base + len && base < b + n
  let l := unitLaunchId s unit
  match s.units.find? fun (i, u) => u.launch = l && i != unit && (liveRanges u).any fun o => meets o.base o.len with
  | some (_, u) => some u.lid
  | none => ((launchOf s l).bind fun x => x.owned.find? fun (_, b, n) => meets b n).map (·.1)

/-- `ownreg` in a DETERM launch: OWN on an overlap with another unit or a seventeenth range (R426). -/
def registerRange (a b : Nat) (s : State) (v : View) : Did :=
  if !isDeterm s v.unit then .done s .next 0
  else
    let base := (readK s v.unit a).toNat
    let len := (readK s v.unit b).toNat
    match otherOwner s v.unit base len, unitOf s v.unit with
    | some lid, _ => .trap (precise v cOwn (lid + 1) base)
    | none, some u =>
      if 16 ≤ (liveRanges u).length then .trap (precise v cOwn 0 base)
      else .done (modUnit s v.unit fun x => { x with own := x.own ++ [⟨base, len, s.now + 4, none⟩] }) .next 0
    | none, none => .done s .next 0

def execOwnreg (b : BitVec 6) (a : BitVec 6) (sw : BitVec 1) (s : State) : Host.Outcome State Fault Refusal :=
  issue (.ownreg b a sw) s (ownTrap a.toNat b.toNat) (registerRange a.toNat b.toNat)

def execOwnclr (a : BitVec 6) (sw : BitVec 1) (s : State) : Host.Outcome State Fault Refusal :=
  issue (.ownclr a sw) s noTrap (plain fun s v =>
    if !isDeterm s v.unit then s
    else modUnit s v.unit fun u =>
      { u with own := (u.own.filter fun o => match o.until_ with | some e => s.now < e | none => true).map fun o =>
          if o.base = (readK s v.unit a.toNat).toNat && o.until_.isNone then { o with until_ := some (s.now + 4) } else o })

/-! ## Register addresses (R297) -/

/-- The address of a register of a lane: core-local, or in the cluster window for an ejected thread. -/
def rgaWord (s : State) (v : View) (n lane : Nat) : Nat :=
  match v.gid with
  | .warp .. => regAddr v.page n lane
  | .kindle cl k =>
    match ejOf s cl k with
    | some e => 0x1000000 + v.core % 24 * 0x100000 + (e.stackAddr - 128 * (unitFrame s v.unit).regs) + 128 * n
    | none => 0

def execRga (n : BitVec 7) (d : BitVec 7) (sw : BitVec 1) (s : State) : Host.Outcome State Fault Refusal :=
  issue (.rga n d sw) s noTrap (plain fun s v =>
    writeLanes (modWarp s v.core v.wslot fun w => if w.serial = v.serial then { w with pinned := true } else w) v 4 d.toNat
      fun l => BitVec.ofNat 32 (rgaWord s v n.toNat l))

end Sys2Proof.Machine
end

