-- ==== Sys2Proof/Machine/Wait.lean ====
section
/-! DEFINITION. The instructions that wait and synchronise: `wait.any`, `wait.all` (R215, R216), barriers (R217, R218, R387) and
`gbar` (R220). -/

namespace Sys2Proof.Machine

/-! ## Waits -/

/-- Whether a handle names an instance of the issuing thread's job (R454). -/
def handleInJob (s : State) (v : View) (h : Word) : Bool :=
  match launchOf s (unitLaunchId s v.unit) with
  | none => false
  | some l =>
    match handleLevel h with
    | 0 => handleInst h < ((l.frame.map Frame.units).getD 1)
    | 1 | 2 | 3 | 4 => handleQueue h == l.queue
    | _ => false

/-- OPLIM of one condition: reserved kind or bits (0x0B), a tile beyond TILES (0x01), a handle (0x0C) (Table 16.3). -/
def condTrap (s : State) (v : View) (c : Nat) : Option Nat :=
  let arg := fld c 0 12
  match fld c 12 4 with
  | 0 => if arg = 0 then none else some 0x0B
  | 1 => if 256 ≤ arg then some 0x0B
         else if ((unitOf s v.unit).map (·.ntiles)).getD 0 ≤ arg then some 0x01 else none
  | 2 => if 1024 ≤ arg then some 0x0B else none
  | 3 => if 4 ≤ arg then some 0x0B else none
  | 4 => if 64 ≤ arg then some 0x0B else none
  | 5 => none
  | 6 => if 64 ≤ arg then some 0x0B
         else if handleInJob s v (BitVec.ofNat 32 (readK s v.unit arg).toNat) then none else some 0x0C
  | _ => some 0x0B

/-- Of several conditions that break limits the lowest-numbered gives the code: DESIGN CHOICE (log 113). -/
def waitTrap (ka : Nat) (s : State) (v : View) : Option Trap :=
  ((List.range 4).findSome? fun i => condTrap s v (condBits (readK s v.unit ka) i)).map fun c => precise v cOplim c

def execWaitAny (b a d : BitVec 6) (s : State) : Host.Outcome State Fault Refusal :=
  issue (.waitAny b a d) s (waitTrap a.toNat) fun s v =>
    .done s (.wait false d.toNat (readK s v.unit a.toNat) (readK s v.unit b.toNat)) 0

def execWaitAll (b a d : BitVec 6) (s : State) : Host.Outcome State Fault Refusal :=
  issue (.waitAll b a d) s (waitTrap a.toNat) fun s v =>
    .done s (.wait true d.toNat (readK s v.unit a.toNat) (readK s v.unit b.toNat)) 0

/-! ## Barriers -/

/-- A barrier of a unit as it stands (R217). -/
def barOf (s : State) (u b : Nat) : Bar :=
  match (unitOf s u).bind fun x => tabGet b x.bars with
  | some k => k
  | none => ⟨0, 0, false, false, false, 0⟩

/-- BARX of an arrival (R387). -/
def barTrap (b cnt : Nat) (s : State) (v : View) : Option Trap :=
  let k := barOf s v.unit b
  let x (reason : Nat) : Option Trap := some (precise v cBarx (b + 512 * reason))
  match unitOf s v.unit with
  | none => none
  | some u =>
    if k.bound && (if cnt = 0 then !k.cnt0 else cnt != k.exp) then x 0
    else if u.nthreads < cnt then x 1
    else if cnt = 0 && v.kc && u.left = 1 then x 2
    else none

/-- Hardware barriers bound on a core (R217). -/
def boundOn (s : State) (core : Nat) : Nat :=
  ((residentsOn s core).map fun (_, u) => (u.bars.filter fun (_, k) => k.bound).length).sum

/-- One thread arrives (R218); the phase it arrived in is answered too. -/
def arriveOne (u b cnt agent : Nat) (s : State) : State × Nat :=
  let k0 := barOf s u b
  let left := ((unitOf s u).map (·.left)).getD 0
  let k1 := if k0.bound then k0 else { k0 with bound := true, cnt0 := cnt = 0, exp := if cnt = 0 then left else cnt }
  let k := { k1 with arr := k1.arr + 1 }
  let s1 := release (modUnit s u fun x => { x with bars := tabPut b k x.bars }) u agent (obBar u b k.phase) false
  (if k.exp ≤ k.arr then completeBar s1 u b else s1, k.phase)

/-- The active threads arrive, ascending (R218). -/
def arriveAll (s : State) (v : View) (b cnt : Nat) : State × Nat :=
  v.act.foldl (fun (a, _) l => arriveOne v.unit b cnt (agentOf s v l) a) (s, 0)

/-- An arrival that finds all 512 hardware barriers bound waits (R217). -/
def barrierRoom (s : State) (v : View) (b : Nat) : Bool := (barOf s v.unit b).bound || boundOn s v.core < 512

/-- The group waits for a phase, or resumes 8 cycles after its own arrival completed it (R218). -/
def waitPhase (s : State) (v : View) (b phase : Nat) : Did :=
  if (barOf s v.unit b).phase = phase then .done s (.bar b phase) 0
  else
    .done (acquireLanes (modRun s v.gid fun r => { r with usable := Nat.max r.usable (s.now + 8) }) v (obBar v.unit b phase) false)
      .next 0

def execBarArv (c : BitVec 12) (b : BitVec 9) (sw : BitVec 1) (s : State) : Host.Outcome State Fault Refusal :=
  issuePre (.barArv c b sw) s (barTrap b.toNat c.toNat) releasePre fun s v =>
    if barrierRoom s v b.toNat then .done (arriveAll s v b.toNat c.toNat).1 .next 0 else .wait s (s.now + 1)

def execBarWt (c : BitVec 12) (b : BitVec 9) (s : State) : Host.Outcome State Fault Refusal :=
  issue (.barWt c b) s noTrap fun s v =>
    let k := barOf s v.unit b.toNat
    if k.bound then .done s (.bar b.toNat k.phase) 0 else .done s .next 0

def execBarSyn (c : BitVec 12) (b : BitVec 9) (s : State) : Host.Outcome State Fault Refusal :=
  issuePre (.barSyn c b) s (barTrap b.toNat c.toNat) releasePre fun s v =>
    if barrierRoom s v b.toNat then
      let (s1, phase) := arriveAll s v b.toNat c.toNat
      waitPhase s1 v b.toNat phase
    else .wait s (s.now + 1)

/-- OPLIM 0x09 without the frame flag GBAR (Table 16.3). -/
def gbarTrap (s : State) (v : View) : Option Trap :=
  if (unitFrame s v.unit).flag 1 then none else some (precise v cOplim 0x09)

/-- One thread arrives at `gbar` (R220). -/
def arriveGbar (l agent u : Nat) (s : State) : State × Nat :=
  match launchOf s l with
  | none => (s, 0)
  | some x =>
    let s1 := release (modLaunch s l fun y => { y with garr := y.garr + 1 }) u agent (obGbar l x.gphase) false
    (if x.threadsLeft ≤ x.garr + 1 then completeGbar s1 l else s1, x.gphase)

def execGbar (s : State) : Host.Outcome State Fault Refusal :=
  issuePre .gbar s gbarTrap releasePre fun s v =>
    let l := unitLaunchId s v.unit
    let (s1, phase) := v.act.foldl (fun (a, _) x => arriveGbar l (agentOf s v x) v.unit a) (s, 0)
    if ((launchOf s1 l).map (·.gphase)).getD 0 = phase then .done s1 (.gbar phase) 0
    else
      .done (acquireLanes (modRun s1 v.gid fun r => { r with usable := Nat.max r.usable (s.now + 400) }) v (obGbar l phase) false)
        .next 0

end Sys2Proof.Machine
end

