-- ==== Sys2Proof/Machine/Records.lean ====
section
/-! DEFINITION. `spawn` (R221, R454), `jdec` (R223, R388), `cancel` (R56, R224) and the decrement of a parent's JOIN (R63). -/

namespace Sys2Proof.Machine

/-- Bytes at an address as one access of a thread reads them at once. -/
def readNow (s : State) (v : View) (va n : Nat) : List Byte :=
  (piecesOf s v va n false false).flatMap fun (_, k, p) =>
    match p with
    | .aper c a _ => (coreOf s c).store.read a k
    | .mem pl _ _ => readAs s (unitGen s v.unit) pl k
    | _ => List.replicate k 0

/-! ## `spawn` -/

/-- A spawned record joins the counter of the graph, or else the phase, of the spawning record (R454). -/
def joinOwner (s : State) (x : Launch) : State := modInst s x.fn x.owner fun i => { i with count := i.count + 1 }

/-- The record image at an address is pushed (R221). -/
def spawnRecord (s : State) (v : View) (addr h : Nat) : Did :=
  match launchOf s (unitLaunchId s v.unit) with
  | none => .done s .next 3
  | some x =>
    if !ringFree s x.part x.fn h 1 then .wait s (s.now + 1)
    else
      let n := (cqOf s x.fn x.queue).spawned
      let p : Push :=
        { fn := x.fn, gen := x.gen, queue := x.queue, handle := memberLaunchHandle x.queue n, graph := x.graph, phase := x.phase,
          pkt := none, spawned := true, capbuf := 0, capsz := 0, capt := false, rply := false }
      let s0 := releaseLanes s v (obRecord s.fresh) true
      let s1 := (pushRecord s0 x.part h (natOf (readNow s v addr 32)) p).1
      .done (joinOwner (modCq s1 x.fn x.queue fun c => { c with spawned := c.spawned + 1 }) x) .next 3

def execSpawn (a : BitVec 6) (sw : BitVec 1) (s : State) : Host.Outcome State Fault Refusal :=
  issuePre (.spawn a sw) s noTrap releasePre fun s v =>
    let k := (readK s v.unit a.toNat).toNat
    let addr := k / 32 * 32
    lowAccess s v (lowAccs v addr 32) true false false fun t u => spawnRecord t u addr (k % 16)

/-! ## `jdec` -/

/-- ALIGN of a uniform address (R400, R388). -/
def alignK (s : State) (v : View) (a : BitVec 6) (n : Nat) : Option Trap :=
  let k := (readK s v.unit a.toNat).toNat
  if k % n = 0 then none else some (precise v cAlign 0 k)

/-- Records in rings whose JOIN field lies at an address of a context: their starts acquire what a decrement releases (R63, Table 5.3). -/
def recordsAt (s : State) (gen addr : Nat) : List Nat := (s.launches.filter fun (_, x) => x.gen = gen && x.recAddr + 16 = addr).map (·.1)

/-- The word at an address is decremented in memory unless it is 0 (R223): the effect of an atomic of the lowest active thread, with release at device
scope, that reads and writes at its issue, or in its access cycle through the aperture (R453). A poisoned word raises POISON as an atomic
does (R430); `jdec` counts in no slot, so the park that observes slot 3 next after its acknowledgement takes it: DESIGN CHOICE (log 94). -/
def decrementAt (s : State) (v : View) (lane addr : Nat) (f : Frag) : State × Option Trap :=
  let b := raceCheck s v.unit (agentOf s v lane) v.pc.toNat (lidOf s v.unit) lane 4 addr f.place.key 4 (f.ord == 2)
  let old := natOf (readAs s (unitGen s v.unit) f.place 4)
  if comesPoisoned s f then
    (poisonReport b v f.place addr, some (deferredTrap v cPoison (maskOf [lane]).toNat addr v.pc (maskOf v.act)))
  else if old = 0 then (joinReport (touchPlace b (unitGen s v.unit) (unitPart s v.unit) f.place 0) v.unit (addr - 16) v.pc, none)
  else
    let c := (wordsIn f.place.key 4).foldl (fun x w => carryRels x w (obFence (agentOf b v lane))) b
    let d := (recordsAt c (unitGen s v.unit) addr).foldl (fun x l => release x v.unit (agentOf x v lane) (obRecord l) false)
      (releaseWords c v lane 4 f.place 4 true false)
    (recordRelease (writeMem d (unitGen s v.unit) (unitPart s v.unit) f.place (bytesOf 4 (old - 1))) (partyOf s v 0 [lane]) f.place 4 4, none)

/-- A `jdec` issues: its decrement is made, or held at the memory controller. -/
def decrementJoin (s0 : State) (v : View) (addr : Nat) : State :=
  let s := pinLoads s0 v
  let lane := v.act.headD 0
  let accs : Accs := [(lane, addr, 4)]
  let fs := fragsOf s v accs
  let ts := touchesOf s v accs
  let (lost, s1) := drawLost s v
  let (apDue, more) := apertureDue s v ts lost
  let path := (fs.head?.map fun f => pathCycles s (dieOf v.core) f.place).getD 0
  let due := if ts.isEmpty then s.now + path + Config.round * lost else apDue
  let q : Req := withL1 s v 4 fs
    { Req.mk' s v none .store due with
      isStore := true, aper := ts.map fun t => ⟨t.core, t.addr, t.len, apDue, t.idx, t.off, .atom 8 false false (addr - 16) 0⟩
      holds := (fs.filter fun f => heldAt s f.place).map fun f => ⟨f, lane, .atom 8 false false (addr - 16) 0, 0, 0⟩
      host := asksHost fs, node := nodeOf fs }
  let (s2, trap) := match fs.find? fun f => !heldAt s f.place with
    | some f => decrementAt s1 v lane addr f
    | none => (s1, none)
  sendReq (countRequest s2 v more lost) { q with fault := trap } .storeAck

/-! ## Accesses held at the memory controller (R23, R29, R358) -/

/-- A held part of an access is performed, now that its place can be reached. -/
def actHold (s : State) (v : View) (id : Nat) (h : HoldAct) : State :=
  let f := h.frag
  let fill (t : State) (b : List Byte) : State := modReq t id fun q => { q with kind := fillItem q.kind f.idx f.off b }
  match h.op with
  | .load =>
    let bad := comesPoisoned s f
    let s1 := touchPlace s (unitGen s v.unit) (unitPart s v.unit) f.place 0
    let s2 := if bad then modReq (poisonReport s1 v f.place f.va) id fun q => { q with poison := q.poison ++ [f.idx] } else s1
    fill s2 (readAs s (unitGen s v.unit) f.place f.len)
  | .store b bad => storeFrag s v h.lane h.ao f b bad
  | .lstu =>
    let (s1, word, bad) := lstuFrag s v h.lane f
    fill (if bad then modReq s1 id fun q => { q with poison := q.poison ++ [f.idx] } else s1) word
  | .atom op flt wide c x =>
    if op = 8 then
      let (s1, t) := decrementAt s v h.lane (c + 16) f
      match t with
      | some _ => modReq s1 id fun q => { q with fault := t }
      | none => s1
    else
      let (s1, old, bad) := atomFrag s v ⟨op, flt, wide, h.ao, h.scope, 0, 0⟩ h.lane c x f
      if bad then modReq s1 id fun q => { q with
        kind := .load (if wide then 5 else 4) []
        fault := some (deferredTrap v cPoison (maskOf [h.lane]).toNat f.va v.pc (maskOf v.act)) }
      else fill s1 old

/-- The held parts of a request whose places can be reached now; it returns after the path of the last of them. -/
def actHolds (s : State) (id : Nat) : State :=
  match tabGet id s.reqs with
  | none => s
  | some q =>
    let (held, free) := q.holds.partition fun h => heldAt s h.frag.place
    if free.isEmpty then s
    else
      let v := viewThen s q.gid q.serial q.unit q.core q.lanes q.ipc
      let ends := s.now + maxOf (free.map fun h => pathCycles s (dieOf q.core) h.frag.place)
      let s1 := modReq (free.foldl (fun a h => actHold a v id h) s) id fun r =>
        { r with holds := held, due := Nat.max r.due ends }
      if held.isEmpty then schedule s1 (Nat.max q.due ends) (returnEvent q) (.of [id]) else s1

/-- Held accesses of all requests, oldest first. -/
def releaseHolds (s : State) : State := ((s.reqs.filter fun (_, q) => !q.holds.isEmpty).map (·.1)).foldl actHolds s

def execJdec (a : BitVec 6) (sw : BitVec 1) (s : State) : Host.Outcome State Fault Refusal :=
  issuePre (.jdec a sw) s (fun s v => alignK s v a 32) releasePre fun s v =>
    let addr := (readK s v.unit a.toNat).toNat + 16
    let hosts := hostAtomics s v (mkAtom 1 0 0 4 2 0 0) (lowAccs v addr 4)
    match causeTrap v cAccess hosts with
    | some t => .trap t
    | none => lowAccess s v (lowAccs v addr 4) true true false fun t u =>
      .done (decrementJoin (progress t u) u addr) .next 3

/-! ## `cancel` -/

/-- OPLIM 0x0C (Table 16.3). -/
def cancelTrap (a : BitVec 6) (s : State) (v : View) : Option Trap :=
  if handleInJob s v (BitVec.ofNat 32 (readK s v.unit a.toNat).toNat) then none else some (precise v cOplim 0x0C)

/-- A unit cancelled before it is placed counts as completed and is never placed (R56). -/
def skipUnit (s : State) (l lid : Nat) (x : Launch) : State :=
  match x.frame with
  | none => s
  | some f =>
    if f.units ≤ lid || x.hasPlaced lid || x.skipped.contains lid then s
    else
      modLaunch s l fun y =>
        ({ y with skipped := lid :: y.skipped, unitsLeft := y.unitsLeft - 1, threadsLeft := y.threadsLeft - f.threads }).goTo y.nextUnit

/-- The instance a handle names is cancelled (R56). -/
def cancelNamed (h : Word) (s : State) (v : View) : State :=
  let l := unitLaunchId s v.unit
  match launchOf s l with
  | none => s
  | some x =>
    if handleLevel h = 0 then
      match s.units.find? fun (_, u) => u.launch = l && u.lid = handleInst h with
      | some (i, _) => recount (cancelUnit s i) i l
      | none => recount (skipUnit s l (handleInst h) x) 0 l
    else cancelHandle s x.fn h

def execCancel (a : BitVec 6) (sw : BitVec 1) (s : State) : Host.Outcome State Fault Refusal :=
  issue (.cancel a sw) s (cancelTrap a) (plain fun s v => cancelNamed (BitVec.ofNat 32 (readK s v.unit a.toNat).toNat) s v)

/-! ## JOIN of a parent (R63) -/

/-- A launch that completed decrements the JOIN of its parent record, unless it faulted (R378); nothing more is kept of it. The
decrement is a release of the front end at device scope (R139, Table 5.3). -/
def parentJoin (s : State) (l : Nat) : State :=
  match launchOf s l with
  | none => s
  | some x =>
    if x.status = 0 then s
    else
      let s1 := { s with launches := tabDel l s.launches }
      if x.parent = 0 || x.status = 3 then s1
      else
        match vnat s x.gen (x.parent + 16) 4 with
        | some n =>
          if n = 0 then s1
          else
            let s2 := vput s1 x.gen (x.parent + 16) 4 (n - 1)
            let s3 := (recordsAt s2 x.gen (x.parent + 16)).foldl (fun a p => joinObject a (obRecord p) (obCount x.fn x.handle)) s2
            match serve s x.gen (x.parent + 16) true true with
            | .ok p => recordRelease s3 (frontParty s) p 4 4
            | .error _ => s3
        | none => s1

def execJoinDecrement (s : State) : Host.Outcome State Fault Refusal :=
  match s.subj with
  | .of [l] => .next (parentJoin s l)
  | _ => .next s

end Sys2Proof.Machine
end

