-- ==== Sys2Proof/Machine/Tiles.lean ====
section
/-! DEFINITION. The tile table and its transfers: `tget`, `tset`, `tdrn`, `tstat` (R104, R105, R279-R281, R423). -/

namespace Sys2Proof.Machine

/-! ## Entries (Table 4.3) -/

def tileOffs (e : Nat) : Nat := fld e 0 13
def tileSize (e : Nat) : Nat := 128 * (fld e 13 9 + 1)
def tileStamp (e : Nat) : Nat := fld e 28 4
/-- The entry passes the unit's SCRATCH (R104). -/
def tilePasses (s : State) (u e : Nat) : Bool := (unitFrame s u).scratch < 128 * tileOffs e + tileSize e

/-- Store address of a tile's first byte. -/
def tileAddr (s : State) (u e : Nat) : Nat := ((unitOf s u).map fun x => 2048 * x.scrPage).getD 0 + 128 * tileOffs e

def setTile (s : State) (u t e : Nat) : State :=
  match unitOf s u with
  | some x => modCore s x.core fun k => { k with tiles := tabSet 0 (x.tileBase + t) (BitVec.ofNat 32 e) k.tiles }
  | none => s

/-- STATE replaced. -/
def withState (e st : Nat) : Nat := e - fld e 26 2 * 2 ^ 26 + st * 2 ^ 26
/-- STAMP replaced. -/
def withStamp (e st : Nat) : Nat := e - fld e 28 4 * 2 ^ 28 + st * 2 ^ 28
/-- STATE of a tile changes by an event of Table 4.4, in the entry and in what instructions still see of it (R280). -/
def setTileState (s : State) (u t st : Nat) : State :=
  let s1 := setTile s u t (withState (tileNow s u t) st)
  match unitOf s u with
  | some x => modCore s1 x.core fun k => { k with tsets := k.tsets.map fun (c, i, w) =>
      if i = x.tileBase + t then (c, i, BitVec.ofNat 32 (withState w.toNat st)) else (c, i, w) }
  | none => s1

def unitTiles (s : State) (u : Nat) : Nat := ((unitOf s u).map (·.ntiles)).getD 0

/-! ## Traps and delays -/

/-- OPLIM 0x01: a tile at or above TILES (Table 16.3). -/
def tileLimit (s : State) (v : View) (t : Nat) : Option Trap := if unitTiles s v.unit ≤ t then some (precise v cOplim 0x01) else none

/-- OPLIM 0x04 of an entry. -/
def extentTrap (s : State) (v : View) (e : Nat) : Option Trap :=
  if tilePasses s v.unit e then some (precise v cOplim 0x04) else none

/-- Traps of `tget` and `tdrn`. -/
def transferTrap (a : BitVec 6) (t : Nat) (s : State) (v : View) : Option Trap :=
  firstTrap (tileLimit s v t) (firstTrap (extentTrap s v (tileWord s v.unit t)) (alignK s v a 128))

/-- Tiles of a unit whose reads by engine commands are not over: sources of `cpy` and `sct`. -/
def cmdReads (s : State) (c : Cmd) : List Nat :=
  if c.phase != 0 && c.phase != 4 && c.phase != 6 && !(c.phase = 1 && s.now ≤ c.readEnd) then []
  else if c.op = 0 ∧ bit c.ctl.toNat 42 then [c.src % 256]
  else if c.op = 2 ∧ bit c.ctl.toNat 42 then [c.dst % 256]
  else []

/-- A read of the tile by the unit is under way (Table 4.4). -/
def tileRead (s : State) (u t : Nat) : Bool :=
  (s.reqs.any fun (_, q) => q.unit = u && q.reads.contains t) ||
  (s.cmds.any fun (_, c) => c.unit = u && (cmdReads s c).contains t) ||
  s.matOps.any fun (_, m) => m.unit = u && s.now ≤ m.readEnd && m.tiles.contains t

/-- A fill may start: the tile is empty, or ready and not being read (Table 4.4). -/
def fillReady (s : State) (u t : Nat) : Bool := tileState s u t == 0 || (tileState s u t == 2 && !tileRead s u t)
/-- A drain may start. -/
def drainReady (s : State) (u t : Nat) : Bool := tileState s u t == 2 && !tileRead s u t

/-! ## Lines of a transfer (R279, R423) -/

/-- A transfer as far as it goes: its lines in order with their places, the line that meets a condition with its cause, or what
it waits for. -/
inductive Transfer where
  | wait (s : State)
  | lines (l : List (Nat × Piece)) (fault : Option (Nat × Nat))
deriving DecidableEq, Repr

/-- The lines of a transfer of `n` lines at an address: translations are awaited at issue, as are page requests (R423). -/
def transferLines (s : State) (v : View) (base n : Nat) (r w : Bool) : Transfer :=
  let all := (List.range n).map fun j => (base + 128 * j, pieceOf s v (base + 128 * j) 128 r w)
  let pages (p : Piece) : List Nat := dedup ((all.filter fun x => decide (x.2 = p)).map fun x => x.1 / 65536 * 65536)
  match pages .absent, pages .park with
  | p :: ps, _ => .wait ((p :: ps).foldl (fun a q => startWalk a v.gid (dieOf v.core) (unitGen s v.unit) q 0) s)
  | [], p :: ps => .wait (requestPages s v 0 (p :: ps))
  | [], [] =>
    if all.any fun x => decide (x.2 = .waiting) then .wait s
    else
      let owned (x : Nat × Piece) : Bool :=
        match x.2 with
        | .mem .. => !(w && isDeterm s v.unit) || ownsRange s v.unit x.1 128
        | _ => true
      let good (x : Nat × Piece) : Bool := (match x.2 with | .cause _ => false | _ => true) && owned x
      let ok := all.takeWhile good
      match all[ok.length]? with
      | none => .lines ok none
      | some (a, .cause c) => .lines ok (some (c, a))
      | some (a, _) => .lines ok (some (cOwn, a))

/-- The deferred trap of a transfer that stopped at a line (R423). -/
def transferTrapRecord (v : View) (base : Nat) (fault : Option (Nat × Nat)) : Option Trap :=
  fault.map fun (c, a) => deferredTrap v c (a - base) a v.pc (maskOf v.act)

/-- The cycle in which a transfer with some lines returns: that of its last line, or for one that stopped the later of that and of the
request that faulted (R279, R423). -/
def transferDue (s : State) (ls : List Line) (fault : Option (Nat × Nat)) : Nat :=
  Nat.max (maxOf (ls.map (·.ackAt))) (if fault.isSome || ls.isEmpty then s.now + ls.length else 0)

/-- The parts of the lines of a transfer that lie in translated memory, as accesses of the lowest active thread. -/
def transferFrags (ls : List (Nat × Piece)) : List Frag :=
  ls.filterMap fun (va, p) => match p with | .mem pl ord _ => some ⟨0, 0, va, 128, pl, ord⟩ | _ => none

/-- Object that keeps what a thread had done at the issue of a tile transfer. -/
def obTransfer (req : Nat) : Nat := 16 * req + 12

/-- The release at the end of a transfer (Table 5.3). -/
def releaseTile (s : State) (u t id : Nat) : State :=
  joinObject s (obTile u t) (obTransfer id)

/-- Requests of a tile transfer: the request and the clocks of its thread as they stand. -/
def sendTransfer (s : State) (v : View) (q : Req) (lost : Nat) (i : Instr) : State :=
  let id := s.fresh
  let s1 := sendReq s q i
  countRequest (release s1 v.unit (agentOf s v (v.act.headD 0)) (obTransfer id) false) v 0 lost

/-! ## `tget` -/

/-- A fill of a tile starts: one line request per cycle, each line written as it comes back (R279). One from an SO page is a plain SO load of the
lowest active thread: it is checked by the scope checker and acquires. DESIGN CHOICE (log 57): a line whose check fails stops the transfer as a
fault of that line does (R139, R423). -/
def fillTile (l : BitVec 2) (a : BitVec 6) (t : Nat) (s : State) (v : View) : Did :=
  let e := tileWord s v.unit t
  let base := (readK s v.unit a.toNat).toNat
  match transferLines s v base (tileSize e / 128) true false with
  | .wait s1 => .wait s1 (s.now + 1)
  | .lines all stop =>
    let accs : Accs := [(v.act.headD 0, base, 0)]
    let broken (x : Nat × Piece) : Bool := !(scopeFails s v accs (transferFrags [x]) none).isEmpty
    let ls := all.takeWhile fun x => !broken x
    let fails := scopeFails s v accs (transferFrags ((all.drop ls.length).take 1)) none
    let (s0, scopeTrap) := scopeFault s v fails
    let fault := if fails.isEmpty then stop else some (cScope, base + 128 * ls.length)
    let fs := transferFrags ls
    let (lost, s1) := drawLost (clockLoads s0 v accs fs) v
    let stamp := match ls.head? with | some (_, .mem _ _ st) => st | _ => 0
    let lines := ls.mapIdx fun j (va, p) =>
      let (spot, path) := lineSpot s v va p
      lineAt (s.now + j) spot (path + Config.round * lost) (.store v.core (tileAddr s v.unit e + 128 * j)) Config.latOwn 128
    let q : Req :=
      { Req.mk' s v (some l.toNat) (.tget t stamp) (transferDue s lines fault) with
        isLoad := true, lines := lines, acq := maxOf ((fs.filter fun f => f.ord = 1).map fun f => soScope f.place)
        fault := match scopeTrap with | some x => some x | none => transferTrapRecord v base fault }
    .done (sendTransfer (setTileState s1 v.unit t 1) v q lost .tileFillEnd) .next 0

def execTget (l : BitVec 2) (a : BitVec 6) (t : BitVec 8) (sw : BitVec 1) (s : State) : Host.Outcome State Fault Refusal :=
  issuePre (.tget l a t sw) s (transferTrap a t.toNat)
    (fun s v => if fillReady s v.unit t.toNat then none else some (.wait s (s.now + 1))) (fillTile l a t.toNat)

/-- Every line of a tile transfer has been performed, and it is due (R279, R423). -/
def transferIsOver (s : State) (q : Req) : Bool := q.due ≤ s.now && q.rest.isEmpty && q.lines.all fun l => l.ackAt ≤ s.now

/-- A transfer whose end has come before its lines are over, since they were held, ends with the last of them. -/
def endLater (s : State) (q : Req) (i : Instr) (id : Nat) : State :=
  if q.rest.isEmpty && q.due ≤ s.now then schedule s (maxOf (q.lines.map (·.ackAt))) i (.of [id]) else s

/-- A fill ends (Table 4.4): its lines are in the store, the tile is ready with its stamp, or empty when the transfer faulted
(R423). -/
def endFill (s : State) (id : Nat) : State :=
  match tabGet id s.reqs with
  | none => s
  | some q =>
    match q.kind with
    | .tget t stamp =>
      if !transferIsOver s q then endLater s q .tileFillEnd id
      else
        let s1 := setTileState s q.unit t (if q.fault.isSome then 0 else 2)
        let s2 := setTile s1 q.unit t (withStamp (tileNow s1 q.unit t) (if q.fault.isSome then 0 else stamp))
        returnReq (releaseTile s2 q.unit t id) id
    | _ => returnDue s id

def execTileFillEnd (s : State) : Host.Outcome State Fault Refusal :=
  match s.subj with
  | .of [id] => .next (endFill s id)
  | _ => .next s

/-! ## `tdrn` -/

/-- A drain of a tile starts: one line per cycle is read from the store and written to memory (R279). -/
def drainTile (l : BitVec 2) (a : BitVec 6) (t : Nat) (s : State) (v : View) : Did :=
  let e := tileWord s v.unit t
  let base := (readK s v.unit a.toNat).toNat
  match transferLines s v base (tileSize e / 128) false true with
  | .wait s1 => .wait s1 (s.now + 1)
  | .lines ls fault =>
    let fs := transferFrags ls
    if anySo fs && releaseWaits s v then .wait s (s.now + 1)
    else
      let s0 := acquireLanes (pinLoads s v) v (obTile v.unit t) false
      let (lost, s1) := drawLost (clockStores s0 v 3 [v.act.headD 0] fs) v
      let lines := ls.mapIdx fun j (va, p) =>
        let (spot, path) := lineSpot s v va p
        lineAt (s.now + j) (.store v.core (tileAddr s v.unit e + 128 * j)) Config.latOwn spot (path + Config.round * lost) 128
      let q : Req :=
        { Req.mk' s v (some l.toNat) (.tdrn t) (transferDue s lines fault) with
          isStore := true, lines := lines, un := !ls.isEmpty && ls.all fun x => match x.2 with | .mem _ o _ => o == 2 | _ => false
          fault := transferTrapRecord v base fault }
      .done (sendTransfer (setTileState s1 v.unit t 3) v q lost .tileDrainEnd) .next 0

def execTdrn (l : BitVec 2) (a : BitVec 6) (t : BitVec 8) (sw : BitVec 1) (s : State) : Host.Outcome State Fault Refusal :=
  issuePre (.tdrn l a t sw) s (transferTrap a t.toNat)
    (fun s v => if drainReady s v.unit t.toNat then none else some (.wait s (s.now + 1))) (drainTile l a t.toNat)

/-- A drain ends (Table 4.4): the tile is empty, or ready again when the transfer faulted (R423). -/
def endDrain (s : State) (id : Nat) : State :=
  match tabGet id s.reqs with
  | none => s
  | some q =>
    match q.kind with
    | .tdrn t =>
      if !transferIsOver s q then endLater s q .tileDrainEnd id
      else returnReq (releaseTile (setTileState s q.unit t (if q.fault.isSome then 2 else 0)) q.unit t id) id
    | _ => returnDue s id

def execTileDrainEnd (s : State) : Host.Outcome State Fault Refusal :=
  match s.subj with
  | .of [id] => .next (endDrain s id)
  | _ => .next s

/-! ## `tset`, `tstat` -/

/-- Traps of `tset` (Table 16.3). -/
def tsetTrap (a : BitVec 6) (t : Nat) (s : State) (v : View) : Option Trap :=
  let e := (readK s v.unit a.toNat).toNat
  firstTrap (tileLimit s v t) (firstTrap (extentTrap s v e)
    (if fld e 26 2 % 2 = 1 then some (precise v cOplim 0x05) else none))

/-- An entry is written in this cycle, and instructions see it from the fourth cycle on (R280). -/
def writeTile (s : State) (u t e : Nat) : State :=
  match unitOf s u with
  | some x => modCore (setTile s u t e) x.core fun k =>
      { k with tsets := (k.tsets.filter fun (c, _, _) => s.now < c) ++ [(s.now + 4, x.tileBase + t, BitVec.ofNat 32 (tileNow s u t))] }
  | none => s

def execTset (a : BitVec 6) (t : BitVec 8) (sw : BitVec 1) (s : State) : Host.Outcome State Fault Refusal :=
  issuePre (.tset a t sw) s (tsetTrap a t.toNat)
    (fun s v => if tileState s v.unit t.toNat % 2 = 1 then some (.wait s (s.now + 1)) else none)
    (plain fun s v =>
      let e := (readK s v.unit a.toNat).toNat % 2 ^ 32
      -- a result usable after 4 cycles, for which the park of a marker waits (R176): DEDUCED (log 57)
      modRun (writeTile s v.unit t.toNat (e - fld e 22 4 * 2 ^ 22)) v.gid fun r => { r with usable := Nat.max r.usable (s.now + Config.latInt) })

def execTstat (d : BitVec 6) (t : BitVec 8) (sw : BitVec 1) (s : State) : Host.Outcome State Fault Refusal :=
  issue (.tstat d t sw) s (fun s v => tileLimit s v t.toNat) (plain fun s v =>
    let s1 := if tileState s v.unit t.toNat = 0 then acquireLanes s v (obTile v.unit t.toNat) false else s
    pendK s1 v (kLat v) d.toNat (BitVec.ofNat 64 (tileWord s v.unit t.toNat)))

end Sys2Proof.Machine
end

