-- ==== Sys2Proof/Machine/Lines.lean ====
section
/-! DEFINITION. The ends of a line of a transfer: what is read and written there (R279, R284, R317, R430, R431), and the requests
that finish work which is not a plain access. -/

namespace Sys2Proof.Machine

/-- Bytes of a core's store written: a word written in full loses its poison (R428). -/
def storeWrite (s : State) (core addr : Nat) (bytes : List Byte) (bad : Bool) : State :=
  modCore s core fun k =>
    let kept := k.storePoison.filter fun p => !(addr ≤ p && p + 4 ≤ addr + bytes.length)
    let ws := dedup ((List.range bytes.length).map fun i => (addr + i) / 4 * 4)
    { k with store := k.store.write addr bytes
             storePoison := if bad then kept ++ ws.filter fun w => !kept.contains w else kept }

/-- Offsets of a range of a store that lie in poisoned words. -/
def storeBadAt (s : State) (core addr n : Nat) : List Nat :=
  let bad := (coreOf s core).storePoison
  if bad.isEmpty then [] else (List.range n).filter fun i => bad.contains ((addr + i) / 4 * 4)

/-- Offsets of a range of memory that lie in poisoned sectors; host memory that cannot be reached gives poison (R437). -/
def placeBadAt (s : State) (p : Place) (n : Nat) : List Nat :=
  match p with
  | .host .. => if s.linkUp then [] else List.range n
  | _ => if s.memPoison.isEmpty then [] else (List.range n).filter fun i => poisonedPlace s (p.plus i) 1

/-- A granule takes an image made from what another one held: the poison of words that were not written goes along (R428, R430). -/
def moveGranule (s : State) (core unit gen old new : Nat) (img : Memory) (written : Nat → Bool) : State :=
  if new = 64 then s
  else
    let s1 := putGranule s core unit gen new img
    if ((unitOf s unit).map fun u => u.gmap.any fun p => p.2 = new).getD false then
      let bad := (coreOf s core).accPoison
      let kept := (bad.filter fun a => a / 4096 = old && !written (a % 4096)).map fun a => 4096 * new + a % 4096
      modCore s1 core fun k => { k with accPoison := (bad.filter fun a => a / 4096 != new) ++ kept }
    else s1

/-- What stands at an end of a line: its bytes and the offsets of the poisoned ones. -/
def readSpot (s : State) (gen : Nat) (sp : Spot) (n : Nat) : List Byte × List Nat :=
  match sp with
  | .mem p _ _ => (readAs s gen p n, placeBadAt s p n)
  | .store c a => ((coreOf s c).store.read a n, storeBadAt s c a n)
  | .gran c u g off =>
    let bad := (coreOf s c).accPoison
    ((granuleOf s c u gen g).read off n,
      if bad.isEmpty then [] else (List.range n).filter fun i => bad.contains ((4096 * g + off + i) / 4 * 4))
  | .none => (List.replicate n 0, [])

/-- Bytes written at an end of a line by an agent (1 an engine, 0 a thread) for lanes of a group. -/
def writeSpot (s : State) (v : View) (gen part : Nat) (lanes : List Nat) (agent : Nat) (sp : Spot) (bytes : List Byte) (bad : List Nat) : State :=
  match sp with
  | .mem p va ord =>
    let down := match p with | .host .. => !s.linkUp | _ => false
    if down then hostReport s gen (launchHandle s v.unit) va v.pc.toNat 4
    else
      let s1 := writeMem s gen part p bytes
      let s2 := bad.foldl (fun a i => poisonPlace a (p.plus i)) s1
      if ord = 1 then recordRelease s2 (partyOf s v agent lanes) p bytes.length (soScope p) else breakRelease s2 p bytes.length
  | .store c a =>
    let words := chunksAt a bytes
    words.foldl (fun t (off, b) => storeWrite t c (a + off) b (bad.any fun i => off ≤ i && i < off + b.length)) s
  | .gran c u g off =>
    if 64 ≤ g then s
    else
      let s1 := moveGranule s c u gen g g ((granuleOf s c u gen g).write off bytes) fun a => off ≤ a && a + 4 ≤ off + bytes.length
      modCore s1 c fun k => { k with accPoison := k.accPoison ++ dedup (bad.map fun i => (4096 * g + off + i) / 4 * 4) }
  | .none => s
where
  /-- pieces of at most one 32-byte sector each, with their offsets -/
  chunksAt (a : Nat) (b : List Byte) : List (Nat × List Byte) :=
    if bad.isEmpty then [(0, b)]
    else
      let cut := (List.range b.length).filter fun i => i = 0 || (a + i) % 4 = 0
      cut.map fun i => (i, (b.drop i).take (if i = 0 then 4 - a % 4 else 4))

/-- Whether an end of a line is a store of a core: it is accessed as its cycle begins, with the other accesses of stores (R453). -/
def Spot.isStore : Spot → Bool
  | .store .. => true
  | _ => false

/-- An end of a line in memory that is held at the memory controller (R29, R358). -/
def Spot.held (s : State) : Spot → Bool
  | .mem p _ _ => heldAt s p
  | _ => false

/-- A line whose read, or whose write, is held in this cycle goes on one cycle later. -/
def holdLine (s : State) (kind : Spot → Bool) (l : Line) : Line :=
  if l.readAt = s.now && kind l.src && l.src.held s then
    { l with readAt := l.readAt + 1, writeAt := l.writeAt + 1, ackAt := l.ackAt + 1 }
  else if l.writeAt = s.now && kind l.dst && l.dst.held s then { l with writeAt := l.writeAt + 1, ackAt := l.ackAt + 1 }
  else l

/-- The lines of a transfer whose reads or writes, at ends of a kind, fall in this cycle act, in order. A write that is acknowledged in the
next cycle has its sectors dropped in the home core's L1 before that (R128). -/
def actLines (s : State) (v : View) (gen part : Nat) (lanes : List Nat) (agent : Nat) (kind : Spot → Bool) (ls : List Line) : State × List Line :=
  ls.foldl (fun (acc : State × List Line) l0 =>
    let (a, done) := acc
    let l := holdLine a kind l0
    let reads := l.readAt = a.now && kind l.src
    let l1 := if reads then
        let (b, bad) := readSpot a gen l.src l.len
        { l with bytes := b, bad := bad }
      else l
    let a1 := if reads then
        match l.src with
        | .mem p va _ =>
          let t := touchPlace a gen part p 0
          if l1.bad.isEmpty then t else poisonReport t v p va
        | _ => a
      else a
    let b := if l.writeAt = a.now && kind l.dst then writeSpot a1 v gen part lanes agent l1.dst l1.bytes l1.bad else a1
    let c := match if l.ackAt = a.now + 1 && kind l.dst then spotLine b l.dst else none with
      | some (line, off) => l1Drop b v.core line (sectorMask off l.len)
      | none => b
    (c, done ++ [l1])) (s, [])

/-! ## Lines put off -/

/-- A line put off by some cycles. -/
def Line.later (l : Line) (n : Nat) : Line :=
  { l with reqAt := l.reqAt + n, readAt := l.readAt + n, writeAt := l.writeAt + n, ackAt := l.ackAt + n }

/-- Offsets of lines in their transfer. -/
def lineOffsets (ls : List Line) : List (Nat × Line) :=
  (ls.foldl (fun (acc : Nat × List (Nat × Line)) l => (acc.1 + l.len, acc.2 ++ [(acc.1, l)])) (0, [])).2

/-- Whether a line is one that a held transfer does not request: it lies beyond the 4 KiB under way (R102, Table 3.7). -/
def beyondBlock4k (now : Nat) (ls : List (Nat × Line)) (x : Nat × Line) : Bool :=
  decide (now < x.2.reqAt) &&
  match ((ls.filter fun y => y.2.reqAt ≤ now).getLast?) with
  | some (o, _) => o / 4096 < x.1 / 4096
  | none => true

/-! ## Tile transfers (R279) -/

/-- A halt takes the lines of a tile transfer that lie beyond the 4 KiB under way (R298, Table 3.7). -/
def haltLines (s : State) (q : Req) : Req :=
  let ls := lineOffsets q.lines
  if !(ctxStops s q.gen && ls.any (beyondBlock4k s.now ls)) then q
  else
    let (rest, kept) := ls.partition (beyondBlock4k s.now ls)
    { q with lines := kept.map (·.2), rest := rest.map (·.2) ++ q.rest }

/-- The lines of a tile transfer act at the ends of a kind in this cycle, as accesses of its lowest thread. -/
def actTransfer (s : State) (kind : Spot → Bool) (id : Nat) : State :=
  match tabGet id s.reqs with
  | none => s
  | some q =>
    if q.lines.isEmpty then s
    else
      let v := viewThen s q.gid q.serial q.unit q.core q.lanes q.ipc
      let (s1, ls) := actLines s v q.gen (unitPart s q.unit) (v.act.take 1) 0 kind q.lines
      modReq s1 id fun r => haltLines s { r with lines := ls }

def actTransfers (s : State) (kind : Spot → Bool) : State := (s.reqs.map (·.1)).foldl (fun a id => actTransfer a kind id) s

/-- A tile transfer that a halt stopped goes on from now (R298). -/
def restartTransfer (s : State) (id : Nat) : State :=
  match tabGet id s.reqs with
  | none => s
  | some q =>
    match q.rest with
    | [] => s
    | l :: _ =>
      let more := q.rest.map fun x => x.later (s.now - l.reqAt)
      let due := Nat.max (if q.fault.isSome then q.due + (s.now - l.reqAt) else q.due) (maxOf (more.map (·.ackAt)))
      schedule (modReq s id fun r => { r with lines := r.lines ++ more, rest := [], due := due }) due
        (match q.kind with | .tget .. => .tileFillEnd | _ => .tileDrainEnd) (.of [id])

end Sys2Proof.Machine
end

