-- ==== Sys2Proof/Machine/Array.lean ====
section
/-! DEFINITION. The matrix array of a core: operand maps (R301-R303), the checks and delays of matrix instructions (R305-R307, R399,
R405), stationary loads, swaps and streams (R309-R312), drains (R313) and row statistics (R325, R326). -/

namespace Sys2Proof.Machine

/-! ## Operand maps (Table 11.3) -/

/-- An operand map; offsets and pitch in bytes. -/
structure OMap where
  etile : Nat
  eoff : Nat
  pitch : Nat
  stile : Nat
  sbase : Nat
  spr : Nat
  resv : Nat
  ovp : Nat
  fmt : Nat
  xv : Nat
deriving DecidableEq, Repr

def omapOf (s : State) (u i : Nat) : OMap :=
  let w := ((unitOf s u).map fun x => (tabGetD i 0 x.om).toNat).getD 0
  { etile := fld w 0 8, eoff := 16 * fld w 8 16, pitch := 16 * fld w 24 16, stile := fld w 40 8, sbase := fld w 48 16, spr := fld w 64 16,
    resv := fld w 80 18 + fld w 104 8, ovp := fld w 98 2, fmt := fld w 100 4, xv := fld w 112 16 }

/-- Tiles of an operand, element tile first (R405). -/
def OMap.tiles (m : OMap) : List Nat := if m.fmt = 11 then [m.etile, m.stile] else [m.etile]

/-- Code 0x01 of Table 16.3. -/
def tilesBad (s : State) (u : Nat) (m : OMap) : Bool := m.tiles.any fun t => unitTiles s u ≤ t
/-- Code 0x03 for an operand, and for a drain map. -/
def operandBad (m : OMap) : Bool := m.resv != 0 || m.pitch = 0 || !([1, 2, 3, 4, 5, 11].contains m.fmt)
def drainBad (m : OMap) : Bool := m.resv != 0 || m.pitch = 0 || !([0, 1, 2, 3, 4, 9].contains m.fmt) || m.ovp = 3

/-- End of the bytes of a scale word of a scale array (R152). -/
def scaleEnd (w : Nat) : Nat := 3 * (w / 2) + if w % 2 = 0 then 2 else 3

/-- Code 0x04: rows up to a last one, slices up to a last one. -/
def operandPasses (s : State) (u : Nat) (m : OMap) (last slice : Nat) : Bool :=
  tileSize (tileWord s u m.etile) < m.eoff + last * m.pitch + 64 * slice + 64 ||
  (m.fmt = 11 && tileSize (tileWord s u m.stile) < scaleEnd (m.sbase + last * m.spr + 4 * slice + 3))

/-- The operand as the array reads it, from a row on. -/
def sourceOf (s : State) (u : Nat) (m : OMap) (row0 : Nat) : Source :=
  ⟨tileAddr s u (tileWord s u m.etile) + m.eoff, m.pitch, row0, m.fmt, m.xv, tileAddr s u (tileWord s u m.stile), m.sbase, m.spr⟩

def Source.none : Source := ⟨0, 0, 0, 0, 0, 0, 0, 0⟩

/-- The slice of a row, with the address of a poisoned word it holds. -/
def readSlice (s : State) (core : Nat) (x : Source) (row slice : Nat) : List Byte × Option Nat :=
  let a := x.addr + (x.row0 + row) * x.pitch + 64 * slice
  ((coreOf s core).store.read a 64, (storeBadAt s core a 64).head?.map fun i => (a + i) / 4 * 4)

/-- The four scale words of the slice of a row (R302). -/
def readScales (s : State) (core : Nat) (x : Source) (row slice : Nat) : List Nat × Option Nat :=
  if x.fmt != 11 then ([], none)
  else
    let first := x.sbase + (x.row0 + row) * x.spr + 4 * slice
    let word (w : Nat) : Nat := fld ((coreOf s core).store.nat (x.saddr + 3 * (w / 2)) 3) (12 * (w % 2)) 12
    let from_ := 3 * (first / 2) + first % 2
    let n := scaleEnd (first + 3) - from_
    ((List.range 4).map fun i => word (first + i),
      (storeBadAt s core (x.saddr + from_) n).head?.map fun i => (x.saddr + from_ + i) / 4 * 4)

/-! ## Checks and delays -/

/-- OPLIM with the first code whose condition holds (Table 16.3). -/
def limitTrap (v : View) (l : List (Nat × Bool)) : Option Trap := (l.find? (·.2)).map fun x => precise v cOplim x.1

/-- Contract by number: 0 names the partition's default (R158, R160). -/
def contractNo (s : State) (u : Nat) : Nat :=
  let c := ((unitOf s u).map (·.contract)).getD 3
  if c = 0 then 3 else c

/-- A granule of the range is not held (code 0x02). -/
def rangeFree (s : State) (u g n : Nat) : Bool :=
  match unitOf s u with
  | some x => (List.range n).any fun j => !holdsGranule x (g + j)
  | none => true

/-- A store, atomic or `dsc` of the warp that is not complete (R306). -/
def storesOpen (s : State) (v : View) : Bool :=
  (s.reqs.any fun (_, q) => q.gid = v.gid && q.serial = v.serial && q.isStore && match q.kind with | .tdrn _ => false | _ => true) ||
  s.toStore.any fun h => h.gid = v.gid && h.serial = v.serial

def storesPre (s : State) (v : View) : Option Did := if storesOpen s v then some (.wait s (s.now + 1)) else none

/-- An instruction on record as waiting for the lease still does: its warp stands at it and has not trapped, or it is a follow-on command
still to be issued. -/
def leaseWaits (s : State) (core : Nat) (e : LeaseWait) : Bool :=
  (s.cmds.any fun (_, c) => c.phase = 5 && c.serial = e.serial && c.ipc = e.pc) ||
  match warpOf s core e.wslot with
  | some w => w.serial = e.serial && w.pc = e.pc && (match w.run.status with | .ready _ | .running => true | _ => false)
  | none => false

/-- Instructions that wait for the lease of a core and whose units are not halted. -/
def leaseLine (s : State) (core : Nat) : List LeaseWait :=
  (coreOf s core).leaseQ.filter fun e => leaseWaits s core e && !(unitOf s e.unit).any (·.halted)

/-- The place of an instruction among those that wait for the lease (R305): none when it may take it, else the state in which it waits. -/
def leaseWait (s : State) (v : View) : Option State :=
  let k := coreOf s v.core
  if k.lease = some v.unit || (k.lease.isNone && (leaseLine s v.core).head?.all fun e => e.unit = v.unit) then none
  else if k.leaseQ.any fun e => e.serial = v.serial && e.pc = v.pc && e.wslot = v.wslot then some s
  else some (modCore s v.core fun x => { x with leaseQ := x.leaseQ ++ [⟨s.now, v.wslot, v.serial, v.unit, v.pc⟩] })

def takeLease (s : State) (v : View) : State :=
  modCore s v.core fun k => { k with lease := some v.unit, leaseQ := k.leaseQ.filter fun e => e.unit != v.unit }

/-- The lease goes when every warp of its unit waits at `gbar` (R305), and what no longer waits for it is forgotten. -/
def leaseAtGbar (s : State) (core : Nat) : State :=
  let k := coreOf s core
  let s1 := if k.leaseQ.isEmpty then s else modCore s core fun x => { x with leaseQ := x.leaseQ.filter (leaseWaits s core) }
  match k.lease with
  | none => s1
  | some u =>
    let ws := k.warps.filter fun (_, w) => w.unit = u
    let at_ (w : Warp) : Bool := match w.run.status with | .barrier b _ => b = 512 | _ => false
    if !ws.isEmpty && ws.all fun (_, w) => at_ w then modCore s1 core fun x => { x with lease := none } else s1

/-- The stamp that mixes contracts (R166, R405). -/
def mixedStamp (s : State) (u : Nat) (tiles : List Nat) : Option Nat :=
  (tiles.map fun t => tileStamp (tileWord s u t)).find? fun st => st != 0 && st != contractNo s u

/-- CMIX, where a thread has it enabled (R405). -/
def mixTrap (s : State) (v : View) (tiles : List Nat) : Option Trap :=
  match mixedStamp s v.unit tiles with
  | some st => if v.act.any (trapEnabled s v 1) then some (precise v cCmix (contractNo s v.unit + 16 * st)) else none
  | none => none

/-- CMX of a masked mix. -/
def mixFlag (s : State) (v : View) (tiles : List Nat) : Nat := if (mixedStamp s v.unit tiles).isSome then fCMX else 0

/-- The delays of step 8 and the test of step 9 (Table 16.1) of an instruction that names tiles. -/
def arrayPre (tiles : State → View → List Nat) (lease : Bool) (s : State) (v : View) : Option Did :=
  if (tiles s v).any fun t => tileState s v.unit t != 2 then some (.wait s (s.now + 1))
  else
    match if lease then leaseWait s v else none with
    | some s1 => some (.wait s1 (s.now + 1))
    | none =>
      match storesPre s v with
      | some d => some d
      | none => (mixTrap s v (tiles s v)).map .trap

/-! ## Granule order (R306) and the speculative region (R323) -/

/-- First cycle for an access to some granules: after every write, and for a write after every read. -/
def granuleFree (s : State) (core : Nat) (phys : List Nat) (write : Bool) : Nat :=
  let k := coreOf s core
  let after (t : Tab Nat) (p : Nat) : Nat := match tabGet p t with | some c => c + 1 | none => 0
  maxOf (phys.map fun p => Nat.max (after k.gwr p) (if write then after k.grd p else 0))

def markGranules (s : State) (core : Nat) (phys : List Nat) (write : Bool) (at_ : Nat) : State :=
  let put (t : Tab Nat) : Tab Nat := phys.foldl (fun t p => tabPut p (Nat.max at_ (tabGetD p 0 t)) t) t
  modCore s core fun k => { k with grd := put k.grd, gwr := if write then put k.gwr else k.gwr }

/-- Physical granule that a read of a logical one goes to: a touched target reads its shadow (R323). -/
def readPhys (s : State) (v : View) (g : Nat) : Nat :=
  let gm := ((unitOf s v.unit).map (·.gmap)).getD []
  match regionOf s v.gid with
  | some r => if r.tbase ≤ g && r.touched.contains (g - r.tbase) then tabGetD (r.sbase + (g - r.tbase)) 0 gm else tabGetD g 0 gm
  | none => tabGetD g 0 gm

/-- Physical granule read as old and physical granule written for a write to a logical one (R57, R323). -/
def writePhys (s : State) (v : View) (g : Nat) : Nat × Nat :=
  let gm := ((unitOf s v.unit).map (·.gmap)).getD []
  let p := tabGetD g 0 gm
  match regionOf s v.gid with
  | some r =>
    if r.tbase ≤ g && g < r.tbase + r.width then
      let q := tabGetD (r.sbase + (g - r.tbase)) 0 gm
      (if r.touched.contains (g - r.tbase) then q else p, q)
    else (p, p)
  | none => (p, p)

/-- Writes to a range touch the shadows of its targets. -/
def touchRange (s : State) (v : View) (g n : Nat) : State :=
  match regionOf s v.gid with
  | none => s
  | some r =>
    let offs := (List.range n).filterMap fun j =>
      if r.tbase ≤ g + j && g + j < r.tbase + r.width && !r.touched.contains (g + j - r.tbase) then some (g + j - r.tbase) else none
    modWarp s v.core v.wslot fun w => { w with spec := w.spec.map fun x => { x with touched := x.touched ++ offs } }

/-- The granules of an operation with what it writes. -/
def pairsOf (s : State) (v : View) (g n : Nat) : List (Nat × Nat) := (List.range n).map fun j => writePhys s v (g + j)

/-- First cycle in which some pairs may be written. -/
def pairsFree (s : State) (core : Nat) (l : List (Nat × Nat)) : Nat :=
  Nat.max (granuleFree s core (l.map (·.1)) false) (granuleFree s core (l.map (·.2)) true)

/-- The granules are written until a cycle. -/
def markPairs (s : State) (core : Nat) (l : List (Nat × Nat)) (at_ : Nat) : State :=
  markGranules (markGranules s core (l.map (·.1)) false at_) core (l.map (·.2)) true at_

/-! ## Work under way -/

/-- Work with the parts every kind shares. -/
def MatOp.mk' (s : State) (v : View) (kind start due : Nat) : MatOp :=
  { kind := kind, gid := v.gid, serial := v.serial, lanes := maskOf v.act, ipc := v.pc, core := v.core, unit := v.unit,
    gen := unitGen s v.unit, contract := contractNo s v.unit, start := start, due := due, f := 1, src := Source.none, slice := 0, base := 0,
    count := 0, tiles := [], readEnd := 0, blocks := [], rows := [], scales := [], plane := Plane.reset, lines := [], bad := none,
    flags := 0, parent := none, op := 0, dreg := 0, eps := [], step := 0, ns := 0, srcB := Source.none, quanta := [], waited := 0,
    after := 0, floor := 0, asks := [], plan := [], made := [], cid := 0, dest := 0, red := false, stop := none }

def modMat (s : State) (id : Nat) (f : MatOp → MatOp) : State := { s with matOps := tabMod id f s.matOps }

/-- Work is sent under a request that counts in a slot; the step of its end is to come (R178). -/
def sendMat (s : State) (v : View) (slot : Nat) (i : Instr) (m : MatOp) : State :=
  let id := s.fresh
  let s1 := sendReq s (Req.mk' s v (some slot) (.matrix 0 []) m.due) i
  { s1 with matOps := tabPut id m s1.matOps }

/-- The deferred trap of poisoned operands (R430). -/
def matPoison (m : MatOp) (aux : Nat) : Option Trap :=
  m.bad.map fun a =>
    { word := causeWord cPoison true false, aux := BitVec.ofNat 32 aux, ret := 0, ipc := m.ipc, faddr := BitVec.ofNat 64 a, lanes := m.lanes }

/-- Work ends: its slot returns with flags and lane results. A part of a lehr step only ends. -/
def endMat (s : State) (id : Nat) (m : MatOp) (flags : Nat) (items : List (Nat × Nat × Word)) : State :=
  let s1 := { s with matOps := tabDel id s.matOps }
  match m.parent with
  | some _ => s1
  | none =>
    returnReq (modReq s1 id fun q =>
      { q with kind := .matrix (flagBits (m.flags ||| if m.bad.isSome then 0 else flags)) items
               fault := match m.stop with | some t => some t | none => matPoison m 0 }) id

/-- The work of a step's subject, once it is due. -/
def matDue (s : State) (kinds : List Nat) : Option (Nat × MatOp) :=
  match s.subj with
  | .of [id] =>
    match tabGet id s.matOps with
    | some m => if kinds.contains m.kind && m.due ≤ s.now then some (id, m) else none
    | none => none
  | _ => none

/-! ## Stationary loads (R309) -/

/-- A meaning of the array that a warp or a copy engine issues (R287): operand traps, tiles to be ready, whether it takes the
lease, the effect, and the slot. -/
structure ArrayOp where
  trap : State → View → Option Trap
  tiles : State → View → List Nat
  lease : Bool
  slot : Nat
  go : State → View → State

def ArrayOp.pre (x : ArrayOp) : State → View → Option Did := arrayPre x.tiles x.lease

/-- An instruction whose issue waits for tiles to be ready acquires what their fills released (R132, R143). -/
def onTiles (tiles : State → View → List Nat) (go : State → View → State) (s : State) (v : View) : State :=
  go ((tiles s v).foldl (fun a t => acquireLanes a v (obTile v.unit t) false) s) v

def ArrayOp.act (x : ArrayOp) : State → View → State := onTiles x.tiles x.go

/-- An operand of an instruction: the map in the low bits of a uniform register. -/
def mapAt (s : State) (v : View) (k lo : Nat) : OMap := omapOf s v.unit (fld (readK s v.unit k).toNat lo 4)

def mldTrap (w a b : Nat) (s : State) (v : View) : Option Trap :=
  let m := mapAt s v a 0
  limitTrap v [(0x01, tilesBad s v.unit m), (0x03, operandBad m),
    (0x04, operandPasses s v.unit m (fld (readK s v.unit b).toNat 0 32 + 32 * 2 ^ w - 1) (fld (readK s v.unit a).toNat 32 32)),
    (0x06, speedOf (contractNo s v.unit) m.fmt = 0)]

def startMld (l w g a b : Nat) (s : State) (v : View) : State :=
  let m := mapAt s v a 0
  let k := coreOf s v.core
  let n := 2 ^ w
  let start := Nat.max s.now (Nat.max k.mldEnd k.swapAt)
  let sc := if m.fmt = 11 then n else 0
  let last := start + sc + 8 * n
  let s1 := modCore (takeLease s v) v.core fun x => { x with mldEnd := last + 12, fmtSh := m.fmt }
  sendMat s1 v l .stationaryLoadComplete
    { MatOp.mk' s v 0 start (last + 11) with
      f := sc, src := sourceOf s v.unit m (fld (readK s v.unit b).toNat 0 32), slice := fld (readK s v.unit a).toNat 32 32
      base := 32 * g, count := 32 * n, tiles := m.tiles, readEnd := last - 1, flags := mixFlag s v m.tiles }

def mldOp (l w g b a : Nat) : ArrayOp :=
  ⟨mldTrap w a b, fun s v => (mapAt s v a 0).tiles, true, l, startMld l w g a b⟩

def execMld (l w : BitVec 2) (g : BitVec 3) (b a : BitVec 6) (sw : BitVec 1) (s : State) : Host.Outcome State Fault Refusal :=
  let x := mldOp l.toNat w.toNat g.toNat b.toNat a.toNat
  issuePre (.mld l w g b a sw) s x.trap x.pre (plain x.act)

/-- Columns that a load puts into a plane. -/
def loadColumns (p : Plane) (m : MatOp) : Plane :=
  let cols := m.rows.mapIdx fun j b => (m.base + j, b)
  let scs := (m.scales.mapIdx fun j l => l.mapIdx fun i w => (4 * (m.base + j) + i, w)).flatten
  { data := cols.foldl (fun d (c, b) => d.write (64 * c) b) p.data
    scales := scs.foldl (fun t (i, w) => tabSet 0 i (BitVec.ofNat 12 w) t) p.scales
    fmt := m.src.fmt, xv := BitVec.ofNat 16 m.src.xv }

def execStationaryLoadComplete (s : State) : Host.Outcome State Fault Refusal :=
  match matDue s [0] with
  | none => .next s
  | some (id, m) =>
    let s1 := if m.bad.isSome && m.parent.isNone then s else modPlanes s m.core m.unit m.gen fun (a, h) => (a, loadColumns h m)
    .next (endMat s1 id m 0 [])

/-! ## Swaps (R310) -/

/-- The swap cycle of a swap issued now. -/
def swapCycle (s : State) (core : Nat) : Nat :=
  let k := coreOf s core
  Nat.max (s.now + 1) (Nat.max k.mldEnd k.entryAt)

def startMswp (l : Nat) (s : State) (v : View) : State :=
  let at_ := swapCycle s v.core
  let s1 := modCore (takeLease s v) v.core fun x => { x with swapAt := at_, fmtAct := x.fmtSh, fmtSh := x.fmtAct }
  sendMat s1 v l .planeSwap (MatOp.mk' s v 1 at_ at_)

def mswpOp (l : Nat) : ArrayOp := ⟨noTrap, fun _ _ => [], true, l, startMswp l⟩

def execMswp (l : BitVec 2) (sw : BitVec 1) (s : State) : Host.Outcome State Fault Refusal :=
  let x := mswpOp l.toNat
  issuePre (.mswp l sw) s x.trap x.pre (plain x.act)

/-- `mswp.rel` of a unit without the lease only returns its slot (R401). -/
def startMswpRel (l : Nat) (s : State) (v : View) : State :=
  if (coreOf s v.core).lease = some v.unit then
    let at_ := swapCycle s v.core
    sendMat s v l .planeSwap (MatOp.mk' s v 2 at_ at_)
  else sendMat s v l .planeSwap (MatOp.mk' s v 11 (s.now + 1) (s.now + 1))

def mswpRelOp (l : Nat) : ArrayOp := ⟨noTrap, fun _ _ => [], false, l, startMswpRel l⟩

def execMswpRel (l : BitVec 2) (sw : BitVec 1) (s : State) : Host.Outcome State Fault Refusal :=
  let x := mswpRelOp l.toNat
  issuePre (.mswpRel l sw) s x.trap x.pre (plain x.act)

/-! ## Streams (R311, R312) -/

/-- First cycle in which a row with stream factor `f` may enter after the rows already under way. -/
def entryFree (k : Core) (f : Nat) : Nat := if k.entryAt = 0 then 0 else k.entryAt - 1 + f

/-- Stream factor of a pair of formats under the contract of a unit; the slower decides. -/
def pairSpeed (s : State) (u fmtW fmtA : Nat) : Nat :=
  Nat.min (speedOf (contractNo s u) fmtW) (speedOf (contractNo s u) fmtA)

def mstTrap (w g a b : Nat) (s : State) (v : View) : Option Trap :=
  let m := mapAt s v a 0
  let ka := (readK s v.unit a).toNat
  let fmtW := (coreOf s v.core).fmtAct
  limitTrap v [(0x01, tilesBad s v.unit m), (0x02, rangeFree s v.unit g (2 ^ w)),
    (0x03, operandBad m || !pairAllowed fmtW m.fmt),
    (0x04, operandPasses s v.unit m (fld (readK s v.unit b).toNat 0 32 + fld ka 8 5) (fld ka 32 32)),
    (0x06, pairSpeed s v.unit fmtW m.fmt = 0)]

def startMst (l w g a b : Nat) (s : State) (v : View) : State :=
  let m := mapAt s v a 0
  let ka := (readK s v.unit a).toNat
  let k := coreOf s v.core
  let f := factorOf (pairSpeed s v.unit k.fmtAct m.fmt)
  let pairs := pairsOf s v g (2 ^ w)
  let e := Nat.max s.now (Nat.max k.swapAt (Nat.max (entryFree k f) (pairsFree s v.core pairs - 12)))
  let last := e + fld ka 8 5 * f
  let s1 := markPairs (modCore (takeLease s v) v.core fun x => { x with entryAt := last + 1 }) v.core pairs (last + 12)
  sendMat (touchRange s1 v g (2 ^ w)) v l .streamComplete
    { MatOp.mk' s v 3 e (last + 12) with
      f := f, src := sourceOf s v.unit m (fld (readK s v.unit b).toNat 0 32), slice := fld ka 32 32, count := fld ka 8 5 + 1
      tiles := m.tiles, readEnd := last, blocks := [pairs], flags := mixFlag s v m.tiles }

def mstOp (l w g b a : Nat) : ArrayOp :=
  ⟨mstTrap w g a b, fun s v => (mapAt s v a 0).tiles, true, l, startMst l w g a b⟩

def execMst (l w : BitVec 2) (g b a : BitVec 6) (sw : BitVec 1) (s : State) : Host.Outcome State Fault Refusal :=
  let x := mstOp l.toNat w.toNat g.toNat b.toNat a.toNat
  issuePre (.mst l w g b a sw) s x.trap x.pre (plain x.act)

/-- A plane column as values. -/
def columnNums (p : Plane) (subn c : Nat) : Flagged (List Num) :=
  sliceNums p.fmt p.xv.toNat subn (p.data.read (64 * c) 64) ((List.range 4).map fun i => (tabGetD (4 * c + i) 0 p.scales).toNat)

/-- 32 accumulators of a row updated by one K row, as FP32. -/
def floatRow (c : Nat) (a : Flagged (List Num)) (cols : List (Flagged (List Num))) (old : List Nat) : Flagged (List Nat) :=
  let r := List.zipWith (fun x w => rowUpdate c x a.1 w.1) old cols
  (r.map (·.1), (cols.foldl (fun n w => n ||| w.2) a.2) ||| r.foldl (fun n w => n ||| w.2) 0)

def intRow (a : List Int) (cols : List (List Int)) (old : List Nat) : List Nat :=
  List.zipWith (fun x w => rowUpdateInt x a w) old cols

/-- A granule after a row of a stream has been added: columns 32 j to 32 j + 31 of the plane. -/
def streamGranule (m : MatOp) (img : Memory) (j r : Nat) : Memory × Nat :=
  let at_ := 128 * (r % 32)
  let row := nth m.rows r []
  let old := (List.range 32).map fun c => img.nat (at_ + 4 * c) 4
  let (new, fl) :=
    if m.src.fmt = 5 then
      (intRow (sliceInts row) ((List.range 32).map fun c => sliceInts (m.plane.data.read (64 * (32 * j + c)) 64)) old, 0)
    else
      let subn := cSubn m.contract
      floatRow m.contract (sliceNums m.src.fmt m.src.xv subn row (nth m.scales r []))
        ((List.range 32).map fun c => columnNums m.plane subn (32 * j + c)) old
  (img.write at_ (new.flatMap (bytesOf 4)), fl)

/-- A row of a stream is added to its granules (R312); from then on what is read as old is what is written. -/
def addRow (s : State) (m : MatOp) (r : Nat) : State × MatOp :=
  let (s1, fl) := ((nth m.blocks (r / 32) []).mapIdx fun j p => (j, p)).foldl (fun (t, f0) (j, (old, new)) =>
    let (img, f1) := streamGranule m (granuleOf t m.core m.unit m.gen old) j r
    (moveGranule t m.core m.unit m.gen old new img fun a => a / 128 = r % 32, f0 ||| f1)) (s, 0)
  (s1, { m with flags := m.flags ||| fl
                blocks := m.blocks.mapIdx fun b l => if b = r / 32 then l.map fun (_, new) => (new, new) else l })

/-- Poisoned words among the accumulators a stream reads: rows from `r0` on of a granule. -/
def granuleBad (s : State) (m : MatOp) (rows : Nat) : Option Nat :=
  let bad := (coreOf s m.core).accPoison
  if bad.isEmpty then none
  else (m.blocks.mapIdx fun b l => (b, l)).findSome? fun (b, l) =>
    l.findSome? fun (old, _) => bad.find? fun a => 4096 * old ≤ a && a < 4096 * old + 128 * Nat.min 32 (rows - 32 * b)

/-- A stream's last row is written (R312), a part of a lehr step among them. -/
def finishStream (s : State) (id : Nat) (m0 : MatOp) : State :=
  let (s1, m) := if m0.bad.isSome then (s, m0) else addRow s m0 (m0.count - 1)
  match m.parent with
  | none => endMat s1 id m 0 []
  | some p => modMat (endMat s1 id m 0 []) p fun x => { x with flags := x.flags ||| m.flags }

/-! ## Drains (R313) -/

def drainSize (fmt : Nat) : Nat := if fmt = 0 || fmt = 9 then 4 else if fmt = 1 || fmt = 2 then 2 else 1

def mdrTrap (w g a b : Nat) (s : State) (v : View) : Option Trap :=
  let m := mapAt s v a 0
  let kb := (readK s v.unit b).toNat
  limitTrap v [(0x01, unitTiles s v.unit ≤ m.etile), (0x02, rangeFree s v.unit g (2 ^ w)), (0x03, drainBad m),
    (0x04, tileSize (tileWord s v.unit m.etile) <
      m.eoff + (fld kb 0 32 + 31) * m.pitch + (fld kb 32 32 + 32 * 2 ^ w) * drainSize m.fmt)]

def startMdr (l w g a b : Nat) (s : State) (v : View) : State :=
  let m := mapAt s v a 0
  let kb := (readK s v.unit b).toNat
  let k := coreOf s v.core
  let phys := (List.range (2 ^ w)).map fun j => readPhys s v (g + j)
  let start := Nat.max s.now (Nat.max (granuleFree s v.core phys false) k.drainEnd)
  let due := start + 11 + 8 * 2 ^ w * drainSize m.fmt
  let s1 := markGranules (modCore s v.core fun x => { x with drainEnd := due + 1 }) v.core phys false due
  sendMat s1 v l .drainComplete
    { MatOp.mk' s v 4 start due with
      src := { sourceOf s v.unit m (fld kb 0 32) with xv := m.ovp }, base := fld kb 32 32, count := 2 ^ w
      blocks := [phys.map fun p => (p, p)], flags := mixFlag s v [m.etile] }

def execMdr (l w : BitVec 2) (g b a : BitVec 6) (sw : BitVec 1) (s : State) : Host.Outcome State Fault Refusal :=
  let tiles (s : State) (v : View) : List Nat := [(mapAt s v a.toNat 0).etile]
  issuePre (.mdr l w g b a sw) s (mdrTrap w.toNat g.toNat a.toNat b.toNat) (arrayPre tiles false)
    (plain (onTiles tiles (startMdr l.toNat w.toNat g.toNat a.toNat b.toNat)))

/-- A value of a granule in the destination's format (R313, R256). -/
def drainValue (m : MatOp) (w : Nat) : Flagged Nat :=
  if m.src.fmt = 0 || m.src.fmt = 9 then (w, 0)
  else (cvtLane m.src.fmt 0 m.src.xv 0 (cSubn m.contract) 0 w).getD (0, 0)

/-- The drained values of one row of the range, as bytes with their flags. -/
def drainRow (s : State) (m : MatOp) (r : Nat) : List Byte × Nat :=
  let words := (m.blocks.flatten.map fun (p, _) =>
    let img := granuleOf s m.core m.unit m.gen p
    (List.range 32).map fun c => img.nat (128 * r + 4 * c) 4).flatten
  let vals := words.map (drainValue m)
  (vals.flatMap fun x => bytesOf (drainSize m.src.fmt) x.1, vals.foldl (fun n x => n ||| x.2) 0)

def finishDrain (s : State) (id : Nat) (m0 : MatOp) : State :=
  let m := { m0 with bad := granuleBad s m0 32 }
  if m.bad.isSome then endMat s id m 0 []
  else
    let (s1, fl) := (List.range 32).foldl (fun (a, fl) r =>
      let (b, f1) := drainRow s m r
      (storeWrite a m.core (m.src.addr + (m.src.row0 + r) * m.src.pitch + m.base * drainSize m.src.fmt) b false, fl ||| f1)) (s, 0)
    endMat s1 id m fl []

def execDrainComplete (s : State) : Host.Outcome State Fault Refusal :=
  match matDue s [4] with
  | none => .next s
  | some (id, m) => .next (finishDrain s id m)

/-! ## Row statistics (R325, R326) -/

/-- Row words of a source: 32 for a granule, SIZE + 1 for a tile. -/
def statWidth (s : State) (v : View) (c i : Nat) : Nat := if c = 1 then 32 else tileSize (tileWord s v.unit i) / 128

def statTrap (c i : Nat) (s : State) (v : View) : Option Trap :=
  limitTrap v [(0x01, c = 0 && unitTiles s v.unit ≤ i), (0x02, c = 1 && rangeFree s v.unit i 1),
    (0x06, speedOf (contractNo s v.unit) 0 = 0)]

def statTiles (c i : Nat) : State → View → List Nat := fun _ _ => if c = 0 then [i] else []

/-- Latency of Table 11.5. -/
def statLatency (op con n f : Nat) : Nat :=
  if op ≤ 1 then 14 + n * f else if op = 2 then (if cVar con = 0 then 14 + n * f else 14 + 2 * n * f) else 18 + 3 * n * f

def startStat (op l c i d : Nat) (s : State) (v : View) : State :=
  let con := contractNo s v.unit
  let n := statWidth s v c i
  let f := factorOf (speedOf con 0)
  let writes := 3 ≤ op && c = 1
  let pair : List (Nat × Nat) :=
    if c = 0 then [] else if writes then [writePhys s v i] else [(readPhys s v i, readPhys s v i)]
  let start := Nat.max s.now (if writes then pairsFree s v.core pair else granuleFree s v.core (pair.map (·.1)) false)
  let due := start + statLatency op con n f
  let s1 := if writes then touchRange (markPairs s v.core pair due) v i 1 else markGranules s v.core (pair.map (·.1)) false due
  sendMat s1 v l .rowStatComplete
    { MatOp.mk' s v 5 start due with
      f := f, src := { Source.none with addr := if c = 0 then tileAddr s v.unit (tileWord s v.unit i) else 0, pitch := 4 * n }
      base := c, count := n, tiles := if c = 0 then [i] else [], readEnd := due, blocks := [pair], op := op, dreg := d
      eps := (List.range 32).map fun x => (x, (readX s v x d).toNat), flags := mixFlag s v (if c = 0 then [i] else []) }

/-- One row statistic (Table 11.5). -/
def rowStatOp (i : Instr) (op l id c d : Nat) (s : State) : Host.Outcome State Fault Refusal :=
  issuePre i s (statTrap c id) (arrayPre (statTiles c id) false) (plain (onTiles (statTiles c id) (startStat op l c id d)))

def execRmax (l : BitVec 2) (i : BitVec 8) (c : BitVec 1) (d : BitVec 7) (sw : BitVec 1) (s : State) : Host.Outcome State Fault Refusal :=
  rowStatOp (.rmax l i c d sw) 0 l.toNat i.toNat c.toNat d.toNat s

def execRsum (l : BitVec 2) (i : BitVec 8) (c : BitVec 1) (d : BitVec 7) (sw : BitVec 1) (s : State) : Host.Outcome State Fault Refusal :=
  rowStatOp (.rsum l i c d sw) 1 l.toNat i.toNat c.toNat d.toNat s

def execRvar (l : BitVec 2) (i : BitVec 8) (c : BitVec 1) (d : BitVec 7) (sw : BitVec 1) (s : State) : Host.Outcome State Fault Refusal :=
  rowStatOp (.rvar l i c d sw) 2 l.toNat i.toNat c.toNat d.toNat s

def execRsmx (l : BitVec 2) (i : BitVec 8) (c : BitVec 1) (d : BitVec 7) (sw : BitVec 1) (s : State) : Host.Outcome State Fault Refusal :=
  rowStatOp (.rsmx l i c d sw) 3 l.toNat i.toNat c.toNat d.toNat s

def execRnorm (l : BitVec 2) (i : BitVec 8) (c : BitVec 1) (d : BitVec 7) (sw : BitVec 1) (s : State) : Host.Outcome State Fault Refusal :=
  rowStatOp (.rnorm l i c d sw) 4 l.toNat i.toNat c.toNat d.toNat s

/-- The results of a row statistic: lane, word, row written, flags. -/
def statResults (m : MatOp) : List (Nat × Nat × Option (List Nat) × Nat) :=
  m.rows.mapIdx fun r b =>
    let words := (List.range m.count).map fun i => natOf ((b.drop (4 * i)).take 4)
    (r, rowStat m.op m.contract (tabGetD r 0 m.eps) words)

/-! ## What the array does within a cycle -/

/-- The first of two findings. -/
def orBad (a b : Option Nat) : Option Nat := match a with | some x => some x | none => b

/-- Reads of a load in this cycle: scale words of 32 columns, or elements of 4. -/
def actLoad (s : State) (m : MatOp) : MatOp :=
  if s.now < m.start then m
  else
    let t := s.now - m.start
    let rows (lo n : Nat) : List Nat := (List.range n).map (lo + ·)
    if t < m.f then
      let l := (rows (32 * t) 32).map fun j => readScales s m.core m.src j m.slice
      { m with scales := m.scales ++ l.map (·.1), bad := orBad m.bad (l.findSome? (·.2)) }
    else if t - m.f < m.count / 4 then
      let l := (rows (4 * (t - m.f)) 4).map fun j => readSlice s m.core m.src j m.slice
      { m with rows := m.rows ++ l.map (·.1), bad := orBad m.bad (l.findSome? (·.2)) }
    else m

/-- The poisoned words that a stream meets: looked for as its first row enters, so that nothing is written when there is one (R430). A word
of a later row that becomes poisoned in between is found as that row enters, and no row is written after that: DESIGN CHOICE (log 95). -/
def streamBad (s : State) (m : MatOp) : Option Nat :=
  if (coreOf s m.core).storePoison.isEmpty then granuleBad s m m.count
  else orBad (granuleBad s m m.count)
    ((List.range m.count).findSome? fun r => orBad (readSlice s m.core m.src r m.slice).2 (readScales s m.core m.src r m.slice).2)

/-- The row of a stream that enters in this cycle; the plane is the one active then (R304). -/
def enterRow (s : State) (m : MatOp) : MatOp :=
  if s.now < m.start || (s.now - m.start) % m.f != 0 || m.count ≤ (s.now - m.start) / m.f then m
  else
    let r := (s.now - m.start) / m.f
    let (b, x) := readSlice s m.core m.src r m.slice
    let (sc, y) := readScales s m.core m.src r m.slice
    { m with rows := m.rows ++ [b], scales := m.scales ++ [sc]
             plane := if r = 0 then (planesOf s m.core m.unit m.gen).1 else m.plane
             bad := orBad m.bad (orBad (if r = 0 && m.parent.isNone then streamBad s m else none) (orBad x y)) }

/-- What a stream does in a cycle: a row enters, and one that entered 12 cycles before is written (R312). A part of a lehr step writes all its
rows (R389). -/
def actStream (s : State) (m0 : MatOp) : State × MatOp :=
  let m := enterRow s m0
  let r := (s.now - m.start - 12) / m.f
  if s.now < m.start + 12 || (s.now - m.start - 12) % m.f != 0 || m.count ≤ r || (m.bad.isSome && m.parent.isNone) then (s, m)
  else addRow s m r

/-- The results of a row statistic that writes its rows, once they are read: column i of 32 rows is written in the cycle that lies
(n − 1 − i) f before its end (R326): DEDUCED (log 110). -/
def actColumn (s : State) (m : MatOp) : State × MatOp :=
  if m.op < 3 || m.bad.isSome || m.rows.isEmpty || m.due < s.now || (m.due - s.now) % m.f != 0 || m.count ≤ (m.due - s.now) / m.f then (s, m)
  else
    let i := m.count - 1 - (m.due - s.now) / m.f
    let word (r : Nat) : List Byte := bytesOf 4 (nth (nth m.scales r []) i 0)
    let mine := (List.range 32).filter fun r => inMask m.lanes r && i < (nth m.scales r []).length
    if m.base = 1 then
      match m.blocks.flatten with
      | (old, new) :: _ =>
        (moveGranule s m.core m.unit m.gen old new
          (mine.foldl (fun x r => x.write (128 * r + 4 * i) (word r)) (granuleOf s m.core m.unit m.gen old))
          fun a => mine.contains (a / 128) && a % 128 / 4 = i, { m with blocks := [[(new, new)]] })
      | [] => (s, m)
    else (mine.foldl (fun a r => storeWrite a m.core (m.src.addr + r * m.src.pitch + 4 * i) (word r) false) s, m)

/-- The rows of a statistic, read as it starts. -/
def readStat (s : State) (m : MatOp) : MatOp :=
  if s.now != m.start then m
  else
    let row (r : Nat) : List Byte × Option Nat :=
      if m.base = 1 then
        let p := (m.blocks.flatten.headD (0, 0)).1
        ((granuleOf s m.core m.unit m.gen p).read (128 * r) 128, none)
      else
        let a := m.src.addr + r * m.src.pitch
        ((coreOf s m.core).store.read a m.src.pitch, (storeBadAt s m.core a m.src.pitch).head?.map fun i => (a + i) / 4 * 4)
    let l := (List.range 32).map row
    let x := { m with rows := l.map (·.1), bad := orBad (if m.base = 1 then granuleBad s m 32 else none) (l.findSome? (·.2)) }
    if 3 ≤ m.op then { x with scales := (statResults x).map fun y => y.2.2.1.getD [] } else x

/-- What a row statistic does in a cycle. -/
def actStat (s : State) (m : MatOp) : State × MatOp := actColumn s (readStat s m)

def finishStat (s : State) (id : Nat) (m : MatOp) : State :=
  if m.bad.isSome then endMat s id m 0 []
  else
    let res := statResults m
    let mine := res.filter fun x => inMask m.lanes x.1
    endMat (actColumn s m).1 id m (res.foldl (fun n x => n ||| x.2.2.2) 0) (mine.map fun (r, w, _, _) => (r, m.dreg, BitVec.ofNat 32 w))

def execRowStatComplete (s : State) : Host.Outcome State Fault Refusal :=
  match matDue s [5] with
  | none => .next s
  | some (id, m) => .next (finishStat s id m)

end Sys2Proof.Machine
end

