-- ==== Sys2Proof/Machine/Fetch.lean ====
section
/-! DEFINITION. Translation walks and page requests (R333, R416, R419-R422), instruction fetch (R113-R118, R424, R443-R445) and
`pfi` (R115). -/

namespace Sys2Proof.Machine

/-! ## Instruction caches (R113) -/

/-- The instruction cache of a group: a core, or a kindling core as 1,152 + cluster × 16 + kindling core. -/
def cacheOf (g : Gid) : Nat :=
  match g with
  | .warp c _ => c
  | .kindle cl k => 1152 + cl * 16 + k % 16

def icacheGet (s : State) (cache : Nat) : List ILine :=
  if cache < 1152 then (coreOf s cache).icache
  else tabGetD ((cache - 1152) % 16) [] (poolOf s ((cache - 1152) / 16)).icache

def icacheSet (s : State) (cache : Nat) (l : List ILine) : State :=
  if cache < 1152 then modCore s cache fun k => { k with icache := l }
  else modPool s ((cache - 1152) / 16) fun p => { p with icache := tabPut ((cache - 1152) % 16) l p.icache }

/-- Sets and ways of a cache. -/
def icacheShape (cache : Nat) : Nat × Nat := if cache < 1152 then (128, 4) else (16, 2)

def dieOfCache (cache : Nat) : Nat := if cache < 1152 then dieOf cache else (cache - 1152) / 16 / 12

/-- A line by its virtual address, tagged with the context's generation. -/
def icacheFind (s : State) (cache gen va : Nat) : Option ILine :=
  (icacheGet s cache).find? fun x => x.gen = gen && x.va = va / 128 * 128 % 2 ^ 48

/-- A demand hit makes the line most recently used. -/
def icacheUse (s : State) (cache gen va : Nat) : State :=
  let (n, s1) := freshNat s
  icacheSet s1 cache ((icacheGet s1 cache).map fun x =>
    if x.gen = gen && x.va = va / 128 * 128 % 2 ^ 48 then { x with used := n } else x)

/-- A line is placed over the least recently used one of its set. -/
def icachePut (s : State) (cache : Nat) (x : ILine) : State :=
  let (sets, ways) := icacheShape cache
  let others := (icacheGet s cache).filter fun y => !(y.gen = x.gen && y.va = x.va)
  let set := others.filter fun y => y.va / 128 % sets = x.va / 128 % sets
  let kept := if set.length < ways then others
    else match minBy (·.used) set with
      | some v => others.filter fun y => !(y.gen = v.gen && y.va = v.va)
      | none => others
  icacheSet s cache (kept ++ [x])

/-- F of R113, uncontended. -/
def fillCycles (s : State) (p : Place) : Nat :=
  match p with
  | .dev a => if l2Has s (a / 128) then Config.latFetch
    else Config.latFetch + ((if Config.rowOpen (a / 128) s.now then Config.latOpen else Config.latClosed) - Config.latSame)
  | .remote n a =>
    2 * Config.latHop * hopsTo s n +
      match Config.remoteLine n (a / 128) s.now % 3 with
      | 0 => Config.latFetch
      | 1 => 490
      | _ => 570
  | .host .. => Config.latFetch

/-- A fill of a line under way in a cache. -/
def fillOf (s : State) (cache gen va : Nat) : Option (Nat × Fill) :=
  s.fills.find? fun (_, f) => f.cache = cache && f.gen = gen && f.va = va / 128 * 128 % 2 ^ 48

/-- The place of a fill. -/
def Fill.place (s : State) (f : Fill) : Place := placeOf s f.pa

/-- A fill is requested (R113): it lands F cycles later, with the rounds its request loses; one that is held at the memory controller, from when
it goes on (R29, R358). -/
def requestFill (s : State) (cache gen part va : Nat) (x : Xlate) : State :=
  let line := va / 128 * 128 % 2 ^ 48
  let p := xlPlace s x line
  let (lost, s1) := takeLost s
  let (id, s2) := freshNat s1
  let ends := s.now + fillCycles s p + Config.round * lost
  let pa := match p with
    | .dev a => s.node * 2 ^ 50 + a
    | .remote n a => n * 2 ^ 50 + a
    | .host _ a => a
  if heldAt s p then { s2 with fills := tabPut id ⟨cache, gen, line, pa, x.host, 0, s.now, true⟩ s2.fills }
  else
    schedule { touchPlace s2 gen part p 0 with fills := tabPut id ⟨cache, gen, line, pa, x.host, ends, s.now, false⟩ s2.fills } ends
      .icacheFillLand (.of [id])

/-- Fills that were held go on, now that their places can be reached. -/
def releaseFills (s : State) : State :=
  (s.fills.filter fun (_, f) => f.held && !heldAt s (f.place s)).foldl (fun a (id, f) =>
    let ends := s.now + fillCycles s (f.place s)
    schedule { a with fills := tabPut id { f with held := false, ends := ends } a.fills } ends .icacheFillLand (.of [id])) s

/-- A fill lands (R443). -/
def landFill (s : State) (id : Nat) : State :=
  match tabGet id s.fills with
  | none => s
  | some f =>
    if s.now < f.ends || f.held then s
    else
      let (n, s1) := freshNat { s with fills := tabDel id s.fills }
      let p := placeOf s1 f.pa
      icachePut s1 f.cache ⟨f.gen, f.va, readAs s1 f.gen p 128, poisonedPlace s1 p 128, n⟩

def execIcacheFillLand (s : State) : Host.Outcome State Fault Refusal :=
  match s.subj with
  | .of [id] => .next (landFill s id)
  | _ => .next s

/-! ## Demand fetch (R114, R424, R443, R444) -/

/-- What stands between a group and a line of its code. -/
inductive LineState where
  | present (bytes : List Byte)
  /-- a fill or a walk ends in the cycle -/
  | wait (until_ : Nat)
  /-- a fill is to be requested under the translation -/
  | request (x : Xlate)
  /-- a walk is to start -/
  | walk
  /-- FETCH with the reason -/
  | fail (reason : Nat)
deriving DecidableEq, Repr

/-- The demand walk of a group for an address. -/
def demandWalk (s : State) (g : Gid) (gen va : Nat) : Option (Nat × Walk) :=
  s.walks.find? fun (_, w) => w.why = 1 && w.gid = g && w.gen = gen && pageNo w.va = pageNo va

/-- The reason of a fetch fault under a translation (R424): 1 no execute permission, host memory or a key not granted; 0 a place
nothing reaches. -/
def fetchCause (s : State) (x : Xlate) (va : Nat) : Option Nat :=
  if x.host || !x.x then some 1
  else
    match accessCause s x va false false with
    | none => none
    | some c => some (if c = cAccess then 0 else 1)

/-- What a fetch of the line of an address meets (R113, R443, R444); it is translated at every address, also below 0x0400_0000, as the spec's own
programs have it (19, 12): DEDUCED (log 101). -/
def lineState (s : State) (g : Gid) (gen va : Nat) : LineState :=
  match icacheFind s (cacheOf g) gen va with
  | some x => if x.bad then .fail 3 else .present x.bytes
  | none =>
    match fillOf s (cacheOf g) gen va with
    | some (_, f) => .wait (if f.held then s.now + 1 else f.ends)
    | none =>
      match tlbFind (tlbOf s g) gen va with
      | some x => match fetchCause s x va with | some r => .fail r | none => .request x
      | none =>
        match demandWalk s g gen va with
        | some (_, w) => if s.now < w.ends then .wait w.ends else .fail w.reason
        | none => .walk

/-- The bytes at the program counter that the group's cache gives: the instruction and what follows it in its lines. -/
def heldBytes (s : State) (g : Gid) (gen va n : Nat) : List (Option Byte) :=
  (List.range n).map fun i =>
    match lineState s g gen (va + i) with
    | .present b => b[(va + i) % 128]?
    | _ => none

/-- Bytes of memory as an instruction's first halfword, to tell its length before its line is there: both lines of a straddling instruction
are requested in one cycle (R114). -/
def peekLong (s : State) (gen va : Nat) : Bool :=
  match vread s gen va 2 with
  | .ok b => natOf b % 2 == 1
  | .error _ => false

/-- Address of the second halfword of an instruction as it is fetched (R117). -/
def secondHalf (s : State) (v : View) : Nat := forward s (unitPart s v.unit) (v.pc.toNat + 2)

/-- Bytes of the instruction of a group (R170), if its lines are present: 2 or 4. A program counter in the old range of a forwarding entry
is replaced first (R117). -/
def fetchBytes (s : State) (g : Gid) (v : View) : Option (List Byte) :=
  let gen := unitGen s v.unit
  let pc := v.pc.toNat
  if forwardPc s (unitPart s v.unit) v.pc != v.pc then none else
  match heldBytes s g gen pc 2 with
  | [some a, some b] =>
    if a.toNat % 2 = 0 then some [a, b]
    else
      match heldBytes s g gen (secondHalf s v) 2 with
      | [some c, some d] => some [a, b, c, d]
      | _ => none
  | _ => none

/-- Lines the instruction still needs: address and state, the line of the first halfword first. -/
def neededLines (s : State) (g : Gid) (v : View) : List (Nat × LineState) :=
  let gen := unitGen s v.unit
  let pc := v.pc.toNat
  let st (a : Nat) : LineState := lineState s g gen a
  let absent (a : Nat) : Bool := match st a with | .present _ => false | _ => true
  let long : Bool := match heldBytes s g gen pc 1 with
    | [some b] => b.toNat % 2 == 1
    | _ => peekLong s gen pc
  ((if long && pc % 128 == 126 then [pc, secondHalf s v] else [pc]).filter absent).map fun a => (a, st a)

/-- FETCH (Table 17.1): what failed is done with. -/
def fetchTrap (s : State) (v : View) (reason at_ : Nat) : State :=
  let s1 := { s with walks := s.walks.filter fun (_, w) => !(w.why = 1 && w.gid = v.gid && w.ends ≤ s.now) }
  let c := cacheOf v.gid
  let s2 := if reason = 3 then icacheSet s1 c ((icacheGet s1 c).filter fun x => !x.bad) else s1
  trapNow s2 v (precise v cFetch reason (if at_ % 2 ^ 48 = v.pc.toNat then v.pc.toNat else at_ / 128 * 128))

/-- A group comes to issue an instruction whose lines are not all present (R114): fills and walks start, and it waits, or FETCH is
raised for the first line that fails. -/
def demandFetch (s : State) (g : Gid) : State :=
  match view s g with
  | none => s
  | some v =>
    let gen := unitGen s v.unit
    let lines := neededLines s g v
    -- an active forwarding entry moves the program counter itself (R117)
    let fwd := forwardPc s (unitPart s v.unit) v.pc
    if fwd != v.pc then setPc s g fwd
    else
      match lines with
      | [] => s
      | (a, .fail r) :: _ => fetchTrap s v r a
      | _ =>
        -- a failing second line is raised once the first is present
        let s1 := lines.foldl (fun t (a, st) =>
          match st with
          | .request x => requestFill t (cacheOf g) gen (unitPart t v.unit) a x
          | .walk =>
            if (demandWalk t g gen a).isSome then t else startWalk t g (dieOf v.core) gen a 1
          | _ => t) s
        let at_ := maxOf ((neededLines s1 g v).map fun (_, st) =>
          match st with
          | .wait c => c
          | _ => s.now + 1)
        delayTo s1 v at_

def execDemandFetch (s : State) : Host.Outcome State Fault Refusal :=
  match s.subj with
  | .group g => .next (demandFetch s g)
  | _ => .next s

/-! ## `pfi` (R115, R444) -/

/-- A hinted line is filled if its translation allows, and is neither present nor under way. -/
def hintFill (s : State) (cache gen part va : Nat) (x : Xlate) : State :=
  if (icacheFind s cache gen va).isSome || (fillOf s cache gen va).isSome || (fetchCause s x va).isSome then s
  else requestFill s cache gen part va x

def doPfi (a : Nat) (s : State) (v : View) : State :=
  let gen := unitGen s v.unit
  let part := unitPart s v.unit
  let c := cacheOf v.gid
  let lines := dedup (v.act.map fun l => forward s part (addrPair s v a l % 2 ^ 48) / 128 * 128)
  lines.foldl (fun t va =>
    if (icacheFind t c gen va).isSome || (fillOf t c gen va).isSome then t
    else
      match tlbFind (tlbOf t v.gid) gen va with
      | some x => hintFill t c gen part va x
      | none => startWalk t v.gid (dieOf v.core) gen va 2) s

def execPfi (a : BitVec 7) (sw : BitVec 1) (s : State) : Host.Outcome State Fault Refusal :=
  issue (.pfi a sw) s noTrap (plain (doPfi a.toNat))

/-! ## Walks and page requests (R333, R416, R419) -/

/-- The unit of a group, for what its hints fill. -/
def gidUnit (s : State) (g : Gid) : Nat := ((view s g).map (·.unit)).getD 0
def gidCore (s : State) (g : Gid) : Nat := ((view s g).map (·.core)).getD (match g with | .warp c _ => c | .kindle cl _ => cl * 24)

/-- A walk ends (R416): it installs a translation, asks ATS for host memory (R333), or fails. -/
def endWalk (s : State) (id : Nat) : State :=
  match tabGet id s.walks with
  | none => s
  | some w =>
    if s.now < w.ends then s
    -- an entry that is held at the memory controller is read later (R29, R358)
    else if (walk s w.gen w.va).2.any fun a => heldAt s (placeOf s a) then
      schedule { s with walks := tabPut id { w with ends := s.now + 1 } s.walks } (s.now + 1) .translationWalkEnd (.of [id])
    else
      let s1 := { s with walks := tabDel id s.walks }
      match (walk s w.gen w.va).1 with
      | .miss r => if w.why ≤ 1 then { s with walks := tabPut id { w with reason := r } s.walks } else s1
      | .hit x =>
        if x.host then
          match w.why, view s1 w.gid with
          | 0, some v =>
            let (n, s2) := freshNat s1
            { s2 with pageReqs := tabPut n ⟨w.gid, v.core, v.wslot, v.serial, w.gen, w.va, 0, false, false⟩ s2.pageReqs }
          | 1, _ => { s with walks := tabPut id { w with reason := 1 } s.walks }
          | _, _ => s1
        else
          let s2 := installXlate s1 w.gid x
          let unit := gidUnit s w.gid
          match w.why with
          | 2 => hintFill s2 (cacheOf w.gid) w.gen (unitPart s unit) w.va x
          | 3 => hintPiece s2 w.gid 3 (gidCore s w.gid) unit w.va w.len x
          | 4 => hintPiece s2 w.gid 4 (gidCore s w.gid) unit w.va w.len x
          | _ => s2

def execTranslationWalkEnd (s : State) : Host.Outcome State Fault Refusal :=
  match s.subj with
  | .of [id] => .next (endWalk s id)
  | _ => .next s

/-- The host's translation of a page is cached (R333). -/
def installHost (s : State) (q : PageReq) : State :=
  match (walk s q.gen q.va).1 with
  | .hit x => if x.host then installXlate s q.gid { x with va := q.va % 2 ^ 48 / 65536 * 65536, size := 65536 } else installXlate s q.gid x
  | .miss _ => s

/-- The host gives an engine or a front end the translation of a page (R339, R423). -/
def giveAgent (s : State) (id : Nat) (q : PageReq) : State :=
  let s1 := { s with pageReqs := tabDel id s.pageReqs }
  match (walk s q.gen q.va).1 with
  | .hit x => { s1 with hostPages := s1.hostPages ++ [{ x with va := pageNo q.va * 65536, size := 65536 }] }
  | .miss _ => s1

/-- The host answers an ATS translation request (R333): with a translation, or with none. An engine or a front end then makes the page request
at once. -/
def atsAnswer (s : State) (id : Nat) (ok : Bool) : State :=
  match tabGet id s.pageReqs with
  | none => s
  | some q =>
    if q.pri then s
    else if q.serial = agentSerial then
      (if ok then giveAgent s id q else { s with pageReqs := tabPut id { q with pri := true } s.pageReqs })
    else if ok then installHost { s with pageReqs := tabDel id s.pageReqs } q
    else { s with pageReqs := tabPut id { q with refused := true } s.pageReqs }

def execAtsTranslationCompletion (s : State) : Host.Outcome State Fault Refusal :=
  match s.subj with
  | .of [id, ok] => .next (atsAnswer s id (ok = 1))
  | _ => .next s

/-- Lanes held by a page request become deferred, and their path runs when the warp waits for it (R419, R421). -/
def unholdLanes (s : State) (c w : Nat) (lanes : BitVec 32) : State :=
  match warpOf s c w with
  | none => s
  | some x =>
    let hit (e : Split) : Bool := e.fault && e.faultHeld && e.defMask = lanes
    let s1 := modWarp s c w fun y =>
      { setLanes y (lanesOf lanes) .deferred with splits := y.splits.map fun e => if hit e then { e with faultHeld := false } else e }
    match warpOf s1 c w with
    | none => s1
    | some y =>
      if !(x.splits.head?.any hit) then s1
      else
        match y.run.status with
        | .idle => pathEmpty s1 c w (s.now + 4)
        | .barrier b p => swapPaths s1 c w y.pc (some (b, p)) (s.now + 4)
        | _ => s1

/-- A page request group response (R419, R422): lanes are no longer held once all their pages are answered. -/
def pageResponse (s : State) (id : Nat) (ok : Bool) : State :=
  match tabGet id s.pageReqs with
  | none => s
  | some q =>
    if q.serial = agentSerial then
      (if !q.pri || q.refused then s
       else if ok then giveAgent s id q else { s with pageReqs := tabPut id { q with refused := true } s.pageReqs })
    -- a response during a halt is not used: the request is made again at resume (R422)
    else if !q.pri || q.refused || ((ctxOf s q.gen).map (·.halted)).getD false then s
    else
      let s1 := if ok then installHost { s with pageReqs := tabDel id s.pageReqs } q
        else { s with pageReqs := tabPut id { q with refused := true } s.pageReqs }
      let open_ := s1.pageReqs.any fun (_, r) => r.core = q.core && r.serial = q.serial && r.lanes = q.lanes && r.pri && !r.refused
      if open_ || q.lanes = 0 || ((warpOf s1 q.core q.wslot).map (·.serial)) ≠ some q.serial then s1
      else unholdLanes s1 q.core q.wslot q.lanes

def execPageRequestResponse (s : State) : Host.Outcome State Fault Refusal :=
  match s.subj with
  | .of [id, ok] => .next (pageResponse s id (ok = 1))
  | _ => .next s

/-! ## An encoding that is no instruction (R394) -/

/-- A group comes to issue a word that is no instruction: RUNX does not precede ILL. -/
def raiseIll (s : State) (g : Gid) (enc : Nat) : State :=
  match view s g with
  | none => s
  | some v =>
    match faultArrival .illegalEncoding 5 s v with
    | .error s1 => s1
    | .ok (s1, v1) => trapNow s1 v1 (precise v1 cIll enc)

def execIllegalEncoding (s : State) : Host.Outcome State Fault Refusal :=
  match s.cur, s.subj with
  | some g, .of [enc] => .next (raiseIll s g enc)
  | _, _ => .next s

end Sys2Proof.Machine
end

