-- ==== Sys2Proof/Machine/Code.lean ====
section
/-! DEFINITION. Instruction caches of a partition emptied (R116, R123), and a code move that becomes active (R116, R117, R359, R360). -/

namespace Sys2Proof.Machine

/-- Clusters of a partition: CBASE to CLIM (R355). -/
def inPart (s : State) (part cl : Nat) : Bool := (partEntry s part).cbase ≤ cl && cl ≤ (partEntry s part).clim

/-- Lines dropped from every instruction cache of a partition. -/
def dropLines (s : State) (part : Nat) (hit : ILine → Bool) : State :=
  { s with
    cores := s.cores.map fun (c, k) => (c, if inPart s part (clusterOf c) then { k with icache := k.icache.filter fun x => !hit x } else k)
    pools := s.pools.map fun (cl, p) =>
      (cl, if inPart s part cl then { p with icache := p.icache.map fun (i, l) => (i, l.filter fun x => !hit x) } else p) }

/-- Program counters of a parked action. -/
def ParkAct.mapPc (f : Pc → Pc) : ParkAct → ParkAct
  | .xfer l t => .xfer (l.map fun x => (x.1, f x.2)) t
  | .split m p t => .split m (f p) t
  | .demote p => .demote (f p)
  | .reform m p => .reform m (f p)
  | .tret l t => .tret (l.map fun x => (x.1, f x.2)) t
  | .rfm n p => .rfm n (f p)
  | .trap t rets => .trap { t with ret := f t.ret } (rets.map fun x => (x.1, f x.2))
  | a => a

/-- Program counters of a run state. -/
def Run.mapPc (f : Pc → Pc) (r : Run) : Run :=
  match r.status with
  | .parked act => { r with status := .parked (act.mapPc f) }
  | _ => r

def Warp.mapPc (f : Pc → Pc) (w : Warp) : Warp :=
  { w with pc := f w.pc, run := w.run.mapPc f, splits := w.splits.map fun e => { e with defPc := f e.defPc, parkPc := f e.parkPc } }

/-- What a halt has saved of a context. -/
def Ctx.mapPc (f : Pc → Pc) (c : Ctx) : Ctx :=
  { c with
    saved := c.saved.map fun k => { k with
      warps := k.warps.map fun (i, w) => (i, w.mapPc f), bins := k.bins.map fun (i, b) => (i, { b with pc := f b.pc })
      staging := k.staging.map fun t => { t with pc := f t.pc } }
    slots := c.slots.map fun (cl, i, e) => (cl, i, { e with pc := f e.pc, run := e.run.mapPc f }) }

/-- The program counters that the hardware holds for a partition and the VF that runs on it, in saved contexts too, rewritten (R117). -/
def rewritePcs (s : State) (part : Nat) (f : Pc → Pc) : State :=
  let mine (u : Nat) : Bool := (unitOf s u).isSome && unitPart s u = part
  { s with
    cores := s.cores.map fun (c, k) => (c, { k with
      warps := k.warps.map fun (i, w) => (i, if mine w.unit then w.mapPc f else w)
      bins := k.bins.map fun (i, b) => (i, if mine b.unit then { b with pc := f b.pc } else b)
      staging := k.staging.map fun t => if mine t.unit then { t with pc := f t.pc } else t })
    pools := s.pools.map fun (cl, p) => (cl, { p with
      slots := p.slots.map fun (i, e) => (i, if mine e.unit then { e with pc := f e.pc, run := e.run.mapPc f } else e) })
    ctxs := s.ctxs.map fun (g, c) => (g, if (feOf s part).vf = some c.fn then c.mapPc f else c) }

/-- A forwarding entry becomes active: the caches drop the old range and held program counters move (R116, R117, R359). -/
def activateMove (s : State) (part src dst len : Nat) : State :=
  match (List.range 64).find? fun i => (tabGet i (feOf s part).fwd).isNone with
  | none => s
  | some i =>
    let old (a : Nat) : Bool := src ≤ a && a < src + len
    let s1 := modFe s part fun f => { f with fwd := tabPut i ⟨true, len / 4096, src / 4096, dst / 4096⟩ f.fwd }
    let s2 := dropLines s1 part fun x => old x.va
    rewritePcs s2 part fun p => if old p.toNat then BitVec.ofNat 48 (dst + (p.toNat - src)) else p

/-- A free forwarding entry (R116). -/
def moveRoom (s : State) (part : Nat) : Bool := (List.range 64).any fun i => (tabGet i (feOf s part).fwd).isNone

end Sys2Proof.Machine
end

