-- ==== Sys2Proof/Machine/Granules.lean ====
section
/-! DEFINITION. Operand-map loads (R301), the granule instructions (R110-R112, R315-R317), the speculative region (R57, R323, R324,
R408) and the returns of requests (R178, R270). -/

namespace Sys2Proof.Machine

/-! ## `omld` -/

def execOmld (a : BitVec 6) (o : BitVec 4) (sw : BitVec 1) (s : State) : Host.Outcome State Fault Refusal :=
  issue (.omld a o sw) s (fun s v => alignK s v a 16) fun s v =>
    let accs := lowAccs v (readK s v.unit a.toNat).toNat 16
    lowAccess s v accs true false false fun t u =>
      .done (doLoad t u accs true (some 3) fun items => .omld o.toNat (items.headD [])) .next 0

/-! ## Elastic requests (R111, R315) -/

/-- Reserved granules of a unit and the end of its elastic range. -/
def elasticRange (s : State) (u : Nat) : Nat × Nat :=
  let f := unitFrame s u
  (f.accres, f.accres + f.accel)

/-- A range outside the elastic range (code 0x08). -/
def outsideElastic (s : State) (u g n : Nat) : Bool := g < (elasticRange s u).1 || (elasticRange s u).2 < g + n

def accgetTrap (w g : Nat) (s : State) (v : View) : Option Trap :=
  let n := 2 ^ w
  let held := (unitOf s v.unit).any fun x => (List.range n).any fun j => holdsGranule x (g + j)
  limitTrap v [(0x08, outsideElastic s v.unit g n || held)]

/-- A request that returns when a later decision says so: its slot counts. -/
def openReq (s : State) (q : Req) : State × Nat :=
  let (id, s1) := freshNat s
  let s2 := match q.slot with | some n => slotAdd s1 q.gid n | none => s1
  ({ s2 with reqs := tabPut id q s2.reqs }, id)

/-- A decision on an elastic request shows 8 cycles later (R112): 0 granted, 1 refused, 2 short. -/
def decideElastic (s : State) (id kd status : Nat) : State :=
  schedule (modReq s id fun q => { q with kind := .kval kd (BitVec.ofNat 64 status), due := s.now + 8 }) (s.now + 8) .loadReturn (.of [id])

def startAccget (l w g b : Nat) (s : State) (v : View) : State :=
  let n := 2 ^ w
  let (s1, id) := openReq s (Req.mk' s v (some l) .nothing s.now)
  if n ≤ (elasticFree s v.core).length then
    decideElastic (grantGranules s1 v.unit ((List.range n).map (g + ·))) id b 0
  else decideElastic s1 id b 2

def execAccget (l w : BitVec 2) (g b : BitVec 6) (sw : BitVec 1) (s : State) : Host.Outcome State Fault Refusal :=
  issuePre (.accget l w g b sw) s (accgetTrap w.toNat g.toNat) storesPre (plain (startAccget l.toNat w.toNat g.toNat b.toNat))

def startAccgetW (l w g b : Nat) (s : State) (v : View) : State :=
  let (s1, id) := openReq s (Req.mk' s v (some l) .nothing s.now)
  modCore s1 v.core fun k => { k with elq := k.elq ++ [⟨v.unit, b, g, 2 ^ w, id⟩] }

def execAccgetW (l w : BitVec 2) (g b : BitVec 6) (sw : BitVec 1) (s : State) : Host.Outcome State Fault Refusal :=
  issuePre (.accgetW l w g b sw) s (accgetTrap w.toNat g.toNat) storesPre (plain (startAccgetW l.toNat w.toNat g.toNat b.toNat))

/-- Entries of the queue whose units are not halted (R389). -/
def elasticQueue (s : State) (core : Nat) : List ElReq :=
  (coreOf s core).elq.filter fun e => !(unitOf s e.unit).any (·.halted)

/-- Whether a unit holds an elastic granule. -/
def holdsElastic (s : State) (u : Nat) (x : UnitSt) : Bool :=
  let r := (elasticRange s u).1
  (x.gmap.any fun p => r ≤ p.1) || x.gspill.any fun g => r ≤ g

/-- Younger (R68, R111). -/
def youngerUnit (s : State) (a b : Nat) : Bool :=
  let sq (u : Nat) : Nat := ((unitLaunch s u).map (·.seq)).getD 0
  if sq a != sq b then olderSeq (sq b) (sq a) else lidOf s b < lidOf s a

/-- The entry to be granted in this cycle (R111). -/
def elasticGrantDue (s : State) (core : Nat) : Option ElReq :=
  if s.now < (coreOf s core).elAt then none
  else (elasticQueue s core).head?.filter fun e => e.n ≤ (elasticFree s core).length

/-- The entry refused on deadlock: of the youngest waiting unit. Where it has several entries waiting, its oldest is refused: DESIGN CHOICE (log
99). -/
def elasticRefuseDue (s : State) (core : Nat) : Option ElReq :=
  let q := elasticQueue s core
  let holders := (unitsOn s core).filter fun (u, x) => holdsElastic s u x
  if s.now < (coreOf s core).elAt || (elasticGrantDue s core).isSome || holders.isEmpty ||
      !(holders.all fun (u, _) => q.any fun e => e.unit = u) then none
  else
    match q with
    | [] => none
    | e :: r => some (r.foldl (fun y x => if youngerUnit s x.unit y.unit then x else y) e)

/-- An entry leaves the queue with a decision; the queue is looked at again in the next cycle. -/
def elasticDone (s : State) (core : Nat) (e : ElReq) (status : Nat) : State :=
  let s1 := modCore s core fun k => { k with elq := k.elq.filter (· != e), elAt := s.now + 1 }
  let s2 := if status = 0 then grantGranules s1 e.unit ((List.range e.n).map (e.base + ·)) else s1
  decideElastic s2 e.req e.kd status

def execElasticGrant (s : State) : Host.Outcome State Fault Refusal :=
  match s.subj with
  | .of [core] =>
    .next (match elasticGrantDue s core with
      | some e => elasticDone s core e 0
      | none => s)
  | _ => .next s

def execElasticRefuse (s : State) : Host.Outcome State Fault Refusal :=
  match s.subj with
  | .of [core] =>
    .next (match elasticRefuseDue s core with
      | some e => elasticDone s core e 1
      | none => s)
  | _ => .next s

/-! ## `accput`, `accz` (R316) -/

def accputTrap (w g : Nat) (s : State) (v : View) : Option Trap :=
  limitTrap v [(0x08, outsideElastic s v.unit g (2 ^ w)), (0x02, rangeFree s v.unit g (2 ^ w))]

/-- The names go at once; the granules stay held until the cycle that R306 allows. -/
def startAccput (l w g : Nat) (s : State) (v : View) : State :=
  let names := (List.range (2 ^ w)).map (g + ·)
  let gm := ((unitOf s v.unit).map (·.gmap)).getD []
  let phys := names.filterMap fun g => tabGet g gm
  let due := Nat.max s.now (granuleFree s v.core phys true)
  let s1 := modUnit s v.unit fun u => { u with gmap := u.gmap.filter fun p => !names.contains p.1 }
  sendMat s1 v l .storeAck { MatOp.mk' s v 8 due due with blocks := [phys.map fun p => (p, p)] }

def execAccput (l w : BitVec 2) (g : BitVec 6) (sw : BitVec 1) (s : State) : Host.Outcome State Fault Refusal :=
  issuePre (.accput l w g sw) s (accputTrap w.toNat g.toNat) storesPre (plain (startAccput l.toNat w.toNat g.toNat))

def acczTrap (w g : Nat) (s : State) (v : View) : Option Trap := limitTrap v [(0x02, rangeFree s v.unit g (2 ^ w))]

/-- One granule is zeroed per cycle. -/
def startAccz (l w g : Nat) (s : State) (v : View) : State :=
  let n := 2 ^ w
  let pairs := (pairsOf s v g n).map fun p => (p.2, p.2)
  let start := Nat.max s.now (granuleFree s v.core (pairs.map (·.2)) true)
  let s1 := (pairs.mapIdx fun j p => (j, p)).foldl (fun a (j, p) => markPairs a v.core [p] (start + j)) s
  sendMat (touchRange s1 v g n) v l .storeAck { MatOp.mk' s v 7 start (start + n - 1) with blocks := [pairs] }

def execAccz (l w : BitVec 2) (g : BitVec 6) (sw : BitVec 1) (s : State) : Host.Outcome State Fault Refusal :=
  issuePre (.accz l w g sw) s (acczTrap w.toNat g.toNat) storesPre (plain (startAccz l.toNat w.toNat g.toNat))

/-- The granule zeroed in this cycle. -/
def zeroNow (s : State) (m : MatOp) : State :=
  if s.now < m.start then s
  else
    match m.blocks.flatten[s.now - m.start]? with
    | some (_, new) =>
      moveGranule s m.core m.unit m.gen new new [] fun _ => true
    | none => s

/-! ## `accld`, `accst` (R317) -/

def granuleTrap (w g r a : Nat) (s : State) (v : View) : Option Trap :=
  let n := 2 ^ w
  let stride := (readK s v.unit r).toNat
  let base := (readK s v.unit a).toNat
  firstTrap (limitTrap v [(0x02, rangeFree s v.unit g n), (0x0E, stride % 128 != 0 || stride < 128 * n)])
    (if base % 128 = 0 then none else some (precise v cAlign 0 base))

/-- Addresses of the lines, row by row, granule by granule. -/
def granuleLines (s : State) (v : View) (w r a : Nat) : Accs :=
  (List.range 32).flatMap fun row => (List.range (2 ^ w)).map fun j =>
    (v.act.headD 0, ((readK s v.unit a).toNat + row * (readK s v.unit r).toNat + 128 * j) % 2 ^ 64, 128)

/-- Lines of a transfer between a range of granules and memory from a cycle on; memory acts in the cycle of the request, a store in its
access cycle. -/
def granuleTransfer (s : State) (v : View) (load : Bool) (pairs : List (Nat × Nat)) (accs : Accs) (t0 : Nat) : List Line × List Nat :=
  let n := pairs.length
  let made := accs.mapIdx fun i (_, va, _) =>
    let (spot, path) := lineSpot s v va (pieceOf s v va 128 load (!load))
    let (old, new) := nth pairs (i % n) (0, 0)
    let off := 128 * (i / n)
    let act := match spot with | .store .. => t0 + i + path | _ => t0 + i
    if load then ((⟨t0 + i, act, t0 + i + path, t0 + i + path, spot, .gran v.core v.unit new off, 128, [], []⟩ : Line), t0 + i + path)
    else ((⟨t0 + i, t0 + i, act, t0 + i + path, .gran v.core v.unit old off, spot, 128, [], []⟩ : Line), t0 + i + path)
  (made.map (·.1), made.map (·.2))

/-- Agents of a command or of an `accst`, which stands for the threads that issued it, and its objects: what they had done at its issue, and
what it released. -/
def obCmd (id : Nat) : Nat := 16 * id + 13
def obDone (id : Nat) : Nat := 16 * id + 14

/-- The memory writes of an `accst` are plain stores of every thread of the active set, and the threads order them only once they observe the
return of its slot (R318): an agent of their own, which knows what the threads had done at issue and races with none of them. -/
def clockDrain (s : State) (v : View) (accs : Accs) (id : Nat) : State :=
  if !clocksOn s v.unit then s
  else
    let mates := v.act.map (agentOf s v)
    let s1 := acquire (releaseLanes s v (obCmd id) true) v.unit (agCmd id) (obCmd id) true
    let s2 := (fragsOf s v accs).foldl (fun a f =>
      let b := raceCheck a v.unit (agCmd id) v.pc.toNat (lidOf a v.unit) (v.act.headD 0) 1 f.va f.place.key f.len (f.ord == 2) mates
      if f.ord = 1 then
        (wordsIn f.place.key f.len).foldl (fun t w =>
          releaseAt (dropRels t w) v.unit (agCmd id) w (soScope f.place) (partyOf s v 0 v.act) false) b
      else clockWrite b v.unit (agCmd id) f.place.key f.len) s1
    release s2 v.unit (agCmd id) (obDone id) true

/-- The return of the slot of an `accst` orders its writes for the threads that observe it (R318). -/
def drainReturned (s : State) (id : Nat) (m : MatOp) : State :=
  match (tabGet id s.reqs).bind fun q => (requester s q).map fun _ => q.slot with
  | some (some n) => if clocksOn s m.unit then modRun s m.gid fun r => { r with acqs := r.acqs ++ [⟨n, 0, obDone id, m.lanes⟩] } else s
  | _ => s

/-- The lines of outside memory among those of a load. -/
def outsideLine (l : Line) : Bool := match l.src with | .mem (.dev _) .. => false | .mem .. => true | _ => false

def startGranules (load : Bool) (l w g r a : Nat) (s : State) (v : View) : State :=
  let accs := granuleLines s v w r a
  let n := 2 ^ w
  let pairs := if load then pairsOf s v g n else (List.range n).map fun j => (readPhys s v (g + j), readPhys s v (g + j))
  let free := if load then pairsFree s v.core pairs else granuleFree s v.core (pairs.map (·.1)) false
  let t0 := Nat.max s.now (Nat.max free (coreOf s v.core).drainEnd)
  let (lost, s1) := drawLost (if load then clockLoads s v accs (fragsOf s v accs) else s) v
  let (lines0, ends0) := granuleTransfer s v load pairs accs t0
  let ordinal := ((warpOf s v.core v.wslot).map (·.reqCount)).getD 0
  let forced := if load && lines0.any outsideLine then
      (launchOf s (unitLaunchId s v.unit)).bind fun x =>
        if x.rply then (findInput s x ordinal x.entries x.capIdx).map fun e => e.1 + x.capStart else none
    else none
  let lines := match forced with
    | some c => lines0.map fun x => if outsideLine x then { x with writeAt := c, ackAt := c } else x
    | none => lines0
  let live := maxOf ends0 + Config.round * lost
  let due := match forced with
    | some c => c
    | none => live
  let s2 := modCore s1 v.core fun k => { k with drainEnd := due + 1 }
  let s3 := if load then touchRange (markPairs s2 v.core pairs due) v g n
    else markGranules s2 v.core (pairs.map (·.1)) false (t0 + accs.length - 1)
  let id := s3.fresh
  let s4 := sendMat s3 v l (if load then .loadReturn else .storeAck)
    { MatOp.mk' s v 9 t0 due with lines := lines, blocks := [if load then pairs else []], op := if load then 0 else 1, cid := ordinal }
  let s5 := if load then s4 else clockDrain s4 v accs id
  let acq := if load then maxOf (((fragsOf s v accs).filter fun f => f.ord = 1).map fun f => soScope f.place) else 0
  countRequest (modReq s5 id fun q => { q with isLoad := load, ordinal := ordinal, host := lines.any outsideLine, acq := acq }) v 0 lost

/-- The shadow of a target takes its whole contents before its first line is written (R57). -/
def copyTargets (s : State) (m : MatOp) : State × MatOp :=
  (m.blocks.flatten.foldl (fun a (old, new) =>
    if old = new then a else moveGranule a m.core m.unit m.gen old new (granuleOf a m.core m.unit m.gen old) fun _ => false) s,
    { m with blocks := m.blocks.map fun b => b.map fun (_, n) => (n, n) })

/-- In replay the bytes of outside memory are the recorded ones (R91). -/
def forcedLines (s : State) (m : MatOp) : MatOp :=
  match (launchOf s (unitLaunchId s m.unit)).bind fun x => if x.rply then findInput s x m.cid x.entries x.capIdx else none with
  | none => m
  | some (_, data) =>
    let (ls, _) := m.lines.foldl (fun (acc : List Line × List Byte) l =>
      if outsideLine l then (acc.1 ++ [{ l with bytes := acc.2.take l.len }], acc.2.drop l.len) else (acc.1 ++ [l], acc.2)) ([], data)
    { m with lines := ls }

/-- Lines of a granule transfer that act in this cycle. -/
def actGranules (s : State) (id : Nat) (m : MatOp) : State :=
  let writes := m.op = 0 && m.lines.any fun l => l.writeAt = s.now
  let (s1, m1) := if writes then copyTargets s m else (s, m)
  let m2 := if writes && m1.lines.any outsideLine then forcedLines s1 m1 else m1
  let v := viewThen s1 m.gid m.serial m.unit m.core m.lanes m.ipc
  let (s2, ls) := actLines s1 v m.gen (unitPart s1 m.unit) v.act 0 (fun _ => true) m2.lines
  modMat s2 id fun x => { x with lines := ls, blocks := m2.blocks }

/-- Work on granules is done: what falls in this cycle acts, and the slot returns. -/
def finishGranules (s : State) (id : Nat) (m : MatOp) : State :=
  if m.kind = 7 then endMat (zeroNow s m) id m 0 []
  else if m.kind = 9 && m.lines.any fun l => s.now < l.ackAt then
    schedule s (maxOf (m.lines.map (·.ackAt))) (if m.op = 0 then .loadReturn else .storeAck) (.of [id])
  else if m.kind = 9 then
    let s1 := actGranules s id m
    let m1 := (tabGet id s1.matOps).getD m
    let out := (m1.lines.filter outsideLine).flatMap (·.bytes)
    let s2 := if m.op = 1 then drainReturned s1 id m else s1
    endMat (modReq s2 id fun q => { q with outside := out }) id m1 0 []
  else endMat s id m 0 []

def execAccld (l w : BitVec 2) (g : BitVec 6) (r : BitVec 5) (a : BitVec 6) (sw : BitVec 1) (s : State) :
    Host.Outcome State Fault Refusal :=
  issuePre (.accld l w g r a sw) s (granuleTrap w.toNat g.toNat r.toNat a.toNat) storesPre fun s v =>
    lowAccess s v (granuleLines s v w.toNat r.toNat a.toNat) true false false fun t u =>
      .done (startGranules true l.toNat w.toNat g.toNat r.toNat a.toNat t u) .next 0

def execAccst (l w : BitVec 2) (g : BitVec 6) (r : BitVec 5) (a : BitVec 6) (sw : BitVec 1) (s : State) :
    Host.Outcome State Fault Refusal :=
  issuePre (.accst l w g r a sw) s (granuleTrap w.toNat g.toNat r.toNat a.toNat) storesPre fun s v =>
    lowAccess s v (granuleLines s v w.toNat r.toNat a.toNat) false true false fun t u =>
      .done (startGranules false l.toNat w.toNat g.toNat r.toNat a.toNat t u) .next 0

/-! ## The speculative region (R323, R324) -/

def sbegTrap (w g h : Nat) (s : State) (v : View) : Option Trap :=
  limitTrap v [(0x02, rangeFree s v.unit g (2 ^ w) || rangeFree s v.unit h (2 ^ w))]

/-- SPEC of an open region (Table 2.5), without SBUF. -/
def specOpen (width sbase : Nat) : Word := BitVec.ofNat 32 (2 ^ 31 + width * 256 + sbase)

def execSbeg (w : BitVec 2) (g h : BitVec 6) (sw : BitVec 1) (s : State) : Host.Outcome State Fault Refusal :=
  issue (.sbeg w g h sw) s (sbegTrap w.toNat g.toNat h.toNat) (plain fun s v =>
    let n := 2 ^ w.toNat
    pendWrite (modWarp s v.core v.wslot fun x => { x with spec := some ⟨g.toNat, n, h.toNat, [], []⟩ }) v.gid 4
      (.spec (specOpen n h.toNat)))

/-- Physical granules of the shadow range of the open region. -/
def shadowPhys (s : State) (v : View) : List Nat :=
  match regionOf s v.gid with
  | none => []
  | some r =>
    let gm := ((unitOf s v.unit).map (·.gmap)).getD []
    (List.range r.width).filterMap fun j => tabGet (r.sbase + j) gm

/-- Whether work of the array writes the granules that it names: streams, lehrs, statistics that write their rows, `accz` and `accld`. -/
def MatOp.writes (m : MatOp) : Bool := m.kind = 3 || m.kind = 6 || m.kind = 7 || (m.kind = 5 && 3 ≤ m.op) || (m.kind = 9 && m.op = 0)

/-- An earlier instruction of the warp is still to write a shadow granule. -/
def shadowPre (s : State) (v : View) : Option Did :=
  let sh := shadowPhys s v
  if s.matOps.any fun (_, m) => m.writes && m.serial = v.serial && m.gid = v.gid && m.blocks.any fun b => b.any fun p => sh.contains p.2 then
    some (.wait s (s.now + 1))
  else none

/-- The region is closed: SPEC reads zero 4 cycles later. -/
def closeRegion (s : State) (v : View) : State :=
  pendWrite (modWarp s v.core v.wslot fun x => { x with spec := none }) v.gid 4 (.spec 0)

/-- The held stores are tested in program order (R324, R415, R426). -/
def testHeld (s : State) (v : View) : List HeldStore → Option Did
  | [] => none
  | h :: r =>
    let accs := h.items.map fun (l, a, b) => (l, a, b.length)
    match testAccess s { v with act := h.items.map (·.1) } accs false true true with
    | .ok => testHeld s v r
    | .wait s1 => some (.wait s1 (s.now + 1))
    | .park _ pages => some (.wait (requestPages s v 0 pages) (s.now + 1))
    | .trap s1 t => some (.left (trapNow s1 v { t with aux := maskOf (h.items.map (·.1)), lanes := maskOf v.act }))

/-- Touched targets and their shadows exchange their physical granules. -/
def swapNames (r : Spec) (gm : Tab Nat) : Tab Nat :=
  r.touched.foldl (fun t o =>
    match tabGet (r.tbase + o) t, tabGet (r.sbase + o) t with
    | some p, some q => tabPut (r.sbase + o) p (tabPut (r.tbase + o) q t)
    | _, _ => t) gm

def commit (s : State) (v : View) : Did :=
  match regionOf s v.gid with
  | none => .done s .next 0
  | some r =>
    match testHeld s v r.held with
    | some d => d
    | none =>
      let s1 := modUnit s v.unit fun u => { u with gmap := swapNames r u.gmap }
      let out := r.held.mapIdx fun i h =>
        let accs : Accs := h.items.map fun (l, a, b) => (l, a, b.length)
        let u := { v with act := h.items.map (·.1) }
        (⟨s.now + 1 + i, v.gid, v.serial, v.unit, v.core, v.pc, h, fragsOf s u accs, touchesOf s u accs⟩ : HeldOut)
      .done (closeRegion { s1 with toStore := s1.toStore ++ out } v) .next 0

def execScmt (sw : BitVec 1) (s : State) : Host.Outcome State Fault Refusal :=
  issuePre (.scmt sw) s noTrap shadowPre commit

def execSdis (sw : BitVec 1) (s : State) : Host.Outcome State Fault Refusal :=
  issuePre (.sdis sw) s noTrap shadowPre (plain fun s v =>
    match v.gid with
    | .warp c w =>
      let old := ((warpOf s c w).map (·.specSr)).getD 0
      let s1 := dropRegion s c w
      pendWrite (modWarp s1 c w fun x => { x with specSr := old }) v.gid 4 (.spec 0)
    | .kindle .. => s)

/-- The held stores whose cycle this is are performed (R324). -/
def storeHeld (s : State) : State :=
  (s.toStore.filter fun h => h.due ≤ s.now).foldl (fun a h =>
    let v := viewThen a h.gid h.serial h.unit h.core (maskOf (h.store.items.map (·.1))) h.ipc
    storeAt a v h.store.items h.store.bad (if h.store.maj = 0x2D then 2 else 1) none h.frags h.touches)
    { s with toStore := s.toStore.filter fun h => s.now < h.due }

/-! ## Returns (R178, R270) -/

/-- A return: work on granules that is done, or a request that is due. -/
def returnSubject (s : State) (p : Req → Bool) (kinds : List Nat) : State :=
  match matDue s kinds with
  | some (id, m) => finishGranules s id m
  | none =>
    match s.subj with
    | .of [r] => if (tabGet r s.matOps).isNone && (tabGet r s.reqs).any p then returnDue s r else s
    | _ => s

def execLoadReturn (s : State) : Host.Outcome State Fault Refusal := .next (returnSubject s (fun _ => true) [9])

def execStoreAck (s : State) : Host.Outcome State Fault Refusal :=
  .next (returnSubject s (fun q => decide (q.kind = .store)) [7, 8, 9])

def execAtomicComplete (s : State) : Host.Outcome State Fault Refusal := .next (returnSubject s (fun q => q.isLoad && q.isStore) [])

end Sys2Proof.Machine
end

