-- ==== Sys2Proof/Machine/Lehr.lean ====
section
/-! DEFINITION. The lehr (R319-R322): `tmm` and `tmm.red`, its steps with their budget (R25, R26), loads, swaps and streams, and what
the array does within a cycle. -/

namespace Sys2Proof.Machine

/-! ## Issue -/

/-- Fields of the operand words of `tmm` (Table 11.2): MB, NS, CID, s0, A row0, B row0. -/
structure LehrArgs where
  mb : Nat
  ns : Nat
  cid : Nat
  s0 : Nat
  arow : Nat
  brow : Nat
deriving DecidableEq, Repr

def lehrArgs (s : State) (v : View) (a b : Nat) : LehrArgs :=
  let ka := (readK s v.unit a).toNat
  let kb := (readK s v.unit b).toNat
  ⟨fld ka 8 3 + 1, fld ka 16 12, fld ka 28 4, fld ka 32 32, fld kb 0 32, fld kb 32 32⟩

/-- A communicator of the partition of a unit. -/
def commOf (s : State) (part cid : Nat) : Comm := tabGetD (part * 16 + cid) Comm.reset s.comms

def tmmTrap (red : Bool) (w g a b : Nat) (s : State) (v : View) : Option Trap :=
  let x := lehrArgs s v a b
  let ma := mapAt s v a 0
  let mb := mapAt s v a 4
  let n := 2 ^ w
  limitTrap v [(0x01, tilesBad s v.unit ma || tilesBad s v.unit mb), (0x02, g + x.mb * n ≤ 64 && rangeFree s v.unit g (x.mb * n)),
    (0x03, operandBad ma || operandBad mb || !pairAllowed mb.fmt ma.fmt),
    (0x04, operandPasses s v.unit ma (x.arow + 32 * x.mb - 1) (x.s0 + x.ns - 1) ||
      operandPasses s v.unit mb (x.brow + 32 * n - 1) (x.s0 + x.ns - 1)),
    (0x06, pairSpeed s v.unit mb.fmt ma.fmt = 0), (0x07, x.ns = 0 || 64 < g + x.mb * n),
    (0x0F, red && (commOf s (unitPart s v.unit) x.cid).state != 2)]

/-- Tiles in the order of R405: those of the A map, then those of the B map. -/
def tmmTiles (a : Nat) (s : State) (v : View) : List Nat := (mapAt s v a 0).tiles ++ (mapAt s v a 4).tiles

/-- When a step happens: grant of its budget, completion of its load, swap, first and last row entry (R320). -/
structure StepTimes where
  grant : Nat
  loaded : Nat
  swap : Nat
  first : Nat
  last : Nat
deriving DecidableEq, Repr

def stepTimes (m : MatOp) (req quanta after floor : Nat) : StepTimes :=
  let sc := if m.srcB.fmt = 11 then m.base / 32 else 0
  let g := req + 16 * quanta
  let c := g + 11 + sc + m.base / 4
  let w := Nat.max (c + 1) after
  let e := Nat.max w floor
  ⟨g, c, w, e, e + (m.count - 1) * m.f⟩

/-- Quanta of the next recorded budget wait of a core that starts at a cycle (R26, R91). -/
def recordedWait (s : State) (l core req : Nat) : Nat → Nat → Nat
  | 0, _ => 0
  | fuel + 1, idx =>
    match launchOf s l with
    | none => 0
    | some x =>
      match x.entry s idx with
      | none => 0
      | some e =>
        if fld e 56 8 = 7 && fld e 0 32 = core && e / 2 ^ 64 = req - x.capStart + 16 * fld e 32 12 then Nat.min 32 (fld e 32 12)
        else recordedWait s l core req fuel (idx + 1 + (if fld e 56 8 = 0x0A then fld e 32 12 else if fld e 56 8 = 1 then 4 else 0))

/-- Quanta that a request waits when some are refused at least, with the oldest of the requests that wait served first (R26): none is granted
while a step that asked before it still waits. -/
def oldestFirst (asks : List (Nat × Nat)) (req : Nat) : Nat → Nat → Nat
  | 0, q => Nat.min 32 q
  | fuel + 1, q => if asks.any fun (r, g) => r < req && req + 16 * q < g then oldestFirst asks req fuel (q + 1) else Nat.min 32 q

/-- Quanta a step's request at a cycle is refused (R25, R26): at most 32. -/
def drawQuanta (s : State) (m : MatOp) (req : Nat) : Nat × State :=
  let l := unitLaunchId s m.unit
  if replays s l then (((launchOf s l).map fun x => recordedWait s l m.core req x.entries x.capIdx).getD 0, s)
  else
    let asks := s.matOps.flatMap fun x => x.2.asks
    match s.quanta with
    | [] => (oldestFirst asks req 32 0, s)
    | q :: r => (oldestFirst asks req 32 (Nat.min 32 q), { s with quanta := r })

/-- The steps to come, each with its refusals: state, refusals by step, requests with their grants, and the times of the last one. -/
def planSteps (m : MatOp) : Nat → State → Nat → Nat → Nat → List Nat → List (Nat × Nat) → StepTimes →
    State × List Nat × List (Nat × Nat) × StepTimes
  | 0, s, _, _, _, qs, asks, t => (s, qs, asks, t)
  | n + 1, s, req, after, floor, qs, asks, _ =>
    let (q, s1) := drawQuanta s m req
    let t := stepTimes m req q after floor
    planSteps m n s1 t.swap (t.last + 1) (t.last + m.f) (qs ++ [q]) (asks ++ [(req, t.grant)]) t

/-- The order of the array as work issued so far leaves it: `mldEnd`, `swapAt`, `entryAt`, `fmtAct`, `fmtSh`. -/
def arrayOrder (k : Core) : List Nat := [k.mldEnd, k.swapAt, k.entryAt, k.fmtAct, k.fmtSh]

/-- The array as it stands once a lehr's steps from a request on are over. -/
def reserveSteps (s : State) (core : Nat) (pairs : List (Nat × Nat)) (steps : Nat) (t : StepTimes) (fmt : Nat) : State :=
  let s1 := modCore s core fun k =>
    { k with mldEnd := t.loaded + 1, swapAt := t.swap, entryAt := t.last + 1
             fmtAct := fmt, fmtSh := if steps = 1 then k.fmtAct else fmt }
  markPairs s1 core pairs (t.last + 12)

/-- The next request of a lehr for its budget (R320): refused while quanta of its step are left. -/
def requestStep (s : State) (id at_ : Nat) (m : MatOp) : State :=
  schedule (modMat s id fun x => { x with start := at_, waited := 0 }) at_
    (if nth m.quanta m.step 0 = 0 then .lehrStep else .budgetRetry) (.of [id])

def startTmm (red : Bool) (l w g a b : Nat) (s : State) (v : View) : State :=
  let x := lehrArgs s v a b
  let ma := mapAt s v a 0
  let mb := mapAt s v a 4
  let n := 2 ^ w
  let k := coreOf s v.core
  let f := factorOf (pairSpeed s v.unit mb.fmt ma.fmt)
  let blocks := (List.range x.mb).map fun i => pairsOf s v (g + i * n) n
  let req := Nat.max s.now (Nat.max k.mldEnd k.swapAt)
  let after := k.entryAt
  let floor := Nat.max (entryFree k f) (pairsFree s v.core blocks.flatten - 12)
  let m0 : MatOp :=
    { MatOp.mk' s v 6 req 0 with
      f := f, src := sourceOf s v.unit ma x.arow, srcB := sourceOf s v.unit mb x.brow, slice := x.s0, base := 32 * n, count := 32 * x.mb
      tiles := ma.tiles ++ mb.tiles, ns := x.ns, after := after, floor := floor, cid := x.cid
      dest := if red then (readK s v.unit (b + 1)).toNat else 0, red := red, flags := mixFlag s v (ma.tiles ++ mb.tiles) }
  let (s1, qs, asks, t) := planSteps m0 x.ns (takeLease s v) req after floor [] [] ⟨0, 0, 0, 0, 0⟩
  let s2 := reserveSteps s1 v.core blocks.flatten x.ns t mb.fmt
  let (s3, id) := openReq (touchRange s2 v g (x.mb * n)) (Req.mk' s v (some l) (.matrix 0 []) 0)
  let m := { m0 with
    quanta := qs, readEnd := t.last, blocks := blocks, asks := asks, plan := arrayOrder (coreOf s2 v.core), made := arrayOrder k }
  requestStep { s3 with matOps := tabPut id m s3.matOps } id req m

def tmmOp (red : Bool) (l w g b a : Nat) : ArrayOp :=
  ⟨tmmTrap red w g a b, tmmTiles a, true, l, startTmm red l w g a b⟩

def execTmm (l w : BitVec 2) (g b a : BitVec 6) (sw : BitVec 1) (s : State) : Host.Outcome State Fault Refusal :=
  let x := tmmOp false l.toNat w.toNat g.toNat b.toNat a.toNat
  issuePre (.tmm l w g b a sw) s x.trap x.pre (plain x.act)

def execTmmRed (l w : BitVec 2) (g b a : BitVec 6) (sw : BitVec 1) (s : State) : Host.Outcome State Fault Refusal :=
  let x := tmmOp true l.toNat w.toNat g.toNat b.toNat a.toNat
  issuePre (.tmmRed l w g b a sw) s x.trap x.pre (plain x.act)

/-! ## Steps -/

/-- BQ of a warp grows by refusals, saturating (R24). -/
def addBudget (w : Warp) (n : Nat) : Warp :=
  { w with stallw := BitVec.ofNat 32 (Nat.min 4095 (w.stallw.toNat / 2 ^ 20 + n) * 2 ^ 20 + w.stallw.toNat % 2 ^ 20) }

/-- A lehr whose request falls in this cycle; a halted unit makes none (R321). -/
def lehrDue (s : State) : Option (Nat × MatOp) :=
  match s.subj with
  | .of [id] =>
    match tabGet id s.matOps with
    | some m =>
      if m.kind = 6 && m.step < m.ns && m.start + 16 * m.waited ≤ s.now && !(unitOf s m.unit).any (·.halted) then some (id, m) else none
    | none => none
  | _ => none

/-- A refusal (R25): one more quantum is waited. -/
def refuseStep (s : State) (id : Nat) (m : MatOp) : State :=
  let s1 := match m.gid with
    | .warp c w => modWarp s c w fun x => if x.serial = m.serial then addBudget x 1 else x
    | .kindle .. => s
  let n := m.waited + 1
  schedule (modMat s1 id fun x => { x with waited := n }) (s.now + 16)
    (if n < nth m.quanta m.step 0 then .budgetRetry else .lehrStep) (.of [id])

def execBudgetRetry (s : State) : Host.Outcome State Fault Refusal :=
  match lehrDue s with
  | some (id, m) => .next (if m.waited < nth m.quanta m.step 0 then refuseStep s id m else s)
  | none => .next s

/-- A part of a step, under a number of its own. -/
def addPart (s : State) (due : Nat) (i : Instr) (m : MatOp) : State :=
  let (id, s1) := freshNat s
  schedule { s1 with matOps := tabPut id m s1.matOps } due i (.of [id])

/-- What a lehr that is over does: its slot returns, or the collective part begins (R322). -/
def closeLehr (s : State) (id : Nat) : State :=
  match tabGet id s.matOps with
  | none => s
  | some m =>
    if (s.matOps.any fun (_, x) => x.parent = some id) || (m.step < m.ns && m.bad.isNone) then s
    else if m.bad.isSome then
      endMat s id { m with stop := matPoison m ((m.waited + 1) * 2 ^ 16) } 0 []
    else if m.red then modMat s id fun x => { x with kind := 10, start := s.now }
    else endMat s id m 0 []

/-- A granted step: its load, its swap and its stream begin, and the next request is to come at the swap (R319, R320). -/
def runStep (s : State) (id : Nat) (m : MatOp) : State :=
  let t := stepTimes m s.now 0 m.after m.floor
  let s0 := if m.waited = 0 then s else capture s (unitLaunchId s m.unit) 7 (clusterOf m.core) m.waited m.core
  let part : MatOp := { m with parent := some id, tiles := [], quanta := [], flags := 0, bad := none, step := m.step, red := false }
  let sc := if m.srcB.fmt = 11 then m.base / 32 else 0
  let s1 := addPart s0 t.loaded .stationaryLoadComplete
    { part with kind := 0, start := s.now, due := t.loaded, f := sc, src := m.srcB, slice := m.slice + m.step, base := 0, count := m.base, blocks := [] }
  let s2 := addPart s1 t.swap .planeSwap { part with kind := 1, start := t.swap, due := t.swap, blocks := [] }
  let s3 := addPart s2 (t.last + 12) .streamComplete
    { part with kind := 3, start := t.first, due := t.last + 12, slice := m.slice + m.step }
  let m1 := { m with step := m.step + 1, after := t.last + 1, floor := t.last + m.f, waited := 0
                     blocks := m.blocks.map fun r => r.map fun (_, q) => (q, q)
                     made := [t.loaded + 1, t.swap, t.last + 1, m.srcB.fmt, nth m.made 3 0] }
  let s4 := modMat s3 id fun _ => m1
  if m1.step < m.ns then requestStep s4 id t.swap m1 else s4

def execLehrStep (s : State) : Host.Outcome State Fault Refusal :=
  match lehrDue s with
  | some (id, m) => .next (if m.waited < nth m.quanta m.step 0 then s else if m.bad.isSome then s else runStep s id m)
  | none => .next s

/-- The steps of a lehr that are not made after all, at a halt or once one has met poison: what is issued next does not wait for them (R321,
R389). What was issued after the lehr and planned behind them keeps its times. -/
def unplan (s : State) (id : Nat) : State :=
  match tabGet id s.matOps with
  | none => s
  | some m =>
    if m.kind != 6 || m.step = m.ns then s
    else
      let ends := (if m.step = 0 then Nat.max m.after m.floor else m.after) + 11
      let same (k : Core) (i : Nat) : Bool := nth (arrayOrder k) i 0 == nth m.plan i 0
      let back (t : Tab Nat) : Tab Nat := (m.blocks.flatten.flatMap fun (p, q) => [p, q]).foldl (fun a p =>
        if tabGetD p 0 a = m.readEnd + 12 then tabPut p ends a else a) t
      modMat (modCore s m.core fun k =>
        let pick (i old : Nat) (ok : Bool) : Nat := if ok then nth m.made i 0 else old
        { k with mldEnd := pick 0 k.mldEnd (same k 0), swapAt := pick 1 k.swapAt (same k 1), entryAt := pick 2 k.entryAt (same k 2)
                 fmtAct := pick 3 k.fmtAct (same k 0 && same k 1), fmtSh := pick 4 k.fmtSh (same k 0 && same k 1)
                 gwr := back k.gwr, grd := back k.grd }) id fun x =>
        { x with asks := [], readEnd := if m.step = 0 then 0 else m.after - 1 }

/-- Poison found by a part of a step is found by the lehr, in that step. -/
def tellLehr (s : State) (m : MatOp) (bad : Option Nat) : State :=
  match m.parent, bad with
  | some p, some a =>
    match tabGet p s.matOps with
    | some x =>
      if x.bad.isSome && x.waited ≤ m.step then s
      else
        let s1 := unplan { s with agenda := s.agenda.filter fun t => !((t.i = .lehrStep || t.i = .budgetRetry) && t.subj = .of [p]) } p
        modMat s1 p fun y => { y with bad := some a, waited := m.step, ns := y.step }
    | none => s
  | _, _ => s

/-- The step in which the lehr of a part met poison, when it lies before the part's own step (R389). -/
def abandoned (s : State) (m : MatOp) : Bool :=
  match m.parent with
  | some p => (tabGet p s.matOps).any fun x => x.bad.isSome && x.waited < m.step
  | none => false

/-! ## Ends of swaps and streams -/

/-- The planes change places, or the lease goes (R310). -/
def swapNow (s : State) (m : MatOp) : State :=
  if m.kind = 1 then modPlanes s m.core m.unit m.gen fun (a, h) => (h, a)
  else if m.kind != 2 then s
  else if (savedPlanes s m.core m.unit m.gen).isSome then modCtx s m.gen fun c => { c with planes := tabDel m.core c.planes }
  else modCore s m.core fun k => if k.lease = some m.unit then { k with lease := none } else k

def execPlaneSwap (s : State) : Host.Outcome State Fault Refusal :=
  match matDue s [1, 2, 11] with
  | none => .next s
  | some (id, m) =>
    match m.parent with
    | none => .next (endMat (swapNow s m) id m 0 [])
    | some p =>
      if abandoned s m then
        -- the parts of the step end without effect
        .next (closeLehr { s with matOps := s.matOps.filter fun (_, x) => !(x.parent = some p && x.step = m.step) } p)
      else .next (closeLehr (endMat (swapNow s m) id m 0 []) p)

def execStreamComplete (s : State) : Host.Outcome State Fault Refusal :=
  match matDue s [3] with
  | none => .next s
  | some (id, m) =>
    match m.parent with
    | none => .next (finishStream s id m)
    | some p => .next (closeLehr (finishStream s id { m with bad := none }) p)

/-! ## The array within a cycle -/

/-- Reads of one piece of work in this cycle, and writes that fall in it. -/
def actMat (s : State) (id : Nat) : State :=
  match tabGet id s.matOps with
  | none => s
  | some m =>
    match m.kind with
    | 0 => let x := actLoad s m; tellLehr (modMat s id fun _ => x) m x.bad
    | 3 => let (s1, x) := actStream s m; tellLehr (modMat s1 id fun _ => x) m x.bad
    | 5 => let (s1, x) := actStat s m; modMat s1 id fun _ => x
    | 7 => zeroNow s m
    | 9 => actGranules s id m
    | _ => s

def actArray (s : State) : State := (s.matOps.map (·.1)).foldl actMat s

/-- At the resume of a unit its lehrs ask for their next step from a cycle on, and the array is reserved anew (R321). -/
def resumeLehrs (s : State) (u at_ : Nat) : State :=
  (s.matOps.filter fun (_, m) => m.kind = 6 && m.unit = u && m.step < m.ns).foldl (fun a (id, m) =>
    if a.agenda.any fun t => (t.i = .lehrStep || t.i = .budgetRetry) && t.subj = .of [id] then a
    else
      let after := (coreOf a m.core).entryAt
      let floor := entryFree (coreOf a m.core) m.f
      let (a1, qs, asks, t) := planSteps m (m.ns - m.step) a at_ after floor [] [] ⟨0, 0, 0, 0, 0⟩
      let a2 := reserveSteps a1 m.core m.blocks.flatten (m.ns - m.step) t m.srcB.fmt
      let m1 := { m with
        quanta := List.replicate m.step 0 ++ qs, after := after, floor := floor, readEnd := t.last, asks := asks
        plan := arrayOrder (coreOf a2 m.core), made := arrayOrder (coreOf a m.core) }
      requestStep (modMat a2 id fun _ => m1) id at_ m1) s

end Sys2Proof.Machine
end

