-- ==== Sys2Proof/Machine/Engines.lean ====
section
/-! DEFINITION. Copy engines: `cpy`, `gth`, `sct` and the copies of packets (R282-R288, R410, R411, R423), their release and completion
(R142, R285) and the follow-on (R143, R287, R406). -/

namespace Sys2Proof.Machine

/-! ## Engines and control words (Table 10.4) -/

/-- The engine of a core (R102, R284). -/
def engineOf (core : Nat) : Nat := dieOf core * 4 + clusterOf core % 12 % 4
def engineAt (s : State) (e : Nat) : Engine := tabGetD e Engine.reset s.engines
def modEngine (s : State) (e : Nat) (f : Engine → Engine) : State := { s with engines := tabPut e (f (engineAt s e)) s.engines }

/-- The engine of a command: copies of packets take engine die × 4 (R339). -/
def Cmd.engine (c : Cmd) : Nat := if c.pkt.isSome then dieOf c.core * 4 else engineOf c.core

/-- Bits of PRES that this part defines for a command (R283). -/
def definedBits (op : Nat) : Nat := if op = 0 then 7 else 3
def Cmd.pres (c : Cmd) : Nat := fld c.ctl.toNat 56 4
/-- An optional field is present and defined: 0 completion write, 1 event flag, 2 follow-on. -/
def Cmd.uses (c : Cmd) (i : Nat) : Bool := bit c.pres i && bit (definedBits c.op) i
/-- Release and acquire flags and release scope; a `coll.set` has none, and its bits are ignored (R6, R283). -/
def Cmd.rel (c : Cmd) : Bool := c.op != 3 && bit c.ctl.toNat 48
def Cmd.rscope (c : Cmd) : Nat := if c.op = 3 then 0 else fld c.ctl.toNat 49 3
def Cmd.takes (c : Cmd) : Bool := c.op != 3 && bit c.ctl.toNat 44
def Cmd.dtile (c : Cmd) : Bool := c.op ≤ 1 && bit c.ctl.toNat 43
def Cmd.stile (c : Cmd) : Bool := (c.op == 0 || c.op == 2) && bit c.ctl.toNat 42
def Cmd.length (c : Cmd) : Nat := if c.pkt.isSome then c.w3.toNat else fld c.ctl.toNat 0 32
/-- Bytes of an index, and of a row. -/
def Cmd.entry (c : Cmd) : Nat := if bit c.ctl.toNat 41 then 8 else 4
def Cmd.row (c : Cmd) : Nat := 32 * (fld c.ctl.toNat 32 9 + 1)
def Cmd.cid (c : Cmd) : Nat := fld c.ctl.toNat 40 4
/-- The communicator of a command in the table of communicators. -/
def Cmd.comm (c : Cmd) : Nat := c.part * 16 + c.cid
/-- The tile that is the source. -/
def Cmd.sourceTile (c : Cmd) : Nat := if c.op = 2 then c.dst % 256 else c.src % 256
def Cmd.destTile (c : Cmd) : Nat := c.dst % 256

/-! ## Issue -/

/-- Requests of the issuing threads that an acquire waits for (R270, R285). -/
def openAccesses (s : State) (v : View) : List Nat :=
  (s.reqs.filter fun (_, q) => madeBy s v q && (q.isLoad || q.isStore)).map (·.1)

/-- A command as it is issued. -/
def newCmd (s : State) (v : View) (op l ka kb kc : Nat) : Cmd :=
  let k (i : Nat) : DWord := readK s v.unit (ka + i)
  { op := op, gid := v.gid, serial := v.serial, unit := v.unit, launch := unitLaunchId s v.unit, part := unitPart s v.unit
    gen := unitGen s v.unit, core := v.core, slot := l, lanes := maskOf v.act, ipc := v.pc, ctl := k 0, w1 := k 1, w2 := k 2, w3 := k 3
    src := (readK s v.unit kb).toNat, dst := (readK s v.unit kc).toNat, issued := s.now
    acq := if op != 3 && bit (k 0).toNat 44 then openAccesses s v else [], nextRow := 0, lost := 0, phase := 0, lines := [], rest := [], readEnd := 0, doneAt := 0, tile := none
    stamp := 0, trap := none, follow := if op = 0 && bit (k 0).toNat 58 then some (fld (k 3).toNat 28 2) else none, pkt := none
    noEvents := false, values := [] }

/-- A command enters the queue of its engine. -/
def enqueue (s : State) (c : Cmd) : State × Nat :=
  let (id, s1) := freshNat s
  (modEngine { s1 with cmds := tabPut id c s1.cmds } c.engine fun e => { e with queue := e.queue ++ [id] }, id)

/-- PMASK of a `cpy` that carries a follow-on (R404). -/
def cpyTrap (op ka : Nat) (s : State) (v : View) : Option Trap :=
  if op = 0 && bit (readK s v.unit ka).toNat 58 && v.act != vlanes s v then some (precise v cPmask (maskOf v.act).toNat) else none

/-- A full queue, or a source tile that is not ready (R105, R284, R286). -/
def cmdPre (op ka kb kc : Nat) (s : State) (v : View) : Option Did :=
  let c := newCmd s v op 0 ka kb kc
  let t := c.sourceTile
  if 64 ≤ (engineAt s c.engine).queue.length then some (.wait s (s.now + 1))
  else if c.stile && t < unitTiles s v.unit && tileState s v.unit t != 2 then some (.wait s (s.now + 1))
  else none

/-- A command is queued; one whose source is a tile acquires what its fill released (R132, R286). -/
def queueCmd (op l ka kb kc : Nat) (s0 : State) (v : View) : State :=
  let c := newCmd s0 v op l ka kb kc
  let s := if c.stile && c.sourceTile < unitTiles s0 v.unit then acquireLanes s0 v (obTile v.unit c.sourceTile) false else s0
  let (s1, id) := enqueue s c
  let s2 := slotAdd s1 v.gid l
  let s3 := match c.follow with | some n => slotAdd s2 v.gid n | none => s2
  if c.takes then v.act.foldl (fun a x => release a v.unit (agentOf s v x) (obCmd id) true) s3 else s3

def engineCmd (i : Instr) (op l ka kb kc : Nat) (s : State) : Host.Outcome State Fault Refusal :=
  issuePre i s (cpyTrap op ka) (cmdPre op ka kb kc) (plain (queueCmd op l ka kb kc))

def execCpy (l : BitVec 2) (c b a : BitVec 6) (sw : BitVec 1) (s : State) : Host.Outcome State Fault Refusal :=
  engineCmd (.cpy l c b a sw) 0 l.toNat a.toNat b.toNat c.toNat s

def execGth (l : BitVec 2) (c b a : BitVec 6) (sw : BitVec 1) (s : State) : Host.Outcome State Fault Refusal :=
  engineCmd (.gth l c b a sw) 1 l.toNat a.toNat b.toNat c.toNat s

def execSct (l : BitVec 2) (c b a : BitVec 6) (sw : BitVec 1) (s : State) : Host.Outcome State Fault Refusal :=
  engineCmd (.sct l c b a sw) 2 l.toNat a.toNat b.toNat c.toNat s

def execCollSet (l : BitVec 2) (c b a : BitVec 6) (sw : BitVec 1) (s : State) : Host.Outcome State Fault Refusal :=
  engineCmd (.collSet l c b a sw) 3 l.toNat a.toNat b.toNat c.toNat s

def execCollRun (l : BitVec 2) (c b a : BitVec 6) (sw : BitVec 1) (s : State) : Host.Outcome State Fault Refusal :=
  engineCmd (.collRun l c b a sw) 4 l.toNat a.toNat b.toNat c.toNat s

/-- Status word of a communicator (R292). -/
def statusWord (c : Comm) : Nat :=
  c.nrank % 65536 * 2 ^ 48 + c.rank % 65536 * 2 ^ 32 + c.contract % 16 * 2 ^ 28 + c.fmt % 16 * 2 ^ 24 + c.state % 16 * 2 ^ 20 + c.runs % 65536

def execCollStat (l : BitVec 2) (c a : BitVec 6) (sw : BitVec 1) (s : State) : Host.Outcome State Fault Refusal :=
  issue (.collStat l c a sw) s noTrap (plain fun s v =>
    let w := statusWord (commOf s (unitPart s v.unit) (fld (readK s v.unit a.toNat).toNat 0 4))
    sendReq s (Req.mk' s v (some l.toNat) (.kval c.toNat (BitVec.ofNat 64 w)) (s.now + 8)) .loadReturn)

/-! ## Ends of lines -/

/-- An end of a line before its translation: an address, bytes of a tile in the issuing core's store, or none. -/
inductive LineEnd where
  | va (a : Nat)
  | store (a : Nat)
  | none
deriving DecidableEq, Repr

def LineEnd.plus (e : LineEnd) (n : Nat) : LineEnd :=
  match e with
  | .va a => .va ((a + n) % 2 ^ 64)
  | .store a => .store (a + n)
  | .none => .none

def LineEnd.addr : LineEnd → Nat
  | .va a => a
  | .store a => a
  | .none => 0

def Spot.plus (p : Spot) (n : Nat) : Spot :=
  match p with
  | .mem q va ord => .mem (q.plus n) (va + n) ord
  | .store c a => .store c (a + n)
  | .gran c u g off => .gran c u g (off + n)
  | .none => .none

/-- The issuing threads as a command acts for them; a packet's copy acts for no core. -/
def cmdView (s : State) (c : Cmd) : View :=
  let v := viewThen s c.gid c.serial c.unit c.core c.lanes c.ipc
  if c.pkt.isSome then { v with core := Config.cores } else v

/-- What stands behind an end, with the cycles of its path (Table 10.2); the cause of Table 17.2 otherwise, or OWN for a checked
write (R296). -/
def endSpot (s : State) (c : Cmd) (e : LineEnd) (len : Nat) (w own : Bool) : Except Nat (Spot × Nat) :=
  let v := cmdView s c
  match e with
  | .none => .ok (.none, 0)
  | .store a => .ok (.store c.core a, Config.latWindow)
  | .va va =>
    if va < 0x4000000 then
      match aperturePlace v va with
      | some (k, a, _) =>
        if c.pkt.isNone && regionHeld s v k a len then .ok (.store k a, Config.latWindow) else .error cAccess
      | none => .error cAccess
    else
      match (walk s c.gen va).1 with
      | .miss _ => .error cPage
      | .hit x =>
        -- a host page whose request was refused (R339, R423)
        if x.host && hostRefused s c.gen va then .error cPage else
        match accessCause s x va (!w) w with
        | some n => .error n
        | none =>
          if own && isDeterm s c.unit && !ownsRange s c.unit va len then .error cOwn
          else .ok (.mem (xlPlace s x va) va x.ord, pathCycles s (dieOf c.core) (xlPlace s x va))

/-- Stamp of the page of an address (R166). -/
def stampAt (s : State) (gen : Nat) (e : LineEnd) : Nat :=
  match e with
  | .va a =>
    if a < 0x4000000 then 0
    else match (walk s gen a).1 with
      | .hit x => x.stamp
      | .miss _ => 0
  | _ => 0

/-- Where a tile's bytes are. -/
def tileEnd (s : State) (c : Cmd) (t : Nat) : LineEnd := .store (tileAddr s c.unit (tileNow s c.unit t))

def Cmd.sourceEnd (s : State) (c : Cmd) : LineEnd :=
  if c.stile then tileEnd s c c.sourceTile else .va (if c.op = 2 then c.dst else c.src)
def Cmd.destEnd (s : State) (c : Cmd) : LineEnd := if c.dtile then tileEnd s c c.destTile else .va c.dst

/-! ## Plans of lines (R284) -/

/-- A line to be requested: the number TRAPAUX takes when it faults, its ends, its length, and a first cycle. -/
structure Job where
  aux : Nat
  src : LineEnd
  dst : LineEnd
  len : Nat
  from_ : Nat
deriving DecidableEq, Repr

/-- Lines planned so far, the next cycle for a request, and the fault at which the plan stops as cause, TRAPAUX and address. -/
structure Plan where
  lines : List Line
  next : Nat
  fault : Option (Nat × Nat × Nat)
deriving DecidableEq, Repr

/-- A job joins the plan, its destination cut where a page ends. -/
def planJob (s : State) (c : Cmd) (p : Plan) (j : Job) : Plan :=
  match p.fault with
  | some _ => p
  | none =>
    let at_ := Nat.max p.next j.from_
    match endSpot s c j.src j.len false false with
    | .error e => { p with next := at_, fault := some (e, j.aux, j.src.addr) }
    | .ok (a, lr) =>
      let parts : List (Nat × Nat) := match j.dst with
        | .va b => (pageCuts b j.len).map fun (x, k) => (x - b, k)
        | _ => [(0, j.len)]
      let ends : List (Nat × Nat × Except Nat (Spot × Nat)) := parts.map fun (o, k) => (o, k, endSpot s c (j.dst.plus o) k true true)
      let wrong := ends.findSome? fun (o, _, r) => match r with | .error e => some (e, (j.dst.plus o).addr) | .ok _ => Option.none
      match wrong with
      | some (e, x) => { p with next := at_, fault := some (e, j.aux, x) }
      | none =>
        { p with
          lines := p.lines ++ ends.filterMap fun (o, k, r) => match r with
            | .ok (b, lw) => some (lineAt at_ (a.plus o) (lr + Config.round * c.lost) b lw k)
            | .error _ => none
          next := at_ + 1 }

def planJobs (s : State) (c : Cmd) (next : Nat) (jobs : List Job) : Plan := jobs.foldl (planJob s c) ⟨[], next, none⟩

/-- Where an address lies, for the test of overlap: its core's store, or translated memory. -/
def endKey (s : State) (c : Cmd) (e : LineEnd) : Option Nat × Nat :=
  match e with
  | .store a => (some c.core, a)
  | .va a =>
    if a < 0x4000000 then
      match aperturePlace (cmdView s c) a with
      | some (k, x, _) => (some k, x)
      | none => (none, a)
    else (none, a)
  | .none => (none, 0)

/-- The pieces of a copy, descending when the ranges overlap and the destination lies higher (R286). -/
def copyJobs (s : State) (c : Cmd) : List Job :=
  let (a, b) := (c.sourceEnd s, c.destEnd s)
  let jobs := (lineCuts a.addr c.length).map fun (x, k) =>
    (⟨x - a.addr, a.plus (x - a.addr), b.plus (x - a.addr), k, 0⟩ : Job)
  let (ka, kb) := (endKey s c a, endKey s c b)
  if ka.1 = kb.1 && ka.2 < kb.2 && kb.2 < ka.2 + c.length then jobs.reverse else jobs

/-- The lines of an index list, or of the source of a reduction; TRAPAUX counts units of a size. -/
def listJobs (base n unit : Nat) : List Job :=
  (lineCuts base n).map fun (x, k) => ⟨(x - base) / unit, .va x, .none, k, 0⟩

/-- Rows of `gth` and `sct` from the indices read (R288): row number, and the index, all ones for none. -/
def rowJobs (s : State) (c : Cmd) (index : List (Nat × Nat × Nat)) : List Job :=
  let b := c.row
  index.flatMap fun (i, x, from_) =>
    let side := (if c.op = 1 then c.destEnd s else c.sourceEnd s).plus (i * b)
    let far : LineEnd := .va ((c.w3.toNat + x * b) % 2 ^ 64)
    if x = 2 ^ (8 * c.entry) - 1 then
      if c.op = 1 then (lineCuts side.addr b).map fun (y, k) => ⟨i, .none, side.plus (y - side.addr), k, from_⟩ else []
    else
      let (p, q) := if c.op = 1 then (far, side) else (side, far)
      (lineCuts p.addr b).map fun (y, k) => ⟨i, p.plus (y - p.addr), q.plus (y - p.addr), k, from_⟩

/-- A command as an agent of the scope tests (R140): a packet's copy is a front end's. -/
def cmdParty (s : State) (c : Cmd) : Party := if c.pkt.isSome then frontParty s else partyOf s (cmdView s c) 1 (lanesOf c.lanes)

/-- A write of a command to memory as the vector-clock unit sees it: plain, or on an SO page a release (R132). -/
def clockEngine (s : State) (id : Nat) (c : Cmd) (key n ord : Nat) : State :=
  if ord != 1 then clockWrite s c.unit (agCmd id) key n
  else (wordsIn key n).foldl (fun t w => releaseAt (dropRels t w) c.unit (agCmd id) w 4 (cmdParty s c) false) s

/-- The accesses of lines as the vector-clock unit sees them (R133, R138). -/
def clockPlan (s : State) (id : Nat) (c : Cmd) (ls : List Line) : State :=
  if !clocksOn s c.unit then s
  else
    let lane := (lanesOf c.lanes).headD 0
    let look (a : State) (sp : Spot) (n kind : Nat) : State :=
      match sp with
      | .mem p va ord =>
        let b := raceCheck a c.unit (agCmd id) c.ipc.toNat (lidOf a c.unit) lane kind va p.key n (ord == 2)
        if kind = 3 then clockEngine b id c p.key n ord else b
      | _ => a
    ls.foldl (fun a l => look (look a l.src l.len 5) l.dst l.len 3) s

/-! ## Ends of commands -/

/-- The threads that issued a command, if their warp is still there. -/
def cmdOwner (s : State) (c : Cmd) : Option View := (view s c.gid).filter fun v => v.serial = c.serial

/-- A deferred trap of a command (R376, R410, R423). -/
def cmdTrap (c : Cmd) (code aux addr : Nat) : Trap :=
  { word := causeWord code true false, aux := BitVec.ofNat 32 aux, ret := 0, ipc := c.ipc, faddr := BitVec.ofNat 64 addr, lanes := c.lanes }

/-- A slot of a command returns, with a deferred condition or without; in a halt of its context, after the resume (R85). -/
def slotBack (s : State) (c : Cmd) (v : View) (slot : Nat) (t : Option Trap) : State :=
  if returnsLater s c.unit c.gen then keepReturn s { Req.mk' s v (some slot) .nothing s.now with lanes := c.lanes, ipc := c.ipc, fault := t }
  else
    let s1 := slotSub s c.gid slot
    match t with
    | some x => addDeferred s1 v slot x
    | none => s1

/-- A command is over: its slot returns, and that of a follow-on it still carries (R285, R410); a packet's copy completes its packet. -/
def returnCmd (s : State) (id : Nat) (c : Cmd) (t : Option Trap) : State :=
  let s1 := { s with cmds := tabDel id s.cmds }
  match c.pkt with
  | some (fn, q, i) =>
    let s2 := match t with
      | some _ => modCq s1 fn q fun x => { x with taken := tabMod i (fun p => { p with status := 1 }) x.taken }
      | none => s1
    schedule s2 s2.now .packetComplete (.of [fn, q, i])
  | none =>
    match cmdOwner s1 c with
    | none => s1
    | some v =>
      let s2 := slotBack s1 c v c.slot t
      let s3 := match c.follow with | some n => slotBack s2 c v n none | none => s2
      -- the marker or wait that observes the return acquires (R142)
      if c.rel && t.isNone then modRun s3 c.gid fun r => { r with acqs := r.acqs ++ [⟨c.slot, c.rscope, obDone id, c.lanes⟩] }
      else s3

/-- The event flag is set, and the slot returns (R285). -/
def flagCmd (s : State) (id : Nat) (c : Cmd) : State :=
  let s1 := if c.uses 1 && !c.noEvents && c.pkt.isNone then setEventFlag s c.part (fld c.w2.toNat 32 6) true else s
  returnCmd s1 id c none

/-- The completion write is issued (R285): it follows the release, which it carries on its line (R139, R142). -/
def completionWrite (s : State) (id : Nat) (c : Cmd) : State :=
  let cwa := c.w1.toNat
  match endSpot s c (.va cwa) 4 true false with
  | .error e => returnCmd s id c (some (cmdTrap c e 0xFFFFFFFF cwa))
  | .ok (sp, path) =>
    let bytes := bytesOf 4 (fld c.w2.toNat 0 32)
    let s1 := match sp with
      | .mem p va ord =>
        let a := writeSpot s (cmdView s c) c.gen c.part (lanesOf c.lanes) 1 (.mem p va ord) bytes []
        if !c.rel then clockEngine a id c p.key 4 ord
        else
          let scope := Nat.max c.rscope (if ord = 1 then soScope p else 0)
          (wordsIn p.key 4).foldl (fun t w => releaseAt (dropRels t w) c.unit (agCmd id) w scope (cmdParty s c) true)
            (recordRelease a (cmdParty s c) p 4 scope)
      | _ => s
    let late := match sp with
      | .store .. => [({ reqAt := s.now, readAt := 0, writeAt := s.now + path, ackAt := s.now + path, src := .none, dst := sp, len := 4
                         bytes := bytes, bad := [] } : Line)]
      | _ => []
    modCmd s1 id fun x => { x with phase := 2, lines := late, doneAt := s.now + path }

/-! ## Follow-on commands (R287, R406) -/

/-- The array instruction of a follow-on word: `mld`, `mswp`, `mst`, `tmm` or `tmm.red` with S = 0. -/
def followOp (w : Nat) : Option ArrayOp :=
  if 2 ^ 32 ≤ w then none
  else
    match decode (bytesOf 4 w) with
    | .ok (.mld l n g b a sw, _) => if sw = 0 then some (mldOp l.toNat n.toNat g.toNat b.toNat a.toNat) else none
    | .ok (.mswp l sw, _) => if sw = 0 then some (mswpOp l.toNat) else none
    | .ok (.mst l n g b a sw, _) => if sw = 0 then some (mstOp l.toNat n.toNat g.toNat b.toNat a.toNat) else none
    | .ok (.tmm l n g b a sw, _) => if sw = 0 then some (tmmOp false l.toNat n.toNat g.toNat b.toNat a.toNat) else none
    | .ok (.tmmRed l n g b a sw, _) => if sw = 0 then some (tmmOp true l.toNat n.toNat g.toNat b.toNat a.toNat) else none
    | _ => none

/-- A trap of a follow-on is deferred on its slot (R399, R406). -/
def followTrap (s : State) (id : Nat) (c : Cmd) (t : Trap) : State :=
  let s1 := { s with cmds := tabDel id s.cmds }
  match cmdOwner s1 c with
  | none => s1
  | some v => addDeferred (slotSub s1 c.gid c.slot) v c.slot
      { t with word := causeWord (t.word % 256) true false, ret := 0, ipc := c.ipc, lanes := c.lanes }

/-- A follow-on comes to issue at the array of its core, under the checks and delays of the same instruction of a warp. -/
def tryFollow (s : State) (id : Nat) (c : Cmd) : State :=
  match followOp c.w3.toNat, cmdOwner s c with
  | some op, some v0 =>
    let v := { v0 with act := lanesOf c.lanes, pc := c.ipc }
    match op.trap s v with
    | some t => followTrap s id c t
    | none =>
      let k := coreOf s c.core
      if k.firstUse.isSome then s
      else if k.accown ≠ some c.gen then beginFirstUse s c.core c.unit c.gen
      else
        match op.pre s v with
        | some (.trap t) => followTrap s id c t
        | some (.wait s1 _) => s1
        | some _ => s
        | none => op.act (slotSub { s with cmds := tabDel id s.cmds } c.gid c.slot) v
  | _, _ => { s with cmds := tabDel id s.cmds }

/-- The engine issues the follow-on of a copy, on the slot that counts it. -/
def startFollow (s : State) (id : Nat) (c : Cmd) : State :=
  match c.follow with
  | none => s
  | some n =>
    if !c.uses 2 || c.noEvents then s
    else
      let (f, s1) := freshNat (modCmd s id fun x => { x with follow := none })
      let x : Cmd := { c with op := 8, slot := n, phase := 5, lines := [], tile := none, follow := none, ctl := 0 }
      tryFollow { s1 with cmds := tabPut f x s1.cmds } f x

/-! ## The end of a transfer (R285) -/

/-- The release of a command: what it did is ready for those that acquire from it (R142). -/
def releaseCmd (s : State) (id : Nat) (c : Cmd) : State := if c.rel then release s c.unit (agCmd id) (obDone id) true else s

/-- The last write is acknowledged. -/
def endTransfer (s : State) (id : Nat) (c : Cmd) : State :=
  let s1 := match c.tile with
    | none => s
    | some t =>
      let s0 := setTileState (release s c.unit (agCmd id) (obTile c.unit t) true) c.unit t (if c.trap.isSome then 0 else 2)
      setTile s0 c.unit t (withStamp (tileNow s0 c.unit t) (if c.trap.isSome then 0 else c.stamp))
  match c.trap with
  | some t => returnCmd s1 id c (some t)
  | none =>
    let s2 := startFollow (releaseCmd s1 id c) id c
    let d := { c with follow := if c.uses 2 && !c.noEvents then none else c.follow }
    let s3 := if c.op = 6 then activateMove s2 c.part c.src c.dst c.w3.toNat else s2
    if c.uses 0 && !c.noEvents && c.pkt.isNone then completionWrite s3 id d else flagCmd s3 id d

/-- The transfer of a command is over in this cycle. -/
def transferOver (s : State) (c : Cmd) : Bool :=
  c.phase == 1 && c.rest.isEmpty && c.doneAt ≤ s.now && c.lines.all fun l => l.ackAt ≤ s.now

def execEngineTransferEnd (s : State) : Host.Outcome State Fault Refusal :=
  match s.subj with
  | .of [id] =>
    match tabGet id s.cmds with
    | some c => .next (if transferOver s c then endTransfer s id c else s)
    | none => .next s
  | _ => .next s

/-- The completion write is acknowledged in this cycle. -/
def writeOver (s : State) (c : Cmd) : Bool := c.phase == 2 && c.doneAt ≤ s.now

def execCompletionWriteAck (s : State) : Host.Outcome State Fault Refusal :=
  match s.subj with
  | .of [id] =>
    match tabGet id s.cmds with
    | some c => .next (if writeOver s c then flagCmd s id c else s)
    | none => .next s
  | _ => .next s

/-! ## Refusal (Table 16.5) and the start of reads -/

/-- A tile flag names a tile that is not there or whose entry passes SCRATCH (reason 8). -/
def tileRefused (s : State) (c : Cmd) (t : Nat) : Bool := unitTiles s c.unit ≤ t || tilePasses s c.unit (tileNow s c.unit t)

/-- The member table of a `coll.set` as it stands; none where it cannot be read. -/
def memberNodes (s : State) (c : Cmd) : Option (List Nat) :=
  let n := fld c.ctl.toNat 16 16
  let one (i : Nat) : Option Nat :=
    match endSpot s c (.va (c.src + 2 * i)) 2 false false with
    | .ok (sp, _) => some (natOf (readSpot s c.gen sp 2).1 % 16384)
    | .error _ => none
  (List.range n).foldr (fun i acc => match one i, acc with | some x, some l => some (x :: l) | _, _ => none) (some [])

/-- The reason for which a command is refused, the first of Table 16.5. -/
def refusal (s : State) (c : Cmd) : Option Nat :=
  let w := c.ctl.toNat
  let com := tabGetD c.comm Comm.reset s.comms
  let undefd := (List.range 4).any fun i => bit c.pres i && !bit (definedBits c.op) i && bit (fld w 52 4) i
  let tests : List (Nat × Bool) := [
    (1, fld w 60 4 != 1), (2, undefd), (3, c.uses 2 && (followOp c.w3.toNat).isNone), (4, c.op = 4 && 4 ≤ fld w 36 4),
    (5, c.op = 4 && com.state != 2),
    (8, (c.stile && tileRefused s c c.sourceTile) || (c.dtile && tileRefused s c c.destTile) || (c.op = 2 && bit w 43) ||
      (c.op = 0 && c.dtile && tileSize (tileNow s c.unit c.destTile) < c.length)),
    (9, (c.uses 0 && c.w1.toNat % 4 != 0) ||
      ((c.op = 1 || c.op = 2) && (c.src % c.entry != 0 || c.w3.toNat % c.entry != 0 ||
        (!(c.stile || c.dtile) && c.dst % 32 != 0))) ||
      (c.op = 3 && (c.src % 2 != 0 || c.dst % 16 != 0))),
    (10, (c.op = 3 && (5 ≤ fld w 32 4 || fld w 16 16 = 0 || fld w 16 16 ≤ fld w 0 16 ||
        (memberNodes s c).any fun l => nth l (fld w 0 16) 0 != s.node)) ||
      (c.op = 4 && fld w 36 4 = 1 && fld w 0 32 % Nat.max 1 com.nrank != 0))]
  if c.pkt.isSome then none else (tests.find? (·.2)).map (·.1)

/-- The acquire of a command is over (R285). -/
def acquired (s : State) (c : Cmd) : Bool :=
  !c.takes || (c.acq.all (fun r => (tabGet r s.reqs).isNone) &&
    !s.toStore.any fun h => h.gid = c.gid && h.serial = c.serial && h.store.items.any fun x => inMask c.lanes x.1)

/-- A tile that a command fills at its first read. -/
def Cmd.fills (c : Cmd) : Option Nat := if c.dtile && 0 < c.length then some c.destTile else none

/-- Compaction of a core of an engine is under way, or waits for it (R102). -/
def compacting (s : State) (e : Nat) : Bool := s.cores.any fun (c, k) => engineOf c = e && k.compact.isSome

/-- A copy, gather or scatter of a halted context (Table 3.7). -/
def cmdHalted (s : State) (c : Cmd) : Bool :=
  (c.op ≤ 2 || c.op == 5 || c.op == 6) && ctxStops s c.gen

/-- The head of the queue of an engine, the commands of halted contexts apart, when its reads could begin under R284, its acquire
apart. -/
def engineHead (s : State) (e : Nat) : Option (Nat × Cmd) :=
  let x := engineAt s e
  if !bit s.fnrdyHi.toNat (24 + e) || (s.cmds.any fun (_, c) => c.engine = e && c.phase = 4 && c.op != 4) then none
  else
    match x.queue.filterMap fun id => (tabGet id s.cmds).bind fun c => if cmdHalted s c then none else some (id, c) with
    | [] => none
    | (id, c) :: _ =>
      if Nat.max (c.issued + 8) (x.lastRead + 1) ≤ s.now && !compacting s e &&
          -- the member table of a set-up is read before it is found in order
          !(c.op = 3 && hostWaits s c.gen c.src (2 * fld c.ctl.toNat 16 16)) then some (id, c) else none

/-- A command leaves the queue of its engine; its last read request, if it makes one, is at a cycle. -/
def dequeue (s : State) (id : Nat) (c : Cmd) (last : Option Nat) : State :=
  modEngine s c.engine fun e => { queue := e.queue.filter (· != id), lastRead := last.getD e.lastRead }

/-- Reads of a transfer begin. -/
def beginTransfer (s0 : State) (id : Nat) (c0 : Cmd) : State :=
  let (lost, s) := takeLost s0
  let c := { c0 with lost := lost }
  let list := c.op = 1 || c.op = 2
  let count := fld c.ctl.toNat 0 32
  let jobs := if list then listJobs c.src (count * c.entry) c.entry else copyJobs s c
  let p := planJobs s c s.now jobs
  let s1 := match c.fills with | some t => setTileState s c.unit t 1 | none => s
  let s2 := clockPlan (if c.takes then acquire s1 c.unit (agCmd id) (obCmd id) true else s1) id c p.lines
  let d := { c with
    phase := if list && count != 0 && p.fault.isNone then 4 else 1, lines := p.lines, tile := c.fills
    stamp := if list then 0 else stampAt s c.gen (c.sourceEnd s), readEnd := maxOf (p.lines.map (·.readAt))
    doneAt := if p.fault.isSome then p.next else s.now, trap := p.fault.map fun (e, x, a) => cmdTrap c e x a }
  dequeue (modCmd s2 id fun _ => d) id c (if p.lines.isEmpty then none else some (p.next - 1))

/-- Every line planned so far has been read by the end of this cycle. -/
def listRead (s : State) (c : Cmd) : Bool := c.rest.isEmpty && !cmdHalted s c && c.lines.all fun l => l.readAt ≤ s.now

/-- Entries of an index list whose lines have been read, from the next row on: row, index, and the cycle in which the line returned. -/
def indices (c : Cmd) : List (Nat × Nat × Nat) :=
  let list := (c.lines.take (lineCuts c.src (fld c.ctl.toNat 0 32 * c.entry)).length).takeWhile fun l => l.bytes.length = l.len
  let bytes := list.flatMap (·.bytes)
  ((List.range (bytes.length / c.entry)).drop c.nextRow).map fun i =>
    (i, natOf ((bytes.drop (c.entry * i)).take c.entry),
      ((list[(c.src + c.entry * i) / 128 - c.src / 128]?).map (·.ackAt)).getD 0)

/-- First byte of an end of a line, as a number that no other byte has. -/
def Spot.key : Spot → Nat
  | .mem p _ _ => 2 * p.key
  | .store c a => 2 * (2 ^ 24 * c + a) + 1
  | .gran .. | .none => 2 ^ 140

/-- A line without the bytes of its destination that a line of a higher row writes before it: in coherence order the higher row's come last
(R288). DEDUCED (log 111): the write that comes late is dropped. -/
def cutLine (l n : Line) : List Line :=
  let (a, b) := (l.dst.key / 2, n.dst.key / 2)
  if l.dst.key % 2 != n.dst.key % 2 || l.writeAt ≤ n.writeAt || b + n.len ≤ a || a + l.len ≤ b then [l]
  else
    let part (lo hi : Nat) : List Line :=
      if hi ≤ lo then []
      else [{ l with src := l.src.plus lo, dst := l.dst.plus lo, len := hi - lo, bytes := (l.bytes.drop lo).take (hi - lo)
                     bad := (l.bad.filter fun i => lo ≤ i && i < hi).map (· - lo) }]
    part 0 (b - a) ++ part (b + n.len - a) l.len

/-- Rows whose indices have been read are requested, in ascending order (R288). -/
def planRows (s : State) (id : Nat) (c : Cmd) : State :=
  let ix := indices c
  let p := planJobs s c (Nat.max s.now ((engineAt s c.engine).lastRead + 1)) (rowJobs s c ix)
  let first := if c.op = 1 then (ix.find? fun (_, x, _) => x != 2 ^ (8 * c.entry) - 1).map fun (_, x, _) =>
      stampAt s c.gen (.va ((c.w3.toNat + x * c.row) % 2 ^ 64)) else none
  let old := if c.op = 2 then p.lines.foldl (fun ls n => ls.flatMap fun l => cutLine l n) c.lines else c.lines
  let lines := old ++ p.lines
  let next := c.nextRow + ix.length
  let d := { c with
    phase := if p.fault.isSome || fld c.ctl.toNat 0 32 ≤ next then 1 else 4, lines := lines, nextRow := next
    stamp := if c.stamp = 0 then first.getD 0 else c.stamp, readEnd := maxOf (lines.map (·.readAt))
    doneAt := if p.fault.isSome then p.next else c.doneAt, trap := p.fault.map fun (e, x, a) => cmdTrap c e x a }
  let s1 := modCmd (clockPlan s id c p.lines) id fun _ => d
  if p.lines.isEmpty then s1 else modEngine s1 c.engine fun e => { e with lastRead := p.next - 1 }

/-! ## What an engine does within a cycle -/

/-- During a compaction a command does not go past 4 KiB: its later requests are put off. A halt takes them from it (Table 3.7). -/
def putOff (s : State) (id : Nat) (c : Cmd) : State :=
  let ls := lineOffsets c.lines
  let later := ls.any (beyondBlock4k s.now ls)
  if !((c.phase = 1 || c.phase = 4) && later) then s
  else if cmdHalted s c then
    let (rest, kept) := ls.partition (beyondBlock4k s.now ls)
    modEngine (modCmd s id fun x => { x with lines := kept.map (·.2), rest := rest.map (·.2) })
      c.engine fun e => { e with lastRead := Nat.min e.lastRead s.now }
  else if compacting s c.engine then
    modEngine (modCmd s id fun x =>
      { x with lines := ls.map fun y => if beyondBlock4k s.now ls y then y.2.later 1 else y.2
               readEnd := x.readEnd + 1, doneAt := if x.trap.isSome then x.doneAt + 1 else x.doneAt })
      c.engine fun e => { e with lastRead := e.lastRead + 1 }
  else s

/-- A command that a halt stopped requests its other lines from now on, as its engine is free (R85). -/
def restart (s : State) (id : Nat) : State :=
  match tabGet id s.cmds with
  | none => s
  | some c =>
    match c.rest with
    | [] => s
    | l :: _ =>
      let n := Nat.max s.now ((engineAt s c.engine).lastRead + 1) - l.reqAt
      let more := c.rest.map fun x => x.later n
      modEngine (modCmd s id fun x =>
        { x with lines := x.lines ++ more, rest := [], readEnd := Nat.max x.readEnd (maxOf (more.map (·.readAt)))
                 doneAt := if x.trap.isSome then x.doneAt + n else x.doneAt })
        c.engine fun e => { e with lastRead := maxOf (more.map (·.reqAt)) }

/-- The 4 KiB of a transfer under way are over: no line of them is still to be requested (R102). -/
def engineQuiet (s : State) (e : Nat) : Bool :=
  s.cmds.all fun (_, c) => c.engine != e || !(c.phase = 1 || c.phase = 4) ||
    let ls := lineOffsets c.lines
    ls.all fun x => x.2.reqAt < s.now || beyondBlock4k (s.now - 1) ls x

/-- Lines of a command that act at stores of cores as a cycle begins (R453). -/
def actStores (s : State) (id : Nat) : State :=
  match tabGet id s.cmds with
  | none => s
  | some c =>
    if c.phase = 5 || c.lines.isEmpty then s
    else
      let (s1, ls) := actLines s (cmdView s c) c.gen c.part (lanesOf c.lanes) 1 Spot.isStore c.lines
      modCmd s1 id fun x => { x with lines := ls }

/-- Lines of a command that act within this cycle. -/
def actCmd (s : State) (id : Nat) : State :=
  match tabGet id s.cmds with
  | none => s
  | some c =>
    if c.phase = 5 then tryFollow s id c
    else if c.lines.isEmpty then s
    else
      let (s1, ls) := actLines s (cmdView s c) c.gen c.part (lanesOf c.lanes) 1 (fun p => !p.isStore) c.lines
      putOff (modCmd s1 id fun x => { x with lines := ls }) id { c with lines := ls }

end Sys2Proof.Machine
end

