-- ==== Sys2Proof/Machine/Collectives.lean ====
section
/-! DEFINITION. Communicators and their collectives (R289-R292, R314, R322, R364, R411, R439), fabric messages (R363, R438), and the start
of the reads of an engine command (R284). -/

namespace Sys2Proof.Machine

/-! ## Communicators -/

def modComm (s : State) (key : Nat) (f : Comm → Comm) : State := { s with comms := tabPut key (f (tabGetD key Comm.reset s.comms)) s.comms }

/-- What is known of a member. -/
def memberOf (c : Comm) (rank : Nat) : Member := (c.members.find? fun m => m.rank = rank).getD ⟨rank, none, 0, 0, 0, 0, [], false⟩

def setMember (c : Comm) (m : Member) : Comm := { c with members := c.members.filter (fun x => x.rank != m.rank) ++ [m] }

/-- Ranks other than this module's. -/
def otherRanks (c : Comm) : List Nat := (List.range c.nrank).filter fun r => r != c.rank

/-- H of the entry of one node for another (R362). -/
def hopsBetween (s : State) (a b : Nat) : Nat := if a = s.node then hopsTo s b else Nat.max 1 (Nat.min 15 (Config.otherHops a b))

/-- H of a communicator (R289). -/
def commHops (s : State) (c : Comm) : Nat :=
  match c.nodes with
  | n0 :: x :: r => maxOf ((x :: r).map fun n => Nat.max (hopsBetween s n0 n) (hopsBetween s n n0))
  | _ => Config.soloHops

/-- Cycles of a set-up, and of a run besides its flits (R289, R290). -/
def commCycles (s : State) (c : Comm) : Nat := 8 + 2 * Config.latHop * commHops s c

/-- Contracts with a non-zero speed for a format (R289). -/
def ownMask (fmt : Nat) : Nat := if fmt ≤ 2 then 0x1E else 0x1C

/-- No route to a node (R439). -/
def noRoute (s : State) (n : Nat) : Bool := n != s.node && fld (tabGetD n 0 s.routes).toNat 0 24 == 0

/-- Some port of the route to a node is ready, or there is no route to wait for (R29). -/
def routeReady (s : State) (n : Nat) : Bool :=
  n == s.node || noRoute s n || (routePort s n).isSome

/-- Bytes of an element of a command's source. -/
def elementBytes (c : Cmd) (com : Comm) : Nat := if c.op = 7 then 4 else drainSize com.fmt

/-- A command is refused with a reason (R410). -/
def refuseCmd (s : State) (id : Nat) (c : Cmd) (reason : Nat) : State := returnCmd s id c (some (cmdTrap c cEngref reason 0))

/-! ## Set-up (R289, R439) -/

/-- A set-up that has heard of every member comes to its result. -/
def checkSet (s : State) (key : Nat) : State :=
  let com := tabGetD key Comm.reset s.comms
  match com.setCmd.bind fun id => (tabGet id s.cmds).map fun c => (id, c) with
  | none => s
  | some (id, c) =>
    let ms := (List.range com.nrank).map (memberOf com)
    if c.phase != 3 || ms.any fun m => m.setAt.isNone && !m.refused then s
    else
      let due := Nat.max s.now (maxOf (ms.filterMap (·.setAt)) + commCycles s com)
      schedule (modCmd s id fun x => { x with phase := 7 }) due .collSetResult
        (.of [key / 16, key % 16, if ms.any (·.refused) then 3 else 0])

/-- The communicator as its set-up begins. -/
def freshComm (old : Comm) (id : Nat) (c : Cmd) (nodes : List Nat) : Comm :=
  let w := c.ctl.toNat
  let (nrank, rank, fmt, reqc) := (fld w 16 16, fld w 0 16, fld w 32 4, fld w 36 4)
  setMember { Comm.reset with
      nrank := nrank, rank := rank, fmt := fmt, reqc := reqc, state := 1, nodes := nodes
      members := old.members.map (fun m => { m with runs := [] }), setCmd := some id }
    ⟨rank, some c.issued, ownMask fmt, nrank, fmt, reqc, [], false⟩

/-- Whether the policy of a function allows fabric communicators (R345). -/
def fabricAllowed (s : State) (l : Nat) : Bool := (((launchOf s l).bind fun x => (fnOf s x.fn).policy).map (·.fabric)).getD false

/-- A member that a `coll.set` cannot reach: its node has no route (R439). One of another module is out of reach too where the policy forbids
fabric communicators, for which the spec gives no other fate: DESIGN CHOICE (log 114). -/
def outOfReach (s : State) (c : Cmd) (n : Nat) : Bool := noRoute s n || (n != s.node && !fabricAllowed s c.launch)

/-- A `coll.set` begins: it reads its member table, and its module has issued. -/
def beginSet (s1 : State) (id : Nat) (c0 : Cmd) : State :=
  let (lost, s) := takeLost s1
  let c := { c0 with lost := lost }
  let p := planJobs s c s.now (listJobs c.src (2 * fld c.ctl.toNat 16 16) 1)
  let s0 := dequeue s id c (some (p.next - 1))
  match memberNodes s c, p.fault with
  | some nodes, none =>
    let com := freshComm (tabGetD c.comm Comm.reset s.comms) id c nodes
    let s1 := modComm (modCmd s0 id fun x => { x with phase := 3 }) c.comm fun _ => com
    if nodes.any (outOfReach s c) then
      schedule (modCmd s1 id fun x => { x with phase := 7 }) (Nat.max s.now (c.issued + 8)) .collSetResult (.of [c.part, c.cid, 3])
    else
      let first := ((com.members.filterMap (·.setAt)).foldl Nat.min c.issued)
      checkSet (schedule s1 (Nat.max s.now (tickEnd (tickOf first + 0x10000))) .collSetMemberTimeout (.of [c.part, c.cid, id])) c.comm
  | _, f =>
    let (e, x, a) := f.getD (cPage, 0, c.src)
    modCmd s0 id fun y => { y with phase := 1, doneAt := p.next, trap := some (cmdTrap c e x a) }

/-- AND of the masks of the members that have issued. -/
def maskAnd (ms : List Member) : Nat := (ms.filter fun m => m.setAt.isSome).foldl (fun a m => a &&& m.mask) 0xFFFF

/-- The result of a set-up: status, contract and the AND of the masks (R167, R289). -/
def setResult (com : Comm) (st : Nat) : Nat × Nat × Nat :=
  let mask := maskAnd com.members
  let status := if st != 0 then st else if mask = 0 then 1 else if com.reqc != 0 && !bit mask com.reqc then 2 else 0
  (status, if status != 0 then 0 else if com.reqc != 0 then com.reqc else mask.log2, mask)

/-- A set-up ends: its record is written before the completion stages, or members disagree (R289, R411). -/
def endSet (s : State) (key id st : Nat) (c : Cmd) : State :=
  let com := tabGetD key Comm.reset s.comms
  let wrong := com.members.any fun m => m.setAt.isSome && (m.nrank != com.nrank || m.fmt != com.fmt || m.reqc != com.reqc)
  let (status, con, mask) := setResult com st
  let clear (x : Comm) : Comm := { x with setCmd := none, members := x.members.map fun m => { m with setAt := none, refused := false } }
  if st = 0 && wrong then refuseCmd (modComm s key fun x => { clear x with state := 3 }) id c 6
  else
    let s1 := modComm s key fun x => { clear x with state := if status = 0 then 2 else 3, contract := con, mask := mask }
    let fn := ((launchOf s c.launch).map (·.fn)).getD 0
    let s2 := if status = 0 then s1
      else postReport s1 fn 9 c.gen (launchHandle s c.unit) c.dst c.ipc.toNat
        (bytesOf 1 c.cid ++ bytesOf 1 status ++ bytesOf 2 mask ++ bytesOf 4 con)
    match endSpot s2 c (.va c.dst) 16 true true with
    | .error e => modCmd s2 id fun x => { x with phase := 1, doneAt := s.now, trap := some (cmdTrap c e 0 c.dst) }
    | .ok (sp, path) =>
      let line : Line :=
        { lineAt s.now .none 0 sp path 16 with
          readAt := 0, bytes := bytesOf 16 (status + con * 2 ^ 8 + mask * 2 ^ 16) }
      modCmd (clockPlan s2 id c [line]) id fun x => { x with phase := 1, lines := [line], doneAt := s.now + path }

def execCollSetResult (s : State) : Host.Outcome State Fault Refusal :=
  match s.subj with
  | .of [part, cid, st] =>
    let key := part * 16 + cid
    match (tabGetD key Comm.reset s.comms).setCmd.bind fun id => (tabGet id s.cmds).map fun c => (id, c) with
    | some (id, c) => .next (if c.phase = 7 then endSet s key id st c else s)
    | none => .next s
  | _ => .next s

def execCollSetMemberTimeout (s : State) : Host.Outcome State Fault Refusal :=
  match s.subj with
  | .of [part, cid, id] =>
    match tabGet id s.cmds with
    | some c => .next (if c.phase = 3 && c.op = 3 then
        -- the count does not advance while the context is halted (R20)
        if ctxStops s c.gen then schedule s (s.now + 7) .collSetMemberTimeout (.of [part, cid, id])
        else endSet s (part * 16 + cid) id 3 c
      else s)
    | none => .next s
  | _ => .next s

/-! ## Runs (R290, R411) -/

/-- The run of a member as recorded in replay: inputs from the buffer, of all ranks but this one in rank order (R91, R291). -/
def recordedRuns (s : State) (c : Cmd) (com : Comm) : Option (List (Nat × Nat × Nat × List Nat)) :=
  match launchOf s c.launch with
  | none => none
  | some x =>
    if !x.rply || c.op = 7 then none
    else
      (findInput s x c.stamp x.entries x.capIdx).map fun (cyc, data) =>
        let count := fld c.ctl.toNat 0 32
        let w := if fld c.ctl.toNat 36 4 ≤ 1 then 4 else drainSize com.fmt
        let at_ := if cyc + x.capStart < s.now then 0 else cyc + x.capStart
        (otherRanks com).mapIdx fun i _ =>
          (at_, fld c.ctl.toNat 36 4, count, (List.range count).map fun j => natOf ((data.drop ((i * count + j) * w)).take w))

/-- Source data that came over the fabric is recorded (R291). -/
def captureRuns (s : State) (c : Cmd) (com : Comm) (others : List (Nat × Nat × Nat × List Nat)) : State :=
  match launchOf s c.launch with
  | none => s
  | some x =>
    if others.isEmpty || !(x.capt || x.rply) then s
    else
      let w := if fld c.ctl.toNat 36 4 ≤ 1 then 4 else drainSize com.fmt
      let data := others.flatMap fun (_, _, _, l) => l.flatMap (bytesOf w)
      let n := inputEntries data.length
      let s1 := capture s c.launch 0x0A c.part n c.stamp
      if x.rply then modLaunch s1 c.launch fun y => { y with capIdx := y.capIdx + n } else captureData s1 c.launch n data

/-- Every member's run is in (R290): the run is refused, or its sum and its end are to come. Unit CID mod 4 takes its source data at one flit per
cycle (R364). Of two runs that meet at a unit the one whose members were all in first is served first, as though its members were of this
module: DESIGN CHOICE (log 96). -/
def meetRun (s : State) (key id : Nat) (c : Cmd) (others : List (Nat × Nat × Nat × List Nat)) : State :=
  let com := tabGetD key Comm.reset s.comms
  let (op, count) := (fld c.ctl.toNat 36 4, fld c.ctl.toNat 0 32)
  let latest := others.foldl (fun n x => Nat.max n x.1) c.issued
  let due := Nat.max s.now (latest + commCycles s com)
  let stop (reason : Nat) : State :=
    schedule (modCmd s id fun x => { x with phase := 7, trap := some (cmdTrap c cEngref reason 0) }) due .collRunComplete (.of [id])
  if others.any fun x => x.2.1 = 16 then stop 7
  else if others.any fun x => x.2.1 != op || x.2.2.1 != count then stop 6
  else
    let pad (l : List Nat) : List Nat := l.take count ++ List.replicate (count - l.length) 0
    let lists := (others.take com.rank).map (·.2.2.2) ++ [c.values] ++ (others.drop com.rank).map (·.2.2.2)
    let flits := ceilDiv (count * elementBytes c com) 256
    -- the flits come to the unit of the communicator one per cycle, after those of the runs met before (R364, log 96)
    let first := latest + 8 + Config.latHop * commHops s com
    let start := Nat.max first (tabGetD (key % 16 % 4) 0 s.reducers)
    let s0 := { s with reducers := tabPut (key % 16 % 4) (start + flits) s.reducers }
    let s1 := captureRuns (modCmd s0 id fun x => { x with phase := 7, values := lists.flatMap pad }) c com others
    schedule (schedule s1 (start + flits) .fabricReduce (.of [id])) (Nat.max due (start + flits + Config.latHop * commHops s com))
      .collRunComplete (.of [id])

/-- Runs are matched with those of the other members, in order. -/
def pumpRuns : Nat → State → Nat → State
  | 0, s, _ => s
  | n + 1, s, key =>
    let com := tabGetD key Comm.reset s.comms
    match com.own with
    | [] => s
    | h :: rest =>
      let cmd := h.bind fun id => (tabGet id s.cmds).map fun c => (id, c)
      let heads := (otherRanks com).map fun r => (memberOf com r).runs.head?
      let forced := cmd.bind fun (_, c) => recordedRuns s c com
      if cmd.any (fun (_, c) => c.phase != 3) || (heads.any Option.isNone && forced.isNone) then s
      else
        let s1 := modComm s key fun x => { x with own := rest, members := x.members.map fun m => { m with runs := m.runs.tail } }
        pumpRuns n (match cmd with
          | some (id, c) => meetRun s1 key id c (forced.getD (heads.filterMap id'))
          | none => s1) key
where
  id' (x : Option (Nat × Nat × Nat × List Nat)) : Option (Nat × Nat × Nat × List Nat) := x

/-- Runs of a communicator matched as far as they go. -/
def pumpComm (s : State) (key : Nat) : State := pumpRuns 64 s key

/-- A run of this module that was refused takes its place in the sequence (R406, R411). -/
def skipRun (s : State) (key : Nat) : State := pumpComm (modComm s key fun x => { x with own := x.own ++ [none] }) key

/-- A `coll.run` begins to read its source. -/
def beginRun (s0 : State) (id : Nat) (c0 : Cmd) : State :=
  let (lost, s) := takeLost s0
  let c := { c0 with lost := lost }
  let com := tabGetD c.comm Comm.reset s.comms
  let n := fld c.ctl.toNat 0 32 * drainSize com.fmt
  let p := planJobs s c s.now (listJobs c.src n 1)
  let ordinal := ((warpOf s c.core (match c.gid with | .warp _ w => w | .kindle .. => 0)).map (·.reqCount)).getD 0
  let s1 := match c.gid with
    | .warp k w => modWarp s k w fun x => if x.serial = c.serial then { x with reqCount := x.reqCount + 1 } else x
    | .kindle .. => s
  let s2 := clockPlan (if c.takes then acquire s1 c.unit (agCmd id) (obCmd id) true else s1) id c p.lines
  let s3 := dequeue s2 id c (if p.lines.isEmpty then none else some (p.next - 1))
  match p.fault with
  | some (e, x, a) =>
    skipRun (modCmd s3 id fun y => { y with phase := 1, lines := p.lines, doneAt := p.next, trap := some (cmdTrap c e x a) }) c.comm
  | none => modComm (modCmd s3 id fun y => { y with phase := 4, lines := p.lines, stamp := ordinal }) c.comm fun x =>
      { x with own := x.own ++ [some id] }

/-- The source of a `coll.run` has been read. -/
def sourceRead (s : State) (id : Nat) (c : Cmd) : State :=
  let com := tabGetD c.comm Comm.reset s.comms
  let (n, w) := (fld c.ctl.toNat 0 32, drainSize com.fmt)
  let bytes := c.lines.flatMap (·.bytes)
  let raw := (List.range n).map fun i => natOf ((bytes.drop (w * i)).take w)
  let vals := if fld c.ctl.toNat 36 4 ≤ 1 then raw.map (enterSum com.fmt (cSubn com.contract)) else raw
  pumpComm (modCmd s id fun x => { x with phase := 3, lines := [], values := vals }) c.comm

/-- The elements of every rank combined (R167, R290). -/
def reduceRuns (com : Comm) (c : Cmd) : List Nat :=
  let (op, count) := (fld c.ctl.toNat 36 4, fld c.ctl.toNat 0 32)
  let at_ (r i : Nat) : Nat := nth c.values (r * count + i) 0
  let sum (i : Nat) : Nat := fabricSum com.contract com.fmt ((List.range com.nrank).map fun r => at_ r i)
  match op with
  | 0 => (List.range count).map sum
  | 1 =>
    let k := count / Nat.max 1 com.nrank
    (List.range k).map fun i => sum (com.rank * k + i)
  | 2 => c.values
  | _ => c.values.take count

def execFabricReduce (s : State) : Host.Outcome State Fault Refusal :=
  match s.subj with
  | .of [id] =>
    match tabGet id s.cmds with
    | some c => .next (if c.phase = 7 && (c.op = 4 || c.op = 7) then
        modCmd s id fun x => { x with values := reduceRuns (tabGetD c.comm Comm.reset s.comms) c } else s)
    | none => .next s
  | _ => .next s

/-- The result at its destination, line by line; a condition of Table 17.2 stops at its line (R423). -/
def putResultLines (s : State) (id : Nat) (c : Cmd) (bytes : List Byte) : State × Option Trap :=
  let v := cmdView s c
  (lineCuts c.dst bytes.length).foldl (fun (acc : State × Option Trap) (x, k) =>
    match acc with
    | (a, some t) => (a, some t)
    | (a, none) =>
      match endSpot a c (.va x) k true (c.op != 7) with
      | .error e => (a, some (cmdTrap c e (x - c.dst) x))
      | .ok (sp, _) =>
        let b := clockPlan a id c [lineAt a.now .none 0 sp 0 k]
        (writeSpot b v c.gen c.part (lanesOf c.lanes) 1 sp ((bytes.drop (x - c.dst)).take k) [], none)) (s, none)

/-- The collective part of an instruction of the array ends with its slot, after a release at device scope (R314, R322). -/
def endReduction (s : State) (id : Nat) (c : Cmd) (t : Option Trap) : State :=
  let s1 := if t.isNone then releaseCmd s id c else s
  let s2 := { s1 with cmds := tabDel id s1.cmds }
  match tabGet c.src s2.matOps with
  | none => s2
  | some m => endMat s2 c.src { m with stop := t } 0 []

/-- A run ends (R290). -/
def endRun (s : State) (id : Nat) (c : Cmd) : State :=
  let com := tabGetD c.comm Comm.reset s.comms
  let (s1, t) := match c.trap with
    | some t => (s, some t)
    | none => putResultLines (modComm s c.comm fun x => { x with runs := (x.runs + 1) % 65536 }) id c
        (c.values.flatMap (bytesOf (drainSize com.fmt)))
  if c.op = 7 then endReduction s1 id c t
  else
    let d := { c with phase := 1, lines := [], trap := t }
    endTransfer (modCmd s1 id fun _ => d) id d

def execCollRunComplete (s : State) : Host.Outcome State Fault Refusal :=
  match s.subj with
  | .of [id] =>
    match tabGet id s.cmds with
    | some c => .next (if c.phase = 7 && (c.op = 4 || c.op = 7) then endRun s id c else s)
    | none => .next s
  | _ => .next s

/-! ## `mdr.red` and the collective part of `tmm.red` (R314, R322) -/

/-- OPLIM of `mdr.red` (Table 16.3). -/
def mdrRedTrap (w g a : Nat) (s : State) (v : View) : Option Trap :=
  limitTrap v [(0x02, rangeFree s v.unit g (2 ^ w)),
    (0x0F, (commOf s (unitPart s v.unit) (fld (readK s v.unit a).toNat 0 4)).state != 2)]

def startMdrRed (l w g a b : Nat) (s : State) (v : View) : State :=
  let phys := (List.range (2 ^ w)).map fun j => readPhys s v (g + j)
  let start := Nat.max s.now (granuleFree s v.core phys false)
  let s1 := markGranules s v.core phys false start
  let (s2, id) := openReq s1 (Req.mk' s v (some l) (.matrix 0 []) 0)
  let m : MatOp :=
    { MatOp.mk' s v 10 start 0 with
      blocks := [phys.map fun p => (p, p)], cid := fld (readK s v.unit a).toNat 0 4, dest := (readK s v.unit b).toNat, red := true }
  { s2 with matOps := tabPut id m s2.matOps }

def execMdrRed (l w : BitVec 2) (g b a : BitVec 6) (sw : BitVec 1) (s : State) : Host.Outcome State Fault Refusal :=
  issuePre (.mdrRed l w g b a sw) s (mdrRedTrap w.toNat g.toNat a.toNat) storesPre
    (plain (startMdrRed l.toNat w.toNat g.toNat a.toNat b.toNat))

/-- The granules of a contribution in row-major order (R314). -/
def blockValues (s : State) (m : MatOp) : List Nat :=
  m.blocks.flatMap fun row =>
    let imgs := row.map fun (p, _) => granuleOf s m.core m.unit m.gen p
    (List.range 32).flatMap fun r => imgs.flatMap fun img => (List.range 32).map fun c => img.nat (128 * r + 4 * c) 4

/-- The command of a contribution: all-reduce, release at device scope. -/
def redCmd (s : State) (id : Nat) (m : MatOp) (vals : List Nat) : Cmd :=
  { op := 7, gid := m.gid, serial := m.serial, unit := m.unit, launch := unitLaunchId s m.unit, part := unitPart s m.unit, gen := m.gen
    core := m.core, slot := 0, lanes := m.lanes, ipc := m.ipc
    ctl := BitVec.ofNat 64 (4 * 2 ^ 49 + 2 ^ 48 + m.cid * 2 ^ 40 + vals.length), w1 := 0, w2 := 0, w3 := 0, src := id, dst := m.dest
    issued := s.now, acq := [], nextRow := 0, lost := 0, phase := 3, lines := [], rest := [], readEnd := 0, doneAt := 0, tile := none, stamp := 0, trap := none
    follow := none, pkt := none, noEvents := false, values := vals }

/-- The granules of a contribution are read at its start, and its run is made. -/
def contribute (s : State) (id : Nat) (m : MatOp) : State :=
  if m.kind != 10 || m.start != s.now || s.cmds.any (fun (_, c) => c.op = 7 && c.src = id) then s
  else
    let m1 := { m with bad := granuleBad s m (32 * m.blocks.length) }
    if m1.bad.isSome then endMat s id m1 0 []
    else
      let c := redCmd s id m (blockValues s m)
      let (n, s1) := freshNat s
      pumpComm (modComm { s1 with cmds := tabPut n c s1.cmds } c.comm fun x => { x with own := x.own ++ [some n] }) c.comm

/-! ## The head of a queue (R284, R406, R411) -/

/-- The first stamp of a reduction's pages that differs from the contract of its communicator (R166, R405). -/
def runMix (s : State) (c : Cmd) : Option Nat :=
  let com := tabGetD c.comm Comm.reset s.comms
  let (op, count) := (fld c.ctl.toNat 36 4, fld c.ctl.toNat 0 32)
  if 2 ≤ op then none
  else
    let out := if op = 1 then count / Nat.max 1 com.nrank else count
    let pages (a n : Nat) : List Nat := (pageCuts a (n * drainSize com.fmt)).map fun x => stampAt s c.gen (.va x.1)
    (pages c.src count ++ pages c.dst out).find? fun st => st != 0 && st != com.contract

/-- Ranges of memory that a command reads or writes, its far rows apart. -/
def cmdRanges (s : State) (c : Cmd) : List (Nat × Nat) :=
  let count := fld c.ctl.toNat 0 32
  let at_ (e : LineEnd) (n : Nat) : List (Nat × Nat) := match e with | .va a => [(a, n)] | _ => []
  (if c.uses 0 && !c.noEvents && c.pkt.isNone then [(c.w1.toNat, 4)] else []) ++
  match c.op with
  | 1 => (c.src, count * c.entry) :: at_ (c.destEnd s) (count * c.row)
  | 2 => (c.src, count * c.entry) :: at_ (c.sourceEnd s) (count * c.row)
  | 3 => [(c.src, 2 * fld c.ctl.toNat 16 16), (c.dst, 16)]
  | 4 =>
    let com := tabGetD c.comm Comm.reset s.comms
    let w := elementBytes c com
    let out := match fld c.ctl.toNat 36 4 with
      | 1 => count / Nat.max 1 com.nrank
      | 2 => count * com.nrank
      | _ => count
    [(c.src, count * w), (c.dst, out * w)]
  | _ => at_ (c.sourceEnd s) c.length ++ at_ (c.destEnd s) c.length

/-- Ranges of the far rows whose indices have been read (R288). -/
def rowRanges (c : Cmd) : List (Nat × Nat) :=
  (indices c).filterMap fun (_, x, _) => if x = 2 ^ (8 * c.entry) - 1 then none else some ((c.w3.toNat + x * c.row) % 2 ^ 64, c.row)

/-- A host page of some ranges is waited for: the engine holds its queue (R423). -/
def rangesWait (s : State) (gen : Nat) (l : List (Nat × Nat)) : Bool := l.any fun (a, n) => hostWaits s gen a n

/-- Reads may begin: the acquire is over, the host's pages are there, a destination tile may be filled, and a collective finds its communicator and its routes
(R29, R105, R285, R289, R423). -/
def mayBegin (s : State) (c : Cmd) : Bool :=
  acquired s c && !rangesWait s c.gen (cmdRanges s c) &&
  (match c.fills with | some t => fillReady s c.unit t | none => true) &&
  (if c.op = 3 then
    !(s.cmds.any fun (_, x) => (x.op = 4 || x.op = 7) && x.comm = c.comm && ((x.phase != 0 && x.phase != 6) || x.issued < c.issued)) &&
    (tabGetD c.comm Comm.reset s.comms).setCmd.isNone && ((memberNodes s c).getD []).all (routeReady s)
  else if c.op = 4 then (tabGetD c.comm Comm.reset s.comms).nodes.all (routeReady s)
  else true)

/-- Reads begin. -/
def beginCmd (s : State) (id : Nat) (c : Cmd) : State :=
  match c.op with
  | 3 => beginSet s id c
  | 4 => beginRun s id c
  | _ => beginTransfer s id c

/-- A refusal of the head for a local reason. -/
def refuseHead (s : State) (id : Nat) (c : Cmd) (reason : Nat) : State :=
  let s1 := refuseCmd (dequeue s id c (some s.now)) id c reason
  let w := c.ctl.toNat
  if c.op = 3 && (reason = 9 || reason = 10) then
    modComm s1 c.comm fun x =>
      { x with nrank := fld w 16 16, rank := fld w 0 16, fmt := fld w 32 4, reqc := fld w 36 4, contract := 0, state := 3, runs := 0 }
  else if c.op = 4 && reason != 5 && (tabGetD c.comm Comm.reset s.comms).state = 2 then skipRun s1 c.comm
  else s1

/-- CMIX of a run (R406): raised on its slot, or CMX in every thread of the active set at issue. -/
def mixHead (s : State) (id : Nat) (c : Cmd) : Option State :=
  if c.op != 4 then none
  else
    match runMix s c, cmdOwner s c with
    | some st, some v =>
      let ref := (tabGetD c.comm Comm.reset s.comms).contract
      if (lanesOf c.lanes).any (trapEnabled s v 1) then
        some (skipRun (returnCmd (dequeue s id c (some s.now)) id c (some (cmdTrap c cCmix (ref + 16 * st) 0))) c.comm)
      else none
    | _, _ => none

/-- CMX of a masked mix. -/
def markMix (s : State) (c : Cmd) : State :=
  if c.op = 4 && (runMix s c).isSome then
    (lanesOf c.lanes).foldl (fun a l => modThr a c.gid l fun t => { t with flags := t.flags ||| flagBits fCMX }) s
  else s

/-- The head of a queue comes to its cycle: it is refused, found in order, or begins. -/
def decideHead (s : State) (id : Nat) (c : Cmd) : State :=
  if c.phase = 0 then
    match refusal s c with
    | some n => refuseHead s id c n
    | none =>
      match mixHead s id c with
      | some s1 => s1
      | none =>
        let s1 := markMix s c
        if mayBegin s1 c then beginCmd s1 id c else modCmd s1 id fun x => { x with phase := 6 }
  else if mayBegin s c then beginCmd s id c
  else s

/-- The head of an engine's queue acts in this cycle. -/
def headDue (s : State) (e : Nat) : Bool :=
  match engineHead s e with
  | some (_, c) => c.phase = 0 || mayBegin s c
  | none => false

def execEngineReadsBegin (s : State) : Host.Outcome State Fault Refusal :=
  match s.subj with
  | .of [e] =>
    match engineHead s e with
    | some (id, c) => .next (decideHead s id c)
    | none => .next s
  | _ => .next s

/-! ## Fabric messages (R363, R438) -/

/-- A count of R350 grows, under its offset in DATA. -/
def addCount (s : State) (off : Nat) : State := { s with counts := tabPut off (Nat.min (2 ^ 64 - 1) (tabGetD off 0 s.counts + 1)) s.counts }

/-- An access of another module to memory of this one: the line is touched at its home (R361). -/
def serveRemote (s : State) (addr : Nat) (bytes : List Byte) : State :=
  let p := Place.dev (addr % 2 ^ 50)
  if bytes.isEmpty then l2Touch s (2 ^ 32) 40 (addr % 2 ^ 50 / 128) 0
  else
    breakRelease (l2Touch (writePlace s p bytes) (2 ^ 32) 40 (addr % 2 ^ 50 / 128) (sectorMask (addr % 128) bytes.length)) p bytes.length

/-- An atomic of another module on memory of this one, at its point of coherence (R275, R361): a poisoned word stays as it is (R430). -/
def atomicRemote (s : State) (addr op : Nat) (flt wide : Bool) (cmp val : Nat) : State :=
  let p := Place.dev (addr % 2 ^ 50)
  let n := if wide then 8 else 4
  let old := natOf (readPlace s p n)
  if poisonedPlace s p n || (op = 7 && old != cmp) then serveRemote s addr []
  else
    let new := bytesOf n (atomNew op flt wide old cmp val)
    l2Touch (writePlace s p new) (2 ^ 32) 40 (addr % 2 ^ 50 / 128) (sectorMask (addr % 128) n)

/-- A reply that failed its tag: the request waits until it is declared lost (R438). -/
def loseReply (s : State) (req : Nat) : State :=
  match tabGet req s.reqs with
  | none => s
  | some q =>
    { s with
      agenda := s.agenda.filter fun t => !(t.subj = .of [req] && (t.i = .loadReturn || t.i = .storeAck || t.i = .atomicComplete))
      reqs := tabPut req { q with due := s.now + 2 ^ 64 } s.reqs }

/-- What a message brings. -/
def receiveMessage (s : State) (m : FabricMsg) : State :=
  if !m.tagOk then
    let s1 := addCount s (0xEA0 + 8 * (m.port % 24))
    match m.body with
    | .reply req => loseReply s1 req
    | _ => s1
  else
    match m.body with
    | .load _ _ addr _ => serveRemote s addr []
    | .store _ _ addr bytes => serveRemote s addr bytes
    | .atomic _ _ addr op flt wide cmp val => atomicRemote s addr op flt wide cmp val
    | .reply req => returnDue s req
    | .collSet part cid rank mask nrank fmt reqc =>
      let key := part * 16 + cid
      checkSet (modComm s key fun c =>
        setMember c { memberOf c rank with setAt := some s.now, mask := mask, nrank := nrank, fmt := fmt, reqc := reqc }) key
    | .collRun part cid rank op count values =>
      let key := part * 16 + cid
      pumpComm (modComm s key fun c =>
        setMember c { memberOf c rank with runs := (memberOf c rank).runs ++ [(s.now, op, count, values)] }) key
    | .collRefused part cid rank =>
      let key := part * 16 + cid
      if (tabGetD key Comm.reset s.comms).state = 2 then
        pumpComm (modComm s key fun c =>
          setMember c { memberOf c rank with runs := (memberOf c rank).runs ++ [(s.now, 16, 0, [])] }) key
      else checkSet (modComm s key fun c => setMember c { memberOf c rank with refused := true }) key

def execFabricMessageReceive (s : State) : Host.Outcome State Fault Refusal :=
  match s.subj with
  | .message m => .next (receiveMessage s m)
  | _ => .next s

/-! ## What engines do within a cycle -/

/-- A source that has been read is acted on. -/
def listDone (s : State) (id : Nat) : State :=
  match tabGet id s.cmds with
  | none => s
  | some c =>
    if c.phase != 4 || c.op != 4 || !listRead s c then s else sourceRead s id c

/-- Rows whose indices have come are to be requested. -/
def rowsReady (s : State) (c : Cmd) : Bool := c.phase == 4 && c.op != 4 && c.rest.isEmpty && !cmdHalted s c && !(indices c).isEmpty

/-- They are requested, unless the engine waits for a host page (R423). -/
def rowsDue (s : State) (id : Nat) : State :=
  match tabGet id s.cmds with
  | none => s
  | some c => if rowsReady s c && !rangesWait s c.gen (rowRanges c) then planRows s id c else s

/-- Host pages that engines have to be given a translation for: those of the heads of their queues and of rows to be requested. -/
def engineWants (s : State) : List (Nat × Nat) :=
  let heads := (s.engines.map (·.1)).filterMap fun e =>
    ((engineAt s e).queue.filterMap fun id => (tabGet id s.cmds).filter fun c => !cmdHalted s c).head?.map fun c => (c.gen, cmdRanges s c)
  let rows := s.cmds.filterMap fun (_, c) => if rowsReady s c then some (c.gen, rowRanges c) else none
  (heads ++ rows).flatMap fun (g, l) => l.flatMap fun (a, n) => (hostWants s g a n).map fun p => (g, p)

/-- What engines do at stores of cores as a cycle begins. -/
def engineStores (s : State) : State := (s.cmds.map (·.1)).foldl actStores s

/-- Engines and contributions in this cycle. -/
def actEngines (s : State) : State :=
  let s1 := (s.matOps.filter fun (_, m) => m.kind = 10).foldl (fun a (id, m) => contribute a id m) s
  (s1.cmds.map (·.1)).foldl (fun a id => listDone (actCmd (rowsDue a id) id) id) s1

/-- The condition of an engine or of a command (log 3). -/
def engineEvent (s : State) : Option (Instr × Subject) :=
  match s.cmds.findSome? fun (id, c) =>
      if transferOver s c then some (Instr.engineTransferEnd, Subject.of [id])
      else if writeOver s c then some (.completionWriteAck, .of [id]) else none with
  | some e => some e
  | none => (s.engines.map (·.1)).findSome? fun e => if headDue s e then some (.engineReadsBegin, .of [e]) else none

end Sys2Proof.Machine
end

