-- ==== Sys2Proof/Machine/Float.lean ====
section
/-! DEFINITION. FP32, packed, conversion and special-function instructions of the lanes (R250-R259), with the 16-bit
float forms (R183). -/

namespace Sys2Proof.Machine

/-! ## Shapes -/

/-- d from two registers by a rounded operation; usable after 5 cycles (R239, R250). -/
def fpBinary (s : State) (v : View) (d a b : Nat) (f : Nat → Nat → Nat → Nat → Flagged Nat) : State :=
  writeFloat s v Config.latFp d fun l =>
    f (rmOf s v l) (subnOf s v) (readX s v l a).toNat (readX s v l b).toNat

/-- The fused forms: usable after 6 cycles. -/
def fpFused (s : State) (v : View) (d a b : Nat) (negProd negAdd : Bool) : State :=
  writeFloat s v Config.latFma d fun l =>
    fltFma f32 (rmOf s v l) (subnOf s v) negProd negAdd (readX s v l a).toNat (readX s v l b).toNat (readX s v l d).toNat

/-- d from one register, under the input rule only. -/
def fpUnary (s : State) (v : View) (d a : Nat) (f : Nat → Nat → Nat → Flagged Nat) : State :=
  writeFloat s v Config.latFp d fun l => f (rmOf s v l) (subnOf s v) (readX s v l a).toNat

/-- Each half of a lane word computed on its own (R254). -/
def halves (f : Nat → Nat → Nat → Flagged Nat) (a b d : Nat) : Flagged Nat :=
  let (lo, f0) := f (a % 65536) (b % 65536) (d % 65536)
  let (hi, f1) := f (a / 65536) (b / 65536) (d / 65536)
  (lo + 65536 * hi, f0 ||| f1)

/-- A packed instruction; d is read as the addend of the fused forms. -/
def packed (s : State) (v : View) (lat d a b : Nat) (f : Nat → Nat → Nat → Nat → Nat → Flagged Nat) : State :=
  writeFloat s v lat d fun l =>
    halves (f (rmOf s v l) (subnOf s v)) (readX s v l a).toNat (readX s v l b).toNat (readX s v l d).toNat

/-- Sign cleared or inverted after the input rule; a NaN gives the canonical NaN, and the result rule of R163 holds (R251). -/
def signed (inv : Bool) (_rm subn w : Nat) : Flagged Nat :=
  let (w, fl) := fltIn f32 subn w
  let (r, f2) := fltOut f32 subn (if inv then (if w < 2 ^ 31 then w + 2 ^ 31 else w - 2 ^ 31) else w % 2 ^ 31)
  (r, fl ||| f2)

/-- A comparison of R252 with its flags. -/
def fcmpLane (cc subn a b : Nat) : Bool × Nat :=
  let (x, f1) := f32.input subn a
  let (y, f2) := f32.input subn b
  let un := x.isNan || y.isNan
  let c := x.cmp y
  let r :=
    match cc with
    | 0 => !un && c == 0
    | 1 => un || c != 0
    | 2 => !un && c < 0
    | 3 => !un && c ≤ 0
    | 4 => !un && 0 < c
    | 5 => !un && 0 ≤ c
    | 6 => un
    | _ => !un
  (r, f1 ||| f2 ||| if un && 2 ≤ cc && cc ≤ 5 then fNV else 0)

/-- Rounding to an integral value (R253): zeros keep the sign of the input, NX is not set. -/
def frndLane (dir rm subn w : Nat) : Flagged Nat :=
  let (x, fl) := f32.input subn w
  let mode := if dir = 4 then rm else dir
  match x with
  | .fin n m e =>
    if m = 0 then (if n then f32.signBit else 0, fl)
    else if 0 ≤ e then (w, fl)
    else
      let (m, e) : Nat × Int := if (m.log2 : Int) + e < -4 then (1, -4) else (m, e)
      let (r, _) := roundAt mode n m e 0
      ((f32.round 0 2 (.fin n r 0)).1, fl)
  | y => ((f32.round 0 2 y).1, fl)

/-- Class mask (R253). -/
def fclsLane (_rm subn w : Nat) : Flagged Nat :=
  let (w, fl) := fltIn f32 subn w
  let n := 2 ^ 31 ≤ w
  let k :=
    match f32.decode w with
    | .nan => 8
    | .inf _ => if n then 0 else 7
    | .fin _ m _ =>
      if m = 0 then (if n then 3 else 4)
      else if f32.isSub w then (if n then 2 else 5)
      else (if n then 1 else 6)
  (2 ^ k, fl)

/-- Unbiased exponent (R253). -/
def fexpLane (_rm subn w : Nat) : Flagged Nat :=
  let (x, fl) := f32.input subn w
  match x with
  | .nan => (0x7FFFFFFF, fl ||| fNV)
  | .inf _ => (0x7FFFFFFF, fl)
  | .fin _ m e => if m = 0 then (0x80000000, fl) else (wrap 32 ((m.log2 : Int) + e), fl)

/-- `xa × 2^xb` rounded once (R253). -/
def fsclLane (rm subn a b : Nat) : Flagged Nat :=
  let (x, fl) := f32.input subn a
  let (w, f1) := f32.round rm subn (x.scale (sx 32 b))
  (w, fl ||| f1)

/-- Conversion of one lane (R255-R257); none when it overflows under OP 3. -/
def cvtAt (s : State) (v : View) (dt st op a l : Nat) : Option (Nat × Nat) :=
  cvtLane dt st op (rmOf s v l) (subnOf s v) (readK s v.unit 63) (readX s v l a).toNat

/-- Lanes that overflow under OP 3 (R403). -/
def cvtOver (s : State) (v : View) (dt st op a : Nat) : List Nat :=
  v.act.filter fun l => (cvtAt s v dt st op a l).isNone

/-- CVTOVF, unless it is masked in every active thread (R403, R441). -/
def cvtTrap (dt st op a : Nat) (s : State) (v : View) : Option Did :=
  let bad := cvtOver s v dt st op a
  if !bad.isEmpty && v.act.any (trapEnabled s v 0) then some (.trap (precise v cCvtovf (maskOf bad).toNat)) else none

/-- What a lane gets: an overflow under a masked CVTOVF saturates and sets OVS (R403). -/
def cvtResult (s : State) (v : View) (dt st op a l : Nat) : Flagged Nat :=
  match cvtAt s v dt st op a l with
  | some r => r
  | none => let r := (cvtAt s v dt st 0 a l).getD (0, 0); (r.1, r.2 ||| fOVS)

/-! ## The special-function pipe (R242) -/

/-- Cycle from which the quadrant's pipe takes another instruction. -/
def sfuFree (s : State) (v : View) : Nat :=
  if v.kc then 0 else (nth (coreOf s v.core).quads (v.wslot % 4) Quad.reset).sfuFree

/-- The pipe is occupied for 4 cycles from issue. -/
def sfuTake (s : State) (v : View) : State :=
  if v.kc then s
  else modCore s v.core fun k =>
    { k with quads := k.quads.mapIdx fun i q => if i = v.wslot % 4 then { q with sfuFree := s.now + 4 } else q }

/-- The delay of an occupied pipe (R242, R173). -/
def sfuWait (s : State) (v : View) : Option Did := if s.now < sfuFree s v then some (.wait s (sfuFree s v)) else none

/-- A special-function instruction: its result is usable after 18 cycles (R239). -/
def sfuOp (d : Nat) (f : State → View → Nat → Flagged Nat) (s : State) (v : View) : Did :=
  .done (sfuTake (writeFloat s v Config.latSfu d (f s v)) v) .next 0

/-- One function of Table 6.8 on a lane, under the contract's table revision (R258). -/
def sfuLane (fn : Nat → Num → Flagged Num) (a : Nat) (s : State) (v : View) (l : Nat) : Flagged Nat :=
  special (fn (cTrev (contractOf s v))) (subnOf s v) (readX s v l a).toNat

/-- A gated form on a lane (R259). -/
def gateLane (fn : Nat → Num → Flagged Num) (self : Bool) (a b : Nat) (s : State) (v : View) (l : Nat) : Flagged Nat :=
  gated (fn (cTrev (contractOf s v))) self (subnOf s v) (readX s v l a).toNat (readX s v l b).toNat

/-! ## 16-bit forms (R183) -/

def execFadd16 (sw d : BitVec 5) (s : State) : Host.Outcome State Fault Refusal :=
  issue (.fadd16 sw d) s noTrap (plain fun s v => fpBinary s v d.toNat d.toNat sw.toNat (fltAdd f32))

def execFsub16 (sw d : BitVec 5) (s : State) : Host.Outcome State Fault Refusal :=
  issue (.fsub16 sw d) s noTrap (plain fun s v => fpBinary s v d.toNat d.toNat sw.toNat (fltSub f32))

def execFmul16 (sw d : BitVec 5) (s : State) : Host.Outcome State Fault Refusal :=
  issue (.fmul16 sw d) s noTrap (plain fun s v => fpBinary s v d.toNat d.toNat sw.toNat (fltMul f32))

def execFmax16 (sw d : BitVec 5) (s : State) : Host.Outcome State Fault Refusal :=
  issue (.fmax16 sw d) s noTrap (plain fun s v => fpBinary s v d.toNat d.toNat sw.toNat (fun _ sb x y => fltPick f32 sb true x y))

def execFmin16 (sw d : BitVec 5) (s : State) : Host.Outcome State Fault Refusal :=
  issue (.fmin16 sw d) s noTrap (plain fun s v => fpBinary s v d.toNat d.toNat sw.toNat (fun _ sb x y => fltPick f32 sb false x y))

/-! ## FP32 (R251-R253) -/

def execFadd (b a d : BitVec 7) (sw : BitVec 1) (s : State) : Host.Outcome State Fault Refusal :=
  issue (.fadd b a d sw) s noTrap (plain fun s v => fpBinary s v d.toNat a.toNat b.toNat (fltAdd f32))

def execFsub (b a d : BitVec 7) (sw : BitVec 1) (s : State) : Host.Outcome State Fault Refusal :=
  issue (.fsub b a d sw) s noTrap (plain fun s v => fpBinary s v d.toNat a.toNat b.toNat (fltSub f32))

def execFmul (b a d : BitVec 7) (sw : BitVec 1) (s : State) : Host.Outcome State Fault Refusal :=
  issue (.fmul b a d sw) s noTrap (plain fun s v => fpBinary s v d.toNat a.toNat b.toNat (fltMul f32))

def execFmin (b a d : BitVec 7) (sw : BitVec 1) (s : State) : Host.Outcome State Fault Refusal :=
  issue (.fmin b a d sw) s noTrap (plain fun s v => fpBinary s v d.toNat a.toNat b.toNat (fun _ sb x y => fltPick f32 sb false x y))

def execFmax (b a d : BitVec 7) (sw : BitVec 1) (s : State) : Host.Outcome State Fault Refusal :=
  issue (.fmax b a d sw) s noTrap (plain fun s v => fpBinary s v d.toNat a.toNat b.toNat (fun _ sb x y => fltPick f32 sb true x y))

def execFscl (b a d : BitVec 7) (sw : BitVec 1) (s : State) : Host.Outcome State Fault Refusal :=
  issue (.fscl b a d sw) s noTrap (plain fun s v => fpBinary s v d.toNat a.toNat b.toNat (fsclLane))

def execFabs (a d : BitVec 7) (sw : BitVec 1) (s : State) : Host.Outcome State Fault Refusal :=
  issue (.fabs a d sw) s noTrap (plain fun s v => fpUnary s v d.toNat a.toNat (signed false))

def execFneg (a d : BitVec 7) (sw : BitVec 1) (s : State) : Host.Outcome State Fault Refusal :=
  issue (.fneg a d sw) s noTrap (plain fun s v => fpUnary s v d.toNat a.toNat (signed true))

def execFcls (a d : BitVec 7) (sw : BitVec 1) (s : State) : Host.Outcome State Fault Refusal :=
  issue (.fcls a d sw) s noTrap (plain fun s v => fpUnary s v d.toNat a.toNat (fclsLane))

def execFexp (a d : BitVec 7) (sw : BitVec 1) (s : State) : Host.Outcome State Fault Refusal :=
  issue (.fexp a d sw) s noTrap (plain fun s v => fpUnary s v d.toNat a.toNat (fexpLane))

def execFrnd (r a d : BitVec 7) (sw : BitVec 1) (s : State) : Host.Outcome State Fault Refusal :=
  issue (.frnd r a d sw) s noTrap (plain fun s v => fpUnary s v d.toNat a.toNat (frndLane r.toNat))

def execFcmp (b a : BitVec 7) (c : BitVec 4) (p : BitVec 3) (sw : BitVec 1) (s : State) : Host.Outcome State Fault Refusal :=
  issue (.fcmp b a c p sw) s noTrap (plain fun s v =>
    let r := fun l => fcmpLane c.toNat (subnOf s v) (readX s v l a.toNat).toNat (readX s v l b.toNat).toNat
    writeFlags (writeP s v Config.latFp p.toNat fun l => (r l).1) v Config.latFp fun l => flagBits (r l).2)

def execFfma (b a d : BitVec 7) (sw : BitVec 1) (s : State) : Host.Outcome State Fault Refusal :=
  issue (.ffma b a d sw) s noTrap (plain fun s v => fpFused s v d.toNat a.toNat b.toNat false false)

def execFfms (b a d : BitVec 7) (sw : BitVec 1) (s : State) : Host.Outcome State Fault Refusal :=
  issue (.ffms b a d sw) s noTrap (plain fun s v => fpFused s v d.toNat a.toNat b.toNat false true)

def execFnma (b a d : BitVec 7) (sw : BitVec 1) (s : State) : Host.Outcome State Fault Refusal :=
  issue (.fnma b a d sw) s noTrap (plain fun s v => fpFused s v d.toNat a.toNat b.toNat true false)

/-! ## Packed (R254) -/

def execHadd2 (b a d : BitVec 7) (sw : BitVec 1) (s : State) : Host.Outcome State Fault Refusal :=
  issue (.hadd2 b a d sw) s noTrap (plain fun s v =>
    packed s v Config.latFp d.toNat a.toNat b.toNat (fun rm sb x y _ => fltAdd f16 rm sb x y))

def execHmul2 (b a d : BitVec 7) (sw : BitVec 1) (s : State) : Host.Outcome State Fault Refusal :=
  issue (.hmul2 b a d sw) s noTrap (plain fun s v =>
    packed s v Config.latFp d.toNat a.toNat b.toNat (fun rm sb x y _ => fltMul f16 rm sb x y))

def execHfma2 (b a d : BitVec 7) (sw : BitVec 1) (s : State) : Host.Outcome State Fault Refusal :=
  issue (.hfma2 b a d sw) s noTrap (plain fun s v =>
    packed s v Config.latFma d.toNat a.toNat b.toNat (fun rm sb x y z => fltFma f16 rm sb false false x y z))

def execBadd2 (b a d : BitVec 7) (sw : BitVec 1) (s : State) : Host.Outcome State Fault Refusal :=
  issue (.badd2 b a d sw) s noTrap (plain fun s v =>
    packed s v Config.latFp d.toNat a.toNat b.toNat (fun rm sb x y _ => fltAdd bf16 rm sb x y))

def execBmul2 (b a d : BitVec 7) (sw : BitVec 1) (s : State) : Host.Outcome State Fault Refusal :=
  issue (.bmul2 b a d sw) s noTrap (plain fun s v =>
    packed s v Config.latFp d.toNat a.toNat b.toNat (fun rm sb x y _ => fltMul bf16 rm sb x y))

def execBfma2 (b a d : BitVec 7) (sw : BitVec 1) (s : State) : Host.Outcome State Fault Refusal :=
  issue (.bfma2 b a d sw) s noTrap (plain fun s v =>
    packed s v Config.latFma d.toNat a.toNat b.toNat (fun rm sb x y z => fltFma bf16 rm sb false false x y z))

/-! ## Conversion (R255-R257) -/

def execCvt (t u : BitVec 4) (o : BitVec 2) (a d : BitVec 7) (sw : BitVec 1) (s : State) : Host.Outcome State Fault Refusal :=
  issuePre (.cvt t u o a d sw) s noTrap (cvtTrap t.toNat u.toNat o.toNat a.toNat) (plain fun s v =>
    writeFloat s v Config.latFp d.toNat (cvtResult s v t.toNat u.toNat o.toNat a.toNat))

/-! ## Special functions (R258, R259) -/

def execExp2 (a d : BitVec 7) (sw : BitVec 1) (s : State) : Host.Outcome State Fault Refusal :=
  issuePre (.exp2 a d sw) s noTrap sfuWait (sfuOp d.toNat (sfuLane exp2Of a.toNat))

def execLog2 (a d : BitVec 7) (sw : BitVec 1) (s : State) : Host.Outcome State Fault Refusal :=
  issuePre (.log2 a d sw) s noTrap sfuWait (sfuOp d.toNat (sfuLane log2Of a.toNat))

def execRcp (a d : BitVec 7) (sw : BitVec 1) (s : State) : Host.Outcome State Fault Refusal :=
  issuePre (.rcp a d sw) s noTrap sfuWait (sfuOp d.toNat (sfuLane rcpOf a.toNat))

def execRsqrt (a d : BitVec 7) (sw : BitVec 1) (s : State) : Host.Outcome State Fault Refusal :=
  issuePre (.rsqrt a d sw) s noTrap sfuWait (sfuOp d.toNat (sfuLane rsqrtOf a.toNat))

def execSqrt (a d : BitVec 7) (sw : BitVec 1) (s : State) : Host.Outcome State Fault Refusal :=
  issuePre (.sqrt a d sw) s noTrap sfuWait (sfuOp d.toNat (sfuLane sqrtOf a.toNat))

def execTanh (a d : BitVec 7) (sw : BitVec 1) (s : State) : Host.Outcome State Fault Refusal :=
  issuePre (.tanh a d sw) s noTrap sfuWait (sfuOp d.toNat (sfuLane tanhOf a.toNat))

def execLgs (a d : BitVec 7) (sw : BitVec 1) (s : State) : Host.Outcome State Fault Refusal :=
  issuePre (.lgs a d sw) s noTrap sfuWait (sfuOp d.toNat (sfuLane lgsOf a.toNat))

def execGactLgs (b a d : BitVec 7) (sw : BitVec 1) (s : State) : Host.Outcome State Fault Refusal :=
  issuePre (.gactLgs b a d sw) s noTrap sfuWait (sfuOp d.toNat (gateLane lgsOf false a.toNat b.toNat))

def execGactTanh (b a d : BitVec 7) (sw : BitVec 1) (s : State) : Host.Outcome State Fault Refusal :=
  issuePre (.gactTanh b a d sw) s noTrap sfuWait (sfuOp d.toNat (gateLane tanhOf false a.toNat b.toNat))

def execGactAlgs (b a d : BitVec 7) (sw : BitVec 1) (s : State) : Host.Outcome State Fault Refusal :=
  issuePre (.gactAlgs b a d sw) s noTrap sfuWait (sfuOp d.toNat (gateLane lgsOf true a.toNat b.toNat))

end Sys2Proof.Machine
end

