-- ==== Sys2Proof/Machine/Integer.lean ====
section
/-! DEFINITION. Integer, bit, immediate, predicate and select instructions of the lanes (R243-R249), with their 16-bit
forms (R183). -/

namespace Sys2Proof.Machine

/-! ## Word functions (Table 9.3) -/

/-- `a << b` for an unsigned count; 0 from 32 on. -/
def shlWord (a b : Word) : Word := if b.toNat < 32 then a <<< b.toNat else 0
def srlWord (a b : Word) : Word := if b.toNat < 32 then a >>> b.toNat else 0
/-- From 32 on, 32 copies of the sign. -/
def sraWord (a b : Word) : Word := a.sshiftRight (Nat.min 31 b.toNat)
def rolWord (a b : Word) : Word := a.rotateLeft (b.toNat % 32)
def minWord (a b : Word) : Word := if a.toInt ≤ b.toInt then a else b
def maxWord (a b : Word) : Word := if a.toInt ≤ b.toInt then b else a
def mulhWord (a b : Word) : Word := BitVec.ofInt 32 (a.toInt * b.toInt / 2 ^ 32)
def mulhnWord (a b : Word) : Word := BitVec.ofNat 32 (a.toNat * b.toNat / 2 ^ 32)
def absWord (a : Word) : Word := if a.toInt < 0 then 0 - a else a
def clzWord (a : Word) : Word := if a = 0 then 32 else BitVec.ofNat 32 (31 - a.toNat.log2)
def popcNat (n : Nat) : Nat := ((List.range 32).filter fun i => n.testBit i).length
def popcWord (a : Word) : Word := BitVec.ofNat 32 (popcNat a.toNat)
def brevWord (a : Word) : Word :=
  BitVec.ofNat 32 ((List.range 32).foldl (fun r i => if a.toNat.testBit i then r + 2 ^ (31 - i) else r) 0)

/-- pos, len and sgn of a field operand (R244). -/
def fieldPos (b : Word) : Nat := fld b.toNat 0 5
def fieldLen (b : Word) : Nat := Nat.min (fld b.toNat 8 6) (32 - fieldPos b)

def bfeWord (a b : Word) : Word :=
  let len := fieldLen b
  let f := fld a.toNat (fieldPos b) len
  if len = 0 then 0 else if bit b.toNat 16 then BitVec.ofNat 32 (wrap 32 (sx len f)) else BitVec.ofNat 32 f

def bfiWord (d a b : Word) : Word :=
  let pos := fieldPos b
  let len := fieldLen b
  BitVec.ofNat 32 (fld d.toNat 0 pos + fld a.toNat 0 len * 2 ^ pos + d.toNat / 2 ^ (pos + len) * 2 ^ (pos + len))

/-! ## Shapes -/

/-- d from one source register, usable after 4 cycles (R239). -/
def unary (s : State) (v : View) (d a : Nat) (f : Word → Word) : State :=
  writeLanes s v Config.latInt d fun l => f (readX s v l a)

/-- d from two source registers. -/
def binary (s : State) (v : View) (d a b : Nat) (f : Word → Word → Word) : State :=
  writeLanes s v Config.latInt d fun l => f (readX s v l a) (readX s v l b)

/-- A predicate from two source registers (R248). -/
def compare (s : State) (v : View) (p a b : Nat) (f : Word → Word → Bool) : State :=
  writeP s v Config.latInt p fun l => f (readX s v l a) (readX s v l b)

/-- A predicate from two predicates (R249). -/
def predOp (s : State) (v : View) (d a b : Nat) (f : Bool → Bool → Bool) : State :=
  writeP s v Config.latInt d fun l => f (readP s v l a) (readP s v l b)

/-! ## 16-bit forms (R183) -/

def execMov (sw d : BitVec 5) (s : State) : Host.Outcome State Fault Refusal :=
  issue (.mov sw d) s noTrap (plain fun s v => unary s v d.toNat sw.toNat id)

def execLi5 (i d : BitVec 5) (s : State) : Host.Outcome State Fault Refusal :=
  issue (.li5 i d) s noTrap (plain fun s v => writeLanes s v Config.latInt d.toNat fun _ => i.signExtend 32)

def execAdd16 (sw d : BitVec 5) (s : State) : Host.Outcome State Fault Refusal :=
  issue (.add16 sw d) s noTrap (plain fun s v => binary s v d.toNat d.toNat sw.toNat (· + ·))

def execSub16 (sw d : BitVec 5) (s : State) : Host.Outcome State Fault Refusal :=
  issue (.sub16 sw d) s noTrap (plain fun s v => binary s v d.toNat d.toNat sw.toNat (· - ·))

def execMul16 (sw d : BitVec 5) (s : State) : Host.Outcome State Fault Refusal :=
  issue (.mul16 sw d) s noTrap (plain fun s v => binary s v d.toNat d.toNat sw.toNat (· * ·))

def execAnd16 (sw d : BitVec 5) (s : State) : Host.Outcome State Fault Refusal :=
  issue (.and16 sw d) s noTrap (plain fun s v => binary s v d.toNat d.toNat sw.toNat (· &&& ·))

def execOr16 (sw d : BitVec 5) (s : State) : Host.Outcome State Fault Refusal :=
  issue (.or16 sw d) s noTrap (plain fun s v => binary s v d.toNat d.toNat sw.toNat (· ||| ·))

def execXor16 (sw d : BitVec 5) (s : State) : Host.Outcome State Fault Refusal :=
  issue (.xor16 sw d) s noTrap (plain fun s v => binary s v d.toNat d.toNat sw.toNat (· ^^^ ·))

def execShl16 (n d : BitVec 5) (s : State) : Host.Outcome State Fault Refusal :=
  issue (.shl16 n d) s noTrap (plain fun s v => unary s v d.toNat d.toNat (shlWord · (n.zeroExtend 32)))

def execSrl16 (n d : BitVec 5) (s : State) : Host.Outcome State Fault Refusal :=
  issue (.srl16 n d) s noTrap (plain fun s v => unary s v d.toNat d.toNat (srlWord · (n.zeroExtend 32)))

def execSra16 (n d : BitVec 5) (s : State) : Host.Outcome State Fault Refusal :=
  issue (.sra16 n d) s noTrap (plain fun s v => unary s v d.toNat d.toNat (sraWord · (n.zeroExtend 32)))

/-! ## Register forms (R243) -/

def execAdd (b a d : BitVec 7) (sw : BitVec 1) (s : State) : Host.Outcome State Fault Refusal :=
  issue (.add b a d sw) s noTrap (plain fun s v => binary s v d.toNat a.toNat b.toNat (· + ·))

def execSub (b a d : BitVec 7) (sw : BitVec 1) (s : State) : Host.Outcome State Fault Refusal :=
  issue (.sub b a d sw) s noTrap (plain fun s v => binary s v d.toNat a.toNat b.toNat (· - ·))

def execAnd (b a d : BitVec 7) (sw : BitVec 1) (s : State) : Host.Outcome State Fault Refusal :=
  issue (.and b a d sw) s noTrap (plain fun s v => binary s v d.toNat a.toNat b.toNat (· &&& ·))

def execOr (b a d : BitVec 7) (sw : BitVec 1) (s : State) : Host.Outcome State Fault Refusal :=
  issue (.or b a d sw) s noTrap (plain fun s v => binary s v d.toNat a.toNat b.toNat (· ||| ·))

def execXor (b a d : BitVec 7) (sw : BitVec 1) (s : State) : Host.Outcome State Fault Refusal :=
  issue (.xor b a d sw) s noTrap (plain fun s v => binary s v d.toNat a.toNat b.toNat (· ^^^ ·))

def execAndn (b a d : BitVec 7) (sw : BitVec 1) (s : State) : Host.Outcome State Fault Refusal :=
  issue (.andn b a d sw) s noTrap (plain fun s v => binary s v d.toNat a.toNat b.toNat (fun x y => x &&& ~~~y))

def execMin (b a d : BitVec 7) (sw : BitVec 1) (s : State) : Host.Outcome State Fault Refusal :=
  issue (.min b a d sw) s noTrap (plain fun s v => binary s v d.toNat a.toNat b.toNat minWord)

def execMax (b a d : BitVec 7) (sw : BitVec 1) (s : State) : Host.Outcome State Fault Refusal :=
  issue (.max b a d sw) s noTrap (plain fun s v => binary s v d.toNat a.toNat b.toNat maxWord)

def execShl (b a d : BitVec 7) (sw : BitVec 1) (s : State) : Host.Outcome State Fault Refusal :=
  issue (.shl b a d sw) s noTrap (plain fun s v => binary s v d.toNat a.toNat b.toNat shlWord)

def execSrl (b a d : BitVec 7) (sw : BitVec 1) (s : State) : Host.Outcome State Fault Refusal :=
  issue (.srl b a d sw) s noTrap (plain fun s v => binary s v d.toNat a.toNat b.toNat srlWord)

def execSra (b a d : BitVec 7) (sw : BitVec 1) (s : State) : Host.Outcome State Fault Refusal :=
  issue (.sra b a d sw) s noTrap (plain fun s v => binary s v d.toNat a.toNat b.toNat sraWord)

def execRol (b a d : BitVec 7) (sw : BitVec 1) (s : State) : Host.Outcome State Fault Refusal :=
  issue (.rol b a d sw) s noTrap (plain fun s v => binary s v d.toNat a.toNat b.toNat rolWord)

def execMul (b a d : BitVec 7) (sw : BitVec 1) (s : State) : Host.Outcome State Fault Refusal :=
  issue (.mul b a d sw) s noTrap (plain fun s v => binary s v d.toNat a.toNat b.toNat (· * ·))

def execMulh (b a d : BitVec 7) (sw : BitVec 1) (s : State) : Host.Outcome State Fault Refusal :=
  issue (.mulh b a d sw) s noTrap (plain fun s v => binary s v d.toNat a.toNat b.toNat mulhWord)

def execMulhn (b a d : BitVec 7) (sw : BitVec 1) (s : State) : Host.Outcome State Fault Refusal :=
  issue (.mulhn b a d sw) s noTrap (plain fun s v => binary s v d.toNat a.toNat b.toNat mulhnWord)

def execAbs (a d : BitVec 7) (sw : BitVec 1) (s : State) : Host.Outcome State Fault Refusal :=
  issue (.abs a d sw) s noTrap (plain fun s v => unary s v d.toNat a.toNat absWord)

/-! ## Immediate forms (R246, R247) -/

def execAddi (i : BitVec 10) (a d : BitVec 7) (sw : BitVec 1) (s : State) : Host.Outcome State Fault Refusal :=
  issue (.addi i a d sw) s noTrap (plain fun s v => unary s v d.toNat a.toNat (· + i.signExtend 32))

def execAndi (i a d : BitVec 7) (sw : BitVec 1) (s : State) : Host.Outcome State Fault Refusal :=
  issue (.andi i a d sw) s noTrap (plain fun s v => unary s v d.toNat a.toNat (· &&& i.zeroExtend 32))

def execOri (i a d : BitVec 7) (sw : BitVec 1) (s : State) : Host.Outcome State Fault Refusal :=
  issue (.ori i a d sw) s noTrap (plain fun s v => unary s v d.toNat a.toNat (· ||| i.zeroExtend 32))

def execXori (i a d : BitVec 7) (sw : BitVec 1) (s : State) : Host.Outcome State Fault Refusal :=
  issue (.xori i a d sw) s noTrap (plain fun s v => unary s v d.toNat a.toNat (· ^^^ i.zeroExtend 32))

def execShli (n : BitVec 5) (a d : BitVec 7) (sw : BitVec 1) (s : State) : Host.Outcome State Fault Refusal :=
  issue (.shli n a d sw) s noTrap (plain fun s v => unary s v d.toNat a.toNat (shlWord · (n.zeroExtend 32)))

def execSrli (n : BitVec 5) (a d : BitVec 7) (sw : BitVec 1) (s : State) : Host.Outcome State Fault Refusal :=
  issue (.srli n a d sw) s noTrap (plain fun s v => unary s v d.toNat a.toNat (srlWord · (n.zeroExtend 32)))

def execSrai (n : BitVec 5) (a d : BitVec 7) (sw : BitVec 1) (s : State) : Host.Outcome State Fault Refusal :=
  issue (.srai n a d sw) s noTrap (plain fun s v => unary s v d.toNat a.toNat (sraWord · (n.zeroExtend 32)))

def execLi (i : BitVec 16) (d : BitVec 7) (sw : BitVec 1) (s : State) : Host.Outcome State Fault Refusal :=
  issue (.li i d sw) s noTrap (plain fun s v => writeLanes s v Config.latInt d.toNat fun _ => i.signExtend 32)

def execLih (i : BitVec 16) (d : BitVec 7) (sw : BitVec 1) (s : State) : Host.Outcome State Fault Refusal :=
  issue (.lih i d sw) s noTrap (plain fun s v => unary s v d.toNat d.toNat fun x => i ++ x.extractLsb' 0 16)

/-! ## Comparisons, select and predicates (R248, R249) -/

def execIcmpEq (b a : BitVec 7) (p : BitVec 3) (sw : BitVec 1) (s : State) : Host.Outcome State Fault Refusal :=
  issue (.icmpEq b a p sw) s noTrap (plain fun s v => compare s v p.toNat a.toNat b.toNat (fun x y => x == y))

def execIcmpNe (b a : BitVec 7) (p : BitVec 3) (sw : BitVec 1) (s : State) : Host.Outcome State Fault Refusal :=
  issue (.icmpNe b a p sw) s noTrap (plain fun s v => compare s v p.toNat a.toNat b.toNat (fun x y => x != y))

def execIcmpLt (b a : BitVec 7) (p : BitVec 3) (sw : BitVec 1) (s : State) : Host.Outcome State Fault Refusal :=
  issue (.icmpLt b a p sw) s noTrap (plain fun s v => compare s v p.toNat a.toNat b.toNat (fun x y => decide (x.toInt < y.toInt)))

def execIcmpLe (b a : BitVec 7) (p : BitVec 3) (sw : BitVec 1) (s : State) : Host.Outcome State Fault Refusal :=
  issue (.icmpLe b a p sw) s noTrap (plain fun s v => compare s v p.toNat a.toNat b.toNat (fun x y => decide (x.toInt ≤ y.toInt)))

def execIcmpLtn (b a : BitVec 7) (p : BitVec 3) (sw : BitVec 1) (s : State) : Host.Outcome State Fault Refusal :=
  issue (.icmpLtn b a p sw) s noTrap (plain fun s v => compare s v p.toNat a.toNat b.toNat (fun x y => decide (x.toNat < y.toNat)))

def execIcmpLen (b a : BitVec 7) (p : BitVec 3) (sw : BitVec 1) (s : State) : Host.Outcome State Fault Refusal :=
  issue (.icmpLen b a p sw) s noTrap (plain fun s v => compare s v p.toNat a.toNat b.toNat (fun x y => decide (x.toNat ≤ y.toNat)))

/-- POISON of the words `sel` reads: xa, and the old xd where p is 0 (R430). -/
def selPoison (q a d : Nat) (s : State) (v : View) : Option Did :=
  match v.act.filterMap fun l => (poisoned s v (if readP s v l q then [(a, 1)] else [(a, 1), (d, 1)]) [l]).head? with
  | [] => none
  | (l, x) :: r => some (.trap (precise v cPoison (maskOf (l :: r.map (·.1))).toNat x))

def execSel (q : BitVec 3) (a d : BitVec 7) (sw : BitVec 1) (s : State) : Host.Outcome State Fault Refusal :=
  issuePre (.sel q a d sw) s noTrap (selPoison q.toNat a.toNat d.toNat) (plain fun s v => writeLanes s v Config.latInt d.toNat fun l =>
    if readP s v l q.toNat then readX s v l a.toNat else readX s v l d.toNat)

def execPand (b a d : BitVec 3) (sw : BitVec 1) (s : State) : Host.Outcome State Fault Refusal :=
  issue (.pand b a d sw) s noTrap (plain fun s v => predOp s v d.toNat a.toNat b.toNat and)

def execPor (b a d : BitVec 3) (sw : BitVec 1) (s : State) : Host.Outcome State Fault Refusal :=
  issue (.por b a d sw) s noTrap (plain fun s v => predOp s v d.toNat a.toNat b.toNat or)

def execPxor (b a d : BitVec 3) (sw : BitVec 1) (s : State) : Host.Outcome State Fault Refusal :=
  issue (.pxor b a d sw) s noTrap (plain fun s v => predOp s v d.toNat a.toNat b.toNat xor)

def execPnot (a d : BitVec 3) (sw : BitVec 1) (s : State) : Host.Outcome State Fault Refusal :=
  issue (.pnot a d sw) s noTrap (plain fun s v => predOp s v d.toNat a.toNat a.toNat (fun x _ => !x))

def execPmov (a d : BitVec 3) (sw : BitVec 1) (s : State) : Host.Outcome State Fault Refusal :=
  issue (.pmov a d sw) s noTrap (plain fun s v => predOp s v d.toNat a.toNat a.toNat (fun x _ => x))

/-! ## Bits (R243, R244) and addresses (R245) -/

def execClz (a d : BitVec 7) (sw : BitVec 1) (s : State) : Host.Outcome State Fault Refusal :=
  issue (.clz a d sw) s noTrap (plain fun s v => unary s v d.toNat a.toNat clzWord)

def execPopc (a d : BitVec 7) (sw : BitVec 1) (s : State) : Host.Outcome State Fault Refusal :=
  issue (.popc a d sw) s noTrap (plain fun s v => unary s v d.toNat a.toNat popcWord)

def execBrev (a d : BitVec 7) (sw : BitVec 1) (s : State) : Host.Outcome State Fault Refusal :=
  issue (.brev a d sw) s noTrap (plain fun s v => unary s v d.toNat a.toNat brevWord)

def execBfe (b a d : BitVec 7) (sw : BitVec 1) (s : State) : Host.Outcome State Fault Refusal :=
  issue (.bfe b a d sw) s noTrap (plain fun s v => binary s v d.toNat a.toNat b.toNat bfeWord)

def execBfi (b a d : BitVec 7) (sw : BitVec 1) (s : State) : Host.Outcome State Fault Refusal :=
  issue (.bfi b a d sw) s noTrap (plain fun s v => writeLanes s v Config.latInt d.toNat fun l =>
    bfiWord (readX s v l d.toNat) (readX s v l a.toNat) (readX s v l b.toNat))

/-- The pair d:d+1 of `lea` (R245). -/
def leaPair (s : State) (v : View) (a b l : Nat) : Nat :=
  wrap 64 ((readX2 s v l a : Nat) + (readX s v l b).toInt)

def execLea (b a d : BitVec 7) (sw : BitVec 1) (s : State) : Host.Outcome State Fault Refusal :=
  issue (.lea b a d sw) s noTrap (plain fun s v =>
    writeX s v Config.latInt (v.act.flatMap fun l =>
      let r := leaPair s v a.toNat b.toNat l
      [(l, d.toNat, BitVec.ofNat 32 r), (l, d.toNat + 1, BitVec.ofNat 32 (r / 2 ^ 32))]))

end Sys2Proof.Machine
end

