-- ==== Sys2Proof/Machine/CrossLane.lean ====
section
/-! DEFINITION. Cross-lane instructions (R260-R265). -/

namespace Sys2Proof.Machine

/-- xa of any lane of the warp, whatever its state (R260); an ejected thread has only its own (R265). -/
def laneSource (s : State) (v : View) (a l : Nat) : Word :=
  if v.kc then readX s v (v.act.headD 0) a else readX s v l a

/-- POISON of the words the active lanes read in other lanes (R430). -/
def crossPoison (s : State) (v : View) (a : Nat) (src : Nat → Nat) : Option Did :=
  let bad := v.act.filter fun l => !(poisoned s v [(a, 1)] [src l]).isEmpty
  match bad with
  | [] => none
  | l :: _ => some (.trap (precise v cPoison (maskOf bad).toNat (regAddr v.page a (src l))))

/-- A move of words between lanes, usable after 8 cycles (R239, R261). -/
def laneMove (d a : Nat) (src : State → View → Nat → Nat) (s : State) (v : View) : Did :=
  match crossPoison s v a (src s v) with
  | some t => t
  | none => .done (writeLanes s v Config.latShfl d fun l => laneSource s v a (src s v l)) .next 0

/-- v of R261: bits [4:0] of xb. -/
def shflArg (b : Nat) (s : State) (v : View) (l : Nat) : Nat := (readX s v l b).toNat % 32

/-- Lanes among the active ones whose predicate is set, as a mask (R262). -/
def ballot (s : State) (v : View) (p : Nat) : Nat := (maskOf (v.act.filter fun l => readP s v l p)).toNat

def voteWrite (s : State) (v : View) (d : Nat) (n : Nat) : State :=
  writeLanes s v Config.latShfl d fun _ => BitVec.ofNat 32 n

/-- Mask of the active lanes that hold the same word (R262). -/
def matchMask (s : State) (v : View) (a l : Nat) : Word :=
  maskOf (v.act.filter fun m => readX s v m a = readX s v l a)

/-- The pairwise tree of R164: adjacent results combined in ascending order, level by level. -/
def pairUp {α : Type} (f : α → α → α) : List α → List α
  | x :: y :: r => f x y :: pairUp f r
  | l => l

def treeOf {α : Type} (f : α → α → α) (levels : Nat) (l : List α) : List α :=
  (List.range levels).foldl (fun x _ => pairUp f x) l

/-- Identities of Table 9.5: operation 0 add, 1 max, 2 min; type 0 i32, 1 n32, 2 f32. -/
def identityOf (op ty : Nat) : Nat :=
  match op, ty with
  | 0, 2 => 0x80000000
  | 0, _ => 0
  | 1, 0 => 0x80000000
  | 1, 1 => 0
  | 1, _ => 0xFF800000
  | _, 0 => 0x7FFFFFFF
  | _, 1 => 0xFFFFFFFF
  | _, _ => 0x7F800000

/-- One addition of a reduction or scan with the flags so far (R263). -/
def addStep (subn ty : Nat) (x y : Flagged Nat) : Flagged Nat :=
  if ty = 2 then
    let (w, fl) := fltAdd f32 0 subn x.1 y.1
    (w, fl ||| x.2 ||| y.2)
  else ((x.1 + y.1) % 2 ^ 32, 0)

/-- Larger or smaller of two words by type; a NaN prevails (R263). -/
def pickStep (op ty : Nat) (x y : Nat) : Nat :=
  match ty with
  | 0 => (if op = 1 then maxWord (BitVec.ofNat 32 x) (BitVec.ofNat 32 y)
          else minWord (BitVec.ofNat 32 x) (BitVec.ofNat 32 y)).toNat
  | 1 => if op = 1 then Nat.max x y else Nat.min x y
  | _ =>
    let a := f32.decode x
    let b := f32.decode y
    if a.isNan || b.isNan then f32.nanCode
    else if op = 1 then (if a.lessSigned b then y else x)
    else (if b.lessSigned a then y else x)

/-- The 32 values of a reduction or scan: identities where a lane is not active (R263, R265). -/
def spread (s : State) (v : View) (op ty a : Nat) : List (Flagged Nat) :=
  (List.range 32).map fun l =>
    if v.act.contains l then
      (if ty = 2 then fltIn f32 (subnOf s v) (readX s v l a).toNat else ((readX s v l a).toNat, 0))
    else (identityOf op ty, 0)

/-- A float result that no addition has formed obeys R150 and R163 as any other. -/
def laneOut (subn ty : Nat) (x : Flagged Nat) : Flagged Nat :=
  if ty = 2 then
    let (w, fl) := fltOut f32 subn x.1
    (w, x.2 ||| fl)
  else x

/-- `lred` (R263): the result with its flags. -/
def reduce (s : State) (v : View) (op ty a : Nat) : Flagged Nat :=
  let xs := spread s v op ty a
  let r :=
    if op = 0 then treeOf (addStep (subnOf s v) ty) 5 xs
    else treeOf (fun x y => (pickStep op ty x.1 y.1, x.2 ||| y.2)) 5 xs
  laneOut (subnOf s v) ty (r.headD (0, 0))

def reduceWrite (s : State) (v : View) (op ty d a : Nat) : State :=
  let (w, fl) := reduce s v op ty a
  writeFloat s v Config.latRed d fun _ => (w, fl)

/-- One level of the scan of R264. -/
def scanLevel (subn ty k : Nat) (l : List (Flagged Nat)) : List (Flagged Nat) :=
  l.mapIdx fun i x => if 2 ^ k ≤ i then addStep subn ty (nth l (i - 2 ^ k) (0, 0)) x else x

/-- `lscan.add` (R264): the values by lane, and the flags of every addition. -/
def scan (s : State) (v : View) (ty a : Nat) : List (Flagged Nat) :=
  ((List.range 5).foldl (fun l k => scanLevel (subnOf s v) ty k l) (spread s v 0 ty a)).map (laneOut (subnOf s v) ty)

def scanWrite (s : State) (v : View) (ty d a : Nat) (inclusive : Bool) : State :=
  let r := scan s v ty a
  let fl := r.foldl (fun n x => n ||| x.2) 0
  writeFloat s v Config.latRed d fun l =>
    if inclusive then ((nth r l (0, 0)).1, fl)
    else if l = 0 then (identityOf 0 ty, fl) else ((nth r (l - 1) (0, 0)).1, fl)

/-! ## Meanings -/

def execShflIdx (b a d : BitVec 7) (sw : BitVec 1) (s : State) : Host.Outcome State Fault Refusal :=
  issue (.shflIdx b a d sw) s noTrap (laneMove d.toNat a.toNat fun s v l => shflArg b.toNat s v l)

def execShflUp (b a d : BitVec 7) (sw : BitVec 1) (s : State) : Host.Outcome State Fault Refusal :=
  issue (.shflUp b a d sw) s noTrap (laneMove d.toNat a.toNat fun s v l =>
    let n := shflArg b.toNat s v l
    if n ≤ l then l - n else l)

def execShflDown (b a d : BitVec 7) (sw : BitVec 1) (s : State) : Host.Outcome State Fault Refusal :=
  issue (.shflDown b a d sw) s noTrap (laneMove d.toNat a.toNat fun s v l =>
    let n := shflArg b.toNat s v l
    if l + n ≤ 31 then l + n else l)

def execShflXor (b a d : BitVec 7) (sw : BitVec 1) (s : State) : Host.Outcome State Fault Refusal :=
  issue (.shflXor b a d sw) s noTrap (laneMove d.toNat a.toNat fun s v l => l ^^^ shflArg b.toNat s v l)

def execLbc (n : BitVec 5) (a d : BitVec 7) (sw : BitVec 1) (s : State) : Host.Outcome State Fault Refusal :=
  issue (.lbc n a d sw) s noTrap (laneMove d.toNat a.toNat fun _ _ _ => n.toNat)

def execVoteAny (p : BitVec 3) (d : BitVec 7) (sw : BitVec 1) (s : State) : Host.Outcome State Fault Refusal :=
  issue (.voteAny p d sw) s noTrap (plain fun s v =>
    voteWrite s v d.toNat (if v.act.any fun l => readP s v l p.toNat then 1 else 0))

def execVoteAll (p : BitVec 3) (d : BitVec 7) (sw : BitVec 1) (s : State) : Host.Outcome State Fault Refusal :=
  issue (.voteAll p d sw) s noTrap (plain fun s v =>
    voteWrite s v d.toNat (if v.act.all fun l => readP s v l p.toNat then 1 else 0))

def execVoteBal (p : BitVec 3) (d : BitVec 7) (sw : BitVec 1) (s : State) : Host.Outcome State Fault Refusal :=
  issue (.voteBal p d sw) s noTrap (plain fun s v => voteWrite s v d.toNat (ballot s v p.toNat))

def execVoteCnt (p : BitVec 3) (d : BitVec 7) (sw : BitVec 1) (s : State) : Host.Outcome State Fault Refusal :=
  issue (.voteCnt p d sw) s noTrap (plain fun s v => voteWrite s v d.toNat (popcNat (ballot s v p.toNat)))

def execVoteMatch (a d : BitVec 7) (sw : BitVec 1) (s : State) : Host.Outcome State Fault Refusal :=
  issue (.voteMatch a d sw) s noTrap (plain fun s v =>
    writeLanes s v Config.latShfl d.toNat (matchMask s v a.toNat))

def execLredAdd (t : BitVec 2) (a d : BitVec 7) (sw : BitVec 1) (s : State) : Host.Outcome State Fault Refusal :=
  issue (.lredAdd t a d sw) s noTrap (plain fun s v => reduceWrite s v 0 t.toNat d.toNat a.toNat)

def execLredMax (t : BitVec 2) (a d : BitVec 7) (sw : BitVec 1) (s : State) : Host.Outcome State Fault Refusal :=
  issue (.lredMax t a d sw) s noTrap (plain fun s v => reduceWrite s v 1 t.toNat d.toNat a.toNat)

def execLredMin (t : BitVec 2) (a d : BitVec 7) (sw : BitVec 1) (s : State) : Host.Outcome State Fault Refusal :=
  issue (.lredMin t a d sw) s noTrap (plain fun s v => reduceWrite s v 2 t.toNat d.toNat a.toNat)

def execLscanAddInc (t : BitVec 2) (a d : BitVec 7) (sw : BitVec 1) (s : State) : Host.Outcome State Fault Refusal :=
  issue (.lscanAddInc t a d sw) s noTrap (plain fun s v => scanWrite s v t.toNat d.toNat a.toNat true)

def execLscanAddExc (t : BitVec 2) (a d : BitVec 7) (sw : BitVec 1) (s : State) : Host.Outcome State Fault Refusal :=
  issue (.lscanAddExc t a d sw) s noTrap (plain fun s v => scanWrite s v t.toNat d.toNat a.toNat false)

end Sys2Proof.Machine
end

