-- ==== Sys2Proof/Machine/FrontEnd.lean ====
section
/-! DEFINITION. The front end places units: the order of records (R61, R62, R67-R69), launch frames and their refusal (R64, R413),
placement (R70-R74, R77-R79, R446), the state of a unit at its start (R65, R66), and compaction (R101, R102). -/

namespace Sys2Proof.Machine

/-! ## Launch frames (R64, Table 3.2) -/

/-- The fields of a frame of 128 bytes. -/
def frameFrom (n : Nat) : Frame :=
  let g (off bytes : Nat) : Nat := fld n (8 * off) (8 * bytes)
  { fver := g 0 1, fflags := BitVec.ofNat 8 (g 1 1), contract := g 2 2, utx := g 4 2, uty := g 6 2, utz := g 8 2, lcores := g 0x0A 2
    gdx := g 0x0C 4, gdy := g 0x10 4, gdz := g 0x14 4, regs := g 0x18 1, l1w := g 0x19 1, tiles := g 0x1A 2, scratch := g 0x1C 4
    accres := g 0x20 1, accel := g 0x21 1, ejt := g 0x22 1, rjw := BitVec.ofNat 32 (g 0x24 4), traph := BitVec.ofNat 64 (g 0x28 8)
    argsz := g 0x30 2, dumpb := BitVec.ofNat 64 (g 0x38 8), rjtab := (List.range 15).map fun i => g (0x40 + i) 1 }

def readFrame (s : State) (x : Launch) : Option Frame := (vnat s x.gen x.frameAddr 128).map frameFrom

/-- Clusters of a partition that are ready and in the mask of a hearth queue (R29, R67). -/
def openClusters (s : State) (x : Launch) : List Nat :=
  let base := (partEntry s x.part).cbase
  (List.range 48).filter fun c => inPart s x.part c && bit s.fnrdyLo.toNat c && !s.retiredClusters.contains c && bit (hqdWord s x.fn x.hq 1) (c - base)

def clusterCores (cl : Nat) : List Nat := (List.range 24).map fun i => cl * 24 + i

/-- How many units of a frame a core with no resident unit takes. -/
def emptyRoom (f : Frame) : Nat :=
  let grow (n : Nat) : Bool :=
    let scr := ceilDiv f.scratch 2048
    n * f.warps ≤ 48 && n * f.tiles ≤ 256 && n * f.accres ≤ 64 &&
    n * scr ≤ spaceTop f.l1w && (findBlocks (spaceTop f.l1w - n * scr) (blockSize f.regs / 16) (n * f.warps) []).isSome
  maxOf ((List.range 49).filter grow)

/-- The most units of a DETERM launch that one of P cores hosts. -/
def mostHosted (f : Frame) (p : Nat) : Nat :=
  maxOf ((List.range p).map fun j =>
    (((List.range f.lcores).filter fun l => l % p = j).map fun l =>
      f.units / f.lcores + if l < f.units % f.lcores then 1 else 0).sum)

/-- The reason for which a frame is refused, the first of Table 16.6. -/
def frameReason (s : State) (x : Launch) (f : Frame) : Option Nat :=
  let clusters := ((List.range 48).filter fun c => inPart s x.part c && !s.retiredClusters.contains c).length
  let det := f.flag 0
  let p := if (openClusters s x).isEmpty then 1 else 24 * (openClusters s x).length
  let tests : List (Nat × Bool) := [
    (1, f.fver != 1),
    (2, 15 < f.contract || !cPres (if f.contract = 0 then 3 else f.contract)),
    (3, f.utx = 0 || f.uty = 0 || f.utz = 0 || 1024 < f.threads ||
      (x.task && (32 < f.threads || f.gdx != 1 || f.gdy != 1 || f.gdz != 1 || f.scratch != 0 || f.tiles != 0 || f.accres != 0))),
    (4, f.gdx = 0 || f.gdy = 0 || f.gdz = 0),
    (5, f.regs = 0 || 120 < f.regs || f.rjtab.any fun n => 120 < n),
    (6, 8 < f.l1w || (f.flag 2 && f.l1w = 0) || 256 < f.tiles || f.scratch % 128 != 0),
    (7, 64 < f.accres + f.accel),
    (8, 16 < f.ejt),
    (9, (det && (f.lcores = 0 || 1152 < f.lcores)) || (!det && f.lcores != 0)),
    (10, 3968 < f.argsz),
    (11, bit f.traph.toNat 0),
    (12, emptyRoom f = 0),
    (13, f.flag 1 && (24 * clusters * emptyRoom f < f.units || (det && emptyRoom f < mostHosted f p))),
    (14, f.dumpb.toNat % 4096 != 0)]
  (tests.find? (·.2)).map (·.1)

/-- A launch is refused (R413): it completes faulted, and a sealed report names the reason and the frame. A frame that cannot be read is
refused for reason 1 (log 27). -/
def refuseFrame (s : State) (l : Nat) (x : Launch) (reason : Nat) : State :=
  launchDone (postReport s x.fn 7 x.gen x.handle.toNat x.frameAddr x.code (bytesOf 8 reason)) l 3

/-- A phase with a DETERM launch runs under schedule 0 (R76, R80). A launch that the boundary of its phase could not see yet brings this
about when it joins the phase: DEDUCED (log 98). -/
def determPhase (s : State) (part : Nat) (f : Frame) : State := if f.flag 0 then modFe s part fun e => { e with active := 0 } else s

/-- The frame of a launch is read, when the record is first to be placed (R64). -/
def takeFrame (s : State) (l : Nat) (x : Launch) : State :=
  match readFrame s x with
  | none => refuseFrame s l x 1
  | some f =>
    match frameReason s x f with
    | some n => refuseFrame s l x n
    | none =>
      modLaunch (determPhase s x.part f) l fun y =>
        { y with frame := some f, unitsLeft := f.units, threadsLeft := f.units * f.threads
                 hosts := if f.flag 0 then (openClusters s x).flatMap clusterCores else [] }

/-! ## The order of records (R62, R69, R73) -/

/-- Launches of a partition with units still to be placed, that are ready or already placing (R62, R69). -/
def placing (s : State) (part : Nat) : List (Nat × Launch) :=
  let fe := feOf s part
  s.launches.filter fun (_, x) =>
    x.part = part && fe.vf = some x.fn && x.status = 0 && !x.cancelled && x.fatal.isNone && !((ctxOf s x.gen).any (·.halted)) &&
    (match x.frame with
      | some f => x.nextUnit < f.units
      | none => joinOf s x = 0)

/-- Whether a record is served before another: by PRI, then age (R68, R69). -/
def servedBefore (a b : Launch) : Bool := b.pri < a.pri || (a.pri = b.pri && olderSeq a.seq b.seq)

/-- The first record in an order that no other precedes. -/
def firstServed (l : List (Nat × Launch)) : Option (Nat × Launch) := l.find? fun x => l.all fun y => y.1 = x.1 || servedBefore x.2 y.2

/-- The head (R69). -/
def headOf (cands : List (Nat × Launch)) : Option (Nat × Launch) :=
  match cands.find? fun (_, x) => midGbar x with
  | some x => some x
  | none => firstServed cands

/-- A victim is an ordinary candidate when no ready record of higher PRI than its own remains (R73). -/
def released (l : List (Nat × Launch)) (x : Launch) : Bool := x.victim && l.all fun (_, y) => y.pri ≤ x.pri

/-! ## Where a unit goes (R71, R77) -/

def residentCount (s : State) (cl : Nat) : Nat := (s.units.filter fun (_, u) => clusterOf u.core = cl && !u.saved).length

def clusterHolds (s : State) (l : Nat) (f : Frame) (cl : Nat) : Bool :=
  (clusterCores cl).any fun c => fits s l f c || fitsCompacted s l f c

/-- The cluster and core of R71 among some clusters; true when the core fits only after compaction. -/
def chooseCore (s : State) (l : Nat) (f : Frame) (cls : List Nat) : Option (Nat × Bool) :=
  match minBy (residentCount s) (cls.filter (clusterHolds s l f)) with
  | none => none
  | some cl =>
    match (clusterCores cl).find? (fits s l f) with
    | some c => some (c, false)
    | none => ((clusterCores cl).find? (fitsCompacted s l f)).map fun c => (c, true)

/-- Weight of a group in the active schedule. -/
def groupWeight (fe : FrontEnd) (g : Nat) : Nat := fld fe.sched (8 * (0x20 + 8 * fe.active + g)) 8

/-- Clusters of a group of the schedule table, among some. -/
def groupClusters (s : State) (part g : Nat) (cls : List Nat) : List Nat := cls.filter fun cl => schedGroup s part cl = some g

/-- The clusters among which a unit is placed: those of the group that R77 takes, or all without a schedule table. -/
def groupFor (s : State) (l : Nat) (x : Launch) (f : Frame) : List Nat :=
  let fe := feOf s x.part
  let cls := openClusters s x
  if fe.sched = 0 then cls
  else
    let placed (g : Nat) : Nat := (tabGetD g (0, 0, 0) fe.groups).2.2
    let gs := (List.range (fld fe.sched 8 8)).filter fun g =>
      groupWeight fe g != 0 && (groupClusters s x.part g cls).any (clusterHolds s l f)
    match gs.find? fun g => gs.all fun h => placed g * groupWeight fe h ≤ placed h * groupWeight fe g with
    | some g => groupClusters s x.part g cls
    | none => []

/-! ## A unit at its start (R65, R66) -/

/-- A thread with nothing written (Table 3.3). -/
def Thread.first (lthr : Nat) : Thread :=
  { lthr := lthr, preds := 0, rm := 0, flags := 0, tmask := 3, cause := 0, aux := 0, ret := 0, ipc := 0, faddr := 0,
    inHandler := false }

/-- The L1 share of a core, or of a cluster to be fused, is set for a first unit (R70, R97, R107); a task record fuses no cluster in which
units of other launches are resident. -/
def setShare (s : State) (f : Frame) (core : Nat) : State :=
  let put (fuse : Bool) (a : State) (c : Nat) : State :=
    modCore a c fun k => { k with l1 := if k.l1w = f.l1w && !fuse then k.l1 else [], l1w := f.l1w, fused := k.fused || fuse }
  if (coreOf s core).fused then s
  else if f.flag 2 && residentCount s (clusterOf core) = 0 then (clusterCores (clusterOf core)).foldl (put true) s
  else if (residentsOn s core).isEmpty then put false s core
  else s

/-- A unit is granted its resources on a core, and its warps are ready in a cycle (R66, R97, R446). The record that is ready is acquired at
device scope (R63, Table 5.3): the core's L1 is emptied before anything of the unit issues (R127), and its threads acquire what was released
into the record. -/
def placeUnit (s : State) (l : Nat) (x : Launch) (f : Frame) (core lid since : Nat) : State :=
  let s0 := l1Acquire (setShare s f core) core 4
  match storeGrant (usedPages s0 core) { f with l1w := (coreOf s0 core).l1w }, findTiles s0 core f.tiles with
  | some (scr, blocks), some tile =>
    let (u, s1) := freshNat s0
    let unit : UnitSt :=
      { launch := l, lid := lid, core := core, nthreads := f.threads, left := f.threads
        k := tabSet 0 1 (BitVec.ofNat 64 x.recAddr) (tabSet 0 0 (BitVec.ofNat 64 x.frameAddr) []), kpend := [], om := []
        tileBase := tile, ntiles := f.tiles, scrPage := scr, scrPages := ceilDiv f.scratch 2048, gmap := [], gspill := [], binage := 256
        bars := [], own := [], lcore := if f.flag 0 then lid % f.lcores else 0, contract := if f.contract = 0 then 3 else f.contract
        cancelled := false, kept := [], halted := false, saved := false }
    let s2 := modCore { s1 with units := tabPut u unit s1.units } core fun k =>
      { k with tiles := k.tiles.filter fun (i, _) => !(tile ≤ i && i < tile + f.tiles) }
    let s3 := grantGranules s2 u (List.range f.accres)
    let s4 := (blocks.zip (freeSlots s core)).mapIdx (fun i b => (i, b)) |>.foldl (fun a (i, page, slot) =>
      let (serial, b) := freshNat (clearBlock a core page (blockSize f.regs) 32)
      let ts := (List.range (Nat.min 32 (f.threads - 32 * i))).map fun j => Thread.first (32 * i + j)
      setWarp b core slot (newWarp b u serial page (blockSize f.regs) (forwardPc b x.part (BitVec.ofNat 48 x.code)) ts since)) s3
    let s5 := (List.range f.threads).foldl (fun a t => acquire a u (agThread u t) (obRecord l) false) s4
    modLaunch s5 l fun y => y.goTo (y.nextUnit + 1)
  | _, _ => s

/-- Further units of a launch that a core takes. -/
def unitRoom (l : Nat) (x : Launch) (f : Frame) (core : Nat) : Nat → State → Nat
  | 0, _ => 0
  | n + 1, s => if fits s l f core then 1 + unitRoom l x f core n (placeUnit s l x f core 0 0) else 0

/-- Clusters that a launch may be placed in: those of its hearth queue, in groups that the active schedule gives a weight (R71, R77). -/
def placeClusters (s : State) (x : Launch) : List Nat :=
  let fe := feOf s x.part
  let cls := openClusters s x
  if fe.sched = 0 then cls
  else cls.filter fun cl => (schedGroup s x.part cl).any fun g => groupWeight fe g != 0

/-- Every unit of a launch with GBAR fits at once (R72, R79). -/
def allFit (s : State) (l : Nat) (x : Launch) (f : Frame) : Bool :=
  if f.flag 0 then
    (List.range x.hosts.length).all fun j =>
      let units := (((List.range f.lcores).filter fun c => c % x.hosts.length = j).map fun c =>
        f.units / f.lcores + if c < f.units % f.lcores then 1 else 0).sum
      units ≤ unitRoom l x f (nth x.hosts j 0) 48 s
  else f.units ≤ ((placeClusters s x).flatMap fun cl => (clusterCores cl).map fun c => unitRoom l x f c 48 s).sum

/-! ## What a front end does next -/

/-- What a front end does next, whether it takes one of the places of R71 apart. -/
inductive PlaceAct where
  | read (l : Nat)
  | place (l core lid : Nat)
  | compact (l core : Nat)
  | victims (ls : List Nat)
  | unmark (l : Nat)
deriving DecidableEq, Repr

/-- The place of the next unit of a launch; true when the core fits only after compaction. -/
def nextTarget (s : State) (l : Nat) (x : Launch) (f : Frame) : Option (Nat × Nat × Bool) :=
  let lid := unitAt f x.hosts x.nextUnit
  if x.rply then
    match recordedNow s l 0x02 with
    | some e => if fits s l f (fld e 44 12) then some (fld e 44 12, fld e 0 32, false) else none
    | none => none
  else if f.flag 1 && x.nextUnit = 0 && !allFit s l x f then none
  else if f.flag 0 then
    let c := nth x.hosts (lid % f.lcores % Nat.max 1 x.hosts.length) 0
    let lower := lid % f.lcores - x.hosts.length
    let held := !f.flag 1 && x.hosts.length ≤ lid % f.lcores &&
      s.units.any fun (_, u) => u.launch = l && u.lid % f.lcores = lower
    if held || x.hosts.isEmpty || !(openClusters s x).contains (clusterOf c) then none
    else if fits s l f c then some (c, lid, false)
    else if fitsCompacted s l f c then some (c, lid, true)
    else none
  else (chooseCore s l f (groupFor s l x f)).map fun (c, b) => (c, lid, b)

/-- The machine without the units of some launches. -/
def withoutLaunches (s : State) (ls : List Nat) : State :=
  let gone (u : Nat) : Bool := (unitOf s u).any fun x => ls.contains x.launch
  { s with units := s.units.filter fun (_, u) => !ls.contains u.launch
           cores := s.cores.map fun (c, k) => (c, { k with warps := k.warps.filter fun (_, w) => !gone w.unit }) }

/-- Launches of lower PRI taken as victims, lowest PRI and youngest first, until the head would fit (R73). -/
def takeVictims (s : State) (l : Nat) (x : Launch) (f : Frame) : List (Nat × Launch) → List Nat → Option (List Nat)
  | [], _ => none
  | (v, _) :: r, taken =>
    if (nextTarget (withoutLaunches s (taken ++ [v])) l x f).isSome then some (taken ++ [v]) else takeVictims s l x f r (taken ++ [v])

/-- Insertion of a launch in the order of victims. -/
def insVictim (x : Nat × Launch) : List (Nat × Launch) → List (Nat × Launch)
  | [] => [x]
  | y :: r => if servedBefore y.2 x.2 then x :: y :: r else y :: insVictim x r

/-- Launches of a partition that are marked as victims and still run. -/
def markedIn (s : State) (part : Nat) : List Nat := (s.launches.filter fun (_, y) => y.part = part && y.victim && y.status = 0).map (·.1)

/-- The head waits for victims to drain: it would fit without them (R73, R74). -/
def waitsForVictims (s : State) (l : Nat) (x : Launch) (f : Frame) : Bool :=
  !(markedIn s x.part).isEmpty && (nextTarget (withoutLaunches s (markedIn s x.part)) l x f).isSome

def victimsFor (s : State) (l : Nat) (x : Launch) (f : Frame) : Option (List Nat) :=
  let marked := markedIn s x.part
  let lower := s.launches.filter fun (i, y) =>
    y.part = x.part && y.fn = x.fn && y.pri < x.pri && y.status = 0 && y.fatal.isNone && !y.victim && s.units.any fun (_, u) => u.launch = i
  if (nextTarget (withoutLaunches s marked) l x f).isSome then none
  else (takeVictims s l x f (lower.foldl (fun a y => insVictim y a) []) marked).map fun v => v.filter fun i => !marked.contains i

/-- A core that the head could not use even without its victims (R74). -/
def uselessTo (s : State) (l : Nat) (x : Launch) (f : Frame) (core : Nat) : Bool :=
  let t := withoutLaunches s (markedIn s x.part)
  !((openClusters s x).contains (clusterOf core) && fits t l f core)

/-- A task record placed while the head waits for its victims, the oldest first (R74), on the lowest-numbered core that it may use: DESIGN
CHOICE (log 115), the spec names no core for a record that passes the head. -/
def taskAct (s : State) (l : Nat) (x : Launch) (f : Frame) (cands : List (Nat × Launch)) : Option PlaceAct :=
  let tasks := cands.filter fun (i, y) => y.task && x.pri ≤ y.pri && i != l && !y.rply
  match tasks.find? fun a => tasks.all fun b => a.1 = b.1 || olderSeq a.2.seq b.2.seq with
  | none => none
  | some (t, y) =>
    match y.frame with
    | none => some (.read t)
    | some g => (((openClusters s y).flatMap clusterCores).find? fun c => fits s t g c && uselessTo s l x f c).map fun c => .place t c 0

/-- What the front end of a partition does next (R69-R74). -/
def placeAct (s : State) (part : Nat) : Option PlaceAct :=
  let all := placing s part
  match s.launches.find? fun (_, x) => x.part = part && x.status = 0 && released all x with
  | some (l, _) => some (.unmark l)
  | none =>
    if s.cores.any fun (_, k) => k.compact.any fun c => (launchOf s c.launch).any fun y => y.part = part then none
    else
      let cands := all.filter fun (_, x) => !x.victim
      match headOf cands with
      | none => none
      | some (l, x) =>
        if (openClusters s x).isEmpty then none
        else
          match x.frame with
          | none => some (.read l)
          | some f =>
            match nextTarget s l x f with
            | some (c, lid, false) => some (.place l c lid)
            | some (c, _, true) => some (.compact l c)
            | none =>
              match victimsFor s l x f with
              | some v => some (.victims v)
              | none => if waitsForVictims s l x f then taskAct s l x f cands else none

/-- Whether it does so in this cycle: one placement every 4 cycles (R71). -/
def placeDue (s : State) (part : Nat) : Option PlaceAct :=
  match placeAct s part with
  | some (.place l c lid) => if (feOf s part).nextPlace ≤ s.now then some (.place l c lid) else none
  | a => a

/-- The cycle in which the first warp of a unit placed now may issue (R71); every unit of a launch with DETERM and GBAR is placed before
one issues (R79). -/
def firstIssue (s : State) (x : Launch) (f : Frame) : Nat :=
  if f.flag 0 && f.flag 1 then s.now + 4 * (f.units - 1 - x.nextUnit) + 24 else s.now + 24

/-- The front end takes its next action. -/
def placeNow (s : State) (part : Nat) : PlaceAct → State
  | .read l =>
    match launchOf s l with
    | some x => takeFrame s l x
    | none => s
  | .place l core lid =>
    match launchOf s l with
    | none => s
    | some x =>
      match x.frame with
      | none => s
      | some f =>
        let s1 := placeUnit s l x f core lid (firstIssue s x f)
        let s2 := capture s1 l 0x02 core 0 lid
        modFe s2 part fun e =>
          { e with nextPlace := s.now + 4
                   groups := match schedGroup s2 part (clusterOf core) with
                     | some g => tabPut g (let (t, u, n) := tabGetD g (0, 0, 0) e.groups; (t, u, n + 1)) e.groups
                     | none => e.groups }
  | .compact l core => modCore s core fun k => { k with compact := some ⟨l, 0, none⟩ }
  | .victims ls => ls.foldl (fun a l => modLaunch a l fun x => { x with victim := true }) s
  | .unmark l => modLaunch s l fun x => { x with victim := false }

def execUnitPlace (s : State) : Host.Outcome State Fault Refusal :=
  match s.subj with
  | .of [part] =>
    match placeDue s part with
    | some a => .next (placeNow s part a)
    | none => .next s
  | _ => .next s

/-! ## Compaction (R102) -/

/-- The unit for which a core is compacted still waits, and does not fit yet. -/
def stillWanted (s : State) (core : Nat) (c : Compact) : Bool :=
  let s1 := modCore s core fun k => { k with compact := none }
  match launchOf s c.launch with
  | none => false
  | some x =>
    match x.frame with
    | none => false
    | some f => (placing s x.part).any (fun y => y.1 = c.launch) && !fits s1 c.launch f core

/-- Both conditions of step 3: the warp stands at a switch marker with every slot returned, and the engine is between transfers. -/
def mayMove (s : State) (core w : Nat) : Bool :=
  match warpOf s core w with
  | none => false
  | some x =>
    let atMarker := match x.run.status with
      | .running | .handover => false
      | _ => true
    atMarker && x.run.usable ≤ s.now && x.run.slots.all (· == 0) && engineQuiet s (engineOf core)

/-- What the compaction of a core comes to: an end, a choice, or the start of a move. -/
inductive CompactAct where
  | stop
  | choose (w page : Nat)
  | copy (w page pages : Nat)
deriving DecidableEq, Repr

def compactAct (s : State) (core : Nat) : Option CompactAct :=
  match (coreOf s core).compact with
  | none => none
  | some c =>
    match c.move with
    | none =>
      if !stillWanted s core c then some .stop
      else match nextMove s core with
        | none => some .stop
        | some (w, p) => some (.choose w p)
    | some (w, p, e) =>
      if e != 0 then none
      else if !stillWanted s core c then some .stop
      else if nextMove s core ≠ some (w, p) then
        match nextMove s core with
        | none => some .stop
        | some (w1, p1) => some (.choose w1 p1)
      else if mayMove s core w then some (.copy w p (((warpOf s core w).map (·.bsize / 16)).getD 0)) else none

def doCompact (s : State) (core : Nat) : CompactAct → State
  | .stop => modCore s core fun k => { k with compact := none }
  | .choose w p => modCore s core fun k => { k with compact := k.compact.map fun c => { c with move := some (w, p, 0) } }
  | .copy w p n =>
    let first := ((coreOf s core).compact.map (·.moves)).getD 0 = 0
    let ends := s.now + (if first then 24 else 0) + 16 * n
    schedule (modCore s core fun k => { k with compact := k.compact.map fun c => { c with move := some (w, p, ends) } })
      ends .compactionMoveEnd (.of [core])

def execCompactionMove (s : State) : Host.Outcome State Fault Refusal :=
  match s.subj with
  | .of [core] =>
    match compactAct s core with
    | some a => .next (doCompact s core a)
    | none => .next s
  | _ => .next s

/-- Bytes and poison of a block at its new pages. -/
def copyBlock (k : Core) (src dst n : Nat) : Core :=
  { k with store := (k.store.clear dst n).write dst (k.store.read src n)
           storePoison := (k.storePoison.filter fun a => !(dst ≤ a && a < dst + n)) ++
             k.storePoison.filterMap fun a => if src ≤ a && a < src + n then some (a - src + dst) else none }

/-- Call-stack words still to be written move with the block. -/
def moveStack (src dst n : Nat) (p : Pend) : Pend :=
  match p.w with
  | .stack a v => if src ≤ a && a < src + n then { p with w := .stack (a - src + dst) v } else p
  | _ => p

/-- A move ends (R102 step 4): the block lies at its new page. All its words change place in this cycle, none before: DESIGN CHOICE (log
106). -/
def endMove (s : State) (core : Nat) : State :=
  match (coreOf s core).compact with
  | none => s
  | some c =>
    match c.move with
    | none => s
    | some (w, p, e) =>
      if e = 0 || s.now < e then s
      else
        let s1 := modCore s core fun k => { k with compact := some { c with moves := c.moves + 1, move := none } }
        match warpOf s core w with
        | none => s1
        | some x =>
          let n := 128 * x.bsize
          modWarp (modCore s1 core fun k => copyBlock k (2048 * x.page) (2048 * p) n) core w fun y =>
            { y with page := p, run := { y.run with pend := y.run.pend.map (moveStack (2048 * x.page) (2048 * p) n) } }

def execCompactionMoveEnd (s : State) : Host.Outcome State Fault Refusal :=
  match s.subj with
  | .of [core] => .next (endMove s core)
  | _ => .next s

end Sys2Proof.Machine
end

