-- ==== Sys2Proof/Machine/Packets.lean ====
section
/-! DEFINITION. Command queues and packets: kicks, taking, the checks of the Crucible, the actions of the packet types and completion
(R334-R342, R346, R359, R434, R435), and the schedule selector (R75, R76). -/

namespace Sys2Proof.Machine

/-! ## Queues (R334-R337) -/

/-- EN, the size and the ring base of a queue. -/
def Cq.en (c : Cq) : Bool := bit c.w0.toNat 8
def Cq.size (c : Cq) : Nat := 2 ^ (c.w0.toNat % 32)
def Cq.base (c : Cq) : Nat := c.w0.toNat / 4096 * 4096

/-- A VF runs on its partition, and no halt of it is under way (R82, R352). -/
def runsNow (s : State) (fn : Nat) : Bool :=
  fn != 0 && (feOf s (fnOf s fn).part).vf == some fn && !s.ctxs.any fun (_, c) => c.fn = fn && c.halted

/-- An event of kind 2 (R330, R434). -/
def packetEvent (s : State) (fn q status i : Nat) : State := postEvent s fn 2 (q + 16 * status) i

/-- A queue stops (R435). -/
def queueError (s : State) (fn q : Nat) : State :=
  let c := cqOf s fn q
  if c.err then s else packetEvent (modCq s fn q fun c => { c with err := true }) fn q 0x1F c.head

/-- A write of TAIL (R337). -/
def writeTail (s : State) (fn q v : Nat) : State :=
  if fn = 0 ∨ 128 < fn ∨ 16 ≤ q then s
  else
    let s1 := modCq s fn q fun c => { c with tail := Nat.max c.tail (v % 2 ^ 64) }
    let c := cqOf s1 fn q
    if c.en && c.head + c.size < c.tail then queueError s1 fn q else s1

def execTailWrite (s : State) : Host.Outcome State Fault Refusal :=
  match s.subj with
  | .of [fn, q, v] => .next (writeTail s fn q v)
  | _ => .next s

/-! ## Packet fields (Tables 12.4 and 12.5) -/

/-- Some bytes of a packet as a number. -/
def Packet.g (p : Packet) (off n : Nat) : Nat := fld p.bits.toNat (8 * off) (8 * n)
def Packet.type (p : Packet) : Nat := p.g 0 1
def Packet.flag (p : Packet) (i : Nat) : Bool := bit (p.g 1 1) i
def Packet.bar (p : Packet) : Bool := p.flag 0
def Packet.capt (p : Packet) : Bool := p.flag 1
def Packet.rply (p : Packet) : Bool := p.flag 2
def Packet.hq (p : Packet) : Nat := if p.type = 1 then p.g 0x24 1 else p.g 0x14 1
def Packet.moves (p : Packet) : Bool := p.type == 4 && bit (p.g 0x20 1) 0

/-- Bytes of a body that the packet type defines. -/
def bodyBytes (t : Nat) : List (Nat × Nat) :=
  match t with
  | 1 => [(0x08, 40)]
  | 2 => [(0x08, 8), (0x10, 4), (0x14, 1)]
  | 3 => [(0x08, 2), (0x10, 8)]
  | 4 => [(0x08, 24), (0x20, 1)]
  | 5 => [(0x08, 4)]
  | 6 => [(0x08, 4), (0x10, 8)]
  | _ => []

/-- Addresses a packet names (R346); 0 where it names none. -/
def packetAddrs (p : Packet) : List Nat :=
  (match p.type with
    | 1 => [p.g 0x08 8, p.g 0x10 8, p.g 0x18 8, p.g 0x28 8]
    | 2 => [p.g 0x08 8]
    | 3 => [p.g 0x10 8]
    | 4 => [p.g 0x08 8, p.g 0x10 8, p.g 0x08 8 + p.g 0x18 8 - 1, p.g 0x10 8 + p.g 0x18 8 - 1]
    | 6 => [p.g 0x10 8]
    | _ => []) ++ [p.g 0x30 8]

/-- A reserved byte is not 0, or a field holds a value that Table 12.5 does not assign (status 0x17). -/
def badFields (p : Packet) : Bool :=
  let used := [(0, 4), (0x30, 13)] ++ bodyBytes p.type
  ((List.range 64).any fun i => p.g i 1 != 0 && !used.any fun (o, n) => o ≤ i && i < o + n) ||
  16 ≤ p.g 1 1 || bit (p.g 0x3C 1) 6 || p.g 0x30 8 % 4 != 0 ||
  match p.type with
  | 1 => 16 ≤ p.g 0x24 1 || 8 ≤ p.g 0x25 1 || p.g 0x28 8 % 4096 != 0
  | 2 => p.g 0x08 8 % 32 != 0 || p.g 0x10 4 = 0 || 1024 < p.g 0x10 4 || 16 ≤ p.g 0x14 1
  | 3 => 4 ≤ p.g 0x08 1 || 64 ≤ p.g 0x09 1 || p.g 0x10 8 % 64 != 0
  | 4 => 2 ≤ p.g 0x20 1
  | 6 => p.g 0x10 8 % 16 != 0
  | _ => false

/-- Code moves under way that will take a forwarding entry. -/
def movesUnderWay (s : State) (part : Nat) : Nat := (s.cmds.filter fun (_, c) => c.op = 6 && c.part = part).length

/-- The conditions of a code move (R359). Ranges are held against the active entries alone, so that a move whose range overlaps that of a
move still under way is taken: DESIGN CHOICE (log 100). -/
def moveAllowed (s : State) (part : Nat) (p : Packet) : Bool :=
  let (src, dst, len) := (p.g 0x08 8, p.g 0x10 8, p.g 0x18 8)
  let free := ((List.range 64).filter fun i => (tabGet i (feOf s part).fwd).isNone).length
  src % 4096 = 0 && dst % 4096 = 0 && len % 4096 = 0 && 4096 ≤ len && len ≤ 65535 * 4096 && movesUnderWay s part < free &&
  (feOf s part).fwd.all fun (_, f) => !(f.active && src < (f.old + f.len) * 4096 && f.old * 4096 < src + len)

/-- The buffer of a replay verifies (R90, R91). -/
def replayOk (s : State) (fn gen : Nat) (p : Packet) : Bool :=
  let (buf, n) := (p.g 0x28 8, p.g 0x26 2 * 65536)
  match vread s gen buf n, openEntry s fn gen buf (n / 16 - 1) with
  | .ok b, some last => Config.sealOk (saveKey s (fnOf s fn).keyid) buf b && fld last 56 8 != 0x0C
  | _, _ => false

/-- CONTRACT of the frame a launch packet names, with 0 the partition default (R64, R346). -/
def packetContract (s : State) (gen : Nat) (p : Packet) : Option Nat :=
  (vnat s gen (p.g 0x10 8 + 2) 2).map fun c => if c = 0 then 3 else c

/-- The images of a graph. -/
def graphImages (s : State) (gen : Nat) (p : Packet) : Option (List Nat) :=
  match vread s gen (p.g 0x08 8) (32 * p.g 0x10 4) with
  | .ok b => some ((List.range (p.g 0x10 4)).map fun i => natOf ((b.drop (32 * i)).take 32))
  | .error _ => none

/-- The status with which a packet is refused (Table 17.3). Of several, what the packet itself shows comes before what needs its context,
the policy's flags before its memory, and that before the contract (log 32). -/
def packetRefusal (s : State) (fn : Nat) (p : Packet) : Option Nat :=
  if p.type = 0 ∨ 7 ≤ p.type then some 0x10
  else if badFields p then some 0x17
  else
    match ctxGen s fn (p.g 2 2) with
    | none => some 0x11
    | some gen =>
      let pol := (fnOf s fn).policy
      let part := (fnOf s fn).part
      let allowed (f : Policy → Bool) : Bool := (pol.map f).getD false
      let contract := packetContract s gen p
      let special := p.capt || p.rply
      let count := p.g 0x10 4
      let images := if p.type = 2 then graphImages s gen p else some []
      let tests : List (Nat × Bool) := [
        (0x13, (p.capt && !allowed (·.capt)) || (p.rply && !allowed (·.rply)) || (p.moves && !allowed (·.codeMove)) || (p.capt && p.rply) ||
          (special && p.type != 1)),
        (0x19, p.type = 1 && (special == (p.g 0x26 2 == 0))),
        (0x18, p.type = 2 && ringSize s fn p.hq < count),
        (0x14, (packetAddrs p).any (2 ^ 48 ≤ ·) || (p.type = 1 && contract.isNone) || images.isNone),
        (0x12, p.type = 1 && contract.any fun c => c < 16 && !allowed fun q => q.contracts.toNat.testBit c),
        (0x15, p.moves && !moveAllowed s part p),
        (0x16, p.type = 1 && p.rply && !replayOk s fn gen p),
        (0x1A, p.type = 2 && (images.getD []).any fun im => let q := fld im 192 64; count < q && q ≤ 1024)]
      (tests.find? (·.2)).map (·.1)

/-! ## Taking packets (R336) -/

/-- The next packet of a queue is to be taken. -/
def takeDue (s : State) (fn q : Nat) : Bool :=
  let c := cqOf s fn q
  runsNow s fn && c.en && !c.err && !c.closing && c.head < c.tail

/-- A packet whose TYPE names no action is refused as it is taken (R338). -/
def takePacket (s : State) (fn q : Nat) : State :=
  let c := cqOf s fn q
  match ringPasid s fn with
  | none => queueError s fn q
  | some p =>
    if !s.linkUp then queueError s fn q
    else
      let bits := natOf (readPlace s (.host p (c.base + 64 * (c.head % c.size))) 64)
      let pk : Packet := ⟨BitVec.ofNat 512 bits, false, false, 0, none⟩
      let bad := pk.type = 0 || 7 ≤ pk.type
      let s1 := modCq s fn q fun c =>
        { c with head := c.head + 1
                 taken := tabPut c.head (if bad then { pk with started := true, status := 0x10 } else pk) c.taken }
      let s2 := writePlace s1 (.host p (c.w1.toNat / 8 * 8)) (bytesOf 8 (c.head + 1))
      if bad then schedule s2 s.now .packetComplete (.of [fn, q, c.head]) else s2

def execPacketTake (s : State) : Host.Outcome State Fault Refusal :=
  match s.subj with
  | .of [fn, q] => .next (if takeDue s fn q then takePacket s fn q else s)
  | _ => .next s

/-! ## Starting packets (R340, R342) -/

/-- The first packet of a queue that has not started. -/
def nextStart (s : State) (fn q : Nat) : Option (Nat × Packet) := (cqOf s fn q).taken.find? fun (_, p) => !p.started

/-- The engine that carries copy packets of a partition (R339). -/
def packetCore (s : State) (part : Nat) : Nat := (partEntry s part).cbase * 24

/-- Ranges of memory that are read, or written, as a packet starts: FRAME, TABLE, SCHED and RESULT (R339, R346). -/
def packetRanges (p : Packet) : List (Nat × Nat) :=
  match p.type with
  | 1 => [(p.g 0x10 8, 128)]
  | 2 => [(p.g 0x08 8, 32 * p.g 0x10 4)]
  | 3 => if p.g 8 1 = 2 && p.g 0x10 8 != 0 then [(p.g 0x10 8, 64)] else []
  | 6 => [(p.g 0x10 8, 16)]
  | _ => []

/-- Host pages that a packet has to be given a translation for before it starts. -/
def packetWants (s : State) (fn : Nat) (p : Packet) : List (Nat × Nat) :=
  if badFields p then []
  else match ctxGen s fn (p.g 2 2) with
    | none => []
    | some gen => (packetRanges p).flatMap fun (a, n) => (hostWants s gen a n).map fun x => (gen, x)

/-- A packet may start: its host pages are there or refused (R339, R346), BAR, room in its hearth queue, and room in the queue of its engine (R284, R340, R342). -/
def mayStart (s : State) (fn q i : Nat) (p : Packet) : Bool :=
  let part := (fnOf s fn).part
  runsNow s fn && !(cqOf s fn q).err && (packetWants s fn p).all (fun (g, a) => hostRefused s g a) && (!p.bar || (cqOf s fn q).taken.all fun (j, _) => i ≤ j) &&
  ((packetRefusal s fn p).isSome ||
    match p.type with
    | 1 => ringFree s part fn p.hq 1
    | 2 => ringFree s part fn p.hq (p.g 0x10 4)
    | 4 => (engineAt s (dieOf (packetCore s part) * 4)).queue.length < 64
    | _ => true)

/-- The row that starts a packet. -/
def packetRow (p : Packet) : Instr :=
  match p.type with
  | 1 => .pktLaunch
  | 2 => .pktGraphSubmit
  | 3 => if p.g 8 1 = 0 then .pktSignalSet else if p.g 8 1 = 1 then .pktSignalClear else if p.g 8 1 = 2 then .pktSignalPhase else .pktSignalNothing
  | 4 => if p.moves then .pktCodeMove else .pktCopy
  | 5 => .pktCancel
  | _ => .pktQuery

/-- What a queue does next. -/
def queueEvent (s : State) (fn q : Nat) : Option (Instr × Subject) :=
  if takeDue s fn q then some (.packetTake, .of [fn, q])
  else match nextStart s fn q with
    | some (i, p) => if mayStart s fn q i p then some (packetRow p, .of [fn, q, i]) else none
    | none => none

/-- Host pages that the front ends have to be given a translation for. -/
def frontWants (s : State) : List (Nat × Nat) :=
  s.fns.flatMap fun (fn, f) =>
    if !runsNow s fn then []
    else f.cqs.flatMap fun (q, _) =>
      match nextStart s fn q with
      | some (_, p) => packetWants s fn p
      | none => []

/-- The queues of a function. -/
def fnEvent (s : State) (fn : Nat) : Option (Instr × Subject) := ((fnOf s fn).cqs.map (·.1)).findSome? (queueEvent s fn)

/-- A packet has started, or has been refused with a status: it then completes at once (R434). -/
def markStarted (s : State) (fn q i status : Nat) : State :=
  modCq s fn q fun c => { c with taken := tabMod i (fun p => { p with started := true, status := status }) c.taken }

/-- The context in which a packet has started. -/
def startedIn (s : State) (fn q i gen : Nat) : State :=
  modCq s fn q fun c => { c with taken := tabMod i (fun p => { p with gen := some gen }) c.taken }

/-- A packet of a row starts, under the context its CTX names. -/
def startPacket (row : Instr) (s : State) (act : State → Nat → Nat → Nat → Nat → Packet → State) : State :=
  match s.subj with
  | .of [fn, q, i] =>
    match nextStart s fn q with
    | some (j, p) =>
      if !(i = j && packetRow p = row && mayStart s fn q i p) then s
      else
        match packetRefusal s fn p with
        | some n => schedule (markStarted s fn q i n) s.now .packetComplete (.of [fn, q, i])
        | none =>
          match ctxGen s fn (p.g 2 2) with
          | some gen => act (startedIn (markStarted s fn q i 0) fn q i gen) fn q i gen p
          | none => s
    | none => s
  | _ => s

/-- A packet that ends with its action. -/
def thenDone (f : State → Nat → Nat → Nat → Nat → Packet → State) (s : State) (fn q i gen : Nat) (p : Packet) : State :=
  schedule (f s fn q i gen p) s.now .packetComplete (.of [fn, q, i])

/-! ### Launch and graph submit -/

def phaseOf (s : State) (fn q : Nat) : Word := phaseHandle q (cqOf s fn q).phases

/-- A graph or a launch is submitted in the current phase (Table 2.4). -/
def joinPhase (s : State) (fn q : Nat) : State := modInst s fn (phaseOf s fn q) fun i => { i with count := i.count + 1 }

/-- A launch joins the current phase: with DETERM set, the phase runs under schedule 0 from then on (R76, R80). -/
def seenDeterm (s : State) (part gen frame : Nat) : State :=
  match vnat s gen frame 128 with
  | some n => determPhase s part (frameFrom n)
  | none => s

/-- A launch packet pushes one unit record (R339); capture begins with the packet (R90, Table 3.8). -/
def launchPacket (s : State) (fn q i gen : Nat) (p : Packet) : State :=
  let part := (fnOf s fn).part
  let s1 := if p.flag 3 then dropLines s part fun l => l.gen = gen else s
  let image := p.g 0x08 8 % 2 ^ 48 + p.g 0x25 1 * 2 ^ 60 + p.g 0x10 8 % 2 ^ 48 * 2 ^ 64 + p.g 0x20 4 * 2 ^ 128 + p.g 0x18 8 * 2 ^ 192
  let push : Push :=
    { fn := fn, gen := gen, queue := q, handle := packetLaunchHandle q i, graph := none, phase := phaseOf s fn q, pkt := some i
      spawned := false, capbuf := p.g 0x28 8, capsz := p.g 0x26 2, capt := p.capt, rply := p.rply }
  let l := s1.fresh
  let s2 := joinPhase (seenDeterm (pushRecord s1 part p.hq image push).1 part gen (p.g 0x10 8)) fn q
  if p.rply then modLaunch s2 l fun x => { x with capIdx := 5 }
  else if p.capt then captureData (capture s2 l 0x01 part 0 ((packetContract s gen p).getD 3)) l 4 (bytesOf 64 p.bits.toNat)
  else s2

def execPktLaunch (s : State) : Host.Outcome State Fault Refusal := .next (startPacket .pktLaunch s launchPacket)

/-- A PARENT of 1 to 1,024 becomes the ring address of the image it names (R339). -/
def resolveParent (s : State) (fn h t : Nat) (image : Nat) : Nat :=
  let p := fld image 192 64
  if 1 ≤ p ∧ p ≤ 1024 then image - p * 2 ^ 192 + (ringBase s fn h + 32 * ((t + (p - 1)) % ringSize s fn h)) * 2 ^ 192 else image

/-- A graph-submit packet pushes its records together (R339, R340); each forms a launch of its own (R454). -/
def graphPacket (s : State) (fn q i gen : Nat) (p : Packet) : State :=
  let part := (fnOf s fn).part
  let images := (graphImages s gen p).getD []
  let t := (tabGetD p.hq (0, []) (feOf s part).rings).1
  let g := graphHandle q i
  let inst : Inst := ⟨g, fn, phaseOf s fn q, images.length, true, 0⟩
  let s1 := joinPhase { s with insts := s.insts ++ [inst] } fn q
  images.foldl (fun a im =>
    let n := (cqOf a fn q).spawned
    let push : Push :=
      { fn := fn, gen := gen, queue := q, handle := memberLaunchHandle q n, graph := some g, phase := phaseOf s fn q, pkt := none
        spawned := false, capbuf := 0, capsz := 0, capt := false, rply := false }
    let b := seenDeterm (pushRecord a part p.hq (resolveParent s fn p.hq t im) push).1 part gen (fld im 64 48)
    modCq b fn q fun c => { c with spawned := c.spawned + 1 }) s1

def execPktGraphSubmit (s : State) : Host.Outcome State Fault Refusal := .next (startPacket .pktGraphSubmit s graphPacket)

/-! ### Signals -/

def execPktSignalSet (s : State) : Host.Outcome State Fault Refusal :=
  .next (startPacket .pktSignalSet s (thenDone fun s fn _ _ _ p => setEventFlag s (fnOf s fn).part (p.g 9 1) true))

def execPktSignalClear (s : State) : Host.Outcome State Fault Refusal :=
  .next (startPacket .pktSignalClear s (thenDone fun s fn _ _ _ p => setEventFlag s (fnOf s fn).part (p.g 9 1) false))

def execPktSignalNothing (s : State) : Host.Outcome State Fault Refusal :=
  .next (startPacket .pktSignalNothing s (thenDone fun s _ _ _ _ _ => s))

/-- Cost T / U of each measured group of a phase, unmeasured ones taking the largest (R76). -/
def groupCosts (fe : FrontEnd) (ngrp : Nat) : List (Nat × Nat) :=
  let one (g : Nat) : Option (Nat × Nat) := let (t, u, _) := tabGetD g (0, 0, 0) fe.groups; if u = 0 then none else some (t, u)
  let all := (List.range ngrp).map one
  let measured := all.filterMap id
  match measured.find? fun a => measured.all fun b => b.1 * a.2 ≤ a.1 * b.2 with
  | none => []
  | some top => all.map fun c => c.getD top

/-- Predicted time of a schedule as a fraction (R76 step 3). -/
def predicted (table : Nat) (costs : List (Nat × Nat)) (sch : Nat) : Option (Nat × Nat) :=
  let w (g : Nat) : Nat := fld table (8 * (0x20 + 8 * sch + g)) 8
  let terms := (costs.mapIdx fun g c => (w g, c)).filterMap fun (k, t, u) => if k = 0 then none else some (k * t, u)
  let sum := ((List.range costs.length).map w).sum
  (terms.find? fun a => terms.all fun b => b.1 * a.2 ≤ a.1 * b.2).map fun (n, d) => (n, d * sum)

/-- The frame that a record image of a context names has DETERM set. -/
def imageDeterm (s : State) (gen frame : Nat) : Bool := (vnat s gen frame 128).any fun n => (frameFrom n).flag 0

/-- A packet that has been taken submits a launch with DETERM set. -/
def packetDeterm (s : State) (fn : Nat) (p : Packet) : Bool :=
  match ctxGen s fn (p.g 2 2) with
  | none => false
  | some gen =>
    if p.type = 1 then imageDeterm s gen (p.g 0x10 8)
    else if p.type = 2 then ((graphImages s gen p).getD []).any fun im => imageDeterm s gen (fld im 64 48)
    else false

/-- A launch with DETERM set is among the packets taken for the phase that packet `i` of a queue opens (R76). -/
def phaseDeterm (s : State) (fn q i : Nat) : Bool :=
  let later := (cqOf s fn q).taken.filter fun (j, _) => i < j
  (later.takeWhile fun (_, p) => !(p.type == 3 && p.g 8 1 == 2)).any fun (_, p) => packetDeterm s fn p

/-- The schedule of the phase that opens (R76): the least predicted time, ties to the lowest index; 0 for the first phase of a job, with
nothing measured, and for a phase with a DETERM launch. -/
def selectSchedule (fe : FrontEnd) (table : Nat) (first : Bool) : Nat :=
  let costs := groupCosts fe (Nat.min 8 (fld table 8 8))
  if first || costs.isEmpty then 0
  else
    let ps := (List.range (Nat.min 4 (fld table 0 8))).filterMap fun k => (predicted table costs k).map fun x => (k, x)
    match ps.find? fun (_, a) => ps.all fun (_, b) => a.1 * b.2 ≤ b.1 * a.2 with
    | some (k, _) => k
    | none => 0

/-- A phase boundary (R75, R76, R339): the current phase closes, the next opens, and the selector chooses. -/
def phasePacket (s : State) (fn q i gen : Nat) (p : Packet) : State :=
  let part := (fnOf s fn).part
  let c := cqOf s fn q
  let table := if p.g 0x10 8 = 0 then 0 else (vnat s gen (p.g 0x10 8) 64).getD 0
  let live := (s.launches.filter fun (_, x) => x.part = part && x.status = 0 && (x.capt || x.rply)).map (·.1)
  let forced := live.findSome? fun l => (recordedNow s l 0x03).map fun e => fld e 0 2
  let k := forced.getD (selectSchedule (feOf s part) table (c.phases = 0 || phaseDeterm s fn q i))
  let next := phaseHandle q (c.phases + 1)
  let s1 := modInst { s with insts := s.insts ++ [⟨next, fn, jobHandle q, 0, false, 0⟩] } fn (jobHandle q) fun i => { i with count := i.count + 1 }
  let s2 := modCq (closeInst s1 fn (phaseOf s fn q)) fn q fun c => { c with phases := c.phases + 1 }
  let s3 := modFe s2 part fun f => { f with sched := table, active := k, phaseAt := s.now, groups := [] }
  live.foldl (fun a l => capture a l 0x03 part 0 k) s3

def execPktSignalPhase (s : State) : Host.Outcome State Fault Refusal := .next (startPacket .pktSignalPhase s (thenDone phasePacket))

/-! ### Copies, cancel and query -/

/-- A copy by the engine of the die of the partition's lowest cluster (R339). -/
def copyPacket (op : Nat) (s : State) (fn q i gen : Nat) (p : Packet) : State :=
  let part := (fnOf s fn).part
  let c : Cmd :=
    { op := op, gid := .kindle 0 1000000, serial := 2 ^ 64, unit := 2 ^ 64, launch := 2 ^ 64, part := part, gen := gen
      core := packetCore s part, slot := 0, lanes := 1, ipc := 0, ctl := BitVec.ofNat 64 (2 ^ 60), w1 := 0, w2 := 0
      w3 := BitVec.ofNat 64 (p.g 0x18 8), src := p.g 0x08 8, dst := p.g 0x10 8, issued := s.now, acq := [], phase := 0, lines := []
      rest := [], nextRow := 0, lost := 0, readEnd := 0, doneAt := 0, tile := none, stamp := 0, trap := none, follow := none, pkt := some (fn, q, i)
      noEvents := false, values := [] }
  (enqueue s c).1

def execPktCopy (s : State) : Host.Outcome State Fault Refusal := .next (startPacket .pktCopy s (copyPacket 5))

def execPktCodeMove (s : State) : Host.Outcome State Fault Refusal := .next (startPacket .pktCodeMove s (copyPacket 6))

/-- A cancel packet cancels an instance of the function's own jobs (R339). -/
def cancelPacket (s : State) (fn _q _i _gen : Nat) (p : Packet) : State :=
  let h := BitVec.ofNat 32 (p.g 0x08 4)
  if 1 ≤ handleLevel h && handleLevel h ≤ 4 then cancelHandle s fn h else s

def execPktCancel (s : State) : Host.Outcome State Fault Refusal := .next (startPacket .pktCancel s (thenDone cancelPacket))

/-- A query packet writes a counter and a status (R339); a write that fails makes it complete faulted. -/
def queryPacket (s : State) (fn q i gen : Nat) (p : Packet) : State :=
  let (n, st) := handleState s fn (BitVec.ofNat 32 (p.g 0x08 4))
  let word := n % 2 ^ 32 + st * 2 ^ 32 + (reftick s).toNat * 2 ^ 64
  match vwrite s gen (p.g 0x10 8) (bytesOf 16 word) with
  | .ok t => t
  | .error _ => markStarted s fn q i 1

def execPktQuery (s : State) : Host.Outcome State Fault Refusal := .next (startPacket .pktQuery s (thenDone queryPacket))

/-! ## Completion (R342, R434) -/

/-- How an instance ended. -/
def endedWith (s : State) (fn : Nat) (h : Word) : Nat := ((s.ended.find? fun e => e.1 = h && e.2.1 = fn).map (·.2.2)).getD 1

/-- Status with which a packet that has started completes, once it is over. -/
def packetStatus (s : State) (fn q i : Nat) (p : Packet) : Option Nat :=
  let ofEnd (st : Nat) : Nat := if st = 3 then 1 else if st = 2 then 2 else 0
  if p.status != 0 then some p.status
  else
    match p.type with
    | 1 =>
      let h := packetLaunchHandle q i
      if s.launches.any fun (_, x) => x.fn = fn && x.handle = h && x.status = 0 && x.pkt = some i then none else some (ofEnd (endedWith s fn h))
    | 2 =>
      let h := graphHandle q i
      if (instOf s fn h).isSome then none else some (ofEnd (endedWith s fn h))
    | 4 => if s.cmds.any fun (_, c) => c.pkt = some (fn, q, i) then none else some 0
    | _ => some 0

/-- The completion write: a release at system scope (R342). A write that fails does nothing. -/
def completeWrite (s : State) (gen cwa cwv : Nat) : State :=
  match serve s gen cwa false true with
  | .error _ => s
  | .ok pl =>
    if (match pl with | .host .. => !s.linkUp | _ => false) then s
    else
      let s1 := writeAs s gen pl (bytesOf 4 cwv)
      match pl with
      | .dev a =>
        let r : SyncLine := ⟨a, 4, 6, frontParty s⟩
        { s1 with syncLines := s1.syncLines.filter (fun x => x.addr / 128 != a / 128) ++ [r] }
      | _ => s1

/-- The job of a queue opens with its first phase (R75, R334): its counts of records and phases start from 0, and the handles of an earlier job are forgotten. -/
def openJob (s : State) (fn q : Nat) : State :=
  let s1 := modCq s fn q fun c => { c with err := c.en && c.head + c.size < c.tail, taken := [], spawned := 0, phases := 0, closing := false }
  let others := s1.insts.filter fun i => !(i.fn = fn && handleQueue i.handle = q)
  { s1 with insts := others ++ [⟨jobHandle q, fn, 0, 1, false, 0⟩, ⟨phaseHandle q 0, fn, jobHandle q, 0, false, 0⟩]
            ended := s1.ended.filter fun e => !(e.2.1 = fn && handleQueue e.1 = q) }

/-- The job of a queue closes once EN has been cleared and every packet has completed (R334, R335); an error is cleared once every
packet that has started has completed (R435). A job that was to be opened meanwhile opens then. -/
def closeQueue (s : State) (fn q : Nat) : State :=
  let c := cqOf s fn q
  if !c.closing then s
  else if !c.taken.isEmpty then (if c.err && c.taken.all fun p => !p.2.started then modCq s fn q fun c => { c with err := false } else s)
  else
    let s1 := closeInst (closeInst s fn (phaseOf s fn q)) fn (jobHandle q)
    let s2 := modCq s1 fn q fun c => { c with closing := false, err := false }
    if c.en then openJob s2 fn q else s2

/-- A packet completes: completion write, event flag, event (R342); one that was refused or faulted makes only the event. -/
def completePacket (s : State) (fn q i : Nat) (p : Packet) (st : Nat) : State :=
  let part := (fnOf s fn).part
  let writes := st = 0 || st = 2
  let s1 := match p.gen with
    | some gen => if writes && p.g 0x30 8 != 0 then completeWrite s gen (p.g 0x30 8) (p.g 0x38 4) else s
    | none => s
  let s2 := if writes && bit (p.g 0x3C 1) 7 then setEventFlag s1 part (p.g 0x3C 1 % 64) true else s1
  closeQueue (modCq (packetEvent s2 fn q st i) fn q fun c => { c with taken := tabDel i c.taken }) fn q

/-- The packet whose index has a residue, as graphs name theirs. -/
def packetNamed (s : State) (fn q i : Nat) : Option (Nat × Packet) :=
  match tabGet i (cqOf s fn q).taken with
  | some p => some (i, p)
  | none => (packetOfIndex s fn q i (2 ^ 25)).bind fun j => (tabGet j (cqOf s fn q).taken).map fun p => (j, p)

def execPacketComplete (s : State) : Host.Outcome State Fault Refusal :=
  match s.subj with
  | .of [fn, q, i] =>
    match packetNamed s fn q i with
    | some (j, p) =>
      if !p.started then .next s
      else match packetStatus s fn q j p with
        | some st => .next (completePacket s fn q j p st)
        | none => .next s
    | none => .next s
  | _ => .next s

end Sys2Proof.Machine
end

