-- ==== Sys2Proof/Machine/Registers.lean ====
section
/-! DEFINITION. The host's registers (R327-R337, R348, R360-R362): what each reads as, and what a write does; invalidation (R124, R333),
contexts (R331, R332, R89) and routes (R361). -/

namespace Sys2Proof.Machine

/-! ## What belongs to a function -/

/-- An event of a kind to which the spec gives neither SOURCE nor DATA (log 28). -/
def noteEvent (s : State) (fn kind : Nat) : State :=
  let (n, s1) := freshNat s
  postEvent s1 fn kind (Config.eventSource n) (Config.eventData n)

/-- VFs of a partition. -/
def partFns (s : State) (part : Nat) : List Nat := (List.range 129).filter fun n => n != 0 && (fnOf s n).part == part

/-- What the front end of its partition holds for a VF: in place while it runs, else kept (R83, R352). -/
def fnFe (s : State) (fn : Nat) : FrontEnd :=
  let fe := feOf s (fnOf s fn).part
  if fe.vf = some fn then fe else ((fnOf s fn).fe).getD FrontEnd.reset

def modFnFe (s : State) (fn : Nat) (f : FrontEnd → FrontEnd) : State :=
  let p := (fnOf s fn).part
  if (feOf s p).vf = some fn then modFe s p f else modFn s fn fun x => { x with fe := x.fe.map f }

/-- Clusters of a partition (R355). -/
def partClusters (s : State) (part : Nat) : List Nat :=
  if (partEntry s part).en then (List.range 48).filter (inPart s part) else []

/-- Bits of a list of positions. -/
def bitsAt (l : List Nat) : Nat := (dedup l).foldl (fun n i => n + 2 ^ i) 0

/-- Readiness bits that a function sees, as one number of 128 bits (R28). -/
def seenBits (s : State) (fn : Nat) : Nat :=
  if fn = 0 then 2 ^ 128 - 1
  else
    let cls := partClusters s (fnOf s fn).part
    let dies := cls.map (· / 12)
    let engines := (cls.map fun c => c / 12 * 4 + c % 12 % 4) ++ (cls.head?.map fun c => c / 12 * 4).toList
    bitsAt (cls ++ (List.range 12).map (48 + ·) ++ ((List.range 24) ++ engines.map (24 + ·) ++ [40] ++ dies.map (41 + ·) ++
      dies.map (45 + ·) ++ [49]).map (64 + ·))

/-! ## Reads (Tables 12.1-12.3, R337, R348, R360, R362) -/

/-- A context entry's word (Table 12.3); words 4 to 7 are the occupancies of R108. -/
def ctxWord (s : State) (fn e j : Nat) : Nat :=
  if j < 4 then (tabGetD (8 * e + j) 0 (fnOf s fn).ctx).toNat
  else ((ctxGen s fn e).map fun g => occupancy s g (j - 4)).getD 0

/-- A forwarding entry's word (R360). -/
def fwdWord (s : State) (fn e j : Nat) : Nat :=
  match tabGet e (fnFe s fn).fwd with
  | none => 0
  | some f => if j = 0 then (if f.active then 2 ^ 63 else 0) + f.len % 65536 * 2 ^ 36 + f.old % 2 ^ 36 else f.new % 2 ^ 36

/-- The eight bytes at a multiple of 8 in BAR0 of a function. -/
def regWord (s : State) (fn a : Nat) : Nat :=
  let f := fnOf s fn
  let seen := (s.fnrdyLo.toNat + 2 ^ 64 * s.fnrdyHi.toNat) &&& seenBits s fn
  if a = 0 then 2 ^ 16 + (if fn = 0 then 255 else f.part) * 256 + fn
  else if a = 8 then 0x30480300 + Config.stepping.toNat
  else if a = 0x40 then seen % 2 ^ 64
  else if a = 0x48 then seen / 2 ^ 64
  else if a = 0x50 then s.node % 16384
  else if 0x80 ≤ a && a < 0xC0 then
    (capcon ((a - 0x80) / 4)).toNat + 2 ^ 32 * (capcon ((a - 0x80) / 4 + 1)).toNat
  else if a = 0x100 then f.evrb.toNat
  else if a = 0x108 then f.evrh.toNat
  else if a = 0x110 then f.evrt
  else if a = 0x118 then f.evlost
  else if a = 0x140 then (if fn = 0 then 0 else (feOf s f.part).flags.toNat)
  else if a = 0x180 then f.invva.toNat
  else if a = 0x190 then (if f.inv.any (fun x => x.1 < 4) then 1 else 0)
  else if 0x2000 ≤ a && a < 0x3000 then
    let m := a - 0x2000
    if m < 0x40 then f.cmd.nat m 8
    else if m = 0x48 then (if f.busy then 1 else 0) + f.result * 256
    else if 0x100 ≤ m then f.data.nat m 8 else 0
  else if 0x40000 ≤ a && a < 0x50000 then
    if fn != 0 then 0
    else
      let entry (n : Nat) : Nat := (match tabGet n s.routesPending with | some w => w | none => tabGetD n 0 s.routes).toNat
      entry ((a - 0x40000) / 4) + 2 ^ 32 * entry ((a - 0x40000) / 4 + 1)
  else if fn = 0 then 0
  else if 0x200 ≤ a && a < 0x300 then
    let c := cqOf s fn ((a - 0x200) / 16)
    if a % 16 = 0 then c.w0.toNat else c.w1.toNat
  else if 0x300 ≤ a && a < 0x400 then hqdWord s fn ((a - 0x300) / 16) (a % 16 / 8)
  else if 0x400 ≤ a && a < 0x800 then fwdWord s fn ((a - 0x400) / 16) (a % 16 / 8)
  else if 0x800 ≤ a && a < 0x1000 then ctxWord s fn ((a - 0x800) / 64) (a % 64 / 8)
  else if 0x10000 ≤ a && a < 0x20000 then
    let c := cqOf s fn ((a - 0x10000) / 4096)
    if a % 4096 = 0 then c.tail else if a % 4096 = 8 then c.head else 0
  else 0

/-- What a host read of some bytes of BAR0 of a function returns. -/
def hostRead (s : State) (fn off size : Nat) : Nat :=
  natOf ((List.range size).map fun k => BitVec.ofNat 8 (fld (regWord s fn ((off + k) / 8 * 8)) (8 * ((off + k) % 8)) 8))

/-! ## Event ring (R330, R436) -/

/-- A write of EVRB: ignored with a size code above 8, else it clears EVLOST. -/
def writeEvrb (s : State) (fn v : Nat) : State :=
  if 8 < v % 16 then s else modFn s fn fun f => { f with evrb := BitVec.ofNat 64 (v / 4096 * 4096 + v % 16), evlost := 0 }

def execEvrbWrite (s : State) : Host.Outcome State Fault Refusal :=
  match s.subj with
  | .of [fn, v] => .next (writeEvrb s fn v)
  | _ => .next s

/-! ## Invalidation (R124, R333) -/

/-- Contexts an invalidation of a function concerns; those of the PF concern every function. -/
def invGens (s : State) (fn : Nat) (x : Nat × Nat × Nat) : List Nat :=
  (s.ctxs.filter fun (_, c) => (fn = 0 || c.fn = fn) && (x.1 = 2 || c.pasid = x.2.1)).map (·.1)

/-- A translation that an invalidation drops: kind 0 one page, 4 one page as the host translates it. -/
def invHits (x : Nat × Nat × Nat) (t : Xlate) : Bool :=
  match x.1 with
  | 0 => t.va ≤ x.2.2 && x.2.2 < t.va + t.size
  | 4 => t.host && t.va ≤ x.2.2 && x.2.2 < t.va + t.size
  | _ => true

/-- Cached translations dropped on every core and in every pool. -/
def dropXlates (s : State) (hit : Xlate → Bool) : State :=
  { s with cores := s.cores.map fun (c, k) => (c, { k with tlb := k.tlb.filter fun t => !hit t })
           pools := s.pools.map fun (i, p) => (i, { p with tlb := p.tlb.filter fun t => !hit t })
           hostPages := s.hostPages.filter fun t => !hit t }

/-- The first invalidation of a function begins. -/
def beginInv (s : State) (fn : Nat) : State :=
  match (fnOf s fn).inv with
  | [] => s
  | x :: _ =>
    let gens := invGens s fn x
    modFn (dropXlates s fun t => gens.contains t.gen && invHits x t) fn fun f => { f with invAt := s.now }

/-- An invalidation begins, or waits until BUSY clears. -/
def addInv (s : State) (fn : Nat) (x : Nat × Nat × Nat) : State :=
  let s1 := modFn s fn fun f => { f with inv := f.inv ++ [x] }
  if (fnOf s fn).inv.isEmpty then beginInv s1 fn else s1

/-- A write of INVCMD; a reserved KIND starts nothing. -/
def invalidate (s : State) (fn kind pasid : Nat) : State :=
  if 3 ≤ kind then s else addInv s fn (kind, pasid % 2 ^ 20, (fnOf s fn).invva.toNat % 2 ^ 48)

def execInvPage (s : State) : Host.Outcome State Fault Refusal :=
  match s.subj with
  | .of [fn, pasid] => .next (invalidate s fn 0 pasid)
  | _ => .next s

def execInvPasid (s : State) : Host.Outcome State Fault Refusal :=
  match s.subj with
  | .of [fn, pasid] => .next (invalidate s fn 1 pasid)
  | _ => .next s

def execInvFunction (s : State) : Host.Outcome State Fault Refusal :=
  match s.subj with
  | .of [fn] => .next (invalidate s fn 2 0)
  | _ => .next s

def execAtsInvalidationRequest (s : State) : Host.Outcome State Fault Refusal :=
  match s.subj with
  | .of [fn, pasid, va] => .next (addInv s fn (4, pasid % 2 ^ 20, va % 2 ^ 48 / 65536 * 65536))
  | _ => .next s

/-- Every access that used the dropped translations has completed (R124). -/
def invDue (s : State) (fn : Nat) : Bool :=
  let f := fnOf s fn
  match f.inv with
  | [] => false
  | x :: _ =>
    let gens := invGens s fn x
    !(s.reqs.any fun (_, q) => gens.contains q.gen && q.sent ≤ f.invAt) &&
    !(s.fills.any fun (_, l) => gens.contains l.gen && l.sent ≤ f.invAt) &&
    !(s.cmds.any fun (_, c) => gens.contains c.gen && c.issued ≤ f.invAt && (c.phase = 1 || c.phase = 2 || c.phase = 4)) &&
    !(s.matOps.any fun (_, m) => gens.contains m.gen && !m.lines.isEmpty && m.start ≤ f.invAt)

/-- BUSY clears; the invalidation that waits begins. -/
def endInv (s : State) (fn : Nat) : State := beginInv (modFn s fn fun f => { f with inv := f.inv.tail }) fn

def execInvalidationDone (s : State) : Host.Outcome State Fault Refusal :=
  match s.subj with
  | .of [fn] => .next (if invDue s fn then endInv s fn else s)
  | _ => .next s

/-! ## Command queues (R334, R335) -/

/-- Word 0 of a queue descriptor with its reserved bits 0. -/
def cqdWord (w : Nat) : DWord := BitVec.ofNat 64 (w / 4096 * 4096 + (if bit w 8 then 256 else 0) + w % 32)

/-- Word 0 may be written: the queue is there, the size code is in range, and EN is 0 or changes (R330, R335). -/
def cqdTaken (s : State) (fn q w : Nat) : Bool :=
  fn != 0 && fn ≤ 128 && q < 16 && 4 ≤ w % 32 && w % 32 ≤ 16 && !((cqOf s fn q).en && bit w 8)

/-- EN is set: head and tail become 0 (R335), and the job opens, after an earlier one has closed. -/
def enableQueue (s : State) (fn q w : Nat) : State :=
  let s1 := modCq s fn q fun c => { c with w0 := cqdWord w, head := 0, tail := 0 }
  if (cqOf s fn q).closing then s1 else openJob s1 fn q

/-- EN is cleared: the job closes once every packet taken has completed. -/
def disableQueue (s : State) (fn q w : Nat) : State :=
  closeQueue (modCq s fn q fun c => { c with w0 := cqdWord w, closing := true }) fn q

/-- A write of word 0. -/
def writeCqd (s : State) (fn q w : Nat) : State :=
  if !cqdTaken s fn q w then s
  else if bit w 8 then enableQueue s fn q w
  else if (cqOf s fn q).en then disableQueue s fn q w
  else modCq s fn q fun c => { c with w0 := cqdWord w }

def execCqdEnable (s : State) : Host.Outcome State Fault Refusal :=
  match s.subj with
  | .of [fn, q, w] => .next (if bit w 8 then writeCqd s fn q w else s)
  | _ => .next s

def execCqdDisable (s : State) : Host.Outcome State Fault Refusal :=
  match s.subj with
  | .of [fn, q, w] => .next (if bit w 8 then s else writeCqd s fn q w)
  | _ => .next s

/-! ## Contexts (R331, R332, R346, R89) -/

/-- Bytes of a save area. -/
def saveBytes : Nat := 0x149D0000

/-- Every page from an address to the end of an area is mapped to memory of this module, readable and writable (R89). -/
def areaMapped (s : State) (root : Nat) : Nat → Nat → Nat → Bool
  | 0, _, _ => false
  | fuel + 1, va, top =>
    top ≤ va ||
    match (walkFrom s (2 ^ 32) va walkLevels root).1 with
    | .miss _ => false
    | .hit x =>
      !x.host && x.r && x.w && (match xlPlace s x va with | .dev _ => true | _ => false) &&
      areaMapped s root fuel (x.va + x.size) top

/-- Why a context is not created: 2 no keys, 1 no free tag, 3 the save area (R332), 4 the policy (R346). -/
def ctxRefusal (s : State) (fn e : Nat) : Option Nat :=
  let f := fnOf s fn
  let saveb := ctxWord s fn e 3
  let root := ctxWord s fn e 1
  if f.keyid = 0 then some 2
  else if 256 ≤ s.ctxs.length then some 1
  else if saveb % 65536 != 0 || !areaMapped s root 5400 saveb (saveb + saveBytes) then some 3
  else
    match f.policy with
    | none => some 4
    | some p => if p.maxCtx ≤ (s.ctxs.filter fun (_, c) => c.fn = fn && !c.dying).length then some 4 else none

/-- HORD and PASID of word 0. -/
def ctxFields (w : Nat) : Nat := fld w 38 2 * 2 ^ 38 + fld w 0 20

/-- The lowest generation tag that no context holds (R84, R332). -/
def freeTag (s : State) : Nat := ((List.range 256).find? fun g => (ctxOf s g).isNone).getD 0

/-- A write that sets V: the context comes to life with its tag and key id, or the refusal is posted (R331, R332). -/
def createCtx (s : State) (fn e w : Nat) : State :=
  let put (t : State) (x : Nat) : State := modFn t fn fun f => { f with ctx := tabSet 0 (8 * e) (BitVec.ofNat 64 x) f.ctx }
  match ctxRefusal s fn e with
  | some n =>
    let (k, s1) := freshNat (put s (ctxFields w))
    postEvent s1 fn 4 (Config.eventSource k) (e + 256 * if n = 4 then Config.eventData k else n)
  | none =>
    let g := freeTag s
    let keyid := (fnOf s fn).keyid
    let c : Ctx :=
      { fn := fn, entry := e, pasid := fld w 0 20, ptroot := ctxWord s fn e 1, keyid := keyid, hord := fld w 38 2, slim := ctxWord s fn e 2
        saveb := ctxWord s fn e 3, dying := false, halted := false, haltedAt := 0, images := [], planes := [], saved := [], slots := []
        replays := [], returns := [], outstanding := [] }
    { put s (2 ^ 63 + g * 2 ^ 48 + keyid * 2 ^ 40 + ctxFields w) with ctxs := tabPut g c s.ctxs }

/-- A write that clears V: the context is destroyed once its units have ended. -/
def destroyCtx (s : State) (fn e w : Nat) : State :=
  let s1 := modFn s fn fun f => { f with ctx := tabSet 0 (8 * e) (BitVec.ofNat 64 (ctxFields w)) f.ctx }
  match ctxGen s fn e with
  | some g => modCtx s1 g fun c => { c with dying := true }
  | none => s1

/-- A write of word 0 of a context entry: the fields of a live context other than V are those of its creation. -/
def writeCtx (s : State) (fn e w : Nat) : State :=
  if fn = 0 || 128 < fn || 32 ≤ e then s
  else if (ctxGen s fn e).isSome then (if bit w 63 then s else destroyCtx s fn e w)
  else if bit w 63 then createCtx s fn e w
  else destroyCtx s fn e w

def execCtxCreate (s : State) : Host.Outcome State Fault Refusal :=
  match s.subj with
  | .of [fn, e, w] => .next (if bit w 63 then writeCtx s fn e w else s)
  | _ => .next s

def execCtxDestroy (s : State) : Host.Outcome State Fault Refusal :=
  match s.subj with
  | .of [fn, e] => .next (writeCtx s fn e (ctxFields (ctxWord s fn e 0)))
  | _ => .next s

/-- Words 1 to 3 of a context entry; SLIM of a live context takes effect at once. -/
def writeCtxWord (s : State) (fn e j v : Nat) : State :=
  let x := if j = 1 then v / 4096 * 4096 else if j = 2 then v % 128 else v / 65536 * 65536
  let s1 := modFn s fn fun f => { f with ctx := tabSet 0 (8 * e + j) (BitVec.ofNat 64 x) f.ctx }
  match ctxGen s fn e with
  | some g => if j = 2 then modCtx s1 g fun c => { c with slim := x } else s1
  | none => s1

/-- Nothing of a context is left that runs or is outstanding (R332). -/
def ctxQuiet (s : State) (g : Nat) : Bool :=
  ((ctxOf s g).all fun c => c.outstanding.all fun x => x.2 ≤ s.now) &&
  !(s.launches.any fun (_, l) => l.gen = g && l.status = 0) && !(s.units.any fun (u, _) => unitGen s u = g) &&
  !(s.reqs.any fun (_, q) => q.gen = g) && !(s.cmds.any fun (_, c) => c.gen = g) && !(s.matOps.any fun (_, m) => m.gen = g) &&
  !(s.walks.any fun (_, w) => w.gen = g) && !(s.fills.any fun (_, f) => f.gen = g) && !(s.pageReqs.any fun (_, q) => q.gen = g) &&
  !(s.cores.any fun (_, k) => k.firstUse.any fun f => f.gen = g)

/-- Everything tagged with a context leaves the caches, and ACCOWN of no core names it (R332, R368). -/
def purgeTag (s : State) (g : Nat) : State :=
  let s1 := dropXlates s fun t => t.gen = g
  { s1 with
    cores := s1.cores.map fun (c, k) => (c, { k with
      icache := k.icache.filter fun l => l.gen != g
      accown := if k.accown = some g then none else k.accown })
    pools := s1.pools.map fun (i, p) => (i, { p with icache := p.icache.map fun (j, l) => (j, l.filter fun x => x.gen != g) })
    l2 := s1.l2.map fun x => if x.gen = g then { x with gen := 2 ^ 32 } else x }

/-- A context that was to be destroyed is quiet. -/
def destroyDue (s : State) (g : Nat) : Bool := (ctxOf s g).any (·.dying) && ctxQuiet s g

/-- Its tag is free (R332). -/
def freeCtx (s : State) (g : Nat) : State := { purgeTag s g with ctxs := tabDel g s.ctxs }

def execContextDestroyDone (s : State) : Host.Outcome State Fault Refusal :=
  match s.subj with
  | .of [g] => .next (if destroyDue s g then freeCtx s g else s)
  | _ => .next s

/-! ## Forwarding entries (R118, R360) -/

/-- An active entry is removed. -/
def removeFwd (s : State) (fn e : Nat) : State :=
  if fn = 0 then s
  else match tabGet e (fnFe s fn).fwd with
    | some f => if f.active then modFnFe s fn fun x => { x with fwd := tabDel e x.fwd } else s
    | none => s

def execFwdRemove (s : State) : Host.Outcome State Fault Refusal :=
  match s.subj with
  | .of [fn, e] => .next (removeFwd s fn e)
  | _ => .next s

/-! ## Routes (R361, R362) -/

/-- A 32-bit write of a routing entry: new requests to the node are held until it takes effect. -/
def writeRoute (s : State) (node v : Nat) : State :=
  if 16384 ≤ node then s else { s with routesPending := tabPut node (BitVec.ofNat 32 (v % 2 ^ 28)) s.routesPending }

def execRouteWrite (s : State) : Host.Outcome State Fault Refusal :=
  match s.subj with
  | .of [node, v] => .next (writeRoute s node v)
  | _ => .next s

/-- An end of a line lies in another module. -/
def spotNode : Spot → Option Nat
  | .mem (.remote n _) _ _ => some n
  | _ => none

/-- A request of this module to a node is outstanding. -/
def nodeAsked (s : State) (node : Nat) : Bool :=
  (s.reqs.any fun (_, q) => q.node = some node) ||
  (s.cmds.any fun (_, c) =>
    (c.lines.any fun l => s.now < l.ackAt && l.reqAt ≤ s.now && (spotNode l.src = some node || spotNode l.dst = some node)) ||
    ((c.op = 3 || c.op = 4 || c.op = 7) && (c.phase = 3 || c.phase = 7) && (tabGetD c.comm Comm.reset s.comms).nodes.contains node))

def routeDue (s : State) (node : Nat) : Bool := (tabGet node s.routesPending).isSome && !nodeAsked s node

/-- The new entry applies. -/
def applyRoute (s : State) (node : Nat) : State :=
  match tabGet node s.routesPending with
  | some w => { s with routes := tabSet 0 node w s.routes, routesPending := tabDel node s.routesPending }
  | none => s

def execRouteTakeEffect (s : State) : Host.Outcome State Fault Refusal :=
  match s.subj with
  | .of [node] => .next (if routeDue s node then applyRoute s node else s)
  | _ => .next s

/-! ## The mailbox (R348, Table 12.7) -/

/-- OP of the command in CMD. -/
def mailOp (s : State) (fn : Nat) : Nat := ((fnOf s fn).cmd.get 0).toNat
/-- Some bytes of CMD as a number. -/
def mailArg (s : State) (fn off n : Nat) : Nat := (fnOf s fn).cmd.nat off n

/-- The row of an operation. -/
def commandRow (s : State) (fn : Nat) : Instr :=
  match mailOp s fn with
  | 0x01 => .policy
  | 0x02 => .attest
  | 0x03 => .keys
  | 0x04 => .openCmd
  | 0x10 => .sched
  | 0x11 => .pause
  | 0x12 => .evict
  | 0x13 => .resume
  | 0x14 => .kill
  | 0x15 => .move
  | 0x16 => if mailArg s fn 1 1 = 1 then .retireChannelPair else .retireCluster
  | 0x17 => if bit (mailArg s fn 1 1) 0 then .countsClear else .counts
  | _ => .unknownCommand

/-- A write of the mailbox page; CMD and DOORBELL do not change while BUSY is set. -/
def writeMail (s : State) (fn m size v : Nat) : State :=
  let f := fnOf s fn
  let bytes := bytesOf size v
  if m + size ≤ 0x40 then (if f.busy then s else modFn s fn fun x => { x with cmd := x.cmd.write m bytes })
  else if m = 0x40 then
    if f.busy || v != 1 then s
    else schedule (modFn s fn fun x => { x with busy := true }) s.now (commandRow s fn) (.of [fn])
  else if 0x100 ≤ m && m + size ≤ 0x1000 then modFn s fn fun x => { x with data := x.data.write m bytes }
  else s

/-! ## Writes of BAR0 (Table 12.1) -/

/-- Some bytes of a word replaced. -/
def mergeWord (old off size v : Nat) : Nat :=
  old - fld old (8 * off) (8 * size) * 2 ^ (8 * off) + v % 2 ^ (8 * size) * 2 ^ (8 * off)

/-- A write of the eight bytes at a multiple of 8 of the function register page. -/
def writeWord (s : State) (fn a v : Nat) : State :=
  let w := BitVec.ofNat 64 v
  if a = 0x100 then writeEvrb s fn v
  else if a = 0x108 then modFn s fn fun f => { f with evrh := w }
  else if a = 0x180 then modFn s fn fun f => { f with invva := BitVec.ofNat 64 (v / 65536 * 65536) }
  else if a = 0x188 then invalidate s fn (fld v 20 2) (fld v 0 20)
  else if fn = 0 then s
  else if 0x200 ≤ a && a < 0x300 then
    let q := (a - 0x200) / 16
    if a % 16 = 0 then writeCqd s fn q v else modCq s fn q fun c => { c with w1 := BitVec.ofNat 64 (v / 8 * 8) }
  else if 0x300 ≤ a && a < 0x400 then
    let h := (a - 0x300) / 16
    if a % 16 = 0 then
      if v % 32 < 6 || 16 < v % 32 then s
      else modFn s fn fun f => { f with hqd := tabSet 0 (2 * h) (BitVec.ofNat 64 (v / 4096 * 4096 + v % 32)) f.hqd }
    else modFn s fn fun f => { f with hqd := tabSet 0 (2 * h + 1) (BitVec.ofNat 64 (v % 2 ^ 48)) f.hqd }
  else if 0x400 ≤ a && a < 0x800 then (if a % 16 = 0 && v = 0 then removeFwd s fn ((a - 0x400) / 16) else s)
  else if 0x800 ≤ a && a < 0x1000 then
    let (e, j) := ((a - 0x800) / 64, a % 64 / 8)
    if j = 0 then writeCtx s fn e v else if j < 4 then writeCtxWord s fn e j v else s
  else s

/-- A host write of `size` bytes at an offset of BAR0. -/
def hostWrite (s : State) (fn off size v : Nat) : State :=
  if 128 < fn then s
  else if 0x2000 ≤ off && off < 0x3000 then writeMail s fn (off - 0x2000) size v
  else if 0x10000 ≤ off && off < 0x20000 then
    (if off % 4096 = 0 && size = 8 then writeTail s fn ((off - 0x10000) / 4096) v else s)
  else if 0x40000 ≤ off && off < 0x50000 then
    (if fn = 0 && size = 4 && off % 4 = 0 then writeRoute s ((off - 0x40000) / 4) v else s)
  else if off < 0x1000 && off % 8 + size ≤ 8 then
    writeWord s fn (off / 8 * 8) (mergeWord (regWord s fn (off / 8 * 8)) (off % 8) size v)
  else s

def execRegisterWrite (s : State) : Host.Outcome State Fault Refusal :=
  match s.subj with
  | .of [fn, off, size, v] => .next (hostWrite s fn off size v)
  | _ => .next s

end Sys2Proof.Machine
end

