-- ==== Sys2Proof/Machine/Fatal.lean ====
section
/-! DEFINITION. The fatal halt of a launch (R378, R447, R448), its dump (R379-R381, R449-R451, Tables 15.2 and 15.3), the end of its
units, and requests declared lost (R390). -/

namespace Sys2Proof.Machine

/-! ## The stop (R378, R447, R448) -/

/-- Units of a launch, by internal number. -/
def launchUnits (s : State) (l : Nat) : List Nat := (s.units.filter fun (_, u) => u.launch = l).map (·.1)

/-- Warps and ejected threads of a launch. -/
def launchGroups (s : State) (l : Nat) : List Gid := (launchUnits s l).flatMap (unitGroups s)

/-- The one target of some lanes, if they have one. -/
def oneTarget (tgts : List (Nat × Pc)) (pc : Pc) : Pc :=
  match tgts with
  | [] => pc
  | (_, t) :: r => if r.all fun x => x.2 = t then t else pc

/-- The address a group would issue next (R449). -/
def nextPc (pc : Pc) : Status → Pc
  | .parked (.xfer l _) | .parked (.tret l _) => oneTarget l pc
  | _ => pc

/-- A group stops between two issues; a write-back under way completes first. -/
def stopGroup (s : State) (g : Gid) : State :=
  let s1 := match g with
    | .warp c w => landBack s c w
    | .kindle .. => s
  match view s1 g with
  | some v => setStatus (setPc s1 g (nextPc v.pc v.run.status)) g .stopped
  | none => s1

/-- An engine command of the launch: removed with its slots when its reads have not begun, else it runs on without events. -/
def stopCmd (s : State) (e : Nat × Cmd) : State :=
  let (id, c) := e
  let queued := c.phase = 0 || c.phase = 6
  if !(queued || c.phase = 5) then modCmd s id fun x => { x with noEvents := true }
  else
    let s1 := if queued then dequeue s id c none else s
    let s2 := { s1 with cmds := tabDel id s1.cmds }
    match cmdOwner s2 c with
    | none => s2
    | some v =>
      let s3 := slotSub s2 v.gid c.slot
      match c.follow with
      | some n => slotSub s3 v.gid n
      | none => s3

def stopLaunch (s : State) (l : Nat) : State :=
  let s1 := modLaunch s l fun x => { x with fatal := x.fatal.map fun f => { f with stopped := true } }
  let s2 := (launchGroups s1 l).foldl stopGroup s1
  (s2.cmds.filter fun (_, c) => c.launch = l && c.pkt.isNone).foldl stopCmd s2

/-- The stop of a launch falls in this cycle. A launch halted with its context stops at the resume, before any issue (Table 15.4). -/
def stopDue (s : State) (l : Nat) : Bool :=
  match (launchOf s l).bind (·.fatal) with
  | some f => !f.stopped && f.cycle + 16 ≤ s.now && !(launchUnits s l).any fun u => (unitOf s u).any (·.halted)
  | none => false

def execFatalStop (s : State) : Host.Outcome State Fault Refusal :=
  match s.subj with
  | .of [l] => .next (if stopDue s l then stopLaunch s l else s)
  | _ => .next s

/-! ## Sections of a dump (R380, R449) -/

/-- State of a lane in a warp record (Table 15.3). -/
def laneCode : LaneState → Nat
  | .vacant => 0
  | .running => 1
  | .deferred => 2
  | .parked => 3
  | .ejected => 4
  | .faultParked => 5

/-- A split entry of a warp record. -/
def splitBytes (e : Split) : List Byte :=
  bytesOf 8 (e.defPc.toNat + e.tag % 16 * 2 ^ 48 + (if e.done then 2 ^ 52 else 0) + if e.held.isSome || e.faultHeld then 2 ^ 53 else 0) ++
    bytesOf 4 e.defMask.toNat ++ bytesOf 4 e.parkMask.toNat

/-- The 128-byte record of a warp. Split entry 0 is the oldest (log 30). -/
def warpRecord (w : Warp) : List Byte :=
  let sum (l : List Nat) (k : Nat) : Nat := (l.mapIdx fun i x => x * 2 ^ (k * i)).sum
  let out := w.ejs.foldl (fun m j => m ||| j.mask) 0
  bytesOf 8 w.pc.toNat ++ bytesOf 4 (maskOf (heldLanes w)).toNat ++ bytesOf 4 (maskOf (activeLanes w)).toNat ++
    bytesOf 12 (sum (w.lanes.map fun x => laneCode x.st) 3) ++ bytesOf 4 w.stallw.toNat ++ bytesOf 4 (sum w.run.slots 8) ++
    bytesOf 1 w.run.trl.toNat ++ bytesOf 1 w.splits.length ++ bytesOf 1 (w.bsize / 16) ++ bytesOf 1 w.spin ++ bytesOf 4 w.specSr.toNat ++
    bytesOf 4 (w.demc % 64) ++ ((w.splits.reverse.take 4).flatMap splitBytes ++ List.replicate 64 0).take 64 ++
    bytesOf 4 (bitsAt (w.ejs.map (·.tag))) ++ bytesOf 4 out.toNat ++ List.replicate 8 0

/-- The warps section of a unit. -/
def warpsSection (s : State) (u : Nat) (x : UnitSt) : List Byte :=
  ((coreOf s x.core).warps.filter fun (_, w) => w.unit = u).flatMap fun (_, w) =>
    warpRecord w ++ (coreOf s x.core).store.read (2048 * w.page) (128 * w.bsize)

/-- The ejected threads of a unit, 512 bytes each. -/
def ejectedSection (s : State) (u : Nat) (x : UnitSt) : List Byte :=
  ((poolOf s (clusterOf x.core)).slots.filter fun (_, e) => e.unit = u).flatMap fun (_, e) =>
    bytesOf 8 e.pc.toNat ++ bytesOf 1 e.lane ++ bytesOf 1 e.wslot ++ bytesOf 1 e.tag ++ bytesOf 1 e.thr.preds.toNat ++ List.replicate 20 0 ++
      (List.range 120).flatMap fun i => bytesOf 4 (tabGetD i 0 e.regs).toNat

def unitSection (s : State) (u : Nat) (x : UnitSt) : List Byte :=
  ((List.range 64).flatMap fun i => bytesOf 8 (readK s u i).toNat) ++
    ((List.range 16).flatMap fun i => bytesOf 16 (tabGetD i 0 x.om).toNat) ++
    ((List.range 256).flatMap fun i => bytesOf 4 (if i < x.ntiles then tileWord s u i else 0)) ++
    bytesOf 4 x.binage ++ bytesOf 4 x.lcore ++ List.replicate 8 0 ++
    bytesOf 64 (bitsAt ((x.bars.filter fun (_, b) => b.par).map (·.1)))

def barWord (b : Bar) : Nat := (if b.par then 1 else 0) + (if b.bound then 2 else 0) + b.arr % 2048 * 4 + b.exp % 2048 * 2 ^ 13

def barsSection (x : UnitSt) : List Byte :=
  (List.range 512).flatMap fun i => bytesOf 8 (((tabGet i x.bars).map barWord).getD 0)

/-- A section: KIND, linear unit id, contents. -/
structure Section where
  kind : Nat
  lid : Nat
  bytes : List Byte
deriving DecidableEq, Repr

/-- Sections of the resident units of a launch, in their order (R379). -/
def sectionsOf (s : State) (l : Nat) : List Section :=
  (sortBy (fun x => x.2.lid) (s.units.filter fun (_, u) => u.launch = l)).flatMap fun (u, x) =>
    let ej := ejectedSection s u x
    [⟨1, x.lid, warpsSection s u x⟩] ++ (if ej.isEmpty then [] else [⟨2, x.lid, ej⟩]) ++ [⟨3, x.lid, unitSection s u x⟩] ++
      (if x.scrPages = 0 then [] else [⟨4, x.lid, (coreOf s x.core).store.read (2048 * x.scrPage) (unitFrame s u).scratch⟩]) ++
      [⟨5, x.lid, barsSection x⟩]

/-! ## Writing it (R379, R381, R450, R451) -/

/-- Bytes written upward in stores of 128 bytes; the cause and offset of the first that faults, where it stops. -/
def dumpBytes (s : State) (gen base off : Nat) (bytes : List Byte) : State × Option (Nat × Nat) :=
  (List.range (ceilDiv bytes.length 128)).foldl (fun (acc : State × Option (Nat × Nat)) i =>
    match acc with
    | (t, some e) => (t, some e)
    | (t, none) =>
      match vwrite t gen (base + off + 128 * i) ((bytes.drop (128 * i)).take 128) with
      | .ok u => (u, none)
      | .error (c, _) => (t, some (c, off + 128 * i))) (s, none)

/-- A dump as far as it is written: the next offset, the descriptors, and the first fault. -/
structure Dumping where
  s : State
  off : Nat
  desc : List Nat
  fault : Option (Nat × Nat)
  cut : Bool
deriving DecidableEq, Repr

def dumpSection (gen base : Nat) (m : Dumping) (x : Section) : Dumping :=
  let (s1, e) := dumpBytes m.s gen base m.off x.bytes
  let n := x.bytes.length
  let d := x.kind + (if e.isSome then 2 ^ 15 else 0) + x.lid % 2 ^ 32 * 2 ^ 32 + m.off * 2 ^ 64 + n * 2 ^ 96
  ⟨s1, m.off + ceilDiv n 4096 * 4096, m.desc ++ [d], match m.fault with | some f => some f | none => e, m.cut || e.isSome⟩

/-- The record of a dump fault (R451). -/
def dumpFault (base : Nat) (e : Nat × Nat) : Trap :=
  { word := e.1, aux := BitVec.ofNat 32 e.2, ret := 0, ipc := 0, faddr := BitVec.ofNat 64 (base + e.2), lanes := 0 }

/-- The header of Table 15.2 with its descriptors. -/
def dumpHeader (handle : Word) (f : FatalHalt) (second : Option Trap) (many : Bool) (desc : List Nat) : List Byte :=
  bytesOf 4 1 ++ bytesOf 4 desc.length ++ bytesOf 4 handle.toNat ++
    bytesOf 4 ((if second.isSome then 1 else 0) + (if many then 2 else 0) + Nat.min 255 f.extra * 256) ++ bytesOf 4 f.refticks.toNat ++
    bytesOf 2 f.core ++ bytesOf 1 f.lane ++ bytesOf 1 f.wslot ++ List.replicate 8 0 ++ trapRecord f.first ++
    (match second with | some t => trapRecord t | none => List.replicate 32 0) ++ desc.flatMap (bytesOf 16)

/-- The dump buffer of a launch (R379); 0 for none. -/
def dumpBuffer (x : Launch) : Nat :=
  let b := (x.frame.map fun f => f.dumpb.toNat).getD 0
  if b != 0 then b else if x.pkt.isSome && !x.capt && !x.rply then x.capbuf else 0

/-- The dump is written; answers the second record and DUMPST (Table 17.7). -/
def writeDump (s : State) (l : Nat) (x : Launch) (f : FatalHalt) : State × Option Trap × Nat :=
  let base := dumpBuffer x
  if base = 0 then (s, f.second, 3)
  else
    let all := sectionsOf s l
    let m := (all.take 250).foldl (dumpSection x.gen base) ⟨s, 0x1000, [], none, false⟩
    let second := match f.second with | some t => some t | none => m.fault.map (dumpFault base)
    let (s1, e) := dumpBytes m.s x.gen base 0 (dumpHeader x.handle f second (250 < all.length) m.desc)
    match e with
    | some _ => (s1, second, 2)
    | none => (s1, second, if m.cut then 1 else 0)

/-- Every slot of a launch has returned, its results are in place, and its engines are idle (R378 step 4). -/
def dumpDue (s : State) (l : Nat) : Bool :=
  match launchOf s l with
  | none => false
  | some x =>
    let us := launchUnits s l
    x.status = 0 && x.fatal.any (·.stopped) &&
    ((launchGroups s l).all fun g => (view s g).all fun v => v.run.slots.all (· == 0) && v.run.usable ≤ s.now) &&
    (us.all fun u => (unitOf s u).all fun y => y.kpend.all fun p => p.due ≤ s.now) &&
    !(s.cmds.any fun (_, c) => c.launch = l && c.pkt.isNone) && !(s.matOps.any fun (_, m) => us.contains m.unit) &&
    !(s.toStore.any fun h => us.contains h.unit)

/-- What a unit holds is free, whatever it was doing. -/
def dropUnit (s : State) (u : Nat) : State :=
  match unitOf s u with
  | none => s
  | some x =>
    let (s1, _) := dropEjected s u
    let (s2, _) := dropBinned s1 u x.core
    let s3 := dropElastic s2 u x.core
    let s4 := { s3 with pageReqs := s3.pageReqs.filter fun (_, q) =>
                  !((warpOf s3 q.core q.wslot).any fun w => w.serial = q.serial && w.unit = u) }
    let gone := ((coreOf s4 x.core).warps.filter fun (_, w) => w.unit = u).map (·.1)
    unitDone (modCore s4 x.core fun k =>
      { k with quads := k.quads.map fun q => if q.holder.any gone.contains then { q with holder := none } else q }) u

/-- A launch ends with a status, and its units with it. -/
def endLaunch (s : State) (l status : Nat) : State := (launchUnits s l).foldl dropUnit (launchDone s l status)

/-- Dump, sealed report, and the end of the launch as faulted (R353, R378). -/
def dumpLaunch (s : State) (l : Nat) (x : Launch) (f : FatalHalt) : State :=
  let (s1, second, st) := writeDump s l x f
  let body := trapRecord f.first ++ (match second with | some t => trapRecord t | none => List.replicate 32 0) ++ bytesOf 1 st ++ bytesOf 7 0
  endLaunch (postReport s1 x.fn 1 x.gen x.handle.toNat f.first.faddr.toNat f.first.ipc.toNat body) l 3

def execDumpWrite (s : State) : Host.Outcome State Fault Refusal :=
  match s.subj with
  | .of [l] =>
    match launchOf s l with
    | some x =>
      match x.fatal with
      | some f => .next (if dumpDue s l then dumpLaunch s l x f else s)
      | none => .next s
    | none => .next s
  | _ => .next s

/-! ## Lost requests (R390, R438) -/

/-- A request has been outstanding for the limit, time in which its context is halted not counted (R20). A load of host memory is timed by its completion time-out instead (R437). -/
def lostDue (s : State) (id : Nat) : Bool :=
  match tabGet id s.reqs with
  | none => false
  | some q =>
    (q.isLoad || q.isStore) && !(q.host && q.isLoad) && tickEnd (tickOf q.sent + Config.lostTicks) ≤ s.now && !ctxStops s q.gen &&
    !(s.cores.any fun (_, k) => k.elq.any fun e => e.req = id)

/-- The request is declared lost: its slot falls, and LOST is deferred for it. -/
def loseRequest (s : State) (id : Nat) : State :=
  match tabGet id s.reqs with
  | none => s
  | some q =>
    let s1 := { s with reqs := tabDel id s.reqs, agenda := s.agenda.filter fun t => !(t.i = returnEvent q && t.subj = .of [id]) }
    let s2 := if q.node.isSome then addCount s1 0xF60 else s1
    match requester s2 q with
    | none => s2
    | some v =>
      let n := q.slot.getD 3
      addDeferred (slotSub s2 v.gid n) v n (deferredTrap v cLost n 0 q.ipc q.lanes)

def execRequestLost (s : State) : Host.Outcome State Fault Refusal :=
  match s.subj with
  | .of [id] => .next (if lostDue s id then loseRequest s id else s)
  | _ => .next s

end Sys2Proof.Machine
end

