-- ==== Sys2Proof/Machine/Retire.lean ====
section
/-! DEFINITION. Readiness (R27, R28), memory slices and their moves (R357, R358), retirement and guaranteed minima (R349, R432, R433), module
reset (R355), and the commands MOVE, RETIRE and COUNTS (R350). -/

namespace Sys2Proof.Machine

/-! ## Readiness (R27, R28) -/

def readyAt (s : State) (k : Nat) : Bool := bit (s.fnrdyLo.toNat + 2 ^ 64 * s.fnrdyHi.toNat) k

/-- A bit changes: a readiness event goes to the PF and to each VF that sees it. -/
def setReady (s : State) (k : Nat) (v : Bool) : State :=
  if readyAt s k = v then s
  else
    let n := s.fnrdyLo.toNat + 2 ^ 64 * s.fnrdyHi.toNat
    let m := if v then n + 2 ^ k else n - 2 ^ k
    let s1 := { s with fnrdyLo := BitVec.ofNat 64 m, fnrdyHi := BitVec.ofNat 64 (m / 2 ^ 64) }
    ((List.range 129).filter fun f => bit (seenBits s1 f) k).foldl (fun a f => noteEvent a f 1) s1

/-- A function may come up: the Crucible first, and a cluster after its power, cache slice and translation service. -/
def mayComeUp (s : State) (k : Nat) : Bool :=
  !s.parts.isEmpty && (k < 60 || (64 ≤ k && k < 114)) && (k = 104 || readyAt s 104) &&
  (48 ≤ k || (readyAt s 113 && readyAt s (105 + k / 12) && readyAt s (109 + k / 12) && !s.retiredClusters.contains k))

def execFunctionReady (s : State) : Host.Outcome State Fault Refusal :=
  match s.subj with
  | .of [k] => .next (if mayComeUp s k then setReady s k true else s)
  | _ => .next s

/-! ## Slices (R349, R356-R358) -/

/-- A physical slice has bytes in a retired pair. -/
def sliceRetired (s : State) (j : Nat) : Bool := s.retiredPairs.any fun q => j % 16 == q % 16

/-- Logical slices a partition holds. -/
def slicesOf (s : State) (p : Nat) : List Nat :=
  let e := partEntry s p
  if e.en then ((List.range e.scnt).map (e.sbase + ·)).filter fun j => !s.slicesLost.contains j else []

def allSlices (s : State) : List Nat := (s.parts.map (·.1)).flatMap (slicesOf s)

def physOf (s : State) (j : Nat) : Nat := tabGetD j j s.sliceTab

/-- The lowest free physical slice. -/
def freeSlice (s : State) : Option Nat :=
  let used := (allSlices s).map (physOf s) ++ s.moves.map fun (_, m) => m.physical
  (List.range 432).find? fun j => !sliceRetired s j && !used.contains j

/-- An event of kind 4 to the PF and to the VFs of a partition (R357). -/
def sliceEvent (s : State) (part : Nat) : State := (0 :: partFns s part).foldl (fun a f => noteEvent a f 4) s

/-- The end of the copy of the next page is to come (log 6). -/
def nextPage (s : State) (part : Nat) : State :=
  let (n, s1) := freshNat s
  schedule s1 (s.now + Nat.max 1 (Config.pageCycles n)) .movePageNew (.of [part])

def startMove (s : State) (part j k : Nat) (host : Bool) : State := nextPage { s with moves := tabPut part ⟨j, k, 0, host⟩ s.moves } part

/-- The Crucible copies the slices of retired pairs, one at a time in a partition (R432). -/
def copyRetired (s : State) : State :=
  (s.parts.map (·.1)).foldl (fun a p =>
    if (tabGet p a.moves).isSome then a
    else match (slicesOf a p).find? fun j => sliceRetired a (physOf a j), freeSlice a with
      | some j, some k => startMove a p j k false
      | _, _ => a) s

/-- The bytes, their keys (R344) and the poison of a page go to their new place. -/
def copyPage (s : State) (old new : Nat) : State :=
  let cells := s.mem.filter fun c => old ≤ c.1 && c.1 < old + 65536
  let bad := (s.memPoison.filter fun k => old ≤ 32 * k && 32 * k < old + 65536).map fun k => k - old / 32 + new / 32
  let keys := s.memKeys.filter fun c => old ≤ c.1 && c.1 < old + 65536
  { s with mem := cells.foldl (fun m c => m.set (c.1 - old + new) c.2) (s.mem.clear new 65536)
           memKeys := keys.foldl (fun m c => tabPut (c.1 - old + new) c.2 m) (dropKeys s.memKeys new 65536)
           memPoison := (s.memPoison.filter fun k => !(new ≤ 32 * k && 32 * k < new + 65536)) ++ bad }

/-- A page of a move is new. -/
def pageNew (s : State) (part : Nat) (m : SliceMove) : State :=
  let at_ := m.page * 65536
  let s1 := copyPage s (physOf s m.logical * 2 ^ 30 + at_) (m.physical * 2 ^ 30 + at_)
  let s2 := { s1 with moves := tabPut part { m with page := m.page + 1 } s1.moves }
  if m.page + 1 < 16384 then nextPage s2 part else schedule s2 s.now .sliceMoveComplete (.of [part])

def execMovePageNew (s : State) : Host.Outcome State Fault Refusal :=
  match s.subj with
  | .of [part] =>
    match tabGet part s.moves with
    | some m => .next (if m.page < 16384 then pageNew s part m else s)
    | none => .next s
  | _ => .next s

/-- The slice table is rewritten, and the old slice is zeroed and free. -/
def endSliceMove (s : State) (part : Nat) (m : SliceMove) : State :=
  let old := physOf s m.logical * 2 ^ 30
  copyRetired (sliceEvent { s with
    sliceTab := tabSet m.logical m.logical m.physical s.sliceTab, moves := tabDel part s.moves, mem := s.mem.clear old (2 ^ 30)
    memKeys := dropKeys s.memKeys old (2 ^ 30)
    memPoison := s.memPoison.filter fun k => !(old ≤ 32 * k && 32 * k < old + 2 ^ 30) } part)

def execSliceMoveComplete (s : State) : Host.Outcome State Fault Refusal :=
  match s.subj with
  | .of [part] =>
    match tabGet part s.moves with
    | some m => .next (if m.page = 16384 then endSliceMove s part m else s)
    | none => .next s
  | _ => .next s

/-! ## Guaranteed minima (R433) -/

/-- A report of retirement or withdrawal (Table 17.7). -/
def retireReport (s : State) (fn gen handle what number lost : Nat) : State :=
  postReport s fn 5 gen handle 0 0 (bytesOf 2 what ++ bytesOf 2 number ++ bytesOf 4 lost ++ bytesOf 8 0)

/-- VFs of a partition with a policy are told. -/
def tellVfs (s : State) (part what number : Nat) : State :=
  ((partFns s part).filter fun f => (fnOf s f).policy.isSome).foldl (fun a f => retireReport a f 0 0 what number 0) s

/-- Clusters a partition still has. -/
def keptClusters (s : State) (p : Nat) : List Nat := (partClusters s p).filter fun c => !s.retiredClusters.contains c

/-- The enabled partition of lowest PRIO with a property; ties go to the higher number. -/
def lowestPrio (s : State) (ok : Nat → PartEntry → Bool) : Option Nat :=
  (minBy (fun x => x.2.prio) ((s.parts.filter fun (p, e) => e.en && ok p e).reverse)).map (·.1)

/-- A logical slice is taken from a partition: its highest. -/
def takeSlice (s : State) (p : Nat) : State :=
  match (slicesOf s p).getLast? with
  | none => s
  | some j =>
    let s1 := { s with slicesLost := s.slicesLost ++ [j], moves := s.moves.filter fun (_, m) => m.logical != j }
    tellVfs (sliceEvent s1 p) p 3 j

/-- The guarantee of a partition is withdrawn: the PF is told its number. -/
def withdraw (s : State) (p : Nat) : State :=
  let (n, s1) := freshNat { s with parts := tabMod p (fun e => { e with gminc := 0, gmins := 0 }) s.parts }
  tellVfs (postEvent s1 0 4 (Config.eventSource n) p) p 2 p

/-- Slices are taken and guarantees withdrawn until what remains suffices. -/
def meetMinima : Nat → State → State
  | 0, s => s
  | n + 1, s =>
    let room := ((List.range 432).filter fun j => !sliceRetired s j).length
    let sum := ((s.parts.filter fun x => x.2.en).map fun x => x.2.gmins).sum
    let short := room < (allSlices s).length
    let unmet := room < sum || s.parts.any fun (p, e) => e.en && (keptClusters s p).length < e.gminc
    let give := if short then lowestPrio s fun p e => e.gmins < (slicesOf s p).length else none
    match give with
    | some p => meetMinima n (takeSlice s p)
    | none =>
      if !(short || unmet) then s
      else match lowestPrio s fun _ e => e.gminc != 0 || e.gmins != 0 with
        | some p => meetMinima n (withdraw s p)
        | none => s

/-- A partition left with no cluster or no slice is disabled. -/
def disableEmpty (s : State) : State :=
  s.parts.foldl (fun a (p, e) =>
    if e.en && ((keptClusters a p).isEmpty || (e.scnt != 0 && (slicesOf a p).isEmpty)) then
      tellVfs { a with parts := tabMod p (fun e => { e with en := false }) a.parts } p 4 p
    else a) s

def checkMinima (s : State) : State := disableEmpty (meetMinima 1000 s)

/-! ## Retirement (R349, R432) -/

/-- Work of lost units goes with them. -/
def dropWork (s : State) (l : Nat) : State :=
  let us := launchUnits s l
  let s1 := (s.cmds.filter fun (_, c) => c.launch = l && c.pkt.isNone).foldl stopCmd s
  { s1 with matOps := s1.matOps.filter fun (_, m) => !us.contains m.unit
            toStore := s1.toStore.filter fun h => !us.contains h.unit }

/-- A cluster is retired: its launches complete faulted without a dump. -/
def retireCluster (s : State) (c : Nat) : State :=
  let s1 := setReady { s with retiredClusters := s.retiredClusters ++ [c] } c false
  let lost := (s1.launches.filter fun (i, l) => l.status = 0 && s1.units.any fun (_, u) => u.launch = i && clusterOf u.core = c).map (·.1)
  let gens := lost.filterMap fun l => (launchOf s1 l).map (·.gen)
  checkMinima (lost.foldl (fun a l =>
    match launchOf a l with
    | none => a
    | some x => endLaunch (dropWork (retireReport a x.fn x.gen x.handle.toNat 0 c (gens.filter (· == x.gen)).length) l) l 3) s1)

/-- A channel pair is retired: the slices with bytes in it are copied elsewhere. -/
def retirePair (s : State) (q : Nat) : State :=
  let s1 := { s with retiredPairs := s.retiredPairs ++ [q] }
  let hit := (s1.parts.map (·.1)).filter fun p => (slicesOf s1 p).any fun j => physOf s1 j % 16 == q % 16
  copyRetired (checkMinima (hit.foldl (fun a p => tellVfs a p 1 q) s1))

/-! ## Commands (R348-R350, R358) -/

/-- A command of the mailbox ends with a result. -/
def finishCmd (s : State) (fn result : Nat) : State := modFn s fn fun f => { f with busy := false, result := result }

/-- The mailbox of a function holds a command of some operations that has not begun. -/
def cmdDue (s : State) (fn : Nat) (ops : Nat → Bool) : Bool :=
  (fnOf s fn).busy && ops (mailOp s fn) && (fn != 0 || !s.pfBusy.any fun b => b.1 < 2)

/-- A command that the PF alone may give (Table 12.7); from a VF it is refused. -/
def pfCommand (op : Nat) (s : State) (act : State → State) : State :=
  match s.subj with
  | .of [fn] => if !cmdDue s fn (· == op) then s else if fn = 0 then act s else finishCmd s fn 1
  | _ => s

/-- A command of a VF. -/
def vfCommand (op : Nat) (s : State) (act : State → Nat → State) : State :=
  match s.subj with
  | .of [fn] => if !cmdDue s fn (· == op) then s else if fn = 0 then finishCmd s fn 1 else act s fn
  | _ => s

/-- MOVE names a VF in CMD [15:8] and a logical slice of its partition in [31:16] (log 31). -/
def moveSlice (s : State) : State :=
  let fn := mailArg s 0 1 1
  let j := mailArg s 0 2 2
  let p := (fnOf s fn).part
  if fn = 0 || 128 < fn || !(slicesOf s p).contains j then finishCmd s 0 4
  else if !(partEntry s p).moveOk then finishCmd s 0 1
  else match tabGet p s.moves, freeSlice s with
    | none, some k => finishCmd (startMove s p j k true) 0 0
    | _, _ => finishCmd s 0 3

def execMove (s : State) : Host.Outcome State Fault Refusal := .next (pfCommand 0x15 s moveSlice)

/-- Operands of RETIRE (R349): all other bytes of CMD are 0. -/
def retireCmd (kind limit : Nat) (done : State → Nat → Bool) (act : State → Nat → State) (s : State) : State :=
  let n := mailArg s 0 2 2
  if mailArg s 0 1 1 != kind || limit ≤ n || mailArg s 0 4 60 != 0 then finishCmd s 0 4
  else if done s n then finishCmd s 0 3
  else finishCmd (act s n) 0 0

def execRetireCluster (s : State) : Host.Outcome State Fault Refusal :=
  .next (pfCommand 0x16 s (retireCmd 0 48 (fun s n => s.retiredClusters.contains n) retireCluster))

def execRetireChannelPair (s : State) : Host.Outcome State Fault Refusal :=
  .next (pfCommand 0x16 s (retireCmd 1 192 (fun s n => s.retiredPairs.contains n) retirePair))

/-- The counts as they stand in DATA. -/
def copyCounts (s : State) : State :=
  let bytes := (List.range 0x1E0).flatMap fun i => bytesOf 8 (tabGetD (0x100 + 8 * i) 0 s.counts)
  modFn s 0 fun f => { f with data := f.data.write 0x100 bytes }

def execCounts (s : State) : Host.Outcome State Fault Refusal :=
  .next (pfCommand 0x17 s fun s => if bit (mailArg s 0 1 1) 0 then s else finishCmd (copyCounts s) 0 0)

def execCountsClear (s : State) : Host.Outcome State Fault Refusal :=
  .next (pfCommand 0x17 s fun s => if bit (mailArg s 0 1 1) 0 then { finishCmd (copyCounts s) 0 0 with counts := [] } else s)

/-! ## Module reset (R355) -/

/-- Two enabled entries share a cluster or a colour. -/
def clash (a b : PartEntry) : Bool :=
  a.en && b.en && ((a.cbase ≤ b.clim && b.cbase ≤ a.clim) || a.colour &&& b.colour != 0)

/-- Some two entries clash. -/
def anyClash : List PartEntry → Bool
  | [] => false
  | e :: r => r.any (clash e) || anyClash r

/-- The module resets: what the persistent store, the host, the other modules and the environment hold stays, and so do the model's
own counters. -/
def afterReset (s : State) : State :=
  { State.reset with
    inbox := s.inbox.map fun t => { t with due := t.due - s.now }, fresh := s.fresh, lost := s.lost, quanta := s.quanta, node := s.node
    ownerHash := s.ownerHash, hostMem := s.hostMem, remoteMem := s.remoteMem, sliceTab := s.sliceTab, retiredClusters := s.retiredClusters
    retiredPairs := s.retiredPairs, linkUp := s.linkUp, blobs := s.blobs }

/-- An entry of the block, of 64 bytes (R355); what it reserves is not looked at. -/
def entryOf (b : List Byte) : PartEntry :=
  let n := natOf b
  let at_ (off bytes : Nat) : Nat := fld n (8 * off) (8 * bytes)
  { en := bit n 0, moveOk := bit n 1, cbase := at_ 1 1, clim := at_ 2 1, prio := at_ 3 1, sbase := at_ 4 2, scnt := at_ 6 2
    colour := BitVec.ofNat 64 (at_ 8 8), gminc := at_ 0x10 1, gmins := at_ 0x11 2 }

/-- The 40 entries of the block. -/
def blockEntries (bytes : List Byte) : List PartEntry := (List.range 40).map fun i => entryOf ((bytes.drop (64 * i)).take 64)

/-- The block passes: its signature verifies under the owner's key, whose hash the first one provisions, and its entries do not clash
(R343, R355). -/
def blockPasses (s : State) (verified : Bool) (owner : Nat) (bytes : List Byte) : Bool :=
  verified && s.ownerHash.all (· == owner) && bytes.length == 2560 && !anyClash (blockEntries bytes)

/-- The block is verified and latched; one that is refused leaves the module in reset. -/
def resetModule (s : State) (verified : Bool) (owner : Nat) (bytes : List Byte) : State :=
  let s1 := afterReset s
  if !blockPasses s verified owner bytes then s1
  else copyRetired (checkMinima { s1 with
    ownerHash := some owner, block := bytes, parts := (blockEntries bytes).mapIdx fun i e => (i, e) })

def execModuleReset (s : State) : Host.Outcome State Fault Refusal :=
  match s.subj with
  | .block v owner bytes => .next (resetModule s v owner bytes)
  | _ => .next s

end Sys2Proof.Machine
end

