-- ==== Sys2Proof/Machine/Errors.lean ====
section
/-! DEFINITION. Errors in storage (R428, R429, R350, R432), of the cluster control, and of the host link (R437). -/

namespace Sys2Proof.Machine

/-! ## Storage -/

/-- A storage error is reported to a context (Table 17.7). -/
def storageReport (s : State) (gen where_ number addr : Nat) : State :=
  match ctxOf s gen with
  | none => s
  | some c => postReport s c.fn 3 gen 0 addr 0 (bytesOf 2 where_ ++ bytesOf 2 number ++ bytesOf 4 1 ++ bytesOf 8 0)

/-- An uncorrectable error ends the replay of a launch (R392). -/
def failReplays (s : State) (hit : Launch → Nat → Bool) : State :=
  ((s.launches.filter fun (i, x) => x.rply && x.status = 0 && x.fatal.isNone && hit x i).map (·.1)).foldl replayMismatch s

/-- The unit that holds a word of a core's store, or of its accumulator store. -/
def wordHolder (s : State) (core acc a : Nat) : Option Nat :=
  if acc = 1 then ((unitsOn s core).find? fun (_, u) => u.gmap.any fun p => p.2 = a / 4096).map (·.1)
  else
    let page := a / 2048
    match (coreOf s core).warps.find? fun (_, w) => w.page ≤ page && page < w.page + w.bsize / 16 with
    | some (_, w) => some w.unit
    | none => ((residentsOn s core).find? fun (_, u) =>
        (u.scrPage ≤ page && page < u.scrPage + u.scrPages) || u.kept.any fun (_, p, n) => p ≤ page && page < p + n).map (·.1)

/-- A 32-bit word of a store becomes poisoned; no fault is raised at detection. -/
def poisonWord (s : State) (core acc addr : Nat) : State :=
  let a := addr / 4 * 4
  let add (l : List Nat) : List Nat := if l.contains a then l else l ++ [a]
  let s1 := modCore s core fun k =>
    if acc = 1 then { k with accPoison := add k.accPoison } else { k with storePoison := add k.storePoison }
  let s2 := match wordHolder s core acc a with
    | some u => storageReport s1 (unitGen s u) acc (clusterOf core) a
    | none => s1
  failReplays s2 fun _ l => (unitsOn s core).any fun (_, u) => u.launch = l

def execStoreUncorrectable (s : State) : Host.Outcome State Fault Refusal :=
  match s.subj with
  | .of [core, acc, addr] =>
    .next (if core < Config.cores && addr < (if acc = 1 then 64 * 4096 else Config.storeBytes) then poisonWord s core acc addr else s)
  | _ => .next s

/-- The channel pair of an address of this module (R349). -/
def pairOf (s : State) (addr : Nat) : Nat := Config.stackOf (addr / 4096 * 32) % 12 * 16 + storageOf s addr / 2 ^ 30 % 16

/-- An uncorrectable error of HBM is counted, and the sixteenth within 2^24 ticks retires its pair (R432). -/
def countPair (s : State) (q : Nat) : State :=
  let t := tickOf s.now
  let recent := s.pairErrs.filter fun e => e.1 = q && t < e.2 + 2 ^ 24
  let s1 := addCount { s with pairErrs := (s.pairErrs.filter fun e => t < e.2 + 2 ^ 24) ++ [(q, t)] } (0x8A0 + 8 * q)
  if 15 ≤ recent.length && !s.retiredPairs.contains q then retirePair s1 q else s1

/-- A path under way completes a round later (R23): a request, a fill, a walk, or the reads of a transfer still to come. -/
def addRound (s : State) (id : Nat) : State :=
  let later (l : Line) : Line :=
    if l.readAt < s.now then l
    else { l with readAt := l.readAt + Config.round, writeAt := l.writeAt + Config.round, ackAt := l.ackAt + Config.round }
  let returns (i : Instr) : Bool := match i with
    | .loadReturn | .storeAck | .atomicComplete | .tileFillEnd | .tileDrainEnd | .icacheFillLand | .translationWalkEnd => true
    | _ => false
  { s with
    agenda := s.agenda.map fun t => if t.subj = .of [id] && returns t.i then { t with due := t.due + Config.round } else t
    reqs := tabMod id (fun q => { q with due := q.due + Config.round, lines := q.lines.map later }) s.reqs
    fills := tabMod id (fun f => { f with ends := f.ends + Config.round }) s.fills
    walks := tabMod id (fun w => { w with ends := w.ends + Config.round }) s.walks
    cmds := tabMod id (fun c => { c with lines := c.lines.map later, readEnd := c.readEnd + Config.round }) s.cmds }

/-- An error found in the shared cache or in HBM by a request, a fill, a walk or a command of a context: a clean line is refetched, which costs
that path a round (R23, R429), a dirty sector and what HBM returns are poisoned. -/
def cacheError (s : State) (hbm addr gen id : Nat) : State :=
  let p := Place.dev (addr % 2 ^ 50)
  let line := addr % 2 ^ 50 / 128
  let dirty := s.l2.any fun x => x.pa = line && x.dirty.toNat.testBit (addr % 128 / 32)
  if hbm = 1 then
    let q := pairOf s (addr % 2 ^ 50)
    failReplays (countPair (storageReport (poisonPlace s p) gen 3 q addr) q) fun x _ => x.gen = gen
  else if dirty then failReplays (storageReport (poisonPlace s p) gen 2 (homeDie line) addr) fun x _ => x.gen = gen
  else
    storageReport (addRound s id) gen 2 (homeDie line) addr

def execCacheHbmError (s : State) : Host.Outcome State Fault Refusal :=
  match s.subj with
  | .of [hbm, addr, gen, id] => .next (cacheError s hbm addr gen id)
  | _ => .next s

/-- A corrected error is counted under its offset in DATA (R350). -/
def execCorrectedError (s : State) : Host.Outcome State Fault Refusal :=
  match s.subj with
  | .of [n] => .next (if 0x100 ≤ n && n < 0x8A0 && n % 8 = 0 then addCount s n else s)
  | _ => .next s

def execClusterControlError (s : State) : Host.Outcome State Fault Refusal :=
  match s.subj with
  | .of [c] => .next (if c < 48 && !s.retiredClusters.contains c then retireCluster s c else s)
  | _ => .next s

/-! ## The host link (R437) -/

/-- Items of a request that lie in host memory, and the first such address; every item when the accesses are not known. -/
def hostItems (s : State) (q : Req) : List Nat × Nat :=
  match q.again, requester s q with
  | some (accs, _), some v =>
    let fs := (fragsOf s v accs).filter fun f => match f.place with | .host .. => true | _ => false
    (dedup (fs.map (·.idx)), ((fs.head?).map (·.va)).getD 0)
  | _, _ => (match q.kind with | .load _ items => List.range items.length | _ => [0], 0)

/-- A read of host memory fails: it returns poison, and the context is told the cause. -/
def failHostRead (s : State) (id cause : Nat) : State :=
  match tabGet id s.reqs with
  | none => s
  | some q =>
    if !(q.host && q.isLoad) then s
    else
      let (bad, addr) := hostItems s q
      let s1 := hostReport s q.gen (launchHandle s q.unit) addr q.ipc.toNat cause
      let s2 := { s1 with agenda := s1.agenda.filter fun t => !(t.i = returnEvent q && t.subj = .of [id])
                          reqs := tabPut id { q with due := s.now, poison := dedup (q.poison ++ bad) } s1.reqs }
      returnReq s2 id

def execHostReadFailure (s : State) : Host.Outcome State Fault Refusal :=
  match s.subj with
  | .of [id, aborter] => .next (failHostRead s id (if aborter = 1 then 1 else 0))
  | _ => .next s

/-- A read of host memory has had no completion for the time-out. -/
def hostLate (s : State) (id : Nat) : Bool :=
  match tabGet id s.reqs with
  | some q => q.host && q.isLoad && tickEnd (tickOf q.sent + Config.lostTicks) ≤ s.now
  | none => false

def execHostCompletionTimeout (s : State) : Host.Outcome State Fault Refusal :=
  match s.subj with
  | .of [id] => .next (if hostLate s id then failHostRead s id 2 else s)
  | _ => .next s

/-- The link goes down: reads of the host fail, and every enabled queue stops (R435). -/
def dropLink (s : State) : State :=
  let s1 := { s with linkUp := false }
  let s2 := ((s1.reqs.filter fun (_, q) => q.host && q.isLoad).map (·.1)).foldl (fun a id => failHostRead a id 4) s1
  let queues := s2.fns.flatMap fun (f, x) => (x.cqs.filter fun (_, c) => c.en).map fun (q, _) => (f, q)
  queues.foldl (fun a (f, q) => queueError a f q) s2

def execLinkDown (s : State) : Host.Outcome State Fault Refusal := .next (dropLink s)

def execLinkReturn (s : State) : Host.Outcome State Fault Refusal := .next { s with linkUp := true }

/-- A failed posted write is reported to the context of its PASID; no thread sees it. -/
def execFailedPostedWrite (s : State) : Host.Outcome State Fault Refusal :=
  match s.subj with
  | .of [pasid, addr] =>
    match s.ctxs.find? fun (_, c) => c.pasid = pasid with
    | some (g, _) => .next (hostReport s g 0 addr 0 3)
    | none => .next s
  | _ => .next s

end Sys2Proof.Machine
end

