-- ==== Sys2Proof/Machine/Events.lean ====
section
/-! DEFINITION. The events of parks, waits, ejection, rejoin and bins, each with the condition under which it happens (R36, R40,
R49, R176, R216, R382). -/

namespace Sys2Proof.Machine

/-- A warp whose register block is to be moved: at a switch marker it is held from issue (R102). -/
def beingMoved (s : State) (v : View) : Bool :=
  match v.gid, (coreOf s v.core).compact.bind (·.move) with
  | .warp _ w, some (x, _, _) => w == x && decide (v.run.status ≠ .running)
  | _, _ => false

/-- A warp whose register block is being copied. -/
def copied (s : State) (v : View) : Bool :=
  match v.gid, (coreOf s v.core).compact.bind (·.move) with
  | .warp _ w, some (x, _, e) => w == x && e != 0
  | _, _ => false

/-- A group that a halt of its context, or of its launch, holds where it stands (R82, R447). -/
def frozen (s : State) (v : View) : Bool := unitHalted s v || decide (v.run.status = .stopped)

/-! ## Parks and waits -/

/-- The park of a group is over (R176). -/
def parkDue (s : State) (g : Gid) : Bool :=
  match view s g with
  | some v =>
    match v.run.status with
    | .parked act => !frozen s v && !copied s v && parkEnds s v act
    | _ => false
  | none => false

def execRunParkEnd (s : State) : Host.Outcome State Fault Refusal :=
  match s.subj with
  | .group g => .next (if parkDue s g then endPark s g else s)
  | _ => .next s

/-- The exit condition of a wait holds in this cycle (R216). -/
def waitDue (s : State) (g : Gid) : Bool :=
  match view s g with
  | some v =>
    match v.run.status with
    | .waiting all _ conds _ _ => !frozen s v && exitMet s v all conds
    | _ => false
  | none => false

/-- The time-out of a wait is over: at once when it is 0, never when it is 0xFFFF_FFFF, else at the end of its last tick (R20, R215,
R216). -/
def timeoutDue (s : State) (g : Gid) : Bool :=
  match view s g with
  | some v =>
    match v.run.status with
    | .waiting _ _ _ tmo t0 => !frozen s v && tmo != 0xFFFFFFFF && (tmo = 0 || tickEnd (t0 + tmo.toNat) ≤ s.now)
    | _ => false
  | none => false

def execWaitConditionMet (s : State) : Host.Outcome State Fault Refusal :=
  match s.subj with
  | .group g => .next (if waitDue s g then endWait s g false else s)
  | _ => .next s

def execWaitTimeout (s : State) : Host.Outcome State Fault Refusal :=
  match s.subj with
  | .group g => .next (if timeoutDue s g then endWait s g true else s)
  | _ => .next s

/-! ## Ejection and rejoin -/

/-- Hand-over is over (R36): the ejected thread is ready, and its count starts (R382). -/
def endHandover (s : State) (g : Gid) : State :=
  match view s g with
  | none => s
  | some v =>
    if v.run.status = .handover && v.run.usable ≤ s.now then
      match g with
      | .kindle cl k => startRun (modEj s cl k fun e => { e with t0 := tickOf s.now }) g s.now
      | .warp .. => s
    else s

def execEjectionHandoverEnd (s : State) : Host.Outcome State Fault Refusal :=
  match s.subj with
  | .group g => .next (endHandover s g)
  | _ => .next s

def execRejoinWritebackEnd (s : State) : Host.Outcome State Fault Refusal :=
  match s.subj with
  | .group (.warp c w) => .next (endWriteBack s c w)
  | _ => .next s

/-- The rejoin window of a warp ends with this cycle (R20, R40). -/
def windowDue (s : State) (c w : Nat) : Bool :=
  match warpOf s c w, view s (.warp c w) with
  | some x, some v =>
    match x.run.status with
    | .rejoin _ t0 0 _ _ _ => !frozen s v && tickEnd (t0 + x.rjw.toNat) ≤ s.now
    | _ => false
  | _, _ => false

/-- The window closes: what is being written back completes, and the warp goes on no earlier than the next tick. -/
def closeWindow (s : State) (c w : Nat) : State :=
  match warpOf s c w with
  | none => s
  | some x =>
    match x.run.status with
    | .rejoin tag t0 _ since ready wb =>
      pumpRejoin (setStatus s (.warp c w) (.rejoin tag t0 3 since (Nat.max ready (s.now + 1)) wb)) c w
    | _ => s

def execRejoinWindowClose (s : State) : Host.Outcome State Fault Refusal :=
  match s.subj with
  | .group (.warp c w) => .next (if windowDue s c w then closeWindow s c w else s)
  | _ => .next s

/-- Whether a group may issue in this cycle (R34, R173). -/
def mayIssue (s : State) (v : View) : Bool :=
  !frozen s v && !beingMoved s v &&
  match v.run.status with
  | .ready since => since ≤ s.now && v.run.nextAt ≤ s.now
  | .running => v.run.nextAt ≤ s.now
  | _ => false

/-- The thread a kindling core lets issue in this cycle (R366). -/
def kindleIssuer (s : State) (cl i : Nat) : Option Gid :=
  let p := poolOf s cl
  let may (k : Nat) : Bool := (view s (.kindle cl k)).any (mayIssue s)
  let slots := (p.slots.map (·.1)).filter fun k => k % 16 = i && may k
  match tabGet i p.last with
  | none => slots.head?.map fun k => .kindle cl k
  | some (k0, at_) =>
    if s.now < at_ then none
    else ((slots.filter fun k => k0 < k) ++ slots.filter fun k => k ≤ k0).head?.map fun k => .kindle cl k

/-- An ejected thread comes to issue, in its turn, with its count at EJLIM (R366, R382). -/
def ejlimDue (s : State) (g : Gid) : Bool :=
  match g, view s g with
  | .kindle cl k, some v =>
    mayIssue s v && decide (kindleIssuer s cl (k % 16) = some g) && ((ejOf s cl k).map fun e => decide (Config.ejlim ≤ tickOf s.now - e.t0)).getD false
  | _, _ => false

/-- EJLIM (Table 15.1), precise at the instruction that was to issue. -/
def raiseEjlim (s : State) (g : Gid) : State :=
  match view s g, g with
  | some v, .kindle cl k => trapNow s v (precise v cEjlim (((ejOf s cl k).map (·.tag)).getD 0))
  | _, _ => s

def execEjlim (s : State) : Host.Outcome State Fault Refusal :=
  match s.subj with
  | .group g => .next (if ejlimDue s g then raiseEjlim s g else s)
  | _ => .next s

/-! ## Bins (R49, R50, R386) -/

/-- BINAGE cycles have passed since the first filing of a bin. -/
def ageDue (s : State) (core bin : Nat) : Bool :=
  match tabGet bin (coreOf s core).bins with
  | none => false
  | some b =>
    match unitOf s b.unit with
    | none => false
    | some u => !b.aged && !isDeterm s b.unit && !u.halted && b.opened + u.binage ≤ s.now

def execBinAged (s : State) : Host.Outcome State Fault Refusal :=
  match s.subj with
  | .of [core, bin] =>
    .next (if ageDue s core bin then modCore s core fun k => { k with bins := tabMod bin (fun b => { b with aged := true }) k.bins } else s)
  | _ => .next s

/-- A draw that the record of a launch forces in this cycle, with its reason (R91). -/
def forcedDraw (s : State) (core : Nat) : Option (Nat × Nat) :=
  (coreOf s core).bins.findSome? fun (bin, b) =>
    if !replays s (unitLaunchId s b.unit) || (unitOf s b.unit).any (·.halted) || (drawPlace s core b).isNone then none
    else match recordedNow s (unitLaunchId s b.unit) 0x04 with
      | some e => if fld e 44 12 = core && fld e 39 5 = bin then some (bin, fld e 36 3) else none
      | none => none

/-- The bin a core draws in this cycle, with the reason. -/
def drawDue (s : State) (core : Nat) : Option (Nat × Nat) :=
  match forcedDraw s core with
  | some x => some x
  | none => nextDraw s core

def execBinDraw (s : State) : Host.Outcome State Fault Refusal :=
  match s.subj with
  | .of [core, bin, reason] => .next (if drawDue s core = some (bin, reason) then drawBin s core bin reason else s)
  | _ => .next s

end Sys2Proof.Machine
end

