-- ==== Sys2Proof/Machine/Halts.lean ====
section
/-! DEFINITION. The tenant-slice halt (R82-R84, Table 3.7), what it saves, and the resume (R85, R389, R321). -/

namespace Sys2Proof.Machine

/-! ## A halt is accepted (R82) -/

/-- Contexts of a function, those being destroyed too. -/
def fnGens (s : State) (fn : Nat) : List Nat := (s.ctxs.filter fun (_, c) => c.fn = fn).map (·.1)

/-- Units of a context, by internal number. -/
def ctxUnits (s : State) (g : Nat) : List Nat := (s.units.filter fun (_, u) => (launchOf s u.launch).any fun l => l.gen = g).map (·.1)

/-- The halt enters the capture buffer of a launch; in replay it must be recorded for this cycle (Table 3.8, R392). -/
def captureHalt (s : State) (l : Nat) : State :=
  match launchOf s l with
  | none => s
  | some x =>
    if !x.rply then capture s l 0x09 x.part 0 (reftick s).toNat
    else if (recordedNow s l 0x09).isSome then modLaunch s l fun y => { y with capIdx := y.capIdx + 1 }
    else replayMismatch s l

/-- A context is to halt: its units stop in the next cycle. -/
def haltCtx (s : State) (g : Nat) : State :=
  if (ctxOf s g).any (·.halted) then s
  else
    let s1 := modCtx s g fun c => { c with halted := true, haltedAt := s.now + 1 }
    ((s1.launches.filter fun (_, x) => x.gen = g && x.status = 0 && (x.capt || x.rply)).map (·.1)).foldl captureHalt s1

def haltFn (s : State) (fn : Nat) : State := (fnGens s fn).foldl haltCtx s

/-- A load that a halt saves: its unit has stopped, and its group is not entering a handler. -/
def savesLoad (s : State) (g : Nat) (q : Req) : Bool :=
  q.gen = g && q.again.isSome && q.aper.isEmpty && (unitOf s q.unit).any (·.halted) &&
  match requester s q with
  | some v => !enteringTrap v.run
  | none => false

/-- Replayable loads are saved as packets (Table 3.7). Their requests stay outstanding under the tag of the context until they come back, and
what they bring is dropped (R84). -/
def takeReplays (s : State) (g : Nat) : State :=
  let mine := s.reqs.filter fun (_, q) => savesLoad s g q
  if mine.isEmpty then s
  else
    let gone (id : Nat) : Bool := mine.any fun x => x.1 = id
    modCtx { s with reqs := s.reqs.filter fun (i, _) => !gone i
                    agenda := s.agenda.filter fun t => !(t.i = .loadReturn && match t.subj with | .of [i] => gone i | _ => false) }
      g fun c => { c with replays := c.replays ++ mine.map (·.2), outstanding := c.outstanding ++ mine.map fun (_, q) => (q.core, q.due) }

/-- Units of a context that halts stop in the cycle after the halt was accepted (R82); a launch that halts fatally goes on to its dump
(Table 15.4). -/
def applyHalts (s : State) : State :=
  let due := (s.ctxs.filter fun (_, c) => c.halted && c.haltedAt = s.now).map (·.1)
  if due.isEmpty then s
  else
    let stops (u : UnitSt) : Bool := (launchOf s u.launch).any fun l => l.fatal.isNone && due.contains l.gen
    let s1 := due.foldl takeReplays { s with units := s.units.map fun (i, u) => (i, if stops u then { u with halted := true } else u) }
    -- the steps that its lehrs do not make hold up nothing on the array (R321)
    ((s1.matOps.filter fun (_, m) => m.kind = 6 && (unitOf s1 m.unit).any fun u => u.halted).map (·.1)).foldl unplan s1

/-! ## When a halt is over (R82, Tables 3.7 and 15.4) -/

/-- A lehr that stands between two steps (R321). -/
def lehrPaused (s : State) (id : Nat) (m : MatOp) : Bool :=
  m.kind = 6 && m.step < m.ns && !s.matOps.any fun (_, x) => x.parent = some id

/-- A copy, gather or scatter that waits in its queue or stands at a boundary of 4 KiB. -/
def cmdStopped (s : State) (c : Cmd) : Bool :=
  (c.op ≤ 2 || c.op = 5 || c.op = 6) &&
  (c.phase = 0 || c.phase = 6 || ((c.phase = 4 || (c.phase = 1 && !c.rest.isEmpty)) && c.lines.all fun l => l.ackAt ≤ s.now))

/-- A group stands where its state can be saved. -/
def groupStill (s : State) (g : Gid) : Bool :=
  match view s g with
  | none => true
  | some v =>
    match v.run.status with
    | .handover => false
    | .rejoin _ _ _ _ _ (some _) => false
    | st => !enteringTrap { v.run with status := st } && !copied s v

/-- A tile transfer that stands at a boundary of 4 KiB (R298). -/
def transferStopped (s : State) (q : Req) : Bool := !q.rest.isEmpty && q.lines.all fun l => l.ackAt ≤ s.now

/-- Nothing of a context is under way that a halt waits for. -/
def ctxDrained (s : State) (g : Nat) : Bool :=
  let us := ctxUnits s g
  (ctxOf s g).any (fun c => c.halted && c.haltedAt ≤ s.now) &&
  (us.all fun u => (unitOf s u).any (·.halted)) &&
  !(s.launches.any fun (i, l) => l.gen = g && l.status = 0 && l.fatal.isSome && (launchUnits s i).isEmpty) &&
  ((us.flatMap (unitGroups s)).all (groupStill s)) &&
  !(s.cores.any fun (_, k) => k.firstUse.any fun f => f.gen = g) &&
  (s.reqs.all fun (i, q) => q.gen != g || (tabGet i s.matOps).any (lehrPaused s i) || transferStopped s q || s.cores.any fun (_, k) => k.elq.any fun e => e.req = i) &&
  !(s.toStore.any fun h => us.contains h.unit) &&
  (s.matOps.all fun (i, m) => m.gen != g || lehrPaused s i m) &&
  (s.cmds.all fun (_, c) => c.gen != g || cmdStopped s c)

/-! ## Saving (R83) -/

/-- Pages of a core that the units of a list and their warps hold. -/
def pagesOf (s : State) (core : Nat) (us : List Nat) : List (Nat × Nat) :=
  (((coreOf s core).warps.filter fun (_, w) => us.contains w.unit).map fun (_, w) => (w.page, w.bsize / 16)) ++
  us.flatMap fun u =>
    match unitOf s u with
    | none => []
    | some x => if x.core != core then []
      else (x.kept.map fun (_, p, n) => (p, n)) ++ if x.scrPages = 0 then [] else [(x.scrPage, x.scrPages)]

def inPages (pages : List (Nat × Nat)) (a : Nat) : Bool := pages.any fun (p, n) => p ≤ a / 2048 && a / 2048 < p + n

/-- Tile entries that units of a list hold. -/
def inTiles (s : State) (us : List Nat) (i : Nat) : Bool :=
  us.any fun u => (unitOf s u).any fun x => x.tileBase ≤ i && i < x.tileBase + x.ntiles

/-- What a core holds of some units. -/
def coreImage (s : State) (core : Nat) (us : List Nat) : SavedCore :=
  let k := coreOf s core
  let pages := pagesOf s core us
  { core := core, warps := k.warps.filter fun (_, w) => us.contains w.unit, store := k.store.filter fun c => inPages pages c.1
    poison := k.storePoison.filter (inPages pages), tiles := k.tiles.filter fun (i, _) => inTiles s us i
    bins := k.bins.filter fun (_, b) => us.contains b.unit, staging := k.staging.filter fun t => us.contains t.unit, l1w := k.l1w
    fused := k.fused, sfu := k.quads.map (·.sfuFree) }

/-- The core without it. -/
def clearCore (s : State) (core : Nat) (us : List Nat) : State :=
  let pages := pagesOf s core us
  modCore s core fun k =>
    let gone (w : Nat) : Bool := (tabGet w k.warps).any fun x => us.contains x.unit
    { k with
      warps := k.warps.filter fun (_, w) => !us.contains w.unit, store := k.store.filter fun c => !inPages pages c.1
      storePoison := k.storePoison.filter fun a => !inPages pages a, tiles := k.tiles.filter fun (i, _) => !inTiles s us i
      bins := k.bins.filter fun (_, b) => !us.contains b.unit, staging := k.staging.filter fun t => !us.contains t.unit
      quads := k.quads.map fun q => if q.holder.any gone then { q with holder := none } else q
      leaseQ := k.leaseQ.filter fun e => !us.contains e.unit
      compact := match k.compact with
        | none => none
        | some c =>
          if us.any fun u => (unitOf s u).any fun x => x.launch = c.launch then none
          else some (if (c.move.map (·.1)).any gone then { c with move := none } else c) }

/-- The state of a context is saved, and its resources of the cores and pools are released; granules, planes and lease stay (R86, R308). -/
def saveCtx (s : State) (g : Nat) : State :=
  let us := (ctxUnits s g).filter fun u => (unitOf s u).any fun x => !x.saved
  let cores := dedup (us.filterMap fun u => (unitOf s u).map (·.core))
  let images := cores.map fun c => coreImage s c us
  let slots := s.pools.flatMap fun (cl, p) => (p.slots.filter fun (_, e) => us.contains e.unit).map fun (k, e) => (cl, k, e)
  let s1 := cores.foldl (fun a c => clearCore a c us) s
  let s2 := { s1 with
    pools := s1.pools.map fun (cl, p) => (cl, { p with slots := p.slots.filter fun (_, e) => !us.contains e.unit })
    units := s1.units.map fun (i, u) => (i, if us.contains i then { u with saved := true } else u)
    walks := s1.walks.filter fun (_, w) => !(w.gen = g && w.why ≤ 1)
    agenda := s1.agenda.filter fun t => !((t.i = .lehrStep || t.i = .budgetRetry) && match t.subj with
      | .of [i] => (tabGet i s1.matOps).any fun m => m.gen = g
      | _ => false) }
  let s3 := (dedup (cores.map clusterOf)).foldl unfuse s2
  modCtx s3 g fun c => { c with saved := c.saved ++ images, slots := c.slots ++ slots }

/-! ## Resume (R85) -/

/-- A time that was saved in one cycle as it is in another. -/
def moveTime (from_ at_ t : Nat) : Nat := if from_ ≤ t then at_ + (t - from_) else at_ - (from_ - t)

/-- Times of a parked action. -/
def shiftAct (f : Nat → Nat) : ParkAct → ParkAct
  | .xfer l t => .xfer l (f t)
  | .tret l t => .tret l (f t)
  | .yield o => .yield (o.map fun x => (x.1, f x.2))
  | a => a

def shiftCond (f : Nat → Nat) : Cond → Cond
  | .word a o t n d => .word a o (f t) n (d.map f)
  | c => c

/-- Times of a status: `f` moves cycles, `g` ticks. -/
def shiftStatus (f g : Nat → Nat) : Status → Status
  | .ready t => .ready (f t)
  | .parked a => .parked (shiftAct f a)
  | .waiting all kd cs tmo t0 => .waiting all kd (cs.map (shiftCond f)) tmo (g t0)
  | .rejoin tag t0 mode since ready wb => .rejoin tag (g t0) mode (f since) (f ready) wb
  | .atRejoin t => .atRejoin (f t)
  | st => st

def shiftRun (f g : Nat → Nat) (r : Run) : Run :=
  { r with usable := f r.usable, nextAt := f r.nextAt, pend := r.pend.map (fun p => { p with due := f p.due, iss := f p.iss })
           status := shiftStatus f g r.status }

/-- The resources of a saved core are free, its share can be set, and the kindling slots are free. -/
def coreFree (s : State) (x : SavedCore) (us : List Nat) : Bool :=
  let k := coreOf s x.core
  let used := usedPages s x.core
  let tiles := (residentsOn s x.core).map fun (_, u) => (u.tileBase, u.ntiles)
  (x.warps.all fun (i, _) => (tabGet i k.warps).isNone) &&
  ((pagesSaved x).all fun (p, n) => freeRun used (spaceTop x.l1w) p n) &&
  (us.all fun u => (unitOf s u).all fun y => y.core != x.core || y.ntiles = 0 || freeRun tiles 256 y.tileBase y.ntiles) &&
  (((residentsOn s x.core).isEmpty && !k.fused) || (k.l1w = x.l1w && k.fused = x.fused)) &&
  !s.retiredClusters.contains (clusterOf x.core)
where
  pagesSaved (x : SavedCore) : List (Nat × Nat) :=
    (x.warps.map fun (_, w) => (w.page, w.bsize / 16)) ++ us.flatMap fun u =>
      match unitOf s u with
      | none => []
      | some y => if y.core != x.core then []
        else (y.kept.map fun (_, p, n) => (p, n)) ++ if y.scrPages = 0 then [] else [(y.scrPage, y.scrPages)]

def ctxFits (s : State) (g : Nat) : Bool :=
  match ctxOf s g with
  | none => true
  | some c =>
    (c.outstanding.all fun x => x.2 ≤ s.now) && (c.saved.all fun x => coreFree s x (ctxUnits s g)) && c.slots.all fun (cl, k, _) => (ejOf s cl k).isNone

/-- The share of a core, or the fused L1 of its cluster, as it was. -/
def restoreShare (s : State) (x : SavedCore) : State :=
  let put (fuse : Bool) (a : State) (c : Nat) : State :=
    modCore a c fun k => { k with l1 := if k.l1w = x.l1w && k.fused = fuse then k.l1 else [], l1w := x.l1w, fused := fuse }
  if x.fused then (clusterCores (clusterOf x.core)).foldl (put true) s else put false s x.core

/-- A saved core back in place, its times moved and its program counters forwarded (R117). -/
def restoreCore (f g : Nat → Nat) (pc : Pc → Pc) (s : State) (x : SavedCore) : State :=
  let s1 := restoreShare s x
  modCore s1 x.core fun k =>
    { k with
      store := x.store.foldl (fun m c => m.set c.1 c.2) k.store, storePoison := k.storePoison ++ x.poison
      tiles := x.tiles.foldl (fun t (i, w) => tabPut i w t) k.tiles
      bins := x.bins.foldl (fun t (i, b) =>
        tabPut (if (tabGet i t).isNone then i else ((List.range 32).find? fun j => (tabGet j t).isNone).getD i) { b with opened := f b.opened, pc := pc b.pc } t) k.bins
      staging := k.staging ++ x.staging.map fun t => { t with pc := pc t.pc }
      warps := x.warps.foldl (fun t (i, w) => tabPut i ({ w with run := shiftRun f g w.run }.mapPc pc) t) k.warps
      quads := k.quads.mapIdx fun q y0 =>
        let y := { y0 with sfuFree := Nat.max y0.sfuFree (f (nth x.sfu q 0)) }
        match x.warps.find? fun (i, w) => i % 4 = q && decide (w.run.status = .running) with
        | some (i, _) => { y with holder := some i }
        | none => y }

/-- A translation for an access that is made again. -/
def ensureXlate (s : State) (v : View) (va : Nat) : State :=
  if va < 0x4000000 || (tlbFind (tlbOf s v.gid) (unitGen s v.unit) va).isSome then s
  else match (walk s (unitGen s v.unit) va).1 with
    | .hit x => installXlate s v.gid (if x.host then { x with va := va % 2 ^ 48 / 65536 * 65536, size := 65536 } else x)
    | .miss _ => s

/-- The kind of a load with other bytes. -/
def refill (k : ReqKind) (bytes : List (List Byte)) : ReqKind :=
  match k with
  | .load size items => .load size (items.mapIdx fun i (l, d, _) => (l, d, nth bytes i []))
  | .ldk r size _ => .ldk r size (bytes.headD [])
  | .omld om _ => .omld om (bytes.headD [])
  | k => k

/-- A replayable load is made again (R85): it counts from its reissue (R390) and keeps its place among its group's writes. -/
def reissue (s : State) (q : Req) : State :=
  match requester s q, q.again with
  | some v0, some (accs, viaL1) =>
    let v := { v0 with act := lanesOf q.lanes, pc := q.ipc }
    let s1 := accs.foldl (fun a (_, va, n) => (pageCuts va n).foldl (fun b (x, _) => ensureXlate b v x) a) s
    let count := ((warpOf s1 v.core v.wslot).map (·.reqCount)).getD 0
    let s2 := match q.slot with | some n => slotSub s1 v.gid n | none => s1
    let s3 := doLoad s2 v accs viaL1 q.slot (refill q.kind)
    let s4 := modWarp s3 v.core v.wslot fun w => { w with reqCount := count }
    match s4.reqs.getLast? with
    | some (id, _) => modReq s4 id fun r => { r with issued := q.issued, ordinal := q.ordinal }
    | none => s4
  | _, _ => s

/-- Cycles for which a group waits at the resume for its reissued requests of slot 3. -/
def reissueDelay (s : State) (g : Gid) : Nat :=
  match view s g with
  | none => 0
  | some v =>
    maxOf ((s.reqs.filter fun (_, q) => q.gid = g && q.serial = v.serial && q.slot = some 3 && q.sent = s.now).map fun x => x.2.due) - s.now

/-- The warp resumes issue once its reissued requests of slot 3 have returned, and its pending results keep their offsets from there. -/
def waitReissued (s : State) (g : Gid) : State :=
  let n := reissueDelay s g
  if n = 0 then s else modRun s g (shiftRun (· + n) id)

/-- A request that came back during the halt returns at its offset from the resumed issue point (R85, R327). -/
def putReturn (f : Nat → Nat) (s : State) (q : Req) : State :=
  let due := f q.due + reissueDelay s q.gid
  let (id, s1) := freshNat s
  schedule { s1 with reqs := tabPut id { q with due := due, sent := f q.sent } s1.reqs } due (returnEvent q) (.of [id])

/-- The logical granules of a lehr that stood between two steps, by row block: the granules it names now are those of its unit (R372). -/
def lehrNames (s : State) (m : MatOp) : List (List Nat) :=
  m.blocks.map fun row => row.map fun (_, p) =>
    match (((unitOf s m.unit).map (·.gmap)).getD []).find? fun x => x.2 = p with
    | some (l, _) => l
    | none =>
      match (((ctxOf s m.gen).map (·.images)).getD []).find? fun (k, u, _, _) => k = m.core * 64 + p && u = m.unit with
      | some (_, _, l, _) => l
      | none => 64

/-- The lehrs of a context on a core go on, after a first-use trap when another context has owned the core meanwhile (R87, R321). -/
def resumeCoreLehrs (s : State) (g core : Nat) : State :=
  let mine := s.matOps.filter fun (_, m) => m.kind = 6 && m.gen = g && m.core = core
  match mine with
  | [] => s
  | (_, m0) :: _ =>
    let names := mine.map fun (i, m) => (i, lehrNames s m)
    let owned := (coreOf s core).accown = some g
    let s1 := if owned then s else beginFirstUse s core m0.unit g
    let at_ := if owned then s.now else (((coreOf s1 core).firstUse).map (·.ends)).getD s.now
    let s2 := names.foldl (fun a (i, rows) => modMat a i fun m =>
      let gm := ((unitOf a m.unit).map (·.gmap)).getD []
      { m with blocks := rows.map fun row => row.map fun l => let p := (tabGet l gm).getD 64; (p, p) }) s1
    (dedup (mine.map fun x => x.2.unit)).foldl (fun a u => resumeLehrs a u at_) s2

/-- A halted context resumes on the same cores and kindling slots (R85). -/
def resumeCtx (s : State) (g : Nat) : State :=
  match ctxOf s g with
  | none => s
  | some c =>
    let us := ctxUnits s g
    let f := moveTime c.haltedAt s.now
    let ft := moveTime (tickOf c.haltedAt) (tickOf s.now)
    let pc := forwardPc s (fnOf s c.fn).part
    let s1 := c.saved.foldl (restoreCore f ft pc) s
    let s2 := c.slots.foldl (fun a (cl, k, e) =>
      modPool a cl fun p => { p with slots := tabPut k { e with pc := pc e.pc, run := (shiftRun f ft e.run).mapPc pc, t0 := ft e.t0 } p.slots }) s1
    let s3 := { s2 with
      units := s2.units.map fun (i, u) => (i, if us.contains i then
          { u with halted := false, saved := false, kpend := u.kpend.map fun p => { p with due := f p.due, iss := f p.iss }
                   own := u.own.map fun o => { o with from_ := f o.from_, until_ := o.until_.map f } } else u)
      launches := s2.launches.map fun (i, l) => (i, if l.gen = g then { l with capStart := f l.capStart } else l)
      cores := s2.cores.map fun (i, k) =>
        let (mine, rest) := k.elq.partition fun e => us.contains e.unit
        (i, { k with elq := rest ++ mine }) }
    let s4 := modCtx s3 g fun c => { c with halted := false, saved := [], slots := [], replays := [], returns := [], outstanding := [] }
    let s4b := { s4 with reqs := s4.reqs.map fun (i, q) => (i, if q.gen = g then { q with sent := f q.sent } else q) }
    let s5 := c.replays.foldl reissue s4b
    let s5b := (us.flatMap (unitGroups s5)).foldl waitReissued (c.returns.foldl (putReturn f) s5)
    let s6 := ((s5b.reqs.filter fun (_, q) => q.gen = g && !q.rest.isEmpty).map (·.1)).foldl restartTransfer s5b
    let s7 := ((s6.cmds.filter fun (_, x) => x.gen = g).map (·.1)).foldl restart s6
    let s8 := (us.flatMap (unitGroups s7)).foldl (fun a x => match x with | .warp k w => pumpRejoin a k w | .kindle .. => a) s7
    let s9 := (dedup (us.filterMap fun u => (unitOf s8 u).map (·.core))).foldl (fun a k => resumeCoreLehrs a g k) s8
    ((s9.launches.filter fun (_, l) => l.gen = g && l.status = 0 && l.fatal.any fun x => !x.stopped && x.cycle + 16 ≤ s.now).map (·.1)).foldl
      (fun a l => schedule a a.now .fatalStop (.of [l])) s9

/-- Contexts of a function that a halt holds. -/
def heldGens (s : State) (fn : Nat) : List Nat := (s.ctxs.filter fun (_, c) => c.fn = fn && c.halted).map (·.1)

/-- A VF that is placed has contexts to resume, no halt of it is under way, and their resources are free. -/
def resumeDue (s : State) (fn : Nat) : Bool :=
  (feOf s (fnOf s fn).part).vf == some fn && !(heldGens s fn).isEmpty && !(s.pfBusy.any fun b => b.1 != 0 && b.2 = fn) &&
  (heldGens s fn).all (ctxFits s)

def execContextResume (s : State) : Host.Outcome State Fault Refusal :=
  match s.subj with
  | .of [fn] => .next (if resumeDue s fn then (heldGens s fn).foldl resumeCtx s else s)
  | _ => .next s

end Sys2Proof.Machine
end

