-- ==== Sys2Proof/Machine/Crucible.lean ====
section
/-! DEFINITION. The Crucible's commands to and about virtual devices (R345-R348, R351-R354, Tables 12.7 and 12.8): tenant policies, keys,
reports, and SCHED, PAUSE, EVICT, RESUME and KILL. -/

namespace Sys2Proof.Machine

/-! ## Policy, keys, reports (R345, R347, R348, R353, R354) -/

/-- A VF enters a state: the PF and the VF are told (R351). -/
def setVf (s : State) (fn : Nat) (st : VfState) : State :=
  if (fnOf s fn).vf = st then s else noteEvent (noteEvent (modFn s fn fun f => { f with vf := st }) 0 4) fn 4

/-- DATA of a mailbox. -/
def mailData (s : State) (fn : Nat) : List Byte := (fnOf s fn).data.read 0x100 0xF00

/-- Bytes put at the start of DATA, as far as they fit. -/
def reply (s : State) (fn : Nat) (bytes : List Byte) : State :=
  modFn s fn fun f => { f with data := f.data.write 0x100 (bytes.take 0xF00) }

/-- The fields of a policy block, and the VF it binds (R345, log 9). -/
def readPolicy (bytes : List Byte) : Nat × Policy :=
  let w := Config.policyWord bytes
  (fld w 0 8, { contracts := BitVec.ofNat 16 (fld w 8 16), capt := bit w 24, rply := bit w 25, fabric := bit w 26, codeMove := bit w 27
                maxCtx := fld w 32 16, evict := bit w 28, maxBlob := fld w 64 64, key := fld w 128 64, block := bytes })

/-- A policy is submitted: accepted when its signature verifies and no other key is recorded for the VF (R345). -/
def submitPolicy (s : State) (fn : Nat) : State :=
  let bytes := mailData s fn
  let (vf, p) := readPolicy bytes
  let other := match (fnOf s fn).policy with
    | some q => q.key != p.key
    | none => false
  if !Config.sigOk p.key bytes then finishCmd s fn 2
  else if vf != fn then finishCmd s fn 4
  else if other then finishCmd s fn 1
  else
    let s1 := modFn s fn fun f => { f with policy := some p }
    finishCmd (if (fnOf s fn).vf = .idle then setVf s1 fn .ready else s1) fn 0

def execPolicy (s : State) : Host.Outcome State Fault Refusal := .next (vfCommand 0x01 s submitPolicy)

/-- Some bytes of a free value. -/
def freeBytes (n : Nat) (f : Nat → Byte) : List Byte := (List.range n).map f

/-- The part of an attestation report that is signed (R354): its first eight bytes are laid out as those of FNID, which hold the same fields
with a 1 in the place of the format: DEDUCED (log 103). -/
def attested (s : State) (fn eph : Nat) (nonce : List Byte) : List Byte :=
  bytesOf 8 (regWord s fn 0) ++ nonce ++ freeBytes 64 Config.firmwareByte ++ freeBytes 64 (Config.sha512 s.block) ++
  (match (fnOf s fn).policy with
    | some p => freeBytes 64 (Config.sha512 p.block)
    | none => List.replicate 64 0) ++
  freeBytes 16 Config.serialByte ++ freeBytes 132 (Config.publicByte eph)

/-- An attestation report, signed by the device identity key (R343, R354). -/
def attestation (s : State) (fn eph : Nat) (nonce : List Byte) : List Byte :=
  let signed := attested s fn eph nonce
  signed ++ freeBytes 132 (Config.signByte Config.identityKey signed)

/-- A report is written; it names a new ephemeral key, which one delivery may use (R347). -/
def attestTo (s : State) (fn : Nat) : State :=
  let (n, s1) := freshNat s
  finishCmd (modFn (reply s1 fn (attestation s1 fn n ((fnOf s fn).data.read 0x100 64))) fn fun f => { f with ephemeral := some n }) fn 0

def execAttest (s : State) : Host.Outcome State Fault Refusal :=
  match s.subj with
  | .of [fn] => .next (if cmdDue s fn (· == 0x02) then attestTo s fn else s)
  | _ => .next s

/-- The lowest key id that no other function, no context and no blob uses (R344). -/
def freeKey (s : State) (fn : Nat) : Option Nat :=
  let used := ((s.fns.filter fun (i, _) => i != fn).map fun (_, f) => f.keyid) ++ (s.ctxs.map fun (_, c) => c.keyid) ++
    s.blobs.flatMap fun b => b.ctxs.map fun (_, c) => c.keyid
  (List.range 256).find? fun k => k != 0 && !used.contains k

/-- Wrapped keys arrive (R347): they unwrap only under the ephemeral key of the last report, which no delivery has used yet; without one the
result is that of keys that do not unwrap: DESIGN CHOICE (log 103). -/
def deliverKeys (s : State) (fn : Nat) : State :=
  let bytes := mailData s fn
  if (fnOf s fn).vf = .idle then finishCmd s fn 3
  else match (fnOf s fn).ephemeral with
    | none => finishCmd s fn 2
    | some e =>
      if !Config.keysOk e bytes then finishCmd s fn 2
      else match freeKey s fn with
        | some k =>
          finishCmd (modFn { s with keys := tabPut k (Config.unwrapped 0 e bytes, Config.unwrapped 1 e bytes) s.keys } fn fun f =>
            { f with keyid := k, ephemeral := none }) fn 0
        | none => finishCmd s fn 3

def execKeys (s : State) : Host.Outcome State Fault Refusal := .next (vfCommand 0x03 s deliverKeys)

/-- OPEN names a handle in CMD [127:64] (log 31); what does not fit in DATA is not copied. -/
def openHandle (s : State) (fn : Nat) : State :=
  let h := mailArg s fn 8 8
  match s.reports.find? fun r => r.fn = fn && r.handle = h, s.blobs.find? fun b => b.fn = fn && b.handle = h with
  | some r, _ => finishCmd (reply s fn r.bytes) fn 0
  | none, some b => finishCmd (reply s fn ((List.range b.size).map fun i => Config.blobByte h i)) fn 0
  | none, none => finishCmd s fn 4

def execOpenCmd (s : State) : Host.Outcome State Fault Refusal := .next (vfCommand 0x04 s openHandle)

def execUnknownCommand (s : State) : Host.Outcome State Fault Refusal :=
  match s.subj with
  | .of [fn] => .next (if (fnOf s fn).busy && commandRow s fn == .unknownCommand then finishCmd s fn 4 else s)
  | _ => .next s

/-! ## Placing and pausing (R352) -/

/-- A VF takes its partition's front end: what was kept of it comes back, SEQ and event flags are the partition's. -/
def placeFn (s : State) (v : Nat) : State :=
  let p := (fnOf s v).part
  let kept := (fnOf s v).fe.getD FrontEnd.reset
  let s1 := modFe s p fun f => { kept with seq := f.seq, flags := f.flags, vf := some v }
  setVf (modFn s1 v fun f => { f with fe := none }) v .running

/-- A VF has halted: its front end is kept, and the partition's is free. -/
def finishPause (s : State) (u : Nat) : State :=
  let p := (fnOf s u).part
  let s1 := (fnGens s u).foldl saveCtx s
  let fe := feOf s1 p
  let s2 := modFn s1 u fun f => { f with fe := some { fe with vf := none } }
  setVf (modFe s2 p fun f => { FrontEnd.reset with seq := f.seq, flags := f.flags, nextPlace := f.nextPlace }) u .paused

/-- The VF that a command of the PF names, in CMD [15:8] (log 31). -/
def namedVf (s : State) : Nat := mailArg s 0 1 1

/-- A command that names a VF, which has a policy. -/
def vfNamed (act : State → Nat → State) (s : State) : State :=
  let v := namedVf s
  if v = 0 || 128 < v then finishCmd s 0 4
  else if (fnOf s v).vf = .idle then finishCmd s 0 3
  else act s v

/-- VF v runs next on its partition; the one that runs is paused first. -/
def scheduleVf (s : State) (v : Nat) : State :=
  match (feOf s (fnOf s v).part).vf with
  | some u =>
    if u = v then { s with pfBusy := s.pfBusy ++ [(0, v)] }
    else { haltFn s u with pfBusy := s.pfBusy ++ [(1, u), (0, v)] }
  | none => { placeFn s v with pfBusy := s.pfBusy ++ [(0, v)] }

def schedCmd (s : State) (v : Nat) : State := if (fnOf s v).vf = .evicted then finishCmd s 0 3 else scheduleVf s v

def execSched (s : State) : Host.Outcome State Fault Refusal := .next (pfCommand 0x10 s (vfNamed schedCmd))

def pauseCmd (s : State) (v : Nat) : State :=
  match (fnOf s v).vf with
  | .running => { haltFn s v with pfBusy := s.pfBusy ++ [(1, v)] }
  | .paused => finishCmd s 0 0
  | _ => finishCmd s 0 3

def execPause (s : State) : Host.Outcome State Fault Refusal := .next (pfCommand 0x11 s (vfNamed pauseCmd))

/-- Every unit of a context has stopped and nothing a halt waits for is under way. -/
def fnDrained (s : State) (fn : Nat) : Bool := (fnGens s fn).all (ctxDrained s)

/-- What the Crucible has to bring to an end next, if it can. -/
def pfReady (s : State) (b : Nat × Nat) : Bool :=
  if b.1 = 0 then (feOf s (fnOf s b.2).part).vf == some b.2 && (heldGens s b.2).isEmpty else fnDrained s b.2

/-- Entries that may end: halts in any order, a placement only as the first of its command. -/
def pfNext (s : State) : Option (Nat × Nat) :=
  let first := s.pfBusy.find? fun b => b.1 < 2
  s.pfBusy.find? fun b => pfReady s b && (b.1 = 2 || first = some b)

/-- One of them ends; with the last of a command, BUSY clears (R352). -/
def pfEnd (s : State) (b : Nat × Nat) : State :=
  let s1 := { s with pfBusy := s.pfBusy.erase b }
  let s2 := if b.1 = 2 then (fnGens s1 b.2).foldl saveCtx s1 else if b.1 = 1 then finishPause s1 b.2 else s1
  let s3 := match b.1, s2.pfBusy.find? fun x => x.1 < 2 with
    | 1, some (0, v) => placeFn s2 v
    | _, _ => s2
  if b.1 < 2 && !s3.pfBusy.any (fun x => x.1 < 2) then finishCmd s3 0 0 else s3

def execCrucibleCommandDone (s : State) : Host.Outcome State Fault Refusal :=
  .next (match pfNext s with
    | some b => pfEnd s b
    | none => s)

/-- Launches that replay a halt recorded for this cycle (R91). -/
def forcedHalts (s : State) : List Nat :=
  dedup ((s.launches.filter fun (i, l) => l.rply && l.status = 0 && l.fatal.isNone && !((ctxOf s l.gen).any (·.halted)) &&
    (recordedNow s i 0x09).isSome).map fun x => x.2.fn)

/-- They halt their VF, which resumes when the halt is over. -/
def forceHalts (s : State) : State := (forcedHalts s).foldl (fun a v => { haltFn a v with pfBusy := a.pfBusy ++ [(2, v)] }) s

/-! ## What a VF leaves behind (R352) -/

/-- Units of the contexts of a function. -/
def fnUnits (s : State) (fn : Nat) : List Nat := (fnGens s fn).flatMap (ctxUnits s)

/-- Packets of a function that were taken complete as cancelled. -/
def cancelTaken (s : State) (fn : Nat) : State :=
  (fnOf s fn).cqs.foldl (fun a (q, c) => c.taken.foldl (fun b (i, _) =>
    schedule (modCq b fn q fun c => { c with taken := tabMod i (fun p => { p with started := true, done := true, status := 2 }) c.taken })
      b.now .packetComplete (.of [fn, q, i])) a) s

/-- Nothing of some contexts is left in the machine but their memory. -/
def removeCtxs (s : State) (fn : Nat) (gens : List Nat) : State :=
  let us := gens.flatMap (ctxUnits s)
  let mine (g : Nat) : Bool := gens.contains g
  let cmds := (s.cmds.filter fun (_, c) => mine c.gen).map (·.1)
  let s1 := gens.foldl purgeTag s
  { s1 with
    units := s1.units.filter fun (u, _) => !us.contains u, launches := s1.launches.filter fun (_, l) => !mine l.gen
    reqs := s1.reqs.filter fun (_, q) => !mine q.gen, pageReqs := s1.pageReqs.filter fun (_, q) => !mine q.gen
    walks := s1.walks.filter fun (_, w) => !mine w.gen, fills := s1.fills.filter fun (_, f) => !mine f.gen
    cmds := s1.cmds.filter fun (_, c) => !mine c.gen, matOps := s1.matOps.filter fun (_, m) => !mine m.gen
    toStore := s1.toStore.filter fun h => !us.contains h.unit
    engines := s1.engines.map fun (i, e) => (i, { e with queue := e.queue.filter fun id => !cmds.contains id })
    comms := s1.comms.map fun (i, c) =>
      (i, { c with state := if c.setCmd.any cmds.contains then 3 else c.state, setCmd := c.setCmd.filter fun id => !cmds.contains id
                   own := c.own.map fun o => o.filter fun id => !cmds.contains id })
    cores := s1.cores.map fun (i, k) =>
      (i, { k with elq := k.elq.filter fun e => !us.contains e.unit, leaseQ := k.leaseQ.filter fun e => !us.contains e.unit
                   firstUse := k.firstUse.filter fun f => !mine f.gen })
    ctxs := s1.ctxs.filter fun (g, _) => !mine g
    fns := tabMod fn (fun f => { f with ctx := f.ctx.map fun (i, w) => if i % 8 = 0 then (i, BitVec.ofNat 64 (ctxFields w.toNat)) else (i, w) })
      s1.fns }

/-! ## KILL (R352) -/

/-- A page of a context's address space reads zero. -/
def zeroPage (s : State) (gen va : Nat) : State :=
  match (walk s gen va).1 with
  | .hit x =>
    match xlPlace s x va with
    | .dev pa =>
      let a := storageOf s pa
      { s with mem := s.mem.clear a 65536, memKeys := dropKeys s.memKeys a 65536
               memPoison := s.memPoison.filter fun k => !(a ≤ 32 * k && 32 * k < a + 65536) }
    | _ => s
  | .miss _ => s

/-- The save area of a context reads zero. -/
def zeroArea (s : State) (gen : Nat) : State :=
  let base := ((ctxOf s gen).map (·.saveb)).getD 0
  (List.range (saveBytes / 65536)).foldl (fun a i => zeroPage a gen (base + 65536 * i)) s

/-- The store, the granules and the planes that some units hold on a core read zero. -/
def zeroCore (s : State) (us : List Nat) (core : Nat) : State :=
  let phys := (unitsOn s core).flatMap fun (u, x) => if us.contains u then x.gmap.map (·.2) else []
  let s1 := phys.foldl (fun a p => zeroGranule a core p) (clearCore s core (us.filter fun u => (unitOf s u).any fun x => !x.saved))
  if ((coreOf s core).lease).any us.contains then setPlanes s1 core Plane.reset Plane.reset none else s1

/-- A launch is discarded: its graph or phase loses a member. -/
def killLaunch (s : State) (l : Nat) : State :=
  match launchOf s l with
  | none => s
  | some x => if x.status != 0 then s else memberDone 4 (rememberEnd (modLaunch s l fun y => { y with status := 2 }) x.fn x.handle 2) x.fn x.owner 2

/-- Everything of a VF is discarded; the VF is told while its ring can still be reached. -/
def discard (s : State) (v : Nat) : State :=
  let gens := fnGens s v
  let us := fnUnits s v
  let p := (fnOf s v).part
  let s1 := ((s.launches.filter fun (_, l) => gens.contains l.gen).map (·.1)).foldl killLaunch (setVf s v .ready)
  let s2 := (dedup (us.filterMap fun u => (unitOf s u).map (·.core))).foldl (fun a c => zeroCore a us c) s1
  let s3 := { s2 with pools := s2.pools.map fun (cl, q) => (cl, { q with slots := q.slots.filter fun (_, e) => !us.contains e.unit }) }
  let s4 := cancelTaken (removeCtxs (gens.foldl zeroArea s3) v gens) v
  let s5 := (dedup (us.filterMap fun u => (unitOf s u).map fun x => clusterOf x.core)).foldl unfuse s4
  let s6 := if (feOf s5 p).vf = some v then
      modFe s5 p fun f => { FrontEnd.reset with seq := f.seq, flags := f.flags, nextPlace := f.nextPlace }
    else s5
  { modFn s6 v fun f => { f with fe := none } with pfBusy := s6.pfBusy.filter fun b => b.2 != v }

def killCmd (s : State) (v : Nat) : State := finishCmd (discard s v) 0 0

def execKill (s : State) : Host.Outcome State Fault Refusal := .next (pfCommand 0x14 s (vfNamed killCmd))

/-! ## EVICT (R352) -/

/-- Every granule and plane that a context holds on a core goes to its save area (R88, R308). -/
def spillCore (gen : Nat) (s : State) (core : Nat) : State :=
  let a := spillGranules ⟨s, 0, []⟩ core gen
  let m := match (coreOf s core).lease with
    | some u =>
      if unitGen s u = gen then
        let b := spillPlanes a core gen u
        { b with s := setPlanes b.s core Plane.reset Plane.reset none }
      else a
    | none => a
  m.bad.foldl (haltForImages core) m.s

/-- The rings of a function as a context reads them (R67). -/
def ringsOf (s : State) (fn gen : Nat) : List (Nat × Nat × List Byte) :=
  (List.range 16).filterMap fun h =>
    if hqdWord s fn h 0 % 32 < 6 then none
    else match vread s gen (ringBase s fn h) (32 * ringSize s fn h) with
      | .ok b => some (gen, ringBase s fn h, b)
      | .error _ => none

/-- What the blob of a VF holds (R83, R352). -/
def blobOf (s : State) (v handle addr : Nat) : Blob :=
  let gens := fnGens s v
  let us := fnUnits s v
  { handle := handle, fn := v, addr := addr, size := Config.blobSize handle
    ctxs := s.ctxs.filter fun (g, _) => gens.contains g, units := s.units.filter fun (u, _) => us.contains u
    launches := s.launches.filter fun (_, l) => gens.contains l.gen, insts := s.insts.filter fun i => i.fn = v
    cmds := s.cmds.filter fun (_, c) => gens.contains c.gen, matOps := s.matOps.filter fun (_, m) => gens.contains m.gen
    pageReqs := s.pageReqs.filter fun (_, q) => gens.contains q.gen, reqs := s.reqs.filter fun (_, q) => gens.contains q.gen
    elq := s.cores.flatMap fun (c, k) => (k.elq.filter fun e => us.contains e.unit).map fun e => (c, e)
    fe := ((fnOf s v).fe).getD FrontEnd.reset, areas := gens.flatMap (ringsOf s v) }

/-- The sealed bytes of a blob. -/
def blobBytes (s : State) (b : Blob) : List Byte := sealBytes 4 (saveKey s (fnOf s b.fn).keyid) b.handle 0 b.size

/-- A paused VF leaves the module. -/
def evictVf (s : State) (v : Nat) : State :=
  let gens := fnGens s v
  let (h, s0) := freshNat s
  let s1 := gens.foldl (fun a g =>
    (dedup ((ctxUnits a g).filterMap fun u => (unitOf a u).map (·.core))).foldl (spillCore g) a) s0
  let b := blobOf s1 v h (mailArg s 0 8 8)
  let s2 := if s1.linkUp then writePlace s1 (.host noPasid b.addr) (blobBytes s1 b) else s1
  let s3 := setVf { s2 with blobs := s2.blobs ++ [b] } v .evicted
  reply (modFn (removeCtxs s3 v gens) v fun f => { f with fe := none }) 0 (bytesOf 8 h)

def evictCmd (s : State) (v : Nat) : State :=
  let allowed := match (fnOf s v).policy with
    | some p => p.evict && decide (Config.blobSize s.fresh ≤ p.maxBlob)
    | none => false
  if (fnOf s v).vf != .paused then finishCmd s 0 3
  else if !allowed then finishCmd s 0 1
  else finishCmd (evictVf s v) 0 0

def execEvict (s : State) : Host.Outcome State Fault Refusal := .next (pfCommand 0x12 s (vfNamed evictCmd))

/-! ## RESUME (R352) -/

/-- Tags for the contexts of a blob: their own where it is free, else the lowest free one. -/
def newTags (s : State) (gens : List Nat) : List (Nat × Nat) :=
  gens.foldl (fun acc g =>
    let free (t : Nat) : Bool := (ctxOf s t).isNone && !acc.any fun x => x.2 = t
    match (g :: (List.range 256).filter fun t => !gens.contains t || t = g).find? free with
    | some t => acc ++ [(g, t)]
    | none => acc) []

/-- The new tag of a context. -/
def tagOf (tags : List (Nat × Nat)) (g : Nat) : Nat := ((tags.find? fun x => x.1 = g).map (·.2)).getD g

/-- Images and planes of a restored context are sealed anew in its save area. -/
def resealCtx (s : State) (g : Nat) : State :=
  match ctxOf s g with
  | none => s
  | some c =>
    let s1 := c.images.foldl (fun a (k, _, _, m) =>
      (saveBlock a g (imageOff (k / 64) (k % 64)) (imageTag (k / 64) (k % 64)) (natOf (m.read 0 4096))).1) s
    c.planes.foldl (fun a (core, x, y, u) => (List.range 9).foldl (fun b n =>
      (saveBlock b g (planeOff core n) (planeTag core n) (planeBlock x y u n)).1) a) s1

/-- Entries of a blob's tables come back. -/
def putAll {α : Type} (l : Tab α) (f : α → α) (t : Tab α) : Tab α := l.foldl (fun a (k, v) => tabPut k (f v) a) t

/-- What a blob holds is back in the machine, its contexts halted. -/
def restoreBlob (s : State) (b : Blob) (tags : List (Nat × Nat)) : State :=
  let tag := tagOf tags
  let keyid := (fnOf s b.fn).keyid
  let s1 := { s with
    ctxs := b.ctxs.foldl (fun t (g, c) =>
      tabPut (tag g) { c with
        keyid := keyid, replays := c.replays.map (fun q => { q with gen := tag q.gen })
        returns := c.returns.map (fun q => { q with gen := tag q.gen }), outstanding := [] } t) s.ctxs
    units := putAll b.units id s.units, launches := putAll b.launches (fun l => { l with gen := tag l.gen }) s.launches
    insts := if (fnOf s b.fn).vf = .ready then (s.insts.filter fun i => i.fn != b.fn) ++ b.insts else s.insts
    cmds := putAll b.cmds (fun c => { c with gen := tag c.gen }) s.cmds
    matOps := putAll b.matOps (fun m => { m with gen := tag m.gen }) s.matOps
    pageReqs := putAll b.pageReqs (fun q => { q with gen := tag q.gen }) s.pageReqs
    reqs := putAll b.reqs (fun q => { q with gen := tag q.gen }) s.reqs }
  let s2 := (b.cmds.filter fun (_, c) => c.phase = 0 || c.phase = 6).foldl (fun a (i, c) =>
    modEngine a c.engine fun e => { e with queue := e.queue ++ [i] }) s1
  let s3 := b.elq.foldl (fun a (c, e) => modCore a c fun k => { k with elq := k.elq ++ [e] }) s2
  let s4 := modFn s3 b.fn fun f =>
    { f with fe := some b.fe
             cqs := f.cqs.map fun (i, c) => (i, { c with taken := c.taken.map fun (j, p) => (j, { p with gen := p.gen.map tag }) })
             ctx := b.ctxs.foldl (fun t (g, c) =>
               let w := 2 ^ 63 + tag g * 2 ^ 48 + keyid * 2 ^ 40 + c.hord * 2 ^ 38 + c.pasid
               tabPut (8 * c.entry) (BitVec.ofNat 64 w) (tabPut (8 * c.entry + 1) (BitVec.ofNat 64 c.ptroot)
                 (tabPut (8 * c.entry + 2) (BitVec.ofNat 64 c.slim) (tabPut (8 * c.entry + 3) (BitVec.ofNat 64 c.saveb) t)))) f.ctx }
  let s5 := b.areas.foldl (fun a (g, va, bytes) =>
    match vwrite a (tag g) va bytes with
    | .ok t => t
    | .error _ => a) s4
  (b.ctxs.map fun x => tag x.1).foldl resealCtx s5

/-- RESUME names a host address in CMD [127:64] and a handle in [191:128] (log 31); the tags are verified before any state changes. -/
def resumeCmd (s : State) (v : Nat) : State :=
  let addr := mailArg s 0 8 8
  if !((fnOf s v).vf == .ready || (fnOf s v).vf == .evicted) || !(fnGens s v).isEmpty then finishCmd s 0 3
  else
  match s.blobs.find? fun b => b.fn = v && b.handle = mailArg s 0 16 8 with
  | none => finishCmd s 0 4
  | some b =>
    let tags := newTags s (b.ctxs.map (·.1))
    if !s.linkUp || readPlace s (.host noPasid addr) b.size != blobBytes s b then finishCmd s 0 2
    else if tags.length < b.ctxs.length then finishCmd s 0 3
    else scheduleVf (restoreBlob s b tags) v

def execResume (s : State) : Host.Outcome State Fault Refusal := .next (pfCommand 0x13 s (vfNamed resumeCmd))

end Sys2Proof.Machine
end

