-- ==== Sys2Proof/Machine/SpecialReg.lean ====
section
/-! DEFINITION. `rdsr`, `wrsr` and `mode` (R225-R227) over the special registers of Table 7.5 (R188, R189). -/

namespace Sys2Proof.Machine

/-- The warp of a group, if it still holds its slot. -/
def homeWarp (s : State) (v : View) : Option Warp := (warpOf s v.core v.wslot).filter fun w => w.serial = v.serial

/-- SPEC with the count of held stores (Table 2.5). -/
def specWord (w : Warp) : Word :=
  if bit w.specSr.toNat 31 then w.specSr + BitVec.ofNat 32 (((w.spec.map (·.held.length)).getD 0) * 2 ^ 16) else w.specSr

/-- WBASE: an ejected thread reads that of its block (R189). -/
def wbaseOf (s : State) (v : View) : Nat :=
  match v.gid with
  | .warp .. => 16 * v.page
  | .kindle cl k =>
    match ejOf s cl k with
    | some e => (e.stackAddr - 128 * (unitFrame s v.unit).regs) / 128
    | none => 0

/-- A special register as a lane reads it (Table 7.5). -/
def readSr (s : State) (v : View) (n lane : Nat) : Word :=
  let f := unitFrame s v.unit
  let u := unitOf s v.unit
  let lid := (u.map (·.lid)).getD 0
  let t := thrOf s v.gid lane
  let lthr := (t.map (·.lthr)).getD 0
  let w := homeWarp s v
  let nat (k : Nat) : Word := BitVec.ofNat 32 k
  match n with
  | 0 => nat lane
  | 1 => nat v.wslot
  | 2 => nat (lid % f.gdx)
  | 3 => nat (lid / f.gdx % f.gdy)
  | 4 => nat (lid / f.gdx / f.gdy)
  | 5 => nat (lthr % f.utx)
  | 6 => nat (lthr / f.utx % f.uty)
  | 7 => nat (lthr / f.utx / f.uty)
  | 8 => nat (v.core % 24)
  | 9 => nat (clusterOf v.core)
  | 10 => nat ((u.map (·.lcore)).getD 0)
  | 11 => ((unitLaunch s v.unit).map (·.handle)).getD 0
  | 12 => nat ((u.map (·.contract)).getD 3)
  | 13 => nat ((t.map (·.rm.toNat)).getD 0)
  | 14 => nat ((t.map (·.flags.toNat)).getD 0)
  | 15 => nat (s.now % 2 ^ 32)
  | 16 => nat (s.now / 2 ^ 32)
  | 17 => reftick s
  | 18 => nat ((w.map (·.ejt)).getD 0)
  | 19 => (w.map (·.rjw)).getD 0
  | 20 => match (coreOf s v.core).accown with
    | some o => nat (2 ^ 31 + o)
    | none => 0
  | 21 => nat (unitGen s v.unit)
  | 22 => nat ((t.map (·.tmask.toNat)).getD 0)
  | 23 => (t.map (·.cause)).getD 0
  | 24 => nat (((t.map (·.ret.toNat)).getD 0) % 2 ^ 32)
  | 25 => (w.map (·.stallw)).getD 0
  | 26 => (w.map specWord).getD 0
  | 27 => nat ((u.map (·.binage)).getD 256)
  | 28 => nat ((u.map fun x => if x.scrPages = 0 then 0 else 2048 * x.scrPage).getD 0)
  | 29 => nat Config.ejlim
  | 30 => nat (((t.map (·.faddr.toNat)).getD 0) % 2 ^ 32)
  | 31 => (t.map (·.aux)).getD 0
  | 48 => nat lid
  | 49 => nat lthr
  | 50 => nat f.gdx
  | 51 => nat f.gdy
  | 52 => nat f.gdz
  | 53 => nat (wbaseOf s v)
  | 54 => nat (unitPart s v.unit)
  | 55 => maskOf (vlanes s v)
  | 56 => maskOf v.act
  | k => if 32 ≤ k ∧ k ≤ 47 then capcon (k - 32) else 0

def execRdsr (r : BitVec 6) (d : BitVec 7) (sw : BitVec 1) (s : State) : Host.Outcome State Fault Refusal :=
  issue (.rdsr r d sw) s noTrap (plain fun s v => writeLanes s v Config.latInt d.toNat fun l => readSr s v r.toNat l)

/-- Registers each thread holds its own of. -/
def threadHeld (n : Nat) : Bool := n == 13 || n == 14 || n == 22 || n == 24

def execWrsr (r : BitVec 6) (a : BitVec 7) (sw : BitVec 1) (s : State) : Host.Outcome State Fault Refusal :=
  issue (.wrsr r a sw) s noTrap (plain fun s v =>
    pendWrites s v.gid Config.latInt
      ((if threadHeld r.toNat then v.act else v.act.take 1).map fun l => .sr r.toNat l (readX s v l a.toNat)))

/-- A write of MODE still to take effect in a lane. -/
def pendsMode (lanes : List Nat) (p : Pend) : Bool :=
  match p.w with
  | .sr 13 l _ => lanes.contains l
  | _ => false

def execMode (m : BitVec 2) (sw : BitVec 1) (s : State) : Host.Outcome State Fault Refusal :=
  issue (.mode m sw) s noTrap (plain fun s v =>
    let s1 := modRun s v.gid fun r => { r with pend := r.pend.filter fun p => !pendsMode v.act p || decide (p.due ≤ s.now) }
    v.act.foldl (fun a l => modThr a v.gid l fun t => { t with rm := m }) s1)

end Sys2Proof.Machine
end

