-- ==== Sys2Proof/Machine/Uniform.lean ====
section
/-! DEFINITION. Uniform instructions (R232-R235). -/

namespace Sys2Proof.Machine

/-- The second operand: a register, or an immediate under MOD 1 (R233). -/
def kOperand (s : State) (v : View) (imm : BitVec 1) (b : BitVec 6) : DWord :=
  if imm = 1 then BitVec.ofNat 64 b.toNat else readK s v.unit b.toNat

/-- A uniform result (R232). -/
def writeK (s : State) (v : View) (d : BitVec 6) (x : DWord) : State := pendK s v (kLat v) d.toNat x

def execKadd (i : BitVec 1) (b a d : BitVec 6) (sw : BitVec 1) (s : State) : Host.Outcome State Fault Refusal :=
  issue (.kadd i b a d sw) s noTrap (plain fun s v => writeK s v d (readK s v.unit a.toNat + kOperand s v i b))

def execKsub (i : BitVec 1) (b a d : BitVec 6) (sw : BitVec 1) (s : State) : Host.Outcome State Fault Refusal :=
  issue (.ksub i b a d sw) s noTrap (plain fun s v => writeK s v d (readK s v.unit a.toNat - kOperand s v i b))

def execKmov (a d : BitVec 6) (sw : BitVec 1) (s : State) : Host.Outcome State Fault Refusal :=
  issue (.kmov a d sw) s noTrap (plain fun s v => writeK s v d (readK s v.unit a.toNat))

def execKmovImm (i d : BitVec 6) (sw : BitVec 1) (s : State) : Host.Outcome State Fault Refusal :=
  issue (.kmovImm i d sw) s noTrap (plain fun s v => writeK s v d (BitVec.ofNat 64 i.toNat))

def execKshl (i : BitVec 1) (b a d : BitVec 6) (sw : BitVec 1) (s : State) : Host.Outcome State Fault Refusal :=
  issue (.kshl i b a d sw) s noTrap (plain fun s v =>
    writeK s v d (readK s v.unit a.toNat <<< ((kOperand s v i b).toNat % 64)))

def execKand (i : BitVec 1) (b a d : BitVec 6) (sw : BitVec 1) (s : State) : Host.Outcome State Fault Refusal :=
  issue (.kand i b a d sw) s noTrap (plain fun s v => writeK s v d (readK s v.unit a.toNat &&& kOperand s v i b))

def execKor (i : BitVec 1) (b a d : BitVec 6) (sw : BitVec 1) (s : State) : Host.Outcome State Fault Refusal :=
  issue (.kor i b a d sw) s noTrap (plain fun s v => writeK s v d (readK s v.unit a.toNat ||| kOperand s v i b))

/-- The condition of `kcmp` (Table 8.4): 0 eq, 1 ne, 2 lt, 3 le, 4 ltn, 5 len. -/
def kCond (c : Nat) (x y : DWord) : Bool :=
  match c with
  | 0 => x == y
  | 1 => x != y
  | 2 => x.slt y
  | 3 => x.sle y
  | 4 => x.ult y
  | _ => x.ule y

def execKcmp (c : BitVec 3) (b a d : BitVec 6) (sw : BitVec 1) (s : State) : Host.Outcome State Fault Refusal :=
  issue (.kcmp c b a d sw) s noTrap (plain fun s v =>
    writeK s v d (if kCond c.toNat (readK s v.unit a.toNat) (readK s v.unit b.toNat) then 1 else 0))

/-- The stored word of a lane that `kld` reads (R234): an ejected thread's own, or the word its home block keeps of another
lane. -/
def storedWord (s : State) (v : View) (x lane : Nat) : Word :=
  match v.gid with
  | .warp .. => readX s v lane x
  | .kindle cl k =>
    match ejOf s cl k with
    | some e =>
      if e.lane = lane then readX s v lane x
      else if 120 ≤ x then 0
      else (coreOf s v.core).store.word (e.stackAddr - 128 * (unitFrame s v.unit).regs - 4 * e.lane + 128 * x + 4 * lane)
    | none => 0

/-- `kld` from a lane, with POISON of the word it selects (R430). -/
def loadLaneWord (k : BitVec 6) (x lane : Nat) (s : State) (v : View) : Did :=
  match poisoned s v [(x, 1)] [lane] with
  | (l, a) :: _ => .trap (precise v cPoison (maskOf [l]).toNat a)
  | [] => .done (writeK s v k (BitVec.ofNat 64 (storedWord s v x lane).toNat)) .next 0

def execKld (k : BitVec 6) (x : BitVec 7) (sw : BitVec 1) (s : State) : Host.Outcome State Fault Refusal :=
  issue (.kld k x sw) s noTrap (loadLaneWord k x.toNat 0)

def execKldLane (n : BitVec 5) (k : BitVec 6) (x : BitVec 7) (sw : BitVec 1) (s : State) : Host.Outcome State Fault Refusal :=
  issue (.kldLane n k x sw) s noTrap (loadLaneWord k x.toNat n.toNat)

def execMovk (k : BitVec 6) (x : BitVec 7) (sw : BitVec 1) (s : State) : Host.Outcome State Fault Refusal :=
  issue (.movk k x sw) s noTrap (plain fun s v =>
    writeLanes s v (kLat v) x.toNat fun _ => BitVec.ofNat 32 (readK s v.unit k.toNat).toNat)

def execMovkH (k : BitVec 6) (x : BitVec 7) (sw : BitVec 1) (s : State) : Host.Outcome State Fault Refusal :=
  issue (.movkH k x sw) s noTrap (plain fun s v =>
    writeLanes s v (kLat v) x.toNat fun _ => BitVec.ofNat 32 ((readK s v.unit k.toNat).toNat / 2 ^ 32))

/-- Bits [16 sh + 15:16 sh] of a word replaced. -/
def insert16 (old : DWord) (sh : Nat) (imm : BitVec 16) : DWord :=
  BitVec.ofNat 64 (old.toNat - fld old.toNat (16 * sh) 16 * 2 ^ (16 * sh) + imm.toNat * 2 ^ (16 * sh))

def execKli (i : BitVec 16) (h : BitVec 2) (d : BitVec 6) (sw : BitVec 1) (s : State) : Host.Outcome State Fault Refusal :=
  issue (.kli i h d sw) s noTrap (plain fun s v => writeK s v d (insert16 (readK s v.unit d.toNat) h.toNat i))

end Sys2Proof.Machine
end

