-- ==== Sys2Proof/Machine/Dispatch.lean ====
section
/-! DEFINITION. The one match from instructions to their meanings. -/

namespace Sys2Proof.Machine

def exec (i : Instr) (s : State) : Host.Outcome State Fault Refusal :=
  match i with
  | .mov sw d => Sys2Proof.Machine.execMov sw d s
  | .li5 imm d => Sys2Proof.Machine.execLi5 imm d s
  | .add16 sw d => Sys2Proof.Machine.execAdd16 sw d s
  | .sub16 sw d => Sys2Proof.Machine.execSub16 sw d s
  | .mul16 sw d => Sys2Proof.Machine.execMul16 sw d s
  | .and16 sw d => Sys2Proof.Machine.execAnd16 sw d s
  | .or16 sw d => Sys2Proof.Machine.execOr16 sw d s
  | .xor16 sw d => Sys2Proof.Machine.execXor16 sw d s
  | .shl16 n d => Sys2Proof.Machine.execShl16 n d s
  | .srl16 n d => Sys2Proof.Machine.execSrl16 n d s
  | .sra16 n d => Sys2Proof.Machine.execSra16 n d s
  | .fadd16 sw d => Sys2Proof.Machine.execFadd16 sw d s
  | .fsub16 sw d => Sys2Proof.Machine.execFsub16 sw d s
  | .fmul16 sw d => Sys2Proof.Machine.execFmul16 sw d s
  | .fmax16 sw d => Sys2Proof.Machine.execFmax16 sw d s
  | .fmin16 sw d => Sys2Proof.Machine.execFmin16 sw d s
  | .nop n sw => Sys2Proof.Machine.execNop n sw s
  | .exit => Sys2Proof.Machine.execExit s
  | .yield => Sys2Proof.Machine.execYield s
  | .ret => Sys2Proof.Machine.execRet s
  | .trl m sw => Sys2Proof.Machine.execTrl m sw s
  | .rjn t => Sys2Proof.Machine.execRjn t s
  | .brk c => Sys2Proof.Machine.execBrk c s
  | .halt => Sys2Proof.Machine.execHalt s
  | .br o => Sys2Proof.Machine.execBr o s
  | .brp o t p => Sys2Proof.Machine.execBrp o t p s
  | .brpF o t p => Sys2Proof.Machine.execBrpF o t p s
  | .call o => Sys2Proof.Machine.execCall o s
  | .brx a => Sys2Proof.Machine.execBrx a s
  | .callx a => Sys2Proof.Machine.execCallx a s
  | .rfm o l => Sys2Proof.Machine.execRfm o l s
  | .waitAny b a d => Sys2Proof.Machine.execWaitAny b a d s
  | .waitAll b a d => Sys2Proof.Machine.execWaitAll b a d s
  | .barArv c b sw => Sys2Proof.Machine.execBarArv c b sw s
  | .barWt c b => Sys2Proof.Machine.execBarWt c b s
  | .barSyn c b => Sys2Proof.Machine.execBarSyn c b s
  | .gbar => Sys2Proof.Machine.execGbar s
  | .spawn a sw => Sys2Proof.Machine.execSpawn a sw s
  | .jdec a sw => Sys2Proof.Machine.execJdec a sw s
  | .cancel a sw => Sys2Proof.Machine.execCancel a sw s
  | .rdsr r d sw => Sys2Proof.Machine.execRdsr r d sw s
  | .wrsr r a sw => Sys2Proof.Machine.execWrsr r a sw s
  | .mode m sw => Sys2Proof.Machine.execMode m sw s
  | .trap c => Sys2Proof.Machine.execTrap c s
  | .tret => Sys2Proof.Machine.execTret s
  | .kadd imm b a d sw => Sys2Proof.Machine.execKadd imm b a d sw s
  | .ksub imm b a d sw => Sys2Proof.Machine.execKsub imm b a d sw s
  | .kmov a d sw => Sys2Proof.Machine.execKmov a d sw s
  | .kmovImm imm d sw => Sys2Proof.Machine.execKmovImm imm d sw s
  | .kshl imm b a d sw => Sys2Proof.Machine.execKshl imm b a d sw s
  | .kand imm b a d sw => Sys2Proof.Machine.execKand imm b a d sw s
  | .kor imm b a d sw => Sys2Proof.Machine.execKor imm b a d sw s
  | .kcmp c b a d sw => Sys2Proof.Machine.execKcmp c b a d sw s
  | .kld k x sw => Sys2Proof.Machine.execKld k x sw s
  | .kldLane n k x sw => Sys2Proof.Machine.execKldLane n k x sw s
  | .movk k x sw => Sys2Proof.Machine.execMovk k x sw s
  | .movkH k x sw => Sys2Proof.Machine.execMovkH k x sw s
  | .kli imm h d sw => Sys2Proof.Machine.execKli imm h d sw s
  | .add b a d sw => Sys2Proof.Machine.execAdd b a d sw s
  | .sub b a d sw => Sys2Proof.Machine.execSub b a d sw s
  | .and b a d sw => Sys2Proof.Machine.execAnd b a d sw s
  | .or b a d sw => Sys2Proof.Machine.execOr b a d sw s
  | .xor b a d sw => Sys2Proof.Machine.execXor b a d sw s
  | .andn b a d sw => Sys2Proof.Machine.execAndn b a d sw s
  | .min b a d sw => Sys2Proof.Machine.execMin b a d sw s
  | .max b a d sw => Sys2Proof.Machine.execMax b a d sw s
  | .shl b a d sw => Sys2Proof.Machine.execShl b a d sw s
  | .srl b a d sw => Sys2Proof.Machine.execSrl b a d sw s
  | .sra b a d sw => Sys2Proof.Machine.execSra b a d sw s
  | .rol b a d sw => Sys2Proof.Machine.execRol b a d sw s
  | .mul b a d sw => Sys2Proof.Machine.execMul b a d sw s
  | .mulh b a d sw => Sys2Proof.Machine.execMulh b a d sw s
  | .mulhn b a d sw => Sys2Proof.Machine.execMulhn b a d sw s
  | .abs a d sw => Sys2Proof.Machine.execAbs a d sw s
  | .addi imm a d sw => Sys2Proof.Machine.execAddi imm a d sw s
  | .andi imm a d sw => Sys2Proof.Machine.execAndi imm a d sw s
  | .ori imm a d sw => Sys2Proof.Machine.execOri imm a d sw s
  | .xori imm a d sw => Sys2Proof.Machine.execXori imm a d sw s
  | .shli n a d sw => Sys2Proof.Machine.execShli n a d sw s
  | .srli n a d sw => Sys2Proof.Machine.execSrli n a d sw s
  | .srai n a d sw => Sys2Proof.Machine.execSrai n a d sw s
  | .li imm d sw => Sys2Proof.Machine.execLi imm d sw s
  | .lih imm d sw => Sys2Proof.Machine.execLih imm d sw s
  | .icmpEq b a p sw => Sys2Proof.Machine.execIcmpEq b a p sw s
  | .icmpNe b a p sw => Sys2Proof.Machine.execIcmpNe b a p sw s
  | .icmpLt b a p sw => Sys2Proof.Machine.execIcmpLt b a p sw s
  | .icmpLe b a p sw => Sys2Proof.Machine.execIcmpLe b a p sw s
  | .icmpLtn b a p sw => Sys2Proof.Machine.execIcmpLtn b a p sw s
  | .icmpLen b a p sw => Sys2Proof.Machine.execIcmpLen b a p sw s
  | .sel q a d sw => Sys2Proof.Machine.execSel q a d sw s
  | .pand b a d sw => Sys2Proof.Machine.execPand b a d sw s
  | .por b a d sw => Sys2Proof.Machine.execPor b a d sw s
  | .pxor b a d sw => Sys2Proof.Machine.execPxor b a d sw s
  | .pnot a d sw => Sys2Proof.Machine.execPnot a d sw s
  | .pmov a d sw => Sys2Proof.Machine.execPmov a d sw s
  | .clz a d sw => Sys2Proof.Machine.execClz a d sw s
  | .popc a d sw => Sys2Proof.Machine.execPopc a d sw s
  | .brev a d sw => Sys2Proof.Machine.execBrev a d sw s
  | .bfe b a d sw => Sys2Proof.Machine.execBfe b a d sw s
  | .bfi b a d sw => Sys2Proof.Machine.execBfi b a d sw s
  | .lea b a d sw => Sys2Proof.Machine.execLea b a d sw s
  | .fadd b a d sw => Sys2Proof.Machine.execFadd b a d sw s
  | .fsub b a d sw => Sys2Proof.Machine.execFsub b a d sw s
  | .fmul b a d sw => Sys2Proof.Machine.execFmul b a d sw s
  | .fmin b a d sw => Sys2Proof.Machine.execFmin b a d sw s
  | .fmax b a d sw => Sys2Proof.Machine.execFmax b a d sw s
  | .fabs a d sw => Sys2Proof.Machine.execFabs a d sw s
  | .fneg a d sw => Sys2Proof.Machine.execFneg a d sw s
  | .fcmp b a c p sw => Sys2Proof.Machine.execFcmp b a c p sw s
  | .ffma b a d sw => Sys2Proof.Machine.execFfma b a d sw s
  | .ffms b a d sw => Sys2Proof.Machine.execFfms b a d sw s
  | .fnma b a d sw => Sys2Proof.Machine.execFnma b a d sw s
  | .hadd2 b a d sw => Sys2Proof.Machine.execHadd2 b a d sw s
  | .hmul2 b a d sw => Sys2Proof.Machine.execHmul2 b a d sw s
  | .hfma2 b a d sw => Sys2Proof.Machine.execHfma2 b a d sw s
  | .badd2 b a d sw => Sys2Proof.Machine.execBadd2 b a d sw s
  | .bmul2 b a d sw => Sys2Proof.Machine.execBmul2 b a d sw s
  | .bfma2 b a d sw => Sys2Proof.Machine.execBfma2 b a d sw s
  | .cvt t u o a d sw => Sys2Proof.Machine.execCvt t u o a d sw s
  | .exp2 a d sw => Sys2Proof.Machine.execExp2 a d sw s
  | .log2 a d sw => Sys2Proof.Machine.execLog2 a d sw s
  | .rcp a d sw => Sys2Proof.Machine.execRcp a d sw s
  | .rsqrt a d sw => Sys2Proof.Machine.execRsqrt a d sw s
  | .sqrt a d sw => Sys2Proof.Machine.execSqrt a d sw s
  | .tanh a d sw => Sys2Proof.Machine.execTanh a d sw s
  | .lgs a d sw => Sys2Proof.Machine.execLgs a d sw s
  | .gactLgs b a d sw => Sys2Proof.Machine.execGactLgs b a d sw s
  | .gactTanh b a d sw => Sys2Proof.Machine.execGactTanh b a d sw s
  | .gactAlgs b a d sw => Sys2Proof.Machine.execGactAlgs b a d sw s
  | .frnd r a d sw => Sys2Proof.Machine.execFrnd r a d sw s
  | .fcls a d sw => Sys2Proof.Machine.execFcls a d sw s
  | .fexp a d sw => Sys2Proof.Machine.execFexp a d sw s
  | .fscl b a d sw => Sys2Proof.Machine.execFscl b a d sw s
  | .shflIdx b a d sw => Sys2Proof.Machine.execShflIdx b a d sw s
  | .shflUp b a d sw => Sys2Proof.Machine.execShflUp b a d sw s
  | .shflDown b a d sw => Sys2Proof.Machine.execShflDown b a d sw s
  | .shflXor b a d sw => Sys2Proof.Machine.execShflXor b a d sw s
  | .voteAny p d sw => Sys2Proof.Machine.execVoteAny p d sw s
  | .voteAll p d sw => Sys2Proof.Machine.execVoteAll p d sw s
  | .voteBal p d sw => Sys2Proof.Machine.execVoteBal p d sw s
  | .voteCnt p d sw => Sys2Proof.Machine.execVoteCnt p d sw s
  | .voteMatch a d sw => Sys2Proof.Machine.execVoteMatch a d sw s
  | .lredAdd t a d sw => Sys2Proof.Machine.execLredAdd t a d sw s
  | .lredMax t a d sw => Sys2Proof.Machine.execLredMax t a d sw s
  | .lredMin t a d sw => Sys2Proof.Machine.execLredMin t a d sw s
  | .lscanAddInc t a d sw => Sys2Proof.Machine.execLscanAddInc t a d sw s
  | .lscanAddExc t a d sw => Sys2Proof.Machine.execLscanAddExc t a d sw s
  | .lbc n a d sw => Sys2Proof.Machine.execLbc n a d sw s
  | .ld l z b a d sw => Sys2Proof.Machine.execLd l z b a d sw s
  | .st l z b a d sw => Sys2Proof.Machine.execSt l z b a d sw s
  | .ldk l z b a k sw => Sys2Proof.Machine.execLdk l z b a k sw s
  | .stk l z b a k sw => Sys2Proof.Machine.execStk l z b a k sw s
  | .atomAdd f w c o a d sw => Sys2Proof.Machine.execAtomAdd f w c o a d sw s
  | .atomMin f w c o a d sw => Sys2Proof.Machine.execAtomMin f w c o a d sw s
  | .atomMax f w c o a d sw => Sys2Proof.Machine.execAtomMax f w c o a d sw s
  | .atomAnd w c o a d sw => Sys2Proof.Machine.execAtomAnd w c o a d sw s
  | .atomOr w c o a d sw => Sys2Proof.Machine.execAtomOr w c o a d sw s
  | .atomXor w c o a d sw => Sys2Proof.Machine.execAtomXor w c o a d sw s
  | .atomXchg w c o a d sw => Sys2Proof.Machine.execAtomXchg w c o a d sw s
  | .atomCas w c o a d sw => Sys2Proof.Machine.execAtomCas w c o a d sw s
  | .fenceAcq c sw => Sys2Proof.Machine.execFenceAcq c sw s
  | .fenceRel c sw => Sys2Proof.Machine.execFenceRel c sw s
  | .fenceAr c sw => Sys2Proof.Machine.execFenceAr c sw s
  | .fenceSc c sw => Sys2Proof.Machine.execFenceSc c sw s
  | .tget l a t sw => Sys2Proof.Machine.execTget l a t sw s
  | .tset a t sw => Sys2Proof.Machine.execTset a t sw s
  | .tdrn l a t sw => Sys2Proof.Machine.execTdrn l a t sw s
  | .tstat d t sw => Sys2Proof.Machine.execTstat d t sw s
  | .cpy l c b a sw => Sys2Proof.Machine.execCpy l c b a sw s
  | .gth l c b a sw => Sys2Proof.Machine.execGth l c b a sw s
  | .sct l c b a sw => Sys2Proof.Machine.execSct l c b a sw s
  | .collSet l c b a sw => Sys2Proof.Machine.execCollSet l c b a sw s
  | .collRun l c b a sw => Sys2Proof.Machine.execCollRun l c b a sw s
  | .collStat l c a sw => Sys2Proof.Machine.execCollStat l c a sw s
  | .pfi a sw => Sys2Proof.Machine.execPfi a sw s
  | .pfd n a sw => Sys2Proof.Machine.execPfd n a sw s
  | .dsc n a sw => Sys2Proof.Machine.execDsc n a sw s
  | .lstu a d sw => Sys2Proof.Machine.execLstu a d sw s
  | .wbk n a sw => Sys2Proof.Machine.execWbk n a sw s
  | .ownreg b a sw => Sys2Proof.Machine.execOwnreg b a sw s
  | .ownclr a sw => Sys2Proof.Machine.execOwnclr a sw s
  | .rga n d sw => Sys2Proof.Machine.execRga n d sw s
  | .omld a o sw => Sys2Proof.Machine.execOmld a o sw s
  | .mld l w g b a sw => Sys2Proof.Machine.execMld l w g b a sw s
  | .mswp l sw => Sys2Proof.Machine.execMswp l sw s
  | .mswpRel l sw => Sys2Proof.Machine.execMswpRel l sw s
  | .mst l w g b a sw => Sys2Proof.Machine.execMst l w g b a sw s
  | .mdr l w g b a sw => Sys2Proof.Machine.execMdr l w g b a sw s
  | .mdrRed l w g b a sw => Sys2Proof.Machine.execMdrRed l w g b a sw s
  | .accget l w g b sw => Sys2Proof.Machine.execAccget l w g b sw s
  | .accgetW l w g b sw => Sys2Proof.Machine.execAccgetW l w g b sw s
  | .accput l w g sw => Sys2Proof.Machine.execAccput l w g sw s
  | .accz l w g sw => Sys2Proof.Machine.execAccz l w g sw s
  | .accld l w g r a sw => Sys2Proof.Machine.execAccld l w g r a sw s
  | .accst l w g r a sw => Sys2Proof.Machine.execAccst l w g r a sw s
  | .tmm l w g b a sw => Sys2Proof.Machine.execTmm l w g b a sw s
  | .tmmRed l w g b a sw => Sys2Proof.Machine.execTmmRed l w g b a sw s
  | .sbeg w g h sw => Sys2Proof.Machine.execSbeg w g h sw s
  | .scmt sw => Sys2Proof.Machine.execScmt sw s
  | .sdis sw => Sys2Proof.Machine.execSdis sw s
  | .rmax l imm c d sw => Sys2Proof.Machine.execRmax l imm c d sw s
  | .rsum l imm c d sw => Sys2Proof.Machine.execRsum l imm c d sw s
  | .rvar l imm c d sw => Sys2Proof.Machine.execRvar l imm c d sw s
  | .rsmx l imm c d sw => Sys2Proof.Machine.execRsmx l imm c d sw s
  | .rnorm l imm c d sw => Sys2Proof.Machine.execRnorm l imm c d sw s
  | .illegalEncoding => Sys2Proof.Machine.execIllegalEncoding s
  | .ejectionHandoverEnd => Sys2Proof.Machine.execEjectionHandoverEnd s
  | .rejoinWritebackEnd => Sys2Proof.Machine.execRejoinWritebackEnd s
  | .rejoinWindowClose => Sys2Proof.Machine.execRejoinWindowClose s
  | .ejlim => Sys2Proof.Machine.execEjlim s
  | .binAged => Sys2Proof.Machine.execBinAged s
  | .binDraw => Sys2Proof.Machine.execBinDraw s
  | .waitConditionMet => Sys2Proof.Machine.execWaitConditionMet s
  | .waitTimeout => Sys2Proof.Machine.execWaitTimeout s
  | .runParkEnd => Sys2Proof.Machine.execRunParkEnd s
  | .fatalStop => Sys2Proof.Machine.execFatalStop s
  | .dumpWrite => Sys2Proof.Machine.execDumpWrite s
  | .joinDecrement => Sys2Proof.Machine.execJoinDecrement s
  | .unitPlace => Sys2Proof.Machine.execUnitPlace s
  | .compactionMove => Sys2Proof.Machine.execCompactionMove s
  | .compactionMoveEnd => Sys2Proof.Machine.execCompactionMoveEnd s
  | .demandFetch => Sys2Proof.Machine.execDemandFetch s
  | .icacheFillLand => Sys2Proof.Machine.execIcacheFillLand s
  | .translationWalkEnd => Sys2Proof.Machine.execTranslationWalkEnd s
  | .pageRequestResponse => Sys2Proof.Machine.execPageRequestResponse s
  | .loadReturn => Sys2Proof.Machine.execLoadReturn s
  | .storeAck => Sys2Proof.Machine.execStoreAck s
  | .atomicComplete => Sys2Proof.Machine.execAtomicComplete s
  | .requestLost => Sys2Proof.Machine.execRequestLost s
  | .engineReadsBegin => Sys2Proof.Machine.execEngineReadsBegin s
  | .engineTransferEnd => Sys2Proof.Machine.execEngineTransferEnd s
  | .completionWriteAck => Sys2Proof.Machine.execCompletionWriteAck s
  | .tileFillEnd => Sys2Proof.Machine.execTileFillEnd s
  | .tileDrainEnd => Sys2Proof.Machine.execTileDrainEnd s
  | .collSetResult => Sys2Proof.Machine.execCollSetResult s
  | .collSetMemberTimeout => Sys2Proof.Machine.execCollSetMemberTimeout s
  | .fabricReduce => Sys2Proof.Machine.execFabricReduce s
  | .collRunComplete => Sys2Proof.Machine.execCollRunComplete s
  | .fabricMessageReceive => Sys2Proof.Machine.execFabricMessageReceive s
  | .stationaryLoadComplete => Sys2Proof.Machine.execStationaryLoadComplete s
  | .planeSwap => Sys2Proof.Machine.execPlaneSwap s
  | .streamComplete => Sys2Proof.Machine.execStreamComplete s
  | .drainComplete => Sys2Proof.Machine.execDrainComplete s
  | .rowStatComplete => Sys2Proof.Machine.execRowStatComplete s
  | .lehrStep => Sys2Proof.Machine.execLehrStep s
  | .budgetRetry => Sys2Proof.Machine.execBudgetRetry s
  | .firstUseTrapReturn => Sys2Proof.Machine.execFirstUseTrapReturn s
  | .elasticGrant => Sys2Proof.Machine.execElasticGrant s
  | .elasticRefuse => Sys2Proof.Machine.execElasticRefuse s
  | .tailWrite => Sys2Proof.Machine.execTailWrite s
  | .packetTake => Sys2Proof.Machine.execPacketTake s
  | .pktLaunch => Sys2Proof.Machine.execPktLaunch s
  | .pktGraphSubmit => Sys2Proof.Machine.execPktGraphSubmit s
  | .pktSignalSet => Sys2Proof.Machine.execPktSignalSet s
  | .pktSignalClear => Sys2Proof.Machine.execPktSignalClear s
  | .pktSignalPhase => Sys2Proof.Machine.execPktSignalPhase s
  | .pktSignalNothing => Sys2Proof.Machine.execPktSignalNothing s
  | .pktCopy => Sys2Proof.Machine.execPktCopy s
  | .pktCodeMove => Sys2Proof.Machine.execPktCodeMove s
  | .pktCancel => Sys2Proof.Machine.execPktCancel s
  | .pktQuery => Sys2Proof.Machine.execPktQuery s
  | .packetComplete => Sys2Proof.Machine.execPacketComplete s
  | .evrbWrite => Sys2Proof.Machine.execEvrbWrite s
  | .invPage => Sys2Proof.Machine.execInvPage s
  | .invPasid => Sys2Proof.Machine.execInvPasid s
  | .invFunction => Sys2Proof.Machine.execInvFunction s
  | .invalidationDone => Sys2Proof.Machine.execInvalidationDone s
  | .atsInvalidationRequest => Sys2Proof.Machine.execAtsInvalidationRequest s
  | .cqdEnable => Sys2Proof.Machine.execCqdEnable s
  | .cqdDisable => Sys2Proof.Machine.execCqdDisable s
  | .ctxCreate => Sys2Proof.Machine.execCtxCreate s
  | .ctxDestroy => Sys2Proof.Machine.execCtxDestroy s
  | .contextDestroyDone => Sys2Proof.Machine.execContextDestroyDone s
  | .fwdRemove => Sys2Proof.Machine.execFwdRemove s
  | .routeWrite => Sys2Proof.Machine.execRouteWrite s
  | .routeTakeEffect => Sys2Proof.Machine.execRouteTakeEffect s
  | .registerWrite => Sys2Proof.Machine.execRegisterWrite s
  | .policy => Sys2Proof.Machine.execPolicy s
  | .attest => Sys2Proof.Machine.execAttest s
  | .keys => Sys2Proof.Machine.execKeys s
  | .openCmd => Sys2Proof.Machine.execOpenCmd s
  | .sched => Sys2Proof.Machine.execSched s
  | .pause => Sys2Proof.Machine.execPause s
  | .evict => Sys2Proof.Machine.execEvict s
  | .resume => Sys2Proof.Machine.execResume s
  | .contextResume => Sys2Proof.Machine.execContextResume s
  | .kill => Sys2Proof.Machine.execKill s
  | .move => Sys2Proof.Machine.execMove s
  | .sliceMoveComplete => Sys2Proof.Machine.execSliceMoveComplete s
  | .retireCluster => Sys2Proof.Machine.execRetireCluster s
  | .retireChannelPair => Sys2Proof.Machine.execRetireChannelPair s
  | .counts => Sys2Proof.Machine.execCounts s
  | .countsClear => Sys2Proof.Machine.execCountsClear s
  | .unknownCommand => Sys2Proof.Machine.execUnknownCommand s
  | .crucibleCommandDone => Sys2Proof.Machine.execCrucibleCommandDone s
  | .moduleReset => Sys2Proof.Machine.execModuleReset s
  | .functionReady => Sys2Proof.Machine.execFunctionReady s
  | .storeUncorrectable => Sys2Proof.Machine.execStoreUncorrectable s
  | .cacheHbmError => Sys2Proof.Machine.execCacheHbmError s
  | .correctedError => Sys2Proof.Machine.execCorrectedError s
  | .clusterControlError => Sys2Proof.Machine.execClusterControlError s
  | .hostReadFailure => Sys2Proof.Machine.execHostReadFailure s
  | .hostCompletionTimeout => Sys2Proof.Machine.execHostCompletionTimeout s
  | .linkDown => Sys2Proof.Machine.execLinkDown s
  | .linkReturn => Sys2Proof.Machine.execLinkReturn s
  | .failedPostedWrite => Sys2Proof.Machine.execFailedPostedWrite s
  | .atsTranslationCompletion => Sys2Proof.Machine.execAtsTranslationCompletion s
  | .movePageNew => Sys2Proof.Machine.execMovePageNew s

end Sys2Proof.Machine
end

