-- ==== Sys2Proof/Machine/Sched.lean ====
section
/-! DEFINITION. What happens next (log 3): inputs and steps that are due, conditions that hold, the groups that issue in this
cycle (R34, R173, R366), and the passage to the next cycle. -/

namespace Sys2Proof.Machine

/-! ## Steps that are due -/

/-- The first of the earliest steps due by a cycle. -/
def firstDue (l : List Timed) (now : Nat) : Option Timed := minBy (·.due) (l.filter fun t => t.due ≤ now)

/-- What the condition of a group calls for. -/
def groupEvent (s : State) (g : Gid) : Option (Instr × Subject) :=
  if parkDue s g then some (.runParkEnd, .group g)
  else if waitDue s g then some (.waitConditionMet, .group g)
  else if timeoutDue s g then some (.waitTimeout, .group g)
  else
    match g with
    | .warp c w => if windowDue s c w then some (.rejoinWindowClose, .group g) else none
    | .kindle .. => if ejlimDue s g then some (.ejlim, .group g) else none

/-- What the bins of a core call for. -/
def binEvent (s : State) (core : Nat) : Option (Instr × Subject) :=
  match (coreOf s core).bins.find? fun (i, _) => ageDue s core i with
  | some (i, _) => some (.binAged, .of [core, i])
  | none => (drawDue s core).map fun (i, r) => (.binDraw, .of [core, i, r])

/-- What the elastic queue of a core calls for. -/
def elasticEvent (s : State) (core : Nat) : Option (Instr × Subject) :=
  if (coreOf s core).elq.isEmpty then none
  else if (elasticGrantDue s core).isSome then some (.elasticGrant, .of [core])
  else if (elasticRefuseDue s core).isSome then some (.elasticRefuse, .of [core])
  else none

/-- What a launch or a request calls for. -/
def endEvent (s : State) : Option (Instr × Subject) :=
  match s.launches.find? fun (l, x) => x.fatal.isSome && dumpDue s l with
  | some (l, _) => some (.dumpWrite, .of [l])
  | none =>
    match s.reqs.find? fun (i, _) => hostLate s i || lostDue s i with
    | some (i, _) => some (if hostLate s i then .hostCompletionTimeout else .requestLost, .of [i])
    | none => none

/-- What the host's registers and the Crucible call for. -/
def systemEvent (s : State) : Option (Instr × Subject) :=
  match (s.fns.map (·.1)).find? (invDue s) with
  | some fn => some (.invalidationDone, .of [fn])
  | none =>
    match (s.routesPending.map (·.1)).find? (routeDue s) with
    | some n => some (.routeTakeEffect, .of [n])
    | none =>
      match (s.ctxs.map (·.1)).find? (destroyDue s) with
      | some g => some (.contextDestroyDone, .of [g])
      | none =>
        match (dedup ((s.ctxs.filter fun (_, c) => c.halted).map fun (_, c) => c.fn)).find? (resumeDue s) with
        | some fn => some (.contextResume, .of [fn])
        | none => (pfNext s).map fun _ => (.crucibleCommandDone, .of [0])

/-- What the bins, the elastic queues, the engines, compaction and the front ends call for. -/
def deviceEvent (s : State) : Option (Instr × Subject) :=
  match (s.cores.map (·.1)).findSome? (binEvent s) with
  | some e => some e
  | none =>
    match (s.cores.map (·.1)).findSome? (elasticEvent s) with
    | some e => some e
    | none =>
      match engineEvent s with
      | some e => some e
      | none =>
        match (s.cores.map (·.1)).find? fun c => (compactAct s c).isSome with
        | some c => some (.compactionMove, .of [c])
        | none =>
          match (s.fes.map (·.1)).find? fun p => (placeDue s p).isSome with
          | some p => some (.unitPlace, .of [p])
          | none => (s.fns.map (·.1)).findSome? (fnEvent s)

/-- A step whose condition holds in this cycle. -/
def conditionEvent (s : State) : Option (Instr × Subject) :=
  match (groups s).findSome? (groupEvent s) with
  | some e => some e
  | none =>
    match deviceEvent s with
    | some e => some e
    | none =>
      match endEvent s with
      | some e => some e
      | none => systemEvent s

/-! ## Who issues -/

/-- The warp a quadrant lets issue in this cycle (R34): the one that holds it, else the ready one that has been ready longest. -/
def quadIssuer (s : State) (c q : Nat) : Option Gid :=
  let k := coreOf s c
  let x := nth k.quads q Quad.reset
  let may (w : Nat) : Bool := (view s (.warp c w)).any (mayIssue s)
  let runs (w : Nat) : Bool := (view s (.warp c w)).any fun v => decide (v.run.status = .running)
  if s.now < x.nextAt then none
  else
    match x.holder.filter runs with
    | some w => if may w then some (.warp c w) else none
    | none =>
      let ready := k.warps.filterMap fun (w, y) =>
        match y.run.status with
        | .ready t => if w % 4 = q && may w then some (t, w) else none
        | _ => none
      (minBy (·.1) ready).map fun x => .warp c x.2

/-- The next group to issue in this cycle: cores ascending, then kindling cores. -/
def nextIssuer (s : State) : Option Gid :=
  match (s.cores.map (·.1)).findSome? fun c => (List.range 4).findSome? (quadIssuer s c) with
  | some g => some g
  | none => (s.pools.map (·.1)).findSome? fun cl => (List.range 16).findSome? (kindleIssuer s cl)

/-- The state in which a group's instruction executes: the group is in hand, and its line is the most recently used. -/
def begun (s : State) (g : Gid) (v : View) : State :=
  { icacheUse s (cacheOf g) (unitGen s v.unit) v.pc.toNat with cur := some g, subj := .nothing }

/-- The instruction a group comes to issue, or what stands in its place. -/
def issueAction (s : State) (g : Gid) : Option (Instr × State) :=
  match view s g with
  | none => none
  | some v =>
    match fetchBytes s g v with
    | none => some (.demandFetch, { s with cur := none, subj := .group g })
    | some b =>
      match decode b with
      | .ok (i, _) => some (i, begun s g v)
      | .error _ => some (.illegalEncoding, { begun s g v with subj := .of [natOf b] })

/-- What happens before anything issues: an input from outside, a step that is due, a condition that holds. -/
def eventAction (s : State) : Option (Instr × State) :=
  match firstDue s.inbox s.now with
  | some t => some (t.i, { s with inbox := s.inbox.erase t, cur := none, subj := t.subj })
  | none =>
    match firstDue s.agenda s.now with
    | some t => some (t.i, { s with agenda := s.agenda.erase t, cur := none, subj := t.subj })
    | none => (conditionEvent s).map fun (i, x) => (i, { s with cur := none, subj := x })

/-- What happens next in this cycle, if anything is left to happen. -/
def nextAction (s : State) : Option (Instr × State) :=
  match eventAction s with
  | some a => some a
  | none => (nextIssuer s).bind (issueAction s)

/-! ## The next cycle -/

/-- A launch that replays has passed the cycle of its next entry (R392). -/
def replayLate (s : State) (x : Launch) : Bool :=
  x.rply && x.status = 0 && x.fatal.isNone && !x.capFull &&
  match recorded s x with
  | some e => fld e 56 8 != 0 && e / 2 ^ 64 < (s.now - x.capStart) % 2 ^ 64
  | none => false

/-- The translation service asks the host for the pages that engines and front ends wait for, and forgets requests that nothing waits for
any more (R339, R346, R423). -/
def askHost (s : State) : State :=
  let wants := engineWants s ++ frontWants s
  let kept := s.pageReqs.filter fun (_, q) => q.serial != agentSerial || wants.contains (q.gen, pageNo q.va * 65536)
  wants.foldl (fun t (g, a) =>
    if t.pageReqs.any fun (_, q) => q.serial = agentSerial && q.gen = g && pageNo q.va * 65536 = a then t
    else
      let (n, t1) := freshNat t
      { t1 with pageReqs := tabPut n ⟨.kindle 0 1000000, 0, 0, agentSerial, g, a, 0, false, false⟩ t1.pageReqs }) { s with pageReqs := kept }

/-- What happens at the end of a cycle: the array, the lines of granule transfers, of the engines and of tile transfers act, accesses held at
the memory controller go on, held stores go out, leases go at `gbar`. -/
def endCycle (s : State) : State :=
  let s1 := actTransfers (actEngines (actArray s)) fun p => !p.isStore
  askHost ((s.cores.map (·.1)).foldl leaseAtGbar (storeHeld (releaseFills (releaseHolds s1))))

/-- Writes of a group land, unless it is halted (R83, R85). -/
def landFree (s : State) (g : Gid) : State :=
  match view s g with
  | some v => if unitHalted s v then s else landGroup s g
  | none => s

/-- Groups in the order in which their writes land: those of a cycle in ascending quadrant, kindling cores last (R189, R232). -/
def landOrder (s : State) : List Gid := sortBy (fun g => match g with | .warp _ w => w % 4 | .kindle .. => 4) (groups s)

/-- The next cycle begins: accesses to stores act, then results become usable (R99, R453), then waits look (R129). -/
def tickCycle (s : State) : State :=
  let s0 := endCycle s
  let s1 := engineStores (actTransfers (actApers (forceHalts { s0 with now := s0.now + 1, cur := none, subj := .nothing })) Spot.isStore)
  let s2 := (landOrder s1).foldl landFree (applyHalts s1)
  let s3 := ((s2.units.filter fun (_, u) => !u.halted).map (·.1)).foldl landUnit s2
  let s4 := (groups s3).foldl sampleWait s3
  ((s4.launches.filter fun (_, x) => replayLate s4 x).map (·.1)).foldl replayMismatch s4

end Sys2Proof.Machine
end

