-- ==== Sys2Proof/Machine/Start.lean ====
section
/-! DEFINITION. A one-thread launch placed from outside and the bytes of an instruction put where the next fetch reads (log 11). -/

namespace Sys2Proof.Machine

/-- A launch of one unit with one thread, as a front end would have it (R60). -/
def Launch.single (s : State) : Launch :=
  { handle := 0x20000000, part := 0, gen := 0, fn := 1, queue := 0, pkt := none, spawned := false, graph := none, phase := 0,
    hq := 0, ringIdx := 0, recAddr := 0, hset := 0, seq := 0, pri := 0, task := false, code := 0x10000000, frameAddr := 0,
    parent := 0, frame := some { Frame.none with regs := 120, tiles := 16, scratch := 32768 }, nextUnit := 1, owned := [], skipped := [], unitsLeft := 1,
    status := 0, cancelled := false, victim := false, garr := 0, gphase := 0, threadsLeft := 1, fatal := none, capbuf := 0,
    capsz := 0, capt := false, rply := false, capStart := s.now, capIdx := 0, capFull := false, capBlock := 0, races := 0, hosts := [] }

/-- Its unit, on core 0. -/
def UnitSt.single (launch : Nat) : UnitSt :=
  { launch := launch, lid := 0, core := 0, nthreads := 1, left := 1, k := [], kpend := [], om := [], tileBase := 0,
    ntiles := 16, scrPage := 368, scrPages := 16, gmap := [], gspill := [], binage := 256, bars := [], own := [],
    lcore := 0, contract := 3, cancelled := false, kept := [], halted := false, saved := false }

/-- The machine with that launch running on functions that are ready, and nothing else to come in this cycle. -/
def withThread (s : State) : State :=
  let (l, s1) := freshNat s
  let (u, s2) := freshNat s1
  let (serial, s3) := freshNat s2
  let s4 := { s3 with fnrdyLo := 0x0FFFFFFFFFFFFFFF, fnrdyHi := 0x0003FFFFFFFFFFFF,
                      launches := tabPut l (Launch.single s) s3.launches, units := tabPut u (UnitSt.single l) s3.units,
                      agenda := s3.agenda.filter fun t => s.now < t.due, inbox := s3.inbox.filter fun t => s.now < t.due }
  setWarp s4 0 0 (newWarp s4 u serial 0 128 0x10000000 [Thread.first 0] s.now)

/-- The lines of a cache with some bytes in place at an address of a context. -/
def placeBytes (s : State) (cache gen va : Nat) (bytes : List Byte) : State :=
  let line := va / 128 * 128 % 2 ^ 48
  let held := match icacheFind s cache gen va with
    | some x => x.bytes
    | none => List.replicate 128 0
  let off := va % 128
  icachePut s cache ⟨gen, line, held.take off ++ bytes ++ held.drop (off + bytes.length), false, s.fresh⟩

end Sys2Proof.Machine
end

