-- ==== Sys2Proof/Machine/Step.lean ====
section
/-! DEFINITION. One step of the machine, and a program put where it runs next. -/

namespace Sys2Proof.Machine

/-- One step: what happens next in this cycle, or the passage to the next cycle. -/
def step (s : State) : Host.Outcome State Fault Refusal :=
  match nextAction s with
  | some (i, t) => exec i t
  | none => .next (tickCycle s)

/-- The machine with an instruction of `nbits` bits where `step` fetches next (log 11): at the program counter of the group that
issues next, or, with none, of a one-thread launch that stands for the load of a program. -/
def State.withFetchWord (s : State) (nbits w : Nat) : State :=
  let t := match nextIssuer s with
    | some _ => s
    | none => withThread s
  match nextIssuer t with
  | none => t
  | some g =>
    match view t g with
    | none => t
    | some v => placeBytes t (cacheOf g) (unitGen t v.unit) v.pc.toNat (leBytes (nbits / 8) w)

end Sys2Proof.Machine
end

