-- ==== Sys2Proof/Safety.lean ====
section
/-! DEFINITION. The terms of the statements: when an instruction issues with its own effect, what a step leaves as it was, and
what a well-formed state is. -/

namespace Sys2Proof

open Machine

/-! ## Issue -/

/-- A fault entry is on top of the split stack of a group (R419, R420). -/
def Safety.underFault (s : State) : Gid → Bool
  | .warp c w => ((warpOf s c w).bind fun x => x.splits.head?).any (·.fault)
  | .kindle .. => false

/-- `wrsr` to a register the warp holds (R189). -/
def Safety.warpHeld : Instr → Bool
  | .wrsr r _ _ => r.toNat == 18 || r.toNat == 19 || r.toNat == 25
  | _ => false

/-- An instruction of the group in hand comes to issue and passes the checks of Table 16.1 that every instruction meets, and
POISON of its registers (R393, R430): steps 1 to 5, OPLIM of a register, step 7, the slot limit. What an instruction tests
beyond them is said beside it. -/
structure Safety.Issues (i : Instr) (s : State) (v : View) : Prop where
  issuing : s.cur = some v.gid
  group : view s v.gid = some v
  noMerge : Safety.underFault s v.gid = false
  wellFormed : WellFormed i
  ownRegister : Safety.warpHeld i = true → v.kc = false
  runLength : v.run.count = 23 → endsRun i = true
  available : v.kc = true → kunavMajor (majorOf i) = false
  region : specBroken i (regionOf s v.gid) = false
  lehrRegion : lehrBroken i s v = false
  fullSet : matrixMajor (majorOf i) = true → v.act = vlanes s v
  inBlock : beyondBlock i v.bsize = false
  owner : matrixMajor (majorOf i) = true →
    (coreOf s v.core).firstUse = none ∧ (coreOf s v.core).accown = some (unitGen s v.unit)
  slotFree : slotFull i v = false
  sound : poisoned s v (sourceRegs i) v.act = []

/-! ## Frames -/

/-- Nothing but one group, and the quadrant or kindling core that issued, differs. -/
def Safety.onlyGroup (s t : State) : Gid → Prop
  | .warp c w =>
    { t with cores := s.cores } = s ∧ (∀ d, d ≠ c → coreOf t d = coreOf s d) ∧
    { coreOf t c with warps := (coreOf s c).warps, quads := (coreOf s c).quads } = coreOf s c ∧
    ∀ k, k ≠ w → warpOf t c k = warpOf s c k
  | .kindle cl k =>
    { t with pools := s.pools } = s ∧ (∀ d, d ≠ cl → poolOf t d = poolOf s d) ∧
    { poolOf t cl with slots := (poolOf s cl).slots, last := (poolOf s cl).last } = poolOf s cl ∧
    ∀ j, j ≠ k → ejOf t cl j = ejOf s cl j

/-- The record of a group keeps everything but its program counter, its run and the counts of its spin detector. -/
def Safety.sameGroup (s t : State) : Gid → Prop
  | .warp c w => ∀ x, warpOf s c w = some x → ∃ y, warpOf t c w = some y ∧
      { y with pc := x.pc, run := x.run, spin := x.spin, demc := x.demc } = x
  | .kindle cl k => ∀ x, ejOf s cl k = some x → ∃ y, ejOf t cl k = some y ∧ { y with pc := x.pc, run := x.run } = x

/-- The run of a group after one more instruction that adds writes to come and leaves the quadrant idle for some cycles (R8, R172,
R174, R176). -/
def Safety.runAfter (i : Instr) (s : State) (v : View) (lat : Nat) (ws : List PendWrite) (act : ParkAct) (idle : Nat) : Run :=
  { v.run with
    count := v.run.count + 1
    usable := Nat.max v.run.usable (s.now + lat)
    nextAt := s.now + 1 + idle
    pend := v.run.pend ++ ws.map fun w => ⟨s.now + lat, s.now, w⟩
    status := if endsRun i then .parked act else .running }

/-- What an instruction that only leaves results to become usable later has changed: the program counter of its group and its
run, with the writes to come. -/
structure Safety.Retired (i : Instr) (s t : State) (v : View) (lat : Nat) (ws : List PendWrite) : Prop where
  other : Safety.onlyGroup s t v.gid
  same : Safety.sameGroup s t v.gid
  after : view t v.gid = some { v with pc := v.pc + BitVec.ofNat 48 (instrLength i)
                                       run := Safety.runAfter i s v lat ws .next 0 }

/-- An instruction completes and leaves the given writes to become usable `lat` cycles after its issue. -/
def Safety.Completes (i : Instr) (s : State) (v : View) (lat : Nat) (ws : List PendWrite) : Prop :=
  ∃ t, exec i s = .next t ∧ Safety.Retired i s t v lat ws

/-- One word per active lane, for one register. -/
def Safety.words (v : View) (d : Nat) (f : Nat → Word) : List PendWrite := v.act.map fun l => .x d l (f l)

/-- One predicate bit per active lane. -/
def Safety.truths (v : View) (p : Nat) (f : Nat → Bool) : List PendWrite := v.act.map fun l => .p p l (f l)

/-- The flags of each active lane whose result raised any (R157, R241). -/
def Safety.raised (v : View) (f : Nat → Nat) : List PendWrite :=
  (v.act.filter fun l => f l != 0).map fun l => .flags l (flagBits (f l))

/-- Every state in which the instruction issues: it completes and leaves one word per active lane for register `d`. -/
def Safety.perLane (i : Instr) (lat d : Nat) (f : State → View → Nat → Word) : Prop :=
  ∀ s v, Safety.Issues i s v → Safety.Completes i s v lat (Safety.words v d (f s v))

/-- The same for one predicate bit per active lane. -/
def Safety.perTruth (i : Instr) (lat p : Nat) (f : State → View → Nat → Bool) : Prop :=
  ∀ s v, Safety.Issues i s v → Safety.Completes i s v lat (Safety.truths v p (f s v))

/-- The same for a word with the flags it raises. -/
def Safety.perFloat (i : Instr) (lat d : Nat) (f : State → View → Nat → Flagged Nat) : Prop :=
  ∀ s v, Safety.Issues i s v → Safety.Completes i s v lat
    (Safety.words v d (fun l => BitVec.ofNat 32 (f s v l).1) ++ Safety.raised v fun l => (f s v l).2)

/-- A function of one lane register. -/
def Safety.of1 (a : Nat) (f : Word → Word) : State → View → Nat → Word := fun s v l => f (readX s v l a)

/-- A function of two lane registers. -/
def Safety.of2 (a b : Nat) (f : Word → Word → Word) : State → View → Nat → Word :=
  fun s v l => f (readX s v l a) (readX s v l b)

/-- A float operation on one lane register, under MODE.RM of the lane and SUBN of the contract. -/
def Safety.fp1 (a : Nat) (f : Nat → Nat → Nat → Flagged Nat) : State → View → Nat → Flagged Nat :=
  fun s v l => f (rmOf s v l) (subnOf s v) (readX s v l a).toNat

/-- A float operation on two lane registers. -/
def Safety.fp2 (a b : Nat) (f : Nat → Nat → Nat → Nat → Flagged Nat) : State → View → Nat → Flagged Nat :=
  fun s v l => f (rmOf s v l) (subnOf s v) (readX s v l a).toNat (readX s v l b).toNat

/-- A float operation on three lane registers. -/
def Safety.fp3 (a b d : Nat) (f : Nat → Nat → Nat → Nat → Nat → Flagged Nat) : State → View → Nat → Flagged Nat :=
  fun s v l => f (rmOf s v l) (subnOf s v) (readX s v l a).toNat (readX s v l b).toNat (readX s v l d).toNat

/-- An instruction that leaves nothing to become usable: what has changed is the program counter and the run, which parks for
`act` at a marker and leaves its issuer idle for some cycles (R212). -/
structure Safety.Passed (i : Instr) (s t : State) (v : View) (act : ParkAct) (idle : Nat) : Prop where
  other : Safety.onlyGroup s t v.gid
  same : Safety.sameGroup s t v.gid
  after : view t v.gid = some { v with pc := v.pc + BitVec.ofNat 48 (instrLength i)
                                       run := { v.run with count := v.run.count + 1, nextAt := s.now + 1 + idle
                                                           status := if endsRun i then .parked act else .running } }

/-- A uniform instruction: the one write to come of its unit (R232), the program counter and the run. -/
structure Safety.SetsUniform (i : Instr) (s t : State) (v : View) (k : Nat) (x : DWord) : Prop where
  units : t.units = tabMod v.unit (fun u => { u with kpend := u.kpend ++ [⟨s.now + kLat v, s.now, v.kc, k, x⟩] }) s.units
  other : Safety.onlyGroup { s with units := t.units } t v.gid
  same : Safety.sameGroup s t v.gid
  after : view t v.gid = some { v with pc := v.pc + BitVec.ofNat 48 (instrLength i)
                                       run := Safety.runAfter i s v (kLat v) [] .next 0 }

/-- Every state in which a uniform instruction issues: it completes with one uniform value. -/
def Safety.perUnit (i : Instr) (k : Nat) (f : State → View → DWord) : Prop :=
  ∀ s v, Safety.Issues i s v → ∃ t, exec i s = .next t ∧ Safety.SetsUniform i s t v k (f s v)

/-! ## Effects at issue -/

/-- A state in which the results of the run of a group are usable no earlier than after some cycles (R172, R176). -/
def Safety.usableAfter (s : State) (v : View) (lat : Nat) : State :=
  modRun s v.gid fun r => { r with usable := Nat.max r.usable (s.now + lat) }

/-- The instruction completes with an effect, an action of its park and idle cycles: the effect, then the advance of its group
(R172, R176, R212). -/
def Safety.Goes (i : Instr) (s : State) (v : View) (t : State) (act : ParkAct) (idle : Nat) : Prop :=
  exec i s = .next (advance i t v act idle)

/-- The instruction is a precise trap of its group, with a code and detail (R376). -/
def Safety.Traps (i : Instr) (s : State) (v : View) (code aux : Nat) (faddr : Nat) : Prop :=
  exec i s = .next (trapNow s v (precise v code aux faddr))

/-- The instruction comes to issue again in the next cycle (R173). -/
def Safety.Waits (i : Instr) (s : State) (v : View) : Prop := exec i s = .next (delayTo s v (s.now + 1))

/-- The launch of a unit neither records its decisions nor replays recorded ones (R90, R91). -/
def Safety.unrecorded (s : State) (u : Nat) : Prop :=
  ∀ x, launchOf s (unitLaunchId s u) = some x → x.capt = false ∧ x.rply = false

/-- A back-edge of a warp, by its split entries and the count of its spin detector (R51, R384): nothing is counted without a split
entry; the 64th of a path demotes it, only clears the count where no deferred path can run, or is SPINLIM. -/
structure Safety.BackEdge (i : Instr) (s : State) (v : View) (c w : Nat) (x : Warp) (target : Pc) : Prop where
  alone : x.splits = [] → Safety.Goes i s v (Safety.usableAfter s v 4) (.xfer (v.act.map fun l => (l, target)) (s.now + 4)) 0
  counted : x.splits ≠ [] → x.spin + 1 < 64 → Safety.unrecorded s v.unit → Safety.Goes i s v
    (Safety.usableAfter (modWarp s c w fun y => { y with spin := y.spin + 1 }) v 4) (.xfer (v.act.map fun l => (l, target)) (s.now + 4)) 0
  cleared : ∀ e r, x.splits = e :: r → 64 ≤ x.spin + 1 →
    (e.done = true ∨ e.held.isSome = true ∨ e.faultHeld = true ∨ e.defMask = 0) → Safety.Goes i s v
    (Safety.usableAfter (modWarp s c w fun y => { y with spin := 0 }) v 4) (.xfer (v.act.map fun l => (l, target)) (s.now + 4)) 0
  limit : ∀ e r, x.splits = e :: r → 64 ≤ x.spin + 1 →
    ¬ (e.done = true ∨ e.held.isSome = true ∨ e.faultHeld = true ∨ e.defMask = 0) →
    31 ≤ x.demc → (∃ l ∈ v.act, trapEnabled s v 2 l = true) →
    exec i s = .next (trapNow (modWarp s c w fun y => { y with demc := 0 }) v (precise v 0x21 32))
  demoted : ∀ e r, x.splits = e :: r → 64 ≤ x.spin + 1 →
    ¬ (e.done = true ∨ e.held.isSome = true ∨ e.faultHeld = true ∨ e.defMask = 0) →
    ¬ (31 ≤ x.demc ∧ ∃ l ∈ v.act, trapEnabled s v 2 l = true) → Safety.unrecorded s v.unit →
    Safety.Goes i s v (Safety.usableAfter (modWarp s c w fun y => { y with spin := 0, demc := min 32 (y.demc + 1) }) v 4)
      (.demote target) 0

/-! ## Accesses to memory -/

/-- Every part of some accesses (lane, address, bytes) lies in a store that its launch holds, or under a translation that permits it
(R92, R94, R417). -/
def Safety.reaches (s : State) (v : View) (accs : Accs) (r w : Bool) : Prop :=
  ∀ x ∈ accs, ∀ p ∈ piecesOf s v x.2.1 x.2.2 r w, (∃ c a l, p.2.2 = .aper c a l) ∨ ∃ q o n, p.2.2 = .mem q o n

/-- In a DETERM launch every part in memory lies in a write range of the unit (R296, R426). -/
def Safety.ownsAll (s : State) (v : View) (accs : Accs) (r : Bool) : Prop :=
  isDeterm s v.unit = true → ∀ x ∈ accs, ∀ p ∈ piecesOf s v x.2.1 x.2.2 r true,
    (∃ q o n, p.2.2 = .mem q o n) → ownsRange s v.unit p.1 p.2.1 = true

/-- The lanes whose access meets a cause (R415), and nothing is awaited or to be asked for. -/
structure Safety.Meets (s : State) (v : View) (accs : Accs) (r w : Bool) (code : Nat) : Prop where
  free : behindStore s v accs w = false
  found : ∃ x ∈ accs, ∃ p ∈ piecesOf s v x.2.1 x.2.2 r w, p.2.2 = .cause code
  known : ∀ x ∈ accs, ∀ p ∈ piecesOf s v x.2.1 x.2.2 r w, p.2.2 ≠ .absent ∧ p.2.2 ≠ .waiting
  first : ∀ x ∈ accs, ∀ p ∈ piecesOf s v x.2.1 x.2.2 r w, ∀ other, p.2.2 = .cause other → other = code

/-- Every line of 128 bytes of a transfer can be read, or written where the unit owns it (R279, R423). -/
def Safety.linesReach (s : State) (v : View) (base n : Nat) (r w : Bool) : Prop :=
  ∀ j < n, (∃ c a l, pieceOf s v (base + 128 * j) 128 r w = .aper c a l) ∨
    (∃ q o m, pieceOf s v (base + 128 * j) 128 r w = .mem q o m) ∧
      (w = true → isDeterm s v.unit = true → ownsRange s v.unit (base + 128 * j) 128 = true)

/-- What no hint and no fetch changes: every memory, the stores of the cores, and the units (R115, R293). -/
def Safety.sameData (s t : State) : Prop :=
  t.mem = s.mem ∧ t.hostMem = s.hostMem ∧ t.remoteMem = s.remoteMem ∧ t.units = s.units ∧ t.launches = s.launches ∧
  ∀ c, (coreOf t c).store = (coreOf s c).store ∧ (coreOf t c).acc = (coreOf s c).acc ∧ (coreOf t c).tiles = (coreOf s c).tiles

/-- Bytes of an access of a size code (R272). -/
def Safety.sizeOf (z : BitVec 3) : Nat := [1, 1, 2, 2, 4, 8, 16, 4].getD z.toNat 4

/-- The M address of a lane: a uniform register plus a lane register as a signed number, modulo 2^64 (R269). -/
def Safety.addr (s : State) (v : View) (b a l : Nat) : Nat :=
  (((readK s v.unit b).toNat : Int) + (readX s v l a).toInt) % 2 ^ 64 |>.toNat

/-! ## The array and the granules -/

/-- OPLIM by the conditions of Table 16.3 that an instruction is tested for, in their order: the first that holds gives the code. -/
def Safety.Limits (i : Instr) (s : State) (v : View) (l : List (Nat × Prop)) : Prop :=
  ∀ before c p after, l = before ++ (c, p) :: after → (∀ x ∈ before, ¬ x.2) → p → Safety.Traps i s v 0x0D c 0

/-- None of the conditions holds. -/
def Safety.within (l : List (Nat × Prop)) : Prop := ∀ x ∈ l, ¬ x.2

/-- The unit of a group may use the array: it holds the lease, or nobody does and the first unit that waits for it and is not halted, if any, is
its own (R305). -/
def Safety.leaseFree (s : State) (v : View) : Prop :=
  (coreOf s v.core).lease = some v.unit ∨ (coreOf s v.core).lease = none ∧
    ∀ e rest, ((coreOf s v.core).leaseQ.filter fun e => leaseWaits s v.core e && !(unitOf s e.unit).any (·.halted)) = e :: rest →
      e.unit = v.unit

/-- Tests and delays of an instruction of the array (R105, R305, R306, R399, R405) before what it does: OPLIM, tiles that are not
ready, the lease of another unit, stores under way, and CMIX unmasked. -/
def Safety.Array (i : Instr) (s : State) (v : View) (limits : List (Nat × Prop)) (tiles : List Nat) (lease : Bool) (runs : Prop) : Prop :=
  Safety.Issues i s v → Safety.Limits i s v limits ∧ (Safety.within limits →
    ((∃ t ∈ tiles, tileState s v.unit t ≠ 2) → Safety.Waits i s v) ∧
    ((∀ t ∈ tiles, tileState s v.unit t = 2) →
      (lease = true → ¬ Safety.leaseFree s v → ∃ t, exec i s = .next (delayTo t v (s.now + 1)) ∧
        ∃ e ∈ (coreOf t v.core).leaseQ, e.serial = v.serial ∧ e.pc = v.pc) ∧
      ((lease = true → Safety.leaseFree s v) →
        (storesOpen s v = true → Safety.Waits i s v) ∧
        (storesOpen s v = false → ∀ st, mixedStamp s v.unit tiles = some st → (∃ l ∈ v.act, trapEnabled s v 1 l = true) →
          Safety.Traps i s v 0x09 (contractNo s v.unit + 16 * st) 0) ∧
        (storesOpen s v = false → (∀ st, mixedStamp s v.unit tiles = some st → ∀ l ∈ v.act, trapEnabled s v 1 l = false) → runs))))

/-- An instruction completes and leaves work of the core under a request of one of its slots, which returns at the end of the work. -/
structure Safety.Begins (i : Instr) (s t : State) (v : View) (slot : Nat) (x : MatOp) : Prop where
  goes : Safety.Goes i s v t .next 0
  work : ∃ id q, tabGet id t.matOps = some x ∧ tabGet id t.reqs = some q ∧ q.gid = v.gid ∧ q.slot = some slot
  counted : view t v.gid = some { v with run := { v.run with slots := v.run.slots.mapIdx fun j n => if j = slot then n + 1 else n } }
  data : ∀ c, (coreOf t c).store = (coreOf s c).store ∧ (coreOf t c).acc = (coreOf s c).acc ∧ (coreOf t c).tiles = (coreOf s c).tiles

/-- The step that ends some work is to come in a cycle. -/
def Safety.Ends (t : State) (x : MatOp) (due : Nat) (step : Instr) : Prop :=
  x.due = due ∧ ∃ id, tabGet id t.matOps = some x ∧ ⟨due, step, .of [id]⟩ ∈ t.agenda ∧ ∃ q, tabGet id t.reqs = some q ∧ q.due = due

/-! ## Well-formed states -/

/-- Keys of a table strictly rising from a bound on. -/
def Safety.rising {α : Type} : Tab α → Nat → Prop
  | [], _ => True
  | (k, _) :: r, lo => lo ≤ k ∧ Safety.rising r (k + 1)

/-- Every memory of the machine is in its canonical form (log 5). -/
def Safety.memories (s : State) : Bool :=
  s.mem.wf && s.cores.all fun x => x.2.store.wf && x.2.acc.wf

end Sys2Proof
end

