-- ==== Sys2Proof/Certificates/Slice0/Obligations.lean ====
section
/-! DEFINITION. The statements about the model, for the provers. -/

open Sys2Proof Sys2Proof.Machine

/-! ## Lane instructions -/

/-- R243, Tables 9.3 and 7.2, R183, R246, R247: the integer instructions, each lane from its own words modulo 2^32, usable after 4 cycles: the two-operand
ones, the one-operand and immediate ones, the selection and the 64-bit sum. -/
def Obligations.IntegerResults : Prop :=
  ((∀ (b a d : BitVec 7) (w : BitVec 1),
      Safety.perLane (.add b a d w) 4 d.toNat (Safety.of2 a.toNat b.toNat fun x y => BitVec.ofNat 32 (x.toNat + y.toNat)) ∧
      Safety.perLane (.sub b a d w) 4 d.toNat (Safety.of2 a.toNat b.toNat fun x y => BitVec.ofInt 32 (x.toNat - y.toNat)) ∧
      Safety.perLane (.and b a d w) 4 d.toNat (Safety.of2 a.toNat b.toNat fun x y => x &&& y) ∧
      Safety.perLane (.or b a d w) 4 d.toNat (Safety.of2 a.toNat b.toNat fun x y => x ||| y) ∧
      Safety.perLane (.xor b a d w) 4 d.toNat (Safety.of2 a.toNat b.toNat fun x y => x ^^^ y) ∧
      Safety.perLane (.andn b a d w) 4 d.toNat (Safety.of2 a.toNat b.toNat fun x y => x &&& ~~~y) ∧
      Safety.perLane (.min b a d w) 4 d.toNat (Safety.of2 a.toNat b.toNat fun x y => BitVec.ofInt 32 (min x.toInt y.toInt)) ∧
      Safety.perLane (.max b a d w) 4 d.toNat (Safety.of2 a.toNat b.toNat fun x y => BitVec.ofInt 32 (max x.toInt y.toInt)) ∧
      Safety.perLane (.shl b a d w) 4 d.toNat (Safety.of2 a.toNat b.toNat fun x y =>
        if y.toNat < 32 then BitVec.ofNat 32 (x.toNat * 2 ^ y.toNat) else 0) ∧
      Safety.perLane (.srl b a d w) 4 d.toNat (Safety.of2 a.toNat b.toNat fun x y =>
        if y.toNat < 32 then BitVec.ofNat 32 (x.toNat / 2 ^ y.toNat) else 0) ∧
      Safety.perLane (.sra b a d w) 4 d.toNat (Safety.of2 a.toNat b.toNat fun x y =>
        if y.toNat < 32 then BitVec.ofInt 32 (x.toInt / 2 ^ y.toNat) else if x.msb then -1 else 0) ∧
      Safety.perLane (.rol b a d w) 4 d.toNat (Safety.of2 a.toNat b.toNat fun x y =>
        BitVec.ofNat 32 (x.toNat * 2 ^ (y.toNat % 32) + x.toNat / 2 ^ (32 - y.toNat % 32))) ∧
      Safety.perLane (.mul b a d w) 4 d.toNat (Safety.of2 a.toNat b.toNat fun x y => BitVec.ofNat 32 (x.toNat * y.toNat)) ∧
      Safety.perLane (.mulh b a d w) 4 d.toNat (Safety.of2 a.toNat b.toNat fun x y => BitVec.ofInt 32 (x.toInt * y.toInt / 2 ^ 32)) ∧
      Safety.perLane (.mulhn b a d w) 4 d.toNat (Safety.of2 a.toNat b.toNat fun x y => BitVec.ofNat 32 (x.toNat * y.toNat / 2 ^ 32))) ∧
    (∀ a d : BitVec 5,
      Safety.perLane (.add16 a d) 4 d.toNat (Safety.of2 d.toNat a.toNat fun x y => BitVec.ofNat 32 (x.toNat + y.toNat)) ∧
      Safety.perLane (.sub16 a d) 4 d.toNat (Safety.of2 d.toNat a.toNat fun x y => BitVec.ofInt 32 (x.toNat - y.toNat)) ∧
      Safety.perLane (.mul16 a d) 4 d.toNat (Safety.of2 d.toNat a.toNat fun x y => BitVec.ofNat 32 (x.toNat * y.toNat)) ∧
      Safety.perLane (.and16 a d) 4 d.toNat (Safety.of2 d.toNat a.toNat fun x y => x &&& y) ∧
      Safety.perLane (.or16 a d) 4 d.toNat (Safety.of2 d.toNat a.toNat fun x y => x ||| y) ∧
      Safety.perLane (.xor16 a d) 4 d.toNat (Safety.of2 d.toNat a.toNat fun x y => x ^^^ y))) ∧
  ((∀ (i : BitVec 10) (n : BitVec 5) (j a d : BitVec 7) (c : BitVec 16) (w : BitVec 1),
      Safety.perLane (.abs a d w) 4 d.toNat (Safety.of1 a.toNat fun x => BitVec.ofNat 32 x.toInt.natAbs) ∧
      Safety.perLane (.addi i a d w) 4 d.toNat (Safety.of1 a.toNat fun x => BitVec.ofInt 32 (x.toInt + i.toInt)) ∧
      Safety.perLane (.andi j a d w) 4 d.toNat (Safety.of1 a.toNat fun x => x &&& BitVec.ofNat 32 j.toNat) ∧
      Safety.perLane (.ori j a d w) 4 d.toNat (Safety.of1 a.toNat fun x => x ||| BitVec.ofNat 32 j.toNat) ∧
      Safety.perLane (.xori j a d w) 4 d.toNat (Safety.of1 a.toNat fun x => x ^^^ BitVec.ofNat 32 j.toNat) ∧
      Safety.perLane (.shli n a d w) 4 d.toNat (Safety.of1 a.toNat fun x => BitVec.ofNat 32 (x.toNat * 2 ^ n.toNat)) ∧
      Safety.perLane (.srli n a d w) 4 d.toNat (Safety.of1 a.toNat fun x => BitVec.ofNat 32 (x.toNat / 2 ^ n.toNat)) ∧
      Safety.perLane (.srai n a d w) 4 d.toNat (Safety.of1 a.toNat fun x => BitVec.ofInt 32 (x.toInt / 2 ^ n.toNat)) ∧
      Safety.perLane (.li c d w) 4 d.toNat (fun _ _ _ => BitVec.ofInt 32 c.toInt) ∧
      Safety.perLane (.lih c d w) 4 d.toNat (Safety.of1 d.toNat fun x => BitVec.ofNat 32 (c.toNat * 2 ^ 16 + x.toNat % 2 ^ 16)) ∧
      Safety.perLane (.clz a d w) 4 d.toNat (Safety.of1 a.toNat clzWord) ∧
      Safety.perLane (.popc a d w) 4 d.toNat (Safety.of1 a.toNat popcWord) ∧
      Safety.perLane (.brev a d w) 4 d.toNat (Safety.of1 a.toNat brevWord)) ∧
    (∀ n d : BitVec 5,
      Safety.perLane (.mov n d) 4 d.toNat (Safety.of1 n.toNat fun x => x) ∧
      Safety.perLane (.li5 n d) 4 d.toNat (fun _ _ _ => BitVec.ofInt 32 n.toInt) ∧
      Safety.perLane (.shl16 n d) 4 d.toNat (Safety.of1 d.toNat fun x => BitVec.ofNat 32 (x.toNat * 2 ^ n.toNat)) ∧
      Safety.perLane (.srl16 n d) 4 d.toNat (Safety.of1 d.toNat fun x => BitVec.ofNat 32 (x.toNat / 2 ^ n.toNat)) ∧
      Safety.perLane (.sra16 n d) 4 d.toNat (Safety.of1 d.toNat fun x => BitVec.ofInt 32 (x.toInt / 2 ^ n.toNat)))) ∧
  (∀ (b a d : BitVec 7) (q : BitVec 3) (w : BitVec 1),
      Safety.perLane (.sel q a d w) 4 d.toNat
        (fun s v l => if readP s v l q.toNat then readX s v l a.toNat else readX s v l d.toNat) ∧
      ∀ s v, Safety.Issues (.lea b a d w) s v → Safety.Completes (.lea b a d w) s v 4 (v.act.flatMap fun l =>
        let r : DWord := BitVec.ofNat 64 (readX2 s v l a.toNat) + (readX s v l b.toNat).signExtend 64
        [.x d.toNat l (r.setWidth 32), .x (d.toNat + 1) l ((r >>> 32).setWidth 32)]))

/-- R244, Table 9.3: the fields that `bfe` and `bfi` take and replace, bit by bit, with the position, the length and the sign of xb; and what
the bit counts and the reversal of bits compute. -/
def Obligations.BitFunctions : Prop :=
  (∀ (b a d : BitVec 7) (w : BitVec 1),
      Safety.perLane (.bfe b a d w) 4 d.toNat (Safety.of2 a.toNat b.toNat bfeWord) ∧
      Safety.perLane (.bfi b a d w) 4 d.toNat
        (fun s v l => bfiWord (readX s v l d.toNat) (readX s v l a.toNat) (readX s v l b.toNat))) ∧
  ∀ x y z : Word,
    (∃ n ≤ 32, clzWord x = BitVec.ofNat 32 n ∧ x.toNat < 2 ^ (32 - n) ∧ (n < 32 → 2 ^ (31 - n) ≤ x.toNat)) ∧
    popcWord x = BitVec.ofNat 32 ((List.range 32).countP fun i => x.getLsbD i) ∧
    (∀ i < 32, (brevWord x).getLsbD (31 - i) = x.getLsbD i) ∧
    let pos := y.toNat % 32
    let len := min (y.toNat / 2 ^ 8 % 64) (32 - pos)
    (∀ i < 32, (bfiWord z x y).getLsbD i = if pos ≤ i ∧ i < pos + len then x.getLsbD (i - pos) else z.getLsbD i) ∧
    (∀ i < 32, (bfeWord x y).getLsbD i =
      if i < len then x.getLsbD (pos + i) else y.getLsbD 16 && decide (0 < len) && x.getLsbD (pos + len - 1))

/-- R248, R249: comparisons and predicate instructions. -/
def Obligations.PredicateResults : Prop :=
  (∀ (b a : BitVec 7) (p : BitVec 3) (w : BitVec 1),
    Safety.perTruth (.icmpEq b a p w) 4 p.toNat (fun s v l => decide (readX s v l a.toNat = readX s v l b.toNat)) ∧
    Safety.perTruth (.icmpNe b a p w) 4 p.toNat (fun s v l => decide (readX s v l a.toNat ≠ readX s v l b.toNat)) ∧
    Safety.perTruth (.icmpLt b a p w) 4 p.toNat (fun s v l => decide ((readX s v l a.toNat).toInt < (readX s v l b.toNat).toInt)) ∧
    Safety.perTruth (.icmpLe b a p w) 4 p.toNat (fun s v l => decide ((readX s v l a.toNat).toInt ≤ (readX s v l b.toNat).toInt)) ∧
    Safety.perTruth (.icmpLtn b a p w) 4 p.toNat (fun s v l => decide ((readX s v l a.toNat).toNat < (readX s v l b.toNat).toNat)) ∧
    Safety.perTruth (.icmpLen b a p w) 4 p.toNat (fun s v l => decide ((readX s v l a.toNat).toNat ≤ (readX s v l b.toNat).toNat))) ∧
  (∀ (b a d : BitVec 3) (w : BitVec 1),
    Safety.perTruth (.pand b a d w) 4 d.toNat (fun s v l => readP s v l a.toNat && readP s v l b.toNat) ∧
    Safety.perTruth (.por b a d w) 4 d.toNat (fun s v l => readP s v l a.toNat || readP s v l b.toNat) ∧
    Safety.perTruth (.pxor b a d w) 4 d.toNat (fun s v l => readP s v l a.toNat != readP s v l b.toNat) ∧
    Safety.perTruth (.pnot a d w) 4 d.toNat (fun s v l => !readP s v l a.toNat) ∧
    Safety.perTruth (.pmov a d w) 4 d.toNat (fun s v l => readP s v l a.toNat))

/-- R250, R251, R254: the rounded FP32 and packed operations, from the operands as the contract reads them, with their flags. -/
def Obligations.FloatArithmeticResults : Prop :=
  (∀ (b a d : BitVec 7) (w : BitVec 1),
    Safety.perFloat (.fadd b a d w) 5 d.toNat (Safety.fp2 a.toNat b.toNat (fltAdd f32)) ∧
    Safety.perFloat (.fsub b a d w) 5 d.toNat (Safety.fp2 a.toNat b.toNat (fltSub f32)) ∧
    Safety.perFloat (.fmul b a d w) 5 d.toNat (Safety.fp2 a.toNat b.toNat (fltMul f32)) ∧
    Safety.perFloat (.fmin b a d w) 5 d.toNat (Safety.fp2 a.toNat b.toNat fun _ sb x y => fltPick f32 sb false x y) ∧
    Safety.perFloat (.fmax b a d w) 5 d.toNat (Safety.fp2 a.toNat b.toNat fun _ sb x y => fltPick f32 sb true x y) ∧
    Safety.perFloat (.ffma b a d w) 6 d.toNat (Safety.fp3 a.toNat b.toNat d.toNat fun rm sb x y z => fltFma f32 rm sb false false x y z) ∧
    Safety.perFloat (.ffms b a d w) 6 d.toNat (Safety.fp3 a.toNat b.toNat d.toNat fun rm sb x y z => fltFma f32 rm sb false true x y z) ∧
    Safety.perFloat (.fnma b a d w) 6 d.toNat (Safety.fp3 a.toNat b.toNat d.toNat fun rm sb x y z => fltFma f32 rm sb true false x y z) ∧
    Safety.perFloat (.hadd2 b a d w) 5 d.toNat (Safety.fp3 a.toNat b.toNat d.toNat fun rm sb => halves fun x y _ => fltAdd f16 rm sb x y) ∧
    Safety.perFloat (.hmul2 b a d w) 5 d.toNat (Safety.fp3 a.toNat b.toNat d.toNat fun rm sb => halves fun x y _ => fltMul f16 rm sb x y) ∧
    Safety.perFloat (.hfma2 b a d w) 6 d.toNat (Safety.fp3 a.toNat b.toNat d.toNat fun rm sb => halves (fltFma f16 rm sb false false)) ∧
    Safety.perFloat (.badd2 b a d w) 5 d.toNat (Safety.fp3 a.toNat b.toNat d.toNat fun rm sb => halves fun x y _ => fltAdd bf16 rm sb x y) ∧
    Safety.perFloat (.bmul2 b a d w) 5 d.toNat (Safety.fp3 a.toNat b.toNat d.toNat fun rm sb => halves fun x y _ => fltMul bf16 rm sb x y) ∧
    Safety.perFloat (.bfma2 b a d w) 6 d.toNat (Safety.fp3 a.toNat b.toNat d.toNat fun rm sb => halves (fltFma bf16 rm sb false false))) ∧
  (∀ a d : BitVec 5,
    Safety.perFloat (.fadd16 a d) 5 d.toNat (Safety.fp2 d.toNat a.toNat (fltAdd f32)) ∧
    Safety.perFloat (.fsub16 a d) 5 d.toNat (Safety.fp2 d.toNat a.toNat (fltSub f32)) ∧
    Safety.perFloat (.fmul16 a d) 5 d.toNat (Safety.fp2 d.toNat a.toNat (fltMul f32)) ∧
    Safety.perFloat (.fmin16 a d) 5 d.toNat (Safety.fp2 d.toNat a.toNat fun _ sb x y => fltPick f32 sb false x y) ∧
    Safety.perFloat (.fmax16 a d) 5 d.toNat (Safety.fp2 d.toNat a.toNat fun _ sb x y => fltPick f32 sb true x y))

/-- R250: a NaN operand of a sum, a product or a fused form gives 0x7FC0_0000 and raises nothing but the FZ of a flushed
operand; the sum of infinities of opposite sign and the product of 0 and an infinity give it with NV. -/
def Obligations.NanResults : Prop :=
  ∀ (rm sb a b d : Nat),
    let nan (x : Nat) : Bool := (f32.decode x).isNan
    (nan a || nan b → fltAdd f32 rm sb a b = (0x7FC00000, (f32.input sb a).2 ||| (f32.input sb b).2) ∧
      fltSub f32 rm sb a b = (0x7FC00000, (f32.input sb a).2 ||| (f32.input sb b).2) ∧
      fltMul f32 rm sb a b = (0x7FC00000, (f32.input sb a).2 ||| (f32.input sb b).2)) ∧
    (∀ n k, nan d → !badMul (f32.input sb a).1 (f32.input sb b).1 → fltFma f32 rm sb n k a b d =
      (0x7FC00000, (f32.input sb a).2 ||| (f32.input sb b).2 ||| (f32.input sb d).2)) ∧
    fltAdd f32 rm sb 0x7F800000 0xFF800000 = (0x7FC00000, fNV) ∧
    fltMul f32 rm sb 0 0xFF800000 = (0x7FC00000, fNV)

/-- R150, R162, R250: rounding gives back every normal FP32 value with no flag, in every mode, and the exact zero of a sum is +0
unless both terms are −0. -/
def Obligations.RoundingOfExactValues : Prop :=
  (∀ rm sb w, w < 2 ^ 32 → 1 ≤ w / 2 ^ 23 % 2 ^ 8 → w / 2 ^ 23 % 2 ^ 8 ≤ 254 → f32.round rm sb (f32.decode w) = (w, 0)) ∧
  ∀ rm sb (n : Bool) (m : Nat) (e : Int), f32.round rm sb (Sys2Proof.Machine.Num.add (.fin n m e) (.fin (!n) m e)) = (0, 0)

/-- R251-R253, R255-R257, R403: sign, comparison, class, exponent, scale and conversion instructions; a conversion that
overflows under `.trap` in some lane raises CVTOVF for the lanes that did, when an active thread has it enabled. -/
def Obligations.FloatUnaryAndConversionResults : Prop :=
  ∀ (b a d r : BitVec 7) (c : BitVec 4) (p : BitVec 3) (t u : BitVec 4) (o : BitVec 2) (w : BitVec 1),
    Safety.perFloat (.fabs a d w) 5 d.toNat (Safety.fp1 a.toNat (signed false)) ∧
    Safety.perFloat (.fneg a d w) 5 d.toNat (Safety.fp1 a.toNat (signed true)) ∧
    Safety.perFloat (.frnd r a d w) 5 d.toNat (Safety.fp1 a.toNat (frndLane r.toNat)) ∧
    Safety.perFloat (.fcls a d w) 5 d.toNat (Safety.fp1 a.toNat fclsLane) ∧
    Safety.perFloat (.fexp a d w) 5 d.toNat (Safety.fp1 a.toNat fexpLane) ∧
    Safety.perFloat (.fscl b a d w) 5 d.toNat (Safety.fp2 a.toNat b.toNat fsclLane) ∧
    (∀ s v, Safety.Issues (.fcmp b a c p w) s v →
      let f := fun l => fcmpLane c.toNat (subnOf s v) (readX s v l a.toNat).toNat (readX s v l b.toNat).toNat
      Safety.Completes (.fcmp b a c p w) s v 5 (Safety.truths v p.toNat (fun l => (f l).1) ++ Safety.raised v fun l => (f l).2)) ∧
    (∀ s v, Safety.Issues (.cvt t u o a d w) s v →
      let bad := cvtOver s v t.toNat u.toNat o.toNat a.toNat
      (bad = [] ∨ (∀ l ∈ v.act, trapEnabled s v 0 l = false) →
        let f := cvtResult s v t.toNat u.toNat o.toNat a.toNat
        Safety.Completes (.cvt t u o a d w) s v 5
          (Safety.words v d.toNat (fun l => BitVec.ofNat 32 (f l).1) ++ Safety.raised v fun l => (f l).2)) ∧
      (bad ≠ [] → (∃ l ∈ v.act, trapEnabled s v 0 l = true) →
        exec (.cvt t u o a d w) s = .next (trapNow s v (precise v 0x08 (maskOf bad).toNat))))

/-- R242, R258, R259: the special functions wait for the pipe of the quadrant, and take it for 4 cycles; results after 18. -/
def Obligations.SpecialFunctionResults : Prop :=
  ∀ (b a d : BitVec 7) (w : BitVec 1) (s : State) (v : View),
    (v.kc = false → (coreOf s v.core).quads.length = 4) →
    let done (i : Instr) (f : Nat → Flagged Nat) : Prop := Safety.Issues i s v →
      if s.now < sfuFree s v then exec i s = .next (delayTo s v (sfuFree s v))
      else ∃ t, exec i s = .next t ∧ (v.kc = false → sfuFree t v = s.now + 4) ∧
        Safety.Retired i s t v 18 (Safety.words v d.toNat (fun l => BitVec.ofNat 32 (f l).1) ++ Safety.raised v fun l => (f l).2)
    let one (g : Nat → Machine.Num → Flagged Machine.Num) : Nat → Flagged Nat := sfuLane g a.toNat s v
    let gate (g : Nat → Machine.Num → Flagged Machine.Num) (self : Bool) : Nat → Flagged Nat := gateLane g self a.toNat b.toNat s v
    done (.exp2 a d w) (one exp2Of) ∧ done (.log2 a d w) (one log2Of) ∧ done (.rcp a d w) (one rcpOf) ∧
    done (.rsqrt a d w) (one rsqrtOf) ∧ done (.sqrt a d w) (one sqrtOf) ∧ done (.tanh a d w) (one tanhOf) ∧
    done (.lgs a d w) (one lgsOf) ∧ done (.gactLgs b a d w) (gate lgsOf false) ∧ done (.gactTanh b a d w) (gate tanhOf false) ∧
    done (.gactAlgs b a d w) (gate lgsOf true)

/-- R260, R261, R265: `shfl` and `lbc` read the word of another lane at issue; POISON of a word read there is a precise trap.
R262-R264: votes after 8 cycles, reductions and scans after 14. -/
def Obligations.LaneMovesVotesAndReductions : Prop :=
  (∀ (b a d : BitVec 7) (n : BitVec 5) (w : BitVec 1) (s : State) (v : View),
      let k (l : Nat) : Nat := (readX s v l b.toNat).toNat % 32
      let move (i : Instr) (src : Nat → Nat) : Prop := Safety.Issues i s v →
        ((∀ l ∈ v.act, poisoned s v [(a.toNat, 1)] [src l] = []) →
          Safety.Completes i s v 8 (Safety.words v d.toNat fun l =>
            if v.kc then readX s v (v.act.headD 0) a.toNat else readX s v (src l) a.toNat)) ∧
        ((∃ l ∈ v.act, poisoned s v [(a.toNat, 1)] [src l] ≠ []) → ∃ aux addr, exec i s = .next (trapNow s v (precise v 0x17 aux addr)))
      move (.shflIdx b a d w) k ∧
      move (.shflUp b a d w) (fun l => if k l ≤ l then l - k l else l) ∧
      move (.shflDown b a d w) (fun l => if l + k l ≤ 31 then l + k l else l) ∧
      move (.shflXor b a d w) (fun l => l ^^^ k l) ∧
      move (.lbc n a d w) (fun _ => n.toNat)) ∧
  (∀ (p : BitVec 3) (t : BitVec 2) (a d : BitVec 7) (w : BitVec 1),
      Safety.perLane (.voteAny p d w) 8 d.toNat (fun s v _ => if v.act.any (fun l => readP s v l p.toNat) then 1 else 0) ∧
      Safety.perLane (.voteAll p d w) 8 d.toNat (fun s v _ => if v.act.all (fun l => readP s v l p.toNat) then 1 else 0) ∧
      Safety.perLane (.voteBal p d w) 8 d.toNat (fun s v _ => maskOf (v.act.filter fun l => readP s v l p.toNat)) ∧
      Safety.perLane (.voteCnt p d w) 8 d.toNat (fun s v _ => popcWord (maskOf (v.act.filter fun l => readP s v l p.toNat))) ∧
      Safety.perLane (.voteMatch a d w) 8 d.toNat
        (fun s v l => maskOf (v.act.filter fun m => readX s v m a.toNat = readX s v l a.toNat)) ∧
      Safety.perFloat (.lredAdd t a d w) 14 d.toNat (fun s v _ => reduce s v 0 t.toNat a.toNat) ∧
      Safety.perFloat (.lredMax t a d w) 14 d.toNat (fun s v _ => reduce s v 1 t.toNat a.toNat) ∧
      Safety.perFloat (.lredMin t a d w) 14 d.toNat (fun s v _ => reduce s v 2 t.toNat a.toNat) ∧
      Safety.perFloat (.lscanAddInc t a d w) 14 d.toNat
        (fun s v l => ((nth (scan s v t.toNat a.toNat) l (0, 0)).1, (scan s v t.toNat a.toNat).foldl (fun n x => n ||| x.2) 0)) ∧
      Safety.perFloat (.lscanAddExc t a d w) 14 d.toNat
        (fun s v l => (if l = 0 then identityOf 0 t.toNat else (nth (scan s v t.toNat a.toNat) (l - 1) (0, 0)).1,
          (scan s v t.toNat a.toNat).foldl (fun n x => n ||| x.2) 0)))

/-- R263, R264, R262: an integer sum over the lanes is the sum of the active lanes' words, and its scan at a lane the sum up to it;
a lane mask holds exactly its lanes. -/
def Obligations.IntegerReductionsAreSums : Prop :=
  ∀ (s : State) (v : View) (a : Nat),
    let x (l : Nat) : Nat := if v.act.contains l then (readX s v l a).toNat else 0
    (reduce s v 0 0 a).1 = ((List.range 32).map x).sum % 2 ^ 32 ∧
    (∀ l < 32, (nth (scan s v 0 a) l (0, 0)).1 = ((List.range (l + 1)).map x).sum % 2 ^ 32) ∧
    ∀ (ls : List Nat) (l : Nat), l < 32 → (maskOf ls).getLsbD l = ls.contains l

/-- R232, R233, R235: the uniform arithmetic, with its 16 bits of `kli`, at each kind of operand.
R234: words moved between lane and uniform registers; `kld` of a poisoned word is a precise trap (R430). -/
def Obligations.UniformResults : Prop :=
  (∀ (i : BitVec 1) (b a d : BitVec 6) (c : BitVec 3) (n : BitVec 16) (h : BitVec 2) (w : BitVec 1),
      let K (r : BitVec 6) (s : State) (v : View) : DWord := readK s v.unit r.toNat
      let B (s : State) (v : View) : DWord := if i = 1 then BitVec.ofNat 64 b.toNat else K b s v
      Safety.perUnit (.kadd i b a d w) d.toNat (fun s v => K a s v + B s v) ∧
      Safety.perUnit (.ksub i b a d w) d.toNat (fun s v => K a s v - B s v) ∧
      Safety.perUnit (.kmov a d w) d.toNat (fun s v => K a s v) ∧
      Safety.perUnit (.kmovImm a d w) d.toNat (fun _ _ => BitVec.ofNat 64 a.toNat) ∧
      Safety.perUnit (.kshl i b a d w) d.toNat (fun s v => BitVec.ofNat 64 ((K a s v).toNat * 2 ^ ((B s v).toNat % 64))) ∧
      Safety.perUnit (.kand i b a d w) d.toNat (fun s v => K a s v &&& B s v) ∧
      Safety.perUnit (.kor i b a d w) d.toNat (fun s v => K a s v ||| B s v) ∧
      Safety.perUnit (.kcmp c b a d w) d.toNat (fun s v =>
        let x := K a s v
        let y := K b s v
        if [decide (x = y), decide (x ≠ y), decide (x.toInt < y.toInt), decide (x.toInt ≤ y.toInt), decide (x.toNat < y.toNat),
            decide (x.toNat ≤ y.toNat)][c.toNat]? = some true then 1 else 0) ∧
      Safety.perUnit (.kli n h d w) d.toNat (fun s v => insert16 (K d s v) h.toNat n) ∧
      ∀ (x : DWord) (j : Nat), j < 64 → (insert16 x h.toNat n).getLsbD j =
        if 16 * h.toNat ≤ j ∧ j < 16 * h.toNat + 16 then n.getLsbD (j - 16 * h.toNat) else x.getLsbD j) ∧
  (∀ (k : BitVec 6) (x : BitVec 7) (n : BitVec 5) (w : BitVec 1),
      (∀ s v, Safety.Issues (.movk k x w) s v → Safety.Completes (.movk k x w) s v (kLat v)
        (Safety.words v x.toNat fun _ => (readK s v.unit k.toNat).setWidth 32)) ∧
      (∀ s v, Safety.Issues (.movkH k x w) s v → Safety.Completes (.movkH k x w) s v (kLat v)
        (Safety.words v x.toNat fun _ => (readK s v.unit k.toNat >>> 32).setWidth 32)) ∧
      let load (i : Instr) (lane : Nat) : Prop := ∀ s v, Safety.Issues i s v →
        (poisoned s v [(x.toNat, 1)] [lane] = [] →
          ∃ t, exec i s = .next t ∧ Safety.SetsUniform i s t v k.toNat ((storedWord s v x.toNat lane).setWidth 64)) ∧
        (poisoned s v [(x.toNat, 1)] [lane] ≠ [] → ∃ aux addr, exec i s = .next (trapNow s v (precise v 0x17 aux addr)))
      load (.kld k x w) 0 ∧ load (.kldLane n k x w) n.toNat)

/-- R225-R227: `rdsr` reads, `wrsr` leaves a write for every active thread (or one for the warp or unit), and `mode` changes
MODE.RM of the active threads at once. -/
def Obligations.SpecialRegisterResults : Prop :=
  ∀ (r : BitVec 6) (a d : BitVec 7) (m : BitVec 2) (w : BitVec 1),
    Safety.perLane (.rdsr r d w) 4 d.toNat (fun s v l => readSr s v r.toNat l) ∧
    (∀ s v, Safety.Issues (.wrsr r a w) s v → Safety.Completes (.wrsr r a w) s v 4
      ((if r.toNat = 13 ∨ r.toNat = 14 ∨ r.toNat = 22 ∨ r.toNat = 24 then v.act else v.act.take 1).map fun l =>
        .sr r.toNat l (readX s v l a.toNat))) ∧
    (∀ s v, Safety.Issues (.mode m w) s v → ∃ t, exec (.mode m w) s = .next t ∧ Safety.onlyGroup s t v.gid ∧
      (∀ l, thrOf t v.gid l = (thrOf s v.gid l).map fun x => if l ∈ v.act then { x with rm := m } else x) ∧
      (∀ l x, readX t v l x = readX s v l x) ∧
      ∃ u, view t v.gid = some u ∧ u.pc = v.pc + 4 ∧ u.act = v.act ∧ u.run.count = v.run.count + 1 ∧
        u.run.pend = v.run.pend.filter fun p => !pendsMode v.act p || decide (p.due ≤ s.now))

/-! ## Control -/

/-- R172, R176, R34, R212: the advance of an issued instruction: the program counter moves by its length, the run counts one more
instruction and, at a switch marker, parks; the quadrant idles `idle` cycles more and is held until the park.
R202, R117, R185: the target of an offset is the instruction's address plus two bytes for each halfword of it; an active
forwarding entry of the partition that holds the address moves it. -/
def Obligations.AdvanceAndTargets : Prop :=
  (∀ (i : Instr) (s : State) (v : View) (act : ParkAct) (idle : Nat), view s v.gid = some v →
      let t := advance i s v act idle
      Safety.onlyGroup s t v.gid ∧ Safety.sameGroup s t v.gid ∧
      view t v.gid = some { v with pc := v.pc + BitVec.ofNat 48 (instrLength i)
                                   run := { v.run with count := v.run.count + 1, nextAt := s.now + 1 + idle
                                                       status := if endsRun i then .parked act else .running } } ∧
      (∀ c w, v.gid = .warp c w → ∀ j q, (coreOf s c).quads[j]? = some q → (coreOf t c).quads[j]? = some
        (if j = w % 4 then { q with holder := if endsRun i then none else some w, nextAt := s.now + 1 + idle } else q)) ∧
      ∀ cl k, v.gid = .kindle cl k → tabGet (k % 16) (poolOf t cl).last = some (k, s.now + 1)) ∧
  (∀ (s : State) (v : View) (n : Nat) (off : BitVec n),
      let a := v.pc + 2 * off.signExtend 48
      let fwd := (feOf s (unitPart s v.unit)).fwd
      let holds (f : Fwd) : Prop := f.active = true ∧ f.old * 4096 ≤ a.toNat ∧ a.toNat < (f.old + f.len) * 4096
      ((∀ e ∈ fwd, ¬ holds e.2) → targetOf s v off = a) ∧
      ∀ e ∈ fwd, holds e.2 → (∀ e' ∈ fwd, holds e'.2 → e'.2 = e.2) →
        targetOf s v off = BitVec.ofNat 48 (e.2.new * 4096 + (a.toNat - e.2.old * 4096)))

/-- R202, R51, R384: `br` parks for its target after 4 cycles. A back-edge of a warp with split entries counts on the spin
detector; the 64th demotes the running path, or only clears the count where no deferred path can run, or is SPINLIM.
R35, R36, Table 2.2: `brp` goes on with one target when its lanes agree, or on a kindling core; else it ejects the smaller side
where EJT, the tag and the free kindling slots allow it, the larger side then counting a back-edge as `br` does, splits while fewer than four entries stand, and reforms after that. -/
def Obligations.Branches : Prop :=
  (∀ (o : BitVec 24) (s : State) (v : View), Safety.Issues (.br o) s v →
      (o.msb = false ∨ v.kc = true → Safety.Goes (.br o) s v (Safety.usableAfter s v 4)
        (.xfer (v.act.map fun l => (l, targetOf s v o)) (s.now + 4)) 0) ∧
      ∀ c w x, v.gid = .warp c w → warpOf s c w = some x → o.msb = true → Safety.BackEdge (.br o) s v c w x (targetOf s v o)) ∧
  (∀ (o : BitVec 16) (t : BitVec 4) (p : BitVec 3) (s : State) (v : View),
      let branch (i : Instr) (sense : Bool) : Prop := Safety.Issues i s v →
        let target := targetOf s v o
        let next := v.pc + 4
        let taken := v.act.filter fun l => readP s v l p.toNat == sense
        let rest := v.act.filter fun l => readP s v l p.toNat != sense
        let all (pc : Pc) : Prop := Safety.Goes i s v (Safety.usableAfter s v 4) (.xfer (v.act.map fun l => (l, pc)) (s.now + 4)) 0
        (v.kc = true → taken = [] → all next) ∧ (v.kc = true → taken ≠ [] → all target) ∧
        (v.kc = false → taken = [] → all next) ∧
        (v.kc = false → taken ≠ [] → rest = [] → o.msb = false → all target) ∧
        (∀ c w x, v.gid = .warp c w → warpOf s c w = some x → taken ≠ [] → rest = [] → o.msb = true →
          Safety.BackEdge i s v c w x target) ∧
        ∀ c w x, v.gid = .warp c w → warpOf s c w = some x → taken ≠ [] → rest ≠ [] → Safety.unrecorded s v.unit →
          let few := if taken.length ≤ rest.length then taken else rest
          let many := if taken.length ≤ rest.length then rest else taken
          let fewTo := if taken.length ≤ rest.length then target else next
          let manyTo := if taken.length ≤ rest.length then next else target
          let mayEject : Prop := few.length ≤ x.ejt ∧ t ≠ 0 ∧ hasOpen x t.toNat = false ∧ x.spec = none
          let room : Prop := few.length ≤ (freeKindling s (clusterOf c)).length
          (mayEject → ¬ room → isDeterm s v.unit = true → Safety.Waits i s v) ∧
          (mayEject → room →
            let e := eject s v t.toNat few fewTo
            let on (u : State) (act : ParkAct) : Prop :=
              Safety.Goes i s v (modRun u v.gid fun r => { r with usable := Nat.max r.usable e.2 }) act 0
            let goes : ParkAct := .xfer (many.map fun l => (l, manyTo)) e.2
            let spins : Prop := 31 ≤ x.demc ∧ ∃ l ∈ v.act, trapEnabled s v 2 l = true
            (o.msb = false ∨ manyTo ≠ target ∨ x.splits = [] → on e.1 goes) ∧
            (o.msb = true → manyTo = target → ∀ f r, x.splits = f :: r →
              let idle : Prop := f.done = true ∨ f.held.isSome = true ∨ f.faultHeld = true ∨ f.defMask = 0
              (x.spin + 1 < 64 → on (modWarp e.1 c w fun y => { y with spin := y.spin + 1 }) goes) ∧
              (64 ≤ x.spin + 1 → idle → on (modWarp e.1 c w fun y => { y with spin := 0 }) goes) ∧
              (64 ≤ x.spin + 1 → ¬ idle → spins →
                exec i s = .next (trapNow (modWarp s c w fun y => { y with demc := 0 }) v (precise v 0x21 32))) ∧
              (64 ≤ x.spin + 1 → ¬ idle → ¬ spins →
                on (modWarp e.1 c w fun y => { y with spin := 0, demc := min 32 (y.demc + 1) }) (.demote manyTo)))) ∧
          (¬ mayEject ∨ ¬ room ∧ isDeterm s v.unit = false →
            (x.splits.length < 4 → Safety.Goes i s v
              (Safety.usableAfter (modWarp s c w fun y => { y with spin := if o.msb then 1 else 0 }) v 4)
              (.split (maskOf taken) target t.toNat) 0) ∧
            (4 ≤ x.splits.length → stagingRoom s c (homeLanes x).length = true →
              Safety.Goes i s v (Safety.usableAfter s v 4) (.reform (maskOf taken) target) 0) ∧
            (4 ≤ x.splits.length → stagingRoom s c (homeLanes x).length = false → Safety.Waits i s v))
      branch (.brp o t p) true ∧ branch (.brpF o t p) false)

/-- R36, R23: an ejection grants the lowest free kindling slots in ascending order, hands over for 6 + ⌈n/2⌉ cycles and 8 for each
round lost, and leaves the lanes ejected under the tag.
R211, R40, R45, R367: `rjn` of an ejected thread parks; of a warp it merges the top split entry of its tag once that is done, waits
for the threads ejected under the tag, parks while the deferred path has still to run, and else goes on. -/
def Obligations.EjectionAndRejoin : Prop :=
  (∀ (s : State) (c w tag : Nat) (x : Warp) (v : View) (ls : List Nat) (pc : Pc),
      view s (.warp c w) = some v → warpOf s c w = some x → ls.Nodup → (∀ l ∈ ls, (thrOf s v.gid l).isSome = true) →
      ls.length ≤ (freeKindling s (clusterOf c)).length →
      let ends := s.now + 6 + (liveOf s v tag + 1) / 2 + 8 * s.lost.headD 0
      let e := eject s v tag ls pc
      e.2 = ends ∧
      (∃ y, warpOf e.1 c w = some y ∧ y.pc = x.pc ∧ y.ejs = x.ejs ++ [⟨tag, maskOf ls⟩] ∧
        ∀ l z, x.lanes[l]? = some z → y.lanes[l]? = some (if l ∈ ls then { z with st := .ejected, thr := none } else z)) ∧
      ∀ (i lane : Nat), ls[i]? = some lane → ∃ k th j, (freeKindling s (clusterOf c))[i]? = some k ∧ thrOf s v.gid lane = some th ∧
        ejOf e.1 (clusterOf c) k = some j ∧ j.lane = lane ∧ j.tag = tag ∧ j.pc = pc ∧ j.thr.lthr = th.lthr ∧
        j.run.status = .handover ∧ j.run.usable = ends ∧ j.serial = x.serial) ∧
  (∀ (g : BitVec 4) (s : State) (v : View), Safety.Issues (.rjn g) s v →
      (v.kc = true → releaseWaits s v = false → Safety.Goes (.rjn g) s v s (.rjn g.toNat) 0) ∧
      (v.kc = true → releaseWaits s v = true → Safety.Waits (.rjn g) s v) ∧
      ∀ c w x, v.gid = .warp c w → warpOf s c w = some x →
        let past (t : State) (act : ParkAct) : State := advance (.rjn g) t v act 0
        let plain : Prop := ∀ e, x.splits.head? = some e → e.tag ≠ g.toNat
        ((∃ e, x.splits.head? = some e ∧ e.tag = g.toNat ∧ e.done = false) → Safety.Goes (.rjn g) s v s (.rjn g.toNat) 0) ∧
        (plain → hasOpen x g.toNat = false → Safety.Goes (.rjn g) s v s .next 0) ∧
        (plain → hasOpen x g.toNat = true →
          exec (.rjn g) s = .next (pumpRejoin (beginRejoin (past s .next) c w g.toNat s.now) c w)) ∧
        (∀ e r, x.splits = e :: r → e.tag = g.toNat → e.done = true → hasOpen x g.toNat = false → ∃ t, exec (.rjn g) s = .next t ∧
          Safety.onlyGroup s t v.gid ∧ ∃ y, warpOf t c w = some y ∧ y.splits = r ∧ y.spin = 0 ∧ y.pc = x.pc + 4 ∧
            y.run.status = .parked .next ∧ y.run.usable = Nat.max x.run.usable (s.now + 4) ∧
            ∀ l z, x.lanes[l]? = some z → l < 32 →
              y.lanes[l]? = some (if e.parkMask.getLsbD l then { z with st := .running } else z)))

/-- R204, R206, R207: `call` and `callx` push the return address in every active lane, three words of its call stack, and are CSOVF
where a stack is full; `brx` pushes nothing.
R207: `ret` goes to the address on top of each lane's call stack, whose depth becomes one less; an empty stack is CSUND. -/
def Obligations.CallsAndReturns : Prop :=
  (∀ (o : BitVec 24) (a : BitVec 7) (s : State) (v : View),
      let full := v.act.filter fun l => decide (stackCap s v ≤ depthOf s v l)
      let pushed : State := modRun s v.gid fun r => { r with
        usable := Nat.max r.usable (s.now + 4)
        pend := r.pend ++ v.act.flatMap fun l =>
          let d := depthOf s v l
          [(1 + 2 * d, (v.pc + 4).setWidth 32), (2 + 2 * d, ((v.pc + 4) >>> 32).setWidth 32), (0, BitVec.ofNat 32 (d + 1))].map
            fun (x : Nat × Word) => ⟨s.now + if v.kc then 40 else 12, s.now, .stack (stackAddr s v l x.1) x.2⟩ }
      let pair (l : Nat) : Nat := readX2 s v l a.toNat % 2 ^ 48
      let tgts := v.act.map fun l => (l, forwardPc s (unitPart s v.unit) (BitVec.ofNat 48 (pair l)))
      let even : Prop := ∀ l ∈ v.act, pair l % 2 = 0
      let room : Prop := stagingRoom s v.core (divergent tgts).length = true
      (Safety.Issues (.call o) s v →
        (full = [] → Safety.Goes (.call o) s v pushed (.xfer (v.act.map fun l => (l, targetOf s v o)) (s.now + 4)) 0) ∧
        (full ≠ [] → Safety.Traps (.call o) s v 0x06 (maskOf full).toNat 0)) ∧
      (Safety.Issues (.callx a) s v →
        (even → full = [] → room → Safety.Goes (.callx a) s v pushed (.xfer tgts (s.now + 4)) 0) ∧
        (even → full = [] → ¬ room → Safety.Waits (.callx a) s v) ∧
        (even → full ≠ [] → Safety.Traps (.callx a) s v 0x06 (maskOf full).toNat 0) ∧
        ∀ l r, v.act = l :: r → pair l % 2 = 1 → Safety.Traps (.callx a) s v 0x14 0 (pair l)) ∧
      (Safety.Issues (.brx a) s v →
        (even → room → Safety.Goes (.brx a) s v (Safety.usableAfter s v 4) (.xfer tgts (s.now + 4)) 0) ∧
        (even → ¬ room → Safety.Waits (.brx a) s v) ∧
        ∀ l r, v.act = l :: r → pair l % 2 = 1 → Safety.Traps (.brx a) s v 0x14 0 (pair l))) ∧
  (∀ (s : State) (v : View), Safety.Issues .ret s v →
      let lat := if v.kc then 40 else 12
      let empty := v.act.filter fun l => decide (depthOf s v l = 0)
      let top (l : Nat) : Nat :=
        let d := depthOf s v l - 1
        (stackWord s v l (1 + 2 * d)).toNat + 2 ^ 32 * ((stackWord s v l (2 + 2 * d)).toNat % 2 ^ 16)
      let tgts := v.act.map fun l => (l, forwardPc s (unitPart s v.unit) (BitVec.ofNat 48 (top l)))
      let popped : State := modRun s v.gid fun r => { r with
        usable := Nat.max r.usable (s.now + lat)
        pend := r.pend ++ v.act.map fun l =>
          ⟨s.now + lat, s.now, .stack (stackAddr s v l 0) (BitVec.ofNat 32 (depthOf s v l - 1))⟩ }
      (empty = [] → (∀ l ∈ v.act, top l % 2 = 0) → stagingRoom s v.core (divergent tgts).length = true →
        Safety.Goes .ret s v popped (.xfer tgts (s.now + lat)) 0) ∧
      (empty = [] → (∀ l ∈ v.act, top l % 2 = 0) → stagingRoom s v.core (divergent tgts).length = false → Safety.Waits .ret s v) ∧
      (empty ≠ [] → (∀ l ∈ v.act, depthOf s v l ≠ 0 → top l % 2 = 0) → Safety.Traps .ret s v 0x07 (maskOf empty).toNat 0))

/-- R209-R216, R187: the other markers park for their action; `trl` sets the mask of slots its park waits for; `nop` idles; `wait`
parks when its condition words are legal. -/
def Obligations.MarkersPark : Prop :=
  ∀ (n : BitVec 4) (w : BitVec 1) (m : BitVec 3) (o : BitVec 16) (live : BitVec 7) (b a d : BitVec 6) (s : State) (v : View),
    (Safety.Issues (.nop n w) s v → Safety.Goes (.nop n w) s v s .next n.toNat) ∧
    (Safety.Issues (.trl m w) s v → Safety.Goes (.trl m w) s v (modRun s v.gid fun r => { r with trl := m }) .next 0) ∧
    (Safety.Issues .exit s v → Safety.Goes .exit s v s .exit 0) ∧
    (Safety.Issues .yield s v → ∃ others, Safety.Goes .yield s v s (if v.kc then .next else .yield others) 0 ∧
      ∀ i t, (i, t) ∈ others ↔ ∃ x, (i, x) ∈ (coreOf s v.core).warps ∧ i % 4 = v.wslot % 4 ∧ x.run.status = .ready t ∧ t ≤ s.now) ∧
    (Safety.Issues (.rfm o live) s v →
      (stagingRoom s v.core v.act.length = true → Safety.Goes (.rfm o live) s v s (.rfm live.toNat (targetOf s v o)) 0) ∧
      (stagingRoom s v.core v.act.length = false → Safety.Waits (.rfm o live) s v)) ∧
    let legal : Prop := ∀ i < 4, condTrap s v ((readK s v.unit a.toNat).toNat / 2 ^ (16 * i) % 2 ^ 16) = none
    (Safety.Issues (.waitAny b a d) s v → legal → Safety.Goes (.waitAny b a d) s v s (.wait false d.toNat (readK s v.unit a.toNat) (readK s v.unit b.toNat)) 0) ∧
    (Safety.Issues (.waitAll b a d) s v → legal → Safety.Goes (.waitAll b a d) s v s (.wait true d.toNat (readK s v.unit a.toNat) (readK s v.unit b.toNat)) 0)

/-! ## Barriers -/

/-- R217, R218, R387: the active threads arrive at a barrier of their unit; each is counted, the first binds the barrier and sets the
count to reach, and the arrival that reaches it completes the phase. `bar.arv` goes on, `bar.syn` waits for its phase or resumes
8 cycles later, `bar.wt` waits for a bound phase only. An arrival is a release, and waits for the stores it orders (log 91). -/
def Obligations.BarrierInstructions : Prop :=
  ∀ (c : BitVec 12) (b : BitVec 9) (w : BitVec 1) (s : State) (v : View) (u : UnitSt), unitOf s v.unit = some u →
    let k := barOf s v.unit b.toNat
    let goal := if k.bound then k.exp else if c = 0 then u.left else c.toNat
    let counted (n : Nat) : Bar := ⟨k.arr + n, goal, k.par, true, if k.bound then k.cnt0 else decide (c = 0), k.phase⟩
    let t := v.act.foldl (fun a l => (arriveOne v.unit b.toNat c.toNat (agentOf s v l) a).1) s
    let legal : Prop := (k.bound = true → if c = 0 then k.cnt0 = true else c.toNat = k.exp) ∧ c.toNat ≤ u.nthreads ∧
      ¬ (c = 0 ∧ v.kc = true ∧ u.left = 1)
    let room : Prop := k.bound = true ∨ boundOn s v.core < 512
    let ordered : Prop := releaseWaits s v = false
    (Safety.Issues (.barArv c b w) s v → legal → room → ordered → Safety.Goes (.barArv c b w) s v t .next 0) ∧
    (Safety.Issues (.barArv c b w) s v → legal → ¬ (room ∧ ordered) → Safety.Waits (.barArv c b w) s v) ∧
    (Safety.Issues (.barSyn c b) s v → legal → room → ordered → v.act ≠ [] → k.arr + v.act.length < goal →
      Safety.Goes (.barSyn c b) s v t (.bar b.toNat k.phase) 0) ∧
    (Safety.Issues (.barSyn c b) s v → legal → ¬ (room ∧ ordered) → Safety.Waits (.barSyn c b) s v) ∧
    (Safety.Issues (.barSyn c b) s v → ¬ legal → ∃ reason < 3, Safety.Traps (.barSyn c b) s v 0x22 (b.toNat + 512 * reason) 0) ∧
    (Safety.Issues (.barWt c b) s v → Safety.Goes (.barWt c b) s v s (if k.bound then .bar b.toNat k.phase else .next) 0) ∧
    (v.act ≠ [] → k.arr + v.act.length < goal → barOf t v.unit b.toNat = counted v.act.length ∧ t.mem = s.mem ∧ t.cores = s.cores ∧
      t.pools = s.pools) ∧
    (∀ agent, clocksOn s v.unit = false → goal ≤ k.arr + 1 → arriveOne v.unit b.toNat c.toNat agent s =
      (completeBar (modUnit s v.unit fun x => { x with bars := tabPut b.toNat (counted 1) x.bars }) v.unit b.toNat, k.phase))

/-- R218, R220: a phase that completes flips PAR, clears ARR, frees the hardware barrier, and lets go of the groups that wait for it,
which issue again 8 cycles later, and 400 for `gbar`.
R220, Table 16.3: `gbar` without the frame flag is OPLIM 9; with it, each active thread arrives at the one barrier of the launch and
the group waits for its phase. -/
def Obligations.BarrierPhases : Prop :=
  ((∀ (s : State) (u b : Nat) (x : UnitSt) (k : Bar), unitOf s u = some x → tabGet b x.bars = some k →
      let s1 := modUnit s u fun y => { y with bars := tabPut b ⟨0, 0, !k.par, false, false, k.phase + 1⟩ y.bars }
      let hit (b' p : Nat) : Bool := b' = b && p = k.phase
      completeBar s u b = (unitGroups s u).foldl (fun a g => letGo hit (s.now + 8) a g) (acquirePhase hit (obBar u b k.phase) s1 u) ∧
      barOf s1 u b = ⟨0, 0, !k.par, false, false, k.phase + 1⟩) ∧
    ∀ (hit : Nat → Nat → Bool) (since b p : Nat) (s : State) (g : Gid) (v : View), view s g = some v →
      v.run.status = .barrier b p → (∀ c w x, g = .warp c w → warpOf s c w = some x → ∀ e ∈ x.splits, e.held = none) →
      (hit b p = true → view (letGo hit since s g) g = some { v with run := { v.run with count := 0, trl := 0, status := .ready since } }) ∧
      (hit b p = false → letGo hit since s g = s)) ∧
  (∀ (s : State) (l : Nat) (x : Launch), launchOf s l = some x →
      let next := modLaunch s l fun y => { y with garr := 0, gphase := y.gphase + 1 }
      let hit (b' p : Nat) : Bool := b' = 512 && p = x.gphase
      completeGbar s l = ((s.units.filter fun y => y.2.launch = l).map (·.1)).foldl (fun a u =>
        let b := acquirePhase hit (obGbar l x.gphase) (l1Acquire a (((unitOf a u).map (·.core)).getD 0) 4) u
        (unitGroups b u).foldl (fun d g => letGo hit (s.now + 400) d g) b) next ∧
      ∀ agent u, clocksOn s u = false → x.threadsLeft ≤ x.garr + 1 →
        arriveGbar l agent u s = (completeGbar (modLaunch s l fun y => { y with garr := y.garr + 1 }) l, x.gphase)) ∧
  (∀ (s : State) (v : View) (x : Launch), Safety.Issues .gbar s v → launchOf s (unitLaunchId s v.unit) = some x →
      ((unitFrame s v.unit).fflags.getLsbD 1 = false → Safety.Traps .gbar s v 0x0D 0x09 0) ∧
      let flag : Prop := (unitFrame s v.unit).fflags.getLsbD 1 = true
      let some_ : Prop := x.garr + v.act.length < x.threadsLeft ∧ v.act ≠ []
      (flag → releaseWaits s v = true → Safety.Waits .gbar s v) ∧
      (flag → some_ → releaseWaits s v = false → Safety.Goes .gbar s v
        (v.act.foldl (fun a l => (arriveGbar (unitLaunchId s v.unit) (agentOf s v l) v.unit a).1) s) (.gbar x.gphase) 0) ∧
      (flag → some_ → releaseWaits s v = false → clocksOn s v.unit = false →
        Safety.Goes .gbar s v (modLaunch s (unitLaunchId s v.unit) fun y => { y with garr := y.garr + v.act.length }) (.gbar x.gphase) 0))

/-! ## Traps -/

/-- R229, R378, Table 15.1: `trap`, `brk` and `halt` raise SWTRAP, BRK and HALT; RET is the address after `trap` and the address of
the others.
R230, Table 16.3: `tret` of threads in their handler clears the mark and sends each to its full saved return address; of any other
it is OPLIM 0AH. -/
def Obligations.SoftwareTrapsAndReturn : Prop :=
  (∀ (c : BitVec 16) (s : State) (v : View),
      (Safety.Issues (.trap c) s v →
        exec (.trap c) s = .next (trapNow s v { precise v 0x01 c.toNat with ret := v.pc + 4 })) ∧
      (Safety.Issues (.brk c) s v → Safety.Traps (.brk c) s v 0x02 c.toNat 0) ∧
      (Safety.Issues .halt s v → Safety.Traps .halt s v 0x31 0 0)) ∧
  (∀ (s : State) (v : View), Safety.Issues .tret s v →
      let saved (l : Nat) : Nat := ((thrOf s v.gid l).map fun t => t.ret.toNat).getD 0
      let marked (l : Nat) : Bool := ((thrOf s v.gid l).map (·.inHandler)).getD false
      let tgts := v.act.map fun l => (l, forwardPc s (unitPart s v.unit) (BitVec.ofNat 48 (saved l)))
      ((∃ l ∈ v.act, marked l = false) → Safety.Traps .tret s v 0x0D 0x0A 0) ∧
      ((∀ l ∈ v.act, marked l = true) → (∀ l ∈ v.act, saved l % 2 = 0) → stagingRoom s v.core (divergent tgts).length = true →
        ∃ t, Safety.Goes .tret s v t (.tret tgts (s.now + 4)) 0 ∧ Safety.onlyGroup s t v.gid ∧
          ∀ l, thrOf t v.gid l = (thrOf s v.gid l).map fun x => if l ∈ v.act then { x with inHandler := false } else x))

/-- R376-R378: a precise trap of threads with a handler parks the group under an empty slot mask with the record of the instruction;
without a handler, or for a cause of 30H and above, the launch halts fatally, and so it does, as NESTED with both records, when a
thread is in its handler. -/
def Obligations.TrapsAreRaised : Prop :=
  ∀ (s : State) (v : View) (t : Trap) (u : UnitSt) (l : Launch), view s v.gid = some v → unitOf s v.unit = some u →
    launchOf s u.launch = some l → l.fatal = none →
    let inHandler := v.act.filter fun x => ((thrOf s v.gid x).map (·.inHandler)).getD false
    (inHandler = [] → (unitFrame s v.unit).traph ≠ 0 → t.word % 256 < 0x30 → ∃ r,
      trapNow s v t = r ∧ Safety.onlyGroup s r v.gid ∧
      view r v.gid = some { v with run := { v.run with trl := 0, status := .parked (.trap t []) } }) ∧
    (inHandler = [] → ((unitFrame s v.unit).traph = 0 ∨ 0x30 ≤ t.word % 256) →
      (∃ v', view (trapNow s v t) v.gid = some v' ∧ v'.run.status = .stopped) ∧
      launchOf (trapNow s v t) u.launch =
        some { l with fatal := some ⟨s.now, v.core, v.wslot, v.act.headD 0, t, none, 0, false, reftick s⟩ } ∧
      (trapNow s v t).agenda = s.agenda ++ [⟨s.now + 16, .fatalStop, .of [u.launch]⟩]) ∧
    (∀ x rest th, inHandler = x :: rest → thrOf s v.gid x = some th →
      launchOf (trapNow s v t) u.launch = some { l with fatal := some ⟨s.now, v.core, v.wslot, v.act.headD 0,
        { word := th.cause.toNat, aux := th.aux, ret := th.ret, ipc := th.ipc, faddr := th.faddr, lanes := 0 },
        some { t with word := t.word / 256 * 256 + 0x30, aux := BitVec.ofNat 32 (t.word % 256) }, 0, false, reftick s⟩ })

/-- R228, R172, R202: at the end of its park the group enters the handler: each active thread saves its return address, cause and
detail and is marked, keeps TRAPMASK, and issues at TRAPH 4 cycles later in a new run. -/
def Obligations.HandlerEntry : Prop :=
  ∀ (s : State) (v : View) (t : Trap) (rets : List (Nat × Pc)), view s v.gid = some v → v.act.Nodup →
    (∀ c w x, v.gid = .warp c w → warpOf s c w = some x → x.spec = none) →
    let r := parkAction s v (.trap t rets)
    (∀ l ∈ v.act, ∀ th, thrOf s v.gid l = some th → thrOf r v.gid l = some { th with
      ret := tabGetD l t.ret rets, cause := BitVec.ofNat 32 t.word, aux := t.aux, ipc := t.ipc, faddr := t.faddr, inHandler := true }) ∧
    (∀ l, l ∉ v.act → thrOf r v.gid l = thrOf s v.gid l) ∧
    (∃ v', view r v.gid = some v' ∧ v'.act = v.act ∧
      v'.pc = forwardPc s (unitPart s v.unit) ((unitFrame s v.unit).traph.setWidth 48) ∧
      v'.run.count = 0 ∧ v'.run.trl = 0 ∧ v'.run.status = .ready (s.now + 4)) ∧
    Safety.onlyGroup s r v.gid

/-! ## Results that become usable -/

/-- R8, R174, R98, R99: in the cycle in which it is due a result becomes the value that its register reads as; the other registers of the
group keep theirs. -/
def Obligations.ResultsLand : Prop :=
  ∀ (s : State) (v : View) (r l d m : Nat) (x : Word), view s v.gid = some v → r < 120 → d < 120 → l < 32 → m < 32 →
    (∀ cl k e, v.gid = .kindle cl k → ejOf s cl k = some e → e.lane = l ∧ Safety.rising e.regs 0) →
    (∀ c w, v.gid = .warp c w → (coreOf s c).store.wf = true) →
    let t := landWrite s v (.x r l x)
    readX t v l r = x ∧ ((d, m) ≠ (r, l) → v.kc = false ∨ m = l → readX t v m d = readX s v m d) ∧
    ∀ due iss, landGroup (modRun s v.gid fun y => { y with pend := [⟨due, iss, .x r l x⟩] }) v.gid =
      if due = s.now then landWrite (modRun s v.gid fun y => { y with pend := [⟨due, iss, .x r l x⟩] })
          { v with run := { v.run with pend := [⟨due, iss, .x r l x⟩] } } (.x r l x)
      else modRun s v.gid fun y => { y with pend := if s.now < due then [⟨due, iss, .x r l x⟩] else [] }

/-! ## Memory -/

/-- R269-R271, R274, R301, R415: `ld`, `ldk` and `omld` make their request when every part of their accesses can be read; the lane
addresses are those of R269, and `ldk` and `omld` access once. While an earlier access of the same threads is still to write a byte that
they read, they come to issue again (R126; how is the model's choice, log 93). -/
def Obligations.LoadsIssue : Prop :=
  ∀ (n : BitVec 2) (z : BitVec 3) (b : BitVec 5) (a d : BitVec 7) (k m : BitVec 6) (o : BitVec 4) (w : BitVec 1) (s : State) (v : View),
    let lanes := v.act.map fun l => (l, Safety.addr s v b.toNat a.toNat l, Safety.sizeOf z)
    let low := v.act.headD 0
    let one := [(low, Safety.addr s v b.toNat a.toNat low, Safety.sizeOf z)]
    let base := (readK s v.unit m.toNat).toNat
    let goes (i : Instr) (accs : Accs) (slot : Nat) (mk : List (List Byte) → ReqKind) : Prop :=
      (behindStore s v accs false = true → Safety.Waits i s v) ∧
      (behindStore s v accs false = false → Safety.reaches s v accs true false →
        Safety.Goes i s v (doLoad s v accs true (some slot) mk) .next 0)
    (Safety.Issues (.ld n z b a d w) s v → goes (.ld n z b a d w) lanes n.toNat
      fun items => .load z.toNat ((v.act.zip items).map fun x => (x.1, d.toNat, x.2))) ∧
    (Safety.Issues (.ldk n z b a k w) s v → goes (.ldk n z b a k w) one n.toNat fun items => .ldk k.toNat z.toNat (items.headD [])) ∧
    (Safety.Issues (.omld m o w) s v → base % 16 = 0 → goes (.omld m o w) [(low, base, 16)] 3 fun items => .omld o.toNat (items.headD [])) ∧
    (Safety.Issues (.omld m o w) s v → base % 16 ≠ 0 → Safety.Traps (.omld m o w) s v 0x14 0 base)

/-- R270, R125, R5, R344: a load that no L1 serves, where no clocks run (log 53) and no place is held at its memory controller, reads the
bytes that memory holds for its context at its issue, however its accesses are cut at pages and lines; it writes no byte of any memory;
its slot counts one more request. -/
def Obligations.LoadsReadMemory : Prop :=
  ∀ (s : State) (v : View) (accs : Accs) (via : Bool) (slot : Nat) (mk : List (List Byte) → ReqKind), view s v.gid = some v →
    Safety.reaches s v accs false false → (via = true → v.kc = true ∨ ∀ c, (coreOf s c).l1w = 0) →
    Safety.unrecorded s v.unit → clocksOn s v.unit = false → s.syncLines = [] → s.memPoison = [] →
    (∀ x ∈ accs, x.2.1 < 2 ^ 64) → (∀ f ∈ fragsOf s v accs, placeHeld s f.place = false) →
    (∀ r, regionOf s v.gid = some r → r.held = []) →
    let t := doLoad s v accs via (some slot) mk
    t.mem = s.mem ∧ t.hostMem = s.hostMem ∧ t.remoteMem = s.remoteMem ∧
    (∀ c, (coreOf t c).store = (coreOf s c).store ∧ (coreOf t c).acc = (coreOf s c).acc) ∧
    (∃ v', view t v.gid = some v' ∧ v'.pc = v.pc ∧ v'.act = v.act ∧
      v'.run = { v.run with slots := v.run.slots.mapIdx fun i n => if i = slot then n + 1 else n }) ∧
    ∃ id q items, tabGet id t.reqs = some q ∧ q.gid = v.gid ∧ q.slot = some slot ∧ q.kind = mk items ∧ s.now ≤ q.due ∧
      items.length = accs.length ∧
      ∀ (i : Nat) x, accs[i]? = some x → ∃ bytes, items[i]? = some bytes ∧ bytes.length = x.2.2 ∧
        ∀ p ∈ piecesOf s v x.2.1 x.2.2 false false, ∀ place ord stamp, p.2.2 = .mem place ord stamp →
          ∀ j < p.2.1, bytes[p.1 - x.2.1 + j]? = some (byteAs s (keyOf s (unitGen s v.unit)) (place.plus j))

/-- R415, R92, R417, Table 17.2: an access of `ld` or `st` that meets ACCESS, PAGE or PERM in some lane is a precise trap: TRAPAUX names
every lane that meets it and FADDR is the address of the lowest. -/
def Obligations.AccessTraps : Prop :=
  ∀ (n : BitVec 2) (z : BitVec 3) (b : BitVec 5) (a d : BitVec 7) (w : BitVec 1) (s : State) (v : View) (code : Nat),
    code = 0x13 ∨ code = 0x11 ∨ code = 0x12 →
    let accs := v.act.map fun l => (l, Safety.addr s v b.toNat a.toNat l, Safety.sizeOf z)
    let hit (r wr : Bool) : List Nat := v.act.filter fun l =>
      (piecesOf s v (Safety.addr s v b.toNat a.toNat l) (Safety.sizeOf z) r wr).any fun p => decide (p.2.2 = .cause code)
    let trap (r wr : Bool) : State := trapNow (dropAnswers s v) v
      (precise v code (maskOf (hit r wr)).toNat (Safety.addr s v b.toNat a.toNat ((hit r wr).headD 0)))
    (Safety.Issues (.ld n z b a d w) s v → Safety.Meets s v accs true false code →
      exec (.ld n z b a d w) s = .next (trap true false)) ∧
    (Safety.Issues (.st n z b a d w) s v → Safety.Meets s v accs false true code →
      exec (.st n z b a d w) s = .next (trap false true))

/-- R273, R274, R294, R57, R415: `st`, `stk` and `dsc` store the low bytes of their registers, or zeros, when every part can be written;
inside a speculative region they are held. They set the count of the spin detector to zero (R51). One whose threads have an earlier access
to these bytes still to come, and one on an SO page whose threads have earlier stores still to act, comes to issue again (R126, R135; how
is the model's choice, logs 91 and 93). -/
def Obligations.StoresIssue : Prop :=
  ∀ (n : BitVec 2) (z : BitVec 3) (b : BitVec 5) (a d : BitVec 7) (k : BitVec 6) (c : BitVec 7) (w : BitVec 1) (s : State) (v : View),
    let bytes (l : Nat) : List Byte := ((List.range 4).flatMap fun i => bytesOf 4 (readX s v l (d.toNat + i)).toNat).take (Safety.sizeOf z)
    let lanes := v.act.map fun l => (l, Safety.addr s v b.toNat a.toNat l, bytes l)
    let low := v.act.headD 0
    let one := [(low, Safety.addr s v b.toNat a.toNat low, bytesOf (Safety.sizeOf z) (readK s v.unit k.toNat).toNat)]
    let zeros := v.act.map fun l => (l, readX2 s v l a.toNat / 32 * 32, List.replicate (32 * (c.toNat + 1)) (0 : Byte))
    let bad := (poisoned s v [(d.toNat, if z = 5 then 2 else if z = 6 then 4 else 1)] v.act).map (·.1)
    let goes (i : Instr) (maj kind : Nat) (slot : Option Nat) (items : List (Nat × Nat × List Byte)) (bad : List Nat) : Prop :=
      let accs : Accs := items.map fun x => (x.1, x.2.1, x.2.2.length)
      let waits : Prop := regionOf s v.gid = none ∧ (∃ f ∈ fragsOf s v accs, f.ord = 1) ∧ releaseWaits s v = true
      Safety.Issues i s v → (behindStore s v accs true = true → Safety.Waits i s v) ∧
        (behindStore s v accs true = false → Safety.reaches s v accs false true →
          (regionOf s v.gid = none → Safety.ownsAll s v accs false) →
          (waits → Safety.Waits i s v) ∧ (¬ waits → Safety.Goes i s v
            (if (regionOf s v.gid).isSome then holdStore (progress s v) v maj items bad slot
              else doStore (progress s v) v items bad kind slot) .next 0))
    goes (.st n z b a d w) 0x25 1 (some n.toNat) lanes bad ∧ goes (.stk n z b a k w) 0x26 1 (some n.toNat) one [] ∧
    goes (.dsc c a w) 0x2D 2 none zeros []

/-- R273, R5, R125: a store of a launch that records nothing, none of whose parts is held at its memory controller (R29, R358), leaves, at
each byte of device memory, the byte of the last of its parts that lies there, and every other byte of device memory as it was; stores of
cores change later, in the access cycle (R453). -/
def Obligations.StoresWriteMemory : Prop :=
  ∀ (s : State) (v : View) (items : List (Nat × Nat × List Byte)) (bad : List Nat) (kind : Nat) (slot : Option Nat),
    Safety.unrecorded s v.unit → s.mem.wf = true →
    let accs : Accs := items.map fun x => (x.1, x.2.1, x.2.2.length)
    let frags := fragsOf s v accs
    let covers (f : Frag) (addr : Nat) : Prop := ∃ a i, f.place = .dev a ∧ i < f.len ∧ storageOf s (a + i) = addr
    let t := doStore s v items bad kind slot
    (∀ f ∈ frags, heldAt s f.place = false) →
    t.mem.wf = true ∧ (∀ addr, (∀ f ∈ frags, ¬ covers f addr) → t.mem.get addr = s.mem.get addr) ∧
    (∀ before f after a i lane va data, frags = before ++ f :: after → f.place = .dev a → i < f.len →
      (∀ g ∈ after, ¬ covers g (storageOf s (a + i))) →
      (∀ j < f.len, storageOf s (a + j) = storageOf s (a + i) → j = i) → items[f.idx]? = some (lane, va, data) →
      f.off + i < data.length → some (t.mem.get (storageOf s (a + i))) = data[f.off + i]?) ∧
    ∀ c, (coreOf t c).store = (coreOf s c).store ∧ (coreOf t c).acc = (coreOf s c).acc

/-- R275, R276, R418: an atomic needs each address aligned to its item, and else is ALIGN; host memory takes only add, exchange and
compare-and-swap of integers. It sets the count of the spin detector to zero (R51), and one that is behind an access of its threads, or a
release behind their stores, comes to issue again (R126, R134; how is the model's choice, logs 91 and 93). -/
def Obligations.AtomicsIssue : Prop :=
  ∀ (f w : BitVec 1) (c : BitVec 3) (o : BitVec 2) (a d : BitVec 7) (x : BitVec 1) (s : State) (v : View),
    let n := if w = 1 then 8 else 4
    let accs := v.act.map fun l => (l, readX2 s v l a.toNat, n)
    let off := v.act.filter fun l => decide (readX2 s v l a.toNat % n ≠ 0)
    let onHost : Prop := ∃ y ∈ accs, ∃ p ∈ piecesOf s v y.2.1 y.2.2 true true, ∃ q h r m, p.2.2 = .mem (.host q h) r m
    let waits : Prop := behindStore s v accs true = true ∨
      releaseWaits s v = true ∧ (o.toNat = 2 ∨ o.toNat = 3 ∨ ∃ f ∈ fragsOf s v accs, f.ord = 1)
    let goes (i : Instr) (op : Nat) (flt : Bool) (carried : Bool) : Prop := Safety.Issues i s v →
      (off = [] → Safety.reaches s v accs true true → waits → Safety.Waits i s v) ∧
      (off = [] → Safety.reaches s v accs true true → ¬ waits → (carried = true ∨ ¬ onHost) →
        Safety.Goes i s v (doAtomic (progress s v) v ⟨op, flt, w == 1, o.toNat, c.toNat, a.toNat, d.toNat⟩ accs) .next 0) ∧
      (off ≠ [] → Safety.Traps i s v 0x14 (maskOf off).toNat (readX2 s v (off.headD 0) a.toNat)) ∧
      (off = [] → Safety.reaches s v accs true true → ¬ waits → carried = false → onHost → ∃ lanes addr, Safety.Traps i s v 0x13 lanes addr)
    goes (.atomAdd f w c o a d x) 0 (f == 1) (f == 0) ∧ goes (.atomMin f w c o a d x) 1 (f == 1) false ∧
    goes (.atomMax f w c o a d x) 2 (f == 1) false ∧ goes (.atomAnd w c o a d x) 3 false false ∧
    goes (.atomOr w c o a d x) 4 false false ∧ goes (.atomXor w c o a d x) 5 false false ∧
    goes (.atomXchg w c o a d x) 6 false true ∧ goes (.atomCas w c o a d x) 7 false true

/-- R275: what an atomic leaves in its item, by operation, for items of 32 and 64 bits; one lane's atomic on a word of device memory
leaves that and gives the old bytes. -/
def Obligations.AtomicResults : Prop :=
  (∀ (wide : Bool) (old c x : Nat), let n := if wide then 64 else 32
    old < 2 ^ n → c < 2 ^ n → x < 2 ^ n →
    let num (y : Nat) : Int := (BitVec.ofNat n y).toInt
    atomNew 0 false wide old c x = (old + x) % 2 ^ n ∧
    num (atomNew 1 false wide old c x) = min (num old) (num x) ∧ num (atomNew 2 false wide old c x) = max (num old) (num x) ∧
    (∀ i, (atomNew 3 false wide old c x).testBit i = (old.testBit i && x.testBit i) ∧
      (atomNew 4 false wide old c x).testBit i = (old.testBit i || x.testBit i) ∧
      (atomNew 5 false wide old c x).testBit i = (old.testBit i ^^ x.testBit i)) ∧
    atomNew 6 false wide old c x = x ∧ atomNew 7 false wide old c x = if old = c then x else old) ∧
  ∀ (s : State) (v : View) (t : Atom) (lane va a ord : Nat), s.memPoison = [] → s.mem.wf = true → t.op < 8 →
    let n := if t.wide then 8 else 4
    (∀ i < n, ∀ j < n, storageOf s (a + i) = storageOf s (a + j) → i = j) →
    let operands := atomOperands s v t lane
    let r := atomFrag s v t lane operands.1 operands.2 ⟨0, 0, va, n, .dev a, ord⟩
    let old := readAs s (unitGen s v.unit) (.dev a) n
    let new := atomNew t.op t.flt t.wide (natOf old) operands.1 operands.2
    r.2.1 = old ∧ r.2.2 = false ∧ readAs r.1 (unitGen s v.unit) (.dev a) n = bytesOf n new ∧ r.1.mem.wf = true ∧
    ∀ addr, (∀ i < n, storageOf s (a + i) ≠ addr) → r.1.mem.get addr = s.mem.get addr

/-- R277, Table 10.3, R127, R136: a fence comes to issue again while an access it waits for is outstanding; then it goes on, and an
acquiring one at cluster scope or wider empties the private L1 of its core. -/
def Obligations.Fences : Prop :=
  ∀ (c : BitVec 3) (w : BitVec 1) (s : State) (v : View),
    let reqs := s.reqs.filter fun x => (x.2.gid = v.gid && x.2.serial = v.serial) || madeBy s v x.2
    let loads : Prop := ∃ x ∈ reqs, x.2.isLoad = true
    let stores : Prop := (∃ x ∈ reqs, x.2.isStore = true ∧ x.2.un = false) ∨ ∃ h ∈ s.toStore, h.gid = v.gid ∧ h.serial = v.serial
    let all : Prop := ∃ x ∈ reqs, x.2.isLoad = true ∨ x.2.isStore = true
    let held : Prop := ∃ h ∈ s.toStore, h.gid = v.gid ∧ h.serial = v.serial
    let settling : Prop := ∃ u, unitOf s v.unit = some u ∧ ∃ o ∈ u.own, s.now < o.from_ ∨ ∃ e, o.until_ = some e ∧ s.now < e
    let fence (i : Instr) (waits : Prop) (acquires : Bool) : Prop := Safety.Issues i s v →
      (waits → Safety.Waits i s v) ∧
      (¬ waits → ∃ t, Safety.Goes i s v t .next 0 ∧ t.mem = s.mem ∧ t.hostMem = s.hostMem ∧ t.remoteMem = s.remoteMem ∧ t.units = s.units ∧
        (∀ d, (coreOf t d).store = (coreOf s d).store ∧ (coreOf t d).warps = (coreOf s d).warps) ∧
        (acquires = false ∨ v.kc = true ∨ c.toNat < 3 → t.cores = s.cores) ∧
        (acquires = true → v.kc = false → 3 ≤ c.toNat → (coreOf s v.core).fused = false → (coreOf t v.core).l1 = []))
    fence (.fenceAcq c w) loads true ∧ fence (.fenceRel c w) (stores ∨ settling) false ∧
    fence (.fenceAr c w) (loads ∨ stores ∨ settling) true ∧ fence (.fenceSc c w) (all ∨ held ∨ settling) true

/-! ## Hints, ownership, records -/

/-- R115, R293, R172: `pfi`, `pfd` and `wbk` raise nothing, take no slot and change no byte of memory.
R295: `lstu` of addresses that are multiples of 4 reads each word and zeroes its sector; others are ALIGN. One lane's, on device
memory, gives the old bytes and leaves 32 zero bytes there and every other byte as it was. -/
def Obligations.HintsAndLoadAndZero : Prop :=
  (∀ (n a : BitVec 7) (w : BitVec 1) (s : State) (v : View),
      let hint (i : Instr) : Prop := Safety.Issues i s v → ∃ t, Safety.Goes i s v t .next 0 ∧ Safety.sameData s t ∧
        (∃ v', view t v.gid = some v' ∧ v'.pc = v.pc ∧ v'.run = v.run) ∧
        (∀ g l, thrOf t g l = thrOf s g l) ∧ ∀ l r, readX t v l r = readX s v l r
      hint (.pfi a w) ∧ hint (.pfd n a w) ∧ hint (.wbk n a w)) ∧
  ((∀ (a d : BitVec 7) (w : BitVec 1) (s : State) (v : View), Safety.Issues (.lstu a d w) s v →
      let accs := v.act.map fun l => (l, readX2 s v l a.toNat, 4)
      let off := v.act.filter fun l => decide (readX2 s v l a.toNat % 4 ≠ 0)
      let waits : Prop := behindStore s v accs true = true ∨ releaseWaits s v = true ∧ ∃ f ∈ fragsOf s v accs, f.ord = 1
      (off = [] → Safety.reaches s v accs true true → Safety.ownsAll s v accs true →
        (waits → Safety.Waits (.lstu a d w) s v) ∧
        (¬ waits → Safety.Goes (.lstu a d w) s v (doLstu (progress s v) v d.toNat accs) .next 0)) ∧
      (off ≠ [] → Safety.Traps (.lstu a d w) s v 0x14 (maskOf off).toNat (readX2 s v (off.headD 0) a.toNat))) ∧
    ∀ (s : State) (v : View) (lane va a ord : Nat), s.mem.wf = true → va % 32 ≤ a →
      let sector (i : Nat) : Nat := storageOf s (a - va % 32 + i)
      let r := lstuFrag s v lane ⟨0, 0, va, 4, .dev a, ord⟩
      r.2.1 = readAs s (unitGen s v.unit) (.dev a) 4 ∧ (∀ i < 32, r.1.mem.get (sector i) = 0) ∧
      ∀ addr, (∀ i < 32, sector i ≠ addr) → r.1.mem.get addr = s.mem.get addr)

/-- R296, R426, R297: `ownreg` and `ownclr` do nothing outside a DETERM launch; inside one they register a range for 4 cycles later,
trap OWN on another unit's range or a seventeenth, and remove ranges by base. `rga` gives the address of a register of each lane and
pins its block. -/
def Obligations.OwnershipAndAddresses : Prop :=
  ∀ (a b : BitVec 6) (n d : BitVec 7) (w : BitVec 1) (s : State) (v : View) (u : UnitSt), unitOf s v.unit = some u →
    let base := (readK s v.unit a.toNat).toNat
    let len := (readK s v.unit b.toNat).toNat
    let bad : Prop := base % 32 ≠ 0 ∨ len % 32 ≠ 0 ∨ len = 0
    let det : Prop := isDeterm s v.unit = true
    (Safety.Issues (.ownreg b a w) s v →
      (bad → Safety.Traps (.ownreg b a w) s v 0x0D 0x0D 0) ∧
      (¬ bad → ¬ det → Safety.Goes (.ownreg b a w) s v s .next 0) ∧
      (¬ bad → det → ∀ lid, otherOwner s v.unit base len = some lid → Safety.Traps (.ownreg b a w) s v 0x16 (lid + 1) base) ∧
      (¬ bad → det → otherOwner s v.unit base len = none → 16 ≤ (u.own.filter fun o => o.until_.isNone).length →
        Safety.Traps (.ownreg b a w) s v 0x16 0 base) ∧
      (¬ bad → det → otherOwner s v.unit base len = none → (u.own.filter fun o => o.until_.isNone).length < 16 →
        Safety.Goes (.ownreg b a w) s v
          (modUnit s v.unit fun x => { x with own := x.own ++ [⟨base, len, s.now + 4, none⟩] }) .next 0)) ∧
    (Safety.Issues (.ownclr a w) s v → ∃ t, Safety.Goes (.ownclr a w) s v t .next 0 ∧ (¬ det → t = s) ∧
      (det → ∃ x, unitOf t v.unit = some x ∧ (∀ o ∈ x.own, o.base = base → o.until_.isSome = true) ∧
        ∀ o ∈ u.own, o.base ≠ base → (∀ e, o.until_ = some e → s.now < e) → o ∈ x.own)) ∧
    (Safety.Issues (.rga n d w) s v → ∃ t v', exec (.rga n d w) s = .next t ∧ view t v.gid = some v' ∧ v'.pc = v.pc + 4 ∧
      v'.run.pend = v.run.pend ++ (v.act.map fun l =>
        ⟨s.now + 4, s.now, .x d.toNat l (BitVec.ofNat 32 (rgaWord s v n.toNat l))⟩) ∧
      (∀ c k, v.gid = .warp c k → ∃ x, warpOf t c k = some x ∧ x.pinned = true) ∧
      ∀ c k l, v.gid = .warp c k → rgaWord s v n.toNat l = v.page * 2048 + n.toNat * 128 + l * 4)

/-- R221-R224, R388, R454: `spawn` pushes a record once its ring has room, `jdec` decrements JOIN by one unless it is 0, `cancel` cancels
a handle of its job; each with the traps of Tables 16.3 and 17.2. -/
def Obligations.RecordInstructions : Prop :=
  ∀ (a : BitVec 6) (w : BitVec 1) (s : State) (v : View) (x : Launch), launchOf s (unitLaunchId s v.unit) = some x →
    let k := (readK s v.unit a.toNat).toNat
    let low := v.act.headD 0
    (Safety.Issues (.spawn a w) s v → Safety.reaches s v [(low, k / 32 * 32, 32)] true false →
      let waits : Prop := releaseWaits s v = true ∨ behindStore s v [(low, k / 32 * 32, 32)] false = true
      (waits ∨ ringFree s x.part x.fn (k % 16) 1 = false → Safety.Waits (.spawn a w) s v) ∧
      (¬ waits → ringFree s x.part x.fn (k % 16) 1 = true →
        let n := (cqOf s x.fn x.queue).spawned
        let p : Push :=
          { fn := x.fn, gen := x.gen, queue := x.queue, handle := memberLaunchHandle x.queue n, graph := x.graph, phase := x.phase,
            pkt := none, spawned := true, capbuf := 0, capsz := 0, capt := false, rply := false }
        let pushed := (pushRecord (releaseLanes s v (obRecord s.fresh) true) x.part (k % 16) (natOf (readNow s v (k / 32 * 32) 32)) p).1
        Safety.Goes (.spawn a w) s v (modInst (modCq pushed x.fn x.queue fun c => { c with spawned := c.spawned + 1 }) x.fn x.owner
          fun i => { i with count := i.count + 1 }) .next 3)) ∧
    (Safety.Issues (.jdec a w) s v →
      (k % 32 ≠ 0 → Safety.Traps (.jdec a w) s v 0x14 0 k) ∧
      (k % 32 = 0 → releaseWaits s v = true → Safety.Waits (.jdec a w) s v) ∧
      (k % 32 = 0 → releaseWaits s v = false → behindStore s v [(low, k + 16, 4)] true = false →
        Safety.reaches s v [(low, k + 16, 4)] true true → Safety.unrecorded s v.unit → ∀ b ord m,
        pieceOf s v (k + 16) 4 true true = .mem (.dev b) ord m → heldAt s (.dev b) = false → s.mem.wf = true → s.memPoison = [] →
        (∀ i < 4, ∀ j < 4, storageOf s (b + i) = storageOf s (b + j) → i = j) →
        ∃ t, Safety.Goes (.jdec a w) s v t .next 3 ∧
          natOf (readAs t (unitGen s v.unit) (.dev b) 4) = natOf (readAs s (unitGen s v.unit) (.dev b) 4) - 1 ∧
          ∀ addr, (∀ i < 4, storageOf s (b + i) ≠ addr) → t.mem.get addr = s.mem.get addr)) ∧
    (Safety.Issues (.cancel a w) s v →
      let h : Word := BitVec.ofNat 32 k
      (handleInJob s v h = false → Safety.Traps (.cancel a w) s v 0x0D 0x0C 0) ∧
      (handleInJob s v h = true → 1 ≤ h.toNat / 2 ^ 29 → Safety.Goes (.cancel a w) s v (cancelHandle s x.fn h) .next 0) ∧
      (handleInJob s v h = true → h.toNat / 2 ^ 29 = 0 → ∀ i y, (s.units.find? fun e => e.2.launch = unitLaunchId s v.unit &&
        e.2.lid = h.toNat % 2 ^ 29) = some (i, y) →
        Safety.Goes (.cancel a w) s v (recount (cancelUnit s i) i (unitLaunchId s v.unit)) .next 0))

/-! ## Tiles and engines -/

/-- R104, R105, R279-R281, Table 4.4: `tget` fills and `tdrn` drains a tile in the state Table 4.4 asks for, `tset` writes an entry without
its reserved bits, `tstat` reads one; each has the OPLIM codes of Table 16.3. -/
def Obligations.TileInstructions : Prop :=
  ∀ (l : BitVec 2) (a d : BitVec 6) (t : BitVec 8) (w : BitVec 1) (s : State) (v : View) (u : UnitSt), unitOf s v.unit = some u →
    u.core = v.core → Safety.rising (coreOf s v.core).tiles 0 → (∀ x ∈ (coreOf s v.core).tsets, x.1 ≤ s.now + 4) →
    let e := tileWord s v.unit t.toNat
    let base := (readK s v.unit a.toNat).toNat
    let new := base % 2 ^ 32
    let inside (x : Nat) : Prop := 128 * (x % 2 ^ 13) + 128 * (x / 2 ^ 13 % 2 ^ 9 + 1) ≤ (unitFrame s v.unit).scratch
    let sent (i : Instr) (st : Nat) (load : Bool) : Prop := ∃ r, Safety.Goes i s v r .next 0 ∧ tileState r v.unit t.toNat = st ∧
      (∃ v', view r v.gid = some v' ∧
        v'.run.slots = v.run.slots.mapIdx fun j n => if j = l.toNat then n + 1 else n) ∧
      (∃ id q, tabGet id r.reqs = some q ∧ q.gid = v.gid ∧ q.slot = some l.toNat ∧ q.isLoad = load ∧ s.now ≤ q.due) ∧
      (load = true → Safety.unrecorded s v.unit → r.mem = s.mem)
    let moves (i : Instr) (st : Nat) (load : Bool) (ready : Bool) : Prop := Safety.Issues i s v → (load = true ∨ releaseWaits s v = false) →
      (u.ntiles ≤ t.toNat → Safety.Traps i s v 0x0D 0x01 0) ∧
      (t.toNat < u.ntiles → ¬ inside e → Safety.Traps i s v 0x0D 0x04 0) ∧
      (t.toNat < u.ntiles → inside e → base % 128 ≠ 0 → Safety.Traps i s v 0x14 0 base) ∧
      (t.toNat < u.ntiles → inside e → base % 128 = 0 → ready = false → Safety.Waits i s v) ∧
      (t.toNat < u.ntiles → inside e → base % 128 = 0 → ready = true →
        Safety.linesReach s v base (e / 2 ^ 13 % 2 ^ 9 + 1) load (!load) → sent i st load)
    moves (.tget l a t w) 1 true (fillReady s v.unit t.toNat) ∧ moves (.tdrn l a t w) 3 false (drainReady s v.unit t.toNat) ∧
    (Safety.Issues (.tset a t w) s v →
      (u.ntiles ≤ t.toNat → Safety.Traps (.tset a t w) s v 0x0D 0x01 0) ∧
      (t.toNat < u.ntiles → ¬ inside new → Safety.Traps (.tset a t w) s v 0x0D 0x04 0) ∧
      (t.toNat < u.ntiles → inside new → new / 2 ^ 26 % 2 = 1 → Safety.Traps (.tset a t w) s v 0x0D 0x05 0) ∧
      (t.toNat < u.ntiles → inside new → new / 2 ^ 26 % 2 = 0 → tileState s v.unit t.toNat % 2 = 1 → Safety.Waits (.tset a t w) s v) ∧
      (t.toNat < u.ntiles → inside new → new / 2 ^ 26 % 2 = 0 → tileState s v.unit t.toNat % 2 = 0 →
        ∃ r, Safety.Goes (.tset a t w) s v r .next 0 ∧ tileNow r v.unit t.toNat = new - new / 2 ^ 22 % 2 ^ 4 * 2 ^ 22 ∧
          (∀ n, s.now + 4 ≤ n → tileWord { r with now := n } v.unit t.toNat = tileNow r v.unit t.toNat) ∧
          (∀ n, s.now ≤ n → n < s.now + 4 → tileWord { r with now := n } v.unit t.toNat = tileWord { s with now := n } v.unit t.toNat) ∧
          (∀ j, j ≠ t.toNat → tileWord r v.unit j = tileWord s v.unit j) ∧ { r with cores := s.cores } = s)) ∧
    (Safety.Issues (.tstat d t w) s v →
      (u.ntiles ≤ t.toNat → Safety.Traps (.tstat d t w) s v 0x0D 0x01 0) ∧
      (t.toNat < u.ntiles → clocksOn s v.unit = false →
        ∃ r, exec (.tstat d t w) s = .next r ∧ Safety.SetsUniform (.tstat d t w) s r v d.toNat (BitVec.ofNat 64 e)))

/-- R142, R283, R284, R286, R404: an engine command enters the queue of the engine of its core, of at most 64, with its operands as they are
at issue, and its slot counts one more; a `cpy` whose source tile is not ready waits, and one with a follow-on needs every lane. -/
def Obligations.EngineCommandsQueue : Prop :=
  ∀ (l : BitVec 2) (a b c : BitVec 6) (w : BitVec 1) (s : State) (v : View),
    let e := v.core / 288 * 4 + v.core / 24 % 12 % 4
    let queue (t : State) : List Nat := ((tabGet e t.engines).map (·.queue)).getD []
    let ctl := readK s v.unit a.toNat
    let K (r : BitVec 6) : Nat := (readK s v.unit r.toNat).toNat
    let follows (op : Nat) : Prop := op = 0 ∧ ctl.getLsbD 58 = true
    let source (op : Nat) : Nat := (if op = 2 then K c else K b) % 256
    let command (i : Instr) (op : Nat) : Prop := Safety.Issues i s v → (follows op → v.act = vlanes s v) →
      let tile : Prop := (op = 0 ∨ op = 2) ∧ ctl.getLsbD 42 = true ∧ source op < unitTiles s v.unit ∧ tileState s v.unit (source op) ≠ 2
      (64 ≤ (queue s).length → Safety.Waits i s v) ∧ (tile → Safety.Waits i s v) ∧
      ((queue s).length < 64 → ¬ tile → ∃ t id x, Safety.Goes i s v t .next 0 ∧ queue t = queue s ++ [id] ∧ tabGet id t.cmds = some x ∧
        x.op = op ∧ x.ctl = ctl ∧ x.src = K b ∧ x.dst = K c ∧ x.slot = l.toNat ∧ x.core = v.core ∧ x.ipc = v.pc ∧ x.phase = 0 ∧
        t.mem = s.mem ∧ t.units = s.units ∧ ∃ v', view t v.gid = some v' ∧ v'.pc = v.pc ∧ (¬ follows op →
          v'.run = { v.run with slots := v.run.slots.mapIdx fun j n => if j = l.toNat then n + 1 else n }))
    command (.cpy l c b a w) 0 ∧ command (.gth l c b a w) 1 ∧ command (.sct l c b a w) 2 ∧ command (.collSet l c b a w) 3 ∧
    command (.collRun l c b a w) 4 ∧
    (Safety.Issues (.cpy l c b a w) s v → ctl.getLsbD 58 = true → v.act ≠ vlanes s v →
      Safety.Traps (.cpy l c b a w) s v 0x0A (maskOf v.act).toNat 0) ∧
    (Safety.Issues (.collStat l c a w) s v →
      let m := commOf s (unitPart s v.unit) ((readK s v.unit a.toNat).toNat % 16)
      let word := m.nrank % 65536 * 2 ^ 48 + m.rank % 65536 * 2 ^ 32 + m.contract % 16 * 2 ^ 28 + m.fmt % 16 * 2 ^ 24 + m.state % 16 * 2 ^ 20 +
        m.runs % 65536
      ∃ t id q, Safety.Goes (.collStat l c a w) s v t .next 0 ∧ tabGet id t.reqs = some q ∧ q.slot = some l.toNat ∧ q.due = s.now + 8 ∧
        q.kind = .kval c.toNat (BitVec.ofNat 64 word) ∧ t.mem = s.mem)

/-! ## The matrix array -/

/-- R305, R309-R312, R399, R405: `mld`, `mswp`, `mswp.rel` and `mst` take the lease and begin: the cycle a load, a swap or a stream
starts in and the cycle its slot returns in, for what the array has under way. -/
def Obligations.LoadsSwapsAndStreamsBegin : Prop :=
  ∀ (l w : BitVec 2) (g a b : BitVec 6) (h : BitVec 3) (e : BitVec 1) (s : State) (v : View) (u : UnitSt), unitOf s v.unit = some u →
    let k := coreOf s v.core
    let m := mapAt s v a.toNat 0
    let n := 2 ^ w.toNat
    let ka := (readK s v.unit a.toNat).toNat
    let kb := (readK s v.unit b.toNat).toNat
    let outside (last slice : Nat) : Prop := tileSize (tileWord s v.unit m.etile) < m.eoff + last * m.pitch + 64 * slice + 64 ∨
      (m.fmt = 11 ∧ tileSize (tileWord s v.unit m.stile) < scaleEnd (m.sbase + last * m.spr + 4 * slice + 3))
    let noTile : Prop := ∃ t ∈ m.tiles, u.ntiles ≤ t
    let badMap : Prop := m.resv ≠ 0 ∨ m.pitch = 0 ∨ ¬ m.fmt ∈ [1, 2, 3, 4, 5, 11]
    let swap := Nat.max (s.now + 1) (Nat.max k.mldEnd k.entryAt)
    let sc := if m.fmt = 11 then n else 0
    let begun := Nat.max s.now (Nat.max k.mldEnd k.swapAt)
    let rn := ka / 256 % 32 + 1
    let f := factorOf (pairSpeed s v.unit k.fmtAct m.fmt)
    let entry := Nat.max s.now (Nat.max k.swapAt (Nat.max (entryFree k f) (pairsFree s v.core (pairsOf s v g.toNat n) - 12)))
    Safety.Array (.mld l w h b a e) s v
      [(0x01, noTile), (0x03, badMap), (0x04, outside (kb % 2 ^ 32 + 32 * n - 1) (ka / 2 ^ 32)), (0x06, speedOf (contractNo s v.unit) m.fmt = 0)]
      m.tiles true
      (∃ t x, Safety.Begins (.mld l w h b a e) s t v l.toNat x ∧ Safety.Ends t x (begun + 11 + sc + 8 * n) .stationaryLoadComplete ∧
        (coreOf t v.core).lease = some v.unit ∧ (coreOf t v.core).mldEnd = begun + 12 + sc + 8 * n ∧ (coreOf t v.core).fmtSh = m.fmt ∧
        x.kind = 0 ∧ x.start = begun ∧ x.base = 32 * h.toNat ∧ x.count = 32 * n ∧ x.slice = ka / 2 ^ 32 ∧ x.src.row0 = kb % 2 ^ 32) ∧
    Safety.Array (.mswp l e) s v [] [] true
      (∃ t x, Safety.Begins (.mswp l e) s t v l.toNat x ∧ Safety.Ends t x swap .planeSwap ∧ x.kind = 1 ∧ (coreOf t v.core).lease = some v.unit ∧
        (coreOf t v.core).swapAt = swap ∧ (coreOf t v.core).fmtAct = k.fmtSh ∧ (coreOf t v.core).fmtSh = k.fmtAct) ∧
    Safety.Array (.mswpRel l e) s v [] [] false
      (∃ t x, Safety.Begins (.mswpRel l e) s t v l.toNat x ∧
        Safety.Ends t x (if k.lease = some v.unit then swap else s.now + 1) .planeSwap ∧ (coreOf t v.core).lease = k.lease ∧
        (k.lease = some v.unit → x.kind = 2)) ∧
    Safety.Array (.mst l w g b a e) s v
      [(0x01, noTile), (0x02, ∃ j < n, holdsGranule u (g.toNat + j) = false), (0x03, badMap ∨ pairAllowed k.fmtAct m.fmt = false),
        (0x04, outside (kb % 2 ^ 32 + (rn - 1)) (ka / 2 ^ 32)), (0x06, pairSpeed s v.unit k.fmtAct m.fmt = 0)]
      m.tiles true
      (∃ t x, Safety.Begins (.mst l w g b a e) s t v l.toNat x ∧ Safety.Ends t x (entry + (rn - 1) * f + 12) .streamComplete ∧
        (coreOf t v.core).lease = some v.unit ∧ (coreOf t v.core).entryAt = entry + (rn - 1) * f + 1 ∧ x.kind = 3 ∧ x.start = entry ∧
        x.f = f ∧ x.count = rn ∧ x.slice = ka / 2 ^ 32 ∧ x.src.row0 = kb % 2 ^ 32 ∧ x.blocks = [pairsOf s v g.toNat n])

/-- R313, R314, R325, R306, R399, R405: `mdr`, `mdr.red` and the row statistics begin in the first cycle their granules allow, and the
slot of a drain or a statistic returns after the cycles of R313 or Table 11.5. -/
def Obligations.DrainsAndStatisticsBegin : Prop :=
  ∀ (l w : BitVec 2) (g a b : BitVec 6) (i : BitVec 8) (c e : BitVec 1) (d : BitVec 7) (s : State) (v : View) (u : UnitSt),
    unitOf s v.unit = some u →
    let m := mapAt s v a.toNat 0
    let n := 2 ^ w.toNat
    let kb := (readK s v.unit b.toNat).toNat
    let phys := (List.range n).map fun j => readPhys s v (g.toNat + j)
    let size := if m.fmt = 0 ∨ m.fmt = 9 then 4 else if m.fmt = 1 ∨ m.fmt = 2 then 2 else 1
    let drain := Nat.max s.now (Nat.max (granuleFree s v.core phys false) (coreOf s v.core).drainEnd)
    let notHeld : Prop := ∃ j < n, holdsGranule u (g.toNat + j) = false
    let con := contractNo s v.unit
    let rows := if c = 1 then 32 else tileSize (tileWord s v.unit i.toNat) / 128
    let f := factorOf (speedOf con 0)
    let stat (ins : Instr) (op latency : Nat) : Prop :=
      let inPlace : Prop := 3 ≤ op ∧ c = 1
      Safety.Array ins s v
        [(0x01, c = 0 ∧ u.ntiles ≤ i.toNat), (0x02, c = 1 ∧ holdsGranule u i.toNat = false), (0x06, speedOf con 0 = 0)]
        (if c = 0 then [i.toNat] else []) false
        (∃ t x, Safety.Begins ins s t v l.toNat x ∧ Safety.Ends t x (x.start + latency) .rowStatComplete ∧ x.kind = 5 ∧ x.op = op ∧
          x.dreg = d.toNat ∧ x.count = rows ∧ x.contract = con ∧ (∀ j < 32, tabGet j x.eps = some (readX s v j d.toNat).toNat) ∧
          (c = 0 → x.start = s.now) ∧
          (c = 1 → ¬ inPlace → x.start = Nat.max s.now (granuleFree s v.core [readPhys s v i.toNat] false)) ∧
          (inPlace → x.start = Nat.max s.now (pairsFree s v.core [writePhys s v i.toNat])))
    Safety.Array (.mdr l w g b a e) s v
      [(0x01, u.ntiles ≤ m.etile), (0x02, notHeld), (0x03, m.resv ≠ 0 ∨ m.pitch = 0 ∨ ¬ m.fmt ∈ [0, 1, 2, 3, 4, 9] ∨ m.ovp = 3),
        (0x04, tileSize (tileWord s v.unit m.etile) < m.eoff + (kb % 2 ^ 32 + 31) * m.pitch + (kb / 2 ^ 32 + 32 * n) * size)]
      [m.etile] false
      (∃ t x, Safety.Begins (.mdr l w g b a e) s t v l.toNat x ∧ Safety.Ends t x (drain + 11 + 8 * n * size) .drainComplete ∧
        (coreOf t v.core).drainEnd = drain + 12 + 8 * n * size ∧ x.kind = 4 ∧ x.start = drain ∧ x.src.row0 = kb % 2 ^ 32 ∧
        x.base = kb / 2 ^ 32 ∧ x.blocks = [phys.map fun p => (p, p)]) ∧
    Safety.Array (.mdrRed l w g b a e) s v
      [(0x02, notHeld), (0x0F, (commOf s (unitPart s v.unit) ((readK s v.unit a.toNat).toNat % 16)).state ≠ 2)] [] false
      (∃ t x, Safety.Begins (.mdrRed l w g b a e) s t v l.toNat x ∧ x.kind = 10 ∧ x.start = Nat.max s.now (granuleFree s v.core phys false) ∧
        x.cid = (readK s v.unit a.toNat).toNat % 16 ∧ x.dest = kb ∧ x.blocks = [phys.map fun p => (p, p)]) ∧
    stat (.rmax l i c d e) 0 (14 + rows * f) ∧ stat (.rsum l i c d e) 1 (14 + rows * f) ∧
    stat (.rvar l i c d e) 2 (if cVar con = 0 then 14 + rows * f else 14 + 2 * rows * f) ∧
    stat (.rsmx l i c d e) 3 (18 + 3 * rows * f) ∧ stat (.rnorm l i c d e) 4 (18 + 3 * rows * f)

/-- R319, R320, R322, R25: `tmm` and `tmm.red` begin a lehr over their maps, whose first request for budget falls in the cycle its load
could start in; where no step is refused and none that asked before still waits, its steps are granted at once. -/
def Obligations.LehrsBegin : Prop :=
  ∀ (l w : BitVec 2) (g a b : BitVec 6) (e : BitVec 1) (s : State) (v : View) (u : UnitSt), unitOf s v.unit = some u →
    let k := coreOf s v.core
    let n := 2 ^ w.toNat
    let ka := (readK s v.unit a.toNat).toNat
    let kb := (readK s v.unit b.toNat).toNat
    let x := mapAt s v a.toNat 0
    let y := mapAt s v a.toNat 4
    let blocks := ka / 2 ^ 8 % 8 + 1
    let ns := ka / 2 ^ 16 % 2 ^ 12
    let s0 := ka / 2 ^ 32
    let cid := ka / 2 ^ 28 % 16
    let outside (m : OMap) (last slice : Nat) : Prop := tileSize (tileWord s v.unit m.etile) < m.eoff + last * m.pitch + 64 * slice + 64 ∨
      (m.fmt = 11 ∧ tileSize (tileWord s v.unit m.stile) < scaleEnd (m.sbase + last * m.spr + 4 * slice + 3))
    let badMap (m : OMap) : Prop := m.resv ≠ 0 ∨ m.pitch = 0 ∨ ¬ m.fmt ∈ [1, 2, 3, 4, 5, 11]
    let limits (red : Bool) : List (Nat × Prop) :=
      [(0x01, ∃ t ∈ x.tiles ++ y.tiles, u.ntiles ≤ t),
        (0x02, g.toNat + blocks * n ≤ 64 ∧ ∃ j < blocks * n, holdsGranule u (g.toNat + j) = false),
        (0x03, badMap x ∨ badMap y ∨ pairAllowed y.fmt x.fmt = false),
        (0x04, outside x (kb % 2 ^ 32 + 32 * blocks - 1) (s0 + ns - 1) ∨ outside y (kb / 2 ^ 32 + 32 * n - 1) (s0 + ns - 1)),
        (0x06, pairSpeed s v.unit y.fmt x.fmt = 0), (0x07, ns = 0 ∨ 64 < g.toNat + blocks * n),
        (0x0F, red = true ∧ (commOf s (unitPart s v.unit) cid).state ≠ 2)]
    let request := Nat.max s.now (Nat.max k.mldEnd k.swapAt)
    let lehr (i : Instr) (red : Bool) : Prop := Safety.Array i s v (limits red) (x.tiles ++ y.tiles) true
      (∃ t o, Safety.Begins i s t v l.toNat o ∧ (coreOf t v.core).lease = some v.unit ∧ o.kind = 6 ∧ o.start = request ∧ o.step = 0 ∧
        o.ns = ns ∧ o.slice = s0 ∧ o.base = 32 * n ∧ o.count = 32 * blocks ∧ o.src.row0 = kb % 2 ^ 32 ∧ o.srcB.row0 = kb / 2 ^ 32 ∧
        o.cid = cid ∧ o.red = red ∧ (red = true → o.dest = (readK s v.unit (b.toNat + 1)).toNat) ∧
        o.blocks = (List.range blocks).map (fun i => pairsOf s v (g.toNat + i * n) n) ∧ o.quanta.length = ns ∧
        (∀ q ∈ o.quanta, q ≤ 32) ∧ (s.quanta = [] → (∀ m ∈ s.matOps, m.2.asks = []) → replays s (unitLaunchId s v.unit) = false →
          ∀ q ∈ o.quanta, q = 0) ∧
        ∃ id, ⟨request, if o.quanta.headD 0 = 0 then .lehrStep else .budgetRetry, .of [id]⟩ ∈ t.agenda ∧ tabGet id t.matOps = some o)
    lehr (.tmm l w g b a e) false ∧ lehr (.tmmRed l w g b a e) true

/-! ## Granules -/

/-- R110-R112, R315, R316, R399: `accget` decides at once and answers 8 cycles later, its granules reading zero; `accget.w` enters the
queue of its core; `accput` gives names up at once and `accz` zeroes one granule a cycle, each once the accesses R306 names are over. -/
def Obligations.GranuleRequests : Prop :=
  ∀ (l w : BitVec 2) (g b : BitVec 6) (e : BitVec 1) (s : State) (v : View) (u : UnitSt), unitOf s v.unit = some u → u.core = v.core →
    let n := 2 ^ w.toNat
    let fr := unitFrame s v.unit
    let named (j : Nat) : Prop := g.toNat ≤ j ∧ j < g.toNat + n
    let notElastic : Prop := g.toNat < fr.accres ∨ fr.accres + fr.accel < g.toNat + n
    let notHeld : Prop := ∃ j < n, holdsGranule u (g.toNat + j) = false
    let free := freeGranules s v.core
    let counted (i : Instr) (t : State) (q : Req) (id : Nat) : Prop := Safety.Goes i s v t .next 0 ∧ tabGet id t.reqs = some q ∧
      q.gid = v.gid ∧ q.slot = some l.toNat ∧ view t v.gid = some { v with run := { v.run with
        slots := v.run.slots.mapIdx fun j k => if j = l.toNat then k + 1 else k } }
    let answered (t : State) (q : Req) (id status : Nat) : Prop :=
      q.due = s.now + 8 ∧ q.kind = .kval b.toNat (BitVec.ofNat 64 status) ∧ ⟨s.now + 8, .loadReturn, .of [id]⟩ ∈ t.agenda
    let names (t : State) (j : Nat) : Option Nat := (unitOf t v.unit).bind fun x => tabGet j x.gmap
    let wanted : List (Nat × Prop) := [(0x08, notElastic ∨ ∃ j < n, holdsGranule u (g.toNat + j) = true)]
    let freed := Nat.max s.now (granuleFree s v.core ((List.range n).filterMap fun j => tabGet (g.toNat + j) u.gmap) true)
    let pairs := (pairsOf s v g.toNat n).map (·.2)
    let zeroed := Nat.max s.now (granuleFree s v.core pairs true)
    Safety.Array (.accget l w g b e) s v wanted [] false
      ((n ≤ (elasticFree s v.core).length → ∃ t q id, counted (.accget l w g b e) t q id ∧ answered t q id 0 ∧
        (∀ j < n, names t (g.toNat + j) = free[j]?) ∧ (∀ j, ¬ named j → names t j = tabGet j u.gmap) ∧
        (∀ j < n, ∀ p, free[j]? = some p → granuleImage (coreOf t v.core) p = []) ∧
        (∀ p, (∀ j < n, free[j]? ≠ some p) → granuleImage (coreOf t v.core) p = granuleImage (coreOf s v.core) p) ∧ t.mem = s.mem) ∧
       ((elasticFree s v.core).length < n → ∃ t q id, counted (.accget l w g b e) t q id ∧ answered t q id 2 ∧ t.units = s.units ∧
        (coreOf t v.core).acc = (coreOf s v.core).acc)) ∧
    Safety.Array (.accgetW l w g b e) s v wanted [] false
      (∃ t q id, counted (.accgetW l w g b e) t q id ∧ q.kind = .nothing ∧ t.units = s.units ∧
        (coreOf t v.core).elq = (coreOf s v.core).elq ++ [⟨v.unit, b.toNat, g.toNat, n, id⟩]) ∧
    Safety.Array (.accput l w g e) s v [(0x08, notElastic), (0x02, notHeld)] [] false
      (∃ t x, Safety.Begins (.accput l w g e) s t v l.toNat x ∧ Safety.Ends t x freed .storeAck ∧ x.kind = 8 ∧
        (∀ j, named j → names t j = none) ∧ ∀ j, ¬ named j → names t j = tabGet j u.gmap) ∧
    Safety.Array (.accz l w g e) s v [(0x02, notHeld)] [] false
      (∃ t x, Safety.Begins (.accz l w g e) s t v l.toNat x ∧ Safety.Ends t x (zeroed + n - 1) .storeAck ∧ x.kind = 7 ∧ x.start = zeroed ∧
        t.units = s.units ∧ x.blocks = [pairs.map fun p => (p, p)])

/-- R317, R306, R399, R400: `accld` and `accst` make one request of 128 bytes a cycle, row by row, from the first cycle their granules and
the drain path allow, and move line i between its address and its granule. -/
def Obligations.GranuleTransfers : Prop :=
  ∀ (l w : BitVec 2) (g a : BitVec 6) (r : BitVec 5) (e : BitVec 1) (s : State) (v : View) (u : UnitSt), unitOf s v.unit = some u →
    let n := 2 ^ w.toNat
    let base := (readK s v.unit a.toNat).toNat
    let stride := (readK s v.unit r.toNat).toNat
    let limits : List (Nat × Prop) :=
      [(0x02, ∃ j < n, holdsGranule u (g.toNat + j) = false), (0x0E, stride % 128 ≠ 0 ∨ stride < 128 * n)]
    let address (i : Nat) : Nat := (base + i / n * stride + 128 * (i % n)) % 2 ^ 64
    let accs : Accs := (List.range (32 * n)).map fun i => (v.act.headD 0, address i, 128)
    let targets := pairsOf s v g.toNat n
    let sources := (List.range n).map fun j => readPhys s v (g.toNat + j)
    let first (free : Nat) : Nat := Nat.max s.now (Nat.max free (coreOf s v.core).drainEnd)
    let live : Prop := replays s (unitLaunchId s v.unit) = false
    (base % 128 ≠ 0 → Safety.Issues (.accld l w g r a e) s v → Safety.Limits (.accld l w g r a e) s v limits ∧
      (Safety.within limits → Safety.Traps (.accld l w g r a e) s v 0x14 0 base)) ∧
    (base % 128 = 0 → Safety.Array (.accld l w g r a e) s v limits [] false
      (behindStore s v accs false = false → Safety.reaches s v accs true false →
        let t0 := first (pairsFree s v.core targets)
        ∃ t x, Safety.Begins (.accld l w g r a e) s t v l.toNat x ∧ Safety.Ends t x x.due .loadReturn ∧ x.kind = 9 ∧ x.start = t0 ∧
          (coreOf t v.core).drainEnd = x.due + 1 ∧ x.lines.length = 32 * n ∧
          ∀ i (h : i < x.lines.length), (x.lines[i]).len = 128 ∧ t0 + i ≤ (x.lines[i]).readAt ∧
            (live → (x.lines[i]).readAt ≤ (x.lines[i]).writeAt ∧ (x.lines[i]).writeAt ≤ x.due) ∧
            (x.lines[i]).dst = .gran v.core v.unit (nth targets (i % n) (0, 0)).2 (128 * (i / n)) ∧
            (x.lines[i]).src = (lineSpot s v (address i) (pieceOf s v (address i) 128 true false)).1)) ∧
    (base % 128 ≠ 0 → Safety.Issues (.accst l w g r a e) s v → Safety.Limits (.accst l w g r a e) s v limits ∧
      (Safety.within limits → Safety.Traps (.accst l w g r a e) s v 0x14 0 base)) ∧
    (base % 128 = 0 → Safety.Array (.accst l w g r a e) s v limits [] false
      (behindStore s v accs true = false → Safety.reaches s v accs false true →
        let t0 := first (granuleFree s v.core sources false)
        ∃ t x, Safety.Begins (.accst l w g r a e) s t v l.toNat x ∧ Safety.Ends t x x.due .storeAck ∧ x.kind = 9 ∧ x.start = t0 ∧
          (coreOf t v.core).drainEnd = x.due + 1 ∧ x.lines.length = 32 * n ∧
          ∀ i (h : i < x.lines.length), (x.lines[i]).len = 128 ∧ (x.lines[i]).readAt = t0 + i ∧ t0 + i ≤ (x.lines[i]).writeAt ∧
            (x.lines[i]).writeAt ≤ x.due ∧ (x.lines[i]).src = .gran v.core v.unit (nth sources (i % n) 0) (128 * (i / n)) ∧
            (x.lines[i]).dst = (lineSpot s v (address i) (pieceOf s v (address i) 128 false true)).1))

/-- R323, R324, R57, R399, R407: `sbeg` opens a region over granules the unit holds; `scmt` exchanges the names of touched pairs and
issues the held stores from the next cycle on; `sdis` zeroes the touched shadows and drops them. SPEC follows after 4 cycles. -/
def Obligations.SpeculativeRegions : Prop :=
  ∀ (w : BitVec 2) (g h : BitVec 6) (e : BitVec 1) (s : State) (v : View) (u : UnitSt) (c k : Nat) (x : Warp),
    v.gid = .warp c k → v.core = c → v.wslot = k → x.unit = v.unit → unitOf s v.unit = some u → warpOf s c k = some x →
    let n := 2 ^ w.toNat
    let speaks (t : State) (y : Warp) (value : Word) : Prop := warpOf t c k = some y ∧
      y.run.pend = x.run.pend ++ [⟨s.now + 4, s.now, .spec value⟩] ∧ t.mem = s.mem ∧ (coreOf t c).store = (coreOf s c).store
    let name (t : State) (j : Nat) : Option Nat := (unitOf t v.unit).bind fun y => tabGet j y.gmap
    let shadows (r : Spec) : List Nat := (List.range r.width).filterMap fun j => tabGet (r.sbase + j) u.gmap
    let writing (r : Spec) : Prop := ∃ m ∈ s.matOps, m.2.writes = true ∧ m.2.gid = v.gid ∧ m.2.serial = v.serial ∧ ∃ b ∈ m.2.blocks, ∃ p ∈ b, p.2 ∈ shadows r
    let touchedShadow (r : Spec) (p : Nat) : Prop := ∃ o ∈ r.touched, tabGet (r.sbase + o) u.gmap = some p
    let storer (d : HeldStore) : View := { v with act := d.items.map (·.1) }
    let parts (d : HeldStore) : Accs := d.items.map fun i => (i.1, i.2.1, i.2.2.length)
    (Safety.Issues (.sbeg w g h e) s v →
      (let bad : Prop := ∃ j < n, holdsGranule u (g.toNat + j) = false ∨ holdsGranule u (h.toNat + j) = false
       (bad → Safety.Traps (.sbeg w g h e) s v 0x0D 0x02 0) ∧
       (¬ bad → ∃ t y, Safety.Goes (.sbeg w g h e) s v t .next 0 ∧ speaks t y (BitVec.ofNat 32 (2 ^ 31 + n * 256 + h.toNat)) ∧
         y.spec = some ⟨g.toNat, n, h.toNat, [], []⟩ ∧ t.units = s.units ∧ (coreOf t c).acc = (coreOf s c).acc))) ∧
    ∀ r, x.spec = some r →
      (Safety.Issues (.scmt e) s v → (writing r → Safety.Waits (.scmt e) s v) ∧
        (¬ writing r → r.touched.Nodup → (∀ o ∈ r.touched, o < r.width) →
          (∀ i < r.width, ∀ j < r.width, r.tbase + i ≠ r.sbase + j) →
          (∀ o ∈ r.touched, (tabGet (r.tbase + o) u.gmap).isSome ∧ (tabGet (r.sbase + o) u.gmap).isSome) →
          (∀ d ∈ r.held, Safety.reaches s (storer d) (parts d) false true ∧ Safety.ownsAll s (storer d) (parts d) false ∧
            behindStore s (storer d) (parts d) true = false) →
          ∃ t y, Safety.Goes (.scmt e) s v t .next 0 ∧ speaks t y 0 ∧ y.spec = none ∧ (coreOf t c).acc = (coreOf s c).acc ∧
            (∀ o ∈ r.touched, name t (r.tbase + o) = tabGet (r.sbase + o) u.gmap ∧ name t (r.sbase + o) = tabGet (r.tbase + o) u.gmap) ∧
            (∀ j, (∀ o ∈ r.touched, j ≠ r.tbase + o ∧ j ≠ r.sbase + o) → name t j = tabGet j u.gmap) ∧
            t.toStore = s.toStore ++ r.held.mapIdx fun i d => ⟨s.now + 1 + i, v.gid, v.serial, v.unit, v.core, v.pc, d,
              fragsOf s (storer d) (parts d), touchesOf s (storer d) (parts d)⟩)) ∧
      (Safety.Issues (.sdis e) s v → (writing r → Safety.Waits (.sdis e) s v) ∧
        (¬ writing r → ∃ t y, Safety.Goes (.sdis e) s v t .next 0 ∧ speaks t y 0 ∧ y.spec = none ∧ t.units = s.units ∧ t.toStore = s.toStore ∧
          (∀ p, touchedShadow r p → granuleImage (coreOf t c) p = []) ∧
          ∀ p, ¬ touchedShadow r p → granuleImage (coreOf t c) p = granuleImage (coreOf s c) p))

/-! ## Events of groups, units and launches -/

/-- R36, R172, R176, R216, R382, R394: what a group waits for happens: its park is over once its results are usable and the slots it waits
for are zero, and its next run starts, with what the slots returned observed; a wait ends on its condition or its time-out and writes
what was met; a hand-over ends; an ejected thread whose turn it is raises EJLIM, and a word that is no instruction ILL. -/
def Obligations.GroupEvents : Prop :=
  (∀ (s : State) (g : Gid) (v : View), view s g = some v → s.subj = .group g →
    let settled : Prop := v.run.usable ≤ s.now ∧ ∀ j < 4, (j = 3 ∨ v.run.trl.getLsbD j = true) → slotCount v.run j = 0
    let free : Prop := frozen s v = false ∧ copied s v = false ∧ isCancelled s v = false ∧ v.run.deferred = []
    let starts (t : State) (pc : Pc) (since : Nat) (observed : Nat → Bool) : Prop :=
      view t g = some { v with pc := pc, run := { v.run with count := 0, trl := 0, status := .ready since
                                                             acqs := v.run.acqs.filter fun a => !observed a.slot } }
    let covered (n : Nat) : Bool := n == 3 || v.run.trl.getLsbD n
    (v.run.status = .parked .next → free → settled → ∃ t, exec .runParkEnd s = .next t ∧ starts t v.pc s.now covered ∧ t.mem = s.mem) ∧
    (∀ pc at_, v.run.status = .parked (.xfer (v.act.map fun l => (l, pc)) at_) → v.act ≠ [] → free → settled →
      (coreOf s v.core).staging.length ≤ 128 → ∃ t, exec .runParkEnd s = .next t ∧ starts t pc (Nat.max s.now at_) covered ∧ t.mem = s.mem) ∧
    (∀ act, v.run.status = .parked act → ¬ settled → exec .runParkEnd s = .next s) ∧
    (∀ all kd conds tmo t0, v.run.status = .waiting all kd conds tmo t0 → frozen s v = false → v.run.deferred = [] →
      let met := (conds.mapIdx fun i c => if condMet s v all c then 2 ^ i else 0).sum
      let slots (n : Nat) : Bool := conds.any fun c => decide (c = .slot n) && condMet s v all c
      let ends (t : State) (flag : Nat) : Prop := starts t v.pc (s.now + 1) slots ∧ unitOf t v.unit = (unitOf s v.unit).map fun u =>
        { u with kpend := u.kpend ++ [⟨s.now + 1, s.now, v.kc, kd, BitVec.ofNat 64 (met + flag)⟩] }
      (exitMet s v all conds = true → ∃ t, exec .waitConditionMet s = .next t ∧ ends t 0) ∧
      (exitMet s v all conds = false → exec .waitConditionMet s = .next s) ∧
      (exitMet s v all conds = false → (tmo = 0 ∨ tmo ≠ 0xFFFFFFFF ∧ tickEnd (t0 + tmo.toNat) ≤ s.now) →
        ∃ t, exec .waitTimeout s = .next t ∧ ends t 16) ∧
      (exitMet s v all conds = false → tmo = 0xFFFFFFFF → exec .waitTimeout s = .next s)) ∧
    ∀ cl k e, g = .kindle cl k → ejOf s cl k = some e →
      (e.run.status = .handover → e.run.usable ≤ s.now → ∃ t y, exec .ejectionHandoverEnd s = .next t ∧ ejOf t cl k = some y ∧
        y.t0 = tickOf s.now ∧ y.pc = e.pc ∧ y.regs = e.regs ∧ y.run.status = .ready s.now) ∧
      (mayIssue s v = true → kindleIssuer s cl (k % 16) = some g → Config.ejlim ≤ tickOf s.now - e.t0 → exec .ejlim s = .next (trapNow s v (precise v 0x20 e.tag)))) ∧
  ∀ (s : State) (g : Gid) (v : View) (enc : Nat), view s g = some v → s.cur = some g → s.subj = .of [enc] → Safety.underFault s g = false →
    exec .illegalEncoding s = .next (trapNow s v (precise v 0x03 enc))

/-- R40, R49, R50, R383, R386: a write-back lands, after which a warp of a cancelled unit stops, a rejoin window closes with the threads still away left vacant, a bin ages, and a drawn bin
becomes a warp with its threads in lanes 0 upward, which issues after two cycles for each word of the longest. -/
def Obligations.RejoinAndBinEvents : Prop :=
  (∀ (s : State) (c w : Nat) (x : Warp), s.subj = .group (.warp c w) → warpOf s c w = some x →
    (∀ tag t0 mode since ready wb, x.run.status = .rejoin tag t0 mode since ready (some wb) → wb.ends = s.now → wb.lane < 32 →
      (∀ p ∈ wb.regs, p.1 < x.bsize) → (wb.regs.map (·.1)).Nodup → (coreOf s c).store.wf = true →
      exec .rejoinWritebackEnd s = .next (if (unitOf s x.unit).any (·.cancelled) then setStatus (landBack s c w) (.warp c w) (.parked .exit)
        else pumpRejoin (landBack s c w) c w) ∧
      (∃ y, warpOf (landBack s c w) c w = some y ∧ (∀ z, x.lanes[wb.lane]? = some z → y.lanes[wb.lane]? = some (⟨.running, some wb.thr, []⟩ : Lane)) ∧
        y.run.status = .rejoin tag t0 mode since ready none) ∧
      ∀ p ∈ wb.regs, (coreOf (landBack s c w) c).store.word (regAddr x.page p.1 wb.lane) = p.2) ∧
    (∀ tag t0 since ready v, view s (.warp c w) = some v → x.run.status = .rejoin tag t0 0 since ready none → frozen s v = false →
      tickEnd (t0 + x.rjw.toNat) ≤ s.now → ∃ t y, exec .rejoinWindowClose s = .next t ∧ warpOf t c w = some y ∧
        y.run.status = .parked .next ∧ y.run.usable = Nat.max x.run.usable (Nat.max ready (s.now + 1)) ∧ (∀ j ∈ y.ejs, j.tag ≠ tag) ∧
        ∀ l z, (openMask x tag).getLsbD l = true → y.lanes[l]? = some z → z.st = .vacant)) ∧
  (∀ (s : State) (core bin : Nat) (b : Bin) (u : UnitSt), s.subj = .of [core, bin] → tabGet bin (coreOf s core).bins = some b →
    unitOf s b.unit = some u → b.aged = false → isDeterm s b.unit = false → u.halted = false →
    (b.opened + u.binage ≤ s.now → ∃ t, exec .binAged s = .next t ∧ tabGet bin (coreOf t core).bins = some { b with aged := true } ∧
      (coreOf t core).warps = (coreOf s core).warps ∧ t.mem = s.mem) ∧
    (s.now < b.opened + u.binage → exec .binAged s = .next s)) ∧
  ∀ (s : State) (core bin reason w page : Nat) (b : Bin), s.subj = .of [core, bin, reason] → drawDue s core = some (bin, reason) →
    tabGet bin (coreOf s core).bins = some b → drawPlace s core b = some (w, page) → b.threads.length ≤ 32 → Safety.unrecorded s b.unit →
    ∃ t y, exec .binDraw s = .next t ∧ warpOf t core w = some y ∧ y.unit = b.unit ∧ y.pc = b.pc ∧ y.page = page ∧
      y.run.status = .ready (s.now + 2 * maxOf (b.threads.map (·.live))) ∧
      (∀ (i : Nat) (f : Filed), b.threads[i]? = some f → y.lanes[i]? = some (⟨.running, some f.thr, []⟩ : Lane)) ∧
      ∀ i, b.threads.length ≤ i → i < 32 → y.lanes[i]? = some (⟨.vacant, none, []⟩ : Lane)

/-- R63, R65, R66, R71, R102, R378: a unit placed on a core holds its threads in warps of 32 that may issue 24 cycles later; a compaction
copies a block after 16 cycles for each page of it; the end of a launch decrements JOIN of its parent; a fatal halt stops every group
16 cycles after its trap and, with no dump buffer, ends the launch as faulted with its units. -/
def Obligations.UnitAndLaunchEvents : Prop :=
  (∀ (s : State) (part l c lid scr tile : Nat) (x : Launch) (f : Frame) (blocks : List Nat), s.subj = .of [part] →
    placeDue s part = some (.place l c lid) → launchOf s l = some x → x.frame = some f → x.capt = false → x.rply = false →
    storeGrant (usedPages (setShare s f c) c) { f with l1w := (coreOf (setShare s f c) c).l1w } = some (scr, blocks) → findTiles (setShare s f c) c f.tiles = some tile →
    blocks.Nodup → (blocks.length ≤ (freeSlots s c).length) → (freeSlots s c).Nodup →
    ∃ t u y, exec .unitPlace s = .next t ∧ unitOf t u = some y ∧ y.launch = l ∧ y.lid = lid ∧ y.core = c ∧ y.left = f.threads ∧
      y.ntiles = f.tiles ∧ y.tileBase = tile ∧ y.scrPage = scr ∧ y.contract = (if f.contract = 0 then 3 else f.contract) ∧
      readK t u 0 = BitVec.ofNat 64 x.frameAddr ∧ readK t u 1 = BitVec.ofNat 64 x.recAddr ∧ (feOf t part).nextPlace = s.now + 4 ∧
      ∀ i page slot, blocks[i]? = some page → (freeSlots s c)[i]? = some slot → ∃ z, warpOf t c slot = some z ∧ z.unit = u ∧ z.page = page ∧
        z.pc = forwardPc s x.part (BitVec.ofNat 48 x.code) ∧ z.run.status = .ready (firstIssue s x f) ∧
        (f.flag 1 = false → firstIssue s x f = s.now + 24) ∧
        ∀ j < 32, 32 * i + j < f.threads → z.lanes[j]? = some (⟨.running, some (Thread.first (32 * i + j)), []⟩ : Lane)) ∧
  (∀ (s : State) (core : Nat) (k : Compact), s.subj = .of [core] → (coreOf s core).compact = some k →
    (compactAct s core = some .stop → ∃ t, exec .compactionMove s = .next t ∧ (coreOf t core).compact = none) ∧
    (∀ w p, compactAct s core = some (.choose w p) →
      ∃ t, exec .compactionMove s = .next t ∧ (coreOf t core).compact = some { k with move := some (w, p, 0) }) ∧
    (∀ w p n, compactAct s core = some (.copy w p n) →
      let ends := s.now + (if k.moves = 0 then 24 else 0) + 16 * n
      ∃ t, exec .compactionMove s = .next t ∧ (coreOf t core).compact = some { k with move := some (w, p, ends) } ∧
        t.agenda = s.agenda ++ [⟨ends, .compactionMoveEnd, .of [core]⟩]) ∧
    (compactAct s core = none → exec .compactionMove s = .next s) ∧
    ∀ w p e x, k.move = some (w, p, e) → e ≠ 0 → e ≤ s.now → warpOf s core w = some x → (coreOf s core).store.wf = true →
      ∃ t y, exec .compactionMoveEnd s = .next t ∧ warpOf t core w = some y ∧ y.page = p ∧ y.pc = x.pc ∧ y.lanes = x.lanes ∧
        ∀ i < 128 * x.bsize, (coreOf t core).store.get (2048 * p + i) = (coreOf s core).store.get (2048 * x.page + i)) ∧
  ∀ (s : State) (l : Nat) (x : Launch), s.subj = .of [l] → launchOf s l = some x →
    (x.status ≠ 0 → ∃ t, exec .joinDecrement s = .next t ∧ t.launches = tabDel l s.launches ∧
      (x.parent = 0 ∨ x.status = 3 → t.mem = s.mem) ∧
      ∀ n, x.parent ≠ 0 → x.status ≠ 3 → vnat s x.gen (x.parent + 16) 4 = some n → n ≠ 0 →
        let w := vput { s with launches := tabDel l s.launches } x.gen (x.parent + 16) 4 (n - 1)
        t.mem = w.mem ∧ t.hostMem = w.hostMem ∧ t.remoteMem = w.remoteMem) ∧
    ∀ f, x.fatal = some f →
      (f.stopped = false → f.cycle + 16 ≤ s.now → (∀ u y, unitOf s u = some y → y.launch = l → y.halted = false) →
        Safety.rising s.units 0 → ∃ t y, exec .fatalStop s = .next t ∧ launchOf t l = some y ∧ y.fatal = some { f with stopped := true } ∧
          ∀ g ∈ launchGroups s l, ∀ v, view t g = some v → v.run.status = .stopped) ∧
      (dumpDue s l = true → dumpBuffer x = 0 → Safety.rising s.units 0 → ∃ t y, exec .dumpWrite s = .next t ∧ launchOf t l = some y ∧
        y.status = 3 ∧ ∀ i u, unitOf t i = some u → u.launch ≠ l)

/-- R113-R116, R270, R333, R376, R390, R416, R419, R443, R444: fetches, walks, host answers and returns. A fetch that may go on asks for
its line; a walk caches what it found; a request that returns writes its result and gives up its slot; one that never does is LOST. -/
def Obligations.FetchWalkAndReturnEvents : Prop :=
  (∀ (s : State) (g : Gid) (v : View), view s g = some v → s.subj = .group g →
    let pc := forwardPc s (unitPart s v.unit) v.pc
    let gen := unitGen s v.unit
    let waits (t : State) : Prop := ∃ v', view t g = some v' ∧ v'.pc = v.pc ∧ s.now < v'.run.nextAt ∧ v'.run.count = v.run.count
    (pc ≠ v.pc → exec .demandFetch s = .next (setPc s g pc)) ∧
    (pc = v.pc → ∀ a x, neededLines s g v = [(a, .request x)] → heldAt s (xlPlace s x (a / 128 * 128 % 2 ^ 48)) = false → ∃ t id f, exec .demandFetch s = .next t ∧ waits t ∧
      tabGet id t.fills = some f ∧ f.cache = cacheOf g ∧ f.gen = gen ∧ f.va = a / 128 * 128 % 2 ^ 48 ∧ t.mem = s.mem ∧
      ⟨f.ends, .icacheFillLand, .of [id]⟩ ∈ t.agenda) ∧
    (pc = v.pc → ∀ a, neededLines s g v = [(a, .walk)] → demandWalk s g gen a = none → walksOf s (dieOf v.core) < 4096 →
      ∃ t id w, exec .demandFetch s = .next t ∧ waits t ∧ tabGet id t.walks = some w ∧ w.gid = g ∧ w.va = a ∧ w.why = 1 ∧
        ⟨w.ends, .translationWalkEnd, .of [id]⟩ ∈ t.agenda) ∧
    (pc = v.pc → ∀ a until_, neededLines s g v = [(a, .wait until_)] → ∃ t, exec .demandFetch s = .next t ∧ waits t) ∧
    ∀ a r rest, pc = v.pc → neededLines s g v = (a, .fail r) :: rest → ∃ t, t.mem = s.mem ∧ t.units = s.units ∧
      exec .demandFetch s = .next (trapNow t v (precise v 0x10 r (if a % 2 ^ 48 = v.pc.toNat then v.pc.toNat else a / 128 * 128)))) ∧
  (∀ (s : State) (id : Nat) (f : Fill), s.subj = .of [id] → tabGet id s.fills = some f →
    (f.ends ≤ s.now → f.held = false → ∃ t x, exec .icacheFillLand s = .next t ∧ x ∈ icacheGet t f.cache ∧ x.gen = f.gen ∧ x.va = f.va ∧
      x.bytes = readAs s f.gen (placeOf s f.pa) 128) ∧
    (s.now < f.ends ∨ f.held = true → exec .icacheFillLand s = .next s)) ∧
  (∀ (s : State) (id : Nat) (w : Walk), s.subj = .of [id] → tabGet id s.walks = some w →
    let free : Prop := w.ends ≤ s.now ∧ ∀ a ∈ (walk s w.gen w.va).2, heldAt s (placeOf s a) = false
    (s.now < w.ends → exec .translationWalkEnd s = .next s) ∧
    (w.ends ≤ s.now → ¬ free → ∃ t, exec .translationWalkEnd s = .next t ∧ tabGet id t.walks = some { w with ends := s.now + 1 } ∧
      t.cores = s.cores ∧ t.mem = s.mem) ∧
    (free → ∀ x, (walk s w.gen w.va).1 = .hit x → x.host = false → w.why ≤ 1 →
      ∃ t, exec .translationWalkEnd s = .next t ∧ x ∈ tlbOf t w.gid ∧ t.mem = s.mem) ∧
    (free → ∀ x v, (walk s w.gen w.va).1 = .hit x → x.host = true → w.why = 0 → view s w.gid = some v →
      ∃ t n q, exec .translationWalkEnd s = .next t ∧ tabGet n t.pageReqs = some q ∧ q.va = w.va ∧ q.gid = w.gid ∧ q.pri = false ∧
        q.refused = false) ∧
    (free → ∀ r, (walk s w.gen w.va).1 = .miss r → w.why ≤ 1 →
      ∃ t, exec .translationWalkEnd s = .next t ∧ tabGet id t.walks = some { w with reason := r } ∧ t.cores = s.cores)) ∧
  (∀ (s : State) (id ok : Nat) (q : PageReq), s.subj = .of [id, ok] → tabGet id s.pageReqs = some q →
    let page (x : Xlate) : Xlate := { x with va := q.va % 2 ^ 48 / 65536 * 65536, size := 65536 }
    let agent : Prop := q.serial = agentSerial
    (agent → q.refused = false → (ok ≠ 1 →
        (q.pri = false → ∃ t, exec .atsTranslationCompletion s = .next t ∧ tabGet id t.pageReqs = some { q with pri := true }) ∧
        (q.pri = true → ∃ t, exec .pageRequestResponse s = .next t ∧ tabGet id t.pageReqs = some { q with refused := true })) ∧
      (ok = 1 → ∀ x, (walk s q.gen q.va).1 = .hit x →
        ∃ t, exec (if q.pri then .pageRequestResponse else .atsTranslationCompletion) s = .next t ∧ tabGet id t.pageReqs = none ∧
          t.hostPages = s.hostPages ++ [{ x with va := pageNo q.va * 65536, size := 65536 }])) ∧
    (¬ agent → q.pri = false → ok ≠ 1 → ∃ t, exec .atsTranslationCompletion s = .next t ∧
      tabGet id t.pageReqs = some { q with refused := true }) ∧
    (¬ agent → q.pri = false → ok = 1 → ∀ x, (walk s q.gen q.va).1 = .hit x → x.host = true →
      ∃ t, exec .atsTranslationCompletion s = .next t ∧ page x ∈ tlbOf t q.gid) ∧
    (¬ agent → q.pri = true → q.refused = false → (∀ c, ctxOf s q.gen = some c → c.halted = false) → q.lanes = 0 →
      (ok ≠ 1 → ∃ t, exec .pageRequestResponse s = .next t ∧ tabGet id t.pageReqs = some { q with refused := true }) ∧
      (ok = 1 → ∀ x, (walk s q.gen q.va).1 = .hit x → x.host = true →
        ∃ t, exec .pageRequestResponse s = .next t ∧ page x ∈ tlbOf t q.gid))) ∧
  ∀ (s : State) (id n : Nat) (q : Req) (v : View), s.subj = .of [id] → tabGet id s.matOps = none → tabGet id s.reqs = some q →
    view s q.gid = some v → v.serial = q.serial → q.slot = some n →
    let slots (r : Run) : Run := { r with slots := r.slots.mapIdx fun j k => if j = n then k - 1 else k }
    let plain : Prop := q.due ≤ s.now ∧ q.holds = [] ∧ q.fills = [] ∧ q.outside = [] ∧ q.acq = 0 ∧ q.fault = none ∧
      isCancelled s v = false ∧ returnsLater s q.unit q.gen = false
    let returns (i : Instr) : Prop := ∀ lane d z bytes, q.kind = .load z [(lane, d, bytes)] → z ≠ 5 → z ≠ 6 → bytes ≠ [] → q.poison = [] →
      v.run.pend = [] → d < 120 → lane < 32 → (∀ c w, v.gid = .warp c w → (coreOf s c).store.wf = true) →
      (∀ cl k e, v.gid = .kindle cl k → ejOf s cl k = some e → e.lane = lane ∧ Safety.rising e.regs 0) →
      ∃ t v', exec i s = .next t ∧ view t q.gid = some v' ∧ v'.pc = v.pc ∧ v'.run = slots v.run ∧
        readX t v lane d = (itemWords z bytes).headD 0 ∧ t.mem = s.mem
    (plain → q.isLoad = true → returns .loadReturn) ∧ (plain → q.isLoad = true → q.isStore = true → returns .atomicComplete) ∧
    (plain → q.kind = .store → ∃ t, exec .storeAck s = .next t ∧ view t q.gid = some { v with run := slots v.run } ∧ t.mem = s.mem ∧
      ∀ c, (coreOf t c).store = (coreOf s c).store) ∧
    (s.now < q.due → exec .loadReturn s = .next s) ∧
    (lostDue s id = true → q.node = none → (∀ x, launchOf s (unitLaunchId s v.unit) = some x → ∀ f, x.fatal = some f → f.stopped = false) →
      ∃ t, exec .requestLost s = .next t ∧ view t q.gid = some { v with run := { slots v.run with
        deferred := v.run.deferred ++ [⟨n, deferredTrap v 0x23 n 0 q.ipc q.lanes, false⟩] } })

/-! ## Events of engines and of the array -/

/-- R105, R284, R285, R289, R290, R363, R410, R411, R438: the head of an engine's queue is refused or begins; a transfer ends with its
completion write, its flag and its slot; a tile becomes ready or empty; a set-up and a run come to their results; a fabric message is
served, or counted when its tag fails. -/
def Obligations.EngineEvents : Prop :=
  let falls (n : Nat) (r : Run) : Run := { r with slots := r.slots.mapIdx fun j k => if j = n then k - 1 else k }
  (∀ (s : State) (e id : Nat) (c : Cmd), s.subj = .of [e] → engineHead s e = some (id, c) → c.phase = 0 → c.op ≤ 2 → c.pkt = none →
    (∀ n v, refusal s c = some n → cmdOwner s c = some v → c.follow = none → returnsLater s c.unit c.gen = false →
      (∀ x, launchOf s (unitLaunchId s v.unit) = some x → ∀ f, x.fatal = some f → f.stopped = false) →
      ∃ t, exec .engineReadsBegin s = .next t ∧ view t c.gid = some { v with run := { falls c.slot v.run with
        deferred := v.run.deferred ++ [⟨c.slot, cmdTrap c 0x0C n 0, false⟩] } } ∧ t.cmds = tabDel id s.cmds ∧ t.mem = s.mem) ∧
    (refusal s c = none → tabGet id s.cmds = some c → mayBegin s c = true →
      ∃ t x, exec .engineReadsBegin s = .next t ∧ tabGet id t.cmds = some x ∧ (x.phase = 1 ∨ x.phase = 4) ∧
        ¬ id ∈ (engineAt t c.engine).queue ∧ x.ctl = c.ctl ∧ t.mem = s.mem) ∧
    (refusal s c = none → tabGet id s.cmds = some c → mayBegin s c = false →
      ∃ t, exec .engineReadsBegin s = .next t ∧ tabGet id t.cmds = some { c with phase := 6 } ∧
        (engineAt t c.engine).queue = (engineAt s c.engine).queue)) ∧
  (∀ (s : State) (id : Nat) (c : Cmd) (v : View), s.subj = .of [id] → tabGet id s.cmds = some c → cmdOwner s c = some v → c.pkt = none →
    c.op ≤ 2 → c.follow = none → c.tile = none → returnsLater s c.unit c.gen = false →
    let flag := c.w2.toNat / 2 ^ 32 % 64
    let flagged (t : State) : Prop := c.uses 1 = true → c.noEvents = false → (feOf t c.part).flags.getLsbD flag = true
    let ended (t : State) : Prop := view t c.gid = some { v with run := falls c.slot v.run } ∧ flagged t ∧ t.mem = s.mem
    (transferOver s c = true → c.trap = none → c.rel = false → (c.uses 0 = false ∨ c.noEvents = true) →
      ∃ t, exec .engineTransferEnd s = .next t ∧ ended t) ∧
    (transferOver s c = true → c.trap = none → c.rel = false → c.uses 0 = true → c.noEvents = false →
      ∀ a ord path, endSpot s c (.va c.w1.toNat) 4 true false = .ok (.mem (.dev a) c.w1.toNat ord, path) → s.mem.wf = true →
        (∀ i < 4, ∀ j < 4, storageOf s (a + i) = storageOf s (a + j) → i = j) →
        ∃ t, exec .engineTransferEnd s = .next t ∧ readPlace t (.dev a) 4 = bytesOf 4 (c.w2.toNat % 2 ^ 32) ∧
          ∃ x, tabGet id t.cmds = some x ∧ x.phase = 2 ∧ x.doneAt = s.now + path) ∧
    (∀ y, transferOver s c = true → c.trap = some y →
      (∀ x, launchOf s (unitLaunchId s v.unit) = some x → ∀ f, x.fatal = some f → f.stopped = false) →
      ∃ t, exec .engineTransferEnd s = .next t ∧ view t c.gid = some { v with run := { falls c.slot v.run with
        deferred := v.run.deferred ++ [⟨c.slot, y, false⟩] } }) ∧
    (transferOver s c = false → exec .engineTransferEnd s = .next s) ∧
    (writeOver s c = true → c.rel = false → ∃ t, exec .completionWriteAck s = .next t ∧ ended t)) ∧
  (∀ (s : State) (id tile : Nat) (q : Req) (u : UnitSt), s.subj = .of [id] → tabGet id s.reqs = some q → unitOf s q.unit = some u →
    q.due ≤ s.now → q.rest = [] → (∀ l ∈ q.lines, l.ackAt ≤ s.now) → q.fault = none → Safety.rising (coreOf s u.core).tiles 0 →
    let entry (t : State) : Nat := tileNow t q.unit tile
    let state (t : State) : Nat := entry t / 2 ^ 26 % 4
    (∀ stamp, q.kind = .tget tile stamp → stamp < 16 → ∃ t, exec .tileFillEnd s = .next t ∧ state t = 2 ∧ tileStamp (entry t) = stamp) ∧
    (q.kind = .tdrn tile → ∃ t, exec .tileDrainEnd s = .next t ∧ state t = 0 ∧ (coreOf t u.core).store = (coreOf s u.core).store)) ∧
  (∀ (s : State) (part cid st id : Nat) (c : Cmd), s.subj = .of [part, cid, st] →
    let key := part * 16 + cid
    let com := tabGetD key Comm.reset s.comms
    let wrong : Prop := ∃ m ∈ com.members, m.setAt.isSome = true ∧ (m.nrank ≠ com.nrank ∨ m.fmt ≠ com.fmt ∨ m.reqc ≠ com.reqc)
    com.setCmd = some id → tabGet id s.cmds = some c → c.phase = 7 → c.comm = key →
      (st = 0 → wrong → ∃ t x, exec .collSetResult s = .next t ∧ tabGet key t.comms = some x ∧ x.state = 3 ∧ x.setCmd = none) ∧
      (st ≠ 0 ∨ ¬ wrong → ∃ t x, exec .collSetResult s = .next t ∧ tabGet key t.comms = some x ∧ x.setCmd = none ∧
        x.mask = maskAnd com.members ∧ (setResult com st).1 = (if st ≠ 0 then st else if x.mask = 0 then 1
          else if com.reqc ≠ 0 ∧ x.mask.testBit com.reqc = false then 2 else 0) ∧
        x.state = (if (setResult com st).1 = 0 then 2 else 3) ∧ x.contract = (setResult com st).2.1)) ∧
  (∀ (s : State) (part cid id : Nat) (c : Cmd), s.subj = .of [part, cid, id] → tabGet id s.cmds = some c → c.phase = 3 → c.op = 3 →
    ctxStops s c.gen = false → ∃ t x, exec .collSetMemberTimeout s = .next t ∧ tabGet (part * 16 + cid) t.comms = some x ∧ x.state = 3 ∧ x.setCmd = none) ∧
  (∀ (s : State) (id : Nat) (c : Cmd), s.subj = .of [id] → tabGet id s.cmds = some c → c.phase = 7 → c.op = 4 →
    let com := tabGetD c.comm Comm.reset s.comms
    let count := c.ctl.toNat % 2 ^ 32
    let sum (i : Nat) : Nat := fabricSum com.contract com.fmt ((List.range com.nrank).map fun r => nth c.values (r * count + i) 0)
    let kind := c.ctl.toNat / 2 ^ 36 % 16
    (∃ t x, exec .fabricReduce s = .next t ∧ tabGet id t.cmds = some x ∧ (kind = 0 → x.values = (List.range count).map sum) ∧
      (kind = 1 → x.values = (List.range (count / Nat.max 1 com.nrank)).map fun i => sum (com.rank * (count / Nat.max 1 com.nrank) + i)) ∧
      (kind = 2 → x.values = c.values) ∧ (2 < kind → x.values = c.values.take count) ∧ t.mem = s.mem) ∧
    (c.trap = none → ∃ t x, exec .collRunComplete s = .next t ∧ tabGet c.comm t.comms = some x ∧ x.runs = (com.runs + 1) % 65536)) ∧
  ∀ (s : State) (m : FabricMsg), s.subj = .message m →
    (m.tagOk = false → ∃ t, exec .fabricMessageReceive s = .next t ∧ t.mem = s.mem ∧
      tabGet (0xEA0 + 8 * (m.port % 24)) t.counts = some (Nat.min (2 ^ 64 - 1) (tabGetD (0xEA0 + 8 * (m.port % 24)) 0 s.counts + 1))) ∧
    (∀ src seq addr len, m.tagOk = true → m.body = .load src seq addr len →
      ∃ t, exec .fabricMessageReceive s = .next t ∧ t.mem = s.mem ∧ l2Has t (addr % 2 ^ 50 / 128) = true) ∧
    let apart (a n : Nat) : Prop := ∀ i < n, ∀ j < n, storageOf s (a + i) = storageOf s (a + j) → i = j
    (∀ src seq addr bytes, m.tagOk = true → m.body = .store src seq addr bytes → bytes ≠ [] → s.mem.wf = true →
      apart (addr % 2 ^ 50) bytes.length →
      ∃ t, exec .fabricMessageReceive s = .next t ∧ readPlace t (.dev (addr % 2 ^ 50)) bytes.length = bytes) ∧
    ∀ src seq addr op flt wide cmp val, m.tagOk = true → m.body = .atomic src seq addr op flt wide cmp val → s.mem.wf = true →
      let p : Place := .dev (addr % 2 ^ 50)
      let n := if wide then 8 else 4
      let old := natOf (readPlace s p n)
      apart (addr % 2 ^ 50) n → poisonedPlace s p n = false → (op = 7 → old = cmp) →
      ∃ t, exec .fabricMessageReceive s = .next t ∧ readPlace t p n = bytesOf n (atomNew op flt wide old cmp val)

/-- R25, R87, R111, R304, R309-R313, R315, R320, R325, R368: the ends of loads, swaps, streams, drains and row statistics; a granted step of a
lehr and a refused one; the return of a first-use trap; the decisions of the elastic pool. -/
def Obligations.ArrayEvents : Prop :=
  (∀ (s : State) (id : Nat) (m : MatOp), s.subj = .of [id] → tabGet id s.matOps = some m → m.due ≤ s.now → m.parent = none → m.bad = none →
    let img (t : State) (p : Nat) : Memory := granuleImage (coreOf t m.core) p
    let here : Prop := savedPlanes s m.core m.unit m.gen = none
    (m.kind = 0 → here → (∀ b ∈ m.rows, b.length = 64) → (coreOf s m.core).shadow.data.wf = true →
      ∃ t, exec .stationaryLoadComplete s = .next t ∧ (coreOf t m.core).shadow.fmt = m.src.fmt ∧
        (coreOf t m.core).shadow.xv = BitVec.ofNat 16 m.src.xv ∧ (coreOf t m.core).act = (coreOf s m.core).act ∧
        (∀ (j : Nat) (b : List Byte) (i : Nat) (x : Byte), m.rows[j]? = some b → b[i]? = some x →
          (coreOf t m.core).shadow.data.get (64 * (m.base + j) + i) = x) ∧
        ∀ a, (a / 64 < m.base ∨ m.base + m.rows.length ≤ a / 64) →
          (coreOf t m.core).shadow.data.get a = (coreOf s m.core).shadow.data.get a) ∧
    (m.kind = 1 → here → ∃ t, exec .planeSwap s = .next t ∧ (coreOf t m.core).act = (coreOf s m.core).shadow ∧
      (coreOf t m.core).shadow = (coreOf s m.core).act ∧ (coreOf t m.core).lease = (coreOf s m.core).lease) ∧
    (m.kind = 2 → here → (coreOf s m.core).lease = some m.unit → ∃ t, exec .planeSwap s = .next t ∧ (coreOf t m.core).lease = none ∧
      (coreOf t m.core).act = (coreOf s m.core).act ∧ (coreOf t m.core).shadow = (coreOf s m.core).shadow) ∧
    (∀ (u : UnitSt) (p : Nat) (b : List Byte) (sc : List Nat), m.kind = 3 → m.count = 1 → m.blocks = [[(p, p)]] → m.rows = [b] → m.scales = [sc] →
      m.src.fmt ≠ 5 → unitOf s m.unit = some u → (∃ g, (g, p) ∈ u.gmap) → p < 64 → (coreOf s m.core).acc.wf = true →
      let a := (sliceNums m.src.fmt m.src.xv (cSubn m.contract) b sc).1
      ∃ t, exec .streamComplete s = .next t ∧ ∀ c < 32, (img t p).nat (4 * c) 4 =
        (rowUpdate m.contract ((img s p).nat (4 * c) 4) a (columnNums m.plane (cSubn m.contract) c).1).1 % 2 ^ 32) ∧
    (m.kind = 4 → m.src.fmt = 0 → (coreOf s m.core).accPoison = [] → 128 * m.blocks.flatten.length ≤ m.src.pitch →
      (coreOf s m.core).store.wf = true → ∃ t, exec .drainComplete s = .next t ∧
        ∀ (r j c p q : Nat), r < 32 → c < 32 → m.blocks.flatten[j]? = some (p, q) →
          (coreOf t m.core).store.nat (m.src.addr + (m.src.row0 + r) * m.src.pitch + 4 * m.base + 128 * j + 4 * c) 4 =
            (granuleOf s m.core m.unit m.gen p).nat (128 * r + 4 * c) 4) ∧
    (∀ (q : Req) (v : View) (c w : Nat), m.kind = 5 → tabGet id s.reqs = some q → view s q.gid = some v → v.serial = q.serial →
      v.gid = .warp c w → v.run.pend = [] → isCancelled s v = false → returnsLater s q.unit q.gen = false → m.dreg < 120 → (coreOf s c).store.wf = true →
      ∃ t, exec .rowStatComplete s = .next t ∧ ∀ (r : Nat) (b : List Byte), r < 32 → m.lanes.getLsbD r = true → m.rows[r]? = some b →
        readX t v r m.dreg = BitVec.ofNat 32 (rowStat m.op m.contract (tabGetD r 0 m.eps)
          ((List.range m.count).map fun i => natOf ((b.drop (4 * i)).take 4))).1)) ∧
  (∀ (s : State) (id : Nat) (m : MatOp), s.subj = .of [id] → tabGet id s.matOps = some m → m.kind = 6 → m.step < m.ns →
    m.start + 16 * m.waited ≤ s.now → (∀ u, unitOf s m.unit = some u → u.halted = false) → id < s.fresh →
    let quanta := nth m.quanta m.step 0
    let loaded := s.now + 11 + (if m.srcB.fmt = 11 then m.base / 32 else 0) + m.base / 4
    let swap := Nat.max (loaded + 1) m.after
    let last := Nat.max swap m.floor + (m.count - 1) * m.f
    let part (t : State) (kind due : Nat) (i : Instr) : Prop := ∃ j x, tabGet j t.matOps = some x ∧ x.kind = kind ∧ x.parent = some id ∧
      x.step = m.step ∧ x.due = due ∧ ⟨due, i, .of [j]⟩ ∈ t.agenda
    (quanta ≤ m.waited → m.bad = none → ∃ t x, exec .lehrStep s = .next t ∧ tabGet id t.matOps = some x ∧ x.step = m.step + 1 ∧
      part t 0 loaded .stationaryLoadComplete ∧ part t 1 swap .planeSwap ∧ part t 3 (last + 12) .streamComplete ∧
      (m.step + 1 < m.ns → ∃ i, ⟨swap, i, .of [id]⟩ ∈ t.agenda ∧ (i = .lehrStep ∨ i = .budgetRetry))) ∧
    (m.waited < quanta → ∀ c w x, m.gid = .warp c w → warpOf s c w = some x → x.serial = m.serial →
      ∃ t y, exec .budgetRetry s = .next t ∧ tabGet id t.matOps = some { m with waited := m.waited + 1 } ∧ warpOf t c w = some y ∧
        y.stallw.toNat = Nat.min 4095 (x.stallw.toNat / 2 ^ 20 + 1) * 2 ^ 20 + x.stallw.toNat % 2 ^ 20 ∧
        t.agenda = s.agenda ++ [⟨s.now + 16, if m.waited + 1 < quanta then .budgetRetry else .lehrStep, .of [id]⟩])) ∧
  ∀ (s : State) (core : Nat), s.subj = .of [core] →
    (∀ f, (coreOf s core).firstUse = some f → f.ends ≤ s.now → ∃ t, exec .firstUseTrapReturn s = .next t ∧
      (coreOf t core).accown = some f.gen ∧ (coreOf t core).firstUse = none ∧ (coreOf t core).acc = (coreOf s core).acc) ∧
    (∀ f, (coreOf s core).firstUse = some f → s.now < f.ends → exec .firstUseTrapReturn s = .next s) ∧
    ∀ (e : ElReq) (q : Req), tabGet e.req s.reqs = some q →
      let told (t : State) (status : Nat) : Prop :=
        tabGet e.req t.reqs = some { q with kind := .kval e.kd (BitVec.ofNat 64 status), due := s.now + 8 } ∧
        ⟨s.now + 8, .loadReturn, .of [e.req]⟩ ∈ t.agenda ∧ ¬ e ∈ (coreOf t core).elq
      (elasticGrantDue s core = some e → ∀ u, unitOf s e.unit = some u → u.core = core → ∃ t, exec .elasticGrant s = .next t ∧ told t 0 ∧
        ∀ j < e.n, ∀ p, (freeGranules s core)[j]? = some p →
          ((unitOf t e.unit).bind fun y => tabGet (e.base + j) y.gmap) = some p ∧ granuleImage (coreOf t core) p = []) ∧
      (elasticRefuseDue s core = some e → ∃ t, exec .elasticRefuse s = .next t ∧ told t 1 ∧ t.units = s.units ∧
        (coreOf t core).acc = (coreOf s core).acc)

/-! ## The host's queues and registers -/

/-- R336-R342, R346, R434, R435: a write of TAIL; taking a packet, which writes HEAD to the host; a refused packet starts and ends in the same
cycle; launch and graph packets push records; signals; copies and code moves queue at an engine; cancel; query; completion. -/
def Obligations.PacketEvents : Prop :=
  (∀ (s : State) (fn q v : Nat), s.subj = .of [fn, q, v] → 0 < fn → fn ≤ 128 → q < 16 →
    let c := cqOf s fn q
    let x : Cq := { c with tail := Nat.max c.tail (v % 2 ^ 64) }
    (c.en = true ∧ c.head + c.size < x.tail → ∃ t, exec .tailWrite s = .next t ∧ cqOf t fn q = { x with err := true } ∧ t.mem = s.mem) ∧
    (¬ (c.en = true ∧ c.head + c.size < x.tail) → ∃ t, exec .tailWrite s = .next t ∧ cqOf t fn q = x ∧ t.mem = s.mem ∧ t.hostMem = s.hostMem)) ∧
  (∀ (s : State) (fn q : Nat), s.subj = .of [fn, q] →
    let c := cqOf s fn q
    (takeDue s fn q = false → exec .packetTake s = .next s) ∧
    (takeDue s fn q = true → (ringPasid s fn = none ∨ s.linkUp = false) →
      ∃ t, exec .packetTake s = .next t ∧ cqOf t fn q = { c with err := true } ∧ t.mem = s.mem) ∧
    ∀ pasid, takeDue s fn q = true → ringPasid s fn = some pasid → s.linkUp = true → Memory.wf (tabGetD pasid [] s.hostMem) = true →
      let bits := natOf (readPlace s (.host pasid (c.base + 64 * (c.head % c.size))) 64)
      let known : Prop := 1 ≤ bits % 256 ∧ bits % 256 ≤ 6
      ∃ t p, exec .packetTake s = .next t ∧ cqOf t fn q = { c with head := c.head + 1, taken := tabPut c.head p c.taken } ∧
        p.bits = BitVec.ofNat 512 bits ∧ readPlace t (.host pasid (c.w1.toNat / 8 * 8)) 8 = bytesOf 8 (c.head + 1) ∧ t.mem = s.mem ∧
        (known → p.started = false ∧ t.agenda = s.agenda) ∧
        (¬ known → p.started = true ∧ p.status = 0x10 ∧ t.agenda = s.agenda ++ [⟨s.now, .packetComplete, .of [fn, q, c.head]⟩])) ∧
  (∀ (s : State) (fn q i : Nat) (p : Packet), s.subj = .of [fn, q, i] → nextStart s fn q = some (i, p) → mayStart s fn q i p = true →
    let part := (fnOf s fn).part
    let takes (t : State) (f : Packet → Packet) : Prop := (cqOf t fn q).taken = tabMod i f (cqOf s fn q).taken
    let ends (t : State) : Prop := ⟨s.now, .packetComplete, .of [fn, q, i]⟩ ∈ t.agenda
    (∀ n, packetRefusal s fn p = some n → ∃ t, exec (packetRow p) s = .next t ∧
      takes t (fun p => { p with started := true, status := n }) ∧ ends t ∧ t.mem = s.mem ∧ t.launches = s.launches) ∧
    ∀ gen, packetRefusal s fn p = none → ctxGen s fn (p.g 2 2) = some gen →
      let started (t : State) (st : Nat) : Prop := takes t fun p => { p with started := true, status := st, gen := some gen }
      let flagIs (t : State) (b : Bool) : Prop := (feOf t part).flags.getLsbD (p.g 9 1) = b ∧
        ∀ j < 64, j ≠ p.g 9 1 → (feOf t part).flags.getLsbD j = (feOf s part).flags.getLsbD j
      let record (t : State) (n : Nat) (x : Launch) : Prop := launchOf t n = some x ∧ x.fn = fn ∧ x.gen = gen ∧ x.part = part ∧ x.queue = q ∧
        x.hq = p.hq ∧ x.status = 0 ∧ x.frame = none
      let tailOf (t : State) : Nat := (tabGetD p.hq (0, []) (feOf t part).rings).1
      (packetRow p = .pktLaunch → p.capt = false → p.rply = false → ∃ t x, exec .pktLaunch s = .next t ∧ started t 0 ∧ t.agenda = s.agenda ∧
        record t s.fresh x ∧ x.handle = packetLaunchHandle q i ∧ x.pkt = some i ∧ x.seq = (feOf s part).seq ∧ x.pri = p.g 0x25 1 ∧
        x.code = p.g 0x08 8 % 2 ^ 48 ∧ x.frameAddr = p.g 0x10 8 % 2 ^ 48 ∧ x.parent = p.g 0x18 8 ∧ x.graph = none ∧
        x.recAddr = ringBase s fn p.hq + 32 * (tailOf s % ringSize s fn p.hq) ∧ tailOf t = tailOf s + 1 ∧
        (feOf t part).seq = ((feOf s part).seq + 1) % 2 ^ 32) ∧
      (packetRow p = .pktGraphSubmit → ∀ images, graphImages s gen p = some images →
        ∃ t, exec .pktGraphSubmit s = .next t ∧ tailOf t = tailOf s + p.g 0x10 4 ∧ (cqOf t fn q).spawned = (cqOf s fn q).spawned + p.g 0x10 4 ∧
          ((∀ j ∈ s.insts, ¬ (j.fn = fn ∧ j.handle = graphHandle q i)) → ∃ g, instOf t fn (graphHandle q i) = some g ∧
            g.count = p.g 0x10 4 ∧ g.closed = true ∧ g.parent = phaseOf s fn q) ∧
          ∀ (k : Nat) (im : Nat), images[k]? = some im → ∃ x, record t (s.fresh + k) x ∧ x.graph = some (graphHandle q i) ∧ x.pkt = none ∧
            x.handle = memberLaunchHandle q ((cqOf s fn q).spawned + k) ∧ x.code = im % 2 ^ 48 ∧ x.frameAddr = fld im 64 48 ∧
            x.parent = if 1 ≤ fld im 192 64 ∧ fld im 192 64 ≤ 1024 then
              (ringBase s fn p.hq + 32 * ((tailOf s + (fld im 192 64 - 1)) % ringSize s fn p.hq)) % 2 ^ 64 else fld im 192 64) ∧
      (packetRow p = .pktSignalSet → ∃ t, exec .pktSignalSet s = .next t ∧ started t 0 ∧ ends t ∧ flagIs t true ∧ t.mem = s.mem) ∧
      (packetRow p = .pktSignalClear → ∃ t, exec .pktSignalClear s = .next t ∧ started t 0 ∧ ends t ∧ flagIs t false ∧ t.mem = s.mem) ∧
      (packetRow p = .pktSignalNothing → ∃ t, exec .pktSignalNothing s = .next t ∧ started t 0 ∧ ends t ∧ t.mem = s.mem ∧ t.fes = s.fes) ∧
      (packetRow p = .pktSignalPhase → (∀ x ∈ s.launches, x.2.part = part → x.2.status = 0 → x.2.capt = false ∧ x.2.rply = false) →
        ∃ t, exec .pktSignalPhase s = .next t ∧ ends t ∧ (cqOf t fn q).phases = (cqOf s fn q).phases + 1 ∧ (feOf t part).phaseAt = s.now ∧
          (feOf t part).groups = [] ∧ (p.g 0x10 8 = 0 → (feOf t part).sched = 0) ∧
          (∀ table, p.g 0x10 8 ≠ 0 → vnat s gen (p.g 0x10 8) 64 = some table → (feOf t part).sched = table ∧
            (feOf t part).active = selectSchedule (feOf s part) table ((cqOf s fn q).phases == 0 || phaseDeterm s fn q i)) ∧
          ((cqOf s fn q).phases = 0 → (feOf t part).active = 0) ∧ t.mem = s.mem) ∧
      (∀ row, packetRow p = row → (row = .pktCopy ∨ row = .pktCodeMove) → ∃ t c, exec row s = .next t ∧ started t 0 ∧ t.agenda = s.agenda ∧
        tabGet s.fresh t.cmds = some c ∧ c.op = (if row = .pktCopy then 5 else 6) ∧ c.src = p.g 0x08 8 ∧ c.dst = p.g 0x10 8 ∧
        c.w3.toNat = p.g 0x18 8 ∧ c.gen = gen ∧ c.pkt = some (fn, q, i) ∧ c.phase = 0 ∧ t.mem = s.mem ∧
        (engineAt t (packetCore s part / 288 * 4)).queue = (engineAt s (packetCore s part / 288 * 4)).queue ++ [s.fresh]) ∧
      (packetRow p = .pktCancel →
        let h := BitVec.ofNat 32 (p.g 0x08 4)
        (¬ (1 ≤ handleLevel h ∧ handleLevel h ≤ 4) → ∃ t, exec .pktCancel s = .next t ∧ started t 0 ∧ ends t ∧ t.launches = s.launches ∧
          t.insts = s.insts ∧ t.mem = s.mem) ∧
        ∀ l x, 1 ≤ handleLevel h → handleLevel h ≤ 4 → launchesUnder s fn h = [l] → launchOf s l = some x → x.cancelled = false → x.fatal = none →
          x.capt = false → x.rply = false → (∀ u ∈ s.units, u.2.launch ≠ l) → x.status = 0 →
          ∃ t y, exec .pktCancel s = .next t ∧ ends t ∧ launchOf t l = some y ∧ y.cancelled = true ∧ y.status = 2) ∧
      (packetRow p = .pktQuery →
        let st := handleState s fn (BitVec.ofNat 32 (p.g 0x08 4))
        (∀ c, serve s gen (p.g 0x10 8) false true = .error c → ∃ t, exec .pktQuery s = .next t ∧ started t 1 ∧ ends t ∧ t.mem = s.mem) ∧
        ∀ a, serve s gen (p.g 0x10 8) false true = .ok (.dev a) → s.mem.wf = true → st.2 < 2 ^ 32 →
          (∀ i < 16, ∀ j < 16, storageOf s (a + i) = storageOf s (a + j) → i = j) →
          ∃ t, exec .pktQuery s = .next t ∧ started t 0 ∧ ends t ∧
            readPlace t (.dev a) 16 = bytesOf 4 st.1 ++ bytesOf 4 st.2 ++ bytesOf 4 (tickOf s.now) ++ bytesOf 4 0)) ∧
  ∀ (s : State) (fn q i j : Nat) (p : Packet), s.subj = .of [fn, q, i] → packetNamed s fn q i = some (j, p) →
    ((p.started = false ∨ packetStatus s fn q j p = none) → exec .packetComplete s = .next s) ∧
    ∀ st, p.started = true → packetStatus s fn q j p = some st → (cqOf s fn q).closing = false →
      ∃ t, exec .packetComplete s = .next t ∧ (cqOf t fn q).taken = tabDel j (cqOf s fn q).taken ∧
        (st ≠ 0 → st ≠ 2 → t.mem = s.mem ∧ ∀ k, (feOf t k).flags = (feOf s k).flags) ∧
        (st = 0 ∨ st = 2 → bit (p.g 0x3C 1) 7 = true → (feOf t (fnOf s fn).part).flags.getLsbD (p.g 0x3C 1 % 64) = true) ∧
        ∀ gen a, (st = 0 ∨ st = 2) → p.gen = some gen → p.g 0x30 8 ≠ 0 → serve s gen (p.g 0x30 8) false true = .ok (.dev a) →
          s.mem.wf = true → (∀ i < 4, ∀ j < 4, storageOf s (a + i) = storageOf s (a + j) → i = j) →
          readPlace t (.dev a) 4 = bytesOf 4 (p.g 0x38 4)

/-- R28, R124, R330-R333, R360-R362: what writes of the host's registers do: the event ring, invalidations, command queues, contexts, forwarding
entries, routes, and the mailbox; a write that the spec does not provide for changes nothing. -/
def Obligations.RegisterEvents : Prop :=
  (∀ (s : State) (fn v : Nat), s.subj = .of [fn, v] →
    (8 < v % 16 → exec .evrbWrite s = .next s) ∧
    (v % 16 ≤ 8 → ∃ t, exec .evrbWrite s = .next t ∧ (fnOf t fn).evrb = BitVec.ofNat 64 (v / 4096 * 4096 + v % 16) ∧ (fnOf t fn).evlost = 0 ∧
      (fnOf t fn).evrt = (fnOf s fn).evrt ∧ t.mem = s.mem)) ∧
  (∀ (s : State) (fn : Nat),
    let page := (fnOf s fn).invva.toNat % 2 ^ 48
    let drops (i : Instr) (x : Nat × Nat × Nat) (mine : Ctx → Prop) (hit : Xlate → Prop) : Prop :=
      ∃ t, exec i s = .next t ∧ (fnOf t fn).inv = (fnOf s fn).inv ++ [x] ∧ t.mem = s.mem ∧ ((fnOf s fn).inv ≠ [] → t.cores = s.cores) ∧
        ∀ core y, (y ∈ (coreOf t core).tlb → y ∈ (coreOf s core).tlb) ∧ (y ∈ (coreOf s core).tlb → ¬ hit y → y ∈ (coreOf t core).tlb) ∧
          ((fnOf s fn).inv = [] → y ∈ (coreOf t core).tlb → ∀ c, ctxOf s y.gen = some c → (fn = 0 ∨ c.fn = fn) → mine c → ¬ hit y)
    (∀ pasid, s.subj = .of [fn, pasid] →
      drops .invPage (0, pasid % 2 ^ 20, page) (fun c => c.pasid = pasid % 2 ^ 20) (fun y => y.va ≤ page ∧ page < y.va + y.size) ∧
      drops .invPasid (1, pasid % 2 ^ 20, page) (fun c => c.pasid = pasid % 2 ^ 20) (fun _ => True)) ∧
    (∀ pasid va, s.subj = .of [fn, pasid, va] →
      let a := va % 2 ^ 48 / 65536 * 65536
      drops .atsInvalidationRequest (4, pasid % 2 ^ 20, a) (fun c => c.pasid = pasid % 2 ^ 20)
        (fun y => y.host = true ∧ y.va ≤ a ∧ a < y.va + y.size)) ∧
    (s.subj = .of [fn] → drops .invFunction (2, 0, page) (fun _ => True) (fun _ => True) ∧
      (invDue s fn = true → ∃ t, exec .invalidationDone s = .next t ∧ (fnOf t fn).inv = (fnOf s fn).inv.tail ∧ t.mem = s.mem) ∧
      (invDue s fn = false → exec .invalidationDone s = .next s))) ∧
  (∀ (s : State) (fn q w : Nat), s.subj = .of [fn, q, w] →
    let c := cqOf s fn q
    let taken : Prop := 0 < fn ∧ fn ≤ 128 ∧ q < 16 ∧ 4 ≤ w % 32 ∧ w % 32 ≤ 16
    let word : DWord := BitVec.ofNat 64 (w / 4096 * 4096 + (if bit w 8 then 256 else 0) + w % 32)
    (bit w 8 = true → (¬ taken ∨ c.en = true) → exec .cqdEnable s = .next s) ∧
    (bit w 8 = true → taken → c.en = false → c.closing = true → ∃ t, exec .cqdEnable s = .next t ∧
      cqOf t fn q = { c with w0 := word, head := 0, tail := 0 } ∧ t.insts = s.insts ∧ t.mem = s.mem) ∧
    (bit w 8 = true → taken → c.en = false → c.closing = false → ∃ t, exec .cqdEnable s = .next t ∧ cqOf t fn q =
        { w0 := word, w1 := c.w1, head := 0, tail := 0, err := false, taken := [], spawned := 0, phases := 0, closing := false } ∧
      instOf t fn (jobHandle q) = some ⟨jobHandle q, fn, 0, 1, false, 0⟩ ∧
      instOf t fn (phaseHandle q 0) = some ⟨phaseHandle q 0, fn, jobHandle q, 0, false, 0⟩ ∧ t.mem = s.mem) ∧
    (bit w 8 = false → ¬ taken → exec .cqdDisable s = .next s) ∧
    (bit w 8 = false → taken → c.en = false → ∃ t, exec .cqdDisable s = .next t ∧ cqOf t fn q = { c with w0 := word }) ∧
    (bit w 8 = false → taken → c.en = true → c.taken = [] → ∃ t, exec .cqdDisable s = .next t ∧
      cqOf t fn q = { c with w0 := word, closing := false, err := false } ∧ t.mem = s.mem) ∧
    (bit w 8 = false → taken → c.en = true → c.taken ≠ [] → c.err = false → ∃ t, exec .cqdDisable s = .next t ∧
      cqOf t fn q = { c with w0 := word, closing := true } ∧ t.mem = s.mem)) ∧
  (∀ (s : State) (fn e : Nat), 0 < fn → fn ≤ 128 → e < 32 → Safety.rising (fnOf s fn).ctx 0 →
    (∀ w, s.subj = .of [fn, e, w] → bit w 63 = true →
      (∀ g, ctxGen s fn e = some g → exec .ctxCreate s = .next s) ∧
      (∀ n, ctxGen s fn e = none → ctxRefusal s fn e = some n → ∃ t, exec .ctxCreate s = .next t ∧ t.ctxs = s.ctxs ∧
        ctxWord t fn e 0 = fld w 38 2 * 2 ^ 38 + fld w 0 20 ∧ t.mem = s.mem) ∧
      (ctxGen s fn e = none → ctxRefusal s fn e = none → (fnOf s fn).keyid < 256 → ∃ t g c, exec .ctxCreate s = .next t ∧ g < 256 ∧
        ctxOf s g = none ∧ (∀ k < g, ctxOf s k ≠ none) ∧ ctxOf t g = some c ∧ c.fn = fn ∧ c.entry = e ∧ c.pasid = fld w 0 20 ∧
        c.ptroot = ctxWord s fn e 1 ∧ c.slim = ctxWord s fn e 2 ∧ c.saveb = ctxWord s fn e 3 ∧ c.keyid = (fnOf s fn).keyid ∧
        c.hord = fld w 38 2 ∧ c.dying = false ∧ c.halted = false ∧ t.mem = s.mem ∧
        ctxWord t fn e 0 = 2 ^ 63 + g * 2 ^ 48 + (fnOf s fn).keyid * 2 ^ 40 + fld w 38 2 * 2 ^ 38 + fld w 0 20)) ∧
    (s.subj = .of [fn, e] → ∀ g c, ctxGen s fn e = some g → ctxOf s g = some c → ∃ t, exec .ctxDestroy s = .next t ∧
      ctxOf t g = some { c with dying := true } ∧ bit (ctxWord t fn e 0) 63 = false ∧ t.mem = s.mem)) ∧
  (∀ (s : State) (g : Nat), s.subj = .of [g] → Safety.rising s.ctxs 0 →
    (destroyDue s g = false → exec .contextDestroyDone s = .next s) ∧
    (destroyDue s g = true → ∃ t, exec .contextDestroyDone s = .next t ∧ ctxOf t g = none ∧ t.mem = s.mem ∧
      ∀ c, (coreOf t c).accown ≠ some g ∧ (∀ x ∈ (coreOf t c).tlb, x.gen ≠ g) ∧ ∀ x ∈ (coreOf t c).icache, x.gen ≠ g)) ∧
  (∀ (s : State) (fn e : Nat), s.subj = .of [fn, e] → fn ≠ 0 →
    (∀ f, tabGet e (fnFe s fn).fwd = some f → f.active = true →
      ∃ t, exec .fwdRemove s = .next t ∧ (fnFe t fn).fwd = tabDel e (fnFe s fn).fwd ∧ t.mem = s.mem) ∧
    ((∀ f, tabGet e (fnFe s fn).fwd = some f → f.active = false) → exec .fwdRemove s = .next s)) ∧
  (∀ (s : State) (node v : Nat), s.subj = .of [node, v] →
    (16384 ≤ node → exec .routeWrite s = .next s) ∧
    (node < 16384 → ∃ t, exec .routeWrite s = .next t ∧ tabGet node t.routesPending = some (BitVec.ofNat 32 (v % 2 ^ 28)) ∧ t.routes = s.routes)) ∧
  (∀ (s : State) (node : Nat), s.subj = .of [node] →
    (∀ w, tabGet node s.routesPending = some w → nodeAsked s node = false → Safety.rising s.routes 0 → Safety.rising s.routesPending 0 →
      ∃ t, exec .routeTakeEffect s = .next t ∧ tabGetD node 0 t.routes = w ∧ tabGet node t.routesPending = none) ∧
    ((tabGet node s.routesPending = none ∨ nodeAsked s node = true) → exec .routeTakeEffect s = .next s)) ∧
  ∀ (s : State) (fn off size v : Nat), s.subj = .of [fn, off, size, v] →
    let f := fnOf s fn
    (128 < fn → exec .registerWrite s = .next s) ∧
    (fn ≤ 128 → v < 2 ^ 64 →
      (off = 0x108 → size = 8 → ∃ t, exec .registerWrite s = .next t ∧ fnOf t fn = { f with evrh := BitVec.ofNat 64 v }) ∧
      (off = 0x180 → size = 8 → ∃ t, exec .registerWrite s = .next t ∧
        fnOf t fn = { f with invva := BitVec.ofNat 64 (v / 65536 * 65536) }) ∧
      (off = 0x40 ∨ off = 0x48 → size = 8 → exec .registerWrite s = .next s) ∧
      (∀ h, fn ≠ 0 → h < 16 → off = 0x300 + 16 * h → size = 8 →
        (6 ≤ v % 32 → v % 32 ≤ 16 → ∃ t, exec .registerWrite s = .next t ∧ hqdWord t fn h 0 = v / 4096 * 4096 + v % 32) ∧
        ((v % 32 < 6 ∨ 16 < v % 32) → exec .registerWrite s = .next s)) ∧
      (∀ m, off = 0x2000 + m → m + size ≤ 0x40 →
        (f.busy = true → exec .registerWrite s = .next s) ∧
        (f.busy = false → f.cmd.wf = true → ∃ t, exec .registerWrite s = .next t ∧ (fnOf t fn).cmd.read m size = bytesOf size v)) ∧
      (off = 0x2040 → size ≠ 0 → (f.busy = true ∨ v ≠ 1) → exec .registerWrite s = .next s) ∧
      (off = 0x2040 → size ≠ 0 → f.busy = false → v = 1 → ∃ t, exec .registerWrite s = .next t ∧ (fnOf t fn).busy = true ∧
        t.agenda = s.agenda ++ [⟨s.now, commandRow s fn, .of [fn]⟩]))

/-! ## The Crucible and the module -/

/-- R345, R347, R348, R350, R354: the commands that a VF or the PF may give; each ends with its result, and the named data stands in DATA or
in the machine. A command that is not in the mailbox, or whose turn it is not, changes nothing. -/
def Obligations.MailboxCommands : Prop :=
  ∀ (s : State) (fn : Nat), s.subj = .of [fn] →
    let f := fnOf s fn
    let due (op : Nat) : Prop := cmdDue s fn (· == op) = true
    let absent (op : Nat) : Prop := cmdDue s fn (· == op) = false
    let told (t : State) (n : Nat) : Prop := (fnOf t fn).busy = false ∧ (fnOf t fn).result = n ∧ t.mem = s.mem
    let ends (i : Instr) (n : Nat) : Prop := ∃ t, exec i s = .next t ∧ told t n
    let bytes := f.data.read 0x100 0xF00
    (∀ op i, (op, i) ∈ ([(1, .policy), (2, .attest), (3, .keys), (4, .openCmd), (0x10, .sched), (0x11, .pause), (0x12, .evict), (0x13, .resume),
        (0x14, .kill), (0x15, .move), (0x16, .retireCluster), (0x16, .retireChannelPair), (0x17, .counts), (0x17, .countsClear)] :
        List (Nat × Instr)) → absent op → exec i s = .next s) ∧
    (∀ op i, (op, i) ∈ ([(0x10, .sched), (0x11, .pause), (0x12, .evict), (0x13, .resume), (0x14, .kill), (0x15, .move), (0x16, .retireCluster),
        (0x16, .retireChannelPair), (0x17, .counts), (0x17, .countsClear)] : List (Nat × Instr)) → due op → fn ≠ 0 → ends i 1) ∧
    (due 1 → fn = 0 → ends .policy 1) ∧ (due 3 → fn = 0 → ends .keys 1) ∧ (due 4 → fn = 0 → ends .openCmd 1) ∧
    (due 1 → fn ≠ 0 →
      let vf := (readPolicy bytes).1
      let p := (readPolicy bytes).2
      (Config.sigOk p.key bytes = false → ends .policy 2) ∧
      (Config.sigOk p.key bytes = true → vf ≠ fn → ends .policy 4) ∧
      (Config.sigOk p.key bytes = true → vf = fn → (∃ q, f.policy = some q ∧ q.key ≠ p.key) → ends .policy 1) ∧
      (Config.sigOk p.key bytes = true → vf = fn → (∀ q, f.policy = some q → q.key = p.key) →
        ∃ t, exec .policy s = .next t ∧ told t 0 ∧ (fnOf t fn).policy = some p ∧
          (fnOf t fn).vf = (if f.vf = .idle then .ready else f.vf))) ∧
    (due 2 → f.data.wf = true → ∃ t, exec .attest s = .next t ∧ told t 0 ∧ (fnOf t fn).ephemeral = some s.fresh ∧
      (fnOf t fn).data.read 0x100 8 = bytesOf 8 (regWord s fn 0) ∧ (fnOf t fn).data.read 0x108 64 = f.data.read 0x100 64 ∧
      (∀ p, f.policy = some p → (fnOf t fn).data.read 0x1C8 64 = freeBytes 64 (Config.sha512 p.block)) ∧
      (f.policy = none → (fnOf t fn).data.read 0x1C8 64 = List.replicate 64 0)) ∧
    (due 3 → fn ≠ 0 → (f.vf = .idle → ends .keys 3) ∧ (f.vf ≠ .idle → f.ephemeral = none → ends .keys 2) ∧
      ∀ e, f.vf ≠ .idle → f.ephemeral = some e → (Config.keysOk e bytes = false → ends .keys 2) ∧
        (Config.keysOk e bytes = true → (freeKey s fn = none → ends .keys 3) ∧
        ∀ k, freeKey s fn = some k → ∃ t, exec .keys s = .next t ∧ told t 0 ∧ (fnOf t fn).keyid = k ∧ 0 < k ∧ k < 256 ∧
          (fnOf t fn).ephemeral = none ∧ tabGet k t.keys = some (Config.unwrapped 0 e bytes, Config.unwrapped 1 e bytes) ∧
          (∀ x ∈ s.ctxs, x.2.keyid ≠ k) ∧ ∀ x ∈ s.fns, x.1 ≠ fn → x.2.keyid ≠ k)) ∧
    (due 4 → fn ≠ 0 → let h := f.cmd.nat 8 8
      (∀ r, s.reports.find? (fun r => r.fn = fn && r.handle = h) = some r → f.data.wf = true →
        ∃ t, exec .openCmd s = .next t ∧ told t 0 ∧ (fnOf t fn).data.read 0x100 (min r.bytes.length 0xF00) = r.bytes.take 0xF00) ∧
      ((∀ r ∈ s.reports, ¬ (r.fn = fn ∧ r.handle = h)) → (∀ b ∈ s.blobs, ¬ (b.fn = fn ∧ b.handle = h)) → ends .openCmd 4)) ∧
    (fn = 0 → due 0x17 → f.data.wf = true →
      let copied (t : State) : Prop := ∀ i < 480, (fnOf t 0).data.read (0x100 + 8 * i) 8 = bytesOf 8 (tabGetD (0x100 + 8 * i) 0 s.counts)
      (bit (f.cmd.nat 1 1) 0 = false → ∃ t, exec .counts s = .next t ∧ told t 0 ∧ copied t ∧ t.counts = s.counts) ∧
      (bit (f.cmd.nat 1 1) 0 = true → ∃ t, exec .countsClear s = .next t ∧ told t 0 ∧ copied t ∧ t.counts = [])) ∧
    (f.busy = true → commandRow s fn = .unknownCommand → ends .unknownCommand 4) ∧
    (f.busy = false → exec .unknownCommand s = .next s)

/-- R82, R83, R85, R352: SCHED, PAUSE, EVICT, RESUME and KILL refuse a VF that is not named or not in the state they need; else they begin
or make the change of state, and the halt or the placement they began ends the command. -/
def Obligations.VirtualFunctionCommands : Prop :=
  (∀ (s : State), s.subj = .of [0] →
    let due (op : Nat) : Prop := cmdDue s 0 (· == op) = true
    let told (t : State) (n : Nat) : Prop := (fnOf t 0).busy = false ∧ (fnOf t 0).result = n
    let ends (i : Instr) (n : Nat) : Prop := ∃ t, exec i s = .next t ∧ told t n ∧ t.mem = s.mem
    let v := (fnOf s 0).cmd.nat 1 1
    let part := (fnOf s v).part
    let named : Prop := v ≠ 0 ∧ v ≤ 128 ∧ (fnOf s v).vf ≠ .idle
    let halts (t : State) (fn : Nat) : Prop := ∀ g c, ctxOf s g = some c → c.fn = fn → ∃ y, ctxOf t g = some y ∧ y.halted = true
    (∀ op i, (op, i) ∈ ([(0x10, .sched), (0x11, .pause), (0x12, .evict), (0x13, .resume), (0x14, .kill)] : List (Nat × Instr)) → due op →
      (v = 0 ∨ 128 < v → ends i 4) ∧ (v ≠ 0 → v ≤ 128 → (fnOf s v).vf = .idle → ends i 3)) ∧
    (due 0x10 → named → ((fnOf s v).vf = .evicted → ends .sched 3) ∧ ((fnOf s v).vf ≠ .evicted →
      ((feOf s part).vf = none → ∃ t, exec .sched s = .next t ∧ (feOf t part).vf = some v ∧ (fnOf t v).vf = .running ∧
        t.pfBusy = s.pfBusy ++ [(0, v)] ∧ t.mem = s.mem) ∧
      ((feOf s part).vf = some v → ∃ t, exec .sched s = .next t ∧ t.pfBusy = s.pfBusy ++ [(0, v)] ∧ t.mem = s.mem) ∧
      ∀ u, (feOf s part).vf = some u → u ≠ v → ∃ t, exec .sched s = .next t ∧ t.pfBusy = s.pfBusy ++ [(1, u), (0, v)] ∧ halts t u)) ∧
    (due 0x11 → named → ((fnOf s v).vf = .running → ∃ t, exec .pause s = .next t ∧ t.pfBusy = s.pfBusy ++ [(1, v)] ∧ halts t v) ∧
      ((fnOf s v).vf = .paused → ends .pause 0) ∧ ((fnOf s v).vf ≠ .running → (fnOf s v).vf ≠ .paused → ends .pause 3)) ∧
    (due 0x12 → named → ((fnOf s v).vf ≠ .paused → ends .evict 3) ∧ ((fnOf s v).vf = .paused →
      ((∀ p, (fnOf s v).policy = some p → ¬ (p.evict = true ∧ Config.blobSize s.fresh ≤ p.maxBlob)) → ends .evict 1) ∧
      ∀ p, (fnOf s v).policy = some p → p.evict = true → Config.blobSize s.fresh ≤ p.maxBlob → ∃ t, exec .evict s = .next t ∧ told t 0 ∧
        (fnOf t v).vf = .evicted ∧ (∀ g ∈ fnGens s v, ctxOf t g = none) ∧ ∃ b ∈ t.blobs, b.fn = v ∧ b.handle = s.fresh)) ∧
    (due 0x13 → named →
      let free : Prop := ((fnOf s v).vf = .ready ∨ (fnOf s v).vf = .evicted) ∧ fnGens s v = []
      let handle := (fnOf s 0).cmd.nat 16 8
      (¬ free → ends .resume 3) ∧
      (free → (∀ b ∈ s.blobs, ¬ (b.fn = v ∧ b.handle = handle)) → ends .resume 4) ∧
      ∀ b, free → s.blobs.find? (fun b => b.fn = v && b.handle = handle) = some b →
        let sound : Prop := s.linkUp = true ∧ readPlace s (.host noPasid ((fnOf s 0).cmd.nat 8 8)) b.size = blobBytes s b
        let tags := newTags s (b.ctxs.map (·.1))
        (¬ sound → ends .resume 2) ∧ (sound → tags.length < b.ctxs.length → ends .resume 3) ∧
        (sound → b.ctxs.length ≤ tags.length → (feOf s part).vf = none → ∃ t, exec .resume s = .next t ∧ (fnOf t v).vf = .running ∧
          (feOf t part).vf = some v ∧ t.pfBusy = s.pfBusy ++ [(0, v)] ∧ ∀ x ∈ b.ctxs, ctxOf t (tagOf tags x.1) ≠ none)) ∧
    (due 0x14 → named → ∃ t, exec .kill s = .next t ∧ told t 0 ∧ (fnOf t v).vf = .ready ∧ ∀ g ∈ fnGens s v, ctxOf t g = none)) ∧
  (∀ (s : State),
    (pfNext s = none → exec .crucibleCommandDone s = .next s) ∧
    (∀ v, pfNext s = some (0, v) → ∃ t, exec .crucibleCommandDone s = .next t ∧ t.pfBusy = s.pfBusy.erase (0, v) ∧ t.mem = s.mem ∧
      ((∀ x ∈ s.pfBusy.erase (0, v), 2 ≤ x.1) → (fnOf t 0).busy = false ∧ (fnOf t 0).result = 0)) ∧
    ∀ u, u ≠ 0 → s.pfBusy = [(1, u)] → fnDrained s u = true → ∃ t, exec .crucibleCommandDone s = .next t ∧ t.pfBusy = [] ∧
      (fnOf t u).vf = .paused ∧ (feOf t (fnOf s u).part).vf = none ∧ (fnOf t 0).busy = false ∧ (fnOf t 0).result = 0 ∧ t.mem = s.mem) ∧
  ∀ (s : State) (fn : Nat), s.subj = .of [fn] →
    (resumeDue s fn = false → exec .contextResume s = .next s) ∧
    ∀ g c, resumeDue s fn = true → heldGens s fn = [g] → ctxOf s g = some c → c.replays = [] → (∀ m ∈ s.matOps, m.2.gen ≠ g) →
      (∀ x ∈ s.cmds, x.2.gen ≠ g) → ∃ t y, exec .contextResume s = .next t ∧ ctxOf t g = some y ∧
        y.halted = false ∧ y.saved = [] ∧ y.slots = [] ∧ y.fn = c.fn ∧ y.ptroot = c.ptroot ∧ y.pasid = c.pasid

/-- R28, R349, R350, R355, R357, R358, R432: moves of slices, retirement, module reset and readiness. -/
def Obligations.ModuleEvents : Prop :=
  (∀ (s : State), s.subj = .of [0] →
    let due (op : Nat) : Prop := cmdDue s 0 (· == op) = true
    let told (t : State) (n : Nat) : Prop := (fnOf t 0).busy = false ∧ (fnOf t 0).result = n ∧ t.mem = s.mem
    let ends (i : Instr) (n : Nat) : Prop := ∃ t, exec i s = .next t ∧ told t n
    let b1 := (fnOf s 0).cmd.nat 1 1
    let n := (fnOf s 0).cmd.nat 2 2
    let rest := (fnOf s 0).cmd.nat 4 60
    (due 0x15 → let p := (fnOf s b1).part
      let held : Prop := b1 ≠ 0 ∧ b1 ≤ 128 ∧ n ∈ slicesOf s p
      (¬ held → ends .move 4) ∧ (held → (partEntry s p).moveOk = false → ends .move 1) ∧
      (held → (partEntry s p).moveOk = true → (tabGet p s.moves ≠ none ∨ freeSlice s = none) → ends .move 3) ∧
      ∀ k, held → (partEntry s p).moveOk = true → tabGet p s.moves = none → freeSlice s = some k →
        ∃ t, exec .move s = .next t ∧ told t 0 ∧ tabGet p t.moves = some ⟨n, k, 0, true⟩) ∧
    (due 0x16 →
      (b1 ≠ 0 ∨ 48 ≤ n ∨ rest ≠ 0 → ends .retireCluster 4) ∧
      (b1 = 0 → n < 48 → rest = 0 → n ∈ s.retiredClusters → ends .retireCluster 3) ∧
      (b1 = 0 → n < 48 → rest = 0 → n ∉ s.retiredClusters → (∀ u ∈ s.units, clusterOf u.2.core ≠ n) →
        ∃ t, exec .retireCluster s = .next t ∧ told t 0 ∧ n ∈ t.retiredClusters ∧ readyAt t n = false) ∧
      (b1 ≠ 1 ∨ 192 ≤ n ∨ rest ≠ 0 → ends .retireChannelPair 4) ∧
      (b1 = 1 → n < 192 → rest = 0 → n ∈ s.retiredPairs → ends .retireChannelPair 3) ∧
      (b1 = 1 → n < 192 → rest = 0 → n ∉ s.retiredPairs → ∃ t, exec .retireChannelPair s = .next t ∧ told t 0 ∧ n ∈ t.retiredPairs))) ∧
  (∀ (s : State) (part : Nat) (m : SliceMove), s.subj = .of [part] → tabGet part s.moves = some m →
    let old := physOf s m.logical * 2 ^ 30
    (m.page ≠ 16384 → exec .sliceMoveComplete s = .next s) ∧
    (m.page = 16384 → Safety.rising s.sliceTab 0 → ∃ t, exec .sliceMoveComplete s = .next t ∧ physOf t m.logical = m.physical ∧
      ∀ a, t.mem.get a = if old ≤ a ∧ a < old + 2 ^ 30 then 0 else s.mem.get a) ∧
    (16384 ≤ m.page → exec .movePageNew s = .next s) ∧
    (m.page < 16384 → s.mem.wf = true → physOf s m.logical ≠ m.physical → ∃ t, exec .movePageNew s = .next t ∧
      tabGet part t.moves = some { m with page := m.page + 1 } ∧
      (∀ i < 65536, t.mem.get (m.physical * 2 ^ 30 + m.page * 65536 + i) = s.mem.get (old + m.page * 65536 + i)) ∧
      ∀ a, (a < m.physical * 2 ^ 30 + m.page * 65536 ∨ m.physical * 2 ^ 30 + m.page * 65536 + 65536 ≤ a) → t.mem.get a = s.mem.get a)) ∧
  (∀ (s : State) (verified : Bool) (owner : Nat) (bytes : List Byte), s.subj = .block verified owner bytes →
    let entries := blockEntries bytes
    let passes : Prop := verified = true ∧ (∀ h, s.ownerHash = some h → h = owner) ∧ bytes.length = 2560 ∧ anyClash entries = false
    let field (i o n : Nat) : Nat := natOf ((bytes.drop (64 * i + o)).take n)
    let started (t : State) : Prop := t.now = 0 ∧ t.mem = [] ∧ t.units = [] ∧ t.launches = [] ∧ t.ctxs = [] ∧ t.fnrdyLo = 0 ∧ t.fnrdyHi = 0 ∧
      t.counts = [] ∧ t.sliceTab = s.sliceTab ∧ t.retiredClusters = s.retiredClusters ∧ t.retiredPairs = s.retiredPairs ∧ t.linkUp = s.linkUp ∧
      t.blobs = s.blobs ∧ t.remoteMem = s.remoteMem
    ∃ t, exec .moduleReset s = .next t ∧ started t ∧
      (¬ passes → t.parts = [] ∧ t.hostMem = s.hostMem ∧ t.ownerHash = s.ownerHash) ∧
      (passes → t.ownerHash = some owner ∧ t.block = bytes ∧ ∀ i < 40, ∃ e y, entries[i]? = some e ∧ tabGet i t.parts = some y ∧
        { y with en := e.en, gminc := e.gminc, gmins := e.gmins } = e ∧ e.en = bit (field i 0 1) 0 ∧ e.moveOk = bit (field i 0 1) 1 ∧
        e.cbase = field i 1 1 ∧ e.clim = field i 2 1 ∧ e.prio = field i 3 1 ∧ e.sbase = field i 4 2 ∧ e.scnt = field i 6 2 ∧
        e.colour.toNat = field i 8 8 ∧ e.gminc = field i 0x10 1 ∧ e.gmins = field i 0x11 2)) ∧
  ∀ (s : State) (k : Nat), s.subj = .of [k] →
    (mayComeUp s k = false → exec .functionReady s = .next s) ∧
    (mayComeUp s k = true → ∃ t, exec .functionReady s = .next t ∧ readyAt t k = true ∧ (∀ j, j ≠ k → readyAt t j = readyAt s j) ∧ t.mem = s.mem)

/-- R349, R350, R428, R429, R432, R437: errors in the stores, in the shared cache and HBM, of the cluster control and of the host link. -/
def Obligations.ErrorEvents : Prop :=
  (∀ (s : State) (core acc addr : Nat), s.subj = .of [core, acc, addr] → (∀ x ∈ s.launches, x.2.rply = false) →
    let top := if acc = 1 then 64 * 4096 else 0xC0000
    (¬ (core < 1152 ∧ addr < top) → exec .storeUncorrectable s = .next s) ∧
    (core < 1152 → addr < top → ∃ t, exec .storeUncorrectable s = .next t ∧ t.mem = s.mem ∧
      (acc = 1 → addr / 4 * 4 ∈ (coreOf t core).accPoison) ∧ (acc ≠ 1 → addr / 4 * 4 ∈ (coreOf t core).storePoison) ∧
      ∀ c, (coreOf t c).store = (coreOf s c).store ∧ (coreOf t c).acc = (coreOf s c).acc ∧ (coreOf t c).warps = (coreOf s c).warps)) ∧
  (∀ (s : State) (hbm addr gen id : Nat), s.subj = .of [hbm, addr, gen, id] → (∀ x ∈ s.launches, x.2.rply = false) →
    let a := addr % 2 ^ 50
    let q := pairOf s a
    let off := 0x8A0 + 8 * q
    let recent := (s.pairErrs.filter fun e => e.1 = q && tickOf s.now < e.2 + 2 ^ 24).length
    let dirty : Prop := ∃ x ∈ s.l2, x.pa = a / 128 ∧ x.dirty.toNat.testBit (addr % 128 / 32) = true
    ∃ t, exec .cacheHbmError s = .next t ∧ t.mem = s.mem ∧
      (hbm = 1 ∨ dirty → storageOf s a / 32 ∈ t.memPoison) ∧
      (hbm = 1 → tabGet off t.counts = some (min (2 ^ 64 - 1) (tabGetD off 0 s.counts + 1)) ∧ (15 ≤ recent → q ∈ t.retiredPairs) ∧
        (recent < 15 → t.retiredPairs = s.retiredPairs)) ∧
      (hbm ≠ 1 → t.counts = s.counts ∧ t.retiredPairs = s.retiredPairs) ∧
      (hbm ≠ 1 → ¬ dirty → t.memPoison = s.memPoison ∧
        (∀ q, tabGet id s.reqs = some q → ∃ y, tabGet id t.reqs = some y ∧ y.due = q.due + 8) ∧
        (∀ f, tabGet id s.fills = some f → tabGet id t.fills = some { f with ends := f.ends + 8 }) ∧
        (∀ w, tabGet id s.walks = some w → tabGet id t.walks = some { w with ends := w.ends + 8 }) ∧
        (hbm ≠ 1 → ∀ j, j ≠ id → tabGet j t.reqs = tabGet j s.reqs ∧ tabGet j t.fills = tabGet j s.fills ∧ tabGet j t.walks = tabGet j s.walks))) ∧
  (∀ (s : State) (n : Nat), s.subj = .of [n] →
    (0x100 ≤ n → n < 0x8A0 → n % 8 = 0 → ∃ t, exec .correctedError s = .next t ∧ { t with counts := s.counts } = s ∧
      ∀ m, tabGetD m 0 t.counts = if m = n then min (2 ^ 64 - 1) (tabGetD n 0 s.counts + 1) else tabGetD m 0 s.counts) ∧
    (¬ (0x100 ≤ n ∧ n < 0x8A0 ∧ n % 8 = 0) → exec .correctedError s = .next s) ∧
    (n < 48 → n ∉ s.retiredClusters → (∀ u ∈ s.units, clusterOf u.2.core ≠ n) →
      ∃ t, exec .clusterControlError s = .next t ∧ n ∈ t.retiredClusters ∧ readyAt t n = false ∧ t.mem = s.mem) ∧
    (¬ (n < 48 ∧ n ∉ s.retiredClusters) → exec .clusterControlError s = .next s)) ∧
  (∀ (s : State) (id : Nat) (q : Req) (v : View) (n z lane d : Nat) (bytes : List Byte), tabGet id s.reqs = some q → q.host = true → q.isLoad = true →
    view s q.gid = some v → v.serial = q.serial → q.slot = some n → q.kind = .load z [(lane, d, bytes)] → z ≠ 5 → z ≠ 6 → q.again = none → q.fills = [] →
    q.outside = [] → q.acq = 0 → q.fault = none → isCancelled s v = false → returnsLater s q.unit q.gen = false → v.run.pend = [] →
    d < 120 → lane < 32 → (∃ c w, v.gid = .warp c w) →
    let fails (i : Instr) (cause : Nat) : Prop := ∃ t v' r, exec i s = .next t ∧ view t q.gid = some v' ∧ v'.pc = v.pc ∧
      v'.run.slots = (v.run.slots.mapIdx fun j k => if j = n then k - 1 else k) ∧ poisoned t v' [(d, 1)] [lane] ≠ [] ∧ t.mem = s.mem ∧
      r ∈ t.reports ∧ r ∉ s.reports ∧ r.fn = genFn s q.gen ∧ r.bytes.take 2 = bytesOf 2 4 ∧ (r.bytes.drop 32).take 4 = bytesOf 4 cause
    (∀ aborter, s.subj = .of [id, aborter] → (∀ r ∈ s.reports, r.handle < s.fresh) → fails .hostReadFailure (if aborter = 1 then 1 else 0)) ∧
    (s.subj = .of [id] → (∀ r ∈ s.reports, r.handle < s.fresh) →
      (tickEnd (tickOf q.sent + Config.lostTicks) ≤ s.now → fails .hostCompletionTimeout 2) ∧
      (s.now < tickEnd (tickOf q.sent + Config.lostTicks) → exec .hostCompletionTimeout s = .next s))) ∧
  ∀ (s : State),
    ((∀ x ∈ s.reqs, ¬ (x.2.host = true ∧ x.2.isLoad = true)) → ∃ t, exec .linkDown s = .next t ∧ t.linkUp = false ∧ t.mem = s.mem ∧
      ∀ fn q, (cqOf s fn q).en = true → (cqOf t fn q).err = true) ∧
    (∃ t, exec .linkReturn s = .next t ∧ t.linkUp = true ∧ { t with linkUp := s.linkUp } = s) ∧
    ∀ pasid addr, s.subj = .of [pasid, addr] →
      ((∀ x ∈ s.ctxs, x.2.pasid ≠ pasid) → exec .failedPostedWrite s = .next s) ∧
      ∀ g c, s.ctxs.find? (fun x => x.2.pasid = pasid) = some (g, c) → ∃ t r, exec .failedPostedWrite s = .next t ∧ t.mem = s.mem ∧
        t.units = s.units ∧ t.cores = s.cores ∧ r ∈ t.reports ∧ r.fn = genFn s g ∧ r.bytes.take 2 = bytesOf 2 4 ∧
        (r.bytes.drop 32).take 4 = bytesOf 4 3

/-! ## Encodings, steps and the machine -/

/-- Words printed in the spec (Tables 7.8, 10.1, 11.1 and the worked programs of 08, 09, 13, 14, 16, 18) decode to what stands beside them; a halfword
with bit 0 clear and bit 15 set, and a marker row without S, do not decode. -/
def Obligations.DecodeWords : Prop :=
  decodeTableWord 16 0x7442 = some (.li5 0b11101 2) ∧ decodeTableWord 16 0x0450 = some (.shl16 1 2) ∧
  decodeTableWord 32 0x10000349 = some (.addi 64 0 3 0) ∧ decodeTableWord 32 0xE0838493 = some (.ld 3 4 2 7 4 1) ∧
  decodeTableWord 32 0x0004090B = some (.brp 4 0 1) ∧ decodeTableWord 32 0x46418025 = some (.wrsr 25 3 0) ∧
  decodeTableWord 32 0x2081042D = some (.kadd 1 8 4 4 0) ∧ decodeTableWord 32 0x00020571 = some (.exp2 4 5 0) ∧
  decodeTableWord 32 0x01C30A63 = some (.fadd 7 6 10 1) ∧ decodeTableWord 32 0x600108B5 = some (.lstu 2 8 0) ∧
  decodeTableWord 32 0x20D308A9 = some (.cpy 1 13 12 8 0) ∧ decodeTableWord 32 0x088A00D9 = some (.sbeg 2 8 40 0) ∧
  decodeTableWord 32 0xE00144D1 = some (.accld 3 2 0 5 4 0) ∧ decodeTableWord 32 0x100144C5 = some (.mld 1 0 0 5 4 0) ∧
  decodeTableWord 16 0x8442 = none ∧ decodeTableWord 32 0x00000101 = none

/-- R170, R171: the bytes of every well-formed instruction decode to it whatever follows them, and what the decoder answers is well formed: no operand
bit is dropped and no reserved value is let through. -/
def Obligations.DecodeEncodeAgree : Prop :=
  (∀ (i : Instr) (rest : List Byte), WellFormed i → decode (encode i ++ rest) = .ok (i, rest)) ∧
  (∀ (b : List Byte) (i : Instr) (rest : List Byte), decode b = .ok (i, rest) → WellFormed i ∧ b.length = instrLength i + rest.length) ∧
  ∀ i j : Instr, WellFormed i → WellFormed j → encode i = encode j → i = j

/-- R170-R173 and log 3: a step runs an input or a step that is due before a condition, a condition before an issue; a group that issues runs the
instruction its bytes decode to; without any of them the cycle passes. -/
def Obligations.StepRunsDecoded : Prop :=
  ∀ s : State,
    (∀ x, firstDue s.inbox s.now = some x → step s = exec x.i { s with inbox := s.inbox.erase x, cur := none, subj := x.subj }) ∧
    (firstDue s.inbox s.now = none → ∀ x, firstDue s.agenda s.now = some x →
      step s = exec x.i { s with agenda := s.agenda.erase x, cur := none, subj := x.subj }) ∧
    (firstDue s.inbox s.now = none → firstDue s.agenda s.now = none →
      (∀ i x, conditionEvent s = some (i, x) → step s = exec i { s with cur := none, subj := x }) ∧
      (conditionEvent s = none →
        (nextIssuer s = none → step s = .next (tickCycle s)) ∧
        ∀ g v, nextIssuer s = some g → view s g = some v →
          (fetchBytes s g v = none → step s = exec .demandFetch { s with cur := none, subj := .group g }) ∧
          ∀ b, fetchBytes s g v = some b →
            let t := begun s g v
            (t.cur = some g ∧ t.now = s.now ∧ Safety.sameData s t ∧ ∀ k, view t k = view s k) ∧
            (∀ i rest, decode b = .ok (i, rest) → step s = exec i t) ∧
            ∀ e, decode b = .error e → step s = exec .illegalEncoding { t with subj := .of [natOf b] }))

/-- No step stops the machine: an encoding always has a meaning for the group that issues it, and where only events are scheduled or come in, every
step answers a next state. An encoding for which no group issues has none (the model's own fault, which no step raises: log 2). -/
def Obligations.NoStepStops : Prop :=
  (∀ (s : State), (∀ x ∈ s.agenda, wfErr x.i = some .noEncoding) → (∀ x ∈ s.inbox, wfErr x.i = some .noEncoding) → ∃ t, step s = .next t) ∧
  (∀ (i : Instr) (s : State) (g : Gid) (v : View), s.cur = some g → view s g = some v → ∃ t, exec i s = .next t) ∧
  ∀ (i : Instr) (s : State), WellFormed i → s.cur = none → exec i s = .fault .noIssuer

/-- The memory of the module keeps its canonical form through every step, so that equal memories are equal data (log 5). -/
def Obligations.MemoryStaysCanonical : Prop := ∀ s t : State, step s = .next t → s.mem.wf = true → t.mem.wf = true

/-- R19, R27, R28, R350, R362, R368: the machine right after reset: both counters at 0, nothing ready, nothing enabled, ACCOWN, routes and counts 0, and
every memory in its canonical form. The values of general registers and of memory are the model's choices (logs 5, 10). -/
def Obligations.ResetState : Prop :=
  let s := State.reset
  s.now = 0 ∧ (reftick s).toNat = 0 ∧ s.fnrdyLo = 0 ∧ s.fnrdyHi = 0 ∧ s.parts = [] ∧ s.units = [] ∧ s.launches = [] ∧ s.ctxs = [] ∧
  (∀ k, readyAt s k = false) ∧ (∀ n, tabGetD n 0 s.routes = 0) ∧ (∀ n, tabGetD n 0 s.counts = 0) ∧
  (∀ c, (coreOf s c).accown = none ∧ (coreOf s c).warps = [] ∧ (coreOf s c).quads.length = 4) ∧
  (∀ n q, (cqOf s n q).en = false ∧ (fnOf s n).vf = .idle ∧ (fnOf s n).keyid = 0 ∧ (fnOf s n).policy = none) ∧
  Safety.memories s = true ∧ ∀ a, s.mem.get a = 0
end

