-- ==== Sys2Proof/Laws/Decode.lean ====
section
/-! SUPPORT. What the decoder reads from the word of each encoding: the fields of a word given as the sum of its parts. -/

namespace Sys2Proof

set_option Elab.async false
set_option linter.unusedSimpArgs false

theorem bits_of {n w lo : Nat} {x : BitVec n} (h : w / 2 ^ lo % 2 ^ n = x.toNat) : bits w lo n = x := by
  apply BitVec.eq_of_toNat_eq
  simp [bits, field, h]

/-- The number made of consecutive fields, the least significant first: width and value. -/
def partsNat : List (Nat × Nat) → Nat
  | [] => 0
  | (w, v) :: r => v + 2 ^ w * partsNat r

/-- Its width. -/
def partsLen : List (Nat × Nat) → Nat
  | [] => 0
  | (w, _) :: r => w + partsLen r

/-- Every value fits its width. -/
def partsOk : List (Nat × Nat) → Prop
  | [] => True
  | (w, v) :: r => v < 2 ^ w ∧ partsOk r

theorem partsNat_lt : ∀ {l : List (Nat × Nat)}, partsOk l → partsNat l < 2 ^ partsLen l
  | [], _ => Nat.one_pos
  | (w, v) :: r, ⟨h, hr⟩ => by
    have := partsNat_lt hr
    simp only [partsNat, partsLen, Nat.pow_add]
    calc v + 2 ^ w * partsNat r < 2 ^ w * (partsNat r + 1) := by rw [Nat.mul_add]; omega
      _ ≤ 2 ^ w * 2 ^ partsLen r := Nat.mul_le_mul_left _ this

theorem part_of : ∀ {l : List (Nat × Nat)} (k : Nat) {w v : Nat}, partsOk l → l[k]? = some (w, v) →
    partsNat l / 2 ^ partsLen (l.take k) % 2 ^ w = v
  | [], k, w, v, _, h => by simp at h
  | (w', v') :: r, 0, w, v, ⟨h1, _⟩, h => by
    simp only [List.getElem?_cons_zero, Option.some.injEq, Prod.mk.injEq] at h
    obtain ⟨rfl, rfl⟩ := h
    simp only [List.take_zero, partsLen, partsNat, Nat.pow_zero, Nat.div_one, Nat.add_mul_mod_self_left]
    exact Nat.mod_eq_of_lt h1
  | (w', v') :: r, k + 1, w, v, ⟨h1, h2⟩, h => by
    simp only [List.getElem?_cons_succ] at h
    simp only [List.take_succ_cons, partsLen, partsNat, Nat.pow_add, ← Nat.div_div_eq_div_mul]
    rw [Nat.add_mul_div_left _ _ (Nat.two_pow_pos w'), Nat.div_eq_of_lt h1, Nat.zero_add]
    exact part_of k h2 h

/-- The field that is one part of a word. -/
theorem part_at {y lo : Nat} {l : List (Nat × Nat)} (hy : y = partsNat l) (ok : partsOk l) (k : Nat) {w v : Nat}
    (h : l[k]? = some (w, v)) (hlo : partsLen (l.take k) = lo) : y / 2 ^ lo % 2 ^ w = v := by
  rw [hy, ← hlo]
  exact part_of k ok h

/-- The bits of a number below its top are those of its remainder. -/
theorem mod_part (a off n c : Nat) : a % 2 ^ (off + n + c) / 2 ^ off % 2 ^ n = a / 2 ^ off % 2 ^ n := by
  rw [Nat.add_assoc, Nat.pow_add, Nat.mod_mul_right_div_self, Nat.pow_add, Nat.mod_mul_right_mod]

/-- A field inside one part of a word. -/
theorem part_in {y lo n x : Nat} {l : List (Nat × Nat)} (hy : y = partsNat l) (ok : partsOk l) (k off : Nat) {w v : Nat}
    (h : l[k]? = some (w, v)) (hlo : partsLen (l.take k) + off = lo) (hx : v / 2 ^ off % 2 ^ n = x)
    (hn : off + n ≤ w) : field y lo n = x := by
  have e := part_of k ok h
  rw [← hy] at e
  unfold field
  rw [← hlo, Nat.pow_add, ← Nat.div_div_eq_div_mul, ← hx, ← e]
  have : w = off + n + (w - off - n) := by omega
  rw [this, mod_part]

/-- A field one part of which is not that of a value is not that value. -/
theorem part_not {y lo n a m x v : Nat} (h : field y a m = x) (off : Nat) (ha : lo + off = a) (hm : off + m ≤ n)
    (hv : v / 2 ^ off % 2 ^ m ≠ x) : (field y lo n == v) = false := by
  rw [beq_eq_false_iff_ne]
  intro e
  apply hv
  rw [← e, ← h, ← ha]
  unfold field
  have : n = off + m + (n - off - m) := by omega
  rw [this, mod_part, Nat.pow_add, Nat.div_div_eq_div_mul]

/-- The answer of the decoder for a row found or not found. -/
def ofRow : Option Instr → Except DecodeErr Instr
  | some i => accept i
  | none => .error .reserved

theorem row_16 {w : Nat} (h : field w 15 1 = 0) : decode16 w = ofRow (row16 w) := by
  unfold decode16
  rw [if_neg (by rw [h]; decide)]
  cases row16 w <;> rfl

theorem row_Maj00 {w : Nat} (h : field w 2 6 = 0) : decode32 w = ofRow (rowMaj00 w) := by
  unfold decode32 row32
  rw [h]
  simp only
  cases rowMaj00 w <;> rfl

theorem row_Maj01 {w : Nat} (h : field w 2 6 = 1) : decode32 w = ofRow (rowMaj01 w) := by
  unfold decode32 row32
  rw [h]
  simp only
  cases rowMaj01 w <;> rfl

theorem row_Maj02 {w : Nat} (h : field w 2 6 = 2) : decode32 w = ofRow (rowMaj02 w) := by
  unfold decode32 row32
  rw [h]
  simp only
  cases rowMaj02 w <;> rfl

theorem row_Maj03 {w : Nat} (h : field w 2 6 = 3) : decode32 w = ofRow (rowMaj03 w) := by
  unfold decode32 row32
  rw [h]
  simp only
  cases rowMaj03 w <;> rfl

theorem row_Maj04 {w : Nat} (h : field w 2 6 = 4) : decode32 w = ofRow (rowMaj04 w) := by
  unfold decode32 row32
  rw [h]
  simp only
  cases rowMaj04 w <;> rfl

theorem row_Maj05 {w : Nat} (h : field w 2 6 = 5) : decode32 w = ofRow (rowMaj05 w) := by
  unfold decode32 row32
  rw [h]
  simp only
  cases rowMaj05 w <;> rfl

theorem row_Maj06 {w : Nat} (h : field w 2 6 = 6) : decode32 w = ofRow (rowMaj06 w) := by
  unfold decode32 row32
  rw [h]
  simp only
  cases rowMaj06 w <;> rfl

theorem row_Maj07 {w : Nat} (h : field w 2 6 = 7) : decode32 w = ofRow (rowMaj07 w) := by
  unfold decode32 row32
  rw [h]
  simp only
  cases rowMaj07 w <;> rfl

theorem row_Maj08 {w : Nat} (h : field w 2 6 = 8) : decode32 w = ofRow (rowMaj08 w) := by
  unfold decode32 row32
  rw [h]
  simp only
  cases rowMaj08 w <;> rfl

theorem row_Maj09 {w : Nat} (h : field w 2 6 = 9) : decode32 w = ofRow (rowMaj09 w) := by
  unfold decode32 row32
  rw [h]
  simp only
  cases rowMaj09 w <;> rfl

theorem row_Maj0A {w : Nat} (h : field w 2 6 = 10) : decode32 w = ofRow (rowMaj0A w) := by
  unfold decode32 row32
  rw [h]
  simp only
  cases rowMaj0A w <;> rfl

theorem row_Maj0B {w : Nat} (h : field w 2 6 = 11) : decode32 w = ofRow (rowMaj0B w) := by
  unfold decode32 row32
  rw [h]
  simp only
  cases rowMaj0B w <;> rfl

theorem row_Maj0C {w : Nat} (h : field w 2 6 = 12) : decode32 w = ofRow (rowMaj0C w) := by
  unfold decode32 row32
  rw [h]
  simp only
  cases rowMaj0C w <;> rfl

theorem row_Maj10 {w : Nat} (h : field w 2 6 = 16) : decode32 w = ofRow (rowMaj10 w) := by
  unfold decode32 row32
  rw [h]
  simp only
  cases rowMaj10 w <;> rfl

theorem row_Maj11 {w : Nat} (h : field w 2 6 = 17) : decode32 w = ofRow (rowMaj11 w) := by
  unfold decode32 row32
  rw [h]
  simp only
  cases rowMaj11 w <;> rfl

theorem row_Maj12 {w : Nat} (h : field w 2 6 = 18) : decode32 w = ofRow (rowMaj12 w) := by
  unfold decode32 row32
  rw [h]
  simp only
  cases rowMaj12 w <;> rfl

theorem row_Maj13 {w : Nat} (h : field w 2 6 = 19) : decode32 w = ofRow (rowMaj13 w) := by
  unfold decode32 row32
  rw [h]
  simp only
  cases rowMaj13 w <;> rfl

theorem row_Maj14 {w : Nat} (h : field w 2 6 = 20) : decode32 w = ofRow (rowMaj14 w) := by
  unfold decode32 row32
  rw [h]
  simp only
  cases rowMaj14 w <;> rfl

theorem row_Maj15 {w : Nat} (h : field w 2 6 = 21) : decode32 w = ofRow (rowMaj15 w) := by
  unfold decode32 row32
  rw [h]
  simp only
  cases rowMaj15 w <;> rfl

theorem row_Maj16 {w : Nat} (h : field w 2 6 = 22) : decode32 w = ofRow (rowMaj16 w) := by
  unfold decode32 row32
  rw [h]
  simp only
  cases rowMaj16 w <;> rfl

theorem row_Maj17 {w : Nat} (h : field w 2 6 = 23) : decode32 w = ofRow (rowMaj17 w) := by
  unfold decode32 row32
  rw [h]
  simp only
  cases rowMaj17 w <;> rfl

theorem row_Maj18 {w : Nat} (h : field w 2 6 = 24) : decode32 w = ofRow (rowMaj18 w) := by
  unfold decode32 row32
  rw [h]
  simp only
  cases rowMaj18 w <;> rfl

theorem row_Maj19 {w : Nat} (h : field w 2 6 = 25) : decode32 w = ofRow (rowMaj19 w) := by
  unfold decode32 row32
  rw [h]
  simp only
  cases rowMaj19 w <;> rfl

theorem row_Maj1A {w : Nat} (h : field w 2 6 = 26) : decode32 w = ofRow (rowMaj1A w) := by
  unfold decode32 row32
  rw [h]
  simp only
  cases rowMaj1A w <;> rfl

theorem row_Maj1B {w : Nat} (h : field w 2 6 = 27) : decode32 w = ofRow (rowMaj1B w) := by
  unfold decode32 row32
  rw [h]
  simp only
  cases rowMaj1B w <;> rfl

theorem row_Maj1C {w : Nat} (h : field w 2 6 = 28) : decode32 w = ofRow (rowMaj1C w) := by
  unfold decode32 row32
  rw [h]
  simp only
  cases rowMaj1C w <;> rfl

theorem row_Maj1D {w : Nat} (h : field w 2 6 = 29) : decode32 w = ofRow (rowMaj1D w) := by
  unfold decode32 row32
  rw [h]
  simp only
  cases rowMaj1D w <;> rfl

theorem row_Maj1E {w : Nat} (h : field w 2 6 = 30) : decode32 w = ofRow (rowMaj1E w) := by
  unfold decode32 row32
  rw [h]
  simp only
  cases rowMaj1E w <;> rfl

theorem row_Maj20 {w : Nat} (h : field w 2 6 = 32) : decode32 w = ofRow (rowMaj20 w) := by
  unfold decode32 row32
  rw [h]
  simp only
  cases rowMaj20 w <;> rfl

theorem row_Maj21 {w : Nat} (h : field w 2 6 = 33) : decode32 w = ofRow (rowMaj21 w) := by
  unfold decode32 row32
  rw [h]
  simp only
  cases rowMaj21 w <;> rfl

theorem row_Maj22 {w : Nat} (h : field w 2 6 = 34) : decode32 w = ofRow (rowMaj22 w) := by
  unfold decode32 row32
  rw [h]
  simp only
  cases rowMaj22 w <;> rfl

theorem row_Maj23 {w : Nat} (h : field w 2 6 = 35) : decode32 w = ofRow (rowMaj23 w) := by
  unfold decode32 row32
  rw [h]
  simp only
  cases rowMaj23 w <;> rfl

theorem row_Maj24 {w : Nat} (h : field w 2 6 = 36) : decode32 w = ofRow (rowMaj24 w) := by
  unfold decode32 row32
  rw [h]
  simp only
  cases rowMaj24 w <;> rfl

theorem row_Maj25 {w : Nat} (h : field w 2 6 = 37) : decode32 w = ofRow (rowMaj25 w) := by
  unfold decode32 row32
  rw [h]
  simp only
  cases rowMaj25 w <;> rfl

theorem row_Maj26 {w : Nat} (h : field w 2 6 = 38) : decode32 w = ofRow (rowMaj26 w) := by
  unfold decode32 row32
  rw [h]
  simp only
  cases rowMaj26 w <;> rfl

theorem row_Maj27 {w : Nat} (h : field w 2 6 = 39) : decode32 w = ofRow (rowMaj27 w) := by
  unfold decode32 row32
  rw [h]
  simp only
  cases rowMaj27 w <;> rfl

theorem row_Maj28 {w : Nat} (h : field w 2 6 = 40) : decode32 w = ofRow (rowMaj28 w) := by
  unfold decode32 row32
  rw [h]
  simp only
  cases rowMaj28 w <;> rfl

theorem row_Maj29 {w : Nat} (h : field w 2 6 = 41) : decode32 w = ofRow (rowMaj29 w) := by
  unfold decode32 row32
  rw [h]
  simp only
  cases rowMaj29 w <;> rfl

theorem row_Maj2A {w : Nat} (h : field w 2 6 = 42) : decode32 w = ofRow (rowMaj2A w) := by
  unfold decode32 row32
  rw [h]
  simp only
  cases rowMaj2A w <;> rfl

theorem row_Maj2B {w : Nat} (h : field w 2 6 = 43) : decode32 w = ofRow (rowMaj2B w) := by
  unfold decode32 row32
  rw [h]
  simp only
  cases rowMaj2B w <;> rfl

theorem row_Maj2C {w : Nat} (h : field w 2 6 = 44) : decode32 w = ofRow (rowMaj2C w) := by
  unfold decode32 row32
  rw [h]
  simp only
  cases rowMaj2C w <;> rfl

theorem row_Maj2D {w : Nat} (h : field w 2 6 = 45) : decode32 w = ofRow (rowMaj2D w) := by
  unfold decode32 row32
  rw [h]
  simp only
  cases rowMaj2D w <;> rfl

theorem row_Maj2E {w : Nat} (h : field w 2 6 = 46) : decode32 w = ofRow (rowMaj2E w) := by
  unfold decode32 row32
  rw [h]
  simp only
  cases rowMaj2E w <;> rfl

theorem row_Maj2F {w : Nat} (h : field w 2 6 = 47) : decode32 w = ofRow (rowMaj2F w) := by
  unfold decode32 row32
  rw [h]
  simp only
  cases rowMaj2F w <;> rfl

theorem row_Maj30 {w : Nat} (h : field w 2 6 = 48) : decode32 w = ofRow (rowMaj30 w) := by
  unfold decode32 row32
  rw [h]
  simp only
  cases rowMaj30 w <;> rfl

theorem row_Maj31 {w : Nat} (h : field w 2 6 = 49) : decode32 w = ofRow (rowMaj31 w) := by
  unfold decode32 row32
  rw [h]
  simp only
  cases rowMaj31 w <;> rfl

theorem row_Maj32 {w : Nat} (h : field w 2 6 = 50) : decode32 w = ofRow (rowMaj32 w) := by
  unfold decode32 row32
  rw [h]
  simp only
  cases rowMaj32 w <;> rfl

theorem row_Maj33 {w : Nat} (h : field w 2 6 = 51) : decode32 w = ofRow (rowMaj33 w) := by
  unfold decode32 row32
  rw [h]
  simp only
  cases rowMaj33 w <;> rfl

theorem row_Maj34 {w : Nat} (h : field w 2 6 = 52) : decode32 w = ofRow (rowMaj34 w) := by
  unfold decode32 row32
  rw [h]
  simp only
  cases rowMaj34 w <;> rfl

theorem row_Maj35 {w : Nat} (h : field w 2 6 = 53) : decode32 w = ofRow (rowMaj35 w) := by
  unfold decode32 row32
  rw [h]
  simp only
  cases rowMaj35 w <;> rfl

theorem row_Maj36 {w : Nat} (h : field w 2 6 = 54) : decode32 w = ofRow (rowMaj36 w) := by
  unfold decode32 row32
  rw [h]
  simp only
  cases rowMaj36 w <;> rfl

theorem row_Maj37 {w : Nat} (h : field w 2 6 = 55) : decode32 w = ofRow (rowMaj37 w) := by
  unfold decode32 row32
  rw [h]
  simp only
  cases rowMaj37 w <;> rfl

theorem word_mov (s : BitVec 5) (d : BitVec 5) (y : Nat) (hy : y = partsNat [(5, 0), (5, d.toNat), (5, s.toNat), (1, 0)]) :
    decode16 y = accept (.mov s d) := by
  have ok : partsOk [(5, 0), (5, d.toNat), (5, s.toNat), (1, 0)] := ⟨by decide, d.isLt, s.isLt, by decide, trivial⟩
  have e0 : bits y 10 5 = s := bits_of (part_at hy ok 2 rfl rfl)
  have e1 : bits y 5 5 = d := bits_of (part_at hy ok 1 rfl rfl)
  have f0 : field y 1 4 = 0 := part_in hy ok 0 1 rfl rfl rfl (by decide)
  rw [row_16 (part_in hy ok 3 0 rfl rfl rfl (by decide))]
  simp only [ofRow, row16, pickRow, fixedIs, e0, e1, f0, Nat.reduceBEq, beq_self_eq_true, Bool.and_true, Bool.and_false, Bool.false_and, Bool.true_and, Bool.false_eq_true, if_true, if_false]

theorem word_li5 (i : BitVec 5) (d : BitVec 5) (y : Nat) (hy : y = partsNat [(5, 2), (5, d.toNat), (5, i.toNat), (1, 0)]) :
    decode16 y = accept (.li5 i d) := by
  have ok : partsOk [(5, 2), (5, d.toNat), (5, i.toNat), (1, 0)] := ⟨by decide, d.isLt, i.isLt, by decide, trivial⟩
  have e0 : bits y 10 5 = i := bits_of (part_at hy ok 2 rfl rfl)
  have e1 : bits y 5 5 = d := bits_of (part_at hy ok 1 rfl rfl)
  have f0 : field y 1 4 = 1 := part_in hy ok 0 1 rfl rfl rfl (by decide)
  have f1 : field y 1 4 = 1 := part_in hy ok 0 1 rfl rfl rfl (by decide)
  rw [row_16 (part_in hy ok 3 0 rfl rfl rfl (by decide))]
  simp only [ofRow, row16, pickRow, fixedIs, e0, e1, f0, f1, Nat.reduceBEq, beq_self_eq_true, Bool.and_true, Bool.and_false, Bool.false_and, Bool.true_and, Bool.false_eq_true, if_true, if_false]

theorem word_add16 (s : BitVec 5) (d : BitVec 5) (y : Nat) (hy : y = partsNat [(5, 4), (5, d.toNat), (5, s.toNat), (1, 0)]) :
    decode16 y = accept (.add16 s d) := by
  have ok : partsOk [(5, 4), (5, d.toNat), (5, s.toNat), (1, 0)] := ⟨by decide, d.isLt, s.isLt, by decide, trivial⟩
  have e0 : bits y 10 5 = s := bits_of (part_at hy ok 2 rfl rfl)
  have e1 : bits y 5 5 = d := bits_of (part_at hy ok 1 rfl rfl)
  have f0 : field y 1 4 = 2 := part_in hy ok 0 1 rfl rfl rfl (by decide)
  have f1 : field y 1 4 = 2 := part_in hy ok 0 1 rfl rfl rfl (by decide)
  have f2 : field y 1 4 = 2 := part_in hy ok 0 1 rfl rfl rfl (by decide)
  rw [row_16 (part_in hy ok 3 0 rfl rfl rfl (by decide))]
  simp only [ofRow, row16, pickRow, fixedIs, e0, e1, f0, f1, f2, Nat.reduceBEq, beq_self_eq_true, Bool.and_true, Bool.and_false, Bool.false_and, Bool.true_and, Bool.false_eq_true, if_true, if_false]

theorem word_sub16 (s : BitVec 5) (d : BitVec 5) (y : Nat) (hy : y = partsNat [(5, 6), (5, d.toNat), (5, s.toNat), (1, 0)]) :
    decode16 y = accept (.sub16 s d) := by
  have ok : partsOk [(5, 6), (5, d.toNat), (5, s.toNat), (1, 0)] := ⟨by decide, d.isLt, s.isLt, by decide, trivial⟩
  have e0 : bits y 10 5 = s := bits_of (part_at hy ok 2 rfl rfl)
  have e1 : bits y 5 5 = d := bits_of (part_at hy ok 1 rfl rfl)
  have f0 : field y 1 4 = 3 := part_in hy ok 0 1 rfl rfl rfl (by decide)
  have f1 : field y 1 4 = 3 := part_in hy ok 0 1 rfl rfl rfl (by decide)
  have f2 : field y 1 4 = 3 := part_in hy ok 0 1 rfl rfl rfl (by decide)
  have f3 : field y 1 4 = 3 := part_in hy ok 0 1 rfl rfl rfl (by decide)
  rw [row_16 (part_in hy ok 3 0 rfl rfl rfl (by decide))]
  simp only [ofRow, row16, pickRow, fixedIs, e0, e1, f0, f1, f2, f3, Nat.reduceBEq, beq_self_eq_true, Bool.and_true, Bool.and_false, Bool.false_and, Bool.true_and, Bool.false_eq_true, if_true, if_false]

theorem word_mul16 (s : BitVec 5) (d : BitVec 5) (y : Nat) (hy : y = partsNat [(5, 8), (5, d.toNat), (5, s.toNat), (1, 0)]) :
    decode16 y = accept (.mul16 s d) := by
  have ok : partsOk [(5, 8), (5, d.toNat), (5, s.toNat), (1, 0)] := ⟨by decide, d.isLt, s.isLt, by decide, trivial⟩
  have e0 : bits y 10 5 = s := bits_of (part_at hy ok 2 rfl rfl)
  have e1 : bits y 5 5 = d := bits_of (part_at hy ok 1 rfl rfl)
  have f0 : field y 1 4 = 4 := part_in hy ok 0 1 rfl rfl rfl (by decide)
  have f1 : field y 1 4 = 4 := part_in hy ok 0 1 rfl rfl rfl (by decide)
  have f2 : field y 1 4 = 4 := part_in hy ok 0 1 rfl rfl rfl (by decide)
  have f3 : field y 1 4 = 4 := part_in hy ok 0 1 rfl rfl rfl (by decide)
  have f4 : field y 1 4 = 4 := part_in hy ok 0 1 rfl rfl rfl (by decide)
  rw [row_16 (part_in hy ok 3 0 rfl rfl rfl (by decide))]
  simp only [ofRow, row16, pickRow, fixedIs, e0, e1, f0, f1, f2, f3, f4, Nat.reduceBEq, beq_self_eq_true, Bool.and_true, Bool.and_false, Bool.false_and, Bool.true_and, Bool.false_eq_true, if_true, if_false]

theorem word_and16 (s : BitVec 5) (d : BitVec 5) (y : Nat) (hy : y = partsNat [(5, 10), (5, d.toNat), (5, s.toNat), (1, 0)]) :
    decode16 y = accept (.and16 s d) := by
  have ok : partsOk [(5, 10), (5, d.toNat), (5, s.toNat), (1, 0)] := ⟨by decide, d.isLt, s.isLt, by decide, trivial⟩
  have e0 : bits y 10 5 = s := bits_of (part_at hy ok 2 rfl rfl)
  have e1 : bits y 5 5 = d := bits_of (part_at hy ok 1 rfl rfl)
  have f0 : field y 1 4 = 5 := part_in hy ok 0 1 rfl rfl rfl (by decide)
  have f1 : field y 1 4 = 5 := part_in hy ok 0 1 rfl rfl rfl (by decide)
  have f2 : field y 1 4 = 5 := part_in hy ok 0 1 rfl rfl rfl (by decide)
  have f3 : field y 1 4 = 5 := part_in hy ok 0 1 rfl rfl rfl (by decide)
  have f4 : field y 1 4 = 5 := part_in hy ok 0 1 rfl rfl rfl (by decide)
  have f5 : field y 1 4 = 5 := part_in hy ok 0 1 rfl rfl rfl (by decide)
  rw [row_16 (part_in hy ok 3 0 rfl rfl rfl (by decide))]
  simp only [ofRow, row16, pickRow, fixedIs, e0, e1, f0, f1, f2, f3, f4, f5, Nat.reduceBEq, beq_self_eq_true, Bool.and_true, Bool.and_false, Bool.false_and, Bool.true_and, Bool.false_eq_true, if_true, if_false]

theorem word_or16 (s : BitVec 5) (d : BitVec 5) (y : Nat) (hy : y = partsNat [(5, 12), (5, d.toNat), (5, s.toNat), (1, 0)]) :
    decode16 y = accept (.or16 s d) := by
  have ok : partsOk [(5, 12), (5, d.toNat), (5, s.toNat), (1, 0)] := ⟨by decide, d.isLt, s.isLt, by decide, trivial⟩
  have e0 : bits y 10 5 = s := bits_of (part_at hy ok 2 rfl rfl)
  have e1 : bits y 5 5 = d := bits_of (part_at hy ok 1 rfl rfl)
  have f0 : field y 1 4 = 6 := part_in hy ok 0 1 rfl rfl rfl (by decide)
  have f1 : field y 1 4 = 6 := part_in hy ok 0 1 rfl rfl rfl (by decide)
  have f2 : field y 1 4 = 6 := part_in hy ok 0 1 rfl rfl rfl (by decide)
  have f3 : field y 1 4 = 6 := part_in hy ok 0 1 rfl rfl rfl (by decide)
  have f4 : field y 1 4 = 6 := part_in hy ok 0 1 rfl rfl rfl (by decide)
  have f5 : field y 1 4 = 6 := part_in hy ok 0 1 rfl rfl rfl (by decide)
  have f6 : field y 1 4 = 6 := part_in hy ok 0 1 rfl rfl rfl (by decide)
  rw [row_16 (part_in hy ok 3 0 rfl rfl rfl (by decide))]
  simp only [ofRow, row16, pickRow, fixedIs, e0, e1, f0, f1, f2, f3, f4, f5, f6, Nat.reduceBEq, beq_self_eq_true, Bool.and_true, Bool.and_false, Bool.false_and, Bool.true_and, Bool.false_eq_true, if_true, if_false]

theorem word_xor16 (s : BitVec 5) (d : BitVec 5) (y : Nat) (hy : y = partsNat [(5, 14), (5, d.toNat), (5, s.toNat), (1, 0)]) :
    decode16 y = accept (.xor16 s d) := by
  have ok : partsOk [(5, 14), (5, d.toNat), (5, s.toNat), (1, 0)] := ⟨by decide, d.isLt, s.isLt, by decide, trivial⟩
  have e0 : bits y 10 5 = s := bits_of (part_at hy ok 2 rfl rfl)
  have e1 : bits y 5 5 = d := bits_of (part_at hy ok 1 rfl rfl)
  have f0 : field y 1 4 = 7 := part_in hy ok 0 1 rfl rfl rfl (by decide)
  have f1 : field y 1 4 = 7 := part_in hy ok 0 1 rfl rfl rfl (by decide)
  have f2 : field y 1 4 = 7 := part_in hy ok 0 1 rfl rfl rfl (by decide)
  have f3 : field y 1 4 = 7 := part_in hy ok 0 1 rfl rfl rfl (by decide)
  have f4 : field y 1 4 = 7 := part_in hy ok 0 1 rfl rfl rfl (by decide)
  have f5 : field y 1 4 = 7 := part_in hy ok 0 1 rfl rfl rfl (by decide)
  have f6 : field y 1 4 = 7 := part_in hy ok 0 1 rfl rfl rfl (by decide)
  have f7 : field y 1 4 = 7 := part_in hy ok 0 1 rfl rfl rfl (by decide)
  rw [row_16 (part_in hy ok 3 0 rfl rfl rfl (by decide))]
  simp only [ofRow, row16, pickRow, fixedIs, e0, e1, f0, f1, f2, f3, f4, f5, f6, f7, Nat.reduceBEq, beq_self_eq_true, Bool.and_true, Bool.and_false, Bool.false_and, Bool.true_and, Bool.false_eq_true, if_true, if_false]

theorem word_shl16 (n : BitVec 5) (d : BitVec 5) (y : Nat) (hy : y = partsNat [(5, 16), (5, d.toNat), (5, n.toNat), (1, 0)]) :
    decode16 y = accept (.shl16 n d) := by
  have ok : partsOk [(5, 16), (5, d.toNat), (5, n.toNat), (1, 0)] := ⟨by decide, d.isLt, n.isLt, by decide, trivial⟩
  have e0 : bits y 10 5 = n := bits_of (part_at hy ok 2 rfl rfl)
  have e1 : bits y 5 5 = d := bits_of (part_at hy ok 1 rfl rfl)
  have f0 : field y 1 4 = 8 := part_in hy ok 0 1 rfl rfl rfl (by decide)
  have f1 : field y 1 4 = 8 := part_in hy ok 0 1 rfl rfl rfl (by decide)
  have f2 : field y 1 4 = 8 := part_in hy ok 0 1 rfl rfl rfl (by decide)
  have f3 : field y 1 4 = 8 := part_in hy ok 0 1 rfl rfl rfl (by decide)
  have f4 : field y 1 4 = 8 := part_in hy ok 0 1 rfl rfl rfl (by decide)
  have f5 : field y 1 4 = 8 := part_in hy ok 0 1 rfl rfl rfl (by decide)
  have f6 : field y 1 4 = 8 := part_in hy ok 0 1 rfl rfl rfl (by decide)
  have f7 : field y 1 4 = 8 := part_in hy ok 0 1 rfl rfl rfl (by decide)
  have f8 : field y 1 4 = 8 := part_in hy ok 0 1 rfl rfl rfl (by decide)
  rw [row_16 (part_in hy ok 3 0 rfl rfl rfl (by decide))]
  simp only [ofRow, row16, pickRow, fixedIs, e0, e1, f0, f1, f2, f3, f4, f5, f6, f7, f8, Nat.reduceBEq, beq_self_eq_true, Bool.and_true, Bool.and_false, Bool.false_and, Bool.true_and, Bool.false_eq_true, if_true, if_false]

theorem word_srl16 (n : BitVec 5) (d : BitVec 5) (y : Nat) (hy : y = partsNat [(5, 18), (5, d.toNat), (5, n.toNat), (1, 0)]) :
    decode16 y = accept (.srl16 n d) := by
  have ok : partsOk [(5, 18), (5, d.toNat), (5, n.toNat), (1, 0)] := ⟨by decide, d.isLt, n.isLt, by decide, trivial⟩
  have e0 : bits y 10 5 = n := bits_of (part_at hy ok 2 rfl rfl)
  have e1 : bits y 5 5 = d := bits_of (part_at hy ok 1 rfl rfl)
  have f0 : field y 1 4 = 9 := part_in hy ok 0 1 rfl rfl rfl (by decide)
  have f1 : field y 1 4 = 9 := part_in hy ok 0 1 rfl rfl rfl (by decide)
  have f2 : field y 1 4 = 9 := part_in hy ok 0 1 rfl rfl rfl (by decide)
  have f3 : field y 1 4 = 9 := part_in hy ok 0 1 rfl rfl rfl (by decide)
  have f4 : field y 1 4 = 9 := part_in hy ok 0 1 rfl rfl rfl (by decide)
  have f5 : field y 1 4 = 9 := part_in hy ok 0 1 rfl rfl rfl (by decide)
  have f6 : field y 1 4 = 9 := part_in hy ok 0 1 rfl rfl rfl (by decide)
  have f7 : field y 1 4 = 9 := part_in hy ok 0 1 rfl rfl rfl (by decide)
  have f8 : field y 1 4 = 9 := part_in hy ok 0 1 rfl rfl rfl (by decide)
  have f9 : field y 1 4 = 9 := part_in hy ok 0 1 rfl rfl rfl (by decide)
  rw [row_16 (part_in hy ok 3 0 rfl rfl rfl (by decide))]
  simp only [ofRow, row16, pickRow, fixedIs, e0, e1, f0, f1, f2, f3, f4, f5, f6, f7, f8, f9, Nat.reduceBEq, beq_self_eq_true, Bool.and_true, Bool.and_false, Bool.false_and, Bool.true_and, Bool.false_eq_true, if_true, if_false]

theorem word_sra16 (n : BitVec 5) (d : BitVec 5) (y : Nat) (hy : y = partsNat [(5, 20), (5, d.toNat), (5, n.toNat), (1, 0)]) :
    decode16 y = accept (.sra16 n d) := by
  have ok : partsOk [(5, 20), (5, d.toNat), (5, n.toNat), (1, 0)] := ⟨by decide, d.isLt, n.isLt, by decide, trivial⟩
  have e0 : bits y 10 5 = n := bits_of (part_at hy ok 2 rfl rfl)
  have e1 : bits y 5 5 = d := bits_of (part_at hy ok 1 rfl rfl)
  have f0 : field y 1 4 = 10 := part_in hy ok 0 1 rfl rfl rfl (by decide)
  have f1 : field y 1 4 = 10 := part_in hy ok 0 1 rfl rfl rfl (by decide)
  have f2 : field y 1 4 = 10 := part_in hy ok 0 1 rfl rfl rfl (by decide)
  have f3 : field y 1 4 = 10 := part_in hy ok 0 1 rfl rfl rfl (by decide)
  have f4 : field y 1 4 = 10 := part_in hy ok 0 1 rfl rfl rfl (by decide)
  have f5 : field y 1 4 = 10 := part_in hy ok 0 1 rfl rfl rfl (by decide)
  have f6 : field y 1 4 = 10 := part_in hy ok 0 1 rfl rfl rfl (by decide)
  have f7 : field y 1 4 = 10 := part_in hy ok 0 1 rfl rfl rfl (by decide)
  have f8 : field y 1 4 = 10 := part_in hy ok 0 1 rfl rfl rfl (by decide)
  have f9 : field y 1 4 = 10 := part_in hy ok 0 1 rfl rfl rfl (by decide)
  have f10 : field y 1 4 = 10 := part_in hy ok 0 1 rfl rfl rfl (by decide)
  rw [row_16 (part_in hy ok 3 0 rfl rfl rfl (by decide))]
  simp only [ofRow, row16, pickRow, fixedIs, e0, e1, f0, f1, f2, f3, f4, f5, f6, f7, f8, f9, f10, Nat.reduceBEq, beq_self_eq_true, Bool.and_true, Bool.and_false, Bool.false_and, Bool.true_and, Bool.false_eq_true, if_true, if_false]

theorem word_fadd16 (s : BitVec 5) (d : BitVec 5) (y : Nat) (hy : y = partsNat [(5, 22), (5, d.toNat), (5, s.toNat), (1, 0)]) :
    decode16 y = accept (.fadd16 s d) := by
  have ok : partsOk [(5, 22), (5, d.toNat), (5, s.toNat), (1, 0)] := ⟨by decide, d.isLt, s.isLt, by decide, trivial⟩
  have e0 : bits y 10 5 = s := bits_of (part_at hy ok 2 rfl rfl)
  have e1 : bits y 5 5 = d := bits_of (part_at hy ok 1 rfl rfl)
  have f0 : field y 1 4 = 11 := part_in hy ok 0 1 rfl rfl rfl (by decide)
  have f1 : field y 1 4 = 11 := part_in hy ok 0 1 rfl rfl rfl (by decide)
  have f2 : field y 1 4 = 11 := part_in hy ok 0 1 rfl rfl rfl (by decide)
  have f3 : field y 1 4 = 11 := part_in hy ok 0 1 rfl rfl rfl (by decide)
  have f4 : field y 1 4 = 11 := part_in hy ok 0 1 rfl rfl rfl (by decide)
  have f5 : field y 1 4 = 11 := part_in hy ok 0 1 rfl rfl rfl (by decide)
  have f6 : field y 1 4 = 11 := part_in hy ok 0 1 rfl rfl rfl (by decide)
  have f7 : field y 1 4 = 11 := part_in hy ok 0 1 rfl rfl rfl (by decide)
  have f8 : field y 1 4 = 11 := part_in hy ok 0 1 rfl rfl rfl (by decide)
  have f9 : field y 1 4 = 11 := part_in hy ok 0 1 rfl rfl rfl (by decide)
  have f10 : field y 1 4 = 11 := part_in hy ok 0 1 rfl rfl rfl (by decide)
  have f11 : field y 1 4 = 11 := part_in hy ok 0 1 rfl rfl rfl (by decide)
  rw [row_16 (part_in hy ok 3 0 rfl rfl rfl (by decide))]
  simp only [ofRow, row16, pickRow, fixedIs, e0, e1, f0, f1, f2, f3, f4, f5, f6, f7, f8, f9, f10, f11, Nat.reduceBEq, beq_self_eq_true, Bool.and_true, Bool.and_false, Bool.false_and, Bool.true_and, Bool.false_eq_true, if_true, if_false]

theorem word_fsub16 (s : BitVec 5) (d : BitVec 5) (y : Nat) (hy : y = partsNat [(5, 24), (5, d.toNat), (5, s.toNat), (1, 0)]) :
    decode16 y = accept (.fsub16 s d) := by
  have ok : partsOk [(5, 24), (5, d.toNat), (5, s.toNat), (1, 0)] := ⟨by decide, d.isLt, s.isLt, by decide, trivial⟩
  have e0 : bits y 10 5 = s := bits_of (part_at hy ok 2 rfl rfl)
  have e1 : bits y 5 5 = d := bits_of (part_at hy ok 1 rfl rfl)
  have f0 : field y 1 4 = 12 := part_in hy ok 0 1 rfl rfl rfl (by decide)
  have f1 : field y 1 4 = 12 := part_in hy ok 0 1 rfl rfl rfl (by decide)
  have f2 : field y 1 4 = 12 := part_in hy ok 0 1 rfl rfl rfl (by decide)
  have f3 : field y 1 4 = 12 := part_in hy ok 0 1 rfl rfl rfl (by decide)
  have f4 : field y 1 4 = 12 := part_in hy ok 0 1 rfl rfl rfl (by decide)
  have f5 : field y 1 4 = 12 := part_in hy ok 0 1 rfl rfl rfl (by decide)
  have f6 : field y 1 4 = 12 := part_in hy ok 0 1 rfl rfl rfl (by decide)
  have f7 : field y 1 4 = 12 := part_in hy ok 0 1 rfl rfl rfl (by decide)
  have f8 : field y 1 4 = 12 := part_in hy ok 0 1 rfl rfl rfl (by decide)
  have f9 : field y 1 4 = 12 := part_in hy ok 0 1 rfl rfl rfl (by decide)
  have f10 : field y 1 4 = 12 := part_in hy ok 0 1 rfl rfl rfl (by decide)
  have f11 : field y 1 4 = 12 := part_in hy ok 0 1 rfl rfl rfl (by decide)
  have f12 : field y 1 4 = 12 := part_in hy ok 0 1 rfl rfl rfl (by decide)
  rw [row_16 (part_in hy ok 3 0 rfl rfl rfl (by decide))]
  simp only [ofRow, row16, pickRow, fixedIs, e0, e1, f0, f1, f2, f3, f4, f5, f6, f7, f8, f9, f10, f11, f12, Nat.reduceBEq, beq_self_eq_true, Bool.and_true, Bool.and_false, Bool.false_and, Bool.true_and, Bool.false_eq_true, if_true, if_false]

theorem word_fmul16 (s : BitVec 5) (d : BitVec 5) (y : Nat) (hy : y = partsNat [(5, 26), (5, d.toNat), (5, s.toNat), (1, 0)]) :
    decode16 y = accept (.fmul16 s d) := by
  have ok : partsOk [(5, 26), (5, d.toNat), (5, s.toNat), (1, 0)] := ⟨by decide, d.isLt, s.isLt, by decide, trivial⟩
  have e0 : bits y 10 5 = s := bits_of (part_at hy ok 2 rfl rfl)
  have e1 : bits y 5 5 = d := bits_of (part_at hy ok 1 rfl rfl)
  have f0 : field y 1 4 = 13 := part_in hy ok 0 1 rfl rfl rfl (by decide)
  have f1 : field y 1 4 = 13 := part_in hy ok 0 1 rfl rfl rfl (by decide)
  have f2 : field y 1 4 = 13 := part_in hy ok 0 1 rfl rfl rfl (by decide)
  have f3 : field y 1 4 = 13 := part_in hy ok 0 1 rfl rfl rfl (by decide)
  have f4 : field y 1 4 = 13 := part_in hy ok 0 1 rfl rfl rfl (by decide)
  have f5 : field y 1 4 = 13 := part_in hy ok 0 1 rfl rfl rfl (by decide)
  have f6 : field y 1 4 = 13 := part_in hy ok 0 1 rfl rfl rfl (by decide)
  have f7 : field y 1 4 = 13 := part_in hy ok 0 1 rfl rfl rfl (by decide)
  have f8 : field y 1 4 = 13 := part_in hy ok 0 1 rfl rfl rfl (by decide)
  have f9 : field y 1 4 = 13 := part_in hy ok 0 1 rfl rfl rfl (by decide)
  have f10 : field y 1 4 = 13 := part_in hy ok 0 1 rfl rfl rfl (by decide)
  have f11 : field y 1 4 = 13 := part_in hy ok 0 1 rfl rfl rfl (by decide)
  have f12 : field y 1 4 = 13 := part_in hy ok 0 1 rfl rfl rfl (by decide)
  have f13 : field y 1 4 = 13 := part_in hy ok 0 1 rfl rfl rfl (by decide)
  rw [row_16 (part_in hy ok 3 0 rfl rfl rfl (by decide))]
  simp only [ofRow, row16, pickRow, fixedIs, e0, e1, f0, f1, f2, f3, f4, f5, f6, f7, f8, f9, f10, f11, f12, f13, Nat.reduceBEq, beq_self_eq_true, Bool.and_true, Bool.and_false, Bool.false_and, Bool.true_and, Bool.false_eq_true, if_true, if_false]

theorem word_fmax16 (s : BitVec 5) (d : BitVec 5) (y : Nat) (hy : y = partsNat [(5, 28), (5, d.toNat), (5, s.toNat), (1, 0)]) :
    decode16 y = accept (.fmax16 s d) := by
  have ok : partsOk [(5, 28), (5, d.toNat), (5, s.toNat), (1, 0)] := ⟨by decide, d.isLt, s.isLt, by decide, trivial⟩
  have e0 : bits y 10 5 = s := bits_of (part_at hy ok 2 rfl rfl)
  have e1 : bits y 5 5 = d := bits_of (part_at hy ok 1 rfl rfl)
  have f0 : field y 1 4 = 14 := part_in hy ok 0 1 rfl rfl rfl (by decide)
  have f1 : field y 1 4 = 14 := part_in hy ok 0 1 rfl rfl rfl (by decide)
  have f2 : field y 1 4 = 14 := part_in hy ok 0 1 rfl rfl rfl (by decide)
  have f3 : field y 1 4 = 14 := part_in hy ok 0 1 rfl rfl rfl (by decide)
  have f4 : field y 1 4 = 14 := part_in hy ok 0 1 rfl rfl rfl (by decide)
  have f5 : field y 1 4 = 14 := part_in hy ok 0 1 rfl rfl rfl (by decide)
  have f6 : field y 1 4 = 14 := part_in hy ok 0 1 rfl rfl rfl (by decide)
  have f7 : field y 1 4 = 14 := part_in hy ok 0 1 rfl rfl rfl (by decide)
  have f8 : field y 1 4 = 14 := part_in hy ok 0 1 rfl rfl rfl (by decide)
  have f9 : field y 1 4 = 14 := part_in hy ok 0 1 rfl rfl rfl (by decide)
  have f10 : field y 1 4 = 14 := part_in hy ok 0 1 rfl rfl rfl (by decide)
  have f11 : field y 1 4 = 14 := part_in hy ok 0 1 rfl rfl rfl (by decide)
  have f12 : field y 1 4 = 14 := part_in hy ok 0 1 rfl rfl rfl (by decide)
  have f13 : field y 1 4 = 14 := part_in hy ok 0 1 rfl rfl rfl (by decide)
  have f14 : field y 1 4 = 14 := part_in hy ok 0 1 rfl rfl rfl (by decide)
  rw [row_16 (part_in hy ok 3 0 rfl rfl rfl (by decide))]
  simp only [ofRow, row16, pickRow, fixedIs, e0, e1, f0, f1, f2, f3, f4, f5, f6, f7, f8, f9, f10, f11, f12, f13, f14, Nat.reduceBEq, beq_self_eq_true, Bool.and_true, Bool.and_false, Bool.false_and, Bool.true_and, Bool.false_eq_true, if_true, if_false]

theorem word_fmin16 (s : BitVec 5) (d : BitVec 5) (y : Nat) (hy : y = partsNat [(5, 30), (5, d.toNat), (5, s.toNat), (1, 0)]) :
    decode16 y = accept (.fmin16 s d) := by
  have ok : partsOk [(5, 30), (5, d.toNat), (5, s.toNat), (1, 0)] := ⟨by decide, d.isLt, s.isLt, by decide, trivial⟩
  have e0 : bits y 10 5 = s := bits_of (part_at hy ok 2 rfl rfl)
  have e1 : bits y 5 5 = d := bits_of (part_at hy ok 1 rfl rfl)
  have f0 : field y 1 4 = 15 := part_in hy ok 0 1 rfl rfl rfl (by decide)
  have f1 : field y 1 4 = 15 := part_in hy ok 0 1 rfl rfl rfl (by decide)
  have f2 : field y 1 4 = 15 := part_in hy ok 0 1 rfl rfl rfl (by decide)
  have f3 : field y 1 4 = 15 := part_in hy ok 0 1 rfl rfl rfl (by decide)
  have f4 : field y 1 4 = 15 := part_in hy ok 0 1 rfl rfl rfl (by decide)
  have f5 : field y 1 4 = 15 := part_in hy ok 0 1 rfl rfl rfl (by decide)
  have f6 : field y 1 4 = 15 := part_in hy ok 0 1 rfl rfl rfl (by decide)
  have f7 : field y 1 4 = 15 := part_in hy ok 0 1 rfl rfl rfl (by decide)
  have f8 : field y 1 4 = 15 := part_in hy ok 0 1 rfl rfl rfl (by decide)
  have f9 : field y 1 4 = 15 := part_in hy ok 0 1 rfl rfl rfl (by decide)
  have f10 : field y 1 4 = 15 := part_in hy ok 0 1 rfl rfl rfl (by decide)
  have f11 : field y 1 4 = 15 := part_in hy ok 0 1 rfl rfl rfl (by decide)
  have f12 : field y 1 4 = 15 := part_in hy ok 0 1 rfl rfl rfl (by decide)
  have f13 : field y 1 4 = 15 := part_in hy ok 0 1 rfl rfl rfl (by decide)
  have f14 : field y 1 4 = 15 := part_in hy ok 0 1 rfl rfl rfl (by decide)
  have f15 : field y 1 4 = 15 := part_in hy ok 0 1 rfl rfl rfl (by decide)
  rw [row_16 (part_in hy ok 3 0 rfl rfl rfl (by decide))]
  simp only [ofRow, row16, pickRow, fixedIs, e0, e1, f0, f1, f2, f3, f4, f5, f6, f7, f8, f9, f10, f11, f12, f13, f14, f15, Nat.reduceBEq, beq_self_eq_true, Bool.and_true, Bool.and_false, Bool.false_and, Bool.true_and, Bool.false_eq_true, if_true, if_false]

theorem word_nop (n : BitVec 4) (s : BitVec 1) (y : Nat) (hy : y = partsNat [(1, 1), (1, s.toNat), (14, 0), (4, n.toNat), (12, 0)]) :
    decode32 y = accept (.nop n s) := by
  have ok : partsOk [(1, 1), (1, s.toNat), (14, 0), (4, n.toNat), (12, 0)] := ⟨by decide, s.isLt, by decide, n.isLt, by decide, trivial⟩
  have e0 : bits y 16 4 = n := bits_of (part_at hy ok 3 rfl rfl)
  have e1 : bits y 1 1 = s := bits_of (part_at hy ok 1 rfl rfl)
  have f0 : field y 8 8 = 0 := part_in hy ok 2 6 rfl rfl rfl (by decide)
  have f1 : field y 20 12 = 0 := part_in hy ok 4 0 rfl rfl rfl (by decide)
  rw [row_Maj00 (part_in hy ok 2 0 rfl rfl rfl (by decide))]
  simp only [ofRow, rowMaj00, pickRow, fixedIs, e0, e1, f0, f1, Nat.reduceBEq, beq_self_eq_true, Bool.and_true, Bool.and_false, Bool.false_and, Bool.true_and, Bool.false_eq_true, if_true, if_false]

theorem word_exit (y : Nat) (hy : y = partsNat [(32, 259)]) :
    decode32 y = accept (.exit) := by
  have ok : partsOk [(32, 259)] := ⟨by decide, trivial⟩
  have f0 : field y 8 8 = 1 := part_in hy ok 0 8 rfl rfl rfl (by decide)
  have f1 : field y 1 1 = 1 := part_in hy ok 0 1 rfl rfl rfl (by decide)
  have f2 : field y 8 24 = 1 := part_in hy ok 0 8 rfl rfl rfl (by decide)
  rw [row_Maj00 (part_in hy ok 0 2 rfl rfl rfl (by decide))]
  simp only [ofRow, rowMaj00, pickRow, fixedIs, f0, f1, f2, Nat.reduceBEq, beq_self_eq_true, Bool.and_true, Bool.and_false, Bool.false_and, Bool.true_and, Bool.false_eq_true, if_true, if_false]

theorem word_yield (y : Nat) (hy : y = partsNat [(32, 515)]) :
    decode32 y = accept (.yield) := by
  have ok : partsOk [(32, 515)] := ⟨by decide, trivial⟩
  have f0 : field y 8 8 = 2 := part_in hy ok 0 8 rfl rfl rfl (by decide)
  have f1 : field y 8 24 = 2 := part_in hy ok 0 8 rfl rfl rfl (by decide)
  have f2 : field y 1 1 = 1 := part_in hy ok 0 1 rfl rfl rfl (by decide)
  have f3 : field y 8 24 = 2 := part_in hy ok 0 8 rfl rfl rfl (by decide)
  rw [row_Maj00 (part_in hy ok 0 2 rfl rfl rfl (by decide))]
  simp only [ofRow, rowMaj00, pickRow, fixedIs, f0, f1, f2, f3, Nat.reduceBEq, beq_self_eq_true, Bool.and_true, Bool.and_false, Bool.false_and, Bool.true_and, Bool.false_eq_true, if_true, if_false]

theorem word_ret (y : Nat) (hy : y = partsNat [(32, 771)]) :
    decode32 y = accept (.ret) := by
  have ok : partsOk [(32, 771)] := ⟨by decide, trivial⟩
  have f0 : field y 8 8 = 3 := part_in hy ok 0 8 rfl rfl rfl (by decide)
  have f1 : field y 8 24 = 3 := part_in hy ok 0 8 rfl rfl rfl (by decide)
  have f2 : field y 8 24 = 3 := part_in hy ok 0 8 rfl rfl rfl (by decide)
  have f3 : field y 1 1 = 1 := part_in hy ok 0 1 rfl rfl rfl (by decide)
  have f4 : field y 8 24 = 3 := part_in hy ok 0 8 rfl rfl rfl (by decide)
  rw [row_Maj00 (part_in hy ok 0 2 rfl rfl rfl (by decide))]
  simp only [ofRow, rowMaj00, pickRow, fixedIs, f0, f1, f2, f3, f4, Nat.reduceBEq, beq_self_eq_true, Bool.and_true, Bool.and_false, Bool.false_and, Bool.true_and, Bool.false_eq_true, if_true, if_false]

theorem word_trl (m : BitVec 3) (s : BitVec 1) (y : Nat) (hy : y = partsNat [(1, 1), (1, s.toNat), (14, 256), (3, m.toNat), (13, 0)]) :
    decode32 y = accept (.trl m s) := by
  have ok : partsOk [(1, 1), (1, s.toNat), (14, 256), (3, m.toNat), (13, 0)] := ⟨by decide, s.isLt, by decide, m.isLt, by decide, trivial⟩
  have e0 : bits y 16 3 = m := bits_of (part_at hy ok 3 rfl rfl)
  have e1 : bits y 1 1 = s := bits_of (part_at hy ok 1 rfl rfl)
  have f0 : field y 8 8 = 4 := part_in hy ok 2 6 rfl rfl rfl (by decide)
  have f1 : (field y 8 24 == 1) = false :=
    part_not (part_in hy ok 2 6 rfl rfl rfl (by decide) : field y 8 8 = 4) 0 rfl (by decide) (by decide)
  have f2 : (field y 8 24 == 2) = false :=
    part_not (part_in hy ok 2 6 rfl rfl rfl (by decide) : field y 8 8 = 4) 0 rfl (by decide) (by decide)
  have f3 : (field y 8 24 == 3) = false :=
    part_not (part_in hy ok 2 6 rfl rfl rfl (by decide) : field y 8 8 = 4) 0 rfl (by decide) (by decide)
  have f4 : field y 8 8 = 4 := part_in hy ok 2 6 rfl rfl rfl (by decide)
  have f5 : field y 19 13 = 0 := part_in hy ok 4 0 rfl rfl rfl (by decide)
  rw [row_Maj00 (part_in hy ok 2 0 rfl rfl rfl (by decide))]
  simp only [ofRow, rowMaj00, pickRow, fixedIs, e0, e1, f0, f1, f2, f3, f4, f5, Nat.reduceBEq, beq_self_eq_true, Bool.and_true, Bool.and_false, Bool.false_and, Bool.true_and, Bool.false_eq_true, if_true, if_false]

theorem word_rjn (t : BitVec 4) (y : Nat) (hy : y = partsNat [(16, 1283), (4, t.toNat), (12, 0)]) :
    decode32 y = accept (.rjn t) := by
  have ok : partsOk [(16, 1283), (4, t.toNat), (12, 0)] := ⟨by decide, t.isLt, by decide, trivial⟩
  have e0 : bits y 16 4 = t := bits_of (part_at hy ok 1 rfl rfl)
  have f0 : field y 8 8 = 5 := part_in hy ok 0 8 rfl rfl rfl (by decide)
  have f1 : (field y 8 24 == 1) = false :=
    part_not (part_in hy ok 0 8 rfl rfl rfl (by decide) : field y 8 8 = 5) 0 rfl (by decide) (by decide)
  have f2 : (field y 8 24 == 2) = false :=
    part_not (part_in hy ok 0 8 rfl rfl rfl (by decide) : field y 8 8 = 5) 0 rfl (by decide) (by decide)
  have f3 : (field y 8 24 == 3) = false :=
    part_not (part_in hy ok 0 8 rfl rfl rfl (by decide) : field y 8 8 = 5) 0 rfl (by decide) (by decide)
  have f4 : field y 8 8 = 5 := part_in hy ok 0 8 rfl rfl rfl (by decide)
  have f5 : field y 1 1 = 1 := part_in hy ok 0 1 rfl rfl rfl (by decide)
  have f6 : field y 8 8 = 5 := part_in hy ok 0 8 rfl rfl rfl (by decide)
  have f7 : field y 20 12 = 0 := part_in hy ok 2 0 rfl rfl rfl (by decide)
  rw [row_Maj00 (part_in hy ok 0 2 rfl rfl rfl (by decide))]
  simp only [ofRow, rowMaj00, pickRow, fixedIs, e0, f0, f1, f2, f3, f4, f5, f6, f7, Nat.reduceBEq, beq_self_eq_true, Bool.and_true, Bool.and_false, Bool.false_and, Bool.true_and, Bool.false_eq_true, if_true, if_false]

theorem word_brk (c : BitVec 16) (y : Nat) (hy : y = partsNat [(16, 1539), (16, c.toNat)]) :
    decode32 y = accept (.brk c) := by
  have ok : partsOk [(16, 1539), (16, c.toNat)] := ⟨by decide, c.isLt, trivial⟩
  have e0 : bits y 16 16 = c := bits_of (part_at hy ok 1 rfl rfl)
  have f0 : field y 8 8 = 6 := part_in hy ok 0 8 rfl rfl rfl (by decide)
  have f1 : (field y 8 24 == 1) = false :=
    part_not (part_in hy ok 0 8 rfl rfl rfl (by decide) : field y 8 8 = 6) 0 rfl (by decide) (by decide)
  have f2 : (field y 8 24 == 2) = false :=
    part_not (part_in hy ok 0 8 rfl rfl rfl (by decide) : field y 8 8 = 6) 0 rfl (by decide) (by decide)
  have f3 : (field y 8 24 == 3) = false :=
    part_not (part_in hy ok 0 8 rfl rfl rfl (by decide) : field y 8 8 = 6) 0 rfl (by decide) (by decide)
  have f4 : field y 8 8 = 6 := part_in hy ok 0 8 rfl rfl rfl (by decide)
  have f5 : field y 8 8 = 6 := part_in hy ok 0 8 rfl rfl rfl (by decide)
  have f6 : field y 1 1 = 1 := part_in hy ok 0 1 rfl rfl rfl (by decide)
  have f7 : field y 8 8 = 6 := part_in hy ok 0 8 rfl rfl rfl (by decide)
  rw [row_Maj00 (part_in hy ok 0 2 rfl rfl rfl (by decide))]
  simp only [ofRow, rowMaj00, pickRow, fixedIs, e0, f0, f1, f2, f3, f4, f5, f6, f7, Nat.reduceBEq, beq_self_eq_true, Bool.and_true, Bool.and_false, Bool.false_and, Bool.true_and, Bool.false_eq_true, if_true, if_false]

theorem word_halt (y : Nat) (hy : y = partsNat [(32, 1795)]) :
    decode32 y = accept (.halt) := by
  have ok : partsOk [(32, 1795)] := ⟨by decide, trivial⟩
  have f0 : field y 8 8 = 7 := part_in hy ok 0 8 rfl rfl rfl (by decide)
  have f1 : field y 8 24 = 7 := part_in hy ok 0 8 rfl rfl rfl (by decide)
  have f2 : field y 8 24 = 7 := part_in hy ok 0 8 rfl rfl rfl (by decide)
  have f3 : field y 8 24 = 7 := part_in hy ok 0 8 rfl rfl rfl (by decide)
  have f4 : field y 8 8 = 7 := part_in hy ok 0 8 rfl rfl rfl (by decide)
  have f5 : field y 8 8 = 7 := part_in hy ok 0 8 rfl rfl rfl (by decide)
  have f6 : field y 8 8 = 7 := part_in hy ok 0 8 rfl rfl rfl (by decide)
  have f7 : field y 1 1 = 1 := part_in hy ok 0 1 rfl rfl rfl (by decide)
  have f8 : field y 8 24 = 7 := part_in hy ok 0 8 rfl rfl rfl (by decide)
  rw [row_Maj00 (part_in hy ok 0 2 rfl rfl rfl (by decide))]
  simp only [ofRow, rowMaj00, pickRow, fixedIs, f0, f1, f2, f3, f4, f5, f6, f7, f8, Nat.reduceBEq, beq_self_eq_true, Bool.and_true, Bool.and_false, Bool.false_and, Bool.true_and, Bool.false_eq_true, if_true, if_false]

theorem word_br (o : BitVec 24) (y : Nat) (hy : y = partsNat [(8, 7), (24, o.toNat)]) :
    decode32 y = accept (.br o) := by
  have ok : partsOk [(8, 7), (24, o.toNat)] := ⟨by decide, o.isLt, trivial⟩
  have e0 : bits y 8 24 = o := bits_of (part_at hy ok 1 rfl rfl)
  have f0 : field y 1 1 = 1 := part_in hy ok 0 1 rfl rfl rfl (by decide)
  rw [row_Maj01 (part_in hy ok 0 2 rfl rfl rfl (by decide))]
  simp only [ofRow, rowMaj01, pickRow, fixedIs, e0, f0, Nat.reduceBEq, beq_self_eq_true, Bool.and_true, Bool.and_false, Bool.false_and, Bool.true_and, Bool.false_eq_true, if_true, if_false]

theorem word_brp (o : BitVec 16) (t : BitVec 4) (p : BitVec 3) (y : Nat) (hy : y = partsNat [(8, 11), (3, p.toNat), (1, 1), (4, t.toNat), (16, o.toNat)]) :
    decode32 y = accept (.brp o t p) := by
  have ok : partsOk [(8, 11), (3, p.toNat), (1, 1), (4, t.toNat), (16, o.toNat)] := ⟨by decide, p.isLt, by decide, t.isLt, o.isLt, trivial⟩
  have e0 : bits y 16 16 = o := bits_of (part_at hy ok 4 rfl rfl)
  have e1 : bits y 12 4 = t := bits_of (part_at hy ok 3 rfl rfl)
  have e2 : bits y 8 3 = p := bits_of (part_at hy ok 1 rfl rfl)
  have f0 : field y 1 1 = 1 := part_in hy ok 0 1 rfl rfl rfl (by decide)
  have f1 : field y 11 1 = 1 := part_in hy ok 2 0 rfl rfl rfl (by decide)
  rw [row_Maj02 (part_in hy ok 0 2 rfl rfl rfl (by decide))]
  simp only [ofRow, rowMaj02, pickRow, fixedIs, e0, e1, e2, f0, f1, Nat.reduceBEq, beq_self_eq_true, Bool.and_true, Bool.and_false, Bool.false_and, Bool.true_and, Bool.false_eq_true, if_true, if_false]

theorem word_brpF (o : BitVec 16) (t : BitVec 4) (p : BitVec 3) (y : Nat) (hy : y = partsNat [(8, 11), (3, p.toNat), (1, 0), (4, t.toNat), (16, o.toNat)]) :
    decode32 y = accept (.brpF o t p) := by
  have ok : partsOk [(8, 11), (3, p.toNat), (1, 0), (4, t.toNat), (16, o.toNat)] := ⟨by decide, p.isLt, by decide, t.isLt, o.isLt, trivial⟩
  have e0 : bits y 16 16 = o := bits_of (part_at hy ok 4 rfl rfl)
  have e1 : bits y 12 4 = t := bits_of (part_at hy ok 3 rfl rfl)
  have e2 : bits y 8 3 = p := bits_of (part_at hy ok 1 rfl rfl)
  have f0 : field y 11 1 = 0 := part_in hy ok 2 0 rfl rfl rfl (by decide)
  have f1 : field y 1 1 = 1 := part_in hy ok 0 1 rfl rfl rfl (by decide)
  have f2 : field y 11 1 = 0 := part_in hy ok 2 0 rfl rfl rfl (by decide)
  rw [row_Maj02 (part_in hy ok 0 2 rfl rfl rfl (by decide))]
  simp only [ofRow, rowMaj02, pickRow, fixedIs, e0, e1, e2, f0, f1, f2, Nat.reduceBEq, beq_self_eq_true, Bool.and_true, Bool.and_false, Bool.false_and, Bool.true_and, Bool.false_eq_true, if_true, if_false]

theorem word_call (o : BitVec 24) (y : Nat) (hy : y = partsNat [(8, 15), (24, o.toNat)]) :
    decode32 y = accept (.call o) := by
  have ok : partsOk [(8, 15), (24, o.toNat)] := ⟨by decide, o.isLt, trivial⟩
  have e0 : bits y 8 24 = o := bits_of (part_at hy ok 1 rfl rfl)
  have f0 : field y 1 1 = 1 := part_in hy ok 0 1 rfl rfl rfl (by decide)
  rw [row_Maj03 (part_in hy ok 0 2 rfl rfl rfl (by decide))]
  simp only [ofRow, rowMaj03, pickRow, fixedIs, e0, f0, Nat.reduceBEq, beq_self_eq_true, Bool.and_true, Bool.and_false, Bool.false_and, Bool.true_and, Bool.false_eq_true, if_true, if_false]

theorem word_brx (a : BitVec 7) (y : Nat) (hy : y = partsNat [(15, 19), (7, a.toNat), (10, 0)]) :
    decode32 y = accept (.brx a) := by
  have ok : partsOk [(15, 19), (7, a.toNat), (10, 0)] := ⟨by decide, a.isLt, by decide, trivial⟩
  have e0 : bits y 15 7 = a := bits_of (part_at hy ok 1 rfl rfl)
  have f0 : field y 1 1 = 1 := part_in hy ok 0 1 rfl rfl rfl (by decide)
  have f1 : field y 8 7 = 0 := part_in hy ok 0 8 rfl rfl rfl (by decide)
  have f2 : field y 22 10 = 0 := part_in hy ok 2 0 rfl rfl rfl (by decide)
  rw [row_Maj04 (part_in hy ok 0 2 rfl rfl rfl (by decide))]
  simp only [ofRow, rowMaj04, pickRow, fixedIs, e0, f0, f1, f2, Nat.reduceBEq, beq_self_eq_true, Bool.and_true, Bool.and_false, Bool.false_and, Bool.true_and, Bool.false_eq_true, if_true, if_false]

theorem word_callx (a : BitVec 7) (y : Nat) (hy : y = partsNat [(15, 19), (7, a.toNat), (10, 128)]) :
    decode32 y = accept (.callx a) := by
  have ok : partsOk [(15, 19), (7, a.toNat), (10, 128)] := ⟨by decide, a.isLt, by decide, trivial⟩
  have e0 : bits y 15 7 = a := bits_of (part_at hy ok 1 rfl rfl)
  have f0 : field y 22 10 = 128 := part_in hy ok 2 0 rfl rfl rfl (by decide)
  have f1 : field y 1 1 = 1 := part_in hy ok 0 1 rfl rfl rfl (by decide)
  have f2 : field y 8 7 = 0 := part_in hy ok 0 8 rfl rfl rfl (by decide)
  have f3 : field y 22 10 = 128 := part_in hy ok 2 0 rfl rfl rfl (by decide)
  rw [row_Maj04 (part_in hy ok 0 2 rfl rfl rfl (by decide))]
  simp only [ofRow, rowMaj04, pickRow, fixedIs, e0, f0, f1, f2, f3, Nat.reduceBEq, beq_self_eq_true, Bool.and_true, Bool.and_false, Bool.false_and, Bool.true_and, Bool.false_eq_true, if_true, if_false]

theorem word_rfm (o : BitVec 16) (l : BitVec 7) (y : Nat) (hy : y = partsNat [(8, 23), (7, l.toNat), (1, 0), (16, o.toNat)]) :
    decode32 y = accept (.rfm o l) := by
  have ok : partsOk [(8, 23), (7, l.toNat), (1, 0), (16, o.toNat)] := ⟨by decide, l.isLt, by decide, o.isLt, trivial⟩
  have e0 : bits y 16 16 = o := bits_of (part_at hy ok 3 rfl rfl)
  have e1 : bits y 8 7 = l := bits_of (part_at hy ok 1 rfl rfl)
  have f0 : field y 1 1 = 1 := part_in hy ok 0 1 rfl rfl rfl (by decide)
  have f1 : field y 15 1 = 0 := part_in hy ok 2 0 rfl rfl rfl (by decide)
  rw [row_Maj05 (part_in hy ok 0 2 rfl rfl rfl (by decide))]
  simp only [ofRow, rowMaj05, pickRow, fixedIs, e0, e1, f0, f1, Nat.reduceBEq, beq_self_eq_true, Bool.and_true, Bool.and_false, Bool.false_and, Bool.true_and, Bool.false_eq_true, if_true, if_false]

theorem word_waitAny (b : BitVec 6) (a : BitVec 6) (d : BitVec 6) (y : Nat) (hy : y = partsNat [(8, 27), (6, d.toNat), (6, a.toNat), (6, b.toNat), (6, 0)]) :
    decode32 y = accept (.waitAny b a d) := by
  have ok : partsOk [(8, 27), (6, d.toNat), (6, a.toNat), (6, b.toNat), (6, 0)] := ⟨by decide, d.isLt, a.isLt, b.isLt, by decide, trivial⟩
  have e0 : bits y 20 6 = b := bits_of (part_at hy ok 3 rfl rfl)
  have e1 : bits y 14 6 = a := bits_of (part_at hy ok 2 rfl rfl)
  have e2 : bits y 8 6 = d := bits_of (part_at hy ok 1 rfl rfl)
  have f0 : field y 1 1 = 1 := part_in hy ok 0 1 rfl rfl rfl (by decide)
  have f1 : field y 26 6 = 0 := part_in hy ok 4 0 rfl rfl rfl (by decide)
  rw [row_Maj06 (part_in hy ok 0 2 rfl rfl rfl (by decide))]
  simp only [ofRow, rowMaj06, pickRow, fixedIs, e0, e1, e2, f0, f1, Nat.reduceBEq, beq_self_eq_true, Bool.and_true, Bool.and_false, Bool.false_and, Bool.true_and, Bool.false_eq_true, if_true, if_false]

theorem word_waitAll (b : BitVec 6) (a : BitVec 6) (d : BitVec 6) (y : Nat) (hy : y = partsNat [(8, 27), (6, d.toNat), (6, a.toNat), (6, b.toNat), (6, 1)]) :
    decode32 y = accept (.waitAll b a d) := by
  have ok : partsOk [(8, 27), (6, d.toNat), (6, a.toNat), (6, b.toNat), (6, 1)] := ⟨by decide, d.isLt, a.isLt, b.isLt, by decide, trivial⟩
  have e0 : bits y 20 6 = b := bits_of (part_at hy ok 3 rfl rfl)
  have e1 : bits y 14 6 = a := bits_of (part_at hy ok 2 rfl rfl)
  have e2 : bits y 8 6 = d := bits_of (part_at hy ok 1 rfl rfl)
  have f0 : field y 26 6 = 1 := part_in hy ok 4 0 rfl rfl rfl (by decide)
  have f1 : field y 1 1 = 1 := part_in hy ok 0 1 rfl rfl rfl (by decide)
  have f2 : field y 26 6 = 1 := part_in hy ok 4 0 rfl rfl rfl (by decide)
  rw [row_Maj06 (part_in hy ok 0 2 rfl rfl rfl (by decide))]
  simp only [ofRow, rowMaj06, pickRow, fixedIs, e0, e1, e2, f0, f1, f2, Nat.reduceBEq, beq_self_eq_true, Bool.and_true, Bool.and_false, Bool.false_and, Bool.true_and, Bool.false_eq_true, if_true, if_false]

theorem word_barArv (c : BitVec 12) (b : BitVec 9) (s : BitVec 1) (y : Nat) (hy : y = partsNat [(1, 1), (1, s.toNat), (9, 7), (9, b.toNat), (12, c.toNat)]) :
    decode32 y = accept (.barArv c b s) := by
  have ok : partsOk [(1, 1), (1, s.toNat), (9, 7), (9, b.toNat), (12, c.toNat)] := ⟨by decide, s.isLt, by decide, b.isLt, c.isLt, trivial⟩
  have e0 : bits y 20 12 = c := bits_of (part_at hy ok 4 rfl rfl)
  have e1 : bits y 11 9 = b := bits_of (part_at hy ok 3 rfl rfl)
  have e2 : bits y 1 1 = s := bits_of (part_at hy ok 1 rfl rfl)
  have f0 : field y 8 3 = 0 := part_in hy ok 2 6 rfl rfl rfl (by decide)
  rw [row_Maj07 (part_in hy ok 2 0 rfl rfl rfl (by decide))]
  simp only [ofRow, rowMaj07, pickRow, fixedIs, e0, e1, e2, f0, Nat.reduceBEq, beq_self_eq_true, Bool.and_true, Bool.and_false, Bool.false_and, Bool.true_and, Bool.false_eq_true, if_true, if_false]

theorem word_barWt (c : BitVec 12) (b : BitVec 9) (y : Nat) (hy : y = partsNat [(11, 287), (9, b.toNat), (12, c.toNat)]) :
    decode32 y = accept (.barWt c b) := by
  have ok : partsOk [(11, 287), (9, b.toNat), (12, c.toNat)] := ⟨by decide, b.isLt, c.isLt, trivial⟩
  have e0 : bits y 20 12 = c := bits_of (part_at hy ok 2 rfl rfl)
  have e1 : bits y 11 9 = b := bits_of (part_at hy ok 1 rfl rfl)
  have f0 : field y 8 3 = 1 := part_in hy ok 0 8 rfl rfl rfl (by decide)
  have f1 : field y 1 1 = 1 := part_in hy ok 0 1 rfl rfl rfl (by decide)
  have f2 : field y 8 3 = 1 := part_in hy ok 0 8 rfl rfl rfl (by decide)
  rw [row_Maj07 (part_in hy ok 0 2 rfl rfl rfl (by decide))]
  simp only [ofRow, rowMaj07, pickRow, fixedIs, e0, e1, f0, f1, f2, Nat.reduceBEq, beq_self_eq_true, Bool.and_true, Bool.and_false, Bool.false_and, Bool.true_and, Bool.false_eq_true, if_true, if_false]

theorem word_barSyn (c : BitVec 12) (b : BitVec 9) (y : Nat) (hy : y = partsNat [(11, 543), (9, b.toNat), (12, c.toNat)]) :
    decode32 y = accept (.barSyn c b) := by
  have ok : partsOk [(11, 543), (9, b.toNat), (12, c.toNat)] := ⟨by decide, b.isLt, c.isLt, trivial⟩
  have e0 : bits y 20 12 = c := bits_of (part_at hy ok 2 rfl rfl)
  have e1 : bits y 11 9 = b := bits_of (part_at hy ok 1 rfl rfl)
  have f0 : field y 8 3 = 2 := part_in hy ok 0 8 rfl rfl rfl (by decide)
  have f1 : field y 8 3 = 2 := part_in hy ok 0 8 rfl rfl rfl (by decide)
  have f2 : field y 1 1 = 1 := part_in hy ok 0 1 rfl rfl rfl (by decide)
  have f3 : field y 8 3 = 2 := part_in hy ok 0 8 rfl rfl rfl (by decide)
  rw [row_Maj07 (part_in hy ok 0 2 rfl rfl rfl (by decide))]
  simp only [ofRow, rowMaj07, pickRow, fixedIs, e0, e1, f0, f1, f2, f3, Nat.reduceBEq, beq_self_eq_true, Bool.and_true, Bool.and_false, Bool.false_and, Bool.true_and, Bool.false_eq_true, if_true, if_false]

theorem word_gbar (y : Nat) (hy : y = partsNat [(32, 35)]) :
    decode32 y = accept (.gbar) := by
  have ok : partsOk [(32, 35)] := ⟨by decide, trivial⟩
  have f0 : field y 1 1 = 1 := part_in hy ok 0 1 rfl rfl rfl (by decide)
  have f1 : field y 8 24 = 0 := part_in hy ok 0 8 rfl rfl rfl (by decide)
  rw [row_Maj08 (part_in hy ok 0 2 rfl rfl rfl (by decide))]
  simp only [ofRow, rowMaj08, pickRow, fixedIs, f0, f1, Nat.reduceBEq, beq_self_eq_true, Bool.and_true, Bool.and_false, Bool.false_and, Bool.true_and, Bool.false_eq_true, if_true, if_false]

theorem word_spawn (a : BitVec 6) (s : BitVec 1) (y : Nat) (hy : y = partsNat [(1, 1), (1, s.toNat), (12, 8), (6, a.toNat), (12, 64)]) :
    decode32 y = accept (.spawn a s) := by
  have ok : partsOk [(1, 1), (1, s.toNat), (12, 8), (6, a.toNat), (12, 64)] := ⟨by decide, s.isLt, by decide, a.isLt, by decide, trivial⟩
  have e0 : bits y 14 6 = a := bits_of (part_at hy ok 3 rfl rfl)
  have e1 : bits y 1 1 = s := bits_of (part_at hy ok 1 rfl rfl)
  have f0 : (field y 8 24 == 0) = false :=
    part_not (part_in hy ok 4 0 rfl rfl rfl (by decide) : field y 20 12 = 64) 12 rfl (by decide) (by decide)
  have f1 : field y 8 6 = 0 := part_in hy ok 2 6 rfl rfl rfl (by decide)
  have f2 : field y 20 12 = 64 := part_in hy ok 4 0 rfl rfl rfl (by decide)
  rw [row_Maj08 (part_in hy ok 2 0 rfl rfl rfl (by decide))]
  simp only [ofRow, rowMaj08, pickRow, fixedIs, e0, e1, f0, f1, f2, Nat.reduceBEq, beq_self_eq_true, Bool.and_true, Bool.and_false, Bool.false_and, Bool.true_and, Bool.false_eq_true, if_true, if_false]

theorem word_jdec (a : BitVec 6) (s : BitVec 1) (y : Nat) (hy : y = partsNat [(1, 1), (1, s.toNat), (12, 8), (6, a.toNat), (12, 128)]) :
    decode32 y = accept (.jdec a s) := by
  have ok : partsOk [(1, 1), (1, s.toNat), (12, 8), (6, a.toNat), (12, 128)] := ⟨by decide, s.isLt, by decide, a.isLt, by decide, trivial⟩
  have e0 : bits y 14 6 = a := bits_of (part_at hy ok 3 rfl rfl)
  have e1 : bits y 1 1 = s := bits_of (part_at hy ok 1 rfl rfl)
  have f0 : (field y 8 24 == 0) = false :=
    part_not (part_in hy ok 4 0 rfl rfl rfl (by decide) : field y 20 12 = 128) 12 rfl (by decide) (by decide)
  have f1 : field y 20 12 = 128 := part_in hy ok 4 0 rfl rfl rfl (by decide)
  have f2 : field y 8 6 = 0 := part_in hy ok 2 6 rfl rfl rfl (by decide)
  have f3 : field y 20 12 = 128 := part_in hy ok 4 0 rfl rfl rfl (by decide)
  rw [row_Maj08 (part_in hy ok 2 0 rfl rfl rfl (by decide))]
  simp only [ofRow, rowMaj08, pickRow, fixedIs, e0, e1, f0, f1, f2, f3, Nat.reduceBEq, beq_self_eq_true, Bool.and_true, Bool.and_false, Bool.false_and, Bool.true_and, Bool.false_eq_true, if_true, if_false]

theorem word_cancel (a : BitVec 6) (s : BitVec 1) (y : Nat) (hy : y = partsNat [(1, 1), (1, s.toNat), (12, 8), (6, a.toNat), (12, 192)]) :
    decode32 y = accept (.cancel a s) := by
  have ok : partsOk [(1, 1), (1, s.toNat), (12, 8), (6, a.toNat), (12, 192)] := ⟨by decide, s.isLt, by decide, a.isLt, by decide, trivial⟩
  have e0 : bits y 14 6 = a := bits_of (part_at hy ok 3 rfl rfl)
  have e1 : bits y 1 1 = s := bits_of (part_at hy ok 1 rfl rfl)
  have f0 : (field y 8 24 == 0) = false :=
    part_not (part_in hy ok 4 0 rfl rfl rfl (by decide) : field y 20 12 = 192) 12 rfl (by decide) (by decide)
  have f1 : field y 20 12 = 192 := part_in hy ok 4 0 rfl rfl rfl (by decide)
  have f2 : field y 20 12 = 192 := part_in hy ok 4 0 rfl rfl rfl (by decide)
  have f3 : field y 8 6 = 0 := part_in hy ok 2 6 rfl rfl rfl (by decide)
  have f4 : field y 20 12 = 192 := part_in hy ok 4 0 rfl rfl rfl (by decide)
  rw [row_Maj08 (part_in hy ok 2 0 rfl rfl rfl (by decide))]
  simp only [ofRow, rowMaj08, pickRow, fixedIs, e0, e1, f0, f1, f2, f3, f4, Nat.reduceBEq, beq_self_eq_true, Bool.and_true, Bool.and_false, Bool.false_and, Bool.true_and, Bool.false_eq_true, if_true, if_false]

theorem word_rdsr (r : BitVec 6) (d : BitVec 7) (s : BitVec 1) (y : Nat) (hy : y = partsNat [(1, 1), (1, s.toNat), (6, 9), (7, d.toNat), (7, 0), (6, r.toNat), (4, 0)]) :
    decode32 y = accept (.rdsr r d s) := by
  have ok : partsOk [(1, 1), (1, s.toNat), (6, 9), (7, d.toNat), (7, 0), (6, r.toNat), (4, 0)] := ⟨by decide, s.isLt, by decide, d.isLt, by decide, r.isLt, by decide, trivial⟩
  have e0 : bits y 22 6 = r := bits_of (part_at hy ok 5 rfl rfl)
  have e1 : bits y 8 7 = d := bits_of (part_at hy ok 3 rfl rfl)
  have e2 : bits y 1 1 = s := bits_of (part_at hy ok 1 rfl rfl)
  have f0 : field y 15 7 = 0 := part_in hy ok 4 0 rfl rfl rfl (by decide)
  have f1 : field y 28 4 = 0 := part_in hy ok 6 0 rfl rfl rfl (by decide)
  rw [row_Maj09 (part_in hy ok 2 0 rfl rfl rfl (by decide))]
  simp only [ofRow, rowMaj09, pickRow, fixedIs, e0, e1, e2, f0, f1, Nat.reduceBEq, beq_self_eq_true, Bool.and_true, Bool.and_false, Bool.false_and, Bool.true_and, Bool.false_eq_true, if_true, if_false]

theorem word_wrsr (r : BitVec 6) (a : BitVec 7) (s : BitVec 1) (y : Nat) (hy : y = partsNat [(1, 1), (1, s.toNat), (13, 9), (7, a.toNat), (6, r.toNat), (4, 4)]) :
    decode32 y = accept (.wrsr r a s) := by
  have ok : partsOk [(1, 1), (1, s.toNat), (13, 9), (7, a.toNat), (6, r.toNat), (4, 4)] := ⟨by decide, s.isLt, by decide, a.isLt, r.isLt, by decide, trivial⟩
  have e0 : bits y 22 6 = r := bits_of (part_at hy ok 4 rfl rfl)
  have e1 : bits y 15 7 = a := bits_of (part_at hy ok 3 rfl rfl)
  have e2 : bits y 1 1 = s := bits_of (part_at hy ok 1 rfl rfl)
  have f0 : field y 28 4 = 4 := part_in hy ok 5 0 rfl rfl rfl (by decide)
  have f1 : field y 8 7 = 0 := part_in hy ok 2 6 rfl rfl rfl (by decide)
  have f2 : field y 28 4 = 4 := part_in hy ok 5 0 rfl rfl rfl (by decide)
  rw [row_Maj09 (part_in hy ok 2 0 rfl rfl rfl (by decide))]
  simp only [ofRow, rowMaj09, pickRow, fixedIs, e0, e1, e2, f0, f1, f2, Nat.reduceBEq, beq_self_eq_true, Bool.and_true, Bool.and_false, Bool.false_and, Bool.true_and, Bool.false_eq_true, if_true, if_false]

theorem word_mode (m : BitVec 2) (s : BitVec 1) (y : Nat) (hy : y = partsNat [(1, 1), (1, s.toNat), (26, 9), (2, m.toNat), (2, 2)]) :
    decode32 y = accept (.mode m s) := by
  have ok : partsOk [(1, 1), (1, s.toNat), (26, 9), (2, m.toNat), (2, 2)] := ⟨by decide, s.isLt, by decide, m.isLt, by decide, trivial⟩
  have e0 : bits y 28 2 = m := bits_of (part_at hy ok 3 rfl rfl)
  have e1 : bits y 1 1 = s := bits_of (part_at hy ok 1 rfl rfl)
  have f0 : (field y 28 4 == 0) = false :=
    part_not (part_in hy ok 4 0 rfl rfl rfl (by decide) : field y 30 2 = 2) 2 rfl (by decide) (by decide)
  have f1 : (field y 28 4 == 4) = false :=
    part_not (part_in hy ok 4 0 rfl rfl rfl (by decide) : field y 30 2 = 2) 2 rfl (by decide) (by decide)
  have f2 : field y 8 20 = 0 := part_in hy ok 2 6 rfl rfl rfl (by decide)
  have f3 : field y 30 2 = 2 := part_in hy ok 4 0 rfl rfl rfl (by decide)
  rw [row_Maj09 (part_in hy ok 2 0 rfl rfl rfl (by decide))]
  simp only [ofRow, rowMaj09, pickRow, fixedIs, e0, e1, f0, f1, f2, f3, Nat.reduceBEq, beq_self_eq_true, Bool.and_true, Bool.and_false, Bool.false_and, Bool.true_and, Bool.false_eq_true, if_true, if_false]

theorem word_trap (c : BitVec 16) (y : Nat) (hy : y = partsNat [(16, 43), (16, c.toNat)]) :
    decode32 y = accept (.trap c) := by
  have ok : partsOk [(16, 43), (16, c.toNat)] := ⟨by decide, c.isLt, trivial⟩
  have e0 : bits y 16 16 = c := bits_of (part_at hy ok 1 rfl rfl)
  have f0 : field y 1 1 = 1 := part_in hy ok 0 1 rfl rfl rfl (by decide)
  have f1 : field y 8 8 = 0 := part_in hy ok 0 8 rfl rfl rfl (by decide)
  rw [row_Maj0A (part_in hy ok 0 2 rfl rfl rfl (by decide))]
  simp only [ofRow, rowMaj0A, pickRow, fixedIs, e0, f0, f1, Nat.reduceBEq, beq_self_eq_true, Bool.and_true, Bool.and_false, Bool.false_and, Bool.true_and, Bool.false_eq_true, if_true, if_false]

theorem word_tret (y : Nat) (hy : y = partsNat [(32, 299)]) :
    decode32 y = accept (.tret) := by
  have ok : partsOk [(32, 299)] := ⟨by decide, trivial⟩
  have f0 : field y 8 8 = 1 := part_in hy ok 0 8 rfl rfl rfl (by decide)
  have f1 : field y 1 1 = 1 := part_in hy ok 0 1 rfl rfl rfl (by decide)
  have f2 : field y 8 24 = 1 := part_in hy ok 0 8 rfl rfl rfl (by decide)
  rw [row_Maj0A (part_in hy ok 0 2 rfl rfl rfl (by decide))]
  simp only [ofRow, rowMaj0A, pickRow, fixedIs, f0, f1, f2, Nat.reduceBEq, beq_self_eq_true, Bool.and_true, Bool.and_false, Bool.false_and, Bool.true_and, Bool.false_eq_true, if_true, if_false]

theorem word_kadd (i : BitVec 1) (b : BitVec 6) (a : BitVec 6) (d : BitVec 6) (s : BitVec 1) (y : Nat) (hy : y = partsNat [(1, 1), (1, s.toNat), (6, 11), (6, d.toNat), (6, a.toNat), (6, b.toNat), (3, 0), (1, i.toNat), (2, 0)]) :
    decode32 y = accept (.kadd i b a d s) := by
  have ok : partsOk [(1, 1), (1, s.toNat), (6, 11), (6, d.toNat), (6, a.toNat), (6, b.toNat), (3, 0), (1, i.toNat), (2, 0)] := ⟨by decide, s.isLt, by decide, d.isLt, a.isLt, b.isLt, by decide, i.isLt, by decide, trivial⟩
  have e0 : bits y 29 1 = i := bits_of (part_at hy ok 7 rfl rfl)
  have e1 : bits y 20 6 = b := bits_of (part_at hy ok 5 rfl rfl)
  have e2 : bits y 14 6 = a := bits_of (part_at hy ok 4 rfl rfl)
  have e3 : bits y 8 6 = d := bits_of (part_at hy ok 3 rfl rfl)
  have e4 : bits y 1 1 = s := bits_of (part_at hy ok 1 rfl rfl)
  have f0 : field y 26 3 = 0 := part_in hy ok 6 0 rfl rfl rfl (by decide)
  have f1 : field y 30 2 = 0 := part_in hy ok 8 0 rfl rfl rfl (by decide)
  rw [row_Maj0B (part_in hy ok 2 0 rfl rfl rfl (by decide))]
  simp only [ofRow, rowMaj0B, pickRow, fixedIs, e0, e1, e2, e3, e4, f0, f1, Nat.reduceBEq, beq_self_eq_true, Bool.and_true, Bool.and_false, Bool.false_and, Bool.true_and, Bool.false_eq_true, if_true, if_false]

theorem word_ksub (i : BitVec 1) (b : BitVec 6) (a : BitVec 6) (d : BitVec 6) (s : BitVec 1) (y : Nat) (hy : y = partsNat [(1, 1), (1, s.toNat), (6, 11), (6, d.toNat), (6, a.toNat), (6, b.toNat), (3, 1), (1, i.toNat), (2, 0)]) :
    decode32 y = accept (.ksub i b a d s) := by
  have ok : partsOk [(1, 1), (1, s.toNat), (6, 11), (6, d.toNat), (6, a.toNat), (6, b.toNat), (3, 1), (1, i.toNat), (2, 0)] := ⟨by decide, s.isLt, by decide, d.isLt, a.isLt, b.isLt, by decide, i.isLt, by decide, trivial⟩
  have e0 : bits y 29 1 = i := bits_of (part_at hy ok 7 rfl rfl)
  have e1 : bits y 20 6 = b := bits_of (part_at hy ok 5 rfl rfl)
  have e2 : bits y 14 6 = a := bits_of (part_at hy ok 4 rfl rfl)
  have e3 : bits y 8 6 = d := bits_of (part_at hy ok 3 rfl rfl)
  have e4 : bits y 1 1 = s := bits_of (part_at hy ok 1 rfl rfl)
  have f0 : field y 26 3 = 1 := part_in hy ok 6 0 rfl rfl rfl (by decide)
  have f1 : field y 26 3 = 1 := part_in hy ok 6 0 rfl rfl rfl (by decide)
  have f2 : field y 30 2 = 0 := part_in hy ok 8 0 rfl rfl rfl (by decide)
  rw [row_Maj0B (part_in hy ok 2 0 rfl rfl rfl (by decide))]
  simp only [ofRow, rowMaj0B, pickRow, fixedIs, e0, e1, e2, e3, e4, f0, f1, f2, Nat.reduceBEq, beq_self_eq_true, Bool.and_true, Bool.and_false, Bool.false_and, Bool.true_and, Bool.false_eq_true, if_true, if_false]

theorem word_kmov (a : BitVec 6) (d : BitVec 6) (s : BitVec 1) (y : Nat) (hy : y = partsNat [(1, 1), (1, s.toNat), (6, 11), (6, d.toNat), (6, a.toNat), (12, 128)]) :
    decode32 y = accept (.kmov a d s) := by
  have ok : partsOk [(1, 1), (1, s.toNat), (6, 11), (6, d.toNat), (6, a.toNat), (12, 128)] := ⟨by decide, s.isLt, by decide, d.isLt, a.isLt, by decide, trivial⟩
  have e0 : bits y 14 6 = a := bits_of (part_at hy ok 4 rfl rfl)
  have e1 : bits y 8 6 = d := bits_of (part_at hy ok 3 rfl rfl)
  have e2 : bits y 1 1 = s := bits_of (part_at hy ok 1 rfl rfl)
  have f0 : field y 26 3 = 2 := part_in hy ok 5 6 rfl rfl rfl (by decide)
  have f1 : field y 26 3 = 2 := part_in hy ok 5 6 rfl rfl rfl (by decide)
  have f2 : field y 20 12 = 128 := part_in hy ok 5 0 rfl rfl rfl (by decide)
  rw [row_Maj0B (part_in hy ok 2 0 rfl rfl rfl (by decide))]
  simp only [ofRow, rowMaj0B, pickRow, fixedIs, e0, e1, e2, f0, f1, f2, Nat.reduceBEq, beq_self_eq_true, Bool.and_true, Bool.and_false, Bool.false_and, Bool.true_and, Bool.false_eq_true, if_true, if_false]

theorem word_kmovImm (i : BitVec 6) (d : BitVec 6) (s : BitVec 1) (y : Nat) (hy : y = partsNat [(1, 1), (1, s.toNat), (6, 11), (6, d.toNat), (6, 0), (6, i.toNat), (6, 10)]) :
    decode32 y = accept (.kmovImm i d s) := by
  have ok : partsOk [(1, 1), (1, s.toNat), (6, 11), (6, d.toNat), (6, 0), (6, i.toNat), (6, 10)] := ⟨by decide, s.isLt, by decide, d.isLt, by decide, i.isLt, by decide, trivial⟩
  have e0 : bits y 20 6 = i := bits_of (part_at hy ok 5 rfl rfl)
  have e1 : bits y 8 6 = d := bits_of (part_at hy ok 3 rfl rfl)
  have e2 : bits y 1 1 = s := bits_of (part_at hy ok 1 rfl rfl)
  have f0 : field y 26 3 = 2 := part_in hy ok 6 0 rfl rfl rfl (by decide)
  have f1 : field y 26 3 = 2 := part_in hy ok 6 0 rfl rfl rfl (by decide)
  have f2 : (field y 20 12 == 128) = false :=
    part_not (part_in hy ok 6 0 rfl rfl rfl (by decide) : field y 26 6 = 10) 6 rfl (by decide) (by decide)
  have f3 : field y 14 6 = 0 := part_in hy ok 4 0 rfl rfl rfl (by decide)
  have f4 : field y 26 6 = 10 := part_in hy ok 6 0 rfl rfl rfl (by decide)
  rw [row_Maj0B (part_in hy ok 2 0 rfl rfl rfl (by decide))]
  simp only [ofRow, rowMaj0B, pickRow, fixedIs, e0, e1, e2, f0, f1, f2, f3, f4, Nat.reduceBEq, beq_self_eq_true, Bool.and_true, Bool.and_false, Bool.false_and, Bool.true_and, Bool.false_eq_true, if_true, if_false]

theorem word_kshl (i : BitVec 1) (b : BitVec 6) (a : BitVec 6) (d : BitVec 6) (s : BitVec 1) (y : Nat) (hy : y = partsNat [(1, 1), (1, s.toNat), (6, 11), (6, d.toNat), (6, a.toNat), (6, b.toNat), (3, 3), (1, i.toNat), (2, 0)]) :
    decode32 y = accept (.kshl i b a d s) := by
  have ok : partsOk [(1, 1), (1, s.toNat), (6, 11), (6, d.toNat), (6, a.toNat), (6, b.toNat), (3, 3), (1, i.toNat), (2, 0)] := ⟨by decide, s.isLt, by decide, d.isLt, a.isLt, b.isLt, by decide, i.isLt, by decide, trivial⟩
  have e0 : bits y 29 1 = i := bits_of (part_at hy ok 7 rfl rfl)
  have e1 : bits y 20 6 = b := bits_of (part_at hy ok 5 rfl rfl)
  have e2 : bits y 14 6 = a := bits_of (part_at hy ok 4 rfl rfl)
  have e3 : bits y 8 6 = d := bits_of (part_at hy ok 3 rfl rfl)
  have e4 : bits y 1 1 = s := bits_of (part_at hy ok 1 rfl rfl)
  have f0 : field y 26 3 = 3 := part_in hy ok 6 0 rfl rfl rfl (by decide)
  have f1 : field y 26 3 = 3 := part_in hy ok 6 0 rfl rfl rfl (by decide)
  have f2 : (field y 20 12 == 128) = false :=
    part_not (part_in hy ok 6 0 rfl rfl rfl (by decide) : field y 26 3 = 3) 6 rfl (by decide) (by decide)
  have f3 : (field y 26 6 == 10) = false :=
    part_not (part_in hy ok 6 0 rfl rfl rfl (by decide) : field y 26 3 = 3) 0 rfl (by decide) (by decide)
  have f4 : field y 26 3 = 3 := part_in hy ok 6 0 rfl rfl rfl (by decide)
  have f5 : field y 30 2 = 0 := part_in hy ok 8 0 rfl rfl rfl (by decide)
  rw [row_Maj0B (part_in hy ok 2 0 rfl rfl rfl (by decide))]
  simp only [ofRow, rowMaj0B, pickRow, fixedIs, e0, e1, e2, e3, e4, f0, f1, f2, f3, f4, f5, Nat.reduceBEq, beq_self_eq_true, Bool.and_true, Bool.and_false, Bool.false_and, Bool.true_and, Bool.false_eq_true, if_true, if_false]

theorem word_kand (i : BitVec 1) (b : BitVec 6) (a : BitVec 6) (d : BitVec 6) (s : BitVec 1) (y : Nat) (hy : y = partsNat [(1, 1), (1, s.toNat), (6, 11), (6, d.toNat), (6, a.toNat), (6, b.toNat), (3, 4), (1, i.toNat), (2, 0)]) :
    decode32 y = accept (.kand i b a d s) := by
  have ok : partsOk [(1, 1), (1, s.toNat), (6, 11), (6, d.toNat), (6, a.toNat), (6, b.toNat), (3, 4), (1, i.toNat), (2, 0)] := ⟨by decide, s.isLt, by decide, d.isLt, a.isLt, b.isLt, by decide, i.isLt, by decide, trivial⟩
  have e0 : bits y 29 1 = i := bits_of (part_at hy ok 7 rfl rfl)
  have e1 : bits y 20 6 = b := bits_of (part_at hy ok 5 rfl rfl)
  have e2 : bits y 14 6 = a := bits_of (part_at hy ok 4 rfl rfl)
  have e3 : bits y 8 6 = d := bits_of (part_at hy ok 3 rfl rfl)
  have e4 : bits y 1 1 = s := bits_of (part_at hy ok 1 rfl rfl)
  have f0 : field y 26 3 = 4 := part_in hy ok 6 0 rfl rfl rfl (by decide)
  have f1 : field y 26 3 = 4 := part_in hy ok 6 0 rfl rfl rfl (by decide)
  have f2 : (field y 20 12 == 128) = false :=
    part_not (part_in hy ok 6 0 rfl rfl rfl (by decide) : field y 26 3 = 4) 6 rfl (by decide) (by decide)
  have f3 : (field y 26 6 == 10) = false :=
    part_not (part_in hy ok 6 0 rfl rfl rfl (by decide) : field y 26 3 = 4) 0 rfl (by decide) (by decide)
  have f4 : field y 26 3 = 4 := part_in hy ok 6 0 rfl rfl rfl (by decide)
  have f5 : field y 26 3 = 4 := part_in hy ok 6 0 rfl rfl rfl (by decide)
  have f6 : field y 30 2 = 0 := part_in hy ok 8 0 rfl rfl rfl (by decide)
  rw [row_Maj0B (part_in hy ok 2 0 rfl rfl rfl (by decide))]
  simp only [ofRow, rowMaj0B, pickRow, fixedIs, e0, e1, e2, e3, e4, f0, f1, f2, f3, f4, f5, f6, Nat.reduceBEq, beq_self_eq_true, Bool.and_true, Bool.and_false, Bool.false_and, Bool.true_and, Bool.false_eq_true, if_true, if_false]

theorem word_kor (i : BitVec 1) (b : BitVec 6) (a : BitVec 6) (d : BitVec 6) (s : BitVec 1) (y : Nat) (hy : y = partsNat [(1, 1), (1, s.toNat), (6, 11), (6, d.toNat), (6, a.toNat), (6, b.toNat), (3, 5), (1, i.toNat), (2, 0)]) :
    decode32 y = accept (.kor i b a d s) := by
  have ok : partsOk [(1, 1), (1, s.toNat), (6, 11), (6, d.toNat), (6, a.toNat), (6, b.toNat), (3, 5), (1, i.toNat), (2, 0)] := ⟨by decide, s.isLt, by decide, d.isLt, a.isLt, b.isLt, by decide, i.isLt, by decide, trivial⟩
  have e0 : bits y 29 1 = i := bits_of (part_at hy ok 7 rfl rfl)
  have e1 : bits y 20 6 = b := bits_of (part_at hy ok 5 rfl rfl)
  have e2 : bits y 14 6 = a := bits_of (part_at hy ok 4 rfl rfl)
  have e3 : bits y 8 6 = d := bits_of (part_at hy ok 3 rfl rfl)
  have e4 : bits y 1 1 = s := bits_of (part_at hy ok 1 rfl rfl)
  have f0 : field y 26 3 = 5 := part_in hy ok 6 0 rfl rfl rfl (by decide)
  have f1 : field y 26 3 = 5 := part_in hy ok 6 0 rfl rfl rfl (by decide)
  have f2 : (field y 20 12 == 128) = false :=
    part_not (part_in hy ok 6 0 rfl rfl rfl (by decide) : field y 26 3 = 5) 6 rfl (by decide) (by decide)
  have f3 : (field y 26 6 == 10) = false :=
    part_not (part_in hy ok 6 0 rfl rfl rfl (by decide) : field y 26 3 = 5) 0 rfl (by decide) (by decide)
  have f4 : field y 26 3 = 5 := part_in hy ok 6 0 rfl rfl rfl (by decide)
  have f5 : field y 26 3 = 5 := part_in hy ok 6 0 rfl rfl rfl (by decide)
  have f6 : field y 26 3 = 5 := part_in hy ok 6 0 rfl rfl rfl (by decide)
  have f7 : field y 30 2 = 0 := part_in hy ok 8 0 rfl rfl rfl (by decide)
  rw [row_Maj0B (part_in hy ok 2 0 rfl rfl rfl (by decide))]
  simp only [ofRow, rowMaj0B, pickRow, fixedIs, e0, e1, e2, e3, e4, f0, f1, f2, f3, f4, f5, f6, f7, Nat.reduceBEq, beq_self_eq_true, Bool.and_true, Bool.and_false, Bool.false_and, Bool.true_and, Bool.false_eq_true, if_true, if_false]

theorem word_kcmp (c : BitVec 3) (b : BitVec 6) (a : BitVec 6) (d : BitVec 6) (s : BitVec 1) (y : Nat) (hy : y = partsNat [(1, 1), (1, s.toNat), (6, 11), (6, d.toNat), (6, a.toNat), (6, b.toNat), (3, 6), (3, c.toNat)]) :
    decode32 y = accept (.kcmp c b a d s) := by
  have ok : partsOk [(1, 1), (1, s.toNat), (6, 11), (6, d.toNat), (6, a.toNat), (6, b.toNat), (3, 6), (3, c.toNat)] := ⟨by decide, s.isLt, by decide, d.isLt, a.isLt, b.isLt, by decide, c.isLt, trivial⟩
  have e0 : bits y 29 3 = c := bits_of (part_at hy ok 7 rfl rfl)
  have e1 : bits y 20 6 = b := bits_of (part_at hy ok 5 rfl rfl)
  have e2 : bits y 14 6 = a := bits_of (part_at hy ok 4 rfl rfl)
  have e3 : bits y 8 6 = d := bits_of (part_at hy ok 3 rfl rfl)
  have e4 : bits y 1 1 = s := bits_of (part_at hy ok 1 rfl rfl)
  have f0 : field y 26 3 = 6 := part_in hy ok 6 0 rfl rfl rfl (by decide)
  have f1 : field y 26 3 = 6 := part_in hy ok 6 0 rfl rfl rfl (by decide)
  have f2 : (field y 20 12 == 128) = false :=
    part_not (part_in hy ok 6 0 rfl rfl rfl (by decide) : field y 26 3 = 6) 6 rfl (by decide) (by decide)
  have f3 : (field y 26 6 == 10) = false :=
    part_not (part_in hy ok 6 0 rfl rfl rfl (by decide) : field y 26 3 = 6) 0 rfl (by decide) (by decide)
  have f4 : field y 26 3 = 6 := part_in hy ok 6 0 rfl rfl rfl (by decide)
  have f5 : field y 26 3 = 6 := part_in hy ok 6 0 rfl rfl rfl (by decide)
  have f6 : field y 26 3 = 6 := part_in hy ok 6 0 rfl rfl rfl (by decide)
  have f7 : field y 26 3 = 6 := part_in hy ok 6 0 rfl rfl rfl (by decide)
  rw [row_Maj0B (part_in hy ok 2 0 rfl rfl rfl (by decide))]
  simp only [ofRow, rowMaj0B, pickRow, fixedIs, e0, e1, e2, e3, e4, f0, f1, f2, f3, f4, f5, f6, f7, Nat.reduceBEq, beq_self_eq_true, Bool.and_true, Bool.and_false, Bool.false_and, Bool.true_and, Bool.false_eq_true, if_true, if_false]

theorem word_kld (k : BitVec 6) (x : BitVec 7) (s : BitVec 1) (y : Nat) (hy : y = partsNat [(1, 1), (1, s.toNat), (6, 11), (7, x.toNat), (6, k.toNat), (11, 224)]) :
    decode32 y = accept (.kld k x s) := by
  have ok : partsOk [(1, 1), (1, s.toNat), (6, 11), (7, x.toNat), (6, k.toNat), (11, 224)] := ⟨by decide, s.isLt, by decide, x.isLt, k.isLt, by decide, trivial⟩
  have e0 : bits y 15 6 = k := bits_of (part_at hy ok 4 rfl rfl)
  have e1 : bits y 8 7 = x := bits_of (part_at hy ok 3 rfl rfl)
  have e2 : bits y 1 1 = s := bits_of (part_at hy ok 1 rfl rfl)
  have f0 : field y 26 3 = 7 := part_in hy ok 5 5 rfl rfl rfl (by decide)
  have f1 : field y 26 3 = 7 := part_in hy ok 5 5 rfl rfl rfl (by decide)
  have f2 : (field y 20 12 == 128) = false :=
    part_not (part_in hy ok 5 0 rfl rfl rfl (by decide) : field y 21 11 = 224) 1 rfl (by decide) (by decide)
  have f3 : field y 26 6 = 7 := part_in hy ok 5 5 rfl rfl rfl (by decide)
  have f4 : field y 26 3 = 7 := part_in hy ok 5 5 rfl rfl rfl (by decide)
  have f5 : field y 26 3 = 7 := part_in hy ok 5 5 rfl rfl rfl (by decide)
  have f6 : field y 26 3 = 7 := part_in hy ok 5 5 rfl rfl rfl (by decide)
  have f7 : field y 26 3 = 7 := part_in hy ok 5 5 rfl rfl rfl (by decide)
  have f8 : field y 21 11 = 224 := part_in hy ok 5 0 rfl rfl rfl (by decide)
  rw [row_Maj0B (part_in hy ok 2 0 rfl rfl rfl (by decide))]
  simp only [ofRow, rowMaj0B, pickRow, fixedIs, e0, e1, e2, f0, f1, f2, f3, f4, f5, f6, f7, f8, Nat.reduceBEq, beq_self_eq_true, Bool.and_true, Bool.and_false, Bool.false_and, Bool.true_and, Bool.false_eq_true, if_true, if_false]

theorem word_kldLane (n : BitVec 5) (k : BitVec 6) (x : BitVec 7) (s : BitVec 1) (y : Nat) (hy : y = partsNat [(1, 1), (1, s.toNat), (6, 11), (7, x.toNat), (6, k.toNat), (5, n.toNat), (6, 15)]) :
    decode32 y = accept (.kldLane n k x s) := by
  have ok : partsOk [(1, 1), (1, s.toNat), (6, 11), (7, x.toNat), (6, k.toNat), (5, n.toNat), (6, 15)] := ⟨by decide, s.isLt, by decide, x.isLt, k.isLt, n.isLt, by decide, trivial⟩
  have e0 : bits y 21 5 = n := bits_of (part_at hy ok 5 rfl rfl)
  have e1 : bits y 15 6 = k := bits_of (part_at hy ok 4 rfl rfl)
  have e2 : bits y 8 7 = x := bits_of (part_at hy ok 3 rfl rfl)
  have e3 : bits y 1 1 = s := bits_of (part_at hy ok 1 rfl rfl)
  have f0 : field y 26 3 = 7 := part_in hy ok 6 0 rfl rfl rfl (by decide)
  have f1 : field y 26 3 = 7 := part_in hy ok 6 0 rfl rfl rfl (by decide)
  have f2 : (field y 20 12 == 128) = false :=
    part_not (part_in hy ok 6 0 rfl rfl rfl (by decide) : field y 26 6 = 15) 6 rfl (by decide) (by decide)
  have f3 : field y 26 6 = 15 := part_in hy ok 6 0 rfl rfl rfl (by decide)
  have f4 : field y 26 3 = 7 := part_in hy ok 6 0 rfl rfl rfl (by decide)
  have f5 : field y 26 3 = 7 := part_in hy ok 6 0 rfl rfl rfl (by decide)
  have f6 : field y 26 3 = 7 := part_in hy ok 6 0 rfl rfl rfl (by decide)
  have f7 : field y 26 3 = 7 := part_in hy ok 6 0 rfl rfl rfl (by decide)
  have f8 : (field y 21 11 == 224) = false :=
    part_not (part_in hy ok 6 0 rfl rfl rfl (by decide) : field y 26 6 = 15) 5 rfl (by decide) (by decide)
  have f9 : field y 26 6 = 15 := part_in hy ok 6 0 rfl rfl rfl (by decide)
  rw [row_Maj0B (part_in hy ok 2 0 rfl rfl rfl (by decide))]
  simp only [ofRow, rowMaj0B, pickRow, fixedIs, e0, e1, e2, e3, f0, f1, f2, f3, f4, f5, f6, f7, f8, f9, Nat.reduceBEq, beq_self_eq_true, Bool.and_true, Bool.and_false, Bool.false_and, Bool.true_and, Bool.false_eq_true, if_true, if_false]

theorem word_movk (k : BitVec 6) (x : BitVec 7) (s : BitVec 1) (y : Nat) (hy : y = partsNat [(1, 1), (1, s.toNat), (6, 11), (7, x.toNat), (6, k.toNat), (11, 736)]) :
    decode32 y = accept (.movk k x s) := by
  have ok : partsOk [(1, 1), (1, s.toNat), (6, 11), (7, x.toNat), (6, k.toNat), (11, 736)] := ⟨by decide, s.isLt, by decide, x.isLt, k.isLt, by decide, trivial⟩
  have e0 : bits y 15 6 = k := bits_of (part_at hy ok 4 rfl rfl)
  have e1 : bits y 8 7 = x := bits_of (part_at hy ok 3 rfl rfl)
  have e2 : bits y 1 1 = s := bits_of (part_at hy ok 1 rfl rfl)
  have f0 : field y 26 3 = 7 := part_in hy ok 5 5 rfl rfl rfl (by decide)
  have f1 : field y 26 3 = 7 := part_in hy ok 5 5 rfl rfl rfl (by decide)
  have f2 : (field y 20 12 == 128) = false :=
    part_not (part_in hy ok 5 0 rfl rfl rfl (by decide) : field y 21 11 = 736) 1 rfl (by decide) (by decide)
  have f3 : field y 26 6 = 23 := part_in hy ok 5 5 rfl rfl rfl (by decide)
  have f4 : field y 26 3 = 7 := part_in hy ok 5 5 rfl rfl rfl (by decide)
  have f5 : field y 26 3 = 7 := part_in hy ok 5 5 rfl rfl rfl (by decide)
  have f6 : field y 26 3 = 7 := part_in hy ok 5 5 rfl rfl rfl (by decide)
  have f7 : field y 26 3 = 7 := part_in hy ok 5 5 rfl rfl rfl (by decide)
  have f8 : field y 21 11 = 736 := part_in hy ok 5 0 rfl rfl rfl (by decide)
  have f9 : field y 26 6 = 23 := part_in hy ok 5 5 rfl rfl rfl (by decide)
  have f10 : field y 21 11 = 736 := part_in hy ok 5 0 rfl rfl rfl (by decide)
  rw [row_Maj0B (part_in hy ok 2 0 rfl rfl rfl (by decide))]
  simp only [ofRow, rowMaj0B, pickRow, fixedIs, e0, e1, e2, f0, f1, f2, f3, f4, f5, f6, f7, f8, f9, f10, Nat.reduceBEq, beq_self_eq_true, Bool.and_true, Bool.and_false, Bool.false_and, Bool.true_and, Bool.false_eq_true, if_true, if_false]

theorem word_movkH (k : BitVec 6) (x : BitVec 7) (s : BitVec 1) (y : Nat) (hy : y = partsNat [(1, 1), (1, s.toNat), (6, 11), (7, x.toNat), (6, k.toNat), (11, 992)]) :
    decode32 y = accept (.movkH k x s) := by
  have ok : partsOk [(1, 1), (1, s.toNat), (6, 11), (7, x.toNat), (6, k.toNat), (11, 992)] := ⟨by decide, s.isLt, by decide, x.isLt, k.isLt, by decide, trivial⟩
  have e0 : bits y 15 6 = k := bits_of (part_at hy ok 4 rfl rfl)
  have e1 : bits y 8 7 = x := bits_of (part_at hy ok 3 rfl rfl)
  have e2 : bits y 1 1 = s := bits_of (part_at hy ok 1 rfl rfl)
  have f0 : field y 26 3 = 7 := part_in hy ok 5 5 rfl rfl rfl (by decide)
  have f1 : field y 26 3 = 7 := part_in hy ok 5 5 rfl rfl rfl (by decide)
  have f2 : (field y 20 12 == 128) = false :=
    part_not (part_in hy ok 5 0 rfl rfl rfl (by decide) : field y 21 11 = 992) 1 rfl (by decide) (by decide)
  have f3 : field y 26 6 = 31 := part_in hy ok 5 5 rfl rfl rfl (by decide)
  have f4 : field y 26 3 = 7 := part_in hy ok 5 5 rfl rfl rfl (by decide)
  have f5 : field y 26 3 = 7 := part_in hy ok 5 5 rfl rfl rfl (by decide)
  have f6 : field y 26 3 = 7 := part_in hy ok 5 5 rfl rfl rfl (by decide)
  have f7 : field y 26 3 = 7 := part_in hy ok 5 5 rfl rfl rfl (by decide)
  have f8 : field y 21 11 = 992 := part_in hy ok 5 0 rfl rfl rfl (by decide)
  have f9 : field y 26 6 = 31 := part_in hy ok 5 5 rfl rfl rfl (by decide)
  have f10 : field y 21 11 = 992 := part_in hy ok 5 0 rfl rfl rfl (by decide)
  have f11 : field y 21 11 = 992 := part_in hy ok 5 0 rfl rfl rfl (by decide)
  rw [row_Maj0B (part_in hy ok 2 0 rfl rfl rfl (by decide))]
  simp only [ofRow, rowMaj0B, pickRow, fixedIs, e0, e1, e2, f0, f1, f2, f3, f4, f5, f6, f7, f8, f9, f10, f11, Nat.reduceBEq, beq_self_eq_true, Bool.and_true, Bool.and_false, Bool.false_and, Bool.true_and, Bool.false_eq_true, if_true, if_false]

theorem word_kli (i : BitVec 16) (h : BitVec 2) (d : BitVec 6) (s : BitVec 1) (y : Nat) (hy : y = partsNat [(1, 1), (1, s.toNat), (6, 12), (6, d.toNat), (2, h.toNat), (16, i.toNat)]) :
    decode32 y = accept (.kli i h d s) := by
  have ok : partsOk [(1, 1), (1, s.toNat), (6, 12), (6, d.toNat), (2, h.toNat), (16, i.toNat)] := ⟨by decide, s.isLt, by decide, d.isLt, h.isLt, i.isLt, trivial⟩
  have e0 : bits y 16 16 = i := bits_of (part_at hy ok 5 rfl rfl)
  have e1 : bits y 14 2 = h := bits_of (part_at hy ok 4 rfl rfl)
  have e2 : bits y 8 6 = d := bits_of (part_at hy ok 3 rfl rfl)
  have e3 : bits y 1 1 = s := bits_of (part_at hy ok 1 rfl rfl)
  rw [row_Maj0C (part_in hy ok 2 0 rfl rfl rfl (by decide))]
  simp only [ofRow, rowMaj0C, pickRow, fixedIs, e0, e1, e2, e3, Nat.reduceBEq, beq_self_eq_true, Bool.and_true, Bool.and_false, Bool.false_and, Bool.true_and, Bool.false_eq_true, if_true, if_false]

theorem word_add (b : BitVec 7) (a : BitVec 7) (d : BitVec 7) (s : BitVec 1) (y : Nat) (hy : y = partsNat [(1, 1), (1, s.toNat), (6, 16), (7, d.toNat), (7, a.toNat), (7, b.toNat), (3, 0)]) :
    decode32 y = accept (.add b a d s) := by
  have ok : partsOk [(1, 1), (1, s.toNat), (6, 16), (7, d.toNat), (7, a.toNat), (7, b.toNat), (3, 0)] := ⟨by decide, s.isLt, by decide, d.isLt, a.isLt, b.isLt, by decide, trivial⟩
  have e0 : bits y 22 7 = b := bits_of (part_at hy ok 5 rfl rfl)
  have e1 : bits y 15 7 = a := bits_of (part_at hy ok 4 rfl rfl)
  have e2 : bits y 8 7 = d := bits_of (part_at hy ok 3 rfl rfl)
  have e3 : bits y 1 1 = s := bits_of (part_at hy ok 1 rfl rfl)
  have f0 : field y 29 3 = 0 := part_in hy ok 6 0 rfl rfl rfl (by decide)
  rw [row_Maj10 (part_in hy ok 2 0 rfl rfl rfl (by decide))]
  simp only [ofRow, rowMaj10, pickRow, fixedIs, e0, e1, e2, e3, f0, Nat.reduceBEq, beq_self_eq_true, Bool.and_true, Bool.and_false, Bool.false_and, Bool.true_and, Bool.false_eq_true, if_true, if_false]

theorem word_sub (b : BitVec 7) (a : BitVec 7) (d : BitVec 7) (s : BitVec 1) (y : Nat) (hy : y = partsNat [(1, 1), (1, s.toNat), (6, 16), (7, d.toNat), (7, a.toNat), (7, b.toNat), (3, 1)]) :
    decode32 y = accept (.sub b a d s) := by
  have ok : partsOk [(1, 1), (1, s.toNat), (6, 16), (7, d.toNat), (7, a.toNat), (7, b.toNat), (3, 1)] := ⟨by decide, s.isLt, by decide, d.isLt, a.isLt, b.isLt, by decide, trivial⟩
  have e0 : bits y 22 7 = b := bits_of (part_at hy ok 5 rfl rfl)
  have e1 : bits y 15 7 = a := bits_of (part_at hy ok 4 rfl rfl)
  have e2 : bits y 8 7 = d := bits_of (part_at hy ok 3 rfl rfl)
  have e3 : bits y 1 1 = s := bits_of (part_at hy ok 1 rfl rfl)
  have f0 : field y 29 3 = 1 := part_in hy ok 6 0 rfl rfl rfl (by decide)
  have f1 : field y 29 3 = 1 := part_in hy ok 6 0 rfl rfl rfl (by decide)
  rw [row_Maj10 (part_in hy ok 2 0 rfl rfl rfl (by decide))]
  simp only [ofRow, rowMaj10, pickRow, fixedIs, e0, e1, e2, e3, f0, f1, Nat.reduceBEq, beq_self_eq_true, Bool.and_true, Bool.and_false, Bool.false_and, Bool.true_and, Bool.false_eq_true, if_true, if_false]

theorem word_and (b : BitVec 7) (a : BitVec 7) (d : BitVec 7) (s : BitVec 1) (y : Nat) (hy : y = partsNat [(1, 1), (1, s.toNat), (6, 16), (7, d.toNat), (7, a.toNat), (7, b.toNat), (3, 2)]) :
    decode32 y = accept (.and b a d s) := by
  have ok : partsOk [(1, 1), (1, s.toNat), (6, 16), (7, d.toNat), (7, a.toNat), (7, b.toNat), (3, 2)] := ⟨by decide, s.isLt, by decide, d.isLt, a.isLt, b.isLt, by decide, trivial⟩
  have e0 : bits y 22 7 = b := bits_of (part_at hy ok 5 rfl rfl)
  have e1 : bits y 15 7 = a := bits_of (part_at hy ok 4 rfl rfl)
  have e2 : bits y 8 7 = d := bits_of (part_at hy ok 3 rfl rfl)
  have e3 : bits y 1 1 = s := bits_of (part_at hy ok 1 rfl rfl)
  have f0 : field y 29 3 = 2 := part_in hy ok 6 0 rfl rfl rfl (by decide)
  have f1 : field y 29 3 = 2 := part_in hy ok 6 0 rfl rfl rfl (by decide)
  have f2 : field y 29 3 = 2 := part_in hy ok 6 0 rfl rfl rfl (by decide)
  rw [row_Maj10 (part_in hy ok 2 0 rfl rfl rfl (by decide))]
  simp only [ofRow, rowMaj10, pickRow, fixedIs, e0, e1, e2, e3, f0, f1, f2, Nat.reduceBEq, beq_self_eq_true, Bool.and_true, Bool.and_false, Bool.false_and, Bool.true_and, Bool.false_eq_true, if_true, if_false]

theorem word_or (b : BitVec 7) (a : BitVec 7) (d : BitVec 7) (s : BitVec 1) (y : Nat) (hy : y = partsNat [(1, 1), (1, s.toNat), (6, 16), (7, d.toNat), (7, a.toNat), (7, b.toNat), (3, 3)]) :
    decode32 y = accept (.or b a d s) := by
  have ok : partsOk [(1, 1), (1, s.toNat), (6, 16), (7, d.toNat), (7, a.toNat), (7, b.toNat), (3, 3)] := ⟨by decide, s.isLt, by decide, d.isLt, a.isLt, b.isLt, by decide, trivial⟩
  have e0 : bits y 22 7 = b := bits_of (part_at hy ok 5 rfl rfl)
  have e1 : bits y 15 7 = a := bits_of (part_at hy ok 4 rfl rfl)
  have e2 : bits y 8 7 = d := bits_of (part_at hy ok 3 rfl rfl)
  have e3 : bits y 1 1 = s := bits_of (part_at hy ok 1 rfl rfl)
  have f0 : field y 29 3 = 3 := part_in hy ok 6 0 rfl rfl rfl (by decide)
  have f1 : field y 29 3 = 3 := part_in hy ok 6 0 rfl rfl rfl (by decide)
  have f2 : field y 29 3 = 3 := part_in hy ok 6 0 rfl rfl rfl (by decide)
  have f3 : field y 29 3 = 3 := part_in hy ok 6 0 rfl rfl rfl (by decide)
  rw [row_Maj10 (part_in hy ok 2 0 rfl rfl rfl (by decide))]
  simp only [ofRow, rowMaj10, pickRow, fixedIs, e0, e1, e2, e3, f0, f1, f2, f3, Nat.reduceBEq, beq_self_eq_true, Bool.and_true, Bool.and_false, Bool.false_and, Bool.true_and, Bool.false_eq_true, if_true, if_false]

theorem word_xor (b : BitVec 7) (a : BitVec 7) (d : BitVec 7) (s : BitVec 1) (y : Nat) (hy : y = partsNat [(1, 1), (1, s.toNat), (6, 16), (7, d.toNat), (7, a.toNat), (7, b.toNat), (3, 4)]) :
    decode32 y = accept (.xor b a d s) := by
  have ok : partsOk [(1, 1), (1, s.toNat), (6, 16), (7, d.toNat), (7, a.toNat), (7, b.toNat), (3, 4)] := ⟨by decide, s.isLt, by decide, d.isLt, a.isLt, b.isLt, by decide, trivial⟩
  have e0 : bits y 22 7 = b := bits_of (part_at hy ok 5 rfl rfl)
  have e1 : bits y 15 7 = a := bits_of (part_at hy ok 4 rfl rfl)
  have e2 : bits y 8 7 = d := bits_of (part_at hy ok 3 rfl rfl)
  have e3 : bits y 1 1 = s := bits_of (part_at hy ok 1 rfl rfl)
  have f0 : field y 29 3 = 4 := part_in hy ok 6 0 rfl rfl rfl (by decide)
  have f1 : field y 29 3 = 4 := part_in hy ok 6 0 rfl rfl rfl (by decide)
  have f2 : field y 29 3 = 4 := part_in hy ok 6 0 rfl rfl rfl (by decide)
  have f3 : field y 29 3 = 4 := part_in hy ok 6 0 rfl rfl rfl (by decide)
  have f4 : field y 29 3 = 4 := part_in hy ok 6 0 rfl rfl rfl (by decide)
  rw [row_Maj10 (part_in hy ok 2 0 rfl rfl rfl (by decide))]
  simp only [ofRow, rowMaj10, pickRow, fixedIs, e0, e1, e2, e3, f0, f1, f2, f3, f4, Nat.reduceBEq, beq_self_eq_true, Bool.and_true, Bool.and_false, Bool.false_and, Bool.true_and, Bool.false_eq_true, if_true, if_false]

theorem word_andn (b : BitVec 7) (a : BitVec 7) (d : BitVec 7) (s : BitVec 1) (y : Nat) (hy : y = partsNat [(1, 1), (1, s.toNat), (6, 16), (7, d.toNat), (7, a.toNat), (7, b.toNat), (3, 5)]) :
    decode32 y = accept (.andn b a d s) := by
  have ok : partsOk [(1, 1), (1, s.toNat), (6, 16), (7, d.toNat), (7, a.toNat), (7, b.toNat), (3, 5)] := ⟨by decide, s.isLt, by decide, d.isLt, a.isLt, b.isLt, by decide, trivial⟩
  have e0 : bits y 22 7 = b := bits_of (part_at hy ok 5 rfl rfl)
  have e1 : bits y 15 7 = a := bits_of (part_at hy ok 4 rfl rfl)
  have e2 : bits y 8 7 = d := bits_of (part_at hy ok 3 rfl rfl)
  have e3 : bits y 1 1 = s := bits_of (part_at hy ok 1 rfl rfl)
  have f0 : field y 29 3 = 5 := part_in hy ok 6 0 rfl rfl rfl (by decide)
  have f1 : field y 29 3 = 5 := part_in hy ok 6 0 rfl rfl rfl (by decide)
  have f2 : field y 29 3 = 5 := part_in hy ok 6 0 rfl rfl rfl (by decide)
  have f3 : field y 29 3 = 5 := part_in hy ok 6 0 rfl rfl rfl (by decide)
  have f4 : field y 29 3 = 5 := part_in hy ok 6 0 rfl rfl rfl (by decide)
  have f5 : field y 29 3 = 5 := part_in hy ok 6 0 rfl rfl rfl (by decide)
  rw [row_Maj10 (part_in hy ok 2 0 rfl rfl rfl (by decide))]
  simp only [ofRow, rowMaj10, pickRow, fixedIs, e0, e1, e2, e3, f0, f1, f2, f3, f4, f5, Nat.reduceBEq, beq_self_eq_true, Bool.and_true, Bool.and_false, Bool.false_and, Bool.true_and, Bool.false_eq_true, if_true, if_false]

theorem word_min (b : BitVec 7) (a : BitVec 7) (d : BitVec 7) (s : BitVec 1) (y : Nat) (hy : y = partsNat [(1, 1), (1, s.toNat), (6, 16), (7, d.toNat), (7, a.toNat), (7, b.toNat), (3, 6)]) :
    decode32 y = accept (.min b a d s) := by
  have ok : partsOk [(1, 1), (1, s.toNat), (6, 16), (7, d.toNat), (7, a.toNat), (7, b.toNat), (3, 6)] := ⟨by decide, s.isLt, by decide, d.isLt, a.isLt, b.isLt, by decide, trivial⟩
  have e0 : bits y 22 7 = b := bits_of (part_at hy ok 5 rfl rfl)
  have e1 : bits y 15 7 = a := bits_of (part_at hy ok 4 rfl rfl)
  have e2 : bits y 8 7 = d := bits_of (part_at hy ok 3 rfl rfl)
  have e3 : bits y 1 1 = s := bits_of (part_at hy ok 1 rfl rfl)
  have f0 : field y 29 3 = 6 := part_in hy ok 6 0 rfl rfl rfl (by decide)
  have f1 : field y 29 3 = 6 := part_in hy ok 6 0 rfl rfl rfl (by decide)
  have f2 : field y 29 3 = 6 := part_in hy ok 6 0 rfl rfl rfl (by decide)
  have f3 : field y 29 3 = 6 := part_in hy ok 6 0 rfl rfl rfl (by decide)
  have f4 : field y 29 3 = 6 := part_in hy ok 6 0 rfl rfl rfl (by decide)
  have f5 : field y 29 3 = 6 := part_in hy ok 6 0 rfl rfl rfl (by decide)
  have f6 : field y 29 3 = 6 := part_in hy ok 6 0 rfl rfl rfl (by decide)
  rw [row_Maj10 (part_in hy ok 2 0 rfl rfl rfl (by decide))]
  simp only [ofRow, rowMaj10, pickRow, fixedIs, e0, e1, e2, e3, f0, f1, f2, f3, f4, f5, f6, Nat.reduceBEq, beq_self_eq_true, Bool.and_true, Bool.and_false, Bool.false_and, Bool.true_and, Bool.false_eq_true, if_true, if_false]

theorem word_max (b : BitVec 7) (a : BitVec 7) (d : BitVec 7) (s : BitVec 1) (y : Nat) (hy : y = partsNat [(1, 1), (1, s.toNat), (6, 16), (7, d.toNat), (7, a.toNat), (7, b.toNat), (3, 7)]) :
    decode32 y = accept (.max b a d s) := by
  have ok : partsOk [(1, 1), (1, s.toNat), (6, 16), (7, d.toNat), (7, a.toNat), (7, b.toNat), (3, 7)] := ⟨by decide, s.isLt, by decide, d.isLt, a.isLt, b.isLt, by decide, trivial⟩
  have e0 : bits y 22 7 = b := bits_of (part_at hy ok 5 rfl rfl)
  have e1 : bits y 15 7 = a := bits_of (part_at hy ok 4 rfl rfl)
  have e2 : bits y 8 7 = d := bits_of (part_at hy ok 3 rfl rfl)
  have e3 : bits y 1 1 = s := bits_of (part_at hy ok 1 rfl rfl)
  have f0 : field y 29 3 = 7 := part_in hy ok 6 0 rfl rfl rfl (by decide)
  have f1 : field y 29 3 = 7 := part_in hy ok 6 0 rfl rfl rfl (by decide)
  have f2 : field y 29 3 = 7 := part_in hy ok 6 0 rfl rfl rfl (by decide)
  have f3 : field y 29 3 = 7 := part_in hy ok 6 0 rfl rfl rfl (by decide)
  have f4 : field y 29 3 = 7 := part_in hy ok 6 0 rfl rfl rfl (by decide)
  have f5 : field y 29 3 = 7 := part_in hy ok 6 0 rfl rfl rfl (by decide)
  have f6 : field y 29 3 = 7 := part_in hy ok 6 0 rfl rfl rfl (by decide)
  have f7 : field y 29 3 = 7 := part_in hy ok 6 0 rfl rfl rfl (by decide)
  rw [row_Maj10 (part_in hy ok 2 0 rfl rfl rfl (by decide))]
  simp only [ofRow, rowMaj10, pickRow, fixedIs, e0, e1, e2, e3, f0, f1, f2, f3, f4, f5, f6, f7, Nat.reduceBEq, beq_self_eq_true, Bool.and_true, Bool.and_false, Bool.false_and, Bool.true_and, Bool.false_eq_true, if_true, if_false]

theorem word_shl (b : BitVec 7) (a : BitVec 7) (d : BitVec 7) (s : BitVec 1) (y : Nat) (hy : y = partsNat [(1, 1), (1, s.toNat), (6, 17), (7, d.toNat), (7, a.toNat), (7, b.toNat), (3, 0)]) :
    decode32 y = accept (.shl b a d s) := by
  have ok : partsOk [(1, 1), (1, s.toNat), (6, 17), (7, d.toNat), (7, a.toNat), (7, b.toNat), (3, 0)] := ⟨by decide, s.isLt, by decide, d.isLt, a.isLt, b.isLt, by decide, trivial⟩
  have e0 : bits y 22 7 = b := bits_of (part_at hy ok 5 rfl rfl)
  have e1 : bits y 15 7 = a := bits_of (part_at hy ok 4 rfl rfl)
  have e2 : bits y 8 7 = d := bits_of (part_at hy ok 3 rfl rfl)
  have e3 : bits y 1 1 = s := bits_of (part_at hy ok 1 rfl rfl)
  have f0 : field y 29 3 = 0 := part_in hy ok 6 0 rfl rfl rfl (by decide)
  rw [row_Maj11 (part_in hy ok 2 0 rfl rfl rfl (by decide))]
  simp only [ofRow, rowMaj11, pickRow, fixedIs, e0, e1, e2, e3, f0, Nat.reduceBEq, beq_self_eq_true, Bool.and_true, Bool.and_false, Bool.false_and, Bool.true_and, Bool.false_eq_true, if_true, if_false]

theorem word_srl (b : BitVec 7) (a : BitVec 7) (d : BitVec 7) (s : BitVec 1) (y : Nat) (hy : y = partsNat [(1, 1), (1, s.toNat), (6, 17), (7, d.toNat), (7, a.toNat), (7, b.toNat), (3, 1)]) :
    decode32 y = accept (.srl b a d s) := by
  have ok : partsOk [(1, 1), (1, s.toNat), (6, 17), (7, d.toNat), (7, a.toNat), (7, b.toNat), (3, 1)] := ⟨by decide, s.isLt, by decide, d.isLt, a.isLt, b.isLt, by decide, trivial⟩
  have e0 : bits y 22 7 = b := bits_of (part_at hy ok 5 rfl rfl)
  have e1 : bits y 15 7 = a := bits_of (part_at hy ok 4 rfl rfl)
  have e2 : bits y 8 7 = d := bits_of (part_at hy ok 3 rfl rfl)
  have e3 : bits y 1 1 = s := bits_of (part_at hy ok 1 rfl rfl)
  have f0 : field y 29 3 = 1 := part_in hy ok 6 0 rfl rfl rfl (by decide)
  have f1 : field y 29 3 = 1 := part_in hy ok 6 0 rfl rfl rfl (by decide)
  rw [row_Maj11 (part_in hy ok 2 0 rfl rfl rfl (by decide))]
  simp only [ofRow, rowMaj11, pickRow, fixedIs, e0, e1, e2, e3, f0, f1, Nat.reduceBEq, beq_self_eq_true, Bool.and_true, Bool.and_false, Bool.false_and, Bool.true_and, Bool.false_eq_true, if_true, if_false]

theorem word_sra (b : BitVec 7) (a : BitVec 7) (d : BitVec 7) (s : BitVec 1) (y : Nat) (hy : y = partsNat [(1, 1), (1, s.toNat), (6, 17), (7, d.toNat), (7, a.toNat), (7, b.toNat), (3, 2)]) :
    decode32 y = accept (.sra b a d s) := by
  have ok : partsOk [(1, 1), (1, s.toNat), (6, 17), (7, d.toNat), (7, a.toNat), (7, b.toNat), (3, 2)] := ⟨by decide, s.isLt, by decide, d.isLt, a.isLt, b.isLt, by decide, trivial⟩
  have e0 : bits y 22 7 = b := bits_of (part_at hy ok 5 rfl rfl)
  have e1 : bits y 15 7 = a := bits_of (part_at hy ok 4 rfl rfl)
  have e2 : bits y 8 7 = d := bits_of (part_at hy ok 3 rfl rfl)
  have e3 : bits y 1 1 = s := bits_of (part_at hy ok 1 rfl rfl)
  have f0 : field y 29 3 = 2 := part_in hy ok 6 0 rfl rfl rfl (by decide)
  have f1 : field y 29 3 = 2 := part_in hy ok 6 0 rfl rfl rfl (by decide)
  have f2 : field y 29 3 = 2 := part_in hy ok 6 0 rfl rfl rfl (by decide)
  rw [row_Maj11 (part_in hy ok 2 0 rfl rfl rfl (by decide))]
  simp only [ofRow, rowMaj11, pickRow, fixedIs, e0, e1, e2, e3, f0, f1, f2, Nat.reduceBEq, beq_self_eq_true, Bool.and_true, Bool.and_false, Bool.false_and, Bool.true_and, Bool.false_eq_true, if_true, if_false]

theorem word_rol (b : BitVec 7) (a : BitVec 7) (d : BitVec 7) (s : BitVec 1) (y : Nat) (hy : y = partsNat [(1, 1), (1, s.toNat), (6, 17), (7, d.toNat), (7, a.toNat), (7, b.toNat), (3, 3)]) :
    decode32 y = accept (.rol b a d s) := by
  have ok : partsOk [(1, 1), (1, s.toNat), (6, 17), (7, d.toNat), (7, a.toNat), (7, b.toNat), (3, 3)] := ⟨by decide, s.isLt, by decide, d.isLt, a.isLt, b.isLt, by decide, trivial⟩
  have e0 : bits y 22 7 = b := bits_of (part_at hy ok 5 rfl rfl)
  have e1 : bits y 15 7 = a := bits_of (part_at hy ok 4 rfl rfl)
  have e2 : bits y 8 7 = d := bits_of (part_at hy ok 3 rfl rfl)
  have e3 : bits y 1 1 = s := bits_of (part_at hy ok 1 rfl rfl)
  have f0 : field y 29 3 = 3 := part_in hy ok 6 0 rfl rfl rfl (by decide)
  have f1 : field y 29 3 = 3 := part_in hy ok 6 0 rfl rfl rfl (by decide)
  have f2 : field y 29 3 = 3 := part_in hy ok 6 0 rfl rfl rfl (by decide)
  have f3 : field y 29 3 = 3 := part_in hy ok 6 0 rfl rfl rfl (by decide)
  rw [row_Maj11 (part_in hy ok 2 0 rfl rfl rfl (by decide))]
  simp only [ofRow, rowMaj11, pickRow, fixedIs, e0, e1, e2, e3, f0, f1, f2, f3, Nat.reduceBEq, beq_self_eq_true, Bool.and_true, Bool.and_false, Bool.false_and, Bool.true_and, Bool.false_eq_true, if_true, if_false]

theorem word_mul (b : BitVec 7) (a : BitVec 7) (d : BitVec 7) (s : BitVec 1) (y : Nat) (hy : y = partsNat [(1, 1), (1, s.toNat), (6, 17), (7, d.toNat), (7, a.toNat), (7, b.toNat), (3, 4)]) :
    decode32 y = accept (.mul b a d s) := by
  have ok : partsOk [(1, 1), (1, s.toNat), (6, 17), (7, d.toNat), (7, a.toNat), (7, b.toNat), (3, 4)] := ⟨by decide, s.isLt, by decide, d.isLt, a.isLt, b.isLt, by decide, trivial⟩
  have e0 : bits y 22 7 = b := bits_of (part_at hy ok 5 rfl rfl)
  have e1 : bits y 15 7 = a := bits_of (part_at hy ok 4 rfl rfl)
  have e2 : bits y 8 7 = d := bits_of (part_at hy ok 3 rfl rfl)
  have e3 : bits y 1 1 = s := bits_of (part_at hy ok 1 rfl rfl)
  have f0 : field y 29 3 = 4 := part_in hy ok 6 0 rfl rfl rfl (by decide)
  have f1 : field y 29 3 = 4 := part_in hy ok 6 0 rfl rfl rfl (by decide)
  have f2 : field y 29 3 = 4 := part_in hy ok 6 0 rfl rfl rfl (by decide)
  have f3 : field y 29 3 = 4 := part_in hy ok 6 0 rfl rfl rfl (by decide)
  have f4 : field y 29 3 = 4 := part_in hy ok 6 0 rfl rfl rfl (by decide)
  rw [row_Maj11 (part_in hy ok 2 0 rfl rfl rfl (by decide))]
  simp only [ofRow, rowMaj11, pickRow, fixedIs, e0, e1, e2, e3, f0, f1, f2, f3, f4, Nat.reduceBEq, beq_self_eq_true, Bool.and_true, Bool.and_false, Bool.false_and, Bool.true_and, Bool.false_eq_true, if_true, if_false]

theorem word_mulh (b : BitVec 7) (a : BitVec 7) (d : BitVec 7) (s : BitVec 1) (y : Nat) (hy : y = partsNat [(1, 1), (1, s.toNat), (6, 17), (7, d.toNat), (7, a.toNat), (7, b.toNat), (3, 5)]) :
    decode32 y = accept (.mulh b a d s) := by
  have ok : partsOk [(1, 1), (1, s.toNat), (6, 17), (7, d.toNat), (7, a.toNat), (7, b.toNat), (3, 5)] := ⟨by decide, s.isLt, by decide, d.isLt, a.isLt, b.isLt, by decide, trivial⟩
  have e0 : bits y 22 7 = b := bits_of (part_at hy ok 5 rfl rfl)
  have e1 : bits y 15 7 = a := bits_of (part_at hy ok 4 rfl rfl)
  have e2 : bits y 8 7 = d := bits_of (part_at hy ok 3 rfl rfl)
  have e3 : bits y 1 1 = s := bits_of (part_at hy ok 1 rfl rfl)
  have f0 : field y 29 3 = 5 := part_in hy ok 6 0 rfl rfl rfl (by decide)
  have f1 : field y 29 3 = 5 := part_in hy ok 6 0 rfl rfl rfl (by decide)
  have f2 : field y 29 3 = 5 := part_in hy ok 6 0 rfl rfl rfl (by decide)
  have f3 : field y 29 3 = 5 := part_in hy ok 6 0 rfl rfl rfl (by decide)
  have f4 : field y 29 3 = 5 := part_in hy ok 6 0 rfl rfl rfl (by decide)
  have f5 : field y 29 3 = 5 := part_in hy ok 6 0 rfl rfl rfl (by decide)
  rw [row_Maj11 (part_in hy ok 2 0 rfl rfl rfl (by decide))]
  simp only [ofRow, rowMaj11, pickRow, fixedIs, e0, e1, e2, e3, f0, f1, f2, f3, f4, f5, Nat.reduceBEq, beq_self_eq_true, Bool.and_true, Bool.and_false, Bool.false_and, Bool.true_and, Bool.false_eq_true, if_true, if_false]

theorem word_mulhn (b : BitVec 7) (a : BitVec 7) (d : BitVec 7) (s : BitVec 1) (y : Nat) (hy : y = partsNat [(1, 1), (1, s.toNat), (6, 17), (7, d.toNat), (7, a.toNat), (7, b.toNat), (3, 6)]) :
    decode32 y = accept (.mulhn b a d s) := by
  have ok : partsOk [(1, 1), (1, s.toNat), (6, 17), (7, d.toNat), (7, a.toNat), (7, b.toNat), (3, 6)] := ⟨by decide, s.isLt, by decide, d.isLt, a.isLt, b.isLt, by decide, trivial⟩
  have e0 : bits y 22 7 = b := bits_of (part_at hy ok 5 rfl rfl)
  have e1 : bits y 15 7 = a := bits_of (part_at hy ok 4 rfl rfl)
  have e2 : bits y 8 7 = d := bits_of (part_at hy ok 3 rfl rfl)
  have e3 : bits y 1 1 = s := bits_of (part_at hy ok 1 rfl rfl)
  have f0 : field y 29 3 = 6 := part_in hy ok 6 0 rfl rfl rfl (by decide)
  have f1 : field y 29 3 = 6 := part_in hy ok 6 0 rfl rfl rfl (by decide)
  have f2 : field y 29 3 = 6 := part_in hy ok 6 0 rfl rfl rfl (by decide)
  have f3 : field y 29 3 = 6 := part_in hy ok 6 0 rfl rfl rfl (by decide)
  have f4 : field y 29 3 = 6 := part_in hy ok 6 0 rfl rfl rfl (by decide)
  have f5 : field y 29 3 = 6 := part_in hy ok 6 0 rfl rfl rfl (by decide)
  have f6 : field y 29 3 = 6 := part_in hy ok 6 0 rfl rfl rfl (by decide)
  rw [row_Maj11 (part_in hy ok 2 0 rfl rfl rfl (by decide))]
  simp only [ofRow, rowMaj11, pickRow, fixedIs, e0, e1, e2, e3, f0, f1, f2, f3, f4, f5, f6, Nat.reduceBEq, beq_self_eq_true, Bool.and_true, Bool.and_false, Bool.false_and, Bool.true_and, Bool.false_eq_true, if_true, if_false]

theorem word_abs (a : BitVec 7) (d : BitVec 7) (s : BitVec 1) (y : Nat) (hy : y = partsNat [(1, 1), (1, s.toNat), (6, 17), (7, d.toNat), (7, a.toNat), (10, 896)]) :
    decode32 y = accept (.abs a d s) := by
  have ok : partsOk [(1, 1), (1, s.toNat), (6, 17), (7, d.toNat), (7, a.toNat), (10, 896)] := ⟨by decide, s.isLt, by decide, d.isLt, a.isLt, by decide, trivial⟩
  have e0 : bits y 15 7 = a := bits_of (part_at hy ok 4 rfl rfl)
  have e1 : bits y 8 7 = d := bits_of (part_at hy ok 3 rfl rfl)
  have e2 : bits y 1 1 = s := bits_of (part_at hy ok 1 rfl rfl)
  have f0 : field y 29 3 = 7 := part_in hy ok 5 7 rfl rfl rfl (by decide)
  have f1 : field y 29 3 = 7 := part_in hy ok 5 7 rfl rfl rfl (by decide)
  have f2 : field y 29 3 = 7 := part_in hy ok 5 7 rfl rfl rfl (by decide)
  have f3 : field y 29 3 = 7 := part_in hy ok 5 7 rfl rfl rfl (by decide)
  have f4 : field y 29 3 = 7 := part_in hy ok 5 7 rfl rfl rfl (by decide)
  have f5 : field y 29 3 = 7 := part_in hy ok 5 7 rfl rfl rfl (by decide)
  have f6 : field y 29 3 = 7 := part_in hy ok 5 7 rfl rfl rfl (by decide)
  have f7 : field y 22 10 = 896 := part_in hy ok 5 0 rfl rfl rfl (by decide)
  rw [row_Maj11 (part_in hy ok 2 0 rfl rfl rfl (by decide))]
  simp only [ofRow, rowMaj11, pickRow, fixedIs, e0, e1, e2, f0, f1, f2, f3, f4, f5, f6, f7, Nat.reduceBEq, beq_self_eq_true, Bool.and_true, Bool.and_false, Bool.false_and, Bool.true_and, Bool.false_eq_true, if_true, if_false]

theorem word_addi (i : BitVec 10) (a : BitVec 7) (d : BitVec 7) (s : BitVec 1) (y : Nat) (hy : y = partsNat [(1, 1), (1, s.toNat), (6, 18), (7, d.toNat), (7, a.toNat), (10, i.toNat)]) :
    decode32 y = accept (.addi i a d s) := by
  have ok : partsOk [(1, 1), (1, s.toNat), (6, 18), (7, d.toNat), (7, a.toNat), (10, i.toNat)] := ⟨by decide, s.isLt, by decide, d.isLt, a.isLt, i.isLt, trivial⟩
  have e0 : bits y 22 10 = i := bits_of (part_at hy ok 5 rfl rfl)
  have e1 : bits y 15 7 = a := bits_of (part_at hy ok 4 rfl rfl)
  have e2 : bits y 8 7 = d := bits_of (part_at hy ok 3 rfl rfl)
  have e3 : bits y 1 1 = s := bits_of (part_at hy ok 1 rfl rfl)
  rw [row_Maj12 (part_in hy ok 2 0 rfl rfl rfl (by decide))]
  simp only [ofRow, rowMaj12, pickRow, fixedIs, e0, e1, e2, e3, Nat.reduceBEq, beq_self_eq_true, Bool.and_true, Bool.and_false, Bool.false_and, Bool.true_and, Bool.false_eq_true, if_true, if_false]

theorem word_andi (i : BitVec 7) (a : BitVec 7) (d : BitVec 7) (s : BitVec 1) (y : Nat) (hy : y = partsNat [(1, 1), (1, s.toNat), (6, 19), (7, d.toNat), (7, a.toNat), (7, i.toNat), (3, 0)]) :
    decode32 y = accept (.andi i a d s) := by
  have ok : partsOk [(1, 1), (1, s.toNat), (6, 19), (7, d.toNat), (7, a.toNat), (7, i.toNat), (3, 0)] := ⟨by decide, s.isLt, by decide, d.isLt, a.isLt, i.isLt, by decide, trivial⟩
  have e0 : bits y 22 7 = i := bits_of (part_at hy ok 5 rfl rfl)
  have e1 : bits y 15 7 = a := bits_of (part_at hy ok 4 rfl rfl)
  have e2 : bits y 8 7 = d := bits_of (part_at hy ok 3 rfl rfl)
  have e3 : bits y 1 1 = s := bits_of (part_at hy ok 1 rfl rfl)
  have f0 : field y 29 3 = 0 := part_in hy ok 6 0 rfl rfl rfl (by decide)
  rw [row_Maj13 (part_in hy ok 2 0 rfl rfl rfl (by decide))]
  simp only [ofRow, rowMaj13, pickRow, fixedIs, e0, e1, e2, e3, f0, Nat.reduceBEq, beq_self_eq_true, Bool.and_true, Bool.and_false, Bool.false_and, Bool.true_and, Bool.false_eq_true, if_true, if_false]

theorem word_ori (i : BitVec 7) (a : BitVec 7) (d : BitVec 7) (s : BitVec 1) (y : Nat) (hy : y = partsNat [(1, 1), (1, s.toNat), (6, 19), (7, d.toNat), (7, a.toNat), (7, i.toNat), (3, 1)]) :
    decode32 y = accept (.ori i a d s) := by
  have ok : partsOk [(1, 1), (1, s.toNat), (6, 19), (7, d.toNat), (7, a.toNat), (7, i.toNat), (3, 1)] := ⟨by decide, s.isLt, by decide, d.isLt, a.isLt, i.isLt, by decide, trivial⟩
  have e0 : bits y 22 7 = i := bits_of (part_at hy ok 5 rfl rfl)
  have e1 : bits y 15 7 = a := bits_of (part_at hy ok 4 rfl rfl)
  have e2 : bits y 8 7 = d := bits_of (part_at hy ok 3 rfl rfl)
  have e3 : bits y 1 1 = s := bits_of (part_at hy ok 1 rfl rfl)
  have f0 : field y 29 3 = 1 := part_in hy ok 6 0 rfl rfl rfl (by decide)
  have f1 : field y 29 3 = 1 := part_in hy ok 6 0 rfl rfl rfl (by decide)
  rw [row_Maj13 (part_in hy ok 2 0 rfl rfl rfl (by decide))]
  simp only [ofRow, rowMaj13, pickRow, fixedIs, e0, e1, e2, e3, f0, f1, Nat.reduceBEq, beq_self_eq_true, Bool.and_true, Bool.and_false, Bool.false_and, Bool.true_and, Bool.false_eq_true, if_true, if_false]

theorem word_xori (i : BitVec 7) (a : BitVec 7) (d : BitVec 7) (s : BitVec 1) (y : Nat) (hy : y = partsNat [(1, 1), (1, s.toNat), (6, 19), (7, d.toNat), (7, a.toNat), (7, i.toNat), (3, 2)]) :
    decode32 y = accept (.xori i a d s) := by
  have ok : partsOk [(1, 1), (1, s.toNat), (6, 19), (7, d.toNat), (7, a.toNat), (7, i.toNat), (3, 2)] := ⟨by decide, s.isLt, by decide, d.isLt, a.isLt, i.isLt, by decide, trivial⟩
  have e0 : bits y 22 7 = i := bits_of (part_at hy ok 5 rfl rfl)
  have e1 : bits y 15 7 = a := bits_of (part_at hy ok 4 rfl rfl)
  have e2 : bits y 8 7 = d := bits_of (part_at hy ok 3 rfl rfl)
  have e3 : bits y 1 1 = s := bits_of (part_at hy ok 1 rfl rfl)
  have f0 : field y 29 3 = 2 := part_in hy ok 6 0 rfl rfl rfl (by decide)
  have f1 : field y 29 3 = 2 := part_in hy ok 6 0 rfl rfl rfl (by decide)
  have f2 : field y 29 3 = 2 := part_in hy ok 6 0 rfl rfl rfl (by decide)
  rw [row_Maj13 (part_in hy ok 2 0 rfl rfl rfl (by decide))]
  simp only [ofRow, rowMaj13, pickRow, fixedIs, e0, e1, e2, e3, f0, f1, f2, Nat.reduceBEq, beq_self_eq_true, Bool.and_true, Bool.and_false, Bool.false_and, Bool.true_and, Bool.false_eq_true, if_true, if_false]

theorem word_shli (n : BitVec 5) (a : BitVec 7) (d : BitVec 7) (s : BitVec 1) (y : Nat) (hy : y = partsNat [(1, 1), (1, s.toNat), (6, 19), (7, d.toNat), (7, a.toNat), (5, n.toNat), (5, 12)]) :
    decode32 y = accept (.shli n a d s) := by
  have ok : partsOk [(1, 1), (1, s.toNat), (6, 19), (7, d.toNat), (7, a.toNat), (5, n.toNat), (5, 12)] := ⟨by decide, s.isLt, by decide, d.isLt, a.isLt, n.isLt, by decide, trivial⟩
  have e0 : bits y 22 5 = n := bits_of (part_at hy ok 5 rfl rfl)
  have e1 : bits y 15 7 = a := bits_of (part_at hy ok 4 rfl rfl)
  have e2 : bits y 8 7 = d := bits_of (part_at hy ok 3 rfl rfl)
  have e3 : bits y 1 1 = s := bits_of (part_at hy ok 1 rfl rfl)
  have f0 : field y 29 3 = 3 := part_in hy ok 6 2 rfl rfl rfl (by decide)
  have f1 : field y 29 3 = 3 := part_in hy ok 6 2 rfl rfl rfl (by decide)
  have f2 : field y 29 3 = 3 := part_in hy ok 6 2 rfl rfl rfl (by decide)
  have f3 : field y 27 5 = 12 := part_in hy ok 6 0 rfl rfl rfl (by decide)
  rw [row_Maj13 (part_in hy ok 2 0 rfl rfl rfl (by decide))]
  simp only [ofRow, rowMaj13, pickRow, fixedIs, e0, e1, e2, e3, f0, f1, f2, f3, Nat.reduceBEq, beq_self_eq_true, Bool.and_true, Bool.and_false, Bool.false_and, Bool.true_and, Bool.false_eq_true, if_true, if_false]

theorem word_srli (n : BitVec 5) (a : BitVec 7) (d : BitVec 7) (s : BitVec 1) (y : Nat) (hy : y = partsNat [(1, 1), (1, s.toNat), (6, 19), (7, d.toNat), (7, a.toNat), (5, n.toNat), (5, 16)]) :
    decode32 y = accept (.srli n a d s) := by
  have ok : partsOk [(1, 1), (1, s.toNat), (6, 19), (7, d.toNat), (7, a.toNat), (5, n.toNat), (5, 16)] := ⟨by decide, s.isLt, by decide, d.isLt, a.isLt, n.isLt, by decide, trivial⟩
  have e0 : bits y 22 5 = n := bits_of (part_at hy ok 5 rfl rfl)
  have e1 : bits y 15 7 = a := bits_of (part_at hy ok 4 rfl rfl)
  have e2 : bits y 8 7 = d := bits_of (part_at hy ok 3 rfl rfl)
  have e3 : bits y 1 1 = s := bits_of (part_at hy ok 1 rfl rfl)
  have f0 : field y 29 3 = 4 := part_in hy ok 6 2 rfl rfl rfl (by decide)
  have f1 : field y 29 3 = 4 := part_in hy ok 6 2 rfl rfl rfl (by decide)
  have f2 : field y 29 3 = 4 := part_in hy ok 6 2 rfl rfl rfl (by decide)
  have f3 : field y 27 5 = 16 := part_in hy ok 6 0 rfl rfl rfl (by decide)
  have f4 : field y 27 5 = 16 := part_in hy ok 6 0 rfl rfl rfl (by decide)
  rw [row_Maj13 (part_in hy ok 2 0 rfl rfl rfl (by decide))]
  simp only [ofRow, rowMaj13, pickRow, fixedIs, e0, e1, e2, e3, f0, f1, f2, f3, f4, Nat.reduceBEq, beq_self_eq_true, Bool.and_true, Bool.and_false, Bool.false_and, Bool.true_and, Bool.false_eq_true, if_true, if_false]

theorem word_srai (n : BitVec 5) (a : BitVec 7) (d : BitVec 7) (s : BitVec 1) (y : Nat) (hy : y = partsNat [(1, 1), (1, s.toNat), (6, 19), (7, d.toNat), (7, a.toNat), (5, n.toNat), (5, 20)]) :
    decode32 y = accept (.srai n a d s) := by
  have ok : partsOk [(1, 1), (1, s.toNat), (6, 19), (7, d.toNat), (7, a.toNat), (5, n.toNat), (5, 20)] := ⟨by decide, s.isLt, by decide, d.isLt, a.isLt, n.isLt, by decide, trivial⟩
  have e0 : bits y 22 5 = n := bits_of (part_at hy ok 5 rfl rfl)
  have e1 : bits y 15 7 = a := bits_of (part_at hy ok 4 rfl rfl)
  have e2 : bits y 8 7 = d := bits_of (part_at hy ok 3 rfl rfl)
  have e3 : bits y 1 1 = s := bits_of (part_at hy ok 1 rfl rfl)
  have f0 : field y 29 3 = 5 := part_in hy ok 6 2 rfl rfl rfl (by decide)
  have f1 : field y 29 3 = 5 := part_in hy ok 6 2 rfl rfl rfl (by decide)
  have f2 : field y 29 3 = 5 := part_in hy ok 6 2 rfl rfl rfl (by decide)
  have f3 : field y 27 5 = 20 := part_in hy ok 6 0 rfl rfl rfl (by decide)
  have f4 : field y 27 5 = 20 := part_in hy ok 6 0 rfl rfl rfl (by decide)
  have f5 : field y 27 5 = 20 := part_in hy ok 6 0 rfl rfl rfl (by decide)
  rw [row_Maj13 (part_in hy ok 2 0 rfl rfl rfl (by decide))]
  simp only [ofRow, rowMaj13, pickRow, fixedIs, e0, e1, e2, e3, f0, f1, f2, f3, f4, f5, Nat.reduceBEq, beq_self_eq_true, Bool.and_true, Bool.and_false, Bool.false_and, Bool.true_and, Bool.false_eq_true, if_true, if_false]

theorem word_li (i : BitVec 16) (d : BitVec 7) (s : BitVec 1) (y : Nat) (hy : y = partsNat [(1, 1), (1, s.toNat), (6, 20), (7, d.toNat), (1, 0), (16, i.toNat)]) :
    decode32 y = accept (.li i d s) := by
  have ok : partsOk [(1, 1), (1, s.toNat), (6, 20), (7, d.toNat), (1, 0), (16, i.toNat)] := ⟨by decide, s.isLt, by decide, d.isLt, by decide, i.isLt, trivial⟩
  have e0 : bits y 16 16 = i := bits_of (part_at hy ok 5 rfl rfl)
  have e1 : bits y 8 7 = d := bits_of (part_at hy ok 3 rfl rfl)
  have e2 : bits y 1 1 = s := bits_of (part_at hy ok 1 rfl rfl)
  have f0 : field y 15 1 = 0 := part_in hy ok 4 0 rfl rfl rfl (by decide)
  rw [row_Maj14 (part_in hy ok 2 0 rfl rfl rfl (by decide))]
  simp only [ofRow, rowMaj14, pickRow, fixedIs, e0, e1, e2, f0, Nat.reduceBEq, beq_self_eq_true, Bool.and_true, Bool.and_false, Bool.false_and, Bool.true_and, Bool.false_eq_true, if_true, if_false]

theorem word_lih (i : BitVec 16) (d : BitVec 7) (s : BitVec 1) (y : Nat) (hy : y = partsNat [(1, 1), (1, s.toNat), (6, 20), (7, d.toNat), (1, 1), (16, i.toNat)]) :
    decode32 y = accept (.lih i d s) := by
  have ok : partsOk [(1, 1), (1, s.toNat), (6, 20), (7, d.toNat), (1, 1), (16, i.toNat)] := ⟨by decide, s.isLt, by decide, d.isLt, by decide, i.isLt, trivial⟩
  have e0 : bits y 16 16 = i := bits_of (part_at hy ok 5 rfl rfl)
  have e1 : bits y 8 7 = d := bits_of (part_at hy ok 3 rfl rfl)
  have e2 : bits y 1 1 = s := bits_of (part_at hy ok 1 rfl rfl)
  have f0 : field y 15 1 = 1 := part_in hy ok 4 0 rfl rfl rfl (by decide)
  have f1 : field y 15 1 = 1 := part_in hy ok 4 0 rfl rfl rfl (by decide)
  rw [row_Maj14 (part_in hy ok 2 0 rfl rfl rfl (by decide))]
  simp only [ofRow, rowMaj14, pickRow, fixedIs, e0, e1, e2, f0, f1, Nat.reduceBEq, beq_self_eq_true, Bool.and_true, Bool.and_false, Bool.false_and, Bool.true_and, Bool.false_eq_true, if_true, if_false]

theorem word_icmpEq (b : BitVec 7) (a : BitVec 7) (p : BitVec 3) (s : BitVec 1) (y : Nat) (hy : y = partsNat [(1, 1), (1, s.toNat), (6, 21), (3, p.toNat), (4, 0), (7, a.toNat), (7, b.toNat), (3, 0)]) :
    decode32 y = accept (.icmpEq b a p s) := by
  have ok : partsOk [(1, 1), (1, s.toNat), (6, 21), (3, p.toNat), (4, 0), (7, a.toNat), (7, b.toNat), (3, 0)] := ⟨by decide, s.isLt, by decide, p.isLt, by decide, a.isLt, b.isLt, by decide, trivial⟩
  have e0 : bits y 22 7 = b := bits_of (part_at hy ok 6 rfl rfl)
  have e1 : bits y 15 7 = a := bits_of (part_at hy ok 5 rfl rfl)
  have e2 : bits y 8 3 = p := bits_of (part_at hy ok 3 rfl rfl)
  have e3 : bits y 1 1 = s := bits_of (part_at hy ok 1 rfl rfl)
  have f0 : field y 11 4 = 0 := part_in hy ok 4 0 rfl rfl rfl (by decide)
  have f1 : field y 29 3 = 0 := part_in hy ok 7 0 rfl rfl rfl (by decide)
  rw [row_Maj15 (part_in hy ok 2 0 rfl rfl rfl (by decide))]
  simp only [ofRow, rowMaj15, pickRow, fixedIs, e0, e1, e2, e3, f0, f1, Nat.reduceBEq, beq_self_eq_true, Bool.and_true, Bool.and_false, Bool.false_and, Bool.true_and, Bool.false_eq_true, if_true, if_false]

theorem word_icmpNe (b : BitVec 7) (a : BitVec 7) (p : BitVec 3) (s : BitVec 1) (y : Nat) (hy : y = partsNat [(1, 1), (1, s.toNat), (6, 21), (3, p.toNat), (4, 0), (7, a.toNat), (7, b.toNat), (3, 1)]) :
    decode32 y = accept (.icmpNe b a p s) := by
  have ok : partsOk [(1, 1), (1, s.toNat), (6, 21), (3, p.toNat), (4, 0), (7, a.toNat), (7, b.toNat), (3, 1)] := ⟨by decide, s.isLt, by decide, p.isLt, by decide, a.isLt, b.isLt, by decide, trivial⟩
  have e0 : bits y 22 7 = b := bits_of (part_at hy ok 6 rfl rfl)
  have e1 : bits y 15 7 = a := bits_of (part_at hy ok 5 rfl rfl)
  have e2 : bits y 8 3 = p := bits_of (part_at hy ok 3 rfl rfl)
  have e3 : bits y 1 1 = s := bits_of (part_at hy ok 1 rfl rfl)
  have f0 : field y 29 3 = 1 := part_in hy ok 7 0 rfl rfl rfl (by decide)
  have f1 : field y 11 4 = 0 := part_in hy ok 4 0 rfl rfl rfl (by decide)
  have f2 : field y 29 3 = 1 := part_in hy ok 7 0 rfl rfl rfl (by decide)
  rw [row_Maj15 (part_in hy ok 2 0 rfl rfl rfl (by decide))]
  simp only [ofRow, rowMaj15, pickRow, fixedIs, e0, e1, e2, e3, f0, f1, f2, Nat.reduceBEq, beq_self_eq_true, Bool.and_true, Bool.and_false, Bool.false_and, Bool.true_and, Bool.false_eq_true, if_true, if_false]

theorem word_icmpLt (b : BitVec 7) (a : BitVec 7) (p : BitVec 3) (s : BitVec 1) (y : Nat) (hy : y = partsNat [(1, 1), (1, s.toNat), (6, 21), (3, p.toNat), (4, 0), (7, a.toNat), (7, b.toNat), (3, 2)]) :
    decode32 y = accept (.icmpLt b a p s) := by
  have ok : partsOk [(1, 1), (1, s.toNat), (6, 21), (3, p.toNat), (4, 0), (7, a.toNat), (7, b.toNat), (3, 2)] := ⟨by decide, s.isLt, by decide, p.isLt, by decide, a.isLt, b.isLt, by decide, trivial⟩
  have e0 : bits y 22 7 = b := bits_of (part_at hy ok 6 rfl rfl)
  have e1 : bits y 15 7 = a := bits_of (part_at hy ok 5 rfl rfl)
  have e2 : bits y 8 3 = p := bits_of (part_at hy ok 3 rfl rfl)
  have e3 : bits y 1 1 = s := bits_of (part_at hy ok 1 rfl rfl)
  have f0 : field y 29 3 = 2 := part_in hy ok 7 0 rfl rfl rfl (by decide)
  have f1 : field y 29 3 = 2 := part_in hy ok 7 0 rfl rfl rfl (by decide)
  have f2 : field y 11 4 = 0 := part_in hy ok 4 0 rfl rfl rfl (by decide)
  have f3 : field y 29 3 = 2 := part_in hy ok 7 0 rfl rfl rfl (by decide)
  rw [row_Maj15 (part_in hy ok 2 0 rfl rfl rfl (by decide))]
  simp only [ofRow, rowMaj15, pickRow, fixedIs, e0, e1, e2, e3, f0, f1, f2, f3, Nat.reduceBEq, beq_self_eq_true, Bool.and_true, Bool.and_false, Bool.false_and, Bool.true_and, Bool.false_eq_true, if_true, if_false]

theorem word_icmpLe (b : BitVec 7) (a : BitVec 7) (p : BitVec 3) (s : BitVec 1) (y : Nat) (hy : y = partsNat [(1, 1), (1, s.toNat), (6, 21), (3, p.toNat), (4, 0), (7, a.toNat), (7, b.toNat), (3, 3)]) :
    decode32 y = accept (.icmpLe b a p s) := by
  have ok : partsOk [(1, 1), (1, s.toNat), (6, 21), (3, p.toNat), (4, 0), (7, a.toNat), (7, b.toNat), (3, 3)] := ⟨by decide, s.isLt, by decide, p.isLt, by decide, a.isLt, b.isLt, by decide, trivial⟩
  have e0 : bits y 22 7 = b := bits_of (part_at hy ok 6 rfl rfl)
  have e1 : bits y 15 7 = a := bits_of (part_at hy ok 5 rfl rfl)
  have e2 : bits y 8 3 = p := bits_of (part_at hy ok 3 rfl rfl)
  have e3 : bits y 1 1 = s := bits_of (part_at hy ok 1 rfl rfl)
  have f0 : field y 29 3 = 3 := part_in hy ok 7 0 rfl rfl rfl (by decide)
  have f1 : field y 29 3 = 3 := part_in hy ok 7 0 rfl rfl rfl (by decide)
  have f2 : field y 29 3 = 3 := part_in hy ok 7 0 rfl rfl rfl (by decide)
  have f3 : field y 11 4 = 0 := part_in hy ok 4 0 rfl rfl rfl (by decide)
  have f4 : field y 29 3 = 3 := part_in hy ok 7 0 rfl rfl rfl (by decide)
  rw [row_Maj15 (part_in hy ok 2 0 rfl rfl rfl (by decide))]
  simp only [ofRow, rowMaj15, pickRow, fixedIs, e0, e1, e2, e3, f0, f1, f2, f3, f4, Nat.reduceBEq, beq_self_eq_true, Bool.and_true, Bool.and_false, Bool.false_and, Bool.true_and, Bool.false_eq_true, if_true, if_false]

theorem word_icmpLtn (b : BitVec 7) (a : BitVec 7) (p : BitVec 3) (s : BitVec 1) (y : Nat) (hy : y = partsNat [(1, 1), (1, s.toNat), (6, 21), (3, p.toNat), (4, 0), (7, a.toNat), (7, b.toNat), (3, 4)]) :
    decode32 y = accept (.icmpLtn b a p s) := by
  have ok : partsOk [(1, 1), (1, s.toNat), (6, 21), (3, p.toNat), (4, 0), (7, a.toNat), (7, b.toNat), (3, 4)] := ⟨by decide, s.isLt, by decide, p.isLt, by decide, a.isLt, b.isLt, by decide, trivial⟩
  have e0 : bits y 22 7 = b := bits_of (part_at hy ok 6 rfl rfl)
  have e1 : bits y 15 7 = a := bits_of (part_at hy ok 5 rfl rfl)
  have e2 : bits y 8 3 = p := bits_of (part_at hy ok 3 rfl rfl)
  have e3 : bits y 1 1 = s := bits_of (part_at hy ok 1 rfl rfl)
  have f0 : field y 29 3 = 4 := part_in hy ok 7 0 rfl rfl rfl (by decide)
  have f1 : field y 29 3 = 4 := part_in hy ok 7 0 rfl rfl rfl (by decide)
  have f2 : field y 29 3 = 4 := part_in hy ok 7 0 rfl rfl rfl (by decide)
  have f3 : field y 29 3 = 4 := part_in hy ok 7 0 rfl rfl rfl (by decide)
  have f4 : field y 11 4 = 0 := part_in hy ok 4 0 rfl rfl rfl (by decide)
  have f5 : field y 29 3 = 4 := part_in hy ok 7 0 rfl rfl rfl (by decide)
  rw [row_Maj15 (part_in hy ok 2 0 rfl rfl rfl (by decide))]
  simp only [ofRow, rowMaj15, pickRow, fixedIs, e0, e1, e2, e3, f0, f1, f2, f3, f4, f5, Nat.reduceBEq, beq_self_eq_true, Bool.and_true, Bool.and_false, Bool.false_and, Bool.true_and, Bool.false_eq_true, if_true, if_false]

theorem word_icmpLen (b : BitVec 7) (a : BitVec 7) (p : BitVec 3) (s : BitVec 1) (y : Nat) (hy : y = partsNat [(1, 1), (1, s.toNat), (6, 21), (3, p.toNat), (4, 0), (7, a.toNat), (7, b.toNat), (3, 5)]) :
    decode32 y = accept (.icmpLen b a p s) := by
  have ok : partsOk [(1, 1), (1, s.toNat), (6, 21), (3, p.toNat), (4, 0), (7, a.toNat), (7, b.toNat), (3, 5)] := ⟨by decide, s.isLt, by decide, p.isLt, by decide, a.isLt, b.isLt, by decide, trivial⟩
  have e0 : bits y 22 7 = b := bits_of (part_at hy ok 6 rfl rfl)
  have e1 : bits y 15 7 = a := bits_of (part_at hy ok 5 rfl rfl)
  have e2 : bits y 8 3 = p := bits_of (part_at hy ok 3 rfl rfl)
  have e3 : bits y 1 1 = s := bits_of (part_at hy ok 1 rfl rfl)
  have f0 : field y 29 3 = 5 := part_in hy ok 7 0 rfl rfl rfl (by decide)
  have f1 : field y 29 3 = 5 := part_in hy ok 7 0 rfl rfl rfl (by decide)
  have f2 : field y 29 3 = 5 := part_in hy ok 7 0 rfl rfl rfl (by decide)
  have f3 : field y 29 3 = 5 := part_in hy ok 7 0 rfl rfl rfl (by decide)
  have f4 : field y 29 3 = 5 := part_in hy ok 7 0 rfl rfl rfl (by decide)
  have f5 : field y 11 4 = 0 := part_in hy ok 4 0 rfl rfl rfl (by decide)
  have f6 : field y 29 3 = 5 := part_in hy ok 7 0 rfl rfl rfl (by decide)
  rw [row_Maj15 (part_in hy ok 2 0 rfl rfl rfl (by decide))]
  simp only [ofRow, rowMaj15, pickRow, fixedIs, e0, e1, e2, e3, f0, f1, f2, f3, f4, f5, f6, Nat.reduceBEq, beq_self_eq_true, Bool.and_true, Bool.and_false, Bool.false_and, Bool.true_and, Bool.false_eq_true, if_true, if_false]

theorem word_sel (q : BitVec 3) (a : BitVec 7) (d : BitVec 7) (s : BitVec 1) (y : Nat) (hy : y = partsNat [(1, 1), (1, s.toNat), (6, 22), (7, d.toNat), (7, a.toNat), (3, q.toNat), (7, 0)]) :
    decode32 y = accept (.sel q a d s) := by
  have ok : partsOk [(1, 1), (1, s.toNat), (6, 22), (7, d.toNat), (7, a.toNat), (3, q.toNat), (7, 0)] := ⟨by decide, s.isLt, by decide, d.isLt, a.isLt, q.isLt, by decide, trivial⟩
  have e0 : bits y 22 3 = q := bits_of (part_at hy ok 5 rfl rfl)
  have e1 : bits y 15 7 = a := bits_of (part_at hy ok 4 rfl rfl)
  have e2 : bits y 8 7 = d := bits_of (part_at hy ok 3 rfl rfl)
  have e3 : bits y 1 1 = s := bits_of (part_at hy ok 1 rfl rfl)
  have f0 : field y 25 7 = 0 := part_in hy ok 6 0 rfl rfl rfl (by decide)
  rw [row_Maj16 (part_in hy ok 2 0 rfl rfl rfl (by decide))]
  simp only [ofRow, rowMaj16, pickRow, fixedIs, e0, e1, e2, e3, f0, Nat.reduceBEq, beq_self_eq_true, Bool.and_true, Bool.and_false, Bool.false_and, Bool.true_and, Bool.false_eq_true, if_true, if_false]

theorem word_pand (b : BitVec 3) (a : BitVec 3) (d : BitVec 3) (s : BitVec 1) (y : Nat) (hy : y = partsNat [(1, 1), (1, s.toNat), (6, 22), (3, d.toNat), (4, 0), (3, a.toNat), (4, 0), (3, b.toNat), (7, 16)]) :
    decode32 y = accept (.pand b a d s) := by
  have ok : partsOk [(1, 1), (1, s.toNat), (6, 22), (3, d.toNat), (4, 0), (3, a.toNat), (4, 0), (3, b.toNat), (7, 16)] := ⟨by decide, s.isLt, by decide, d.isLt, by decide, a.isLt, by decide, b.isLt, by decide, trivial⟩
  have e0 : bits y 22 3 = b := bits_of (part_at hy ok 7 rfl rfl)
  have e1 : bits y 15 3 = a := bits_of (part_at hy ok 5 rfl rfl)
  have e2 : bits y 8 3 = d := bits_of (part_at hy ok 3 rfl rfl)
  have e3 : bits y 1 1 = s := bits_of (part_at hy ok 1 rfl rfl)
  have f0 : field y 25 7 = 16 := part_in hy ok 8 0 rfl rfl rfl (by decide)
  have f1 : field y 11 4 = 0 := part_in hy ok 4 0 rfl rfl rfl (by decide)
  have f2 : field y 18 4 = 0 := part_in hy ok 6 0 rfl rfl rfl (by decide)
  have f3 : field y 25 7 = 16 := part_in hy ok 8 0 rfl rfl rfl (by decide)
  rw [row_Maj16 (part_in hy ok 2 0 rfl rfl rfl (by decide))]
  simp only [ofRow, rowMaj16, pickRow, fixedIs, e0, e1, e2, e3, f0, f1, f2, f3, Nat.reduceBEq, beq_self_eq_true, Bool.and_true, Bool.and_false, Bool.false_and, Bool.true_and, Bool.false_eq_true, if_true, if_false]

theorem word_por (b : BitVec 3) (a : BitVec 3) (d : BitVec 3) (s : BitVec 1) (y : Nat) (hy : y = partsNat [(1, 1), (1, s.toNat), (6, 22), (3, d.toNat), (4, 0), (3, a.toNat), (4, 0), (3, b.toNat), (7, 32)]) :
    decode32 y = accept (.por b a d s) := by
  have ok : partsOk [(1, 1), (1, s.toNat), (6, 22), (3, d.toNat), (4, 0), (3, a.toNat), (4, 0), (3, b.toNat), (7, 32)] := ⟨by decide, s.isLt, by decide, d.isLt, by decide, a.isLt, by decide, b.isLt, by decide, trivial⟩
  have e0 : bits y 22 3 = b := bits_of (part_at hy ok 7 rfl rfl)
  have e1 : bits y 15 3 = a := bits_of (part_at hy ok 5 rfl rfl)
  have e2 : bits y 8 3 = d := bits_of (part_at hy ok 3 rfl rfl)
  have e3 : bits y 1 1 = s := bits_of (part_at hy ok 1 rfl rfl)
  have f0 : field y 25 7 = 32 := part_in hy ok 8 0 rfl rfl rfl (by decide)
  have f1 : field y 25 7 = 32 := part_in hy ok 8 0 rfl rfl rfl (by decide)
  have f2 : field y 11 4 = 0 := part_in hy ok 4 0 rfl rfl rfl (by decide)
  have f3 : field y 18 4 = 0 := part_in hy ok 6 0 rfl rfl rfl (by decide)
  have f4 : field y 25 7 = 32 := part_in hy ok 8 0 rfl rfl rfl (by decide)
  rw [row_Maj16 (part_in hy ok 2 0 rfl rfl rfl (by decide))]
  simp only [ofRow, rowMaj16, pickRow, fixedIs, e0, e1, e2, e3, f0, f1, f2, f3, f4, Nat.reduceBEq, beq_self_eq_true, Bool.and_true, Bool.and_false, Bool.false_and, Bool.true_and, Bool.false_eq_true, if_true, if_false]

theorem word_pxor (b : BitVec 3) (a : BitVec 3) (d : BitVec 3) (s : BitVec 1) (y : Nat) (hy : y = partsNat [(1, 1), (1, s.toNat), (6, 22), (3, d.toNat), (4, 0), (3, a.toNat), (4, 0), (3, b.toNat), (7, 48)]) :
    decode32 y = accept (.pxor b a d s) := by
  have ok : partsOk [(1, 1), (1, s.toNat), (6, 22), (3, d.toNat), (4, 0), (3, a.toNat), (4, 0), (3, b.toNat), (7, 48)] := ⟨by decide, s.isLt, by decide, d.isLt, by decide, a.isLt, by decide, b.isLt, by decide, trivial⟩
  have e0 : bits y 22 3 = b := bits_of (part_at hy ok 7 rfl rfl)
  have e1 : bits y 15 3 = a := bits_of (part_at hy ok 5 rfl rfl)
  have e2 : bits y 8 3 = d := bits_of (part_at hy ok 3 rfl rfl)
  have e3 : bits y 1 1 = s := bits_of (part_at hy ok 1 rfl rfl)
  have f0 : field y 25 7 = 48 := part_in hy ok 8 0 rfl rfl rfl (by decide)
  have f1 : field y 25 7 = 48 := part_in hy ok 8 0 rfl rfl rfl (by decide)
  have f2 : field y 25 7 = 48 := part_in hy ok 8 0 rfl rfl rfl (by decide)
  have f3 : field y 11 4 = 0 := part_in hy ok 4 0 rfl rfl rfl (by decide)
  have f4 : field y 18 4 = 0 := part_in hy ok 6 0 rfl rfl rfl (by decide)
  have f5 : field y 25 7 = 48 := part_in hy ok 8 0 rfl rfl rfl (by decide)
  rw [row_Maj16 (part_in hy ok 2 0 rfl rfl rfl (by decide))]
  simp only [ofRow, rowMaj16, pickRow, fixedIs, e0, e1, e2, e3, f0, f1, f2, f3, f4, f5, Nat.reduceBEq, beq_self_eq_true, Bool.and_true, Bool.and_false, Bool.false_and, Bool.true_and, Bool.false_eq_true, if_true, if_false]

theorem word_pnot (a : BitVec 3) (d : BitVec 3) (s : BitVec 1) (y : Nat) (hy : y = partsNat [(1, 1), (1, s.toNat), (6, 22), (3, d.toNat), (4, 0), (3, a.toNat), (14, 8192)]) :
    decode32 y = accept (.pnot a d s) := by
  have ok : partsOk [(1, 1), (1, s.toNat), (6, 22), (3, d.toNat), (4, 0), (3, a.toNat), (14, 8192)] := ⟨by decide, s.isLt, by decide, d.isLt, by decide, a.isLt, by decide, trivial⟩
  have e0 : bits y 15 3 = a := bits_of (part_at hy ok 5 rfl rfl)
  have e1 : bits y 8 3 = d := bits_of (part_at hy ok 3 rfl rfl)
  have e2 : bits y 1 1 = s := bits_of (part_at hy ok 1 rfl rfl)
  have f0 : field y 25 7 = 64 := part_in hy ok 6 7 rfl rfl rfl (by decide)
  have f1 : field y 25 7 = 64 := part_in hy ok 6 7 rfl rfl rfl (by decide)
  have f2 : field y 25 7 = 64 := part_in hy ok 6 7 rfl rfl rfl (by decide)
  have f3 : field y 25 7 = 64 := part_in hy ok 6 7 rfl rfl rfl (by decide)
  have f4 : field y 11 4 = 0 := part_in hy ok 4 0 rfl rfl rfl (by decide)
  have f5 : field y 18 14 = 8192 := part_in hy ok 6 0 rfl rfl rfl (by decide)
  rw [row_Maj16 (part_in hy ok 2 0 rfl rfl rfl (by decide))]
  simp only [ofRow, rowMaj16, pickRow, fixedIs, e0, e1, e2, f0, f1, f2, f3, f4, f5, Nat.reduceBEq, beq_self_eq_true, Bool.and_true, Bool.and_false, Bool.false_and, Bool.true_and, Bool.false_eq_true, if_true, if_false]

theorem word_pmov (a : BitVec 3) (d : BitVec 3) (s : BitVec 1) (y : Nat) (hy : y = partsNat [(1, 1), (1, s.toNat), (6, 22), (3, d.toNat), (4, 0), (3, a.toNat), (14, 10240)]) :
    decode32 y = accept (.pmov a d s) := by
  have ok : partsOk [(1, 1), (1, s.toNat), (6, 22), (3, d.toNat), (4, 0), (3, a.toNat), (14, 10240)] := ⟨by decide, s.isLt, by decide, d.isLt, by decide, a.isLt, by decide, trivial⟩
  have e0 : bits y 15 3 = a := bits_of (part_at hy ok 5 rfl rfl)
  have e1 : bits y 8 3 = d := bits_of (part_at hy ok 3 rfl rfl)
  have e2 : bits y 1 1 = s := bits_of (part_at hy ok 1 rfl rfl)
  have f0 : field y 25 7 = 80 := part_in hy ok 6 7 rfl rfl rfl (by decide)
  have f1 : field y 25 7 = 80 := part_in hy ok 6 7 rfl rfl rfl (by decide)
  have f2 : field y 25 7 = 80 := part_in hy ok 6 7 rfl rfl rfl (by decide)
  have f3 : field y 25 7 = 80 := part_in hy ok 6 7 rfl rfl rfl (by decide)
  have f4 : field y 18 14 = 10240 := part_in hy ok 6 0 rfl rfl rfl (by decide)
  have f5 : field y 11 4 = 0 := part_in hy ok 4 0 rfl rfl rfl (by decide)
  have f6 : field y 18 14 = 10240 := part_in hy ok 6 0 rfl rfl rfl (by decide)
  rw [row_Maj16 (part_in hy ok 2 0 rfl rfl rfl (by decide))]
  simp only [ofRow, rowMaj16, pickRow, fixedIs, e0, e1, e2, f0, f1, f2, f3, f4, f5, f6, Nat.reduceBEq, beq_self_eq_true, Bool.and_true, Bool.and_false, Bool.false_and, Bool.true_and, Bool.false_eq_true, if_true, if_false]

theorem word_clz (a : BitVec 7) (d : BitVec 7) (s : BitVec 1) (y : Nat) (hy : y = partsNat [(1, 1), (1, s.toNat), (6, 23), (7, d.toNat), (7, a.toNat), (10, 0)]) :
    decode32 y = accept (.clz a d s) := by
  have ok : partsOk [(1, 1), (1, s.toNat), (6, 23), (7, d.toNat), (7, a.toNat), (10, 0)] := ⟨by decide, s.isLt, by decide, d.isLt, a.isLt, by decide, trivial⟩
  have e0 : bits y 15 7 = a := bits_of (part_at hy ok 4 rfl rfl)
  have e1 : bits y 8 7 = d := bits_of (part_at hy ok 3 rfl rfl)
  have e2 : bits y 1 1 = s := bits_of (part_at hy ok 1 rfl rfl)
  have f0 : field y 22 10 = 0 := part_in hy ok 5 0 rfl rfl rfl (by decide)
  rw [row_Maj17 (part_in hy ok 2 0 rfl rfl rfl (by decide))]
  simp only [ofRow, rowMaj17, pickRow, fixedIs, e0, e1, e2, f0, Nat.reduceBEq, beq_self_eq_true, Bool.and_true, Bool.and_false, Bool.false_and, Bool.true_and, Bool.false_eq_true, if_true, if_false]

theorem word_popc (a : BitVec 7) (d : BitVec 7) (s : BitVec 1) (y : Nat) (hy : y = partsNat [(1, 1), (1, s.toNat), (6, 23), (7, d.toNat), (7, a.toNat), (10, 128)]) :
    decode32 y = accept (.popc a d s) := by
  have ok : partsOk [(1, 1), (1, s.toNat), (6, 23), (7, d.toNat), (7, a.toNat), (10, 128)] := ⟨by decide, s.isLt, by decide, d.isLt, a.isLt, by decide, trivial⟩
  have e0 : bits y 15 7 = a := bits_of (part_at hy ok 4 rfl rfl)
  have e1 : bits y 8 7 = d := bits_of (part_at hy ok 3 rfl rfl)
  have e2 : bits y 1 1 = s := bits_of (part_at hy ok 1 rfl rfl)
  have f0 : field y 22 10 = 128 := part_in hy ok 5 0 rfl rfl rfl (by decide)
  have f1 : field y 22 10 = 128 := part_in hy ok 5 0 rfl rfl rfl (by decide)
  rw [row_Maj17 (part_in hy ok 2 0 rfl rfl rfl (by decide))]
  simp only [ofRow, rowMaj17, pickRow, fixedIs, e0, e1, e2, f0, f1, Nat.reduceBEq, beq_self_eq_true, Bool.and_true, Bool.and_false, Bool.false_and, Bool.true_and, Bool.false_eq_true, if_true, if_false]

theorem word_brev (a : BitVec 7) (d : BitVec 7) (s : BitVec 1) (y : Nat) (hy : y = partsNat [(1, 1), (1, s.toNat), (6, 23), (7, d.toNat), (7, a.toNat), (10, 256)]) :
    decode32 y = accept (.brev a d s) := by
  have ok : partsOk [(1, 1), (1, s.toNat), (6, 23), (7, d.toNat), (7, a.toNat), (10, 256)] := ⟨by decide, s.isLt, by decide, d.isLt, a.isLt, by decide, trivial⟩
  have e0 : bits y 15 7 = a := bits_of (part_at hy ok 4 rfl rfl)
  have e1 : bits y 8 7 = d := bits_of (part_at hy ok 3 rfl rfl)
  have e2 : bits y 1 1 = s := bits_of (part_at hy ok 1 rfl rfl)
  have f0 : field y 22 10 = 256 := part_in hy ok 5 0 rfl rfl rfl (by decide)
  have f1 : field y 22 10 = 256 := part_in hy ok 5 0 rfl rfl rfl (by decide)
  have f2 : field y 22 10 = 256 := part_in hy ok 5 0 rfl rfl rfl (by decide)
  rw [row_Maj17 (part_in hy ok 2 0 rfl rfl rfl (by decide))]
  simp only [ofRow, rowMaj17, pickRow, fixedIs, e0, e1, e2, f0, f1, f2, Nat.reduceBEq, beq_self_eq_true, Bool.and_true, Bool.and_false, Bool.false_and, Bool.true_and, Bool.false_eq_true, if_true, if_false]

theorem word_bfe (b : BitVec 7) (a : BitVec 7) (d : BitVec 7) (s : BitVec 1) (y : Nat) (hy : y = partsNat [(1, 1), (1, s.toNat), (6, 23), (7, d.toNat), (7, a.toNat), (7, b.toNat), (3, 3)]) :
    decode32 y = accept (.bfe b a d s) := by
  have ok : partsOk [(1, 1), (1, s.toNat), (6, 23), (7, d.toNat), (7, a.toNat), (7, b.toNat), (3, 3)] := ⟨by decide, s.isLt, by decide, d.isLt, a.isLt, b.isLt, by decide, trivial⟩
  have e0 : bits y 22 7 = b := bits_of (part_at hy ok 5 rfl rfl)
  have e1 : bits y 15 7 = a := bits_of (part_at hy ok 4 rfl rfl)
  have e2 : bits y 8 7 = d := bits_of (part_at hy ok 3 rfl rfl)
  have e3 : bits y 1 1 = s := bits_of (part_at hy ok 1 rfl rfl)
  have f0 : (field y 22 10 == 0) = false :=
    part_not (part_in hy ok 6 0 rfl rfl rfl (by decide) : field y 29 3 = 3) 7 rfl (by decide) (by decide)
  have f1 : (field y 22 10 == 128) = false :=
    part_not (part_in hy ok 6 0 rfl rfl rfl (by decide) : field y 29 3 = 3) 7 rfl (by decide) (by decide)
  have f2 : (field y 22 10 == 256) = false :=
    part_not (part_in hy ok 6 0 rfl rfl rfl (by decide) : field y 29 3 = 3) 7 rfl (by decide) (by decide)
  have f3 : field y 29 3 = 3 := part_in hy ok 6 0 rfl rfl rfl (by decide)
  rw [row_Maj17 (part_in hy ok 2 0 rfl rfl rfl (by decide))]
  simp only [ofRow, rowMaj17, pickRow, fixedIs, e0, e1, e2, e3, f0, f1, f2, f3, Nat.reduceBEq, beq_self_eq_true, Bool.and_true, Bool.and_false, Bool.false_and, Bool.true_and, Bool.false_eq_true, if_true, if_false]

theorem word_bfi (b : BitVec 7) (a : BitVec 7) (d : BitVec 7) (s : BitVec 1) (y : Nat) (hy : y = partsNat [(1, 1), (1, s.toNat), (6, 23), (7, d.toNat), (7, a.toNat), (7, b.toNat), (3, 4)]) :
    decode32 y = accept (.bfi b a d s) := by
  have ok : partsOk [(1, 1), (1, s.toNat), (6, 23), (7, d.toNat), (7, a.toNat), (7, b.toNat), (3, 4)] := ⟨by decide, s.isLt, by decide, d.isLt, a.isLt, b.isLt, by decide, trivial⟩
  have e0 : bits y 22 7 = b := bits_of (part_at hy ok 5 rfl rfl)
  have e1 : bits y 15 7 = a := bits_of (part_at hy ok 4 rfl rfl)
  have e2 : bits y 8 7 = d := bits_of (part_at hy ok 3 rfl rfl)
  have e3 : bits y 1 1 = s := bits_of (part_at hy ok 1 rfl rfl)
  have f0 : (field y 22 10 == 0) = false :=
    part_not (part_in hy ok 6 0 rfl rfl rfl (by decide) : field y 29 3 = 4) 7 rfl (by decide) (by decide)
  have f1 : (field y 22 10 == 128) = false :=
    part_not (part_in hy ok 6 0 rfl rfl rfl (by decide) : field y 29 3 = 4) 7 rfl (by decide) (by decide)
  have f2 : (field y 22 10 == 256) = false :=
    part_not (part_in hy ok 6 0 rfl rfl rfl (by decide) : field y 29 3 = 4) 7 rfl (by decide) (by decide)
  have f3 : field y 29 3 = 4 := part_in hy ok 6 0 rfl rfl rfl (by decide)
  have f4 : field y 29 3 = 4 := part_in hy ok 6 0 rfl rfl rfl (by decide)
  rw [row_Maj17 (part_in hy ok 2 0 rfl rfl rfl (by decide))]
  simp only [ofRow, rowMaj17, pickRow, fixedIs, e0, e1, e2, e3, f0, f1, f2, f3, f4, Nat.reduceBEq, beq_self_eq_true, Bool.and_true, Bool.and_false, Bool.false_and, Bool.true_and, Bool.false_eq_true, if_true, if_false]

theorem word_lea (b : BitVec 7) (a : BitVec 7) (d : BitVec 7) (s : BitVec 1) (y : Nat) (hy : y = partsNat [(1, 1), (1, s.toNat), (6, 23), (7, d.toNat), (7, a.toNat), (7, b.toNat), (3, 5)]) :
    decode32 y = accept (.lea b a d s) := by
  have ok : partsOk [(1, 1), (1, s.toNat), (6, 23), (7, d.toNat), (7, a.toNat), (7, b.toNat), (3, 5)] := ⟨by decide, s.isLt, by decide, d.isLt, a.isLt, b.isLt, by decide, trivial⟩
  have e0 : bits y 22 7 = b := bits_of (part_at hy ok 5 rfl rfl)
  have e1 : bits y 15 7 = a := bits_of (part_at hy ok 4 rfl rfl)
  have e2 : bits y 8 7 = d := bits_of (part_at hy ok 3 rfl rfl)
  have e3 : bits y 1 1 = s := bits_of (part_at hy ok 1 rfl rfl)
  have f0 : (field y 22 10 == 0) = false :=
    part_not (part_in hy ok 6 0 rfl rfl rfl (by decide) : field y 29 3 = 5) 7 rfl (by decide) (by decide)
  have f1 : (field y 22 10 == 128) = false :=
    part_not (part_in hy ok 6 0 rfl rfl rfl (by decide) : field y 29 3 = 5) 7 rfl (by decide) (by decide)
  have f2 : (field y 22 10 == 256) = false :=
    part_not (part_in hy ok 6 0 rfl rfl rfl (by decide) : field y 29 3 = 5) 7 rfl (by decide) (by decide)
  have f3 : field y 29 3 = 5 := part_in hy ok 6 0 rfl rfl rfl (by decide)
  have f4 : field y 29 3 = 5 := part_in hy ok 6 0 rfl rfl rfl (by decide)
  have f5 : field y 29 3 = 5 := part_in hy ok 6 0 rfl rfl rfl (by decide)
  rw [row_Maj17 (part_in hy ok 2 0 rfl rfl rfl (by decide))]
  simp only [ofRow, rowMaj17, pickRow, fixedIs, e0, e1, e2, e3, f0, f1, f2, f3, f4, f5, Nat.reduceBEq, beq_self_eq_true, Bool.and_true, Bool.and_false, Bool.false_and, Bool.true_and, Bool.false_eq_true, if_true, if_false]

theorem word_fadd (b : BitVec 7) (a : BitVec 7) (d : BitVec 7) (s : BitVec 1) (y : Nat) (hy : y = partsNat [(1, 1), (1, s.toNat), (6, 24), (7, d.toNat), (7, a.toNat), (7, b.toNat), (3, 0)]) :
    decode32 y = accept (.fadd b a d s) := by
  have ok : partsOk [(1, 1), (1, s.toNat), (6, 24), (7, d.toNat), (7, a.toNat), (7, b.toNat), (3, 0)] := ⟨by decide, s.isLt, by decide, d.isLt, a.isLt, b.isLt, by decide, trivial⟩
  have e0 : bits y 22 7 = b := bits_of (part_at hy ok 5 rfl rfl)
  have e1 : bits y 15 7 = a := bits_of (part_at hy ok 4 rfl rfl)
  have e2 : bits y 8 7 = d := bits_of (part_at hy ok 3 rfl rfl)
  have e3 : bits y 1 1 = s := bits_of (part_at hy ok 1 rfl rfl)
  have f0 : field y 29 3 = 0 := part_in hy ok 6 0 rfl rfl rfl (by decide)
  rw [row_Maj18 (part_in hy ok 2 0 rfl rfl rfl (by decide))]
  simp only [ofRow, rowMaj18, pickRow, fixedIs, e0, e1, e2, e3, f0, Nat.reduceBEq, beq_self_eq_true, Bool.and_true, Bool.and_false, Bool.false_and, Bool.true_and, Bool.false_eq_true, if_true, if_false]

theorem word_fsub (b : BitVec 7) (a : BitVec 7) (d : BitVec 7) (s : BitVec 1) (y : Nat) (hy : y = partsNat [(1, 1), (1, s.toNat), (6, 24), (7, d.toNat), (7, a.toNat), (7, b.toNat), (3, 1)]) :
    decode32 y = accept (.fsub b a d s) := by
  have ok : partsOk [(1, 1), (1, s.toNat), (6, 24), (7, d.toNat), (7, a.toNat), (7, b.toNat), (3, 1)] := ⟨by decide, s.isLt, by decide, d.isLt, a.isLt, b.isLt, by decide, trivial⟩
  have e0 : bits y 22 7 = b := bits_of (part_at hy ok 5 rfl rfl)
  have e1 : bits y 15 7 = a := bits_of (part_at hy ok 4 rfl rfl)
  have e2 : bits y 8 7 = d := bits_of (part_at hy ok 3 rfl rfl)
  have e3 : bits y 1 1 = s := bits_of (part_at hy ok 1 rfl rfl)
  have f0 : field y 29 3 = 1 := part_in hy ok 6 0 rfl rfl rfl (by decide)
  have f1 : field y 29 3 = 1 := part_in hy ok 6 0 rfl rfl rfl (by decide)
  rw [row_Maj18 (part_in hy ok 2 0 rfl rfl rfl (by decide))]
  simp only [ofRow, rowMaj18, pickRow, fixedIs, e0, e1, e2, e3, f0, f1, Nat.reduceBEq, beq_self_eq_true, Bool.and_true, Bool.and_false, Bool.false_and, Bool.true_and, Bool.false_eq_true, if_true, if_false]

theorem word_fmul (b : BitVec 7) (a : BitVec 7) (d : BitVec 7) (s : BitVec 1) (y : Nat) (hy : y = partsNat [(1, 1), (1, s.toNat), (6, 24), (7, d.toNat), (7, a.toNat), (7, b.toNat), (3, 2)]) :
    decode32 y = accept (.fmul b a d s) := by
  have ok : partsOk [(1, 1), (1, s.toNat), (6, 24), (7, d.toNat), (7, a.toNat), (7, b.toNat), (3, 2)] := ⟨by decide, s.isLt, by decide, d.isLt, a.isLt, b.isLt, by decide, trivial⟩
  have e0 : bits y 22 7 = b := bits_of (part_at hy ok 5 rfl rfl)
  have e1 : bits y 15 7 = a := bits_of (part_at hy ok 4 rfl rfl)
  have e2 : bits y 8 7 = d := bits_of (part_at hy ok 3 rfl rfl)
  have e3 : bits y 1 1 = s := bits_of (part_at hy ok 1 rfl rfl)
  have f0 : field y 29 3 = 2 := part_in hy ok 6 0 rfl rfl rfl (by decide)
  have f1 : field y 29 3 = 2 := part_in hy ok 6 0 rfl rfl rfl (by decide)
  have f2 : field y 29 3 = 2 := part_in hy ok 6 0 rfl rfl rfl (by decide)
  rw [row_Maj18 (part_in hy ok 2 0 rfl rfl rfl (by decide))]
  simp only [ofRow, rowMaj18, pickRow, fixedIs, e0, e1, e2, e3, f0, f1, f2, Nat.reduceBEq, beq_self_eq_true, Bool.and_true, Bool.and_false, Bool.false_and, Bool.true_and, Bool.false_eq_true, if_true, if_false]

theorem word_fmin (b : BitVec 7) (a : BitVec 7) (d : BitVec 7) (s : BitVec 1) (y : Nat) (hy : y = partsNat [(1, 1), (1, s.toNat), (6, 24), (7, d.toNat), (7, a.toNat), (7, b.toNat), (3, 3)]) :
    decode32 y = accept (.fmin b a d s) := by
  have ok : partsOk [(1, 1), (1, s.toNat), (6, 24), (7, d.toNat), (7, a.toNat), (7, b.toNat), (3, 3)] := ⟨by decide, s.isLt, by decide, d.isLt, a.isLt, b.isLt, by decide, trivial⟩
  have e0 : bits y 22 7 = b := bits_of (part_at hy ok 5 rfl rfl)
  have e1 : bits y 15 7 = a := bits_of (part_at hy ok 4 rfl rfl)
  have e2 : bits y 8 7 = d := bits_of (part_at hy ok 3 rfl rfl)
  have e3 : bits y 1 1 = s := bits_of (part_at hy ok 1 rfl rfl)
  have f0 : field y 29 3 = 3 := part_in hy ok 6 0 rfl rfl rfl (by decide)
  have f1 : field y 29 3 = 3 := part_in hy ok 6 0 rfl rfl rfl (by decide)
  have f2 : field y 29 3 = 3 := part_in hy ok 6 0 rfl rfl rfl (by decide)
  have f3 : field y 29 3 = 3 := part_in hy ok 6 0 rfl rfl rfl (by decide)
  rw [row_Maj18 (part_in hy ok 2 0 rfl rfl rfl (by decide))]
  simp only [ofRow, rowMaj18, pickRow, fixedIs, e0, e1, e2, e3, f0, f1, f2, f3, Nat.reduceBEq, beq_self_eq_true, Bool.and_true, Bool.and_false, Bool.false_and, Bool.true_and, Bool.false_eq_true, if_true, if_false]

theorem word_fmax (b : BitVec 7) (a : BitVec 7) (d : BitVec 7) (s : BitVec 1) (y : Nat) (hy : y = partsNat [(1, 1), (1, s.toNat), (6, 24), (7, d.toNat), (7, a.toNat), (7, b.toNat), (3, 4)]) :
    decode32 y = accept (.fmax b a d s) := by
  have ok : partsOk [(1, 1), (1, s.toNat), (6, 24), (7, d.toNat), (7, a.toNat), (7, b.toNat), (3, 4)] := ⟨by decide, s.isLt, by decide, d.isLt, a.isLt, b.isLt, by decide, trivial⟩
  have e0 : bits y 22 7 = b := bits_of (part_at hy ok 5 rfl rfl)
  have e1 : bits y 15 7 = a := bits_of (part_at hy ok 4 rfl rfl)
  have e2 : bits y 8 7 = d := bits_of (part_at hy ok 3 rfl rfl)
  have e3 : bits y 1 1 = s := bits_of (part_at hy ok 1 rfl rfl)
  have f0 : field y 29 3 = 4 := part_in hy ok 6 0 rfl rfl rfl (by decide)
  have f1 : field y 29 3 = 4 := part_in hy ok 6 0 rfl rfl rfl (by decide)
  have f2 : field y 29 3 = 4 := part_in hy ok 6 0 rfl rfl rfl (by decide)
  have f3 : field y 29 3 = 4 := part_in hy ok 6 0 rfl rfl rfl (by decide)
  have f4 : field y 29 3 = 4 := part_in hy ok 6 0 rfl rfl rfl (by decide)
  rw [row_Maj18 (part_in hy ok 2 0 rfl rfl rfl (by decide))]
  simp only [ofRow, rowMaj18, pickRow, fixedIs, e0, e1, e2, e3, f0, f1, f2, f3, f4, Nat.reduceBEq, beq_self_eq_true, Bool.and_true, Bool.and_false, Bool.false_and, Bool.true_and, Bool.false_eq_true, if_true, if_false]

theorem word_fabs (a : BitVec 7) (d : BitVec 7) (s : BitVec 1) (y : Nat) (hy : y = partsNat [(1, 1), (1, s.toNat), (6, 24), (7, d.toNat), (7, a.toNat), (10, 640)]) :
    decode32 y = accept (.fabs a d s) := by
  have ok : partsOk [(1, 1), (1, s.toNat), (6, 24), (7, d.toNat), (7, a.toNat), (10, 640)] := ⟨by decide, s.isLt, by decide, d.isLt, a.isLt, by decide, trivial⟩
  have e0 : bits y 15 7 = a := bits_of (part_at hy ok 4 rfl rfl)
  have e1 : bits y 8 7 = d := bits_of (part_at hy ok 3 rfl rfl)
  have e2 : bits y 1 1 = s := bits_of (part_at hy ok 1 rfl rfl)
  have f0 : field y 29 3 = 5 := part_in hy ok 5 7 rfl rfl rfl (by decide)
  have f1 : field y 29 3 = 5 := part_in hy ok 5 7 rfl rfl rfl (by decide)
  have f2 : field y 29 3 = 5 := part_in hy ok 5 7 rfl rfl rfl (by decide)
  have f3 : field y 29 3 = 5 := part_in hy ok 5 7 rfl rfl rfl (by decide)
  have f4 : field y 29 3 = 5 := part_in hy ok 5 7 rfl rfl rfl (by decide)
  have f5 : field y 22 10 = 640 := part_in hy ok 5 0 rfl rfl rfl (by decide)
  rw [row_Maj18 (part_in hy ok 2 0 rfl rfl rfl (by decide))]
  simp only [ofRow, rowMaj18, pickRow, fixedIs, e0, e1, e2, f0, f1, f2, f3, f4, f5, Nat.reduceBEq, beq_self_eq_true, Bool.and_true, Bool.and_false, Bool.false_and, Bool.true_and, Bool.false_eq_true, if_true, if_false]

theorem word_fneg (a : BitVec 7) (d : BitVec 7) (s : BitVec 1) (y : Nat) (hy : y = partsNat [(1, 1), (1, s.toNat), (6, 24), (7, d.toNat), (7, a.toNat), (10, 768)]) :
    decode32 y = accept (.fneg a d s) := by
  have ok : partsOk [(1, 1), (1, s.toNat), (6, 24), (7, d.toNat), (7, a.toNat), (10, 768)] := ⟨by decide, s.isLt, by decide, d.isLt, a.isLt, by decide, trivial⟩
  have e0 : bits y 15 7 = a := bits_of (part_at hy ok 4 rfl rfl)
  have e1 : bits y 8 7 = d := bits_of (part_at hy ok 3 rfl rfl)
  have e2 : bits y 1 1 = s := bits_of (part_at hy ok 1 rfl rfl)
  have f0 : field y 29 3 = 6 := part_in hy ok 5 7 rfl rfl rfl (by decide)
  have f1 : field y 29 3 = 6 := part_in hy ok 5 7 rfl rfl rfl (by decide)
  have f2 : field y 29 3 = 6 := part_in hy ok 5 7 rfl rfl rfl (by decide)
  have f3 : field y 29 3 = 6 := part_in hy ok 5 7 rfl rfl rfl (by decide)
  have f4 : field y 29 3 = 6 := part_in hy ok 5 7 rfl rfl rfl (by decide)
  have f5 : field y 22 10 = 768 := part_in hy ok 5 0 rfl rfl rfl (by decide)
  have f6 : field y 22 10 = 768 := part_in hy ok 5 0 rfl rfl rfl (by decide)
  rw [row_Maj18 (part_in hy ok 2 0 rfl rfl rfl (by decide))]
  simp only [ofRow, rowMaj18, pickRow, fixedIs, e0, e1, e2, f0, f1, f2, f3, f4, f5, f6, Nat.reduceBEq, beq_self_eq_true, Bool.and_true, Bool.and_false, Bool.false_and, Bool.true_and, Bool.false_eq_true, if_true, if_false]

theorem word_fcmp (b : BitVec 7) (a : BitVec 7) (c : BitVec 4) (p : BitVec 3) (s : BitVec 1) (y : Nat) (hy : y = partsNat [(1, 1), (1, s.toNat), (6, 24), (3, p.toNat), (4, c.toNat), (7, a.toNat), (7, b.toNat), (3, 7)]) :
    decode32 y = accept (.fcmp b a c p s) := by
  have ok : partsOk [(1, 1), (1, s.toNat), (6, 24), (3, p.toNat), (4, c.toNat), (7, a.toNat), (7, b.toNat), (3, 7)] := ⟨by decide, s.isLt, by decide, p.isLt, c.isLt, a.isLt, b.isLt, by decide, trivial⟩
  have e0 : bits y 22 7 = b := bits_of (part_at hy ok 6 rfl rfl)
  have e1 : bits y 15 7 = a := bits_of (part_at hy ok 5 rfl rfl)
  have e2 : bits y 11 4 = c := bits_of (part_at hy ok 4 rfl rfl)
  have e3 : bits y 8 3 = p := bits_of (part_at hy ok 3 rfl rfl)
  have e4 : bits y 1 1 = s := bits_of (part_at hy ok 1 rfl rfl)
  have f0 : field y 29 3 = 7 := part_in hy ok 7 0 rfl rfl rfl (by decide)
  have f1 : field y 29 3 = 7 := part_in hy ok 7 0 rfl rfl rfl (by decide)
  have f2 : field y 29 3 = 7 := part_in hy ok 7 0 rfl rfl rfl (by decide)
  have f3 : field y 29 3 = 7 := part_in hy ok 7 0 rfl rfl rfl (by decide)
  have f4 : field y 29 3 = 7 := part_in hy ok 7 0 rfl rfl rfl (by decide)
  have f5 : (field y 22 10 == 640) = false :=
    part_not (part_in hy ok 7 0 rfl rfl rfl (by decide) : field y 29 3 = 7) 7 rfl (by decide) (by decide)
  have f6 : (field y 22 10 == 768) = false :=
    part_not (part_in hy ok 7 0 rfl rfl rfl (by decide) : field y 29 3 = 7) 7 rfl (by decide) (by decide)
  have f7 : field y 29 3 = 7 := part_in hy ok 7 0 rfl rfl rfl (by decide)
  rw [row_Maj18 (part_in hy ok 2 0 rfl rfl rfl (by decide))]
  simp only [ofRow, rowMaj18, pickRow, fixedIs, e0, e1, e2, e3, e4, f0, f1, f2, f3, f4, f5, f6, f7, Nat.reduceBEq, beq_self_eq_true, Bool.and_true, Bool.and_false, Bool.false_and, Bool.true_and, Bool.false_eq_true, if_true, if_false]

theorem word_ffma (b : BitVec 7) (a : BitVec 7) (d : BitVec 7) (s : BitVec 1) (y : Nat) (hy : y = partsNat [(1, 1), (1, s.toNat), (6, 25), (7, d.toNat), (7, a.toNat), (7, b.toNat), (3, 0)]) :
    decode32 y = accept (.ffma b a d s) := by
  have ok : partsOk [(1, 1), (1, s.toNat), (6, 25), (7, d.toNat), (7, a.toNat), (7, b.toNat), (3, 0)] := ⟨by decide, s.isLt, by decide, d.isLt, a.isLt, b.isLt, by decide, trivial⟩
  have e0 : bits y 22 7 = b := bits_of (part_at hy ok 5 rfl rfl)
  have e1 : bits y 15 7 = a := bits_of (part_at hy ok 4 rfl rfl)
  have e2 : bits y 8 7 = d := bits_of (part_at hy ok 3 rfl rfl)
  have e3 : bits y 1 1 = s := bits_of (part_at hy ok 1 rfl rfl)
  have f0 : field y 29 3 = 0 := part_in hy ok 6 0 rfl rfl rfl (by decide)
  rw [row_Maj19 (part_in hy ok 2 0 rfl rfl rfl (by decide))]
  simp only [ofRow, rowMaj19, pickRow, fixedIs, e0, e1, e2, e3, f0, Nat.reduceBEq, beq_self_eq_true, Bool.and_true, Bool.and_false, Bool.false_and, Bool.true_and, Bool.false_eq_true, if_true, if_false]

theorem word_ffms (b : BitVec 7) (a : BitVec 7) (d : BitVec 7) (s : BitVec 1) (y : Nat) (hy : y = partsNat [(1, 1), (1, s.toNat), (6, 25), (7, d.toNat), (7, a.toNat), (7, b.toNat), (3, 1)]) :
    decode32 y = accept (.ffms b a d s) := by
  have ok : partsOk [(1, 1), (1, s.toNat), (6, 25), (7, d.toNat), (7, a.toNat), (7, b.toNat), (3, 1)] := ⟨by decide, s.isLt, by decide, d.isLt, a.isLt, b.isLt, by decide, trivial⟩
  have e0 : bits y 22 7 = b := bits_of (part_at hy ok 5 rfl rfl)
  have e1 : bits y 15 7 = a := bits_of (part_at hy ok 4 rfl rfl)
  have e2 : bits y 8 7 = d := bits_of (part_at hy ok 3 rfl rfl)
  have e3 : bits y 1 1 = s := bits_of (part_at hy ok 1 rfl rfl)
  have f0 : field y 29 3 = 1 := part_in hy ok 6 0 rfl rfl rfl (by decide)
  have f1 : field y 29 3 = 1 := part_in hy ok 6 0 rfl rfl rfl (by decide)
  rw [row_Maj19 (part_in hy ok 2 0 rfl rfl rfl (by decide))]
  simp only [ofRow, rowMaj19, pickRow, fixedIs, e0, e1, e2, e3, f0, f1, Nat.reduceBEq, beq_self_eq_true, Bool.and_true, Bool.and_false, Bool.false_and, Bool.true_and, Bool.false_eq_true, if_true, if_false]

theorem word_fnma (b : BitVec 7) (a : BitVec 7) (d : BitVec 7) (s : BitVec 1) (y : Nat) (hy : y = partsNat [(1, 1), (1, s.toNat), (6, 25), (7, d.toNat), (7, a.toNat), (7, b.toNat), (3, 2)]) :
    decode32 y = accept (.fnma b a d s) := by
  have ok : partsOk [(1, 1), (1, s.toNat), (6, 25), (7, d.toNat), (7, a.toNat), (7, b.toNat), (3, 2)] := ⟨by decide, s.isLt, by decide, d.isLt, a.isLt, b.isLt, by decide, trivial⟩
  have e0 : bits y 22 7 = b := bits_of (part_at hy ok 5 rfl rfl)
  have e1 : bits y 15 7 = a := bits_of (part_at hy ok 4 rfl rfl)
  have e2 : bits y 8 7 = d := bits_of (part_at hy ok 3 rfl rfl)
  have e3 : bits y 1 1 = s := bits_of (part_at hy ok 1 rfl rfl)
  have f0 : field y 29 3 = 2 := part_in hy ok 6 0 rfl rfl rfl (by decide)
  have f1 : field y 29 3 = 2 := part_in hy ok 6 0 rfl rfl rfl (by decide)
  have f2 : field y 29 3 = 2 := part_in hy ok 6 0 rfl rfl rfl (by decide)
  rw [row_Maj19 (part_in hy ok 2 0 rfl rfl rfl (by decide))]
  simp only [ofRow, rowMaj19, pickRow, fixedIs, e0, e1, e2, e3, f0, f1, f2, Nat.reduceBEq, beq_self_eq_true, Bool.and_true, Bool.and_false, Bool.false_and, Bool.true_and, Bool.false_eq_true, if_true, if_false]

theorem word_hadd2 (b : BitVec 7) (a : BitVec 7) (d : BitVec 7) (s : BitVec 1) (y : Nat) (hy : y = partsNat [(1, 1), (1, s.toNat), (6, 26), (7, d.toNat), (7, a.toNat), (7, b.toNat), (3, 0)]) :
    decode32 y = accept (.hadd2 b a d s) := by
  have ok : partsOk [(1, 1), (1, s.toNat), (6, 26), (7, d.toNat), (7, a.toNat), (7, b.toNat), (3, 0)] := ⟨by decide, s.isLt, by decide, d.isLt, a.isLt, b.isLt, by decide, trivial⟩
  have e0 : bits y 22 7 = b := bits_of (part_at hy ok 5 rfl rfl)
  have e1 : bits y 15 7 = a := bits_of (part_at hy ok 4 rfl rfl)
  have e2 : bits y 8 7 = d := bits_of (part_at hy ok 3 rfl rfl)
  have e3 : bits y 1 1 = s := bits_of (part_at hy ok 1 rfl rfl)
  have f0 : field y 29 3 = 0 := part_in hy ok 6 0 rfl rfl rfl (by decide)
  rw [row_Maj1A (part_in hy ok 2 0 rfl rfl rfl (by decide))]
  simp only [ofRow, rowMaj1A, pickRow, fixedIs, e0, e1, e2, e3, f0, Nat.reduceBEq, beq_self_eq_true, Bool.and_true, Bool.and_false, Bool.false_and, Bool.true_and, Bool.false_eq_true, if_true, if_false]

theorem word_hmul2 (b : BitVec 7) (a : BitVec 7) (d : BitVec 7) (s : BitVec 1) (y : Nat) (hy : y = partsNat [(1, 1), (1, s.toNat), (6, 26), (7, d.toNat), (7, a.toNat), (7, b.toNat), (3, 1)]) :
    decode32 y = accept (.hmul2 b a d s) := by
  have ok : partsOk [(1, 1), (1, s.toNat), (6, 26), (7, d.toNat), (7, a.toNat), (7, b.toNat), (3, 1)] := ⟨by decide, s.isLt, by decide, d.isLt, a.isLt, b.isLt, by decide, trivial⟩
  have e0 : bits y 22 7 = b := bits_of (part_at hy ok 5 rfl rfl)
  have e1 : bits y 15 7 = a := bits_of (part_at hy ok 4 rfl rfl)
  have e2 : bits y 8 7 = d := bits_of (part_at hy ok 3 rfl rfl)
  have e3 : bits y 1 1 = s := bits_of (part_at hy ok 1 rfl rfl)
  have f0 : field y 29 3 = 1 := part_in hy ok 6 0 rfl rfl rfl (by decide)
  have f1 : field y 29 3 = 1 := part_in hy ok 6 0 rfl rfl rfl (by decide)
  rw [row_Maj1A (part_in hy ok 2 0 rfl rfl rfl (by decide))]
  simp only [ofRow, rowMaj1A, pickRow, fixedIs, e0, e1, e2, e3, f0, f1, Nat.reduceBEq, beq_self_eq_true, Bool.and_true, Bool.and_false, Bool.false_and, Bool.true_and, Bool.false_eq_true, if_true, if_false]

theorem word_hfma2 (b : BitVec 7) (a : BitVec 7) (d : BitVec 7) (s : BitVec 1) (y : Nat) (hy : y = partsNat [(1, 1), (1, s.toNat), (6, 26), (7, d.toNat), (7, a.toNat), (7, b.toNat), (3, 2)]) :
    decode32 y = accept (.hfma2 b a d s) := by
  have ok : partsOk [(1, 1), (1, s.toNat), (6, 26), (7, d.toNat), (7, a.toNat), (7, b.toNat), (3, 2)] := ⟨by decide, s.isLt, by decide, d.isLt, a.isLt, b.isLt, by decide, trivial⟩
  have e0 : bits y 22 7 = b := bits_of (part_at hy ok 5 rfl rfl)
  have e1 : bits y 15 7 = a := bits_of (part_at hy ok 4 rfl rfl)
  have e2 : bits y 8 7 = d := bits_of (part_at hy ok 3 rfl rfl)
  have e3 : bits y 1 1 = s := bits_of (part_at hy ok 1 rfl rfl)
  have f0 : field y 29 3 = 2 := part_in hy ok 6 0 rfl rfl rfl (by decide)
  have f1 : field y 29 3 = 2 := part_in hy ok 6 0 rfl rfl rfl (by decide)
  have f2 : field y 29 3 = 2 := part_in hy ok 6 0 rfl rfl rfl (by decide)
  rw [row_Maj1A (part_in hy ok 2 0 rfl rfl rfl (by decide))]
  simp only [ofRow, rowMaj1A, pickRow, fixedIs, e0, e1, e2, e3, f0, f1, f2, Nat.reduceBEq, beq_self_eq_true, Bool.and_true, Bool.and_false, Bool.false_and, Bool.true_and, Bool.false_eq_true, if_true, if_false]

theorem word_badd2 (b : BitVec 7) (a : BitVec 7) (d : BitVec 7) (s : BitVec 1) (y : Nat) (hy : y = partsNat [(1, 1), (1, s.toNat), (6, 26), (7, d.toNat), (7, a.toNat), (7, b.toNat), (3, 3)]) :
    decode32 y = accept (.badd2 b a d s) := by
  have ok : partsOk [(1, 1), (1, s.toNat), (6, 26), (7, d.toNat), (7, a.toNat), (7, b.toNat), (3, 3)] := ⟨by decide, s.isLt, by decide, d.isLt, a.isLt, b.isLt, by decide, trivial⟩
  have e0 : bits y 22 7 = b := bits_of (part_at hy ok 5 rfl rfl)
  have e1 : bits y 15 7 = a := bits_of (part_at hy ok 4 rfl rfl)
  have e2 : bits y 8 7 = d := bits_of (part_at hy ok 3 rfl rfl)
  have e3 : bits y 1 1 = s := bits_of (part_at hy ok 1 rfl rfl)
  have f0 : field y 29 3 = 3 := part_in hy ok 6 0 rfl rfl rfl (by decide)
  have f1 : field y 29 3 = 3 := part_in hy ok 6 0 rfl rfl rfl (by decide)
  have f2 : field y 29 3 = 3 := part_in hy ok 6 0 rfl rfl rfl (by decide)
  have f3 : field y 29 3 = 3 := part_in hy ok 6 0 rfl rfl rfl (by decide)
  rw [row_Maj1A (part_in hy ok 2 0 rfl rfl rfl (by decide))]
  simp only [ofRow, rowMaj1A, pickRow, fixedIs, e0, e1, e2, e3, f0, f1, f2, f3, Nat.reduceBEq, beq_self_eq_true, Bool.and_true, Bool.and_false, Bool.false_and, Bool.true_and, Bool.false_eq_true, if_true, if_false]

theorem word_bmul2 (b : BitVec 7) (a : BitVec 7) (d : BitVec 7) (s : BitVec 1) (y : Nat) (hy : y = partsNat [(1, 1), (1, s.toNat), (6, 26), (7, d.toNat), (7, a.toNat), (7, b.toNat), (3, 4)]) :
    decode32 y = accept (.bmul2 b a d s) := by
  have ok : partsOk [(1, 1), (1, s.toNat), (6, 26), (7, d.toNat), (7, a.toNat), (7, b.toNat), (3, 4)] := ⟨by decide, s.isLt, by decide, d.isLt, a.isLt, b.isLt, by decide, trivial⟩
  have e0 : bits y 22 7 = b := bits_of (part_at hy ok 5 rfl rfl)
  have e1 : bits y 15 7 = a := bits_of (part_at hy ok 4 rfl rfl)
  have e2 : bits y 8 7 = d := bits_of (part_at hy ok 3 rfl rfl)
  have e3 : bits y 1 1 = s := bits_of (part_at hy ok 1 rfl rfl)
  have f0 : field y 29 3 = 4 := part_in hy ok 6 0 rfl rfl rfl (by decide)
  have f1 : field y 29 3 = 4 := part_in hy ok 6 0 rfl rfl rfl (by decide)
  have f2 : field y 29 3 = 4 := part_in hy ok 6 0 rfl rfl rfl (by decide)
  have f3 : field y 29 3 = 4 := part_in hy ok 6 0 rfl rfl rfl (by decide)
  have f4 : field y 29 3 = 4 := part_in hy ok 6 0 rfl rfl rfl (by decide)
  rw [row_Maj1A (part_in hy ok 2 0 rfl rfl rfl (by decide))]
  simp only [ofRow, rowMaj1A, pickRow, fixedIs, e0, e1, e2, e3, f0, f1, f2, f3, f4, Nat.reduceBEq, beq_self_eq_true, Bool.and_true, Bool.and_false, Bool.false_and, Bool.true_and, Bool.false_eq_true, if_true, if_false]

theorem word_bfma2 (b : BitVec 7) (a : BitVec 7) (d : BitVec 7) (s : BitVec 1) (y : Nat) (hy : y = partsNat [(1, 1), (1, s.toNat), (6, 26), (7, d.toNat), (7, a.toNat), (7, b.toNat), (3, 5)]) :
    decode32 y = accept (.bfma2 b a d s) := by
  have ok : partsOk [(1, 1), (1, s.toNat), (6, 26), (7, d.toNat), (7, a.toNat), (7, b.toNat), (3, 5)] := ⟨by decide, s.isLt, by decide, d.isLt, a.isLt, b.isLt, by decide, trivial⟩
  have e0 : bits y 22 7 = b := bits_of (part_at hy ok 5 rfl rfl)
  have e1 : bits y 15 7 = a := bits_of (part_at hy ok 4 rfl rfl)
  have e2 : bits y 8 7 = d := bits_of (part_at hy ok 3 rfl rfl)
  have e3 : bits y 1 1 = s := bits_of (part_at hy ok 1 rfl rfl)
  have f0 : field y 29 3 = 5 := part_in hy ok 6 0 rfl rfl rfl (by decide)
  have f1 : field y 29 3 = 5 := part_in hy ok 6 0 rfl rfl rfl (by decide)
  have f2 : field y 29 3 = 5 := part_in hy ok 6 0 rfl rfl rfl (by decide)
  have f3 : field y 29 3 = 5 := part_in hy ok 6 0 rfl rfl rfl (by decide)
  have f4 : field y 29 3 = 5 := part_in hy ok 6 0 rfl rfl rfl (by decide)
  have f5 : field y 29 3 = 5 := part_in hy ok 6 0 rfl rfl rfl (by decide)
  rw [row_Maj1A (part_in hy ok 2 0 rfl rfl rfl (by decide))]
  simp only [ofRow, rowMaj1A, pickRow, fixedIs, e0, e1, e2, e3, f0, f1, f2, f3, f4, f5, Nat.reduceBEq, beq_self_eq_true, Bool.and_true, Bool.and_false, Bool.false_and, Bool.true_and, Bool.false_eq_true, if_true, if_false]

theorem word_cvt (t : BitVec 4) (u : BitVec 4) (o : BitVec 2) (a : BitVec 7) (d : BitVec 7) (s : BitVec 1) (y : Nat) (hy : y = partsNat [(1, 1), (1, s.toNat), (6, 27), (7, d.toNat), (7, a.toNat), (2, o.toNat), (4, u.toNat), (4, t.toNat)]) :
    decode32 y = accept (.cvt t u o a d s) := by
  have ok : partsOk [(1, 1), (1, s.toNat), (6, 27), (7, d.toNat), (7, a.toNat), (2, o.toNat), (4, u.toNat), (4, t.toNat)] := ⟨by decide, s.isLt, by decide, d.isLt, a.isLt, o.isLt, u.isLt, t.isLt, trivial⟩
  have e0 : bits y 28 4 = t := bits_of (part_at hy ok 7 rfl rfl)
  have e1 : bits y 24 4 = u := bits_of (part_at hy ok 6 rfl rfl)
  have e2 : bits y 22 2 = o := bits_of (part_at hy ok 5 rfl rfl)
  have e3 : bits y 15 7 = a := bits_of (part_at hy ok 4 rfl rfl)
  have e4 : bits y 8 7 = d := bits_of (part_at hy ok 3 rfl rfl)
  have e5 : bits y 1 1 = s := bits_of (part_at hy ok 1 rfl rfl)
  rw [row_Maj1B (part_in hy ok 2 0 rfl rfl rfl (by decide))]
  simp only [ofRow, rowMaj1B, pickRow, fixedIs, e0, e1, e2, e3, e4, e5, Nat.reduceBEq, beq_self_eq_true, Bool.and_true, Bool.and_false, Bool.false_and, Bool.true_and, Bool.false_eq_true, if_true, if_false]

theorem word_exp2 (a : BitVec 7) (d : BitVec 7) (s : BitVec 1) (y : Nat) (hy : y = partsNat [(1, 1), (1, s.toNat), (6, 28), (7, d.toNat), (7, a.toNat), (10, 0)]) :
    decode32 y = accept (.exp2 a d s) := by
  have ok : partsOk [(1, 1), (1, s.toNat), (6, 28), (7, d.toNat), (7, a.toNat), (10, 0)] := ⟨by decide, s.isLt, by decide, d.isLt, a.isLt, by decide, trivial⟩
  have e0 : bits y 15 7 = a := bits_of (part_at hy ok 4 rfl rfl)
  have e1 : bits y 8 7 = d := bits_of (part_at hy ok 3 rfl rfl)
  have e2 : bits y 1 1 = s := bits_of (part_at hy ok 1 rfl rfl)
  have f0 : field y 22 10 = 0 := part_in hy ok 5 0 rfl rfl rfl (by decide)
  rw [row_Maj1C (part_in hy ok 2 0 rfl rfl rfl (by decide))]
  simp only [ofRow, rowMaj1C, pickRow, fixedIs, e0, e1, e2, f0, Nat.reduceBEq, beq_self_eq_true, Bool.and_true, Bool.and_false, Bool.false_and, Bool.true_and, Bool.false_eq_true, if_true, if_false]

theorem word_log2 (a : BitVec 7) (d : BitVec 7) (s : BitVec 1) (y : Nat) (hy : y = partsNat [(1, 1), (1, s.toNat), (6, 28), (7, d.toNat), (7, a.toNat), (10, 128)]) :
    decode32 y = accept (.log2 a d s) := by
  have ok : partsOk [(1, 1), (1, s.toNat), (6, 28), (7, d.toNat), (7, a.toNat), (10, 128)] := ⟨by decide, s.isLt, by decide, d.isLt, a.isLt, by decide, trivial⟩
  have e0 : bits y 15 7 = a := bits_of (part_at hy ok 4 rfl rfl)
  have e1 : bits y 8 7 = d := bits_of (part_at hy ok 3 rfl rfl)
  have e2 : bits y 1 1 = s := bits_of (part_at hy ok 1 rfl rfl)
  have f0 : field y 22 10 = 128 := part_in hy ok 5 0 rfl rfl rfl (by decide)
  have f1 : field y 22 10 = 128 := part_in hy ok 5 0 rfl rfl rfl (by decide)
  rw [row_Maj1C (part_in hy ok 2 0 rfl rfl rfl (by decide))]
  simp only [ofRow, rowMaj1C, pickRow, fixedIs, e0, e1, e2, f0, f1, Nat.reduceBEq, beq_self_eq_true, Bool.and_true, Bool.and_false, Bool.false_and, Bool.true_and, Bool.false_eq_true, if_true, if_false]

theorem word_rcp (a : BitVec 7) (d : BitVec 7) (s : BitVec 1) (y : Nat) (hy : y = partsNat [(1, 1), (1, s.toNat), (6, 28), (7, d.toNat), (7, a.toNat), (10, 256)]) :
    decode32 y = accept (.rcp a d s) := by
  have ok : partsOk [(1, 1), (1, s.toNat), (6, 28), (7, d.toNat), (7, a.toNat), (10, 256)] := ⟨by decide, s.isLt, by decide, d.isLt, a.isLt, by decide, trivial⟩
  have e0 : bits y 15 7 = a := bits_of (part_at hy ok 4 rfl rfl)
  have e1 : bits y 8 7 = d := bits_of (part_at hy ok 3 rfl rfl)
  have e2 : bits y 1 1 = s := bits_of (part_at hy ok 1 rfl rfl)
  have f0 : field y 22 10 = 256 := part_in hy ok 5 0 rfl rfl rfl (by decide)
  have f1 : field y 22 10 = 256 := part_in hy ok 5 0 rfl rfl rfl (by decide)
  have f2 : field y 22 10 = 256 := part_in hy ok 5 0 rfl rfl rfl (by decide)
  rw [row_Maj1C (part_in hy ok 2 0 rfl rfl rfl (by decide))]
  simp only [ofRow, rowMaj1C, pickRow, fixedIs, e0, e1, e2, f0, f1, f2, Nat.reduceBEq, beq_self_eq_true, Bool.and_true, Bool.and_false, Bool.false_and, Bool.true_and, Bool.false_eq_true, if_true, if_false]

theorem word_rsqrt (a : BitVec 7) (d : BitVec 7) (s : BitVec 1) (y : Nat) (hy : y = partsNat [(1, 1), (1, s.toNat), (6, 28), (7, d.toNat), (7, a.toNat), (10, 384)]) :
    decode32 y = accept (.rsqrt a d s) := by
  have ok : partsOk [(1, 1), (1, s.toNat), (6, 28), (7, d.toNat), (7, a.toNat), (10, 384)] := ⟨by decide, s.isLt, by decide, d.isLt, a.isLt, by decide, trivial⟩
  have e0 : bits y 15 7 = a := bits_of (part_at hy ok 4 rfl rfl)
  have e1 : bits y 8 7 = d := bits_of (part_at hy ok 3 rfl rfl)
  have e2 : bits y 1 1 = s := bits_of (part_at hy ok 1 rfl rfl)
  have f0 : field y 22 10 = 384 := part_in hy ok 5 0 rfl rfl rfl (by decide)
  have f1 : field y 22 10 = 384 := part_in hy ok 5 0 rfl rfl rfl (by decide)
  have f2 : field y 22 10 = 384 := part_in hy ok 5 0 rfl rfl rfl (by decide)
  have f3 : field y 22 10 = 384 := part_in hy ok 5 0 rfl rfl rfl (by decide)
  rw [row_Maj1C (part_in hy ok 2 0 rfl rfl rfl (by decide))]
  simp only [ofRow, rowMaj1C, pickRow, fixedIs, e0, e1, e2, f0, f1, f2, f3, Nat.reduceBEq, beq_self_eq_true, Bool.and_true, Bool.and_false, Bool.false_and, Bool.true_and, Bool.false_eq_true, if_true, if_false]

theorem word_sqrt (a : BitVec 7) (d : BitVec 7) (s : BitVec 1) (y : Nat) (hy : y = partsNat [(1, 1), (1, s.toNat), (6, 28), (7, d.toNat), (7, a.toNat), (10, 512)]) :
    decode32 y = accept (.sqrt a d s) := by
  have ok : partsOk [(1, 1), (1, s.toNat), (6, 28), (7, d.toNat), (7, a.toNat), (10, 512)] := ⟨by decide, s.isLt, by decide, d.isLt, a.isLt, by decide, trivial⟩
  have e0 : bits y 15 7 = a := bits_of (part_at hy ok 4 rfl rfl)
  have e1 : bits y 8 7 = d := bits_of (part_at hy ok 3 rfl rfl)
  have e2 : bits y 1 1 = s := bits_of (part_at hy ok 1 rfl rfl)
  have f0 : field y 22 10 = 512 := part_in hy ok 5 0 rfl rfl rfl (by decide)
  have f1 : field y 22 10 = 512 := part_in hy ok 5 0 rfl rfl rfl (by decide)
  have f2 : field y 22 10 = 512 := part_in hy ok 5 0 rfl rfl rfl (by decide)
  have f3 : field y 22 10 = 512 := part_in hy ok 5 0 rfl rfl rfl (by decide)
  have f4 : field y 22 10 = 512 := part_in hy ok 5 0 rfl rfl rfl (by decide)
  rw [row_Maj1C (part_in hy ok 2 0 rfl rfl rfl (by decide))]
  simp only [ofRow, rowMaj1C, pickRow, fixedIs, e0, e1, e2, f0, f1, f2, f3, f4, Nat.reduceBEq, beq_self_eq_true, Bool.and_true, Bool.and_false, Bool.false_and, Bool.true_and, Bool.false_eq_true, if_true, if_false]

theorem word_tanh (a : BitVec 7) (d : BitVec 7) (s : BitVec 1) (y : Nat) (hy : y = partsNat [(1, 1), (1, s.toNat), (6, 28), (7, d.toNat), (7, a.toNat), (10, 640)]) :
    decode32 y = accept (.tanh a d s) := by
  have ok : partsOk [(1, 1), (1, s.toNat), (6, 28), (7, d.toNat), (7, a.toNat), (10, 640)] := ⟨by decide, s.isLt, by decide, d.isLt, a.isLt, by decide, trivial⟩
  have e0 : bits y 15 7 = a := bits_of (part_at hy ok 4 rfl rfl)
  have e1 : bits y 8 7 = d := bits_of (part_at hy ok 3 rfl rfl)
  have e2 : bits y 1 1 = s := bits_of (part_at hy ok 1 rfl rfl)
  have f0 : field y 22 10 = 640 := part_in hy ok 5 0 rfl rfl rfl (by decide)
  have f1 : field y 22 10 = 640 := part_in hy ok 5 0 rfl rfl rfl (by decide)
  have f2 : field y 22 10 = 640 := part_in hy ok 5 0 rfl rfl rfl (by decide)
  have f3 : field y 22 10 = 640 := part_in hy ok 5 0 rfl rfl rfl (by decide)
  have f4 : field y 22 10 = 640 := part_in hy ok 5 0 rfl rfl rfl (by decide)
  have f5 : field y 22 10 = 640 := part_in hy ok 5 0 rfl rfl rfl (by decide)
  rw [row_Maj1C (part_in hy ok 2 0 rfl rfl rfl (by decide))]
  simp only [ofRow, rowMaj1C, pickRow, fixedIs, e0, e1, e2, f0, f1, f2, f3, f4, f5, Nat.reduceBEq, beq_self_eq_true, Bool.and_true, Bool.and_false, Bool.false_and, Bool.true_and, Bool.false_eq_true, if_true, if_false]

theorem word_lgs (a : BitVec 7) (d : BitVec 7) (s : BitVec 1) (y : Nat) (hy : y = partsNat [(1, 1), (1, s.toNat), (6, 28), (7, d.toNat), (7, a.toNat), (10, 768)]) :
    decode32 y = accept (.lgs a d s) := by
  have ok : partsOk [(1, 1), (1, s.toNat), (6, 28), (7, d.toNat), (7, a.toNat), (10, 768)] := ⟨by decide, s.isLt, by decide, d.isLt, a.isLt, by decide, trivial⟩
  have e0 : bits y 15 7 = a := bits_of (part_at hy ok 4 rfl rfl)
  have e1 : bits y 8 7 = d := bits_of (part_at hy ok 3 rfl rfl)
  have e2 : bits y 1 1 = s := bits_of (part_at hy ok 1 rfl rfl)
  have f0 : field y 22 10 = 768 := part_in hy ok 5 0 rfl rfl rfl (by decide)
  have f1 : field y 22 10 = 768 := part_in hy ok 5 0 rfl rfl rfl (by decide)
  have f2 : field y 22 10 = 768 := part_in hy ok 5 0 rfl rfl rfl (by decide)
  have f3 : field y 22 10 = 768 := part_in hy ok 5 0 rfl rfl rfl (by decide)
  have f4 : field y 22 10 = 768 := part_in hy ok 5 0 rfl rfl rfl (by decide)
  have f5 : field y 22 10 = 768 := part_in hy ok 5 0 rfl rfl rfl (by decide)
  have f6 : field y 22 10 = 768 := part_in hy ok 5 0 rfl rfl rfl (by decide)
  rw [row_Maj1C (part_in hy ok 2 0 rfl rfl rfl (by decide))]
  simp only [ofRow, rowMaj1C, pickRow, fixedIs, e0, e1, e2, f0, f1, f2, f3, f4, f5, f6, Nat.reduceBEq, beq_self_eq_true, Bool.and_true, Bool.and_false, Bool.false_and, Bool.true_and, Bool.false_eq_true, if_true, if_false]

theorem word_gactLgs (b : BitVec 7) (a : BitVec 7) (d : BitVec 7) (s : BitVec 1) (y : Nat) (hy : y = partsNat [(1, 1), (1, s.toNat), (6, 29), (7, d.toNat), (7, a.toNat), (7, b.toNat), (3, 0)]) :
    decode32 y = accept (.gactLgs b a d s) := by
  have ok : partsOk [(1, 1), (1, s.toNat), (6, 29), (7, d.toNat), (7, a.toNat), (7, b.toNat), (3, 0)] := ⟨by decide, s.isLt, by decide, d.isLt, a.isLt, b.isLt, by decide, trivial⟩
  have e0 : bits y 22 7 = b := bits_of (part_at hy ok 5 rfl rfl)
  have e1 : bits y 15 7 = a := bits_of (part_at hy ok 4 rfl rfl)
  have e2 : bits y 8 7 = d := bits_of (part_at hy ok 3 rfl rfl)
  have e3 : bits y 1 1 = s := bits_of (part_at hy ok 1 rfl rfl)
  have f0 : field y 29 3 = 0 := part_in hy ok 6 0 rfl rfl rfl (by decide)
  rw [row_Maj1D (part_in hy ok 2 0 rfl rfl rfl (by decide))]
  simp only [ofRow, rowMaj1D, pickRow, fixedIs, e0, e1, e2, e3, f0, Nat.reduceBEq, beq_self_eq_true, Bool.and_true, Bool.and_false, Bool.false_and, Bool.true_and, Bool.false_eq_true, if_true, if_false]

theorem word_gactTanh (b : BitVec 7) (a : BitVec 7) (d : BitVec 7) (s : BitVec 1) (y : Nat) (hy : y = partsNat [(1, 1), (1, s.toNat), (6, 29), (7, d.toNat), (7, a.toNat), (7, b.toNat), (3, 1)]) :
    decode32 y = accept (.gactTanh b a d s) := by
  have ok : partsOk [(1, 1), (1, s.toNat), (6, 29), (7, d.toNat), (7, a.toNat), (7, b.toNat), (3, 1)] := ⟨by decide, s.isLt, by decide, d.isLt, a.isLt, b.isLt, by decide, trivial⟩
  have e0 : bits y 22 7 = b := bits_of (part_at hy ok 5 rfl rfl)
  have e1 : bits y 15 7 = a := bits_of (part_at hy ok 4 rfl rfl)
  have e2 : bits y 8 7 = d := bits_of (part_at hy ok 3 rfl rfl)
  have e3 : bits y 1 1 = s := bits_of (part_at hy ok 1 rfl rfl)
  have f0 : field y 29 3 = 1 := part_in hy ok 6 0 rfl rfl rfl (by decide)
  have f1 : field y 29 3 = 1 := part_in hy ok 6 0 rfl rfl rfl (by decide)
  rw [row_Maj1D (part_in hy ok 2 0 rfl rfl rfl (by decide))]
  simp only [ofRow, rowMaj1D, pickRow, fixedIs, e0, e1, e2, e3, f0, f1, Nat.reduceBEq, beq_self_eq_true, Bool.and_true, Bool.and_false, Bool.false_and, Bool.true_and, Bool.false_eq_true, if_true, if_false]

theorem word_gactAlgs (b : BitVec 7) (a : BitVec 7) (d : BitVec 7) (s : BitVec 1) (y : Nat) (hy : y = partsNat [(1, 1), (1, s.toNat), (6, 29), (7, d.toNat), (7, a.toNat), (7, b.toNat), (3, 2)]) :
    decode32 y = accept (.gactAlgs b a d s) := by
  have ok : partsOk [(1, 1), (1, s.toNat), (6, 29), (7, d.toNat), (7, a.toNat), (7, b.toNat), (3, 2)] := ⟨by decide, s.isLt, by decide, d.isLt, a.isLt, b.isLt, by decide, trivial⟩
  have e0 : bits y 22 7 = b := bits_of (part_at hy ok 5 rfl rfl)
  have e1 : bits y 15 7 = a := bits_of (part_at hy ok 4 rfl rfl)
  have e2 : bits y 8 7 = d := bits_of (part_at hy ok 3 rfl rfl)
  have e3 : bits y 1 1 = s := bits_of (part_at hy ok 1 rfl rfl)
  have f0 : field y 29 3 = 2 := part_in hy ok 6 0 rfl rfl rfl (by decide)
  have f1 : field y 29 3 = 2 := part_in hy ok 6 0 rfl rfl rfl (by decide)
  have f2 : field y 29 3 = 2 := part_in hy ok 6 0 rfl rfl rfl (by decide)
  rw [row_Maj1D (part_in hy ok 2 0 rfl rfl rfl (by decide))]
  simp only [ofRow, rowMaj1D, pickRow, fixedIs, e0, e1, e2, e3, f0, f1, f2, Nat.reduceBEq, beq_self_eq_true, Bool.and_true, Bool.and_false, Bool.false_and, Bool.true_and, Bool.false_eq_true, if_true, if_false]

theorem word_frnd (r : BitVec 7) (a : BitVec 7) (d : BitVec 7) (s : BitVec 1) (y : Nat) (hy : y = partsNat [(1, 1), (1, s.toNat), (6, 30), (7, d.toNat), (7, a.toNat), (7, r.toNat), (3, 0)]) :
    decode32 y = accept (.frnd r a d s) := by
  have ok : partsOk [(1, 1), (1, s.toNat), (6, 30), (7, d.toNat), (7, a.toNat), (7, r.toNat), (3, 0)] := ⟨by decide, s.isLt, by decide, d.isLt, a.isLt, r.isLt, by decide, trivial⟩
  have e0 : bits y 22 7 = r := bits_of (part_at hy ok 5 rfl rfl)
  have e1 : bits y 15 7 = a := bits_of (part_at hy ok 4 rfl rfl)
  have e2 : bits y 8 7 = d := bits_of (part_at hy ok 3 rfl rfl)
  have e3 : bits y 1 1 = s := bits_of (part_at hy ok 1 rfl rfl)
  have f0 : field y 29 3 = 0 := part_in hy ok 6 0 rfl rfl rfl (by decide)
  rw [row_Maj1E (part_in hy ok 2 0 rfl rfl rfl (by decide))]
  simp only [ofRow, rowMaj1E, pickRow, fixedIs, e0, e1, e2, e3, f0, Nat.reduceBEq, beq_self_eq_true, Bool.and_true, Bool.and_false, Bool.false_and, Bool.true_and, Bool.false_eq_true, if_true, if_false]

theorem word_fcls (a : BitVec 7) (d : BitVec 7) (s : BitVec 1) (y : Nat) (hy : y = partsNat [(1, 1), (1, s.toNat), (6, 30), (7, d.toNat), (7, a.toNat), (10, 128)]) :
    decode32 y = accept (.fcls a d s) := by
  have ok : partsOk [(1, 1), (1, s.toNat), (6, 30), (7, d.toNat), (7, a.toNat), (10, 128)] := ⟨by decide, s.isLt, by decide, d.isLt, a.isLt, by decide, trivial⟩
  have e0 : bits y 15 7 = a := bits_of (part_at hy ok 4 rfl rfl)
  have e1 : bits y 8 7 = d := bits_of (part_at hy ok 3 rfl rfl)
  have e2 : bits y 1 1 = s := bits_of (part_at hy ok 1 rfl rfl)
  have f0 : field y 29 3 = 1 := part_in hy ok 5 7 rfl rfl rfl (by decide)
  have f1 : field y 22 10 = 128 := part_in hy ok 5 0 rfl rfl rfl (by decide)
  rw [row_Maj1E (part_in hy ok 2 0 rfl rfl rfl (by decide))]
  simp only [ofRow, rowMaj1E, pickRow, fixedIs, e0, e1, e2, f0, f1, Nat.reduceBEq, beq_self_eq_true, Bool.and_true, Bool.and_false, Bool.false_and, Bool.true_and, Bool.false_eq_true, if_true, if_false]

theorem word_fexp (a : BitVec 7) (d : BitVec 7) (s : BitVec 1) (y : Nat) (hy : y = partsNat [(1, 1), (1, s.toNat), (6, 30), (7, d.toNat), (7, a.toNat), (10, 256)]) :
    decode32 y = accept (.fexp a d s) := by
  have ok : partsOk [(1, 1), (1, s.toNat), (6, 30), (7, d.toNat), (7, a.toNat), (10, 256)] := ⟨by decide, s.isLt, by decide, d.isLt, a.isLt, by decide, trivial⟩
  have e0 : bits y 15 7 = a := bits_of (part_at hy ok 4 rfl rfl)
  have e1 : bits y 8 7 = d := bits_of (part_at hy ok 3 rfl rfl)
  have e2 : bits y 1 1 = s := bits_of (part_at hy ok 1 rfl rfl)
  have f0 : field y 29 3 = 2 := part_in hy ok 5 7 rfl rfl rfl (by decide)
  have f1 : field y 22 10 = 256 := part_in hy ok 5 0 rfl rfl rfl (by decide)
  have f2 : field y 22 10 = 256 := part_in hy ok 5 0 rfl rfl rfl (by decide)
  rw [row_Maj1E (part_in hy ok 2 0 rfl rfl rfl (by decide))]
  simp only [ofRow, rowMaj1E, pickRow, fixedIs, e0, e1, e2, f0, f1, f2, Nat.reduceBEq, beq_self_eq_true, Bool.and_true, Bool.and_false, Bool.false_and, Bool.true_and, Bool.false_eq_true, if_true, if_false]

theorem word_fscl (b : BitVec 7) (a : BitVec 7) (d : BitVec 7) (s : BitVec 1) (y : Nat) (hy : y = partsNat [(1, 1), (1, s.toNat), (6, 30), (7, d.toNat), (7, a.toNat), (7, b.toNat), (3, 3)]) :
    decode32 y = accept (.fscl b a d s) := by
  have ok : partsOk [(1, 1), (1, s.toNat), (6, 30), (7, d.toNat), (7, a.toNat), (7, b.toNat), (3, 3)] := ⟨by decide, s.isLt, by decide, d.isLt, a.isLt, b.isLt, by decide, trivial⟩
  have e0 : bits y 22 7 = b := bits_of (part_at hy ok 5 rfl rfl)
  have e1 : bits y 15 7 = a := bits_of (part_at hy ok 4 rfl rfl)
  have e2 : bits y 8 7 = d := bits_of (part_at hy ok 3 rfl rfl)
  have e3 : bits y 1 1 = s := bits_of (part_at hy ok 1 rfl rfl)
  have f0 : field y 29 3 = 3 := part_in hy ok 6 0 rfl rfl rfl (by decide)
  have f1 : (field y 22 10 == 128) = false :=
    part_not (part_in hy ok 6 0 rfl rfl rfl (by decide) : field y 29 3 = 3) 7 rfl (by decide) (by decide)
  have f2 : (field y 22 10 == 256) = false :=
    part_not (part_in hy ok 6 0 rfl rfl rfl (by decide) : field y 29 3 = 3) 7 rfl (by decide) (by decide)
  have f3 : field y 29 3 = 3 := part_in hy ok 6 0 rfl rfl rfl (by decide)
  rw [row_Maj1E (part_in hy ok 2 0 rfl rfl rfl (by decide))]
  simp only [ofRow, rowMaj1E, pickRow, fixedIs, e0, e1, e2, e3, f0, f1, f2, f3, Nat.reduceBEq, beq_self_eq_true, Bool.and_true, Bool.and_false, Bool.false_and, Bool.true_and, Bool.false_eq_true, if_true, if_false]

theorem word_shflIdx (b : BitVec 7) (a : BitVec 7) (d : BitVec 7) (s : BitVec 1) (y : Nat) (hy : y = partsNat [(1, 1), (1, s.toNat), (6, 32), (7, d.toNat), (7, a.toNat), (7, b.toNat), (3, 0)]) :
    decode32 y = accept (.shflIdx b a d s) := by
  have ok : partsOk [(1, 1), (1, s.toNat), (6, 32), (7, d.toNat), (7, a.toNat), (7, b.toNat), (3, 0)] := ⟨by decide, s.isLt, by decide, d.isLt, a.isLt, b.isLt, by decide, trivial⟩
  have e0 : bits y 22 7 = b := bits_of (part_at hy ok 5 rfl rfl)
  have e1 : bits y 15 7 = a := bits_of (part_at hy ok 4 rfl rfl)
  have e2 : bits y 8 7 = d := bits_of (part_at hy ok 3 rfl rfl)
  have e3 : bits y 1 1 = s := bits_of (part_at hy ok 1 rfl rfl)
  have f0 : field y 29 3 = 0 := part_in hy ok 6 0 rfl rfl rfl (by decide)
  rw [row_Maj20 (part_in hy ok 2 0 rfl rfl rfl (by decide))]
  simp only [ofRow, rowMaj20, pickRow, fixedIs, e0, e1, e2, e3, f0, Nat.reduceBEq, beq_self_eq_true, Bool.and_true, Bool.and_false, Bool.false_and, Bool.true_and, Bool.false_eq_true, if_true, if_false]

theorem word_shflUp (b : BitVec 7) (a : BitVec 7) (d : BitVec 7) (s : BitVec 1) (y : Nat) (hy : y = partsNat [(1, 1), (1, s.toNat), (6, 32), (7, d.toNat), (7, a.toNat), (7, b.toNat), (3, 1)]) :
    decode32 y = accept (.shflUp b a d s) := by
  have ok : partsOk [(1, 1), (1, s.toNat), (6, 32), (7, d.toNat), (7, a.toNat), (7, b.toNat), (3, 1)] := ⟨by decide, s.isLt, by decide, d.isLt, a.isLt, b.isLt, by decide, trivial⟩
  have e0 : bits y 22 7 = b := bits_of (part_at hy ok 5 rfl rfl)
  have e1 : bits y 15 7 = a := bits_of (part_at hy ok 4 rfl rfl)
  have e2 : bits y 8 7 = d := bits_of (part_at hy ok 3 rfl rfl)
  have e3 : bits y 1 1 = s := bits_of (part_at hy ok 1 rfl rfl)
  have f0 : field y 29 3 = 1 := part_in hy ok 6 0 rfl rfl rfl (by decide)
  have f1 : field y 29 3 = 1 := part_in hy ok 6 0 rfl rfl rfl (by decide)
  rw [row_Maj20 (part_in hy ok 2 0 rfl rfl rfl (by decide))]
  simp only [ofRow, rowMaj20, pickRow, fixedIs, e0, e1, e2, e3, f0, f1, Nat.reduceBEq, beq_self_eq_true, Bool.and_true, Bool.and_false, Bool.false_and, Bool.true_and, Bool.false_eq_true, if_true, if_false]

theorem word_shflDown (b : BitVec 7) (a : BitVec 7) (d : BitVec 7) (s : BitVec 1) (y : Nat) (hy : y = partsNat [(1, 1), (1, s.toNat), (6, 32), (7, d.toNat), (7, a.toNat), (7, b.toNat), (3, 2)]) :
    decode32 y = accept (.shflDown b a d s) := by
  have ok : partsOk [(1, 1), (1, s.toNat), (6, 32), (7, d.toNat), (7, a.toNat), (7, b.toNat), (3, 2)] := ⟨by decide, s.isLt, by decide, d.isLt, a.isLt, b.isLt, by decide, trivial⟩
  have e0 : bits y 22 7 = b := bits_of (part_at hy ok 5 rfl rfl)
  have e1 : bits y 15 7 = a := bits_of (part_at hy ok 4 rfl rfl)
  have e2 : bits y 8 7 = d := bits_of (part_at hy ok 3 rfl rfl)
  have e3 : bits y 1 1 = s := bits_of (part_at hy ok 1 rfl rfl)
  have f0 : field y 29 3 = 2 := part_in hy ok 6 0 rfl rfl rfl (by decide)
  have f1 : field y 29 3 = 2 := part_in hy ok 6 0 rfl rfl rfl (by decide)
  have f2 : field y 29 3 = 2 := part_in hy ok 6 0 rfl rfl rfl (by decide)
  rw [row_Maj20 (part_in hy ok 2 0 rfl rfl rfl (by decide))]
  simp only [ofRow, rowMaj20, pickRow, fixedIs, e0, e1, e2, e3, f0, f1, f2, Nat.reduceBEq, beq_self_eq_true, Bool.and_true, Bool.and_false, Bool.false_and, Bool.true_and, Bool.false_eq_true, if_true, if_false]

theorem word_shflXor (b : BitVec 7) (a : BitVec 7) (d : BitVec 7) (s : BitVec 1) (y : Nat) (hy : y = partsNat [(1, 1), (1, s.toNat), (6, 32), (7, d.toNat), (7, a.toNat), (7, b.toNat), (3, 3)]) :
    decode32 y = accept (.shflXor b a d s) := by
  have ok : partsOk [(1, 1), (1, s.toNat), (6, 32), (7, d.toNat), (7, a.toNat), (7, b.toNat), (3, 3)] := ⟨by decide, s.isLt, by decide, d.isLt, a.isLt, b.isLt, by decide, trivial⟩
  have e0 : bits y 22 7 = b := bits_of (part_at hy ok 5 rfl rfl)
  have e1 : bits y 15 7 = a := bits_of (part_at hy ok 4 rfl rfl)
  have e2 : bits y 8 7 = d := bits_of (part_at hy ok 3 rfl rfl)
  have e3 : bits y 1 1 = s := bits_of (part_at hy ok 1 rfl rfl)
  have f0 : field y 29 3 = 3 := part_in hy ok 6 0 rfl rfl rfl (by decide)
  have f1 : field y 29 3 = 3 := part_in hy ok 6 0 rfl rfl rfl (by decide)
  have f2 : field y 29 3 = 3 := part_in hy ok 6 0 rfl rfl rfl (by decide)
  have f3 : field y 29 3 = 3 := part_in hy ok 6 0 rfl rfl rfl (by decide)
  rw [row_Maj20 (part_in hy ok 2 0 rfl rfl rfl (by decide))]
  simp only [ofRow, rowMaj20, pickRow, fixedIs, e0, e1, e2, e3, f0, f1, f2, f3, Nat.reduceBEq, beq_self_eq_true, Bool.and_true, Bool.and_false, Bool.false_and, Bool.true_and, Bool.false_eq_true, if_true, if_false]

theorem word_voteAny (p : BitVec 3) (d : BitVec 7) (s : BitVec 1) (y : Nat) (hy : y = partsNat [(1, 1), (1, s.toNat), (6, 33), (7, d.toNat), (3, p.toNat), (14, 0)]) :
    decode32 y = accept (.voteAny p d s) := by
  have ok : partsOk [(1, 1), (1, s.toNat), (6, 33), (7, d.toNat), (3, p.toNat), (14, 0)] := ⟨by decide, s.isLt, by decide, d.isLt, p.isLt, by decide, trivial⟩
  have e0 : bits y 15 3 = p := bits_of (part_at hy ok 4 rfl rfl)
  have e1 : bits y 8 7 = d := bits_of (part_at hy ok 3 rfl rfl)
  have e2 : bits y 1 1 = s := bits_of (part_at hy ok 1 rfl rfl)
  have f0 : field y 18 14 = 0 := part_in hy ok 5 0 rfl rfl rfl (by decide)
  rw [row_Maj21 (part_in hy ok 2 0 rfl rfl rfl (by decide))]
  simp only [ofRow, rowMaj21, pickRow, fixedIs, e0, e1, e2, f0, Nat.reduceBEq, beq_self_eq_true, Bool.and_true, Bool.and_false, Bool.false_and, Bool.true_and, Bool.false_eq_true, if_true, if_false]

theorem word_voteAll (p : BitVec 3) (d : BitVec 7) (s : BitVec 1) (y : Nat) (hy : y = partsNat [(1, 1), (1, s.toNat), (6, 33), (7, d.toNat), (3, p.toNat), (14, 2048)]) :
    decode32 y = accept (.voteAll p d s) := by
  have ok : partsOk [(1, 1), (1, s.toNat), (6, 33), (7, d.toNat), (3, p.toNat), (14, 2048)] := ⟨by decide, s.isLt, by decide, d.isLt, p.isLt, by decide, trivial⟩
  have e0 : bits y 15 3 = p := bits_of (part_at hy ok 4 rfl rfl)
  have e1 : bits y 8 7 = d := bits_of (part_at hy ok 3 rfl rfl)
  have e2 : bits y 1 1 = s := bits_of (part_at hy ok 1 rfl rfl)
  have f0 : field y 18 14 = 2048 := part_in hy ok 5 0 rfl rfl rfl (by decide)
  have f1 : field y 18 14 = 2048 := part_in hy ok 5 0 rfl rfl rfl (by decide)
  rw [row_Maj21 (part_in hy ok 2 0 rfl rfl rfl (by decide))]
  simp only [ofRow, rowMaj21, pickRow, fixedIs, e0, e1, e2, f0, f1, Nat.reduceBEq, beq_self_eq_true, Bool.and_true, Bool.and_false, Bool.false_and, Bool.true_and, Bool.false_eq_true, if_true, if_false]

theorem word_voteBal (p : BitVec 3) (d : BitVec 7) (s : BitVec 1) (y : Nat) (hy : y = partsNat [(1, 1), (1, s.toNat), (6, 33), (7, d.toNat), (3, p.toNat), (14, 4096)]) :
    decode32 y = accept (.voteBal p d s) := by
  have ok : partsOk [(1, 1), (1, s.toNat), (6, 33), (7, d.toNat), (3, p.toNat), (14, 4096)] := ⟨by decide, s.isLt, by decide, d.isLt, p.isLt, by decide, trivial⟩
  have e0 : bits y 15 3 = p := bits_of (part_at hy ok 4 rfl rfl)
  have e1 : bits y 8 7 = d := bits_of (part_at hy ok 3 rfl rfl)
  have e2 : bits y 1 1 = s := bits_of (part_at hy ok 1 rfl rfl)
  have f0 : field y 18 14 = 4096 := part_in hy ok 5 0 rfl rfl rfl (by decide)
  have f1 : field y 18 14 = 4096 := part_in hy ok 5 0 rfl rfl rfl (by decide)
  have f2 : field y 18 14 = 4096 := part_in hy ok 5 0 rfl rfl rfl (by decide)
  rw [row_Maj21 (part_in hy ok 2 0 rfl rfl rfl (by decide))]
  simp only [ofRow, rowMaj21, pickRow, fixedIs, e0, e1, e2, f0, f1, f2, Nat.reduceBEq, beq_self_eq_true, Bool.and_true, Bool.and_false, Bool.false_and, Bool.true_and, Bool.false_eq_true, if_true, if_false]

theorem word_voteCnt (p : BitVec 3) (d : BitVec 7) (s : BitVec 1) (y : Nat) (hy : y = partsNat [(1, 1), (1, s.toNat), (6, 33), (7, d.toNat), (3, p.toNat), (14, 6144)]) :
    decode32 y = accept (.voteCnt p d s) := by
  have ok : partsOk [(1, 1), (1, s.toNat), (6, 33), (7, d.toNat), (3, p.toNat), (14, 6144)] := ⟨by decide, s.isLt, by decide, d.isLt, p.isLt, by decide, trivial⟩
  have e0 : bits y 15 3 = p := bits_of (part_at hy ok 4 rfl rfl)
  have e1 : bits y 8 7 = d := bits_of (part_at hy ok 3 rfl rfl)
  have e2 : bits y 1 1 = s := bits_of (part_at hy ok 1 rfl rfl)
  have f0 : field y 18 14 = 6144 := part_in hy ok 5 0 rfl rfl rfl (by decide)
  have f1 : field y 18 14 = 6144 := part_in hy ok 5 0 rfl rfl rfl (by decide)
  have f2 : field y 18 14 = 6144 := part_in hy ok 5 0 rfl rfl rfl (by decide)
  have f3 : field y 18 14 = 6144 := part_in hy ok 5 0 rfl rfl rfl (by decide)
  rw [row_Maj21 (part_in hy ok 2 0 rfl rfl rfl (by decide))]
  simp only [ofRow, rowMaj21, pickRow, fixedIs, e0, e1, e2, f0, f1, f2, f3, Nat.reduceBEq, beq_self_eq_true, Bool.and_true, Bool.and_false, Bool.false_and, Bool.true_and, Bool.false_eq_true, if_true, if_false]

theorem word_voteMatch (a : BitVec 7) (d : BitVec 7) (s : BitVec 1) (y : Nat) (hy : y = partsNat [(1, 1), (1, s.toNat), (6, 33), (7, d.toNat), (7, a.toNat), (10, 512)]) :
    decode32 y = accept (.voteMatch a d s) := by
  have ok : partsOk [(1, 1), (1, s.toNat), (6, 33), (7, d.toNat), (7, a.toNat), (10, 512)] := ⟨by decide, s.isLt, by decide, d.isLt, a.isLt, by decide, trivial⟩
  have e0 : bits y 15 7 = a := bits_of (part_at hy ok 4 rfl rfl)
  have e1 : bits y 8 7 = d := bits_of (part_at hy ok 3 rfl rfl)
  have e2 : bits y 1 1 = s := bits_of (part_at hy ok 1 rfl rfl)
  have f0 : (field y 18 14 == 0) = false :=
    part_not (part_in hy ok 5 0 rfl rfl rfl (by decide) : field y 22 10 = 512) 4 rfl (by decide) (by decide)
  have f1 : (field y 18 14 == 2048) = false :=
    part_not (part_in hy ok 5 0 rfl rfl rfl (by decide) : field y 22 10 = 512) 4 rfl (by decide) (by decide)
  have f2 : (field y 18 14 == 4096) = false :=
    part_not (part_in hy ok 5 0 rfl rfl rfl (by decide) : field y 22 10 = 512) 4 rfl (by decide) (by decide)
  have f3 : (field y 18 14 == 6144) = false :=
    part_not (part_in hy ok 5 0 rfl rfl rfl (by decide) : field y 22 10 = 512) 4 rfl (by decide) (by decide)
  have f4 : field y 22 10 = 512 := part_in hy ok 5 0 rfl rfl rfl (by decide)
  rw [row_Maj21 (part_in hy ok 2 0 rfl rfl rfl (by decide))]
  simp only [ofRow, rowMaj21, pickRow, fixedIs, e0, e1, e2, f0, f1, f2, f3, f4, Nat.reduceBEq, beq_self_eq_true, Bool.and_true, Bool.and_false, Bool.false_and, Bool.true_and, Bool.false_eq_true, if_true, if_false]

theorem word_lredAdd (t : BitVec 2) (a : BitVec 7) (d : BitVec 7) (s : BitVec 1) (y : Nat) (hy : y = partsNat [(1, 1), (1, s.toNat), (6, 34), (7, d.toNat), (7, a.toNat), (2, t.toNat), (8, 0)]) :
    decode32 y = accept (.lredAdd t a d s) := by
  have ok : partsOk [(1, 1), (1, s.toNat), (6, 34), (7, d.toNat), (7, a.toNat), (2, t.toNat), (8, 0)] := ⟨by decide, s.isLt, by decide, d.isLt, a.isLt, t.isLt, by decide, trivial⟩
  have e0 : bits y 22 2 = t := bits_of (part_at hy ok 5 rfl rfl)
  have e1 : bits y 15 7 = a := bits_of (part_at hy ok 4 rfl rfl)
  have e2 : bits y 8 7 = d := bits_of (part_at hy ok 3 rfl rfl)
  have e3 : bits y 1 1 = s := bits_of (part_at hy ok 1 rfl rfl)
  have f0 : field y 24 8 = 0 := part_in hy ok 6 0 rfl rfl rfl (by decide)
  rw [row_Maj22 (part_in hy ok 2 0 rfl rfl rfl (by decide))]
  simp only [ofRow, rowMaj22, pickRow, fixedIs, e0, e1, e2, e3, f0, Nat.reduceBEq, beq_self_eq_true, Bool.and_true, Bool.and_false, Bool.false_and, Bool.true_and, Bool.false_eq_true, if_true, if_false]

theorem word_lredMax (t : BitVec 2) (a : BitVec 7) (d : BitVec 7) (s : BitVec 1) (y : Nat) (hy : y = partsNat [(1, 1), (1, s.toNat), (6, 34), (7, d.toNat), (7, a.toNat), (2, t.toNat), (8, 32)]) :
    decode32 y = accept (.lredMax t a d s) := by
  have ok : partsOk [(1, 1), (1, s.toNat), (6, 34), (7, d.toNat), (7, a.toNat), (2, t.toNat), (8, 32)] := ⟨by decide, s.isLt, by decide, d.isLt, a.isLt, t.isLt, by decide, trivial⟩
  have e0 : bits y 22 2 = t := bits_of (part_at hy ok 5 rfl rfl)
  have e1 : bits y 15 7 = a := bits_of (part_at hy ok 4 rfl rfl)
  have e2 : bits y 8 7 = d := bits_of (part_at hy ok 3 rfl rfl)
  have e3 : bits y 1 1 = s := bits_of (part_at hy ok 1 rfl rfl)
  have f0 : field y 24 8 = 32 := part_in hy ok 6 0 rfl rfl rfl (by decide)
  have f1 : field y 24 8 = 32 := part_in hy ok 6 0 rfl rfl rfl (by decide)
  rw [row_Maj22 (part_in hy ok 2 0 rfl rfl rfl (by decide))]
  simp only [ofRow, rowMaj22, pickRow, fixedIs, e0, e1, e2, e3, f0, f1, Nat.reduceBEq, beq_self_eq_true, Bool.and_true, Bool.and_false, Bool.false_and, Bool.true_and, Bool.false_eq_true, if_true, if_false]

theorem word_lredMin (t : BitVec 2) (a : BitVec 7) (d : BitVec 7) (s : BitVec 1) (y : Nat) (hy : y = partsNat [(1, 1), (1, s.toNat), (6, 34), (7, d.toNat), (7, a.toNat), (2, t.toNat), (8, 64)]) :
    decode32 y = accept (.lredMin t a d s) := by
  have ok : partsOk [(1, 1), (1, s.toNat), (6, 34), (7, d.toNat), (7, a.toNat), (2, t.toNat), (8, 64)] := ⟨by decide, s.isLt, by decide, d.isLt, a.isLt, t.isLt, by decide, trivial⟩
  have e0 : bits y 22 2 = t := bits_of (part_at hy ok 5 rfl rfl)
  have e1 : bits y 15 7 = a := bits_of (part_at hy ok 4 rfl rfl)
  have e2 : bits y 8 7 = d := bits_of (part_at hy ok 3 rfl rfl)
  have e3 : bits y 1 1 = s := bits_of (part_at hy ok 1 rfl rfl)
  have f0 : field y 24 8 = 64 := part_in hy ok 6 0 rfl rfl rfl (by decide)
  have f1 : field y 24 8 = 64 := part_in hy ok 6 0 rfl rfl rfl (by decide)
  have f2 : field y 24 8 = 64 := part_in hy ok 6 0 rfl rfl rfl (by decide)
  rw [row_Maj22 (part_in hy ok 2 0 rfl rfl rfl (by decide))]
  simp only [ofRow, rowMaj22, pickRow, fixedIs, e0, e1, e2, e3, f0, f1, f2, Nat.reduceBEq, beq_self_eq_true, Bool.and_true, Bool.and_false, Bool.false_and, Bool.true_and, Bool.false_eq_true, if_true, if_false]

theorem word_lscanAddInc (t : BitVec 2) (a : BitVec 7) (d : BitVec 7) (s : BitVec 1) (y : Nat) (hy : y = partsNat [(1, 1), (1, s.toNat), (6, 34), (7, d.toNat), (7, a.toNat), (2, t.toNat), (8, 96)]) :
    decode32 y = accept (.lscanAddInc t a d s) := by
  have ok : partsOk [(1, 1), (1, s.toNat), (6, 34), (7, d.toNat), (7, a.toNat), (2, t.toNat), (8, 96)] := ⟨by decide, s.isLt, by decide, d.isLt, a.isLt, t.isLt, by decide, trivial⟩
  have e0 : bits y 22 2 = t := bits_of (part_at hy ok 5 rfl rfl)
  have e1 : bits y 15 7 = a := bits_of (part_at hy ok 4 rfl rfl)
  have e2 : bits y 8 7 = d := bits_of (part_at hy ok 3 rfl rfl)
  have e3 : bits y 1 1 = s := bits_of (part_at hy ok 1 rfl rfl)
  have f0 : field y 24 8 = 96 := part_in hy ok 6 0 rfl rfl rfl (by decide)
  have f1 : field y 24 8 = 96 := part_in hy ok 6 0 rfl rfl rfl (by decide)
  have f2 : field y 24 8 = 96 := part_in hy ok 6 0 rfl rfl rfl (by decide)
  have f3 : field y 24 8 = 96 := part_in hy ok 6 0 rfl rfl rfl (by decide)
  rw [row_Maj22 (part_in hy ok 2 0 rfl rfl rfl (by decide))]
  simp only [ofRow, rowMaj22, pickRow, fixedIs, e0, e1, e2, e3, f0, f1, f2, f3, Nat.reduceBEq, beq_self_eq_true, Bool.and_true, Bool.and_false, Bool.false_and, Bool.true_and, Bool.false_eq_true, if_true, if_false]

theorem word_lscanAddExc (t : BitVec 2) (a : BitVec 7) (d : BitVec 7) (s : BitVec 1) (y : Nat) (hy : y = partsNat [(1, 1), (1, s.toNat), (6, 34), (7, d.toNat), (7, a.toNat), (2, t.toNat), (8, 128)]) :
    decode32 y = accept (.lscanAddExc t a d s) := by
  have ok : partsOk [(1, 1), (1, s.toNat), (6, 34), (7, d.toNat), (7, a.toNat), (2, t.toNat), (8, 128)] := ⟨by decide, s.isLt, by decide, d.isLt, a.isLt, t.isLt, by decide, trivial⟩
  have e0 : bits y 22 2 = t := bits_of (part_at hy ok 5 rfl rfl)
  have e1 : bits y 15 7 = a := bits_of (part_at hy ok 4 rfl rfl)
  have e2 : bits y 8 7 = d := bits_of (part_at hy ok 3 rfl rfl)
  have e3 : bits y 1 1 = s := bits_of (part_at hy ok 1 rfl rfl)
  have f0 : field y 24 8 = 128 := part_in hy ok 6 0 rfl rfl rfl (by decide)
  have f1 : field y 24 8 = 128 := part_in hy ok 6 0 rfl rfl rfl (by decide)
  have f2 : field y 24 8 = 128 := part_in hy ok 6 0 rfl rfl rfl (by decide)
  have f3 : field y 24 8 = 128 := part_in hy ok 6 0 rfl rfl rfl (by decide)
  have f4 : field y 24 8 = 128 := part_in hy ok 6 0 rfl rfl rfl (by decide)
  rw [row_Maj22 (part_in hy ok 2 0 rfl rfl rfl (by decide))]
  simp only [ofRow, rowMaj22, pickRow, fixedIs, e0, e1, e2, e3, f0, f1, f2, f3, f4, Nat.reduceBEq, beq_self_eq_true, Bool.and_true, Bool.and_false, Bool.false_and, Bool.true_and, Bool.false_eq_true, if_true, if_false]

theorem word_lbc (n : BitVec 5) (a : BitVec 7) (d : BitVec 7) (s : BitVec 1) (y : Nat) (hy : y = partsNat [(1, 1), (1, s.toNat), (6, 35), (7, d.toNat), (7, a.toNat), (5, n.toNat), (5, 0)]) :
    decode32 y = accept (.lbc n a d s) := by
  have ok : partsOk [(1, 1), (1, s.toNat), (6, 35), (7, d.toNat), (7, a.toNat), (5, n.toNat), (5, 0)] := ⟨by decide, s.isLt, by decide, d.isLt, a.isLt, n.isLt, by decide, trivial⟩
  have e0 : bits y 22 5 = n := bits_of (part_at hy ok 5 rfl rfl)
  have e1 : bits y 15 7 = a := bits_of (part_at hy ok 4 rfl rfl)
  have e2 : bits y 8 7 = d := bits_of (part_at hy ok 3 rfl rfl)
  have e3 : bits y 1 1 = s := bits_of (part_at hy ok 1 rfl rfl)
  have f0 : field y 27 5 = 0 := part_in hy ok 6 0 rfl rfl rfl (by decide)
  rw [row_Maj23 (part_in hy ok 2 0 rfl rfl rfl (by decide))]
  simp only [ofRow, rowMaj23, pickRow, fixedIs, e0, e1, e2, e3, f0, Nat.reduceBEq, beq_self_eq_true, Bool.and_true, Bool.and_false, Bool.false_and, Bool.true_and, Bool.false_eq_true, if_true, if_false]

theorem word_ld (l : BitVec 2) (z : BitVec 3) (b : BitVec 5) (a : BitVec 7) (d : BitVec 7) (s : BitVec 1) (y : Nat) (hy : y = partsNat [(1, 1), (1, s.toNat), (6, 36), (7, d.toNat), (7, a.toNat), (5, b.toNat), (3, z.toNat), (2, l.toNat)]) :
    decode32 y = accept (.ld l z b a d s) := by
  have ok : partsOk [(1, 1), (1, s.toNat), (6, 36), (7, d.toNat), (7, a.toNat), (5, b.toNat), (3, z.toNat), (2, l.toNat)] := ⟨by decide, s.isLt, by decide, d.isLt, a.isLt, b.isLt, z.isLt, l.isLt, trivial⟩
  have e0 : bits y 30 2 = l := bits_of (part_at hy ok 7 rfl rfl)
  have e1 : bits y 27 3 = z := bits_of (part_at hy ok 6 rfl rfl)
  have e2 : bits y 22 5 = b := bits_of (part_at hy ok 5 rfl rfl)
  have e3 : bits y 15 7 = a := bits_of (part_at hy ok 4 rfl rfl)
  have e4 : bits y 8 7 = d := bits_of (part_at hy ok 3 rfl rfl)
  have e5 : bits y 1 1 = s := bits_of (part_at hy ok 1 rfl rfl)
  rw [row_Maj24 (part_in hy ok 2 0 rfl rfl rfl (by decide))]
  simp only [ofRow, rowMaj24, pickRow, fixedIs, e0, e1, e2, e3, e4, e5, Nat.reduceBEq, beq_self_eq_true, Bool.and_true, Bool.and_false, Bool.false_and, Bool.true_and, Bool.false_eq_true, if_true, if_false]

theorem word_st (l : BitVec 2) (z : BitVec 3) (b : BitVec 5) (a : BitVec 7) (d : BitVec 7) (s : BitVec 1) (y : Nat) (hy : y = partsNat [(1, 1), (1, s.toNat), (6, 37), (7, d.toNat), (7, a.toNat), (5, b.toNat), (3, z.toNat), (2, l.toNat)]) :
    decode32 y = accept (.st l z b a d s) := by
  have ok : partsOk [(1, 1), (1, s.toNat), (6, 37), (7, d.toNat), (7, a.toNat), (5, b.toNat), (3, z.toNat), (2, l.toNat)] := ⟨by decide, s.isLt, by decide, d.isLt, a.isLt, b.isLt, z.isLt, l.isLt, trivial⟩
  have e0 : bits y 30 2 = l := bits_of (part_at hy ok 7 rfl rfl)
  have e1 : bits y 27 3 = z := bits_of (part_at hy ok 6 rfl rfl)
  have e2 : bits y 22 5 = b := bits_of (part_at hy ok 5 rfl rfl)
  have e3 : bits y 15 7 = a := bits_of (part_at hy ok 4 rfl rfl)
  have e4 : bits y 8 7 = d := bits_of (part_at hy ok 3 rfl rfl)
  have e5 : bits y 1 1 = s := bits_of (part_at hy ok 1 rfl rfl)
  rw [row_Maj25 (part_in hy ok 2 0 rfl rfl rfl (by decide))]
  simp only [ofRow, rowMaj25, pickRow, fixedIs, e0, e1, e2, e3, e4, e5, Nat.reduceBEq, beq_self_eq_true, Bool.and_true, Bool.and_false, Bool.false_and, Bool.true_and, Bool.false_eq_true, if_true, if_false]

theorem word_ldk (l : BitVec 2) (z : BitVec 3) (b : BitVec 5) (a : BitVec 7) (k : BitVec 6) (s : BitVec 1) (y : Nat) (hy : y = partsNat [(1, 1), (1, s.toNat), (6, 38), (6, k.toNat), (1, 0), (7, a.toNat), (5, b.toNat), (3, z.toNat), (2, l.toNat)]) :
    decode32 y = accept (.ldk l z b a k s) := by
  have ok : partsOk [(1, 1), (1, s.toNat), (6, 38), (6, k.toNat), (1, 0), (7, a.toNat), (5, b.toNat), (3, z.toNat), (2, l.toNat)] := ⟨by decide, s.isLt, by decide, k.isLt, by decide, a.isLt, b.isLt, z.isLt, l.isLt, trivial⟩
  have e0 : bits y 30 2 = l := bits_of (part_at hy ok 8 rfl rfl)
  have e1 : bits y 27 3 = z := bits_of (part_at hy ok 7 rfl rfl)
  have e2 : bits y 22 5 = b := bits_of (part_at hy ok 6 rfl rfl)
  have e3 : bits y 15 7 = a := bits_of (part_at hy ok 5 rfl rfl)
  have e4 : bits y 8 6 = k := bits_of (part_at hy ok 3 rfl rfl)
  have e5 : bits y 1 1 = s := bits_of (part_at hy ok 1 rfl rfl)
  have f0 : field y 14 1 = 0 := part_in hy ok 4 0 rfl rfl rfl (by decide)
  rw [row_Maj26 (part_in hy ok 2 0 rfl rfl rfl (by decide))]
  simp only [ofRow, rowMaj26, pickRow, fixedIs, e0, e1, e2, e3, e4, e5, f0, Nat.reduceBEq, beq_self_eq_true, Bool.and_true, Bool.and_false, Bool.false_and, Bool.true_and, Bool.false_eq_true, if_true, if_false]

theorem word_stk (l : BitVec 2) (z : BitVec 3) (b : BitVec 5) (a : BitVec 7) (k : BitVec 6) (s : BitVec 1) (y : Nat) (hy : y = partsNat [(1, 1), (1, s.toNat), (6, 38), (6, k.toNat), (1, 1), (7, a.toNat), (5, b.toNat), (3, z.toNat), (2, l.toNat)]) :
    decode32 y = accept (.stk l z b a k s) := by
  have ok : partsOk [(1, 1), (1, s.toNat), (6, 38), (6, k.toNat), (1, 1), (7, a.toNat), (5, b.toNat), (3, z.toNat), (2, l.toNat)] := ⟨by decide, s.isLt, by decide, k.isLt, by decide, a.isLt, b.isLt, z.isLt, l.isLt, trivial⟩
  have e0 : bits y 30 2 = l := bits_of (part_at hy ok 8 rfl rfl)
  have e1 : bits y 27 3 = z := bits_of (part_at hy ok 7 rfl rfl)
  have e2 : bits y 22 5 = b := bits_of (part_at hy ok 6 rfl rfl)
  have e3 : bits y 15 7 = a := bits_of (part_at hy ok 5 rfl rfl)
  have e4 : bits y 8 6 = k := bits_of (part_at hy ok 3 rfl rfl)
  have e5 : bits y 1 1 = s := bits_of (part_at hy ok 1 rfl rfl)
  have f0 : field y 14 1 = 1 := part_in hy ok 4 0 rfl rfl rfl (by decide)
  have f1 : field y 14 1 = 1 := part_in hy ok 4 0 rfl rfl rfl (by decide)
  rw [row_Maj26 (part_in hy ok 2 0 rfl rfl rfl (by decide))]
  simp only [ofRow, rowMaj26, pickRow, fixedIs, e0, e1, e2, e3, e4, e5, f0, f1, Nat.reduceBEq, beq_self_eq_true, Bool.and_true, Bool.and_false, Bool.false_and, Bool.true_and, Bool.false_eq_true, if_true, if_false]

theorem word_atomAdd (f : BitVec 1) (w : BitVec 1) (c : BitVec 3) (o : BitVec 2) (a : BitVec 7) (d : BitVec 7) (s : BitVec 1) (y : Nat) (hy : y = partsNat [(1, 1), (1, s.toNat), (6, 39), (7, d.toNat), (7, a.toNat), (3, 0), (2, o.toNat), (3, c.toNat), (1, w.toNat), (1, f.toNat)]) :
    decode32 y = accept (.atomAdd f w c o a d s) := by
  have ok : partsOk [(1, 1), (1, s.toNat), (6, 39), (7, d.toNat), (7, a.toNat), (3, 0), (2, o.toNat), (3, c.toNat), (1, w.toNat), (1, f.toNat)] := ⟨by decide, s.isLt, by decide, d.isLt, a.isLt, by decide, o.isLt, c.isLt, w.isLt, f.isLt, trivial⟩
  have e0 : bits y 31 1 = f := bits_of (part_at hy ok 9 rfl rfl)
  have e1 : bits y 30 1 = w := bits_of (part_at hy ok 8 rfl rfl)
  have e2 : bits y 27 3 = c := bits_of (part_at hy ok 7 rfl rfl)
  have e3 : bits y 25 2 = o := bits_of (part_at hy ok 6 rfl rfl)
  have e4 : bits y 15 7 = a := bits_of (part_at hy ok 4 rfl rfl)
  have e5 : bits y 8 7 = d := bits_of (part_at hy ok 3 rfl rfl)
  have e6 : bits y 1 1 = s := bits_of (part_at hy ok 1 rfl rfl)
  have f0 : field y 22 3 = 0 := part_in hy ok 5 0 rfl rfl rfl (by decide)
  rw [row_Maj27 (part_in hy ok 2 0 rfl rfl rfl (by decide))]
  simp only [ofRow, rowMaj27, pickRow, fixedIs, e0, e1, e2, e3, e4, e5, e6, f0, Nat.reduceBEq, beq_self_eq_true, Bool.and_true, Bool.and_false, Bool.false_and, Bool.true_and, Bool.false_eq_true, if_true, if_false]

theorem word_atomMin (f : BitVec 1) (w : BitVec 1) (c : BitVec 3) (o : BitVec 2) (a : BitVec 7) (d : BitVec 7) (s : BitVec 1) (y : Nat) (hy : y = partsNat [(1, 1), (1, s.toNat), (6, 39), (7, d.toNat), (7, a.toNat), (3, 1), (2, o.toNat), (3, c.toNat), (1, w.toNat), (1, f.toNat)]) :
    decode32 y = accept (.atomMin f w c o a d s) := by
  have ok : partsOk [(1, 1), (1, s.toNat), (6, 39), (7, d.toNat), (7, a.toNat), (3, 1), (2, o.toNat), (3, c.toNat), (1, w.toNat), (1, f.toNat)] := ⟨by decide, s.isLt, by decide, d.isLt, a.isLt, by decide, o.isLt, c.isLt, w.isLt, f.isLt, trivial⟩
  have e0 : bits y 31 1 = f := bits_of (part_at hy ok 9 rfl rfl)
  have e1 : bits y 30 1 = w := bits_of (part_at hy ok 8 rfl rfl)
  have e2 : bits y 27 3 = c := bits_of (part_at hy ok 7 rfl rfl)
  have e3 : bits y 25 2 = o := bits_of (part_at hy ok 6 rfl rfl)
  have e4 : bits y 15 7 = a := bits_of (part_at hy ok 4 rfl rfl)
  have e5 : bits y 8 7 = d := bits_of (part_at hy ok 3 rfl rfl)
  have e6 : bits y 1 1 = s := bits_of (part_at hy ok 1 rfl rfl)
  have f0 : field y 22 3 = 1 := part_in hy ok 5 0 rfl rfl rfl (by decide)
  have f1 : field y 22 3 = 1 := part_in hy ok 5 0 rfl rfl rfl (by decide)
  rw [row_Maj27 (part_in hy ok 2 0 rfl rfl rfl (by decide))]
  simp only [ofRow, rowMaj27, pickRow, fixedIs, e0, e1, e2, e3, e4, e5, e6, f0, f1, Nat.reduceBEq, beq_self_eq_true, Bool.and_true, Bool.and_false, Bool.false_and, Bool.true_and, Bool.false_eq_true, if_true, if_false]

theorem word_atomMax (f : BitVec 1) (w : BitVec 1) (c : BitVec 3) (o : BitVec 2) (a : BitVec 7) (d : BitVec 7) (s : BitVec 1) (y : Nat) (hy : y = partsNat [(1, 1), (1, s.toNat), (6, 39), (7, d.toNat), (7, a.toNat), (3, 2), (2, o.toNat), (3, c.toNat), (1, w.toNat), (1, f.toNat)]) :
    decode32 y = accept (.atomMax f w c o a d s) := by
  have ok : partsOk [(1, 1), (1, s.toNat), (6, 39), (7, d.toNat), (7, a.toNat), (3, 2), (2, o.toNat), (3, c.toNat), (1, w.toNat), (1, f.toNat)] := ⟨by decide, s.isLt, by decide, d.isLt, a.isLt, by decide, o.isLt, c.isLt, w.isLt, f.isLt, trivial⟩
  have e0 : bits y 31 1 = f := bits_of (part_at hy ok 9 rfl rfl)
  have e1 : bits y 30 1 = w := bits_of (part_at hy ok 8 rfl rfl)
  have e2 : bits y 27 3 = c := bits_of (part_at hy ok 7 rfl rfl)
  have e3 : bits y 25 2 = o := bits_of (part_at hy ok 6 rfl rfl)
  have e4 : bits y 15 7 = a := bits_of (part_at hy ok 4 rfl rfl)
  have e5 : bits y 8 7 = d := bits_of (part_at hy ok 3 rfl rfl)
  have e6 : bits y 1 1 = s := bits_of (part_at hy ok 1 rfl rfl)
  have f0 : field y 22 3 = 2 := part_in hy ok 5 0 rfl rfl rfl (by decide)
  have f1 : field y 22 3 = 2 := part_in hy ok 5 0 rfl rfl rfl (by decide)
  have f2 : field y 22 3 = 2 := part_in hy ok 5 0 rfl rfl rfl (by decide)
  rw [row_Maj27 (part_in hy ok 2 0 rfl rfl rfl (by decide))]
  simp only [ofRow, rowMaj27, pickRow, fixedIs, e0, e1, e2, e3, e4, e5, e6, f0, f1, f2, Nat.reduceBEq, beq_self_eq_true, Bool.and_true, Bool.and_false, Bool.false_and, Bool.true_and, Bool.false_eq_true, if_true, if_false]

theorem word_atomAnd (w : BitVec 1) (c : BitVec 3) (o : BitVec 2) (a : BitVec 7) (d : BitVec 7) (s : BitVec 1) (y : Nat) (hy : y = partsNat [(1, 1), (1, s.toNat), (6, 39), (7, d.toNat), (7, a.toNat), (3, 3), (2, o.toNat), (3, c.toNat), (1, w.toNat), (1, 0)]) :
    decode32 y = accept (.atomAnd w c o a d s) := by
  have ok : partsOk [(1, 1), (1, s.toNat), (6, 39), (7, d.toNat), (7, a.toNat), (3, 3), (2, o.toNat), (3, c.toNat), (1, w.toNat), (1, 0)] := ⟨by decide, s.isLt, by decide, d.isLt, a.isLt, by decide, o.isLt, c.isLt, w.isLt, by decide, trivial⟩
  have e0 : bits y 30 1 = w := bits_of (part_at hy ok 8 rfl rfl)
  have e1 : bits y 27 3 = c := bits_of (part_at hy ok 7 rfl rfl)
  have e2 : bits y 25 2 = o := bits_of (part_at hy ok 6 rfl rfl)
  have e3 : bits y 15 7 = a := bits_of (part_at hy ok 4 rfl rfl)
  have e4 : bits y 8 7 = d := bits_of (part_at hy ok 3 rfl rfl)
  have e5 : bits y 1 1 = s := bits_of (part_at hy ok 1 rfl rfl)
  have f0 : field y 22 3 = 3 := part_in hy ok 5 0 rfl rfl rfl (by decide)
  have f1 : field y 22 3 = 3 := part_in hy ok 5 0 rfl rfl rfl (by decide)
  have f2 : field y 22 3 = 3 := part_in hy ok 5 0 rfl rfl rfl (by decide)
  have f3 : field y 22 3 = 3 := part_in hy ok 5 0 rfl rfl rfl (by decide)
  have f4 : field y 31 1 = 0 := part_in hy ok 9 0 rfl rfl rfl (by decide)
  rw [row_Maj27 (part_in hy ok 2 0 rfl rfl rfl (by decide))]
  simp only [ofRow, rowMaj27, pickRow, fixedIs, e0, e1, e2, e3, e4, e5, f0, f1, f2, f3, f4, Nat.reduceBEq, beq_self_eq_true, Bool.and_true, Bool.and_false, Bool.false_and, Bool.true_and, Bool.false_eq_true, if_true, if_false]

theorem word_atomOr (w : BitVec 1) (c : BitVec 3) (o : BitVec 2) (a : BitVec 7) (d : BitVec 7) (s : BitVec 1) (y : Nat) (hy : y = partsNat [(1, 1), (1, s.toNat), (6, 39), (7, d.toNat), (7, a.toNat), (3, 4), (2, o.toNat), (3, c.toNat), (1, w.toNat), (1, 0)]) :
    decode32 y = accept (.atomOr w c o a d s) := by
  have ok : partsOk [(1, 1), (1, s.toNat), (6, 39), (7, d.toNat), (7, a.toNat), (3, 4), (2, o.toNat), (3, c.toNat), (1, w.toNat), (1, 0)] := ⟨by decide, s.isLt, by decide, d.isLt, a.isLt, by decide, o.isLt, c.isLt, w.isLt, by decide, trivial⟩
  have e0 : bits y 30 1 = w := bits_of (part_at hy ok 8 rfl rfl)
  have e1 : bits y 27 3 = c := bits_of (part_at hy ok 7 rfl rfl)
  have e2 : bits y 25 2 = o := bits_of (part_at hy ok 6 rfl rfl)
  have e3 : bits y 15 7 = a := bits_of (part_at hy ok 4 rfl rfl)
  have e4 : bits y 8 7 = d := bits_of (part_at hy ok 3 rfl rfl)
  have e5 : bits y 1 1 = s := bits_of (part_at hy ok 1 rfl rfl)
  have f0 : field y 22 3 = 4 := part_in hy ok 5 0 rfl rfl rfl (by decide)
  have f1 : field y 22 3 = 4 := part_in hy ok 5 0 rfl rfl rfl (by decide)
  have f2 : field y 22 3 = 4 := part_in hy ok 5 0 rfl rfl rfl (by decide)
  have f3 : field y 22 3 = 4 := part_in hy ok 5 0 rfl rfl rfl (by decide)
  have f4 : field y 22 3 = 4 := part_in hy ok 5 0 rfl rfl rfl (by decide)
  have f5 : field y 31 1 = 0 := part_in hy ok 9 0 rfl rfl rfl (by decide)
  rw [row_Maj27 (part_in hy ok 2 0 rfl rfl rfl (by decide))]
  simp only [ofRow, rowMaj27, pickRow, fixedIs, e0, e1, e2, e3, e4, e5, f0, f1, f2, f3, f4, f5, Nat.reduceBEq, beq_self_eq_true, Bool.and_true, Bool.and_false, Bool.false_and, Bool.true_and, Bool.false_eq_true, if_true, if_false]

theorem word_atomXor (w : BitVec 1) (c : BitVec 3) (o : BitVec 2) (a : BitVec 7) (d : BitVec 7) (s : BitVec 1) (y : Nat) (hy : y = partsNat [(1, 1), (1, s.toNat), (6, 39), (7, d.toNat), (7, a.toNat), (3, 5), (2, o.toNat), (3, c.toNat), (1, w.toNat), (1, 0)]) :
    decode32 y = accept (.atomXor w c o a d s) := by
  have ok : partsOk [(1, 1), (1, s.toNat), (6, 39), (7, d.toNat), (7, a.toNat), (3, 5), (2, o.toNat), (3, c.toNat), (1, w.toNat), (1, 0)] := ⟨by decide, s.isLt, by decide, d.isLt, a.isLt, by decide, o.isLt, c.isLt, w.isLt, by decide, trivial⟩
  have e0 : bits y 30 1 = w := bits_of (part_at hy ok 8 rfl rfl)
  have e1 : bits y 27 3 = c := bits_of (part_at hy ok 7 rfl rfl)
  have e2 : bits y 25 2 = o := bits_of (part_at hy ok 6 rfl rfl)
  have e3 : bits y 15 7 = a := bits_of (part_at hy ok 4 rfl rfl)
  have e4 : bits y 8 7 = d := bits_of (part_at hy ok 3 rfl rfl)
  have e5 : bits y 1 1 = s := bits_of (part_at hy ok 1 rfl rfl)
  have f0 : field y 22 3 = 5 := part_in hy ok 5 0 rfl rfl rfl (by decide)
  have f1 : field y 22 3 = 5 := part_in hy ok 5 0 rfl rfl rfl (by decide)
  have f2 : field y 22 3 = 5 := part_in hy ok 5 0 rfl rfl rfl (by decide)
  have f3 : field y 22 3 = 5 := part_in hy ok 5 0 rfl rfl rfl (by decide)
  have f4 : field y 22 3 = 5 := part_in hy ok 5 0 rfl rfl rfl (by decide)
  have f5 : field y 22 3 = 5 := part_in hy ok 5 0 rfl rfl rfl (by decide)
  have f6 : field y 31 1 = 0 := part_in hy ok 9 0 rfl rfl rfl (by decide)
  rw [row_Maj27 (part_in hy ok 2 0 rfl rfl rfl (by decide))]
  simp only [ofRow, rowMaj27, pickRow, fixedIs, e0, e1, e2, e3, e4, e5, f0, f1, f2, f3, f4, f5, f6, Nat.reduceBEq, beq_self_eq_true, Bool.and_true, Bool.and_false, Bool.false_and, Bool.true_and, Bool.false_eq_true, if_true, if_false]

theorem word_atomXchg (w : BitVec 1) (c : BitVec 3) (o : BitVec 2) (a : BitVec 7) (d : BitVec 7) (s : BitVec 1) (y : Nat) (hy : y = partsNat [(1, 1), (1, s.toNat), (6, 39), (7, d.toNat), (7, a.toNat), (3, 6), (2, o.toNat), (3, c.toNat), (1, w.toNat), (1, 0)]) :
    decode32 y = accept (.atomXchg w c o a d s) := by
  have ok : partsOk [(1, 1), (1, s.toNat), (6, 39), (7, d.toNat), (7, a.toNat), (3, 6), (2, o.toNat), (3, c.toNat), (1, w.toNat), (1, 0)] := ⟨by decide, s.isLt, by decide, d.isLt, a.isLt, by decide, o.isLt, c.isLt, w.isLt, by decide, trivial⟩
  have e0 : bits y 30 1 = w := bits_of (part_at hy ok 8 rfl rfl)
  have e1 : bits y 27 3 = c := bits_of (part_at hy ok 7 rfl rfl)
  have e2 : bits y 25 2 = o := bits_of (part_at hy ok 6 rfl rfl)
  have e3 : bits y 15 7 = a := bits_of (part_at hy ok 4 rfl rfl)
  have e4 : bits y 8 7 = d := bits_of (part_at hy ok 3 rfl rfl)
  have e5 : bits y 1 1 = s := bits_of (part_at hy ok 1 rfl rfl)
  have f0 : field y 22 3 = 6 := part_in hy ok 5 0 rfl rfl rfl (by decide)
  have f1 : field y 22 3 = 6 := part_in hy ok 5 0 rfl rfl rfl (by decide)
  have f2 : field y 22 3 = 6 := part_in hy ok 5 0 rfl rfl rfl (by decide)
  have f3 : field y 22 3 = 6 := part_in hy ok 5 0 rfl rfl rfl (by decide)
  have f4 : field y 22 3 = 6 := part_in hy ok 5 0 rfl rfl rfl (by decide)
  have f5 : field y 22 3 = 6 := part_in hy ok 5 0 rfl rfl rfl (by decide)
  have f6 : field y 22 3 = 6 := part_in hy ok 5 0 rfl rfl rfl (by decide)
  have f7 : field y 31 1 = 0 := part_in hy ok 9 0 rfl rfl rfl (by decide)
  rw [row_Maj27 (part_in hy ok 2 0 rfl rfl rfl (by decide))]
  simp only [ofRow, rowMaj27, pickRow, fixedIs, e0, e1, e2, e3, e4, e5, f0, f1, f2, f3, f4, f5, f6, f7, Nat.reduceBEq, beq_self_eq_true, Bool.and_true, Bool.and_false, Bool.false_and, Bool.true_and, Bool.false_eq_true, if_true, if_false]

theorem word_atomCas (w : BitVec 1) (c : BitVec 3) (o : BitVec 2) (a : BitVec 7) (d : BitVec 7) (s : BitVec 1) (y : Nat) (hy : y = partsNat [(1, 1), (1, s.toNat), (6, 39), (7, d.toNat), (7, a.toNat), (3, 7), (2, o.toNat), (3, c.toNat), (1, w.toNat), (1, 0)]) :
    decode32 y = accept (.atomCas w c o a d s) := by
  have ok : partsOk [(1, 1), (1, s.toNat), (6, 39), (7, d.toNat), (7, a.toNat), (3, 7), (2, o.toNat), (3, c.toNat), (1, w.toNat), (1, 0)] := ⟨by decide, s.isLt, by decide, d.isLt, a.isLt, by decide, o.isLt, c.isLt, w.isLt, by decide, trivial⟩
  have e0 : bits y 30 1 = w := bits_of (part_at hy ok 8 rfl rfl)
  have e1 : bits y 27 3 = c := bits_of (part_at hy ok 7 rfl rfl)
  have e2 : bits y 25 2 = o := bits_of (part_at hy ok 6 rfl rfl)
  have e3 : bits y 15 7 = a := bits_of (part_at hy ok 4 rfl rfl)
  have e4 : bits y 8 7 = d := bits_of (part_at hy ok 3 rfl rfl)
  have e5 : bits y 1 1 = s := bits_of (part_at hy ok 1 rfl rfl)
  have f0 : field y 22 3 = 7 := part_in hy ok 5 0 rfl rfl rfl (by decide)
  have f1 : field y 22 3 = 7 := part_in hy ok 5 0 rfl rfl rfl (by decide)
  have f2 : field y 22 3 = 7 := part_in hy ok 5 0 rfl rfl rfl (by decide)
  have f3 : field y 22 3 = 7 := part_in hy ok 5 0 rfl rfl rfl (by decide)
  have f4 : field y 22 3 = 7 := part_in hy ok 5 0 rfl rfl rfl (by decide)
  have f5 : field y 22 3 = 7 := part_in hy ok 5 0 rfl rfl rfl (by decide)
  have f6 : field y 22 3 = 7 := part_in hy ok 5 0 rfl rfl rfl (by decide)
  have f7 : field y 22 3 = 7 := part_in hy ok 5 0 rfl rfl rfl (by decide)
  have f8 : field y 31 1 = 0 := part_in hy ok 9 0 rfl rfl rfl (by decide)
  rw [row_Maj27 (part_in hy ok 2 0 rfl rfl rfl (by decide))]
  simp only [ofRow, rowMaj27, pickRow, fixedIs, e0, e1, e2, e3, e4, e5, f0, f1, f2, f3, f4, f5, f6, f7, f8, Nat.reduceBEq, beq_self_eq_true, Bool.and_true, Bool.and_false, Bool.false_and, Bool.true_and, Bool.false_eq_true, if_true, if_false]

theorem word_fenceAcq (c : BitVec 3) (s : BitVec 1) (y : Nat) (hy : y = partsNat [(1, 1), (1, s.toNat), (8, 40), (3, c.toNat), (19, 0)]) :
    decode32 y = accept (.fenceAcq c s) := by
  have ok : partsOk [(1, 1), (1, s.toNat), (8, 40), (3, c.toNat), (19, 0)] := ⟨by decide, s.isLt, by decide, c.isLt, by decide, trivial⟩
  have e0 : bits y 10 3 = c := bits_of (part_at hy ok 3 rfl rfl)
  have e1 : bits y 1 1 = s := bits_of (part_at hy ok 1 rfl rfl)
  have f0 : field y 8 2 = 0 := part_in hy ok 2 6 rfl rfl rfl (by decide)
  have f1 : field y 13 19 = 0 := part_in hy ok 4 0 rfl rfl rfl (by decide)
  rw [row_Maj28 (part_in hy ok 2 0 rfl rfl rfl (by decide))]
  simp only [ofRow, rowMaj28, pickRow, fixedIs, e0, e1, f0, f1, Nat.reduceBEq, beq_self_eq_true, Bool.and_true, Bool.and_false, Bool.false_and, Bool.true_and, Bool.false_eq_true, if_true, if_false]

theorem word_fenceRel (c : BitVec 3) (s : BitVec 1) (y : Nat) (hy : y = partsNat [(1, 1), (1, s.toNat), (8, 104), (3, c.toNat), (19, 0)]) :
    decode32 y = accept (.fenceRel c s) := by
  have ok : partsOk [(1, 1), (1, s.toNat), (8, 104), (3, c.toNat), (19, 0)] := ⟨by decide, s.isLt, by decide, c.isLt, by decide, trivial⟩
  have e0 : bits y 10 3 = c := bits_of (part_at hy ok 3 rfl rfl)
  have e1 : bits y 1 1 = s := bits_of (part_at hy ok 1 rfl rfl)
  have f0 : field y 8 2 = 1 := part_in hy ok 2 6 rfl rfl rfl (by decide)
  have f1 : field y 8 2 = 1 := part_in hy ok 2 6 rfl rfl rfl (by decide)
  have f2 : field y 13 19 = 0 := part_in hy ok 4 0 rfl rfl rfl (by decide)
  rw [row_Maj28 (part_in hy ok 2 0 rfl rfl rfl (by decide))]
  simp only [ofRow, rowMaj28, pickRow, fixedIs, e0, e1, f0, f1, f2, Nat.reduceBEq, beq_self_eq_true, Bool.and_true, Bool.and_false, Bool.false_and, Bool.true_and, Bool.false_eq_true, if_true, if_false]

theorem word_fenceAr (c : BitVec 3) (s : BitVec 1) (y : Nat) (hy : y = partsNat [(1, 1), (1, s.toNat), (8, 168), (3, c.toNat), (19, 0)]) :
    decode32 y = accept (.fenceAr c s) := by
  have ok : partsOk [(1, 1), (1, s.toNat), (8, 168), (3, c.toNat), (19, 0)] := ⟨by decide, s.isLt, by decide, c.isLt, by decide, trivial⟩
  have e0 : bits y 10 3 = c := bits_of (part_at hy ok 3 rfl rfl)
  have e1 : bits y 1 1 = s := bits_of (part_at hy ok 1 rfl rfl)
  have f0 : field y 8 2 = 2 := part_in hy ok 2 6 rfl rfl rfl (by decide)
  have f1 : field y 8 2 = 2 := part_in hy ok 2 6 rfl rfl rfl (by decide)
  have f2 : field y 8 2 = 2 := part_in hy ok 2 6 rfl rfl rfl (by decide)
  have f3 : field y 13 19 = 0 := part_in hy ok 4 0 rfl rfl rfl (by decide)
  rw [row_Maj28 (part_in hy ok 2 0 rfl rfl rfl (by decide))]
  simp only [ofRow, rowMaj28, pickRow, fixedIs, e0, e1, f0, f1, f2, f3, Nat.reduceBEq, beq_self_eq_true, Bool.and_true, Bool.and_false, Bool.false_and, Bool.true_and, Bool.false_eq_true, if_true, if_false]

theorem word_fenceSc (c : BitVec 3) (s : BitVec 1) (y : Nat) (hy : y = partsNat [(1, 1), (1, s.toNat), (8, 232), (3, c.toNat), (19, 0)]) :
    decode32 y = accept (.fenceSc c s) := by
  have ok : partsOk [(1, 1), (1, s.toNat), (8, 232), (3, c.toNat), (19, 0)] := ⟨by decide, s.isLt, by decide, c.isLt, by decide, trivial⟩
  have e0 : bits y 10 3 = c := bits_of (part_at hy ok 3 rfl rfl)
  have e1 : bits y 1 1 = s := bits_of (part_at hy ok 1 rfl rfl)
  have f0 : field y 8 2 = 3 := part_in hy ok 2 6 rfl rfl rfl (by decide)
  have f1 : field y 8 2 = 3 := part_in hy ok 2 6 rfl rfl rfl (by decide)
  have f2 : field y 8 2 = 3 := part_in hy ok 2 6 rfl rfl rfl (by decide)
  have f3 : field y 8 2 = 3 := part_in hy ok 2 6 rfl rfl rfl (by decide)
  have f4 : field y 13 19 = 0 := part_in hy ok 4 0 rfl rfl rfl (by decide)
  rw [row_Maj28 (part_in hy ok 2 0 rfl rfl rfl (by decide))]
  simp only [ofRow, rowMaj28, pickRow, fixedIs, e0, e1, f0, f1, f2, f3, f4, Nat.reduceBEq, beq_self_eq_true, Bool.and_true, Bool.and_false, Bool.false_and, Bool.true_and, Bool.false_eq_true, if_true, if_false]

theorem word_tget (l : BitVec 2) (a : BitVec 6) (t : BitVec 8) (s : BitVec 1) (y : Nat) (hy : y = partsNat [(1, 1), (1, s.toNat), (6, 41), (8, t.toNat), (6, a.toNat), (6, 0), (2, l.toNat), (2, 0)]) :
    decode32 y = accept (.tget l a t s) := by
  have ok : partsOk [(1, 1), (1, s.toNat), (6, 41), (8, t.toNat), (6, a.toNat), (6, 0), (2, l.toNat), (2, 0)] := ⟨by decide, s.isLt, by decide, t.isLt, a.isLt, by decide, l.isLt, by decide, trivial⟩
  have e0 : bits y 28 2 = l := bits_of (part_at hy ok 6 rfl rfl)
  have e1 : bits y 16 6 = a := bits_of (part_at hy ok 4 rfl rfl)
  have e2 : bits y 8 8 = t := bits_of (part_at hy ok 3 rfl rfl)
  have e3 : bits y 1 1 = s := bits_of (part_at hy ok 1 rfl rfl)
  have f0 : field y 22 6 = 0 := part_in hy ok 5 0 rfl rfl rfl (by decide)
  have f1 : field y 30 2 = 0 := part_in hy ok 7 0 rfl rfl rfl (by decide)
  rw [row_Maj29 (part_in hy ok 2 0 rfl rfl rfl (by decide))]
  simp only [ofRow, rowMaj29, pickRow, fixedIs, e0, e1, e2, e3, f0, f1, Nat.reduceBEq, beq_self_eq_true, Bool.and_true, Bool.and_false, Bool.false_and, Bool.true_and, Bool.false_eq_true, if_true, if_false]

theorem word_tset (a : BitVec 6) (t : BitVec 8) (s : BitVec 1) (y : Nat) (hy : y = partsNat [(1, 1), (1, s.toNat), (6, 41), (8, t.toNat), (6, a.toNat), (10, 256)]) :
    decode32 y = accept (.tset a t s) := by
  have ok : partsOk [(1, 1), (1, s.toNat), (6, 41), (8, t.toNat), (6, a.toNat), (10, 256)] := ⟨by decide, s.isLt, by decide, t.isLt, a.isLt, by decide, trivial⟩
  have e0 : bits y 16 6 = a := bits_of (part_at hy ok 4 rfl rfl)
  have e1 : bits y 8 8 = t := bits_of (part_at hy ok 3 rfl rfl)
  have e2 : bits y 1 1 = s := bits_of (part_at hy ok 1 rfl rfl)
  have f0 : field y 30 2 = 1 := part_in hy ok 5 8 rfl rfl rfl (by decide)
  have f1 : field y 22 10 = 256 := part_in hy ok 5 0 rfl rfl rfl (by decide)
  rw [row_Maj29 (part_in hy ok 2 0 rfl rfl rfl (by decide))]
  simp only [ofRow, rowMaj29, pickRow, fixedIs, e0, e1, e2, f0, f1, Nat.reduceBEq, beq_self_eq_true, Bool.and_true, Bool.and_false, Bool.false_and, Bool.true_and, Bool.false_eq_true, if_true, if_false]

theorem word_tdrn (l : BitVec 2) (a : BitVec 6) (t : BitVec 8) (s : BitVec 1) (y : Nat) (hy : y = partsNat [(1, 1), (1, s.toNat), (6, 41), (8, t.toNat), (6, a.toNat), (6, 0), (2, l.toNat), (2, 2)]) :
    decode32 y = accept (.tdrn l a t s) := by
  have ok : partsOk [(1, 1), (1, s.toNat), (6, 41), (8, t.toNat), (6, a.toNat), (6, 0), (2, l.toNat), (2, 2)] := ⟨by decide, s.isLt, by decide, t.isLt, a.isLt, by decide, l.isLt, by decide, trivial⟩
  have e0 : bits y 28 2 = l := bits_of (part_at hy ok 6 rfl rfl)
  have e1 : bits y 16 6 = a := bits_of (part_at hy ok 4 rfl rfl)
  have e2 : bits y 8 8 = t := bits_of (part_at hy ok 3 rfl rfl)
  have e3 : bits y 1 1 = s := bits_of (part_at hy ok 1 rfl rfl)
  have f0 : field y 30 2 = 2 := part_in hy ok 7 0 rfl rfl rfl (by decide)
  have f1 : (field y 22 10 == 256) = false :=
    part_not (part_in hy ok 7 0 rfl rfl rfl (by decide) : field y 30 2 = 2) 8 rfl (by decide) (by decide)
  have f2 : field y 22 6 = 0 := part_in hy ok 5 0 rfl rfl rfl (by decide)
  have f3 : field y 30 2 = 2 := part_in hy ok 7 0 rfl rfl rfl (by decide)
  rw [row_Maj29 (part_in hy ok 2 0 rfl rfl rfl (by decide))]
  simp only [ofRow, rowMaj29, pickRow, fixedIs, e0, e1, e2, e3, f0, f1, f2, f3, Nat.reduceBEq, beq_self_eq_true, Bool.and_true, Bool.and_false, Bool.false_and, Bool.true_and, Bool.false_eq_true, if_true, if_false]

theorem word_tstat (d : BitVec 6) (t : BitVec 8) (s : BitVec 1) (y : Nat) (hy : y = partsNat [(1, 1), (1, s.toNat), (6, 41), (8, t.toNat), (6, 0), (6, d.toNat), (4, 12)]) :
    decode32 y = accept (.tstat d t s) := by
  have ok : partsOk [(1, 1), (1, s.toNat), (6, 41), (8, t.toNat), (6, 0), (6, d.toNat), (4, 12)] := ⟨by decide, s.isLt, by decide, t.isLt, by decide, d.isLt, by decide, trivial⟩
  have e0 : bits y 22 6 = d := bits_of (part_at hy ok 5 rfl rfl)
  have e1 : bits y 8 8 = t := bits_of (part_at hy ok 3 rfl rfl)
  have e2 : bits y 1 1 = s := bits_of (part_at hy ok 1 rfl rfl)
  have f0 : field y 30 2 = 3 := part_in hy ok 6 2 rfl rfl rfl (by decide)
  have f1 : (field y 22 10 == 256) = false :=
    part_not (part_in hy ok 6 0 rfl rfl rfl (by decide) : field y 28 4 = 12) 6 rfl (by decide) (by decide)
  have f2 : field y 30 2 = 3 := part_in hy ok 6 2 rfl rfl rfl (by decide)
  have f3 : field y 16 6 = 0 := part_in hy ok 4 0 rfl rfl rfl (by decide)
  have f4 : field y 28 4 = 12 := part_in hy ok 6 0 rfl rfl rfl (by decide)
  rw [row_Maj29 (part_in hy ok 2 0 rfl rfl rfl (by decide))]
  simp only [ofRow, rowMaj29, pickRow, fixedIs, e0, e1, e2, f0, f1, f2, f3, f4, Nat.reduceBEq, beq_self_eq_true, Bool.and_true, Bool.and_false, Bool.false_and, Bool.true_and, Bool.false_eq_true, if_true, if_false]

theorem word_cpy (l : BitVec 2) (c : BitVec 6) (b : BitVec 6) (a : BitVec 6) (s : BitVec 1) (y : Nat) (hy : y = partsNat [(1, 1), (1, s.toNat), (6, 42), (6, a.toNat), (6, b.toNat), (6, c.toNat), (3, 0), (2, l.toNat), (1, 0)]) :
    decode32 y = accept (.cpy l c b a s) := by
  have ok : partsOk [(1, 1), (1, s.toNat), (6, 42), (6, a.toNat), (6, b.toNat), (6, c.toNat), (3, 0), (2, l.toNat), (1, 0)] := ⟨by decide, s.isLt, by decide, a.isLt, b.isLt, c.isLt, by decide, l.isLt, by decide, trivial⟩
  have e0 : bits y 29 2 = l := bits_of (part_at hy ok 7 rfl rfl)
  have e1 : bits y 20 6 = c := bits_of (part_at hy ok 5 rfl rfl)
  have e2 : bits y 14 6 = b := bits_of (part_at hy ok 4 rfl rfl)
  have e3 : bits y 8 6 = a := bits_of (part_at hy ok 3 rfl rfl)
  have e4 : bits y 1 1 = s := bits_of (part_at hy ok 1 rfl rfl)
  have f0 : field y 26 3 = 0 := part_in hy ok 6 0 rfl rfl rfl (by decide)
  have f1 : field y 31 1 = 0 := part_in hy ok 8 0 rfl rfl rfl (by decide)
  rw [row_Maj2A (part_in hy ok 2 0 rfl rfl rfl (by decide))]
  simp only [ofRow, rowMaj2A, pickRow, fixedIs, e0, e1, e2, e3, e4, f0, f1, Nat.reduceBEq, beq_self_eq_true, Bool.and_true, Bool.and_false, Bool.false_and, Bool.true_and, Bool.false_eq_true, if_true, if_false]

theorem word_gth (l : BitVec 2) (c : BitVec 6) (b : BitVec 6) (a : BitVec 6) (s : BitVec 1) (y : Nat) (hy : y = partsNat [(1, 1), (1, s.toNat), (6, 43), (6, a.toNat), (6, b.toNat), (6, c.toNat), (3, 0), (2, l.toNat), (1, 0)]) :
    decode32 y = accept (.gth l c b a s) := by
  have ok : partsOk [(1, 1), (1, s.toNat), (6, 43), (6, a.toNat), (6, b.toNat), (6, c.toNat), (3, 0), (2, l.toNat), (1, 0)] := ⟨by decide, s.isLt, by decide, a.isLt, b.isLt, c.isLt, by decide, l.isLt, by decide, trivial⟩
  have e0 : bits y 29 2 = l := bits_of (part_at hy ok 7 rfl rfl)
  have e1 : bits y 20 6 = c := bits_of (part_at hy ok 5 rfl rfl)
  have e2 : bits y 14 6 = b := bits_of (part_at hy ok 4 rfl rfl)
  have e3 : bits y 8 6 = a := bits_of (part_at hy ok 3 rfl rfl)
  have e4 : bits y 1 1 = s := bits_of (part_at hy ok 1 rfl rfl)
  have f0 : field y 26 3 = 0 := part_in hy ok 6 0 rfl rfl rfl (by decide)
  have f1 : field y 31 1 = 0 := part_in hy ok 8 0 rfl rfl rfl (by decide)
  rw [row_Maj2B (part_in hy ok 2 0 rfl rfl rfl (by decide))]
  simp only [ofRow, rowMaj2B, pickRow, fixedIs, e0, e1, e2, e3, e4, f0, f1, Nat.reduceBEq, beq_self_eq_true, Bool.and_true, Bool.and_false, Bool.false_and, Bool.true_and, Bool.false_eq_true, if_true, if_false]

theorem word_sct (l : BitVec 2) (c : BitVec 6) (b : BitVec 6) (a : BitVec 6) (s : BitVec 1) (y : Nat) (hy : y = partsNat [(1, 1), (1, s.toNat), (6, 43), (6, a.toNat), (6, b.toNat), (6, c.toNat), (3, 1), (2, l.toNat), (1, 0)]) :
    decode32 y = accept (.sct l c b a s) := by
  have ok : partsOk [(1, 1), (1, s.toNat), (6, 43), (6, a.toNat), (6, b.toNat), (6, c.toNat), (3, 1), (2, l.toNat), (1, 0)] := ⟨by decide, s.isLt, by decide, a.isLt, b.isLt, c.isLt, by decide, l.isLt, by decide, trivial⟩
  have e0 : bits y 29 2 = l := bits_of (part_at hy ok 7 rfl rfl)
  have e1 : bits y 20 6 = c := bits_of (part_at hy ok 5 rfl rfl)
  have e2 : bits y 14 6 = b := bits_of (part_at hy ok 4 rfl rfl)
  have e3 : bits y 8 6 = a := bits_of (part_at hy ok 3 rfl rfl)
  have e4 : bits y 1 1 = s := bits_of (part_at hy ok 1 rfl rfl)
  have f0 : field y 26 3 = 1 := part_in hy ok 6 0 rfl rfl rfl (by decide)
  have f1 : field y 26 3 = 1 := part_in hy ok 6 0 rfl rfl rfl (by decide)
  have f2 : field y 31 1 = 0 := part_in hy ok 8 0 rfl rfl rfl (by decide)
  rw [row_Maj2B (part_in hy ok 2 0 rfl rfl rfl (by decide))]
  simp only [ofRow, rowMaj2B, pickRow, fixedIs, e0, e1, e2, e3, e4, f0, f1, f2, Nat.reduceBEq, beq_self_eq_true, Bool.and_true, Bool.and_false, Bool.false_and, Bool.true_and, Bool.false_eq_true, if_true, if_false]

theorem word_collSet (l : BitVec 2) (c : BitVec 6) (b : BitVec 6) (a : BitVec 6) (s : BitVec 1) (y : Nat) (hy : y = partsNat [(1, 1), (1, s.toNat), (6, 44), (6, a.toNat), (6, b.toNat), (6, c.toNat), (3, 0), (2, l.toNat), (1, 0)]) :
    decode32 y = accept (.collSet l c b a s) := by
  have ok : partsOk [(1, 1), (1, s.toNat), (6, 44), (6, a.toNat), (6, b.toNat), (6, c.toNat), (3, 0), (2, l.toNat), (1, 0)] := ⟨by decide, s.isLt, by decide, a.isLt, b.isLt, c.isLt, by decide, l.isLt, by decide, trivial⟩
  have e0 : bits y 29 2 = l := bits_of (part_at hy ok 7 rfl rfl)
  have e1 : bits y 20 6 = c := bits_of (part_at hy ok 5 rfl rfl)
  have e2 : bits y 14 6 = b := bits_of (part_at hy ok 4 rfl rfl)
  have e3 : bits y 8 6 = a := bits_of (part_at hy ok 3 rfl rfl)
  have e4 : bits y 1 1 = s := bits_of (part_at hy ok 1 rfl rfl)
  have f0 : field y 26 3 = 0 := part_in hy ok 6 0 rfl rfl rfl (by decide)
  have f1 : field y 31 1 = 0 := part_in hy ok 8 0 rfl rfl rfl (by decide)
  rw [row_Maj2C (part_in hy ok 2 0 rfl rfl rfl (by decide))]
  simp only [ofRow, rowMaj2C, pickRow, fixedIs, e0, e1, e2, e3, e4, f0, f1, Nat.reduceBEq, beq_self_eq_true, Bool.and_true, Bool.and_false, Bool.false_and, Bool.true_and, Bool.false_eq_true, if_true, if_false]

theorem word_collRun (l : BitVec 2) (c : BitVec 6) (b : BitVec 6) (a : BitVec 6) (s : BitVec 1) (y : Nat) (hy : y = partsNat [(1, 1), (1, s.toNat), (6, 44), (6, a.toNat), (6, b.toNat), (6, c.toNat), (3, 1), (2, l.toNat), (1, 0)]) :
    decode32 y = accept (.collRun l c b a s) := by
  have ok : partsOk [(1, 1), (1, s.toNat), (6, 44), (6, a.toNat), (6, b.toNat), (6, c.toNat), (3, 1), (2, l.toNat), (1, 0)] := ⟨by decide, s.isLt, by decide, a.isLt, b.isLt, c.isLt, by decide, l.isLt, by decide, trivial⟩
  have e0 : bits y 29 2 = l := bits_of (part_at hy ok 7 rfl rfl)
  have e1 : bits y 20 6 = c := bits_of (part_at hy ok 5 rfl rfl)
  have e2 : bits y 14 6 = b := bits_of (part_at hy ok 4 rfl rfl)
  have e3 : bits y 8 6 = a := bits_of (part_at hy ok 3 rfl rfl)
  have e4 : bits y 1 1 = s := bits_of (part_at hy ok 1 rfl rfl)
  have f0 : field y 26 3 = 1 := part_in hy ok 6 0 rfl rfl rfl (by decide)
  have f1 : field y 26 3 = 1 := part_in hy ok 6 0 rfl rfl rfl (by decide)
  have f2 : field y 31 1 = 0 := part_in hy ok 8 0 rfl rfl rfl (by decide)
  rw [row_Maj2C (part_in hy ok 2 0 rfl rfl rfl (by decide))]
  simp only [ofRow, rowMaj2C, pickRow, fixedIs, e0, e1, e2, e3, e4, f0, f1, f2, Nat.reduceBEq, beq_self_eq_true, Bool.and_true, Bool.and_false, Bool.false_and, Bool.true_and, Bool.false_eq_true, if_true, if_false]

theorem word_collStat (l : BitVec 2) (c : BitVec 6) (a : BitVec 6) (s : BitVec 1) (y : Nat) (hy : y = partsNat [(1, 1), (1, s.toNat), (6, 44), (6, a.toNat), (6, 0), (6, c.toNat), (3, 2), (2, l.toNat), (1, 0)]) :
    decode32 y = accept (.collStat l c a s) := by
  have ok : partsOk [(1, 1), (1, s.toNat), (6, 44), (6, a.toNat), (6, 0), (6, c.toNat), (3, 2), (2, l.toNat), (1, 0)] := ⟨by decide, s.isLt, by decide, a.isLt, by decide, c.isLt, by decide, l.isLt, by decide, trivial⟩
  have e0 : bits y 29 2 = l := bits_of (part_at hy ok 7 rfl rfl)
  have e1 : bits y 20 6 = c := bits_of (part_at hy ok 5 rfl rfl)
  have e2 : bits y 8 6 = a := bits_of (part_at hy ok 3 rfl rfl)
  have e3 : bits y 1 1 = s := bits_of (part_at hy ok 1 rfl rfl)
  have f0 : field y 26 3 = 2 := part_in hy ok 6 0 rfl rfl rfl (by decide)
  have f1 : field y 26 3 = 2 := part_in hy ok 6 0 rfl rfl rfl (by decide)
  have f2 : field y 14 6 = 0 := part_in hy ok 4 0 rfl rfl rfl (by decide)
  have f3 : field y 26 3 = 2 := part_in hy ok 6 0 rfl rfl rfl (by decide)
  have f4 : field y 31 1 = 0 := part_in hy ok 8 0 rfl rfl rfl (by decide)
  rw [row_Maj2C (part_in hy ok 2 0 rfl rfl rfl (by decide))]
  simp only [ofRow, rowMaj2C, pickRow, fixedIs, e0, e1, e2, e3, f0, f1, f2, f3, f4, Nat.reduceBEq, beq_self_eq_true, Bool.and_true, Bool.and_false, Bool.false_and, Bool.true_and, Bool.false_eq_true, if_true, if_false]

theorem word_pfi (a : BitVec 7) (s : BitVec 1) (y : Nat) (hy : y = partsNat [(1, 1), (1, s.toNat), (13, 45), (7, a.toNat), (10, 0)]) :
    decode32 y = accept (.pfi a s) := by
  have ok : partsOk [(1, 1), (1, s.toNat), (13, 45), (7, a.toNat), (10, 0)] := ⟨by decide, s.isLt, by decide, a.isLt, by decide, trivial⟩
  have e0 : bits y 15 7 = a := bits_of (part_at hy ok 3 rfl rfl)
  have e1 : bits y 1 1 = s := bits_of (part_at hy ok 1 rfl rfl)
  have f0 : field y 8 7 = 0 := part_in hy ok 2 6 rfl rfl rfl (by decide)
  have f1 : field y 22 10 = 0 := part_in hy ok 4 0 rfl rfl rfl (by decide)
  rw [row_Maj2D (part_in hy ok 2 0 rfl rfl rfl (by decide))]
  simp only [ofRow, rowMaj2D, pickRow, fixedIs, e0, e1, f0, f1, Nat.reduceBEq, beq_self_eq_true, Bool.and_true, Bool.and_false, Bool.false_and, Bool.true_and, Bool.false_eq_true, if_true, if_false]

theorem word_pfd (n : BitVec 7) (a : BitVec 7) (s : BitVec 1) (y : Nat) (hy : y = partsNat [(1, 1), (1, s.toNat), (13, 45), (7, a.toNat), (7, n.toNat), (3, 1)]) :
    decode32 y = accept (.pfd n a s) := by
  have ok : partsOk [(1, 1), (1, s.toNat), (13, 45), (7, a.toNat), (7, n.toNat), (3, 1)] := ⟨by decide, s.isLt, by decide, a.isLt, n.isLt, by decide, trivial⟩
  have e0 : bits y 22 7 = n := bits_of (part_at hy ok 4 rfl rfl)
  have e1 : bits y 15 7 = a := bits_of (part_at hy ok 3 rfl rfl)
  have e2 : bits y 1 1 = s := bits_of (part_at hy ok 1 rfl rfl)
  have f0 : (field y 22 10 == 0) = false :=
    part_not (part_in hy ok 5 0 rfl rfl rfl (by decide) : field y 29 3 = 1) 7 rfl (by decide) (by decide)
  have f1 : field y 8 7 = 0 := part_in hy ok 2 6 rfl rfl rfl (by decide)
  have f2 : field y 29 3 = 1 := part_in hy ok 5 0 rfl rfl rfl (by decide)
  rw [row_Maj2D (part_in hy ok 2 0 rfl rfl rfl (by decide))]
  simp only [ofRow, rowMaj2D, pickRow, fixedIs, e0, e1, e2, f0, f1, f2, Nat.reduceBEq, beq_self_eq_true, Bool.and_true, Bool.and_false, Bool.false_and, Bool.true_and, Bool.false_eq_true, if_true, if_false]

theorem word_dsc (n : BitVec 7) (a : BitVec 7) (s : BitVec 1) (y : Nat) (hy : y = partsNat [(1, 1), (1, s.toNat), (13, 45), (7, a.toNat), (7, n.toNat), (3, 2)]) :
    decode32 y = accept (.dsc n a s) := by
  have ok : partsOk [(1, 1), (1, s.toNat), (13, 45), (7, a.toNat), (7, n.toNat), (3, 2)] := ⟨by decide, s.isLt, by decide, a.isLt, n.isLt, by decide, trivial⟩
  have e0 : bits y 22 7 = n := bits_of (part_at hy ok 4 rfl rfl)
  have e1 : bits y 15 7 = a := bits_of (part_at hy ok 3 rfl rfl)
  have e2 : bits y 1 1 = s := bits_of (part_at hy ok 1 rfl rfl)
  have f0 : (field y 22 10 == 0) = false :=
    part_not (part_in hy ok 5 0 rfl rfl rfl (by decide) : field y 29 3 = 2) 7 rfl (by decide) (by decide)
  have f1 : field y 29 3 = 2 := part_in hy ok 5 0 rfl rfl rfl (by decide)
  have f2 : field y 8 7 = 0 := part_in hy ok 2 6 rfl rfl rfl (by decide)
  have f3 : field y 29 3 = 2 := part_in hy ok 5 0 rfl rfl rfl (by decide)
  rw [row_Maj2D (part_in hy ok 2 0 rfl rfl rfl (by decide))]
  simp only [ofRow, rowMaj2D, pickRow, fixedIs, e0, e1, e2, f0, f1, f2, f3, Nat.reduceBEq, beq_self_eq_true, Bool.and_true, Bool.and_false, Bool.false_and, Bool.true_and, Bool.false_eq_true, if_true, if_false]

theorem word_lstu (a : BitVec 7) (d : BitVec 7) (s : BitVec 1) (y : Nat) (hy : y = partsNat [(1, 1), (1, s.toNat), (6, 45), (7, d.toNat), (7, a.toNat), (10, 384)]) :
    decode32 y = accept (.lstu a d s) := by
  have ok : partsOk [(1, 1), (1, s.toNat), (6, 45), (7, d.toNat), (7, a.toNat), (10, 384)] := ⟨by decide, s.isLt, by decide, d.isLt, a.isLt, by decide, trivial⟩
  have e0 : bits y 15 7 = a := bits_of (part_at hy ok 4 rfl rfl)
  have e1 : bits y 8 7 = d := bits_of (part_at hy ok 3 rfl rfl)
  have e2 : bits y 1 1 = s := bits_of (part_at hy ok 1 rfl rfl)
  have f0 : field y 22 10 = 384 := part_in hy ok 5 0 rfl rfl rfl (by decide)
  have f1 : field y 29 3 = 3 := part_in hy ok 5 7 rfl rfl rfl (by decide)
  have f2 : field y 29 3 = 3 := part_in hy ok 5 7 rfl rfl rfl (by decide)
  have f3 : field y 22 10 = 384 := part_in hy ok 5 0 rfl rfl rfl (by decide)
  rw [row_Maj2D (part_in hy ok 2 0 rfl rfl rfl (by decide))]
  simp only [ofRow, rowMaj2D, pickRow, fixedIs, e0, e1, e2, f0, f1, f2, f3, Nat.reduceBEq, beq_self_eq_true, Bool.and_true, Bool.and_false, Bool.false_and, Bool.true_and, Bool.false_eq_true, if_true, if_false]

theorem word_wbk (n : BitVec 7) (a : BitVec 7) (s : BitVec 1) (y : Nat) (hy : y = partsNat [(1, 1), (1, s.toNat), (13, 45), (7, a.toNat), (7, n.toNat), (3, 4)]) :
    decode32 y = accept (.wbk n a s) := by
  have ok : partsOk [(1, 1), (1, s.toNat), (13, 45), (7, a.toNat), (7, n.toNat), (3, 4)] := ⟨by decide, s.isLt, by decide, a.isLt, n.isLt, by decide, trivial⟩
  have e0 : bits y 22 7 = n := bits_of (part_at hy ok 4 rfl rfl)
  have e1 : bits y 15 7 = a := bits_of (part_at hy ok 3 rfl rfl)
  have e2 : bits y 1 1 = s := bits_of (part_at hy ok 1 rfl rfl)
  have f0 : (field y 22 10 == 0) = false :=
    part_not (part_in hy ok 5 0 rfl rfl rfl (by decide) : field y 29 3 = 4) 7 rfl (by decide) (by decide)
  have f1 : field y 29 3 = 4 := part_in hy ok 5 0 rfl rfl rfl (by decide)
  have f2 : field y 29 3 = 4 := part_in hy ok 5 0 rfl rfl rfl (by decide)
  have f3 : (field y 22 10 == 384) = false :=
    part_not (part_in hy ok 5 0 rfl rfl rfl (by decide) : field y 29 3 = 4) 7 rfl (by decide) (by decide)
  have f4 : field y 8 7 = 0 := part_in hy ok 2 6 rfl rfl rfl (by decide)
  have f5 : field y 29 3 = 4 := part_in hy ok 5 0 rfl rfl rfl (by decide)
  rw [row_Maj2D (part_in hy ok 2 0 rfl rfl rfl (by decide))]
  simp only [ofRow, rowMaj2D, pickRow, fixedIs, e0, e1, e2, f0, f1, f2, f3, f4, f5, Nat.reduceBEq, beq_self_eq_true, Bool.and_true, Bool.and_false, Bool.false_and, Bool.true_and, Bool.false_eq_true, if_true, if_false]

theorem word_ownreg (b : BitVec 6) (a : BitVec 6) (s : BitVec 1) (y : Nat) (hy : y = partsNat [(1, 1), (1, s.toNat), (12, 46), (6, a.toNat), (6, b.toNat), (6, 0)]) :
    decode32 y = accept (.ownreg b a s) := by
  have ok : partsOk [(1, 1), (1, s.toNat), (12, 46), (6, a.toNat), (6, b.toNat), (6, 0)] := ⟨by decide, s.isLt, by decide, a.isLt, b.isLt, by decide, trivial⟩
  have e0 : bits y 20 6 = b := bits_of (part_at hy ok 4 rfl rfl)
  have e1 : bits y 14 6 = a := bits_of (part_at hy ok 3 rfl rfl)
  have e2 : bits y 1 1 = s := bits_of (part_at hy ok 1 rfl rfl)
  have f0 : field y 8 6 = 0 := part_in hy ok 2 6 rfl rfl rfl (by decide)
  have f1 : field y 26 6 = 0 := part_in hy ok 5 0 rfl rfl rfl (by decide)
  rw [row_Maj2E (part_in hy ok 2 0 rfl rfl rfl (by decide))]
  simp only [ofRow, rowMaj2E, pickRow, fixedIs, e0, e1, e2, f0, f1, Nat.reduceBEq, beq_self_eq_true, Bool.and_true, Bool.and_false, Bool.false_and, Bool.true_and, Bool.false_eq_true, if_true, if_false]

theorem word_ownclr (a : BitVec 6) (s : BitVec 1) (y : Nat) (hy : y = partsNat [(1, 1), (1, s.toNat), (12, 46), (6, a.toNat), (12, 64)]) :
    decode32 y = accept (.ownclr a s) := by
  have ok : partsOk [(1, 1), (1, s.toNat), (12, 46), (6, a.toNat), (12, 64)] := ⟨by decide, s.isLt, by decide, a.isLt, by decide, trivial⟩
  have e0 : bits y 14 6 = a := bits_of (part_at hy ok 3 rfl rfl)
  have e1 : bits y 1 1 = s := bits_of (part_at hy ok 1 rfl rfl)
  have f0 : field y 26 6 = 1 := part_in hy ok 4 6 rfl rfl rfl (by decide)
  have f1 : field y 8 6 = 0 := part_in hy ok 2 6 rfl rfl rfl (by decide)
  have f2 : field y 20 12 = 64 := part_in hy ok 4 0 rfl rfl rfl (by decide)
  rw [row_Maj2E (part_in hy ok 2 0 rfl rfl rfl (by decide))]
  simp only [ofRow, rowMaj2E, pickRow, fixedIs, e0, e1, f0, f1, f2, Nat.reduceBEq, beq_self_eq_true, Bool.and_true, Bool.and_false, Bool.false_and, Bool.true_and, Bool.false_eq_true, if_true, if_false]

theorem word_rga (n : BitVec 7) (d : BitVec 7) (s : BitVec 1) (y : Nat) (hy : y = partsNat [(1, 1), (1, s.toNat), (6, 47), (7, d.toNat), (7, n.toNat), (10, 0)]) :
    decode32 y = accept (.rga n d s) := by
  have ok : partsOk [(1, 1), (1, s.toNat), (6, 47), (7, d.toNat), (7, n.toNat), (10, 0)] := ⟨by decide, s.isLt, by decide, d.isLt, n.isLt, by decide, trivial⟩
  have e0 : bits y 15 7 = n := bits_of (part_at hy ok 4 rfl rfl)
  have e1 : bits y 8 7 = d := bits_of (part_at hy ok 3 rfl rfl)
  have e2 : bits y 1 1 = s := bits_of (part_at hy ok 1 rfl rfl)
  have f0 : field y 22 10 = 0 := part_in hy ok 5 0 rfl rfl rfl (by decide)
  rw [row_Maj2F (part_in hy ok 2 0 rfl rfl rfl (by decide))]
  simp only [ofRow, rowMaj2F, pickRow, fixedIs, e0, e1, e2, f0, Nat.reduceBEq, beq_self_eq_true, Bool.and_true, Bool.and_false, Bool.false_and, Bool.true_and, Bool.false_eq_true, if_true, if_false]

theorem word_omld (a : BitVec 6) (o : BitVec 4) (s : BitVec 1) (y : Nat) (hy : y = partsNat [(1, 1), (1, s.toNat), (6, 48), (4, o.toNat), (2, 0), (6, a.toNat), (12, 0)]) :
    decode32 y = accept (.omld a o s) := by
  have ok : partsOk [(1, 1), (1, s.toNat), (6, 48), (4, o.toNat), (2, 0), (6, a.toNat), (12, 0)] := ⟨by decide, s.isLt, by decide, o.isLt, by decide, a.isLt, by decide, trivial⟩
  have e0 : bits y 14 6 = a := bits_of (part_at hy ok 5 rfl rfl)
  have e1 : bits y 8 4 = o := bits_of (part_at hy ok 3 rfl rfl)
  have e2 : bits y 1 1 = s := bits_of (part_at hy ok 1 rfl rfl)
  have f0 : field y 12 2 = 0 := part_in hy ok 4 0 rfl rfl rfl (by decide)
  have f1 : field y 20 12 = 0 := part_in hy ok 6 0 rfl rfl rfl (by decide)
  rw [row_Maj30 (part_in hy ok 2 0 rfl rfl rfl (by decide))]
  simp only [ofRow, rowMaj30, pickRow, fixedIs, e0, e1, e2, f0, f1, Nat.reduceBEq, beq_self_eq_true, Bool.and_true, Bool.and_false, Bool.false_and, Bool.true_and, Bool.false_eq_true, if_true, if_false]

theorem word_mld (l : BitVec 2) (w : BitVec 2) (g : BitVec 3) (b : BitVec 6) (a : BitVec 6) (s : BitVec 1) (y : Nat) (hy : y = partsNat [(1, 1), (1, s.toNat), (6, 49), (6, a.toNat), (6, b.toNat), (3, g.toNat), (3, 0), (2, w.toNat), (2, l.toNat), (2, 0)]) :
    decode32 y = accept (.mld l w g b a s) := by
  have ok : partsOk [(1, 1), (1, s.toNat), (6, 49), (6, a.toNat), (6, b.toNat), (3, g.toNat), (3, 0), (2, w.toNat), (2, l.toNat), (2, 0)] := ⟨by decide, s.isLt, by decide, a.isLt, b.isLt, g.isLt, by decide, w.isLt, l.isLt, by decide, trivial⟩
  have e0 : bits y 28 2 = l := bits_of (part_at hy ok 8 rfl rfl)
  have e1 : bits y 26 2 = w := bits_of (part_at hy ok 7 rfl rfl)
  have e2 : bits y 20 3 = g := bits_of (part_at hy ok 5 rfl rfl)
  have e3 : bits y 14 6 = b := bits_of (part_at hy ok 4 rfl rfl)
  have e4 : bits y 8 6 = a := bits_of (part_at hy ok 3 rfl rfl)
  have e5 : bits y 1 1 = s := bits_of (part_at hy ok 1 rfl rfl)
  have f0 : field y 23 3 = 0 := part_in hy ok 6 0 rfl rfl rfl (by decide)
  have f1 : field y 30 2 = 0 := part_in hy ok 9 0 rfl rfl rfl (by decide)
  rw [row_Maj31 (part_in hy ok 2 0 rfl rfl rfl (by decide))]
  simp only [ofRow, rowMaj31, pickRow, fixedIs, e0, e1, e2, e3, e4, e5, f0, f1, Nat.reduceBEq, beq_self_eq_true, Bool.and_true, Bool.and_false, Bool.false_and, Bool.true_and, Bool.false_eq_true, if_true, if_false]

theorem word_mswp (l : BitVec 2) (s : BitVec 1) (y : Nat) (hy : y = partsNat [(1, 1), (1, s.toNat), (26, 49), (2, l.toNat), (2, 1)]) :
    decode32 y = accept (.mswp l s) := by
  have ok : partsOk [(1, 1), (1, s.toNat), (26, 49), (2, l.toNat), (2, 1)] := ⟨by decide, s.isLt, by decide, l.isLt, by decide, trivial⟩
  have e0 : bits y 28 2 = l := bits_of (part_at hy ok 3 rfl rfl)
  have e1 : bits y 1 1 = s := bits_of (part_at hy ok 1 rfl rfl)
  have f0 : field y 30 2 = 1 := part_in hy ok 4 0 rfl rfl rfl (by decide)
  have f1 : field y 8 20 = 0 := part_in hy ok 2 6 rfl rfl rfl (by decide)
  have f2 : field y 30 2 = 1 := part_in hy ok 4 0 rfl rfl rfl (by decide)
  rw [row_Maj31 (part_in hy ok 2 0 rfl rfl rfl (by decide))]
  simp only [ofRow, rowMaj31, pickRow, fixedIs, e0, e1, f0, f1, f2, Nat.reduceBEq, beq_self_eq_true, Bool.and_true, Bool.and_false, Bool.false_and, Bool.true_and, Bool.false_eq_true, if_true, if_false]

theorem word_mswpRel (l : BitVec 2) (s : BitVec 1) (y : Nat) (hy : y = partsNat [(1, 1), (1, s.toNat), (26, 16777265), (2, l.toNat), (2, 1)]) :
    decode32 y = accept (.mswpRel l s) := by
  have ok : partsOk [(1, 1), (1, s.toNat), (26, 16777265), (2, l.toNat), (2, 1)] := ⟨by decide, s.isLt, by decide, l.isLt, by decide, trivial⟩
  have e0 : bits y 28 2 = l := bits_of (part_at hy ok 3 rfl rfl)
  have e1 : bits y 1 1 = s := bits_of (part_at hy ok 1 rfl rfl)
  have f0 : field y 30 2 = 1 := part_in hy ok 4 0 rfl rfl rfl (by decide)
  have f1 : field y 8 20 = 262144 := part_in hy ok 2 6 rfl rfl rfl (by decide)
  have f2 : field y 8 20 = 262144 := part_in hy ok 2 6 rfl rfl rfl (by decide)
  have f3 : field y 30 2 = 1 := part_in hy ok 4 0 rfl rfl rfl (by decide)
  rw [row_Maj31 (part_in hy ok 2 0 rfl rfl rfl (by decide))]
  simp only [ofRow, rowMaj31, pickRow, fixedIs, e0, e1, f0, f1, f2, f3, Nat.reduceBEq, beq_self_eq_true, Bool.and_true, Bool.and_false, Bool.false_and, Bool.true_and, Bool.false_eq_true, if_true, if_false]

theorem word_mst (l : BitVec 2) (w : BitVec 2) (g : BitVec 6) (b : BitVec 6) (a : BitVec 6) (s : BitVec 1) (y : Nat) (hy : y = partsNat [(1, 1), (1, s.toNat), (6, 50), (6, a.toNat), (6, b.toNat), (6, g.toNat), (2, w.toNat), (2, l.toNat), (2, 0)]) :
    decode32 y = accept (.mst l w g b a s) := by
  have ok : partsOk [(1, 1), (1, s.toNat), (6, 50), (6, a.toNat), (6, b.toNat), (6, g.toNat), (2, w.toNat), (2, l.toNat), (2, 0)] := ⟨by decide, s.isLt, by decide, a.isLt, b.isLt, g.isLt, w.isLt, l.isLt, by decide, trivial⟩
  have e0 : bits y 28 2 = l := bits_of (part_at hy ok 7 rfl rfl)
  have e1 : bits y 26 2 = w := bits_of (part_at hy ok 6 rfl rfl)
  have e2 : bits y 20 6 = g := bits_of (part_at hy ok 5 rfl rfl)
  have e3 : bits y 14 6 = b := bits_of (part_at hy ok 4 rfl rfl)
  have e4 : bits y 8 6 = a := bits_of (part_at hy ok 3 rfl rfl)
  have e5 : bits y 1 1 = s := bits_of (part_at hy ok 1 rfl rfl)
  have f0 : field y 30 2 = 0 := part_in hy ok 8 0 rfl rfl rfl (by decide)
  rw [row_Maj32 (part_in hy ok 2 0 rfl rfl rfl (by decide))]
  simp only [ofRow, rowMaj32, pickRow, fixedIs, e0, e1, e2, e3, e4, e5, f0, Nat.reduceBEq, beq_self_eq_true, Bool.and_true, Bool.and_false, Bool.false_and, Bool.true_and, Bool.false_eq_true, if_true, if_false]

theorem word_mdr (l : BitVec 2) (w : BitVec 2) (g : BitVec 6) (b : BitVec 6) (a : BitVec 6) (s : BitVec 1) (y : Nat) (hy : y = partsNat [(1, 1), (1, s.toNat), (6, 51), (6, a.toNat), (6, b.toNat), (6, g.toNat), (2, w.toNat), (2, l.toNat), (2, 0)]) :
    decode32 y = accept (.mdr l w g b a s) := by
  have ok : partsOk [(1, 1), (1, s.toNat), (6, 51), (6, a.toNat), (6, b.toNat), (6, g.toNat), (2, w.toNat), (2, l.toNat), (2, 0)] := ⟨by decide, s.isLt, by decide, a.isLt, b.isLt, g.isLt, w.isLt, l.isLt, by decide, trivial⟩
  have e0 : bits y 28 2 = l := bits_of (part_at hy ok 7 rfl rfl)
  have e1 : bits y 26 2 = w := bits_of (part_at hy ok 6 rfl rfl)
  have e2 : bits y 20 6 = g := bits_of (part_at hy ok 5 rfl rfl)
  have e3 : bits y 14 6 = b := bits_of (part_at hy ok 4 rfl rfl)
  have e4 : bits y 8 6 = a := bits_of (part_at hy ok 3 rfl rfl)
  have e5 : bits y 1 1 = s := bits_of (part_at hy ok 1 rfl rfl)
  have f0 : field y 30 2 = 0 := part_in hy ok 8 0 rfl rfl rfl (by decide)
  rw [row_Maj33 (part_in hy ok 2 0 rfl rfl rfl (by decide))]
  simp only [ofRow, rowMaj33, pickRow, fixedIs, e0, e1, e2, e3, e4, e5, f0, Nat.reduceBEq, beq_self_eq_true, Bool.and_true, Bool.and_false, Bool.false_and, Bool.true_and, Bool.false_eq_true, if_true, if_false]

theorem word_mdrRed (l : BitVec 2) (w : BitVec 2) (g : BitVec 6) (b : BitVec 6) (a : BitVec 6) (s : BitVec 1) (y : Nat) (hy : y = partsNat [(1, 1), (1, s.toNat), (6, 51), (6, a.toNat), (6, b.toNat), (6, g.toNat), (2, w.toNat), (2, l.toNat), (2, 1)]) :
    decode32 y = accept (.mdrRed l w g b a s) := by
  have ok : partsOk [(1, 1), (1, s.toNat), (6, 51), (6, a.toNat), (6, b.toNat), (6, g.toNat), (2, w.toNat), (2, l.toNat), (2, 1)] := ⟨by decide, s.isLt, by decide, a.isLt, b.isLt, g.isLt, w.isLt, l.isLt, by decide, trivial⟩
  have e0 : bits y 28 2 = l := bits_of (part_at hy ok 7 rfl rfl)
  have e1 : bits y 26 2 = w := bits_of (part_at hy ok 6 rfl rfl)
  have e2 : bits y 20 6 = g := bits_of (part_at hy ok 5 rfl rfl)
  have e3 : bits y 14 6 = b := bits_of (part_at hy ok 4 rfl rfl)
  have e4 : bits y 8 6 = a := bits_of (part_at hy ok 3 rfl rfl)
  have e5 : bits y 1 1 = s := bits_of (part_at hy ok 1 rfl rfl)
  have f0 : field y 30 2 = 1 := part_in hy ok 8 0 rfl rfl rfl (by decide)
  have f1 : field y 30 2 = 1 := part_in hy ok 8 0 rfl rfl rfl (by decide)
  rw [row_Maj33 (part_in hy ok 2 0 rfl rfl rfl (by decide))]
  simp only [ofRow, rowMaj33, pickRow, fixedIs, e0, e1, e2, e3, e4, e5, f0, f1, Nat.reduceBEq, beq_self_eq_true, Bool.and_true, Bool.and_false, Bool.false_and, Bool.true_and, Bool.false_eq_true, if_true, if_false]

theorem word_accget (l : BitVec 2) (w : BitVec 2) (g : BitVec 6) (b : BitVec 6) (s : BitVec 1) (y : Nat) (hy : y = partsNat [(1, 1), (1, s.toNat), (12, 52), (6, b.toNat), (6, g.toNat), (2, w.toNat), (2, l.toNat), (2, 0)]) :
    decode32 y = accept (.accget l w g b s) := by
  have ok : partsOk [(1, 1), (1, s.toNat), (12, 52), (6, b.toNat), (6, g.toNat), (2, w.toNat), (2, l.toNat), (2, 0)] := ⟨by decide, s.isLt, by decide, b.isLt, g.isLt, w.isLt, l.isLt, by decide, trivial⟩
  have e0 : bits y 28 2 = l := bits_of (part_at hy ok 6 rfl rfl)
  have e1 : bits y 26 2 = w := bits_of (part_at hy ok 5 rfl rfl)
  have e2 : bits y 20 6 = g := bits_of (part_at hy ok 4 rfl rfl)
  have e3 : bits y 14 6 = b := bits_of (part_at hy ok 3 rfl rfl)
  have e4 : bits y 1 1 = s := bits_of (part_at hy ok 1 rfl rfl)
  have f0 : field y 8 6 = 0 := part_in hy ok 2 6 rfl rfl rfl (by decide)
  have f1 : field y 30 2 = 0 := part_in hy ok 7 0 rfl rfl rfl (by decide)
  rw [row_Maj34 (part_in hy ok 2 0 rfl rfl rfl (by decide))]
  simp only [ofRow, rowMaj34, pickRow, fixedIs, e0, e1, e2, e3, e4, f0, f1, Nat.reduceBEq, beq_self_eq_true, Bool.and_true, Bool.and_false, Bool.false_and, Bool.true_and, Bool.false_eq_true, if_true, if_false]

theorem word_accgetW (l : BitVec 2) (w : BitVec 2) (g : BitVec 6) (b : BitVec 6) (s : BitVec 1) (y : Nat) (hy : y = partsNat [(1, 1), (1, s.toNat), (12, 116), (6, b.toNat), (6, g.toNat), (2, w.toNat), (2, l.toNat), (2, 0)]) :
    decode32 y = accept (.accgetW l w g b s) := by
  have ok : partsOk [(1, 1), (1, s.toNat), (12, 116), (6, b.toNat), (6, g.toNat), (2, w.toNat), (2, l.toNat), (2, 0)] := ⟨by decide, s.isLt, by decide, b.isLt, g.isLt, w.isLt, l.isLt, by decide, trivial⟩
  have e0 : bits y 28 2 = l := bits_of (part_at hy ok 6 rfl rfl)
  have e1 : bits y 26 2 = w := bits_of (part_at hy ok 5 rfl rfl)
  have e2 : bits y 20 6 = g := bits_of (part_at hy ok 4 rfl rfl)
  have e3 : bits y 14 6 = b := bits_of (part_at hy ok 3 rfl rfl)
  have e4 : bits y 1 1 = s := bits_of (part_at hy ok 1 rfl rfl)
  have f0 : field y 8 6 = 1 := part_in hy ok 2 6 rfl rfl rfl (by decide)
  have f1 : field y 8 6 = 1 := part_in hy ok 2 6 rfl rfl rfl (by decide)
  have f2 : field y 30 2 = 0 := part_in hy ok 7 0 rfl rfl rfl (by decide)
  rw [row_Maj34 (part_in hy ok 2 0 rfl rfl rfl (by decide))]
  simp only [ofRow, rowMaj34, pickRow, fixedIs, e0, e1, e2, e3, e4, f0, f1, f2, Nat.reduceBEq, beq_self_eq_true, Bool.and_true, Bool.and_false, Bool.false_and, Bool.true_and, Bool.false_eq_true, if_true, if_false]

theorem word_accput (l : BitVec 2) (w : BitVec 2) (g : BitVec 6) (s : BitVec 1) (y : Nat) (hy : y = partsNat [(1, 1), (1, s.toNat), (18, 52), (6, g.toNat), (2, w.toNat), (2, l.toNat), (2, 1)]) :
    decode32 y = accept (.accput l w g s) := by
  have ok : partsOk [(1, 1), (1, s.toNat), (18, 52), (6, g.toNat), (2, w.toNat), (2, l.toNat), (2, 1)] := ⟨by decide, s.isLt, by decide, g.isLt, w.isLt, l.isLt, by decide, trivial⟩
  have e0 : bits y 28 2 = l := bits_of (part_at hy ok 5 rfl rfl)
  have e1 : bits y 26 2 = w := bits_of (part_at hy ok 4 rfl rfl)
  have e2 : bits y 20 6 = g := bits_of (part_at hy ok 3 rfl rfl)
  have e3 : bits y 1 1 = s := bits_of (part_at hy ok 1 rfl rfl)
  have f0 : field y 30 2 = 1 := part_in hy ok 6 0 rfl rfl rfl (by decide)
  have f1 : field y 8 6 = 0 := part_in hy ok 2 6 rfl rfl rfl (by decide)
  have f2 : field y 8 12 = 0 := part_in hy ok 2 6 rfl rfl rfl (by decide)
  have f3 : field y 30 2 = 1 := part_in hy ok 6 0 rfl rfl rfl (by decide)
  rw [row_Maj34 (part_in hy ok 2 0 rfl rfl rfl (by decide))]
  simp only [ofRow, rowMaj34, pickRow, fixedIs, e0, e1, e2, e3, f0, f1, f2, f3, Nat.reduceBEq, beq_self_eq_true, Bool.and_true, Bool.and_false, Bool.false_and, Bool.true_and, Bool.false_eq_true, if_true, if_false]

theorem word_accz (l : BitVec 2) (w : BitVec 2) (g : BitVec 6) (s : BitVec 1) (y : Nat) (hy : y = partsNat [(1, 1), (1, s.toNat), (18, 52), (6, g.toNat), (2, w.toNat), (2, l.toNat), (2, 2)]) :
    decode32 y = accept (.accz l w g s) := by
  have ok : partsOk [(1, 1), (1, s.toNat), (18, 52), (6, g.toNat), (2, w.toNat), (2, l.toNat), (2, 2)] := ⟨by decide, s.isLt, by decide, g.isLt, w.isLt, l.isLt, by decide, trivial⟩
  have e0 : bits y 28 2 = l := bits_of (part_at hy ok 5 rfl rfl)
  have e1 : bits y 26 2 = w := bits_of (part_at hy ok 4 rfl rfl)
  have e2 : bits y 20 6 = g := bits_of (part_at hy ok 3 rfl rfl)
  have e3 : bits y 1 1 = s := bits_of (part_at hy ok 1 rfl rfl)
  have f0 : field y 30 2 = 2 := part_in hy ok 6 0 rfl rfl rfl (by decide)
  have f1 : field y 8 6 = 0 := part_in hy ok 2 6 rfl rfl rfl (by decide)
  have f2 : field y 30 2 = 2 := part_in hy ok 6 0 rfl rfl rfl (by decide)
  have f3 : field y 8 12 = 0 := part_in hy ok 2 6 rfl rfl rfl (by decide)
  have f4 : field y 30 2 = 2 := part_in hy ok 6 0 rfl rfl rfl (by decide)
  rw [row_Maj34 (part_in hy ok 2 0 rfl rfl rfl (by decide))]
  simp only [ofRow, rowMaj34, pickRow, fixedIs, e0, e1, e2, e3, f0, f1, f2, f3, f4, Nat.reduceBEq, beq_self_eq_true, Bool.and_true, Bool.and_false, Bool.false_and, Bool.true_and, Bool.false_eq_true, if_true, if_false]

theorem word_accld (l : BitVec 2) (w : BitVec 2) (g : BitVec 6) (r : BitVec 5) (a : BitVec 6) (s : BitVec 1) (y : Nat) (hy : y = partsNat [(1, 1), (1, s.toNat), (6, 52), (6, a.toNat), (5, r.toNat), (1, 0), (6, g.toNat), (2, w.toNat), (2, l.toNat), (2, 3)]) :
    decode32 y = accept (.accld l w g r a s) := by
  have ok : partsOk [(1, 1), (1, s.toNat), (6, 52), (6, a.toNat), (5, r.toNat), (1, 0), (6, g.toNat), (2, w.toNat), (2, l.toNat), (2, 3)] := ⟨by decide, s.isLt, by decide, a.isLt, r.isLt, by decide, g.isLt, w.isLt, l.isLt, by decide, trivial⟩
  have e0 : bits y 28 2 = l := bits_of (part_at hy ok 8 rfl rfl)
  have e1 : bits y 26 2 = w := bits_of (part_at hy ok 7 rfl rfl)
  have e2 : bits y 20 6 = g := bits_of (part_at hy ok 6 rfl rfl)
  have e3 : bits y 14 5 = r := bits_of (part_at hy ok 4 rfl rfl)
  have e4 : bits y 8 6 = a := bits_of (part_at hy ok 3 rfl rfl)
  have e5 : bits y 1 1 = s := bits_of (part_at hy ok 1 rfl rfl)
  have f0 : field y 30 2 = 3 := part_in hy ok 9 0 rfl rfl rfl (by decide)
  have f1 : field y 30 2 = 3 := part_in hy ok 9 0 rfl rfl rfl (by decide)
  have f2 : field y 30 2 = 3 := part_in hy ok 9 0 rfl rfl rfl (by decide)
  have f3 : field y 19 1 = 0 := part_in hy ok 5 0 rfl rfl rfl (by decide)
  have f4 : field y 30 2 = 3 := part_in hy ok 9 0 rfl rfl rfl (by decide)
  rw [row_Maj34 (part_in hy ok 2 0 rfl rfl rfl (by decide))]
  simp only [ofRow, rowMaj34, pickRow, fixedIs, e0, e1, e2, e3, e4, e5, f0, f1, f2, f3, f4, Nat.reduceBEq, beq_self_eq_true, Bool.and_true, Bool.and_false, Bool.false_and, Bool.true_and, Bool.false_eq_true, if_true, if_false]

theorem word_accst (l : BitVec 2) (w : BitVec 2) (g : BitVec 6) (r : BitVec 5) (a : BitVec 6) (s : BitVec 1) (y : Nat) (hy : y = partsNat [(1, 1), (1, s.toNat), (6, 52), (6, a.toNat), (5, r.toNat), (1, 1), (6, g.toNat), (2, w.toNat), (2, l.toNat), (2, 3)]) :
    decode32 y = accept (.accst l w g r a s) := by
  have ok : partsOk [(1, 1), (1, s.toNat), (6, 52), (6, a.toNat), (5, r.toNat), (1, 1), (6, g.toNat), (2, w.toNat), (2, l.toNat), (2, 3)] := ⟨by decide, s.isLt, by decide, a.isLt, r.isLt, by decide, g.isLt, w.isLt, l.isLt, by decide, trivial⟩
  have e0 : bits y 28 2 = l := bits_of (part_at hy ok 8 rfl rfl)
  have e1 : bits y 26 2 = w := bits_of (part_at hy ok 7 rfl rfl)
  have e2 : bits y 20 6 = g := bits_of (part_at hy ok 6 rfl rfl)
  have e3 : bits y 14 5 = r := bits_of (part_at hy ok 4 rfl rfl)
  have e4 : bits y 8 6 = a := bits_of (part_at hy ok 3 rfl rfl)
  have e5 : bits y 1 1 = s := bits_of (part_at hy ok 1 rfl rfl)
  have f0 : field y 30 2 = 3 := part_in hy ok 9 0 rfl rfl rfl (by decide)
  have f1 : (field y 8 12 == 0) = false :=
    part_not (part_in hy ok 5 0 rfl rfl rfl (by decide) : field y 19 1 = 1) 11 rfl (by decide) (by decide)
  have f2 : field y 19 1 = 1 := part_in hy ok 5 0 rfl rfl rfl (by decide)
  have f3 : field y 19 1 = 1 := part_in hy ok 5 0 rfl rfl rfl (by decide)
  have f4 : field y 30 2 = 3 := part_in hy ok 9 0 rfl rfl rfl (by decide)
  rw [row_Maj34 (part_in hy ok 2 0 rfl rfl rfl (by decide))]
  simp only [ofRow, rowMaj34, pickRow, fixedIs, e0, e1, e2, e3, e4, e5, f0, f1, f2, f3, f4, Nat.reduceBEq, beq_self_eq_true, Bool.and_true, Bool.and_false, Bool.false_and, Bool.true_and, Bool.false_eq_true, if_true, if_false]

theorem word_tmm (l : BitVec 2) (w : BitVec 2) (g : BitVec 6) (b : BitVec 6) (a : BitVec 6) (s : BitVec 1) (y : Nat) (hy : y = partsNat [(1, 1), (1, s.toNat), (6, 53), (6, a.toNat), (6, b.toNat), (6, g.toNat), (2, w.toNat), (2, l.toNat), (2, 0)]) :
    decode32 y = accept (.tmm l w g b a s) := by
  have ok : partsOk [(1, 1), (1, s.toNat), (6, 53), (6, a.toNat), (6, b.toNat), (6, g.toNat), (2, w.toNat), (2, l.toNat), (2, 0)] := ⟨by decide, s.isLt, by decide, a.isLt, b.isLt, g.isLt, w.isLt, l.isLt, by decide, trivial⟩
  have e0 : bits y 28 2 = l := bits_of (part_at hy ok 7 rfl rfl)
  have e1 : bits y 26 2 = w := bits_of (part_at hy ok 6 rfl rfl)
  have e2 : bits y 20 6 = g := bits_of (part_at hy ok 5 rfl rfl)
  have e3 : bits y 14 6 = b := bits_of (part_at hy ok 4 rfl rfl)
  have e4 : bits y 8 6 = a := bits_of (part_at hy ok 3 rfl rfl)
  have e5 : bits y 1 1 = s := bits_of (part_at hy ok 1 rfl rfl)
  have f0 : field y 30 2 = 0 := part_in hy ok 8 0 rfl rfl rfl (by decide)
  rw [row_Maj35 (part_in hy ok 2 0 rfl rfl rfl (by decide))]
  simp only [ofRow, rowMaj35, pickRow, fixedIs, e0, e1, e2, e3, e4, e5, f0, Nat.reduceBEq, beq_self_eq_true, Bool.and_true, Bool.and_false, Bool.false_and, Bool.true_and, Bool.false_eq_true, if_true, if_false]

theorem word_tmmRed (l : BitVec 2) (w : BitVec 2) (g : BitVec 6) (b : BitVec 6) (a : BitVec 6) (s : BitVec 1) (y : Nat) (hy : y = partsNat [(1, 1), (1, s.toNat), (6, 53), (6, a.toNat), (6, b.toNat), (6, g.toNat), (2, w.toNat), (2, l.toNat), (2, 1)]) :
    decode32 y = accept (.tmmRed l w g b a s) := by
  have ok : partsOk [(1, 1), (1, s.toNat), (6, 53), (6, a.toNat), (6, b.toNat), (6, g.toNat), (2, w.toNat), (2, l.toNat), (2, 1)] := ⟨by decide, s.isLt, by decide, a.isLt, b.isLt, g.isLt, w.isLt, l.isLt, by decide, trivial⟩
  have e0 : bits y 28 2 = l := bits_of (part_at hy ok 7 rfl rfl)
  have e1 : bits y 26 2 = w := bits_of (part_at hy ok 6 rfl rfl)
  have e2 : bits y 20 6 = g := bits_of (part_at hy ok 5 rfl rfl)
  have e3 : bits y 14 6 = b := bits_of (part_at hy ok 4 rfl rfl)
  have e4 : bits y 8 6 = a := bits_of (part_at hy ok 3 rfl rfl)
  have e5 : bits y 1 1 = s := bits_of (part_at hy ok 1 rfl rfl)
  have f0 : field y 30 2 = 1 := part_in hy ok 8 0 rfl rfl rfl (by decide)
  have f1 : field y 30 2 = 1 := part_in hy ok 8 0 rfl rfl rfl (by decide)
  rw [row_Maj35 (part_in hy ok 2 0 rfl rfl rfl (by decide))]
  simp only [ofRow, rowMaj35, pickRow, fixedIs, e0, e1, e2, e3, e4, e5, f0, f1, Nat.reduceBEq, beq_self_eq_true, Bool.and_true, Bool.and_false, Bool.false_and, Bool.true_and, Bool.false_eq_true, if_true, if_false]

theorem word_sbeg (w : BitVec 2) (g : BitVec 6) (h : BitVec 6) (s : BitVec 1) (y : Nat) (hy : y = partsNat [(1, 1), (1, s.toNat), (12, 54), (6, h.toNat), (6, g.toNat), (2, w.toNat), (4, 0)]) :
    decode32 y = accept (.sbeg w g h s) := by
  have ok : partsOk [(1, 1), (1, s.toNat), (12, 54), (6, h.toNat), (6, g.toNat), (2, w.toNat), (4, 0)] := ⟨by decide, s.isLt, by decide, h.isLt, g.isLt, w.isLt, by decide, trivial⟩
  have e0 : bits y 26 2 = w := bits_of (part_at hy ok 5 rfl rfl)
  have e1 : bits y 20 6 = g := bits_of (part_at hy ok 4 rfl rfl)
  have e2 : bits y 14 6 = h := bits_of (part_at hy ok 3 rfl rfl)
  have e3 : bits y 1 1 = s := bits_of (part_at hy ok 1 rfl rfl)
  have f0 : field y 8 6 = 0 := part_in hy ok 2 6 rfl rfl rfl (by decide)
  have f1 : field y 28 4 = 0 := part_in hy ok 6 0 rfl rfl rfl (by decide)
  rw [row_Maj36 (part_in hy ok 2 0 rfl rfl rfl (by decide))]
  simp only [ofRow, rowMaj36, pickRow, fixedIs, e0, e1, e2, e3, f0, f1, Nat.reduceBEq, beq_self_eq_true, Bool.and_true, Bool.and_false, Bool.false_and, Bool.true_and, Bool.false_eq_true, if_true, if_false]

theorem word_scmt (s : BitVec 1) (y : Nat) (hy : y = partsNat [(1, 1), (1, s.toNat), (30, 268435510)]) :
    decode32 y = accept (.scmt s) := by
  have ok : partsOk [(1, 1), (1, s.toNat), (30, 268435510)] := ⟨by decide, s.isLt, by decide, trivial⟩
  have e0 : bits y 1 1 = s := bits_of (part_at hy ok 1 rfl rfl)
  have f0 : field y 28 4 = 4 := part_in hy ok 2 26 rfl rfl rfl (by decide)
  have f1 : field y 8 24 = 4194304 := part_in hy ok 2 6 rfl rfl rfl (by decide)
  rw [row_Maj36 (part_in hy ok 2 0 rfl rfl rfl (by decide))]
  simp only [ofRow, rowMaj36, pickRow, fixedIs, e0, f0, f1, Nat.reduceBEq, beq_self_eq_true, Bool.and_true, Bool.and_false, Bool.false_and, Bool.true_and, Bool.false_eq_true, if_true, if_false]

theorem word_sdis (s : BitVec 1) (y : Nat) (hy : y = partsNat [(1, 1), (1, s.toNat), (30, 536870966)]) :
    decode32 y = accept (.sdis s) := by
  have ok : partsOk [(1, 1), (1, s.toNat), (30, 536870966)] := ⟨by decide, s.isLt, by decide, trivial⟩
  have e0 : bits y 1 1 = s := bits_of (part_at hy ok 1 rfl rfl)
  have f0 : field y 28 4 = 8 := part_in hy ok 2 26 rfl rfl rfl (by decide)
  have f1 : field y 8 24 = 8388608 := part_in hy ok 2 6 rfl rfl rfl (by decide)
  have f2 : field y 8 24 = 8388608 := part_in hy ok 2 6 rfl rfl rfl (by decide)
  rw [row_Maj36 (part_in hy ok 2 0 rfl rfl rfl (by decide))]
  simp only [ofRow, rowMaj36, pickRow, fixedIs, e0, f0, f1, f2, Nat.reduceBEq, beq_self_eq_true, Bool.and_true, Bool.and_false, Bool.false_and, Bool.true_and, Bool.false_eq_true, if_true, if_false]

theorem word_rmax (l : BitVec 2) (i : BitVec 8) (c : BitVec 1) (d : BitVec 7) (s : BitVec 1) (y : Nat) (hy : y = partsNat [(1, 1), (1, s.toNat), (6, 55), (7, d.toNat), (3, 0), (1, c.toNat), (8, i.toNat), (2, l.toNat), (3, 0)]) :
    decode32 y = accept (.rmax l i c d s) := by
  have ok : partsOk [(1, 1), (1, s.toNat), (6, 55), (7, d.toNat), (3, 0), (1, c.toNat), (8, i.toNat), (2, l.toNat), (3, 0)] := ⟨by decide, s.isLt, by decide, d.isLt, by decide, c.isLt, i.isLt, l.isLt, by decide, trivial⟩
  have e0 : bits y 27 2 = l := bits_of (part_at hy ok 7 rfl rfl)
  have e1 : bits y 19 8 = i := bits_of (part_at hy ok 6 rfl rfl)
  have e2 : bits y 18 1 = c := bits_of (part_at hy ok 5 rfl rfl)
  have e3 : bits y 8 7 = d := bits_of (part_at hy ok 3 rfl rfl)
  have e4 : bits y 1 1 = s := bits_of (part_at hy ok 1 rfl rfl)
  have f0 : field y 15 3 = 0 := part_in hy ok 4 0 rfl rfl rfl (by decide)
  have f1 : field y 29 3 = 0 := part_in hy ok 8 0 rfl rfl rfl (by decide)
  rw [row_Maj37 (part_in hy ok 2 0 rfl rfl rfl (by decide))]
  simp only [ofRow, rowMaj37, pickRow, fixedIs, e0, e1, e2, e3, e4, f0, f1, Nat.reduceBEq, beq_self_eq_true, Bool.and_true, Bool.and_false, Bool.false_and, Bool.true_and, Bool.false_eq_true, if_true, if_false]

theorem word_rsum (l : BitVec 2) (i : BitVec 8) (c : BitVec 1) (d : BitVec 7) (s : BitVec 1) (y : Nat) (hy : y = partsNat [(1, 1), (1, s.toNat), (6, 55), (7, d.toNat), (3, 1), (1, c.toNat), (8, i.toNat), (2, l.toNat), (3, 0)]) :
    decode32 y = accept (.rsum l i c d s) := by
  have ok : partsOk [(1, 1), (1, s.toNat), (6, 55), (7, d.toNat), (3, 1), (1, c.toNat), (8, i.toNat), (2, l.toNat), (3, 0)] := ⟨by decide, s.isLt, by decide, d.isLt, by decide, c.isLt, i.isLt, l.isLt, by decide, trivial⟩
  have e0 : bits y 27 2 = l := bits_of (part_at hy ok 7 rfl rfl)
  have e1 : bits y 19 8 = i := bits_of (part_at hy ok 6 rfl rfl)
  have e2 : bits y 18 1 = c := bits_of (part_at hy ok 5 rfl rfl)
  have e3 : bits y 8 7 = d := bits_of (part_at hy ok 3 rfl rfl)
  have e4 : bits y 1 1 = s := bits_of (part_at hy ok 1 rfl rfl)
  have f0 : field y 15 3 = 1 := part_in hy ok 4 0 rfl rfl rfl (by decide)
  have f1 : field y 15 3 = 1 := part_in hy ok 4 0 rfl rfl rfl (by decide)
  have f2 : field y 29 3 = 0 := part_in hy ok 8 0 rfl rfl rfl (by decide)
  rw [row_Maj37 (part_in hy ok 2 0 rfl rfl rfl (by decide))]
  simp only [ofRow, rowMaj37, pickRow, fixedIs, e0, e1, e2, e3, e4, f0, f1, f2, Nat.reduceBEq, beq_self_eq_true, Bool.and_true, Bool.and_false, Bool.false_and, Bool.true_and, Bool.false_eq_true, if_true, if_false]

theorem word_rvar (l : BitVec 2) (i : BitVec 8) (c : BitVec 1) (d : BitVec 7) (s : BitVec 1) (y : Nat) (hy : y = partsNat [(1, 1), (1, s.toNat), (6, 55), (7, d.toNat), (3, 2), (1, c.toNat), (8, i.toNat), (2, l.toNat), (3, 0)]) :
    decode32 y = accept (.rvar l i c d s) := by
  have ok : partsOk [(1, 1), (1, s.toNat), (6, 55), (7, d.toNat), (3, 2), (1, c.toNat), (8, i.toNat), (2, l.toNat), (3, 0)] := ⟨by decide, s.isLt, by decide, d.isLt, by decide, c.isLt, i.isLt, l.isLt, by decide, trivial⟩
  have e0 : bits y 27 2 = l := bits_of (part_at hy ok 7 rfl rfl)
  have e1 : bits y 19 8 = i := bits_of (part_at hy ok 6 rfl rfl)
  have e2 : bits y 18 1 = c := bits_of (part_at hy ok 5 rfl rfl)
  have e3 : bits y 8 7 = d := bits_of (part_at hy ok 3 rfl rfl)
  have e4 : bits y 1 1 = s := bits_of (part_at hy ok 1 rfl rfl)
  have f0 : field y 15 3 = 2 := part_in hy ok 4 0 rfl rfl rfl (by decide)
  have f1 : field y 15 3 = 2 := part_in hy ok 4 0 rfl rfl rfl (by decide)
  have f2 : field y 15 3 = 2 := part_in hy ok 4 0 rfl rfl rfl (by decide)
  have f3 : field y 29 3 = 0 := part_in hy ok 8 0 rfl rfl rfl (by decide)
  rw [row_Maj37 (part_in hy ok 2 0 rfl rfl rfl (by decide))]
  simp only [ofRow, rowMaj37, pickRow, fixedIs, e0, e1, e2, e3, e4, f0, f1, f2, f3, Nat.reduceBEq, beq_self_eq_true, Bool.and_true, Bool.and_false, Bool.false_and, Bool.true_and, Bool.false_eq_true, if_true, if_false]

theorem word_rsmx (l : BitVec 2) (i : BitVec 8) (c : BitVec 1) (d : BitVec 7) (s : BitVec 1) (y : Nat) (hy : y = partsNat [(1, 1), (1, s.toNat), (6, 55), (7, d.toNat), (3, 3), (1, c.toNat), (8, i.toNat), (2, l.toNat), (3, 0)]) :
    decode32 y = accept (.rsmx l i c d s) := by
  have ok : partsOk [(1, 1), (1, s.toNat), (6, 55), (7, d.toNat), (3, 3), (1, c.toNat), (8, i.toNat), (2, l.toNat), (3, 0)] := ⟨by decide, s.isLt, by decide, d.isLt, by decide, c.isLt, i.isLt, l.isLt, by decide, trivial⟩
  have e0 : bits y 27 2 = l := bits_of (part_at hy ok 7 rfl rfl)
  have e1 : bits y 19 8 = i := bits_of (part_at hy ok 6 rfl rfl)
  have e2 : bits y 18 1 = c := bits_of (part_at hy ok 5 rfl rfl)
  have e3 : bits y 8 7 = d := bits_of (part_at hy ok 3 rfl rfl)
  have e4 : bits y 1 1 = s := bits_of (part_at hy ok 1 rfl rfl)
  have f0 : field y 15 3 = 3 := part_in hy ok 4 0 rfl rfl rfl (by decide)
  have f1 : field y 15 3 = 3 := part_in hy ok 4 0 rfl rfl rfl (by decide)
  have f2 : field y 15 3 = 3 := part_in hy ok 4 0 rfl rfl rfl (by decide)
  have f3 : field y 15 3 = 3 := part_in hy ok 4 0 rfl rfl rfl (by decide)
  have f4 : field y 29 3 = 0 := part_in hy ok 8 0 rfl rfl rfl (by decide)
  rw [row_Maj37 (part_in hy ok 2 0 rfl rfl rfl (by decide))]
  simp only [ofRow, rowMaj37, pickRow, fixedIs, e0, e1, e2, e3, e4, f0, f1, f2, f3, f4, Nat.reduceBEq, beq_self_eq_true, Bool.and_true, Bool.and_false, Bool.false_and, Bool.true_and, Bool.false_eq_true, if_true, if_false]

theorem word_rnorm (l : BitVec 2) (i : BitVec 8) (c : BitVec 1) (d : BitVec 7) (s : BitVec 1) (y : Nat) (hy : y = partsNat [(1, 1), (1, s.toNat), (6, 55), (7, d.toNat), (3, 4), (1, c.toNat), (8, i.toNat), (2, l.toNat), (3, 0)]) :
    decode32 y = accept (.rnorm l i c d s) := by
  have ok : partsOk [(1, 1), (1, s.toNat), (6, 55), (7, d.toNat), (3, 4), (1, c.toNat), (8, i.toNat), (2, l.toNat), (3, 0)] := ⟨by decide, s.isLt, by decide, d.isLt, by decide, c.isLt, i.isLt, l.isLt, by decide, trivial⟩
  have e0 : bits y 27 2 = l := bits_of (part_at hy ok 7 rfl rfl)
  have e1 : bits y 19 8 = i := bits_of (part_at hy ok 6 rfl rfl)
  have e2 : bits y 18 1 = c := bits_of (part_at hy ok 5 rfl rfl)
  have e3 : bits y 8 7 = d := bits_of (part_at hy ok 3 rfl rfl)
  have e4 : bits y 1 1 = s := bits_of (part_at hy ok 1 rfl rfl)
  have f0 : field y 15 3 = 4 := part_in hy ok 4 0 rfl rfl rfl (by decide)
  have f1 : field y 15 3 = 4 := part_in hy ok 4 0 rfl rfl rfl (by decide)
  have f2 : field y 15 3 = 4 := part_in hy ok 4 0 rfl rfl rfl (by decide)
  have f3 : field y 15 3 = 4 := part_in hy ok 4 0 rfl rfl rfl (by decide)
  have f4 : field y 15 3 = 4 := part_in hy ok 4 0 rfl rfl rfl (by decide)
  have f5 : field y 29 3 = 0 := part_in hy ok 8 0 rfl rfl rfl (by decide)
  rw [row_Maj37 (part_in hy ok 2 0 rfl rfl rfl (by decide))]
  simp only [ofRow, rowMaj37, pickRow, fixedIs, e0, e1, e2, e3, e4, f0, f1, f2, f3, f4, f5, Nat.reduceBEq, beq_self_eq_true, Bool.and_true, Bool.and_false, Bool.false_and, Bool.true_and, Bool.false_eq_true, if_true, if_false]

theorem accept_ok {i : Instr} (h : WellFormed i) : accept i = .ok i := by
  have h1 : wfErr i = none := h
  simp only [accept, h1]

theorem leNat_leBytes (n w : Nat) : leNat (leBytes n w) = w % 2 ^ (8 * n) := by
  induction n generalizing w with
  | zero => simp [leBytes, leNat, Nat.mod_one]
  | succ n ih =>
    have : 2 ^ (8 * (n + 1)) = 256 * 2 ^ (8 * n) := by rw [Nat.mul_add, Nat.pow_add]; omega
    simp only [leBytes, leNat, ih, BitVec.toNat_ofNat, this, Nat.mod_mul]
    omega

/-- Bytes of a word of 32 bits whose bit 0 is set decode as that word. -/
theorem decode_of_word32 {w : Nat} {i : Instr} (rest : List Byte) (hw : w < 2 ^ 32) (h1 : w % 2 = 1)
    (h : decode32 w = .ok i) : decode (leBytes 4 w ++ rest) = .ok (i, rest) := by
  have e := leNat_leBytes 4 w
  rw [Nat.mod_eq_of_lt (by omega)] at e
  simp only [leBytes] at e ⊢
  simp only [List.cons_append, List.nil_append, decode, BitVec.toNat_ofNat]
  rw [if_neg (by omega), e, h]

/-- Bytes of a halfword whose bit 0 is clear decode as that halfword. -/
theorem decode_of_word16 {w : Nat} {i : Instr} (rest : List Byte) (hw : w < 2 ^ 16) (h0 : w % 2 = 0)
    (h : decode16 w = .ok i) : decode (leBytes 2 w ++ rest) = .ok (i, rest) := by
  have e := leNat_leBytes 2 w
  rw [Nat.mod_eq_of_lt (by omega)] at e
  simp only [leBytes] at e ⊢
  simp only [List.cons_append, List.nil_append, decode, BitVec.toNat_ofNat]
  rw [if_pos (by omega), e, h]

end Sys2Proof
end

