-- ==== Sys2Proof/Laws/Tables.lean ====
section
/-! SUPPORT. Tables: what a read gives after a write, a deletion or a change, at the same key and at another. -/

namespace Sys2Proof.Machine

variable {α : Type}

theorem tabGet_put (k j : Nat) (v : α) (t : Tab α) : tabGet j (tabPut k v t) = if j = k then some v else tabGet j t := by
  induction t with
  | nil => simp [tabPut, tabGet, eq_comm]
  | cons x r ih =>
    obtain ⟨a, b⟩ := x
    simp only [tabPut]
    split
    · simp only [tabGet]
      by_cases h : j = k
      · simp [h]
      · simp [h, Ne.symm h]
    · split
      · rename_i h
        subst h
        simp only [tabGet]
        by_cases h : j = a
        · simp [h]
        · simp [h, Ne.symm h]
      · simp only [tabGet, ih]
        by_cases h : a = j
        · subst h
          simp [*]
        · simp [h]

@[simp] theorem tabGet_put_same (k : Nat) (v : α) (t : Tab α) : tabGet k (tabPut k v t) = some v := by
  simp [tabGet_put]

@[simp] theorem tabGet_put_other {k j : Nat} (v : α) (t : Tab α) (h : j ≠ k) : tabGet j (tabPut k v t) = tabGet j t := by
  simp [tabGet_put, h]

theorem tabGet_mod (k j : Nat) (f : α → α) (t : Tab α) :
    tabGet j (tabMod k f t) = if j = k then (tabGet j t).map f else tabGet j t := by
  induction t with
  | nil => simp [tabMod, tabGet]
  | cons x r ih =>
    obtain ⟨a, b⟩ := x
    simp only [tabMod]
    split
    · rename_i h
      subst h
      simp only [tabGet]
      by_cases h : j = a
      · simp [h]
      · simp [h, Ne.symm h]
    · simp only [tabGet, ih]
      by_cases h : a = j
      · subst h
        simp [*]
      · simp [h]

@[simp] theorem tabGet_mod_same (k : Nat) (f : α → α) (t : Tab α) : tabGet k (tabMod k f t) = (tabGet k t).map f := by
  simp [tabGet_mod]

@[simp] theorem tabGet_mod_other {k j : Nat} (f : α → α) (t : Tab α) (h : j ≠ k) : tabGet j (tabMod k f t) = tabGet j t := by
  simp [tabGet_mod, h]

@[simp] theorem tabGet_del_other {k j : Nat} (t : Tab α) (h : j ≠ k) : tabGet j (tabDel k t) = tabGet j t := by
  induction t with
  | nil => simp [tabDel, tabGet]
  | cons x r ih =>
    obtain ⟨a, b⟩ := x
    simp only [tabDel]
    split
    · rename_i h'
      subst h'
      simp [tabGet, Ne.symm h]
    · simp only [tabGet, ih]

theorem rising_mono {t : Tab α} {a b : Nat} (h : a ≤ b) (ht : Safety.rising t b) : Safety.rising t a := by
  cases t with
  | nil => trivial
  | cons x r => exact ⟨le_trans h ht.1, ht.2⟩

theorem rising_put {t : Tab α} {lo k : Nat} (v : α) (hk : lo ≤ k) (h : Safety.rising t lo) : Safety.rising (tabPut k v t) lo := by
  induction t generalizing lo with
  | nil => exact ⟨hk, trivial⟩
  | cons x r ih =>
    obtain ⟨a, b⟩ := x
    simp only [tabPut]
    split
    · exact ⟨hk, by assumption, h.2⟩
    · split
      · rename_i h'
        subst h'
        exact ⟨hk, h.2⟩
      · exact ⟨h.1, ih (by omega) h.2⟩

end Sys2Proof.Machine
end

