-- ==== Sys2Proof/Laws/Issue.lean ====
section
/-! SUPPORT. Issue: what an instruction that passes its checks comes to, and what its advance leaves as it was. -/

namespace Sys2Proof

open Machine

theorem Safety.arrives {i : Instr} {n : Nat} {s : State} {v : View} (h : Safety.underFault s v.gid = false) :
    faultArrival i n s v = .ok (s, v) := by
  cases n with
  | zero => rfl
  | succ n =>
    unfold faultArrival
    cases hg : v.gid with
    | kindle => rfl
    | warp c w =>
      rw [hg] at h
      simp only [Safety.underFault] at h
      cases hw : warpOf s c w with
      | none => simp only [hw]
      | some x =>
        simp only [hw, Option.bind_some] at h
        cases hs : x.splits with
        | nil => simp only [hw, hs]
        | cons e r =>
          simp only [hs, List.head?_cons, Option.any_some] at h
          simp [hw, hs, h]

theorem Safety.Issues.common {i : Instr} {s : State} {v : View} (h : Safety.Issues i s v) : commonTrap i s v = none := by
  have h1 := h.wellFormed
  have h2 := h.ownRegister
  have h3 := h.runLength
  have h4 := h.available
  have h5 := h.fullSet
  unfold commonTrap
  simp only [h.region, h.lehrRegion, h.inBlock]
  rw [if_neg, if_neg, if_neg, if_neg (by simp), if_neg, if_neg (by simp)]
  · grind
  · grind
  · grind
  · simp only [WellFormed] at h1
    simp only [h1, Option.isSome_none, Bool.false_or]
    cases i <;> first | exact Bool.false_ne_true | skip
    simp only [Safety.warpHeld] at h2
    grind

theorem Safety.Issues.unpoisoned {i : Instr} {s : State} {v : View} (h : Safety.Issues i s v) : poisonTrap i s v = none := by
  simp [poisonTrap, h.sound]

/-- An instruction that passes every check and whose own tests pass does what its effect says. -/
theorem Safety.Issues.does {i : Instr} {s : State} {v : View} (h : Safety.Issues i s v) {own : State → View → Option Trap}
    {pre : State → View → Option Did} {effect : State → View → Did} {t : State} {act : ParkAct} {idle : Nat}
    (ho : own s v = none) (hp : pre s v = none) (he : effect s v = .done t act idle) :
    issuePre i s own pre effect = .next (advance i t v act idle) := by
  unfold issuePre
  simp only [h.issuing, h.group]
  unfold issueAt
  rw [Safety.arrives h.noMerge]
  simp only
  unfold issueAs
  simp only [h.common, ho, h.slotFree, hp, h.unpoisoned, he, Bool.false_eq_true, if_false]
  by_cases hm : matrixMajor (majorOf i) = true
  · have := h.owner hm
    simp [hm, this.1, this.2]
  · simp [hm]

/-- An instruction whose effect is a trap, or whose own tests find one, raises it. -/
theorem Safety.Issues.traps {i : Instr} {s : State} {v : View} (h : Safety.Issues i s v) {own : State → View → Option Trap}
    {pre : State → View → Option Did} {effect : State → View → Did} {t : Trap}
    (ho : own s v = none) (hp : pre s v = none) (he : effect s v = .trap t) :
    issuePre i s own pre effect = .next (trapNow s v t) := by
  unfold issuePre
  simp only [h.issuing, h.group]
  unfold issueAt
  rw [Safety.arrives h.noMerge]
  simp only
  unfold issueAs
  simp only [h.common, ho, h.slotFree, hp, h.unpoisoned, he, Bool.false_eq_true, if_false]
  by_cases hm : matrixMajor (majorOf i) = true
  · have := h.owner hm
    simp [hm, this.1, this.2]
  · simp [hm]

end Sys2Proof
end

