-- ==== Sys2Proof/Laws/Groups.lean ====
section
/-! SUPPORT. Cores, warps, pools and ejected threads after the updates of issue: what each update changes and leaves, and the frame
of an instruction that only leaves results to become usable later. -/

namespace Sys2Proof.Machine

theorem tabPut_put {α : Type} (k : Nat) (v v' : α) (t : Tab α) : tabPut k v (tabPut k v' t) = tabPut k v t := by
  induction t with
  | nil => simp [tabPut]
  | cons x r ih =>
    obtain ⟨a, b⟩ := x
    simp only [tabPut]
    split
    · simp [tabPut]
    · split
      · simp [tabPut]
      · simp [tabPut, *]

theorem tabMod_mod {α : Type} (k : Nat) (f g : α → α) (t : Tab α) :
    tabMod k f (tabMod k g t) = tabMod k (fun x => f (g x)) t := by
  induction t with
  | nil => rfl
  | cons x r ih =>
    obtain ⟨a, b⟩ := x
    simp only [tabMod]
    split <;> simp [tabMod, *]

/-! ## Cores -/

@[simp] theorem coreOf_setCore (s : State) (c : Nat) (x : Core) : coreOf (setCore s c x) c = x := by
  simp [coreOf, setCore, tabGetD]

@[simp] theorem coreOf_modCore (s : State) (c : Nat) (f : Core → Core) : coreOf (modCore s c f) c = f (coreOf s c) := by
  simp [modCore]

theorem coreOf_modCore_other {c d : Nat} (s : State) (f : Core → Core) (h : d ≠ c) :
    coreOf (modCore s c f) d = coreOf s d := by
  simp [coreOf, modCore, setCore, tabGetD, h]

theorem modCore_modCore (s : State) (c : Nat) (f g : Core → Core) :
    modCore (modCore s c g) c f = modCore s c fun k => f (g k) := by
  simp [modCore, setCore, coreOf, tabGetD, tabPut_put]

theorem modWarp_modWarp (s : State) (c w : Nat) (f g : Warp → Warp) :
    modWarp (modWarp s c w g) c w f = modWarp s c w fun x => f (g x) := by
  simp [modWarp, modCore_modCore, tabMod_mod]

@[simp] theorem warpOf_modWarp (s : State) (c w : Nat) (f : Warp → Warp) :
    warpOf (modWarp s c w f) c w = (warpOf s c w).map f := by
  simp [warpOf, modWarp]

/-! ## Pools -/

@[simp] theorem poolOf_modPool (s : State) (c : Nat) (f : Pool → Pool) : poolOf (modPool s c f) c = f (poolOf s c) := by
  simp [poolOf, modPool, tabGetD]

theorem poolOf_modPool_other {c d : Nat} (s : State) (f : Pool → Pool) (h : d ≠ c) :
    poolOf (modPool s c f) d = poolOf s d := by
  simp [poolOf, modPool, tabGetD, h]

theorem modPool_modPool (s : State) (c : Nat) (f g : Pool → Pool) :
    modPool (modPool s c g) c f = modPool s c fun k => f (g k) := by
  simp [modPool, poolOf, tabGetD, tabPut_put]

theorem modEj_modEj (s : State) (c k : Nat) (f g : Ejected → Ejected) :
    modEj (modEj s c k g) c k f = modEj s c k fun x => f (g x) := by
  simp [modEj, modPool_modPool, tabMod_mod]

/-! ## One group -/

/-- Updates of one group compose. -/
theorem modRun_modRun (s : State) (g : Gid) (f h : Run → Run) : modRun (modRun s g h) g f = modRun s g fun r => f (h r) := by
  cases g <;> simp [modRun, modWarp_modWarp, modEj_modEj]

@[simp] theorem modRun_now (s : State) (g : Gid) (f : Run → Run) : (modRun s g f).now = s.now := by
  cases g <;> rfl

@[simp] theorem setPc_now (s : State) (g : Gid) (p : Pc) : (setPc s g p).now = s.now := by
  cases g <;> rfl

@[simp] theorem progress_now (s : State) (v : View) : (progress s v).now = s.now := by
  unfold progress
  cases v.gid <;> rfl

end Sys2Proof.Machine

namespace Sys2Proof

open Machine

/-- An update of a core that only touches one warp and the quadrants leaves everything but that group. -/
theorem Safety.onlyGroup_core (s : State) (c w : Nat) (F : Core → Core) (h : ∀ k, { F k with warps := k.warps, quads := k.quads } = k)
    (hw : ∀ k j, j ≠ w → tabGet j (F k).warps = tabGet j k.warps) : Safety.onlyGroup s (modCore s c F) (.warp c w) := by
  refine ⟨rfl, fun d hd => coreOf_modCore_other _ _ hd, ?_, fun k hk => ?_⟩
  · rw [coreOf_modCore]
    exact h _
  · rw [warpOf, coreOf_modCore, hw _ _ hk, warpOf]

/-- The same for a pool. -/
theorem Safety.onlyGroup_pool (s : State) (c k : Nat) (F : Pool → Pool) (h : ∀ p, { F p with slots := p.slots, last := p.last } = p)
    (hk : ∀ p j, j ≠ k → tabGet j (F p).slots = tabGet j p.slots) : Safety.onlyGroup s (modPool s c F) (.kindle c k) := by
  refine ⟨rfl, fun d hd => poolOf_modPool_other _ _ hd, ?_, fun j hj => ?_⟩
  · rw [poolOf_modPool]
    exact h _
  · rw [ejOf, poolOf_modPool, hk _ _ hj, ejOf]

theorem advance_warp {i : Instr} {s : State} {v : View} {act : ParkAct} {idle c w : Nat} (h : v.gid = .warp c w) :
    advance i s v act idle = modCore s c fun k =>
      { k with warps := tabMod w (fun x => { x with
                 pc := v.pc + BitVec.ofNat 48 (instrLength i)
                 run := { x.run with count := x.run.count + 1, nextAt := s.now + 1 + idle,
                                     status := if endsRun i then .parked act else .running } }) k.warps
               quads := k.quads.mapIdx fun j q =>
                 if j = w % 4 then { q with holder := if endsRun i then none else some w, nextAt := s.now + 1 + idle } else q } := by
  simp only [advance, useIssuer, h, setPc, modRun, modWarp, modCore_modCore, tabMod_mod]
  rfl

theorem advance_kindle {i : Instr} {s : State} {v : View} {act : ParkAct} {idle c k : Nat} (h : v.gid = .kindle c k) :
    advance i s v act idle = modPool s c fun p =>
      { p with slots := tabMod k (fun x => { x with
                 pc := v.pc + BitVec.ofNat 48 (instrLength i)
                 run := { x.run with count := x.run.count + 1, nextAt := s.now + 1 + idle,
                                     status := if endsRun i then .parked act else .running } }) p.slots
               last := tabPut (k % 16) (k, s.now + 1) p.last } := by
  simp only [advance, useIssuer, h, setPc, modRun, modEj, modPool_modPool, tabMod_mod]
  rfl

/-- The advance of a group whose run took writes to come, its spin detector cleared or not: the frame of Safety.Retired. -/
theorem Safety.retired_of {i : Instr} {s : State} {v : View} (hv : view s v.gid = some v) (lat : Nat) (ws : List PendWrite)
    (p : Bool) (hp : v.kc = true → p = false) :
    Safety.Retired i s (advance i (pendWrites (if p then progress s v else s) v.gid lat ws) v .next 0) v lat ws := by
  cases hg : v.gid with
  | warp c w =>
    rw [hg] at hv
    obtain ⟨x, hx, rfl⟩ : ∃ x, warpOf s c w = some x ∧ v = ⟨.warp c w, c, w, x.serial, x.unit, false, activeLanes x, x.pc, x.run, x.bsize, x.page⟩ := by
      cases hx : warpOf s c w with
      | none => simp [view, hx] at hv
      | some x => exact ⟨x, rfl, by simpa [view, hx, eq_comm] using hv⟩
    have hw : tabGet w (coreOf s c).warps = some x := hx
    cases p <;>
    · simp only [Bool.false_eq_true, if_false, if_true]
      rw [advance_warp rfl]
      simp only [pendWrites, progress, modRun, modWarp, modCore_modCore, tabMod_mod]
      refine ⟨Safety.onlyGroup_core _ _ _ _ (fun _ => rfl) (fun k j hj => by simp [hj]), ?_, ?_⟩
      · intro y hy
        have hy' : tabGet w (coreOf s c).warps = some y := hy
        rw [warpOf, coreOf_modCore, tabGet_mod_same, hy']
        exact ⟨_, rfl, rfl⟩
      · simp only [view, warpOf, coreOf_modCore, tabGet_mod_same, hw]
        rfl
  | kindle c k =>
    rw [hg] at hv
    cases hx : ejOf s c k with
    | none => simp [view, hx] at hv
    | some x =>
      have hk : v.kc = true := by
        simp only [view, hx, Option.some.injEq] at hv
        rw [← hv]
      have hvp : v.run = x.run := by
        simp only [view, hx, Option.some.injEq] at hv
        rw [← hv]
      have hw : tabGet k (poolOf s c).slots = some x := hx
      rw [hp hk]
      simp only [Bool.false_eq_true, if_false]
      rw [advance_kindle hg]
      simp only [pendWrites, modRun, modEj, modPool_modPool, tabMod_mod]
      refine ⟨hg ▸ Safety.onlyGroup_pool _ _ _ _ (fun _ => rfl) (fun p j hj => by simp [hj]), ?_, ?_⟩
      · rw [hg]
        intro y hy
        have hy' : tabGet k (poolOf s c).slots = some y := hy
        rw [ejOf, poolOf_modPool, tabGet_mod_same, hy']
        exact ⟨_, rfl, rfl⟩
      · simp only [view, hx, Option.some.injEq] at hv
        subst hv
        simp only [view, ejOf, poolOf_modPool, tabGet_mod_same, hw]
        rfl

end Sys2Proof
end

