-- ==== Sys2Proof/Laws/State.lean ====
section
/-! SUPPORT. What each update of the state leaves as it was: one lemma per field and update, true by definition. -/

namespace Sys2Proof.Machine

set_option Elab.async false

/-! ## setCore -/

@[simp] theorem setCore_now (s : State) (c : Nat) (x : Core) : (setCore s c x).now = s.now := rfl
@[simp] theorem setCore_cur (s : State) (c : Nat) (x : Core) : (setCore s c x).cur = s.cur := rfl
@[simp] theorem setCore_subj (s : State) (c : Nat) (x : Core) : (setCore s c x).subj = s.subj := rfl
@[simp] theorem setCore_agenda (s : State) (c : Nat) (x : Core) : (setCore s c x).agenda = s.agenda := rfl
@[simp] theorem setCore_inbox (s : State) (c : Nat) (x : Core) : (setCore s c x).inbox = s.inbox := rfl
@[simp] theorem setCore_fresh (s : State) (c : Nat) (x : Core) : (setCore s c x).fresh = s.fresh := rfl
@[simp] theorem setCore_lost (s : State) (c : Nat) (x : Core) : (setCore s c x).lost = s.lost := rfl
@[simp] theorem setCore_quanta (s : State) (c : Nat) (x : Core) : (setCore s c x).quanta = s.quanta := rfl
@[simp] theorem setCore_fnrdyLo (s : State) (c : Nat) (x : Core) : (setCore s c x).fnrdyLo = s.fnrdyLo := rfl
@[simp] theorem setCore_fnrdyHi (s : State) (c : Nat) (x : Core) : (setCore s c x).fnrdyHi = s.fnrdyHi := rfl
@[simp] theorem setCore_node (s : State) (c : Nat) (x : Core) : (setCore s c x).node = s.node := rfl
@[simp] theorem setCore_parts (s : State) (c : Nat) (x : Core) : (setCore s c x).parts = s.parts := rfl
@[simp] theorem setCore_mem (s : State) (c : Nat) (x : Core) : (setCore s c x).mem = s.mem := rfl
@[simp] theorem setCore_memPoison (s : State) (c : Nat) (x : Core) : (setCore s c x).memPoison = s.memPoison := rfl
@[simp] theorem setCore_hostMem (s : State) (c : Nat) (x : Core) : (setCore s c x).hostMem = s.hostMem := rfl
@[simp] theorem setCore_remoteMem (s : State) (c : Nat) (x : Core) : (setCore s c x).remoteMem = s.remoteMem := rfl
@[simp] theorem setCore_sliceTab (s : State) (c : Nat) (x : Core) : (setCore s c x).sliceTab = s.sliceTab := rfl
@[simp] theorem setCore_slicesLost (s : State) (c : Nat) (x : Core) : (setCore s c x).slicesLost = s.slicesLost := rfl
@[simp] theorem setCore_moves (s : State) (c : Nat) (x : Core) : (setCore s c x).moves = s.moves := rfl
@[simp] theorem setCore_l2 (s : State) (c : Nat) (x : Core) : (setCore s c x).l2 = s.l2 := rfl
@[simp] theorem setCore_syncLines (s : State) (c : Nat) (x : Core) : (setCore s c x).syncLines = s.syncLines := rfl
@[simp] theorem setCore_routes (s : State) (c : Nat) (x : Core) : (setCore s c x).routes = s.routes := rfl
@[simp] theorem setCore_routesPending (s : State) (c : Nat) (x : Core) : (setCore s c x).routesPending = s.routesPending := rfl
@[simp] theorem setCore_retiredClusters (s : State) (c : Nat) (x : Core) : (setCore s c x).retiredClusters = s.retiredClusters := rfl
@[simp] theorem setCore_retiredPairs (s : State) (c : Nat) (x : Core) : (setCore s c x).retiredPairs = s.retiredPairs := rfl
@[simp] theorem setCore_keys (s : State) (c : Nat) (x : Core) : (setCore s c x).keys = s.keys := rfl
@[simp] theorem setCore_ownerHash (s : State) (c : Nat) (x : Core) : (setCore s c x).ownerHash = s.ownerHash := rfl
@[simp] theorem setCore_block (s : State) (c : Nat) (x : Core) : (setCore s c x).block = s.block := rfl
@[simp] theorem setCore_memKeys (s : State) (c : Nat) (x : Core) : (setCore s c x).memKeys = s.memKeys := rfl
@[simp] theorem setCore_hostPages (s : State) (c : Nat) (x : Core) : (setCore s c x).hostPages = s.hostPages := rfl
@[simp] theorem setCore_reducers (s : State) (c : Nat) (x : Core) : (setCore s c x).reducers = s.reducers := rfl
@[simp] theorem setCore_rels (s : State) (c : Nat) (x : Core) : (setCore s c x).rels = s.rels := rfl
@[simp] theorem setCore_counts (s : State) (c : Nat) (x : Core) : (setCore s c x).counts = s.counts := rfl
@[simp] theorem setCore_pairErrs (s : State) (c : Nat) (x : Core) : (setCore s c x).pairErrs = s.pairErrs := rfl
@[simp] theorem setCore_linkUp (s : State) (c : Nat) (x : Core) : (setCore s c x).linkUp = s.linkUp := rfl
@[simp] theorem setCore_reports (s : State) (c : Nat) (x : Core) : (setCore s c x).reports = s.reports := rfl
@[simp] theorem setCore_blobs (s : State) (c : Nat) (x : Core) : (setCore s c x).blobs = s.blobs := rfl
@[simp] theorem setCore_pools (s : State) (c : Nat) (x : Core) : (setCore s c x).pools = s.pools := rfl
@[simp] theorem setCore_units (s : State) (c : Nat) (x : Core) : (setCore s c x).units = s.units := rfl
@[simp] theorem setCore_launches (s : State) (c : Nat) (x : Core) : (setCore s c x).launches = s.launches := rfl
@[simp] theorem setCore_insts (s : State) (c : Nat) (x : Core) : (setCore s c x).insts = s.insts := rfl
@[simp] theorem setCore_ended (s : State) (c : Nat) (x : Core) : (setCore s c x).ended = s.ended := rfl
@[simp] theorem setCore_reqs (s : State) (c : Nat) (x : Core) : (setCore s c x).reqs = s.reqs := rfl
@[simp] theorem setCore_pageReqs (s : State) (c : Nat) (x : Core) : (setCore s c x).pageReqs = s.pageReqs := rfl
@[simp] theorem setCore_walks (s : State) (c : Nat) (x : Core) : (setCore s c x).walks = s.walks := rfl
@[simp] theorem setCore_fills (s : State) (c : Nat) (x : Core) : (setCore s c x).fills = s.fills := rfl
@[simp] theorem setCore_cmds (s : State) (c : Nat) (x : Core) : (setCore s c x).cmds = s.cmds := rfl
@[simp] theorem setCore_engines (s : State) (c : Nat) (x : Core) : (setCore s c x).engines = s.engines := rfl
@[simp] theorem setCore_matOps (s : State) (c : Nat) (x : Core) : (setCore s c x).matOps = s.matOps := rfl
@[simp] theorem setCore_toStore (s : State) (c : Nat) (x : Core) : (setCore s c x).toStore = s.toStore := rfl
@[simp] theorem setCore_comms (s : State) (c : Nat) (x : Core) : (setCore s c x).comms = s.comms := rfl
@[simp] theorem setCore_fes (s : State) (c : Nat) (x : Core) : (setCore s c x).fes = s.fes := rfl
@[simp] theorem setCore_fns (s : State) (c : Nat) (x : Core) : (setCore s c x).fns = s.fns := rfl
@[simp] theorem setCore_ctxs (s : State) (c : Nat) (x : Core) : (setCore s c x).ctxs = s.ctxs := rfl
@[simp] theorem setCore_clocks (s : State) (c : Nat) (x : Core) : (setCore s c x).clocks = s.clocks := rfl
@[simp] theorem setCore_raceLog (s : State) (c : Nat) (x : Core) : (setCore s c x).raceLog = s.raceLog := rfl
@[simp] theorem setCore_pfBusy (s : State) (c : Nat) (x : Core) : (setCore s c x).pfBusy = s.pfBusy := rfl

/-! ## modCore -/

@[simp] theorem modCore_now (s : State) (c : Nat) (f : Core → Core) : (modCore s c f).now = s.now := rfl
@[simp] theorem modCore_cur (s : State) (c : Nat) (f : Core → Core) : (modCore s c f).cur = s.cur := rfl
@[simp] theorem modCore_subj (s : State) (c : Nat) (f : Core → Core) : (modCore s c f).subj = s.subj := rfl
@[simp] theorem modCore_agenda (s : State) (c : Nat) (f : Core → Core) : (modCore s c f).agenda = s.agenda := rfl
@[simp] theorem modCore_inbox (s : State) (c : Nat) (f : Core → Core) : (modCore s c f).inbox = s.inbox := rfl
@[simp] theorem modCore_fresh (s : State) (c : Nat) (f : Core → Core) : (modCore s c f).fresh = s.fresh := rfl
@[simp] theorem modCore_lost (s : State) (c : Nat) (f : Core → Core) : (modCore s c f).lost = s.lost := rfl
@[simp] theorem modCore_quanta (s : State) (c : Nat) (f : Core → Core) : (modCore s c f).quanta = s.quanta := rfl
@[simp] theorem modCore_fnrdyLo (s : State) (c : Nat) (f : Core → Core) : (modCore s c f).fnrdyLo = s.fnrdyLo := rfl
@[simp] theorem modCore_fnrdyHi (s : State) (c : Nat) (f : Core → Core) : (modCore s c f).fnrdyHi = s.fnrdyHi := rfl
@[simp] theorem modCore_node (s : State) (c : Nat) (f : Core → Core) : (modCore s c f).node = s.node := rfl
@[simp] theorem modCore_parts (s : State) (c : Nat) (f : Core → Core) : (modCore s c f).parts = s.parts := rfl
@[simp] theorem modCore_mem (s : State) (c : Nat) (f : Core → Core) : (modCore s c f).mem = s.mem := rfl
@[simp] theorem modCore_memPoison (s : State) (c : Nat) (f : Core → Core) : (modCore s c f).memPoison = s.memPoison := rfl
@[simp] theorem modCore_hostMem (s : State) (c : Nat) (f : Core → Core) : (modCore s c f).hostMem = s.hostMem := rfl
@[simp] theorem modCore_remoteMem (s : State) (c : Nat) (f : Core → Core) : (modCore s c f).remoteMem = s.remoteMem := rfl
@[simp] theorem modCore_sliceTab (s : State) (c : Nat) (f : Core → Core) : (modCore s c f).sliceTab = s.sliceTab := rfl
@[simp] theorem modCore_slicesLost (s : State) (c : Nat) (f : Core → Core) : (modCore s c f).slicesLost = s.slicesLost := rfl
@[simp] theorem modCore_moves (s : State) (c : Nat) (f : Core → Core) : (modCore s c f).moves = s.moves := rfl
@[simp] theorem modCore_l2 (s : State) (c : Nat) (f : Core → Core) : (modCore s c f).l2 = s.l2 := rfl
@[simp] theorem modCore_syncLines (s : State) (c : Nat) (f : Core → Core) : (modCore s c f).syncLines = s.syncLines := rfl
@[simp] theorem modCore_routes (s : State) (c : Nat) (f : Core → Core) : (modCore s c f).routes = s.routes := rfl
@[simp] theorem modCore_routesPending (s : State) (c : Nat) (f : Core → Core) : (modCore s c f).routesPending = s.routesPending := rfl
@[simp] theorem modCore_retiredClusters (s : State) (c : Nat) (f : Core → Core) : (modCore s c f).retiredClusters = s.retiredClusters := rfl
@[simp] theorem modCore_retiredPairs (s : State) (c : Nat) (f : Core → Core) : (modCore s c f).retiredPairs = s.retiredPairs := rfl
@[simp] theorem modCore_keys (s : State) (c : Nat) (f : Core → Core) : (modCore s c f).keys = s.keys := rfl
@[simp] theorem modCore_ownerHash (s : State) (c : Nat) (f : Core → Core) : (modCore s c f).ownerHash = s.ownerHash := rfl
@[simp] theorem modCore_block (s : State) (c : Nat) (f : Core → Core) : (modCore s c f).block = s.block := rfl
@[simp] theorem modCore_memKeys (s : State) (c : Nat) (f : Core → Core) : (modCore s c f).memKeys = s.memKeys := rfl
@[simp] theorem modCore_hostPages (s : State) (c : Nat) (f : Core → Core) : (modCore s c f).hostPages = s.hostPages := rfl
@[simp] theorem modCore_reducers (s : State) (c : Nat) (f : Core → Core) : (modCore s c f).reducers = s.reducers := rfl
@[simp] theorem modCore_rels (s : State) (c : Nat) (f : Core → Core) : (modCore s c f).rels = s.rels := rfl
@[simp] theorem modCore_counts (s : State) (c : Nat) (f : Core → Core) : (modCore s c f).counts = s.counts := rfl
@[simp] theorem modCore_pairErrs (s : State) (c : Nat) (f : Core → Core) : (modCore s c f).pairErrs = s.pairErrs := rfl
@[simp] theorem modCore_linkUp (s : State) (c : Nat) (f : Core → Core) : (modCore s c f).linkUp = s.linkUp := rfl
@[simp] theorem modCore_reports (s : State) (c : Nat) (f : Core → Core) : (modCore s c f).reports = s.reports := rfl
@[simp] theorem modCore_blobs (s : State) (c : Nat) (f : Core → Core) : (modCore s c f).blobs = s.blobs := rfl
@[simp] theorem modCore_pools (s : State) (c : Nat) (f : Core → Core) : (modCore s c f).pools = s.pools := rfl
@[simp] theorem modCore_units (s : State) (c : Nat) (f : Core → Core) : (modCore s c f).units = s.units := rfl
@[simp] theorem modCore_launches (s : State) (c : Nat) (f : Core → Core) : (modCore s c f).launches = s.launches := rfl
@[simp] theorem modCore_insts (s : State) (c : Nat) (f : Core → Core) : (modCore s c f).insts = s.insts := rfl
@[simp] theorem modCore_ended (s : State) (c : Nat) (f : Core → Core) : (modCore s c f).ended = s.ended := rfl
@[simp] theorem modCore_reqs (s : State) (c : Nat) (f : Core → Core) : (modCore s c f).reqs = s.reqs := rfl
@[simp] theorem modCore_pageReqs (s : State) (c : Nat) (f : Core → Core) : (modCore s c f).pageReqs = s.pageReqs := rfl
@[simp] theorem modCore_walks (s : State) (c : Nat) (f : Core → Core) : (modCore s c f).walks = s.walks := rfl
@[simp] theorem modCore_fills (s : State) (c : Nat) (f : Core → Core) : (modCore s c f).fills = s.fills := rfl
@[simp] theorem modCore_cmds (s : State) (c : Nat) (f : Core → Core) : (modCore s c f).cmds = s.cmds := rfl
@[simp] theorem modCore_engines (s : State) (c : Nat) (f : Core → Core) : (modCore s c f).engines = s.engines := rfl
@[simp] theorem modCore_matOps (s : State) (c : Nat) (f : Core → Core) : (modCore s c f).matOps = s.matOps := rfl
@[simp] theorem modCore_toStore (s : State) (c : Nat) (f : Core → Core) : (modCore s c f).toStore = s.toStore := rfl
@[simp] theorem modCore_comms (s : State) (c : Nat) (f : Core → Core) : (modCore s c f).comms = s.comms := rfl
@[simp] theorem modCore_fes (s : State) (c : Nat) (f : Core → Core) : (modCore s c f).fes = s.fes := rfl
@[simp] theorem modCore_fns (s : State) (c : Nat) (f : Core → Core) : (modCore s c f).fns = s.fns := rfl
@[simp] theorem modCore_ctxs (s : State) (c : Nat) (f : Core → Core) : (modCore s c f).ctxs = s.ctxs := rfl
@[simp] theorem modCore_clocks (s : State) (c : Nat) (f : Core → Core) : (modCore s c f).clocks = s.clocks := rfl
@[simp] theorem modCore_raceLog (s : State) (c : Nat) (f : Core → Core) : (modCore s c f).raceLog = s.raceLog := rfl
@[simp] theorem modCore_pfBusy (s : State) (c : Nat) (f : Core → Core) : (modCore s c f).pfBusy = s.pfBusy := rfl

/-! ## setWarp -/

@[simp] theorem setWarp_now (s : State) (c w : Nat) (x : Warp) : (setWarp s c w x).now = s.now := rfl
@[simp] theorem setWarp_cur (s : State) (c w : Nat) (x : Warp) : (setWarp s c w x).cur = s.cur := rfl
@[simp] theorem setWarp_subj (s : State) (c w : Nat) (x : Warp) : (setWarp s c w x).subj = s.subj := rfl
@[simp] theorem setWarp_agenda (s : State) (c w : Nat) (x : Warp) : (setWarp s c w x).agenda = s.agenda := rfl
@[simp] theorem setWarp_inbox (s : State) (c w : Nat) (x : Warp) : (setWarp s c w x).inbox = s.inbox := rfl
@[simp] theorem setWarp_fresh (s : State) (c w : Nat) (x : Warp) : (setWarp s c w x).fresh = s.fresh := rfl
@[simp] theorem setWarp_lost (s : State) (c w : Nat) (x : Warp) : (setWarp s c w x).lost = s.lost := rfl
@[simp] theorem setWarp_quanta (s : State) (c w : Nat) (x : Warp) : (setWarp s c w x).quanta = s.quanta := rfl
@[simp] theorem setWarp_fnrdyLo (s : State) (c w : Nat) (x : Warp) : (setWarp s c w x).fnrdyLo = s.fnrdyLo := rfl
@[simp] theorem setWarp_fnrdyHi (s : State) (c w : Nat) (x : Warp) : (setWarp s c w x).fnrdyHi = s.fnrdyHi := rfl
@[simp] theorem setWarp_node (s : State) (c w : Nat) (x : Warp) : (setWarp s c w x).node = s.node := rfl
@[simp] theorem setWarp_parts (s : State) (c w : Nat) (x : Warp) : (setWarp s c w x).parts = s.parts := rfl
@[simp] theorem setWarp_mem (s : State) (c w : Nat) (x : Warp) : (setWarp s c w x).mem = s.mem := rfl
@[simp] theorem setWarp_memPoison (s : State) (c w : Nat) (x : Warp) : (setWarp s c w x).memPoison = s.memPoison := rfl
@[simp] theorem setWarp_hostMem (s : State) (c w : Nat) (x : Warp) : (setWarp s c w x).hostMem = s.hostMem := rfl
@[simp] theorem setWarp_remoteMem (s : State) (c w : Nat) (x : Warp) : (setWarp s c w x).remoteMem = s.remoteMem := rfl
@[simp] theorem setWarp_sliceTab (s : State) (c w : Nat) (x : Warp) : (setWarp s c w x).sliceTab = s.sliceTab := rfl
@[simp] theorem setWarp_slicesLost (s : State) (c w : Nat) (x : Warp) : (setWarp s c w x).slicesLost = s.slicesLost := rfl
@[simp] theorem setWarp_moves (s : State) (c w : Nat) (x : Warp) : (setWarp s c w x).moves = s.moves := rfl
@[simp] theorem setWarp_l2 (s : State) (c w : Nat) (x : Warp) : (setWarp s c w x).l2 = s.l2 := rfl
@[simp] theorem setWarp_syncLines (s : State) (c w : Nat) (x : Warp) : (setWarp s c w x).syncLines = s.syncLines := rfl
@[simp] theorem setWarp_routes (s : State) (c w : Nat) (x : Warp) : (setWarp s c w x).routes = s.routes := rfl
@[simp] theorem setWarp_routesPending (s : State) (c w : Nat) (x : Warp) : (setWarp s c w x).routesPending = s.routesPending := rfl
@[simp] theorem setWarp_retiredClusters (s : State) (c w : Nat) (x : Warp) : (setWarp s c w x).retiredClusters = s.retiredClusters := rfl
@[simp] theorem setWarp_retiredPairs (s : State) (c w : Nat) (x : Warp) : (setWarp s c w x).retiredPairs = s.retiredPairs := rfl
@[simp] theorem setWarp_keys (s : State) (c w : Nat) (x : Warp) : (setWarp s c w x).keys = s.keys := rfl
@[simp] theorem setWarp_ownerHash (s : State) (c w : Nat) (x : Warp) : (setWarp s c w x).ownerHash = s.ownerHash := rfl
@[simp] theorem setWarp_block (s : State) (c w : Nat) (x : Warp) : (setWarp s c w x).block = s.block := rfl
@[simp] theorem setWarp_memKeys (s : State) (c w : Nat) (x : Warp) : (setWarp s c w x).memKeys = s.memKeys := rfl
@[simp] theorem setWarp_hostPages (s : State) (c w : Nat) (x : Warp) : (setWarp s c w x).hostPages = s.hostPages := rfl
@[simp] theorem setWarp_reducers (s : State) (c w : Nat) (x : Warp) : (setWarp s c w x).reducers = s.reducers := rfl
@[simp] theorem setWarp_rels (s : State) (c w : Nat) (x : Warp) : (setWarp s c w x).rels = s.rels := rfl
@[simp] theorem setWarp_counts (s : State) (c w : Nat) (x : Warp) : (setWarp s c w x).counts = s.counts := rfl
@[simp] theorem setWarp_pairErrs (s : State) (c w : Nat) (x : Warp) : (setWarp s c w x).pairErrs = s.pairErrs := rfl
@[simp] theorem setWarp_linkUp (s : State) (c w : Nat) (x : Warp) : (setWarp s c w x).linkUp = s.linkUp := rfl
@[simp] theorem setWarp_reports (s : State) (c w : Nat) (x : Warp) : (setWarp s c w x).reports = s.reports := rfl
@[simp] theorem setWarp_blobs (s : State) (c w : Nat) (x : Warp) : (setWarp s c w x).blobs = s.blobs := rfl
@[simp] theorem setWarp_pools (s : State) (c w : Nat) (x : Warp) : (setWarp s c w x).pools = s.pools := rfl
@[simp] theorem setWarp_units (s : State) (c w : Nat) (x : Warp) : (setWarp s c w x).units = s.units := rfl
@[simp] theorem setWarp_launches (s : State) (c w : Nat) (x : Warp) : (setWarp s c w x).launches = s.launches := rfl
@[simp] theorem setWarp_insts (s : State) (c w : Nat) (x : Warp) : (setWarp s c w x).insts = s.insts := rfl
@[simp] theorem setWarp_ended (s : State) (c w : Nat) (x : Warp) : (setWarp s c w x).ended = s.ended := rfl
@[simp] theorem setWarp_reqs (s : State) (c w : Nat) (x : Warp) : (setWarp s c w x).reqs = s.reqs := rfl
@[simp] theorem setWarp_pageReqs (s : State) (c w : Nat) (x : Warp) : (setWarp s c w x).pageReqs = s.pageReqs := rfl
@[simp] theorem setWarp_walks (s : State) (c w : Nat) (x : Warp) : (setWarp s c w x).walks = s.walks := rfl
@[simp] theorem setWarp_fills (s : State) (c w : Nat) (x : Warp) : (setWarp s c w x).fills = s.fills := rfl
@[simp] theorem setWarp_cmds (s : State) (c w : Nat) (x : Warp) : (setWarp s c w x).cmds = s.cmds := rfl
@[simp] theorem setWarp_engines (s : State) (c w : Nat) (x : Warp) : (setWarp s c w x).engines = s.engines := rfl
@[simp] theorem setWarp_matOps (s : State) (c w : Nat) (x : Warp) : (setWarp s c w x).matOps = s.matOps := rfl
@[simp] theorem setWarp_toStore (s : State) (c w : Nat) (x : Warp) : (setWarp s c w x).toStore = s.toStore := rfl
@[simp] theorem setWarp_comms (s : State) (c w : Nat) (x : Warp) : (setWarp s c w x).comms = s.comms := rfl
@[simp] theorem setWarp_fes (s : State) (c w : Nat) (x : Warp) : (setWarp s c w x).fes = s.fes := rfl
@[simp] theorem setWarp_fns (s : State) (c w : Nat) (x : Warp) : (setWarp s c w x).fns = s.fns := rfl
@[simp] theorem setWarp_ctxs (s : State) (c w : Nat) (x : Warp) : (setWarp s c w x).ctxs = s.ctxs := rfl
@[simp] theorem setWarp_clocks (s : State) (c w : Nat) (x : Warp) : (setWarp s c w x).clocks = s.clocks := rfl
@[simp] theorem setWarp_raceLog (s : State) (c w : Nat) (x : Warp) : (setWarp s c w x).raceLog = s.raceLog := rfl
@[simp] theorem setWarp_pfBusy (s : State) (c w : Nat) (x : Warp) : (setWarp s c w x).pfBusy = s.pfBusy := rfl

/-! ## modWarp -/

@[simp] theorem modWarp_now (s : State) (c w : Nat) (f : Warp → Warp) : (modWarp s c w f).now = s.now := rfl
@[simp] theorem modWarp_cur (s : State) (c w : Nat) (f : Warp → Warp) : (modWarp s c w f).cur = s.cur := rfl
@[simp] theorem modWarp_subj (s : State) (c w : Nat) (f : Warp → Warp) : (modWarp s c w f).subj = s.subj := rfl
@[simp] theorem modWarp_agenda (s : State) (c w : Nat) (f : Warp → Warp) : (modWarp s c w f).agenda = s.agenda := rfl
@[simp] theorem modWarp_inbox (s : State) (c w : Nat) (f : Warp → Warp) : (modWarp s c w f).inbox = s.inbox := rfl
@[simp] theorem modWarp_fresh (s : State) (c w : Nat) (f : Warp → Warp) : (modWarp s c w f).fresh = s.fresh := rfl
@[simp] theorem modWarp_lost (s : State) (c w : Nat) (f : Warp → Warp) : (modWarp s c w f).lost = s.lost := rfl
@[simp] theorem modWarp_quanta (s : State) (c w : Nat) (f : Warp → Warp) : (modWarp s c w f).quanta = s.quanta := rfl
@[simp] theorem modWarp_fnrdyLo (s : State) (c w : Nat) (f : Warp → Warp) : (modWarp s c w f).fnrdyLo = s.fnrdyLo := rfl
@[simp] theorem modWarp_fnrdyHi (s : State) (c w : Nat) (f : Warp → Warp) : (modWarp s c w f).fnrdyHi = s.fnrdyHi := rfl
@[simp] theorem modWarp_node (s : State) (c w : Nat) (f : Warp → Warp) : (modWarp s c w f).node = s.node := rfl
@[simp] theorem modWarp_parts (s : State) (c w : Nat) (f : Warp → Warp) : (modWarp s c w f).parts = s.parts := rfl
@[simp] theorem modWarp_mem (s : State) (c w : Nat) (f : Warp → Warp) : (modWarp s c w f).mem = s.mem := rfl
@[simp] theorem modWarp_memPoison (s : State) (c w : Nat) (f : Warp → Warp) : (modWarp s c w f).memPoison = s.memPoison := rfl
@[simp] theorem modWarp_hostMem (s : State) (c w : Nat) (f : Warp → Warp) : (modWarp s c w f).hostMem = s.hostMem := rfl
@[simp] theorem modWarp_remoteMem (s : State) (c w : Nat) (f : Warp → Warp) : (modWarp s c w f).remoteMem = s.remoteMem := rfl
@[simp] theorem modWarp_sliceTab (s : State) (c w : Nat) (f : Warp → Warp) : (modWarp s c w f).sliceTab = s.sliceTab := rfl
@[simp] theorem modWarp_slicesLost (s : State) (c w : Nat) (f : Warp → Warp) : (modWarp s c w f).slicesLost = s.slicesLost := rfl
@[simp] theorem modWarp_moves (s : State) (c w : Nat) (f : Warp → Warp) : (modWarp s c w f).moves = s.moves := rfl
@[simp] theorem modWarp_l2 (s : State) (c w : Nat) (f : Warp → Warp) : (modWarp s c w f).l2 = s.l2 := rfl
@[simp] theorem modWarp_syncLines (s : State) (c w : Nat) (f : Warp → Warp) : (modWarp s c w f).syncLines = s.syncLines := rfl
@[simp] theorem modWarp_routes (s : State) (c w : Nat) (f : Warp → Warp) : (modWarp s c w f).routes = s.routes := rfl
@[simp] theorem modWarp_routesPending (s : State) (c w : Nat) (f : Warp → Warp) : (modWarp s c w f).routesPending = s.routesPending := rfl
@[simp] theorem modWarp_retiredClusters (s : State) (c w : Nat) (f : Warp → Warp) : (modWarp s c w f).retiredClusters = s.retiredClusters := rfl
@[simp] theorem modWarp_retiredPairs (s : State) (c w : Nat) (f : Warp → Warp) : (modWarp s c w f).retiredPairs = s.retiredPairs := rfl
@[simp] theorem modWarp_keys (s : State) (c w : Nat) (f : Warp → Warp) : (modWarp s c w f).keys = s.keys := rfl
@[simp] theorem modWarp_ownerHash (s : State) (c w : Nat) (f : Warp → Warp) : (modWarp s c w f).ownerHash = s.ownerHash := rfl
@[simp] theorem modWarp_block (s : State) (c w : Nat) (f : Warp → Warp) : (modWarp s c w f).block = s.block := rfl
@[simp] theorem modWarp_memKeys (s : State) (c w : Nat) (f : Warp → Warp) : (modWarp s c w f).memKeys = s.memKeys := rfl
@[simp] theorem modWarp_hostPages (s : State) (c w : Nat) (f : Warp → Warp) : (modWarp s c w f).hostPages = s.hostPages := rfl
@[simp] theorem modWarp_reducers (s : State) (c w : Nat) (f : Warp → Warp) : (modWarp s c w f).reducers = s.reducers := rfl
@[simp] theorem modWarp_rels (s : State) (c w : Nat) (f : Warp → Warp) : (modWarp s c w f).rels = s.rels := rfl
@[simp] theorem modWarp_counts (s : State) (c w : Nat) (f : Warp → Warp) : (modWarp s c w f).counts = s.counts := rfl
@[simp] theorem modWarp_pairErrs (s : State) (c w : Nat) (f : Warp → Warp) : (modWarp s c w f).pairErrs = s.pairErrs := rfl
@[simp] theorem modWarp_linkUp (s : State) (c w : Nat) (f : Warp → Warp) : (modWarp s c w f).linkUp = s.linkUp := rfl
@[simp] theorem modWarp_reports (s : State) (c w : Nat) (f : Warp → Warp) : (modWarp s c w f).reports = s.reports := rfl
@[simp] theorem modWarp_blobs (s : State) (c w : Nat) (f : Warp → Warp) : (modWarp s c w f).blobs = s.blobs := rfl
@[simp] theorem modWarp_pools (s : State) (c w : Nat) (f : Warp → Warp) : (modWarp s c w f).pools = s.pools := rfl
@[simp] theorem modWarp_units (s : State) (c w : Nat) (f : Warp → Warp) : (modWarp s c w f).units = s.units := rfl
@[simp] theorem modWarp_launches (s : State) (c w : Nat) (f : Warp → Warp) : (modWarp s c w f).launches = s.launches := rfl
@[simp] theorem modWarp_insts (s : State) (c w : Nat) (f : Warp → Warp) : (modWarp s c w f).insts = s.insts := rfl
@[simp] theorem modWarp_ended (s : State) (c w : Nat) (f : Warp → Warp) : (modWarp s c w f).ended = s.ended := rfl
@[simp] theorem modWarp_reqs (s : State) (c w : Nat) (f : Warp → Warp) : (modWarp s c w f).reqs = s.reqs := rfl
@[simp] theorem modWarp_pageReqs (s : State) (c w : Nat) (f : Warp → Warp) : (modWarp s c w f).pageReqs = s.pageReqs := rfl
@[simp] theorem modWarp_walks (s : State) (c w : Nat) (f : Warp → Warp) : (modWarp s c w f).walks = s.walks := rfl
@[simp] theorem modWarp_fills (s : State) (c w : Nat) (f : Warp → Warp) : (modWarp s c w f).fills = s.fills := rfl
@[simp] theorem modWarp_cmds (s : State) (c w : Nat) (f : Warp → Warp) : (modWarp s c w f).cmds = s.cmds := rfl
@[simp] theorem modWarp_engines (s : State) (c w : Nat) (f : Warp → Warp) : (modWarp s c w f).engines = s.engines := rfl
@[simp] theorem modWarp_matOps (s : State) (c w : Nat) (f : Warp → Warp) : (modWarp s c w f).matOps = s.matOps := rfl
@[simp] theorem modWarp_toStore (s : State) (c w : Nat) (f : Warp → Warp) : (modWarp s c w f).toStore = s.toStore := rfl
@[simp] theorem modWarp_comms (s : State) (c w : Nat) (f : Warp → Warp) : (modWarp s c w f).comms = s.comms := rfl
@[simp] theorem modWarp_fes (s : State) (c w : Nat) (f : Warp → Warp) : (modWarp s c w f).fes = s.fes := rfl
@[simp] theorem modWarp_fns (s : State) (c w : Nat) (f : Warp → Warp) : (modWarp s c w f).fns = s.fns := rfl
@[simp] theorem modWarp_ctxs (s : State) (c w : Nat) (f : Warp → Warp) : (modWarp s c w f).ctxs = s.ctxs := rfl
@[simp] theorem modWarp_clocks (s : State) (c w : Nat) (f : Warp → Warp) : (modWarp s c w f).clocks = s.clocks := rfl
@[simp] theorem modWarp_raceLog (s : State) (c w : Nat) (f : Warp → Warp) : (modWarp s c w f).raceLog = s.raceLog := rfl
@[simp] theorem modWarp_pfBusy (s : State) (c w : Nat) (f : Warp → Warp) : (modWarp s c w f).pfBusy = s.pfBusy := rfl

/-! ## modPool -/

@[simp] theorem modPool_now (s : State) (c : Nat) (f : Pool → Pool) : (modPool s c f).now = s.now := rfl
@[simp] theorem modPool_cur (s : State) (c : Nat) (f : Pool → Pool) : (modPool s c f).cur = s.cur := rfl
@[simp] theorem modPool_subj (s : State) (c : Nat) (f : Pool → Pool) : (modPool s c f).subj = s.subj := rfl
@[simp] theorem modPool_agenda (s : State) (c : Nat) (f : Pool → Pool) : (modPool s c f).agenda = s.agenda := rfl
@[simp] theorem modPool_inbox (s : State) (c : Nat) (f : Pool → Pool) : (modPool s c f).inbox = s.inbox := rfl
@[simp] theorem modPool_fresh (s : State) (c : Nat) (f : Pool → Pool) : (modPool s c f).fresh = s.fresh := rfl
@[simp] theorem modPool_lost (s : State) (c : Nat) (f : Pool → Pool) : (modPool s c f).lost = s.lost := rfl
@[simp] theorem modPool_quanta (s : State) (c : Nat) (f : Pool → Pool) : (modPool s c f).quanta = s.quanta := rfl
@[simp] theorem modPool_fnrdyLo (s : State) (c : Nat) (f : Pool → Pool) : (modPool s c f).fnrdyLo = s.fnrdyLo := rfl
@[simp] theorem modPool_fnrdyHi (s : State) (c : Nat) (f : Pool → Pool) : (modPool s c f).fnrdyHi = s.fnrdyHi := rfl
@[simp] theorem modPool_node (s : State) (c : Nat) (f : Pool → Pool) : (modPool s c f).node = s.node := rfl
@[simp] theorem modPool_parts (s : State) (c : Nat) (f : Pool → Pool) : (modPool s c f).parts = s.parts := rfl
@[simp] theorem modPool_mem (s : State) (c : Nat) (f : Pool → Pool) : (modPool s c f).mem = s.mem := rfl
@[simp] theorem modPool_memPoison (s : State) (c : Nat) (f : Pool → Pool) : (modPool s c f).memPoison = s.memPoison := rfl
@[simp] theorem modPool_hostMem (s : State) (c : Nat) (f : Pool → Pool) : (modPool s c f).hostMem = s.hostMem := rfl
@[simp] theorem modPool_remoteMem (s : State) (c : Nat) (f : Pool → Pool) : (modPool s c f).remoteMem = s.remoteMem := rfl
@[simp] theorem modPool_sliceTab (s : State) (c : Nat) (f : Pool → Pool) : (modPool s c f).sliceTab = s.sliceTab := rfl
@[simp] theorem modPool_slicesLost (s : State) (c : Nat) (f : Pool → Pool) : (modPool s c f).slicesLost = s.slicesLost := rfl
@[simp] theorem modPool_moves (s : State) (c : Nat) (f : Pool → Pool) : (modPool s c f).moves = s.moves := rfl
@[simp] theorem modPool_l2 (s : State) (c : Nat) (f : Pool → Pool) : (modPool s c f).l2 = s.l2 := rfl
@[simp] theorem modPool_syncLines (s : State) (c : Nat) (f : Pool → Pool) : (modPool s c f).syncLines = s.syncLines := rfl
@[simp] theorem modPool_routes (s : State) (c : Nat) (f : Pool → Pool) : (modPool s c f).routes = s.routes := rfl
@[simp] theorem modPool_routesPending (s : State) (c : Nat) (f : Pool → Pool) : (modPool s c f).routesPending = s.routesPending := rfl
@[simp] theorem modPool_retiredClusters (s : State) (c : Nat) (f : Pool → Pool) : (modPool s c f).retiredClusters = s.retiredClusters := rfl
@[simp] theorem modPool_retiredPairs (s : State) (c : Nat) (f : Pool → Pool) : (modPool s c f).retiredPairs = s.retiredPairs := rfl
@[simp] theorem modPool_keys (s : State) (c : Nat) (f : Pool → Pool) : (modPool s c f).keys = s.keys := rfl
@[simp] theorem modPool_ownerHash (s : State) (c : Nat) (f : Pool → Pool) : (modPool s c f).ownerHash = s.ownerHash := rfl
@[simp] theorem modPool_block (s : State) (c : Nat) (f : Pool → Pool) : (modPool s c f).block = s.block := rfl
@[simp] theorem modPool_memKeys (s : State) (c : Nat) (f : Pool → Pool) : (modPool s c f).memKeys = s.memKeys := rfl
@[simp] theorem modPool_hostPages (s : State) (c : Nat) (f : Pool → Pool) : (modPool s c f).hostPages = s.hostPages := rfl
@[simp] theorem modPool_reducers (s : State) (c : Nat) (f : Pool → Pool) : (modPool s c f).reducers = s.reducers := rfl
@[simp] theorem modPool_rels (s : State) (c : Nat) (f : Pool → Pool) : (modPool s c f).rels = s.rels := rfl
@[simp] theorem modPool_counts (s : State) (c : Nat) (f : Pool → Pool) : (modPool s c f).counts = s.counts := rfl
@[simp] theorem modPool_pairErrs (s : State) (c : Nat) (f : Pool → Pool) : (modPool s c f).pairErrs = s.pairErrs := rfl
@[simp] theorem modPool_linkUp (s : State) (c : Nat) (f : Pool → Pool) : (modPool s c f).linkUp = s.linkUp := rfl
@[simp] theorem modPool_reports (s : State) (c : Nat) (f : Pool → Pool) : (modPool s c f).reports = s.reports := rfl
@[simp] theorem modPool_blobs (s : State) (c : Nat) (f : Pool → Pool) : (modPool s c f).blobs = s.blobs := rfl
@[simp] theorem modPool_cores (s : State) (c : Nat) (f : Pool → Pool) : (modPool s c f).cores = s.cores := rfl
@[simp] theorem modPool_units (s : State) (c : Nat) (f : Pool → Pool) : (modPool s c f).units = s.units := rfl
@[simp] theorem modPool_launches (s : State) (c : Nat) (f : Pool → Pool) : (modPool s c f).launches = s.launches := rfl
@[simp] theorem modPool_insts (s : State) (c : Nat) (f : Pool → Pool) : (modPool s c f).insts = s.insts := rfl
@[simp] theorem modPool_ended (s : State) (c : Nat) (f : Pool → Pool) : (modPool s c f).ended = s.ended := rfl
@[simp] theorem modPool_reqs (s : State) (c : Nat) (f : Pool → Pool) : (modPool s c f).reqs = s.reqs := rfl
@[simp] theorem modPool_pageReqs (s : State) (c : Nat) (f : Pool → Pool) : (modPool s c f).pageReqs = s.pageReqs := rfl
@[simp] theorem modPool_walks (s : State) (c : Nat) (f : Pool → Pool) : (modPool s c f).walks = s.walks := rfl
@[simp] theorem modPool_fills (s : State) (c : Nat) (f : Pool → Pool) : (modPool s c f).fills = s.fills := rfl
@[simp] theorem modPool_cmds (s : State) (c : Nat) (f : Pool → Pool) : (modPool s c f).cmds = s.cmds := rfl
@[simp] theorem modPool_engines (s : State) (c : Nat) (f : Pool → Pool) : (modPool s c f).engines = s.engines := rfl
@[simp] theorem modPool_matOps (s : State) (c : Nat) (f : Pool → Pool) : (modPool s c f).matOps = s.matOps := rfl
@[simp] theorem modPool_toStore (s : State) (c : Nat) (f : Pool → Pool) : (modPool s c f).toStore = s.toStore := rfl
@[simp] theorem modPool_comms (s : State) (c : Nat) (f : Pool → Pool) : (modPool s c f).comms = s.comms := rfl
@[simp] theorem modPool_fes (s : State) (c : Nat) (f : Pool → Pool) : (modPool s c f).fes = s.fes := rfl
@[simp] theorem modPool_fns (s : State) (c : Nat) (f : Pool → Pool) : (modPool s c f).fns = s.fns := rfl
@[simp] theorem modPool_ctxs (s : State) (c : Nat) (f : Pool → Pool) : (modPool s c f).ctxs = s.ctxs := rfl
@[simp] theorem modPool_clocks (s : State) (c : Nat) (f : Pool → Pool) : (modPool s c f).clocks = s.clocks := rfl
@[simp] theorem modPool_raceLog (s : State) (c : Nat) (f : Pool → Pool) : (modPool s c f).raceLog = s.raceLog := rfl
@[simp] theorem modPool_pfBusy (s : State) (c : Nat) (f : Pool → Pool) : (modPool s c f).pfBusy = s.pfBusy := rfl

/-! ## modEj -/

@[simp] theorem modEj_now (s : State) (c k : Nat) (f : Ejected → Ejected) : (modEj s c k f).now = s.now := rfl
@[simp] theorem modEj_cur (s : State) (c k : Nat) (f : Ejected → Ejected) : (modEj s c k f).cur = s.cur := rfl
@[simp] theorem modEj_subj (s : State) (c k : Nat) (f : Ejected → Ejected) : (modEj s c k f).subj = s.subj := rfl
@[simp] theorem modEj_agenda (s : State) (c k : Nat) (f : Ejected → Ejected) : (modEj s c k f).agenda = s.agenda := rfl
@[simp] theorem modEj_inbox (s : State) (c k : Nat) (f : Ejected → Ejected) : (modEj s c k f).inbox = s.inbox := rfl
@[simp] theorem modEj_fresh (s : State) (c k : Nat) (f : Ejected → Ejected) : (modEj s c k f).fresh = s.fresh := rfl
@[simp] theorem modEj_lost (s : State) (c k : Nat) (f : Ejected → Ejected) : (modEj s c k f).lost = s.lost := rfl
@[simp] theorem modEj_quanta (s : State) (c k : Nat) (f : Ejected → Ejected) : (modEj s c k f).quanta = s.quanta := rfl
@[simp] theorem modEj_fnrdyLo (s : State) (c k : Nat) (f : Ejected → Ejected) : (modEj s c k f).fnrdyLo = s.fnrdyLo := rfl
@[simp] theorem modEj_fnrdyHi (s : State) (c k : Nat) (f : Ejected → Ejected) : (modEj s c k f).fnrdyHi = s.fnrdyHi := rfl
@[simp] theorem modEj_node (s : State) (c k : Nat) (f : Ejected → Ejected) : (modEj s c k f).node = s.node := rfl
@[simp] theorem modEj_parts (s : State) (c k : Nat) (f : Ejected → Ejected) : (modEj s c k f).parts = s.parts := rfl
@[simp] theorem modEj_mem (s : State) (c k : Nat) (f : Ejected → Ejected) : (modEj s c k f).mem = s.mem := rfl
@[simp] theorem modEj_memPoison (s : State) (c k : Nat) (f : Ejected → Ejected) : (modEj s c k f).memPoison = s.memPoison := rfl
@[simp] theorem modEj_hostMem (s : State) (c k : Nat) (f : Ejected → Ejected) : (modEj s c k f).hostMem = s.hostMem := rfl
@[simp] theorem modEj_remoteMem (s : State) (c k : Nat) (f : Ejected → Ejected) : (modEj s c k f).remoteMem = s.remoteMem := rfl
@[simp] theorem modEj_sliceTab (s : State) (c k : Nat) (f : Ejected → Ejected) : (modEj s c k f).sliceTab = s.sliceTab := rfl
@[simp] theorem modEj_slicesLost (s : State) (c k : Nat) (f : Ejected → Ejected) : (modEj s c k f).slicesLost = s.slicesLost := rfl
@[simp] theorem modEj_moves (s : State) (c k : Nat) (f : Ejected → Ejected) : (modEj s c k f).moves = s.moves := rfl
@[simp] theorem modEj_l2 (s : State) (c k : Nat) (f : Ejected → Ejected) : (modEj s c k f).l2 = s.l2 := rfl
@[simp] theorem modEj_syncLines (s : State) (c k : Nat) (f : Ejected → Ejected) : (modEj s c k f).syncLines = s.syncLines := rfl
@[simp] theorem modEj_routes (s : State) (c k : Nat) (f : Ejected → Ejected) : (modEj s c k f).routes = s.routes := rfl
@[simp] theorem modEj_routesPending (s : State) (c k : Nat) (f : Ejected → Ejected) : (modEj s c k f).routesPending = s.routesPending := rfl
@[simp] theorem modEj_retiredClusters (s : State) (c k : Nat) (f : Ejected → Ejected) : (modEj s c k f).retiredClusters = s.retiredClusters := rfl
@[simp] theorem modEj_retiredPairs (s : State) (c k : Nat) (f : Ejected → Ejected) : (modEj s c k f).retiredPairs = s.retiredPairs := rfl
@[simp] theorem modEj_keys (s : State) (c k : Nat) (f : Ejected → Ejected) : (modEj s c k f).keys = s.keys := rfl
@[simp] theorem modEj_ownerHash (s : State) (c k : Nat) (f : Ejected → Ejected) : (modEj s c k f).ownerHash = s.ownerHash := rfl
@[simp] theorem modEj_block (s : State) (c k : Nat) (f : Ejected → Ejected) : (modEj s c k f).block = s.block := rfl
@[simp] theorem modEj_memKeys (s : State) (c k : Nat) (f : Ejected → Ejected) : (modEj s c k f).memKeys = s.memKeys := rfl
@[simp] theorem modEj_hostPages (s : State) (c k : Nat) (f : Ejected → Ejected) : (modEj s c k f).hostPages = s.hostPages := rfl
@[simp] theorem modEj_reducers (s : State) (c k : Nat) (f : Ejected → Ejected) : (modEj s c k f).reducers = s.reducers := rfl
@[simp] theorem modEj_rels (s : State) (c k : Nat) (f : Ejected → Ejected) : (modEj s c k f).rels = s.rels := rfl
@[simp] theorem modEj_counts (s : State) (c k : Nat) (f : Ejected → Ejected) : (modEj s c k f).counts = s.counts := rfl
@[simp] theorem modEj_pairErrs (s : State) (c k : Nat) (f : Ejected → Ejected) : (modEj s c k f).pairErrs = s.pairErrs := rfl
@[simp] theorem modEj_linkUp (s : State) (c k : Nat) (f : Ejected → Ejected) : (modEj s c k f).linkUp = s.linkUp := rfl
@[simp] theorem modEj_reports (s : State) (c k : Nat) (f : Ejected → Ejected) : (modEj s c k f).reports = s.reports := rfl
@[simp] theorem modEj_blobs (s : State) (c k : Nat) (f : Ejected → Ejected) : (modEj s c k f).blobs = s.blobs := rfl
@[simp] theorem modEj_cores (s : State) (c k : Nat) (f : Ejected → Ejected) : (modEj s c k f).cores = s.cores := rfl
@[simp] theorem modEj_units (s : State) (c k : Nat) (f : Ejected → Ejected) : (modEj s c k f).units = s.units := rfl
@[simp] theorem modEj_launches (s : State) (c k : Nat) (f : Ejected → Ejected) : (modEj s c k f).launches = s.launches := rfl
@[simp] theorem modEj_insts (s : State) (c k : Nat) (f : Ejected → Ejected) : (modEj s c k f).insts = s.insts := rfl
@[simp] theorem modEj_ended (s : State) (c k : Nat) (f : Ejected → Ejected) : (modEj s c k f).ended = s.ended := rfl
@[simp] theorem modEj_reqs (s : State) (c k : Nat) (f : Ejected → Ejected) : (modEj s c k f).reqs = s.reqs := rfl
@[simp] theorem modEj_pageReqs (s : State) (c k : Nat) (f : Ejected → Ejected) : (modEj s c k f).pageReqs = s.pageReqs := rfl
@[simp] theorem modEj_walks (s : State) (c k : Nat) (f : Ejected → Ejected) : (modEj s c k f).walks = s.walks := rfl
@[simp] theorem modEj_fills (s : State) (c k : Nat) (f : Ejected → Ejected) : (modEj s c k f).fills = s.fills := rfl
@[simp] theorem modEj_cmds (s : State) (c k : Nat) (f : Ejected → Ejected) : (modEj s c k f).cmds = s.cmds := rfl
@[simp] theorem modEj_engines (s : State) (c k : Nat) (f : Ejected → Ejected) : (modEj s c k f).engines = s.engines := rfl
@[simp] theorem modEj_matOps (s : State) (c k : Nat) (f : Ejected → Ejected) : (modEj s c k f).matOps = s.matOps := rfl
@[simp] theorem modEj_toStore (s : State) (c k : Nat) (f : Ejected → Ejected) : (modEj s c k f).toStore = s.toStore := rfl
@[simp] theorem modEj_comms (s : State) (c k : Nat) (f : Ejected → Ejected) : (modEj s c k f).comms = s.comms := rfl
@[simp] theorem modEj_fes (s : State) (c k : Nat) (f : Ejected → Ejected) : (modEj s c k f).fes = s.fes := rfl
@[simp] theorem modEj_fns (s : State) (c k : Nat) (f : Ejected → Ejected) : (modEj s c k f).fns = s.fns := rfl
@[simp] theorem modEj_ctxs (s : State) (c k : Nat) (f : Ejected → Ejected) : (modEj s c k f).ctxs = s.ctxs := rfl
@[simp] theorem modEj_clocks (s : State) (c k : Nat) (f : Ejected → Ejected) : (modEj s c k f).clocks = s.clocks := rfl
@[simp] theorem modEj_raceLog (s : State) (c k : Nat) (f : Ejected → Ejected) : (modEj s c k f).raceLog = s.raceLog := rfl
@[simp] theorem modEj_pfBusy (s : State) (c k : Nat) (f : Ejected → Ejected) : (modEj s c k f).pfBusy = s.pfBusy := rfl

/-! ## modUnit -/

@[simp] theorem modUnit_now (s : State) (u : Nat) (f : UnitSt → UnitSt) : (modUnit s u f).now = s.now := rfl
@[simp] theorem modUnit_cur (s : State) (u : Nat) (f : UnitSt → UnitSt) : (modUnit s u f).cur = s.cur := rfl
@[simp] theorem modUnit_subj (s : State) (u : Nat) (f : UnitSt → UnitSt) : (modUnit s u f).subj = s.subj := rfl
@[simp] theorem modUnit_agenda (s : State) (u : Nat) (f : UnitSt → UnitSt) : (modUnit s u f).agenda = s.agenda := rfl
@[simp] theorem modUnit_inbox (s : State) (u : Nat) (f : UnitSt → UnitSt) : (modUnit s u f).inbox = s.inbox := rfl
@[simp] theorem modUnit_fresh (s : State) (u : Nat) (f : UnitSt → UnitSt) : (modUnit s u f).fresh = s.fresh := rfl
@[simp] theorem modUnit_lost (s : State) (u : Nat) (f : UnitSt → UnitSt) : (modUnit s u f).lost = s.lost := rfl
@[simp] theorem modUnit_quanta (s : State) (u : Nat) (f : UnitSt → UnitSt) : (modUnit s u f).quanta = s.quanta := rfl
@[simp] theorem modUnit_fnrdyLo (s : State) (u : Nat) (f : UnitSt → UnitSt) : (modUnit s u f).fnrdyLo = s.fnrdyLo := rfl
@[simp] theorem modUnit_fnrdyHi (s : State) (u : Nat) (f : UnitSt → UnitSt) : (modUnit s u f).fnrdyHi = s.fnrdyHi := rfl
@[simp] theorem modUnit_node (s : State) (u : Nat) (f : UnitSt → UnitSt) : (modUnit s u f).node = s.node := rfl
@[simp] theorem modUnit_parts (s : State) (u : Nat) (f : UnitSt → UnitSt) : (modUnit s u f).parts = s.parts := rfl
@[simp] theorem modUnit_mem (s : State) (u : Nat) (f : UnitSt → UnitSt) : (modUnit s u f).mem = s.mem := rfl
@[simp] theorem modUnit_memPoison (s : State) (u : Nat) (f : UnitSt → UnitSt) : (modUnit s u f).memPoison = s.memPoison := rfl
@[simp] theorem modUnit_hostMem (s : State) (u : Nat) (f : UnitSt → UnitSt) : (modUnit s u f).hostMem = s.hostMem := rfl
@[simp] theorem modUnit_remoteMem (s : State) (u : Nat) (f : UnitSt → UnitSt) : (modUnit s u f).remoteMem = s.remoteMem := rfl
@[simp] theorem modUnit_sliceTab (s : State) (u : Nat) (f : UnitSt → UnitSt) : (modUnit s u f).sliceTab = s.sliceTab := rfl
@[simp] theorem modUnit_slicesLost (s : State) (u : Nat) (f : UnitSt → UnitSt) : (modUnit s u f).slicesLost = s.slicesLost := rfl
@[simp] theorem modUnit_moves (s : State) (u : Nat) (f : UnitSt → UnitSt) : (modUnit s u f).moves = s.moves := rfl
@[simp] theorem modUnit_l2 (s : State) (u : Nat) (f : UnitSt → UnitSt) : (modUnit s u f).l2 = s.l2 := rfl
@[simp] theorem modUnit_syncLines (s : State) (u : Nat) (f : UnitSt → UnitSt) : (modUnit s u f).syncLines = s.syncLines := rfl
@[simp] theorem modUnit_routes (s : State) (u : Nat) (f : UnitSt → UnitSt) : (modUnit s u f).routes = s.routes := rfl
@[simp] theorem modUnit_routesPending (s : State) (u : Nat) (f : UnitSt → UnitSt) : (modUnit s u f).routesPending = s.routesPending := rfl
@[simp] theorem modUnit_retiredClusters (s : State) (u : Nat) (f : UnitSt → UnitSt) : (modUnit s u f).retiredClusters = s.retiredClusters := rfl
@[simp] theorem modUnit_retiredPairs (s : State) (u : Nat) (f : UnitSt → UnitSt) : (modUnit s u f).retiredPairs = s.retiredPairs := rfl
@[simp] theorem modUnit_keys (s : State) (u : Nat) (f : UnitSt → UnitSt) : (modUnit s u f).keys = s.keys := rfl
@[simp] theorem modUnit_ownerHash (s : State) (u : Nat) (f : UnitSt → UnitSt) : (modUnit s u f).ownerHash = s.ownerHash := rfl
@[simp] theorem modUnit_block (s : State) (u : Nat) (f : UnitSt → UnitSt) : (modUnit s u f).block = s.block := rfl
@[simp] theorem modUnit_memKeys (s : State) (u : Nat) (f : UnitSt → UnitSt) : (modUnit s u f).memKeys = s.memKeys := rfl
@[simp] theorem modUnit_hostPages (s : State) (u : Nat) (f : UnitSt → UnitSt) : (modUnit s u f).hostPages = s.hostPages := rfl
@[simp] theorem modUnit_reducers (s : State) (u : Nat) (f : UnitSt → UnitSt) : (modUnit s u f).reducers = s.reducers := rfl
@[simp] theorem modUnit_rels (s : State) (u : Nat) (f : UnitSt → UnitSt) : (modUnit s u f).rels = s.rels := rfl
@[simp] theorem modUnit_counts (s : State) (u : Nat) (f : UnitSt → UnitSt) : (modUnit s u f).counts = s.counts := rfl
@[simp] theorem modUnit_pairErrs (s : State) (u : Nat) (f : UnitSt → UnitSt) : (modUnit s u f).pairErrs = s.pairErrs := rfl
@[simp] theorem modUnit_linkUp (s : State) (u : Nat) (f : UnitSt → UnitSt) : (modUnit s u f).linkUp = s.linkUp := rfl
@[simp] theorem modUnit_reports (s : State) (u : Nat) (f : UnitSt → UnitSt) : (modUnit s u f).reports = s.reports := rfl
@[simp] theorem modUnit_blobs (s : State) (u : Nat) (f : UnitSt → UnitSt) : (modUnit s u f).blobs = s.blobs := rfl
@[simp] theorem modUnit_cores (s : State) (u : Nat) (f : UnitSt → UnitSt) : (modUnit s u f).cores = s.cores := rfl
@[simp] theorem modUnit_pools (s : State) (u : Nat) (f : UnitSt → UnitSt) : (modUnit s u f).pools = s.pools := rfl
@[simp] theorem modUnit_launches (s : State) (u : Nat) (f : UnitSt → UnitSt) : (modUnit s u f).launches = s.launches := rfl
@[simp] theorem modUnit_insts (s : State) (u : Nat) (f : UnitSt → UnitSt) : (modUnit s u f).insts = s.insts := rfl
@[simp] theorem modUnit_ended (s : State) (u : Nat) (f : UnitSt → UnitSt) : (modUnit s u f).ended = s.ended := rfl
@[simp] theorem modUnit_reqs (s : State) (u : Nat) (f : UnitSt → UnitSt) : (modUnit s u f).reqs = s.reqs := rfl
@[simp] theorem modUnit_pageReqs (s : State) (u : Nat) (f : UnitSt → UnitSt) : (modUnit s u f).pageReqs = s.pageReqs := rfl
@[simp] theorem modUnit_walks (s : State) (u : Nat) (f : UnitSt → UnitSt) : (modUnit s u f).walks = s.walks := rfl
@[simp] theorem modUnit_fills (s : State) (u : Nat) (f : UnitSt → UnitSt) : (modUnit s u f).fills = s.fills := rfl
@[simp] theorem modUnit_cmds (s : State) (u : Nat) (f : UnitSt → UnitSt) : (modUnit s u f).cmds = s.cmds := rfl
@[simp] theorem modUnit_engines (s : State) (u : Nat) (f : UnitSt → UnitSt) : (modUnit s u f).engines = s.engines := rfl
@[simp] theorem modUnit_matOps (s : State) (u : Nat) (f : UnitSt → UnitSt) : (modUnit s u f).matOps = s.matOps := rfl
@[simp] theorem modUnit_toStore (s : State) (u : Nat) (f : UnitSt → UnitSt) : (modUnit s u f).toStore = s.toStore := rfl
@[simp] theorem modUnit_comms (s : State) (u : Nat) (f : UnitSt → UnitSt) : (modUnit s u f).comms = s.comms := rfl
@[simp] theorem modUnit_fes (s : State) (u : Nat) (f : UnitSt → UnitSt) : (modUnit s u f).fes = s.fes := rfl
@[simp] theorem modUnit_fns (s : State) (u : Nat) (f : UnitSt → UnitSt) : (modUnit s u f).fns = s.fns := rfl
@[simp] theorem modUnit_ctxs (s : State) (u : Nat) (f : UnitSt → UnitSt) : (modUnit s u f).ctxs = s.ctxs := rfl
@[simp] theorem modUnit_clocks (s : State) (u : Nat) (f : UnitSt → UnitSt) : (modUnit s u f).clocks = s.clocks := rfl
@[simp] theorem modUnit_raceLog (s : State) (u : Nat) (f : UnitSt → UnitSt) : (modUnit s u f).raceLog = s.raceLog := rfl
@[simp] theorem modUnit_pfBusy (s : State) (u : Nat) (f : UnitSt → UnitSt) : (modUnit s u f).pfBusy = s.pfBusy := rfl

/-! ## modLaunch -/

@[simp] theorem modLaunch_now (s : State) (l : Nat) (f : Launch → Launch) : (modLaunch s l f).now = s.now := rfl
@[simp] theorem modLaunch_cur (s : State) (l : Nat) (f : Launch → Launch) : (modLaunch s l f).cur = s.cur := rfl
@[simp] theorem modLaunch_subj (s : State) (l : Nat) (f : Launch → Launch) : (modLaunch s l f).subj = s.subj := rfl
@[simp] theorem modLaunch_agenda (s : State) (l : Nat) (f : Launch → Launch) : (modLaunch s l f).agenda = s.agenda := rfl
@[simp] theorem modLaunch_inbox (s : State) (l : Nat) (f : Launch → Launch) : (modLaunch s l f).inbox = s.inbox := rfl
@[simp] theorem modLaunch_fresh (s : State) (l : Nat) (f : Launch → Launch) : (modLaunch s l f).fresh = s.fresh := rfl
@[simp] theorem modLaunch_lost (s : State) (l : Nat) (f : Launch → Launch) : (modLaunch s l f).lost = s.lost := rfl
@[simp] theorem modLaunch_quanta (s : State) (l : Nat) (f : Launch → Launch) : (modLaunch s l f).quanta = s.quanta := rfl
@[simp] theorem modLaunch_fnrdyLo (s : State) (l : Nat) (f : Launch → Launch) : (modLaunch s l f).fnrdyLo = s.fnrdyLo := rfl
@[simp] theorem modLaunch_fnrdyHi (s : State) (l : Nat) (f : Launch → Launch) : (modLaunch s l f).fnrdyHi = s.fnrdyHi := rfl
@[simp] theorem modLaunch_node (s : State) (l : Nat) (f : Launch → Launch) : (modLaunch s l f).node = s.node := rfl
@[simp] theorem modLaunch_parts (s : State) (l : Nat) (f : Launch → Launch) : (modLaunch s l f).parts = s.parts := rfl
@[simp] theorem modLaunch_mem (s : State) (l : Nat) (f : Launch → Launch) : (modLaunch s l f).mem = s.mem := rfl
@[simp] theorem modLaunch_memPoison (s : State) (l : Nat) (f : Launch → Launch) : (modLaunch s l f).memPoison = s.memPoison := rfl
@[simp] theorem modLaunch_hostMem (s : State) (l : Nat) (f : Launch → Launch) : (modLaunch s l f).hostMem = s.hostMem := rfl
@[simp] theorem modLaunch_remoteMem (s : State) (l : Nat) (f : Launch → Launch) : (modLaunch s l f).remoteMem = s.remoteMem := rfl
@[simp] theorem modLaunch_sliceTab (s : State) (l : Nat) (f : Launch → Launch) : (modLaunch s l f).sliceTab = s.sliceTab := rfl
@[simp] theorem modLaunch_slicesLost (s : State) (l : Nat) (f : Launch → Launch) : (modLaunch s l f).slicesLost = s.slicesLost := rfl
@[simp] theorem modLaunch_moves (s : State) (l : Nat) (f : Launch → Launch) : (modLaunch s l f).moves = s.moves := rfl
@[simp] theorem modLaunch_l2 (s : State) (l : Nat) (f : Launch → Launch) : (modLaunch s l f).l2 = s.l2 := rfl
@[simp] theorem modLaunch_syncLines (s : State) (l : Nat) (f : Launch → Launch) : (modLaunch s l f).syncLines = s.syncLines := rfl
@[simp] theorem modLaunch_routes (s : State) (l : Nat) (f : Launch → Launch) : (modLaunch s l f).routes = s.routes := rfl
@[simp] theorem modLaunch_routesPending (s : State) (l : Nat) (f : Launch → Launch) : (modLaunch s l f).routesPending = s.routesPending := rfl
@[simp] theorem modLaunch_retiredClusters (s : State) (l : Nat) (f : Launch → Launch) : (modLaunch s l f).retiredClusters = s.retiredClusters := rfl
@[simp] theorem modLaunch_retiredPairs (s : State) (l : Nat) (f : Launch → Launch) : (modLaunch s l f).retiredPairs = s.retiredPairs := rfl
@[simp] theorem modLaunch_keys (s : State) (l : Nat) (f : Launch → Launch) : (modLaunch s l f).keys = s.keys := rfl
@[simp] theorem modLaunch_ownerHash (s : State) (l : Nat) (f : Launch → Launch) : (modLaunch s l f).ownerHash = s.ownerHash := rfl
@[simp] theorem modLaunch_block (s : State) (l : Nat) (f : Launch → Launch) : (modLaunch s l f).block = s.block := rfl
@[simp] theorem modLaunch_memKeys (s : State) (l : Nat) (f : Launch → Launch) : (modLaunch s l f).memKeys = s.memKeys := rfl
@[simp] theorem modLaunch_hostPages (s : State) (l : Nat) (f : Launch → Launch) : (modLaunch s l f).hostPages = s.hostPages := rfl
@[simp] theorem modLaunch_reducers (s : State) (l : Nat) (f : Launch → Launch) : (modLaunch s l f).reducers = s.reducers := rfl
@[simp] theorem modLaunch_rels (s : State) (l : Nat) (f : Launch → Launch) : (modLaunch s l f).rels = s.rels := rfl
@[simp] theorem modLaunch_counts (s : State) (l : Nat) (f : Launch → Launch) : (modLaunch s l f).counts = s.counts := rfl
@[simp] theorem modLaunch_pairErrs (s : State) (l : Nat) (f : Launch → Launch) : (modLaunch s l f).pairErrs = s.pairErrs := rfl
@[simp] theorem modLaunch_linkUp (s : State) (l : Nat) (f : Launch → Launch) : (modLaunch s l f).linkUp = s.linkUp := rfl
@[simp] theorem modLaunch_reports (s : State) (l : Nat) (f : Launch → Launch) : (modLaunch s l f).reports = s.reports := rfl
@[simp] theorem modLaunch_blobs (s : State) (l : Nat) (f : Launch → Launch) : (modLaunch s l f).blobs = s.blobs := rfl
@[simp] theorem modLaunch_cores (s : State) (l : Nat) (f : Launch → Launch) : (modLaunch s l f).cores = s.cores := rfl
@[simp] theorem modLaunch_pools (s : State) (l : Nat) (f : Launch → Launch) : (modLaunch s l f).pools = s.pools := rfl
@[simp] theorem modLaunch_units (s : State) (l : Nat) (f : Launch → Launch) : (modLaunch s l f).units = s.units := rfl
@[simp] theorem modLaunch_insts (s : State) (l : Nat) (f : Launch → Launch) : (modLaunch s l f).insts = s.insts := rfl
@[simp] theorem modLaunch_ended (s : State) (l : Nat) (f : Launch → Launch) : (modLaunch s l f).ended = s.ended := rfl
@[simp] theorem modLaunch_reqs (s : State) (l : Nat) (f : Launch → Launch) : (modLaunch s l f).reqs = s.reqs := rfl
@[simp] theorem modLaunch_pageReqs (s : State) (l : Nat) (f : Launch → Launch) : (modLaunch s l f).pageReqs = s.pageReqs := rfl
@[simp] theorem modLaunch_walks (s : State) (l : Nat) (f : Launch → Launch) : (modLaunch s l f).walks = s.walks := rfl
@[simp] theorem modLaunch_fills (s : State) (l : Nat) (f : Launch → Launch) : (modLaunch s l f).fills = s.fills := rfl
@[simp] theorem modLaunch_cmds (s : State) (l : Nat) (f : Launch → Launch) : (modLaunch s l f).cmds = s.cmds := rfl
@[simp] theorem modLaunch_engines (s : State) (l : Nat) (f : Launch → Launch) : (modLaunch s l f).engines = s.engines := rfl
@[simp] theorem modLaunch_matOps (s : State) (l : Nat) (f : Launch → Launch) : (modLaunch s l f).matOps = s.matOps := rfl
@[simp] theorem modLaunch_toStore (s : State) (l : Nat) (f : Launch → Launch) : (modLaunch s l f).toStore = s.toStore := rfl
@[simp] theorem modLaunch_comms (s : State) (l : Nat) (f : Launch → Launch) : (modLaunch s l f).comms = s.comms := rfl
@[simp] theorem modLaunch_fes (s : State) (l : Nat) (f : Launch → Launch) : (modLaunch s l f).fes = s.fes := rfl
@[simp] theorem modLaunch_fns (s : State) (l : Nat) (f : Launch → Launch) : (modLaunch s l f).fns = s.fns := rfl
@[simp] theorem modLaunch_ctxs (s : State) (l : Nat) (f : Launch → Launch) : (modLaunch s l f).ctxs = s.ctxs := rfl
@[simp] theorem modLaunch_clocks (s : State) (l : Nat) (f : Launch → Launch) : (modLaunch s l f).clocks = s.clocks := rfl
@[simp] theorem modLaunch_raceLog (s : State) (l : Nat) (f : Launch → Launch) : (modLaunch s l f).raceLog = s.raceLog := rfl
@[simp] theorem modLaunch_pfBusy (s : State) (l : Nat) (f : Launch → Launch) : (modLaunch s l f).pfBusy = s.pfBusy := rfl

/-! ## modReq -/

@[simp] theorem modReq_now (s : State) (r : Nat) (f : Req → Req) : (modReq s r f).now = s.now := rfl
@[simp] theorem modReq_cur (s : State) (r : Nat) (f : Req → Req) : (modReq s r f).cur = s.cur := rfl
@[simp] theorem modReq_subj (s : State) (r : Nat) (f : Req → Req) : (modReq s r f).subj = s.subj := rfl
@[simp] theorem modReq_agenda (s : State) (r : Nat) (f : Req → Req) : (modReq s r f).agenda = s.agenda := rfl
@[simp] theorem modReq_inbox (s : State) (r : Nat) (f : Req → Req) : (modReq s r f).inbox = s.inbox := rfl
@[simp] theorem modReq_fresh (s : State) (r : Nat) (f : Req → Req) : (modReq s r f).fresh = s.fresh := rfl
@[simp] theorem modReq_lost (s : State) (r : Nat) (f : Req → Req) : (modReq s r f).lost = s.lost := rfl
@[simp] theorem modReq_quanta (s : State) (r : Nat) (f : Req → Req) : (modReq s r f).quanta = s.quanta := rfl
@[simp] theorem modReq_fnrdyLo (s : State) (r : Nat) (f : Req → Req) : (modReq s r f).fnrdyLo = s.fnrdyLo := rfl
@[simp] theorem modReq_fnrdyHi (s : State) (r : Nat) (f : Req → Req) : (modReq s r f).fnrdyHi = s.fnrdyHi := rfl
@[simp] theorem modReq_node (s : State) (r : Nat) (f : Req → Req) : (modReq s r f).node = s.node := rfl
@[simp] theorem modReq_parts (s : State) (r : Nat) (f : Req → Req) : (modReq s r f).parts = s.parts := rfl
@[simp] theorem modReq_mem (s : State) (r : Nat) (f : Req → Req) : (modReq s r f).mem = s.mem := rfl
@[simp] theorem modReq_memPoison (s : State) (r : Nat) (f : Req → Req) : (modReq s r f).memPoison = s.memPoison := rfl
@[simp] theorem modReq_hostMem (s : State) (r : Nat) (f : Req → Req) : (modReq s r f).hostMem = s.hostMem := rfl
@[simp] theorem modReq_remoteMem (s : State) (r : Nat) (f : Req → Req) : (modReq s r f).remoteMem = s.remoteMem := rfl
@[simp] theorem modReq_sliceTab (s : State) (r : Nat) (f : Req → Req) : (modReq s r f).sliceTab = s.sliceTab := rfl
@[simp] theorem modReq_slicesLost (s : State) (r : Nat) (f : Req → Req) : (modReq s r f).slicesLost = s.slicesLost := rfl
@[simp] theorem modReq_moves (s : State) (r : Nat) (f : Req → Req) : (modReq s r f).moves = s.moves := rfl
@[simp] theorem modReq_l2 (s : State) (r : Nat) (f : Req → Req) : (modReq s r f).l2 = s.l2 := rfl
@[simp] theorem modReq_syncLines (s : State) (r : Nat) (f : Req → Req) : (modReq s r f).syncLines = s.syncLines := rfl
@[simp] theorem modReq_routes (s : State) (r : Nat) (f : Req → Req) : (modReq s r f).routes = s.routes := rfl
@[simp] theorem modReq_routesPending (s : State) (r : Nat) (f : Req → Req) : (modReq s r f).routesPending = s.routesPending := rfl
@[simp] theorem modReq_retiredClusters (s : State) (r : Nat) (f : Req → Req) : (modReq s r f).retiredClusters = s.retiredClusters := rfl
@[simp] theorem modReq_retiredPairs (s : State) (r : Nat) (f : Req → Req) : (modReq s r f).retiredPairs = s.retiredPairs := rfl
@[simp] theorem modReq_keys (s : State) (r : Nat) (f : Req → Req) : (modReq s r f).keys = s.keys := rfl
@[simp] theorem modReq_ownerHash (s : State) (r : Nat) (f : Req → Req) : (modReq s r f).ownerHash = s.ownerHash := rfl
@[simp] theorem modReq_block (s : State) (r : Nat) (f : Req → Req) : (modReq s r f).block = s.block := rfl
@[simp] theorem modReq_memKeys (s : State) (r : Nat) (f : Req → Req) : (modReq s r f).memKeys = s.memKeys := rfl
@[simp] theorem modReq_hostPages (s : State) (r : Nat) (f : Req → Req) : (modReq s r f).hostPages = s.hostPages := rfl
@[simp] theorem modReq_reducers (s : State) (r : Nat) (f : Req → Req) : (modReq s r f).reducers = s.reducers := rfl
@[simp] theorem modReq_rels (s : State) (r : Nat) (f : Req → Req) : (modReq s r f).rels = s.rels := rfl
@[simp] theorem modReq_counts (s : State) (r : Nat) (f : Req → Req) : (modReq s r f).counts = s.counts := rfl
@[simp] theorem modReq_pairErrs (s : State) (r : Nat) (f : Req → Req) : (modReq s r f).pairErrs = s.pairErrs := rfl
@[simp] theorem modReq_linkUp (s : State) (r : Nat) (f : Req → Req) : (modReq s r f).linkUp = s.linkUp := rfl
@[simp] theorem modReq_reports (s : State) (r : Nat) (f : Req → Req) : (modReq s r f).reports = s.reports := rfl
@[simp] theorem modReq_blobs (s : State) (r : Nat) (f : Req → Req) : (modReq s r f).blobs = s.blobs := rfl
@[simp] theorem modReq_cores (s : State) (r : Nat) (f : Req → Req) : (modReq s r f).cores = s.cores := rfl
@[simp] theorem modReq_pools (s : State) (r : Nat) (f : Req → Req) : (modReq s r f).pools = s.pools := rfl
@[simp] theorem modReq_units (s : State) (r : Nat) (f : Req → Req) : (modReq s r f).units = s.units := rfl
@[simp] theorem modReq_launches (s : State) (r : Nat) (f : Req → Req) : (modReq s r f).launches = s.launches := rfl
@[simp] theorem modReq_insts (s : State) (r : Nat) (f : Req → Req) : (modReq s r f).insts = s.insts := rfl
@[simp] theorem modReq_ended (s : State) (r : Nat) (f : Req → Req) : (modReq s r f).ended = s.ended := rfl
@[simp] theorem modReq_pageReqs (s : State) (r : Nat) (f : Req → Req) : (modReq s r f).pageReqs = s.pageReqs := rfl
@[simp] theorem modReq_walks (s : State) (r : Nat) (f : Req → Req) : (modReq s r f).walks = s.walks := rfl
@[simp] theorem modReq_fills (s : State) (r : Nat) (f : Req → Req) : (modReq s r f).fills = s.fills := rfl
@[simp] theorem modReq_cmds (s : State) (r : Nat) (f : Req → Req) : (modReq s r f).cmds = s.cmds := rfl
@[simp] theorem modReq_engines (s : State) (r : Nat) (f : Req → Req) : (modReq s r f).engines = s.engines := rfl
@[simp] theorem modReq_matOps (s : State) (r : Nat) (f : Req → Req) : (modReq s r f).matOps = s.matOps := rfl
@[simp] theorem modReq_toStore (s : State) (r : Nat) (f : Req → Req) : (modReq s r f).toStore = s.toStore := rfl
@[simp] theorem modReq_comms (s : State) (r : Nat) (f : Req → Req) : (modReq s r f).comms = s.comms := rfl
@[simp] theorem modReq_fes (s : State) (r : Nat) (f : Req → Req) : (modReq s r f).fes = s.fes := rfl
@[simp] theorem modReq_fns (s : State) (r : Nat) (f : Req → Req) : (modReq s r f).fns = s.fns := rfl
@[simp] theorem modReq_ctxs (s : State) (r : Nat) (f : Req → Req) : (modReq s r f).ctxs = s.ctxs := rfl
@[simp] theorem modReq_clocks (s : State) (r : Nat) (f : Req → Req) : (modReq s r f).clocks = s.clocks := rfl
@[simp] theorem modReq_raceLog (s : State) (r : Nat) (f : Req → Req) : (modReq s r f).raceLog = s.raceLog := rfl
@[simp] theorem modReq_pfBusy (s : State) (r : Nat) (f : Req → Req) : (modReq s r f).pfBusy = s.pfBusy := rfl

/-! ## modCmd -/

@[simp] theorem modCmd_now (s : State) (c : Nat) (f : Cmd → Cmd) : (modCmd s c f).now = s.now := rfl
@[simp] theorem modCmd_cur (s : State) (c : Nat) (f : Cmd → Cmd) : (modCmd s c f).cur = s.cur := rfl
@[simp] theorem modCmd_subj (s : State) (c : Nat) (f : Cmd → Cmd) : (modCmd s c f).subj = s.subj := rfl
@[simp] theorem modCmd_agenda (s : State) (c : Nat) (f : Cmd → Cmd) : (modCmd s c f).agenda = s.agenda := rfl
@[simp] theorem modCmd_inbox (s : State) (c : Nat) (f : Cmd → Cmd) : (modCmd s c f).inbox = s.inbox := rfl
@[simp] theorem modCmd_fresh (s : State) (c : Nat) (f : Cmd → Cmd) : (modCmd s c f).fresh = s.fresh := rfl
@[simp] theorem modCmd_lost (s : State) (c : Nat) (f : Cmd → Cmd) : (modCmd s c f).lost = s.lost := rfl
@[simp] theorem modCmd_quanta (s : State) (c : Nat) (f : Cmd → Cmd) : (modCmd s c f).quanta = s.quanta := rfl
@[simp] theorem modCmd_fnrdyLo (s : State) (c : Nat) (f : Cmd → Cmd) : (modCmd s c f).fnrdyLo = s.fnrdyLo := rfl
@[simp] theorem modCmd_fnrdyHi (s : State) (c : Nat) (f : Cmd → Cmd) : (modCmd s c f).fnrdyHi = s.fnrdyHi := rfl
@[simp] theorem modCmd_node (s : State) (c : Nat) (f : Cmd → Cmd) : (modCmd s c f).node = s.node := rfl
@[simp] theorem modCmd_parts (s : State) (c : Nat) (f : Cmd → Cmd) : (modCmd s c f).parts = s.parts := rfl
@[simp] theorem modCmd_mem (s : State) (c : Nat) (f : Cmd → Cmd) : (modCmd s c f).mem = s.mem := rfl
@[simp] theorem modCmd_memPoison (s : State) (c : Nat) (f : Cmd → Cmd) : (modCmd s c f).memPoison = s.memPoison := rfl
@[simp] theorem modCmd_hostMem (s : State) (c : Nat) (f : Cmd → Cmd) : (modCmd s c f).hostMem = s.hostMem := rfl
@[simp] theorem modCmd_remoteMem (s : State) (c : Nat) (f : Cmd → Cmd) : (modCmd s c f).remoteMem = s.remoteMem := rfl
@[simp] theorem modCmd_sliceTab (s : State) (c : Nat) (f : Cmd → Cmd) : (modCmd s c f).sliceTab = s.sliceTab := rfl
@[simp] theorem modCmd_slicesLost (s : State) (c : Nat) (f : Cmd → Cmd) : (modCmd s c f).slicesLost = s.slicesLost := rfl
@[simp] theorem modCmd_moves (s : State) (c : Nat) (f : Cmd → Cmd) : (modCmd s c f).moves = s.moves := rfl
@[simp] theorem modCmd_l2 (s : State) (c : Nat) (f : Cmd → Cmd) : (modCmd s c f).l2 = s.l2 := rfl
@[simp] theorem modCmd_syncLines (s : State) (c : Nat) (f : Cmd → Cmd) : (modCmd s c f).syncLines = s.syncLines := rfl
@[simp] theorem modCmd_routes (s : State) (c : Nat) (f : Cmd → Cmd) : (modCmd s c f).routes = s.routes := rfl
@[simp] theorem modCmd_routesPending (s : State) (c : Nat) (f : Cmd → Cmd) : (modCmd s c f).routesPending = s.routesPending := rfl
@[simp] theorem modCmd_retiredClusters (s : State) (c : Nat) (f : Cmd → Cmd) : (modCmd s c f).retiredClusters = s.retiredClusters := rfl
@[simp] theorem modCmd_retiredPairs (s : State) (c : Nat) (f : Cmd → Cmd) : (modCmd s c f).retiredPairs = s.retiredPairs := rfl
@[simp] theorem modCmd_keys (s : State) (c : Nat) (f : Cmd → Cmd) : (modCmd s c f).keys = s.keys := rfl
@[simp] theorem modCmd_ownerHash (s : State) (c : Nat) (f : Cmd → Cmd) : (modCmd s c f).ownerHash = s.ownerHash := rfl
@[simp] theorem modCmd_block (s : State) (c : Nat) (f : Cmd → Cmd) : (modCmd s c f).block = s.block := rfl
@[simp] theorem modCmd_memKeys (s : State) (c : Nat) (f : Cmd → Cmd) : (modCmd s c f).memKeys = s.memKeys := rfl
@[simp] theorem modCmd_hostPages (s : State) (c : Nat) (f : Cmd → Cmd) : (modCmd s c f).hostPages = s.hostPages := rfl
@[simp] theorem modCmd_reducers (s : State) (c : Nat) (f : Cmd → Cmd) : (modCmd s c f).reducers = s.reducers := rfl
@[simp] theorem modCmd_rels (s : State) (c : Nat) (f : Cmd → Cmd) : (modCmd s c f).rels = s.rels := rfl
@[simp] theorem modCmd_counts (s : State) (c : Nat) (f : Cmd → Cmd) : (modCmd s c f).counts = s.counts := rfl
@[simp] theorem modCmd_pairErrs (s : State) (c : Nat) (f : Cmd → Cmd) : (modCmd s c f).pairErrs = s.pairErrs := rfl
@[simp] theorem modCmd_linkUp (s : State) (c : Nat) (f : Cmd → Cmd) : (modCmd s c f).linkUp = s.linkUp := rfl
@[simp] theorem modCmd_reports (s : State) (c : Nat) (f : Cmd → Cmd) : (modCmd s c f).reports = s.reports := rfl
@[simp] theorem modCmd_blobs (s : State) (c : Nat) (f : Cmd → Cmd) : (modCmd s c f).blobs = s.blobs := rfl
@[simp] theorem modCmd_cores (s : State) (c : Nat) (f : Cmd → Cmd) : (modCmd s c f).cores = s.cores := rfl
@[simp] theorem modCmd_pools (s : State) (c : Nat) (f : Cmd → Cmd) : (modCmd s c f).pools = s.pools := rfl
@[simp] theorem modCmd_units (s : State) (c : Nat) (f : Cmd → Cmd) : (modCmd s c f).units = s.units := rfl
@[simp] theorem modCmd_launches (s : State) (c : Nat) (f : Cmd → Cmd) : (modCmd s c f).launches = s.launches := rfl
@[simp] theorem modCmd_insts (s : State) (c : Nat) (f : Cmd → Cmd) : (modCmd s c f).insts = s.insts := rfl
@[simp] theorem modCmd_ended (s : State) (c : Nat) (f : Cmd → Cmd) : (modCmd s c f).ended = s.ended := rfl
@[simp] theorem modCmd_reqs (s : State) (c : Nat) (f : Cmd → Cmd) : (modCmd s c f).reqs = s.reqs := rfl
@[simp] theorem modCmd_pageReqs (s : State) (c : Nat) (f : Cmd → Cmd) : (modCmd s c f).pageReqs = s.pageReqs := rfl
@[simp] theorem modCmd_walks (s : State) (c : Nat) (f : Cmd → Cmd) : (modCmd s c f).walks = s.walks := rfl
@[simp] theorem modCmd_fills (s : State) (c : Nat) (f : Cmd → Cmd) : (modCmd s c f).fills = s.fills := rfl
@[simp] theorem modCmd_engines (s : State) (c : Nat) (f : Cmd → Cmd) : (modCmd s c f).engines = s.engines := rfl
@[simp] theorem modCmd_matOps (s : State) (c : Nat) (f : Cmd → Cmd) : (modCmd s c f).matOps = s.matOps := rfl
@[simp] theorem modCmd_toStore (s : State) (c : Nat) (f : Cmd → Cmd) : (modCmd s c f).toStore = s.toStore := rfl
@[simp] theorem modCmd_comms (s : State) (c : Nat) (f : Cmd → Cmd) : (modCmd s c f).comms = s.comms := rfl
@[simp] theorem modCmd_fes (s : State) (c : Nat) (f : Cmd → Cmd) : (modCmd s c f).fes = s.fes := rfl
@[simp] theorem modCmd_fns (s : State) (c : Nat) (f : Cmd → Cmd) : (modCmd s c f).fns = s.fns := rfl
@[simp] theorem modCmd_ctxs (s : State) (c : Nat) (f : Cmd → Cmd) : (modCmd s c f).ctxs = s.ctxs := rfl
@[simp] theorem modCmd_clocks (s : State) (c : Nat) (f : Cmd → Cmd) : (modCmd s c f).clocks = s.clocks := rfl
@[simp] theorem modCmd_raceLog (s : State) (c : Nat) (f : Cmd → Cmd) : (modCmd s c f).raceLog = s.raceLog := rfl
@[simp] theorem modCmd_pfBusy (s : State) (c : Nat) (f : Cmd → Cmd) : (modCmd s c f).pfBusy = s.pfBusy := rfl

/-! ## modFe -/

@[simp] theorem modFe_now (s : State) (p : Nat) (f : FrontEnd → FrontEnd) : (modFe s p f).now = s.now := rfl
@[simp] theorem modFe_cur (s : State) (p : Nat) (f : FrontEnd → FrontEnd) : (modFe s p f).cur = s.cur := rfl
@[simp] theorem modFe_subj (s : State) (p : Nat) (f : FrontEnd → FrontEnd) : (modFe s p f).subj = s.subj := rfl
@[simp] theorem modFe_agenda (s : State) (p : Nat) (f : FrontEnd → FrontEnd) : (modFe s p f).agenda = s.agenda := rfl
@[simp] theorem modFe_inbox (s : State) (p : Nat) (f : FrontEnd → FrontEnd) : (modFe s p f).inbox = s.inbox := rfl
@[simp] theorem modFe_fresh (s : State) (p : Nat) (f : FrontEnd → FrontEnd) : (modFe s p f).fresh = s.fresh := rfl
@[simp] theorem modFe_lost (s : State) (p : Nat) (f : FrontEnd → FrontEnd) : (modFe s p f).lost = s.lost := rfl
@[simp] theorem modFe_quanta (s : State) (p : Nat) (f : FrontEnd → FrontEnd) : (modFe s p f).quanta = s.quanta := rfl
@[simp] theorem modFe_fnrdyLo (s : State) (p : Nat) (f : FrontEnd → FrontEnd) : (modFe s p f).fnrdyLo = s.fnrdyLo := rfl
@[simp] theorem modFe_fnrdyHi (s : State) (p : Nat) (f : FrontEnd → FrontEnd) : (modFe s p f).fnrdyHi = s.fnrdyHi := rfl
@[simp] theorem modFe_node (s : State) (p : Nat) (f : FrontEnd → FrontEnd) : (modFe s p f).node = s.node := rfl
@[simp] theorem modFe_parts (s : State) (p : Nat) (f : FrontEnd → FrontEnd) : (modFe s p f).parts = s.parts := rfl
@[simp] theorem modFe_mem (s : State) (p : Nat) (f : FrontEnd → FrontEnd) : (modFe s p f).mem = s.mem := rfl
@[simp] theorem modFe_memPoison (s : State) (p : Nat) (f : FrontEnd → FrontEnd) : (modFe s p f).memPoison = s.memPoison := rfl
@[simp] theorem modFe_hostMem (s : State) (p : Nat) (f : FrontEnd → FrontEnd) : (modFe s p f).hostMem = s.hostMem := rfl
@[simp] theorem modFe_remoteMem (s : State) (p : Nat) (f : FrontEnd → FrontEnd) : (modFe s p f).remoteMem = s.remoteMem := rfl
@[simp] theorem modFe_sliceTab (s : State) (p : Nat) (f : FrontEnd → FrontEnd) : (modFe s p f).sliceTab = s.sliceTab := rfl
@[simp] theorem modFe_slicesLost (s : State) (p : Nat) (f : FrontEnd → FrontEnd) : (modFe s p f).slicesLost = s.slicesLost := rfl
@[simp] theorem modFe_moves (s : State) (p : Nat) (f : FrontEnd → FrontEnd) : (modFe s p f).moves = s.moves := rfl
@[simp] theorem modFe_l2 (s : State) (p : Nat) (f : FrontEnd → FrontEnd) : (modFe s p f).l2 = s.l2 := rfl
@[simp] theorem modFe_syncLines (s : State) (p : Nat) (f : FrontEnd → FrontEnd) : (modFe s p f).syncLines = s.syncLines := rfl
@[simp] theorem modFe_routes (s : State) (p : Nat) (f : FrontEnd → FrontEnd) : (modFe s p f).routes = s.routes := rfl
@[simp] theorem modFe_routesPending (s : State) (p : Nat) (f : FrontEnd → FrontEnd) : (modFe s p f).routesPending = s.routesPending := rfl
@[simp] theorem modFe_retiredClusters (s : State) (p : Nat) (f : FrontEnd → FrontEnd) : (modFe s p f).retiredClusters = s.retiredClusters := rfl
@[simp] theorem modFe_retiredPairs (s : State) (p : Nat) (f : FrontEnd → FrontEnd) : (modFe s p f).retiredPairs = s.retiredPairs := rfl
@[simp] theorem modFe_keys (s : State) (p : Nat) (f : FrontEnd → FrontEnd) : (modFe s p f).keys = s.keys := rfl
@[simp] theorem modFe_ownerHash (s : State) (p : Nat) (f : FrontEnd → FrontEnd) : (modFe s p f).ownerHash = s.ownerHash := rfl
@[simp] theorem modFe_block (s : State) (p : Nat) (f : FrontEnd → FrontEnd) : (modFe s p f).block = s.block := rfl
@[simp] theorem modFe_memKeys (s : State) (p : Nat) (f : FrontEnd → FrontEnd) : (modFe s p f).memKeys = s.memKeys := rfl
@[simp] theorem modFe_hostPages (s : State) (p : Nat) (f : FrontEnd → FrontEnd) : (modFe s p f).hostPages = s.hostPages := rfl
@[simp] theorem modFe_reducers (s : State) (p : Nat) (f : FrontEnd → FrontEnd) : (modFe s p f).reducers = s.reducers := rfl
@[simp] theorem modFe_rels (s : State) (p : Nat) (f : FrontEnd → FrontEnd) : (modFe s p f).rels = s.rels := rfl
@[simp] theorem modFe_counts (s : State) (p : Nat) (f : FrontEnd → FrontEnd) : (modFe s p f).counts = s.counts := rfl
@[simp] theorem modFe_pairErrs (s : State) (p : Nat) (f : FrontEnd → FrontEnd) : (modFe s p f).pairErrs = s.pairErrs := rfl
@[simp] theorem modFe_linkUp (s : State) (p : Nat) (f : FrontEnd → FrontEnd) : (modFe s p f).linkUp = s.linkUp := rfl
@[simp] theorem modFe_reports (s : State) (p : Nat) (f : FrontEnd → FrontEnd) : (modFe s p f).reports = s.reports := rfl
@[simp] theorem modFe_blobs (s : State) (p : Nat) (f : FrontEnd → FrontEnd) : (modFe s p f).blobs = s.blobs := rfl
@[simp] theorem modFe_cores (s : State) (p : Nat) (f : FrontEnd → FrontEnd) : (modFe s p f).cores = s.cores := rfl
@[simp] theorem modFe_pools (s : State) (p : Nat) (f : FrontEnd → FrontEnd) : (modFe s p f).pools = s.pools := rfl
@[simp] theorem modFe_units (s : State) (p : Nat) (f : FrontEnd → FrontEnd) : (modFe s p f).units = s.units := rfl
@[simp] theorem modFe_launches (s : State) (p : Nat) (f : FrontEnd → FrontEnd) : (modFe s p f).launches = s.launches := rfl
@[simp] theorem modFe_insts (s : State) (p : Nat) (f : FrontEnd → FrontEnd) : (modFe s p f).insts = s.insts := rfl
@[simp] theorem modFe_ended (s : State) (p : Nat) (f : FrontEnd → FrontEnd) : (modFe s p f).ended = s.ended := rfl
@[simp] theorem modFe_reqs (s : State) (p : Nat) (f : FrontEnd → FrontEnd) : (modFe s p f).reqs = s.reqs := rfl
@[simp] theorem modFe_pageReqs (s : State) (p : Nat) (f : FrontEnd → FrontEnd) : (modFe s p f).pageReqs = s.pageReqs := rfl
@[simp] theorem modFe_walks (s : State) (p : Nat) (f : FrontEnd → FrontEnd) : (modFe s p f).walks = s.walks := rfl
@[simp] theorem modFe_fills (s : State) (p : Nat) (f : FrontEnd → FrontEnd) : (modFe s p f).fills = s.fills := rfl
@[simp] theorem modFe_cmds (s : State) (p : Nat) (f : FrontEnd → FrontEnd) : (modFe s p f).cmds = s.cmds := rfl
@[simp] theorem modFe_engines (s : State) (p : Nat) (f : FrontEnd → FrontEnd) : (modFe s p f).engines = s.engines := rfl
@[simp] theorem modFe_matOps (s : State) (p : Nat) (f : FrontEnd → FrontEnd) : (modFe s p f).matOps = s.matOps := rfl
@[simp] theorem modFe_toStore (s : State) (p : Nat) (f : FrontEnd → FrontEnd) : (modFe s p f).toStore = s.toStore := rfl
@[simp] theorem modFe_comms (s : State) (p : Nat) (f : FrontEnd → FrontEnd) : (modFe s p f).comms = s.comms := rfl
@[simp] theorem modFe_fns (s : State) (p : Nat) (f : FrontEnd → FrontEnd) : (modFe s p f).fns = s.fns := rfl
@[simp] theorem modFe_ctxs (s : State) (p : Nat) (f : FrontEnd → FrontEnd) : (modFe s p f).ctxs = s.ctxs := rfl
@[simp] theorem modFe_clocks (s : State) (p : Nat) (f : FrontEnd → FrontEnd) : (modFe s p f).clocks = s.clocks := rfl
@[simp] theorem modFe_raceLog (s : State) (p : Nat) (f : FrontEnd → FrontEnd) : (modFe s p f).raceLog = s.raceLog := rfl
@[simp] theorem modFe_pfBusy (s : State) (p : Nat) (f : FrontEnd → FrontEnd) : (modFe s p f).pfBusy = s.pfBusy := rfl

/-! ## modFn -/

@[simp] theorem modFn_now (s : State) (n : Nat) (f : Fn → Fn) : (modFn s n f).now = s.now := rfl
@[simp] theorem modFn_cur (s : State) (n : Nat) (f : Fn → Fn) : (modFn s n f).cur = s.cur := rfl
@[simp] theorem modFn_subj (s : State) (n : Nat) (f : Fn → Fn) : (modFn s n f).subj = s.subj := rfl
@[simp] theorem modFn_agenda (s : State) (n : Nat) (f : Fn → Fn) : (modFn s n f).agenda = s.agenda := rfl
@[simp] theorem modFn_inbox (s : State) (n : Nat) (f : Fn → Fn) : (modFn s n f).inbox = s.inbox := rfl
@[simp] theorem modFn_fresh (s : State) (n : Nat) (f : Fn → Fn) : (modFn s n f).fresh = s.fresh := rfl
@[simp] theorem modFn_lost (s : State) (n : Nat) (f : Fn → Fn) : (modFn s n f).lost = s.lost := rfl
@[simp] theorem modFn_quanta (s : State) (n : Nat) (f : Fn → Fn) : (modFn s n f).quanta = s.quanta := rfl
@[simp] theorem modFn_fnrdyLo (s : State) (n : Nat) (f : Fn → Fn) : (modFn s n f).fnrdyLo = s.fnrdyLo := rfl
@[simp] theorem modFn_fnrdyHi (s : State) (n : Nat) (f : Fn → Fn) : (modFn s n f).fnrdyHi = s.fnrdyHi := rfl
@[simp] theorem modFn_node (s : State) (n : Nat) (f : Fn → Fn) : (modFn s n f).node = s.node := rfl
@[simp] theorem modFn_parts (s : State) (n : Nat) (f : Fn → Fn) : (modFn s n f).parts = s.parts := rfl
@[simp] theorem modFn_mem (s : State) (n : Nat) (f : Fn → Fn) : (modFn s n f).mem = s.mem := rfl
@[simp] theorem modFn_memPoison (s : State) (n : Nat) (f : Fn → Fn) : (modFn s n f).memPoison = s.memPoison := rfl
@[simp] theorem modFn_hostMem (s : State) (n : Nat) (f : Fn → Fn) : (modFn s n f).hostMem = s.hostMem := rfl
@[simp] theorem modFn_remoteMem (s : State) (n : Nat) (f : Fn → Fn) : (modFn s n f).remoteMem = s.remoteMem := rfl
@[simp] theorem modFn_sliceTab (s : State) (n : Nat) (f : Fn → Fn) : (modFn s n f).sliceTab = s.sliceTab := rfl
@[simp] theorem modFn_slicesLost (s : State) (n : Nat) (f : Fn → Fn) : (modFn s n f).slicesLost = s.slicesLost := rfl
@[simp] theorem modFn_moves (s : State) (n : Nat) (f : Fn → Fn) : (modFn s n f).moves = s.moves := rfl
@[simp] theorem modFn_l2 (s : State) (n : Nat) (f : Fn → Fn) : (modFn s n f).l2 = s.l2 := rfl
@[simp] theorem modFn_syncLines (s : State) (n : Nat) (f : Fn → Fn) : (modFn s n f).syncLines = s.syncLines := rfl
@[simp] theorem modFn_routes (s : State) (n : Nat) (f : Fn → Fn) : (modFn s n f).routes = s.routes := rfl
@[simp] theorem modFn_routesPending (s : State) (n : Nat) (f : Fn → Fn) : (modFn s n f).routesPending = s.routesPending := rfl
@[simp] theorem modFn_retiredClusters (s : State) (n : Nat) (f : Fn → Fn) : (modFn s n f).retiredClusters = s.retiredClusters := rfl
@[simp] theorem modFn_retiredPairs (s : State) (n : Nat) (f : Fn → Fn) : (modFn s n f).retiredPairs = s.retiredPairs := rfl
@[simp] theorem modFn_keys (s : State) (n : Nat) (f : Fn → Fn) : (modFn s n f).keys = s.keys := rfl
@[simp] theorem modFn_ownerHash (s : State) (n : Nat) (f : Fn → Fn) : (modFn s n f).ownerHash = s.ownerHash := rfl
@[simp] theorem modFn_block (s : State) (n : Nat) (f : Fn → Fn) : (modFn s n f).block = s.block := rfl
@[simp] theorem modFn_memKeys (s : State) (n : Nat) (f : Fn → Fn) : (modFn s n f).memKeys = s.memKeys := rfl
@[simp] theorem modFn_hostPages (s : State) (n : Nat) (f : Fn → Fn) : (modFn s n f).hostPages = s.hostPages := rfl
@[simp] theorem modFn_reducers (s : State) (n : Nat) (f : Fn → Fn) : (modFn s n f).reducers = s.reducers := rfl
@[simp] theorem modFn_rels (s : State) (n : Nat) (f : Fn → Fn) : (modFn s n f).rels = s.rels := rfl
@[simp] theorem modFn_counts (s : State) (n : Nat) (f : Fn → Fn) : (modFn s n f).counts = s.counts := rfl
@[simp] theorem modFn_pairErrs (s : State) (n : Nat) (f : Fn → Fn) : (modFn s n f).pairErrs = s.pairErrs := rfl
@[simp] theorem modFn_linkUp (s : State) (n : Nat) (f : Fn → Fn) : (modFn s n f).linkUp = s.linkUp := rfl
@[simp] theorem modFn_reports (s : State) (n : Nat) (f : Fn → Fn) : (modFn s n f).reports = s.reports := rfl
@[simp] theorem modFn_blobs (s : State) (n : Nat) (f : Fn → Fn) : (modFn s n f).blobs = s.blobs := rfl
@[simp] theorem modFn_cores (s : State) (n : Nat) (f : Fn → Fn) : (modFn s n f).cores = s.cores := rfl
@[simp] theorem modFn_pools (s : State) (n : Nat) (f : Fn → Fn) : (modFn s n f).pools = s.pools := rfl
@[simp] theorem modFn_units (s : State) (n : Nat) (f : Fn → Fn) : (modFn s n f).units = s.units := rfl
@[simp] theorem modFn_launches (s : State) (n : Nat) (f : Fn → Fn) : (modFn s n f).launches = s.launches := rfl
@[simp] theorem modFn_insts (s : State) (n : Nat) (f : Fn → Fn) : (modFn s n f).insts = s.insts := rfl
@[simp] theorem modFn_ended (s : State) (n : Nat) (f : Fn → Fn) : (modFn s n f).ended = s.ended := rfl
@[simp] theorem modFn_reqs (s : State) (n : Nat) (f : Fn → Fn) : (modFn s n f).reqs = s.reqs := rfl
@[simp] theorem modFn_pageReqs (s : State) (n : Nat) (f : Fn → Fn) : (modFn s n f).pageReqs = s.pageReqs := rfl
@[simp] theorem modFn_walks (s : State) (n : Nat) (f : Fn → Fn) : (modFn s n f).walks = s.walks := rfl
@[simp] theorem modFn_fills (s : State) (n : Nat) (f : Fn → Fn) : (modFn s n f).fills = s.fills := rfl
@[simp] theorem modFn_cmds (s : State) (n : Nat) (f : Fn → Fn) : (modFn s n f).cmds = s.cmds := rfl
@[simp] theorem modFn_engines (s : State) (n : Nat) (f : Fn → Fn) : (modFn s n f).engines = s.engines := rfl
@[simp] theorem modFn_matOps (s : State) (n : Nat) (f : Fn → Fn) : (modFn s n f).matOps = s.matOps := rfl
@[simp] theorem modFn_toStore (s : State) (n : Nat) (f : Fn → Fn) : (modFn s n f).toStore = s.toStore := rfl
@[simp] theorem modFn_comms (s : State) (n : Nat) (f : Fn → Fn) : (modFn s n f).comms = s.comms := rfl
@[simp] theorem modFn_fes (s : State) (n : Nat) (f : Fn → Fn) : (modFn s n f).fes = s.fes := rfl
@[simp] theorem modFn_ctxs (s : State) (n : Nat) (f : Fn → Fn) : (modFn s n f).ctxs = s.ctxs := rfl
@[simp] theorem modFn_clocks (s : State) (n : Nat) (f : Fn → Fn) : (modFn s n f).clocks = s.clocks := rfl
@[simp] theorem modFn_raceLog (s : State) (n : Nat) (f : Fn → Fn) : (modFn s n f).raceLog = s.raceLog := rfl
@[simp] theorem modFn_pfBusy (s : State) (n : Nat) (f : Fn → Fn) : (modFn s n f).pfBusy = s.pfBusy := rfl

/-! ## modCtx -/

@[simp] theorem modCtx_now (s : State) (g : Nat) (f : Ctx → Ctx) : (modCtx s g f).now = s.now := rfl
@[simp] theorem modCtx_cur (s : State) (g : Nat) (f : Ctx → Ctx) : (modCtx s g f).cur = s.cur := rfl
@[simp] theorem modCtx_subj (s : State) (g : Nat) (f : Ctx → Ctx) : (modCtx s g f).subj = s.subj := rfl
@[simp] theorem modCtx_agenda (s : State) (g : Nat) (f : Ctx → Ctx) : (modCtx s g f).agenda = s.agenda := rfl
@[simp] theorem modCtx_inbox (s : State) (g : Nat) (f : Ctx → Ctx) : (modCtx s g f).inbox = s.inbox := rfl
@[simp] theorem modCtx_fresh (s : State) (g : Nat) (f : Ctx → Ctx) : (modCtx s g f).fresh = s.fresh := rfl
@[simp] theorem modCtx_lost (s : State) (g : Nat) (f : Ctx → Ctx) : (modCtx s g f).lost = s.lost := rfl
@[simp] theorem modCtx_quanta (s : State) (g : Nat) (f : Ctx → Ctx) : (modCtx s g f).quanta = s.quanta := rfl
@[simp] theorem modCtx_fnrdyLo (s : State) (g : Nat) (f : Ctx → Ctx) : (modCtx s g f).fnrdyLo = s.fnrdyLo := rfl
@[simp] theorem modCtx_fnrdyHi (s : State) (g : Nat) (f : Ctx → Ctx) : (modCtx s g f).fnrdyHi = s.fnrdyHi := rfl
@[simp] theorem modCtx_node (s : State) (g : Nat) (f : Ctx → Ctx) : (modCtx s g f).node = s.node := rfl
@[simp] theorem modCtx_parts (s : State) (g : Nat) (f : Ctx → Ctx) : (modCtx s g f).parts = s.parts := rfl
@[simp] theorem modCtx_mem (s : State) (g : Nat) (f : Ctx → Ctx) : (modCtx s g f).mem = s.mem := rfl
@[simp] theorem modCtx_memPoison (s : State) (g : Nat) (f : Ctx → Ctx) : (modCtx s g f).memPoison = s.memPoison := rfl
@[simp] theorem modCtx_hostMem (s : State) (g : Nat) (f : Ctx → Ctx) : (modCtx s g f).hostMem = s.hostMem := rfl
@[simp] theorem modCtx_remoteMem (s : State) (g : Nat) (f : Ctx → Ctx) : (modCtx s g f).remoteMem = s.remoteMem := rfl
@[simp] theorem modCtx_sliceTab (s : State) (g : Nat) (f : Ctx → Ctx) : (modCtx s g f).sliceTab = s.sliceTab := rfl
@[simp] theorem modCtx_slicesLost (s : State) (g : Nat) (f : Ctx → Ctx) : (modCtx s g f).slicesLost = s.slicesLost := rfl
@[simp] theorem modCtx_moves (s : State) (g : Nat) (f : Ctx → Ctx) : (modCtx s g f).moves = s.moves := rfl
@[simp] theorem modCtx_l2 (s : State) (g : Nat) (f : Ctx → Ctx) : (modCtx s g f).l2 = s.l2 := rfl
@[simp] theorem modCtx_syncLines (s : State) (g : Nat) (f : Ctx → Ctx) : (modCtx s g f).syncLines = s.syncLines := rfl
@[simp] theorem modCtx_routes (s : State) (g : Nat) (f : Ctx → Ctx) : (modCtx s g f).routes = s.routes := rfl
@[simp] theorem modCtx_routesPending (s : State) (g : Nat) (f : Ctx → Ctx) : (modCtx s g f).routesPending = s.routesPending := rfl
@[simp] theorem modCtx_retiredClusters (s : State) (g : Nat) (f : Ctx → Ctx) : (modCtx s g f).retiredClusters = s.retiredClusters := rfl
@[simp] theorem modCtx_retiredPairs (s : State) (g : Nat) (f : Ctx → Ctx) : (modCtx s g f).retiredPairs = s.retiredPairs := rfl
@[simp] theorem modCtx_keys (s : State) (g : Nat) (f : Ctx → Ctx) : (modCtx s g f).keys = s.keys := rfl
@[simp] theorem modCtx_ownerHash (s : State) (g : Nat) (f : Ctx → Ctx) : (modCtx s g f).ownerHash = s.ownerHash := rfl
@[simp] theorem modCtx_block (s : State) (g : Nat) (f : Ctx → Ctx) : (modCtx s g f).block = s.block := rfl
@[simp] theorem modCtx_memKeys (s : State) (g : Nat) (f : Ctx → Ctx) : (modCtx s g f).memKeys = s.memKeys := rfl
@[simp] theorem modCtx_hostPages (s : State) (g : Nat) (f : Ctx → Ctx) : (modCtx s g f).hostPages = s.hostPages := rfl
@[simp] theorem modCtx_reducers (s : State) (g : Nat) (f : Ctx → Ctx) : (modCtx s g f).reducers = s.reducers := rfl
@[simp] theorem modCtx_rels (s : State) (g : Nat) (f : Ctx → Ctx) : (modCtx s g f).rels = s.rels := rfl
@[simp] theorem modCtx_counts (s : State) (g : Nat) (f : Ctx → Ctx) : (modCtx s g f).counts = s.counts := rfl
@[simp] theorem modCtx_pairErrs (s : State) (g : Nat) (f : Ctx → Ctx) : (modCtx s g f).pairErrs = s.pairErrs := rfl
@[simp] theorem modCtx_linkUp (s : State) (g : Nat) (f : Ctx → Ctx) : (modCtx s g f).linkUp = s.linkUp := rfl
@[simp] theorem modCtx_reports (s : State) (g : Nat) (f : Ctx → Ctx) : (modCtx s g f).reports = s.reports := rfl
@[simp] theorem modCtx_blobs (s : State) (g : Nat) (f : Ctx → Ctx) : (modCtx s g f).blobs = s.blobs := rfl
@[simp] theorem modCtx_cores (s : State) (g : Nat) (f : Ctx → Ctx) : (modCtx s g f).cores = s.cores := rfl
@[simp] theorem modCtx_pools (s : State) (g : Nat) (f : Ctx → Ctx) : (modCtx s g f).pools = s.pools := rfl
@[simp] theorem modCtx_units (s : State) (g : Nat) (f : Ctx → Ctx) : (modCtx s g f).units = s.units := rfl
@[simp] theorem modCtx_launches (s : State) (g : Nat) (f : Ctx → Ctx) : (modCtx s g f).launches = s.launches := rfl
@[simp] theorem modCtx_insts (s : State) (g : Nat) (f : Ctx → Ctx) : (modCtx s g f).insts = s.insts := rfl
@[simp] theorem modCtx_ended (s : State) (g : Nat) (f : Ctx → Ctx) : (modCtx s g f).ended = s.ended := rfl
@[simp] theorem modCtx_reqs (s : State) (g : Nat) (f : Ctx → Ctx) : (modCtx s g f).reqs = s.reqs := rfl
@[simp] theorem modCtx_pageReqs (s : State) (g : Nat) (f : Ctx → Ctx) : (modCtx s g f).pageReqs = s.pageReqs := rfl
@[simp] theorem modCtx_walks (s : State) (g : Nat) (f : Ctx → Ctx) : (modCtx s g f).walks = s.walks := rfl
@[simp] theorem modCtx_fills (s : State) (g : Nat) (f : Ctx → Ctx) : (modCtx s g f).fills = s.fills := rfl
@[simp] theorem modCtx_cmds (s : State) (g : Nat) (f : Ctx → Ctx) : (modCtx s g f).cmds = s.cmds := rfl
@[simp] theorem modCtx_engines (s : State) (g : Nat) (f : Ctx → Ctx) : (modCtx s g f).engines = s.engines := rfl
@[simp] theorem modCtx_matOps (s : State) (g : Nat) (f : Ctx → Ctx) : (modCtx s g f).matOps = s.matOps := rfl
@[simp] theorem modCtx_toStore (s : State) (g : Nat) (f : Ctx → Ctx) : (modCtx s g f).toStore = s.toStore := rfl
@[simp] theorem modCtx_comms (s : State) (g : Nat) (f : Ctx → Ctx) : (modCtx s g f).comms = s.comms := rfl
@[simp] theorem modCtx_fes (s : State) (g : Nat) (f : Ctx → Ctx) : (modCtx s g f).fes = s.fes := rfl
@[simp] theorem modCtx_fns (s : State) (g : Nat) (f : Ctx → Ctx) : (modCtx s g f).fns = s.fns := rfl
@[simp] theorem modCtx_clocks (s : State) (g : Nat) (f : Ctx → Ctx) : (modCtx s g f).clocks = s.clocks := rfl
@[simp] theorem modCtx_raceLog (s : State) (g : Nat) (f : Ctx → Ctx) : (modCtx s g f).raceLog = s.raceLog := rfl
@[simp] theorem modCtx_pfBusy (s : State) (g : Nat) (f : Ctx → Ctx) : (modCtx s g f).pfBusy = s.pfBusy := rfl

/-! ## modCq -/

@[simp] theorem modCq_now (s : State) (n q : Nat) (f : Cq → Cq) : (modCq s n q f).now = s.now := rfl
@[simp] theorem modCq_cur (s : State) (n q : Nat) (f : Cq → Cq) : (modCq s n q f).cur = s.cur := rfl
@[simp] theorem modCq_subj (s : State) (n q : Nat) (f : Cq → Cq) : (modCq s n q f).subj = s.subj := rfl
@[simp] theorem modCq_agenda (s : State) (n q : Nat) (f : Cq → Cq) : (modCq s n q f).agenda = s.agenda := rfl
@[simp] theorem modCq_inbox (s : State) (n q : Nat) (f : Cq → Cq) : (modCq s n q f).inbox = s.inbox := rfl
@[simp] theorem modCq_fresh (s : State) (n q : Nat) (f : Cq → Cq) : (modCq s n q f).fresh = s.fresh := rfl
@[simp] theorem modCq_lost (s : State) (n q : Nat) (f : Cq → Cq) : (modCq s n q f).lost = s.lost := rfl
@[simp] theorem modCq_quanta (s : State) (n q : Nat) (f : Cq → Cq) : (modCq s n q f).quanta = s.quanta := rfl
@[simp] theorem modCq_fnrdyLo (s : State) (n q : Nat) (f : Cq → Cq) : (modCq s n q f).fnrdyLo = s.fnrdyLo := rfl
@[simp] theorem modCq_fnrdyHi (s : State) (n q : Nat) (f : Cq → Cq) : (modCq s n q f).fnrdyHi = s.fnrdyHi := rfl
@[simp] theorem modCq_node (s : State) (n q : Nat) (f : Cq → Cq) : (modCq s n q f).node = s.node := rfl
@[simp] theorem modCq_parts (s : State) (n q : Nat) (f : Cq → Cq) : (modCq s n q f).parts = s.parts := rfl
@[simp] theorem modCq_mem (s : State) (n q : Nat) (f : Cq → Cq) : (modCq s n q f).mem = s.mem := rfl
@[simp] theorem modCq_memPoison (s : State) (n q : Nat) (f : Cq → Cq) : (modCq s n q f).memPoison = s.memPoison := rfl
@[simp] theorem modCq_hostMem (s : State) (n q : Nat) (f : Cq → Cq) : (modCq s n q f).hostMem = s.hostMem := rfl
@[simp] theorem modCq_remoteMem (s : State) (n q : Nat) (f : Cq → Cq) : (modCq s n q f).remoteMem = s.remoteMem := rfl
@[simp] theorem modCq_sliceTab (s : State) (n q : Nat) (f : Cq → Cq) : (modCq s n q f).sliceTab = s.sliceTab := rfl
@[simp] theorem modCq_slicesLost (s : State) (n q : Nat) (f : Cq → Cq) : (modCq s n q f).slicesLost = s.slicesLost := rfl
@[simp] theorem modCq_moves (s : State) (n q : Nat) (f : Cq → Cq) : (modCq s n q f).moves = s.moves := rfl
@[simp] theorem modCq_l2 (s : State) (n q : Nat) (f : Cq → Cq) : (modCq s n q f).l2 = s.l2 := rfl
@[simp] theorem modCq_syncLines (s : State) (n q : Nat) (f : Cq → Cq) : (modCq s n q f).syncLines = s.syncLines := rfl
@[simp] theorem modCq_routes (s : State) (n q : Nat) (f : Cq → Cq) : (modCq s n q f).routes = s.routes := rfl
@[simp] theorem modCq_routesPending (s : State) (n q : Nat) (f : Cq → Cq) : (modCq s n q f).routesPending = s.routesPending := rfl
@[simp] theorem modCq_retiredClusters (s : State) (n q : Nat) (f : Cq → Cq) : (modCq s n q f).retiredClusters = s.retiredClusters := rfl
@[simp] theorem modCq_retiredPairs (s : State) (n q : Nat) (f : Cq → Cq) : (modCq s n q f).retiredPairs = s.retiredPairs := rfl
@[simp] theorem modCq_keys (s : State) (n q : Nat) (f : Cq → Cq) : (modCq s n q f).keys = s.keys := rfl
@[simp] theorem modCq_ownerHash (s : State) (n q : Nat) (f : Cq → Cq) : (modCq s n q f).ownerHash = s.ownerHash := rfl
@[simp] theorem modCq_block (s : State) (n q : Nat) (f : Cq → Cq) : (modCq s n q f).block = s.block := rfl
@[simp] theorem modCq_memKeys (s : State) (n q : Nat) (f : Cq → Cq) : (modCq s n q f).memKeys = s.memKeys := rfl
@[simp] theorem modCq_hostPages (s : State) (n q : Nat) (f : Cq → Cq) : (modCq s n q f).hostPages = s.hostPages := rfl
@[simp] theorem modCq_reducers (s : State) (n q : Nat) (f : Cq → Cq) : (modCq s n q f).reducers = s.reducers := rfl
@[simp] theorem modCq_rels (s : State) (n q : Nat) (f : Cq → Cq) : (modCq s n q f).rels = s.rels := rfl
@[simp] theorem modCq_counts (s : State) (n q : Nat) (f : Cq → Cq) : (modCq s n q f).counts = s.counts := rfl
@[simp] theorem modCq_pairErrs (s : State) (n q : Nat) (f : Cq → Cq) : (modCq s n q f).pairErrs = s.pairErrs := rfl
@[simp] theorem modCq_linkUp (s : State) (n q : Nat) (f : Cq → Cq) : (modCq s n q f).linkUp = s.linkUp := rfl
@[simp] theorem modCq_reports (s : State) (n q : Nat) (f : Cq → Cq) : (modCq s n q f).reports = s.reports := rfl
@[simp] theorem modCq_blobs (s : State) (n q : Nat) (f : Cq → Cq) : (modCq s n q f).blobs = s.blobs := rfl
@[simp] theorem modCq_cores (s : State) (n q : Nat) (f : Cq → Cq) : (modCq s n q f).cores = s.cores := rfl
@[simp] theorem modCq_pools (s : State) (n q : Nat) (f : Cq → Cq) : (modCq s n q f).pools = s.pools := rfl
@[simp] theorem modCq_units (s : State) (n q : Nat) (f : Cq → Cq) : (modCq s n q f).units = s.units := rfl
@[simp] theorem modCq_launches (s : State) (n q : Nat) (f : Cq → Cq) : (modCq s n q f).launches = s.launches := rfl
@[simp] theorem modCq_insts (s : State) (n q : Nat) (f : Cq → Cq) : (modCq s n q f).insts = s.insts := rfl
@[simp] theorem modCq_ended (s : State) (n q : Nat) (f : Cq → Cq) : (modCq s n q f).ended = s.ended := rfl
@[simp] theorem modCq_reqs (s : State) (n q : Nat) (f : Cq → Cq) : (modCq s n q f).reqs = s.reqs := rfl
@[simp] theorem modCq_pageReqs (s : State) (n q : Nat) (f : Cq → Cq) : (modCq s n q f).pageReqs = s.pageReqs := rfl
@[simp] theorem modCq_walks (s : State) (n q : Nat) (f : Cq → Cq) : (modCq s n q f).walks = s.walks := rfl
@[simp] theorem modCq_fills (s : State) (n q : Nat) (f : Cq → Cq) : (modCq s n q f).fills = s.fills := rfl
@[simp] theorem modCq_cmds (s : State) (n q : Nat) (f : Cq → Cq) : (modCq s n q f).cmds = s.cmds := rfl
@[simp] theorem modCq_engines (s : State) (n q : Nat) (f : Cq → Cq) : (modCq s n q f).engines = s.engines := rfl
@[simp] theorem modCq_matOps (s : State) (n q : Nat) (f : Cq → Cq) : (modCq s n q f).matOps = s.matOps := rfl
@[simp] theorem modCq_toStore (s : State) (n q : Nat) (f : Cq → Cq) : (modCq s n q f).toStore = s.toStore := rfl
@[simp] theorem modCq_comms (s : State) (n q : Nat) (f : Cq → Cq) : (modCq s n q f).comms = s.comms := rfl
@[simp] theorem modCq_fes (s : State) (n q : Nat) (f : Cq → Cq) : (modCq s n q f).fes = s.fes := rfl
@[simp] theorem modCq_ctxs (s : State) (n q : Nat) (f : Cq → Cq) : (modCq s n q f).ctxs = s.ctxs := rfl
@[simp] theorem modCq_clocks (s : State) (n q : Nat) (f : Cq → Cq) : (modCq s n q f).clocks = s.clocks := rfl
@[simp] theorem modCq_raceLog (s : State) (n q : Nat) (f : Cq → Cq) : (modCq s n q f).raceLog = s.raceLog := rfl
@[simp] theorem modCq_pfBusy (s : State) (n q : Nat) (f : Cq → Cq) : (modCq s n q f).pfBusy = s.pfBusy := rfl

/-! ## modInst -/

@[simp] theorem modInst_now (s : State) (n : Nat) (h : Word) (f : Inst → Inst) : (modInst s n h f).now = s.now := rfl
@[simp] theorem modInst_cur (s : State) (n : Nat) (h : Word) (f : Inst → Inst) : (modInst s n h f).cur = s.cur := rfl
@[simp] theorem modInst_subj (s : State) (n : Nat) (h : Word) (f : Inst → Inst) : (modInst s n h f).subj = s.subj := rfl
@[simp] theorem modInst_agenda (s : State) (n : Nat) (h : Word) (f : Inst → Inst) : (modInst s n h f).agenda = s.agenda := rfl
@[simp] theorem modInst_inbox (s : State) (n : Nat) (h : Word) (f : Inst → Inst) : (modInst s n h f).inbox = s.inbox := rfl
@[simp] theorem modInst_fresh (s : State) (n : Nat) (h : Word) (f : Inst → Inst) : (modInst s n h f).fresh = s.fresh := rfl
@[simp] theorem modInst_lost (s : State) (n : Nat) (h : Word) (f : Inst → Inst) : (modInst s n h f).lost = s.lost := rfl
@[simp] theorem modInst_quanta (s : State) (n : Nat) (h : Word) (f : Inst → Inst) : (modInst s n h f).quanta = s.quanta := rfl
@[simp] theorem modInst_fnrdyLo (s : State) (n : Nat) (h : Word) (f : Inst → Inst) : (modInst s n h f).fnrdyLo = s.fnrdyLo := rfl
@[simp] theorem modInst_fnrdyHi (s : State) (n : Nat) (h : Word) (f : Inst → Inst) : (modInst s n h f).fnrdyHi = s.fnrdyHi := rfl
@[simp] theorem modInst_node (s : State) (n : Nat) (h : Word) (f : Inst → Inst) : (modInst s n h f).node = s.node := rfl
@[simp] theorem modInst_parts (s : State) (n : Nat) (h : Word) (f : Inst → Inst) : (modInst s n h f).parts = s.parts := rfl
@[simp] theorem modInst_mem (s : State) (n : Nat) (h : Word) (f : Inst → Inst) : (modInst s n h f).mem = s.mem := rfl
@[simp] theorem modInst_memPoison (s : State) (n : Nat) (h : Word) (f : Inst → Inst) : (modInst s n h f).memPoison = s.memPoison := rfl
@[simp] theorem modInst_hostMem (s : State) (n : Nat) (h : Word) (f : Inst → Inst) : (modInst s n h f).hostMem = s.hostMem := rfl
@[simp] theorem modInst_remoteMem (s : State) (n : Nat) (h : Word) (f : Inst → Inst) : (modInst s n h f).remoteMem = s.remoteMem := rfl
@[simp] theorem modInst_sliceTab (s : State) (n : Nat) (h : Word) (f : Inst → Inst) : (modInst s n h f).sliceTab = s.sliceTab := rfl
@[simp] theorem modInst_slicesLost (s : State) (n : Nat) (h : Word) (f : Inst → Inst) : (modInst s n h f).slicesLost = s.slicesLost := rfl
@[simp] theorem modInst_moves (s : State) (n : Nat) (h : Word) (f : Inst → Inst) : (modInst s n h f).moves = s.moves := rfl
@[simp] theorem modInst_l2 (s : State) (n : Nat) (h : Word) (f : Inst → Inst) : (modInst s n h f).l2 = s.l2 := rfl
@[simp] theorem modInst_syncLines (s : State) (n : Nat) (h : Word) (f : Inst → Inst) : (modInst s n h f).syncLines = s.syncLines := rfl
@[simp] theorem modInst_routes (s : State) (n : Nat) (h : Word) (f : Inst → Inst) : (modInst s n h f).routes = s.routes := rfl
@[simp] theorem modInst_routesPending (s : State) (n : Nat) (h : Word) (f : Inst → Inst) : (modInst s n h f).routesPending = s.routesPending := rfl
@[simp] theorem modInst_retiredClusters (s : State) (n : Nat) (h : Word) (f : Inst → Inst) : (modInst s n h f).retiredClusters = s.retiredClusters := rfl
@[simp] theorem modInst_retiredPairs (s : State) (n : Nat) (h : Word) (f : Inst → Inst) : (modInst s n h f).retiredPairs = s.retiredPairs := rfl
@[simp] theorem modInst_keys (s : State) (n : Nat) (h : Word) (f : Inst → Inst) : (modInst s n h f).keys = s.keys := rfl
@[simp] theorem modInst_ownerHash (s : State) (n : Nat) (h : Word) (f : Inst → Inst) : (modInst s n h f).ownerHash = s.ownerHash := rfl
@[simp] theorem modInst_block (s : State) (n : Nat) (h : Word) (f : Inst → Inst) : (modInst s n h f).block = s.block := rfl
@[simp] theorem modInst_memKeys (s : State) (n : Nat) (h : Word) (f : Inst → Inst) : (modInst s n h f).memKeys = s.memKeys := rfl
@[simp] theorem modInst_hostPages (s : State) (n : Nat) (h : Word) (f : Inst → Inst) : (modInst s n h f).hostPages = s.hostPages := rfl
@[simp] theorem modInst_reducers (s : State) (n : Nat) (h : Word) (f : Inst → Inst) : (modInst s n h f).reducers = s.reducers := rfl
@[simp] theorem modInst_rels (s : State) (n : Nat) (h : Word) (f : Inst → Inst) : (modInst s n h f).rels = s.rels := rfl
@[simp] theorem modInst_counts (s : State) (n : Nat) (h : Word) (f : Inst → Inst) : (modInst s n h f).counts = s.counts := rfl
@[simp] theorem modInst_pairErrs (s : State) (n : Nat) (h : Word) (f : Inst → Inst) : (modInst s n h f).pairErrs = s.pairErrs := rfl
@[simp] theorem modInst_linkUp (s : State) (n : Nat) (h : Word) (f : Inst → Inst) : (modInst s n h f).linkUp = s.linkUp := rfl
@[simp] theorem modInst_reports (s : State) (n : Nat) (h : Word) (f : Inst → Inst) : (modInst s n h f).reports = s.reports := rfl
@[simp] theorem modInst_blobs (s : State) (n : Nat) (h : Word) (f : Inst → Inst) : (modInst s n h f).blobs = s.blobs := rfl
@[simp] theorem modInst_cores (s : State) (n : Nat) (h : Word) (f : Inst → Inst) : (modInst s n h f).cores = s.cores := rfl
@[simp] theorem modInst_pools (s : State) (n : Nat) (h : Word) (f : Inst → Inst) : (modInst s n h f).pools = s.pools := rfl
@[simp] theorem modInst_units (s : State) (n : Nat) (h : Word) (f : Inst → Inst) : (modInst s n h f).units = s.units := rfl
@[simp] theorem modInst_launches (s : State) (n : Nat) (h : Word) (f : Inst → Inst) : (modInst s n h f).launches = s.launches := rfl
@[simp] theorem modInst_ended (s : State) (n : Nat) (h : Word) (f : Inst → Inst) : (modInst s n h f).ended = s.ended := rfl
@[simp] theorem modInst_reqs (s : State) (n : Nat) (h : Word) (f : Inst → Inst) : (modInst s n h f).reqs = s.reqs := rfl
@[simp] theorem modInst_pageReqs (s : State) (n : Nat) (h : Word) (f : Inst → Inst) : (modInst s n h f).pageReqs = s.pageReqs := rfl
@[simp] theorem modInst_walks (s : State) (n : Nat) (h : Word) (f : Inst → Inst) : (modInst s n h f).walks = s.walks := rfl
@[simp] theorem modInst_fills (s : State) (n : Nat) (h : Word) (f : Inst → Inst) : (modInst s n h f).fills = s.fills := rfl
@[simp] theorem modInst_cmds (s : State) (n : Nat) (h : Word) (f : Inst → Inst) : (modInst s n h f).cmds = s.cmds := rfl
@[simp] theorem modInst_engines (s : State) (n : Nat) (h : Word) (f : Inst → Inst) : (modInst s n h f).engines = s.engines := rfl
@[simp] theorem modInst_matOps (s : State) (n : Nat) (h : Word) (f : Inst → Inst) : (modInst s n h f).matOps = s.matOps := rfl
@[simp] theorem modInst_toStore (s : State) (n : Nat) (h : Word) (f : Inst → Inst) : (modInst s n h f).toStore = s.toStore := rfl
@[simp] theorem modInst_comms (s : State) (n : Nat) (h : Word) (f : Inst → Inst) : (modInst s n h f).comms = s.comms := rfl
@[simp] theorem modInst_fes (s : State) (n : Nat) (h : Word) (f : Inst → Inst) : (modInst s n h f).fes = s.fes := rfl
@[simp] theorem modInst_fns (s : State) (n : Nat) (h : Word) (f : Inst → Inst) : (modInst s n h f).fns = s.fns := rfl
@[simp] theorem modInst_ctxs (s : State) (n : Nat) (h : Word) (f : Inst → Inst) : (modInst s n h f).ctxs = s.ctxs := rfl
@[simp] theorem modInst_clocks (s : State) (n : Nat) (h : Word) (f : Inst → Inst) : (modInst s n h f).clocks = s.clocks := rfl
@[simp] theorem modInst_raceLog (s : State) (n : Nat) (h : Word) (f : Inst → Inst) : (modInst s n h f).raceLog = s.raceLog := rfl
@[simp] theorem modInst_pfBusy (s : State) (n : Nat) (h : Word) (f : Inst → Inst) : (modInst s n h f).pfBusy = s.pfBusy := rfl

/-! ## modEngine -/

@[simp] theorem modEngine_now (s : State) (e : Nat) (f : Engine → Engine) : (modEngine s e f).now = s.now := rfl
@[simp] theorem modEngine_cur (s : State) (e : Nat) (f : Engine → Engine) : (modEngine s e f).cur = s.cur := rfl
@[simp] theorem modEngine_subj (s : State) (e : Nat) (f : Engine → Engine) : (modEngine s e f).subj = s.subj := rfl
@[simp] theorem modEngine_agenda (s : State) (e : Nat) (f : Engine → Engine) : (modEngine s e f).agenda = s.agenda := rfl
@[simp] theorem modEngine_inbox (s : State) (e : Nat) (f : Engine → Engine) : (modEngine s e f).inbox = s.inbox := rfl
@[simp] theorem modEngine_fresh (s : State) (e : Nat) (f : Engine → Engine) : (modEngine s e f).fresh = s.fresh := rfl
@[simp] theorem modEngine_lost (s : State) (e : Nat) (f : Engine → Engine) : (modEngine s e f).lost = s.lost := rfl
@[simp] theorem modEngine_quanta (s : State) (e : Nat) (f : Engine → Engine) : (modEngine s e f).quanta = s.quanta := rfl
@[simp] theorem modEngine_fnrdyLo (s : State) (e : Nat) (f : Engine → Engine) : (modEngine s e f).fnrdyLo = s.fnrdyLo := rfl
@[simp] theorem modEngine_fnrdyHi (s : State) (e : Nat) (f : Engine → Engine) : (modEngine s e f).fnrdyHi = s.fnrdyHi := rfl
@[simp] theorem modEngine_node (s : State) (e : Nat) (f : Engine → Engine) : (modEngine s e f).node = s.node := rfl
@[simp] theorem modEngine_parts (s : State) (e : Nat) (f : Engine → Engine) : (modEngine s e f).parts = s.parts := rfl
@[simp] theorem modEngine_mem (s : State) (e : Nat) (f : Engine → Engine) : (modEngine s e f).mem = s.mem := rfl
@[simp] theorem modEngine_memPoison (s : State) (e : Nat) (f : Engine → Engine) : (modEngine s e f).memPoison = s.memPoison := rfl
@[simp] theorem modEngine_hostMem (s : State) (e : Nat) (f : Engine → Engine) : (modEngine s e f).hostMem = s.hostMem := rfl
@[simp] theorem modEngine_remoteMem (s : State) (e : Nat) (f : Engine → Engine) : (modEngine s e f).remoteMem = s.remoteMem := rfl
@[simp] theorem modEngine_sliceTab (s : State) (e : Nat) (f : Engine → Engine) : (modEngine s e f).sliceTab = s.sliceTab := rfl
@[simp] theorem modEngine_slicesLost (s : State) (e : Nat) (f : Engine → Engine) : (modEngine s e f).slicesLost = s.slicesLost := rfl
@[simp] theorem modEngine_moves (s : State) (e : Nat) (f : Engine → Engine) : (modEngine s e f).moves = s.moves := rfl
@[simp] theorem modEngine_l2 (s : State) (e : Nat) (f : Engine → Engine) : (modEngine s e f).l2 = s.l2 := rfl
@[simp] theorem modEngine_syncLines (s : State) (e : Nat) (f : Engine → Engine) : (modEngine s e f).syncLines = s.syncLines := rfl
@[simp] theorem modEngine_routes (s : State) (e : Nat) (f : Engine → Engine) : (modEngine s e f).routes = s.routes := rfl
@[simp] theorem modEngine_routesPending (s : State) (e : Nat) (f : Engine → Engine) : (modEngine s e f).routesPending = s.routesPending := rfl
@[simp] theorem modEngine_retiredClusters (s : State) (e : Nat) (f : Engine → Engine) : (modEngine s e f).retiredClusters = s.retiredClusters := rfl
@[simp] theorem modEngine_retiredPairs (s : State) (e : Nat) (f : Engine → Engine) : (modEngine s e f).retiredPairs = s.retiredPairs := rfl
@[simp] theorem modEngine_keys (s : State) (e : Nat) (f : Engine → Engine) : (modEngine s e f).keys = s.keys := rfl
@[simp] theorem modEngine_ownerHash (s : State) (e : Nat) (f : Engine → Engine) : (modEngine s e f).ownerHash = s.ownerHash := rfl
@[simp] theorem modEngine_block (s : State) (e : Nat) (f : Engine → Engine) : (modEngine s e f).block = s.block := rfl
@[simp] theorem modEngine_memKeys (s : State) (e : Nat) (f : Engine → Engine) : (modEngine s e f).memKeys = s.memKeys := rfl
@[simp] theorem modEngine_hostPages (s : State) (e : Nat) (f : Engine → Engine) : (modEngine s e f).hostPages = s.hostPages := rfl
@[simp] theorem modEngine_reducers (s : State) (e : Nat) (f : Engine → Engine) : (modEngine s e f).reducers = s.reducers := rfl
@[simp] theorem modEngine_rels (s : State) (e : Nat) (f : Engine → Engine) : (modEngine s e f).rels = s.rels := rfl
@[simp] theorem modEngine_counts (s : State) (e : Nat) (f : Engine → Engine) : (modEngine s e f).counts = s.counts := rfl
@[simp] theorem modEngine_pairErrs (s : State) (e : Nat) (f : Engine → Engine) : (modEngine s e f).pairErrs = s.pairErrs := rfl
@[simp] theorem modEngine_linkUp (s : State) (e : Nat) (f : Engine → Engine) : (modEngine s e f).linkUp = s.linkUp := rfl
@[simp] theorem modEngine_reports (s : State) (e : Nat) (f : Engine → Engine) : (modEngine s e f).reports = s.reports := rfl
@[simp] theorem modEngine_blobs (s : State) (e : Nat) (f : Engine → Engine) : (modEngine s e f).blobs = s.blobs := rfl
@[simp] theorem modEngine_cores (s : State) (e : Nat) (f : Engine → Engine) : (modEngine s e f).cores = s.cores := rfl
@[simp] theorem modEngine_pools (s : State) (e : Nat) (f : Engine → Engine) : (modEngine s e f).pools = s.pools := rfl
@[simp] theorem modEngine_units (s : State) (e : Nat) (f : Engine → Engine) : (modEngine s e f).units = s.units := rfl
@[simp] theorem modEngine_launches (s : State) (e : Nat) (f : Engine → Engine) : (modEngine s e f).launches = s.launches := rfl
@[simp] theorem modEngine_insts (s : State) (e : Nat) (f : Engine → Engine) : (modEngine s e f).insts = s.insts := rfl
@[simp] theorem modEngine_ended (s : State) (e : Nat) (f : Engine → Engine) : (modEngine s e f).ended = s.ended := rfl
@[simp] theorem modEngine_reqs (s : State) (e : Nat) (f : Engine → Engine) : (modEngine s e f).reqs = s.reqs := rfl
@[simp] theorem modEngine_pageReqs (s : State) (e : Nat) (f : Engine → Engine) : (modEngine s e f).pageReqs = s.pageReqs := rfl
@[simp] theorem modEngine_walks (s : State) (e : Nat) (f : Engine → Engine) : (modEngine s e f).walks = s.walks := rfl
@[simp] theorem modEngine_fills (s : State) (e : Nat) (f : Engine → Engine) : (modEngine s e f).fills = s.fills := rfl
@[simp] theorem modEngine_cmds (s : State) (e : Nat) (f : Engine → Engine) : (modEngine s e f).cmds = s.cmds := rfl
@[simp] theorem modEngine_matOps (s : State) (e : Nat) (f : Engine → Engine) : (modEngine s e f).matOps = s.matOps := rfl
@[simp] theorem modEngine_toStore (s : State) (e : Nat) (f : Engine → Engine) : (modEngine s e f).toStore = s.toStore := rfl
@[simp] theorem modEngine_comms (s : State) (e : Nat) (f : Engine → Engine) : (modEngine s e f).comms = s.comms := rfl
@[simp] theorem modEngine_fes (s : State) (e : Nat) (f : Engine → Engine) : (modEngine s e f).fes = s.fes := rfl
@[simp] theorem modEngine_fns (s : State) (e : Nat) (f : Engine → Engine) : (modEngine s e f).fns = s.fns := rfl
@[simp] theorem modEngine_ctxs (s : State) (e : Nat) (f : Engine → Engine) : (modEngine s e f).ctxs = s.ctxs := rfl
@[simp] theorem modEngine_clocks (s : State) (e : Nat) (f : Engine → Engine) : (modEngine s e f).clocks = s.clocks := rfl
@[simp] theorem modEngine_raceLog (s : State) (e : Nat) (f : Engine → Engine) : (modEngine s e f).raceLog = s.raceLog := rfl
@[simp] theorem modEngine_pfBusy (s : State) (e : Nat) (f : Engine → Engine) : (modEngine s e f).pfBusy = s.pfBusy := rfl

/-! ## modMat -/

@[simp] theorem modMat_now (s : State) (m : Nat) (f : MatOp → MatOp) : (modMat s m f).now = s.now := rfl
@[simp] theorem modMat_cur (s : State) (m : Nat) (f : MatOp → MatOp) : (modMat s m f).cur = s.cur := rfl
@[simp] theorem modMat_subj (s : State) (m : Nat) (f : MatOp → MatOp) : (modMat s m f).subj = s.subj := rfl
@[simp] theorem modMat_agenda (s : State) (m : Nat) (f : MatOp → MatOp) : (modMat s m f).agenda = s.agenda := rfl
@[simp] theorem modMat_inbox (s : State) (m : Nat) (f : MatOp → MatOp) : (modMat s m f).inbox = s.inbox := rfl
@[simp] theorem modMat_fresh (s : State) (m : Nat) (f : MatOp → MatOp) : (modMat s m f).fresh = s.fresh := rfl
@[simp] theorem modMat_lost (s : State) (m : Nat) (f : MatOp → MatOp) : (modMat s m f).lost = s.lost := rfl
@[simp] theorem modMat_quanta (s : State) (m : Nat) (f : MatOp → MatOp) : (modMat s m f).quanta = s.quanta := rfl
@[simp] theorem modMat_fnrdyLo (s : State) (m : Nat) (f : MatOp → MatOp) : (modMat s m f).fnrdyLo = s.fnrdyLo := rfl
@[simp] theorem modMat_fnrdyHi (s : State) (m : Nat) (f : MatOp → MatOp) : (modMat s m f).fnrdyHi = s.fnrdyHi := rfl
@[simp] theorem modMat_node (s : State) (m : Nat) (f : MatOp → MatOp) : (modMat s m f).node = s.node := rfl
@[simp] theorem modMat_parts (s : State) (m : Nat) (f : MatOp → MatOp) : (modMat s m f).parts = s.parts := rfl
@[simp] theorem modMat_mem (s : State) (m : Nat) (f : MatOp → MatOp) : (modMat s m f).mem = s.mem := rfl
@[simp] theorem modMat_memPoison (s : State) (m : Nat) (f : MatOp → MatOp) : (modMat s m f).memPoison = s.memPoison := rfl
@[simp] theorem modMat_hostMem (s : State) (m : Nat) (f : MatOp → MatOp) : (modMat s m f).hostMem = s.hostMem := rfl
@[simp] theorem modMat_remoteMem (s : State) (m : Nat) (f : MatOp → MatOp) : (modMat s m f).remoteMem = s.remoteMem := rfl
@[simp] theorem modMat_sliceTab (s : State) (m : Nat) (f : MatOp → MatOp) : (modMat s m f).sliceTab = s.sliceTab := rfl
@[simp] theorem modMat_slicesLost (s : State) (m : Nat) (f : MatOp → MatOp) : (modMat s m f).slicesLost = s.slicesLost := rfl
@[simp] theorem modMat_moves (s : State) (m : Nat) (f : MatOp → MatOp) : (modMat s m f).moves = s.moves := rfl
@[simp] theorem modMat_l2 (s : State) (m : Nat) (f : MatOp → MatOp) : (modMat s m f).l2 = s.l2 := rfl
@[simp] theorem modMat_syncLines (s : State) (m : Nat) (f : MatOp → MatOp) : (modMat s m f).syncLines = s.syncLines := rfl
@[simp] theorem modMat_routes (s : State) (m : Nat) (f : MatOp → MatOp) : (modMat s m f).routes = s.routes := rfl
@[simp] theorem modMat_routesPending (s : State) (m : Nat) (f : MatOp → MatOp) : (modMat s m f).routesPending = s.routesPending := rfl
@[simp] theorem modMat_retiredClusters (s : State) (m : Nat) (f : MatOp → MatOp) : (modMat s m f).retiredClusters = s.retiredClusters := rfl
@[simp] theorem modMat_retiredPairs (s : State) (m : Nat) (f : MatOp → MatOp) : (modMat s m f).retiredPairs = s.retiredPairs := rfl
@[simp] theorem modMat_keys (s : State) (m : Nat) (f : MatOp → MatOp) : (modMat s m f).keys = s.keys := rfl
@[simp] theorem modMat_ownerHash (s : State) (m : Nat) (f : MatOp → MatOp) : (modMat s m f).ownerHash = s.ownerHash := rfl
@[simp] theorem modMat_block (s : State) (m : Nat) (f : MatOp → MatOp) : (modMat s m f).block = s.block := rfl
@[simp] theorem modMat_memKeys (s : State) (m : Nat) (f : MatOp → MatOp) : (modMat s m f).memKeys = s.memKeys := rfl
@[simp] theorem modMat_hostPages (s : State) (m : Nat) (f : MatOp → MatOp) : (modMat s m f).hostPages = s.hostPages := rfl
@[simp] theorem modMat_reducers (s : State) (m : Nat) (f : MatOp → MatOp) : (modMat s m f).reducers = s.reducers := rfl
@[simp] theorem modMat_rels (s : State) (m : Nat) (f : MatOp → MatOp) : (modMat s m f).rels = s.rels := rfl
@[simp] theorem modMat_counts (s : State) (m : Nat) (f : MatOp → MatOp) : (modMat s m f).counts = s.counts := rfl
@[simp] theorem modMat_pairErrs (s : State) (m : Nat) (f : MatOp → MatOp) : (modMat s m f).pairErrs = s.pairErrs := rfl
@[simp] theorem modMat_linkUp (s : State) (m : Nat) (f : MatOp → MatOp) : (modMat s m f).linkUp = s.linkUp := rfl
@[simp] theorem modMat_reports (s : State) (m : Nat) (f : MatOp → MatOp) : (modMat s m f).reports = s.reports := rfl
@[simp] theorem modMat_blobs (s : State) (m : Nat) (f : MatOp → MatOp) : (modMat s m f).blobs = s.blobs := rfl
@[simp] theorem modMat_cores (s : State) (m : Nat) (f : MatOp → MatOp) : (modMat s m f).cores = s.cores := rfl
@[simp] theorem modMat_pools (s : State) (m : Nat) (f : MatOp → MatOp) : (modMat s m f).pools = s.pools := rfl
@[simp] theorem modMat_units (s : State) (m : Nat) (f : MatOp → MatOp) : (modMat s m f).units = s.units := rfl
@[simp] theorem modMat_launches (s : State) (m : Nat) (f : MatOp → MatOp) : (modMat s m f).launches = s.launches := rfl
@[simp] theorem modMat_insts (s : State) (m : Nat) (f : MatOp → MatOp) : (modMat s m f).insts = s.insts := rfl
@[simp] theorem modMat_ended (s : State) (m : Nat) (f : MatOp → MatOp) : (modMat s m f).ended = s.ended := rfl
@[simp] theorem modMat_reqs (s : State) (m : Nat) (f : MatOp → MatOp) : (modMat s m f).reqs = s.reqs := rfl
@[simp] theorem modMat_pageReqs (s : State) (m : Nat) (f : MatOp → MatOp) : (modMat s m f).pageReqs = s.pageReqs := rfl
@[simp] theorem modMat_walks (s : State) (m : Nat) (f : MatOp → MatOp) : (modMat s m f).walks = s.walks := rfl
@[simp] theorem modMat_fills (s : State) (m : Nat) (f : MatOp → MatOp) : (modMat s m f).fills = s.fills := rfl
@[simp] theorem modMat_cmds (s : State) (m : Nat) (f : MatOp → MatOp) : (modMat s m f).cmds = s.cmds := rfl
@[simp] theorem modMat_engines (s : State) (m : Nat) (f : MatOp → MatOp) : (modMat s m f).engines = s.engines := rfl
@[simp] theorem modMat_toStore (s : State) (m : Nat) (f : MatOp → MatOp) : (modMat s m f).toStore = s.toStore := rfl
@[simp] theorem modMat_comms (s : State) (m : Nat) (f : MatOp → MatOp) : (modMat s m f).comms = s.comms := rfl
@[simp] theorem modMat_fes (s : State) (m : Nat) (f : MatOp → MatOp) : (modMat s m f).fes = s.fes := rfl
@[simp] theorem modMat_fns (s : State) (m : Nat) (f : MatOp → MatOp) : (modMat s m f).fns = s.fns := rfl
@[simp] theorem modMat_ctxs (s : State) (m : Nat) (f : MatOp → MatOp) : (modMat s m f).ctxs = s.ctxs := rfl
@[simp] theorem modMat_clocks (s : State) (m : Nat) (f : MatOp → MatOp) : (modMat s m f).clocks = s.clocks := rfl
@[simp] theorem modMat_raceLog (s : State) (m : Nat) (f : MatOp → MatOp) : (modMat s m f).raceLog = s.raceLog := rfl
@[simp] theorem modMat_pfBusy (s : State) (m : Nat) (f : MatOp → MatOp) : (modMat s m f).pfBusy = s.pfBusy := rfl

/-! ## setClock -/

@[simp] theorem setClock_now (s : State) (v c n : Nat) : (setClock s v c n).now = s.now := rfl
@[simp] theorem setClock_cur (s : State) (v c n : Nat) : (setClock s v c n).cur = s.cur := rfl
@[simp] theorem setClock_subj (s : State) (v c n : Nat) : (setClock s v c n).subj = s.subj := rfl
@[simp] theorem setClock_agenda (s : State) (v c n : Nat) : (setClock s v c n).agenda = s.agenda := rfl
@[simp] theorem setClock_inbox (s : State) (v c n : Nat) : (setClock s v c n).inbox = s.inbox := rfl
@[simp] theorem setClock_fresh (s : State) (v c n : Nat) : (setClock s v c n).fresh = s.fresh := rfl
@[simp] theorem setClock_lost (s : State) (v c n : Nat) : (setClock s v c n).lost = s.lost := rfl
@[simp] theorem setClock_quanta (s : State) (v c n : Nat) : (setClock s v c n).quanta = s.quanta := rfl
@[simp] theorem setClock_fnrdyLo (s : State) (v c n : Nat) : (setClock s v c n).fnrdyLo = s.fnrdyLo := rfl
@[simp] theorem setClock_fnrdyHi (s : State) (v c n : Nat) : (setClock s v c n).fnrdyHi = s.fnrdyHi := rfl
@[simp] theorem setClock_node (s : State) (v c n : Nat) : (setClock s v c n).node = s.node := rfl
@[simp] theorem setClock_parts (s : State) (v c n : Nat) : (setClock s v c n).parts = s.parts := rfl
@[simp] theorem setClock_mem (s : State) (v c n : Nat) : (setClock s v c n).mem = s.mem := rfl
@[simp] theorem setClock_memPoison (s : State) (v c n : Nat) : (setClock s v c n).memPoison = s.memPoison := rfl
@[simp] theorem setClock_hostMem (s : State) (v c n : Nat) : (setClock s v c n).hostMem = s.hostMem := rfl
@[simp] theorem setClock_remoteMem (s : State) (v c n : Nat) : (setClock s v c n).remoteMem = s.remoteMem := rfl
@[simp] theorem setClock_sliceTab (s : State) (v c n : Nat) : (setClock s v c n).sliceTab = s.sliceTab := rfl
@[simp] theorem setClock_slicesLost (s : State) (v c n : Nat) : (setClock s v c n).slicesLost = s.slicesLost := rfl
@[simp] theorem setClock_moves (s : State) (v c n : Nat) : (setClock s v c n).moves = s.moves := rfl
@[simp] theorem setClock_l2 (s : State) (v c n : Nat) : (setClock s v c n).l2 = s.l2 := rfl
@[simp] theorem setClock_syncLines (s : State) (v c n : Nat) : (setClock s v c n).syncLines = s.syncLines := rfl
@[simp] theorem setClock_routes (s : State) (v c n : Nat) : (setClock s v c n).routes = s.routes := rfl
@[simp] theorem setClock_routesPending (s : State) (v c n : Nat) : (setClock s v c n).routesPending = s.routesPending := rfl
@[simp] theorem setClock_retiredClusters (s : State) (v c n : Nat) : (setClock s v c n).retiredClusters = s.retiredClusters := rfl
@[simp] theorem setClock_retiredPairs (s : State) (v c n : Nat) : (setClock s v c n).retiredPairs = s.retiredPairs := rfl
@[simp] theorem setClock_keys (s : State) (v c n : Nat) : (setClock s v c n).keys = s.keys := rfl
@[simp] theorem setClock_ownerHash (s : State) (v c n : Nat) : (setClock s v c n).ownerHash = s.ownerHash := rfl
@[simp] theorem setClock_block (s : State) (v c n : Nat) : (setClock s v c n).block = s.block := rfl
@[simp] theorem setClock_memKeys (s : State) (v c n : Nat) : (setClock s v c n).memKeys = s.memKeys := rfl
@[simp] theorem setClock_hostPages (s : State) (v c n : Nat) : (setClock s v c n).hostPages = s.hostPages := rfl
@[simp] theorem setClock_reducers (s : State) (v c n : Nat) : (setClock s v c n).reducers = s.reducers := rfl
@[simp] theorem setClock_rels (s : State) (v c n : Nat) : (setClock s v c n).rels = s.rels := rfl
@[simp] theorem setClock_counts (s : State) (v c n : Nat) : (setClock s v c n).counts = s.counts := rfl
@[simp] theorem setClock_pairErrs (s : State) (v c n : Nat) : (setClock s v c n).pairErrs = s.pairErrs := rfl
@[simp] theorem setClock_linkUp (s : State) (v c n : Nat) : (setClock s v c n).linkUp = s.linkUp := rfl
@[simp] theorem setClock_reports (s : State) (v c n : Nat) : (setClock s v c n).reports = s.reports := rfl
@[simp] theorem setClock_blobs (s : State) (v c n : Nat) : (setClock s v c n).blobs = s.blobs := rfl
@[simp] theorem setClock_cores (s : State) (v c n : Nat) : (setClock s v c n).cores = s.cores := rfl
@[simp] theorem setClock_pools (s : State) (v c n : Nat) : (setClock s v c n).pools = s.pools := rfl
@[simp] theorem setClock_units (s : State) (v c n : Nat) : (setClock s v c n).units = s.units := rfl
@[simp] theorem setClock_launches (s : State) (v c n : Nat) : (setClock s v c n).launches = s.launches := rfl
@[simp] theorem setClock_insts (s : State) (v c n : Nat) : (setClock s v c n).insts = s.insts := rfl
@[simp] theorem setClock_ended (s : State) (v c n : Nat) : (setClock s v c n).ended = s.ended := rfl
@[simp] theorem setClock_reqs (s : State) (v c n : Nat) : (setClock s v c n).reqs = s.reqs := rfl
@[simp] theorem setClock_pageReqs (s : State) (v c n : Nat) : (setClock s v c n).pageReqs = s.pageReqs := rfl
@[simp] theorem setClock_walks (s : State) (v c n : Nat) : (setClock s v c n).walks = s.walks := rfl
@[simp] theorem setClock_fills (s : State) (v c n : Nat) : (setClock s v c n).fills = s.fills := rfl
@[simp] theorem setClock_cmds (s : State) (v c n : Nat) : (setClock s v c n).cmds = s.cmds := rfl
@[simp] theorem setClock_engines (s : State) (v c n : Nat) : (setClock s v c n).engines = s.engines := rfl
@[simp] theorem setClock_matOps (s : State) (v c n : Nat) : (setClock s v c n).matOps = s.matOps := rfl
@[simp] theorem setClock_toStore (s : State) (v c n : Nat) : (setClock s v c n).toStore = s.toStore := rfl
@[simp] theorem setClock_comms (s : State) (v c n : Nat) : (setClock s v c n).comms = s.comms := rfl
@[simp] theorem setClock_fes (s : State) (v c n : Nat) : (setClock s v c n).fes = s.fes := rfl
@[simp] theorem setClock_fns (s : State) (v c n : Nat) : (setClock s v c n).fns = s.fns := rfl
@[simp] theorem setClock_ctxs (s : State) (v c n : Nat) : (setClock s v c n).ctxs = s.ctxs := rfl
@[simp] theorem setClock_raceLog (s : State) (v c n : Nat) : (setClock s v c n).raceLog = s.raceLog := rfl
@[simp] theorem setClock_pfBusy (s : State) (v c n : Nat) : (setClock s v c n).pfBusy = s.pfBusy := rfl

/-! ## schedule -/

@[simp] theorem schedule_now (s : State) (d : Nat) (i : Instr) (x : Subject) : (schedule s d i x).now = s.now := rfl
@[simp] theorem schedule_cur (s : State) (d : Nat) (i : Instr) (x : Subject) : (schedule s d i x).cur = s.cur := rfl
@[simp] theorem schedule_subj (s : State) (d : Nat) (i : Instr) (x : Subject) : (schedule s d i x).subj = s.subj := rfl
@[simp] theorem schedule_inbox (s : State) (d : Nat) (i : Instr) (x : Subject) : (schedule s d i x).inbox = s.inbox := rfl
@[simp] theorem schedule_fresh (s : State) (d : Nat) (i : Instr) (x : Subject) : (schedule s d i x).fresh = s.fresh := rfl
@[simp] theorem schedule_lost (s : State) (d : Nat) (i : Instr) (x : Subject) : (schedule s d i x).lost = s.lost := rfl
@[simp] theorem schedule_quanta (s : State) (d : Nat) (i : Instr) (x : Subject) : (schedule s d i x).quanta = s.quanta := rfl
@[simp] theorem schedule_fnrdyLo (s : State) (d : Nat) (i : Instr) (x : Subject) : (schedule s d i x).fnrdyLo = s.fnrdyLo := rfl
@[simp] theorem schedule_fnrdyHi (s : State) (d : Nat) (i : Instr) (x : Subject) : (schedule s d i x).fnrdyHi = s.fnrdyHi := rfl
@[simp] theorem schedule_node (s : State) (d : Nat) (i : Instr) (x : Subject) : (schedule s d i x).node = s.node := rfl
@[simp] theorem schedule_parts (s : State) (d : Nat) (i : Instr) (x : Subject) : (schedule s d i x).parts = s.parts := rfl
@[simp] theorem schedule_mem (s : State) (d : Nat) (i : Instr) (x : Subject) : (schedule s d i x).mem = s.mem := rfl
@[simp] theorem schedule_memPoison (s : State) (d : Nat) (i : Instr) (x : Subject) : (schedule s d i x).memPoison = s.memPoison := rfl
@[simp] theorem schedule_hostMem (s : State) (d : Nat) (i : Instr) (x : Subject) : (schedule s d i x).hostMem = s.hostMem := rfl
@[simp] theorem schedule_remoteMem (s : State) (d : Nat) (i : Instr) (x : Subject) : (schedule s d i x).remoteMem = s.remoteMem := rfl
@[simp] theorem schedule_sliceTab (s : State) (d : Nat) (i : Instr) (x : Subject) : (schedule s d i x).sliceTab = s.sliceTab := rfl
@[simp] theorem schedule_slicesLost (s : State) (d : Nat) (i : Instr) (x : Subject) : (schedule s d i x).slicesLost = s.slicesLost := rfl
@[simp] theorem schedule_moves (s : State) (d : Nat) (i : Instr) (x : Subject) : (schedule s d i x).moves = s.moves := rfl
@[simp] theorem schedule_l2 (s : State) (d : Nat) (i : Instr) (x : Subject) : (schedule s d i x).l2 = s.l2 := rfl
@[simp] theorem schedule_syncLines (s : State) (d : Nat) (i : Instr) (x : Subject) : (schedule s d i x).syncLines = s.syncLines := rfl
@[simp] theorem schedule_routes (s : State) (d : Nat) (i : Instr) (x : Subject) : (schedule s d i x).routes = s.routes := rfl
@[simp] theorem schedule_routesPending (s : State) (d : Nat) (i : Instr) (x : Subject) : (schedule s d i x).routesPending = s.routesPending := rfl
@[simp] theorem schedule_retiredClusters (s : State) (d : Nat) (i : Instr) (x : Subject) : (schedule s d i x).retiredClusters = s.retiredClusters := rfl
@[simp] theorem schedule_retiredPairs (s : State) (d : Nat) (i : Instr) (x : Subject) : (schedule s d i x).retiredPairs = s.retiredPairs := rfl
@[simp] theorem schedule_keys (s : State) (d : Nat) (i : Instr) (x : Subject) : (schedule s d i x).keys = s.keys := rfl
@[simp] theorem schedule_ownerHash (s : State) (d : Nat) (i : Instr) (x : Subject) : (schedule s d i x).ownerHash = s.ownerHash := rfl
@[simp] theorem schedule_block (s : State) (d : Nat) (i : Instr) (x : Subject) : (schedule s d i x).block = s.block := rfl
@[simp] theorem schedule_memKeys (s : State) (d : Nat) (i : Instr) (x : Subject) : (schedule s d i x).memKeys = s.memKeys := rfl
@[simp] theorem schedule_hostPages (s : State) (d : Nat) (i : Instr) (x : Subject) : (schedule s d i x).hostPages = s.hostPages := rfl
@[simp] theorem schedule_reducers (s : State) (d : Nat) (i : Instr) (x : Subject) : (schedule s d i x).reducers = s.reducers := rfl
@[simp] theorem schedule_rels (s : State) (d : Nat) (i : Instr) (x : Subject) : (schedule s d i x).rels = s.rels := rfl
@[simp] theorem schedule_counts (s : State) (d : Nat) (i : Instr) (x : Subject) : (schedule s d i x).counts = s.counts := rfl
@[simp] theorem schedule_pairErrs (s : State) (d : Nat) (i : Instr) (x : Subject) : (schedule s d i x).pairErrs = s.pairErrs := rfl
@[simp] theorem schedule_linkUp (s : State) (d : Nat) (i : Instr) (x : Subject) : (schedule s d i x).linkUp = s.linkUp := rfl
@[simp] theorem schedule_reports (s : State) (d : Nat) (i : Instr) (x : Subject) : (schedule s d i x).reports = s.reports := rfl
@[simp] theorem schedule_blobs (s : State) (d : Nat) (i : Instr) (x : Subject) : (schedule s d i x).blobs = s.blobs := rfl
@[simp] theorem schedule_cores (s : State) (d : Nat) (i : Instr) (x : Subject) : (schedule s d i x).cores = s.cores := rfl
@[simp] theorem schedule_pools (s : State) (d : Nat) (i : Instr) (x : Subject) : (schedule s d i x).pools = s.pools := rfl
@[simp] theorem schedule_units (s : State) (d : Nat) (i : Instr) (x : Subject) : (schedule s d i x).units = s.units := rfl
@[simp] theorem schedule_launches (s : State) (d : Nat) (i : Instr) (x : Subject) : (schedule s d i x).launches = s.launches := rfl
@[simp] theorem schedule_insts (s : State) (d : Nat) (i : Instr) (x : Subject) : (schedule s d i x).insts = s.insts := rfl
@[simp] theorem schedule_ended (s : State) (d : Nat) (i : Instr) (x : Subject) : (schedule s d i x).ended = s.ended := rfl
@[simp] theorem schedule_reqs (s : State) (d : Nat) (i : Instr) (x : Subject) : (schedule s d i x).reqs = s.reqs := rfl
@[simp] theorem schedule_pageReqs (s : State) (d : Nat) (i : Instr) (x : Subject) : (schedule s d i x).pageReqs = s.pageReqs := rfl
@[simp] theorem schedule_walks (s : State) (d : Nat) (i : Instr) (x : Subject) : (schedule s d i x).walks = s.walks := rfl
@[simp] theorem schedule_fills (s : State) (d : Nat) (i : Instr) (x : Subject) : (schedule s d i x).fills = s.fills := rfl
@[simp] theorem schedule_cmds (s : State) (d : Nat) (i : Instr) (x : Subject) : (schedule s d i x).cmds = s.cmds := rfl
@[simp] theorem schedule_engines (s : State) (d : Nat) (i : Instr) (x : Subject) : (schedule s d i x).engines = s.engines := rfl
@[simp] theorem schedule_matOps (s : State) (d : Nat) (i : Instr) (x : Subject) : (schedule s d i x).matOps = s.matOps := rfl
@[simp] theorem schedule_toStore (s : State) (d : Nat) (i : Instr) (x : Subject) : (schedule s d i x).toStore = s.toStore := rfl
@[simp] theorem schedule_comms (s : State) (d : Nat) (i : Instr) (x : Subject) : (schedule s d i x).comms = s.comms := rfl
@[simp] theorem schedule_fes (s : State) (d : Nat) (i : Instr) (x : Subject) : (schedule s d i x).fes = s.fes := rfl
@[simp] theorem schedule_fns (s : State) (d : Nat) (i : Instr) (x : Subject) : (schedule s d i x).fns = s.fns := rfl
@[simp] theorem schedule_ctxs (s : State) (d : Nat) (i : Instr) (x : Subject) : (schedule s d i x).ctxs = s.ctxs := rfl
@[simp] theorem schedule_clocks (s : State) (d : Nat) (i : Instr) (x : Subject) : (schedule s d i x).clocks = s.clocks := rfl
@[simp] theorem schedule_raceLog (s : State) (d : Nat) (i : Instr) (x : Subject) : (schedule s d i x).raceLog = s.raceLog := rfl
@[simp] theorem schedule_pfBusy (s : State) (d : Nat) (i : Instr) (x : Subject) : (schedule s d i x).pfBusy = s.pfBusy := rfl

/-! ## unschedule -/

@[simp] theorem unschedule_now (s : State) (i : Instr) (x : Subject) : (unschedule s i x).now = s.now := rfl
@[simp] theorem unschedule_cur (s : State) (i : Instr) (x : Subject) : (unschedule s i x).cur = s.cur := rfl
@[simp] theorem unschedule_subj (s : State) (i : Instr) (x : Subject) : (unschedule s i x).subj = s.subj := rfl
@[simp] theorem unschedule_inbox (s : State) (i : Instr) (x : Subject) : (unschedule s i x).inbox = s.inbox := rfl
@[simp] theorem unschedule_fresh (s : State) (i : Instr) (x : Subject) : (unschedule s i x).fresh = s.fresh := rfl
@[simp] theorem unschedule_lost (s : State) (i : Instr) (x : Subject) : (unschedule s i x).lost = s.lost := rfl
@[simp] theorem unschedule_quanta (s : State) (i : Instr) (x : Subject) : (unschedule s i x).quanta = s.quanta := rfl
@[simp] theorem unschedule_fnrdyLo (s : State) (i : Instr) (x : Subject) : (unschedule s i x).fnrdyLo = s.fnrdyLo := rfl
@[simp] theorem unschedule_fnrdyHi (s : State) (i : Instr) (x : Subject) : (unschedule s i x).fnrdyHi = s.fnrdyHi := rfl
@[simp] theorem unschedule_node (s : State) (i : Instr) (x : Subject) : (unschedule s i x).node = s.node := rfl
@[simp] theorem unschedule_parts (s : State) (i : Instr) (x : Subject) : (unschedule s i x).parts = s.parts := rfl
@[simp] theorem unschedule_mem (s : State) (i : Instr) (x : Subject) : (unschedule s i x).mem = s.mem := rfl
@[simp] theorem unschedule_memPoison (s : State) (i : Instr) (x : Subject) : (unschedule s i x).memPoison = s.memPoison := rfl
@[simp] theorem unschedule_hostMem (s : State) (i : Instr) (x : Subject) : (unschedule s i x).hostMem = s.hostMem := rfl
@[simp] theorem unschedule_remoteMem (s : State) (i : Instr) (x : Subject) : (unschedule s i x).remoteMem = s.remoteMem := rfl
@[simp] theorem unschedule_sliceTab (s : State) (i : Instr) (x : Subject) : (unschedule s i x).sliceTab = s.sliceTab := rfl
@[simp] theorem unschedule_slicesLost (s : State) (i : Instr) (x : Subject) : (unschedule s i x).slicesLost = s.slicesLost := rfl
@[simp] theorem unschedule_moves (s : State) (i : Instr) (x : Subject) : (unschedule s i x).moves = s.moves := rfl
@[simp] theorem unschedule_l2 (s : State) (i : Instr) (x : Subject) : (unschedule s i x).l2 = s.l2 := rfl
@[simp] theorem unschedule_syncLines (s : State) (i : Instr) (x : Subject) : (unschedule s i x).syncLines = s.syncLines := rfl
@[simp] theorem unschedule_routes (s : State) (i : Instr) (x : Subject) : (unschedule s i x).routes = s.routes := rfl
@[simp] theorem unschedule_routesPending (s : State) (i : Instr) (x : Subject) : (unschedule s i x).routesPending = s.routesPending := rfl
@[simp] theorem unschedule_retiredClusters (s : State) (i : Instr) (x : Subject) : (unschedule s i x).retiredClusters = s.retiredClusters := rfl
@[simp] theorem unschedule_retiredPairs (s : State) (i : Instr) (x : Subject) : (unschedule s i x).retiredPairs = s.retiredPairs := rfl
@[simp] theorem unschedule_keys (s : State) (i : Instr) (x : Subject) : (unschedule s i x).keys = s.keys := rfl
@[simp] theorem unschedule_ownerHash (s : State) (i : Instr) (x : Subject) : (unschedule s i x).ownerHash = s.ownerHash := rfl
@[simp] theorem unschedule_block (s : State) (i : Instr) (x : Subject) : (unschedule s i x).block = s.block := rfl
@[simp] theorem unschedule_memKeys (s : State) (i : Instr) (x : Subject) : (unschedule s i x).memKeys = s.memKeys := rfl
@[simp] theorem unschedule_hostPages (s : State) (i : Instr) (x : Subject) : (unschedule s i x).hostPages = s.hostPages := rfl
@[simp] theorem unschedule_reducers (s : State) (i : Instr) (x : Subject) : (unschedule s i x).reducers = s.reducers := rfl
@[simp] theorem unschedule_rels (s : State) (i : Instr) (x : Subject) : (unschedule s i x).rels = s.rels := rfl
@[simp] theorem unschedule_counts (s : State) (i : Instr) (x : Subject) : (unschedule s i x).counts = s.counts := rfl
@[simp] theorem unschedule_pairErrs (s : State) (i : Instr) (x : Subject) : (unschedule s i x).pairErrs = s.pairErrs := rfl
@[simp] theorem unschedule_linkUp (s : State) (i : Instr) (x : Subject) : (unschedule s i x).linkUp = s.linkUp := rfl
@[simp] theorem unschedule_reports (s : State) (i : Instr) (x : Subject) : (unschedule s i x).reports = s.reports := rfl
@[simp] theorem unschedule_blobs (s : State) (i : Instr) (x : Subject) : (unschedule s i x).blobs = s.blobs := rfl
@[simp] theorem unschedule_cores (s : State) (i : Instr) (x : Subject) : (unschedule s i x).cores = s.cores := rfl
@[simp] theorem unschedule_pools (s : State) (i : Instr) (x : Subject) : (unschedule s i x).pools = s.pools := rfl
@[simp] theorem unschedule_units (s : State) (i : Instr) (x : Subject) : (unschedule s i x).units = s.units := rfl
@[simp] theorem unschedule_launches (s : State) (i : Instr) (x : Subject) : (unschedule s i x).launches = s.launches := rfl
@[simp] theorem unschedule_insts (s : State) (i : Instr) (x : Subject) : (unschedule s i x).insts = s.insts := rfl
@[simp] theorem unschedule_ended (s : State) (i : Instr) (x : Subject) : (unschedule s i x).ended = s.ended := rfl
@[simp] theorem unschedule_reqs (s : State) (i : Instr) (x : Subject) : (unschedule s i x).reqs = s.reqs := rfl
@[simp] theorem unschedule_pageReqs (s : State) (i : Instr) (x : Subject) : (unschedule s i x).pageReqs = s.pageReqs := rfl
@[simp] theorem unschedule_walks (s : State) (i : Instr) (x : Subject) : (unschedule s i x).walks = s.walks := rfl
@[simp] theorem unschedule_fills (s : State) (i : Instr) (x : Subject) : (unschedule s i x).fills = s.fills := rfl
@[simp] theorem unschedule_cmds (s : State) (i : Instr) (x : Subject) : (unschedule s i x).cmds = s.cmds := rfl
@[simp] theorem unschedule_engines (s : State) (i : Instr) (x : Subject) : (unschedule s i x).engines = s.engines := rfl
@[simp] theorem unschedule_matOps (s : State) (i : Instr) (x : Subject) : (unschedule s i x).matOps = s.matOps := rfl
@[simp] theorem unschedule_toStore (s : State) (i : Instr) (x : Subject) : (unschedule s i x).toStore = s.toStore := rfl
@[simp] theorem unschedule_comms (s : State) (i : Instr) (x : Subject) : (unschedule s i x).comms = s.comms := rfl
@[simp] theorem unschedule_fes (s : State) (i : Instr) (x : Subject) : (unschedule s i x).fes = s.fes := rfl
@[simp] theorem unschedule_fns (s : State) (i : Instr) (x : Subject) : (unschedule s i x).fns = s.fns := rfl
@[simp] theorem unschedule_ctxs (s : State) (i : Instr) (x : Subject) : (unschedule s i x).ctxs = s.ctxs := rfl
@[simp] theorem unschedule_clocks (s : State) (i : Instr) (x : Subject) : (unschedule s i x).clocks = s.clocks := rfl
@[simp] theorem unschedule_raceLog (s : State) (i : Instr) (x : Subject) : (unschedule s i x).raceLog = s.raceLog := rfl
@[simp] theorem unschedule_pfBusy (s : State) (i : Instr) (x : Subject) : (unschedule s i x).pfBusy = s.pfBusy := rfl

end Sys2Proof.Machine
end

