-- ==== Sys2Proof/Laws/Memory.lean ====
section
/-! SUPPORT. Memories (log 5): every operation keeps the canonical form; a byte or a range written reads back, and nothing else changes;
memories in canonical form that read alike are equal. -/

namespace Sys2Proof.Machine

set_option Elab.async false

/-! ## One byte -/

theorem wfFrom_mono {m : Memory} {a b : Nat} (h : a ≤ b) (hm : m.wfFrom b = true) : m.wfFrom a = true := by
  cases m with
  | nil => rfl
  | cons x r =>
    obtain ⟨c, v⟩ := x
    simp only [Memory.wfFrom, Bool.and_eq_true, decide_eq_true_eq] at hm ⊢
    exact ⟨⟨le_trans h hm.1.1, hm.1.2⟩, hm.2⟩

/-- Below its bound a canonical memory lists nothing. -/
theorem get_below {m : Memory} {lo a : Nat} (hm : m.wfFrom lo = true) (h : a < lo) : m.get a = Memory.absent := by
  induction m generalizing lo with
  | nil => rfl
  | cons x r ih =>
    obtain ⟨c, v⟩ := x
    simp only [Memory.wfFrom, Bool.and_eq_true, decide_eq_true_eq] at hm
    rw [Memory.get, if_neg (by omega)]
    exact ih hm.2 (by omega)

theorem drop1_wfFrom {m : Memory} {lo a : Nat} (hm : m.wfFrom lo = true) : (m.drop1 a).wfFrom lo = true := by
  induction m generalizing lo with
  | nil => rfl
  | cons x r ih =>
    obtain ⟨c, v⟩ := x
    simp only [Memory.wfFrom, Bool.and_eq_true, decide_eq_true_eq] at hm
    rw [Memory.drop1]
    split
    · exact wfFrom_mono (by omega) hm.2
    · simp only [Memory.wfFrom, Bool.and_eq_true, decide_eq_true_eq]
      exact ⟨hm.1, ih hm.2⟩

theorem put1_wfFrom {m : Memory} {lo a : Nat} {b : Byte} (hb : b ≠ Memory.absent) (ha : lo ≤ a) (hm : m.wfFrom lo = true) :
    (m.put1 a b).wfFrom lo = true := by
  induction m generalizing lo with
  | nil => simp [Memory.put1, Memory.wfFrom, ha, hb]
  | cons x r ih =>
    obtain ⟨c, v⟩ := x
    simp only [Memory.wfFrom, Bool.and_eq_true, decide_eq_true_eq] at hm
    rw [Memory.put1]
    split
    · simp only [Memory.wfFrom, Bool.and_eq_true, decide_eq_true_eq]
      exact ⟨⟨ha, by simpa using hb⟩, ⟨by omega, hm.1.2⟩, hm.2⟩
    · split
      · simp only [Memory.wfFrom, Bool.and_eq_true, decide_eq_true_eq]
        exact ⟨⟨ha, by simpa using hb⟩, by rename_i h; rw [← h]; exact hm.2⟩
      · simp only [Memory.wfFrom, Bool.and_eq_true, decide_eq_true_eq]
        exact ⟨hm.1, ih (by omega) hm.2⟩

theorem set_wf {m : Memory} (a : Nat) (b : Byte) (hm : m.wf = true) : (m.set a b).wf = true := by
  unfold Memory.set
  split
  · exact drop1_wfFrom hm
  · exact put1_wfFrom (by assumption) (Nat.zero_le a) hm

theorem get_drop1 {m : Memory} {lo : Nat} (a c : Nat) (hm : m.wfFrom lo = true) :
    (m.drop1 a).get c = if c = a then Memory.absent else m.get c := by
  induction m generalizing lo with
  | nil => simp [Memory.drop1, Memory.get]
  | cons x r ih =>
    obtain ⟨d, v⟩ := x
    simp only [Memory.wfFrom, Bool.and_eq_true, decide_eq_true_eq] at hm
    rw [Memory.drop1]
    by_cases h : d = a
    · subst h
      by_cases hc : c = d
      · subst hc
        simp [get_below hm.2 (Nat.lt_succ_self c)]
      · simp [Memory.get, Ne.symm hc, hc]
    · simp only [if_neg h, Memory.get, ih hm.2]
      by_cases hc : d = c
      · subst hc
        simp [h]
      · simp [hc]

theorem get_put1 (m : Memory) (a c : Nat) (b : Byte) : (m.put1 a b).get c = if c = a then b else m.get c := by
  induction m with
  | nil => simp [Memory.put1, Memory.get, eq_comm]
  | cons x r ih =>
    obtain ⟨d, v⟩ := x
    rw [Memory.put1]
    split
    · by_cases hc : c = a
      · simp [Memory.get, hc]
      · simp [Memory.get, hc, Ne.symm hc]
    · split
      · rename_i h
        subst h
        by_cases hc : c = d
        · simp [Memory.get, hc]
        · simp [Memory.get, hc, Ne.symm hc]
      · simp only [Memory.get, ih]
        by_cases hc : d = c
        · subst hc
          simp [*]
        · simp [hc]

theorem get_set {m : Memory} (a c : Nat) (b : Byte) (hm : m.wf = true) : (m.set a b).get c = if c = a then b else m.get c := by
  unfold Memory.set
  split
  · rename_i h
    rw [get_drop1 a c hm, h]
  · exact get_put1 m a c b

/-! ## Ranges -/

theorem write_wf {m : Memory} (l : List Byte) (a : Nat) (hm : m.wf = true) : (m.write a l).wf = true := by
  induction l generalizing m a with
  | nil => exact hm
  | cons b r ih => exact ih (a + 1) (set_wf a b hm)

theorem get_write_outside {m : Memory} (l : List Byte) (a c : Nat) (hm : m.wf = true) (h : c < a ∨ a + l.length ≤ c) :
    (m.write a l).get c = m.get c := by
  induction l generalizing m a with
  | nil => rfl
  | cons b r ih =>
    simp only [List.length_cons] at h
    rw [Memory.write, ih (a + 1) (set_wf a b hm) (by omega), get_set a c b hm, if_neg (by omega)]

theorem get_write {m : Memory} (l : List Byte) (a i : Nat) (hm : m.wf = true) (h : i < l.length) : (m.write a l).get (a + i) = l[i] := by
  induction l generalizing m a i with
  | nil => simp at h
  | cons b r ih =>
    cases i with
    | zero => simp [Memory.write, get_write_outside r (a + 1) a (set_wf a b hm) (Or.inl (Nat.lt_succ_self a)), get_set a a b hm]
    | succ k =>
      rw [Memory.write, show a + (k + 1) = a + 1 + k by omega]
      exact ih (a + 1) k (set_wf a b hm) (by simpa using h)

theorem read_length (m : Memory) (a n : Nat) : (m.read a n).length = n := by
  induction n generalizing a with
  | zero => rfl
  | succ k ih => simp [Memory.read, ih]

theorem read_get (m : Memory) (a n i : Nat) (h : i < n) : (m.read a n)[i]? = some (m.get (a + i)) := by
  induction n generalizing a i with
  | zero => omega
  | succ k ih =>
    cases i with
    | zero => simp [Memory.read]
    | succ j =>
      simp only [Memory.read, List.getElem?_cons_succ]
      rw [ih (a + 1) j (by omega)]
      congr 2
      omega

theorem read_write {m : Memory} (l : List Byte) (a : Nat) (hm : m.wf = true) : (m.write a l).read a l.length = l := by
  apply List.ext_getElem?
  intro i
  by_cases h : i < l.length
  · rw [read_get _ _ _ _ h, get_write l a i hm h, List.getElem?_eq_getElem h]
  · rw [List.getElem?_eq_none (by rw [read_length]; omega), List.getElem?_eq_none (by omega)]

theorem filter_wfFrom {m : Memory} {lo : Nat} (p : Host.Cell → Bool) (hm : m.wfFrom lo = true) :
    Memory.wfFrom (m.filter p) lo = true := by
  induction m generalizing lo with
  | nil => rfl
  | cons x r ih =>
    obtain ⟨c, v⟩ := x
    simp only [Memory.wfFrom, Bool.and_eq_true, decide_eq_true_eq] at hm
    rw [List.filter_cons]
    split
    · simp only [Memory.wfFrom, Bool.and_eq_true, decide_eq_true_eq]
      exact ⟨hm.1, ih hm.2⟩
    · exact wfFrom_mono (by omega) (ih hm.2)

theorem clear_wf {m : Memory} (a n : Nat) (hm : m.wf = true) : (m.clear a n).wf = true := filter_wfFrom _ hm

theorem get_clear (m : Memory) (a n c : Nat) : (m.clear a n).get c = if a ≤ c ∧ c < a + n then Memory.absent else m.get c := by
  induction m with
  | nil => simp [Memory.clear, Memory.get]
  | cons x r ih =>
    obtain ⟨d, v⟩ := x
    have hc : Memory.clear ((d, v) :: r) a n = if d < a || a + n ≤ d then (d, v) :: Memory.clear r a n else Memory.clear r a n := by
      simp [Memory.clear, List.filter_cons]
    rw [hc]
    by_cases h : d < a || a + n ≤ d
    · rw [if_pos h]
      simp only [Memory.get, ih]
      simp only [Bool.or_eq_true, decide_eq_true_eq] at h
      by_cases hd : d = c
      · subst hd
        rw [if_pos rfl, if_neg (by omega), if_pos rfl]
      · simp [hd]
    · rw [if_neg h, ih]
      simp only [Bool.or_eq_true, decide_eq_true_eq] at h
      simp only [Memory.get]
      by_cases hd : d = c
      · subst hd
        rw [if_pos (by omega), if_pos (by omega)]
      · simp [hd]

/-! ## Canonical form -/

theorem ext_wfFrom {m n : Memory} {lo : Nat} (hm : m.wfFrom lo = true) (hn : n.wfFrom lo = true) (h : ∀ a, m.get a = n.get a) : m = n := by
  induction m generalizing n lo with
  | nil =>
    cases n with
    | nil => rfl
    | cons y q =>
      obtain ⟨d, w⟩ := y
      simp only [Memory.wfFrom, Bool.and_eq_true, bne_iff_ne] at hn
      have := h d
      simp only [Memory.get, if_true] at this
      exact absurd this.symm hn.1.2
  | cons x r ih =>
    obtain ⟨c, v⟩ := x
    simp only [Memory.wfFrom, Bool.and_eq_true, decide_eq_true_eq, bne_iff_ne] at hm
    cases n with
    | nil =>
      have := h c
      simp only [Memory.get, if_true] at this
      exact absurd this hm.1.2
    | cons y q =>
      obtain ⟨d, w⟩ := y
      simp only [Memory.wfFrom, Bool.and_eq_true, decide_eq_true_eq, bne_iff_ne] at hn
      have hcd : c = d := by
        rcases Nat.lt_trichotomy c d with hlt | heq | hgt
        · have := h c
          rw [Memory.get, if_pos rfl, Memory.get, if_neg (by omega), get_below hn.2 (by omega)] at this
          exact absurd this hm.1.2
        · exact heq
        · have := h d
          rw [Memory.get, if_neg (by omega), get_below hm.2 (by omega), Memory.get, if_pos rfl] at this
          exact absurd this.symm hn.1.2
      subst hcd
      have hv : v = w := by simpa [Memory.get] using h c
      subst hv
      rw [ih hm.2 hn.2]
      intro a
      by_cases ha : c = a
      · subst ha
        rw [get_below hm.2 (Nat.lt_succ_self c), get_below hn.2 (Nat.lt_succ_self c)]
      · simpa [Memory.get, ha] using h a

/-- Memories in canonical form that read alike are equal. -/
theorem ext_wf {m n : Memory} (hm : m.wf = true) (hn : n.wf = true) (h : ∀ a, m.get a = n.get a) : m = n := ext_wfFrom hm hn h

/-- The memory of reset has the form. -/
theorem reset_memories : Safety.memories State.reset = true := rfl

/-! ## Numbers as bytes -/

theorem bytesOf_length (n v : Nat) : (bytesOf n v).length = n := by
  induction n generalizing v with
  | zero => rfl
  | succ k ih => simp [bytesOf, ih]

theorem natOf_bytesOf (n v : Nat) : natOf (bytesOf n v) = v % 256 ^ n := by
  induction n generalizing v with
  | zero => simp [bytesOf, natOf, Nat.mod_one]
  | succ k ih =>
    simp only [bytesOf, natOf, ih, BitVec.toNat_ofNat]
    have h : 256 ^ (k + 1) = 256 * 256 ^ k := pow_succ' 256 k
    rw [h, Nat.mod_mul]
    norm_num

/-! ## Bytes of the module -/

/-- The storage of the module keeps its form when bytes are written at any place. -/
theorem writeByte_wf {s : State} (p : Place) (b : Byte) (h : s.mem.wf = true) : (writeByte s p b).mem.wf = true := by
  cases p with
  | dev a => exact set_wf _ b h
  | remote n a => exact h
  | host k a => exact h

theorem writePlace_wf {s : State} (p : Place) (l : List Byte) (h : s.mem.wf = true) : (writePlace s p l).mem.wf = true := by
  have key : ∀ (q : List (Nat × Byte)) (t : State), t.mem.wf = true →
      (q.foldl (fun a (x : Nat × Byte) => writeByte a (p.plus x.1) x.2) t).mem.wf = true := by
    intro q
    induction q with
    | nil => intro t ht; exact ht
    | cons x r ih => intro t ht; exact ih _ (writeByte_wf _ _ ht)
  have := key (l.mapIdx fun i b => (i, b)) s h
  unfold writePlace
  cases p with
  | dev a => dsimp only; split <;> exact this
  | remote n a => exact this
  | host k a => exact this

end Sys2Proof.Machine
end

