-- ==== Sys2Proof/Laws/PerInstr.lean ====
section
/-! SUPPORT. The per-instruction family RoundTrip: the bytes of a well-formed encoding decode to it. -/

namespace Sys2Proof.Laws

set_option Elab.async false

/-- The bytes of a well-formed instruction, whatever follows them, decode to it, and what follows is left. -/
def RoundTrip.Statement (i : Instr) : Prop := WellFormed i → ∀ rest : List Byte, decode (encode i ++ rest) = .ok (i, rest)

/-- The lowest bit of a word is that of its first part. -/
theorem RoundTrip.low {l : List (Nat × Nat)} {p : Nat × Nat} (h : l[0]? = some p) (hp : 1 ≤ p.1) :
    partsNat l % 2 = p.2 % 2 := by
  match l, h with
  | (w, v) :: r, h =>
    simp only [List.getElem?_cons_zero, Option.some.injEq] at h
    subst h
    obtain ⟨k, rfl⟩ : ∃ k, w = k + 1 := ⟨w - 1, by simp only at hp; omega⟩
    simp only [partsNat, Nat.pow_succ, Nat.mul_comm _ 2, Nat.mul_assoc, Nat.add_mul_mod_self_left]

theorem RoundTrip.wide {i : Instr} {l : List (Nat × Nat)} {p : Nat × Nat} (he : encodeWord i = partsNat l)
    (ok : partsOk l) (hl : partsLen l = 32) (hn : instrLength i = 4) (h0 : l[0]? = some p)
    (hp : 1 ≤ p.1 ∧ p.2 % 2 = 1) (hd : ∀ y, y = partsNat l → decode32 y = accept i) : RoundTrip.Statement i := by
  intro hwf rest
  unfold encode
  rw [hn, he]
  have hlt := partsNat_lt ok
  rw [hl] at hlt
  exact decode_of_word32 rest hlt ((RoundTrip.low h0 hp.1).trans hp.2) ((hd _ rfl).trans (accept_ok hwf))

theorem RoundTrip.half {i : Instr} {l : List (Nat × Nat)} {p : Nat × Nat} (he : encodeWord i = partsNat l)
    (ok : partsOk l) (hl : partsLen l = 16) (hn : instrLength i = 2) (h0 : l[0]? = some p)
    (hp : 1 ≤ p.1 ∧ p.2 % 2 = 0) (hd : ∀ y, y = partsNat l → decode16 y = accept i) : RoundTrip.Statement i := by
  intro hwf rest
  unfold encode
  rw [hn, he]
  have hlt := partsNat_lt ok
  rw [hl] at hlt
  exact decode_of_word16 rest hlt ((RoundTrip.low h0 hp.1).trans hp.2) ((hd _ rfl).trans (accept_ok hwf))

theorem RoundTrip.mov (s : BitVec 5) (d : BitVec 5) : RoundTrip.Statement (.mov s d) :=
  RoundTrip.half
    (show _ = partsNat [(5, 0), (5, d.toNat), (5, s.toNat), (1, 0)] by simp only [encodeWord, partsNat]; omega)
    ⟨by decide, d.isLt, s.isLt, by decide, trivial⟩ rfl rfl rfl (by decide) (word_mov s d)

theorem RoundTrip.li5 (i : BitVec 5) (d : BitVec 5) : RoundTrip.Statement (.li5 i d) :=
  RoundTrip.half
    (show _ = partsNat [(5, 2), (5, d.toNat), (5, i.toNat), (1, 0)] by simp only [encodeWord, partsNat]; omega)
    ⟨by decide, d.isLt, i.isLt, by decide, trivial⟩ rfl rfl rfl (by decide) (word_li5 i d)

theorem RoundTrip.add16 (s : BitVec 5) (d : BitVec 5) : RoundTrip.Statement (.add16 s d) :=
  RoundTrip.half
    (show _ = partsNat [(5, 4), (5, d.toNat), (5, s.toNat), (1, 0)] by simp only [encodeWord, partsNat]; omega)
    ⟨by decide, d.isLt, s.isLt, by decide, trivial⟩ rfl rfl rfl (by decide) (word_add16 s d)

theorem RoundTrip.sub16 (s : BitVec 5) (d : BitVec 5) : RoundTrip.Statement (.sub16 s d) :=
  RoundTrip.half
    (show _ = partsNat [(5, 6), (5, d.toNat), (5, s.toNat), (1, 0)] by simp only [encodeWord, partsNat]; omega)
    ⟨by decide, d.isLt, s.isLt, by decide, trivial⟩ rfl rfl rfl (by decide) (word_sub16 s d)

theorem RoundTrip.mul16 (s : BitVec 5) (d : BitVec 5) : RoundTrip.Statement (.mul16 s d) :=
  RoundTrip.half
    (show _ = partsNat [(5, 8), (5, d.toNat), (5, s.toNat), (1, 0)] by simp only [encodeWord, partsNat]; omega)
    ⟨by decide, d.isLt, s.isLt, by decide, trivial⟩ rfl rfl rfl (by decide) (word_mul16 s d)

theorem RoundTrip.and16 (s : BitVec 5) (d : BitVec 5) : RoundTrip.Statement (.and16 s d) :=
  RoundTrip.half
    (show _ = partsNat [(5, 10), (5, d.toNat), (5, s.toNat), (1, 0)] by simp only [encodeWord, partsNat]; omega)
    ⟨by decide, d.isLt, s.isLt, by decide, trivial⟩ rfl rfl rfl (by decide) (word_and16 s d)

theorem RoundTrip.or16 (s : BitVec 5) (d : BitVec 5) : RoundTrip.Statement (.or16 s d) :=
  RoundTrip.half
    (show _ = partsNat [(5, 12), (5, d.toNat), (5, s.toNat), (1, 0)] by simp only [encodeWord, partsNat]; omega)
    ⟨by decide, d.isLt, s.isLt, by decide, trivial⟩ rfl rfl rfl (by decide) (word_or16 s d)

theorem RoundTrip.xor16 (s : BitVec 5) (d : BitVec 5) : RoundTrip.Statement (.xor16 s d) :=
  RoundTrip.half
    (show _ = partsNat [(5, 14), (5, d.toNat), (5, s.toNat), (1, 0)] by simp only [encodeWord, partsNat]; omega)
    ⟨by decide, d.isLt, s.isLt, by decide, trivial⟩ rfl rfl rfl (by decide) (word_xor16 s d)

theorem RoundTrip.shl16 (n : BitVec 5) (d : BitVec 5) : RoundTrip.Statement (.shl16 n d) :=
  RoundTrip.half
    (show _ = partsNat [(5, 16), (5, d.toNat), (5, n.toNat), (1, 0)] by simp only [encodeWord, partsNat]; omega)
    ⟨by decide, d.isLt, n.isLt, by decide, trivial⟩ rfl rfl rfl (by decide) (word_shl16 n d)

theorem RoundTrip.srl16 (n : BitVec 5) (d : BitVec 5) : RoundTrip.Statement (.srl16 n d) :=
  RoundTrip.half
    (show _ = partsNat [(5, 18), (5, d.toNat), (5, n.toNat), (1, 0)] by simp only [encodeWord, partsNat]; omega)
    ⟨by decide, d.isLt, n.isLt, by decide, trivial⟩ rfl rfl rfl (by decide) (word_srl16 n d)

theorem RoundTrip.sra16 (n : BitVec 5) (d : BitVec 5) : RoundTrip.Statement (.sra16 n d) :=
  RoundTrip.half
    (show _ = partsNat [(5, 20), (5, d.toNat), (5, n.toNat), (1, 0)] by simp only [encodeWord, partsNat]; omega)
    ⟨by decide, d.isLt, n.isLt, by decide, trivial⟩ rfl rfl rfl (by decide) (word_sra16 n d)

theorem RoundTrip.fadd16 (s : BitVec 5) (d : BitVec 5) : RoundTrip.Statement (.fadd16 s d) :=
  RoundTrip.half
    (show _ = partsNat [(5, 22), (5, d.toNat), (5, s.toNat), (1, 0)] by simp only [encodeWord, partsNat]; omega)
    ⟨by decide, d.isLt, s.isLt, by decide, trivial⟩ rfl rfl rfl (by decide) (word_fadd16 s d)

theorem RoundTrip.fsub16 (s : BitVec 5) (d : BitVec 5) : RoundTrip.Statement (.fsub16 s d) :=
  RoundTrip.half
    (show _ = partsNat [(5, 24), (5, d.toNat), (5, s.toNat), (1, 0)] by simp only [encodeWord, partsNat]; omega)
    ⟨by decide, d.isLt, s.isLt, by decide, trivial⟩ rfl rfl rfl (by decide) (word_fsub16 s d)

theorem RoundTrip.fmul16 (s : BitVec 5) (d : BitVec 5) : RoundTrip.Statement (.fmul16 s d) :=
  RoundTrip.half
    (show _ = partsNat [(5, 26), (5, d.toNat), (5, s.toNat), (1, 0)] by simp only [encodeWord, partsNat]; omega)
    ⟨by decide, d.isLt, s.isLt, by decide, trivial⟩ rfl rfl rfl (by decide) (word_fmul16 s d)

theorem RoundTrip.fmax16 (s : BitVec 5) (d : BitVec 5) : RoundTrip.Statement (.fmax16 s d) :=
  RoundTrip.half
    (show _ = partsNat [(5, 28), (5, d.toNat), (5, s.toNat), (1, 0)] by simp only [encodeWord, partsNat]; omega)
    ⟨by decide, d.isLt, s.isLt, by decide, trivial⟩ rfl rfl rfl (by decide) (word_fmax16 s d)

theorem RoundTrip.fmin16 (s : BitVec 5) (d : BitVec 5) : RoundTrip.Statement (.fmin16 s d) :=
  RoundTrip.half
    (show _ = partsNat [(5, 30), (5, d.toNat), (5, s.toNat), (1, 0)] by simp only [encodeWord, partsNat]; omega)
    ⟨by decide, d.isLt, s.isLt, by decide, trivial⟩ rfl rfl rfl (by decide) (word_fmin16 s d)

theorem RoundTrip.nop (n : BitVec 4) (s : BitVec 1) : RoundTrip.Statement (.nop n s) :=
  RoundTrip.wide
    (show _ = partsNat [(1, 1), (1, s.toNat), (14, 0), (4, n.toNat), (12, 0)] by simp only [encodeWord, partsNat]; omega)
    ⟨by decide, s.isLt, by decide, n.isLt, by decide, trivial⟩ rfl rfl rfl (by decide) (word_nop n s)

theorem RoundTrip.exit : RoundTrip.Statement (.exit) :=
  RoundTrip.wide
    (show _ = partsNat [(32, 259)] by simp only [encodeWord, partsNat]; omega)
    ⟨by decide, trivial⟩ rfl rfl rfl (by decide) (word_exit)

theorem RoundTrip.yield : RoundTrip.Statement (.yield) :=
  RoundTrip.wide
    (show _ = partsNat [(32, 515)] by simp only [encodeWord, partsNat]; omega)
    ⟨by decide, trivial⟩ rfl rfl rfl (by decide) (word_yield)

theorem RoundTrip.ret : RoundTrip.Statement (.ret) :=
  RoundTrip.wide
    (show _ = partsNat [(32, 771)] by simp only [encodeWord, partsNat]; omega)
    ⟨by decide, trivial⟩ rfl rfl rfl (by decide) (word_ret)

theorem RoundTrip.trl (m : BitVec 3) (s : BitVec 1) : RoundTrip.Statement (.trl m s) :=
  RoundTrip.wide
    (show _ = partsNat [(1, 1), (1, s.toNat), (14, 256), (3, m.toNat), (13, 0)] by simp only [encodeWord, partsNat]; omega)
    ⟨by decide, s.isLt, by decide, m.isLt, by decide, trivial⟩ rfl rfl rfl (by decide) (word_trl m s)

theorem RoundTrip.rjn (t : BitVec 4) : RoundTrip.Statement (.rjn t) :=
  RoundTrip.wide
    (show _ = partsNat [(16, 1283), (4, t.toNat), (12, 0)] by simp only [encodeWord, partsNat]; omega)
    ⟨by decide, t.isLt, by decide, trivial⟩ rfl rfl rfl (by decide) (word_rjn t)

theorem RoundTrip.brk (c : BitVec 16) : RoundTrip.Statement (.brk c) :=
  RoundTrip.wide
    (show _ = partsNat [(16, 1539), (16, c.toNat)] by simp only [encodeWord, partsNat]; omega)
    ⟨by decide, c.isLt, trivial⟩ rfl rfl rfl (by decide) (word_brk c)

theorem RoundTrip.halt : RoundTrip.Statement (.halt) :=
  RoundTrip.wide
    (show _ = partsNat [(32, 1795)] by simp only [encodeWord, partsNat]; omega)
    ⟨by decide, trivial⟩ rfl rfl rfl (by decide) (word_halt)

theorem RoundTrip.br (o : BitVec 24) : RoundTrip.Statement (.br o) :=
  RoundTrip.wide
    (show _ = partsNat [(8, 7), (24, o.toNat)] by simp only [encodeWord, partsNat]; omega)
    ⟨by decide, o.isLt, trivial⟩ rfl rfl rfl (by decide) (word_br o)

theorem RoundTrip.brp (o : BitVec 16) (t : BitVec 4) (p : BitVec 3) : RoundTrip.Statement (.brp o t p) :=
  RoundTrip.wide
    (show _ = partsNat [(8, 11), (3, p.toNat), (1, 1), (4, t.toNat), (16, o.toNat)] by simp only [encodeWord, partsNat]; omega)
    ⟨by decide, p.isLt, by decide, t.isLt, o.isLt, trivial⟩ rfl rfl rfl (by decide) (word_brp o t p)

theorem RoundTrip.brpF (o : BitVec 16) (t : BitVec 4) (p : BitVec 3) : RoundTrip.Statement (.brpF o t p) :=
  RoundTrip.wide
    (show _ = partsNat [(8, 11), (3, p.toNat), (1, 0), (4, t.toNat), (16, o.toNat)] by simp only [encodeWord, partsNat]; omega)
    ⟨by decide, p.isLt, by decide, t.isLt, o.isLt, trivial⟩ rfl rfl rfl (by decide) (word_brpF o t p)

theorem RoundTrip.call (o : BitVec 24) : RoundTrip.Statement (.call o) :=
  RoundTrip.wide
    (show _ = partsNat [(8, 15), (24, o.toNat)] by simp only [encodeWord, partsNat]; omega)
    ⟨by decide, o.isLt, trivial⟩ rfl rfl rfl (by decide) (word_call o)

theorem RoundTrip.brx (a : BitVec 7) : RoundTrip.Statement (.brx a) :=
  RoundTrip.wide
    (show _ = partsNat [(15, 19), (7, a.toNat), (10, 0)] by simp only [encodeWord, partsNat]; omega)
    ⟨by decide, a.isLt, by decide, trivial⟩ rfl rfl rfl (by decide) (word_brx a)

theorem RoundTrip.callx (a : BitVec 7) : RoundTrip.Statement (.callx a) :=
  RoundTrip.wide
    (show _ = partsNat [(15, 19), (7, a.toNat), (10, 128)] by simp only [encodeWord, partsNat]; omega)
    ⟨by decide, a.isLt, by decide, trivial⟩ rfl rfl rfl (by decide) (word_callx a)

theorem RoundTrip.rfm (o : BitVec 16) (l : BitVec 7) : RoundTrip.Statement (.rfm o l) :=
  RoundTrip.wide
    (show _ = partsNat [(8, 23), (7, l.toNat), (1, 0), (16, o.toNat)] by simp only [encodeWord, partsNat]; omega)
    ⟨by decide, l.isLt, by decide, o.isLt, trivial⟩ rfl rfl rfl (by decide) (word_rfm o l)

theorem RoundTrip.waitAny (b : BitVec 6) (a : BitVec 6) (d : BitVec 6) : RoundTrip.Statement (.waitAny b a d) :=
  RoundTrip.wide
    (show _ = partsNat [(8, 27), (6, d.toNat), (6, a.toNat), (6, b.toNat), (6, 0)] by simp only [encodeWord, partsNat]; omega)
    ⟨by decide, d.isLt, a.isLt, b.isLt, by decide, trivial⟩ rfl rfl rfl (by decide) (word_waitAny b a d)

theorem RoundTrip.waitAll (b : BitVec 6) (a : BitVec 6) (d : BitVec 6) : RoundTrip.Statement (.waitAll b a d) :=
  RoundTrip.wide
    (show _ = partsNat [(8, 27), (6, d.toNat), (6, a.toNat), (6, b.toNat), (6, 1)] by simp only [encodeWord, partsNat]; omega)
    ⟨by decide, d.isLt, a.isLt, b.isLt, by decide, trivial⟩ rfl rfl rfl (by decide) (word_waitAll b a d)

theorem RoundTrip.barArv (c : BitVec 12) (b : BitVec 9) (s : BitVec 1) : RoundTrip.Statement (.barArv c b s) :=
  RoundTrip.wide
    (show _ = partsNat [(1, 1), (1, s.toNat), (9, 7), (9, b.toNat), (12, c.toNat)] by simp only [encodeWord, partsNat]; omega)
    ⟨by decide, s.isLt, by decide, b.isLt, c.isLt, trivial⟩ rfl rfl rfl (by decide) (word_barArv c b s)

theorem RoundTrip.barWt (c : BitVec 12) (b : BitVec 9) : RoundTrip.Statement (.barWt c b) :=
  RoundTrip.wide
    (show _ = partsNat [(11, 287), (9, b.toNat), (12, c.toNat)] by simp only [encodeWord, partsNat]; omega)
    ⟨by decide, b.isLt, c.isLt, trivial⟩ rfl rfl rfl (by decide) (word_barWt c b)

theorem RoundTrip.barSyn (c : BitVec 12) (b : BitVec 9) : RoundTrip.Statement (.barSyn c b) :=
  RoundTrip.wide
    (show _ = partsNat [(11, 543), (9, b.toNat), (12, c.toNat)] by simp only [encodeWord, partsNat]; omega)
    ⟨by decide, b.isLt, c.isLt, trivial⟩ rfl rfl rfl (by decide) (word_barSyn c b)

theorem RoundTrip.gbar : RoundTrip.Statement (.gbar) :=
  RoundTrip.wide
    (show _ = partsNat [(32, 35)] by simp only [encodeWord, partsNat]; omega)
    ⟨by decide, trivial⟩ rfl rfl rfl (by decide) (word_gbar)

theorem RoundTrip.spawn (a : BitVec 6) (s : BitVec 1) : RoundTrip.Statement (.spawn a s) :=
  RoundTrip.wide
    (show _ = partsNat [(1, 1), (1, s.toNat), (12, 8), (6, a.toNat), (12, 64)] by simp only [encodeWord, partsNat]; omega)
    ⟨by decide, s.isLt, by decide, a.isLt, by decide, trivial⟩ rfl rfl rfl (by decide) (word_spawn a s)

theorem RoundTrip.jdec (a : BitVec 6) (s : BitVec 1) : RoundTrip.Statement (.jdec a s) :=
  RoundTrip.wide
    (show _ = partsNat [(1, 1), (1, s.toNat), (12, 8), (6, a.toNat), (12, 128)] by simp only [encodeWord, partsNat]; omega)
    ⟨by decide, s.isLt, by decide, a.isLt, by decide, trivial⟩ rfl rfl rfl (by decide) (word_jdec a s)

theorem RoundTrip.cancel (a : BitVec 6) (s : BitVec 1) : RoundTrip.Statement (.cancel a s) :=
  RoundTrip.wide
    (show _ = partsNat [(1, 1), (1, s.toNat), (12, 8), (6, a.toNat), (12, 192)] by simp only [encodeWord, partsNat]; omega)
    ⟨by decide, s.isLt, by decide, a.isLt, by decide, trivial⟩ rfl rfl rfl (by decide) (word_cancel a s)

theorem RoundTrip.rdsr (r : BitVec 6) (d : BitVec 7) (s : BitVec 1) : RoundTrip.Statement (.rdsr r d s) :=
  RoundTrip.wide
    (show _ = partsNat [(1, 1), (1, s.toNat), (6, 9), (7, d.toNat), (7, 0), (6, r.toNat), (4, 0)] by simp only [encodeWord, partsNat]; omega)
    ⟨by decide, s.isLt, by decide, d.isLt, by decide, r.isLt, by decide, trivial⟩ rfl rfl rfl (by decide) (word_rdsr r d s)

theorem RoundTrip.wrsr (r : BitVec 6) (a : BitVec 7) (s : BitVec 1) : RoundTrip.Statement (.wrsr r a s) :=
  RoundTrip.wide
    (show _ = partsNat [(1, 1), (1, s.toNat), (13, 9), (7, a.toNat), (6, r.toNat), (4, 4)] by simp only [encodeWord, partsNat]; omega)
    ⟨by decide, s.isLt, by decide, a.isLt, r.isLt, by decide, trivial⟩ rfl rfl rfl (by decide) (word_wrsr r a s)

theorem RoundTrip.mode (m : BitVec 2) (s : BitVec 1) : RoundTrip.Statement (.mode m s) :=
  RoundTrip.wide
    (show _ = partsNat [(1, 1), (1, s.toNat), (26, 9), (2, m.toNat), (2, 2)] by simp only [encodeWord, partsNat]; omega)
    ⟨by decide, s.isLt, by decide, m.isLt, by decide, trivial⟩ rfl rfl rfl (by decide) (word_mode m s)

theorem RoundTrip.trap (c : BitVec 16) : RoundTrip.Statement (.trap c) :=
  RoundTrip.wide
    (show _ = partsNat [(16, 43), (16, c.toNat)] by simp only [encodeWord, partsNat]; omega)
    ⟨by decide, c.isLt, trivial⟩ rfl rfl rfl (by decide) (word_trap c)

theorem RoundTrip.tret : RoundTrip.Statement (.tret) :=
  RoundTrip.wide
    (show _ = partsNat [(32, 299)] by simp only [encodeWord, partsNat]; omega)
    ⟨by decide, trivial⟩ rfl rfl rfl (by decide) (word_tret)

theorem RoundTrip.kadd (i : BitVec 1) (b : BitVec 6) (a : BitVec 6) (d : BitVec 6) (s : BitVec 1) : RoundTrip.Statement (.kadd i b a d s) :=
  RoundTrip.wide
    (show _ = partsNat [(1, 1), (1, s.toNat), (6, 11), (6, d.toNat), (6, a.toNat), (6, b.toNat), (3, 0), (1, i.toNat), (2, 0)] by simp only [encodeWord, partsNat]; omega)
    ⟨by decide, s.isLt, by decide, d.isLt, a.isLt, b.isLt, by decide, i.isLt, by decide, trivial⟩ rfl rfl rfl (by decide) (word_kadd i b a d s)

theorem RoundTrip.ksub (i : BitVec 1) (b : BitVec 6) (a : BitVec 6) (d : BitVec 6) (s : BitVec 1) : RoundTrip.Statement (.ksub i b a d s) :=
  RoundTrip.wide
    (show _ = partsNat [(1, 1), (1, s.toNat), (6, 11), (6, d.toNat), (6, a.toNat), (6, b.toNat), (3, 1), (1, i.toNat), (2, 0)] by simp only [encodeWord, partsNat]; omega)
    ⟨by decide, s.isLt, by decide, d.isLt, a.isLt, b.isLt, by decide, i.isLt, by decide, trivial⟩ rfl rfl rfl (by decide) (word_ksub i b a d s)

theorem RoundTrip.kmov (a : BitVec 6) (d : BitVec 6) (s : BitVec 1) : RoundTrip.Statement (.kmov a d s) :=
  RoundTrip.wide
    (show _ = partsNat [(1, 1), (1, s.toNat), (6, 11), (6, d.toNat), (6, a.toNat), (12, 128)] by simp only [encodeWord, partsNat]; omega)
    ⟨by decide, s.isLt, by decide, d.isLt, a.isLt, by decide, trivial⟩ rfl rfl rfl (by decide) (word_kmov a d s)

theorem RoundTrip.kmovImm (i : BitVec 6) (d : BitVec 6) (s : BitVec 1) : RoundTrip.Statement (.kmovImm i d s) :=
  RoundTrip.wide
    (show _ = partsNat [(1, 1), (1, s.toNat), (6, 11), (6, d.toNat), (6, 0), (6, i.toNat), (6, 10)] by simp only [encodeWord, partsNat]; omega)
    ⟨by decide, s.isLt, by decide, d.isLt, by decide, i.isLt, by decide, trivial⟩ rfl rfl rfl (by decide) (word_kmovImm i d s)

theorem RoundTrip.kshl (i : BitVec 1) (b : BitVec 6) (a : BitVec 6) (d : BitVec 6) (s : BitVec 1) : RoundTrip.Statement (.kshl i b a d s) :=
  RoundTrip.wide
    (show _ = partsNat [(1, 1), (1, s.toNat), (6, 11), (6, d.toNat), (6, a.toNat), (6, b.toNat), (3, 3), (1, i.toNat), (2, 0)] by simp only [encodeWord, partsNat]; omega)
    ⟨by decide, s.isLt, by decide, d.isLt, a.isLt, b.isLt, by decide, i.isLt, by decide, trivial⟩ rfl rfl rfl (by decide) (word_kshl i b a d s)

theorem RoundTrip.kand (i : BitVec 1) (b : BitVec 6) (a : BitVec 6) (d : BitVec 6) (s : BitVec 1) : RoundTrip.Statement (.kand i b a d s) :=
  RoundTrip.wide
    (show _ = partsNat [(1, 1), (1, s.toNat), (6, 11), (6, d.toNat), (6, a.toNat), (6, b.toNat), (3, 4), (1, i.toNat), (2, 0)] by simp only [encodeWord, partsNat]; omega)
    ⟨by decide, s.isLt, by decide, d.isLt, a.isLt, b.isLt, by decide, i.isLt, by decide, trivial⟩ rfl rfl rfl (by decide) (word_kand i b a d s)

theorem RoundTrip.kor (i : BitVec 1) (b : BitVec 6) (a : BitVec 6) (d : BitVec 6) (s : BitVec 1) : RoundTrip.Statement (.kor i b a d s) :=
  RoundTrip.wide
    (show _ = partsNat [(1, 1), (1, s.toNat), (6, 11), (6, d.toNat), (6, a.toNat), (6, b.toNat), (3, 5), (1, i.toNat), (2, 0)] by simp only [encodeWord, partsNat]; omega)
    ⟨by decide, s.isLt, by decide, d.isLt, a.isLt, b.isLt, by decide, i.isLt, by decide, trivial⟩ rfl rfl rfl (by decide) (word_kor i b a d s)

theorem RoundTrip.kcmp (c : BitVec 3) (b : BitVec 6) (a : BitVec 6) (d : BitVec 6) (s : BitVec 1) : RoundTrip.Statement (.kcmp c b a d s) :=
  RoundTrip.wide
    (show _ = partsNat [(1, 1), (1, s.toNat), (6, 11), (6, d.toNat), (6, a.toNat), (6, b.toNat), (3, 6), (3, c.toNat)] by simp only [encodeWord, partsNat]; omega)
    ⟨by decide, s.isLt, by decide, d.isLt, a.isLt, b.isLt, by decide, c.isLt, trivial⟩ rfl rfl rfl (by decide) (word_kcmp c b a d s)

theorem RoundTrip.kld (k : BitVec 6) (x : BitVec 7) (s : BitVec 1) : RoundTrip.Statement (.kld k x s) :=
  RoundTrip.wide
    (show _ = partsNat [(1, 1), (1, s.toNat), (6, 11), (7, x.toNat), (6, k.toNat), (11, 224)] by simp only [encodeWord, partsNat]; omega)
    ⟨by decide, s.isLt, by decide, x.isLt, k.isLt, by decide, trivial⟩ rfl rfl rfl (by decide) (word_kld k x s)

theorem RoundTrip.kldLane (n : BitVec 5) (k : BitVec 6) (x : BitVec 7) (s : BitVec 1) : RoundTrip.Statement (.kldLane n k x s) :=
  RoundTrip.wide
    (show _ = partsNat [(1, 1), (1, s.toNat), (6, 11), (7, x.toNat), (6, k.toNat), (5, n.toNat), (6, 15)] by simp only [encodeWord, partsNat]; omega)
    ⟨by decide, s.isLt, by decide, x.isLt, k.isLt, n.isLt, by decide, trivial⟩ rfl rfl rfl (by decide) (word_kldLane n k x s)

theorem RoundTrip.movk (k : BitVec 6) (x : BitVec 7) (s : BitVec 1) : RoundTrip.Statement (.movk k x s) :=
  RoundTrip.wide
    (show _ = partsNat [(1, 1), (1, s.toNat), (6, 11), (7, x.toNat), (6, k.toNat), (11, 736)] by simp only [encodeWord, partsNat]; omega)
    ⟨by decide, s.isLt, by decide, x.isLt, k.isLt, by decide, trivial⟩ rfl rfl rfl (by decide) (word_movk k x s)

theorem RoundTrip.movkH (k : BitVec 6) (x : BitVec 7) (s : BitVec 1) : RoundTrip.Statement (.movkH k x s) :=
  RoundTrip.wide
    (show _ = partsNat [(1, 1), (1, s.toNat), (6, 11), (7, x.toNat), (6, k.toNat), (11, 992)] by simp only [encodeWord, partsNat]; omega)
    ⟨by decide, s.isLt, by decide, x.isLt, k.isLt, by decide, trivial⟩ rfl rfl rfl (by decide) (word_movkH k x s)

theorem RoundTrip.kli (i : BitVec 16) (h : BitVec 2) (d : BitVec 6) (s : BitVec 1) : RoundTrip.Statement (.kli i h d s) :=
  RoundTrip.wide
    (show _ = partsNat [(1, 1), (1, s.toNat), (6, 12), (6, d.toNat), (2, h.toNat), (16, i.toNat)] by simp only [encodeWord, partsNat]; omega)
    ⟨by decide, s.isLt, by decide, d.isLt, h.isLt, i.isLt, trivial⟩ rfl rfl rfl (by decide) (word_kli i h d s)

theorem RoundTrip.add (b : BitVec 7) (a : BitVec 7) (d : BitVec 7) (s : BitVec 1) : RoundTrip.Statement (.add b a d s) :=
  RoundTrip.wide
    (show _ = partsNat [(1, 1), (1, s.toNat), (6, 16), (7, d.toNat), (7, a.toNat), (7, b.toNat), (3, 0)] by simp only [encodeWord, partsNat]; omega)
    ⟨by decide, s.isLt, by decide, d.isLt, a.isLt, b.isLt, by decide, trivial⟩ rfl rfl rfl (by decide) (word_add b a d s)

theorem RoundTrip.sub (b : BitVec 7) (a : BitVec 7) (d : BitVec 7) (s : BitVec 1) : RoundTrip.Statement (.sub b a d s) :=
  RoundTrip.wide
    (show _ = partsNat [(1, 1), (1, s.toNat), (6, 16), (7, d.toNat), (7, a.toNat), (7, b.toNat), (3, 1)] by simp only [encodeWord, partsNat]; omega)
    ⟨by decide, s.isLt, by decide, d.isLt, a.isLt, b.isLt, by decide, trivial⟩ rfl rfl rfl (by decide) (word_sub b a d s)

theorem RoundTrip.and (b : BitVec 7) (a : BitVec 7) (d : BitVec 7) (s : BitVec 1) : RoundTrip.Statement (.and b a d s) :=
  RoundTrip.wide
    (show _ = partsNat [(1, 1), (1, s.toNat), (6, 16), (7, d.toNat), (7, a.toNat), (7, b.toNat), (3, 2)] by simp only [encodeWord, partsNat]; omega)
    ⟨by decide, s.isLt, by decide, d.isLt, a.isLt, b.isLt, by decide, trivial⟩ rfl rfl rfl (by decide) (word_and b a d s)

theorem RoundTrip.or (b : BitVec 7) (a : BitVec 7) (d : BitVec 7) (s : BitVec 1) : RoundTrip.Statement (.or b a d s) :=
  RoundTrip.wide
    (show _ = partsNat [(1, 1), (1, s.toNat), (6, 16), (7, d.toNat), (7, a.toNat), (7, b.toNat), (3, 3)] by simp only [encodeWord, partsNat]; omega)
    ⟨by decide, s.isLt, by decide, d.isLt, a.isLt, b.isLt, by decide, trivial⟩ rfl rfl rfl (by decide) (word_or b a d s)

theorem RoundTrip.xor (b : BitVec 7) (a : BitVec 7) (d : BitVec 7) (s : BitVec 1) : RoundTrip.Statement (.xor b a d s) :=
  RoundTrip.wide
    (show _ = partsNat [(1, 1), (1, s.toNat), (6, 16), (7, d.toNat), (7, a.toNat), (7, b.toNat), (3, 4)] by simp only [encodeWord, partsNat]; omega)
    ⟨by decide, s.isLt, by decide, d.isLt, a.isLt, b.isLt, by decide, trivial⟩ rfl rfl rfl (by decide) (word_xor b a d s)

theorem RoundTrip.andn (b : BitVec 7) (a : BitVec 7) (d : BitVec 7) (s : BitVec 1) : RoundTrip.Statement (.andn b a d s) :=
  RoundTrip.wide
    (show _ = partsNat [(1, 1), (1, s.toNat), (6, 16), (7, d.toNat), (7, a.toNat), (7, b.toNat), (3, 5)] by simp only [encodeWord, partsNat]; omega)
    ⟨by decide, s.isLt, by decide, d.isLt, a.isLt, b.isLt, by decide, trivial⟩ rfl rfl rfl (by decide) (word_andn b a d s)

theorem RoundTrip.min (b : BitVec 7) (a : BitVec 7) (d : BitVec 7) (s : BitVec 1) : RoundTrip.Statement (.min b a d s) :=
  RoundTrip.wide
    (show _ = partsNat [(1, 1), (1, s.toNat), (6, 16), (7, d.toNat), (7, a.toNat), (7, b.toNat), (3, 6)] by simp only [encodeWord, partsNat]; omega)
    ⟨by decide, s.isLt, by decide, d.isLt, a.isLt, b.isLt, by decide, trivial⟩ rfl rfl rfl (by decide) (word_min b a d s)

theorem RoundTrip.max (b : BitVec 7) (a : BitVec 7) (d : BitVec 7) (s : BitVec 1) : RoundTrip.Statement (.max b a d s) :=
  RoundTrip.wide
    (show _ = partsNat [(1, 1), (1, s.toNat), (6, 16), (7, d.toNat), (7, a.toNat), (7, b.toNat), (3, 7)] by simp only [encodeWord, partsNat]; omega)
    ⟨by decide, s.isLt, by decide, d.isLt, a.isLt, b.isLt, by decide, trivial⟩ rfl rfl rfl (by decide) (word_max b a d s)

theorem RoundTrip.shl (b : BitVec 7) (a : BitVec 7) (d : BitVec 7) (s : BitVec 1) : RoundTrip.Statement (.shl b a d s) :=
  RoundTrip.wide
    (show _ = partsNat [(1, 1), (1, s.toNat), (6, 17), (7, d.toNat), (7, a.toNat), (7, b.toNat), (3, 0)] by simp only [encodeWord, partsNat]; omega)
    ⟨by decide, s.isLt, by decide, d.isLt, a.isLt, b.isLt, by decide, trivial⟩ rfl rfl rfl (by decide) (word_shl b a d s)

theorem RoundTrip.srl (b : BitVec 7) (a : BitVec 7) (d : BitVec 7) (s : BitVec 1) : RoundTrip.Statement (.srl b a d s) :=
  RoundTrip.wide
    (show _ = partsNat [(1, 1), (1, s.toNat), (6, 17), (7, d.toNat), (7, a.toNat), (7, b.toNat), (3, 1)] by simp only [encodeWord, partsNat]; omega)
    ⟨by decide, s.isLt, by decide, d.isLt, a.isLt, b.isLt, by decide, trivial⟩ rfl rfl rfl (by decide) (word_srl b a d s)

theorem RoundTrip.sra (b : BitVec 7) (a : BitVec 7) (d : BitVec 7) (s : BitVec 1) : RoundTrip.Statement (.sra b a d s) :=
  RoundTrip.wide
    (show _ = partsNat [(1, 1), (1, s.toNat), (6, 17), (7, d.toNat), (7, a.toNat), (7, b.toNat), (3, 2)] by simp only [encodeWord, partsNat]; omega)
    ⟨by decide, s.isLt, by decide, d.isLt, a.isLt, b.isLt, by decide, trivial⟩ rfl rfl rfl (by decide) (word_sra b a d s)

theorem RoundTrip.rol (b : BitVec 7) (a : BitVec 7) (d : BitVec 7) (s : BitVec 1) : RoundTrip.Statement (.rol b a d s) :=
  RoundTrip.wide
    (show _ = partsNat [(1, 1), (1, s.toNat), (6, 17), (7, d.toNat), (7, a.toNat), (7, b.toNat), (3, 3)] by simp only [encodeWord, partsNat]; omega)
    ⟨by decide, s.isLt, by decide, d.isLt, a.isLt, b.isLt, by decide, trivial⟩ rfl rfl rfl (by decide) (word_rol b a d s)

theorem RoundTrip.mul (b : BitVec 7) (a : BitVec 7) (d : BitVec 7) (s : BitVec 1) : RoundTrip.Statement (.mul b a d s) :=
  RoundTrip.wide
    (show _ = partsNat [(1, 1), (1, s.toNat), (6, 17), (7, d.toNat), (7, a.toNat), (7, b.toNat), (3, 4)] by simp only [encodeWord, partsNat]; omega)
    ⟨by decide, s.isLt, by decide, d.isLt, a.isLt, b.isLt, by decide, trivial⟩ rfl rfl rfl (by decide) (word_mul b a d s)

theorem RoundTrip.mulh (b : BitVec 7) (a : BitVec 7) (d : BitVec 7) (s : BitVec 1) : RoundTrip.Statement (.mulh b a d s) :=
  RoundTrip.wide
    (show _ = partsNat [(1, 1), (1, s.toNat), (6, 17), (7, d.toNat), (7, a.toNat), (7, b.toNat), (3, 5)] by simp only [encodeWord, partsNat]; omega)
    ⟨by decide, s.isLt, by decide, d.isLt, a.isLt, b.isLt, by decide, trivial⟩ rfl rfl rfl (by decide) (word_mulh b a d s)

theorem RoundTrip.mulhn (b : BitVec 7) (a : BitVec 7) (d : BitVec 7) (s : BitVec 1) : RoundTrip.Statement (.mulhn b a d s) :=
  RoundTrip.wide
    (show _ = partsNat [(1, 1), (1, s.toNat), (6, 17), (7, d.toNat), (7, a.toNat), (7, b.toNat), (3, 6)] by simp only [encodeWord, partsNat]; omega)
    ⟨by decide, s.isLt, by decide, d.isLt, a.isLt, b.isLt, by decide, trivial⟩ rfl rfl rfl (by decide) (word_mulhn b a d s)

theorem RoundTrip.abs (a : BitVec 7) (d : BitVec 7) (s : BitVec 1) : RoundTrip.Statement (.abs a d s) :=
  RoundTrip.wide
    (show _ = partsNat [(1, 1), (1, s.toNat), (6, 17), (7, d.toNat), (7, a.toNat), (10, 896)] by simp only [encodeWord, partsNat]; omega)
    ⟨by decide, s.isLt, by decide, d.isLt, a.isLt, by decide, trivial⟩ rfl rfl rfl (by decide) (word_abs a d s)

theorem RoundTrip.addi (i : BitVec 10) (a : BitVec 7) (d : BitVec 7) (s : BitVec 1) : RoundTrip.Statement (.addi i a d s) :=
  RoundTrip.wide
    (show _ = partsNat [(1, 1), (1, s.toNat), (6, 18), (7, d.toNat), (7, a.toNat), (10, i.toNat)] by simp only [encodeWord, partsNat]; omega)
    ⟨by decide, s.isLt, by decide, d.isLt, a.isLt, i.isLt, trivial⟩ rfl rfl rfl (by decide) (word_addi i a d s)

theorem RoundTrip.andi (i : BitVec 7) (a : BitVec 7) (d : BitVec 7) (s : BitVec 1) : RoundTrip.Statement (.andi i a d s) :=
  RoundTrip.wide
    (show _ = partsNat [(1, 1), (1, s.toNat), (6, 19), (7, d.toNat), (7, a.toNat), (7, i.toNat), (3, 0)] by simp only [encodeWord, partsNat]; omega)
    ⟨by decide, s.isLt, by decide, d.isLt, a.isLt, i.isLt, by decide, trivial⟩ rfl rfl rfl (by decide) (word_andi i a d s)

theorem RoundTrip.ori (i : BitVec 7) (a : BitVec 7) (d : BitVec 7) (s : BitVec 1) : RoundTrip.Statement (.ori i a d s) :=
  RoundTrip.wide
    (show _ = partsNat [(1, 1), (1, s.toNat), (6, 19), (7, d.toNat), (7, a.toNat), (7, i.toNat), (3, 1)] by simp only [encodeWord, partsNat]; omega)
    ⟨by decide, s.isLt, by decide, d.isLt, a.isLt, i.isLt, by decide, trivial⟩ rfl rfl rfl (by decide) (word_ori i a d s)

theorem RoundTrip.xori (i : BitVec 7) (a : BitVec 7) (d : BitVec 7) (s : BitVec 1) : RoundTrip.Statement (.xori i a d s) :=
  RoundTrip.wide
    (show _ = partsNat [(1, 1), (1, s.toNat), (6, 19), (7, d.toNat), (7, a.toNat), (7, i.toNat), (3, 2)] by simp only [encodeWord, partsNat]; omega)
    ⟨by decide, s.isLt, by decide, d.isLt, a.isLt, i.isLt, by decide, trivial⟩ rfl rfl rfl (by decide) (word_xori i a d s)

theorem RoundTrip.shli (n : BitVec 5) (a : BitVec 7) (d : BitVec 7) (s : BitVec 1) : RoundTrip.Statement (.shli n a d s) :=
  RoundTrip.wide
    (show _ = partsNat [(1, 1), (1, s.toNat), (6, 19), (7, d.toNat), (7, a.toNat), (5, n.toNat), (5, 12)] by simp only [encodeWord, partsNat]; omega)
    ⟨by decide, s.isLt, by decide, d.isLt, a.isLt, n.isLt, by decide, trivial⟩ rfl rfl rfl (by decide) (word_shli n a d s)

theorem RoundTrip.srli (n : BitVec 5) (a : BitVec 7) (d : BitVec 7) (s : BitVec 1) : RoundTrip.Statement (.srli n a d s) :=
  RoundTrip.wide
    (show _ = partsNat [(1, 1), (1, s.toNat), (6, 19), (7, d.toNat), (7, a.toNat), (5, n.toNat), (5, 16)] by simp only [encodeWord, partsNat]; omega)
    ⟨by decide, s.isLt, by decide, d.isLt, a.isLt, n.isLt, by decide, trivial⟩ rfl rfl rfl (by decide) (word_srli n a d s)

theorem RoundTrip.srai (n : BitVec 5) (a : BitVec 7) (d : BitVec 7) (s : BitVec 1) : RoundTrip.Statement (.srai n a d s) :=
  RoundTrip.wide
    (show _ = partsNat [(1, 1), (1, s.toNat), (6, 19), (7, d.toNat), (7, a.toNat), (5, n.toNat), (5, 20)] by simp only [encodeWord, partsNat]; omega)
    ⟨by decide, s.isLt, by decide, d.isLt, a.isLt, n.isLt, by decide, trivial⟩ rfl rfl rfl (by decide) (word_srai n a d s)

theorem RoundTrip.li (i : BitVec 16) (d : BitVec 7) (s : BitVec 1) : RoundTrip.Statement (.li i d s) :=
  RoundTrip.wide
    (show _ = partsNat [(1, 1), (1, s.toNat), (6, 20), (7, d.toNat), (1, 0), (16, i.toNat)] by simp only [encodeWord, partsNat]; omega)
    ⟨by decide, s.isLt, by decide, d.isLt, by decide, i.isLt, trivial⟩ rfl rfl rfl (by decide) (word_li i d s)

theorem RoundTrip.lih (i : BitVec 16) (d : BitVec 7) (s : BitVec 1) : RoundTrip.Statement (.lih i d s) :=
  RoundTrip.wide
    (show _ = partsNat [(1, 1), (1, s.toNat), (6, 20), (7, d.toNat), (1, 1), (16, i.toNat)] by simp only [encodeWord, partsNat]; omega)
    ⟨by decide, s.isLt, by decide, d.isLt, by decide, i.isLt, trivial⟩ rfl rfl rfl (by decide) (word_lih i d s)

theorem RoundTrip.icmpEq (b : BitVec 7) (a : BitVec 7) (p : BitVec 3) (s : BitVec 1) : RoundTrip.Statement (.icmpEq b a p s) :=
  RoundTrip.wide
    (show _ = partsNat [(1, 1), (1, s.toNat), (6, 21), (3, p.toNat), (4, 0), (7, a.toNat), (7, b.toNat), (3, 0)] by simp only [encodeWord, partsNat]; omega)
    ⟨by decide, s.isLt, by decide, p.isLt, by decide, a.isLt, b.isLt, by decide, trivial⟩ rfl rfl rfl (by decide) (word_icmpEq b a p s)

theorem RoundTrip.icmpNe (b : BitVec 7) (a : BitVec 7) (p : BitVec 3) (s : BitVec 1) : RoundTrip.Statement (.icmpNe b a p s) :=
  RoundTrip.wide
    (show _ = partsNat [(1, 1), (1, s.toNat), (6, 21), (3, p.toNat), (4, 0), (7, a.toNat), (7, b.toNat), (3, 1)] by simp only [encodeWord, partsNat]; omega)
    ⟨by decide, s.isLt, by decide, p.isLt, by decide, a.isLt, b.isLt, by decide, trivial⟩ rfl rfl rfl (by decide) (word_icmpNe b a p s)

theorem RoundTrip.icmpLt (b : BitVec 7) (a : BitVec 7) (p : BitVec 3) (s : BitVec 1) : RoundTrip.Statement (.icmpLt b a p s) :=
  RoundTrip.wide
    (show _ = partsNat [(1, 1), (1, s.toNat), (6, 21), (3, p.toNat), (4, 0), (7, a.toNat), (7, b.toNat), (3, 2)] by simp only [encodeWord, partsNat]; omega)
    ⟨by decide, s.isLt, by decide, p.isLt, by decide, a.isLt, b.isLt, by decide, trivial⟩ rfl rfl rfl (by decide) (word_icmpLt b a p s)

theorem RoundTrip.icmpLe (b : BitVec 7) (a : BitVec 7) (p : BitVec 3) (s : BitVec 1) : RoundTrip.Statement (.icmpLe b a p s) :=
  RoundTrip.wide
    (show _ = partsNat [(1, 1), (1, s.toNat), (6, 21), (3, p.toNat), (4, 0), (7, a.toNat), (7, b.toNat), (3, 3)] by simp only [encodeWord, partsNat]; omega)
    ⟨by decide, s.isLt, by decide, p.isLt, by decide, a.isLt, b.isLt, by decide, trivial⟩ rfl rfl rfl (by decide) (word_icmpLe b a p s)

theorem RoundTrip.icmpLtn (b : BitVec 7) (a : BitVec 7) (p : BitVec 3) (s : BitVec 1) : RoundTrip.Statement (.icmpLtn b a p s) :=
  RoundTrip.wide
    (show _ = partsNat [(1, 1), (1, s.toNat), (6, 21), (3, p.toNat), (4, 0), (7, a.toNat), (7, b.toNat), (3, 4)] by simp only [encodeWord, partsNat]; omega)
    ⟨by decide, s.isLt, by decide, p.isLt, by decide, a.isLt, b.isLt, by decide, trivial⟩ rfl rfl rfl (by decide) (word_icmpLtn b a p s)

theorem RoundTrip.icmpLen (b : BitVec 7) (a : BitVec 7) (p : BitVec 3) (s : BitVec 1) : RoundTrip.Statement (.icmpLen b a p s) :=
  RoundTrip.wide
    (show _ = partsNat [(1, 1), (1, s.toNat), (6, 21), (3, p.toNat), (4, 0), (7, a.toNat), (7, b.toNat), (3, 5)] by simp only [encodeWord, partsNat]; omega)
    ⟨by decide, s.isLt, by decide, p.isLt, by decide, a.isLt, b.isLt, by decide, trivial⟩ rfl rfl rfl (by decide) (word_icmpLen b a p s)

theorem RoundTrip.sel (q : BitVec 3) (a : BitVec 7) (d : BitVec 7) (s : BitVec 1) : RoundTrip.Statement (.sel q a d s) :=
  RoundTrip.wide
    (show _ = partsNat [(1, 1), (1, s.toNat), (6, 22), (7, d.toNat), (7, a.toNat), (3, q.toNat), (7, 0)] by simp only [encodeWord, partsNat]; omega)
    ⟨by decide, s.isLt, by decide, d.isLt, a.isLt, q.isLt, by decide, trivial⟩ rfl rfl rfl (by decide) (word_sel q a d s)

theorem RoundTrip.pand (b : BitVec 3) (a : BitVec 3) (d : BitVec 3) (s : BitVec 1) : RoundTrip.Statement (.pand b a d s) :=
  RoundTrip.wide
    (show _ = partsNat [(1, 1), (1, s.toNat), (6, 22), (3, d.toNat), (4, 0), (3, a.toNat), (4, 0), (3, b.toNat), (7, 16)] by simp only [encodeWord, partsNat]; omega)
    ⟨by decide, s.isLt, by decide, d.isLt, by decide, a.isLt, by decide, b.isLt, by decide, trivial⟩ rfl rfl rfl (by decide) (word_pand b a d s)

theorem RoundTrip.por (b : BitVec 3) (a : BitVec 3) (d : BitVec 3) (s : BitVec 1) : RoundTrip.Statement (.por b a d s) :=
  RoundTrip.wide
    (show _ = partsNat [(1, 1), (1, s.toNat), (6, 22), (3, d.toNat), (4, 0), (3, a.toNat), (4, 0), (3, b.toNat), (7, 32)] by simp only [encodeWord, partsNat]; omega)
    ⟨by decide, s.isLt, by decide, d.isLt, by decide, a.isLt, by decide, b.isLt, by decide, trivial⟩ rfl rfl rfl (by decide) (word_por b a d s)

theorem RoundTrip.pxor (b : BitVec 3) (a : BitVec 3) (d : BitVec 3) (s : BitVec 1) : RoundTrip.Statement (.pxor b a d s) :=
  RoundTrip.wide
    (show _ = partsNat [(1, 1), (1, s.toNat), (6, 22), (3, d.toNat), (4, 0), (3, a.toNat), (4, 0), (3, b.toNat), (7, 48)] by simp only [encodeWord, partsNat]; omega)
    ⟨by decide, s.isLt, by decide, d.isLt, by decide, a.isLt, by decide, b.isLt, by decide, trivial⟩ rfl rfl rfl (by decide) (word_pxor b a d s)

theorem RoundTrip.pnot (a : BitVec 3) (d : BitVec 3) (s : BitVec 1) : RoundTrip.Statement (.pnot a d s) :=
  RoundTrip.wide
    (show _ = partsNat [(1, 1), (1, s.toNat), (6, 22), (3, d.toNat), (4, 0), (3, a.toNat), (14, 8192)] by simp only [encodeWord, partsNat]; omega)
    ⟨by decide, s.isLt, by decide, d.isLt, by decide, a.isLt, by decide, trivial⟩ rfl rfl rfl (by decide) (word_pnot a d s)

theorem RoundTrip.pmov (a : BitVec 3) (d : BitVec 3) (s : BitVec 1) : RoundTrip.Statement (.pmov a d s) :=
  RoundTrip.wide
    (show _ = partsNat [(1, 1), (1, s.toNat), (6, 22), (3, d.toNat), (4, 0), (3, a.toNat), (14, 10240)] by simp only [encodeWord, partsNat]; omega)
    ⟨by decide, s.isLt, by decide, d.isLt, by decide, a.isLt, by decide, trivial⟩ rfl rfl rfl (by decide) (word_pmov a d s)

theorem RoundTrip.clz (a : BitVec 7) (d : BitVec 7) (s : BitVec 1) : RoundTrip.Statement (.clz a d s) :=
  RoundTrip.wide
    (show _ = partsNat [(1, 1), (1, s.toNat), (6, 23), (7, d.toNat), (7, a.toNat), (10, 0)] by simp only [encodeWord, partsNat]; omega)
    ⟨by decide, s.isLt, by decide, d.isLt, a.isLt, by decide, trivial⟩ rfl rfl rfl (by decide) (word_clz a d s)

theorem RoundTrip.popc (a : BitVec 7) (d : BitVec 7) (s : BitVec 1) : RoundTrip.Statement (.popc a d s) :=
  RoundTrip.wide
    (show _ = partsNat [(1, 1), (1, s.toNat), (6, 23), (7, d.toNat), (7, a.toNat), (10, 128)] by simp only [encodeWord, partsNat]; omega)
    ⟨by decide, s.isLt, by decide, d.isLt, a.isLt, by decide, trivial⟩ rfl rfl rfl (by decide) (word_popc a d s)

theorem RoundTrip.brev (a : BitVec 7) (d : BitVec 7) (s : BitVec 1) : RoundTrip.Statement (.brev a d s) :=
  RoundTrip.wide
    (show _ = partsNat [(1, 1), (1, s.toNat), (6, 23), (7, d.toNat), (7, a.toNat), (10, 256)] by simp only [encodeWord, partsNat]; omega)
    ⟨by decide, s.isLt, by decide, d.isLt, a.isLt, by decide, trivial⟩ rfl rfl rfl (by decide) (word_brev a d s)

theorem RoundTrip.bfe (b : BitVec 7) (a : BitVec 7) (d : BitVec 7) (s : BitVec 1) : RoundTrip.Statement (.bfe b a d s) :=
  RoundTrip.wide
    (show _ = partsNat [(1, 1), (1, s.toNat), (6, 23), (7, d.toNat), (7, a.toNat), (7, b.toNat), (3, 3)] by simp only [encodeWord, partsNat]; omega)
    ⟨by decide, s.isLt, by decide, d.isLt, a.isLt, b.isLt, by decide, trivial⟩ rfl rfl rfl (by decide) (word_bfe b a d s)

theorem RoundTrip.bfi (b : BitVec 7) (a : BitVec 7) (d : BitVec 7) (s : BitVec 1) : RoundTrip.Statement (.bfi b a d s) :=
  RoundTrip.wide
    (show _ = partsNat [(1, 1), (1, s.toNat), (6, 23), (7, d.toNat), (7, a.toNat), (7, b.toNat), (3, 4)] by simp only [encodeWord, partsNat]; omega)
    ⟨by decide, s.isLt, by decide, d.isLt, a.isLt, b.isLt, by decide, trivial⟩ rfl rfl rfl (by decide) (word_bfi b a d s)

theorem RoundTrip.lea (b : BitVec 7) (a : BitVec 7) (d : BitVec 7) (s : BitVec 1) : RoundTrip.Statement (.lea b a d s) :=
  RoundTrip.wide
    (show _ = partsNat [(1, 1), (1, s.toNat), (6, 23), (7, d.toNat), (7, a.toNat), (7, b.toNat), (3, 5)] by simp only [encodeWord, partsNat]; omega)
    ⟨by decide, s.isLt, by decide, d.isLt, a.isLt, b.isLt, by decide, trivial⟩ rfl rfl rfl (by decide) (word_lea b a d s)

theorem RoundTrip.fadd (b : BitVec 7) (a : BitVec 7) (d : BitVec 7) (s : BitVec 1) : RoundTrip.Statement (.fadd b a d s) :=
  RoundTrip.wide
    (show _ = partsNat [(1, 1), (1, s.toNat), (6, 24), (7, d.toNat), (7, a.toNat), (7, b.toNat), (3, 0)] by simp only [encodeWord, partsNat]; omega)
    ⟨by decide, s.isLt, by decide, d.isLt, a.isLt, b.isLt, by decide, trivial⟩ rfl rfl rfl (by decide) (word_fadd b a d s)

theorem RoundTrip.fsub (b : BitVec 7) (a : BitVec 7) (d : BitVec 7) (s : BitVec 1) : RoundTrip.Statement (.fsub b a d s) :=
  RoundTrip.wide
    (show _ = partsNat [(1, 1), (1, s.toNat), (6, 24), (7, d.toNat), (7, a.toNat), (7, b.toNat), (3, 1)] by simp only [encodeWord, partsNat]; omega)
    ⟨by decide, s.isLt, by decide, d.isLt, a.isLt, b.isLt, by decide, trivial⟩ rfl rfl rfl (by decide) (word_fsub b a d s)

theorem RoundTrip.fmul (b : BitVec 7) (a : BitVec 7) (d : BitVec 7) (s : BitVec 1) : RoundTrip.Statement (.fmul b a d s) :=
  RoundTrip.wide
    (show _ = partsNat [(1, 1), (1, s.toNat), (6, 24), (7, d.toNat), (7, a.toNat), (7, b.toNat), (3, 2)] by simp only [encodeWord, partsNat]; omega)
    ⟨by decide, s.isLt, by decide, d.isLt, a.isLt, b.isLt, by decide, trivial⟩ rfl rfl rfl (by decide) (word_fmul b a d s)

theorem RoundTrip.fmin (b : BitVec 7) (a : BitVec 7) (d : BitVec 7) (s : BitVec 1) : RoundTrip.Statement (.fmin b a d s) :=
  RoundTrip.wide
    (show _ = partsNat [(1, 1), (1, s.toNat), (6, 24), (7, d.toNat), (7, a.toNat), (7, b.toNat), (3, 3)] by simp only [encodeWord, partsNat]; omega)
    ⟨by decide, s.isLt, by decide, d.isLt, a.isLt, b.isLt, by decide, trivial⟩ rfl rfl rfl (by decide) (word_fmin b a d s)

theorem RoundTrip.fmax (b : BitVec 7) (a : BitVec 7) (d : BitVec 7) (s : BitVec 1) : RoundTrip.Statement (.fmax b a d s) :=
  RoundTrip.wide
    (show _ = partsNat [(1, 1), (1, s.toNat), (6, 24), (7, d.toNat), (7, a.toNat), (7, b.toNat), (3, 4)] by simp only [encodeWord, partsNat]; omega)
    ⟨by decide, s.isLt, by decide, d.isLt, a.isLt, b.isLt, by decide, trivial⟩ rfl rfl rfl (by decide) (word_fmax b a d s)

theorem RoundTrip.fabs (a : BitVec 7) (d : BitVec 7) (s : BitVec 1) : RoundTrip.Statement (.fabs a d s) :=
  RoundTrip.wide
    (show _ = partsNat [(1, 1), (1, s.toNat), (6, 24), (7, d.toNat), (7, a.toNat), (10, 640)] by simp only [encodeWord, partsNat]; omega)
    ⟨by decide, s.isLt, by decide, d.isLt, a.isLt, by decide, trivial⟩ rfl rfl rfl (by decide) (word_fabs a d s)

theorem RoundTrip.fneg (a : BitVec 7) (d : BitVec 7) (s : BitVec 1) : RoundTrip.Statement (.fneg a d s) :=
  RoundTrip.wide
    (show _ = partsNat [(1, 1), (1, s.toNat), (6, 24), (7, d.toNat), (7, a.toNat), (10, 768)] by simp only [encodeWord, partsNat]; omega)
    ⟨by decide, s.isLt, by decide, d.isLt, a.isLt, by decide, trivial⟩ rfl rfl rfl (by decide) (word_fneg a d s)

theorem RoundTrip.fcmp (b : BitVec 7) (a : BitVec 7) (c : BitVec 4) (p : BitVec 3) (s : BitVec 1) : RoundTrip.Statement (.fcmp b a c p s) :=
  RoundTrip.wide
    (show _ = partsNat [(1, 1), (1, s.toNat), (6, 24), (3, p.toNat), (4, c.toNat), (7, a.toNat), (7, b.toNat), (3, 7)] by simp only [encodeWord, partsNat]; omega)
    ⟨by decide, s.isLt, by decide, p.isLt, c.isLt, a.isLt, b.isLt, by decide, trivial⟩ rfl rfl rfl (by decide) (word_fcmp b a c p s)

theorem RoundTrip.ffma (b : BitVec 7) (a : BitVec 7) (d : BitVec 7) (s : BitVec 1) : RoundTrip.Statement (.ffma b a d s) :=
  RoundTrip.wide
    (show _ = partsNat [(1, 1), (1, s.toNat), (6, 25), (7, d.toNat), (7, a.toNat), (7, b.toNat), (3, 0)] by simp only [encodeWord, partsNat]; omega)
    ⟨by decide, s.isLt, by decide, d.isLt, a.isLt, b.isLt, by decide, trivial⟩ rfl rfl rfl (by decide) (word_ffma b a d s)

theorem RoundTrip.ffms (b : BitVec 7) (a : BitVec 7) (d : BitVec 7) (s : BitVec 1) : RoundTrip.Statement (.ffms b a d s) :=
  RoundTrip.wide
    (show _ = partsNat [(1, 1), (1, s.toNat), (6, 25), (7, d.toNat), (7, a.toNat), (7, b.toNat), (3, 1)] by simp only [encodeWord, partsNat]; omega)
    ⟨by decide, s.isLt, by decide, d.isLt, a.isLt, b.isLt, by decide, trivial⟩ rfl rfl rfl (by decide) (word_ffms b a d s)

theorem RoundTrip.fnma (b : BitVec 7) (a : BitVec 7) (d : BitVec 7) (s : BitVec 1) : RoundTrip.Statement (.fnma b a d s) :=
  RoundTrip.wide
    (show _ = partsNat [(1, 1), (1, s.toNat), (6, 25), (7, d.toNat), (7, a.toNat), (7, b.toNat), (3, 2)] by simp only [encodeWord, partsNat]; omega)
    ⟨by decide, s.isLt, by decide, d.isLt, a.isLt, b.isLt, by decide, trivial⟩ rfl rfl rfl (by decide) (word_fnma b a d s)

theorem RoundTrip.hadd2 (b : BitVec 7) (a : BitVec 7) (d : BitVec 7) (s : BitVec 1) : RoundTrip.Statement (.hadd2 b a d s) :=
  RoundTrip.wide
    (show _ = partsNat [(1, 1), (1, s.toNat), (6, 26), (7, d.toNat), (7, a.toNat), (7, b.toNat), (3, 0)] by simp only [encodeWord, partsNat]; omega)
    ⟨by decide, s.isLt, by decide, d.isLt, a.isLt, b.isLt, by decide, trivial⟩ rfl rfl rfl (by decide) (word_hadd2 b a d s)

theorem RoundTrip.hmul2 (b : BitVec 7) (a : BitVec 7) (d : BitVec 7) (s : BitVec 1) : RoundTrip.Statement (.hmul2 b a d s) :=
  RoundTrip.wide
    (show _ = partsNat [(1, 1), (1, s.toNat), (6, 26), (7, d.toNat), (7, a.toNat), (7, b.toNat), (3, 1)] by simp only [encodeWord, partsNat]; omega)
    ⟨by decide, s.isLt, by decide, d.isLt, a.isLt, b.isLt, by decide, trivial⟩ rfl rfl rfl (by decide) (word_hmul2 b a d s)

theorem RoundTrip.hfma2 (b : BitVec 7) (a : BitVec 7) (d : BitVec 7) (s : BitVec 1) : RoundTrip.Statement (.hfma2 b a d s) :=
  RoundTrip.wide
    (show _ = partsNat [(1, 1), (1, s.toNat), (6, 26), (7, d.toNat), (7, a.toNat), (7, b.toNat), (3, 2)] by simp only [encodeWord, partsNat]; omega)
    ⟨by decide, s.isLt, by decide, d.isLt, a.isLt, b.isLt, by decide, trivial⟩ rfl rfl rfl (by decide) (word_hfma2 b a d s)

theorem RoundTrip.badd2 (b : BitVec 7) (a : BitVec 7) (d : BitVec 7) (s : BitVec 1) : RoundTrip.Statement (.badd2 b a d s) :=
  RoundTrip.wide
    (show _ = partsNat [(1, 1), (1, s.toNat), (6, 26), (7, d.toNat), (7, a.toNat), (7, b.toNat), (3, 3)] by simp only [encodeWord, partsNat]; omega)
    ⟨by decide, s.isLt, by decide, d.isLt, a.isLt, b.isLt, by decide, trivial⟩ rfl rfl rfl (by decide) (word_badd2 b a d s)

theorem RoundTrip.bmul2 (b : BitVec 7) (a : BitVec 7) (d : BitVec 7) (s : BitVec 1) : RoundTrip.Statement (.bmul2 b a d s) :=
  RoundTrip.wide
    (show _ = partsNat [(1, 1), (1, s.toNat), (6, 26), (7, d.toNat), (7, a.toNat), (7, b.toNat), (3, 4)] by simp only [encodeWord, partsNat]; omega)
    ⟨by decide, s.isLt, by decide, d.isLt, a.isLt, b.isLt, by decide, trivial⟩ rfl rfl rfl (by decide) (word_bmul2 b a d s)

theorem RoundTrip.bfma2 (b : BitVec 7) (a : BitVec 7) (d : BitVec 7) (s : BitVec 1) : RoundTrip.Statement (.bfma2 b a d s) :=
  RoundTrip.wide
    (show _ = partsNat [(1, 1), (1, s.toNat), (6, 26), (7, d.toNat), (7, a.toNat), (7, b.toNat), (3, 5)] by simp only [encodeWord, partsNat]; omega)
    ⟨by decide, s.isLt, by decide, d.isLt, a.isLt, b.isLt, by decide, trivial⟩ rfl rfl rfl (by decide) (word_bfma2 b a d s)

theorem RoundTrip.cvt (t : BitVec 4) (u : BitVec 4) (o : BitVec 2) (a : BitVec 7) (d : BitVec 7) (s : BitVec 1) : RoundTrip.Statement (.cvt t u o a d s) :=
  RoundTrip.wide
    (show _ = partsNat [(1, 1), (1, s.toNat), (6, 27), (7, d.toNat), (7, a.toNat), (2, o.toNat), (4, u.toNat), (4, t.toNat)] by simp only [encodeWord, partsNat]; omega)
    ⟨by decide, s.isLt, by decide, d.isLt, a.isLt, o.isLt, u.isLt, t.isLt, trivial⟩ rfl rfl rfl (by decide) (word_cvt t u o a d s)

theorem RoundTrip.exp2 (a : BitVec 7) (d : BitVec 7) (s : BitVec 1) : RoundTrip.Statement (.exp2 a d s) :=
  RoundTrip.wide
    (show _ = partsNat [(1, 1), (1, s.toNat), (6, 28), (7, d.toNat), (7, a.toNat), (10, 0)] by simp only [encodeWord, partsNat]; omega)
    ⟨by decide, s.isLt, by decide, d.isLt, a.isLt, by decide, trivial⟩ rfl rfl rfl (by decide) (word_exp2 a d s)

theorem RoundTrip.log2 (a : BitVec 7) (d : BitVec 7) (s : BitVec 1) : RoundTrip.Statement (.log2 a d s) :=
  RoundTrip.wide
    (show _ = partsNat [(1, 1), (1, s.toNat), (6, 28), (7, d.toNat), (7, a.toNat), (10, 128)] by simp only [encodeWord, partsNat]; omega)
    ⟨by decide, s.isLt, by decide, d.isLt, a.isLt, by decide, trivial⟩ rfl rfl rfl (by decide) (word_log2 a d s)

theorem RoundTrip.rcp (a : BitVec 7) (d : BitVec 7) (s : BitVec 1) : RoundTrip.Statement (.rcp a d s) :=
  RoundTrip.wide
    (show _ = partsNat [(1, 1), (1, s.toNat), (6, 28), (7, d.toNat), (7, a.toNat), (10, 256)] by simp only [encodeWord, partsNat]; omega)
    ⟨by decide, s.isLt, by decide, d.isLt, a.isLt, by decide, trivial⟩ rfl rfl rfl (by decide) (word_rcp a d s)

theorem RoundTrip.rsqrt (a : BitVec 7) (d : BitVec 7) (s : BitVec 1) : RoundTrip.Statement (.rsqrt a d s) :=
  RoundTrip.wide
    (show _ = partsNat [(1, 1), (1, s.toNat), (6, 28), (7, d.toNat), (7, a.toNat), (10, 384)] by simp only [encodeWord, partsNat]; omega)
    ⟨by decide, s.isLt, by decide, d.isLt, a.isLt, by decide, trivial⟩ rfl rfl rfl (by decide) (word_rsqrt a d s)

theorem RoundTrip.sqrt (a : BitVec 7) (d : BitVec 7) (s : BitVec 1) : RoundTrip.Statement (.sqrt a d s) :=
  RoundTrip.wide
    (show _ = partsNat [(1, 1), (1, s.toNat), (6, 28), (7, d.toNat), (7, a.toNat), (10, 512)] by simp only [encodeWord, partsNat]; omega)
    ⟨by decide, s.isLt, by decide, d.isLt, a.isLt, by decide, trivial⟩ rfl rfl rfl (by decide) (word_sqrt a d s)

theorem RoundTrip.tanh (a : BitVec 7) (d : BitVec 7) (s : BitVec 1) : RoundTrip.Statement (.tanh a d s) :=
  RoundTrip.wide
    (show _ = partsNat [(1, 1), (1, s.toNat), (6, 28), (7, d.toNat), (7, a.toNat), (10, 640)] by simp only [encodeWord, partsNat]; omega)
    ⟨by decide, s.isLt, by decide, d.isLt, a.isLt, by decide, trivial⟩ rfl rfl rfl (by decide) (word_tanh a d s)

theorem RoundTrip.lgs (a : BitVec 7) (d : BitVec 7) (s : BitVec 1) : RoundTrip.Statement (.lgs a d s) :=
  RoundTrip.wide
    (show _ = partsNat [(1, 1), (1, s.toNat), (6, 28), (7, d.toNat), (7, a.toNat), (10, 768)] by simp only [encodeWord, partsNat]; omega)
    ⟨by decide, s.isLt, by decide, d.isLt, a.isLt, by decide, trivial⟩ rfl rfl rfl (by decide) (word_lgs a d s)

theorem RoundTrip.gactLgs (b : BitVec 7) (a : BitVec 7) (d : BitVec 7) (s : BitVec 1) : RoundTrip.Statement (.gactLgs b a d s) :=
  RoundTrip.wide
    (show _ = partsNat [(1, 1), (1, s.toNat), (6, 29), (7, d.toNat), (7, a.toNat), (7, b.toNat), (3, 0)] by simp only [encodeWord, partsNat]; omega)
    ⟨by decide, s.isLt, by decide, d.isLt, a.isLt, b.isLt, by decide, trivial⟩ rfl rfl rfl (by decide) (word_gactLgs b a d s)

theorem RoundTrip.gactTanh (b : BitVec 7) (a : BitVec 7) (d : BitVec 7) (s : BitVec 1) : RoundTrip.Statement (.gactTanh b a d s) :=
  RoundTrip.wide
    (show _ = partsNat [(1, 1), (1, s.toNat), (6, 29), (7, d.toNat), (7, a.toNat), (7, b.toNat), (3, 1)] by simp only [encodeWord, partsNat]; omega)
    ⟨by decide, s.isLt, by decide, d.isLt, a.isLt, b.isLt, by decide, trivial⟩ rfl rfl rfl (by decide) (word_gactTanh b a d s)

theorem RoundTrip.gactAlgs (b : BitVec 7) (a : BitVec 7) (d : BitVec 7) (s : BitVec 1) : RoundTrip.Statement (.gactAlgs b a d s) :=
  RoundTrip.wide
    (show _ = partsNat [(1, 1), (1, s.toNat), (6, 29), (7, d.toNat), (7, a.toNat), (7, b.toNat), (3, 2)] by simp only [encodeWord, partsNat]; omega)
    ⟨by decide, s.isLt, by decide, d.isLt, a.isLt, b.isLt, by decide, trivial⟩ rfl rfl rfl (by decide) (word_gactAlgs b a d s)

theorem RoundTrip.frnd (r : BitVec 7) (a : BitVec 7) (d : BitVec 7) (s : BitVec 1) : RoundTrip.Statement (.frnd r a d s) :=
  RoundTrip.wide
    (show _ = partsNat [(1, 1), (1, s.toNat), (6, 30), (7, d.toNat), (7, a.toNat), (7, r.toNat), (3, 0)] by simp only [encodeWord, partsNat]; omega)
    ⟨by decide, s.isLt, by decide, d.isLt, a.isLt, r.isLt, by decide, trivial⟩ rfl rfl rfl (by decide) (word_frnd r a d s)

theorem RoundTrip.fcls (a : BitVec 7) (d : BitVec 7) (s : BitVec 1) : RoundTrip.Statement (.fcls a d s) :=
  RoundTrip.wide
    (show _ = partsNat [(1, 1), (1, s.toNat), (6, 30), (7, d.toNat), (7, a.toNat), (10, 128)] by simp only [encodeWord, partsNat]; omega)
    ⟨by decide, s.isLt, by decide, d.isLt, a.isLt, by decide, trivial⟩ rfl rfl rfl (by decide) (word_fcls a d s)

theorem RoundTrip.fexp (a : BitVec 7) (d : BitVec 7) (s : BitVec 1) : RoundTrip.Statement (.fexp a d s) :=
  RoundTrip.wide
    (show _ = partsNat [(1, 1), (1, s.toNat), (6, 30), (7, d.toNat), (7, a.toNat), (10, 256)] by simp only [encodeWord, partsNat]; omega)
    ⟨by decide, s.isLt, by decide, d.isLt, a.isLt, by decide, trivial⟩ rfl rfl rfl (by decide) (word_fexp a d s)

theorem RoundTrip.fscl (b : BitVec 7) (a : BitVec 7) (d : BitVec 7) (s : BitVec 1) : RoundTrip.Statement (.fscl b a d s) :=
  RoundTrip.wide
    (show _ = partsNat [(1, 1), (1, s.toNat), (6, 30), (7, d.toNat), (7, a.toNat), (7, b.toNat), (3, 3)] by simp only [encodeWord, partsNat]; omega)
    ⟨by decide, s.isLt, by decide, d.isLt, a.isLt, b.isLt, by decide, trivial⟩ rfl rfl rfl (by decide) (word_fscl b a d s)

theorem RoundTrip.shflIdx (b : BitVec 7) (a : BitVec 7) (d : BitVec 7) (s : BitVec 1) : RoundTrip.Statement (.shflIdx b a d s) :=
  RoundTrip.wide
    (show _ = partsNat [(1, 1), (1, s.toNat), (6, 32), (7, d.toNat), (7, a.toNat), (7, b.toNat), (3, 0)] by simp only [encodeWord, partsNat]; omega)
    ⟨by decide, s.isLt, by decide, d.isLt, a.isLt, b.isLt, by decide, trivial⟩ rfl rfl rfl (by decide) (word_shflIdx b a d s)

theorem RoundTrip.shflUp (b : BitVec 7) (a : BitVec 7) (d : BitVec 7) (s : BitVec 1) : RoundTrip.Statement (.shflUp b a d s) :=
  RoundTrip.wide
    (show _ = partsNat [(1, 1), (1, s.toNat), (6, 32), (7, d.toNat), (7, a.toNat), (7, b.toNat), (3, 1)] by simp only [encodeWord, partsNat]; omega)
    ⟨by decide, s.isLt, by decide, d.isLt, a.isLt, b.isLt, by decide, trivial⟩ rfl rfl rfl (by decide) (word_shflUp b a d s)

theorem RoundTrip.shflDown (b : BitVec 7) (a : BitVec 7) (d : BitVec 7) (s : BitVec 1) : RoundTrip.Statement (.shflDown b a d s) :=
  RoundTrip.wide
    (show _ = partsNat [(1, 1), (1, s.toNat), (6, 32), (7, d.toNat), (7, a.toNat), (7, b.toNat), (3, 2)] by simp only [encodeWord, partsNat]; omega)
    ⟨by decide, s.isLt, by decide, d.isLt, a.isLt, b.isLt, by decide, trivial⟩ rfl rfl rfl (by decide) (word_shflDown b a d s)

theorem RoundTrip.shflXor (b : BitVec 7) (a : BitVec 7) (d : BitVec 7) (s : BitVec 1) : RoundTrip.Statement (.shflXor b a d s) :=
  RoundTrip.wide
    (show _ = partsNat [(1, 1), (1, s.toNat), (6, 32), (7, d.toNat), (7, a.toNat), (7, b.toNat), (3, 3)] by simp only [encodeWord, partsNat]; omega)
    ⟨by decide, s.isLt, by decide, d.isLt, a.isLt, b.isLt, by decide, trivial⟩ rfl rfl rfl (by decide) (word_shflXor b a d s)

theorem RoundTrip.voteAny (p : BitVec 3) (d : BitVec 7) (s : BitVec 1) : RoundTrip.Statement (.voteAny p d s) :=
  RoundTrip.wide
    (show _ = partsNat [(1, 1), (1, s.toNat), (6, 33), (7, d.toNat), (3, p.toNat), (14, 0)] by simp only [encodeWord, partsNat]; omega)
    ⟨by decide, s.isLt, by decide, d.isLt, p.isLt, by decide, trivial⟩ rfl rfl rfl (by decide) (word_voteAny p d s)

theorem RoundTrip.voteAll (p : BitVec 3) (d : BitVec 7) (s : BitVec 1) : RoundTrip.Statement (.voteAll p d s) :=
  RoundTrip.wide
    (show _ = partsNat [(1, 1), (1, s.toNat), (6, 33), (7, d.toNat), (3, p.toNat), (14, 2048)] by simp only [encodeWord, partsNat]; omega)
    ⟨by decide, s.isLt, by decide, d.isLt, p.isLt, by decide, trivial⟩ rfl rfl rfl (by decide) (word_voteAll p d s)

theorem RoundTrip.voteBal (p : BitVec 3) (d : BitVec 7) (s : BitVec 1) : RoundTrip.Statement (.voteBal p d s) :=
  RoundTrip.wide
    (show _ = partsNat [(1, 1), (1, s.toNat), (6, 33), (7, d.toNat), (3, p.toNat), (14, 4096)] by simp only [encodeWord, partsNat]; omega)
    ⟨by decide, s.isLt, by decide, d.isLt, p.isLt, by decide, trivial⟩ rfl rfl rfl (by decide) (word_voteBal p d s)

theorem RoundTrip.voteCnt (p : BitVec 3) (d : BitVec 7) (s : BitVec 1) : RoundTrip.Statement (.voteCnt p d s) :=
  RoundTrip.wide
    (show _ = partsNat [(1, 1), (1, s.toNat), (6, 33), (7, d.toNat), (3, p.toNat), (14, 6144)] by simp only [encodeWord, partsNat]; omega)
    ⟨by decide, s.isLt, by decide, d.isLt, p.isLt, by decide, trivial⟩ rfl rfl rfl (by decide) (word_voteCnt p d s)

theorem RoundTrip.voteMatch (a : BitVec 7) (d : BitVec 7) (s : BitVec 1) : RoundTrip.Statement (.voteMatch a d s) :=
  RoundTrip.wide
    (show _ = partsNat [(1, 1), (1, s.toNat), (6, 33), (7, d.toNat), (7, a.toNat), (10, 512)] by simp only [encodeWord, partsNat]; omega)
    ⟨by decide, s.isLt, by decide, d.isLt, a.isLt, by decide, trivial⟩ rfl rfl rfl (by decide) (word_voteMatch a d s)

theorem RoundTrip.lredAdd (t : BitVec 2) (a : BitVec 7) (d : BitVec 7) (s : BitVec 1) : RoundTrip.Statement (.lredAdd t a d s) :=
  RoundTrip.wide
    (show _ = partsNat [(1, 1), (1, s.toNat), (6, 34), (7, d.toNat), (7, a.toNat), (2, t.toNat), (8, 0)] by simp only [encodeWord, partsNat]; omega)
    ⟨by decide, s.isLt, by decide, d.isLt, a.isLt, t.isLt, by decide, trivial⟩ rfl rfl rfl (by decide) (word_lredAdd t a d s)

theorem RoundTrip.lredMax (t : BitVec 2) (a : BitVec 7) (d : BitVec 7) (s : BitVec 1) : RoundTrip.Statement (.lredMax t a d s) :=
  RoundTrip.wide
    (show _ = partsNat [(1, 1), (1, s.toNat), (6, 34), (7, d.toNat), (7, a.toNat), (2, t.toNat), (8, 32)] by simp only [encodeWord, partsNat]; omega)
    ⟨by decide, s.isLt, by decide, d.isLt, a.isLt, t.isLt, by decide, trivial⟩ rfl rfl rfl (by decide) (word_lredMax t a d s)

theorem RoundTrip.lredMin (t : BitVec 2) (a : BitVec 7) (d : BitVec 7) (s : BitVec 1) : RoundTrip.Statement (.lredMin t a d s) :=
  RoundTrip.wide
    (show _ = partsNat [(1, 1), (1, s.toNat), (6, 34), (7, d.toNat), (7, a.toNat), (2, t.toNat), (8, 64)] by simp only [encodeWord, partsNat]; omega)
    ⟨by decide, s.isLt, by decide, d.isLt, a.isLt, t.isLt, by decide, trivial⟩ rfl rfl rfl (by decide) (word_lredMin t a d s)

theorem RoundTrip.lscanAddInc (t : BitVec 2) (a : BitVec 7) (d : BitVec 7) (s : BitVec 1) : RoundTrip.Statement (.lscanAddInc t a d s) :=
  RoundTrip.wide
    (show _ = partsNat [(1, 1), (1, s.toNat), (6, 34), (7, d.toNat), (7, a.toNat), (2, t.toNat), (8, 96)] by simp only [encodeWord, partsNat]; omega)
    ⟨by decide, s.isLt, by decide, d.isLt, a.isLt, t.isLt, by decide, trivial⟩ rfl rfl rfl (by decide) (word_lscanAddInc t a d s)

theorem RoundTrip.lscanAddExc (t : BitVec 2) (a : BitVec 7) (d : BitVec 7) (s : BitVec 1) : RoundTrip.Statement (.lscanAddExc t a d s) :=
  RoundTrip.wide
    (show _ = partsNat [(1, 1), (1, s.toNat), (6, 34), (7, d.toNat), (7, a.toNat), (2, t.toNat), (8, 128)] by simp only [encodeWord, partsNat]; omega)
    ⟨by decide, s.isLt, by decide, d.isLt, a.isLt, t.isLt, by decide, trivial⟩ rfl rfl rfl (by decide) (word_lscanAddExc t a d s)

theorem RoundTrip.lbc (n : BitVec 5) (a : BitVec 7) (d : BitVec 7) (s : BitVec 1) : RoundTrip.Statement (.lbc n a d s) :=
  RoundTrip.wide
    (show _ = partsNat [(1, 1), (1, s.toNat), (6, 35), (7, d.toNat), (7, a.toNat), (5, n.toNat), (5, 0)] by simp only [encodeWord, partsNat]; omega)
    ⟨by decide, s.isLt, by decide, d.isLt, a.isLt, n.isLt, by decide, trivial⟩ rfl rfl rfl (by decide) (word_lbc n a d s)

theorem RoundTrip.ld (l : BitVec 2) (z : BitVec 3) (b : BitVec 5) (a : BitVec 7) (d : BitVec 7) (s : BitVec 1) : RoundTrip.Statement (.ld l z b a d s) :=
  RoundTrip.wide
    (show _ = partsNat [(1, 1), (1, s.toNat), (6, 36), (7, d.toNat), (7, a.toNat), (5, b.toNat), (3, z.toNat), (2, l.toNat)] by simp only [encodeWord, partsNat]; omega)
    ⟨by decide, s.isLt, by decide, d.isLt, a.isLt, b.isLt, z.isLt, l.isLt, trivial⟩ rfl rfl rfl (by decide) (word_ld l z b a d s)

theorem RoundTrip.st (l : BitVec 2) (z : BitVec 3) (b : BitVec 5) (a : BitVec 7) (d : BitVec 7) (s : BitVec 1) : RoundTrip.Statement (.st l z b a d s) :=
  RoundTrip.wide
    (show _ = partsNat [(1, 1), (1, s.toNat), (6, 37), (7, d.toNat), (7, a.toNat), (5, b.toNat), (3, z.toNat), (2, l.toNat)] by simp only [encodeWord, partsNat]; omega)
    ⟨by decide, s.isLt, by decide, d.isLt, a.isLt, b.isLt, z.isLt, l.isLt, trivial⟩ rfl rfl rfl (by decide) (word_st l z b a d s)

theorem RoundTrip.ldk (l : BitVec 2) (z : BitVec 3) (b : BitVec 5) (a : BitVec 7) (k : BitVec 6) (s : BitVec 1) : RoundTrip.Statement (.ldk l z b a k s) :=
  RoundTrip.wide
    (show _ = partsNat [(1, 1), (1, s.toNat), (6, 38), (6, k.toNat), (1, 0), (7, a.toNat), (5, b.toNat), (3, z.toNat), (2, l.toNat)] by simp only [encodeWord, partsNat]; omega)
    ⟨by decide, s.isLt, by decide, k.isLt, by decide, a.isLt, b.isLt, z.isLt, l.isLt, trivial⟩ rfl rfl rfl (by decide) (word_ldk l z b a k s)

theorem RoundTrip.stk (l : BitVec 2) (z : BitVec 3) (b : BitVec 5) (a : BitVec 7) (k : BitVec 6) (s : BitVec 1) : RoundTrip.Statement (.stk l z b a k s) :=
  RoundTrip.wide
    (show _ = partsNat [(1, 1), (1, s.toNat), (6, 38), (6, k.toNat), (1, 1), (7, a.toNat), (5, b.toNat), (3, z.toNat), (2, l.toNat)] by simp only [encodeWord, partsNat]; omega)
    ⟨by decide, s.isLt, by decide, k.isLt, by decide, a.isLt, b.isLt, z.isLt, l.isLt, trivial⟩ rfl rfl rfl (by decide) (word_stk l z b a k s)

theorem RoundTrip.atomAdd (f : BitVec 1) (w : BitVec 1) (c : BitVec 3) (o : BitVec 2) (a : BitVec 7) (d : BitVec 7) (s : BitVec 1) : RoundTrip.Statement (.atomAdd f w c o a d s) :=
  RoundTrip.wide
    (show _ = partsNat [(1, 1), (1, s.toNat), (6, 39), (7, d.toNat), (7, a.toNat), (3, 0), (2, o.toNat), (3, c.toNat), (1, w.toNat), (1, f.toNat)] by simp only [encodeWord, partsNat]; omega)
    ⟨by decide, s.isLt, by decide, d.isLt, a.isLt, by decide, o.isLt, c.isLt, w.isLt, f.isLt, trivial⟩ rfl rfl rfl (by decide) (word_atomAdd f w c o a d s)

theorem RoundTrip.atomMin (f : BitVec 1) (w : BitVec 1) (c : BitVec 3) (o : BitVec 2) (a : BitVec 7) (d : BitVec 7) (s : BitVec 1) : RoundTrip.Statement (.atomMin f w c o a d s) :=
  RoundTrip.wide
    (show _ = partsNat [(1, 1), (1, s.toNat), (6, 39), (7, d.toNat), (7, a.toNat), (3, 1), (2, o.toNat), (3, c.toNat), (1, w.toNat), (1, f.toNat)] by simp only [encodeWord, partsNat]; omega)
    ⟨by decide, s.isLt, by decide, d.isLt, a.isLt, by decide, o.isLt, c.isLt, w.isLt, f.isLt, trivial⟩ rfl rfl rfl (by decide) (word_atomMin f w c o a d s)

theorem RoundTrip.atomMax (f : BitVec 1) (w : BitVec 1) (c : BitVec 3) (o : BitVec 2) (a : BitVec 7) (d : BitVec 7) (s : BitVec 1) : RoundTrip.Statement (.atomMax f w c o a d s) :=
  RoundTrip.wide
    (show _ = partsNat [(1, 1), (1, s.toNat), (6, 39), (7, d.toNat), (7, a.toNat), (3, 2), (2, o.toNat), (3, c.toNat), (1, w.toNat), (1, f.toNat)] by simp only [encodeWord, partsNat]; omega)
    ⟨by decide, s.isLt, by decide, d.isLt, a.isLt, by decide, o.isLt, c.isLt, w.isLt, f.isLt, trivial⟩ rfl rfl rfl (by decide) (word_atomMax f w c o a d s)

theorem RoundTrip.atomAnd (w : BitVec 1) (c : BitVec 3) (o : BitVec 2) (a : BitVec 7) (d : BitVec 7) (s : BitVec 1) : RoundTrip.Statement (.atomAnd w c o a d s) :=
  RoundTrip.wide
    (show _ = partsNat [(1, 1), (1, s.toNat), (6, 39), (7, d.toNat), (7, a.toNat), (3, 3), (2, o.toNat), (3, c.toNat), (1, w.toNat), (1, 0)] by simp only [encodeWord, partsNat]; omega)
    ⟨by decide, s.isLt, by decide, d.isLt, a.isLt, by decide, o.isLt, c.isLt, w.isLt, by decide, trivial⟩ rfl rfl rfl (by decide) (word_atomAnd w c o a d s)

theorem RoundTrip.atomOr (w : BitVec 1) (c : BitVec 3) (o : BitVec 2) (a : BitVec 7) (d : BitVec 7) (s : BitVec 1) : RoundTrip.Statement (.atomOr w c o a d s) :=
  RoundTrip.wide
    (show _ = partsNat [(1, 1), (1, s.toNat), (6, 39), (7, d.toNat), (7, a.toNat), (3, 4), (2, o.toNat), (3, c.toNat), (1, w.toNat), (1, 0)] by simp only [encodeWord, partsNat]; omega)
    ⟨by decide, s.isLt, by decide, d.isLt, a.isLt, by decide, o.isLt, c.isLt, w.isLt, by decide, trivial⟩ rfl rfl rfl (by decide) (word_atomOr w c o a d s)

theorem RoundTrip.atomXor (w : BitVec 1) (c : BitVec 3) (o : BitVec 2) (a : BitVec 7) (d : BitVec 7) (s : BitVec 1) : RoundTrip.Statement (.atomXor w c o a d s) :=
  RoundTrip.wide
    (show _ = partsNat [(1, 1), (1, s.toNat), (6, 39), (7, d.toNat), (7, a.toNat), (3, 5), (2, o.toNat), (3, c.toNat), (1, w.toNat), (1, 0)] by simp only [encodeWord, partsNat]; omega)
    ⟨by decide, s.isLt, by decide, d.isLt, a.isLt, by decide, o.isLt, c.isLt, w.isLt, by decide, trivial⟩ rfl rfl rfl (by decide) (word_atomXor w c o a d s)

theorem RoundTrip.atomXchg (w : BitVec 1) (c : BitVec 3) (o : BitVec 2) (a : BitVec 7) (d : BitVec 7) (s : BitVec 1) : RoundTrip.Statement (.atomXchg w c o a d s) :=
  RoundTrip.wide
    (show _ = partsNat [(1, 1), (1, s.toNat), (6, 39), (7, d.toNat), (7, a.toNat), (3, 6), (2, o.toNat), (3, c.toNat), (1, w.toNat), (1, 0)] by simp only [encodeWord, partsNat]; omega)
    ⟨by decide, s.isLt, by decide, d.isLt, a.isLt, by decide, o.isLt, c.isLt, w.isLt, by decide, trivial⟩ rfl rfl rfl (by decide) (word_atomXchg w c o a d s)

theorem RoundTrip.atomCas (w : BitVec 1) (c : BitVec 3) (o : BitVec 2) (a : BitVec 7) (d : BitVec 7) (s : BitVec 1) : RoundTrip.Statement (.atomCas w c o a d s) :=
  RoundTrip.wide
    (show _ = partsNat [(1, 1), (1, s.toNat), (6, 39), (7, d.toNat), (7, a.toNat), (3, 7), (2, o.toNat), (3, c.toNat), (1, w.toNat), (1, 0)] by simp only [encodeWord, partsNat]; omega)
    ⟨by decide, s.isLt, by decide, d.isLt, a.isLt, by decide, o.isLt, c.isLt, w.isLt, by decide, trivial⟩ rfl rfl rfl (by decide) (word_atomCas w c o a d s)

theorem RoundTrip.fenceAcq (c : BitVec 3) (s : BitVec 1) : RoundTrip.Statement (.fenceAcq c s) :=
  RoundTrip.wide
    (show _ = partsNat [(1, 1), (1, s.toNat), (8, 40), (3, c.toNat), (19, 0)] by simp only [encodeWord, partsNat]; omega)
    ⟨by decide, s.isLt, by decide, c.isLt, by decide, trivial⟩ rfl rfl rfl (by decide) (word_fenceAcq c s)

theorem RoundTrip.fenceRel (c : BitVec 3) (s : BitVec 1) : RoundTrip.Statement (.fenceRel c s) :=
  RoundTrip.wide
    (show _ = partsNat [(1, 1), (1, s.toNat), (8, 104), (3, c.toNat), (19, 0)] by simp only [encodeWord, partsNat]; omega)
    ⟨by decide, s.isLt, by decide, c.isLt, by decide, trivial⟩ rfl rfl rfl (by decide) (word_fenceRel c s)

theorem RoundTrip.fenceAr (c : BitVec 3) (s : BitVec 1) : RoundTrip.Statement (.fenceAr c s) :=
  RoundTrip.wide
    (show _ = partsNat [(1, 1), (1, s.toNat), (8, 168), (3, c.toNat), (19, 0)] by simp only [encodeWord, partsNat]; omega)
    ⟨by decide, s.isLt, by decide, c.isLt, by decide, trivial⟩ rfl rfl rfl (by decide) (word_fenceAr c s)

theorem RoundTrip.fenceSc (c : BitVec 3) (s : BitVec 1) : RoundTrip.Statement (.fenceSc c s) :=
  RoundTrip.wide
    (show _ = partsNat [(1, 1), (1, s.toNat), (8, 232), (3, c.toNat), (19, 0)] by simp only [encodeWord, partsNat]; omega)
    ⟨by decide, s.isLt, by decide, c.isLt, by decide, trivial⟩ rfl rfl rfl (by decide) (word_fenceSc c s)

theorem RoundTrip.tget (l : BitVec 2) (a : BitVec 6) (t : BitVec 8) (s : BitVec 1) : RoundTrip.Statement (.tget l a t s) :=
  RoundTrip.wide
    (show _ = partsNat [(1, 1), (1, s.toNat), (6, 41), (8, t.toNat), (6, a.toNat), (6, 0), (2, l.toNat), (2, 0)] by simp only [encodeWord, partsNat]; omega)
    ⟨by decide, s.isLt, by decide, t.isLt, a.isLt, by decide, l.isLt, by decide, trivial⟩ rfl rfl rfl (by decide) (word_tget l a t s)

theorem RoundTrip.tset (a : BitVec 6) (t : BitVec 8) (s : BitVec 1) : RoundTrip.Statement (.tset a t s) :=
  RoundTrip.wide
    (show _ = partsNat [(1, 1), (1, s.toNat), (6, 41), (8, t.toNat), (6, a.toNat), (10, 256)] by simp only [encodeWord, partsNat]; omega)
    ⟨by decide, s.isLt, by decide, t.isLt, a.isLt, by decide, trivial⟩ rfl rfl rfl (by decide) (word_tset a t s)

theorem RoundTrip.tdrn (l : BitVec 2) (a : BitVec 6) (t : BitVec 8) (s : BitVec 1) : RoundTrip.Statement (.tdrn l a t s) :=
  RoundTrip.wide
    (show _ = partsNat [(1, 1), (1, s.toNat), (6, 41), (8, t.toNat), (6, a.toNat), (6, 0), (2, l.toNat), (2, 2)] by simp only [encodeWord, partsNat]; omega)
    ⟨by decide, s.isLt, by decide, t.isLt, a.isLt, by decide, l.isLt, by decide, trivial⟩ rfl rfl rfl (by decide) (word_tdrn l a t s)

theorem RoundTrip.tstat (d : BitVec 6) (t : BitVec 8) (s : BitVec 1) : RoundTrip.Statement (.tstat d t s) :=
  RoundTrip.wide
    (show _ = partsNat [(1, 1), (1, s.toNat), (6, 41), (8, t.toNat), (6, 0), (6, d.toNat), (4, 12)] by simp only [encodeWord, partsNat]; omega)
    ⟨by decide, s.isLt, by decide, t.isLt, by decide, d.isLt, by decide, trivial⟩ rfl rfl rfl (by decide) (word_tstat d t s)

theorem RoundTrip.cpy (l : BitVec 2) (c : BitVec 6) (b : BitVec 6) (a : BitVec 6) (s : BitVec 1) : RoundTrip.Statement (.cpy l c b a s) :=
  RoundTrip.wide
    (show _ = partsNat [(1, 1), (1, s.toNat), (6, 42), (6, a.toNat), (6, b.toNat), (6, c.toNat), (3, 0), (2, l.toNat), (1, 0)] by simp only [encodeWord, partsNat]; omega)
    ⟨by decide, s.isLt, by decide, a.isLt, b.isLt, c.isLt, by decide, l.isLt, by decide, trivial⟩ rfl rfl rfl (by decide) (word_cpy l c b a s)

theorem RoundTrip.gth (l : BitVec 2) (c : BitVec 6) (b : BitVec 6) (a : BitVec 6) (s : BitVec 1) : RoundTrip.Statement (.gth l c b a s) :=
  RoundTrip.wide
    (show _ = partsNat [(1, 1), (1, s.toNat), (6, 43), (6, a.toNat), (6, b.toNat), (6, c.toNat), (3, 0), (2, l.toNat), (1, 0)] by simp only [encodeWord, partsNat]; omega)
    ⟨by decide, s.isLt, by decide, a.isLt, b.isLt, c.isLt, by decide, l.isLt, by decide, trivial⟩ rfl rfl rfl (by decide) (word_gth l c b a s)

theorem RoundTrip.sct (l : BitVec 2) (c : BitVec 6) (b : BitVec 6) (a : BitVec 6) (s : BitVec 1) : RoundTrip.Statement (.sct l c b a s) :=
  RoundTrip.wide
    (show _ = partsNat [(1, 1), (1, s.toNat), (6, 43), (6, a.toNat), (6, b.toNat), (6, c.toNat), (3, 1), (2, l.toNat), (1, 0)] by simp only [encodeWord, partsNat]; omega)
    ⟨by decide, s.isLt, by decide, a.isLt, b.isLt, c.isLt, by decide, l.isLt, by decide, trivial⟩ rfl rfl rfl (by decide) (word_sct l c b a s)

theorem RoundTrip.collSet (l : BitVec 2) (c : BitVec 6) (b : BitVec 6) (a : BitVec 6) (s : BitVec 1) : RoundTrip.Statement (.collSet l c b a s) :=
  RoundTrip.wide
    (show _ = partsNat [(1, 1), (1, s.toNat), (6, 44), (6, a.toNat), (6, b.toNat), (6, c.toNat), (3, 0), (2, l.toNat), (1, 0)] by simp only [encodeWord, partsNat]; omega)
    ⟨by decide, s.isLt, by decide, a.isLt, b.isLt, c.isLt, by decide, l.isLt, by decide, trivial⟩ rfl rfl rfl (by decide) (word_collSet l c b a s)

theorem RoundTrip.collRun (l : BitVec 2) (c : BitVec 6) (b : BitVec 6) (a : BitVec 6) (s : BitVec 1) : RoundTrip.Statement (.collRun l c b a s) :=
  RoundTrip.wide
    (show _ = partsNat [(1, 1), (1, s.toNat), (6, 44), (6, a.toNat), (6, b.toNat), (6, c.toNat), (3, 1), (2, l.toNat), (1, 0)] by simp only [encodeWord, partsNat]; omega)
    ⟨by decide, s.isLt, by decide, a.isLt, b.isLt, c.isLt, by decide, l.isLt, by decide, trivial⟩ rfl rfl rfl (by decide) (word_collRun l c b a s)

theorem RoundTrip.collStat (l : BitVec 2) (c : BitVec 6) (a : BitVec 6) (s : BitVec 1) : RoundTrip.Statement (.collStat l c a s) :=
  RoundTrip.wide
    (show _ = partsNat [(1, 1), (1, s.toNat), (6, 44), (6, a.toNat), (6, 0), (6, c.toNat), (3, 2), (2, l.toNat), (1, 0)] by simp only [encodeWord, partsNat]; omega)
    ⟨by decide, s.isLt, by decide, a.isLt, by decide, c.isLt, by decide, l.isLt, by decide, trivial⟩ rfl rfl rfl (by decide) (word_collStat l c a s)

theorem RoundTrip.pfi (a : BitVec 7) (s : BitVec 1) : RoundTrip.Statement (.pfi a s) :=
  RoundTrip.wide
    (show _ = partsNat [(1, 1), (1, s.toNat), (13, 45), (7, a.toNat), (10, 0)] by simp only [encodeWord, partsNat]; omega)
    ⟨by decide, s.isLt, by decide, a.isLt, by decide, trivial⟩ rfl rfl rfl (by decide) (word_pfi a s)

theorem RoundTrip.pfd (n : BitVec 7) (a : BitVec 7) (s : BitVec 1) : RoundTrip.Statement (.pfd n a s) :=
  RoundTrip.wide
    (show _ = partsNat [(1, 1), (1, s.toNat), (13, 45), (7, a.toNat), (7, n.toNat), (3, 1)] by simp only [encodeWord, partsNat]; omega)
    ⟨by decide, s.isLt, by decide, a.isLt, n.isLt, by decide, trivial⟩ rfl rfl rfl (by decide) (word_pfd n a s)

theorem RoundTrip.dsc (n : BitVec 7) (a : BitVec 7) (s : BitVec 1) : RoundTrip.Statement (.dsc n a s) :=
  RoundTrip.wide
    (show _ = partsNat [(1, 1), (1, s.toNat), (13, 45), (7, a.toNat), (7, n.toNat), (3, 2)] by simp only [encodeWord, partsNat]; omega)
    ⟨by decide, s.isLt, by decide, a.isLt, n.isLt, by decide, trivial⟩ rfl rfl rfl (by decide) (word_dsc n a s)

theorem RoundTrip.lstu (a : BitVec 7) (d : BitVec 7) (s : BitVec 1) : RoundTrip.Statement (.lstu a d s) :=
  RoundTrip.wide
    (show _ = partsNat [(1, 1), (1, s.toNat), (6, 45), (7, d.toNat), (7, a.toNat), (10, 384)] by simp only [encodeWord, partsNat]; omega)
    ⟨by decide, s.isLt, by decide, d.isLt, a.isLt, by decide, trivial⟩ rfl rfl rfl (by decide) (word_lstu a d s)

theorem RoundTrip.wbk (n : BitVec 7) (a : BitVec 7) (s : BitVec 1) : RoundTrip.Statement (.wbk n a s) :=
  RoundTrip.wide
    (show _ = partsNat [(1, 1), (1, s.toNat), (13, 45), (7, a.toNat), (7, n.toNat), (3, 4)] by simp only [encodeWord, partsNat]; omega)
    ⟨by decide, s.isLt, by decide, a.isLt, n.isLt, by decide, trivial⟩ rfl rfl rfl (by decide) (word_wbk n a s)

theorem RoundTrip.ownreg (b : BitVec 6) (a : BitVec 6) (s : BitVec 1) : RoundTrip.Statement (.ownreg b a s) :=
  RoundTrip.wide
    (show _ = partsNat [(1, 1), (1, s.toNat), (12, 46), (6, a.toNat), (6, b.toNat), (6, 0)] by simp only [encodeWord, partsNat]; omega)
    ⟨by decide, s.isLt, by decide, a.isLt, b.isLt, by decide, trivial⟩ rfl rfl rfl (by decide) (word_ownreg b a s)

theorem RoundTrip.ownclr (a : BitVec 6) (s : BitVec 1) : RoundTrip.Statement (.ownclr a s) :=
  RoundTrip.wide
    (show _ = partsNat [(1, 1), (1, s.toNat), (12, 46), (6, a.toNat), (12, 64)] by simp only [encodeWord, partsNat]; omega)
    ⟨by decide, s.isLt, by decide, a.isLt, by decide, trivial⟩ rfl rfl rfl (by decide) (word_ownclr a s)

theorem RoundTrip.rga (n : BitVec 7) (d : BitVec 7) (s : BitVec 1) : RoundTrip.Statement (.rga n d s) :=
  RoundTrip.wide
    (show _ = partsNat [(1, 1), (1, s.toNat), (6, 47), (7, d.toNat), (7, n.toNat), (10, 0)] by simp only [encodeWord, partsNat]; omega)
    ⟨by decide, s.isLt, by decide, d.isLt, n.isLt, by decide, trivial⟩ rfl rfl rfl (by decide) (word_rga n d s)

theorem RoundTrip.omld (a : BitVec 6) (o : BitVec 4) (s : BitVec 1) : RoundTrip.Statement (.omld a o s) :=
  RoundTrip.wide
    (show _ = partsNat [(1, 1), (1, s.toNat), (6, 48), (4, o.toNat), (2, 0), (6, a.toNat), (12, 0)] by simp only [encodeWord, partsNat]; omega)
    ⟨by decide, s.isLt, by decide, o.isLt, by decide, a.isLt, by decide, trivial⟩ rfl rfl rfl (by decide) (word_omld a o s)

theorem RoundTrip.mld (l : BitVec 2) (w : BitVec 2) (g : BitVec 3) (b : BitVec 6) (a : BitVec 6) (s : BitVec 1) : RoundTrip.Statement (.mld l w g b a s) :=
  RoundTrip.wide
    (show _ = partsNat [(1, 1), (1, s.toNat), (6, 49), (6, a.toNat), (6, b.toNat), (3, g.toNat), (3, 0), (2, w.toNat), (2, l.toNat), (2, 0)] by simp only [encodeWord, partsNat]; omega)
    ⟨by decide, s.isLt, by decide, a.isLt, b.isLt, g.isLt, by decide, w.isLt, l.isLt, by decide, trivial⟩ rfl rfl rfl (by decide) (word_mld l w g b a s)

theorem RoundTrip.mswp (l : BitVec 2) (s : BitVec 1) : RoundTrip.Statement (.mswp l s) :=
  RoundTrip.wide
    (show _ = partsNat [(1, 1), (1, s.toNat), (26, 49), (2, l.toNat), (2, 1)] by simp only [encodeWord, partsNat]; omega)
    ⟨by decide, s.isLt, by decide, l.isLt, by decide, trivial⟩ rfl rfl rfl (by decide) (word_mswp l s)

theorem RoundTrip.mswpRel (l : BitVec 2) (s : BitVec 1) : RoundTrip.Statement (.mswpRel l s) :=
  RoundTrip.wide
    (show _ = partsNat [(1, 1), (1, s.toNat), (26, 16777265), (2, l.toNat), (2, 1)] by simp only [encodeWord, partsNat]; omega)
    ⟨by decide, s.isLt, by decide, l.isLt, by decide, trivial⟩ rfl rfl rfl (by decide) (word_mswpRel l s)

theorem RoundTrip.mst (l : BitVec 2) (w : BitVec 2) (g : BitVec 6) (b : BitVec 6) (a : BitVec 6) (s : BitVec 1) : RoundTrip.Statement (.mst l w g b a s) :=
  RoundTrip.wide
    (show _ = partsNat [(1, 1), (1, s.toNat), (6, 50), (6, a.toNat), (6, b.toNat), (6, g.toNat), (2, w.toNat), (2, l.toNat), (2, 0)] by simp only [encodeWord, partsNat]; omega)
    ⟨by decide, s.isLt, by decide, a.isLt, b.isLt, g.isLt, w.isLt, l.isLt, by decide, trivial⟩ rfl rfl rfl (by decide) (word_mst l w g b a s)

theorem RoundTrip.mdr (l : BitVec 2) (w : BitVec 2) (g : BitVec 6) (b : BitVec 6) (a : BitVec 6) (s : BitVec 1) : RoundTrip.Statement (.mdr l w g b a s) :=
  RoundTrip.wide
    (show _ = partsNat [(1, 1), (1, s.toNat), (6, 51), (6, a.toNat), (6, b.toNat), (6, g.toNat), (2, w.toNat), (2, l.toNat), (2, 0)] by simp only [encodeWord, partsNat]; omega)
    ⟨by decide, s.isLt, by decide, a.isLt, b.isLt, g.isLt, w.isLt, l.isLt, by decide, trivial⟩ rfl rfl rfl (by decide) (word_mdr l w g b a s)

theorem RoundTrip.mdrRed (l : BitVec 2) (w : BitVec 2) (g : BitVec 6) (b : BitVec 6) (a : BitVec 6) (s : BitVec 1) : RoundTrip.Statement (.mdrRed l w g b a s) :=
  RoundTrip.wide
    (show _ = partsNat [(1, 1), (1, s.toNat), (6, 51), (6, a.toNat), (6, b.toNat), (6, g.toNat), (2, w.toNat), (2, l.toNat), (2, 1)] by simp only [encodeWord, partsNat]; omega)
    ⟨by decide, s.isLt, by decide, a.isLt, b.isLt, g.isLt, w.isLt, l.isLt, by decide, trivial⟩ rfl rfl rfl (by decide) (word_mdrRed l w g b a s)

theorem RoundTrip.accget (l : BitVec 2) (w : BitVec 2) (g : BitVec 6) (b : BitVec 6) (s : BitVec 1) : RoundTrip.Statement (.accget l w g b s) :=
  RoundTrip.wide
    (show _ = partsNat [(1, 1), (1, s.toNat), (12, 52), (6, b.toNat), (6, g.toNat), (2, w.toNat), (2, l.toNat), (2, 0)] by simp only [encodeWord, partsNat]; omega)
    ⟨by decide, s.isLt, by decide, b.isLt, g.isLt, w.isLt, l.isLt, by decide, trivial⟩ rfl rfl rfl (by decide) (word_accget l w g b s)

theorem RoundTrip.accgetW (l : BitVec 2) (w : BitVec 2) (g : BitVec 6) (b : BitVec 6) (s : BitVec 1) : RoundTrip.Statement (.accgetW l w g b s) :=
  RoundTrip.wide
    (show _ = partsNat [(1, 1), (1, s.toNat), (12, 116), (6, b.toNat), (6, g.toNat), (2, w.toNat), (2, l.toNat), (2, 0)] by simp only [encodeWord, partsNat]; omega)
    ⟨by decide, s.isLt, by decide, b.isLt, g.isLt, w.isLt, l.isLt, by decide, trivial⟩ rfl rfl rfl (by decide) (word_accgetW l w g b s)

theorem RoundTrip.accput (l : BitVec 2) (w : BitVec 2) (g : BitVec 6) (s : BitVec 1) : RoundTrip.Statement (.accput l w g s) :=
  RoundTrip.wide
    (show _ = partsNat [(1, 1), (1, s.toNat), (18, 52), (6, g.toNat), (2, w.toNat), (2, l.toNat), (2, 1)] by simp only [encodeWord, partsNat]; omega)
    ⟨by decide, s.isLt, by decide, g.isLt, w.isLt, l.isLt, by decide, trivial⟩ rfl rfl rfl (by decide) (word_accput l w g s)

theorem RoundTrip.accz (l : BitVec 2) (w : BitVec 2) (g : BitVec 6) (s : BitVec 1) : RoundTrip.Statement (.accz l w g s) :=
  RoundTrip.wide
    (show _ = partsNat [(1, 1), (1, s.toNat), (18, 52), (6, g.toNat), (2, w.toNat), (2, l.toNat), (2, 2)] by simp only [encodeWord, partsNat]; omega)
    ⟨by decide, s.isLt, by decide, g.isLt, w.isLt, l.isLt, by decide, trivial⟩ rfl rfl rfl (by decide) (word_accz l w g s)

theorem RoundTrip.accld (l : BitVec 2) (w : BitVec 2) (g : BitVec 6) (r : BitVec 5) (a : BitVec 6) (s : BitVec 1) : RoundTrip.Statement (.accld l w g r a s) :=
  RoundTrip.wide
    (show _ = partsNat [(1, 1), (1, s.toNat), (6, 52), (6, a.toNat), (5, r.toNat), (1, 0), (6, g.toNat), (2, w.toNat), (2, l.toNat), (2, 3)] by simp only [encodeWord, partsNat]; omega)
    ⟨by decide, s.isLt, by decide, a.isLt, r.isLt, by decide, g.isLt, w.isLt, l.isLt, by decide, trivial⟩ rfl rfl rfl (by decide) (word_accld l w g r a s)

theorem RoundTrip.accst (l : BitVec 2) (w : BitVec 2) (g : BitVec 6) (r : BitVec 5) (a : BitVec 6) (s : BitVec 1) : RoundTrip.Statement (.accst l w g r a s) :=
  RoundTrip.wide
    (show _ = partsNat [(1, 1), (1, s.toNat), (6, 52), (6, a.toNat), (5, r.toNat), (1, 1), (6, g.toNat), (2, w.toNat), (2, l.toNat), (2, 3)] by simp only [encodeWord, partsNat]; omega)
    ⟨by decide, s.isLt, by decide, a.isLt, r.isLt, by decide, g.isLt, w.isLt, l.isLt, by decide, trivial⟩ rfl rfl rfl (by decide) (word_accst l w g r a s)

theorem RoundTrip.tmm (l : BitVec 2) (w : BitVec 2) (g : BitVec 6) (b : BitVec 6) (a : BitVec 6) (s : BitVec 1) : RoundTrip.Statement (.tmm l w g b a s) :=
  RoundTrip.wide
    (show _ = partsNat [(1, 1), (1, s.toNat), (6, 53), (6, a.toNat), (6, b.toNat), (6, g.toNat), (2, w.toNat), (2, l.toNat), (2, 0)] by simp only [encodeWord, partsNat]; omega)
    ⟨by decide, s.isLt, by decide, a.isLt, b.isLt, g.isLt, w.isLt, l.isLt, by decide, trivial⟩ rfl rfl rfl (by decide) (word_tmm l w g b a s)

theorem RoundTrip.tmmRed (l : BitVec 2) (w : BitVec 2) (g : BitVec 6) (b : BitVec 6) (a : BitVec 6) (s : BitVec 1) : RoundTrip.Statement (.tmmRed l w g b a s) :=
  RoundTrip.wide
    (show _ = partsNat [(1, 1), (1, s.toNat), (6, 53), (6, a.toNat), (6, b.toNat), (6, g.toNat), (2, w.toNat), (2, l.toNat), (2, 1)] by simp only [encodeWord, partsNat]; omega)
    ⟨by decide, s.isLt, by decide, a.isLt, b.isLt, g.isLt, w.isLt, l.isLt, by decide, trivial⟩ rfl rfl rfl (by decide) (word_tmmRed l w g b a s)

theorem RoundTrip.sbeg (w : BitVec 2) (g : BitVec 6) (h : BitVec 6) (s : BitVec 1) : RoundTrip.Statement (.sbeg w g h s) :=
  RoundTrip.wide
    (show _ = partsNat [(1, 1), (1, s.toNat), (12, 54), (6, h.toNat), (6, g.toNat), (2, w.toNat), (4, 0)] by simp only [encodeWord, partsNat]; omega)
    ⟨by decide, s.isLt, by decide, h.isLt, g.isLt, w.isLt, by decide, trivial⟩ rfl rfl rfl (by decide) (word_sbeg w g h s)

theorem RoundTrip.scmt (s : BitVec 1) : RoundTrip.Statement (.scmt s) :=
  RoundTrip.wide
    (show _ = partsNat [(1, 1), (1, s.toNat), (30, 268435510)] by simp only [encodeWord, partsNat]; omega)
    ⟨by decide, s.isLt, by decide, trivial⟩ rfl rfl rfl (by decide) (word_scmt s)

theorem RoundTrip.sdis (s : BitVec 1) : RoundTrip.Statement (.sdis s) :=
  RoundTrip.wide
    (show _ = partsNat [(1, 1), (1, s.toNat), (30, 536870966)] by simp only [encodeWord, partsNat]; omega)
    ⟨by decide, s.isLt, by decide, trivial⟩ rfl rfl rfl (by decide) (word_sdis s)

theorem RoundTrip.rmax (l : BitVec 2) (i : BitVec 8) (c : BitVec 1) (d : BitVec 7) (s : BitVec 1) : RoundTrip.Statement (.rmax l i c d s) :=
  RoundTrip.wide
    (show _ = partsNat [(1, 1), (1, s.toNat), (6, 55), (7, d.toNat), (3, 0), (1, c.toNat), (8, i.toNat), (2, l.toNat), (3, 0)] by simp only [encodeWord, partsNat]; omega)
    ⟨by decide, s.isLt, by decide, d.isLt, by decide, c.isLt, i.isLt, l.isLt, by decide, trivial⟩ rfl rfl rfl (by decide) (word_rmax l i c d s)

theorem RoundTrip.rsum (l : BitVec 2) (i : BitVec 8) (c : BitVec 1) (d : BitVec 7) (s : BitVec 1) : RoundTrip.Statement (.rsum l i c d s) :=
  RoundTrip.wide
    (show _ = partsNat [(1, 1), (1, s.toNat), (6, 55), (7, d.toNat), (3, 1), (1, c.toNat), (8, i.toNat), (2, l.toNat), (3, 0)] by simp only [encodeWord, partsNat]; omega)
    ⟨by decide, s.isLt, by decide, d.isLt, by decide, c.isLt, i.isLt, l.isLt, by decide, trivial⟩ rfl rfl rfl (by decide) (word_rsum l i c d s)

theorem RoundTrip.rvar (l : BitVec 2) (i : BitVec 8) (c : BitVec 1) (d : BitVec 7) (s : BitVec 1) : RoundTrip.Statement (.rvar l i c d s) :=
  RoundTrip.wide
    (show _ = partsNat [(1, 1), (1, s.toNat), (6, 55), (7, d.toNat), (3, 2), (1, c.toNat), (8, i.toNat), (2, l.toNat), (3, 0)] by simp only [encodeWord, partsNat]; omega)
    ⟨by decide, s.isLt, by decide, d.isLt, by decide, c.isLt, i.isLt, l.isLt, by decide, trivial⟩ rfl rfl rfl (by decide) (word_rvar l i c d s)

theorem RoundTrip.rsmx (l : BitVec 2) (i : BitVec 8) (c : BitVec 1) (d : BitVec 7) (s : BitVec 1) : RoundTrip.Statement (.rsmx l i c d s) :=
  RoundTrip.wide
    (show _ = partsNat [(1, 1), (1, s.toNat), (6, 55), (7, d.toNat), (3, 3), (1, c.toNat), (8, i.toNat), (2, l.toNat), (3, 0)] by simp only [encodeWord, partsNat]; omega)
    ⟨by decide, s.isLt, by decide, d.isLt, by decide, c.isLt, i.isLt, l.isLt, by decide, trivial⟩ rfl rfl rfl (by decide) (word_rsmx l i c d s)

theorem RoundTrip.rnorm (l : BitVec 2) (i : BitVec 8) (c : BitVec 1) (d : BitVec 7) (s : BitVec 1) : RoundTrip.Statement (.rnorm l i c d s) :=
  RoundTrip.wide
    (show _ = partsNat [(1, 1), (1, s.toNat), (6, 55), (7, d.toNat), (3, 4), (1, c.toNat), (8, i.toNat), (2, l.toNat), (3, 0)] by simp only [encodeWord, partsNat]; omega)
    ⟨by decide, s.isLt, by decide, d.isLt, by decide, c.isLt, i.isLt, l.isLt, by decide, trivial⟩ rfl rfl rfl (by decide) (word_rnorm l i c d s)

theorem RoundTrip.illegalEncoding : RoundTrip.Statement .illegalEncoding := fun h => nomatch h

theorem RoundTrip.ejectionHandoverEnd : RoundTrip.Statement .ejectionHandoverEnd := fun h => nomatch h

theorem RoundTrip.rejoinWritebackEnd : RoundTrip.Statement .rejoinWritebackEnd := fun h => nomatch h

theorem RoundTrip.rejoinWindowClose : RoundTrip.Statement .rejoinWindowClose := fun h => nomatch h

theorem RoundTrip.ejlim : RoundTrip.Statement .ejlim := fun h => nomatch h

theorem RoundTrip.binAged : RoundTrip.Statement .binAged := fun h => nomatch h

theorem RoundTrip.binDraw : RoundTrip.Statement .binDraw := fun h => nomatch h

theorem RoundTrip.waitConditionMet : RoundTrip.Statement .waitConditionMet := fun h => nomatch h

theorem RoundTrip.waitTimeout : RoundTrip.Statement .waitTimeout := fun h => nomatch h

theorem RoundTrip.runParkEnd : RoundTrip.Statement .runParkEnd := fun h => nomatch h

theorem RoundTrip.fatalStop : RoundTrip.Statement .fatalStop := fun h => nomatch h

theorem RoundTrip.dumpWrite : RoundTrip.Statement .dumpWrite := fun h => nomatch h

theorem RoundTrip.joinDecrement : RoundTrip.Statement .joinDecrement := fun h => nomatch h

theorem RoundTrip.unitPlace : RoundTrip.Statement .unitPlace := fun h => nomatch h

theorem RoundTrip.compactionMove : RoundTrip.Statement .compactionMove := fun h => nomatch h

theorem RoundTrip.compactionMoveEnd : RoundTrip.Statement .compactionMoveEnd := fun h => nomatch h

theorem RoundTrip.demandFetch : RoundTrip.Statement .demandFetch := fun h => nomatch h

theorem RoundTrip.icacheFillLand : RoundTrip.Statement .icacheFillLand := fun h => nomatch h

theorem RoundTrip.translationWalkEnd : RoundTrip.Statement .translationWalkEnd := fun h => nomatch h

theorem RoundTrip.pageRequestResponse : RoundTrip.Statement .pageRequestResponse := fun h => nomatch h

theorem RoundTrip.loadReturn : RoundTrip.Statement .loadReturn := fun h => nomatch h

theorem RoundTrip.storeAck : RoundTrip.Statement .storeAck := fun h => nomatch h

theorem RoundTrip.atomicComplete : RoundTrip.Statement .atomicComplete := fun h => nomatch h

theorem RoundTrip.requestLost : RoundTrip.Statement .requestLost := fun h => nomatch h

theorem RoundTrip.engineReadsBegin : RoundTrip.Statement .engineReadsBegin := fun h => nomatch h

theorem RoundTrip.engineTransferEnd : RoundTrip.Statement .engineTransferEnd := fun h => nomatch h

theorem RoundTrip.completionWriteAck : RoundTrip.Statement .completionWriteAck := fun h => nomatch h

theorem RoundTrip.tileFillEnd : RoundTrip.Statement .tileFillEnd := fun h => nomatch h

theorem RoundTrip.tileDrainEnd : RoundTrip.Statement .tileDrainEnd := fun h => nomatch h

theorem RoundTrip.collSetResult : RoundTrip.Statement .collSetResult := fun h => nomatch h

theorem RoundTrip.collSetMemberTimeout : RoundTrip.Statement .collSetMemberTimeout := fun h => nomatch h

theorem RoundTrip.fabricReduce : RoundTrip.Statement .fabricReduce := fun h => nomatch h

theorem RoundTrip.collRunComplete : RoundTrip.Statement .collRunComplete := fun h => nomatch h

theorem RoundTrip.fabricMessageReceive : RoundTrip.Statement .fabricMessageReceive := fun h => nomatch h

theorem RoundTrip.stationaryLoadComplete : RoundTrip.Statement .stationaryLoadComplete := fun h => nomatch h

theorem RoundTrip.planeSwap : RoundTrip.Statement .planeSwap := fun h => nomatch h

theorem RoundTrip.streamComplete : RoundTrip.Statement .streamComplete := fun h => nomatch h

theorem RoundTrip.drainComplete : RoundTrip.Statement .drainComplete := fun h => nomatch h

theorem RoundTrip.rowStatComplete : RoundTrip.Statement .rowStatComplete := fun h => nomatch h

theorem RoundTrip.lehrStep : RoundTrip.Statement .lehrStep := fun h => nomatch h

theorem RoundTrip.budgetRetry : RoundTrip.Statement .budgetRetry := fun h => nomatch h

theorem RoundTrip.firstUseTrapReturn : RoundTrip.Statement .firstUseTrapReturn := fun h => nomatch h

theorem RoundTrip.elasticGrant : RoundTrip.Statement .elasticGrant := fun h => nomatch h

theorem RoundTrip.elasticRefuse : RoundTrip.Statement .elasticRefuse := fun h => nomatch h

theorem RoundTrip.tailWrite : RoundTrip.Statement .tailWrite := fun h => nomatch h

theorem RoundTrip.packetTake : RoundTrip.Statement .packetTake := fun h => nomatch h

theorem RoundTrip.pktLaunch : RoundTrip.Statement .pktLaunch := fun h => nomatch h

theorem RoundTrip.pktGraphSubmit : RoundTrip.Statement .pktGraphSubmit := fun h => nomatch h

theorem RoundTrip.pktSignalSet : RoundTrip.Statement .pktSignalSet := fun h => nomatch h

theorem RoundTrip.pktSignalClear : RoundTrip.Statement .pktSignalClear := fun h => nomatch h

theorem RoundTrip.pktSignalPhase : RoundTrip.Statement .pktSignalPhase := fun h => nomatch h

theorem RoundTrip.pktSignalNothing : RoundTrip.Statement .pktSignalNothing := fun h => nomatch h

theorem RoundTrip.pktCopy : RoundTrip.Statement .pktCopy := fun h => nomatch h

theorem RoundTrip.pktCodeMove : RoundTrip.Statement .pktCodeMove := fun h => nomatch h

theorem RoundTrip.pktCancel : RoundTrip.Statement .pktCancel := fun h => nomatch h

theorem RoundTrip.pktQuery : RoundTrip.Statement .pktQuery := fun h => nomatch h

theorem RoundTrip.packetComplete : RoundTrip.Statement .packetComplete := fun h => nomatch h

theorem RoundTrip.evrbWrite : RoundTrip.Statement .evrbWrite := fun h => nomatch h

theorem RoundTrip.invPage : RoundTrip.Statement .invPage := fun h => nomatch h

theorem RoundTrip.invPasid : RoundTrip.Statement .invPasid := fun h => nomatch h

theorem RoundTrip.invFunction : RoundTrip.Statement .invFunction := fun h => nomatch h

theorem RoundTrip.invalidationDone : RoundTrip.Statement .invalidationDone := fun h => nomatch h

theorem RoundTrip.atsInvalidationRequest : RoundTrip.Statement .atsInvalidationRequest := fun h => nomatch h

theorem RoundTrip.cqdEnable : RoundTrip.Statement .cqdEnable := fun h => nomatch h

theorem RoundTrip.cqdDisable : RoundTrip.Statement .cqdDisable := fun h => nomatch h

theorem RoundTrip.ctxCreate : RoundTrip.Statement .ctxCreate := fun h => nomatch h

theorem RoundTrip.ctxDestroy : RoundTrip.Statement .ctxDestroy := fun h => nomatch h

theorem RoundTrip.contextDestroyDone : RoundTrip.Statement .contextDestroyDone := fun h => nomatch h

theorem RoundTrip.fwdRemove : RoundTrip.Statement .fwdRemove := fun h => nomatch h

theorem RoundTrip.routeWrite : RoundTrip.Statement .routeWrite := fun h => nomatch h

theorem RoundTrip.routeTakeEffect : RoundTrip.Statement .routeTakeEffect := fun h => nomatch h

theorem RoundTrip.registerWrite : RoundTrip.Statement .registerWrite := fun h => nomatch h

theorem RoundTrip.policy : RoundTrip.Statement .policy := fun h => nomatch h

theorem RoundTrip.attest : RoundTrip.Statement .attest := fun h => nomatch h

theorem RoundTrip.keys : RoundTrip.Statement .keys := fun h => nomatch h

theorem RoundTrip.openCmd : RoundTrip.Statement .openCmd := fun h => nomatch h

theorem RoundTrip.sched : RoundTrip.Statement .sched := fun h => nomatch h

theorem RoundTrip.pause : RoundTrip.Statement .pause := fun h => nomatch h

theorem RoundTrip.evict : RoundTrip.Statement .evict := fun h => nomatch h

theorem RoundTrip.resume : RoundTrip.Statement .resume := fun h => nomatch h

theorem RoundTrip.contextResume : RoundTrip.Statement .contextResume := fun h => nomatch h

theorem RoundTrip.kill : RoundTrip.Statement .kill := fun h => nomatch h

theorem RoundTrip.move : RoundTrip.Statement .move := fun h => nomatch h

theorem RoundTrip.sliceMoveComplete : RoundTrip.Statement .sliceMoveComplete := fun h => nomatch h

theorem RoundTrip.retireCluster : RoundTrip.Statement .retireCluster := fun h => nomatch h

theorem RoundTrip.retireChannelPair : RoundTrip.Statement .retireChannelPair := fun h => nomatch h

theorem RoundTrip.counts : RoundTrip.Statement .counts := fun h => nomatch h

theorem RoundTrip.countsClear : RoundTrip.Statement .countsClear := fun h => nomatch h

theorem RoundTrip.unknownCommand : RoundTrip.Statement .unknownCommand := fun h => nomatch h

theorem RoundTrip.crucibleCommandDone : RoundTrip.Statement .crucibleCommandDone := fun h => nomatch h

theorem RoundTrip.moduleReset : RoundTrip.Statement .moduleReset := fun h => nomatch h

theorem RoundTrip.functionReady : RoundTrip.Statement .functionReady := fun h => nomatch h

theorem RoundTrip.storeUncorrectable : RoundTrip.Statement .storeUncorrectable := fun h => nomatch h

theorem RoundTrip.cacheHbmError : RoundTrip.Statement .cacheHbmError := fun h => nomatch h

theorem RoundTrip.correctedError : RoundTrip.Statement .correctedError := fun h => nomatch h

theorem RoundTrip.clusterControlError : RoundTrip.Statement .clusterControlError := fun h => nomatch h

theorem RoundTrip.hostReadFailure : RoundTrip.Statement .hostReadFailure := fun h => nomatch h

theorem RoundTrip.hostCompletionTimeout : RoundTrip.Statement .hostCompletionTimeout := fun h => nomatch h

theorem RoundTrip.linkDown : RoundTrip.Statement .linkDown := fun h => nomatch h

theorem RoundTrip.linkReturn : RoundTrip.Statement .linkReturn := fun h => nomatch h

theorem RoundTrip.failedPostedWrite : RoundTrip.Statement .failedPostedWrite := fun h => nomatch h

theorem RoundTrip.atsTranslationCompletion : RoundTrip.Statement .atsTranslationCompletion := fun h => nomatch h

theorem RoundTrip.movePageNew : RoundTrip.Statement .movePageNew := fun h => nomatch h

end Sys2Proof.Laws
end

