-- ==== Sys2Proof/Laws/Results.lean ====
section
/-! SUPPORT. Results of lane instructions: from the equation of a meaning to its completion, for words, predicates and words with
flags (R8, R174, R241). -/

namespace Sys2Proof

open Machine

theorem pendWrites_pendWrites (s : State) (g : Gid) (lat : Nat) (a b : List PendWrite) :
    pendWrites (pendWrites s g lat a) g lat b = pendWrites s g lat (a ++ b) := by
  have hn : (pendWrites s g lat a).now = s.now := modRun_now _ _ _
  simp only [pendWrites] at *
  rw [hn, modRun_modRun]
  congr 1
  funext r
  simp [List.append_assoc]

theorem writeX_eq (s : State) (v : View) (lat : Nat) (items : List (Nat × Nat × Word)) :
    writeX s v lat items =
      pendWrites (if (!v.kc && changes s v items) = true then progress s v else s) v.gid lat
        (items.map fun x => .x x.2.1 x.1 x.2.2) := rfl

/-- An instruction that leaves lane words to become usable, and then other writes, completes with them. -/
theorem Safety.Issues.leaves {i : Instr} {s : State} {v : View} (h : Safety.Issues i s v)
    {own : State → View → Option Trap} {pre : State → View → Option Did} {effect : State → View → Did} {lat : Nat}
    {items : List (Nat × Nat × Word)} {ws : List PendWrite} (hx : exec i s = issuePre i s own pre effect) (ho : own s v = none)
    (hp : pre s v = none) (he : effect s v = .done (pendWrites (writeX s v lat items) v.gid lat ws) .next 0) :
    Safety.Completes i s v lat ((items.map fun x => .x x.2.1 x.1 x.2.2) ++ ws) := by
  refine ⟨_, hx.trans (h.does ho hp he), ?_⟩
  rw [writeX_eq, pendWrites_pendWrites]
  exact Safety.retired_of h.group lat _ _ (by intro hk; simp [hk])

/-- The same with lane words alone. -/
theorem Safety.Issues.leavesWords {i : Instr} {s : State} {v : View} (h : Safety.Issues i s v)
    {own : State → View → Option Trap} {pre : State → View → Option Did} {effect : State → View → Did} {lat : Nat}
    {items : List (Nat × Nat × Word)} (hx : exec i s = issuePre i s own pre effect) (ho : own s v = none)
    (hp : pre s v = none) (he : effect s v = .done (writeX s v lat items) .next 0) :
    Safety.Completes i s v lat (items.map fun x => .x x.2.1 x.1 x.2.2) := by
  refine ⟨_, hx.trans (h.does ho hp he), ?_⟩
  rw [writeX_eq]
  exact Safety.retired_of h.group lat _ _ (by intro hk; simp [hk])

/-- The same with no lane word. -/
theorem Safety.Issues.leavesWrites {i : Instr} {s : State} {v : View} (h : Safety.Issues i s v)
    {own : State → View → Option Trap} {pre : State → View → Option Did} {effect : State → View → Did} {lat : Nat}
    {ws : List PendWrite} (hx : exec i s = issuePre i s own pre effect) (ho : own s v = none)
    (hp : pre s v = none) (he : effect s v = .done (pendWrites s v.gid lat ws) .next 0) : Safety.Completes i s v lat ws := by
  refine ⟨_, hx.trans (h.does ho hp he), ?_⟩
  exact Safety.retired_of h.group lat ws false (fun _ => rfl)

theorem writeLanes_items (v : View) (d : Nat) (f : Nat → Word) :
    ((v.act.map fun l => (l, d, f l)).map fun x : Nat × Nat × Word => PendWrite.x x.2.1 x.1 x.2.2) = Safety.words v d f := by
  simp [Safety.words, Function.comp_def]

/-- One word per lane. -/
theorem Safety.Issues.word {i : Instr} {s : State} {v : View} (h : Safety.Issues i s v)
    {own : State → View → Option Trap} {pre : State → View → Option Did} {effect : State → View → Did} {lat d : Nat}
    {f : Nat → Word} (hx : exec i s = issuePre i s own pre effect) (ho : own s v = none) (hp : pre s v = none)
    (he : effect s v = .done (writeLanes s v lat d f) .next 0) : Safety.Completes i s v lat (Safety.words v d f) :=
  writeLanes_items v d f ▸ h.leavesWords hx ho hp he

/-- One predicate bit per lane. -/
theorem Safety.Issues.truth {i : Instr} {s : State} {v : View} (h : Safety.Issues i s v)
    {own : State → View → Option Trap} {pre : State → View → Option Did} {effect : State → View → Did} {lat p : Nat}
    {f : Nat → Bool} (hx : exec i s = issuePre i s own pre effect) (ho : own s v = none) (hp : pre s v = none)
    (he : effect s v = .done (writeP s v lat p f) .next 0) : Safety.Completes i s v lat (Safety.truths v p f) :=
  h.leavesWrites hx ho hp he

/-- One word per lane with the flags it raises. -/
theorem writeFloat_eq (s : State) (v : View) (lat d : Nat) (f : Nat → Flagged Nat) :
    writeFloat s v lat d f =
      pendWrites (writeX s v lat (v.act.map fun l => (l, d, BitVec.ofNat 32 (f l).1))) v.gid lat
        (Safety.raised v fun l => (f l).2) := by
  simp only [writeFloat, Safety.raised, List.map_map, List.filter_map, Function.comp_def]

theorem Safety.Issues.float {i : Instr} {s : State} {v : View} (h : Safety.Issues i s v)
    {own : State → View → Option Trap} {pre : State → View → Option Did} {effect : State → View → Did} {lat d : Nat}
    {f : Nat → Flagged Nat} (hx : exec i s = issuePre i s own pre effect) (ho : own s v = none) (hp : pre s v = none)
    (he : effect s v = .done (writeFloat s v lat d f) .next 0) :
    Safety.Completes i s v lat
      (Safety.words v d (fun l => BitVec.ofNat 32 (f l).1) ++ Safety.raised v fun l => (f l).2) := by
  rw [writeFloat_eq] at he
  exact writeLanes_items v d (fun l => BitVec.ofNat 32 (f l).1) ▸ h.leaves hx ho hp he

/-- The completion of every instruction of a shape, from the equation of its meaning. -/
theorem Safety.perLane_of {i : Instr} {own : State → View → Option Trap} {pre : State → View → Option Did}
    {effect : State → View → Did} {lat d : Nat} {f g : State → View → Nat → Word}
    (hx : ∀ s, exec i s = issuePre i s own pre effect) (ho : ∀ s v, own s v = none) (hp : ∀ s v, pre s v = none)
    (he : ∀ s v, effect s v = .done (writeLanes s v lat d (g s v)) .next 0) (hfg : ∀ s v l, f s v l = g s v l) :
    Safety.perLane i lat d f := by
  intro s v h
  rw [show f s v = g s v from funext (hfg s v)]
  exact h.word (hx s) (ho s v) (hp s v) (he s v)

theorem Safety.perTruth_of {i : Instr} {own : State → View → Option Trap} {pre : State → View → Option Did}
    {effect : State → View → Did} {lat p : Nat} {f g : State → View → Nat → Bool}
    (hx : ∀ s, exec i s = issuePre i s own pre effect) (ho : ∀ s v, own s v = none) (hp : ∀ s v, pre s v = none)
    (he : ∀ s v, effect s v = .done (writeP s v lat p (g s v)) .next 0) (hfg : ∀ s v l, f s v l = g s v l) :
    Safety.perTruth i lat p f := by
  intro s v h
  rw [show f s v = g s v from funext (hfg s v)]
  exact h.truth (hx s) (ho s v) (hp s v) (he s v)

theorem Safety.perFloat_of {i : Instr} {own : State → View → Option Trap} {pre : State → View → Option Did}
    {effect : State → View → Did} {lat d : Nat} {f g : State → View → Nat → Flagged Nat}
    (hx : ∀ s, exec i s = issuePre i s own pre effect) (ho : ∀ s v, own s v = none) (hp : ∀ s v, pre s v = none)
    (he : ∀ s v, effect s v = .done (writeFloat s v lat d (g s v)) .next 0) (hfg : ∀ s v l, f s v l = g s v l) :
    Safety.perFloat i lat d f := by
  intro s v h
  have e : f s v = g s v := funext (hfg s v)
  have := h.float (hx s) (ho s v) (hp s v) (he s v)
  simpa only [e] using this

end Sys2Proof
end

