-- ==== Sys2Proof/Tests/Slice0.lean ====
section
/-! SUPPORT. Tests of the model: words the spec prints, terms that WellFormed refuses, states that meet the hypotheses of the statements, and
results worked out by hand from the rules. -/

namespace Sys2Proof.Tests

open Sys2Proof.Machine

set_option Elab.async false
set_option maxRecDepth 20000

/-! ## Words

Printed in the spec beside their assembly text (Tables 7.8, 10.1, 11.1; the listings of 08, 09, 10, 13, 14, 16, 18, 19), or put together by hand from
the encodings of 07, 08, 10 and 11. -/

/-- 16-bit forms: `li5 x1, 10`, `add16 x2, x1` (13). -/
theorem test_decode_short : decodeTableWord 16 0x2822 = some (.li5 10 1) ∧ decodeTableWord 16 0x0444 = some (.add16 1 2) := by decide

/-- Control: `nop 2`, `exit`, `br -6`, `brp p1, 1`, `brp.f p2`, `brx x4`, `rfm 6`, `rjn 1`, `trl! 0b010`. -/
theorem test_decode_control :
    decodeTableWord 32 0x00020001 = some (.nop 2 0) ∧ decodeTableWord 32 0x00000103 = some .exit ∧
    decodeTableWord 32 0xFFFFFA07 = some (.br 0xFFFFFA) ∧ decodeTableWord 32 0x0006190B = some (.brp 6 1 1) ∧
    decodeTableWord 32 0x0006020B = some (.brpF 6 0 2) ∧ decodeTableWord 32 0x00020013 = some (.brx 4) ∧
    decodeTableWord 32 0x00060617 = some (.rfm 6 6) ∧ decodeTableWord 32 0x00010503 = some (.rjn 1) ∧
    decodeTableWord 32 0x00020403 = some (.trl 2 1) := by decide

/-- Waits and barriers: `wait.any k19, k8, k11`, `bar.syn 1`. -/
theorem test_decode_waits :
    decodeTableWord 32 0x00B2131B = some (.waitAny 11 8 19) ∧ decodeTableWord 32 0x00000A1F = some (.barSyn 0 1) := by decide

/-- Records (`spawn k9`), special registers (`rdsr x10, TRAPCAUSE`, `wrsr TRAPMASK, x12`, `mode.rz`), traps (`trap 5`, `tret`). -/
theorem test_decode_system :
    decodeTableWord 32 0x04024021 = some (.spawn 9 0) ∧ decodeTableWord 32 0x05C00A25 = some (.rdsr 23 10 0) ∧
    decodeTableWord 32 0x45860025 = some (.wrsr 22 12 0) ∧ decodeTableWord 32 0x90000025 = some (.mode 1 0) ∧
    decodeTableWord 32 0x0005002B = some (.trap 5) ∧ decodeTableWord 32 0x0000012B = some .tret := by decide

/-- Uniform: `kli k2, 2, 2` with S, `kld k5, x3, 7`. -/
theorem test_decode_uniform :
    decodeTableWord 32 0x00028233 = some (.kli 2 2 2 1) ∧ decodeTableWord 32 0x3CE2832D = some (.kldLane 7 5 3 0) := by decide

/-- Lane integer: `add x3, x1, x2`, `addi x5, x4, 16`, `srai x4, x4, 31`, `icmp.lt p1, x5, x2`, `icmp.ltn p2, x1, x2`, `lih x3, 0x4049`. -/
theorem test_decode_integer :
    decodeTableWord 32 0x00808341 = some (.add 2 1 3 0) ∧ decodeTableWord 32 0x04020549 = some (.addi 16 4 5 0) ∧
    decodeTableWord 32 0xA7C2044D = some (.srai 31 4 4 0) ∧ decodeTableWord 32 0x40828155 = some (.icmpLt 2 5 1 0) ∧
    decodeTableWord 32 0x80808255 = some (.icmpLtn 2 1 2 0) ∧ decodeTableWord 32 0x40498351 = some (.lih 0x4049 3 0) := by decide

/-- Float: `fcmp.ge p3, x4, x5`; packed: `hadd2 x7, x1, x2`; conversion: `cvt` of F32 to BF16 with `.sat`. -/
theorem test_decode_float :
    decodeTableWord 32 0xE1422B61 = some (.fcmp 5 4 5 3 0) ∧ decodeTableWord 32 0x00808769 = some (.hadd2 2 1 7 0) ∧
    decodeTableWord 32 0x3080896D = some (.cvt 3 0 2 1 9 0) := by decide

/-- Cross-lane: `lred.add.f32 x6, x1`, `shfl.down x7, x1, x2`. -/
theorem test_decode_cross_lane :
    decodeTableWord 32 0x00808689 = some (.lredAdd 2 1 6 0) ∧ decodeTableWord 32 0x40808781 = some (.shflDown 2 1 7 0) := by decide

/-- Memory: `st`, `atom.add.acq.dev x6, [x2:x3]`, `fence.sc.dev`, `pfi [x14:x15]`, `ownreg k3, k4`. -/
theorem test_decode_memory :
    decodeTableWord 32 0xE0818597 = some (.st 3 4 2 3 5 1) ∧ decodeTableWord 32 0x2201069D = some (.atomAdd 0 0 4 1 2 6 0) ∧
    decodeTableWord 32 0x000013A1 = some (.fenceSc 4 0) ∧ decodeTableWord 32 0x000700B5 = some (.pfi 14 0) ∧
    decodeTableWord 32 0x0040C0B9 = some (.ownreg 4 3 0) := by decide

/-- Tiles and engines: `tget tl4, k6/s2`, `tset tl1, k21`, `tdrn tl3, k5/s3`, `gth` with k1, k2, k3 in slot 1. -/
theorem test_decode_tiles :
    decodeTableWord 32 0x200604A5 = some (.tget 2 6 4 0) ∧ decodeTableWord 32 0x401501A5 = some (.tset 21 1 0) ∧
    decodeTableWord 32 0xB00503A5 = some (.tdrn 3 5 3 0) ∧ decodeTableWord 32 0x203081AD = some (.gth 1 3 2 1 0) := by decide

/-- Matrix: `omld om2, k6`, `mst` with k8 and k9 in slot 3, `mswp/s2`, `mswp.rel/s3`, `mdr!`, `rsum x8, tl2/s3`; lehr: `tmm` with n = 2 and G = 4. -/
theorem test_decode_matrix :
    decodeTableWord 32 0x000182C1 = some (.omld 6 2 0) ∧ decodeTableWord 32 0x300248C9 = some (.mst 3 0 0 9 8 0) ∧
    decodeTableWord 32 0x600000C5 = some (.mswp 2 0) ∧ decodeTableWord 32 0x740000C5 = some (.mswpRel 3 0) ∧
    decodeTableWord 32 0x300147CF = some (.mdr 3 0 0 5 7 1) ∧ decodeTableWord 32 0x181088DD = some (.rsum 3 2 0 8 0) ∧
    decodeTableWord 32 0x344288D5 = some (.tmm 3 1 4 10 8 0) := by decide

/-! ## Terms that have no encoding

One for each check of WellFormed, from the limits of R182, R180, R187, R189, R268, R275, R299 and Table 16.2. -/

theorem test_wf_refuses :
    wfErr .functionReady = some .noEncoding ∧ wfErr (.rjn 0) = some .rjnTag ∧ wfErr (.brx 3) = some .oddPair ∧
    wfErr (.ld 3 6 0 0 2 0) = some .oddQuad ∧ wfErr (.rfm 0 121) = some .live ∧ wfErr (.barArv 1025 0 0) = some .barCount ∧
    wfErr (.rdsr 57 0 0) = some .srReserved ∧ wfErr (.wrsr 0 0 0) = some .srReadOnly ∧ wfErr (.cvt 3 3 0 0 0 0) = some .cvtTypes ∧
    wfErr (.fcmp 0 0 8 0 0) = some .fcmpCond ∧ wfErr (.kcmp 6 0 0 0 0) = some .kcmpCond ∧ wfErr (.frnd 5 0 0 0) = some .frndMode ∧
    wfErr (.lredAdd 3 0 0 0) = some .redType ∧ wfErr (.ld 3 7 0 0 0 0) = some .size ∧ wfErr (.ld 0 4 0 0 120 0) = some .tmpSlot ∧
    wfErr (.fenceAcq 7 0) = some .scope ∧ wfErr (.cpy 0 0 0 61 0) = some .block ∧ wfErr (.rga 120 0 0) = some .rgaTmp ∧
    wfErr (.accz 0 3 57 0) = some .granules ∧ wfErr (.mld 0 3 1 0 0 0) = some .groups ∧ wfErr (.tmmRed 0 0 0 63 0 0) = some .redMaps ∧
    wfErr (.sbeg 1 4 5 0) = some .shadow ∧ wfErr (.rmax 0 64 1 0 0) = some .rowSource := by decide

/-! ## States for the witnesses

Each theorem `witness_<statement>` shows states and operands that meet the hypotheses of that statement, clause by clause. The clauses that turn on an
answer the model leaves free (Config: signatures, keys, page-table words, hashes, index lists of sealed bytes) have no concrete witness. -/

/-- The group that issues in these states. -/
abbrev w0 : Gid := .warp 0 0
abbrev e0 : Gid := .kindle 0 0

/-- One thread of one unit (unit 1 of launch 0) on core 0, issuing. -/
def one : State := { withThread State.reset with cur := some w0 }

/-- What a group sees; only used of groups that exist. -/
def seen (s : State) (g : Gid) : View :=
  match view s g with
  | some v => v
  | none => ⟨g, 0, 0, 0, 0, false, [], 0, ⟨0, 0, [], 0, 0, [], .idle, [], []⟩, 0, 0⟩

def onRun (f : Run → Run) (s : State) : State := modRun s w0 f
def onWarp (f : Warp → Warp) (s : State) : State := modWarp s 0 0 f
def onCore (f : Core → Core) (s : State) : State := modCore s 0 f
def onUnit (f : UnitSt → UnitSt) (s : State) : State := modUnit s 1 f
def onLaunch (f : Launch → Launch) (s : State) : State := modLaunch s 0 f
def onFrame (f : Frame → Frame) : State → State := onLaunch fun l => { l with frame := l.frame.map f }
def withX (l r v : Nat) (s : State) : State := landWrite s (seen s w0) (.x r l (BitVec.ofNat 32 v))
def withK (k v : Nat) : State → State := onUnit fun u => { u with k := tabPut k (BitVec.ofNat 64 v) u.k }
def about (x : Subject) (s : State) : State := { s with subj := x }
def inState (st : Status) : State → State := onRun fun r => { r with status := st }

/-- Two threads, in lanes 0 and 1. -/
def two : State :=
  onWarp (fun w => modLane w 1 fun _ => ⟨.running, some (Thread.first 1), []⟩) (onUnit (fun u => { u with nthreads := 2, left := 2 })
    (onLaunch (fun l => { l with threadsLeft := 2 }) one))

/-- Three threads, in lanes 0 to 2. -/
def three : State :=
  onWarp (fun w => modLane w 2 fun _ => ⟨.running, some (Thread.first 2), []⟩) (onUnit (fun u => { u with nthreads := 3, left := 3 })
    (onLaunch (fun l => { l with threadsLeft := 3 }) two))

/-- The thread of `one`, ejected under tag 1 into kindling slot 0 of cluster 0. -/
def ejected : Ejected :=
  { core := 0, wslot := 0, serial := 2, unit := 1, lane := 0, tag := 1, live := 1, thr := Thread.first 0, regs := [], written := [], poison := [], tmps := [], bsize := 128,
    pc := 0x10000000, stackAddr := 120 * 128, run := Run.fresh 0, t0 := 0, lost := 0 }

def left : State := onWarp (fun w => { modLane w 0 (fun _ => ⟨.ejected, none, []⟩) with ejs := [⟨1, 1⟩] }) one

/-- It issues there. -/
def away : State := { left with cur := some e0, pools := [(0, { Pool.reset with slots := [(0, ejected)] })] }

/-- `one` with 2 MiB of device memory at 0x2000_0000 that it may read, write and execute, and every stack ready. -/
def mapped (s : State) : State :=
  onCore (fun k => { k with tlb := [⟨0, 0x20000000, 0x200000, 0x40000000, false, 0, 0, true, true, true, 0⟩] }) { s with fnrdyLo := BitVec.ofNat 64 (4095 * 2 ^ 48) }

/-- A store of a committed region of the thread is still to issue, to four bytes at an address. -/
def behind (va : Nat) (s : State) : State :=
  { s with toStore := [⟨5, w0, (seen s w0).serial, 1, 0, 0x10000000, ⟨0x25, [(0, va, [1, 2, 3, 4])], []⟩, [], []⟩] }

def issuesB (i : Instr) (s : State) (g : Gid) : Bool :=
  let v := seen s g
  decide (s.cur = some v.gid) && decide (view s v.gid = some v) && (!Safety.underFault s v.gid) && (wfErr i).isNone &&
  (!Safety.warpHeld i || !v.kc) && (v.run.count != 23 || endsRun i) && (!v.kc || !kunavMajor (majorOf i)) &&
  (!specBroken i (regionOf s v.gid)) && (!lehrBroken i s v) && (!matrixMajor (majorOf i) || decide (v.act = vlanes s v)) &&
  (!beyondBlock i v.bsize) && (!matrixMajor (majorOf i) || (decide ((coreOf s v.core).firstUse = none) &&
    decide ((coreOf s v.core).accown = some (unitGen s v.unit)))) &&
  (!slotFull i v) && decide (poisoned s v (sourceRegs i) v.act = [])

/-- The hypothesis of most statements, by evaluation. -/
theorem issues_of {i : Instr} {s : State} {g : Gid} (h : issuesB i s g = true) : Safety.Issues i s (seen s g) := by
  simp only [issuesB, Bool.and_eq_true, Bool.or_eq_true, Bool.not_eq_true', decide_eq_true_eq, bne_iff_ne, Option.isNone_iff_eq_none] at h
  obtain ⟨⟨⟨⟨⟨⟨⟨⟨⟨⟨⟨⟨⟨h1, h2⟩, h3⟩, h4⟩, h5⟩, h6⟩, h7⟩, h8⟩, h9⟩, h10⟩, h11⟩, h12⟩, h13⟩, h14⟩ := h
  exact ⟨h1, h2, h3, h4, fun h => by simp_all, fun h => by simp_all, fun h => by simp_all, h8, h9, fun h => by simp_all, h11, fun h => by simp_all,
    h13, h14⟩

/-- Every instruction of a list issues. -/
theorem all_issue {l : List Instr} {s : State} {g : Gid} (h : (l.all fun i => issuesB i s g) = true) : ∀ i ∈ l, Safety.Issues i s (seen s g) :=
  fun i m => issues_of (List.all_eq_true.mp h i m)

def reachesB (s : State) (v : View) (accs : Accs) (r w : Bool) : Bool :=
  accs.all fun x => (piecesOf s v x.2.1 x.2.2 r w).all fun p =>
    match p.2.2 with
    | .aper .. => true
    | .mem .. => true
    | _ => false

theorem reaches_of {s : State} {v : View} {accs : Accs} {r w : Bool} (h : reachesB s v accs r w = true) : Safety.reaches s v accs r w := by
  intro x hx p hp
  have := List.all_eq_true.mp (List.all_eq_true.mp h x hx) p hp
  split at this
  · exact .inl ⟨_, _, _, ‹_›⟩
  · exact .inr ⟨_, _, _, ‹_›⟩
  · contradiction

theorem owns_plain {s : State} {v : View} {accs : Accs} {r : Bool} (h : isDeterm s v.unit = false) : Safety.ownsAll s v accs r :=
  fun k => absurd k (by simp [h])

/-! ## Results

Each expected value stands in the spec or is worked out by hand from the rule named. -/

/-- What the issue of an instruction on a thread with no write pending leaves, with the cycle from which it is usable. -/
def leaves (i : Instr) (s : State) : List (Nat × PendWrite) :=
  match exec i s with
  | .next t => (seen t w0).run.pend.map fun x => (x.due, x.w)
  | _ => []

/-- One thread with words in x1 and x2. -/
def given (a b : Nat) : State := withX 0 2 b (withX 0 1 a one)

/-- 06, the example of F4: scale word 0x5FF and XV 0x7F80. -/
theorem test_f4_decode : Machine.Num.cmp (f4Decode 1 511 0x7F80 0b0101) (.fin false 3 (-1)) = 0 := by decide
theorem test_f4_codes : Machine.Num.cmp (f4Decode 1 511 0x7F80 0b1101) (.fin true 3 (-1)) = 0 ∧ f4Decode 1 511 0x7F80 0b1000 = .inf false ∧
    (f4Encode 1 512 0 0 (.fin false 5 (-1))).map (·.1) = some 0b0100 ∧ (f4Encode 1 512 0 0 (.fin false 5 0)).map (·.1) = some 0b0110 := by decide

/-- 06, Table 6.7: one K row under each contract. -/
theorem test_row_contracts :
    let e : List Machine.Num := [.fin false 1 0, .fin false 1 (-12), .fin false 1 (-20)] ++ List.replicate 29 (.fin false 0 0)
    (rowUpdate 1 0 e e).1 = 0x3F800000 ∧ (rowUpdate 2 0 e e).1 = 0x3F800000 ∧ (rowUpdate 3 0 e e).1 = 0x3F800001 ∧
    (rowUpdate 4 0 e e).1 = 0x3F800001 := by decide

/-- 09, Table 9.6, lane 0: `cvt.e4m3.f32.nan` of 2^24 (latency 5), and the `fadd` of the sum that `lred` left. -/
theorem test_cvt_overflow : leaves (.cvt 3 0 2 1 9 0) (given 0x4B800000 0) = [(5, .x 9 0 0x7F), (5, .flags 0 0x15)] := by decide
theorem test_fadd_tie : leaves (.fadd 2 1 10 0) (given 0x4B800001 0x3F800000) = [(5, .x 10 0 0x4B800002), (5, .flags 0 0x10)] := by decide

/-- R164, contract 3, as 09 works it out: 2^24 + 1 + 1 + 1 in pairs. -/
theorem test_pairwise_sum : (rowSum 3 [0x4B800000, 0x3F800000, 0x3F800000, 0x3F800000]).1 = 0x4B800001 := by decide

/-- R243: sums wrap; a shift by 32 or more gives 0 or the sign; `mulh` is signed, `mulhn` is not. -/
theorem test_add_wraps : leaves (.add 2 1 3 0) (given 0xFFFFFFFF 2) = [(4, .x 3 0 1)] := by decide
theorem test_shift_past_width : leaves (.shl 2 1 3 0) (given 1 32) = [(4, .x 3 0 0)] ∧ leaves (.sra 2 1 3 0) (given 0x80000000 33) = [(4, .x 3 0 0xFFFFFFFF)] := by decide
theorem test_mulh : leaves (.mulh 2 1 3 0) (given 0xFFFFFFFF 2) = [(4, .x 3 0 0xFFFFFFFF)] ∧ leaves (.mulhn 2 1 3 0) (given 0xFFFFFFFF 2) = [(4, .x 3 0 1)] := by decide

/-- R244: position 4, length 8, sign: 0xF8 of 0x00000F80 is 0xFFFFFFF8. -/
theorem test_bfe_sign : leaves (.bfe 2 1 3 0) (given 0x00000F80 0x00010804) = [(4, .x 3 0 0xFFFFFFF8)] := by decide

/-- R245: the carry goes into the high word, and xb is signed. -/
theorem test_lea_carry : leaves (.lea 4 2 6 0) (withX 0 4 1 (given 0 0xFFFFFFFF)) = [(4, .x 6 0 0), (4, .x 7 0 1)] := by decide

/-- R248: -1 is below 1 signed and above it unsigned. -/
theorem test_compare : leaves (.icmpLt 2 1 5 0) (given 0xFFFFFFFF 1) = [(4, .p 5 0 true)] ∧ leaves (.icmpLtn 2 1 5 0) (given 0xFFFFFFFF 1) = [(4, .p 5 0 false)] := by decide

/-- R250: 0 × ∞ and ∞ − ∞ are the canonical NaN and set NV; 1/0 sets DZ (R261). -/
theorem test_invalid : leaves (.fmul 2 1 3 0) (given 0 0x7F800000) = [(5, .x 3 0 0x7FC00000), (5, .flags 0 1)] ∧
    leaves (.fsub 2 1 3 0) (given 0x7F800000 0x7F800000) = [(5, .x 3 0 0x7FC00000), (5, .flags 0 1)] := by decide

/-- R155: 1 + 2^-24 is a tie to the even 1.0 to nearest, and rounds up toward +∞. -/
theorem test_rounding_mode : leaves (.fadd 2 1 3 0) (given 0x3F800000 0x33800000) = [(5, .x 3 0 0x3F800000), (5, .flags 0 0x10)] ∧
    leaves (.fadd 2 1 3 0) (onWarp (fun w => modLane w 0 fun l => { l with thr := l.thr.map fun t => { t with rm := 2 } }) (given 0x3F800000 0x33800000)) =
      [(5, .x 3 0 0x3F800001), (5, .flags 0 0x10)] := by decide

/-- R173, R183: `li5 x1, 10`, placed and fetched. -/
theorem test_step_runs_placed_word : (match step (State.reset.withFetchWord 16 0x2822) with
    | .next t => (seen t w0).run.pend.map fun x => (x.due - x.iss, x.w)
    | _ => []) = [(4, .x 1 0 10)] := by decide

/-! ## Lane instructions -/

/-- Highest registers, lowest and highest immediates, both markers; on a warp and on a kindling core. -/
theorem witness_IntegerResults :
    (∀ i ∈ ([.add 119 0 127 1, .sub 0 119 0 0, .and 1 2 3 0, .or 1 2 3 0, .xor 1 2 3 0, .andn 1 2 3 0, .min 1 2 3 0, .max 1 2 3 0, .shl 1 2 3 0, .srl 1 2 3 0,
      .sra 1 2 3 0, .rol 1 2 3 0, .mul 1 2 3 0, .mulh 1 2 3 0, .mulhn 1 2 3 0, .add16 31 0, .sub16 1 2, .mul16 1 2, .and16 1 2, .or16 1 2, .xor16 1 2, .abs 1 2 0,
      .addi 512 1 2 0, .andi 127 1 2 0, .ori 0 1 2 0, .xori 1 1 2 0, .shli 31 1 2 0, .srli 0 1 2 0, .srai 1 1 2 0, .li 0x8000 1 0, .lih 0xFFFF 1 0, .clz 1 2 0,
      .popc 1 2 0, .brev 1 2 0, .mov 31 0, .li5 16 31, .shl16 31 1, .srl16 0 1, .sra16 1 1, .sel 7 1 2 0, .lea 1 2 4 0] : List Instr), Safety.Issues i one (seen one w0)) ∧
    ∀ i ∈ ([.add 1 2 3 0, .sel 0 1 2 1] : List Instr), Safety.Issues i away (seen away e0) :=
  ⟨all_issue (by decide), all_issue (by decide)⟩

theorem witness_BitFunctions : Safety.Issues (.bfe 1 2 3 0) one (seen one w0) ∧ Safety.Issues (.bfi 1 2 3 0) one (seen one w0) :=
  ⟨issues_of (by decide), issues_of (by decide)⟩

theorem witness_PredicateResults : ∀ i ∈ ([.icmpEq 1 2 7 0, .icmpNe 1 2 0 0, .icmpLt 1 2 3 0, .icmpLe 1 2 3 0, .icmpLtn 1 2 3 0, .icmpLen 1 2 3 0, .pand 1 2 3 0,
    .por 1 2 3 0, .pxor 1 2 3 0, .pnot 1 2 0, .pmov 1 2 0] : List Instr), Safety.Issues i one (seen one w0) := all_issue (by decide)

theorem witness_FloatArithmeticResults : ∀ i ∈ ([.fadd 1 2 3 0, .fsub 1 2 3 0, .fmul 1 2 3 0, .fmin 1 2 3 0, .fmax 1 2 3 0, .ffma 1 2 3 0, .ffms 1 2 3 0, .fnma 1 2 3 0,
    .hadd2 1 2 3 0, .hmul2 1 2 3 0, .hfma2 1 2 3 0, .badd2 1 2 3 0, .bmul2 1 2 3 0, .bfma2 1 2 3 0, .fadd16 1 2, .fsub16 1 2, .fmul16 1 2, .fmin16 1 2, .fmax16 1 2] :
    List Instr), Safety.Issues i one (seen one w0) := all_issue (by decide)

/-- A NaN as an operand and as an addend whose product is valid. -/
theorem witness_NanResults :
    (f32.decode 0x7F800001).isNan = true ∧ (f32.decode 0xFFFFFFFF).isNan = true ∧ badMul (f32.input 0 0x3F800000).1 (f32.input 0 0).1 = false := by decide

/-- The smallest and the largest normal code. -/
theorem witness_RoundingOfExactValues : ∀ w ∈ [0x00800000, 0xFF7FFFFF], w < 2 ^ 32 ∧ 1 ≤ w / 2 ^ 23 % 2 ^ 8 ∧ w / 2 ^ 23 % 2 ^ 8 ≤ 254 := by decide

/-- A `cvt` of 1.0 and one that overflows FP16 under `.trap`, with CVTOVF enabled as at reset. -/
theorem witness_FloatUnaryAndConversionResults :
    (∀ i ∈ ([.fabs 1 2 0, .fneg 1 2 0, .frnd 4 1 2 0, .fcls 1 2 0, .fexp 1 2 0, .fscl 1 2 3 0, .fcmp 1 2 7 0 0, .cvt 3 0 2 1 9 0] : List Instr),
      Safety.Issues i one (seen one w0)) ∧
    (let s := withX 0 1 0x3F800000 one; issuesB (.cvt 1 0 3 1 9 0) s w0 = true ∧ cvtOver s (seen s w0) 1 0 3 1 = []) ∧
    let s := withX 0 1 0x7F000000 one
    issuesB (.cvt 1 0 3 1 9 0) s w0 = true ∧ cvtOver s (seen s w0) 1 0 3 1 ≠ [] ∧ ∃ l ∈ (seen s w0).act, trapEnabled s (seen s w0) 0 l = true :=
  ⟨all_issue (by decide), by decide, by decide⟩

/-- The pipe free, and taken until the next cycle. -/
theorem witness_SpecialFunctionResults :
    (∀ i ∈ ([.exp2 1 2 0, .log2 1 2 0, .rcp 1 2 0, .rsqrt 1 2 0, .sqrt 1 2 0, .tanh 1 2 0, .lgs 1 2 0, .gactLgs 1 2 3 0, .gactTanh 1 2 3 0, .gactAlgs 1 2 3 0] :
      List Instr), Safety.Issues i one (seen one w0)) ∧
    (coreOf one 0).quads.length = 4 ∧ sfuFree one (seen one w0) ≤ one.now ∧
    let s := onCore (fun k => { k with quads := k.quads.map fun q => { q with sfuFree := 1 } }) one
    issuesB (.exp2 1 2 0) s w0 = true ∧ s.now < sfuFree s (seen s w0) :=
  ⟨all_issue (by decide), by decide, by decide, by decide⟩

/-- Sound sources, and a lane whose source word is poisoned. -/
theorem witness_LaneMovesVotesAndReductions :
    (∀ i ∈ ([.shflIdx 1 2 3 0, .shflUp 1 2 3 0, .shflDown 1 2 3 0, .shflXor 1 2 3 0, .lbc 31 2 3 0, .voteAny 0 3 0, .voteAll 7 3 0, .voteBal 1 3 0, .voteCnt 1 3 0,
      .voteMatch 2 3 0, .lredAdd 0 2 3 0, .lredMax 1 2 3 0, .lredMin 2 2 3 0, .lscanAddInc 0 2 3 0, .lscanAddExc 2 2 3 0] : List Instr),
      Safety.Issues i two (seen two w0)) ∧
    (∀ l ∈ (seen two w0).act, poisoned two (seen two w0) [(2, 1)] [l] = []) ∧
    let s := onCore (fun k => { k with storePoison := [regAddr 0 2 5] }) two
    issuesB (.lbc 5 2 3 0) s w0 = true ∧ ∃ l ∈ (seen s w0).act, poisoned s (seen s w0) [(2, 1)] [5] ≠ [] ∧ l = 0 :=
  ⟨all_issue (by decide), by decide, by decide⟩

/-- Both kinds of kb; a sound and a poisoned word for `kld`. -/
theorem witness_UniformResults :
    (∀ i ∈ ([.kadd 0 63 0 1 0, .kadd 1 63 0 1 0, .ksub 1 0 0 1 0, .kmov 1 2 0, .kmovImm 63 2 0, .kshl 1 63 1 2 0, .kand 0 1 2 3 0, .kor 0 1 2 3 0, .kcmp 0 1 2 3 0,
      .kcmp 5 1 2 3 0, .kli 0xFFFF 3 1 0, .movk 1 2 0, .movkH 1 2 0, .kld 1 2 0, .kldLane 31 1 2 0] : List Instr), Safety.Issues i one (seen one w0)) ∧
    poisoned one (seen one w0) [(2, 1)] [0] = [] ∧
    let s := onCore (fun k => { k with storePoison := [regAddr 0 2 31] }) one
    issuesB (.kldLane 31 1 2 0) s w0 = true ∧ poisoned s (seen s w0) [(2, 1)] [31] ≠ [] :=
  ⟨all_issue (by decide), by decide, by decide⟩

theorem witness_SpecialRegisterResults : ∀ i ∈ ([.rdsr 0 1 0, .rdsr 56 1 0, .wrsr 13 1 0, .wrsr 27 1 0, .mode 3 0] : List Instr),
    Safety.Issues i one (seen one w0) := all_issue (by decide)

/-! ## Control

From here on `issuesB i s g = true` stands for `Safety.Issues i s (seen s g)`, which `issues_of` gives. -/

/-- A forwarding entry of the partition for one page of 4 KiB. -/
def forwarding (s : State) : State := modFe s 0 fun f => { f with fwd := [(3, ⟨true, 1, 0x10001, 0x20000⟩)] }

/-- The group is in view, its quadrant and its kindling core are there; no entry, and the first and the last byte of one. -/
theorem witness_AdvanceAndTargets :
    view one w0 = some (seen one w0) ∧ (coreOf one 0).quads.length = 4 ∧ view away e0 = some (seen away e0) ∧ (feOf one 0).fwd = [] ∧
    (∀ off ∈ [0x800, 0xFFF], ∀ e ∈ (feOf (forwarding one) 0).fwd, let a := (seen one w0).pc + 2 * BitVec.signExtend 48 (BitVec.ofNat 24 off)
      e.2.active = true ∧ e.2.old * 4096 ≤ a.toNat ∧ a.toNat < (e.2.old + e.2.len) * 4096) ∧
    ∀ off ∈ [0x7FF, 0x1000], ∀ e ∈ (feOf (forwarding one) 0).fwd, let a := (seen one w0).pc + 2 * BitVec.signExtend 48 (BitVec.ofNat 24 off)
      ¬ (e.2.old * 4096 ≤ a.toNat ∧ a.toNat < (e.2.old + e.2.len) * 4096) := by decide

def entry (done : Bool) : Split := ⟨3, 4, 0x10000000, 0, 0, done, none, false, false⟩
def spinning (n demc : Nat) (done : Bool) (s : State) : State := onWarp (fun w => { w with spin := n, demc := demc, splits := [entry done] }) s
/-- Predicate 1 set in lane 1 only. -/
def apart (s : State) : State := landWrite s (seen s w0) (.p 1 1 true)
def crowded (s : State) : State := { s with pools := [(0, { Pool.reset with slots := (List.range 64).map fun k => (k, ejected) })] }
def staged (s : State) : State := onCore (fun k => { k with staging := List.replicate 128 ⟨1, 0, ⟨Thread.first 0, [], [], 0, []⟩⟩ }) s

/-- Forward and backward; the spin count at 0, 62 and 63; a done and a runnable entry; DEMC 31 with SPIN on and off; every row of Table 2.2. -/
theorem witness_Branches :
    (issuesB (.br 0) one w0 = true ∧ issuesB (.br 0xFFFFFF) one w0 = true ∧ issuesB (.br 0x800000) away e0 = true) ∧
    ((warpOf one 0 0).map (·.splits) = some [] ∧ (∀ n ∈ [62, 63], issuesB (.br 0x800000) (spinning n 0 false one) w0 = true) ∧
      issuesB (.br 0x800000) (spinning 63 0 true one) w0 = true) ∧
    (let s := modThr (spinning 63 31 false one) w0 0 fun t => { t with tmask := 7 }
     issuesB (.br 0x800000) s w0 = true ∧ ∃ l ∈ (seen s w0).act, trapEnabled s (seen s w0) 2 l = true) ∧
    (let s := spinning 63 31 false one
     issuesB (.br 0x800000) s w0 = true ∧ ¬ ∃ l ∈ (seen s w0).act, trapEnabled s (seen s w0) 2 l = true) ∧
    (let s := apart two
     let v := seen s w0
     issuesB (.brp 0 1 1) s w0 = true ∧ (v.act.filter fun l => readP s v l 1 == true) = [1] ∧ (v.act.filter fun l => readP s v l 1 != true) = [0] ∧
       (warpOf s 0 0).map (fun x => (decide (1 ≤ x.ejt), hasOpen x 1, x.spec.isNone)) = some (true, false, true) ∧
      1 ≤ (freeKindling s 0).length ∧ (freeKindling (crowded s) 0).length = 0 ∧ isDeterm s 1 = false ∧
      isDeterm (onFrame (fun f => { f with fflags := 1 }) s) 1 = true) ∧
    (let s := onWarp (fun w => { w with splits := List.replicate 3 (entry false) }) (apart two)
     let f := onWarp (fun w => { w with splits := List.replicate 4 (entry false) }) (apart two)
     issuesB (.brp 0 0 1) s w0 = true ∧ issuesB (.brp 0 0 1) f w0 = true ∧ stagingRoom f 0 2 = true ∧ stagingRoom (staged f) 0 2 = false ∧
       issuesB (.brp 0 0 1) (staged f) w0 = true) ∧
    (let at_ (n demc : Nat) (done : Bool) : State :=
       modThr (spinning n demc done (landWrite (apart three) (seen three w0) (.p 1 2 true))) w0 0 fun t => { t with tmask := 7 }
     (∀ n ∈ [0, 62, 63], issuesB (.brp 0x8000 1 1) (at_ n 0 false) w0 = true) ∧ issuesB (.brp 0x8000 1 1) (at_ 63 0 true) w0 = true ∧
     let s := at_ 63 31 false
     let v := seen s w0
     issuesB (.brp 0x8000 1 1) s w0 = true ∧ (v.act.filter fun l => readP s v l 1 == true) = [1, 2] ∧ (v.act.filter fun l => readP s v l 1 != true) = [0] ∧
       targetOf s v (0x8000 : BitVec 16) ≠ v.pc + 4 ∧ (∃ l ∈ v.act, trapEnabled s v 2 l = true)) ∧
    (let v := seen one w0
     issuesB (.brpF 0x8000 1 0) one w0 = true ∧ (v.act.filter fun l => readP one v l 0 == false) = [0] ∧ (v.act.filter fun l => readP one v l 0 == true) = []) ∧
    issuesB (.brp 1 15 7) away e0 = true ∧ (launchOf one 0).map (fun x => (x.capt, x.rply)) = some (false, false) := by decide

/-- Lanes to eject with room for them; `rjn` on a kindling core, with an entry of its tag done and not done, with threads away and without. -/
theorem witness_EjectionAndRejoin :
    (view two w0 = some (seen two w0) ∧ [0, 1].Nodup ∧ (∀ l ∈ [0, 1], (thrOf two w0 l).isSome = true) ∧ 2 ≤ (freeKindling two 0).length) ∧
    (issuesB (.rjn 1) away e0 = true ∧ releaseWaits away (seen away e0) = false) ∧
    (let s := { away with toStore := [⟨5, e0, 2, 1, 0, 0x10000000, ⟨0x25, [(0, 0, [1])], []⟩, [], []⟩] }
     issuesB (.rjn 1) s e0 = true ∧ releaseWaits s (seen s e0) = true) ∧
    (∀ d ∈ [true, false], issuesB (.rjn 3) (onWarp (fun w => { w with splits := [entry d] }) one) w0 = true) ∧
    (issuesB (.rjn 1) one w0 = true ∧ (warpOf one 0 0).map (fun x => (x.splits, hasOpen x 1)) = some ([], false)) ∧
    let s := onWarp (fun w => { w with ejs := [⟨1, 2⟩] }) one
    issuesB (.rjn 1) s w0 = true ∧ (warpOf s 0 0).map (fun x => hasOpen x 1) = some true := by decide

/-- Frames on the call stack: depth 3 of 3, a return address. -/
def framed (d pc : Nat) (s : State) : State :=
  onCore (fun k => { k with store := (k.store.write (regAddr 0 120 0) (bytesOf 4 d)).write (regAddr 0 (120 + 2 * d - 1) 0) (bytesOf 4 pc) }) s

/-- Room and none, even and odd targets; a full and an empty stack; two lanes with different targets and no room in staging. -/
theorem witness_CallsAndReturns :
    (issuesB (.call 4) one w0 = true ∧ stackCap one (seen one w0) = 3 ∧ depthOf one (seen one w0) 0 = 0) ∧
    (let s := framed 3 0x10000040 one
     issuesB (.call 4) s w0 = true ∧ issuesB (.callx 2) s w0 = true ∧ depthOf s (seen s w0) 0 = 3 ∧ issuesB .ret s w0 = true ∧ stackWord s (seen s w0) 0 5 = 0x10000040) ∧
    (issuesB .ret one w0 = true ∧ issuesB (.callx 2) one w0 = true ∧ issuesB (.brx 118) one w0 = true ∧ readX2 one (seen one w0) 0 118 % 2 = 0 ∧
      stagingRoom one 0 0 = true) ∧
    (let s := withX 0 2 0x10000001 one
     issuesB (.brx 2) s w0 = true ∧ issuesB (.callx 2) s w0 = true ∧ readX2 s (seen s w0) 0 2 % 2 = 1) ∧
    let s := staged (withX 1 2 0x10000040 two)
    issuesB (.brx 2) s w0 = true ∧ issuesB (.callx 2) s w0 = true ∧
      (divergent ((seen s w0).act.map fun l => (l, BitVec.ofNat 48 (readX2 s (seen s w0) l 2)))).length = 1 ∧ stagingRoom s 0 1 = false := by decide

/-- Staging with and without room; legal condition words. -/
theorem witness_MarkersPark :
    (∀ i ∈ ([.nop 15 1, .nop 0 0, .trl 7 1, .trl 0 0, .exit, .yield, .rfm 6 120, .waitAny 1 2 3, .waitAll 1 2 3] : List Instr), issuesB i one w0 = true) ∧
    stagingRoom one 0 1 = true ∧ issuesB (.rfm 6 0) (staged one) w0 = true ∧ stagingRoom (staged one) 0 1 = false ∧
    ∀ i < 4, condTrap one (seen one w0) ((readK one 1 2).toNat / 2 ^ (16 * i) % 2 ^ 16) = none := by decide

def barred (b : Bar) : State → State := onUnit fun u => { u with bars := [(5, b)] }

/-- Not bound and bound, legal and not, all threads and a count; 512 barriers bound; the last arrival and one before it. -/
theorem witness_BarrierInstructions :
    (issuesB (.barSyn 0 5) two w0 = true ∧ (barOf two 1 5).bound = false ∧ boundOn two 0 < 512 ∧ (unitOf two 1).map (fun u => (u.left, u.nthreads)) = some (2, 2) ∧
      releaseWaits two (seen two w0) = false ∧ releaseWaits (behind 0 two) (seen two w0) = true ∧ issuesB (.barArv 0 5 0) (behind 0 two) w0 = true) ∧
    (let s := onUnit (fun u => { u with nthreads := 3, left := 3 }) two
     issuesB (.barSyn 0 5) s w0 = true ∧ (barOf s 1 5).arr + (seen s w0).act.length < 3) ∧
    (let s := barred ⟨0, 2, true, true, false, 7⟩ two
     issuesB (.barArv 2 5 0) s w0 = true ∧ (barOf s 1 5).bound = true ∧ issuesB (.barSyn 1 5) s w0 = true ∧ (1 : BitVec 12).toNat ≠ (barOf s 1 5).exp ∧
       issuesB (.barWt 2 5) s w0 = true ∧ issuesB (.barSyn 0 5) s w0 = true ∧ (barOf s 1 5).cnt0 = false) ∧
    (let s := barred ⟨1, 2, true, true, true, 7⟩ two
     (barOf s 1 5).exp ≤ (barOf s 1 5).arr + 1 ∧ clocksOn s 1 = false) ∧
    let s := onUnit (fun u => { u with bars := (List.range 512).map fun b => (b, ⟨0, 2, true, true, true, 0⟩) }) two
    issuesB (.barArv 0 511 0) s w0 = true ∧ boundOn s 0 = 512 ∧ (unitOf s 1).isSome = true := by decide

/-- A barrier of the unit; a group that waits for its phase and for another; `gbar` with and without its flag. -/
theorem witness_BarrierPhases :
    (let s := barred ⟨1, 2, true, true, true, 7⟩ two
     (unitOf s 1).map (fun x => tabGet 5 x.bars) = some (some ⟨1, 2, true, true, true, 7⟩)) ∧
    (let s := inState (.barrier 5 7) one
     view s w0 = some (seen s w0) ∧ (seen s w0).run.status = .barrier 5 7 ∧ (warpOf s 0 0).map (·.splits) = some []) ∧
    issuesB .gbar one w0 = true ∧ (unitFrame one 1).fflags.getLsbD 1 = false ∧
    (launchOf one 0).map (fun x => (x.garr, x.threadsLeft, clocksOn one 1)) = some (0, 1, false) ∧
    let s := onLaunch (fun l => { l with threadsLeft := 2 }) (onFrame (fun f => { f with fflags := 2 }) one)
    issuesB .gbar s w0 = true ∧ (unitFrame s 1).fflags.getLsbD 1 = true ∧ (launchOf s 0).map (fun x => (x.garr, x.threadsLeft)) = some (0, 2) ∧
      clocksOn s 1 = false ∧ releaseWaits s (seen s w0) = false ∧ issuesB .gbar (behind 0 s) w0 = true ∧ releaseWaits (behind 0 s) (seen s w0) = true := by decide

/-! ## Traps -/

def handled (s : State) : State := onFrame (fun f => { f with traph := 0x10000100 }) s
def inHandler (s : State) : State := modThr (handled s) w0 0 fun t => { t with inHandler := true, ret := 0x10000020, cause := 1 }

/-- A thread in its handler with an even saved address, and one that is not. -/
theorem witness_SoftwareTrapsAndReturn :
    (∀ i ∈ ([.trap 5, .brk 0xFFFF, .halt, .tret] : List Instr), issuesB i one w0 = true) ∧
    (∃ l ∈ (seen one w0).act, ((thrOf one w0 l).map (·.inHandler)).getD false = false) ∧
    let s := inHandler one
    issuesB .tret s w0 = true ∧ (thrOf s w0 0).map (fun t => (t.inHandler, t.ret.toNat % 2)) = some (true, 0) ∧ stagingRoom s 0 0 = true := by decide

/-- With a handler and cause 0x2F, without one, with cause 0x30, and in the handler. -/
theorem witness_TrapsAreRaised :
    (view one w0 = some (seen one w0) ∧ (unitOf one 1).isSome = true ∧ (launchOf one 0).map (·.fatal) = some none ∧ (unitFrame one 1).traph = 0 ∧
      ((seen one w0).act.filter fun x => ((thrOf one w0 x).map (·.inHandler)).getD false) = []) ∧
    ((unitFrame (handled one) 1).traph ≠ 0 ∧ (precise (seen one w0) 0x2F 0).word % 256 < 0x30 ∧ 0x30 ≤ (precise (seen one w0) 0x30 0).word % 256) ∧
    let s := inHandler one
    ((seen s w0).act.filter fun x => ((thrOf s w0 x).map (·.inHandler)).getD false) = [0] ∧ (thrOf s w0 0).isSome = true := by decide

theorem witness_HandlerEntry :
    view two w0 = some (seen two w0) ∧ (seen two w0).act.Nodup ∧ (warpOf two 0 0).map (·.spec) = some none ∧ (thrOf two w0 1).isSome = true ∧
    thrOf two w0 2 = none ∧ 2 ∉ (seen two w0).act := by decide

/-- Registers 0 and 119 of lanes 0 and 31, on a warp and on a kindling core; due now and later. -/
theorem witness_ResultsLand :
    (view one w0 = some (seen one w0) ∧ (coreOf one 0).store.wf = true ∧ (119, 31) ≠ (119, 0) ∧ (seen one w0).kc = false) ∧
    (view away e0 = some (seen away e0) ∧ (ejOf away 0 0).map (fun e => (e.lane, e.regs)) = some (0, []) ∧ (1, 0) ≠ (0, 0)) ∧ one.now < one.now + 1 := by decide

/-! ## Memory -/

/-- One thread with device memory at 0x2000_0000, its scratchpad at 0xB_8000, and x1 = 0, k1 and k2 at a line of each. -/
def placed : State := withK 1 0x20000000 (withK 2 0xB8000 (mapped one))

/-- Aperture and device memory, bytes and 128 bits, the end of the page of 64 KiB; a map address that is a multiple of 16 and one that is not. -/
theorem witness_LoadsIssue :
    let v := seen placed w0
    (∀ i ∈ ([.ld 0 0 1 4 5 0, .ld 3 6 2 4 120 1, .ldk 3 5 1 4 7 0, .omld 1 15 0] : List Instr), issuesB i placed w0 = true) ∧
    Safety.addr placed v 1 4 0 = 0x20000000 ∧ reachesB placed v [(0, 0x20000000, 1)] true false = true ∧ reachesB placed v [(0, 0xB8000, 16)] true false = true ∧
    reachesB placed v [(0, 0x2000FFFF, 16)] true false = true ∧ (readK placed 1 1).toNat % 16 = 0 ∧
    behindStore placed v [(0, 0x20000000, 1)] false = false ∧ issuesB (.ld 0 0 1 4 5 0) (behind 0x20000000 placed) w0 = true ∧
    behindStore (behind 0x20000000 placed) v [(0, 0x20000000, 1)] false = true ∧
    issuesB (.omld 3 0 0) (withK 3 0x20000008 placed) w0 = true ∧ (readK (withK 3 0x20000008 placed) 1 3).toNat % 16 ≠ 0 := by decide

/-- An access across two pages of 64 KiB and one in the aperture, by the point of coherence. -/
theorem witness_LoadsReadMemory :
    view placed w0 = some (seen placed w0) ∧ reachesB placed (seen placed w0) [(0, 0x2000FFFE, 4), (0, 0xB8000, 8)] false false = true ∧
    (piecesOf placed (seen placed w0) 0x2000FFFE 4 false false).length = 2 ∧ (launchOf placed 0).map (fun x => (x.capt, x.rply)) = some (false, false) ∧
    clocksOn placed 1 = false ∧ placed.syncLines = [] ∧ placed.memPoison = [] ∧ regionOf placed w0 = none ∧
    ∀ f ∈ fragsOf placed (seen placed w0) [(0, 0x2000FFFE, 4), (0, 0xB8000, 8)], placeHeld placed f.place = false := by decide

/-- ACCESS outside what the launch holds, PERM without write permission, PAGE where a walk found nothing; two lanes of which one meets it. -/
theorem witness_AccessTraps :
    let causes (s : State) (va : Nat) (w : Bool) : List Piece := (piecesOf s (seen s w0) va 4 true w).map (·.2.2)
    let kept := onCore (fun k => { k with tlb := k.tlb.map fun x => { x with w := false } }) placed
    let lost := { placed with walks := [(9, ⟨w0, 0, 0x30000000, 0, 0, 0, none, 0⟩)] }
    let both := withX 1 4 0xC0000 (withX 0 4 0xB8000 (mapped two))
    issuesB (.ld 0 4 1 4 5 0) placed w0 = true ∧ issuesB (.st 0 4 1 4 5 0) kept w0 = true ∧ issuesB (.st 0 4 1 4 5 0) lost w0 = true ∧
    causes placed 0xC0000 false = [.cause 0x13] ∧ causes kept 0x20000000 true = [.cause 0x12] ∧ causes lost 0x30000000 false = [.cause 0x11] ∧
    issuesB (.ld 0 4 0 4 5 0) both w0 = true ∧ causes both 0xB8000 false = [.aper 0 0xB8000 12] ∧ causes both 0xC0000 false = [.cause 0x13] ∧
    (∀ s ∈ [placed, kept, lost, both], ∀ va ∈ [0xC0000, 0x20000000, 0x30000000, 0xB8000], behindStore s (seen s w0) [(0, va, 4)] true = false) := by decide

/-- The pages of the state are SO pages. -/
def ordered (s : State) : State := onCore (fun k => { k with tlb := k.tlb.map fun x => { x with ord := 1 } }) s

def region (s : State) : State := onWarp (fun w => { w with spec := some ⟨0, 2, 2, [], []⟩ }) s

/-- Outside and inside a region; behind a store to the same bytes; on an SO page behind a store elsewhere. -/
theorem witness_StoresIssue :
    (∀ i ∈ ([.st 0 0 1 4 5 0, .st 3 6 2 4 8 1, .stk 3 5 1 4 7 0, .dsc 127 4 0] : List Instr), issuesB i placed w0 = true ∧ issuesB i (region placed) w0 = true) ∧
    regionOf placed w0 = none ∧ (regionOf (region placed) w0).isSome = true ∧
    reachesB placed (seen placed w0) [(0, 0x20000000, 16), (0, 0xB8000, 1)] false true = true ∧ isDeterm placed 1 = false ∧
    behindStore placed (seen placed w0) [(0, 0x20000000, 16), (0, 0xB8000, 1)] true = false ∧
    (let s := behind 0x20000000 placed
     issuesB (.st 0 4 1 4 5 0) s w0 = true ∧ behindStore s (seen s w0) [(0, 0x20000000, 4)] true = true) ∧
    let s := behind 0x20000100 (ordered placed)
    issuesB (.st 0 4 1 4 5 0) s w0 = true ∧ behindStore s (seen s w0) [(0, 0x20000000, 4)] true = false ∧ releaseWaits s (seen s w0) = true ∧
      (∃ f ∈ fragsOf s (seen s w0) [(0, 0x20000000, 4)], f.ord = 1) ∧ regionOf s w0 = none := by decide

/-- Two stores of which the later covers part of the former: the fragments, and their bytes at different places. -/
theorem witness_StoresWriteMemory :
    let items : List (Nat × Nat × List Byte) := [(0, 0x20000000, [1, 2, 3, 4]), (1, 0x20000002, [5, 6])]
    fragsOf placed (seen placed w0) (items.map fun x => (x.1, x.2.1, x.2.2.length)) =
      [] ++ ⟨0, 0, 0x20000000, 4, .dev 0x40000000, 0⟩ :: [⟨1, 0, 0x20000002, 2, .dev 0x40000002, 0⟩] ∧
    placed.mem.wf = true ∧ (launchOf placed 0).map (fun x => (x.capt, x.rply)) = some (false, false) ∧
    (∀ j < 4, storageOf placed (0x40000000 + j) = storageOf placed 0x40000000 → j = 0) ∧
    (∀ k < 2, storageOf placed (0x40000002 + k) ≠ storageOf placed 0x40000000) ∧ 0 < ([1, 2, 3, 4] : List Byte).length ∧
    (∀ f ∈ fragsOf placed (seen placed w0) (items.map fun x => (x.1, x.2.1, x.2.2.length)), heldAt placed f.place = false) := by decide

def hosted (s : State) : State := onCore (fun k => { k with tlb := [⟨0, 0x20000000, 0x10000, 0, true, 0, 0, true, true, true, 0⟩] }) s

/-- Aligned and not, at 4 and 8 bytes; device and host memory. -/
theorem witness_AtomicsIssue :
    let s := withX 0 4 0x20000000 placed
    let t := withX 0 4 0x20000004 placed
    (∀ i ∈ ([.atomAdd 0 0 4 0 4 6 0, .atomAdd 1 0 4 0 4 6 0, .atomMin 0 1 6 3 4 6 0, .atomMax 1 0 4 0 4 6 0, .atomAnd 0 1 0 4 6 0, .atomOr 1 1 0 4 6 0,
      .atomXor 0 1 0 4 6 0, .atomXchg 0 1 0 4 6 0, .atomCas 1 1 0 4 8 0] : List Instr), issuesB i s w0 = true ∧ issuesB i t w0 = true ∧ issuesB i (hosted s) w0 = true) ∧
    readX2 s (seen s w0) 0 4 % 8 = 0 ∧ readX2 t (seen t w0) 0 4 % 8 ≠ 0 ∧ readX2 t (seen t w0) 0 4 % 4 = 0 ∧
    reachesB s (seen s w0) [(0, 0x20000000, 8)] true true = true ∧ reachesB (hosted s) (seen (hosted s) w0) [(0, 0x20000000, 8)] true true = true ∧
    (piecesOf (hosted s) (seen (hosted s) w0) 0x20000000 8 true true).map (·.2.2) = [.mem (.host 0 0x20000000) 0 0] ∧
    (∀ u ∈ [s, hosted s], behindStore u (seen u w0) [(0, 0x20000000, 8)] true = false ∧ releaseWaits u (seen u w0) = false) ∧
    let b := behind 0x20000000 s
    let o := behind 0x20000100 s
    (∀ u ∈ [b, o], issuesB (.atomAdd 0 0 4 2 4 6 0) u w0 = true ∧ reachesB u (seen u w0) [(0, 0x20000000, 4)] true true = true) ∧
    behindStore b (seen b w0) [(0, 0x20000000, 4)] true = true ∧ behindStore o (seen o w0) [(0, 0x20000000, 4)] true = false ∧
    releaseWaits o (seen o w0) = true ∧ (2 : BitVec 2).toNat = 2 := by decide

/-- Items of 4 and 8 bytes whose bytes lie apart. -/
theorem witness_AtomicResults :
    (2 ^ 32 - 1 < 2 ^ 32 ∧ 2 ^ 64 - 1 < 2 ^ 64) ∧ one.memPoison = [] ∧ one.mem.wf = true ∧
    ∀ i < 8, ∀ j < 8, storageOf one (0x40000000 + i) = storageOf one (0x40000000 + j) → i = j := by decide

/-- A load in slot 0 and a store in slot 1 of the thread. -/
def asking (load : Bool) (s : State) : State :=
  { s with reqs := [(7, { Req.mk' s (seen s w0) (some 0) (if load then .load 4 [(0, 5, [1, 2, 3, 4])] else .store) 3 with isLoad := load, isStore := !load })] }

/-- Nothing outstanding; a load; a store; a range of `ownreg` not yet in effect; the L1 of its own core, at scopes 2 and 3. -/
theorem witness_Fences :
    (∀ c ∈ ([0, 2, 3, 6] : List (BitVec 3)), ∀ i ∈ ([.fenceAcq c 0, .fenceRel c 0, .fenceAr c 0, .fenceSc c 1] : List Instr),
      issuesB i one w0 = true ∧ issuesB i (asking true one) w0 = true ∧ issuesB i (asking false one) w0 = true) ∧
    one.reqs = [] ∧ one.toStore = [] ∧ (unitOf one 1).map (·.own) = some [] ∧ (coreOf one 0).fused = false ∧
    (∃ x ∈ (asking true one).reqs, x.2.serial = (seen one w0).serial ∧ x.2.gid = w0 ∧ x.2.isLoad = true) ∧
    (∃ x ∈ (asking false one).reqs, x.2.serial = (seen one w0).serial ∧ x.2.gid = w0 ∧ x.2.isStore = true ∧ x.2.un = false) ∧
    (let s := behind 0 one
     issuesB (.fenceRel 0 0) s w0 = true ∧ ∃ h ∈ s.toStore, h.gid = w0 ∧ h.serial = (seen s w0).serial) ∧
    let s := onUnit (fun u => { u with own := [⟨0x20000000, 32, 4, none⟩] }) one
    issuesB (.fenceRel 0 0) s w0 = true ∧ ∃ u ∈ s.units, ∃ o ∈ u.2.own, s.now < o.from_ := by decide

/-! ## Hints, ownership, records -/

/-- `lstu` of a word at the end of its sector, and of an address that is no multiple of 4. -/
theorem witness_HintsAndLoadAndZero :
    let s := withX 0 4 0x2000001C placed
    let t := withX 0 4 0x2000001E placed
    (∀ i ∈ ([.pfi 4 0, .pfd 127 4 1, .wbk 0 4 0, .lstu 4 5 0] : List Instr), issuesB i s w0 = true) ∧ readX2 s (seen s w0) 0 4 % 4 = 0 ∧
    reachesB s (seen s w0) [(0, 0x2000001C, 4)] true true = true ∧ isDeterm s 1 = false ∧ issuesB (.lstu 4 5 0) t w0 = true ∧
    readX2 t (seen t w0) 0 4 % 4 = 2 ∧ s.mem.wf = true ∧ 0x2000001C % 32 ≤ 0x4000001C ∧
    behindStore s (seen s w0) [(0, 0x2000001C, 4)] true = false ∧ releaseWaits s (seen s w0) = false ∧
    let b := behind 0x2000001C s
    issuesB (.lstu 4 5 0) b w0 = true ∧ behindStore b (seen b w0) [(0, 0x2000001C, 4)] true = true ∧
    reachesB b (seen b w0) [(0, 0x2000001C, 4)] true true = true := by decide

def determ (s : State) : State := onFrame (fun f => { f with fflags := 1 }) s
def rival (s : State) : State := { s with units := s.units ++ [(5, { UnitSt.single 0 with lid := 1, own := [⟨0x20000100, 32, 0, none⟩] })] }

/-- A bad range; outside DETERM; inside with another unit's range, with fifteen and with sixteen ranges of its own; a base that matches and one that does not. -/
theorem witness_OwnershipAndAddresses :
    let s := withK 4 0x20000100 (withK 5 32 one)
    let d := determ s
    let many (n : Nat) := onUnit (fun u => { u with own := (List.range n).map fun i => ⟨0x30000000 + 32 * i, 32, 0, none⟩ }) d
    (∀ i ∈ ([.ownreg 5 4 0, .ownreg 6 4 0, .ownclr 4 0, .rga 119 3 0] : List Instr), issuesB i s w0 = true ∧ issuesB i d w0 = true) ∧
    (unitOf s 1).isSome = true ∧ (readK s 1 5).toNat % 32 = 0 ∧ (readK s 1 5).toNat ≠ 0 ∧ (readK s 1 6).toNat = 0 ∧ isDeterm s 1 = false ∧ isDeterm d 1 = true ∧
    otherOwner (rival d) 1 0x20000100 32 = some 1 ∧ issuesB (.ownreg 5 4 0) (rival d) w0 = true ∧
    (∀ n ∈ [15, 16], issuesB (.ownreg 5 4 0) (many n) w0 = true ∧ otherOwner (many n) 1 0x20000100 32 = none ∧
      (unitOf (many n) 1).map (fun u => (u.own.filter fun o => o.until_.isNone).length) = some n) := by decide

def ring (used : List Nat) (s : State) : State :=
  modFe (modFn s 1 fun f => { f with hqd := [(0, 0x20000006)] }) 0 fun f => { f with rings := [(0, (0, used))] }

/-- A ring with and without room; record addresses that are multiples of 32 and not; handles of its job, of another, and of a unit. -/
theorem witness_RecordInstructions :
    (let s := ring [] placed
     issuesB (.spawn 1 0) s w0 = true ∧ reachesB s (seen s w0) [(0, 0x20000000, 32)] true false = true ∧ ringFree s 0 1 0 1 = true ∧
       releaseWaits s (seen s w0) = false ∧ behindStore s (seen s w0) [(0, 0x20000000, 32)] false = false) ∧
    (let s := behind 0 (ring [] placed)
     issuesB (.spawn 1 0) s w0 = true ∧ reachesB s (seen s w0) [(0, 0x20000000, 32)] true false = true ∧ releaseWaits s (seen s w0) = true ∧
       issuesB (.jdec 1 0) s w0 = true) ∧
    (let s := ring [0] placed
     issuesB (.spawn 1 0) s w0 = true ∧ ringFree s 0 1 0 1 = false) ∧
    (issuesB (.jdec 1 0) placed w0 = true ∧ (readK placed 1 1).toNat % 32 = 0 ∧ reachesB placed (seen placed w0) [(0, 0x20000010, 4)] true true = true ∧
      pieceOf placed (seen placed w0) 0x20000010 4 true true = .mem (.dev 0x40000010) 0 0 ∧
      ∀ i < 4, ∀ j < 4, storageOf placed (0x40000010 + i) = storageOf placed (0x40000010 + j) → i = j) ∧
    (releaseWaits placed (seen placed w0) = false ∧ behindStore placed (seen placed w0) [(0, 0x20000010, 4)] true = false ∧
      heldAt placed (.dev 0x40000010) = false ∧ placed.mem.wf = true ∧ placed.memPoison = [] ∧
      (launchOf placed 0).map (fun x => (x.capt, x.rply)) = some (false, false)) ∧
    (let s := withK 3 0x20000010 placed
     issuesB (.jdec 3 0) s w0 = true ∧ (readK s 1 3).toNat % 32 ≠ 0) ∧
    (let s := withK 3 0x80000000 placed
     issuesB (.cancel 3 0) s w0 = true ∧ handleInJob s (seen s w0) 0x80000000 = true) ∧
    (let s := withK 3 0x80000001 placed
     issuesB (.cancel 3 0) s w0 = true ∧ handleInJob s (seen s w0) 0x80000001 = false) ∧
    issuesB (.cancel 0 0) placed w0 = true ∧ handleInJob placed (seen placed w0) 0 = true ∧
      (placed.units.find? fun e => e.2.launch = 0 && e.2.lid = 0).isSome = true := by decide

/-! ## Tiles and engines -/

def tiled (l : List (Nat × Nat)) : State → State := onCore fun k => { k with tiles := l.map fun x => (x.1, BitVec.ofNat 32 x.2) }
/-- A tile of 128 times `n` bytes at byte 128 times `offs` of the scratchpad, in a state, with a stamp. -/
def tile (offs n st stamp : Nat) : Nat := offs + (n - 1) * 2 ^ 13 + st * 2 ^ 26 + stamp * 2 ^ 28

/-- The last tile and one past it; the last line inside SCRATCH and the first outside; states 0 to 3; a misaligned address; a line that can be read and written. -/
theorem witness_TileInstructions :
    let s := tiled [(0, tile 0 1 0 0), (1, tile 0 1 1 0), (2, tile 0 1 2 0), (3, tile 0 1 3 0), (4, tile 255 2 0 0), (15, tile 255 1 2 0)] placed
    (∀ t ∈ ([0, 1, 2, 3, 4, 15, 16, 255] : List (BitVec 8)), ∀ i ∈ ([.tget 0 1 t 0, .tdrn 2 1 t 1, .tset 0 t 0, .tstat 3 t 0] : List Instr), issuesB i s w0 = true) ∧
    (unitOf s 1).map (fun u => (u.core, u.ntiles)) = some (0, 16) ∧ (unitFrame s 1).scratch = 32768 ∧
    (List.range 4).map (tileState s 1) = [0, 1, 2, 3] ∧ fillReady s 1 0 = true ∧ fillReady s 1 1 = false ∧ drainReady s 1 15 = true ∧ drainReady s 1 0 = false ∧
    (let e := tileWord s 1 15
     128 * (e % 2 ^ 13) + 128 * (e / 2 ^ 13 % 2 ^ 9 + 1) = 32768) ∧
    (let e := tileWord s 1 4
     32768 < 128 * (e % 2 ^ 13) + 128 * (e / 2 ^ 13 % 2 ^ 9 + 1)) ∧
    (readK s 1 1).toNat % 128 = 0 ∧ (readK (withK 1 0x20000040 s) 1 1).toNat % 128 ≠ 0 ∧ (tile 0 1 1 0) / 2 ^ 26 % 2 = 1 ∧ isDeterm s 1 = false ∧
    (coreOf s 0).tiles.map (·.1) = [0, 1, 2, 3, 4, 15] ∧ (∀ x ∈ (coreOf s 0).tsets, x.1 ≤ s.now + 4) ∧ releaseWaits s (seen s w0) = false ∧
    pieceOf s (seen s w0) 0x20000000 128 true false = .mem (.dev 0x40000000) 0 0 ∧ pieceOf s (seen s w0) 0x20000000 128 false true = .mem (.dev 0x40000000) 0 0 := by decide

theorem witness_TileInstructions_rising : Safety.rising (coreOf (tiled [(0, 0), (15, 1)] placed) 0).tiles 0 :=
  show 0 ≤ 0 ∧ 1 ≤ 15 ∧ True from ⟨by decide, by decide, trivial⟩

/-- An empty queue, one of 63 commands and a full one; a source tile that is not ready; a follow-on with all lanes and without one. -/
theorem witness_EngineCommandsQueue :
    let queued (n : Nat) : State := { two with engines := [(0, { Engine.reset with queue := List.range n })] }
    let follow := withK 4 (2 ^ 58) two
    let part := onWarp (fun w => modLane w 1 fun l => { l with st := .deferred }) follow
    (∀ n ∈ [0, 63, 64], ∀ i ∈ ([.cpy 0 3 2 4 0, .gth 1 3 2 4 0, .sct 2 3 2 4 0, .collSet 3 3 2 4 0, .collRun 0 3 2 4 1, .collStat 0 3 4 0] : List Instr),
      issuesB i (queued n) w0 = true) ∧
    (let s := withK 4 (2 ^ 42) two
     issuesB (.cpy 0 3 2 4 0) s w0 = true ∧ (readK s 1 4).getLsbD 42 = true ∧ (readK s 1 2).toNat % 256 < unitTiles s 1 ∧ tileState s 1 0 ≠ 2) ∧
    (readK follow 1 4).getLsbD 58 = true ∧ (seen follow w0).act = vlanes follow (seen follow w0) ∧ issuesB (.cpy 0 3 2 4 0) follow w0 = true ∧
    (readK part 1 4).getLsbD 58 = true ∧ (seen part w0).act ≠ vlanes part (seen part w0) ∧ issuesB (.cpy 0 3 2 4 0) part w0 = true := by decide

/-! ## The matrix array -/

/-- ACCOWN its own; tile 0 of 2,048 bytes and tile 1 of 4,096, ready; map 0 an operand of format 1 with rows of 64 bytes, map 1 an FP32 result with rows of
128; granules 0 to 2; format 1 in the active plane; k8 names map 0 and 32 rows, k7 map 1, k6 map 0 twice and one slice. -/
def armed : State :=
  withK 6 (2 ^ 16) (withK 7 1 (withK 8 (31 * 2 ^ 8) (onUnit (fun u => { u with gmap := [(0, 0), (1, 1), (2, 2)], om := [(0, BitVec.ofNat 128 (4 * 2 ^ 24 + 2 ^ 100)),
    (1, BitVec.ofNat 128 (1 + 8 * 2 ^ 24))] }) (onFrame (fun f => { f with accres := 2, accel := 4 }) (onCore (fun k => { k with accown := some 0, fmtAct := 1 })
      (tiled [(0, tile 0 16 2 0), (1, tile 16 32 2 0)] placed))))))
def leased (u : Nat) : State → State := onCore fun k => { k with lease := some u }
/-- Tile 0 stamped with contract 1, and CMIX off. -/
def mixed (s : State) : State := tiled [(0, tile 0 16 2 1), (1, tile 16 32 2 0)] s
def masked (s : State) : State := modThr s w0 0 fun t => { t with tmask := 0 }

/-- What delays an instruction of the array: none, the lease of another unit, a store under way, CMIX on and off. -/
theorem witness_array_delays :
    (coreOf armed 0).lease = none ∧ (coreOf armed 0).leaseQ = [] ∧ storesOpen armed (seen armed w0) = false ∧ mixedStamp armed 1 [0] = none ∧
    (coreOf (leased 5 armed) 0).lease = some 5 ∧ storesOpen (asking false armed) (seen armed w0) = true ∧ mixedStamp (mixed armed) 1 [0] = some 1 ∧
    (∃ l ∈ (seen (mixed armed) w0).act, trapEnabled (mixed armed) (seen (mixed armed) w0) 1 l = true) ∧
    ∀ l ∈ (seen (masked (mixed armed)) w0).act, trapEnabled (masked (mixed armed)) (seen (masked (mixed armed)) w0) 1 l = false := by decide

/-- In those states, with all limits met; and one of the limits passed: a tile, a granule, a map, an end of the tile, a speed. -/
theorem witness_LoadsSwapsAndStreamsBegin :
    (∀ s ∈ [armed, leased 5 armed, leased 1 armed, asking false armed, mixed armed, masked (mixed armed), tiled [] armed],
      ∀ i ∈ ([.mld 3 0 0 9 8 0, .mswp 2 0, .mswpRel 3 0, .mst 3 0 0 9 8 0] : List Instr), issuesB i s w0 = true) ∧
    (let m := mapAt armed (seen armed w0) 8 0
     m.tiles = [0] ∧ m.fmt = 1 ∧ m.resv = 0 ∧ m.pitch = 64 ∧ m.eoff + 31 * m.pitch + 64 ≤ tileSize (tileWord armed 1 0) ∧ tileState armed 1 0 = 2 ∧
     tileState (tiled [] armed) 1 0 = 0) ∧
    (unitOf armed 1).map (fun u => (u.ntiles, holdsGranule u 2, holdsGranule u 3)) = some (16, true, false) ∧ speedOf (contractNo armed 1) 1 ≠ 0 ∧
    pairSpeed armed 1 (coreOf armed 0).fmtAct 1 ≠ 0 ∧ pairAllowed (coreOf armed 0).fmtAct 1 = true ∧ pairAllowed 1 2 = false ∧ speedOf 1 11 = 0 ∧
    (mapAt armed (seen armed w0) 7 0).fmt = 0 := by decide

theorem witness_DrainsAndStatisticsBegin :
    let joined : State := { armed with comms := [(0, { Comm.reset with state := 2, nrank := 1 })] }
    (∀ i ∈ ([.mdr 3 0 0 9 7 0, .mdr 3 0 3 9 7 0, .mdrRed 3 0 0 9 9 0, .rmax 0 0 1 5 0, .rsum 1 1 0 5 0, .rvar 2 0 0 5 0, .rsmx 3 0 1 5 0, .rnorm 0 2 1 5 0, .rmax 0 16 0 5 0,
      .rmax 0 3 1 5 0] : List Instr), issuesB i armed w0 = true ∧ issuesB i joined w0 = true ∧ issuesB i (asking false armed) w0 = true) ∧
    (let m := mapAt armed (seen armed w0) 7 0
     m.etile = 1 ∧ m.fmt = 0 ∧ m.resv = 0 ∧ m.ovp = 0 ∧ m.pitch = 128 ∧ m.eoff + 31 * m.pitch + 32 * 4 = tileSize (tileWord armed 1 1) ∧ tileState armed 1 1 = 2) ∧
    speedOf (contractNo armed 1) 0 ≠ 0 ∧ (commOf joined 0 0).state = 2 ∧ (commOf armed 0 0).state ≠ 2 := by decide

/-- One step; no steps; granules past 63; no communicator. -/
theorem witness_LehrsBegin :
    (∀ i ∈ ([.tmm 3 0 0 9 6 0, .tmm 3 0 0 9 8 0, .tmm 3 0 63 9 6 0, .tmmRed 3 0 0 9 6 0] : List Instr), issuesB i armed w0 = true) ∧
    (let ka := (readK armed 1 6).toNat
     ka / 2 ^ 8 % 8 + 1 = 1 ∧ ka / 2 ^ 16 % 2 ^ 12 = 1 ∧ ka / 2 ^ 32 = 0) ∧ (readK armed 1 8).toNat / 2 ^ 16 % 2 ^ 12 = 0 ∧
    (let m := mapAt armed (seen armed w0) 6 0
     m = mapAt armed (seen armed w0) 6 4 ∧ m.fmt = 1 ∧ m.tiles = [0]) ∧
    pairAllowed 1 1 = true ∧ pairSpeed armed 1 1 1 ≠ 0 ∧ armed.quanta = [] ∧ armed.matOps = [] ∧ replays armed 0 = false := by decide

/-! ## Granules -/

/-- Elastic names not held and held, the first and the last; granules free and none. -/
theorem witness_GranuleRequests :
    let full : State := { armed with units := armed.units ++ [(5, { UnitSt.single 0 with gmap := (List.range 61).map fun i => (i, i + 3) })] }
    (∀ i ∈ ([.accget 0 0 3 5 0, .accget 0 2 2 5 0, .accget 0 0 1 5 0, .accgetW 1 0 5 5 0, .accput 2 0 2 0, .accput 2 0 3 0, .accz 3 0 0 0, .accz 3 1 2 0] : List Instr),
      issuesB i armed w0 = true ∧ issuesB i full w0 = true) ∧
    (unitFrame armed 1).accres = 2 ∧ (unitFrame armed 1).accel = 4 ∧ (unitOf armed 1).map (fun u => (u.core, (List.range 5).map (holdsGranule u))) =
      some (0, [true, true, true, false, false]) ∧ 1 ≤ (elasticFree armed 0).length ∧ elasticFree full 0 = [] ∧ (unitOf full 1).isSome = true := by decide

/-- A base that is a multiple of 128 and one that is not; strides 128 and 64; lines that can be read and written. -/
theorem witness_GranuleTransfers :
    let s := withK 4 128 (withK 5 64 (withK 10 0x20000040 armed))
    (∀ i ∈ ([.accld 3 0 0 4 1 0, .accld 3 0 0 5 1 0, .accld 3 0 0 4 10 0, .accst 0 0 0 4 1 0, .accst 0 0 3 4 1 0, .accst 0 0 0 4 10 0] : List Instr),
      issuesB i s w0 = true) ∧
    (readK s 1 1).toNat % 128 = 0 ∧ (readK s 1 10).toNat % 128 ≠ 0 ∧ (readK s 1 4).toNat = 128 ∧ (readK s 1 5).toNat % 128 ≠ 0 ∧ replays s 0 = false ∧
    behindStore s (seen s w0) ((List.range 32).map fun i => (0, 0x20000000 + 128 * i, 128)) true = false ∧
    reachesB s (seen s w0) ((List.range 32).map fun i => (0, 0x20000000 + 128 * i, 128)) true true = true := by decide

/-- A region with one touched granule and a held store; work that writes its shadow, and none. -/
theorem witness_SpeculativeRegions :
    let r : Spec := ⟨0, 1, 1, [0], [⟨0x25, [(0, 0x20000000, [7])], []⟩]⟩
    let s := onWarp (fun w => { w with spec := some r }) armed
    let t : State := { s with matOps := [(9, { MatOp.mk' s (seen s w0) 3 0 20 with blocks := [[(0, 1)]] })] }
    issuesB (.sbeg 0 0 1 0) armed w0 = true ∧ issuesB (.sbeg 0 3 1 0) armed w0 = true ∧ (seen armed w0).gid = w0 ∧ (seen armed w0).core = 0 ∧ (seen armed w0).wslot = 0 ∧
    (warpOf armed 0 0).map (·.unit) = some (seen armed w0).unit ∧ (unitOf armed 1).map (fun u => (holdsGranule u 0, holdsGranule u 1, holdsGranule u 3)) = some (true, true, false) ∧
    (∀ i ∈ ([.scmt 0, .sdis 1] : List Instr), issuesB i s w0 = true ∧ issuesB i t w0 = true) ∧ (warpOf s 0 0).map (·.spec) = some (some r) ∧
    r.touched.Nodup ∧ (∀ o ∈ r.touched, o < r.width) ∧ (∀ i < r.width, ∀ j < r.width, r.tbase + i ≠ r.sbase + j) ∧
    (unitOf s 1).map (fun u => (tabGet 0 u.gmap, tabGet 1 u.gmap)) = some (some 0, some 1) ∧
    reachesB s { seen s w0 with act := [0] } [(0, 0x20000000, 1)] false true = true ∧ isDeterm s 1 = false ∧ s.matOps = [] ∧
    behindStore s { seen s w0 with act := [0] } [(0, 0x20000000, 1)] true = false ∧
    ∃ m ∈ t.matOps, m.2.writes = true ∧ m.2.gid = w0 ∧ m.2.serial = (seen t w0).serial ∧ ∃ b ∈ m.2.blocks, ∃ p ∈ b, p.2 = 1 := by decide

/-! ## Events of groups, units and launches -/

/-- A state some cycles on. -/
def later (n : Nat) (s : State) : State := { s with now := s.now + n }
/-- Whether the slots a park waits for, and its results, are over. -/
def settledB (s : State) (g : Gid) : Bool :=
  let r := (seen s g).run
  decide (r.usable ≤ s.now) && (List.range 4).all fun j => !(j == 3 || r.trl.getLsbD j) || slotCount r j == 0
def freeB (s : State) (g : Gid) : Bool :=
  let v := seen s g
  !frozen s v && !copied s v && !isCancelled s v && v.run.deferred.isEmpty

/-- Parked for the next run and for a target, usable in this cycle and in the next, a slot of the mask open. -/
theorem witness_GroupEvents :
    let parked := about (.group w0) (inState (.parked .next) one)
    let going := about (.group w0) (inState (.parked (.xfer [(0, 0x10000040)] 4)) one)
    let open_ := onRun (fun r => { r with trl := 1, slots := [1, 0, 0, 0] }) parked
    (view parked w0 = some (seen parked w0) ∧ freeB parked w0 = true ∧ settledB parked w0 = true) ∧
    ((seen going w0).act = [0] ∧ freeB going w0 = true ∧ settledB going w0 = true ∧ (coreOf going 0).staging.length ≤ 128) ∧
    settledB open_ w0 = false ∧ settledB (onRun (fun r => { r with usable := 1 }) parked) w0 = false := by decide

/-- A wait whose condition is met, whose time is over, whose time-out is 0, and which has none. -/
theorem witness_GroupEvents_waits :
    let waits (c : List Cond) (tmo : Word) := about (.group w0) (inState (.waiting false 3 c tmo 0) (later 19 one))
    (let s := waits [.slot 0] 5
     view s w0 = some (seen s w0) ∧ frozen s (seen s w0) = false ∧ (seen s w0).run.deferred = [] ∧ exitMet s (seen s w0) false [.slot 0] = true) ∧
    (let s := waits [.flag 63] 1
     exitMet s (seen s w0) false [.flag 63] = false ∧ tickEnd (0 + (1 : Word).toNat) ≤ s.now ∧ ¬ tickEnd (0 + (2 : Word).toNat) ≤ s.now) := by decide

theorem witness_GroupEvents_timeouts :
    let waits (tmo : Word) := about (.group w0) (inState (.waiting false 3 [.tileReady 0] tmo 0) (later 19 one))
    let holds (s : State) : Prop := view s w0 = some (seen s w0) ∧ frozen s (seen s w0) = false ∧ exitMet s (seen s w0) false [.tileReady 0] = false
    holds (waits 0) ∧ holds (waits 0xFFFFFFFF) := ⟨by decide, by decide⟩

/-- A hand-over, the limit of an ejected thread, an encoding that is none. -/
theorem witness_GroupEvents_kindling :
    let away1 (st : Status) (n : Nat) := about (.group e0) (modEj (later n away) 0 0 fun e => { e with run := { e.run with status := st } })
    (let s := away1 .handover 7
     view s e0 = some (seen s e0) ∧ (ejOf s 0 0).map (fun e => decide (e.run.usable ≤ s.now)) = some true) ∧
    (let s := away1 (.ready 0) (7 * 65536)
     mayIssue s (seen s e0) = true ∧ kindleIssuer s 0 (0 % 16) = some e0 ∧ Config.ejlim ≤ tickOf s.now - 0) ∧
    (let s := about (.of [0x101]) one
     view s w0 = some (seen s w0) ∧ s.cur = some w0 ∧ Safety.underFault s w0 = false) := by decide

/-- A write-back that ends now; a window that closes now and one cycle later; a bin that ages now and one that does not; an aged bin with a place. -/
theorem witness_RejoinAndBinEvents :
    let waiting (wb : Option WriteBack) := inState (.rejoin 1 0 0 0 0 wb) (onWarp (fun w => { modLane w 0 (fun _ => ⟨.ejected, none, []⟩) with ejs := [⟨1, 1⟩], rjw := 2 }) one)
    let binned (aged : Bool) := onCore (fun k => { k with bins := [(4, ⟨1, 0x10000040, [⟨Thread.first 0, [(3, 7)], [], 5, []⟩], 0, aged, 0⟩)] }) one
    (let s := waiting (some ⟨0, Thread.first 0, [(0, 5), (119, 6)], [], 0, 0⟩)
     (warpOf s 0 0).isSome = true ∧ s.now = 0 ∧ ([(0, 5), (119, 6)].map (·.1)).Nodup ∧ (warpOf s 0 0).map (fun x => decide (119 < x.bsize)) = some true ∧
     (coreOf s 0).store.wf = true) ∧
    (let s := later 20 (waiting none)
     view s w0 = some (seen s w0) ∧ frozen s (seen s w0) = false ∧ tickEnd (0 + 2) ≤ s.now ∧ ¬ tickEnd (0 + 2) ≤ s.now - 1) ∧
    (let s := later 256 (binned false)
     (tabGet 4 (coreOf s 0).bins).isSome = true ∧ isDeterm s 1 = false ∧ (unitOf s 1).map (fun u => (u.halted, decide (0 + u.binage ≤ s.now), decide (0 + u.binage ≤ s.now - 1))) =
      some (false, true, false)) ∧
    drawDue (binned true) 0 = some (4, 1) ∧ (drawPlace (binned true) 0 ⟨1, 0x10000040, [⟨Thread.first 0, [(3, 7)], [], 5, []⟩], 0, true, 0⟩).isSome = true ∧
    (launchOf (binned true) 0).map (fun x => (x.capt, x.rply)) = some (false, false) := by decide

/-- A launch of two units of 33 threads of which one is to be placed. -/
def placing1 : State :=
  { withThread State.reset with
    parts := [(0, ⟨true, false, 0, 47, 0, 0, 1, 1, 0, 0⟩)], fns := [(1, { Fn.reset 1 with vf := .running, hqd := [(0, 0x20000006), (1, 0xFFFFFFFFFFFF)] })]
    fes := [(0, { FrontEnd.reset with vf := some 1 })], units := [], cores := []
    launches := [(0, { Launch.single State.reset with frame := some { Frame.none with regs := 16, utx := 33, gdx := 2, tiles := 4, scratch := 2048 }, unitsLeft := 2, nextUnit := 0 })] }
/-- The unit of `one` moved up in the store while a launch waits for its place. -/
def spread (move : Option (Nat × Nat × Nat)) : State :=
  onCore (fun k => { k with compact := some ⟨7, 0, move⟩ }) (onWarp (fun w => { w with page := 8 }) one)
/-- A launch that fits core 0 only once the warp there has moved down. -/
def crowding (move : Option (Nat × Nat × Nat)) : State :=
  { placing1 with
    launches := (placing1.launches.map fun x => (x.1, { x.2 with frame := some { Frame.none with regs := 16, scratch := 0x90000 } })) ++ [(5, Launch.single State.reset)]
    units := [(9, { UnitSt.single 5 with scrPages := 0 })]
    cores := [(0, { Core.reset with warps := [(0, newWarp placing1 9 2 150 128 0x10000000 [Thread.first 0] 0)], compact := some ⟨0, 0, move⟩ })] }
def halting (n : Nat) (stopped : Bool) : State :=
  later n (onLaunch (fun l => { l with fatal := some ⟨0, 0, 0, 0, precise (seen one w0) 0x31 0, none, 0, stopped, 0⟩ }) (if stopped then inState .stopped one else one))

theorem witness_UnitAndLaunchEvents :
    (let f : Frame := { Frame.none with regs := 16, utx := 33, gdx := 2, tiles := 4, scratch := 2048 }
     placeDue placing1 0 = some (.place 0 0 0) ∧ (launchOf placing1 0).map (fun x => (x.frame, x.capt, x.rply)) = some (some f, false, false) ∧
     (storeGrant (usedPages (setShare placing1 f 0) 0) { f with l1w := (coreOf (setShare placing1 f 0) 0).l1w }).map (fun x => (x.2.length, decide x.2.Nodup)) = some (2, true) ∧
     (findTiles (setShare placing1 f 0) 0 4).isSome = true ∧ 2 ≤ (freeSlots placing1 0).length ∧ (freeSlots placing1 0).Nodup) ∧
    compactAct (crowding none) 0 = some (.choose 0 0) ∧ compactAct (crowding (some (0, 0, 0))) 0 = some (.copy 0 0 8) ∧
    (compactAct (spread none) 0 = some .stop ∧ compactAct (spread (some (0, 0, 9))) 0 = none ∧ compactAct (spread (some (0, 0, 0))) 0 = some .stop) ∧
    (let s := later 9 (spread (some (0, 0, 9)))
     (9 : Nat) ≠ 0 ∧ 9 ≤ s.now ∧ (warpOf s 0 0).map (·.page) = some 8 ∧ (coreOf s 0).store.wf = true) ∧
    (launchOf (onLaunch (fun l => { l with status := 1 }) one) 0).map (fun x => (x.status, x.parent)) = some (1, 0) ∧
    (let s := halting 16 false
     (launchOf s 0).map (fun x => x.fatal.map fun f => (f.stopped, decide (f.cycle + 16 ≤ s.now))) = some (some (false, true)) ∧
     (unitOf s 1).map (·.halted) = some false ∧ s.units.length = 1) ∧
    (let s := halting 17 true
     dumpDue s 0 = true ∧ (launchOf s 0).map dumpBuffer = some 0) := by decide

/-- A translation of the code page, that may be executed or not. -/
def coded (x : Bool) : State → State := onCore fun k => { k with tlb := [⟨0, 0x10000000, 0x10000, 0x50000000, false, 0, 0, true, false, x, 0⟩] }
def asks (slot due : Nat) (f : Req → Req) : State :=
  let s := onRun (fun r => { r with slots := r.slots.mapIdx fun i n => if i = slot then 1 else n }) one
  about (.of [7]) { s with reqs := [(7, f (Req.mk' s (seen s w0) (some slot) (.load 4 [(0, 5, [1, 2, 3, 4])]) due))] }

/-- A program counter that is forwarded; a line that can be asked for, must be walked for, is awaited, may not be executed; fills, walks, answers, returns. -/
theorem witness_FetchWalkAndReturnEvents :
    (let s := forwarding (setPc one w0 0x10001000)
     view s w0 = some (seen s w0) ∧ forwardPc s 0 (seen s w0).pc ≠ (seen s w0).pc) ∧
    forwardPc one 0 (seen one w0).pc = (seen one w0).pc ∧
    neededLines (coded true one) w0 (seen one w0) = [(0x10000000, .request ⟨0, 0x10000000, 0x10000, 0x50000000, false, 0, 0, true, false, true, 0⟩)] ∧
    (let s := mapped one
     heldAt { coded true s with fnrdyLo := s.fnrdyLo } (xlPlace s ⟨0, 0x10000000, 0x10000, 0x50000000, false, 0, 0, true, false, true, 0⟩ 0x10000000) = false) ∧
    neededLines one w0 (seen one w0) = [(0x10000000, .walk)] ∧ demandWalk one w0 0 0x10000000 = none ∧ walksOf one (dieOf (seen one w0).core) < 4096 ∧
    neededLines { one with fills := [(9, ⟨0, 0, 0x10000000, 0x50000000, false, 30, 0, false⟩)] } w0 (seen one w0) = [(0x10000000, .wait 30)] ∧
    neededLines (coded false one) w0 (seen one w0) = [(0x10000000, .fail 1)] ∧
    (let s := about (.of [9]) { later 30 one with fills := [(9, ⟨0, 0, 0x10000000, 0x50000000, false, 30, 0, false⟩)], walks := [(8, ⟨w0, 0, 0x20000000, 1, 0, 30, none, 0⟩)] }
     (tabGet 9 s.fills).map (fun f => decide (f.ends ≤ s.now)) = some true ∧ (tabGet 8 s.walks).map (fun w => decide (w.ends ≤ s.now)) = some true ∧
     (walk s 0 0x20000000).1 = .miss 0 ∧ ∀ a ∈ (walk s 0 0x20000000).2, heldAt s (placeOf s a) = false) := by decide

theorem witness_FetchWalkAndReturnEvents_answers :
    (let s := about (.of [9]) { later 30 one with fills := [(9, ⟨0, 0, 0x10000000, 0x50000000, false, 30, 0, true⟩)] }
     (tabGet 9 s.fills).map (·.held) = some true) ∧
    (let s := about (.of [6, 0]) { one with pageReqs := [(6, ⟨w0, 0, 0, agentSerial, 0, 0x20000000, 0, false, false⟩), (5, ⟨w0, 0, 0, agentSerial, 0, 0x30000000, 0, false, true⟩)] }
     (tabGet 6 s.pageReqs).map (fun q => (q.serial, q.pri, q.refused)) = some (agentSerial, false, false) ∧
     (tabGet 5 s.pageReqs).map (fun q => (q.serial, q.pri, q.refused)) = some (agentSerial, true, false)) ∧
    (let s := about (.of [6, 0]) { one with pageReqs := [(6, ⟨w0, 0, 0, 2, 0, 0x20000000, 0, false, false⟩), (5, ⟨w0, 0, 0, 2, 0, 0x30000000, 0, false, true⟩)] }
     (tabGet 6 s.pageReqs).map (fun q => (q.pri, q.refused)) = some (false, false) ∧ (tabGet 5 s.pageReqs).map (fun q => (q.pri, q.refused, decide (q.lanes = 0))) =
      some (true, false, true) ∧ s.ctxs = [] ∧ (0 : Nat) ≠ 1) ∧
    (let s := asks 0 0 fun q => { q with isLoad := true }
     tabGet 7 s.matOps = none ∧ (tabGet 7 s.reqs).map (fun q => (q.slot, decide (q.due ≤ s.now), q.isLoad, q.serial)) = some (some 0, true, true, (seen s w0).serial) ∧
     isCancelled s (seen s w0) = false ∧ (seen s w0).run.pend = [] ∧ (coreOf s 0).store.wf = true ∧
     (tabGet 7 s.reqs).map (fun q => q.holds.isEmpty && q.fills.isEmpty && q.outside.isEmpty && q.acq == 0 && q.fault.isNone) = some true ∧ returnsLater s 1 0 = false) ∧
    (let s := asks 1 0 fun q => { q with isLoad := true, isStore := true }
     (tabGet 7 s.reqs).map (fun q => (q.isLoad, q.isStore)) = some (true, true)) ∧
    (let s := asks 3 0 fun q => { q with isStore := true, kind := .store }
     (tabGet 7 s.reqs).map (fun q => (q.kind, q.slot)) = some (.store, some 3)) ∧
    (let s := later (7 * 0x100000 + 6) (asks 2 0 fun q => { q with isLoad := true })
     lostDue s 7 = true ∧ lostDue { s with now := s.now - 1 } 7 = false ∧ (launchOf s 0).map (·.fatal) = some none) := by decide

/-! ## Events of engines and of the array -/

/-- A command of the thread in slot 0. -/
def order (op : Nat) (ctl : Nat) : Cmd :=
  { op := op, gid := w0, serial := 2, unit := 1, launch := 0, part := 0, gen := 0, core := 0, slot := 0, lanes := 1, ipc := 0x10000000, ctl := BitVec.ofNat 64 ctl,
    w1 := 0, w2 := 0, w3 := 0, src := 0, dst := 1, issued := 0, acq := [], phase := 0, lines := [], rest := [], nextRow := 0, lost := 0, readEnd := 0, doneAt := 0, tile := none, stamp := 0,
    trap := none, follow := none, pkt := none, noEvents := false, values := [] }
def commanded (c : Cmd) (x : Subject) (s : State) : State :=
  about x { later 8 s with cmds := [(9, c)], engines := [(0, { Engine.reset with queue := [9] })] }
/-- A copy of a line from tile 0 to tile 1. -/
def tileCopy : Nat := 2 ^ 60 + 2 ^ 42 + 2 ^ 43 + 128

/-- At the head: a version that is refused, a copy that may begin, one whose destination is being read; transfers over and not, with a trap and without;
fills and drains; set-ups with parameters that agree and do not; a run of one rank; messages. -/
theorem witness_EngineEvents :
    let ready := tiled [(0, tile 0 1 2 0), (1, tile 1 1 0 0)] one
    let busy := tiled [(0, tile 0 1 2 0), (1, tile 1 1 1 0)] one
    (let s := commanded (order 0 0) (.of [0]) one
     engineHead s 0 = some (9, order 0 0) ∧ refusal s (order 0 0) = some 1 ∧ (cmdOwner s (order 0 0)).isSome = true) ∧
    (let s := commanded (order 0 tileCopy) (.of [0]) ready
     engineHead s 0 = some (9, order 0 tileCopy) ∧ refusal s (order 0 tileCopy) = none ∧ mayBegin s (order 0 tileCopy) = true) ∧
    (let s := commanded (order 0 tileCopy) (.of [0]) busy
     refusal s (order 0 tileCopy) = none ∧ mayBegin s (order 0 tileCopy) = false) ∧
    (let c := { order 0 tileCopy with phase := 1, doneAt := 8 }
     let s := commanded c (.of [9]) ready
     transferOver s c = true ∧ transferOver s { c with doneAt := 9 } = false ∧ (c.uses 0, c.uses 1, c.rel, c.trap) = (false, false, false, none) ∧
     returnsLater s c.unit c.gen = false ∧ writeOver s { c with phase := 2 } = true ∧ { c with ctl := BitVec.ofNat 64 (tileCopy + 2 ^ 57) }.uses 1 = true ∧
     { c with ctl := BitVec.ofNat 64 (tileCopy + 2 ^ 56) }.uses 0 = true) := by decide

/-- A fill that ends, a set-up and a run with their results, and the bytes of a message. -/
theorem witness_EngineEvents_results :
    (let s := asks 2 0 fun q => { q with isLoad := true, kind := .tget 1 15 }
     (tabGet 7 s.reqs).map (fun q => (q.kind, q.fault, decide (q.due ≤ s.now))) = some (.tget 1 15, none, true) ∧ (unitOf s 1).isSome = true ∧
     (tabGet 7 s.reqs).map (fun q => (q.rest, q.lines)) = some ([], [])) ∧
    ctxStops one 0 = false ∧ poisonedPlace one (.dev 0x40000000) 8 = false ∧
    (let c := { order 3 (2 ^ 60) with phase := 7 }
     let m (n : Nat) : Member := ⟨0, some 0, 8, n, 0, 0, [], false⟩
     let s (n : Nat) := commanded c (.of [0, 0, 0]) { one with comms := [(0, { Comm.reset with nrank := 1, setCmd := some 9, members := [m n] })] }
     tabGet 9 (s 1).cmds = some c ∧ c.comm = 0 * 16 + 0 ∧ (tabGetD 0 Comm.reset (s 1).comms).setCmd = some 9 ∧
     (¬ ∃ x ∈ (tabGetD 0 Comm.reset (s 1).comms).members, x.setAt.isSome = true ∧ x.nrank ≠ 1) ∧
     ∃ x ∈ (tabGetD 0 Comm.reset (s 2).comms).members, x.setAt.isSome = true ∧ x.nrank ≠ 1) ∧
    (let c := { order 4 (2 ^ 60 + 2) with phase := 7, values := [0x3F800000, 0x40000000] }
     let s := commanded c (.of [9]) { one with comms := [(0, { Comm.reset with nrank := 1, state := 2, contract := 3 })] }
     tabGet 9 s.cmds = some c ∧ c.op = 4 ∧ c.trap = none ∧ c.ctl.toNat % 2 ^ 32 = 2 ∧ c.ctl.toNat / 2 ^ 36 % 16 = 0) ∧
    one.mem.wf = true ∧ ∀ i < 2, ∀ j < 2, storageOf one (0x40000000 + i) = storageOf one (0x40000000 + j) → i = j := by decide

def working (m : MatOp → MatOp) (s : State) : State := about (.of [9]) { s with matOps := [(9, m (MatOp.mk' s (seen s w0) 0 0 0))] }

/-- Work of each kind that is over in this cycle; a lehr with a step to run, granted and refused; a first-use trap over and not; an elastic request to grant and
to refuse. -/
theorem witness_ArrayEvents :
    (∀ k ∈ [0, 1, 2, 3, 4, 5], (tabGet 9 (working (fun m => { m with kind := k }) armed).matOps).map (fun m => (m.kind, decide (m.due ≤ armed.now), m.parent, m.bad)) =
      some (k, true, none, none)) ∧
    (coreOf armed 0).shadow.data.wf = true ∧ (coreOf armed 0).acc.wf = true ∧ (coreOf armed 0).store.wf = true ∧ (coreOf armed 0).accPoison = [] ∧
    savedPlanes armed 0 1 0 = none ∧ returnsLater armed 1 0 = false ∧
    (coreOf (leased 1 armed) 0).lease = some 1 ∧ (unitOf armed 1).map (fun u => decide ((1, 1) ∈ u.gmap)) = some true ∧ (seen armed w0).run.pend = [] ∧
    isCancelled armed (seen armed w0) = false ∧
    (let s := working (fun m => { m with kind := 6, ns := 2, quanta := [1, 0], base := 32, count := 32 }) { later 16 armed with fresh := 10 }
     (tabGet 9 s.matOps).map (fun m => (decide (m.step < m.ns), decide (m.start + 16 * m.waited ≤ s.now), decide (m.waited < nth m.quanta m.step 0))) =
      some (true, true, true) ∧ 9 < s.fresh ∧ (unitOf s 1).map (·.halted) = some false ∧ nth [1, 0] 1 0 ≤ 0) ∧
    (let s := about (.of [0]) (onCore (fun k => { k with firstUse := some ⟨3, 1, 30⟩ }) (later 30 armed))
     (coreOf s 0).firstUse = some ⟨3, 1, 30⟩ ∧ 30 ≤ s.now ∧ s.now - 1 < 30) ∧
    (let e : ElReq := ⟨1, 5, 3, 1, 7⟩
     let s := onCore (fun k => { k with elq := [e] }) (onUnit (fun u => { u with gmap := u.gmap }) { armed with reqs := (asks 2 0 fun q => q).reqs })
     let full : State := { s with units := s.units ++ [(5, { UnitSt.single 0 with lid := 1, gmap := (List.range 61).map fun i => (i, i + 3) })] }
     let f : ElReq := ⟨5, 5, 62, 1, 8⟩
     elasticRefuseDue (onCore (fun k => { k with elq := [e, f] }) full) 0 = some f ∧
     elasticGrantDue s 0 = some e ∧ (tabGet 7 s.reqs).isSome = true ∧ (unitOf s 1).map (·.core) = some 0 ∧ elasticGrantDue full 0 = none) := by decide

/-! ## The host's queues and registers -/

/-- Function 1 running on partition 0 with context 0 and queue 0 enabled with a ring of 16 packets. -/
def context : Ctx :=
  { fn := 1, entry := 0, pasid := 5, ptroot := 0, keyid := 0, hord := 0, slim := 0, saveb := 0, dying := false, halted := false, haltedAt := 0, images := [], planes := [],
    saved := [], slots := [], replays := [], returns := [], outstanding := [] }
def hosting (c : Cq) (x : Subject) : State :=
  about x { State.reset with fns := [(1, { Fn.reset 1 with vf := .running, cqs := [(0, { c with w0 := 0x30000104, w1 := 0x40000000 })] })]
                             fes := [(0, { FrontEnd.reset with vf := some 1 })], ctxs := [(0, context)] }
/-- A packet of a type with bytes 8 and 9. -/
def packet (type b8 b9 : Nat) : Packet := ⟨BitVec.ofNat 512 (type + 2 ^ 64 * b8 + 2 ^ 72 * b9), false, false, 0, none⟩

/-- A TAIL that the ring holds and one it does not; a packet to take, with the link up and down; packets of every type that may start, with no error or with
one; packets to complete and not. Launches need a frame that walks reach, which Config leaves open. -/
theorem witness_PacketEvents :
    (let c := cqOf (hosting Cq.reset (.of [1, 0, 17])) 1 0
     c.en = true ∧ c.size = 16 ∧ c.head + c.size < 17 ∧ ¬ c.head + c.size < 16) ∧
    (let s := hosting { Cq.reset with tail := 1 } (.of [1, 0])
     takeDue s 1 0 = true ∧ ringPasid s 1 = some 5 ∧ s.linkUp = true ∧ Memory.wf (tabGetD 5 [] s.hostMem) = true ∧ takeDue (hosting Cq.reset .nothing) 1 0 = false) ∧
    (∀ p ∈ [packet 3 0 63, packet 3 1 0, packet 3 3 0, packet 5 0 0],
      let s := hosting { Cq.reset with tail := 1, head := 1, taken := [(0, p)] } (.of [1, 0, 0])
      nextStart s 1 0 = some (0, p) ∧ mayStart s 1 0 0 p = true ∧ packetRefusal s 1 p = none ∧ ctxGen s 1 (p.g 2 2) = some 0) ∧
    packetRow (packet 3 0 63) = .pktSignalSet ∧ packetRow (packet 3 1 0) = .pktSignalClear ∧ packetRow (packet 3 2 0) = .pktSignalPhase ∧
    packetRow (packet 3 3 0) = .pktSignalNothing ∧ packetRow (packet 4 0 0) = .pktCopy ∧ packetRow (packet 5 0 0) = .pktCancel ∧ packetRow (packet 6 0 0) = .pktQuery ∧
    (let p := packet 3 4 0
     let s := hosting { Cq.reset with tail := 1, head := 1, taken := [(0, p)] } (.of [1, 0, 0])
     nextStart s 1 0 = some (0, p) ∧ mayStart s 1 0 0 p = true ∧ packetRefusal s 1 p = some 0x17) ∧
    (let p := { packet 3 0 0 with started := true }
     let s := hosting { Cq.reset with tail := 1, head := 1, taken := [(0, p)] } (.of [1, 0, 0])
     ({ p with gen := some 0 } : Packet).gen = some 0 ∧ packetNamed s 1 0 0 = some (0, p) ∧ packetStatus s 1 0 0 p = some 0 ∧ packetStatus s 1 0 0 { p with status := 0x17 } = some 0x17 ∧ (cqOf s 1 0).closing = false) :=
  by decide

/-- Values at the ends of what a register takes; a queue enabled and not, closing and not; contexts with and without a key; entries, routes, the mailbox. -/
theorem witness_RegisterEvents :
    (8 < 9 % 16 ∧ 8 % 16 ≤ 8) ∧ (fnOf State.reset 1).inv = [] ∧ invDue { State.reset with fns := [(1, { Fn.reset 1 with inv := [(0, 5, 0)] })] } 1 = true ∧
    invDue State.reset 1 = false ∧ bit 0x104 8 = true ∧ bit 0x04 8 = false ∧ (4 ≤ 0x104 % 32 ∧ ¬ 4 ≤ 0x103 % 32 ∧ 0x110 % 32 ≤ 16 ∧ ¬ 0x111 % 32 ≤ 16) ∧
    (cqOf State.reset 1 0).en = false ∧ (cqOf (hosting Cq.reset .nothing) 1 0).en = true ∧ (cqOf (hosting { Cq.reset with closing := true } .nothing) 1 0).closing = true ∧
    (let c := cqOf { State.reset with fns := [(1, { Fn.reset 1 with cqs := [(0, { Cq.reset with closing := true })] })] } 1 0
     c.en = false ∧ c.closing = true) ∧
    (let s := { State.reset with fns := [(1, { Fn.reset 1 with keyid := 255 })] }
     ctxGen s 1 31 = none ∧ ctxRefusal State.reset 1 31 = some 2 ∧ bit (2 ^ 63) 63 = true ∧ ctxGen (hosting Cq.reset .nothing) 1 0 = some 0) ∧
    (let s := { State.reset with ctxs := [(0, { context with dying := true })] }
     destroyDue s 0 = true ∧ destroyDue (hosting Cq.reset .nothing) 0 = false) ∧
    (tabGet 3 (feOf (forwarding State.reset) 0).fwd).map (·.active) = some true ∧ tabGet 4 (feOf (forwarding State.reset) 0).fwd = none ∧
    (let s := { State.reset with routesPending := [(16383, 0x01000001)] }
     tabGet 16383 s.routesPending = some 0x01000001 ∧ nodeAsked s 16383 = false ∧ s.routes = []) ∧
    (fnOf State.reset 128).busy = false ∧ (fnOf State.reset 128).cmd.wf = true ∧ (0x2000 + 63) + 1 ≤ 0x2000 + 0x40 := by decide

/-! ## The Crucible and the module -/

/-- A command in the mailbox of a function. -/
def mail (fn : Nat) (bytes : List Byte) (s : State) : State :=
  about (.of [fn]) (modFn s fn fun f => { f with busy := true, cmd := Memory.write [] 0 bytes })

theorem witness_MailboxCommands :
    (∀ op ∈ ([1, 2, 3, 4, 0x10, 0x11, 0x12, 0x13, 0x14, 0x15, 0x16, 0x17] : List Byte), cmdDue (mail 1 [op] State.reset) 1 (· == op.toNat) = true ∧
      cmdDue (mail 0 [op] State.reset) 0 (· == op.toNat) = true ∧ cmdDue State.reset 1 (· == op.toNat) = false) ∧
    (∀ e ∈ [none, some 4], let s := mail 1 [3] { State.reset with fns := [(1, { Fn.reset 1 with vf := .ready, ephemeral := e })] }
      cmdDue s 1 (· == 3) = true ∧ (fnOf s 1).vf = .ready ∧ (fnOf s 1).ephemeral = e ∧ (fnOf s 1).policy = none) ∧
    (fnOf State.reset 1).data.wf = true ∧ (fnOf State.reset 1).vf = .idle ∧ freeKey State.reset 1 = some 1 ∧
    (let s := mail 1 [4, 0, 0, 0, 0, 0, 0, 0, 7] { State.reset with reports := [⟨1, 7, [1, 2]⟩] }
     s.reports.find? (fun r => r.fn = 1 && r.handle = (fnOf s 1).cmd.nat 8 8) = some ⟨1, 7, [1, 2]⟩) ∧
    bit ((fnOf (mail 0 [0x17, 1] State.reset) 0).cmd.nat 1 1) 0 = true ∧ bit ((fnOf (mail 0 [0x17] State.reset) 0).cmd.nat 1 1) 0 = false ∧
    commandRow (mail 1 [5] State.reset) 1 = .unknownCommand ∧ (fnOf (mail 1 [5] State.reset) 1).busy = true := by decide

/-- VF 1 in a state, alone on its partition or beside VF 41, which runs there. -/
def tenant (v : VfState) (running : Option Nat) (op : Byte) : State :=
  mail 0 [op, 1] { State.reset with fns := [(1, { Fn.reset 1 with vf := v }), (41, { Fn.reset 41 with vf := .running })], fes := [(0, { FrontEnd.reset with vf := running })] }

theorem witness_VirtualFunctionCommands :
    (∀ op ∈ ([0x10, 0x11, 0x12, 0x13, 0x14] : List Byte), cmdDue (tenant .ready none op) 0 (· == op.toNat) = true) ∧
    (let s := tenant .ready none 0x10
     (fnOf s 0).cmd.nat 1 1 = 1 ∧ (fnOf s 1).vf = .ready ∧ (feOf s (fnOf s 1).part).vf = none ∧ (feOf (tenant .ready (some 1) 0x10) 0).vf = some 1 ∧
     (feOf (tenant .paused (some 41) 0x10) 0).vf = some 41 ∧ fnGens s 1 = [] ∧ s.blobs = []) ∧
    (fnOf (tenant .idle none 0x10) 1).vf = .idle ∧ (fnOf (tenant .running (some 1) 0x11) 1).vf = .running ∧ (fnOf (tenant .paused none 0x12) 1).policy = none ∧
    (fnOf (tenant .evicted none 0x13) 1).vf = .evicted ∧
    pfNext State.reset = none ∧ pfNext { tenant .running (some 1) 0x10 with pfBusy := [(0, 1)] } = some (0, 1) ∧ fnDrained { tenant .running (some 1) 0x11 with pfBusy := [(1, 1)] } 1 = true ∧
    (let s := about (.of [1]) { tenant .running (some 1) 0x10 with ctxs := [(0, { context with halted := true })] }
     resumeDue s 1 = true ∧ heldGens s 1 = [0] ∧ s.matOps = [] ∧ s.cmds = [] ∧ resumeDue (tenant .running (some 1) 0x10) 1 = false) := by decide

def block (moveOk : Bool) : PartEntry := ⟨true, moveOk, 0, 5, 0, 0, 2, 1, 0, 0⟩

theorem witness_ModuleEvents :
    (let s (moveOk : Bool) (op arg n : Byte) := mail 0 [op, arg, n] { State.reset with parts := [(0, block moveOk)] }
     (∀ m ∈ [true, false], 1 ∈ slicesOf (s m 0x15 1 1) 0 ∧ 2 ∉ slicesOf (s m 0x15 1 2) 0 ∧ (partEntry (s m 0x15 1 1) 0).moveOk = m) ∧ freeSlice (s true 0x15 1 1) = some 2 ∧
     (fnOf (s true 0x16 0 47) 0).cmd.nat 2 2 = 47 ∧ (fnOf (s true 0x16 1 191) 0).cmd.nat 2 2 = 191 ∧ (fnOf (s true 0x16 0 47) 0).cmd.nat 4 60 = 0) ∧
    (let s (page : Nat) := about (.of [0]) { State.reset with moves := [(0, ⟨1, 2, page, true⟩)] }
     (∀ p ∈ [0, 16383, 16384], tabGet 0 (s p).moves = some ⟨1, 2, p, true⟩ ∧ physOf (s p) 1 ≠ 2 ∧ (s p).mem.wf = true ∧ (s p).sliceTab = [])) ∧
    (let on : List Byte := 1 :: List.replicate 63 0
     let off (n : Nat) : List Byte := List.replicate (64 * n) 0
     (on ++ off 39).length = 2560 ∧ anyClash (blockEntries (on ++ off 39)) = false ∧ (on ++ on ++ off 38).length = 2560 ∧
     anyClash (blockEntries (on ++ on ++ off 38)) = true ∧ (∀ h, State.reset.ownerHash = some h → h = 5) ∧
     (some 5 : Option Nat) ≠ some 6) ∧
    (anyClash [block true] = false ∧ anyClash [block true, block true] = true ∧ (List.replicate 40 (block true)).length = 40) ∧
    (let s := { State.reset with parts := [(0, block true)] }
     mayComeUp s 104 = true ∧ mayComeUp s 113 = false ∧ mayComeUp { s with fnrdyHi := BitVec.ofNat 64 (2 ^ 40) } 113 = true ∧ mayComeUp State.reset 104 = false) := by decide

/-- Addresses at the ends of the stores; a dirty sector; counts and clusters at the ends of their ranges. -/
theorem witness_ErrorEvents_arrays :
    1151 < 1152 ∧ 0xC0000 - 1 < 0xC0000 ∧ 64 * 4096 - 1 < 64 * 4096 ∧ ¬ 0xC0000 < 0xC0000 ∧ State.reset.launches = [] ∧
    ([⟨0, 3, 0, 0, 4, 0⟩] : List L2Line).any (fun x => x.pa == 450 / 128 && x.dirty.toNat.testBit (450 % 128 / 32)) = true ∧
    0x100 ≤ 0x898 ∧ 0x898 < 0x8A0 ∧ 0x898 % 8 = 0 ∧ ¬ 0x8A0 < 0x8A0 ∧ 47 < 48 ∧ State.reset.retiredClusters = [] ∧ State.reset.units = [] := by decide

/-- A host load in flight whose answer fails or is late, and the contexts that hold the PASID withdrawn, and none other. -/
theorem witness_ErrorEvents :
    (let s := asks 0 (10 ^ 9) fun q => { q with isLoad := true, host := true }
     (tabGet 7 s.reqs).map (fun q => q.host && q.isLoad && q.slot == some 0 && q.again.isNone && q.fills.isEmpty && q.outside.isEmpty && q.acq == 0 && q.fault.isNone) = some true ∧
     (seen s w0).run.pend.isEmpty = true ∧ s.reports.isEmpty = true ∧ tickEnd (tickOf 0 + Config.lostTicks) = 7 * 0x100000 + 6) ∧
    (hosting Cq.reset .nothing).ctxs.map (fun x => (x.1, x.2.pasid)) = [(0, 5)] ∧
    (let s := { asks 0 9 fun q => q with fills := [(8, ⟨0, 0, 0x10000000, 0x50000000, false, 30, 0, false⟩)], walks := [(9, ⟨w0, 0, 0x20000000, 1, 0, 30, none, 0⟩)] }
     (tabGet 7 s.reqs).isSome = true ∧ (tabGet 8 s.fills).isSome = true ∧ (tabGet 9 s.walks).isSome = true ∧ s.l2 = [] ∧
     (s.launches.all fun x => !x.2.rply) = true ∧ returnsLater s 1 0 = false) := by decide

/-! ## Encodings, steps and the machine -/

theorem witness_DecodeEncodeAgree : WellFormed (.add 119 0 127 1) ∧ WellFormed .ret ∧ WellFormed (.mov 31 0) ∧ (decode (encode (.add 1 2 3 0))).toBool = true := by decide

/-- An input that is due, an event that is due, neither; a condition; a group whose turn it is with an instruction, with an encoding that is none, and with a line missing. -/
theorem witness_StepRunsDecoded :
    (let x : Timed := ⟨0, .linkReturn, .nothing⟩
     firstDue [x] 0 = some x ∧ firstDue [⟨1, .linkReturn, .nothing⟩] 0 = none ∧ State.reset.inbox = [] ∧ State.reset.agenda = []) ∧
    conditionEvent State.reset = none ∧ nextIssuer State.reset = none ∧
    (conditionEvent (inState (.parked .next) one)).map (·.1) = some .runParkEnd ∧
    (let s := State.reset.withFetchWord 32 0x00808341
     conditionEvent s = none ∧ nextIssuer s = some w0 ∧ view s w0 = some (seen s w0) ∧
     (fetchBytes s w0 (seen s w0)).map (fun b => (decode b).toOption.map (·.1)) = some (some (.add 2 1 3 0))) ∧
    (let s := State.reset.withFetchWord 32 0x00000101
     (fetchBytes s w0 (seen s w0)).map (fun b => (decode b).toOption.map (·.1)) = some none) ∧
    (let s := withThread State.reset
     nextIssuer s = some w0 ∧ fetchBytes s w0 (seen s w0) = none) := by decide

/-- A state with a group in hand, one with none, and an agenda and an inbox that hold events only. -/
theorem witness_NoStepStops :
    (∀ x ∈ one.agenda ++ one.inbox ++ [(⟨0, .linkDown, .nothing⟩ : Timed)], wfErr x.i = some .noEncoding) ∧ one.cur = some w0 ∧ view one w0 = some (seen one w0) ∧
    WellFormed (.add 1 2 3 0) ∧ State.reset.cur = none := by decide

/-- The invariant holds at reset and where bytes are listed. -/
theorem witness_MemoryStaysCanonical : State.reset.mem.wf = true ∧ Memory.wf [(3, 1), (4, 255)] = true ∧ Memory.wf [(4, 1), (3, 1)] = false ∧ Memory.wf [(3, 0)] = false := by decide

end Sys2Proof.Tests
end

section
/-! PROOFS. Control and uniform instructions (ch. 08): an instruction that waits at issue, the completion of a uniform instruction,
the values of the uniform registers, and the markers that park. -/

namespace Sys2Proof

open Machine

/-! ## Issue -/

/-- An instruction that passes every check and whose effect is a delay comes to issue again (R173). -/
theorem Safety.Issues.waits {i : Instr} {s : State} {v : View} (h : Safety.Issues i s v) {own : State → View → Option Trap}
    {pre : State → View → Option Did} {effect : State → View → Did} {t : State} {n : Nat}
    (ho : own s v = none) (hp : pre s v = none) (he : effect s v = .wait t n) :
    issuePre i s own pre effect = .next (delayTo t v n) := by
  have hm : matrixMajor (majorOf i) = true →
      (coreOf s v.core).firstUse.isSome = false ∧ (coreOf s v.core).accown = some (unitGen s v.unit) :=
    fun m => ⟨by simp [(h.owner m).1], (h.owner m).2⟩
  simp only [issuePre, h.issuing, h.group, issueAt, Safety.arrives h.noMerge, issueAs, h.common, ho, h.slotFree, hp, h.unpoisoned,
    he, Bool.false_eq_true, if_false]
  rw [if_neg (by simp +contextual [hm]), if_neg (by simp +contextual [hm])]

/-! ## Completion of a uniform instruction -/

/-- An update of a group leaves the units. -/
theorem Safety.onlyGroup_units {s t : State} {g : Gid} (h : Safety.onlyGroup s t g) : t.units = s.units := by
  cases g with
  | warp c w => exact (congrArg State.units h.1 :)
  | kindle c k => exact (congrArg State.units h.1 :)

/-- A unit with one more uniform write to come, of an instruction that issues now (R232). -/
def withUniform (s : State) (v : View) (k : Nat) (x : DWord) (u : UnitSt) : UnitSt :=
  { u with kpend := u.kpend ++ [⟨s.now + kLat v, s.now, v.kc, k, x⟩] }

/-- A uniform result is a write to come of the unit, and none of the group (R232). -/
theorem writeK_eq (s : State) (v : View) (k : BitVec 6) (x : DWord) :
    writeK s v k x = pendWrites (modUnit s v.unit (withUniform s v k.toNat x)) v.gid (kLat v) [] := by
  simp only [writeK, pendK, pendWrites, List.map_nil, List.append_nil, modUnit_now]
  rfl

theorem view_modUnit (s : State) (u : Nat) (f : UnitSt → UnitSt) (g : Gid) : view (modUnit s u f) g = view s g := by
  cases g <;> rfl

theorem Safety.setsUniform_of {i : Instr} {s : State} {v : View} (hv : view s v.gid = some v) (k : BitVec 6) (x : DWord) :
    Safety.SetsUniform i s (advance i (writeK s v k x) v .next 0) v k.toNat x := by
  rw [writeK_eq]
  have r := Safety.retired_of (i := i) ((view_modUnit s v.unit (withUniform s v k.toNat x) v.gid).trans hv) (kLat v) [] false (fun _ => rfl)
  have hu := Safety.onlyGroup_units r.other
  exact ⟨hu, hu ▸ r.other, r.same, r.after⟩

/-- An instruction whose effect is one uniform result completes with it. -/
theorem Safety.Issues.setsUniform {i : Instr} {s : State} {v : View} (h : Safety.Issues i s v) {effect : State → View → Did}
    {k : BitVec 6} {x : DWord} (hx : exec i s = issue i s noTrap effect) (he : effect s v = .done (writeK s v k x) .next 0) :
    ∃ t, exec i s = .next t ∧ Safety.SetsUniform i s t v k.toNat x :=
  ⟨_, hx.trans (h.does rfl rfl he), Safety.setsUniform_of h.group k x⟩

theorem Safety.perUnit_of {i : Instr} {k : BitVec 6} {f : State → View → DWord}
    (hx : ∀ s, exec i s = issue i s noTrap (plain fun s v => writeK s v k (f s v))) : Safety.perUnit i k.toNat f :=
  fun s _ h => h.setsUniform (hx s) rfl

/-- A uniform word by another expression for it, in the states in which the instruction issues. -/
theorem Safety.perUnit_congr {i : Instr} {k : Nat} {f g : State → View → DWord} (hg : Safety.perUnit i k g)
    (hfg : ∀ s v, Safety.Issues i s v → f s v = g s v) : Safety.perUnit i k f :=
  fun s v h => (hfg s v h).symm ▸ hg s v h

/-! ## Values of the uniform instructions -/

/-- A shift to the left modulo 2^64 (R233). -/
theorem ofNat_mul_two_pow (x : DWord) (n : Nat) : BitVec.ofNat 64 (x.toNat * 2 ^ n) = x <<< n := by
  apply BitVec.eq_of_toNat_eq
  simp [Nat.shiftLeft_eq]

/-- The conditions of Table 8.4 in their order. -/
def kConds (x y : DWord) : List Bool :=
  [decide (x = y), decide (x ≠ y), decide (x.toInt < y.toInt), decide (x.toInt ≤ y.toInt), decide (x.toNat < y.toNat),
    decide (x.toNat ≤ y.toNat)]

theorem kConds_getElem? {c : Nat} (hc : c ≤ 5) (x y : DWord) : (kConds x y)[c]? = some (kCond c x y) := by
  interval_cases c <;> simp [kConds, kCond, BitVec.slt, BitVec.sle, BitVec.ult, BitVec.ule, bne, beq_eq_decide]

/-- `kcmp` gives 1 where the condition it names holds (R233). -/
theorem kConds_word {c : Nat} (hc : c ≤ 5) (x y : DWord) :
    (if (kConds x y)[c]? = some true then 1 else 0 : DWord) = if kCond c x y then 1 else 0 := by
  simp only [kConds_getElem? hc, Option.some.injEq]

/-- A value with its bits from `p` on for 16 bits replaced, as the parts above, in and below the field. -/
theorem replaceField_eq (x p n : Nat) :
    x - fld x p 16 * 2 ^ p + n * 2 ^ p = 2 ^ p * (2 ^ 16 * (x / 2 ^ (p + 16)) + n) + x % 2 ^ p := by
  have hx : x = 2 ^ p * (x / 2 ^ p) + x % 2 ^ p := (Nat.div_add_mod x (2 ^ p)).symm
  have hq : x / 2 ^ p = 2 ^ 16 * (x / 2 ^ (p + 16)) + fld x p 16 := by
    rw [Nat.pow_add, ← Nat.div_div_eq_div_mul]
    exact (Nat.div_add_mod _ _).symm
  rw [hq, Nat.mul_add] at hx
  rw [Nat.mul_add, Nat.mul_comm (fld x p 16), Nat.mul_comm n]
  omega

theorem testBit_replaceField {n : Nat} (hn : n < 2 ^ 16) (x p j : Nat) :
    (x - fld x p 16 * 2 ^ p + n * 2 ^ p).testBit j = if p ≤ j ∧ j < p + 16 then n.testBit (j - p) else x.testBit j := by
  rw [replaceField_eq, Nat.testBit_two_pow_mul_add _ (Nat.mod_lt _ (Nat.two_pow_pos p)), Nat.testBit_two_pow_mul_add _ hn]
  by_cases below : j < p
  · rw [if_pos below, if_neg (by omega), Nat.testBit_mod_two_pow, decide_eq_true below, Bool.true_and]
  · rw [if_neg below]
    by_cases inside : j - p < 16
    · rw [if_pos inside, if_pos (by omega)]
    · rw [if_neg inside, if_neg (by omega), Nat.testBit_div_two_pow]
      congr 1
      omega

/-- R235: `kli` replaces 16 bits and keeps the others. -/
theorem insert16_getLsbD (x : DWord) (sh : Nat) (n : BitVec 16) {j : Nat} (hj : j < 64) :
    (insert16 x sh n).getLsbD j = if 16 * sh ≤ j ∧ j < 16 * sh + 16 then n.getLsbD (j - 16 * sh) else x.getLsbD j := by
  rw [insert16, BitVec.getLsbD_ofNat, decide_eq_true hj, Bool.true_and, testBit_replaceField n.isLt]
  rfl

/-! ## Words moved between lane and uniform registers -/

/-- `movk` gives every active lane the low word of a uniform register (R234). -/
theorem movk_completes {k : BitVec 6} {x : BitVec 7} {w : BitVec 1} {s : State} {v : View} (h : Safety.Issues (.movk k x w) s v) :
    Safety.Completes (.movk k x w) s v (kLat v) (Safety.words v x.toNat fun _ => (readK s v.unit k.toNat).setWidth 32) :=
  h.word rfl rfl rfl rfl

/-- `movk.h` gives every active lane the high word (R234). -/
theorem movkH_completes {k : BitVec 6} {x : BitVec 7} {w : BitVec 1} {s : State} {v : View} (h : Safety.Issues (.movkH k x w) s v) :
    Safety.Completes (.movkH k x w) s v (kLat v)
      (Safety.words v x.toNat fun _ => (readK s v.unit k.toNat >>> 32).setWidth 32) := by
  have high : ((readK s v.unit k.toNat) >>> 32).setWidth 32 = BitVec.ofNat 32 ((readK s v.unit k.toNat).toNat / 2 ^ 32) := by
    apply BitVec.eq_of_toNat_eq
    simp [Nat.shiftRight_eq_div_pow]
  rw [high]
  exact h.word rfl rfl rfl rfl

/-- What both forms of `kld` do: the stored word of a lane extended by zeros, or POISON where that word is poisoned (R234, R430). -/
theorem loadLaneWord_spec {i : Instr} {k : BitVec 6} {x lane : Nat} {s : State} {v : View} (h : Safety.Issues i s v)
    (hx : exec i s = issue i s noTrap (loadLaneWord k x lane)) :
    (poisoned s v [(x, 1)] [lane] = [] →
      ∃ t, exec i s = .next t ∧ Safety.SetsUniform i s t v k.toNat ((storedWord s v x lane).setWidth 64)) ∧
    (poisoned s v [(x, 1)] [lane] ≠ [] → ∃ aux addr, exec i s = .next (trapNow s v (precise v 0x17 aux addr))) := by
  constructor
  · intro sound
    refine h.setsUniform hx ?_
    simp only [loadLaneWord, sound, BitVec.ofNat_toNat]
  · intro bad
    obtain ⟨⟨l, a⟩, r, hr⟩ := List.exists_cons_of_ne_nil bad
    refine ⟨_, _, hx.trans (h.traps rfl rfl (t := precise v cPoison (maskOf [l]).toNat a) ?_)⟩
    simp only [loadLaneWord, hr]

/-- Settles O11: each instruction leaves one uniform result, whose value is the one the model computes; `kshl` and `kcmp` by the
arithmetic of a shift and the table of conditions, `kli` bit by bit. -/
theorem uniformResults : Obligations.UniformResults := by
  refine ⟨fun i b a d c n h w => ⟨?kadd, ?ksub, ?kmov, ?kmovImm, ?kshl, ?kand, ?kor, ?kcmp, ?kli, ?bits⟩,
    fun k x n w => ⟨fun _ _ h => movk_completes h, fun _ _ h => movkH_completes h, ?_⟩⟩
  case kadd => exact Safety.perUnit_of fun _ => rfl
  case ksub => exact Safety.perUnit_of fun _ => rfl
  case kmov => exact Safety.perUnit_of fun _ => rfl
  case kmovImm => exact Safety.perUnit_of fun _ => rfl
  case kshl => exact Safety.perUnit_congr (Safety.perUnit_of fun _ => rfl) fun _ _ _ => ofNat_mul_two_pow _ _
  case kand => exact Safety.perUnit_of fun _ => rfl
  case kor => exact Safety.perUnit_of fun _ => rfl
  case kcmp =>
    refine Safety.perUnit_congr (Safety.perUnit_of fun _ => rfl) fun s v hi => ?_
    have hc : c.toNat ≤ 5 := by
      simpa [WellFormed, wfErr, kcmpCond, need] using hi.wellFormed
    exact kConds_word hc _ _
  case kli => exact Safety.perUnit_of fun _ => rfl
  case bits => exact fun x j hj => insert16_getLsbD x h.toNat n hj
  exact ⟨fun _ _ h => loadLaneWord_spec h rfl, fun _ _ h => loadLaneWord_spec h rfl⟩

/-! ## Markers -/

/-- An instruction that passes every check and its own tests goes on as its effect says. -/
theorem Safety.Issues.goes {i : Instr} {s : State} {v : View} (h : Safety.Issues i s v) {own : State → View → Option Trap}
    {effect : State → View → Did} {t : State} {act : ParkAct} {idle : Nat} (hx : exec i s = issue i s own effect)
    (ho : own s v = none) (he : effect s v = .done t act idle) : Safety.Goes i s v t act idle :=
  hx.trans (h.does ho rfl he)

/-- R214: the warps a `yield` lets go first are those of its quadrant that are ready by now. -/
theorem mem_readyBeside {s : State} {v : View} {i t : Nat} : (i, t) ∈ readyBeside s v ↔
    ∃ x, (i, x) ∈ (coreOf s v.core).warps ∧ i % 4 = v.wslot % 4 ∧ x.run.status = .ready t ∧ t ≤ s.now := by
  simp only [readyBeside, List.mem_filterMap, Prod.exists]
  constructor
  · rintro ⟨j, x, hx, hj⟩
    split at hj
    · next u hu =>
      split at hj
      · next hc =>
        simp only [Bool.and_eq_true, decide_eq_true_eq] at hc
        obtain ⟨rfl, rfl⟩ : j = i ∧ u = t := by simpa using hj
        exact ⟨x, hx, hc.1, hu, hc.2⟩
      · cases hj
    · cases hj
  · rintro ⟨x, hx, hq, hr, ht⟩
    exact ⟨i, x, hx, by simp [hr, hq, ht]⟩

/-- R215: legal condition words are no trap. -/
theorem waitTrap_of_legal {ka : Nat} {s : State} {v : View}
    (legal : ∀ i < 4, condTrap s v ((readK s v.unit ka).toNat / 2 ^ (16 * i) % 2 ^ 16) = none) : waitTrap ka s v = none := by
  rw [waitTrap, Option.map_eq_none_iff, List.findSome?_eq_none_iff]
  exact fun i hi => legal i (List.mem_range.mp hi)

/-- `rfm` parks where staging has room for its threads, and waits where it has not (R173, R209). -/
theorem rfm_parks_or_waits {o : BitVec 16} {live : BitVec 7} {s : State} {v : View} (h : Safety.Issues (.rfm o live) s v) :
    (stagingRoom s v.core v.act.length = true → Safety.Goes (.rfm o live) s v s (.rfm live.toNat (targetOf s v o)) 0) ∧
    (stagingRoom s v.core v.act.length = false → Safety.Waits (.rfm o live) s v) := by
  have hx : exec (.rfm o live) s = execRfm o live s := rfl
  exact ⟨fun room => h.goes hx rfl (if_pos room), fun full => hx.trans (h.waits rfl rfl (if_neg (by simp [full])))⟩

/-- Settles O17: each marker's effect at issue is its park, from the equation of its meaning. -/
theorem markersPark : Obligations.MarkersPark := by
  intro n w m o live b a d s v
  refine ⟨?nop, ?trl, ?exit, ?yield, rfm_parks_or_waits, ?waitAny, ?waitAll⟩
  case nop => exact fun h => h.goes rfl rfl rfl
  case trl => exact fun h => h.goes rfl rfl rfl
  case exit => exact fun h => h.goes rfl rfl rfl
  case yield => exact fun h => ⟨readyBeside s v, h.goes rfl rfl rfl, fun _ _ => mem_readyBeside⟩
  case waitAny => exact fun h legal => h.goes rfl (waitTrap_of_legal legal) rfl
  case waitAll => exact fun h legal => h.goes rfl (waitTrap_of_legal legal) rfl

end Sys2Proof
end

section
/-! PROOFS. Bit functions of the lanes (ch. 09): the counts, the reversal, the fields that `bfe` and `bfi` take and replace; and the
trap of `sel` at a poisoned old word. -/

namespace Sys2Proof

open Machine

/-! ## Counts and reversal (R243) -/

/-- `clz`: the highest one bit of a word stands just below its leading zeros. -/
theorem clzWord_spec (x : Word) :
    ∃ n ≤ 32, clzWord x = BitVec.ofNat 32 n ∧ x.toNat < 2 ^ (32 - n) ∧ (n < 32 → 2 ^ (31 - n) ≤ x.toNat) := by
  by_cases zero : x = 0
  · exact ⟨32, le_rfl, by simp [clzWord, zero], by simp [zero], fun h => absurd h (lt_irrefl _)⟩
  · have pos : x.toNat ≠ 0 := fun h => zero (BitVec.eq_of_toNat_eq h)
    have top : x.toNat.log2 < 32 := (Nat.log2_lt pos).mpr x.isLt
    refine ⟨31 - x.toNat.log2, by omega, if_neg zero, ?_, fun _ => ?_⟩
    · rw [show 32 - (31 - x.toNat.log2) = x.toNat.log2 + 1 by omega]
      exact Nat.lt_log2_self
    · rw [show 31 - (31 - x.toNat.log2) = x.toNat.log2 by omega]
      exact Nat.log2_self_le pos

theorem popcWord_eq_countP (x : Word) : popcWord x = BitVec.ofNat 32 ((List.range 32).countP fun i => x.getLsbD i) := by
  rw [List.countP_eq_length_filter]
  rfl

/-- The low `n` bits of a number in the opposite order. -/
def revBits (x : Nat) : Nat → Nat
  | 0 => 0
  | n + 1 => Nat.bit (x.testBit n) (revBits x n)

theorem testBit_revBits (x : Nat) {n i : Nat} (hi : i < n) : (revBits x n).testBit (n - 1 - i) = x.testBit i := by
  induction n with
  | zero => exact absurd hi (Nat.not_lt_zero i)
  | succ n ih =>
    rw [revBits]
    rcases Nat.lt_succ_iff_lt_or_eq.mp hi with below | rfl
    · rw [show n + 1 - 1 - i = n - 1 - i + 1 by omega, Nat.testBit_bit_succ, ih below]
    · rw [Nat.add_sub_cancel, Nat.sub_self, Nat.testBit_bit_zero]

/-- What `brev` has gathered after `n` bits: their reversal, at the top of the word. -/
theorem brev_gathered (x : Nat) {n : Nat} (hn : n ≤ 32) :
    (List.range n).foldl (fun r i => if x.testBit i then r + 2 ^ (31 - i) else r) 0 = 2 ^ (32 - n) * revBits x n := by
  induction n with
  | zero => rfl
  | succ n ih =>
    rw [List.range_succ, List.foldl_append, ih (by omega), revBits, Nat.bit_val, show 32 - n = 31 - n + 1 by omega,
      show 32 - (n + 1) = 31 - n by omega, Nat.pow_succ]
    cases hb : x.testBit n <;> simp [hb, Nat.mul_add, Nat.mul_assoc]

theorem brevWord_eq (x : Word) : brevWord x = BitVec.ofNat 32 (revBits x.toNat 32) := by
  rw [brevWord, brev_gathered x.toNat le_rfl, Nat.sub_self, Nat.pow_zero, Nat.one_mul]

theorem brevWord_getLsbD (x : Word) {i : Nat} (hi : i < 32) : (brevWord x).getLsbD (31 - i) = x.getLsbD i := by
  rw [brevWord_eq, BitVec.getLsbD_ofNat, decide_eq_true (by omega), Bool.true_and]
  exact testBit_revBits x.toNat hi

/-! ## Fields (R244) -/

theorem fieldPos_eq (y : Word) : fieldPos y = y.toNat % 32 := by
  simp [fieldPos, fld]

theorem fieldLen_eq (y : Word) : fieldLen y = min (y.toNat / 2 ^ 8 % 64) (32 - fieldPos y) := rfl

theorem fld_lt (x p n : Nat) : fld x p n < 2 ^ n := Nat.mod_lt _ (Nat.two_pow_pos n)

theorem testBit_fld (x p n i : Nat) : (fld x p n).testBit i = (decide (i < n) && x.testBit (p + i)) := by
  rw [fld, Nat.testBit_mod_two_pow, Nat.testBit_div_two_pow, Nat.add_comm]

/-- The sum of the bits below a field, those put into it and those above it: R244's `bfi` at every width. -/
theorem testBit_insertField (z x p n i : Nat) :
    (fld z 0 p + fld x 0 n * 2 ^ p + z / 2 ^ (p + n) * 2 ^ (p + n)).testBit i =
      if p ≤ i ∧ i < p + n then x.testBit (i - p) else z.testBit i := by
  have parts : fld z 0 p + fld x 0 n * 2 ^ p + z / 2 ^ (p + n) * 2 ^ (p + n) =
      2 ^ p * (2 ^ n * (z / 2 ^ (p + n)) + fld x 0 n) + fld z 0 p := by
    rw [Nat.pow_add]
    ring
  rw [parts, Nat.testBit_two_pow_mul_add _ (fld_lt z 0 p), Nat.testBit_two_pow_mul_add _ (fld_lt x 0 n), testBit_fld, testBit_fld,
    Nat.testBit_div_two_pow, Nat.zero_add, Nat.zero_add]
  by_cases below : i < p
  · rw [if_pos below, if_neg (by omega), decide_eq_true below, Bool.true_and]
  · rw [if_neg below]
    by_cases inside : i - p < n
    · rw [if_pos inside, if_pos (by omega), decide_eq_true inside, Bool.true_and]
    · rw [if_neg inside, if_neg (by omega), show i - p - n + (p + n) = i by omega]

theorem bfiWord_getLsbD (z x y : Word) {i : Nat} (hi : i < 32) :
    (bfiWord z x y).getLsbD i =
      if fieldPos y ≤ i ∧ i < fieldPos y + fieldLen y then x.getLsbD (i - fieldPos y) else z.getLsbD i := by
  rw [bfiWord, BitVec.getLsbD_ofNat, decide_eq_true hi, Bool.true_and, testBit_insertField]
  rfl

/-- A number of `n` bits extended by its sign to a word. -/
theorem ofNat_wrap_sx {n : Nat} (hn : 0 < n) (f : Nat) :
    BitVec.ofNat 32 (wrap 32 (sx n f)) = (BitVec.ofNat n f).signExtend 32 := by
  have value : sx n f = (BitVec.ofNat n f).toInt := by
    rw [BitVec.toInt_eq_toNat_cond, BitVec.toNat_ofNat, sx]
    obtain ⟨m, rfl⟩ : ∃ m, n = m + 1 := ⟨n - 1, by omega⟩
    rw [Nat.add_sub_cancel, Nat.pow_succ]
    split <;> split <;> omega
  rw [BitVec.signExtend, value]
  apply BitVec.eq_of_toNat_eq
  rw [BitVec.toNat_ofInt, BitVec.toNat_ofNat, wrap, Nat.mod_eq_of_lt (by omega)]

theorem bfeWord_getLsbD (x y : Word) {i : Nat} (hi : i < 32) :
    (bfeWord x y).getLsbD i =
      if i < fieldLen y then x.getLsbD (fieldPos y + i)
      else y.getLsbD 16 && decide (0 < fieldLen y) && x.getLsbD (fieldPos y + fieldLen y - 1) := by
  have sign : bit y.toNat 16 = y.getLsbD 16 := (Nat.testBit_eq_decide_div_mod_eq ..).symm
  simp only [bfeWord, sign]
  rcases Nat.eq_zero_or_pos (fieldLen y) with empty | nonempty
  · simp [empty]
  rw [if_neg nonempty.ne', decide_eq_true nonempty, Bool.and_true]
  cases y.getLsbD 16 with
  | false =>
    rw [if_neg Bool.false_ne_true, BitVec.getLsbD_ofNat, testBit_fld, decide_eq_true hi]
    by_cases inside : i < fieldLen y <;> simp [inside, BitVec.testBit_toNat]
  | true =>
    have last : fieldPos y + (fieldLen y - 1) = fieldPos y + fieldLen y - 1 := by omega
    rw [if_pos rfl, ofNat_wrap_sx nonempty, BitVec.getLsbD_signExtend, BitVec.msb_eq_getLsbD_last, BitVec.getLsbD_ofNat,
      BitVec.getLsbD_ofNat, testBit_fld, testBit_fld, decide_eq_true hi, last]
    by_cases inside : i < fieldLen y <;> simp [inside, nonempty, BitVec.testBit_toNat]

/-- Settles O2: both instructions complete by the equation of their meaning, and the words are compared bit by bit. -/
theorem bitFunctions : Obligations.BitFunctions := by
  refine ⟨fun b a d w => ⟨?bfe, ?bfi⟩, fun x y z => ⟨clzWord_spec x, popcWord_eq_countP x, fun i hi => brevWord_getLsbD x hi, ?fields⟩⟩
  case bfe => exact Safety.perLane_of (fun _ => rfl) (fun _ _ => rfl) (fun _ _ => rfl) (fun _ _ => rfl) fun _ _ _ => rfl
  case bfi => exact Safety.perLane_of (fun _ => rfl) (fun _ _ => rfl) (fun _ _ => rfl) (fun _ _ => rfl) fun _ _ _ => rfl
  case fields =>
    simp only [← fieldPos_eq, ← fieldLen_eq]
    exact ⟨fun i hi => bfiWord_getLsbD z x y hi, fun i hi => bfeWord_getLsbD x y hi⟩

/-! ## Selection at a poisoned word (R249, R430) -/

/-- Where the operands are sound, what the test of step 9 answers comes as the effect of an instruction without that test would. -/
theorem Safety.Issues.preAsEffect {i : Instr} {s : State} {v : View} (h : Safety.Issues i s v) {own : State → View → Option Trap}
    {pre : State → View → Option Did} {effect : State → View → Did} {d : Did} (hp : pre s v = some d) :
    issuePre i s own pre effect = issue i s own fun _ _ => d := by
  simp only [issue, issuePre, h.issuing, h.group, issueAt, Safety.arrives h.noMerge, issueAs, hp, h.unpoisoned]

/-- A `sel` that keeps a poisoned old word of an active lane is a trap. -/
theorem sel_traps {q : BitVec 3} {a d : BitVec 7} {w : BitVec 1} {s : State} {v : View} (h : Safety.Issues (.sel q a d w) s v)
    {t : Trap} (ht : selPoison q.toNat a.toNat d.toNat s v = some (.trap t)) :
    exec (.sel q a d w) s = .next (trapNow s v t) :=
  (h.preAsEffect (i := .sel q a d w) ht).trans (h.traps rfl rfl rfl)

namespace Tests

/-- `one` with the word of lane 0 of x2 poisoned; p0 of the lane is 0. -/
def oldPoisoned : State := onCore (fun k => { k with storePoison := [regAddr (seen one w0).page 2 0] }) one

/-- `sel x2, x1, p0` issues there: x1, its source, is sound. -/
theorem sel_issues_oldPoisoned : Safety.Issues (.sel 0 1 2 0) oldPoisoned (seen oldPoisoned w0) := issues_of (by decide)

/-- The lane keeps its old word, whose read raises POISON (R430). -/
theorem selPoison_oldPoisoned :
    selPoison 0 1 2 oldPoisoned (seen oldPoisoned w0) = some (.trap (precise (seen oldPoisoned w0) 0x17 1 256)) := by decide

end Tests

open Tests in
/-- Refutes O1: `Safety.Issues` asks for a sound xa alone, and a `sel` of a lane whose predicate is 0 reads the old xd, so in
`oldPoisoned` it is the trap POISON, which leaves the run of the group without one more instruction. -/
theorem not_integerResults : ¬ Obligations.IntegerResults := by
  intro ⟨_, _, selects⟩
  obtain ⟨t, completes, retired⟩ := (selects 0 1 2 0 0).1 _ _ sel_issues_oldPoisoned
  obtain rfl := Host.Outcome.next.inj ((sel_traps sel_issues_oldPoisoned selPoison_oldPoisoned).symm.trans completes)
  have count := congrArg (Option.map fun v : View => v.run.count) retired.after
  exact absurd count (by decide)

end Sys2Proof
end

section
/-! Instructions and their bytes (R170, R171): what the decoder answers, and that it undoes the encoder. -/

namespace Sys2Proof

open Machine

/-! ## The decoder and the encoder (R170, R171) -/

/-- Every instruction decodes from its bytes: one case for each row of the opcode table. -/
theorem Laws.roundTrip (i : Instr) : Laws.RoundTrip.Statement i := by
  open Laws in
  exact Instr.rec (motive := RoundTrip.Statement)
    RoundTrip.mov RoundTrip.li5 RoundTrip.add16 RoundTrip.sub16 RoundTrip.mul16 RoundTrip.and16 RoundTrip.or16 RoundTrip.xor16
    RoundTrip.shl16 RoundTrip.srl16 RoundTrip.sra16 RoundTrip.fadd16 RoundTrip.fsub16 RoundTrip.fmul16 RoundTrip.fmax16
    RoundTrip.fmin16 RoundTrip.nop RoundTrip.exit RoundTrip.yield RoundTrip.ret RoundTrip.trl RoundTrip.rjn RoundTrip.brk
    RoundTrip.halt RoundTrip.br RoundTrip.brp RoundTrip.brpF RoundTrip.call RoundTrip.brx RoundTrip.callx RoundTrip.rfm
    RoundTrip.waitAny RoundTrip.waitAll RoundTrip.barArv RoundTrip.barWt RoundTrip.barSyn RoundTrip.gbar RoundTrip.spawn
    RoundTrip.jdec RoundTrip.cancel RoundTrip.rdsr RoundTrip.wrsr RoundTrip.mode RoundTrip.trap RoundTrip.tret RoundTrip.kadd
    RoundTrip.ksub RoundTrip.kmov RoundTrip.kmovImm RoundTrip.kshl RoundTrip.kand RoundTrip.kor RoundTrip.kcmp RoundTrip.kld
    RoundTrip.kldLane RoundTrip.movk RoundTrip.movkH RoundTrip.kli RoundTrip.add RoundTrip.sub RoundTrip.and RoundTrip.or
    RoundTrip.xor RoundTrip.andn RoundTrip.min RoundTrip.max RoundTrip.shl RoundTrip.srl RoundTrip.sra RoundTrip.rol RoundTrip.mul
    RoundTrip.mulh RoundTrip.mulhn RoundTrip.abs RoundTrip.addi RoundTrip.andi RoundTrip.ori RoundTrip.xori RoundTrip.shli
    RoundTrip.srli RoundTrip.srai RoundTrip.li RoundTrip.lih RoundTrip.icmpEq RoundTrip.icmpNe RoundTrip.icmpLt RoundTrip.icmpLe
    RoundTrip.icmpLtn RoundTrip.icmpLen RoundTrip.sel RoundTrip.pand RoundTrip.por RoundTrip.pxor RoundTrip.pnot RoundTrip.pmov
    RoundTrip.clz RoundTrip.popc RoundTrip.brev RoundTrip.bfe RoundTrip.bfi RoundTrip.lea RoundTrip.fadd RoundTrip.fsub
    RoundTrip.fmul RoundTrip.fmin RoundTrip.fmax RoundTrip.fabs RoundTrip.fneg RoundTrip.fcmp RoundTrip.ffma RoundTrip.ffms
    RoundTrip.fnma RoundTrip.hadd2 RoundTrip.hmul2 RoundTrip.hfma2 RoundTrip.badd2 RoundTrip.bmul2 RoundTrip.bfma2 RoundTrip.cvt
    RoundTrip.exp2 RoundTrip.log2 RoundTrip.rcp RoundTrip.rsqrt RoundTrip.sqrt RoundTrip.tanh RoundTrip.lgs RoundTrip.gactLgs
    RoundTrip.gactTanh RoundTrip.gactAlgs RoundTrip.frnd RoundTrip.fcls RoundTrip.fexp RoundTrip.fscl RoundTrip.shflIdx
    RoundTrip.shflUp RoundTrip.shflDown RoundTrip.shflXor RoundTrip.voteAny RoundTrip.voteAll RoundTrip.voteBal RoundTrip.voteCnt
    RoundTrip.voteMatch RoundTrip.lredAdd RoundTrip.lredMax RoundTrip.lredMin RoundTrip.lscanAddInc RoundTrip.lscanAddExc
    RoundTrip.lbc RoundTrip.ld RoundTrip.st RoundTrip.ldk RoundTrip.stk RoundTrip.atomAdd RoundTrip.atomMin RoundTrip.atomMax
    RoundTrip.atomAnd RoundTrip.atomOr RoundTrip.atomXor RoundTrip.atomXchg RoundTrip.atomCas RoundTrip.fenceAcq RoundTrip.fenceRel
    RoundTrip.fenceAr RoundTrip.fenceSc RoundTrip.tget RoundTrip.tset RoundTrip.tdrn RoundTrip.tstat RoundTrip.cpy RoundTrip.gth
    RoundTrip.sct RoundTrip.collSet RoundTrip.collRun RoundTrip.collStat RoundTrip.pfi RoundTrip.pfd RoundTrip.dsc RoundTrip.lstu
    RoundTrip.wbk RoundTrip.ownreg RoundTrip.ownclr RoundTrip.rga RoundTrip.omld RoundTrip.mld RoundTrip.mswp RoundTrip.mswpRel
    RoundTrip.mst RoundTrip.mdr RoundTrip.mdrRed RoundTrip.accget RoundTrip.accgetW RoundTrip.accput RoundTrip.accz RoundTrip.accld
    RoundTrip.accst RoundTrip.tmm RoundTrip.tmmRed RoundTrip.sbeg RoundTrip.scmt RoundTrip.sdis RoundTrip.rmax RoundTrip.rsum
    RoundTrip.rvar RoundTrip.rsmx RoundTrip.rnorm RoundTrip.illegalEncoding RoundTrip.ejectionHandoverEnd
    RoundTrip.rejoinWritebackEnd RoundTrip.rejoinWindowClose RoundTrip.ejlim RoundTrip.binAged RoundTrip.binDraw
    RoundTrip.waitConditionMet RoundTrip.waitTimeout RoundTrip.runParkEnd RoundTrip.fatalStop RoundTrip.dumpWrite
    RoundTrip.joinDecrement RoundTrip.unitPlace RoundTrip.compactionMove RoundTrip.compactionMoveEnd RoundTrip.demandFetch
    RoundTrip.icacheFillLand RoundTrip.translationWalkEnd RoundTrip.pageRequestResponse RoundTrip.loadReturn RoundTrip.storeAck
    RoundTrip.atomicComplete RoundTrip.requestLost RoundTrip.engineReadsBegin RoundTrip.engineTransferEnd
    RoundTrip.completionWriteAck RoundTrip.tileFillEnd RoundTrip.tileDrainEnd RoundTrip.collSetResult RoundTrip.collSetMemberTimeout
    RoundTrip.fabricReduce RoundTrip.collRunComplete RoundTrip.fabricMessageReceive RoundTrip.stationaryLoadComplete
    RoundTrip.planeSwap RoundTrip.streamComplete RoundTrip.drainComplete RoundTrip.rowStatComplete RoundTrip.lehrStep
    RoundTrip.budgetRetry RoundTrip.firstUseTrapReturn RoundTrip.elasticGrant RoundTrip.elasticRefuse RoundTrip.tailWrite
    RoundTrip.packetTake RoundTrip.pktLaunch RoundTrip.pktGraphSubmit RoundTrip.pktSignalSet RoundTrip.pktSignalClear
    RoundTrip.pktSignalPhase RoundTrip.pktSignalNothing RoundTrip.pktCopy RoundTrip.pktCodeMove RoundTrip.pktCancel
    RoundTrip.pktQuery RoundTrip.packetComplete RoundTrip.evrbWrite RoundTrip.invPage RoundTrip.invPasid RoundTrip.invFunction
    RoundTrip.invalidationDone RoundTrip.atsInvalidationRequest RoundTrip.cqdEnable RoundTrip.cqdDisable RoundTrip.ctxCreate
    RoundTrip.ctxDestroy RoundTrip.contextDestroyDone RoundTrip.fwdRemove RoundTrip.routeWrite RoundTrip.routeTakeEffect
    RoundTrip.registerWrite RoundTrip.policy RoundTrip.attest RoundTrip.keys RoundTrip.openCmd RoundTrip.sched RoundTrip.pause
    RoundTrip.evict RoundTrip.resume RoundTrip.contextResume RoundTrip.kill RoundTrip.move RoundTrip.sliceMoveComplete
    RoundTrip.retireCluster RoundTrip.retireChannelPair RoundTrip.counts RoundTrip.countsClear RoundTrip.unknownCommand
    RoundTrip.crucibleCommandDone RoundTrip.moduleReset RoundTrip.functionReady RoundTrip.storeUncorrectable RoundTrip.cacheHbmError
    RoundTrip.correctedError RoundTrip.clusterControlError RoundTrip.hostReadFailure RoundTrip.hostCompletionTimeout
    RoundTrip.linkDown RoundTrip.linkReturn RoundTrip.failedPostedWrite RoundTrip.atsTranslationCompletion RoundTrip.movePageNew i

/-- What a list of rows answers has the length that all of them have. -/
theorem pickRow_length {w n : Nat} {i : Instr} {l : List (List (Nat × Nat × Nat) × Instr)}
    (h : pickRow w l = some i) (all : (l.all fun r => instrLength r.2 == n) = true) : instrLength i = n := by
  induction l with
  | nil => simp [pickRow] at h
  | cons r rs ih =>
    obtain ⟨fx, j⟩ := r
    simp only [List.all_cons, Bool.and_eq_true, beq_iff_eq] at all
    rw [pickRow] at h
    split at h
    · obtain rfl := Option.some.inj h
      exact all.1
    · exact ih h all.2

theorem row16_length {w : Nat} {i : Instr} (h : row16 w = some i) : instrLength i = 2 := pickRow_length h rfl

/-- Every allocated major holds rows of four bytes alone (R171). -/
theorem row32_length {w : Nat} {i : Instr} (h : row32 w = .ok i) : instrLength i = 4 := by
  have answered {o : Option Instr} (h : (match o with | some j => Except.ok j | none => .error DecodeErr.reserved) = .ok i)
      (all : ∀ j, o = some j → instrLength j = 4) : instrLength i = 4 := by
    cases o with
    | none => cases h
    | some j => exact all i (congrArg some (Except.ok.inj h))
  unfold row32 at h
  dsimp only at h
  split at h
  case h_53 => cases h
  case h_13 | h_16 | h_25 | h_33 | h_34 => exact Except.ok.inj h ▸ rfl
  all_goals exact answered h fun _ e => pickRow_length e rfl

theorem accept_eq_ok {i j : Instr} (h : accept i = .ok j) : WellFormed j ∧ j = i := by
  unfold accept at h
  split at h
  · rename_i e
    obtain rfl := Except.ok.inj h
    exact ⟨e, rfl⟩
  · cases h

theorem decode16_eq_ok {w : Nat} {i : Instr} (h : decode16 w = .ok i) : WellFormed i ∧ instrLength i = 2 := by
  unfold decode16 at h
  split at h
  · cases h
  · split at h
    · rename_i j e
      obtain ⟨wf, rfl⟩ := accept_eq_ok h
      exact ⟨wf, row16_length e⟩
    · cases h

theorem decode32_eq_ok {w : Nat} {i : Instr} (h : decode32 w = .ok i) : WellFormed i ∧ instrLength i = 4 := by
  unfold decode32 at h
  split at h
  · rename_i j e
    obtain ⟨wf, rfl⟩ := accept_eq_ok h
    exact ⟨wf, row32_length e⟩
  · cases h

/-- What the decoder answers is well formed, and it has taken the bytes of its length: two for a first halfword whose bit 0 is
clear, four else. -/
theorem decode_eq_ok {b rest : List Byte} {i : Instr} (h : decode b = .ok (i, rest)) :
    WellFormed i ∧ b.length = instrLength i + rest.length := by
  unfold decode at h
  split at h
  · rename_i b0 b1 r
    split at h
    · cases e : decode16 (leNat [b0, b1]) with
      | error => simp [e] at h
      | ok j =>
        simp only [e, Except.ok.injEq, Prod.mk.injEq] at h
        obtain ⟨rfl, rfl⟩ := h
        obtain ⟨wf, len⟩ := decode16_eq_ok e
        exact ⟨wf, by simp only [List.length_cons, len]; omega⟩
    · split at h
      · rename_i b2 b3 r'
        cases e : decode32 (leNat [b0, b1, b2, b3]) with
        | error => simp [e] at h
        | ok j =>
          simp only [e, Except.ok.injEq, Prod.mk.injEq] at h
          obtain ⟨rfl, rfl⟩ := h
          obtain ⟨wf, len⟩ := decode32_eq_ok e
          exact ⟨wf, by simp only [List.length_cons, len]; omega⟩
      · cases h
  · cases h

/-- Settles O56: the round trip of each row, what the decoder can answer, and injectivity from the round trip. -/
theorem decodeEncodeAgree : Obligations.DecodeEncodeAgree := by
  refine ⟨fun i rest wf => Laws.roundTrip i wf rest, fun _ _ _ => decode_eq_ok, fun i j hi hj same => ?_⟩
  have back := Laws.roundTrip i hi []
  rw [same, Laws.roundTrip j hj []] at back
  exact (Prod.mk.inj (Except.ok.inj back)).1.symm

end Sys2Proof
end

section
/-! A step and what it runs (R170-R173, log 3): encodings are issued, events answer a next state, and everything a step runs is
an event or the instruction of a group in hand. -/

namespace Sys2Proof

open Machine

/-! ## Which instructions are events -/

theorem first_cons (c : Check) (r : List Check) : first (c :: r) = c.or (first r) := by
  cases c <;> rfl

theorem need_eq_some {ok : Bool} {e d : IllFormed} : need ok e = some d ↔ ok = false ∧ e = d := by
  cases ok <;> simp [need]

/-- Only a row without bits is ill-formed for having none: every other row breaks a limit of its own. -/
theorem instrLength_of_noEncoding {i : Instr} (h : wfErr i = some .noEncoding) : instrLength i = 0 := by
  by_contra encoded
  cases i <;> simp only [instrLength, not_true_eq_false] at encoded
  all_goals
    simp [wfErr, first_cons, need_eq_some, ite_eq_iff, rjnTag, pair, quad, live, barCount, srRead, srWrite, cvtTypes, fcmpCond, kcmpCond, frndMode,
      redType, sizeMax, sized, tmpSlot, scope, wide, casRegs, block, rgaReg, granules, groups, redMaps, shadow, rowSource, first] at h

theorem noEncoding_of_instrLength {i : Instr} (h : instrLength i = 0) : wfErr i = some .noEncoding := by
  cases i <;> simp only [instrLength, OfNat.ofNat_ne_zero] at h
  all_goals rfl

/-- An event answers a next state. -/
theorem exec_event {i : Instr} (s : State) (h : wfErr i = some .noEncoding) : ∃ t, exec i s = .next t := by
  have event := instrLength_of_noEncoding h
  cases i <;> simp only [instrLength, OfNat.ofNat_ne_zero] at event
  all_goals
    dsimp only [exec, execIllegalEncoding, execEjectionHandoverEnd, execRejoinWritebackEnd, execRejoinWindowClose, execEjlim, execBinAged,
      execBinDraw, execWaitConditionMet, execWaitTimeout, execRunParkEnd, execFatalStop, execDumpWrite, execJoinDecrement,
      execUnitPlace, execCompactionMove, execCompactionMoveEnd, execDemandFetch, execIcacheFillLand, execTranslationWalkEnd,
      execPageRequestResponse, execRequestLost, execEngineReadsBegin, execEngineTransferEnd, execCompletionWriteAck,
      execTileFillEnd, execTileDrainEnd, execCollSetResult, execCollSetMemberTimeout, execFabricReduce, execCollRunComplete,
      execFabricMessageReceive, execStationaryLoadComplete, execPlaneSwap, execStreamComplete, execDrainComplete,
      execRowStatComplete, execLehrStep, execBudgetRetry, execFirstUseTrapReturn, execElasticGrant, execElasticRefuse,
      execTailWrite, execPacketTake, execPacketComplete, execEvrbWrite, execInvPage, execInvPasid, execInvFunction,
      execInvalidationDone, execAtsInvalidationRequest, execCqdEnable, execCqdDisable, execCtxCreate, execCtxDestroy,
      execContextDestroyDone, execFwdRemove, execRouteWrite, execRouteTakeEffect, execRegisterWrite, execAttest,
      execContextResume, execSliceMoveComplete, execUnknownCommand, execModuleReset, execFunctionReady, execStoreUncorrectable,
      execCacheHbmError, execCorrectedError, execClusterControlError, execHostReadFailure, execHostCompletionTimeout,
      execFailedPostedWrite, execAtsTranslationCompletion, execMovePageNew]
    repeat' split
    all_goals exact ⟨_, rfl⟩

/-! ## What an encoding does without a group, and with one -/

theorem mapNext_id (o : Host.Outcome State Fault Refusal) : mapNext (fun s => s) o = o := by
  cases o <;> rfl

/-- An encoding is issued; `rjn` does more once it has been (R211). -/
theorem exec_encoding {i : Instr} (h : instrLength i ≠ 0) :
    ∃ own pre effect, ∃ after : State → State → State, ∀ s, exec i s = mapNext (after s) (issuePre i s own pre effect) := by
  cases i <;> simp only [instrLength, ne_eq, not_true_eq_false] at h
  case rjn t => exact ⟨_, _, _, _, fun _ => rfl⟩
  all_goals exact ⟨_, _, _, fun _ t => t, fun _ => (mapNext_id _).symm⟩
/-- An encoding has no meaning without a group that issues (log 2). -/
theorem exec_noIssuer {i : Instr} {s : State} (h : instrLength i ≠ 0) (idle : s.cur = none) : exec i s = .fault .noIssuer := by
  obtain ⟨own, pre, effect, after, meaning⟩ := exec_encoding h
  simp only [meaning, issuePre, idle, mapNext]

/-- An instruction of a group in hand answers a next state. -/
theorem exec_issuer {i : Instr} {s : State} {g : Gid} {v : View} (issuing : s.cur = some g) (group : view s g = some v) :
    ∃ t, exec i s = .next t := by
  by_cases h : instrLength i = 0
  · exact exec_event s (noEncoding_of_instrLength h)
  · obtain ⟨own, pre, effect, after, meaning⟩ := exec_encoding h
    simp only [meaning, issuePre, issuing, group, mapNext]
    exact ⟨_, rfl⟩

/-! ## What happens next -/

theorem minBy_mem {α : Type} {f : α → Nat} {l : List α} {x : α} (h : minBy f l = some x) : x ∈ l := by
  induction l generalizing x with
  | nil => cases h
  | cons a r ih =>
    unfold minBy at h
    cases e : minBy f r with
    | none =>
      rw [e] at h
      exact Option.some.inj h ▸ List.mem_cons_self
    | some y =>
      rw [e] at h
      dsimp only at h
      split at h
      · exact Option.some.inj h ▸ List.mem_cons_of_mem _ (ih e)
      · exact Option.some.inj h ▸ List.mem_cons_self

theorem firstDue_mem {l : List Timed} {now : Nat} {x : Timed} (h : firstDue l now = some x) : x ∈ l :=
  (List.mem_filter.mp (minBy_mem h)).1

/-- What is called for is an event, if anything is. -/
def CallsEvent (o : Option (Instr × Subject)) : Prop := ∀ e ∈ o, wfErr e.1 = some .noEncoding

theorem callsEvent_none : CallsEvent none := fun _ h => nomatch h

theorem callsEvent_some {i : Instr} (x : Subject) (h : wfErr i = some .noEncoding) : CallsEvent (some (i, x)) := by
  intro e he
  obtain rfl := Option.some.inj he
  exact h

theorem callsEvent_ite {p : Prop} [Decidable p] {a b : Option (Instr × Subject)} (ha : CallsEvent a) (hb : CallsEvent b) :
    CallsEvent (if p then a else b) := by
  split
  · exact ha
  · exact hb

theorem callsEvent_map {α : Type} (o : Option α) (f : α → Instr × Subject) (h : ∀ a, wfErr (f a).1 = some .noEncoding) :
    CallsEvent (o.map f) := by
  cases o with
  | none => exact callsEvent_none
  | some a => exact callsEvent_some _ (h a)

theorem callsEvent_findSome {α : Type} (l : List α) {f : α → Option (Instr × Subject)} (h : ∀ a, CallsEvent (f a)) :
    CallsEvent (l.findSome? f) := by
  intro e he
  obtain ⟨a, _, ha⟩ := List.exists_of_findSome?_eq_some he
  exact h a e ha

theorem callsEvent_groupEvent (s : State) (g : Gid) : CallsEvent (groupEvent s g) := by
  refine callsEvent_ite (callsEvent_some _ rfl) (callsEvent_ite (callsEvent_some _ rfl) (callsEvent_ite (callsEvent_some _ rfl) ?_))
  cases g with
  | warp c w => exact callsEvent_ite (callsEvent_some _ rfl) callsEvent_none
  | kindle c k => exact callsEvent_ite (callsEvent_some _ rfl) callsEvent_none

theorem callsEvent_binEvent (s : State) (core : Nat) : CallsEvent (binEvent s core) := by
  unfold binEvent
  split
  · exact callsEvent_some _ rfl
  · exact callsEvent_map _ _ fun _ => rfl

theorem callsEvent_elasticEvent (s : State) (core : Nat) : CallsEvent (elasticEvent s core) :=
  callsEvent_ite callsEvent_none (callsEvent_ite (callsEvent_some _ rfl) (callsEvent_ite (callsEvent_some _ rfl) callsEvent_none))

theorem callsEvent_engineEvent (s : State) : CallsEvent (engineEvent s) := by
  unfold engineEvent
  split
  · rename_i e he
    rw [← he]
    exact callsEvent_findSome _ fun _ => callsEvent_ite (callsEvent_some _ rfl) (callsEvent_ite (callsEvent_some _ rfl) callsEvent_none)
  · exact callsEvent_findSome _ fun _ => callsEvent_ite (callsEvent_some _ rfl) callsEvent_none

theorem packetRow_event (p : Packet) : wfErr (packetRow p) = some .noEncoding := by
  unfold packetRow
  repeat' split
  all_goals rfl

theorem callsEvent_queueEvent (s : State) (fn q : Nat) : CallsEvent (queueEvent s fn q) := by
  refine callsEvent_ite (callsEvent_some _ rfl) ?_
  split
  · exact callsEvent_ite (callsEvent_some _ (packetRow_event _)) callsEvent_none
  · exact callsEvent_none

theorem callsEvent_deviceEvent (s : State) : CallsEvent (deviceEvent s) := by
  unfold deviceEvent
  split
  · rename_i e he
    rw [← he]
    exact callsEvent_findSome _ (callsEvent_binEvent s)
  split
  · rename_i e he
    rw [← he]
    exact callsEvent_findSome _ (callsEvent_elasticEvent s)
  split
  · rename_i e he
    rw [← he]
    exact callsEvent_engineEvent s
  split
  · exact callsEvent_some _ rfl
  split
  · exact callsEvent_some _ rfl
  · exact callsEvent_findSome _ fun fn => callsEvent_findSome _ (callsEvent_queueEvent s fn)

theorem callsEvent_endEvent (s : State) : CallsEvent (endEvent s) := by
  unfold endEvent
  split
  · exact callsEvent_some _ rfl
  split
  · exact callsEvent_some _ (by split <;> rfl)
  · exact callsEvent_none

theorem callsEvent_systemEvent (s : State) : CallsEvent (systemEvent s) := by
  unfold systemEvent
  repeat' split
  case h_2 => exact callsEvent_map _ _ fun _ => rfl
  all_goals exact callsEvent_some _ rfl

theorem callsEvent_conditionEvent (s : State) : CallsEvent (conditionEvent s) := by
  unfold conditionEvent
  split
  · rename_i e he
    rw [← he]
    exact callsEvent_findSome _ (callsEvent_groupEvent s)
  split
  · rename_i e he
    rw [← he]
    exact callsEvent_deviceEvent s
  split
  · rename_i e he
    rw [← he]
    exact callsEvent_endEvent s
  · exact callsEvent_systemEvent s

/-! ## The state in which a group's instruction executes -/

/-- The use of a cached line changes no core but its instruction cache. -/
theorem coreOf_icacheSet (s : State) (cache : Nat) (l : List ILine) (c : Nat) :
    ∃ x, coreOf (icacheSet s cache l) c = { coreOf s c with icache := x } := by
  unfold icacheSet
  split
  · by_cases h : c = cache
    · exact ⟨l, by rw [h, coreOf_modCore]⟩
    · exact ⟨(coreOf s c).icache, by rw [coreOf_modCore_other s _ h]⟩
  · exact ⟨(coreOf s c).icache, rfl⟩

theorem poolOf_icacheSet_slots (s : State) (cache : Nat) (l : List ILine) (c : Nat) :
    (poolOf (icacheSet s cache l) c).slots = (poolOf s c).slots := by
  unfold icacheSet
  split
  · rfl
  · by_cases h : c = (cache - 1152) / 16
    · rw [h, poolOf_modPool]
    · rw [poolOf_modPool_other s _ h]

theorem icacheSet_rest (s : State) (cache : Nat) (l : List ILine) :
    { icacheSet s cache l with cores := s.cores, pools := s.pools } = s := by
  unfold icacheSet
  split <;> rfl

theorem coreOf_begun (s : State) (g : Gid) (v : View) (c : Nat) : ∃ x, coreOf (begun s g v) c = { coreOf s c with icache := x } :=
  coreOf_icacheSet (freshNat s).2 _ _ c

theorem view_begun (s : State) (g : Gid) (v : View) (k : Gid) : view (begun s g v) k = view s k := by
  cases k with
  | warp c w =>
    obtain ⟨x, hx⟩ := coreOf_begun s g v c
    have same : warpOf (begun s g v) c w = warpOf s c w := (congrArg (fun k : Core => tabGet w k.warps) hx :)
    simp only [view, same]
  | kindle c k =>
    have same : ejOf (begun s g v) c k = ejOf s c k := (congrArg (tabGet k) (poolOf_icacheSet_slots (freshNat s).2 _ _ c) :)
    simp only [view, same]

theorem begun_now (s : State) (g : Gid) (v : View) : (begun s g v).now = s.now :=
  (congrArg State.now (icacheSet_rest (freshNat s).2 _ _) :)

theorem begun_sameData (s : State) (g : Gid) (v : View) : Safety.sameData s (begun s g v) := by
  have rest {α : Type} (f : State → α) := congrArg f (icacheSet_rest (freshNat s).2 (cacheOf g)
    ((icacheGet (freshNat s).2 (cacheOf g)).map fun x =>
      if x.gen = unitGen s v.unit && x.va = v.pc.toNat / 128 * 128 % 2 ^ 48 then { x with used := (freshNat s).1 } else x))
  refine ⟨rest State.mem, rest State.hostMem, rest State.remoteMem, rest State.units, rest State.launches, fun c => ?_⟩
  obtain ⟨x, hx⟩ := coreOf_begun s g v c
  exact ⟨(congrArg Core.store hx :), (congrArg Core.acc hx :), (congrArg Core.tiles hx :)⟩

/-! ## A step -/

theorem step_of_action {s t : State} {i : Instr} (h : nextAction s = some (i, t)) : step s = exec i t := by
  simp only [step, h]

theorem step_of_event {s t : State} {i : Instr} (h : eventAction s = some (i, t)) : step s = exec i t :=
  step_of_action (by simp only [nextAction, h])

theorem eventAction_none {s : State} (inbox : firstDue s.inbox s.now = none) (agenda : firstDue s.agenda s.now = none)
    (condition : conditionEvent s = none) : eventAction s = none := by
  simp only [eventAction, inbox, agenda, condition, Option.map_none]

theorem step_of_issue {s t : State} {g : Gid} {i : Instr} (quiet : eventAction s = none) (next : nextIssuer s = some g)
    (h : issueAction s g = some (i, t)) : step s = exec i t :=
  step_of_action (by simp only [nextAction, quiet, next, Option.bind_some, h])

/-- Settles O57: a branch of `eventAction`, `nextAction` and `issueAction` for each case. -/
theorem stepRunsDecoded : Obligations.StepRunsDecoded := by
  intro s
  refine ⟨fun x input => ?_, fun input x due => ?_, fun input due => ⟨fun i x holds => ?_, fun quiet => ⟨fun idle => ?_, ?_⟩⟩⟩
  · exact step_of_event (by simp only [eventAction, input])
  · exact step_of_event (by simp only [eventAction, input, due])
  · exact step_of_event (by simp only [eventAction, input, due, holds, Option.map_some])
  · simp only [step, nextAction, eventAction_none input due quiet, idle, Option.bind_none]
  · intro g v next group
    have issued {i : Instr} {t : State} := step_of_issue (i := i) (t := t) (eventAction_none input due quiet) next
    refine ⟨fun missing => issued ?_, fun b fetched => ⟨?_, fun i rest decoded => issued ?_, fun e refused => issued ?_⟩⟩
    · simp only [issueAction, group, missing]
    · exact ⟨rfl, begun_now s g v, begun_sameData s g v, view_begun s g v⟩
    · simp only [issueAction, group, fetched, decoded]
    · simp only [issueAction, group, fetched, refused]

/-- What is run before an issue is an event, where events alone are scheduled or come in. -/
theorem eventAction_event {s t : State} {i : Instr} (agenda : ∀ x ∈ s.agenda, wfErr x.i = some .noEncoding)
    (inbox : ∀ x ∈ s.inbox, wfErr x.i = some .noEncoding) (h : eventAction s = some (i, t)) : wfErr i = some .noEncoding := by
  unfold eventAction at h
  split at h
  · rename_i x due
    obtain ⟨rfl, _⟩ := Prod.mk.inj (Option.some.inj h)
    exact inbox x (firstDue_mem due)
  split at h
  · rename_i x due
    obtain ⟨rfl, _⟩ := Prod.mk.inj (Option.some.inj h)
    exact agenda x (firstDue_mem due)
  · obtain ⟨e, called, same⟩ := Option.map_eq_some_iff.mp h
    obtain ⟨rfl, _⟩ := Prod.mk.inj same
    exact callsEvent_conditionEvent s e called

/-- What a group comes to issue answers a next state: an event, or an instruction with the group in hand. -/
theorem issueAction_next {s t : State} {g : Gid} {i : Instr} (h : issueAction s g = some (i, t)) : ∃ r, exec i t = .next r := by
  unfold issueAction at h
  split at h
  · cases h
  rename_i v group
  split at h
  · obtain ⟨rfl, _⟩ := Prod.mk.inj (Option.some.inj h)
    exact exec_event t rfl
  split at h
  · obtain ⟨rfl, rfl⟩ := Prod.mk.inj (Option.some.inj h)
    exact exec_issuer rfl ((view_begun s g v g).trans group)
  · obtain ⟨rfl, _⟩ := Prod.mk.inj (Option.some.inj h)
    exact exec_event t rfl

/-- Settles O58: what a step runs is an event, or the instruction of the group in hand; neither stops. -/
theorem noStepStops : Obligations.NoStepStops := by
  refine ⟨fun s agenda inbox => ?_, fun i s g v issuing group => exec_issuer issuing group, fun i s wf idle => exec_noIssuer ?_ idle⟩
  · cases h : nextAction s with
    | none => exact ⟨tickCycle s, by simp only [step, h]⟩
    | some a =>
      obtain ⟨i, t⟩ := a
      rw [step_of_action h]
      unfold nextAction at h
      split at h
      · rename_i e he
        exact exec_event t (eventAction_event agenda inbox (he.trans h))
      · obtain ⟨g, _, issues⟩ := Option.bind_eq_some_iff.mp h
        exact issueAction_next issues
  · intro event
    exact absurd ((noEncoding_of_instrLength event).symm.trans wf) (by decide)

end Sys2Proof
end

section
/-! The group in hand: what its view says of the warp or the ejected thread it shows, and the tests of step 9 (R393). -/

namespace Sys2Proof

open Machine

/-! ## Views -/

/-- The view of a warp, field by field. -/
def viewOfWarp (c w : Nat) (x : Warp) : View := ⟨.warp c w, c, w, x.serial, x.unit, false, activeLanes x, x.pc, x.run, x.bsize, x.page⟩

/-- The view of an ejected thread, field by field. -/
def viewOfEjected (c k : Nat) (e : Ejected) : View :=
  ⟨.kindle c k, e.core, e.wslot, e.serial, e.unit, true, [e.lane], e.pc, e.run, e.bsize, 0⟩

theorem view_warp_eq (s : State) (c w : Nat) : view s (.warp c w) = (warpOf s c w).map (viewOfWarp c w) := by
  simp only [view]
  cases warpOf s c w <;> rfl

theorem view_kindle_eq (s : State) (c k : Nat) : view s (.kindle c k) = (ejOf s c k).map (viewOfEjected c k) := by
  simp only [view]
  cases ejOf s c k <;> rfl

theorem view_warp {s : State} {c w : Nat} {v : View} (h : view s (.warp c w) = some v) :
    ∃ x, warpOf s c w = some x ∧ v = viewOfWarp c w x := by
  obtain ⟨x, hx, rfl⟩ := Option.map_eq_some_iff.mp (view_warp_eq s c w ▸ h)
  exact ⟨x, hx, rfl⟩

theorem view_kindle {s : State} {c k : Nat} {v : View} (h : view s (.kindle c k) = some v) :
    ∃ e, ejOf s c k = some e ∧ v = viewOfEjected c k e := by
  obtain ⟨e, he, rfl⟩ := Option.map_eq_some_iff.mp (view_kindle_eq s c k ▸ h)
  exact ⟨e, he, rfl⟩

/-- A view shows the group it was asked for. -/
theorem view_gid {s : State} {g : Gid} {v : View} (h : view s g = some v) : v.gid = g := by
  cases g with
  | warp c w =>
    obtain ⟨x, _, rfl⟩ := view_warp h
    rfl
  | kindle c k =>
    obtain ⟨e, _, rfl⟩ := view_kindle h
    rfl

/-- What a group in hand is: a warp of its core, or an ejected thread. -/
theorem view_cases {s : State} {v : View} (h : view s v.gid = some v) :
    (v.kc = false ∧ v.gid = .warp v.core v.wslot ∧ ∃ x, warpOf s v.core v.wslot = some x ∧ v = viewOfWarp v.core v.wslot x) ∨
    (v.kc = true ∧ ∃ c k e, v.gid = .kindle c k ∧ ejOf s c k = some e ∧ v = viewOfEjected c k e) := by
  cases hg : v.gid with
  | warp c w =>
    obtain ⟨x, hx, rfl⟩ := view_warp (hg ▸ h)
    exact .inl ⟨rfl, rfl, x, hx, rfl⟩
  | kindle c k =>
    obtain ⟨e, he, rfl⟩ := view_kindle (hg ▸ h)
    exact .inr ⟨rfl, c, k, e, rfl, he, rfl⟩

/-- A change of a core that leaves its warps leaves every warp. -/
theorem warpOf_modCore_eq {s : State} {c : Nat} {f : Core → Core} (h : ∀ k, (f k).warps = k.warps) (d w : Nat) :
    warpOf (modCore s c f) d w = warpOf s d w := by
  by_cases hd : d = c
  · subst hd
    rw [warpOf, coreOf_modCore, h, warpOf]
  · rw [warpOf, coreOf_modCore_other s f hd, warpOf]

/-- A field of a core that an update keeps reads as before on every core. -/
theorem coreOf_modCore_field {α : Type} {s : State} {c : Nat} {f : Core → Core} {field : Core → α} (h : ∀ k, field (f k) = field k) (d : Nat) :
    field (coreOf (modCore s c f) d) = field (coreOf s d) := by
  by_cases hd : d = c
  · subst hd
    rw [coreOf_modCore, h]
  · rw [coreOf_modCore_other s f hd]

theorem coreOf_modWarp_field {α : Type} {s : State} {c w : Nat} {f : Warp → Warp} {field : Core → α}
    (h : ∀ (k : Core) (x : Tab Warp), field { k with warps := x } = field k) (d : Nat) :
    field (coreOf (modWarp s c w f) d) = field (coreOf s d) :=
  coreOf_modCore_field (f := fun k => { k with warps := tabMod w f k.warps }) (fun k => h k _) d

theorem quads_modRun (s : State) (g : Gid) (f : Run → Run) (c : Nat) : (coreOf (modRun s g f) c).quads = (coreOf s c).quads := by
  cases g with
  | warp d w => exact coreOf_modWarp_field (field := Core.quads) (fun _ _ => rfl) c
  | kindle d k => rfl

theorem quads_progress (s : State) (v : View) (c : Nat) : (coreOf (progress s v) c).quads = (coreOf s c).quads := by
  unfold progress
  split
  · exact coreOf_modWarp_field (field := Core.quads) (fun _ _ => rfl) c
  · rfl

@[simp] theorem advance_now (i : Instr) (s : State) (v : View) (act : ParkAct) (idle : Nat) : (advance i s v act idle).now = s.now := by
  cases hg : v.gid with
  | warp c w => rw [advance_warp hg, modCore_now]
  | kindle c k => rw [advance_kindle hg, modPool_now]

theorem quads_length_advance {i : Instr} {s : State} {v : View} (hg : v.gid = .warp v.core v.wslot) {act : ParkAct} {idle : Nat} :
    (coreOf (advance i s v act idle) v.core).quads.length = (coreOf s v.core).quads.length := by
  rw [advance_warp hg, coreOf_modCore, List.length_mapIdx]

/-! ## Tests of step 9 -/

theorem Safety.Issues.preTraps {i : Instr} {s : State} {v : View} (h : Safety.Issues i s v) {own : State → View → Option Trap}
    {pre : State → View → Option Did} {effect : State → View → Did} {t : Trap} (hx : exec i s = issuePre i s own pre effect)
    (ho : own s v = none) (hp : pre s v = some (.trap t)) : exec i s = .next (trapNow s v t) :=
  (hx.trans (h.preAsEffect hp)).trans (h.traps ho rfl rfl)

theorem Safety.Issues.preWaits {i : Instr} {s : State} {v : View} (h : Safety.Issues i s v) {own : State → View → Option Trap}
    {pre : State → View → Option Did} {effect : State → View → Did} {t : State} {n : Nat} (hx : exec i s = issuePre i s own pre effect)
    (ho : own s v = none) (hp : pre s v = some (.wait t n)) : exec i s = .next (delayTo t v n) :=
  (hx.trans (h.preAsEffect hp)).trans (h.waits ho rfl rfl)

end Sys2Proof
end

section
/-! Comparisons, float operations, special functions and cross-lane instructions: each completes with the words, predicates and
flags of its active lanes (R239-R265). -/

namespace Sys2Proof

open Machine

/-! ## Predicates (R248) -/

/-- An instruction that issues without a test of its own and leaves one predicate bit per active lane, by another expression for it. -/
theorem Safety.perTruth_plain {i : Instr} {lat p : Nat} {f : State → View → Nat → Bool} (g : State → View → Nat → Bool)
    (meaning : ∀ s, exec i s = issue i s noTrap (plain fun s v => writeP s v lat p (g s v))) (hfg : ∀ s v l, f s v l = g s v l) :
    Safety.perTruth i lat p f :=
  Safety.perTruth_of meaning (fun _ _ => rfl) (fun _ _ => rfl) (fun _ _ => rfl) hfg

/-- Settles O3: each instruction leaves one predicate bit per active lane, by the equation of its meaning. -/
theorem predicateResults : Obligations.PredicateResults := by
  refine ⟨fun b a p w => ⟨?eq, ?ne, ?lt, ?le, ?ltn, ?len⟩, fun b a d w => ⟨?and, ?or, ?xor, ?not, ?mov⟩⟩
  case eq => exact Safety.perTruth_plain _ (fun _ => rfl) fun _ _ _ => by simp only [beq_eq_decide]
  case ne => exact Safety.perTruth_plain _ (fun _ => rfl) fun _ _ _ => by simp only [bne, beq_eq_decide, ne_eq, decide_not]
  case lt => exact Safety.perTruth_plain _ (fun _ => rfl) fun _ _ _ => rfl
  case le => exact Safety.perTruth_plain _ (fun _ => rfl) fun _ _ _ => rfl
  case ltn => exact Safety.perTruth_plain _ (fun _ => rfl) fun _ _ _ => rfl
  case len => exact Safety.perTruth_plain _ (fun _ => rfl) fun _ _ _ => rfl
  case and => exact Safety.perTruth_plain _ (fun _ => rfl) fun _ _ _ => rfl
  case or => exact Safety.perTruth_plain _ (fun _ => rfl) fun _ _ _ => rfl
  case xor => exact Safety.perTruth_plain _ (fun _ => rfl) fun _ _ _ => congrFun₂ Bool.bne_eq_xor _ _
  case not => exact Safety.perTruth_plain _ (fun _ => rfl) fun _ _ _ => rfl
  case mov => exact Safety.perTruth_plain _ (fun _ => rfl) fun _ _ _ => rfl

/-! ## Float operations (R250-R257) -/

/-- An instruction that issues without a test of its own and leaves one word with flags per active lane. -/
theorem Safety.perFloat_plain {i : Instr} {lat d : Nat} {f : State → View → Nat → Flagged Nat}
    (meaning : ∀ s, exec i s = issue i s noTrap (plain fun s v => writeFloat s v lat d (f s v))) : Safety.perFloat i lat d f :=
  Safety.perFloat_of meaning (fun _ _ => rfl) (fun _ _ => rfl) (fun _ _ => rfl) fun _ _ _ => rfl

/-- Settles O4: the meaning of each is `writeFloat` of the named operation. -/
theorem floatArithmeticResults : Obligations.FloatArithmeticResults :=
  ⟨fun _ _ _ _ => ⟨Safety.perFloat_plain fun _ => rfl, Safety.perFloat_plain fun _ => rfl, Safety.perFloat_plain fun _ => rfl,
      Safety.perFloat_plain fun _ => rfl, Safety.perFloat_plain fun _ => rfl, Safety.perFloat_plain fun _ => rfl,
      Safety.perFloat_plain fun _ => rfl, Safety.perFloat_plain fun _ => rfl, Safety.perFloat_plain fun _ => rfl,
      Safety.perFloat_plain fun _ => rfl, Safety.perFloat_plain fun _ => rfl, Safety.perFloat_plain fun _ => rfl,
      Safety.perFloat_plain fun _ => rfl, Safety.perFloat_plain fun _ => rfl⟩,
    fun _ _ => ⟨Safety.perFloat_plain fun _ => rfl, Safety.perFloat_plain fun _ => rfl, Safety.perFloat_plain fun _ => rfl,
      Safety.perFloat_plain fun _ => rfl, Safety.perFloat_plain fun _ => rfl⟩⟩

/-! ### Flags of a comparison (R157, R241) -/

theorem input_flags_lt (f : Fmt) (subn w : Nat) : (f.input subn w).2 < 2 ^ 8 := by
  unfold Fmt.input
  split
  · exact (by decide : fFZ < 2 ^ 8)
  · exact Nat.two_pow_pos 8

theorem fcmpLane_flags_lt (cc subn a b : Nat) : (fcmpLane cc subn a b).2 < 2 ^ 8 := by
  refine Nat.or_lt_two_pow (Nat.or_lt_two_pow (input_flags_lt _ _ _) (input_flags_lt _ _ _)) ?_
  split
  · exact (by decide : fNV < 2 ^ 8)
  · exact Nat.two_pow_pos 8

theorem flagBits_ne_zero {n : Nat} (h : n < 2 ^ 8) : (flagBits n != 0) = (n != 0) := by
  have zero : flagBits n = 0 ↔ n = 0 := by
    rw [flagBits, ← BitVec.toNat_inj, BitVec.toNat_ofNat, Nat.mod_eq_of_lt h]
    rfl
  simp only [bne, beq_eq_decide, zero]

/-- The flags that `writeFlags` leaves are those raised in the active lanes. -/
theorem writeFlags_eq {s : State} {v : View} {lat : Nat} {f : Nat → Nat} (h : ∀ l, f l < 2 ^ 8) :
    writeFlags s v lat (fun l => flagBits (f l)) = pendWrites s v.gid lat (Safety.raised v f) := by
  simp only [writeFlags, Safety.raised, flagBits_ne_zero (h _)]

/-- `fcmp` leaves its predicate bits and then its flags. -/
theorem fcmp_completes {b a : BitVec 7} {c : BitVec 4} {p : BitVec 3} {w : BitVec 1} {s : State} {v : View}
    (h : Safety.Issues (.fcmp b a c p w) s v) (f : Nat → Bool × Nat)
    (hf : f = fun l => fcmpLane c.toNat (subnOf s v) (readX s v l a.toNat).toNat (readX s v l b.toNat).toNat) :
    Safety.Completes (.fcmp b a c p w) s v 5 (Safety.truths v p.toNat (fun l => (f l).1) ++ Safety.raised v fun l => (f l).2) := by
  refine h.leavesWrites (pre := fun _ _ => none) rfl rfl rfl ?_
  rw [← pendWrites_pendWrites, ← writeFlags_eq (s := pendWrites s v.gid 5 _) fun l => by rw [hf]; exact fcmpLane_flags_lt _ _ _ _, hf]
  rfl

/-- A conversion under `.trap` raises CVTOVF where a lane overflows and an active thread has it enabled, and nothing else does (R403). -/
theorem cvtTrap_none {dt st op a : Nat} {s : State} {v : View}
    (h : cvtOver s v dt st op a = [] ∨ ∀ l ∈ v.act, trapEnabled s v 0 l = false) : cvtTrap dt st op a s v = none := by
  rcases h with none | masked
  · simp [cvtTrap, none]
  · have : v.act.any (trapEnabled s v 0) = false := by simpa using masked
    simp [cvtTrap, this]

theorem cvtTrap_some {dt st op a : Nat} {s : State} {v : View} (lanes : cvtOver s v dt st op a ≠ [])
    (enabled : ∃ l ∈ v.act, trapEnabled s v 0 l = true) :
    cvtTrap dt st op a s v = some (.trap (precise v 0x08 (maskOf (cvtOver s v dt st op a)).toNat)) := by
  have any : v.act.any (trapEnabled s v 0) = true := List.any_eq_true.mpr enabled
  simp [cvtTrap, lanes, any, cCvtovf]

/-- Settles O7: the equation of each meaning, with the two outcomes of the test of `cvt`. -/
theorem floatUnaryAndConversionResults : Obligations.FloatUnaryAndConversionResults := by
  intro b a d r c p t u o w
  refine ⟨Safety.perFloat_plain fun _ => rfl, Safety.perFloat_plain fun _ => rfl, Safety.perFloat_plain fun _ => rfl,
    Safety.perFloat_plain fun _ => rfl, Safety.perFloat_plain fun _ => rfl, Safety.perFloat_plain fun _ => rfl,
    fun s v h => fcmp_completes h _ rfl, fun s v h => ⟨fun quiet => ?_, fun lanes enabled => ?_⟩⟩
  · exact h.float rfl rfl (cvtTrap_none quiet) rfl
  · exact h.preTraps rfl rfl (cvtTrap_some lanes enabled)

/-! ## Special functions (R242, R258, R259) -/

/-- The mark that the pipe of one quadrant of a core is taken up to a cycle. -/
def takePipe (q n : Nat) (k : Core) : Core := { k with quads := k.quads.mapIdx fun i y => if i = q then { y with sfuFree := n } else y }

theorem sfuTake_warp {v : View} (h : v.kc = false) (s : State) :
    sfuTake s v = modCore s v.core (takePipe (v.wslot % 4) (s.now + 4)) := by
  simp only [sfuTake, h, Bool.false_eq_true, if_false]
  rfl

theorem sfuTake_kindle {v : View} (h : v.kc = true) (s : State) : sfuTake s v = s := by
  simp only [sfuTake, h, if_true]

/-- The pipe and the next issue of a quadrant are marked independently. -/
theorem advance_sfuTake (i : Instr) {s : State} {v : View} (hg : v.gid = .warp v.core v.wslot) (h : v.kc = false) (act : ParkAct)
    (idle : Nat) : advance i (sfuTake s v) v act idle = sfuTake (advance i s v act idle) v := by
  rw [sfuTake_warp h, sfuTake_warp h, advance_warp hg, advance_warp hg, modCore_modCore, modCore_modCore]
  congr 1
  funext k
  simp only [takePipe, List.mapIdx_mapIdx, modCore_now, Function.comp_def]
  congr 2
  funext i q
  split <;> rfl

theorem sfuFree_sfuTake {s : State} {v : View} (h : v.kc = false) (four : (coreOf s v.core).quads.length = 4) :
    sfuFree (sfuTake s v) v = s.now + 4 := by
  have inside : v.wslot % 4 < (coreOf s v.core).quads.length := by omega
  simp only [sfuFree, h, sfuTake_warp h, coreOf_modCore, takePipe, nth, Bool.false_eq_true, if_false, List.getElem?_mapIdx,
    List.getElem?_eq_getElem inside, Option.map_some, Option.getD_some, if_true]

theorem warpOf_takePipe (s : State) (c q n d w : Nat) : warpOf (modCore s c (takePipe q n)) d w = warpOf s d w :=
  warpOf_modCore_eq (f := takePipe q n) (fun _ => rfl) d w

theorem quads_writeFloat (s : State) (v : View) (lat d : Nat) (f : Nat → Flagged Nat) (c : Nat) :
    (coreOf (writeFloat s v lat d f) c).quads = (coreOf s c).quads := by
  simp only [writeFloat_eq, writeX_eq, pendWrites, quads_modRun]
  split
  · exact quads_progress s v c
  · rfl

theorem writeFloat_now (s : State) (v : View) (lat d : Nat) (f : Nat → Flagged Nat) : (writeFloat s v lat d f).now = s.now := by
  simp only [writeFloat_eq, writeX_eq, pendWrites, modRun_now]
  split
  · exact progress_now s v
  · rfl

/-- What a group has left to become usable is the same with its pipe taken. -/
theorem Safety.Retired.sfuTake {i : Instr} {s t : State} {v : View} {lat : Nat} {ws : List PendWrite}
    (h : Safety.Retired i s t v lat ws) (hg : v.gid = .warp v.core v.wslot) (hk : v.kc = false) :
    Safety.Retired i s (Machine.sfuTake t v) v lat ws := by
  obtain ⟨other, same, after⟩ := h
  rw [hg] at other same after
  obtain ⟨rest, cores, core, warps⟩ := other
  rw [sfuTake_warp hk]
  constructor
  · rw [hg]
    refine ⟨rest, fun d hd => (coreOf_modCore_other t _ hd).trans (cores d hd), ?_, fun w hw => (warpOf_takePipe ..).trans (warps w hw)⟩
    rw [coreOf_modCore]
    exact core
  · rw [hg]
    intro x hx
    rw [warpOf_takePipe]
    exact same x hx
  · rw [hg, view_warp_eq, warpOf_takePipe, ← view_warp_eq]
    exact after

/-- A special-function instruction waits for its pipe, and else completes and takes it for 4 cycles (R242). -/
theorem sfu_spec {i : Instr} {d : Nat} {f : State → View → Nat → Flagged Nat} {s : State} {v : View}
    (meaning : exec i s = issuePre i s noTrap sfuWait (sfuOp d f)) (four : v.kc = false → (coreOf s v.core).quads.length = 4)
    (h : Safety.Issues i s v) :
    if s.now < sfuFree s v then exec i s = .next (delayTo s v (sfuFree s v))
    else ∃ t, exec i s = .next t ∧ (v.kc = false → sfuFree t v = s.now + 4) ∧
      Safety.Retired i s t v 18 (Safety.words v d (fun l => BitVec.ofNat 32 (f s v l).1) ++ Safety.raised v fun l => (f s v l).2) := by
  split
  · rename_i taken
    exact h.preWaits meaning rfl (by simp only [sfuWait, taken, if_true])
  · rename_i free
    have pre : sfuWait s v = none := by simp only [sfuWait, free, if_false]
    refine ⟨_, meaning.trans (h.does rfl pre rfl), ?_⟩
    have retired : Safety.Retired i s (advance i (writeFloat s v 18 d (f s v)) v .next 0) v 18
        (Safety.words v d (fun l => BitVec.ofNat 32 (f s v l).1) ++ Safety.raised v fun l => (f s v l).2) := by
      rw [writeFloat_eq, writeX_eq, pendWrites_pendWrites, writeLanes_items]
      exact Safety.retired_of h.group 18 _ _ (by intro hk; simp [hk])
    rcases view_cases h.group with ⟨hk, hg, -⟩ | ⟨hk, -⟩
    · rw [advance_sfuTake i hg hk]
      refine ⟨fun _ => ?_, retired.sfuTake hg hk⟩
      rw [sfuFree_sfuTake hk (by rw [quads_length_advance hg, quads_writeFloat]; exact four hk), advance_now, writeFloat_now]
    · rw [sfuTake_kindle hk]
      exact ⟨fun warp => absurd (hk.symm.trans warp) (by decide), retired⟩

/-- Settles O8: one statement for the two outcomes of the pipe. -/
theorem specialFunctionResults : Obligations.SpecialFunctionResults :=
  fun _ _ _ _ _ _ four => ⟨sfu_spec rfl four, sfu_spec rfl four, sfu_spec rfl four, sfu_spec rfl four, sfu_spec rfl four,
    sfu_spec rfl four, sfu_spec rfl four, sfu_spec rfl four, sfu_spec rfl four, sfu_spec rfl four⟩

/-! ## Moves between lanes, votes, reductions and scans (R260-R265) -/

theorem crossPoison_none {s : State} {v : View} {a : Nat} {src : Nat → Nat} (h : ∀ l ∈ v.act, poisoned s v [(a, 1)] [src l] = []) :
    crossPoison s v a src = none := by
  have sound : v.act.filter (fun l => !(poisoned s v [(a, 1)] [src l]).isEmpty) = [] := by
    simpa [List.filter_eq_nil_iff] using h
  simp only [crossPoison, sound]

theorem crossPoison_some {s : State} {v : View} {a : Nat} {src : Nat → Nat} (h : ∃ l ∈ v.act, poisoned s v [(a, 1)] [src l] ≠ []) :
    ∃ aux addr, crossPoison s v a src = some (.trap (precise v 0x17 aux addr)) := by
  obtain ⟨l, active, bad⟩ := h
  have found : l ∈ v.act.filter fun l => !(poisoned s v [(a, 1)] [src l]).isEmpty := by
    simpa [List.mem_filter] using ⟨active, bad⟩
  obtain ⟨m, r, hr⟩ := List.exists_cons_of_ne_nil (List.ne_nil_of_mem found)
  simp only [crossPoison, hr]
  exact ⟨_, _, rfl⟩

/-- A move between lanes completes with the words of its source lanes, or raises POISON of one of them (R261, R430). -/
theorem laneMove_spec {i : Instr} {d a : Nat} {src : State → View → Nat → Nat} {s : State} {v : View} {source : Nat → Nat}
    (meaning : exec i s = issue i s noTrap (laneMove d a src)) (same : src s v = source) (h : Safety.Issues i s v) :
    ((∀ l ∈ v.act, poisoned s v [(a, 1)] [source l] = []) →
      Safety.Completes i s v 8 (Safety.words v d fun l =>
        if v.kc then readX s v (v.act.headD 0) a else readX s v (source l) a)) ∧
    ((∃ l ∈ v.act, poisoned s v [(a, 1)] [source l] ≠ []) → ∃ aux addr, exec i s = .next (trapNow s v (precise v 0x17 aux addr))) := by
  subst same
  refine ⟨fun sound => ?_, fun bad => ?_⟩
  · exact h.word meaning rfl rfl (by simp only [laneMove, crossPoison_none sound]; rfl)
  · obtain ⟨aux, addr, found⟩ := crossPoison_some bad
    exact ⟨aux, addr, meaning.trans (h.traps rfl rfl (by simp only [laneMove, found]))⟩

theorem Safety.perLane_plain {i : Instr} {lat d : Nat} {f : State → View → Nat → Word}
    (g : State → View → Nat → Word) (meaning : ∀ s, exec i s = issue i s noTrap (plain fun s v => writeLanes s v lat d (g s v)))
    (hfg : ∀ s v l, f s v l = g s v l) : Safety.perLane i lat d f :=
  Safety.perLane_of meaning (fun _ _ => rfl) (fun _ _ => rfl) (fun _ _ => rfl) hfg

theorem ofNat_ite (c : Bool) : (if c then 1 else 0 : Word) = BitVec.ofNat 32 (if c then 1 else 0) := by
  cases c <;> rfl

/-- Settles O9: the statement of a move for each kind of source lane; votes, reductions and scans by their equations. -/
theorem laneMovesVotesAndReductions : Obligations.LaneMovesVotesAndReductions := by
  refine ⟨fun b a d n w s v => ⟨laneMove_spec rfl rfl, laneMove_spec rfl rfl, laneMove_spec rfl rfl, laneMove_spec rfl rfl,
      laneMove_spec rfl rfl⟩,
    fun p t a d w => ⟨?any, ?all, ?bal, ?cnt, ?same, ?add, ?max, ?min, ?inc, ?exc⟩⟩
  case any => exact Safety.perLane_plain _ (fun _ => rfl) fun _ _ _ => ofNat_ite _
  case all => exact Safety.perLane_plain _ (fun _ => rfl) fun _ _ _ => ofNat_ite _
  case bal => exact Safety.perLane_plain _ (fun _ => rfl) fun _ _ _ => by simp only [ballot, BitVec.ofNat_toNat, BitVec.setWidth_eq]
  case cnt => exact Safety.perLane_plain _ (fun _ => rfl) fun _ _ _ => rfl
  case same => exact Safety.perLane_plain _ (fun _ => rfl) fun _ _ _ => rfl
  case add => exact Safety.perFloat_plain fun _ => rfl
  case max => exact Safety.perFloat_plain fun _ => rfl
  case min => exact Safety.perFloat_plain fun _ => rfl
  case inc => exact Safety.perFloat_plain fun _ => rfl
  case exc =>
    refine Safety.perFloat_of (fun _ => rfl) (fun _ _ => rfl) (fun _ _ => rfl) (fun _ _ => rfl) fun s v l => ?_
    split <;> rfl

/-! ## Sums over lanes (R262-R264) -/

theorem testBit_foldl_two_pow (ls : List Nat) (m i : Nat) :
    (ls.foldl (fun m l => m ||| 2 ^ l) m).testBit i = (m.testBit i || ls.contains i) := by
  induction ls generalizing m with
  | nil => simp
  | cons l r ih =>
    rw [List.foldl_cons, ih, Nat.testBit_or, Nat.testBit_two_pow, List.contains_cons, Bool.or_assoc]
    congr 2
    rw [beq_eq_decide]
    exact decide_eq_decide.mpr eq_comm

/-- A lane mask has exactly the bits of its lanes (R262). -/
theorem maskOf_getLsbD (ls : List Nat) {l : Nat} (h : l < 32) : (maskOf ls).getLsbD l = ls.contains l := by
  rw [maskOf, BitVec.getLsbD_ofNat, testBit_foldl_two_pow, decide_eq_true h, Nat.zero_testBit, Bool.true_and, Bool.false_or]

/-- What a lane adds to an integer sum: its word where it is active (R263). -/
def laneTerm (s : State) (v : View) (a l : Nat) : Nat := if v.act.contains l then (readX s v l a).toNat else 0

theorem laneTerm_lt (s : State) (v : View) (a l : Nat) : laneTerm s v a l < 2 ^ 32 := by
  unfold laneTerm
  split
  · exact (readX s v l a).isLt
  · exact Nat.two_pow_pos 32

theorem spread_integer (s : State) (v : View) (a : Nat) :
    spread s v 0 0 a = (List.range 32).map fun l => (laneTerm s v a l, 0) := by
  unfold spread
  congr 1
  funext l
  unfold laneTerm
  split <;> rfl

theorem addStep_integer (subn : Nat) (x y : Flagged Nat) : addStep subn 0 x y = ((x.1 + y.1) % 2 ^ 32, 0) := rfl

/-! ### The tree of a reduction -/

/-- The sum of the values of a list modulo 2^32. -/
def total (l : List (Flagged Nat)) : Nat := (l.map (·.1)).sum % 2 ^ 32

/-- A level of the tree keeps the sum. -/
theorem total_pairUp (subn : Nat) : ∀ l : List (Flagged Nat), total (pairUp (addStep subn 0) l) = total l
  | [] => rfl
  | [_] => rfl
  | x :: y :: r => by
    have ih := total_pairUp subn r
    simp only [total, pairUp, List.map_cons, List.sum_cons, addStep_integer] at ih ⊢
    omega

theorem length_pairUp {α : Type} (f : α → α → α) : ∀ l : List α, (pairUp f l).length = (l.length + 1) / 2
  | [] => by simp [pairUp]
  | [_] => by simp [pairUp]
  | x :: y :: r => by
    simp only [pairUp, List.length_cons, length_pairUp f r]
    omega

theorem pairUp_lt (subn : Nat) : ∀ {l : List (Flagged Nat)}, (∀ x ∈ l, x.1 < 2 ^ 32) → ∀ x ∈ pairUp (addStep subn 0) l, x.1 < 2 ^ 32
  | [], _ => fun _ h => nomatch h
  | [_], h => h
  | x :: y :: r, h => by
    intro z hz
    rcases List.mem_cons.mp hz with rfl | hz
    · exact Nat.mod_lt _ (Nat.two_pow_pos 32)
    · exact pairUp_lt subn (fun w hw => h w (List.mem_cons_of_mem _ (List.mem_cons_of_mem _ hw))) z hz

/-- After some levels a tree over 2^n values has halved its list as often, and kept its sum. -/
theorem treeOf_spec (subn n : Nat) {l : List (Flagged Nat)} (small : ∀ x ∈ l, x.1 < 2 ^ 32) :
    total (treeOf (addStep subn 0) n l) = total l ∧ (∀ x ∈ treeOf (addStep subn 0) n l, x.1 < 2 ^ 32) ∧
      ∀ k, l.length = 2 ^ (n + k) → (treeOf (addStep subn 0) n l).length = 2 ^ k := by
  induction n with
  | zero => exact ⟨rfl, small, fun k h => by simpa [treeOf] using h⟩
  | succ n ih =>
    obtain ⟨sum, lt, length⟩ := ih
    have level : treeOf (addStep subn 0) (n + 1) l = pairUp (addStep subn 0) (treeOf (addStep subn 0) n l) := by
      simp only [treeOf, List.range_succ, List.foldl_append, List.foldl_cons, List.foldl_nil]
    rw [level]
    refine ⟨(total_pairUp ..).trans sum, pairUp_lt subn lt, fun k h => ?_⟩
    rw [length_pairUp, length (k + 1) (by rw [h]; congr 1; omega)]
    have := Nat.pow_succ 2 k
    omega

theorem reduce_integer (s : State) (v : View) (a : Nat) :
    (reduce s v 0 0 a).1 = ((List.range 32).map (laneTerm s v a)).sum % 2 ^ 32 := by
  have small : ∀ x ∈ spread s v 0 0 a, x.1 < 2 ^ 32 := by
    rw [spread_integer]
    intro x hx
    obtain ⟨l, _, rfl⟩ := List.mem_map.mp hx
    exact laneTerm_lt s v a l
  obtain ⟨sum, lt, length⟩ := treeOf_spec (subnOf s v) 5 small
  obtain ⟨r, hr⟩ := List.length_eq_one_iff.mp (length 0 (by rw [spread_integer]; rfl))
  have value : (reduce s v 0 0 a).1 = r.1 := by
    simp only [reduce, hr, if_true]
    rfl
  rw [hr] at sum lt
  have below := lt r List.mem_cons_self
  rw [value, ← Nat.mod_eq_of_lt below]
  simpa [total, spread_integer, Function.comp_def] using sum

/-! ### The levels of a scan -/

/-- The sum of the terms of the lanes below `n`. -/
def prefixSum (x : Nat → Nat) (n : Nat) : Nat := ((List.range n).map x).sum

theorem prefixSum_succ (x : Nat → Nat) (n : Nat) : prefixSum x (n + 1) = prefixSum x n + x n := by
  simp [prefixSum, List.range_succ]

theorem prefixSum_mono (x : Nat → Nat) {m n : Nat} (h : m ≤ n) : prefixSum x m ≤ prefixSum x n := by
  induction n, h using Nat.le_induction with
  | base => exact Nat.le_refl _
  | succ n _ ih => rw [prefixSum_succ]; omega

/-- The value of a lane after some levels: the sum of the 2^k terms that end with its own, or of as many as there are (R264). -/
def windowSum (x : Nat → Nat) (k i : Nat) : Nat := (prefixSum x (i + 1) - prefixSum x (i + 1 - 2 ^ k)) % 2 ^ 32

theorem windowSum_succ (x : Nat → Nat) (k i : Nat) :
    windowSum x (k + 1) i = if 2 ^ k ≤ i then (windowSum x k (i - 2 ^ k) + windowSum x k i) % 2 ^ 32 else windowSum x k i := by
  unfold windowSum
  rw [show 2 ^ (k + 1) = 2 ^ k + 2 ^ k by rw [Nat.pow_succ]; omega]
  generalize 2 ^ k = p
  split
  · rename_i inside
    have start : i - p + 1 = i + 1 - p := by omega
    have before : i - p + 1 - p = i + 1 - (p + p) := by omega
    have low := prefixSum_mono x (show i + 1 - (p + p) ≤ i + 1 - p by omega)
    have high := prefixSum_mono x (show i + 1 - p ≤ i + 1 by omega)
    rw [before, start, ← Nat.add_mod]
    congr 1
    omega
  · rename_i outside
    rw [show i + 1 - (p + p) = 0 by omega, show i + 1 - p = 0 by omega]

theorem scanLevel_window {subn k : Nat} {x : Nat → Nat} :
    scanLevel subn 0 k ((List.range 32).map fun i => (windowSum x k i, 0)) = (List.range 32).map fun i => (windowSum x (k + 1) i, 0) := by
  apply List.ext_getElem?
  intro i
  simp only [scanLevel, List.getElem?_mapIdx, List.getElem?_map]
  by_cases h : i < 32
  · simp only [List.getElem?_range h, Option.map_some, windowSum_succ]
    split
    · rename_i inside
      have before : i - 2 ^ k < 32 := Nat.lt_of_le_of_lt (Nat.sub_le _ _) h
      simp only [nth, List.getElem?_map, List.getElem?_range before, Option.map_some, Option.getD_some, addStep_integer]
    · rfl
  · simp [h]

theorem scanLevels_window (subn : Nat) (x : Nat → Nat) (small : ∀ i, x i < 2 ^ 32) (n : Nat) :
    (List.range n).foldl (fun l k => scanLevel subn 0 k l) ((List.range 32).map fun i => (x i, 0)) =
      (List.range 32).map fun i => (windowSum x n i, 0) := by
  induction n with
  | zero =>
    have own (i : Nat) : windowSum x 0 i = x i := by
      rw [windowSum, Nat.pow_zero, Nat.add_sub_cancel, prefixSum_succ, Nat.add_sub_cancel_left, Nat.mod_eq_of_lt (small i)]
    simp only [own]
    rfl
  | succ n ih => rw [List.range_succ (n := n), List.foldl_append, ih, List.foldl_cons, List.foldl_nil, scanLevel_window]

theorem scan_integer (s : State) (v : View) (a : Nat) {l : Nat} (h : l < 32) :
    (nth (scan s v 0 a) l (0, 0)).1 = ((List.range (l + 1)).map (laneTerm s v a)).sum % 2 ^ 32 := by
  have full : l + 1 - 2 ^ 5 = 0 := by omega
  rw [scan, spread_integer, scanLevels_window _ _ (laneTerm_lt s v a)]
  simp only [nth, List.getElem?_map, List.getElem?_range h, Option.map_some, Option.getD_some, windowSum, full]
  rfl

/-- Settles O10: the tree keeps the sum of its list, a level of the scan doubles the window of a lane. -/
theorem integerReductionsAreSums : Obligations.IntegerReductionsAreSums :=
  fun s v a => ⟨reduce_integer s v a, fun _ => scan_integer s v a, fun ls _ => maskOf_getLsbD ls⟩

end Sys2Proof
end

section
/-! Float arithmetic (R150, R155, R162, R163, R250): NaN operands and invalid operations, and rounding of values that a format
holds. -/

namespace Sys2Proof

open Machine

/-! ## NaN (R250) -/

/-- A NaN is no subnormal, so the input rule keeps it and sets no flag (R163). -/
theorem input_nan {w : Nat} (subn : Nat) (h : (f32.decode w).isNan = true) : f32.input subn w = (.nan, 0) := by
  have value : f32.decode w = .nan := by
    cases e : f32.decode w <;> simp [e, Machine.Num.isNan] at h ⊢
  have exponent : fld w f32.mb f32.eb ≠ 0 := by
    intro zero
    rw [Fmt.decode, zero] at value
    simp [f32] at value
  have normal : f32.isSub w = false := by simp [Fmt.isSub, exponent]
  simp [Fmt.input, normal, value]

theorem add_nan (x : Machine.Num) : x.add .nan = .nan := by cases x <;> rfl

theorem mul_nan (x : Machine.Num) : x.mul .nan = .nan := by cases x <;> rfl

theorem badAdd_nan (x : Machine.Num) : badAdd x .nan = false := by cases x <;> rfl

theorem badMul_nan (x : Machine.Num) : badMul x .nan = false := by cases x <;> rfl

theorem nan_badMul (y : Machine.Num) : badMul .nan y = false := by cases y <;> rfl

/-- A NaN that no invalid operation makes rounds to the one NaN with no flag. -/
theorem finish_nan (rm subn : Nat) : finish f32 rm subn false .nan = (0x7FC00000, 0) := rfl

/-- The result of a sum or product of which one operand is a NaN. -/
theorem flt_nan (rm subn : Nat) {a b : Nat} (h : ((f32.decode a).isNan || (f32.decode b).isNan) = true) :
    fltAdd f32 rm subn a b = (0x7FC00000, (f32.input subn a).2 ||| (f32.input subn b).2) ∧
    fltSub f32 rm subn a b = (0x7FC00000, (f32.input subn a).2 ||| (f32.input subn b).2) ∧
    fltMul f32 rm subn a b = (0x7FC00000, (f32.input subn a).2 ||| (f32.input subn b).2) := by
  rcases Bool.or_eq_true_iff.mp h with first | second
  · simp [fltAdd, fltSub, fltMul, input_nan subn first, Machine.Num.add, Machine.Num.mul, badAdd, nan_badMul, finish_nan]
  · simp [fltAdd, fltSub, fltMul, input_nan subn second, add_nan, mul_nan, badAdd_nan, badMul_nan, finish_nan, Machine.Num.negate]

/-- A fused form whose addend is a NaN and whose product is valid. -/
theorem fma_nan (rm subn : Nat) (n k : Bool) {a b d : Nat} (h : (f32.decode d).isNan = true)
    (valid : badMul (f32.input subn a).1 (f32.input subn b).1 = false) :
    fltFma f32 rm subn n k a b d = (0x7FC00000, (f32.input subn a).2 ||| (f32.input subn b).2 ||| (f32.input subn d).2) := by
  cases k <;> simp [fltFma, input_nan subn h, valid, add_nan, badAdd_nan, finish_nan, Machine.Num.negate]

theorem input_of_not_sub {w : Nat} (subn : Nat) (h : f32.isSub w = false) : f32.input subn w = (f32.decode w, 0) := by
  simp [Fmt.input, h]

theorem decode_inf : f32.decode 0x7F800000 = .inf false := by decide

theorem decode_negInf : f32.decode 0xFF800000 = .inf true := by decide

theorem decode_zero : f32.decode 0 = .fin false 0 (-149) := by decide

/-- Settles O5: the input rule keeps a NaN, every operation on one gives a NaN, and ∞ − ∞ and 0 × ∞ are invalid. -/
theorem nanResults : Obligations.NanResults := by
  intro rm sb a b d
  refine ⟨flt_nan rm sb, fun n k hd valid => fma_nan rm sb n k hd (by simpa using valid), ?_, ?_⟩
  · rw [fltAdd, input_of_not_sub sb (by decide), input_of_not_sub sb (by decide), decode_inf, decode_negInf]
    rfl
  · rw [fltMul, input_of_not_sub sb (by decide), input_of_not_sub sb (by decide), decode_zero, decode_negInf]
    rfl

/-! ## Rounding of what FP32 holds (R155, R162) -/

/-- A number and its negation sum to +0 (R150). -/
theorem add_negation (n : Bool) (m : Nat) (e : Int) : Machine.Num.add (.fin n m e) (.fin (!n) m e) = .fin false 0 0 := by
  by_cases h : m = 0
  · cases n <;> simp [Machine.Num.add, h]
  · cases n <;> simp [Machine.Num.add, h, scaleTo]

/-- The value of a normal code: its sign, its fraction with the leading one, and its exponent (R149). -/
theorem decode_normal {w : Nat} (low : 1 ≤ w / 2 ^ 23 % 2 ^ 8) (high : w / 2 ^ 23 % 2 ^ 8 ≤ 254) :
    f32.decode w = .fin (bit w 31) (2 ^ 23 + w % 2 ^ 23) ((w / 2 ^ 23 % 2 ^ 8 : Nat) - 150) := by
  have finite : w / 2 ^ 23 % 2 ^ 8 ≠ 2 ^ 8 - 1 := by omega
  have normal : w / 2 ^ 23 % 2 ^ 8 ≠ 0 := by omega
  simp only [Fmt.decode, f32, fld]
  simp only [finite, normal, false_and, if_false, Nat.pow_zero, Nat.div_one]
  congr 1
  omega

/-- A fraction with its leading one has 24 bits. -/
theorem log2_fraction {m : Nat} (h : m < 2 ^ 23) : (2 ^ 23 + m).log2 = 23 :=
  (Nat.log2_eq_iff (by omega)).mpr ⟨by omega, by omega⟩

/-- Rounding a value of 24 bits whose exponent FP32 has loses nothing (R452). -/
theorem roundTo_normal (rm subn : Nat) (n : Bool) {m e : Nat} (hm : m < 2 ^ 23) (low : 1 ≤ e) (high : e ≤ 254) :
    roundTo f32 rm subn n (2 ^ 23 + m) ((e : Int) - 150) = .code (e * 2 ^ 23 + m) 0 := by
  have exact : roundAt rm n (2 ^ 23 + m) ((e : Int) - 150) ((e : Int) - 150) = (2 ^ 23 + m, false) := by
    simp [roundAt]
  have grid : ((23 : Nat) : Int) + ((e : Int) - 150) - (24 : Nat) + 1 = (e : Int) - 150 := by omega
  have code : ((((23 : Nat) : Int) + ((e : Int) - 150)) - (1 - (127 : Nat)) + 1).toNat * 2 ^ 23 + (2 ^ 23 + m - 2 ^ 23) = e * 2 ^ 23 + m := by
    omega
  have inRange : ¬ ((2 ^ 8 : Nat) : Int) - 2 - (127 : Nat) + 2 < ((23 : Nat) : Int) + ((e : Int) - 150) := by norm_num; omega
  have onGrid : ¬ ((23 : Nat) : Int) + ((e : Int) - 150) < 1 - (127 : Nat) - ((23 + 1 : Nat) : Int) - 4 := by norm_num; omega
  have normal : ¬ ((23 : Nat) : Int) + ((e : Int) - 150) < 1 - (127 : Nat) := by norm_num; omega
  have noCarry : ¬ 2 ^ 23 + m = 2 ^ (23 + 1) := by omega
  have noOverflow : ¬ (((2 ^ 8 : Nat) : Int) - 2 - (127 : Nat) < ((23 : Nat) : Int) + ((e : Int) - 150) ∨ 0x7F7FFFFF < e * 2 ^ 23 + m) := by
    norm_num
    omega
  simp only [roundTo, f32, log2_fraction hm, if_true, inRange, onGrid, if_false, grid, exact, noCarry, normal, code, noOverflow,
    Bool.false_eq_true]

/-- Settles O6: a normal code decodes to a value that rounding keeps; the exact zero of a sum is +0. -/
theorem roundingOfExactValues : Obligations.RoundingOfExactValues := by
  refine ⟨fun rm sb w small low high => ?_, fun rm sb n m e => ?_⟩
  · rw [decode_normal low high]
    unfold Fmt.round
    simp only [roundTo_normal rm sb _ (Nat.mod_lt w (Nat.two_pow_pos 23)) low high]
    rw [if_neg (by omega)]
    congr 1
    by_cases sign : w / 2 ^ 31 % 2 = 1
    · rw [if_pos (by rw [bit, sign]; rfl)]
      simp only [Fmt.signBit, f32]
      omega
    · rw [if_neg (by rw [bit, beq_iff_eq]; exact sign)]
      omega
  · rw [add_negation]
    rfl

end Sys2Proof
end

section
/-! What the operations of issue change of one group, and leave of all others: frames that compose, views, threads and lane
registers (R34, R172-R176). -/

namespace Sys2Proof

open Machine

/-! ## Frames compose -/

theorem Safety.onlyGroup_trans {s t u : State} {g : Gid} (h : Safety.onlyGroup s t g) (k : Safety.onlyGroup t u g) :
    Safety.onlyGroup s u g := by
  cases g with
  | warp c w =>
    obtain ⟨rest, cores, core, warps⟩ := h
    obtain ⟨rest', cores', core', warps'⟩ := k
    refine ⟨(congrArg (fun x : State => { x with cores := s.cores }) rest').trans rest, fun d hd => (cores' d hd).trans (cores d hd),
      ?_, fun j hj => (warps' j hj).trans (warps j hj)⟩
    exact (congrArg (fun x : Core => { x with warps := (coreOf s c).warps, quads := (coreOf s c).quads }) core').trans core
  | kindle c k =>
    obtain ⟨rest, pools, pool, slots⟩ := h
    obtain ⟨rest', pools', pool', slots'⟩ := k
    refine ⟨(congrArg (fun x : State => { x with pools := s.pools }) rest').trans rest, fun d hd => (pools' d hd).trans (pools d hd),
      ?_, fun j hj => (slots' j hj).trans (slots j hj)⟩
    exact (congrArg (fun x : Pool => { x with slots := (poolOf s c).slots, last := (poolOf s c).last }) pool').trans pool

theorem Safety.onlyGroup_refl (s : State) (g : Gid) : Safety.onlyGroup s s g := by
  cases g <;> exact ⟨rfl, fun _ _ => rfl, rfl, fun _ _ => rfl⟩

theorem onlyGroup_modWarp (s : State) (c w : Nat) (f : Warp → Warp) : Safety.onlyGroup s (modWarp s c w f) (.warp c w) :=
  Safety.onlyGroup_core s c w _ (fun _ => rfl) fun _ _ hj => tabGet_mod_other _ _ hj

theorem onlyGroup_modEj (s : State) (c k : Nat) (f : Ejected → Ejected) : Safety.onlyGroup s (modEj s c k f) (.kindle c k) :=
  Safety.onlyGroup_pool s c k _ (fun _ => rfl) fun _ _ hj => tabGet_mod_other _ _ hj

theorem onlyGroup_modRun (s : State) (g : Gid) (f : Run → Run) : Safety.onlyGroup s (modRun s g f) g := by
  cases g with
  | warp c w => exact onlyGroup_modWarp s c w _
  | kindle c k => exact onlyGroup_modEj s c k _

theorem onlyGroup_setPc (s : State) (g : Gid) (p : Pc) : Safety.onlyGroup s (setPc s g p) g := by
  cases g with
  | warp c w => exact onlyGroup_modWarp s c w _
  | kindle c k => exact onlyGroup_modEj s c k _

theorem onlyGroup_modThr (s : State) (g : Gid) (l : Nat) (f : Thread → Thread) : Safety.onlyGroup s (modThr s g l f) g := by
  cases g with
  | warp c w => exact onlyGroup_modWarp s c w _
  | kindle c k => exact onlyGroup_modEj s c k _

theorem onlyGroup_progress (s : State) (v : View) : Safety.onlyGroup s (progress s v) v.gid := by
  unfold progress
  split
  · rename_i hg
    rw [hg]
    exact onlyGroup_modWarp s _ _ _
  · exact Safety.onlyGroup_refl s _

theorem onlyGroup_useIssuer (s : State) (v : View) (idle : Nat) (parks : Bool) : Safety.onlyGroup s (useIssuer s v idle parks) v.gid := by
  unfold useIssuer
  split
  · rename_i hg
    rw [hg]
    exact Safety.onlyGroup_core s _ _ _ (fun _ => rfl) fun _ _ _ => rfl
  · rename_i hg
    rw [hg]
    exact Safety.onlyGroup_pool s _ _ _ (fun _ => rfl) fun _ _ _ => rfl

theorem onlyGroup_advance (i : Instr) (s : State) (v : View) (act : ParkAct) (idle : Nat) :
    Safety.onlyGroup s (advance i s v act idle) v.gid :=
  Safety.onlyGroup_trans (onlyGroup_setPc s v.gid _) (Safety.onlyGroup_trans (onlyGroup_modRun _ v.gid _) (onlyGroup_useIssuer _ v _ _))

theorem onlyGroup_foldl {α : Type} (g : Gid) {f : State → α → State} (h : ∀ s a, Safety.onlyGroup s (f s a) g) (l : List α) (s : State) :
    Safety.onlyGroup s (l.foldl f s) g := by
  induction l generalizing s with
  | nil => exact Safety.onlyGroup_refl s g
  | cons a r ih => exact Safety.onlyGroup_trans (h s a) (ih _)

/-! ## Warps and ejected threads -/

theorem warpOf_modWarp_eq (s : State) (c w : Nat) (f : Warp → Warp) (d x : Nat) :
    warpOf (modWarp s c w f) d x = if d = c ∧ x = w then (warpOf s d x).map f else warpOf s d x := by
  by_cases hd : d = c
  · subst hd
    by_cases hx : x = w
    · subst hx
      simp
    · simp [hx, warpOf, modWarp]
  · simp [hd, warpOf, modWarp, coreOf_modCore_other s _ hd]

theorem ejOf_modEj_eq (s : State) (c k : Nat) (f : Ejected → Ejected) (d x : Nat) :
    ejOf (modEj s c k f) d x = if d = c ∧ x = k then (ejOf s d x).map f else ejOf s d x := by
  by_cases hd : d = c
  · subst hd
    by_cases hx : x = k
    · subst hx
      simp [ejOf, modEj]
    · simp [hx, ejOf, modEj]
  · simp [hd, ejOf, modEj, poolOf_modPool_other s _ hd]

@[simp] theorem ejOf_modEj (s : State) (c k : Nat) (f : Ejected → Ejected) : ejOf (modEj s c k f) c k = (ejOf s c k).map f := by
  simp [ejOf_modEj_eq]

/-- What a warp shows by some of its fields is kept by a change of the others. -/
theorem warpOf_modWarp_field {α : Type} {f : Warp → Warp} {field : Warp → α} (h : ∀ x, field (f x) = field x) (s : State) (c w d x : Nat) :
    (warpOf (modWarp s c w f) d x).map field = (warpOf s d x).map field := by
  rw [warpOf_modWarp_eq]
  split
  · rw [Option.map_map]
    exact congrArg (fun g => (warpOf s d x).map g) (funext h)
  · rfl

theorem ejOf_modEj_field {α : Type} {f : Ejected → Ejected} {field : Ejected → α} (h : ∀ x, field (f x) = field x) (s : State)
    (c k d x : Nat) : (ejOf (modEj s c k f) d x).map field = (ejOf s d x).map field := by
  rw [ejOf_modEj_eq]
  split
  · rw [Option.map_map]
    exact congrArg (fun g => (ejOf s d x).map g) (funext h)
  · rfl

/-! ## Threads and lane registers -/

/-- What a group's threads and lane registers are read from: the store of the core and the lanes of the warp, or the ejected thread
with its registers. -/
def groupData (s : State) : Gid → (Memory × Option (List Lane)) ⊕ Option (Nat × Thread × Tab Word × Tab Word)
  | .warp c w => .inl ((coreOf s c).store, (warpOf s c w).map (·.lanes))
  | .kindle c k => .inr ((ejOf s c k).map fun e => (e.lane, e.thr, e.regs, e.tmps))

theorem thrOf_congr {s t : State} {g : Gid} (h : groupData t g = groupData s g) (l : Nat) : thrOf t g l = thrOf s g l := by
  cases g with
  | warp c w =>
    have lanes : (warpOf t c w).map (·.lanes) = (warpOf s c w).map (·.lanes) := (Prod.mk.inj (Sum.inl.inj h)).2
    have of (u : State) : thrOf u (.warp c w) l = (((warpOf u c w).map (·.lanes)).bind (·[l]?)).bind (·.thr) := by
      rw [Option.bind_map]
      rfl
    rw [of, of, lanes]
  | kindle c k =>
    have same := Sum.inr.inj h
    have of (u : State) : thrOf u (.kindle c k) l =
        ((ejOf u c k).map fun e => (e.lane, e.thr, e.regs, e.tmps)).bind fun e => if e.1 = l then some e.2.1 else none := by
      rw [Option.bind_map]
      rfl
    rw [of, of, same]

theorem readX_congr {s t : State} {v : View} (h : groupData t v.gid = groupData s v.gid) (l r : Nat) : readX t v l r = readX s v l r := by
  unfold readX
  cases hg : v.gid with
  | warp c w =>
    rw [hg] at h
    obtain ⟨store, lanes⟩ := Prod.mk.inj (Sum.inl.inj h)
    have tmps (u : State) : ((warpOf u c w).bind fun x => x.lanes[l]?) = ((warpOf u c w).map (·.lanes)).bind (·[l]?) := by
      rw [Option.bind_map]
      rfl
    simp only [tmps, store, lanes]
  | kindle c k =>
    rw [hg] at h
    have same := Sum.inr.inj h
    dsimp only
    cases ht : ejOf t c k with
    | none => cases hs : ejOf s c k with
      | none => rfl
      | some e => simp [ht, hs] at same
    | some d => cases hs : ejOf s c k with
      | none => simp [ht, hs] at same
      | some e =>
        simp only [ht, hs, Option.map_some, Option.some.injEq, Prod.mk.injEq] at same
        obtain ⟨-, -, regs, tmps⟩ := same
        simp only [regs, tmps]

theorem readP_congr {s t : State} {v : View} (h : groupData t v.gid = groupData s v.gid) (l p : Nat) : readP t v l p = readP s v l p := by
  simp only [readP, thrOf_congr h]

theorem groupData_modWarp {f : Warp → Warp} (h : ∀ x, (f x).lanes = x.lanes) (s : State) (c w : Nat) (g : Gid) :
    groupData (modWarp s c w f) g = groupData s g := by
  cases g with
  | warp d x =>
    simp only [groupData, warpOf_modWarp_field h]
    rw [coreOf_modWarp_field (field := Core.store) fun _ _ => rfl]
  | kindle d x => rfl

theorem groupData_modEj {f : Ejected → Ejected} (h : ∀ e, ((f e).lane, (f e).thr, (f e).regs, (f e).tmps) = (e.lane, e.thr, e.regs, e.tmps))
    (s : State) (c k : Nat) (g : Gid) : groupData (modEj s c k f) g = groupData s g := by
  cases g with
  | warp d x => rfl
  | kindle d x => exact congrArg Sum.inr (ejOf_modEj_field (field := fun e => (e.lane, e.thr, e.regs, e.tmps)) h s c k d x)

theorem groupData_modRun (s : State) (g : Gid) (f : Run → Run) (k : Gid) : groupData (modRun s g f) k = groupData s k := by
  cases g with
  | warp c w => exact groupData_modWarp (fun _ => by rfl) s c w k
  | kindle c j => exact groupData_modEj (fun _ => by rfl) s c j k

theorem groupData_setPc (s : State) (g : Gid) (p : Pc) (k : Gid) : groupData (setPc s g p) k = groupData s k := by
  cases g with
  | warp c w => exact groupData_modWarp (fun _ => by rfl) s c w k
  | kindle c j => exact groupData_modEj (fun _ => by rfl) s c j k

theorem groupData_modCore {f : Core → Core} (store : ∀ k, (f k).store = k.store) (warps : ∀ k, (f k).warps = k.warps) (s : State) (c : Nat)
    (g : Gid) : groupData (modCore s c f) g = groupData s g := by
  cases g with
  | warp d x => rw [groupData, groupData, warpOf_modCore_eq warps, coreOf_modCore_field store]
  | kindle d x => rfl

theorem groupData_modPool {f : Pool → Pool} (h : ∀ p, (f p).slots = p.slots) (s : State) (c : Nat) (g : Gid) :
    groupData (modPool s c f) g = groupData s g := by
  cases g with
  | warp d x => rfl
  | kindle d x =>
    have same : ejOf (modPool s c f) d x = ejOf s d x := by
      by_cases hd : d = c
      · subst hd
        rw [ejOf, poolOf_modPool, h, ejOf]
      · rw [ejOf, poolOf_modPool_other s f hd, ejOf]
    rw [groupData, groupData, same]

theorem groupData_useIssuer (s : State) (v : View) (idle : Nat) (parks : Bool) (k : Gid) :
    groupData (useIssuer s v idle parks) k = groupData s k := by
  unfold useIssuer
  split
  · exact groupData_modCore (fun _ => by rfl) (fun _ => by rfl) s _ k
  · exact groupData_modPool (fun _ => by rfl) s _ k

theorem groupData_advance (i : Instr) (s : State) (v : View) (act : ParkAct) (idle : Nat) (k : Gid) :
    groupData (advance i s v act idle) k = groupData s k :=
  (groupData_useIssuer ..).trans ((groupData_modRun ..).trans (groupData_setPc ..))

/-! ## Views -/

theorem view_modRun (s : State) (g : Gid) (f : Run → Run) : view (modRun s g f) g = (view s g).map fun v => { v with run := f v.run } := by
  cases g with
  | warp c w =>
    rw [view_warp_eq, view_warp_eq, modRun, warpOf_modWarp, Option.map_map, Option.map_map]
    rfl
  | kindle c k =>
    rw [view_kindle_eq, view_kindle_eq, modRun, ejOf_modEj, Option.map_map, Option.map_map]
    rfl

theorem view_setPc (s : State) (g : Gid) (p : Pc) : view (setPc s g p) g = (view s g).map fun v => { v with pc := p } := by
  cases g with
  | warp c w =>
    rw [view_warp_eq, view_warp_eq, setPc, warpOf_modWarp, Option.map_map, Option.map_map]
    rfl
  | kindle c k =>
    rw [view_kindle_eq, view_kindle_eq, setPc, ejOf_modEj, Option.map_map, Option.map_map]
    rfl

theorem warpOf_useIssuer (s : State) (v : View) (idle : Nat) (parks : Bool) (c w : Nat) :
    warpOf (useIssuer s v idle parks) c w = warpOf s c w := by
  unfold useIssuer
  split
  · exact coreOf_modCore_field (field := fun k => tabGet w k.warps) (fun _ => by rfl) c
  · rfl

theorem ejOf_useIssuer (s : State) (v : View) (idle : Nat) (parks : Bool) (c k : Nat) : ejOf (useIssuer s v idle parks) c k = ejOf s c k := by
  unfold useIssuer
  split
  · rfl
  · rename_i cl j _
    by_cases hd : c = cl
    · subst hd
      rw [ejOf, poolOf_modPool, ejOf]
    · rw [ejOf, poolOf_modPool_other s _ hd, ejOf]

theorem view_useIssuer (s : State) (v : View) (idle : Nat) (parks : Bool) (g : Gid) : view (useIssuer s v idle parks) g = view s g := by
  cases g with
  | warp c w => rw [view_warp_eq, view_warp_eq, warpOf_useIssuer]
  | kindle c k => rw [view_kindle_eq, view_kindle_eq, ejOf_useIssuer]

/-- A group after the advance: the program counter moved, its run one instruction longer (R172). -/
theorem view_advance (i : Instr) (s : State) (v : View) (act : ParkAct) (idle : Nat) :
    view (advance i s v act idle) v.gid = (view s v.gid).map fun u => { u with
      pc := v.pc + BitVec.ofNat 48 (instrLength i)
      run := { u.run with count := u.run.count + 1, nextAt := s.now + 1 + idle
                          status := if endsRun i then .parked act else .running } } := by
  simp only [advance, view_useIssuer, view_modRun, view_setPc, Option.map_map, Function.comp_def]

theorem view_modThr (s : State) (g : Gid) (l : Nat) (f : Thread → Thread) : view (modThr s g l f) g = view s g := by
  cases g with
  | warp c w =>
    have act (x : Warp) : activeLanes (modLane x l fun y => { y with thr := y.thr.map f }) = activeLanes x := by
      simp only [activeLanes, lanesIn, modLane, List.getElem?_mapIdx]
      congr 1
      funext j
      cases x.lanes[j]? with
      | none => rfl
      | some y =>
        simp only [Option.map_some]
        split <;> rfl
    rw [view_warp_eq, view_warp_eq, modThr, warpOf_modWarp, Option.map_map]
    congr 1
    funext x
    simp only [viewOfWarp, Function.comp_def, act]
    rfl
  | kindle c k =>
    rw [view_kindle_eq, view_kindle_eq, modThr, ejOf_modEj, Option.map_map]
    congr 1
    funext e
    simp only [Function.comp_def]
    split <;> rfl

/-- The active lanes of a group in hand are listed once. -/
theorem act_nodup {s : State} {g : Gid} {v : View} (h : view s g = some v) : v.act.Nodup := by
  cases g with
  | warp c w =>
    obtain ⟨x, _, rfl⟩ := view_warp h
    exact List.nodup_range.filter _
  | kindle c k =>
    obtain ⟨e, _, rfl⟩ := view_kindle h
    exact List.nodup_singleton _

/-! ## Threads changed lane by lane -/

theorem thrOf_modThr (s : State) (g : Gid) (l : Nat) (f : Thread → Thread) (m : Nat) :
    thrOf (modThr s g l f) g m = if m = l then (thrOf s g m).map f else thrOf s g m := by
  cases g with
  | warp c w =>
    simp only [thrOf, modThr, warpOf_modWarp]
    cases warpOf s c w with
    | none => simp
    | some x =>
      simp only [Option.map_some, Option.bind_some, modLane, List.getElem?_mapIdx]
      cases x.lanes[m]? with
      | none => simp
      | some y =>
        simp only [Option.map_some, Option.bind_some]
        split <;> rfl
  | kindle c k =>
    simp only [thrOf, modThr, ejOf_modEj]
    cases ejOf s c k with
    | none => simp
    | some e =>
      simp only [Option.map_some, Option.bind_some]
      by_cases hl : e.lane = l
      · by_cases hm : m = l
        · simp [hl, hm]
        · simp [hl, hm, Ne.symm hm]
      · by_cases hm : m = l
        · simp [hl, hm]
        · simp [hl, hm]

/-- Threads of lanes named once, each changed by a function of its lane. -/
theorem thrOf_foldl_modThr (g : Gid) (f : Nat → Thread → Thread) {ls : List Nat} (once : ls.Nodup) (s : State) (m : Nat) :
    thrOf (ls.foldl (fun a l => modThr a g l (f l)) s) g m = (thrOf s g m).map fun t => if m ∈ ls then f m t else t := by
  induction ls generalizing s with
  | nil => simp
  | cons l r ih =>
    obtain ⟨fresh, once⟩ := List.nodup_cons.mp once
    rw [List.foldl_cons, ih once, thrOf_modThr]
    by_cases hm : m = l
    · subst hm
      simp [fresh, Function.comp_def]
    · simp [hm]

theorem view_foldl_modThr (g : Gid) (f : Nat → Thread → Thread) (ls : List Nat) (s : State) :
    view (ls.foldl (fun a l => modThr a g l (f l)) s) g = view s g := by
  induction ls generalizing s with
  | nil => rfl
  | cons l r ih => rw [List.foldl_cons, ih, view_modThr]

theorem readX_modThr (s : State) (v : View) (l : Nat) (f : Thread → Thread) (m r : Nat) :
    readX (modThr s v.gid l f) v m r = readX s v m r := by
  unfold readX
  cases v.gid with
  | warp c w =>
    have store : (coreOf (modThr s (.warp c w) l f) c).store = (coreOf s c).store :=
      coreOf_modWarp_field (field := Core.store) (fun _ _ => rfl) c
    dsimp only
    rw [store, modThr, warpOf_modWarp]
    cases warpOf s c w with
    | none => rfl
    | some x =>
      simp only [Option.map_some, Option.bind_some, modLane, List.getElem?_mapIdx]
      cases x.lanes[m]? with
      | none => rfl
      | some y =>
        simp only [Option.map_some]
        split <;> [rfl; (split <;> rfl)]
  | kindle c k =>
    dsimp only
    rw [modThr, ejOf_modEj]
    cases ejOf s c k with
    | none => rfl
    | some e =>
      simp only [Option.map_some]
      by_cases hl : e.lane = l
      · simp only [hl, if_true]
      · simp only [hl, if_false]

theorem readX_foldl_modThr (v : View) (f : Nat → Thread → Thread) (ls : List Nat) (s : State) (m r : Nat) :
    readX (ls.foldl (fun a l => modThr a v.gid l (f l)) s) v m r = readX s v m r := by
  induction ls generalizing s with
  | nil => rfl
  | cons l rest ih => rw [List.foldl_cons, ih, readX_modThr]

/-! ## The advance (R34, R172, R176) -/

theorem sameGroup_advance (i : Instr) (s : State) (v : View) (act : ParkAct) (idle : Nat) :
    Safety.sameGroup s (advance i s v act idle) v.gid := by
  cases hg : v.gid with
  | warp c w =>
    intro x hx
    rw [advance_warp hg, warpOf, coreOf_modCore, tabGet_mod_same, show tabGet w (coreOf s c).warps = some x from hx]
    exact ⟨_, rfl, rfl⟩
  | kindle c k =>
    intro x hx
    rw [advance_kindle hg, ejOf, poolOf_modPool, tabGet_mod_same, show tabGet k (poolOf s c).slots = some x from hx]
    exact ⟨_, rfl, rfl⟩

/-- The quadrant of a warp after the advance: held until the park, and idle for some cycles. -/
theorem quads_advance {i : Instr} {s : State} {v : View} {act : ParkAct} {idle c w : Nat} (hg : v.gid = .warp c w) (j : Nat) :
    (coreOf (advance i s v act idle) c).quads[j]? = (coreOf s c).quads[j]?.map fun q =>
      if j = w % 4 then { q with holder := if endsRun i then none else some w, nextAt := s.now + 1 + idle } else q := by
  rw [advance_warp hg, coreOf_modCore, List.getElem?_mapIdx]

theorem last_advance {i : Instr} {s : State} {v : View} {act : ParkAct} {idle c k : Nat} (hg : v.gid = .kindle c k) :
    tabGet (k % 16) (poolOf (advance i s v act idle) c).last = some (k, s.now + 1) := by
  rw [advance_kindle hg, poolOf_modPool, tabGet_put_same]

end Sys2Proof
end

section
/-! Special registers, the advance of an instruction and the targets of transfers (R172, R202, R225-R227). -/

namespace Sys2Proof

open Machine

/-! ## Special registers (R225-R227) -/

/-- A `wrsr` leaves one write for every active thread of a thread-held register, and one for the others (R226). -/
theorem wrsr_completes {r : BitVec 6} {a : BitVec 7} {w : BitVec 1} {s : State} {v : View} (h : Safety.Issues (.wrsr r a w) s v) :
    Safety.Completes (.wrsr r a w) s v 4
      ((if r.toNat = 13 ∨ r.toNat = 14 ∨ r.toNat = 22 ∨ r.toNat = 24 then v.act else v.act.take 1).map fun l =>
        .sr r.toNat l (readX s v l a.toNat)) := by
  have held : threadHeld r.toNat = decide (r.toNat = 13 ∨ r.toNat = 14 ∨ r.toNat = 22 ∨ r.toNat = 24) := by
    simp [threadHeld, beq_eq_decide, Bool.decide_or, Bool.or_assoc]
  refine h.leavesWrites (pre := fun _ _ => none) rfl rfl rfl ?_
  simp only [plain, held, decide_eq_true_eq]
  rfl

/-- The group with the writes of MODE of its active threads dropped and MODE.RM of each set (R227). -/
def withMode (s : State) (v : View) (m : BitVec 2) : State :=
  v.act.foldl (fun a l => modThr a v.gid l fun t => { t with rm := m })
    (modRun s v.gid fun r => { r with pend := r.pend.filter fun p => !pendsMode v.act p || decide (p.due ≤ s.now) })

theorem mode_goes {m : BitVec 2} {w : BitVec 1} {s : State} {v : View} (h : Safety.Issues (.mode m w) s v) :
    exec (.mode m w) s = .next (advance (.mode m w) (withMode s v m) v .next 0) :=
  h.does (own := noTrap) (pre := fun _ _ => none) rfl rfl rfl

/-- Settles O12: `rdsr` and `wrsr` by their equations; the threads, registers and view of the state that `mode` leaves. -/
theorem specialRegisterResults : Obligations.SpecialRegisterResults := by
  intro r a d m w
  refine ⟨Safety.perLane_plain _ (fun _ => rfl) fun _ _ _ => rfl, fun s v => wrsr_completes, fun s v h => ⟨_, mode_goes h, ?_, ?_, ?_, ?_⟩⟩
  · exact Safety.onlyGroup_trans (Safety.onlyGroup_trans (onlyGroup_modRun s v.gid _)
      (onlyGroup_foldl v.gid (fun s l => onlyGroup_modThr s v.gid l _) v.act _)) (onlyGroup_advance ..)
  · intro l
    rw [thrOf_congr (groupData_advance ..), withMode, thrOf_foldl_modThr v.gid (fun _ t => { t with rm := m }) (act_nodup h.group),
      thrOf_congr (groupData_modRun ..)]
  · intro l x
    rw [readX_congr (groupData_advance ..), withMode, readX_foldl_modThr v (fun _ t => { t with rm := m }),
      readX_congr (groupData_modRun ..)]
  · have after := view_advance (.mode m w) (withMode s v m) v .next 0
    rw [withMode, view_foldl_modThr v.gid (fun _ t => { t with rm := m }), view_modRun, h.group] at after
    exact ⟨_, after, rfl, rfl, rfl, rfl⟩

/-! ## The advance and targets (R172, R202, R117) -/

/-- An active forwarding entry that holds an address. -/
def Holds (f : Fwd) (a : Nat) : Prop := f.active = true ∧ f.old * 4096 ≤ a ∧ a < (f.old + f.len) * 4096

/-- The search for an entry finds one that holds the address, if any does. -/
theorem forward_cases (s : State) (part a : Nat) :
    (forward s part a = a ∧ ∀ e ∈ (feOf s part).fwd, ¬ Holds e.2 a) ∨
    ∃ e ∈ (feOf s part).fwd, Holds e.2 a ∧ forward s part a = e.2.new * 4096 + (a - e.2.old * 4096) := by
  unfold forward
  split
  · rename_i n f found
    have holds := List.find?_some found
    simp only [Bool.and_eq_true, decide_eq_true_eq] at holds
    exact .inr ⟨(n, f), List.mem_of_find?_eq_some found, ⟨holds.1.1, holds.1.2, holds.2⟩, rfl⟩
  · rename_i none
    refine .inl ⟨rfl, fun e he holds => ?_⟩
    obtain ⟨active, low, high⟩ := holds
    simpa [active, low, high] using List.find?_eq_none.mp none e he

/-- Settles O13: the frame, the view and the issuer of the advance, and the one entry the forwarding can find. -/
theorem advanceAndTargets : Obligations.AdvanceAndTargets := by
  refine ⟨fun i s v act idle hv => ⟨onlyGroup_advance .., sameGroup_advance .., ?_, fun c w hg j q hq => ?_, fun cl k hg => last_advance hg⟩,
    fun s v n off => ⟨fun free => ?_, fun e he holds unique => ?_⟩⟩
  · rw [view_advance, hv]
    rfl
  · rw [quads_advance hg, hq]
    rfl
  · rcases forward_cases s (unitPart s v.unit) (v.pc + 2 * off.signExtend 48).toNat with ⟨same, -⟩ | ⟨e, he, holds, -⟩
    · rw [targetOf, forwardPc, same, BitVec.ofNat_toNat, BitVec.setWidth_eq]
    · exact absurd holds (free e he)
  · rcases forward_cases s (unitPart s v.unit) (v.pc + 2 * off.signExtend 48).toNat with ⟨-, none⟩ | ⟨d, hd, found, moved⟩
    · exact absurd holds (none e he)
    · rw [targetOf, forwardPc, moved, unique d hd found]

end Sys2Proof
end

section
/-! SUPPORT. Results that land: what a register of the group reads as afterwards; and the state of reset. -/

namespace Sys2Proof
open Machine

namespace Machine

theorem tabGet_del_same {α : Type} {t : Tab α} {lo : Nat} (k : Nat) (h : Safety.rising t lo) : tabGet k (tabDel k t) = none := by
  have none_below : ∀ {t : Tab α} {lo : Nat}, Safety.rising t lo → k < lo → tabGet k t = none := by
    intro t
    induction t with
    | nil => intros; rfl
    | cons x r ih =>
      intro lo ht below
      rw [tabGet, if_neg (by have := ht.1; omega)]
      exact ih ht.2 (by have := ht.1; omega)
  induction t generalizing lo with
  | nil => rfl
  | cons x r ih =>
    obtain ⟨a, b⟩ := x
    rw [tabDel]
    split
    · next at_ => exact none_below h.2 (by rw [← at_]; exact Nat.lt_succ_self a)
    · next off => rw [tabGet, if_neg off]; exact ih h.2

theorem tabGetD_set_same {α : Type} [DecidableEq α] {t : Tab α} {lo : Nat} (dflt : α) (k : Nat) (x : α) (h : Safety.rising t lo) :
    tabGetD k dflt (tabSet dflt k x t) = x := by
  unfold tabSet tabGetD
  split
  · next same => rw [tabGet_del_same k h, same]; rfl
  · rw [tabGet_put_same]; rfl

theorem tabGetD_set_other {α : Type} [DecidableEq α] (t : Tab α) (dflt : α) {j k : Nat} (x : α) (h : j ≠ k) :
    tabGetD j dflt (tabSet dflt k x t) = tabGetD j dflt t := by
  unfold tabSet tabGetD
  split
  · rw [tabGet_del_other t h]
  · rw [tabGet_put_other x t h]

theorem read_write_outside {m : Memory} (l : List Byte) (a c n : Nat) (hm : m.wf = true) (h : c + n ≤ a ∨ a + l.length ≤ c) :
    (m.write a l).read c n = m.read c n := by
  induction n generalizing c with
  | zero => rfl
  | succ k ih =>
    rw [Memory.read, Memory.read, get_write_outside l a c hm (by omega), ih (c + 1) (by omega)]

theorem word_setWord_same {m : Memory} (a : Nat) (x : Word) (hm : m.wf = true) : (m.setWord a x).word a = x := by
  have back : (m.setWord a x).read a 4 = bytesOf 4 x.toNat := by
    simpa [Memory.setWord, bytesOf_length] using read_write (bytesOf 4 x.toNat) a hm
  rw [Memory.word, Memory.nat, back, natOf_bytesOf]
  apply BitVec.eq_of_toNat_eq
  simpa using x.isLt

theorem word_setWord_other {m : Memory} (a c : Nat) (x : Word) (hm : m.wf = true) (h : c + 4 ≤ a ∨ a + 4 ≤ c) :
    (m.setWord a x).word c = m.word c := by
  rw [Memory.word, Memory.nat, Memory.setWord, read_write_outside _ a c 4 hm (by simpa [bytesOf_length] using h)]
  rfl

/-- Two registers of a page are one or lie apart. -/
theorem regAddr_apart (page : Nat) {r l d m : Nat} (hl : l < 32) (hm : m < 32) (h : (d, m) ≠ (r, l)) :
    regAddr page d m + 4 ≤ regAddr page r l ∨ regAddr page r l + 4 ≤ regAddr page d m := by
  have : d ≠ r ∨ m ≠ l := by
    by_contra same
    exact h (by simp only [not_or, not_not] at same; rw [same.1, same.2])
  unfold regAddr
  omega

end Machine

theorem landWrite_x_warp {s : State} {v : View} {c w : Nat} (g : v.gid = .warp c w) {r : Nat} (hr : r < 120) (l : Nat) (x : Word) :
    landWrite s v (.x r l x) = modCore s c fun k =>
      { clearPoison k (regAddr v.page r l) with store := k.store.setWord (regAddr v.page r l) x } := by
  simp only [landWrite, g, if_pos hr]

theorem landWrite_x_kindle {s : State} {v : View} {cl k : Nat} (g : v.gid = .kindle cl k) {r : Nat} (hr : r < 120) (l : Nat) (x : Word) :
    landWrite s v (.x r l x) = modEj s cl k fun e =>
      { e with regs := tabSet 0 r x e.regs
               written := if e.written.contains r then e.written else e.written ++ [r]
               poison := e.poison.filter fun p => p != r } := by
  simp only [landWrite, g, if_pos hr]

theorem readX_warp {s : State} {v : View} {c w : Nat} (g : v.gid = .warp c w) {r : Nat} (hr : r < 120) (l : Nat) :
    readX s v l r = (coreOf s c).store.word (regAddr v.page r l) := by
  simp only [readX, g, if_pos hr]

theorem readX_kindle {s : State} {v : View} {cl k : Nat} (g : v.gid = .kindle cl k) {r : Nat} (hr : r < 120) (l : Nat) :
    readX s v l r = ((ejOf s cl k).map fun e => tabGetD r 0 e.regs).getD 0 := by
  simp only [readX, g, if_pos hr]
  cases ejOf s cl k <;> rfl

/-- A landed lane register reads as the value, the other registers as before. -/
theorem landWrite_x_reads {s : State} {v : View} {r l d m : Nat} (x : Word) (hv : view s v.gid = some v) (hr : r < 120) (hd : d < 120)
    (hl : l < 32) (hm : m < 32) (ej : ∀ cl k e, v.gid = .kindle cl k → ejOf s cl k = some e → e.lane = l ∧ Safety.rising e.regs 0)
    (store : ∀ c w, v.gid = .warp c w → (coreOf s c).store.wf = true) :
    readX (landWrite s v (.x r l x)) v l r = x ∧
    ((d, m) ≠ (r, l) → v.kc = false ∨ m = l → readX (landWrite s v (.x r l x)) v m d = readX s v m d) := by
  rcases view_cases hv with ⟨-, g, -⟩ | ⟨kc, cl, k, e, g, he, -⟩
  · have wf := store _ _ g
    simp only [landWrite_x_warp g hr, readX_warp g hr, readX_warp g hd, coreOf_modCore]
    exact ⟨word_setWord_same _ x wf, fun other _ => word_setWord_other _ _ x wf (regAddr_apart v.page hl hm other)⟩
  · obtain ⟨-, rising⟩ := ej _ _ e g he
    simp only [landWrite_x_kindle g hr, readX_kindle g hr, readX_kindle g hd, ejOf_modEj, he, Option.map_some, Option.getD_some]
    refine ⟨tabGetD_set_same 0 r x rising, fun other own => tabGetD_set_other e.regs 0 x ?_⟩
    rintro rfl
    exact other (by rw [own.resolve_left (by simp [kc])])

/-- One pending write lands in the cycle in which it is due. -/
theorem landGroup_one {s : State} {v : View} (hv : view s v.gid = some v) (p : Pend) :
    landGroup (modRun s v.gid fun y => { y with pend := [p] }) v.gid =
      if p.due = s.now then landWrite (modRun s v.gid fun y => { y with pend := [p] }) { v with run := { v.run with pend := [p] } } p.w
      else modRun s v.gid fun y => { y with pend := if s.now < p.due then [p] else [] } := by
  have seen : view (modRun s v.gid fun y => { y with pend := [p] }) v.gid = some { v with run := { v.run with pend := [p] } } := by
    rw [view_modRun, hv]
    rfl
  unfold landGroup
  simp only [seen, modRun_now, modRun_modRun]
  rcases Nat.lt_trichotomy p.due s.now with past | now | later
  · simp [Nat.le_of_lt past, Nat.not_le_of_lt past, Nat.ne_of_lt past, Nat.not_lt_of_lt past, sortBy]
  · cases f : isFlags p.w <;> simp [now, f, sortBy, insBy]
  · simp [Nat.le_of_lt later, Nat.not_le_of_lt later, Nat.ne_of_gt later, later]

/-- Settles O23, from what a register reads after a write of the store or of the words of an ejected thread. -/
theorem resultsLand : Obligations.ResultsLand := by
  intro s v r l d m x hv hr hd hl hm ej store
  obtain ⟨lands, keeps⟩ := landWrite_x_reads x hv hr hd hl hm ej store
  exact ⟨lands, keeps, fun due iss => landGroup_one hv ⟨due, iss, .x r l x⟩⟩

/-- Settles O60: every table of reset is empty. -/
theorem resetState : Obligations.ResetState := by
  refine ⟨rfl, rfl, rfl, rfl, rfl, rfl, rfl, rfl, fun k => ?_, fun _ => rfl, fun _ => rfl, fun _ => ⟨rfl, rfl, rfl⟩,
    fun n q => ?_, reset_memories, fun _ => rfl⟩
  · simp [readyAt, State.reset, bit]
  · have queue : cqOf State.reset n q = Cq.reset := rfl
    rw [queue]
    exact ⟨by decide, rfl, rfl, rfl⟩
end Sys2Proof
end

section
/-! Traps (R229, R230, R376-R378): what an instruction that passes the common checks closes with, the raising of a trap, the entry into the
handler and the return from it. -/

namespace Sys2Proof
open Machine

/-! ## The close of an issue -/

/-- The state in which an instruction ends its issue, by what its tests or its effect answered. -/
def issued (i : Instr) (s : State) (v : View) : Did → State
  | .done t act idle => advance i t v act idle
  | .trap t => trapNow s v t
  | .wait t n => delayTo t v n
  | .left t => t

theorem Safety.Issues.closes {i : Instr} {s : State} {v : View} (h : Safety.Issues i s v) {own : State → View → Option Trap}
    {pre : State → View → Option Did} {effect : State → View → Did} (hx : exec i s = issuePre i s own pre effect)
    (ho : own s v = none) (hp : pre s v = none) : exec i s = .next (issued i s v (effect s v)) := by
  rw [hx]
  cases he : effect s v with
  | done t act idle => exact h.does ho hp he
  | trap t => exact h.traps ho hp he
  | wait t n => exact h.waits ho hp he
  | left t =>
    unfold issuePre
    simp only [h.issuing, h.group]
    unfold issueAt
    rw [Safety.arrives h.noMerge]
    simp only
    unfold issueAs
    simp only [h.common, ho, h.slotFree, hp, h.unpoisoned, he, Bool.false_eq_true, if_false]
    by_cases hm : matrixMajor (majorOf i) = true
    · obtain ⟨owned, free⟩ := h.owner hm
      simp [hm, owned, free, issued]
    · simp [hm, issued]

/-- The test of step 9 answers for the instruction. -/
theorem Safety.Issues.preCloses {i : Instr} {s : State} {v : View} (h : Safety.Issues i s v) {own : State → View → Option Trap}
    {pre : State → View → Option Did} {effect : State → View → Did} {d : Did} (hx : exec i s = issuePre i s own pre effect)
    (ho : own s v = none) (hp : pre s v = some d) : exec i s = .next (issued i s v d) :=
  h.closes (effect := fun _ _ => d) (hx.trans (h.preAsEffect hp)) ho rfl

/-- A trap of its own operands comes before every later test. -/
theorem Safety.Issues.ownTraps {i : Instr} {s : State} {v : View} (h : Safety.Issues i s v) {own : State → View → Option Trap}
    {pre : State → View → Option Did} {effect : State → View → Did} {t : Trap} (hx : exec i s = issuePre i s own pre effect)
    (ho : own s v = some t) : exec i s = .next (trapNow s v t) := by
  rw [hx, issuePre]
  simp only [h.issuing, h.group]
  rw [issueAt, Safety.arrives h.noMerge]
  simp only [issueAs, h.common, ho]

/-! ## What a view, a frame and a record of the launch do not depend on -/

namespace Machine

theorem view_congr {s t : State} (cores : t.cores = s.cores) (pools : t.pools = s.pools) (g : Gid) : view t g = view s g := by
  cases g <;> simp only [view, warpOf, coreOf, ejOf, poolOf, cores, pools]

@[simp] theorem modRun_launches (s : State) (g : Gid) (f : Run → Run) : (modRun s g f).launches = s.launches := by
  cases g <;> rfl

@[simp] theorem modRun_agenda (s : State) (g : Gid) (f : Run → Run) : (modRun s g f).agenda = s.agenda := by
  cases g <;> rfl

@[simp] theorem useIssuer_launches (s : State) (v : View) (idle : Nat) (parks : Bool) : (useIssuer s v idle parks).launches = s.launches := by
  unfold useIssuer
  split <;> rfl

@[simp] theorem useIssuer_agenda (s : State) (v : View) (idle : Nat) (parks : Bool) : (useIssuer s v idle parks).agenda = s.agenda := by
  unfold useIssuer
  split <;> rfl

theorem launchOf_congr {s t : State} (h : t.launches = s.launches) (l : Nat) : launchOf t l = launchOf s l := by
  simp only [launchOf, h]

theorem launchOf_modLaunch (s : State) (l : Nat) (f : Launch → Launch) : launchOf (modLaunch s l f) l = (launchOf s l).map f := by
  simp [launchOf, modLaunch]

theorem reftick_modRun (s : State) (g : Gid) (f : Run → Run) : reftick (modRun s g f) = reftick s := by
  cases g <;> rfl

end Machine

/-! ## A trap is raised (R376-R378) -/

/-- The records of the active threads in their handler are those of the lanes so marked. -/
theorem inHandler_threads (s : State) (v : View) (ls : List Nat) :
    ls.filterMap (fun l => (thrOf s v.gid l).filter (·.inHandler)) =
      (ls.filter fun l => ((thrOf s v.gid l).map (·.inHandler)).getD false).filterMap (thrOf s v.gid) := by
  induction ls with
  | nil => rfl
  | cons l r ih =>
    simp only [List.filterMap_cons, List.filter_cons, ih]
    cases h : thrOf s v.gid l with
    | none => rfl
    | some t => cases marked : t.inHandler <;> simp [Option.filter, h, marked]

/-- A fatal halt of a launch that has none yet: the record, and the stop 16 cycles later. -/
theorem haltLaunch_first {s : State} {l : Nat} {x : Launch} (hl : launchOf s l = some x) (first : x.fatal = none) (core wslot lane : Nat)
    (t : Trap) (second : Option Trap) : haltLaunch s l core wslot lane t second =
      schedule (modLaunch s l fun y => { y with fatal := some ⟨s.now, core, wslot, lane, t, second, 0, false, reftick s⟩ })
        (s.now + 16) .fatalStop (.of [l]) := by
  simp only [haltLaunch, hl, Option.bind_some, first]

/-- What a fatal trap leaves: the group stopped, the record of the halt, the stop to come. -/
theorem fatalTrap_spec {s : State} {v : View} {u : UnitSt} {l : Launch} (hv : view s v.gid = some v) (hu : unitOf s v.unit = some u)
    (hl : launchOf s u.launch = some l) (first : l.fatal = none) (t : Trap) (second : Option Trap) :
    let r := useIssuer (fatalTrap s v t second) v 0 true
    (∃ v', view r v.gid = some v' ∧ v'.run.status = .stopped) ∧
    launchOf r u.launch = some { l with fatal := some ⟨s.now, v.core, v.wslot, v.act.headD 0, t, second, 0, false, reftick s⟩ } ∧
    r.agenda = s.agenda ++ [⟨s.now + 16, .fatalStop, .of [u.launch]⟩] := by
  have stopped : launchOf (setStatus s v.gid .stopped) u.launch = some l := (launchOf_congr (modRun_launches ..) _).trans hl
  have halts : fatalTrap s v t second =
      haltLaunch (setStatus s v.gid .stopped) u.launch v.core v.wslot (v.act.headD 0) t second := by rw [fatalTrap, hu]
  rw [halts, haltLaunch_first stopped first]
  refine ⟨⟨{ v with run := { v.run with status := .stopped } }, ?_, rfl⟩, ?_, ?_⟩
  · rw [view_useIssuer]
    refine (view_congr (s := setStatus s v.gid .stopped) rfl rfl v.gid).trans ?_
    rw [setStatus, view_modRun, hv]
    rfl
  · rw [launchOf_congr (useIssuer_launches ..)]
    refine (launchOf_modLaunch (setStatus s v.gid .stopped) u.launch _).trans ?_
    rw [stopped]
    simp only [setStatus, modRun_now, reftick_modRun, Option.map_some]
  · rw [useIssuer_agenda]
    simp only [schedule, modLaunch, setStatus, modRun_agenda, modRun_now]

/-- The active lanes of a group whose threads are in their handler (R228). -/
def handlerLanes (s : State) (v : View) : List Nat := v.act.filter fun l => ((thrOf s v.gid l).map (·.inHandler)).getD false

theorem raiseTrap_parks {s : State} {v : View} {t : Trap} (none_ : handlerLanes s v = []) (handler : (unitFrame s v.unit).traph ≠ 0)
    (low : t.word % 256 < cNested) (rets : List (Nat × Pc)) :
    raiseTrap s v t rets = modRun s v.gid fun r => { r with trl := 0, status := .parked (.trap t rets) } := by
  rw [handlerLanes] at none_
  simp only [raiseTrap, inHandler_threads, none_, List.filterMap_nil, if_neg (not_or_intro handler (Nat.not_le_of_lt low))]

theorem raiseTrap_fatal {s : State} {v : View} {t : Trap} (none_ : handlerLanes s v = [])
    (fatal : (unitFrame s v.unit).traph = 0 ∨ cNested ≤ t.word % 256) (rets : List (Nat × Pc)) :
    raiseTrap s v t rets = fatalTrap s v t none := by
  rw [handlerLanes] at none_
  simp only [raiseTrap, inHandler_threads, none_, List.filterMap_nil, if_pos fatal]

theorem raiseTrap_nested {s : State} {v : View} {x : Nat} {rest : List Nat} {th : Thread} (some_ : handlerLanes s v = x :: rest)
    (hth : thrOf s v.gid x = some th) (t : Trap) (rets : List (Nat × Pc)) :
    raiseTrap s v t rets = fatalTrap s v (lastRecord th) (some (nestedRecord t)) := by
  rw [handlerLanes] at some_
  simp only [raiseTrap, inHandler_threads, some_, List.filterMap_cons, hth]

/-- Settles O21, along the three ways a trap goes: to the handler, fatal by itself, nested. -/
theorem trapsAreRaised : Obligations.TrapsAreRaised := by
  intro s v t u l hv hu hl first
  refine ⟨fun none_ handler low => ⟨_, rfl, ?_, ?_⟩, fun none_ fatal => ?_, fun x rest th some_ hth => ?_⟩
  · rw [trapNow, raiseTrap_parks none_ handler low]
    exact Safety.onlyGroup_trans (onlyGroup_modRun ..) (onlyGroup_useIssuer ..)
  · rw [trapNow, raiseTrap_parks none_ handler low, view_useIssuer, view_modRun, hv, Option.map_some]
  · rw [trapNow, raiseTrap_fatal none_ fatal]
    exact fatalTrap_spec hv hu hl first t none
  · rw [trapNow, raiseTrap_nested some_ hth]
    exact (fatalTrap_spec hv hu hl first (lastRecord th) (some (nestedRecord t))).2.1

/-! ## Into the handler and back (R228, R230) -/

theorem onlyGroup_startRun (s : State) (g : Gid) (since : Nat) : Safety.onlyGroup s (startRun s g since) g := by
  cases g with
  | warp c w => exact Safety.onlyGroup_trans (onlyGroup_modRun s (.warp c w) _) (onlyGroup_modWarp _ c w _)
  | kindle c k => exact Safety.onlyGroup_trans (onlyGroup_modRun s (.kindle c k) _) (onlyGroup_modEj _ c k _)

/-- A new run: the record of the run restarted, the rest of the view as before. -/
theorem view_startRun (s : State) (g : Gid) (since : Nat) :
    view (startRun s g since) g = (view s g).map fun v => { v with run := v.run.start since } := by
  refine Eq.trans ?_ (view_modRun s g fun r => r.start since)
  cases g with
  | warp c w =>
    have act (x : Warp) : activeLanes { x with lanes := x.lanes.map fun l => { l with tmps := [] } } = activeLanes x := by
      simp only [activeLanes, lanesIn, List.getElem?_map]
      congr 1
      funext j
      cases x.lanes[j]? <;> rfl
    rw [view_warp_eq, view_warp_eq, startRun, warpOf_modWarp, Option.map_map]
    simp only [Function.comp_def, viewOfWarp, act]
    rfl
  | kindle c k =>
    rw [view_kindle_eq, view_kindle_eq, startRun, ejOf_modEj, Option.map_map]
    rfl

theorem thrOf_modRun (s : State) (g : Gid) (f : Run → Run) (l : Nat) : thrOf (modRun s g f) g l = thrOf s g l :=
  thrOf_congr (groupData_modRun s g f g) l

theorem thrOf_startRun (s : State) (g : Gid) (since l : Nat) : thrOf (startRun s g since) g l = thrOf s g l := by
  rw [← thrOf_modRun s g (fun r => r.start since)]
  cases g with
  | warp c w =>
    simp only [startRun, thrOf, warpOf_modWarp]
    cases warpOf (modRun s (.warp c w) fun r => r.start since) c w with
    | none => rfl
    | some x =>
      simp only [Option.map_some, Option.bind_some, List.getElem?_map]
      cases x.lanes[l]? <;> rfl
  | kindle c k =>
    simp only [startRun, thrOf, ejOf_modEj]
    cases ejOf (modRun s (.kindle c k) fun r => r.start since) c k <;> rfl

theorem dropRegion_closed {s : State} {c w : Nat} (closed : ∀ x, warpOf s c w = some x → x.spec = none) : dropRegion s c w = s := by
  unfold dropRegion
  cases h : warpOf s c w with
  | none => rfl
  | some x => simp only [closed x h]

theorem spec_foldl_modThr (c w : Nat) (f : Nat → Thread → Thread) (ls : List Nat) (s : State) :
    (warpOf (ls.foldl (fun a l => modThr a (.warp c w) l (f l)) s) c w).map (·.spec) = (warpOf s c w).map (·.spec) := by
  induction ls generalizing s with
  | nil => rfl
  | cons l r ih =>
    rw [List.foldl_cons, ih, modThr, warpOf_modWarp, Option.map_map]
    rfl

/-- The count of an ejected thread starts again (R382). -/
def restartCount (s : State) (t0 : Nat) : Gid → State
  | .warp .. => s
  | .kindle cl k => modEj s cl k fun e => { e with t0 := t0 }

theorem onlyGroup_restartCount (s : State) (t0 : Nat) (g : Gid) : Safety.onlyGroup s (restartCount s t0 g) g := by
  cases g with
  | warp c w => exact Safety.onlyGroup_refl s _
  | kindle cl k => exact onlyGroup_modEj ..

theorem view_restartCount (s : State) (t0 : Nat) (g : Gid) : view (restartCount s t0 g) g = view s g := by
  cases g with
  | warp c w => rfl
  | kindle cl k =>
    rw [view_kindle_eq, view_kindle_eq, restartCount, ejOf_modEj, Option.map_map]
    rfl

theorem groupData_restartCount (s : State) (t0 : Nat) (g k : Gid) : groupData (restartCount s t0 g) k = groupData s k := by
  cases g with
  | warp c w => rfl
  | kindle cl j => exact groupData_modEj (f := fun e => { e with t0 := t0 }) (fun _ => rfl) s cl j k

/-- What the entry does to the group before its new run: the threads of its active lanes, and for an ejected thread its count. -/
def entered (s : State) (v : View) (t : Trap) (rets : List (Nat × Pc)) : State :=
  restartCount (v.act.foldl (fun a l => modThr a v.gid l (enterThread t rets l)) s) (tickOf s.now) v.gid

theorem enterHandler_eq {s : State} {v : View} (closed : ∀ c w x, v.gid = .warp c w → warpOf s c w = some x → x.spec = none)
    (t : Trap) (rets : List (Nat × Pc)) : enterHandler s v t rets =
      startRun (setPc (entered s v t rets) v.gid (forwardPc s (unitPart s v.unit) (BitVec.ofNat 48 (unitFrame s v.unit).traph.toNat)))
        v.gid (s.now + 4) := by
  unfold enterHandler entered
  cases hg : v.gid with
  | kindle cl k => rfl
  | warp c w =>
    have still := spec_foldl_modThr c w (enterThread t rets) v.act s
    have drop : dropRegion (v.act.foldl (fun a l => modThr a (.warp c w) l (enterThread t rets l)) s) c w =
        v.act.foldl (fun a l => modThr a (.warp c w) l (enterThread t rets l)) s := dropRegion_closed fun y hy => by
      rw [hy] at still
      cases hx : warpOf s c w with
      | none => simp [hx] at still
      | some x =>
        rw [hx] at still
        exact (Option.some.inj still).trans (closed c w x hg hx)
    simp only [drop, restartCount]

theorem onlyGroup_entered (s : State) (v : View) (t : Trap) (rets : List (Nat × Pc)) : Safety.onlyGroup s (entered s v t rets) v.gid :=
  Safety.onlyGroup_trans (onlyGroup_foldl v.gid (fun _ _ => onlyGroup_modThr ..) v.act s) (onlyGroup_restartCount ..)

theorem view_entered (s : State) (v : View) (t : Trap) (rets : List (Nat × Pc)) : view (entered s v t rets) v.gid = view s v.gid :=
  (view_restartCount ..).trans (view_foldl_modThr v.gid (enterThread t rets) v.act s)

theorem thrOf_entered (s : State) (v : View) (once : v.act.Nodup) (t : Trap) (rets : List (Nat × Pc)) (l : Nat) :
    thrOf (entered s v t rets) v.gid l = (thrOf s v.gid l).map fun x => if l ∈ v.act then enterThread t rets l x else x :=
  (thrOf_congr (groupData_restartCount ..) l).trans (thrOf_foldl_modThr v.gid (enterThread t rets) once s l)

/-- Where the handler of a unit lies, forwarded (R202, R228). -/
theorem handlerPc_modRun (s : State) (g : Gid) (f : Run → Run) (u : Nat) :
    forwardPc (modRun s g f) (unitPart (modRun s g f) u) (BitVec.ofNat 48 (unitFrame (modRun s g f) u).traph.toNat) =
      forwardPc s (unitPart s u) ((unitFrame s u).traph.setWidth 48) := by
  rw [BitVec.ofNat_toNat]
  cases g <;> rfl

/-- Settles O22: the entry marks the threads, sets the pc and starts a run, each of which leaves the rest of the group. -/
theorem handlerEntry : Obligations.HandlerEntry := by
  intro s v t rets hv once closed
  let u := modRun s v.gid fun r => { r with deferred := r.deferred.map fun d => { d with seen := true } }
  have closed' : ∀ c w x, v.gid = .warp c w → warpOf u c w = some x → x.spec = none := by
    intro c w x hg hx
    simp only [u, hg, modRun, warpOf_modWarp] at hx
    obtain ⟨y, hy, same⟩ := Option.map_eq_some_iff.mp hx
    rw [← same]
    exact closed c w y hg hy
  have enters : parkAction s v (.trap t rets) = enterHandler u v t rets := rfl
  rw [enters, enterHandler_eq closed']
  have thr (l : Nat) : thrOf (startRun (setPc (entered u v t rets) v.gid
      (forwardPc u (unitPart u v.unit) (BitVec.ofNat 48 (unitFrame u v.unit).traph.toNat))) v.gid (u.now + 4)) v.gid l =
      (thrOf s v.gid l).map fun x => if l ∈ v.act then enterThread t rets l x else x := by
    rw [thrOf_startRun, thrOf_congr (groupData_setPc ..), thrOf_entered _ _ once, thrOf_modRun]
  refine ⟨fun l hl th hth => ?_, fun l hl => ?_, ⟨{ v with
      pc := forwardPc s (unitPart s v.unit) ((unitFrame s v.unit).traph.setWidth 48)
      run := Run.start { v.run with deferred := v.run.deferred.map fun d => { d with seen := true } } (s.now + 4) }, ?_, rfl, rfl, rfl, rfl, rfl⟩, ?_⟩
  · rw [thr, hth, Option.map_some, if_pos hl]
    rfl
  · rw [thr]
    simp [hl]
  · rw [view_startRun, view_setPc, view_entered, handlerPc_modRun, view_modRun, hv, modRun_now]
    rfl
  · exact Safety.onlyGroup_trans (onlyGroup_modRun s v.gid _) (Safety.onlyGroup_trans (onlyGroup_entered ..)
      (Safety.onlyGroup_trans (onlyGroup_setPc ..) (onlyGroup_startRun ..)))

theorem onlyGroup_leaveHandler (s : State) (v : View) : Safety.onlyGroup s (leaveHandler s v) v.gid :=
  onlyGroup_foldl v.gid (fun _ _ => onlyGroup_modThr ..) v.act s

theorem thrOf_leaveHandler {s : State} {v : View} (once : v.act.Nodup) (l : Nat) : thrOf (leaveHandler s v) v.gid l =
    (thrOf s v.gid l).map fun x => if l ∈ v.act then { x with inHandler := false } else x :=
  thrOf_foldl_modThr v.gid (fun _ t => { t with inHandler := false }) once s l

/-- The saved return addresses are even: no trap ALIGN. -/
theorem oddTrap_none {v : View} {tgts : List (Nat × Nat)} (even : ∀ x ∈ tgts, x.2 % 2 = 0) : oddTrap v tgts = none := by
  rw [oddTrap, List.find?_eq_none.mpr fun x hx => by simp [even x hx]]
  rfl

theorem handlerTrap_none {s : State} {v : View} (h : ∀ l ∈ v.act, ((thrOf s v.gid l).map (·.inHandler)).getD false = true) :
    handlerTrap s v = none := if_pos (List.all_eq_true.mpr h)

theorem handlerTrap_some {s : State} {v : View} (h : ∃ l ∈ v.act, ((thrOf s v.gid l).map (·.inHandler)).getD false = false) :
    handlerTrap s v = some (precise v 0x0D 0x0A) := by
  obtain ⟨l, hl, out⟩ := h
  exact if_neg fun every => by simp [List.all_eq_true.mp every l hl] at out

/-- Settles O20, the instructions that raise a trap and then the return. -/
theorem softwareTrapsAndReturn : Obligations.SoftwareTrapsAndReturn := by
  refine ⟨fun c s v => ⟨fun h => h.closes rfl rfl rfl, fun h => h.closes rfl rfl rfl, fun h => h.closes rfl rfl rfl⟩,
    fun s v h => ⟨fun out => ?_, fun every even room => ?_⟩⟩
  · exact h.ownTraps rfl (by simp only [handlerTrap_some out, firstTrap])
  · have even' : ∀ x ∈ savedReturns s v, x.2 % 2 = 0 := by
      intro x hx
      obtain ⟨l, hl, rfl⟩ := List.mem_map.mp hx
      exact even l hl
    have targets : forwardAll s v (savedReturns s v) = v.act.map fun l => (l, forwardPc s (unitPart s v.unit)
        (BitVec.ofNat 48 (((thrOf s v.gid l).map fun t => t.ret.toNat).getD 0))) := by
      rw [forwardAll, savedReturns, List.map_map]
      rfl
    refine ⟨modRun (leaveHandler s v) v.gid fun r => { r with usable := Nat.max r.usable (s.now + Config.latInt) },
      h.goes rfl ?_ ?_, Safety.onlyGroup_trans (onlyGroup_leaveHandler s v) (onlyGroup_modRun ..), fun l => ?_⟩
    · simp only [handlerTrap_none every, oddTrap_none even', firstTrap]
    · simp only [targets, roomFor, room, if_true]
      rfl
    · rw [thrOf_modRun, thrOf_leaveHandler (act_nodup h.group)]

end Sys2Proof
end

section
/-! Branches (R35, R51, R202, R203, R384): the spin detector at a back-edge, the branch of a whole group, and the branch decision. -/

namespace Sys2Proof
open Machine

/-! ## Launches that neither record nor replay (R90, R91) -/

theorem Safety.unrecorded.replays {s : State} {u : Nat} (h : Safety.unrecorded s u) : replays s (unitLaunchId s u) = false := by
  unfold Machine.replays
  cases hl : launchOf s (unitLaunchId s u) with
  | none => rfl
  | some x => exact (h x hl).2

theorem Safety.unrecorded.capture {s : State} {u : Nat} (h : Safety.unrecorded s u) (kind at_ aux data : Nat) :
    capture s (unitLaunchId s u) kind at_ aux data = s := by
  unfold Machine.capture
  cases hl : launchOf s (unitLaunchId s u) with
  | none => rfl
  | some x =>
    obtain ⟨capt, rply⟩ := h x hl
    simp [capt, rply]

theorem Safety.unrecorded_congr {s t : State} (launches : t.launches = s.launches) (units : t.units = s.units) (u : Nat) :
    Safety.unrecorded t u ↔ Safety.unrecorded s u := by
  simp only [Safety.unrecorded, unitLaunchId, unitOf, launchOf, launches, units]

/-! ## The spin detector -/

/-- The deferred path of an entry cannot run (R51). -/
def idlePath (e : Split) : Prop := e.done = true ∨ e.held.isSome = true ∨ e.faultHeld = true ∨ e.defMask = 0

section
variable {s : State} {v : View} {x : Warp} (hx : warpOf s v.core v.wslot = some x)
include hx

theorem spinState_alone (alone : x.splits = []) : spinState s v = 0 := by
  simp [spinState, hx, alone]

variable (kc : v.kc = false) {e : Split} {r : List Split} (entry : x.splits = e :: r)
include kc entry

theorem spinState_counted (few : x.spin + 1 < 64) (plain : Safety.unrecorded s v.unit) : spinState s v = 1 := by
  simp [spinState, hx, kc, entry, few, recordedDemotion, plain.replays]

theorem spinState_cleared (limit : 64 ≤ x.spin + 1) (idle : idlePath e) : spinState s v = 2 := by
  have reached : ¬ x.spin + 1 < 64 := Nat.not_lt.mpr limit
  have idle : (e.done || e.held.isSome || e.faultHeld || decide (e.defMask = 0)) = true := by
    simpa only [idlePath, Bool.or_eq_true, decide_eq_true_eq, or_assoc] using idle
  simp only [spinState, hx, kc, entry, reached, decide_false, Bool.false_and, idle, Bool.false_eq_true, if_false, if_true]

theorem spinState_demotes (limit : 64 ≤ x.spin + 1) (runs : ¬ idlePath e) : spinState s v = 3 := by
  have reached : ¬ x.spin + 1 < 64 := Nat.not_lt.mpr limit
  have runs : (e.done || e.held.isSome || e.faultHeld || decide (e.defMask = 0)) = false := Bool.eq_false_iff.mpr fun idle =>
    runs (by simpa only [idlePath, Bool.or_eq_true, decide_eq_true_eq, or_assoc] using idle)
  simp only [spinState, hx, kc, entry, reached, decide_false, Bool.false_and, runs, Bool.false_eq_true, if_false]

end

theorem spinTrap_of_ne {s : State} {v : View} (h : spinState s v ≠ 3) : spinTrap s v = false := by
  simp [spinTrap, h]

theorem spinTrap_iff {s : State} {v : View} {x : Warp} (hx : warpOf s v.core v.wslot = some x) (h : spinState s v = 3) :
    spinTrap s v = true ↔ 31 ≤ x.demc ∧ ∃ l ∈ v.act, trapEnabled s v 2 l = true := by
  simp [spinTrap, h, hx]

theorem countBack_alone {s : State} {v : View} (h : spinState s v = 0) : countBack s v = (s, false) := by
  simp only [countBack, h]

theorem countBack_counted {s : State} {v : View} (h : spinState s v = 1) :
    countBack s v = (modWarp s v.core v.wslot fun y => { y with spin := y.spin + 1 }, false) := by
  simp only [countBack, h, modWarpOf]

theorem countBack_cleared {s : State} {v : View} (h : spinState s v = 2) :
    countBack s v = (modWarp s v.core v.wslot fun y => { y with spin := 0 }, false) := by
  simp only [countBack, h, modWarpOf]

theorem countBack_demotes {s : State} {v : View} (h : spinState s v = 3) (plain : Safety.unrecorded s v.unit) :
    countBack s v = (modWarp s v.core v.wslot fun y => { y with spin := 0, demc := min 32 (y.demc + 1) }, true) := by
  simp only [countBack, h, modWarpOf, plain.capture]

/-! ## The branch of a whole group -/

theorem branchAll_forward (s : State) (v : View) (target : Pc) :
    branchAll s v target false = goTo s v 4 (v.act.map fun l => (l, target)) := rfl

theorem branchAll_spins {s : State} {v : View} (h : spinTrap s v = true) (target : Pc) : branchAll s v target true = raiseSpin s v := by
  simp [branchAll, h]

theorem branchAll_back {s : State} {v : View} (h : spinTrap s v = false) (target : Pc) : branchAll s v target true =
    goDemoted (countBack s v).1 v v.act target (countBack s v).2 (s.now + 4) := by
  simp [branchAll, h, Config.latInt]

/-- An instruction whose effect is a taken back-edge of its group does what the spin detector says. -/
theorem backEdge_of {i : Instr} {s : State} {v : View} (h : Safety.Issues i s v) {target : Pc} {effect : State → View → Did}
    (hx : exec i s = issue i s noTrap effect) (back : effect s v = branchAll s v target true) {c w : Nat} {x : Warp}
    (hg : v.gid = .warp c w) (hw : warpOf s c w = some x) : Safety.BackEdge i s v c w x target := by
  obtain ⟨kc, rfl, rfl⟩ : v.kc = false ∧ v.core = c ∧ v.wslot = w := by
    rcases view_cases h.group with ⟨kc, g, -⟩ | ⟨-, _, _, _, g, -⟩
    · simpa [kc] using g.symm.trans hg
    · cases g.symm.trans hg
  have closes : exec i s = .next (issued i s v (branchAll s v target true)) := back ▸ h.closes hx rfl rfl
  have goes {n : Nat} (state : spinState s v = n) (low : n ≠ 3) : exec i s = .next (issued i s v
      (goDemoted (countBack s v).1 v v.act target (countBack s v).2 (s.now + 4))) := by
    rw [closes, branchAll_back (spinTrap_of_ne (state ▸ low))]
  constructor
  case alone =>
    intro alone
    have state := spinState_alone hw alone
    exact (goes state (by decide)).trans (by rw [countBack_alone state]; rfl)
  case counted =>
    intro some_ few plain
    obtain ⟨e, r, entry⟩ := List.exists_cons_of_ne_nil some_
    have state := spinState_counted hw kc entry few plain
    exact (goes state (by decide)).trans (by rw [countBack_counted state]; rfl)
  case cleared =>
    intro e r entry limit idle
    have state := spinState_cleared hw kc entry limit idle
    exact (goes state (by decide)).trans (by rw [countBack_cleared state]; rfl)
  case limit =>
    intro e r entry limit runs high enabled
    have state := spinState_demotes hw kc entry limit runs
    rw [closes, branchAll_spins ((spinTrap_iff hw state).mpr ⟨high, enabled⟩)]
    rfl
  case demoted =>
    intro e r entry limit runs quiet plain
    have state := spinState_demotes hw kc entry limit runs
    refine closes.trans ?_
    rw [branchAll_back (Bool.eq_false_iff.mpr fun spins => quiet ((spinTrap_iff hw state).mp spins)), countBack_demotes state plain]
    rfl
end Sys2Proof
end

section
/-! Ejection (R36, R23, R31): the slots granted, the lanes left, and what it does not touch. -/

namespace Sys2Proof
open Machine

/-- The hand-over of one lane: its thread and registers as the writes still to land leave them. -/
def handedOver (s : State) (v : View) (tag : Nat) (pc : Pc) (ends lost lane : Nat) (t : Thread) : Ejected :=
  { core := v.core, wslot := v.wslot, serial := v.serial, unit := v.unit, lane := lane, tag := tag, live := liveOf s v tag,
    thr := newestThread s v lane t,
    regs := wordsOf (Nat.min (liveOf s v tag) v.bsize) (newestX s v lane), written := [],
    poison := newestPoison s v lane (Nat.min (liveOf s v tag) v.bsize),
    tmps := [], bsize := v.bsize, pc := pc,
    stackAddr := regAddr v.page (unitFrame s v.unit).regs lane,
    run := { Run.fresh ends with status := .handover, usable := ends, pend := v.run.pend.filter fun p =>
      match p.w with
      | .stack a _ => (a - regAddr v.page 0 0) % 128 = 4 * lane
      | _ => false },
    t0 := tickOf ends, lost := lost }

/-- One grant of a kindling slot. -/
def grantSlot (g : Gid) (cl ends : Nat) (mk : Nat → Thread → Ejected) (a : State) (x : Nat × Nat) : State :=
  match thrOf a g x.1 with
  | some t => schedule (modPool a cl fun p => { p with slots := tabPut x.2 (mk x.1 t) p.slots }) ends .ejectionHandoverEnd
      (.group (.kindle cl x.2))
  | none => a

/-- What the ejection leaves of the warp. -/
def leftBehind (tag : Nat) (ls : List Nat) (w : Warp) : Warp :=
  { w with lanes := w.lanes.mapIdx fun i x => if ls.contains i then { x with st := .ejected, thr := none } else x
           ejs := w.ejs ++ [⟨tag, maskOf ls⟩] }

/-- When the hand-over ends (R36, R23). -/
def handoverEnd (s : State) (v : View) (tag : Nat) : Nat :=
  s.now + 6 + ceilDiv (liveOf s v tag) 2 + Config.round * (takeLost s).1

/-- The state with every thread granted its slot. -/
def granted (s : State) (v : View) (tag : Nat) (ls : List Nat) (pc : Pc) : State :=
  (ls.zip (freeKindling s (clusterOf v.core))).foldl
    (grantSlot v.gid (clusterOf v.core) (handoverEnd s v tag) (handedOver s v tag pc (handoverEnd s v tag) (takeLost s).1)) (takeLost s).2

theorem eject_eq (s : State) (v : View) (tag : Nat) (ls : List Nat) (pc : Pc) : eject s v tag ls pc =
    (modWarp (granted s v tag ls pc) v.core v.wslot (leftBehind tag ls), handoverEnd s v tag) := by
  rfl

/-! ## What the grants leave -/

theorem grantSlot_keeps (g : Gid) (cl ends : Nat) (mk : Nat → Thread → Ejected) (a : State) (x : Nat × Nat) :
    (grantSlot g cl ends mk a x).cores = a.cores ∧ (grantSlot g cl ends mk a x).launches = a.launches ∧
      (grantSlot g cl ends mk a x).units = a.units ∧ (grantSlot g cl ends mk a x).now = a.now := by
  unfold grantSlot
  cases thrOf a g x.1 <;> exact ⟨rfl, rfl, rfl, rfl⟩

theorem grants_keep (g : Gid) (cl ends : Nat) (mk : Nat → Thread → Ejected) (l : List (Nat × Nat)) (a : State) :
    (l.foldl (grantSlot g cl ends mk) a).cores = a.cores ∧ (l.foldl (grantSlot g cl ends mk) a).launches = a.launches ∧
      (l.foldl (grantSlot g cl ends mk) a).units = a.units ∧ (l.foldl (grantSlot g cl ends mk) a).now = a.now := by
  induction l generalizing a with
  | nil => exact ⟨rfl, rfl, rfl, rfl⟩
  | cons x r ih =>
    obtain ⟨cores, launches, units, now⟩ := grantSlot_keeps g cl ends mk a x
    obtain ⟨cores', launches', units', now'⟩ := ih (grantSlot g cl ends mk a x)
    exact ⟨cores'.trans cores, launches'.trans launches, units'.trans units, now'.trans now⟩

theorem granted_keeps (s : State) (v : View) (tag : Nat) (ls : List Nat) (pc : Pc) :
    (granted s v tag ls pc).cores = s.cores ∧ (granted s v tag ls pc).launches = s.launches ∧
      (granted s v tag ls pc).units = s.units ∧ (granted s v tag ls pc).now = s.now := by
  obtain ⟨cores, launches, units, now⟩ := grants_keep v.gid (clusterOf v.core) (handoverEnd s v tag)
    (handedOver s v tag pc (handoverEnd s v tag) (takeLost s).1) (ls.zip (freeKindling s (clusterOf v.core))) (takeLost s).2
  have lost : (takeLost s).2.cores = s.cores ∧ (takeLost s).2.launches = s.launches ∧ (takeLost s).2.units = s.units ∧
      (takeLost s).2.now = s.now := by
    unfold takeLost
    cases s.lost <;> exact ⟨rfl, rfl, rfl, rfl⟩
  obtain ⟨cores', launches', units', now'⟩ := lost
  exact ⟨cores.trans cores', launches.trans launches', units.trans units', now.trans now'⟩

theorem warpOf_eject {s : State} {v : View} {x : Warp} (hx : warpOf s v.core v.wslot = some x) (tag : Nat) (ls : List Nat) (pc : Pc) :
    warpOf (eject s v tag ls pc).1 v.core v.wslot = some (leftBehind tag ls x) := by
  obtain ⟨cores, -⟩ := granted_keeps s v tag ls pc
  rw [eject_eq]
  simp only [warpOf_modWarp]
  rw [show warpOf (granted s v tag ls pc) v.core v.wslot = some x by rw [← hx, warpOf, warpOf, coreOf, coreOf, cores]]
  rfl

theorem unrecorded_eject {s : State} {v : View} (tag : Nat) (ls : List Nat) (pc : Pc) (h : Safety.unrecorded s v.unit) :
    Safety.unrecorded (eject s v tag ls pc).1 v.unit := by
  obtain ⟨-, launches, units, -⟩ := granted_keeps s v tag ls pc
  exact (Safety.unrecorded_congr (s := s) launches units v.unit).mpr h

theorem eject_now (s : State) (v : View) (tag : Nat) (ls : List Nat) (pc : Pc) : (eject s v tag ls pc).1.now = s.now :=
  (granted_keeps s v tag ls pc).2.2.2

/-! ## The slots granted -/

theorem thrOf_grantSlot {g : Gid} {c w : Nat} (hg : g = .warp c w) (cl ends : Nat) (mk : Nat → Thread → Ejected) (a : State) (x : Nat × Nat)
    (l : Nat) : thrOf (grantSlot g cl ends mk a x) g l = thrOf a g l := by
  obtain ⟨cores, -⟩ := grantSlot_keeps g cl ends mk a x
  rw [hg] at cores ⊢
  simp only [thrOf, warpOf, coreOf, cores]

theorem grantSlot_some {g : Gid} {cl ends : Nat} {mk : Nat → Thread → Ejected} {a : State} {x : Nat × Nat} {t : Thread}
    (h : thrOf a g x.1 = some t) : grantSlot g cl ends mk a x =
      schedule (modPool a cl fun p => { p with slots := tabPut x.2 (mk x.1 t) p.slots }) ends .ejectionHandoverEnd
        (.group (.kindle cl x.2)) := by
  simp only [grantSlot, h]

theorem ejOf_schedule (s : State) (due : Nat) (i : Instr) (subj : Subject) (c k : Nat) : ejOf (schedule s due i subj) c k = ejOf s c k := rfl

theorem ejOf_modWarp (s : State) (c w : Nat) (f : Warp → Warp) (d k : Nat) : ejOf (modWarp s c w f) d k = ejOf s d k := rfl

theorem ejOf_modPool (s : State) (c : Nat) (f : Pool → Pool) (k : Nat) : ejOf (modPool s c f) c k = tabGet k (f (poolOf s c)).slots := by
  rw [ejOf, poolOf_modPool]

theorem ejOf_grantSlot_other {g : Gid} {cl ends : Nat} {mk : Nat → Thread → Ejected} {a : State} {x : Nat × Nat} {k : Nat} (h : k ≠ x.2) :
    ejOf (grantSlot g cl ends mk a x) cl k = ejOf a cl k := by
  cases ht : thrOf a g x.1 with
  | none => simp only [grantSlot, ht]
  | some t => rw [grantSlot_some ht, ejOf_schedule, ejOf_modPool, tabGet_put_other _ _ h, ejOf]

theorem ejOf_grants_other {g : Gid} {cl ends : Nat} {mk : Nat → Thread → Ejected} {l : List (Nat × Nat)} {a : State} {k : Nat}
    (h : k ∉ l.map Prod.snd) : ejOf (l.foldl (grantSlot g cl ends mk) a) cl k = ejOf a cl k := by
  induction l generalizing a with
  | nil => rfl
  | cons x r ih =>
    simp only [List.map_cons, List.mem_cons, not_or] at h
    rw [List.foldl_cons, ih h.2, ejOf_grantSlot_other h.1]

/-- Each lane's thread is in the slot granted to it. -/
theorem ejOf_grants {g : Gid} {c w : Nat} (hg : g = .warp c w) {cl ends : Nat} {mk : Nat → Thread → Ejected} {l : List (Nat × Nat)} {a : State}
    (once : (l.map Prod.snd).Nodup) {lane k : Nat} {t : Thread} (mem : (lane, k) ∈ l) (ht : thrOf a g lane = some t) :
    ejOf (l.foldl (grantSlot g cl ends mk) a) cl k = some (mk lane t) := by
  induction l generalizing a with
  | nil => cases mem
  | cons x r ih =>
    obtain ⟨fresh, once⟩ := List.nodup_cons.mp once
    rcases List.mem_cons.mp mem with rfl | later
    · rw [List.foldl_cons, ejOf_grants_other fresh, grantSlot_some ht, ejOf_schedule, ejOf_modPool, tabGet_put_same]
    · exact ih once later ((thrOf_grantSlot hg cl ends mk a x lane).trans ht)

theorem freeKindling_nodup (s : State) (cl : Nat) : (freeKindling s cl).Nodup := List.nodup_range.filter _

theorem lthr_threadAfter (lane : Nat) (t : Thread) (w : PendWrite) : (threadAfter lane t w).lthr = t.lthr := by
  unfold threadAfter
  split
  · split <;> rfl
  · split <;> rfl
  · split
    · rfl
    · split <;> rfl
  · rfl

theorem lthr_foldl_threadAfter (lane : Nat) (l : List Pend) (t : Thread) :
    (l.foldl (fun a p => threadAfter lane a p.w) t).lthr = t.lthr := by
  induction l generalizing t with
  | nil => rfl
  | cons p r ih => rw [List.foldl_cons, ih, lthr_threadAfter]

theorem lthr_newestThread (s : State) (v : View) (lane : Nat) (t : Thread) : (newestThread s v lane t).lthr = t.lthr :=
  lthr_foldl_threadAfter ..

/-- The slot granted to a lane: the one at its place among the free ones. -/
theorem ejOf_eject {s : State} {c w tag : Nat} {v : View} {ls : List Nat} (pc : Pc) (hc : v.core = c) (hg : v.gid = .warp c w)
    (room : ls.length ≤ (freeKindling s (clusterOf c)).length) {i lane : Nat} (hi : ls[i]? = some lane) {th : Thread}
    (hth : thrOf s v.gid lane = some th) : ∃ k, (freeKindling s (clusterOf c))[i]? = some k ∧
      ejOf (eject s v tag ls pc).1 (clusterOf c) k = some (handedOver s v tag pc (handoverEnd s v tag) (takeLost s).1 lane th) := by
  subst hc
  obtain ⟨hl, lane_⟩ := List.getElem?_eq_some_iff.mp hi
  have hk : i < (freeKindling s (clusterOf v.core)).length := Nat.lt_of_lt_of_le hl room
  have pair : (lane, (freeKindling s (clusterOf v.core))[i]) ∈ ls.zip (freeKindling s (clusterOf v.core)) := by
    rw [List.mem_iff_getElem]
    exact ⟨i, by simpa using ⟨hl, hk⟩, by simp [lane_]⟩
  have slots : (ls.zip (freeKindling s (clusterOf v.core))).map Prod.snd = (freeKindling s (clusterOf v.core)).take ls.length := by
    apply List.ext_getElem
    · simp
    · simp
  have once : ((ls.zip (freeKindling s (clusterOf v.core))).map Prod.snd).Nodup :=
    slots ▸ (freeKindling_nodup ..).sublist (List.take_sublist ..)
  have lost : thrOf (takeLost s).2 v.gid lane = some th := by
    rw [← hth]
    unfold takeLost
    cases s.lost <;> rfl
  refine ⟨_, List.getElem?_eq_getElem hk, ?_⟩
  rw [eject_eq, ejOf_modWarp, granted]
  exact ejOf_grants hg once pair lost

theorem takeLost_fst (s : State) : (takeLost s).1 = s.lost.headD 0 := by
  unfold takeLost
  cases s.lost <;> rfl
end Sys2Proof
end

section
/-! The branch decision of `brp` (R35, Table 2.2), and O14. -/

namespace Sys2Proof
open Machine

/-- The lanes of a group that take a branch, and those that do not. -/
def takenLanes (s : State) (v : View) (p : Nat) (sense : Bool) : List Nat := v.act.filter fun l => readP s v l p == sense
def restLanes (s : State) (v : View) (p : Nat) (sense : Bool) : List Nat := v.act.filter fun l => readP s v l p != sense

/-- Rows 3 to 5 of Table 2.2 where nothing is recorded, for the smaller side `m` and the other one. -/
def dividedBranch (s : State) (v : View) (w : Warp) (tag : Nat) (back : Bool) (t : List Nat) (target : Pc) (m : List Nat) (mpc : Pc)
    (rest : List Nat) (rpc : Pc) : Did :=
  if mayEject w tag m.length && decide (m.length ≤ (freeKindling s (clusterOf v.core)).length) then
    if (back && decide (rpc = target)) && spinTrap s v then raiseSpin s v
    else
      let e := eject s v tag m mpc
      let c := if back && decide (rpc = target) then countBack e.1 v else (e.1, false)
      goDemoted c.1 v rest rpc c.2 e.2
  else if mayEject w tag m.length && isDeterm s v.unit then .wait s (s.now + 1)
  else if w.splits.length < 4 then
    .done (Safety.usableAfter (modWarp s v.core v.wslot fun x => { x with spin := if back then 1 else 0 }) v 4) (.split (maskOf t) target tag) 0
  else if !stagingRoom s v.core (homeLanes w).length then .wait s (s.now + 1)
  else .done (Safety.usableAfter s v 4) (.reform (maskOf t) target) 0

section
variable {s : State} {v : View} {p tag : Nat} {sense back : Bool} {target : Pc}

theorem branchOn_kindle_next (kc : v.kc = true) (none_ : takenLanes s v p sense = []) : branchOn s v p sense tag target back =
    goTo s v 4 (v.act.map fun l => (l, v.pc + 4)) := by
  rw [takenLanes] at none_
  simp only [branchOn, kc, none_, if_true, List.isEmpty_nil, Config.latInt]

theorem branchOn_kindle_target (kc : v.kc = true) (some_ : takenLanes s v p sense ≠ []) : branchOn s v p sense tag target back =
    goTo s v 4 (v.act.map fun l => (l, target)) := by
  rw [takenLanes] at some_
  simp only [branchOn, kc, List.isEmpty_iff, if_neg some_, if_true, Config.latInt]

variable (kc : v.kc = false)
include kc

theorem branchOn_none (none_ : takenLanes s v p sense = []) : branchOn s v p sense tag target back =
    goTo s v 4 (v.act.map fun l => (l, v.pc + 4)) := by
  rw [takenLanes] at none_
  simp only [branchOn, kc, none_, Bool.false_eq_true, if_false, List.isEmpty_nil, if_true, Config.latInt]

theorem branchOn_all (some_ : takenLanes s v p sense ≠ []) (all : restLanes s v p sense = []) :
    branchOn s v p sense tag target back = branchAll s v target back := by
  rw [takenLanes] at some_
  rw [restLanes] at all
  simp only [branchOn, kc, all, Bool.false_eq_true, if_false, List.isEmpty_nil, List.isEmpty_iff, if_neg some_, if_true]

theorem branchOn_divides {x : Warp} (hx : warpOf s v.core v.wslot = some x) (some_ : takenLanes s v p sense ≠ [])
    (others : restLanes s v p sense ≠ []) (plain : Safety.unrecorded s v.unit) : branchOn s v p sense tag target back =
      dividedBranch s v x tag back (takenLanes s v p sense) target
        (if (takenLanes s v p sense).length ≤ (restLanes s v p sense).length then takenLanes s v p sense else restLanes s v p sense)
        (if (takenLanes s v p sense).length ≤ (restLanes s v p sense).length then target else v.pc + 4)
        (if (takenLanes s v p sense).length ≤ (restLanes s v p sense).length then restLanes s v p sense else takenLanes s v p sense)
        (if (takenLanes s v p sense).length ≤ (restLanes s v p sense).length then v.pc + 4 else target) := by
  simp only [takenLanes, restLanes] at some_ others ⊢
  simp only [branchOn, kc, hx, List.isEmpty_iff, if_neg some_, if_neg others, Bool.false_eq_true, if_false, plain.replays, plain.capture, dividedBranch]
  have rows (m : List Nat) : (mayEject x tag m.length = true ∧ m.length ≤ (freeKindling s (clusterOf v.core)).length) ∨
      (mayEject x tag m.length = true ∧ ¬ m.length ≤ (freeKindling s (clusterOf v.core)).length) ∨ mayEject x tag m.length = false := by
    cases mayEject x tag m.length with
    | false => exact .inr (.inr rfl)
    | true => exact (em _).elim (fun room => .inl ⟨rfl, room⟩) fun room => .inr (.inl ⟨rfl, room⟩)
  by_cases fewer : (v.act.filter fun l => readP s v l p == sense).length ≤ (v.act.filter fun l => readP s v l p != sense).length
  · simp only [fewer, if_true]
    rcases rows (v.act.filter fun l => readP s v l p == sense) with ⟨may, room⟩ | ⟨may, room⟩ | may
    · simp [may, room]
    · simp [may, room]; rfl
    · simp [may]; rfl
  · simp only [fewer, if_false]
    rcases rows (v.act.filter fun l => readP s v l p != sense) with ⟨may, room⟩ | ⟨may, room⟩ | may
    · simp [may, room]
    · simp [may, room]; rfl
    · simp [may]; rfl

end

theorem warp_kc {s : State} {v : View} (hv : view s v.gid = some v) {c w : Nat} (hg : v.gid = .warp c w) : v.kc = false := by
  rcases view_cases hv with ⟨kc, -⟩ | ⟨-, _, _, _, g, -⟩
  · exact kc
  · cases g.symm.trans hg

theorem warp_place {s : State} {v : View} (hv : view s v.gid = some v) {c w : Nat} (hg : v.gid = .warp c w) : v.core = c ∧ v.wslot = w := by
  rcases view_cases hv with ⟨-, g, -⟩ | ⟨-, _, _, _, g, -⟩
  · simpa using g.symm.trans hg
  · cases g.symm.trans hg

/-! ## The rows -/

section
variable {s : State} {v : View} {w : Warp} {tag : Nat} {back : Bool} {t m rest : List Nat} {target mpc rpc : Pc}

theorem dividedBranch_waits (may : mayEject w tag m.length = true) (full : ¬ m.length ≤ (freeKindling s (clusterOf v.core)).length)
    (determ : isDeterm s v.unit = true) : dividedBranch s v w tag back t target m mpc rest rpc = .wait s (s.now + 1) := by
  simp [dividedBranch, may, full, determ]

theorem dividedBranch_spins (may : mayEject w tag m.length = true) (room : m.length ≤ (freeKindling s (clusterOf v.core)).length)
    (edge : back = true) (goal : rpc = target) (spins : spinTrap s v = true) :
    dividedBranch s v w tag back t target m mpc rest rpc = raiseSpin s v := by
  simp [dividedBranch, may, room, edge, goal, spins]

theorem dividedBranch_ejects_back (may : mayEject w tag m.length = true) (room : m.length ≤ (freeKindling s (clusterOf v.core)).length)
    (edge : back = true) (goal : rpc = target) (quiet : spinTrap s v = false) : dividedBranch s v w tag back t target m mpc rest rpc =
      goDemoted (countBack (eject s v tag m mpc).1 v).1 v rest rpc (countBack (eject s v tag m mpc).1 v).2 (eject s v tag m mpc).2 := by
  simp [dividedBranch, may, room, edge, goal, quiet]

theorem dividedBranch_ejects_only (may : mayEject w tag m.length = true) (room : m.length ≤ (freeKindling s (clusterOf v.core)).length)
    (noEdge : ¬ (back = true ∧ rpc = target)) : dividedBranch s v w tag back t target m mpc rest rpc =
      goDemoted (eject s v tag m mpc).1 v rest rpc false (eject s v tag m mpc).2 := by
  have noEdge : (back && decide (rpc = target)) = false := by simpa using noEdge
  simp [dividedBranch, may, room, noEdge]

section
variable (hw : warpOf s v.core v.wslot = some w) (kc : v.kc = false) (may : mayEject w tag m.length = true)
  (room : m.length ≤ (freeKindling s (clusterOf v.core)).length)
include hw may room

/-- After the ejection nothing is counted where the other side does not go back, or the warp has no split entry. -/
theorem dividedBranch_ejects (forward : back = false ∨ rpc ≠ target ∨ w.splits = []) :
    dividedBranch s v w tag back t target m mpc rest rpc = goDemoted (eject s v tag m mpc).1 v rest rpc false (eject s v tag m mpc).2 := by
  by_cases edge : back = true ∧ rpc = target
  · obtain ⟨edge, goal⟩ := edge
    have alone : w.splits = [] := (forward.resolve_left (by simp [edge])).resolve_left (not_not.mpr goal)
    have still := spinState_alone (warpOf_eject hw tag m mpc) (show (leftBehind tag m w).splits = [] from alone)
    rw [dividedBranch_ejects_back may room edge goal (spinTrap_of_ne (by simp [spinState_alone hw alone])), countBack_alone still]
  · exact dividedBranch_ejects_only may room edge

variable (edge : back = true) (goal : rpc = target)
include kc edge goal

theorem dividedBranch_counted {f : Split} {r : List Split} (entry : w.splits = f :: r) (few : w.spin + 1 < 64)
    (plain : Safety.unrecorded s v.unit) : dividedBranch s v w tag back t target m mpc rest rpc =
      goDemoted (modWarp (eject s v tag m mpc).1 v.core v.wslot fun y => { y with spin := y.spin + 1 }) v rest rpc false (eject s v tag m mpc).2 := by
  have after := spinState_counted (warpOf_eject hw tag m mpc) kc (show (leftBehind tag m w).splits = f :: r from entry) few
    (unrecorded_eject tag m mpc plain)
  rw [dividedBranch_ejects_back may room edge goal (spinTrap_of_ne (by simp [spinState_counted hw kc entry few plain])),
    countBack_counted after]

theorem dividedBranch_cleared {f : Split} {r : List Split} (entry : w.splits = f :: r) (limit : 64 ≤ w.spin + 1) (idle : idlePath f) :
    dividedBranch s v w tag back t target m mpc rest rpc =
      goDemoted (modWarp (eject s v tag m mpc).1 v.core v.wslot fun y => { y with spin := 0 }) v rest rpc false (eject s v tag m mpc).2 := by
  have after := spinState_cleared (warpOf_eject hw tag m mpc) kc (show (leftBehind tag m w).splits = f :: r from entry) limit idle
  rw [dividedBranch_ejects_back may room edge goal (spinTrap_of_ne (by simp [spinState_cleared hw kc entry limit idle])),
    countBack_cleared after]

theorem dividedBranch_hot {f : Split} {r : List Split} (entry : w.splits = f :: r) (limit : 64 ≤ w.spin + 1) (runs : ¬ idlePath f)
    (hot : 31 ≤ w.demc ∧ ∃ l ∈ v.act, trapEnabled s v 2 l = true) :
    dividedBranch s v w tag back t target m mpc rest rpc = raiseSpin s v :=
  dividedBranch_spins may room edge goal ((spinTrap_iff hw (spinState_demotes hw kc entry limit runs)).mpr hot)

theorem dividedBranch_demotes {f : Split} {r : List Split} (entry : w.splits = f :: r) (limit : 64 ≤ w.spin + 1) (runs : ¬ idlePath f)
    (cool : ¬ (31 ≤ w.demc ∧ ∃ l ∈ v.act, trapEnabled s v 2 l = true)) (plain : Safety.unrecorded s v.unit) :
    dividedBranch s v w tag back t target m mpc rest rpc =
      goDemoted (modWarp (eject s v tag m mpc).1 v.core v.wslot fun y => { y with spin := 0, demc := min 32 (y.demc + 1) }) v rest rpc true
        (eject s v tag m mpc).2 := by
  have after := spinState_demotes (warpOf_eject hw tag m mpc) kc (show (leftBehind tag m w).splits = f :: r from entry) limit runs
  have quiet := (spinTrap_iff hw (spinState_demotes hw kc entry limit runs)).not.mpr cool
  rw [dividedBranch_ejects_back may room edge goal (Bool.eq_false_iff.mpr quiet),
    countBack_demotes after (unrecorded_eject tag m mpc plain)]

end

variable (stays : ¬ mayEject w tag m.length = true ∨
  ¬ m.length ≤ (freeKindling s (clusterOf v.core)).length ∧ isDeterm s v.unit = false)
include stays

theorem dividedBranch_stays : dividedBranch s v w tag back t target m mpc rest rpc =
    if w.splits.length < 4 then
      .done (Safety.usableAfter (modWarp s v.core v.wslot fun x => { x with spin := if back then 1 else 0 }) v 4)
        (.split (maskOf t) target tag) 0
    else if !stagingRoom s v.core (homeLanes w).length then .wait s (s.now + 1)
    else .done (Safety.usableAfter s v 4) (.reform (maskOf t) target) 0 := by
  rcases stays with no | ⟨full, free⟩
  · simp [dividedBranch, no]
  · simp [dividedBranch, full, free]

end

theorem mayEject_iff {w : Warp} {t : BitVec 4} {m : Nat} : mayEject w t.toNat m = true ↔
    m ≤ w.ejt ∧ t ≠ 0 ∧ hasOpen w t.toNat = false ∧ w.spec = none := by
  have zero : t.toNat ≠ 0 ↔ t ≠ 0 := by
    rw [Ne, Ne, ← BitVec.toNat_inj]
    rfl
  simp only [mayEject, Bool.and_eq_true, decide_eq_true_eq, bne_iff_ne, zero, Bool.not_eq_true', Option.isNone_iff_eq_none, and_assoc]

/-- Settles O14: the row of Table 2.2 a branch falls in, and at a back-edge the state of the spin detector. -/
theorem branches : Obligations.Branches := by
  refine ⟨fun o s v h => ⟨fun forward => ?_, fun c w x hg hw back => backEdge_of h rfl (by rw [back]) hg hw⟩, ?_⟩
  · have straight : branchAll s v (targetOf s v o) o.msb = goTo s v 4 (v.act.map fun l => (l, targetOf s v o)) := by
      cases edge : o.msb with
      | false => rfl
      | true =>
        have still : spinState s v = 0 := by
          have kc := forward.resolve_left (by simp [edge])
          unfold spinState
          cases warpOf s v.core v.wslot <;> simp [kc]
        rw [branchAll_back (spinTrap_of_ne (by simp [still])), countBack_alone still]
        rfl
    exact (h.closes (i := .br o) rfl rfl rfl).trans (by rw [straight]; rfl)
  intro o t p s v branch
  suffices all : ∀ i sense, (exec i s = issue i s noTrap fun s v => branchOn s v p.toNat sense t.toNat (targetOf s v o) o.msb) →
      branch i sense from ⟨all _ _ rfl, all _ _ rfl⟩
  intro i sense hx h target next taken rest all
  have closes := h.closes (i := i) hx rfl rfl
  refine ⟨fun kc none_ => ?_, fun kc some_ => ?_, fun kc none_ => ?_, fun kc some_ none_ forward => ?_, fun c w x hg hw some_ none_ back => ?_,
    fun c w x hg hw some_ others plain => ?_⟩
  · exact closes.trans (by rw [branchOn_kindle_next kc none_]; rfl)
  · exact closes.trans (by rw [branchOn_kindle_target kc some_]; rfl)
  · exact closes.trans (by rw [branchOn_none kc none_]; rfl)
  · exact closes.trans (by rw [branchOn_all kc some_ none_, forward]; rfl)
  · have kc : v.kc = false := warp_kc h.group hg
    exact backEdge_of h hx (by rw [branchOn_all kc some_ none_, back]) hg hw
  · have kc : v.kc = false := warp_kc h.group hg
    obtain ⟨rfl, rfl⟩ := warp_place h.group hg
    intro few many fewTo manyTo may_ room
    have divides : exec i s = .next (issued i s v (dividedBranch s v x t.toNat o.msb taken target few fewTo many manyTo)) :=
      closes.trans (by rw [branchOn_divides kc hw some_ others plain]; rfl)
    refine ⟨fun may full determ => ?_, fun may fits => ?_, fun stays => ?_⟩
    · exact divides.trans (by rw [dividedBranch_waits (mayEject_iff.mpr may) full determ]; rfl)
    · have may := mayEject_iff.mpr may
      intro e on goes spins
      constructor
      · intro forward
        exact divides.trans (by rw [dividedBranch_ejects hw may fits forward]; rfl)
      · intro edge goal f r entry idle
        refine ⟨fun low => ?_, fun limit idles => ?_, fun limit runs hot => ?_, fun limit runs cool => ?_⟩
        · exact divides.trans (by rw [dividedBranch_counted hw kc may fits edge goal entry low plain]; rfl)
        · exact divides.trans (by rw [dividedBranch_cleared hw kc may fits edge goal entry limit idles]; rfl)
        · exact divides.trans (by rw [dividedBranch_hot hw kc may fits edge goal entry limit runs hot]; rfl)
        · exact divides.trans (by rw [dividedBranch_demotes hw kc may fits edge goal entry limit runs cool plain]; rfl)
    · have stays : ¬ mayEject x t.toNat few.length = true ∨
          ¬ few.length ≤ (freeKindling s (clusterOf v.core)).length ∧ isDeterm s v.unit = false :=
        stays.imp_left (mt mayEject_iff.mp)
      have row := dividedBranch_stays (back := o.msb) (t := taken) (target := target) (mpc := fewTo) (rest := many) (rpc := manyTo) stays
      refine ⟨fun low => ?_, fun high stage => ?_, fun high stage => ?_⟩
      · exact divides.trans (by rw [row, if_pos low]; rfl)
      · exact divides.trans (by rw [row, if_neg (Nat.not_lt.mpr high), stage]; rfl)
      · exact divides.trans (by rw [row, if_neg (Nat.not_lt.mpr high), stage]; rfl)
end Sys2Proof
end

section
/-! `rjn` (R211, R40, R45, R367), and O15. -/

namespace Sys2Proof
open Machine

/-- The action of the park may be set after the advance. -/
theorem setStatus_advance {i : Instr} {s : State} {v : View} {c w : Nat} (hg : v.gid = .warp c w) (ends : endsRun i = true)
    (a b : ParkAct) (idle : Nat) : setStatus (advance i s v a idle) (.warp c w) (.parked b) = advance i s v b idle := by
  simp only [advance_warp hg, setStatus, modRun, modWarp, modCore_modCore, tabMod_mod, ends, if_true]

theorem endsRun_rjn (g : BitVec 4) : endsRun (.rjn g) = true := by
  revert g
  decide

/-- The issue of `rjn` of a warp: its advance, then what it does when no switch occurs. -/
theorem rjn_warp {g : BitVec 4} {s : State} {v : View} (h : Safety.Issues (.rjn g) s v) {c w : Nat} (hg : v.gid = .warp c w) :
    ∃ u : View, u.gid = .warp c w ∧ exec (.rjn g) s = .next (rjnIssued g.toNat (advance (.rjn g) s v .next 0) u) := by
  have kc : v.kc = false := warp_kc h.group hg
  have parks := h.does (own := noTrap) (pre := fun s v => if v.kc then releasePre s v else none)
    (effect := fun s _ => .done s (.rjn g.toNat) 0) rfl (by simp [kc]) rfl
  have seen := (view_advance (.rjn g) s v (.rjn g.toNat) 0).trans (congrArg _ h.group)
  rw [hg, Option.map_some] at seen
  have after : exec (.rjn g) s = _ := congrArg (mapNext _) parks
  rw [after]
  have issuing : s.cur = some (.warp c w) := hg ▸ h.issuing
  have parked : parkedWith (advance (.rjn g) s v (.rjn g.toNat) 0) (.warp c w) (.rjn g.toNat) = true := by
    simp [parkedWith, seen, endsRun_rjn]
  simp only [mapNext, issuing, parked, if_true, seen, setStatus_advance hg (endsRun_rjn g)]
  exact ⟨_, hg, rfl⟩

/-- `rjn` of an ejected thread is its issue alone (R367). -/
theorem rjn_kindle {g : BitVec 4} {s : State} {v : View} (h : Safety.Issues (.rjn g) s v) (kc : v.kc = true) :
    exec (.rjn g) s = issuePre (.rjn g) s noTrap (fun s v => if v.kc then releasePre s v else none) fun s _ => .done s (.rjn g.toNat) 0 := by
  rcases view_cases h.group with ⟨no, -⟩ | ⟨-, cl, k, e, hg, -⟩
  · simp [kc] at no
  · have issuing : s.cur = some (.kindle cl k) := hg ▸ h.issuing
    show execRjn g s = _
    rw [execRjn]
    simp only [issuing, mapNext_id]

theorem warpOf_advance {i : Instr} {s : State} {v : View} {act : ParkAct} {idle c w : Nat} {x : Warp} (hg : v.gid = .warp c w)
    (hx : warpOf s c w = some x) : warpOf (advance i s v act idle) c w = some { x with
      pc := v.pc + BitVec.ofNat 48 (instrLength i)
      run := { x.run with count := x.run.count + 1, nextAt := s.now + 1 + idle
                          status := if endsRun i then .parked act else .running } } := by
  rw [advance_warp hg, warpOf, coreOf_modCore, tabGet_mod_same, show tabGet w (coreOf s c).warps = some x from hx]
  rfl

/-- The top split entry and its lanes leave the record of a warp whose paths have merged (R45). -/
def mergedTop (e : Split) (rest : List Split) (usable : Nat) (y : Warp) : Warp :=
  { setLanes y (lanesOf e.parkMask) .running with
    splits := rest, spin := 0, run := { y.run with usable := Nat.max y.run.usable usable } }

section
variable {s : State} {u : View} {c w tag : Nat} {x : Warp} (hg : u.gid = .warp c w) (hx : warpOf s c w = some x)
include hg hx

theorem rjnIssued_switch {e : Split} (top : x.splits.head? = some e) (own : e.tag = tag) (runs : e.done = false) :
    rjnIssued tag s u = setStatus s (.warp c w) (.parked (.rjn tag)) := by
  obtain ⟨r, entry⟩ := List.head?_eq_some_iff.mp top
  simp [rjnIssued, hg, hx, entry, own, runs]

theorem rjnIssued_plain (plain : ∀ e, x.splits.head? = some e → e.tag ≠ tag) :
    rjnIssued tag s u = if hasOpen x tag then pumpRejoin (beginRejoin s c w tag s.now) c w else s := by
  cases entry : x.splits with
  | nil => simp [rjnIssued, hg, hx, entry]
  | cons e r => simp [rjnIssued, hg, hx, entry, plain e (by simp [entry])]

theorem rjnIssued_merges {e : Split} {r : List Split} (entry : x.splits = e :: r) (own : e.tag = tag) (done : e.done = true)
    (closed : hasOpen x tag = false) : rjnIssued tag s u = modWarp s c w (mergedTop e r (s.now + 4)) := by
  simp only [rjnIssued, hg, hx, entry, own, done, closed, if_true, Bool.false_eq_true, if_false]
  rfl

end

theorem mem_lanesOf {m : BitVec 32} {l : Nat} : l ∈ lanesOf m ↔ l < 32 ∧ m.getLsbD l = true := by
  simp [lanesOf, BitVec.getLsbD]

/-- Settles O15: what an ejection hands over to the granted slots, and the branches of `rjn`. -/
theorem ejectionAndRejoin : Obligations.EjectionAndRejoin := by
  refine ⟨fun s c w tag x v ls pc hv hx once some_ room => ?_, fun g s v h => ⟨fun kc free => ?_, fun kc waits => ?_, fun c w x hg hx => ?_⟩⟩
  · obtain ⟨y, hy, rfl⟩ := view_warp hv
    obtain rfl := Option.some.inj (hx.symm.trans hy)
    have ends : handoverEnd s (viewOfWarp c w x) tag = s.now + 6 + (liveOf s (viewOfWarp c w x) tag + 1) / 2 + 8 * s.lost.headD 0 := by
      rw [handoverEnd, takeLost_fst]
      rfl
    refine ⟨by rw [eject_eq]; exact ends, ⟨_, warpOf_eject (v := viewOfWarp c w x) hx tag ls pc, rfl, rfl, fun l z hz => ?_⟩,
      fun i lane hi => ?_⟩
    · simp [leftBehind, List.getElem?_mapIdx, hz]
    · obtain ⟨th, hth⟩ := Option.isSome_iff_exists.mp (some_ lane (List.mem_of_getElem? hi))
      obtain ⟨k, free, granted⟩ := ejOf_eject (tag := tag) pc rfl rfl room hi hth
      exact ⟨k, th, _, free, hth, granted, rfl, rfl, rfl, lthr_newestThread .., rfl, ends, rfl⟩
  · exact h.closes (rjn_kindle h kc) rfl (by simp [kc, releasePre, free])
  · exact h.preWaits (t := s) (rjn_kindle h kc) rfl (by simp [kc, releasePre, waits])
  · obtain ⟨u, hu, issues⟩ := rjn_warp h hg
    have there := warpOf_advance (i := .rjn g) (s := s) (act := .next) (idle := 0) hg hx
    refine ⟨fun ⟨e, top, own, runs⟩ => ?_, fun plain closed => ?_, fun plain opened => ?_, fun e r entry own done closed =>
      ⟨_, issues, ?_, ?_⟩⟩
    · rw [Safety.Goes, issues, rjnIssued_switch hu there top own runs, setStatus_advance hg (endsRun_rjn g)]
    · rw [Safety.Goes, issues, rjnIssued_plain hu there plain]
      exact congrArg Host.Outcome.next (if_neg (by simpa [hasOpen] using closed))
    · rw [issues, rjnIssued_plain hu there plain, advance_now]
      exact congrArg Host.Outcome.next (if_pos opened)
    · rw [rjnIssued_merges hu there entry own done closed, hg]
      exact Safety.onlyGroup_trans (hg ▸ onlyGroup_advance (.rjn g) s v .next 0) (onlyGroup_modWarp ..)
    · rw [rjnIssued_merges hu there entry own done closed, warpOf_modWarp, there]
      obtain ⟨y, hy, same⟩ := view_warp (hg ▸ h.group)
      obtain rfl := Option.some.inj (hx.symm.trans hy)
      refine ⟨_, rfl, rfl, rfl, ?_, ?_, ?_, fun l z hz low => ?_⟩
      · rw [same]
        rfl
      · simp [mergedTop, setLanes, endsRun_rjn]
      · simp [mergedTop, setLanes, advance_now]
      · simp [mergedTop, setLanes, List.getElem?_mapIdx, hz, mem_lanesOf, low]

end Sys2Proof
end

section
/-! Calls and returns (R204-R208), and O16. -/

namespace Sys2Proof
open Machine

/-- Writes left lane by lane, and then another change of the run, are one change. -/
theorem modRun_foldl_pend (g : Gid) (f : Nat → List Pend) (h : Run → Run) (ls : List Nat) (s : State) :
    modRun (ls.foldl (fun a l => modRun a g fun r => { r with pend := r.pend ++ f l }) s) g h =
      modRun s g fun r => h { r with pend := r.pend ++ ls.flatMap f } := by
  induction ls generalizing s with
  | nil => simp
  | cons l rest ih => simp only [List.foldl_cons, ih, modRun_modRun, List.flatMap_cons, List.append_assoc]

theorem foldl_modRun_now (g : Gid) (f : Nat → Run → Run) (ls : List Nat) (s : State) :
    (ls.foldl (fun a l => modRun a g (f l)) s).now = s.now := by
  induction ls generalizing s with
  | nil => rfl
  | cons l rest ih => rw [List.foldl_cons, ih, modRun_now]

/-- The words that a call pushes on the stack of a lane (R206). -/
def pushedWords (s : State) (v : View) (l : Nat) : List Pend :=
  [(1 + 2 * depthOf s v l, (v.pc + 4).setWidth 32), (2 + 2 * depthOf s v l, ((v.pc + 4) >>> 32).setWidth 32),
      (0, BitVec.ofNat 32 (depthOf s v l + 1))].map
    fun (x : Nat × Word) => ⟨s.now + stackLat v, s.now, .stack (stackAddr s v l x.1) x.2⟩

theorem pushReturn_eq (s : State) (v : View) : pushReturn s v =
    v.act.foldl (fun a l => modRun a v.gid fun r => { r with pend := r.pend ++ pushedWords s v l }) s := by
  have low : BitVec.ofNat 32 ((v.pc + 4).toNat % 2 ^ 32) = (v.pc + 4).setWidth 32 := by
    apply BitVec.eq_of_toNat_eq
    simp
  have high : BitVec.ofNat 32 ((v.pc + 4).toNat / 2 ^ 32) = ((v.pc + 4) >>> 32).setWidth 32 := by
    apply BitVec.eq_of_toNat_eq
    simp [Nat.shiftRight_eq_div_pow]
  simp only [pushReturn, pushedWords, List.map_cons, List.map_nil, low, high]

/-- The transfer of a call: its words to land, and the targets 4 cycles later. -/
theorem goTo_pushReturn (s : State) (v : View) (tgts : List (Nat × Pc)) : goTo (pushReturn s v) v 4 tgts =
    .done (modRun s v.gid fun r => { r with usable := Nat.max r.usable (s.now + 4), pend := r.pend ++ v.act.flatMap (pushedWords s v) })
      (.xfer tgts (s.now + 4)) 0 := by
  rw [goTo, pushReturn_eq, foldl_modRun_now v.gid (fun l r => { r with pend := r.pend ++ pushedWords s v l }),
    modRun_foldl_pend v.gid (pushedWords s v)]

theorem stackLat_eq (v : View) : stackLat v = if v.kc then 40 else 12 := rfl

theorem overflowTrap_none {s : State} {v : View} (h : (v.act.filter fun l => decide (stackCap s v ≤ depthOf s v l)) = []) :
    overflowTrap s v = none := by
  simp only [overflowTrap, h]

theorem overflowTrap_some {s : State} {v : View} (h : (v.act.filter fun l => decide (stackCap s v ≤ depthOf s v l)) ≠ []) :
    overflowTrap s v = some (precise v 0x06 (maskOf (v.act.filter fun l => decide (stackCap s v ≤ depthOf s v l))).toNat) := by
  obtain ⟨l, r, full⟩ := List.exists_cons_of_ne_nil h
  simp only [overflowTrap, full, cCsovf]

theorem underflowTrap_none {s : State} {v : View} (h : (v.act.filter fun l => decide (depthOf s v l = 0)) = []) :
    underflowTrap s v = none := by
  simp only [underflowTrap, h]

theorem underflowTrap_some {s : State} {v : View} (h : (v.act.filter fun l => decide (depthOf s v l = 0)) ≠ []) :
    underflowTrap s v = some (precise v 0x07 (maskOf (v.act.filter fun l => decide (depthOf s v l = 0))).toNat) := by
  obtain ⟨l, r, empty⟩ := List.exists_cons_of_ne_nil h
  simp only [underflowTrap, empty, cCsund]

theorem oddTrap_head (v : View) {tgts : List (Nat × Nat)} {x : Nat × Nat} {r : List (Nat × Nat)} (h : tgts = x :: r) (odd : x.2 % 2 = 1) :
    oddTrap v tgts = some (precise v 0x14 0 x.2) := by
  rw [oddTrap, h, List.find?_cons_of_pos (by simpa using odd)]
  rfl

theorem firstTrap_none (b : Option Trap) : firstTrap none b = b := rfl
theorem firstTrap_some (t : Trap) (b : Option Trap) : firstTrap (some t) b = some t := rfl

theorem roomFor_room {s : State} {v : View} {tgts : List (Nat × Pc)} (h : stagingRoom s v.core (divergent tgts).length = true) (d : Did) :
    roomFor s v tgts d = d := if_pos h

theorem roomFor_full {s : State} {v : View} {tgts : List (Nat × Pc)} (h : ¬ stagingRoom s v.core (divergent tgts).length = true) (d : Did) :
    roomFor s v tgts d = .wait s (s.now + 1) := if_neg h

theorem forwardAll_map (s : State) (v : View) (f : Nat → Nat) (ls : List Nat) : forwardAll s v (ls.map fun l => (l, f l)) =
    ls.map fun l => (l, forwardPc s (unitPart s v.unit) (BitVec.ofNat 48 (f l))) := by
  rw [forwardAll, List.map_map]
  rfl

theorem oddTrap_map_none {v : View} {f : Nat → Nat} {ls : List Nat} (even : ∀ l ∈ ls, f l % 2 = 0) :
    oddTrap v (ls.map fun l => (l, f l)) = none :=
  oddTrap_none fun x hx => by
    obtain ⟨l, hl, rfl⟩ := List.mem_map.mp hx
    exact even l hl

/-- A return pops one word of every active lane (R207). -/
theorem goTo_pop (s : State) (v : View) (f : Nat → Pend) (tgts : List (Nat × Pc)) :
    goTo (v.act.foldl (fun a l => modRun a v.gid fun r => { r with pend := r.pend ++ [f l] }) s) v (stackLat v) tgts =
      .done (modRun s v.gid fun r => { r with usable := Nat.max r.usable (s.now + stackLat v), pend := r.pend ++ v.act.map f })
        (.xfer tgts (s.now + stackLat v)) 0 := by
  rw [goTo, foldl_modRun_now v.gid (fun l r => { r with pend := r.pend ++ [f l] }), modRun_foldl_pend v.gid fun l => [f l],
    List.map_eq_flatMap]

/-- The address on top of the call stack of a lane (R207). -/
def stackTop (s : State) (v : View) (l : Nat) : Nat :=
  (stackWord s v l (1 + 2 * (depthOf s v l - 1))).toNat + 2 ^ 32 * ((stackWord s v l (2 + 2 * (depthOf s v l - 1))).toNat % 2 ^ 16)

theorem returnTargets_eq (s : State) (v : View) : returnTargets s v = v.act.map fun l => (l, stackTop s v l) := rfl

theorem returnOdd_none {s : State} {v : View} (even : ∀ l ∈ v.act, depthOf s v l ≠ 0 → stackTop s v l % 2 = 0) :
    oddTrap v ((returnTargets s v).filter fun x => depthOf s v x.1 != 0) = none := by
  refine oddTrap_none fun x hx => ?_
  obtain ⟨mem, deep⟩ := List.mem_filter.mp hx
  obtain ⟨l, hl, rfl⟩ := List.mem_map.mp mem
  exact even l hl (by simpa using deep)

theorem pairTargets_cons (s : State) {v : View} {l : Nat} {r : List Nat} (first : v.act = l :: r) (a : Nat) :
    pairTargets s v a = (l, readX2 s v l a % 2 ^ 48) :: r.map fun l => (l, readX2 s v l a % 2 ^ 48) := by
  rw [pairTargets, first, List.map_cons]

/-- Settles O16, an instruction at a time: its own traps, then the staging, then the transfer. -/
theorem callsAndReturns : Obligations.CallsAndReturns := by
  constructor
  · intro o a s v full pushed pair tgts even room
    refine ⟨fun h => ⟨fun none_ => ?_, fun some_ => ?_⟩,
      fun h => ⟨fun even none_ room => ?_, fun even none_ full => ?_, fun even some_ => ?_, fun l r first odd => ?_⟩,
      fun h => ⟨fun even room => ?_, fun even full => ?_, fun l r first odd => ?_⟩⟩
    · exact (h.closes (i := .call o) rfl (overflowTrap_none none_) rfl).trans (by rw [Config.latInt, goTo_pushReturn]; rfl)
    · exact h.ownTraps (i := .call o) rfl (overflowTrap_some some_)
    · have odd : oddTrap v (pairTargets s v a.toNat) = none := oddTrap_map_none even
      exact (h.closes (i := .callx a) rfl (by rw [odd, firstTrap_none, overflowTrap_none none_]) rfl).trans (by
        rw [pairTargets, forwardAll_map, roomFor_room room, Config.latInt, goTo_pushReturn]; rfl)
    · have odd : oddTrap v (pairTargets s v a.toNat) = none := oddTrap_map_none even
      exact (h.closes (i := .callx a) rfl (by rw [odd, firstTrap_none, overflowTrap_none none_]) rfl).trans (by
        rw [pairTargets, forwardAll_map, roomFor_full full]; rfl)
    · have odd : oddTrap v (pairTargets s v a.toNat) = none := oddTrap_map_none even
      exact h.ownTraps (i := .callx a) rfl (by rw [odd, firstTrap_none, overflowTrap_some some_])
    · exact h.ownTraps (i := .callx a) rfl (by
        rw [oddTrap_head v (pairTargets_cons s first a.toNat) odd, firstTrap_some])
    · exact (h.closes (i := .brx a) rfl (oddTrap_map_none even) rfl).trans (by
        rw [pairTargets, forwardAll_map, roomFor_room room]; rfl)
    · exact (h.closes (i := .brx a) rfl (oddTrap_map_none even) rfl).trans (by
        rw [pairTargets, forwardAll_map, roomFor_full full]; rfl)
    · exact h.ownTraps (i := .brx a) rfl (oddTrap_head v (pairTargets_cons s first a.toNat) odd)
  · intro s v h lat empty top tgts popped
    have targets : forwardAll s v (returnTargets s v) = tgts := by rw [returnTargets_eq, forwardAll_map]; rfl
    refine ⟨fun none_ even room => ?_, fun none_ even full => ?_, fun some_ even => ?_⟩
    · exact (h.closes rfl (by rw [returnOdd_none fun l hl _ => even l hl, firstTrap_none, underflowTrap_none none_]) rfl).trans (by
        dsimp only; rw [targets, roomFor_room room, goTo_pop]; rfl)
    · exact (h.closes rfl (by rw [returnOdd_none fun l hl _ => even l hl, firstTrap_none, underflowTrap_none none_]) rfl).trans (by
        dsimp only; rw [targets, roomFor_full (Bool.eq_false_iff.mp full)]; rfl)
    · exact h.ownTraps rfl (by rw [returnOdd_none even, firstTrap_none, underflowTrap_some some_])

end Sys2Proof
end

section
/-! Barriers (R217, R218, R220, R387): what an arrival counts, what a phase that completes lets go of, and the instructions. -/

namespace Sys2Proof
open Machine

/-! ## Releases touch the clocks alone (R132) -/

/-- What every step of a fold keeps, the fold keeps. -/
theorem foldl_keeps {α β : Type} {P : β → Prop} {f : β → α → β} (h : ∀ a e, P a → P (f a e)) (l : List α) {s : β} (hs : P s) :
    P (l.foldl f s) := by
  induction l generalizing s with
  | nil => exact hs
  | cons e r ih => exact ih (h s e hs)

/-- Two states that may differ in the vector clocks alone. -/
def butClocks (s t : State) : Prop := ∃ cl, t = { s with clocks := cl }

theorem butClocks_refl (s : State) : butClocks s s := ⟨s.clocks, rfl⟩

theorem butClocks_trans {s t u : State} (h : butClocks s t) (k : butClocks t u) : butClocks s u := by
  obtain ⟨_, rfl⟩ := h
  obtain ⟨cl, rfl⟩ := k
  exact ⟨cl, rfl⟩

theorem butClocks_setClock (s : State) (vec comp n : Nat) : butClocks s (setClock s vec comp n) := ⟨_, rfl⟩

theorem butClocks_joinClock (s : State) (dst src : Nat) : butClocks s (joinClock s dst src) :=
  foldl_keeps (P := butClocks s) (fun a e h => by
    dsimp only
    split
    · exact butClocks_trans h (butClocks_setClock ..)
    · exact h) _ (butClocks_refl s)

theorem butClocks_release (s : State) (u agent ob : Nat) (all : Bool) : butClocks s (release s u agent ob all) := by
  unfold release
  split
  · exact butClocks_refl s
  · have joined (n : Nat) : butClocks s (setClock (joinClock s (2 * ob) (2 * agent)) (2 * ob) (2 * agent) n) :=
      butClocks_trans (butClocks_joinClock ..) (butClocks_setClock ..)
    cases all with
    | false => exact butClocks_trans (joined _) (butClocks_setClock ..)
    | true => exact butClocks_trans (butClocks_trans (butClocks_trans (butClocks_trans (joined _) (butClocks_joinClock ..)) (butClocks_setClock ..))
        (butClocks_setClock ..)) (butClocks_setClock ..)

theorem release_off {s : State} {u : Nat} (off : clocksOn s u = false) (agent ob : Nat) (all : Bool) : release s u agent ob all = s := by
  simp [release, off]

/-! ## Arrivals (R217, R218) -/

/-- A barrier as its first arrival leaves it: bound, its count taken. -/
def boundBar (cnt left : Nat) (k : Bar) : Bar :=
  if k.bound then k else { k with bound := true, cnt0 := cnt = 0, exp := if cnt = 0 then left else cnt }

theorem unitOf_modUnit (s : State) (u : Nat) (f : UnitSt → UnitSt) : unitOf (modUnit s u f) u = (unitOf s u).map f := by
  simp [unitOf, modUnit]

theorem barOf_modUnit {s : State} {u : Nat} {x : UnitSt} (hu : unitOf s u = some x) (b : Nat) (k : Bar) :
    barOf (modUnit s u fun y => { y with bars := tabPut b k y.bars }) u b = k := by
  simp [barOf, unitOf_modUnit, hu]

theorem arriveOne_eq {s : State} {u : Nat} {x : UnitSt} (hu : unitOf s u = some x) (b cnt agent : Nat) :
    let k := { boundBar cnt x.left (barOf s u b) with arr := (barOf s u b).arr + 1 }
    let s1 := release (modUnit s u fun y => { y with bars := tabPut b k y.bars }) u agent (obBar u b (barOf s u b).phase) false
    arriveOne u b cnt agent s = (if k.exp ≤ k.arr then completeBar s1 u b else s1, (barOf s u b).phase) := by
  simp only [arriveOne, hu, Option.map_some, Option.getD_some, boundBar]
  split <;> rfl

/-- An arrival that does not complete the phase is counted. -/
theorem arriveOne_counts {s : State} {u : Nat} {x : UnitSt} (hu : unitOf s u = some x) {b cnt : Nat} (agent : Nat)
    (low : (barOf s u b).arr + 1 < (boundBar cnt x.left (barOf s u b)).exp) :
    butClocks (modUnit s u fun y =>
      { y with bars := tabPut b { boundBar cnt x.left (barOf s u b) with arr := (barOf s u b).arr + 1 } y.bars })
      (arriveOne u b cnt agent s).1 ∧ (arriveOne u b cnt agent s).2 = (barOf s u b).phase := by
  rw [arriveOne_eq hu]
  dsimp only
  rw [if_neg (Nat.not_le.mpr low)]
  exact ⟨butClocks_release .., rfl⟩

theorem boundBar_bound {cnt left : Nat} {k : Bar} (h : k.bound = true) : boundBar cnt left k = k := if_pos h

theorem boundBar_keeps (cnt left : Nat) (k : Bar) : (boundBar cnt left k).arr = k.arr ∧ (boundBar cnt left k).phase = k.phase ∧
    (boundBar cnt left k).par = k.par ∧ (boundBar cnt left k).bound = true := by
  unfold boundBar
  split
  · exact ⟨rfl, rfl, rfl, by assumption⟩
  · exact ⟨rfl, rfl, rfl, rfl⟩

/-- What the arrivals at a barrier leave as it was. -/
structure BarrierFrame (s t : State) : Prop where
  mem : t.mem = s.mem
  cores : t.cores = s.cores
  pools : t.pools = s.pools

/-- Arrivals that together do not complete the phase: each is counted, and answers the phase it arrived in. -/
theorem arrivals {u b cnt : Nat} (agent : Nat → Nat) (ls : List Nat) {s : State} {x : UnitSt} (hu : unitOf s u = some x) (n : Nat)
    (low : (barOf s u b).arr + ls.length < (boundBar cnt x.left (barOf s u b)).exp) :
    let t := ls.foldl (fun a l => (arriveOne u b cnt (agent l) a).1) s
    ls.foldl (fun (p : State × Nat) l => arriveOne u b cnt (agent l) p.1) (s, n) = (t, if ls = [] then n else (barOf s u b).phase) ∧
    (ls ≠ [] → barOf t u b = { boundBar cnt x.left (barOf s u b) with arr := (barOf s u b).arr + ls.length }) ∧ BarrierFrame s t := by
  induction ls generalizing s x n with
  | nil => exact ⟨rfl, fun h => absurd rfl h, rfl, rfl, rfl⟩
  | cons l r ih =>
    rw [List.length_cons] at low
    obtain ⟨⟨cl, after⟩, phase⟩ := arriveOne_counts (b := b) (cnt := cnt) hu (agent l) (by omega)
    obtain ⟨arr, same, -, bound⟩ := boundBar_keeps cnt x.left (barOf s u b)
    have hu' : (unitOf (arriveOne u b cnt (agent l) s).1 u).map (·.left) = some x.left := by
      rw [after]
      show (unitOf (modUnit ..) u).map _ = _
      rw [unitOf_modUnit, hu]
      rfl
    obtain ⟨y, hy, left⟩ := Option.map_eq_some_iff.mp hu'
    have bar : barOf (arriveOne u b cnt (agent l) s).1 u b =
        { boundBar cnt x.left (barOf s u b) with arr := (barOf s u b).arr + 1 } := by
      rw [after]
      exact barOf_modUnit hu b _
    have still : boundBar cnt y.left (barOf (arriveOne u b cnt (agent l) s).1 u b) = barOf (arriveOne u b cnt (agent l) s).1 u b :=
      boundBar_bound (by rw [bar]; exact bound)
    obtain ⟨folds, counted, mem, cores, pools⟩ := ih hy (barOf s u b).phase (by rw [still, bar]; simp only; omega)
    have first : arriveOne u b cnt (agent l) s = ((arriveOne u b cnt (agent l) s).1, (barOf s u b).phase) := by rw [← phase]
    refine ⟨?_, fun _ => ?_, mem.trans (by rw [after]; rfl), cores.trans (by rw [after]; rfl), pools.trans (by rw [after]; rfl)⟩
    · rw [List.foldl_cons, first]
      refine folds.trans ?_
      simp only [List.foldl_cons, bar, same]
      simp
    · cases r with
      | nil => simpa using bar
      | cons m r' =>
        refine (counted (by simp)).trans ?_
        rw [still, bar]
        simp only [List.length_cons, Bar.mk.injEq, and_true]
        omega

/-! ## The instructions -/

/-- BARX does not meet an arrival (R387). -/
def legalArrival (s : State) (v : View) (u : UnitSt) (b : Nat) (c : BitVec 12) : Prop :=
  ((barOf s v.unit b).bound = true → if c = 0 then (barOf s v.unit b).cnt0 = true else c.toNat = (barOf s v.unit b).exp) ∧
    c.toNat ≤ u.nthreads ∧ ¬ (c = 0 ∧ v.kc = true ∧ u.left = 1)

theorem toNat_eq_zero {n : Nat} (c : BitVec n) : c.toNat = 0 ↔ c = 0 := by
  rw [← BitVec.toNat_inj]
  rfl

theorem barTrap_none {s : State} {v : View} {u : UnitSt} (hu : unitOf s v.unit = some u) {b : Nat} {c : BitVec 12}
    (h : legalArrival s v u b c) : barTrap b c.toNat s v = none := by
  obtain ⟨same, small, alone⟩ := h
  have bad : ¬ ((barOf s v.unit b).bound && (if c.toNat = 0 then !(barOf s v.unit b).cnt0 else c.toNat != (barOf s v.unit b).exp)) = true := by
    intro clash
    obtain ⟨bound, clash⟩ := Bool.and_eq_true_iff.mp clash
    have same := same bound
    by_cases zero : c = 0
    · rw [if_pos ((toNat_eq_zero c).mpr zero)] at clash
      rw [if_pos zero] at same
      simp [same] at clash
    · rw [if_neg (mt (toNat_eq_zero c).mp zero)] at clash
      rw [if_neg zero] at same
      simp [same] at clash
  simp only [barTrap, hu]
  rw [if_neg bad, if_neg (Nat.not_lt.mpr small), if_neg]
  simpa [toNat_eq_zero, and_assoc] using alone

theorem barTrap_some {s : State} {v : View} {u : UnitSt} (hu : unitOf s v.unit = some u) {b : Nat} {c : BitVec 12}
    (h : ¬ legalArrival s v u b c) : ∃ reason < 3, barTrap b c.toNat s v = some (precise v 0x22 (b + 512 * reason)) := by
  simp only [barTrap, hu]
  by_cases bad : ((barOf s v.unit b).bound && (if c.toNat = 0 then !(barOf s v.unit b).cnt0 else c.toNat != (barOf s v.unit b).exp)) = true
  · exact ⟨0, by decide, if_pos bad⟩
  by_cases large : u.nthreads < c.toNat
  · exact ⟨1, by decide, by rw [if_neg bad, if_pos large]; rfl⟩
  refine ⟨2, by decide, ?_⟩
  rw [if_neg bad, if_neg large, if_pos]
  · rfl
  by_contra alone
  refine h ⟨fun bound => ?_, Nat.not_lt.mp large, fun every => alone (by simpa [toNat_eq_zero, and_assoc] using every)⟩
  rw [bound, Bool.true_and] at bad
  by_cases zero : c = 0
  · rw [if_pos ((toNat_eq_zero c).mpr zero)] at bad
    rw [if_pos zero]
    simpa using bad
  · rw [if_neg (mt (toNat_eq_zero c).mp zero)] at bad
    rw [if_neg zero]
    simpa using bad

theorem barrierRoom_iff {s : State} {v : View} {b : Nat} :
    barrierRoom s v b = true ↔ ((barOf s v.unit b).bound = true ∨ boundOn s v.core < 512) := by
  simp [barrierRoom]

theorem releasePre_free {s : State} {v : View} (h : releaseWaits s v = false) : releasePre s v = none := by
  simp [releasePre, h]

theorem releasePre_waits {s : State} {v : View} (h : releaseWaits s v = true) : releasePre s v = some (.wait s (s.now + 1)) := if_pos h

/-- An arrival that has no room, or stores to wait for, comes to issue again. -/
theorem arrival_waits {i : Instr} {s : State} {v : View} (h : Safety.Issues i s v) {own : State → View → Option Trap}
    {effect : State → View → Did} (hx : exec i s = issuePre i s own releasePre effect) (legal : own s v = none) {b : Nat}
    (full : barrierRoom s v b = false → effect s v = .wait s (s.now + 1))
    (late : ¬ (((barOf s v.unit b).bound = true ∨ boundOn s v.core < 512) ∧ releaseWaits s v = false)) : Safety.Waits i s v := by
  cases waits : releaseWaits s v with
  | true => exact h.preWaits hx legal (releasePre_waits waits)
  | false =>
    have none_ : barrierRoom s v b = false := Bool.eq_false_iff.mpr fun room => late ⟨barrierRoom_iff.mp room, waits⟩
    exact (h.closes hx legal (releasePre_free waits)).trans (by rw [full none_]; rfl)

theorem waitPhase_holds {s : State} {v : View} {b phase : Nat} (h : (barOf s v.unit b).phase = phase) :
    waitPhase s v b phase = .done s (.bar b phase) 0 := if_pos h

theorem arriveAll_fst (s : State) (v : View) (b cnt : Nat) :
    (arriveAll s v b cnt).1 = v.act.foldl (fun a l => (arriveOne v.unit b cnt (agentOf s v l) a).1) s := by
  rw [arriveAll]
  exact (List.foldl_hom Prod.fst (g₁ := fun (p : State × Nat) l => arriveOne v.unit b cnt (agentOf s v l) p.1)
    (g₂ := fun a l => (arriveOne v.unit b cnt (agentOf s v l) a).1) (fun _ _ => rfl)).symm

theorem unitLaunch_modUnit {f : UnitSt → UnitSt} (h : ∀ x, (f x).launch = x.launch) (s : State) (u : Nat) :
    unitLaunch (modUnit s u f) u = unitLaunch s u := by
  rw [unitLaunch, unitOf_modUnit, unitLaunch]
  cases unitOf s u with
  | none => rfl
  | some x => exact congrArg (launchOf s) (h x)

theorem clocksOn_modUnit {f : UnitSt → UnitSt} (h : ∀ x, (f x).launch = x.launch) (s : State) (u : Nat) :
    clocksOn (modUnit s u f) u = clocksOn s u := by
  simp only [clocksOn, isDeterm, unitFrame, unitLaunch_modUnit h]
  rfl

/-- Settles O18: the traps, the waits and the arrivals of the three instructions, and the arrival that completes a phase. -/
theorem barrierInstructions : Obligations.BarrierInstructions := by
  intro c b w s v u hu k goal counted t legal room ordered
  have boundExp : (boundBar c.toNat u.left k).exp = goal := by
    simp only [boundBar, goal, toNat_eq_zero]
    split <;> rfl
  have countedBar (n : Nat) : { boundBar c.toNat u.left k with arr := k.arr + n } = counted n := by
    simp only [boundBar, counted, goal, toNat_eq_zero]
    split
    · next bound => simp [bound]
    · simp
  have clocks (n : Nat) : clocksOn (modUnit s v.unit fun x => { x with bars := tabPut b.toNat (counted n) x.bars }) v.unit = clocksOn s v.unit :=
    clocksOn_modUnit (fun _ => by rfl) ..
  have ends : t = (arriveAll s v b.toNat c.toNat).1 := (arriveAll_fst ..).symm
  refine ⟨fun h lawful fits free => ?_, fun h lawful late => ?_, fun h lawful fits free some_ low => ?_, fun h lawful late => ?_,
    fun h unlawful => ?_, fun h => ?_, fun some_ low => ?_, fun agent off last => ?_⟩
  · exact (h.closes (i := .barArv c b w) rfl (barTrap_none hu lawful) (releasePre_free free)).trans (by
      rw [if_pos (barrierRoom_iff.mpr fits), ← ends]
      rfl)
  · exact arrival_waits h rfl (barTrap_none hu lawful) (fun full => by simp [full]) late
  · obtain ⟨folds, bar, -⟩ := arrivals (agentOf s v) v.act hu 0 (by rw [boundExp]; exact low)
    have phase : (barOf t v.unit b.toNat).phase = k.phase := by
      rw [bar some_]
      exact (boundBar_keeps c.toNat u.left k).2.1
    rw [if_neg some_] at folds
    refine (h.closes (i := .barSyn c b) rfl (barTrap_none hu lawful) (releasePre_free free)).trans ?_
    rw [if_pos (barrierRoom_iff.mpr fits), show arriveAll s v b.toNat c.toNat = (t, k.phase) from folds]
    dsimp only
    rw [waitPhase_holds phase]
    rfl
  · exact arrival_waits h rfl (barTrap_none hu lawful) (fun full => by simp [full]) late
  · obtain ⟨reason, small, trap⟩ := barTrap_some hu unlawful
    exact ⟨reason, small, h.ownTraps (i := .barSyn c b) rfl trap⟩
  · refine (h.closes (i := .barWt c b) rfl rfl rfl).trans ?_
    dsimp only
    split <;> rfl
  · obtain ⟨-, bar, mem, cores, pools⟩ := arrivals (agentOf s v) v.act hu 0 (by rw [boundExp]; exact low)
    exact ⟨(bar some_).trans (countedBar v.act.length), mem, cores, pools⟩
  · rw [arriveOne_eq hu]
    dsimp only
    rw [if_pos (by rw [boundExp]; exact last), countedBar 1, release_off ((clocks 1).trans off)]

end Sys2Proof
end

section
/-! Phases that complete (R218, R220), `gbar`, and O19. -/

namespace Sys2Proof
open Machine

theorem unitGroups_modUnit {f : UnitSt → UnitSt} (h : ∀ x, (f x).core = x.core) (s : State) (u : Nat) :
    unitGroups (modUnit s u f) u = unitGroups s u := by
  simp only [unitGroups, unitOf_modUnit]
  cases unitOf s u with
  | none => rfl
  | some x =>
    simp only [Option.map_some, h x]
    rfl

theorem completeBar_eq {s : State} {u b : Nat} {x : UnitSt} {k : Bar} (hu : unitOf s u = some x) (hk : tabGet b x.bars = some k) :
    let s1 := modUnit s u fun y => { y with bars := tabPut b ⟨0, 0, !k.par, false, false, k.phase + 1⟩ y.bars }
    let hit (b' p : Nat) : Bool := b' = b && p = k.phase
    completeBar s u b = (unitGroups s u).foldl (fun a g => letGo hit (s.now + 8) a g) (acquirePhase hit (obBar u b k.phase) s1 u) := by
  simp only [completeBar, hu, hk]
  rw [unitGroups_modUnit (f := fun y => { y with bars := tabPut b ⟨0, 0, !k.par, false, false, k.phase + 1⟩ y.bars }) fun _ => rfl]

/-- A group that waits at the phase goes on in a new run; one at another phase stays. -/
theorem letGo_waiting {hit : Nat → Nat → Bool} {since b p : Nat} {s : State} {g : Gid} {v : View} (hv : view s g = some v)
    (waits : v.run.status = .barrier b p)
    (free : ∀ c w x, g = .warp c w → warpOf s c w = some x → ∀ e ∈ x.splits, e.held = none) :
    letGo hit since s g = if hit b p then startRun s g since else s := by
  cases g with
  | kindle cl k =>
    have status : statusOf s (.kindle cl k) = some (.barrier b p) := by rw [statusOf, hv, Option.map_some, waits]
    simp only [letGo, status]
  | warp c w =>
    obtain ⟨x, hx, rfl⟩ := view_warp hv
    have none_ := free c w x rfl hx
    have same (off : Split → Split) (keeps : ∀ e, e.held = none → off e = e) : x.splits.map off = x.splits :=
      (List.map_congr_left fun e he => keeps e (none_ e he)).trans (List.map_id _)
    have status : x.run.status = .barrier b p := waits
    simp only [letGo, hx, status]
    rw [same _ fun e he => by simp only [he]]
    simp

theorem completeGbar_eq {s : State} {l : Nat} {x : Launch} (hl : launchOf s l = some x) :
    let next := modLaunch s l fun y => { y with garr := 0, gphase := y.gphase + 1 }
    let hit (b' p : Nat) : Bool := b' = 512 && p = x.gphase
    completeGbar s l = ((s.units.filter fun y => y.2.launch = l).map (·.1)).foldl (fun a u =>
      let b := acquirePhase hit (obGbar l x.gphase) (l1Acquire a (((unitOf a u).map (·.core)).getD 0) 4) u
      (unitGroups b u).foldl (fun d g => letGo hit (s.now + 400) d g) b) next := by
  simp only [completeGbar, hl]

/-! ## Arrivals at `gbar` -/

theorem any_tabMod {α : Type} {p : α → Bool} {f : α → α} (h : ∀ x, p (f x) = p x) (k : Nat) (t : Tab α) :
    ((tabMod k f t).any fun y => p y.2) = t.any fun y => p y.2 := by
  induction t with
  | nil => rfl
  | cons y r ih =>
    obtain ⟨j, x⟩ := y
    rw [tabMod]
    split
    · simp [h]
    · simp [ih]

theorem launchOf_modLaunch_other (s : State) {l m : Nat} (f : Launch → Launch) (h : m ≠ l) : launchOf (modLaunch s l f) m = launchOf s m := by
  simp [launchOf, modLaunch, h]

theorem clocksOn_modLaunch {f : Launch → Launch} (h : ∀ x, (f x).frame = x.frame) (s : State) (l u : Nat) :
    clocksOn (modLaunch s l f) u = clocksOn s u := by
  have frame : unitFrame (modLaunch s l f) u = unitFrame s u := by
    have part (m : Nat) : (launchOf (modLaunch s l f) m).bind (·.frame) = (launchOf s m).bind (·.frame) := by
      by_cases hm : m = l
      · rw [hm, launchOf_modLaunch]
        cases launchOf s l with
        | none => rfl
        | some x => exact h x
      · rw [launchOf_modLaunch_other s f hm]
    simp only [unitFrame, unitLaunch, unitOf, Option.bind_assoc, part]
    rfl
  have any : ((modLaunch s l f).launches.any fun (_, l) => l.frame.any fun f => f.flag 0) =
      s.launches.any fun (_, l) => l.frame.any fun f => f.flag 0 :=
    any_tabMod (p := fun (y : Launch) => y.frame.any fun (z : Frame) => z.flag 0) (fun x => by rw [h x]) l s.launches
  rw [clocksOn, isDeterm, frame, any]
  rfl

theorem arriveGbar_last {s : State} {l : Nat} {x : Launch} (hl : launchOf s l = some x) {u : Nat} (off : clocksOn s u = false)
    (last : x.threadsLeft ≤ x.garr + 1) (agent : Nat) :
    arriveGbar l agent u s = (completeGbar (modLaunch s l fun y => { y with garr := y.garr + 1 }) l, x.gphase) := by
  have still : clocksOn (modLaunch s l fun y => { y with garr := y.garr + 1 }) u = false :=
    (clocksOn_modLaunch (fun _ => by rfl) ..).trans off
  simp only [arriveGbar, hl, if_pos last, release_off still]

theorem arriveGbar_counts {s : State} {l : Nat} {x : Launch} (hl : launchOf s l = some x) (u agent : Nat)
    (low : x.garr + 1 < x.threadsLeft) :
    butClocks (modLaunch s l fun y => { y with garr := y.garr + 1 }) (arriveGbar l agent u s).1 ∧ (arriveGbar l agent u s).2 = x.gphase := by
  simp only [arriveGbar, hl, if_neg (Nat.not_le.mpr low)]
  exact ⟨butClocks_release .., trivial⟩

/-- Arrivals at `gbar` that together do not complete the phase. -/
theorem gbarArrivals {l u : Nat} (agent : Nat → Nat) (ls : List Nat) {s : State} {x : Launch} (hl : launchOf s l = some x) (n : Nat)
    (low : x.garr + ls.length < x.threadsLeft) :
    let t := ls.foldl (fun a m => (arriveGbar l (agent m) u a).1) s
    ls.foldl (fun (p : State × Nat) m => arriveGbar l (agent m) u p.1) (s, n) = (t, if ls = [] then n else x.gphase) ∧
    launchOf t l = some { x with garr := x.garr + ls.length } := by
  induction ls generalizing s x n with
  | nil => exact ⟨rfl, hl⟩
  | cons m r ih =>
    rw [List.length_cons] at low
    obtain ⟨⟨cl, after⟩, phase⟩ := arriveGbar_counts hl u (agent m) (by omega)
    have there : launchOf (arriveGbar l (agent m) u s).1 l = some { x with garr := x.garr + 1 } := by
      rw [after]
      exact (launchOf_modLaunch s l _).trans (congrArg _ hl)
    obtain ⟨folds, counted⟩ := ih there x.gphase (by dsimp only; omega)
    have first : arriveGbar l (agent m) u s = ((arriveGbar l (agent m) u s).1, x.gphase) := by rw [← phase]
    refine ⟨?_, counted.trans ?_⟩
    · rw [List.foldl_cons, first]
      refine folds.trans ?_
      simp
    · simp only [Option.some.injEq, List.length_cons, Launch.mk.injEq, true_and, and_true]
      omega

theorem modLaunch_modLaunch (s : State) (l : Nat) (f g : Launch → Launch) :
    modLaunch (modLaunch s l g) l f = modLaunch s l fun x => f (g x) := by
  simp [modLaunch, tabMod_mod]

/-- Without clocks the arrivals only count. -/
theorem gbarArrivals_plain {l u : Nat} (agent : Nat → Nat) (ls : List Nat) {s : State} {x : Launch} (hl : launchOf s l = some x)
    (off : clocksOn s u = false) (low : x.garr + ls.length < x.threadsLeft) (some_ : ls ≠ []) :
    ls.foldl (fun a m => (arriveGbar l (agent m) u a).1) s = modLaunch s l fun y => { y with garr := y.garr + ls.length } := by
  have one {s : State} {x : Launch} (m : Nat) (hl : launchOf s l = some x) (off : clocksOn s u = false) (low : x.garr + 1 < x.threadsLeft) :
      (arriveGbar l (agent m) u s).1 = modLaunch s l fun y => { y with garr := y.garr + 1 } := by
    have still : clocksOn (modLaunch s l fun y => { y with garr := y.garr + 1 }) u = false :=
      (clocksOn_modLaunch (fun _ => by rfl) ..).trans off
    simp only [arriveGbar, hl, if_neg (Nat.not_le.mpr low), release_off still]
  induction ls generalizing s x with
  | nil => exact absurd rfl some_
  | cons m r ih =>
    rw [List.length_cons] at low
    rw [List.foldl_cons, one m hl off (by omega)]
    by_cases last : r = []
    · simp [last]
    · rw [ih ((launchOf_modLaunch s l _).trans (congrArg _ hl)) ((clocksOn_modLaunch (fun _ => by rfl) ..).trans off)
        (by dsimp only; omega) last, modLaunch_modLaunch]
      simp only [List.length_cons, Nat.add_assoc, Nat.add_comm 1]

/-- Settles O19: a phase of a barrier, of `gbar`, and the instruction that arrives there. -/
theorem barrierPhases : Obligations.BarrierPhases := by
  refine ⟨⟨fun s u b x k hu hk => ⟨completeBar_eq hu hk, barOf_modUnit hu b _⟩, fun hit since b p s g v hv waits free => ⟨fun met => ?_, fun other => ?_⟩⟩,
    fun s l x hl => ⟨completeGbar_eq hl, fun agent u off last => arriveGbar_last hl off last agent⟩,
    fun s v x h hl => ⟨fun off => ?_, ?_⟩⟩
  · rw [letGo_waiting hv waits free, if_pos met, view_startRun, hv]
    rfl
  · rw [letGo_waiting hv waits free, other]
    rfl
  · exact h.ownTraps (i := .gbar) rfl (if_neg (Bool.eq_false_iff.mp off))
  · intro flag some_
    have own (on : flag) : gbarTrap s v = none := if_pos on
    have arrives (on : flag) (low : some_) (free : releaseWaits s v = false) : Safety.Goes .gbar s v
        (v.act.foldl (fun a l => (arriveGbar (unitLaunchId s v.unit) (agentOf s v l) v.unit a).1) s) (.gbar x.gphase) 0 := by
      obtain ⟨folds, counted⟩ := gbarArrivals (u := v.unit) (agentOf s v) v.act hl 0 low.1
      rw [if_neg low.2] at folds
      refine (h.closes (i := .gbar) rfl (own on) (releasePre_free free)).trans ?_
      simp only [folds, counted, Option.map_some, Option.getD_some, if_true]
      rfl
    refine ⟨fun on waits => h.preWaits (i := .gbar) rfl (own on) (releasePre_waits waits), arrives, fun on low free off => ?_⟩
    have goes := arrives on low free
    rwa [gbarArrivals_plain (agentOf s v) v.act hl off low.1 low.2] at goes

end Sys2Proof
end

section
/-! What the records beside the data keep (R80, R108, R138, R353): clocks, race log, reports and the shared cache change without a byte of
memory, a core, a pool or a unit changing. -/

namespace Sys2Proof
open Machine

/-- A launch without its count of races. -/
def raceless (x : Launch) : Launch := { x with races := 0 }

/-- A state without what accesses only note beside the data: the shared cache, scope records, clocks, races, reports and the event rings
of the host. -/
def aside (s : State) : State :=
  { s with fresh := 0, l2 := [], syncLines := [], reports := [], clocks := [], rels := [], raceLog := [], fns := [], hostMem := [], launches := s.launches.map fun y => (y.1, raceless y.2) }

/-- A state without memory too. -/
def besideMemory (s : State) : State := { aside s with mem := [], memKeys := [], memPoison := [], remoteMem := [] }

theorem besideMemory_of_aside {s t : State} (h : aside t = aside s) : besideMemory t = besideMemory s :=
  congrArg (fun x : State => { x with mem := [], memKeys := [], memPoison := [], remoteMem := [] }) h

section
variable {s t : State}

theorem aside_mem (h : aside t = aside s) : t.mem = s.mem := (congrArg State.mem h :)
theorem aside_memKeys (h : aside t = aside s) : t.memKeys = s.memKeys := (congrArg State.memKeys h :)
theorem aside_memPoison (h : aside t = aside s) : t.memPoison = s.memPoison := (congrArg State.memPoison h :)
theorem besideMemory_cores (h : besideMemory t = besideMemory s) : t.cores = s.cores := (congrArg State.cores h :)
theorem besideMemory_pools (h : besideMemory t = besideMemory s) : t.pools = s.pools := (congrArg State.pools h :)

theorem besideMemory_storageOf (h : besideMemory t = besideMemory s) (a : Nat) : storageOf t a = storageOf s a :=
  (congrArg (fun x => storageOf x a) h :)

end

/-- Steps that leave a view of the state leave it together. -/
theorem foldl_same {α β : Type} {view : State → β} {f : State → α → State} (h : ∀ a x, view (f a x) = view a) (l : List α) (s : State) :
    view (l.foldl f s) = view s :=
  foldl_keeps (P := fun t => view t = view s) (fun a x same => (h a x).trans same) l rfl

/-! ## Reports and events -/

theorem aside_hostWrite (s : State) (k a : Nat) (b : Byte) : aside (writeByte s (.host k a) b) = aside s := rfl

theorem aside_writePlace_host (s : State) (k a : Nat) (bytes : List Byte) : aside (writePlace s (.host k a) bytes) = aside s := by
  simp only [writePlace]
  refine foldl_same (view := aside) (fun t x => ?_) _ s
  exact aside_hostWrite t k (a + x.1) x.2

@[simp] theorem aside_modFn (s : State) (n : Nat) (f : Fn → Fn) : aside (modFn s n f) = aside s := rfl

@[simp] theorem aside_loseEvent (s : State) (fn : Nat) : aside (loseEvent s fn) = aside s := rfl

@[simp] theorem aside_postEvent (s : State) (fn kind source data : Nat) : aside (postEvent s fn kind source data) = aside s := by
  unfold postEvent
  dsimp only
  split
  · rfl
  · split
    · rfl
    · split
      · rfl
      · exact (aside_modFn ..).trans (aside_writePlace_host ..)

@[simp] theorem aside_freshNat (s : State) : aside (freshNat s).2 = aside s := rfl

@[simp] theorem aside_postReport (s : State) (fn kind gen launch addr pc : Nat) (body : List Byte) :
    aside (postReport s fn kind gen launch addr pc body) = aside s := by
  unfold postReport
  rw [aside_postEvent]
  split
  · rfl
  · exact aside_postEvent ..

@[simp] theorem aside_hostReport (s : State) (gen launch addr pc cause : Nat) : aside (hostReport s gen launch addr pc cause) = aside s :=
  aside_postReport ..

@[simp] theorem aside_poisonReport (s : State) (v : View) (p : Place) (va : Nat) : aside (poisonReport s v p va) = aside s := by
  unfold poisonReport
  split
  · exact aside_postReport ..
  · rfl

/-! ## Clocks and races -/

theorem aside_setClock (s : State) (vec comp n : Nat) : aside (setClock s vec comp n) = aside s := rfl

theorem aside_release (s : State) (u agent ob : Nat) (all : Bool) : aside (release s u agent ob all) = aside s := by
  obtain ⟨cl, same⟩ := butClocks_release s u agent ob all
  rw [same]
  rfl

theorem aside_joinClock (s : State) (dst src : Nat) : aside (joinClock s dst src) = aside s := by
  obtain ⟨cl, same⟩ := butClocks_joinClock s dst src
  rw [same]
  rfl

theorem aside_acquire (s : State) (u agent ob : Nat) (all : Bool) : aside (acquire s u agent ob all) = aside s := by
  unfold acquire
  split
  · rfl
  · dsimp only
    split
    · rw [aside_joinClock, aside_joinClock]
    · exact aside_joinClock ..

theorem aside_carryRels (s : State) (dst src : Nat) : aside (carryRels s dst src) = aside s := rfl
theorem aside_dropRels (s : State) (ob : Nat) : aside (dropRels s ob) = aside s := rfl

theorem aside_releaseAt (s : State) (u agent at_ scope : Nat) (by_ : Party) (all : Bool) :
    aside (releaseAt s u agent at_ scope by_ all) = aside s := by
  unfold releaseAt
  split
  · rfl
  · exact aside_release ..

theorem aside_acquireAt (s : State) (u agent at_ : Nat) (ok : Rel → Bool) (all : Bool) : aside (acquireAt s u agent at_ ok all) = aside s := by
  unfold acquireAt
  split
  · rfl
  · exact foldl_same (fun _ _ => aside_acquire ..) _ s

@[simp] theorem aside_clockWrite (s : State) (u agent key n : Nat) : aside (clockWrite s u agent key n) = aside s := by
  unfold clockWrite
  split
  · rfl
  · exact foldl_same (fun _ _ => by rfl) _ s

@[simp] theorem aside_clockRead (s : State) (u agent key n : Nat) : aside (clockRead s u agent key n) = aside s := by
  unfold clockRead
  split
  · rfl
  · exact foldl_same (fun _ _ => by rfl) _ s

@[simp] theorem aside_releaseWords (s : State) (v : View) (lane scope : Nat) (p : Place) (n : Nat) (atom all : Bool) :
    aside (releaseWords s v lane scope p n atom all) = aside s := by
  unfold releaseWords
  split
  · rfl
  · refine foldl_same (fun a w => ?_) _ s
    rw [aside_releaseAt]
    split <;> rfl

@[simp] theorem aside_acquireWords (s : State) (v : View) (lane scope : Nat) (p : Place) (n : Nat) :
    aside (acquireWords s v lane scope p n) = aside s :=
  foldl_same (fun _ _ => aside_acquireAt ..) _ s

theorem tabGet_map {α β : Type} (f : α → β) (k : Nat) (t : Tab α) : tabGet k (t.map fun y => (y.1, f y.2)) = (tabGet k t).map f := by
  induction t with
  | nil => rfl
  | cons x r ih =>
    obtain ⟨j, a⟩ := x
    simp only [List.map_cons, tabGet]
    split
    · rfl
    · exact ih

theorem map_tabMod_same {α β : Type} {f : α → α} {g : Nat × α → β} (h : ∀ k x, g (k, f x) = g (k, x)) (k : Nat) (t : Tab α) :
    (tabMod k f t).map g = t.map g := by
  induction t with
  | nil => rfl
  | cons x r ih =>
    obtain ⟨j, a⟩ := x
    rw [tabMod]
    split
    · simp [h]
    · simp [ih]

theorem launchOf_aside (s : State) (l : Nat) : launchOf (aside s) l = (launchOf s l).map raceless :=
  tabGet_map raceless l s.launches

/-- What keeps the data keeps a launch from recording. -/
theorem unrecorded_aside (s : State) (u : Nat) : Safety.unrecorded (aside s) u ↔ Safety.unrecorded s u := by
  simp only [Safety.unrecorded, launchOf_aside]
  constructor
  · intro h x hx
    exact h (raceless x) (by rw [show unitLaunchId (aside s) u = unitLaunchId s u from rfl, hx, Option.map_some])
  · intro h x hx
    obtain ⟨y, hy, rfl⟩ := Option.map_eq_some_iff.mp hx
    exact h y hy

theorem unrecorded_besideMemory {s t : State} (h : besideMemory t = besideMemory s) (u : Nat) :
    Safety.unrecorded t u ↔ Safety.unrecorded s u := by
  rw [← unrecorded_aside t, ← unrecorded_aside s]
  exact iff_of_eq (congrArg (fun x => Safety.unrecorded x u) h :)

theorem aside_modLaunch_races (s : State) (l : Nat) (n : Launch → Nat) : aside (modLaunch s l fun y => { y with races := n y }) = aside s := by
  rw [aside, aside, show (modLaunch s l fun y => { y with races := n y }).launches.map (fun y => (y.1, raceless y.2)) =
    s.launches.map fun y => (y.1, raceless y.2) from map_tabMod_same (f := fun y : Launch => { y with races := n y }) (fun _ _ => rfl) l s.launches]
  rfl

theorem aside_reportRace (s : State) (l : Nat) (a b : RaceAcc) : aside (reportRace s l a b) = aside s := by
  unfold reportRace
  split
  · rfl
  · dsimp only
    split
    · exact aside_modLaunch_races s l fun y => Nat.min (2 ^ 32 - 1) (y.races + 1)
    · exact (aside_postReport ..).trans (aside_modLaunch_races s l fun y => Nat.min (2 ^ 32 - 1) (y.races + 1))

@[simp] theorem aside_raceCheck (s : State) (u agent pc lid lane kind addr key len : Nat) (un : Bool) (mates : List Nat) :
    aside (raceCheck s u agent pc lid lane kind addr key len un mates) = aside s := by
  unfold raceCheck
  split
  · rfl
  · exact foldl_same (fun _ _ => aside_reportRace ..) _ s

/-! ## The shared cache and scope records -/

theorem aside_l2Touch (s : State) (gen part line dirty : Nat) : aside (l2Touch s gen part line dirty) = aside s := by
  unfold l2Touch
  dsimp only
  split <;> rfl

@[simp] theorem aside_touchPlace (s : State) (gen part : Nat) (p : Place) (dirty : Nat) : aside (touchPlace s gen part p dirty) = aside s := by
  cases p with
  | dev a => exact aside_l2Touch ..
  | remote => rfl
  | host => rfl

@[simp] theorem aside_recordRelease (s : State) (by_ : Party) (p : Place) (n scope : Nat) : aside (recordRelease s by_ p n scope) = aside s := by
  cases p <;> rfl

@[simp] theorem aside_breakRelease (s : State) (p : Place) (n : Nat) : aside (breakRelease s p n) = aside s := by
  cases p with
  | dev a =>
    unfold breakRelease
    dsimp only
    split <;> rfl
  | remote => rfl
  | host => rfl

end Sys2Proof
end

section
/-! Writes of memory at the point of coherence (R125, R273, R356): which bytes of device memory they leave. -/

namespace Sys2Proof
open Machine

/-! ## Bytes set one after another -/

def setAll (m : Memory) (l : List (Nat × Byte)) : Memory := l.foldl (fun m x => m.set x.1 x.2) m

theorem setAll_append (m : Memory) (l k : List (Nat × Byte)) : setAll m (l ++ k) = setAll (setAll m l) k := List.foldl_append

theorem setAll_wf {m : Memory} (hm : m.wf = true) (l : List (Nat × Byte)) : (setAll m l).wf = true :=
  foldl_keeps (P := fun m : Memory => m.wf = true) (fun _ x h => set_wf x.1 x.2 h) l hm

theorem get_setAll_outside {m : Memory} (hm : m.wf = true) {l : List (Nat × Byte)} {a : Nat} (h : ∀ x ∈ l, x.1 ≠ a) :
    (setAll m l).get a = m.get a := by
  induction l generalizing m with
  | nil => rfl
  | cons x r ih =>
    rw [setAll, List.foldl_cons, ← setAll, ih (set_wf x.1 x.2 hm) fun y hy => h y (List.mem_cons_of_mem x hy), get_set x.1 a x.2 hm,
      if_neg (h x List.mem_cons_self).symm]

/-- The last byte set at an address stays. -/
theorem get_setAll_last {m : Memory} (hm : m.wf = true) {l k : List (Nat × Byte)} {x : Nat × Byte} (h : ∀ y ∈ k, y.1 ≠ x.1) :
    (setAll m (l ++ x :: k)).get x.1 = x.2 := by
  have wf := setAll_wf hm l
  rw [setAll_append, setAll, List.foldl_cons, ← setAll, get_setAll_outside (set_wf x.1 x.2 wf) h, get_set x.1 x.1 x.2 wf, if_pos rfl]

/-! ## A place written -/

/-- The bytes of device memory that a write at a place sets, as storage address and byte. -/
def placedAt (s : State) (bytes : List (Nat × Byte)) : Place → List (Nat × Byte)
  | .dev a => bytes.map fun x => (storageOf s (a + x.1), x.2)
  | _ => []

/-- The bytes of a write, numbered. -/
def numbered (bytes : List Byte) : List (Nat × Byte) := bytes.mapIdx fun i b => (i, b)

theorem placedAt_congr {s t : State} (h : besideMemory t = besideMemory s) (bytes : List (Nat × Byte)) (p : Place) :
    placedAt t bytes p = placedAt s bytes p := by
  cases p <;> simp only [placedAt, besideMemory_storageOf h]

/-- The change of one byte. -/
theorem writeByte_effect (s : State) (p : Place) (x : Nat × Byte) : besideMemory (writeByte s (p.plus x.1) x.2) = besideMemory s ∧
    (writeByte s (p.plus x.1) x.2).mem = setAll s.mem (placedAt s [x] p) ∧ (writeByte s (p.plus x.1) x.2).memKeys = s.memKeys := by
  cases p <;> exact ⟨rfl, rfl, rfl⟩

theorem writeBytes_effect (p : Place) (l : List (Nat × Byte)) (s : State) :
    besideMemory (l.foldl (fun a x => writeByte a (p.plus x.1) x.2) s) = besideMemory s ∧
    (l.foldl (fun a x => writeByte a (p.plus x.1) x.2) s).mem = setAll s.mem (placedAt s l p) ∧
    (l.foldl (fun a x => writeByte a (p.plus x.1) x.2) s).memKeys = s.memKeys := by
  induction l generalizing s with
  | nil => cases p <;> exact ⟨rfl, rfl, rfl⟩
  | cons x r ih =>
    obtain ⟨beside, mem, keys⟩ := writeByte_effect s p x
    obtain ⟨beside', mem', keys'⟩ := ih (writeByte s (p.plus x.1) x.2)
    refine ⟨beside'.trans beside, ?_, keys'.trans keys⟩
    rw [List.foldl_cons, mem', mem, placedAt_congr beside, ← setAll_append]
    cases p <;> rfl

theorem writePlace_effect (s : State) (p : Place) (bytes : List Byte) : besideMemory (writePlace s p bytes) = besideMemory s ∧
    (writePlace s p bytes).mem = setAll s.mem (placedAt s (numbered bytes) p) ∧ (writePlace s p bytes).memKeys = s.memKeys := by
  have bytes_ := writeBytes_effect p (numbered bytes) s
  cases p with
  | dev a =>
    simp only [writePlace]
    split
    · exact bytes_
    · exact bytes_
  | remote => exact bytes_
  | host => exact bytes_

theorem writeMem_effect (s : State) (gen part : Nat) (p : Place) (bytes : List Byte) :
    besideMemory (writeMem s gen part p bytes) = besideMemory s ∧
    (writeMem s gen part p bytes).mem = setAll s.mem (placedAt s (numbered bytes) p) ∧
    (writeMem s gen part p bytes).memKeys = keysAfter s gen p bytes.length := by
  have touched := aside_touchPlace (writeAs s gen p bytes) gen part p
  obtain ⟨beside, mem, keys⟩ := writePlace_effect { s with memKeys := keysAfter s gen p bytes.length } p bytes
  refine ⟨(besideMemory_of_aside (touched _)).trans beside, (aside_mem (touched _)).trans (mem.trans ?_), (aside_memKeys (touched _)).trans keys⟩
  cases p <;> rfl

/-! ## A store at its point of coherence -/

theorem poisonPlace_effect (s : State) (p : Place) : besideMemory (poisonPlace s p) = besideMemory s ∧ (poisonPlace s p).mem = s.mem := by
  cases p with
  | dev a =>
    unfold poisonPlace
    dsimp only
    split <;> exact ⟨rfl, rfl⟩
  | remote => exact ⟨rfl, rfl⟩
  | host => exact ⟨rfl, rfl⟩

theorem poisonFrag_effect (s : State) (f : Frag) : besideMemory (poisonFrag s f) = besideMemory s ∧ (poisonFrag s f).mem = s.mem :=
  ⟨foldl_same (fun a _ => (poisonPlace_effect a _).1) _ s, foldl_same (view := State.mem) (fun a _ => (poisonPlace_effect a _).2) _ s⟩

/-- A host place while the link is down: nothing is written (R437). -/
def lostWrite (s : State) (p : Place) : Bool := match p with | .host .. => !s.linkUp | _ => false

theorem storeFrag_eq (s : State) (v : View) (lane kind : Nat) (f : Frag) (b : List Byte) (bad : Bool) :
    storeFrag s v lane kind f b bad =
      let s1 := raceCheck s v.unit (agentOf s v lane) v.pc.toNat (lidOf s v.unit) lane kind f.va f.place.key f.len (f.ord == 2)
      let s2 := if f.ord = 1 then releaseWords s1 v lane (soScope f.place) f.place f.len false false
        else clockWrite s1 v.unit (agentOf s v lane) f.place.key f.len
      if lostWrite s f.place then hostReport s2 (unitGen s v.unit) (launchHandle s v.unit) f.va v.pc.toNat 4
      else
        let s3 := writeMem s2 (unitGen s v.unit) (unitPart s v.unit) f.place b
        let s4 := if bad then poisonFrag s3 f else s3
        if f.ord = 1 then recordRelease s4 (partyOf s v 0 [lane]) f.place f.len (soScope f.place) else breakRelease s4 f.place f.len := rfl

/-- One part of a store: its bytes set in device memory, and nothing else of a core, a pool or a unit changed. -/
theorem storeFrag_effect (s : State) (v : View) (lane kind : Nat) (f : Frag) (b : List Byte) (bad : Bool) :
    besideMemory (storeFrag s v lane kind f b bad) = besideMemory s ∧
    (storeFrag s v lane kind f b bad).mem = setAll s.mem (placedAt s (numbered b) f.place) := by
  rw [storeFrag_eq]
  dsimp only
  generalize hs2 : (if f.ord = 1 then _ else _ : State) = s2
  have noted : aside s2 = aside s := by
    rw [← hs2]
    split
    · rw [aside_releaseWords, aside_raceCheck]
    · rw [aside_clockWrite, aside_raceCheck]
  have beside := besideMemory_of_aside noted
  split
  · next lost =>
    have nowhere : placedAt s (numbered b) f.place = [] := by
      cases hp : f.place <;> simp [hp, lostWrite, placedAt] at lost ⊢
    rw [nowhere]
    have told := (aside_hostReport s2 (unitGen s v.unit) (launchHandle s v.unit) f.va v.pc.toNat 4).trans noted
    exact ⟨besideMemory_of_aside told, aside_mem told⟩
  · obtain ⟨wrote, mem, -⟩ := writeMem_effect s2 (unitGen s v.unit) (unitPart s v.unit) f.place b
    rw [placedAt_congr beside, aside_mem noted] at mem
    generalize hs4 : (if bad = true then _ else _ : State) = s4
    have marked : besideMemory s4 = besideMemory s ∧ s4.mem = setAll s.mem (placedAt s (numbered b) f.place) := by
      rw [← hs4]
      split
      · obtain ⟨beside', mem'⟩ := poisonFrag_effect (writeMem s2 (unitGen s v.unit) (unitPart s v.unit) f.place b) f
        exact ⟨beside'.trans (wrote.trans beside), mem'.trans mem⟩
      · exact ⟨wrote.trans beside, mem⟩
    have ends (t : State) (h : aside t = aside s4) : besideMemory t = besideMemory s ∧
        t.mem = setAll s.mem (placedAt s (numbered b) f.place) :=
      ⟨(besideMemory_of_aside h).trans marked.1, (aside_mem h).trans marked.2⟩
    split
    · exact ends _ (aside_recordRelease ..)
    · exact ends _ (aside_breakRelease ..)

/-- Parts of a store, one after another. -/
theorem storeFrags_effect {v : View} {kind : Nat} (lane : Frag → Nat) (part : Frag → List Byte) (bad : Frag → Bool) (fs : List Frag) (s : State) :
    let t := fs.foldl (fun a f => storeFrag a v (lane f) kind f (part f) (bad f)) s
    besideMemory t = besideMemory s ∧ t.mem = setAll s.mem (fs.flatMap fun f => placedAt s (numbered (part f)) f.place) := by
  induction fs generalizing s with
  | nil => exact ⟨rfl, rfl⟩
  | cons f r ih =>
    obtain ⟨beside, mem⟩ := storeFrag_effect s v (lane f) kind f (part f) (bad f)
    obtain ⟨beside', mem'⟩ := ih (storeFrag s v (lane f) kind f (part f) (bad f))
    refine ⟨beside'.trans beside, mem'.trans ?_⟩
    rw [mem, List.flatMap_cons, setAll_append]
    simp only [placedAt_congr beside]
end Sys2Proof
end

section
/-! What the bookkeeping of requests leaves: every memory, the stores of the cores, the units and the launches (R172, R178). -/

namespace Sys2Proof
open Machine

theorem Safety.sameData_refl (s : State) : Safety.sameData s s := ⟨rfl, rfl, rfl, rfl, rfl, fun _ => ⟨rfl, rfl, rfl⟩⟩

theorem Safety.sameData_trans {s t u : State} (h : Safety.sameData s t) (k : Safety.sameData t u) : Safety.sameData s u := by
  obtain ⟨mem, host, remote, units, launches, cores⟩ := h
  obtain ⟨mem', host', remote', units', launches', cores'⟩ := k
  refine ⟨mem'.trans mem, host'.trans host, remote'.trans remote, units'.trans units, launches'.trans launches, fun c => ?_⟩
  obtain ⟨store, acc, tiles⟩ := cores c
  obtain ⟨store', acc', tiles'⟩ := cores' c
  exact ⟨store'.trans store, acc'.trans acc, tiles'.trans tiles⟩

/-- A change of a core that leaves its stores and tiles. -/
theorem sameData_modCore {f : Core → Core} (store : ∀ k, (f k).store = k.store) (acc : ∀ k, (f k).acc = k.acc)
    (tiles : ∀ k, (f k).tiles = k.tiles) (s : State) (c : Nat) : Safety.sameData s (modCore s c f) :=
  ⟨rfl, rfl, rfl, rfl, rfl, fun d => ⟨coreOf_modCore_field store d, coreOf_modCore_field acc d, coreOf_modCore_field tiles d⟩⟩

theorem sameData_modWarp (s : State) (c w : Nat) (f : Warp → Warp) : Safety.sameData s (modWarp s c w f) :=
  sameData_modCore (fun _ => by rfl) (fun _ => by rfl) (fun _ => by rfl) s c

theorem sameData_modEj (s : State) (c k : Nat) (f : Ejected → Ejected) : Safety.sameData s (modEj s c k f) := Safety.sameData_refl s

theorem sameData_modRun (s : State) (g : Gid) (f : Run → Run) : Safety.sameData s (modRun s g f) := by
  cases g with
  | warp c w => exact sameData_modWarp s c w _
  | kindle c k => exact Safety.sameData_refl s

theorem sameData_progress (s : State) (v : View) : Safety.sameData s (progress s v) := by
  unfold progress
  split
  · exact sameData_modWarp ..
  · exact Safety.sameData_refl s

/-- Drawing the rounds an access loses changes the list of rounds alone. -/
theorem drawLost_state (s : State) (v : View) : ∃ l, (drawLost s v).2 = { s with lost := l } := by
  unfold drawLost takeLost
  dsimp only
  split
  · exact ⟨s.lost, rfl⟩
  · cases s.lost with
    | nil => exact ⟨s.lost, rfl⟩
    | cons n r => exact ⟨r, rfl⟩

theorem sameData_drawLost (s : State) (v : View) : Safety.sameData s (drawLost s v).2 := by
  obtain ⟨l, same⟩ := drawLost_state s v
  rw [same]
  exact Safety.sameData_refl s

theorem sameData_addRounds (s : State) (v : View) (n : Nat) : Safety.sameData s (addRounds s v n) := by
  unfold addRounds
  split
  · exact Safety.sameData_refl s
  · split
    · exact sameData_modWarp ..
    · exact sameData_modEj ..

theorem Safety.sameData.unrecorded {s t : State} (h : Safety.sameData s t) (u : Nat) : Safety.unrecorded t u ↔ Safety.unrecorded s u := by
  obtain ⟨-, -, -, units, launches, -⟩ := h
  exact Safety.unrecorded_congr launches units u

theorem unitLaunchId_congr {s t : State} (h : t.units = s.units) (u : Nat) : unitLaunchId t u = unitLaunchId s u := by
  simp only [unitLaunchId, unitOf, h]

/-- A request of a launch that records nothing. -/
theorem sameData_countRequest {s : State} {v : View} (h : Safety.unrecorded s v.unit) (rounds lost : Nat) :
    Safety.sameData s (countRequest s v rounds lost) := by
  have counted := sameData_modWarp s v.core v.wslot fun w => { w with reqCount := w.reqCount + 1 }
  unfold countRequest
  dsimp only
  have quiet (kind at_ aux data : Nat) : capture (modWarp s v.core v.wslot fun w => { w with reqCount := w.reqCount + 1 })
      (unitLaunchId s v.unit) kind at_ aux data = modWarp s v.core v.wslot fun w => { w with reqCount := w.reqCount + 1 } :=
    ((counted.unrecorded v.unit).mpr h).capture ..
  rw [quiet, ite_self]
  exact Safety.sameData_trans counted (sameData_addRounds ..)

theorem sameData_l1Drop (s : State) (core line mask : Nat) : Safety.sameData s (l1Drop s core line mask) := by
  unfold l1Drop
  split
  · exact Safety.sameData_refl s
  · exact sameData_modCore (fun _ => by rfl) (fun _ => by rfl) (fun _ => by rfl) s _

theorem sameData_foldl {α : Type} {f : State → α → State} (h : ∀ s x, Safety.sameData s (f s x)) (l : List α) (s : State) :
    Safety.sameData s (l.foldl f s) :=
  foldl_keeps (P := Safety.sameData s) (fun a x k => Safety.sameData_trans k (h a x)) l (Safety.sameData_refl s)

theorem sameData_pinLoads (s : State) (v : View) : Safety.sameData s (pinLoads s v) := Safety.sameData_refl s

theorem sameData_slotAdd (s : State) (g : Gid) (i : Nat) : Safety.sameData s (slotAdd s g i) := sameData_modRun ..

theorem sameData_sendReq (s : State) (q : Req) (i : Instr) : Safety.sameData s (sendReq s q i) := by
  unfold sendReq
  dsimp only
  cases q.slot with
  | none => exact Safety.sameData_refl s
  | some n => exact sameData_slotAdd (freshNat s).2 q.gid n

theorem sameData_useIssuer (s : State) (v : View) (idle : Nat) (parks : Bool) : Safety.sameData s (useIssuer s v idle parks) := by
  unfold useIssuer
  split
  · exact sameData_modCore (fun _ => by rfl) (fun _ => by rfl) (fun _ => by rfl) s _
  · exact Safety.sameData_refl s

end Sys2Proof
end

section
/-! Stores (R273, R125), and O28. -/

namespace Sys2Proof
open Machine

/-- The bytes that a part of a store writes. -/
def storePart (items : List (Nat × Nat × List Byte)) (f : Frag) : List Byte := (((nth items f.idx (0, 0, [])).2.2).drop f.off).take f.len

/-- The bytes of device memory that some parts of a store set. -/
def storePlaced (s : State) (items : List (Nat × Nat × List Byte)) (fs : List Frag) : List (Nat × Byte) :=
  fs.flatMap fun f => placedAt s (numbered (storePart items f)) f.place

theorem partition_free {s : State} {fs : List Frag} (free : ∀ f ∈ fs, heldAt s f.place = false) :
    (fs.partition fun f => heldAt s f.place) = ([], fs) := by
  rw [List.partition_eq_filter_filter]
  congr 1
  · exact List.filter_eq_nil_iff.mpr fun f hf => by simp [free f hf]
  · exact List.filter_eq_self.mpr fun f hf => by simp [free f hf]

/-- Where the parts of a store lie, none of them held, their bytes are set; the stores of the cores follow at the access cycle. -/
theorem storeAt_effect {s : State} {v : View} {fs : List Frag} (plain : Safety.unrecorded s v.unit)
    (free : ∀ f ∈ fs, heldAt s f.place = false) (items : List (Nat × Nat × List Byte)) (bad : List Nat) (kind : Nat) (slot : Option Nat)
    (ts : List Touch) : (storeAt s v items bad kind slot fs ts).mem = setAll s.mem (storePlaced s items fs) ∧
      ∀ c, (coreOf (storeAt s v items bad kind slot fs ts) c).store = (coreOf s c).store ∧
        (coreOf (storeAt s v items bad kind slot fs ts) c).acc = (coreOf s c).acc := by
  unfold storeAt
  simp only [partition_free free]
  generalize hs2 : ((linesOf fs).mapIdx fun i l => (i, l)).foldl _ ((drawLost s v).2, 0) = s2
  have same2 : s2.1 = (drawLost s v).2 := by
    rw [← hs2]
    refine foldl_keeps (P := fun p : State × Nat => p.1 = (drawLost s v).2) (fun a e h => ?_) _ rfl
    split <;> exact h
  obtain ⟨lost, drawn⟩ := drawLost_state s v
  have same2 : s2.1 = { s with lost := lost } := same2.trans drawn
  have quiet : Safety.unrecorded s2.1 v.unit := same2 ▸ plain
  generalize hs3 : fs.foldl _ s2.1 = s3
  obtain ⟨beside, wrote⟩ : besideMemory s3 = besideMemory s2.1 ∧ s3.mem = setAll s2.1.mem (storePlaced s2.1 items fs) :=
    hs3 ▸ storeFrags_effect _ (storePart items) _ fs s2.1
  have counted (rounds lost : Nat) := sameData_countRequest ((unrecorded_besideMemory beside v.unit).mpr quiet) rounds lost
  generalize hs5 : (if kind = 2 then _ else _ : State) = s5
  have dropped : Safety.sameData s3 s5 := by
    rw [← hs5]
    split
    · exact Safety.sameData_trans (counted ..) (sameData_foldl (fun _ _ => sameData_l1Drop ..) _ _)
    · exact counted ..
  obtain ⟨mem', -, -, -, -, cores'⟩ := Safety.sameData_trans (Safety.sameData_trans dropped (sameData_pinLoads s5 v)) (sameData_sendReq _ _ .storeAck)
  refine ⟨mem'.trans (wrote.trans ?_), fun c => ?_⟩
  · rw [same2]
    rfl
  · obtain ⟨store, acc, -⟩ := cores' c
    have core : coreOf s3 c = coreOf s c := by rw [coreOf, besideMemory_cores beside, same2, coreOf]
    exact ⟨store.trans (by rw [core]), acc.trans (by rw [core])⟩

/-- What a part of a store covers: the storage addresses of its bytes in device memory. -/
def coversByte (s : State) (f : Frag) (addr : Nat) : Prop := ∃ a i, f.place = .dev a ∧ i < f.len ∧ storageOf s (a + i) = addr

theorem mem_numbered {bytes : List Byte} {x : Nat × Byte} : x ∈ numbered bytes ↔ bytes[x.1]? = some x.2 := by
  simp only [numbered, List.mem_mapIdx, List.getElem?_eq_some_iff]
  constructor
  · rintro ⟨i, hi, rfl⟩
    exact ⟨hi, rfl⟩
  · rintro ⟨hi, same⟩
    exact ⟨x.1, hi, by rw [same]⟩

theorem storePart_length (items : List (Nat × Nat × List Byte)) (f : Frag) : (storePart items f).length ≤ f.len := by
  rw [storePart, List.length_take]
  exact Nat.min_le_left ..

/-- A part sets no byte that it does not cover. -/
theorem placed_uncovered {s : State} {items : List (Nat × Nat × List Byte)} {f : Frag} {addr : Nat} (h : ¬ coversByte s f addr) :
    ∀ x ∈ placedAt s (numbered (storePart items f)) f.place, x.1 ≠ addr := by
  intro x hx same
  cases place : f.place with
  | dev a =>
    rw [place] at hx
    obtain ⟨y, hy, rfl⟩ := List.mem_map.mp hx
    have short := storePart_length items f
    obtain ⟨low, -⟩ := List.getElem?_eq_some_iff.mp (mem_numbered.mp hy)
    exact h ⟨a, y.1, place, by omega, same⟩
  | remote => simp [place, placedAt] at hx
  | host => simp [place, placedAt] at hx

/-- The bytes of a write before one of them, that one, and those after it. -/
theorem numbered_split {bytes : List Byte} {i : Nat} (h : i < bytes.length) :
    ∃ before after, numbered bytes = before ++ (i, bytes[i]) :: after ∧ ∀ x ∈ after, x.1 ≠ i ∧ x.1 < bytes.length := by
  have long : i < (numbered bytes).length := by simpa [numbered] using h
  refine ⟨(numbered bytes).take i, (numbered bytes).drop (i + 1), ?_, fun x hx => ?_⟩
  · have here : (numbered bytes)[i] = (i, bytes[i]) := by simp [numbered]
    rw [← here, ← List.drop_eq_getElem_cons long, List.take_append_drop]
  · obtain ⟨j, hj, rfl⟩ := List.mem_drop_iff_getElem.mp hx
    simp only [numbered, List.length_mapIdx] at hj
    simp only [numbered, List.getElem_mapIdx]
    omega

theorem storePart_get {items : List (Nat × Nat × List Byte)} {f : Frag} {lane va i : Nat} {data : List Byte}
    (item : items[f.idx]? = some (lane, va, data)) (low : i < f.len) : (storePart items f)[i]? = data[f.off + i]? := by
  simp [storePart, nth, item, low]

/-- Settles O28: the parts set their bytes one after another, and the last that covers a byte leaves its own. -/
theorem storesWriteMemory : Obligations.StoresWriteMemory := by
  intro s v items bad kind slot plain wf accs frags covers t free
  obtain ⟨mem, cores⟩ := storeAt_effect plain free items bad kind slot (touchesOf s v accs)
  have mem : t.mem = setAll s.mem (storePlaced s items frags) := mem
  refine ⟨mem ▸ setAll_wf wf _, fun addr none_ => ?_, fun before f after a i lane va data split place low last once item inside => ?_, cores⟩
  · rw [mem]
    refine get_setAll_outside wf fun x hx => ?_
    obtain ⟨f, hf, hx⟩ := List.mem_flatMap.mp hx
    exact placed_uncovered (none_ f hf) x hx
  · have here := storePart_get item low
    rw [List.getElem?_eq_getElem inside] at here
    obtain ⟨long, byte⟩ := List.getElem?_eq_some_iff.mp here
    obtain ⟨pre, post, parts, later⟩ := numbered_split long
    have order : storePlaced s items frags = (storePlaced s items before ++ pre.map fun x => (storageOf s (a + x.1), x.2)) ++
        (storageOf s (a + i), (storePart items f)[i]) ::
          ((post.map fun x => (storageOf s (a + x.1), x.2)) ++ storePlaced s items after) := by
      simp only [storePlaced, split, List.flatMap_append, List.flatMap_cons, place, placedAt, parts, List.map_append, List.map_cons,
        List.append_assoc, List.cons_append]
    rw [mem, order, get_setAll_last wf, byte, List.getElem?_eq_getElem inside]
    intro x hx
    rcases List.mem_append.mp hx with own | other
    · obtain ⟨y, hy, rfl⟩ := List.mem_map.mp own
      obtain ⟨off, short⟩ := later y hy
      have := storePart_length items f
      exact fun same => off (once y.1 (by omega) same)
    · obtain ⟨g, hg, hx⟩ := List.mem_flatMap.mp other
      exact placed_uncovered (last g hg) x hx
end Sys2Proof
end

section
/-! Atomics (R275), and O30. -/

namespace Sys2Proof
open Machine

/-! ## Bytes read under the key they were written under (R344) -/

theorem tabGet_foldl_put {α : Type} (at_ : Nat → Nat) (k : α) (l : List Nat) (t : Tab α) (j : Nat) :
    tabGet j (l.foldl (fun t i => tabPut (at_ i) k t) t) = if j ∈ l.map at_ then some k else tabGet j t := by
  induction l generalizing t with
  | nil => simp
  | cons i r ih =>
    rw [List.foldl_cons, ih, tabGet_put]
    by_cases h : j = at_ i
    · simp [h]
    · simp [h]

theorem readAs_eq_map (s : State) (gen : Nat) (p : Place) (n : Nat) :
    readAs s gen p n = (List.range n).map fun i => byteAs s (keyOf s gen) (p.plus i) := by
  unfold readAs
  split
  · next none_ =>
    refine List.map_congr_left fun i _ => ?_
    have none_ : s.memKeys = [] := by simpa using none_
    cases p <;> simp [byteAs, Place.plus, none_, tabGet]
  · rfl

theorem readAs_length (s : State) (gen : Nat) (p : Place) (n : Nat) : (readAs s gen p n).length = n := by
  rw [readAs_eq_map]
  simp

/-- Bytes just written under the key of a context are read by it as they are. -/
theorem readAs_written {s t : State} {gen a : Nat} {b : List Byte} (wf : s.mem.wf = true) (beside : besideMemory t = besideMemory s)
    (mem : t.mem = setAll s.mem (placedAt s (numbered b) (.dev a))) (keys : t.memKeys = keysAfter s gen (.dev a) b.length)
    (once : ∀ i < b.length, ∀ j < b.length, storageOf s (a + i) = storageOf s (a + j) → i = j) : readAs t gen (.dev a) b.length = b := by
  rw [readAs_eq_map]
  apply List.ext_getElem
  · simp
  intro i hi hb
  rw [List.getElem_map, List.getElem_range]
  have plain : placeByte t (.dev (a + i)) = b[i] := by
    obtain ⟨pre, post, split, later⟩ := numbered_split hb
    rw [placeByte, besideMemory_storageOf beside, mem, placedAt, split, List.map_append, List.map_cons, get_setAll_last wf]
    intro x hx same
    obtain ⟨y, hy, rfl⟩ := List.mem_map.mp hx
    obtain ⟨off, short⟩ := later y hy
    exact off (once _ short _ hb same)
  have key : keyOf t gen = keyOf s gen := (congrArg (fun x => keyOf x gen) beside :)
  show byteAs t (keyOf t gen) (.dev (a + i)) = b[i]
  rw [key]
  cases own : keyOf s gen with
  | none =>
    simp only [byteAs]
    split
    · next none_ => cases none_
    · exact plain
  | some k =>
    have under : tabGet (storageOf t (a + i)) t.memKeys = some k := by
      rw [besideMemory_storageOf beside, keys]
      simp only [keysAfter, own]
      rw [tabGet_foldl_put fun i => storageOf s (a + i), if_pos (List.mem_map.mpr ⟨i, List.mem_range.mpr hb, rfl⟩)]
    simp only [byteAs, under, if_true]
    exact plain

theorem readAs_aside {s t : State} (h : aside t = aside s) (gen a n : Nat) : readAs t gen (.dev a) n = readAs s gen (.dev a) n :=
  (congrArg (fun x => readAs x gen (.dev a) n) h :)

theorem bytesOf_natOf (l : List Byte) : bytesOf l.length (natOf l) = l := by
  induction l with
  | nil => rfl
  | cons b r ih =>
    have low : (b.toNat + 256 * natOf r) % 256 = b.toNat := by have := b.isLt; omega
    have high : (b.toNat + 256 * natOf r) / 256 = natOf r := by have := b.isLt; omega
    rw [List.length_cons, bytesOf, natOf, low, high, ih]
    simp

/-- A write of device memory, with what is noted beside it: its bytes read back, and no other byte changed. -/
theorem writtenAt_effect {s n u : State} {gen part a : Nat} {b : List Byte} (wf : s.mem.wf = true)
    (left : aside u = aside (writeMem n gen part (.dev a) b)) (noted : aside n = aside s)
    (once : ∀ i < b.length, ∀ j < b.length, storageOf s (a + i) = storageOf s (a + j) → i = j) : besideMemory u = besideMemory s ∧
    readAs u gen (.dev a) b.length = b ∧ u.mem.wf = true ∧
    ∀ addr, (∀ i < b.length, storageOf s (a + i) ≠ addr) → u.mem.get addr = s.mem.get addr := by
  obtain ⟨beside, mem, keys⟩ := writeMem_effect n gen part (.dev a) b
  have beside := (besideMemory_of_aside left).trans (beside.trans (besideMemory_of_aside noted))
  have mem : u.mem = setAll s.mem (placedAt s (numbered b) (.dev a)) := by
    rw [← placedAt_congr (besideMemory_of_aside noted), ← aside_mem noted]
    exact (aside_mem left).trans mem
  have keys : u.memKeys = keysAfter s gen (.dev a) b.length :=
    (aside_memKeys left).trans (keys.trans (congrArg (fun x => keysAfter x gen (.dev a) b.length) noted :))
  refine ⟨beside, readAs_written wf beside mem keys once, mem ▸ setAll_wf wf _, fun addr apart => ?_⟩
  rw [mem]
  refine get_setAll_outside wf fun y hy => ?_
  obtain ⟨z, hz, rfl⟩ := List.mem_map.mp hy
  obtain ⟨low, -⟩ := List.getElem?_eq_some_iff.mp (mem_numbered.mp hz)
  exact apart z.1 low

/-! ## One lane's atomic on device memory -/

section
variable (s : State) (v : View) (t : Atom) (lane c x : Nat) (f : Frag)

/-- What an atomic leaves in the clocks and races before its write. -/
def atomNoted (old : Nat) : State :=
  let agent := agentOf s v lane
  let s1 := raceCheck s v.unit agent v.pc.toNat (lidOf s v.unit) lane 4 f.va f.place.key f.len (f.ord == 2)
  let writes := !(t.op = 7 && old != c)
  let so := if f.ord = 1 then soScope f.place else 0
  let isAcq := t.ao = 1 || t.ao = 3 || f.ord = 1
  let isRel := writes && (t.ao = 2 || t.ao = 3 || f.ord = 1)
  let acqScope := Nat.max so (if t.ao = 1 || t.ao = 3 then t.scope else 0)
  let relScope := Nat.max so (if t.ao = 2 || t.ao = 3 then t.scope else 0)
  if !clocksOn s v.unit then s1
  else
    let a1 := if isAcq then acquireWords s1 v lane acqScope f.place f.len else s1
    let a2 := clockRead a1 v.unit agent f.place.key f.len
    let a3 := if writes then (wordsIn f.place.key f.len).foldl (fun b w => carryRels b w (obFence agent)) a2 else a2
    if isRel then releaseWords a3 v lane relScope f.place f.len true false else a3

theorem aside_atomNoted (old : Nat) : aside (atomNoted s v t lane c f old) = aside s := by
  unfold atomNoted
  dsimp only
  split
  · exact aside_raceCheck ..
  · generalize hs3 : (if (!(decide (t.op = 7) && old != c)) = true then _ else _ : State) = s3
    have read : aside s3 = aside s := by
      rw [← hs3]
      split
      · rw [foldl_same (view := aside) fun _ _ => aside_carryRels ..]
        split <;> simp
      · split <;> simp
    split
    · rw [aside_releaseWords, read]
    · exact read

/-- Whether a compare-and-swap finds another value than the one it compares with. -/
def swapFails (old : Nat) : Bool := decide (t.op = 7) && old != c

/-- One lane's atomic where its item is not poisoned: the old bytes, and the state with the new ones or, of a compare-and-swap that fails,
with the line used. -/
theorem atomFrag_eq (sound : comesPoisoned s f = false) :
    let old := natOf (readAs s (unitGen s v.unit) f.place f.len)
    ∃ u, aside u = aside (if swapFails t c old then atomNoted s v t lane c f old
        else writeMem (atomNoted s v t lane c f old) (unitGen s v.unit) (unitPart s v.unit) f.place
          (bytesOf f.len (atomNew t.op t.flt t.wide old c x))) ∧
      atomFrag s v t lane c x f = (u, readAs s (unitGen s v.unit) f.place f.len, false) := by
  intro old
  generalize hs3 : (if !swapFails t c old then
    writeMem (atomNoted s v t lane c f old) (unitGen s v.unit) (unitPart s v.unit) f.place (bytesOf f.len (atomNew t.op t.flt t.wide old c x))
    else touchPlace (atomNoted s v t lane c f old) (unitGen s v.unit) (unitPart s v.unit) f.place 0) = s3
  have acts : ∃ (rel : Bool) (scope : Nat), atomFrag s v t lane c x f =
      (if rel then recordRelease s3 (partyOf s v 0 [lane]) f.place f.len scope else s3, readAs s (unitGen s v.unit) f.place f.len, false) := by
    rw [← hs3]
    unfold atomFrag
    dsimp only
    rw [if_neg (by simp [sound])]
    exact ⟨_, _, rfl⟩
  obtain ⟨rel, scope, acts⟩ := acts
  refine ⟨_, ?_, acts⟩
  have told : aside (if rel then recordRelease s3 (partyOf s v 0 [lane]) f.place f.len scope else s3) = aside s3 := by
    cases rel
    · rfl
    · exact aside_recordRelease ..
  rw [told, ← hs3]
  cases swapFails t c old
  · rfl
  · exact aside_touchPlace ..

end

/-! ## New items -/

theorem toInt_ofNat_eq_sx (w v : Nat) (h : 0 < w) : (BitVec.ofNat w v).toInt = sx w v := by
  have half : 2 ^ w = 2 * 2 ^ (w - 1) := by rw [← Nat.pow_succ']; congr 1; omega
  rw [BitVec.toInt_eq_toNat_cond, BitVec.toNat_ofNat, sx]
  by_cases low : 2 ^ (w - 1) ≤ v % 2 ^ w
  · rw [if_neg (by omega), if_pos low]
  · rw [if_pos (by omega), if_neg low]

/-- The smaller and the larger of two items as signed integers of their width. -/
theorem toInt_atomNew_min_max (wide : Bool) (old c x : Nat) :
    let num (y : Nat) : Int := (BitVec.ofNat (if wide then 64 else 32) y).toInt
    num (atomNew 1 false wide old c x) = min (num old) (num x) ∧ num (atomNew 2 false wide old c x) = max (num old) (num x) := by
  have width : 0 < if wide then 64 else 32 := by split <;> decide
  simp only [atomNew, Bool.false_eq_true, if_false, ← toInt_ofNat_eq_sx _ _ width]
  by_cases order : (BitVec.ofNat (if wide then 64 else 32) old).toInt ≤ (BitVec.ofNat (if wide then 64 else 32) x).toInt
  · simp only [if_pos order]
    exact ⟨(min_eq_left order).symm, (max_eq_right order).symm⟩
  · simp only [if_neg order]
    exact ⟨(min_eq_right (le_of_not_ge order)).symm, (max_eq_left (le_of_not_ge order)).symm⟩

/-- Settles O30: the new item by its operation; the part reads its old bytes and writes the new ones in their place, or, a
compare-and-swap that fails, nothing. -/
theorem atomicResults : Obligations.AtomicResults := by
  constructor
  · intro wide old c x n _ _ _ num
    obtain ⟨low, high⟩ := toInt_atomNew_min_max wide old c x
    exact ⟨rfl, low, high, fun i => ⟨Nat.testBit_and .., Nat.testBit_or .., Nat.testBit_xor ..⟩, rfl, rfl⟩
  · intro s v t lane va a ord sound wf op n once operands r old new
    have clean : comesPoisoned s ⟨0, 0, va, n, .dev a, ord⟩ = false := by simp [comesPoisoned, poisonedPlace, sound]
    obtain ⟨u, left, acts⟩ := atomFrag_eq s v t lane operands.1 operands.2 ⟨0, 0, va, n, .dev a, ord⟩ clean
    have noted := aside_atomNoted s v t lane operands.1 ⟨0, 0, va, n, .dev a, ord⟩ (natOf old)
    have result : r = (u, old, false) := acts
    have long : old.length = n := readAs_length ..
    rw [result]
    refine ⟨rfl, rfl, ?_⟩
    change aside u = aside (if swapFails t operands.1 (natOf old) then _ else _) at left
    cases fails : swapFails t operands.1 (natOf old) with
    | true =>
      rw [fails, if_pos rfl, noted] at left
      have kept : new = natOf old := by
        obtain ⟨seven, differs⟩ : t.op = 7 ∧ natOf old ≠ operands.1 := by simpa [swapFails] using fails
        simp only [new, atomNew, seven, if_neg differs]
      rw [kept, ← long, bytesOf_natOf, long, aside_mem left]
      exact ⟨readAs_aside left .., wf, fun _ _ => rfl⟩
    | false =>
      rw [fails, if_neg (by decide)] at left
      have bytes : (bytesOf n new).length = n := bytesOf_length ..
      obtain ⟨-, reads, wf', outside⟩ := writtenAt_effect wf left noted (by rw [bytes]; exact once)
      rw [bytes] at reads outside
      exact ⟨reads, wf', outside⟩
end Sys2Proof
end

section
/-! The tests of accesses (R415, R417, R418), and O24, O26, O27 and O29. -/

namespace Sys2Proof
open Machine

/-! ## Addresses and sizes (R269, R272) -/

theorem addrM_eq (s : State) (v : View) (b a l : Nat) : addrM s v b a l = Safety.addr s v b a l := by
  have signed : (wrap 64 (sx 32 (readX s v l a).toNat) : Int) = (readX s v l a).toInt % 2 ^ 64 := by
    rw [wrap, ← toInt_ofNat_eq_sx 32 _ (by decide), BitVec.ofNat_toNat, BitVec.setWidth_eq]
    exact Int.toNat_of_nonneg (Int.emod_nonneg _ (by decide))
  have whole : ((addrM s v b a l : Nat) : Int) = (((readK s v.unit b).toNat : Int) + (readX s v l a).toInt) % 2 ^ 64 := by
    rw [addrM, Int.natCast_emod, Int.natCast_add, signed]
    exact Int.add_emod_emod ..
  rw [Safety.addr, ← whole, Int.toNat_natCast]

theorem sizeBytes_eq (z : BitVec 3) : sizeBytes z.toNat = Safety.sizeOf z := by
  revert z
  decide

/-! ## What the tests answer -/

/-- The pieces of some accesses, as the tests see them. -/
def piecesTested (s : State) (v : View) (accs : Accs) (r w : Bool) : List (Nat × Nat × Nat × Nat × Piece) :=
  accs.flatMap fun x => (piecesOf s v x.2.1 x.2.2 r w).map fun p => (x.1, x.2.1, p.1, p.2.1, p.2.2)

theorem mem_piecesTested {s : State} {v : View} {accs : Accs} {r w : Bool} {y : Nat × Nat × Nat × Nat × Piece} :
    y ∈ piecesTested s v accs r w ↔ ∃ x ∈ accs, ∃ p ∈ piecesOf s v x.2.1 x.2.2 r w, y = (x.1, x.2.1, p.1, p.2.1, p.2.2) := by
  simp only [piecesTested, List.mem_flatMap, List.mem_map]
  constructor
  · rintro ⟨x, hx, p, hp, rfl⟩
    exact ⟨x, hx, p, hp, rfl⟩
  · rintro ⟨x, hx, p, hp, rfl⟩
    exact ⟨x, hx, p, hp, rfl⟩

/-- The accesses, as lane and address, with a piece of some kind. -/
def lanesMeeting (s : State) (v : View) (accs : Accs) (r w : Bool) (f : Nat × Nat × Nat × Nat × Piece → Bool) : List (Nat × Nat) :=
  (accs.filter fun x => (piecesTested s v accs r w).any fun y => decide (y.1 = x.1) && decide (y.2.1 = x.2.1) && f y).map fun x => (x.1, x.2.1)

theorem lanesMeeting_none {s : State} {v : View} {accs : Accs} {r w : Bool} {f : Nat × Nat × Nat × Nat × Piece → Bool}
    (h : ∀ y ∈ piecesTested s v accs r w, f y = false) : lanesMeeting s v accs r w f = [] := by
  rw [lanesMeeting, List.filter_eq_nil_iff.mpr, List.map_nil]
  intro x _ met
  obtain ⟨y, hy, met⟩ := List.any_eq_true.mp met
  simp [h y hy] at met

section
variable {s : State} {v : View} {accs : Accs} {r w own : Bool}

theorem testAccess_behind (behind : behindStore s v accs w = true) : testAccess s v accs r w own = .wait s := by
  rw [testAccess, if_pos behind]

/-- Every translation is there and none is awaited. -/
theorem testAccess_known (free : behindStore s v accs w = false)
    (known : ∀ y ∈ piecesTested s v accs r w, y.2.2.2.2 ≠ .absent ∧ y.2.2.2.2 ≠ .waiting) :
    testAccess s v accs r w own =
      let hits (code : Nat) := lanesMeeting s v accs r w fun y => decide (y.2.2.2.2 = .cause code)
      let owned (y : Nat × Nat × Nat × Nat × Piece) : Bool := match y.2.2.2.2 with | .mem .. => ownsRange s v.unit y.2.2.1 y.2.2.2.1 | _ => true
      let ownHits := if own && isDeterm s v.unit then lanesMeeting s v accs r w fun y => !owned y else []
      match [causeTrap v cAccess (hits cAccess), causeTrap v cPage (hits cPage), causeTrap v cPerm (hits cPerm),
        causeTrap v cOwn ownHits].findSome? id with
      | some t => .trap (dropAnswers s v) t
      | none =>
        match dedup (((piecesTested s v accs r w).filter fun y => decide (y.2.2.2.2 = .park)).map fun y => y.2.2.1 / 65536 * 65536) with
        | [] => .ok
        | ps => .park (dedup (((piecesTested s v accs r w).filter fun y => decide (y.2.2.2.2 = .park)).map (·.1))) ps := by
  have none_ : ((piecesTested s v accs r w).filter fun y => decide (y.2.2.2.2 = .absent)) = [] :=
    List.filter_eq_nil_iff.mpr fun y hy => by simpa using (known y hy).1
  have still : ((piecesTested s v accs r w).any fun y => decide (y.2.2.2.2 = .waiting)) = false :=
    List.any_eq_false.mpr fun y hy => by simpa using (known y hy).2
  unfold testAccess
  rw [if_neg (by simp [free])]
  change (if !(dedup (((piecesTested s v accs r w).filter fun y => decide (y.2.2.2.2 = .absent)).map _)).isEmpty then _
    else if (piecesTested s v accs r w).any fun y => decide (y.2.2.2.2 = .waiting) then _ else _) = _
  rw [none_, still]
  rfl

/-- Accesses that reach their bytes, in ranges that a DETERM unit owns, meet nothing. -/
theorem testAccess_reaches (free : behindStore s v accs w = false) (reaches : Safety.reaches s v accs r w)
    (owns : own = true → isDeterm s v.unit = true → ∀ y ∈ piecesTested s v accs r w, (∃ q o n, y.2.2.2.2 = .mem q o n) →
      ownsRange s v.unit y.2.2.1 y.2.2.2.1 = true) : testAccess s v accs r w own = .ok := by
  have lies : ∀ y ∈ piecesTested s v accs r w, (∃ c a l, y.2.2.2.2 = .aper c a l) ∨ ∃ q o n, y.2.2.2.2 = .mem q o n := by
    intro y hy
    obtain ⟨x, hx, p, hp, rfl⟩ := mem_piecesTested.mp hy
    exact reaches x hx p hp
  have never (f : Piece → Bool) (aper : ∀ c a l, f (.aper c a l) = false) (mem : ∀ q o n, f (.mem q o n) = false) :
      ∀ y ∈ piecesTested s v accs r w, f y.2.2.2.2 = false := by
    intro y hy
    obtain ⟨c, a, l, place⟩ | ⟨q, o, n, place⟩ := lies y hy
    · rw [place, aper]
    · rw [place, mem]
  have noCause (code : Nat) : (lanesMeeting s v accs r w fun y => decide (y.2.2.2.2 = .cause code)) = [] :=
    lanesMeeting_none (never (fun p => decide (p = .cause code)) (fun _ _ _ => by rfl) (fun _ _ _ => by rfl))
  have noPark : ((piecesTested s v accs r w).filter fun y => decide (y.2.2.2.2 = .park)) = [] :=
    List.filter_eq_nil_iff.mpr fun y hy => by
      simpa using never (fun p => decide (p = .park)) (fun _ _ _ => by rfl) (fun _ _ _ => by rfl) y hy
  rw [testAccess_known free fun y hy => by
    obtain ⟨c, a, l, place⟩ | ⟨q, o, n, place⟩ := lies y hy <;> simp [place]]
  simp only [noCause, noPark]
  generalize hown : (if (own && isDeterm s v.unit) = true then _ else _ : List (Nat × Nat)) = ownHits
  have noOwn : ownHits = [] := by
    rw [← hown]
    split
    · next both =>
      obtain ⟨own_, det⟩ := Bool.and_eq_true_iff.mp both
      refine lanesMeeting_none fun y hy => ?_
      obtain ⟨c, a, l, place⟩ | ⟨q, o, n, place⟩ := lies y hy
      · simp [place]
      · simp [place, owns own_ det y hy ⟨q, o, n, place⟩]
    · rfl
  rw [noOwn]
  rfl

/-- Accesses of which some meet one cause and none another trap with every lane that meets it. -/
theorem testAccess_meets {code : Nat} (meets : Safety.Meets s v accs r w code) (hc : code = cAccess ∨ code = cPage ∨ code = cPerm) :
    ∃ t, causeTrap v code (lanesMeeting s v accs r w fun y => decide (y.2.2.2.2 = .cause code)) = some t ∧
      testAccess s v accs r w own = .trap (dropAnswers s v) t := by
  obtain ⟨free, ⟨x, hx, p, hp, found⟩, known, first⟩ := meets
  have others (other : Nat) (h : other ≠ code) : (lanesMeeting s v accs r w fun y => decide (y.2.2.2.2 = .cause other)) = [] := by
    refine lanesMeeting_none fun y hy => ?_
    obtain ⟨x, hx, p, hp, rfl⟩ := mem_piecesTested.mp hy
    simpa using fun same => h (first x hx p hp other same)
  have some_ : (lanesMeeting s v accs r w fun y => decide (y.2.2.2.2 = .cause code)) ≠ [] := by
    refine List.ne_nil_of_mem (a := (x.1, x.2.1)) (List.mem_map.mpr ⟨x, List.mem_filter.mpr ⟨hx, List.any_eq_true.mpr ?_⟩, rfl⟩)
    exact ⟨_, mem_piecesTested.mpr ⟨x, hx, p, hp, rfl⟩, by simp [found]⟩
  obtain ⟨⟨l, a⟩, rest, hits⟩ := List.exists_cons_of_ne_nil some_
  refine ⟨_, by rw [hits]; rfl, ?_⟩
  rw [testAccess_known free fun y hy => by
    obtain ⟨x, hx, p, hp, rfl⟩ := mem_piecesTested.mp hy
    exact known x hx p hp]
  rcases hc with rfl | rfl | rfl
  · simp only [hits]
    rfl
  · simp only [hits, others cAccess (by decide)]
    rfl
  · simp only [hits, others cAccess (by decide), others cPage (by decide)]
    rfl

/-! ## How an access closes -/

variable {act : State → View → Did}

theorem access_behind (behind : behindStore s v accs w = true) : access s v accs r w own act = .wait s (s.now + 1) := by
  rw [access, testAccess_behind behind]

theorem lowAccess_behind (behind : behindStore s v accs w = true) : lowAccess s v accs r w own act = .wait s (s.now + 1) := by
  rw [lowAccess, testAccess_behind behind]

theorem access_ok (h : testAccess s v accs r w own = .ok) : access s v accs r w own act = act s v := by
  rw [access, h]

theorem lowAccess_ok (h : testAccess s v accs r w own = .ok) : lowAccess s v accs r w own act = act s v := by
  rw [lowAccess, h]

theorem access_trap {t : State} {x : Trap} (h : testAccess s v accs r w own = .trap t x) :
    access s v accs r w own act = .left (trapNow t v x) := by
  rw [access, h]

end

/-- A read owns nothing. -/
theorem testAccess_reads {s : State} {v : View} {accs : Accs} {r w : Bool} (free : behindStore s v accs w = false)
    (reaches : Safety.reaches s v accs r w) : testAccess s v accs r w false = .ok :=
  testAccess_reaches free reaches fun no => by simp at no

/-! ## Loads -/

theorem alignK_none {s : State} {v : View} {a : BitVec 6} {n : Nat} (h : (readK s v.unit a.toNat).toNat % n = 0) : alignK s v a n = none := by
  simp [alignK, h]

theorem alignK_some {s : State} {v : View} {a : BitVec 6} {n : Nat} (h : (readK s v.unit a.toNat).toNat % n ≠ 0) :
    alignK s v a n = some (precise v cAlign 0 (readK s v.unit a.toNat).toNat) := by
  simp [alignK, h]

/-- Settles O24: the tests of the access answer before the request is made. -/
theorem loadsIssue : Obligations.LoadsIssue := by
  intro n z b a d k m o w s v lanes low one base goes
  refine ⟨fun h => ⟨fun behind => ?_, fun free reaches => ?_⟩, fun h => ⟨fun behind => ?_, fun free reaches => ?_⟩,
    fun h aligned => ⟨fun behind => ?_, fun free reaches => ?_⟩, fun h off => ?_⟩
  · refine (h.closes (i := .ld n z b a d w) rfl rfl rfl).trans ?_
    simp only [addrM_eq, sizeBytes_eq]
    rw [access_behind (by exact behind)]
    rfl
  · refine (h.closes (i := .ld n z b a d w) rfl rfl rfl).trans ?_
    simp only [addrM_eq, sizeBytes_eq]
    rw [access_ok (testAccess_reads (by exact free) (by exact reaches))]
    rfl
  · refine (h.closes (i := .ldk n z b a k w) rfl rfl rfl).trans ?_
    dsimp only
    rw [addrM_eq, sizeBytes_eq, lowAccess_behind (by exact behind)]
    rfl
  · refine (h.closes (i := .ldk n z b a k w) rfl rfl rfl).trans ?_
    dsimp only
    rw [addrM_eq, sizeBytes_eq, lowAccess_ok (testAccess_reads (by exact free) (by exact reaches))]
    rfl
  · refine (h.closes (i := .omld m o w) rfl (alignK_none aligned) rfl).trans ?_
    dsimp only
    rw [lowAccess_behind (by exact behind)]
    rfl
  · refine (h.closes (i := .omld m o w) rfl (alignK_none aligned) rfl).trans ?_
    dsimp only
    rw [lowAccess_ok (testAccess_reads (by exact free) (by exact reaches))]
    rfl
  · exact h.ownTraps (i := .omld m o w) rfl (alignK_some off)

/-! ## Stores -/

theorem words_length (f : Nat → Nat) (k : Nat) : ((List.range k).flatMap fun i => bytesOf 4 (f i)).length = 4 * k := by
  simp only [List.length_flatMap, bytesOf_length, List.map_const', List.sum_replicate, List.length_range, smul_eq_mul, Nat.mul_comm]

theorem sizeOf_le (z : BitVec 3) : Safety.sizeOf z ≤ 16 := by
  revert z
  decide

/-- The registers of a store give as many bytes as its size. -/
theorem regBytes_eq (s : State) (v : View) (z : BitVec 3) (d l : Nat) : regBytes s v z.toNat d l =
    ((List.range 4).flatMap fun i => bytesOf 4 (readX s v l (d + i)).toNat).take (Safety.sizeOf z) := by
  have size := sizeOf_le z
  simp only [regBytes, sizeBytes_eq]
  rw [show 4 = (Safety.sizeOf z + 3) / 4 + (4 - (Safety.sizeOf z + 3) / 4) by omega, List.range_add, List.flatMap_append,
    ← show 4 = (Safety.sizeOf z + 3) / 4 + (4 - (Safety.sizeOf z + 3) / 4) by omega]
  exact (List.take_append_of_le_length (by rw [words_length fun i => (readX s v l (d + i)).toNat]; omega)).symm

theorem storeBytes_length (s : State) (v : View) (z : BitVec 3) (d l : Nat) :
    (((List.range 4).flatMap fun i => bytesOf 4 (readX s v l (d + i)).toNat).take (Safety.sizeOf z)).length = Safety.sizeOf z := by
  rw [List.length_take, words_length fun i => (readX s v l (d + i)).toNat]
  exact Nat.min_eq_left (sizeOf_le z)

/-- The lanes whose own access meets a cause. -/
theorem lanesMeeting_cause (s : State) (v : View) (ls : List Nat) (at_ len : Nat → Nat) (r w : Bool) (code : Nat) :
    (lanesMeeting s v (ls.map fun l => (l, at_ l, len l)) r w fun y => decide (y.2.2.2.2 = .cause code)) =
      (ls.filter fun l => (piecesOf s v (at_ l) (len l) r w).any fun p => decide (p.2.2 = .cause code)).map fun l => (l, at_ l) := by
  rw [lanesMeeting, List.filter_map, List.map_map]
  refine congrArg (List.map _) (List.filter_congr fun l hl => ?_)
  rw [Bool.eq_iff_iff]
  simp only [Function.comp, List.any_eq_true, mem_piecesTested, Bool.and_eq_true, decide_eq_true_eq]
  constructor
  · rintro ⟨y, ⟨x, hx, p, hp, rfl⟩, ⟨lane, -⟩, met⟩
    obtain ⟨k, -, rfl⟩ := List.mem_map.mp hx
    obtain rfl : k = l := lane
    exact ⟨p, hp, met⟩
  · rintro ⟨p, hp, met⟩
    exact ⟨_, ⟨_, List.mem_map_of_mem hl, p, hp, rfl⟩, ⟨rfl, rfl⟩, met⟩

/-- An access of every lane that meets a cause. -/
theorem testAccess_lanes {s : State} {v : View} {at_ len : Nat → Nat} {r w own : Bool} {code : Nat}
    (meets : Safety.Meets s v (v.act.map fun l => (l, at_ l, len l)) r w code) (hc : code = cAccess ∨ code = cPage ∨ code = cPerm) :
    let hit := v.act.filter fun l => (piecesOf s v (at_ l) (len l) r w).any fun p => decide (p.2.2 = .cause code)
    testAccess s v (v.act.map fun l => (l, at_ l, len l)) r w own =
      .trap (dropAnswers s v) (precise v code (maskOf hit).toNat (at_ (hit.headD 0))) := by
  intro hit
  obtain ⟨t, named, trap⟩ := testAccess_meets (own := own) meets hc
  rw [trap]
  rw [lanesMeeting_cause] at named
  cases lanes : hit with
  | nil =>
    rw [show (v.act.filter fun l => _) = hit from rfl, lanes] at named
    cases named
  | cons l rest =>
    rw [show (v.act.filter fun l => _) = hit from rfl, lanes] at named
    simp only [List.map_cons, causeTrap, Option.some.injEq] at named
    simp only [← named, List.map_map, List.headD_cons, Function.comp_def, List.map_id']

section
variable {s : State} {v : View} {maj : Nat} {items : View → List (Nat × Nat × List Byte)} {bad : List Nat} {kind : Nat} {slot : Option Nat}

/-- Lanes, addresses and lengths of the items of a store. -/
def itemAccs (items : List (Nat × Nat × List Byte)) : Accs := items.map fun x => (x.1, x.2.1, x.2.2.length)

theorem storeItems_behind (behind : behindStore s v (itemAccs (items v)) true = true) :
    storeItems s v maj items bad kind slot = .wait s (s.now + 1) := by
  unfold storeItems
  dsimp only
  split
  · exact lowAccess_behind behind
  · exact access_behind behind

/-- A store whose tests pass is held in a region, waits as a release, or is made. -/
theorem storeItems_ok (h : testAccess s v (itemAccs (items v)) false true (!(regionOf s v.gid).isSome) = .ok) :
    storeItems s v maj items bad kind slot =
      if (regionOf s v.gid).isSome then .done (holdStore (progress s v) v maj (items v) bad slot) .next 0
      else if anySo (fragsOf s v (itemAccs (items v))) && releaseWaits s v then .wait s (s.now + 1)
      else .done (doStore (progress s v) v (items v) bad kind slot) .next 0 := by
  unfold storeItems
  dsimp only
  split
  · exact lowAccess_ok h
  · exact access_ok h

theorem storeItems_trap {t : State} {x : Trap} (hm : maj ≠ 0x26)
    (h : testAccess s v (itemAccs (items v)) false true (!(regionOf s v.gid).isSome) = .trap t x) :
    storeItems s v maj items bad kind slot = .left (trapNow t v x) := by
  unfold storeItems
  rw [if_neg hm]
  exact access_trap h

end

theorem testAccess_owned {s : State} {v : View} {accs : Accs} {r own : Bool} (free : behindStore s v accs true = false)
    (reaches : Safety.reaches s v accs r true) (owns : own = true → Safety.ownsAll s v accs r) : testAccess s v accs r true own = .ok := by
  refine testAccess_reaches free reaches fun own_ det y hy mem => ?_
  obtain ⟨x, hx, p, hp, rfl⟩ := mem_piecesTested.mp hy
  exact owns own_ det x hx p hp mem

theorem anySo_iff (fs : List Frag) : anySo fs = true ↔ ∃ f ∈ fs, f.ord = 1 := by
  simp [anySo]

/-- A store that issues with some items waits, is held or is made, as O27 says. -/
theorem storeItems_goes {i : Instr} {s : State} {v : View} {maj : Nat} {made : View → List (Nat × Nat × List Byte)}
    {bad : List Nat} {kind : Nat} {slot : Option Nat} (close : exec i s = .next (issued i s v (storeItems s v maj made bad kind slot)))
    {items : List (Nat × Nat × List Byte)} (same : made v = items) :
    let waits : Prop := regionOf s v.gid = none ∧ (∃ f ∈ fragsOf s v (itemAccs items), f.ord = 1) ∧ releaseWaits s v = true
    (behindStore s v (itemAccs items) true = true → Safety.Waits i s v) ∧
      (behindStore s v (itemAccs items) true = false → Safety.reaches s v (itemAccs items) false true →
        (regionOf s v.gid = none → Safety.ownsAll s v (itemAccs items) false) →
        (waits → Safety.Waits i s v) ∧ (¬ waits → Safety.Goes i s v
          (if (regionOf s v.gid).isSome then holdStore (progress s v) v maj items bad slot
            else doStore (progress s v) v items bad kind slot) .next 0)) := by
  subst same
  intro waits
  refine ⟨fun behind => ?_, fun free reaches owns => ?_⟩
  · rw [storeItems_behind behind] at close
    exact close
  · rw [storeItems_ok (testAccess_owned free reaches fun own => owns (by simpa using own))] at close
    constructor
    · rintro ⟨none_, so, late⟩
      rw [none_, (anySo_iff _).mpr so, late] at close
      exact close
    · intro goes
      cases inside : regionOf s v.gid with
      | some r =>
        rw [inside] at close
        exact close
      | none =>
        have on : ¬ (anySo (fragsOf s v (itemAccs (made v))) && releaseWaits s v) = true := fun both =>
          goes ⟨inside, (anySo_iff _).mp (Bool.and_eq_true_iff.mp both).1, (Bool.and_eq_true_iff.mp both).2⟩
        rw [inside, if_neg (by simp), if_neg on] at close
        exact close

theorem sizeRegs_eq (z : BitVec 3) : sizeRegs z = if z = 5 then 2 else if z = 6 then 4 else 1 := by
  revert z
  decide

theorem itemAccs_lanes (ls : List Nat) (at_ : Nat → Nat) (bytes : Nat → List Byte) (n : Nat) (h : ∀ l, (bytes l).length = n) :
    itemAccs (ls.map fun l => (l, at_ l, bytes l)) = ls.map fun l => (l, at_ l, n) := by
  simp only [itemAccs, List.map_map, Function.comp_def, h]

/-- Settles O26: the first cause in the order of R415 that some lane meets is the trap, with the lanes that meet it. -/
theorem accessTraps : Obligations.AccessTraps := by
  intro n z b a d w s v code hc accs hit trap
  constructor
  · intro h meets
    refine (h.closes (i := .ld n z b a d w) rfl rfl rfl).trans ?_
    simp only [addrM_eq, sizeBytes_eq]
    rw [access_trap (testAccess_lanes (by exact meets) (by exact hc))]
    rfl
  · intro h meets
    refine (h.closes (i := .st n z b a d w) rfl rfl rfl).trans ?_
    have lanes := itemAccs_lanes v.act (fun l => addrM s v b.toNat a.toNat l) (fun l => regBytes s v z.toNat d.toNat l) (Safety.sizeOf z)
      fun l => by rw [regBytes_eq, storeBytes_length]
    simp only [addrM_eq] at lanes
    simp only [addrM_eq]
    rw [storeItems_trap (by decide) (by rw [lanes]; exact testAccess_lanes (by exact meets) (by exact hc))]
    rfl

/-- Settles O27: a store that its accesses let through waits as a release, is held in a region or is made. -/
theorem storesIssue : Obligations.StoresIssue := by
  intro n z b a d k c w s v bytes lanes low one zeros bad goes
  refine ⟨fun h => ?_, fun h => ?_, fun h => ?_⟩
  · have close := h.closes (i := .st n z b a d w) rfl rfl rfl
    simp only [addrM_eq, regBytes_eq, sizeRegs_eq] at close
    exact storeItems_goes close rfl
  · have close := h.closes (i := .stk n z b a k w) rfl rfl rfl
    simp only [addrM_eq, sizeBytes_eq] at close
    exact storeItems_goes close rfl
  · exact storeItems_goes (h.closes (i := .dsc c a w) rfl rfl rfl) rfl

/-! ## Atomics -/

section
variable {s : State} {v : View} {t : Atom}

/-- The accesses of an atomic: the item of each lane at its address pair. -/
def atomAccs (s : State) (v : View) (t : Atom) : Accs := v.act.map fun l => (l, readX2 s v l t.a, if t.wide then 8 else 4)

/-- The lanes whose address is not aligned to `n` bytes. -/
def offLanes (s : State) (v : View) (a n : Nat) : List Nat := v.act.filter fun l => decide (readX2 s v l a % n ≠ 0)

theorem alignTrap_lanes (a n len : Nat) : alignTrap v (v.act.map fun l => (l, readX2 s v l a, len)) n =
    causeTrap v cAlign ((offLanes s v a n).map fun l => (l, readX2 s v l a)) := by
  rw [alignTrap, offLanes, List.filter_map, List.map_map]
  congr 2
  exact List.filter_congr fun l _ => by simp [Function.comp, bne]; rfl

theorem alignTrap_none {a n len : Nat} (h : offLanes s v a n = []) : alignTrap v (v.act.map fun l => (l, readX2 s v l a, len)) n = none := by
  rw [alignTrap_lanes, h]
  rfl

theorem alignTrap_some {a n len : Nat} (h : offLanes s v a n ≠ []) : alignTrap v (v.act.map fun l => (l, readX2 s v l a, len)) n =
    some (precise v cAlign (maskOf (offLanes s v a n)).toNat (readX2 s v ((offLanes s v a n).headD 0) a)) := by
  obtain ⟨l, rest, lanes⟩ := List.exists_cons_of_ne_nil h
  rw [alignTrap_lanes, lanes]
  simp [causeTrap, Function.comp_def]

/-- Whether host memory carries the operation of an atomic (R418). -/
def hostCarries (t : Atom) : Bool := !t.flt && (t.op = 0 || t.op = 6 || t.op = 7)

/-- Some part of an access lies in host memory. -/
def meetsHost (s : State) (v : View) (accs : Accs) : Prop :=
  ∃ y ∈ accs, ∃ p ∈ piecesOf s v y.2.1 y.2.2 true true, ∃ q h r m, p.2.2 = .mem (.host q h) r m

theorem mem_hostAtomics {accs : Accs} {x : Nat × Nat} : x ∈ hostAtomics s v t accs ↔ hostCarries t = false ∧
    ∃ y ∈ accs, (∃ p ∈ piecesOf s v y.2.1 y.2.2 true true, ∃ q h r m, p.2.2 = .mem (.host q h) r m) ∧ x = (y.1, y.2.1) := by
  unfold hostAtomics
  split
  · next carries => simp [hostCarries, carries]
  · next carries =>
    have refused : hostCarries t = false := Bool.not_eq_true _ |>.mp carries
    rw [refused]
    simp only [List.mem_filterMap, true_and]
    refine exists_congr fun y => and_congr_right fun _ => ?_
    obtain ⟨lane, va, n⟩ := y
    simp only [Option.ite_none_right_eq_some, Option.some.injEq, List.any_eq_true]
    refine and_congr ?_ eq_comm
    refine exists_congr fun p => and_congr_right fun _ => ?_
    constructor
    · intro hit
      split at hit
      · next q h r m place => exact ⟨q, h, r, m, place⟩
      · cases hit
    · rintro ⟨q, h, r, m, place⟩
      rw [place]

/-- The atomic comes to issue again: behind an access of its threads, or as a release behind their stores. -/
def atomWaits (s : State) (v : View) (t : Atom) : Prop := behindStore s v (atomAccs s v t) true = true ∨
  releaseWaits s v = true ∧ (t.ao = 2 ∨ t.ao = 3 ∨ ∃ f ∈ fragsOf s v (atomAccs s v t), f.ord = 1)

theorem releases_iff : ((t.ao = 2 || t.ao = 3 || anySo (fragsOf s v (atomAccs s v t))) && releaseWaits s v) = true ↔
    releaseWaits s v = true ∧ (t.ao = 2 ∨ t.ao = 3 ∨ ∃ f ∈ fragsOf s v (atomAccs s v t), f.ord = 1) := by
  rw [Bool.and_eq_true_iff, Bool.or_eq_true_iff, Bool.or_eq_true_iff, anySo_iff, decide_eq_true_iff, decide_eq_true_iff, or_assoc, and_comm]

theorem atomic_misaligned {n : Nat} (hn : n = if t.wide then 8 else 4) (off : offLanes s v t.a n ≠ []) : atomic t s v =
    .trap (precise v cAlign (maskOf (offLanes s v t.a n)).toNat (readX2 s v ((offLanes s v t.a n).headD 0) t.a)) := by
  subst hn
  have trap := alignTrap_some (len := if t.wide then 8 else 4) off
  unfold atomic
  dsimp only
  rw [show alignTrap v (v.act.map fun x => (x, addrPair s v t.a x, if t.wide then 8 else 4)) _ = _ from trap]

/-- An atomic whose accesses let it through: it waits, or acts unless host memory does not carry it. -/
theorem atomic_cases (aligned : offLanes s v t.a (if t.wide then 8 else 4) = []) (reaches : Safety.reaches s v (atomAccs s v t) true true) :
    (atomWaits s v t → atomic t s v = .wait s (s.now + 1)) ∧
    (¬ atomWaits s v t → hostAtomics s v t (atomAccs s v t) = [] →
      atomic t s v = .done (doAtomic (progress s v) v t (atomAccs s v t)) .next 0) ∧
    (¬ atomWaits s v t → hostAtomics s v t (atomAccs s v t) ≠ [] → ∃ lanes addr, atomic t s v = .trap (precise v cAccess lanes addr)) := by
  have ok (free : behindStore s v (atomAccs s v t) true = false) := testAccess_reads free reaches
  have acts : alignTrap v (v.act.map fun l => (l, addrPair s v t.a l, if t.wide then 8 else 4)) (if t.wide then 8 else 4) = none :=
    alignTrap_none aligned
  unfold atomic
  dsimp only
  rw [acts]
  generalize hgo : access s v _ true true false _ = go
  have waiting (waits : atomWaits s v t) : go = .wait s (s.now + 1) := by
    rw [← hgo]
    cases behind : behindStore s v (atomAccs s v t) true with
    | true => exact access_behind behind
    | false =>
      have late := waits.resolve_left (by simp [behind])
      exact (access_ok (ok behind)).trans (if_pos (releases_iff.mpr late))
  have acting (goes : ¬ atomWaits s v t) : go = .done (doAtomic (progress s v) v t (atomAccs s v t)) .next 0 := by
    rw [← hgo]
    have free := Bool.not_eq_true _ |>.mp fun behind => goes (.inl behind)
    exact (access_ok (ok free)).trans (if_neg fun late => goes (.inr (releases_iff.mp late)))
  refine ⟨fun waits => ?_, fun goes none_ => ?_, fun goes some_ => ?_⟩
  · rw [waiting waits]
    exact ite_self _
  · rw [acting goes]
    exact if_pos (List.isEmpty_iff.mpr none_)
  · rw [acting goes]
    obtain ⟨x, rest, host⟩ := List.exists_cons_of_ne_nil some_
    have here : x ∈ hostAtomics s v t (atomAccs s v t) := by simp [host]
    obtain ⟨-, y, hy, -, rfl⟩ := mem_hostAtomics.mp here
    have asks : ¬ (hostAtomics s v t (v.act.map fun x => (x, addrPair s v t.a x, if t.wide then 8 else 4))).isEmpty = true := by
      show ¬ (hostAtomics s v t (atomAccs s v t)).isEmpty = true
      simp [host]
    dsimp only
    rw [if_neg asks]
    generalize hl : (List.filterMap _ _ : List (Nat × Nat)) = lanes
    have met : (y.1, y.2.1) ∈ lanes := by
      rw [← hl]
      refine List.mem_filterMap.mpr ⟨y, hy, if_pos ?_⟩
      exact List.contains_iff_mem.mpr (List.mem_append_left _ here)
    obtain ⟨z, others, named⟩ := List.exists_cons_of_ne_nil (List.ne_nil_of_mem met)
    rw [named]
    exact ⟨_, _, rfl⟩

end

/-- What O29 says of an atomic that issues. -/
theorem atomic_goes {i : Instr} {s : State} {v : View} {t : Atom} (close : exec i s = .next (issued i s v (atomic t s v))) {carried : Bool}
    (hc : hostCarries t = carried) :
    let off := offLanes s v t.a (if t.wide then 8 else 4)
    let accs := atomAccs s v t
    (off = [] → Safety.reaches s v accs true true → atomWaits s v t → Safety.Waits i s v) ∧
    (off = [] → Safety.reaches s v accs true true → ¬ atomWaits s v t → (carried = true ∨ ¬ meetsHost s v accs) →
      Safety.Goes i s v (doAtomic (progress s v) v t accs) .next 0) ∧
    (off ≠ [] → Safety.Traps i s v 0x14 (maskOf off).toNat (readX2 s v (off.headD 0) t.a)) ∧
    (off = [] → Safety.reaches s v accs true true → ¬ atomWaits s v t → carried = false → meetsHost s v accs →
      ∃ lanes addr, Safety.Traps i s v 0x13 lanes addr) := by
  subst hc
  refine ⟨fun aligned reaches waits => ?_, fun aligned reaches goes there => ?_, fun misaligned => ?_, fun aligned reaches goes refused host => ?_⟩
  · rw [(atomic_cases aligned reaches).1 waits] at close
    exact close
  · have none_ : hostAtomics s v t (atomAccs s v t) = [] := List.eq_nil_iff_forall_not_mem.mpr fun x hx => by
      obtain ⟨refused, y, hy, host, -⟩ := mem_hostAtomics.mp hx
      exact there.elim (fun carries => by simp [refused] at carries) fun none_ => none_ ⟨y, hy, host⟩
    rw [(atomic_cases aligned reaches).2.1 goes none_] at close
    exact close
  · rw [atomic_misaligned rfl misaligned] at close
    exact close
  · obtain ⟨y, hy, p, hp, place⟩ := host
    have some_ := List.ne_nil_of_mem (mem_hostAtomics.mpr ⟨refused, y, hy, ⟨p, hp, place⟩, rfl⟩)
    obtain ⟨lanes, addr, trap⟩ := (atomic_cases aligned reaches).2.2 goes some_
    rw [trap] at close
    exact ⟨lanes, addr, close⟩

theorem bit_eq (f : BitVec 1) : (f.toNat == 1) = (f == 1) := by
  revert f
  decide

theorem bit_cases (w : BitVec 1) : w = 0 ∨ w = 1 := by
  revert w
  decide

/-- Settles O29: an atomic waits, acts, or is ALIGN or ACCESS by its addresses. -/
theorem atomicsIssue : Obligations.AtomicsIssue := by
  intro f w c o a d x s v n accs off onHost waits goes
  have issues (i : Instr) (op : Nat) (flt : Bool) (carried : Bool)
      (hx : exec i s = issue i s noTrap (atomic ⟨op, flt, w.toNat == 1, o.toNat, c.toNat, a.toNat, d.toNat⟩))
      (hc : (!flt && (op = 0 || op = 6 || op = 7)) = carried) : goes i op flt carried := by
    intro h
    have close := h.closes hx rfl rfl
    rw [bit_eq] at close
    obtain rfl | rfl := bit_cases w
    · exact atomic_goes close hc
    · exact atomic_goes close hc
  refine ⟨issues _ _ _ _ (by rw [← bit_eq f]; rfl) (by revert f; decide), issues _ _ _ _ (by rw [← bit_eq f]; rfl) (by simp),
    issues _ _ _ _ (by rw [← bit_eq f]; rfl) (by simp), issues _ _ _ _ rfl rfl, issues _ _ _ _ rfl rfl, issues _ _ _ _ rfl rfl,
    issues _ _ _ _ rfl rfl, issues _ _ _ _ rfl rfl⟩

end Sys2Proof
end

section
/-! Fences (R277, Table 10.3), and O31. -/

namespace Sys2Proof
open Machine

/-! ## What a fence changes -/

/-- A state without its vector clocks, its scope records and the count that names those. -/
def clockless (s : State) : State := { s with fresh := 0, clocks := [], rels := [] }

theorem clockless_release (s : State) (u agent ob : Nat) (all : Bool) : clockless (release s u agent ob all) = clockless s := by
  obtain ⟨cl, same⟩ := butClocks_release s u agent ob all
  rw [same]
  rfl

theorem clockless_joinClock (s : State) (dst src : Nat) : clockless (joinClock s dst src) = clockless s := by
  obtain ⟨cl, same⟩ := butClocks_joinClock s dst src
  rw [same]
  rfl

theorem clockless_releaseAt (s : State) (u agent at_ scope : Nat) (by_ : Party) (all : Bool) :
    clockless (releaseAt s u agent at_ scope by_ all) = clockless s := by
  unfold releaseAt
  split
  · rfl
  · exact clockless_release ..

theorem clockless_dropped (s : State) (p : Rel → Bool) : clockless { s with rels := s.rels.filter p } = clockless s := rfl

theorem clockless_acquire (s : State) (u agent ob : Nat) (all : Bool) : clockless (acquire s u agent ob all) = clockless s := by
  unfold acquire
  split
  · rfl
  · dsimp only
    split
    · rw [clockless_joinClock, clockless_joinClock]
    · exact clockless_joinClock ..

theorem clockless_acquireOf (s : State) (v : View) (lane scope ob : Nat) (all : Bool) :
    clockless (acquireOf s v lane scope ob all) = clockless s := by
  unfold acquireOf acquireAt
  split
  · rfl
  · exact foldl_same (fun _ _ => clockless_acquire ..) _ s

/-- A fence changes the private L1, the clocks and the replays of loads of its group. -/
theorem clockless_doFence (k scope : Nat) (s : State) (v : View) : clockless (doFence k scope s v) =
    clockless (if k = 1 || v.kc then pinLoads s v else l1Acquire (pinLoads s v) v.core scope) := by
  unfold doFence
  dsimp only
  generalize (if (decide (k = 1) || v.kc) = true then _ else _ : State) = s1
  have acq (a : State) (ob : Nat → Nat) (all : Bool) :
      clockless (v.act.foldl (fun b l => acquireOf b v l scope (ob (agentOf b v l)) all) a) = clockless a :=
    foldl_same (fun _ _ => clockless_acquireOf ..) _ a
  have rel (a : State) (all : Bool) : clockless (v.act.foldl (fun b l =>
      releaseAt { b with rels := b.rels.filter fun r => !(r.at_ = obFence (agentOf b v l) && r.scope = scope) } v.unit (agentOf b v l)
        (obFence (agentOf b v l)) scope (partyOf s v 0 [l]) all) a) = clockless a :=
    foldl_same (view := clockless) (fun b l => by rw [clockless_releaseAt, clockless_dropped]) _ a
  have order (a : State) (ob : Nat) :
      clockless (v.act.foldl (fun b l => releaseAt b v.unit (agentOf b v l) ob scope (partyOf s v 0 [l]) true) a) = clockless a :=
    foldl_same (fun _ _ => clockless_releaseAt ..) _ a
  by_cases off : (!clocksOn s v.unit) = true
  · rw [if_pos off]
  · rw [if_neg off]
    split
    · exact acq _ obReads _
    · exact rel _ _
    · exact (rel _ _).trans (acq _ obReads _)
    · rw [order, acq _ fun _ => obSc (unitLaunchId s v.unit), rel, acq _ obReads]

theorem clockless_cores {s t : State} (h : clockless t = clockless s) : t.cores = s.cores := (congrArg State.cores h :)

theorem l1Acquire_data (s : State) (core scope : Nat) : { l1Acquire s core scope with cores := s.cores } = s ∧
    ∀ d, (coreOf (l1Acquire s core scope) d).store = (coreOf s d).store ∧ (coreOf (l1Acquire s core scope) d).warps = (coreOf s d).warps := by
  have emptied (a : State) (c : Nat) (h : { a with cores := s.cores } = s ∧
      ∀ d, (coreOf a d).store = (coreOf s d).store ∧ (coreOf a d).warps = (coreOf s d).warps) :
      { modCore a c (fun k => { k with l1 := [] }) with cores := s.cores } = s ∧
      ∀ d, (coreOf (modCore a c fun k => { k with l1 := [] }) d).store = (coreOf s d).store ∧
        (coreOf (modCore a c fun k => { k with l1 := [] }) d).warps = (coreOf s d).warps :=
    ⟨h.1, fun d => ⟨(coreOf_modCore_field (fun _ => by rfl) ..).trans (h.2 d).1, (coreOf_modCore_field (fun _ => by rfl) ..).trans (h.2 d).2⟩⟩
  have same : { s with cores := s.cores } = s ∧ ∀ d, (coreOf s d).store = (coreOf s d).store ∧ (coreOf s d).warps = (coreOf s d).warps :=
    ⟨rfl, fun _ => ⟨rfl, rfl⟩⟩
  unfold l1Acquire
  split
  · exact same
  · split
    · split
      · exact same
      · exact foldl_keeps (fun a i h => emptied a _ h) _ same
    · exact emptied s core same

/-! ## What a fence waits for -/

section
variable (s : State) (v : View)

/-- Whether a request is one that a fence of the group orders. -/
def ordersReq (x : Nat × Req) : Bool := (x.2.gid = v.gid && x.2.serial = v.serial) || madeBy s v x.2

theorem threadReqs_any (p : Req → Bool) : (threadReqs s v).any p = true ↔ ∃ x ∈ s.reqs.filter (ordersReq s v), p x.2 = true := by
  simp only [threadReqs, List.any_eq_true, List.mem_filterMap, List.mem_filter]
  constructor
  · rintro ⟨q, ⟨⟨i, r⟩, hx, here⟩, hp⟩
    obtain ⟨orders, same⟩ := Option.ite_none_right_eq_some.mp here
    obtain rfl : r = q := Option.some.inj same
    exact ⟨(i, r), ⟨hx, by simpa [ordersReq] using orders⟩, hp⟩
  · rintro ⟨x, ⟨hx, orders⟩, hp⟩
    exact ⟨x.2, ⟨x, hx, if_pos (by simpa [ordersReq] using orders)⟩, hp⟩

/-- Ranges of the unit that begin or end. -/
def settling : Prop := ∃ u, unitOf s v.unit = some u ∧ ∃ o ∈ u.own, s.now < o.from_ ∨ ∃ e, o.until_ = some e ∧ s.now < e

/-- Stores of committed regions that are still to be issued. -/
def heldBack : Prop := ∃ h ∈ s.toStore, h.gid = v.gid ∧ h.serial = v.serial

theorem settling_iff : ((unitOf s v.unit).map fun u => u.own.any fun o =>
    s.now < o.from_ || (match o.until_ with | some e => decide (s.now < e) | none => false)).getD false = true ↔ settling s v := by
  unfold settling
  cases unitOf s v.unit with
  | none => simp
  | some u =>
    simp only [Option.map_some, Option.getD_some, List.any_eq_true, Option.some.injEq, exists_eq_left']
    refine exists_congr fun o => and_congr_right fun _ => ?_
    cases o.until_ <;> simp

theorem heldBack_iff : (s.toStore.any fun h => h.gid = v.gid && h.serial = v.serial) = true ↔ heldBack s v := by
  simp [heldBack]

/-- The accesses of the threads that a fence of each kind waits for (Table 10.3). -/
theorem fenceWaits_iff : (fenceWaits 0 s v = true ↔ ∃ x ∈ s.reqs.filter (ordersReq s v), x.2.isLoad = true) ∧
    (fenceWaits 1 s v = true ↔
      ((∃ x ∈ s.reqs.filter (ordersReq s v), x.2.isStore = true ∧ x.2.un = false) ∨ heldBack s v) ∨ settling s v) ∧
    (fenceWaits 2 s v = true ↔ (∃ x ∈ s.reqs.filter (ordersReq s v), x.2.isLoad = true) ∨
      ((∃ x ∈ s.reqs.filter (ordersReq s v), x.2.isStore = true ∧ x.2.un = false) ∨ heldBack s v) ∨ settling s v) ∧
    (fenceWaits 3 s v = true ↔ (∃ x ∈ s.reqs.filter (ordersReq s v), x.2.isLoad = true ∨ x.2.isStore = true) ∨ heldBack s v ∨ settling s v) := by
  have stores : ((threadReqs s v).any fun q => q.isStore && !q.un) = true ↔
      ∃ x ∈ s.reqs.filter (ordersReq s v), x.2.isStore = true ∧ x.2.un = false := by
    rw [threadReqs_any]
    simp only [Bool.and_eq_true, Bool.not_eq_true']
  have all : ((threadReqs s v).any fun q => q.isLoad || q.isStore) = true ↔
      ∃ x ∈ s.reqs.filter (ordersReq s v), x.2.isLoad = true ∨ x.2.isStore = true := by
    rw [threadReqs_any]
    simp only [Bool.or_eq_true]
  have loads := threadReqs_any s v (·.isLoad)
  have or_iff {a b : Bool} : (a || b) = true ↔ a = true ∨ b = true := Bool.or_eq_true_iff
  have writes := or_iff.trans (or_congr stores (heldBack_iff s v))
  refine ⟨loads, ?_, ?_, ?_⟩
  · exact or_iff.trans (or_congr writes (settling_iff s v))
  · exact or_iff.trans ((or_congr (or_iff.trans (or_congr loads writes)) (settling_iff s v)).trans or_assoc)
  · refine or_iff.trans ((or_congr (or_iff.trans (or_congr all writes)) (settling_iff s v)).trans ?_)
    constructor
    · rintro ((any | some_ | held) | late)
      · exact .inl any
      · obtain ⟨x, hx, store, -⟩ := some_
        exact .inl ⟨x, hx, .inr store⟩
      · exact .inr (.inl held)
      · exact .inr (.inr late)
    · rintro (any | held | late)
      · exact .inl (.inl any)
      · exact .inl (.inr (.inr held))
      · exact .inr late

end

/-- A fence that issues waits for the accesses it orders, or acts. -/
theorem fence_issues {i : Instr} {s : State} {v : View} {k scope : Nat} (h : Safety.Issues i s v)
    (hx : exec i s = issuePre i s noTrap (fencePre k) (plain (doFence k scope))) :
    (fenceWaits k s v = true → Safety.Waits i s v) ∧ (¬ fenceWaits k s v = true → Safety.Goes i s v (doFence k scope s v) .next 0) := by
  constructor
  · intro waits
    exact h.preCloses hx rfl (by rw [fencePre, if_pos waits])
  · intro goes
    exact h.closes hx rfl (by rw [fencePre, if_neg goes])

/-- A fence leaves memory, and of a core all but its private L1, which one that acquires at cluster scope or wider empties. -/
theorem doFence_data (k scope : Nat) (s : State) (v : View) : let t := doFence k scope s v
    t.mem = s.mem ∧ t.hostMem = s.hostMem ∧ t.remoteMem = s.remoteMem ∧ t.units = s.units ∧
    (∀ d, (coreOf t d).store = (coreOf s d).store ∧ (coreOf t d).warps = (coreOf s d).warps) ∧
    (k = 1 ∨ v.kc = true ∨ scope < 3 → t.cores = s.cores) ∧
    (k ≠ 1 → v.kc = false → 3 ≤ scope → (coreOf s v.core).fused = false → (coreOf t v.core).l1 = []) := by
  intro t
  obtain ⟨s1, hs1, same⟩ : ∃ s1, (if k = 1 || v.kc then pinLoads s v else l1Acquire (pinLoads s v) v.core scope) = s1 ∧
      clockless t = clockless s1 := ⟨_, rfl, clockless_doFence k scope s v⟩
  have core (d : Nat) : coreOf t d = coreOf s1 d := by rw [coreOf, clockless_cores same, coreOf]
  obtain ⟨data, stores⟩ : { s1 with cores := s.cores } = pinLoads s v ∧
      ∀ d, (coreOf s1 d).store = (coreOf s d).store ∧ (coreOf s1 d).warps = (coreOf s d).warps := by
    rw [← hs1]
    split
    · exact ⟨rfl, fun d => ⟨rfl, rfl⟩⟩
    · exact l1Acquire_data (pinLoads s v) v.core scope
  refine ⟨?_, ?_, ?_, ?_, fun d => by rw [core d]; exact stores d, fun kept => ?_, fun acquires own wide private_ => ?_⟩
  · exact (congrArg State.mem same :).trans (congrArg State.mem data :)
  · exact (congrArg State.hostMem same :).trans (congrArg State.hostMem data :)
  · exact (congrArg State.remoteMem same :).trans (congrArg State.remoteMem data :)
  · exact (congrArg State.units same :).trans (congrArg State.units data :)
  · rw [clockless_cores same, ← hs1]
    split
    · rfl
    · next acquires =>
      obtain ⟨order, own⟩ : k ≠ 1 ∧ v.kc = false := by simpa using acquires
      have narrow : scope < 3 := (kept.resolve_left order).resolve_left (by simp [own])
      rw [l1Acquire, if_pos narrow]
      rfl
  · have private_ : ¬ (coreOf (pinLoads s v) v.core).fused = true := by rw [show (coreOf (pinLoads s v) v.core).fused = _ from private_]; simp
    rw [core, ← hs1, if_neg (by simp [acquires, own]), l1Acquire, if_neg (by omega), if_neg private_]
    simp

/-- Settles O31: a fence waits for what Table 10.3 names, and then changes the private L1 of its core alone. -/
theorem fences : Obligations.Fences := by
  intro c w s v reqs loads stores all held settles fence
  obtain ⟨acq, rel, ar, sc⟩ := fenceWaits_iff s v
  have issues (i : Instr) (k : Nat) (waits : Prop) (acquires : Bool) (hx : exec i s = issuePre i s noTrap (fencePre k) (plain (doFence k c.toNat)))
      (hw : fenceWaits k s v = true ↔ waits) (hk : acquires = !decide (k = 1)) : fence i waits acquires := by
    intro h
    obtain ⟨late, now⟩ := fence_issues h hx
    refine ⟨fun waiting => late (hw.mpr waiting), fun free => ⟨_, now fun waiting => free (hw.mp waiting), ?_⟩⟩
    obtain ⟨mem, host, remote, units, cores, kept, emptied⟩ := doFence_data k c.toNat s v
    refine ⟨mem, host, remote, units, cores, fun none_ => kept ?_, fun acquiring => emptied ?_⟩
    · exact none_.imp_left fun no => by simpa [hk] using no
    · simpa [hk] using acquiring
  exact ⟨issues _ 0 _ _ rfl acq rfl, issues _ 1 _ _ rfl rel rfl, issues _ 2 _ _ rfl ar rfl, issues _ 3 _ _ rfl sc rfl⟩
end Sys2Proof
end

section
/-! The hints and `lstu` (R115, R293, R295), and O32. -/

namespace Sys2Proof
open Machine

/-! ## What a hint changes -/

/-- A state without what hints change: walks, fills and requests with their steps, and the shared cache. -/
def unhinted (s : State) : State :=
  { s with fresh := 0, lost := [], walks := [], fills := [], reqs := [], agenda := [], l2 := [], syncLines := [] }

theorem unhinted_schedule (s : State) (due : Nat) (i : Instr) (subj : Subject) : unhinted (schedule s due i subj) = unhinted s := rfl
theorem unhinted_freshNat (s : State) : unhinted (freshNat s).2 = unhinted s := rfl

theorem unhinted_takeLost (s : State) : unhinted (takeLost s).2 = unhinted s := by
  unfold takeLost
  split <;> rfl

theorem unhinted_l2Touch (s : State) (gen part line dirty : Nat) : unhinted (l2Touch s gen part line dirty) = unhinted s := by
  unfold l2Touch
  dsimp only
  split <;> rfl

theorem unhinted_touchPlace (s : State) (gen part : Nat) (p : Place) (dirty : Nat) : unhinted (touchPlace s gen part p dirty) = unhinted s := by
  cases p with
  | dev a => exact unhinted_l2Touch ..
  | remote => rfl
  | host => rfl

theorem unhinted_startWalk (s : State) (g : Gid) (die gen va why len : Nat) : unhinted (startWalk s g die gen va why len) = unhinted s := by
  unfold startWalk
  split
  · rfl
  · exact (unhinted_takeLost _).trans (unhinted_freshNat s)

theorem unhinted_requestFill (s : State) (cache gen part va : Nat) (x : Xlate) : unhinted (requestFill s cache gen part va x) = unhinted s := by
  have drawn := (unhinted_freshNat (takeLost s).2).trans (unhinted_takeLost s)
  unfold requestFill
  dsimp only
  split
  · exact drawn
  · exact (unhinted_touchPlace ..).trans drawn

theorem unhinted_doPfi (a : Nat) (s : State) (v : View) : unhinted (doPfi a s v) = unhinted s := by
  unfold doPfi
  refine foldl_same (fun t va => ?_) _ s
  split
  · rfl
  · split
    · unfold hintFill
      split
      · rfl
      · exact unhinted_requestFill ..
    · exact unhinted_startWalk ..

theorem unhinted_sendReq (s : State) (q : Req) (i : Instr) (h : q.slot = none) : unhinted (sendReq s q i) = unhinted s := by
  simp only [sendReq, h]
  rfl

theorem unhinted_prefetch (s : State) (g : Gid) (x : Xlate) (core unit va n : Nat) : unhinted (prefetch s g x core unit va n) = unhinted s := by
  unfold prefetch
  dsimp only
  split
  · rfl
  · refine foldl_same (fun a b => ?_) _ s
    split
    · split
      · exact unhinted_touchPlace ..
      · exact (unhinted_sendReq _ _ _ rfl).trans (unhinted_touchPlace ..)
    · exact unhinted_touchPlace ..

theorem unhinted_writeBack (s : State) (x : Xlate) (va n : Nat) : unhinted (writeBack s x va n) = unhinted s := by
  unfold writeBack
  refine foldl_same (fun a b => ?_) _ s
  dsimp only
  split <;> rfl

theorem unhinted_doHint (why n a : Nat) (s : State) (v : View) : unhinted (doHint why n a s v) = unhinted s := by
  unfold doHint
  dsimp only
  refine foldl_same (fun t va => ?_) _ s
  refine foldl_same (fun t b => ?_) _ t
  split
  · unfold hintPiece
    split
    · exact unhinted_prefetch ..
    · exact unhinted_writeBack ..
  · split
    · rfl
    · exact unhinted_startWalk ..

/-- What keeps everything but what hints change keeps the data, the group and its registers. -/
theorem hinted_keeps {s t : State} (h : unhinted t = unhinted s) : Safety.sameData s t ∧ (∀ g, view t g = view s g) ∧
    (∀ g l, thrOf t g l = thrOf s g l) ∧ ∀ v l r, readX t v l r = readX s v l r := by
  have core (c : Nat) : coreOf t c = coreOf s c := (congrArg (fun x => coreOf x c) h :)
  refine ⟨⟨(congrArg State.mem h :), (congrArg State.hostMem h :), (congrArg State.remoteMem h :), (congrArg State.units h :),
    (congrArg State.launches h :), fun c => ?_⟩, fun g => (congrArg (fun x => view x g) h :), fun g l => (congrArg (fun x => thrOf x g l) h :),
    fun v l r => (congrArg (fun x => readX x v l r) h :)⟩
  rw [core c]
  exact ⟨rfl, rfl, rfl⟩

theorem hint_issues {i : Instr} {s : State} {v : View} {f : State → View → State} (h : Safety.Issues i s v)
    (hx : exec i s = issue i s noTrap (plain f)) (same : unhinted (f s v) = unhinted s) :
    ∃ t, Safety.Goes i s v t .next 0 ∧ Safety.sameData s t ∧ (∃ v', view t v.gid = some v' ∧ v'.pc = v.pc ∧ v'.run = v.run) ∧
      (∀ g l, thrOf t g l = thrOf s g l) ∧ ∀ l r, readX t v l r = readX s v l r := by
  obtain ⟨data, groups, threads, regs⟩ := hinted_keeps same
  exact ⟨_, h.closes hx rfl rfl, data, ⟨v, (groups v.gid).trans h.group, rfl, rfl⟩, threads, regs v⟩

/-! ## `lstu` -/

/-- A byte that every write to its address sets to 0, and some does, is 0. -/
theorem get_setAll_zero {m : Memory} (hm : m.wf = true) {l : List (Nat × Byte)} (zero : ∀ x ∈ l, x.2 = 0) {a : Nat}
    (set : ∃ x ∈ l, x.1 = a) : (setAll m l).get a = 0 := by
  induction l generalizing m with
  | nil => obtain ⟨x, hx, -⟩ := set; cases hx
  | cons x r ih =>
    by_cases later : ∃ y ∈ r, y.1 = a
    · exact ih (set_wf x.1 x.2 hm) (fun y hy => zero y (List.mem_cons_of_mem x hy)) later
    · obtain ⟨y, hy, here⟩ := set
      obtain rfl : y = x := (List.mem_cons.mp hy).resolve_right fun hy => later ⟨y, hy, here⟩
      have last := get_setAll_last hm (l := []) (k := r) (x := y) fun z hz same => later ⟨z, hz, same.trans here⟩
      rw [here] at last
      exact last.trans (zero y List.mem_cons_self)

/-- The sector of one lane's word in device memory: zero afterwards, and no other byte changed. -/
theorem lstuFrag_effect (s : State) (v : View) (lane va a ord : Nat) (wf : s.mem.wf = true) :
    let t := (lstuFrag s v lane ⟨0, 0, va, 4, .dev a, ord⟩).1
    (∀ i < 32, t.mem.get (storageOf s (a - va % 32 + i)) = 0) ∧
    ∀ addr, (∀ i < 32, storageOf s (a - va % 32 + i) ≠ addr) → t.mem.get addr = s.mem.get addr := by
  intro t
  have read : aside (clockRead s v.unit (agentOf s v lane) (Place.dev a).key 4) = aside s := aside_clockRead ..
  obtain ⟨-, mem⟩ := storeFrag_effect (clockRead s v.unit (agentOf s v lane) (Place.dev a).key 4) v lane 4
    ⟨0, 0, va - va % 32, 32, .dev (a - va % 32), ord⟩ (List.replicate 32 0) false
  rw [placedAt_congr (besideMemory_of_aside read), aside_mem read] at mem
  have acts : t = storeFrag (clockRead s v.unit (agentOf s v lane) (Place.dev a).key 4) v lane 4 ⟨0, 0, va - va % 32, 32, .dev (a - va % 32), ord⟩
    (List.replicate 32 0) false := rfl
  rw [← acts, placedAt] at mem
  have numbers (x : Nat × Byte) : x ∈ numbered (List.replicate 32 0) ↔ x.1 < 32 ∧ x.2 = 0 := by
    rw [mem_numbered, List.getElem?_replicate]
    simp only [Option.ite_none_right_eq_some, Option.some.injEq]
    exact and_congr_right fun _ => eq_comm
  rw [mem]
  constructor
  · intro i hi
    refine get_setAll_zero wf (fun x hx => ?_) ⟨_, List.mem_map_of_mem ((numbers (i, 0)).mpr ⟨hi, rfl⟩), rfl⟩
    obtain ⟨y, hy, rfl⟩ := List.mem_map.mp hx
    exact ((numbers y).mp hy).2
  · intro addr apart
    refine get_setAll_outside wf fun x hx => ?_
    obtain ⟨y, hy, rfl⟩ := List.mem_map.mp hx
    exact apart y.1 ((numbers y).mp hy).1

/-- Settles O32: the hints change only what `unhinted` leaves out; `lstu` is an access that reads its word and writes zeros. -/
theorem hintsAndLoadAndZero : Obligations.HintsAndLoadAndZero := by
  constructor
  · exact fun n a w s v => ⟨fun h => hint_issues h rfl (unhinted_doPfi ..), fun h => hint_issues h rfl (unhinted_doHint ..),
      fun h => hint_issues h rfl (unhinted_doHint ..)⟩
  constructor
  · intro a d w s v h accs off waits
    constructor
    · intro aligned reaches owns
      have close := h.closes (i := .lstu a d w) rfl rfl rfl
      have acts : alignTrap v (v.act.map fun x => (x, addrPair s v a.toNat x, 4)) 4 = none := alignTrap_none aligned
      simp only [acts] at close
      have late : (anySo (fragsOf s v accs) && releaseWaits s v) = true ↔ releaseWaits s v = true ∧ ∃ f ∈ fragsOf s v accs, f.ord = 1 := by
        rw [Bool.and_eq_true_iff, anySo_iff, and_comm]
      cases behind : behindStore s v accs true with
      | true =>
        rw [access_behind (by exact behind)] at close
        exact ⟨fun _ => close, fun goes => (goes (.inl behind)).elim⟩
      | false =>
        rw [access_ok (by exact testAccess_owned behind reaches fun _ => owns)] at close
        constructor
        · intro waiting
          rw [if_pos (by exact late.mpr (waiting.resolve_left (by simp [behind])))] at close
          exact close
        · intro goes
          rw [if_neg (by exact fun on => goes (.inr (late.mp on)))] at close
          exact close
    · intro misaligned
      have close := h.closes (i := .lstu a d w) rfl rfl rfl
      have trap : alignTrap v (v.act.map fun x => (x, addrPair s v a.toNat x, 4)) 4 = _ := alignTrap_some misaligned
      simp only [trap] at close
      exact close
  · intro s v lane va a ord wf _ sector r
    exact ⟨rfl, lstuFrag_effect s v lane va a ord wf⟩
end Sys2Proof
end

section
/-! Ownership of write ranges and addresses of registers (R296, R297, R426), and O33. -/

namespace Sys2Proof
open Machine

/-! ## `ownreg` and `ownclr` -/

theorem ownTrap_bad {s : State} {v : View} {a b : Nat} (h : (readK s v.unit a).toNat % 32 ≠ 0 ∨ (readK s v.unit b).toNat % 32 ≠ 0 ∨
    (readK s v.unit b).toNat = 0) : ownTrap a b s v = some (precise v cOplim 0x0D) :=
  if_pos (by simpa [or_assoc] using h)

theorem ownTrap_good {s : State} {v : View} {a b : Nat} (h : ¬ ((readK s v.unit a).toNat % 32 ≠ 0 ∨ (readK s v.unit b).toNat % 32 ≠ 0 ∨
    (readK s v.unit b).toNat = 0)) : ownTrap a b s v = none :=
  if_neg (by simpa [or_assoc] using h)

/-- What a range of another unit, a full list, or neither, makes of the registration of a range in a DETERM launch. -/
theorem registerRange_determ {s : State} {v : View} {u : UnitSt} (hu : unitOf s v.unit = some u) (det : isDeterm s v.unit = true) (a b : Nat) :
    let base := (readK s v.unit a).toNat
    let len := (readK s v.unit b).toNat
    (∀ lid, otherOwner s v.unit base len = some lid → registerRange a b s v = .trap (precise v cOwn (lid + 1) base)) ∧
    (otherOwner s v.unit base len = none → 16 ≤ (liveRanges u).length → registerRange a b s v = .trap (precise v cOwn 0 base)) ∧
    (otherOwner s v.unit base len = none → (liveRanges u).length < 16 → registerRange a b s v =
      .done (modUnit s v.unit fun x => { x with own := x.own ++ [⟨base, len, s.now + 4, none⟩] }) .next 0) := by
  intro base len
  unfold registerRange
  rw [if_neg (by simp [det])]
  refine ⟨fun lid other => ?_, fun free full => ?_, fun free room => ?_⟩
  · simp only [base, len] at other
    simp only [other]
    rfl
  · simp only [base, len] at free
    simp only [free, hu, if_pos full]
    rfl
  · simp only [base, len] at free
    simp only [free, hu, if_neg (Nat.not_le.mpr room)]
    rfl

theorem registerRange_free {s : State} {v : View} (det : ¬ isDeterm s v.unit = true) (a b : Nat) : registerRange a b s v = .done s .next 0 :=
  if_pos (by simpa using det)

/-! ## `rga` -/

/-- A change of a warp that its view does not show. -/
theorem view_modWarp_unseen {f : Warp → Warp} (h : ∀ c w x, viewOfWarp c w (f x) = viewOfWarp c w x) (s : State) (c w : Nat) (g : Gid) :
    view (modWarp s c w f) g = view s g := by
  cases g with
  | warp d x => rw [view_warp_eq, view_warp_eq, warpOf_modWarp_field (h d x)]
  | kindle => rfl

/-- The block of the warp of a group is pinned. -/
def pinned (s : State) (v : View) : State :=
  modWarp s v.core v.wslot fun w => if w.serial = v.serial then { w with pinned := true } else w

theorem view_pinned (s : State) (v : View) (g : Gid) : view (pinned s v) g = view s g :=
  view_modWarp_unseen (fun c w x => by split <;> rfl) s _ _ g

theorem rga_spec {i : Instr} {s t : State} {v : View} {ws : List PendWrite} (hv : view s v.gid = some v)
    (r : Safety.Retired i (pinned s v) t v 4 ws) : (∃ v', view t v.gid = some v' ∧ v'.pc = v.pc + BitVec.ofNat 48 (instrLength i) ∧
      v'.run.pend = v.run.pend ++ ws.map fun w => ⟨s.now + 4, s.now, w⟩) ∧
    ∀ c k, v.gid = .warp c k → ∃ x, warpOf t c k = some x ∧ x.pinned = true := by
  refine ⟨⟨_, r.after, rfl, rfl⟩, fun c k hg => ?_⟩
  obtain ⟨x, hx, rfl⟩ := view_warp (hg ▸ hv)
  have same := r.same
  rw [hg, Safety.sameGroup] at same
  obtain ⟨y, hy, fields⟩ := same { x with pinned := true } (by
    rw [pinned]
    simp [viewOfWarp, hx])
  exact ⟨y, hy, (congrArg Warp.pinned fields :)⟩

/-- Settles O33: the tests of `ownreg` in the model's order, the ranges `ownclr` keeps, and the words of `rga`. -/
theorem ownershipAndAddresses : Obligations.OwnershipAndAddresses := by
  intro a b n d w s v u hu base len bad det
  refine ⟨fun h => ?_, fun h => ?_, fun h => ?_⟩
  · refine ⟨fun wrong => h.ownTraps (i := .ownreg b a w) rfl (ownTrap_bad wrong), fun right plain => ?_, fun right on lid other => ?_,
      fun right on free full => ?_, fun right on free room => ?_⟩
    all_goals have close := h.closes (i := .ownreg b a w) rfl (ownTrap_good right) rfl
    · rw [registerRange_free plain] at close
      exact close
    · rw [(registerRange_determ hu on _ _).1 lid other] at close
      exact close
    · rw [(registerRange_determ hu on _ _).2.1 free full] at close
      exact close
    · rw [(registerRange_determ hu on _ _).2.2 free room] at close
      exact close
  · have close := h.closes (i := .ownclr a w) rfl rfl rfl
    refine ⟨_, close, fun plain => if_pos ?_, fun on => ?_⟩
    · rw [Bool.not_eq_true _ |>.mp plain]
      rfl
    · refine ⟨_, (congrArg (fun t => unitOf t v.unit) (if_neg ?_)).trans ((unitOf_modUnit ..).trans (by rw [hu, Option.map_some])), ?_, ?_⟩
      · rw [show isDeterm s v.unit = true from on]
        decide
      · intro o ho here
        obtain ⟨r, -, rfl⟩ := List.mem_map.mp ho
        split at here
        · next live =>
          rw [if_pos live]
          rfl
        · next ends =>
          rw [if_neg ends]
          have ended : ¬ r.until_.isNone = true := fun none_ => ends (by rw [none_, Bool.and_true]; exact decide_eq_true here)
          cases hr : r.until_ with
          | none => simp [hr] at ended
          | some e => rfl
      · intro o ho other kept
        refine List.mem_map.mpr ⟨o, List.mem_filter.mpr ⟨ho, ?_⟩, if_neg ?_⟩
        · cases hr : o.until_ with
          | none => rfl
          | some e => exact decide_eq_true (kept e hr)
        · rw [show decide (o.base = (readK s v.unit a.toNat).toNat) = false from decide_eq_false other, Bool.false_and]
          decide
  · have close := h.closes (i := .rga n d w) rfl rfl rfl
    have retired := Safety.retired_of (i := .rga n d w) ((view_pinned s v v.gid).trans h.group) 4
      (Safety.words v d.toNat fun l => BitVec.ofNat 32 (rgaWord s v n.toNat l)) (!v.kc && changes (pinned s v) v
        (v.act.map fun l => (l, d.toNat, BitVec.ofNat 32 (rgaWord s v n.toNat l)))) (fun kc => by simp [kc])
    rw [← writeLanes_items, ← writeX_eq] at retired
    obtain ⟨⟨v', after, pc, pend⟩, pins⟩ := rga_spec h.group retired
    refine ⟨_, v', close, after, pc, ?_, pins, fun c k l hg => ?_⟩
    · rw [pend, writeLanes_items, Safety.words, List.map_map]
      rfl
    · rw [rgaWord, hg]
      rfl
end Sys2Proof
end

section
/-! Records and cancellation (R221-R224, R388), and O34. -/

namespace Sys2Proof
open Machine

/-! ## Pieces in memory -/

/-- A piece lies in memory where a translation is cached that permits it. -/
theorem pieceOf_mem {s : State} {v : View} {va len : Nat} {r w : Bool} {p : Place} {ord m : Nat} : pieceOf s v va len r w = .mem p ord m ↔
    0x4000000 ≤ va ∧ ∃ x, tlbFind (tlbOf s v.gid) (unitGen s v.unit) va = some x ∧ accessCause s x va r w = none ∧ xlPlace s x va = p ∧
      x.ord = ord ∧ x.stamp = m := by
  unfold pieceOf
  by_cases low : va < 0x4000000
  · rw [if_pos low]
    constructor
    · intro h
      split at h
      · split at h <;> cases h
      · cases h
    · rintro ⟨high, -⟩
      omega
  · rw [if_neg low]
    cases found : tlbFind (tlbOf s v.gid) (unitGen s v.unit) va with
    | none =>
      constructor
      · intro h
        dsimp only at h
        split at h
        · split at h <;> cases h
        · split at h
          · split at h <;> split at h <;> cases h
          · cases h
      · rintro ⟨-, x, hx, -⟩
        cases hx
    | some x =>
      simp only [Option.some.injEq, exists_eq_left']
      cases cause : accessCause s x va r w with
      | none =>
        simp only [Piece.mem.injEq, true_and]
        exact ⟨fun h => ⟨Nat.not_lt.mp low, h⟩, fun h => h.2⟩
      | some c => simp

/-- Permissions of a translation only take away. -/
theorem accessCause_plain {s : State} {x : Xlate} {va : Nat} {r w : Bool} (h : accessCause s x va r w = none) :
    accessCause s x va false false = none := by
  unfold accessCause at h ⊢
  dsimp only at h ⊢
  generalize (x.host || _ : Bool) = ok at h ⊢
  cases reach : unreachable s x.gen (xlPlace s x va) with
  | true => simp [reach] at h
  | false =>
    cases ok
    · simp [reach] at h
    · simp

/-- A piece is translated for no permission where it is for some. -/
theorem pieceOf_plain {s : State} {v : View} {va len : Nat} {r w : Bool} {p : Place} {ord m : Nat}
    (h : pieceOf s v va len r w = .mem p ord m) : pieceOf s v va len false false = .mem p ord m := by
  obtain ⟨high, x, found, fits, rest⟩ := pieceOf_mem.mp h
  exact pieceOf_mem.mpr ⟨high, x, found, accessCause_plain fits, rest⟩

/-- A range inside one page is one piece. -/
theorem pageCuts_inside {va n : Nat} (pos : 0 < n) (inside : va % 65536 + n ≤ 65536) : pageCuts va n = [(va, n)] := by
  have whole : Nat.min n (65536 - va % 65536) = n := Nat.min_eq_left (by omega)
  rw [pageCuts, cutPages, if_neg (by omega)]
  dsimp only
  rw [whole, Nat.sub_self]
  cases h : n / 65536 + 1 with
  | zero => omega
  | succ k => rw [cutPages, if_pos rfl]

/-- A range inside one line is one cut. -/
theorem lineCuts_inside {va n : Nat} (pos : 0 < n) (inside : va % 128 + n ≤ 128) : lineCuts va n = [(va, n)] := by
  have whole : Nat.min n (128 - va % 128) = n := Nat.min_eq_left (by omega)
  rw [lineCuts, cutLines, if_neg (by omega)]
  dsimp only
  rw [whole, Nat.sub_self]
  cases h : n / 128 + 1 with
  | zero => omega
  | succ k => rw [cutLines, if_pos rfl]

/-- A range inside one page is one piece. -/
theorem piecesOf_inside {s : State} {v : View} {va n : Nat} {r w : Bool} (pos : 0 < n) (inside : va % 65536 + n ≤ 65536)
    (small : va < 2 ^ 64) : piecesOf s v va n r w = [(va, n, pieceOf s v va n r w)] := by
  rw [piecesOf, Nat.mod_eq_of_lt small, pageCuts_inside pos inside]
  rfl

/-- The parts of one access inside a line that lies in memory. -/
theorem fragsOf_inside {s : State} {v : View} {lane va n ord m : Nat} {p : Place} (pos : 0 < n) (inside : va % 128 + n ≤ 128)
    (small : va < 2 ^ 64) (place : pieceOf s v va n false false = .mem p ord m) :
    fragsOf s v [(lane, va, n)] = [⟨0, 0, va, n, p.plus 0, ord⟩] := by
  simp only [fragsOf, List.mapIdx_cons, List.mapIdx_nil, List.flatMap_cons, List.flatMap_nil,
    piecesOf_inside pos (show va % 65536 + n ≤ 65536 by omega) small, place, List.map_cons, List.map_nil, lineCuts_inside pos inside, Nat.sub_self,
    List.append_nil]

/-! ## What the groups and their requests leave -/

/-- A state without its groups and their requests. -/
def groupless (s : State) : State := { s with cores := [], pools := [], reqs := [], agenda := [], lost := [], fresh := 0 }

theorem groupless_modWarp (s : State) (c w : Nat) (f : Warp → Warp) : groupless (modWarp s c w f) = groupless s := rfl
theorem groupless_modEj (s : State) (c k : Nat) (f : Ejected → Ejected) : groupless (modEj s c k f) = groupless s := rfl
theorem groupless_pinLoads (s : State) (v : View) : groupless (pinLoads s v) = groupless s := rfl

theorem groupless_modRun (s : State) (g : Gid) (f : Run → Run) : groupless (modRun s g f) = groupless s := by
  cases g <;> rfl

theorem groupless_progress (s : State) (v : View) : groupless (progress s v) = groupless s := by
  unfold progress
  split <;> rfl

theorem groupless_drawLost (s : State) (v : View) : groupless (drawLost s v).2 = groupless s := by
  obtain ⟨l, same⟩ := drawLost_state s v
  rw [same]
  rfl

theorem groupless_addRounds (s : State) (v : View) (n : Nat) : groupless (addRounds s v n) = groupless s := by
  unfold addRounds
  split
  · rfl
  · split <;> rfl

theorem groupless_sendReq (s : State) (q : Req) (i : Instr) : groupless (sendReq s q i) = groupless s := by
  unfold sendReq
  dsimp only
  cases q.slot with
  | none => rfl
  | some n => exact groupless_modRun (freshNat s).2 q.gid _

theorem groupless_countRequest {s : State} {v : View} (h : Safety.unrecorded s v.unit) (rounds lost : Nat) :
    groupless (countRequest s v rounds lost) = groupless s := by
  have counted := sameData_modWarp s v.core v.wslot fun w => { w with reqCount := w.reqCount + 1 }
  unfold countRequest
  dsimp only
  have quiet (kind at_ aux data : Nat) : capture (modWarp s v.core v.wslot fun w => { w with reqCount := w.reqCount + 1 })
      (unitLaunchId s v.unit) kind at_ aux data = modWarp s v.core v.wslot fun w => { w with reqCount := w.reqCount + 1 } :=
    ((counted.unrecorded v.unit).mpr h).capture ..
  rw [quiet, ite_self, groupless_addRounds, groupless_modWarp]

theorem aside_joinReport (s : State) (unit addr : Nat) (ipc : Pc) : aside (joinReport s unit addr ipc) = aside s := by
  unfold joinReport
  split
  · rfl
  · exact aside_postReport ..

section
variable {s t : State} (h : groupless t = groupless s)
include h

theorem groupless_readAs (gen a n : Nat) : readAs t gen (.dev a) n = readAs s gen (.dev a) n :=
  (congrArg (fun x => readAs x gen (.dev a) n) h :)

theorem groupless_mem : t.mem = s.mem := (congrArg State.mem h :)
theorem groupless_memPoison : t.memPoison = s.memPoison := (congrArg State.memPoison h :)
theorem groupless_storageOf (a : Nat) : storageOf t a = storageOf s a := (congrArg (fun x => storageOf x a) h :)
theorem groupless_unitGen (u : Nat) : unitGen t u = unitGen s u := (congrArg (fun x => unitGen x u) h :)

theorem groupless_accessCause (x : Xlate) (va : Nat) (r w : Bool) : accessCause t x va r w = accessCause s x va r w :=
  (congrArg (fun y => accessCause y x va r w) h :)

theorem groupless_unrecorded (u : Nat) : Safety.unrecorded t u ↔ Safety.unrecorded s u :=
  iff_of_eq (congrArg (fun x => Safety.unrecorded x u) h :)

theorem groupless_heldAt (p : Place) : heldAt t p = heldAt s p := (congrArg (fun x => heldAt x p) h :)

end

/-! ## `jdec` -/

theorem natOf_lt (l : List Byte) : natOf l < 256 ^ l.length := by
  rw [← bytesOf_natOf l, natOf_bytesOf, bytesOf_natOf]
  exact Nat.mod_lt _ (Nat.pow_pos (by decide))

/-- The word of a counter in device memory after a decrement: one less unless it was 0, and no other byte changed. -/
theorem decrementAt_effect {s : State} {v : View} {lane addr b ord : Nat} (wf : s.mem.wf = true) (sound : s.memPoison = [])
    (once : ∀ i < 4, ∀ j < 4, storageOf s (b + i) = storageOf s (b + j) → i = j) :
    let t := (decrementAt s v lane addr ⟨0, 0, addr, 4, .dev b, ord⟩).1
    besideMemory t = besideMemory s ∧
    natOf (readAs t (unitGen s v.unit) (.dev b) 4) = natOf (readAs s (unitGen s v.unit) (.dev b) 4) - 1 ∧
    ∀ a, (∀ i < 4, storageOf s (b + i) ≠ a) → t.mem.get a = s.mem.get a := by
  intro t
  have clean : comesPoisoned s ⟨0, 0, addr, 4, .dev b, ord⟩ = false := by simp [comesPoisoned, poisonedPlace, sound]
  generalize hc : raceCheck s v.unit (agentOf s v lane) v.pc.toNat (lidOf s v.unit) lane 4 addr (Place.dev b).key 4 (ord == 2) = c
  have checked : aside c = aside s := by rw [← hc, aside_raceCheck]
  by_cases zero : natOf (readAs s (unitGen s v.unit) (.dev b) 4) = 0
  · have acts : t = joinReport (touchPlace c (unitGen s v.unit) (unitPart s v.unit) (.dev b) 0) v.unit (addr - 16) v.pc := by
      rw [← hc]
      simp only [t, decrementAt, clean, zero]
      rfl
    have same : aside t = aside s := by rw [acts, aside_joinReport, aside_touchPlace, checked]
    rw [readAs_aside same, zero]
    exact ⟨besideMemory_of_aside same, rfl, fun a _ => by rw [aside_mem same]⟩
  · generalize hnew : bytesOf 4 (natOf (readAs s (unitGen s v.unit) (.dev b) 4) - 1) = new
    have long : new.length = 4 := by rw [← hnew, bytesOf_length]
    obtain ⟨d, noted, acts⟩ : ∃ d, aside d = aside s ∧ t = recordRelease (writeMem d (unitGen s v.unit) (unitPart s v.unit) (.dev b) new)
        (partyOf s v 0 [lane]) (.dev b) 4 4 := by
      refine ⟨_, ?_, by
        simp only [t, decrementAt, clean, zero, ← hnew]
        rfl⟩
      rw [foldl_same (view := aside) fun _ _ => aside_release .., aside_releaseWords, foldl_same (view := aside) fun _ _ => aside_carryRels ..,
        aside_raceCheck]
    have left : aside t = aside (writeMem d (unitGen s v.unit) (unitPart s v.unit) (.dev b) new) := by rw [acts, aside_recordRelease]
    obtain ⟨beside, reads, -, outside⟩ := writtenAt_effect wf left noted (by rw [long]; exact once)
    rw [long] at reads outside
    refine ⟨beside, ?_, outside⟩
    rw [reads, ← hnew, natOf_bytesOf]
    have bound := natOf_lt (readAs s (unitGen s v.unit) (.dev b) 4)
    rw [readAs_length] at bound
    omega

theorem tlbOf_progress (s : State) (v : View) (g : Gid) : tlbOf (progress s v) g = tlbOf s g := by
  unfold progress
  split
  · cases g with
    | warp c w => exact coreOf_modWarp_field (field := Core.tlb) (fun _ _ => by rfl) _
    | kindle c k => rfl
  · rfl

/-- A piece in memory stays where it is while memory and translations stay. -/
theorem pieceOf_mem_congr {s t : State} {v : View} {va len : Nat} {r w : Bool} {p : Place} {ord m : Nat} (h : groupless t = groupless s)
    (tlb : tlbOf t v.gid = tlbOf s v.gid) (place : pieceOf s v va len r w = .mem p ord m) : pieceOf t v va len r w = .mem p ord m := by
  obtain ⟨high, x, found, fits, where_, rest⟩ := pieceOf_mem.mp place
  refine pieceOf_mem.mpr ⟨high, x, ?_, ?_, ?_, rest⟩
  · rw [tlb, groupless_unitGen h, found]
  · rw [groupless_accessCause h, fits]
  · rw [← where_]
    exact (congrArg (fun y => xlPlace y x va) h :)

/-- `jdec` of an aligned counter in device memory: one less unless it is 0, and no other byte changed. -/
theorem decrementJoin_effect {s : State} {v : View} {addr b ord m : Nat} (quiet : Safety.unrecorded s v.unit)
    (aligned : addr % 32 = 16) (small : addr < 2 ^ 64) (place : pieceOf s v addr 4 true true = .mem (.dev b) ord m)
    (free : heldAt s (.dev b) = false) (wf : s.mem.wf = true) (sound : s.memPoison = [])
    (once : ∀ i < 4, ∀ j < 4, storageOf s (b + i) = storageOf s (b + j) → i = j) :
    let t := decrementJoin (progress s v) v addr
    natOf (readAs t (unitGen s v.unit) (.dev b) 4) = natOf (readAs s (unitGen s v.unit) (.dev b) 4) - 1 ∧
    ∀ a, (∀ i < 4, storageOf s (b + i) ≠ a) → t.mem.get a = s.mem.get a := by
  intro t
  have begun : groupless (pinLoads (progress s v) v) = groupless s := (groupless_pinLoads ..).trans (groupless_progress ..)
  have drawn := (groupless_drawLost (pinLoads (progress s v) v) v).trans begun
  have frags : fragsOf (pinLoads (progress s v) v) v [(v.act.headD 0, addr, 4)] = [⟨0, 0, addr, 4, .dev b, ord⟩] :=
    fragsOf_inside (by decide) (by omega) small (pieceOf_mem_congr begun (tlbOf_progress ..) (pieceOf_plain place))
  have open_ : heldAt (pinLoads (progress s v) v) (.dev b) = false := (groupless_heldAt begun _).trans free
  obtain ⟨q, n, acts⟩ : ∃ q n, t = sendReq (countRequest (decrementAt (drawLost (pinLoads (progress s v) v) v).2 v (v.act.headD 0) addr
      ⟨0, 0, addr, 4, .dev b, ord⟩).1 v n (drawLost (pinLoads (progress s v) v) v).1) q .storeAck := by
    simp only [t, decrementJoin, frags, List.find?_cons, open_, Bool.not_false]
    exact ⟨_, _, rfl⟩
  obtain ⟨beside, counts, outside⟩ := decrementAt_effect (v := v) (lane := v.act.headD 0) (addr := addr) (ord := ord)
    (show (drawLost (pinLoads (progress s v) v) v).2.mem.wf = true by rw [groupless_mem drawn]; exact wf)
    (by rw [groupless_memPoison drawn]; exact sound) (fun i hi j hj => by
      rw [groupless_storageOf drawn, groupless_storageOf drawn]
      exact once i hi j hj)
  generalize decrementAt _ v _ addr _ = d at acts beside counts outside
  have still : Safety.unrecorded d.1 v.unit := (unrecorded_besideMemory beside v.unit).mpr ((groupless_unrecorded drawn v.unit).mpr quiet)
  have ends : groupless t = groupless d.1 := by rw [acts, groupless_sendReq, groupless_countRequest still]
  rw [groupless_unitGen drawn, groupless_readAs drawn] at counts
  refine ⟨(congrArg natOf (groupless_readAs ends ..)).trans counts, fun a apart => ?_⟩
  rw [groupless_mem ends, outside a fun i hi => by rw [groupless_storageOf drawn]; exact apart i hi, groupless_mem drawn]

/-! ## `spawn` -/

theorem spawnRecord_full {s : State} {v : View} {x : Launch} (hx : launchOf s (unitLaunchId s v.unit) = some x) (addr h : Nat)
    (full : ringFree s x.part x.fn h 1 = false) : spawnRecord s v addr h = .wait s (s.now + 1) := by
  simp only [spawnRecord, hx, full]
  rfl

theorem spawnRecord_room {s : State} {v : View} {x : Launch} (hx : launchOf s (unitLaunchId s v.unit) = some x) (addr h : Nat)
    (room : ringFree s x.part x.fn h 1 = true) :
    let p : Push :=
      { fn := x.fn, gen := x.gen, queue := x.queue, handle := memberLaunchHandle x.queue (cqOf s x.fn x.queue).spawned, graph := x.graph,
        phase := x.phase, pkt := none, spawned := true, capbuf := 0, capsz := 0, capt := false, rply := false }
    spawnRecord s v addr h = .done (joinOwner (modCq (pushRecord (releaseLanes s v (obRecord s.fresh) true) x.part h
      (natOf (readNow s v addr 32)) p).1 x.fn x.queue fun c => { c with spawned := c.spawned + 1 }) x) .next 3 := by
  simp only [spawnRecord, hx, room]
  rfl

/-! ## `cancel` -/

/-- Settles O34: `spawn` by the room of its ring, `jdec` by what its counter holds, `cancel` by what its handle names. -/
theorem recordInstructions : Obligations.RecordInstructions := by
  intro a w s v x hx k low
  refine ⟨fun h reaches => ?_, fun h => ?_, fun h => ?_⟩
  · intro waits
    have acts (free : ¬ waits) : exec (.spawn a w) s = .next (issued (.spawn a w) s v (spawnRecord s v (k / 32 * 32) (k % 16))) := by
      have on : releaseWaits s v = false := Bool.not_eq_true _ |>.mp fun late => free (.inl late)
      have clear : behindStore s v (lowAccs v (k / 32 * 32) 32) false = false := Bool.not_eq_true _ |>.mp fun behind => free (.inr behind)
      refine (h.closes (i := .spawn a w) rfl rfl (releasePre_free on)).trans ?_
      dsimp only
      rw [lowAccess_ok (testAccess_reads (by exact clear) (by exact reaches))]
    constructor
    · intro stays
      by_cases late : releaseWaits s v = true
      · exact h.preCloses (i := .spawn a w) rfl rfl (releasePre_waits late)
      · by_cases behind : behindStore s v (lowAccs v (k / 32 * 32) 32) false = true
        · refine (h.closes (i := .spawn a w) rfl rfl (releasePre_free (Bool.not_eq_true _ |>.mp late))).trans ?_
          dsimp only
          rw [lowAccess_behind (by exact behind)]
          rfl
        · have free : ¬ waits := fun waiting => waiting.elim late behind
          have full := stays.resolve_left free
          exact (acts free).trans (by rw [spawnRecord_full hx _ _ full]; rfl)
    · intro free room
      exact (acts free).trans (by rw [spawnRecord_room hx _ _ room]; rfl)
  · have own_none (aligned : k % 32 = 0) : alignK s v a 32 = none := alignK_none aligned
    refine ⟨fun off => h.ownTraps (i := .jdec a w) rfl (alignK_some off),
      fun aligned late => h.preCloses (i := .jdec a w) rfl (own_none aligned) (releasePre_waits late),
      fun aligned on clear reaches quiet b ord m place free wf sound once => ?_⟩
    have small : k < 2 ^ 64 := (readK s v.unit a.toNat).isLt
    have carried : hostAtomics s v (mkAtom 1 0 0 4 2 0 0) (lowAccs v (k + 16) 4) = [] := by
      refine List.eq_nil_iff_forall_not_mem.mpr fun y hy => ?_
      obtain ⟨-, z, hz, ⟨p, hp, q, host, r, n, at_⟩, -⟩ := mem_hostAtomics.mp hy
      obtain rfl : z = (low, k + 16, 4) := List.mem_singleton.mp hz
      have hp : p ∈ piecesOf s v (k + 16) 4 true true := hp
      rw [piecesOf_inside (by decide) (by omega) (by omega)] at hp
      obtain rfl : p = (k + 16, 4, _) := List.mem_singleton.mp hp
      rw [place] at at_
      cases at_
    refine ⟨_, (h.closes (i := .jdec a w) rfl (own_none aligned) (releasePre_free on)).trans ?_,
      decrementJoin_effect quiet (by omega) (by omega) place free wf sound once⟩
    dsimp only
    rw [show hostAtomics s v (mkAtom 1 0 0 4 2 0 0) (lowAccs v ((readK s v.unit a.toNat).toNat + 16) 4) = [] from carried]
    dsimp only [causeTrap]
    rw [lowAccess_ok (testAccess_reads (by exact clear) (by exact reaches))]
    rfl
  · intro word
    refine ⟨fun other => ?_, fun mine level => ?_, fun mine level i y found => ?_⟩
    · exact h.ownTraps (i := .cancel a w) rfl (if_neg (by rw [show handleInJob s v (BitVec.ofNat 32 _) = false from other]; decide))
    · have named : cancelNamed word s v = cancelHandle s x.fn word := by
        simp only [cancelNamed, hx]
        exact if_neg (by simp only [handleLevel, fld]; omega)
      refine (h.closes (i := .cancel a w) rfl (if_pos mine) rfl).trans ?_
      exact congrArg (fun t => Host.Outcome.next (advance (.cancel a w) t v .next 0)) named
    · have named : cancelNamed word s v = recount (cancelUnit s i) i (unitLaunchId s v.unit) := by
        simp only [cancelNamed, hx]
        rw [if_pos (by simp only [handleLevel, fld]; omega)]
        simp only [handleInst, fld, Nat.pow_zero, Nat.div_one, found]
      refine (h.closes (i := .cancel a w) rfl (if_pos mine) rfl).trans ?_
      exact congrArg (fun t => Host.Outcome.next (advance (.cancel a w) t v .next 0)) named

end Sys2Proof
end

section
/-! How accesses are cut at pages and lines and put together again (R125, R271). -/

namespace Sys2Proof
open Machine

/-! ## Lists -/

theorem mem_dedup {x : Nat} {l : List Nat} : x ∈ dedup l ↔ x ∈ l := by
  induction l with
  | nil => simp [dedup]
  | cons y r ih =>
    rw [dedup, List.mem_cons, List.mem_filter, ih, List.mem_cons]
    by_cases same : x = y <;> simp [same]

theorem mem_insBy {α : Type} {f : α → Nat} {x y : α} {l : List α} : y ∈ insBy f x l ↔ y = x ∨ y ∈ l := by
  induction l with
  | nil => simp [insBy]
  | cons z r ih =>
    rw [insBy]
    split
    · rw [List.mem_cons, ih, List.mem_cons]
      tauto
    · exact List.mem_cons

theorem mem_sortBy {α : Type} {f : α → Nat} {y : α} {l : List α} : y ∈ sortBy f l ↔ y ∈ l := by
  suffices h : ∀ acc : List α, y ∈ l.foldl (fun acc x => insBy f x acc) acc ↔ y ∈ acc ∨ y ∈ l by
    simpa [sortBy] using h []
  induction l with
  | nil => simp
  | cons x r ih =>
    intro acc
    rw [List.foldl_cons, ih, mem_insBy, List.mem_cons]
    tauto

/-! ## Cuts -/

/-- A cut of a range at pages lies in it and begins where it or the page begins. -/
theorem mem_cutPages {fuel va n a k : Nat} (h : (a, k) ∈ cutPages fuel va n) :
    0 < k ∧ va ≤ a ∧ a + k ≤ va + n ∧ ∀ x, a ≤ x → x < a + k → a = max va (x / 65536 * 65536) := by
  induction fuel generalizing va n with
  | zero => simp [cutPages] at h
  | succ fuel ih =>
    rw [cutPages] at h
    by_cases empty : n = 0
    · simp [empty] at h
    · rw [if_neg empty] at h
      have first : Nat.min n (65536 - va % 65536) ≤ n ∧ Nat.min n (65536 - va % 65536) ≤ 65536 - va % 65536 ∧
          (Nat.min n (65536 - va % 65536) = n ∨ Nat.min n (65536 - va % 65536) = 65536 - va % 65536) :=
        ⟨Nat.min_le_left .., Nat.min_le_right .., (Nat.le_total n (65536 - va % 65536)).imp Nat.min_eq_left Nat.min_eq_right⟩
      generalize Nat.min n (65536 - va % 65536) = m at h first
      rcases List.mem_cons.mp h with here | later
      · obtain ⟨rfl, rfl⟩ := Prod.mk.inj here
        refine ⟨by omega, by omega, by omega, fun x low high => ?_⟩
        omega
      · obtain ⟨pos, low, high, start⟩ := ih later
        refine ⟨pos, by omega, by omega, fun x from_ below => ?_⟩
        have := start x from_ below
        omega

/-- A cut of a range at lines lies in it. -/
theorem mem_cutLines {fuel a n b m : Nat} (h : (b, m) ∈ cutLines fuel a n) : 0 < m ∧ a ≤ b ∧ b + m ≤ a + n := by
  induction fuel generalizing a n with
  | zero => simp [cutLines] at h
  | succ fuel ih =>
    rw [cutLines] at h
    by_cases empty : n = 0
    · simp [empty] at h
    · rw [if_neg empty] at h
      have first : 0 < Nat.min n (128 - a % 128) ∧ Nat.min n (128 - a % 128) ≤ n :=
        ⟨Nat.lt_min.mpr ⟨by omega, by omega⟩, Nat.min_le_left ..⟩
      rcases List.mem_cons.mp h with here | later
      · obtain ⟨rfl, rfl⟩ := Prod.mk.inj here
        exact ⟨first.1, le_refl _, by omega⟩
      · obtain ⟨pos, low, high⟩ := ih later
        exact ⟨pos, by omega, by omega⟩

/-- The cuts of a range at lines cover it. -/
theorem lineCuts_cover {a n x : Nat} (low : a ≤ x) (high : x < a + n) : ∃ c ∈ lineCuts a n, c.1 ≤ x ∧ x < c.1 + c.2 := by
  suffices h : ∀ fuel a n, n + a % 128 ≤ 128 * fuel → a ≤ x → x < a + n → ∃ c ∈ cutLines fuel a n, c.1 ≤ x ∧ x < c.1 + c.2 from
    h _ a n (by omega) low high
  clear low high
  intro fuel
  induction fuel with
  | zero =>
    intro a n short low high
    omega
  | succ fuel ih =>
    intro a n short low high
    rw [cutLines, if_neg (by omega)]
    have first : Nat.min n (128 - a % 128) = n ∨ Nat.min n (128 - a % 128) = 128 - a % 128 :=
      (Nat.le_total n (128 - a % 128)).imp Nat.min_eq_left Nat.min_eq_right
    generalize Nat.min n (128 - a % 128) = m at first
    by_cases here : x < a + m
    · exact ⟨_, List.mem_cons_self, low, here⟩
    · obtain ⟨c, hc, inside⟩ := ih (a + m) (n - m) (by omega) (by omega) (by omega)
      exact ⟨c, List.mem_cons_of_mem _ hc, inside⟩

/-! ## Items put together -/

theorem putBytes_length {off : Nat} {b x : List Byte} (h : off + b.length ≤ x.length) : (putBytes off b x).length = x.length := by
  simp only [putBytes, List.length_append, List.length_take, List.length_drop]
  omega

theorem putBytes_get {off j : Nat} {b x : List Byte} (h : off + b.length ≤ x.length) :
    (putBytes off b x)[j]? = if off ≤ j ∧ j < off + b.length then b[j - off]? else x[j]? := by
  have len : (x.take off).length = off := by rw [List.length_take]; omega
  rw [putBytes, List.append_assoc]
  by_cases before : j < off
  · rw [List.getElem?_append_left (by omega), List.getElem?_take, if_pos before, if_neg (by omega)]
  · rw [List.getElem?_append_right (by omega), len]
    by_cases inside : j < off + b.length
    · rw [List.getElem?_append_left (by omega), if_pos (by omega)]
    · rw [List.getElem?_append_right (by omega), List.getElem?_drop, if_neg (by omega)]
      congr 1
      omega

/-- Parts that agree with one content of an item leave it wherever one of them lies. -/
theorem putAll_get {F : Nat → Byte} {n : Nat} (l : List (Nat × Nat × List Byte)) (x : List Byte) (hx : x.length = n)
    (fits : ∀ b ∈ l, b.2.1 + b.2.2.length ≤ n) (agrees : ∀ b ∈ l, ∀ t < b.2.2.length, b.2.2[t]? = some (F (b.2.1 + t))) :
    (l.foldl (fun x b => putBytes b.2.1 b.2.2 x) x).length = n ∧
    ∀ j, (x[j]? = some (F j) ∨ ∃ b ∈ l, b.2.1 ≤ j ∧ j < b.2.1 + b.2.2.length) →
      (l.foldl (fun x b => putBytes b.2.1 b.2.2 x) x)[j]? = some (F j) := by
  induction l generalizing x with
  | nil =>
    refine ⟨hx, fun j given => given.resolve_right ?_⟩
    rintro ⟨b, hb, -⟩
    cases hb
  | cons c r ih =>
    have room := fits c List.mem_cons_self
    obtain ⟨long, get⟩ := ih (putBytes c.2.1 c.2.2 x) ((putBytes_length (by omega)).trans hx)
      (fun b hb => fits b (List.mem_cons_of_mem c hb)) fun b hb => agrees b (List.mem_cons_of_mem c hb)
    refine ⟨long, fun j given => get j ?_⟩
    rw [putBytes_get (by omega)]
    by_cases here : c.2.1 ≤ j ∧ j < c.2.1 + c.2.2.length
    · rw [if_pos here, agrees c List.mem_cons_self (j - c.2.1) (by omega), Nat.add_sub_cancel' here.1]
      exact .inl rfl
    · rw [if_neg here]
      refine given.imp_right ?_
      rintro ⟨b, hb, inside⟩
      rcases List.mem_cons.mp hb with rfl | later
      · exact (here inside).elim
      · exact ⟨b, later, inside⟩

end Sys2Proof
end

section
/-! What accesses and their records leave of the groups, the cores and the units (R90, R172, R178). -/

namespace Sys2Proof
open Machine

/-- Cores, pools, units, requests and the cycle. -/
def tasksOf (s : State) : Tab Core × Tab Pool × Tab UnitSt × Tab Req × Nat := (s.cores, s.pools, s.units, s.reqs, s.now)

theorem tasksOf_aside {s t : State} (h : aside t = aside s) : tasksOf t = tasksOf s := (congrArg tasksOf h :)
theorem tasksOf_besideMemory {s t : State} (h : besideMemory t = besideMemory s) : tasksOf t = tasksOf s := (congrArg tasksOf h :)

section
variable {s t : State} (h : tasksOf t = tasksOf s)
include h

theorem tasksOf_cores : t.cores = s.cores := (congrArg (·.1) h :)
theorem tasksOf_pools : t.pools = s.pools := (congrArg (·.2.1) h :)
theorem tasksOf_units : t.units = s.units := (congrArg (·.2.2.1) h :)
theorem tasksOf_reqs : t.reqs = s.reqs := (congrArg (·.2.2.2.1) h :)
theorem tasksOf_now : t.now = s.now := (congrArg (·.2.2.2.2) h :)
theorem tasksOf_view (g : Gid) : view t g = view s g := view_congr (tasksOf_cores h) (tasksOf_pools h) g
theorem tasksOf_coreOf (c : Nat) : coreOf t c = coreOf s c := by simp only [coreOf, tasksOf_cores h]
theorem tasksOf_unitOf (u : Nat) : unitOf t u = unitOf s u := by simp only [unitOf, tasksOf_units h]

end

/-! ## Recorded decisions (R90-R92) -/

/-- A state without what a record of a decision may change: memory, the launches and the steps to come. -/
def unlogged (s : State) : State := { besideMemory s with launches := [], agenda := [] }

theorem unlogged_besideMemory {s t : State} (h : besideMemory t = besideMemory s) : unlogged t = unlogged s :=
  congrArg (fun x : State => { x with launches := [], agenda := [] }) h

theorem tasksOf_unlogged {s t : State} (h : unlogged t = unlogged s) : tasksOf t = tasksOf s := (congrArg tasksOf h :)

theorem unlogged_modLaunch (s : State) (l : Nat) (f : Launch → Launch) : unlogged (modLaunch s l f) = unlogged s := rfl

theorem tasksOf_modLaunch (s : State) (l : Nat) (f : Launch → Launch) : tasksOf (modLaunch s l f) = tasksOf s := rfl

/-- A fatal halt changes a launch, and may have a step to come. -/
theorem haltLaunch_spec (s : State) (l core wslot lane : Nat) (a : Trap) (b : Option Trap) :
    unlogged (haltLaunch s l core wslot lane a b) = unlogged s ∧ s.agenda ⊆ (haltLaunch s l core wslot lane a b).agenda := by
  unfold haltLaunch
  split
  · exact ⟨rfl, List.Subset.refl _⟩
  · exact ⟨rfl, List.subset_append_left ..⟩

theorem tasksOf_haltLaunch (s : State) (l core wslot lane : Nat) (a : Trap) (b : Option Trap) :
    tasksOf (haltLaunch s l core wslot lane a b) = tasksOf s := tasksOf_unlogged (haltLaunch_spec ..).1

theorem besideMemory_writeAs (s : State) (gen : Nat) (p : Place) (bytes : List Byte) : besideMemory (writeAs s gen p bytes) = besideMemory s :=
  (writePlace_effect ..).1

theorem tasksOf_writeAs (s : State) (gen : Nat) (p : Place) (bytes : List Byte) : tasksOf (writeAs s gen p bytes) = tasksOf s :=
  tasksOf_besideMemory (besideMemory_writeAs ..)

/-- A write through the page table changes memory only. -/
theorem besideMemory_vwrite {s t : State} {gen va : Nat} {bytes : List Byte} (h : vwrite s gen va bytes = .ok t) :
    besideMemory t = besideMemory s := by
  unfold vwrite at h
  dsimp only at h
  generalize hr : List.foldl _ _ (pageCuts va bytes.length) = r at h
  have kept : ∀ x, r = .ok x → besideMemory x.1 = besideMemory s := by
    rw [← hr]
    refine foldl_keeps (P := fun acc : Except (Nat × Nat) (State × List Byte) => ∀ x, acc = .ok x → besideMemory x.1 = besideMemory s)
      (fun acc c kept x made => ?_) _ fun x made => by cases made; rfl
    split at made
    · cases made
    · next t l =>
      split at made
      · cases made
      · next p _ =>
        cases made
        exact (besideMemory_of_aside (aside_breakRelease ..)).trans ((besideMemory_writeAs ..).trans (kept _ rfl))
  cases r with
  | error e => cases h
  | ok x =>
    cases h
    exact kept x rfl

theorem appendEntry_spec (s : State) (l : Nat) (x : Launch) (entry : Nat) :
    unlogged (appendEntry s l x entry) = unlogged s ∧ (appendEntry s l x entry).agenda = s.agenda := by
  unfold appendEntry
  dsimp only
  split
  · next wrote =>
    have same := besideMemory_vwrite wrote
    exact ⟨(unlogged_modLaunch ..).trans (unlogged_besideMemory same), (congrArg State.agenda same :)⟩
  · exact ⟨rfl, rfl⟩

/-- A recorded decision changes memory, its launch and the steps to come only, and takes no step away. -/
theorem capture_spec (s : State) (l kind where_ aux data : Nat) :
    unlogged (capture s l kind where_ aux data) = unlogged s ∧ s.agenda ⊆ (capture s l kind where_ aux data).agenda := by
  unfold capture
  split
  · exact ⟨rfl, List.Subset.refl _⟩
  · split
    · split
      · exact ⟨rfl, List.Subset.refl _⟩
      · unfold replayMismatch
        split
        · exact ⟨rfl, List.Subset.refl _⟩
        · exact haltLaunch_spec ..
    · split
      · exact ⟨rfl, List.Subset.refl _⟩
      · generalize captureEntry s _ kind where_ aux data = entry
        obtain ⟨same, agenda⟩ := appendEntry_spec s l _ entry
        refine ⟨same, ?_⟩
        rw [agenda]
        exact List.Subset.refl _

theorem tasksOf_capture (s : State) (l kind where_ aux data : Nat) : tasksOf (capture s l kind where_ aux data) = tasksOf s :=
  tasksOf_unlogged (capture_spec ..).1

theorem view_modEj_unseen {f : Ejected → Ejected} (h : ∀ c k x, viewOfEjected c k (f x) = viewOfEjected c k x) (s : State) (c k : Nat)
    (g : Gid) : view (modEj s c k f) g = view s g := by
  cases g with
  | warp => rfl
  | kindle d j => rw [view_kindle_eq, view_kindle_eq, ejOf_modEj_field (h d j)]

theorem viewOfWarp_addArb (c w : Nat) (x : Warp) (n : Nat) : viewOfWarp c w (addArb x n) = viewOfWarp c w x := by
  obtain ⟨rounds, same⟩ : ∃ y, addArb x n = { x with stallw := y } := ⟨_, rfl⟩
  rw [same]
  rfl

theorem view_addRounds (s : State) (v : View) (n : Nat) (g : Gid) : view (addRounds s v n) g = view s g := by
  unfold addRounds
  split
  · rfl
  · split
    · exact view_modWarp_unseen (f := fun x => addArb x n) (fun c w x => viewOfWarp_addArb c w x n) ..
    · exact view_modEj_unseen (f := fun e => { e with lost := e.lost + n }) (fun _ _ _ => rfl) ..

/-- A counted request is not to be seen in the view of its group. -/
theorem view_countRequest (s : State) (v : View) (rounds lost : Nat) (g : Gid) : view (countRequest s v rounds lost) g = view s g := by
  have counted : view (modWarp s v.core v.wslot fun w => { w with reqCount := w.reqCount + 1 }) g = view s g :=
    view_modWarp_unseen (fun _ _ _ => by rfl) ..
  unfold countRequest
  dsimp only
  rw [view_addRounds]
  split
  · exact counted
  · exact (tasksOf_view (tasksOf_capture ..) g).trans counted

end Sys2Proof
end

section
/-! Loads (R270, R271), and O25. -/

namespace Sys2Proof
open Machine

/-! ## The lines of a load -/

/-- A state without what a load notes at the shared cache and in reports. -/
def noteless (s : State) : State := { s with fresh := 0, l2 := [], syncLines := [], reports := [] }

theorem noteless_touchPlace (s : State) (gen part : Nat) (p : Place) (dirty : Nat) : noteless (touchPlace s gen part p dirty) = noteless s := by
  cases p with
  | dev a =>
    unfold touchPlace l2Touch
    dsimp only
    split <;> rfl
  | remote => rfl
  | host => rfl

theorem postEvent_down {s : State} (down : s.linkUp = false) (fn kind source data : Nat) : postEvent s fn kind source data = s := by
  simp [postEvent, down]

theorem noteless_postReport {s : State} (down : s.linkUp = false) (fn kind gen launch addr pc : Nat) (body : List Byte) :
    noteless (postReport s fn kind gen launch addr pc body) = noteless s := by
  unfold postReport
  dsimp only
  split
  · rw [postEvent_down (by exact down)]
    rfl
  · rw [postEvent_down (s := _) (by rw [postEvent_down (by exact down)]; exact down), postEvent_down (by exact down)]
    rfl

theorem noteless_poisonReport {s : State} (down : s.linkUp = false) (v : View) (p : Place) (va : Nat) :
    noteless (poisonReport s v p va) = noteless s := by
  unfold poisonReport
  split
  · exact noteless_postReport down ..
  · rfl

/-- A part of a load, as it is read at the point of coherence. -/
def partRead (s : State) (v : View) (g : Frag) : Nat × Nat × List Byte := (g.idx, g.off, readAs s (unitGen s v.unit) g.place g.len)

theorem noteless_partRead {s t : State} (h : noteless t = noteless s) (v : View) (g : Frag) : partRead t v g = partRead s v g :=
  (congrArg (fun x => partRead x v g) h :)

/-- A load is not served by an L1: of a kindling core, or where none has a cache. -/
def uncached (s : State) (v : View) (via : Bool) : Prop := via = true → v.kc = true ∨ ∀ c, (coreOf s c).l1w = 0

theorem cachable_false {s : State} {v : View} {via : Bool} (h : uncached s v via) (f : Frag) : (via && cachable s v f) = false := by
  cases via with
  | false => rfl
  | true =>
    rw [Bool.true_and, cachable]
    rcases h rfl with kc | none_
    · simp [kc]
    · cases lineOf s f.place <;> simp [none_]

/-- The bytes that no L1 gives come from the point of coherence. -/
theorem zip_unserved (n : Nat) (b : List Byte) (h : b.length = n) :
    List.zipWith (fun (o : Option Byte) x => o.getD x) (List.replicate n none) b = b := by
  subst h
  induction b with
  | nil => rfl
  | cons x r ih => rw [List.length_cons, List.replicate_succ, List.zipWith_cons_cons, ih]; rfl

theorem heldAt_free {s : State} {p : Place} (h : placeHeld s p = false) : heldAt s p = false := by
  simp only [heldAt, h, Bool.false_and]

/-- One line of a load that no L1 serves and that nothing holds: its parts are read at the point of coherence. -/
theorem loadLine_effect {s : State} {v : View} {via : Bool} {m : Moved} {fs : List Frag} (same : noteless m.s = noteless s)
    (none_ : uncached s v via) (sound : s.memPoison = []) (pos : ∀ f ∈ fs, 0 < f.len) (free : ∀ f ∈ fs, placeHeld s f.place = false) :
    noteless (loadLine v via m fs).s = noteless s ∧ (loadLine v via m fs).bytes = m.bytes ++ fs.map (partRead s v) := by
  cases fs with
  | nil => exact ⟨same, (List.append_nil _).symm⟩
  | cons f r =>
    have direct (g : Frag) : (via && cachable m.s v g) = false :=
      cachable_false ((congrArg (fun x => uncached x v via) same :) ▸ none_) g
    have open_ : heldAt m.s f.place = false :=
      heldAt_free ((congrArg (fun x => placeHeld x f.place) same :).trans (free f List.mem_cons_self))
    have misses : ¬ ((f :: r).all fun g => (List.replicate g.len (none : Option Byte)).all (·.isSome)) = true := by
      have := pos f List.mem_cons_self
      simp [List.all_replicate, Nat.ne_of_gt this]
    have cannot (g : Frag) (h : comesPoisoned m.s g = true) : m.s.linkUp = false := by
      have clean : m.s.memPoison = [] := (congrArg State.memPoison same :).trans sound
      cases place : g.place with
      | dev a => simp [comesPoisoned, place, poisonedPlace, clean] at h
      | remote n a => simp [comesPoisoned, place, poisonedPlace] at h
      | host k a => simpa [comesPoisoned, place] using h
    unfold loadLine
    dsimp only
    rw [direct]
    simp only [Bool.false_eq_true, if_false]
    rw [if_neg misses, if_neg (by rw [open_]; decide)]
    dsimp only
    constructor
    · refine Eq.trans ?_ same
      have touched := noteless_touchPlace m.s (unitGen m.s v.unit) (unitPart m.s v.unit) f.place 0
      generalize hb : List.filter _ (f :: r) = bad
      have down (g : Frag) (rest : List Frag) (h : bad = g :: rest) :
          (touchPlace m.s (unitGen m.s v.unit) (unitPart m.s v.unit) f.place 0).linkUp = false := by
        have here : g ∈ bad := by simp [h]
        rw [← hb] at here
        have poisoned := (Bool.and_eq_true_iff.mp (List.mem_filter.mp here).2).2
        exact (congrArg State.linkUp touched :).trans (cannot g poisoned)
      split
      · exact touched
      · next g rest _ _ _ => exact (noteless_postReport (down g rest rfl) ..).trans touched
      · next g rest _ => exact (noteless_poisonReport (down g rest rfl) ..).trans touched
    · congr 1
      refine List.map_congr_left fun g _ => ?_
      rw [zip_unserved _ _ (readAs_length ..)]
      exact noteless_partRead same v g

/-- What the lines of a load have read, in any order. -/
theorem loadLines_effect {s : State} {v : View} {via : Bool} {fs : List Frag} (none_ : uncached s v via) (sound : s.memPoison = [])
    (pos : ∀ f ∈ fs, 0 < f.len) (free : ∀ f ∈ fs, placeHeld s f.place = false) :
    noteless (loadLines s v via fs).s = noteless s ∧ ∀ b, b ∈ (loadLines s v via fs).bytes ↔ ∃ g ∈ fs, b = partRead s v g := by
  have lines (ls : List Nat) (m : Moved) (same : noteless m.s = noteless s) :
      let t := ls.foldl (fun m l => loadLine v via m (fs.filter fun f => f.va / 128 = l)) m
      noteless t.s = noteless s ∧ t.bytes = m.bytes ++ ls.flatMap fun l => (fs.filter fun f => f.va / 128 = l).map (partRead s v) := by
    induction ls generalizing m with
    | nil => exact ⟨same, (List.append_nil _).symm⟩
    | cons l r ih =>
      obtain ⟨state, bytes⟩ := loadLine_effect (fs := fs.filter fun f => f.va / 128 = l) same none_ sound
        (fun f hf => pos f (List.mem_of_mem_filter hf)) fun f hf => free f (List.mem_of_mem_filter hf)
      obtain ⟨state', bytes'⟩ := ih _ state
      exact ⟨state', by rw [List.foldl_cons, bytes', bytes, List.flatMap_cons, List.append_assoc]⟩
  obtain ⟨state, bytes⟩ := lines (linesOf fs) ⟨s, 0, 0, [], [], [], []⟩ rfl
  refine ⟨state, fun b => ?_⟩
  rw [loadLines, bytes]
  simp only [List.nil_append, List.mem_flatMap, List.mem_map, List.mem_filter, decide_eq_true_eq]
  constructor
  · rintro ⟨l, -, g, ⟨hg, -⟩, rfl⟩
    exact ⟨g, hg, rfl⟩
  · rintro ⟨g, hg, rfl⟩
    exact ⟨g.va / 128, mem_sortBy.mpr (mem_dedup.mpr (List.mem_map.mpr ⟨g, hg, rfl⟩)), g, ⟨hg, rfl⟩, rfl⟩

/-! ## A load issues -/

theorem releaseOn_none {s : State} (h : s.syncLines = []) (p : Place) (n : Nat) : releaseOn s p n = none := by
  cases p <;> simp [releaseOn, h]

theorem scopeFails_none {s : State} (h : s.syncLines = []) (v : View) (accs : Accs) (fs : List Frag) (scope : Option Nat) :
    scopeFails s v accs fs scope = [] := by
  unfold scopeFails
  refine List.filterMap_eq_nil_iff.mpr fun f _ => ?_
  dsimp only
  rw [releaseOn_none h]
  split
  · next none_ => cases none_
  · rfl

/-- Nothing recorded replaces what a launch that does not replay reads. -/
theorem outsideInput_live {s : State} {v : View} (h : Safety.unrecorded s v.unit) (ordinal : Nat) (fs : List Frag)
    (bytes : List (Nat × Nat × List Byte)) : ∃ out, outsideInput s v ordinal fs bytes = (bytes, out, none) := by
  unfold outsideInput
  dsimp only
  split
  · exact ⟨_, rfl⟩
  · split
    · exact ⟨_, rfl⟩
    · next found =>
      obtain ⟨x, hx, there⟩ := Option.bind_eq_some_iff.mp found
      simp [(h x hx).2] at there

section
variable {s : State} {v : View} {accs : Accs} {via : Bool}

/-- A load whose parts the point of coherence gives is counted and sent with the items those make. -/
theorem doLoad_sends (slot : Option Nat) (mk : List (List Byte) → ReqKind) (quiet : Safety.unrecorded s v.unit)
    (off : clocksOn s v.unit = false) (clear : s.syncLines = []) (noHeld : heldOf s v = [])
    (same : noteless (loadLines s v via (fragsOf s v accs)).s = noteless s) :
    ∃ s1 n lost q, (∃ l, s1 = { (loadLines s v via (fragsOf s v accs)).s with lost := l }) ∧
      doLoad s v accs via slot mk = sendReq (countRequest s1 v n lost) q .loadReturn ∧
      q.gid = v.gid ∧ q.slot = slot ∧ s.now ≤ q.due ∧ q.kind = mk (gather accs (loadLines s v via (fragsOf s v accs)).bytes) := by
  have begun : clockLoads s v accs (fragsOf s v accs) = s := by
    rw [clockLoads, off]
    rfl
  unfold doLoad
  simp only [begun, scopeFails_none clear, noHeld]
  generalize loadLines s v via (fragsOf s v accs) = m at same ⊢
  have drawn := drawLost_state m.s v
  generalize drawLost m.s v = d at drawn ⊢
  obtain ⟨lost, s1⟩ := d
  have drawn : ∃ l, s1 = { m.s with lost := l } := drawn
  have quiet1 : Safety.unrecorded s1 v.unit := by
    obtain ⟨l, rfl⟩ := drawn
    exact (iff_of_eq (congrArg (fun x => Safety.unrecorded x v.unit) same :)).mpr quiet
  obtain ⟨out, live⟩ := outsideInput_live quiet1 (((warpOf s1 v.core v.wslot).map (·.reqCount)).getD 0) (fragsOf s v accs) m.bytes
  simp only [live]
  refine ⟨s1, _, _, _, drawn, rfl, rfl, rfl, ?_, ?_⟩
  · refine Nat.le_trans ?_ (Nat.le_max_left ..)
    split
    · exact le_refl _
    · simp only [apertureDue]
      omega
  · exact congrArg mk (List.mapIdx_eq_iff.mpr fun i => by simp [overlay])

/-! ## The parts of an access and its pieces -/

/-- The parts of accesses, by their item, their piece and their line. -/
theorem mem_fragsOf {f : Frag} : f ∈ fragsOf s v accs ↔ ∃ i x, accs[i]? = some x ∧ ∃ p ∈ piecesOf s v x.2.1 x.2.2 false false,
    ∃ pl ord m, p.2.2 = .mem pl ord m ∧ ∃ c ∈ lineCuts p.1 p.2.1, f = ⟨i, c.1 - x.2.1, c.1, c.2, pl.plus (c.1 - p.1), ord⟩ := by
  simp only [fragsOf, List.mem_flatMap, List.mem_mapIdx]
  constructor
  · rintro ⟨y, ⟨i, hi, rfl⟩, p, hp, hf⟩
    refine ⟨i, accs[i], List.getElem?_eq_getElem hi, p, hp, ?_⟩
    cases place : p.2.2 with
    | mem pl ord m =>
      rw [place] at hf
      obtain ⟨c, hc, rfl⟩ := List.mem_map.mp hf
      exact ⟨pl, ord, m, rfl, c, hc, rfl⟩
    | aper | cause | absent | waiting | park => simp [place] at hf
  · rintro ⟨i, x, hx, p, hp, pl, ord, m, place, c, hc, rfl⟩
    obtain ⟨hi, rfl⟩ := List.getElem?_eq_some_iff.mp hx
    refine ⟨(i, accs[i]), ⟨i, hi, rfl⟩, p, hp, ?_⟩
    rw [place]
    exact List.mem_map.mpr ⟨c, hc, rfl⟩

/-- What an access of a context reads at a position of its item: the byte of the piece that holds it. -/
def truth (s : State) (v : View) (va pos : Nat) : Byte :=
  let a := max va ((va + pos) / 65536 * 65536)
  match pieceOf s v a 1 false false with
  | .mem pl _ _ => byteAs s (keyOf s (unitGen s v.unit)) (pl.plus (va + pos - a))
  | _ => 0

theorem truth_of_piece {va n pos : Nat} {p : Nat × Nat × Piece} {pl : Place} {ord m : Nat} (small : va < 2 ^ 64)
    (hp : p ∈ piecesOf s v va n false false) (place : p.2.2 = .mem pl ord m) (low : p.1 ≤ va + pos) (high : va + pos < p.1 + p.2.1) :
    truth s v va pos = byteAs s (keyOf s (unitGen s v.unit)) (pl.plus (va + pos - p.1)) := by
  rw [piecesOf, Nat.mod_eq_of_lt small] at hp
  obtain ⟨⟨a, k⟩, cut, rfl⟩ := List.mem_map.mp hp
  obtain ⟨-, -, -, start⟩ := mem_cutPages cut
  have here := start (va + pos) low high
  have one : pieceOf s v a 1 false false = .mem pl ord m := pieceOf_mem.mpr (pieceOf_mem.mp place)
  simp only [truth, ← here, one]

theorem plus_plus (p : Place) (a b : Nat) : (p.plus a).plus b = p.plus (a + b) := by
  cases p <;> simp [Place.plus, Nat.add_assoc]

theorem pieces_within {va n : Nat} {r w : Bool} {p : Nat × Nat × Piece} (small : va < 2 ^ 64) (hp : p ∈ piecesOf s v va n r w) :
    va ≤ p.1 ∧ p.1 + p.2.1 ≤ va + n := by
  rw [piecesOf, Nat.mod_eq_of_lt small] at hp
  obtain ⟨⟨a, k⟩, cut, rfl⟩ := List.mem_map.mp hp
  obtain ⟨-, low, high, -⟩ := mem_cutPages cut
  exact ⟨low, high⟩

/-- What parts of a load lie in and read: a range inside their item, with the bytes of its pieces. -/
theorem partRead_truth {f : Frag} (small : ∀ x ∈ accs, x.2.1 < 2 ^ 64) (hf : f ∈ fragsOf s v accs) {x : Nat × Nat × Nat}
    (hx : accs[f.idx]? = some x) : f.off + (partRead s v f).2.2.length ≤ x.2.2 ∧
    ∀ t < (partRead s v f).2.2.length, (partRead s v f).2.2[t]? = some (truth s v x.2.1 (f.off + t)) := by
  obtain ⟨i, y, hy, p, hp, pl, ord, m, place, c, hc, rfl⟩ := mem_fragsOf.mp hf
  obtain rfl : y = x := Option.some.inj (hy.symm.trans hx)
  have inRange := small y (List.mem_of_getElem? hy)
  obtain ⟨low, high⟩ := pieces_within inRange hp
  obtain ⟨-, low', high'⟩ := mem_cutLines hc
  have long : (partRead s v ⟨i, c.1 - y.2.1, c.1, c.2, pl.plus (c.1 - p.1), ord⟩).2.2.length = c.2 := readAs_length ..
  rw [long]
  refine ⟨by dsimp only; omega, fun t ht => ?_⟩
  dsimp only
  rw [truth_of_piece inRange hp place (by omega) (by omega), show y.2.1 + (c.1 - y.2.1 + t) - p.1 = c.1 - p.1 + t by omega, ← plus_plus]
  simp only [partRead, readAs_eq_map, List.getElem?_map, List.getElem?_range ht, Option.map_some]

/-- Every position of a piece in memory lies in a part of its item. -/
theorem parts_cover {i : Nat} {x : Nat × Nat × Nat} {p : Nat × Nat × Piece} {pl : Place} {ord m pos : Nat} (hx : accs[i]? = some x)
    (hp : p ∈ piecesOf s v x.2.1 x.2.2 false false) (place : p.2.2 = .mem pl ord m) (low : p.1 ≤ x.2.1 + pos)
    (start : x.2.1 ≤ p.1) (high : x.2.1 + pos < p.1 + p.2.1) :
    ∃ f ∈ fragsOf s v accs, f.idx = i ∧ f.off ≤ pos ∧ pos < f.off + f.len := by
  obtain ⟨c, hc, from_, below⟩ := lineCuts_cover low high
  obtain ⟨-, low', -⟩ := mem_cutLines hc
  refine ⟨_, mem_fragsOf.mpr ⟨i, x, hx, p, hp, pl, ord, m, place, c, hc, rfl⟩, rfl, ?_, ?_⟩
  · dsimp only
    omega
  · dsimp only
    omega

/-- The items of a load hold the bytes of their pieces. -/
theorem gather_reads {bytes : List (Nat × Nat × List Byte)} (small : ∀ x ∈ accs, x.2.1 < 2 ^ 64)
    (reads : ∀ b, b ∈ bytes ↔ ∃ g ∈ fragsOf s v accs, b = partRead s v g) : (gather accs bytes).length = accs.length ∧
    ∀ (i : Nat) (x : Nat × Nat × Nat), accs[i]? = some x → ∃ item : List Byte, (gather accs bytes)[i]? = some item ∧ item.length = x.2.2 ∧
      ∀ p ∈ piecesOf s v x.2.1 x.2.2 false false, ∀ place ord stamp, p.2.2 = .mem place ord stamp →
        ∀ j < p.2.1, item[p.1 - x.2.1 + j]? = some (byteAs s (keyOf s (unitGen s v.unit)) (place.plus j)) := by
  refine ⟨List.length_mapIdx, fun i x hx => ?_⟩
  have inRange := small x (List.mem_of_getElem? hx)
  have part (b : Nat × Nat × List Byte) (hb : b ∈ bytes.filter fun b => b.1 = i) :
      ∃ g ∈ fragsOf s v accs, g.idx = i ∧ b = partRead s v g := by
    obtain ⟨hb, idx⟩ := List.mem_filter.mp hb
    obtain ⟨g, hg, rfl⟩ := (reads b).mp hb
    exact ⟨g, hg, of_decide_eq_true idx, rfl⟩
  obtain ⟨long, get⟩ := putAll_get (F := truth s v x.2.1) (bytes.filter fun b => b.1 = i) (List.replicate x.2.2 0) List.length_replicate
    (fun b hb => by
      obtain ⟨g, hg, rfl, rfl⟩ := part b hb
      exact (partRead_truth small hg hx).1)
    fun b hb => by
      obtain ⟨g, hg, rfl, rfl⟩ := part b hb
      exact (partRead_truth small hg hx).2
  refine ⟨_, ?_, long, fun p hp place ord stamp at_ j hj => ?_⟩
  · rw [gather, List.getElem?_mapIdx, hx]
    rfl
  · obtain ⟨low, high⟩ := pieces_within inRange hp
    rw [get _ (.inr ?_), truth_of_piece inRange hp at_ (by omega) (by omega),
      show x.2.1 + (p.1 - x.2.1 + j) - p.1 = j by omega]
    obtain ⟨f, hf, idx, from_, below⟩ := parts_cover (pos := p.1 - x.2.1 + j) hx hp at_ (by omega) low (by omega)
    refine ⟨partRead s v f, List.mem_filter.mpr ⟨(reads _).mpr ⟨f, hf, rfl⟩, decide_eq_true idx⟩, from_, ?_⟩
    rw [show (partRead s v f).2.2.length = f.len from readAs_length ..]
    exact below

end

theorem view_sendReq {s : State} {q : Req} {i : Instr} {n : Nat} (h : q.slot = some n) : view (sendReq s q i) q.gid =
    (view s q.gid).map fun v => { v with run := { v.run with slots := v.run.slots.mapIdx fun j k => if j = n then k + 1 else k } } := by
  simp only [sendReq, h]
  exact view_modRun (freshNat s).2 q.gid _

theorem tabGet_sendReq (s : State) (q : Req) (i : Instr) : ∃ id, tabGet id (sendReq s q i).reqs = some q :=
  ⟨s.fresh, tabGet_put_same ..⟩

/-- Settles O25: the parts are read at the point of coherence and put together, and the request carries them. -/
theorem loadsReadMemory : Obligations.LoadsReadMemory := by
  intro s v accs via slot mk hv reaches none_ quiet off clear sound small free held t
  have noHeld : heldOf s v = [] := by
    unfold heldOf
    cases region : regionOf s v.gid with
    | none => rfl
    | some r => exact held r region
  have pos : ∀ f ∈ fragsOf s v accs, 0 < f.len := by
    intro f hf
    obtain ⟨i, x, -, p, -, pl, ord, m, -, c, hc, rfl⟩ := mem_fragsOf.mp hf
    exact (mem_cutLines hc).1
  obtain ⟨same, reads⟩ := loadLines_effect none_ sound pos free
  obtain ⟨s1, n, lost, q, ⟨l, state⟩, acts, gid, slot_, due, kind⟩ := doLoad_sends (accs := accs) (via := via) (some slot) mk quiet off clear noHeld same
  obtain ⟨long, items⟩ := gather_reads small reads
  have still : noteless s1 = noteless { s with lost := l } := by
    rw [state]
    exact congrArg (fun x : State => { x with lost := l }) same
  have quiet1 : Safety.unrecorded s1 v.unit := (iff_of_eq (congrArg (fun x => Safety.unrecorded x v.unit) still :)).mpr quiet
  have sent := Safety.sameData_trans (sameData_countRequest quiet1 n lost) (sameData_sendReq _ q .loadReturn)
  have acts : t = _ := acts
  rw [← acts] at sent
  obtain ⟨mem, host, remote, -, -, cores⟩ := sent
  obtain ⟨id, request⟩ := tabGet_sendReq (countRequest s1 v n lost) q .loadReturn
  rw [← acts] at request
  refine ⟨mem.trans (congrArg State.mem still :), host.trans (congrArg State.hostMem still :), remote.trans (congrArg State.remoteMem still :),
    fun c => ?_, ⟨{ v with run := { v.run with slots := v.run.slots.mapIdx fun i n => if i = slot then n + 1 else n } }, ?_, rfl, rfl, rfl⟩, id, q, _, request, gid, slot_, kind, due, long, items⟩
  · obtain ⟨store, acc, -⟩ := cores c
    have core : coreOf s1 c = coreOf s c := (congrArg (fun x => coreOf x c) still :)
    rw [core] at store acc
    exact ⟨store, acc⟩
  · rw [acts, ← gid, view_sendReq slot_, view_countRequest, gid, show view s1 v.gid = view s v.gid from (congrArg (fun x => view x v.gid) still :), hv]
    rfl

end Sys2Proof
end

section
/-! Tiles and their transfers (R104, R105, R279-R281), and O35. -/

namespace Sys2Proof
open Machine

/-! ## Tile entries -/

/-- What the entries of tiles are read from: the units, the tile tables of the cores and the cycle. -/
def tilesOf (s : State) : Tab UnitSt × Nat × (Nat → Tab Word × List (Nat × Nat × Word)) :=
  (s.units, s.now, fun c => ((coreOf s c).tiles, (coreOf s c).tsets))

section
variable {s t : State} (h : tilesOf t = tilesOf s)
include h

theorem tilesOf_units : t.units = s.units := (congrArg (·.1) h :)
theorem tilesOf_now : t.now = s.now := (congrArg (·.2.1) h :)
theorem tilesOf_tiles (c : Nat) : (coreOf t c).tiles = (coreOf s c).tiles := (congrArg (fun x => (x.2.2 c).1) h :)
theorem tilesOf_tsets (c : Nat) : (coreOf t c).tsets = (coreOf s c).tsets := (congrArg (fun x => (x.2.2 c).2) h :)

theorem tilesOf_tileNow (u j : Nat) : tileNow t u j = tileNow s u j := by
  simp only [tileNow, unitOf, tilesOf_units h, tilesOf_tiles h]

theorem tilesOf_tileWord (u j : Nat) : tileWord t u j = tileWord s u j := by
  simp only [tileWord, tilesOf_tileNow h, unitOf, tilesOf_units h, tilesOf_tsets h, tilesOf_now h]

theorem tilesOf_tileState (u j : Nat) : tileState t u j = tileState s u j := by
  simp only [tileState, tilesOf_tileWord h]

end

theorem tilesOf_tasks {s t : State} (h : tasksOf t = tasksOf s) : tilesOf t = tilesOf s := by
  simp only [tilesOf, tasksOf_units h, tasksOf_now h, tasksOf_coreOf h]

theorem tilesOf_modCore {f : Core → Core} (tiles : ∀ k, (f k).tiles = k.tiles) (tsets : ∀ k, (f k).tsets = k.tsets) (s : State) (c : Nat) :
    tilesOf (modCore s c f) = tilesOf s := by
  simp only [tilesOf, coreOf_modCore_field (field := Core.tiles) tiles, coreOf_modCore_field (field := Core.tsets) tsets]
  rfl

theorem tilesOf_modWarp (s : State) (c w : Nat) (f : Warp → Warp) : tilesOf (modWarp s c w f) = tilesOf s :=
  tilesOf_modCore (fun _ => by rfl) (fun _ => by rfl) s c

theorem tilesOf_modRun (s : State) (g : Gid) (f : Run → Run) : tilesOf (modRun s g f) = tilesOf s := by
  cases g with
  | warp c w => exact tilesOf_modWarp ..
  | kindle => rfl

theorem tilesOf_sendReq (s : State) (q : Req) (i : Instr) : tilesOf (sendReq s q i) = tilesOf s := by
  unfold sendReq
  dsimp only
  cases q.slot with
  | none => rfl
  | some n => exact tilesOf_modRun (freshNat s).2 q.gid _

theorem tilesOf_addRounds (s : State) (v : View) (n : Nat) : tilesOf (addRounds s v n) = tilesOf s := by
  unfold addRounds
  split
  · rfl
  · split
    · exact tilesOf_modWarp ..
    · rfl

theorem addRounds_reqs (s : State) (v : View) (n : Nat) : (addRounds s v n).reqs = s.reqs := by
  unfold addRounds
  split
  · rfl
  · split <;> rfl

theorem tilesOf_countRequest (s : State) (v : View) (rounds lost : Nat) : tilesOf (countRequest s v rounds lost) = tilesOf s := by
  unfold countRequest
  dsimp only
  rw [tilesOf_addRounds]
  split
  · exact tilesOf_modWarp ..
  · exact (tilesOf_tasks (tasksOf_capture ..)).trans (tilesOf_modWarp ..)

theorem countRequest_reqs (s : State) (v : View) (rounds lost : Nat) : (countRequest s v rounds lost).reqs = s.reqs := by
  unfold countRequest
  dsimp only
  rw [addRounds_reqs]
  split
  · rfl
  · exact (tasksOf_reqs (tasksOf_capture ..)).trans rfl

/-! ## The state of a tile -/

theorem tileNow_setTile {s : State} {u t e lo : Nat} {x : UnitSt} (hu : unitOf s u = some x) (rising : Safety.rising (coreOf s x.core).tiles lo)
    (small : e < 2 ^ 32) : tileNow (setTile s u t e) u t = e := by
  simp only [setTile, hu]
  rw [tileNow, show unitOf (modCore s x.core _) u = some x from hu]
  simp only [coreOf_modCore]
  rw [tabGetD_set_same _ _ _ rising, BitVec.toNat_ofNat, Nat.mod_eq_of_lt small]

theorem withState_small {e st : Nat} (he : e < 2 ^ 32) (hst : st < 4) : withState e st < 2 ^ 32 := by
  simp only [withState, fld]
  omega

theorem state_withState {e st : Nat} (hst : st < 4) : fld (withState e st) 26 2 = st := by
  simp only [withState, fld]
  omega

theorem tileNow_small (s : State) (u t : Nat) : tileNow s u t < 2 ^ 32 := by
  unfold tileNow
  split
  · exact BitVec.isLt _
  · decide

/-- The entry that instructions see, as an optional older one or the entry as it stands. -/
theorem tileWord_eq {s : State} {u : Nat} {x : UnitSt} (hu : unitOf s u = some x) (t : Nat) : tileWord s u t =
    (((coreOf s x.core).tsets.find? fun y => decide (s.now < y.1) && decide (y.2.1 = x.tileBase + t)).map (·.2.2.toNat)).getD (tileNow s u t) := by
  simp only [tileWord, hu, Option.bind_some]
  cases (coreOf s x.core).tsets.find? fun y => decide (s.now < y.1) && decide (y.2.1 = x.tileBase + t) <;> rfl

/-- An event of Table 4.4 shows in the state that instructions see. -/
theorem tileState_setTileState {s : State} {u t st lo : Nat} {x : UnitSt} (hu : unitOf s u = some x)
    (rising : Safety.rising (coreOf s x.core).tiles lo) (hst : st < 4) : tileState (setTileState s u t st) u t = st := by
  have entry := tileNow_setTile hu rising (withState_small (tileNow_small s u t) hst) (t := t)
  obtain ⟨r, hr, acts⟩ : ∃ r, setTile s u t (withState (tileNow s u t) st) = r ∧ setTileState s u t st =
      modCore r x.core fun k => { k with tsets := k.tsets.map fun y =>
        if y.2.1 = x.tileBase + t then (y.1, y.2.1, BitVec.ofNat 32 (withState y.2.2.toNat st)) else y } := by
    refine ⟨_, rfl, ?_⟩
    simp only [setTileState, hu]
  have place : r = modCore s x.core fun k => { k with tiles := tabSet 0 (x.tileBase + t) (BitVec.ofNat 32 (withState (tileNow s u t) st)) k.tiles } := by
    rw [← hr]
    simp only [setTile, hu]
  have unit_ : unitOf r u = some x := by rw [place]; exact hu
  rw [hr] at entry
  rw [acts, tileState, tileWord_eq (x := x) (by exact unit_)]
  have now_ : tileNow (modCore r x.core fun k => { k with tsets := k.tsets.map fun y =>
      if y.2.1 = x.tileBase + t then (y.1, y.2.1, BitVec.ofNat 32 (withState y.2.2.toNat st)) else y }) u t = withState (tileNow s u t) st := by
    rw [← entry, tileNow, tileNow, show unitOf (modCore r x.core _) u = some x from unit_, unit_]
    simp only [coreOf_modCore]
  rw [now_, coreOf_modCore, List.find?_map]
  cases found : List.find? _ (coreOf r x.core).tsets with
  | none =>
    rw [Option.map_none, Option.map_none, Option.getD_none]
    exact state_withState hst
  | some y =>
    have here := List.find?_some found
    have mine : y.2.1 = x.tileBase + t := by
      by_cases same : y.2.1 = x.tileBase + t
      · exact same
      · simp [same] at here
    have word : (BitVec.ofNat 32 (withState y.2.2.toNat st)).toNat = withState y.2.2.toNat st := by
      rw [BitVec.toNat_ofNat, Nat.mod_eq_of_lt (withState_small (BitVec.isLt y.2.2) hst)]
    rw [Option.map_some, Option.map_some, Option.getD_some, if_pos mine, word]
    exact state_withState hst

/-! ## The lines of a transfer -/

theorem transferLines_reach {s : State} {v : View} {base n : Nat} {r w : Bool} (h : Safety.linesReach s v base n r w) :
    transferLines s v base n r w = .lines ((List.range n).map fun j => (base + 128 * j, pieceOf s v (base + 128 * j) 128 r w)) none := by
  generalize hall : (List.range n).map (fun j => (base + 128 * j, pieceOf s v (base + 128 * j) 128 r w)) = all
  have lies : ∀ x ∈ all, (∃ c a l, x.2 = .aper c a l) ∨ (∃ q o m, x.2 = .mem q o m) ∧
      (w = true → isDeterm s v.unit = true → ownsRange s v.unit x.1 128 = true) := by
    intro x hx
    rw [← hall] at hx
    obtain ⟨j, hj, rfl⟩ := List.mem_map.mp hx
    exact h j (List.mem_range.mp hj)
  have never (p : Piece) (aper : ∀ c a l, p ≠ .aper c a l) (mem : ∀ q o m, p ≠ .mem q o m) : ∀ x ∈ all, ¬ x.2 = p := by
    rintro x hx rfl
    obtain ⟨c, a, l, place⟩ | ⟨⟨q, o, m, place⟩, -⟩ := lies x hx
    · exact aper c a l place
    · exact mem q o m place
  have none_ (p : Piece) (aper : ∀ c a l, p ≠ .aper c a l) (mem : ∀ q o m, p ≠ .mem q o m) : (all.filter fun x => decide (x.2 = p)) = [] :=
    List.filter_eq_nil_iff.mpr fun x hx => by simpa using never p aper mem x hx
  have still : (all.any fun x => decide (x.2 = .waiting)) = false :=
    List.any_eq_false.mpr fun x hx => by simpa using never .waiting (by simp) (by simp) x hx
  unfold transferLines
  simp only [hall, none_ .absent (by simp) (by simp), none_ .park (by simp) (by simp), still]
  refine (if_neg (by decide)).trans ?_
  rw [List.takeWhile_eq_self_iff.mpr ?good]
  case good =>
    intro x hx
    obtain ⟨c, a, l, place⟩ | ⟨⟨q, o, m, place⟩, owned⟩ := lies x hx
    · rw [place]
      rfl
    · rw [place]
      by_cases writes : w = true ∧ isDeterm s v.unit = true
      · simp [owned writes.1 writes.2]
      · have other : (w && isDeterm s v.unit) = false := by simpa using writes
        simp [other]
  rw [List.getElem?_eq_none (le_refl _)]

/-! ## A transfer is sent -/

/-- A transfer that is sent: its slot counts one more, its request is there, tiles stay. -/
theorem sendTransfer_spec {s : State} {v : View} {q : Req} {n : Nat} (hv : view s v.gid = some v) (gid : q.gid = v.gid) (slot : q.slot = some n)
    (lost : Nat) (i : Instr) : tilesOf (sendTransfer s v q lost i) = tilesOf s ∧
    view (sendTransfer s v q lost i) v.gid =
      some { v with run := { v.run with slots := v.run.slots.mapIdx fun j k => if j = n then k + 1 else k } } ∧
    ∃ id, tabGet id (sendTransfer s v q lost i).reqs = some q := by
  have released := tasksOf_aside (aside_release (sendReq s q i) v.unit (agentOf s v (v.act.headD 0)) (obTransfer s.fresh) false)
  refine ⟨?_, ?_, ?_⟩
  · exact (tilesOf_countRequest ..).trans ((tilesOf_tasks released).trans (tilesOf_sendReq ..))
  · have sent := view_sendReq (s := s) (i := i) slot
    rw [gid, hv] at sent
    exact (view_countRequest ..).trans ((tasksOf_view released v.gid).trans sent)
  · obtain ⟨id, found⟩ := tabGet_sendReq s q i
    refine ⟨id, ?_⟩
    rw [sendTransfer, countRequest_reqs, tasksOf_reqs released, found]

theorem sendTransfer_mem {s : State} {v : View} (quiet : Safety.unrecorded s v.unit) (q : Req) (lost : Nat) (i : Instr) :
    (sendTransfer s v q lost i).mem = s.mem := by
  have released := aside_release (sendReq s q i) v.unit (agentOf s v (v.act.headD 0)) (obTransfer s.fresh) false
  have still : Safety.unrecorded (release (sendReq s q i) v.unit (agentOf s v (v.act.headD 0)) (obTransfer s.fresh) false) v.unit := by
    rw [← unrecorded_aside, released, unrecorded_aside]
    exact ((sameData_sendReq s q i).unrecorded v.unit).mpr quiet
  exact (sameData_countRequest still 0 lost).1.trans ((aside_mem released).trans (sameData_sendReq s q i).1)

theorem view_modCore {f : Core → Core} (h : ∀ k, (f k).warps = k.warps) (s : State) (c : Nat) (g : Gid) : view (modCore s c f) g = view s g := by
  cases g with
  | warp d x => simp only [view, warpOf, coreOf_modCore_field (field := Core.warps) h]
  | kindle => rfl

theorem setTileState_groups (s : State) (u t st : Nat) (g : Gid) : view (setTileState s u t st) g = view s g := by
  unfold setTileState setTile
  dsimp only
  split <;> split
  · exact (view_modCore (fun _ => by rfl) ..).trans (view_modCore (fun _ => by rfl) ..)
  · exact view_modCore (fun _ => by rfl) ..
  · exact view_modCore (fun _ => by rfl) ..
  · rfl

theorem setTileState_frame (s : State) (u t st : Nat) : { setTileState s u t st with cores := s.cores } = s := by
  unfold setTileState setTile
  dsimp only
  split <;> split <;> rfl

theorem setTileState_mem (s : State) (u t st : Nat) : (setTileState s u t st).mem = s.mem :=
  (congrArg State.mem (setTileState_frame s u t st) :)

theorem setTileState_unrecorded (s : State) (u t st n : Nat) : Safety.unrecorded (setTileState s u t st) n ↔ Safety.unrecorded s n :=
  iff_of_eq (congrArg (fun x => Safety.unrecorded x n) (setTileState_frame s u t st) :)

theorem aside_scopeReport (s : State) (v : View) (r : SyncLine) (scope line : Nat) : aside (scopeReport s v r scope line) = aside s := by
  unfold scopeReport
  split
  · rfl
  · exact aside_postReport ..

theorem aside_scopeFault (s : State) (v : View) (fails : List (Nat × SyncLine × Nat × Nat)) : aside (scopeFault s v fails).1 = aside s := by
  unfold scopeFault
  split
  · rfl
  · exact aside_scopeReport ..

theorem aside_clockLoads (s : State) (v : View) (accs : Accs) (fs : List Frag) : aside (clockLoads s v accs fs) = aside s := by
  unfold clockLoads
  split
  · rfl
  · refine foldl_same (fun a f => ?_) _ s
    rw [aside_clockRead, aside_raceCheck]
    split
    · exact aside_acquireWords ..
    · rfl

theorem aside_clockStores (s : State) (v : View) (kind : Nat) (lanes : List Nat) (fs : List Frag) :
    aside (clockStores s v kind lanes fs) = aside s := by
  unfold clockStores
  split
  · rfl
  · refine foldl_same (fun a f => ?_) _ s
    refine foldl_same (fun b l => ?_) _ a
    split
    · rw [aside_releaseWords, aside_raceCheck]
    · rw [aside_clockWrite, aside_raceCheck]

theorem aside_acquireLanes (s : State) (v : View) (ob : Nat) (all : Bool) : aside (acquireLanes s v ob all) = aside s :=
  foldl_same (fun _ _ => aside_acquire ..) _ s

/-- What O35 says of a transfer that is sent, of a tile whose state it sets. -/
structure Transferred (s r : State) (v : View) (t st n : Nat) (load : Bool) : Prop where
  state : tileState r v.unit t = st
  counted : ∃ v', view r v.gid = some v' ∧ v'.run.slots = v.run.slots.mapIdx fun j k => if j = n then k + 1 else k
  request : ∃ id q, tabGet id r.reqs = some q ∧ q.gid = v.gid ∧ q.slot = some n ∧ q.isLoad = load ∧ s.now ≤ q.due

theorem transferred_of {s b : State} {v : View} {u : UnitSt} {lo t st n : Nat} (hv : view s v.gid = some v) (hu : unitOf s v.unit = some u)
    (rising : Safety.rising (coreOf s u.core).tiles lo) (cores : b.cores = s.cores) (pools : b.pools = s.pools) (units : b.units = s.units)
    (hst : st < 4) {q : Req} (gid : q.gid = v.gid) (slot : q.slot = some n) (due : s.now ≤ q.due) (lost : Nat) (i : Instr) :
    Transferred s (sendTransfer (setTileState b v.unit t st) v q lost i) v t st n q.isLoad := by
  have hb : view (setTileState b v.unit t st) v.gid = some v := (setTileState_groups ..).trans ((view_congr cores pools v.gid).trans hv)
  obtain ⟨tiles, counted, id, found⟩ := sendTransfer_spec hb gid slot lost i
  refine ⟨?_, ⟨_, counted, rfl⟩, id, q, found, gid, slot, rfl, due⟩
  rw [tilesOf_tileState tiles]
  refine tileState_setTileState (x := u) (lo := lo) ?_ ?_ hst
  · rw [unitOf, units]
    exact hu
  · rw [coreOf, cores]
    exact rising

theorem le_foldl_max (l : List Nat) (a x : Nat) (h : x ≤ a ∨ x ∈ l) : x ≤ l.foldl Nat.max a := by
  induction l generalizing a with
  | nil => exact h.resolve_right (by simp)
  | cons y r ih =>
    refine ih _ ?_
    rcases h with low | here
    · exact .inl (Nat.le_trans low (Nat.le_max_left ..))
    · rcases List.mem_cons.mp here with rfl | later
      · exact .inl (Nat.le_max_right ..)
      · exact .inr later

theorem le_maxOf {l : List Nat} {x : Nat} (h : x ∈ l) : x ≤ maxOf l := le_foldl_max l 0 x (.inr h)

/-- A transfer whose lines are acknowledged no earlier than now returns no earlier than now. -/
theorem transferDue_ge {s : State} {ls : List Line} (h : ∀ l ∈ ls, s.now ≤ l.ackAt) (fault : Option (Nat × Nat)) :
    s.now ≤ transferDue s ls fault := by
  unfold transferDue
  cases ls with
  | nil => simp
  | cons l r =>
    exact Nat.le_trans (Nat.le_trans (h l List.mem_cons_self) (le_maxOf (List.mem_map_of_mem List.mem_cons_self))) (Nat.le_max_left ..)

theorem lineAt_ackAt (n : Nat) (a b : Spot) (lr lw len : Nat) : n ≤ (lineAt n a lr b lw len).ackAt := by
  simp only [lineAt]
  omega

theorem lines_ackAt {s : State} {α : Type} (ls : List α) (f : Nat → α → Line) (h : ∀ j x, s.now + j ≤ (f j x).ackAt) :
    ∀ l ∈ ls.mapIdx f, s.now ≤ l.ackAt := by
  intro l hl
  obtain ⟨j, hj, rfl⟩ := List.mem_mapIdx.mp hl
  exact Nat.le_trans (Nat.le_add_right ..) (h j ls[j])

/-- A fill whose lines all reach: its request is sent with the tile filling. -/
theorem fillTile_sends {s : State} {v : View} {l : BitVec 2} {a : BitVec 6} {t : Nat}
    (reach : Safety.linesReach s v (readK s v.unit a.toNat).toNat (tileSize (tileWord s v.unit t) / 128) true false) :
    ∃ b q lost, fillTile l a t s v = .done (sendTransfer (setTileState b v.unit t 1) v q lost .tileFillEnd) .next 0 ∧
      (∃ c n, aside c = aside s ∧ b = { c with lost := n }) ∧ q.gid = v.gid ∧ q.slot = some l.toNat ∧ q.isLoad = true ∧ s.now ≤ q.due := by
  unfold fillTile
  simp only [transferLines_reach reach]
  obtain ⟨n, drawn⟩ := drawLost_state (clockLoads (scopeFault s v _).1 v [(v.act.headD 0, (readK s v.unit a.toNat).toNat, 0)] _) v
  refine ⟨_, _, _, rfl, ⟨_, n, (aside_clockLoads ..).trans (aside_scopeFault ..), drawn⟩, rfl, rfl, rfl, ?_⟩
  exact transferDue_ge (lines_ackAt _ _ fun j x => lineAt_ackAt ..) _

/-- A drain whose lines all reach, with nothing to wait for: its request is sent with the tile draining. -/
theorem drainTile_sends {s : State} {v : View} {l : BitVec 2} {a : BitVec 6} {t : Nat} (free : releaseWaits s v = false)
    (reach : Safety.linesReach s v (readK s v.unit a.toNat).toNat (tileSize (tileWord s v.unit t) / 128) false true) :
    ∃ b q lost, drainTile l a t s v = .done (sendTransfer (setTileState b v.unit t 3) v q lost .tileDrainEnd) .next 0 ∧
      (∃ c n, aside c = aside (pinLoads s v) ∧ b = { c with lost := n }) ∧ q.gid = v.gid ∧ q.slot = some l.toNat ∧ q.isLoad = false ∧
      s.now ≤ q.due := by
  unfold drainTile
  simp only [transferLines_reach reach, free, Bool.and_false, Bool.false_eq_true, if_false]
  obtain ⟨n, drawn⟩ := drawLost_state (clockStores (acquireLanes (pinLoads s v) v (obTile v.unit t) false) v 3 [v.act.headD 0] _) v
  refine ⟨_, _, _, rfl, ⟨_, n, (aside_clockStores ..).trans (aside_acquireLanes ..), drawn⟩, rfl, rfl, rfl, ?_⟩
  exact transferDue_ge (lines_ackAt _ _ fun j x => lineAt_ackAt ..) _

/-! ## The tests of a transfer -/

theorem unitTiles_eq {s : State} {v : View} {u : UnitSt} (hu : unitOf s v.unit = some u) : unitTiles s v.unit = u.ntiles := by
  simp only [unitTiles, hu, Option.map_some, Option.getD_some]

/-- An entry lies inside the scratch region of its unit. -/
def tileInside (s : State) (v : View) (e : Nat) : Prop := 128 * (e % 2 ^ 13) + 128 * (e / 2 ^ 13 % 2 ^ 9 + 1) ≤ (unitFrame s v.unit).scratch

theorem tilePasses_iff (s : State) (v : View) (e : Nat) : tilePasses s v.unit e = true ↔ ¬ tileInside s v e := by
  simp only [tilePasses, tileInside, tileOffs, tileSize, fld, decide_eq_true_eq, Nat.pow_zero, Nat.div_one]
  omega

section
variable {s : State} {v : View} {u : UnitSt} {a : BitVec 6} {t : Nat} (hu : unitOf s v.unit = some u)
include hu

theorem tileLimit_over (h : u.ntiles ≤ t) : tileLimit s v t = some (precise v cOplim 0x01) := by
  rw [tileLimit, if_pos (by rw [unitTiles_eq hu]; exact h)]

theorem tileLimit_within (h : t < u.ntiles) : tileLimit s v t = none := by
  rw [tileLimit, if_neg (by rw [unitTiles_eq hu]; omega)]

theorem transferTrap_over (h : u.ntiles ≤ t) : transferTrap a t s v = some (precise v cOplim 0x01) := by
  rw [transferTrap, tileLimit_over hu h]
  rfl

theorem transferTrap_extent (h : t < u.ntiles) (out : ¬ tileInside s v (tileWord s v.unit t)) :
    transferTrap a t s v = some (precise v cOplim 0x04) := by
  rw [transferTrap, tileLimit_within hu h, extentTrap, if_pos ((tilePasses_iff ..).mpr out)]
  rfl

theorem transferTrap_align (h : t < u.ntiles) (in_ : tileInside s v (tileWord s v.unit t)) : transferTrap a t s v = alignK s v a 128 := by
  rw [transferTrap, tileLimit_within hu h, extentTrap, if_neg (fun out => (tilePasses_iff ..).mp out in_)]
  rfl

end

/-- The tests of a transfer, and what it closes with once they pass. -/
theorem transfer_issues {i : Instr} {s : State} {v : View} {u : UnitSt} {a : BitVec 6} {t : Nat} {pre : State → View → Option Did}
    {effect : State → View → Did} {ready : Bool} (h : Safety.Issues i s v) (hu : unitOf s v.unit = some u)
    (hx : exec i s = issuePre i s (transferTrap a t) pre effect) (hp : pre s v = if ready then none else some (.wait s (s.now + 1))) :
    let base := (readK s v.unit a.toNat).toNat
    let inside := tileInside s v (tileWord s v.unit t)
    (u.ntiles ≤ t → Safety.Traps i s v 0x0D 0x01 0) ∧ (t < u.ntiles → ¬ inside → Safety.Traps i s v 0x0D 0x04 0) ∧
    (t < u.ntiles → inside → base % 128 ≠ 0 → Safety.Traps i s v 0x14 0 base) ∧
    (t < u.ntiles → inside → base % 128 = 0 → ready = false → Safety.Waits i s v) ∧
    (t < u.ntiles → inside → base % 128 = 0 → ready = true → exec i s = .next (issued i s v (effect s v))) := by
  intro base inside
  have aligned (low : t < u.ntiles) (in_ : inside) (al : base % 128 = 0) : transferTrap a t s v = none :=
    (transferTrap_align hu low in_).trans (alignK_none al)
  refine ⟨fun beyond => h.ownTraps hx (transferTrap_over hu beyond), fun low out => h.ownTraps hx (transferTrap_extent hu low out),
    fun low in_ off => h.ownTraps hx ((transferTrap_align hu low in_).trans (alignK_some off)), fun low in_ al busy => ?_, fun low in_ al idle => ?_⟩
  · exact h.preCloses hx (aligned low in_ al) (by rw [hp, busy]; rfl)
  · exact h.closes hx (aligned low in_ al) (by rw [hp, idle]; rfl)

/-! ## `tset` -/

/-- Entries that instructions see with the write of `tset` among the older ones. -/
def tsetsAfter (s : State) (c i e : Nat) : List (Nat × Nat × Word) :=
  ((coreOf s c).tsets.filter fun y => decide (s.now < y.1)) ++ [(s.now + 4, i, BitVec.ofNat 32 e)]

/-- An entry newer than a cycle is found among those with the write of `tset` where it is found among the older ones, or is that one. -/
theorem find_tsetsAfter (s : State) (c i e n j : Nat) (now_ : s.now ≤ n) :
    (tsetsAfter s c i e).find? (fun y => decide (n < y.1) && decide (y.2.1 = j)) =
      ((coreOf s c).tsets.find? fun y => decide (n < y.1) && decide (y.2.1 = j)).or
        (if n < s.now + 4 ∧ i = j then some (s.now + 4, i, BitVec.ofNat 32 e) else none) := by
  rw [tsetsAfter, List.find?_append, List.find?_filter]
  congr 1
  · congr 1
    funext y
    by_cases later : n < y.1
    · simp [later, Nat.lt_of_le_of_lt now_ later]
    · simp [later]
  · by_cases here : n < s.now + 4 ∧ i = j
    · simp [here]
    · simp only [not_and] at here
      by_cases low : n < s.now + 4
      · simp [low, here low]
      · simp [low]

section
variable {s : State} {v : View} {u : UnitSt} {a : BitVec 6} {t : Nat} (hu : unitOf s v.unit = some u)
include hu

/-- The limits of `tset`, on the entry reduced to 32 bits. -/
theorem tsetTrap_cases : let new := (readK s v.unit a.toNat).toNat % 2 ^ 32
    (u.ntiles ≤ t → tsetTrap a t s v = some (precise v cOplim 0x01)) ∧
    (t < u.ntiles → ¬ tileInside s v new → tsetTrap a t s v = some (precise v cOplim 0x04)) ∧
    (t < u.ntiles → tileInside s v new → new / 2 ^ 26 % 2 = 1 → tsetTrap a t s v = some (precise v cOplim 0x05)) ∧
    (t < u.ntiles → tileInside s v new → new / 2 ^ 26 % 2 = 0 → tsetTrap a t s v = none) := by
  intro new
  have same : tileInside s v (readK s v.unit a.toNat).toNat ↔ tileInside s v new := by
    simp only [tileInside, new]
    omega
  have state : fld (readK s v.unit a.toNat).toNat 26 2 % 2 = new / 2 ^ 26 % 2 := by
    simp only [fld, new]
    omega
  unfold tsetTrap
  dsimp only
  rw [state]
  refine ⟨fun beyond => ?_, fun low out => ?_, fun low in_ odd => ?_, fun low in_ even => ?_⟩
  · rw [tileLimit_over hu beyond]
    rfl
  · rw [tileLimit_within hu low, extentTrap, if_pos ((tilePasses_iff ..).mpr fun in_ => out (same.mp in_))]
    rfl
  · rw [tileLimit_within hu low, extentTrap, if_neg (fun out => (tilePasses_iff ..).mp out (same.mpr in_)), if_pos odd]
    rfl
  · rw [tileLimit_within hu low, extentTrap, if_neg (fun out => (tilePasses_iff ..).mp out (same.mpr in_)), if_neg (by omega)]
    rfl

theorem writeTile_eq (e : Nat) : writeTile s v.unit t e = modCore s u.core fun k =>
    { k with tiles := tabSet 0 (u.tileBase + t) (BitVec.ofNat 32 e) k.tiles, tsets := tsetsAfter s u.core (u.tileBase + t) (tileNow s v.unit t) } := by
  have set_ : setTile s v.unit t e = modCore s u.core fun k => { k with tiles := tabSet 0 (u.tileBase + t) (BitVec.ofNat 32 e) k.tiles } := by
    simp only [setTile, hu]
  have made : writeTile s v.unit t e = modCore (setTile s v.unit t e) u.core fun k =>
      { k with tsets := (k.tsets.filter fun y => decide (s.now < y.1)) ++
        [(s.now + 4, u.tileBase + t, BitVec.ofNat 32 (tileNow s v.unit t))] } := by
    simp only [writeTile, hu]
  rw [made, set_, modCore_modCore]
  rfl

/-- The entry that `tset` leaves: written now, seen from the fourth cycle on; no other entry changes. -/
theorem writeTile_spec {e lo : Nat} (small : e < 2 ^ 32) (rising : Safety.rising (coreOf s u.core).tiles lo)
    (recent : ∀ x ∈ (coreOf s u.core).tsets, x.1 ≤ s.now + 4) : let r := writeTile s v.unit t e
    tileNow r v.unit t = e ∧ (∀ n, s.now + 4 ≤ n → tileWord { r with now := n } v.unit t = tileNow r v.unit t) ∧
    (∀ n, s.now ≤ n → n < s.now + 4 → tileWord { r with now := n } v.unit t = tileWord { s with now := n } v.unit t) ∧
    (∀ j, j ≠ t → tileWord r v.unit j = tileWord s v.unit j) ∧ { r with cores := s.cores } = s := by
  intro r
  have hr : r = _ := writeTile_eq hu e
  have unit_ : unitOf r v.unit = some u := by rw [hr]; exact hu
  have tiles : (coreOf r u.core).tiles = tabSet 0 (u.tileBase + t) (BitVec.ofNat 32 e) (coreOf s u.core).tiles := by rw [hr, coreOf_modCore]
  have tsets : (coreOf r u.core).tsets = tsetsAfter s u.core (u.tileBase + t) (tileNow s v.unit t) := by rw [hr, coreOf_modCore]
  have entry : tileNow r v.unit t = e := by
    simp only [tileNow, unit_, tiles]
    rw [tabGetD_set_same _ _ _ rising, BitVec.toNat_ofNat, Nat.mod_eq_of_lt small]
  have word (n j : Nat) (now_ : s.now ≤ n) : tileWord { r with now := n } v.unit j =
      ((((coreOf s u.core).tsets.find? fun y => decide (n < y.1) && decide (y.2.1 = u.tileBase + j)).or
        (if n < s.now + 4 ∧ u.tileBase + t = u.tileBase + j then some (s.now + 4, u.tileBase + t, BitVec.ofNat 32 (tileNow s v.unit t)) else none)).map
          (·.2.2.toNat)).getD (tileNow r v.unit j) := by
    rw [tileWord_eq (s := { r with now := n }) unit_ j, ← find_tsetsAfter s u.core (u.tileBase + t) (tileNow s v.unit t) n (u.tileBase + j) now_, ← tsets]
    rfl
  have old (n j : Nat) : tileWord { s with now := n } v.unit j = (((coreOf s u.core).tsets.find? fun y =>
      decide (n < y.1) && decide (y.2.1 = u.tileBase + j)).map (·.2.2.toNat)).getD (tileNow s v.unit j) :=
    tileWord_eq (s := { s with now := n }) hu j
  refine ⟨entry, fun n late => ?_, fun n now_ soon => ?_, fun j other => ?_, by rw [hr]; rfl⟩
  · have none_ : ((coreOf s u.core).tsets.find? fun y => decide (n < y.1) && decide (y.2.1 = u.tileBase + t)) = none :=
      List.find?_eq_none.mpr fun y hy => by
        have := recent y hy
        simp [show ¬ n < y.1 by omega]
    rw [word n t (by omega), none_, if_neg (by omega)]
    rfl
  · rw [word n t now_, old n t, if_pos ⟨soon, rfl⟩]
    cases (coreOf s u.core).tsets.find? fun y => decide (n < y.1) && decide (y.2.1 = u.tileBase + t) with
    | some y => rfl
    | none =>
      rw [Option.none_or, Option.map_some, Option.getD_some, BitVec.toNat_ofNat, Nat.mod_eq_of_lt (tileNow_small ..)]
      rfl
  · have kept : tileNow r v.unit j = tileNow s v.unit j := by
      simp only [tileNow, unit_, hu, tiles]
      rw [tabGetD_set_other _ _ _ (by omega)]
    have now_ : r.now = s.now := by rw [hr]; rfl
    rw [show tileWord r v.unit j = tileWord { r with now := s.now } v.unit j by rw [← now_], word s.now j (le_refl _), kept,
      if_neg (by omega), Option.or_none]
    exact (old s.now j).symm

end

theorem acquireLanes_off {s : State} {v : View} (off : clocksOn s v.unit = false) (ob : Nat) (all : Bool) : acquireLanes s v ob all = s := by
  refine foldl_keeps (P := fun t => t = s) (fun t l same => ?_) _ rfl
  rw [same, acquire, off]
  rfl

theorem lines_size (e : Nat) : tileSize e / 128 = e / 2 ^ 13 % 2 ^ 9 + 1 := by
  simp only [tileSize, fld]
  omega

/-- MAJ of `tset` (R183). -/
theorem majorOf_tset (a : BitVec 6) (t : BitVec 8) (w : BitVec 1) : majorOf (.tset a t w) = 0x29 := by
  have ha := a.isLt
  have ht := t.isLt
  have hw := w.isLt
  simp only [majorOf, instrLength, encodeWord, if_true]
  omega

/-- Settles O35: the tests in their order, and what a transfer and a write of an entry leave. -/
theorem tileInstructions : Obligations.TileInstructions := by
  intro l a d t w s v u hu home rising recent e base new inside sent moves
  refine ⟨fun h _ => ?_, fun h free => ?_, fun h => ?_, fun h => ?_⟩
  · obtain ⟨beyond, out, off, busy, go⟩ := transfer_issues (i := .tget l a t w) h hu rfl rfl
    refine ⟨beyond, out, off, busy, fun low in_ al idle reach => ?_⟩
    rw [← lines_size] at reach
    obtain ⟨b, q, lost, acts, ⟨c, n, noted, rfl⟩, gid, slot, load, due⟩ := fillTile_sends (l := l) reach
    have close := (go low in_ al idle).trans (by rw [acts])
    have sent_ := transferred_of (b := { c with lost := n }) (t := t.toNat) (st := 1) h.group hu (home ▸ rising)
      (congrArg State.cores noted :) (congrArg State.pools noted :) (congrArg State.units noted :) (by decide) gid slot due lost .tileFillEnd
    obtain ⟨state, counted, id, r, found, rgid, rslot, rload, rdue⟩ := sent_
    refine ⟨_, close, state, counted, ⟨id, r, found, rgid, rslot, rload.trans load, rdue⟩, fun _ quiet => ?_⟩
    have still : Safety.unrecorded (setTileState { c with lost := n } v.unit t.toNat 1) v.unit := by
      rw [setTileState_unrecorded]
      have noted_ : Safety.unrecorded c v.unit := by rw [← unrecorded_aside, noted, unrecorded_aside]; exact quiet
      exact noted_
    rw [sendTransfer_mem still, setTileState_mem]
    exact (congrArg State.mem noted :)
  · obtain ⟨beyond, out, off, busy, go⟩ := transfer_issues (i := .tdrn l a t w) h hu rfl rfl
    refine ⟨beyond, out, off, busy, fun low in_ al idle reach => ?_⟩
    rw [← lines_size] at reach
    obtain ⟨b, q, lost, acts, ⟨c, n, noted, rfl⟩, gid, slot, load, due⟩ :=
      drainTile_sends (l := l) (free.resolve_left (by decide)) reach
    have close := (go low in_ al idle).trans (by rw [acts])
    have sent_ := transferred_of (b := { c with lost := n }) (t := t.toNat) (st := 3) h.group hu (home ▸ rising)
      (congrArg State.cores noted :) (congrArg State.pools noted :) (congrArg State.units noted :) (by decide) gid slot due lost .tileDrainEnd
    obtain ⟨state, counted, id, r, found, rgid, rslot, rload, rdue⟩ := sent_
    exact ⟨_, close, state, counted, ⟨id, r, found, rgid, rslot, rload.trans load, rdue⟩, fun no => by cases no⟩
  · obtain ⟨limit, extent, state, none_⟩ := tsetTrap_cases (a := a) (t := t.toNat) hu
    refine ⟨fun beyond => h.ownTraps (i := .tset a t w) rfl (limit beyond), fun low out => h.ownTraps (i := .tset a t w) rfl (extent low out),
      fun low in_ odd => h.ownTraps (i := .tset a t w) rfl (state low in_ odd),
      fun low in_ even busy => h.preCloses (i := .tset a t w) rfl (none_ low in_ even) (if_pos busy), fun low in_ even idle => ?_⟩
    have warp : v.kc = false := Bool.not_eq_true _ |>.mp fun kc =>
      absurd (h.available kc) (by rw [majorOf_tset]; decide)
    have gid : v.gid = .warp v.core v.wslot := by
      obtain ⟨-, gid, -⟩ | ⟨kc, -⟩ := view_cases h.group
      · exact gid
      · rw [warp] at kc
        cases kc
    have small : new - new / 2 ^ 22 % 2 ^ 4 * 2 ^ 22 < 2 ^ 32 := by
      simp only [new]
      omega
    obtain ⟨entry, late, soon, others, frame⟩ := writeTile_spec hu (t := t.toNat) small (home ▸ rising) (home ▸ recent)
    generalize hx : writeTile s v.unit t.toNat (new - new / 2 ^ 22 % 2 ^ 4 * 2 ^ 22) = x at entry late soon others frame
    obtain ⟨f, hf⟩ : ∃ f : Run → Run, exec (.tset a t w) s = .next (advance (.tset a t w) (modRun x v.gid f) v .next 0) :=
      ⟨_, (h.closes (i := .tset a t w) rfl (none_ low in_ even) (if_neg (by omega))).trans (by rw [← hx]; rfl)⟩
    have same := tilesOf_modRun x v.gid f
    have at_ (n : Nat) : tilesOf { modRun x v.gid f with now := n } = tilesOf { x with now := n } := by
      rw [gid]
      exact tilesOf_modWarp { x with now := n } ..
    refine ⟨_, hf, (tilesOf_tileNow same ..).trans entry, fun n hn => ?_, fun n low_ high => ?_, fun j other => ?_, ?_⟩
    · rw [tilesOf_tileWord (at_ n), tilesOf_tileNow same]
      exact late n hn
    · rw [tilesOf_tileWord (at_ n)]
      exact soon n low_ high
    · rw [tilesOf_tileWord same]
      exact others j other
    · rw [gid]
      exact frame
  · refine ⟨fun beyond => h.ownTraps (i := .tstat d t w) rfl (tileLimit_over hu beyond), fun low off => ?_⟩
    have plain_ : (if tileState s v.unit t.toNat = 0 then acquireLanes s v (obTile v.unit t.toNat) false else s) = s := by
      split
      · exact acquireLanes_off off ..
      · rfl
    refine ⟨_, (h.closes (i := .tstat d t w) rfl (tileLimit_within hu low) rfl).trans ?_, Safety.setsUniform_of h.group d _⟩
    exact congrArg (fun b => Host.Outcome.next (advance (.tstat d t w) (pendK b v (kLat v) d.toNat (BitVec.ofNat 64 e)) v .next 0)) plain_

end Sys2Proof
end

section
/-! Engine commands at issue (R142, R283, R284, R286, R292, R404): the queue of the engine of a core and what a queued command carries. -/

namespace Sys2Proof
open Machine

theorem bit_getLsbD {n : Nat} (x : BitVec n) (i : Nat) : Machine.bit x.toNat i = x.getLsbD i := (Nat.testBit_eq_decide_div_mod_eq ..).symm

/-- Numbers of the commands in the queue of an engine. -/
def queueOf (s : State) (e : Nat) : List Nat := ((tabGet e s.engines).map (·.queue)).getD []

theorem queue_engineAt (s : State) (e : Nat) : (engineAt s e).queue = queueOf s e := by
  unfold engineAt tabGetD queueOf
  cases tabGet e s.engines <;> rfl

/-- What neither a count of a slot nor a clock changes of a command that is queued. -/
def queuedOf (s : State) : Tab Engine × Tab Cmd × Memory × Tab UnitSt := (s.engines, s.cmds, s.mem, s.units)

theorem queuedOf_aside {s t : State} (h : aside t = aside s) : queuedOf t = queuedOf s := (congrArg queuedOf h :)

theorem queuedOf_slotAdd (s : State) (g : Gid) (n : Nat) : queuedOf (slotAdd s g n) = queuedOf s :=
  (congrArg queuedOf (groupless_modRun s g _) :)

/-- A slot of the group of a view counts one more. -/
theorem view_slotAdd {s : State} {g : Gid} {v : View} (hv : view s g = some v) (n : Nat) : view (slotAdd s g n) g =
    some { v with run := { v.run with slots := v.run.slots.mapIdx fun j k => if j = n then k + 1 else k } } := by
  rw [slotAdd, view_modRun, hv]
  rfl

theorem aside_releases (s : State) (u : Nat) (agent : Nat → Nat) (ob : Nat) (lanes : List Nat) :
    aside (lanes.foldl (fun a x => release a u (agent x) ob true) s) = aside s :=
  foldl_same (fun _ _ => aside_release ..) _ s

/-- A queued command: its engine has it last, and no byte and no unit changes. -/
structure Queued (s t : State) (c : Cmd) (id : Nat) : Prop where
  queue : queueOf t c.engine = queueOf s c.engine ++ [id]
  command : tabGet id t.cmds = some c
  mem : t.mem = s.mem
  units : t.units = s.units

theorem Queued.of_same {s t r : State} {c : Cmd} {id : Nat} (h : Queued s t c id) (same : queuedOf r = queuedOf t) : Queued s r c id where
  queue := (congrArg (fun x : Tab Engine × Tab Cmd × Memory × Tab UnitSt => ((tabGet c.engine x.1).map (·.queue)).getD []) same :).trans h.queue
  command := (congrArg (fun x : Tab Engine × Tab Cmd × Memory × Tab UnitSt => tabGet id x.2.1) same :).trans h.command
  mem := (congrArg (·.2.2.1) same :).trans h.mem
  units := (congrArg (·.2.2.2) same :).trans h.units

theorem enqueue_queues (s : State) (c : Cmd) : Queued s (enqueue s c).1 c (enqueue s c).2 where
  queue := by
    show ((tabGet c.engine (tabPut c.engine _ _)).map _).getD [] = _
    rw [tabGet_put_same, ← queue_engineAt]
    rfl
  command := tabGet_put_same ..
  mem := rfl
  units := rfl

/-- The slots that a command counts at issue (R283, R287). -/
def slotsCounted (s : State) (g : Gid) (c : Cmd) : State :=
  match c.follow with
  | some n => slotAdd (slotAdd s g c.slot) g n
  | none => slotAdd s g c.slot

theorem queuedOf_slotsCounted (s : State) (g : Gid) (c : Cmd) : queuedOf (slotsCounted s g c) = queuedOf s := by
  unfold slotsCounted
  split
  · exact (queuedOf_slotAdd ..).trans (queuedOf_slotAdd ..)
  · exact queuedOf_slotAdd ..

theorem view_slotsCounted {s : State} {v : View} (hv : view s v.gid = some v) (c : Cmd) : ∃ v', view (slotsCounted s v.gid c) v.gid = some v' ∧
    v'.pc = v.pc ∧ (c.follow = none → v'.run = { v.run with slots := v.run.slots.mapIdx fun j n => if j = c.slot then n + 1 else n }) := by
  unfold slotsCounted
  split
  · next n follow =>
    refine ⟨_, view_slotAdd (view_slotAdd hv c.slot) n, rfl, fun no => ?_⟩
    rw [follow] at no
    cases no
  · exact ⟨_, view_slotAdd hv c.slot, rfl, fun _ => rfl⟩

/-- A command is queued, after what its source tile acquires and before what it releases. -/
theorem queueCmd_stages (op l ka kb kc : Nat) (s : State) (v : View) : ∃ b, aside b = aside s ∧
    aside (queueCmd op l ka kb kc s v) =
      aside (slotsCounted (enqueue b (newCmd s v op l ka kb kc)).1 v.gid (newCmd s v op l ka kb kc)) := by
  refine ⟨if (newCmd s v op l ka kb kc).stile && (newCmd s v op l ka kb kc).sourceTile < unitTiles s v.unit then
    acquireLanes s v (obTile v.unit (newCmd s v op l ka kb kc).sourceTile) false else s, ?_, ?_⟩
  · split
    · exact aside_acquireLanes ..
    · rfl
  · unfold queueCmd
    dsimp only
    split
    · exact aside_releases ..
    · rfl

theorem queueCmd_queues (op l ka kb kc : Nat) (s : State) (v : View) :
    ∃ id, Queued s (queueCmd op l ka kb kc s v) (newCmd s v op l ka kb kc) id := by
  obtain ⟨b, noted, last⟩ := queueCmd_stages op l ka kb kc s v
  have first := queuedOf_aside noted
  have q := (enqueue_queues b (newCmd s v op l ka kb kc)).of_same ((queuedOf_aside last).trans (queuedOf_slotsCounted ..))
  obtain ⟨queue, command, mem, units⟩ := q
  exact ⟨_, queue.trans (congrArg (fun x : Tab Engine × Tab Cmd × Memory × Tab UnitSt =>
    ((tabGet _ x.1).map (·.queue)).getD [] ++ _) first :), command, mem.trans (aside_mem noted), units.trans (congrArg (·.2.2.2) first :)⟩

theorem view_queueCmd (op l ka kb kc : Nat) {s : State} {v : View} (hv : view s v.gid = some v) :
    ∃ v', view (queueCmd op l ka kb kc s v) v.gid = some v' ∧ v'.pc = v.pc ∧ ((newCmd s v op l ka kb kc).follow = none →
      v'.run = { v.run with slots := v.run.slots.mapIdx fun j n => if j = l then n + 1 else n }) := by
  obtain ⟨b, noted, last⟩ := queueCmd_stages op l ka kb kc s v
  have group : view (enqueue b (newCmd s v op l ka kb kc)).1 v.gid = some v :=
    (view_congr (s := b) rfl rfl v.gid).trans ((tasksOf_view (tasksOf_aside noted) v.gid).trans hv)
  obtain ⟨v', found, rest⟩ := view_slotsCounted group (newCmd s v op l ka kb kc)
  exact ⟨v', (tasksOf_view (tasksOf_aside last) v.gid).trans found, rest⟩

/-! ## Tests at issue -/

section
variable {op l ka kb kc : Nat} {s : State} {v : View}

theorem cpyTrap_none (h : op = 0 ∧ (readK s v.unit ka).getLsbD 58 = true → v.act = vlanes s v) : cpyTrap op ka s v = none := by
  unfold cpyTrap
  rw [bit_getLsbD]
  refine if_neg fun c => ?_
  simp only [Bool.and_eq_true, decide_eq_true_eq, bne_iff_ne] at c
  exact c.2 (h c.1)

theorem cpyTrap_partial (follows : (readK s v.unit ka).getLsbD 58 = true) (part : v.act ≠ vlanes s v) :
    cpyTrap 0 ka s v = some (precise v cPmask (maskOf v.act).toNat) := by
  unfold cpyTrap
  rw [bit_getLsbD, follows]
  exact if_pos (by simpa using part)

/-- The source of a command is a tile that is not ready (R105, R286). -/
def unreadyTile (op ka kb kc : Nat) (s : State) (v : View) : Prop :=
  (op = 0 ∨ op = 2) ∧ (readK s v.unit ka).getLsbD 42 = true ∧
  (if op = 2 then (readK s v.unit kc).toNat else (readK s v.unit kb).toNat) % 256 < unitTiles s v.unit ∧
  tileState s v.unit ((if op = 2 then (readK s v.unit kc).toNat else (readK s v.unit kb).toNat) % 256) ≠ 2

theorem sourceTile_newCmd (l' : Nat) : (newCmd s v op l' ka kb kc).sourceTile =
    (if op = 2 then (readK s v.unit kc).toNat else (readK s v.unit kb).toNat) % 256 := by
  show (if op = 2 then _ else _) = _
  split <;> rfl

theorem engine_newCmd : (newCmd s v op l ka kb kc).engine = v.core / 288 * 4 + v.core / 24 % 12 % 4 := rfl

theorem cmdPre_eq : cmdPre op ka kb kc s v =
    if 64 ≤ (queueOf s (v.core / 288 * 4 + v.core / 24 % 12 % 4)).length then some (.wait s (s.now + 1))
    else if (newCmd s v op 0 ka kb kc).stile && (newCmd s v op 0 ka kb kc).sourceTile < unitTiles s v.unit &&
      tileState s v.unit (newCmd s v op 0 ka kb kc).sourceTile != 2 then some (.wait s (s.now + 1))
    else none := by
  unfold cmdPre
  dsimp only
  rw [queue_engineAt, engine_newCmd]

theorem tileTest_iff : ((newCmd s v op 0 ka kb kc).stile && (newCmd s v op 0 ka kb kc).sourceTile < unitTiles s v.unit &&
      tileState s v.unit (newCmd s v op 0 ka kb kc).sourceTile != 2) = true ↔ unreadyTile op ka kb kc s v := by
  rw [sourceTile_newCmd, show (newCmd s v op 0 ka kb kc).stile = ((op == 0 || op == 2) && (readK s v.unit ka).getLsbD 42) from
    congrArg _ (bit_getLsbD ..)]
  simp [unreadyTile, and_assoc]

theorem cmdPre_waits (h : 64 ≤ (queueOf s (v.core / 288 * 4 + v.core / 24 % 12 % 4)).length ∨ unreadyTile op ka kb kc s v) :
    cmdPre op ka kb kc s v = some (.wait s (s.now + 1)) := by
  rw [cmdPre_eq]
  split
  · rfl
  · next room => exact if_pos (tileTest_iff.mpr (h.resolve_left room))

theorem cmdPre_passes (room : (queueOf s (v.core / 288 * 4 + v.core / 24 % 12 % 4)).length < 64) (ready : ¬ unreadyTile op ka kb kc s v) :
    cmdPre op ka kb kc s v = none := by
  rw [cmdPre_eq, if_neg (Nat.not_le.mpr room), if_neg (mt tileTest_iff.mp ready)]

end

theorem follow_newCmd {op l ka kb kc : Nat} {s : State} {v : View} (h : ¬ (op = 0 ∧ (readK s v.unit ka).getLsbD 58 = true)) :
    (newCmd s v op l ka kb kc).follow = none := by
  refine if_neg fun c => h ?_
  change (decide (op = 0) && Machine.bit (readK s v.unit ka).toNat 58) = true at c
  rw [bit_getLsbD] at c
  simpa using c

/-- An engine command waits for room and for its tile, and is queued. -/
theorem engineCmd_issues {i : Instr} {op l ka kb kc : Nat} {s : State} {v : View} (hx : exec i s = engineCmd i op l ka kb kc s)
    (h : Safety.Issues i s v) (whole : op = 0 ∧ (readK s v.unit ka).getLsbD 58 = true → v.act = vlanes s v) :
    let e := v.core / 288 * 4 + v.core / 24 % 12 % 4
    (64 ≤ (queueOf s e).length → Safety.Waits i s v) ∧ (unreadyTile op ka kb kc s v → Safety.Waits i s v) ∧
    ((queueOf s e).length < 64 → ¬ unreadyTile op ka kb kc s v → ∃ t id x, Safety.Goes i s v t .next 0 ∧ queueOf t e = queueOf s e ++ [id] ∧
      tabGet id t.cmds = some x ∧ x.op = op ∧ x.ctl = readK s v.unit ka ∧ x.src = (readK s v.unit kb).toNat ∧
      x.dst = (readK s v.unit kc).toNat ∧ x.slot = l ∧ x.core = v.core ∧ x.ipc = v.pc ∧ x.phase = 0 ∧ t.mem = s.mem ∧ t.units = s.units ∧
      ∃ v', view t v.gid = some v' ∧ v'.pc = v.pc ∧ (¬ (op = 0 ∧ (readK s v.unit ka).getLsbD 58 = true) →
        v'.run = { v.run with slots := v.run.slots.mapIdx fun j n => if j = l then n + 1 else n })) := by
  intro e
  refine ⟨fun full => h.preWaits hx (cpyTrap_none whole) (cmdPre_waits (.inl full)),
    fun tile => h.preWaits hx (cpyTrap_none whole) (cmdPre_waits (.inr tile)), fun room ready => ?_⟩
  obtain ⟨id, queue, command, mem, units⟩ := queueCmd_queues op l ka kb kc s v
  obtain ⟨v', found, pc, run⟩ := view_queueCmd op l ka kb kc h.group
  exact ⟨_, id, _, h.closes hx (cpyTrap_none whole) (cmdPre_passes room ready), queue, command, rfl, rfl, rfl, rfl, rfl, rfl, rfl, rfl, mem,
    units, v', found, pc, fun no => run (follow_newCmd no)⟩

/-- Settles O36: a full queue and a tile that is not ready are waited for, and the command is queued as its operands are at issue. -/
theorem engineCommandsQueue : Obligations.EngineCommandsQueue := by
  intro l a b c w s v e queue ctl K follows source command
  refine ⟨fun h => engineCmd_issues rfl h, fun h => engineCmd_issues rfl h, fun h => engineCmd_issues rfl h, fun h => engineCmd_issues rfl h,
    fun h => engineCmd_issues rfl h, fun h follow part => h.ownTraps (i := .cpy l c b a w) rfl (cpyTrap_partial follow part), fun h => ?_⟩
  intro m word
  have goes : Safety.Goes (.collStat l c a w) s v (sendReq s (Req.mk' s v (some l.toNat) (.kval c.toNat (BitVec.ofNat 64 (statusWord
      (commOf s (unitPart s v.unit) (fld (readK s v.unit a.toNat).toNat 0 4))))) (s.now + 8)) .loadReturn) .next 0 :=
    h.closes (i := .collStat l c a w) rfl rfl rfl
  rw [show fld (readK s v.unit a.toNat).toNat 0 4 = (readK s v.unit a.toNat).toNat % 16 by simp [fld]] at goes
  have word_ : statusWord m = word := rfl
  rw [word_] at goes
  obtain ⟨id, found⟩ := tabGet_sendReq s (Req.mk' s v (some l.toNat) (.kval c.toNat (BitVec.ofNat 64 word)) (s.now + 8)) .loadReturn
  exact ⟨_, id, _, goes, found, rfl, rfl, rfl, (sameData_sendReq ..).1⟩

end Sys2Proof
end

section
/-! The array at issue (R105, R305, R306, R399, R405): the tests of its instructions, and the work of a core under a request. -/

namespace Sys2Proof
open Machine

/-! ## What an acquire at issue changes -/

/-- Nothing but vector clocks differs. -/
def onlyClocks (s t : State) : Prop := t = { s with clocks := t.clocks }

theorem onlyClocks_trans {s t r : State} (h : onlyClocks s t) (k : onlyClocks t r) : onlyClocks s r := by
  rw [onlyClocks] at h k ⊢
  rw [k, h]

theorem onlyClocks_foldl {α : Type} {f : State → α → State} (h : ∀ s x, onlyClocks s (f s x)) (l : List α) (s : State) :
    onlyClocks s (l.foldl f s) :=
  foldl_keeps (P := onlyClocks s) (fun _ x kept => onlyClocks_trans kept (h _ x)) l rfl

theorem onlyClocks_joinClock (s : State) (dst src : Nat) : onlyClocks s (joinClock s dst src) := by
  refine onlyClocks_foldl (fun t e => ?_) _ s
  dsimp only
  split <;> rfl

theorem onlyClocks_acquire (s : State) (u agent ob : Nat) (all : Bool) : onlyClocks s (acquire s u agent ob all) := by
  unfold acquire
  split
  · rfl
  · dsimp only
    split
    · exact onlyClocks_trans (onlyClocks_joinClock ..) (onlyClocks_joinClock ..)
    · exact onlyClocks_joinClock ..

theorem onlyClocks_acquireLanes (s : State) (v : View) (ob : Nat) (all : Bool) : onlyClocks s (acquireLanes s v ob all) :=
  onlyClocks_foldl (fun _ _ => onlyClocks_acquire ..) _ s

theorem onTiles_clocks (tiles : State → View → List Nat) (go : State → View → State) (s : State) (v : View) :
    ∃ c, onTiles tiles go s v = go { s with clocks := c } v :=
  ⟨_, congrArg (go · v) (onlyClocks_foldl (fun _ t => onlyClocks_acquireLanes _ v (obTile v.unit t) false) (tiles s v) s)⟩

/-! ## OPLIM by codes -/

/-- Tests of the model that hold exactly where the conditions of Table 16.3 do, under the same codes. -/
def tests (limits : List (Nat × Prop)) (l : List (Nat × Bool)) : Prop := List.Forall₂ (fun x y => x.1 = y.1 ∧ (y.2 = true ↔ x.2)) limits l

theorem limitTrap_within {v : View} {limits : List (Nat × Prop)} {l : List (Nat × Bool)} (same : tests limits l) (h : Safety.within limits) :
    limitTrap v l = none := by
  induction same with
  | nil => rfl
  | @cons x y xs ys xy _ ih =>
    have no : y.2 = false := Bool.not_eq_true _ |>.mp fun on => h x List.mem_cons_self (xy.2.mp on)
    rw [limitTrap, List.find?_cons_of_neg (by rw [no]; decide)]
    exact ih fun z hz => h z (List.mem_cons_of_mem x hz)

theorem limitTrap_first {v : View} {l : List (Nat × Bool)} {c : Nat} {p : Prop} {after : List (Nat × Prop)} (hp : p) :
    ∀ {before : List (Nat × Prop)}, tests (before ++ (c, p) :: after) l → (∀ x ∈ before, ¬ x.2) → limitTrap v l = some (precise v cOplim c) := by
  intro before
  induction before generalizing l with
  | nil =>
    rintro (_ | @⟨_, y, _, _, xy, _⟩) -
    rw [limitTrap, List.find?_cons_of_pos (xy.2.mpr hp), Option.map_some, ← xy.1]
  | cons x xs ih =>
    rintro (_ | @⟨_, y, _, ys, xy, rest⟩) no
    have off : y.2 = false := Bool.not_eq_true _ |>.mp fun on => no x List.mem_cons_self (xy.2.mp on)
    rw [limitTrap, List.find?_cons_of_neg (by rw [off]; decide)]
    exact ih rest fun z hz => no z (List.mem_cons_of_mem x hz)

/-! ## The lease -/

theorem leaseWait_free {s : State} {v : View} (h : Safety.leaseFree s v) : leaseWait s v = none := by
  unfold leaseWait
  refine if_pos ?_
  rw [Bool.or_eq_true, Bool.and_eq_true]
  refine h.imp (fun own => decide_eq_true own) fun ⟨none_, first⟩ => ⟨by rw [none_]; rfl, ?_⟩
  change ∀ e rest, leaseLine s v.core = e :: rest → e.unit = v.unit at first
  cases hl : leaseLine s v.core with
  | nil => rfl
  | cons e rest => exact decide_eq_true (first e rest hl)

theorem leaseWait_taken {s : State} {v : View} (h : ¬ Safety.leaseFree s v) :
    ∃ t, leaseWait s v = some t ∧ ∃ e ∈ (coreOf t v.core).leaseQ, e.serial = v.serial ∧ e.pc = v.pc := by
  unfold leaseWait
  dsimp only
  rw [if_neg]
  · split
    · next found =>
      obtain ⟨e, he, at_⟩ := List.any_eq_true.mp found
      simp only [Bool.and_eq_true, decide_eq_true_eq] at at_
      exact ⟨s, rfl, e, he, at_.1⟩
    · refine ⟨_, rfl, ⟨s.now, v.wslot, v.serial, v.unit, v.pc⟩, ?_, rfl, rfl⟩
      rw [coreOf_modCore]
      exact List.mem_append_right _ List.mem_cons_self
  · intro free
    rw [Bool.or_eq_true, Bool.and_eq_true] at free
    refine h (free.imp of_decide_eq_true fun ⟨none_, first⟩ => ⟨Option.isNone_iff_eq_none.mp none_, fun e rest line => ?_⟩)
    change leaseLine s v.core = e :: rest at line
    rw [line] at first
    exact of_decide_eq_true first

/-! ## The tests in their order -/

theorem mixTrap_some {s : State} {v : View} {tiles : List Nat} {st : Nat} (mixed : mixedStamp s v.unit tiles = some st)
    (on : ∃ l ∈ v.act, trapEnabled s v 1 l = true) : mixTrap s v tiles = some (precise v cCmix (contractNo s v.unit + 16 * st)) := by
  rw [mixTrap, mixed]
  exact if_pos (List.any_eq_true.mpr on)

theorem mixTrap_none {s : State} {v : View} {tiles : List Nat}
    (off : ∀ st, mixedStamp s v.unit tiles = some st → ∀ l ∈ v.act, trapEnabled s v 1 l = false) : mixTrap s v tiles = none := by
  unfold mixTrap
  split
  · next st mixed =>
    refine if_neg fun on => ?_
    obtain ⟨l, hl, enabled⟩ := List.any_eq_true.mp on
    rw [off st mixed l hl] at enabled
    cases enabled
  · rfl

theorem arrayPre_ready {tiles : State → View → List Nat} {lease : Bool} {s : State} {v : View} (ready : ∀ t ∈ tiles s v, tileState s v.unit t = 2)
    (free : lease = true → Safety.leaseFree s v) : arrayPre tiles lease s v =
    if storesOpen s v then some (.wait s (s.now + 1)) else (mixTrap s v (tiles s v)).map .trap := by
  have held : (if lease = true then leaseWait s v else none) = none := by
    split
    · next on => exact leaseWait_free (free on)
    · rfl
  unfold arrayPre
  rw [if_neg, held]
  · dsimp only
    unfold storesPre
    cases storesOpen s v <;> rfl
  · intro odd
    obtain ⟨t, ht, state⟩ := List.any_eq_true.mp odd
    rw [ready t ht] at state
    cases state

/-- The tests and delays of an instruction of the array, and what it then does. -/
theorem array_tested {i : Instr} {s : State} {v : View} {trap : State → View → Option Trap} {tiles : State → View → List Nat} {lease : Bool}
    {effect : State → View → Did} (hx : exec i s = issuePre i s trap (arrayPre tiles lease) effect) {limits : List (Nat × Prop)}
    {l : List (Nat × Bool)} (ht : trap s v = limitTrap v l) (same : tests limits l) {runs : Prop}
    (ran : Safety.Issues i s v → Safety.within limits → exec i s = .next (issued i s v (effect s v)) → runs) :
    Safety.Array i s v limits (tiles s v) lease runs := by
  intro h
  refine ⟨fun before c p after split_ no hp => h.ownTraps hx (ht.trans (limitTrap_first hp (split_ ▸ same) no)), fun within => ?_⟩
  have passes : trap s v = none := ht.trans (limitTrap_within same within)
  refine ⟨fun ⟨t, mem, odd⟩ => h.preWaits hx passes (if_pos (List.any_eq_true.mpr ⟨t, mem, by simpa using odd⟩)), fun ready => ⟨fun on taken => ?_,
    fun free => ⟨fun busy => ?_, fun idle st mixed on => ?_, fun idle off => ran h within ?_⟩⟩⟩
  · obtain ⟨t, waits, listed⟩ := leaseWait_taken taken
    refine ⟨t, h.preWaits hx passes ?_, listed⟩
    unfold arrayPre
    rw [if_neg, on, if_pos rfl, waits]
    intro odd
    obtain ⟨t, ht, state⟩ := List.any_eq_true.mp odd
    rw [ready t ht] at state
    cases state
  · exact h.preWaits hx passes ((arrayPre_ready ready free).trans (if_pos busy))
  · exact h.preTraps hx passes ((arrayPre_ready ready free).trans (by rw [if_neg (by rw [idle]; decide), mixTrap_some mixed on]; rfl))
  · exact h.closes hx passes ((arrayPre_ready ready free).trans (by rw [if_neg (by rw [idle]; decide), mixTrap_none off]; rfl))

/-- The same for an instruction that completes once its tiles are acquired. -/
theorem array_goes {i : Instr} {s : State} {v : View} {trap : State → View → Option Trap} {tiles : State → View → List Nat} {lease : Bool}
    {go : State → View → State} (hx : exec i s = issuePre i s trap (arrayPre tiles lease) (plain (onTiles tiles go))) {limits : List (Nat × Prop)}
    {l : List (Nat × Bool)} (ht : trap s v = limitTrap v l) (same : tests limits l) {runs : Prop}
    (ran : Safety.Issues i s v → ∀ c, Safety.Goes i s v (go { s with clocks := c } v) .next 0 → runs) :
    Safety.Array i s v limits (tiles s v) lease runs :=
  array_tested hx ht same fun h _ close => by
    obtain ⟨c, same⟩ := onTiles_clocks tiles go s v
    exact ran h c (close.trans (by rw [plain, issued, same]))

theorem storesPre_eq (s : State) (v : View) : arrayPre (fun _ _ => []) false s v = storesPre s v := by
  unfold arrayPre
  rw [List.any_nil, if_neg Bool.false_ne_true, if_neg Bool.false_ne_true]
  cases storesPre s v <;> rfl

/-! ## Work is sent -/

/-- Stores, granules and tiles of the cores. -/
def heldData (s t : State) : Prop :=
  ∀ c, (coreOf t c).store = (coreOf s c).store ∧ (coreOf t c).acc = (coreOf s c).acc ∧ (coreOf t c).tiles = (coreOf s c).tiles

theorem sameData_sendMat (s : State) (v : View) (slot : Nat) (i : Instr) (m : MatOp) : Safety.sameData s (sendMat s v slot i m) := by
  obtain ⟨mem, host, remote, units, launches, cores⟩ := sameData_sendReq s (Req.mk' s v (some slot) (.matrix 0 []) m.due) i
  exact ⟨mem, host, remote, units, launches, cores⟩

theorem sendMat_work (s : State) (v : View) (slot : Nat) (i : Instr) (m : MatOp) : tabGet s.fresh (sendMat s v slot i m).matOps = some m :=
  tabGet_put_same ..

theorem sendMat_request (s : State) (v : View) (slot : Nat) (i : Instr) (m : MatOp) : tabGet s.fresh (sendMat s v slot i m).reqs =
    some (Req.mk' s v (some slot) (.matrix 0 []) m.due) := tabGet_put_same ..

theorem sendMat_step (s : State) (v : View) (slot : Nat) (i : Instr) (m : MatOp) : ⟨m.due, i, .of [s.fresh]⟩ ∈ (sendMat s v slot i m).agenda :=
  List.mem_append_right _ List.mem_cons_self

theorem sendMat_counted {s : State} {v : View} (hv : view s v.gid = some v) (slot : Nat) (i : Instr) (m : MatOp) :
    view (sendMat s v slot i m) v.gid =
      some { v with run := { v.run with slots := v.run.slots.mapIdx fun j n => if j = slot then n + 1 else n } } := by
  refine (view_sendReq (s := s) (i := i) (q := Req.mk' s v (some slot) (.matrix 0 []) m.due) rfl).trans ?_
  show (view s v.gid).map _ = _
  rw [hv]
  rfl

/-- What a count of a slot keeps of a core. -/
theorem sendMat_core {α : Type} {field : Core → α} (keeps : ∀ k w, field { k with warps := w } = field k) (s : State) (v : View) (slot : Nat)
    (i : Instr) (m : MatOp) (c : Nat) : field (coreOf (sendMat s v slot i m) c) = field (coreOf s c) := by
  have counted : field (coreOf (slotAdd (freshNat s).2 v.gid slot) c) = field (coreOf s c) := by
    unfold slotAdd modRun
    split
    · exact coreOf_modWarp_field (fun k w => keeps k w) c
    · rfl
  exact counted

/-- Work begins with the request it is sent under. -/
theorem begins_of {i : Instr} {s r : State} {v : View} {slot : Nat} {j : Instr} {m : MatOp} (goes : Safety.Goes i s v (sendMat r v slot j m) .next 0)
    (group : view r v.gid = some v) (data : heldData s r) : Safety.Begins i s (sendMat r v slot j m) v slot m where
  goes := goes
  work := ⟨_, _, sendMat_work .., sendMat_request .., rfl, rfl⟩
  counted := sendMat_counted group ..
  data c := by
    obtain ⟨store, acc, tiles⟩ := data c
    obtain ⟨-, -, -, -, -, same⟩ := sameData_sendMat r v slot j m
    obtain ⟨store', acc', tiles'⟩ := same c
    exact ⟨store'.trans store, acc'.trans acc, tiles'.trans tiles⟩

theorem ends_of (r : State) (v : View) (slot : Nat) (j : Instr) (m : MatOp) : Safety.Ends (sendMat r v slot j m) m m.due j :=
  ⟨rfl, _, sendMat_work .., sendMat_step .., _, sendMat_request .., rfl⟩

end Sys2Proof
end

section
/-! Stationary loads, swaps and streams at issue (R305, R309-R312): O37. -/

namespace Sys2Proof
open Machine

/-! ## What marks, touches and the lease keep -/

theorem heldData_of_sameData {s t : State} (h : Safety.sameData s t) : heldData s t := h.2.2.2.2.2

theorem sameData_takeLease (s : State) (v : View) : Safety.sameData s (takeLease s v) :=
  sameData_modCore (fun _ => by rfl) (fun _ => by rfl) (fun _ => by rfl) ..

theorem view_takeLease (s : State) (v : View) (g : Gid) : view (takeLease s v) g = view s g := view_modCore (fun _ => by rfl) ..

theorem sameData_markGranules (s : State) (c : Nat) (l : List Nat) (w : Bool) (n : Nat) : Safety.sameData s (markGranules s c l w n) :=
  sameData_modCore (fun _ => by rfl) (fun _ => by rfl) (fun _ => by rfl) ..

theorem view_markGranules (s : State) (c : Nat) (l : List Nat) (w : Bool) (n : Nat) (g : Gid) : view (markGranules s c l w n) g = view s g :=
  view_modCore (fun _ => by rfl) ..

theorem sameData_markPairs (s : State) (c : Nat) (l : List (Nat × Nat)) (n : Nat) : Safety.sameData s (markPairs s c l n) :=
  Safety.sameData_trans (sameData_markGranules ..) (sameData_markGranules ..)

theorem view_markPairs (s : State) (c : Nat) (l : List (Nat × Nat)) (n : Nat) (g : Gid) : view (markPairs s c l n) g = view s g :=
  (view_markGranules ..).trans (view_markGranules ..)

theorem sameData_touchRange (s : State) (v : View) (g n : Nat) : Safety.sameData s (touchRange s v g n) := by
  unfold touchRange
  split
  · exact Safety.sameData_refl s
  · exact sameData_modWarp ..

theorem view_touchRange (s : State) (v : View) (b n : Nat) (g : Gid) : view (touchRange s v b n) g = view s g := by
  unfold touchRange
  split
  · rfl
  · exact view_modWarp_unseen (fun _ _ _ => by rfl) ..

/-- What marks of granules and touches keep of a core. -/
theorem markPairs_core {α : Type} {field : Core → α} (keeps : ∀ k r w, field { k with grd := r, gwr := w } = field k) (s : State) (c : Nat)
    (l : List (Nat × Nat)) (n d : Nat) : field (coreOf (markPairs s c l n) d) = field (coreOf s d) :=
  (coreOf_modCore_field (fun k => keeps k _ _) d).trans (coreOf_modCore_field (fun k => keeps k _ _) d)

theorem touchRange_core {α : Type} {field : Core → α} (keeps : ∀ k w, field { k with warps := w } = field k) (s : State) (v : View) (g n d : Nat) :
    field (coreOf (touchRange s v g n) d) = field (coreOf s d) := by
  unfold touchRange
  split
  · rfl
  · exact coreOf_modWarp_field (fun k w => keeps k w) d

/-! ## The limits of operands (Table 16.3) -/

theorem fld_low (x n : Nat) : fld x 0 n = x % 2 ^ n := by simp [fld]

theorem fld_high (x : DWord) : fld x.toNat 32 32 = x.toNat / 2 ^ 32 := by
  have := x.isLt
  simp only [fld]
  omega

section
variable {s : State} {v : View} {u : UnitSt} (hu : unitOf s v.unit = some u)
include hu

theorem tilesBad_iff (m : OMap) : tilesBad s v.unit m = true ↔ ∃ t ∈ m.tiles, u.ntiles ≤ t := by
  simp [tilesBad, unitTiles_eq hu]

theorem rangeFree_iff (g n : Nat) : rangeFree s v.unit g n = true ↔ ∃ j < n, holdsGranule u (g + j) = false := by
  rw [rangeFree, hu]
  simp

end

theorem operandBad_iff (m : OMap) : operandBad m = true ↔ m.resv ≠ 0 ∨ m.pitch = 0 ∨ ¬ m.fmt ∈ [1, 2, 3, 4, 5, 11] := by
  rw [operandBad, Bool.or_eq_true, Bool.or_eq_true, bne_iff_ne, decide_eq_true_eq, Bool.not_eq_true', ← Bool.not_eq_true,
    List.contains_iff_mem, or_assoc]

theorem operandPasses_iff (s : State) (u : Nat) (m : OMap) (last slice : Nat) : operandPasses s u m last slice = true ↔
    tileSize (tileWord s u m.etile) < m.eoff + last * m.pitch + 64 * slice + 64 ∨
      (m.fmt = 11 ∧ tileSize (tileWord s u m.stile) < scaleEnd (m.sbase + last * m.spr + 4 * slice + 3)) := by
  simp [operandPasses]

/-! ## The instructions -/

section
variable {i : Instr} {s : State} {v : View} {l w g a b : Nat} {c : Tab Nat} (hv : view s v.gid = some v)
include hv

theorem startMld_begins (goes : Safety.Goes i s v (startMld l w g a b { s with clocks := c } v) .next 0) :
    let k := coreOf s v.core
    let m := mapAt s v a 0
    let begun := Nat.max s.now (Nat.max k.mldEnd k.swapAt)
    let sc := if m.fmt = 11 then 2 ^ w else 0
    ∃ t x, Safety.Begins i s t v l x ∧ Safety.Ends t x (begun + 11 + sc + 8 * 2 ^ w) .stationaryLoadComplete ∧
      (coreOf t v.core).lease = some v.unit ∧ (coreOf t v.core).mldEnd = begun + 12 + sc + 8 * 2 ^ w ∧ (coreOf t v.core).fmtSh = m.fmt ∧
      x.kind = 0 ∧ x.start = begun ∧ x.base = 32 * g ∧ x.count = 32 * 2 ^ w ∧ x.slice = (readK s v.unit a).toNat / 2 ^ 32 ∧
      x.src.row0 = (readK s v.unit b).toNat % 2 ^ 32 := by
  intro k m begun sc
  rw [← fld_high, ← fld_low, show begun + 11 + sc + 8 * 2 ^ w = begun + sc + 8 * 2 ^ w + 11 by omega,
    show begun + 12 + sc + 8 * 2 ^ w = begun + sc + 8 * 2 ^ w + 12 by omega]
  refine ⟨_, _, begins_of goes ?_ ?_, ends_of .., ?_, ?_, ?_, rfl, rfl, rfl, rfl, rfl, rfl⟩
  · exact (view_modCore (fun _ => by rfl) ..).trans ((view_takeLease ..).trans hv)
  · exact heldData_of_sameData (Safety.sameData_trans (sameData_takeLease { s with clocks := c } v)
      (sameData_modCore (fun _ => by rfl) (fun _ => by rfl) (fun _ => by rfl) ..))
  · refine (sendMat_core (field := Core.lease) (fun _ _ => by rfl) ..).trans ?_
    rw [coreOf_modCore, takeLease, coreOf_modCore]
  · refine (sendMat_core (field := Core.mldEnd) (fun _ _ => by rfl) ..).trans ?_
    rw [coreOf_modCore]
    rfl
  · refine (sendMat_core (field := Core.fmtSh) (fun _ _ => by rfl) ..).trans ?_
    rw [coreOf_modCore]
    rfl

theorem startMswp_begins (goes : Safety.Goes i s v (startMswp l { s with clocks := c } v) .next 0) :
    let k := coreOf s v.core
    let swap := Nat.max (s.now + 1) (Nat.max k.mldEnd k.entryAt)
    ∃ t x, Safety.Begins i s t v l x ∧ Safety.Ends t x swap .planeSwap ∧ x.kind = 1 ∧ (coreOf t v.core).lease = some v.unit ∧
      (coreOf t v.core).swapAt = swap ∧ (coreOf t v.core).fmtAct = k.fmtSh ∧ (coreOf t v.core).fmtSh = k.fmtAct := by
  intro k swap
  refine ⟨_, _, begins_of goes ?_ ?_, ends_of .., rfl, ?_, ?_, ?_, ?_⟩
  · exact (view_modCore (fun _ => by rfl) ..).trans ((view_takeLease ..).trans hv)
  · exact heldData_of_sameData (Safety.sameData_trans (sameData_takeLease { s with clocks := c } v)
      (sameData_modCore (fun _ => by rfl) (fun _ => by rfl) (fun _ => by rfl) ..))
  · refine (sendMat_core (field := Core.lease) (fun _ _ => by rfl) ..).trans ?_
    rw [coreOf_modCore, takeLease, coreOf_modCore]
  · refine (sendMat_core (field := Core.swapAt) (fun _ _ => by rfl) ..).trans ?_
    rw [coreOf_modCore]
    rfl
  · refine (sendMat_core (field := Core.fmtAct) (fun _ _ => by rfl) ..).trans ?_
    rw [coreOf_modCore, takeLease, coreOf_modCore]
    rfl
  · refine (sendMat_core (field := Core.fmtSh) (fun _ _ => by rfl) ..).trans ?_
    rw [coreOf_modCore, takeLease, coreOf_modCore]
    rfl

theorem startMswpRel_begins (goes : Safety.Goes i s v (startMswpRel l { s with clocks := c } v) .next 0) :
    let k := coreOf s v.core
    let swap := Nat.max (s.now + 1) (Nat.max k.mldEnd k.entryAt)
    ∃ t x, Safety.Begins i s t v l x ∧ Safety.Ends t x (if k.lease = some v.unit then swap else s.now + 1) .planeSwap ∧
      (coreOf t v.core).lease = k.lease ∧ (k.lease = some v.unit → x.kind = 2) := by
  intro k swap
  have group : view { s with clocks := c } v.gid = some v := hv
  unfold startMswpRel at goes
  change Safety.Goes i s v (if k.lease = some v.unit then _ else _) .next 0 at goes
  by_cases own : k.lease = some v.unit
  · rw [if_pos own] at goes ⊢
    exact ⟨_, _, begins_of goes group fun _ => ⟨rfl, rfl, rfl⟩, ends_of .., sendMat_core (field := Core.lease) (fun _ _ => by rfl) ..,
      fun _ => rfl⟩
  · rw [if_neg own] at goes ⊢
    exact ⟨_, _, begins_of goes group fun _ => ⟨rfl, rfl, rfl⟩, ends_of .., sendMat_core (field := Core.lease) (fun _ _ => by rfl) ..,
      fun yes => absurd yes own⟩

theorem startMst_begins (goes : Safety.Goes i s v (startMst l w g a b { s with clocks := c } v) .next 0) :
    let k := coreOf s v.core
    let m := mapAt s v a 0
    let ka := (readK s v.unit a).toNat
    let rn := ka / 256 % 32 + 1
    let f := factorOf (pairSpeed s v.unit k.fmtAct m.fmt)
    let entry := Nat.max s.now (Nat.max k.swapAt (Nat.max (entryFree k f) (pairsFree s v.core (pairsOf s v g (2 ^ w)) - 12)))
    ∃ t x, Safety.Begins i s t v l x ∧ Safety.Ends t x (entry + (rn - 1) * f + 12) .streamComplete ∧
      (coreOf t v.core).lease = some v.unit ∧ (coreOf t v.core).entryAt = entry + (rn - 1) * f + 1 ∧ x.kind = 3 ∧ x.start = entry ∧
      x.f = f ∧ x.count = rn ∧ x.slice = ka / 2 ^ 32 ∧ x.src.row0 = (readK s v.unit b).toNat % 2 ^ 32 ∧
      x.blocks = [pairsOf s v g (2 ^ w)] := by
  intro k m ka rn f entry
  rw [← fld_high, ← fld_low]
  refine ⟨_, _, begins_of goes ?_ ?_, ends_of .., ?_, ?_, rfl, rfl, rfl, rfl, rfl, rfl, rfl⟩
  · exact (view_touchRange ..).trans ((view_markPairs ..).trans ((view_modCore (fun _ => by rfl) ..).trans ((view_takeLease ..).trans hv)))
  · exact heldData_of_sameData (Safety.sameData_trans (sameData_takeLease { s with clocks := c } v) (Safety.sameData_trans
      (sameData_modCore (fun _ => by rfl) (fun _ => by rfl) (fun _ => by rfl) ..)
      (Safety.sameData_trans (sameData_markPairs ..) (sameData_touchRange ..))))
  · refine (sendMat_core (field := Core.lease) (fun _ _ => by rfl) ..).trans ((touchRange_core (fun _ _ => by rfl) ..).trans
      ((markPairs_core (fun _ _ _ => by rfl) ..).trans ?_))
    rw [coreOf_modCore, takeLease, coreOf_modCore]
  · refine (sendMat_core (field := Core.entryAt) (fun _ _ => by rfl) ..).trans ((touchRange_core (fun _ _ => by rfl) ..).trans
      ((markPairs_core (fun _ _ _ => by rfl) ..).trans ?_))
    rw [coreOf_modCore]
    rfl

end

/-- Settles O37: each is tested as Table 16.3 says and then begins at the cycle that the array allows. -/
theorem loadsSwapsAndStreamsBegin : Obligations.LoadsSwapsAndStreamsBegin := by
  intro l w g a b h e s v u hu k m n ka kb outside noTile badMap swap sc begun rn f entry
  refine ⟨?_, ?_, ?_, ?_⟩
  · refine array_goes (i := .mld l w h b a e) (go := startMld l.toNat w.toNat h.toNat a.toNat b.toNat) rfl rfl ?_
      fun at_ c goes => startMld_begins at_.group goes
    refine .cons ⟨rfl, tilesBad_iff hu m⟩ (.cons ⟨rfl, operandBad_iff m⟩ (.cons ⟨rfl, ?_⟩ (.cons ⟨rfl, decide_eq_true_iff⟩ .nil)))
    rw [fld_low, fld_high]
    exact operandPasses_iff ..
  · exact array_goes (i := .mswp l e) (tiles := fun _ _ => []) (go := startMswp l.toNat) (l := []) rfl rfl .nil
      fun at_ c goes => startMswp_begins at_.group goes
  · exact array_goes (i := .mswpRel l e) (tiles := fun _ _ => []) (go := startMswpRel l.toNat) (l := []) rfl rfl .nil
      fun at_ c goes => startMswpRel_begins at_.group goes
  · refine array_goes (i := .mst l w g b a e) (go := startMst l.toNat w.toNat g.toNat a.toNat b.toNat) rfl rfl ?_
      fun at_ c goes => startMst_begins at_.group goes
    refine .cons ⟨rfl, tilesBad_iff hu m⟩ (.cons ⟨rfl, rangeFree_iff hu ..⟩ (.cons ⟨rfl, ?_⟩ (.cons ⟨rfl, ?_⟩
      (.cons ⟨rfl, decide_eq_true_iff⟩ .nil))))
    · rw [Bool.or_eq_true, Bool.not_eq_true', operandBad_iff]
    · rw [fld_low, fld_high]
      exact operandPasses_iff ..

end Sys2Proof
end

section
/-! Drains and row statistics at issue (R306, R313, R314, R325): O38. -/

namespace Sys2Proof
open Machine

/-! ## Limits -/

theorem drainBad_iff (m : OMap) : drainBad m = true ↔ m.resv ≠ 0 ∨ m.pitch = 0 ∨ ¬ m.fmt ∈ [0, 1, 2, 3, 4, 9] ∨ m.ovp = 3 := by
  rw [drainBad, Bool.or_eq_true, Bool.or_eq_true, Bool.or_eq_true, bne_iff_ne, decide_eq_true_eq, decide_eq_true_eq, Bool.not_eq_true',
    ← Bool.not_eq_true, List.contains_iff_mem, or_assoc, or_assoc]

theorem drainSize_eq (fmt : Nat) : drainSize fmt = if fmt = 0 ∨ fmt = 9 then 4 else if fmt = 1 ∨ fmt = 2 then 2 else 1 := by
  simp [drainSize]

theorem tabGet_keyed {α : Type} (f : Nat → α) {j : Nat} : ∀ {l : List Nat}, j ∈ l → tabGet j (l.map fun x => (x, f x)) = some (f j)
  | x :: l, h => by
    rw [List.map_cons, tabGet]
    split
    · next eq => rw [eq]
    · next ne => exact tabGet_keyed f ((List.mem_cons.mp h).resolve_left (Ne.symm ne))

/-! ## A request that a later decision answers -/

theorem openReq_request (s : State) (q : Req) : tabGet s.fresh (openReq s q).1.reqs = some q := tabGet_put_same ..

theorem sameData_openReq (s : State) (q : Req) : Safety.sameData s (openReq s q).1 := by
  obtain ⟨mem, host, remote, units, launches, cores⟩ := sameData_sendReq s q .loadReturn
  exact ⟨mem, host, remote, units, launches, cores⟩

theorem openReq_counted {s : State} {v : View} (hv : view s v.gid = some v) {q : Req} {n : Nat} (gid : q.gid = v.gid) (slot : q.slot = some n) :
    view (openReq s q).1 v.gid = some { v with run := { v.run with slots := v.run.slots.mapIdx fun j k => if j = n then k + 1 else k } } := by
  have sent := view_sendReq (s := s) (i := .loadReturn) slot
  rw [gid, hv] at sent
  exact sent

theorem openReq_core {α : Type} {field : Core → α} (keeps : ∀ k w, field { k with warps := w } = field k) (s : State) (q : Req) (c : Nat) :
    field (coreOf (openReq s q).1 c) = field (coreOf s c) := by
  have counted (n : Nat) : field (coreOf (slotAdd (freshNat s).2 q.gid n) c) = field (coreOf s c) := by
    unfold slotAdd modRun
    split
    · exact coreOf_modWarp_field (fun k w => keeps k w) c
    · rfl
  unfold openReq
  dsimp only
  cases q.slot with
  | none => rfl
  | some n => exact counted n

/-- Work under a request without a cycle of its own. -/
def openMat (s : State) (q : Req) (m : MatOp) : State := { (openReq s q).1 with matOps := tabPut s.fresh m (openReq s q).1.matOps }

theorem begins_open {i : Instr} {s r : State} {v : View} {slot : Nat} {q : Req} {m : MatOp} (goes : Safety.Goes i s v (openMat r q m) .next 0)
    (group : view r v.gid = some v) (data : heldData s r) (gid : q.gid = v.gid) (count : q.slot = some slot) :
    Safety.Begins i s (openMat r q m) v slot m where
  goes := goes
  work := ⟨_, _, tabGet_put_same .., openReq_request .., gid, count⟩
  counted := openReq_counted group gid count
  data c := by
    obtain ⟨store, acc, tiles⟩ := data c
    obtain ⟨store', acc', tiles'⟩ := heldData_of_sameData (sameData_openReq r q) c
    exact ⟨store'.trans store, acc'.trans acc, tiles'.trans tiles⟩

section
variable {i : Instr} {s : State} {v : View} {l w g a b : Nat} {c : Tab Nat} (hv : view s v.gid = some v)
include hv

theorem startMdr_begins (goes : Safety.Goes i s v (startMdr l w g a b { s with clocks := c } v) .next 0) :
    let m := mapAt s v a 0
    let kb := (readK s v.unit b).toNat
    let phys := (List.range (2 ^ w)).map fun j => readPhys s v (g + j)
    let size := if m.fmt = 0 ∨ m.fmt = 9 then 4 else if m.fmt = 1 ∨ m.fmt = 2 then 2 else 1
    let drain := Nat.max s.now (Nat.max (granuleFree s v.core phys false) (coreOf s v.core).drainEnd)
    ∃ t x, Safety.Begins i s t v l x ∧ Safety.Ends t x (drain + 11 + 8 * 2 ^ w * size) .drainComplete ∧
      (coreOf t v.core).drainEnd = drain + 12 + 8 * 2 ^ w * size ∧ x.kind = 4 ∧ x.start = drain ∧ x.src.row0 = kb % 2 ^ 32 ∧
      x.base = kb / 2 ^ 32 ∧ x.blocks = [phys.map fun p => (p, p)] := by
  intro m kb phys size drain
  rw [← fld_high, ← fld_low, show size = drainSize m.fmt from (drainSize_eq _).symm,
    show drain + 12 + 8 * 2 ^ w * drainSize m.fmt = drain + 11 + 8 * 2 ^ w * drainSize m.fmt + 1 by omega]
  refine ⟨_, _, begins_of goes ?_ ?_, ends_of .., ?_, rfl, rfl, rfl, rfl, rfl⟩
  · exact (view_markGranules ..).trans ((view_modCore (fun _ => by rfl) ..).trans hv)
  · exact heldData_of_sameData (Safety.sameData_trans (s := { s with clocks := c })
      (sameData_modCore (fun _ => by rfl) (fun _ => by rfl) (fun _ => by rfl) ..) (sameData_markGranules ..))
  · refine (sendMat_core (field := Core.drainEnd) (fun _ _ => by rfl) ..).trans ((coreOf_modCore_field (field := Core.drainEnd) (fun _ => by rfl) _).trans ?_)
    rw [coreOf_modCore]
    rfl

/-- The latency of a row statistic (Table 11.5). -/
theorem startStat_begins {op k d n : Nat} (goes : Safety.Goes i s v (startStat op l k n d { s with clocks := c } v) .next 0) :
    let con := contractNo s v.unit
    let rows := if k = 1 then 32 else tileSize (tileWord s v.unit n) / 128
    let inPlace : Prop := 3 ≤ op ∧ k = 1
    ∃ t x, Safety.Begins i s t v l x ∧ Safety.Ends t x (x.start + statLatency op con rows (factorOf (speedOf con 0))) .rowStatComplete ∧
      x.kind = 5 ∧ x.op = op ∧ x.dreg = d ∧ x.count = rows ∧ x.contract = con ∧
      (∀ j < 32, tabGet j x.eps = some (readX s v j d).toNat) ∧ (k = 0 → x.start = s.now) ∧
      (k = 1 → ¬ inPlace → x.start = Nat.max s.now (granuleFree s v.core [readPhys s v n] false)) ∧
      (inPlace → x.start = Nat.max s.now (pairsFree s v.core [writePhys s v n])) := by
  intro con rows inPlace
  refine ⟨_, _, begins_of goes ?_ ?_, ends_of .., rfl, rfl, rfl, rfl, rfl, fun j hj => tabGet_keyed _ (List.mem_range.mpr hj), ?_, ?_, ?_⟩
  · split
    · exact (view_touchRange ..).trans ((view_markPairs ..).trans hv)
    · exact (view_markGranules ..).trans hv
  · refine heldData_of_sameData (s := { s with clocks := c }) ?_
    split
    · exact Safety.sameData_trans (sameData_markPairs ..) (sameData_touchRange ..)
    · exact sameData_markGranules ..
  · rintro rfl
    show Nat.max s.now (if (decide (3 ≤ op) && decide (0 = 1)) = true then _ else _) = s.now
    rw [if_neg (by simp), if_pos rfl]
    exact Nat.max_zero _
  · intro one apart
    have no : (decide (3 ≤ op) && decide (k = 1)) = false := by simpa [inPlace] using apart
    show Nat.max s.now (if (decide (3 ≤ op) && decide (k = 1)) = true then _ else _) = _
    rw [no, if_neg Bool.false_ne_true, if_neg (by omega), if_neg Bool.false_ne_true]
    rfl
  · intro both
    have yes : (decide (3 ≤ op) && decide (k = 1)) = true := by simpa [inPlace] using both
    show Nat.max s.now (if (decide (3 ≤ op) && decide (k = 1)) = true then _ else _) = _
    rw [yes, if_pos rfl, if_neg (by omega), if_pos rfl]
    rfl

theorem startMdrRed_begins (goes : Safety.Goes i s v (startMdrRed l w g a b s v) .next 0) :
    let phys := (List.range (2 ^ w)).map fun j => readPhys s v (g + j)
    ∃ t x, Safety.Begins i s t v l x ∧ x.kind = 10 ∧ x.start = Nat.max s.now (granuleFree s v.core phys false) ∧
      x.cid = (readK s v.unit a).toNat % 16 ∧ x.dest = (readK s v.unit b).toNat ∧ x.blocks = [phys.map fun p => (p, p)] := by
  intro phys
  change Safety.Goes i s v (openMat (markGranules s v.core phys false (Nat.max s.now (granuleFree s v.core phys false)))
    (Req.mk' s v (some l) (.matrix 0 []) 0) _) .next 0 at goes
  exact ⟨_, _, begins_open goes ((view_markGranules ..).trans hv) (heldData_of_sameData (sameData_markGranules ..)) rfl rfl, rfl, rfl,
    fld_low .., rfl, rfl⟩

end

theorem eq_one_iff (k : BitVec 1) : k = 1 ↔ k.toNat = 1 := by
  revert k
  decide

theorem eq_zero_iff (k : BitVec 1) : k = 0 ↔ k.toNat = 0 := by
  revert k
  decide

/-- The tests of a row statistic and how it begins. -/
theorem rowStat_issues {i : Instr} {op l n d : Nat} {k : BitVec 1} {s : State} {v : View} {u : UnitSt} (hu : unitOf s v.unit = some u)
    (hx : exec i s = rowStatOp i op l n k.toNat d s) :
    let con := contractNo s v.unit
    let rows := if k = 1 then 32 else tileSize (tileWord s v.unit n) / 128
    let inPlace : Prop := 3 ≤ op ∧ k = 1
    Safety.Array i s v [(0x01, k = 0 ∧ u.ntiles ≤ n), (0x02, k = 1 ∧ holdsGranule u n = false), (0x06, speedOf con 0 = 0)]
      (if k = 0 then [n] else []) false
      (∃ t x, Safety.Begins i s t v l x ∧ Safety.Ends t x (x.start + statLatency op con rows (factorOf (speedOf con 0))) .rowStatComplete ∧
        x.kind = 5 ∧ x.op = op ∧ x.dreg = d ∧ x.count = rows ∧ x.contract = con ∧
        (∀ j < 32, tabGet j x.eps = some (readX s v j d).toNat) ∧ (k = 0 → x.start = s.now) ∧
        (k = 1 → ¬ inPlace → x.start = Nat.max s.now (granuleFree s v.core [readPhys s v n] false)) ∧
        (inPlace → x.start = Nat.max s.now (pairsFree s v.core [writePhys s v n]))) := by
  simp only [eq_one_iff, eq_zero_iff]
  refine array_goes (go := startStat op l k.toNat n d) hx rfl ?_ fun at_ c goes => startStat_begins at_.group goes
  refine .cons ⟨rfl, ?_⟩ (.cons ⟨rfl, ?_⟩ (.cons ⟨rfl, decide_eq_true_iff⟩ .nil))
  · rw [Bool.and_eq_true, decide_eq_true_eq, decide_eq_true_eq, unitTiles_eq hu]
  · rw [Bool.and_eq_true, decide_eq_true_eq, rangeFree_iff hu]
    simp

/-- Settles O38: each is tested as Table 16.3 says and then begins at the cycle that its granules allow. -/
theorem drainsAndStatisticsBegin : Obligations.DrainsAndStatisticsBegin := by
  intro l w g a b i c e d s v u hu m n kb phys size drain notHeld con rows f stat
  refine ⟨?_, ?_, rowStat_issues (i := .rmax l i c d e) (op := 0) hu rfl, rowStat_issues (i := .rsum l i c d e) (op := 1) hu rfl,
    rowStat_issues (i := .rvar l i c d e) (op := 2) hu rfl, rowStat_issues (i := .rsmx l i c d e) (op := 3) hu rfl,
    rowStat_issues (i := .rnorm l i c d e) (op := 4) hu rfl⟩
  · refine array_goes (i := .mdr l w g b a e) (go := startMdr l.toNat w.toNat g.toNat a.toNat b.toNat) rfl rfl ?_
      fun at_ c goes => startMdr_begins at_.group goes
    refine .cons ⟨rfl, ?_⟩ (.cons ⟨rfl, rangeFree_iff hu ..⟩ (.cons ⟨rfl, drainBad_iff m⟩ (.cons ⟨rfl, ?_⟩ .nil)))
    · rw [decide_eq_true_eq, unitTiles_eq hu]
    · rw [decide_eq_true_eq, fld_low, fld_high, drainSize_eq]
  · refine array_tested (i := .mdrRed l w g b a e) (trap := mdrRedTrap w.toNat g.toNat a.toNat) (tiles := fun _ _ => []) (effect := plain (startMdrRed l.toNat w.toNat g.toNat a.toNat b.toNat))
      ?_ rfl ?_ fun at_ _ goes => startMdrRed_begins at_.group goes
    · rw [show arrayPre (fun _ _ => []) false = storesPre from funext fun s => funext (storesPre_eq s)]
      rfl
    · refine .cons ⟨rfl, rangeFree_iff hu ..⟩ (.cons ⟨rfl, ?_⟩ .nil)
      rw [bne_iff_ne, fld_low]
      exact Iff.rfl

end Sys2Proof
end

section
/-! The lehr at issue (R25, R26, R319, R320, R322): O39. -/

namespace Sys2Proof
open Machine

/-! ## Plans of steps -/

theorem oldestFirst_le (asks : List (Nat × Nat)) (req : Nat) : ∀ fuel q, oldestFirst asks req fuel q ≤ 32
  | 0, q => Nat.min_le_left ..
  | fuel + 1, q => by
    rw [oldestFirst]
    split
    · exact oldestFirst_le asks req fuel (q + 1)
    · exact Nat.min_le_left ..

theorem recordedWait_le (s : State) (l core req : Nat) : ∀ fuel i, recordedWait s l core req fuel i ≤ 32
  | 0, i => Nat.zero_le _
  | fuel + 1, i => by
    rw [recordedWait]
    split
    · exact Nat.zero_le _
    · split
      · exact Nat.zero_le _
      · split
        · exact Nat.min_le_left ..
        · exact recordedWait_le s l core req fuel _

/-- The refusals drawn for a step are 32 at most, and only the list of refusals to come is used up. -/
theorem drawQuanta_spec (s : State) (m : MatOp) (req : Nat) :
    (drawQuanta s m req).1 ≤ 32 ∧ ∃ q, (drawQuanta s m req).2 = { s with quanta := q } := by
  unfold drawQuanta
  dsimp only
  split
  · refine ⟨?_, s.quanta, rfl⟩
    cases launchOf s (unitLaunchId s m.unit) with
    | none => exact Nat.zero_le _
    | some x => exact recordedWait_le ..
  · split
    · exact ⟨oldestFirst_le .., s.quanta, rfl⟩
    · next q r _ => exact ⟨oldestFirst_le .., r, rfl⟩

/-- Nothing is refused and no step that asked before still waits (R25, R26). -/
structure Granting (s : State) (u : Nat) : Prop where
  quanta : s.quanta = []
  asks : ∀ m ∈ s.matOps, m.2.asks = []
  live : replays s (unitLaunchId s u) = false

theorem drawQuanta_granting {s : State} {m : MatOp} (h : Granting s m.unit) (req : Nat) : drawQuanta s m req = (0, s) := by
  have none_ : (s.matOps.flatMap fun x => x.2.asks) = [] := List.flatMap_eq_nil_iff.mpr h.asks
  unfold drawQuanta
  dsimp only
  rw [h.live, if_neg Bool.false_ne_true, none_, h.quanta]
  rfl

/-- A plan has one count of refusals for each step, each of 32 at most, and uses up refusals to come only. -/
theorem planSteps_spec (m : MatOp) : ∀ (n : Nat) (s : State) (req after floor : Nat) (qs : List Nat) (asks : List (Nat × Nat)) (t : StepTimes),
    (∀ q ∈ qs, q ≤ 32) →
    (∃ q, (planSteps m n s req after floor qs asks t).1 = { s with quanta := q }) ∧
    (planSteps m n s req after floor qs asks t).2.1.length = qs.length + n ∧
    ∀ q ∈ (planSteps m n s req after floor qs asks t).2.1, q ≤ 32
  | 0, s, _, _, _, qs, _, _, small => ⟨⟨s.quanta, rfl⟩, rfl, small⟩
  | n + 1, s, req, after, floor, qs, asks, t, small => by
    obtain ⟨le, q, same⟩ := drawQuanta_spec s m req
    rw [planSteps]
    obtain ⟨⟨q', state⟩, length, all⟩ := planSteps_spec m n (drawQuanta s m req).2
      (stepTimes m req (drawQuanta s m req).1 after floor).swap ((stepTimes m req (drawQuanta s m req).1 after floor).last + 1)
      ((stepTimes m req (drawQuanta s m req).1 after floor).last + m.f) (qs ++ [(drawQuanta s m req).1])
      (asks ++ [(req, (stepTimes m req (drawQuanta s m req).1 after floor).grant)]) (stepTimes m req (drawQuanta s m req).1 after floor) (by
        intro x hx
        rcases List.mem_append.mp hx with old | new
        · exact small x old
        · rw [List.mem_singleton.mp new]
          exact le)
    refine ⟨⟨q', state.trans (by rw [same])⟩, length.trans ?_, all⟩
    rw [List.length_append, List.length_singleton]
    omega

theorem planSteps_granting {m : MatOp} : ∀ (n : Nat) {s : State} (req after floor : Nat) (qs : List Nat) (asks : List (Nat × Nat)) (t : StepTimes),
    Granting s m.unit → (∀ q ∈ qs, q = 0) → ∀ q ∈ (planSteps m n s req after floor qs asks t).2.1, q = 0
  | 0, _, _, _, _, _, _, _, _, zero => zero
  | n + 1, s, req, after, floor, qs, asks, t, free, zero => by
    rw [planSteps, drawQuanta_granting free]
    refine planSteps_granting n _ _ _ _ _ _ free fun x hx => ?_
    rcases List.mem_append.mp hx with old | new
    · exact zero x old
    · exact List.mem_singleton.mp new

/-! ## A lehr is sent -/

/-- The work of a lehr as its first request leaves it. -/
def asked (m : MatOp) (at_ : Nat) : MatOp := { m with start := at_, waited := 0 }

theorem tabGet_requestStep {s : State} {id : Nat} {m : MatOp} (h : tabGet id s.matOps = some m) (at_ : Nat) :
    tabGet id (requestStep s id at_ m).matOps = some (asked m at_) := by
  show tabGet id (tabMod id _ s.matOps) = _
  rw [tabGet_mod_same, h]
  rfl

theorem requestStep_agenda {s : State} {id at_ : Nat} {m : MatOp} (first : m.step = 0) :
    ⟨at_, if m.quanta.headD 0 = 0 then .lehrStep else .budgetRetry, .of [id]⟩ ∈ (requestStep s id at_ m).agenda := by
  have head : nth m.quanta m.step 0 = m.quanta.headD 0 := by
    rw [first, nth]
    cases m.quanta <;> rfl
  unfold requestStep
  rw [head]
  exact List.mem_append_right _ List.mem_cons_self

/-- What a request for budget leaves. -/
structure Asks (s t : State) : Prop where
  reqs : t.reqs = s.reqs
  cores : t.cores = s.cores
  pools : t.pools = s.pools

theorem requestStep_asks (s : State) (id at_ : Nat) (m : MatOp) : Asks s (requestStep s id at_ m) := ⟨rfl, rfl, rfl⟩

/-- A lehr begins with its first request for budget. -/
theorem lehr_begins {i : Instr} {s r : State} {v : View} {slot at_ : Nat} {q : Req} {m : MatOp}
    (goes : Safety.Goes i s v (requestStep (openMat r q m) r.fresh at_ m) .next 0)
    (group : view r v.gid = some v) (data : heldData s r) (gid : q.gid = v.gid) (count : q.slot = some slot) :
    Safety.Begins i s (requestStep (openMat r q m) r.fresh at_ m) v slot (asked m at_) := by
  obtain ⟨reqs, cores, pools⟩ := requestStep_asks (openMat r q m) r.fresh at_ m
  refine ⟨goes, ⟨r.fresh, q, tabGet_requestStep (s := openMat r q m) (m := m) (tabGet_put_same ..) at_, ?_, gid, count⟩, ?_, fun c => ?_⟩
  · rw [reqs]
    exact openReq_request r q
  · rw [view_congr cores pools]
    exact openReq_counted group gid count
  · obtain ⟨store, acc, tiles⟩ := data c
    obtain ⟨store', acc', tiles'⟩ := heldData_of_sameData (sameData_openReq r q) c
    rw [coreOf, cores]
    exact ⟨store'.trans store, acc'.trans acc, tiles'.trans tiles⟩

theorem lease_lehr (r : State) (q : Req) (m : MatOp) (at_ d : Nat) :
    (coreOf (requestStep (openMat r q m) r.fresh at_ m) d).lease = (coreOf r d).lease := by
  rw [coreOf, (requestStep_asks ..).cores]
  exact openReq_core (field := Core.lease) (fun _ _ => by rfl) r q d

theorem heldData_trans {s t r : State} (h : heldData s t) (k : heldData t r) : heldData s r := fun c =>
  ⟨(k c).1.trans (h c).1, (k c).2.1.trans (h c).2.1, (k c).2.2.trans (h c).2.2⟩

theorem reserveSteps_data (s : State) (c : Nat) (l : List (Nat × Nat)) (n : Nat) (t : StepTimes) (f : Nat) : Safety.sameData s (reserveSteps s c l n t f) :=
  Safety.sameData_trans (sameData_modCore (fun _ => by rfl) (fun _ => by rfl) (fun _ => by rfl) ..) (sameData_markPairs ..)

theorem view_reserveSteps (s : State) (c : Nat) (l : List (Nat × Nat)) (n : Nat) (t : StepTimes) (f : Nat) (g : Gid) :
    view (reserveSteps s c l n t f) g = view s g := (view_markPairs ..).trans (view_modCore (fun _ => by rfl) ..)

theorem lease_reserveSteps (s : State) (c : Nat) (l : List (Nat × Nat)) (n : Nat) (t : StepTimes) (f d : Nat) :
    (coreOf (reserveSteps s c l n t f) d).lease = (coreOf s d).lease :=
  (markPairs_core (field := Core.lease) (fun _ _ _ => by rfl) ..).trans (coreOf_modCore_field (field := Core.lease) (fun _ => by rfl) d)

section
variable (red : Bool) (l w g a b : Nat) (s : State) (v : View)

/-- First cycle in which the load of a lehr could start (R320). -/
def firstRequest : Nat := Nat.max s.now (Nat.max (coreOf s v.core).mldEnd (coreOf s v.core).swapAt)

/-- The granules of a lehr, block by block. -/
def lehrBlocks : List (List (Nat × Nat)) := (List.range (lehrArgs s v a b).mb).map fun i => pairsOf s v (g + i * 2 ^ w) (2 ^ w)

/-- The work of a lehr before its steps are planned. -/
def lehrWork : MatOp :=
  let x := lehrArgs s v a b
  let ma := mapAt s v a 0
  let mb := mapAt s v a 4
  let f := factorOf (pairSpeed s v.unit mb.fmt ma.fmt)
  { MatOp.mk' s v 6 (firstRequest s v) 0 with
    f := f, src := sourceOf s v.unit ma x.arow, srcB := sourceOf s v.unit mb x.brow, slice := x.s0, base := 32 * 2 ^ w, count := 32 * x.mb
    tiles := ma.tiles ++ mb.tiles, ns := x.ns, after := (coreOf s v.core).entryAt
    floor := Nat.max (entryFree (coreOf s v.core) f) (pairsFree s v.core (lehrBlocks w g a b s v).flatten - 12), cid := x.cid
    dest := if red then (readK s v.unit (b + 1)).toNat else 0, red := red, flags := mixFlag s v (ma.tiles ++ mb.tiles) }

/-- Its plan. -/
def lehrPlan : State × List Nat × List (Nat × Nat) × StepTimes :=
  planSteps (lehrWork red w g a b s v) (lehrArgs s v a b).ns (takeLease s v) (firstRequest s v) (lehrWork red w g a b s v).after
    (lehrWork red w g a b s v).floor [] [] ⟨0, 0, 0, 0, 0⟩

/-- The array reserved for its steps. -/
def lehrReserved : State :=
  reserveSteps (lehrPlan red w g a b s v).1 v.core (lehrBlocks w g a b s v).flatten (lehrArgs s v a b).ns (lehrPlan red w g a b s v).2.2.2
    (mapAt s v a 4).fmt

/-- The work of a lehr at its issue. -/
def lehrIssued : MatOp :=
  { lehrWork red w g a b s v with
    quanta := (lehrPlan red w g a b s v).2.1, readEnd := (lehrPlan red w g a b s v).2.2.2.last, blocks := lehrBlocks w g a b s v
    asks := (lehrPlan red w g a b s v).2.2.1, plan := arrayOrder (coreOf (lehrReserved red w g a b s v) v.core)
    made := arrayOrder (coreOf s v.core) }

theorem startTmm_eq : startTmm red l w g a b s v =
    requestStep (openMat (touchRange (lehrReserved red w g a b s v) v g ((lehrArgs s v a b).mb * 2 ^ w)) (Req.mk' s v (some l) (.matrix 0 []) 0)
      (lehrIssued red w g a b s v)) (touchRange (lehrReserved red w g a b s v) v g ((lehrArgs s v a b).mb * 2 ^ w)).fresh (firstRequest s v)
      (lehrIssued red w g a b s v) := rfl

/-- A plan draws one count of at most 32 for each step, none where all is granted, and changes no group. -/
theorem lehrPlan_spec : (∃ q, (lehrPlan red w g a b s v).1 = { takeLease s v with quanta := q }) ∧
    (lehrPlan red w g a b s v).2.1.length = (lehrArgs s v a b).ns ∧ (∀ q ∈ (lehrPlan red w g a b s v).2.1, q ≤ 32) ∧
    (Granting s v.unit → ∀ q ∈ (lehrPlan red w g a b s v).2.1, q = 0) := by
  obtain ⟨state, length, small⟩ := planSteps_spec (lehrWork red w g a b s v) (lehrArgs s v a b).ns (takeLease s v) (firstRequest s v)
    (lehrWork red w g a b s v).after (lehrWork red w g a b s v).floor [] [] ⟨0, 0, 0, 0, 0⟩ fun _ no => by cases no
  refine ⟨state, length.trans (Nat.zero_add _), small, fun free => ?_⟩
  exact planSteps_granting (s := takeLease s v) _ _ _ _ _ _ _ ⟨free.quanta, free.asks, free.live⟩ fun _ no => by cases no

theorem lehrReserved_spec : (∀ x, view (lehrReserved red w g a b s v) x = view s x) ∧ heldData s (lehrReserved red w g a b s v) ∧
    (coreOf (lehrReserved red w g a b s v) v.core).lease = some v.unit := by
  obtain ⟨⟨q, state⟩, -⟩ := lehrPlan_spec red w g a b s v
  unfold lehrReserved
  rw [state]
  refine ⟨fun x => ?_, heldData_of_sameData (Safety.sameData_trans (sameData_takeLease s v) (reserveSteps_data ..)), ?_⟩
  · exact (view_reserveSteps ..).trans ((view_congr (s := takeLease s v) rfl rfl x).trans (view_takeLease ..))
  · refine (lease_reserveSteps ..).trans ?_
    show (coreOf (takeLease s v) v.core).lease = _
    rw [takeLease, coreOf_modCore]

end

theorem startTmm_begins {i : Instr} {red : Bool} {l w g a b : Nat} {s : State} {v : View} {c : Tab Nat} (hv : view s v.gid = some v)
    (goes : Safety.Goes i s v (startTmm red l w g a b { s with clocks := c } v) .next 0) :
    let k := coreOf s v.core
    let ka := (readK s v.unit a).toNat
    let kb := (readK s v.unit b).toNat
    let blocks := ka / 2 ^ 8 % 8 + 1
    let ns := ka / 2 ^ 16 % 2 ^ 12
    let request := Nat.max s.now (Nat.max k.mldEnd k.swapAt)
    ∃ t o, Safety.Begins i s t v l o ∧ (coreOf t v.core).lease = some v.unit ∧ o.kind = 6 ∧ o.start = request ∧ o.step = 0 ∧
      o.ns = ns ∧ o.slice = ka / 2 ^ 32 ∧ o.base = 32 * 2 ^ w ∧ o.count = 32 * blocks ∧ o.src.row0 = kb % 2 ^ 32 ∧
      o.srcB.row0 = kb / 2 ^ 32 ∧ o.cid = ka / 2 ^ 28 % 16 ∧ o.red = red ∧ (red = true → o.dest = (readK s v.unit (b + 1)).toNat) ∧
      o.blocks = (List.range blocks).map (fun i => pairsOf s v (g + i * 2 ^ w) (2 ^ w)) ∧ o.quanta.length = ns ∧
      (∀ q ∈ o.quanta, q ≤ 32) ∧ (s.quanta = [] → (∀ m ∈ s.matOps, m.2.asks = []) → replays s (unitLaunchId s v.unit) = false →
        ∀ q ∈ o.quanta, q = 0) ∧
      ∃ id, ⟨request, if o.quanta.headD 0 = 0 then .lehrStep else .budgetRetry, .of [id]⟩ ∈ t.agenda ∧ tabGet id t.matOps = some o := by
  intro k ka kb blocks ns request
  obtain ⟨-, length, small, granted⟩ := lehrPlan_spec red w g a b { s with clocks := c } v
  obtain ⟨group, data, lease⟩ := lehrReserved_spec red w g a b { s with clocks := c } v
  rw [startTmm_eq] at goes
  have begins := lehr_begins goes ((view_touchRange ..).trans ((group _).trans hv))
    (heldData_trans (s := { s with clocks := c }) data (heldData_of_sameData (sameData_touchRange ..))) rfl rfl
  rw [← fld_high, ← fld_high, ← fld_low]
  refine ⟨_, _, begins, ?_, rfl, rfl, rfl, rfl, rfl, rfl, rfl, rfl, rfl, rfl, rfl, ?_, rfl, length, small,
    fun free asks live => granted ⟨free, asks, live⟩, _, requestStep_agenda rfl, tabGet_requestStep (tabGet_put_same ..) _⟩
  · exact (lease_lehr ..).trans ((touchRange_core (field := Core.lease) (fun _ _ => by rfl) ..).trans lease)
  · rintro rfl
    rfl

/-- Settles O39: the tests of Table 16.3, and a lehr over its maps whose steps are planned at issue. -/
theorem lehrsBegin : Obligations.LehrsBegin := by
  intro l w g a b e s v u hu k n ka kb x y blocks ns s0 cid outside badMap limits request lehr
  have within_ (red : Bool) : tests (limits red) [(0x01, tilesBad s v.unit x || tilesBad s v.unit y),
      (0x02, g.toNat + (lehrArgs s v a.toNat b.toNat).mb * n ≤ 64 && rangeFree s v.unit g.toNat ((lehrArgs s v a.toNat b.toNat).mb * n)),
      (0x03, operandBad x || operandBad y || !pairAllowed y.fmt x.fmt),
      (0x04, operandPasses s v.unit x ((lehrArgs s v a.toNat b.toNat).arow + 32 * (lehrArgs s v a.toNat b.toNat).mb - 1)
          ((lehrArgs s v a.toNat b.toNat).s0 + (lehrArgs s v a.toNat b.toNat).ns - 1) ||
        operandPasses s v.unit y ((lehrArgs s v a.toNat b.toNat).brow + 32 * n - 1)
          ((lehrArgs s v a.toNat b.toNat).s0 + (lehrArgs s v a.toNat b.toNat).ns - 1)),
      (0x06, pairSpeed s v.unit y.fmt x.fmt = 0),
      (0x07, (lehrArgs s v a.toNat b.toNat).ns = 0 || 64 < g.toNat + (lehrArgs s v a.toNat b.toNat).mb * n),
      (0x0F, red && (commOf s (unitPart s v.unit) (lehrArgs s v a.toNat b.toNat).cid).state != 2)] := by
    have args : lehrArgs s v a.toNat b.toNat = ⟨blocks, ns, cid, s0, kb % 2 ^ 32, kb / 2 ^ 32⟩ := by
      rw [lehrArgs, fld_high, fld_high, fld_low]
      rfl
    rw [args]
    refine .cons ⟨rfl, ?_⟩ (.cons ⟨rfl, ?_⟩ (.cons ⟨rfl, ?_⟩ (.cons ⟨rfl, ?_⟩ (.cons ⟨rfl, decide_eq_true_iff⟩ (.cons ⟨rfl, ?_⟩
      (.cons ⟨rfl, ?_⟩ .nil))))))
    · rw [Bool.or_eq_true, tilesBad_iff hu, tilesBad_iff hu]
      simp only [List.mem_append, or_and_right, exists_or]
    · rw [Bool.and_eq_true, decide_eq_true_eq, rangeFree_iff hu]
    · rw [Bool.or_eq_true, Bool.or_eq_true, Bool.not_eq_true', operandBad_iff, operandBad_iff, or_assoc]
    · rw [Bool.or_eq_true, operandPasses_iff, operandPasses_iff]
    · rw [Bool.or_eq_true, decide_eq_true_eq, decide_eq_true_eq]
    · rw [Bool.and_eq_true, bne_iff_ne]
  exact ⟨array_goes (i := .tmm l w g b a e) (go := startTmm false l.toNat w.toNat g.toNat a.toNat b.toNat) rfl rfl (within_ false)
      fun at_ c goes => startTmm_begins at_.group goes,
    array_goes (i := .tmmRed l w g b a e) (go := startTmm true l.toNat w.toNat g.toNat a.toNat b.toNat) rfl rfl (within_ true)
      fun at_ c goes => startTmm_begins at_.group goes⟩

end Sys2Proof
end

section
/-! Granule instructions at issue (R110-R112, R306, R315, R316): O40. -/

namespace Sys2Proof
open Machine

/-! ## Granules that are zeroed -/

theorem granuleImage_zero_same (s : State) (c p : Nat) : granuleImage (coreOf (zeroGranule s c p) c) p = [] := by
  rw [zeroGranule, coreOf_modCore, granuleImage, List.filterMap_eq_nil_iff]
  intro x hx
  have out := (List.mem_filter.mp hx).2
  rw [Bool.or_eq_true, decide_eq_true_eq, decide_eq_true_eq] at out
  exact if_neg (by omega)

theorem granuleImage_zero_other (s : State) (c : Nat) {p q : Nat} (h : p ≠ q) :
    granuleImage (coreOf (zeroGranule s c q) c) p = granuleImage (coreOf s c) p := by
  rw [zeroGranule, coreOf_modCore, granuleImage, granuleImage, Memory.clear, List.filterMap_filter]
  refine List.filterMap_congr fun ⟨a, b⟩ _ => ?_
  dsimp only
  by_cases inside : 4096 * p ≤ a ∧ a < 4096 * p + 4096
  · have out : (decide (a < 4096 * q) || decide (4096 * q + 4096 ≤ a)) = true := by
      rw [Bool.or_eq_true, decide_eq_true_eq, decide_eq_true_eq]
      omega
    rw [if_pos out]
  · rw [if_neg inside, ite_self]

/-- Granules zeroed one after another read zero, and the others as before. -/
theorem granuleImage_zeroed (c p : Nat) : ∀ (l : List Nat) (s : State),
    (p ∈ l → granuleImage (coreOf (l.foldl (fun a q => zeroGranule a c q) s) c) p = []) ∧
    (p ∉ l → granuleImage (coreOf (l.foldl (fun a q => zeroGranule a c q) s) c) p = granuleImage (coreOf s c) p)
  | [], s => ⟨fun no => absurd no List.not_mem_nil, fun _ => rfl⟩
  | q :: l, s => by
    obtain ⟨inside, outside⟩ := granuleImage_zeroed c p l (zeroGranule s c q)
    refine ⟨fun mem => ?_, fun no => ?_⟩
    · by_cases later : p ∈ l
      · exact inside later
      · obtain rfl := (List.mem_cons.mp mem).resolve_right later
        exact (outside later).trans (granuleImage_zero_same s c p)
    · exact (outside fun mem => no (List.mem_cons_of_mem q mem)).trans
        (granuleImage_zero_other s c fun eq => no (eq ▸ List.mem_cons_self))

/-! ## Names -/

/-- Names put one after another: a name among them has the last that was put under it. -/
theorem tabGet_putAll_other {α : Type} {k : Nat} : ∀ {l : List (Nat × α)} (t : Tab α), (∀ x ∈ l, x.1 ≠ k) →
    tabGet k (l.foldl (fun t p => tabPut p.1 p.2 t) t) = tabGet k t
  | [], _, _ => rfl
  | x :: l, t, no => by
    rw [List.foldl_cons, tabGet_putAll_other _ fun y hy => no y (List.mem_cons_of_mem x hy),
      tabGet_put_other _ _ (no x List.mem_cons_self).symm]

theorem tabGet_putAll {α : Type} : ∀ {ks : List Nat} {fs : List α} (t : Tab α) {j : Nat} {k : Nat}, ks.Nodup → ks[j]? = some k → j < fs.length →
    tabGet k ((ks.zip fs).foldl (fun t p => tabPut p.1 p.2 t) t) = fs[j]?
  | [], _, _, _, _, _, at_, _ => by cases at_
  | _ :: _, [], _, _, _, _, _, below => absurd below (Nat.not_lt_zero _)
  | k₀ :: ks, f :: fs, t, 0, k, nodup, at_, _ => by
    obtain rfl : k₀ = k := Option.some.inj at_
    rw [List.zip_cons_cons, List.foldl_cons, tabGet_putAll_other _ fun x hx eq => (List.nodup_cons.mp nodup).1 (by
        rw [← eq]
        exact (List.of_mem_zip (a := x.1) (b := x.2) hx).1), tabGet_put_same]
    rfl
  | k₀ :: ks, f :: fs, t, j + 1, k, nodup, at_, below =>
    tabGet_putAll (tabPut k₀ f t) (List.nodup_cons.mp nodup).2 at_ (Nat.lt_of_succ_lt_succ below)

/-! ## Grants (R110, R112) -/

/-- What a grant of granules leaves: the names of the lowest free ones, which read zero. -/
structure Granted (s t : State) (core unit g n : Nat) : Prop where
  names : ∀ j < n, ((unitOf t unit).bind fun x => tabGet (g + j) x.gmap) = (freeGranules s core)[j]?
  others : ∀ j, ¬ (g ≤ j ∧ j < g + n) → ((unitOf t unit).bind fun x => tabGet j x.gmap) = (unitOf s unit).bind fun x => tabGet j x.gmap
  zero : ∀ j < n, ∀ p, (freeGranules s core)[j]? = some p → granuleImage (coreOf t core) p = []
  kept : ∀ p, (∀ j < n, (freeGranules s core)[j]? ≠ some p) → granuleImage (coreOf t core) p = granuleImage (coreOf s core) p

theorem mem_zip_snd {α : Type} (f : Nat → α) {β : Type} (fs : List β) (n : Nat) (p : β) :
    p ∈ (((List.range n).map f).zip fs).map (·.2) ↔ ∃ j < n, fs[j]? = some p := by
  constructor
  · intro mem
    obtain ⟨x, hx, rfl⟩ := List.mem_map.mp mem
    obtain ⟨j, hj⟩ := List.mem_iff_getElem?.mp hx
    obtain ⟨key, value⟩ := List.getElem?_zip_eq_some.mp hj
    obtain ⟨below, -⟩ := List.getElem?_eq_some_iff.mp key
    rw [List.length_map, List.length_range] at below
    exact ⟨j, below, value⟩
  · rintro ⟨j, below, hp⟩
    refine List.mem_map.mpr ⟨(f j, p), List.mem_iff_getElem?.mpr ⟨j, List.getElem?_zip_eq_some.mpr ⟨?_, hp⟩⟩, rfl⟩
    rw [List.getElem?_map, List.getElem?_range below]
    rfl

theorem grantGranules_grants {s : State} {unit g n : Nat} {u : UnitSt} (hu : unitOf s unit = some u)
    (enough : n ≤ (freeGranules s u.core).length) : Granted s (grantGranules s unit ((List.range n).map (g + ·))) u.core unit g n := by
  rw [grantGranules, hu]
  dsimp only
  have zeroed : (((List.range n).map (g + ·)).zip (freeGranules s u.core)).foldl (fun a p => zeroGranule a u.core p.2) s =
      ((((List.range n).map (g + ·)).zip (freeGranules s u.core)).map (·.2)).foldl (fun a q => zeroGranule a u.core q) s := by rw [List.foldl_map]
  have units : ∀ l : List Nat, (l.foldl (fun a q => zeroGranule a u.core q) s).units = s.units :=
    fun l => foldl_same (view := State.units) (f := fun a q => zeroGranule a u.core q) (fun _ _ => rfl) l s
  have names (j : Nat) : ((unitOf (modUnit ((((List.range n).map (g + ·)).zip (freeGranules s u.core)).foldl
        (fun a p => zeroGranule a u.core p.2) s) unit fun y => { y with
          gmap := (((List.range n).map (g + ·)).zip (freeGranules s u.core)).foldl (fun t p => tabPut p.1 p.2 t) y.gmap }) unit).bind
      fun x => tabGet j x.gmap) =
      tabGet j ((((List.range n).map (g + ·)).zip (freeGranules s u.core)).foldl (fun t p => tabPut p.1 p.2 t) u.gmap) := by
    rw [unitOf_modUnit, unitOf, zeroed, units, ← unitOf, hu]
    rfl
  refine ⟨fun j hj => ?_, fun j out => ?_, fun j hj p hp => ?_, fun p no => ?_⟩
  · rw [names]
    refine tabGet_putAll u.gmap (List.nodup_range.map fun a b => Nat.add_left_cancel) ?_ (Nat.lt_of_lt_of_le hj enough)
    rw [List.getElem?_map, List.getElem?_range hj]
    rfl
  · rw [names, hu]
    refine tabGet_putAll_other u.gmap fun x hx eq => out ?_
    obtain ⟨i, hi, at_⟩ := List.mem_map.mp (List.of_mem_zip (a := x.1) (b := x.2) hx).1
    have := List.mem_range.mp hi
    omega
  · rw [zeroed]
    exact (granuleImage_zeroed u.core p _ s).1 ((mem_zip_snd ..).mpr ⟨j, hj, hp⟩)
  · rw [zeroed]
    exact (granuleImage_zeroed u.core p _ s).2 fun mem => by
      obtain ⟨j, hj, hp⟩ := (mem_zip_snd ..).mp mem
      exact no j hj hp

theorem zeroings_frame (c : Nat) (l : List (Nat × Nat)) (s : State) : { l.foldl (fun a p => zeroGranule a c p.2) s with cores := [] } = { s with cores := [] } :=
  foldl_same (view := fun x => { x with cores := [] }) (f := fun a (p : Nat × Nat) => zeroGranule a c p.2) (fun _ _ => rfl) l s

/-- A grant changes granules and names of a unit only. -/
theorem grantGranules_frame (s : State) (u : Nat) (l : List Nat) :
    { grantGranules s u l with cores := [], units := [] } = { s with cores := [], units := [] } := by
  unfold grantGranules
  split
  · rfl
  · exact (congrArg (fun x : State => { x with units := [] }) (zeroings_frame ..) :)

theorem view_grantGranules (s : State) (u : Nat) (l : List Nat) (g : Gid) : view (grantGranules s u l) g = view s g := by
  unfold grantGranules
  split
  · rfl
  · next x _ =>
    dsimp only
    rw [view_modUnit]
    exact foldl_same (view := fun a => view a g) (f := fun a (p : Nat × Nat) => zeroGranule a x.core p.2)
      (fun _ _ => view_modCore (fun _ => by rfl) ..) _ s

theorem groupless_openReq (s : State) (q : Req) : groupless (openReq s q).1 = groupless s := by
  unfold openReq
  dsimp only
  cases q.slot with
  | none => rfl
  | some n => exact groupless_modRun (freshNat s).2 q.gid _

theorem groupless_freeGranules {s t : State} (h : groupless t = groupless s) (c : Nat) : freeGranules t c = freeGranules s c :=
  (congrArg (fun x => freeGranules x c) h :)

theorem granuleImage_congr {k l : Core} (h : k.acc = l.acc) (p : Nat) : granuleImage k p = granuleImage l p := by
  rw [granuleImage, granuleImage, h]

/-- A decision on an elastic request (R112). -/
theorem decideElastic_spec {s : State} {id kd status : Nat} {q : Req} (found : tabGet id s.reqs = some q) :
    tabGet id (decideElastic s id kd status).reqs = some { q with kind := .kval kd (BitVec.ofNat 64 status), due := s.now + 8 } ∧
    ⟨s.now + 8, .loadReturn, .of [id]⟩ ∈ (decideElastic s id kd status).agenda := by
  refine ⟨?_, List.mem_append_right _ List.mem_cons_self⟩
  show tabGet id (tabMod id _ s.reqs) = _
  rw [tabGet_mod_same, found]
  rfl

section
variable {s : State} {v : View} {u : UnitSt}

/-! ## Limits -/

theorem outsideElastic_iff (g n : Nat) : outsideElastic s v.unit g n = true ↔
    g < (unitFrame s v.unit).accres ∨ (unitFrame s v.unit).accres + (unitFrame s v.unit).accel < g + n := by
  rw [outsideElastic, Bool.or_eq_true, decide_eq_true_eq, decide_eq_true_eq]
  exact Iff.rfl

theorem wanted_iff (hu : unitOf s v.unit = some u) (g n : Nat) : (outsideElastic s v.unit g n || (unitOf s v.unit).any fun x => (List.range n).any fun j => holdsGranule x (g + j)) =
    true ↔ (g < (unitFrame s v.unit).accres ∨ (unitFrame s v.unit).accres + (unitFrame s v.unit).accel < g + n) ∨
      ∃ j < n, holdsGranule u (g + j) = true := by
  rw [Bool.or_eq_true, outsideElastic_iff, hu]
  simp

/-! ## The instructions -/

/-- A request of a slot that a later decision answers, counted at its group. -/
structure Counted (i : Instr) (s t : State) (v : View) (l : Nat) (q : Req) (id : Nat) : Prop where
  goes : Safety.Goes i s v t .next 0
  request : tabGet id t.reqs = some q
  gid : q.gid = v.gid
  slot : q.slot = some l
  counted : view t v.gid = some { v with run := { v.run with slots := v.run.slots.mapIdx fun j k => if j = l then k + 1 else k } }

theorem startAccget_granted {l w g b : Nat} (enough : 2 ^ w ≤ (elasticFree s v.core).length) : startAccget l w g b s v =
    decideElastic (grantGranules (openReq s (Req.mk' s v (some l) .nothing s.now)).1 v.unit ((List.range (2 ^ w)).map (g + ·))) s.fresh b 0 :=
  if_pos enough

theorem startAccget_short {l w g b : Nat} (few : (elasticFree s v.core).length < 2 ^ w) : startAccget l w g b s v =
    decideElastic (openReq s (Req.mk' s v (some l) .nothing s.now)).1 s.fresh b 2 :=
  if_neg (Nat.not_le.mpr few)

theorem elasticFree_enough {n : Nat} (pos : 0 < n) (enough : n ≤ (elasticFree s v.core).length) : n ≤ (freeGranules s v.core).length := by
  unfold elasticFree at enough
  split at enough
  · exact absurd enough (Nat.not_le.mpr pos)
  · exact enough

theorem accget_grants {i : Instr} {l w g b : Nat} (hu : unitOf s v.unit = some u) (home : u.core = v.core) (hv : view s v.gid = some v) (enough : 2 ^ w ≤ (elasticFree s v.core).length)
    (goes : Safety.Goes i s v (startAccget l w g b s v) .next 0) : ∃ t q id, Counted i s t v l q id ∧
      (q.due = s.now + 8 ∧ q.kind = .kval b (BitVec.ofNat 64 0) ∧ ⟨s.now + 8, .loadReturn, .of [id]⟩ ∈ t.agenda) ∧
      Granted s t v.core v.unit g (2 ^ w) ∧ t.mem = s.mem := by
  rw [startAccget_granted enough] at goes
  have frame := groupless_openReq s (Req.mk' s v (some l) .nothing s.now)
  have counted := openReq_counted (q := Req.mk' s v (some l) .nothing s.now) hv rfl rfl
  have found := openReq_request s (Req.mk' s v (some l) .nothing s.now)
  have data := sameData_openReq s (Req.mk' s v (some l) .nothing s.now)
  generalize (openReq s (Req.mk' s v (some l) .nothing s.now)).1 = r at goes frame counted found data
  obtain ⟨mem, -, -, units, -, cores⟩ := data
  have now_ : r.now = s.now := (congrArg State.now frame :)
  have free := groupless_freeGranules frame v.core
  have hr : unitOf r v.unit = some u := by rw [unitOf, units, ← unitOf, hu]
  have grants := grantGranules_grants (g := g) (n := 2 ^ w) hr (by
    rw [home, free]
    exact elasticFree_enough (Nat.two_pow_pos w) enough)
  have granted := grantGranules_frame r v.unit ((List.range (2 ^ w)).map (g + ·))
  have group := view_grantGranules r v.unit ((List.range (2 ^ w)).map (g + ·)) v.gid
  generalize grantGranules r v.unit ((List.range (2 ^ w)).map (g + ·)) = t at goes grants granted group
  have tnow : t.now = s.now := (congrArg State.now granted :).trans now_
  have treqs : t.reqs = r.reqs := (congrArg State.reqs granted :)
  obtain ⟨decided, step⟩ := decideElastic_spec (id := s.fresh) (kd := b) (status := 0) (treqs ▸ found)
  obtain ⟨names, others, zero, kept⟩ := grants
  rw [home, free] at names zero kept
  refine ⟨_, _, s.fresh, ⟨goes, decided, rfl, rfl, ?_⟩, ⟨congrArg (· + 8) tnow, rfl, tnow ▸ step⟩, ⟨names, fun j out => ?_, zero, fun p no => ?_⟩,
    (congrArg State.mem granted :).trans mem⟩
  · exact (view_congr (s := t) rfl rfl v.gid).trans (group.trans counted)
  · refine (others j out).trans ?_
    rw [hr, hu]
  · exact (kept p no).trans (granuleImage_congr (cores v.core).2.1 p)

theorem accget_short {i : Instr} {l w g b : Nat} (hv : view s v.gid = some v) (few : (elasticFree s v.core).length < 2 ^ w)
    (goes : Safety.Goes i s v (startAccget l w g b s v) .next 0) : ∃ t q id, Counted i s t v l q id ∧
      (q.due = s.now + 8 ∧ q.kind = .kval b (BitVec.ofNat 64 2) ∧ ⟨s.now + 8, .loadReturn, .of [id]⟩ ∈ t.agenda) ∧
      t.units = s.units ∧ (coreOf t v.core).acc = (coreOf s v.core).acc := by
  rw [startAccget_short few] at goes
  have frame := groupless_openReq s (Req.mk' s v (some l) .nothing s.now)
  have counted := openReq_counted (q := Req.mk' s v (some l) .nothing s.now) hv rfl rfl
  have found := openReq_request s (Req.mk' s v (some l) .nothing s.now)
  obtain ⟨-, -, -, units, -, cores⟩ := sameData_openReq s (Req.mk' s v (some l) .nothing s.now)
  generalize (openReq s (Req.mk' s v (some l) .nothing s.now)).1 = r at goes frame counted found units cores
  have now_ : r.now = s.now := (congrArg State.now frame :)
  obtain ⟨decided, step⟩ := decideElastic_spec (id := s.fresh) (kd := b) (status := 2) found
  exact ⟨_, _, s.fresh, ⟨goes, decided, rfl, rfl, (view_congr (s := r) rfl rfl v.gid).trans counted⟩,
    ⟨congrArg (· + 8) now_, rfl, now_ ▸ step⟩, units, (cores v.core).2.1⟩

theorem accgetW_queues {i : Instr} {l w g b : Nat} (hv : view s v.gid = some v)
    (goes : Safety.Goes i s v (startAccgetW l w g b s v) .next 0) : ∃ t q id, Counted i s t v l q id ∧ q.kind = .nothing ∧ t.units = s.units ∧
      (coreOf t v.core).elq = (coreOf s v.core).elq ++ [⟨v.unit, b, g, 2 ^ w, id⟩] := by
  have queue := openReq_core (field := Core.elq) (fun _ _ => by rfl) s (Req.mk' s v (some l) .nothing s.now) v.core
  have counted := openReq_counted (q := Req.mk' s v (some l) .nothing s.now) hv rfl rfl
  have units := (sameData_openReq s (Req.mk' s v (some l) .nothing s.now)).2.2.2.1
  have found := openReq_request s (Req.mk' s v (some l) .nothing s.now)
  change Safety.Goes i s v (modCore (openReq s (Req.mk' s v (some l) .nothing s.now)).1 v.core fun k =>
    { k with elq := k.elq ++ [⟨v.unit, b, g, 2 ^ w, s.fresh⟩] }) .next 0 at goes
  generalize (openReq s (Req.mk' s v (some l) .nothing s.now)).1 = r at goes queue counted units found
  refine ⟨_, _, s.fresh, ⟨goes, found, rfl, rfl, (view_modCore (fun _ => by rfl) ..).trans counted⟩, rfl, units, ?_⟩
  rw [coreOf_modCore]
  exact congrArg (· ++ [⟨v.unit, b, g, 2 ^ w, s.fresh⟩]) queue

theorem tabGet_filter {α : Type} (keep : Nat → Bool) (j : Nat) : ∀ t : Tab α,
    tabGet j (t.filter fun x => keep x.1) = if keep j then tabGet j t else none
  | [] => by simp [tabGet]
  | (k, x) :: t => by
    rw [List.filter_cons, tabGet]
    split
    · next on =>
      rw [tabGet, tabGet_filter keep j t]
      split
      · next eq => rw [if_pos (eq ▸ on)]
      · rfl
    · next off =>
      rw [tabGet_filter keep j t]
      split
      · next on => exact (if_neg fun (eq : k = j) => off (eq ▸ on)).symm
      · rfl

theorem accput_begins {i : Instr} {l w g : Nat} (hu : unitOf s v.unit = some u) (hv : view s v.gid = some v)
    (goes : Safety.Goes i s v (startAccput l w g s v) .next 0) :
    let names (t : State) (j : Nat) : Option Nat := (unitOf t v.unit).bind fun x => tabGet j x.gmap
    let freed := Nat.max s.now (granuleFree s v.core ((List.range (2 ^ w)).filterMap fun j => tabGet (g + j) u.gmap) true)
    ∃ t x, Safety.Begins i s t v l x ∧ Safety.Ends t x freed .storeAck ∧ x.kind = 8 ∧
      (∀ j, g ≤ j ∧ j < g + 2 ^ w → names t j = none) ∧ ∀ j, ¬ (g ≤ j ∧ j < g + 2 ^ w) → names t j = tabGet j u.gmap := by
  intro names freed
  unfold startAccput at goes
  rw [hu] at goes
  dsimp only [Option.map_some, Option.getD_some] at goes
  rw [List.filterMap_map] at goes
  have name (j : Nat) : names (sendMat (modUnit s v.unit fun u => { u with gmap := u.gmap.filter fun p => !((List.range (2 ^ w)).map (g + ·)).contains p.1 })
      v l .storeAck { MatOp.mk' s v 8 freed freed with blocks := [((List.range (2 ^ w)).filterMap fun j => tabGet (g + j) u.gmap).map fun p => (p, p)] }) j =
      if !((List.range (2 ^ w)).map (g + ·)).contains j then tabGet j u.gmap else none := by
    simp only [names]
    rw [unitOf, (sameData_sendMat ..).2.2.2.1, ← unitOf, unitOf_modUnit, hu]
    exact tabGet_filter (fun k => !((List.range (2 ^ w)).map (g + ·)).contains k) j u.gmap
  have named (j : Nat) : ((List.range (2 ^ w)).map (g + ·)).contains j = true ↔ g ≤ j ∧ j < g + 2 ^ w := by
    rw [List.contains_iff_mem, List.mem_map]
    constructor
    · rintro ⟨k, hk, rfl⟩
      exact ⟨Nat.le_add_right .., Nat.add_lt_add_left (List.mem_range.mp hk) g⟩
    · rintro ⟨low, high⟩
      exact ⟨j - g, List.mem_range.mpr (by omega), by omega⟩
  refine ⟨_, _, begins_of goes ((view_modUnit ..).trans hv) fun _ => ⟨rfl, rfl, rfl⟩, ends_of .., rfl, fun j inside => ?_, fun j out => ?_⟩
  · refine (name j).trans ?_
    rw [(named j).mpr inside]
    rfl
  · refine (name j).trans ?_
    rw [Bool.not_eq_true _ |>.mp (mt (named j).mp out)]
    rfl

theorem accz_begins {i : Instr} {l w g : Nat} (hv : view s v.gid = some v) (goes : Safety.Goes i s v (startAccz l w g s v) .next 0) :
    let pairs := (pairsOf s v g (2 ^ w)).map (·.2)
    let zeroed := Nat.max s.now (granuleFree s v.core pairs true)
    ∃ t x, Safety.Begins i s t v l x ∧ Safety.Ends t x (zeroed + 2 ^ w - 1) .storeAck ∧ x.kind = 7 ∧ x.start = zeroed ∧
        t.units = s.units ∧ x.blocks = [pairs.map fun p => (p, p)] := by
  intro pairs zeroed
  have listed : (pairsOf s v g (2 ^ w)).map (fun p => (p.2, p.2)) = pairs.map fun p => (p, p) := by rw [List.map_map]; rfl
  have written : ((pairsOf s v g (2 ^ w)).map fun p => (p.2, p.2)).map (·.2) = pairs := by rw [List.map_map]; rfl
  unfold startAccz at goes
  dsimp only at goes
  rw [written] at goes
  have marked := sameData_foldl (f := fun a (x : Nat × Nat × Nat) => markPairs a v.core [x.2] (zeroed + x.1)) (fun _ _ => sameData_markPairs ..)
    (((pairsOf s v g (2 ^ w)).map fun p => (p.2, p.2)).mapIdx fun j p => (j, p)) s
  have group := foldl_same (view := fun a => view a v.gid) (f := fun a (x : Nat × Nat × Nat) => markPairs a v.core [x.2] (zeroed + x.1))
    (fun _ _ => view_markPairs ..) (((pairsOf s v g (2 ^ w)).map fun p => (p.2, p.2)).mapIdx fun j p => (j, p)) s
  have data := Safety.sameData_trans marked (sameData_touchRange _ v g (2 ^ w))
  refine ⟨_, _, begins_of goes ((view_touchRange ..).trans (group.trans hv)) (heldData_of_sameData data), ends_of .., rfl, rfl, ?_,
    congrArg (fun l => [l]) listed⟩
  exact (Safety.sameData_trans data (sameData_sendMat ..)).2.2.2.1

end

/-- Settles O40: the decision on elastic granules, the queue of `accget.w`, and the work of `accput` and `accz`. -/
theorem granuleRequests : Obligations.GranuleRequests := by
  intro l w g b e s v u hu home n fr named notElastic notHeld free counted answered names wanted freed pairs zeroed
  have pre : arrayPre (fun _ _ => []) false = storesPre := funext fun s => funext (storesPre_eq s)
  refine ⟨?_, ?_, ?_, ?_⟩
  · refine array_tested (i := .accget l w g b e) (trap := accgetTrap w.toNat g.toNat) (tiles := fun _ _ => [])
      (effect := plain (startAccget l.toNat w.toNat g.toNat b.toNat)) (by rw [pre]; rfl) rfl (.cons ⟨rfl, wanted_iff hu ..⟩ .nil)
      fun at_ _ goes => ⟨fun enough => ?_, fun few => ?_⟩
    · obtain ⟨t, q, id, c, ans, grants, mem⟩ := accget_grants hu home at_.group enough goes
      exact ⟨t, q, id, ⟨c.goes, c.request, c.gid, c.slot, c.counted⟩, ans, grants.names,
        fun j out => (grants.others j out).trans (by rw [hu]; rfl), grants.zero, grants.kept, mem⟩
    · obtain ⟨t, q, id, c, rest⟩ := accget_short at_.group few goes
      exact ⟨t, q, id, ⟨c.goes, c.request, c.gid, c.slot, c.counted⟩, rest⟩
  · refine array_tested (i := .accgetW l w g b e) (trap := accgetTrap w.toNat g.toNat) (tiles := fun _ _ => [])
      (effect := plain (startAccgetW l.toNat w.toNat g.toNat b.toNat)) (by rw [pre]; rfl) rfl (.cons ⟨rfl, wanted_iff hu ..⟩ .nil)
      fun at_ _ goes => ?_
    obtain ⟨t, q, id, c, rest⟩ := accgetW_queues at_.group goes
    exact ⟨t, q, id, ⟨c.goes, c.request, c.gid, c.slot, c.counted⟩, rest⟩
  · exact array_tested (i := .accput l w g e) (trap := accputTrap w.toNat g.toNat) (tiles := fun _ _ => [])
      (effect := plain (startAccput l.toNat w.toNat g.toNat)) (by rw [pre]; rfl) rfl
      (.cons ⟨rfl, outsideElastic_iff ..⟩ (.cons ⟨rfl, rangeFree_iff hu ..⟩ .nil)) fun at_ _ goes => accput_begins hu at_.group goes
  · exact array_tested (i := .accz l w g e) (trap := acczTrap w.toNat g.toNat) (tiles := fun _ _ => [])
      (effect := plain (startAccz l.toNat w.toNat g.toNat)) (by rw [pre]; rfl) rfl
      (.cons ⟨rfl, rangeFree_iff hu ..⟩ .nil) fun at_ _ goes => accz_begins at_.group goes

end Sys2Proof
end

section
/-! Loads and stores of granules at issue (R306, R317, R399, R400): O41. -/

namespace Sys2Proof
open Machine

/-! ## A counted request keeps the work under way -/

theorem addRounds_work (s : State) (v : View) (n : Nat) : (addRounds s v n).matOps = s.matOps ∧ (addRounds s v n).agenda = s.agenda := by
  unfold addRounds
  split
  · exact ⟨rfl, rfl⟩
  · split <;> exact ⟨rfl, rfl⟩

theorem addRounds_core {α : Type} {field : Core → α} (keeps : ∀ k w, field { k with warps := w } = field k) (s : State) (v : View) (n d : Nat) :
    field (coreOf (addRounds s v n) d) = field (coreOf s d) := by
  unfold addRounds
  split
  · rfl
  · split
    · exact coreOf_modWarp_field (fun k w => keeps k w) d
    · rfl

theorem countRequest_work (s : State) (v : View) (rounds lost : Nat) :
    (countRequest s v rounds lost).matOps = s.matOps ∧ s.agenda ⊆ (countRequest s v rounds lost).agenda := by
  unfold countRequest
  dsimp only
  rw [(addRounds_work ..).1, (addRounds_work ..).2]
  split
  · exact ⟨rfl, List.Subset.refl _⟩
  · obtain ⟨same, agenda⟩ := capture_spec (modWarp s v.core v.wslot fun w => { w with reqCount := w.reqCount + 1 }) (unitLaunchId s v.unit) 0x08
      v.core (v.wslot * 64) (((warpOf s v.core v.wslot).map (·.reqCount)).getD 0 * 256 + lost)
    exact ⟨(congrArg State.matOps same :), agenda⟩

theorem countRequest_core {α : Type} {field : Core → α} (keeps : ∀ k w, field { k with warps := w } = field k) (s : State) (v : View)
    (rounds lost d : Nat) : field (coreOf (countRequest s v rounds lost) d) = field (coreOf s d) := by
  have counted : field (coreOf (modWarp s v.core v.wslot fun w => { w with reqCount := w.reqCount + 1 }) d) = field (coreOf s d) :=
    coreOf_modWarp_field (fun k w => keeps k w) d
  unfold countRequest
  dsimp only
  rw [addRounds_core keeps]
  split
  · exact counted
  · rw [tasksOf_coreOf (tasksOf_capture ..)]
    exact counted

/-! ## A transfer is sent -/

/-- Work that is sent, whose clocks are noted, and whose request then takes what does not concern its slot. -/
theorem transfer_begins {i j : Instr} {s r b : State} {v : View} {slot lost : Nat} {m : MatOp} {f : Req → Req}
    (goes : Safety.Goes i s v (countRequest (modReq b r.fresh f) v 0 lost) .next 0) (noted : aside b = aside (sendMat r v slot j m))
    (keeps : ∀ q, (f q).gid = q.gid ∧ (f q).slot = q.slot ∧ (f q).due = q.due) (group : view r v.gid = some v) (data : heldData s r) :
    Safety.Begins i s (countRequest (modReq b r.fresh f) v 0 lost) v slot m ∧
    Safety.Ends (countRequest (modReq b r.fresh f) v 0 lost) m m.due j := by
  have tasks := tasksOf_aside noted
  obtain ⟨works, steps⟩ := countRequest_work (modReq b r.fresh f) v 0 lost
  have work : tabGet r.fresh (countRequest (modReq b r.fresh f) v 0 lost).matOps = some m := by
    rw [works]
    refine Eq.trans ?_ (sendMat_work r v slot j m)
    exact congrArg (tabGet r.fresh) (congrArg State.matOps noted :)
  have request : tabGet r.fresh (countRequest (modReq b r.fresh f) v 0 lost).reqs = some (f (Req.mk' r v (some slot) (.matrix 0 []) m.due)) := by
    rw [countRequest_reqs]
    show tabGet r.fresh (tabMod r.fresh f b.reqs) = _
    rw [tabGet_mod_same, tasksOf_reqs tasks, sendMat_request]
    rfl
  obtain ⟨gid, count, due⟩ := keeps (Req.mk' r v (some slot) (.matrix 0 []) m.due)
  refine ⟨⟨goes, ⟨_, _, work, request, gid, count⟩, ?_, fun c => ?_⟩, rfl, _, work, steps ?_, _, request, due⟩
  · rw [view_countRequest]
    exact (view_congr (s := b) rfl rfl v.gid).trans ((tasksOf_view tasks v.gid).trans (sendMat_counted group ..))
  · obtain ⟨store, acc, tiles⟩ := heldData_trans data (heldData_of_sameData (sameData_sendMat r v slot j m)) c
    have core : coreOf b c = coreOf (sendMat r v slot j m) c := tasksOf_coreOf tasks c
    have kept {α : Type} {field : Core → α} (keeps : ∀ k w, field { k with warps := w } = field k) :
        field (coreOf (countRequest (modReq b r.fresh f) v 0 lost) c) = field (coreOf (sendMat r v slot j m) c) :=
      (countRequest_core keeps ..).trans (congrArg field core)
    exact ⟨(kept fun _ _ => by rfl).trans store, (kept fun _ _ => by rfl).trans acc, (kept fun _ _ => by rfl).trans tiles⟩
  · rw [show (modReq b r.fresh f).agenda = (sendMat r v slot j m).agenda from (congrArg State.agenda noted :)]
    exact sendMat_step ..

theorem aside_clockDrain (s : State) (v : View) (accs : Accs) (id : Nat) : aside (clockDrain s v accs id) = aside s := by
  unfold clockDrain
  split
  · rfl
  · refine (aside_release ..).trans ?_
    refine (foldl_same (view := aside) (fun t f => ?_) _ _).trans ((aside_acquire ..).trans (foldl_same (fun _ _ => aside_release ..) _ s))
    dsimp only
    split
    · refine (foldl_same (view := aside) (fun t w => ?_) _ _).trans (aside_raceCheck ..)
      exact (aside_releaseAt ..).trans (aside_dropRels ..)
    · exact (aside_clockWrite ..).trans (aside_raceCheck ..)

/-! ## Lines -/

/-- The granules of a transfer, read as old and written. -/
def transferPairs (load : Bool) (w g : Nat) (s : State) (v : View) : List (Nat × Nat) :=
  if load then pairsOf s v g (2 ^ w) else (List.range (2 ^ w)).map fun j => (readPhys s v (g + j), readPhys s v (g + j))

/-- First cycle of a transfer. -/
def transferStart (load : Bool) (w g : Nat) (s : State) (v : View) : Nat :=
  Nat.max s.now (Nat.max (if load then pairsFree s v.core (transferPairs load w g s v)
    else granuleFree s v.core ((transferPairs load w g s v).map (·.1)) false) (coreOf s v.core).drainEnd)

/-- Lines whose bytes a record gives land in the cycle it names. -/
def forceLines (forced : Option Nat) (ls : List Line) : List Line :=
  match forced with
  | some c => ls.map fun x => if outsideLine x then { x with writeAt := c, ackAt := c } else x
  | none => ls

section
variable (load : Bool) (l w g r a : Nat) (s : State) (v : View)

/-- The lines of a transfer as its paths give them, and their ends. -/
def transferPlan : List Line × List Nat :=
  granuleTransfer s v load (transferPairs load w g s v) (granuleLines s v w r a) (transferStart load w g s v)

/-- The cycle in which a replayed load takes its recorded bytes (R91). -/
def transferForced : Option Nat :=
  if load && (transferPlan load w g r a s v).1.any outsideLine then
    (launchOf s (unitLaunchId s v.unit)).bind fun x =>
      if x.rply then (findInput s x (((warpOf s v.core v.wslot).map (·.reqCount)).getD 0) x.entries x.capIdx).map fun e => e.1 + x.capStart else none
  else none

/-- Lost rounds, and the state in which the accesses are noted. -/
def transferDrawn : Nat × State :=
  drawLost (if load then clockLoads s v (granuleLines s v w r a) (fragsOf s v (granuleLines s v w r a)) else s) v

/-- The cycle in which a transfer is over. -/
def transferOver : Nat :=
  match transferForced load w g r a s v with
  | some c => c
  | none => maxOf (transferPlan load w g r a s v).2 + Config.round * (transferDrawn load w r a s v).1

/-- The granules and the drain path taken. -/
def transferMarked : State :=
  let s2 := modCore (transferDrawn load w r a s v).2 v.core fun k => { k with drainEnd := transferOver load w g r a s v + 1 }
  if load then touchRange (markPairs s2 v.core (transferPairs load w g s v) (transferOver load w g r a s v)) v g (2 ^ w)
  else markGranules s2 v.core ((transferPairs load w g s v).map (·.1)) false
    (transferStart load w g s v + (granuleLines s v w r a).length - 1)

/-- The work of a transfer. -/
def transferWork : MatOp :=
  { MatOp.mk' s v 9 (transferStart load w g s v) (transferOver load w g r a s v) with
    lines := forceLines (transferForced load w g r a s v) (transferPlan load w g r a s v).1
    blocks := [if load then transferPairs load w g s v else []], op := if load then 0 else 1
    cid := ((warpOf s v.core v.wslot).map (·.reqCount)).getD 0 }

/-- The transfer sent, and its clocks noted. -/
def transferSent : State :=
  let b := sendMat (transferMarked load w g r a s v) v l (if load then .loadReturn else .storeAck) (transferWork load w g r a s v)
  if load then b else clockDrain b v (granuleLines s v w r a) (transferMarked load w g r a s v).fresh

theorem startGranules_eq : ∃ f : Req → Req, (∀ q, (f q).gid = q.gid ∧ (f q).slot = q.slot ∧ (f q).due = q.due) ∧
    startGranules load l w g r a s v =
      countRequest (modReq (transferSent load l w g r a s v) (transferMarked load w g r a s v).fresh f) v 0 (transferDrawn load w r a s v).1 :=
  ⟨_, fun _ => by exact ⟨rfl, rfl, rfl⟩, rfl⟩

theorem markGranules_core {α : Type} {field : Core → α} (keeps : ∀ k r w, field { k with grd := r, gwr := w } = field k) (s : State) (c : Nat)
    (l : List Nat) (write : Bool) (n d : Nat) : field (coreOf (markGranules s c l write n) d) = field (coreOf s d) :=
  coreOf_modCore_field (fun k => keeps k _ _) d

theorem tasksOf_drawLost (s : State) (v : View) : tasksOf (drawLost s v).2 = tasksOf s := by
  obtain ⟨l, same⟩ := drawLost_state s v
  rw [same]
  rfl

theorem transferMarked_spec : (∀ x, view (transferMarked load w g r a s v) x = view s x) ∧ heldData s (transferMarked load w g r a s v) ∧
    (coreOf (transferMarked load w g r a s v) v.core).drainEnd = transferOver load w g r a s v + 1 := by
  have noted : tasksOf (transferDrawn load w r a s v).2 = tasksOf s := by
    refine (tasksOf_drawLost ..).trans ?_
    split
    · exact tasksOf_aside (aside_clockLoads ..)
    · rfl
  unfold transferMarked
  generalize (transferDrawn load w r a s v).2 = b at noted
  have data : heldData s b := fun c => by
    rw [tasksOf_coreOf noted]
    exact ⟨rfl, rfl, rfl⟩
  have taken := sameData_modCore (f := fun k => { k with drainEnd := transferOver load w g r a s v + 1 }) (fun _ => by rfl) (fun _ => by rfl)
    (fun _ => by rfl) b v.core
  have core : (coreOf (modCore b v.core fun k => { k with drainEnd := transferOver load w g r a s v + 1 }) v.core).drainEnd =
      transferOver load w g r a s v + 1 := by rw [coreOf_modCore]
  have groups (x : Gid) : view (modCore b v.core fun k => { k with drainEnd := transferOver load w g r a s v + 1 }) x = view s x :=
    (view_modCore (fun _ => by rfl) ..).trans (tasksOf_view noted x)
  cases load
  · exact ⟨fun x => (view_markGranules ..).trans (groups x),
      heldData_trans data (heldData_of_sameData (Safety.sameData_trans taken (sameData_markGranules ..))),
      (markGranules_core (field := Core.drainEnd) (fun _ _ _ => by rfl) ..).trans core⟩
  · exact ⟨fun x => (view_touchRange ..).trans ((view_markPairs ..).trans (groups x)),
      heldData_trans data (heldData_of_sameData (Safety.sameData_trans taken (Safety.sameData_trans (sameData_markPairs ..) (sameData_touchRange ..)))),
      (touchRange_core (field := Core.drainEnd) (fun _ _ => by rfl) ..).trans ((markPairs_core (fun _ _ _ => by rfl) ..).trans core)⟩

end

section
variable {i : Instr} {load : Bool} {l w g r a : Nat} {s : State} {v : View}

theorem transferForced_live (live : load = false ∨ replays s (unitLaunchId s v.unit) = false) : transferForced load w g r a s v = none := by
  unfold transferForced
  split
  · next on =>
    rw [Bool.and_eq_true] at on
    have no := live.resolve_left (by rw [on.1]; decide)
    unfold replays at no
    cases hx : launchOf s (unitLaunchId s v.unit) with
    | none => rfl
    | some x =>
      rw [hx] at no
      exact if_neg (by rw [show x.rply = false from no]; decide)
  · rfl

theorem transferOver_ge (live : load = false ∨ replays s (unitLaunchId s v.unit) = false) :
    maxOf (transferPlan load w g r a s v).2 ≤ transferOver load w g r a s v := by
  rw [transferOver, transferForced_live live]
  exact Nat.le_add_right ..

/-- The work of a transfer of granules begins; the drain path is taken until it is over. -/
theorem startGranules_begins (hv : view s v.gid = some v) (goes : Safety.Goes i s v (startGranules load l w g r a s v) .next 0) : ∃ t,
    Safety.Begins i s t v l (transferWork load w g r a s v) ∧
    Safety.Ends t (transferWork load w g r a s v) (transferOver load w g r a s v) (if load then .loadReturn else .storeAck) ∧
    (coreOf t v.core).drainEnd = transferOver load w g r a s v + 1 := by
  obtain ⟨f, keeps, same⟩ := startGranules_eq load l w g r a s v
  obtain ⟨group, data, drain⟩ := transferMarked_spec load w g r a s v
  have noted : aside (transferSent load l w g r a s v) = aside (sendMat (transferMarked load w g r a s v) v l
      (if load then .loadReturn else .storeAck) (transferWork load w g r a s v)) := by
    cases load
    · exact aside_clockDrain ..
    · rfl
  rw [same] at goes
  obtain ⟨begins, ends_⟩ := transfer_begins goes noted keeps ((group _).trans hv) data
  refine ⟨_, begins, ends_, ?_⟩
  refine (countRequest_core (field := Core.drainEnd) (fun _ _ => by rfl) ..).trans ?_
  refine (congrArg Core.drainEnd (tasksOf_coreOf (tasksOf_aside noted) v.core) :).trans ?_
  exact (sendMat_core (fun _ _ => by rfl) ..).trans drain

end

/-! ## Line by line -/

/-- Line `i` of a transfer and its end. -/
def granuleLine (s : State) (v : View) (load : Bool) (pairs : List (Nat × Nat)) (t0 i va : Nat) : Line × Nat :=
  let (spot, path) := lineSpot s v va (pieceOf s v va 128 load (!load))
  let (old, new) := nth pairs (i % pairs.length) (0, 0)
  let off := 128 * (i / pairs.length)
  let act := match spot with | .store .. => t0 + i + path | _ => t0 + i
  if load then (⟨t0 + i, act, t0 + i + path, t0 + i + path, spot, .gran v.core v.unit new off, 128, [], []⟩, t0 + i + path)
  else (⟨t0 + i, t0 + i, act, t0 + i + path, .gran v.core v.unit old off, spot, 128, [], []⟩, t0 + i + path)

theorem granuleTransfer_eq (s : State) (v : View) (load : Bool) (pairs : List (Nat × Nat)) (accs : Accs) (t0 : Nat) :
    granuleTransfer s v load pairs accs t0 =
      ((accs.mapIdx fun i x => granuleLine s v load pairs t0 i x.2.1).map (·.1), (accs.mapIdx fun i x => granuleLine s v load pairs t0 i x.2.1).map (·.2)) := rfl

/-- A line that memory gives up, from its place to its granule. -/
theorem granuleLine_load (s : State) (v : View) (pairs : List (Nat × Nat)) (t0 i va : Nat) :
    let x := (granuleLine s v true pairs t0 i va).1
    x.len = 128 ∧ t0 + i ≤ x.readAt ∧ x.readAt ≤ x.writeAt ∧ x.writeAt ≤ (granuleLine s v true pairs t0 i va).2 ∧
      x.dst = .gran v.core v.unit (nth pairs (i % pairs.length) (0, 0)).2 (128 * (i / pairs.length)) ∧
      x.src = (lineSpot s v va (pieceOf s v va 128 true false)).1 := by
  unfold granuleLine
  rw [Bool.not_true]
  generalize lineSpot s v va (pieceOf s v va 128 true false) = y
  obtain ⟨spot, path⟩ := y
  refine ⟨rfl, ?_, ?_, Nat.le_refl _, rfl, rfl⟩
  · cases spot <;> simp
  · cases spot <;> simp

theorem granuleLine_store (s : State) (v : View) (pairs : List (Nat × Nat)) (t0 i va : Nat) :
    let x := (granuleLine s v false pairs t0 i va).1
    x.len = 128 ∧ x.readAt = t0 + i ∧ t0 + i ≤ x.writeAt ∧ x.writeAt ≤ (granuleLine s v false pairs t0 i va).2 ∧
      x.src = .gran v.core v.unit (nth pairs (i % pairs.length) (0, 0)).1 (128 * (i / pairs.length)) ∧
      x.dst = (lineSpot s v va (pieceOf s v va 128 false true)).1 := by
  unfold granuleLine
  rw [Bool.not_false]
  generalize lineSpot s v va (pieceOf s v va 128 false true) = y
  obtain ⟨spot, path⟩ := y
  refine ⟨rfl, rfl, ?_, ?_, rfl, rfl⟩
  · cases spot <;> simp
  · cases spot <;> simp

theorem flatMap_range {α : Type} (f : Nat → Nat → α) (n : Nat) (pos : 0 < n) : ∀ a : Nat,
    (List.range a).flatMap (fun r => (List.range n).map (f r)) = (List.range (a * n)).map fun i => f (i / n) (i % n)
  | 0 => by simp
  | a + 1 => by
    rw [List.range_succ, List.flatMap_append, flatMap_range f n pos a, Nat.succ_mul, List.range_add, List.map_append, List.flatMap_singleton,
      List.map_map]
    refine congrArg _ (List.map_congr_left fun j hj => ?_)
    have below := List.mem_range.mp hj
    show f a j = f ((a * n + j) / n) ((a * n + j) % n)
    rw [Nat.mul_comm, Nat.mul_add_div pos, Nat.mul_add_mod, Nat.div_eq_of_lt below, Nat.mod_eq_of_lt below, Nat.add_zero]

theorem granuleLines_eq (s : State) (v : View) (w r a : Nat) : granuleLines s v w r a = (List.range (32 * 2 ^ w)).map fun i =>
    (v.act.headD 0, ((readK s v.unit a).toNat + i / 2 ^ w * (readK s v.unit r).toNat + 128 * (i % 2 ^ w)) % 2 ^ 64, 128) :=
  flatMap_range (fun row j => (v.act.headD 0, ((readK s v.unit a).toNat + row * (readK s v.unit r).toNat + 128 * j) % 2 ^ 64, 128)) (2 ^ w)
    (Nat.two_pow_pos w) 32

section
variable {load : Bool} {w g r a : Nat} {s : State} {v : View}

/-- The address of line `i`. -/
def lineAddress (w r a : Nat) (s : State) (v : View) (i : Nat) : Nat :=
  ((readK s v.unit a).toNat + i / 2 ^ w * (readK s v.unit r).toNat + 128 * (i % 2 ^ w)) % 2 ^ 64

/-- A line as a record may force it. -/
def forceLine (forced : Option Nat) (x : Line) : Line :=
  match forced with
  | some c => if outsideLine x then { x with writeAt := c, ackAt := c } else x
  | none => x

theorem forceLines_eq (forced : Option Nat) (ls : List Line) : forceLines forced ls = ls.map (forceLine forced) := by
  cases forced with
  | none => exact (List.map_id ls).symm
  | some c => rfl

/-- A record forces neither the place of a line nor its read. -/
theorem forceLine_keeps (forced : Option Nat) (x : Line) : (forceLine forced x).len = x.len ∧ (forceLine forced x).readAt = x.readAt ∧
    (forceLine forced x).src = x.src ∧ (forceLine forced x).dst = x.dst := by
  cases forced with
  | none => exact ⟨rfl, rfl, rfl, rfl⟩
  | some c =>
    unfold forceLine
    dsimp only
    split <;> exact ⟨rfl, rfl, rfl, rfl⟩

theorem transferPairs_length : (transferPairs load w g s v).length = 2 ^ w := by
  unfold transferPairs
  split
  · rw [pairsOf, List.length_map, List.length_range]
  · rw [List.length_map, List.length_range]

theorem transferPlan_lines : (transferPlan load w g r a s v).1.length = 32 * 2 ^ w ∧ ∀ i < 32 * 2 ^ w,
    (transferPlan load w g r a s v).1[i]? =
      some (granuleLine s v load (transferPairs load w g s v) (transferStart load w g s v) i (lineAddress w r a s v i)).1 ∧
    (transferPlan load w g r a s v).2[i]? =
      some (granuleLine s v load (transferPairs load w g s v) (transferStart load w g s v) i (lineAddress w r a s v i)).2 := by
  unfold transferPlan
  rw [granuleTransfer_eq, granuleLines_eq]
  refine ⟨by simp, fun i hi => ?_⟩
  have at_ : (List.range (32 * 2 ^ w))[i]? = some i := List.getElem?_range hi
  constructor <;> simp only [List.getElem?_map, List.getElem?_mapIdx, at_, Option.map_some] <;> rfl

/-- Line `i` of the work of a transfer, and the end that its work is not over before. -/
theorem transferWork_line (i : Nat) (h : i < (transferWork load w g r a s v).lines.length) :
    (transferWork load w g r a s v).lines[i] = forceLine (transferForced load w g r a s v)
      (granuleLine s v load (transferPairs load w g s v) (transferStart load w g s v) i (lineAddress w r a s v i)).1 ∧
    (granuleLine s v load (transferPairs load w g s v) (transferStart load w g s v) i (lineAddress w r a s v i)).2 ≤
      maxOf (transferPlan load w g r a s v).2 := by
  obtain ⟨length, lines⟩ := transferPlan_lines (load := load) (w := w) (g := g) (r := r) (a := a) (s := s) (v := v)
  have listed : (transferWork load w g r a s v).lines = (transferPlan load w g r a s v).1.map (forceLine (transferForced load w g r a s v)) :=
    forceLines_eq ..
  have below : i < 32 * 2 ^ w := by
    rw [listed, List.length_map, length] at h
    exact h
  obtain ⟨line, end_⟩ := lines i below
  refine ⟨List.getElem_eq_iff h |>.mpr ?_, le_maxOf (List.mem_of_getElem? end_)⟩
  rw [listed, List.getElem?_map, line]
  rfl

theorem transferWork_length : (transferWork load w g r a s v).lines.length = 32 * 2 ^ w := by
  show (forceLines _ _).length = _
  rw [forceLines_eq, List.length_map, transferPlan_lines.1]

end

/-! ## The instructions -/

theorem granuleTrap_aligned {w g r a : Nat} {s : State} {v : View} (h : (readK s v.unit a).toNat % 128 = 0) : granuleTrap w g r a s v =
    limitTrap v [(0x02, rangeFree s v.unit g (2 ^ w)),
      (0x0E, (readK s v.unit r).toNat % 128 != 0 || (readK s v.unit r).toNat < 128 * 2 ^ w)] := by
  unfold granuleTrap
  dsimp only
  rw [if_pos h]
  cases limitTrap v _ <;> rfl

theorem granuleTests {w g r : Nat} {s : State} {v : View} {u : UnitSt} (hu : unitOf s v.unit = some u) :
    tests [(0x02, ∃ j < 2 ^ w, holdsGranule u (g + j) = false),
      (0x0E, (readK s v.unit r).toNat % 128 ≠ 0 ∨ (readK s v.unit r).toNat < 128 * 2 ^ w)]
    [(0x02, rangeFree s v.unit g (2 ^ w)), (0x0E, (readK s v.unit r).toNat % 128 != 0 || (readK s v.unit r).toNat < 128 * 2 ^ w)] :=
  .cons ⟨rfl, rangeFree_iff hu ..⟩ (.cons ⟨rfl, by rw [Bool.or_eq_true, bne_iff_ne, decide_eq_true_eq]⟩ .nil)

/-- Of an address that is not aligned the limits come first, and then it is ALIGN. -/
theorem granule_align {i : Instr} {w g r a : Nat} {s : State} {v : View} {u : UnitSt} {pre : State → View → Option Did} {effect : State → View → Did}
    (hu : unitOf s v.unit = some u) (hx : exec i s = issuePre i s (granuleTrap w g r a) pre effect) (odd : (readK s v.unit a).toNat % 128 ≠ 0)
    (h : Safety.Issues i s v) :
    let limits : List (Nat × Prop) := [(0x02, ∃ j < 2 ^ w, holdsGranule u (g + j) = false),
      (0x0E, (readK s v.unit r).toNat % 128 ≠ 0 ∨ (readK s v.unit r).toNat < 128 * 2 ^ w)]
    Safety.Limits i s v limits ∧ (Safety.within limits → Safety.Traps i s v 0x14 0 (readK s v.unit a).toNat) := by
  refine ⟨fun before c p after split_ no hp => h.ownTraps hx ?_, fun within => h.ownTraps hx ?_⟩
  · unfold granuleTrap
    dsimp only
    rw [limitTrap_first hp (split_ ▸ granuleTests hu) no]
    rfl
  · unfold granuleTrap
    dsimp only
    rw [limitTrap_within (granuleTests hu) within, if_neg odd]
    rfl

theorem nth_map {α β : Type} (f : α → β) (l : List α) (n : Nat) (d : α) : nth (l.map f) n (f d) = f (nth l n d) := by
  rw [nth, nth, List.getElem?_map]
  cases l[n]? <;> rfl

/-- Settles O41: the tests, then the lines of the rows in order, each between its place and its granule. -/
theorem granuleTransfers : Obligations.GranuleTransfers := by
  intro l w g a r e s v u hu n base stride limits address accs targets sources first live
  have pre : arrayPre (fun _ _ => []) false = storesPre := funext fun s => funext (storesPre_eq s)
  have lines : granuleLines s v w.toNat r.toNat a.toNat = accs := granuleLines_eq ..
  refine ⟨fun odd h => granule_align (i := .accld l w g r a e) hu rfl odd h, fun even => ?_,
    fun odd h => granule_align (i := .accst l w g r a e) hu rfl odd h, fun even => ?_⟩
  · refine array_tested (i := .accld l w g r a e) (trap := granuleTrap w.toNat g.toNat r.toNat a.toNat) (tiles := fun _ _ => [])
      (by rw [pre]; rfl) (granuleTrap_aligned even) (granuleTests hu) fun at_ _ close free reaches => ?_
    rw [lines, lowAccess_ok (testAccess_reads free reaches)] at close
    obtain ⟨t, begins, ends_, drain⟩ := startGranules_begins at_.group close
    refine ⟨t, _, begins, ends_, rfl, rfl, drain, transferWork_length, fun i h => ?_⟩
    obtain ⟨line, end_⟩ := transferWork_line i h
    obtain ⟨len, low, order, over_, dst, src⟩ := granuleLine_load s v (transferPairs true w.toNat g.toNat s v)
      (transferStart true w.toNat g.toNat s v) i (lineAddress w.toNat r.toNat a.toNat s v i)
    obtain ⟨klen, kread, ksrc, kdst⟩ := forceLine_keeps (transferForced true w.toNat g.toNat r.toNat a.toNat s v)
      (granuleLine s v true (transferPairs true w.toNat g.toNat s v) (transferStart true w.toNat g.toNat s v) i
        (lineAddress w.toNat r.toNat a.toNat s v i)).1
    rw [line]
    refine ⟨klen.trans len, kread ▸ low, fun on => ?_, kdst.trans ?_, ksrc.trans src⟩
    · have free_ := transferForced_live (w := w.toNat) (g := g.toNat) (r := r.toNat) (a := a.toNat) (load := true) (.inr on)
      rw [free_]
      exact ⟨order, over_.trans (end_.trans (transferOver_ge (.inr on)))⟩
    · rw [dst, transferPairs_length]
      rfl
  · refine array_tested (i := .accst l w g r a e) (trap := granuleTrap w.toNat g.toNat r.toNat a.toNat) (tiles := fun _ _ => [])
      (by rw [pre]; rfl) (granuleTrap_aligned even) (granuleTests hu) fun at_ _ close free reaches => ?_
    rw [lines, lowAccess_ok (testAccess_reads free reaches)] at close
    obtain ⟨t, begins, ends_, drain⟩ := startGranules_begins at_.group close
    have start : transferStart false w.toNat g.toNat s v = first (granuleFree s v.core sources false) := by
      rw [transferStart, transferPairs, if_neg Bool.false_ne_true, if_neg Bool.false_ne_true, List.map_map]
      rfl
    refine ⟨t, _, begins, ends_, rfl, start, drain, transferWork_length, fun i h => ?_⟩
    obtain ⟨line, end_⟩ := transferWork_line i h
    obtain ⟨len, read, low, over_, src, dst⟩ := granuleLine_store s v (transferPairs false w.toNat g.toNat s v)
      (transferStart false w.toNat g.toNat s v) i (lineAddress w.toNat r.toNat a.toNat s v i)
    rw [line, transferForced_live (.inl rfl), ← start]
    refine ⟨len, read, low, over_.trans (end_.trans (transferOver_ge (.inl rfl))), src.trans ?_, dst⟩
    rw [transferPairs_length, ← nth_map Prod.fst, transferPairs, if_neg Bool.false_ne_true, List.map_map]
    rfl

end Sys2Proof
end

section
/-! The speculative region (R57, R323, R324, R399, R407): O42. -/

namespace Sys2Proof
open Machine

/-! ## Names exchanged -/

/-- One touched target and its shadow exchange their granules. -/
def swapName (r : Spec) (t : Tab Nat) (o : Nat) : Tab Nat :=
  match tabGet (r.tbase + o) t, tabGet (r.sbase + o) t with
  | some p, some q => tabPut (r.sbase + o) p (tabPut (r.tbase + o) q t)
  | _, _ => t

theorem swapNames_eq (r : Spec) (gm : Tab Nat) : swapNames r gm = r.touched.foldl (swapName r) gm := rfl

section
variable {r : Spec} {t : Tab Nat} {o : Nat}

theorem swapName_pair (apart : r.tbase + o ≠ r.sbase + o) (target : (tabGet (r.tbase + o) t).isSome) (shadow : (tabGet (r.sbase + o) t).isSome) :
    tabGet (r.tbase + o) (swapName r t o) = tabGet (r.sbase + o) t ∧ tabGet (r.sbase + o) (swapName r t o) = tabGet (r.tbase + o) t := by
  obtain ⟨p, hp⟩ := Option.isSome_iff_exists.mp target
  obtain ⟨q, hq⟩ := Option.isSome_iff_exists.mp shadow
  rw [swapName, hp, hq]
  exact ⟨by rw [tabGet_put_other _ _ apart, tabGet_put_same], tabGet_put_same ..⟩

theorem swapName_other {j : Nat} (target : j ≠ r.tbase + o) (shadow : j ≠ r.sbase + o) : tabGet j (swapName r t o) = tabGet j t := by
  unfold swapName
  split
  · rw [tabGet_put_other _ _ shadow, tabGet_put_other _ _ target]
  · rfl

end

/-- Touched pairs exchange their granules, and every other name keeps its own. -/
theorem swapNames_spec {r : Spec} (apart : ∀ i < r.width, ∀ j < r.width, r.tbase + i ≠ r.sbase + j) : ∀ (l : List Nat) (t : Tab Nat), l.Nodup →
    (∀ o ∈ l, o < r.width) → (∀ o ∈ l, (tabGet (r.tbase + o) t).isSome ∧ (tabGet (r.sbase + o) t).isSome) →
    (∀ o ∈ l, tabGet (r.tbase + o) (l.foldl (swapName r) t) = tabGet (r.sbase + o) t ∧
      tabGet (r.sbase + o) (l.foldl (swapName r) t) = tabGet (r.tbase + o) t) ∧
    ∀ j, (∀ o ∈ l, j ≠ r.tbase + o ∧ j ≠ r.sbase + o) → tabGet j (l.foldl (swapName r) t) = tabGet j t
  | [], t, _, _, _ => ⟨fun _ no => absurd no List.not_mem_nil, fun _ _ => rfl⟩
  | o :: l, t, nodup, inside, held => by
    obtain ⟨fresh, nodup⟩ := List.nodup_cons.mp nodup
    have low := inside o List.mem_cons_self
    have below : ∀ x ∈ l, x < r.width := fun x hx => inside x (List.mem_cons_of_mem o hx)
    have other (x : Nat) (hx : x ∈ l) : (r.tbase + x ≠ r.tbase + o ∧ r.tbase + x ≠ r.sbase + o) ∧ (r.sbase + x ≠ r.tbase + o ∧ r.sbase + x ≠ r.sbase + o) := by
      have ne : x ≠ o := fun eq => fresh (eq ▸ hx)
      have := apart x (below x hx) o low
      have := apart o low x (below x hx)
      omega
    have kept (x : Nat) (hx : x ∈ l) : tabGet (r.tbase + x) (swapName r t o) = tabGet (r.tbase + x) t ∧
        tabGet (r.sbase + x) (swapName r t o) = tabGet (r.sbase + x) t := by
      obtain ⟨⟨tt, ts⟩, st, ss⟩ := other x hx
      exact ⟨swapName_other tt ts, swapName_other st ss⟩
    obtain ⟨pairs, others⟩ := swapNames_spec apart l (swapName r t o) nodup below fun x hx => by
      obtain ⟨target, shadow⟩ := kept x hx
      rw [target, shadow]
      exact held x (List.mem_cons_of_mem o hx)
    refine ⟨fun x hx => ?_, fun j no => ?_⟩
    · rcases List.mem_cons.mp hx with rfl | later
      · obtain ⟨target, shadow⟩ := swapName_pair (apart x low x low) (held x List.mem_cons_self).1 (held x List.mem_cons_self).2
        rw [List.foldl_cons, others _ fun y hy => ?_, others _ fun y hy => ?_]
        · exact ⟨target, shadow⟩
        · obtain ⟨⟨tt, ts⟩, st, ss⟩ := other y hy
          exact ⟨ts.symm, ss.symm⟩
        · obtain ⟨⟨tt, ts⟩, st, ss⟩ := other y hy
          exact ⟨tt.symm, st.symm⟩
      · obtain ⟨target, shadow⟩ := pairs x later
        obtain ⟨ktarget, kshadow⟩ := kept x later
        exact ⟨target.trans kshadow, shadow.trans ktarget⟩
    · obtain ⟨target, shadow⟩ := no o List.mem_cons_self
      exact (others j fun x hx => no x (List.mem_cons_of_mem o hx)).trans (swapName_other target shadow)

/-! ## SPEC of a warp -/

/-- The warp with SPEC to take a value after 4 cycles. -/
def speaking (s : State) (x : Warp) (value : Word) : Warp :=
  { x with run := { x.run with pend := x.run.pend ++ [⟨s.now + 4, s.now, .spec value⟩], usable := Nat.max x.run.usable (s.now + 4) } }

theorem warpOf_speaks {b : State} {c k : Nat} {x : Warp} (hx : warpOf b c k = some x) (f : Warp → Warp) (value : Word) :
    warpOf (pendWrite (modWarp b c k f) (.warp c k) 4 (.spec value)) c k = some (speaking b (f x) value) := by
  rw [pendWrite, modRun, warpOf_modWarp, warpOf_modWarp, hx]
  rfl

theorem sameData_speaks (b : State) (c k : Nat) (f : Warp → Warp) (value : Word) :
    Safety.sameData b (pendWrite (modWarp b c k f) (.warp c k) 4 (.spec value)) :=
  Safety.sameData_trans (sameData_modWarp ..) (sameData_modRun ..)

theorem toStore_speaks (b : State) (c k : Nat) (f : Warp → Warp) (value : Word) :
    (pendWrite (modWarp b c k f) (.warp c k) 4 (.spec value)).toStore = b.toStore := rfl

/-! ## A region that is dropped -/

/-- Granules of the touched shadows of a region. -/
def touchedPhys (r : Spec) (gm : Tab Nat) : List Nat := r.touched.filterMap fun o => tabGet (r.sbase + o) gm

theorem mem_touchedPhys (r : Spec) (gm : Tab Nat) (p : Nat) : p ∈ touchedPhys r gm ↔ ∃ o ∈ r.touched, tabGet (r.sbase + o) gm = some p :=
  List.mem_filterMap

/-- Dropping a region zeroes its touched shadows and closes it. -/
theorem dropRegion_drops {s : State} {c k : Nat} {x : Warp} {r : Spec} {u : UnitSt} (hx : warpOf s c k = some x) (hr : x.spec = some r)
    (hu : unitOf s x.unit = some u) : ∃ b, dropRegion s c k = modWarp b c k (fun y => { y with spec := none, specSr := 0 }) ∧
      warpOf b c k = some x ∧ b.mem = s.mem ∧ b.units = s.units ∧ b.toStore = s.toStore ∧ b.now = s.now ∧ (coreOf b c).store = (coreOf s c).store ∧
      (∀ p ∈ touchedPhys r u.gmap, granuleImage (coreOf b c) p = []) ∧
      ∀ p, p ∉ touchedPhys r u.gmap → granuleImage (coreOf b c) p = granuleImage (coreOf s c) p := by
  unfold dropRegion
  rw [hx]
  dsimp only
  rw [hr]
  dsimp only
  rw [hu]
  dsimp only [Option.map_some, Option.getD_some]
  generalize hb : ({ s with matOps := _ } : State) = b
  have frame : b.cores = s.cores ∧ b.mem = s.mem ∧ b.units = s.units ∧ b.toStore = s.toStore ∧ b.now = s.now := by
    subst hb
    exact ⟨rfl, rfl, rfl, rfl, rfl⟩
  obtain ⟨cores, mem, units, toStore, now_⟩ := frame
  have kept {β : Type} {view : State → β} (h : ∀ a p, view (zeroGranule a c p) = view a) :
      view ((touchedPhys r u.gmap).foldl (fun a p => zeroGranule a c p) b) = view b := foldl_same (view := view) h _ b
  have core : coreOf b c = coreOf s c := by rw [coreOf, cores, ← coreOf]
  refine ⟨_, rfl, ?_, (kept (view := State.mem) fun _ _ => rfl).trans mem, (kept (view := State.units) fun _ _ => rfl).trans units,
    (kept (view := State.toStore) fun _ _ => rfl).trans toStore, (kept (view := State.now) fun _ _ => rfl).trans now_, ?_, fun p hp => ?_, fun p hp => ?_⟩
  · refine (kept (view := fun a => warpOf a c k) fun _ _ => warpOf_modCore_eq (fun _ => by rfl) c k).trans ?_
    rw [warpOf, core, ← warpOf, hx]
  · refine (kept (view := fun a => (coreOf a c).store) fun _ _ => coreOf_modCore_field (field := Core.store) (fun _ => by rfl) c).trans ?_
    rw [core]
  · exact (granuleImage_zeroed c p _ b).1 hp
  · exact ((granuleImage_zeroed c p _ b).2 hp).trans (congrArg (granuleImage · p) core)

/-! ## The instructions -/

section
variable {s : State} {v : View} {x : Warp} {r : Spec} {u : UnitSt} (hg : v.gid = .warp v.core v.wslot) (hx : warpOf s v.core v.wslot = some x)
  (hr : x.spec = some r) (hu : unitOf s v.unit = some u)
include hg hx hr

theorem regionOf_eq : regionOf s v.gid = some r := by
  rw [hg, regionOf, hx]
  exact hr

include hu

theorem shadowPhys_eq : shadowPhys s v = (List.range r.width).filterMap fun j => tabGet (r.sbase + j) u.gmap := by
  unfold shadowPhys
  rw [regionOf_eq hg hx hr, hu]
  rfl

/-- Work of an earlier instruction of the warp is still to write a shadow. -/
theorem shadowPre_iff : (∃ m ∈ s.matOps, m.2.writes = true ∧ m.2.gid = v.gid ∧ m.2.serial = v.serial ∧ ∃ b ∈ m.2.blocks, ∃ p ∈ b,
      p.2 ∈ (List.range r.width).filterMap fun j => tabGet (r.sbase + j) u.gmap) ↔
    (s.matOps.any fun (_, m) => m.writes && m.serial = v.serial && m.gid = v.gid &&
      m.blocks.any fun b => b.any fun p => (shadowPhys s v).contains p.2) = true := by
  rw [shadowPhys_eq hg hx hr hu]
  simp only [List.any_eq_true, Bool.and_eq_true, decide_eq_true_eq, List.contains_iff_mem, and_assoc]
  constructor
  · rintro ⟨m, hm, writes, gid, serial, found⟩
    exact ⟨m, hm, writes, serial, gid, found⟩
  · rintro ⟨m, hm, writes, serial, gid, found⟩
    exact ⟨m, hm, writes, gid, serial, found⟩

end

theorem shadowPre_waits {s : State} {v : View} (h : (s.matOps.any fun (_, m) => m.writes && m.serial = v.serial && m.gid = v.gid &&
    m.blocks.any fun b => b.any fun p => (shadowPhys s v).contains p.2) = true) : shadowPre s v = some (.wait s (s.now + 1)) := if_pos h

theorem shadowPre_free {s : State} {v : View} (h : ¬ (s.matOps.any fun (_, m) => m.writes && m.serial = v.serial && m.gid = v.gid &&
    m.blocks.any fun b => b.any fun p => (shadowPhys s v).contains p.2) = true) : shadowPre s v = none := if_neg h

/-- A held store as it is tested, lane by lane. -/
def heldParts (d : HeldStore) : Accs := d.items.map fun i => (i.1, i.2.1, i.2.2.length)

theorem testHeld_passes {s : State} {v : View} : ∀ {l : List HeldStore}, (∀ d ∈ l, Safety.reaches s { v with act := d.items.map (·.1) } (heldParts d) false true ∧
    Safety.ownsAll s { v with act := d.items.map (·.1) } (heldParts d) false ∧
    behindStore s { v with act := d.items.map (·.1) } (heldParts d) true = false) → testHeld s v l = none
  | [], _ => rfl
  | d :: l, ok => by
    obtain ⟨reaches, owns, free⟩ := ok d List.mem_cons_self
    have passes : testAccess s { v with act := d.items.map (·.1) } (d.items.map fun (l, a, b) => (l, a, b.length)) false true true = .ok :=
      testAccess_owned free reaches fun _ => owns
    rw [testHeld, passes]
    exact testHeld_passes fun x hx => ok x (List.mem_cons_of_mem d hx)

theorem commit_passes {s : State} {v : View} {r : Spec} (region : regionOf s v.gid = some r) (held : testHeld s v r.held = none) :
    commit s v = .done (closeRegion { modUnit s v.unit (fun u => { u with gmap := swapNames r u.gmap }) with
      toStore := s.toStore ++ r.held.mapIdx fun i d => ⟨s.now + 1 + i, v.gid, v.serial, v.unit, v.core, v.pc, d,
        fragsOf s { v with act := d.items.map (·.1) } (heldParts d), touchesOf s { v with act := d.items.map (·.1) } (heldParts d)⟩ } v) .next 0 := by
  rw [commit, region]
  dsimp only
  rw [held]
  rfl

theorem closeRegion_spec {b : State} {v : View} {x : Warp} (hg : v.gid = .warp v.core v.wslot) (hx : warpOf b v.core v.wslot = some x) :
    warpOf (closeRegion b v) v.core v.wslot = some (speaking b { x with spec := none } 0) ∧ Safety.sameData b (closeRegion b v) ∧
    (closeRegion b v).toStore = b.toStore := by
  unfold closeRegion
  rw [hg]
  exact ⟨warpOf_speaks hx .., sameData_speaks .., toStore_speaks ..⟩

/-- Settles O42: a region is opened over pairs the unit holds; a commit exchanges names, and a discard zeroes the shadows. -/
theorem speculativeRegions : Obligations.SpeculativeRegions := by
  intro w g h e s v u c k x hg hc hk home hu hx n speaks name shadows writing touchedShadow storer parts
  subst hc hk
  refine ⟨fun issues => ?_, fun r hr => ⟨fun issues => ⟨fun busy => ?_, fun idle nodup inside apart held ok => ?_⟩,
    fun issues => ⟨fun busy => ?_, fun idle => ?_⟩⟩⟩
  · have limit : tests [(0x02, ∃ j < n, holdsGranule u (g.toNat + j) = false ∨ holdsGranule u (h.toNat + j) = false)]
        [(0x02, rangeFree s v.unit g.toNat (2 ^ w.toNat) || rangeFree s v.unit h.toNat (2 ^ w.toNat))] := by
      refine .cons ⟨rfl, ?_⟩ .nil
      rw [Bool.or_eq_true, rangeFree_iff hu, rangeFree_iff hu]
      simp only [and_or_left, exists_or]
      exact Iff.rfl
    refine ⟨fun bad => issues.ownTraps (i := .sbeg w g h e) rfl (limitTrap_first (before := []) bad limit fun _ no => absurd no List.not_mem_nil),
      fun good => ?_⟩
    have close := issues.closes (i := .sbeg w g h e) rfl (limitTrap_within limit fun y hy => by
      obtain rfl := List.mem_singleton.mp hy
      exact good) rfl
    have data := sameData_speaks s v.core v.wslot (fun x => { x with spec := some ⟨g.toNat, n, h.toNat, [], []⟩ }) (specOpen n h.toNat)
    have after := warpOf_speaks hx (fun x => { x with spec := some ⟨g.toNat, n, h.toNat, [], []⟩ }) (specOpen n h.toNat)
    rw [← hg] at data after
    obtain ⟨mem, -, -, units, -, cores⟩ := data
    exact ⟨_, _, close, ⟨after, rfl, mem, (cores v.core).1⟩, rfl, units, (cores v.core).2.1⟩
  · exact issues.preWaits (i := .scmt e) rfl rfl (shadowPre_waits ((shadowPre_iff hg hx hr hu).mp busy))
  · have close := issues.closes (i := .scmt e) rfl rfl (shadowPre_free (mt (shadowPre_iff hg hx hr hu).mpr idle))
    rw [commit_passes (regionOf_eq hg hx hr) (testHeld_passes ok)] at close
    generalize hout : (r.held.mapIdx fun i d => (⟨s.now + 1 + i, v.gid, v.serial, v.unit, v.core, v.pc, d,
      fragsOf s { v with act := d.items.map (·.1) } (heldParts d), touchesOf s { v with act := d.items.map (·.1) } (heldParts d)⟩ : HeldOut)) = out
      at close
    obtain ⟨after, ⟨mem, -, -, units, -, cores⟩, stores⟩ := closeRegion_spec (v := v)
      (b := { modUnit s v.unit (fun u => { u with gmap := swapNames r u.gmap }) with toStore := s.toStore ++ out }) hg hx
    obtain ⟨pairs, others⟩ := swapNames_spec apart r.touched u.gmap nodup inside held
    generalize closeRegion _ v = t at close after mem units cores stores
    have names (j : Nat) : name t j = tabGet j (r.touched.foldl (swapName r) u.gmap) := by
      simp only [name, unitOf]
      rw [units]
      show ((unitOf (modUnit s v.unit fun u => { u with gmap := swapNames r u.gmap }) v.unit).bind fun y => tabGet j y.gmap) = _
      rw [unitOf_modUnit, hu]
      rfl
    refine ⟨t, _, close, ⟨after, rfl, mem, (cores v.core).1⟩, rfl, (cores v.core).2.1, fun o ho => ?_, fun j no => (names j).trans (others j no),
      stores.trans (congrArg (s.toStore ++ ·) hout.symm)⟩
    rw [names, names]
    exact pairs o ho
  · exact issues.preWaits (i := .sdis e) rfl rfl (shadowPre_waits ((shadowPre_iff hg hx hr hu).mp busy))
  · have close := issues.closes (i := .sdis e) rfl rfl (shadowPre_free (mt (shadowPre_iff hg hx hr hu).mpr idle))
    obtain ⟨b, dropped, hb, mem, units, toStore, now_, store, zero, kept⟩ := dropRegion_drops hx hr (home ▸ hu)
    have drop : warpOf (dropRegion s v.core v.wslot) v.core v.wslot = some { x with spec := none, specSr := 0 } := by
      rw [dropped, warpOf_modWarp, hb]
      rfl
    rw [plain, issued] at close
    simp only [hg] at close
    generalize ((warpOf s v.core v.wslot).map (·.specSr)).getD 0 = old at close
    have after := warpOf_speaks drop (fun x => { x with specSr := old }) 0
    obtain ⟨mem', -, -, units', -, cores⟩ := sameData_speaks (dropRegion s v.core v.wslot) v.core v.wslot (fun x => { x with specSr := old }) 0
    have held := toStore_speaks (dropRegion s v.core v.wslot) v.core v.wslot (fun x => { x with specSr := old }) 0
    obtain ⟨memD, -, -, unitsD, -, coresD⟩ := sameData_modWarp b v.core v.wslot fun y => { y with spec := none, specSr := 0 }
    obtain ⟨storeD, accD, -⟩ := coresD v.core
    obtain ⟨store', acc', -⟩ := cores v.core
    rw [← dropped] at memD unitsD storeD accD
    have images := (acc'.trans accD)
    have clock : (dropRegion s v.core v.wslot).now = s.now := by
      rw [dropped]
      exact now_
    refine ⟨_, _, close, ⟨after, ?_, mem'.trans (memD.trans mem), store'.trans (storeD.trans store)⟩, rfl, units'.trans (unitsD.trans units), ?_,
      fun p hp => (granuleImage_congr images p).trans (zero p ((mem_touchedPhys r u.gmap p).mpr hp)),
      fun p hp => (granuleImage_congr images p).trans (kept p (mt (mem_touchedPhys r u.gmap p).mp hp))⟩
    · show x.run.pend ++ [⟨(dropRegion s v.core v.wslot).now + 4, (dropRegion s v.core v.wslot).now, _⟩] = _
      rw [clock]
    · rw [held, dropped]
      exact toStore

end Sys2Proof
end

section
/-! Ends of parks, waits and hand-overs, EJLIM and encodings that are no instruction (R36, R172, R176, R216, R382, R394): O43. -/

namespace Sys2Proof
open Machine

/-! ## What an acquire leaves of the groups -/

/-- Warps, pools, memory, units and the cycle. -/
def watched (s : State) : (Nat → Tab Warp) × Tab Pool × Memory × Tab UnitSt × Nat :=
  (fun c => (coreOf s c).warps, s.pools, s.mem, s.units, s.now)

theorem watched_aside {s t : State} (h : aside t = aside s) : watched t = watched s := (congrArg watched h :)

theorem watched_view {s t : State} (h : watched t = watched s) (g : Gid) : view t g = view s g := by
  have warps : ∀ c, (coreOf t c).warps = (coreOf s c).warps := fun c => (congrArg (fun x => x.1 c) h :)
  have pools : t.pools = s.pools := (congrArg (fun x => x.2.1) h :)
  cases g <;> simp only [view, warpOf, warps, ejOf, poolOf, pools]

theorem watched_l1Acquire (s : State) (c scope : Nat) : watched (l1Acquire s c scope) = watched s := by
  obtain ⟨frame, cores⟩ := l1Acquire_data s c scope
  have warps : (fun d => (coreOf (l1Acquire s c scope) d).warps) = fun d => (coreOf s d).warps := funext fun d => (cores d).2
  unfold watched
  rw [warps, show (l1Acquire s c scope).pools = s.pools from (congrArg State.pools frame :),
    show (l1Acquire s c scope).mem = s.mem from (congrArg State.mem frame :),
    show (l1Acquire s c scope).units = s.units from (congrArg State.units frame :),
    show (l1Acquire s c scope).now = s.now from (congrArg State.now frame :)]

/-- One record of a return observed: each thread that was active at the issue acquires. -/
def observeOne (v : View) (a : State) (q : SlotAcq) : State :=
  let a1 := (lanesOf q.lanes).foldl (fun b l => if (thrOf b v.gid l).isSome then acquire b v.unit (agentOf b v l) q.obj false else b) a
  if v.kc then a1 else l1Acquire a1 v.core q.scope

theorem observeSlots_eq (s : State) (v : View) (covers : Nat → Bool) : observeSlots s v covers =
    if (v.run.acqs.filter fun a => covers a.slot).isEmpty then s
    else (v.run.acqs.filter fun a => covers a.slot).foldl (observeOne v)
      (modRun s v.gid fun r => { r with acqs := v.run.acqs.filter fun a => !covers a.slot }) := by
  unfold observeSlots
  dsimp only
  rw [List.partition_eq_filter_filter]
  rfl

theorem watched_observeOne (v : View) (a : State) (q : SlotAcq) : watched (observeOne v a q) = watched a := by
  have acquired : watched ((lanesOf q.lanes).foldl (fun b l => if (thrOf b v.gid l).isSome then acquire b v.unit (agentOf b v l) q.obj false else b) a) =
      watched a := by
    refine foldl_same (view := watched) (fun b l => ?_) _ a
    split
    · exact watched_aside (aside_acquire ..)
    · rfl
  unfold observeOne
  dsimp only
  split
  · exact acquired
  · exact (watched_l1Acquire ..).trans acquired

/-- A group without the records of the returns of some slots. -/
def forgetting (v : View) (covers : Nat → Bool) : View := { v with run := { v.run with acqs := v.run.acqs.filter fun a => !covers a.slot } }

/-- What a group observes of the slots that returned (R142): their records go, and nothing else of it changes. -/
theorem observeSlots_spec {s : State} {v : View} (hv : view s v.gid = some v) (covers : Nat → Bool) :
    view (observeSlots s v covers) v.gid = some (forgetting v covers) ∧
    (observeSlots s v covers).mem = s.mem ∧ (observeSlots s v covers).units = s.units ∧ (observeSlots s v covers).now = s.now := by
  rw [observeSlots_eq]
  split
  · next none_ =>
    have all : (v.run.acqs.filter fun a => !covers a.slot) = v.run.acqs := by
      refine List.filter_eq_self.mpr fun a ha => ?_
      have no := List.filter_eq_nil_iff.mp (List.isEmpty_iff.mp none_) a ha
      rw [Bool.not_eq_true _ |>.mp no]
      rfl
    rw [forgetting, all]
    exact ⟨hv, rfl, rfl, rfl⟩
  · generalize hb : modRun s v.gid (fun r => { r with acqs := v.run.acqs.filter fun a => !covers a.slot }) = b
    have same := foldl_same (view := watched) (watched_observeOne v) (v.run.acqs.filter fun a => covers a.slot) b
    have frame := groupless_modRun s v.gid fun r => { r with acqs := v.run.acqs.filter fun a => !covers a.slot }
    rw [hb] at frame
    refine ⟨(watched_view same v.gid).trans ?_, (congrArg (·.2.2.1) same :).trans (congrArg State.mem frame :),
      (congrArg (·.2.2.2.1) same :).trans (congrArg State.units frame :), (congrArg (·.2.2.2.2) same :).trans (congrArg State.now frame :)⟩
    rw [← hb, view_modRun, hv]
    rfl

/-! ## The end of a park (R176) -/

section
variable {s : State} {v : View}

theorem parkOver_iff : parkOver s v.run = true ↔
    v.run.usable ≤ s.now ∧ ∀ j < 4, (j = 3 ∨ v.run.trl.getLsbD j = true) → slotCount v.run j = 0 := by
  simp only [parkOver, Bool.and_eq_true, decide_eq_true_eq, beq_iff_eq, List.all_eq_true, List.mem_range, Bool.or_eq_true, Bool.not_eq_true',
    and_assoc]
  refine and_congr_right fun _ => ⟨fun ⟨last, rest⟩ j hj covers => ?_, fun all => ⟨all 3 (by decide) (.inl rfl), fun j hj => ?_⟩⟩
  · by_cases three : j = 3
    · rw [three]
      exact last
    · refine (rest j (by omega)).resolve_left fun off => ?_
      have on : v.run.trl.toNat.testBit j = true := covers.resolve_left three
      rw [off] at on
      cases on
  · cases on : v.run.trl.toNat.testBit j with
    | false => exact .inl rfl
    | true => exact .inr (all j (by omega) (.inr on))

theorem parkEnds_open {act : ParkAct} (open_ : parkOver s v.run = false) : parkEnds s v act = false := by
  unfold parkEnds
  dsimp only
  rw [open_, Bool.false_and, Bool.false_and]

theorem divergent_same (l : List Nat) (pc : Pc) : divergent (l.map fun x => (x, pc)) = [] := by
  cases l with
  | nil => rfl
  | cons x l => simp [divergent]

theorem parkEnds_of {act : ParkAct} (over_ : parkOver s v.run = true) (live : isCancelled s v = false)
    (ready : act = .next ∨ ∃ pc at_, act = .xfer (v.act.map fun l => (l, pc)) at_ ∧ (coreOf s v.core).staging.length ≤ 128) :
    parkEnds s v act = true := by
  unfold parkEnds
  dsimp only
  rw [over_, live, Bool.not_false, Bool.true_or, Bool.and_true, Bool.true_and, Bool.false_or]
  obtain rfl | ⟨pc, at_, rfl, room⟩ := ready
  · exact Bool.or_true _
  · dsimp only
    rw [divergent_same, stagingRoom, decide_eq_true (by simpa using room)]
    exact Bool.or_true _

theorem observed_none {act : ParkAct} (none_ : v.run.deferred = []) : observed s v act = none := by
  unfold observed
  dsimp only
  rw [none_]
  cases act <;> rfl

/-- A group at the start of its next run. -/
def begunAt (v : View) (since : Nat) : View := { v with run := { v.run with count := 0, trl := 0, status := .ready since } }

theorem view_newRun {t : State} {x : View} (hx : view t x.gid = some x) (since : Nat) :
    view (startRun t x.gid since) x.gid = some (begunAt x since) := by
  rw [view_startRun, hx]
  rfl

theorem groupless_startRun (t : State) (g : Gid) (since : Nat) : groupless (startRun t g since) = groupless t := by
  cases g <;> rfl

theorem groupless_setPc (t : State) (g : Gid) (p : Pc) : groupless (setPc t g p) = groupless t := by
  cases g <;> rfl

end

section
variable {s : State} {g : Gid} {v : View} (hv : view s g = some v) (subj : s.subj = .group g)
include hv subj

theorem parkEnd_goesOn {act : ParkAct} (parked : v.run.status = .parked act) (open_ : parkOver s v.run = false) : exec .runParkEnd s = .next s := by
  have due : parkDue s g = false := by
    unfold parkDue
    rw [hv]
    dsimp only
    rw [parked]
    dsimp only
    rw [parkEnds_open open_, Bool.and_false]
  show execRunParkEnd s = _
  rw [execRunParkEnd, subj]
  dsimp only
  rw [due]
  rfl

omit hv subj in
/-- The slots whose returns the park of a group observes. -/
theorem covered_next (act : ParkAct) (other : act ≠ .exit) (n : Nat) :
    (decide (n = 3) || decide (act = .exit) || v.run.trl.toNat.testBit n) = (n == 3 || v.run.trl.getLsbD n) := by
  rw [decide_eq_false other, Bool.or_false]
  rfl

/-- A park that is over: the slot returns it covers are observed, and then its action is taken. -/
theorem parkEnd_acts {act : ParkAct} (parked : v.run.status = .parked act) (held : frozen s v = false) (still : copied s v = false)
    (live : isCancelled s v = false) (none_ : v.run.deferred = []) (ends_ : parkEnds s v act = true) :
    exec .runParkEnd s = .next (parkAction (observeSlots s v fun n => n = 3 || decide (act = .exit) || v.run.trl.toNat.testBit n)
      (forgetting v fun n => n = 3 || decide (act = .exit) || v.run.trl.toNat.testBit n) act) := by
  have due : parkDue s g = true := by
    unfold parkDue
    rw [hv]
    dsimp only
    rw [parked]
    dsimp only
    rw [held, still, ends_]
    rfl
  have gid := view_gid hv
  show execRunParkEnd s = _
  rw [execRunParkEnd, subj]
  dsimp only
  rw [due, if_pos rfl]
  unfold endPark
  rw [hv]
  dsimp only
  rw [parked]
  dsimp only
  rw [ends_, live, Bool.not_true, if_neg Bool.false_ne_true, if_neg Bool.false_ne_true]
  have seen := (observeSlots_spec (gid ▸ hv) fun n => n = 3 || decide (act = .exit) || v.run.trl.toNat.testBit n).1
  rw [← gid, seen]
  dsimp only
  rw [observed_none (v := forgetting v _) none_]

/-- A park that only starts the next run. -/
theorem parkEnd_next (parked : v.run.status = .parked .next) (held : frozen s v = false) (still : copied s v = false)
    (live : isCancelled s v = false) (none_ : v.run.deferred = []) (over_ : parkOver s v.run = true) : ∃ t, exec .runParkEnd s = .next t ∧
      view t g = some { v with run := { v.run with
        count := 0, trl := 0, status := .ready s.now, acqs := v.run.acqs.filter fun a => !(a.slot == 3 || v.run.trl.getLsbD a.slot) } } ∧
      t.mem = s.mem := by
  have acts := parkEnd_acts hv subj parked held still live none_ (parkEnds_of over_ live (.inl rfl))
  obtain rfl := view_gid hv
  obtain ⟨seen, mem, -, now_⟩ := observeSlots_spec hv fun n => n = 3 || decide (ParkAct.next = .exit) || v.run.trl.toNat.testBit n
  refine ⟨_, acts, ?_, ?_⟩
  · refine (view_newRun seen _).trans ?_
    rw [now_, funext (covered_next .next (by decide))]
    rfl
  · exact (congrArg State.mem (groupless_startRun ..) :).trans mem

omit hv subj in
theorem transfer_same {act : List Nat} (some_ : act ≠ []) (t : State) (x : View) (pc : Pc) (at_ : Nat) :
    transfer t x (act.map fun l => (l, pc)) at_ = startRun (setPc t x.gid pc) x.gid (Nat.max t.now at_) := by
  obtain ⟨l, rest, rfl⟩ := List.exists_cons_of_ne_nil some_
  have same := divergent_same (l :: rest) pc
  unfold transfer
  rw [List.map_cons] at same ⊢
  dsimp only
  rw [same]
  split
  · next no => cases no
  · rfl

/-- A park that takes every lane to one target. -/
theorem parkEnd_transfers {pc : Pc} {at_ : Nat} (parked : v.run.status = .parked (.xfer (v.act.map fun l => (l, pc)) at_)) (some_ : v.act ≠ [])
    (held : frozen s v = false) (still : copied s v = false) (live : isCancelled s v = false) (none_ : v.run.deferred = [])
    (over_ : parkOver s v.run = true) (room : (coreOf s v.core).staging.length ≤ 128) : ∃ t, exec .runParkEnd s = .next t ∧
      view t g = some { v with pc := pc, run := { v.run with count := 0, trl := 0, status := .ready (Nat.max s.now at_),
                                                             acqs := v.run.acqs.filter fun a => !(a.slot == 3 || v.run.trl.getLsbD a.slot) } } ∧
      t.mem = s.mem := by
  have acts := parkEnd_acts hv subj parked held still live none_ (parkEnds_of over_ live (.inr ⟨pc, at_, rfl, room⟩))
  obtain rfl := view_gid hv
  rw [funext (covered_next (v := v) (.xfer (v.act.map fun l => (l, pc)) at_) (by simp))] at acts
  obtain ⟨seen, mem, -, now_⟩ := observeSlots_spec hv fun n => n == 3 || v.run.trl.getLsbD n
  change exec .runParkEnd s = .next (transfer _ _ (v.act.map fun l => (l, pc)) at_) at acts
  rw [transfer_same some_, now_] at acts
  change exec .runParkEnd s =
    .next (startRun (setPc (observeSlots s v fun n => n == 3 || v.run.trl.getLsbD n) v.gid pc) v.gid (Nat.max s.now at_)) at acts
  refine ⟨_, acts, ?_, ?_⟩
  · rw [view_startRun, view_setPc, seen]
    rfl
  · exact (congrArg State.mem (groupless_startRun ..) :).trans ((congrArg State.mem (groupless_setPc ..) :).trans mem)

end

/-! ## The end of a wait (R216) -/

/-- What one condition of a wait acquires when it is met. -/
def waitStep (s : State) (v : View) (all : Bool) (a : State) (c : Cond) : State :=
  if !condMet s v all c then a
  else match c with
    | .tileReady t => acquireLanes a v (obTile v.unit t) false
    | .barPhase b _ =>
      match (unitOf s v.unit).bind fun u => tabGet b u.bars with
      | some k => acquireLanes a v (obBar v.unit b (k.phase - 1)) false
      | none => a
    | .slot n => observeSlots a { v with run := ((view a v.gid).map (·.run)).getD v.run } (· == n)
    | .done h =>
      let b := acquireLanes a v (countOf a v h) false
      if v.kc then b else l1Acquire b v.core 4
    | _ => a

theorem waitAcquires_eq (s : State) (v : View) (all : Bool) (conds : List Cond) :
    waitAcquires s v all conds = conds.foldl (waitStep s v all) s := rfl

theorem forgetting_twice (v : View) (p q : Nat → Bool) : forgetting (forgetting v p) q = forgetting v fun n => p n || q n := by
  unfold forgetting
  rw [List.filter_filter]
  simp only [Bool.not_or, Bool.and_comm]

/-- A group some of whose slot records are observed in a wait. -/
structure Observed (s a : State) (v : View) (seen : Nat → Bool) : Prop where
  group : view a v.gid = some (forgetting v seen)
  units : a.units = s.units
  now : a.now = s.now

theorem Observed.of_watched {s a b : State} {v : View} {seen : Nat → Bool} (h : Observed s a v seen) (same : watched b = watched a) :
    Observed s b v seen :=
  ⟨(watched_view same v.gid).trans h.group, (congrArg (·.2.2.2.1) same :).trans h.units, (congrArg (·.2.2.2.2) same :).trans h.now⟩

/-- The slot that a condition observes. -/
def observes (s : State) (v : View) (all : Bool) (c : Cond) (n : Nat) : Bool := decide (c = .slot n) && condMet s v all c

theorem Observed.seen_congr {s a : State} {v : View} {p q : Nat → Bool} (h : Observed s a v p) (same : ∀ n, q n = p n) : Observed s a v q := by
  rw [show q = p from funext same]
  exact h

theorem watched_acquireLanes (s : State) (v : View) (ob : Nat) (all : Bool) : watched (acquireLanes s v ob all) = watched s :=
  watched_aside (aside_acquireLanes ..)

theorem waitStep_observes {s r a : State} {v : View} {all : Bool} {seen : Nat → Bool} (h : Observed s a v seen) (c : Cond) :
    Observed s (waitStep r v all a c) v fun n => seen n || observes r v all c n := by
  unfold waitStep
  split
  · next off =>
    refine h.seen_congr fun n => ?_
    rw [observes, show condMet r v all c = false by rw [← Bool.not_not (condMet r v all c), off]; rfl, Bool.and_false, Bool.or_false]
  · next on =>
    have plain_ (other : ∀ n, c ≠ .slot n) (n : Nat) : (seen n || observes r v all c n) = seen n := by
      rw [observes, decide_eq_false (other n), Bool.false_and, Bool.or_false]
    cases c with
    | none => exact h.seen_congr (plain_ fun n no => by cases no)
    | tileReady t => exact (h.of_watched (watched_acquireLanes ..)).seen_congr (plain_ fun n no => by cases no)
    | barPhase b p =>
      refine Observed.seen_congr ?_ (plain_ fun n no => by cases no)
      dsimp only
      split
      · exact h.of_watched (watched_acquireLanes ..)
      · exact h
    | slot n =>
      dsimp only
      rw [h.group]
      obtain ⟨group, -, units, now_⟩ := observeSlots_spec (s := a) (v := forgetting v seen) h.group (· == n)
      refine ⟨group.trans (congrArg some ?_), units.trans h.units, now_.trans h.now⟩
      rw [forgetting_twice]
      refine congrArg (forgetting v) (funext fun m => congrArg (seen m || ·) ?_)
      have met : condMet r v all (.slot n) = true := Bool.not_eq_false _ |>.mp fun no => on (by rw [no]; rfl)
      rw [observes, met, Bool.and_true]
      by_cases same : m = n
      · rw [same, decide_eq_true rfl]
        exact beq_self_eq_true n
      · rw [decide_eq_false fun no => same (Cond.slot.inj no).symm]
        exact beq_false_of_ne same
    | flag f => exact h.seen_congr (plain_ fun n no => by cases no)
    | word addr old start rounds diffs => exact h.seen_congr (plain_ fun n no => by cases no)
    | done x =>
      refine Observed.seen_congr ?_ (plain_ fun n no => by cases no)
      dsimp only
      split
      · exact h.of_watched (watched_acquireLanes ..)
      · exact h.of_watched ((watched_l1Acquire ..).trans (watched_acquireLanes ..))

theorem waitSteps_observe {s r : State} {v : View} {all : Bool} : ∀ (conds : List Cond) {a : State} {seen : Nat → Bool}, Observed s a v seen →
    Observed s (conds.foldl (waitStep r v all) a) v fun n => seen n || conds.any fun c => observes r v all c n
  | [], _, _, h => h.seen_congr fun n => by rw [List.any_nil, Bool.or_false]
  | c :: conds, _, _, h => (waitSteps_observe conds (waitStep_observes h c)).seen_congr fun n => by
      rw [List.any_cons, Bool.or_assoc]

/-- Whether a slot is zero is not for the state to say. -/
theorem observes_congr (s t : State) (v : View) (all : Bool) (c : Cond) (n : Nat) : observes s v all c n = observes t v all c n := by
  unfold observes
  by_cases h : c = .slot n
  · rw [h]
    rfl
  · rw [decide_eq_false h, Bool.false_and, Bool.false_and]

theorem forgetting_none (v : View) : forgetting v (fun _ => false) = v := by
  unfold forgetting
  simp

section
variable {s : State} {g : Gid} {v : View} {all : Bool} {kd : Nat} {conds : List Cond} {tmo : Word} {t0 : Nat}
  (hv : view s g = some v) (waits : v.run.status = .waiting all kd conds tmo t0) (none_ : v.run.deferred = [])
include hv waits none_

/-- The end of a wait: what was met is written, the slots observed are forgotten, and a new run starts in the next cycle. -/
theorem endWait_ends (timedOut : Bool) :
    view (endWait s g timedOut) g = some (begunAt (forgetting v fun n => conds.any fun c => observes s v all c n) (s.now + 1)) ∧
    unitOf (endWait s g timedOut) v.unit = (unitOf s v.unit).map fun u => { u with kpend := u.kpend ++ [⟨s.now + 1, s.now, v.kc, kd,
      BitVec.ofNat 64 ((conds.mapIdx fun i c => if condMet s v all c then 2 ^ i else 0).sum +
        if timedOut && !exitMet s v all conds then 16 else 0)⟩] } := by
  obtain rfl := view_gid hv
  unfold endWait
  rw [hv]
  dsimp only
  rw [waits]
  dsimp only
  rw [none_, List.find?_nil]
  dsimp only
  generalize hb : modUnit s v.unit _ = b
  have written : unitOf b v.unit = (unitOf s v.unit).map fun u => { u with kpend := u.kpend ++ [⟨s.now + 1, s.now, v.kc, kd,
      BitVec.ofNat 64 ((conds.mapIdx fun i c => if condMet s v all c then 2 ^ i else 0).sum +
        if timedOut && !exitMet s v all conds then 16 else 0)⟩] } := by
    rw [← hb, unitOf_modUnit]
  have first : Observed b b v fun _ => false := by
    refine ⟨?_, rfl, rfl⟩
    rw [forgetting_none, ← hb, view_modUnit, hv]
  rw [waitAcquires_eq]
  obtain ⟨group, units, -⟩ := (waitSteps_observe (r := b) (all := all) conds first).seen_congr
    (q := fun n => conds.any fun c => observes s v all c n) fun n => by
      rw [Bool.false_or]
      exact congrArg conds.any (funext fun c => observes_congr ..)
  refine ⟨view_newRun (x := forgetting v fun n => conds.any fun c => observes s v all c n) group (s.now + 1), ?_⟩
  have kept : (startRun (conds.foldl (waitStep b v all) b) v.gid (s.now + 1)).units = b.units :=
    ((congrArg State.units (groupless_startRun ..) :)).trans units
  exact (congrArg (tabGet v.unit) kept).trans written

end

section
variable {s : State} {g : Gid} {v : View} {all : Bool} {kd : Nat} {conds : List Cond} {tmo : Word} {t0 : Nat}
  (hv : view s g = some v) (waits : v.run.status = .waiting all kd conds tmo t0) (held : frozen s v = false)
include hv waits held

theorem waitDue_eq : waitDue s g = exitMet s v all conds := by
  unfold waitDue
  rw [hv]
  dsimp only
  rw [waits]
  dsimp only
  rw [held, Bool.not_false, Bool.true_and]

theorem timeoutDue_eq : timeoutDue s g = (tmo != 0xFFFFFFFF && (tmo = 0 || tickEnd (t0 + tmo.toNat) ≤ s.now)) := by
  unfold timeoutDue
  rw [hv]
  dsimp only
  rw [waits]
  dsimp only
  rw [held, Bool.not_false, Bool.true_and]

end

section
variable {s : State} {g : Gid} {v : View} {all : Bool} {kd : Nat} {conds : List Cond} {tmo : Word} {t0 : Nat}
  (hv : view s g = some v) (subj : s.subj = .group g) (waits : v.run.status = .waiting all kd conds tmo t0) (held : frozen s v = false)
include hv subj waits held

theorem exec_waitConditionMet : exec .waitConditionMet s = .next (if exitMet s v all conds then endWait s g false else s) := by
  show execWaitConditionMet s = _
  rw [execWaitConditionMet, subj]
  dsimp only
  rw [waitDue_eq hv waits held]

theorem exec_waitTimeout :
    exec .waitTimeout s = .next (if tmo != 0xFFFFFFFF && (tmo = 0 || tickEnd (t0 + tmo.toNat) ≤ s.now) then endWait s g true else s) := by
  show execWaitTimeout s = _
  rw [execWaitTimeout, subj]
  dsimp only
  rw [timeoutDue_eq hv waits held]

end

/-! ## Ejected threads and words that are no instruction -/

section
variable {s : State} {cl k : Nat} {e : Ejected} (he : ejOf s cl k = some e)
include he

/-- The end of a hand-over (R36). -/
theorem handover_ends (subj : s.subj = .group (.kindle cl k)) (hands : e.run.status = .handover) (usable : e.run.usable ≤ s.now) :
    ∃ t y, exec .ejectionHandoverEnd s = .next t ∧ ejOf t cl k = some y ∧
      y.t0 = tickOf s.now ∧ y.pc = e.pc ∧ y.regs = e.regs ∧ y.run.status = .ready s.now := by
  have acts : exec .ejectionHandoverEnd s = .next (startRun (modEj s cl k fun e => { e with t0 := tickOf s.now }) (.kindle cl k) s.now) := by
    show execEjectionHandoverEnd s = _
    rw [execEjectionHandoverEnd, subj]
    dsimp only
    rw [endHandover, view_kindle_eq, he, Option.map_some]
    dsimp only
    exact congrArg _ (if_pos (Bool.and_eq_true_iff.mpr ⟨decide_eq_true hands, decide_eq_true usable⟩))
  have after : ejOf (startRun (modEj s cl k fun e => { e with t0 := tickOf s.now }) (.kindle cl k) s.now) cl k =
      some { e with t0 := tickOf s.now, tmps := [], run := { e.run with count := 0, trl := 0, status := .ready s.now } } := by
    generalize tickOf s.now = tick
    unfold startRun modRun
    rw [ejOf_modEj, ejOf_modEj, ejOf_modEj, he]
    rfl
  exact ⟨_, _, acts, after, rfl, rfl, rfl, rfl⟩

/-- An ejected thread over its limit (R382). -/
theorem ejlim_raised {v : View} (hv : view s (.kindle cl k) = some v) (subj : s.subj = .group (.kindle cl k)) (may : mayIssue s v = true)
    (turn : kindleIssuer s cl (k % 16) = some (.kindle cl k)) (over_ : Config.ejlim ≤ tickOf s.now - e.t0) :
    exec .ejlim s = .next (trapNow s v (precise v 0x20 e.tag)) := by
  have due : ejlimDue s (.kindle cl k) = true := by
    unfold ejlimDue
    rw [hv]
    dsimp only
    rw [may, turn, he, Option.map_some, Option.getD_some, decide_eq_true over_, decide_eq_true rfl]
    rfl
  show execEjlim s = _
  rw [execEjlim, subj]
  dsimp only
  rw [due, if_pos rfl]
  unfold raiseEjlim
  rw [hv]
  dsimp only
  rw [he]
  rfl

end

/-- A word that is no instruction (R394). -/
theorem ill_raised {s : State} {g : Gid} {v : View} {enc : Nat} (hv : view s g = some v) (cur : s.cur = some g) (subj : s.subj = .of [enc])
    (noMerge : Safety.underFault s g = false) : exec .illegalEncoding s = .next (trapNow s v (precise v 0x03 enc)) := by
  show execIllegalEncoding s = _
  rw [execIllegalEncoding, cur, subj]
  dsimp only
  rw [raiseIll, hv]
  dsimp only
  rw [Safety.arrives (view_gid hv ▸ noMerge)]
  rfl

/-- Settles O43: R36, R172, R176, R216, R382, R394. -/
theorem groupEvents : Obligations.GroupEvents := by
  unfold Obligations.GroupEvents
  refine ⟨fun s g v hv subj => ?_, fun s g v enc hv cur subj noMerge => ill_raised hv cur subj noMerge⟩
  intro settled free starts covered
  refine ⟨?next, ?transfer, ?open_, ?wait, ?ejected⟩
  case next =>
    rintro parked ⟨held, still, live, none_⟩ over_
    exact parkEnd_next hv subj parked held still live none_ (parkOver_iff.mpr over_)
  case transfer =>
    rintro pc at_ parked some_ ⟨held, still, live, none_⟩ over_ room
    exact parkEnd_transfers hv subj parked some_ held still live none_ (parkOver_iff.mpr over_) room
  case open_ =>
    intro act parked open_
    exact parkEnd_goesOn hv subj parked (Bool.not_eq_true _ |>.mp fun yes => open_ (parkOver_iff.mp yes))
  case wait =>
    intro all kd conds tmo t0 waits held none_ met slots ends_
    refine ⟨fun met_ => ?_, fun open_ => ?_, fun open_ due => ?_, fun open_ never => ?_⟩
    · refine ⟨_, (exec_waitConditionMet hv subj waits held).trans (by rw [met_, if_pos rfl]), endWait_ends hv waits none_ false⟩
    · rw [exec_waitConditionMet hv subj waits held, open_]
      rfl
    · obtain ⟨group, written⟩ := endWait_ends hv waits none_ true
      refine ⟨_, (exec_waitTimeout hv subj waits held).trans (congrArg _ (if_pos ?_)), group, ?_⟩
      · rw [Bool.and_eq_true, bne_iff_ne, Bool.or_eq_true, decide_eq_true_eq, decide_eq_true_eq]
        obtain zero | ⟨bounded, past⟩ := due
        · exact ⟨by rw [zero]; decide, .inl zero⟩
        · exact ⟨bounded, .inr past⟩
      · rw [open_] at written
        exact written
    · rw [exec_waitTimeout hv subj waits held, never]
      rfl
  case ejected =>
    rintro cl k e rfl he
    exact ⟨handover_ends he subj, ejlim_raised he hv subj⟩

end Sys2Proof
end

section
/-! Write-backs, rejoin windows and bins (R40, R49, R50, R383, R386): O44. -/

namespace Sys2Proof
open Machine

/-! ## A write-back lands (R40) -/

/-- One register of a write-back. -/
def backRegister (c page lane bsize : Nat) (poison : List Nat) (a : State) (p : Nat × Word) : State :=
  if p.1 < bsize then modCore a c fun k => putLaneWord k (regAddr page p.1 lane) p.2 (poison.contains p.1) else a

/-- A warp with its thread back in its lane. -/
def threadBack (wb : WriteBack) (status : Status) (y : Warp) : Warp :=
  let z := addArb (modLane y wb.lane fun _ => ⟨.running, some wb.thr, []⟩) wb.lost
  { z with ejs := z.ejs.map fun j => { j with mask := j.mask &&& ~~~ maskOf [wb.lane] }, run := { z.run with status := status } }

theorem landBack_eq {s : State} {c w : Nat} {x : Warp} {tag t0 mode since ready : Nat} {wb : WriteBack} (hx : warpOf s c w = some x)
    (back : x.run.status = .rejoin tag t0 mode since ready (some wb)) : landBack s c w =
      modWarp (wb.regs.foldl (backRegister c x.page wb.lane x.bsize wb.poison) s) c w
        (threadBack wb (.rejoin tag t0 mode since ready none)) := by
  unfold landBack
  rw [hx]
  dsimp only
  rw [back]
  rfl

theorem backRegister_warps (c page lane bsize : Nat) (poison : List Nat) (a : State) (p : Nat × Word) (d w : Nat) :
    warpOf (backRegister c page lane bsize poison a p) d w = warpOf a d w := by
  unfold backRegister
  split
  · exact warpOf_modCore_eq (fun _ => by rfl) d w
  · rfl

section
variable {c page lane bsize : Nat} {poison : List Nat}

theorem backRegister_store {a : State} {p : Nat × Word} (low : p.1 < bsize) :
    (coreOf (backRegister c page lane bsize poison a p) c).store = (coreOf a c).store.setWord (regAddr page p.1 lane) p.2 := by
  unfold backRegister
  rw [if_pos low, coreOf_modCore]
  rfl

/-- The registers of a write-back read as what it carries, and the others of its lane as before. -/
theorem backRegisters_read (hl : lane < 32) : ∀ (regs : List (Nat × Word)) {a : State}, (coreOf a c).store.wf = true → (∀ p ∈ regs, p.1 < bsize) →
    (regs.map (·.1)).Nodup →
    let store := (coreOf (regs.foldl (backRegister c page lane bsize poison) a) c).store
    (∀ p ∈ regs, store.word (regAddr page p.1 lane) = p.2) ∧
    ∀ r ∉ regs.map (·.1), store.word (regAddr page r lane) = (coreOf a c).store.word (regAddr page r lane)
  | [], _, _, _, _ => ⟨fun _ no => absurd no List.not_mem_nil, fun _ _ => rfl⟩
  | p :: regs, a, wf, low, once => by
    obtain ⟨fresh, rest⟩ := List.nodup_cons.mp once
    have store := backRegister_store (c := c) (page := page) (lane := lane) (poison := poison) (a := a) (low p List.mem_cons_self)
    obtain ⟨written, kept⟩ := backRegisters_read hl regs (a := backRegister c page lane bsize poison a p) (by rw [store]; exact write_wf _ _ wf)
      (fun q hq => low q (List.mem_cons_of_mem _ hq)) rest
    rw [store] at kept
    refine ⟨fun q hq => ?_, fun r hr => ?_⟩
    · obtain rfl | later := List.mem_cons.mp hq
      · exact (kept q.1 fresh).trans (word_setWord_same _ _ wf)
      · exact written q later
    · obtain ⟨other, later⟩ := not_or.mp fun either => hr (List.mem_cons.mpr either)
      refine (kept r later).trans (word_setWord_other _ _ _ wf (regAddr_apart page hl hl ?_))
      exact fun same => other (Prod.mk.inj same).1

end

section
variable {s : State} {c w : Nat} {x : Warp} {tag t0 mode since ready : Nat} {wb : WriteBack} (hx : warpOf s c w = some x)
  (back : x.run.status = .rejoin tag t0 mode since ready (some wb))
include hx back

theorem writebackEnd_lands (subj : s.subj = .group (.warp c w)) (ends_ : wb.ends = s.now) : exec .rejoinWritebackEnd s =
    .next (if (unitOf s x.unit).any (·.cancelled) then setStatus (landBack s c w) (.warp c w) (.parked .exit) else pumpRejoin (landBack s c w) c w) := by
  show execRejoinWritebackEnd s = _
  rw [execRejoinWritebackEnd, subj]
  dsimp only
  rw [endWriteBack, hx]
  dsimp only
  rw [back]
  dsimp only
  rw [ends_, bne_self_eq_false, if_neg Bool.false_ne_true]

theorem landBack_warp : warpOf (landBack s c w) c w = some (threadBack wb (.rejoin tag t0 mode since ready none) x) := by
  rw [landBack_eq hx back, warpOf_modWarp, foldl_same (view := fun a => warpOf a c w) (f := backRegister c x.page wb.lane x.bsize wb.poison)
    (fun a p => backRegister_warps ..), hx]
  rfl

theorem landBack_words (lane : wb.lane < 32) (low : ∀ p ∈ wb.regs, p.1 < x.bsize) (once : (wb.regs.map (·.1)).Nodup)
    (wf : (coreOf s c).store.wf = true) (p : Nat × Word) (hp : p ∈ wb.regs) :
    (coreOf (landBack s c w) c).store.word (regAddr x.page p.1 wb.lane) = p.2 := by
  rw [landBack_eq hx back, coreOf_modWarp_field (field := Core.store) fun _ _ => rfl]
  exact (backRegisters_read lane wb.regs wf low once).1 p hp

end

theorem threadBack_lane (wb : WriteBack) (status : Status) (y : Warp) {z : Lane} (hz : y.lanes[wb.lane]? = some z) :
    (threadBack wb status y).lanes[wb.lane]? = some ⟨.running, some wb.thr, []⟩ := by
  simp [threadBack, addArb, modLane, hz]

/-! ## A rejoin window closes (R40) -/

/-- A warp at the end of a rejoin: its run, no record of the tag, and the lanes still away vacant. -/
structure Rejoined (run : Run) (tag : Nat) (away : BitVec 32) (y : Warp) : Prop where
  run : y.run = run
  tags : ∀ j ∈ y.ejs, j.tag ≠ tag
  vacant : ∀ l z, away.getLsbD l = true → y.lanes[l]? = some z → z.st = .vacant

theorem mem_vacateLanes {y : Warp} {ls : List Nat} {l : Nat} {z : Lane} (hz : (vacateLanes y ls).lanes[l]? = some z) :
    z.st = .vacant ∨ y.lanes[l]? = some z := by
  simp only [vacateLanes, List.getElem?_mapIdx, Option.map_eq_some_iff] at hz
  obtain ⟨a, ha, rfl⟩ := hz
  split
  · exact .inl rfl
  · exact .inr ha

section
variable {c w : Nat} {P : Warp → Prop}

/-- A warp with a property. -/
def SomeWarp (P : Warp → Prop) (c w : Nat) (s : State) : Prop := ∃ y, warpOf s c w = some y ∧ P y

theorem SomeWarp.modWarp {s : State} (h : SomeWarp P c w s) {f : Warp → Warp} (keeps : ∀ y, P y → P (f y)) (d v : Nat) :
    SomeWarp P c w (modWarp s d v f) := by
  obtain ⟨y, hy, py⟩ := h
  by_cases here : c = d ∧ w = v
  · exact ⟨f y, by rw [warpOf_modWarp_eq, if_pos here, hy]; rfl, keeps y py⟩
  · exact ⟨y, by rw [warpOf_modWarp_eq, if_neg here]; exact hy, py⟩

theorem SomeWarp.congr {s t : State} (h : SomeWarp P c w s) (same : warpOf t c w = warpOf s c w) : SomeWarp P c w t := by
  unfold SomeWarp
  rw [same]
  exact h

end

theorem placeStaged_warps (s : State) (core : Nat) (t : Staged) (d v : Nat) : warpOf (placeStaged s core t) d v = warpOf s d v := by
  unfold placeStaged
  dsimp only
  split
  · exact warpOf_modCore_eq (fun _ => by rfl) d v
  · split
    · exact warpOf_modCore_eq (fun _ => by rfl) d v
    · exact (warpOf_modCore_eq (fun _ => by rfl) d v).trans rfl

theorem settle_warps (s : State) (core d v : Nat) : warpOf (settle s core) d v = warpOf s d v := by
  unfold settle
  dsimp only
  split
  · rfl
  · exact (foldl_same (view := fun a => warpOf a d v) (f := fun a t => placeStaged a core t) (fun a t => placeStaged_warps ..) _ _).trans
      (warpOf_modCore_eq (fun _ => by rfl) d v)

theorem stageAll_warps (s : State) (core : Nat) (l : List Staged) (d v : Nat) : warpOf (stageAll s core l) d v = warpOf s d v :=
  (settle_warps ..).trans (warpOf_modCore_eq (fun _ => by rfl) d v)

theorem releaseKept_warps (s : State) (unit core serial d v : Nat) : warpOf (releaseKept s unit core serial) d v = warpOf s d v := by
  unfold releaseKept
  split <;> rfl

section
variable {run : Run} {tag : Nat} {away : BitVec 32} {c w : Nat}

theorem leaveSlot_rejoined {s : State} (h : SomeWarp (Rejoined run tag away) c w s) (cl k : Nat) :
    SomeWarp (Rejoined run tag away) c w (leaveSlot s cl k) := by
  unfold leaveSlot
  split
  · exact h
  · next e _ =>
    refine SomeWarp.congr ?_ (releaseKept_warps ..)
    refine SomeWarp.modWarp (SomeWarp.congr h rfl) (fun y hy => ?_) e.core e.wslot
    split
    · refine ⟨hy.run, fun j hj => ?_, fun l z hl hz => (mem_vacateLanes hz).elim id (hy.vacant l z hl)⟩
      obtain ⟨i, hi, rfl⟩ := List.mem_map.mp hj
      exact hy.tags i hi
    · exact hy

theorem lateFile_rejoined {s : State} (h : SomeWarp (Rejoined run tag away) c w s) (cl k : Nat) :
    SomeWarp (Rejoined run tag away) c w (lateFile s cl k) := by
  unfold lateFile
  split
  · exact h
  · unfold fileEjected
    split
    · exact h
    · exact (leaveSlot_rejoined h cl k).congr (stageAll_warps ..)

end

/-- The end of a rejoin (R40 steps 3 and 4). -/
theorem finishRejoin_ends {s : State} {c w : Nat} {x : Warp} (hx : warpOf s c w = some x) (tag ready : Nat) :
    SomeWarp (Rejoined { x.run with status := .parked .next, usable := Nat.max x.run.usable ready } tag (openMask x tag)) c w
      (finishRejoin s c w tag ready) := by
  unfold finishRejoin
  rw [hx]
  dsimp only
  generalize hs1 : modWarp s c w _ = s1
  have here : SomeWarp (Rejoined { x.run with status := .parked .next, usable := Nat.max x.run.usable ready } tag (openMask x tag)) c w s1 := by
    refine ⟨_, by rw [← hs1, warpOf_modWarp, hx]; rfl, rfl, fun j hj => ?_, fun l z hl hz => ?_⟩
    · exact bne_iff_ne.mp (List.mem_filter.mp hj).2
    · have low : l < 32 := BitVec.lt_of_getLsbD hl
      simp only [vacateLanes, List.getElem?_mapIdx, Option.map_eq_some_iff] at hz
      obtain ⟨a, -, rfl⟩ := hz
      rw [if_pos (by simpa using mem_lanesOf.mpr ⟨low, hl⟩)]
  have filed := foldl_keeps (P := SomeWarp (Rejoined { x.run with status := .parked .next, usable := Nat.max x.run.usable ready } tag (openMask x tag)) c w)
    (f := fun a (q : Nat × Nat × Ejected) => lateFile a (clusterOf c) q.2.1) (fun a q h => lateFile_rejoined h (clusterOf c) q.2.1)
    (waitingAt s1 c x.serial tag 0) here
  split
  · refine SomeWarp.congr filed ?_
    exact (congrArg (fun k => tabGet w (k c)) (congrArg (·.1) (watched_acquireLanes ..) :) :)
  · exact filed

section
variable {s : State} {c w : Nat} {x : Warp} {tag t0 since ready : Nat} {v : View} (hx : warpOf s c w = some x) (hv : view s (.warp c w) = some v)
  (waits : x.run.status = .rejoin tag t0 0 since ready none) (held : frozen s v = false)
include hx hv waits held

theorem frozen_unit : (unitOf s x.unit).any (·.halted) = false := by
  obtain ⟨y, hy, rfl⟩ := view_warp hv
  obtain rfl := Option.some.inj (hx.symm.trans hy)
  have off := (Bool.or_eq_false_iff.mp held).1
  unfold unitHalted at off
  rw [show enteringTrap (viewOfWarp c w x).run = false by
    unfold enteringTrap
    rw [show (viewOfWarp c w x).run.status = _ from waits], Bool.not_false, Bool.and_true] at off
  cases hu : unitOf s x.unit with
  | none => rfl
  | some u =>
    rw [show (viewOfWarp c w x).unit = x.unit from rfl, hu] at off
    exact off

theorem windowClose_ends (subj : s.subj = .group (.warp c w)) (past : tickEnd (t0 + x.rjw.toNat) ≤ s.now) :
    ∃ t, exec .rejoinWindowClose s = .next t ∧ SomeWarp (Rejoined
      { x.run with status := .parked .next, usable := Nat.max x.run.usable (Nat.max ready (s.now + 1)) } tag (openMask x tag)) c w t := by
  have due : windowDue s c w = true := by
    unfold windowDue
    rw [hx, hv]
    dsimp only
    rw [waits, held]
    exact Bool.and_eq_true_iff.mpr ⟨rfl, decide_eq_true past⟩
  generalize ht : setStatus s (.warp c w) (.rejoin tag t0 3 since (Nat.max ready (s.now + 1)) none) = t
  have there : warpOf t c w = some { x with run := { x.run with status := .rejoin tag t0 3 since (Nat.max ready (s.now + 1)) none } } := by
    rw [← ht]
    unfold setStatus modRun
    rw [warpOf_modWarp, hx]
    rfl
  have running : (unitOf t x.unit).any (·.halted) = false := by
    rw [← ht]
    exact (frozen_unit hx hv waits held :)
  have closes : exec .rejoinWindowClose s = .next (finishRejoin t c w tag (Nat.max ready (s.now + 1))) := by
    show execRejoinWindowClose s = _
    rw [execRejoinWindowClose, subj]
    dsimp only
    rw [due, if_pos rfl, closeWindow, hx]
    dsimp only
    rw [waits]
    dsimp only
    rw [ht, pumpRejoin, there]
    dsimp only
    rw [running, if_neg Bool.false_ne_true, if_pos rfl]
    dsimp only
    rw [if_pos (.inr (.inl rfl))]
  exact ⟨_, closes, finishRejoin_ends there tag _⟩

end

/-! ## Bins (R49, R50, R386) -/

section
variable {s : State} {core bin : Nat} {b : Bin} (hb : tabGet bin (coreOf s core).bins = some b)
include hb

theorem binAged_acts {u : UnitSt} (subj : s.subj = .of [core, bin]) (hu : unitOf s b.unit = some u) (young : b.aged = false)
    (free : isDeterm s b.unit = false) (runs : u.halted = false) : exec .binAged s =
      .next (if b.opened + u.binage ≤ s.now then modCore s core fun k => { k with bins := tabMod bin (fun b => { b with aged := true }) k.bins } else s) := by
  have due : ageDue s core bin = decide (b.opened + u.binage ≤ s.now) := by
    unfold ageDue
    rw [hb]
    dsimp only
    rw [hu]
    dsimp only
    rw [young, free, runs]
    rfl
  show execBinAged s = _
  rw [execBinAged, subj]
  dsimp only
  rw [due]
  simp only [decide_eq_true_eq]

theorem binAged_ages : let t := modCore s core fun k => { k with bins := tabMod bin (fun b => { b with aged := true }) k.bins }
    tabGet bin (coreOf t core).bins = some { b with aged := true } ∧ (coreOf t core).warps = (coreOf s core).warps ∧ t.mem = s.mem := by
  refine ⟨?_, ?_, rfl⟩
  · rw [coreOf_modCore, tabGet_mod_same, hb]
    rfl
  · rw [coreOf_modCore]

end

/-- A lane of a new warp, with the thread it holds. -/
def seated : Option Thread → Lane
  | some t => ⟨.running, some t, []⟩
  | none => ⟨.vacant, none, []⟩

theorem newWarp_lane (s : State) (unit serial page bsize : Nat) (pc : Pc) (ts : List Thread) (since : Nat) {i : Nat} (hi : i < 32) :
    (newWarp s unit serial page bsize pc ts since).lanes[i]? = some (seated ts[i]?) := by
  simp only [newWarp, List.getElem?_map, List.getElem?_range hi, Option.map_some]
  cases ts[i]? <;> rfl

/-- The threads of a drawn bin with the words they carry, in lanes 0 upward. -/
def drawnWords (core page bsize : Nat) (threads : List Filed) (s : State) : State :=
  (threads.mapIdx fun i t => (i, t)).foldl (fun a (lane, t) =>
    modCore a core fun k => { k with
      store := t.regs.foldl (fun m (r, x) => if r < bsize then m.setWord (regAddr page r lane) x else m) k.store
      storePoison := k.storePoison ++ (t.poison.filter fun r => r < bsize).map fun r => regAddr page r lane }) s

/-- A drawn bin as a warp. -/
def drawnWarp (s : State) (b : Bin) (serial page bsize now : Nat) : Warp :=
  let x := newWarp s b.unit serial page bsize b.pc (b.threads.map (·.thr)) (now + 2 * maxOf (b.threads.map (·.live)))
  { x with run := { x.run with deferred := b.threads.flatMap (·.deferred) } }

theorem drawnWarp_lane (s : State) (b : Bin) (serial page bsize now : Nat) {i : Nat} (hi : i < 32) :
    (drawnWarp s b serial page bsize now).lanes[i]? = some (seated (b.threads[i]?.map (·.thr))) :=
  (newWarp_lane s b.unit serial page bsize b.pc (b.threads.map (·.thr)) (now + 2 * maxOf (b.threads.map (·.live))) hi).trans
    (by rw [List.getElem?_map])

/-- The state a bin is drawn in, with its slot free and its block cleared. -/
def drawnBlock (s : State) (core bin page bsize n : Nat) : State :=
  clearBlock (modCore (freshNat s).2 core fun k => { k with bins := tabDel bin k.bins }) core page bsize n

theorem drawBin_eq {s : State} {core bin reason w page : Nat} {b : Bin} (hb : tabGet bin (coreOf s core).bins = some b)
    (place : drawPlace s core b = some (w, page)) (free : Safety.unrecorded s b.unit) : ∃ s3 serial bsize,
      drawBin s core bin reason = settle (setWarp s3 core w (drawnWarp s3 b serial page bsize s.now)) core := by
  unfold drawBin
  rw [hb]
  dsimp only
  rw [place]
  dsimp only
  rw [free.capture]
  exact ⟨drawnWords core page (blockSize (unitFrame s b.unit).regs) b.threads
    (drawnBlock s core bin page (blockSize (unitFrame s b.unit).regs) b.threads.length), s.fresh, blockSize (unitFrame s b.unit).regs, rfl⟩

theorem binDraw_draws {s : State} {core bin reason w page : Nat} {b : Bin} (subj : s.subj = .of [core, bin, reason])
    (due : drawDue s core = some (bin, reason)) (hb : tabGet bin (coreOf s core).bins = some b) (place : drawPlace s core b = some (w, page))
    (free : Safety.unrecorded s b.unit) : ∃ t s3 serial bsize, exec .binDraw s = .next t ∧
      warpOf t core w = some (drawnWarp s3 b serial page bsize s.now) := by
  obtain ⟨s3, serial, bsize, drawn⟩ := drawBin_eq (reason := reason) hb place free
  refine ⟨settle (setWarp s3 core w (drawnWarp s3 b serial page bsize s.now)) core, s3, serial, bsize, ?_, ?_⟩
  · show execBinDraw s = _
    rw [execBinDraw, subj]
    dsimp only
    rw [due, if_pos rfl, drawn]
  · rw [settle_warps, warpOf, setWarp, coreOf_modCore, tabGet_put_same]

/-- Settles O44: R40, R49, R50, R383, R386. -/
theorem rejoinAndBinEvents : Obligations.RejoinAndBinEvents := by
  refine ⟨fun s c w x subj hx => ⟨fun tag t0 mode since ready wb back ends_ lane low once wf => ?_,
    fun tag t0 since ready v hv waits held past => ?_⟩, fun s core bin b u subj hb hu young free runs => ?_,
    fun s core bin reason w page b subj due hb place few free => ?_⟩
  · exact ⟨writebackEnd_lands hx back subj ends_, ⟨_, landBack_warp hx back, fun z hz => threadBack_lane wb _ x hz, rfl⟩,
      landBack_words hx back lane low once wf⟩
  · obtain ⟨t, closes, y, hy, run, tags, vacant⟩ := windowClose_ends hx hv waits held subj past
    exact ⟨t, y, closes, hy, by rw [run], by rw [run], tags, vacant⟩
  · have acts := binAged_acts hb subj hu young free runs
    exact ⟨fun old => ⟨_, acts.trans (by rw [if_pos old]), binAged_ages hb⟩, fun early => acts.trans (by rw [if_neg (by omega)])⟩
  · obtain ⟨t, s3, serial, bsize, draws, there⟩ := binDraw_draws subj due hb place free
    refine ⟨t, _, draws, there, rfl, rfl, rfl, rfl, fun i f hf => ?_, fun i past low => ?_⟩
    · have hi : i < b.threads.length := (List.getElem?_eq_some_iff.mp hf).1
      rw [drawnWarp_lane _ _ _ _ _ _ (by omega), hf]
      rfl
    · rw [drawnWarp_lane _ _ _ _ _ _ low, List.getElem?_eq_none past]
      rfl

end Sys2Proof
end

section
/-! Placement of units and compaction (R65, R66, R71, R97, R102): the first half of O45. -/

namespace Sys2Proof
open Machine

/-! ## What a unit is granted -/

theorem l1Acquire_core (s : State) (core scope d : Nat) :
    { coreOf (l1Acquire s core scope) d with l1 := [] } = { coreOf s d with l1 := [] } := by
  have emptied (a : State) (c : Nat) : { coreOf (modCore a c fun k => { k with l1 := [] }) d with l1 := [] } = { coreOf a d with l1 := [] } :=
    coreOf_modCore_field (field := fun k : Core => { k with l1 := [] }) (fun _ => by rfl) d
  unfold l1Acquire
  split
  · rfl
  · split
    · split
      · rfl
      · exact foldl_same (view := fun a => { coreOf a d with l1 := [] }) (f := fun a i => modCore a (core / 24 * 24 + i) fun k => { k with l1 := [] })
          (fun a i => emptied a _) _ s
    · exact emptied s core

section
variable {s t : State} {c : Nat} (units : t.units = s.units) (core : { coreOf t c with l1 := [] } = { coreOf s c with l1 := [] })
include units

theorem residentsOn_congr : residentsOn t c = residentsOn s c := by
  unfold residentsOn unitsOn
  rw [units]

theorem findTiles_congr (n : Nat) : findTiles t c n = findTiles s c n := by
  unfold findTiles
  rw [residentsOn_congr units]

include core

theorem usedPages_congr : usedPages t c = usedPages s c := by
  have moved : movePages (coreOf t c) = movePages (coreOf s c) := (congrArg movePages core :)
  have warps : (coreOf t c).warps = (coreOf s c).warps := (congrArg Core.warps core :)
  unfold usedPages
  rw [residentsOn_congr units, moved, warps]

end

/-- The share of one core. -/
def shareCore (f : Frame) (fuse : Bool) (a : State) (c : Nat) : State :=
  modCore a c fun k => { k with l1 := if k.l1w = f.l1w && !fuse then k.l1 else [], l1w := f.l1w, fused := k.fused || fuse }

theorem setShare_eq (s : State) (f : Frame) (c : Nat) : setShare s f c =
    if (coreOf s c).fused then s
    else if f.flag 2 && residentCount s (clusterOf c) = 0 then (clusterCores (clusterOf c)).foldl (shareCore f true) s
    else if (residentsOn s c).isEmpty then shareCore f false s c
    else s := rfl

theorem shareCore_frame (f : Frame) (fuse : Bool) (a : State) (c : Nat) : { shareCore f fuse a c with cores := [] } = { a with cores := [] } := rfl

theorem setShare_frame (s : State) (f : Frame) (c : Nat) : { setShare s f c with cores := [] } = { s with cores := [] } := by
  rw [setShare_eq]
  split
  · rfl
  · split
    · exact foldl_same (view := fun a : State => { a with cores := [] }) (f := shareCore f true) (fun a d => shareCore_frame f true a d) _ s
    · split
      · exact shareCore_frame f false s c
      · rfl

/-! ## What a unit begins with -/

/-- A unit as it is placed. -/
def placedUnit (x : Launch) (l : Nat) (f : Frame) (core lid tile scr : Nat) : UnitSt :=
  { launch := l, lid := lid, core := core, nthreads := f.threads, left := f.threads
    k := tabSet 0 1 (BitVec.ofNat 64 x.recAddr) (tabSet 0 0 (BitVec.ofNat 64 x.frameAddr) []), kpend := [], om := []
    tileBase := tile, ntiles := f.tiles, scrPage := scr, scrPages := ceilDiv f.scratch 2048, gmap := [], gspill := [], binage := 256
    bars := [], own := [], lcore := if f.flag 0 then lid % f.lcores else 0, contract := if f.contract = 0 then 3 else f.contract
    cancelled := false, kept := [], halted := false, saved := false }

/-- The first threads of warp `i` of a unit of `n`. -/
def firstThreads (n i : Nat) : List Thread := (List.range (Nat.min 32 (n - 32 * i))).map fun j => Thread.first (32 * i + j)

/-- Warp `q.1` of a unit takes its block and its slot. -/
def seatWarp (core u since : Nat) (f : Frame) (x : Launch) (a : State) (q : Nat × Nat × Nat) : State :=
  let (serial, b) := freshNat (clearBlock a core q.2.1 (blockSize f.regs) 32)
  setWarp b core q.2.2 (newWarp b u serial q.2.1 (blockSize f.regs) (forwardPc b x.part (BitVec.ofNat 48 x.code)) (firstThreads f.threads q.1) since)

/-- The unit is in its table, and what its tiles held is gone. -/
def enterUnit (s : State) (core tile tiles : Nat) (unit : UnitSt) : State :=
  modCore { (freshNat s).2 with units := tabPut s.fresh unit (freshNat s).2.units } core fun k =>
    { k with tiles := k.tiles.filter fun (i, _) => !(tile ≤ i && i < tile + tiles) }

/-- The unit with its granules, before its warps. -/
def grantedUnit (s : State) (l : Nat) (x : Launch) (f : Frame) (core lid tile scr : Nat) : State :=
  grantGranules (enterUnit s core tile f.tiles (placedUnit x l f core lid tile scr)) s.fresh (List.range f.accres)

/-- The blocks of the warps of a unit with their slots. -/
def seatsOf (blocks slots : List Nat) : List (Nat × Nat × Nat) := (blocks.zip slots).mapIdx fun i b => (i, b)

/-- The threads of a unit acquire what was released into its record. -/
def acquireRecord (u l n : Nat) (s : State) : State := (List.range n).foldl (fun a t => acquire a u (agThread u t) (obRecord l) false) s

theorem placeUnit_eq {s : State} {l : Nat} {x : Launch} {f : Frame} {core lid since scr tile : Nat} {blocks : List Nat}
    (grant : storeGrant (usedPages (setShare s f core) core) { f with l1w := (coreOf (setShare s f core) core).l1w } = some (scr, blocks))
    (tiles : findTiles (setShare s f core) core f.tiles = some tile) : placeUnit s l x f core lid since =
      let s0 := l1Acquire (setShare s f core) core 4
      modLaunch (acquireRecord s0.fresh l f.threads ((seatsOf blocks (freeSlots s core)).foldl (seatWarp core s0.fresh since f x)
        (grantedUnit s0 l x f core lid tile scr))) l fun y => y.goTo (y.nextUnit + 1) := by
  have units : (l1Acquire (setShare s f core) core 4).units = (setShare s f core).units := (congrArg State.units (l1Acquire_data (setShare s f core) core 4).1 :)
  have same := l1Acquire_core (setShare s f core) core 4 core
  have share : (coreOf (l1Acquire (setShare s f core) core 4) core).l1w = (coreOf (setShare s f core) core).l1w := (congrArg Core.l1w same :)
  unfold placeUnit
  dsimp only
  rw [usedPages_congr units same, share, grant, findTiles_congr units, tiles]
  rfl

theorem grantGranules_unit {s : State} {u : Nat} {x : UnitSt} (hx : unitOf s u = some x) (l : List Nat) :
    ∃ names, unitOf (grantGranules s u l) u = some { x with gmap := names } := by
  have units (l : List (Nat × Nat)) : (l.foldl (fun a p => zeroGranule a x.core p.2) s).units = s.units :=
    foldl_same (view := State.units) (f := fun a (p : Nat × Nat) => zeroGranule a x.core p.2) (fun _ _ => rfl) l s
  unfold grantGranules
  rw [hx]
  dsimp only
  rw [unitOf_modUnit, unitOf, units, ← unitOf, hx]
  exact ⟨_, rfl⟩

theorem grantedUnit_unit (s : State) (l : Nat) (x : Launch) (f : Frame) (core lid tile scr : Nat) :
    ∃ names, unitOf (grantedUnit s l x f core lid tile scr) s.fresh = some { placedUnit x l f core lid tile scr with gmap := names } := by
  refine grantGranules_unit ?_ _
  exact tabGet_put_same ..

theorem grantedUnit_frame (s : State) (l : Nat) (x : Launch) (f : Frame) (core lid tile scr : Nat) :
    { grantedUnit s l x f core lid tile scr with cores := [], units := [], fresh := 0 } = { s with cores := [], units := [], fresh := 0 } :=
  (congrArg (fun a : State => { a with fresh := 0 }) (grantGranules_frame ..) :)

theorem placedUnit_k (x : Launch) (l : Nat) (f : Frame) (core lid tile scr : Nat) :
    tabGetD 0 0 (placedUnit x l f core lid tile scr).k = BitVec.ofNat 64 x.frameAddr ∧
    tabGetD 1 0 (placedUnit x l f core lid tile scr).k = BitVec.ofNat 64 x.recAddr := by
  have rising : Safety.rising (tabSet (0 : DWord) 0 (BitVec.ofNat 64 x.frameAddr) []) 0 := by
    unfold tabSet
    split
    · trivial
    · exact ⟨Nat.le_refl 0, trivial⟩
  exact ⟨(tabGetD_set_other _ _ _ (by decide)).trans (tabGetD_set_same (lo := 0) _ _ _ trivial), tabGetD_set_same _ _ _ rising⟩

/-! ## The warps of a unit -/

section
variable {core u since : Nat} {f : Frame} {x : Launch}

theorem seatWarp_frame (a : State) (q : Nat × Nat × Nat) :
    { seatWarp core u since f x a q with cores := [], fresh := 0 } = { a with cores := [], fresh := 0 } := rfl

/-- A state with a warp that its unit has just begun. -/
def Seated (s : State) (core u since : Nat) (f : Frame) (x : Launch) (q : Nat × Nat × Nat) (t : State) : Prop :=
  ∃ b serial, b.fes = s.fes ∧ warpOf t core q.2.2 = some (newWarp b u serial q.2.1 (blockSize f.regs)
    (forwardPc b x.part (BitVec.ofNat 48 x.code)) (firstThreads f.threads q.1) since)

theorem seatWarp_same {s a : State} (fes : a.fes = s.fes) (q : Nat × Nat × Nat) : Seated s core u since f x q (seatWarp core u since f x a q) := by
  refine ⟨(freshNat (clearBlock a core q.2.1 (blockSize f.regs) 32)).2, (freshNat (clearBlock a core q.2.1 (blockSize f.regs) 32)).1, fes, ?_⟩
  unfold seatWarp setWarp
  dsimp only
  rw [warpOf, coreOf_modCore, tabGet_put_same]

theorem seatWarp_other {a : State} {q : Nat × Nat × Nat} {w : Nat} (other : w ≠ q.2.2) :
    warpOf (seatWarp core u since f x a q) core w = warpOf a core w := by
  unfold seatWarp setWarp
  dsimp only
  rw [warpOf, coreOf_modCore, tabGet_put_other _ _ other]
  have cleared : warpOf (clearBlock a core q.2.1 (blockSize f.regs) 32) core w = warpOf a core w := warpOf_modCore_eq (fun _ => by rfl) core w
  exact cleared

theorem seatWarps_other : ∀ (l : List (Nat × Nat × Nat)) (a : State) (w : Nat), w ∉ l.map (·.2.2) →
    warpOf (l.foldl (seatWarp core u since f x) a) core w = warpOf a core w
  | [], _, _, _ => rfl
  | q :: l, a, w, out => by
    obtain ⟨other, later⟩ := not_or.mp fun either => out (List.mem_cons.mpr either)
    exact (seatWarps_other l _ w later).trans (seatWarp_other other)

theorem seatWarps_seat {s : State} : ∀ (l : List (Nat × Nat × Nat)) {a : State}, a.fes = s.fes → (l.map (·.2.2)).Nodup →
    ∀ q ∈ l, Seated s core u since f x q (l.foldl (seatWarp core u since f x) a)
  | [], _, _, _, _, no => absurd no List.not_mem_nil
  | p :: l, a, fes, once, q, hq => by
    obtain ⟨out, rest⟩ := List.nodup_cons.mp once
    obtain rfl | later := List.mem_cons.mp hq
    · obtain ⟨b, serial, same, there⟩ := seatWarp_same (core := core) (u := u) (since := since) (f := f) (x := x) fes q
      exact ⟨b, serial, same, (seatWarps_other l _ _ out).trans there⟩
    · exact seatWarps_seat l (show (seatWarp core u since f x a p).fes = s.fes from fes) rest q later

end

theorem mem_seatsOf {blocks slots : List Nat} {i page slot : Nat} (hb : blocks[i]? = some page) (hs : slots[i]? = some slot) :
    (i, page, slot) ∈ seatsOf blocks slots := by
  refine List.mem_of_getElem? (i := i) ?_
  rw [seatsOf, List.getElem?_mapIdx, (List.getElem?_zip_eq_some (z := (page, slot))).mpr ⟨hb, hs⟩]
  rfl

theorem zip_snd_sublist {α β : Type} : ∀ (l : List α) (k : List β), ((l.zip k).map (·.2)).Sublist k
  | [], k => List.nil_sublist k
  | _ :: _, [] => List.Sublist.refl []
  | _ :: l, b :: k => (zip_snd_sublist l k).cons_cons b

theorem seatsOf_nodup (blocks : List Nat) {slots : List Nat} (once : slots.Nodup) : ((seatsOf blocks slots).map (·.2.2)).Nodup := by
  have slots_ : (seatsOf blocks slots).map (·.2.2) = (blocks.zip slots).map (·.2) := by
    refine List.ext_getElem? fun i => ?_
    simp only [seatsOf, List.getElem?_map, List.getElem?_mapIdx, Option.map_map]
    rfl
  rw [slots_]
  exact once.sublist (zip_snd_sublist ..)

theorem firstThreads_get {n i j : Nat} (hj : j < 32) (more : 32 * i + j < n) : (firstThreads n i)[j]? = some (Thread.first (32 * i + j)) := by
  have low : j < Nat.min 32 (n - 32 * i) := Nat.lt_min.mpr ⟨hj, by omega⟩
  rw [firstThreads, List.getElem?_map, List.getElem?_range low]
  rfl

/-! ## The placement (R66, R71) -/

theorem butClocks_acquire (s : State) (u agent ob : Nat) (all : Bool) : butClocks s (acquire s u agent ob all) := by
  unfold acquire
  split
  · exact butClocks_refl s
  · dsimp only
    split
    · exact butClocks_trans (butClocks_joinClock ..) (butClocks_joinClock ..)
    · exact butClocks_joinClock ..

theorem acquireRecord_clocks (u l n : Nat) (s : State) : butClocks s (acquireRecord u l n s) :=
  foldl_keeps (P := butClocks s) (fun a t h => butClocks_trans h (butClocks_acquire a u (agThread u t) (obRecord l) false)) _ (butClocks_refl s)

theorem capture_off {s : State} {l : Nat} {x : Launch} (hx : launchOf s l = some x) (capt : x.capt = false) (rply : x.rply = false)
    (kind at_ aux data : Nat) : capture s l kind at_ aux data = s := by
  unfold capture
  rw [hx]
  dsimp only
  rw [rply, capt]
  rfl

theorem goTo_capt (x : Launch) (k : Nat) : (x.goTo k).capt = x.capt ∧ (x.goTo k).rply = x.rply := by
  unfold Launch.goTo
  split <;> exact ⟨rfl, rfl⟩

theorem feOf_modFe (s : State) (p : Nat) (f : FrontEnd → FrontEnd) : feOf (modFe s p f) p = f (feOf s p) := by
  rw [feOf, modFe, tabGetD, tabGet_put_same]
  rfl

theorem forwardPc_congr {s t : State} (h : t.fes = s.fes) (part : Nat) (a : Pc) : forwardPc t part a = forwardPc s part a := by
  unfold forwardPc forward feOf
  rw [h]

section
variable {s : State} {part l c lid scr tile : Nat} {x : Launch} {f : Frame} {blocks : List Nat} (hx : launchOf s l = some x)
  (grant : storeGrant (usedPages (setShare s f c) c) { f with l1w := (coreOf (setShare s f c) c).l1w } = some (scr, blocks))
  (tiles : findTiles (setShare s f c) c f.tiles = some tile)
include grant tiles

/-- A unit that is placed is in its table, and its warps are in their slots. -/
theorem placeUnit_places (since : Nat) (once : (freeSlots s c).Nodup) : ∃ u names t,
    placeUnit s l x f c lid since = modLaunch t l (fun y => y.goTo (y.nextUnit + 1)) ∧ t.launches = s.launches ∧
    unitOf t u = some { placedUnit x l f c lid tile scr with gmap := names } ∧
    ∀ q ∈ seatsOf blocks (freeSlots s c), Seated s c u since f x q t := by
  have shared := setShare_frame s f c
  have acquired := (l1Acquire_data (setShare s f c) c 4).1
  have placed := placeUnit_eq (l := l) (x := x) (lid := lid) (since := since) grant tiles
  generalize setShare s f c = a at placed shared acquired
  generalize l1Acquire a c 4 = s0 at placed acquired
  dsimp only at placed
  obtain ⟨names, entered⟩ := grantedUnit_unit s0 l x f c lid tile scr
  have granted := grantedUnit_frame s0 l x f c lid tile scr
  generalize grantedUnit s0 l x f c lid tile scr = g at placed entered granted
  have same : { g with cores := [], units := [], fresh := 0 } = { s with cores := [], units := [], fresh := 0 } :=
    granted.trans ((congrArg (fun b : State => { b with cores := [], units := [], fresh := 0 }) acquired :).trans
      (congrArg (fun b : State => { b with units := [], fresh := 0 }) shared :))
  have seats := seatWarps_seat (s := s) (core := c) (u := s0.fresh) (since := since) (f := f) (x := x) (seatsOf blocks (freeSlots s c)) (a := g)
    (congrArg State.fes same :) (seatsOf_nodup blocks once)
  have seated := foldl_same (view := fun b : State => { b with cores := [], fresh := 0 }) (f := seatWarp c s0.fresh since f x)
    (fun b q => seatWarp_frame b q) (seatsOf blocks (freeSlots s c)) g
  generalize (seatsOf blocks (freeSlots s c)).foldl (seatWarp c s0.fresh since f x) g = w at placed seats seated
  obtain ⟨clocks, acquires⟩ := acquireRecord_clocks s0.fresh l f.threads w
  rw [acquires] at placed
  refine ⟨s0.fresh, names, _, placed, (congrArg State.launches seated :).trans (congrArg State.launches same :), ?_, seats⟩
  exact (congrArg (tabGet s0.fresh) (congrArg State.units seated :) :).trans entered

include hx

theorem unitPlace_places (subj : s.subj = .of [part]) (due : placeDue s part = some (.place l c lid)) (frame : x.frame = some f)
    (capt : x.capt = false) (rply : x.rply = false) (once : (freeSlots s c).Nodup) : ∃ t u names,
    exec .unitPlace s = .next t ∧ unitOf t u = some { placedUnit x l f c lid tile scr with gmap := names } ∧ (feOf t part).nextPlace = s.now + 4 ∧
    ∀ q ∈ seatsOf blocks (freeSlots s c), Seated s c u (firstIssue s x f) f x q t := by
  obtain ⟨u, names, t, placed, launches, entered, seats⟩ := placeUnit_places (l := l) (x := x) (lid := lid) grant tiles (firstIssue s x f) once
  have there : launchOf (modLaunch t l fun y => y.goTo (y.nextUnit + 1)) l = some (x.goTo (x.nextUnit + 1)) := by
    rw [launchOf_modLaunch, launchOf, launches, ← launchOf, hx]
    rfl
  have acts : ∃ e, exec .unitPlace s = .next (modFe (modLaunch t l fun y => y.goTo (y.nextUnit + 1)) part e) ∧ ∀ y, (e y).nextPlace = s.now + 4 := by
    have off := capture_off there ((goTo_capt ..).1.trans capt) ((goTo_capt ..).2.trans rply) 0x02 c 0 lid
    show ∃ e, execUnitPlace s = _ ∧ _
    rw [execUnitPlace, subj]
    dsimp only
    rw [due]
    dsimp only
    unfold placeNow
    dsimp only
    rw [hx]
    dsimp only
    rw [frame]
    dsimp only
    rw [placed, off]
    exact ⟨_, rfl, fun _ => rfl⟩
  obtain ⟨e, acts, next⟩ := acts
  exact ⟨_, u, names, acts, entered, (congrArg FrontEnd.nextPlace (feOf_modFe ..)).trans (next _), seats⟩

end

/-! ## Compaction (R102) -/

section
variable {s : State} {core : Nat} {k : Compact} (subj : s.subj = .of [core]) (hk : (coreOf s core).compact = some k)
include subj

theorem compactionMove_acts (a : CompactAct) (due : compactAct s core = some a) : exec .compactionMove s = .next (doCompact s core a) := by
  show execCompactionMove s = _
  rw [execCompactionMove, subj]
  dsimp only
  rw [due]

theorem compactionMove_waits (due : compactAct s core = none) : exec .compactionMove s = .next s := by
  show execCompactionMove s = _
  rw [execCompactionMove, subj]
  dsimp only
  rw [due]

include hk

theorem compaction_copies {w p n : Nat} (due : compactAct s core = some (.copy w p n)) : ∃ t, exec .compactionMove s = .next t ∧
    (coreOf t core).compact = some { k with move := some (w, p, s.now + (if k.moves = 0 then 24 else 0) + 16 * n) } ∧
    t.agenda = s.agenda ++ [⟨s.now + (if k.moves = 0 then 24 else 0) + 16 * n, .compactionMoveEnd, .of [core]⟩] := by
  have copies := compactionMove_acts subj _ due
  unfold doCompact at copies
  rw [hk] at copies
  dsimp only [Option.map_some, Option.getD_some] at copies
  generalize s.now + (if k.moves = 0 then 24 else 0) + 16 * n = ends_ at copies ⊢
  have moving : (coreOf (modCore s core fun k => { k with compact := k.compact.map fun c => { c with move := some (w, p, ends_) } }) core).compact =
      some { k with move := some (w, p, ends_) } := by
    rw [coreOf_modCore, hk]
    rfl
  exact ⟨_, copies, moving, rfl⟩

/-- A move ends (R102 step 4). -/
theorem compaction_moves {w p e : Nat} {x : Warp} (moves : k.move = some (w, p, e)) (some_ : e ≠ 0) (past : e ≤ s.now) (hx : warpOf s core w = some x)
    (wf : (coreOf s core).store.wf = true) : ∃ t y, exec .compactionMoveEnd s = .next t ∧ warpOf t core w = some y ∧ y.page = p ∧ y.pc = x.pc ∧
      y.lanes = x.lanes ∧
      ∀ i < 128 * x.bsize, (coreOf t core).store.get (2048 * p + i) = (coreOf s core).store.get (2048 * x.page + i) := by
  generalize hc : modCore s core (fun c => { c with compact := some { k with moves := k.moves + 1, move := none } }) = c
  have cores : coreOf c core = { coreOf s core with compact := some { k with moves := k.moves + 1, move := none } } := by
    rw [← hc, coreOf_modCore]
  have acts : exec .compactionMoveEnd s = .next (modWarp (modCore c core fun q => copyBlock q (2048 * x.page) (2048 * p) (128 * x.bsize)) core w fun y =>
      { y with page := p, run := { y.run with pend := y.run.pend.map (moveStack (2048 * x.page) (2048 * p) (128 * x.bsize)) } }) := by
    show execCompactionMoveEnd s = _
    rw [execCompactionMoveEnd, subj]
    dsimp only
    rw [endMove, hk]
    dsimp only
    rw [moves]
    dsimp only
    rw [decide_eq_false some_, decide_eq_false (Nat.not_lt.mpr past), if_neg (by decide), hx]
    dsimp only
    rw [hc]
  have there : warpOf (modCore c core fun q => copyBlock q (2048 * x.page) (2048 * p) (128 * x.bsize)) core w = some x := by
    refine (warpOf_modCore_eq (fun _ => by rfl) core w).trans ?_
    rw [warpOf, cores]
    exact hx
  refine ⟨_, _, acts, (warpOf_modWarp ..).trans (congrArg _ there), rfl, rfl, rfl, fun i hi => ?_⟩
  have read := read_length (coreOf s core).store (2048 * x.page) (128 * x.bsize)
  rw [coreOf_modWarp_field (field := Core.store) fun _ _ => rfl, coreOf_modCore, cores]
  refine (get_write _ _ i (clear_wf _ _ wf) (by rw [read]; exact hi)).trans ?_
  exact (List.getElem_eq_iff _).mpr (read_get _ _ _ i hi)

end

end Sys2Proof
end

section
/-! JOIN of a parent, the fatal stop and the end of a faulted launch (R63, R378, R447): the second half of O45. -/

namespace Sys2Proof
open Machine

/-! ## JOIN of a parent (R63) -/

/-- What every write and every release broken keeps, a write through the page table keeps. -/
theorem vwrite_keeps {P : State → Prop} (writes : ∀ a g p l, P a → P (writeAs a g p l)) (breaks : ∀ a p n, P a → P (breakRelease a p n))
    {s t : State} {gen va : Nat} {bytes : List Byte} (hs : P s) (h : vwrite s gen va bytes = .ok t) : P t := by
  unfold vwrite at h
  dsimp only at h
  generalize hr : List.foldl _ _ (pageCuts va bytes.length) = r at h
  have kept : ∀ x, r = .ok x → P x.1 := by
    rw [← hr]
    refine foldl_keeps (P := fun acc : Except (Nat × Nat) (State × List Byte) => ∀ x, acc = .ok x → P x.1)
      (fun acc c kept x made => ?_) _ fun x made => by cases made; exact hs
    split at made
    · cases made
    · next t l =>
      split at made
      · cases made
      · next p _ =>
        cases made
        exact breaks _ _ _ (writes _ _ _ _ (kept _ rfl))
  cases r with
  | error e => cases h
  | ok x =>
    cases h
    exact kept x rfl

theorem launches_writePlace (s : State) (p : Place) (l : List Byte) : (writePlace s p l).launches = s.launches := by
  have bytes : ((l.mapIdx fun i b => (i, b)).foldl (fun a x => writeByte a (p.plus x.1) x.2) s).launches = s.launches :=
    foldl_same (view := State.launches) (f := fun a (x : Nat × Byte) => writeByte a (p.plus x.1) x.2) (fun a x => by cases p <;> rfl) _ s
  unfold writePlace
  dsimp only
  split
  · split
    · exact bytes
    · exact bytes
  · exact bytes

theorem launches_vput (s : State) (gen va n v : Nat) : (vput s gen va n v).launches = s.launches := by
  unfold vput
  split
  · next wrote =>
    refine vwrite_keeps (P := fun a => a.launches = s.launches) (fun a g p l h => (launches_writePlace ..).trans h) (fun a p n h => ?_) rfl wrote
    unfold breakRelease
    split
    · split <;> exact h
    · exact h
  · rfl

/-- The launches and memories of a state. -/
def launchesAndMemories (s : State) : Tab Launch × Memory × Tab Memory × Tab Memory := (s.launches, s.mem, s.hostMem, s.remoteMem)

theorem launchesAndMemories_joinObject (s : State) (dst src : Nat) : launchesAndMemories (joinObject s dst src) = launchesAndMemories s := by
  obtain ⟨cl, same⟩ := butClocks_joinClock s (2 * dst) (2 * src)
  rw [joinObject, same]
  rfl

theorem launchesAndMemories_recordRelease (s : State) (by_ : Party) (p : Place) (n scope : Nat) :
    launchesAndMemories (recordRelease s by_ p n scope) = launchesAndMemories s := by
  cases p <;> rfl

section
variable {s : State} {l : Nat} {x : Launch} (hx : launchOf s l = some x) (ended : x.status ≠ 0)
include hx ended

theorem parentJoin_alone (alone : x.parent = 0 ∨ x.status = 3) : parentJoin s l = { s with launches := tabDel l s.launches } := by
  unfold parentJoin
  rw [hx]
  dsimp only
  rw [if_neg ended, if_pos (by simpa using alone)]

theorem parentJoin_zero (none_ : vnat s x.gen (x.parent + 16) 4 = none ∨ vnat s x.gen (x.parent + 16) 4 = some 0) :
    parentJoin s l = { s with launches := tabDel l s.launches } := by
  unfold parentJoin
  rw [hx]
  dsimp only
  rw [if_neg ended]
  split
  · rfl
  · obtain no | no := none_
    · rw [no]
    · rw [no]
      rfl

theorem parentJoin_lowers {n : Nat} (parent : x.parent ≠ 0) (fine : x.status ≠ 3) (reads : vnat s x.gen (x.parent + 16) 4 = some n) (some_ : n ≠ 0) :
    launchesAndMemories (parentJoin s l) =
      launchesAndMemories (vput { s with launches := tabDel l s.launches } x.gen (x.parent + 16) 4 (n - 1)) := by
  unfold parentJoin
  rw [hx]
  dsimp only
  rw [if_neg ended, if_neg (by simpa using ⟨parent, fine⟩), reads]
  dsimp only
  rw [if_neg some_]
  generalize vput _ x.gen (x.parent + 16) 4 (n - 1) = w
  have joined := foldl_same (view := launchesAndMemories) (f := fun a p => joinObject a (obRecord p) (obCount x.fn x.handle))
    (fun a p => launchesAndMemories_joinObject a _ _) (recordsAt w x.gen (x.parent + 16)) w
  split
  · exact (launchesAndMemories_recordRelease ..).trans joined
  · exact joined

theorem joinDecrement_lowers (subj : s.subj = .of [l]) : ∃ t, exec .joinDecrement s = .next t ∧ t.launches = tabDel l s.launches ∧
    (x.parent = 0 ∨ x.status = 3 → t.mem = s.mem) ∧
    ∀ n, x.parent ≠ 0 → x.status ≠ 3 → vnat s x.gen (x.parent + 16) 4 = some n → n ≠ 0 →
      let w := vput { s with launches := tabDel l s.launches } x.gen (x.parent + 16) 4 (n - 1)
      t.mem = w.mem ∧ t.hostMem = w.hostMem ∧ t.remoteMem = w.remoteMem := by
  have acts : exec .joinDecrement s = .next (parentJoin s l) := by
    show execJoinDecrement s = _
    rw [execJoinDecrement, subj]
  refine ⟨_, acts, ?_, fun alone => by rw [parentJoin_alone hx ended alone], fun n parent fine reads some_ => ?_⟩
  · by_cases alone : x.parent = 0 ∨ x.status = 3
    · rw [parentJoin_alone hx ended alone]
    · obtain ⟨parent, fine⟩ := not_or.mp alone
      cases reads : vnat s x.gen (x.parent + 16) 4 with
      | none => rw [parentJoin_zero hx ended (.inl reads)]
      | some n =>
        by_cases zero : n = 0
        · rw [parentJoin_zero hx ended (.inr (zero ▸ reads))]
        · exact (congrArg (·.1) (parentJoin_lowers hx ended parent fine reads zero) :).trans (launches_vput ..)
  · have same := parentJoin_lowers hx ended parent fine reads some_
    exact ⟨(congrArg (·.2.1) same :), (congrArg (·.2.2.1) same :), (congrArg (·.2.2.2) same :)⟩

end

/-! ## The fatal stop (R378, R447) -/

/-- A group, where it is, has stopped. -/
def Halted (s : State) (g : Gid) : Prop := ∀ v, view s g = some v → v.run.status = .stopped

theorem view_of_onlyGroup {s t : State} {g h : Gid} (only : Safety.onlyGroup s t g) (other : h ≠ g) : view t h = view s h := by
  cases g with
  | warp c w =>
    obtain ⟨frame, cores, -, warps⟩ := only
    cases h with
    | warp d k =>
      have same : warpOf t d k = warpOf s d k := by
        by_cases hd : d = c
        · rw [hd]
          exact warps k fun no => other (by rw [hd, no])
        · rw [warpOf, cores d hd, warpOf]
      rw [view_warp_eq, view_warp_eq, same]
    | kindle cl k =>
      have pools : t.pools = s.pools := (congrArg State.pools frame :)
      rw [view_kindle_eq, view_kindle_eq, ejOf, poolOf, pools, ← poolOf, ← ejOf]
  | kindle cl k =>
    obtain ⟨frame, pools, -, slots⟩ := only
    cases h with
    | warp d w =>
      have cores : t.cores = s.cores := (congrArg State.cores frame :)
      rw [view_warp_eq, view_warp_eq, warpOf, coreOf, cores, ← coreOf, ← warpOf]
    | kindle d j =>
      have same : ejOf t d j = ejOf s d j := by
        by_cases hd : d = cl
        · rw [hd]
          exact slots j fun no => other (by rw [hd, no])
        · rw [ejOf, pools d hd, ejOf]
      rw [view_kindle_eq, view_kindle_eq, same]

/-- The record of a warp after what lands of a write-back. -/
def beforeStop (s : State) : Gid → State
  | .warp c w => landBack s c w
  | .kindle .. => s

theorem stopGroup_eq (s : State) (g : Gid) : stopGroup s g = match view (beforeStop s g) g with
    | some v => setStatus (setPc (beforeStop s g) g (nextPc v.pc v.run.status)) g .stopped
    | none => beforeStop s g := by
  cases g <;> rfl

theorem stopGroup_halts (s : State) (g : Gid) : Halted (stopGroup s g) g := by
  intro v hv
  rw [stopGroup_eq] at hv
  generalize beforeStop s g = b at hv
  split at hv
  · next u hu =>
    unfold setStatus at hv
    rw [view_modRun, view_setPc, hu] at hv
    cases hv
    rfl
  · next no =>
    rw [no] at hv
    cases hv

theorem landBack_other {s : State} {c w : Nat} {h : Gid} (other : h ≠ .warp c w) : view (landBack s c w) h = view s h := by
  unfold landBack
  split
  · rfl
  · next x _ =>
    split
    · next wb _ =>
      refine (view_of_onlyGroup (onlyGroup_modWarp ..) other).trans ?_
      refine foldl_same (view := fun a => view a h) (f := backRegister c x.page wb.lane x.bsize wb.poison) (fun a p => ?_) wb.regs s
      unfold backRegister
      split
      · exact view_modCore (fun _ => by rfl) ..
      · rfl
    · rfl

theorem stopGroup_other {s : State} {g h : Gid} (other : h ≠ g) : view (stopGroup s g) h = view s h := by
  have landed : view (beforeStop s g) h = view s h := by
    cases g with
    | warp c w => exact landBack_other other
    | kindle cl k => rfl
  rw [stopGroup_eq]
  split
  · exact (view_of_onlyGroup (onlyGroup_modRun ..) other).trans ((view_of_onlyGroup (onlyGroup_setPc ..) other).trans landed)
  · exact landed

theorem stopGroup_keeps {s : State} {h : Gid} (halted : Halted s h) (g : Gid) : Halted (stopGroup s g) h := by
  by_cases same : h = g
  · rw [same]
    exact stopGroup_halts s g
  · intro v hv
    exact halted v ((stopGroup_other same).symm.trans hv)

theorem stopGroups_halt {g : Gid} : ∀ (l : List Gid) (s : State), g ∈ l → Halted (l.foldl stopGroup s) g
  | [], _, no => absurd no List.not_mem_nil
  | h :: l, s, hg => by
    obtain rfl | later := List.mem_cons.mp hg
    · exact foldl_keeps (P := fun a => Halted a g) (fun a h halted => stopGroup_keeps halted h) l (stopGroup_halts s g)
    · exact stopGroups_halt l _ later

theorem groupless_landBack (s : State) (c w : Nat) : groupless (landBack s c w) = groupless s := by
  unfold landBack
  split
  · rfl
  · next x _ =>
    split
    · next wb _ =>
      refine (groupless_modWarp ..).trans ?_
      refine foldl_same (view := groupless) (f := backRegister c x.page wb.lane x.bsize wb.poison) (fun a p => ?_) wb.regs s
      unfold backRegister
      split <;> rfl
    · rfl

theorem groupless_stopGroup (s : State) (g : Gid) : groupless (stopGroup s g) = groupless s := by
  have landed : groupless (beforeStop s g) = groupless s := by
    cases g with
    | warp c w => exact groupless_landBack s c w
    | kindle cl k => rfl
  rw [stopGroup_eq]
  split
  · exact (groupless_modRun ..).trans ((groupless_setPc ..).trans landed)
  · exact landed

theorem Halted.congr {s t : State} {h : Gid} (halted : Halted s h) (same : statusOf t h = statusOf s h) : Halted t h := by
  intro v hv
  have status : statusOf s h = some v.run.status := by rw [← same, statusOf, hv]; rfl
  obtain ⟨u, hu, eq⟩ := Option.map_eq_some_iff.mp status
  exact eq ▸ halted u hu

/-- A slot that returns leaves the status of every group. -/
theorem statusOf_slotSub (s : State) (g h : Gid) (i : Nat) : statusOf (slotSub s g i) h = statusOf s h := by
  by_cases here : h = g
  · rw [here, statusOf, slotSub, view_modRun, Option.map_map]
    rfl
  · rw [statusOf, slotSub, view_of_onlyGroup (onlyGroup_modRun ..) here]
    rfl

theorem launches_slotSub (s : State) (g : Gid) (i : Nat) : (slotSub s g i).launches = s.launches := (congrArg State.launches (groupless_modRun ..) :)

/-- A command without its place in the queue of its engine. -/
def removeCmd (s : State) (e : Nat × Cmd) (queued : Bool) : State :=
  let s1 := if queued then dequeue s e.1 e.2 none else s
  { s1 with cmds := tabDel e.1 s1.cmds }

theorem stopCmd_eq (s : State) (e : Nat × Cmd) : stopCmd s e =
    let queued := e.2.phase = 0 || e.2.phase = 6
    if !(queued || e.2.phase = 5) then modCmd s e.1 fun x => { x with noEvents := true }
    else match cmdOwner (removeCmd s e queued) e.2 with
      | none => removeCmd s e queued
      | some v =>
        match e.2.follow with
        | some n => slotSub (slotSub (removeCmd s e queued) v.gid e.2.slot) v.gid n
        | none => slotSub (removeCmd s e queued) v.gid e.2.slot := rfl

theorem removeCmd_keeps (s : State) (e : Nat × Cmd) (queued : Bool) (h : Gid) :
    statusOf (removeCmd s e queued) h = statusOf s h ∧ (removeCmd s e queued).launches = s.launches := by
  have seen : view (removeCmd s e queued) h = view s h := by
    cases queued <;> exact view_congr rfl rfl h
  refine ⟨by rw [statusOf, seen, statusOf], ?_⟩
  cases queued <;> rfl

theorem stopCmd_keeps (s : State) (e : Nat × Cmd) (h : Gid) : statusOf (stopCmd s e) h = statusOf s h ∧ (stopCmd s e).launches = s.launches := by
  rw [stopCmd_eq]
  dsimp only
  split
  · exact ⟨rfl, rfl⟩
  · generalize (decide (e.2.phase = 0) || decide (e.2.phase = 6)) = queued
    obtain ⟨status, launches⟩ := removeCmd_keeps s e queued h
    split
    · exact ⟨status, launches⟩
    · split
      · exact ⟨(statusOf_slotSub ..).trans ((statusOf_slotSub ..).trans status),
          (launches_slotSub ..).trans ((launches_slotSub ..).trans launches)⟩
      · exact ⟨(statusOf_slotSub ..).trans status, (launches_slotSub ..).trans launches⟩

/-! ## Tables in order -/

theorem tabGet_of_mem {α : Type} {k : Nat} {x : α} : ∀ {t : Tab α} {lo : Nat}, Safety.rising t lo → (k, x) ∈ t → tabGet k t = some x ∧ lo ≤ k
  | [], _, _, no => absurd no List.not_mem_nil
  | (j, y) :: t, lo, rising, there => by
    obtain ⟨low, rest⟩ := rising
    obtain same | later := List.mem_cons.mp there
    · cases same
      exact ⟨by rw [tabGet, if_pos rfl], low⟩
    · obtain ⟨found, above⟩ := tabGet_of_mem rest later
      exact ⟨by rw [tabGet, if_neg (by omega)]; exact found, by omega⟩

theorem mem_of_tabGet {α : Type} {k : Nat} {x : α} : ∀ {t : Tab α}, tabGet k t = some x → (k, x) ∈ t
  | [], no => by cases no
  | (j, y) :: t, found => by
    rw [tabGet] at found
    split at found
    · next same =>
      cases found
      exact same ▸ List.mem_cons_self
    · exact List.mem_cons_of_mem _ (mem_of_tabGet found)

theorem mem_launchUnits {s : State} {l u : Nat} : u ∈ launchUnits s l ↔ ∃ y, (u, y) ∈ s.units ∧ y.launch = l := by
  simp [launchUnits]

section
variable {s : State} {l : Nat} {x : Launch} {f : FatalHalt} (subj : s.subj = .of [l]) (hx : launchOf s l = some x) (hf : x.fatal = some f)
include subj hx hf

theorem fatalStop_stops (fresh : f.stopped = false) (past : f.cycle + 16 ≤ s.now)
    (running : ∀ u y, unitOf s u = some y → y.launch = l → y.halted = false) (rising : Safety.rising s.units 0) : ∃ t y,
      exec .fatalStop s = .next t ∧ launchOf t l = some y ∧ y.fatal = some { f with stopped := true } ∧ ∀ g ∈ launchGroups s l, Halted t g := by
  have due : stopDue s l = true := by
    have free : ((launchUnits s l).any fun u => (unitOf s u).any (·.halted)) = false := by
      refine List.any_eq_false.mpr fun u hu => ?_
      obtain ⟨y, there, own⟩ := mem_launchUnits.mp hu
      have hy : unitOf s u = some y := (tabGet_of_mem rising there).1
      rw [hy, Option.any_some, running u y hy own]
      exact Bool.false_ne_true
    unfold stopDue
    rw [hx, Option.bind_some, hf]
    dsimp only
    rw [fresh, decide_eq_true past, free]
    rfl
  have acts : exec .fatalStop s = .next (stopLaunch s l) := by
    show execFatalStop s = _
    rw [execFatalStop, subj]
    dsimp only
    rw [due, if_pos rfl]
  generalize hm : modLaunch s l (fun x => { x with fatal := x.fatal.map fun f => { f with stopped := true } }) = m
  have groups : launchGroups m l = launchGroups s l := by rw [← hm]; rfl
  have there : launchOf m l = some { x with fatal := some { f with stopped := true } } := by
    rw [← hm, launchOf_modLaunch, hx, Option.map_some, hf]
    rfl
  have stopped := foldl_same (view := groupless) (f := stopGroup) groupless_stopGroup (launchGroups m l) m
  have halts (g : Gid) (hg : g ∈ launchGroups s l) : Halted ((launchGroups m l).foldl stopGroup m) g := stopGroups_halt _ m (groups ▸ hg)
  generalize hb : (launchGroups m l).foldl stopGroup m = b at stopped halts
  have ends_ : stopLaunch s l = (b.cmds.filter fun (_, c) => c.launch = l && c.pkt.isNone).foldl stopCmd b := by
    rw [← hb, ← hm]
    rfl
  have launches : (stopLaunch s l).launches = m.launches := by
    rw [ends_]
    exact (foldl_same (view := State.launches) (f := stopCmd) (fun a e => (stopCmd_keeps a e (.warp 0 0)).2) _ b).trans
      (congrArg State.launches stopped :)
  refine ⟨_, _, acts, (launchOf_congr launches l).trans there, rfl, fun g hg => ?_⟩
  rw [ends_]
  exact (halts g hg).congr (foldl_same (view := fun a => statusOf a g) (f := stopCmd) (fun a e => (stopCmd_keeps a e g).1) _ b)

end

/-! ## The end of a launch (R54, R378) -/

/-- The status of a launch. -/
def endOf (s : State) (l : Nat) : Option Nat := (launchOf s l).map (·.status)

theorem endOf_besideMemory {s t : State} (h : besideMemory t = besideMemory s) (l : Nat) : endOf t l = endOf s l := by
  have launches : (launchOf t l).map raceless = (launchOf s l).map raceless := by
    rw [← launchOf_aside, ← launchOf_aside]
    exact (congrArg (fun a => launchOf a l) h :)
  have status := congrArg (Option.map Launch.status) launches
  rw [Option.map_map, Option.map_map] at status
  exact status

theorem endOf_congr {s t : State} (h : t.launches = s.launches) (l : Nat) : endOf t l = endOf s l := by
  rw [endOf, launchOf_congr h, endOf]

theorem endOf_modLaunch {f : Launch → Launch} (same : ∀ y, (f y).status = y.status) (s : State) (k l : Nat) :
    endOf (modLaunch s k f) l = endOf s l := by
  by_cases here : l = k
  · rw [here, endOf, launchOf_modLaunch, Option.map_map, endOf]
    exact congrArg (fun g => (launchOf s k).map g) (funext same)
  · rw [endOf, launchOf_modLaunch_other _ _ here, endOf]

theorem endOf_joinObject (s : State) (dst src l : Nat) : endOf (joinObject s dst src) l = endOf s l :=
  endOf_congr (congrArg (·.1) (launchesAndMemories_joinObject s dst src) :) l

theorem endOf_haltLaunch (s : State) (k core wslot lane : Nat) (a : Trap) (b : Option Trap) (l : Nat) :
    endOf (haltLaunch s k core wslot lane a b) l = endOf s l := by
  unfold haltLaunch
  split
  · exact endOf_modLaunch (fun _ => by rfl) ..
  · exact (endOf_congr (s := modLaunch s k _) rfl l).trans (endOf_modLaunch (fun _ => by rfl) ..)

theorem endOf_capture (s : State) (k kind where_ aux data l : Nat) : endOf (capture s k kind where_ aux data) l = endOf s l := by
  unfold capture
  split
  · rfl
  · split
    · split
      · exact endOf_modLaunch (fun _ => by rfl) ..
      · unfold replayMismatch
        split
        · rfl
        · exact endOf_haltLaunch ..
    · split
      · rfl
      · generalize captureEntry s _ kind where_ aux data = entry
        unfold appendEntry
        dsimp only
        split
        · next wrote => exact (endOf_modLaunch (fun _ => by rfl) ..).trans (endOf_besideMemory (besideMemory_vwrite wrote) l)
        · exact endOf_modLaunch (fun _ => by rfl) ..

/-- The launches and units of a state. -/
def launchesAndUnits (s : State) : Tab Launch × Tab UnitSt := (s.launches, s.units)

theorem launchesAndUnits_joinObject (s : State) (dst src : Nat) : launchesAndUnits (joinObject s dst src) = launchesAndUnits s := by
  obtain ⟨cl, same⟩ := butClocks_joinClock s (2 * dst) (2 * src)
  rw [joinObject, same]
  rfl

theorem launchesAndUnits_memberDone : ∀ (fuel : Nat) (s : State) (fn : Nat) (h : Word) (status : Nat),
    launchesAndUnits (memberDone fuel s fn h status) = launchesAndUnits s
  | 0, _, _, _, _ => rfl
  | k + 1, s, fn, h, status => by
    unfold memberDone
    dsimp only
    split
    · rfl
    · next i _ =>
      split
      · generalize hs2 : rememberEnd _ fn h (if i.status = 0 then 1 else i.status) = s2
        have same : launchesAndUnits s2 = launchesAndUnits s := by rw [← hs2]; rfl
        have scheduled : launchesAndUnits (if handleLevel h = 2 then schedule s2 s2.now .packetComplete (.of [fn, handleQueue h, handleInst h % 2 ^ 25]) else s2) =
            launchesAndUnits s := by
          split <;> exact same
        split
        · exact scheduled
        · exact (launchesAndUnits_memberDone k ..).trans ((launchesAndUnits_joinObject ..).trans scheduled)
      · rfl

/-- A launch at its end, before its instances are told. -/
def endedLaunch (s : State) (l status : Nat) (x : Launch) : State :=
  let s2 := modLaunch (capture s l 0x0B 0 0 status) l fun y => { y with status := status }
  let s3 := modFe s2 x.part fun f =>
    { f with rings := tabMod x.hq (fun (t, used) => (t, used.filter (· != x.ringIdx))) f.rings
             hsets := f.hsets.filter (· != x.hset) }
  let s4 := match x.pkt with
    | some i => schedule s3 s3.now .packetComplete (.of [x.fn, x.queue, i])
    | none => s3
  schedule s4 s4.now .joinDecrement (.of [l])

theorem launchDone_eq {s : State} {l status : Nat} {x : Launch} (hx : launchOf s l = some x) (runs : x.status = 0) : launchDone s l status =
    let s5 := endedLaunch s l status x
    let s6 := if x.races ≤ 64 then s5
      else postReport s5 x.fn 2 x.gen x.handle.toNat 0 0 (List.replicate 48 0 ++ bytesOf 4 x.races ++ bytesOf 4 0)
    memberDone 4 (joinObject (rememberEnd s6 x.fn x.handle status) (obCount x.fn x.owner) (obCount x.fn x.handle)) x.fn x.owner status := by
  unfold launchDone
  rw [hx]
  dsimp only
  rw [if_neg (by rw [runs]; decide)]
  rfl

theorem endedLaunch_keeps (s : State) (l status : Nat) (x : Launch) :
    launchesAndUnits (endedLaunch s l status x) =
      launchesAndUnits (modLaunch (capture s l 0x0B 0 0 status) l fun y => { y with status := status }) := by
  unfold endedLaunch
  dsimp only
  split <;> rfl

/-- What a launch that ends leaves: its status, the status of the others, and every unit. -/
theorem launchDone_ends {s : State} {l status : Nat} {x : Launch} (hx : launchOf s l = some x) (runs : x.status = 0) (m : Nat) :
    endOf (launchDone s l status) m = (if m = l then some status else endOf s m) ∧ (launchDone s l status).units = s.units := by
  have ended := endedLaunch_keeps s l status x
  have status_ : endOf (endedLaunch s l status x) m = if m = l then some status else endOf s m := by
    have launches : (endedLaunch s l status x).launches = _ := (congrArg (·.1) ended :)
    refine (endOf_congr launches m).trans ?_
    split
    · next here =>
      rw [here, endOf, launchOf_modLaunch, Option.map_map]
      have there : (endOf (capture s l 0x0B 0 0 status) l).isSome := by rw [endOf_capture, endOf, hx]; rfl
      obtain ⟨y, hy⟩ := Option.isSome_iff_exists.mp ((Option.isSome_map ..).symm.trans there)
      rw [hy]
      rfl
    · next other =>
      rw [endOf, launchOf_modLaunch_other _ _ other]
      exact endOf_capture ..
  have units : (endedLaunch s l status x).units = s.units := ((congrArg (·.2) ended :)).trans (tasksOf_units (tasksOf_capture ..))
  rw [launchDone_eq hx runs]
  generalize endedLaunch s l status x = s5 at status_ units
  have reported : endOf (if x.races ≤ 64 then s5
      else postReport s5 x.fn 2 x.gen x.handle.toNat 0 0 (List.replicate 48 0 ++ bytesOf 4 x.races ++ bytesOf 4 0)) m = endOf s5 m ∧
      (if x.races ≤ 64 then s5
      else postReport s5 x.fn 2 x.gen x.handle.toNat 0 0 (List.replicate 48 0 ++ bytesOf 4 x.races ++ bytesOf 4 0)).units = s5.units := by
    split
    · exact ⟨rfl, rfl⟩
    · exact ⟨endOf_besideMemory (besideMemory_of_aside (aside_postReport ..)) m, (congrArg State.units (aside_postReport ..) :)⟩
  dsimp only
  generalize (if x.races ≤ 64 then s5
      else postReport s5 x.fn 2 x.gen x.handle.toNat 0 0 (List.replicate 48 0 ++ bytesOf 4 x.races ++ bytesOf 4 0)) = s6 at reported
  have told : launchesAndUnits (memberDone 4 (joinObject (rememberEnd s6 x.fn x.handle status) (obCount x.fn x.owner) (obCount x.fn x.handle))
      x.fn x.owner status) = launchesAndUnits s6 := (launchesAndUnits_memberDone ..).trans (launchesAndUnits_joinObject ..)
  exact ⟨(endOf_congr (congrArg (·.1) told :) m).trans (reported.1.trans status_), ((congrArg (·.2) told :)).trans (reported.2.trans units)⟩

/-- A launch that has ended stays as it ended. -/
theorem launchDone_keeps {s : State} {l status k : Nat} (ended : endOf s l = some status) (some_ : status ≠ 0) (m : Nat) :
    endOf (launchDone s m k) l = some status ∧ (launchDone s m k).units = s.units := by
  cases hx : launchOf s m with
  | none =>
    rw [launchDone, hx]
    exact ⟨ended, rfl⟩
  | some x =>
    by_cases runs : x.status = 0
    · obtain ⟨status_, units⟩ := launchDone_ends (status := k) hx runs l
      refine ⟨status_.trans ?_, units⟩
      rw [if_neg, ended]
      intro same
      rw [same, endOf, hx] at ended
      exact some_ ((Option.some.inj ended).symm.trans runs)
    · rw [launchDone, hx]
      dsimp only
      rw [if_pos (by simpa using runs)]
      exact ⟨ended, rfl⟩

/-! ## The units of a faulted launch -/

theorem launchesAndUnits_dropEjected (s : State) (u : Nat) : launchesAndUnits (dropEjected s u).1 = launchesAndUnits s := by
  unfold dropEjected
  refine foldl_keeps (P := fun q : State × Nat => launchesAndUnits q.1 = launchesAndUnits s) (fun a p h => ?_) _ rfl
  dsimp only
  split
  · exact h
  · exact (foldl_same (view := launchesAndUnits) (fun b e => by rfl) _ _).trans h

theorem launchesAndUnits_slotSub (s : State) (g : Gid) (i : Nat) : launchesAndUnits (slotSub s g i) = launchesAndUnits s :=
  (congrArg launchesAndUnits (groupless_modRun s g _) :)

theorem launchesAndUnits_dropElastic (s : State) (u core : Nat) : launchesAndUnits (dropElastic s u core) = launchesAndUnits s := by
  unfold dropElastic
  refine (foldl_same (view := launchesAndUnits) (fun a e => ?_) _ _).trans rfl
  split
  · split
    · exact launchesAndUnits_slotSub ..
    · rfl
  · rfl

theorem launchesAndUnits_unfuse (s : State) (cl : Nat) : launchesAndUnits (unfuse s cl) = launchesAndUnits s := by
  unfold unfuse
  split
  · rfl
  · refine foldl_same (view := launchesAndUnits) (fun a i => ?_) _ s
    split <;> rfl

/-- A unit without what it held: the first part of its end. -/
def emptiedUnit (s : State) (u : Nat) (x : UnitSt) : State :=
  let s3 := dropElastic (dropBinned (dropEjected s u).1 u x.core).1 u x.core
  let s4 := { s3 with pageReqs := s3.pageReqs.filter fun (_, q) =>
                !((warpOf s3 q.core q.wslot).any fun w => w.serial = q.serial && w.unit = u) }
  let gone := ((coreOf s4 x.core).warps.filter fun (_, w) => w.unit = u).map (·.1)
  modCore s4 x.core fun k =>
    { k with quads := k.quads.map fun q => if q.holder.any gone.contains then { q with holder := none } else q }

theorem dropUnit_eq {s : State} {u : Nat} {x : UnitSt} (hu : unitOf s u = some x) : dropUnit s u = unitDone (emptiedUnit s u x) u := by
  unfold dropUnit
  rw [hu]
  rfl

theorem launchesAndUnits_emptied (s : State) (u : Nat) (x : UnitSt) : launchesAndUnits (emptiedUnit s u x) = launchesAndUnits s :=
  (launchesAndUnits_dropElastic (dropBinned (dropEjected s u).1 u x.core).1 u x.core).trans (launchesAndUnits_dropEjected s u)

/-- What a unit held is free, and its images are gone. -/
def freedUnit (s : State) (u : Nat) (x : UnitSt) : State :=
  let s1 := modCore { s with units := tabDel u s.units } x.core fun k =>
    { k with lease := if k.lease = some u then none else k.lease
             leaseQ := k.leaseQ.filter fun e => e.unit != u
             elq := k.elq.filter fun e => e.unit != u
             tiles := k.tiles.filter fun (i, _) => !(x.tileBase ≤ i && i < x.tileBase + x.ntiles)
             tsets := k.tsets.filter fun (_, i, _) => !(x.tileBase ≤ i && i < x.tileBase + x.ntiles)
             warps := k.warps.filter fun (_, w) => w.unit != u }
  modCtx (unfuse s1 (clusterOf x.core)) (unitGen s u) fun c => { c with images := c.images.filter fun (_, v, _, _) => v != u }

/-- The end of a unit in the counts of its schedule group. -/
def countedEnd (s : State) (u : Nat) (x : UnitSt) (a : State) : State :=
  match schedGroup a (unitPart s u) (clusterOf x.core) with
  | some g => modFe a (unitPart s u) fun f =>
      { f with groups := tabPut g (let (_, n, p) := tabGetD g (0, 0, 0) f.groups; (s.now - f.phaseAt, n + 1, p)) f.groups }
  | none => a

/-- A unit that has ended, before its launch may end with it. -/
def endedUnit (s : State) (u : Nat) (x : UnitSt) : State :=
  modLaunch (countedEnd s u x (freedUnit s u x)) x.launch fun l =>
    { l with unitsLeft := l.unitsLeft - 1
             owned := l.owned ++ (x.own.filter fun o => o.until_.isNone).map fun o => (x.lid, o.base, o.len) }

theorem unitDone_eq {s : State} {u : Nat} {x : UnitSt} (hu : unitOf s u = some x) : unitDone s u =
    match launchOf (endedUnit s u x) x.launch with
    | none => endedUnit s u x
    | some l =>
      let s6 := joinObject (endedUnit s u x) (obCount l.fn l.handle) (obCount x.launch (mkHandle 0 x.lid))
      if l.unitsLeft = 0 then launchDone s6 x.launch (if l.cancelled then 2 else 1) else s6 := by
  unfold unitDone
  rw [hu]
  rfl

theorem endedUnit_keeps (s : State) (u : Nat) (x : UnitSt) (l : Nat) :
    endOf (endedUnit s u x) l = endOf s l ∧ (endedUnit s u x).units = tabDel u s.units := by
  have freed : launchesAndUnits (freedUnit s u x) = (s.launches, tabDel u s.units) := launchesAndUnits_unfuse ..
  have counted : launchesAndUnits (countedEnd s u x (freedUnit s u x)) = (s.launches, tabDel u s.units) := by
    unfold countedEnd
    split <;> exact freed
  exact ⟨(endOf_modLaunch (fun _ => by rfl) ..).trans (endOf_congr (congrArg (·.1) counted :) l), (congrArg (·.2) counted :)⟩

/-- A unit that is done leaves its table; a launch that has ended stays as it ended. -/
theorem unitDone_leaves {s : State} {u l status : Nat} {x : UnitSt} (hu : unitOf s u = some x) (ended : endOf s l = some status) (some_ : status ≠ 0) :
    endOf (unitDone s u) l = some status ∧ (unitDone s u).units = tabDel u s.units := by
  obtain ⟨status_, units⟩ := endedUnit_keeps s u x l
  rw [unitDone_eq hu]
  generalize endedUnit s u x = e at status_ units
  split
  · exact ⟨status_.trans ended, units⟩
  · next y _ =>
    dsimp only
    have joined := launchesAndUnits_joinObject e (obCount y.fn y.handle) (obCount x.launch (mkHandle 0 x.lid))
    have still := (endOf_joinObject e (obCount y.fn y.handle) (obCount x.launch (mkHandle 0 x.lid)) l).trans (status_.trans ended)
    have left : (joinObject e (obCount y.fn y.handle) (obCount x.launch (mkHandle 0 x.lid))).units = tabDel u s.units :=
      ((congrArg (·.2) joined :)).trans units
    split
    · obtain ⟨last, same⟩ := launchDone_keeps (k := if y.cancelled then 2 else 1) still some_ x.launch
      exact ⟨last, same.trans left⟩
    · exact ⟨still, left⟩

theorem tabDel_of_none {α : Type} {k : Nat} : ∀ {t : Tab α}, tabGet k t = none → tabDel k t = t
  | [], _ => rfl
  | (j, y) :: t, none_ => by
    rw [tabGet] at none_
    split at none_
    · cases none_
    · next other =>
      rw [tabDel, if_neg other, tabDel_of_none none_]

theorem dropUnit_leaves {s : State} {l status : Nat} (ended : endOf s l = some status) (some_ : status ≠ 0) (u : Nat) :
    endOf (dropUnit s u) l = some status ∧ (dropUnit s u).units = tabDel u s.units := by
  cases hu : unitOf s u with
  | none =>
    rw [dropUnit, hu, tabDel_of_none hu]
    exact ⟨ended, rfl⟩
  | some x =>
    have emptied := launchesAndUnits_emptied s u x
    have units : (emptiedUnit s u x).units = s.units := (congrArg (·.2) emptied :)
    rw [dropUnit_eq hu, ← units]
    exact unitDone_leaves ((congrArg (tabGet u) units :).trans hu) ((endOf_congr (congrArg (·.1) emptied :) l).trans ended) some_

theorem dropUnits_leave {l status : Nat} (some_ : status ≠ 0) : ∀ (us : List Nat) {s : State}, endOf s l = some status →
    endOf (us.foldl dropUnit s) l = some status ∧ (us.foldl dropUnit s).units = us.foldl (fun t u => tabDel u t) s.units
  | [], _, ended => ⟨ended, rfl⟩
  | u :: us, s, ended => by
    obtain ⟨status_, units⟩ := dropUnit_leaves ended some_ u
    rw [List.foldl_cons, List.foldl_cons, ← units]
    exact dropUnits_leave some_ us status_

theorem rising_mono {α : Type} {t : Tab α} {lo hi : Nat} (h : Safety.rising t hi) (low : lo ≤ hi) : Safety.rising t lo := by
  cases t with
  | nil => trivial
  | cons x r => exact ⟨low.trans h.1, h.2⟩

theorem rising_tabDel {α : Type} (k : Nat) : ∀ {t : Tab α} {lo : Nat}, Safety.rising t lo → Safety.rising (tabDel k t) lo
  | [], _, _ => trivial
  | (j, y) :: t, lo, ⟨low, rest⟩ => by
    rw [tabDel]
    split
    · exact rising_mono rest (by omega)
    · exact ⟨low, rising_tabDel k rest⟩

/-- What is left of a table after some entries are taken out. -/
theorem tabGet_deleted {α : Type} {k : Nat} {x : α} : ∀ {ks : List Nat} {t : Tab α}, Safety.rising t 0 →
    tabGet k (ks.foldl (fun t u => tabDel u t) t) = some x → k ∉ ks ∧ tabGet k t = some x
  | [], _, _, found => ⟨List.not_mem_nil, found⟩
  | j :: ks, t, rising, found => by
    obtain ⟨out, there⟩ := tabGet_deleted (rising_tabDel j rising) found
    have other : k ≠ j := by
      rintro rfl
      rw [tabGet_del_same k rising] at there
      cases there
    exact ⟨fun no => (List.mem_cons.mp no).elim other out, (tabGet_del_other t other).symm.trans there⟩

section
variable {s : State} {l : Nat} {x : Launch} {f : FatalHalt} (subj : s.subj = .of [l]) (hx : launchOf s l = some x) (hf : x.fatal = some f)
include subj hx hf

theorem dumpWrite_ends (due : dumpDue s l = true) (bare : dumpBuffer x = 0) (rising : Safety.rising s.units 0) : ∃ t y,
    exec .dumpWrite s = .next t ∧ launchOf t l = some y ∧ y.status = 3 ∧ ∀ i u, unitOf t i = some u → u.launch ≠ l := by
  have runs : x.status = 0 := by
    unfold dumpDue at due
    rw [hx] at due
    simp only [Bool.and_eq_true, decide_eq_true_eq, and_assoc] at due
    exact due.1
  obtain ⟨body, acts⟩ : ∃ body, exec .dumpWrite s =
      .next (endLaunch (postReport s x.fn 1 x.gen x.handle.toNat f.first.faddr.toNat f.first.ipc.toNat body) l 3) := by
    show ∃ body, execDumpWrite s = _
    rw [execDumpWrite, subj]
    dsimp only
    rw [hx]
    dsimp only
    rw [hf]
    dsimp only
    rw [due, if_pos rfl]
    unfold dumpLaunch writeDump
    dsimp only
    rw [bare, if_pos rfl]
    exact ⟨_, rfl⟩
  have aside_ := aside_postReport s x.fn 1 x.gen x.handle.toNat f.first.faddr.toNat f.first.ipc.toNat body
  generalize postReport s x.fn 1 x.gen x.handle.toNat f.first.faddr.toNat f.first.ipc.toNat body = b at acts aside_
  have units : b.units = s.units := (congrArg State.units aside_ :)
  have before : endOf b l = some 0 := by
    rw [endOf_besideMemory (besideMemory_of_aside aside_), endOf, hx, Option.map_some, runs]
  obtain ⟨z, hz, zero⟩ := Option.map_eq_some_iff.mp before
  obtain ⟨done_, kept⟩ := launchDone_ends (status := 3) hz zero l
  obtain ⟨ended, left⟩ := dropUnits_leave (by decide) (launchUnits b l) (done_.trans (if_pos rfl))
  obtain ⟨y, hy, three⟩ := Option.map_eq_some_iff.mp ended
  refine ⟨_, y, acts, hy, three, fun i u hu own => ?_⟩
  rw [unitOf, show (endLaunch b l 3).units = _ from left, kept, units] at hu
  obtain ⟨out, there⟩ := tabGet_deleted rising hu
  exact out (mem_launchUnits.mpr ⟨u, by rw [units]; exact mem_of_tabGet there, own⟩)

end

/-- Settles O45: R63, R65, R66, R71, R102, R378. -/
theorem unitAndLaunchEvents : Obligations.UnitAndLaunchEvents := by
  refine ⟨fun s part l c lid scr tile x f blocks subj due hx frame capt rply grant tiles _ _ once => ?place,
    fun s core k subj hk => ⟨fun due => ?stop, fun w p due => ?choose, fun w p n due => ?copy, fun none_ => ?wait, fun w p e x moves some_ past hw wf => ?move⟩,
    fun s l x subj hx => ⟨fun ended => ?join, fun f hf => ⟨fun fresh past running rising => ?halt, fun due bare rising => ?dump⟩⟩⟩
  case place =>
    obtain ⟨t, u, names, acts, entered, next, seats⟩ := unitPlace_places (part := part) hx grant tiles subj due frame capt rply once
    have read (j : Nat) : readK t u j = tabGetD j 0 (placedUnit x l f c lid tile scr).k := by
      rw [readK, entered]
    refine ⟨t, u, _, acts, entered, rfl, rfl, rfl, rfl, rfl, rfl, rfl, rfl, (read 0).trans (placedUnit_k ..).1, (read 1).trans (placedUnit_k ..).2, next,
      fun i page slot hb hs => ?_⟩
    obtain ⟨b, serial, fes, there⟩ := seats _ (mem_seatsOf hb hs)
    refine ⟨_, there, rfl, rfl, forwardPc_congr fes .., rfl, fun off => ?_, fun j hj more => ?_⟩
    · rw [firstIssue, off, Bool.and_false]
      rfl
    · rw [newWarp_lane _ _ _ _ _ _ _ _ hj, firstThreads_get hj more]
      rfl
  case stop => exact ⟨_, compactionMove_acts subj _ due, congrArg Core.compact (coreOf_modCore ..)⟩
  case choose =>
    refine ⟨_, compactionMove_acts subj _ due, (congrArg Core.compact (coreOf_modCore ..)).trans ?_⟩
    dsimp only
    rw [hk]
    rfl
  case copy => exact compaction_copies subj hk due
  case wait => exact compactionMove_waits subj none_
  case move => exact compaction_moves subj hk moves some_ past hw wf
  case join => exact joinDecrement_lowers hx ended subj
  case halt => exact fatalStop_stops subj hx hf fresh past running rising
  case dump => exact dumpWrite_ends subj hx hf due bare rising

end Sys2Proof
end

section
/-! Commands of engines: the head of a queue and the end of a transfer (R284, R285, R410), the first part of O47. -/

namespace Sys2Proof
open Machine

/-! ## The slot of a command (R285, R410) -/

/-- A slot counts one less. -/
def slotFallen (n : Nat) (r : Run) : Run := { r with slots := r.slots.mapIdx fun j k => if j = n then k - 1 else k }

theorem view_slotSub {s : State} {g : Gid} {v : View} (hv : view s g = some v) (n : Nat) :
    view (slotSub s g n) g = some { v with run := slotFallen n v.run } := by
  rw [slotSub, view_modRun, hv]
  rfl

/-- No fatal halt of a launch has stopped its groups. -/
def unstopped (s : State) (l : Nat) : Prop := ∀ x, launchOf s l = some x → ∀ f, x.fatal = some f → f.stopped = false

theorem addDeferred_adds {s : State} {v : View} (h : unstopped s (unitLaunchId s v.unit)) (slot : Nat) (t : Trap) :
    addDeferred s v slot t = modRun s v.gid fun r => { r with deferred := r.deferred ++ [⟨slot, t, false⟩] } := by
  unfold addDeferred
  split
  · next f found =>
    obtain ⟨x, hx, fatal⟩ := Option.bind_eq_some_iff.mp found
    rw [h x hx f fatal]
    rfl
  · rfl

theorem launches_of_slotSub (s : State) (g : Gid) (n : Nat) : (slotSub s g n).launches = s.launches := launches_slotSub s g n

theorem unitLaunchId_modRun (s : State) (g : Gid) (f : Run → Run) (u : Nat) : unitLaunchId (modRun s g f) u = unitLaunchId s u := by
  cases g <;> rfl

theorem unstopped_slotSub {s : State} {l : Nat} (h : unstopped s l) (g : Gid) (n : Nat) : unstopped (slotSub s g n) l := by
  intro x hx
  rw [launchOf, launches_slotSub] at hx
  exact h x hx

/-- The slot of a command returns, where no halt keeps it. -/
theorem slotBack_returns {s : State} {c : Cmd} {v : View} (hv : view s c.gid = some v) (now_ : returnsLater s c.unit c.gen = false) (n : Nat) :
    view (slotBack s c v n none) c.gid = some { v with run := slotFallen n v.run } ∧ (slotBack s c v n none).mem = s.mem ∧
    (slotBack s c v n none).cmds = s.cmds ∧ (slotBack s c v n none).fes = s.fes := by
  unfold slotBack
  rw [now_]
  refine ⟨view_slotSub hv n, ?_⟩
  unfold slotSub
  cases c.gid <;> exact ⟨rfl, rfl, rfl⟩

theorem slotBack_defers {s : State} {c : Cmd} {v : View} (hv : view s c.gid = some v) (now_ : returnsLater s c.unit c.gen = false)
    (goes : unstopped s (unitLaunchId s v.unit)) (n : Nat) (t : Trap) :
    view (slotBack s c v n (some t)) c.gid =
      some { v with run := { slotFallen n v.run with deferred := v.run.deferred ++ [⟨n, t, false⟩] } } ∧
    (slotBack s c v n (some t)).mem = s.mem ∧ (slotBack s c v n (some t)).cmds = s.cmds := by
  have same : v.gid = c.gid := view_gid hv
  have still : unstopped (slotSub s c.gid n) (unitLaunchId (slotSub s c.gid n) v.unit) := by
    rw [slotSub, unitLaunchId_modRun]
    exact unstopped_slotSub goes c.gid n
  have acts : slotBack s c v n (some t) =
      modRun (slotSub s c.gid n) c.gid fun r => { r with deferred := r.deferred ++ [⟨n, t, false⟩] } := by
    rw [← same] at still ⊢
    unfold slotBack
    rw [now_, same]
    rw [same] at still
    exact (addDeferred_adds still n t).trans (by rw [same])
  rw [acts]
  refine ⟨?_, ?_⟩
  · rw [view_modRun, view_slotSub hv]
    rfl
  · unfold slotSub
    cases c.gid <;> exact ⟨rfl, rfl⟩

/-- A command of a group that is still there, which carries no follow-on and whose slot no halt keeps. -/
structure Returns (s : State) (c : Cmd) (v : View) : Prop where
  packet : c.pkt = none
  owner : cmdOwner s c = some v
  follow : c.follow = none
  now_ : returnsLater s c.unit c.gen = false

theorem cmdOwner_view {s : State} {c : Cmd} {v : View} (h : cmdOwner s c = some v) : view s c.gid = some v :=
  (Option.filter_eq_some_iff.mp h).1

theorem cmdOwner_congr {s t : State} (cores : t.cores = s.cores) (pools : t.pools = s.pools) (c : Cmd) : cmdOwner t c = cmdOwner s c := by
  rw [cmdOwner, view_congr cores pools, cmdOwner]

theorem returnCmd_eq {s : State} {c : Cmd} {v : View} (h : Returns s c v) (id : Nat) {t : Option Trap} (plain : c.rel = false ∨ t.isSome = true) :
    returnCmd s id c t = slotBack { s with cmds := tabDel id s.cmds } c v c.slot t := by
  have unreleased : (c.rel && t.isNone) = false := by
    rcases plain with off | trapped
    · rw [off]
      rfl
    · cases t with
      | none => cases trapped
      | some => simp
  have owner : cmdOwner { s with cmds := tabDel id s.cmds } c = some v := h.owner
  unfold returnCmd
  simp only [h.packet, h.follow]
  rw [owner]
  dsimp only
  rw [unreleased]
  rfl

/-- A command that ends without a condition gives its slot up. -/
theorem returnCmd_returns {s : State} {c : Cmd} {v : View} (h : Returns s c v) (id : Nat) (unreleased : c.rel = false) :
    view (returnCmd s id c none) c.gid = some { v with run := slotFallen c.slot v.run } ∧ (returnCmd s id c none).mem = s.mem ∧
    (returnCmd s id c none).fes = s.fes := by
  rw [returnCmd_eq h id (.inl unreleased)]
  obtain ⟨seen, mem, -, fes⟩ := slotBack_returns (s := { s with cmds := tabDel id s.cmds }) (cmdOwner_view h.owner) h.now_ c.slot
  exact ⟨seen, mem, fes⟩

/-- A command that ends with a condition leaves its trap deferred on its slot. -/
theorem returnCmd_defers {s : State} {c : Cmd} {v : View} (h : Returns s c v) (goes : unstopped s (unitLaunchId s v.unit)) (id : Nat) (t : Trap) :
    view (returnCmd s id c (some t)) c.gid =
      some { v with run := { slotFallen c.slot v.run with deferred := v.run.deferred ++ [⟨c.slot, t, false⟩] } } ∧
    (returnCmd s id c (some t)).mem = s.mem ∧ (returnCmd s id c (some t)).cmds = tabDel id s.cmds := by
  rw [returnCmd_eq h id (.inr rfl)]
  exact slotBack_defers (s := { s with cmds := tabDel id s.cmds }) (cmdOwner_view h.owner) h.now_ goes c.slot t

/-! ## The head of a queue (R284, R410) -/

theorem exec_engineReadsBegin {s : State} {e id : Nat} {c : Cmd} (subj : s.subj = .of [e]) (head : engineHead s e = some (id, c)) :
    exec .engineReadsBegin s = .next (decideHead s id c) := by
  have acts : exec .engineReadsBegin s = execEngineReadsBegin s := rfl
  rw [acts, execEngineReadsBegin, subj]
  dsimp only
  rw [head]

theorem refuseHead_plain {s : State} {id n : Nat} {c : Cmd} (plain : c.op ≤ 2) :
    refuseHead s id c n = returnCmd (dequeue s id c (some s.now)) id c (some (cmdTrap c 0x0C n 0)) := by
  unfold refuseHead
  dsimp only
  rw [if_neg (by simp; omega), if_neg (by simp; omega)]
  rfl

/-- A refused head leaves its trap deferred on its slot. -/
theorem head_refused {s : State} {e id n : Nat} {c : Cmd} {v : View} (subj : s.subj = .of [e]) (head : engineHead s e = some (id, c))
    (fresh : c.phase = 0) (plain : c.op ≤ 2) (refused : refusal s c = some n) (h : Returns s c v)
    (goes : unstopped s (unitLaunchId s v.unit)) :
    ∃ t, exec .engineReadsBegin s = .next t ∧ view t c.gid =
      some { v with run := { slotFallen c.slot v.run with deferred := v.run.deferred ++ [⟨c.slot, cmdTrap c 0x0C n 0, false⟩] } } ∧
      t.cmds = tabDel id s.cmds ∧ t.mem = s.mem := by
  have decided : decideHead s id c = refuseHead s id c n := by
    rw [decideHead, if_pos fresh, refused]
  have still : Returns (dequeue s id c (some s.now)) c v := ⟨h.packet, h.owner, h.follow, h.now_⟩
  obtain ⟨seen, mem, cmds⟩ := returnCmd_defers still goes id (cmdTrap c 0x0C n 0)
  refine ⟨_, exec_engineReadsBegin subj head, ?_⟩
  rw [decided, refuseHead_plain plain]
  exact ⟨seen, cmds, mem⟩

theorem decideHead_plain {s : State} {id : Nat} {c : Cmd} (fresh : c.phase = 0) (plain : c.op ≤ 2) (good : refusal s c = none) :
    decideHead s id c = if mayBegin s c then beginTransfer s id c else modCmd s id fun x => { x with phase := 6 } := by
  have unmixed : mixHead s id c = none := by
    rw [mixHead, if_pos (by simp; omega)]
  have unmarked : markMix s c = s := by
    rw [markMix, if_neg (by simp; omega)]
  have transfer : beginCmd s id c = beginTransfer s id c := by
    unfold beginCmd
    split
    · omega
    · omega
    · rfl
  rw [decideHead, if_pos fresh, good]
  dsimp only
  rw [unmixed]
  dsimp only
  rw [unmarked, transfer]

theorem engineAt_modEngine (s : State) (e : Nat) (f : Engine → Engine) : engineAt (modEngine s e f) e = f (engineAt s e) := by
  simp only [engineAt, modEngine, tabGetD, tabGet_put_same, Option.getD_some]

/-! ## The clocks of a command (R132, R133, R138) -/

theorem aside_clockEngine (s : State) (id : Nat) (c : Cmd) (key n ord : Nat) : aside (clockEngine s id c key n ord) = aside s := by
  unfold clockEngine
  split
  · exact aside_clockWrite ..
  · exact foldl_same (fun _ _ => (aside_releaseAt ..).trans (aside_dropRels ..)) _ s

theorem aside_clockPlan (s : State) (id : Nat) (c : Cmd) (ls : List Line) : aside (clockPlan s id c ls) = aside s := by
  unfold clockPlan
  split
  · rfl
  · refine foldl_same (fun a l => ?_) _ s
    have looked (b : State) (sp : Spot) (n kind : Nat) : aside (match sp with
        | .mem p va ord =>
          let d := raceCheck b c.unit (agCmd id) c.ipc.toNat (lidOf b c.unit) ((lanesOf c.lanes).headD 0) kind va p.key n (ord == 2)
          if kind = 3 then clockEngine d id c p.key n ord else d
        | _ => b) = aside b := by
      split
      · dsimp only
        split
        · exact (aside_clockEngine ..).trans (aside_raceCheck ..)
        · exact aside_raceCheck ..
      · rfl
    exact (looked _ _ _ _).trans (looked _ _ _ _)

/-! ## The start of a transfer (R284) -/

theorem takeLost_frame (s : State) : { (takeLost s).2 with lost := s.lost } = s := by
  unfold takeLost
  split <;> rfl

/-- What the start of a transfer leaves as it was. -/
def besideTransfer (s : State) : State := { aside s with lost := [], cores := [] }

theorem besideTransfer_of_aside {s t : State} (h : aside t = aside s) : besideTransfer t = besideTransfer s :=
  congrArg (fun x : State => { x with lost := [], cores := [] }) h

theorem besideTransfer_takeLost (s : State) : besideTransfer (takeLost s).2 = besideTransfer s :=
  (congrArg besideTransfer (takeLost_frame s) :)

theorem besideTransfer_setTileState (s : State) (u t st : Nat) : besideTransfer (setTileState s u t st) = besideTransfer s :=
  (congrArg besideTransfer (setTileState_frame s u t st) :)

/-- The start of a transfer: its command under way, out of the queue of its engine. -/
theorem beginTransfer_begins {s : State} {id : Nat} {c : Cmd} (there : tabGet id s.cmds = some c) :
    ∃ x, tabGet id (beginTransfer s id c).cmds = some x ∧ (x.phase = 1 ∨ x.phase = 4) ∧
      ¬ id ∈ (engineAt (beginTransfer s id c) c.engine).queue ∧ x.ctl = c.ctl ∧ (beginTransfer s id c).mem = s.mem := by
  have phases (b : Bool) : (if b then 4 else 1) = 1 ∨ (if b then 4 else 1) = 4 := by cases b <;> simp
  obtain ⟨r, d, last, acts, kept, phase, ctl⟩ : ∃ r d last, beginTransfer s id c =
      dequeue (modCmd r id fun _ => d) id { c with lost := (takeLost s).1 } last ∧ besideTransfer r = besideTransfer s ∧
      (d.phase = 1 ∨ d.phase = 4) ∧ d.ctl = c.ctl := by
    refine ⟨_, _, _, rfl, ?_, ?_, rfl⟩
    · refine (besideTransfer_of_aside (aside_clockPlan ..)).trans ?_
      have filled (a : State) (c : Cmd) : besideTransfer (match c.fills with | some t => setTileState a c.unit t 1 | none => a) =
          besideTransfer a := by
        split
        · exact besideTransfer_setTileState ..
        · rfl
      have acquired (a b : State) (c : Cmd) (h : besideTransfer b = besideTransfer a) :
          besideTransfer (if c.takes then acquire b c.unit (agCmd id) (obCmd id) true else b) = besideTransfer a := by
        split
        · exact (besideTransfer_of_aside (aside_acquire ..)).trans h
        · exact h
      exact (acquired _ _ { c with lost := (takeLost s).1 } (filled (takeLost s).2 { c with lost := (takeLost s).1 })).trans
        (besideTransfer_takeLost s)
    · exact phases _
  have cmds : r.cmds = s.cmds := (congrArg State.cmds kept :)
  rw [acts]
  refine ⟨d, ?_, phase, ?_, ctl, (congrArg State.mem kept :)⟩
  · change tabGet id (tabMod id (fun _ => d) r.cmds) = some d
    rw [tabGet_mod_same, cmds, there]
    rfl
  · have queue := engineAt_modEngine (modCmd r id fun _ => d) c.engine fun e =>
      { queue := e.queue.filter (· != id), lastRead := last.getD e.lastRead }
    have gone : (engineAt (dequeue (modCmd r id fun _ => d) id { c with lost := (takeLost s).1 } last) c.engine).queue =
        (engineAt r c.engine).queue.filter (· != id) := (congrArg Engine.queue queue :)
    rw [gone]
    simp

theorem head_begins {s : State} {e id : Nat} {c : Cmd} (subj : s.subj = .of [e]) (head : engineHead s e = some (id, c))
    (fresh : c.phase = 0) (plain : c.op ≤ 2) (good : refusal s c = none) (there : tabGet id s.cmds = some c) (may : mayBegin s c = true) :
    ∃ t x, exec .engineReadsBegin s = .next t ∧ tabGet id t.cmds = some x ∧ (x.phase = 1 ∨ x.phase = 4) ∧
      ¬ id ∈ (engineAt t c.engine).queue ∧ x.ctl = c.ctl ∧ t.mem = s.mem := by
  obtain ⟨x, begun⟩ := beginTransfer_begins there
  refine ⟨_, x, exec_engineReadsBegin subj head, ?_⟩
  rw [decideHead_plain fresh plain good, if_pos may]
  exact begun

theorem head_found {s : State} {e id : Nat} {c : Cmd} (subj : s.subj = .of [e]) (head : engineHead s e = some (id, c))
    (fresh : c.phase = 0) (plain : c.op ≤ 2) (good : refusal s c = none) (there : tabGet id s.cmds = some c) (may : mayBegin s c = false) :
    ∃ t, exec .engineReadsBegin s = .next t ∧ tabGet id t.cmds = some { c with phase := 6 } ∧
      (engineAt t c.engine).queue = (engineAt s c.engine).queue := by
  refine ⟨_, exec_engineReadsBegin subj head, ?_⟩
  rw [decideHead_plain fresh plain good, if_neg (by simp [may])]
  refine ⟨?_, rfl⟩
  change tabGet id (tabMod id (fun x => { x with phase := 6 }) s.cmds) = _
  rw [tabGet_mod_same, there]
  rfl

/-! ## The end of a transfer (R285) -/

theorem exec_engineTransferEnd {s : State} {id : Nat} {c : Cmd} (subj : s.subj = .of [id]) (there : tabGet id s.cmds = some c) :
    exec .engineTransferEnd s = .next (if Machine.transferOver s c then endTransfer s id c else s) := by
  have acts : exec .engineTransferEnd s = execEngineTransferEnd s := rfl
  rw [acts, execEngineTransferEnd, subj]
  dsimp only
  rw [there]

theorem exec_completionWriteAck {s : State} {id : Nat} {c : Cmd} (subj : s.subj = .of [id]) (there : tabGet id s.cmds = some c) :
    exec .completionWriteAck s = .next (if writeOver s c then flagCmd s id c else s) := by
  have acts : exec .completionWriteAck s = execCompletionWriteAck s := rfl
  rw [acts, execCompletionWriteAck, subj]
  dsimp only
  rw [there]

/-- An event flag that is set is set, and nothing but the flags and what tells of them changes. -/
theorem setEventFlag_sets (s : State) (p : Nat) {i : Nat} (small : i < 64) :
    (feOf (setEventFlag s p i true) p).flags.getLsbD i = true ∧
    { aside (setEventFlag s p i true) with fes := [] } = { aside s with fes := [] } := by
  have told (a b : State) (h : aside b = aside a) : feOf b p = feOf a p := (congrArg (fun x => feOf x p) h :)
  unfold setEventFlag
  dsimp only
  split
  · next set_ => exact ⟨set_, rfl⟩
  · refine ⟨?_, ?_⟩
    · rw [told _ _ (aside_postEvent ..), feOf_modFe]
      simp only [if_true]
      rw [BitVec.getLsbD_or, BitVec.getLsbD_ofNat, Nat.testBit_two_pow_self]
      simp [small]
    · exact congrArg (fun x : State => { x with fes := [] }) (aside_postEvent ..)

/-- A command whose write is acknowledged sets its flag and gives its slot up. -/
theorem flagCmd_ends {s : State} {c : Cmd} {v : View} (h : Returns s c v) (id : Nat) (unreleased : c.rel = false) :
    view (flagCmd s id c) c.gid = some { v with run := slotFallen c.slot v.run } ∧
    (c.uses 1 = true → c.noEvents = false → (feOf (flagCmd s id c) c.part).flags.getLsbD (c.w2.toNat / 2 ^ 32 % 64) = true) ∧
    (flagCmd s id c).mem = s.mem := by
  obtain ⟨flag, kept⟩ := setEventFlag_sets s c.part (i := c.w2.toNat / 2 ^ 32 % 64) (Nat.mod_lt _ (by decide))
  by_cases uses : c.uses 1 = true ∧ c.noEvents = false
  · have acts : flagCmd s id c = returnCmd (setEventFlag s c.part (c.w2.toNat / 2 ^ 32 % 64) true) id c none := by
      unfold flagCmd
      dsimp only
      rw [uses.1, uses.2, h.packet]
      rfl
    have still : Returns (setEventFlag s c.part (c.w2.toNat / 2 ^ 32 % 64) true) c v :=
      ⟨h.packet, (cmdOwner_congr (congrArg State.cores kept :) (congrArg State.pools kept :) c).trans h.owner, h.follow,
        (congrArg (fun x => returnsLater x c.unit c.gen) kept :).trans h.now_⟩
    obtain ⟨seen, mem, fes⟩ := returnCmd_returns still id unreleased
    rw [acts]
    refine ⟨seen, fun _ _ => ?_, mem.trans (congrArg State.mem kept :)⟩
    rw [feOf, fes]
    exact flag
  · have acts : flagCmd s id c = returnCmd s id c none := by
      unfold flagCmd
      dsimp only
      rw [if_neg (by simpa [h.packet] using uses)]
    obtain ⟨seen, mem, -⟩ := returnCmd_returns h id unreleased
    rw [acts]
    exact ⟨seen, fun used events => absurd ⟨used, events⟩ uses, mem⟩

theorem endTransfer_traps {s : State} {id : Nat} {c : Cmd} {y : Trap} (tile : c.tile = none) (trap : c.trap = some y) :
    endTransfer s id c = returnCmd s id c (some y) := by
  unfold endTransfer
  simp only [tile, trap]

theorem endTransfer_plain {s : State} {id : Nat} {c : Cmd} (tile : c.tile = none) (trap : c.trap = none) (rel : c.rel = false)
    (follow : c.follow = none) (packet : c.pkt = none) (plain : c.op ≤ 2) :
    endTransfer s id c = if c.uses 0 && !c.noEvents then completionWrite s id c else flagCmd s id c := by
  have same : ({ c with follow := if c.uses 2 && !c.noEvents then none else c.follow } : Cmd) = c := by
    rw [follow, ite_self, ← follow]
  have released : releaseCmd s id c = s := by
    rw [releaseCmd, rel]
    rfl
  unfold endTransfer
  dsimp only
  rw [same]
  simp only [tile, trap]
  rw [released, startFollow, follow]
  dsimp only
  rw [if_neg (show ¬ c.op = 6 by omega), packet]
  simp only [Option.isNone_none, Bool.and_true]

/-! ## The completion write (R285) -/

/-- Bytes just written to device memory stand there. -/
theorem readPlace_written {s t : State} {a : Nat} {b : List Byte} (wf : s.mem.wf = true) (beside : besideMemory t = besideMemory s)
    (mem : t.mem = setAll s.mem (placedAt s (numbered b) (.dev a)))
    (once : ∀ i < b.length, ∀ j < b.length, storageOf s (a + i) = storageOf s (a + j) → i = j) : readPlace t (.dev a) b.length = b := by
  apply List.ext_getElem
  · simp [readPlace]
  intro i hi hb
  obtain ⟨pre, post, split, later⟩ := numbered_split hb
  simp only [readPlace, List.getElem_map, List.getElem_range, Place.plus]
  rw [placeByte, besideMemory_storageOf beside, mem, placedAt, split, List.map_append, List.map_cons, get_setAll_last wf]
  intro x hx same
  obtain ⟨y, hy, rfl⟩ := List.mem_map.mp hx
  obtain ⟨off, short⟩ := later y hy
  exact off (once _ short _ hb same)

/-- Bytes written at a spot of device memory. -/
theorem writeSpot_dev (s : State) (v : View) (gen part : Nat) (lanes : List Nat) (agent a va ord : Nat) (bytes : List Byte) :
    aside (writeSpot s v gen part lanes agent (.mem (.dev a) va ord) bytes []) = aside (writeMem s gen part (.dev a) bytes) := by
  unfold writeSpot
  dsimp only
  rw [if_neg (by decide)]
  split
  · exact aside_recordRelease ..
  · exact aside_breakRelease ..

theorem completionWrite_writes {s : State} {id : Nat} {c : Cmd} {a ord path : Nat} (there : tabGet id s.cmds = some c) (rel : c.rel = false)
    (spot : endSpot s c (.va c.w1.toNat) 4 true false = .ok (.mem (.dev a) c.w1.toNat ord, path)) (wf : s.mem.wf = true)
    (once : ∀ i < 4, ∀ j < 4, storageOf s (a + i) = storageOf s (a + j) → i = j) :
    readPlace (completionWrite s id c) (.dev a) 4 = bytesOf 4 (c.w2.toNat % 2 ^ 32) ∧
    ∃ x, tabGet id (completionWrite s id c).cmds = some x ∧ x.phase = 2 ∧ x.doneAt = s.now + path := by
  obtain ⟨r, acts, left⟩ : ∃ r, completionWrite s id c = modCmd r id (fun x => { x with phase := 2, lines := [], doneAt := s.now + path }) ∧
      aside r = aside (writeMem s c.gen c.part (.dev a) (bytesOf 4 (c.w2.toNat % 2 ^ 32))) := by
    refine ⟨clockEngine (writeSpot s (cmdView s c) c.gen c.part (lanesOf c.lanes) 1 (.mem (.dev a) c.w1.toNat ord)
      (bytesOf 4 (fld c.w2.toNat 0 32)) []) id c (Place.dev a).key 4 ord, ?_, ?_⟩
    · unfold completionWrite
      dsimp only
      rw [spot]
      dsimp only
      rw [rel]
      rfl
    · rw [aside_clockEngine, writeSpot_dev]
      simp [fld]
  obtain ⟨beside, mem, -⟩ := writeMem_effect s c.gen c.part (.dev a) (bytesOf 4 (c.w2.toNat % 2 ^ 32))
  have beside : besideMemory r = besideMemory s := (besideMemory_of_aside left).trans beside
  have stands : readPlace r (.dev a) (bytesOf 4 (c.w2.toNat % 2 ^ 32)).length = bytesOf 4 (c.w2.toNat % 2 ^ 32) :=
    readPlace_written wf beside ((aside_mem left).trans mem) (by simpa only [bytesOf_length] using once)
  rw [bytesOf_length] at stands
  rw [acts]
  refine ⟨stands, { c with phase := 2, lines := [], doneAt := s.now + path }, ?_, rfl, rfl⟩
  change tabGet id (tabMod id _ r.cmds) = _
  rw [tabGet_mod_same, show r.cmds = s.cmds from (congrArg State.cmds beside :), there]
  rfl

end Sys2Proof
end

section
/-! Messages of the fabric (R361, R363, R438), a part of O47. -/

namespace Sys2Proof
open Machine

theorem exec_fabricMessageReceive {s : State} {m : FabricMsg} (subj : s.subj = .message m) :
    exec .fabricMessageReceive s = .next (receiveMessage s m) := by
  have acts : exec .fabricMessageReceive s = execFabricMessageReceive s := rfl
  rw [acts, execFabricMessageReceive, subj]

/-- A message whose tag fails is counted, and memory stays. -/
theorem receive_untagged {s : State} {m : FabricMsg} (bad : m.tagOk = false) : (receiveMessage s m).mem = s.mem ∧
    tabGet (0xEA0 + 8 * (m.port % 24)) (receiveMessage s m).counts =
      some (Nat.min (2 ^ 64 - 1) (tabGetD (0xEA0 + 8 * (m.port % 24)) 0 s.counts + 1)) := by
  have lost (a : State) (req : Nat) : (loseReply a req).mem = a.mem ∧ (loseReply a req).counts = a.counts := by
    unfold loseReply
    split <;> exact ⟨rfl, rfl⟩
  obtain ⟨mem, counts⟩ : (receiveMessage s m).mem = s.mem ∧
      (receiveMessage s m).counts = (addCount s (0xEA0 + 8 * (m.port % 24))).counts := by
    unfold receiveMessage
    rw [bad]
    dsimp only
    rw [if_pos (by decide)]
    split
    · exact lost _ _
    · exact ⟨rfl, rfl⟩
  exact ⟨mem, by rw [counts, addCount, tabGet_put_same]⟩

/-- A line that is touched at its home is present there. -/
theorem l2Has_l2Touch (s : State) (gen part line dirty : Nat) : l2Has (l2Touch s gen part line dirty) line = true := by
  unfold l2Touch
  dsimp only
  split
  · next here =>
    obtain ⟨x, mem, pa⟩ := List.any_eq_true.mp here
    have pa : x.pa = line := by simpa using pa
    refine List.any_eq_true.mpr ⟨_, List.mem_map.mpr ⟨x, mem, rfl⟩, ?_⟩
    rw [if_pos pa]
    simpa using pa
  · exact List.any_eq_true.mpr ⟨_, List.mem_append_right _ (List.mem_singleton.mpr rfl), by simp⟩

/-- A write of another module, with what is noted beside it, leaves its bytes. -/
theorem remote_written {s u : State} {a : Nat} {b : List Byte} (left : aside u = aside (writePlace s (.dev a) b)) (wf : s.mem.wf = true)
    (once : ∀ i < b.length, ∀ j < b.length, storageOf s (a + i) = storageOf s (a + j) → i = j) : readPlace u (.dev a) b.length = b := by
  obtain ⟨beside, mem, -⟩ := writePlace_effect s (.dev a) b
  exact readPlace_written wf ((besideMemory_of_aside left).trans beside) ((aside_mem left).trans mem) once

theorem serveRemote_reads (s : State) (addr : Nat) : (serveRemote s addr []).mem = s.mem ∧
    l2Has (serveRemote s addr []) (addr % 2 ^ 50 / 128) = true :=
  ⟨aside_mem (aside_l2Touch ..), l2Has_l2Touch ..⟩

theorem serveRemote_writes {s : State} {addr : Nat} {b : List Byte} (some_ : b ≠ []) (wf : s.mem.wf = true)
    (once : ∀ i < b.length, ∀ j < b.length, storageOf s (addr % 2 ^ 50 + i) = storageOf s (addr % 2 ^ 50 + j) → i = j) :
    readPlace (serveRemote s addr b) (.dev (addr % 2 ^ 50)) b.length = b := by
  refine remote_written ?_ wf once
  unfold serveRemote
  dsimp only
  rw [if_neg (by simpa using some_), aside_breakRelease, aside_l2Touch]

theorem atomicRemote_writes {s : State} {addr op cmp val n : Nat} {flt wide : Bool} (size : n = if wide then 8 else 4) (wf : s.mem.wf = true)
    (once : ∀ i < n, ∀ j < n, storageOf s (addr % 2 ^ 50 + i) = storageOf s (addr % 2 ^ 50 + j) → i = j)
    (clean : poisonedPlace s (.dev (addr % 2 ^ 50)) n = false) (swaps : op = 7 → natOf (readPlace s (.dev (addr % 2 ^ 50)) n) = cmp) :
    readPlace (atomicRemote s addr op flt wide cmp val) (.dev (addr % 2 ^ 50)) n =
      bytesOf n (atomNew op flt wide (natOf (readPlace s (.dev (addr % 2 ^ 50)) n)) cmp val) := by
  have left : aside (atomicRemote s addr op flt wide cmp val) = aside (writePlace s (.dev (addr % 2 ^ 50))
      (bytesOf n (atomNew op flt wide (natOf (readPlace s (.dev (addr % 2 ^ 50)) n)) cmp val))) := by
    unfold atomicRemote
    dsimp only
    rw [← size, if_neg, aside_l2Touch]
    rw [clean]
    simpa using swaps
  have stands := remote_written left wf (by simpa only [bytesOf_length] using once)
  rwa [bytesOf_length] at stands

end Sys2Proof
end

section
/-! Set-ups and runs of communicators (R289, R290, R411), a part of O47. -/

namespace Sys2Proof
open Machine

/-! ## What leaves the communicators -/

theorem comms_modRun (s : State) (g : Gid) (f : Run → Run) : (modRun s g f).comms = s.comms := by
  cases g <;> rfl

theorem comms_aside {s t : State} (h : aside t = aside s) : t.comms = s.comms := (congrArg State.comms h :)

theorem comms_addDeferred (s : State) (v : View) (n : Nat) (t : Trap) : (addDeferred s v n t).comms = s.comms := by
  unfold addDeferred
  split
  · split
    · rfl
    · exact comms_modRun ..
  · exact comms_modRun ..

theorem comms_slotBack (s : State) (c : Cmd) (v : View) (n : Nat) (t : Option Trap) : (slotBack s c v n t).comms = s.comms := by
  unfold slotBack
  split
  · rfl
  · cases t with
    | none => exact comms_modRun ..
    | some x => exact (comms_addDeferred ..).trans (comms_modRun ..)

theorem comms_returnCmd (s : State) (id : Nat) (c : Cmd) (t : Option Trap) : (returnCmd s id c t).comms = s.comms := by
  have followed (a : State) (v : View) : (match c.follow with | some n => slotBack a c v n none | none => a).comms = a.comms := by
    split
    · exact comms_slotBack ..
    · rfl
  unfold returnCmd
  dsimp only
  split
  · split <;> rfl
  · split
    · rfl
    · split
      · exact (comms_modRun ..).trans ((followed _ _).trans (comms_slotBack ..))
      · exact (followed _ _).trans (comms_slotBack ..)

theorem comms_flagCmd (s : State) (id : Nat) (c : Cmd) : (flagCmd s id c).comms = s.comms := by
  have flagged (a : State) (p n : Nat) : (setEventFlag a p n true).comms = a.comms := by
    unfold setEventFlag
    dsimp only
    split
    · rfl
    · exact (comms_aside (aside_postEvent ..)).trans rfl
  refine (comms_returnCmd ..).trans ?_
  split
  · exact flagged ..
  · rfl

theorem comms_vwrite {s t : State} {gen va : Nat} {bytes : List Byte} (h : vwrite s gen va bytes = .ok t) : t.comms = s.comms :=
  (congrArg State.comms (besideMemory_vwrite h) :)

theorem comms_saveBlock (s : State) (gen off tag plain : Nat) : (saveBlock s gen off tag plain).1.comms = s.comms := by
  unfold saveBlock
  split
  · rfl
  · split
    · rfl
    · next wrote =>
      split
      · exact comms_vwrite wrote
      · next again => exact (comms_vwrite again).trans (comms_vwrite wrote)

theorem comms_moveGranule (s : State) (core unit gen old new : Nat) (img : Memory) (w : Nat → Bool) :
    (moveGranule s core unit gen old new img w).comms = s.comms := by
  have put (a : State) : (putGranule a core unit gen new img).comms = a.comms := by
    unfold putGranule
    dsimp only
    split
    · rfl
    · split
      · exact comms_saveBlock ..
      · rfl
  unfold moveGranule
  split
  · rfl
  · split
    · exact put s
    · exact put s

theorem comms_writeSpot (s : State) (v : View) (gen part : Nat) (lanes : List Nat) (agent : Nat) (sp : Spot) (bytes : List Byte) (bad : List Nat) :
    (writeSpot s v gen part lanes agent sp bytes bad).comms = s.comms := by
  have wrote (p : Place) : (writeMem s gen part p bytes).comms = s.comms := (congrArg State.comms (writeMem_effect s gen part p bytes).1 :)
  have poisoned (p : Place) (a : State) : (bad.foldl (fun a i => poisonPlace a (p.plus i)) a).comms = a.comms :=
    foldl_same (view := State.comms) (f := fun a i => poisonPlace a (p.plus i))
      (fun a i => (congrArg State.comms (poisonPlace_effect a (p.plus i)).1 :)) bad a
  have either (b : Bool) {x y : State} (hx : x.comms = s.comms) (hy : y.comms = s.comms) : (if b then x else y).comms = s.comms := by
    cases b <;> assumption
  unfold writeSpot
  cases sp with
  | mem p va ord =>
    refine either _ (comms_aside (aside_hostReport ..)) ?_
    split
    · exact (comms_aside (aside_recordRelease ..)).trans ((poisoned p _).trans (wrote p))
    · exact (comms_aside (aside_breakRelease ..)).trans ((poisoned p _).trans (wrote p))
  | store c a =>
    exact foldl_same (view := State.comms) (f := fun t (x : Nat × List Byte) =>
      storeWrite t c (a + x.1) x.2 (bad.any fun i => decide (x.1 ≤ i) && decide (i < x.1 + x.2.length))) (fun _ _ => rfl) _ s
  | gran c u g off =>
    dsimp only
    split
    · rfl
    · exact comms_moveGranule ..
  | none => rfl

theorem comms_completionWrite (s : State) (id : Nat) (c : Cmd) : (completionWrite s id c).comms = s.comms := by
  have released (a : State) (sc key : Nat) : ((wordsIn key 4).foldl (fun t w =>
      releaseAt (dropRels t w) c.unit (agCmd id) w sc (cmdParty s c) true) a).comms = a.comms :=
    foldl_same (view := State.comms) (f := fun t w => releaseAt (dropRels t w) c.unit (agCmd id) w sc (cmdParty s c) true)
      (fun _ _ => comms_aside ((aside_releaseAt ..).trans (aside_dropRels ..))) _ a
  have modded (a : State) (f : Cmd → Cmd) : (modCmd a id f).comms = a.comms := rfl
  unfold completionWrite
  dsimp only
  split
  · exact comms_returnCmd ..
  · rw [modded]
    split
    · split
      · exact (comms_aside (aside_clockEngine ..)).trans (comms_writeSpot ..)
      · exact (released _ _ _).trans ((comms_aside (aside_recordRelease ..)).trans (comms_writeSpot ..))
    · rfl

theorem comms_setTile (s : State) (u t e : Nat) : (setTile s u t e).comms = s.comms := by
  unfold setTile
  split <;> rfl

theorem comms_releaseCmd (s : State) (id : Nat) (c : Cmd) : (releaseCmd s id c).comms = s.comms := by
  unfold releaseCmd
  split
  · exact comms_aside (aside_release ..)
  · rfl

/-- The end of the transfer of a run leaves the communicators. -/
theorem comms_endTransfer (s : State) (id : Nat) {c : Cmd} (run : c.op = 4) : (endTransfer s id c).comms = s.comms := by
  have alone (a : State) : startFollow a id c = a := by
    have uses : c.uses 2 = false := by
      rw [Cmd.uses, run]
      exact Bool.and_false _
    unfold startFollow
    split
    · rfl
    · rw [uses]
      rfl
  have tiled (t : Nat) : (setTile (setTileState (release s c.unit (agCmd id) (obTile c.unit t) true) c.unit t (if c.trap.isSome then 0 else 2)) c.unit t
      (withStamp (tileNow (setTileState (release s c.unit (agCmd id) (obTile c.unit t) true) c.unit t (if c.trap.isSome then 0 else 2)) c.unit t)
        (if c.trap.isSome then 0 else c.stamp))).comms = s.comms :=
    (comms_setTile ..).trans ((congrArg State.comms (setTileState_frame ..) :).trans (comms_aside (aside_release ..)))
  obtain ⟨r, kept, acts⟩ : ∃ r : State, r.comms = s.comms ∧ endTransfer s id c = match c.trap with
      | some t => returnCmd r id c (some t)
      | none =>
        let s2 := startFollow (releaseCmd r id c) id c
        let d := { c with follow := if c.uses 2 && !c.noEvents then none else c.follow }
        let s3 := if c.op = 6 then activateMove s2 c.part c.src c.dst c.w3.toNat else s2
        if c.uses 0 && !c.noEvents && c.pkt.isNone then completionWrite s3 id d else flagCmd s3 id d := by
    refine ⟨_, ?_, rfl⟩
    split
    · rfl
    · exact tiled _
  rw [acts]
  split
  · exact (comms_returnCmd ..).trans kept
  · dsimp only
    rw [if_neg (show ¬ c.op = 6 by omega), alone]
    split
    · exact (comms_completionWrite ..).trans ((comms_releaseCmd ..).trans kept)
    · exact (comms_flagCmd ..).trans ((comms_releaseCmd ..).trans kept)

/-! ## Set-ups (R289, R411) -/

/-- Some member that has issued disagrees on the ranks, the format or the contract asked for. -/
def disagree (com : Comm) : Prop := ∃ m ∈ com.members, m.setAt.isSome = true ∧ (m.nrank ≠ com.nrank ∨ m.fmt ≠ com.fmt ∨ m.reqc ≠ com.reqc)

theorem disagree_iff (com : Comm) :
    (com.members.any fun m => m.setAt.isSome && (m.nrank != com.nrank || m.fmt != com.fmt || m.reqc != com.reqc)) = true ↔ disagree com := by
  simp only [disagree, List.any_eq_true, Bool.and_eq_true, Bool.or_eq_true, bne_iff_ne, or_assoc]

/-- A communicator whose set-up is over. -/
def clearedComm (com : Comm) : Comm :=
  { com with setCmd := none, members := com.members.map fun m => { m with setAt := none, refused := false } }

/-- Members that disagree fail the set-up. -/
theorem endSet_disagrees {s : State} {key id : Nat} {c : Cmd} (wrong : disagree (tabGetD key Comm.reset s.comms)) :
    ∃ x, tabGet key (endSet s key id 0 c).comms = some x ∧ x.state = 3 ∧ x.setCmd = none := by
  have there : (endSet s key id 0 c).comms =
      tabPut key { clearedComm (tabGetD key Comm.reset s.comms) with state := 3 } s.comms := by
    unfold endSet
    dsimp only
    rw [if_pos (by simpa using (disagree_iff _).mpr wrong)]
    exact comms_returnCmd ..
  exact ⟨_, by rw [there, tabGet_put_same], rfl, rfl⟩

/-- Else it ends with the AND of the masks of its members, its contract and its state by the result. -/
theorem endSet_ends {s : State} {key id st : Nat} {c : Cmd} (fine : st ≠ 0 ∨ ¬ disagree (tabGetD key Comm.reset s.comms)) :
    ∃ x, tabGet key (endSet s key id st c).comms = some x ∧ x.setCmd = none ∧ x.mask = maskAnd (tabGetD key Comm.reset s.comms).members ∧
      x.state = (if (setResult (tabGetD key Comm.reset s.comms) st).1 = 0 then 2 else 3) ∧
      x.contract = (setResult (tabGetD key Comm.reset s.comms) st).2.1 := by
  obtain ⟨x, there, setCmd, mask, state, contract⟩ : ∃ x : Comm, (endSet s key id st c).comms = tabPut key x s.comms ∧ x.setCmd = none ∧
      x.mask = maskAnd (tabGetD key Comm.reset s.comms).members ∧
      x.state = (if (setResult (tabGetD key Comm.reset s.comms) st).1 = 0 then 2 else 3) ∧
      x.contract = (setResult (tabGetD key Comm.reset s.comms) st).2.1 := by
    refine ⟨{ clearedComm (tabGetD key Comm.reset s.comms) with
      state := if (setResult (tabGetD key Comm.reset s.comms) st).1 = 0 then 2 else 3
      contract := (setResult (tabGetD key Comm.reset s.comms) st).2.1, mask := maskAnd (tabGetD key Comm.reset s.comms).members },
      ?_, rfl, rfl, rfl, rfl⟩
    unfold endSet
    dsimp only
    rw [if_neg]
    · have told (a : State) (b : Prop) [Decidable b] (fn l pc : Nat) (body : List Byte) :
          (if b then a else postReport a fn 9 c.gen l c.dst pc body).comms = a.comms := by
        split
        · rfl
        · exact comms_aside (aside_postReport ..)
      split
      · exact told ..
      · exact (comms_aside (aside_clockPlan ..)).trans (told ..)
    · intro both
      obtain ⟨zero, wrong⟩ := by simpa only [Bool.and_eq_true, decide_eq_true_eq] using both
      exact fine.elim (fun other => other zero) fun right => right ((disagree_iff _).mp wrong)
  exact ⟨x, by rw [there, tabGet_put_same], setCmd, mask, state, contract⟩

theorem setResult_status (com : Comm) (st : Nat) : (setResult com st).1 = if st ≠ 0 then st else if maskAnd com.members = 0 then 1
    else if com.reqc ≠ 0 ∧ (maskAnd com.members).testBit com.reqc = false then 2 else 0 := by
  have asked : (com.reqc != 0 && !Machine.bit (maskAnd com.members) com.reqc) = true ↔
      com.reqc ≠ 0 ∧ (maskAnd com.members).testBit com.reqc = false := by
    rw [Machine.bit, Nat.testBit_eq_decide_div_mod_eq]
    simp
  simp only [setResult, asked, bne_iff_ne]

theorem exec_collSetResult {s : State} {part cid st id : Nat} {c : Cmd} (subj : s.subj = .of [part, cid, st])
    (set_ : (tabGetD (part * 16 + cid) Comm.reset s.comms).setCmd = some id) (there : tabGet id s.cmds = some c) (phase : c.phase = 7) :
    exec .collSetResult s = .next (endSet s (part * 16 + cid) id st c) := by
  have acts : exec .collSetResult s = execCollSetResult s := rfl
  rw [acts, execCollSetResult, subj]
  dsimp only
  rw [set_, Option.bind_some, there, Option.map_some]
  dsimp only
  rw [if_pos phase]

theorem exec_collSetMemberTimeout {s : State} {part cid id : Nat} {c : Cmd} (subj : s.subj = .of [part, cid, id])
    (there : tabGet id s.cmds = some c) (phase : c.phase = 3) (set_ : c.op = 3) (runs : ctxStops s c.gen = false) :
    exec .collSetMemberTimeout s = .next (endSet s (part * 16 + cid) id 3 c) := by
  have acts : exec .collSetMemberTimeout s = execCollSetMemberTimeout s := rfl
  rw [acts, execCollSetMemberTimeout, subj]
  dsimp only
  rw [there]
  dsimp only
  rw [if_pos (by simp [phase, set_]), runs]
  rfl

/-- A member that stays away past its time fails the set-up. -/
theorem memberTimeout_fails {s : State} {part cid id : Nat} {c : Cmd} (subj : s.subj = .of [part, cid, id])
    (there : tabGet id s.cmds = some c) (phase : c.phase = 3) (set_ : c.op = 3) (runs : ctxStops s c.gen = false) :
    ∃ t x, exec .collSetMemberTimeout s = .next t ∧ tabGet (part * 16 + cid) t.comms = some x ∧ x.state = 3 ∧ x.setCmd = none := by
  obtain ⟨x, found, setCmd, -, state, -⟩ := endSet_ends (s := s) (key := part * 16 + cid) (id := id) (st := 3) (c := c) (.inl (by decide))
  exact ⟨_, x, exec_collSetMemberTimeout subj there phase set_ runs, found, state, setCmd⟩

/-! ## Runs (R290) -/

theorem exec_fabricReduce {s : State} {id : Nat} {c : Cmd} (subj : s.subj = .of [id]) (there : tabGet id s.cmds = some c) (phase : c.phase = 7)
    (run : c.op = 4) :
    exec .fabricReduce s = .next (modCmd s id fun x => { x with values := reduceRuns (tabGetD c.comm Comm.reset s.comms) c }) := by
  have acts : exec .fabricReduce s = execFabricReduce s := rfl
  rw [acts, execFabricReduce, subj]
  dsimp only
  rw [there]
  dsimp only
  rw [if_pos (by simp [phase, run])]

theorem reduceRuns_cases (com : Comm) (c : Cmd) :
    let count := c.ctl.toNat % 2 ^ 32
    let sum (i : Nat) : Nat := fabricSum com.contract com.fmt ((List.range com.nrank).map fun r => nth c.values (r * count + i) 0)
    let kind := c.ctl.toNat / 2 ^ 36 % 16
    (kind = 0 → reduceRuns com c = (List.range count).map sum) ∧
    (kind = 1 → reduceRuns com c = (List.range (count / Nat.max 1 com.nrank)).map fun i => sum (com.rank * (count / Nat.max 1 com.nrank) + i)) ∧
    (kind = 2 → reduceRuns com c = c.values) ∧ (2 < kind → reduceRuns com c = c.values.take count) := by
  intro count sum kind
  have count_ : fld c.ctl.toNat 0 32 = count := by simp [fld, count]
  have kind_ : fld c.ctl.toNat 36 4 = kind := by simp [fld, kind]
  refine ⟨fun zero => ?_, fun one => ?_, fun two => ?_, fun more => ?_⟩
  · rw [reduceRuns, count_, kind_, zero]
    rfl
  · rw [reduceRuns, count_, kind_, one]
    rfl
  · rw [reduceRuns, count_, kind_, two]
    rfl
  · obtain ⟨n, rest⟩ : ∃ n, kind = n + 3 := ⟨kind - 3, by omega⟩
    rw [reduceRuns, count_, kind_, rest]
    rfl

theorem exec_collRunComplete {s : State} {id : Nat} {c : Cmd} (subj : s.subj = .of [id]) (there : tabGet id s.cmds = some c) (phase : c.phase = 7)
    (run : c.op = 4) : exec .collRunComplete s = .next (endRun s id c) := by
  have acts : exec .collRunComplete s = execCollRunComplete s := rfl
  rw [acts, execCollRunComplete, subj]
  dsimp only
  rw [there]
  dsimp only
  rw [if_pos (by simp [phase, run])]

theorem comms_putResultLines (s : State) (id : Nat) (c : Cmd) (bytes : List Byte) : (putResultLines s id c bytes).1.comms = s.comms := by
  unfold putResultLines
  refine foldl_keeps (P := fun acc : State × Option Trap => acc.1.comms = s.comms) (fun acc x kept => ?_) _ rfl
  obtain ⟨a, stopped⟩ := acc
  cases stopped with
  | some t => exact kept
  | none =>
    dsimp only
    split
    · exact kept
    · exact (comms_writeSpot ..).trans ((comms_aside (aside_clockPlan ..)).trans kept)

/-- A run without a trap that ends is counted. -/
theorem endRun_counts {s : State} {id : Nat} {c : Cmd} (run : c.op = 4) (trap : c.trap = none) : ∃ x, tabGet c.comm (endRun s id c).comms = some x ∧
    x.runs = ((tabGetD c.comm Comm.reset s.comms).runs + 1) % 65536 := by
  have there : (endRun s id c).comms =
      tabPut c.comm { tabGetD c.comm Comm.reset s.comms with runs := ((tabGetD c.comm Comm.reset s.comms).runs + 1) % 65536 } s.comms := by
    unfold endRun
    dsimp only
    rw [trap]
    dsimp only
    rw [if_neg (show ¬ c.op = 7 by omega)]
    exact (comms_endTransfer _ _ (c := { c with phase := 1, lines := [], trap := _ }) run).trans (comms_putResultLines ..)
  exact ⟨_, by rw [there, tabGet_put_same], rfl⟩

end Sys2Proof
end

section
/-! The ends of the transfers of tiles (R105, Table 4.4), and O47. -/

namespace Sys2Proof
open Machine

/-! ## What a return leaves of tiles and stores (R178) -/

/-- The units, and the cores without their L1 lines and their warps. -/
def workData (s : State) : Tab UnitSt × (Nat → Core) := (s.units, fun c => { coreOf s c with l1 := [], warps := [] })

theorem workData_core {s t : State} (h : workData t = workData s) (c : Nat) :
    { coreOf t c with l1 := [], warps := [] } = { coreOf s c with l1 := [], warps := [] } := (congrArg (fun x => x.2 c) h :)

theorem workData_store {s t : State} (h : workData t = workData s) (c : Nat) : (coreOf t c).store = (coreOf s c).store :=
  (congrArg Core.store (workData_core h c) :)

theorem workData_tasks {s t : State} (h : tasksOf t = tasksOf s) : workData t = workData s := by
  simp only [workData, tasksOf_units h, tasksOf_coreOf h]

theorem workData_aside {s t : State} (h : aside t = aside s) : workData t = workData s := workData_tasks (tasksOf_aside h)

theorem workData_modCore {f : Core → Core} (h : ∀ k : Core, { f k with l1 := [], warps := [] } = { k with l1 := [], warps := [] }) (s : State)
    (c : Nat) : workData (modCore s c f) = workData s := by
  have cores : (fun d => { coreOf (modCore s c f) d with l1 := [], warps := [] }) = fun d => { coreOf s d with l1 := [], warps := [] } :=
    funext fun d => coreOf_modCore_field (field := fun k : Core => { k with l1 := [], warps := [] }) h d
  unfold workData
  rw [cores]
  rfl

theorem workData_modRun (s : State) (g : Gid) (f : Run → Run) : workData (modRun s g f) = workData s := by
  cases g with
  | warp c w => exact workData_modCore (fun _ => by rfl) s c
  | kindle => rfl

theorem workData_l1Settle (s : State) (gen core : Nat) (upd : List (Nat × Nat × Nat)) (drop : List (Nat × Nat)) :
    workData (l1Settle s gen core upd drop) = workData s := by
  have dropped (a : State) (line mask : Nat) : workData (l1Drop a core line mask) = workData a := by
    unfold l1Drop
    split
    · rfl
    · exact workData_modCore (fun _ => by rfl) ..
  unfold l1Settle
  refine (foldl_same (view := workData) (f := fun a (x : Nat × Nat) => l1Drop a core x.1 x.2) (fun a x => dropped a x.1 x.2) _ _).trans ?_
  exact foldl_same (view := workData)
    (f := fun a (x : Nat × Nat × Nat) => l1Update a core x.1 x.2.1 (readAs a gen (placeOf a (128 * x.1 + x.2.1)) x.2.2))
    (fun a x => workData_modCore (fun _ => by rfl) ..) _ _

theorem workData_l1Fill (s : State) (gen core line mask : Nat) (base : Place) : workData (l1Fill s gen core line mask base) = workData s := by
  unfold l1Fill
  dsimp only
  split
  · rfl
  · exact (workData_modCore (fun _ => by rfl) ..).trans rfl

theorem workData_l1Acquire (s : State) (core scope : Nat) : workData (l1Acquire s core scope) = workData s := by
  have emptied (a : State) (c : Nat) : workData (modCore a c fun k => { k with l1 := [] }) = workData a :=
    workData_modCore (fun _ => by rfl) ..
  unfold l1Acquire
  split
  · rfl
  · split
    · split
      · rfl
      · exact foldl_same (view := workData) (f := fun a i => modCore a (core / 24 * 24 + i) fun k => { k with l1 := [] })
          (fun _ _ => emptied ..) _ s
    · exact emptied ..

theorem workData_addDeferred (s : State) (v : View) (n : Nat) (t : Trap) : workData (addDeferred s v n t) = workData s := by
  unfold addDeferred
  split
  · split
    · rfl
    · exact workData_modRun ..
  · exact workData_modRun ..

theorem tasksOf_captureData (l : Nat) : ∀ (n : Nat) (b : List Byte) (s : State), tasksOf (captureData s l n b) = tasksOf s
  | 0, _, _ => rfl
  | n + 1, b, s => by
    unfold captureData
    split
    · rfl
    · split
      · rfl
      · exact (tasksOf_captureData l n _ _).trans (tasksOf_unlogged (appendEntry_spec ..).1)

theorem tasksOf_inputReturned (s : State) (q : Req) : tasksOf (inputReturned s q) = tasksOf s := by
  unfold inputReturned
  dsimp only
  split
  · rfl
  · split
    · exact tasksOf_capture ..
    · split
      · exact (tasksOf_modLaunch ..).trans (tasksOf_capture ..)
      · split
        · exact (tasksOf_captureData ..).trans (tasksOf_capture ..)
        · exact tasksOf_capture ..

/-- What is left to do once a result is written: input, acquire, slot and deferred condition. -/
def afterResult (q : Req) (v : View) (r : State) : State :=
  let s2 := inputReturned r q
  let s3 := if q.acq = 0 || v.kc then s2 else l1Acquire s2 v.core q.acq
  let s4 := match q.slot with | some n => slotSub s3 v.gid n | none => s3
  match q.fault with
  | some t => addDeferred s4 v (q.slot.getD 3) t
  | none => s4

theorem workData_afterResult (q : Req) (v : View) (r : State) : workData (afterResult q v r) = workData r := by
  have input : workData (inputReturned r q) = workData r := workData_tasks (tasksOf_inputReturned r q)
  have acquired : workData (if q.acq = 0 || v.kc then inputReturned r q else l1Acquire (inputReturned r q) v.core q.acq) = workData r := by
    split
    · exact input
    · exact (workData_l1Acquire ..).trans input
  unfold afterResult
  dsimp only
  generalize (if q.acq = 0 || v.kc then inputReturned r q else l1Acquire (inputReturned r q) v.core q.acq) = a at acquired
  have counted : workData (match q.slot with | some n => slotSub a v.gid n | none => a) = workData r := by
    split
    · exact (workData_modRun ..).trans acquired
    · exact acquired
  split
  · exact (workData_addDeferred ..).trans counted
  · exact counted

/-- A request that returns: with its result where its group is there, in no halt and not cancelled, and else with none. -/
theorem workData_returnReq {s : State} {id : Nat} {q : Req} (there : tabGet id s.reqs = some q) : workData (returnReq s id) = workData s ∨
    ∃ r v, workData r = workData s ∧ workData (returnReq s id) = workData (putResult r v q) := by
  have settled : workData (l1Settle { s with reqs := tabDel id s.reqs } q.gen q.core q.upd q.drop) = workData s := workData_l1Settle ..
  unfold returnReq
  rw [there]
  dsimp only
  split
  · exact .inl settled
  · next v _ =>
    have filled : workData (q.fills.foldl (fun a (x : Nat × Nat) => l1Fill a q.gen v.core x.1 x.2 (placeOf a (128 * x.1)))
        (l1Settle { s with reqs := tabDel id s.reqs } q.gen q.core q.upd q.drop)) = workData s :=
      (foldl_same (view := workData) (f := fun a (x : Nat × Nat) => l1Fill a q.gen v.core x.1 x.2 (placeOf a (128 * x.1)))
        (fun _ _ => workData_l1Fill ..) _ _).trans settled
    generalize q.fills.foldl (fun a (x : Nat × Nat) => l1Fill a q.gen v.core x.1 x.2 (placeOf a (128 * x.1)))
      (l1Settle { s with reqs := tabDel id s.reqs } q.gen q.core q.upd q.drop) = r at filled ⊢
    split
    · exact .inl filled
    · by_cases cancelled : isCancelled r v = true
      · rw [if_pos cancelled]
        exact .inl ((workData_afterResult q v r).trans filled)
      · rw [if_neg cancelled]
        exact .inr ⟨r, v, filled, workData_afterResult q v _⟩

/-- A request whose result changes nothing of them leaves units and cores as it returns. -/
theorem workData_returnReq_quiet {s : State} {id : Nat} {q : Req} (there : tabGet id s.reqs = some q)
    (quiet : ∀ a v, workData (putResult a v q) = workData a) : workData (returnReq s id) = workData s := by
  obtain still | ⟨r, v, before, after⟩ := workData_returnReq there
  · exact still
  · exact after.trans ((quiet r v).trans before)

/-! ## The entry of a tile (R104) -/

theorem tileNow_congr {s t : State} (h : workData t = workData s) (u j : Nat) : tileNow t u j = tileNow s u j := by
  have units : t.units = s.units := (congrArg (·.1) h :)
  have tiles (c : Nat) : (coreOf t c).tiles = (coreOf s c).tiles := (congrArg Core.tiles (workData_core h c) :)
  simp only [tileNow, unitOf, units, tiles]

theorem rising_tabPut {α : Type} (k : Nat) (x : α) : ∀ {t : Tab α} {lo : Nat}, Safety.rising t lo → lo ≤ k → Safety.rising (tabPut k x t) lo
  | [], _, _, low => ⟨low, trivial⟩
  | (j, y) :: t, lo, ⟨first, rest⟩, low => by
    rw [tabPut]
    split
    · next before => exact ⟨low, before, rest⟩
    · split
      · next same => exact ⟨low, by rw [← same]; exact rest⟩
      · exact ⟨first, rising_tabPut k x rest (by omega)⟩

theorem rising_tabSet {α : Type} [DecidableEq α] {t : Tab α} {lo k : Nat} (d x : α) (h : Safety.rising t lo) (low : lo ≤ k) :
    Safety.rising (tabSet d k x t) lo := by
  unfold tabSet
  split
  · exact rising_tabDel k h
  · exact rising_tabPut k x h low

section
variable {s : State} {u : UnitSt} {unit_ t : Nat} (hu : unitOf s unit_ = some u) (rising : Safety.rising (coreOf s u.core).tiles 0)
include hu rising

theorem tileNow_setTileState {st : Nat} (small : st < 4) : tileNow (setTileState s unit_ t st) unit_ t = withState (tileNow s unit_ t) st := by
  have entry := tileNow_setTile hu rising (withState_small (tileNow_small s unit_ t) small) (t := t)
  refine Eq.trans ?_ entry
  have later (r : State) (f : Core → Core) (tiles : ∀ k, (f k).tiles = k.tiles) (c : Nat) :
      tileNow (modCore r c f) unit_ t = tileNow r unit_ t := by
    simp only [tileNow, unitOf, coreOf_modCore_field (field := Core.tiles) tiles]
    rfl
  unfold setTileState
  rw [hu]
  exact later _ _ (fun _ => by rfl) _

theorem rising_setTileState (st : Nat) : Safety.rising (coreOf (setTileState s unit_ t st) u.core).tiles 0 := by
  have acts : (coreOf (setTileState s unit_ t st) u.core).tiles =
      tabSet 0 (u.tileBase + t) (BitVec.ofNat 32 (withState (tileNow s unit_ t) st)) (coreOf s u.core).tiles := by
    unfold setTileState setTile
    rw [hu]
    dsimp only
    rw [coreOf_modCore, coreOf_modCore]
  rw [acts]
  exact rising_tabSet _ _ rising (Nat.zero_le _)

end

theorem unitOf_setTileState (s : State) (u t st n : Nat) : unitOf (setTileState s u t st) n = unitOf s n :=
  (congrArg (fun x : State => unitOf x n) (setTileState_frame s u t st) :)

theorem reqs_setTile (s : State) (u t e : Nat) : (setTile s u t e).reqs = s.reqs := by
  unfold setTile
  split <;> rfl

theorem stored_setTile (s : State) (u t e c : Nat) : (coreOf (setTile s u t e) c).store = (coreOf s c).store := by
  unfold setTile
  split
  · exact coreOf_modCore_field (field := Core.store) (fun _ => by rfl) ..
  · rfl

theorem stored_setTileState (s : State) (u t st c : Nat) : (coreOf (setTileState s u t st) c).store = (coreOf s c).store := by
  unfold setTileState
  dsimp only
  split
  · exact (coreOf_modCore_field (field := Core.store) (fun _ => by rfl) ..).trans (stored_setTile ..)
  · exact stored_setTile ..

/-- Stamp and state of an entry that takes a stamp. -/
theorem withStamp_fields {e st : Nat} (he : e < 2 ^ 32) (small : st < 16) : withStamp e st < 2 ^ 32 ∧ withStamp e st / 2 ^ 26 % 4 = e / 2 ^ 26 % 4 ∧
    tileStamp (withStamp e st) = st := by
  simp only [withStamp, tileStamp, fld]
  omega

section
variable {s : State} {id tile : Nat} {q : Req} {u : UnitSt} (subj : s.subj = .of [id]) (there : tabGet id s.reqs = some q)
  (hu : unitOf s q.unit = some u) (ended_ : transferIsOver s q = true) (clean : q.fault = none) (rising : Safety.rising (coreOf s u.core).tiles 0)
include subj there hu ended_ clean rising

/-- A fill that ends leaves its tile ready, with its stamp. -/
theorem fill_ends {stamp : Nat} (kind : q.kind = .tget tile stamp) (small : stamp < 16) : ∃ t, exec .tileFillEnd s = .next t ∧
    tileNow t q.unit tile / 2 ^ 26 % 4 = 2 ∧ tileStamp (tileNow t q.unit tile) = stamp := by
  have acts : exec .tileFillEnd s = execTileFillEnd s := rfl
  obtain ⟨r, hr⟩ : ∃ r, r = setTileState s q.unit tile 2 := ⟨_, rfl⟩
  have ended : execTileFillEnd s = .next (returnReq (releaseTile (setTile r q.unit tile (withStamp (tileNow r q.unit tile) stamp))
      q.unit tile id) id) := by
    rw [execTileFillEnd, subj]
    unfold endFill
    dsimp only
    rw [there]
    dsimp only
    rw [kind]
    dsimp only
    rw [ended_, clean, hr]
    rfl
  have entry : tileNow r q.unit tile = withState (tileNow s q.unit tile) 2 := by
    rw [hr]
    exact tileNow_setTileState hu rising (by decide)
  have low : tileNow r q.unit tile < 2 ^ 32 := tileNow_small ..
  obtain ⟨fits, state, stamped⟩ := withStamp_fields low small
  have stands : tileNow (setTile r q.unit tile (withStamp (tileNow r q.unit tile) stamp)) q.unit tile =
      withStamp (tileNow r q.unit tile) stamp := by
    refine tileNow_setTile (x := u) (lo := 0) ?_ ?_ fits
    · rw [hr, unitOf_setTileState]
      exact hu
    · rw [hr]
      exact rising_setTileState hu rising 2
  obtain ⟨a, ha⟩ : ∃ a, a = setTile r q.unit tile (withStamp (tileNow r q.unit tile) stamp) := ⟨_, rfl⟩
  rw [← ha] at ended stands
  have open_ : tabGet id (releaseTile a q.unit tile id).reqs = some q := by
    have joined : (releaseTile a q.unit tile id).reqs = a.reqs := (congrArg State.reqs (aside_joinClock ..) :)
    rw [joined, ha, reqs_setTile, hr, show (setTileState s q.unit tile 2).reqs = s.reqs from
      (congrArg State.reqs (setTileState_frame s q.unit tile 2) :), there]
  have last := tileNow_congr ((workData_returnReq_quiet open_ fun b v => by rw [putResult, kind]).trans (workData_aside (aside_joinClock ..)))
    q.unit tile
  refine ⟨_, acts.trans ended, ?_⟩
  rw [last, stands]
  refine ⟨?_, stamped⟩
  rw [state, entry]
  exact state_withState (by decide)

/-- A drain that ends leaves its tile empty and the store of its core as it was. -/
theorem drain_ends (kind : q.kind = .tdrn tile) : ∃ t, exec .tileDrainEnd s = .next t ∧
    tileNow t q.unit tile / 2 ^ 26 % 4 = 0 ∧ (coreOf t u.core).store = (coreOf s u.core).store := by
  have acts : exec .tileDrainEnd s = execTileDrainEnd s := rfl
  obtain ⟨r, hr⟩ : ∃ r, r = setTileState s q.unit tile 0 := ⟨_, rfl⟩
  have ended : execTileDrainEnd s = .next (returnReq (releaseTile r q.unit tile id) id) := by
    rw [execTileDrainEnd, subj]
    unfold endDrain
    dsimp only
    rw [there]
    dsimp only
    rw [kind]
    dsimp only
    rw [ended_, clean, hr]
    rfl
  have open_ : tabGet id (releaseTile r q.unit tile id).reqs = some q := by
    have joined : (releaseTile r q.unit tile id).reqs = r.reqs := (congrArg State.reqs (aside_joinClock ..) :)
    rw [joined, hr, show (setTileState s q.unit tile 0).reqs = s.reqs from
      (congrArg State.reqs (setTileState_frame s q.unit tile 0) :), there]
  have kept := (workData_returnReq_quiet open_ fun b v => by rw [putResult, kind]).trans (workData_aside (aside_joinClock ..))
  refine ⟨_, acts.trans ended, ?_, ?_⟩
  · rw [tileNow_congr kept, hr, tileNow_setTileState hu rising (by decide)]
    exact state_withState (by decide)
  · exact (workData_store kept u.core).trans (by rw [hr]; exact stored_setTileState ..)

end

/-! ## The obligation -/

/-- Settles O47: the head of a queue is refused through the return of its slot or begins with its plan of lines; the end of a transfer and of
its completion write come down to the slot and the flag; a tile's entry stands through the return of its request; set-ups and runs
through what leaves the communicators; messages through writes of device memory. -/
theorem engineEvents : Obligations.EngineEvents := by
  unfold Obligations.EngineEvents
  intro falls
  refine ⟨?_, ?_, ?_, ?_, ?_, ?_, ?_⟩
  · intro s e id c subj head fresh plain packet
    refine ⟨fun n v refused owner follow now_ goes => ?_, head_begins subj head fresh plain, head_found subj head fresh plain⟩
    exact head_refused subj head fresh plain refused ⟨packet, owner, follow, now_⟩ goes
  · intro s id c v subj there owner packet plain follow tile now_ flag flagged ended
    have h : Returns s c v := ⟨packet, owner, follow, now_⟩
    refine ⟨fun done trap rel bare => ?_, fun done trap rel uses events a ord path spot wf once => ?_, fun y done trap goes => ?_, fun open_ => ?_,
      fun done rel => ?_⟩
    · have acts := exec_engineTransferEnd subj there
      rw [if_pos done, endTransfer_plain tile trap rel follow packet plain, if_neg (by rcases bare with h | h <;> simp [h])] at acts
      exact ⟨_, acts, flagCmd_ends h id rel⟩
    · have acts := exec_engineTransferEnd subj there
      rw [if_pos done, endTransfer_plain tile trap rel follow packet plain, if_pos (by simp [uses, events])] at acts
      exact ⟨_, acts, completionWrite_writes there rel spot wf once⟩
    · have acts := exec_engineTransferEnd subj there
      rw [if_pos done, endTransfer_traps tile trap] at acts
      exact ⟨_, acts, (returnCmd_defers h goes id y).1⟩
    · have acts := exec_engineTransferEnd subj there
      rwa [if_neg (by simp [open_])] at acts
    · have acts := exec_completionWriteAck subj there
      rw [if_pos done] at acts
      exact ⟨_, acts, flagCmd_ends h id rel⟩
  · intro s id tile q u subj there hu due rest acked clean rising entry state
    have ended_ : transferIsOver s q = true := by
      simpa [transferIsOver, due, rest] using acked
    exact ⟨fun stamp kind small => fill_ends subj there hu ended_ clean rising kind small, drain_ends subj there hu ended_ clean rising⟩
  · intro s part cid st id c subj key com wrong set_ there phase comm
    have acts := exec_collSetResult subj set_ there phase
    refine ⟨fun zero bad => ?_, fun fine => ?_⟩
    · subst zero
      exact ⟨_, _, acts, (endSet_disagrees bad).choose_spec⟩
    · obtain ⟨x, found, setCmd, mask, state, contract⟩ := endSet_ends (id := id) (c := c) fine
      refine ⟨_, x, acts, found, setCmd, mask, ?_, state, contract⟩
      rw [mask]
      exact setResult_status com st
  · intro s part cid id c subj there phase set_ runs
    exact memberTimeout_fails subj there phase set_ runs
  · intro s id c subj there phase run com count sum kind
    obtain ⟨zero, one, two, more⟩ := reduceRuns_cases com c
    refine ⟨⟨_, { c with values := reduceRuns com c }, exec_fabricReduce subj there phase run, ?_, zero, one, two, more, rfl⟩, fun trap => ?_⟩
    · change tabGet id (tabMod id _ s.cmds) = _
      rw [tabGet_mod_same, there]
      rfl
    · obtain ⟨x, counted⟩ := endRun_counts (s := s) (id := id) run trap
      exact ⟨_, x, exec_collRunComplete subj there phase run, counted⟩
  · intro s m subj
    have acts := exec_fabricMessageReceive subj
    refine ⟨fun bad => ⟨_, acts, receive_untagged bad⟩, fun src seq addr len good body => ?_, ?_⟩
    · have served : receiveMessage s m = serveRemote s addr [] := by
        simp only [receiveMessage, good, body, Bool.not_true, Bool.false_eq_true, if_false]
      exact ⟨_, acts.trans (by rw [served]), serveRemote_reads s addr⟩
    intro apart
    refine ⟨fun src seq addr bytes good body some_ wf once => ?_, ?_⟩
    · have served : receiveMessage s m = serveRemote s addr bytes := by
        simp only [receiveMessage, good, body, Bool.not_true, Bool.false_eq_true, if_false]
      exact ⟨_, acts.trans (by rw [served]), serveRemote_writes some_ wf once⟩
    · intro src seq addr op flt wide cmp val good body wf p n old once clean swaps
      have served : receiveMessage s m = atomicRemote s addr op flt wide cmp val := by
        simp only [receiveMessage, good, body, Bool.not_true, Bool.false_eq_true, if_false]
      exact ⟨_, acts.trans (by rw [served]), atomicRemote_writes rfl wf once clean swaps⟩

end Sys2Proof
end

section
/-! The ends of the work of the array (R309-R313), the first part of O48. -/

namespace Sys2Proof
open Machine

/-! ## Rows of bytes in a memory -/

/-- A memory after rows of bytes are written a pitch apart. -/
def rowsWritten (pitch : Nat) : Nat → List (List Byte) → Memory → Memory
  | _, [], m => m
  | a, b :: l, m => rowsWritten pitch (a + pitch) l (m.write a b)

theorem rowsWritten_wf (pitch : Nat) : ∀ (l : List (List Byte)) (a : Nat) {m : Memory}, m.wf = true → (rowsWritten pitch a l m).wf = true
  | [], _, _, wf => wf
  | b :: l, a, _, wf => rowsWritten_wf pitch l (a + pitch) (write_wf b a wf)

/-- Rows no longer than the pitch keep what lies before them and behind them. -/
theorem rowsWritten_outside {pitch c : Nat} : ∀ {l : List (List Byte)} {a : Nat} {m : Memory}, m.wf = true → (∀ b ∈ l, b.length ≤ pitch) →
    (c < a ∨ a + l.length * pitch ≤ c) → (rowsWritten pitch a l m).get c = m.get c
  | [], _, _, _, _, _ => rfl
  | b :: l, a, m, wf, short, out => by
    have first := short b List.mem_cons_self
    have lines : (b :: l).length * pitch = l.length * pitch + pitch := by rw [List.length_cons, Nat.succ_mul]
    rw [rowsWritten, rowsWritten_outside (write_wf b a wf) (fun x hx => short x (List.mem_cons_of_mem b hx)) (by omega),
      get_write_outside b a c wf (by omega)]

/-- Each byte of a row stands at its place. -/
theorem rowsWritten_inside {pitch : Nat} {x : Byte} : ∀ {l : List (List Byte)} {a j i : Nat} {b : List Byte} {m : Memory}, m.wf = true →
    (∀ b ∈ l, b.length ≤ pitch) → l[j]? = some b → b[i]? = some x → (rowsWritten pitch a l m).get (a + j * pitch + i) = x
  | c :: l, a, 0, i, b, m, wf, short, row, byte => by
    obtain rfl : c = b := by simpa using row
    obtain ⟨low, rfl⟩ := List.getElem?_eq_some_iff.mp byte
    have first := short c List.mem_cons_self
    rw [rowsWritten, rowsWritten_outside (write_wf c a wf) (fun x hx => short x (List.mem_cons_of_mem c hx)) (by omega), Nat.zero_mul,
      Nat.add_zero, get_write c a i wf low]
  | c :: l, a, j + 1, i, b, m, wf, short, row, byte => by
    have at_ : a + (j + 1) * pitch + i = a + pitch + j * pitch + i := by rw [Nat.succ_mul]; omega
    rw [rowsWritten, at_]
    exact rowsWritten_inside (write_wf c a wf) (fun x hx => short x (List.mem_cons_of_mem c hx)) (by simpa using row) byte

/-! ## Work that ends -/

theorem workData_modThr (s : State) (g : Gid) (l : Nat) (f : Thread → Thread) : workData (modThr s g l f) = workData s := by
  cases g with
  | warp c w => exact workData_modCore (fun _ => by rfl) s c
  | kindle => rfl

/-- The flags of a result leave units and cores. -/
theorem workData_putResult {s : State} {v : View} {q : Req} {n} {items : List (Nat × Nat × Word)} (kind : q.kind = .matrix n items) :
    workData (putResult s v q) = workData (putItems s v q items) := by
  rw [putResult, kind]
  dsimp only
  split
  · rfl
  · exact foldl_same (view := workData) (f := fun b l => modThr b v.gid l fun t => { t with flags := t.flags ||| n })
      (fun _ _ => workData_modThr ..) _ _

/-- The request of work that ends: its flags and lane results, and the trap of what stopped it. -/
def endedRequest (m : MatOp) (fl : Nat) (items : List (Nat × Nat × Word)) (q : Req) : Req :=
  { q with kind := .matrix (flagBits (m.flags ||| if m.bad.isSome then 0 else fl)) items
           fault := match m.stop with | some t => some t | none => matPoison m 0 }

theorem endMat_alone {s : State} {id : Nat} {m : MatOp} (alone : m.parent = none) (fl : Nat) (items : List (Nat × Nat × Word)) :
    endMat s id m fl items = returnReq (modReq { s with matOps := tabDel id s.matOps } id (endedRequest m fl items)) id := by
  unfold endMat
  dsimp only
  rw [alone]
  rfl

theorem returnReq_absent {s : State} {id : Nat} (gone : tabGet id s.reqs = none) : returnReq s id = s := by
  unfold returnReq
  rw [gone]

/-- Work without lane results leaves units and cores as it ends. -/
theorem workData_endMat (s : State) (id : Nat) {m : MatOp} (alone : m.parent = none) (fl : Nat) : workData (endMat s id m fl []) = workData s := by
  have flagged (a : State) (v : View) {q : Req} {n} (kind : q.kind = .matrix n []) : workData (putResult a v q) = workData a := by
    have bare : putItems a v q [] = a := by
      unfold putItems
      dsimp only
      rw [if_neg (by simp [changes])]
      rfl
    rw [workData_putResult kind, bare]
  rw [endMat_alone alone]
  cases there : tabGet id s.reqs with
  | none =>
    rw [returnReq_absent]
    · rfl
    · change tabGet id (tabMod id _ s.reqs) = none
      rw [tabGet_mod_same, there]
      rfl
  | some q =>
    refine (workData_returnReq_quiet (q := endedRequest m fl [] q) ?_ fun a v => flagged a v rfl).trans rfl
    change tabGet id (tabMod id _ s.reqs) = _
    rw [tabGet_mod_same, there]
    rfl

theorem matDue_due {s : State} {id : Nat} {m : MatOp} {kinds : List Nat} (subj : s.subj = .of [id]) (there : tabGet id s.matOps = some m)
    (kind : kinds.contains m.kind = true) (due : m.due ≤ s.now) : matDue s kinds = some (id, m) := by
  unfold matDue
  rw [subj]
  dsimp only
  rw [there]
  dsimp only
  rw [if_pos (by rw [kind]; simpa using due)]

/-! ## Loads and swaps (R309, R310) -/

theorem modPlanes_here {s : State} {core unit gen : Nat} (here : savedPlanes s core unit gen = none) (f : Plane × Plane → Plane × Plane) :
    modPlanes s core unit gen f = modCore s core fun k => { k with act := (f (k.act, k.shadow)).1, shadow := (f (k.act, k.shadow)).2 } := by
  unfold modPlanes
  rw [here]

theorem loadColumns_data (p : Plane) (m : MatOp) : (loadColumns p m).data = rowsWritten 64 (64 * m.base) m.rows p.data := by
  have written (l : List (List Byte)) : ∀ (base : Nat) (d : Memory),
      (l.mapIdx fun j b => (base + j, b)).foldl (fun d (x : Nat × List Byte) => d.write (64 * x.1) x.2) d = rowsWritten 64 (64 * base) l d := by
    induction l with
    | nil => exact fun _ _ => rfl
    | cons b l ih =>
      intro base d
      rw [List.mapIdx_cons, List.foldl_cons, rowsWritten, ← Nat.mul_succ, ← ih]
      simp only [Nat.add_zero, Nat.succ_eq_add_one, Nat.add_assoc, Nat.add_comm 1]
  exact written m.rows m.base p.data

section
variable {s : State} {id : Nat} {m : MatOp} (subj : s.subj = .of [id]) (there : tabGet id s.matOps = some m) (due : m.due ≤ s.now)
  (alone : m.parent = none)
include subj there due alone

/-- A load fills the shadow plane. -/
theorem load_ends (kind : m.kind = 0) (bad : m.bad = none) (here : savedPlanes s m.core m.unit m.gen = none) (full : ∀ b ∈ m.rows, b.length = 64)
    (wf : (coreOf s m.core).shadow.data.wf = true) : ∃ t, exec .stationaryLoadComplete s = .next t ∧ (coreOf t m.core).shadow.fmt = m.src.fmt ∧
      (coreOf t m.core).shadow.xv = BitVec.ofNat 16 m.src.xv ∧ (coreOf t m.core).act = (coreOf s m.core).act ∧
      (∀ (j : Nat) (b : List Byte) (i : Nat) (x : Byte), m.rows[j]? = some b → b[i]? = some x →
        (coreOf t m.core).shadow.data.get (64 * (m.base + j) + i) = x) ∧
      ∀ a, (a / 64 < m.base ∨ m.base + m.rows.length ≤ a / 64) →
        (coreOf t m.core).shadow.data.get a = (coreOf s m.core).shadow.data.get a := by
  have acts : exec .stationaryLoadComplete s = execStationaryLoadComplete s := rfl
  rw [execStationaryLoadComplete, matDue_due subj there (by rw [kind]; rfl) due] at acts
  dsimp only at acts
  rw [if_neg (by simp [bad]), modPlanes_here here] at acts
  refine ⟨_, acts, ?_⟩
  have kept := workData_core (workData_endMat (modCore s m.core fun k => { k with act := k.act, shadow := loadColumns k.shadow m }) id alone 0) m.core
  rw [coreOf_modCore] at kept
  have shadow := (congrArg Core.shadow kept :)
  have data := (congrArg Plane.data shadow).trans (loadColumns_data ..)
  have short : ∀ b ∈ m.rows, b.length ≤ 64 := fun b hb => (full b hb).le
  refine ⟨(congrArg Plane.fmt shadow :), (congrArg Plane.xv shadow :), (congrArg Core.act kept :), fun j b i x row byte => ?_, fun a out => ?_⟩
  · rw [data, show 64 * (m.base + j) + i = 64 * m.base + j * 64 + i by omega]
    exact rowsWritten_inside wf short row byte
  · rw [data]
    exact rowsWritten_outside wf short (by omega)

theorem exec_planeSwap (kind : m.kind = 1 ∨ m.kind = 2) : exec .planeSwap s = .next (endMat (swapNow s m) id m 0 []) := by
  have acts : exec .planeSwap s = execPlaneSwap s := rfl
  rw [acts, execPlaneSwap, matDue_due subj there (by rcases kind with h | h <;> rw [h] <;> rfl) due]
  dsimp only
  rw [alone]

/-- A swap exchanges the planes. -/
theorem swap_ends (kind : m.kind = 1) (here : savedPlanes s m.core m.unit m.gen = none) : ∃ t, exec .planeSwap s = .next t ∧
    (coreOf t m.core).act = (coreOf s m.core).shadow ∧ (coreOf t m.core).shadow = (coreOf s m.core).act ∧
    (coreOf t m.core).lease = (coreOf s m.core).lease := by
  refine ⟨_, exec_planeSwap subj there due alone (.inl kind), ?_⟩
  have swapped : swapNow s m = modCore s m.core fun k => { k with act := k.shadow, shadow := k.act } := by
    rw [swapNow, if_pos kind, modPlanes_here here]
  have kept := workData_core (workData_endMat (swapNow s m) id alone 0) m.core
  rw [swapped, coreOf_modCore] at kept
  rw [swapped]
  exact ⟨(congrArg Core.act kept :), (congrArg Core.shadow kept :), (congrArg Core.lease kept :)⟩

/-- A release gives the lease up. -/
theorem release_ends (kind : m.kind = 2) (here : savedPlanes s m.core m.unit m.gen = none) (holds : (coreOf s m.core).lease = some m.unit) :
    ∃ t, exec .planeSwap s = .next t ∧ (coreOf t m.core).lease = none ∧ (coreOf t m.core).act = (coreOf s m.core).act ∧
      (coreOf t m.core).shadow = (coreOf s m.core).shadow := by
  refine ⟨_, exec_planeSwap subj there due alone (.inr kind), ?_⟩
  have given : swapNow s m = modCore s m.core fun k => if k.lease = some m.unit then { k with lease := none } else k := by
    rw [swapNow, if_neg (by omega), if_neg (by simp [kind]), here]
    rfl
  have kept := workData_core (workData_endMat (swapNow s m) id alone 0) m.core
  rw [given, coreOf_modCore, if_pos holds] at kept
  rw [given]
  exact ⟨(congrArg Core.lease kept :), (congrArg Core.act kept :), (congrArg Core.shadow kept :)⟩

end

end Sys2Proof
end

section
/-! The ends of streams and drains (R312, R313), a part of O48. -/

namespace Sys2Proof
open Machine

/-! ## Words in a list of bytes -/

/-- An element of lists of one length joined. -/
theorem flatten_getElem? {α : Type} {n i : Nat} {y : α} : ∀ {l : List (List α)} {j : Nat} {x : List α}, (∀ z ∈ l, z.length = n) →
    l[j]? = some x → x[i]? = some y → l.flatten[j * n + i]? = some y
  | z :: l, 0, x, _, row, here => by
    obtain rfl : z = x := by simpa using row
    rw [List.flatten_cons, Nat.zero_mul, Nat.zero_add, List.getElem?_append_left (List.getElem?_eq_some_iff.mp here).choose, here]
  | z :: l, j + 1, x, same, row, here => by
    have first := same z List.mem_cons_self
    have at_ : (j + 1) * n + i = z.length + (j * n + i) := by rw [first, Nat.succ_mul]; omega
    rw [List.flatten_cons, at_, List.getElem?_append_right (Nat.le_add_right ..), Nat.add_sub_cancel_left]
    exact flatten_getElem? (fun w hw => same w (List.mem_cons_of_mem z hw)) (by simpa using row) here

theorem flatten_length {α : Type} {n : Nat} : ∀ {l : List (List α)}, (∀ z ∈ l, z.length = n) → l.flatten.length = l.length * n
  | [], _ => by simp
  | z :: l, same => by
    rw [List.flatten_cons, List.length_append, same z List.mem_cons_self, flatten_length fun w hw => same w (List.mem_cons_of_mem z hw),
      List.length_cons, Nat.succ_mul, Nat.add_comm]

/-- Four bytes of a memory that are those of a word. -/
theorem nat_of_bytes {m : Memory} {a w : Nat} (h : ∀ (i : Nat) (x : Byte), (bytesOf 4 w)[i]? = some x → m.get (a + i) = x) :
    m.nat a 4 = w % 2 ^ 32 := by
  have same : m.read a 4 = bytesOf 4 w := by
    apply List.ext_getElem?
    intro i
    by_cases low : i < 4
    · have there : (bytesOf 4 w)[i]? = some ((bytesOf 4 w)[i]'(by rw [bytesOf_length]; exact low)) := List.getElem?_eq_getElem _
      rw [read_get _ _ _ _ low, there, h i _ there]
    · rw [List.getElem?_eq_none (by rw [read_length]; omega), List.getElem?_eq_none (by rw [bytesOf_length]; omega)]
  rw [Memory.nat, same, natOf_bytesOf]
  norm_num

theorem nat_small (m : Memory) (a : Nat) : m.nat a 4 < 2 ^ 32 := by
  have bound := natOf_lt (m.read a 4)
  rwa [read_length] at bound

/-! ## The image of a granule (R110) -/

theorem granuleImage_get (k : Core) (p : Nat) {a : Nat} (low : a < 4096) : (granuleImage k p).get a = k.acc.get (4096 * p + a) := by
  unfold granuleImage
  generalize k.acc = acc
  induction acc with
  | nil => rfl
  | cons x r ih =>
    obtain ⟨b, y⟩ := x
    rw [List.filterMap_cons]
    dsimp only
    by_cases inside : 4096 * p ≤ b ∧ b < 4096 * p + 4096
    · rw [if_pos inside]
      simp only [Memory.get]
      by_cases at_ : b = 4096 * p + a
      · rw [if_pos at_, if_pos (by omega)]
      · rw [if_neg at_, if_neg (by omega), ih]
    · rw [if_neg inside]
      simp only [Memory.get]
      rw [if_neg (by omega), ih]

theorem granuleImage_wf {k : Core} (wf : k.acc.wf = true) (p : Nat) : (granuleImage k p).wf = true := by
  have shifted : ∀ (acc : Memory) (lo : Nat), acc.wfFrom lo = true → Memory.wfFrom (acc.filterMap fun (a, b) =>
      if 4096 * p ≤ a ∧ a < 4096 * p + 4096 then some (a - 4096 * p, b) else none) (lo - 4096 * p) = true := by
    intro acc
    induction acc with
    | nil => exact fun _ _ => rfl
    | cons x r ih =>
      obtain ⟨b, y⟩ := x
      intro lo h
      simp only [Memory.wfFrom, Bool.and_eq_true, decide_eq_true_eq] at h
      obtain ⟨⟨low, listed⟩, rest⟩ := h
      have later := ih (b + 1) rest
      rw [List.filterMap_cons]
      dsimp only
      split
      · next none_ => exact wfFrom_mono (by omega) later
      · next z some_ =>
        split at some_
        · next inside =>
          cases some_
          simp only [Memory.wfFrom, Bool.and_eq_true, decide_eq_true_eq]
          exact ⟨⟨by omega, listed⟩, wfFrom_mono (by omega) later⟩
        · cases some_
  exact wfFrom_mono (by omega) (shifted k.acc 0 wf)

/-- Bytes set one after another where nothing was listed read as the list they come from. -/
theorem setAll_listed {n a : Nat} : ∀ {l m : Memory} {lo : Nat}, l.wfFrom lo = true → m.wf = true → m.get (n + a) = Memory.absent →
    (setAll m (l.map fun x => (n + x.1, x.2))).get (n + a) = l.get a
  | [], _, _, _, _, none_ => none_
  | (k, b) :: r, m, lo, listed, wf, none_ => by
    simp only [Memory.wfFrom, Bool.and_eq_true, decide_eq_true_eq] at listed
    obtain ⟨-, rest⟩ := listed
    rw [List.map_cons, setAll, List.foldl_cons, ← setAll]
    simp only [Memory.get]
    have wf' := set_wf (n + k) b wf
    by_cases at_ : k = a
    · subst at_
      have later : ∀ (l : Memory) (lo : Nat), l.wfFrom lo = true → ∀ x ∈ l, lo ≤ x.1 := by
        intro l
        induction l with
        | nil => exact fun _ _ x hx => absurd hx List.not_mem_nil
        | cons y l ih =>
          intro lo h x hx
          simp only [Memory.wfFrom, Bool.and_eq_true, decide_eq_true_eq] at h
          rcases List.mem_cons.mp hx with rfl | hx
          · exact h.1.1
          · exact (Nat.le_succ_of_le h.1.1).trans (ih _ h.2 x hx)
      rw [if_pos rfl, get_setAll_outside wf', get_set _ _ _ wf, if_pos rfl]
      intro x hx eq
      obtain ⟨y, hy, rfl⟩ := List.mem_map.mp hx
      have := later r (k + 1) rest y hy
      dsimp only at eq
      omega
    · rw [if_neg at_]
      refine setAll_listed rest wf' ?_
      rw [get_set _ _ _ wf, if_neg (by omega), none_]

/-- A granule that is replaced reads as its new contents. -/
theorem granuleImage_setGranule {s : State} {c p a : Nat} {img : Memory} (wf : (coreOf s c).acc.wf = true) (listed : img.wf = true) (low : a < 4096) :
    (granuleImage (coreOf (setGranule s c p img) c) p).get a = img.get a := by
  have acc : (coreOf (setGranule s c p img) c).acc = setAll ((coreOf s c).acc.clear (4096 * p) 4096) (img.map fun x => (4096 * p + x.1, x.2)) := by
    rw [setGranule, coreOf_modCore, zeroGranule, coreOf_modCore, setAll, List.foldl_map]
  rw [granuleImage_get _ _ low, acc]
  refine setAll_listed listed (clear_wf _ _ wf) ?_
  rw [get_clear, if_pos (by omega)]

/-- A unit holds a physical granule. -/
def holdsPhys (s : State) (unit p : Nat) : Bool := ((unitOf s unit).map fun u => u.gmap.any fun x => x.2 = p).getD false

theorem holdsPhys_of {s : State} {unit p : Nat} {u : UnitSt} (hu : unitOf s unit = some u) (holds : ∃ g, (g, p) ∈ u.gmap) :
    holdsPhys s unit p = true := by
  obtain ⟨g, mem⟩ := holds
  rw [holdsPhys, hu]
  exact List.any_eq_true.mpr ⟨_, mem, by simp⟩

theorem granuleOf_held {s : State} {core unit gen p : Nat} (held : holdsPhys s unit p = true) :
    granuleOf s core unit gen p = granuleImage (coreOf s core) p := by
  unfold granuleOf
  exact if_pos held

/-- A granule that its unit holds and that is written in place reads as written. -/
theorem moveGranule_held {s : State} {core unit gen p a : Nat} {img : Memory} (held : holdsPhys s unit p = true) (fits : p < 64)
    (wf : (coreOf s core).acc.wf = true) (listed : img.wf = true) (w : Nat → Bool) (low : a < 4096) :
    (granuleImage (coreOf (moveGranule s core unit gen p p img w) core) p).get a = img.get a := by
  have put : putGranule s core unit gen p img = setGranule s core p img := by
    unfold putGranule
    exact if_pos held
  have acc : (coreOf (moveGranule s core unit gen p p img w) core).acc = (coreOf (setGranule s core p img) core).acc := by
    unfold moveGranule
    rw [if_neg (by omega), put]
    dsimp only
    split
    · exact coreOf_modCore_field (field := Core.acc) (fun _ => by rfl) ..
    · rfl
  rw [granuleImage_congr acc, granuleImage_setGranule wf listed low]

/-! ## Streams (R312) -/

/-- A word of the row that a stream adds to a granule. -/
theorem streamGranule_word {m : MatOp} {img : Memory} {b : List Byte} {sc : List Nat} {c : Nat} (rows : m.rows = [b]) (scales : m.scales = [sc])
    (float : m.src.fmt ≠ 5) (wf : img.wf = true) (low : c < 32) : (streamGranule m img 0 0).1.wf = true ∧
    (streamGranule m img 0 0).1.nat (4 * c) 4 = (rowUpdate m.contract (img.nat (4 * c) 4)
      (sliceNums m.src.fmt m.src.xv (cSubn m.contract) b sc).1 (columnNums m.plane (cSubn m.contract) c).1).1 % 2 ^ 32 := by
  obtain ⟨words, hw⟩ : ∃ words, words = (List.range 32).map fun c => (rowUpdate m.contract (img.nat (4 * c) 4)
      (sliceNums m.src.fmt m.src.xv (cSubn m.contract) b sc).1 (columnNums m.plane (cSubn m.contract) c).1).1 := ⟨_, rfl⟩
  have written : (streamGranule m img 0 0).1 = img.write 0 (words.map (bytesOf 4)).flatten := by
    rw [streamGranule, if_neg float, rows, scales, hw, ← List.flatMap_def]
    dsimp only [floatRow, nth]
    simp only [Nat.zero_mod, Nat.mul_zero, Nat.zero_add, List.zipWith_map, List.zipWith_self]
    rfl
  rw [written]
  refine ⟨write_wf _ _ wf, nat_of_bytes fun i x here => ?_⟩
  have word : (words.map (bytesOf 4))[c]? = some (bytesOf 4 (rowUpdate m.contract (img.nat (4 * c) 4)
      (sliceNums m.src.fmt m.src.xv (cSubn m.contract) b sc).1 (columnNums m.plane (cSubn m.contract) c).1).1) := by
    rw [hw, List.getElem?_map, List.getElem?_map, List.getElem?_range low]
    rfl
  have byte := flatten_getElem? (n := 4) (fun z hz => by
    obtain ⟨y, -, rfl⟩ := List.mem_map.mp hz
    exact bytesOf_length 4 y) word here
  obtain ⟨inside, rfl⟩ := List.getElem?_eq_some_iff.mp byte
  rw [← get_write _ 0 _ wf inside]
  congr 1
  omega

section
variable {s : State} {id : Nat} {m : MatOp} (subj : s.subj = .of [id]) (there : tabGet id s.matOps = some m) (due : m.due ≤ s.now)
  (alone : m.parent = none) (bad : m.bad = none)
include subj there due alone

/-- A stream of one row over one granule adds it there. -/
theorem stream_ends {u : UnitSt} {p : Nat} {b : List Byte} {sc : List Nat} (bad : m.bad = none) (kind : m.kind = 3) (one : m.count = 1)
    (blocks : m.blocks = [[(p, p)]]) (rows : m.rows = [b]) (scales : m.scales = [sc]) (float : m.src.fmt ≠ 5)
    (hu : unitOf s m.unit = some u) (holds : ∃ g, (g, p) ∈ u.gmap) (fits : p < 64) (wf : (coreOf s m.core).acc.wf = true) :
    ∃ t, exec .streamComplete s = .next t ∧ ∀ c < 32, (granuleImage (coreOf t m.core) p).nat (4 * c) 4 =
      (rowUpdate m.contract ((granuleImage (coreOf s m.core) p).nat (4 * c) 4) (sliceNums m.src.fmt m.src.xv (cSubn m.contract) b sc).1
        (columnNums m.plane (cSubn m.contract) c).1).1 % 2 ^ 32 := by
  have held := holdsPhys_of hu holds
  obtain ⟨r, fl, moved, hr⟩ : ∃ r n, addRow s m 0 = (r, n) ∧ ∃ w, r = moveGranule s m.core m.unit m.gen p p
      (streamGranule m (granuleImage (coreOf s m.core) p) 0 0).1 w ∧ n.parent = none := by
    refine ⟨_, _, rfl, fun a => decide (a / 128 = 0 % 32), ?_, alone⟩
    rw [← granuleOf_held held (gen := m.gen), blocks]
    rfl
  obtain ⟨w, hr, alone'⟩ := hr
  have acts : exec .streamComplete s = .next (endMat r id fl 0 []) := by
    have acts : exec .streamComplete s = execStreamComplete s := rfl
    rw [acts, execStreamComplete, matDue_due subj there (by rw [kind]; rfl) due]
    dsimp only
    rw [alone]
    dsimp only
    rw [finishStream, if_neg (by simp [bad]), one, moved]
    dsimp only
    rw [alone']
  refine ⟨_, acts, fun c low => ?_⟩
  have image := granuleImage_wf wf p
  obtain ⟨listed, word⟩ := streamGranule_word rows scales float image low
  have kept : (coreOf (endMat r id fl 0 []) m.core).acc = (coreOf r m.core).acc :=
    (congrArg Core.acc (workData_core (workData_endMat r id alone' 0) m.core) :)
  rw [← word, granuleImage_congr kept, hr, Memory.nat, Memory.nat]
  congr 1
  apply List.ext_getElem?
  intro i
  by_cases inside : i < 4
  · rw [read_get _ _ _ _ inside, read_get _ _ _ _ inside, moveGranule_held held fits wf listed w (by omega)]
  · rw [List.getElem?_eq_none (by rw [read_length]; omega), List.getElem?_eq_none (by rw [read_length]; omega)]

end

/-! ## Drains (R313) -/

/-- The words of a row of a drain. -/
def drainedWords (s : State) (m : MatOp) (r : Nat) : List (List Nat) :=
  m.blocks.flatten.map fun x => (List.range 32).map fun c => (granuleOf s m.core m.unit m.gen x.1).nat (128 * r + 4 * c) 4

theorem drainRow_words {s : State} {m : MatOp} (fmt : m.src.fmt = 0) (r : Nat) :
    (drainRow s m r).1 = ((drainedWords s m r).flatten.map (bytesOf 4)).flatten := by
  have plain : (fun x : Nat => bytesOf (drainSize m.src.fmt) (drainValue m x).1) = bytesOf 4 := by
    funext x
    rw [drainValue, if_pos (by simp [fmt]), fmt]
    rfl
  rw [drainRow, ← List.flatMap_def, ← plain, List.flatMap_map]
  rfl

/-- Rows written one after another to a store, a pitch apart. -/
theorem rowsStored {c pitch : Nat} {at_ fl : Nat → Nat} {row : Nat → List Byte} (apart : ∀ r, at_ (r + 1) = at_ r + pitch) :
    ∀ (n k : Nat) (a : State) (x : Nat), (coreOf ((List.range' k n).foldl (fun (y : State × Nat) r =>
      (storeWrite y.1 c (at_ r) (row r) false, y.2 ||| fl r)) (a, x)).1 c).store =
        rowsWritten pitch (at_ k) ((List.range' k n).map row) (coreOf a c).store
  | 0, _, _, _ => rfl
  | n + 1, k, a, x => by
    have store : (coreOf (storeWrite a c (at_ k) (row k) false) c).store = (coreOf a c).store.write (at_ k) (row k) := by
      rw [storeWrite, coreOf_modCore]
    rw [List.range'_succ, List.foldl_cons, List.map_cons, rowsWritten, rowsStored apart n (k + 1), apart, store]

theorem drainedWords_length {s : State} {m : MatOp} {r : Nat} : ∀ z ∈ drainedWords s m r, z.length = 32 := by
  intro z hz
  obtain ⟨x, -, rfl⟩ := List.mem_map.mp hz
  rw [List.length_map, List.length_range]

theorem bytesOf_lengths (l : List Nat) : ∀ z ∈ l.map (bytesOf 4), z.length = 4 := by
  intro z hz
  obtain ⟨y, -, rfl⟩ := List.mem_map.mp hz
  exact bytesOf_length 4 y

theorem drainRow_length {s : State} {m : MatOp} (fmt : m.src.fmt = 0) (r : Nat) : (drainRow s m r).1.length = 128 * m.blocks.flatten.length := by
  rw [drainRow_words fmt, flatten_length (bytesOf_lengths _), List.length_map, flatten_length drainedWords_length, drainedWords, List.length_map]
  omega

/-- The bytes of one word of a drained row. -/
theorem drainRow_byte {s : State} {m : MatOp} {r j c i p q : Nat} {x : Byte} (fmt : m.src.fmt = 0) (low : c < 32)
    (block : m.blocks.flatten[j]? = some (p, q)) (byte : (bytesOf 4 ((granuleOf s m.core m.unit m.gen p).nat (128 * r + 4 * c) 4))[i]? = some x) :
    (drainRow s m r).1[128 * j + 4 * c + i]? = some x := by
  have words : (drainedWords s m r)[j]? = some ((List.range 32).map fun c => (granuleOf s m.core m.unit m.gen p).nat (128 * r + 4 * c) 4) := by
    rw [drainedWords, List.getElem?_map, block]
    rfl
  have word := flatten_getElem? (i := c) drainedWords_length words (by rw [List.getElem?_map, List.getElem?_range low]; rfl)
  rw [drainRow_words fmt, show 128 * j + 4 * c + i = (j * 32 + c) * 4 + i by omega]
  exact flatten_getElem? (bytesOf_lengths _) (by rw [List.getElem?_map, word]; rfl) byte

/-- A drain of FP32 leaves the words of its granules in its rows. -/
theorem drain_leaves {s : State} {id : Nat} {m : MatOp} (subj : s.subj = .of [id]) (there : tabGet id s.matOps = some m) (due : m.due ≤ s.now)
    (alone : m.parent = none) (kind : m.kind = 4) (fmt : m.src.fmt = 0) (clean : (coreOf s m.core).accPoison = [])
    (fits : 128 * m.blocks.flatten.length ≤ m.src.pitch) (wf : (coreOf s m.core).store.wf = true) : ∃ t, exec .drainComplete s = .next t ∧
      ∀ (r j c p q : Nat), r < 32 → c < 32 → m.blocks.flatten[j]? = some (p, q) →
        (coreOf t m.core).store.nat (m.src.addr + (m.src.row0 + r) * m.src.pitch + 4 * m.base + 128 * j + 4 * c) 4 =
          (granuleOf s m.core m.unit m.gen p).nat (128 * r + 4 * c) 4 := by
  have unpoisoned : granuleBad s m 32 = none := by
    unfold granuleBad
    rw [clean]
    rfl
  have size : drainSize m.src.fmt = 4 := by rw [fmt]; rfl
  obtain ⟨r, fl, folded, store⟩ : ∃ (r : State) (fl : Nat), (List.range 32).foldl (fun (y : State × Nat) k =>
      (storeWrite y.1 m.core (m.src.addr + (m.src.row0 + k) * m.src.pitch + m.base * drainSize m.src.fmt) (drainRow s m k).1 false, y.2 ||| (drainRow s m k).2))
        (s, 0) = (r, fl) ∧ (coreOf r m.core).store = rowsWritten m.src.pitch (m.src.addr + m.src.row0 * m.src.pitch + m.base * 4)
          ((List.range 32).map fun k => (drainRow s m k).1) (coreOf s m.core).store := by
    refine ⟨_, _, rfl, ?_⟩
    have stored := rowsStored (c := m.core) (pitch := m.src.pitch) (at_ := fun k => m.src.addr + (m.src.row0 + k) * m.src.pitch + m.base * drainSize m.src.fmt)
      (fl := fun k => (drainRow s m k).2) (row := fun k => (drainRow s m k).1) (fun k => by rw [← Nat.add_assoc, Nat.succ_mul]; omega)
      32 0 s 0
    rw [List.range_eq_range', ← size]
    exact stored
  have acts : exec .drainComplete s = .next (endMat r id { m with bad := none } fl []) := by
    have acts : exec .drainComplete s = execDrainComplete s := rfl
    rw [acts, execDrainComplete, matDue_due subj there (by rw [kind]; rfl) due]
    dsimp only
    unfold finishDrain
    rw [unpoisoned]
    dsimp only
    exact congrArg (fun x : State × Nat => Host.Outcome.next (endMat x.1 id { m with bad := none } x.2 [])) folded
  refine ⟨_, acts, fun k j c p q row low block => ?_⟩
  have kept : (coreOf (endMat r id { m with bad := none } fl []) m.core).store = (coreOf r m.core).store :=
    workData_store (workData_endMat r id (m := { m with bad := none }) alone fl) m.core
  rw [kept, store, nat_of_bytes (w := (granuleOf s m.core m.unit m.gen p).nat (128 * k + 4 * c) 4) fun i x byte => ?_,
    Nat.mod_eq_of_lt (nat_small ..)]
  have inside := rowsWritten_inside (pitch := m.src.pitch) (a := m.src.addr + m.src.row0 * m.src.pitch + m.base * 4) (j := k)
    (l := (List.range 32).map fun k => (drainRow s m k).1) wf (fun b hb => by
      obtain ⟨y, -, rfl⟩ := List.mem_map.mp hb
      rw [drainRow_length fmt]
      exact fits) (by rw [List.getElem?_map, List.getElem?_range row]; rfl) (drainRow_byte fmt low block byte)
  rw [← inside]
  congr 1
  rw [Nat.add_mul]
  omega

end Sys2Proof
end

section
/-! The end of a row statistic (R325, R326), a part of O48. -/

namespace Sys2Proof
open Machine

/-! ## What a return depends on -/

/-- The units, requests and cycle, what the views of groups are read from, and the halts of contexts. -/
def returnData (s : State) : Tab UnitSt × Tab Pool × Tab Req × Nat × (Nat → Tab Warp) × (Nat → Bool) :=
  (s.units, s.pools, s.reqs, s.now, fun c => (coreOf s c).warps, fun g => ctxStops s g)

section
variable {s t : State} (h : returnData t = returnData s)
include h

theorem returnData_units : t.units = s.units := (congrArg (·.1) h :)
theorem returnData_reqs : t.reqs = s.reqs := (congrArg (·.2.2.1) h :)

theorem returnData_view (g : Gid) : view t g = view s g := by
  have pools : t.pools = s.pools := (congrArg (·.2.1) h :)
  have warps (c : Nat) : (coreOf t c).warps = (coreOf s c).warps := (congrArg (fun x => x.2.2.2.2.1 c) h :)
  cases g with
  | warp c w => simp only [view, warpOf, warps]
  | kindle c k => simp only [view, ejOf, poolOf, pools]

theorem returnData_returnsLater (u g : Nat) : returnsLater t u g = returnsLater s u g := by
  have stops : ctxStops t g = ctxStops s g := (congrArg (fun x => x.2.2.2.2.2 g) h :)
  simp only [returnsLater, stops, unitOf, returnData_units h]

theorem returnData_isCancelled (v : View) : isCancelled t v = isCancelled s v := by
  simp only [isCancelled, unitOf, returnData_units h]

end

theorem returnData_modCore {f : Core → Core} (h : ∀ k, (f k).warps = k.warps) (s : State) (c : Nat) : returnData (modCore s c f) = returnData s := by
  simp only [returnData, coreOf_modCore_field (field := Core.warps) h]
  rfl

theorem returnData_besideMemory {s t : State} (h : besideMemory t = besideMemory s) : returnData t = returnData s := (congrArg returnData h :)

theorem returnData_modCtx {f : Ctx → Ctx} (h : ∀ x, (f x).halted = x.halted ∧ (f x).haltedAt = x.haltedAt) (s : State) (g : Nat) :
    returnData (modCtx s g f) = returnData s := by
  have stops : (fun n => ctxStops (modCtx s g f) n) = fun n => ctxStops s n := by
    funext n
    simp only [ctxStops, ctxOf, modCtx, tabGet_mod]
    split
    · cases tabGet n s.ctxs with
      | none => rfl
      | some x => simp only [Option.map_some, Option.any_some, (h x).1, (h x).2]
    · rfl
  simp only [returnData, stops]
  rfl

theorem returnData_l1Settle (s : State) (gen core : Nat) (upd : List (Nat × Nat × Nat)) (drop : List (Nat × Nat)) :
    returnData (l1Settle s gen core upd drop) = returnData s := by
  have dropped (a : State) (line mask : Nat) : returnData (l1Drop a core line mask) = returnData a := by
    unfold l1Drop
    split
    · rfl
    · exact returnData_modCore (fun _ => by rfl) ..
  unfold l1Settle
  refine (foldl_same (view := returnData) (f := fun a (x : Nat × Nat) => l1Drop a core x.1 x.2) (fun a x => dropped a x.1 x.2) _ _).trans ?_
  exact foldl_same (view := returnData)
    (f := fun a (x : Nat × Nat × Nat) => l1Update a core x.1 x.2.1 (readAs a gen (placeOf a (128 * x.1 + x.2.1)) x.2.2))
    (fun a x => returnData_modCore (fun _ => by rfl) ..) _ _

theorem returnData_l1Fill (s : State) (gen core line mask : Nat) (base : Place) : returnData (l1Fill s gen core line mask base) = returnData s := by
  unfold l1Fill
  dsimp only
  split
  · rfl
  · exact (returnData_modCore (fun _ => by rfl) ..).trans rfl

/-- A request of a group that is there, in no halt and not cancelled, returns with its result. -/
theorem returnReq_writes {s : State} {id : Nat} {q : Req} {v : View} (there : tabGet id s.reqs = some q) (hv : view s q.gid = some v)
    (serial : v.serial = q.serial) (now_ : returnsLater s q.unit q.gen = false) (live : isCancelled s v = false) :
    ∃ r, workData r = workData s ∧ workData (returnReq s id) = workData (putResult r v q) := by
  have settled := returnData_l1Settle { s with reqs := tabDel id s.reqs } q.gen q.core q.upd q.drop
  have same : workData (l1Settle { s with reqs := tabDel id s.reqs } q.gen q.core q.upd q.drop) = workData s := workData_l1Settle ..
  have asks : requester (l1Settle { s with reqs := tabDel id s.reqs } q.gen q.core q.upd q.drop) q = some v := by
    rw [requester, returnData_view settled]
    exact Option.filter_eq_some_iff.mpr ⟨hv, by simpa using serial⟩
  unfold returnReq
  rw [there]
  dsimp only
  rw [asks]
  dsimp only
  have filled := (foldl_same (view := returnData) (f := fun a (x : Nat × Nat) => l1Fill a q.gen v.core x.1 x.2 (placeOf a (128 * x.1)))
    (fun _ _ => returnData_l1Fill ..) q.fills _).trans settled
  have kept := (foldl_same (view := workData) (f := fun a (x : Nat × Nat) => l1Fill a q.gen v.core x.1 x.2 (placeOf a (128 * x.1)))
    (fun _ _ => workData_l1Fill ..) q.fills _).trans same
  generalize q.fills.foldl (fun a (x : Nat × Nat) => l1Fill a q.gen v.core x.1 x.2 (placeOf a (128 * x.1)))
    (l1Settle { s with reqs := tabDel id s.reqs } q.gen q.core q.upd q.drop) = r at filled kept ⊢
  have runs : isCancelled r v = false := (returnData_isCancelled filled v).trans live
  rw [now_, runs]
  exact ⟨r, kept, workData_afterResult q v _⟩

/-! ## Words written to registers -/

theorem regAddr_lanes (page d : Nat) {l r : Nat} (h : l ≠ r) : regAddr page d r + 4 ≤ regAddr page d l ∨ regAddr page d l + 4 ≤ regAddr page d r := by
  unfold regAddr
  omega

theorem setWord_wf {m : Memory} (wf : m.wf = true) (a : Nat) (w : Word) : (m.setWord a w).wf = true := write_wf _ a wf

/-- The words of a register of several lanes. -/
def wordsSet (page d : Nat) (l : List (Nat × Word)) (m : Memory) : Memory := l.foldl (fun m x => m.setWord (regAddr page d x.1) x.2) m

theorem wordsSet_other {page d r : Nat} : ∀ {l : List (Nat × Word)} {m : Memory}, m.wf = true → (∀ x ∈ l, x.1 ≠ r) →
    (wordsSet page d l m).word (regAddr page d r) = m.word (regAddr page d r)
  | [], _, _, _ => rfl
  | x :: l, m, wf, other => by
    rw [wordsSet, List.foldl_cons, ← wordsSet, wordsSet_other (setWord_wf wf ..) fun y hy => other y (List.mem_cons_of_mem x hy)]
    exact word_setWord_other _ _ x.2 wf (regAddr_lanes page d (other x List.mem_cons_self))

theorem wordsSet_same {page d r : Nat} {w : Word} : ∀ {l : List (Nat × Word)} {m : Memory}, m.wf = true → (l.map (·.1)).Nodup → (r, w) ∈ l →
    (wordsSet page d l m).word (regAddr page d r) = w
  | x :: l, m, wf, distinct, mem => by
    obtain ⟨fresh, rest⟩ := List.nodup_cons.mp distinct
    rw [wordsSet, List.foldl_cons, ← wordsSet]
    rcases List.mem_cons.mp mem with rfl | later
    · rw [wordsSet_other (setWord_wf wf ..) fun y hy eq => fresh (List.mem_map.mpr ⟨y, hy, eq⟩)]
      exact word_setWord_same _ _ wf
    · exact wordsSet_same (setWord_wf wf ..) rest later

/-- Results of one register of a warp leave the words of its lanes in the store. -/
theorem putItems_store {s : State} {v : View} {q : Req} {c w d : Nat} (gid : v.gid = .warp c w) (idle : v.run.pend = []) (low : d < 120)
    (l : List (Nat × Word)) : (coreOf (putItems s v q (l.map fun x => (x.1, d, x.2))) c).store = wordsSet v.page d l (coreOf s c).store := by
  have lands (a : State) (iss lane : Nat) (x : Word) : putX a v iss lane d x = modCore a c fun k =>
      { clearPoison k (regAddr v.page d lane) with store := k.store.setWord (regAddr v.page d lane) x } := by
    unfold putX
    rw [idle]
    simp only [List.any_nil, Bool.false_eq_true, if_false]
    rw [landWrite, gid]
    dsimp only
    rw [if_pos low]
  have folded : ∀ (l : List (Nat × Word)) (a : State), (coreOf ((l.map fun x => (x.1, d, x.2)).foldl
      (fun a (x : Nat × Nat × Word) => putX a v q.issued x.1 x.2.1 x.2.2) a) c).store = wordsSet v.page d l (coreOf a c).store := by
    intro l
    induction l with
    | nil => exact fun _ => rfl
    | cons x l ih =>
      intro a
      rw [List.map_cons, List.foldl_cons, ih, lands, coreOf_modCore]
      rfl
  have begun (b : Bool) : (coreOf (if b then progress s v else s) c).store = (coreOf s c).store := by
    cases b with
    | false => rfl
    | true =>
      refine workData_store (t := progress s v) ?_ c
      rw [progress, gid]
      exact workData_modCore (fun _ => by rfl) ..
  exact (folded l _).trans (congrArg (wordsSet v.page d l) (begun _))

/-! ## The columns of a statistic that writes its rows (R326) -/

theorem returnData_moveGranule (s : State) (core unit gen old new : Nat) (img : Memory) (w : Nat → Bool) :
    returnData (moveGranule s core unit gen old new img w) = returnData s := by
  have saved (a : State) (off tag plain : Nat) : returnData (saveBlock a gen off tag plain).1 = returnData a := by
    unfold saveBlock
    split
    · rfl
    · split
      · rfl
      · next wrote =>
        split
        · exact returnData_besideMemory (besideMemory_vwrite wrote)
        · next again => exact (returnData_besideMemory (besideMemory_vwrite again)).trans (returnData_besideMemory (besideMemory_vwrite wrote))
  have put (a : State) : returnData (putGranule a core unit gen new img) = returnData a := by
    unfold putGranule
    dsimp only
    split
    · exact (returnData_modCore (fun _ => by rfl) ..).trans (returnData_modCore (fun _ => by rfl) ..)
    · split
      · exact (saved ..).trans (returnData_modCtx (fun _ => by exact ⟨rfl, rfl⟩) ..)
      · rfl
  unfold moveGranule
  split
  · rfl
  · dsimp only
    split
    · exact (returnData_modCore (fun _ => by rfl) ..).trans (put s)
    · exact put s

theorem moveGranule_store (s : State) (core unit gen old new : Nat) (img : Memory) (w : Nat → Bool) (c : Nat) :
    (coreOf (moveGranule s core unit gen old new img w) c).store = (coreOf s c).store := by
  have saved (a : State) (off tag plain : Nat) : (coreOf (saveBlock a gen off tag plain).1 c).store = (coreOf a c).store := by
    have wrote {b t : State} {va : Nat} {bytes : List Byte} (h : vwrite b gen va bytes = .ok t) : (coreOf t c).store = (coreOf b c).store :=
      (congrArg (fun x => (coreOf x c).store) (besideMemory_vwrite h) :)
    unfold saveBlock
    split
    · rfl
    · split
      · rfl
      · next first =>
        split
        · exact wrote first
        · next again => exact (wrote again).trans (wrote first)
  have put (a : State) : (coreOf (putGranule a core unit gen new img) c).store = (coreOf a c).store := by
    unfold putGranule
    dsimp only
    split
    · exact (coreOf_modCore_field (field := Core.store) (fun _ => by rfl) ..).trans (coreOf_modCore_field (field := Core.store) (fun _ => by rfl) ..)
    · split
      · exact (saved ..).trans rfl
      · rfl
  unfold moveGranule
  split
  · rfl
  · dsimp only
    split
    · exact (coreOf_modCore_field (field := Core.store) (fun _ => by rfl) ..).trans (put s)
    · exact put s

/-- A column of a statistic that is written leaves what a return depends on, and stores in their form. -/
theorem actColumn_keeps (s : State) (m : MatOp) (c : Nat) : returnData (actColumn s m).1 = returnData s ∧
    ((coreOf s c).store.wf = true → (coreOf (actColumn s m).1 c).store.wf = true) := by
  have stored (at_ : Nat → Nat) (bytes : Nat → List Byte) (l : List Nat) :
      returnData (l.foldl (fun a r => storeWrite a m.core (at_ r) (bytes r) false) s) = returnData s ∧
      ((coreOf s c).store.wf = true → (coreOf (l.foldl (fun a r => storeWrite a m.core (at_ r) (bytes r) false) s) c).store.wf = true) := by
    refine ⟨foldl_same (view := returnData) (f := fun a r => storeWrite a m.core (at_ r) (bytes r) false)
      (fun _ _ => returnData_modCore (fun _ => by rfl) ..) l s, fun wf => ?_⟩
    refine foldl_keeps (P := fun a : State => (coreOf a c).store.wf = true) (fun a r h => ?_) l wf
    unfold storeWrite
    by_cases here : c = m.core
    · subst here
      rw [coreOf_modCore]
      exact write_wf _ _ h
    · rw [coreOf_modCore_other _ _ here]
      exact h
  unfold actColumn
  split
  · exact ⟨rfl, id⟩
  · dsimp only
    split
    · split
      · exact ⟨returnData_moveGranule .., fun wf => by rw [moveGranule_store]; exact wf⟩
      · exact ⟨rfl, id⟩
    · exact stored ..

/-! ## The end of a row statistic -/

/-- A row statistic leaves the value of each row in the register of its lane. -/
theorem stat_ends {s : State} {id : Nat} {m : MatOp} (subj : s.subj = .of [id]) (there : tabGet id s.matOps = some m) (due : m.due ≤ s.now)
    (alone : m.parent = none) (bad : m.bad = none) {q : Req} {v : View} {c w : Nat} (kind : m.kind = 5) (asked : tabGet id s.reqs = some q)
    (hv : view s q.gid = some v) (serial : v.serial = q.serial) (gid : v.gid = .warp c w) (idle : v.run.pend = []) (live : isCancelled s v = false)
    (now_ : returnsLater s q.unit q.gen = false) (low : m.dreg < 120) (wf : (coreOf s c).store.wf = true) :
    ∃ t, exec .rowStatComplete s = .next t ∧ ∀ (r : Nat) (b : List Byte), r < 32 → m.lanes.getLsbD r = true → m.rows[r]? = some b →
      readX t v r m.dreg = BitVec.ofNat 32 (rowStat m.op m.contract (tabGetD r 0 m.eps)
        ((List.range m.count).map fun i => natOf ((b.drop (4 * i)).take 4))).1 := by
  obtain ⟨kept, stored⟩ := actColumn_keeps s m c
  obtain ⟨a, ha⟩ : ∃ a, a = (actColumn s m).1 := ⟨_, rfl⟩
  rw [← ha] at kept stored
  obtain ⟨l, hl⟩ : ∃ l : List (Nat × Word), l = ((statResults m).filter fun x => inMask m.lanes x.1).map fun x => (x.1, BitVec.ofNat 32 x.2.1) :=
    ⟨_, rfl⟩
  obtain ⟨fl, acts⟩ : ∃ fl, exec .rowStatComplete s = .next (endMat a id m fl (l.map fun x => (x.1, m.dreg, x.2))) := by
    have acts : exec .rowStatComplete s = execRowStatComplete s := rfl
    rw [acts, execRowStatComplete, matDue_due subj there (by rw [kind]; rfl) due]
    dsimp only
    rw [finishStat, if_neg (by simp [bad]), hl, List.map_map, ha]
    exact ⟨_, rfl⟩
  refine ⟨_, acts, fun r b row lane here => ?_⟩
  obtain ⟨p, hp⟩ : ∃ p, p = endedRequest m fl (l.map fun x => (x.1, m.dreg, x.2)) q := ⟨_, rfl⟩
  have open_ : tabGet id (modReq { a with matOps := tabDel id a.matOps } id (endedRequest m fl (l.map fun x => (x.1, m.dreg, x.2)))).reqs =
      some p := by
    change tabGet id (tabMod id _ a.reqs) = _
    rw [tabGet_mod_same, returnData_reqs kept, asked, hp]
    rfl
  obtain ⟨u, before, after⟩ := returnReq_writes (v := v) open_ (by rw [hp]; exact (returnData_view kept q.gid).trans hv) (by rw [hp]; exact serial)
    (by rw [hp]; exact (returnData_returnsLater kept ..).trans now_) ((returnData_isCancelled kept v).trans live)
  rw [← endMat_alone alone] at after
  have store : (coreOf (endMat a id m fl (l.map fun x => (x.1, m.dreg, x.2))) c).store = wordsSet v.page m.dreg l (coreOf a c).store := by
    have form : (coreOf u c).store = (coreOf a c).store := (workData_store before c).trans rfl
    have kind_ : p.kind = .matrix (flagBits (m.flags ||| if m.bad.isSome then 0 else fl)) (l.map fun x => (x.1, m.dreg, x.2)) := by
      rw [hp]
      rfl
    rw [workData_store after c, ← form, ← putItems_store (q := p) (s := u) gid idle low]
    exact workData_store (workData_putResult kind_) c
  have stat : (r, BitVec.ofNat 32 (rowStat m.op m.contract (tabGetD r 0 m.eps)
      ((List.range m.count).map fun i => natOf ((b.drop (4 * i)).take 4))).1) ∈ l := by
    rw [hl]
    refine List.mem_map.mpr ⟨(r, rowStat m.op m.contract (tabGetD r 0 m.eps)
      ((List.range m.count).map fun i => natOf ((b.drop (4 * i)).take 4))), List.mem_filter.mpr ⟨?_, lane⟩, rfl⟩
    obtain ⟨inside, rfl⟩ := List.getElem?_eq_some_iff.mp here
    exact List.mem_mapIdx.mpr ⟨r, inside, rfl⟩
  have distinct : (l.map (·.1)).Nodup := by
    rw [hl, List.map_map]
    have firsts : (statResults m).map (·.1) = List.range m.rows.length := by
      apply List.ext_getElem?
      intro i
      rw [statResults, List.getElem?_map, List.getElem?_mapIdx]
      by_cases inside : i < m.rows.length
      · rw [List.getElem?_eq_getElem inside, List.getElem?_range inside]
        rfl
      · rw [List.getElem?_eq_none (by omega), List.getElem?_eq_none (by rw [List.length_range]; omega)]
        rfl
    have whole : ((statResults m).map (·.1)).Nodup := by
      rw [firsts]
      exact List.nodup_range
    exact (List.filter_sublist.map _).nodup whole
  rw [readX, gid]
  dsimp only
  rw [if_pos low, store]
  exact wordsSet_same (stored wf) distinct stat

end Sys2Proof
end

section
/-! Steps of a lehr, the first-use trap and the elastic pool (R25, R87, R111, R320), and O48. -/

namespace Sys2Proof
open Machine

/-! ## A granted step (R320) -/

theorem fresh_vwrite {s t : State} {gen va : Nat} {bytes : List Byte} (h : vwrite s gen va bytes = .ok t) : t.fresh = s.fresh := by
  have wrote (a : State) (p : Place) (l : List Byte) : (writePlace a p l).fresh = a.fresh := by
    have bytes_ : ((l.mapIdx fun i b => (i, b)).foldl (fun a x => writeByte a (p.plus x.1) x.2) a).fresh = a.fresh :=
      foldl_same (view := State.fresh) (f := fun a (x : Nat × Byte) => writeByte a (p.plus x.1) x.2) (fun a x => by cases p <;> rfl) _ a
    unfold writePlace
    dsimp only
    split
    · split
      · exact bytes_
      · exact bytes_
    · exact bytes_
  refine vwrite_keeps (P := fun x => x.fresh = s.fresh) (fun a g p l same => (wrote _ p l).trans same) (fun a p n same => ?_) rfl h
  unfold breakRelease
  split
  · split
    · exact same
    · exact same
  · exact same

theorem fresh_capture (s : State) (l kind where_ aux data : Nat) : (capture s l kind where_ aux data).fresh = s.fresh := by
  have halted (a : State) (c w x : Nat) (t : Trap) (b : Option Trap) : (haltLaunch a l c w x t b).fresh = a.fresh := by
    unfold haltLaunch
    split <;> rfl
  have appended (x : Launch) (n : Nat) : (appendEntry s l x n).fresh = s.fresh := by
    unfold appendEntry
    dsimp only
    split
    · next wrote =>
      have same := fresh_vwrite wrote
      exact same
    · rfl
  unfold capture
  split
  · rfl
  · split
    · split
      · rfl
      · unfold replayMismatch
        split
        · rfl
        · exact halted ..
    · split
      · rfl
      · exact appended ..

/-- A part of a step: its number, its work and its end to come. -/
structure Part (s t : State) (due : Nat) (i : Instr) (m : MatOp) : Prop where
  fresh : t.fresh = s.fresh + 1
  work : t.matOps = tabPut s.fresh m s.matOps
  agenda : t.agenda = s.agenda ++ [⟨due, i, .of [s.fresh]⟩]

theorem addPart_adds (s : State) (due : Nat) (i : Instr) (m : MatOp) : Part s (addPart s due i m) due i m := ⟨rfl, rfl, rfl⟩

/-- A part that is made among later ones, and whose lehr changes afterwards, stands under its number with its end to come. -/
theorem Part.stands {s t r : State} {due id : Nat} {i : Instr} {m : MatOp} (h : Part s t due i m) (other : s.fresh ≠ id)
    (kept : ∀ j, j ≠ id → j < t.fresh → tabGet j r.matOps = tabGet j t.matOps) (sub : t.agenda ⊆ r.agenda) :
    tabGet s.fresh r.matOps = some m ∧ ⟨due, i, .of [s.fresh]⟩ ∈ r.agenda := by
  refine ⟨?_, sub ?_⟩
  · rw [kept _ other (by rw [h.fresh]; omega), h.work, tabGet_put_same]
  · rw [h.agenda]
    exact List.mem_append_right _ List.mem_cons_self

theorem Part.earlier {s t : State} {due j : Nat} {i : Instr} {m : MatOp} (h : Part s t due i m) (low : j < s.fresh) :
    tabGet j t.matOps = tabGet j s.matOps := by
  rw [h.work, tabGet_put_other m s.matOps (by omega)]

theorem Part.agenda_sub {s t : State} {due : Nat} {i : Instr} {m : MatOp} (h : Part s t due i m) : s.agenda ⊆ t.agenda := by
  rw [h.agenda]
  exact List.subset_append_left ..

/-- A lehr after a step whose times these are. -/
def steppedLehr (m : MatOp) (t : StepTimes) : MatOp :=
  { m with step := m.step + 1, after := t.last + 1, floor := t.last + m.f, waited := 0
           blocks := m.blocks.map fun r => r.map fun (_, q) => (q, q)
           made := [t.loaded + 1, t.swap, t.last + 1, m.srcB.fmt, nth m.made 3 0] }

/-- The load, the swap and the stream of a step. -/
def loadPart (m : MatOp) (id now_ : Nat) (t : StepTimes) : MatOp :=
  { m with parent := some id, tiles := [], quanta := [], flags := 0, bad := none, step := m.step, red := false, kind := 0, start := now_
           due := t.loaded, f := if m.srcB.fmt = 11 then m.base / 32 else 0, src := m.srcB, slice := m.slice + m.step, base := 0
           count := m.base, blocks := [] }

def swapPart (m : MatOp) (id : Nat) (t : StepTimes) : MatOp :=
  { m with parent := some id, tiles := [], quanta := [], flags := 0, bad := none, step := m.step, red := false, kind := 1, start := t.swap
           due := t.swap, blocks := [] }

def streamPart (m : MatOp) (id : Nat) (t : StepTimes) : MatOp :=
  { m with parent := some id, tiles := [], quanta := [], flags := 0, bad := none, step := m.step, red := false, kind := 3, start := t.first
           due := t.last + 12, slice := m.slice + m.step }

/-- A step's recorded wait. -/
def recordedStep (s : State) (m : MatOp) : State :=
  if m.waited = 0 then s else capture s (unitLaunchId s m.unit) 7 (clusterOf m.core) m.waited m.core

theorem runStep_eq (s : State) (id : Nat) (m : MatOp) (t : StepTimes) (times : t = stepTimes m s.now 0 m.after m.floor) : runStep s id m =
    let r := modMat (addPart (addPart (addPart (recordedStep s m) t.loaded .stationaryLoadComplete (loadPart m id s.now t))
      t.swap .planeSwap (swapPart m id t)) (t.last + 12) .streamComplete (streamPart m id t)) id fun _ => steppedLehr m t
    if m.step + 1 < m.ns then requestStep r id t.swap (steppedLehr m t) else r := by
  subst times
  rfl

theorem recordedStep_spec (s : State) (m : MatOp) : (recordedStep s m).fresh = s.fresh ∧ (recordedStep s m).matOps = s.matOps := by
  unfold recordedStep
  split
  · exact ⟨rfl, rfl⟩
  · exact ⟨fresh_capture .., (congrArg State.matOps (capture_spec ..).1 :)⟩

/-- What a granted step makes: its parts, with the steps of their ends, and the next request of its lehr. -/
theorem runStep_makes {s : State} {id : Nat} {m : MatOp} (there : tabGet id s.matOps = some m) (low : id < s.fresh) (t : StepTimes)
    (times : t = stepTimes m s.now 0 m.after m.floor) : ∃ x a b c, tabGet id (runStep s id m).matOps = some x ∧ x.step = m.step + 1 ∧
      (tabGet a (runStep s id m).matOps = some (loadPart m id s.now t) ∧ ⟨t.loaded, .stationaryLoadComplete, .of [a]⟩ ∈ (runStep s id m).agenda) ∧
      (tabGet b (runStep s id m).matOps = some (swapPart m id t) ∧ ⟨t.swap, .planeSwap, .of [b]⟩ ∈ (runStep s id m).agenda) ∧
      (tabGet c (runStep s id m).matOps = some (streamPart m id t) ∧ ⟨t.last + 12, .streamComplete, .of [c]⟩ ∈ (runStep s id m).agenda) ∧
      (m.step + 1 < m.ns → ∃ i, ⟨t.swap, i, .of [id]⟩ ∈ (runStep s id m).agenda ∧ (i = .lehrStep ∨ i = .budgetRetry)) := by
  obtain ⟨fresh, work⟩ := recordedStep_spec s m
  obtain ⟨r1, h1⟩ : ∃ r, Part (recordedStep s m) r t.loaded .stationaryLoadComplete (loadPart m id s.now t) ∧
      r = addPart (recordedStep s m) t.loaded .stationaryLoadComplete (loadPart m id s.now t) := ⟨_, addPart_adds .., rfl⟩
  obtain ⟨r2, h2⟩ : ∃ r, Part r1 r t.swap .planeSwap (swapPart m id t) ∧ r = addPart r1 t.swap .planeSwap (swapPart m id t) :=
    ⟨_, addPart_adds .., rfl⟩
  obtain ⟨r3, h3⟩ : ∃ r, Part r2 r (t.last + 12) .streamComplete (streamPart m id t) ∧
      r = addPart r2 (t.last + 12) .streamComplete (streamPart m id t) := ⟨_, addPart_adds .., rfl⟩
  obtain ⟨p1, e1⟩ := h1
  obtain ⟨p2, e2⟩ := h2
  obtain ⟨p3, e3⟩ := h3
  have acts := runStep_eq s id m t times
  dsimp only at acts
  rw [← e1, ← e2, ← e3] at acts
  have lehr : tabGet id r3.matOps = some m := by
    rw [p3.earlier (by rw [p2.fresh, p1.fresh]; omega), p2.earlier (by rw [p1.fresh]; omega), p1.earlier (by omega), work, there]
  obtain ⟨x, here, stepped, others, later, next_⟩ : ∃ x, tabGet id (runStep s id m).matOps = some x ∧ x.step = m.step + 1 ∧
      (∀ j, j ≠ id → tabGet j (runStep s id m).matOps = tabGet j r3.matOps) ∧ r3.agenda ⊆ (runStep s id m).agenda ∧
      (m.step + 1 < m.ns → ∃ i, ⟨t.swap, i, .of [id]⟩ ∈ (runStep s id m).agenda ∧ (i = .lehrStep ∨ i = .budgetRetry)) := by
    rw [acts]
    by_cases more : m.step + 1 < m.ns
    · rw [if_pos more]
      refine ⟨{ steppedLehr m t with start := t.swap, waited := 0 }, ?_, rfl, fun j other => ?_, List.subset_append_left .., fun _ =>
        ⟨if nth (steppedLehr m t).quanta (steppedLehr m t).step 0 = 0 then .lehrStep else .budgetRetry, List.mem_append_right _ List.mem_cons_self, ?_⟩⟩
      · change tabGet id (tabMod id _ (tabMod id _ r3.matOps)) = _
        rw [tabGet_mod_same, tabGet_mod_same, lehr]
        rfl
      · change tabGet j (tabMod id _ (tabMod id _ r3.matOps)) = _
        rw [tabGet_mod_other _ _ other, tabGet_mod_other _ _ other]
      · split
        · exact .inl rfl
        · exact .inr rfl
    · rw [if_neg more]
      refine ⟨steppedLehr m t, ?_, rfl, fun j other => ?_, List.Subset.refl _, fun h => absurd h more⟩
      · change tabGet id (tabMod id _ r3.matOps) = _
        rw [tabGet_mod_same, lehr]
        rfl
      · exact tabGet_mod_other _ _ other
  refine ⟨x, (recordedStep s m).fresh, r1.fresh, r2.fresh, here, stepped, p1.stands (id := id) (by omega) (fun j other low => ?_) ?_,
    p2.stands (id := id) (by rw [p1.fresh]; omega) (fun j other low => ?_) (List.Subset.trans p3.agenda_sub later),
    p3.stands (id := id) (by rw [p2.fresh, p1.fresh]; omega) (fun j other _ => others j other) later, next_⟩
  · rw [others j other, p3.earlier (by rw [p2.fresh]; omega), p2.earlier low]
  · exact List.Subset.trans p2.agenda_sub (List.Subset.trans p3.agenda_sub later)
  · rw [others j other, p3.earlier low]

/-! ## Requests for budget (R25, R320) -/

section
variable {s : State} {id : Nat} {m : MatOp} (subj : s.subj = .of [id]) (there : tabGet id s.matOps = some m) (kind : m.kind = 6)
  (more : m.step < m.ns) (due : m.start + 16 * m.waited ≤ s.now) (runs : ∀ u, unitOf s m.unit = some u → u.halted = false)
include subj there kind more due runs

theorem lehrDue_due : lehrDue s = some (id, m) := by
  have live : (unitOf s m.unit).any (·.halted) = false := by
    cases hu : unitOf s m.unit with
    | none => rfl
    | some u => exact runs u hu
  unfold lehrDue
  rw [subj]
  dsimp only
  rw [there]
  dsimp only
  rw [if_pos (by simp [kind, more, due, live])]

/-- A step whose quanta are over runs. -/
theorem step_granted (over_ : nth m.quanta m.step 0 ≤ m.waited) (bad : m.bad = none) : exec .lehrStep s = .next (runStep s id m) := by
  have acts : exec .lehrStep s = execLehrStep s := rfl
  rw [acts, execLehrStep, lehrDue_due subj there kind more due runs]
  dsimp only
  rw [if_neg (by omega), if_neg (by simp [bad])]

/-- A step that is refused waits one more quantum, and its warp counts it. -/
theorem step_refused {c w : Nat} {x : Warp} (waits : m.waited < nth m.quanta m.step 0) (gid : m.gid = .warp c w)
    (hw : warpOf s c w = some x) (serial : x.serial = m.serial) : ∃ t y, exec .budgetRetry s = .next t ∧
      tabGet id t.matOps = some { m with waited := m.waited + 1 } ∧ warpOf t c w = some y ∧
      y.stallw.toNat = Nat.min 4095 (x.stallw.toNat / 2 ^ 20 + 1) * 2 ^ 20 + x.stallw.toNat % 2 ^ 20 ∧
      t.agenda = s.agenda ++ [⟨s.now + 16, if m.waited + 1 < nth m.quanta m.step 0 then .budgetRetry else .lehrStep, .of [id]⟩] := by
  have acts : exec .budgetRetry s = .next (refuseStep s id m) := by
    have acts : exec .budgetRetry s = execBudgetRetry s := rfl
    rw [acts, execBudgetRetry, lehrDue_due subj there kind more due runs]
    dsimp only
    rw [if_pos waits]
  have refused : refuseStep s id m = schedule (modMat (modWarp s c w fun x => if x.serial = m.serial then addBudget x 1 else x) id fun x =>
      { x with waited := m.waited + 1 }) (s.now + 16) (if m.waited + 1 < nth m.quanta m.step 0 then .budgetRetry else .lehrStep) (.of [id]) := by
    unfold refuseStep
    rw [gid]
  have warp : warpOf (refuseStep s id m) c w = some (addBudget x 1) := by
    rw [refused]
    change warpOf (modWarp s c w fun x => if x.serial = m.serial then addBudget x 1 else x) c w = _
    rw [warpOf_modWarp, hw, Option.map_some, if_pos serial]
  refine ⟨_, _, acts, ?_, warp, ?_, ?_⟩
  · rw [refused]
    change tabGet id (tabMod id _ s.matOps) = _
    rw [tabGet_mod_same, there]
    rfl
  · have small : Nat.min 4095 (x.stallw.toNat / 2 ^ 20 + 1) ≤ 4095 := Nat.min_le_left ..
    rw [addBudget, BitVec.toNat_ofNat, Nat.mod_eq_of_lt]
    omega
  · rw [refused]
    rfl

end

/-! ## The first-use trap (R87, R368) -/

theorem exec_firstUseTrapReturn {s : State} {core : Nat} {f : FirstUse} (subj : s.subj = .of [core]) (first : (coreOf s core).firstUse = some f) :
    exec .firstUseTrapReturn s =
      .next (if f.ends ≤ s.now then modCore s core fun k => { k with accown := some f.gen, firstUse := none } else s) := by
  have acts : exec .firstUseTrapReturn s = execFirstUseTrapReturn s := rfl
  rw [acts, execFirstUseTrapReturn, subj]
  dsimp only
  rw [endFirstUse, first]

/-! ## The elastic pool (R111, R315) -/

/-- What the entry of a queue is told by a decision. -/
theorem elasticDone_tells {s : State} {core status : Nat} {e : ElReq} {q : Req} (asked : tabGet e.req s.reqs = some q) :
    tabGet e.req (elasticDone s core e status).reqs = some { q with kind := .kval e.kd (BitVec.ofNat 64 status), due := s.now + 8 } ∧
    ⟨s.now + 8, .loadReturn, .of [e.req]⟩ ∈ (elasticDone s core e status).agenda ∧ ¬ e ∈ (coreOf (elasticDone s core e status) core).elq := by
  obtain ⟨r, hr⟩ : ∃ r, r = if status = 0 then
      grantGranules (modCore s core fun k => { k with elq := k.elq.filter (· != e), elAt := s.now + 1 }) e.unit ((List.range e.n).map (e.base + ·))
    else modCore s core fun k => { k with elq := k.elq.filter (· != e), elAt := s.now + 1 } := ⟨_, rfl⟩
  have acts : elasticDone s core e status = decideElastic r e.req e.kd status := by rw [hr]; rfl
  have queue : (coreOf r core).elq = (coreOf s core).elq.filter (· != e) := by
    have kept (a : State) (u : Nat) (l : List Nat) : (coreOf (grantGranules a u l) core).elq = (coreOf a core).elq := by
      unfold grantGranules
      split
      · rfl
      · next x _ =>
        exact foldl_same (view := fun b => (coreOf b core).elq) (f := fun b (y : Nat × Nat) => zeroGranule b x.core y.2)
          (fun b y => coreOf_modCore_field (field := Core.elq) (fun _ => by rfl) ..) _ a
    rw [hr]
    split
    · rw [kept, coreOf_modCore]
    · rw [coreOf_modCore]
  have frame : r.reqs = s.reqs ∧ r.now = s.now := by
    rw [hr]
    split
    · exact ⟨(congrArg State.reqs (grantGranules_frame ..) :), (congrArg State.now (grantGranules_frame ..) :)⟩
    · exact ⟨rfl, rfl⟩
  rw [acts]
  refine ⟨?_, ?_, ?_⟩
  · change tabGet e.req (tabMod e.req _ r.reqs) = _
    rw [tabGet_mod_same, frame.1, asked, Option.map_some, frame.2]
  · rw [← frame.2]
    exact List.mem_append_right _ List.mem_cons_self
  · change ¬ e ∈ (coreOf r core).elq
    rw [queue]
    simp

/-- An entry that is granted has the lowest free granules under its names, reading zero. -/
theorem elasticGrant_grants {s : State} {core : Nat} {e : ElReq} {u : UnitSt} (subj : s.subj = .of [core])
    (due : elasticGrantDue s core = some e) (hu : unitOf s e.unit = some u) (home : u.core = core) :
    exec .elasticGrant s = .next (elasticDone s core e 0) ∧ ∀ j < e.n, ∀ p, (freeGranules s core)[j]? = some p →
      ((unitOf (elasticDone s core e 0) e.unit).bind fun y => tabGet (e.base + j) y.gmap) = some p ∧
      granuleImage (coreOf (elasticDone s core e 0) core) p = [] := by
  have acts : exec .elasticGrant s = execElasticGrant s := rfl
  rw [execElasticGrant, subj] at acts
  dsimp only at acts
  rw [due] at acts
  obtain ⟨r, hr⟩ : ∃ r, r = modCore s core fun k => { k with elq := k.elq.filter (· != e), elAt := s.now + 1 } := ⟨_, rfl⟩
  have free : freeGranules r u.core = freeGranules s core := by rw [hr, home]; rfl
  have enough : e.n ≤ (freeGranules r u.core).length := by
    rw [free]
    have fits : e.n ≤ (elasticFree s core).length := by
      unfold elasticGrantDue at due
      split at due
      · cases due
      · exact of_decide_eq_true (Option.filter_eq_some_iff.mp due).2
    unfold elasticFree at fits
    split at fits
    · exact fits.trans (Nat.zero_le _)
    · exact fits
  have granted := grantGranules_grants (s := r) (unit := e.unit) (g := e.base) (by rw [hr]; exact hu) enough
  have done_ : elasticDone s core e 0 = decideElastic (grantGranules r e.unit ((List.range e.n).map (e.base + ·))) e.req e.kd 0 := by
    rw [hr]
    rfl
  refine ⟨acts, fun j low p here => ?_⟩
  rw [done_]
  have here : (freeGranules r u.core)[j]? = some p := by rw [free]; exact here
  refine ⟨(granted.names j low).trans here, ?_⟩
  rw [← home]
  exact granted.zero j low p here

theorem elasticRefuse_refuses {s : State} {core : Nat} {e : ElReq} (subj : s.subj = .of [core]) (due : elasticRefuseDue s core = some e) :
    exec .elasticRefuse s = .next (elasticDone s core e 1) ∧ (elasticDone s core e 1).units = s.units ∧
      (coreOf (elasticDone s core e 1) core).acc = (coreOf s core).acc := by
  have acts : exec .elasticRefuse s = execElasticRefuse s := rfl
  rw [execElasticRefuse, subj] at acts
  dsimp only at acts
  rw [due] at acts
  have kept : (coreOf (modCore s core fun k => { k with elq := k.elq.filter (· != e), elAt := s.now + 1 }) core).acc = (coreOf s core).acc :=
    coreOf_modCore_field (field := Core.acc) (fun _ => by rfl) ..
  exact ⟨acts, rfl, kept⟩

/-! ## The obligation -/

/-- Settles O48: work that ends leaves units and cores as its effect made them, since the return of its slot does not touch them; the rows of a
load, a stream and a drain are written a pitch apart; a granted step makes three parts under fresh numbers; a decision of the elastic pool
is a grant of granules and a record in its request. -/
theorem arrayEvents : Obligations.ArrayEvents := by
  unfold Obligations.ArrayEvents
  refine ⟨?_, ?_, ?_⟩
  · intro s id m subj there due alone bad img here
    refine ⟨fun kind planes full wf => load_ends subj there due alone kind bad planes full wf, fun kind planes => swap_ends subj there due alone kind planes,
      fun kind planes holds => release_ends subj there due alone kind planes holds, ?_, ?_, ?_⟩
    · intro u p b sc kind one blocks rows scales float hu holds fits wf
      exact stream_ends subj there due alone bad kind one blocks rows scales float hu holds fits wf
    · intro kind fmt clean fits wf
      exact drain_leaves subj there due alone kind fmt clean fits wf
    · intro q v c w kind asked hv serial gid idle live now_ low wf
      exact stat_ends subj there due alone bad kind asked hv serial gid idle live now_ low wf
  · intro s id m subj there kind more due runs low quanta loaded swap last part
    refine ⟨fun over_ bad => ?_, fun waits c w x gid hw serial => step_refused subj there kind more due runs waits gid hw serial⟩
    obtain ⟨x, a, b, c, here, stepped, ⟨load, loadEnd⟩, ⟨swapped, swapEnd⟩, ⟨stream, streamEnd⟩, next_⟩ :=
      runStep_makes there low (stepTimes m s.now 0 m.after m.floor) rfl
    exact ⟨_, x, step_granted subj there kind more due runs over_ bad, here, stepped, ⟨a, _, load, rfl, rfl, rfl, rfl, loadEnd⟩,
      ⟨b, _, swapped, rfl, rfl, rfl, rfl, swapEnd⟩, ⟨c, _, stream, rfl, rfl, rfl, rfl, streamEnd⟩, next_⟩
  · intro s core subj
    refine ⟨fun f first ends => ?_, fun f first early => ?_, ?_⟩
    · have acts := exec_firstUseTrapReturn subj first
      rw [if_pos ends] at acts
      refine ⟨_, acts, ?_⟩
      rw [coreOf_modCore]
      exact ⟨rfl, rfl, rfl⟩
    · have acts := exec_firstUseTrapReturn subj first
      rwa [if_neg (by omega)] at acts
    · intro e q asked told
      refine ⟨fun due u hu home => ?_, fun due => ?_⟩
      · obtain ⟨acts, grants⟩ := elasticGrant_grants subj due hu home
        exact ⟨_, acts, elasticDone_tells asked, grants⟩
      · obtain ⟨acts, units, acc⟩ := elasticRefuse_refuses subj due
        exact ⟨_, acts, elasticDone_tells asked, units, acc⟩

end Sys2Proof
end

section
/-! The registers of a function, its queues and their instances (R330-R337, R348), and O50. -/

namespace Sys2Proof
open Machine

/-! ## Functions and queues -/

@[simp] theorem fnOf_modFn (s : State) (n : Nat) (f : Fn → Fn) : fnOf (modFn s n f) n = f (fnOf s n) := by
  simp [fnOf, modFn, tabGetD]

theorem fnOf_modFn_other (s : State) {n k : Nat} (f : Fn → Fn) (h : k ≠ n) : fnOf (modFn s n f) k = fnOf s k := by
  simp [fnOf, modFn, tabGetD, h]

theorem fnOf_modFn_field {α : Type} {field : Fn → α} {f : Fn → Fn} (keep : ∀ x, field (f x) = field x) (s : State) (n k : Nat) :
    field (fnOf (modFn s n f) k) = field (fnOf s k) := by
  by_cases h : k = n
  · subst h
    rw [fnOf_modFn, keep]
  · rw [fnOf_modFn_other s f h]

@[simp] theorem cqOf_modCq (s : State) (fn q : Nat) (f : Cq → Cq) : cqOf (modCq s fn q f) fn q = f (cqOf s fn q) := by
  simp [cqOf, modCq, tabGetD]

theorem cqOf_congr {s t : State} {n : Nat} (h : (fnOf t n).cqs = (fnOf s n).cqs) (q : Nat) : cqOf t n q = cqOf s n q := by
  rw [cqOf, h, cqOf]

theorem fnOf_of_fns {s t : State} (h : t.fns = s.fns) (n : Nat) : fnOf t n = fnOf s n := by
  rw [fnOf, h, fnOf]

theorem modCq_modCq (s : State) (fn q : Nat) (f g : Cq → Cq) : cqOf (modCq (modCq s fn q f) fn q g) fn q = g (f (cqOf s fn q)) := by
  rw [cqOf_modCq, cqOf_modCq]

theorem fns_writePlace (s : State) (p : Place) (l : List Byte) : (writePlace s p l).fns = s.fns := by
  have bytes_ : ((l.mapIdx fun i b => (i, b)).foldl (fun a x => writeByte a (p.plus x.1) x.2) s).fns = s.fns :=
    foldl_same (view := State.fns) (f := fun a (x : Nat × Byte) => writeByte a (p.plus x.1) x.2) (fun a x => by cases p <;> rfl) _ s
  unfold writePlace
  dsimp only
  split
  · split
    · exact bytes_
    · exact bytes_
  · exact bytes_

/-- A posted event changes the count of its ring alone. -/
theorem fnOf_postEvent {α : Type} {field : Fn → α} (keep : ∀ (x : Fn) (a b : Nat), field { x with evrt := a, evlost := b } = field x)
    (s : State) (fn kind source data n : Nat) : field (fnOf (postEvent s fn kind source data) n) = field (fnOf s n) := by
  have lost : field (fnOf (loseEvent s fn) n) = field (fnOf s n) := fnOf_modFn_field (fun x => keep x x.evrt _) s fn n
  unfold postEvent
  dsimp only
  split
  · rfl
  · split
    · exact lost
    · split
      · exact lost
      · exact (fnOf_modFn_field (fun x => keep x _ x.evlost) ..).trans (congrArg field (fnOf_of_fns (fns_writePlace ..) n))

/-! ## Instances -/

/-- A state but for the instances of work and what their ends leave. -/
def instless (s : State) : State := { s with insts := [], ended := [], agenda := [], clocks := [] }

theorem instless_joinObject (s : State) (dst src : Nat) : instless (joinObject s dst src) = instless s := by
  obtain ⟨cl, same⟩ := butClocks_joinClock s (2 * dst) (2 * src)
  rw [joinObject, same]
  rfl

theorem instless_memberDone : ∀ (fuel : Nat) (s : State) (fn : Nat) (h : Word) (status : Nat),
    instless (memberDone fuel s fn h status) = instless s
  | 0, _, _, _, _ => rfl
  | k + 1, s, fn, h, status => by
    unfold memberDone
    dsimp only
    split
    · rfl
    · next i _ =>
      split
      · generalize hs2 : rememberEnd _ fn h (if i.status = 0 then 1 else i.status) = s2
        have same : instless s2 = instless s := by rw [← hs2]; rfl
        have scheduled : instless (if handleLevel h = 2 then schedule s2 s2.now .packetComplete (.of [fn, handleQueue h, handleInst h % 2 ^ 25]) else s2) =
            instless s := by
          split <;> exact same
        split
        · exact scheduled
        · exact (instless_memberDone k ..).trans ((instless_joinObject ..).trans scheduled)
      · rfl

theorem instless_closeInst (s : State) (fn : Nat) (h : Word) : instless (closeInst s fn h) = instless s :=
  instless_memberDone 4 _ fn h 1

theorem instless_fns {s t : State} (h : instless t = instless s) : t.fns = s.fns := (congrArg State.fns h :)
theorem instless_mem {s t : State} (h : instless t = instless s) : t.mem = s.mem := (congrArg State.mem h :)

/-! ## Handles -/

theorem handleLevel_mkHandle {level : Nat} (inst : Nat) (h : level < 8) : handleLevel (mkHandle level inst) = level := by
  simp only [handleLevel, mkHandle, fld, BitVec.toNat_ofNat]
  omega

theorem handleInst_mkHandle (level : Nat) {inst : Nat} (h : inst < 2 ^ 29) : handleInst (mkHandle level inst) = inst := by
  simp only [handleInst, mkHandle, fld, BitVec.toNat_ofNat]
  omega

theorem handleQueue_jobHandle {q : Nat} (h : q < 16) : handleQueue (jobHandle q) = q := by
  rw [handleQueue, jobHandle, handleLevel_mkHandle q (by omega), if_pos rfl, handleInst_mkHandle 4 (by omega)]

theorem jobHandle_ne_phaseHandle (q n k : Nat) : jobHandle k ≠ phaseHandle q n := fun same => by
  have levels := congrArg handleLevel same
  rw [jobHandle, phaseHandle, handleLevel_mkHandle _ (by omega), handleLevel_mkHandle _ (by omega)] at levels
  omega

theorem handleQueue_phaseHandle {q : Nat} (n : Nat) (h : q < 16) : handleQueue (phaseHandle q n) = q := by
  rw [handleQueue, phaseHandle, handleLevel_mkHandle _ (by omega), if_neg (by omega)]
  simp only [mkHandle, fld, BitVec.toNat_ofNat]
  omega

/-! ## Command queues (R334, R335) -/

theorem cqdWord_enabled {w : Nat} (c : Cq) (h : Machine.bit w 8 = false) : ({ c with w0 := cqdWord w } : Cq).en = false := by
  have word : cqdWord w = BitVec.ofNat 64 (w / 4096 * 4096 + 0 + w % 32) := by rw [cqdWord, h]; rfl
  simp only [Cq.en, word, Machine.bit, BitVec.toNat_ofNat, beq_eq_false_iff_ne]
  omega

/-- The instances that stay as the job of a queue opens. -/
def othersOf (s : State) (fn q : Nat) : List Inst := s.insts.filter fun i => !(i.fn = fn && handleQueue i.handle = q)

theorem insts_openJob (s : State) (fn q : Nat) : (openJob s fn q).insts = othersOf s fn q ++
    [⟨jobHandle q, fn, 0, 1, false, 0⟩, ⟨phaseHandle q 0, fn, jobHandle q, 0, false, 0⟩] := rfl

/-- A queue as its job opens. -/
def openedCq (c : Cq) : Cq := { c with err := c.en && c.head + c.size < c.tail, taken := [], spawned := 0, phases := 0, closing := false }

theorem cqOf_openJob (s : State) (fn q : Nat) : cqOf (openJob s fn q) fn q = openedCq (cqOf s fn q) :=
  (cqOf_congr (s := modCq s fn q openedCq) (congrArg Fn.cqs (fnOf_of_fns (by rfl) fn) :) q).trans (cqOf_modCq s fn q openedCq)

/-- A job that opens has its first phase open, under a queue that starts anew. -/
theorem openJob_opens (s : State) (fn : Nat) {q : Nat} (h : q < 16) :
    (∀ c, cqOf s fn q = c → c.tail = 0 →
      cqOf (openJob s fn q) fn q = { c with err := false, taken := [], spawned := 0, phases := 0, closing := false }) ∧
    instOf (openJob s fn q) fn (jobHandle q) = some ⟨jobHandle q, fn, 0, 1, false, 0⟩ ∧
    instOf (openJob s fn q) fn (phaseHandle q 0) = some ⟨phaseHandle q 0, fn, jobHandle q, 0, false, 0⟩ ∧ (openJob s fn q).mem = s.mem := by
  have forgotten (k : Word) (mine : handleQueue k = q) :
      (othersOf s fn q).find? (fun i => i.fn = fn && i.handle = k) = none := by
    rw [List.find?_eq_none]
    intro i hi same
    have away := (List.mem_filter.1 hi).2
    simp only [Bool.and_eq_true, decide_eq_true_eq] at same
    simp [same.1, same.2, mine] at away
  refine ⟨fun c hc empty => ?_, ?_, ?_, rfl⟩
  · rw [cqOf_openJob, hc]
    simp [openedCq, empty]
  · rw [instOf, insts_openJob, List.find?_append, forgotten _ (handleQueue_jobHandle h)]
    simp
  · rw [instOf, insts_openJob, List.find?_append, forgotten _ (handleQueue_phaseHandle 0 h)]
    simp [jobHandle_ne_phaseHandle]

/-- A queue whose EN is 0 closes its job once nothing is in hand. -/
theorem closeQueue_closes {s : State} {fn q : Nat} (closing : (cqOf s fn q).closing = true) (none_ : (cqOf s fn q).taken = [])
    (off : (cqOf s fn q).en = false) :
    cqOf (closeQueue s fn q) fn q = { cqOf s fn q with closing := false, err := false } ∧ (closeQueue s fn q).mem = s.mem := by
  have kept : instless (closeInst (closeInst s fn (phaseOf s fn q)) fn (jobHandle q)) = instless s :=
    (instless_closeInst ..).trans (instless_closeInst ..)
  have same : cqOf (closeInst (closeInst s fn (phaseOf s fn q)) fn (jobHandle q)) fn q = cqOf s fn q :=
    cqOf_congr (congrArg Fn.cqs (fnOf_of_fns (instless_fns kept) fn)) q
  unfold closeQueue
  dsimp only
  rw [if_neg (by simp [closing]), if_neg (by simp [none_]), if_neg (by simp [off])]
  exact ⟨by rw [cqOf_modCq, same], (instless_mem kept :)⟩

/-- While packets are in hand and no error is to be cleared the queue stays as it is. -/
theorem closeQueue_waits {s : State} {fn q : Nat} (some_ : (cqOf s fn q).closing = true → (cqOf s fn q).taken ≠ [] ∧ (cqOf s fn q).err = false) :
    closeQueue s fn q = s := by
  unfold closeQueue
  dsimp only
  split
  · rfl
  · next closing =>
    obtain ⟨left, fine⟩ := some_ (by simpa using closing)
    rw [if_pos (by simpa using left), if_neg (by simp [fine])]

theorem cqdTaken_iff {s : State} {fn q w : Nat} : cqdTaken s fn q w = true ↔
    (0 < fn ∧ fn ≤ 128 ∧ q < 16 ∧ 4 ≤ w % 32 ∧ w % 32 ≤ 16) ∧ ¬ ((cqOf s fn q).en = true ∧ Machine.bit w 8 = true) := by
  simp [cqdTaken, Nat.pos_iff_ne_zero, and_assoc, Decidable.imp_iff_not_or]

section
variable {s : State} {fn q w : Nat} (subj : s.subj = .of [fn, q, w])
include subj

theorem exec_cqdEnable (set : Machine.bit w 8 = true) : exec .cqdEnable s = .next (writeCqd s fn q w) := by
  rw [show exec .cqdEnable s = execCqdEnable s by rfl]
  simp only [execCqdEnable, subj, set, if_true]

theorem exec_cqdDisable (clear : Machine.bit w 8 = false) : exec .cqdDisable s = .next (writeCqd s fn q w) := by
  rw [show exec .cqdDisable s = execCqdDisable s by rfl]
  simp [execCqdDisable, subj, clear]

end

/-- What a write of word 0 of a queue descriptor leaves. -/
theorem cqd_writes (s : State) (fn q w : Nat) (subj : s.subj = .of [fn, q, w]) :
    let c := cqOf s fn q
    let taken : Prop := 0 < fn ∧ fn ≤ 128 ∧ q < 16 ∧ 4 ≤ w % 32 ∧ w % 32 ≤ 16
    let word : DWord := cqdWord w
    (Machine.bit w 8 = true → (¬ taken ∨ c.en = true) → exec .cqdEnable s = .next s) ∧
    (Machine.bit w 8 = true → taken → c.en = false → c.closing = true → ∃ t, exec .cqdEnable s = .next t ∧
      cqOf t fn q = { c with w0 := word, head := 0, tail := 0 } ∧ t.insts = s.insts ∧ t.mem = s.mem) ∧
    (Machine.bit w 8 = true → taken → c.en = false → c.closing = false → ∃ t, exec .cqdEnable s = .next t ∧ cqOf t fn q =
        { w0 := word, w1 := c.w1, head := 0, tail := 0, err := false, taken := [], spawned := 0, phases := 0, closing := false } ∧
      instOf t fn (jobHandle q) = some ⟨jobHandle q, fn, 0, 1, false, 0⟩ ∧
      instOf t fn (phaseHandle q 0) = some ⟨phaseHandle q 0, fn, jobHandle q, 0, false, 0⟩ ∧ t.mem = s.mem) ∧
    (Machine.bit w 8 = false → ¬ taken → exec .cqdDisable s = .next s) ∧
    (Machine.bit w 8 = false → taken → c.en = false → ∃ t, exec .cqdDisable s = .next t ∧ cqOf t fn q = { c with w0 := word }) ∧
    (Machine.bit w 8 = false → taken → c.en = true → c.taken = [] → ∃ t, exec .cqdDisable s = .next t ∧
      cqOf t fn q = { c with w0 := word, closing := false, err := false } ∧ t.mem = s.mem) ∧
    (Machine.bit w 8 = false → taken → c.en = true → c.taken ≠ [] → c.err = false → ∃ t, exec .cqdDisable s = .next t ∧
      cqOf t fn q = { c with w0 := word, closing := true } ∧ t.mem = s.mem) := by
  intro c taken word
  have enabled (set : Machine.bit w 8 = true) (ok : taken) (off : c.en = false) : exec .cqdEnable s = .next (enableQueue s fn q w) := by
    rw [exec_cqdEnable subj set, writeCqd, if_neg (by simp [cqdTaken_iff.2 ⟨ok, fun both => absurd both.1 (by simpa using off)⟩]), if_pos set]
  have disabled (clear : Machine.bit w 8 = false) (ok : taken) : exec .cqdDisable s =
      .next (if c.en then disableQueue s fn q w else modCq s fn q fun c => { c with w0 := cqdWord w }) := by
    rw [exec_cqdDisable subj clear, writeCqd, if_neg (by simp [cqdTaken_iff.2 ⟨ok, fun both => absurd both.2 (by simpa using clear)⟩]), if_neg (by simp [clear])]
  have ending := cqOf_modCq s fn q fun c => { c with w0 := cqdWord w, closing := true }
  refine ⟨fun set not => ?_, fun set ok off closing => ?_, fun set ok off open_ => ?_, fun clear not => ?_, fun clear ok off => ?_,
    fun clear ok on none_ => ?_, fun clear ok on some_ fine => ?_⟩
  · have refused : ¬ cqdTaken s fn q w = true := fun ok => by
      obtain ⟨ok, no⟩ := cqdTaken_iff.1 ok
      exact not.elim (fun n => n ok) fun on => no ⟨on, set⟩
    rw [exec_cqdEnable subj set, writeCqd, if_pos (by simpa using refused)]
  · refine ⟨_, enabled set ok off, ?_⟩
    rw [enableQueue, if_pos closing]
    exact ⟨cqOf_modCq .., rfl, rfl⟩
  · refine ⟨_, enabled set ok off, ?_⟩
    rw [enableQueue, if_neg (by simpa [c] using open_)]
    obtain ⟨queue, job, phase, mem⟩ := openJob_opens (modCq s fn q fun c => { c with w0 := cqdWord w, head := 0, tail := 0 }) fn ok.2.2.1
    exact ⟨queue _ (cqOf_modCq ..) rfl, job, phase, mem⟩
  · have refused : ¬ cqdTaken s fn q w = true := fun ok => not (cqdTaken_iff.1 ok).1
    rw [exec_cqdDisable subj clear, writeCqd, if_pos (by simpa using refused)]
  · exact ⟨_, disabled clear ok, by rw [if_neg (by simpa using off)]; exact cqOf_modCq ..⟩
  · refine ⟨_, disabled clear ok, ?_⟩
    rw [if_pos on, disableQueue]
    obtain ⟨queue, mem⟩ := closeQueue_closes (by rw [ending]) (by rw [ending]; exact none_)
      (by rw [ending]; exact cqdWord_enabled { cqOf s fn q with closing := true } clear)
    exact ⟨by rw [queue, ending], mem⟩
  · refine ⟨_, disabled clear ok, ?_⟩
    rw [if_pos on, disableQueue, closeQueue_waits (by rw [ending]; exact fun _ => ⟨some_, fine⟩)]
    exact ⟨ending, rfl⟩

end Sys2Proof
end

section
/-! Invalidations, contexts, forwarding entries, routes and the mailbox (R89, R124, R331-R333, R348, R360-R362), and O50. -/

namespace Sys2Proof
open Machine

/-! ## Invalidations (R124, R333) -/

theorem coreOf_mapped {s t : State} {f : Core → Core} (h : t.cores = s.cores.map fun y => (y.1, f y.2)) (fixed : f Core.reset = Core.reset)
    (core : Nat) : coreOf t core = f (coreOf s core) := by
  rw [coreOf, coreOf, tabGetD, tabGetD, h, tabGet_map]
  cases tabGet core s.cores with
  | none => exact fixed.symm
  | some k => rfl

theorem coreOf_dropXlates (s : State) (hit : Xlate → Bool) (core : Nat) :
    coreOf (dropXlates s hit) core = { coreOf s core with tlb := (coreOf s core).tlb.filter fun y => !hit y } :=
  coreOf_mapped (f := fun k => { k with tlb := k.tlb.filter fun t => !hit t }) rfl rfl core

theorem tlb_dropXlates (s : State) (hit : Xlate → Bool) (core : Nat) :
    (coreOf (dropXlates s hit) core).tlb = (coreOf s core).tlb.filter fun y => !hit y := by
  rw [coreOf_dropXlates]

theorem inv_beginInv (s : State) (fn : Nat) : (fnOf (beginInv s fn) fn).inv = (fnOf s fn).inv := by
  unfold beginInv
  split
  · next none_ => rw [none_]
  · exact fnOf_modFn_field (field := Fn.inv) (fun _ => by rfl) ..

theorem mem_beginInv (s : State) (fn : Nat) : (beginInv s fn).mem = s.mem := by
  unfold beginInv
  split <;> rfl

theorem tlb_beginInv {s : State} {fn : Nat} {x : Nat × Nat × Nat} {r : List (Nat × Nat × Nat)} (h : (fnOf s fn).inv = x :: r) (core : Nat) :
    (coreOf (beginInv s fn) core).tlb = (coreOf s core).tlb.filter fun y => !((invGens s fn x).contains y.gen && invHits x y) := by
  unfold beginInv
  rw [h]
  exact tlb_dropXlates ..

theorem key_of_tabGet {α : Type} {k : Nat} {x : α} : ∀ {t : Tab α}, tabGet k t = some x → (k, x) ∈ t
  | (j, y) :: r, h => by
    rw [tabGet] at h
    split at h
    · next at_ =>
      cases h
      rw [at_]
      exact List.mem_cons_self
    · exact List.mem_cons_of_mem _ (key_of_tabGet h)

/-- An invalidation that a function is given waits its turn, or drops what it names. -/
theorem addInv_drops (s : State) (fn : Nat) (x : Nat × Nat × Nat) (mine : Ctx → Prop) (hit : Xlate → Prop)
    (hits : ∀ y, invHits x y = true ↔ hit y) (gens : ∀ c, mine c → x.1 = 2 ∨ c.pasid = x.2.1) :
    (fnOf (addInv s fn x) fn).inv = (fnOf s fn).inv ++ [x] ∧ (addInv s fn x).mem = s.mem ∧
      ((fnOf s fn).inv ≠ [] → (addInv s fn x).cores = s.cores) ∧
      ∀ core y, (y ∈ (coreOf (addInv s fn x) core).tlb → y ∈ (coreOf s core).tlb) ∧
        (y ∈ (coreOf s core).tlb → ¬ hit y → y ∈ (coreOf (addInv s fn x) core).tlb) ∧
        ((fnOf s fn).inv = [] → y ∈ (coreOf (addInv s fn x) core).tlb → ∀ c, ctxOf s y.gen = some c → (fn = 0 ∨ c.fn = fn) → mine c → ¬ hit y) := by
  have added : (fnOf (modFn s fn fun f => { f with inv := f.inv ++ [x] }) fn).inv = (fnOf s fn).inv ++ [x] := congrArg Fn.inv (fnOf_modFn ..)
  unfold addInv
  dsimp only
  by_cases none_ : (fnOf s fn).inv = []
  · rw [if_pos (by simp [none_])]
    have first := tlb_beginInv (r := []) (added.trans (by rw [none_]; rfl))
    refine ⟨(inv_beginInv ..).trans added, mem_beginInv .., fun some_ => absurd none_ some_, fun core y => ?_⟩
    rw [first core]
    refine ⟨fun h => (List.mem_filter.1 h).1, fun h no => List.mem_filter.2 ⟨h, ?_⟩, fun _ h c hc own its yes => ?_⟩
    · simp [(hits y).not.2 no]
    · have kept := (List.mem_filter.1 h).2
      have listed : y.gen ∈ invGens (modFn s fn fun f => { f with inv := f.inv ++ [x] }) fn x :=
        List.mem_map.2 ⟨(y.gen, c), List.mem_filter.2 ⟨key_of_tabGet hc, by simpa using ⟨own, gens c its⟩⟩, rfl⟩
      simp [(hits y).2 yes, listed] at kept
  · rw [if_neg (by simpa using none_)]
    exact ⟨added, rfl, fun _ => rfl, fun core y => ⟨id, fun h _ => h, fun no => absurd no none_⟩⟩

/-! ## Contexts (R331, R332) -/

theorem ctxWord_low {s : State} {fn e j : Nat} (h : j < 4) : ctxWord s fn e j = (tabGetD (8 * e + j) 0 (fnOf s fn).ctx).toNat := if_pos h

theorem ctxFields_lt (w : Nat) : ctxFields w < 2 ^ 40 := by
  have a : fld w 38 2 < 4 := fld_lt ..
  have b : fld w 0 20 < 2 ^ 20 := fld_lt ..
  simp only [ctxFields]
  omega

/-- Word 0 of a context entry takes a value. -/
def putCtxWord (s : State) (fn e x : Nat) : State := modFn s fn fun f => { f with ctx := tabSet 0 (8 * e) (BitVec.ofNat 64 x) f.ctx }

theorem ctxWord_put {s : State} {fn e x : Nat} (rising : Safety.rising (fnOf s fn).ctx 0) (small : x < 2 ^ 64) :
    ctxWord (putCtxWord s fn e x) fn e 0 = x := by
  rw [ctxWord_low (by omega), putCtxWord, fnOf_modFn]
  show (tabGetD (8 * e + 0) 0 (tabSet 0 (8 * e) (BitVec.ofNat 64 x) (fnOf s fn).ctx)).toNat = x
  rw [Nat.add_zero, tabGetD_set_same 0 (8 * e) _ rising, BitVec.toNat_ofNat, Nat.mod_eq_of_lt small]

theorem ctxWord_congr {s t : State} {fn : Nat} (h : (fnOf t fn).ctx = (fnOf s fn).ctx) (e : Nat) : ctxWord t fn e 0 = ctxWord s fn e 0 := by
  rw [ctxWord_low (by omega), ctxWord_low (by omega), h]

/-- With fewer than 256 contexts a tag is free, and the lowest is taken. -/
theorem freeTag_free {s : State} (room : s.ctxs.length < 256) :
    freeTag s < 256 ∧ ctxOf s (freeTag s) = none ∧ ∀ k < freeTag s, ctxOf s k ≠ none := by
  have ⟨g, low, free⟩ : ∃ g, g < 256 ∧ ctxOf s g = none := by
    by_contra none_
    push Not at none_
    have all : List.range 256 ⊆ s.ctxs.map (·.1) := fun g hg => by
      obtain ⟨c, hc⟩ := Option.ne_none_iff_exists'.1 (none_ g (List.mem_range.1 hg))
      exact List.mem_map.2 ⟨(g, c), key_of_tabGet hc, rfl⟩
    have counted := (List.nodup_range.subperm all).length_le
    simp at counted
    omega
  cases found : (List.range 256).find? fun g => (ctxOf s g).isNone with
  | none => exact absurd free (by simpa using List.find?_eq_none.1 found g (List.mem_range.2 low))
  | some k =>
    have is : freeTag s = k := by rw [freeTag, found]; rfl
    obtain ⟨free_, here, used⟩ := List.find?_range_eq_some.1 found
    rw [is]
    exact ⟨List.mem_range.1 here, by simpa using free_, fun j hj => by have := used j hj; simpa [Option.ne_none_iff_isSome] using this⟩

/-- The context that a write of word 0 of an entry brings to life. -/
def newCtx (s : State) (fn e w : Nat) : Ctx :=
  { fn := fn, entry := e, pasid := fld w 0 20, ptroot := ctxWord s fn e 1, keyid := (fnOf s fn).keyid, hord := fld w 38 2, slim := ctxWord s fn e 2
    saveb := ctxWord s fn e 3, dying := false, halted := false, haltedAt := 0, images := [], planes := [], saved := [], slots := []
    replays := [], returns := [], outstanding := [] }

section
variable {s : State} {fn e : Nat}

theorem exec_ctxCreate {w : Nat} (subj : s.subj = .of [fn, e, w]) (set : Machine.bit w 63 = true) : exec .ctxCreate s = .next (writeCtx s fn e w) := by
  rw [show exec .ctxCreate s = execCtxCreate s by rfl]
  simp only [execCtxCreate, subj, set, if_true]

theorem writeCtx_eq (some_ : 0 < fn) (few : fn ≤ 128) (entry : e < 32) (w : Nat) : writeCtx s fn e w =
    if (ctxGen s fn e).isSome then (if Machine.bit w 63 then s else destroyCtx s fn e w)
    else if Machine.bit w 63 then createCtx s fn e w
    else destroyCtx s fn e w := by
  rw [writeCtx, if_neg (by simp; omega)]

variable (rising : Safety.rising (fnOf s fn).ctx 0)
include rising

theorem createCtx_refuses {w n : Nat} (refused : ctxRefusal s fn e = some n) : (createCtx s fn e w).ctxs = s.ctxs ∧
    ctxWord (createCtx s fn e w) fn e 0 = ctxFields w ∧ (createCtx s fn e w).mem = s.mem := by
  have made : createCtx s fn e w = postEvent { putCtxWord s fn e (ctxFields w) with fresh := s.fresh + 1 } fn 4 (Config.eventSource s.fresh)
      (e + 256 * if n = 4 then Config.eventData s.fresh else n) := by
    unfold createCtx
    rw [refused]
    rfl
  have same := aside_postEvent { putCtxWord s fn e (ctxFields w) with fresh := s.fresh + 1 } fn 4 (Config.eventSource s.fresh)
    (e + 256 * if n = 4 then Config.eventData s.fresh else n)
  rw [made]
  refine ⟨(congrArg State.ctxs same :), ?_, (congrArg State.mem same :)⟩
  exact (ctxWord_congr (fnOf_postEvent (field := Fn.ctx) (fun _ _ _ => by rfl) ..) e).trans
    (ctxWord_put rising (by have := ctxFields_lt w; omega))

/-- The context of a function under a tag that has not been used. -/
theorem createCtx_creates {w : Nat} (allowed : ctxRefusal s fn e = none) (keys : (fnOf s fn).keyid < 256) (tag : freeTag s < 256) :
    ctxOf (createCtx s fn e w) (freeTag s) = some (newCtx s fn e w) ∧ (createCtx s fn e w).mem = s.mem ∧
      ctxWord (createCtx s fn e w) fn e 0 = 2 ^ 63 + freeTag s * 2 ^ 48 + (fnOf s fn).keyid * 2 ^ 40 + fld w 38 2 * 2 ^ 38 + fld w 0 20 := by
  have fields := ctxFields_lt w
  obtain ⟨x, hx⟩ : ∃ x, x = 2 ^ 63 + freeTag s * 2 ^ 48 + (fnOf s fn).keyid * 2 ^ 40 + ctxFields w := ⟨_, rfl⟩
  have made : createCtx s fn e w = { putCtxWord s fn e x with ctxs := tabPut (freeTag s) (newCtx s fn e w) s.ctxs } := by
    unfold createCtx
    rw [allowed, hx]
    rfl
  rw [made]
  refine ⟨tabGet_put_same .., rfl, ?_⟩
  refine (ctxWord_congr (s := putCtxWord s fn e x) (by rfl) e).trans ((ctxWord_put rising (by rw [hx]; omega)).trans ?_)
  rw [hx, ctxFields]
  omega

omit rising in
theorem ctxs_room (allowed : ctxRefusal s fn e = none) : s.ctxs.length < 256 := by
  by_contra full
  simp [ctxRefusal, Nat.le_of_not_lt full] at allowed
  split at allowed <;> simp at allowed

omit rising in
theorem destroyCtx_destroys {w g : Nat} {c : Ctx} (rising : Safety.rising (fnOf s fn).ctx 0) (live : ctxGen s fn e = some g)
    (hc : ctxOf s g = some c) : ctxOf (destroyCtx s fn e w) g = some { c with dying := true } ∧
      Machine.bit (ctxWord (destroyCtx s fn e w) fn e 0) 63 = false ∧ (destroyCtx s fn e w).mem = s.mem := by
  have fields := ctxFields_lt w
  have made : destroyCtx s fn e w = modCtx (putCtxWord s fn e (ctxFields w)) g fun c => { c with dying := true } := by
    rw [destroyCtx, live]
    rfl
  have word : ctxWord (destroyCtx s fn e w) fn e 0 = ctxFields w := by
    rw [made]
    exact (ctxWord_congr (s := putCtxWord s fn e (ctxFields w)) (by rfl) e).trans (ctxWord_put rising (by omega))
  refine ⟨?_, ?_, by rw [made]; rfl⟩
  · rw [made]
    exact (tabGet_mod_same ..).trans (congrArg (Option.map _) hc)
  · rw [word, Machine.bit, Nat.div_eq_of_lt (by omega)]
    rfl

end

theorem accown_purged (s : State) (g core : Nat) : (coreOf (purgeTag s g) core).accown ≠ some g ∧
    (∀ x ∈ (coreOf (purgeTag s g) core).tlb, x.gen ≠ g) ∧ ∀ x ∈ (coreOf (purgeTag s g) core).icache, x.gen ≠ g := by
  have core_ : coreOf (purgeTag s g) core = _ :=
    coreOf_mapped (s := dropXlates s fun t => t.gen = g) (f := fun k => { k with
      icache := k.icache.filter fun l => l.gen != g
      accown := if k.accown = some g then none else k.accown }) rfl (by rfl) core
  rw [core_, coreOf_dropXlates]
  refine ⟨?_, fun x hx => ?_, fun x hx => ?_⟩
  · dsimp only
    split
    · simp
    · next not => exact not
  · simpa using (List.mem_filter.1 hx).2
  · simpa using (List.mem_filter.1 hx).2

/-! ## Forwarding entries and routes (R118, R360-R362) -/

theorem removeFwd_removes {s : State} {fn e : Nat} {f : Fwd} (some_ : fn ≠ 0) (hf : tabGet e (fnFe s fn).fwd = some f) (active : f.active = true) :
    (fnFe (removeFwd s fn e) fn).fwd = tabDel e (fnFe s fn).fwd ∧ (removeFwd s fn e).mem = s.mem := by
  have made : removeFwd s fn e = modFnFe s fn fun x => { x with fwd := tabDel e x.fwd } := by
    rw [removeFwd, if_neg some_, hf]
    exact if_pos active
  rw [made]
  unfold modFnFe
  dsimp only
  split
  · next here =>
    refine ⟨?_, rfl⟩
    have fe : feOf (modFe s (fnOf s fn).part fun x => { x with fwd := tabDel e x.fwd }) (fnOf s fn).part = _ := feOf_modFe ..
    have before : fnFe s fn = feOf s (fnOf s fn).part := if_pos here
    have after : fnFe (modFe s (fnOf s fn).part fun x => { x with fwd := tabDel e x.fwd }) fn =
        feOf (modFe s (fnOf s fn).part fun x => { x with fwd := tabDel e x.fwd }) (fnOf s fn).part := if_pos ((congrArg FrontEnd.vf fe :).trans here)
    rw [after, fe, before]
  · next away =>
    refine ⟨?_, rfl⟩
    have before : fnFe s fn = ((fnOf s fn).fe).getD FrontEnd.reset := if_neg away
    have kept := fnOf_modFn s fn fun x => { x with fe := x.fe.map fun x => { x with fwd := tabDel e x.fwd } }
    have after : fnFe (modFn s fn fun x => { x with fe := x.fe.map fun x => { x with fwd := tabDel e x.fwd } }) fn =
        ((fnOf s fn).fe.map fun x => { x with fwd := tabDel e x.fwd }).getD FrontEnd.reset := by
      unfold fnFe
      rw [kept]
      exact if_neg away
    rw [before] at hf ⊢
    rw [after]
    cases held : (fnOf s fn).fe with
    | none => rw [held] at hf; exact absurd hf (by simp [FrontEnd.reset, tabGet])
    | some x => rfl

/-! ## Writes of BAR0 (Table 12.1) -/

theorem mergeWord_whole {old v : Nat} (h : old < 2 ^ 64) (small : v < 2 ^ 64) : mergeWord old 0 8 v = v := by
  simp only [mergeWord, fld, Nat.mul_zero, Nat.pow_zero, Nat.div_one, Nat.mul_one]
  rw [Nat.mod_eq_of_lt h, Nat.mod_eq_of_lt small]
  omega

section
variable {s : State} {fn off v : Nat} (few : fn ≤ 128)
include few

theorem hostWrite_word (low : off < 0x1000) (whole : off % 8 = 0) (small : v < 2 ^ 64) (held : regWord s fn off < 2 ^ 64) :
    hostWrite s fn off 8 v = writeWord s fn off v := by
  rw [hostWrite, if_neg (by omega), if_neg (by simp; omega), if_neg (by simp; omega), if_neg (by simp; omega), if_pos (by simp; omega), whole,
    show off / 8 * 8 = off by omega, mergeWord_whole held small]

theorem hostWrite_mail {size : Nat} (m : Nat) (low : 0x2000 + m < 0x3000) : hostWrite s fn (0x2000 + m) size v = writeMail s fn m size v := by
  rw [hostWrite, if_neg (by omega), if_pos (by simp; omega), Nat.add_sub_cancel_left]

end

theorem regWord_ready (s : State) (fn : Nat) : regWord s fn 0x40 < 2 ^ 64 ∧ regWord s fn 0x48 < 2 ^ 64 := by
  have low : s.fnrdyLo.toNat + 2 ^ 64 * s.fnrdyHi.toNat < 2 ^ 128 := by
    have a := s.fnrdyLo.isLt
    have b := s.fnrdyHi.isLt
    omega
  have seen : (s.fnrdyLo.toNat + 2 ^ 64 * s.fnrdyHi.toNat) &&& seenBits s fn < 2 ^ 128 := Nat.lt_of_le_of_lt Nat.and_le_left low
  constructor
  · exact Nat.mod_lt _ (by norm_num)
  · refine Nat.div_lt_of_lt_mul ?_
    omega

theorem regWord_hqd (s : State) {fn a h : Nat} (vf : fn ≠ 0) (low : h < 16) (at_ : a = 0x300 + 16 * h) : regWord s fn a = hqdWord s fn h 0 := by
  have place : (a - 0x300) / 16 = h ∧ a % 16 = 0 := by omega
  unfold regWord
  dsimp only
  iterate 5 rw [if_neg (by omega)]
  rw [if_neg (by simp; omega)]
  iterate 7 rw [if_neg (by omega)]
  rw [if_neg (by simp; omega), if_neg (by simp; omega), if_neg vf, if_neg (by simp; omega), if_pos (by simp; omega), place.1, place.2]

theorem writeWord_hqd (s : State) {fn a h : Nat} (v : Nat) (vf : fn ≠ 0) (low : h < 16) (at_ : a = 0x300 + 16 * h) : writeWord s fn a v =
    if v % 32 < 6 || 16 < v % 32 then s
    else modFn s fn fun f => { f with hqd := tabSet 0 (2 * h) (BitVec.ofNat 64 (v / 4096 * 4096 + v % 32)) f.hqd } := by
  have place : (a - 0x300) / 16 = h ∧ a % 16 = 0 := by omega
  unfold writeWord
  dsimp only
  rw [if_neg (by omega), if_neg (by omega), if_neg (by omega), if_neg (by omega), if_neg vf, if_neg (by simp; omega), if_pos (by simp; omega),
    if_pos place.2, place.1]

/-- R330, R337, R348: what a write of an aligned register changes. -/
theorem register_writes (s : State) (fn off size v : Nat) (subj : s.subj = .of [fn, off, size, v]) :
    let f := fnOf s fn
    (128 < fn → exec .registerWrite s = .next s) ∧
    (fn ≤ 128 → v < 2 ^ 64 →
      (off = 0x108 → size = 8 → ∃ t, exec .registerWrite s = .next t ∧ fnOf t fn = { f with evrh := BitVec.ofNat 64 v }) ∧
      (off = 0x180 → size = 8 → ∃ t, exec .registerWrite s = .next t ∧
        fnOf t fn = { f with invva := BitVec.ofNat 64 (v / 65536 * 65536) }) ∧
      (off = 0x40 ∨ off = 0x48 → size = 8 → exec .registerWrite s = .next s) ∧
      (∀ h, fn ≠ 0 → h < 16 → off = 0x300 + 16 * h → size = 8 →
        (6 ≤ v % 32 → v % 32 ≤ 16 → ∃ t, exec .registerWrite s = .next t ∧ hqdWord t fn h 0 = v / 4096 * 4096 + v % 32) ∧
        ((v % 32 < 6 ∨ 16 < v % 32) → exec .registerWrite s = .next s)) ∧
      (∀ m, off = 0x2000 + m → m + size ≤ 0x40 →
        (f.busy = true → exec .registerWrite s = .next s) ∧
        (f.busy = false → f.cmd.wf = true → ∃ t, exec .registerWrite s = .next t ∧ (fnOf t fn).cmd.read m size = bytesOf size v)) ∧
      (off = 0x2040 → size ≠ 0 → (f.busy = true ∨ v ≠ 1) → exec .registerWrite s = .next s) ∧
      (off = 0x2040 → size ≠ 0 → f.busy = false → v = 1 → ∃ t, exec .registerWrite s = .next t ∧ (fnOf t fn).busy = true ∧
        t.agenda = s.agenda ++ [⟨s.now, commandRow s fn, .of [fn]⟩])) := by
  intro f
  have written : exec .registerWrite s = .next (hostWrite s fn off size v) := by
    rw [show exec .registerWrite s = execRegisterWrite s by rfl]
    simp only [execRegisterWrite, subj]
  rw [written]
  refine ⟨fun many => by rw [hostWrite, if_pos many], fun few small => ⟨fun at_ whole => ?_, fun at_ whole => ?_, fun at_ whole => ?_,
    fun h vf low at_ whole => ?_, fun m at_ inside => ⟨fun busy => ?_, fun idle wf => ?_⟩, fun at_ some_ no => ?_, fun at_ some_ idle one => ?_⟩⟩
  · subst at_ whole
    rw [hostWrite_word (off := 0x108) few (by omega) (by omega) small f.evrh.isLt]
    exact ⟨_, rfl, fnOf_modFn s fn fun f => { f with evrh := BitVec.ofNat 64 v }⟩
  · subst at_ whole
    rw [hostWrite_word (off := 0x180) few (by omega) (by omega) small f.invva.isLt]
    exact ⟨_, rfl, fnOf_modFn s fn fun f => { f with invva := BitVec.ofNat 64 (v / 65536 * 65536) }⟩
  · subst whole
    congr 1
    have none_ (a : Nat) (ha : a = 0x40 ∨ a = 0x48) : writeWord s fn a v = s := by
      unfold writeWord
      obtain rfl | rfl := ha <;> simp
    obtain rfl | rfl := at_
    · rw [hostWrite_word few (by omega) (by omega) small (regWord_ready s fn).1, none_ _ (.inl rfl)]
    · rw [hostWrite_word few (by omega) (by omega) small (regWord_ready s fn).2, none_ _ (.inr rfl)]
  · subst at_ whole
    rw [hostWrite_word few (by omega) (by omega) small (by rw [regWord_hqd s vf low rfl]; exact BitVec.isLt _),
      writeWord_hqd s v vf low rfl]
    refine ⟨fun least most => ⟨_, rfl, ?_⟩, fun out => by rw [if_pos (by simpa using out)]⟩
    rw [if_neg (by simp; omega), hqdWord, fnOf_modFn]
    have large : BitVec.ofNat 64 (v / 4096 * 4096 + v % 32) ≠ (0 : DWord) := fun zero => by
      have zero_ : BitVec.ofNat 64 (v / 4096 * 4096 + v % 32) = 0#64 := zero
      have := congrArg BitVec.toNat zero_
      simp only [BitVec.toNat_ofNat] at this
      omega
    dsimp only
    rw [Nat.add_zero, tabSet, if_neg large, tabGetD, tabGet_put_same, Option.getD_some, BitVec.toNat_ofNat]
    omega
  · subst at_
    rw [hostWrite_mail few m (by omega), writeMail, if_pos inside, if_pos busy]
  · subst at_
    rw [hostWrite_mail few m (by omega), writeMail, if_pos inside, if_neg (by simpa using idle)]
    refine ⟨_, rfl, ?_⟩
    rw [fnOf_modFn]
    have := read_write (a := m) (l := bytesOf size v) wf
    rwa [bytesOf_length] at this
  · subst at_
    rw [hostWrite_mail few 0x40 (by omega), writeMail, if_neg (by omega), if_pos rfl, if_pos (by simpa using no)]
  · subst at_
    rw [hostWrite_mail few 0x40 (by omega), writeMail, if_neg (by omega), if_pos rfl, if_neg (by simp [one]; exact idle)]
    exact ⟨_, rfl, (congrArg Fn.busy (fnOf_modFn s fn fun x => { x with busy := true }) :), rfl⟩

/-! ## The obligation -/

theorem invDone_done (s : State) (fn : Nat) (subj : s.subj = .of [fn]) :
    (invDue s fn = true → ∃ t, exec .invalidationDone s = .next t ∧ (fnOf t fn).inv = (fnOf s fn).inv.tail ∧ t.mem = s.mem) ∧
    (invDue s fn = false → exec .invalidationDone s = .next s) := by
  have done : exec .invalidationDone s = .next (if invDue s fn then endInv s fn else s) := by
    rw [show exec .invalidationDone s = execInvalidationDone s by rfl]
    simp only [execInvalidationDone, subj]
  rw [done]
  refine ⟨fun due => ⟨endInv s fn, by rw [if_pos due], ?_, mem_beginInv ..⟩, fun early => by rw [if_neg (by simp [early])]⟩
  exact (inv_beginInv ..).trans (congrArg Fn.inv (fnOf_modFn s fn fun f => { f with inv := f.inv.tail }))

theorem evrb_writes (s : State) (fn v : Nat) (subj : s.subj = .of [fn, v]) :
    (8 < v % 16 → exec .evrbWrite s = .next s) ∧
    (v % 16 ≤ 8 → ∃ t, exec .evrbWrite s = .next t ∧ (fnOf t fn).evrb = BitVec.ofNat 64 (v / 4096 * 4096 + v % 16) ∧ (fnOf t fn).evlost = 0 ∧
      (fnOf t fn).evrt = (fnOf s fn).evrt ∧ t.mem = s.mem) := by
  have written : exec .evrbWrite s = .next (writeEvrb s fn v) := by
    rw [show exec .evrbWrite s = execEvrbWrite s by rfl]
    simp only [execEvrbWrite, subj]
  rw [written, writeEvrb]
  refine ⟨fun large => by rw [if_pos large], fun fits => ?_⟩
  rw [if_neg (by omega)]
  have f := fnOf_modFn s fn fun f => { f with evrb := BitVec.ofNat 64 (v / 4096 * 4096 + v % 16), evlost := 0 }
  exact ⟨_, rfl, (congrArg Fn.evrb f :), (congrArg Fn.evlost f :), (congrArg Fn.evrt f :), rfl⟩

theorem routes_write (s : State) (node v : Nat) (subj : s.subj = .of [node, v]) :
    (16384 ≤ node → exec .routeWrite s = .next s) ∧
    (node < 16384 → ∃ t, exec .routeWrite s = .next t ∧ tabGet node t.routesPending = some (BitVec.ofNat 32 (v % 2 ^ 28)) ∧ t.routes = s.routes) := by
  have written : exec .routeWrite s = .next (writeRoute s node v) := by
    rw [show exec .routeWrite s = execRouteWrite s by rfl]
    simp only [execRouteWrite, subj]
  rw [written, writeRoute]
  refine ⟨fun out => by rw [if_pos out], fun fits => ?_⟩
  rw [if_neg (by omega)]
  exact ⟨_, rfl, tabGet_put_same .., rfl⟩

theorem routes_apply (s : State) (node : Nat) (subj : s.subj = .of [node]) :
    (∀ w, tabGet node s.routesPending = some w → nodeAsked s node = false → Safety.rising s.routes 0 → Safety.rising s.routesPending 0 →
      ∃ t, exec .routeTakeEffect s = .next t ∧ tabGetD node 0 t.routes = w ∧ tabGet node t.routesPending = none) ∧
    ((tabGet node s.routesPending = none ∨ nodeAsked s node = true) → exec .routeTakeEffect s = .next s) := by
  have applied : exec .routeTakeEffect s = .next (if routeDue s node then applyRoute s node else s) := by
    rw [show exec .routeTakeEffect s = execRouteTakeEffect s by rfl]
    simp only [execRouteTakeEffect, subj]
  rw [applied]
  refine ⟨fun w pending quiet routes waiting => ?_, fun not => ?_⟩
  · rw [if_pos (by simp [routeDue, pending, quiet]), applyRoute, pending]
    exact ⟨_, rfl, tabGetD_set_same 0 node w routes, tabGet_del_same node waiting⟩
  · rw [if_neg]
    obtain none_ | asked := not
    · simp [routeDue, none_]
    · simp [routeDue, asked]

theorem destroy_done (s : State) (g : Nat) (subj : s.subj = .of [g]) (rising : Safety.rising s.ctxs 0) :
    (destroyDue s g = false → exec .contextDestroyDone s = .next s) ∧
    (destroyDue s g = true → ∃ t, exec .contextDestroyDone s = .next t ∧ ctxOf t g = none ∧ t.mem = s.mem ∧
      ∀ c, (coreOf t c).accown ≠ some g ∧ (∀ x ∈ (coreOf t c).tlb, x.gen ≠ g) ∧ ∀ x ∈ (coreOf t c).icache, x.gen ≠ g) := by
  have done : exec .contextDestroyDone s = .next (if destroyDue s g then freeCtx s g else s) := by
    rw [show exec .contextDestroyDone s = execContextDestroyDone s by rfl]
    simp only [execContextDestroyDone, subj]
  rw [done]
  exact ⟨fun early => by rw [if_neg (by simp [early])], fun due => ⟨freeCtx s g, by rw [if_pos due], tabGet_del_same g rising, rfl, accown_purged s g⟩⟩

theorem forwards_remove (s : State) (fn e : Nat) (subj : s.subj = .of [fn, e]) (vf : fn ≠ 0) :
    (∀ f, tabGet e (fnFe s fn).fwd = some f → f.active = true →
      ∃ t, exec .fwdRemove s = .next t ∧ (fnFe t fn).fwd = tabDel e (fnFe s fn).fwd ∧ t.mem = s.mem) ∧
    ((∀ f, tabGet e (fnFe s fn).fwd = some f → f.active = false) → exec .fwdRemove s = .next s) := by
  have removed : exec .fwdRemove s = .next (removeFwd s fn e) := by
    rw [show exec .fwdRemove s = execFwdRemove s by rfl]
    simp only [execFwdRemove, subj]
  rw [removed]
  refine ⟨fun f hf active => ⟨_, rfl, removeFwd_removes vf hf active⟩, fun idle => ?_⟩
  rw [removeFwd, if_neg vf]
  cases hf : tabGet e (fnFe s fn).fwd with
  | none => rfl
  | some f => simp [idle f hf]

theorem contexts_live (s : State) (fn e : Nat) (some_ : 0 < fn) (few : fn ≤ 128) (entry : e < 32) (rising : Safety.rising (fnOf s fn).ctx 0) :
    (∀ w, s.subj = .of [fn, e, w] → Machine.bit w 63 = true →
      (∀ g, ctxGen s fn e = some g → exec .ctxCreate s = .next s) ∧
      (∀ n, ctxGen s fn e = none → ctxRefusal s fn e = some n → ∃ t, exec .ctxCreate s = .next t ∧ t.ctxs = s.ctxs ∧
        ctxWord t fn e 0 = fld w 38 2 * 2 ^ 38 + fld w 0 20 ∧ t.mem = s.mem) ∧
      (ctxGen s fn e = none → ctxRefusal s fn e = none → (fnOf s fn).keyid < 256 → ∃ t g c, exec .ctxCreate s = .next t ∧ g < 256 ∧
        ctxOf s g = none ∧ (∀ k < g, ctxOf s k ≠ none) ∧ ctxOf t g = some c ∧ c.fn = fn ∧ c.entry = e ∧ c.pasid = fld w 0 20 ∧
        c.ptroot = ctxWord s fn e 1 ∧ c.slim = ctxWord s fn e 2 ∧ c.saveb = ctxWord s fn e 3 ∧ c.keyid = (fnOf s fn).keyid ∧
        c.hord = fld w 38 2 ∧ c.dying = false ∧ c.halted = false ∧ t.mem = s.mem ∧
        ctxWord t fn e 0 = 2 ^ 63 + g * 2 ^ 48 + (fnOf s fn).keyid * 2 ^ 40 + fld w 38 2 * 2 ^ 38 + fld w 0 20)) ∧
    (s.subj = .of [fn, e] → ∀ g c, ctxGen s fn e = some g → ctxOf s g = some c → ∃ t, exec .ctxDestroy s = .next t ∧
      ctxOf t g = some { c with dying := true } ∧ Machine.bit (ctxWord t fn e 0) 63 = false ∧ t.mem = s.mem) := by
  refine ⟨fun w subj set => ⟨fun g live => ?_, fun n dead refused => ?_, fun dead allowed keys => ?_⟩, fun subj g c live hc => ?_⟩
  · rw [exec_ctxCreate subj set, writeCtx_eq some_ few entry, live]
    simp [set]
  · refine ⟨createCtx s fn e w, ?_, createCtx_refuses rising refused⟩
    rw [exec_ctxCreate subj set, writeCtx_eq some_ few entry, dead]
    simp [set]
  · obtain ⟨tag, free, lowest⟩ := freeTag_free (ctxs_room allowed)
    obtain ⟨here, mem, word⟩ := createCtx_creates rising (w := w) allowed keys tag
    refine ⟨createCtx s fn e w, freeTag s, newCtx s fn e w, ?_, tag, free, lowest, here, rfl, rfl, rfl, rfl, rfl, rfl, rfl, rfl, rfl, rfl, mem, word⟩
    rw [exec_ctxCreate subj set, writeCtx_eq some_ few entry, dead]
    simp [set]
  · refine ⟨destroyCtx s fn e (ctxFields (ctxWord s fn e 0)), ?_, destroyCtx_destroys rising live hc⟩
    have clear : Machine.bit (ctxFields (ctxWord s fn e 0)) 63 = false := by
      rw [Machine.bit, Nat.div_eq_of_lt (by have := ctxFields_lt (ctxWord s fn e 0); omega)]
      rfl
    rw [show exec .ctxDestroy s = execCtxDestroy s by rfl]
    simp only [execCtxDestroy, subj]
    rw [writeCtx_eq some_ few entry, live]
    simp [clear]

/-- Settles O50: what each write of a register changes, by the function that the row of the register calls. -/
theorem registerEvents : Obligations.RegisterEvents := by
  unfold Obligations.RegisterEvents
  refine ⟨evrb_writes, fun s fn => ?_, cqd_writes, contexts_live, destroy_done, forwards_remove, routes_write, routes_apply, register_writes⟩
  intro page drops
  have dropped (i : Instr) (x : Nat × Nat × Nat) (mine : Ctx → Prop) (hit : Xlate → Prop) (does : exec i s = .next (addInv s fn x))
      (hits : ∀ y, invHits x y = true ↔ hit y) (gens : ∀ c, mine c → x.1 = 2 ∨ c.pasid = x.2.1) : drops i x mine hit :=
    ⟨_, does, addInv_drops s fn x mine hit hits gens⟩
  have asked (kind pasid : Nat) (h : kind < 3) : invalidate s fn kind pasid = addInv s fn (kind, pasid % 2 ^ 20, page) := if_neg (by omega)
  refine ⟨fun pasid subj => ⟨dropped _ _ _ _ ?_ ?_ fun _ => .inr, dropped _ _ _ _ ?_ ?_ fun _ => .inr⟩, fun pasid va subj => ?_,
    fun subj => ⟨dropped _ _ _ _ ?_ ?_ fun _ _ => .inl rfl, invDone_done s fn subj⟩⟩
  · rw [show exec .invPage s = execInvPage s by rfl, ← asked 0 pasid (by omega)]
    simp only [execInvPage, subj]
  · exact fun y => by simp [invHits]
  · rw [show exec .invPasid s = execInvPasid s by rfl, ← asked 1 pasid (by omega)]
    simp only [execInvPasid, subj]
  · exact fun y => by simp [invHits]
  · refine dropped _ _ _ _ ?_ ?_ fun _ => .inr
    · rw [show exec .atsInvalidationRequest s = execAtsInvalidationRequest s by rfl]
      simp only [execAtsInvalidationRequest, subj]
    · exact fun y => by simp [invHits, and_assoc]
  · rw [show exec .invFunction s = execInvFunction s by rfl, ← Nat.zero_mod (2 ^ 20), ← asked 2 0 (by omega)]
    simp only [execInvFunction, subj]
  · exact fun y => by simp [invHits]

end Sys2Proof
end

section
/-! The queues of the host: writes of TAIL and packets taken (R334-R337). -/

namespace Sys2Proof
open Machine

/-! ## States that differ in their queues alone -/

/-- Another state differs in what it holds of the functions alone, each being of the same partition. -/
def Requeued (s t : State) : Prop := t = { s with fns := t.fns } ∧ ∀ n, (fnOf t n).part = (fnOf s n).part

theorem requeued_modCq (s : State) (fn q : Nat) (f : Cq → Cq) : Requeued s (modCq s fn q f) :=
  ⟨rfl, fun n => fnOf_modFn_field (field := Fn.part) (fun _ => by rfl) s fn n⟩

theorem Requeued.trans {s t u : State} (h : Requeued s t) (k : Requeued t u) : Requeued s u := by
  obtain ⟨eq_, part⟩ := h
  obtain ⟨eq', part'⟩ := k
  exact ⟨by rw [eq', eq_], fun n => (part' n).trans (part n)⟩

section
variable {s t : State} (same : Requeued s t)
include same

theorem walkFrom_requeued (gen va : Nat) : ∀ (l : List (Nat × Nat × Option Nat)) (table : Nat), walkFrom t gen va l table = walkFrom s gen va l table
  | [], _ => rfl
  | (lo, width, size) :: rest, table => by
    obtain ⟨eq_, -⟩ := same
    have later := walkFrom_requeued gen va rest
    have bytes (a : Nat) : readPlace t (placeOf t a) 8 = readPlace s (placeOf s a) 8 := by rw [eq_]; rfl
    have order : ctxOf t gen = ctxOf s gen := by rw [eq_]; rfl
    simp only [walkFrom, bytes, order, later]

theorem walk_requeued (gen va : Nat) : walk t gen va = walk s gen va := by
  have order : ctxOf t gen = ctxOf s gen := by rw [same.1]; rfl
  rw [walk, walk, order]
  cases ctxOf s gen with
  | none => rfl
  | some c => exact walkFrom_requeued same ..

theorem accessCause_requeued (x : Xlate) (va : Nat) (r w : Bool) : accessCause t x va r w = accessCause s x va r w := by
  have outside (g k : Nat) : outsidePart t g k = outsidePart s g k := by
    have order : ctxOf t g = ctxOf s g := by rw [same.1]; rfl
    unfold outsidePart
    rw [order]
    cases ctxOf s g with
    | none => rfl
    | some c =>
      dsimp only
      rw [same.2, same.1]
      rfl
  have none_ (p : Place) : unreachable t x.gen p = unreachable s x.gen p := by
    cases p with
    | dev a => simp only [unreachable, outside]; rw [same.1]
    | remote n a => rw [same.1]; rfl
    | host k a => rfl
  have there : xlPlace t x va = xlPlace s x va := by rw [same.1]; rfl
  have order : ctxOf t x.gen = ctxOf s x.gen := by rw [same.1]; rfl
  simp only [accessCause, none_, there, order]

theorem serve_requeued (gen va : Nat) (r w : Bool) : serve t gen va r w = serve s gen va r w := by
  have refused : hostRefused t gen va = hostRefused s gen va := by rw [same.1]; rfl
  have there (x : Xlate) : xlPlace t x va = xlPlace s x va := by rw [same.1]; rfl
  simp only [serve, walk_requeued same, refused, accessCause_requeued same, there]

theorem vread_requeued (gen va n : Nat) : vread t gen va n = vread s gen va n := by
  have bytes (p : Place) (k : Nat) : readAs t gen p k = readAs s gen p k := by rw [same.1]; rfl
  simp only [vread, serve_requeued same, bytes]

theorem vnat_requeued (gen va n : Nat) : vnat t gen va n = vnat s gen va n := by
  simp only [vnat, vread_requeued same]

theorem graphImages_requeued (gen : Nat) (p : Packet) : graphImages t gen p = graphImages s gen p := by
  simp only [graphImages, vread_requeued same]

theorem imageDeterm_requeued (gen frame : Nat) : imageDeterm t gen frame = imageDeterm s gen frame := by
  simp only [imageDeterm, vnat_requeued same]

theorem packetDeterm_requeued (fn : Nat) (p : Packet) : packetDeterm t fn p = packetDeterm s fn p := by
  have live : ctxGen t fn (p.g 2 2) = ctxGen s fn (p.g 2 2) := by rw [same.1]; rfl
  simp only [packetDeterm, live, imageDeterm_requeued same, graphImages_requeued same]

end

/-! ## Writes of TAIL (R337, R435) -/

theorem queueError_errs (s : State) (fn q : Nat) : cqOf (queueError s fn q) fn q = { cqOf s fn q with err := true } ∧
    aside (queueError s fn q) = aside s := by
  unfold queueError
  dsimp only
  split
  · next err =>
    refine ⟨?_, rfl⟩
    rw [← err]
  · exact ⟨(cqOf_congr (fnOf_postEvent (field := Fn.cqs) (fun _ _ _ => by rfl) ..) q).trans (cqOf_modCq ..), aside_postEvent ..⟩

theorem tail_writes (s : State) (fn q v : Nat) (subj : s.subj = .of [fn, q, v]) (some_ : 0 < fn) (few : fn ≤ 128) (low : q < 16) :
    let c := cqOf s fn q
    let x : Cq := { c with tail := Nat.max c.tail (v % 2 ^ 64) }
    (c.en = true ∧ c.head + c.size < x.tail → ∃ t, exec .tailWrite s = .next t ∧ cqOf t fn q = { x with err := true } ∧ t.mem = s.mem) ∧
    (¬ (c.en = true ∧ c.head + c.size < x.tail) → ∃ t, exec .tailWrite s = .next t ∧ cqOf t fn q = x ∧ t.mem = s.mem ∧ t.hostMem = s.hostMem) := by
  intro c x
  have now : cqOf (modCq s fn q fun c => { c with tail := Nat.max c.tail (v % 2 ^ 64) }) fn q = x := cqOf_modCq ..
  have written : exec .tailWrite s = .next (if x.en && x.head + x.size < x.tail
      then queueError (modCq s fn q fun c => { c with tail := Nat.max c.tail (v % 2 ^ 64) }) fn q
      else modCq s fn q fun c => { c with tail := Nat.max c.tail (v % 2 ^ 64) }) := by
    rw [show exec .tailWrite s = execTailWrite s by rfl]
    simp only [execTailWrite, subj]
    rw [writeTail, if_neg (by omega)]
    dsimp only
    rw [now]
  rw [written]
  refine ⟨fun far => ?_, fun near => ?_⟩
  · rw [if_pos (by simp only [Bool.and_eq_true, decide_eq_true_eq]; exact far)]
    obtain ⟨queue, rest⟩ := queueError_errs (modCq s fn q fun c => { c with tail := Nat.max c.tail (v % 2 ^ 64) }) fn q
    exact ⟨_, rfl, by rw [queue, now], (aside_mem rest :)⟩
  · rw [if_neg (by simp only [Bool.and_eq_true, decide_eq_true_eq]; exact near)]
    exact ⟨_, rfl, now, rfl, rfl⟩

/-! ## Packets taken (R336, R338) -/

/-- Bytes just written to host memory stand there. -/
theorem readHost_written {s : State} {k : Nat} (a : Nat) (b : List Byte) (wf : Memory.wf (tabGetD k [] s.hostMem) = true) :
    readPlace (writePlace s (.host k a) b) (.host k a) b.length = b := by
  have set_ (l : List (Nat × Byte)) : ∀ s : State, tabGetD k [] (l.foldl (fun x y => writeByte x ((Place.host k a).plus y.1) y.2) s).hostMem =
      setAll (tabGetD k [] s.hostMem) (l.map fun y => (a + y.1, y.2)) := by
    induction l with
    | nil => intro s; rfl
    | cons x r ih =>
      intro s
      rw [List.foldl_cons, ih]
      simp only [writeByte, Place.plus, tabGetD, tabGet_put_same, Option.getD_some, List.map_cons, setAll, List.foldl_cons]
  apply List.ext_getElem
  · simp [readPlace]
  intro i hi hb
  obtain ⟨pre, post, split, later⟩ := numbered_split hb
  simp only [readPlace, List.getElem_map, List.getElem_range, Place.plus, placeByte]
  rw [show writePlace s (.host k a) b = (numbered b).foldl (fun x y => writeByte x ((Place.host k a).plus y.1) y.2) s from rfl, set_, split, List.map_append, List.map_cons, get_setAll_last wf]
  intro x hx same
  obtain ⟨y, hy, rfl⟩ := List.mem_map.mp hx
  obtain ⟨off, -⟩ := later y hy
  omega

/-- The packet that stands in the ring of a queue, as it is taken. -/
def takenPacket (bits : Nat) : Packet := ⟨BitVec.ofNat 512 bits, false, false, 0, none⟩

theorem takenPacket_type (bits : Nat) : (takenPacket bits).type = bits % 256 := by
  have low (n : Nat) (h : 8 ≤ n) : (BitVec.ofNat n bits).toNat % 2 ^ 8 = bits % 2 ^ 8 := by
    rw [BitVec.toNat_ofNat]
    exact Nat.mod_mod_of_dvd bits (pow_dvd_pow 2 h)
  simp only [takenPacket, Packet.type, Packet.g, fld, Nat.mul_zero, Nat.pow_zero, Nat.div_one, Nat.mul_one]
  exact low 512 (by omega)

theorem packets_taken (s : State) (fn q : Nat) (subj : s.subj = .of [fn, q]) :
    let c := cqOf s fn q
    (takeDue s fn q = false → exec .packetTake s = .next s) ∧
    (takeDue s fn q = true → (ringPasid s fn = none ∨ s.linkUp = false) →
      ∃ t, exec .packetTake s = .next t ∧ cqOf t fn q = { c with err := true } ∧ t.mem = s.mem) ∧
    ∀ pasid, takeDue s fn q = true → ringPasid s fn = some pasid → s.linkUp = true → Memory.wf (tabGetD pasid [] s.hostMem) = true →
      let bits := natOf (readPlace s (.host pasid (c.base + 64 * (c.head % c.size))) 64)
      let known : Prop := 1 ≤ bits % 256 ∧ bits % 256 ≤ 6
      ∃ t p, exec .packetTake s = .next t ∧ cqOf t fn q = { c with head := c.head + 1, taken := tabPut c.head p c.taken } ∧
        p.bits = BitVec.ofNat 512 bits ∧ readPlace t (.host pasid (c.w1.toNat / 8 * 8)) 8 = bytesOf 8 (c.head + 1) ∧ t.mem = s.mem ∧
        (known → p.started = false ∧ t.agenda = s.agenda) ∧
        (¬ known → p.started = true ∧ p.status = 0x10 ∧ t.agenda = s.agenda ++ [⟨s.now, .packetComplete, .of [fn, q, c.head]⟩]) := by
  intro c
  have takes : exec .packetTake s = .next (if takeDue s fn q then takePacket s fn q else s) := by
    rw [show exec .packetTake s = execPacketTake s by rfl]
    simp only [execPacketTake, subj]
  rw [takes]
  refine ⟨fun early => by rw [if_neg (by simp [early])], fun due no => ?_, fun pasid due ring up wf => ?_⟩
  · rw [if_pos due]
    have stops : takePacket s fn q = queueError s fn q := by
      unfold takePacket
      obtain none_ | down := no
      · rw [none_]
      · cases ring : ringPasid s fn with
        | none => rfl
        | some p => simp [down]
    obtain ⟨queue, rest⟩ := queueError_errs s fn q
    exact ⟨_, rfl, by rw [stops, queue], by rw [stops, aside_mem rest]⟩
  · intro bits known
    rw [if_pos due]
    have type := takenPacket_type bits
    obtain ⟨bad, hbad⟩ : ∃ bad : Bool, bad = ((takenPacket bits).type = 0 || 7 ≤ (takenPacket bits).type : Bool) := ⟨_, rfl⟩
    have bad_iff : bad = true ↔ ¬ known := by
      rw [hbad, type]
      simp only [Bool.or_eq_true, decide_eq_true_eq, known]
      omega
    obtain ⟨p, hp⟩ : ∃ p, p = if bad then { takenPacket bits with started := true, status := 0x10 } else takenPacket bits := ⟨_, rfl⟩
    obtain ⟨r, hr⟩ : ∃ r, r = writePlace (modCq s fn q fun c => { c with head := c.head + 1, taken := tabPut c.head p c.taken })
        (.host pasid (c.w1.toNat / 8 * 8)) (bytesOf 8 (c.head + 1)) := ⟨_, rfl⟩
    have made : takePacket s fn q = if bad then schedule r s.now .packetComplete (.of [fn, q, c.head]) else r := by
      unfold takePacket
      rw [ring]
      dsimp only
      rw [if_neg (by simp [up])]
      rw [hr, hp, hbad]
      rfl
    have beside : aside r = aside s := by rw [hr, aside_writePlace_host]; rfl
    have queue : cqOf r fn q = { c with head := c.head + 1, taken := tabPut c.head p c.taken } := by
      rw [hr]
      exact (cqOf_congr (congrArg Fn.cqs (fnOf_of_fns (fns_writePlace ..) fn)) q).trans (cqOf_modCq ..)
    have word : readPlace r (.host pasid (c.w1.toNat / 8 * 8)) 8 = bytesOf 8 (c.head + 1) := by
      have written := readHost_written (s := modCq s fn q fun c => { c with head := c.head + 1, taken := tabPut c.head p c.taken }) (k := pasid)
        (c.w1.toNat / 8 * 8) (bytesOf 8 (c.head + 1)) wf
      rw [bytesOf_length] at written
      rwa [hr]
    rw [made]
    cases hb : bad with
    | false =>
      have fine : known := by_contra fun no => by rw [bad_iff.2 no] at hb; exact Bool.noConfusion hb
      rw [hb] at hp
      exact ⟨r, p, rfl, queue, by rw [hp]; rfl, word, aside_mem beside, fun _ => ⟨by rw [hp]; rfl, (congrArg State.agenda beside :)⟩,
        fun no => absurd fine no⟩
    | true =>
      rw [hb] at hp
      exact ⟨schedule r s.now .packetComplete (.of [fn, q, c.head]), p, rfl, queue, by rw [hp]; rfl, word, (aside_mem beside :),
        fun fine => absurd fine (bad_iff.1 hb),
        fun _ => ⟨by rw [hp]; rfl, by rw [hp]; rfl, congrArg (· ++ _) (congrArg State.agenda beside :)⟩⟩

end Sys2Proof
end

section
/-! Packets that start: launches and graphs (R338-R340, R342, R346). -/

namespace Sys2Proof
open Machine

/-! ## Packets that start -/

theorem tabMod_tabMod {α : Type} (k : Nat) (f g : α → α) : ∀ t : Tab α, tabMod k g (tabMod k f t) = tabMod k (fun x => g (f x)) t
  | [] => rfl
  | (j, x) :: r => by
    simp only [tabMod]
    split
    · next here => simp [tabMod, here]
    · next off => simp [tabMod, off, tabMod_tabMod k f g r]

/-- A packet has started in a context, under status 0. -/
def begunIn (s : State) (fn q i gen : Nat) : State := startedIn (markStarted s fn q i 0) fn q i gen

theorem begunIn_requeued (s : State) (fn q i gen : Nat) : Requeued s (begunIn s fn q i gen) := by
  unfold begunIn startedIn markStarted
  exact (requeued_modCq s fn q _).trans (requeued_modCq _ fn q _)

theorem cqOf_begunIn (s : State) (fn q i gen : Nat) : cqOf (begunIn s fn q i gen) fn q =
    { cqOf s fn q with taken := tabMod i (fun p => { p with started := true, status := 0, gen := some gen }) (cqOf s fn q).taken } := by
  refine (modCq_modCq s fn q _ _).trans ?_
  dsimp only
  rw [tabMod_tabMod]

theorem fnOf_modCq {α : Type} {field : Fn → α} (keep : ∀ (x : Fn) (c : Tab Cq), field { x with cqs := c } = field x) (s : State) (fn q : Nat)
    (f : Cq → Cq) (n : Nat) : field (fnOf (modCq s fn q f) n) = field (fnOf s n) :=
  fnOf_modFn_field (fun x => keep x _) s fn n

theorem fnOf_begunIn {α : Type} {field : Fn → α} (keep : ∀ (x : Fn) (c : Tab Cq), field { x with cqs := c } = field x) (s : State)
    (fn q i gen n : Nat) : field (fnOf (begunIn s fn q i gen) n) = field (fnOf s n) :=
  (fnOf_modCq keep (markStarted s fn q i 0) fn q _ n).trans (fnOf_modCq keep s fn q _ n)

theorem part_begunIn (s : State) (fn q i gen n : Nat) : (fnOf (begunIn s fn q i gen) n).part = (fnOf s n).part := (begunIn_requeued ..).2 n

theorem hqd_begunIn (s : State) (fn q i gen n h j : Nat) : hqdWord (begunIn s fn q i gen) n h j = hqdWord s n h j := by
  rw [hqdWord, hqdWord, fnOf_begunIn (field := Fn.hqd) fun _ _ => by rfl]

theorem ringSize_begunIn (s : State) (fn q i gen n h : Nat) : ringSize (begunIn s fn q i gen) n h = ringSize s n h := by
  rw [ringSize, ringSize, hqd_begunIn]

theorem ringBase_begunIn (s : State) (fn q i gen n h : Nat) : ringBase (begunIn s fn q i gen) n h = ringBase s n h := by
  rw [ringBase, ringBase, hqd_begunIn]

theorem fes_begunIn (s : State) (fn q i gen : Nat) : (begunIn s fn q i gen).fes = s.fes := rfl

section
variable {s : State} {fn q i : Nat} {p : Packet} (subj : s.subj = .of [fn, q, i]) (next : nextStart s fn q = some (i, p))
  (may : mayStart s fn q i p = true) (act : State → Nat → Nat → Nat → Nat → Packet → State)
include subj next may

theorem startPacket_refuses {n : Nat} (refused : packetRefusal s fn p = some n) : startPacket (packetRow p) s act =
    schedule (markStarted s fn q i n) s.now .packetComplete (.of [fn, q, i]) := by
  unfold startPacket
  rw [subj]
  dsimp only
  rw [next]
  dsimp only
  rw [if_neg (by simp [may]), refused]

theorem startPacket_starts {row : Instr} (is : packetRow p = row) (allowed : packetRefusal s fn p = none) {gen : Nat}
    (live : ctxGen s fn (p.g 2 2) = some gen) : startPacket row s act = act (begunIn s fn q i gen) fn q i gen p := by
  unfold startPacket
  rw [subj]
  dsimp only
  rw [next]
  dsimp only
  rw [if_neg (by simp [may, is]), allowed, live]
  rfl

end

/-- Every row that starts a packet starts it by its own action. -/
theorem exec_packetRow (s : State) (p : Packet) : ∃ act, exec (packetRow p) s = .next (startPacket (packetRow p) s act) := by
  unfold packetRow
  split
  · exact ⟨_, rfl⟩
  · exact ⟨_, rfl⟩
  · split
    · exact ⟨_, rfl⟩
    · split
      · exact ⟨_, rfl⟩
      · split
        · exact ⟨_, rfl⟩
        · exact ⟨_, rfl⟩
  · split
    · exact ⟨_, rfl⟩
    · exact ⟨_, rfl⟩
  · exact ⟨_, rfl⟩
  · exact ⟨_, rfl⟩

/-! ## What the checks leave -/

theorem fields_of_allowed {s : State} {fn : Nat} {p : Packet} (allowed : packetRefusal s fn p = none) :
    1 ≤ p.type ∧ p.type ≤ 6 ∧ badFields p = false := by
  unfold packetRefusal at allowed
  by_cases unknown : p.type = 0 ∨ 7 ≤ p.type
  · rw [if_pos unknown] at allowed
    cases allowed
  · rw [if_neg unknown] at allowed
    refine ⟨by omega, by omega, ?_⟩
    by_contra bad
    rw [if_pos (by simpa using bad)] at allowed
    cases allowed

theorem type_of_launch {p : Packet} (row : packetRow p = .pktLaunch) : p.type = 1 := by
  unfold packetRow at row
  split at row
  · assumption
  · cases row
  · split at row
    · cases row
    · split at row
      · cases row
      · split at row <;> cases row
  · split at row <;> cases row
  · cases row
  · cases row

theorem priority_small {p : Packet} (fine : badFields p = false) (type : p.type = 1) : p.g 0x25 1 < 8 := by
  simp only [badFields, type, Bool.or_eq_false_iff, decide_eq_false_iff_not] at fine
  omega

/-! ## Records that packets push (R67, R68, R339) -/

/-- A state but for its memories and the scope records of what stands in them. -/
def memoryless (s : State) : State := { s with mem := [], memKeys := [], memPoison := [], hostMem := [], remoteMem := [], syncLines := [] }

theorem memoryless_writePlace (s : State) (p : Place) (l : List Byte) : memoryless (writePlace s p l) = memoryless s := by
  have bytes_ : memoryless ((l.mapIdx fun i b => (i, b)).foldl (fun a x => writeByte a (p.plus x.1) x.2) s) = memoryless s :=
    foldl_same (view := memoryless) (f := fun a (x : Nat × Byte) => writeByte a (p.plus x.1) x.2) (fun a x => by cases p <;> rfl) _ s
  unfold writePlace
  dsimp only
  split
  · split
    · exact bytes_
    · exact bytes_
  · exact bytes_

theorem memoryless_breakRelease (s : State) (p : Place) (n : Nat) : memoryless (breakRelease s p n) = memoryless s := by
  unfold breakRelease
  split
  · split <;> rfl
  · rfl

theorem memoryless_vwrite {s t : State} {gen va : Nat} {bytes : List Byte} (h : vwrite s gen va bytes = .ok t) : memoryless t = memoryless s :=
  vwrite_keeps (P := fun a => memoryless a = memoryless s)
    (fun _ _ p l same => (memoryless_writePlace _ p l).trans same)
    (fun a p n same => (memoryless_breakRelease a p n).trans same) rfl h

theorem memoryless_vput (s : State) (gen va n v : Nat) : memoryless (vput s gen va n v) = memoryless s := by
  unfold vput
  split
  · next wrote => exact memoryless_vwrite wrote
  · rfl

/-- The record of an image that is pushed. -/
def recordOf (s : State) (part h image : Nat) (p : Push) : Launch :=
  let fe := feOf s part
  let idx := (tabGetD h (0, []) fe.rings).1 % ringSize s p.fn h
  { handle := p.handle, part := part, gen := p.gen, fn := p.fn, queue := p.queue, pkt := p.pkt, spawned := p.spawned,
    graph := p.graph, phase := p.phase, hq := h, ringIdx := idx, recAddr := ringBase s p.fn h + 32 * idx,
    hset := ((List.range 1024).find? fun e => !fe.hsets.contains e).getD 0, seq := fe.seq,
    pri := fld image 60 3, task := Machine.bit image 63, code := fld image 0 48, frameAddr := fld image 64 48,
    parent := fld image 192 64, frame := none, nextUnit := 0, owned := [], skipped := [], unitsLeft := 1, status := 0, cancelled := false,
    victim := false, garr := 0, gphase := 0, threadsLeft := 0, fatal := none, capbuf := p.capbuf, capsz := p.capsz,
    capt := p.capt, rply := p.rply, capStart := s.now, capIdx := 0, capFull := false, capBlock := 0, races := 0, hosts := [] }

/-- The tail of a hearth ring. -/
def tailAt (s : State) (part h : Nat) : Nat := (tabGetD h (0, []) (feOf s part).rings).1

/-- What a pushed record leaves: it is a launch under a fresh number, the tail and SEQ count one more, and work, queues and events are as before. -/
structure Pushes (s t : State) (part h : Nat) (x : Launch) : Prop where
  fresh : t.fresh = s.fresh + 1
  launches : t.launches = tabPut s.fresh x s.launches
  tail : tailAt t part h = tailAt s part h + 1
  seq : (feOf t part).seq = ((feOf s part).seq + 1) % 2 ^ 32
  fns : t.fns = s.fns
  insts : t.insts = s.insts
  agenda : t.agenda = s.agenda

/-- The front end of a partition with a record more. -/
def pushedFe (s : State) (part h fn : Nat) (f : FrontEnd) : FrontEnd :=
  let (t, used) := tabGetD h (0, []) (feOf s part).rings
  { f with seq := (f.seq + 1) % 2 ^ 32, rings := tabPut h (t + 1, used ++ [t % ringSize s fn h]) f.rings
           hsets := f.hsets ++ [((List.range 1024).find? fun e => !(feOf s part).hsets.contains e).getD 0] }

theorem tail_pushedFe (s : State) (part h fn : Nat) (f : FrontEnd) : (tabGetD h (0, []) (pushedFe s part h fn f).rings).1 = tailAt s part h + 1 := by
  simp only [pushedFe, tabGetD, tabGet_put_same, Option.getD_some, tailAt]

theorem pushRecord_pushes (s : State) (part h image : Nat) (p : Push) : Pushes s (pushRecord s part h image p).1 part h (recordOf s part h image p) := by
  unfold pushRecord
  dsimp only [freshNat]
  generalize hw : vput _ p.gen _ 32 _ = w
  have same : memoryless w = memoryless { s with fresh := s.fresh + 1 } := by
    rw [← hw]
    exact memoryless_vput ..
  change Pushes s { modFe w part (pushedFe s part h p.fn) with launches := tabPut s.fresh (recordOf s part h image p) w.launches } part h _
  have fe := feOf_modFe w part (pushedFe s part h p.fn)
  exact
    { fresh := (congrArg State.fresh same :)
      launches := congrArg (tabPut s.fresh _) (congrArg State.launches same :)
      tail := (congrArg (fun e : FrontEnd => (tabGetD h (0, []) e.rings).1) fe :).trans (tail_pushedFe ..)
      seq := (congrArg FrontEnd.seq fe :).trans (congrArg (fun e : FrontEnd => (e.seq + 1) % 2 ^ 32) (congrArg (fun x => feOf x part) same :))
      fns := (congrArg State.fns same :)
      insts := (congrArg State.insts same :)
      agenda := (congrArg State.agenda same :) }

/-- What a record leaves is as it was but for the active schedule of its partition. -/
theorem Pushes.determ {s t : State} {part h : Nat} {x : Launch} (pushed : Pushes s t part h x) (gen frame : Nat) :
    Pushes s (seenDeterm t part gen frame) part h x := by
  unfold seenDeterm
  split
  · unfold determPhase
    split
    · have fe := feOf_modFe t part fun e => { e with active := 0 }
      exact
        { fresh := pushed.fresh
          launches := pushed.launches
          tail := (congrArg (fun e : FrontEnd => (tabGetD h (0, []) e.rings).1) fe :).trans pushed.tail
          seq := (congrArg FrontEnd.seq fe :).trans pushed.seq
          fns := pushed.fns
          insts := pushed.insts
          agenda := pushed.agenda }
    · exact pushed
  · exact pushed

/-! ## Launch packets (R339) -/

theorem image_fields {code pri frame grid parent : Nat} (hc : code < 2 ^ 48) (hp : pri < 8) (hf : frame < 2 ^ 48) (hg : grid < 2 ^ 32)
    (hq : parent < 2 ^ 64) :
    let image := code + pri * 2 ^ 60 + frame * 2 ^ 64 + grid * 2 ^ 128 + parent * 2 ^ 192
    fld image 60 3 = pri ∧ fld image 0 48 = code ∧ fld image 64 48 = frame ∧ fld image 192 64 = parent := by
  simp only [fld]
  omega

theorem g_lt (p : Packet) (off n : Nat) : p.g off n < 2 ^ (8 * n) := fld_lt ..

/-- The record image that a launch packet names (R339). -/
def launchImage (p : Packet) : Nat :=
  p.g 0x08 8 % 2 ^ 48 + p.g 0x25 1 * 2 ^ 60 + p.g 0x10 8 % 2 ^ 48 * 2 ^ 64 + p.g 0x20 4 * 2 ^ 128 + p.g 0x18 8 * 2 ^ 192

/-- What a launch packet pushes it for. -/
def launchPush (s : State) (fn q i gen : Nat) (p : Packet) : Push where
  fn := fn
  gen := gen
  queue := q
  handle := packetLaunchHandle q i
  graph := none
  phase := phaseOf s fn q
  pkt := some i
  spawned := false
  capbuf := p.g 0x28 8
  capsz := p.g 0x26 2
  capt := p.capt
  rply := p.rply

/-- A state but for what its cores and clusters hold. -/
def coreless (s : State) : State := { s with cores := [], pools := [] }

theorem launch_starts {s : State} {fn q i gen : Nat} {p : Packet} (subj : s.subj = .of [fn, q, i]) (next : nextStart s fn q = some (i, p))
    (may : mayStart s fn q i p = true) (allowed : packetRefusal s fn p = none) (live : ctxGen s fn (p.g 2 2) = some gen)
    (row : packetRow p = .pktLaunch) (capt : p.capt = false) (rply : p.rply = false) :
    let part := (fnOf s fn).part
    ∃ t x, exec .pktLaunch s = .next t ∧ t.fns = (begunIn s fn q i gen).fns ∧ t.agenda = s.agenda ∧
      launchOf t s.fresh = some x ∧ (x.fn = fn ∧ x.gen = gen ∧ x.part = part ∧ x.queue = q ∧ x.hq = p.hq ∧ x.status = 0 ∧ x.frame = none) ∧
      x.handle = packetLaunchHandle q i ∧ x.pkt = some i ∧ x.seq = (feOf s part).seq ∧ x.pri = p.g 0x25 1 ∧
      x.code = p.g 0x08 8 % 2 ^ 48 ∧ x.frameAddr = p.g 0x10 8 % 2 ^ 48 ∧ x.parent = p.g 0x18 8 ∧ x.graph = none ∧
      x.recAddr = ringBase s fn p.hq + 32 * (tailAt s part p.hq % ringSize s fn p.hq) ∧ tailAt t part p.hq = tailAt s part p.hq + 1 ∧
      (feOf t part).seq = ((feOf s part).seq + 1) % 2 ^ 32 := by
  intro part
  obtain ⟨s1, hs1, same⟩ : ∃ s1, s1 = (if p.flag 3 then dropLines (begunIn s fn q i gen) (fnOf (begunIn s fn q i gen) fn).part fun l => l.gen = gen
      else begunIn s fn q i gen) ∧ coreless s1 = coreless (begunIn s fn q i gen) := ⟨_, rfl, by split <;> rfl⟩
  have fe : feOf s1 part = feOf s part := (congrArg (fun x => feOf x part) same :)
  have size : ringSize s1 fn p.hq = ringSize s fn p.hq := ((congrArg (fun x => ringSize x fn p.hq) same :)).trans (ringSize_begunIn ..)
  have base : ringBase s1 fn p.hq = ringBase s fn p.hq := ((congrArg (fun x => ringBase x fn p.hq) same :)).trans (ringBase_begunIn ..)
  have fresh : s1.fresh = s.fresh := (congrArg State.fresh same :)
  obtain ⟨pri, code, frame, parent⟩ := image_fields (Nat.mod_lt (p.g 0x08 8) (by norm_num : 2 ^ 48 > 0))
    (priority_small (fields_of_allowed allowed).2.2 (type_of_launch row)) (Nat.mod_lt (p.g 0x10 8) (by norm_num : 2 ^ 48 > 0))
    (g_lt p 0x20 4) (g_lt p 0x18 8)
  rw [← launchImage] at pri code frame parent
  obtain ⟨push, hpush⟩ : ∃ push, push = launchPush (begunIn s fn q i gen) fn q i gen p := ⟨_, rfl⟩
  have pushed := (pushRecord_pushes s1 part p.hq (launchImage p) push).determ gen (p.g 0x10 8)
  obtain ⟨r, hr⟩ : ∃ r, r = seenDeterm (pushRecord s1 part p.hq (launchImage p) push).1 part gen (p.g 0x10 8) := ⟨_, rfl⟩
  rw [← hr] at pushed
  have acts : exec .pktLaunch s = .next (joinPhase r fn q) := by
    rw [show exec .pktLaunch s = execPktLaunch s by rfl, execPktLaunch, startPacket_starts subj next may launchPacket row allowed live, launchPacket]
    rw [if_neg (by simp [rply]), if_neg (by simp [capt]), ← hs1, hr, hpush, part_begunIn]
    rfl
  have there : launchOf (joinPhase r fn q) s.fresh = some (recordOf s1 part p.hq (launchImage p) push) := by
    rw [← fresh]
    exact (congrArg (tabGet s1.fresh) pushed.launches).trans (tabGet_put_same ..)
  refine ⟨joinPhase r fn q, recordOf s1 part p.hq (launchImage p) push, acts, pushed.fns.trans (congrArg State.fns same :),
    pushed.agenda.trans (congrArg State.agenda same :), there, ?_, ?_, ?_, congrArg FrontEnd.seq fe, pri, code, frame, parent, ?_, ?_,
    pushed.tail.trans (by rw [tailAt, fe, tailAt]), pushed.seq.trans (by rw [fe])⟩
  · rw [hpush]
    exact ⟨rfl, rfl, rfl, rfl, rfl, rfl, rfl⟩
  · rw [hpush]; rfl
  · rw [hpush]; rfl
  · rw [hpush]; rfl
  · have fn_ : push.fn = fn := by rw [hpush]; rfl
    simp only [recordOf, fn_, fe, size, base, tailAt]

/-! ## Graph packets (R339, R340, R454) -/

/-- What a graph pushes a member for. -/
def memberPush (s : State) (fn q gen : Nat) (g phase : Word) : Push where
  fn := fn
  gen := gen
  queue := q
  handle := memberLaunchHandle q (cqOf s fn q).spawned
  graph := some g
  phase := phase
  pkt := none
  spawned := false
  capbuf := 0
  capsz := 0
  capt := false
  rply := false

/-- A member of a graph is pushed; `image` names its parent in the ring. -/
def pushMember (part fn q gen h : Nat) (g phase : Word) (image : Nat → Nat) (a : State) (im : Nat) : State :=
  modCq (seenDeterm (pushRecord a part h (image im) (memberPush a fn q gen g phase)).1 part gen (fld im 64 48)) fn q fun c => { c with spawned := c.spawned + 1 }

/-- The launch of a member of a graph. -/
structure IsMember (x : Launch) (part fn q gen h : Nat) (g : Word) (nth image : Nat) : Prop where
  fn : x.fn = fn
  gen : x.gen = gen
  part : x.part = part
  queue : x.queue = q
  hq : x.hq = h
  status : x.status = 0
  frame : x.frame = none
  graph : x.graph = some g
  pkt : x.pkt = none
  handle : x.handle = memberLaunchHandle q nth
  code : x.code = fld image 0 48
  frameAddr : x.frameAddr = fld image 64 48
  parent : x.parent = fld image 192 64

/-- What the members of a graph leave. -/
structure Members (a t : State) (part fn q gen h : Nat) (g : Word) (image : Nat → Nat) (l : List Nat) : Prop where
  fresh : t.fresh = a.fresh + l.length
  tail : tailAt t part h = tailAt a part h + l.length
  queue : cqOf t fn q = { cqOf a fn q with spawned := (cqOf a fn q).spawned + l.length }
  insts : t.insts = a.insts
  older : ∀ k < a.fresh, launchOf t k = launchOf a k
  members : ∀ k im, l[k]? = some im → ∃ x, launchOf t (a.fresh + k) = some x ∧ IsMember x part fn q gen h g ((cqOf a fn q).spawned + k) (image im)

theorem pushMember_pushes (part fn q gen h : Nat) (g phase : Word) (image : Nat → Nat) (a : State) (im : Nat) :
    Members a (pushMember part fn q gen h g phase image a im) part fn q gen h g image [im] := by
  have pushed := (pushRecord_pushes a part h (image im) (memberPush a fn q gen g phase)).determ gen (fld im 64 48)
  unfold pushMember
  generalize seenDeterm (pushRecord a part h (image im) (memberPush a fn q gen g phase)).1 part gen (fld im 64 48) = r at pushed ⊢
  have launches (k : Nat) : launchOf (modCq r fn q fun c => { c with spawned := c.spawned + 1 }) k = _ := congrArg (tabGet k) pushed.launches
  exact
    { fresh := pushed.fresh
      tail := pushed.tail
      queue := by rw [cqOf_modCq, cqOf_congr (congrArg Fn.cqs (fnOf_of_fns pushed.fns fn)) q]; rfl
      insts := pushed.insts
      older := fun k old => (launches k).trans (tabGet_put_other _ _ (by omega))
      members := fun k im' there => by
        obtain ⟨rfl, rfl⟩ : k = 0 ∧ im' = im := by
          cases k with
          | zero => exact ⟨rfl, (by simpa using there : im = im').symm⟩
          | succ k => simp at there
        refine ⟨recordOf a part h (image im') (memberPush a fn q gen g phase), (launches _).trans (tabGet_put_same ..), ?_⟩
        constructor <;> rfl }

theorem pushMembers_push (part fn q gen h : Nat) (g phase : Word) (image : Nat → Nat) : ∀ (l : List Nat) (a : State),
    Members a (l.foldl (pushMember part fn q gen h g phase image) a) part fn q gen h g image l
  | [], a =>
    { fresh := rfl
      tail := rfl
      queue := rfl
      insts := rfl
      older := fun _ _ => rfl
      members := fun k im there => by simp at there }
  | im :: r, a => by
    have first := pushMember_pushes part fn q gen h g phase image a im
    have rest := pushMembers_push part fn q gen h g phase image r (pushMember part fn q gen h g phase image a im)
    rw [List.foldl_cons]
    generalize r.foldl (pushMember part fn q gen h g phase image) (pushMember part fn q gen h g phase image a im) = t at rest ⊢
    generalize pushMember part fn q gen h g phase image a im = b at first rest
    have one : b.fresh = a.fresh + 1 := first.fresh
    exact
      { fresh := by rw [rest.fresh, one, List.length_cons]; omega
        tail := by
          rw [rest.tail, first.tail]
          simp only [List.length_cons, List.length_nil]
          omega
        queue := by
          rw [rest.queue, first.queue]
          simp only [List.length_cons, List.length_nil]
          congr 1
          omega
        insts := rest.insts.trans first.insts
        older := fun k old => (rest.older k (by omega)).trans (first.older k old)
        members := fun k im' there => by
          cases k with
          | zero =>
            obtain ⟨x, hx, is⟩ := first.members 0 im' there
            exact ⟨x, (rest.older _ (by omega)).trans hx, is⟩
          | succ k =>
            obtain ⟨x, hx, is⟩ := rest.members k im' there
            rw [one] at hx
            have count : (cqOf b fn q).spawned + k = (cqOf a fn q).spawned + (k + 1) := by
              rw [congrArg Cq.spawned first.queue]
              simp only [List.length_singleton]
              omega
            rw [count] at is
            exact ⟨x, by rw [← hx]; congr 1; omega, is⟩ }

/-- The image of a member, its PARENT resolved to an address of the ring. -/
theorem resolveParent_fields (s : State) (fn h t : Nat) {im : Nat} (small : im < 2 ^ 256) :
    fld (resolveParent s fn h t im) 0 48 = im % 2 ^ 48 ∧ fld (resolveParent s fn h t im) 64 48 = fld im 64 48 ∧
    fld (resolveParent s fn h t im) 192 64 = if 1 ≤ fld im 192 64 ∧ fld im 192 64 ≤ 1024 then
      (ringBase s fn h + 32 * ((t + (fld im 192 64 - 1)) % ringSize s fn h)) % 2 ^ 64 else fld im 192 64 := by
  unfold resolveParent
  dsimp only
  have parent : fld im 192 64 = im / 2 ^ 192 := Nat.mod_eq_of_lt (Nat.div_lt_of_lt_mul (by rw [← Nat.pow_add]; exact small))
  split
  · next named =>
    generalize ringBase s fn h + 32 * ((t + (fld im 192 64 - 1)) % ringSize s fn h) = addr
    have low : im - fld im 192 64 * 2 ^ 192 + addr * 2 ^ 192 = im % 2 ^ 192 + addr * 2 ^ 192 := by
      rw [parent]
      omega
    rw [low]
    simp only [fld]
    omega
  · next own =>
    exact ⟨by simp [fld], rfl, rfl⟩

theorem graphImages_lengths {s : State} {gen : Nat} {p : Packet} {images : List Nat} (h : graphImages s gen p = some images) :
    images.length = p.g 0x10 4 ∧ ∀ (k : Nat) (im : Nat), images[k]? = some im → im < 2 ^ 256 := by
  unfold graphImages at h
  split at h
  · next b _ =>
    cases h
    refine ⟨by simp, fun k im there => ?_⟩
    obtain ⟨i, -, rfl⟩ := List.mem_map.1 (List.mem_of_getElem? there)
    have few : ((b.drop (32 * i)).take 32).length ≤ 32 := by simp
    exact Nat.lt_of_lt_of_le (natOf_lt _) ((Nat.pow_le_pow_right (n := 256) (by omega) few).trans_eq (by norm_num))
  · cases h

theorem graphHandle_ne_phaseHandle (q i k n : Nat) : graphHandle q i ≠ phaseHandle k n := fun same => by
  have levels := congrArg handleLevel same
  rw [graphHandle, phaseHandle, handleLevel_mkHandle _ (by omega), handleLevel_mkHandle _ (by omega)] at levels
  omega

/-- A new instance is found under its handle, whatever the count of its phase. -/
theorem instOf_joinPhase {s : State} {fn q : Nat} {g : Inst} (mine : g.fn = fn) (other : g.handle ≠ phaseOf s fn q)
    (none_ : ∀ j ∈ s.insts, ¬ (j.fn = fn ∧ j.handle = g.handle)) :
    instOf (joinPhase { s with insts := s.insts ++ [g] } fn q) fn g.handle = some g := by
  have count (j : Inst) : ((if j.fn = fn && j.handle = phaseOf s fn q then { j with count := j.count + 1 } else j).fn = fn &&
      (if j.fn = fn && j.handle = phaseOf s fn q then { j with count := j.count + 1 } else j).handle = g.handle : Bool) =
      (j.fn = fn && j.handle = g.handle : Bool) := by
    split <;> rfl
  have first : s.insts.find? (fun j => j.fn = fn && j.handle = g.handle) = none := by
    rw [List.find?_eq_none]
    intro j hj
    simpa using none_ j hj
  show ((s.insts ++ [g]).map fun j => if j.fn = fn && j.handle = phaseOf s fn q then { j with count := j.count + 1 } else j).find?
    (fun j => j.fn = fn && j.handle = g.handle) = some g
  rw [List.find?_map]
  simp only [Function.comp_def, count]
  rw [List.find?_append, first]
  simp [mine, other]

theorem graphPacket_eq (s : State) (fn q i gen : Nat) (p : Packet) : graphPacket s fn q i gen p =
    ((graphImages s gen p).getD []).foldl (pushMember (fnOf s fn).part fn q gen p.hq (graphHandle q i) (phaseOf s fn q)
        (resolveParent s fn p.hq (tailAt s (fnOf s fn).part p.hq)))
      (joinPhase { s with insts := s.insts ++ [⟨graphHandle q i, fn, phaseOf s fn q, ((graphImages s gen p).getD []).length, true, 0⟩] } fn q) := rfl

theorem graph_starts {s : State} {fn q i gen : Nat} {p : Packet} (subj : s.subj = .of [fn, q, i]) (next : nextStart s fn q = some (i, p))
    (may : mayStart s fn q i p = true) (allowed : packetRefusal s fn p = none) (live : ctxGen s fn (p.g 2 2) = some gen)
    (row : packetRow p = .pktGraphSubmit) {images : List Nat} (read : graphImages s gen p = some images) :
    let part := (fnOf s fn).part
    ∃ t, exec .pktGraphSubmit s = .next t ∧ tailAt t part p.hq = tailAt s part p.hq + p.g 0x10 4 ∧
      (cqOf t fn q).spawned = (cqOf s fn q).spawned + p.g 0x10 4 ∧
      ((∀ j ∈ s.insts, ¬ (j.fn = fn ∧ j.handle = graphHandle q i)) → ∃ g, instOf t fn (graphHandle q i) = some g ∧
        g.count = p.g 0x10 4 ∧ g.closed = true ∧ g.parent = phaseOf s fn q) ∧
      ∀ (k : Nat) (im : Nat), images[k]? = some im → ∃ x, launchOf t (s.fresh + k) = some x ∧
        IsMember x part fn q gen p.hq (graphHandle q i) ((cqOf s fn q).spawned + k)
          (resolveParent (begunIn s fn q i gen) fn p.hq (tailAt s part p.hq) im) := by
  intro part
  obtain ⟨count, -⟩ := graphImages_lengths read
  obtain ⟨b, hb⟩ : ∃ b, b = begunIn s fn q i gen := ⟨_, rfl⟩
  have queue : cqOf b fn q = _ := hb ▸ cqOf_begunIn s fn q i gen
  have fes : b.fes = s.fes := by rw [hb]; rfl
  have tail : tailAt b part p.hq = tailAt s part p.hq := by rw [tailAt, feOf, fes]; rfl
  have insts : b.insts = s.insts := by rw [hb]; rfl
  have fresh : b.fresh = s.fresh := by rw [hb]; rfl
  have phase : phaseOf b fn q = phaseOf s fn q := by rw [phaseOf, queue]; rfl
  obtain ⟨g, hg⟩ : ∃ g : Inst, g = ⟨graphHandle q i, fn, phaseOf s fn q, images.length, true, 0⟩ := ⟨_, rfl⟩
  obtain ⟨a, ha⟩ : ∃ a, a = joinPhase { b with insts := b.insts ++ [g] } fn q := ⟨_, rfl⟩
  have pushed := pushMembers_push part fn q gen p.hq (graphHandle q i) (phaseOf b fn q) (resolveParent b fn p.hq (tailAt b part p.hq)) images a
  have acts : exec .pktGraphSubmit s = .next (images.foldl (pushMember part fn q gen p.hq (graphHandle q i) (phaseOf b fn q)
      (resolveParent b fn p.hq (tailAt b part p.hq))) a) := by
    rw [show exec .pktGraphSubmit s = execPktGraphSubmit s by rfl, execPktGraphSubmit, startPacket_starts subj next may graphPacket row allowed live,
      graphPacket_eq, graphImages_requeued (begunIn_requeued s fn q i gen), read, part_begunIn, ha, hg, ← phase, hb, Option.getD_some]
  have queue_ : cqOf a fn q = cqOf b fn q := by rw [ha]; rfl
  have spawned : (cqOf a fn q).spawned = (cqOf s fn q).spawned := by rw [queue_, queue]
  have fresh_ : a.fresh = s.fresh := by rw [← fresh, ha]; rfl
  refine ⟨_, acts, ?_, ?_, fun none_ => ⟨g, ?_, by rw [hg]; exact count, by rw [hg], by rw [hg]⟩, fun k im there => ?_⟩
  · rw [pushed.tail, count, ← tail, ha]
    rfl
  · rw [pushed.queue, ← spawned, count]
  · rw [instOf, pushed.insts]
    have found := instOf_joinPhase (s := b) (fn := fn) (q := q) (g := g) (by rw [hg])
      (by rw [hg, phaseOf]; exact graphHandle_ne_phaseHandle q i q _) (by rw [hg, insts]; exact none_)
    rw [← ha] at found
    rwa [hg] at found ⊢
  · obtain ⟨x, hx, is⟩ := pushed.members k im there
    rw [fresh_] at hx
    rw [spawned, tail, hb] at is
    exact ⟨x, hx, is⟩

end Sys2Proof
end

section
/-! Packets that signal, copy, cancel and query, packets that complete, and O49 (R339, R342, R434). -/

namespace Sys2Proof
open Machine

/-! ## Event flags (R330) -/

/-- The flags of a partition after a signal, and what it leaves. -/
theorem setEventFlag_flags (s : State) (p : Nat) {i : Nat} (small : i < 64) (v : Bool) :
    (∀ j < 64, (feOf (setEventFlag s p i v) p).flags.getLsbD j = if j = i then v else (feOf s p).flags.getLsbD j) ∧
    { aside (setEventFlag s p i v) with fes := [] } = { aside s with fes := [] } := by
  unfold setEventFlag
  dsimp only
  split
  · next is =>
    refine ⟨fun j _ => ?_, rfl⟩
    split
    · next here => rw [here]; exact is
    · rfl
  · refine ⟨fun j hj => ?_, congrArg (fun x : State => { x with fes := [] }) (aside_postEvent ..)⟩
    have told (a b : State) (h : aside b = aside a) : feOf b p = feOf a p := (congrArg (fun x => feOf x p) h :)
    rw [told _ _ (aside_postEvent ..), feOf_modFe]
    cases v with
    | true =>
      simp only [if_true]
      rw [BitVec.getLsbD_or, BitVec.getLsbD_ofNat, Nat.testBit_two_pow]
      by_cases here : j = i
      · simp [here, small]
      · simp [here, Ne.symm here]
    | false =>
      simp only [Bool.false_eq_true, if_false]
      rw [BitVec.getLsbD_and, BitVec.getLsbD_not, BitVec.getLsbD_ofNat, Nat.testBit_two_pow]
      by_cases here : j = i
      · simp [here, small]
      · simp [here, Ne.symm here, hj]

theorem cqs_setEventFlag (s : State) (p i : Nat) (v : Bool) (n : Nat) : (fnOf (setEventFlag s p i v) n).cqs = (fnOf s n).cqs := by
  unfold setEventFlag
  dsimp only
  split
  · rfl
  · exact fnOf_postEvent (field := Fn.cqs) (fun _ _ _ => by rfl) ..

/-! ## Signals (R339) -/

theorem type_of_signal {p : Packet} {row : Instr} (is : packetRow p = row)
    (signals : row = .pktSignalSet ∨ row = .pktSignalClear ∨ row = .pktSignalPhase ∨ row = .pktSignalNothing) : p.type = 3 := by
  subst is
  unfold packetRow at signals
  split at signals
  · simp at signals
  · simp at signals
  · assumption
  · split at signals <;> simp at signals
  · simp at signals
  · simp at signals

theorem flag_small {p : Packet} (fine : badFields p = false) (type : p.type = 3) : p.g 9 1 < 64 := by
  simp only [badFields, type, Bool.or_eq_false_iff, decide_eq_false_iff_not] at fine
  omega

section
variable {s : State} {fn q i gen : Nat} {p : Packet} (subj : s.subj = .of [fn, q, i]) (next : nextStart s fn q = some (i, p))
  (may : mayStart s fn q i p = true) (allowed : packetRefusal s fn p = none) (live : ctxGen s fn (p.g 2 2) = some gen)

/-- A packet that starts under a status. -/
def Starts (s t : State) (fn q i gen st : Nat) : Prop :=
  (cqOf t fn q).taken = tabMod i (fun p => { p with started := true, status := st, gen := some gen }) (cqOf s fn q).taken

theorem Starts.of_begun {s t : State} {fn q i gen : Nat} (same : (fnOf t fn).cqs = (fnOf (begunIn s fn q i gen) fn).cqs) : Starts s t fn q i gen 0 := by
  rw [Starts, cqOf_congr same, cqOf_begunIn]

include subj next may allowed live

theorem signal_flags {row : Instr} (is : packetRow p = row) (type : p.type = 3) (v : Bool)
    (acts : exec row s = .next (startPacket row s (thenDone fun s fn _ _ _ p => setEventFlag s (fnOf s fn).part (p.g 9 1) v))) :
    ∃ t, exec row s = .next t ∧ Starts s t fn q i gen 0 ∧ ⟨s.now, .packetComplete, .of [fn, q, i]⟩ ∈ t.agenda ∧
      ((feOf t (fnOf s fn).part).flags.getLsbD (p.g 9 1) = v ∧ ∀ j < 64, j ≠ p.g 9 1 →
        (feOf t (fnOf s fn).part).flags.getLsbD j = (feOf s (fnOf s fn).part).flags.getLsbD j) ∧ t.mem = s.mem := by
  have small := flag_small (fields_of_allowed allowed).2.2 type
  rw [startPacket_starts subj next may _ is allowed live, thenDone, part_begunIn] at acts
  obtain ⟨flags, rest⟩ := setEventFlag_flags (begunIn s fn q i gen) (fnOf s fn).part small v
  refine ⟨_, acts, .of_begun (cqs_setEventFlag ..), List.mem_append_right _ (List.mem_singleton.2 rfl), ⟨?_, fun j hj off => ?_⟩, ?_⟩
  · exact (flags _ small).trans (if_pos rfl)
  · exact (flags j hj).trans (if_neg off)
  · exact (congrArg State.mem rest :)

theorem signal_nothing (is : packetRow p = .pktSignalNothing) : ∃ t, exec .pktSignalNothing s = .next t ∧ Starts s t fn q i gen 0 ∧
    ⟨s.now, .packetComplete, .of [fn, q, i]⟩ ∈ t.agenda ∧ t.mem = s.mem ∧ t.fes = s.fes := by
  have acts : exec .pktSignalNothing s = .next (startPacket .pktSignalNothing s (thenDone fun s _ _ _ _ _ => s)) := by rfl
  rw [startPacket_starts subj next may _ is allowed live, thenDone] at acts
  exact ⟨_, acts, .of_begun rfl, List.mem_append_right _ (List.mem_singleton.2 rfl), rfl, rfl⟩

/-! ## Phase boundaries (R75, R76, R339) -/

omit subj next may allowed live in
theorem filter_tabMod (f : Packet → Packet) (i : Nat) : ∀ t : Tab Packet, (tabMod i f t).filter (fun x => i < x.1) = t.filter fun x => i < x.1
  | [] => rfl
  | (j, x) :: r => by
    rw [tabMod]
    split
    · next here => simp [here]
    · rw [List.filter_cons, List.filter_cons, filter_tabMod f i r]

omit subj next may allowed live in
theorem phaseDeterm_begunIn (s : State) (fn q i gen : Nat) : phaseDeterm (begunIn s fn q i gen) fn q i = phaseDeterm s fn q i := by
  unfold phaseDeterm
  dsimp only
  rw [cqOf_begunIn]
  dsimp only
  rw [filter_tabMod]
  simp only [packetDeterm_requeued (begunIn_requeued s fn q i gen)]

/-- The table that a phase boundary names. -/
def phaseTable (s : State) (gen : Nat) (p : Packet) : Nat := if p.g 0x10 8 = 0 then 0 else (vnat s gen (p.g 0x10 8) 64).getD 0

omit subj next may allowed live in
/-- A phase boundary with no recording or replaying launch under way. -/
theorem phasePacket_eq {s : State} {fn : Nat} (none_ : ∀ x ∈ s.launches, x.2.part = (fnOf s fn).part → x.2.status = 0 →
    x.2.capt = false ∧ x.2.rply = false) (q i gen : Nat) (p : Packet) : ∃ s1, instless s1 = instless s ∧ phasePacket s fn q i gen p =
      modFe (modCq s1 fn q fun c => { c with phases := c.phases + 1 }) (fnOf s fn).part fun f =>
        { f with sched := phaseTable s gen p
                 active := selectSchedule (feOf s (fnOf s fn).part) (phaseTable s gen p) ((cqOf s fn q).phases = 0 || phaseDeterm s fn q i)
                 phaseAt := s.now, groups := [] } := by
  have live : (s.launches.filter fun (_, x) => x.part = (fnOf s fn).part && x.status = 0 && (x.capt || x.rply)) = [] := by
    rw [List.filter_eq_nil_iff]
    intro x hx
    simp only [Bool.and_eq_true, decide_eq_true_eq, Bool.or_eq_true, not_and]
    intro mine
    obtain ⟨capt, rply⟩ := none_ x hx mine.1 mine.2
    simp [capt, rply]
  refine ⟨closeInst (modInst { s with insts := s.insts ++ [⟨phaseHandle q ((cqOf s fn q).phases + 1), fn, jobHandle q, 0, false, 0⟩] } fn
    (jobHandle q) fun i => { i with count := i.count + 1 }) fn (phaseOf (modInst { s with insts := s.insts ++
      [⟨phaseHandle q ((cqOf s fn q).phases + 1), fn, jobHandle q, 0, false, 0⟩] } fn (jobHandle q) fun i => { i with count := i.count + 1 }) fn q),
    (instless_closeInst ..).trans rfl, ?_⟩
  unfold phasePacket
  dsimp only
  rw [live]
  rfl

theorem phase_opens (is : packetRow p = .pktSignalPhase) (none_ : ∀ x ∈ s.launches, x.2.part = (fnOf s fn).part → x.2.status = 0 →
    x.2.capt = false ∧ x.2.rply = false) :
    let part := (fnOf s fn).part
    ∃ t, exec .pktSignalPhase s = .next t ∧ ⟨s.now, .packetComplete, .of [fn, q, i]⟩ ∈ t.agenda ∧
      (cqOf t fn q).phases = (cqOf s fn q).phases + 1 ∧ (feOf t part).phaseAt = s.now ∧
      (feOf t part).groups = [] ∧ (p.g 0x10 8 = 0 → (feOf t part).sched = 0) ∧
      (∀ table, p.g 0x10 8 ≠ 0 → vnat s gen (p.g 0x10 8) 64 = some table → (feOf t part).sched = table ∧
        (feOf t part).active = selectSchedule (feOf s part) table ((cqOf s fn q).phases == 0 || phaseDeterm s fn q i)) ∧
      ((cqOf s fn q).phases = 0 → (feOf t part).active = 0) ∧ t.mem = s.mem := by
  intro part
  have acts : exec .pktSignalPhase s = .next (startPacket .pktSignalPhase s (thenDone phasePacket)) := by rfl
  have part_ := part_begunIn s fn q i gen fn
  obtain ⟨s1, kept, made⟩ := phasePacket_eq (s := begunIn s fn q i gen) (fn := fn) (by rw [part_]; exact none_) q i gen p
  have table : phaseTable (begunIn s fn q i gen) gen p = phaseTable s gen p := by
    simp only [phaseTable, vnat_requeued (begunIn_requeued s fn q i gen)]
  have phases : (cqOf (begunIn s fn q i gen) fn q).phases = (cqOf s fn q).phases := by rw [cqOf_begunIn]
  rw [startPacket_starts subj next may _ is allowed live, thenDone, made, part_, table, phases, phaseDeterm_begunIn] at acts
  obtain ⟨t, ht⟩ : ∃ t, t = modFe (modCq s1 fn q fun c => { c with phases := c.phases + 1 }) part fun f =>
      { f with sched := phaseTable s gen p
               active := selectSchedule (feOf (begunIn s fn q i gen) part) (phaseTable s gen p) ((cqOf s fn q).phases = 0 || phaseDeterm s fn q i)
               phaseAt := (begunIn s fn q i gen).now, groups := [] } := ⟨_, rfl⟩
  have fe : feOf t part = _ := ht ▸ feOf_modFe ..
  have queue : (cqOf t fn q).phases = (cqOf s fn q).phases + 1 := by
    rw [ht, ← phases]
    exact (congrArg Cq.phases (cqOf_modCq s1 fn q fun c => { c with phases := c.phases + 1 }) :).trans
      (congrArg (fun c : Cq => c.phases + 1) (cqOf_congr (congrArg Fn.cqs (fnOf_of_fns (instless_fns kept) fn)) q))
  rw [← ht] at acts
  refine ⟨_, acts, List.mem_append_right _ (List.mem_singleton.2 rfl), queue, (congrArg FrontEnd.phaseAt fe :), (congrArg FrontEnd.groups fe :),
    fun zero => (congrArg FrontEnd.sched fe :).trans (if_pos zero), fun tab some_ read => ?_, fun first => ?_, ?_⟩
  · have is_ : phaseTable s gen p = tab := by rw [phaseTable, if_neg some_, read]; rfl
    refine ⟨(congrArg FrontEnd.sched fe :).trans is_, (congrArg FrontEnd.active fe :).trans ?_⟩
    rw [is_, beq_eq_decide]
    rfl
  · refine (congrArg FrontEnd.active fe :).trans ?_
    rw [first]
    rfl
  · rw [show (schedule t _ _ _).mem = t.mem by rfl, ht]
    exact (instless_mem kept :)

/-! ## Copies and code moves (R339, R359) -/

/-- The command of a copy or of a code move. -/
def copyCmd (op : Nat) (s : State) (fn q i gen : Nat) (p : Packet) : Cmd :=
  { op := op, gid := .kindle 0 1000000, serial := 2 ^ 64, unit := 2 ^ 64, launch := 2 ^ 64, part := (fnOf s fn).part, gen := gen
    core := packetCore s (fnOf s fn).part, slot := 0, lanes := 1, ipc := 0, ctl := BitVec.ofNat 64 (2 ^ 60), w1 := 0, w2 := 0
    w3 := BitVec.ofNat 64 (p.g 0x18 8), src := p.g 0x08 8, dst := p.g 0x10 8, issued := s.now, acq := [], phase := 0, lines := []
    rest := [], nextRow := 0, lost := 0, readEnd := 0, doneAt := 0, tile := none, stamp := 0, trap := none, follow := none, pkt := some (fn, q, i)
    noEvents := false, values := [] }

omit subj next may allowed live in
theorem copyPacket_eq (op : Nat) (s : State) (fn q i gen : Nat) (p : Packet) :
    copyPacket op s fn q i gen p = (enqueue s (copyCmd op s fn q i gen p)).1 := rfl

theorem copy_queues {row : Instr} {op : Nat} (is : packetRow p = row) (acts : exec row s = .next (startPacket row s (copyPacket op))) :
    let part := (fnOf s fn).part
    ∃ t c, exec row s = .next t ∧ Starts s t fn q i gen 0 ∧ t.agenda = s.agenda ∧
      tabGet s.fresh t.cmds = some c ∧ c.op = op ∧ c.src = p.g 0x08 8 ∧ c.dst = p.g 0x10 8 ∧
      c.w3.toNat = p.g 0x18 8 ∧ c.gen = gen ∧ c.pkt = some (fn, q, i) ∧ c.phase = 0 ∧ t.mem = s.mem ∧
      (engineAt t (packetCore s part / 288 * 4)).queue = (engineAt s (packetCore s part / 288 * 4)).queue ++ [s.fresh] := by
  intro part
  rw [startPacket_starts subj next may _ is allowed live, copyPacket_eq] at acts
  have queued := enqueue_queues (begunIn s fn q i gen) (copyCmd op (begunIn s fn q i gen) fn q i gen p)
  obtain ⟨c, hc⟩ : ∃ c, c = copyCmd op (begunIn s fn q i gen) fn q i gen p := ⟨_, rfl⟩
  have core : c.engine = packetCore s part / 288 * 4 := by
    rw [hc]
    show packetCore s (fnOf (begunIn s fn q i gen) fn).part / 288 * 4 = _
    rw [part_begunIn]
  have queue := queued.queue
  rw [← hc] at acts queue
  rw [← queue_engineAt, ← queue_engineAt, core] at queue
  refine ⟨_, c, acts, .of_begun rfl, rfl, ?_, by rw [hc]; rfl, by rw [hc]; rfl, by rw [hc]; rfl, ?_, by rw [hc]; rfl, by rw [hc]; rfl, by rw [hc]; rfl,
    rfl, queue⟩
  · exact tabGet_put_same ..
  · rw [hc]
    show (BitVec.ofNat 64 (p.g 0x18 8)).toNat = _
    rw [BitVec.toNat_ofNat, Nat.mod_eq_of_lt (g_lt p 0x18 8)]

/-! ## Cancel (R56, R339) -/

omit subj next may allowed live in
/-- A launch that ends by a cancellation, with no unit of its own. -/
theorem cancelLaunch_ends {s : State} {l : Nat} {x : Launch} (hx : launchOf s l = some x) (runs : x.status = 0) (still : x.cancelled = false)
    (whole : x.fatal = none) (capt : x.capt = false) (rply : x.rply = false) (none_ : ∀ u ∈ s.units, u.2.launch ≠ l) :
    ∃ y, launchOf (cancelLaunch s l) l = some y ∧ y.cancelled = true ∧ y.status = 2 := by
  obtain ⟨s1, hs1⟩ : ∃ s1, s1 = modLaunch s l fun y => { y with cancelled := true, unitsLeft := 0 } := ⟨_, rfl⟩
  have placed : (s.units.filter fun (_, u) => u.launch = l) = [] := by
    rw [List.filter_eq_nil_iff]
    exact fun u hu => by simpa using none_ u hu
  have made : cancelLaunch s l = launchDone s1 l 2 := by
    unfold cancelLaunch
    rw [hx]
    dsimp only
    rw [if_neg (by simp [runs, still, whole]), placed, hs1]
    rfl
  have hx1 : launchOf s1 l = some { x with cancelled := true, unitsLeft := 0 } := by rw [hs1, launchOf_modLaunch, hx]; rfl
  rw [made, launchDone_eq hx1 runs]
  dsimp only
  have ended := endedLaunch_keeps s1 l 2 { x with cancelled := true, unitsLeft := 0 }
  rw [capture_off hx1 capt rply] at ended
  generalize endedLaunch s1 l 2 _ = s5 at ended ⊢
  have there : launchOf s5 l = some { x with cancelled := true, unitsLeft := 0, status := 2 } := by
    refine (launchOf_congr (congrArg (·.1) ended :) l).trans ?_
    rw [launchOf_modLaunch, hx1]
    rfl
  obtain ⟨s6, hs6⟩ : ∃ s6, s6 = (if x.races ≤ 64 then s5
      else postReport s5 x.fn 2 x.gen x.handle.toNat 0 0 (List.replicate 48 0 ++ bytesOf 4 x.races ++ bytesOf 4 0)) := ⟨_, rfl⟩
  have reported : aside s6 = aside s5 := by
    rw [hs6]
    split
    · rfl
    · exact aside_postReport ..
  have told : launchesAndUnits (memberDone 4 (joinObject (rememberEnd s6 x.fn x.handle 2) (obCount x.fn x.owner) (obCount x.fn x.handle))
      x.fn x.owner 2) = launchesAndUnits s6 := (launchesAndUnits_memberDone ..).trans (launchesAndUnits_joinObject ..)
  rw [← hs6]
  obtain ⟨y, hy, same⟩ : ∃ y, launchOf s6 l = some y ∧ raceless y = raceless { x with cancelled := true, unitsLeft := 0, status := 2 } := by
    have launches := congrArg (fun a => launchOf a l) reported
    simp only [launchOf_aside, there, Option.map_some] at launches
    exact Option.map_eq_some_iff.1 launches
  exact ⟨y, (launchOf_congr (congrArg (·.1) told :) l).trans hy, (congrArg Launch.cancelled same :), (congrArg Launch.status same :)⟩

/-- The instances at or below a handle are marked as cancelled. -/
def markedBelow (s : State) (fn : Nat) (h : Word) : State :=
  { s with insts := s.insts.map fun i =>
      if i.fn = fn && (i.handle = h || i.parent = h || (handleLevel h = 4 && handleQueue i.handle = handleInst h)) then { i with status := 2 } else i }

omit subj next may allowed live in
theorem cancelHandle_one {s : State} {fn l : Nat} {h : Word} (alone : launchesUnder s fn h = [l]) :
    cancelHandle s fn h = cancelLaunch (markedBelow s fn h) l := by
  show (launchesUnder s fn h).foldl cancelLaunch (markedBelow s fn h) = _
  rw [alone]
  rfl

theorem cancel_cancels (is : packetRow p = .pktCancel) :
    let h := BitVec.ofNat 32 (p.g 0x08 4)
    (¬ (1 ≤ handleLevel h ∧ handleLevel h ≤ 4) → ∃ t, exec .pktCancel s = .next t ∧ Starts s t fn q i gen 0 ∧
      ⟨s.now, .packetComplete, .of [fn, q, i]⟩ ∈ t.agenda ∧ t.launches = s.launches ∧ t.insts = s.insts ∧ t.mem = s.mem) ∧
    ∀ l x, 1 ≤ handleLevel h → handleLevel h ≤ 4 → launchesUnder s fn h = [l] → launchOf s l = some x → x.cancelled = false → x.fatal = none →
      x.capt = false → x.rply = false → (∀ u ∈ s.units, u.2.launch ≠ l) → x.status = 0 →
      ∃ t y, exec .pktCancel s = .next t ∧ ⟨s.now, .packetComplete, .of [fn, q, i]⟩ ∈ t.agenda ∧ launchOf t l = some y ∧ y.cancelled = true ∧
        y.status = 2 := by
  intro h
  have acts : exec .pktCancel s = .next (startPacket .pktCancel s (thenDone cancelPacket)) := by rfl
  rw [startPacket_starts subj next may _ is allowed live, thenDone] at acts
  refine ⟨fun out => ?_, fun l x low high alone hx still whole capt rply none_ runs => ?_⟩
  · rw [cancelPacket, if_neg (by simpa [h] using out)] at acts
    exact ⟨_, acts, .of_begun rfl, List.mem_append_right _ (List.mem_singleton.2 rfl), rfl, rfl, rfl⟩
  · rw [cancelPacket, if_pos (by simpa [h] using ⟨low, high⟩), cancelHandle_one (s := begunIn s fn q i gen) alone] at acts
    obtain ⟨y, hy, cancelled, status⟩ := cancelLaunch_ends (s := markedBelow (begunIn s fn q i gen) fn h) hx runs still whole capt rply none_
    exact ⟨_, y, acts, List.mem_append_right _ (List.mem_singleton.2 rfl), hy, cancelled, status⟩

end

/-! ## Query (R339) -/

theorem result_aligned {p : Packet} (fine : badFields p = false) (type : p.type = 6) : p.g 0x10 8 % 16 = 0 := by
  simp only [badFields, type, Bool.or_eq_false_iff, bne_eq_false_iff_eq] at fine
  exact fine.2

theorem type_of_query {p : Packet} (is : packetRow p = .pktQuery) (least : 1 ≤ p.type) (most : p.type ≤ 6) : p.type = 6 := by
  unfold packetRow at is
  split at is
  · cases is
  · cases is
  · split at is
    · cases is
    · split at is
      · cases is
      · split at is <;> cases is
  · split at is <;> cases is
  · cases is
  · next h1 h2 h3 h4 h5 =>
    have others : p.type ≠ 1 ∧ p.type ≠ 2 ∧ p.type ≠ 3 ∧ p.type ≠ 4 ∧ p.type ≠ 5 := ⟨h1, h2, h3, h4, h5⟩
    clear h1 h2 h3 h4 h5
    omega

theorem handleState_begunIn (s : State) (fn q i gen : Nat) (h : Word) : handleState (begunIn s fn q i gen) fn h = handleState s fn h := by
  have counts (k : Nat) : (cqOf (begunIn s fn q i gen) fn k).head = (cqOf s fn k).head ∧
      (cqOf (begunIn s fn q i gen) fn k).spawned = (cqOf s fn k).spawned ∧ (cqOf (begunIn s fn q i gen) fn k).phases = (cqOf s fn k).phases := by
    by_cases here : k = q
    · rw [here, cqOf_begunIn]
      exact ⟨rfl, rfl, rfl⟩
    · have other : cqOf (begunIn s fn q i gen) fn k = cqOf s fn k := by
        unfold begunIn startedIn markStarted cqOf modCq
        simp [fnOf_modFn, tabGetD, here]
      rw [other]
      exact ⟨rfl, rfl, rfl⟩
  have indices : nextIndex (begunIn s fn q i gen) fn h = nextIndex s fn h := by
    obtain ⟨head, spawned, phases⟩ := counts (handleQueue h)
    simp only [nextIndex, head, spawned, phases]
  have created : notCreated (begunIn s fn q i gen) fn h = notCreated s fn h := by
    simp only [notCreated, indices]
  unfold handleState
  rw [created]
  rfl

/-- A write of one page. -/
theorem vwrite_page (s : State) {gen va : Nat} {bytes : List Byte} (short : va % 65536 + bytes.length ≤ 65536) (some_ : bytes ≠ []) :
    vwrite s gen va bytes = match serve s gen va false true with
      | .error c => .error (c, va)
      | .ok p => .ok (breakRelease (writeAs s gen p bytes) p bytes.length) := by
  have length : bytes.length ≠ 0 := by simpa using some_
  have cuts : pageCuts va bytes.length = [(va, bytes.length)] := by
    have fits : Nat.min bytes.length (65536 - va % 65536) = bytes.length := Nat.min_eq_left (by omega)
    rw [pageCuts, cutPages, if_neg length]
    dsimp only
    rw [fits, Nat.sub_self]
    cases bytes.length / 65536 + 1 <;> simp [cutPages]
  unfold vwrite
  rw [cuts]
  simp only [List.foldl_cons, List.foldl_nil]
  cases serve s gen va false true with
  | error c => rfl
  | ok p => simp [Except.map]

/-- Bytes written to a page of device memory stand there, and nothing but memory changes. -/
theorem vwrite_dev {s : State} {gen va a : Nat} {bytes : List Byte} (short : va % 65536 + bytes.length ≤ 65536) (some_ : bytes ≠ [])
    (there : serve s gen va false true = .ok (.dev a)) (wf : s.mem.wf = true)
    (once : ∀ i < bytes.length, ∀ j < bytes.length, storageOf s (a + i) = storageOf s (a + j) → i = j) :
    ∃ t, vwrite s gen va bytes = .ok t ∧ memoryless t = memoryless s ∧ readPlace t (.dev a) bytes.length = bytes := by
  have made := vwrite_page s short some_ (gen := gen)
  rw [there] at made
  obtain ⟨rest, mem, -⟩ := writePlace_effect { s with memKeys := keysAfter s gen (.dev a) bytes.length } (.dev a) bytes
  have left : aside (breakRelease (writeAs s gen (.dev a) bytes) (.dev a) bytes.length) = aside (writeAs s gen (.dev a) bytes) := aside_breakRelease ..
  exact ⟨_, made, memoryless_vwrite made, readPlace_written wf ((besideMemory_of_aside left).trans rest) ((aside_mem left).trans mem) once⟩

theorem bytesOf_append (n : Nat) : ∀ m v : Nat, bytesOf (m + n) v = bytesOf m v ++ bytesOf n (v / 256 ^ m)
  | 0, v => by simp [bytesOf]
  | m + 1, v => by
    rw [show m + 1 + n = (m + n) + 1 by omega, bytesOf, bytesOf_append n m, bytesOf, Nat.div_div_eq_div_mul, Nat.pow_succ', List.cons_append]

theorem bytesOf_congr {n v w : Nat} (h : v % 256 ^ n = w % 256 ^ n) : bytesOf n v = bytesOf n w := by
  have back (v : Nat) : bytesOf n (v % 256 ^ n) = bytesOf n v := by
    have known := bytesOf_natOf (bytesOf n v)
    rwa [bytesOf_length, natOf_bytesOf] at known
  rw [← back v, h, back]

/-- The sixteen bytes that a query answers. -/
theorem bytesOf_answer (n st tick : Nat) (small : st < 2 ^ 32) :
    bytesOf 16 (n % 2 ^ 32 + st * 2 ^ 32 + tick % 2 ^ 32 * 2 ^ 64) = bytesOf 4 n ++ bytesOf 4 st ++ bytesOf 4 tick ++ bytesOf 4 0 := by
  rw [show 16 = 4 + (4 + (4 + 4)) by rfl, bytesOf_append, bytesOf_append, bytesOf_append, List.append_assoc, List.append_assoc]
  congr 1
  · exact bytesOf_congr (by omega)
  · congr 1
    · exact bytesOf_congr (by omega)
    · congr 1
      · exact bytesOf_congr (by omega)
      · exact bytesOf_congr (by omega)

/-- The words that a query answers. -/
def queryWord (s : State) (st : Nat × Nat) : Nat := st.1 % 2 ^ 32 + st.2 * 2 ^ 32 + (reftick s).toNat * 2 ^ 64

theorem queryPacket_eq (s : State) (fn q i gen : Nat) (p : Packet) : queryPacket s fn q i gen p =
    match vwrite s gen (p.g 0x10 8) (bytesOf 16 (queryWord s (handleState s fn (BitVec.ofNat 32 (p.g 0x08 4))))) with
    | .ok t => t
    | .error _ => markStarted s fn q i 1 := rfl

section
variable {s : State} {fn q i gen : Nat} {p : Packet} (subj : s.subj = .of [fn, q, i]) (next : nextStart s fn q = some (i, p))
  (may : mayStart s fn q i p = true) (allowed : packetRefusal s fn p = none) (live : ctxGen s fn (p.g 2 2) = some gen)
include subj next may allowed live

theorem query_answers (is : packetRow p = .pktQuery) :
    let st := handleState s fn (BitVec.ofNat 32 (p.g 0x08 4))
    (∀ c, serve s gen (p.g 0x10 8) false true = .error c → ∃ t, exec .pktQuery s = .next t ∧ Starts s t fn q i gen 1 ∧
      ⟨s.now, .packetComplete, .of [fn, q, i]⟩ ∈ t.agenda ∧ t.mem = s.mem) ∧
    ∀ a, serve s gen (p.g 0x10 8) false true = .ok (.dev a) → s.mem.wf = true → st.2 < 2 ^ 32 →
      (∀ i < 16, ∀ j < 16, storageOf s (a + i) = storageOf s (a + j) → i = j) →
      ∃ t, exec .pktQuery s = .next t ∧ Starts s t fn q i gen 0 ∧ ⟨s.now, .packetComplete, .of [fn, q, i]⟩ ∈ t.agenda ∧
        readPlace t (.dev a) 16 = bytesOf 4 st.1 ++ bytesOf 4 st.2 ++ bytesOf 4 (tickOf s.now) ++ bytesOf 4 0 := by
  intro st
  obtain ⟨least, most, fine⟩ := fields_of_allowed allowed
  have aligned := result_aligned fine (type_of_query is least most)
  have acts : exec .pktQuery s = .next (startPacket .pktQuery s (thenDone queryPacket)) := by rfl
  rw [startPacket_starts subj next may _ is allowed live, thenDone] at acts
  have state := handleState_begunIn s fn q i gen (BitVec.ofNat 32 (p.g 0x08 4))
  have short : p.g 0x10 8 % 65536 + (bytesOf 16 (queryWord (begunIn s fn q i gen) st)).length ≤ 65536 := by
    rw [bytesOf_length]
    omega
  have some_ : bytesOf 16 (queryWord (begunIn s fn q i gen) st) ≠ [] := fun none_ => by
    have := congrArg List.length none_
    rw [bytesOf_length] at this
    cases this
  have place := serve_requeued (begunIn_requeued s fn q i gen) gen (p.g 0x10 8) false true
  refine ⟨fun c refused => ?_, fun a there wf small once => ?_⟩
  · have failed : queryPacket (begunIn s fn q i gen) fn q i gen p = markStarted (begunIn s fn q i gen) fn q i 1 := by
      rw [queryPacket_eq, state, vwrite_page _ short some_, place, refused]
    rw [failed] at acts
    refine ⟨_, acts, ?_, List.mem_append_right _ (List.mem_singleton.2 rfl), rfl⟩
    have queue := cqOf_modCq (begunIn s fn q i gen) fn q fun c => { c with taken := tabMod i (fun p => { p with started := true, status := 1 }) c.taken }
    rw [cqOf_begunIn] at queue
    exact (congrArg Cq.taken queue :).trans (tabMod_tabMod ..)
  · obtain ⟨t, wrote, same, stands⟩ := vwrite_dev short some_ (place.trans there) wf (by rw [bytesOf_length]; exact once)
    have made : queryPacket (begunIn s fn q i gen) fn q i gen p = t := by
      rw [queryPacket_eq, state, wrote]
    rw [made] at acts
    rw [bytesOf_length] at stands
    refine ⟨_, acts, .of_begun (congrArg Fn.cqs (fnOf_of_fns (congrArg State.fns same :) fn)), List.mem_append_right _ (List.mem_singleton.2 rfl),
      Eq.trans (by exact stands) ?_⟩
    refine Eq.trans ?_ (bytesOf_answer st.1 st.2 (tickOf s.now) small)
    rw [queryWord, reftick, BitVec.toNat_ofNat]
    rfl

end

/-! ## Completion (R342, R434) -/

theorem memoryless_completeWrite (s : State) (gen cwa cwv : Nat) : memoryless (completeWrite s gen cwa cwv) = memoryless s := by
  unfold completeWrite
  split
  · rfl
  · next pl _ =>
    have wrote : memoryless (writeAs s gen pl (bytesOf 4 cwv)) = memoryless s := memoryless_writePlace ..
    cases pl with
    | dev a => exact wrote
    | remote n a => exact wrote
    | host k a =>
      dsimp only
      split
      · rfl
      · exact wrote

theorem completeWrite_writes {s : State} {gen cwa cwv a : Nat} (there : serve s gen cwa false true = .ok (.dev a)) (wf : s.mem.wf = true)
    (once : ∀ i < 4, ∀ j < 4, storageOf s (a + i) = storageOf s (a + j) → i = j) :
    readPlace (completeWrite s gen cwa cwv) (.dev a) 4 = bytesOf 4 cwv := by
  obtain ⟨rest, mem, -⟩ := writePlace_effect { s with memKeys := keysAfter s gen (.dev a) (bytesOf 4 cwv).length } (.dev a) (bytesOf 4 cwv)
  have stands := readPlace_written (s := s) (t := writeAs s gen (.dev a) (bytesOf 4 cwv)) wf rest mem (by rw [bytesOf_length]; exact once)
  rw [bytesOf_length] at stands
  unfold completeWrite
  rw [there]
  exact stands

/-- The state of a packet's completion write. -/
def writtenFor (s : State) (p : Packet) (st : Nat) : State :=
  match p.gen with
  | some gen => if (st = 0 || st = 2) && p.g 0x30 8 != 0 then completeWrite s gen (p.g 0x30 8) (p.g 0x38 4) else s
  | none => s

/-- The state after its event flag. -/
def flaggedFor (s : State) (fn : Nat) (p : Packet) (st : Nat) : State :=
  if (st = 0 || st = 2) && Machine.bit (p.g 0x3C 1) 7 then setEventFlag (writtenFor s p st) (fnOf s fn).part (p.g 0x3C 1 % 64) true
  else writtenFor s p st

theorem memoryless_writtenFor (s : State) (p : Packet) (st : Nat) : memoryless (writtenFor s p st) = memoryless s := by
  unfold writtenFor
  split
  · split
    · exact memoryless_completeWrite ..
    · rfl
  · rfl

theorem flaggedFor_rest (s : State) (fn : Nat) (p : Packet) (st : Nat) : (fnOf (flaggedFor s fn p st) fn).cqs = (fnOf s fn).cqs ∧
    { aside (flaggedFor s fn p st) with fes := [] } = { aside (writtenFor s p st) with fes := [] } := by
  have cqs : (fnOf (writtenFor s p st) fn).cqs = (fnOf s fn).cqs :=
    congrArg Fn.cqs (fnOf_of_fns (congrArg State.fns (memoryless_writtenFor s p st) :) fn)
  unfold flaggedFor
  split
  · exact ⟨(cqs_setEventFlag ..).trans cqs, (setEventFlag_flags _ _ (Nat.mod_lt _ (by omega)) true).2⟩
  · exact ⟨cqs, rfl⟩

theorem completePacket_ends {s : State} {fn q : Nat} (open_ : (cqOf s fn q).closing = false) (j : Nat) (p : Packet) (st : Nat) :
    (cqOf (completePacket s fn q j p st) fn q).taken = tabDel j (cqOf s fn q).taken ∧
    aside (completePacket s fn q j p st) = aside (flaggedFor s fn p st) := by
  obtain ⟨r, hr⟩ : ∃ r, r = modCq (packetEvent (flaggedFor s fn p st) fn q st j) fn q fun c => { c with taken := tabDel j c.taken } := ⟨_, rfl⟩
  have made : completePacket s fn q j p st = closeQueue r fn q := by rw [hr]; rfl
  have queue : cqOf r fn q = { cqOf s fn q with taken := tabDel j (cqOf s fn q).taken } := by
    have before : cqOf (packetEvent (flaggedFor s fn p st) fn q st j) fn q = cqOf s fn q :=
      cqOf_congr ((fnOf_postEvent (field := Fn.cqs) (fun _ _ _ => by rfl) ..).trans (flaggedFor_rest s fn p st).1) q
    rw [hr, cqOf_modCq, before]
  rw [made, closeQueue_waits fun closing => by rw [queue] at closing; exact absurd closing (by simp [open_]), queue]
  exact ⟨rfl, by rw [hr]; exact (aside_postEvent (flaggedFor s fn p st) fn 2 (q + 16 * st) j :)⟩

/-- R342, R434: what a packet that completes leaves. -/
theorem packets_complete (s : State) (fn q i j : Nat) (p : Packet) (subj : s.subj = .of [fn, q, i]) (named : packetNamed s fn q i = some (j, p)) :
    ((p.started = false ∨ packetStatus s fn q j p = none) → exec .packetComplete s = .next s) ∧
    ∀ st, p.started = true → packetStatus s fn q j p = some st → (cqOf s fn q).closing = false →
      ∃ t, exec .packetComplete s = .next t ∧ (cqOf t fn q).taken = tabDel j (cqOf s fn q).taken ∧
        (st ≠ 0 → st ≠ 2 → t.mem = s.mem ∧ ∀ k, (feOf t k).flags = (feOf s k).flags) ∧
        (st = 0 ∨ st = 2 → Machine.bit (p.g 0x3C 1) 7 = true → (feOf t (fnOf s fn).part).flags.getLsbD (p.g 0x3C 1 % 64) = true) ∧
        ∀ gen a, (st = 0 ∨ st = 2) → p.gen = some gen → p.g 0x30 8 ≠ 0 → serve s gen (p.g 0x30 8) false true = .ok (.dev a) →
          s.mem.wf = true → (∀ i < 4, ∀ j < 4, storageOf s (a + i) = storageOf s (a + j) → i = j) →
          readPlace t (.dev a) 4 = bytesOf 4 (p.g 0x38 4) := by
  have completes : exec .packetComplete s = if !p.started then .next s else match packetStatus s fn q j p with
      | some st => .next (completePacket s fn q j p st)
      | none => .next s := by
    rw [show exec .packetComplete s = execPacketComplete s by rfl]
    simp only [execPacketComplete, subj, named] <;> rfl
  rw [completes]
  refine ⟨fun no => ?_, fun st started status open_ => ?_⟩
  · obtain waits | running := no
    · rw [if_pos (by simp [waits])]
    · rw [running]
      split <;> rfl
  · rw [if_neg (by simp [started]), status]
    obtain ⟨taken, left⟩ := completePacket_ends open_ j p st
    refine ⟨_, rfl, taken, fun run fault => ?_, fun done raised => ?_, fun gen a done hgen some_ there wf once => ?_⟩
    · have plain : flaggedFor s fn p st = s := by
        simp only [flaggedFor, writtenFor, run, fault]
        cases p.gen <;> rfl
      rw [plain] at left
      exact ⟨aside_mem left, fun k => (congrArg (fun x => (feOf x k).flags) left :)⟩
    · have flagged : flaggedFor s fn p st = setEventFlag (writtenFor s p st) (fnOf s fn).part (p.g 0x3C 1 % 64) true := by
        rw [flaggedFor, if_pos (by simpa [raised] using done)]
      have small : p.g 0x3C 1 % 64 < 64 := Nat.mod_lt _ (by omega)
      refine (congrArg (fun x => (feOf x (fnOf s fn).part).flags.getLsbD (p.g 0x3C 1 % 64)) left :).trans ?_
      rw [flagged]
      exact ((setEventFlag_flags _ _ small true).1 _ small).trans (if_pos rfl)
    · have wrote : writtenFor s p st = completeWrite s gen (p.g 0x30 8) (p.g 0x38 4) := by
        rw [writtenFor, hgen]
        exact if_pos (by simpa [some_] using done)
      refine Eq.trans (congrArg (fun x => readPlace x (.dev a) 4) left :) ?_
      refine Eq.trans (congrArg (fun x => readPlace x (.dev a) 4) (flaggedFor_rest s fn p st).2 :) ?_
      rw [wrote]
      exact completeWrite_writes there wf once

/-! ## The obligation -/

/-- Settles O49: each event of the queue interface by what its function leaves; a packet that starts does so by the row of its type. -/
theorem packetEvents : Obligations.PacketEvents := by
  unfold Obligations.PacketEvents
  refine ⟨tail_writes, packets_taken, fun s fn q i p subj next may => ?_, packets_complete⟩
  intro part takes ends
  refine ⟨fun n refused => ?_, fun gen allowed live => ?_⟩
  · obtain ⟨act, acts⟩ := exec_packetRow s p
    rw [startPacket_refuses subj next may act refused] at acts
    exact ⟨_, acts, (congrArg Cq.taken (cqOf_modCq s fn q fun c =>
      { c with taken := tabMod i (fun p => { p with started := true, status := n }) c.taken }) :), List.mem_append_right _ (List.mem_singleton.2 rfl), rfl, rfl⟩
  · intro started flagIs record tailOf
    refine ⟨fun row capt rply => ?_, fun row images read => ?_, fun row => ?_, fun row => ?_, fun row => ?_, fun row none_ => ?_, fun row is which => ?_,
      fun row => ?_, fun row => ?_⟩
    · obtain ⟨t, x, acts, fns, agenda, there, mine, rest⟩ := launch_starts subj next may allowed live row capt rply
      exact ⟨t, x, acts, Starts.of_begun (congrArg Fn.cqs (fnOf_of_fns fns fn)), agenda, ⟨there, mine⟩, rest⟩
    · obtain ⟨t, acts, tail, spawned, graph, members⟩ := graph_starts subj next may allowed live row read
      refine ⟨t, acts, tail, spawned, graph, fun k im there => ?_⟩
      obtain ⟨x, hx, is⟩ := members k im there
      obtain ⟨code, frame, parent⟩ := resolveParent_fields (begunIn s fn q i gen) fn p.hq (tailAt s part p.hq) ((graphImages_lengths read).2 k im there)
      refine ⟨x, ⟨hx, is.fn, is.gen, is.part, is.queue, is.hq, is.status, is.frame⟩, is.graph, is.pkt, is.handle, is.code.trans code,
        is.frameAddr.trans frame, is.parent.trans (parent.trans ?_)⟩
      rw [ringSize_begunIn, ringBase_begunIn]
      rfl
    · exact signal_flags subj next may allowed live row (type_of_signal row (.inl rfl)) true (by rfl)
    · exact signal_flags subj next may allowed live row (type_of_signal row (.inr (.inl rfl))) false (by rfl)
    · exact signal_nothing subj next may allowed live row
    · exact phase_opens subj next may allowed live row none_
    · obtain rfl | rfl := which
      · exact copy_queues (op := 5) subj next may allowed live is (by rfl)
      · exact copy_queues (op := 6) subj next may allowed live is (by rfl)
    · exact cancel_cancels subj next may allowed live row
    · exact query_answers subj next may allowed live row

end Sys2Proof
end

section
/-! The commands of the mailbox (R345, R347, R348, R350, R354), and O51. -/

namespace Sys2Proof
open Machine

/-! ## Events that only tell -/

@[simp] theorem aside_noteEvent (s : State) (fn kind : Nat) : aside (noteEvent s fn kind) = aside s :=
  (aside_postEvent { s with fresh := s.fresh + 1 } fn kind (Config.eventSource s.fresh) (Config.eventData s.fresh)).trans rfl

theorem fnOf_noteEvent {α : Type} {field : Fn → α} (keep : ∀ (x : Fn) (a b : Nat), field { x with evrt := a, evlost := b } = field x)
    (s : State) (fn kind n : Nat) : field (fnOf (noteEvent s fn kind) n) = field (fnOf s n) :=
  (fnOf_postEvent keep { s with fresh := s.fresh + 1 } fn kind (Config.eventSource s.fresh) (Config.eventData s.fresh) n).trans rfl

/-- A VF that enters a state: the others stay as they are, and so does what it holds besides. -/
theorem setVf_enters (s : State) (fn : Nat) (st : VfState) : aside (setVf s fn st) = aside s ∧ (fnOf (setVf s fn st) fn).vf = st := by
  unfold setVf
  split
  · next is => exact ⟨rfl, is⟩
  · refine ⟨by rw [aside_noteEvent, aside_noteEvent]; rfl, ?_⟩
    refine (fnOf_noteEvent (field := Fn.vf) (fun _ _ _ => by rfl) ..).trans ((fnOf_noteEvent (field := Fn.vf) (fun _ _ _ => by rfl) ..).trans ?_)
    exact congrArg Fn.vf (fnOf_modFn s fn fun f => { f with vf := st })

theorem fnOf_setVf {α : Type} {field : Fn → α} (keep : ∀ (x : Fn) (a b : Nat) (v : VfState), field { x with evrt := a, evlost := b, vf := v } = field x)
    (s : State) (fn : Nat) (st : VfState) (n : Nat) : field (fnOf (setVf s fn st) n) = field (fnOf s n) := by
  unfold setVf
  split
  · rfl
  · exact (fnOf_noteEvent (fun x a b => keep x a b x.vf) ..).trans ((fnOf_noteEvent (fun x a b => keep x a b x.vf) ..).trans
      (fnOf_modFn_field (fun x => keep x x.evrt x.evlost st) ..))

/-! ## Commands and their ends (R348) -/

/-- The end of a command. -/
theorem finishCmd_tells (s : State) (fn n : Nat) : (fnOf (finishCmd s fn n) fn).busy = false ∧ (fnOf (finishCmd s fn n) fn).result = n ∧
    (finishCmd s fn n).mem = s.mem := by
  have f : fnOf (finishCmd s fn n) fn = _ := fnOf_modFn ..
  rw [f]
  exact ⟨rfl, rfl, rfl⟩

theorem fnOf_finishCmd {α : Type} {field : Fn → α} (keep : ∀ (x : Fn) (b : Bool) (n : Nat), field { x with busy := b, result := n } = field x)
    (s : State) (fn n k : Nat) : field (fnOf (finishCmd s fn n) k) = field (fnOf s k) :=
  fnOf_modFn_field (fun x => keep x false n) s fn k

section
variable {s : State} {fn : Nat} (subj : s.subj = .of [fn]) (op : Nat)
include subj

theorem pfCommand_absent (act : State → State) (h : cmdDue s fn (· == op) = false) : pfCommand op s act = s := by
  unfold pfCommand
  rw [subj]
  simp [h]

theorem pfCommand_refused (act : State → State) (h : cmdDue s fn (· == op) = true) (vf : fn ≠ 0) : pfCommand op s act = finishCmd s fn 1 := by
  unfold pfCommand
  rw [subj]
  simp [h, vf]

theorem pfCommand_acts (act : State → State) (h : cmdDue s fn (· == op) = true) (pf : fn = 0) : pfCommand op s act = act s := by
  unfold pfCommand
  rw [subj]
  subst pf
  simp [h]

theorem vfCommand_absent (act : State → Nat → State) (h : cmdDue s fn (· == op) = false) : vfCommand op s act = s := by
  unfold vfCommand
  rw [subj]
  simp [h]

theorem vfCommand_refused (act : State → Nat → State) (h : cmdDue s fn (· == op) = true) (pf : fn = 0) : vfCommand op s act = finishCmd s fn 1 := by
  unfold vfCommand
  rw [subj]
  subst pf
  simp [h]

theorem vfCommand_acts (act : State → Nat → State) (h : cmdDue s fn (· == op) = true) (vf : fn ≠ 0) : vfCommand op s act = act s fn := by
  unfold vfCommand
  rw [subj]
  simp [h, vf]

/-! ## Policies (R345) -/

theorem policy_submits (vf_ : fn ≠ 0) (due : cmdDue s fn (· == 1) = true) :
    let f := fnOf s fn
    let bytes := f.data.read 0x100 0xF00
    let told (t : State) (n : Nat) : Prop := (fnOf t fn).busy = false ∧ (fnOf t fn).result = n ∧ t.mem = s.mem
    let ends (i : Instr) (n : Nat) : Prop := ∃ t, exec i s = .next t ∧ told t n
    let vf := (readPolicy bytes).1
    let p := (readPolicy bytes).2
    (Config.sigOk p.key bytes = false → ends .policy 2) ∧
    (Config.sigOk p.key bytes = true → vf ≠ fn → ends .policy 4) ∧
    (Config.sigOk p.key bytes = true → vf = fn → (∃ q, f.policy = some q ∧ q.key ≠ p.key) → ends .policy 1) ∧
    (Config.sigOk p.key bytes = true → vf = fn → (∀ q, f.policy = some q → q.key = p.key) →
      ∃ t, exec .policy s = .next t ∧ told t 0 ∧ (fnOf t fn).policy = some p ∧
        (fnOf t fn).vf = (if f.vf = .idle then .ready else f.vf)) := by
  intro f bytes told ends vf p
  have acts : exec .policy s = .next (submitPolicy s fn) := by
    rw [show exec .policy s = execPolicy s by rfl, execPolicy, vfCommand_acts subj 1 submitPolicy due vf_]
  obtain ⟨other, hother⟩ : ∃ other : Bool, other = (match f.policy with | some q => q.key != p.key | none => false) := ⟨_, rfl⟩
  have made : submitPolicy s fn = if !Config.sigOk p.key bytes then finishCmd s fn 2
      else if vf != fn then finishCmd s fn 4
      else if other then finishCmd s fn 1
      else finishCmd (if f.vf = .idle then setVf (modFn s fn fun f => { f with policy := some p }) fn .ready
        else modFn s fn fun f => { f with policy := some p }) fn 0 := by
    rw [hother]
    rfl
  rw [made] at acts
  refine ⟨fun bad => ?_, fun good away => ?_, fun good here other_ => ?_, fun good here same => ?_⟩
  · rw [if_pos (by simp [bad])] at acts
    exact ⟨_, acts, finishCmd_tells ..⟩
  · rw [if_neg (by simp [good]), if_pos (by simpa using away)] at acts
    exact ⟨_, acts, finishCmd_tells ..⟩
  · obtain ⟨q, hq, differs⟩ := other_
    rw [if_neg (by simp [good]), if_neg (by simpa using here), if_pos (by rw [hother, hq]; simpa using differs)] at acts
    exact ⟨_, acts, finishCmd_tells ..⟩
  · have none_ : other = false := by
      rw [hother]
      cases hp : f.policy with
      | none => rfl
      | some q => simp [same q hp]
    rw [if_neg (by simp [good]), if_neg (by simpa using here), if_neg (by simp [none_])] at acts
    have recorded := fnOf_modFn s fn fun f => { f with policy := some p }
    obtain ⟨r, hr, mem, policy, vf'⟩ : ∃ r, r = (if f.vf = .idle then setVf (modFn s fn fun f => { f with policy := some p }) fn .ready
        else modFn s fn fun f => { f with policy := some p }) ∧ r.mem = s.mem ∧ (fnOf r fn).policy = some p ∧
        (fnOf r fn).vf = if f.vf = .idle then .ready else f.vf := by
      refine ⟨_, rfl, ?_⟩
      split
      · obtain ⟨left, enters⟩ := setVf_enters (modFn s fn fun f => { f with policy := some p }) fn .ready
        exact ⟨(aside_mem left :), (fnOf_setVf (field := Fn.policy) (fun _ _ _ _ => by rfl) ..).trans (congrArg Fn.policy recorded :), enters⟩
      · exact ⟨rfl, (congrArg Fn.policy recorded :), (congrArg Fn.vf recorded :)⟩
    rw [← hr] at acts
    obtain ⟨busy, result, kept⟩ := finishCmd_tells r fn 0
    exact ⟨_, acts, ⟨busy, result, kept.trans mem⟩, (fnOf_finishCmd (field := Fn.policy) (fun _ _ _ => by rfl) ..).trans policy,
      (fnOf_finishCmd (field := Fn.vf) (fun _ _ _ => by rfl) ..).trans vf'⟩

/-! ## Keys (R343, R344, R347) -/

omit subj in
theorem freeKey_free {fn k : Nat} (h : freeKey s fn = some k) : 0 < k ∧ k < 256 ∧ (∀ x ∈ s.ctxs, x.2.keyid ≠ k) ∧
    ∀ x ∈ s.fns, x.1 ≠ fn → x.2.keyid ≠ k := by
  unfold freeKey at h
  have ok := List.find?_some h
  have small := List.mem_range.1 (List.mem_of_find?_eq_some h)
  rw [Bool.and_eq_true, Bool.not_eq_true', bne_iff_ne] at ok
  obtain ⟨some_, unused⟩ := ok
  have away : k ∉ ((s.fns.filter fun (i, _) => i != fn).map fun (_, f) => f.keyid) ++ (s.ctxs.map fun (_, c) => c.keyid) ++
      s.blobs.flatMap fun b => b.ctxs.map fun (_, c) => c.keyid := fun listed => by
    rw [List.contains_iff_mem.2 listed] at unused
    cases unused
  refine ⟨Nat.pos_of_ne_zero some_, small, fun x hx same => away ?_, fun x hx other same => away ?_⟩
  · exact List.mem_append_left _ (List.mem_append_right _ (List.mem_map.2 ⟨x, hx, same⟩))
  · exact List.mem_append_left _ (List.mem_append_left _ (List.mem_map.2 ⟨x, List.mem_filter.2 ⟨hx, by simpa using other⟩, same⟩))

theorem keys_arrive (vf_ : fn ≠ 0) (due : cmdDue s fn (· == 3) = true) :
    let f := fnOf s fn
    let bytes := f.data.read 0x100 0xF00
    let told (t : State) (n : Nat) : Prop := (fnOf t fn).busy = false ∧ (fnOf t fn).result = n ∧ t.mem = s.mem
    let ends (i : Instr) (n : Nat) : Prop := ∃ t, exec i s = .next t ∧ told t n
    (f.vf = .idle → ends .keys 3) ∧ (f.vf ≠ .idle → f.ephemeral = none → ends .keys 2) ∧
      ∀ e, f.vf ≠ .idle → f.ephemeral = some e → (Config.keysOk e bytes = false → ends .keys 2) ∧
        (Config.keysOk e bytes = true → (freeKey s fn = none → ends .keys 3) ∧
        ∀ k, freeKey s fn = some k → ∃ t, exec .keys s = .next t ∧ told t 0 ∧ (fnOf t fn).keyid = k ∧ 0 < k ∧ k < 256 ∧
          (fnOf t fn).ephemeral = none ∧ tabGet k t.keys = some (Config.unwrapped 0 e bytes, Config.unwrapped 1 e bytes) ∧
          (∀ x ∈ s.ctxs, x.2.keyid ≠ k) ∧ ∀ x ∈ s.fns, x.1 ≠ fn → x.2.keyid ≠ k) := by
  intro f bytes told ends
  have acts : exec .keys s = .next (deliverKeys s fn) := by
    rw [show exec .keys s = execKeys s by rfl, execKeys, vfCommand_acts subj 3 deliverKeys due vf_]
  refine ⟨fun idle => ⟨_, acts, ?_⟩, fun on none_ => ⟨_, acts, ?_⟩, fun e on held => ⟨fun bad => ⟨_, acts, ?_⟩, fun good => ⟨fun full => ⟨_, acts, ?_⟩,
    fun k hk => ⟨_, acts, ?_⟩⟩⟩⟩
  · rw [deliverKeys, if_pos idle]
    exact finishCmd_tells ..
  · rw [deliverKeys, if_neg on, show (fnOf s fn).ephemeral = none from none_]
    exact finishCmd_tells ..
  · rw [deliverKeys, if_neg on, show (fnOf s fn).ephemeral = some e from held]
    dsimp only
    rw [if_pos (by rw [mailData]; simpa using bad)]
    exact finishCmd_tells ..
  · rw [deliverKeys, if_neg on, show (fnOf s fn).ephemeral = some e from held]
    dsimp only
    rw [if_neg (by rw [mailData]; simpa using good), full]
    exact finishCmd_tells ..
  · obtain ⟨some_, small, ctxs, fns⟩ := freeKey_free hk
    rw [deliverKeys, if_neg on, show (fnOf s fn).ephemeral = some e from held]
    dsimp only
    rw [if_neg (by rw [mailData]; simpa using good), hk]
    dsimp only
    obtain ⟨r, hr⟩ : ∃ r, r = modFn { s with keys := tabPut k (Config.unwrapped 0 e (mailData s fn), Config.unwrapped 1 e (mailData s fn)) s.keys } fn
        fun f => { f with keyid := k, ephemeral := none } := ⟨_, rfl⟩
    have recorded : fnOf r fn = { fnOf s fn with keyid := k, ephemeral := none } := by
      rw [hr]
      exact fnOf_modFn ..
    rw [← hr]
    obtain ⟨busy, result, kept⟩ := finishCmd_tells r fn 0
    refine ⟨⟨busy, result, kept.trans (by rw [hr]; rfl)⟩, (fnOf_finishCmd (field := Fn.keyid) (fun _ _ _ => by rfl) ..).trans (congrArg Fn.keyid recorded),
      some_, small, (fnOf_finishCmd (field := Fn.ephemeral) (fun _ _ _ => by rfl) ..).trans (congrArg Fn.ephemeral recorded), ?_, ctxs, fns⟩
    rw [hr]
    exact tabGet_put_same ..

/-! ## Reports and blobs (R353, R354) -/

omit subj in
theorem read_write_part {m : Memory} (wf : m.wf = true) (l : List Byte) (a k n : Nat) (h : k + n ≤ l.length) :
    (m.write a l).read (a + k) n = (l.drop k).take n := by
  apply List.ext_getElem?
  intro i
  by_cases hi : i < n
  · rw [read_get _ _ _ _ hi, Nat.add_assoc, get_write l a (k + i) wf (by omega), List.getElem?_take_of_lt hi, List.getElem?_drop,
      List.getElem?_eq_getElem]
  · rw [List.getElem?_eq_none (by rw [read_length]; omega), List.getElem?_eq_none (by simp; omega)]

omit subj in
/-- The parts of a report that a reader of DATA looks for. -/
theorem report_parts {a b c d e : List Byte} (ha : a.length = 8) (hb : b.length = 64) (hc : c.length = 128) (hd : d.length = 64) :
    ((a ++ (b ++ (c ++ (d ++ e)))).drop 0).take 8 = a ∧ ((a ++ (b ++ (c ++ (d ++ e)))).drop 8).take 64 = b ∧
    ((a ++ (b ++ (c ++ (d ++ e)))).drop 200).take 64 = d := by
  refine ⟨?_, ?_, ?_⟩
  · rw [List.drop_zero, List.take_left' ha]
  · rw [List.drop_left' ha, List.take_left' hb]
  · rw [show a ++ (b ++ (c ++ (d ++ e))) = (a ++ b ++ c) ++ (d ++ e) by simp only [List.append_assoc],
      List.drop_left' (by simp only [List.length_append]; omega), List.take_left' hd]

/-- The digest of the policy of a function, as a report gives it. -/
def policyDigest (f : Fn) : List Byte :=
  match f.policy with
  | some p => freeBytes 64 (Config.sha512 p.block)
  | none => List.replicate 64 0

omit subj in
theorem policyDigest_length (f : Fn) : (policyDigest f).length = 64 := by
  unfold policyDigest
  split <;> simp [freeBytes]

omit subj in
theorem attestation_parts (s : State) (fn eph : Nat) (nonce : List Byte) : ∃ fixed tail : List Byte, fixed.length = 128 ∧
    attestation s fn eph nonce = bytesOf 8 (regWord s fn 0) ++ (nonce ++ (fixed ++ (policyDigest (fnOf s fn) ++ tail))) := by
  refine ⟨freeBytes 64 Config.firmwareByte ++ freeBytes 64 (Config.sha512 s.block), freeBytes 16 Config.serialByte ++
    (freeBytes 132 (Config.publicByte eph) ++ freeBytes 132 (Config.signByte Config.identityKey (attested s fn eph nonce))), by simp [freeBytes], ?_⟩
  unfold attestation
  dsimp only
  generalize freeBytes 132 (Config.signByte Config.identityKey (attested s fn eph nonce)) = sign
  unfold attested policyDigest
  simp only [List.append_assoc] <;> rfl

theorem attest_answers (due : cmdDue s fn (· == 2) = true) (wf : (fnOf s fn).data.wf = true) :
    let f := fnOf s fn
    let told (t : State) (n : Nat) : Prop := (fnOf t fn).busy = false ∧ (fnOf t fn).result = n ∧ t.mem = s.mem
    ∃ t, exec .attest s = .next t ∧ told t 0 ∧ (fnOf t fn).ephemeral = some s.fresh ∧
      (fnOf t fn).data.read 0x100 8 = bytesOf 8 (regWord s fn 0) ∧ (fnOf t fn).data.read 0x108 64 = f.data.read 0x100 64 ∧
      (∀ p, f.policy = some p → (fnOf t fn).data.read 0x1C8 64 = freeBytes 64 (Config.sha512 p.block)) ∧
      (f.policy = none → (fnOf t fn).data.read 0x1C8 64 = List.replicate 64 0) := by
  intro f told
  have acts : exec .attest s = .next (attestTo s fn) := by
    rw [show exec .attest s = execAttest s by rfl]
    simp [execAttest, subj, due]
  obtain ⟨fixed, tail, l128, parts⟩ := attestation_parts { s with fresh := s.fresh + 1 } fn s.fresh (f.data.read 0x100 64)
  have l8 := bytesOf_length 8 (regWord s fn 0)
  have l64 := read_length f.data 0x100 64
  have l64' := policyDigest_length f
  obtain ⟨report, hreport⟩ : ∃ report, report = bytesOf 8 (regWord s fn 0) ++ (f.data.read 0x100 64 ++ (fixed ++ (policyDigest f ++ tail))) := ⟨_, rfl⟩
  have made : attestTo s fn = finishCmd (modFn (reply { s with fresh := s.fresh + 1 } fn report) fn fun f => { f with ephemeral := some s.fresh }) fn 0 := by
    rw [hreport]
    exact congrArg (fun b => finishCmd (modFn (reply { s with fresh := s.fresh + 1 } fn b) fn fun f => { f with ephemeral := some s.fresh }) fn 0) parts
  obtain ⟨r, hr⟩ : ∃ r, r = modFn (reply { s with fresh := s.fresh + 1 } fn report) fn fun f =>
      { f with ephemeral := some s.fresh } := ⟨_, rfl⟩
  obtain ⟨l, hl⟩ : ∃ l, l = report.take 0xF00 := ⟨_, rfl⟩
  have recorded : fnOf r fn = { fnOf s fn with data := (fnOf s fn).data.write 0x100 l, ephemeral := some s.fresh } := by
    rw [hr, fnOf_modFn, reply, fnOf_modFn, hl]
    rfl
  rw [made, ← hr] at acts
  obtain ⟨busy, result, kept⟩ := finishCmd_tells r fn 0
  have data : (fnOf (finishCmd r fn 0) fn).data = (fnOf s fn).data.write 0x100 l :=
    (fnOf_finishCmd (field := Fn.data) (fun _ _ _ => by rfl) ..).trans (congrArg Fn.data recorded)
  have part_ (k n : Nat) (low : k + n ≤ 264) : (fnOf (finishCmd r fn 0) fn).data.read (0x100 + k) n = (report.drop k).take n := by
    have long : 264 ≤ report.length := by
      rw [hreport]
      simp only [List.length_append]
      omega
    rw [data, read_write_part wf l 0x100 k n (by rw [hl, List.length_take]; omega), hl, List.drop_take, List.take_take, Nat.min_eq_left (by omega)]
  obtain ⟨first, second, fourth⟩ := report_parts (e := tail) l8 l64 l128 l64'
  rw [← hreport] at first second fourth
  have digest : (fnOf (finishCmd r fn 0) fn).data.read 0x1C8 64 = policyDigest f := (part_ 200 64 (by omega)).trans fourth
  refine ⟨_, acts, ⟨busy, result, kept.trans (by rw [hr]; rfl)⟩, (fnOf_finishCmd (field := Fn.ephemeral) (fun _ _ _ => by rfl) ..).trans
    (congrArg Fn.ephemeral recorded), (part_ 0 8 (by omega)).trans first, (part_ 8 64 (by omega)).trans second, fun p hp => ?_, fun hp => ?_⟩
  · rw [digest, policyDigest, hp]
  · rw [digest, policyDigest, hp]

theorem open_copies (vf_ : fn ≠ 0) (due : cmdDue s fn (· == 4) = true) :
    let f := fnOf s fn
    let told (t : State) (n : Nat) : Prop := (fnOf t fn).busy = false ∧ (fnOf t fn).result = n ∧ t.mem = s.mem
    let ends (i : Instr) (n : Nat) : Prop := ∃ t, exec i s = .next t ∧ told t n
    let h := f.cmd.nat 8 8
    (∀ r, s.reports.find? (fun r => r.fn = fn && r.handle = h) = some r → f.data.wf = true →
      ∃ t, exec .openCmd s = .next t ∧ told t 0 ∧ (fnOf t fn).data.read 0x100 (min r.bytes.length 0xF00) = r.bytes.take 0xF00) ∧
    ((∀ r ∈ s.reports, ¬ (r.fn = fn ∧ r.handle = h)) → (∀ b ∈ s.blobs, ¬ (b.fn = fn ∧ b.handle = h)) → ends .openCmd 4) := by
  intro f told ends h
  have acts : exec .openCmd s = .next (openHandle s fn) := by
    rw [show exec .openCmd s = execOpenCmd s by rfl, execOpenCmd, vfCommand_acts subj 4 openHandle due vf_]
  refine ⟨fun r found wf => ⟨_, acts, ?_⟩, fun report blob => ⟨_, acts, ?_⟩⟩
  · have made : openHandle s fn = finishCmd (reply s fn r.bytes) fn 0 := by
      unfold openHandle
      dsimp only
      rw [show s.reports.find? (fun r => r.fn = fn && r.handle = mailArg s fn 8 8) = some r from found]
    rw [made]
    obtain ⟨busy, result, kept⟩ := finishCmd_tells (reply s fn r.bytes) fn 0
    refine ⟨⟨busy, result, kept⟩, ?_⟩
    have data : (fnOf (finishCmd (reply s fn r.bytes) fn 0) fn).data = f.data.write 0x100 (r.bytes.take 0xF00) :=
      (fnOf_finishCmd (field := Fn.data) (fun _ _ _ => by rfl) ..).trans
        (congrArg Fn.data (fnOf_modFn s fn fun f => { f with data := f.data.write 0x100 (r.bytes.take 0xF00) }) :)
    have stands := read_write (m := f.data) (r.bytes.take 0xF00) 0x100 wf
    rwa [List.length_take, Nat.min_comm, ← data] at stands
  · have none_ : s.reports.find? (fun r => r.fn = fn && r.handle = mailArg s fn 8 8) = none :=
      List.find?_eq_none.2 fun r hr => by simp only [Bool.and_eq_true, decide_eq_true_eq]; exact report r hr
    have none_' : s.blobs.find? (fun b => b.fn = fn && b.handle = mailArg s fn 8 8) = none :=
      List.find?_eq_none.2 fun b hb => by simp only [Bool.and_eq_true, decide_eq_true_eq]; exact blob b hb
    have made : openHandle s fn = finishCmd s fn 4 := by
      unfold openHandle
      dsimp only
      rw [none_, none_']
    rw [made]
    exact finishCmd_tells ..

/-! ## Counts (R350) -/

omit subj in
/-- The words of equal length of a list, one after the other. -/
theorem flatMap_part {α : Type} (f : α → List Byte) (n : Nat) (len : ∀ x, (f x).length = n) : ∀ (l : List α) (i : Nat) (x : α), l[i]? = some x →
    ((l.flatMap f).drop (n * i)).take n = f x
  | [], i, x, h => by simp at h
  | y :: r, 0, x, h => by
    obtain rfl : y = x := by simpa using h
    rw [Nat.mul_zero, List.drop_zero, List.flatMap_cons, List.take_append_of_le_length (by rw [len]), List.take_of_length_le (by rw [len])]
  | y :: r, i + 1, x, h => by
    rw [List.flatMap_cons, show n * (i + 1) = (f y).length + n * i by rw [len, Nat.mul_succ, Nat.add_comm], List.drop_append,
      List.drop_eq_nil_of_le (by omega), Nat.add_sub_cancel_left, List.nil_append]
    exact flatMap_part f n len r i x (by simpa using h)

omit subj in
theorem flatMap_length {α : Type} (f : α → List Byte) (n : Nat) (len : ∀ x, (f x).length = n) (l : List α) : (l.flatMap f).length = n * l.length := by
  induction l with
  | nil => rfl
  | cons y r ih => rw [List.flatMap_cons, List.length_append, ih, len, List.length_cons, Nat.mul_succ, Nat.add_comm]

/-- The counts as bytes. -/
def countsBytes (s : State) : List Byte := (List.range 0x1E0).flatMap fun i => bytesOf 8 (tabGetD (0x100 + 8 * i) 0 s.counts)

omit subj in
theorem copyCounts_eq (s : State) : copyCounts s = modFn s 0 fun f => { f with data := f.data.write 0x100 (countsBytes s) } := by
  unfold copyCounts countsBytes
  rfl

/-- The counts stand in DATA one after the other. -/
def countsCopied (s t : State) : Prop := ∀ i < 480, (fnOf t 0).data.read (0x100 + 8 * i) 8 = bytesOf 8 (tabGetD (0x100 + 8 * i) 0 s.counts)

omit subj in
theorem copyCounts_copies (s : State) (wf : (fnOf s 0).data.wf = true) : countsCopied s (copyCounts s) := by
  intro i hi
  have length : (countsBytes s).length = 3840 := by
    rw [countsBytes, flatMap_length _ 8 (fun _ => bytesOf_length ..), List.length_range]
  rw [copyCounts_eq, fnOf_modFn]
  dsimp only
  rw [read_write_part wf (countsBytes s) 0x100 (8 * i) 8 (by omega), countsBytes]
  exact flatMap_part _ 8 (fun _ => bytesOf_length ..) _ i i (List.getElem?_range (by omega))

theorem counts_copied (pf : fn = 0) (due : cmdDue s fn (· == 0x17) = true) (wf : (fnOf s fn).data.wf = true) :
    let f := fnOf s fn
    let told (t : State) (n : Nat) : Prop := (fnOf t fn).busy = false ∧ (fnOf t fn).result = n ∧ t.mem = s.mem
    (Machine.bit (f.cmd.nat 1 1) 0 = false → ∃ t, exec .counts s = .next t ∧ told t 0 ∧ countsCopied s t ∧ t.counts = s.counts) ∧
    (Machine.bit (f.cmd.nat 1 1) 0 = true → ∃ t, exec .countsClear s = .next t ∧ told t 0 ∧ countsCopied s t ∧ t.counts = []) := by
  subst pf
  intro f told
  have copied : countsCopied s (finishCmd (copyCounts s) 0 0) := fun i hi => by
    rw [fnOf_finishCmd (field := Fn.data) fun _ _ _ => by rfl]
    exact copyCounts_copies s wf i hi
  obtain ⟨busy, result, kept⟩ := finishCmd_tells (copyCounts s) 0 0
  refine ⟨fun keep => ⟨finishCmd (copyCounts s) 0 0, ?_, ⟨busy, result, kept⟩, copied, rfl⟩,
    fun clear => ⟨{ finishCmd (copyCounts s) 0 0 with counts := [] }, ?_, ⟨busy, result, kept⟩, copied, rfl⟩⟩
  · rw [show exec .counts s = execCounts s by rfl, execCounts, pfCommand_acts subj 0x17 _ due rfl]
    rw [if_neg (by rw [mailArg]; simpa using keep)]
  · rw [show exec .countsClear s = execCountsClear s by rfl, execCountsClear, pfCommand_acts subj 0x17 _ due rfl]
    rw [if_pos (by rw [mailArg]; exact clear)]

end

/-! ## The obligation -/

/-- The rows of the commands that the PF alone may give. -/
theorem exec_pfRow (s : State) (op : Nat) (i : Instr) (listed : op = 0x10 ∧ i = .sched ∨ op = 0x11 ∧ i = .pause ∨ op = 0x12 ∧ i = .evict ∨
    op = 0x13 ∧ i = .resume ∨ op = 0x14 ∧ i = .kill ∨ op = 0x15 ∧ i = .move ∨ op = 0x16 ∧ i = .retireCluster ∨ op = 0x16 ∧ i = .retireChannelPair ∨
    op = 0x17 ∧ i = .counts ∨ op = 0x17 ∧ i = .countsClear) : ∃ act, exec i s = .next (pfCommand op s act) := by
  obtain ⟨rfl, rfl⟩ | ⟨rfl, rfl⟩ | ⟨rfl, rfl⟩ | ⟨rfl, rfl⟩ | ⟨rfl, rfl⟩ | ⟨rfl, rfl⟩ | ⟨rfl, rfl⟩ | ⟨rfl, rfl⟩ | ⟨rfl, rfl⟩ | ⟨rfl, rfl⟩ := listed
  · exact ⟨_, rfl⟩
  · exact ⟨_, rfl⟩
  · exact ⟨_, rfl⟩
  · exact ⟨_, rfl⟩
  · exact ⟨_, rfl⟩
  · exact ⟨_, rfl⟩
  · exact ⟨_, rfl⟩
  · exact ⟨_, rfl⟩
  · exact ⟨_, rfl⟩
  · exact ⟨_, rfl⟩

/-- Settles O51: each command of the mailbox by what its function leaves. -/
theorem mailboxCommands : Obligations.MailboxCommands := by
  unfold Obligations.MailboxCommands
  intro s fn subj f due absent told ends bytes
  have refused (i : Instr) (r : State) (acts : exec i s = .next r) (is : r = finishCmd s fn 1) : ends i 1 := ⟨_, acts, is ▸ finishCmd_tells s fn 1⟩
  refine ⟨fun op i listed none_ => ?_, fun op i listed is vf => ?_, fun is pf => refused _ _ (by rfl) (vfCommand_refused subj 1 _ is pf),
    fun is pf => refused _ _ (by rfl) (vfCommand_refused subj 3 _ is pf), fun is pf => refused _ _ (by rfl) (vfCommand_refused subj 4 _ is pf),
    fun is vf => policy_submits subj vf is, fun is wf => attest_answers subj is wf, fun is vf => keys_arrive subj vf is, fun is vf => open_copies subj vf is,
    fun pf is wf => ?_, fun busy unknown => ?_, fun idle => ?_⟩
  · simp only [List.mem_cons, Prod.mk.injEq, List.not_mem_nil, or_false] at listed
    obtain ⟨rfl, rfl⟩ | ⟨rfl, rfl⟩ | ⟨rfl, rfl⟩ | ⟨rfl, rfl⟩ | listed := listed
    · exact congrArg Host.Outcome.next (vfCommand_absent subj 1 submitPolicy none_)
    · rw [show exec .attest s = execAttest s by rfl]
      simp only [execAttest, subj]
      rw [if_neg (by rw [show cmdDue s fn (· == 2) = false from none_]; simp)]
    · exact congrArg Host.Outcome.next (vfCommand_absent subj 3 deliverKeys none_)
    · exact congrArg Host.Outcome.next (vfCommand_absent subj 4 openHandle none_)
    · obtain ⟨act, acts⟩ := exec_pfRow s op i listed
      rw [acts, pfCommand_absent subj op act none_]
  · simp only [List.mem_cons, Prod.mk.injEq, List.not_mem_nil, or_false] at listed
    obtain ⟨act, acts⟩ := exec_pfRow s op i listed
    exact refused i _ acts (pfCommand_refused subj op act is vf)
  · subst pf
    exact counts_copied subj rfl is wf
  · refine ⟨finishCmd s fn 4, ?_, finishCmd_tells ..⟩
    rw [show exec .unknownCommand s = execUnknownCommand s by rfl]
    simp only [execUnknownCommand, subj]
    rw [if_pos (by simp [unknown]; exact busy)]
  · rw [show exec .unknownCommand s = execUnknownCommand s by rfl]
    simp only [execUnknownCommand, subj]
    rw [if_neg (by rw [show (fnOf s fn).busy = false from idle]; simp)]

end Sys2Proof
end

section
/-! Readiness, slice moves, retirement and module reset (R28, R349, R355-R358, R432, R433), and O53. -/

namespace Sys2Proof
open Machine

/-! ## What retirement and moves leave -/

/-- A partition entry but for what the loss of its guarantees changes. -/
def fixedEntry (e : PartEntry) : PartEntry := { e with en := false, gminc := 0, gmins := 0 }

/-- A state but for the slices and guarantees of its partitions, the moves of slices, and what reports and events change. -/
def unsliced (s : State) : State :=
  { aside s with moves := [], slicesLost := [], agenda := [], parts := s.parts.map fun x => (x.1, fixedEntry x.2) }

theorem unsliced_of_aside {s t : State} (h : aside t = aside s) : unsliced t = unsliced s :=
  congrArg (fun x : State => { x with moves := [], slicesLost := [], agenda := [], parts := x.parts.map fun y : Nat × PartEntry => (y.1, fixedEntry y.2) }) h

theorem aside_sliceEvent (s : State) (part : Nat) : aside (sliceEvent s part) = aside s :=
  foldl_same (view := aside) (f := fun a f => noteEvent a f 4) (fun a f => aside_noteEvent a f 4) _ s

theorem aside_tellVfs (s : State) (part what number : Nat) : aside (tellVfs s part what number) = aside s :=
  foldl_same (view := aside) (f := fun a f => retireReport a f 0 0 what number 0) (fun _ _ => aside_postReport ..) _ s

theorem unsliced_startMove (s : State) (part j k : Nat) (host : Bool) : unsliced (startMove s part j k host) = unsliced s := rfl

theorem unsliced_copyRetired (s : State) : unsliced (copyRetired s) = unsliced s := by
  unfold copyRetired
  refine foldl_same (view := unsliced) (fun a p => ?_) _ s
  split
  · rfl
  · split
    · exact unsliced_startMove ..
    · rfl

theorem unsliced_takeSlice (s : State) (p : Nat) : unsliced (takeSlice s p) = unsliced s := by
  unfold takeSlice
  split
  · rfl
  · exact (unsliced_of_aside ((aside_tellVfs ..).trans (aside_sliceEvent ..))).trans rfl

theorem unsliced_parts (s : State) (p : Nat) {f : PartEntry → PartEntry} (h : ∀ e, fixedEntry (f e) = fixedEntry e) :
    unsliced { s with parts := tabMod p f s.parts } = unsliced s := by
  have same := map_tabMod_same (f := f) (g := fun x : Nat × PartEntry => (x.1, fixedEntry x.2)) (fun k x => by dsimp only; rw [h]) p s.parts
  exact congrArg (fun l => { aside s with moves := [], slicesLost := [], agenda := [], parts := l }) same

theorem unsliced_withdraw (s : State) (p : Nat) : unsliced (withdraw s p) = unsliced s := by
  unfold withdraw
  dsimp only [freshNat]
  refine (unsliced_of_aside ((aside_tellVfs ..).trans (aside_postEvent ..))).trans ?_
  exact unsliced_parts s p fun _ => by rfl

theorem unsliced_meetMinima : ∀ (n : Nat) (s : State), unsliced (meetMinima n s) = unsliced s
  | 0, _ => rfl
  | n + 1, s => by
    unfold meetMinima
    dsimp only
    split
    · exact (unsliced_meetMinima n _).trans (unsliced_takeSlice ..)
    · split
      · rfl
      · split
        · exact (unsliced_meetMinima n _).trans (unsliced_withdraw ..)
        · rfl

theorem unsliced_checkMinima (s : State) : unsliced (checkMinima s) = unsliced s := by
  refine Eq.trans ?_ (unsliced_meetMinima 1000 s)
  unfold checkMinima disableEmpty
  refine foldl_same (view := unsliced) (fun a x => ?_) _ _
  obtain ⟨p, e⟩ := x
  dsimp only
  split
  · exact (unsliced_of_aside (aside_tellVfs ..)).trans (unsliced_parts a p fun _ => by rfl)
  · rfl

theorem unsliced_readyAt {s t : State} (h : unsliced t = unsliced s) (k : Nat) : readyAt t k = readyAt s k := (congrArg (fun x => readyAt x k) h :)

/-! ## Readiness (R27, R28) -/

theorem bit_eq_testBit (n k : Nat) : Machine.bit n k = n.testBit k := by
  rw [Machine.bit, Nat.testBit_eq_decide_div_mod_eq, beq_eq_decide]

/-- A clear bit that is set changes no other. -/
theorem testBit_add_pow {n k : Nat} (clear : n.testBit k = false) (j : Nat) : (n + 2 ^ k).testBit j = if j = k then true else n.testBit j := by
  split
  · next here => rw [here, Nat.add_comm, Nat.testBit_two_pow_add_eq, clear]; rfl
  · next off =>
    rcases Nat.lt_or_gt_of_ne off with low | high
    · rw [Nat.add_comm, Nat.testBit_two_pow_add_gt low]
    · have rest : n % 2 ^ (k + 1) < 2 ^ k := by
        have even : n / 2 ^ k % 2 = 0 := by
          rw [Nat.testBit_eq_decide_div_mod_eq] at clear
          simp only [decide_eq_false_iff_not] at clear
          omega
        rw [Nat.pow_succ, Nat.mod_mul, even, Nat.mul_zero, Nat.add_zero]
        exact Nat.mod_lt _ (Nat.two_pow_pos k)
      have above : (n + 2 ^ k) / 2 ^ (k + 1) = n / 2 ^ (k + 1) := by
        have whole : n + 2 ^ k = n % 2 ^ (k + 1) + 2 ^ k + 2 ^ (k + 1) * (n / 2 ^ (k + 1)) := by
          have := Nat.mod_add_div n (2 ^ (k + 1))
          omega
        have within : n % 2 ^ (k + 1) + 2 ^ k < 2 ^ (k + 1) := by rw [Nat.pow_succ] at rest ⊢; omega
        rw [whole, Nat.add_mul_div_left _ _ (Nat.two_pow_pos _), Nat.div_eq_of_lt within, Nat.zero_add]
      have shift (m : Nat) : m.testBit j = (m / 2 ^ (k + 1)).testBit (j - (k + 1)) := by
        rw [Nat.testBit_div_two_pow, Nat.sub_add_cancel high]
      rw [shift, above, ← shift]

/-- The readiness bits as one number. -/
def readyBits (s : State) : Nat := s.fnrdyLo.toNat + 2 ^ 64 * s.fnrdyHi.toNat

theorem readyAt_eq (s : State) (k : Nat) : readyAt s k = (readyBits s).testBit k := bit_eq_testBit ..

theorem readyBits_lt (s : State) : readyBits s < 2 ^ 128 := by
  have a := s.fnrdyLo.isLt
  have b := s.fnrdyHi.isLt
  simp only [readyBits]
  omega

/-- A state but for its readiness bits and what events change. -/
def unready (s : State) : State := { aside s with fnrdyLo := 0, fnrdyHi := 0 }

theorem setReady_sets (s : State) {k : Nat} (small : k < 128) (v : Bool) : readyAt (setReady s k v) k = v ∧
    (∀ j, j ≠ k → readyAt (setReady s k v) j = readyAt s j) ∧ unready (setReady s k v) = unready s := by
  unfold setReady
  split
  · next is => exact ⟨is, fun _ _ => rfl, rfl⟩
  · next differs =>
    obtain ⟨n, hn⟩ : ∃ n, n = readyBits s := ⟨_, rfl⟩
    have low : n < 2 ^ 128 := hn ▸ readyBits_lt s
    obtain ⟨m, hm⟩ : ∃ m, m = if v then n + 2 ^ k else n - 2 ^ k := ⟨_, rfl⟩
    have bits (j : Nat) : m.testBit j = if j = k then v else n.testBit j := by
      cases v with
      | true =>
        have clear : n.testBit k = false := by rw [hn, ← readyAt_eq]; simpa using differs
        rw [hm]
        exact testBit_add_pow clear j
      | false =>
        have set_ : n.testBit k = true := by rw [hn, ← readyAt_eq]; simpa using differs
        have least : 2 ^ k ≤ n := Nat.ge_two_pow_of_testBit set_
        have back : n = m + 2 ^ k := by rw [hm]; simp; omega
        have clear : m.testBit k = false := by
          have := Nat.testBit_two_pow_add_eq m k
          rw [Nat.add_comm, ← back, set_] at this
          simpa using this.symm
        have all := testBit_add_pow clear j
        rw [← back] at all
        split
        · next here => rw [here, clear]
        · next off => rw [all, if_neg off]
    have fits : m < 2 ^ 128 := Nat.lt_pow_two_of_testBit m fun j hj => by
      rw [bits, if_neg (by omega)]
      exact Nat.testBit_lt_two_pow (Nat.lt_of_lt_of_le low (Nat.pow_le_pow_right (by omega) hj))
    obtain ⟨r, hr⟩ : ∃ r : State, r = { s with fnrdyLo := BitVec.ofNat 64 m, fnrdyHi := BitVec.ofNat 64 (m / 2 ^ 64) } := ⟨_, rfl⟩
    have left : aside (((List.range 129).filter fun f => Machine.bit (seenBits r f) k).foldl (fun a f => noteEvent a f 1) r) = aside r :=
      foldl_same (view := aside) (f := fun a f => noteEvent a f 1) (fun a f => aside_noteEvent a f 1) _ r
    have total : readyBits r = m := by
      rw [hr]
      simp only [readyBits, BitVec.toNat_ofNat]
      omega
    obtain ⟨t, ht⟩ : ∃ t, t = ((List.range 129).filter fun f => Machine.bit (seenBits r f) k).foldl (fun a f => noteEvent a f 1) r := ⟨_, rfl⟩
    rw [← ht] at left
    have after (j : Nat) : readyAt t j = if j = k then v else readyAt s j := by
      have as_ : readyAt t j = readyAt r j := (congrArg (fun x => readyAt x j) left :)
      rw [as_, readyAt_eq, readyAt_eq, total, bits, hn]
    have set_ : (let n := s.fnrdyLo.toNat + 2 ^ 64 * s.fnrdyHi.toNat
        let m := if v then n + 2 ^ k else n - 2 ^ k
        let s1 := { s with fnrdyLo := BitVec.ofNat 64 m, fnrdyHi := BitVec.ofNat 64 (m / 2 ^ 64) }
        ((List.range 129).filter fun f => Machine.bit (seenBits s1 f) k).foldl (fun a f => noteEvent a f 1) s1) = t := by
      rw [ht, hr, hm, hn]
      rfl
    rw [set_]
    refine ⟨by rw [after, if_pos rfl], fun j off => by rw [after, if_neg off], ?_⟩
    exact (congrArg (fun x : State => { x with fnrdyLo := 0, fnrdyHi := 0 }) left).trans (by rw [hr])

/-! ## Pages at their new place (R358) -/

theorem wfFrom_of_above {m : Memory} {lo n : Nat} (hm : m.wfFrom lo = true) (above : ∀ x ∈ m, n ≤ x.1) : m.wfFrom n = true := by
  cases m with
  | nil => rfl
  | cons x r =>
    simp only [Memory.wfFrom, Bool.and_eq_true, decide_eq_true_eq] at hm ⊢
    exact ⟨⟨above x List.mem_cons_self, hm.1.2⟩, hm.2⟩

/-- What a memory lists of a region. -/
def window (m : Memory) (lo n : Nat) : Memory := m.filter fun c => lo ≤ c.1 && c.1 < lo + n

theorem window_wfFrom {m : Memory} (hm : m.wf = true) (lo n : Nat) : (window m lo n).wfFrom lo = true :=
  wfFrom_of_above (filter_wfFrom _ hm) fun x hx => by
    have := (List.mem_filter.mp hx).2
    simp only [Bool.and_eq_true, decide_eq_true_eq] at this
    exact this.1

theorem get_window {m : Memory} {lo n a : Nat} (within : lo ≤ a ∧ a < lo + n) : (window m lo n).get a = m.get a := by
  unfold window
  induction m with
  | nil => rfl
  | cons x r ih =>
    obtain ⟨k, v⟩ := x
    rw [List.filter_cons]
    split
    · simp only [Memory.get, ih]
    · next out =>
      have off : k ≠ a := fun same => out (by simp [same, within])
      rw [ih, Memory.get, if_neg off]

theorem map_sub_wfFrom {n : Nat} : ∀ {m : Memory} {lo : Nat}, m.wfFrom (lo + n) = true → Memory.wfFrom (m.map fun x => (x.1 - n, x.2)) lo = true
  | [], _, _ => rfl
  | (k, b) :: r, lo, h => by
    simp only [Memory.wfFrom, Bool.and_eq_true, decide_eq_true_eq] at h
    obtain ⟨⟨low, some_⟩, rest⟩ := h
    have := map_sub_wfFrom (n := n) (m := r) (lo := k - n + 1) (by rwa [show k - n + 1 + n = k + 1 by omega])
    simp only [List.map_cons, Memory.wfFrom, Bool.and_eq_true, decide_eq_true_eq]
    exact ⟨⟨by omega, some_⟩, this⟩

theorem get_map_sub {n a : Nat} : ∀ {m : Memory} {lo : Nat}, m.wfFrom (lo + n) = true →
    Memory.get (m.map fun x => (x.1 - n, x.2)) a = m.get (a + n)
  | [], _, _ => rfl
  | (k, b) :: r, lo, h => by
    simp only [Memory.wfFrom, Bool.and_eq_true, decide_eq_true_eq] at h
    obtain ⟨⟨low, -⟩, rest⟩ := h
    have := get_map_sub (n := n) (a := a) (m := r) (lo := k - n + 1) (by rwa [show k - n + 1 + n = k + 1 by omega])
    rw [List.map_cons, Memory.get, Memory.get, this]
    simp only [show k - n = a ↔ k = a + n by omega]

/-- A page that is copied reads at its new place as it did at the old one, and nothing else changes. -/
theorem copyPage_moves {s : State} (wf : s.mem.wf = true) (old new : Nat) :
    (∀ i < 65536, (copyPage s old new).mem.get (new + i) = s.mem.get (old + i)) ∧
    ∀ a, (a < new ∨ new + 65536 ≤ a) → (copyPage s old new).mem.get a = s.mem.get a := by
  have form : (copyPage s old new).mem =
      setAll (s.mem.clear new 65536) (((window s.mem old 65536).map fun x => (x.1 - old, x.2)).map fun x => (new + x.1, x.2)) := by
    rw [setAll, List.map_map, List.foldl_map]
    simp only [Function.comp, Nat.add_comm new]
    rfl
  have low : (window s.mem old 65536).wfFrom (0 + old) = true := by rw [Nat.zero_add]; exact window_wfFrom wf old 65536
  have clean := clear_wf new 65536 wf
  rw [form]
  refine ⟨fun i hi => ?_, fun a off => ?_⟩
  · rw [setAll_listed (map_sub_wfFrom low) clean (by rw [get_clear, if_pos (by omega)]), get_map_sub low, Nat.add_comm i,
      get_window (by omega)]
  · rw [get_setAll_outside clean, get_clear, if_neg (by omega)]
    intro x hx
    obtain ⟨y, hy, rfl⟩ := List.mem_map.mp hx
    obtain ⟨z, hz, rfl⟩ := List.mem_map.mp hy
    have := (List.mem_filter.mp hz).2
    simp only [Bool.and_eq_true, decide_eq_true_eq] at this
    dsimp only
    omega

/-- R358: what the pages of a move and its end leave. -/
theorem moves_go_on (s : State) (part : Nat) (m : SliceMove) (subj : s.subj = .of [part]) (under : tabGet part s.moves = some m) :
    let old := physOf s m.logical * 2 ^ 30
    (m.page ≠ 16384 → exec .sliceMoveComplete s = .next s) ∧
    (m.page = 16384 → Safety.rising s.sliceTab 0 → ∃ t, exec .sliceMoveComplete s = .next t ∧ physOf t m.logical = m.physical ∧
      ∀ a, t.mem.get a = if old ≤ a ∧ a < old + 2 ^ 30 then 0 else s.mem.get a) ∧
    (16384 ≤ m.page → exec .movePageNew s = .next s) ∧
    (m.page < 16384 → s.mem.wf = true → physOf s m.logical ≠ m.physical → ∃ t, exec .movePageNew s = .next t ∧
      tabGet part t.moves = some { m with page := m.page + 1 } ∧
      (∀ i < 65536, t.mem.get (m.physical * 2 ^ 30 + m.page * 65536 + i) = s.mem.get (old + m.page * 65536 + i)) ∧
      ∀ a, (a < m.physical * 2 ^ 30 + m.page * 65536 ∨ m.physical * 2 ^ 30 + m.page * 65536 + 65536 ≤ a) → t.mem.get a = s.mem.get a) := by
  have done : exec .sliceMoveComplete s = .next (if m.page = 16384 then endSliceMove s part m else s) := by
    rw [show exec .sliceMoveComplete s = execSliceMoveComplete s by rfl]
    unfold execSliceMoveComplete
    rw [subj]
    dsimp only
    rw [under]
  have page : exec .movePageNew s = .next (if m.page < 16384 then pageNew s part m else s) := by
    rw [show exec .movePageNew s = execMovePageNew s by rfl]
    unfold execMovePageNew
    rw [subj]
    dsimp only
    rw [under]
  intro old
  refine ⟨fun no => by rw [done, if_neg no], fun full rises => ?_, fun no => by rw [page, if_neg (by omega)], fun more wf _ => ?_⟩
  · rw [done, if_pos full]
    refine ⟨_, rfl, ?_⟩
    have left : unsliced (endSliceMove s part m) = unsliced { s with
        sliceTab := tabSet m.logical m.logical m.physical s.sliceTab, moves := tabDel part s.moves, mem := s.mem.clear old (2 ^ 30)
        memKeys := dropKeys s.memKeys old (2 ^ 30)
        memPoison := s.memPoison.filter fun k => !(old ≤ 32 * k && 32 * k < old + 2 ^ 30) } :=
      (unsliced_copyRetired _).trans (unsliced_of_aside (aside_sliceEvent ..))
    have table : (endSliceMove s part m).sliceTab = tabSet m.logical m.logical m.physical s.sliceTab := (congrArg State.sliceTab left :)
    have mem : (endSliceMove s part m).mem = s.mem.clear old (2 ^ 30) := (congrArg State.mem left :)
    refine ⟨?_, fun a => ?_⟩
    · rw [physOf, table, tabGetD_set_same _ _ _ rises]
    · rw [mem, get_clear]
      rfl
  · rw [page, if_pos more]
    refine ⟨_, rfl, ?_⟩
    have shape : tabGet part (pageNew s part m).moves = some { m with page := m.page + 1 } ∧ (pageNew s part m).mem =
        (copyPage s (physOf s m.logical * 2 ^ 30 + m.page * 65536) (m.physical * 2 ^ 30 + m.page * 65536)).mem := by
      unfold pageNew
      dsimp only
      split
      · exact ⟨tabGet_put_same .., rfl⟩
      · exact ⟨tabGet_put_same .., rfl⟩
    rw [shape.1, shape.2]
    exact ⟨rfl, copyPage_moves wf _ _⟩

/-! ## Retirement (R349, R432) -/

theorem told_finishCmd (s t : State) (n : Nat) (mem : t.mem = s.mem) :
    (fnOf (finishCmd t 0 n) 0).busy = false ∧ (fnOf (finishCmd t 0 n) 0).result = n ∧ (finishCmd t 0 n).mem = s.mem := by
  obtain ⟨busy, result, kept⟩ := finishCmd_tells t 0 n
  exact ⟨busy, result, kept.trans mem⟩

/-- A retired cluster with no unit on it ends no launch. -/
theorem retireCluster_retires {s : State} {c : Nat} (small : c < 128) (empty : ∀ u ∈ s.units, clusterOf u.2.core ≠ c) :
    c ∈ (retireCluster s c).retiredClusters ∧ readyAt (retireCluster s c) c = false ∧ (retireCluster s c).mem = s.mem := by
  obtain ⟨down, -, rest⟩ := setReady_sets { s with retiredClusters := s.retiredClusters ++ [c] } small false
  obtain ⟨r, hr⟩ : ∃ r, r = setReady { s with retiredClusters := s.retiredClusters ++ [c] } c false := ⟨_, rfl⟩
  rw [← hr] at down rest
  have units : r.units = s.units := (congrArg State.units rest :)
  have none_ : (r.launches.filter fun x => x.2.status = 0 && r.units.any fun u => u.2.launch = x.1 && clusterOf u.2.core = c) = [] := by
    rw [List.filter_eq_nil_iff]
    intro x _ some_
    rw [units] at some_
    simp only [Bool.and_eq_true, List.any_eq_true, decide_eq_true_eq] at some_
    obtain ⟨-, u, hu, -, on⟩ := some_
    exact empty u hu on
  have shape : retireCluster s c = checkMinima r := by
    unfold retireCluster
    rw [← hr]
    dsimp only
    rw [none_]
    rfl
  obtain ⟨t, ht⟩ : ∃ t, t = checkMinima r := ⟨_, rfl⟩
  have left : unsliced t = unsliced r := by rw [ht]; exact unsliced_checkMinima r
  rw [shape, ← ht]
  have list : t.retiredClusters = s.retiredClusters ++ [c] := (congrArg State.retiredClusters left :).trans (congrArg State.retiredClusters rest :)
  refine ⟨?_, ?_, (congrArg State.mem left :).trans (congrArg State.mem rest :)⟩
  · rw [list]
    exact List.mem_append_right _ List.mem_cons_self
  · rw [unsliced_readyAt left, down]

theorem unsliced_retirePair (s : State) (q : Nat) : unsliced (retirePair s q) = unsliced { s with retiredPairs := s.retiredPairs ++ [q] } :=
  (unsliced_copyRetired _).trans ((unsliced_checkMinima _).trans
    (foldl_same (view := unsliced) (f := fun a p => tellVfs a p 1 q) (fun _ _ => unsliced_of_aside (aside_tellVfs ..)) _ _))

theorem retirePair_retires (s : State) (q : Nat) : q ∈ (retirePair s q).retiredPairs ∧ (retirePair s q).mem = s.mem := by
  have left := unsliced_retirePair s q
  obtain ⟨t, ht⟩ : ∃ t, t = retirePair s q := ⟨_, rfl⟩
  rw [← ht] at left ⊢
  have list : t.retiredPairs = s.retiredPairs ++ [q] := (congrArg State.retiredPairs left :)
  refine ⟨?_, (congrArg State.mem left :)⟩
  rw [list]
  exact List.mem_append_right _ List.mem_cons_self

/-- R349: the operands RETIRE may have, and what it answers. -/
theorem retireCmd_ends (kind limit : Nat) (done : State → Nat → Bool) (act : State → Nat → State) (s : State) :
    let b1 := (fnOf s 0).cmd.nat 1 1
    let n := (fnOf s 0).cmd.nat 2 2
    let rest := (fnOf s 0).cmd.nat 4 60
    ((b1 ≠ kind ∨ limit ≤ n ∨ rest ≠ 0) → retireCmd kind limit done act s = finishCmd s 0 4) ∧
    (b1 = kind → n < limit → rest = 0 → retireCmd kind limit done act s = if done s n then finishCmd s 0 3 else finishCmd (act s n) 0 0) := by
  intro b1 n rest
  have form : retireCmd kind limit done act s = if b1 != kind || limit ≤ n || rest != 0 then finishCmd s 0 4
    else if done s n then finishCmd s 0 3 else finishCmd (act s n) 0 0 := rfl
  rw [form]
  refine ⟨fun bad => ?_, fun hb hn hr => ?_⟩
  · rw [if_pos]
    simpa [or_assoc] using bad
  · rw [if_neg]
    simp only [Bool.or_eq_true, bne_iff_ne, decide_eq_true_eq, hb, hr]
    omega

/-- R358: the answers of MOVE. -/
theorem moveSlice_ends (s : State) :
    let b1 := (fnOf s 0).cmd.nat 1 1
    let n := (fnOf s 0).cmd.nat 2 2
    let p := (fnOf s b1).part
    let held : Prop := b1 ≠ 0 ∧ b1 ≤ 128 ∧ n ∈ slicesOf s p
    (¬ held → moveSlice s = finishCmd s 0 4) ∧ (held → (partEntry s p).moveOk = false → moveSlice s = finishCmd s 0 1) ∧
    (held → (partEntry s p).moveOk = true → (tabGet p s.moves ≠ none ∨ freeSlice s = none) → moveSlice s = finishCmd s 0 3) ∧
    ∀ k, held → (partEntry s p).moveOk = true → tabGet p s.moves = none → freeSlice s = some k →
      moveSlice s = finishCmd (startMove s p n k true) 0 0 := by
  intro b1 n p held
  have form : moveSlice s = if b1 = 0 || 128 < b1 || !(slicesOf s p).contains n then finishCmd s 0 4
      else if !(partEntry s p).moveOk then finishCmd s 0 1
      else match tabGet p s.moves, freeSlice s with
        | none, some k => finishCmd (startMove s p n k true) 0 0
        | _, _ => finishCmd s 0 3 := rfl
  have open_ (h : held) : moveSlice s = if !(partEntry s p).moveOk then finishCmd s 0 1
      else match tabGet p s.moves, freeSlice s with
        | none, some k => finishCmd (startMove s p n k true) 0 0
        | _, _ => finishCmd s 0 3 := by
    obtain ⟨some_, low, has_⟩ := h
    rw [form, if_neg]
    simp only [Bool.or_eq_true, decide_eq_true_eq, Bool.not_eq_true', List.contains_eq_mem, decide_eq_false_iff_not]
    rintro ((h | h) | h)
    · exact some_ h
    · omega
    · exact h has_
  refine ⟨fun no => ?_, fun h fixed => ?_, fun h free full => ?_, fun k h free none_ found => ?_⟩
  · rw [form, if_pos]
    simp only [Bool.or_eq_true, decide_eq_true_eq, Bool.not_eq_true', List.contains_eq_mem, decide_eq_false_iff_not]
    by_cases none_ : b1 = 0
    · exact .inl (.inl none_)
    · by_cases high : 128 < b1
      · exact .inl (.inr high)
      · exact .inr fun has_ => no ⟨none_, by omega, has_⟩
  · rw [open_ h, fixed]
    rfl
  · rw [open_ h, free]
    obtain under | none_ := full
    · cases has_ : tabGet p s.moves with
      | none => exact absurd has_ under
      | some => rfl
    · rw [none_]
      cases tabGet p s.moves <;> rfl
  · rw [open_ h, free, none_, found]
    rfl

/-- R349, R358: the answers of MOVE and RETIRE. -/
theorem slice_commands (s : State) (subj : s.subj = .of [0]) :
    let due (op : Nat) : Prop := cmdDue s 0 (· == op) = true
    let told (t : State) (n : Nat) : Prop := (fnOf t 0).busy = false ∧ (fnOf t 0).result = n ∧ t.mem = s.mem
    let ends (i : Instr) (n : Nat) : Prop := ∃ t, exec i s = .next t ∧ told t n
    let b1 := (fnOf s 0).cmd.nat 1 1
    let n := (fnOf s 0).cmd.nat 2 2
    let rest := (fnOf s 0).cmd.nat 4 60
    (due 0x15 → let p := (fnOf s b1).part
      let held : Prop := b1 ≠ 0 ∧ b1 ≤ 128 ∧ n ∈ slicesOf s p
      (¬ held → ends .move 4) ∧ (held → (partEntry s p).moveOk = false → ends .move 1) ∧
      (held → (partEntry s p).moveOk = true → (tabGet p s.moves ≠ none ∨ freeSlice s = none) → ends .move 3) ∧
      ∀ k, held → (partEntry s p).moveOk = true → tabGet p s.moves = none → freeSlice s = some k →
        ∃ t, exec .move s = .next t ∧ told t 0 ∧ tabGet p t.moves = some ⟨n, k, 0, true⟩) ∧
    (due 0x16 →
      (b1 ≠ 0 ∨ 48 ≤ n ∨ rest ≠ 0 → ends .retireCluster 4) ∧
      (b1 = 0 → n < 48 → rest = 0 → n ∈ s.retiredClusters → ends .retireCluster 3) ∧
      (b1 = 0 → n < 48 → rest = 0 → n ∉ s.retiredClusters → (∀ u ∈ s.units, clusterOf u.2.core ≠ n) →
        ∃ t, exec .retireCluster s = .next t ∧ told t 0 ∧ n ∈ t.retiredClusters ∧ readyAt t n = false) ∧
      (b1 ≠ 1 ∨ 192 ≤ n ∨ rest ≠ 0 → ends .retireChannelPair 4) ∧
      (b1 = 1 → n < 192 → rest = 0 → n ∈ s.retiredPairs → ends .retireChannelPair 3) ∧
      (b1 = 1 → n < 192 → rest = 0 → n ∉ s.retiredPairs → ∃ t, exec .retireChannelPair s = .next t ∧ told t 0 ∧ n ∈ t.retiredPairs)) := by
  intro due told ends b1 n rest
  have ends_ {i : Instr} {t : State} {k : Nat} (run : exec i s = .next t) (is : t = finishCmd s 0 k) : ends i k :=
    ⟨t, run, is ▸ told_finishCmd s s k rfl⟩
  refine ⟨fun is => ?_, fun is => ?_⟩
  · have run : exec .move s = .next (moveSlice s) := congrArg Host.Outcome.next (pfCommand_acts subj 0x15 moveSlice is rfl)
    obtain ⟨absent, fixed, full, goes⟩ := moveSlice_ends s
    refine ⟨fun no => ends_ run (absent no), fun h f => ends_ run (fixed h f), fun h o f => ends_ run (full h o f), fun k h o none_ found => ?_⟩
    refine ⟨_, run, ?_⟩
    rw [goes k h o none_ found]
    exact ⟨told_finishCmd s (startMove s _ _ k true) 0 rfl, tabGet_put_same ..⟩
  · have clusters : exec .retireCluster s = .next (retireCmd 0 48 (fun s n => s.retiredClusters.contains n) retireCluster s) :=
      congrArg Host.Outcome.next (pfCommand_acts subj 0x16 _ is rfl)
    have pairs : exec .retireChannelPair s = .next (retireCmd 1 192 (fun s n => s.retiredPairs.contains n) retirePair s) :=
      congrArg Host.Outcome.next (pfCommand_acts subj 0x16 _ is rfl)
    obtain ⟨badC, goodC⟩ := retireCmd_ends 0 48 (fun s n => s.retiredClusters.contains n) retireCluster s
    obtain ⟨badP, goodP⟩ := retireCmd_ends 1 192 (fun s n => s.retiredPairs.contains n) retirePair s
    refine ⟨fun bad => ends_ clusters (badC bad), fun hb hn hr there => ends_ clusters ?_, fun hb hn hr new empty => ⟨_, clusters, ?_⟩,
      fun bad => ends_ pairs (badP bad), fun hb hn hr there => ends_ pairs ?_, fun hb hn hr new => ⟨_, pairs, ?_⟩⟩
    · rw [goodC hb hn hr, if_pos (List.contains_iff_mem.mpr there)]
    · rw [goodC hb hn hr, if_neg fun h => new (List.contains_iff_mem.mp h)]
      obtain ⟨out, down, mem⟩ := retireCluster_retires (s := s) (c := n) (by omega) empty
      obtain ⟨t, ht⟩ : ∃ t, t = retireCluster s n := ⟨_, rfl⟩
      rw [← ht] at out down mem ⊢
      exact ⟨told_finishCmd s t 0 mem, out, down⟩
    · rw [goodP hb hn hr, if_pos (List.contains_iff_mem.mpr there)]
    · rw [goodP hb hn hr, if_neg fun h => new (List.contains_iff_mem.mp h)]
      obtain ⟨out, mem⟩ := retirePair_retires s n
      obtain ⟨t, ht⟩ : ∃ t, t = retirePair s n := ⟨_, rfl⟩
      rw [← ht] at out mem ⊢
      exact ⟨told_finishCmd s t 0 mem, out⟩

/-! ## Module reset (R355) -/

theorem natOf_drop (l : List Byte) (o : Nat) : natOf (l.drop o) = natOf l / 256 ^ o := by
  induction o generalizing l with
  | zero => simp
  | succ o ih =>
    cases l with
    | nil => simp [natOf]
    | cons b r =>
      have low : (b.toNat + 256 * natOf r) / 256 = natOf r := by
        have := b.isLt
        omega
      rw [List.drop_succ_cons, ih, natOf, Nat.pow_succ', ← Nat.div_div_eq_div_mul, low]

theorem natOf_take (l : List Byte) (n : Nat) : natOf (l.take n) = natOf l % 256 ^ n := by
  induction n generalizing l with
  | zero => simp [natOf, Nat.mod_one]
  | succ n ih =>
    cases l with
    | nil => simp [natOf]
    | cons b r =>
      have low : (b.toNat + 256 * natOf r) / 256 = natOf r ∧ (b.toNat + 256 * natOf r) % 256 = b.toNat := by
        have := b.isLt
        omega
      rw [List.take_succ_cons, natOf, natOf, ih, Nat.pow_succ', Nat.mod_mul, low.1, low.2]

/-- A field of whole bytes of a number is the number of these bytes. -/
theorem fld_natOf (l : List Byte) (o n : Nat) : fld (natOf l) (8 * o) (8 * n) = natOf ((l.drop o).take n) := by
  rw [natOf_take, natOf_drop, fld, Nat.pow_mul, Nat.pow_mul]

/-- The number in a field of entry `i` of a block. -/
def blockField (bytes : List Byte) (i o n : Nat) : Nat := natOf ((bytes.drop (64 * i + o)).take n)

theorem fld_entry (bytes : List Byte) (i : Nat) {o n : Nat} (within : o + n ≤ 64) :
    fld (natOf ((bytes.drop (64 * i)).take 64)) (8 * o) (8 * n) = blockField bytes i o n := by
  rw [fld_natOf, List.drop_take, List.take_take, List.drop_drop, Nat.min_eq_left (by omega)]
  rfl

theorem bit_entry (bytes : List Byte) (i : Nat) {k : Nat} (low : k < 2) :
    Machine.bit (natOf ((bytes.drop (64 * i)).take 64)) k = Machine.bit (blockField bytes i 0 1) k := by
  rw [← fld_entry bytes i (show 0 + 1 ≤ 64 by decide), bit_eq_testBit, bit_eq_testBit, fld, Nat.testBit_mod_two_pow]
  simp [show k < 8 by omega]

theorem tabGet_numbered {α : Type} (l : List α) (n i : Nat) : tabGet (n + i) (l.mapIdx fun j e => (n + j, e)) = l[i]? := by
  induction l generalizing n i with
  | nil => rfl
  | cons e r ih =>
    rw [List.mapIdx_cons]
    cases i with
    | zero => rw [tabGet]; simp
    | succ i =>
      rw [tabGet, if_neg (by omega), List.getElem?_cons_succ, ← ih (n + 1) i]
      simp only [Nat.add_assoc, Nat.add_comm 1]

theorem entry_of_fixed {y e : PartEntry} (h : fixedEntry y = fixedEntry e) : { y with en := e.en, gminc := e.gminc, gmins := e.gmins } = e :=
  (congrArg (fun z : PartEntry => { z with en := e.en, gminc := e.gminc, gmins := e.gmins }) h :)

/-- R355: what the block and the module reset leave. -/
theorem module_resets (s : State) (verified : Bool) (owner : Nat) (bytes : List Byte) (subj : s.subj = .block verified owner bytes) :
    let entries := blockEntries bytes
    let passes : Prop := verified = true ∧ (∀ h, s.ownerHash = some h → h = owner) ∧ bytes.length = 2560 ∧ anyClash entries = false
    let field (i o n : Nat) : Nat := natOf ((bytes.drop (64 * i + o)).take n)
    let started (t : State) : Prop := t.now = 0 ∧ t.mem = [] ∧ t.units = [] ∧ t.launches = [] ∧ t.ctxs = [] ∧ t.fnrdyLo = 0 ∧ t.fnrdyHi = 0 ∧
      t.counts = [] ∧ t.sliceTab = s.sliceTab ∧ t.retiredClusters = s.retiredClusters ∧ t.retiredPairs = s.retiredPairs ∧ t.linkUp = s.linkUp ∧
      t.blobs = s.blobs ∧ t.remoteMem = s.remoteMem
    ∃ t, exec .moduleReset s = .next t ∧ started t ∧
      (¬ passes → t.parts = [] ∧ t.hostMem = s.hostMem ∧ t.ownerHash = s.ownerHash) ∧
      (passes → t.ownerHash = some owner ∧ t.block = bytes ∧ ∀ i < 40, ∃ e y, entries[i]? = some e ∧ tabGet i t.parts = some y ∧
        { y with en := e.en, gminc := e.gminc, gmins := e.gmins } = e ∧ e.en = Machine.bit (field i 0 1) 0 ∧ e.moveOk = Machine.bit (field i 0 1) 1 ∧
        e.cbase = field i 1 1 ∧ e.clim = field i 2 1 ∧ e.prio = field i 3 1 ∧ e.sbase = field i 4 2 ∧ e.scnt = field i 6 2 ∧
        e.colour.toNat = field i 8 8 ∧ e.gminc = field i 0x10 1 ∧ e.gmins = field i 0x11 2) := by
  intro entries passes field started
  have run : exec .moduleReset s = .next (resetModule s verified owner bytes) := by
    rw [show exec .moduleReset s = execModuleReset s by rfl]
    unfold execModuleReset
    rw [subj]
  have pass : blockPasses s verified owner bytes = true ↔ passes := by
    unfold blockPasses
    simp only [Bool.and_eq_true, Option.all_eq_true, beq_iff_eq, Bool.not_eq_true', and_assoc]
    rfl
  refine ⟨_, run, ?_⟩
  by_cases ok : passes
  · obtain ⟨r, hr⟩ : ∃ r : State, r = { afterReset s with
      ownerHash := some owner, block := bytes, parts := (blockEntries bytes).mapIdx fun i e => (i, e) } := ⟨_, rfl⟩
    have shape : resetModule s verified owner bytes = copyRetired (checkMinima r) := by
      unfold resetModule
      rw [pass.mpr ok, hr]
      rfl
    obtain ⟨t, ht⟩ : ∃ t, t = copyRetired (checkMinima r) := ⟨_, rfl⟩
    have left : unsliced t = unsliced r := by
      rw [ht]
      exact (unsliced_copyRetired _).trans (unsliced_checkMinima r)
    rw [shape, ← ht]
    have start : started (unsliced r) := by rw [hr]; exact ⟨rfl, rfl, rfl, rfl, rfl, rfl, rfl, rfl, rfl, rfl, rfl, rfl, rfl, rfl⟩
    refine ⟨?_, fun no => absurd ok no, fun _ => ⟨?_, ?_, fun i hi => ?_⟩⟩
    · rw [← left] at start
      obtain ⟨now, mem, units, launches, rest⟩ := start
      exact ⟨now, mem, units, List.map_eq_nil_iff.mp launches, rest⟩
    · exact (congrArg State.ownerHash left :).trans (by rw [hr]; rfl)
    · exact (congrArg State.block left :).trans (by rw [hr]; rfl)
    · obtain ⟨e, he⟩ : ∃ e, e = entryOf ((bytes.drop (64 * i)).take 64) := ⟨_, rfl⟩
      have listed : (blockEntries bytes)[i]? = some e := by
        rw [blockEntries, List.getElem?_map, List.getElem?_range hi, he]
        rfl
      have parts : (t.parts.map fun x => (x.1, fixedEntry x.2)) = r.parts.map fun x => (x.1, fixedEntry x.2) := (congrArg State.parts left :)
      have there : tabGet i r.parts = some e := by
        have := tabGet_numbered (blockEntries bytes) 0 i
        simp only [Nat.zero_add] at this
        rw [hr, this, listed]
      have same := congrArg (tabGet i) parts
      rw [tabGet_map, tabGet_map, there] at same
      obtain ⟨y, hy, fixed⟩ := Option.map_eq_some_iff.mp same
      refine ⟨e, y, listed, hy, entry_of_fixed fixed, ?_⟩
      rw [he]
      refine ⟨bit_entry bytes i (by decide), bit_entry bytes i (by decide), fld_entry bytes i (by decide), fld_entry bytes i (by decide),
        fld_entry bytes i (by decide), fld_entry bytes i (by decide), fld_entry bytes i (by decide), ?_, fld_entry bytes i (by decide),
        fld_entry bytes i (by decide)⟩
      have col := fld_entry bytes i (o := 8) (n := 8) (by decide)
      rw [show field i 8 8 = blockField bytes i 8 8 from rfl, ← col]
      exact Nat.mod_eq_of_lt (Nat.mod_lt _ (Nat.two_pow_pos 64))
  · have shape : resetModule s verified owner bytes = afterReset s := by
      unfold resetModule
      rw [if_pos]
      simpa using fun h => ok (pass.mp h)
    rw [shape]
    exact ⟨⟨rfl, rfl, rfl, rfl, rfl, rfl, rfl, rfl, rfl, rfl, rfl, rfl, rfl, rfl⟩, fun _ => ⟨rfl, rfl, rfl⟩, fun h => absurd h ok⟩

/-- R28: which function may come up, and what its bit changes. -/
theorem functions_comeUp (s : State) (k : Nat) (subj : s.subj = .of [k]) :
    (mayComeUp s k = false → exec .functionReady s = .next s) ∧
    (mayComeUp s k = true → ∃ t, exec .functionReady s = .next t ∧ readyAt t k = true ∧ (∀ j, j ≠ k → readyAt t j = readyAt s j) ∧
      t.mem = s.mem) := by
  have run : exec .functionReady s = .next (if mayComeUp s k then setReady s k true else s) := by
    rw [show exec .functionReady s = execFunctionReady s by rfl]
    unfold execFunctionReady
    rw [subj]
  refine ⟨fun no => by rw [run, no]; rfl, fun may => ⟨_, by rw [run, if_pos may], ?_⟩⟩
  have small : k < 128 := by
    unfold mayComeUp at may
    simp only [Bool.and_eq_true, Bool.or_eq_true, decide_eq_true_eq] at may
    omega
  obtain ⟨up, others, rest⟩ := setReady_sets s small true
  exact ⟨up, others, (congrArg State.mem rest :)⟩

/-- Settles O53: moves copy page by page and rewrite the table at their end; a retired cluster or pair joins its list; the reset state has the
entries of the block; and one readiness bit changes. -/
theorem moduleEvents : Obligations.ModuleEvents := by
  unfold Obligations.ModuleEvents
  exact ⟨slice_commands, moves_go_on, module_resets, functions_comeUp⟩

end Sys2Proof
end

section
/-! SCHED, PAUSE, EVICT, RESUME and KILL, and the resume of a context (R82, R83, R85, R352), and O52. -/

namespace Sys2Proof
open Machine

/-! ## What the cores and pools do beside the functions -/

/-- A state but for what stands on its cores and kindling pools, in its requests and at its engines, and for the steps to come. -/
def offCore (s : State) : State :=
  { s with cores := [], pools := [], units := [], launches := [], reqs := [], walks := [], clocks := [], agenda := [], engines := [], fresh := 0 }

theorem offCore_modCore (s : State) (c : Nat) (f : Core → Core) : offCore (modCore s c f) = offCore s := rfl
theorem offCore_modWarp (s : State) (c w : Nat) (f : Warp → Warp) : offCore (modWarp s c w f) = offCore s := rfl
theorem offCore_modPool (s : State) (c : Nat) (f : Pool → Pool) : offCore (modPool s c f) = offCore s := rfl
theorem offCore_modEngine (s : State) (e : Nat) (f : Engine → Engine) : offCore (modEngine s e f) = offCore s := rfl
theorem offCore_modUnit (s : State) (u : Nat) (f : UnitSt → UnitSt) : offCore (modUnit s u f) = offCore s := rfl

theorem offCore_unfuse (s : State) (cl : Nat) : offCore (unfuse s cl) = offCore s := by
  unfold unfuse
  split
  · rfl
  · refine foldl_same (view := offCore) (fun a i => ?_) _ s
    split <;> rfl

theorem offCore_clearCore (s : State) (core : Nat) (us : List Nat) : offCore (clearCore s core us) = offCore s := rfl

theorem offCore_modRun (s : State) (g : Gid) (f : Run → Run) : offCore (modRun s g f) = offCore s := by
  cases g <;> rfl

theorem offCore_placeStaged (s : State) (core : Nat) (t : Staged) : offCore (placeStaged s core t) = offCore s := by
  unfold placeStaged
  dsimp only
  split
  · rfl
  · split <;> rfl

theorem offCore_stageAll (s : State) (core : Nat) (l : List Staged) : offCore (stageAll s core l) = offCore s := by
  unfold stageAll settle
  dsimp only
  split
  · rfl
  · exact foldl_same (view := offCore) (f := fun a t => placeStaged a core t) (fun a t => offCore_placeStaged a core t) _ _

theorem offCore_releaseKept (s : State) (unit core serial : Nat) : offCore (releaseKept s unit core serial) = offCore s := by
  unfold releaseKept
  split
  · exact offCore_modUnit ..
  · rfl

theorem offCore_leaveSlot (s : State) (cl k : Nat) : offCore (leaveSlot s cl k) = offCore s := by
  unfold leaveSlot
  split
  · rfl
  · exact (offCore_releaseKept ..).trans ((offCore_modWarp ..).trans (offCore_modPool ..))

theorem offCore_lateFile (s : State) (cl k : Nat) : offCore (lateFile s cl k) = offCore s := by
  unfold lateFile
  split
  · rfl
  · unfold fileEjected
    split
    · rfl
    · exact (offCore_stageAll ..).trans (offCore_leaveSlot ..)

theorem offCore_of_butClocks {s t : State} (h : butClocks s t) : offCore t = offCore s := by
  obtain ⟨cl, rfl⟩ := h
  rfl

theorem offCore_finishRejoin (s : State) (c w tag ready : Nat) : offCore (finishRejoin s c w tag ready) = offCore s := by
  unfold finishRejoin
  split
  · rfl
  · next x _ =>
    dsimp only
    generalize hs1 : modWarp s c w _ = s1
    have first : offCore s1 = offCore s := by rw [← hs1]; rfl
    have filed : offCore ((waitingAt s1 c x.serial tag 0).foldl (fun a (_, k, _) => lateFile a (clusterOf c) k) s1) = offCore s :=
      (foldl_same (view := offCore) (f := fun a (y : Nat × Nat × Ejected) => lateFile a (clusterOf c) y.2.1) (fun a y => offCore_lateFile ..) _ s1).trans first
    split
    · exact (foldl_same (view := offCore) (fun a l => offCore_of_butClocks (butClocks_acquire ..)) _ _).trans filed
    · exact filed

theorem offCore_pumpRejoin (s : State) (c w : Nat) : offCore (pumpRejoin s c w) = offCore s := by
  unfold pumpRejoin
  split
  · rfl
  · split
    · split
      · rfl
      · dsimp only
        split
        · exact (offCore_modRun ..).trans ((offCore_of_butClocks (butClocks_release ..)).trans ((offCore_modRun ..).trans (offCore_modPool ..)))
        · split
          · exact offCore_finishRejoin ..
          · rfl
    · rfl

theorem offCore_restartTransfer (s : State) (id : Nat) : offCore (restartTransfer s id) = offCore s := by
  unfold restartTransfer
  split
  · rfl
  · split <;> rfl

theorem offCore_restoreCore (f g : Nat → Nat) (pc : Pc → Pc) (s : State) (x : SavedCore) : offCore (restoreCore f g pc s x) = offCore s := by
  refine (offCore_modCore ..).trans ?_
  unfold restoreShare
  dsimp only
  split
  · exact foldl_same (view := offCore) (fun a c => offCore_modCore a c _) _ s
  · exact offCore_modCore ..

theorem offCore_waitReissued (s : State) (g : Gid) : offCore (waitReissued s g) = offCore s := by
  unfold waitReissued
  dsimp only
  split
  · rfl
  · exact offCore_modRun ..

/-! ## Halts and placements (R82, R352) -/

theorem unlogged_captureHalt (s : State) (l : Nat) : unlogged (captureHalt s l) = unlogged s := by
  unfold captureHalt
  split
  · rfl
  · split
    · exact (capture_spec ..).1
    · split
      · rfl
      · unfold replayMismatch
        split
        · rfl
        · exact (haltLaunch_spec ..).1

/-- A context that is there and halted. -/
def Halts (s : State) (g : Nat) : Prop := ∃ y, ctxOf s g = some y ∧ y.halted = true

theorem ctxs_haltCtx (s : State) (g : Nat) : (haltCtx s g).ctxs = if (ctxOf s g).any (·.halted) then s.ctxs
    else tabMod g (fun c => { c with halted := true, haltedAt := s.now + 1 }) s.ctxs := by
  unfold haltCtx
  split
  · rfl
  · exact congrArg State.ctxs (foldl_same (view := unlogged) (f := captureHalt) unlogged_captureHalt _
      (modCtx s g fun c => { c with halted := true, haltedAt := s.now + 1 }))

theorem ctxOf_haltCtx (s : State) (g k : Nat) : ctxOf (haltCtx s g) k = if k = g ∧ (ctxOf s g).any (·.halted) = false then
    (ctxOf s k).map fun c => { c with halted := true, haltedAt := s.now + 1 } else ctxOf s k := by
  rw [ctxOf, ctxs_haltCtx]
  split
  · next there => rw [if_neg (by simp [there])]; rfl
  · next no =>
    rw [tabGet_mod]
    simp only [Bool.not_eq_true] at no
    simp only [no, and_true]
    rfl

/-- Halting some contexts halts each of them that is there. -/
theorem haltAll_halts {g : Nat} : ∀ (l : List Nat) (s : State), ((ctxOf s g).isSome = true → g ∈ l → Halts (l.foldl haltCtx s) g) ∧
    (Halts s g → Halts (l.foldl haltCtx s) g)
  | [], s => ⟨fun _ no => absurd no List.not_mem_nil, id⟩
  | k :: l, s => by
    have stays (h : Halts s g) : Halts (haltCtx s k) g := by
      obtain ⟨y, hy, halted⟩ := h
      rw [Halts, ctxOf_haltCtx]
      split
      · exact ⟨_, by rw [hy]; rfl, rfl⟩
      · exact ⟨y, hy, halted⟩
    obtain ⟨later, kept⟩ := haltAll_halts l (haltCtx s k)
    refine ⟨fun some_ on => ?_, fun h => kept (stays h)⟩
    rcases List.mem_cons.mp on with rfl | on
    · refine kept ?_
      obtain ⟨y, hy⟩ := Option.isSome_iff_exists.mp some_
      rw [Halts, ctxOf_haltCtx, hy]
      cases halted : y.halted with
      | true => exact ⟨y, by simp [halted], halted⟩
      | false => exact ⟨{ y with halted := true, haltedAt := s.now + 1 }, by simp [halted], rfl⟩
    · refine later ?_ on
      rw [ctxOf_haltCtx]
      split
      · rw [Option.isSome_map, some_]
      · exact some_

theorem haltFn_halts (s : State) (fn g : Nat) (c : Ctx) (there : ctxOf s g = some c) (of_ : c.fn = fn) : Halts (haltFn s fn) g := by
  refine (haltAll_halts (fnGens s fn) s).1 (by rw [there]; rfl) ?_
  refine List.mem_map.mpr ⟨(g, c), List.mem_filter.mpr ⟨mem_of_tabGet there, ?_⟩, rfl⟩
  simpa using of_

/-- A VF that takes the front end of its partition. -/
theorem placeFn_places (s : State) (v : Nat) : (feOf (placeFn s v) (fnOf s v).part).vf = some v ∧ (fnOf (placeFn s v) v).vf = .running ∧
    (placeFn s v).mem = s.mem ∧ (placeFn s v).ctxs = s.ctxs := by
  unfold placeFn
  dsimp only
  generalize (fnOf s v).fe.getD FrontEnd.reset = kept
  generalize hs1 : modFe s (fnOf s v).part _ = s1
  obtain ⟨left, runs⟩ := setVf_enters (modFn s1 v fun f => { f with fe := none }) v .running
  have fe : (feOf s1 (fnOf s v).part).vf = some v := by rw [← hs1, feOf_modFe]
  have same : aside (setVf (modFn s1 v fun f => { f with fe := none }) v .running) = aside s1 := left.trans rfl
  refine ⟨?_, runs, (congrArg State.mem same :).trans (by rw [← hs1]; rfl), (congrArg State.ctxs same :).trans (by rw [← hs1]; rfl)⟩
  have table : feOf (setVf (modFn s1 v fun f => { f with fe := none }) v .running) (fnOf s v).part = feOf s1 (fnOf s v).part :=
    (congrArg (fun x => feOf x (fnOf s v).part) same :)
  rw [table, fe]

/-! ## Commands that name a VF (R352) -/

/-- Operands that name no VF, and a VF with no policy. -/
theorem vfNamed_ends (act : State → Nat → State) (s : State) :
    let v := (fnOf s 0).cmd.nat 1 1
    (v = 0 ∨ 128 < v → vfNamed act s = finishCmd s 0 4) ∧ (v ≠ 0 → v ≤ 128 → (fnOf s v).vf = .idle → vfNamed act s = finishCmd s 0 3) ∧
    (v ≠ 0 ∧ v ≤ 128 ∧ (fnOf s v).vf ≠ .idle → vfNamed act s = act s v) := by
  intro v
  have form : vfNamed act s = if v = 0 || 128 < v then finishCmd s 0 4 else if (fnOf s v).vf = .idle then finishCmd s 0 3 else act s v := rfl
  have open_ (some_ : v ≠ 0) (low : v ≤ 128) : (v = 0 || 128 < v : Bool) = false := by simp [some_, low]
  rw [form]
  refine ⟨fun bad => if_pos (by simpa using bad), fun some_ low idle => ?_, fun ⟨some_, low, busy⟩ => ?_⟩
  · rw [open_ some_ low, if_neg Bool.false_ne_true, if_pos idle]
  · rw [open_ some_ low, if_neg Bool.false_ne_true, if_neg busy]

section
variable (s : State) (v : Nat)

/-- R352: what SCHED begins. -/
theorem scheduleVf_begins :
    ((feOf s (fnOf s v).part).vf = none → (feOf (scheduleVf s v) (fnOf s v).part).vf = some v ∧ (fnOf (scheduleVf s v) v).vf = .running ∧
      (scheduleVf s v).pfBusy = s.pfBusy ++ [(0, v)] ∧ (scheduleVf s v).mem = s.mem ∧ (scheduleVf s v).ctxs = s.ctxs) ∧
    ((feOf s (fnOf s v).part).vf = some v → (scheduleVf s v).pfBusy = s.pfBusy ++ [(0, v)] ∧ (scheduleVf s v).mem = s.mem) ∧
    ∀ u, (feOf s (fnOf s v).part).vf = some u → u ≠ v → (scheduleVf s v).pfBusy = s.pfBusy ++ [(1, u), (0, v)] ∧
      ∀ g c, ctxOf s g = some c → c.fn = u → Halts (scheduleVf s v) g := by
  unfold scheduleVf
  refine ⟨fun none_ => ?_, fun own => ?_, fun u other differs => ?_⟩
  · rw [none_]
    obtain ⟨fe, runs, mem, ctxs⟩ := placeFn_places s v
    exact ⟨fe, runs, rfl, mem, ctxs⟩
  · rw [own]
    dsimp only
    rw [if_pos rfl]
    exact ⟨rfl, rfl⟩
  · rw [other]
    dsimp only
    rw [if_neg differs]
    exact ⟨rfl, fun g c there of_ => haltFn_halts s u g c there of_⟩

end

/-! ## The end of a halt (R83, R352) -/

/-- A state but for what a context that is saved leaves. -/
def unheld (s : State) : State := { offCore s with ctxs := [] }

theorem unheld_saveCtx (s : State) (g : Nat) : unheld (saveCtx s g) = unheld s := by
  unfold saveCtx
  dsimp only
  generalize (ctxUnits s g).filter _ = us
  generalize hs1 : List.foldl _ s _ = s1
  have first : offCore s1 = offCore s := by
    rw [← hs1]
    exact foldl_same (view := offCore) (fun a c => offCore_clearCore a c us) _ s
  generalize hs2 : { s1 with pools := _, units := _, walks := _, agenda := _ } = s2
  have second : offCore s2 = offCore s := by
    rw [← hs2]
    exact first
  generalize hs3 : List.foldl unfuse s2 _ = s3
  have third : offCore s3 = offCore s := by
    rw [← hs3]
    exact (foldl_same (view := offCore) offCore_unfuse _ s2).trans second
  exact (congrArg (fun x : State => { x with ctxs := [] }) third :)

/-- A VF whose halt is over. -/
theorem finishPause_pauses (s : State) (u : Nat) : (fnOf (finishPause s u) u).vf = .paused ∧ (feOf (finishPause s u) (fnOf s u).part).vf = none ∧
    (finishPause s u).pfBusy = s.pfBusy ∧ (finishPause s u).mem = s.mem := by
  unfold finishPause
  dsimp only
  generalize hs1 : List.foldl saveCtx s (fnGens s u) = s1
  have first : unheld s1 = unheld s := by
    rw [← hs1]
    exact foldl_same (view := unheld) unheld_saveCtx _ s
  generalize (fnOf s u).part = p
  generalize hs2 : modFn s1 u _ = s2
  generalize hs3 : modFe s2 p _ = s3
  obtain ⟨left, paused⟩ := setVf_enters s3 u .paused
  have fe : (feOf s3 p).vf = none := by rw [← hs3, feOf_modFe]; rfl
  have table : feOf (setVf s3 u .paused) p = feOf s3 p := (congrArg (fun x => feOf x p) left :)
  refine ⟨paused, by rw [table, fe], (congrArg State.pfBusy left :).trans ?_, (congrArg State.mem left :).trans ?_⟩
  · rw [← hs3, ← hs2]
    exact (congrArg State.pfBusy first :)
  · rw [← hs3, ← hs2]
    exact (congrArg State.mem first :)

/-- R352: what the Crucible brings to an end. -/
theorem crucible_ends (s : State) :
    (pfNext s = none → exec .crucibleCommandDone s = .next s) ∧
    (∀ v, pfNext s = some (0, v) → ∃ t, exec .crucibleCommandDone s = .next t ∧ t.pfBusy = s.pfBusy.erase (0, v) ∧ t.mem = s.mem ∧
      ((∀ x ∈ s.pfBusy.erase (0, v), 2 ≤ x.1) → (fnOf t 0).busy = false ∧ (fnOf t 0).result = 0)) ∧
    ∀ u, u ≠ 0 → s.pfBusy = [(1, u)] → fnDrained s u = true → ∃ t, exec .crucibleCommandDone s = .next t ∧ t.pfBusy = [] ∧
      (fnOf t u).vf = .paused ∧ (feOf t (fnOf s u).part).vf = none ∧ (fnOf t 0).busy = false ∧ (fnOf t 0).result = 0 ∧ t.mem = s.mem := by
  have run : exec .crucibleCommandDone s = .next (match pfNext s with
    | some b => pfEnd s b
    | none => s) := rfl
  rw [run]
  refine ⟨fun no => by rw [no], fun v next_ => ?_, fun u _ only drained => ?_⟩
  · rw [next_]
    have ends : pfEnd s (0, v) = if !(s.pfBusy.erase (0, v)).any (fun x => x.1 < 2) then
        finishCmd { s with pfBusy := s.pfBusy.erase (0, v) } 0 0 else { s with pfBusy := s.pfBusy.erase (0, v) } := rfl
    refine ⟨_, rfl, ?_⟩
    dsimp only
    rw [ends]
    split
    · obtain ⟨busy, result, mem⟩ := finishCmd_tells { s with pfBusy := s.pfBusy.erase (0, v) } 0 0
      exact ⟨rfl, mem, fun _ => ⟨busy, result⟩⟩
    · next more =>
      refine ⟨rfl, rfl, fun none_ => absurd ?_ more⟩
      rw [Bool.not_eq_true', List.any_eq_false]
      intro x hx
      have := none_ x hx
      simp only [decide_eq_true_eq]
      omega
  · have ready : pfNext s = some (1, u) := by
      unfold pfNext pfReady
      rw [only]
      simp [drained]
    rw [ready]
    obtain ⟨paused, fe, busy, mem⟩ := finishPause_pauses { s with pfBusy := s.pfBusy.erase (1, u) } u
    have none_ : ({ s with pfBusy := s.pfBusy.erase (1, u) } : State).pfBusy = [] := by simp [only]
    generalize hr : finishPause { s with pfBusy := s.pfBusy.erase (1, u) } u = r at paused fe busy mem
    rw [none_] at busy
    have ends : pfEnd s (1, u) = (let s3 := match 1, r.pfBusy.find? fun x => x.1 < 2 with
          | 1, some (0, v) => placeFn r v
          | _, _ => r
        if !s3.pfBusy.any (fun x => x.1 < 2) then finishCmd s3 0 0 else s3) := by
      rw [← hr]
      rfl
    have finishes : pfEnd s (1, u) = finishCmd r 0 0 := by
      rw [ends, busy]
      change (if !r.pfBusy.any (fun x => x.1 < 2) then finishCmd r 0 0 else r) = _
      rw [busy]
      rfl
    obtain ⟨told, result, kept⟩ := finishCmd_tells r 0 0
    refine ⟨_, rfl, ?_⟩
    dsimp only
    rw [finishes]
    exact ⟨busy, (fnOf_finishCmd (field := Fn.vf) (fun _ _ _ => by rfl) ..).trans paused, fe, told, result, kept.trans mem⟩

/-! ## Contexts that leave (R352) -/

/-- Removed contexts are gone, and each function keeps what is not of its context entries. -/
theorem removeCtxs_removes (s : State) (fn : Nat) (gens : List Nat) : (∀ g ∈ gens, ctxOf (removeCtxs s fn gens) g = none) ∧
    (∀ n, (fnOf (removeCtxs s fn gens) n).vf = (fnOf s n).vf) ∧ (removeCtxs s fn gens).blobs = s.blobs := by
  unfold removeCtxs
  dsimp only
  generalize hs1 : List.foldl purgeTag s gens = s1
  have fns : s1.fns = s.fns := by rw [← hs1]; exact foldl_same (view := State.fns) (f := purgeTag) (fun _ _ => rfl) _ s
  have blobs : s1.blobs = s.blobs := by rw [← hs1]; exact foldl_same (view := State.blobs) (f := purgeTag) (fun _ _ => rfl) _ s
  refine ⟨fun g hg => ?_, fun n => ?_, blobs⟩
  · rw [ctxOf, tabGet_filter (fun g => !gens.contains g), if_neg (by simp [hg])]
  · have vf (t : Tab Fn) (f : Fn → Fn) (keep : ∀ x, (f x).vf = x.vf) : (tabGetD n (Fn.reset n) (tabMod fn f t)).vf = (tabGetD n (Fn.reset n) t).vf := by
      rw [tabGetD, tabGetD, tabGet_mod]
      split
      · cases tabGet n t with
        | none => rfl
        | some x => exact keep x
      · rfl
    exact (vf s1.fns _ fun _ => by rfl).trans (by rw [fns]; rfl)

/-- R352: what EVICT leaves. -/
theorem evictVf_evicts (s : State) (v : Nat) : (fnOf (evictVf s v) v).vf = .evicted ∧ (∀ g ∈ fnGens s v, ctxOf (evictVf s v) g = none) ∧
    ∃ b ∈ (evictVf s v).blobs, b.fn = v ∧ b.handle = s.fresh := by
  unfold evictVf
  dsimp only [freshNat]
  generalize List.foldl _ _ (fnGens s v) = s1
  generalize hb : blobOf s1 v s.fresh _ = b
  have names : b.fn = v ∧ b.handle = s.fresh := by rw [← hb]; exact ⟨rfl, rfl⟩
  generalize (if s1.linkUp then writePlace s1 (.host noPasid b.addr) (blobBytes s1 b) else s1) = s2
  obtain ⟨left, evicted⟩ := setVf_enters { s2 with blobs := s2.blobs ++ [b] } v .evicted
  generalize setVf { s2 with blobs := s2.blobs ++ [b] } v .evicted = s3 at left evicted
  obtain ⟨gone, vf, blobs⟩ := removeCtxs_removes s3 v (fnGens s v)
  have listed : s3.blobs = s2.blobs ++ [b] := (congrArg State.blobs left :)
  refine ⟨?_, gone, b, ?_, names⟩
  · exact (fnOf_modFn_field (field := Fn.vf) (fun _ => by rfl) ..).trans ((fnOf_modFn_field (field := Fn.vf) (fun _ => by rfl) ..).trans
      ((vf v).trans evicted))
  · change b ∈ (removeCtxs s3 v (fnGens s v)).blobs
    rw [blobs, listed]
    exact List.mem_append_right _ List.mem_cons_self

/-! ## KILL (R352) -/

theorem fns_killLaunch (s : State) (l : Nat) : (killLaunch s l).fns = s.fns := by
  unfold killLaunch
  split
  · rfl
  · split
    · rfl
    · exact (instless_fns (instless_memberDone ..)).trans rfl

theorem fns_zeroCore (s : State) (us : List Nat) (core : Nat) : (zeroCore s us core).fns = s.fns := by
  unfold zeroCore
  dsimp only
  have zeroed (l : List Nat) (a : State) : (l.foldl (fun a p => zeroGranule a core p) a).fns = a.fns :=
    foldl_same (view := State.fns) (f := fun a p => zeroGranule a core p) (fun _ _ => rfl) l a
  split
  · exact (zeroed ..).trans rfl
  · exact (zeroed ..).trans rfl

theorem fns_zeroArea (s : State) (gen : Nat) : (zeroArea s gen).fns = s.fns := by
  unfold zeroArea
  refine foldl_same (view := State.fns) (f := fun a i => zeroPage a gen ((((ctxOf s gen).map (·.saveb)).getD 0) + 65536 * i)) (fun a i => ?_) _ s
  unfold zeroPage
  split
  · split <;> rfl
  · rfl

theorem vf_modCq (s : State) (fn q n : Nat) (f : Cq → Cq) : (fnOf (modCq s fn q f) n).vf = (fnOf s n).vf :=
  fnOf_modFn_field (field := Fn.vf) (fun _ => by rfl) s fn n

/-- Packets that complete as cancelled change neither the state of a VF nor the contexts. -/
theorem cancelTaken_keeps (s : State) (fn : Nat) : (∀ n, (fnOf (cancelTaken s fn) n).vf = (fnOf s n).vf) ∧ (cancelTaken s fn).ctxs = s.ctxs := by
  refine foldl_keeps (P := fun a => (∀ n, (fnOf a n).vf = (fnOf s n).vf) ∧ a.ctxs = s.ctxs) (fun a x kept => ?_) _ ⟨fun _ => rfl, rfl⟩
  refine foldl_keeps (P := fun a => (∀ n, (fnOf a n).vf = (fnOf s n).vf) ∧ a.ctxs = s.ctxs) (fun b y now => ?_) _ kept
  obtain ⟨vf, ctxs⟩ := now
  obtain ⟨i, p⟩ := y
  exact ⟨fun n => (vf_modCq b fn x.1 n fun c =>
    { c with taken := tabMod i (fun p => { p with started := true, done := true, status := 2 }) c.taken }).trans (vf n), ctxs⟩

/-- R352: what KILL leaves. -/
theorem discard_discards (s : State) (v : Nat) : (fnOf (Machine.discard s v) v).vf = .ready ∧ ∀ g ∈ fnGens s v, ctxOf (Machine.discard s v) g = none := by
  unfold Machine.discard
  dsimp only
  generalize hs1 : List.foldl killLaunch _ _ = s1
  have first : s1.fns = (setVf s v .ready).fns := by
    rw [← hs1]
    exact foldl_same (view := State.fns) fns_killLaunch _ _
  generalize hs2 : List.foldl (fun a c => zeroCore a (fnUnits s v) c) s1 _ = s2
  have second : s2.fns = (setVf s v .ready).fns := by
    rw [← hs2]
    exact (foldl_same (view := State.fns) (f := fun a c => zeroCore a (fnUnits s v) c) (fun a c => fns_zeroCore ..) _ s1).trans first
  generalize hs3 : List.foldl zeroArea _ (fnGens s v) = s3
  have third : s3.fns = (setVf s v .ready).fns := by
    rw [← hs3]
    exact (foldl_same (view := State.fns) fns_zeroArea _ _).trans second
  obtain ⟨gone, vf, -⟩ := removeCtxs_removes s3 v (fnGens s v)
  obtain ⟨vf', ctxs⟩ := cancelTaken_keeps (removeCtxs s3 v (fnGens s v)) v
  generalize hs4 : cancelTaken (removeCtxs s3 v (fnGens s v)) v = s4 at vf' ctxs
  generalize hs5 : List.foldl unfuse s4 _ = s5
  have fifth : offCore s5 = offCore s4 := by
    rw [← hs5]
    exact foldl_same (view := offCore) offCore_unfuse _ s4
  have left : s5.fns = s4.fns ∧ s5.ctxs = s4.ctxs := ⟨(congrArg State.fns fifth :), (congrArg State.ctxs fifth :)⟩
  generalize hs6 : (if (feOf s5 (fnOf s v).part).vf = some v then _ else s5) = s6
  have sixth : s6.fns = s5.fns ∧ s6.ctxs = s5.ctxs := by
    rw [← hs6]
    split <;> exact ⟨rfl, rfl⟩
  refine ⟨?_, fun g hg => ?_⟩
  · calc (fnOf (modFn s6 v fun f => { f with fe := none }) v).vf
        = (fnOf s6 v).vf := fnOf_modFn_field (field := Fn.vf) (fun _ => by rfl) ..
      _ = (fnOf s4 v).vf := by rw [fnOf_of_fns (sixth.1.trans left.1)]
      _ = (fnOf s3 v).vf := (vf' v).trans (vf v)
      _ = (fnOf (setVf s v .ready) v).vf := by rw [fnOf_of_fns third]
      _ = .ready := (setVf_enters s v .ready).2
  · change tabGet g s6.ctxs = none
    rw [sixth.2, left.2, ctxs]
    exact gone g hg

/-! ## RESUME (R352) -/

theorem isSome_tabPut {α : Type} {k j : Nat} (v : α) {t : Tab α} (h : (tabGet j t).isSome = true) : (tabGet j (tabPut k v t)).isSome = true := by
  rw [tabGet_put]
  split
  · rfl
  · exact h

/-- What is put into a table one after another is all there. -/
theorem isSome_putEach {α β : Type} (key : β → Nat) (val : β → α) {x : β} : ∀ (l : List β) (t : Tab α),
    (x ∈ l → (tabGet (key x) (l.foldl (fun t y => tabPut (key y) (val y) t) t)).isSome = true) ∧
    ((tabGet (key x) t).isSome = true → (tabGet (key x) (l.foldl (fun t y => tabPut (key y) (val y) t) t)).isSome = true)
  | [], _ => ⟨fun no => absurd no List.not_mem_nil, id⟩
  | y :: l, t => by
    obtain ⟨later, kept⟩ := isSome_putEach key val (x := x) l (tabPut (key y) (val y) t)
    refine ⟨fun on => ?_, fun h => kept (isSome_tabPut _ h)⟩
    rcases List.mem_cons.mp on with rfl | on
    · exact kept (by rw [tabGet_put_same]; rfl)
    · exact later on

theorem memoryless_saveBlock (s : State) (gen off tag plain : Nat) : memoryless (saveBlock s gen off tag plain).1 = memoryless s := by
  unfold saveBlock
  split
  · rfl
  · split
    · rfl
    · next wrote =>
      split
      · exact memoryless_vwrite wrote
      · next again => exact (memoryless_vwrite again).trans (memoryless_vwrite wrote)

theorem memoryless_resealCtx (s : State) (g : Nat) : memoryless (resealCtx s g) = memoryless s := by
  unfold resealCtx
  split
  · rfl
  · refine (foldl_same (view := memoryless) (fun a x => ?_) _ _).trans (foldl_same (view := memoryless) (fun a x => ?_) _ s)
    · exact foldl_same (view := memoryless) (fun b n => memoryless_saveBlock ..) _ a
    · exact memoryless_saveBlock ..

/-- What a blob brings back: its contexts, beside which the front ends, the halts and the partitions of the functions are as they were. -/
theorem restoreBlob_restores (s : State) (b : Blob) (tags : List (Nat × Nat)) :
    (∀ x ∈ b.ctxs, (ctxOf (restoreBlob s b tags) (tagOf tags x.1)).isSome = true) ∧ (restoreBlob s b tags).fes = s.fes ∧
    (restoreBlob s b tags).pfBusy = s.pfBusy ∧ ∀ n, (fnOf (restoreBlob s b tags) n).part = (fnOf s n).part := by
  unfold restoreBlob
  dsimp only
  generalize hs1 : ({ s with ctxs := _, units := _, launches := _, insts := _, cmds := _, matOps := _, pageReqs := _, reqs := _ } : State) = s1
  have ctxs (x : Nat × Ctx) (hx : x ∈ b.ctxs) : (tabGet (tagOf tags x.1) s1.ctxs).isSome = true := by
    rw [← hs1]
    exact (isSome_putEach (fun y : Nat × Ctx => tagOf tags y.1) (fun y : Nat × Ctx => { y.2 with
      keyid := (fnOf s b.fn).keyid, replays := y.2.replays.map (fun q => { q with gen := tagOf tags q.gen })
      returns := y.2.returns.map (fun q => { q with gen := tagOf tags q.gen }), outstanding := [] }) b.ctxs s.ctxs).1 hx
  have first : s1.fes = s.fes ∧ s1.pfBusy = s.pfBusy ∧ s1.fns = s.fns := by rw [← hs1]; exact ⟨rfl, rfl, rfl⟩
  generalize hs2 : List.foldl _ s1 _ = s2
  have second : offCore s2 = offCore s1 := by
    rw [← hs2]
    exact foldl_same (view := offCore) (f := fun a (x : Nat × Cmd) => modEngine a x.2.engine fun e => { e with queue := e.queue ++ [x.1] })
      (fun a x => offCore_modEngine ..) _ s1
  generalize hs3 : List.foldl _ s2 b.elq = s3
  have third : offCore s3 = offCore s2 := by
    rw [← hs3]
    exact foldl_same (view := offCore) (f := fun a (x : Nat × ElReq) => modCore a x.1 fun k => { k with elq := k.elq ++ [x.2] })
      (fun a x => offCore_modCore ..) _ s2
  have beside := third.trans second
  generalize hs4 : modFn s3 b.fn _ = s4
  generalize hs5 : List.foldl _ s4 b.areas = s5
  have fifth : memoryless s5 = memoryless s4 := by
    rw [← hs5]
    refine foldl_same (view := memoryless) (f := fun a (x : Nat × Nat × List Byte) => match vwrite a (tagOf tags x.1) x.2.1 x.2.2 with
      | .ok t => t
      | .error _ => a) (fun a x => ?_) _ s4
    split
    · next wrote => exact memoryless_vwrite wrote
    · rfl
  have last : memoryless ((b.ctxs.map fun x => tagOf tags x.1).foldl resealCtx s5) = memoryless s4 :=
    (foldl_same (view := memoryless) memoryless_resealCtx _ s5).trans fifth
  generalize List.foldl resealCtx s5 _ = t at last
  have kept : s4.ctxs = s1.ctxs ∧ s4.fes = s.fes ∧ s4.pfBusy = s.pfBusy := by
    rw [← hs4]
    exact ⟨(congrArg State.ctxs beside :), (congrArg State.fes beside :).trans first.1, (congrArg State.pfBusy beside :).trans first.2.1⟩
  have ctxs_ : t.ctxs = s4.ctxs := (congrArg State.ctxs last :)
  have fns : t.fns = s4.fns := (congrArg State.fns last :)
  have fns' : s3.fns = s1.fns := (congrArg State.fns beside :)
  refine ⟨fun x hx => ?_, (congrArg State.fes last :).trans kept.2.1, (congrArg State.pfBusy last :).trans kept.2.2, fun n => ?_⟩
  · rw [ctxOf, ctxs_, kept.1]
    exact ctxs x hx
  · calc (fnOf t n).part = (fnOf s4 n).part := by rw [fnOf_of_fns fns]
      _ = (fnOf s3 n).part := by rw [← hs4]; exact fnOf_modFn_field (field := Fn.part) (fun _ => by rfl) ..
      _ = (fnOf s1 n).part := by rw [fnOf_of_fns fns']
      _ = (fnOf s n).part := by rw [fnOf_of_fns first.2.2]

/-! ## The resume of a context (R85) -/

/-- A context as a resume leaves it. -/
def resumed (c : Ctx) : Ctx := { c with halted := false, saved := [], slots := [], replays := [], returns := [], outstanding := [] }

theorem tables_of_offCore {s t : State} (h : offCore t = offCore s) : t.ctxs = s.ctxs ∧ t.matOps = s.matOps ∧ t.cmds = s.cmds :=
  ⟨(congrArg State.ctxs h :), (congrArg State.matOps h :), (congrArg State.cmds h :)⟩

/-- R85: a context with nothing of its own outstanding resumes as it was. -/
theorem resumeCtx_resumes {s : State} {g : Nat} {c : Ctx} (there : ctxOf s g = some c) (replays : c.replays = [])
    (mats : ∀ m ∈ s.matOps, m.2.gen ≠ g) (cmds : ∀ x ∈ s.cmds, x.2.gen ≠ g) :
    ctxOf (resumeCtx s g) g = some (resumed c) := by
  unfold resumeCtx
  rw [there]
  dsimp -zeta only
  extract_lets us f ft pc s1 s2 s3 s4 s4b s5 s5b s6 s7 s8 s9
  have first : offCore s1 = offCore s := foldl_same (view := offCore) (fun a x => offCore_restoreCore ..) _ s
  have second : offCore s2 = offCore s := (foldl_same (view := offCore) (fun a x => offCore_modPool ..) _ s1).trans first
  obtain ⟨ctxs2, mats2, cmds2⟩ := tables_of_offCore second
  have ctxs_ : s4b.ctxs = tabMod g resumed s.ctxs := congrArg (tabMod g resumed) ctxs2
  have mats_ : s4b.matOps = s.matOps := mats2
  have cmds_ : s4b.cmds = s.cmds := cmds2
  have fifth : s5 = s4b := by
    change List.foldl reissue s4b c.replays = s4b
    rw [replays, List.foldl_nil]
  have returned : offCore s5b = offCore s5 := (foldl_same (view := offCore) offCore_waitReissued _ _).trans
    (foldl_same (view := offCore) (f := putReturn f) (fun _ _ => rfl) _ s5)
  have sixth : offCore s6 = offCore s4b := by
    rw [← fifth, ← returned]
    exact foldl_same (view := offCore) offCore_restartTransfer _ s5b
  have seventh : s7 = s6 := by
    have none_ : s6.cmds.filter (fun x => decide (x.2.gen = g)) = [] := by
      rw [List.filter_eq_nil_iff, (tables_of_offCore sixth).2.2, cmds_]
      intro x hx
      simpa using cmds x hx
    change List.foldl restart s6 ((s6.cmds.filter fun x => decide (x.2.gen = g)).map (·.1)) = s6
    rw [none_]
    rfl
  have eighth : offCore s8 = offCore s4b := by
    rw [← sixth, ← seventh]
    refine foldl_same (view := offCore) (fun a x => ?_) _ s7
    cases x with
    | warp k w => exact offCore_pumpRejoin ..
    | kindle => rfl
  have ninth : s9 = s8 := by
    have none_ (k : Nat) : resumeCoreLehrs s8 g k = s8 := by
      have empty : s8.matOps.filter (fun x => x.2.kind = 6 && x.2.gen = g && x.2.core = k) = [] := by
        rw [List.filter_eq_nil_iff, (tables_of_offCore eighth).2.1, mats_]
        intro x hx
        simp [mats x hx]
      unfold resumeCoreLehrs
      dsimp only
      rw [empty]
    exact foldl_keeps (P := fun a => a = s8) (fun a k same => by rw [same, none_]) _ rfl
  have last (l : List Nat) : (l.foldl (fun a l => schedule a a.now .fatalStop (.of [l])) s9).ctxs = s9.ctxs :=
    foldl_same (view := State.ctxs) (f := fun a l => schedule a a.now .fatalStop (.of [l])) (fun _ _ => rfl) l s9
  rw [ctxOf, last, ninth, (tables_of_offCore eighth).1, ctxs_, tabGet_mod_same, show tabGet g s.ctxs = some c from there]
  rfl

theorem context_resumes (s : State) (fn : Nat) (subj : s.subj = .of [fn]) :
    (resumeDue s fn = false → exec .contextResume s = .next s) ∧
    ∀ g c, resumeDue s fn = true → heldGens s fn = [g] → ctxOf s g = some c → c.replays = [] → (∀ m ∈ s.matOps, m.2.gen ≠ g) →
      (∀ x ∈ s.cmds, x.2.gen ≠ g) → ∃ t y, exec .contextResume s = .next t ∧ ctxOf t g = some y ∧
        y.halted = false ∧ y.saved = [] ∧ y.slots = [] ∧ y.fn = c.fn ∧ y.ptroot = c.ptroot ∧ y.pasid = c.pasid := by
  have run : exec .contextResume s = .next (if resumeDue s fn then (heldGens s fn).foldl resumeCtx s else s) := by
    rw [show exec .contextResume s = execContextResume s by rfl]
    unfold execContextResume
    rw [subj]
  rw [run]
  refine ⟨fun no => by rw [no]; rfl, fun g c due only there replays mats cmds => ?_⟩
  rw [due, only]
  exact ⟨_, _, rfl, resumeCtx_resumes there replays mats cmds, rfl, rfl, rfl, rfl, rfl, rfl⟩

/-! ## The commands about a VF (R352) -/

/-- Each of the five commands acts on the VF that it names. -/
theorem exec_vfRow {op : Nat} {i : Instr}
    (listed : (op, i) ∈ ([(0x10, .sched), (0x11, .pause), (0x12, .evict), (0x13, .resume), (0x14, .kill)] : List (Nat × Instr))) (s : State) :
    ∃ act, exec i s = .next (pfCommand op s (vfNamed act)) := by
  simp only [List.mem_cons, Prod.mk.injEq, List.not_mem_nil, or_false] at listed
  obtain ⟨rfl, rfl⟩ | ⟨rfl, rfl⟩ | ⟨rfl, rfl⟩ | ⟨rfl, rfl⟩ | ⟨rfl, rfl⟩ := listed
  · exact ⟨schedCmd, rfl⟩
  · exact ⟨pauseCmd, rfl⟩
  · exact ⟨evictCmd, rfl⟩
  · exact ⟨resumeCmd, rfl⟩
  · exact ⟨killCmd, rfl⟩

/-- R352: when RESUME refuses a VF, and when it begins to place it. -/
theorem resumeCmd_ends (s : State) (v : Nat) :
    let free : Prop := ((fnOf s v).vf = .ready ∨ (fnOf s v).vf = .evicted) ∧ fnGens s v = []
    let handle := (fnOf s 0).cmd.nat 16 8
    (¬ free → resumeCmd s v = finishCmd s 0 3) ∧
    (free → (∀ b ∈ s.blobs, ¬ (b.fn = v ∧ b.handle = handle)) → resumeCmd s v = finishCmd s 0 4) ∧
    ∀ b, free → s.blobs.find? (fun b => b.fn = v && b.handle = handle) = some b →
      let sound : Prop := s.linkUp = true ∧ readPlace s (.host noPasid ((fnOf s 0).cmd.nat 8 8)) b.size = blobBytes s b
      let tags := newTags s (b.ctxs.map (·.1))
      (¬ sound → resumeCmd s v = finishCmd s 0 2) ∧ (sound → tags.length < b.ctxs.length → resumeCmd s v = finishCmd s 0 3) ∧
      (sound → b.ctxs.length ≤ tags.length → resumeCmd s v = scheduleVf (restoreBlob s b tags) v) := by
  intro free handle
  have form : resumeCmd s v = if !((fnOf s v).vf == .ready || (fnOf s v).vf == .evicted) || !(fnGens s v).isEmpty then finishCmd s 0 3
      else match s.blobs.find? fun b => b.fn = v && b.handle = handle with
        | none => finishCmd s 0 4
        | some b => if !s.linkUp || readPlace s (.host noPasid ((fnOf s 0).cmd.nat 8 8)) b.size != blobBytes s b then finishCmd s 0 2
          else if (newTags s (b.ctxs.map (·.1))).length < b.ctxs.length then finishCmd s 0 3
          else scheduleVf (restoreBlob s b (newTags s (b.ctxs.map (·.1)))) v := rfl
  have open_ : (!((fnOf s v).vf == .ready || (fnOf s v).vf == .evicted) || !(fnGens s v).isEmpty) = true ↔ ¬ free := by
    simp only [free, Bool.or_eq_true, Bool.not_eq_true', Bool.or_eq_false_iff, beq_eq_false_iff_ne, List.isEmpty_eq_false_iff, ne_eq]
    tauto
  refine ⟨fun no => by rw [form, if_pos (open_.mpr no)], fun is none_ => ?_, fun b is found => ?_⟩
  · have absent : s.blobs.find? (fun b => b.fn = v && b.handle = handle) = none := by
      rw [List.find?_eq_none]
      intro b hb
      simpa using none_ b hb
    rw [form, if_neg (fun h => open_.mp h is), absent]
  · intro sound tags
    have checked : (!s.linkUp || readPlace s (.host noPasid ((fnOf s 0).cmd.nat 8 8)) b.size != blobBytes s b) = true ↔ ¬ sound := by
      simp only [sound, Bool.or_eq_true, Bool.not_eq_true', bne_iff_ne]
      cases s.linkUp <;> simp
    rw [form, if_neg (fun h => open_.mp h is), found]
    dsimp only
    refine ⟨fun no => if_pos (checked.mpr no), fun ok few => ?_, fun ok enough => ?_⟩
    · rw [if_neg (fun h => checked.mp h ok), if_pos few]
    · rw [if_neg (fun h => checked.mp h ok), if_neg (Nat.not_lt.mpr enough)]

section
variable {s : State} (subj : s.subj = .of [0]) {op : Nat} (due : cmdDue s 0 (· == op) = true)
include subj due

/-- A command about a VF that is named and has a policy acts on it. -/
theorem vfCommand_acts_named {i : Instr} {act : State → Nat → State} (run : exec i s = .next (pfCommand op s (vfNamed act)))
    (named : (fnOf s 0).cmd.nat 1 1 ≠ 0 ∧ (fnOf s 0).cmd.nat 1 1 ≤ 128 ∧ (fnOf s ((fnOf s 0).cmd.nat 1 1)).vf ≠ .idle) :
    exec i s = .next (act s ((fnOf s 0).cmd.nat 1 1)) := by
  rw [run, pfCommand_acts subj op _ due rfl, (vfNamed_ends act s).2.2 named]

theorem vfCommand_misnamed {i : Instr} (listed : (op, i) ∈ ([(0x10, .sched), (0x11, .pause), (0x12, .evict), (0x13, .resume), (0x14, .kill)] :
      List (Nat × Instr))) :
    let told (t : State) (n : Nat) : Prop := (fnOf t 0).busy = false ∧ (fnOf t 0).result = n
    let ends (i : Instr) (n : Nat) : Prop := ∃ t, exec i s = .next t ∧ told t n ∧ t.mem = s.mem
    let v := (fnOf s 0).cmd.nat 1 1
    (v = 0 ∨ 128 < v → ends i 4) ∧ (v ≠ 0 → v ≤ 128 → (fnOf s v).vf = .idle → ends i 3) := by
  intro told ends v
  obtain ⟨act, run⟩ := exec_vfRow listed s
  rw [pfCommand_acts subj op _ due rfl] at run
  obtain ⟨unnamed, idle, -⟩ := vfNamed_ends act s
  have ends_ (n : Nat) (is : vfNamed act s = finishCmd s 0 n) : ends i n := by
    obtain ⟨busy, result, mem⟩ := finishCmd_tells s 0 n
    exact ⟨_, run.trans (congrArg _ is), ⟨busy, result⟩, mem⟩
  exact ⟨fun bad => ends_ 4 (unnamed bad), fun some_ low no => ends_ 3 (idle some_ low no)⟩

end

/-- R82, R83, R85, R352: the five commands about a VF. -/
theorem vf_commands (s : State) (subj : s.subj = .of [0]) :
    let due (op : Nat) : Prop := cmdDue s 0 (· == op) = true
    let told (t : State) (n : Nat) : Prop := (fnOf t 0).busy = false ∧ (fnOf t 0).result = n
    let ends (i : Instr) (n : Nat) : Prop := ∃ t, exec i s = .next t ∧ told t n ∧ t.mem = s.mem
    let v := (fnOf s 0).cmd.nat 1 1
    let part := (fnOf s v).part
    let named : Prop := v ≠ 0 ∧ v ≤ 128 ∧ (fnOf s v).vf ≠ .idle
    let halts (t : State) (fn : Nat) : Prop := ∀ g c, ctxOf s g = some c → c.fn = fn → ∃ y, ctxOf t g = some y ∧ y.halted = true
    (∀ op i, (op, i) ∈ ([(0x10, .sched), (0x11, .pause), (0x12, .evict), (0x13, .resume), (0x14, .kill)] : List (Nat × Instr)) → due op →
      (v = 0 ∨ 128 < v → ends i 4) ∧ (v ≠ 0 → v ≤ 128 → (fnOf s v).vf = .idle → ends i 3)) ∧
    (due 0x10 → named → ((fnOf s v).vf = .evicted → ends .sched 3) ∧ ((fnOf s v).vf ≠ .evicted →
      ((feOf s part).vf = none → ∃ t, exec .sched s = .next t ∧ (feOf t part).vf = some v ∧ (fnOf t v).vf = .running ∧
        t.pfBusy = s.pfBusy ++ [(0, v)] ∧ t.mem = s.mem) ∧
      ((feOf s part).vf = some v → ∃ t, exec .sched s = .next t ∧ t.pfBusy = s.pfBusy ++ [(0, v)] ∧ t.mem = s.mem) ∧
      ∀ u, (feOf s part).vf = some u → u ≠ v → ∃ t, exec .sched s = .next t ∧ t.pfBusy = s.pfBusy ++ [(1, u), (0, v)] ∧ halts t u)) ∧
    (due 0x11 → named → ((fnOf s v).vf = .running → ∃ t, exec .pause s = .next t ∧ t.pfBusy = s.pfBusy ++ [(1, v)] ∧ halts t v) ∧
      ((fnOf s v).vf = .paused → ends .pause 0) ∧ ((fnOf s v).vf ≠ .running → (fnOf s v).vf ≠ .paused → ends .pause 3)) ∧
    (due 0x12 → named → ((fnOf s v).vf ≠ .paused → ends .evict 3) ∧ ((fnOf s v).vf = .paused →
      ((∀ p, (fnOf s v).policy = some p → ¬ (p.evict = true ∧ Config.blobSize s.fresh ≤ p.maxBlob)) → ends .evict 1) ∧
      ∀ p, (fnOf s v).policy = some p → p.evict = true → Config.blobSize s.fresh ≤ p.maxBlob → ∃ t, exec .evict s = .next t ∧ told t 0 ∧
        (fnOf t v).vf = .evicted ∧ (∀ g ∈ fnGens s v, ctxOf t g = none) ∧ ∃ b ∈ t.blobs, b.fn = v ∧ b.handle = s.fresh)) ∧
    (due 0x13 → named →
      let free : Prop := ((fnOf s v).vf = .ready ∨ (fnOf s v).vf = .evicted) ∧ fnGens s v = []
      let handle := (fnOf s 0).cmd.nat 16 8
      (¬ free → ends .resume 3) ∧
      (free → (∀ b ∈ s.blobs, ¬ (b.fn = v ∧ b.handle = handle)) → ends .resume 4) ∧
      ∀ b, free → s.blobs.find? (fun b => b.fn = v && b.handle = handle) = some b →
        let sound : Prop := s.linkUp = true ∧ readPlace s (.host noPasid ((fnOf s 0).cmd.nat 8 8)) b.size = blobBytes s b
        let tags := newTags s (b.ctxs.map (·.1))
        (¬ sound → ends .resume 2) ∧ (sound → tags.length < b.ctxs.length → ends .resume 3) ∧
        (sound → b.ctxs.length ≤ tags.length → (feOf s part).vf = none → ∃ t, exec .resume s = .next t ∧ (fnOf t v).vf = .running ∧
          (feOf t part).vf = some v ∧ t.pfBusy = s.pfBusy ++ [(0, v)] ∧ ∀ x ∈ b.ctxs, ctxOf t (tagOf tags x.1) ≠ none)) ∧
    (due 0x14 → named → ∃ t, exec .kill s = .next t ∧ told t 0 ∧ (fnOf t v).vf = .ready ∧ ∀ g ∈ fnGens s v, ctxOf t g = none) := by
  intro due told ends v part named halts
  have ends_ {i : Instr} {t : State} {n : Nat} (run : exec i s = .next t) (is : t = finishCmd s 0 n) : ends i n := by
    obtain ⟨busy, result, mem⟩ := finishCmd_tells s 0 n
    exact ⟨t, run, by rw [is]; exact ⟨busy, result⟩, by rw [is, mem]⟩
  have kept (r : State) (n k : Nat) : (fnOf (finishCmd r 0 n) k).vf = (fnOf r k).vf := fnOf_finishCmd (field := Fn.vf) (fun _ _ _ => by rfl) ..
  refine ⟨fun op i listed is => vfCommand_misnamed subj is listed, fun is name => ?_, fun is name => ?_, fun is name => ?_, fun is name => ?_,
    fun is name => ?_⟩
  · have run : exec .sched s = .next (schedCmd s v) := vfCommand_acts_named subj is rfl name
    have form : schedCmd s v = if (fnOf s v).vf = .evicted then finishCmd s 0 3 else scheduleVf s v := rfl
    refine ⟨fun out => ends_ run (by rw [form, if_pos out]), fun inside => ?_⟩
    rw [form, if_neg inside] at run
    obtain ⟨none_, own, other⟩ := scheduleVf_begins s v
    refine ⟨fun no => ?_, fun there => ⟨_, run, own there⟩, fun u there differs => ⟨_, run, other u there differs⟩⟩
    obtain ⟨fe, runs, busy, mem, -⟩ := none_ no
    exact ⟨_, run, fe, runs, busy, mem⟩
  · have run : exec .pause s = .next (pauseCmd s v) := vfCommand_acts_named subj is rfl name
    unfold pauseCmd at run
    cases st : (fnOf s v).vf with
    | running =>
      rw [st] at run
      exact ⟨fun _ => ⟨_, run, rfl, fun g c there of_ => haltFn_halts s v g c there of_⟩, fun no => absurd no (by decide), fun no => absurd rfl no⟩
    | paused =>
      rw [st] at run
      exact ⟨fun no => absurd no (by decide), fun _ => ends_ run rfl, fun _ no => absurd rfl no⟩
    | idle | ready | evicted =>
      rw [st] at run
      exact ⟨fun no => absurd no (by decide), fun no => absurd no (by decide), fun _ _ => ends_ run rfl⟩
  · have run : exec .evict s = .next (evictCmd s v) := vfCommand_acts_named subj is rfl name
    unfold evictCmd at run
    refine ⟨fun no => ends_ run (by rw [if_pos (by simpa using no)]), fun paused => ⟨fun no => ends_ run ?_, fun p policy may fits => ?_⟩⟩
    · rw [paused]
      cases policy : (fnOf s v).policy with
      | none => rfl
      | some p =>
        have not_ : (p.evict && decide (Config.blobSize s.fresh ≤ p.maxBlob)) = false := by
          have := no p policy
          simpa using this
        simp [not_]
    · rw [paused, policy] at run
      simp only [may, fits, decide_true, Bool.and_self, Bool.not_true, bne_self_eq_false, Bool.false_eq_true, if_false] at run
      obtain ⟨evicted, gone, b, listed, names⟩ := evictVf_evicts s v
      obtain ⟨busy, result, -⟩ := finishCmd_tells (evictVf s v) 0 0
      exact ⟨_, run, ⟨busy, result⟩, (kept ..).trans evicted, gone, b, listed, names⟩
  · have run : exec .resume s = .next (resumeCmd s v) := vfCommand_acts_named subj is rfl name
    intro free handle
    obtain ⟨bound, absent, found⟩ := resumeCmd_ends s v
    refine ⟨fun no => ends_ run (bound no), fun is none_ => ends_ run (absent is none_), fun b is there => ?_⟩
    intro sound tags
    obtain ⟨unsound, few, goes⟩ := found b is there
    refine ⟨fun no => ends_ run (unsound no), fun ok less => ends_ run (few ok less), fun ok enough no => ?_⟩
    rw [goes ok enough] at run
    obtain ⟨ctxs, fes, busy, parts⟩ := restoreBlob_restores s b tags
    generalize hr : restoreBlob s b (newTags s (b.ctxs.map (·.1))) = r at run
    rw [show restoreBlob s b tags = r from hr] at ctxs fes busy parts
    have fe (p : Nat) : feOf r p = feOf s p := by rw [feOf, fes, feOf]
    obtain ⟨placed, runs, pf, -, same⟩ := (scheduleVf_begins r v).1 (by rw [fe, parts]; exact no)
    refine ⟨_, run, runs, by rw [parts] at placed; exact placed, by rw [pf, busy], fun x hx => ?_⟩
    rw [ctxOf, same]
    exact Option.isSome_iff_ne_none.mp (ctxs x hx)
  · have run : exec .kill s = .next (killCmd s v) := vfCommand_acts_named subj is rfl name
    obtain ⟨ready, gone⟩ := discard_discards s v
    obtain ⟨busy, result, -⟩ := finishCmd_tells (Machine.discard s v) 0 0
    exact ⟨_, run, ⟨busy, result⟩, (kept ..).trans ready, gone⟩

/-- Settles O52: the five commands, what brings them to an end, and the resume of the context of a VF. -/
theorem virtualFunctionCommands : Obligations.VirtualFunctionCommands := by
  unfold Obligations.VirtualFunctionCommands
  exact ⟨vf_commands, crucible_ends, context_resumes⟩

end Sys2Proof
end

section
/-! Errors in storage, of the cluster control and of the host link (R428, R429, R432, R437), and O54. -/

namespace Sys2Proof
open Machine

/-! ## Reports (R454, R455) -/

/-- What a report adds to the list: the function, a new handle, and the header and body. -/
def reportOf (s : State) (fn kind gen launch addr pc : Nat) (body : List Byte) : Report :=
  ⟨fn, s.fresh, bytesOf 2 kind ++ bytesOf 1 gen ++ bytesOf 1 1 ++ bytesOf 4 body.length ++ bytesOf 4 launch ++
    bytesOf 4 (reftick s).toNat ++ bytesOf 8 addr ++ bytesOf 8 pc ++ body⟩

theorem reports_postEvent (s : State) (fn kind source data : Nat) : (postEvent s fn kind source data).reports = s.reports := by
  unfold postEvent loseEvent
  dsimp only
  split
  · rfl
  · split
    · rfl
    · split
      · rfl
      · exact (congrArg State.reports (memoryless_writePlace ..) :)

theorem reports_postReport (s : State) (fn kind gen launch addr pc : Nat) (body : List Byte) :
    (postReport s fn kind gen launch addr pc body).reports = s.reports ++ [reportOf s fn kind gen launch addr pc body] := by
  unfold postReport
  dsimp only [freshNat]
  rw [reports_postEvent]
  split
  · rfl
  · rw [reports_postEvent]
    rfl

/-- R437: a report of the host link lists its kind and its cause. -/
theorem hostReport_lists (s : State) (gen launch addr pc cause : Nat) : ∃ r, r ∈ (hostReport s gen launch addr pc cause).reports ∧ r.handle = s.fresh ∧
    r.fn = genFn s gen ∧ r.bytes.take 2 = bytesOf 2 4 ∧ (r.bytes.drop 32).take 4 = bytesOf 4 cause := by
  refine ⟨_, by rw [hostReport, reports_postReport]; exact List.mem_append_right _ List.mem_cons_self, rfl, rfl, ?_, ?_⟩
  · simp only [reportOf, List.append_assoc]
    exact List.take_left' (bytesOf_length ..)
  · simp only [reportOf]
    rw [List.drop_left' (by simp only [List.length_append, bytesOf_length]), List.append_assoc]
    exact List.take_left' (bytesOf_length ..)

theorem aside_storageReport (s : State) (gen where_ number addr : Nat) : aside (storageReport s gen where_ number addr) = aside s := by
  unfold storageReport
  split
  · rfl
  · exact aside_postReport ..

/-- No launch is in replay. -/
def NoReplay (s : State) : Prop := ∀ x ∈ s.launches, x.2.rply = false

theorem noReplay_of_launches {s t : State} (h : (t.launches.map fun y => (y.1, raceless y.2)) = s.launches.map fun y => (y.1, raceless y.2))
    (none_ : NoReplay s) : NoReplay t := by
  intro x hx
  have listed : (x.1, raceless x.2) ∈ s.launches.map fun y => (y.1, raceless y.2) := h ▸ List.mem_map_of_mem hx
  obtain ⟨y, hy, same⟩ := List.mem_map.mp listed
  have rply : y.2.rply = x.2.rply := (congrArg (fun z : Nat × Launch => z.2.rply) same :)
  rw [← rply, none_ y hy]

theorem failReplays_none {s : State} (none_ : NoReplay s) (hit : Launch → Nat → Bool) : failReplays s hit = s := by
  have empty : (s.launches.filter fun x => x.2.rply && x.2.status = 0 && x.2.fatal.isNone && hit x.2 x.1) = [] := by
    rw [List.filter_eq_nil_iff]
    intro x hx
    simp [none_ x hx]
  unfold failReplays
  rw [empty]
  rfl

/-! ## Errors in the stores (R428) -/

/-- What a poisoned word changes of its core. -/
def poisonOf (acc a : Nat) (k : Core) : Core :=
  let add (l : List Nat) : List Nat := if l.contains a then l else l ++ [a]
  if acc = 1 then { k with accPoison := add k.accPoison } else { k with storePoison := add k.storePoison }

theorem mem_addOnce (a : Nat) (l : List Nat) : a ∈ (if l.contains a then l else l ++ [a]) := by
  split
  · next has_ => exact List.contains_iff_mem.mp has_
  · exact List.mem_append_right _ List.mem_cons_self

theorem aside_poisonWord {s : State} (none_ : NoReplay s) (core acc addr : Nat) :
    aside (poisonWord s core acc addr) = aside (modCore s core (poisonOf acc (addr / 4 * 4))) := by
  unfold poisonWord
  extract_lets a add s1 s2
  have left : aside s2 = aside (modCore s core (poisonOf acc (addr / 4 * 4))) := by
    dsimp only [s2]
    split
    · exact aside_storageReport ..
    · rfl
  rw [failReplays_none (noReplay_of_launches (s := s) (congrArg State.launches left :) none_)]
  exact left

/-- R428: an uncorrectable error of a store poisons its word. -/
theorem store_error (s : State) (core acc addr : Nat) (subj : s.subj = .of [core, acc, addr]) (none_ : ∀ x ∈ s.launches, x.2.rply = false) :
    let top := if acc = 1 then 64 * 4096 else 0xC0000
    (¬ (core < 1152 ∧ addr < top) → exec .storeUncorrectable s = .next s) ∧
    (core < 1152 → addr < top → ∃ t, exec .storeUncorrectable s = .next t ∧ t.mem = s.mem ∧
      (acc = 1 → addr / 4 * 4 ∈ (coreOf t core).accPoison) ∧ (acc ≠ 1 → addr / 4 * 4 ∈ (coreOf t core).storePoison) ∧
      ∀ c, (coreOf t c).store = (coreOf s c).store ∧ (coreOf t c).acc = (coreOf s c).acc ∧ (coreOf t c).warps = (coreOf s c).warps) := by
  intro top
  have run : exec .storeUncorrectable s = .next (if core < 1152 && addr < top then poisonWord s core acc addr else s) := by
    rw [show exec .storeUncorrectable s = execStoreUncorrectable s by rfl]
    unfold execStoreUncorrectable
    rw [subj]
    rfl
  rw [run]
  refine ⟨fun out => by rw [if_neg (by simpa using out)], fun low in_ => ⟨_, by rw [if_pos (by simp [low, in_])], ?_⟩⟩
  have left := aside_poisonWord none_ core acc addr
  generalize poisonWord s core acc addr = t at left
  have cores (c : Nat) : coreOf t c = coreOf (modCore s core (poisonOf acc (addr / 4 * 4))) c := (congrArg (fun x => coreOf x c) left :)
  refine ⟨(congrArg State.mem left :), fun is => ?_, fun no => ?_, fun c => ?_⟩
  · rw [cores, coreOf_modCore, poisonOf, if_pos is]
    exact mem_addOnce ..
  · rw [cores, coreOf_modCore, poisonOf, if_neg no]
    exact mem_addOnce ..
  · have same {α : Type} (field : Core → α) (keep : ∀ k x y, field { k with accPoison := x, storePoison := y } = field k) :
        field (coreOf t c) = field (coreOf s c) := by
      rw [cores]
      refine coreOf_modCore_field (field := field) (fun k => ?_) c
      unfold poisonOf
      dsimp only
      split
      · exact keep k _ k.storePoison
      · exact keep k k.accPoison _
    exact ⟨same Core.store fun _ _ _ => by rfl, same Core.acc fun _ _ _ => by rfl, same Core.warps fun _ _ _ => by rfl⟩

/-! ## Errors in the shared cache and in HBM (R429, R432) -/

theorem poisonPlace_poisons (s : State) (a : Nat) : storageOf s a / 32 ∈ (poisonPlace s (.dev a)).memPoison ∧
    { poisonPlace s (.dev a) with memPoison := s.memPoison } = s := by
  unfold poisonPlace
  dsimp only
  split
  · next has_ => exact ⟨List.contains_iff_mem.mp has_, rfl⟩
  · exact ⟨List.mem_append_right _ List.mem_cons_self, rfl⟩

/-- R432: an uncorrectable error of HBM is counted, and the sixteenth in the window retires the pair. -/
theorem countPair_counts (s : State) (q : Nat) :
    let t := countPair s q
    let recent := (s.pairErrs.filter fun e => e.1 = q && tickOf s.now < e.2 + 2 ^ 24).length
    t.mem = s.mem ∧ t.memPoison = s.memPoison ∧ (t.launches.map fun y => (y.1, raceless y.2)) = (s.launches.map fun y => (y.1, raceless y.2)) ∧
    tabGet (0x8A0 + 8 * q) t.counts = some (min (2 ^ 64 - 1) (tabGetD (0x8A0 + 8 * q) 0 s.counts + 1)) ∧
    (15 ≤ recent → q ∈ t.retiredPairs) ∧ (recent < 15 → t.retiredPairs = s.retiredPairs) := by
  intro t recent
  obtain ⟨s1, hs1⟩ : ∃ s1, s1 = addCount { s with pairErrs := (s.pairErrs.filter fun e => tickOf s.now < e.2 + 2 ^ 24) ++ [(q, tickOf s.now)] }
    (0x8A0 + 8 * q) := ⟨_, rfl⟩
  have form : t = if 15 ≤ recent && !s.retiredPairs.contains q then retirePair s1 q else s1 := by
    rw [hs1]
    rfl
  have mem : s1.mem = s.mem := by rw [hs1]; rfl
  have poison : s1.memPoison = s.memPoison := by rw [hs1]; rfl
  have launches : s1.launches = s.launches := by rw [hs1]; rfl
  have retired : s1.retiredPairs = s.retiredPairs := by rw [hs1]; rfl
  have counts : tabGet (0x8A0 + 8 * q) s1.counts = some (min (2 ^ 64 - 1) (tabGetD (0x8A0 + 8 * q) 0 s.counts + 1)) := by
    rw [hs1]
    exact tabGet_put_same ..
  clear_value t
  by_cases full : 15 ≤ recent
  · cases has_ : s.retiredPairs.contains q with
    | true =>
      rw [has_, Bool.not_true, Bool.and_false, if_neg Bool.false_ne_true] at form
      rw [form, mem, poison, launches, retired]
      exact ⟨rfl, rfl, rfl, counts, fun _ => List.contains_iff_mem.mp has_, fun _ => rfl⟩
    | false =>
      rw [has_, if_pos (by simp [full])] at form
      have left := unsliced_retirePair s1 q
      rw [← form] at left
      have list : t.retiredPairs = s1.retiredPairs ++ [q] := (congrArg State.retiredPairs left :)
      have counted : t.counts = s1.counts := (congrArg State.counts left :)
      refine ⟨(congrArg State.mem left :).trans mem, (congrArg State.memPoison left :).trans poison,
        (congrArg State.launches left :).trans (by rw [launches]; rfl), by rw [counted]; exact counts, fun _ => ?_, fun few => absurd full (by omega)⟩
      rw [list]
      exact List.mem_append_right _ List.mem_cons_self
  · rw [if_neg (by simp [full])] at form
    rw [form, mem, poison, launches, retired]
    exact ⟨rfl, rfl, rfl, counts, fun more => absurd more full, fun _ => rfl⟩

/-- R429, R432: what an error found in the shared cache or in HBM leaves. -/
theorem cache_error (s : State) (hbm addr gen id : Nat) (subj : s.subj = .of [hbm, addr, gen, id]) (none_ : ∀ x ∈ s.launches, x.2.rply = false) :
    let a := addr % 2 ^ 50
    let q := pairOf s a
    let off := 0x8A0 + 8 * q
    let recent := (s.pairErrs.filter fun e => e.1 = q && tickOf s.now < e.2 + 2 ^ 24).length
    let dirty : Prop := ∃ x ∈ s.l2, x.pa = a / 128 ∧ x.dirty.toNat.testBit (addr % 128 / 32) = true
    ∃ t, exec .cacheHbmError s = .next t ∧ t.mem = s.mem ∧
      (hbm = 1 ∨ dirty → storageOf s a / 32 ∈ t.memPoison) ∧
      (hbm = 1 → tabGet off t.counts = some (min (2 ^ 64 - 1) (tabGetD off 0 s.counts + 1)) ∧ (15 ≤ recent → q ∈ t.retiredPairs) ∧
        (recent < 15 → t.retiredPairs = s.retiredPairs)) ∧
      (hbm ≠ 1 → t.counts = s.counts ∧ t.retiredPairs = s.retiredPairs) ∧
      (hbm ≠ 1 → ¬ dirty → t.memPoison = s.memPoison ∧
        (∀ q, tabGet id s.reqs = some q → ∃ y, tabGet id t.reqs = some y ∧ y.due = q.due + 8) ∧
        (∀ f, tabGet id s.fills = some f → tabGet id t.fills = some { f with ends := f.ends + 8 }) ∧
        (∀ w, tabGet id s.walks = some w → tabGet id t.walks = some { w with ends := w.ends + 8 }) ∧
        (hbm ≠ 1 → ∀ j, j ≠ id → tabGet j t.reqs = tabGet j s.reqs ∧ tabGet j t.fills = tabGet j s.fills ∧ tabGet j t.walks = tabGet j s.walks)) := by
  intro a q off recent dirty
  have run : exec .cacheHbmError s = .next (cacheError s hbm addr gen id) := by
    rw [show exec .cacheHbmError s = execCacheHbmError s by rfl]
    unfold execCacheHbmError
    rw [subj]
  refine ⟨_, run, ?_⟩
  have found : (s.l2.any fun x => x.pa = a / 128 && x.dirty.toNat.testBit (addr % 128 / 32)) = true ↔ dirty := by
    simp only [List.any_eq_true, Bool.and_eq_true, decide_eq_true_eq]
    rfl
  obtain ⟨there, besides⟩ := poisonPlace_poisons s a
  have poisoned_ (where_ number : Nat) : aside (storageReport (poisonPlace s (.dev a)) gen where_ number addr) = aside (poisonPlace s (.dev a)) :=
    aside_storageReport ..
  generalize hp : poisonPlace s (.dev a) = p at there besides poisoned_
  have launches_ : p.launches = s.launches := (congrArg State.launches besides :)
  have dry : NoReplay p := fun x hx => none_ x (launches_ ▸ hx)
  by_cases is : hbm = 1
  · obtain ⟨r, hr⟩ : ∃ r, r = storageReport p gen 3 q addr := ⟨_, rfl⟩
    have left : aside r = aside p := by rw [hr]; exact poisoned_ 3 q
    have form : cacheError s hbm addr gen id = failReplays (countPair r q) fun x _ => x.gen = gen := by
      rw [hr, ← hp]
      exact if_pos is
    obtain ⟨mem, poison, launches, counts, full, few⟩ := countPair_counts r q
    have fields : r.mem = s.mem ∧ r.memPoison = p.memPoison ∧ r.counts = s.counts ∧ r.pairErrs = s.pairErrs ∧ r.now = s.now ∧
        r.retiredPairs = s.retiredPairs :=
      ⟨(congrArg State.mem left :).trans (congrArg State.mem besides :), (congrArg State.memPoison left :),
        (congrArg State.counts left :).trans (congrArg State.counts besides :), (congrArg State.pairErrs left :).trans (congrArg State.pairErrs besides :),
        (congrArg State.now left :).trans (congrArg State.now besides :),
        (congrArg State.retiredPairs left :).trans (congrArg State.retiredPairs besides :)⟩
    obtain ⟨mem', poison', counts', errs, now, retired⟩ := fields
    have quiet : NoReplay (countPair r q) := noReplay_of_launches (launches.trans (congrArg State.launches left :)) dry
    rw [form, failReplays_none quiet]
    rw [counts'] at counts
    rw [errs, now] at full few
    refine ⟨mem.trans mem', fun _ => by rw [poison, poison']; exact there, fun _ => ⟨counts, full, fun less => (few less).trans retired⟩,
      fun no => absurd is no, fun no => absurd is no⟩
  · by_cases wet : dirty
    · obtain ⟨r, hr⟩ : ∃ r, r = storageReport p gen 2 (homeDie (a / 128)) addr := ⟨_, rfl⟩
      have left : aside r = aside p := by rw [hr]; exact poisoned_ 2 _
      have form : cacheError s hbm addr gen id = failReplays r fun x _ => x.gen = gen := by
        rw [hr, ← hp]
        exact (if_neg is).trans (if_pos (found.mpr wet))
      have quiet : NoReplay r := noReplay_of_launches (congrArg State.launches left :) dry
      rw [form, failReplays_none quiet]
      exact ⟨(congrArg State.mem left :).trans (congrArg State.mem besides :), fun _ => (congrArg State.memPoison left :) ▸ there,
        fun no => absurd no is, fun _ => ⟨(congrArg State.counts left :).trans (congrArg State.counts besides :),
        (congrArg State.retiredPairs left :).trans (congrArg State.retiredPairs besides :)⟩, fun _ no => absurd wet no⟩
    · have form : cacheError s hbm addr gen id = storageReport (addRound s id) gen 2 (homeDie (a / 128)) addr :=
        (if_neg is).trans (if_neg fun h => wet (found.mp h))
      have left := aside_storageReport (addRound s id) gen 2 (homeDie (a / 128)) addr
      rw [form]
      generalize storageReport (addRound s id) gen 2 (homeDie (a / 128)) addr = t at left
      have reqs : t.reqs = (addRound s id).reqs := (congrArg State.reqs left :)
      have fills : t.fills = (addRound s id).fills := (congrArg State.fills left :)
      have walks : t.walks = (addRound s id).walks := (congrArg State.walks left :)
      refine ⟨(congrArg State.mem left :), fun bad => absurd bad (by simp [is, wet]), fun no => absurd no is,
        fun _ => ⟨(congrArg State.counts left :), (congrArg State.retiredPairs left :)⟩, fun _ _ => ⟨(congrArg State.memPoison left :),
        fun y hy => ?_, fun y hy => ?_, fun y hy => ?_, fun _ j other => ?_⟩⟩
      · rw [reqs]
        refine ⟨_, by rw [addRound, tabGet_mod_same, hy]; rfl, rfl⟩
      · rw [fills, addRound, tabGet_mod_same, hy]
        rfl
      · rw [walks, addRound, tabGet_mod_same, hy]
        rfl
      · rw [reqs, fills, walks, addRound]
        dsimp only
        rw [tabGet_mod_other _ _ other, tabGet_mod_other _ _ other, tabGet_mod_other _ _ other]
        exact ⟨rfl, rfl, rfl⟩

/-! ## Counted errors and cluster controls (R350, R349) -/

theorem counted_error (s : State) (n : Nat) (subj : s.subj = .of [n]) :
    (0x100 ≤ n → n < 0x8A0 → n % 8 = 0 → ∃ t, exec .correctedError s = .next t ∧ { t with counts := s.counts } = s ∧
      ∀ m, tabGetD m 0 t.counts = if m = n then min (2 ^ 64 - 1) (tabGetD n 0 s.counts + 1) else tabGetD m 0 s.counts) ∧
    (¬ (0x100 ≤ n ∧ n < 0x8A0 ∧ n % 8 = 0) → exec .correctedError s = .next s) ∧
    (n < 48 → n ∉ s.retiredClusters → (∀ u ∈ s.units, clusterOf u.2.core ≠ n) →
      ∃ t, exec .clusterControlError s = .next t ∧ n ∈ t.retiredClusters ∧ readyAt t n = false ∧ t.mem = s.mem) ∧
    (¬ (n < 48 ∧ n ∉ s.retiredClusters) → exec .clusterControlError s = .next s) := by
  have counted : exec .correctedError s = .next (if 0x100 ≤ n && n < 0x8A0 && n % 8 = 0 then addCount s n else s) := by
    rw [show exec .correctedError s = execCorrectedError s by rfl]
    unfold execCorrectedError
    rw [subj]
  have lost : exec .clusterControlError s = .next (if n < 48 && !s.retiredClusters.contains n then retireCluster s n else s) := by
    rw [show exec .clusterControlError s = execClusterControlError s by rfl]
    unfold execClusterControlError
    rw [subj]
  refine ⟨fun low high whole => ⟨addCount s n, by rw [counted, if_pos (by simp [low, high, whole])], rfl, fun m => ?_⟩, fun no => ?_,
    fun low new empty => ⟨retireCluster s n, by rw [lost, if_pos (by simp [low, new])], retireCluster_retires (by omega) empty⟩, fun no => ?_⟩
  · rw [addCount, tabGetD, tabGet_put]
    split <;> rfl
  · rw [counted, if_neg]
    simpa [and_assoc] using no
  · rw [lost, if_neg]
    simpa using no

/-- R437: what a failed posted write leaves. -/
theorem posted_error (s : State) (pasid addr : Nat) (subj : s.subj = .of [pasid, addr]) :
    ((∀ x ∈ s.ctxs, x.2.pasid ≠ pasid) → exec .failedPostedWrite s = .next s) ∧
    ∀ g c, s.ctxs.find? (fun x => x.2.pasid = pasid) = some (g, c) → ∃ t r, exec .failedPostedWrite s = .next t ∧ t.mem = s.mem ∧
      t.units = s.units ∧ t.cores = s.cores ∧ r ∈ t.reports ∧ r.fn = genFn s g ∧ r.bytes.take 2 = bytesOf 2 4 ∧
      (r.bytes.drop 32).take 4 = bytesOf 4 3 := by
  have run : exec .failedPostedWrite s = (match s.ctxs.find? fun x => x.2.pasid = pasid with
      | some (g, _) => .next (hostReport s g 0 addr 0 3)
      | none => .next s) := by
    rw [show exec .failedPostedWrite s = execFailedPostedWrite s by rfl]
    unfold execFailedPostedWrite
    rw [subj] <;> rfl
  rw [run]
  refine ⟨fun no => ?_, fun g c found => ?_⟩
  · rw [List.find?_eq_none.mpr fun x hx => by simpa using no x hx]
  · rw [found]
    obtain ⟨r, listed, -, fn, kind, cause⟩ := hostReport_lists s g 0 addr 0 3
    have left := aside_hostReport s g 0 addr 0 3
    exact ⟨_, r, rfl, aside_mem left, (congrArg State.units left :), (congrArg State.cores left :), listed, fn, kind, cause⟩

/-! ## The host link goes down (R435, R437) -/

theorem queueError_keeps {s : State} {k j : Nat} (h : (cqOf s k j).err = true) (fn q : Nat) : (cqOf (queueError s fn q) k j).err = true := by
  by_cases same : k = fn ∧ j = q
  · rw [same.1, same.2, (queueError_errs s fn q).1]
  · unfold queueError
    dsimp only
    split
    · exact h
    · unfold packetEvent
      rw [cqOf_congr (fnOf_postEvent (field := Fn.cqs) (fun _ _ _ => by rfl) ..) j]
      by_cases own : k = fn
      · rw [own] at h ⊢
        rw [cqOf, modCq, fnOf_modFn, tabGetD, tabGet_put_other _ _ fun here => same ⟨own, here⟩]
        exact h
      · rw [cqOf, modCq, fnOf_modFn_other _ _ own]
        exact h

/-- Every queue of a list has an error in the end. -/
theorem queueErrors_err {k j : Nat} : ∀ (l : List (Nat × Nat)) (s : State),
    ((k, j) ∈ l → (cqOf (l.foldl (fun a x => queueError a x.1 x.2) s) k j).err = true) ∧
    ((cqOf s k j).err = true → (cqOf (l.foldl (fun a x => queueError a x.1 x.2) s) k j).err = true)
  | [], _ => ⟨fun no => absurd no List.not_mem_nil, id⟩
  | x :: l, s => by
    obtain ⟨later, kept⟩ := queueErrors_err (k := k) (j := j) l (queueError s x.1 x.2)
    refine ⟨fun on => ?_, fun h => kept (queueError_keeps h ..)⟩
    rcases List.mem_cons.mp on with rfl | on
    · exact kept (by rw [(queueError_errs s k j).1])
    · exact later on

theorem en_reset : Cq.reset.en = false := by decide

theorem enabled_listed {s : State} {fn q : Nat} (en : (cqOf s fn q).en = true) :
    (fn, q) ∈ s.fns.flatMap fun x => (x.2.cqs.filter fun y => y.2.en).map fun y => (x.1, y.1) := by
  cases hf : tabGet fn s.fns with
  | none =>
    have none_ : fnOf s fn = Fn.reset fn := by rw [fnOf, tabGetD, hf]; rfl
    rw [cqOf, none_] at en
    exact absurd (en.symm.trans en_reset) (by decide)
  | some f =>
    have there : fnOf s fn = f := by rw [fnOf, tabGetD, hf]; rfl
    rw [cqOf, there, tabGetD] at en
    cases hq : tabGet q f.cqs with
    | none =>
      rw [hq] at en
      exact absurd (en.symm.trans en_reset) (by decide)
    | some c =>
      rw [hq] at en
      exact List.mem_flatMap.mpr ⟨(fn, f), mem_of_tabGet hf, List.mem_map.mpr ⟨(q, c), List.mem_filter.mpr ⟨mem_of_tabGet hq, en⟩, rfl⟩⟩

/-- R437: with no read of the host under way, the link that goes down stops the enabled queues. -/
theorem link_drops (s : State) (idle : ∀ x ∈ s.reqs, ¬ (x.2.host = true ∧ x.2.isLoad = true)) : ∃ t, exec .linkDown s = .next t ∧
    t.linkUp = false ∧ t.mem = s.mem ∧ ∀ fn q, (cqOf s fn q).en = true → (cqOf t fn q).err = true := by
  have none_ : (s.reqs.filter fun x => x.2.host && x.2.isLoad) = [] := by
    rw [List.filter_eq_nil_iff]
    intro x hx
    simpa using idle x hx
  have form : dropLink s = (s.fns.flatMap fun x => (x.2.cqs.filter fun y => y.2.en).map fun y => (x.1, y.1)).foldl
      (fun a x => queueError a x.1 x.2) { s with linkUp := false } := by
    unfold dropLink
    dsimp only
    rw [none_]
    rfl
  refine ⟨dropLink s, rfl, ?_⟩
  rw [form]
  have left := foldl_same (view := aside) (f := fun a (x : Nat × Nat) => queueError a x.1 x.2) (fun a x => (queueError_errs a x.1 x.2).2)
    (s.fns.flatMap fun x => (x.2.cqs.filter fun y => y.2.en).map fun y => (x.1, y.1)) { s with linkUp := false }
  exact ⟨(congrArg State.linkUp left :), (congrArg State.mem left :), fun fn q en => (queueErrors_err _ _).1 (enabled_listed en)⟩

/-! ## Failed reads of the host (R437) -/

/-- What a return that writes registers leaves as it is: the groups but for their register words, memory and the reports. -/
def seenIn (s : State) : (Gid → Option View) × Memory × List Report := (view s, s.mem, s.reports)

theorem seenIn_congr {s t : State} (cores : t.cores = s.cores) (pools : t.pools = s.pools) (mem : t.mem = s.mem) (reports : t.reports = s.reports) :
    seenIn t = seenIn s := by
  unfold seenIn
  rw [mem, reports, funext (view_congr cores pools)]

theorem seenIn_modCore {f : Core → Core} (keep : ∀ k, (f k).warps = k.warps) (s : State) (c : Nat) : seenIn (modCore s c f) = seenIn s := by
  have views : view (modCore s c f) = view s := funext fun g => by
    cases g with
    | warp d w => rw [view_warp_eq, view_warp_eq, warpOf_modCore_eq keep]
    | kindle => rfl
  unfold seenIn
  rw [views]
  rfl

theorem seenIn_l1Settle (s : State) (gen core : Nat) (upd : List (Nat × Nat × Nat)) (drop : List (Nat × Nat)) :
    seenIn (l1Settle s gen core upd drop) = seenIn s := by
  have dropped (a : State) (line mask : Nat) : seenIn (l1Drop a core line mask) = seenIn a := by
    unfold l1Drop
    split
    · rfl
    · exact seenIn_modCore (fun _ => by rfl) ..
  unfold l1Settle
  refine (foldl_same (view := seenIn) (f := fun a (x : Nat × Nat) => l1Drop a core x.1 x.2) (fun a x => dropped a x.1 x.2) _ _).trans ?_
  exact foldl_same (view := seenIn)
    (f := fun a (x : Nat × Nat × Nat) => l1Update a core x.1 x.2.1 (readAs a gen (placeOf a (128 * x.1 + x.2.1)) x.2.2))
    (fun a x => seenIn_modCore (fun _ => by rfl) ..) _ _

theorem seenIn_progress (s : State) (v : View) : seenIn (progress s v) = seenIn s := by
  unfold progress
  split
  · next c w _ =>
    have views : view (modWarp s c w fun x => { x with spin := 0, demc := 0 }) = view s :=
      funext (view_modWarp_unseen (fun _ _ _ => by rfl) s c w)
    unfold seenIn
    rw [views]
    rfl
  · rfl

section
variable {v : View} {c w : Nat} (warp : v.gid = .warp c w)
include warp

theorem seenIn_putX (s : State) (iss lane : Nat) {reg : Nat} (low : reg < 120) (x : Word) : seenIn (putX s v iss lane reg x) = seenIn s := by
  unfold putX
  dsimp only
  split
  · rfl
  · rw [landWrite_x_warp warp low]
    exact seenIn_modCore (fun _ => by rfl) s c

theorem seenIn_putItems (s : State) (q : Req) (lane : Nat) {d : Nat} (low : d < 120) (x : Word) (l : List (Nat × Nat × Word))
    (is : l = [] ∨ l = [(lane, d, x)]) : seenIn (putItems s v q l) = seenIn s := by
  unfold putItems
  dsimp only
  generalize hs1 : (if !v.kc && changes s v l then progress s v else s) = s1
  have first : seenIn s1 = seenIn s := by
    rw [← hs1]
    split
    · exact seenIn_progress ..
    · rfl
  obtain rfl | rfl := is
  · exact first
  · exact (seenIn_putX warp s1 q.issued lane low x).trans first

/-- A register word of a warp that takes poison reads as poisoned. -/
theorem poisonX_poisons (s : State) (lane : Nat) {d : Nat} (low : d < 120) : seenIn (poisonX s v lane d) = seenIn s ∧
    regAddr v.page d lane ∈ (coreOf (poisonX s v lane d) c).storePoison := by
  unfold poisonX
  rw [warp]
  dsimp only
  rw [if_pos low]
  exact ⟨seenIn_modCore (fun _ => by rfl) s c, by rw [coreOf_modCore]; exact mem_addOnce ..⟩

theorem poisoned_of_mem {s : State} {d lane : Nat} (low : d < 120) (bad : regAddr v.page d lane ∈ (coreOf s c).storePoison) :
    poisoned s v [(d, 1)] [lane] ≠ [] := by
  unfold poisoned
  rw [warp]
  dsimp only
  rw [if_neg (by simpa using List.ne_nil_of_mem bad)]
  simp [low, bad, List.range_succ]

end

/-- An item of at most 32 bits is one word. -/
theorem itemWords_one {z : Nat} (a : z ≠ 5) (b : z ≠ 6) (bytes : List Byte) : ∃ x, itemWords z bytes = [x] := by
  unfold itemWords
  split <;> simp_all

section
variable {s : State} {id n z lane d : Nat} {q : Req} {v : View} {bytes : List Byte}

/-- The return of a load of one lane whose only item is poison leaves its register poisoned and gives up its slot. -/
theorem returnReq_poisons (there : tabGet id s.reqs = some q) (seen : view s q.gid = some v) (same : v.serial = q.serial) (slot : q.slot = some n)
    (kind : q.kind = .load z [(lane, d, bytes)]) (z5 : z ≠ 5) (z6 : z ≠ 6) (fills : q.fills = []) (outside : q.outside = []) (acq : q.acq = 0)
    (fault : q.fault = none) (going : isCancelled s v = false) (now : returnsLater s q.unit q.gen = false) (low : d < 120)
    (warp : ∃ c w, v.gid = .warp c w) (bad : 0 ∈ q.poison) :
    view (returnReq s id) q.gid = some { v with run := slotFallen n v.run } ∧ poisoned (returnReq s id) v [(d, 1)] [lane] ≠ [] ∧
    (returnReq s id).mem = s.mem ∧ (returnReq s id).reports = s.reports := by
  obtain ⟨c, w, warp⟩ := warp
  obtain ⟨x, one⟩ := itemWords_one z5 z6 bytes
  obtain ⟨s1, hs1⟩ : ∃ s1, s1 = l1Settle { s with reqs := tabDel id s.reqs } q.gen q.core q.upd q.drop := ⟨_, rfl⟩
  have first : seenIn s1 = seenIn s := by
    rw [hs1, seenIn_l1Settle]
    exact seenIn_congr rfl rfl rfl rfl
  have units : s1.units = s.units := by
    rw [hs1]
    exact congrArg Prod.fst (workData_l1Settle ..)
  have asks : requester s1 q = some v := by
    have as_ : view s1 q.gid = view s q.gid := congrFun (congrArg Prod.fst first) q.gid
    rw [requester, as_, seen]
    simp [same]
  have going1 : isCancelled s1 v = false := by
    rw [isCancelled, unitOf, units]
    exact going
  have run : returnReq s id = slotSub (putResult s1 v q) v.gid n := by
    unfold returnReq inputReturned
    rw [there]
    dsimp only
    rw [← hs1, asks]
    simp only [fills, List.foldl_nil, now, Bool.false_eq_true, if_false, going1, slot, fault, acq, decide_true, Bool.true_or, if_true, outside,
      List.isEmpty_nil]
  obtain ⟨flat, hflat⟩ : ∃ l : List (Nat × Nat × Word), l = if bytes.isEmpty then [] else [(lane, d, x)] := ⟨_, rfl⟩
  obtain ⟨s2, hs2⟩ : ∃ s2, s2 = putItems s1 v q flat := ⟨_, rfl⟩
  have result : putResult s1 v q = poisonX s2 v lane d := by
    unfold putResult
    rw [kind]
    dsimp only
    rw [hs2, hflat]
    simp only [List.flatMap_cons, List.flatMap_nil, one, List.mapIdx_cons, List.mapIdx_nil, Nat.add_zero, List.append_nil, List.foldl_cons, List.foldl_nil,
      List.length_cons, List.length_nil, List.range_one, Nat.zero_add, List.contains_iff_mem.mpr bad, if_true]
  have second : seenIn s2 = seenIn s := by
    rw [hs2, hflat, seenIn_putItems warp s1 q lane low x _ (by split <;> simp), first]
  obtain ⟨third, marked⟩ := poisonX_poisons warp s2 lane low
  obtain ⟨t, ht⟩ : ∃ t, t = poisonX s2 v lane d := ⟨_, rfl⟩
  rw [← ht] at third marked
  have whole : seenIn t = seenIn s := third.trans second
  have still : view t q.gid = some v := (congrFun (congrArg Prod.fst whole) q.gid).trans seen
  have gid := view_gid seen
  rw [run, result, ← ht]
  refine ⟨?_, ?_, ?_, ?_⟩
  · exact gid.symm ▸ view_slotSub (v := v) still n
  · refine poisoned_of_mem warp low ?_
    rw [warp]
    rw [slotSub, modRun, coreOf_modWarp_field (field := Core.storePoison) (fun _ _ => by rfl)]
    exact marked
  · rw [warp]
    exact congrArg (fun y => y.2.1) whole
  · rw [warp]
    exact congrArg (fun y => y.2.2) whole

end

section
variable {s : State} {id n z lane d : Nat} {q : Req} {v : View} {bytes : List Byte}

/-- R437: a failed read of the host returns poison and is reported with its cause. -/
theorem failHostRead_fails (there : tabGet id s.reqs = some q) (host : q.host = true) (load : q.isLoad = true) (seen : view s q.gid = some v)
    (same : v.serial = q.serial) (slot : q.slot = some n) (kind : q.kind = .load z [(lane, d, bytes)]) (z5 : z ≠ 5) (z6 : z ≠ 6)
    (again : q.again = none) (fills : q.fills = []) (outside : q.outside = []) (acq : q.acq = 0) (fault : q.fault = none)
    (going : isCancelled s v = false) (now : returnsLater s q.unit q.gen = false) (low : d < 120) (warp : ∃ c w, v.gid = .warp c w)
    (fresh : ∀ r ∈ s.reports, r.handle < s.fresh) (cause : Nat) :
    ∃ v' r, view (failHostRead s id cause) q.gid = some v' ∧ v'.pc = v.pc ∧
      v'.run.slots = (v.run.slots.mapIdx fun j k => if j = n then k - 1 else k) ∧ poisoned (failHostRead s id cause) v' [(d, 1)] [lane] ≠ [] ∧
      (failHostRead s id cause).mem = s.mem ∧ r ∈ (failHostRead s id cause).reports ∧ r ∉ s.reports ∧ r.fn = genFn s q.gen ∧
      r.bytes.take 2 = bytesOf 2 4 ∧ (r.bytes.drop 32).take 4 = bytesOf 4 cause := by
  obtain ⟨s1, hs1⟩ : ∃ s1, s1 = hostReport s q.gen (launchHandle s q.unit) 0 q.ipc.toNat cause := ⟨_, rfl⟩
  obtain ⟨r, listed, handle, fn, bytes_, code⟩ := hostReport_lists s q.gen (launchHandle s q.unit) 0 q.ipc.toNat cause
  have left : aside s1 = aside s := by rw [hs1]; exact aside_hostReport ..
  rw [← hs1] at listed
  obtain ⟨p, hp⟩ : ∃ p : Req, p = { q with due := s.now, poison := dedup (q.poison ++ [0]) } := ⟨_, rfl⟩
  obtain ⟨s2, hs2⟩ : ∃ s2 : State, s2 = { s1 with
    agenda := s1.agenda.filter fun t => !(t.i = returnEvent q && t.subj = .of [id]), reqs := tabPut id p s1.reqs } := ⟨_, rfl⟩
  have items : hostItems s q = ([0], 0) := by
    unfold hostItems
    rw [again, kind]
    rfl
  have form : failHostRead s id cause = returnReq s2 id := by
    unfold failHostRead
    rw [there]
    dsimp only
    rw [if_neg (by simp [host, load]), items]
    dsimp only
    rw [hs2, hp, hs1]
  have views : view s2 q.gid = view s q.gid := by
    rw [hs2]
    exact view_congr (congrArg State.cores left :) (congrArg State.pools left :) q.gid
  have units : s2.units = s.units := by rw [hs2]; exact (congrArg State.units left :)
  have time : s2.now = s.now := by rw [hs2]; exact (congrArg State.now left :)
  have ctxs : s2.ctxs = s.ctxs := by rw [hs2]; exact (congrArg State.ctxs left :)
  obtain ⟨gid', serial', slot', kind', fills', outside', acq', fault'⟩ : p.gid = q.gid ∧ p.serial = q.serial ∧ p.slot = q.slot ∧ p.kind = q.kind ∧
      p.fills = q.fills ∧ p.outside = q.outside ∧ p.acq = q.acq ∧ p.fault = q.fault := by
    rw [hp]
    exact ⟨rfl, rfl, rfl, rfl, rfl, rfl, rfl, rfl⟩
  have later : returnsLater s2 p.unit p.gen = false := by
    rw [hp, returnsLater, ctxStops, ctxOf, ctxs, unitOf, units, time]
    exact now
  have on : isCancelled s2 v = false := by
    rw [isCancelled, unitOf, units]
    exact going
  obtain ⟨v', poison, mem, reports⟩ := returnReq_poisons (s := s2) (id := id) (q := p) (n := n) (z := z) (lane := lane) (d := d) (v := v) (bytes := bytes)
    (by rw [hs2]; exact tabGet_put_same ..) (by rw [gid', views, seen]) (by rw [serial', same]) (by rw [slot', slot]) (by rw [kind', kind]) z5 z6
    (by rw [fills', fills]) (by rw [outside', outside]) (by rw [acq', acq]) (by rw [fault', fault]) on later low warp
    (by rw [hp]; exact mem_dedup.mpr (List.mem_append_right _ List.mem_cons_self))
  rw [form]
  rw [gid'] at v'
  refine ⟨_, r, v', rfl, rfl, poison, ?_, ?_, fun old => ?_, fn, bytes_, code⟩
  · rw [mem, hs2]
    exact (congrArg State.mem left :)
  · rw [reports, hs2]
    exact listed
  · have := fresh r old
    omega

end

/-- Settles O54: errors poison, count, retire, refetch and are reported as their place and kind say. -/
theorem errorEvents : Obligations.ErrorEvents := by
  unfold Obligations.ErrorEvents
  refine ⟨store_error, cache_error, counted_error, ?_, fun s => ⟨link_drops s, ⟨_, rfl, rfl, rfl⟩, posted_error s⟩⟩
  intro s id q v n z lane d bytes there host load seen same slot kind z5 z6 again fills outside acq fault going now _ low _ warp fails
  have fails_ {i : Instr} {cause : Nat} (run : exec i s = .next (failHostRead s id cause)) (fresh : ∀ r ∈ s.reports, r.handle < s.fresh) :
      fails i cause := by
    obtain ⟨v', r, all⟩ := failHostRead_fails there host load seen same slot kind z5 z6 again fills outside acq fault going now low warp fresh cause
    exact ⟨_, v', r, run, all⟩
  have hostLate_eq : hostLate s id = decide (tickEnd (tickOf q.sent + Config.lostTicks) ≤ s.now) := by
    unfold hostLate
    rw [there]
    simp [host, load]
  refine ⟨fun aborter subj fresh => fails_ ?_ fresh, fun subj fresh => ?_⟩
  · rw [show exec .hostReadFailure s = execHostReadFailure s by rfl]
    unfold execHostReadFailure
    rw [subj]
  · have run : exec .hostCompletionTimeout s = .next (if hostLate s id then failHostRead s id 2 else s) := by
      rw [show exec .hostCompletionTimeout s = execHostCompletionTimeout s by rfl]
      unfold execHostCompletionTimeout
      rw [subj]
    rw [hostLate_eq] at run
    exact ⟨fun late => fails_ (by rw [run, if_pos (by simpa using late)]) fresh, fun early => by rw [run, if_neg (by simpa using early)]⟩

end Sys2Proof
end

section
/-! The memory of the module stays in its canonical form (log 5): what a step that keeps it means for a state, for a decision at issue and for an
answer. -/

namespace Sys2Proof
open Machine

/-- The memory of the module lists rising addresses and no byte that an unlisted one reads as (log 5). -/
def Canonical (s : State) : Prop := s.mem.wf = true

theorem canonical_of_mem {s t : State} (same : t.mem = s.mem) (h : Canonical s) : Canonical t := by
  rw [Canonical, same]
  exact h

theorem canonical_foldl {α : Type} {f : State → α → State} {l : List α} {s : State} (keeps : ∀ a x, Canonical a → Canonical (f a x))
    (h : Canonical s) : Canonical (l.foldl f s) := foldl_keeps keeps l h

section
variable {α β : Type} {l : List α}

theorem canonical_foldl_fst {f : State × β → α → State × β} {p : State × β} (keeps : ∀ (a : State × β) x, Canonical a.1 → Canonical (f a x).1)
    (h : Canonical p.1) : Canonical (l.foldl f p).1 := foldl_keeps (P := fun a : State × β => Canonical a.1) keeps l h

theorem canonical_foldl_moved {f : Moved → α → Moved} {m : Moved} (keeps : ∀ (a : Moved) x, Canonical a.s → Canonical (f a x).s)
    (h : Canonical m.s) : Canonical (l.foldl f m).s := foldl_keeps (P := fun a : Moved => Canonical a.s) keeps l h

theorem canonical_foldl_spilling {f : Spilling → α → Spilling} {m : Spilling} (keeps : ∀ (a : Spilling) x, Canonical a.s → Canonical (f a x).s)
    (h : Canonical m.s) : Canonical (l.foldl f m).s := foldl_keeps (P := fun a : Spilling => Canonical a.s) keeps l h

theorem canonical_foldl_dumping {f : Dumping → α → Dumping} {m : Dumping} (keeps : ∀ (a : Dumping) x, Canonical a.s → Canonical (f a x).s)
    (h : Canonical m.s) : Canonical (l.foldl f m).s := foldl_keeps (P := fun a : Dumping => Canonical a.s) keeps l h

end

/-- A decision at issue whose state has a canonical memory. -/
def CanonicalDid (d : Did) : Prop :=
  match d with
  | .done s _ _ | .wait s _ | .left s => Canonical s
  | .trap _ => True

section
variable {s : State}

theorem canonical_done {a : ParkAct} {n : Nat} (h : Canonical s) : CanonicalDid (.done s a n) := h
theorem canonical_wait {n : Nat} (h : Canonical s) : CanonicalDid (.wait s n) := h
theorem canonical_left (h : Canonical s) : CanonicalDid (.left s) := h
theorem canonical_trap {t : Trap} : CanonicalDid (.trap t) := trivial

theorem canonical_plain {f : State → View → State} {v : View} (keeps : ∀ a v, Canonical a → Canonical (f a v)) (h : Canonical s) :
    CanonicalDid (plain f s v) := keeps s v h

end

/-- An answer whose next state has a canonical memory. -/
def Answers (o : Host.Outcome State Fault Refusal) : Prop :=
  match o with
  | .next s => Canonical s
  | _ => True

theorem answers_next {s : State} (h : Canonical s) : Answers (.next s) := h
theorem answers_fault {f : Fault} : Answers (.fault f) := trivial

/-- A state that may be given, with a canonical memory. -/
def CanonicalOption (o : Option State) : Prop := ∀ t, o = some t → Canonical t

theorem canonical_some {s : State} (h : Canonical s) : CanonicalOption (some s) := fun _ e => Option.some.inj e ▸ h
theorem canonical_none : CanonicalOption none := fun _ e => nomatch e

/-- A decision before the effect that may be given, with a canonical memory. -/
def CanonicalPre (o : Option Did) : Prop := ∀ d, o = some d → CanonicalDid d

theorem canonicalPre_some {d : Did} (h : CanonicalDid d) : CanonicalPre (some d) := fun _ e => Option.some.inj e ▸ h
theorem canonicalPre_none : CanonicalPre none := fun _ e => nomatch e

/-- The tests of an access that leave a state leave it with a canonical memory. -/
def CanonicalTested (x : Tested) : Prop :=
  match x with
  | .wait s | .trap s _ => Canonical s
  | .park .. | .ok => True

theorem canonicalTested_wait {x : Tested} {s : State} (h : CanonicalTested x) (e : x = .wait s) : Canonical s := by
  subst e
  exact h

theorem canonicalTested_trap {x : Tested} {s : State} {t : Trap} (h : CanonicalTested x) (e : x = .trap s t) : Canonical s := by
  subst e
  exact h

/-- The lines of a transfer that is awaited leave a canonical memory. -/
def CanonicalTransfer (x : Transfer) : Prop :=
  match x with
  | .wait s => Canonical s
  | .lines .. => True

theorem canonicalTransfer_wait {x : Transfer} {s : State} (h : CanonicalTransfer x) (e : x = .wait s) : Canonical s := by
  subst e
  exact h

/-- What a write over pages has written has a canonical memory. -/
def CanonicalWritten (e : Except (Nat × Nat) (State × List Byte)) : Prop :=
  match e with
  | .error _ => True
  | .ok p => Canonical p.1

/-- What the arrival of a group at a fault leaves has a canonical memory, whether the group goes on or not. -/
def CanonicalArrival (e : Except State (State × View)) : Prop :=
  match e with
  | .error t => Canonical t
  | .ok p => Canonical p.1

theorem canonicalArrival_error {e : Except State (State × View)} {t : State} (h : CanonicalArrival e) (stops : e = .error t) : Canonical t := by
  subst stops
  exact h

theorem canonicalArrival_ok {e : Except State (State × View)} {t : State} {v : View} (h : CanonicalArrival e) (goes : e = .ok (t, v)) :
    Canonical t := by
  subst goes
  exact h

section
variable {p : Prop} [Decidable p]

theorem canonical_ite {s t : State} (hs : Canonical s) (ht : Canonical t) : Canonical (if p then s else t) := by
  split
  · exact hs
  · exact ht

theorem canonicalDid_ite {d e : Did} (hd : CanonicalDid d) (he : CanonicalDid e) : CanonicalDid (if p then d else e) := by
  split
  · exact hd
  · exact he

end

/-! ## The writers of the memory of the module -/

section
variable {s : State}

theorem canonical_writeByte {p : Place} {b : Byte} (h : Canonical s) : Canonical (writeByte s p b) := by
  cases p with
  | dev a => exact set_wf _ b h
  | remote => exact h
  | host => exact h

theorem canonical_copyPage {old new : Nat} (h : Canonical s) : Canonical (copyPage s old new) :=
  foldl_keeps (P := fun m : Memory => m.wf = true) (fun _ c wf => set_wf (c.1 - old + new) c.2 wf) _ (clear_wf new 65536 h)

theorem canonical_zeroPage {gen va : Nat} (h : Canonical s) : Canonical (zeroPage s gen va) := by
  unfold zeroPage
  split
  · split
    · exact clear_wf _ 65536 h
    · exact h
  · exact h

end

theorem canonical_reset : Canonical State.reset := rfl

theorem canonical_afterReset {s : State} (_ : Canonical s) : Canonical (afterReset s) := canonical_reset

end Sys2Proof
end

section
/-! One rule for each function that answers a state: it keeps the memory of the module canonical. -/
namespace Sys2Proof
open Machine

/-! ## Parts of the state -/

theorem canonical_setCore {s : State} {c : Nat} {x : Core} (h : Canonical s) : Canonical (setCore s c x) := h

theorem canonical_modCore {s : State} {c : Nat} {f : Core → Core} (h : Canonical s) : Canonical (modCore s c f) := canonical_setCore h

theorem canonical_setWarp {s : State} {c w : Nat} {x : Warp} (h : Canonical s) : Canonical (setWarp s c w x) := canonical_modCore h

theorem canonical_modWarp {s : State} {c w : Nat} {f : Warp → Warp} (h : Canonical s) : Canonical (modWarp s c w f) := canonical_modCore h

theorem canonical_modPool {s : State} {cl : Nat} {f : Pool → Pool} (h : Canonical s) : Canonical (modPool s cl f) := h

theorem canonical_modEj {s : State} {cl k : Nat} {f : Ejected → Ejected} (h : Canonical s) : Canonical (modEj s cl k f) := canonical_modPool h

theorem canonical_modUnit {s : State} {u : Nat} {f : UnitSt → UnitSt} (h : Canonical s) : Canonical (modUnit s u f) := h

theorem canonical_modLaunch {s : State} {l : Nat} {f : Launch → Launch} (h : Canonical s) : Canonical (modLaunch s l f) := h

theorem canonical_modReq {s : State} {r : Nat} {f : Req → Req} (h : Canonical s) : Canonical (modReq s r f) := h

theorem canonical_modCmd {s : State} {c : Nat} {f : Cmd → Cmd} (h : Canonical s) : Canonical (modCmd s c f) := h

theorem canonical_modFe {s : State} {p : Nat} {f : FrontEnd → FrontEnd} (h : Canonical s) : Canonical (modFe s p f) := h

theorem canonical_modFn {s : State} {n : Nat} {f : Fn → Fn} (h : Canonical s) : Canonical (modFn s n f) := h

theorem canonical_modCtx {s : State} {g : Nat} {f : Ctx → Ctx} (h : Canonical s) : Canonical (modCtx s g f) := h

theorem canonical_freshNat {s : State} (h : Canonical s) : Canonical (freshNat s).2 := h

theorem canonical_schedule {s : State} {due : Nat} {i : Instr} {subj : Subject} (h : Canonical s) : Canonical (schedule s due i subj) := h

theorem canonical_takeLost {s : State} (h : Canonical s) : Canonical (takeLost s).2 := by
  unfold takeLost
  split
  · exact h
  · exact h

/-! ## Groups -/

theorem canonical_modRun {s : State} {g : Gid} {f : Run → Run} (h : Canonical s) : Canonical (modRun s g f) := by
  unfold modRun
  split
  · exact canonical_modWarp h
  · exact canonical_modEj h

theorem canonical_setPc {s : State} {g : Gid} {pc : Pc} (h : Canonical s) : Canonical (setPc s g pc) := by
  unfold setPc
  split
  · exact canonical_modWarp h
  · exact canonical_modEj h

theorem canonical_setStatus {s : State} {g : Gid} {st : Status} (h : Canonical s) : Canonical (setStatus s g st) := canonical_modRun h

theorem canonical_modThr {s : State} {g : Gid} {lane : Nat} {f : Thread → Thread} (h : Canonical s) : Canonical (modThr s g lane f) := by
  unfold modThr
  split
  · exact canonical_modWarp h
  · exact canonical_modEj h

theorem canonical_landWrite {s : State} {v : View} {x : PendWrite} (h : Canonical s) : Canonical (landWrite s v x) := by
  unfold landWrite
  split
  · split
    · exact canonical_ite (canonical_modCore h) (canonical_modWarp h)
    · exact canonical_modEj h
  · exact canonical_modThr h
  · exact canonical_modThr h
  · extract_lets +onlyGivenNames warpSr
    have hwarpSr : ∀ (f : Warp → Warp), Canonical (warpSr f) := by
      intro _
      exact canonical_modWarp h
    split
    · exact canonical_modThr h
    · exact canonical_modThr h
    · exact hwarpSr _
    · exact hwarpSr _
    · exact canonical_modThr h
    · exact canonical_modThr h
    · exact hwarpSr _
    · exact canonical_modUnit h
    · exact h
  · exact canonical_modCore h
  · exact canonical_modWarp h

theorem canonical_landGroup {s : State} {g : Gid} (h : Canonical s) : Canonical (landGroup s g) := by
  unfold landGroup
  split
  · exact h
  · extract_lets +onlyGivenNames due
    split
    · exact h
    · exact canonical_foldl (fun _ _ => canonical_landWrite) (canonical_modRun h)

theorem canonical_landUnit {s : State} {u : Nat} (h : Canonical s) : Canonical (landUnit s u) := by
  unfold landUnit
  split
  · exact h
  · split
    · exact h
    · exact canonical_modUnit h

theorem canonical_pendWrite {s : State} {g : Gid} {lat : Nat} {w : PendWrite} (h : Canonical s) : Canonical (pendWrite s g lat w) :=
  canonical_modRun h

theorem canonical_pendWrites {s : State} {g : Gid} {lat : Nat} {ws : List PendWrite} (h : Canonical s) : Canonical (pendWrites s g lat ws) :=
  canonical_modRun h

theorem canonical_pendK {s : State} {v : View} {lat k : Nat} {x : DWord} (h : Canonical s) : Canonical (pendK s v lat k x) :=
  canonical_modRun (canonical_modUnit h)

theorem canonical_putK {s : State} {u iss k : Nat} {x : DWord} (h : Canonical s) : Canonical (putK s u iss k x) := canonical_modUnit h

theorem canonical_putX {s : State} {v : View} {iss lane reg : Nat} {val : Word} (h : Canonical s) : Canonical (putX s v iss lane reg val) :=
  canonical_ite h (canonical_landWrite h)

/-! ## Slots -/

theorem canonical_slotAdd {s : State} {g : Gid} {i : Nat} (h : Canonical s) : Canonical (slotAdd s g i) := canonical_modRun h

theorem canonical_slotSub {s : State} {g : Gid} {i : Nat} (h : Canonical s) : Canonical (slotSub s g i) := canonical_modRun h

/-! ## Traps -/

theorem canonical_haltLaunch {s : State} {l core wslot lane : Nat} {first : Trap} {second : Option Trap} (h : Canonical s) :
    Canonical (haltLaunch s l core wslot lane first second) := by
  unfold haltLaunch
  split
  · exact canonical_modLaunch h
  · exact canonical_schedule (canonical_modLaunch h)

theorem canonical_fatalTrap {s : State} {v : View} {first : Trap} {second : Option Trap} (h : Canonical s) :
    Canonical (fatalTrap s v first second) := by
  unfold fatalTrap
  split
  · exact h
  · exact canonical_haltLaunch (canonical_setStatus h)

theorem canonical_raiseTrap {s : State} {v : View} {t : Trap} {rets : List (Nat × Pc)} (h : Canonical s) : Canonical (raiseTrap s v t rets) := by
  unfold raiseTrap
  extract_lets +onlyGivenNames f
  split
  · exact canonical_fatalTrap h
  · exact canonical_ite (canonical_fatalTrap h) (canonical_modRun h)

theorem canonical_startRun {s : State} {g : Gid} {since : Nat} (h : Canonical s) : Canonical (startRun s g since) := by
  unfold startRun
  extract_lets +onlyGivenNames s1
  have hs1 : Canonical s1 := canonical_modRun h
  split
  · exact canonical_modWarp hs1
  · exact canonical_modEj hs1

theorem canonical_zeroGranule {s : State} {core phys : Nat} (h : Canonical s) : Canonical (zeroGranule s core phys) := canonical_modCore h

theorem canonical_dropRegion {s : State} {c w : Nat} (h : Canonical s) : Canonical (dropRegion s c w) := by
  unfold dropRegion
  split
  · exact h
  · split
    · exact h
    · exact canonical_modWarp (canonical_foldl (fun _ _ => canonical_zeroGranule) h)

theorem canonical_enterHandler {s : State} {v : View} {t : Trap} {rets : List (Nat × Pc)} (h : Canonical s) :
    Canonical (enterHandler s v t rets) := by
  unfold enterHandler
  extract_lets +onlyGivenNames h1 s1 s2
  have hs1 : Canonical s1 := canonical_foldl (fun _ _ => canonical_modThr) h
  have hs2 : Canonical s2 := by
    dsimp only [s2]
    split
    · exact canonical_dropRegion hs1
    · exact canonical_modEj hs1
  exact canonical_startRun (canonical_setPc hs2)

theorem canonical_leaveHandler {s : State} {v : View} (h : Canonical s) : Canonical (leaveHandler s v) :=
  canonical_foldl (fun _ _ => canonical_modThr) h

/-! ## Page tables (log 7) -/

theorem canonical_writePlace {s : State} {p : Place} {bytes : List Byte} (h : Canonical s) : Canonical (writePlace s p bytes) := by
  unfold writePlace
  extract_lets +onlyGivenNames s1
  have hs1 : Canonical s1 := canonical_foldl (fun _ _ => canonical_writeByte) h
  split
  · exact canonical_ite hs1 hs1
  · exact hs1

/-! ## Memory keys (R344) -/

theorem canonical_writeAs {s : State} {gen : Nat} {p : Place} {bytes : List Byte} (h : Canonical s) : Canonical (writeAs s gen p bytes) :=
  canonical_writePlace h

theorem canonical_breakRelease {s : State} {p : Place} {n : Nat} (h : Canonical s) : Canonical (breakRelease s p n) := by
  unfold breakRelease
  split
  · exact canonical_ite h h
  · exact h

theorem canonical_poisonPlace {s : State} {p : Place} (h : Canonical s) : Canonical (poisonPlace s p) := by
  unfold poisonPlace
  split
  · exact canonical_ite h h
  · exact h

/-! ## Accesses of front ends, engines and the Crucible: translated by the service, no TLB of a core -/

theorem canonical_vwrite {s t : State} {gen va : Nat} {bytes : List Byte} (h : Canonical s) (ok : vwrite s gen va bytes = .ok t) :
    Canonical t := by
  unfold vwrite at ok
  extract_lets r at ok
  have kept : CanonicalWritten r := by
    refine foldl_keeps (fun e c he => ?_) _ (h : CanonicalWritten (.ok (s, bytes)))
    dsimp only
    split
    · exact trivial
    · split
      · exact trivial
      · exact canonical_breakRelease (canonical_writeAs he)
  generalize r = x at ok kept
  cases x with
  | error e => nomatch ok
  | ok p =>
    cases ok
    exact kept

theorem canonical_vput {s : State} {gen va n v : Nat} (h : Canonical s) : Canonical (vput s gen va n v) := by
  unfold vput
  split
  next t ok => exact canonical_vwrite h ok
  next => exact h

/-! ## The shared cache (R108, R109, R356) -/

theorem canonical_l2Touch {s : State} {gen part line dirty : Nat} (h : Canonical s) : Canonical (l2Touch s gen part line dirty) := by
  unfold l2Touch
  dsimp only
  split
  · exact canonical_freshNat h
  · exact canonical_of_mem (s := s) rfl h

/-! ## Paths (Table 10.2) -/

theorem canonical_touchPlace {s : State} {gen part : Nat} {p : Place} {dirty : Nat} (h : Canonical s) :
    Canonical (touchPlace s gen part p dirty) := by
  unfold touchPlace
  split
  · exact canonical_l2Touch h
  · exact canonical_freshNat h

/-! ## The L1 (R106, R107) -/

theorem canonical_l1Fill {s : State} {gen core line mask : Nat} {base : Place} (h : Canonical s) :
    Canonical (l1Fill s gen core line mask base) := by
  unfold l1Fill
  extract_lets +onlyGivenNames c
  split
  · exact h
  · exact canonical_modCore (canonical_freshNat h)

theorem canonical_l1Update {s : State} {core line off : Nat} {bytes : List Byte} (h : Canonical s) :
    Canonical (l1Update s core line off bytes) := canonical_modCore h

theorem canonical_l1Drop {s : State} {core line mask : Nat} (h : Canonical s) : Canonical (l1Drop s core line mask) :=
  canonical_ite h (canonical_modCore h)

theorem canonical_l1Acquire {s : State} {core scope : Nat} (h : Canonical s) : Canonical (l1Acquire s core scope) := by
  unfold l1Acquire
  split
  · exact h
  · split
    · exact canonical_ite h (canonical_foldl (fun _ _ => canonical_modCore) h)
    · exact canonical_modCore h

/-! ## Lines of a range -/

theorem canonical_writeMem {s : State} {gen part : Nat} {p : Place} {bytes : List Byte} (h : Canonical s) :
    Canonical (writeMem s gen part p bytes) := canonical_touchPlace (canonical_writeAs h)

theorem canonical_l1Settle {s : State} {gen core : Nat} {upd : List (Nat × Nat × Nat)} {drop : List (Nat × Nat)} (h : Canonical s) :
    Canonical (l1Settle s gen core upd drop) := canonical_foldl (fun _ _ => canonical_l1Drop) (canonical_foldl (fun _ _ => canonical_l1Update) h)

theorem canonical_grantGranules {s : State} {u : Nat} {logical : List Nat} (h : Canonical s) : Canonical (grantGranules s u logical) := by
  unfold grantGranules
  split
  · exact h
  · exact canonical_modUnit (canonical_foldl (fun _ _ => canonical_zeroGranule) h)

theorem canonical_setGranule {s : State} {core phys : Nat} {img : Memory} (h : Canonical s) : Canonical (setGranule s core phys img) :=
  canonical_modCore (canonical_zeroGranule h)

/-! ## The save area (R89) -/

theorem canonical_saveBlock {s : State} {gen off tag plain : Nat} (h : Canonical s) : Canonical (saveBlock s gen off tag plain).1 := by
  unfold saveBlock
  split
  · exact h
  · split
    next => exact h
    next t first =>
      have ht : Canonical t := canonical_vwrite h first
      split
      next => exact ht
      next u second => exact canonical_vwrite ht second

theorem canonical_putGranule {s : State} {core unit gen phys : Nat} {img : Memory} (h : Canonical s) :
    Canonical (putGranule s core unit gen phys img) :=
  canonical_ite (canonical_setGranule h) (canonical_ite (canonical_saveBlock (canonical_modCtx h)) h)

theorem canonical_spillOne {core gen u : Nat} {m : Spilling} {l p : Nat} (hm : Canonical m.s) : Canonical (spillOne core gen u m l p).s := by
  unfold spillOne
  extract_lets +onlyGivenNames img
  dsimp -zeta only
  extract_lets +onlyGivenNames s2
  have hs2 : Canonical s2 := by
    dsimp only [s2]
    split
    · exact canonical_modCtx (canonical_saveBlock hm)
    · exact canonical_saveBlock hm
  exact canonical_zeroGranule hs2

theorem canonical_spillGranules {m : Spilling} {core gen : Nat} (hm : Canonical m.s) : Canonical (spillGranules m core gen).s := by
  unfold spillGranules
  refine canonical_foldl_spilling ?_ hm
  intro a _ h
  dsimp -zeta only
  split
  · exact canonical_modUnit (canonical_foldl_spilling (fun _ _ => canonical_spillOne) h)
  · exact h

theorem canonical_reloadOne {core gen u : Nat} {m : Spilling} {l : Nat} (hm : Canonical m.s) : Canonical (reloadOne core gen u m l).s := by
  unfold reloadOne
  split
  · exact hm
  · exact canonical_modUnit (canonical_modCtx (canonical_setGranule hm))

theorem canonical_reloadGranules {m : Spilling} {core gen : Nat} (hm : Canonical m.s) : Canonical (reloadGranules m core gen).s := by
  unfold reloadGranules
  refine canonical_foldl_spilling ?_ hm
  intro a _ h
  dsimp -zeta only
  split
  · exact canonical_foldl_spilling (fun _ _ => canonical_reloadOne) h
  · exact h

theorem canonical_savePlanes {s : State} {core gen u : Nat} {a h : Plane} (hs : Canonical s) : Canonical (savePlanes s core gen u a h).1 := by
  unfold savePlanes
  refine canonical_foldl_fst ?_ hs
  intro a1 _ h1
  dsimp -zeta only
  exact canonical_saveBlock h1

theorem canonical_modPlanes {s : State} {core unit gen : Nat} {f : Plane × Plane → Plane × Plane} (h : Canonical s) :
    Canonical (modPlanes s core unit gen f) := by
  unfold modPlanes
  split
  · exact canonical_savePlanes (canonical_modCtx h)
  · exact canonical_modCore h

theorem canonical_spillPlanes {m : Spilling} {core gen u : Nat} (hm : Canonical m.s) : Canonical (spillPlanes m core gen u).s := by
  unfold spillPlanes
  extract_lets +onlyGivenNames k
  dsimp -zeta only
  extract_lets +onlyGivenNames s2
  have hs2 : Canonical s2 := by
    dsimp only [s2]
    split
    · exact canonical_modCtx (canonical_savePlanes hm)
    · exact canonical_savePlanes hm
  exact hs2

theorem canonical_setPlanes {s : State} {core : Nat} {a h : Plane} {lease : Option Nat} (hs : Canonical s) :
    Canonical (setPlanes s core a h lease) := canonical_modCore hs

theorem canonical_reloadPlanes {m : Spilling} {core gen : Nat} (hm : Canonical m.s) : Canonical (reloadPlanes m core gen).s := by
  unfold reloadPlanes
  split
  · exact hm
  · extract_lets +onlyGivenNames bad s1
    have hs1 : Canonical s1 := canonical_modCtx hm
    clear_value bad
    split
    · exact canonical_setPlanes hs1
    · exact hs1

theorem canonical_haltForImages {core : Nat} {s : State} {e : Nat × Nat × Nat} (h : Canonical s) : Canonical (haltForImages core s e) := by
  unfold haltForImages
  refine canonical_foldl ?_ h
  intro a _ h1
  exact canonical_haltLaunch h1

theorem canonical_firstUse {s : State} {core gen : Nat} (h : Canonical s) : Canonical (firstUse s core gen).1 := by
  unfold firstUse
  extract_lets +onlyGivenNames k m0 m1 lease m2 others m3 m4
  have hm1 : Canonical m1.s := by
    dsimp only [m1]
    split
    · split
      · split
        · exact canonical_spillPlanes (canonical_spillGranules h)
        · exact canonical_spillGranules h
      · exact canonical_spillGranules h
    · exact h
  have hm2 : Canonical m2.s := canonical_setPlanes hm1
  have hm3 : Canonical m3.s := by
    dsimp only [m3]
    split
    · exact hm2
    · exact canonical_foldl_spilling (fun _ _ => canonical_spillGranules) hm2
  exact canonical_foldl (fun _ _ => canonical_haltForImages) (canonical_reloadPlanes (canonical_reloadGranules hm3))

theorem canonical_beginFirstUse {s : State} {core unit gen : Nat} (h : Canonical s) : Canonical (beginFirstUse s core unit gen) :=
  canonical_schedule (canonical_modCore (canonical_firstUse h))

theorem canonical_endFirstUse {s : State} {core : Nat} (h : Canonical s) : Canonical (endFirstUse s core) := by
  unfold endFirstUse
  split
  · exact canonical_ite (canonical_modCore h) h
  · exact h

theorem canonical_execFirstUseTrapReturn {s : State} (h : Canonical s) : Answers (execFirstUseTrapReturn s) := by
  unfold execFirstUseTrapReturn
  split
  · exact answers_next (canonical_endFirstUse h)
  · exact answers_next h

/-! ## Writing results -/

theorem canonical_progress {s : State} {v : View} (h : Canonical s) : Canonical (progress s v) := by
  unfold progress
  split
  · exact canonical_modWarp h
  · exact h

theorem canonical_writeX {s : State} {v : View} {lat : Nat} {items : List (Nat × Nat × Word)} (h : Canonical s) :
    Canonical (writeX s v lat items) := canonical_pendWrites (canonical_ite (canonical_progress h) h)

theorem canonical_writeLanes {s : State} {v : View} {lat d : Nat} {f : Nat → Word} (h : Canonical s) : Canonical (writeLanes s v lat d f) :=
  canonical_writeX h

theorem canonical_writeP {s : State} {v : View} {lat p : Nat} {f : Nat → Bool} (h : Canonical s) : Canonical (writeP s v lat p f) :=
  canonical_pendWrites h

theorem canonical_writeFlags {s : State} {v : View} {lat : Nat} {f : Nat → BitVec 8} (h : Canonical s) : Canonical (writeFlags s v lat f) :=
  canonical_pendWrites h

theorem canonical_writeFloat {s : State} {v : View} {lat d : Nat} {f : Nat → Flagged Nat} (h : Canonical s) :
    Canonical (writeFloat s v lat d f) := canonical_pendWrites (canonical_writeX h)

/-! ## Compaction (R101, R102) -/

theorem canonical_loseEvent {s : State} {fn : Nat} (h : Canonical s) : Canonical (loseEvent s fn) := canonical_modFn h

theorem canonical_postEvent {s : State} {fn kind source data : Nat} (h : Canonical s) : Canonical (postEvent s fn kind source data) := by
  unfold postEvent
  extract_lets +onlyGivenNames f base size
  split
  · exact h
  · split
    · exact canonical_loseEvent h
    · split
      · exact canonical_loseEvent h
      · exact canonical_modFn (canonical_writePlace h)

theorem canonical_postReport {s : State} {fn kind gen launch addr pc : Nat} {body : List Byte} (h : Canonical s) :
    Canonical (postReport s fn kind gen launch addr pc body) := by
  unfold postReport
  dsimp -zeta only
  extract_lets +onlyGivenNames head s2
  have hs2 : Canonical s2 := canonical_freshNat h
  exact canonical_postEvent (canonical_ite hs2 (canonical_postEvent hs2))

theorem canonical_setEventFlag {s : State} {part flag : Nat} {v : Bool} (h : Canonical s) : Canonical (setEventFlag s part flag v) := by
  unfold setEventFlag
  extract_lets +onlyGivenNames fl
  split
  · exact h
  · exact canonical_postEvent (canonical_modFe h)

theorem canonical_replayMismatch {s : State} {l : Nat} (h : Canonical s) : Canonical (replayMismatch s l) := by
  unfold replayMismatch
  split
  · exact h
  · exact canonical_haltLaunch h

theorem canonical_appendEntry {s : State} {l : Nat} {x : Launch} {entry : Nat} (h : Canonical s) : Canonical (appendEntry s l x entry) := by
  unfold appendEntry
  extract_lets full e plain base s1
  refine canonical_modLaunch (?_ : Canonical s1)
  dsimp only [s1]
  split
  next t ok => exact canonical_vwrite h ok
  next => exact h

theorem canonical_capture {s : State} {l kind where_ aux data : Nat} (h : Canonical s) : Canonical (capture s l kind where_ aux data) := by
  unfold capture
  split
  · exact h
  · split
    · exact canonical_ite (canonical_modLaunch h) (canonical_replayMismatch h)
    · exact canonical_ite h (canonical_appendEntry h)

theorem canonical_setClock {s : State} {vec comp n : Nat} (h : Canonical s) : Canonical (setClock s vec comp n) := h

theorem canonical_joinClock {s : State} {dst src : Nat} (h : Canonical s) : Canonical (joinClock s dst src) := by
  unfold joinClock
  refine canonical_foldl ?_ h
  intro a _ h1
  exact canonical_ite (canonical_setClock h1) h1

theorem canonical_joinObject {s : State} {dst src : Nat} (h : Canonical s) : Canonical (joinObject s dst src) := canonical_joinClock h

theorem canonical_release {s : State} {u agent ob : Nat} {all : Bool} (h : Canonical s) : Canonical (release s u agent ob all) := by
  unfold release
  split
  · exact h
  · dsimp -zeta only
    extract_lets +onlyGivenNames s1 s2 s3 s4
    have hs2 : Canonical s2 := canonical_setClock (canonical_joinClock h)
    have hs4 : Canonical s4 := canonical_setClock (canonical_ite (canonical_setClock (canonical_joinClock hs2)) hs2)
    exact canonical_ite (canonical_setClock hs4) hs4

theorem canonical_acquire {s : State} {u agent ob : Nat} {all : Bool} (h : Canonical s) : Canonical (acquire s u agent ob all) := by
  unfold acquire
  split
  · exact h
  · extract_lets +onlyGivenNames s1
    have hs1 : Canonical s1 := canonical_joinClock h
    exact canonical_ite (canonical_joinClock hs1) hs1

theorem canonical_releaseLanes {s : State} {v : View} {ob : Nat} {all : Bool} (h : Canonical s) : Canonical (releaseLanes s v ob all) :=
  canonical_foldl (fun _ _ => canonical_release) h

theorem canonical_acquireLanes {s : State} {v : View} {ob : Nat} {all : Bool} (h : Canonical s) : Canonical (acquireLanes s v ob all) :=
  canonical_foldl (fun _ _ => canonical_acquire) h

/-! ## Releases that words and fences carry (R133) -/

theorem canonical_dropRels {s : State} {ob : Nat} (h : Canonical s) : Canonical (dropRels s ob) := h

theorem canonical_carryRels {s : State} {dst src : Nat} (h : Canonical s) : Canonical (carryRels s dst src) := h

theorem canonical_releaseAt {s : State} {u agent at_ scope : Nat} {by_ : Party} {all : Bool} (h : Canonical s) :
    Canonical (releaseAt s u agent at_ scope by_ all) := by
  unfold releaseAt
  split
  · exact h
  · exact canonical_release (canonical_freshNat h)

theorem canonical_acquireAt {s : State} {u agent at_ : Nat} {ok : Machine.Rel → Bool} {all : Bool} (h : Canonical s) :
    Canonical (acquireAt s u agent at_ ok all) := canonical_ite h (canonical_foldl (fun _ _ => canonical_acquire) h)

theorem canonical_clockWrite {s : State} {u agent key n : Nat} (h : Canonical s) : Canonical (clockWrite s u agent key n) :=
  canonical_ite h (canonical_foldl (fun _ _ h1 => canonical_carryRels (canonical_dropRels h1)) h)

theorem canonical_clockRead {s : State} {u agent key n : Nat} (h : Canonical s) : Canonical (clockRead s u agent key n) :=
  canonical_ite h (canonical_foldl (fun _ _ => canonical_carryRels) h)

/-! ## Race reports (R427) -/

theorem canonical_reportRace {s : State} {l : Nat} {a b : RaceAcc} (h : Canonical s) : Canonical (reportRace s l a b) := by
  unfold reportRace
  split
  · exact h
  · extract_lets +onlyGivenNames s1
    have hs1 : Canonical s1 := canonical_modLaunch h
    exact canonical_ite hs1 (canonical_postReport hs1)

theorem canonical_raceCheck {s : State} {u agent pc_ lid lane kind addr key len : Nat} {un : Bool} {mates : List Nat} (h : Canonical s) :
    Canonical (raceCheck s u agent pc_ lid lane kind addr key len un mates) := by
  unfold raceCheck
  split
  · exact h
  · exact canonical_foldl (fun _ _ ha => canonical_reportRace ha) h

/-! ## Handles (R222, R341, R454) -/

theorem canonical_modCq {s : State} {fn q : Nat} {f : Cq → Cq} (h : Canonical s) : Canonical (modCq s fn q f) := canonical_modFn h

theorem canonical_modInst {s : State} {fn : Nat} {h : Word} {f : Inst → Inst} (hs : Canonical s) : Canonical (modInst s fn h f) := hs

theorem canonical_rememberEnd {s : State} {fn : Nat} {h : Word} {status : Nat} (hs : Canonical s) : Canonical (rememberEnd s fn h status) := hs

theorem canonical_memberDone {fuel : Nat} {s : State} {fn : Nat} {h : Word} {status : Nat} (hs : Canonical s) :
    Canonical (memberDone fuel s fn h status) := by
  induction fuel generalizing s h status with
  | zero => exact hs
  | succ k ih =>
    unfold memberDone
    extract_lets s1
    have hs1 : Canonical s1 := canonical_modInst hs
    split
    · exact hs1
    · split
      · extract_lets st s2 s3
        have hs2 : Canonical s2 := canonical_rememberEnd hs1
        have hs3 : Canonical s3 := by
          dsimp only [s3]
          split
          · exact canonical_schedule hs2
          · exact hs2
        split
        · exact hs3
        · exact ih (canonical_joinObject hs3)
      · exact hs1

theorem canonical_closeInst {s : State} {fn : Nat} {h : Word} (hs : Canonical s) : Canonical (closeInst s fn h) :=
  canonical_memberDone (canonical_modInst hs)

theorem canonical_launchDone {s : State} {l status : Nat} (h : Canonical s) : Canonical (launchDone s l status) := by
  unfold launchDone
  split
  · exact h
  · split
    · exact h
    · extract_lets +onlyGivenNames s1 s2 s3 s4 s5 s6
      have hs3 : Canonical s3 := canonical_modFe (canonical_modLaunch (canonical_capture h))
      have hs4 : Canonical s4 := by
        dsimp only [s4]
        split
        · exact canonical_schedule hs3
        · exact hs3
      have hs5 : Canonical s5 := canonical_schedule hs4
      exact canonical_memberDone (canonical_joinObject (canonical_rememberEnd (canonical_ite hs5 (canonical_postReport hs5))))

theorem canonical_unfuse {s : State} {cl : Nat} (h : Canonical s) : Canonical (unfuse s cl) :=
  canonical_ite h (canonical_foldl (fun _ _ h1 => canonical_ite (canonical_modCore h1) h1) h)

theorem canonical_unitDone {s : State} {u : Nat} (h : Canonical s) : Canonical (unitDone s u) := by
  unfold unitDone
  split
  · exact h
  · extract_lets +onlyGivenNames s1 s2 gen s3 part s4 s5
    have hs3 : Canonical s3 := canonical_modCtx (canonical_unfuse (canonical_modCore h))
    have hs4 : Canonical s4 := by
      dsimp only [s4]
      split
      · exact canonical_modFe hs3
      · exact hs3
    have hs5 : Canonical s5 := canonical_modLaunch hs4
    split
    · exact hs5
    · extract_lets +onlyGivenNames s6
      have hs6 : Canonical s6 := canonical_joinObject hs5
      exact canonical_ite (canonical_launchDone hs6) hs6

theorem canonical_threadsDone {s : State} {u n : Nat} (h : Canonical s) : Canonical (threadsDone s u n) := by
  unfold threadsDone
  extract_lets +onlyGivenNames s1 s2
  have hs2 : Canonical s2 := canonical_modLaunch (canonical_modUnit h)
  split
  · exact canonical_ite (canonical_unitDone hs2) hs2
  · exact hs2

/-! ## Records and rings (R60, R67, R68, R340) -/

theorem canonical_pushRecord {s : State} {part h image : Nat} {p : Push} (hs : Canonical s) : Canonical (pushRecord s part h image p).1 := by
  unfold pushRecord
  dsimp -zeta only
  extract_lets +onlyGivenNames fe idx addr hset img s2 s3 x
  have hs3 : Canonical s3 := canonical_modFe (canonical_vput (canonical_freshNat hs))
  clear_value s3
  exact canonical_of_mem (s := s3) rfl hs3

/-! ## Cancellation (R56, R383) -/

theorem canonical_dropEjected {s : State} {u : Nat} (h : Canonical s) : Canonical (dropEjected s u).1 := by
  unfold dropEjected
  refine canonical_foldl_fst ?_ h
  intro a _ h1
  dsimp -zeta only
  extract_lets +onlyGivenNames mine
  split
  · exact h1
  · exact canonical_foldl (fun _ _ => canonical_modWarp) (canonical_modPool h1)

theorem canonical_dropBinned {s : State} {u core : Nat} (h : Canonical s) : Canonical (dropBinned s u core).1 := canonical_modCore h

theorem canonical_dropElastic {s : State} {u core : Nat} (h : Canonical s) : Canonical (dropElastic s u core) := by
  unfold dropElastic
  refine canonical_foldl ?_ (canonical_modCore h)
  intro a _ h1
  split
  · extract_lets +onlyGivenNames b
    have hb : Canonical b := h1
    split
    · exact canonical_slotSub hb
    · exact hb
  · exact h1

theorem canonical_cancelUnit {s : State} {u : Nat} (h : Canonical s) : Canonical (cancelUnit s u) := by
  unfold cancelUnit
  dsimp -zeta only
  split
  · exact h
  · split
    · exact h
    · extract_lets +onlyGivenNames s1 s4 s5
      have hs1 : Canonical s1 := canonical_modUnit h
      have hs4 : Canonical s4 := canonical_modCore (canonical_dropElastic (canonical_dropBinned (canonical_dropEjected hs1)))
      have hs5 : Canonical s5 := hs4
      exact canonical_threadsDone (canonical_modUnit hs5)

theorem canonical_cancelLaunch {s : State} {l : Nat} (h : Canonical s) : Canonical (cancelLaunch s l) := by
  unfold cancelLaunch
  split
  · exact h
  · split
    · exact h
    · extract_lets +onlyGivenNames placed s1
      have hs1 : Canonical s1 := canonical_modLaunch h
      exact canonical_ite (canonical_launchDone hs1) (canonical_foldl (fun _ _ => canonical_cancelUnit) hs1)

theorem canonical_cancelHandle {s : State} {fn : Nat} {h : Word} (hs : Canonical s) : Canonical (cancelHandle s fn h) :=
  canonical_foldl (fun _ _ => canonical_cancelLaunch) hs

/-! ## Lanes of a warp -/

theorem canonical_wakeLanes {s : State} {c w : Nat} {ls : List Nat} {pc : Pc} {since : Nat} (h : Canonical s) :
    Canonical (wakeLanes s c w ls pc since) := canonical_startRun (canonical_modWarp h)

theorem canonical_runLanes {s : State} {c w : Nat} {ls : List Nat} {pc : Pc} {since : Nat} (h : Canonical s) :
    Canonical (runLanes s c w ls pc since) := canonical_wakeLanes (canonical_modWarp h)

/-! ## Filing (R48, R205) -/

theorem canonical_placeStaged {s : State} {core : Nat} {t : Staged} (h : Canonical s) : Canonical (placeStaged s core t) := by
  unfold placeStaged
  extract_lets +onlyGivenNames k
  split
  · exact canonical_modCore h
  · split
    · exact canonical_modCore h
    · exact canonical_modCore (canonical_freshNat h)

theorem canonical_settle {s : State} {core : Nat} (h : Canonical s) : Canonical (settle s core) :=
  canonical_ite h (canonical_foldl (fun _ _ => canonical_placeStaged) (canonical_modCore h))

theorem canonical_stageAll {s : State} {core : Nat} {l : List Staged} (h : Canonical s) : Canonical (stageAll s core l) :=
  canonical_settle (canonical_modCore h)

theorem canonical_fileLanes {s : State} {c w : Nat} {items : List (Nat × Pc × Nat)} (h : Canonical s) : Canonical (fileLanes s c w items) := by
  unfold fileLanes
  split
  · exact h
  · exact canonical_stageAll (canonical_modWarp h)

/-! ## Retirement (R43, R210) -/

theorem canonical_retireWarp {s : State} {c w : Nat} (h : Canonical s) : Canonical (retireWarp s c w) := by
  unfold retireWarp
  split
  · exact h
  · extract_lets +onlyGivenNames s1
    have hs1 : Canonical s1 := canonical_modCore h
    exact canonical_ite hs1 (canonical_modUnit hs1)

theorem canonical_releaseKept {s : State} {unit core serial : Nat} (h : Canonical s) : Canonical (releaseKept s unit core serial) :=
  canonical_ite (canonical_modUnit h) h

/-! ## Rejoin (R39-R42) -/

theorem canonical_beginRejoin {s : State} {c w tag ready : Nat} (h : Canonical s) : Canonical (beginRejoin s c w tag ready) := canonical_modWarp h

theorem canonical_leaveSlot {s : State} {cl k : Nat} (h : Canonical s) : Canonical (leaveSlot s cl k) := by
  unfold leaveSlot
  split
  · exact h
  · exact canonical_releaseKept (canonical_modWarp (canonical_modPool h))

theorem canonical_fileEjected {s : State} {cl k : Nat} {pc : Pc} {live : Nat} (h : Canonical s) : Canonical (fileEjected s cl k pc live) := by
  unfold fileEjected
  split
  · exact h
  · exact canonical_stageAll (canonical_leaveSlot h)

theorem canonical_lateFile {s : State} {cl k : Nat} (h : Canonical s) : Canonical (lateFile s cl k) := by
  unfold lateFile
  split
  · exact h
  · exact canonical_fileEjected h

theorem canonical_finishRejoin {s : State} {c w tag ready : Nat} (h : Canonical s) : Canonical (finishRejoin s c w tag ready) := by
  unfold finishRejoin
  split
  · exact h
  · extract_lets +onlyGivenNames left s1 s2
    have hs2 : Canonical s2 := canonical_foldl (fun _ _ => canonical_lateFile) (canonical_modWarp h)
    split
    · exact canonical_acquireLanes hs2
    · exact hs2

theorem canonical_pumpRejoin {s : State} {c w : Nat} (h : Canonical s) : Canonical (pumpRejoin s c w) := by
  unfold pumpRejoin
  split
  · exact h
  · split
    · split
      · exact h
      · extract_lets +onlyGivenNames q
        clear_value q
        split
        · exact canonical_schedule (canonical_setStatus (canonical_release (canonical_modRun (canonical_modPool h))))
        · exact canonical_ite (canonical_finishRejoin h) h
    · exact h

theorem canonical_arriveRejoin {s : State} {cl k : Nat} (h : Canonical s) : Canonical (arriveRejoin s cl k) := by
  unfold arriveRejoin
  split
  · exact h
  · split
    · exact canonical_lateFile h
    · split
      · exact canonical_lateFile h
      · extract_lets +onlyGivenNames s1
        have hs1 : Canonical s1 := canonical_setStatus h
        split
        · exact canonical_ite hs1 (canonical_ite (canonical_lateFile h) (canonical_pumpRejoin hs1))
        · exact hs1

theorem canonical_landBack {s : State} {c w : Nat} (h : Canonical s) : Canonical (landBack s c w) := by
  unfold landBack
  split
  · exact h
  · split
    · exact canonical_modWarp (canonical_foldl (fun _ _ h1 => canonical_ite (canonical_modCore h1) h1) h)
    · exact h

theorem canonical_endWriteBack {s : State} {c w : Nat} (h : Canonical s) : Canonical (endWriteBack s c w) := by
  unfold endWriteBack
  split
  · exact h
  · split
    · split
      · exact h
      · exact canonical_ite (canonical_setStatus (canonical_landBack h)) (canonical_pumpRejoin (canonical_landBack h))
    · exact h

/-! ## Split entries (R44, R45, R219) -/

theorem canonical_nextPath {n : Nat} {s : State} {c w since : Nat} (h : Canonical s) : Canonical (nextPath n s c w since) := by
  induction n generalizing s with
  | zero => exact h
  | succ n ih =>
    unfold nextPath
    split
    · exact h
    · split
      · split
        · exact canonical_retireWarp h
        · exact canonical_setStatus h
      · extract_lets ds
        split
        · exact canonical_setStatus (canonical_modWarp h)
        · split
          · exact canonical_runLanes (canonical_modWarp h)
          · split
            · exact ih (canonical_modWarp h)
            · split
              · exact canonical_pumpRejoin (canonical_beginRejoin (canonical_runLanes (canonical_modWarp h)))
              · exact canonical_runLanes (canonical_modWarp h)

theorem canonical_pathEmpty {s : State} {c w since : Nat} (h : Canonical s) : Canonical (pathEmpty s c w since) := canonical_nextPath h

theorem canonical_swapPaths {s : State} {c w : Nat} {pc : Pc} {hold : Option (Nat × Nat)} {since : Nat} (h : Canonical s) :
    Canonical (swapPaths s c w pc hold since) := by
  unfold swapPaths
  split
  · exact h
  · split
    · exact h
    · exact canonical_wakeLanes (canonical_modWarp h)

theorem canonical_forcedReform {s : State} {c w : Nat} {tgts : List (Nat × Pc)} (h : Canonical s) : Canonical (forcedReform s c w tgts) := by
  unfold forcedReform
  split
  · exact h
  · exact canonical_retireWarp (canonical_modWarp (canonical_fileLanes h))

/-! ## Barriers (R217-R220) -/

theorem canonical_parkUntil {s : State} {g : Gid} {since : Nat} (h : Canonical s) : Canonical (parkUntil s g since) := canonical_modRun h

theorem canonical_letGo {hit : Nat → Nat → Bool} {since : Nat} {s : State} {g : Gid} (h : Canonical s) : Canonical (letGo hit since s g) := by
  unfold letGo
  split
  · split
    · exact canonical_ite (canonical_startRun h) h
    · exact canonical_ite (canonical_parkUntil h) h
    · exact h
  · split
    · exact h
    · extract_lets +onlyGivenNames off y s1
      have hs1 : Canonical s1 := canonical_ite h (canonical_setWarp h)
      split
      · exact canonical_ite (canonical_startRun hs1) (canonical_ite (canonical_swapPaths hs1) hs1)
      · exact canonical_ite (canonical_parkUntil hs1) hs1
      · exact canonical_ite (canonical_nextPath hs1) hs1
      · exact hs1

theorem canonical_acquirePhase {hit : Nat → Nat → Bool} {ob : Nat} {s : State} {u : Nat} (h : Canonical s) :
    Canonical (acquirePhase hit ob s u) := by
  unfold acquirePhase
  split
  · exact h
  · refine canonical_foldl ?_ h
    intro a _ h1
    split
    · exact h1
    · exact canonical_foldl (fun _ _ => canonical_acquire) h1

theorem canonical_completeBar {s : State} {u b : Nat} (h : Canonical s) : Canonical (completeBar s u b) := by
  unfold completeBar
  split
  · exact h
  · split
    · exact h
    · exact canonical_foldl (fun _ _ => canonical_letGo) (canonical_acquirePhase (canonical_modUnit h))

theorem canonical_completeGbar {s : State} {l : Nat} (h : Canonical s) : Canonical (completeGbar s l) := by
  unfold completeGbar
  split
  · exact h
  · refine canonical_foldl ?_ (canonical_modLaunch h)
    intro a _ h1
    exact canonical_foldl (fun _ _ => canonical_letGo) (canonical_acquirePhase (canonical_l1Acquire h1))

theorem canonical_recount {s : State} {u l : Nat} (h : Canonical s) : Canonical (recount s u l) := by
  unfold recount
  extract_lets +onlyGivenNames s1
  have hs1 : Canonical s1 := by
    dsimp only [s1]
    split
    · exact h
    · exact canonical_foldl (fun _ _ h1 => canonical_ite (canonical_completeBar h1) (canonical_modUnit h1)) h
  split
  · exact hs1
  · exact canonical_ite (canonical_completeGbar hs1) hs1

/-! ## Exit (R213) -/

theorem canonical_endThreads {s : State} {u n : Nat} (h : Canonical s) : Canonical (endThreads s u n) := canonical_recount (canonical_threadsDone h)

theorem canonical_releaseEnd {s : State} {u lthr : Nat} (h : Canonical s) : Canonical (releaseEnd s u lthr) := canonical_release h

theorem canonical_exitLanes {s : State} {c w : Nat} {ls : List Nat} (h : Canonical s) : Canonical (exitLanes s c w ls) := by
  unfold exitLanes
  split
  · exact h
  · exact canonical_endThreads (canonical_pathEmpty (canonical_modWarp (canonical_foldl (fun _ _ => canonical_releaseEnd) h)))

theorem canonical_exitEjected {s : State} {cl k : Nat} (h : Canonical s) : Canonical (exitEjected s cl k) := by
  unfold exitEjected
  split
  · exact h
  · exact canonical_endThreads (canonical_pumpRejoin (canonical_leaveSlot (canonical_releaseEnd h)))

/-! ## Draws (R49, R50, R386) -/

theorem canonical_clearBlock {s : State} {core page bsize n : Nat} (h : Canonical s) : Canonical (clearBlock s core page bsize n) :=
  canonical_modCore h

theorem canonical_drawBin {s : State} {core bin reason : Nat} (h : Canonical s) : Canonical (drawBin s core bin reason) := by
  unfold drawBin
  dsimp -zeta only
  split
  · exact h
  · split
    · exact h
    · extract_lets +onlyGivenNames -merge -useContext -underBinder bsize n s0 s2 s3 x _ y
      have hs2 : Canonical s2 := canonical_clearBlock (canonical_modCore (canonical_freshNat (canonical_capture h)))
      exact canonical_settle (canonical_setWarp (canonical_foldl (fun _ _ => canonical_modCore) hs2))

/-! ## Fault entries (R419, R420) -/

theorem canonical_freeQuad {s : State} {g : Gid} (h : Canonical s) : Canonical (freeQuad s g) := by
  unfold freeQuad
  split
  · exact canonical_modCore h
  · exact h

theorem canonical_faultArrival {i : Instr} {n : Nat} {s : State} {v : View} (h : Canonical s) : CanonicalArrival (faultArrival i n s v) := by
  induction n generalizing s v with
  | zero => exact h
  | succ n ih =>
    unfold faultArrival
    split
    · exact h
    · split
      · exact h
      · split
        · exact h
        · extract_lets +onlyGivenNames free other joined
          have hjoined : ∀ ls, CanonicalArrival (joined ls) := by
            intro ls
            dsimp -zeta only [joined]
            extract_lets s1
            split
            · exact ih (canonical_modWarp h)
            · exact canonical_modWarp h
          split
          · exact h
          · split
            · exact hjoined _
            · split
              · exact h
              · split
                · exact canonical_forcedReform h
                · exact canonical_pathEmpty (canonical_modWarp (canonical_freeQuad h))

theorem canonical_delayTo {s : State} {v : View} {at_ : Nat} (h : Canonical s) : Canonical (delayTo s v at_) := canonical_modRun h

theorem canonical_useIssuer {s : State} {v : View} {idle : Nat} {parks : Bool} (h : Canonical s) : Canonical (useIssuer s v idle parks) := by
  unfold useIssuer
  split
  · exact canonical_modCore h
  · exact canonical_modPool h

theorem canonical_advance {i : Instr} {s : State} {v : View} {act : ParkAct} {idle : Nat} (h : Canonical s) :
    Canonical (advance i s v act idle) := canonical_useIssuer (canonical_modRun (canonical_setPc h))

theorem canonical_trapNow {s : State} {v : View} {t : Trap} (h : Canonical s) : Canonical (trapNow s v t) :=
  canonical_useIssuer (canonical_raiseTrap h)

theorem canonical_issueAs {i : Instr} {s : State} {v : View} {own : State → View → Option Trap} {pre : State → View → Option Did}
    {effect : State → View → Did} (h : Canonical s) (hpre : ∀ a u, Canonical a → CanonicalPre (pre a u))
    (heffect : ∀ a u, Canonical a → CanonicalDid (effect a u)) : Canonical (issueAs i s v own pre effect) := by
  unfold issueAs
  extract_lets +onlyGivenNames close
  have hclose : ∀ d, CanonicalDid d → Canonical (close d) := by
    intro d hd
    cases d with
    | done s1 act idle => exact canonical_advance hd
    | trap t => exact canonical_trapNow h
    | wait s1 at_ => exact canonical_delayTo hd
    | left s1 => exact hd
  split
  · exact canonical_trapNow h
  · split
    · exact canonical_trapNow h
    · extract_lets gen
      split
      · exact canonical_delayTo h
      · split
        · exact canonical_delayTo (canonical_beginFirstUse h)
        · split
          · exact canonical_delayTo h
          · split
            next d decided => exact hclose d (hpre s v h d decided)
            next =>
              split
              · exact canonical_trapNow h
              · exact hclose _ (heffect s v h)

theorem canonical_issueAt {i : Instr} {s : State} {v : View} {own : State → View → Option Trap} {pre : State → View → Option Did}
    {effect : State → View → Did} (h : Canonical s) (hpre : ∀ a u, Canonical a → CanonicalPre (pre a u))
    (heffect : ∀ a u, Canonical a → CanonicalDid (effect a u)) : Canonical (issueAt i s v own pre effect) := by
  unfold issueAt
  split
  next s1 stops => exact canonicalArrival_error (canonical_faultArrival h) stops
  next s1 v1 goes => exact canonical_issueAs (canonicalArrival_ok (canonical_faultArrival h) goes) hpre heffect

theorem canonical_issuePre {i : Instr} {s : State} {own : State → View → Option Trap} {pre : State → View → Option Did}
    {effect : State → View → Did} (h : Canonical s) (hpre : ∀ a u, Canonical a → CanonicalPre (pre a u))
    (heffect : ∀ a u, Canonical a → CanonicalDid (effect a u)) : Answers (issuePre i s own pre effect) := by
  unfold issuePre
  split
  · exact answers_fault
  · split
    · exact answers_fault
    · exact answers_next (canonical_issueAt h (fun _ _ => hpre _ _) (fun _ _ => heffect _ _))

theorem canonical_issue {i : Instr} {s : State} {own : State → View → Option Trap} {effect : State → View → Did} (h : Canonical s)
    (heffect : ∀ a u, Canonical a → CanonicalDid (effect a u)) : Answers (issue i s own effect) :=
  canonical_issuePre h (fun _ _ _ => canonicalPre_none) (fun _ _ => heffect _ _)

/-! ## What a release waits for (R126, R134, R141) -/

theorem canonical_releasePre {s : State} {v : View} (h : Canonical s) : CanonicalPre (releasePre s v) := by
  unfold releasePre
  split
  · exact canonicalPre_some (canonical_wait h)
  · exact canonicalPre_none

theorem canonical_goTo {s : State} {v : View} {lat : Nat} {tgts : List (Nat × Pc)} (h : Canonical s) : CanonicalDid (goTo s v lat tgts) :=
  canonical_done (canonical_modRun h)

/-! ## The spin detector (R51, R384) -/

theorem canonical_modWarpOf {s : State} {v : View} {f : Warp → Warp} (h : Canonical s) : Canonical (modWarpOf s v f) := canonical_modWarp h

theorem canonical_raiseSpin {s : State} {v : View} (h : Canonical s) : CanonicalDid (raiseSpin s v) :=
  canonical_left (canonical_trapNow (canonical_modWarpOf h))

theorem canonical_countBack {s : State} {v : View} (h : Canonical s) : Canonical (countBack s v).1 := by
  unfold countBack
  split
  · exact h
  · exact canonical_modWarpOf h
  · exact canonical_modWarpOf h
  · exact canonical_modWarpOf (canonical_capture h)

theorem canonical_goDemoted {s : State} {v : View} {ls : List Nat} {pc : Pc} {demoted : Bool} {at_ : Nat} (h : Canonical s) :
    CanonicalDid (goDemoted s v ls pc demoted at_) := canonical_done (canonical_modRun h)

theorem canonical_branchAll {s : State} {v : View} {target : Pc} {back : Bool} (h : Canonical s) : CanonicalDid (branchAll s v target back) := by
  unfold branchAll
  split
  · exact canonical_goTo h
  · split
    · exact canonical_raiseSpin h
    · exact canonical_goDemoted (canonical_countBack h)

/-! ## The branch decision (R35) -/

theorem canonical_eject {s : State} {v : View} {tag : Nat} {ls : List Nat} {pc : Pc} (h : Canonical s) : Canonical (eject s v tag ls pc).1 := by
  refine canonical_modWarp (canonical_foldl (fun a lane ha => ?_) (canonical_takeLost h))
  dsimp only
  split
  · exact canonical_schedule (canonical_modPool ha)
  · exact ha

theorem canonical_branchOn {s : State} {v : View} {p : Nat} {sense : Bool} {tag : Nat} {target : Pc} {back : Bool} (h : Canonical s) :
    CanonicalDid (branchOn s v p sense tag target back) := by
  unfold branchOn
  extract_lets +onlyGivenNames next t n l
  split
  · exact canonical_goTo h
  · split
    · exact canonical_goTo h
    · split
      · exact canonical_branchAll h
      · dsimp -zeta only
        split
        · exact canonical_done h
        · extract_lets +onlyGivenNames row3 room forced ejects edge
          split
          · exact canonical_wait h
          · split
            · exact canonical_raiseSpin h
            · extract_lets +onlyGivenNames s0
              have hs0 : Canonical s0 := canonical_ite (canonical_capture h) h
              split
              · refine canonical_goDemoted ?_
                split
                · exact canonical_countBack (canonical_eject hs0)
                · exact canonical_eject hs0
              · split
                · exact canonical_done (canonical_modRun (canonical_modWarp hs0))
                · exact canonicalDid_ite (canonical_wait h) (canonical_done (canonical_modRun hs0))

/-! ## The call stack (R204-R208) -/

theorem canonical_pushReturn {s : State} {v : View} (h : Canonical s) : Canonical (pushReturn s v) := by
  unfold pushReturn
  refine canonical_foldl ?_ h
  intro a _ h1
  exact canonical_modRun h1

theorem canonical_roomFor {s : State} {v : View} {tgts : List (Nat × Pc)} {d : Did} (h : Canonical s) (hd : CanonicalDid d) :
    CanonicalDid (roomFor s v tgts d) := canonicalDid_ite hd (canonical_wait h)

theorem canonical_execCallx {a : BitVec 7} {s : State} (h : Canonical s) : Answers (execCallx a s) := by
  unfold execCallx
  refine canonical_issue h ?_
  intro a1 _ h1
  exact canonical_roomFor h1 (canonical_goTo (canonical_pushReturn h1))

theorem canonical_execBrx {a : BitVec 7} {s : State} (h : Canonical s) : Answers (execBrx a s) := by
  unfold execBrx
  refine canonical_issue h ?_
  intro a1 _ h1
  exact canonical_roomFor h1 (canonical_goTo h1)

theorem canonical_execRet {s : State} (h : Canonical s) : Answers (execRet s) := by
  unfold execRet
  refine canonical_issue h ?_
  intro a _ h1
  exact canonical_roomFor h1 (canonical_goTo (canonical_foldl (fun _ _ => canonical_modRun) h1))

/-! ## Reform, rejoin and ends (R209-R214) -/

theorem canonical_rjnIssued {tag : Nat} {s : State} {v : View} (h : Canonical s) : Canonical (rjnIssued tag s v) := by
  unfold rjnIssued
  dsimp -zeta only
  split
  · exact h
  · split
    · exact h
    · split
      · split
        · split
          · split
            · exact canonical_setStatus (canonical_modWarp h)
            · split
              · exact canonical_pumpRejoin (canonical_beginRejoin (canonical_modWarp h))
              · exact canonical_modWarp h
          · split
            · exact canonical_setStatus h
            · split
              · exact canonical_pumpRejoin (canonical_beginRejoin h)
              · exact h
        · split
          · exact canonical_setStatus h
          · split
            · exact canonical_pumpRejoin (canonical_beginRejoin h)
            · exact h
      · split
        · exact canonical_setStatus h
        · split
          · exact canonical_pumpRejoin (canonical_beginRejoin h)
          · exact h

theorem canonical_mapNext {f : State → State} {x : Host.Outcome State Fault Refusal} (hf : ∀ a, Canonical a → Canonical (f a))
    (hx : Answers x) : Answers (mapNext f x) := by
  cases x with
  | next s => exact hf s hx
  | fault e => exact trivial
  | refused r => exact trivial

theorem canonical_execRjn {t : BitVec 4} {s : State} (h : Canonical s) : Answers (execRjn t s) := by
  unfold execRjn
  refine canonical_mapNext ?_ ?_
  · intro a h1
    split
    · split
      · split
        · exact canonical_rjnIssued (canonical_setStatus h1)
        · exact h1
      · exact h1
    · exact h1
  · refine canonical_issuePre h ?_ (fun _ _ => canonical_done)
    intro a _ h1
    split
    · exact canonical_releasePre h1
    · exact canonicalPre_none

/-! ## Traps (R229-R231) -/

theorem canonical_execTret {s : State} (h : Canonical s) : Answers (execTret s) := by
  unfold execTret
  refine canonical_issue h ?_
  intro a _ h1
  exact canonical_roomFor h1 (canonical_done (canonical_modRun (canonical_leaveHandler h1)))

/-! ## Wait conditions (Table 8.2) -/

theorem canonical_sampleWait {s : State} {g : Gid} (h : Canonical s) : Canonical (sampleWait s g) := by
  unfold sampleWait
  split
  · split
    · exact canonical_ite (canonical_setStatus h) h
    · exact h
  · exact h

theorem canonical_observeSlots {s : State} {v : View} {covers : Nat → Bool} (h : Canonical s) : Canonical (observeSlots s v covers) := by
  unfold observeSlots
  dsimp -zeta only
  split
  · exact h
  · refine canonical_foldl ?_ (canonical_modRun h)
    intro a _ h1
    extract_lets +onlyGivenNames a1
    have ha1 : Canonical a1 := canonical_foldl (fun _ _ h2 => canonical_ite (canonical_acquire h2) h2) h1
    exact canonical_ite ha1 (canonical_l1Acquire ha1)

theorem canonical_waitAcquires {s : State} {v : View} {all : Bool} {conds : List Cond} (h : Canonical s) :
    Canonical (waitAcquires s v all conds) := by
  unfold waitAcquires
  refine canonical_foldl ?_ h
  intro a _ h1
  split
  · exact h1
  · split
    · exact canonical_acquireLanes h1
    · split
      · exact canonical_acquireLanes h1
      · exact h1
    · exact canonical_observeSlots h1
    · extract_lets +onlyGivenNames b
      have hb : Canonical b := canonical_acquireLanes h1
      exact canonical_ite hb (canonical_l1Acquire hb)
    · exact h1

theorem canonical_takeDeferred {s : State} {v : View} {d : Deferred} {ret : Pc} {rets : List (Nat × Pc)} (h : Canonical s) :
    Canonical (takeDeferred s v d ret rets) := canonical_raiseTrap (canonical_modRun h)

theorem canonical_endWait {s : State} {g : Gid} {timedOut : Bool} (h : Canonical s) : Canonical (endWait s g timedOut) := by
  unfold endWait
  split
  · exact h
  · split
    · extract_lets +onlyGivenNames met tmo s1 s2 seen s3
      have hs3 : Canonical s3 := canonical_startRun (canonical_waitAcquires (canonical_modUnit h))
      split
      · exact canonical_takeDeferred hs3
      · exact hs3
    · exact h

/-! ## The end of a park (R176) -/

theorem canonical_transfer {s : State} {v : View} {tgts : List (Nat × Pc)} {at_ : Nat} (h : Canonical s) : Canonical (transfer s v tgts at_) := by
  unfold transfer
  split
  · exact canonical_startRun h
  · extract_lets +onlyGivenNames s1
    have hs1 : Canonical s1 := canonical_startRun (canonical_setPc h)
    split
    · exact canonical_fileLanes hs1
    · exact hs1

theorem canonical_pushSplit {s : State} {v : View} {taken : BitVec 32} {target : Pc} {tag : Nat} (h : Canonical s) :
    Canonical (pushSplit s v taken target tag) := by
  unfold pushSplit
  split
  · exact h
  · exact canonical_startRun (canonical_modWarp h)

theorem canonical_reformNow {s : State} {v : View} {live : Nat} {target : Pc} (h : Canonical s) : Canonical (reformNow s v live target) := by
  unfold reformNow
  split
  · exact canonical_pumpRejoin (canonical_fileEjected h)
  · exact canonical_pathEmpty (canonical_fileLanes h)

theorem canonical_switchAtRjn {s : State} {v : View} (h : Canonical s) : Canonical (switchAtRjn s v) := by
  unfold switchAtRjn
  split
  · exact h
  · split
    · exact canonical_pathEmpty (canonical_modWarp h)
    · exact canonical_startRun h

theorem canonical_holdAt {s : State} {v : View} {b phase : Nat} (h : Canonical s) : Canonical (holdAt s v b phase) := by
  unfold holdAt
  split
  · exact canonical_setStatus h
  · split
    · exact canonical_ite (canonical_swapPaths h) (canonical_setStatus h)
    · exact h

theorem canonical_parkAction {s : State} {v : View} {x : ParkAct} (h : Canonical s) : Canonical (parkAction s v x) := by
  unfold parkAction
  dsimp -zeta only
  split
  · exact canonical_startRun h
  · exact canonical_transfer h
  · exact canonical_transfer h
  · exact canonical_pushSplit h
  · exact canonical_swapPaths h
  · exact canonical_forcedReform h
  · exact canonical_reformNow h
  · split
    · exact canonical_ite (canonical_arriveRejoin h) (canonical_startRun h)
    · exact canonical_switchAtRjn h
  · split
    · exact canonical_exitEjected h
    · exact canonical_exitLanes h
  · exact canonical_startRun h
  · refine canonical_setStatus ?_
    split
    · exact canonical_takeLost h
    · exact h
  · exact canonical_holdAt h
  · exact canonical_holdAt h
  · exact canonical_enterHandler (canonical_modRun h)

theorem canonical_endPark {s : State} {g : Gid} (h : Canonical s) : Canonical (endPark s g) := by
  unfold endPark
  split
  · exact h
  · split
    · split
      · exact h
      · split
        · split
          · split
            · exact canonical_exitLanes (canonical_modWarp h)
            · exact h
          · exact canonical_exitEjected h
        · extract_lets +onlyGivenNames s1
          have hs1 : Canonical s1 := canonical_observeSlots h
          split
          · exact hs1
          · split
            · exact canonical_takeDeferred hs1
            · exact canonical_parkAction hs1
    · exact h

/-! ## Pieces and tests -/

theorem canonical_installXlate {s : State} {g : Gid} {x : Xlate} (h : Canonical s) : Canonical (installXlate s g x) := by
  unfold installXlate
  extract_lets +onlyGivenNames add
  split
  · exact canonical_modCore h
  · exact canonical_modPool h

theorem canonical_startWalk {s : State} {g : Gid} {die gen va why : Nat} {len : optParam Nat 0} (h : Canonical s) :
    Canonical (startWalk s g die gen va why len) := by
  unfold startWalk
  split
  · exact h
  · exact canonical_schedule (canonical_takeLost (canonical_freshNat h))

theorem canonical_testAccess {s : State} {v : View} {accs : List (Nat × Nat × Nat)} {r w own : Bool} (h : Canonical s) :
    CanonicalTested (testAccess s v accs r w own) := by
  unfold testAccess
  split
  · exact h
  · extract_lets all pages missing hits owned ownHits
    split
    · exact canonical_foldl (fun _ _ ha => canonical_startWalk ha) h
    · split
      · exact h
      · split
        · exact h
        · split
          · exact trivial
          · exact trivial

theorem canonical_requestPages {s : State} {v : View} {lanes : BitVec 32} {pages : List Nat} (h : Canonical s) :
    Canonical (requestPages s v lanes pages) := h

theorem canonical_parkLanes {s : State} {v : View} {lanes pages : List Nat} (h : Canonical s) : Canonical (parkLanes s v lanes pages) :=
  canonical_modWarp (canonical_requestPages h)

theorem canonical_lowAccess {s : State} {v : View} {accs : List (Nat × Nat × Nat)} {r w own : Bool} {act : State → View → Did}
    (h : Canonical s) (hact : ∀ a u, Canonical a → CanonicalDid (act a u)) : CanonicalDid (lowAccess s v accs r w own act) := by
  unfold lowAccess
  split
  next s1 tested => exact canonicalTested_wait (canonical_testAccess h) tested
  next s1 t tested => exact canonical_trapNow (canonicalTested_trap (canonical_testAccess h) tested)
  next => exact hact s v h
  next => exact canonical_requestPages h

theorem canonical_access {s : State} {v : View} {accs : List (Nat × Nat × Nat)} {r w own : Bool} {act : State → View → Did}
    (h : Canonical s) (hact : ∀ a u, Canonical a → CanonicalDid (act a u)) : CanonicalDid (access s v accs r w own act) := by
  unfold access
  split
  next s1 tested => exact canonicalTested_wait (canonical_testAccess h) tested
  next s1 t tested => exact canonical_trapNow (canonicalTested_trap (canonical_testAccess h) tested)
  next => exact hact s v h
  next =>
    split
    · exact canonical_requestPages h
    · split
      · exact canonical_requestPages h
      · extract_lets s1 rest
        have hs1 : Canonical s1 := canonical_parkLanes h
        split
        · exact canonical_pathEmpty (canonical_freeQuad hs1)
        · exact hact _ _ hs1

/-! ## Rounds (R23, R24) -/

theorem canonical_drawLost {s : State} {v : View} (h : Canonical s) : Canonical (drawLost s v).2 := by
  unfold drawLost
  extract_lets +onlyGivenNames l
  split
  · exact h
  · exact canonical_takeLost h

theorem canonical_addRounds {s : State} {v : View} {n : Nat} (h : Canonical s) : Canonical (addRounds s v n) := by
  unfold addRounds
  split
  · exact h
  · split
    · exact canonical_modWarp h
    · exact canonical_modEj h

theorem canonical_countRequest {s : State} {v : View} {rounds lost : Nat} (h : Canonical s) : Canonical (countRequest s v rounds lost) := by
  unfold countRequest
  extract_lets +onlyGivenNames n s1 s2
  have hs1 : Canonical s1 := canonical_modWarp h
  exact canonical_addRounds (canonical_ite hs1 (canonical_capture hs1))

/-! ## Requests -/

theorem canonical_sendReq {s : State} {q : Req} {i : Instr} (h : Canonical s) : Canonical (sendReq s q i) := by
  unfold sendReq
  dsimp -zeta only
  extract_lets +onlyGivenNames s2
  have hs2 : Canonical s2 := by
    dsimp only [s2]
    split
    · exact canonical_slotAdd (canonical_freshNat h)
    · exact canonical_freshNat h
  exact canonical_schedule hs2

theorem canonical_pinLoads {s : State} {v : View} (h : Canonical s) : Canonical (pinLoads s v) := h

theorem canonical_poisonX {s : State} {v : View} {lane reg : Nat} (h : Canonical s) : Canonical (poisonX s v lane reg) := by
  unfold poisonX
  split
  · split
    · exact canonical_modCore h
    · exact h
  · exact canonical_modEj h

theorem canonical_putItems {s : State} {v : View} {q : Req} {items : List (Nat × Nat × Word)} (h : Canonical s) :
    Canonical (putItems s v q items) := canonical_foldl (fun _ _ => canonical_putX) (canonical_ite (canonical_progress h) h)

theorem canonical_putResult {s : State} {v : View} {q : Req} (h : Canonical s) : Canonical (putResult s v q) := by
  unfold putResult
  split
  · extract_lets +onlyGivenNames flat s1
    have hs1 : Canonical s1 := canonical_putItems h
    exact canonical_foldl (fun _ _ h1 => canonical_ite (canonical_foldl (fun _ _ => canonical_poisonX) h1) h1) hs1
  · exact canonical_putK h
  · exact canonical_modUnit h
  · exact canonical_putK h
  · extract_lets +onlyGivenNames s1
    have hs1 : Canonical s1 := canonical_putItems h
    exact canonical_ite hs1 (canonical_foldl (fun _ _ => canonical_modThr) hs1)
  · exact h
  · exact h
  · exact h
  · exact h

theorem canonical_addDeferred {s : State} {v : View} {slot : Nat} {t : Trap} (h : Canonical s) : Canonical (addDeferred s v slot t) := by
  unfold addDeferred
  split
  · exact canonical_ite (canonical_modLaunch h) (canonical_modRun h)
  · exact canonical_modRun h

theorem canonical_captureData {s : State} {l n : Nat} {b : List Byte} (h : Canonical s) : Canonical (captureData s l n b) := by
  induction n generalizing s b with
  | zero => exact h
  | succ n ih =>
    unfold captureData
    split
    · exact h
    · split
      · exact h
      · exact ih (canonical_appendEntry h)

theorem canonical_inputReturned {s : State} {q : Req} (h : Canonical s) : Canonical (inputReturned s q) := by
  unfold inputReturned
  extract_lets +onlyGivenNames l
  split
  · exact h
  · extract_lets +onlyGivenNames n s1
    have hs1 : Canonical s1 := canonical_capture h
    split
    · exact hs1
    · exact canonical_ite (canonical_modLaunch hs1) (canonical_ite (canonical_captureData hs1) hs1)

theorem canonical_keepReturn {s : State} {q : Req} (h : Canonical s) : Canonical (keepReturn s q) := canonical_modCtx h

theorem canonical_returnReq {s : State} {id : Nat} (h : Canonical s) : Canonical (returnReq s id) := by
  unfold returnReq
  split
  · exact h
  · extract_lets +onlyGivenNames s1
    have hs1 : Canonical s1 := canonical_l1Settle h
    split
    · exact hs1
    · extract_lets +onlyGivenNames s0
      have hs0 : Canonical s0 := canonical_foldl (fun _ _ => canonical_l1Fill) hs1
      split
      · exact canonical_keepReturn hs0
      · extract_lets +onlyGivenNames s2 s3 s4
        have hs2 : Canonical s2 := canonical_inputReturned (canonical_ite hs0 (canonical_putResult hs0))
        have hs3 : Canonical s3 := canonical_ite hs2 (canonical_l1Acquire hs2)
        have hs4 : Canonical s4 := by
          dsimp only [s4]
          split
          · exact canonical_slotSub hs3
          · exact hs3
        split
        · exact canonical_addDeferred hs4
        · exact hs4

theorem canonical_returnDue {s : State} {id : Nat} (h : Canonical s) : Canonical (returnDue s id) := by
  unfold returnDue
  split
  · exact canonical_ite (canonical_returnReq h) h
  · exact h

/-! ## Aperture accesses in their cycle (R453) -/

theorem canonical_joinReport {s : State} {unit addr : Nat} {ipc : Pc} (h : Canonical s) : Canonical (joinReport s unit addr ipc) := by
  unfold joinReport
  split
  · exact h
  · exact canonical_postReport h

theorem canonical_actAper {s : State} {id : Nat} {a : Aper} (h : Canonical s) : Canonical (actAper s id a) := by
  unfold actAper
  extract_lets +onlyGivenNames read write fill
  have hwrite : ∀ (t : State) (addr : ℕ) (b : List Byte), Canonical t → Canonical (write t addr b) := by
    intro a1 _ _ h1
    exact canonical_modCore h1
  have hfill : ∀ (t : State) (b : List Byte), Canonical t → Canonical (fill t b) := by
    intro a1 _ h1
    exact canonical_modReq h1
  split
  · extract_lets +onlyGivenNames bad s1
    have hs1 : Canonical s1 := canonical_ite (canonical_modReq h) h
    exact hfill _ _ hs1
  · extract_lets +onlyGivenNames s1
    have hs1 : Canonical s1 := hwrite _ _ _ h
    split
    · exact hs1
    · exact canonical_modCore hs1
  · extract_lets +onlyGivenNames old
    split
    · split
      · exact canonical_joinReport h
      · exact h
    · exact hfill _ _ (hwrite _ _ _ h)
  · exact hfill _ _ (hwrite _ _ _ h)

theorem canonical_actApers {s : State} (h : Canonical s) : Canonical (actApers s) := by
  unfold actApers
  refine canonical_foldl ?_ h
  intro a _ h1
  dsimp -zeta only
  split
  · exact h1
  · exact canonical_ite h1 (canonical_modReq (canonical_foldl (fun _ _ => canonical_actAper) h1))

/-! ## The scope checker (R130, R131, R139, R140) -/

theorem canonical_recordRelease {s : State} {by_ : Party} {p : Place} {n scope : Nat} (h : Canonical s) :
    Canonical (recordRelease s by_ p n scope) := by
  unfold recordRelease
  split
  · exact h
  · exact h

theorem canonical_scopeReport {s : State} {v : View} {r : SyncLine} {scope line : Nat} (h : Canonical s) :
    Canonical (scopeReport s v r scope line) := by
  unfold scopeReport
  split
  · exact h
  · exact canonical_postReport h

/-! ## The accesses of threads under the vector-clock unit (R131, R133, R138) -/

theorem canonical_releaseWords {s : State} {v : View} {lane scope : Nat} {p : Place} {n : Nat} {atom all : Bool} (h : Canonical s) :
    Canonical (releaseWords s v lane scope p n atom all) := by
  unfold releaseWords
  split
  · exact h
  · exact canonical_foldl (fun _ _ h1 => canonical_releaseAt (canonical_ite h1 (canonical_dropRels h1))) h

theorem canonical_acquireOf {s : State} {v : View} {lane scope ob : Nat} {all : Bool} (h : Canonical s) :
    Canonical (acquireOf s v lane scope ob all) := canonical_acquireAt h

theorem canonical_acquireWords {s : State} {v : View} {lane scope : Nat} {p : Place} {n : Nat} (h : Canonical s) :
    Canonical (acquireWords s v lane scope p n) := canonical_foldl (fun _ _ => canonical_acquireOf) h

/-! ## Reports of a context (R431, R437, R455) -/

theorem canonical_poisonReport {s : State} {v : View} {p : Place} {va : Nat} (h : Canonical s) : Canonical (poisonReport s v p va) := by
  unfold poisonReport
  split
  · exact canonical_postReport h
  · exact h

theorem canonical_hostReport {s : State} {gen launch addr pc cause : Nat} (h : Canonical s) :
    Canonical (hostReport s gen launch addr pc cause) := canonical_postReport h

/-! ## Loads -/

theorem canonical_l1Use {s : State} {core line : Nat} (h : Canonical s) : Canonical (l1Use s core line) := canonical_modCore (canonical_freshNat h)

theorem canonical_loadLine {v : View} {viaL1 : Bool} {m : Moved} {fs : List Frag} (hm : Canonical m.s) : Canonical (loadLine v viaL1 m fs).s := by
  unfold loadLine
  split
  · exact hm
  · extract_lets +onlyGivenNames s line via got served
    split
    · exact canonical_l1Use hm
    · split
      · exact hm
      · extract_lets +onlyGivenNames needed mask bad s1 s2
        have hs1 : Canonical s1 := canonical_touchPlace hm
        have hs2 : Canonical s2 := by
          dsimp only [s2]
          split
          · exact hs1
          · exact canonical_hostReport hs1
          · exact canonical_poisonReport hs1
        exact hs2

theorem canonical_loadLines {s : State} {v : View} {viaL1 : Bool} {fs : List Frag} (h : Canonical s) : Canonical (loadLines s v viaL1 fs).s :=
  canonical_foldl_moved (fun _ _ => canonical_loadLine) h

theorem canonical_scopeFault {s : State} {v : View} {fails : List (Nat × SyncLine × Nat × Nat)} (h : Canonical s) :
    Canonical (scopeFault s v fails).1 := by
  unfold scopeFault
  split
  · exact h
  · exact canonical_scopeReport h

theorem canonical_clockLoads {s : State} {v : View} {accs : Accs} {fs : List Frag} (h : Canonical s) : Canonical (clockLoads s v accs fs) := by
  unfold clockLoads
  split
  · exact h
  · refine canonical_foldl ?_ h
    intro a _ h1
    exact canonical_clockRead (canonical_raceCheck (canonical_ite (canonical_acquireWords h1) h1))

theorem canonical_doLoad {s : State} {v : View} {accs : Accs} {viaL1 : Bool} {slot : Option Nat} {mk : List (List Byte) → ReqKind}
    (h : Canonical s) : Canonical (doLoad s v accs viaL1 slot mk) := by
  unfold doLoad
  extract_lets +onlyGivenNames fs ts held fails m
  dsimp -zeta only
  extract_lets +onlyGivenNames -merge -useContext -underBinder ordinal s2 memDue due items so _ q
  have hs2 : Canonical s2 := canonical_countRequest (canonical_drawLost (canonical_loadLines (canonical_clockLoads h)))
  exact canonical_sendReq (canonical_scopeFault hs2)

theorem canonical_execLd {l : BitVec 2} {z : BitVec 3} {b : BitVec 5} {a d : BitVec 7} {sw : BitVec 1} {s : State} (h : Canonical s) :
    Answers (execLd l z b a d sw s) := by
  unfold execLd
  refine canonical_issue h ?_
  intro a1 _ h1
  exact canonical_access h1 (fun _ _ h2 => canonical_done (canonical_doLoad h2))

theorem canonical_execLdk {l : BitVec 2} {z : BitVec 3} {b : BitVec 5} {a : BitVec 7} {k : BitVec 6} {sw : BitVec 1} {s : State}
    (h : Canonical s) : Answers (execLdk l z b a k sw s) := by
  unfold execLdk
  refine canonical_issue h ?_
  intro a1 _ h1
  exact canonical_lowAccess h1 (fun _ _ h2 => canonical_done (canonical_doLoad h2))

theorem canonical_clockStores {s : State} {v : View} {kind : Nat} {lanes : List Nat} {fs : List Frag} (h : Canonical s) :
    Canonical (clockStores s v kind lanes fs) := by
  unfold clockStores
  split
  · exact h
  · refine canonical_foldl ?_ h
    intro a _ h1
    refine canonical_foldl ?_ h1
    intro a1 _ h2
    extract_lets +onlyGivenNames agent s1
    have hs1 : Canonical s1 := canonical_raceCheck h2
    exact canonical_ite (canonical_releaseWords hs1) (canonical_clockWrite hs1)

/-! ## Stores -/

theorem canonical_poisonFrag {s : State} {f : Frag} (h : Canonical s) : Canonical (poisonFrag s f) :=
  canonical_foldl (fun _ _ => canonical_poisonPlace) h

theorem canonical_storeFrag {s : State} {v : View} {lane kind : Nat} {f : Frag} {b : List Byte} {bad : Bool} (h : Canonical s) :
    Canonical (storeFrag s v lane kind f b bad) := by
  unfold storeFrag
  extract_lets +onlyGivenNames agent so s1 s2 down
  have hs1 : Canonical s1 := canonical_raceCheck h
  have hs2 : Canonical s2 := canonical_ite (canonical_releaseWords hs1) (canonical_clockWrite hs1)
  split
  · exact canonical_hostReport hs2
  · extract_lets +onlyGivenNames s3 s4
    have hs3 : Canonical s3 := canonical_writeMem hs2
    have hs4 : Canonical s4 := canonical_ite (canonical_poisonFrag hs3) hs3
    split
    · exact canonical_recordRelease hs4
    · exact canonical_breakRelease hs4

theorem canonical_storeAt {s : State} {v : View} {items : List (Nat × Nat × List Byte)} {bad : List Nat} {kind : Nat} {slot : Option Nat}
    {fs : List Frag} {ts : List Touch} (h : Canonical s) : Canonical (storeAt s v items bad kind slot fs ts) := by
  unfold storeAt
  extract_lets +onlyGivenNames accs part
  dsimp -zeta only
  extract_lets +onlyGivenNames -merge -useContext -underBinder lines laneOf s3 s4 s5 due _ q
  have hs3 : Canonical s3 := by
    refine canonical_foldl (fun _ _ => canonical_storeFrag) ?_
    refine canonical_foldl_fst ?_ ?_
    · intro a _ h1
      split
      · exact h1
      · exact h1
    · exact canonical_drawLost h
  have hs4 : Canonical s4 := canonical_countRequest hs3
  exact canonical_sendReq (canonical_pinLoads (canonical_ite (canonical_foldl (fun _ _ => canonical_l1Drop) hs4) hs4))

theorem canonical_doStore {s : State} {v : View} {items : List (Nat × Nat × List Byte)} {bad : List Nat} {kind : Nat} {slot : Option Nat}
    (h : Canonical s) : Canonical (doStore s v items bad kind slot) := canonical_storeAt h

theorem canonical_holdStore {s : State} {v : View} {maj : Nat} {items : List (Nat × Nat × List Byte)} {bad : List Nat} {slot : Option Nat}
    (h : Canonical s) : Canonical (holdStore s v maj items bad slot) := by
  unfold holdStore
  extract_lets +onlyGivenNames s1
  have hs1 : Canonical s1 := canonical_modWarp (canonical_pinLoads h)
  split
  · exact canonical_sendReq hs1
  · exact hs1

theorem canonical_storeItems {s : State} {v : View} {maj : Nat} {items : View → List (Nat × Nat × List Byte)} {bad : List Nat} {kind : Nat}
    {slot : Option Nat} (h : Canonical s) : CanonicalDid (storeItems s v maj items bad kind slot) := by
  unfold storeItems
  extract_lets +onlyGivenNames region
  split
  · refine canonical_lowAccess h ?_
    intro a _ h1
    split
    · exact canonical_done (canonical_holdStore (canonical_progress h1))
    · exact canonicalDid_ite (canonical_wait h1) (canonical_done (canonical_doStore (canonical_progress h1)))
  · refine canonical_access h ?_
    intro a _ h1
    split
    · exact canonical_done (canonical_holdStore (canonical_progress h1))
    · exact canonicalDid_ite (canonical_wait h1) (canonical_done (canonical_doStore (canonical_progress h1)))

theorem canonical_execSt {l : BitVec 2} {z : BitVec 3} {b : BitVec 5} {a d : BitVec 7} {sw : BitVec 1} {s : State} (h : Canonical s) :
    Answers (execSt l z b a d sw s) := canonical_issue h (fun _ _ => canonical_storeItems)

/-! ## Atomics -/

theorem canonical_atomFrag {s : State} {v : View} {t : Atom} {lane c x : Nat} {f : Frag} (h : Canonical s) :
    Canonical (atomFrag s v t lane c x f).1 := by
  unfold atomFrag
  extract_lets +onlyGivenNames agent s1 oldB
  have hs1 : Canonical s1 := canonical_raceCheck h
  split
  · exact canonical_poisonReport hs1
  · extract_lets +onlyGivenNames old writes so isAcq isRel acqScope relScope a1 a2 a3 s2 s3
    have ha2 : Canonical a2 := by
      refine canonical_clockRead (?_ : Canonical a1)
      dsimp only [a1]
      split
      · exact canonical_acquireWords hs1
      · exact hs1
    have ha3 : Canonical a3 := by
      dsimp only [a3]
      split
      · exact canonical_foldl (fun _ _ hb => canonical_carryRels hb) ha2
      · exact ha2
    have hs2 : Canonical s2 := by
      dsimp only [s2]
      split
      · exact hs1
      · split
        · exact canonical_releaseWords ha3
        · exact ha3
    have hs3 : Canonical s3 := by
      dsimp only [s3]
      split
      · exact canonical_writeMem hs2
      · exact canonical_touchPlace hs2
    dsimp only
    split
    · exact canonical_recordRelease hs3
    · exact hs3

theorem canonical_doAtomic {s : State} {v : View} {t : Atom} {accs : Accs} (h : Canonical s) : Canonical (doAtomic s v t accs) := by
  unfold doAtomic
  extract_lets +onlyGivenNames fs ts acq fails
  dsimp -zeta only
  extract_lets +onlyGivenNames -merge -useContext -underBinder lines cycles held ordinal s3 memDue due n items poison so _ q
  have hs3 : Canonical s3 := by
    dsimp only [s3]
    refine canonical_countRequest ?_
    refine canonical_foldl_fst ?_ ?_
    · intro a _ h1
      split
      · exact h1
      · dsimp -zeta only
        exact canonical_atomFrag h1
    · dsimp -zeta only
      exact canonical_drawLost h
  exact canonical_sendReq (canonical_pinLoads (canonical_scopeFault hs3))

theorem canonical_atomic {t : Atom} {s : State} {v : View} (h : Canonical s) : CanonicalDid (atomic t s v) := by
  unfold atomic
  extract_lets +onlyGivenNames n accs
  split
  · exact canonical_trap
  · extract_lets +onlyGivenNames host noAperture go
    have hgo : CanonicalDid go := by
      refine canonical_access h fun a u ha => ?_
      split
      · exact ha
      · exact canonical_doAtomic (canonical_progress ha)
    generalize go = decided at hgo
    split
    · exact hgo
    · split
      · exact hgo
      · split
        · exact canonical_trap
        · exact hgo

theorem canonical_execAtomAdd {f w : BitVec 1} {c : BitVec 3} {o : BitVec 2} {a d : BitVec 7} {sw : BitVec 1} {s : State} (h : Canonical s) :
    Answers (execAtomAdd f w c o a d sw s) := canonical_issue h (fun _ _ => canonical_atomic)

theorem canonical_execAtomMin {f w : BitVec 1} {c : BitVec 3} {o : BitVec 2} {a d : BitVec 7} {sw : BitVec 1} {s : State} (h : Canonical s) :
    Answers (execAtomMin f w c o a d sw s) := canonical_issue h (fun _ _ => canonical_atomic)

theorem canonical_execAtomMax {f w : BitVec 1} {c : BitVec 3} {o : BitVec 2} {a d : BitVec 7} {sw : BitVec 1} {s : State} (h : Canonical s) :
    Answers (execAtomMax f w c o a d sw s) := canonical_issue h (fun _ _ => canonical_atomic)

theorem canonical_execAtomAnd {w : BitVec 1} {c : BitVec 3} {o : BitVec 2} {a d : BitVec 7} {sw : BitVec 1} {s : State} (h : Canonical s) :
    Answers (execAtomAnd w c o a d sw s) := canonical_issue h (fun _ _ => canonical_atomic)

theorem canonical_execAtomOr {w : BitVec 1} {c : BitVec 3} {o : BitVec 2} {a d : BitVec 7} {sw : BitVec 1} {s : State} (h : Canonical s) :
    Answers (execAtomOr w c o a d sw s) := canonical_issue h (fun _ _ => canonical_atomic)

theorem canonical_execAtomXor {w : BitVec 1} {c : BitVec 3} {o : BitVec 2} {a d : BitVec 7} {sw : BitVec 1} {s : State} (h : Canonical s) :
    Answers (execAtomXor w c o a d sw s) := canonical_issue h (fun _ _ => canonical_atomic)

theorem canonical_execAtomXchg {w : BitVec 1} {c : BitVec 3} {o : BitVec 2} {a d : BitVec 7} {sw : BitVec 1} {s : State} (h : Canonical s) :
    Answers (execAtomXchg w c o a d sw s) := canonical_issue h (fun _ _ => canonical_atomic)

theorem canonical_execAtomCas {w : BitVec 1} {c : BitVec 3} {o : BitVec 2} {a d : BitVec 7} {sw : BitVec 1} {s : State} (h : Canonical s) :
    Answers (execAtomCas w c o a d sw s) := canonical_issue h (fun _ _ => canonical_atomic)

/-! ## Fences (R277, Table 10.3) -/

theorem canonical_doFence {k scope : Nat} {s : State} {v : View} (h : Canonical s) : Canonical (doFence k scope s v) := by
  unfold doFence
  extract_lets +onlyGivenNames s0 s1 each
  have hs1 : Canonical s1 := by
    dsimp only [s1]
    split
    · exact canonical_pinLoads h
    · exact canonical_l1Acquire (canonical_pinLoads h)
  have heach {f : State → ℕ → ℕ → State} (keeps : ∀ b l g, Canonical b → Canonical (f b l g)) {a : State} (ha : Canonical a) : Canonical (each f a) :=
    canonical_foldl (fun b l hb => keeps b l _ hb) ha
  split
  · exact hs1
  · extract_lets +onlyGivenNames acq rel
    have hacq {a : State} (ha : Canonical a) : Canonical (acq a) := heach (fun _ _ _ hb => canonical_acquireOf hb) ha
    have hrel {a : State} (ha : Canonical a) : Canonical (rel a) := by
      dsimp -zeta only [rel, each]
      refine canonical_foldl (fun b l hb => ?_) ha
      exact canonical_releaseAt (canonical_of_mem (s := b) rfl hb)
    split
    · exact hacq hs1
    · exact hrel hs1
    · exact hrel (hacq hs1)
    · exact heach (fun _ _ _ hb => canonical_releaseAt hb) (heach (fun _ _ _ hb => canonical_acquireOf hb) (hrel (hacq hs1)))

theorem canonical_fencePre {k : Nat} {s : State} {v : View} (h : Canonical s) : CanonicalPre (fencePre k s v) := by
  unfold fencePre
  split
  · exact canonicalPre_some (canonical_wait h)
  · exact canonicalPre_none

theorem canonical_execFenceAcq {c : BitVec 3} {sw : BitVec 1} {s : State} (h : Canonical s) : Answers (execFenceAcq c sw s) := by
  unfold execFenceAcq
  refine canonical_issuePre h (fun _ _ => canonical_fencePre) ?_
  exact fun _ _ => canonical_plain (fun _ _ => canonical_doFence)

theorem canonical_execFenceRel {c : BitVec 3} {sw : BitVec 1} {s : State} (h : Canonical s) : Answers (execFenceRel c sw s) := by
  unfold execFenceRel
  refine canonical_issuePre h (fun _ _ => canonical_fencePre) ?_
  exact fun _ _ => canonical_plain (fun _ _ => canonical_doFence)

theorem canonical_execFenceAr {c : BitVec 3} {sw : BitVec 1} {s : State} (h : Canonical s) : Answers (execFenceAr c sw s) := by
  unfold execFenceAr
  refine canonical_issuePre h (fun _ _ => canonical_fencePre) ?_
  exact fun _ _ => canonical_plain (fun _ _ => canonical_doFence)

theorem canonical_execFenceSc {c : BitVec 3} {sw : BitVec 1} {s : State} (h : Canonical s) : Answers (execFenceSc c sw s) := by
  unfold execFenceSc
  refine canonical_issuePre h (fun _ _ => canonical_fencePre) ?_
  exact fun _ _ => canonical_plain (fun _ _ => canonical_doFence)

/-! ## Hints -/

theorem canonical_prefetch {s : State} {g : Gid} {x : Xlate} {core unit va n : Nat} (h : Canonical s) :
    Canonical (prefetch s g x core unit va n) := by
  unfold prefetch
  extract_lets +onlyGivenNames p
  split
  · exact h
  · refine canonical_foldl ?_ h
    intro a _ h1
    dsimp -zeta only
    extract_lets +onlyGivenNames q due s1
    have hs1 : Canonical s1 := canonical_touchPlace h1
    split
    · exact canonical_ite hs1 (canonical_sendReq hs1)
    · exact hs1

theorem canonical_writeBack {s : State} {x : Xlate} {va n : Nat} (h : Canonical s) : Canonical (writeBack s x va n) := by
  unfold writeBack
  refine canonical_foldl ?_ h
  intro a _ h1
  dsimp -zeta only
  split
  · exact h1
  · exact h1

theorem canonical_hintPiece {s : State} {g : Gid} {why core unit va n : Nat} {x : Xlate} (h : Canonical s) :
    Canonical (hintPiece s g why core unit va n x) := canonical_ite (canonical_prefetch h) (canonical_writeBack h)

theorem canonical_doHint {why n a : Nat} {s : State} {v : View} (h : Canonical s) : Canonical (doHint why n a s v) := by
  unfold doHint
  refine canonical_foldl ?_ h
  intro a1 _ h1
  refine canonical_foldl ?_ h1
  intro a2 _ h2
  dsimp -zeta only
  split
  · exact canonical_hintPiece h2
  · exact canonical_ite h2 (canonical_startWalk h2)

theorem canonical_lstuFrag {s : State} {v : View} {lane : Nat} {f : Frag} (h : Canonical s) : Canonical (lstuFrag s v lane f).1 :=
  canonical_storeFrag (canonical_clockRead h)

theorem canonical_doLstu {s : State} {v : View} {d : Nat} {accs : Accs} (h : Canonical s) : Canonical (doLstu s v d accs) := by
  unfold doLstu
  extract_lets +onlyGivenNames fs ts fails
  dsimp -zeta only
  extract_lets +onlyGivenNames -merge -useContext -underBinder lines cycles ordinal s3 memDue held items so _ q
  have hs3 : Canonical s3 := by
    dsimp only [s3]
    refine canonical_countRequest ?_
    refine canonical_foldl_fst ?_ ?_
    · intro a _ h1
      split
      · exact h1
      · dsimp -zeta only
        exact canonical_lstuFrag h1
    · dsimp -zeta only
      exact canonical_drawLost h
  exact canonical_sendReq (canonical_pinLoads (canonical_scopeFault hs3))

theorem canonical_execLstu {a d : BitVec 7} {sw : BitVec 1} {s : State} (h : Canonical s) : Answers (execLstu a d sw s) := by
  unfold execLstu
  refine canonical_issue h ?_
  intro a1 _ h1
  extract_lets +onlyGivenNames accs
  split
  · exact canonical_trap
  · refine canonical_access h1 ?_
    exact fun _ _ h2 => canonicalDid_ite (canonical_wait h2) (canonical_done (canonical_doLstu (canonical_progress h2)))

/-! ## Ownership (R296, R426) -/

theorem canonical_registerRange {a b : Nat} {s : State} {v : View} (h : Canonical s) : CanonicalDid (registerRange a b s v) := by
  unfold registerRange
  split
  · exact canonical_done h
  · extract_lets +onlyGivenNames base len
    split
    · exact canonical_trap
    · exact canonicalDid_ite canonical_trap (canonical_done (canonical_modUnit h))
    · exact canonical_done h

/-! ## Barriers -/

theorem canonical_arriveOne {u b cnt agent : Nat} {s : State} (h : Canonical s) : Canonical (arriveOne u b cnt agent s).1 := by
  unfold arriveOne
  extract_lets +onlyGivenNames k0 left k1 k s1
  have hs1 : Canonical s1 := canonical_release (canonical_modUnit h)
  exact canonical_ite (canonical_completeBar hs1) hs1

theorem canonical_arriveAll {s : State} {v : View} {b cnt : Nat} (h : Canonical s) : Canonical (arriveAll s v b cnt).1 :=
  canonical_foldl_fst (fun _ _ => canonical_arriveOne) h

theorem canonical_waitPhase {s : State} {v : View} {b phase : Nat} (h : Canonical s) : CanonicalDid (waitPhase s v b phase) :=
  canonicalDid_ite (canonical_done h) (canonical_done (canonical_acquireLanes (canonical_modRun h)))

theorem canonical_execBarArv {c : BitVec 12} {b : BitVec 9} {sw : BitVec 1} {s : State} (h : Canonical s) : Answers (execBarArv c b sw s) := by
  unfold execBarArv
  refine canonical_issuePre h (fun _ _ => canonical_releasePre) ?_
  exact fun _ _ h1 => canonicalDid_ite (canonical_done (canonical_arriveAll h1)) (canonical_wait h1)

theorem canonical_execBarWt {c : BitVec 12} {b : BitVec 9} {s : State} (h : Canonical s) : Answers (execBarWt c b s) := by
  unfold execBarWt
  refine canonical_issue h ?_
  intro a _ h1
  exact canonicalDid_ite (canonical_done h1) (canonical_done h1)

theorem canonical_execBarSyn {c : BitVec 12} {b : BitVec 9} {s : State} (h : Canonical s) : Answers (execBarSyn c b s) := by
  unfold execBarSyn
  refine canonical_issuePre h (fun _ _ => canonical_releasePre) ?_
  intro a _ h1
  split
  · exact canonical_waitPhase (canonical_arriveAll h1)
  · exact canonical_wait h1

theorem canonical_arriveGbar {l agent u : Nat} {s : State} (h : Canonical s) : Canonical (arriveGbar l agent u s).1 := by
  unfold arriveGbar
  split
  · exact h
  · extract_lets +onlyGivenNames s1
    have hs1 : Canonical s1 := canonical_release (canonical_modLaunch h)
    exact canonical_ite (canonical_completeGbar hs1) hs1

theorem canonical_execGbar {s : State} (h : Canonical s) : Answers (execGbar s) := by
  unfold execGbar
  refine canonical_issuePre h (fun _ _ => canonical_releasePre) ?_
  intro a _ h1
  extract_lets +onlyGivenNames l
  dsimp -zeta only
  split
  · exact canonical_done (canonical_foldl_fst (fun _ _ => canonical_arriveGbar) h1)
  · exact canonical_done (canonical_acquireLanes (canonical_modRun (canonical_foldl_fst (fun _ _ => canonical_arriveGbar) h1)))

/-! ## `spawn` -/

theorem canonical_joinOwner {s : State} {x : Launch} (h : Canonical s) : Canonical (joinOwner s x) := canonical_modInst h

theorem canonical_spawnRecord {s : State} {v : View} {addr h : Nat} (hs : Canonical s) : CanonicalDid (spawnRecord s v addr h) := by
  unfold spawnRecord
  split
  · exact canonical_done hs
  · split
    · exact canonical_wait hs
    · exact canonical_done (canonical_joinOwner (canonical_modCq (canonical_pushRecord (canonical_releaseLanes hs))))

theorem canonical_execSpawn {a : BitVec 6} {sw : BitVec 1} {s : State} (h : Canonical s) : Answers (execSpawn a sw s) := by
  unfold execSpawn
  refine canonical_issuePre h (fun _ _ => canonical_releasePre) ?_
  intro a1 _ h1
  exact canonical_lowAccess h1 (fun _ _ => canonical_spawnRecord)

/-! ## `jdec` -/

theorem canonical_decrementAt {s : State} {v : View} {lane addr : Nat} {f : Frag} (h : Canonical s) :
    Canonical (decrementAt s v lane addr f).1 := by
  unfold decrementAt
  extract_lets +onlyGivenNames b old
  have hb : Canonical b := canonical_raceCheck h
  split
  · exact canonical_poisonReport hb
  · split
    · exact canonical_joinReport (canonical_touchPlace hb)
    · extract_lets +onlyGivenNames c d
      have hc : Canonical c := canonical_foldl (fun _ _ => canonical_carryRels) hb
      have hd : Canonical d := canonical_foldl (fun _ _ => canonical_release) (canonical_releaseWords hc)
      exact canonical_recordRelease (canonical_writeMem hd)

theorem canonical_decrementJoin {s0 : State} {v : View} {addr : Nat} (hs0 : Canonical s0) : Canonical (decrementJoin s0 v addr) := by
  unfold decrementJoin
  extract_lets +onlyGivenNames s lane accs fs ts
  have hs : Canonical s := canonical_pinLoads hs0
  refine canonical_sendReq ?_
  refine canonical_countRequest ?_
  split
  · exact canonical_decrementAt (canonical_drawLost hs)
  · exact canonical_drawLost hs

/-! ## Accesses held at the memory controller (R23, R29, R358) -/

theorem canonical_actHold {s : State} {v : View} {id : Nat} {h : HoldAct} (hs : Canonical s) : Canonical (actHold s v id h) := by
  unfold actHold
  extract_lets +onlyGivenNames f fill
  have hfill : ∀ (t : State) (b : List Byte), Canonical t → Canonical (fill t b) := by
    intro a _ h1
    exact canonical_modReq h1
  dsimp -zeta only
  split
  · extract_lets +onlyGivenNames bad s1 s2
    have hs1 : Canonical s1 := canonical_touchPlace hs
    exact hfill _ _ (canonical_ite (canonical_modReq (canonical_poisonReport hs1)) hs1)
  · exact canonical_storeFrag hs
  · exact hfill _ _ (canonical_ite (canonical_modReq (canonical_lstuFrag hs)) (canonical_lstuFrag hs))
  · split
    · split
      · exact canonical_modReq (canonical_decrementAt hs)
      · exact canonical_decrementAt hs
    · exact canonical_ite (canonical_modReq (canonical_atomFrag hs)) (hfill _ _ (canonical_atomFrag hs))

theorem canonical_actHolds {s : State} {id : Nat} (h : Canonical s) : Canonical (actHolds s id) := by
  unfold actHolds
  dsimp -zeta only
  split
  · exact h
  · split
    · exact h
    · extract_lets +onlyGivenNames v ends s1
      have hs1 : Canonical s1 := canonical_modReq (canonical_foldl (fun _ _ => canonical_actHold) h)
      exact canonical_ite (canonical_schedule hs1) hs1

theorem canonical_releaseHolds {s : State} (h : Canonical s) : Canonical (releaseHolds s) := canonical_foldl (fun _ _ => canonical_actHolds) h

theorem canonical_execJdec {a : BitVec 6} {sw : BitVec 1} {s : State} (h : Canonical s) : Answers (execJdec a sw s) := by
  unfold execJdec
  refine canonical_issuePre h (fun _ _ => canonical_releasePre) ?_
  intro a1 _ h1
  extract_lets +onlyGivenNames addr hosts
  split
  · exact canonical_trap
  · exact canonical_lowAccess h1 (fun _ _ h2 => canonical_done (canonical_decrementJoin (canonical_progress h2)))

/-! ## `cancel` -/

theorem canonical_skipUnit {s : State} {l lid : Nat} {x : Launch} (h : Canonical s) : Canonical (skipUnit s l lid x) := by
  unfold skipUnit
  split
  · exact h
  · exact canonical_ite h (canonical_modLaunch h)

theorem canonical_cancelNamed {h : Word} {s : State} {v : View} (hs : Canonical s) : Canonical (cancelNamed h s v) := by
  unfold cancelNamed
  extract_lets +onlyGivenNames l
  split
  · exact hs
  · split
    · split
      · exact canonical_recount (canonical_cancelUnit hs)
      · exact canonical_recount (canonical_skipUnit hs)
    · exact canonical_cancelHandle hs

/-! ## JOIN of a parent (R63) -/

theorem canonical_parentJoin {s : State} {l : Nat} (h : Canonical s) : Canonical (parentJoin s l) := by
  unfold parentJoin
  split
  · exact h
  · split
    · exact h
    · extract_lets +onlyGivenNames s1
      have hs1 : Canonical s1 := h
      split
      · exact hs1
      · split
        · split
          · exact hs1
          · extract_lets +onlyGivenNames s2 s3
            have hs3 : Canonical s3 := canonical_foldl (fun _ _ => canonical_joinObject) (canonical_vput hs1)
            split
            · exact canonical_recordRelease hs3
            · exact hs3
        · exact hs1

theorem canonical_execJoinDecrement {s : State} (h : Canonical s) : Answers (execJoinDecrement s) := by
  unfold execJoinDecrement
  split
  · exact answers_next (canonical_parentJoin h)
  · exact answers_next h

/-! ## Entries (Table 4.3) -/

theorem canonical_setTile {s : State} {u t e : Nat} (h : Canonical s) : Canonical (setTile s u t e) := by
  unfold setTile
  split
  · exact canonical_modCore h
  · exact h

theorem canonical_setTileState {s : State} {u t st : Nat} (h : Canonical s) : Canonical (setTileState s u t st) := by
  unfold setTileState
  extract_lets +onlyGivenNames s1
  have hs1 : Canonical s1 := canonical_setTile h
  split
  · exact canonical_modCore hs1
  · exact hs1

/-! ## Lines of a transfer (R279, R423) -/

theorem canonical_transferLines {s : State} {v : View} {base n : Nat} {r w : Bool} (h : Canonical s) :
    CanonicalTransfer (transferLines s v base n r w) := by
  unfold transferLines
  extract_lets all pages owned good ok
  split
  · exact canonical_foldl (fun _ _ ha => canonical_startWalk ha) h
  · exact canonical_requestPages h
  · split
    · exact h
    · split <;> exact trivial

theorem canonical_releaseTile {s : State} {u t id : Nat} (h : Canonical s) : Canonical (releaseTile s u t id) := canonical_joinObject h

theorem canonical_sendTransfer {s : State} {v : View} {q : Req} {lost : Nat} {i : Instr} (h : Canonical s) :
    Canonical (sendTransfer s v q lost i) := canonical_countRequest (canonical_release (canonical_sendReq h))

/-! ## `tget` -/

theorem canonical_fillTile {l : BitVec 2} {a : BitVec 6} {t : Nat} {s : State} {v : View} (h : Canonical s) :
    CanonicalDid (fillTile l a t s v) := by
  unfold fillTile
  extract_lets +onlyGivenNames e base
  split
  next s1 waits => exact canonicalTransfer_wait (canonical_transferLines h) waits
  next => exact canonical_sendTransfer (canonical_setTileState (canonical_drawLost (canonical_clockLoads (canonical_scopeFault h))))

theorem canonical_execTget {l : BitVec 2} {a : BitVec 6} {t : BitVec 8} {sw : BitVec 1} {s : State} (h : Canonical s) :
    Answers (execTget l a t sw s) := by
  unfold execTget
  refine canonical_issuePre h ?_ (fun _ _ => canonical_fillTile)
  intro a1 _ h1
  split
  · exact canonicalPre_none
  · exact canonicalPre_some (canonical_wait h1)

theorem canonical_endLater {s : State} {q : Req} {i : Instr} {id : Nat} (h : Canonical s) : Canonical (endLater s q i id) :=
  canonical_ite (canonical_schedule h) h

theorem canonical_endFill {s : State} {id : Nat} (h : Canonical s) : Canonical (endFill s id) := by
  unfold endFill
  split
  · exact h
  · split
    · split
      · exact canonical_endLater h
      · exact canonical_returnReq (canonical_releaseTile (canonical_setTile (canonical_setTileState h)))
    · exact canonical_returnDue h

theorem canonical_execTileFillEnd {s : State} (h : Canonical s) : Answers (execTileFillEnd s) := by
  unfold execTileFillEnd
  split
  · exact answers_next (canonical_endFill h)
  · exact answers_next h

/-! ## `tdrn` -/

theorem canonical_drainTile {l : BitVec 2} {a : BitVec 6} {t : Nat} {s : State} {v : View} (h : Canonical s) :
    CanonicalDid (drainTile l a t s v) := by
  unfold drainTile
  extract_lets +onlyGivenNames e base
  split
  next s1 waits => exact canonicalTransfer_wait (canonical_transferLines h) waits
  next =>
    extract_lets fs
    split
    · exact h
    · have pinned : Canonical (pinLoads s v) := canonical_pinLoads h
      exact canonical_sendTransfer (canonical_setTileState (canonical_drawLost (canonical_clockStores (canonical_acquireLanes pinned))))

theorem canonical_execTdrn {l : BitVec 2} {a : BitVec 6} {t : BitVec 8} {sw : BitVec 1} {s : State} (h : Canonical s) :
    Answers (execTdrn l a t sw s) := by
  unfold execTdrn
  refine canonical_issuePre h ?_ (fun _ _ => canonical_drainTile)
  intro a1 _ h1
  split
  · exact canonicalPre_none
  · exact canonicalPre_some (canonical_wait h1)

theorem canonical_endDrain {s : State} {id : Nat} (h : Canonical s) : Canonical (endDrain s id) := by
  unfold endDrain
  split
  · exact h
  · split
    · exact canonical_ite (canonical_endLater h) (canonical_returnReq (canonical_releaseTile (canonical_setTileState h)))
    · exact canonical_returnDue h

theorem canonical_execTileDrainEnd {s : State} (h : Canonical s) : Answers (execTileDrainEnd s) := by
  unfold execTileDrainEnd
  split
  · exact answers_next (canonical_endDrain h)
  · exact answers_next h

/-! ## `tset`, `tstat` -/

theorem canonical_writeTile {s : State} {u t e : Nat} (h : Canonical s) : Canonical (writeTile s u t e) := by
  unfold writeTile
  split
  · exact canonical_modCore (canonical_setTile h)
  · exact h

theorem canonical_execTset {a : BitVec 6} {t : BitVec 8} {sw : BitVec 1} {s : State} (h : Canonical s) : Answers (execTset a t sw s) := by
  unfold execTset
  refine canonical_issuePre h ?_ ?_
  · intro a1 _ h1
    split
    · exact canonicalPre_some (canonical_wait h1)
    · exact canonicalPre_none
  · intro a1 _ h1
    refine canonical_plain ?_ h1
    intro a2 _ h2
    exact canonical_modRun (canonical_writeTile h2)

theorem canonical_execTstat {d : BitVec 6} {t : BitVec 8} {sw : BitVec 1} {s : State} (h : Canonical s) : Answers (execTstat d t sw s) := by
  unfold execTstat
  refine canonical_issue h ?_
  intro a _ h1
  refine canonical_plain ?_ h1
  intro a1 _ h2
  exact canonical_pendK (canonical_ite (canonical_acquireLanes h2) h2)

theorem canonical_storeWrite {s : State} {core addr : Nat} {bytes : List Byte} {bad : Bool} (h : Canonical s) :
    Canonical (storeWrite s core addr bytes bad) := canonical_modCore h

theorem canonical_moveGranule {s : State} {core unit gen old new : Nat} {img : Memory} {written : Nat → Bool} (h : Canonical s) :
    Canonical (moveGranule s core unit gen old new img written) := by
  unfold moveGranule
  split
  · exact h
  · extract_lets +onlyGivenNames s1
    have hs1 : Canonical s1 := canonical_putGranule h
    split
    · exact canonical_modCore hs1
    · exact hs1

theorem canonical_writeSpot {s : State} {v : View} {gen part : Nat} {lanes : List Nat} {agent : Nat} {sp : Spot} {bytes : List Byte}
    {bad : List Nat} (h : Canonical s) : Canonical (writeSpot s v gen part lanes agent sp bytes bad) := by
  unfold writeSpot
  split
  · extract_lets +onlyGivenNames down
    split
    · exact canonical_hostReport h
    · extract_lets +onlyGivenNames s1 s2
      have hs2 : Canonical s2 := canonical_foldl (fun _ _ => canonical_poisonPlace) (canonical_writeMem h)
      split
      · exact canonical_recordRelease hs2
      · exact canonical_breakRelease hs2
  · exact canonical_foldl (fun _ _ => canonical_storeWrite) h
  · split
    · exact h
    · exact canonical_modCore (canonical_moveGranule h)
  · exact h

theorem canonical_actLines {s : State} {v : View} {gen part : Nat} {lanes : List Nat} {agent : Nat} {kind : Spot → Bool} {ls : List Line}
    (h : Canonical s) : Canonical (actLines s v gen part lanes agent kind ls).1 := by
  unfold actLines
  refine canonical_foldl_fst ?_ h
  intro a _ h1
  dsimp -zeta only
  extract_lets +onlyGivenNames l reads l1 a1 b c
  have ha1 : Canonical a1 := by
    dsimp only [a1]
    split
    · split
      · exact canonical_ite (canonical_touchPlace h1) (canonical_poisonReport (canonical_touchPlace h1))
      · exact h1
    · exact h1
  have hb : Canonical b := canonical_ite (canonical_writeSpot ha1) ha1
  have hc : Canonical c := by
    dsimp only [c]
    split
    · exact canonical_l1Drop hb
    · exact hb
  exact hc

/-! ## Tile transfers (R279) -/

theorem canonical_actTransfer {s : State} {kind : Spot → Bool} {id : Nat} (h : Canonical s) : Canonical (actTransfer s kind id) := by
  unfold actTransfer
  split
  · exact h
  · split
    · exact h
    · exact canonical_modReq (canonical_actLines h)

theorem canonical_actTransfers {s : State} {kind : Spot → Bool} (h : Canonical s) : Canonical (actTransfers s kind) :=
  canonical_foldl (fun _ _ => canonical_actTransfer) h

theorem canonical_restartTransfer {s : State} {id : Nat} (h : Canonical s) : Canonical (restartTransfer s id) := by
  unfold restartTransfer
  split
  · exact h
  · split
    · exact h
    · exact canonical_schedule (canonical_modReq h)

/-! ## Checks and delays -/

theorem canonical_storesPre {s : State} {v : View} (h : Canonical s) : CanonicalPre (storesPre s v) := by
  unfold storesPre
  split
  · exact canonicalPre_some (canonical_wait h)
  · exact canonicalPre_none

theorem canonical_leaseWait {s : State} {v : View} (h : Canonical s) : CanonicalOption (leaseWait s v) := by
  unfold leaseWait
  extract_lets +onlyGivenNames k
  split
  · exact canonical_none
  · split
    · exact canonical_some h
    · exact canonical_some (canonical_modCore h)

theorem canonical_takeLease {s : State} {v : View} (h : Canonical s) : Canonical (takeLease s v) := canonical_modCore h

theorem canonical_leaseAtGbar {s : State} {core : Nat} (h : Canonical s) : Canonical (leaseAtGbar s core) := by
  unfold leaseAtGbar
  extract_lets +onlyGivenNames k s1
  have hs1 : Canonical s1 := canonical_ite h (canonical_modCore h)
  split
  · exact hs1
  · exact canonical_ite (canonical_modCore hs1) hs1

theorem canonical_arrayPre {tiles : State → View → List Nat} {lease : Bool} {s : State} {v : View} (h : Canonical s) :
    CanonicalPre (arrayPre tiles lease s v) := by
  unfold arrayPre
  split
  · exact canonicalPre_some (canonical_wait h)
  · split
    next s1 waits =>
      have h1 : Canonical s1 := by
        split at waits
        · exact canonical_leaseWait h _ waits
        · nomatch waits
      exact canonicalPre_some (canonical_wait h1)
    next =>
      split
      next d open_ => exact canonicalPre_some (canonical_storesPre h _ open_)
      next =>
        intro d mixed
        obtain ⟨t, -, rfl⟩ := Option.map_eq_some_iff.mp mixed
        exact canonical_trap

/-! ## Granule order (R306) and the speculative region (R323) -/

theorem canonical_markGranules {s : State} {core : Nat} {phys : List Nat} {write : Bool} {at_ : Nat} (h : Canonical s) :
    Canonical (markGranules s core phys write at_) := canonical_modCore h

theorem canonical_touchRange {s : State} {v : View} {g n : Nat} (h : Canonical s) : Canonical (touchRange s v g n) := by
  unfold touchRange
  split
  · exact h
  · exact canonical_modWarp h

theorem canonical_markPairs {s : State} {core : Nat} {l : List (Nat × Nat)} {at_ : Nat} (h : Canonical s) :
    Canonical (markPairs s core l at_) := canonical_markGranules (canonical_markGranules h)

/-! ## Work under way -/

theorem canonical_modMat {s : State} {id : Nat} {f : MatOp → MatOp} (h : Canonical s) : Canonical (modMat s id f) := h

theorem canonical_sendMat {s : State} {v : View} {slot : Nat} {i : Instr} {m : MatOp} (h : Canonical s) : Canonical (sendMat s v slot i m) := by
  unfold sendMat
  extract_lets +onlyGivenNames id s1
  have hs1 : Canonical s1 := canonical_sendReq h
  exact hs1

theorem canonical_endMat {s : State} {id : Nat} {m : MatOp} {flags : Nat} {items : List (Nat × Nat × Word)} (h : Canonical s) :
    Canonical (endMat s id m flags items) := by
  unfold endMat
  extract_lets +onlyGivenNames s1
  have hs1 : Canonical s1 := h
  split
  · exact hs1
  · exact canonical_returnReq (canonical_modReq hs1)

/-! ## Stationary loads (R309) -/

theorem canonical_onTiles {tiles : State → View → List Nat} {go : State → View → State} {s : State} {v : View}
    (hgo : ∀ a u, Canonical a → Canonical (go a u)) (h : Canonical s) : Canonical (onTiles tiles go s v) :=
  hgo _ _ (canonical_foldl (fun _ _ => canonical_acquireLanes) h)

theorem canonical_startMld {l w g a b : Nat} {s : State} {v : View} (h : Canonical s) : Canonical (startMld l w g a b s v) :=
  canonical_sendMat (canonical_modCore (canonical_takeLease h))

theorem canonical_execMld {l w : BitVec 2} {g : BitVec 3} {b a : BitVec 6} {sw : BitVec 1} {s : State} (h : Canonical s) :
    Answers (execMld l w g b a sw s) :=
  canonical_issuePre h (fun _ _ => canonical_arrayPre) fun _ _ => canonical_onTiles fun _ _ => canonical_startMld

theorem canonical_execStationaryLoadComplete {s : State} (h : Canonical s) : Answers (execStationaryLoadComplete s) := by
  unfold execStationaryLoadComplete
  split
  · exact answers_next h
  · exact answers_next (canonical_endMat (canonical_ite h (canonical_modPlanes h)))

/-! ## Swaps (R310) -/

theorem canonical_startMswp {l : Nat} {s : State} {v : View} (h : Canonical s) : Canonical (startMswp l s v) :=
  canonical_sendMat (canonical_modCore (canonical_takeLease h))

theorem canonical_execMswp {l : BitVec 2} {sw : BitVec 1} {s : State} (h : Canonical s) : Answers (execMswp l sw s) :=
  canonical_issuePre h (fun _ _ => canonical_arrayPre) fun _ _ => canonical_onTiles fun _ _ => canonical_startMswp

theorem canonical_startMswpRel {l : Nat} {s : State} {v : View} (h : Canonical s) : Canonical (startMswpRel l s v) := by
  unfold startMswpRel
  split
  · exact canonical_sendMat h
  · exact canonical_sendMat h

theorem canonical_execMswpRel {l : BitVec 2} {sw : BitVec 1} {s : State} (h : Canonical s) : Answers (execMswpRel l sw s) :=
  canonical_issuePre h (fun _ _ => canonical_arrayPre) fun _ _ => canonical_onTiles fun _ _ => canonical_startMswpRel

/-! ## Streams (R311, R312) -/

theorem canonical_startMst {l w g a b : Nat} {s : State} {v : View} (h : Canonical s) : Canonical (startMst l w g a b s v) :=
  canonical_sendMat (canonical_touchRange (canonical_markPairs (canonical_modCore (canonical_takeLease h))))

theorem canonical_execMst {l w : BitVec 2} {g b a : BitVec 6} {sw : BitVec 1} {s : State} (h : Canonical s) :
    Answers (execMst l w g b a sw s) :=
  canonical_issuePre h (fun _ _ => canonical_arrayPre) fun _ _ => canonical_onTiles fun _ _ => canonical_startMst

theorem canonical_addRow {s : State} {m : MatOp} {r : Nat} (h : Canonical s) : Canonical (addRow s m r).1 :=
  canonical_foldl_fst (fun _ _ => canonical_moveGranule) h

theorem canonical_finishStream {s : State} {id : Nat} {m0 : MatOp} (h : Canonical s) : Canonical (finishStream s id m0) := by
  unfold finishStream
  dsimp -zeta only
  split
  · refine canonical_endMat ?_
    split
    · exact h
    · exact canonical_addRow h
  · refine canonical_modMat ?_
    refine canonical_endMat ?_
    split
    · exact h
    · exact canonical_addRow h

/-! ## Drains (R313) -/

theorem canonical_startMdr {l w g a b : Nat} {s : State} {v : View} (h : Canonical s) : Canonical (startMdr l w g a b s v) :=
  canonical_sendMat (canonical_markGranules (canonical_modCore h))

theorem canonical_execMdr {l w : BitVec 2} {g b a : BitVec 6} {sw : BitVec 1} {s : State} (h : Canonical s) :
    Answers (execMdr l w g b a sw s) := by
  unfold execMdr
  refine canonical_issuePre h (fun _ _ => canonical_arrayPre) ?_
  exact fun _ _ => canonical_plain (fun _ _ => canonical_onTiles (fun _ _ => canonical_startMdr))

theorem canonical_finishDrain {s : State} {id : Nat} {m0 : MatOp} (h : Canonical s) : Canonical (finishDrain s id m0) := by
  unfold finishDrain
  extract_lets +onlyGivenNames m
  split
  · exact canonical_endMat h
  · dsimp -zeta only
    refine canonical_endMat ?_
    refine canonical_foldl_fst ?_ h
    intro a _ h1
    dsimp -zeta only
    exact canonical_storeWrite h1

theorem canonical_execDrainComplete {s : State} (h : Canonical s) : Answers (execDrainComplete s) := by
  unfold execDrainComplete
  split
  · exact answers_next h
  · exact answers_next (canonical_finishDrain h)

/-! ## Row statistics (R325, R326) -/

theorem canonical_startStat {op l c i d : Nat} {s : State} {v : View} (h : Canonical s) : Canonical (startStat op l c i d s v) :=
  canonical_sendMat (canonical_ite (canonical_touchRange (canonical_markPairs h)) (canonical_markGranules h))

theorem canonical_rowStatOp {i : Instr} {op l id c d : Nat} {s : State} (h : Canonical s) : Answers (rowStatOp i op l id c d s) := by
  unfold rowStatOp
  refine canonical_issuePre h (fun _ _ => canonical_arrayPre) ?_
  exact fun _ _ => canonical_plain (fun _ _ => canonical_onTiles (fun _ _ => canonical_startStat))

theorem canonical_execRmax {l : BitVec 2} {i : BitVec 8} {c : BitVec 1} {d : BitVec 7} {sw : BitVec 1} {s : State} (h : Canonical s) :
    Answers (execRmax l i c d sw s) := canonical_rowStatOp h

theorem canonical_execRsum {l : BitVec 2} {i : BitVec 8} {c : BitVec 1} {d : BitVec 7} {sw : BitVec 1} {s : State} (h : Canonical s) :
    Answers (execRsum l i c d sw s) := canonical_rowStatOp h

theorem canonical_execRvar {l : BitVec 2} {i : BitVec 8} {c : BitVec 1} {d : BitVec 7} {sw : BitVec 1} {s : State} (h : Canonical s) :
    Answers (execRvar l i c d sw s) := canonical_rowStatOp h

theorem canonical_execRsmx {l : BitVec 2} {i : BitVec 8} {c : BitVec 1} {d : BitVec 7} {sw : BitVec 1} {s : State} (h : Canonical s) :
    Answers (execRsmx l i c d sw s) := canonical_rowStatOp h

theorem canonical_execRnorm {l : BitVec 2} {i : BitVec 8} {c : BitVec 1} {d : BitVec 7} {sw : BitVec 1} {s : State} (h : Canonical s) :
    Answers (execRnorm l i c d sw s) := canonical_rowStatOp h

/-! ## What the array does within a cycle -/

theorem canonical_actStream {s : State} {m0 : MatOp} (h : Canonical s) : Canonical (actStream s m0).1 := by
  unfold actStream
  extract_lets +onlyGivenNames m r
  split
  · exact h
  · exact canonical_addRow h

theorem canonical_actColumn {s : State} {m : MatOp} (h : Canonical s) : Canonical (actColumn s m).1 := by
  unfold actColumn
  split
  · exact h
  · extract_lets +onlyGivenNames i word mine
    split
    · split
      · exact canonical_moveGranule h
      · exact h
    · exact canonical_foldl (fun _ _ => canonical_storeWrite) h

theorem canonical_actStat {s : State} {m : MatOp} (h : Canonical s) : Canonical (actStat s m).1 := canonical_actColumn h

theorem canonical_finishStat {s : State} {id : Nat} {m : MatOp} (h : Canonical s) : Canonical (finishStat s id m) := by
  unfold finishStat
  split
  · exact canonical_endMat h
  · exact canonical_endMat (canonical_actColumn h)

theorem canonical_execRowStatComplete {s : State} (h : Canonical s) : Answers (execRowStatComplete s) := by
  unfold execRowStatComplete
  split
  · exact answers_next h
  · exact answers_next (canonical_finishStat h)

/-! ## Instruction caches (R113) -/

theorem canonical_icacheSet {s : State} {cache : Nat} {l : List ILine} (h : Canonical s) : Canonical (icacheSet s cache l) :=
  canonical_ite (canonical_modCore h) (canonical_modPool h)

theorem canonical_icacheUse {s : State} {cache gen va : Nat} (h : Canonical s) : Canonical (icacheUse s cache gen va) :=
  canonical_icacheSet (canonical_freshNat h)

theorem canonical_icachePut {s : State} {cache : Nat} {x : ILine} (h : Canonical s) : Canonical (icachePut s cache x) := canonical_icacheSet h

theorem canonical_requestFill {s : State} {cache gen part va : Nat} {x : Xlate} (h : Canonical s) :
    Canonical (requestFill s cache gen part va x) := by
  unfold requestFill
  extract_lets +onlyGivenNames line p
  dsimp -zeta only
  extract_lets +onlyGivenNames ends pa
  split
  · exact canonical_freshNat (canonical_takeLost h)
  · refine canonical_schedule ?_
    exact canonical_touchPlace (canonical_freshNat (canonical_takeLost h))

theorem canonical_releaseFills {s : State} (h : Canonical s) : Canonical (releaseFills s) := by
  unfold releaseFills
  refine canonical_foldl ?_ h
  intro a _ h1
  exact canonical_schedule h1

theorem canonical_landFill {s : State} {id : Nat} (h : Canonical s) : Canonical (landFill s id) := by
  unfold landFill
  split
  · exact h
  · split
    · exact h
    · exact canonical_icachePut (canonical_freshNat h)

theorem canonical_execIcacheFillLand {s : State} (h : Canonical s) : Answers (execIcacheFillLand s) := by
  unfold execIcacheFillLand
  split
  · exact answers_next (canonical_landFill h)
  · exact answers_next h

/-! ## Demand fetch (R114, R424, R443, R444) -/

theorem canonical_fetchTrap {s : State} {v : View} {reason at_ : Nat} (h : Canonical s) : Canonical (fetchTrap s v reason at_) := by
  unfold fetchTrap
  extract_lets +onlyGivenNames s1 c s2
  have hs1 : Canonical s1 := h
  exact canonical_trapNow (canonical_ite (canonical_icacheSet hs1) hs1)

theorem canonical_demandFetch {s : State} {g : Gid} (h : Canonical s) : Canonical (demandFetch s g) := by
  unfold demandFetch
  split
  · exact h
  · extract_lets gen lines fwd
    split
    · exact canonical_setPc h
    · clear_value lines
      split
      · exact h
      · exact canonical_fetchTrap h
      · refine canonical_delayTo (canonical_foldl (fun a line ha => ?_) h)
        dsimp only
        split
        · exact canonical_requestFill ha
        · split
          · exact ha
          · exact canonical_startWalk ha
        · exact ha

theorem canonical_execDemandFetch {s : State} (h : Canonical s) : Answers (execDemandFetch s) := by
  unfold execDemandFetch
  split
  · exact answers_next (canonical_demandFetch h)
  · exact answers_next h

/-! ## `pfi` (R115, R444) -/

theorem canonical_hintFill {s : State} {cache gen part va : Nat} {x : Xlate} (h : Canonical s) : Canonical (hintFill s cache gen part va x) :=
  canonical_ite h (canonical_requestFill h)

theorem canonical_doPfi {a : Nat} {s : State} {v : View} (h : Canonical s) : Canonical (doPfi a s v) := by
  unfold doPfi
  refine canonical_foldl ?_ h
  intro a1 _ h1
  split
  · exact h1
  · split
    · exact canonical_hintFill h1
    · exact canonical_startWalk h1

/-! ## Walks and page requests (R333, R416, R419) -/

theorem canonical_endWalk {s : State} {id : Nat} (h : Canonical s) : Canonical (endWalk s id) := by
  unfold endWalk
  split
  · exact h
  · split
    · exact h
    · split
      · exact canonical_schedule h
      · extract_lets +onlyGivenNames s1
        have hs1 : Canonical s1 := h
        split
        · exact canonical_ite h hs1
        · split
          · split
            · exact canonical_freshNat hs1
            · exact h
            · exact hs1
          · extract_lets +onlyGivenNames s2 unit
            have hs2 : Canonical s2 := canonical_installXlate hs1
            split
            · exact canonical_hintFill hs2
            · exact canonical_hintPiece hs2
            · exact canonical_hintPiece hs2
            · exact hs2

theorem canonical_execTranslationWalkEnd {s : State} (h : Canonical s) : Answers (execTranslationWalkEnd s) := by
  unfold execTranslationWalkEnd
  split
  · exact answers_next (canonical_endWalk h)
  · exact answers_next h

theorem canonical_installHost {s : State} {q : PageReq} (h : Canonical s) : Canonical (installHost s q) := by
  unfold installHost
  split
  · exact canonical_ite (canonical_installXlate h) (canonical_installXlate h)
  · exact h

theorem canonical_giveAgent {s : State} {id : Nat} {q : PageReq} (h : Canonical s) : Canonical (giveAgent s id q) := by
  unfold giveAgent
  extract_lets +onlyGivenNames s1
  have hs1 : Canonical s1 := h
  split
  · exact hs1
  · exact hs1

theorem canonical_atsAnswer {s : State} {id : Nat} {ok : Bool} (h : Canonical s) : Canonical (atsAnswer s id ok) := by
  unfold atsAnswer
  split
  · exact h
  · split
    · exact h
    · exact canonical_ite (canonical_ite (canonical_giveAgent h) h) (canonical_ite (canonical_installHost h) h)

theorem canonical_execAtsTranslationCompletion {s : State} (h : Canonical s) : Answers (execAtsTranslationCompletion s) := by
  unfold execAtsTranslationCompletion
  split
  · exact answers_next (canonical_atsAnswer h)
  · exact answers_next h

theorem canonical_unholdLanes {s : State} {c w : Nat} {lanes : BitVec 32} (h : Canonical s) : Canonical (unholdLanes s c w lanes) := by
  unfold unholdLanes
  split
  · exact h
  · extract_lets +onlyGivenNames hit s1
    have hs1 : Canonical s1 := canonical_modWarp h
    split
    · exact hs1
    · split
      · exact hs1
      · split
        · exact canonical_pathEmpty hs1
        · exact canonical_swapPaths hs1
        · exact hs1

theorem canonical_pageResponse {s : State} {id : Nat} {ok : Bool} (h : Canonical s) : Canonical (pageResponse s id ok) := by
  unfold pageResponse
  split
  · exact h
  · split
    · exact canonical_ite h (canonical_ite (canonical_giveAgent h) h)
    · split
      · exact h
      · extract_lets +onlyGivenNames s1 open_
        have hs1 : Canonical s1 := canonical_ite (canonical_installHost h) h
        exact canonical_ite hs1 (canonical_unholdLanes hs1)

theorem canonical_execPageRequestResponse {s : State} (h : Canonical s) : Answers (execPageRequestResponse s) := by
  unfold execPageRequestResponse
  split
  · exact answers_next (canonical_pageResponse h)
  · exact answers_next h

/-! ## An encoding that is no instruction (R394) -/

theorem canonical_raiseIll {s : State} {g : Gid} {enc : Nat} (h : Canonical s) : Canonical (raiseIll s g enc) := by
  unfold raiseIll
  split
  · exact h
  · split
    next s1 stops => exact canonicalArrival_error (canonical_faultArrival h) stops
    next s1 v1 goes => exact canonical_trapNow (canonicalArrival_ok (canonical_faultArrival h) goes)

theorem canonical_execIllegalEncoding {s : State} (h : Canonical s) : Answers (execIllegalEncoding s) := by
  unfold execIllegalEncoding
  split
  · exact answers_next (canonical_raiseIll h)
  · exact answers_next h

theorem canonical_dropLines {s : State} {part : Nat} {hit : ILine → Bool} (h : Canonical s) : Canonical (dropLines s part hit) := h

theorem canonical_rewritePcs {s : State} {part : Nat} {f : Pc → Pc} (h : Canonical s) : Canonical (rewritePcs s part f) := h

theorem canonical_activateMove {s : State} {part src dst len : Nat} (h : Canonical s) : Canonical (activateMove s part src dst len) := by
  unfold activateMove
  split
  · exact h
  · exact canonical_rewritePcs (canonical_dropLines (canonical_modFe h))

/-! ## `omld` -/

theorem canonical_execOmld {a : BitVec 6} {o : BitVec 4} {sw : BitVec 1} {s : State} (h : Canonical s) : Answers (execOmld a o sw s) := by
  unfold execOmld
  refine canonical_issue h ?_
  intro a1 _ h1
  exact canonical_lowAccess h1 (fun _ _ h2 => canonical_done (canonical_doLoad h2))

/-! ## Elastic requests (R111, R315) -/

theorem canonical_openReq {s : State} {q : Req} (h : Canonical s) : Canonical (openReq s q).1 := by
  unfold openReq
  dsimp -zeta only
  extract_lets +onlyGivenNames s2
  have hs2 : Canonical s2 := by
    dsimp only [s2]
    split
    · exact canonical_slotAdd (canonical_freshNat h)
    · exact canonical_freshNat h
  exact hs2

theorem canonical_decideElastic {s : State} {id kd status : Nat} (h : Canonical s) : Canonical (decideElastic s id kd status) :=
  canonical_schedule (canonical_modReq h)

theorem canonical_startAccget {l w g b : Nat} {s : State} {v : View} (h : Canonical s) : Canonical (startAccget l w g b s v) := by
  unfold startAccget
  extract_lets +onlyGivenNames n
  dsimp -zeta only
  split
  · exact canonical_decideElastic (canonical_grantGranules (canonical_openReq h))
  · exact canonical_decideElastic (canonical_openReq h)

theorem canonical_execAccget {l w : BitVec 2} {g b : BitVec 6} {sw : BitVec 1} {s : State} (h : Canonical s) :
    Answers (execAccget l w g b sw s) := by
  unfold execAccget
  refine canonical_issuePre h (fun _ _ => canonical_storesPre) ?_
  exact fun _ _ => canonical_plain (fun _ _ => canonical_startAccget)

theorem canonical_startAccgetW {l w g b : Nat} {s : State} {v : View} (h : Canonical s) : Canonical (startAccgetW l w g b s v) := by
  unfold startAccgetW
  dsimp -zeta only
  exact canonical_modCore (canonical_openReq h)

theorem canonical_execAccgetW {l w : BitVec 2} {g b : BitVec 6} {sw : BitVec 1} {s : State} (h : Canonical s) :
    Answers (execAccgetW l w g b sw s) := by
  unfold execAccgetW
  refine canonical_issuePre h (fun _ _ => canonical_storesPre) ?_
  exact fun _ _ => canonical_plain (fun _ _ => canonical_startAccgetW)

theorem canonical_elasticDone {s : State} {core : Nat} {e : ElReq} {status : Nat} (h : Canonical s) :
    Canonical (elasticDone s core e status) := by
  unfold elasticDone
  extract_lets +onlyGivenNames s1 s2
  have hs1 : Canonical s1 := canonical_modCore h
  exact canonical_decideElastic (canonical_ite (canonical_grantGranules hs1) hs1)

theorem canonical_execElasticGrant {s : State} (h : Canonical s) : Answers (execElasticGrant s) := by
  unfold execElasticGrant
  split
  · refine answers_next ?_
    split
    · exact canonical_elasticDone h
    · exact h
  · exact answers_next h

theorem canonical_execElasticRefuse {s : State} (h : Canonical s) : Answers (execElasticRefuse s) := by
  unfold execElasticRefuse
  split
  · refine answers_next ?_
    split
    · exact canonical_elasticDone h
    · exact h
  · exact answers_next h

/-! ## `accput`, `accz` (R316) -/

theorem canonical_startAccput {l w g : Nat} {s : State} {v : View} (h : Canonical s) : Canonical (startAccput l w g s v) :=
  canonical_sendMat (canonical_modUnit h)

theorem canonical_execAccput {l w : BitVec 2} {g : BitVec 6} {sw : BitVec 1} {s : State} (h : Canonical s) : Answers (execAccput l w g sw s) := by
  unfold execAccput
  refine canonical_issuePre h (fun _ _ => canonical_storesPre) ?_
  exact fun _ _ => canonical_plain (fun _ _ => canonical_startAccput)

theorem canonical_startAccz {l w g : Nat} {s : State} {v : View} (h : Canonical s) : Canonical (startAccz l w g s v) :=
  canonical_sendMat (canonical_touchRange (canonical_foldl (fun _ _ => canonical_markPairs) h))

theorem canonical_execAccz {l w : BitVec 2} {g : BitVec 6} {sw : BitVec 1} {s : State} (h : Canonical s) : Answers (execAccz l w g sw s) := by
  unfold execAccz
  refine canonical_issuePre h (fun _ _ => canonical_storesPre) ?_
  exact fun _ _ => canonical_plain (fun _ _ => canonical_startAccz)

theorem canonical_zeroNow {s : State} {m : MatOp} (h : Canonical s) : Canonical (zeroNow s m) := by
  unfold zeroNow
  split
  · exact h
  · split
    · exact canonical_moveGranule h
    · exact h

/-! ## `accld`, `accst` (R317) -/

theorem canonical_clockDrain {s : State} {v : View} {accs : Accs} {id : Nat} (h : Canonical s) : Canonical (clockDrain s v accs id) := by
  unfold clockDrain
  split
  · exact h
  · extract_lets +onlyGivenNames mates s1 s2
    have hs2 : Canonical s2 := by
      refine canonical_foldl ?_ (canonical_acquire (canonical_releaseLanes h))
      intro a _ h1
      split
      · exact canonical_foldl (fun _ _ h2 => canonical_releaseAt (canonical_dropRels h2)) (canonical_raceCheck h1)
      · exact canonical_clockWrite (canonical_raceCheck h1)
    exact canonical_release hs2

theorem canonical_drainReturned {s : State} {id : Nat} {m : MatOp} (h : Canonical s) : Canonical (drainReturned s id m) := by
  unfold drainReturned
  split
  · exact canonical_ite (canonical_modRun h) h
  · exact h

theorem canonical_startGranules {load : Bool} {l w g r a : Nat} {s : State} {v : View} (h : Canonical s) :
    Canonical (startGranules load l w g r a s v) := by
  unfold startGranules
  extract_lets +onlyGivenNames accs n pairs free t0
  dsimp -zeta only
  extract_lets +onlyGivenNames -merge -useContext -underBinder ordinal forced lines live due s2 s3 id _ s4 s5 acq
  have hs2 : Canonical s2 := canonical_modCore (canonical_drawLost (canonical_ite (canonical_clockLoads h) h))
  have hs3 : Canonical s3 := canonical_ite (canonical_touchRange (canonical_markPairs hs2)) (canonical_markGranules hs2)
  have hs4 : Canonical s4 := canonical_sendMat hs3
  exact canonical_countRequest (canonical_modReq (canonical_ite hs4 (canonical_clockDrain hs4)))

theorem canonical_copyTargets {s : State} {m : MatOp} (h : Canonical s) : Canonical (copyTargets s m).1 :=
  canonical_foldl (fun _ _ h1 => canonical_ite h1 (canonical_moveGranule h1)) h

theorem canonical_actGranules {s : State} {id : Nat} {m : MatOp} (h : Canonical s) : Canonical (actGranules s id m) := by
  unfold actGranules
  extract_lets +onlyGivenNames writes
  dsimp -zeta only
  extract_lets +onlyGivenNames m2 v
  refine canonical_modMat ?_
  refine canonical_actLines ?_
  split
  · exact canonical_copyTargets h
  · exact h

theorem canonical_finishGranules {s : State} {id : Nat} {m : MatOp} (h : Canonical s) : Canonical (finishGranules s id m) := by
  unfold finishGranules
  split
  · exact canonical_endMat (canonical_zeroNow h)
  · split
    · exact canonical_schedule h
    · split
      · extract_lets +onlyGivenNames s1 m1 out s2
        have hs1 : Canonical s1 := canonical_actGranules h
        exact canonical_endMat (canonical_modReq (canonical_ite (canonical_drainReturned hs1) hs1))
      · exact canonical_endMat h

theorem canonical_execAccld {l w : BitVec 2} {g : BitVec 6} {r : BitVec 5} {a : BitVec 6} {sw : BitVec 1} {s : State} (h : Canonical s) :
    Answers (execAccld l w g r a sw s) := by
  unfold execAccld
  refine canonical_issuePre h (fun _ _ => canonical_storesPre) ?_
  exact fun _ _ h1 => canonical_lowAccess h1 (fun _ _ h2 => canonical_done (canonical_startGranules h2))

theorem canonical_execAccst {l w : BitVec 2} {g : BitVec 6} {r : BitVec 5} {a : BitVec 6} {sw : BitVec 1} {s : State} (h : Canonical s) :
    Answers (execAccst l w g r a sw s) := by
  unfold execAccst
  refine canonical_issuePre h (fun _ _ => canonical_storesPre) ?_
  exact fun _ _ h1 => canonical_lowAccess h1 (fun _ _ h2 => canonical_done (canonical_startGranules h2))

/-! ## The speculative region (R323, R324) -/

theorem canonical_execSbeg {w : BitVec 2} {g h : BitVec 6} {sw : BitVec 1} {s : State} (hs : Canonical s) : Answers (execSbeg w g h sw s) := by
  unfold execSbeg
  refine canonical_issue hs ?_
  intro a _ h1
  refine canonical_plain ?_ h1
  intro a1 _ h2
  exact canonical_pendWrite (canonical_modWarp h2)

theorem canonical_shadowPre {s : State} {v : View} (h : Canonical s) : CanonicalPre (shadowPre s v) := by
  unfold shadowPre
  extract_lets +onlyGivenNames sh
  split
  · exact canonicalPre_some (canonical_wait h)
  · exact canonicalPre_none

theorem canonical_closeRegion {s : State} {v : View} (h : Canonical s) : Canonical (closeRegion s v) := canonical_pendWrite (canonical_modWarp h)

theorem canonical_testHeld {s : State} {v : View} {l : List HeldStore} (h : Canonical s) : CanonicalPre (testHeld s v l) := by
  induction l with
  | nil => exact canonicalPre_none
  | cons held r ih =>
    unfold testHeld
    extract_lets accs
    split
    next => exact ih
    next s1 tested => exact canonicalPre_some (canonical_wait (canonicalTested_wait (canonical_testAccess h) tested))
    next => exact canonicalPre_some (canonical_wait (canonical_requestPages h))
    next s1 t tested => exact canonicalPre_some (canonical_left (canonical_trapNow (canonicalTested_trap (canonical_testAccess h) tested)))

theorem canonical_commit {s : State} {v : View} (h : Canonical s) : CanonicalDid (commit s v) := by
  unfold commit
  split
  · exact h
  · split
    next d held => exact canonical_testHeld h d held
    next =>
      extract_lets s1 out
      have hs1 : Canonical s1 := canonical_modUnit h
      exact canonical_closeRegion (show Canonical { s1 with toStore := s1.toStore ++ out } from hs1)

theorem canonical_execSdis {sw : BitVec 1} {s : State} (h : Canonical s) : Answers (execSdis sw s) := by
  unfold execSdis
  refine canonical_issuePre h (fun _ _ => canonical_shadowPre) ?_
  intro a _ h1
  refine canonical_plain ?_ h1
  intro a1 _ h2
  split
  · exact canonical_pendWrite (canonical_modWarp (canonical_dropRegion h2))
  · exact h2

theorem canonical_storeHeld {s : State} (h : Canonical s) : Canonical (storeHeld s) := by
  unfold storeHeld
  refine canonical_foldl ?_ h
  intro a _ h1
  exact canonical_storeAt h1

/-! ## Returns (R178, R270) -/

theorem canonical_returnSubject {s : State} {p : Req → Bool} {kinds : List Nat} (h : Canonical s) : Canonical (returnSubject s p kinds) := by
  unfold returnSubject
  split
  · exact canonical_finishGranules h
  · split
    · exact canonical_ite (canonical_returnDue h) h
    · exact h

/-! ## Issue -/

theorem canonical_drawQuanta {s : State} {m : MatOp} {req : Nat} (h : Canonical s) : Canonical (drawQuanta s m req).2 := by
  unfold drawQuanta
  extract_lets +onlyGivenNames l
  split
  · exact h
  · extract_lets +onlyGivenNames asks
    split
    · exact h
    · exact h

theorem canonical_planSteps {m : MatOp} {n : Nat} {s : State} {req after floor : Nat} {qs : List Nat} {asks : List (Nat × Nat)}
    {t : StepTimes} (h : Canonical s) : Canonical (planSteps m n s req after floor qs asks t).1 := by
  induction n generalizing s req after floor qs asks t with
  | zero => exact h
  | succ n ih => exact ih (canonical_drawQuanta h)

theorem canonical_reserveSteps {s : State} {core : Nat} {pairs : List (Nat × Nat)} {steps : Nat} {t : StepTimes} {fmt : Nat}
    (h : Canonical s) : Canonical (reserveSteps s core pairs steps t fmt) := canonical_markPairs (canonical_modCore h)

theorem canonical_requestStep {s : State} {id at_ : Nat} {m : MatOp} (h : Canonical s) : Canonical (requestStep s id at_ m) :=
  canonical_schedule (canonical_modMat h)

theorem canonical_startTmm {red : Bool} {l w g a b : Nat} {s : State} {v : View} (h : Canonical s) : Canonical (startTmm red l w g a b s v) := by
  unfold startTmm
  dsimp -zeta only
  extract_lets +onlyGivenNames x ma mb n k f blocks req after floor _ m0 s2
  have hs2 : Canonical s2 := canonical_reserveSteps (canonical_planSteps (canonical_takeLease h))
  generalize opened : openReq (touchRange s2 v g (x.mb * n)) (Req.mk' s v (some l) (.matrix 0 []) 0) = p
  have hp : Canonical p.1 := opened ▸ canonical_openReq (canonical_touchRange hs2)
  exact canonical_requestStep (canonical_of_mem (s := p.1) rfl hp)

theorem canonical_execTmm {l w : BitVec 2} {g b a : BitVec 6} {sw : BitVec 1} {s : State} (h : Canonical s) :
    Answers (execTmm l w g b a sw s) :=
  canonical_issuePre h (fun _ _ => canonical_arrayPre) fun _ _ => canonical_onTiles fun _ _ => canonical_startTmm

theorem canonical_execTmmRed {l w : BitVec 2} {g b a : BitVec 6} {sw : BitVec 1} {s : State} (h : Canonical s) :
    Answers (execTmmRed l w g b a sw s) :=
  canonical_issuePre h (fun _ _ => canonical_arrayPre) fun _ _ => canonical_onTiles fun _ _ => canonical_startTmm

/-! ## Steps -/

theorem canonical_refuseStep {s : State} {id : Nat} {m : MatOp} (h : Canonical s) : Canonical (refuseStep s id m) := by
  unfold refuseStep
  extract_lets +onlyGivenNames s1 n
  have hs1 : Canonical s1 := by
    dsimp only [s1]
    split
    · exact canonical_modWarp h
    · exact h
  exact canonical_schedule (canonical_modMat hs1)

theorem canonical_execBudgetRetry {s : State} (h : Canonical s) : Answers (execBudgetRetry s) := by
  unfold execBudgetRetry
  split
  · exact answers_next (canonical_ite (canonical_refuseStep h) h)
  · exact answers_next h

theorem canonical_addPart {s : State} {due : Nat} {i : Instr} {m : MatOp} (h : Canonical s) : Canonical (addPart s due i m) :=
  canonical_schedule (canonical_freshNat h)

theorem canonical_closeLehr {s : State} {id : Nat} (h : Canonical s) : Canonical (closeLehr s id) := by
  unfold closeLehr
  split
  · exact h
  · split
    · exact h
    · exact canonical_ite (canonical_endMat h) (canonical_ite (canonical_modMat h) (canonical_endMat h))

theorem canonical_runStep {s : State} {id : Nat} {m : MatOp} (h : Canonical s) : Canonical (runStep s id m) := by
  unfold runStep
  extract_lets +onlyGivenNames t s0 part sc s1 s2 s3 m1 s4
  have hs3 : Canonical s3 := canonical_addPart (canonical_addPart (canonical_addPart (canonical_ite h (canonical_capture h))))
  have hs4 : Canonical s4 := canonical_modMat hs3
  exact canonical_ite (canonical_requestStep hs4) hs4

theorem canonical_execLehrStep {s : State} (h : Canonical s) : Answers (execLehrStep s) := by
  unfold execLehrStep
  split
  · exact answers_next (canonical_ite h (canonical_ite h (canonical_runStep h)))
  · exact answers_next h

theorem canonical_unplan {s : State} {id : Nat} (h : Canonical s) : Canonical (unplan s id) := by
  unfold unplan
  split
  · exact h
  · split
    · exact h
    · exact canonical_modMat (canonical_modCore h)

theorem canonical_tellLehr {s : State} {m : MatOp} {bad : Option Nat} (h : Canonical s) : Canonical (tellLehr s m bad) := by
  unfold tellLehr
  split
  · split
    · split
      · exact h
      · exact canonical_modMat (canonical_unplan h)
    · exact h
  · exact h

/-! ## Ends of swaps and streams -/

theorem canonical_swapNow {s : State} {m : MatOp} (h : Canonical s) : Canonical (swapNow s m) := by
  unfold swapNow
  split
  · exact canonical_modPlanes h
  · exact canonical_ite h (canonical_ite (canonical_modCtx h) (canonical_modCore h))

theorem canonical_execPlaneSwap {s : State} (h : Canonical s) : Answers (execPlaneSwap s) := by
  unfold execPlaneSwap
  split
  · exact answers_next h
  · split
    · exact answers_next (canonical_endMat (canonical_swapNow h))
    · split
      · exact answers_next (canonical_closeLehr h)
      · exact answers_next (canonical_closeLehr (canonical_endMat (canonical_swapNow h)))

theorem canonical_execStreamComplete {s : State} (h : Canonical s) : Answers (execStreamComplete s) := by
  unfold execStreamComplete
  split
  · exact answers_next h
  · split
    · exact answers_next (canonical_finishStream h)
    · exact answers_next (canonical_closeLehr (canonical_finishStream h))

/-! ## The array within a cycle -/

theorem canonical_actMat {s : State} {id : Nat} (h : Canonical s) : Canonical (actMat s id) := by
  unfold actMat
  split
  · exact h
  · split
    · exact canonical_tellLehr (canonical_modMat h)
    · exact canonical_tellLehr (canonical_modMat (canonical_actStream h))
    · exact canonical_modMat (canonical_actStat h)
    · exact canonical_zeroNow h
    · exact canonical_actGranules h
    · exact h

theorem canonical_actArray {s : State} (h : Canonical s) : Canonical (actArray s) := canonical_foldl (fun _ _ => canonical_actMat) h

theorem canonical_resumeLehrs {s : State} {u at_ : Nat} (h : Canonical s) : Canonical (resumeLehrs s u at_) := by
  unfold resumeLehrs
  refine canonical_foldl ?_ h
  intro a _ h1
  dsimp -zeta only
  split
  · exact h1
  · exact canonical_requestStep (canonical_modMat (canonical_reserveSteps (canonical_planSteps h1)))

/-! ## Engines and control words (Table 10.4) -/

theorem canonical_modEngine {s : State} {e : Nat} {f : Engine → Engine} (h : Canonical s) : Canonical (modEngine s e f) := h

/-! ## Issue -/

theorem canonical_enqueue {s : State} {c : Cmd} (h : Canonical s) : Canonical (enqueue s c).1 := canonical_modEngine (canonical_freshNat h)

theorem canonical_cmdPre {op ka kb kc : Nat} {s : State} {v : View} (h : Canonical s) : CanonicalPre (cmdPre op ka kb kc s v) := by
  unfold cmdPre
  extract_lets +onlyGivenNames c t
  split
  · exact canonicalPre_some (canonical_wait h)
  · split
    · exact canonicalPre_some (canonical_wait h)
    · exact canonicalPre_none

theorem canonical_queueCmd {op l ka kb kc : Nat} {s0 : State} {v : View} (hs0 : Canonical s0) : Canonical (queueCmd op l ka kb kc s0 v) := by
  unfold queueCmd
  extract_lets +onlyGivenNames c s
  dsimp -zeta only
  extract_lets +onlyGivenNames s2 s3
  have hs2 : Canonical s2 := canonical_slotAdd (canonical_enqueue (canonical_ite (canonical_acquireLanes hs0) hs0))
  have hs3 : Canonical s3 := by
    dsimp only [s3]
    split
    · exact canonical_slotAdd hs2
    · exact hs2
  exact canonical_ite (canonical_foldl (fun _ _ => canonical_release) hs3) hs3

theorem canonical_engineCmd {i : Instr} {op l ka kb kc : Nat} {s : State} (h : Canonical s) : Answers (engineCmd i op l ka kb kc s) := by
  unfold engineCmd
  refine canonical_issuePre h (fun _ _ => canonical_cmdPre) ?_
  exact fun _ _ => canonical_plain (fun _ _ => canonical_queueCmd)

theorem canonical_execCollSet {l : BitVec 2} {c b a : BitVec 6} {sw : BitVec 1} {s : State} (h : Canonical s) :
    Answers (execCollSet l c b a sw s) := canonical_engineCmd h

theorem canonical_execCollRun {l : BitVec 2} {c b a : BitVec 6} {sw : BitVec 1} {s : State} (h : Canonical s) :
    Answers (execCollRun l c b a sw s) := canonical_engineCmd h

theorem canonical_execCollStat {l : BitVec 2} {c a : BitVec 6} {sw : BitVec 1} {s : State} (h : Canonical s) :
    Answers (execCollStat l c a sw s) := by
  unfold execCollStat
  refine canonical_issue h ?_
  intro a1 _ h1
  refine canonical_plain ?_ h1
  intro a2 _ h2
  exact canonical_sendReq h2

/-! ## Plans of lines (R284) -/

theorem canonical_clockEngine {s : State} {id : Nat} {c : Cmd} {key n ord : Nat} (h : Canonical s) :
    Canonical (clockEngine s id c key n ord) := by
  unfold clockEngine
  split
  · exact canonical_clockWrite h
  · exact canonical_foldl (fun _ _ h1 => canonical_releaseAt (canonical_dropRels h1)) h

theorem canonical_clockPlan {s : State} {id : Nat} {c : Cmd} {ls : List Line} (h : Canonical s) : Canonical (clockPlan s id c ls) := by
  unfold clockPlan
  split
  · exact h
  · extract_lets +onlyGivenNames lane look
    have hlook : ∀ (a : State) (sp : Spot) (n kind : ℕ), Canonical a → Canonical (look a sp n kind) := by
      intro a _ _ _ h1
      dsimp -zeta only [look]
      split
      · extract_lets +onlyGivenNames b
        have hb : Canonical b := canonical_raceCheck h1
        exact canonical_ite (canonical_clockEngine hb) hb
      · exact h1
    exact canonical_foldl (fun _ _ h1 => hlook _ _ _ _ (hlook _ _ _ _ h1)) h

/-! ## Ends of commands -/

theorem canonical_slotBack {s : State} {c : Cmd} {v : View} {slot : Nat} {t : Option Trap} (h : Canonical s) :
    Canonical (slotBack s c v slot t) := by
  unfold slotBack
  split
  · exact canonical_keepReturn h
  · extract_lets +onlyGivenNames s1
    have hs1 : Canonical s1 := canonical_slotSub h
    split
    · exact canonical_addDeferred hs1
    · exact hs1

theorem canonical_returnCmd {s : State} {id : Nat} {c : Cmd} {t : Option Trap} (h : Canonical s) : Canonical (returnCmd s id c t) := by
  unfold returnCmd
  extract_lets +onlyGivenNames s1
  have hs1 : Canonical s1 := h
  split
  · extract_lets +onlyGivenNames s2
    have hs2 : Canonical s2 := by
      dsimp only [s2]
      split
      · exact canonical_modCq hs1
      · exact hs1
    exact canonical_schedule hs2
  · split
    · exact hs1
    · extract_lets +onlyGivenNames s2 s3
      have hs2 : Canonical s2 := canonical_slotBack hs1
      have hs3 : Canonical s3 := by
        dsimp only [s3]
        split
        · exact canonical_slotBack hs2
        · exact hs2
      exact canonical_ite (canonical_modRun hs3) hs3

theorem canonical_flagCmd {s : State} {id : Nat} {c : Cmd} (h : Canonical s) : Canonical (flagCmd s id c) :=
  canonical_returnCmd (canonical_ite (canonical_setEventFlag h) h)

theorem canonical_completionWrite {s : State} {id : Nat} {c : Cmd} (h : Canonical s) : Canonical (completionWrite s id c) := by
  unfold completionWrite
  extract_lets +onlyGivenNames cwa
  split
  · exact canonical_returnCmd h
  · extract_lets +onlyGivenNames bytes s1 late
    have hs1 : Canonical s1 := by
      dsimp only [s1]
      split
      · split
        · exact canonical_clockEngine (canonical_writeSpot h)
        · exact canonical_foldl (fun _ _ h1 => canonical_releaseAt (canonical_dropRels h1)) (canonical_recordRelease (canonical_writeSpot h))
      · exact h
    exact canonical_modCmd hs1

/-! ## Follow-on commands (R287, R406) -/

theorem canonical_followOp {w : Nat} {op : ArrayOp} (found : followOp w = some op) : ∀ s v, Canonical s → Canonical (op.go s v) := by
  have given {p : Prop} [Decidable p] {x : ArrayOp} (keeps : ∀ s v, Canonical s → Canonical (x.go s v)) (e : (if p then some x else none) = some op) :
      ∀ s v, Canonical s → Canonical (op.go s v) := by
    obtain ⟨-, same⟩ := Option.ite_none_right_eq_some.mp e
    exact Option.some.inj same ▸ keeps
  unfold followOp at found
  split at found
  · nomatch found
  · split at found
    · exact given (fun _ _ => canonical_startMld) found
    · exact given (fun _ _ => canonical_startMswp) found
    · exact given (fun _ _ => canonical_startMst) found
    · exact given (fun _ _ => canonical_startTmm) found
    · exact given (fun _ _ => canonical_startTmm) found
    · nomatch found

theorem canonical_followTrap {s : State} {id : Nat} {c : Cmd} {t : Trap} (h : Canonical s) : Canonical (followTrap s id c t) := by
  unfold followTrap
  extract_lets +onlyGivenNames s1
  have hs1 : Canonical s1 := h
  split
  · exact hs1
  · exact canonical_addDeferred (canonical_slotSub hs1)

theorem canonical_tryFollow {s : State} {id : Nat} {c : Cmd} (h : Canonical s) : Canonical (tryFollow s id c) := by
  unfold tryFollow
  split
  next op v0 follows owned =>
    extract_lets +onlyGivenNames v
    split
    · exact canonical_followTrap h
    · extract_lets k
      split
      · exact h
      · split
        · exact canonical_beginFirstUse h
        · split
          next => exact canonical_followTrap h
          next s1 _ waits => exact (canonical_arrayPre h _ waits : CanonicalDid (.wait s1 _))
          next => exact h
          next => exact canonical_onTiles (canonical_followOp follows) (canonical_slotSub h)
  next => exact h

theorem canonical_startFollow {s : State} {id : Nat} {c : Cmd} (h : Canonical s) : Canonical (startFollow s id c) := by
  unfold startFollow
  split
  · exact h
  · split
    · exact h
    · dsimp only
      generalize drawn : freshNat (modCmd s id _) = p
      have hp : Canonical p.2 := drawn ▸ canonical_freshNat (canonical_modCmd h)
      exact canonical_tryFollow (canonical_of_mem (s := p.2) rfl hp)

/-! ## The end of a transfer (R285) -/

theorem canonical_releaseCmd {s : State} {id : Nat} {c : Cmd} (h : Canonical s) : Canonical (releaseCmd s id c) :=
  canonical_ite (canonical_release h) h

theorem canonical_endTransfer {s : State} {id : Nat} {c : Cmd} (h : Canonical s) : Canonical (endTransfer s id c) := by
  unfold endTransfer
  extract_lets +onlyGivenNames s1
  have hs1 : Canonical s1 := by
    dsimp only [s1]
    split
    · exact h
    · exact canonical_setTile (canonical_setTileState (canonical_release h))
  split
  · exact canonical_returnCmd hs1
  · extract_lets +onlyGivenNames s2 d s3
    have hs2 : Canonical s2 := canonical_startFollow (canonical_releaseCmd hs1)
    have hs3 : Canonical s3 := canonical_ite (canonical_activateMove hs2) hs2
    exact canonical_ite (canonical_completionWrite hs3) (canonical_flagCmd hs3)

theorem canonical_execEngineTransferEnd {s : State} (h : Canonical s) : Answers (execEngineTransferEnd s) := by
  unfold execEngineTransferEnd
  split
  · split
    · exact answers_next (canonical_ite (canonical_endTransfer h) h)
    · exact answers_next h
  · exact answers_next h

theorem canonical_execCompletionWriteAck {s : State} (h : Canonical s) : Answers (execCompletionWriteAck s) := by
  unfold execCompletionWriteAck
  split
  · split
    · exact answers_next (canonical_ite (canonical_flagCmd h) h)
    · exact answers_next h
  · exact answers_next h

/-! ## Refusal (Table 16.5) and the start of reads -/

theorem canonical_dequeue {s : State} {id : Nat} {c : Cmd} {last : Option Nat} (h : Canonical s) : Canonical (dequeue s id c last) :=
  canonical_modEngine h

theorem canonical_beginTransfer {s0 : State} {id : Nat} {c0 : Cmd} (hs0 : Canonical s0) : Canonical (beginTransfer s0 id c0) := by
  unfold beginTransfer
  dsimp -zeta only
  extract_lets +onlyGivenNames c list count jobs p s1 s2 d
  have hs1 : Canonical s1 := by
    dsimp only [s1]
    split
    · exact canonical_setTileState (canonical_takeLost hs0)
    · exact canonical_takeLost hs0
  exact canonical_dequeue (canonical_modCmd (canonical_clockPlan (canonical_ite (canonical_acquire hs1) hs1)))

theorem canonical_planRows {s : State} {id : Nat} {c : Cmd} (h : Canonical s) : Canonical (planRows s id c) := by
  unfold planRows
  extract_lets +onlyGivenNames ix p first old lines next d s1
  have hs1 : Canonical s1 := canonical_modCmd (canonical_clockPlan h)
  exact canonical_ite hs1 (canonical_modEngine hs1)

/-! ## What an engine does within a cycle -/

theorem canonical_putOff {s : State} {id : Nat} {c : Cmd} (h : Canonical s) : Canonical (putOff s id c) := by
  unfold putOff
  extract_lets +onlyGivenNames ls later
  split
  · exact h
  · split
    · exact canonical_modEngine (canonical_modCmd h)
    · exact canonical_ite (canonical_modEngine (canonical_modCmd h)) h

theorem canonical_restart {s : State} {id : Nat} (h : Canonical s) : Canonical (restart s id) := by
  unfold restart
  split
  · exact h
  · split
    · exact h
    · exact canonical_modEngine (canonical_modCmd h)

theorem canonical_actStores {s : State} {id : Nat} (h : Canonical s) : Canonical (actStores s id) := by
  unfold actStores
  split
  · exact h
  · exact canonical_ite h (canonical_modCmd (canonical_actLines h))

theorem canonical_actCmd {s : State} {id : Nat} (h : Canonical s) : Canonical (actCmd s id) := by
  unfold actCmd
  split
  · exact h
  · split
    · exact canonical_tryFollow h
    · exact canonical_ite h (canonical_putOff (canonical_modCmd (canonical_actLines h)))

/-! ## Communicators -/

theorem canonical_modComm {s : State} {key : Nat} {f : Comm → Comm} (h : Canonical s) : Canonical (modComm s key f) := h

theorem canonical_refuseCmd {s : State} {id : Nat} {c : Cmd} {reason : Nat} (h : Canonical s) : Canonical (refuseCmd s id c reason) :=
  canonical_returnCmd h

/-! ## Set-up (R289, R439) -/

theorem canonical_checkSet {s : State} {key : Nat} (h : Canonical s) : Canonical (checkSet s key) := by
  unfold checkSet
  extract_lets +onlyGivenNames com
  split
  · exact h
  · extract_lets +onlyGivenNames ms
    split
    · exact h
    · exact canonical_schedule (canonical_modCmd h)

theorem canonical_beginSet {s1 : State} {id : Nat} {c0 : Cmd} (hs1 : Canonical s1) : Canonical (beginSet s1 id c0) := by
  unfold beginSet
  dsimp -zeta only
  extract_lets +onlyGivenNames c p s0
  have hs0 : Canonical s0 := canonical_dequeue (canonical_takeLost hs1)
  split
  · extract_lets +onlyGivenNames com s11
    have hs11 : Canonical s11 := canonical_modComm (canonical_modCmd hs0)
    split
    · exact canonical_schedule (canonical_modCmd hs11)
    · exact canonical_checkSet (canonical_schedule hs11)
  · exact canonical_modCmd hs0

theorem canonical_endSet {s : State} {key id st : Nat} {c : Cmd} (h : Canonical s) : Canonical (endSet s key id st c) := by
  unfold endSet
  extract_lets +onlyGivenNames com wrong
  dsimp -zeta only
  extract_lets +onlyGivenNames clear
  split
  · exact canonical_refuseCmd (canonical_modComm h)
  · extract_lets +onlyGivenNames s1 fn s2
    have hs1 : Canonical s1 := canonical_modComm h
    have hs2 : Canonical s2 := canonical_ite hs1 (canonical_postReport hs1)
    split
    · exact canonical_modCmd hs2
    · exact canonical_modCmd (canonical_clockPlan hs2)

theorem canonical_execCollSetResult {s : State} (h : Canonical s) : Answers (execCollSetResult s) := by
  unfold execCollSetResult
  split
  · extract_lets +onlyGivenNames key
    split
    · exact answers_next (canonical_ite (canonical_endSet h) h)
    · exact answers_next h
  · exact answers_next h

theorem canonical_execCollSetMemberTimeout {s : State} (h : Canonical s) : Answers (execCollSetMemberTimeout s) := by
  unfold execCollSetMemberTimeout
  split
  · split
    · exact answers_next (canonical_ite (canonical_ite (canonical_schedule h) (canonical_endSet h)) h)
    · exact answers_next h
  · exact answers_next h

/-! ## Runs (R290, R411) -/

theorem canonical_captureRuns {s : State} {c : Cmd} {com : Comm} {others : List (Nat × Nat × Nat × List Nat)} (h : Canonical s) :
    Canonical (captureRuns s c com others) := by
  unfold captureRuns
  split
  · exact h
  · split
    · exact h
    · extract_lets +onlyGivenNames w data n s1
      have hs1 : Canonical s1 := canonical_capture h
      exact canonical_ite (canonical_modLaunch hs1) (canonical_captureData hs1)

theorem canonical_meetRun {s : State} {key id : Nat} {c : Cmd} {others : List (Nat × Nat × Nat × List Nat)} (h : Canonical s) :
    Canonical (meetRun s key id c others) := by
  unfold meetRun
  extract_lets +onlyGivenNames com
  dsimp -zeta only
  extract_lets +onlyGivenNames latest due stop
  have hstop : ∀ (reason : ℕ), Canonical (stop reason) := by
    intro _
    exact canonical_schedule (canonical_modCmd h)
  split
  · exact hstop _
  · split
    · exact hstop _
    · exact canonical_schedule (canonical_schedule (canonical_captureRuns (canonical_modCmd h)))

theorem canonical_pumpRuns {n : Nat} {s : State} {key : Nat} (h : Canonical s) : Canonical (pumpRuns n s key) := by
  induction n generalizing s with
  | zero => exact h
  | succ n ih =>
    unfold pumpRuns
    extract_lets +onlyGivenNames com
    split
    · exact h
    · extract_lets +onlyGivenNames cmd heads forced
      split
      · exact h
      · extract_lets s1
        have hs1 : Canonical s1 := canonical_modComm h
        refine ih ?_
        clear_value cmd
        split
        · exact canonical_meetRun hs1
        · exact hs1

theorem canonical_pumpComm {s : State} {key : Nat} (h : Canonical s) : Canonical (pumpComm s key) := canonical_pumpRuns h

theorem canonical_skipRun {s : State} {key : Nat} (h : Canonical s) : Canonical (skipRun s key) := canonical_pumpComm (canonical_modComm h)

theorem canonical_beginRun {s0 : State} {id : Nat} {c0 : Cmd} (hs0 : Canonical s0) : Canonical (beginRun s0 id c0) := by
  unfold beginRun
  dsimp -zeta only
  extract_lets +onlyGivenNames c com n p ordinal s1 s2 s3
  have hs1 : Canonical s1 := by
    dsimp only [s1]
    split
    · exact canonical_modWarp (canonical_takeLost hs0)
    · exact canonical_takeLost hs0
  have hs3 : Canonical s3 := canonical_dequeue (canonical_clockPlan (canonical_ite (canonical_acquire hs1) hs1))
  split
  · exact canonical_skipRun (canonical_modCmd hs3)
  · exact canonical_modComm (canonical_modCmd hs3)

theorem canonical_sourceRead {s : State} {id : Nat} {c : Cmd} (h : Canonical s) : Canonical (sourceRead s id c) :=
  canonical_pumpComm (canonical_modCmd h)

theorem canonical_execFabricReduce {s : State} (h : Canonical s) : Answers (execFabricReduce s) := by
  unfold execFabricReduce
  split
  · split
    · exact answers_next (canonical_ite (canonical_modCmd h) h)
    · exact answers_next h
  · exact answers_next h

theorem canonical_putResultLines {s : State} {id : Nat} {c : Cmd} {bytes : List Byte} (h : Canonical s) :
    Canonical (putResultLines s id c bytes).1 := by
  unfold putResultLines
  refine canonical_foldl_fst ?_ h
  intro a _ h1
  dsimp -zeta only
  split
  · exact h1
  · split
    · exact h1
    · exact canonical_writeSpot (canonical_clockPlan h1)

theorem canonical_endReduction {s : State} {id : Nat} {c : Cmd} {t : Option Trap} (h : Canonical s) : Canonical (endReduction s id c t) := by
  unfold endReduction
  extract_lets +onlyGivenNames s1 s2
  have hs2 : Canonical s2 := (canonical_ite (canonical_releaseCmd h) h)
  split
  · exact hs2
  · exact canonical_endMat hs2

theorem canonical_endRun {s : State} {id : Nat} {c : Cmd} (h : Canonical s) : Canonical (endRun s id c) := by
  unfold endRun
  extract_lets +onlyGivenNames com
  dsimp -zeta only
  split
  · refine canonical_endReduction ?_
    split
    · exact h
    · exact canonical_putResultLines (canonical_modComm h)
  · refine canonical_endTransfer ?_
    refine canonical_modCmd ?_
    split
    · exact h
    · exact canonical_putResultLines (canonical_modComm h)

theorem canonical_execCollRunComplete {s : State} (h : Canonical s) : Answers (execCollRunComplete s) := by
  unfold execCollRunComplete
  split
  · split
    · exact answers_next (canonical_ite (canonical_endRun h) h)
    · exact answers_next h
  · exact answers_next h

/-! ## `mdr.red` and the collective part of `tmm.red` (R314, R322) -/

theorem canonical_startMdrRed {l w g a b : Nat} {s : State} {v : View} (h : Canonical s) : Canonical (startMdrRed l w g a b s v) := by
  unfold startMdrRed
  extract_lets +onlyGivenNames phys start s1
  dsimp -zeta only
  generalize opened : openReq s1 _ = p
  have hp : Canonical p.1 := opened ▸ canonical_openReq (canonical_markGranules h)
  exact canonical_of_mem (s := p.1) rfl hp

theorem canonical_execMdrRed {l w : BitVec 2} {g b a : BitVec 6} {sw : BitVec 1} {s : State} (h : Canonical s) :
    Answers (execMdrRed l w g b a sw s) := by
  unfold execMdrRed
  refine canonical_issuePre h (fun _ _ => canonical_storesPre) ?_
  exact fun _ _ => canonical_plain (fun _ _ => canonical_startMdrRed)

theorem canonical_contribute {s : State} {id : Nat} {m : MatOp} (h : Canonical s) : Canonical (contribute s id m) := by
  unfold contribute
  split
  · exact h
  · extract_lets +onlyGivenNames m1
    split
    · exact canonical_endMat h
    · exact canonical_pumpComm (canonical_modComm (canonical_freshNat h))

/-! ## The head of a queue (R284, R406, R411) -/

theorem canonical_beginCmd {s : State} {id : Nat} {c : Cmd} (h : Canonical s) : Canonical (beginCmd s id c) := by
  unfold beginCmd
  split
  · exact canonical_beginSet h
  · exact canonical_beginRun h
  · exact canonical_beginTransfer h

theorem canonical_refuseHead {s : State} {id : Nat} {c : Cmd} {reason : Nat} (h : Canonical s) : Canonical (refuseHead s id c reason) := by
  unfold refuseHead
  extract_lets +onlyGivenNames s1 w
  have hs1 : Canonical s1 := canonical_refuseCmd (canonical_dequeue h)
  exact canonical_ite (canonical_modComm hs1) (canonical_ite (canonical_skipRun hs1) hs1)

theorem canonical_mixHead {s : State} {id : Nat} {c : Cmd} (h : Canonical s) : CanonicalOption (mixHead s id c) := by
  unfold mixHead
  split
  · exact canonical_none
  · split
    · extract_lets +onlyGivenNames ref
      split
      · exact canonical_some (canonical_skipRun (canonical_returnCmd (canonical_dequeue h)))
      · exact canonical_none
    · exact canonical_none

theorem canonical_markMix {s : State} {c : Cmd} (h : Canonical s) : Canonical (markMix s c) :=
  canonical_ite (canonical_foldl (fun _ _ => canonical_modThr) h) h

theorem canonical_decideHead {s : State} {id : Nat} {c : Cmd} (h : Canonical s) : Canonical (decideHead s id c) := by
  unfold decideHead
  split
  · split
    · exact canonical_refuseHead h
    · split
      next s1 mixed => exact canonical_mixHead h s1 mixed
      next =>
        extract_lets s1
        have hs1 : Canonical s1 := canonical_markMix h
        split
        · exact canonical_beginCmd hs1
        · exact canonical_modCmd hs1
  · split
    · exact canonical_beginCmd h
    · exact h

theorem canonical_execEngineReadsBegin {s : State} (h : Canonical s) : Answers (execEngineReadsBegin s) := by
  unfold execEngineReadsBegin
  split
  · split
    · exact answers_next (canonical_decideHead h)
    · exact answers_next h
  · exact answers_next h

/-! ## Fabric messages (R363, R438) -/

theorem canonical_addCount {s : State} {off : Nat} (h : Canonical s) : Canonical (addCount s off) := h

theorem canonical_serveRemote {s : State} {addr : Nat} {bytes : List Byte} (h : Canonical s) : Canonical (serveRemote s addr bytes) :=
  canonical_ite (canonical_l2Touch h) (canonical_breakRelease (canonical_l2Touch (canonical_writePlace h)))

theorem canonical_atomicRemote {s : State} {addr op : Nat} {flt wide : Bool} {cmp val : Nat} (h : Canonical s) :
    Canonical (atomicRemote s addr op flt wide cmp val) := by
  unfold atomicRemote
  extract_lets +onlyGivenNames p n old
  split
  · exact canonical_serveRemote h
  · exact canonical_l2Touch (canonical_writePlace h)

theorem canonical_loseReply {s : State} {req : Nat} (h : Canonical s) : Canonical (loseReply s req) := by
  unfold loseReply
  split
  · exact h
  · exact h

theorem canonical_receiveMessage {s : State} {m : FabricMsg} (h : Canonical s) : Canonical (receiveMessage s m) := by
  unfold receiveMessage
  split
  · extract_lets +onlyGivenNames s1
    have hs1 : Canonical s1 := canonical_addCount h
    split
    · exact canonical_loseReply hs1
    · exact hs1
  · split
    · exact canonical_serveRemote h
    · exact canonical_serveRemote h
    · exact canonical_atomicRemote h
    · exact canonical_returnDue h
    · exact canonical_checkSet (canonical_modComm h)
    · exact canonical_pumpComm (canonical_modComm h)
    · exact canonical_ite (canonical_pumpComm (canonical_modComm h)) (canonical_checkSet (canonical_modComm h))

theorem canonical_execFabricMessageReceive {s : State} (h : Canonical s) : Answers (execFabricMessageReceive s) := by
  unfold execFabricMessageReceive
  split
  · exact answers_next (canonical_receiveMessage h)
  · exact answers_next h

/-! ## What engines do within a cycle -/

theorem canonical_listDone {s : State} {id : Nat} (h : Canonical s) : Canonical (listDone s id) := by
  unfold listDone
  split
  · exact h
  · exact canonical_ite h (canonical_sourceRead h)

theorem canonical_rowsDue {s : State} {id : Nat} (h : Canonical s) : Canonical (rowsDue s id) := by
  unfold rowsDue
  split
  · exact h
  · exact canonical_ite (canonical_planRows h) h

theorem canonical_engineStores {s : State} (h : Canonical s) : Canonical (engineStores s) := canonical_foldl (fun _ _ => canonical_actStores) h

theorem canonical_actEngines {s : State} (h : Canonical s) : Canonical (actEngines s) := by
  unfold actEngines
  extract_lets +onlyGivenNames s1
  have hs1 : Canonical s1 := canonical_foldl (fun _ _ => canonical_contribute) h
  exact canonical_foldl (fun _ _ h1 => canonical_listDone (canonical_actCmd (canonical_rowsDue h1))) hs1

/-! ## Shapes -/

theorem canonical_fpBinary {s : State} {v : View} {d a b : Nat} {f : Nat → Nat → Nat → Nat → Flagged Nat} (h : Canonical s) :
    Canonical (fpBinary s v d a b f) := canonical_writeFloat h

theorem canonical_fpFused {s : State} {v : View} {d a b : Nat} {negProd negAdd : Bool} (h : Canonical s) :
    Canonical (fpFused s v d a b negProd negAdd) := canonical_writeFloat h

theorem canonical_fpUnary {s : State} {v : View} {d a : Nat} {f : Nat → Nat → Nat → Flagged Nat} (h : Canonical s) :
    Canonical (fpUnary s v d a f) := canonical_writeFloat h

theorem canonical_packed {s : State} {v : View} {lat d a b : Nat} {f : Nat → Nat → Nat → Nat → Nat → Flagged Nat} (h : Canonical s) :
    Canonical (packed s v lat d a b f) := canonical_writeFloat h

theorem canonical_cvtTrap {dt st op a : Nat} {s : State} {v : View} (h : Canonical s) : CanonicalPre (cvtTrap dt st op a s v) := by
  unfold cvtTrap
  extract_lets +onlyGivenNames bad
  split
  · exact canonicalPre_some canonical_trap
  · exact canonicalPre_none

/-! ## The special-function pipe (R242) -/

theorem canonical_sfuTake {s : State} {v : View} (h : Canonical s) : Canonical (sfuTake s v) := canonical_ite h (canonical_modCore h)

theorem canonical_sfuWait {s : State} {v : View} (h : Canonical s) : CanonicalPre (sfuWait s v) := by
  unfold sfuWait
  split
  · exact canonicalPre_some (canonical_wait h)
  · exact canonicalPre_none

theorem canonical_sfuOp {d : Nat} {f : State → View → Nat → Flagged Nat} {s : State} {v : View} (h : Canonical s) :
    CanonicalDid (sfuOp d f s v) := canonical_done (canonical_sfuTake (canonical_writeFloat h))

/-! ## FP32 (R251-R253) -/

theorem canonical_execFcmp {b a : BitVec 7} {c : BitVec 4} {p : BitVec 3} {sw : BitVec 1} {s : State} (h : Canonical s) :
    Answers (execFcmp b a c p sw s) := by
  unfold execFcmp
  refine canonical_issue h ?_
  intro a1 _ h1
  refine canonical_plain ?_ h1
  intro a2 _ h2
  exact canonical_writeFlags (canonical_writeP h2)

/-! ## Conversion (R255-R257) -/

theorem canonical_execCvt {t u : BitVec 4} {o : BitVec 2} {a d : BitVec 7} {sw : BitVec 1} {s : State} (h : Canonical s) :
    Answers (execCvt t u o a d sw s) := by
  unfold execCvt
  refine canonical_issuePre h (fun _ _ => canonical_cvtTrap) ?_
  exact fun _ _ => canonical_plain (fun _ _ => canonical_writeFloat)

/-! ## Shapes -/

theorem canonical_unary {s : State} {v : View} {d a : Nat} {f : Word → Word} (h : Canonical s) : Canonical (unary s v d a f) := canonical_writeLanes h

theorem canonical_binary {s : State} {v : View} {d a b : Nat} {f : Word → Word → Word} (h : Canonical s) : Canonical (binary s v d a b f) :=
  canonical_writeLanes h

theorem canonical_compare {s : State} {v : View} {p a b : Nat} {f : Word → Word → Bool} (h : Canonical s) :
    Canonical (Machine.compare s v p a b f) := canonical_writeP h

theorem canonical_predOp {s : State} {v : View} {d a b : Nat} {f : Bool → Bool → Bool} (h : Canonical s) : Canonical (predOp s v d a b f) :=
  canonical_writeP h

/-! ## Comparisons, select and predicates (R248, R249) -/

theorem canonical_execIcmpLtn {b a : BitVec 7} {p : BitVec 3} {sw : BitVec 1} {s : State} (h : Canonical s) :
    Answers (execIcmpLtn b a p sw s) := canonical_issue h (fun _ _ => canonical_plain (fun _ _ => canonical_compare))

theorem canonical_execIcmpLen {b a : BitVec 7} {p : BitVec 3} {sw : BitVec 1} {s : State} (h : Canonical s) :
    Answers (execIcmpLen b a p sw s) := canonical_issue h (fun _ _ => canonical_plain (fun _ _ => canonical_compare))

theorem canonical_selPoison {q a d : Nat} {s : State} {v : View} (h : Canonical s) : CanonicalPre (selPoison q a d s v) := by
  unfold selPoison
  split
  · exact canonicalPre_none
  · exact canonicalPre_some canonical_trap

theorem canonical_execSel {q : BitVec 3} {a d : BitVec 7} {sw : BitVec 1} {s : State} (h : Canonical s) : Answers (execSel q a d sw s) := by
  unfold execSel
  refine canonical_issuePre h (fun _ _ => canonical_selPoison) ?_
  exact fun _ _ => canonical_plain (fun _ _ => canonical_writeLanes)

/-! ## Bits (R243, R244) and addresses (R245) -/

theorem canonical_crossPoison {s : State} {v : View} {a : Nat} {src : Nat → Nat} (h : Canonical s) : CanonicalPre (crossPoison s v a src) := by
  unfold crossPoison
  extract_lets +onlyGivenNames bad
  clear_value bad
  split
  · exact canonicalPre_none
  · exact canonicalPre_some canonical_trap

theorem canonical_laneMove {d a : Nat} {src : State → View → Nat → Nat} {s : State} {v : View} (h : Canonical s) :
    CanonicalDid (laneMove d a src s v) := by
  unfold laneMove
  split
  next t poison => exact canonical_crossPoison h t poison
  next => exact canonical_done (canonical_writeLanes h)

theorem canonical_voteWrite {s : State} {v : View} {d n : Nat} (h : Canonical s) : Canonical (voteWrite s v d n) := canonical_writeLanes h

theorem canonical_reduceWrite {s : State} {v : View} {op ty d a : Nat} (h : Canonical s) : Canonical (reduceWrite s v op ty d a) :=
  canonical_writeFloat h

theorem canonical_scanWrite {s : State} {v : View} {ty d a : Nat} {inclusive : Bool} (h : Canonical s) :
    Canonical (scanWrite s v ty d a inclusive) := canonical_writeFloat h

/-! ## Meanings -/

theorem canonical_execLredAdd {t : BitVec 2} {a d : BitVec 7} {sw : BitVec 1} {s : State} (h : Canonical s) :
    Answers (execLredAdd t a d sw s) := canonical_issue h (fun _ _ => canonical_plain (fun _ _ => canonical_reduceWrite))

theorem canonical_execLredMax {t : BitVec 2} {a d : BitVec 7} {sw : BitVec 1} {s : State} (h : Canonical s) :
    Answers (execLredMax t a d sw s) := canonical_issue h (fun _ _ => canonical_plain (fun _ _ => canonical_reduceWrite))

theorem canonical_execLredMin {t : BitVec 2} {a d : BitVec 7} {sw : BitVec 1} {s : State} (h : Canonical s) :
    Answers (execLredMin t a d sw s) := canonical_issue h (fun _ _ => canonical_plain (fun _ _ => canonical_reduceWrite))

theorem canonical_execLscanAddInc {t : BitVec 2} {a d : BitVec 7} {sw : BitVec 1} {s : State} (h : Canonical s) :
    Answers (execLscanAddInc t a d sw s) := canonical_issue h (fun _ _ => canonical_plain (fun _ _ => canonical_scanWrite))

theorem canonical_execLscanAddExc {t : BitVec 2} {a d : BitVec 7} {sw : BitVec 1} {s : State} (h : Canonical s) :
    Answers (execLscanAddExc t a d sw s) := canonical_issue h (fun _ _ => canonical_plain (fun _ _ => canonical_scanWrite))

/-! ## Launch frames (R64, Table 3.2) -/

theorem canonical_refuseFrame {s : State} {l : Nat} {x : Launch} {reason : Nat} (h : Canonical s) : Canonical (refuseFrame s l x reason) :=
  canonical_launchDone (canonical_postReport h)

theorem canonical_determPhase {s : State} {part : Nat} {f : Frame} (h : Canonical s) : Canonical (determPhase s part f) :=
  canonical_ite (canonical_modFe h) h

theorem canonical_takeFrame {s : State} {l : Nat} {x : Launch} (h : Canonical s) : Canonical (takeFrame s l x) := by
  unfold takeFrame
  split
  · exact canonical_refuseFrame h
  · split
    · exact canonical_refuseFrame h
    · exact canonical_modLaunch (canonical_determPhase h)

/-! ## A unit at its start (R65, R66) -/

theorem canonical_setShare {s : State} {f : Frame} {core : Nat} (h : Canonical s) : Canonical (setShare s f core) := by
  unfold setShare
  extract_lets +onlyGivenNames put
  have hput : ∀ (fuse : Bool) (a : State) (c : ℕ), Canonical a → Canonical (put fuse a c) := by
    intro _ a _ h1
    exact canonical_modCore h1
  split
  · exact h
  · exact canonical_ite (canonical_foldl (fun _ _ => hput _ _ _) h) (canonical_ite (hput _ _ _ h) h)

theorem canonical_placeUnit {s : State} {l : Nat} {x : Launch} {f : Frame} {core lid since : Nat} (h : Canonical s) :
    Canonical (placeUnit s l x f core lid since) := by
  unfold placeUnit
  extract_lets +onlyGivenNames s0
  dsimp -zeta only
  split
  · extract_lets +onlyGivenNames unit s2 s3 s4 s5
    have hs2 : Canonical s2 := canonical_modCore (canonical_freshNat (canonical_l1Acquire (canonical_setShare h)))
    have hs3 : Canonical s3 := canonical_grantGranules hs2
    have hs4 : Canonical s4 := canonical_foldl (fun _ _ h1 => canonical_setWarp (canonical_freshNat (canonical_clearBlock h1))) hs3
    exact canonical_modLaunch (canonical_foldl (fun _ _ => canonical_acquire) hs4)
  · exact h

/-! ## What a front end does next -/

theorem canonical_placeNow {s : State} {part : Nat} {x : PlaceAct} (h : Canonical s) : Canonical (placeNow s part x) := by
  unfold placeNow
  split
  · split
    · exact canonical_takeFrame h
    · exact h
  · split
    · exact h
    · split
      · exact h
      · exact canonical_modFe (canonical_capture (canonical_placeUnit h))
  · exact canonical_modCore h
  · exact canonical_foldl (fun _ _ => canonical_modLaunch) h
  · exact canonical_modLaunch h

theorem canonical_execUnitPlace {s : State} (h : Canonical s) : Answers (execUnitPlace s) := by
  unfold execUnitPlace
  split
  · split
    · exact answers_next (canonical_placeNow h)
    · exact answers_next h
  · exact answers_next h

/-! ## Compaction (R102) -/

theorem canonical_doCompact {s : State} {core : Nat} {x : CompactAct} (h : Canonical s) : Canonical (doCompact s core x) := by
  unfold doCompact
  split
  · exact canonical_modCore h
  · exact canonical_modCore h
  · exact canonical_schedule (canonical_modCore h)

theorem canonical_execCompactionMove {s : State} (h : Canonical s) : Answers (execCompactionMove s) := by
  unfold execCompactionMove
  split
  · split
    · exact answers_next (canonical_doCompact h)
    · exact answers_next h
  · exact answers_next h

theorem canonical_endMove {s : State} {core : Nat} (h : Canonical s) : Canonical (endMove s core) := by
  unfold endMove
  split
  · exact h
  · split
    · exact h
    · split
      · exact h
      · extract_lets +onlyGivenNames s1
        have hs1 : Canonical s1 := canonical_modCore h
        split
        · exact hs1
        · exact canonical_modWarp (canonical_modCore hs1)

theorem canonical_execCompactionMoveEnd {s : State} (h : Canonical s) : Answers (execCompactionMoveEnd s) := by
  unfold execCompactionMoveEnd
  split
  · exact answers_next (canonical_endMove h)
  · exact answers_next h

/-! ## Queues (R334-R337) -/

theorem canonical_packetEvent {s : State} {fn q status i : Nat} (h : Canonical s) : Canonical (packetEvent s fn q status i) := canonical_postEvent h

theorem canonical_queueError {s : State} {fn q : Nat} (h : Canonical s) : Canonical (queueError s fn q) :=
  canonical_ite h (canonical_packetEvent (canonical_modCq h))

theorem canonical_writeTail {s : State} {fn q v : Nat} (h : Canonical s) : Canonical (writeTail s fn q v) := by
  unfold writeTail
  split
  · exact h
  · extract_lets +onlyGivenNames s1 c
    have hs1 : Canonical s1 := canonical_modCq h
    exact canonical_ite (canonical_queueError hs1) hs1

theorem canonical_execTailWrite {s : State} (h : Canonical s) : Answers (execTailWrite s) := by
  unfold execTailWrite
  split
  · exact answers_next (canonical_writeTail h)
  · exact answers_next h

/-! ## Taking packets (R336) -/

theorem canonical_takePacket {s : State} {fn q : Nat} (h : Canonical s) : Canonical (takePacket s fn q) := by
  unfold takePacket
  extract_lets +onlyGivenNames c
  split
  · exact canonical_queueError h
  · split
    · exact canonical_queueError h
    · extract_lets +onlyGivenNames bits pk bad s1 s2
      have hs2 : Canonical s2 := canonical_writePlace (canonical_modCq h)
      exact canonical_ite (canonical_schedule hs2) hs2

theorem canonical_execPacketTake {s : State} (h : Canonical s) : Answers (execPacketTake s) := by
  unfold execPacketTake
  split
  · exact answers_next (canonical_ite (canonical_takePacket h) h)
  · exact answers_next h

/-! ## Starting packets (R340, R342) -/

theorem canonical_markStarted {s : State} {fn q i status : Nat} (h : Canonical s) : Canonical (markStarted s fn q i status) := canonical_modCq h

theorem canonical_startedIn {s : State} {fn q i gen : Nat} (h : Canonical s) : Canonical (startedIn s fn q i gen) := canonical_modCq h

theorem canonical_startPacket {row : Instr} {s : State} {act : State → Nat → Nat → Nat → Nat → Packet → State} (h : Canonical s)
    (hact : ∀ (a : State) (a_1 a_2 a_3 a_4 : Nat) (a_5 : Packet), Canonical a → Canonical (act a a_1 a_2 a_3 a_4 a_5)) :
    Canonical (startPacket row s act) := by
  unfold startPacket
  split
  · split
    · split
      · exact h
      · split
        · exact canonical_schedule (canonical_markStarted h)
        · split
          · exact hact _ _ _ _ _ _ (canonical_startedIn (canonical_markStarted h))
          · exact h
    · exact h
  · exact h

theorem canonical_thenDone {f : State → Nat → Nat → Nat → Nat → Packet → State} {s : State} {fn q i gen : Nat} {p : Packet}
    (hf : ∀ (a : State) (a_1 a_2 a_3 a_4 : Nat) (a_5 : Packet), Canonical a → Canonical (f a a_1 a_2 a_3 a_4 a_5)) (h : Canonical s) :
    Canonical (thenDone f s fn q i gen p) := canonical_schedule (hf _ _ _ _ _ _ h)

theorem canonical_joinPhase {s : State} {fn q : Nat} (h : Canonical s) : Canonical (joinPhase s fn q) := canonical_modInst h

theorem canonical_seenDeterm {s : State} {part gen frame : Nat} (h : Canonical s) : Canonical (seenDeterm s part gen frame) := by
  unfold seenDeterm
  split
  · exact canonical_determPhase h
  · exact h

theorem canonical_launchPacket {s : State} {fn q i gen : Nat} {p : Packet} (h : Canonical s) : Canonical (launchPacket s fn q i gen p) := by
  unfold launchPacket
  extract_lets +onlyGivenNames part s1 image push l s2
  have hs2 : Canonical s2 := canonical_joinPhase (canonical_seenDeterm (canonical_pushRecord (canonical_ite (canonical_dropLines h) h)))
  exact canonical_ite (canonical_modLaunch hs2) (canonical_ite (canonical_captureData (canonical_capture hs2)) hs2)

theorem canonical_graphPacket {s : State} {fn q i gen : Nat} {p : Packet} (h : Canonical s) : Canonical (graphPacket s fn q i gen p) := by
  unfold graphPacket
  refine canonical_foldl ?_ (canonical_joinPhase h)
  intro a _ h1
  exact canonical_modCq (canonical_seenDeterm (canonical_pushRecord h1))

theorem canonical_execPktSignalSet {s : State} (h : Canonical s) : Answers (execPktSignalSet s) := by
  unfold execPktSignalSet
  refine answers_next ?_
  exact canonical_startPacket h (fun _ _ _ _ _ _ => canonical_thenDone (fun _ _ _ _ _ _ => canonical_setEventFlag))

theorem canonical_execPktSignalClear {s : State} (h : Canonical s) : Answers (execPktSignalClear s) := by
  unfold execPktSignalClear
  refine answers_next ?_
  exact canonical_startPacket h (fun _ _ _ _ _ _ => canonical_thenDone (fun _ _ _ _ _ _ => canonical_setEventFlag))

theorem canonical_phasePacket {s : State} {fn q i gen : Nat} {p : Packet} (h : Canonical s) : Canonical (phasePacket s fn q i gen p) := by
  unfold phasePacket
  extract_lets +onlyGivenNames part c table live forced k next s1 s2 s3
  have hs3 : Canonical s3 := canonical_modFe (canonical_modCq (canonical_closeInst (canonical_modInst h)))
  exact canonical_foldl (fun _ _ => canonical_capture) hs3

theorem canonical_execPktSignalPhase {s : State} (h : Canonical s) : Answers (execPktSignalPhase s) := by
  unfold execPktSignalPhase
  refine answers_next ?_
  exact canonical_startPacket h (fun _ _ _ _ _ _ => canonical_thenDone (fun _ _ _ _ _ _ => canonical_phasePacket))

theorem canonical_copyPacket {op : Nat} {s : State} {fn q i gen : Nat} {p : Packet} (h : Canonical s) :
    Canonical (copyPacket op s fn q i gen p) := canonical_enqueue h

theorem canonical_cancelPacket {s : State} {fn _q _i _gen : Nat} {p : Packet} (h : Canonical s) : Canonical (cancelPacket s fn _q _i _gen p) :=
  canonical_ite (canonical_cancelHandle h) h

theorem canonical_execPktCancel {s : State} (h : Canonical s) : Answers (execPktCancel s) := by
  unfold execPktCancel
  refine answers_next ?_
  exact canonical_startPacket h (fun _ _ _ _ _ _ => canonical_thenDone (fun _ _ _ _ _ _ => canonical_cancelPacket))

theorem canonical_queryPacket {s : State} {fn q i gen : Nat} {p : Packet} (h : Canonical s) : Canonical (queryPacket s fn q i gen p) := by
  unfold queryPacket
  dsimp only
  split
  next t ok => exact canonical_vwrite h ok
  next => exact canonical_markStarted h

theorem canonical_execPktQuery {s : State} (h : Canonical s) : Answers (execPktQuery s) := by
  unfold execPktQuery
  refine answers_next ?_
  exact canonical_startPacket h (fun _ _ _ _ _ _ => canonical_thenDone (fun _ _ _ _ _ _ => canonical_queryPacket))

/-! ## Completion (R342, R434) -/

theorem canonical_completeWrite {s : State} {gen cwa cwv : Nat} (h : Canonical s) : Canonical (completeWrite s gen cwa cwv) := by
  unfold completeWrite
  split
  next => exact h
  next pl _ =>
    have written : Canonical (writeAs s gen pl (bytesOf 4 cwv)) := canonical_writeAs h
    generalize writeAs s gen pl (bytesOf 4 cwv) = s1 at written
    split
    · split
      · exact h
      · exact written
    · split
      · exact h
      · split
        · exact canonical_of_mem (s := s1) rfl written
        · exact written

theorem canonical_openJob {s : State} {fn q : Nat} (h : Canonical s) : Canonical (openJob s fn q) := by
  unfold openJob
  extract_lets +onlyGivenNames s1 others
  have hs1 : Canonical s1 := canonical_modCq h
  exact hs1

theorem canonical_closeQueue {s : State} {fn q : Nat} (h : Canonical s) : Canonical (closeQueue s fn q) := by
  unfold closeQueue
  extract_lets +onlyGivenNames c
  split
  · exact h
  · split
    · exact canonical_ite (canonical_modCq h) h
    · extract_lets +onlyGivenNames s1 s2
      have hs2 : Canonical s2 := canonical_modCq (canonical_closeInst (canonical_closeInst h))
      exact canonical_ite (canonical_openJob hs2) hs2

theorem canonical_completePacket {s : State} {fn q i : Nat} {p : Packet} {st : Nat} (h : Canonical s) :
    Canonical (completePacket s fn q i p st) := by
  unfold completePacket
  extract_lets +onlyGivenNames part writes s1 s2
  have hs1 : Canonical s1 := by
    dsimp only [s1]
    split
    · exact canonical_ite (canonical_completeWrite h) h
    · exact h
  exact canonical_closeQueue (canonical_modCq (canonical_packetEvent (canonical_ite (canonical_setEventFlag hs1) hs1)))

theorem canonical_execPacketComplete {s : State} (h : Canonical s) : Answers (execPacketComplete s) := by
  unfold execPacketComplete
  split
  · split
    · split
      · exact answers_next h
      · split
        · exact answers_next (canonical_completePacket h)
        · exact answers_next h
    · exact answers_next h
  · exact answers_next h

/-! ## What belongs to a function -/

theorem canonical_noteEvent {s : State} {fn kind : Nat} (h : Canonical s) : Canonical (noteEvent s fn kind) :=
  canonical_postEvent (canonical_freshNat h)

theorem canonical_modFnFe {s : State} {fn : Nat} {f : FrontEnd → FrontEnd} (h : Canonical s) : Canonical (modFnFe s fn f) :=
  canonical_ite (canonical_modFe h) (canonical_modFn h)

/-! ## Event ring (R330, R436) -/

theorem canonical_writeEvrb {s : State} {fn v : Nat} (h : Canonical s) : Canonical (writeEvrb s fn v) := canonical_ite h (canonical_modFn h)

theorem canonical_execEvrbWrite {s : State} (h : Canonical s) : Answers (execEvrbWrite s) := by
  unfold execEvrbWrite
  split
  · exact answers_next (canonical_writeEvrb h)
  · exact answers_next h

/-! ## Invalidation (R124, R333) -/

theorem canonical_dropXlates {s : State} {hit : Xlate → Bool} (h : Canonical s) : Canonical (dropXlates s hit) := h

theorem canonical_beginInv {s : State} {fn : Nat} (h : Canonical s) : Canonical (beginInv s fn) := by
  unfold beginInv
  split
  · exact h
  · exact canonical_modFn (canonical_dropXlates h)

theorem canonical_addInv {s : State} {fn : Nat} {x : Nat × Nat × Nat} (h : Canonical s) : Canonical (addInv s fn x) := by
  unfold addInv
  extract_lets +onlyGivenNames s1
  have hs1 : Canonical s1 := canonical_modFn h
  exact canonical_ite (canonical_beginInv hs1) hs1

theorem canonical_invalidate {s : State} {fn kind pasid : Nat} (h : Canonical s) : Canonical (invalidate s fn kind pasid) :=
  canonical_ite h (canonical_addInv h)

theorem canonical_execInvPage {s : State} (h : Canonical s) : Answers (execInvPage s) := by
  unfold execInvPage
  split
  · exact answers_next (canonical_invalidate h)
  · exact answers_next h

theorem canonical_execInvPasid {s : State} (h : Canonical s) : Answers (execInvPasid s) := by
  unfold execInvPasid
  split
  · exact answers_next (canonical_invalidate h)
  · exact answers_next h

theorem canonical_execInvFunction {s : State} (h : Canonical s) : Answers (execInvFunction s) := by
  unfold execInvFunction
  split
  · exact answers_next (canonical_invalidate h)
  · exact answers_next h

theorem canonical_execAtsInvalidationRequest {s : State} (h : Canonical s) : Answers (execAtsInvalidationRequest s) := by
  unfold execAtsInvalidationRequest
  split
  · exact answers_next (canonical_addInv h)
  · exact answers_next h

theorem canonical_endInv {s : State} {fn : Nat} (h : Canonical s) : Canonical (endInv s fn) := canonical_beginInv (canonical_modFn h)

theorem canonical_execInvalidationDone {s : State} (h : Canonical s) : Answers (execInvalidationDone s) := by
  unfold execInvalidationDone
  split
  · exact answers_next (canonical_ite (canonical_endInv h) h)
  · exact answers_next h

/-! ## Command queues (R334, R335) -/

theorem canonical_enableQueue {s : State} {fn q w : Nat} (h : Canonical s) : Canonical (enableQueue s fn q w) := by
  unfold enableQueue
  extract_lets +onlyGivenNames s1
  have hs1 : Canonical s1 := canonical_modCq h
  exact canonical_ite hs1 (canonical_openJob hs1)

theorem canonical_disableQueue {s : State} {fn q w : Nat} (h : Canonical s) : Canonical (disableQueue s fn q w) :=
  canonical_closeQueue (canonical_modCq h)

theorem canonical_writeCqd {s : State} {fn q w : Nat} (h : Canonical s) : Canonical (writeCqd s fn q w) := by
  unfold writeCqd
  split
  · exact h
  · exact canonical_ite (canonical_enableQueue h) (canonical_ite (canonical_disableQueue h) (canonical_modCq h))

theorem canonical_execCqdEnable {s : State} (h : Canonical s) : Answers (execCqdEnable s) := by
  unfold execCqdEnable
  split
  · exact answers_next (canonical_ite (canonical_writeCqd h) h)
  · exact answers_next h

theorem canonical_execCqdDisable {s : State} (h : Canonical s) : Answers (execCqdDisable s) := by
  unfold execCqdDisable
  split
  · exact answers_next (canonical_ite h (canonical_writeCqd h))
  · exact answers_next h

/-! ## Contexts (R331, R332, R346, R89) -/

theorem canonical_createCtx {s : State} {fn e w : Nat} (h : Canonical s) : Canonical (createCtx s fn e w) := by
  unfold createCtx
  extract_lets +onlyGivenNames put
  have hput : ∀ (t : State) (x : ℕ), Canonical t → Canonical (put t x) := by
    intro a _ h1
    exact canonical_modFn h1
  dsimp -zeta only
  split
  · exact canonical_postEvent (canonical_freshNat (hput _ _ h))
  · extract_lets +onlyGivenNames g keyid c x
    have hx : Canonical x := hput _ _ h
    exact hx

theorem canonical_destroyCtx {s : State} {fn e w : Nat} (h : Canonical s) : Canonical (destroyCtx s fn e w) := by
  unfold destroyCtx
  extract_lets +onlyGivenNames s1
  have hs1 : Canonical s1 := canonical_modFn h
  split
  · exact canonical_modCtx hs1
  · exact hs1

theorem canonical_writeCtx {s : State} {fn e w : Nat} (h : Canonical s) : Canonical (writeCtx s fn e w) := by
  unfold writeCtx
  split
  · exact h
  · split
    · exact canonical_ite h (canonical_destroyCtx h)
    · exact canonical_ite (canonical_createCtx h) (canonical_destroyCtx h)

theorem canonical_execCtxCreate {s : State} (h : Canonical s) : Answers (execCtxCreate s) := by
  unfold execCtxCreate
  split
  · exact answers_next (canonical_ite (canonical_writeCtx h) h)
  · exact answers_next h

theorem canonical_execCtxDestroy {s : State} (h : Canonical s) : Answers (execCtxDestroy s) := by
  unfold execCtxDestroy
  split
  · exact answers_next (canonical_writeCtx h)
  · exact answers_next h

theorem canonical_writeCtxWord {s : State} {fn e j v : Nat} (h : Canonical s) : Canonical (writeCtxWord s fn e j v) := by
  unfold writeCtxWord
  extract_lets +onlyGivenNames x s1
  have hs1 : Canonical s1 := canonical_modFn h
  split
  · exact canonical_ite (canonical_modCtx hs1) hs1
  · exact hs1

theorem canonical_purgeTag {s : State} {g : Nat} (h : Canonical s) : Canonical (purgeTag s g) := by
  unfold purgeTag
  extract_lets +onlyGivenNames s1
  have hs1 : Canonical s1 := canonical_dropXlates h
  exact hs1

theorem canonical_freeCtx {s : State} {g : Nat} (h : Canonical s) : Canonical (freeCtx s g) := by
  unfold freeCtx
  extract_lets +onlyGivenNames x
  have hx : Canonical x := canonical_purgeTag h
  exact hx

theorem canonical_execContextDestroyDone {s : State} (h : Canonical s) : Answers (execContextDestroyDone s) := by
  unfold execContextDestroyDone
  split
  · exact answers_next (canonical_ite (canonical_freeCtx h) h)
  · exact answers_next h

/-! ## Forwarding entries (R118, R360) -/

theorem canonical_removeFwd {s : State} {fn e : Nat} (h : Canonical s) : Canonical (removeFwd s fn e) := by
  unfold removeFwd
  split
  · exact h
  · split
    · exact canonical_ite (canonical_modFnFe h) h
    · exact h

theorem canonical_execFwdRemove {s : State} (h : Canonical s) : Answers (execFwdRemove s) := by
  unfold execFwdRemove
  split
  · exact answers_next (canonical_removeFwd h)
  · exact answers_next h

/-! ## Routes (R361, R362) -/

theorem canonical_writeRoute {s : State} {node v : Nat} (h : Canonical s) : Canonical (writeRoute s node v) := canonical_ite h h

theorem canonical_execRouteWrite {s : State} (h : Canonical s) : Answers (execRouteWrite s) := by
  unfold execRouteWrite
  split
  · exact answers_next (canonical_writeRoute h)
  · exact answers_next h

theorem canonical_applyRoute {s : State} {node : Nat} (h : Canonical s) : Canonical (applyRoute s node) := by
  unfold applyRoute
  split
  · exact h
  · exact h

theorem canonical_execRouteTakeEffect {s : State} (h : Canonical s) : Answers (execRouteTakeEffect s) := by
  unfold execRouteTakeEffect
  split
  · exact answers_next (canonical_ite (canonical_applyRoute h) h)
  · exact answers_next h

/-! ## The mailbox (R348, Table 12.7) -/

theorem canonical_writeMail {s : State} {fn m size v : Nat} (h : Canonical s) : Canonical (writeMail s fn m size v) := by
  unfold writeMail
  extract_lets +onlyGivenNames f bytes
  split
  · exact canonical_ite h (canonical_modFn h)
  · split
    · exact canonical_ite h (canonical_schedule (canonical_modFn h))
    · exact canonical_ite (canonical_modFn h) h

/-! ## Writes of BAR0 (Table 12.1) -/

theorem canonical_writeWord {s : State} {fn a v : Nat} (h : Canonical s) : Canonical (writeWord s fn a v) := by
  unfold writeWord
  extract_lets w
  refine canonical_ite (canonical_writeEvrb h) (canonical_ite (canonical_modFn h) (canonical_ite (canonical_modFn h)
    (canonical_ite (canonical_invalidate h) (canonical_ite h (canonical_ite ?_ (canonical_ite ?_ (canonical_ite ?_ (canonical_ite ?_ h))))))))
  · exact canonical_ite (canonical_writeCqd h) (canonical_modCq h)
  · exact canonical_ite (canonical_ite h (canonical_modFn h)) (canonical_modFn h)
  · exact canonical_ite (canonical_removeFwd h) h
  · exact canonical_ite (canonical_writeCtx h) (canonical_ite (canonical_writeCtxWord h) h)

theorem canonical_hostWrite {s : State} {fn off size v : Nat} (h : Canonical s) : Canonical (hostWrite s fn off size v) := by
  unfold hostWrite
  split
  · exact h
  · split
    · exact canonical_writeMail h
    · split
      · exact canonical_ite (canonical_writeTail h) h
      · exact canonical_ite (canonical_ite (canonical_writeRoute h) h) (canonical_ite (canonical_writeWord h) h)

theorem canonical_execRegisterWrite {s : State} (h : Canonical s) : Answers (execRegisterWrite s) := by
  unfold execRegisterWrite
  split
  · exact answers_next (canonical_hostWrite h)
  · exact answers_next h

/-! ## The stop (R378, R447, R448) -/

theorem canonical_stopGroup {s : State} {g : Gid} (h : Canonical s) : Canonical (stopGroup s g) := by
  unfold stopGroup
  extract_lets +onlyGivenNames s1
  have hs1 : Canonical s1 := by
    dsimp only [s1]
    split
    · exact canonical_landBack h
    · exact h
  split
  · exact canonical_setStatus (canonical_setPc hs1)
  · exact hs1

theorem canonical_stopCmd {s : State} {e : Nat × Cmd} (h : Canonical s) : Canonical (stopCmd s e) := by
  unfold stopCmd
  dsimp -zeta only
  extract_lets +onlyGivenNames queued
  split
  · exact canonical_modCmd h
  · extract_lets +onlyGivenNames s1 s2
    have hs2 : Canonical s2 := (canonical_ite (canonical_dequeue h) h)
    split
    · exact hs2
    · extract_lets +onlyGivenNames s3
      have hs3 : Canonical s3 := canonical_slotSub hs2
      split
      · exact canonical_slotSub hs3
      · exact hs3

theorem canonical_stopLaunch {s : State} {l : Nat} (h : Canonical s) : Canonical (stopLaunch s l) := by
  unfold stopLaunch
  extract_lets +onlyGivenNames s1 s2
  have hs2 : Canonical s2 := canonical_foldl (fun _ _ => canonical_stopGroup) (canonical_modLaunch h)
  exact canonical_foldl (fun _ _ => canonical_stopCmd) hs2

theorem canonical_execFatalStop {s : State} (h : Canonical s) : Answers (execFatalStop s) := by
  unfold execFatalStop
  split
  · exact answers_next (canonical_ite (canonical_stopLaunch h) h)
  · exact answers_next h

/-! ## Writing it (R379, R381, R450, R451) -/

theorem canonical_dumpBytes {s : State} {gen base off : Nat} {bytes : List Byte} (h : Canonical s) :
    Canonical (dumpBytes s gen base off bytes).1 := by
  refine canonical_foldl_fst ?_ h
  intro a _ h1
  split
  · exact h1
  · split
    next u ok => exact canonical_vwrite h1 ok
    next => exact h1

theorem canonical_dumpSection {gen base : Nat} {m : Dumping} {x : Section} (hm : Canonical m.s) : Canonical (dumpSection gen base m x).s :=
  canonical_dumpBytes hm

theorem canonical_writeDump {s : State} {l : Nat} {x : Launch} {f : FatalHalt} (h : Canonical s) : Canonical (writeDump s l x f).1 := by
  unfold writeDump
  extract_lets +onlyGivenNames base
  split
  · exact h
  · extract_lets +onlyGivenNames all m second
    have hm : Canonical m.s := canonical_foldl_dumping (fun _ _ => canonical_dumpSection) h
    dsimp -zeta only
    split
    · exact canonical_dumpBytes hm
    · exact canonical_dumpBytes hm

theorem canonical_dropUnit {s : State} {u : Nat} (h : Canonical s) : Canonical (dropUnit s u) := by
  unfold dropUnit
  split
  · exact h
  · exact canonical_unitDone (canonical_modCore (canonical_dropElastic (canonical_dropBinned (canonical_dropEjected h))))

theorem canonical_endLaunch {s : State} {l status : Nat} (h : Canonical s) : Canonical (endLaunch s l status) :=
  canonical_foldl (fun _ _ => canonical_dropUnit) (canonical_launchDone h)

theorem canonical_dumpLaunch {s : State} {l : Nat} {x : Launch} {f : FatalHalt} (h : Canonical s) : Canonical (dumpLaunch s l x f) :=
  canonical_endLaunch (canonical_postReport (canonical_writeDump h))

theorem canonical_execDumpWrite {s : State} (h : Canonical s) : Answers (execDumpWrite s) := by
  unfold execDumpWrite
  split
  · split
    · split
      · exact answers_next (canonical_ite (canonical_dumpLaunch h) h)
      · exact answers_next h
    · exact answers_next h
  · exact answers_next h

/-! ## Lost requests (R390, R438) -/

theorem canonical_loseRequest {s : State} {id : Nat} (h : Canonical s) : Canonical (loseRequest s id) := by
  unfold loseRequest
  split
  · exact h
  · extract_lets +onlyGivenNames s1 s2
    have hs1 : Canonical s1 := h
    have hs2 : Canonical s2 := canonical_ite (canonical_addCount hs1) hs1
    split
    · exact hs2
    · exact canonical_addDeferred (canonical_slotSub hs2)

theorem canonical_execRequestLost {s : State} (h : Canonical s) : Answers (execRequestLost s) := by
  unfold execRequestLost
  split
  · exact answers_next (canonical_ite (canonical_loseRequest h) h)
  · exact answers_next h

/-! ## Readiness (R27, R28) -/

theorem canonical_setReady {s : State} {k : Nat} {v : Bool} (h : Canonical s) : Canonical (setReady s k v) := by
  unfold setReady
  split
  · exact h
  · exact canonical_foldl (fun _ _ => canonical_noteEvent) h

theorem canonical_execFunctionReady {s : State} (h : Canonical s) : Answers (execFunctionReady s) := by
  unfold execFunctionReady
  split
  · exact answers_next (canonical_ite (canonical_setReady h) h)
  · exact answers_next h

/-! ## Slices (R349, R356-R358) -/

theorem canonical_sliceEvent {s : State} {part : Nat} (h : Canonical s) : Canonical (sliceEvent s part) :=
  canonical_foldl (fun _ _ => canonical_noteEvent) h

theorem canonical_nextPage {s : State} {part : Nat} (h : Canonical s) : Canonical (nextPage s part) := canonical_schedule (canonical_freshNat h)

theorem canonical_startMove {s : State} {part j k : Nat} {host : Bool} (h : Canonical s) : Canonical (startMove s part j k host) :=
  canonical_nextPage h

theorem canonical_copyRetired {s : State} (h : Canonical s) : Canonical (copyRetired s) := by
  unfold copyRetired
  refine canonical_foldl ?_ h
  intro a _ h1
  split
  · exact h1
  · split
    · exact canonical_startMove h1
    · exact h1

theorem canonical_pageNew {s : State} {part : Nat} {m : SliceMove} (h : Canonical s) : Canonical (pageNew s part m) := by
  unfold pageNew
  extract_lets +onlyGivenNames at_ s1 s2
  have hs2 : Canonical s2 := (canonical_copyPage h)
  exact canonical_ite (canonical_nextPage hs2) (canonical_schedule hs2)

theorem canonical_execMovePageNew {s : State} (h : Canonical s) : Answers (execMovePageNew s) := by
  unfold execMovePageNew
  split
  · split
    · exact answers_next (canonical_ite (canonical_pageNew h) h)
    · exact answers_next h
  · exact answers_next h

theorem canonical_endSliceMove {s : State} {part : Nat} {m : SliceMove} (h : Canonical s) : Canonical (endSliceMove s part m) :=
  canonical_copyRetired (canonical_sliceEvent (clear_wf _ _ h))

theorem canonical_execSliceMoveComplete {s : State} (h : Canonical s) : Answers (execSliceMoveComplete s) := by
  unfold execSliceMoveComplete
  split
  · split
    · exact answers_next (canonical_ite (canonical_endSliceMove h) h)
    · exact answers_next h
  · exact answers_next h

/-! ## Guaranteed minima (R433) -/

theorem canonical_retireReport {s : State} {fn gen handle what number lost : Nat} (h : Canonical s) :
    Canonical (retireReport s fn gen handle what number lost) := canonical_postReport h

theorem canonical_tellVfs {s : State} {part what number : Nat} (h : Canonical s) : Canonical (tellVfs s part what number) :=
  canonical_foldl (fun _ _ => canonical_retireReport) h

theorem canonical_takeSlice {s : State} {p : Nat} (h : Canonical s) : Canonical (takeSlice s p) := by
  unfold takeSlice
  split
  · exact h
  · exact canonical_tellVfs (canonical_sliceEvent h)

theorem canonical_withdraw {s : State} {p : Nat} (h : Canonical s) : Canonical (withdraw s p) :=
  canonical_tellVfs (canonical_postEvent (canonical_freshNat h))

theorem canonical_meetMinima {n : Nat} {s : State} (h : Canonical s) : Canonical (meetMinima n s) := by
  induction n generalizing s with
  | zero => exact h
  | succ n ih =>
    unfold meetMinima
    extract_lets room sum short unmet give
    clear_value give
    split
    · exact ih (canonical_takeSlice h)
    · split
      · exact h
      · split
        · exact ih (canonical_withdraw h)
        · exact h

theorem canonical_disableEmpty {s : State} (h : Canonical s) : Canonical (disableEmpty s) :=
  canonical_foldl (fun _ _ h1 => canonical_ite (canonical_tellVfs h1) h1) h

theorem canonical_checkMinima {s : State} (h : Canonical s) : Canonical (checkMinima s) := canonical_disableEmpty (canonical_meetMinima h)

/-! ## Retirement (R349, R432) -/

theorem canonical_dropWork {s : State} {l : Nat} (h : Canonical s) : Canonical (dropWork s l) := canonical_foldl (fun _ _ => canonical_stopCmd) h

theorem canonical_retireCluster {s : State} {c : Nat} (h : Canonical s) : Canonical (retireCluster s c) := by
  unfold retireCluster
  refine canonical_checkMinima ?_
  refine canonical_foldl ?_ (canonical_setReady h)
  intro a _ h1
  split
  · exact h1
  · exact canonical_endLaunch (canonical_dropWork (canonical_retireReport h1))

theorem canonical_retirePair {s : State} {q : Nat} (h : Canonical s) : Canonical (retirePair s q) :=
  canonical_copyRetired (canonical_checkMinima (canonical_foldl (fun _ _ => canonical_tellVfs) h))

/-! ## Commands (R348-R350, R358) -/

theorem canonical_finishCmd {s : State} {fn result : Nat} (h : Canonical s) : Canonical (finishCmd s fn result) := canonical_modFn h

theorem canonical_pfCommand {op : Nat} {s : State} {act : State → State} (h : Canonical s)
    (hact : ∀ (a : State), Canonical a → Canonical (act a)) : Canonical (pfCommand op s act) := by
  unfold pfCommand
  split
  · exact canonical_ite h (canonical_ite (hact _ h) (canonical_finishCmd h))
  · exact h

theorem canonical_vfCommand {op : Nat} {s : State} {act : State → Nat → State} (h : Canonical s)
    (hact : ∀ (a : State) (a_1 : Nat), Canonical a → Canonical (act a a_1)) : Canonical (vfCommand op s act) := by
  unfold vfCommand
  split
  · exact canonical_ite h (canonical_ite (canonical_finishCmd h) (hact _ _ h))
  · exact h

theorem canonical_moveSlice {s : State} (h : Canonical s) : Canonical (moveSlice s) := by
  unfold moveSlice
  extract_lets +onlyGivenNames fn j p
  split
  · exact canonical_finishCmd h
  · split
    · exact canonical_finishCmd h
    · split
      · exact canonical_finishCmd (canonical_startMove h)
      · exact canonical_finishCmd h

theorem canonical_retireCmd {kind limit : Nat} {done : State → Nat → Bool} {act : State → Nat → State} {s : State}
    (hact : ∀ (a : State) (a_1 : Nat), Canonical a → Canonical (act a a_1)) (h : Canonical s) : Canonical (retireCmd kind limit done act s) := by
  unfold retireCmd
  extract_lets +onlyGivenNames n
  split
  · exact canonical_finishCmd h
  · exact canonical_ite (canonical_finishCmd h) (canonical_finishCmd (hact _ _ h))

theorem canonical_copyCounts {s : State} (h : Canonical s) : Canonical (copyCounts s) := canonical_modFn h

theorem canonical_execCounts {s : State} (h : Canonical s) : Answers (execCounts s) :=
  answers_next (canonical_pfCommand h (fun _ h1 => canonical_ite h1 (canonical_finishCmd (canonical_copyCounts h1))))

theorem canonical_execCountsClear {s : State} (h : Canonical s) : Answers (execCountsClear s) := by
  unfold execCountsClear
  refine answers_next ?_
  refine canonical_pfCommand h ?_
  intro a h1
  split
  · extract_lets +onlyGivenNames x
    have hx : Canonical x := canonical_finishCmd (canonical_copyCounts h1)
    exact hx
  · exact h1

/-! ## Module reset (R355) -/

theorem canonical_resetModule {s : State} {verified : Bool} {owner : Nat} {bytes : List Byte} (h : Canonical s) :
    Canonical (resetModule s verified owner bytes) := by
  unfold resetModule
  extract_lets s1
  have hs1 : Canonical s1 := canonical_afterReset h
  clear_value s1
  split
  · exact hs1
  · exact canonical_copyRetired (canonical_checkMinima (canonical_of_mem (s := s1) rfl hs1))

theorem canonical_execModuleReset {s : State} (h : Canonical s) : Answers (execModuleReset s) := by
  unfold execModuleReset
  split
  · exact answers_next (canonical_resetModule h)
  · exact answers_next h

/-! ## Storage -/

theorem canonical_storageReport {s : State} {gen where_ number addr : Nat} (h : Canonical s) :
    Canonical (storageReport s gen where_ number addr) := by
  unfold storageReport
  split
  · exact h
  · exact canonical_postReport h

theorem canonical_failReplays {s : State} {hit : Launch → Nat → Bool} (h : Canonical s) : Canonical (failReplays s hit) :=
  canonical_foldl (fun _ _ => canonical_replayMismatch) h

theorem canonical_poisonWord {s : State} {core acc addr : Nat} (h : Canonical s) : Canonical (poisonWord s core acc addr) := by
  unfold poisonWord
  extract_lets +onlyGivenNames a add s1 s2
  have hs1 : Canonical s1 := canonical_modCore h
  have hs2 : Canonical s2 := by
    dsimp only [s2]
    split
    · exact canonical_storageReport hs1
    · exact hs1
  exact canonical_failReplays hs2

theorem canonical_execStoreUncorrectable {s : State} (h : Canonical s) : Answers (execStoreUncorrectable s) := by
  unfold execStoreUncorrectable
  split
  · exact answers_next (canonical_ite (canonical_poisonWord h) h)
  · exact h

theorem canonical_countPair {s : State} {q : Nat} (h : Canonical s) : Canonical (countPair s q) := by
  unfold countPair
  extract_lets +onlyGivenNames t recent s1
  have hs1 : Canonical s1 := canonical_addCount h
  exact canonical_ite (canonical_retirePair hs1) hs1

theorem canonical_addRound {s : State} {id : Nat} (h : Canonical s) : Canonical (addRound s id) := h

theorem canonical_cacheError {s : State} {hbm addr gen id : Nat} (h : Canonical s) : Canonical (cacheError s hbm addr gen id) := by
  unfold cacheError
  extract_lets +onlyGivenNames p line dirty
  split
  · exact canonical_failReplays (canonical_countPair (canonical_storageReport (canonical_poisonPlace h)))
  · split
    · exact canonical_failReplays (canonical_storageReport (canonical_poisonPlace h))
    · exact canonical_storageReport (canonical_addRound h)

theorem canonical_execCacheHbmError {s : State} (h : Canonical s) : Answers (execCacheHbmError s) := by
  unfold execCacheHbmError
  split
  · exact answers_next (canonical_cacheError h)
  · exact answers_next h

theorem canonical_execCorrectedError {s : State} (h : Canonical s) : Answers (execCorrectedError s) := by
  unfold execCorrectedError
  split
  · exact answers_next (canonical_ite (canonical_addCount h) h)
  · exact answers_next h

theorem canonical_execClusterControlError {s : State} (h : Canonical s) : Answers (execClusterControlError s) := by
  unfold execClusterControlError
  split
  · exact answers_next (canonical_ite (canonical_retireCluster h) h)
  · exact answers_next h

/-! ## The host link (R437) -/

theorem canonical_failHostRead {s : State} {id cause : Nat} (h : Canonical s) : Canonical (failHostRead s id cause) := by
  unfold failHostRead
  split
  · exact h
  · split
    · exact h
    · exact canonical_returnReq (canonical_hostReport h)

theorem canonical_execHostReadFailure {s : State} (h : Canonical s) : Answers (execHostReadFailure s) := by
  unfold execHostReadFailure
  split
  · exact answers_next (canonical_failHostRead h)
  · exact answers_next h

theorem canonical_execHostCompletionTimeout {s : State} (h : Canonical s) : Answers (execHostCompletionTimeout s) := by
  unfold execHostCompletionTimeout
  split
  · exact answers_next (canonical_ite (canonical_failHostRead h) h)
  · exact answers_next h

theorem canonical_dropLink {s : State} (h : Canonical s) : Canonical (dropLink s) :=
  canonical_foldl (fun _ _ => canonical_queueError) (canonical_foldl (fun _ _ => canonical_failHostRead) h)

theorem canonical_execFailedPostedWrite {s : State} (h : Canonical s) : Answers (execFailedPostedWrite s) := by
  unfold execFailedPostedWrite
  split
  · split
    · exact answers_next (canonical_hostReport h)
    · exact answers_next h
  · exact answers_next h

/-! ## Parks and waits -/

theorem canonical_execRunParkEnd {s : State} (h : Canonical s) : Answers (execRunParkEnd s) := by
  unfold execRunParkEnd
  split
  · exact answers_next (canonical_ite (canonical_endPark h) h)
  · exact answers_next h

theorem canonical_execWaitConditionMet {s : State} (h : Canonical s) : Answers (execWaitConditionMet s) := by
  unfold execWaitConditionMet
  split
  · exact answers_next (canonical_ite (canonical_endWait h) h)
  · exact answers_next h

theorem canonical_execWaitTimeout {s : State} (h : Canonical s) : Answers (execWaitTimeout s) := by
  unfold execWaitTimeout
  split
  · exact answers_next (canonical_ite (canonical_endWait h) h)
  · exact answers_next h

/-! ## Ejection and rejoin -/

theorem canonical_endHandover {s : State} {g : Gid} (h : Canonical s) : Canonical (endHandover s g) := by
  unfold endHandover
  split
  · exact h
  · split
    · split
      · exact canonical_startRun (canonical_modEj h)
      · exact h
    · exact h

theorem canonical_execEjectionHandoverEnd {s : State} (h : Canonical s) : Answers (execEjectionHandoverEnd s) := by
  unfold execEjectionHandoverEnd
  split
  · exact answers_next (canonical_endHandover h)
  · exact answers_next h

theorem canonical_execRejoinWritebackEnd {s : State} (h : Canonical s) : Answers (execRejoinWritebackEnd s) := by
  unfold execRejoinWritebackEnd
  split
  · exact answers_next (canonical_endWriteBack h)
  · exact answers_next h

theorem canonical_closeWindow {s : State} {c w : Nat} (h : Canonical s) : Canonical (closeWindow s c w) := by
  unfold closeWindow
  split
  · exact h
  · split
    · exact canonical_pumpRejoin (canonical_setStatus h)
    · exact h

theorem canonical_execRejoinWindowClose {s : State} (h : Canonical s) : Answers (execRejoinWindowClose s) := by
  unfold execRejoinWindowClose
  split
  · exact answers_next (canonical_ite (canonical_closeWindow h) h)
  · exact answers_next h

theorem canonical_raiseEjlim {s : State} {g : Gid} (h : Canonical s) : Canonical (raiseEjlim s g) := by
  unfold raiseEjlim
  split
  · exact canonical_trapNow h
  · exact h

theorem canonical_execEjlim {s : State} (h : Canonical s) : Answers (execEjlim s) := by
  unfold execEjlim
  split
  · exact answers_next (canonical_ite (canonical_raiseEjlim h) h)
  · exact answers_next h

/-! ## Bins (R49, R50, R386) -/

theorem canonical_execBinAged {s : State} (h : Canonical s) : Answers (execBinAged s) := by
  unfold execBinAged
  split
  · exact answers_next (canonical_ite (canonical_modCore h) h)
  · exact answers_next h

theorem canonical_execBinDraw {s : State} (h : Canonical s) : Answers (execBinDraw s) := by
  unfold execBinDraw
  split
  · exact answers_next (canonical_ite (canonical_drawBin h) h)
  · exact answers_next h

/-! ## A halt is accepted (R82) -/

theorem canonical_captureHalt {s : State} {l : Nat} (h : Canonical s) : Canonical (captureHalt s l) := by
  unfold captureHalt
  split
  · exact h
  · exact canonical_ite (canonical_capture h) (canonical_ite (canonical_modLaunch h) (canonical_replayMismatch h))

theorem canonical_haltCtx {s : State} {g : Nat} (h : Canonical s) : Canonical (haltCtx s g) := by
  unfold haltCtx
  split
  · exact h
  · exact canonical_foldl (fun _ _ => canonical_captureHalt) (canonical_modCtx h)

theorem canonical_haltFn {s : State} {fn : Nat} (h : Canonical s) : Canonical (haltFn s fn) := canonical_foldl (fun _ _ => canonical_haltCtx) h

theorem canonical_takeReplays {s : State} {g : Nat} (h : Canonical s) : Canonical (takeReplays s g) := by
  unfold takeReplays
  extract_lets +onlyGivenNames mine
  split
  · exact h
  · exact canonical_modCtx h

theorem canonical_applyHalts {s : State} (h : Canonical s) : Canonical (applyHalts s) := by
  unfold applyHalts
  extract_lets +onlyGivenNames due
  split
  · exact h
  · exact canonical_foldl (fun _ _ => canonical_unplan) (canonical_foldl (fun _ _ => canonical_takeReplays) h)

/-! ## Saving (R83) -/

theorem canonical_clearCore {s : State} {core : Nat} {us : List Nat} (h : Canonical s) : Canonical (clearCore s core us) := canonical_modCore h

theorem canonical_saveCtx {s : State} {g : Nat} (h : Canonical s) : Canonical (saveCtx s g) := by
  unfold saveCtx
  extract_lets +onlyGivenNames us cores images slots s1 s2 s3
  have hs2 : Canonical s2 := (canonical_foldl (fun _ _ => canonical_clearCore) h)
  exact canonical_modCtx (canonical_foldl (fun _ _ => canonical_unfuse) hs2)

/-! ## Resume (R85) -/

theorem canonical_restoreShare {s : State} {x : SavedCore} (h : Canonical s) : Canonical (restoreShare s x) := by
  unfold restoreShare
  extract_lets +onlyGivenNames put
  have hput : ∀ (fuse : Bool) (a : State) (c : ℕ), Canonical a → Canonical (put fuse a c) := by
    intro _ a _ h1
    exact canonical_modCore h1
  exact canonical_ite (canonical_foldl (fun _ _ => hput _ _ _) h) (hput _ _ _ h)

theorem canonical_restoreCore {f g : Nat → Nat} {pc : Pc → Pc} {s : State} {x : SavedCore} (h : Canonical s) :
    Canonical (restoreCore f g pc s x) := canonical_modCore (canonical_restoreShare h)

theorem canonical_ensureXlate {s : State} {v : View} {va : Nat} (h : Canonical s) : Canonical (ensureXlate s v va) := by
  unfold ensureXlate
  split
  · exact h
  · split
    · exact canonical_installXlate h
    · exact h

theorem canonical_reissue {s : State} {q : Req} (h : Canonical s) : Canonical (reissue s q) := by
  unfold reissue
  split
  · extract_lets +onlyGivenNames v s1 count s2 s3 s4
    have hs1 : Canonical s1 := canonical_foldl (fun _ _ => canonical_foldl (fun _ _ => canonical_ensureXlate)) h
    have hs2 : Canonical s2 := by
      dsimp only [s2]
      split
      · exact canonical_slotSub hs1
      · exact hs1
    have hs4 : Canonical s4 := canonical_modWarp (canonical_doLoad hs2)
    split
    · exact canonical_modReq hs4
    · exact hs4
  · exact h

theorem canonical_waitReissued {s : State} {g : Gid} (h : Canonical s) : Canonical (waitReissued s g) := canonical_ite h (canonical_modRun h)

theorem canonical_putReturn {f : Nat → Nat} {s : State} {q : Req} (h : Canonical s) : Canonical (putReturn f s q) :=
  canonical_schedule (canonical_freshNat h)

theorem canonical_resumeCoreLehrs {s : State} {g core : Nat} (h : Canonical s) : Canonical (resumeCoreLehrs s g core) := by
  unfold resumeCoreLehrs
  extract_lets +onlyGivenNames mine
  clear_value mine
  split
  · exact h
  · extract_lets +onlyGivenNames names owned s1 at_ s2
    have hs2 : Canonical s2 := canonical_foldl (fun _ _ => canonical_modMat) (canonical_ite h (canonical_beginFirstUse h))
    exact canonical_foldl (fun _ _ => canonical_resumeLehrs) hs2

theorem canonical_resumeCtx {s : State} {g : Nat} (h : Canonical s) : Canonical (resumeCtx s g) := by
  unfold resumeCtx
  dsimp -zeta only
  split
  · exact h
  · extract_lets +onlyGivenNames us f ft pc s1 s2 s3 s4 s4b s5 s5b s6 s7 s8 s9
    have hs1 : Canonical s1 := canonical_foldl (fun _ _ => canonical_restoreCore) h
    have hs2 : Canonical s2 := canonical_foldl (fun _ _ => canonical_modPool) hs1
    have hs3 : Canonical s3 := hs2
    have hs4 : Canonical s4 := canonical_modCtx hs3
    have hs4b : Canonical s4b := hs4
    have hs5 : Canonical s5 := canonical_foldl (fun _ _ => canonical_reissue) hs4b
    have hs5b : Canonical s5b := canonical_foldl (fun _ _ => canonical_waitReissued) (canonical_foldl (fun _ _ => canonical_putReturn) hs5)
    have hs6 : Canonical s6 := canonical_foldl (fun _ _ => canonical_restartTransfer) hs5b
    have hs7 : Canonical s7 := canonical_foldl (fun _ _ => canonical_restart) hs6
    have hs8 : Canonical s8 := by
      refine canonical_foldl ?_ hs7
      intro a _ h1
      split
      · exact canonical_pumpRejoin h1
      · exact h1
    have hs9 : Canonical s9 := canonical_foldl (fun _ _ => canonical_resumeCoreLehrs) hs8
    exact canonical_foldl (fun _ _ => canonical_schedule) hs9

theorem canonical_execContextResume {s : State} (h : Canonical s) : Answers (execContextResume s) := by
  unfold execContextResume
  split
  · exact answers_next (canonical_ite (canonical_foldl (fun _ _ => canonical_resumeCtx) h) h)
  · exact answers_next h

/-! ## Policy, keys, reports (R345, R347, R348, R353, R354) -/

theorem canonical_setVf {s : State} {fn : Nat} {st : VfState} (h : Canonical s) : Canonical (setVf s fn st) :=
  canonical_ite h (canonical_noteEvent (canonical_noteEvent (canonical_modFn h)))

theorem canonical_reply {s : State} {fn : Nat} {bytes : List Byte} (h : Canonical s) : Canonical (reply s fn bytes) := canonical_modFn h

theorem canonical_submitPolicy {s : State} {fn : Nat} (h : Canonical s) : Canonical (submitPolicy s fn) := by
  unfold submitPolicy
  extract_lets +onlyGivenNames bytes
  dsimp -zeta only
  extract_lets +onlyGivenNames other
  split
  · exact canonical_finishCmd h
  · split
    · exact canonical_finishCmd h
    · split
      · exact canonical_finishCmd h
      · extract_lets +onlyGivenNames s1
        have hs1 : Canonical s1 := canonical_modFn h
        exact canonical_finishCmd (canonical_ite (canonical_setVf hs1) hs1)

theorem canonical_attestTo {s : State} {fn : Nat} (h : Canonical s) : Canonical (attestTo s fn) :=
  canonical_finishCmd (canonical_modFn (canonical_reply (canonical_freshNat h)))

theorem canonical_execAttest {s : State} (h : Canonical s) : Answers (execAttest s) := by
  unfold execAttest
  split
  · exact answers_next (canonical_ite (canonical_attestTo h) h)
  · exact answers_next h

theorem canonical_deliverKeys {s : State} {fn : Nat} (h : Canonical s) : Canonical (deliverKeys s fn) := by
  unfold deliverKeys
  extract_lets +onlyGivenNames bytes
  split
  · exact canonical_finishCmd h
  · split
    · exact canonical_finishCmd h
    · split
      · exact canonical_finishCmd h
      · split
        · exact canonical_finishCmd (canonical_modFn h)
        · exact canonical_finishCmd h

theorem canonical_openHandle {s : State} {fn : Nat} (h : Canonical s) : Canonical (openHandle s fn) := by
  unfold openHandle
  extract_lets +onlyGivenNames h1
  split
  · exact canonical_finishCmd (canonical_reply h)
  · exact canonical_finishCmd (canonical_reply h)
  · exact canonical_finishCmd h

theorem canonical_execUnknownCommand {s : State} (h : Canonical s) : Answers (execUnknownCommand s) := by
  unfold execUnknownCommand
  split
  · exact answers_next (canonical_ite (canonical_finishCmd h) h)
  · exact answers_next h

/-! ## Placing and pausing (R352) -/

theorem canonical_placeFn {s : State} {v : Nat} (h : Canonical s) : Canonical (placeFn s v) := canonical_setVf (canonical_modFn (canonical_modFe h))

theorem canonical_finishPause {s : State} {u : Nat} (h : Canonical s) : Canonical (finishPause s u) :=
  canonical_setVf (canonical_modFe (canonical_modFn (canonical_foldl (fun _ _ => canonical_saveCtx) h)))

theorem canonical_vfNamed {act : State → Nat → State} {s : State} (hact : ∀ (a : State) (a_1 : Nat), Canonical a → Canonical (act a a_1))
    (h : Canonical s) : Canonical (vfNamed act s) := canonical_ite (canonical_finishCmd h) (canonical_ite (canonical_finishCmd h) (hact _ _ h))

theorem canonical_scheduleVf {s : State} {v : Nat} (h : Canonical s) : Canonical (scheduleVf s v) := by
  unfold scheduleVf
  split
  · split
    · exact h
    · exact canonical_haltFn h
  · exact canonical_placeFn h

theorem canonical_schedCmd {s : State} {v : Nat} (h : Canonical s) : Canonical (schedCmd s v) :=
  canonical_ite (canonical_finishCmd h) (canonical_scheduleVf h)

theorem canonical_pauseCmd {s : State} {v : Nat} (h : Canonical s) : Canonical (pauseCmd s v) := by
  unfold pauseCmd
  split
  · exact canonical_haltFn h
  · exact canonical_finishCmd h
  · exact canonical_finishCmd h

theorem canonical_pfEnd {s : State} {b : Nat × Nat} (h : Canonical s) : Canonical (pfEnd s b) := by
  unfold pfEnd
  extract_lets +onlyGivenNames s1 s2 s3
  have hs1 : Canonical s1 := h
  have hs2 : Canonical s2 := by
    dsimp only [s2]
    split
    · exact canonical_foldl (fun _ _ => canonical_saveCtx) hs1
    · exact canonical_ite (canonical_finishPause hs1) hs1
  have hs3 : Canonical s3 := by
    dsimp only [s3]
    split
    · exact canonical_placeFn hs2
    · exact hs2
  exact canonical_ite (canonical_finishCmd hs3) hs3

theorem canonical_execCrucibleCommandDone {s : State} (h : Canonical s) : Answers (execCrucibleCommandDone s) := by
  unfold execCrucibleCommandDone
  refine answers_next ?_
  split
  · exact canonical_pfEnd h
  · exact h

theorem canonical_forceHalts {s : State} (h : Canonical s) : Canonical (forceHalts s) := by
  unfold forceHalts
  refine canonical_foldl ?_ h
  intro a _ h1
  exact canonical_haltFn h1

/-! ## What a VF leaves behind (R352) -/

theorem canonical_cancelTaken {s : State} {fn : Nat} (h : Canonical s) : Canonical (cancelTaken s fn) :=
  canonical_foldl (fun _ _ => canonical_foldl (fun _ _ h2 => canonical_schedule (canonical_modCq h2))) h

theorem canonical_removeCtxs {s : State} {fn : Nat} {gens : List Nat} (h : Canonical s) : Canonical (removeCtxs s fn gens) :=
  canonical_foldl (fun _ _ => canonical_purgeTag) h

/-! ## KILL (R352) -/

theorem canonical_zeroArea {s : State} {gen : Nat} (h : Canonical s) : Canonical (zeroArea s gen) := canonical_foldl (fun _ _ => canonical_zeroPage) h

theorem canonical_zeroCore {s : State} {us : List Nat} {core : Nat} (h : Canonical s) : Canonical (zeroCore s us core) := by
  unfold zeroCore
  extract_lets +onlyGivenNames phys s1
  have hs1 : Canonical s1 := canonical_foldl (fun _ _ => canonical_zeroGranule) (canonical_clearCore h)
  exact canonical_ite (canonical_setPlanes hs1) hs1

theorem canonical_killLaunch {s : State} {l : Nat} (h : Canonical s) : Canonical (killLaunch s l) := by
  unfold killLaunch
  split
  · exact h
  · exact canonical_ite h (canonical_memberDone (canonical_rememberEnd (canonical_modLaunch h)))

theorem canonical_discard {s : State} {v : Nat} (h : Canonical s) : Canonical (Machine.discard s v) := by
  unfold Machine.discard
  extract_lets +onlyGivenNames -underBinder gens us p s1 s2 s3 s4 s5 s6
  have hs1 : Canonical s1 := canonical_foldl (fun _ _ ha => canonical_killLaunch ha) (canonical_setVf h)
  have hs2 : Canonical s2 := canonical_foldl (fun _ _ ha => canonical_zeroCore ha) hs1
  have hs3 : Canonical s3 := hs2
  have hs4 : Canonical s4 := canonical_cancelTaken (canonical_removeCtxs (canonical_foldl (fun _ _ ha => canonical_zeroArea ha) hs3))
  have hs5 : Canonical s5 := canonical_foldl (fun _ _ ha => canonical_unfuse ha) hs4
  have hs6 : Canonical s6 := by
    dsimp only [s6]
    split
    · exact canonical_modFe hs5
    · exact hs5
  clear_value s6
  exact hs6

theorem canonical_killCmd {s : State} {v : Nat} (h : Canonical s) : Canonical (killCmd s v) := canonical_finishCmd (canonical_discard h)

/-! ## EVICT (R352) -/

theorem canonical_spillCore {gen : Nat} {s : State} {core : Nat} (h : Canonical s) : Canonical (spillCore gen s core) := by
  unfold spillCore
  extract_lets +onlyGivenNames a m
  have ha : Canonical a.s := canonical_spillGranules h
  have hm : Canonical m.s := by
    dsimp only [m]
    split
    · split
      · exact canonical_setPlanes (canonical_spillPlanes ha)
      · exact ha
    · exact ha
  exact canonical_foldl (fun _ _ => canonical_haltForImages) hm

theorem canonical_evictVf {s : State} {v : Nat} (h : Canonical s) : Canonical (evictVf s v) := by
  unfold evictVf
  extract_lets +onlyGivenNames gens
  dsimp -zeta only
  extract_lets +onlyGivenNames s1 b s2 s3
  have hs1 : Canonical s1 := canonical_foldl (fun _ _ => canonical_foldl (fun _ _ => canonical_spillCore)) (canonical_freshNat h)
  exact canonical_reply (canonical_modFn (canonical_removeCtxs (canonical_setVf (canonical_ite (canonical_writePlace hs1) hs1))))

theorem canonical_evictCmd {s : State} {v : Nat} (h : Canonical s) : Canonical (evictCmd s v) := by
  unfold evictCmd
  extract_lets +onlyGivenNames allowed
  split
  · exact canonical_finishCmd h
  · exact canonical_ite (canonical_finishCmd h) (canonical_finishCmd (canonical_evictVf h))

/-! ## RESUME (R352) -/

theorem canonical_resealCtx {s : State} {g : Nat} (h : Canonical s) : Canonical (resealCtx s g) := by
  unfold resealCtx
  split
  · exact h
  · extract_lets +onlyGivenNames s1
    have hs1 : Canonical s1 := canonical_foldl (fun _ _ => canonical_saveBlock) h
    exact canonical_foldl (fun _ _ => canonical_foldl (fun _ _ => canonical_saveBlock)) hs1

theorem canonical_restoreBlob {s : State} {b : Blob} {tags : List (Nat × Nat)} (h : Canonical s) : Canonical (restoreBlob s b tags) := by
  unfold restoreBlob
  extract_lets tag keyid s1 s2 s3 s4 s5
  have hs2 : Canonical s2 := canonical_foldl (fun _ _ ha => canonical_modEngine ha) (show Canonical s1 from h)
  have hs3 : Canonical s3 := canonical_foldl (fun _ _ ha => canonical_modCore ha) hs2
  have hs5 : Canonical s5 := by
    refine canonical_foldl (fun a area ha => ?_) (canonical_modFn hs3)
    dsimp only
    split
    next t ok => exact canonical_vwrite ha ok
    next => exact ha
  exact canonical_foldl (fun _ _ ha => canonical_resealCtx ha) hs5

theorem canonical_resumeCmd {s : State} {v : Nat} (h : Canonical s) : Canonical (resumeCmd s v) := by
  unfold resumeCmd
  extract_lets +onlyGivenNames addr
  split
  · exact canonical_finishCmd h
  · split
    · exact canonical_finishCmd h
    · extract_lets +onlyGivenNames tags
      split
      · exact canonical_finishCmd h
      · exact canonical_ite (canonical_finishCmd h) (canonical_scheduleVf (canonical_restoreBlob h))

theorem canonical_execMode {m : BitVec 2} {sw : BitVec 1} {s : State} (h : Canonical s) : Answers (execMode m sw s) := by
  unfold execMode
  refine canonical_issue h ?_
  intro a _ h1
  refine canonical_plain ?_ h1
  intro a1 _ h2
  exact canonical_foldl (fun _ _ => canonical_modThr) (canonical_modRun h2)

theorem canonical_writeK {s : State} {v : View} {d : BitVec 6} {x : DWord} (h : Canonical s) : Canonical (writeK s v d x) := canonical_pendK h

theorem canonical_loadLaneWord {k : BitVec 6} {x lane : Nat} {s : State} {v : View} (h : Canonical s) :
    CanonicalDid (loadLaneWord k x lane s v) := by
  unfold loadLaneWord
  split
  · exact canonical_trap
  · exact canonical_done (canonical_writeK h)

theorem canonical_execKldLane {n : BitVec 5} {k : BitVec 6} {x : BitVec 7} {sw : BitVec 1} {s : State} (h : Canonical s) :
    Answers (execKldLane n k x sw s) := canonical_issue h (fun _ _ => canonical_loadLaneWord)

theorem canonical_execKli {i : BitVec 16} {h : BitVec 2} {d : BitVec 6} {sw : BitVec 1} {s : State} (hs : Canonical s) :
    Answers (execKli i h d sw s) := canonical_issue hs (fun _ _ => canonical_plain (fun _ _ => canonical_writeK))

/-! ## Who issues -/

theorem canonical_begun {s : State} {g : Gid} {v : View} (h : Canonical s) : Canonical (begun s g v) := canonical_icacheUse h

/-! ## The next cycle -/

theorem canonical_askHost {s : State} (h : Canonical s) : Canonical (askHost s) :=
  canonical_foldl (fun _ _ h1 => canonical_ite h1 (canonical_freshNat h1)) h

theorem canonical_endCycle {s : State} (h : Canonical s) : Canonical (endCycle s) := by
  unfold endCycle
  extract_lets +onlyGivenNames s1
  have hs1 : Canonical s1 := canonical_actTransfers (canonical_actEngines (canonical_actArray h))
  refine canonical_askHost ?_
  refine canonical_foldl (fun _ _ => canonical_leaseAtGbar) ?_
  exact canonical_storeHeld (canonical_releaseFills (canonical_releaseHolds hs1))

theorem canonical_landFree {s : State} {g : Gid} (h : Canonical s) : Canonical (landFree s g) := by
  unfold landFree
  split
  · exact canonical_ite h (canonical_landGroup h)
  · exact h

theorem canonical_tickCycle {s : State} (h : Canonical s) : Canonical (tickCycle s) := by
  unfold tickCycle
  extract_lets +onlyGivenNames s0 s1 s2 s3 s4
  have hs0 : Canonical s0 := canonical_endCycle h
  have hs1 : Canonical s1 := canonical_engineStores (canonical_actTransfers (canonical_actApers (canonical_forceHalts hs0)))
  have hs2 : Canonical s2 := canonical_foldl (fun _ _ => canonical_landFree) (canonical_applyHalts hs1)
  have hs3 : Canonical s3 := canonical_foldl (fun _ _ => canonical_landUnit) hs2
  exact canonical_foldl (fun _ _ => canonical_replayMismatch) (canonical_foldl (fun _ _ => canonical_sampleWait) hs3)

end Sys2Proof
end

section
/-! What a step runs keeps the memory of the module canonical. -/
namespace Sys2Proof
open Machine

/-- Every encoding and every event answers a state with a canonical memory, where it answers a state. -/
theorem canonical_exec {s : State} (h : Canonical s) : ∀ i, Answers (exec i s)
  | .mov .. => canonical_issue h (fun _ _ => canonical_plain (fun _ _ => canonical_unary))
  | .li5 .. => canonical_issue h (fun _ _ => canonical_plain (fun _ _ => canonical_writeLanes))
  | .add16 .. => canonical_issue h (fun _ _ => canonical_plain (fun _ _ => canonical_binary))
  | .sub16 .. => canonical_issue h (fun _ _ => canonical_plain (fun _ _ => canonical_binary))
  | .mul16 .. => canonical_issue h (fun _ _ => canonical_plain (fun _ _ => canonical_binary))
  | .and16 .. => canonical_issue h (fun _ _ => canonical_plain (fun _ _ => canonical_binary))
  | .or16 .. => canonical_issue h (fun _ _ => canonical_plain (fun _ _ => canonical_binary))
  | .xor16 .. => canonical_issue h (fun _ _ => canonical_plain (fun _ _ => canonical_binary))
  | .shl16 .. => canonical_issue h (fun _ _ => canonical_plain (fun _ _ => canonical_unary))
  | .srl16 .. => canonical_issue h (fun _ _ => canonical_plain (fun _ _ => canonical_unary))
  | .sra16 .. => canonical_issue h (fun _ _ => canonical_plain (fun _ _ => canonical_unary))
  | .fadd16 .. => canonical_issue h (fun _ _ => canonical_plain (fun _ _ => canonical_fpBinary))
  | .fsub16 .. => canonical_issue h (fun _ _ => canonical_plain (fun _ _ => canonical_fpBinary))
  | .fmul16 .. => canonical_issue h (fun _ _ => canonical_plain (fun _ _ => canonical_fpBinary))
  | .fmax16 .. => canonical_issue h (fun _ _ => canonical_plain (fun _ _ => canonical_fpBinary))
  | .fmin16 .. => canonical_issue h (fun _ _ => canonical_plain (fun _ _ => canonical_fpBinary))
  | .nop .. => canonical_issue h (fun _ _ => canonical_done)
  | .exit => canonical_issue h (fun _ _ => canonical_done)
  | .yield => canonical_issue h (fun _ _ => canonical_done)
  | .ret => canonical_execRet h
  | .trl .. => canonical_issue h (fun _ _ => canonical_plain (fun _ _ => canonical_modRun))
  | .rjn .. => canonical_execRjn h
  | .brk .. => canonical_issue h (fun _ _ _ => canonical_trap)
  | .halt => canonical_issue h (fun _ _ _ => canonical_trap)
  | .br .. => canonical_issue h (fun _ _ => canonical_branchAll)
  | .brp .. => canonical_issue h (fun _ _ => canonical_branchOn)
  | .brpF .. => canonical_issue h (fun _ _ => canonical_branchOn)
  | .call .. => canonical_issue h (fun _ _ h1 => canonical_goTo (canonical_pushReturn h1))
  | .brx .. => canonical_execBrx h
  | .callx .. => canonical_execCallx h
  | .rfm .. => canonical_issue h (fun _ _ h1 => canonicalDid_ite (canonical_done h1) (canonical_wait h1))
  | .waitAny .. => canonical_issue h (fun _ _ => canonical_done)
  | .waitAll .. => canonical_issue h (fun _ _ => canonical_done)
  | .barArv .. => canonical_execBarArv h
  | .barWt .. => canonical_execBarWt h
  | .barSyn .. => canonical_execBarSyn h
  | .gbar => canonical_execGbar h
  | .spawn .. => canonical_execSpawn h
  | .jdec .. => canonical_execJdec h
  | .cancel .. => canonical_issue h (fun _ _ => canonical_plain (fun _ _ => canonical_cancelNamed))
  | .rdsr .. => canonical_issue h (fun _ _ => canonical_plain (fun _ _ => canonical_writeLanes))
  | .wrsr .. => canonical_issue h (fun _ _ => canonical_plain (fun _ _ => canonical_pendWrites))
  | .mode .. => canonical_execMode h
  | .trap .. => canonical_issue h (fun _ _ _ => canonical_trap)
  | .tret => canonical_execTret h
  | .kadd .. => canonical_issue h (fun _ _ => canonical_plain (fun _ _ => canonical_writeK))
  | .ksub .. => canonical_issue h (fun _ _ => canonical_plain (fun _ _ => canonical_writeK))
  | .kmov .. => canonical_issue h (fun _ _ => canonical_plain (fun _ _ => canonical_writeK))
  | .kmovImm .. => canonical_issue h (fun _ _ => canonical_plain (fun _ _ => canonical_writeK))
  | .kshl .. => canonical_issue h (fun _ _ => canonical_plain (fun _ _ => canonical_writeK))
  | .kand .. => canonical_issue h (fun _ _ => canonical_plain (fun _ _ => canonical_writeK))
  | .kor .. => canonical_issue h (fun _ _ => canonical_plain (fun _ _ => canonical_writeK))
  | .kcmp .. => canonical_issue h (fun _ _ => canonical_plain (fun _ _ => canonical_writeK))
  | .kld .. => canonical_issue h (fun _ _ => canonical_loadLaneWord)
  | .kldLane .. => canonical_execKldLane h
  | .movk .. => canonical_issue h (fun _ _ => canonical_plain (fun _ _ => canonical_writeLanes))
  | .movkH .. => canonical_issue h (fun _ _ => canonical_plain (fun _ _ => canonical_writeLanes))
  | .kli .. => canonical_execKli h
  | .add .. => canonical_issue h (fun _ _ => canonical_plain (fun _ _ => canonical_binary))
  | .sub .. => canonical_issue h (fun _ _ => canonical_plain (fun _ _ => canonical_binary))
  | .and .. => canonical_issue h (fun _ _ => canonical_plain (fun _ _ => canonical_binary))
  | .or .. => canonical_issue h (fun _ _ => canonical_plain (fun _ _ => canonical_binary))
  | .xor .. => canonical_issue h (fun _ _ => canonical_plain (fun _ _ => canonical_binary))
  | .andn .. => canonical_issue h (fun _ _ => canonical_plain (fun _ _ => canonical_binary))
  | .min .. => canonical_issue h (fun _ _ => canonical_plain (fun _ _ => canonical_binary))
  | .max .. => canonical_issue h (fun _ _ => canonical_plain (fun _ _ => canonical_binary))
  | .shl .. => canonical_issue h (fun _ _ => canonical_plain (fun _ _ => canonical_binary))
  | .srl .. => canonical_issue h (fun _ _ => canonical_plain (fun _ _ => canonical_binary))
  | .sra .. => canonical_issue h (fun _ _ => canonical_plain (fun _ _ => canonical_binary))
  | .rol .. => canonical_issue h (fun _ _ => canonical_plain (fun _ _ => canonical_binary))
  | .mul .. => canonical_issue h (fun _ _ => canonical_plain (fun _ _ => canonical_binary))
  | .mulh .. => canonical_issue h (fun _ _ => canonical_plain (fun _ _ => canonical_binary))
  | .mulhn .. => canonical_issue h (fun _ _ => canonical_plain (fun _ _ => canonical_binary))
  | .abs .. => canonical_issue h (fun _ _ => canonical_plain (fun _ _ => canonical_unary))
  | .addi .. => canonical_issue h (fun _ _ => canonical_plain (fun _ _ => canonical_unary))
  | .andi .. => canonical_issue h (fun _ _ => canonical_plain (fun _ _ => canonical_unary))
  | .ori .. => canonical_issue h (fun _ _ => canonical_plain (fun _ _ => canonical_unary))
  | .xori .. => canonical_issue h (fun _ _ => canonical_plain (fun _ _ => canonical_unary))
  | .shli .. => canonical_issue h (fun _ _ => canonical_plain (fun _ _ => canonical_unary))
  | .srli .. => canonical_issue h (fun _ _ => canonical_plain (fun _ _ => canonical_unary))
  | .srai .. => canonical_issue h (fun _ _ => canonical_plain (fun _ _ => canonical_unary))
  | .li .. => canonical_issue h (fun _ _ => canonical_plain (fun _ _ => canonical_writeLanes))
  | .lih .. => canonical_issue h (fun _ _ => canonical_plain (fun _ _ => canonical_unary))
  | .icmpEq .. => canonical_issue h (fun _ _ => canonical_plain (fun _ _ => canonical_compare))
  | .icmpNe .. => canonical_issue h (fun _ _ => canonical_plain (fun _ _ => canonical_compare))
  | .icmpLt .. => canonical_issue h (fun _ _ => canonical_plain (fun _ _ => canonical_compare))
  | .icmpLe .. => canonical_issue h (fun _ _ => canonical_plain (fun _ _ => canonical_compare))
  | .icmpLtn .. => canonical_execIcmpLtn h
  | .icmpLen .. => canonical_execIcmpLen h
  | .sel .. => canonical_execSel h
  | .pand .. => canonical_issue h (fun _ _ => canonical_plain (fun _ _ => canonical_predOp))
  | .por .. => canonical_issue h (fun _ _ => canonical_plain (fun _ _ => canonical_predOp))
  | .pxor .. => canonical_issue h (fun _ _ => canonical_plain (fun _ _ => canonical_predOp))
  | .pnot .. => canonical_issue h (fun _ _ => canonical_plain (fun _ _ => canonical_predOp))
  | .pmov .. => canonical_issue h (fun _ _ => canonical_plain (fun _ _ => canonical_predOp))
  | .clz .. => canonical_issue h (fun _ _ => canonical_plain (fun _ _ => canonical_unary))
  | .popc .. => canonical_issue h (fun _ _ => canonical_plain (fun _ _ => canonical_unary))
  | .brev .. => canonical_issue h (fun _ _ => canonical_plain (fun _ _ => canonical_unary))
  | .bfe .. => canonical_issue h (fun _ _ => canonical_plain (fun _ _ => canonical_binary))
  | .bfi .. => canonical_issue h (fun _ _ => canonical_plain (fun _ _ => canonical_writeLanes))
  | .lea .. => canonical_issue h (fun _ _ => canonical_plain (fun _ _ => canonical_writeX))
  | .fadd .. => canonical_issue h (fun _ _ => canonical_plain (fun _ _ => canonical_fpBinary))
  | .fsub .. => canonical_issue h (fun _ _ => canonical_plain (fun _ _ => canonical_fpBinary))
  | .fmul .. => canonical_issue h (fun _ _ => canonical_plain (fun _ _ => canonical_fpBinary))
  | .fmin .. => canonical_issue h (fun _ _ => canonical_plain (fun _ _ => canonical_fpBinary))
  | .fmax .. => canonical_issue h (fun _ _ => canonical_plain (fun _ _ => canonical_fpBinary))
  | .fabs .. => canonical_issue h (fun _ _ => canonical_plain (fun _ _ => canonical_fpUnary))
  | .fneg .. => canonical_issue h (fun _ _ => canonical_plain (fun _ _ => canonical_fpUnary))
  | .fcmp .. => canonical_execFcmp h
  | .ffma .. => canonical_issue h (fun _ _ => canonical_plain (fun _ _ => canonical_fpFused))
  | .ffms .. => canonical_issue h (fun _ _ => canonical_plain (fun _ _ => canonical_fpFused))
  | .fnma .. => canonical_issue h (fun _ _ => canonical_plain (fun _ _ => canonical_fpFused))
  | .hadd2 .. => canonical_issue h (fun _ _ => canonical_plain (fun _ _ => canonical_packed))
  | .hmul2 .. => canonical_issue h (fun _ _ => canonical_plain (fun _ _ => canonical_packed))
  | .hfma2 .. => canonical_issue h (fun _ _ => canonical_plain (fun _ _ => canonical_packed))
  | .badd2 .. => canonical_issue h (fun _ _ => canonical_plain (fun _ _ => canonical_packed))
  | .bmul2 .. => canonical_issue h (fun _ _ => canonical_plain (fun _ _ => canonical_packed))
  | .bfma2 .. => canonical_issue h (fun _ _ => canonical_plain (fun _ _ => canonical_packed))
  | .cvt .. => canonical_execCvt h
  | .exp2 .. => canonical_issuePre h (fun _ _ => canonical_sfuWait) (fun _ _ => canonical_sfuOp)
  | .log2 .. => canonical_issuePre h (fun _ _ => canonical_sfuWait) (fun _ _ => canonical_sfuOp)
  | .rcp .. => canonical_issuePre h (fun _ _ => canonical_sfuWait) (fun _ _ => canonical_sfuOp)
  | .rsqrt .. => canonical_issuePre h (fun _ _ => canonical_sfuWait) (fun _ _ => canonical_sfuOp)
  | .sqrt .. => canonical_issuePre h (fun _ _ => canonical_sfuWait) (fun _ _ => canonical_sfuOp)
  | .tanh .. => canonical_issuePre h (fun _ _ => canonical_sfuWait) (fun _ _ => canonical_sfuOp)
  | .lgs .. => canonical_issuePre h (fun _ _ => canonical_sfuWait) (fun _ _ => canonical_sfuOp)
  | .gactLgs .. => canonical_issuePre h (fun _ _ => canonical_sfuWait) (fun _ _ => canonical_sfuOp)
  | .gactTanh .. => canonical_issuePre h (fun _ _ => canonical_sfuWait) (fun _ _ => canonical_sfuOp)
  | .gactAlgs .. => canonical_issuePre h (fun _ _ => canonical_sfuWait) (fun _ _ => canonical_sfuOp)
  | .frnd .. => canonical_issue h (fun _ _ => canonical_plain (fun _ _ => canonical_fpUnary))
  | .fcls .. => canonical_issue h (fun _ _ => canonical_plain (fun _ _ => canonical_fpUnary))
  | .fexp .. => canonical_issue h (fun _ _ => canonical_plain (fun _ _ => canonical_fpUnary))
  | .fscl .. => canonical_issue h (fun _ _ => canonical_plain (fun _ _ => canonical_fpBinary))
  | .shflIdx .. => canonical_issue h (fun _ _ => canonical_laneMove)
  | .shflUp .. => canonical_issue h (fun _ _ => canonical_laneMove)
  | .shflDown .. => canonical_issue h (fun _ _ => canonical_laneMove)
  | .shflXor .. => canonical_issue h (fun _ _ => canonical_laneMove)
  | .voteAny .. => canonical_issue h (fun _ _ => canonical_plain (fun _ _ => canonical_voteWrite))
  | .voteAll .. => canonical_issue h (fun _ _ => canonical_plain (fun _ _ => canonical_voteWrite))
  | .voteBal .. => canonical_issue h (fun _ _ => canonical_plain (fun _ _ => canonical_voteWrite))
  | .voteCnt .. => canonical_issue h (fun _ _ => canonical_plain (fun _ _ => canonical_voteWrite))
  | .voteMatch .. => canonical_issue h (fun _ _ => canonical_plain (fun _ _ => canonical_writeLanes))
  | .lredAdd .. => canonical_execLredAdd h
  | .lredMax .. => canonical_execLredMax h
  | .lredMin .. => canonical_execLredMin h
  | .lscanAddInc .. => canonical_execLscanAddInc h
  | .lscanAddExc .. => canonical_execLscanAddExc h
  | .lbc .. => canonical_issue h (fun _ _ => canonical_laneMove)
  | .ld .. => canonical_execLd h
  | .st .. => canonical_execSt h
  | .ldk .. => canonical_execLdk h
  | .stk .. => canonical_issue h (fun _ _ => canonical_storeItems)
  | .atomAdd .. => canonical_execAtomAdd h
  | .atomMin .. => canonical_execAtomMin h
  | .atomMax .. => canonical_execAtomMax h
  | .atomAnd .. => canonical_execAtomAnd h
  | .atomOr .. => canonical_execAtomOr h
  | .atomXor .. => canonical_execAtomXor h
  | .atomXchg .. => canonical_execAtomXchg h
  | .atomCas .. => canonical_execAtomCas h
  | .fenceAcq .. => canonical_execFenceAcq h
  | .fenceRel .. => canonical_execFenceRel h
  | .fenceAr .. => canonical_execFenceAr h
  | .fenceSc .. => canonical_execFenceSc h
  | .tget .. => canonical_execTget h
  | .tset .. => canonical_execTset h
  | .tdrn .. => canonical_execTdrn h
  | .tstat .. => canonical_execTstat h
  | .cpy .. => canonical_engineCmd h
  | .gth .. => canonical_engineCmd h
  | .sct .. => canonical_engineCmd h
  | .collSet .. => canonical_execCollSet h
  | .collRun .. => canonical_execCollRun h
  | .collStat .. => canonical_execCollStat h
  | .pfi .. => canonical_issue h (fun _ _ => canonical_plain (fun _ _ => canonical_doPfi))
  | .pfd .. => canonical_issue h (fun _ _ => canonical_plain (fun _ _ => canonical_doHint))
  | .dsc .. => canonical_issue h (fun _ _ => canonical_storeItems)
  | .lstu .. => canonical_execLstu h
  | .wbk .. => canonical_issue h (fun _ _ => canonical_plain (fun _ _ => canonical_doHint))
  | .ownreg .. => canonical_issue h (fun _ _ => canonical_registerRange)
  | .ownclr .. => canonical_issue h (fun _ _ => canonical_plain (fun _ _ h2 => canonical_ite h2 (canonical_modUnit h2)))
  | .rga .. => canonical_issue h (fun _ _ => canonical_plain (fun _ _ h2 => canonical_writeLanes (canonical_modWarp h2)))
  | .omld .. => canonical_execOmld h
  | .mld .. => canonical_execMld h
  | .mswp .. => canonical_execMswp h
  | .mswpRel .. => canonical_execMswpRel h
  | .mst .. => canonical_execMst h
  | .mdr .. => canonical_execMdr h
  | .mdrRed .. => canonical_execMdrRed h
  | .accget .. => canonical_execAccget h
  | .accgetW .. => canonical_execAccgetW h
  | .accput .. => canonical_execAccput h
  | .accz .. => canonical_execAccz h
  | .accld .. => canonical_execAccld h
  | .accst .. => canonical_execAccst h
  | .tmm .. => canonical_execTmm h
  | .tmmRed .. => canonical_execTmmRed h
  | .sbeg .. => canonical_execSbeg h
  | .scmt .. => canonical_issuePre h (fun _ _ => canonical_shadowPre) (fun _ _ => canonical_commit)
  | .sdis .. => canonical_execSdis h
  | .rmax .. => canonical_execRmax h
  | .rsum .. => canonical_execRsum h
  | .rvar .. => canonical_execRvar h
  | .rsmx .. => canonical_execRsmx h
  | .rnorm .. => canonical_execRnorm h
  | .illegalEncoding => canonical_execIllegalEncoding h
  | .ejectionHandoverEnd => canonical_execEjectionHandoverEnd h
  | .rejoinWritebackEnd => canonical_execRejoinWritebackEnd h
  | .rejoinWindowClose => canonical_execRejoinWindowClose h
  | .ejlim => canonical_execEjlim h
  | .binAged => canonical_execBinAged h
  | .binDraw => canonical_execBinDraw h
  | .waitConditionMet => canonical_execWaitConditionMet h
  | .waitTimeout => canonical_execWaitTimeout h
  | .runParkEnd => canonical_execRunParkEnd h
  | .fatalStop => canonical_execFatalStop h
  | .dumpWrite => canonical_execDumpWrite h
  | .joinDecrement => canonical_execJoinDecrement h
  | .unitPlace => canonical_execUnitPlace h
  | .compactionMove => canonical_execCompactionMove h
  | .compactionMoveEnd => canonical_execCompactionMoveEnd h
  | .demandFetch => canonical_execDemandFetch h
  | .icacheFillLand => canonical_execIcacheFillLand h
  | .translationWalkEnd => canonical_execTranslationWalkEnd h
  | .pageRequestResponse => canonical_execPageRequestResponse h
  | .loadReturn => answers_next (canonical_returnSubject h)
  | .storeAck => answers_next (canonical_returnSubject h)
  | .atomicComplete => answers_next (canonical_returnSubject h)
  | .requestLost => canonical_execRequestLost h
  | .engineReadsBegin => canonical_execEngineReadsBegin h
  | .engineTransferEnd => canonical_execEngineTransferEnd h
  | .completionWriteAck => canonical_execCompletionWriteAck h
  | .tileFillEnd => canonical_execTileFillEnd h
  | .tileDrainEnd => canonical_execTileDrainEnd h
  | .collSetResult => canonical_execCollSetResult h
  | .collSetMemberTimeout => canonical_execCollSetMemberTimeout h
  | .fabricReduce => canonical_execFabricReduce h
  | .collRunComplete => canonical_execCollRunComplete h
  | .fabricMessageReceive => canonical_execFabricMessageReceive h
  | .stationaryLoadComplete => canonical_execStationaryLoadComplete h
  | .planeSwap => canonical_execPlaneSwap h
  | .streamComplete => canonical_execStreamComplete h
  | .drainComplete => canonical_execDrainComplete h
  | .rowStatComplete => canonical_execRowStatComplete h
  | .lehrStep => canonical_execLehrStep h
  | .budgetRetry => canonical_execBudgetRetry h
  | .firstUseTrapReturn => canonical_execFirstUseTrapReturn h
  | .elasticGrant => canonical_execElasticGrant h
  | .elasticRefuse => canonical_execElasticRefuse h
  | .tailWrite => canonical_execTailWrite h
  | .packetTake => canonical_execPacketTake h
  | .pktLaunch => answers_next (canonical_startPacket h (fun _ _ _ _ _ _ => canonical_launchPacket))
  | .pktGraphSubmit => answers_next (canonical_startPacket h (fun _ _ _ _ _ _ => canonical_graphPacket))
  | .pktSignalSet => canonical_execPktSignalSet h
  | .pktSignalClear => canonical_execPktSignalClear h
  | .pktSignalPhase => canonical_execPktSignalPhase h
  | .pktSignalNothing => answers_next (canonical_startPacket h (fun _ _ _ _ _ _ => canonical_thenDone (fun _ _ _ _ _ _ h2 => h2)))
  | .pktCopy => answers_next (canonical_startPacket h (fun _ _ _ _ _ _ => canonical_copyPacket))
  | .pktCodeMove => answers_next (canonical_startPacket h (fun _ _ _ _ _ _ => canonical_copyPacket))
  | .pktCancel => canonical_execPktCancel h
  | .pktQuery => canonical_execPktQuery h
  | .packetComplete => canonical_execPacketComplete h
  | .evrbWrite => canonical_execEvrbWrite h
  | .invPage => canonical_execInvPage h
  | .invPasid => canonical_execInvPasid h
  | .invFunction => canonical_execInvFunction h
  | .invalidationDone => canonical_execInvalidationDone h
  | .atsInvalidationRequest => canonical_execAtsInvalidationRequest h
  | .cqdEnable => canonical_execCqdEnable h
  | .cqdDisable => canonical_execCqdDisable h
  | .ctxCreate => canonical_execCtxCreate h
  | .ctxDestroy => canonical_execCtxDestroy h
  | .contextDestroyDone => canonical_execContextDestroyDone h
  | .fwdRemove => canonical_execFwdRemove h
  | .routeWrite => canonical_execRouteWrite h
  | .routeTakeEffect => canonical_execRouteTakeEffect h
  | .registerWrite => canonical_execRegisterWrite h
  | .policy => answers_next (canonical_vfCommand h (fun _ _ => canonical_submitPolicy))
  | .attest => canonical_execAttest h
  | .keys => answers_next (canonical_vfCommand h (fun _ _ => canonical_deliverKeys))
  | .openCmd => answers_next (canonical_vfCommand h (fun _ _ => canonical_openHandle))
  | .sched => answers_next (canonical_pfCommand h (fun _ => canonical_vfNamed (fun _ _ => canonical_schedCmd)))
  | .pause => answers_next (canonical_pfCommand h (fun _ => canonical_vfNamed (fun _ _ => canonical_pauseCmd)))
  | .evict => answers_next (canonical_pfCommand h (fun _ => canonical_vfNamed (fun _ _ => canonical_evictCmd)))
  | .resume => answers_next (canonical_pfCommand h (fun _ => canonical_vfNamed (fun _ _ => canonical_resumeCmd)))
  | .contextResume => canonical_execContextResume h
  | .kill => answers_next (canonical_pfCommand h (fun _ => canonical_vfNamed (fun _ _ => canonical_killCmd)))
  | .move => answers_next (canonical_pfCommand h (fun _ => canonical_moveSlice))
  | .sliceMoveComplete => canonical_execSliceMoveComplete h
  | .retireCluster => answers_next (canonical_pfCommand h (fun _ => canonical_retireCmd (fun _ _ => canonical_retireCluster)))
  | .retireChannelPair => answers_next (canonical_pfCommand h (fun _ => canonical_retireCmd (fun _ _ => canonical_retirePair)))
  | .counts => canonical_execCounts h
  | .countsClear => canonical_execCountsClear h
  | .unknownCommand => canonical_execUnknownCommand h
  | .crucibleCommandDone => canonical_execCrucibleCommandDone h
  | .moduleReset => canonical_execModuleReset h
  | .functionReady => canonical_execFunctionReady h
  | .storeUncorrectable => canonical_execStoreUncorrectable h
  | .cacheHbmError => canonical_execCacheHbmError h
  | .correctedError => canonical_execCorrectedError h
  | .clusterControlError => canonical_execClusterControlError h
  | .hostReadFailure => canonical_execHostReadFailure h
  | .hostCompletionTimeout => canonical_execHostCompletionTimeout h
  | .linkDown => answers_next (canonical_dropLink h)
  | .linkReturn => answers_next h
  | .failedPostedWrite => canonical_execFailedPostedWrite h
  | .atsTranslationCompletion => canonical_execAtsTranslationCompletion h
  | .movePageNew => canonical_execMovePageNew h

theorem canonical_eventAction {s t : State} {i : Instr} (h : Canonical s) (next : eventAction s = some (i, t)) : Canonical t := by
  unfold eventAction at next
  split at next
  · cases next
    exact h
  · split at next
    · cases next
      exact h
    · obtain ⟨⟨j, x⟩, -, same⟩ := Option.map_eq_some_iff.mp next
      cases same
      exact h

theorem canonical_issueAction {s t : State} {g : Gid} {i : Instr} (h : Canonical s) (next : issueAction s g = some (i, t)) : Canonical t := by
  unfold issueAction at next
  split at next
  · nomatch next
  next v _ =>
    split at next
    · cases next
      exact h
    · split at next
      · cases next
        exact canonical_begun h
      · cases next
        exact canonical_begun h

theorem canonical_nextAction {s t : State} {i : Instr} (h : Canonical s) (next : nextAction s = some (i, t)) : Canonical t := by
  unfold nextAction at next
  split at next
  next a event => exact canonical_eventAction h (event.trans next)
  next =>
    obtain ⟨g, -, issues⟩ := Option.bind_eq_some_iff.mp next
    exact canonical_issueAction h issues

/-- Settles O59: what a step runs leaves the memory canonical, and so does the end of a cycle. -/
theorem memoryStaysCanonical : Obligations.MemoryStaysCanonical := by
  intro s t stepped wf
  have canonical : Canonical s := wf
  suffices kept : Canonical t from kept
  unfold step at stepped
  split at stepped
  next i u next =>
    have answered : Answers (exec i u) := canonical_exec (canonical_nextAction canonical next) i
    rw [stepped] at answered
    exact answered
  next =>
    have ticked : tickCycle s = t := Host.Outcome.next.inj stepped
    rw [← ticked]
    exact canonical_tickCycle canonical

end Sys2Proof
end
